-- ==== Sys2Proof/Word.lean ====
section
/-! DEFINITION. The word and byte types, and their plainest arithmetic. -/

namespace Sys2Proof

/-- A register word: registers are 32 bits wide (R9). -/
abbrev Word := BitVec 32

/-- A byte, the smallest unit that memory, frames and host data are made of. -/
abbrev Byte := BitVec 8

/-- A string of bytes, the first byte at the lowest address or first on the wire. -/
abbrev Bytes := List Byte

/-- A time of the free-running counter CNT or of the network clock, 64 bits. -/
abbrev DWord := BitVec 64

/-- Data that is sparse by key: key and value pairs, keys strictly rising in the canonical form. -/
abbrev Sparse (α : Type) := List (Nat × α)

end Sys2Proof
end

