-- ==== Sys2Proof/Syntax.lean ====
section
/-! DEFINITION. The commands the block takes: one constructor per row of the opcode table, with the data that the command or event carries. -/

namespace Sys2Proof

/-- Who makes a register access: the masters of ERR_CODE.SRC (R70). -/
inductive Master where
  | host
  | svc
  | lane (n : Fin 4)
  | porter (n : Fin 16)
  | block
  | rom
  deriving DecidableEq, Repr

/-- The register blocks of BAR0 (R65), one value per instance. -/
inductive Blk where
  | sys | rst | clk | pwr | pwt | mkt
  | lane (n : Fin 4)
  | que | chk | mem | nvs | emc
  | rad (n : Fin 4)
  | chn | lnk | bcn | ntm | cor | lvl
  | drv (n : Fin 4)
  | drg | scl | fsw | vlt | cry | ldg | ibg | fov | upd | mbx
  deriving DecidableEq, Repr

/-- A mailbox ring entry without its data: the 64 bytes of R73 as fields. -/
structure MbxEntry where
  opcode : Nat
  flags  : Nat
  tag    : Word
  length : Nat
  status : Nat
  addr   : DWord
  apply  : Word
  param  : Bytes
  deriving DecidableEq, Repr

/-- An error that the memory array shows in a codeword on a read (R128): confined to one symbol, in two symbols, or in three or more. -/
inductive CwErr where
  | one (symbol : Fin 36)
  | two
  | many
  deriving DecidableEq, Repr

/-- A read of a queue's head entry, with the error that the read meets in the store (R112, R116). -/
structure QueueRead where
  queue : Fin 16
  err   : Option CwErr
  deriving DecidableEq, Repr

/-- A place that a Porter transfer reads or writes (R138, R141). -/
inductive PorterLoc where
  | sram (a : Nat)
  | nvs (a : Nat)
  | dram (a : Nat)
  | boot (a : Nat)
  /-- Boot 2, write-protected at manufacture. -/
  | boot2 (a : Nat)
  /-- The replay-protected memory block. -/
  | rpmb (a : Nat)
  | user (a : Nat)
  /-- COR's SRAM at an offset from internal address 0x00_0900_0000: the two graph banks and the row buffer (R250). -/
  | cor (a : Nat)
  /-- The lanes' TCMs, at an offset from internal address 0x00_0800_0000: 0x2_0000 for each lane (R141). -/
  | tcm (a : Nat)
  /-- Host memory, with the bytes it holds where it is the source. -/
  | host (a : Nat) (data : Bytes)
  deriving DecidableEq, Repr

/-- A Porter transfer that ends: its channel, its two places, its length, the counter it names (0 for none), and the errors that have struck the store of its source, by byte address. -/
structure Porter where
  chan : Fin 16
  src  : PorterLoc
  dst  : PorterLoc
  len  : Nat
  ctr  : Nat
  errs : List (Nat × CwErr)
  deriving DecidableEq, Repr

/-- A host access through the BAR2 aperture (R61, R62). -/
inductive Bar2Access where
  /-- A read of `n` bytes at aperture offset `off`, with the errors that have struck the DRAM array, by byte address. -/
  | read (off n : Nat) (errs : List (Nat × CwErr))
  /-- A write of bytes at aperture offset `off`, likewise. -/
  | write (off : Nat) (data : Bytes) (errs : List (Nat × CwErr))
  deriving DecidableEq, Repr

/-- Where the Market places a ware: a stall slot of a lane, or the first waiting reader of a take port (R100). -/
inductive Consumer where
  | lane (n : Fin 4)
  | port (p : Fin 2)
  deriving DecidableEq, Repr

/-- Who writes a RETIRE word: a lane at its local word, or a master at RETIRE0 or RETIRE1 (R89). -/
inductive Retirer where
  | lane (n : Fin 4)
  | port (p : Fin 2) (m : Master)
  deriving DecidableEq, Repr

/-- The AES mode of ENCRYPT and DECRYPT (R386). -/
inductive AesMode where
  | ecb
  | cbc
  | ctr
  deriving DecidableEq, Repr

/-- Who asks for a vault service: the host by the mailbox command of a tag, or a master by a write of OP_CMD. -/
inductive VltReq where
  | mbx (tag : Word)
  | window (m : Master) (v : Word)
  deriving DecidableEq, Repr

/-- A JTAG instruction (R392). -/
inductive TapInstr where
  | idcode
  | bypass
  | other
  deriving DecidableEq, Repr

/-- An accepted frame as it reaches firmware or a block: the radio, the header with the plaintext payload, the bytes on air without FCS, the margin in dB, the time-stamp of its sync word (C_SYNC and PHASE of R229), and CNT at its verdict. -/
structure AirRx where
  radio   : Fin 4
  frame   : Bytes
  psdu    : Bytes
  margin  : Int
  sync    : DWord
  phase   : Nat
  verdict : DWord
  deriving DecidableEq, Repr

/-- What a sink's monitors give at a tick edge: the mean voltage over the lit counts of the tick just ended in 10 mV, the current in mA, the temperature in °C + 40 (R298, R300), and the voltages in 10 mV that the head has sampled of lit positions in ordinary frames (R303). -/
structure SinkMeas where
  volts : Nat
  ma    : Nat
  temp  : Nat
  vf    : List (Nat × Nat)
  deriving DecidableEq, Repr

/-- What one metering channel gives for the cycle that ends: whether a sample was beyond 110 % of full scale, and the DFT bins of the cycle at the pins in µV, as RMS phasors of real and imaginary part, the bin of harmonic h at position h (R310, R314). Bin 0 is the DC part. -/
structure ChanIn where
  clip : Bool
  bins : List (Int × Int)
  deriving DecidableEq, Repr, Inhabited

/-- What a self-check measures: the deviation of the spare's reference from its factory value in ppm, and the uncorrected RMS of the spare and of the channel in µV at the pins (R326). -/
structure CheckMeas where
  refPpm : Int
  spare  : Nat
  chan   : Nat
  deriving DecidableEq, Repr

/-- A request that comes as a register write of a master or as the mailbox command of a tag. -/
inductive Via where
  | reg (m : Master) (v : Word)
  | mbx (tag : Word)
  deriving DecidableEq, Repr

/-- The command set, in the order of the opcode table. -/
inductive Instr where

  /-- POWER_ON (R29). Valid supplies after power-on start the cold reset sequence from t = 0. -/
  | powerOn
  /-- VIN_BROWN_OUT (R471). VIN falls below the brown-out threshold and the module takes a cold reset with cause 0x2. -/
  | vinBrownOut (vinMv : Nat)
  /-- CORE_SUPPLY_FAULT (R40). A core rail fault causes a cold reset with cause 0x3 and the rail as source. -/
  | coreSupplyFault (rail : Fin 4)
  /-- MOD_RESET (R41). MOD_RESET_N held low long enough causes a complete warm reset with cause 0x4. -/
  | modReset (lowNs : Nat)
  /-- SW_RESET (R53). A keyed write to RST.SW_RESET starts a software reset with code 0x8. -/
  | swReset (m : Master) (v : Word)
  /-- PEWTER_INTEGRITY_CHECK (R347). At 2 ms after a start, the seal and root-secret CRC are checked and the domain is kept or reset as lost. -/
  | pewterIntegrityCheck (codes : List Nat)
  /-- SEQUENCER_DEFAULTS (R37). At 40 ms the sequencer applies the stand-alone contactor and drive-port defaults. -/
  | sequencerDefaults
  /-- BOOT_CHECK (R446). The boot ROM checks the boot-slot image and runs it, raises the floor, or stays dead. -/
  | bootCheck (fails : List Nat) (emmcErr : Bool)
  /-- BENCH_RECOVERY (R461). In strap band 0 the boot ROM takes a full signed image from the bench station over the UART. -/
  | benchRecovery (image : Bytes)
  /-- PERST (R60). PERST# resets the PCIe endpoint and the fields marked PERST#. -/
  | perst
  /-- LOCKSTEP_MISMATCH (R83). A lane comparator mismatch blocks the write and causes a warm reset with cause 0x6. -/
  | lockstepMismatch (lane : Fin 4) (detail : Word)
  /-- LANE_WATCHDOG (R107). A ware that runs past its watchdog limit causes a warm reset with cause 0x5. -/
  | laneWatchdog (lane : Fin 4)
  /-- SERVICE_WATCHDOG (R40). Expiry of the service watchdog causes a warm reset with cause 0x7. -/
  | serviceWatchdog
  /-- THERMAL_TRIP (R480). A sensor that reaches its trip level causes a warm reset with cause 0xB. -/
  | thermalTrip (sensor : Nat) (tempDeciC : Int)
  /-- TEMP_WARNING (R480). A sensor that reaches its warning level raises TEMP_WARN. -/
  | tempWarning (sensor : Nat) (tempDeciC : Int)
  /-- BLOCK_RESET (R48). Setting a block's bit in BLK_RST_SET resets the block at once and ends its transfers. -/
  | blockReset (m : Master) (hi : Bool) (v : Word)
  /-- BLOCK_RELEASE_REQUEST (R49). A write to BLK_RST_CLR requests the release of a block, which stays pending until its clock is good. -/
  | blockReleaseRequest (m : Master) (hi : Bool) (v : Word)
  /-- BLOCK_RELEASE (R49). The block leaves reset 64 cycles after clock-good. -/
  | blockRelease (bit : Nat) (fails : List Nat)
  /-- RELEASE_TIMEOUT (R49). A release without clock-good for 10 ms is abandoned and BLK_REL_FAIL is set. -/
  | releaseTimeout (bit : Nat)
  /-- TICK_EDGE (R24). At each tick edge the due actions run in fixed order: overrun check, mode, levels, fades, swaps and beacon release. -/
  | tickEdge (c : DWord) (sinks : List SinkMeas) (hbIn : Bool)
  /-- CORRIDOR_RUN (R27). At 200 µs the corridor engine takes reports, ages and searches tracks, and computes targets. -/
  | corridorRun (us : Nat)
  /-- LEVEL_PUBLISH (R260). At 1,700 µs COR publishes the changed targets with apply tick k + L, or discards an unfinished run. -/
  | levelPublish
  /-- OCC_ROW_WRITE (R140). In the tick where k mod 250 = 0 the firmware copies the row to the history and writes OCC_LAST. -/
  | occRowWrite
  /-- GRAPH_CHECK (R250). Setting GRAPH_CTRL.CHECK starts the check of the staged graph bank. -/
  | graphCheck (m : Master)
  /-- GRAPH_CHECK_DONE (R249). The graph check ends, and STAGED is set or GRAPH_BAD and GRAPH_ERR are recorded. -/
  | graphCheckDone
  /-- GRAPH_ARM (R250). Setting ARM arms the graph swap for GRAPH_AT, or is refused. -/
  | graphArm (m : Master)
  /-- GRAPH_DISARM (R250). Setting DISARM withdraws the armed graph swap. -/
  | graphDisarm (m : Master)
  /-- GRAPH_SWAP (R251). At the run of tick GRAPH_AT the banks swap, tracks are kept and the match table is cleared. -/
  | graphSwap
  /-- POLICY_COMMIT (R259). POLICY_CTRL.COMMIT arms the staged floors, caps and WX for POLICY_AT. -/
  | policyCommit (m : Master)
  /-- POLICY_APPLY (R259). At the run of POLICY_AT the committed policy values come into use. -/
  | policyApply
  /-- WAVE_START (R268). At a flood instant the head starts a wave with a MODE, stripe or refresh frame when R268 allows. -/
  | waveStart
  /-- FLOOD_FORWARD (R269). A relay resends an accepted flood frame unchanged at G + 5,000 µs. -/
  | floodForward
  /-- STRIPE_RECEIVE (R273). A node that accepts a stripe frame for its index stores or replaces a pending change. -/
  | stripeReceive (x : AirRx)
  /-- MODE_ANNOUNCE (R278). MODE_CTRL.ANNOUNCE starts a segment mode change with a new epoch and apply tick C. -/
  | modeAnnounce (m : Master)
  /-- MODE_CTRL_CANCEL (R278). MODE_CTRL.CANCEL withdraws the announced change and floods CANCEL frames. -/
  | modeCtrlCancel (m : Master)
  /-- MODE_WAVE (R278). In each of the eight superframes before C the head starts a MODE wave at tick 32 or later. -/
  | modeWave
  /-- MODE_RECEIVE (R279). A node stores a MODE frame as its pending mode, gathers chunks, or discards on CANCEL. -/
  | modeReceive (x : AirRx)
  /-- MODE_ACK_SEND (R280). After an apply, a node sends MODE_ACK in a randomly drawn contention slot. -/
  | modeAckSend
  /-- SCHEDULE_POINT (R281). A stored schedule point comes into force at the first tick edge at or after its time. -/
  | schedulePoint
  /-- BEACON_BUILD (R205). In tick 255 the beacon payload for the next superframe is built. -/
  | beaconBuild
  /-- BEACON_SEND (R205). A head or relay sends its beacon at its window position, unless the ledgers hold it back. -/
  | beaconSend (c : DWord)
  /-- BEACON_RECEIVE (R221). A node accepts a beacon from its parent, resets its miss count, measures time and compares epochs. -/
  | beaconReceive (x : AirRx)
  /-- BEACON_MISS (R221). A superframe without an accepted parent beacon advances the miss state and can make the node an orphan. -/
  | beaconMiss (c : DWord)
  /-- ORPHAN_LISTEN_END (R222). An orphan that finds no candidate in four superframes starts scanning. -/
  | orphanListenEnd
  /-- SCAN_STEP (R215). A scanning device moves to the next centre of its scan list after two superframes. -/
  | scanStep
  /-- BCN_NODE_WRITE (R491). A write of BCN_NODE while STATE is OFF puts BCN into learn. -/
  | bcnNodeWrite (m : Master) (v : Word)
  /-- JOIN_REQ (R216). The head receives a verified JOIN_REQ and assigns an index or refuses it. -/
  | joinReq (x : AirRx)
  /-- JOIN_ACC (R216). A device receives its join accept and takes its index, parent and settings. -/
  | joinAcc (x : AirRx)
  /-- JOIN_REF (R216). A device receives a join refusal with a reason and retry wait. -/
  | joinRef (x : AirRx)
  /-- JOIN_TIMEOUT (R216). A device without JOIN_ACC or JOIN_REF in 8 superframes tries its next candidate. -/
  | joinTimeout
  /-- JOIN_CONFIRM_TIMEOUT (R216). A head without the STATUS of step 6 in 16 superframes repeats steps 4 and 5, then frees the index. -/
  | joinConfirmTimeout (index : Nat)
  /-- STATUS_RECEIVE (R216). The head receives a STATUS frame, which completes a pending join. -/
  | statusReceive (x : AirRx)
  /-- JOIN_WINDOW_EXPIRY (R219). The duration of a JOIN_CTRL runs out and the join openings close. -/
  | joinWindowExpiry
  /-- SLEEPY_WAKE (R213). A sleepy sensor wakes in its phase superframe, listens for the beacon and uses its wake slot. -/
  | sleepyWake (index : Nat) (heard : Bool)
  /-- HELD_FRAME_EXPIRY (R213). A frame held for a sleepy child and not collected in 2^E + 1 superframes is dropped. -/
  | heldFrameExpiry
  /-- MHOP_FORWARD (R210). A node forwards an MHOP frame up to its parent or down toward FINAL and records routes. -/
  | mhopForward (x : AirRx)
  /-- TX_DESCRIPTOR (R168). A radio takes a transmit descriptor from its TXQ and queues the frame. -/
  | txDescriptor (radio : Fin 4)
  /-- FRAME_RELEASE (R160). At its slot instant a frame is tested against the ledgers, charged and sent, or held back. -/
  | frameRelease (radio : Fin 4) (access : Fin 3)
  /-- ACK_TIMEOUT (R156). No sync word by the acknowledgement deadline fails the attempt, and the frame backs off or returns NO_ACK. -/
  | ackTimeout (radio : Fin 4)
  /-- DEADLINE_EXPIRY (R162). A queued or held frame whose deadline or AT tick passes returns EXPIRED. -/
  | deadlineExpiry (radio : Fin 4)
  /-- FRAME_SYNC (R229). A radio detects a sync word, time-stamps the frame and starts receiving it. -/
  | frameSync (radio : Fin 4) (psdu : Bytes) (phrOk : Bool) (phase : Nat) (c : DWord) (refillNs : Nat)
  /-- FRAME_END_VERDICT (R192). At the end of a frame LNK decides accept, duplicate, conflict, replay or drop and delivers it. -/
  | frameEndVerdict (radio : Fin 4) (fcs : Bytes) (rssi : Byte) (margin : Int) (verdictNs : Nat)
  /-- ACK_SEND (R186). 1,000 µs after a frame that needs one, the acknowledgement is sent if the ledgers allow. -/
  | ackSend (radio : Fin 4)
  /-- ACK_RECEIVE (R187). A sender checks a received ACK and counts the attempt as a success. -/
  | ackReceive (radio : Fin 4) (psdu fcs : Bytes)
  /-- LEDGER_AGE (R164). At each superframe boundary the ledger bins age and their age is written to NVS. -/
  | ledgerAge
  /-- HOP_COMMIT (R151). HOP_COMMIT stages a new hop list for HOP_AT, or is refused. -/
  | hopCommit (m : Master) (v : Word)
  /-- HOP_APPLY (R151). At HOP_AT the committed hop list takes effect. -/
  | hopApply
  /-- PA_FAULT (R467). An open or shorted antenna raises PA_FAULT and cuts the radio to +14 dBm. -/
  | paFault (radio : Fin 4) (reflects : Bool)
  /-- CTR_TX_WRITE (R182). A write to a CTR_TX register raises the send counter and writes the new reserve, or is refused. -/
  | ctrTxWrite (m : Master) (k : Fin 3) (v : Word)
  /-- LNK_GEN_WRITE (R196). A write to LNK_GEN or GEN_NEXT is refused when the send generation would not be accepted. -/
  | lnkGenWrite (m : Master) (next : Bool) (v : Word)
  /-- GEN_SWITCH (R182). At GEN_AT, LNK_GEN.CUR takes the armed generation and its counter restarts at 1. -/
  | genSwitch
  /-- GEN_RETIRE (R194). Sixty-four superframes after the switch, the old segment-key generation is retired. -/
  | genRetire
  /-- CTX_INVAL (R200). A write to CTX_INVAL drops any context that holds the named record. -/
  | ctxInval (m : Master) (v : Word)
  /-- CTX_INVAL_ALL (R200). CTX_CTRL.INVAL_ALL drops every context once its frame is done. -/
  | ctxInvalAll (m : Master) (v : Word)
  /-- TUNNEL_VERIFY (R198). An inner frame pushed to VFY_Q.IN is verified and written to VFY_Q.OUT. -/
  | tunnelVerify
  /-- KEY_RECEIVE (R194). A node installs a new segment key or node key from a KEY frame. -/
  | keyReceive (x : AirRx)
  /-- PRESENCE_RECEIVE (R252). The head's firmware pushes a report entry for an accepted PRESENCE frame to COR's queue. -/
  | presenceReceive (x : AirRx)
  /-- ENERGY_RECEIVE (R342). The head's firmware adds an ENERGY report to the node energy of its balance interval. -/
  | energyReceive (x : AirRx)
  /-- ENERGY_REPORT_SEND (R340). At a balance boundary a node reads its counter and sends ENERGY within SPREAD. -/
  | energyReportSend
  /-- CHILD_ADD (R219). A parent adds a child record from the head's CHILD_ADD command. -/
  | childAdd (x : AirRx)
  /-- CHILD_DEL (R219). A parent removes a child from the head's CHILD_DEL command. -/
  | childDel (x : AirRx)
  /-- REJOIN_VIA (R219). A node joins again through the parent that the command names. -/
  | rejoinVia (x : AirRx)
  /-- WAKE_SET (R219). A sleepy sensor takes new wake settings after its current wake. -/
  | wakeSet (x : AirRx)
  /-- ENERGY_CFG (R343). A node takes a new balance PERIOD and SPREAD at its next boundary. -/
  | energyCfg (x : AirRx)
  /-- SCHED_SET (R286). A node stores up to eight schedule points sent by the head. -/
  | schedSet (x : AirRx)
  /-- MODE_ACK (R280). The head receives MODE_ACK and sets the sender's APPLIED bit. -/
  | modeAck (x : AirRx)
  /-- MODE_GET (R279). The head answers MODE_GET with MODE frames of the epoch in force, sent to that node. -/
  | modeGet (x : AirRx)
  /-- PPS_EDGE (R240). A PPS edge is captured and gives a time measurement or matches a waiting TOD_SET. -/
  | ppsEdge (rising : Bool) (c : DWord)
  /-- PPS_LOST (R241). No PPS edge within 1.1 s of the expected one raises PPS_LOST and enters holdover. -/
  | ppsLost (c : DWord)
  /-- TOD_TIMEOUT (R240). A TOD_SET with no matching edge within 1.1 s is answered FAULT with BAD_TOD. -/
  | todTimeout (c : DWord)
  /-- SNAP (R227). A write to SNAP captures CNT and network time of one cycle. -/
  | snap (m : Master) (v : Word) (c : DWord)
  /-- STEP_GO (R238). STEP_CTRL.GO stages a software time step for the next tick edge. -/
  | stepGo (m : Master) (v : Word)
  /-- TIME_STEP (R238). A time step is applied at the next tick edge, with skipped or repeated ticks handled. -/
  | timeStep (c : DWord)
  /-- OFFSET_LOAD (R226). A write of OFFSET_NS_HI in state NONE loads the staged anchor and offset and enters ACQUIRE. -/
  | offsetLoad (m : Master) (v : Word) (c : DWord)
  /-- CNT_READ (R225). A read of CNT_LO latches CNT_HI. -/
  | cntRead (m : Master) (c : DWord)
  /-- TICK_READ (R245). A read of TICK_LO latches TICK_HI. -/
  | tickRead (m : Master)
  /-- DREQ_SEND (R235). Every PERIOD superframes a node sends a DREQ to its parent. -/
  | dreqSend
  /-- DREQ (R235). A parent answers a received DREQ with a DRESP within 4 superframes. -/
  | dreq (x : AirRx)
  /-- DRESP (R235). A node computes and filters a link-delay measurement from a DRESP. -/
  | dresp (x : AirRx)
  /-- TOD_SET (R240). The host names the Relso second of a PPS edge; the reply comes when matched. -/
  | todSet (tag : Word) (c : DWord)
  /-- TIME_GET (R246). Returns one consistent snapshot of counter, time, state and bound. -/
  | timeGet (tag : Word) (c : DWord)
  /-- TIME_SRC (R246). Sets NTM_CFG.SRC, denied in the node role. -/
  | timeSrc (tag : Word)
  /-- NARROW_WRITE (R9). A register write narrower than 32 bits is ignored and recorded. -/
  | narrowWrite (m : Master) (addr : Nat) (v : Word)
  /-- NARROW_READ (R9). A register read narrower than 32 bits returns zero without side effects and is recorded. -/
  | narrowRead (m : Master) (addr : Nat)
  /-- MULTI_DW (R58). A BAR0 request longer than one DW completes with UR or is dropped and recorded. -/
  | multiDw (wr : Bool) (addr : Nat) (words : List Word)
  /-- UNMAPPED_ACCESS (R66). An access to unmapped BAR0 returns zero or is ignored and is recorded as UNMAPPED. -/
  | unmappedAccess (m : Master) (wr : Bool) (addr : Nat) (v : Word)
  /-- REGISTER_WRITE (R11). A write to a register without a row of its own takes effect by its access type, or is refused. -/
  | registerWrite (m : Master) (addr : Nat) (v : Word)
  /-- RC_READ (R13). A read of an RC register returns and clears it. -/
  | rcRead (m : Master) (addr : Nat)
  /-- PAGE_LOCK (R71). Setting PAGE_LOCK makes the page's RWL fields read only until a reset. -/
  | pageLock (m : Master) (b : Blk) (v : Word)
  /-- BLOCK_ENABLE (R68). Setting EN lets the block take work and clears DRAINED. -/
  | blockEnable (m : Master) (b : Blk)
  /-- BLOCK_DISABLE (R68). Clearing EN drains the block, cancels queued work and stops it. -/
  | blockDisable (m : Master) (b : Blk)
  /-- DRAIN_SET (R68). Setting DRAIN with EN = 1 pauses the block after its unit and keeps queued work. -/
  | drainSet (m : Master) (b : Blk)
  /-- DRAIN_CLEAR (R68). Clearing DRAIN resumes the block with its held work. -/
  | drainClear (m : Master) (b : Blk)
  /-- DRAIN_COMPLETE (R68). The block's current unit ends, DRAINED sets and IRQ bit 30 is raised. -/
  | drainComplete (b : Blk)
  /-- KILL (R69). KILL truncates the current unit of a draining block, or is ignored. -/
  | kill (m : Master) (b : Blk)
  /-- PAGE_RST_REQ (R69). PAGE_CTRL.RST_REQ resets the block as its BLK_RST_SET bit does. -/
  | pageRstReq (m : Master) (b : Blk)
  /-- IRQ_CLEAR (R64). A W1C write to IRQ_RAW clears bits, and the vector fires again if its condition still holds. -/
  | irqClear (m : Master) (b : Blk) (v : Word)
  /-- IRQ_FORCE (R67). A write to IRQ_FORCE sets IRQ_RAW bits. -/
  | irqForce (m : Master) (b : Blk) (v : Word)
  /-- SW_IRQ_SET (R63). Firmware sets SW_IRQ_SET bits to raise vectors 54–63. -/
  | swIrqSet (m : Master) (v : Word)
  /-- APT_COMMIT (R61). APT_CTRL.COMMIT requests a move of the BAR2 aperture, or is rejected. -/
  | aptCommit (m : Master) (v : Word)
  /-- APERTURE_SWITCH (R61). The aperture moves to the new base and held BAR2 accesses are served there. -/
  | apertureSwitch
  /-- BAR2_ACCESS (R62). A host BAR2 access reaches DRAM, or is aborted or dropped for a closed or poisoned region. -/
  | bar2Access (a : Bar2Access)
  /-- HOST_BEAT (R80). A write to HOST_BEAT marks the host alive. -/
  | hostBeat (m : Master) (v : Word)
  /-- HOST_LOST (R80). A failed host condition clears PRESENT, cancels commands and take-port wares, and is recorded. -/
  | hostLost (linkUp : Bool) (bme : Bool)
  /-- HOST_SEEN (R80). All host conditions hold again, PRESENT sets and HOST_SEEN is written. -/
  | hostSeen (linkUp : Bool) (bme : Bool)
  /-- MBX_DOORBELL (R72). A write of H2M_TAIL makes new command entries available, or is ignored. -/
  | mbxDoorbell (m : Master) (v : Word)
  /-- MBX_COMMAND_TAKE (R74). The module takes the next command when it has room, respecting fences and the limit of 64. -/
  | mbxCommandTake (raw : Bytes) (data : Option Bytes)
  /-- MBX_RESET (R78). Once the M2H ring is configured and the host present, the MBX_RESET event is written. -/
  | mbxReset
  /-- EVENTS_LOST (R79). When M2H space appears after dropped events, EVENTS_LOST is written. -/
  | eventsLost
  /-- NOP (R77). Replies OK with PARAM echoed. -/
  | nop (tag : Word)
  /-- INFO (R77). Returns MODULE_ID, identity, firmware version, role and segment. -/
  | info (tag : Word)
  /-- WARE_SUBMIT (R86). A write of a submit window's last word submits a ware, which is held or refused. -/
  | wareSubmit (m : Master) (w7 : Word)
  /-- WARE_DISPATCH (R100). The Market fills a free stall slot or a waiting take reader with a ready ware. -/
  | wareDispatch (c : Consumer) (us : Nat) (cycles : Nat)
  /-- WARE_WINDOW_READ (R84). A lane reads its ware window and stalls until a slot holds a ware. -/
  | wareWindowRead (lane : Fin 4)
  /-- WARE_RETIRE (R89). A RETIRE write retires a ware, decrements counters and writes completions. -/
  | wareRetire (r : Retirer) (v : Word)
  /-- COMPLETION_WRITE (R90). A completion held for a full queue is written when space appears. -/
  | completionWrite
  /-- TAKE_READ (R102). A blocking TAKE read waits for a ware or returns a not-valid word. -/
  | takeRead (port : Fin 2) (m : Master) (us : Nat)
  /-- TAKE_POLL (R102). A TAKE_POLL read gives a ware or a reason without waiting. -/
  | takePoll (port : Fin 2) (m : Master) (us : Nat)
  /-- TAKE_TIMEOUT (R102). A blocked TAKE read returns TIMEOUT after 64 µs. -/
  | takeTimeout (port : Fin 2)
  /-- MATCH_TIMEOUT (R97). A parked operand older than its class's MATCH_TO is returned with MATCH_TIMEOUT. -/
  | matchTimeout (key : Word)
  /-- COUNTER_WRITE (R95). A write of CTR_VAL sets the selected counter. -/
  | counterWrite (m : Master) (v : Word)
  /-- COUNTER_ADD (R95). A write of CTR_ADD adds a signed value to the selected counter, saturating. -/
  | counterAdd (m : Master) (v : Word)
  /-- CLASS_CFG_WRITE (R93). A CLASS_CFGn write is taken only while the class holds no ware. -/
  | classCfgWrite (m : Master) (n : Fin 8) (v : Word)
  /-- DOM_CFG_WRITE (R99). A DOM_CFG write is refused while the domain holds a ware. -/
  | domCfgWrite (m : Master) (v : Word)
  /-- QUEUE_PUSH (R114). A write of PUSH_HI pushes a 64-bit entry, or is refused. -/
  | queuePush (m : Master) (q : Fin 16) (v : Word)
  /-- QUEUE_HW_PUSH (R115). A hardware producer pushes its held entry once the queue has room. -/
  | queueHwPush (q : Fin 16)
  /-- QUEUE_POP (R116). A read of POP_HI pops the head entry or returns a reason. -/
  | queuePop (m : Master) (q : QueueRead)
  /-- QUEUE_PEEK (R116). A read of PEEK_HI returns the head entry without popping. -/
  | queuePeek (m : Master) (q : QueueRead)
  /-- QUEUE_FLUSH (R117). FLUSH discards the queue's entries and ends any packet in progress. -/
  | queueFlush (m : Master) (q : Fin 16)
  /-- QCFG_WRITE (R112). A QCFG write configures or enables a queue, or is refused. -/
  | qcfgWrite (m : Master) (q : Fin 16) (v : Word)
  /-- CHECK_FRAME_START (R123). At a frame start of its source, a framed check unit loads CINIT. -/
  | checkFrameStart (src : Nat) (chan : Nat)
  /-- CHECK_FRAME_END (R123). At a frame end the check unit writes CRESULT and raises RESULT. -/
  | checkFrameEnd (src : Nat) (chan : Nat) (data : Bytes)
  /-- CVAL_WRITE (R124). A write of CVAL loads the running value, or is refused mid-frame. -/
  | cvalWrite (m : Master) (u : Fin 8) (v : Word)
  /-- SCRUB_BURST (R133). The scrubber reads the next burst and corrects or poisons its codewords. -/
  | scrubBurst (errs : List (Nat × CwErr))
  /-- SRAM_SCRUB (R135). MEM scrubs packet SRAM and corrects or poisons its codewords. -/
  | sramScrub (errs : List (Nat × CwErr))
  /-- OPEN_POSITION (R301). A lit position above OPEN_V is bypassed and latched in OPEN_MASK. -/
  | openPosition (port : Fin 4) (pos : Fin 32)
  /-- DROPOUT (R303). A sink below 0.35 V for 2 µs while carrying current is counted as dropout. -/
  | dropout (port : Fin 4)
  /-- SINK_HOT (R300). A sink junction at 150 °C turns off and puts the port in its fault state. -/
  | sinkHot (port : Fin 4)
  /-- DRV_LINK_LOST (R303). No valid link word for 2 µs turns the sink off and puts the port in its fault state. -/
  | drvLinkLost (port : Fin 4)
  /-- STRING_TEST (R302). At the test frame every active position is lit for 40 µs and sampled. -/
  | stringTest (port : Fin 4) (volts : List Nat)
  /-- FSYNC_EDGE (R294). An FSYNC edge performs an armed FSYNC swap, or counts as early. -/
  | fsyncEdge (rising : Bool) (c : DWord)
  /-- SHADOW_WRITE (R293). A write to the shadow bank is stored, or refused while a swap is armed. -/
  | shadowWrite (m : Master) (port : Fin 4) (index : Fin 16) (v : Word)
  /-- SWAP_ARM (R294). SWAP_CTRL.ARM arms a frame-memory swap, or is refused. -/
  | swapArm (m : Master) (c : DWord)
  /-- SWAP_DISARM (R293). SWAP_CTRL.DISARM withdraws the armed swap. -/
  | swapDisarm (m : Master)
  /-- DRV_TAKE (R304). DRV_CTRL.TAKE moves the port from DEFAULT to its registers and active bank. -/
  | drvTake (m : Master) (port : Fin 4)
  /-- DRV_CLR_FAULT (R303). DRV_CTRL.CLR_FAULT restarts a faulted port from off. -/
  | drvClrFault (m : Master) (port : Fin 4)
  /-- BANK_LOAD (R307). Writes the shadow bank from host memory and arms a swap. -/
  | bankLoad (tag : Word) (c : DWord)
  /-- DRV_STATUS (R307). Writes port status, masks and VF values to host memory. -/
  | drvStatus (tag : Word)
  /-- DEFAULT_SET (R307). Writes a drive default record with VALID last, or clears it. -/
  | defaultSet (tag : Word)
  /-- CYCLE_BOUNDARY (R313). A reference crossing ends a line cycle and the cycle's quantities accumulate. -/
  | cycleBoundary (phase : Fin 3) (volts : Nat) (chans : List ChanIn) (c : DWord)
  /-- LINE_LOST (R313). No usable phase for two nominal periods puts Scales into free run. -/
  | lineLost (c : DWord)
  /-- VIRTUAL_BOUNDARY (R313). In free run a virtual cycle boundary falls every nominal period. -/
  | virtualBoundary (chans : List ChanIn)
  /-- COEF_COMMIT (R318). COEF_CTRL.COMMIT stages the shadow set for the next latch, or is refused. -/
  | coefCommit (m : Master) (c : DWord)
  /-- COEF_CANCEL (R318). COEF_CTRL.CANCEL withdraws a pending coefficient set. -/
  | coefCancel (m : Master)
  /-- METER_CHECK_GO (R326). CHECK_CTRL.GO requests a self-check on the spare channel. -/
  | meterCheckGo (m : Master)
  /-- CHECK_START (R326). At the next tick edge the spare starts its reference and parallel checks. -/
  | checkStart
  /-- CHECK_COMPLETE (R326). The self-check ends with a verdict, REF_FAIL or LOW. -/
  | checkComplete (x : CheckMeas)
  /-- BAL_CLOSE (R342). BAL_CTRL.CLOSE computes the per-phase differences, ratios and alarms. -/
  | balClose (m : Master)
  /-- PFAIL (R471). VIN below PFAIL_TH asserts PFAIL_N and starts the saves. -/
  | pfail (vinMv : Nat)
  /-- PFAIL_END (R471). VIN above PFAIL_TH + 1 V for 1 ms releases PFAIL_N. -/
  | pfailEnd (vinMv : Nat)
  /-- COEF_LOAD (R329). Writes the shadow set from host memory and commits it. -/
  | coefLoad (tag : Word) (c : DWord)
  /-- METER_CHECK (R329). Runs a self-check on a channel and returns its result. -/
  | meterCheck (tag : Word)
  /-- JOURNAL_READ (R343). Writes latch journal records to host memory. -/
  | journalRead (tag : Word)
  /-- BAL_SET (R343). Sets the balance configuration and sends ENERGY_CFG to every node. -/
  | balSet (tag : Word)
  /-- SEAL_TRIP (R346). The Pewter supply node falls below the monitor level and the seal clears. -/
  | sealTrip (nodeMv : Nat)
  /-- VBAK_LOW (R346). VBAK below 2.2 V sets VBAK_LOW and VBAK_SEEN. -/
  | vbakLow (vbakMv : Nat)
  /-- CALENDAR_SECOND (R349). The divider counts a second, the calendar advances and CNT is captured. -/
  | calendarSecond (vbakMv : Nat) (c : DWord)
  /-- RTC_COMMIT (R351). RTC_CTRL.COMMIT checks the staged time and date and rejects or schedules the load. -/
  | rtcCommit (m : Master) (v : Word)
  /-- RTC_LOAD (R351). A passing commit loads the time and clears the divider chain. -/
  | rtcLoad
  /-- RTC_TIME_READ (R350). A read of RTC_TIME latches RTC_DATE and RTC_SUB. -/
  | rtcTimeRead (m : Master) (cycles : Nat)
  /-- OSC_FAIL (R353). No oscillator cycle for 2 ms sets OSC_FAIL and clears TIME_VALID. -/
  | oscFail
  /-- PWRON_ASSERT (R356). PWRON_CTRL.ASSERT asserts PWRON, or is refused after a tamper. -/
  | pwronAssert (m : Master)
  /-- PWRON_RELEASE (R356). PWRON_CTRL.RELEASE deasserts PWRON. -/
  | pwronRelease (m : Master)
  /-- PWRON_PULSE_END (R356). PWRON deasserts PULSE seconds after it was asserted. -/
  | pwronPulseEnd
  /-- FAILLIT_WRITE (R358). A keyed write to FAILLIT changes the fail-lit latch. -/
  | faillitWrite (m : Master) (v : Word)
  /-- CONT_HOLD_WRITE (R359). A write to CONT_HOLD claims or hands back the contactors and sets HOLD. -/
  | contHoldWrite (m : Master) (v : Word)
  /-- TAMPER (R361). Two loop mismatches in a row zeroize keys, record the tamper and reset the module. -/
  | tamper (loop : Fin 2)
  /-- RTC_SET (R364). Writes the staged time and date and commits them. -/
  | rtcSet (tag : Word)
  /-- RTC_GET (R364). Returns the calendar, FLAGS and PWT_STAT from one latch. -/
  | rtcGet (tag : Word) (cycles : Nat)
  /-- ALARM_SET (R364). Configures an alarm and its PWRON settings. -/
  | alarmSet (tag : Word)
  /-- FAILLIT_SET (R364). Writes the fail-lit latch with its key. -/
  | faillitSet (tag : Word)
  /-- TAMPER_CFG (R364). Enables the tamper loops and sets their period. -/
  | tamperCfg (tag : Word)
  /-- PHOTO_CHANGE (R476). The PHOTO comparator changes between dark and light. -/
  | photoChange (decivolts : Nat)
  /-- PHOTO_STEADY (R37). A PHOTO change held for 60 s makes the sequencer write CONT_HOLD and the default ports. -/
  | photoSteady
  /-- STAT_CHANGE (R476). A debounced status input changes state. -/
  | statChange (input : Fin 8) (on : Bool)
  /-- COIL_LOST (R474). COIL_SUP below 16 V turns every output off and sets COIL_DROP. -/
  | coilLost (coilMv : Nat)
  /-- COIL_RETURN (R474). When COIL_SUP returns, the outputs follow HOLD again. -/
  | coilReturn (coilMv : Nat)
  /-- CONT_FAULT (R474). An output at its current limit for 10 ms or overheated switches off and latches FAULT. -/
  | contFault (output : Fin 6)
  /-- CONT_SEQUENCE_STEP (R475). The next contactor output of a multi-bit change switches 10 ms after the last. -/
  | contSequenceStep
  /-- CONT_CLR_FAULT (R474). FSW_CTRL.CLR_FAULT clears output faults. -/
  | contClrFault (m : Master)
  /-- STATUS (R386). Vault STATUS service. -/
  | status (req : VltReq)
  /-- SELFTEST (R389). Requests an on-demand self-test run, or is refused while one runs. -/
  | selftest (req : VltReq)
  /-- SELFTEST_RUN (R389). At the next tick edge the selected self-tests run on the vault engine. -/
  | selftestRun (fails : List Nat)
  /-- RADIO_PATH_TEST (R389). The CCM* test of a radio path runs once its cores are idle. -/
  | radioPathTest (radio : Fin 4) (pass : Bool)
  /-- DRBG_RESEED (R381). After RESEED generate requests the DRBG reseeds and runs its known-answer test. -/
  | drbgReseed (pass : Bool)
  /-- ZEROIZE (R368). Clears every key within 5 µs and ends in a warm reset. -/
  | zeroize (req : VltReq)
  /-- VAULT_INIT (R367). In the keys-lost state creates a new root secret, enrolment key and slot 0. -/
  | vaultInit (req : VltReq)
  /-- ENROL_PUB (R386). Returns the enrolment public key. -/
  | enrolPub (req : VltReq)
  /-- KEY_IMPORT (R380). Imports a key from an import blob into a slot. -/
  | keyImport (req : VltReq)
  /-- KEY_GENERATE (R386). Generates a key in an empty slot. -/
  | keyGenerate (req : VltReq)
  /-- KEY_DERIVE (R376). Derives a key from the root secret and measurements into a slot. -/
  | keyDerive (m : Master) (v : Word)
  /-- KEY_EXPORT (R373). Exports a key wrapped under a pairing slot. -/
  | keyExport (req : VltReq)
  /-- REWRAP (R386). Rewraps a key record from one wrapping key to another. -/
  | rewrap (m : Master) (v : Word)
  /-- KEY_ERASE (R386). Erases a slot. -/
  | keyErase (req : VltReq)
  /-- APPROVE (R382). Blows the approved-mode fuse and erases slots 1–63. -/
  | approve (req : VltReq)
  /-- DEBUG_OPEN (R392). Outside approved mode erases keys and opens the debug port. -/
  | debugOpen (req : VltReq)
  /-- ENCRYPT (R386). Encrypts data under a slot. -/
  | encrypt (m : Master) (v : Word) (mode : AesMode) (iv : Bytes)
  /-- DECRYPT (R386). Decrypts data under a slot. -/
  | decrypt (m : Master) (v : Word) (mode : AesMode) (iv : Bytes)
  /-- MAC (R386). Computes a MAC under a slot. -/
  | mac (m : Master) (v : Word)
  /-- SIG_VERIFY (R386). Verifies an ECDSA P-256 signature. -/
  | sigVerify (m : Master) (v : Word)
  /-- RANDOM (R386). Returns DRBG output. -/
  | random (m : Master) (v : Word)
  /-- MEAS_EXTEND (R375). Extends MEAS3 with data. -/
  | measExtend (m : Master) (v : Word)
  /-- TAP_INSTRUCTION (R392). A JTAG instruction is executed or refused by the approved-mode lock. -/
  | tapInstruction (k : TapInstr)
  /-- LOG_SUBMIT (R401). A write of LOG_HDR submits a group of 1–3 records, or is refused. -/
  | logSubmit (m : Master) (v : Word)
  /-- RECORD_WRITE (R402). LDG writes the next accepted record to its NVS slot. -/
  | recordWrite
  /-- LOST_RECORD (R403). When FIFO space returns, LDG writes a LOST record. -/
  | lostRecord
  /-- LEDGER_SCAN_DONE (R400). After release LDG's slot scan ends and NEXT_SEQ is set. -/
  | ledgerScanDone
  /-- CURSOR_WRITE (R406). A write of CURSOR latches a record copy into the window. -/
  | cursorWrite (m : Master) (v : Word)
  /-- WINDOW_AUTO_READ (R407). With AUTO set, a read of WIN7 advances the cursor and latches again. -/
  | windowAutoRead (m : Master)
  /-- SERIES_FEED (R409). A write of FEED_SER adds a value to a series. -/
  | seriesFeed (m : Master) (v : Word)
  /-- SER_CTRL_CLEAR (R409). SER_CTRL.CLEAR clears the selected series. -/
  | serCtrlClear (m : Master) (v : Word)
  /-- SERIES_SAVE (R410). Every 64 superframes LDG saves the series to NVS. -/
  | seriesSave
  /-- OPTIME_SAVE (R397). Every 64 superframes LDG saves the operating time. -/
  | optimeSave
  /-- LEDGER_READ (R414). Writes a range of records to host memory. -/
  | ledgerRead (tag : Word)
  /-- LEDGER_NOTE (R414). Adds a host note record. -/
  | ledgerNote (tag : Word)
  /-- SERIES_READ (R414). Writes a series' saved form to host memory. -/
  | seriesRead (tag : Word)
  /-- SERIES_CFG (R414). Configures a series. -/
  | seriesCfg (tag : Word)
  /-- SERIES_CLEAR (R414). Clears a series. -/
  | seriesClear (tag : Word)
  /-- LINK_UP (R417). An Ibong port sees 1,024 valid symbols and counts its link up. -/
  | linkUp (east : Bool)
  /-- LINK_DOWN (R417). Code violations or silence make an Ibong port count its link down and retrain. -/
  | linkDown (east : Bool)
  /-- RING_FRAME_RECEIVE (R420). A ring frame is checked, deduplicated, delivered and forwarded. -/
  | ringFrameReceive (east : Bool) (frame : Bytes) (c : DWord) (res : Nat)
  /-- DISCOVER (R423). A DISCOVER frame updates the ring map and positions. -/
  | discover
  /-- DISCOVER_SEND (R423). Every 100 ms each up port sends DISCOVER. -/
  | discoverSend
  /-- RING_DELAY_MEASURE (R425). Every 64 ticks each port sends DLY_REQ to measure its wire delay. -/
  | ringDelayMeasure (c : DWord)
  /-- DLY_REQ (R425). A port answers a DLY_REQ with DLY_RESP. -/
  | dlyReq (c : DWord)
  /-- DLY_RESP (R425). A port computes a wire-delay sample from DLY_RESP. -/
  | dlyResp
  /-- SYNC_SEND (R425). The tick master sends SYNC every 16 ticks. -/
  | syncSend (c : DWord)
  /-- SYNC (R425). A module takes a ring time measurement from SYNC. -/
  | sync
  /-- MASTER_LOST (R426). Missing SYNC or heartbeats from the master enter holdover and a new election. -/
  | masterLost (c : DWord)
  /-- HEARTBEAT_SEND (R428). 100 µs after each tick edge the module broadcasts HEARTBEAT. -/
  | heartbeatSend
  /-- HEARTBEAT (R429). A received heartbeat clears its path's silence count and updates the partner state. -/
  | heartbeat
  /-- PATH_LOST (R429). One heartbeat path silent for 8 ticks while the other is heard raises PATH_LOST. -/
  | pathLost
  /-- TAKEOVER_DECISION (R431). An armed standby with both paths silent and no head beacon decides to take over. -/
  | takeoverDecision
  /-- CHECKPOINT_CAPTURE (R433). The head captures a full or incremental checkpoint and sends it. -/
  | checkpointCapture
  /-- CKPT_DATA (R435). A standby stores checkpoint chunks and applies the complete checkpoint. -/
  | ckptData
  /-- CKPT_ACK (R434). The head resends the chunks that CKPT_ACK reports missing. -/
  | ckptAck
  /-- CHECKPOINT_ABANDON (R434). A checkpoint incomplete 64 superframes after capture is abandoned. -/
  | checkpointAbandon
  /-- DEMOTION_CHECK (R439). A returning head-strapped module finds its segment active and enters standby. -/
  | demotionCheck
  /-- PREPARE (R283). A participant stages the ring mode change and answers READY or REFUSE. -/
  | prepare
  /-- READY (R283). The coordinator records a READY answer. -/
  | ready
  /-- REFUSE (R283). The coordinator records a REFUSE answer. -/
  | refuse
  /-- RING_DECIDE (R283). At D, or when all answered, the coordinator sends COMMIT or ABORT. -/
  | ringDecide
  /-- RING_DECISION_REPEAT (R283). The coordinator resends its decision every tick until confirmed or C. -/
  | ringDecisionRepeat
  /-- RING_COMMIT (R284). A participant learns COMMIT and applies at C or late. -/
  | ringCommit
  /-- RING_ABORT (R284). A participant learns ABORT and cancels its announcement. -/
  | ringAbort
  /-- RING_QUERY (R283). A module that holds a decision answers QUERY with CONFIRM. -/
  | ringQuery
  /-- RING_CONFIRM (R284). A CONFIRM gives the decision to a coordinator or an in-doubt participant. -/
  | ringConfirm
  /-- RING_DOUBT_QUERY (R284). An in-doubt participant queries the ring every tick. -/
  | ringDoubtQuery
  /-- RING_DOUBT_EXPIRY (R284). An in-doubt participant that learns nothing in 64 superframes cancels. -/
  | ringDoubtExpiry
  /-- RING_RESET_FRAME (R427). An accepted RESET frame causes a warm reset with cause 0x9. -/
  | ringResetFrame
  /-- RING_DATA (R419). A DATA frame is delivered to firmware. -/
  | ringData
  /-- RRST_CTRL_WRITE (R427). A keyed write of RRST_CTRL sends a RESET frame to a position. -/
  | rrstCtrlWrite (m : Master) (v : Word)
  /-- MAP_FORGET (R423). A keyed write of MAP_FORGET frees a ring position. -/
  | mapForget (m : Master) (v : Word)
  /-- FOV_CFG_WRITE (R430). A write of FOV_CFG sets the watched segment and ARM, or is refused. -/
  | fovCfgWrite (m : Master) (v : Word)
  /-- CKPT_FULL (R433). FOV_CTRL.CKPT_FULL makes the next capture a full checkpoint. -/
  | ckptFull (m : Master)
  /-- FOV_RELEASE (R438). Releases a taken-over head role at the next start. -/
  | fovRelease (via : Via)
  /-- RING_STATUS (R444). Writes the ring map and each position's state to host memory. -/
  | ringStatus (tag : Word)
  /-- RING_RESET (R444). Sends a RESET frame to a target position. -/
  | ringReset (tag : Word)
  /-- RING_FORGET (R444). Frees a ring position. -/
  | ringForget (tag : Word)
  /-- FOV_SET (R444). Sets the watched segment and ARM. -/
  | fovSet (tag : Word)
  /-- CKPT_NOW (R444). Sets CKPT_FULL. -/
  | ckptNow (tag : Word)
  /-- UPD_BEGIN (R451). Starts or resumes an update from a delta header. -/
  | updBegin (tag : Word)
  /-- UPD_BLOCK (R452). Stores a delta block and marks its units received. -/
  | updBlock (tag : Word)
  /-- UPD_STATUS (R462). Returns the update state and received bitmap. -/
  | updStatus (tag : Word)
  /-- UPD_APPLY (R454). Starts rebuilding the new image from the delta. -/
  | updApply (tag : Word)
  /-- APPLY_DONE (R454). The apply ends as APPLIED or returns to RECEIVED with APPLY_ERR. -/
  | applyDone (emmcErrAt : Option Nat)
  /-- UPD_COMMIT (R455). Journals and copies the rebuilt image into the boot slot. -/
  | updCommit (tag : Word)
  /-- COPY_DONE (R455). The copy ends, COPIED is journalled and the reset tick R is chosen. -/
  | copyDone (c : DWord)
  /-- UPD_RESET (R455). At the edge of R the module takes a warm reset with cause 0xD. -/
  | updReset
  /-- UPD_ABORT (R462). Clears the update control area and returns to IDLE. -/
  | updAbort (tag : Word)
  /-- SETTINGS_ARCHIVE_READ (R462). Writes an archived settings group to host memory. -/
  | settingsArchiveRead (tag : Word)
  /-- SETTINGS_RESET (R457). At the first start of a new image, groups whose version changed are archived and reset. -/
  | settingsReset
  /-- UPD_BOOTED (R459). After a boot following an update, the firmware records and reports it. -/
  | updBooted
  /-- NODE_ENROLL (R219). Enrols a node identity and wrapped key. -/
  | nodeEnroll (tag : Word)
  /-- NODE_REMOVE (R219). Frees a node index and invalidates its records. -/
  | nodeRemove (tag : Word)
  /-- NODE_TABLE (R219). Writes the node table to host memory. -/
  | nodeTable (tag : Word)
  /-- JOIN_CTRL (R219). Opens or closes joins for a duration. -/
  | joinCtrl (tag : Word)
  /-- GRAPH_LOAD (R264). Stores, stages, checks and arms a road graph image. -/
  | graphLoad (tag : Word)
  /-- POLICY_SET (R264). Stages and commits floors, caps and WX. -/
  | policySet (tag : Word)
  /-- WEATHER_SET (R264). Stages and commits a new WX. -/
  | weatherSet (tag : Word)
  /-- TRACKS_GET (R264). Writes the track records of one run to host memory. -/
  | tracksGet (tag : Word)
  /-- MODE_SET (R286). Requests a segment mode change. -/
  | modeSet (tag : Word)
  /-- MODE_CANCEL (R286). Withdraws the announced mode change. -/
  | modeCancel (tag : Word)
  /-- MODE_STATUS (R286). Writes the APPLIED bitmap and counts to host memory. -/
  | modeStatus (tag : Word)
  /-- RING_MODE (R283). Starts a ring-wide two-phase mode change as coordinator. -/
  | ringMode (tag : Word)
  /-- SCHED_PUSH (R286). Sends stored schedule points to a node. -/
  | schedPush (tag : Word)
  /-- VBAK_SWITCHOVER (R345). The internal rail from VIN falls below 2.7 V and the Pewter supply node moves to VBAK, so the domain runs on backup with main power absent. -/
  | vbakSwitchover (vbakMv : Nat)
  /-- VBAK_RESTORED (R346). VBAK rises back to 2.2 V or above and PWT_STAT.VBAK_LOW clears. -/
  | vbakRestored (vbakMv : Nat)
  /-- OSC_RESTART (R353). The 32.768 kHz oscillator runs again after a failure, and the stopped calendar counts on from where it stopped. -/
  | oscRestart
  /-- PORTER_TRANSFER_DONE (R95). A Porter DMA transfer completes, decrementing the counter it names, or ends with FAULT at a poisoned codeword. -/
  | porterTransferDone (t : Porter)
  /-- VAULT_OP_COMPLETE (R374). The VLT operation under way ends, sets OP_STAT.DONE, raises OP_DONE, applies use counts and lets the next queued operation start. -/
  | vaultOpComplete (condFail : Option (Fin 14))
  /-- TX_FRAME_END (R168). A frame being sent without an acknowledgement request leaves the radio for the last time and the radio pushes its DONEQ entry with SENT. -/
  | txFrameEnd (radio : Fin 4)
  /-- RING_DECISION_EXPIRY (R283). A ring mode-change decision that a module has kept for 64 superframes is forgotten, and later queries get no answer from it. -/
  | ringDecisionExpiry
  deriving DecidableEq, Repr

end Sys2Proof
end

