-- ==== Sys2Proof/Decode.lean ====
section
/-! DEFINITION. Decoding of table words: the rows of the command table carry no bit patterns, so no word spells a command. -/

namespace Sys2Proof

/-- The command that a word spells by the table's bits: none, since no row of the table gives bits (assumption log 1). -/
def decodeTableWord (_nbits _w : Nat) : Option Instr := none

end Sys2Proof
end

