-- ==== Sys2Proof/Config.lean ====
section
/-! DEFINITION. What the spec leaves open: free values. Each is an opaque constant, so a statement about it holds whatever it is. -/

namespace Sys2Proof

/-- A fresh open bit: the n-th draw of the counter `State.free` (assumption log 3). -/
opaque Config.freeBit : Nat → Bool

/-- A fresh open word. -/
opaque Config.freeWord : Nat → Word

/-- A fresh open byte of entropy. -/
opaque Config.freeByte : Nat → Byte

/-- The severity that the firmware gives the Ledger record of a mailbox event: R405 gives the code and the parameters only (assumption log 8). -/
opaque Config.eventSev : Nat → Fin 6

/-- A value that the firmware chooses and the spec does not fix, below a bound: the n-th draw. -/
opaque Config.freeBelow : Nat → (bound : Nat) → Fin (bound + 1)

/-- The median of an even number of link-delay measurements, from its two middle values: R235 does not say which (assumption log 12). -/
opaque Config.evenMedian : Int → Int → Int

/-- What the servo of R237 computes for its error over a Δ of no time: the spec states no quotient (assumption log 12). -/
opaque Config.overNoTime : Int → Int

/-- What RATE holds where R237 computes a rate outside its signed 32 bits (assumption log 12). -/
opaque Config.rateBeyond : Int → Word

/-- What LAST_ERR shows of an error outside its signed 32 bits of 2^-8 ns (assumption log 12). -/
opaque Config.errBeyond : Int → Word

/-- The 512-byte sectors of the eMMC user area above the 57,344 MiB that it holds at least (R138). -/
opaque Config.emcExtra : Fin 4177526784

/-- What the LEVEL mode of a drive port computes for X(v), in units of 10^-6 %, within the tolerance of R292 (assumption log 30). -/
opaque Config.levelX : Nat → Nat

/-- Whether Scales rounds a result of this numerator and denominator up to the next unit of its register where it is no whole number: the spec gives the unit and no rounding (assumption log 31). -/
opaque Config.roundUp : Int → Nat → Bool

/-- A Scales result that the spec does not state: a mean over no time, the THD of a signal without fundamental, the angle of one (assumption log 31). -/
opaque Config.noMean : Int → Int

/-- What the metering channels have sampled of the cycle that runs when metering is cut short: the n-th draw (assumption log 32). -/
opaque Config.partCycle : Nat → List ChanIn

/-- BAL_RATIO of a node sum and a feeder energy whose quotient is beyond 32 bits: the spec states none (assumption log 33). -/
opaque Config.balRatioBeyond : Nat → Nat → Word

/-- The radio latency that was measured at manufacture, by register: RXLAT and TXLAT of a radio (R230; assumption log 51). -/
opaque Config.factoryLat : Nat → Word

/-- The mean RMS voltage of a balance interval in 0.1 V that a node reports where Scales latched nothing in it (assumption log 33). -/
opaque Config.nodeVolts : Nat → Nat

/-- The mean power of a balance interval in 0.1 W that a node reports when it has no earlier reading, or where it does not fit its 16 bits (assumption log 33). -/
opaque Config.nodePower : Nat → Nat

/-- Bits 15:0 of the part of network time above the 48 bits of ns that a SYNC carries, when a module without time takes its first SYNC: the n-th draw (assumption log 34). -/
opaque Config.ringHigh : Nat → Nat

/-- The bytes of the boot slot as the module is delivered: the spec does not give the image (assumption log 35). -/
opaque Config.shippedByte : Nat → Byte

/-- The bytes of the eMMC's Boot 2 partition, which is unused: the spec gives none (assumption log 50). -/
opaque Config.boot2Byte : Nat → Byte

/-- Whether stored schedule tables cover a second of Relso time: the spec gives their place and no format (R81, R138; assumption log 51). -/
opaque Config.tableRuns : List (Nat × Byte) → Nat → Bool

/-- The floor that stored schedule tables give a group at a second of Relso time (R81; assumption log 51). -/
opaque Config.tableFloor : List (Nat × Byte) → Nat → Nat → Fin 1001

/-- The floor of a lit road where the strap's default mode decides it: the spec gives no level (R81; assumption log 51). -/
opaque Config.litFloor : Fin 1001

/-- The Amfadan root key, X then Y, whose hash the boot ROM holds: the spec does not give it (assumption log 36). -/
opaque Config.rootPub : Bytes

/-- The bytes of the boot ROM: the spec does not give them (assumption log 37). -/
opaque Config.romByte : Nat → Byte

end Sys2Proof
end

