-- ==== Sys2Proof/Machine/Bits.lean ====
section
/-! DEFINITION. Bit fields of words, byte order, serial comparison and sparse data: the helpers every family uses. -/

namespace Sys2Proof.Machine

open Sys2Proof

/-! ### Bit fields -/

/-- A word of a natural number, modulo 2^32. -/
abbrev w32 (n : Nat) : Word := BitVec.ofNat 32 n

/-- The field of `n` bits from bit `lo` upward, as a number. -/
def fld (w : Word) (lo n : Nat) : Nat := w.toNat / 2 ^ lo % 2 ^ n

/-- The word with the field of `n` bits from bit `lo` set to `v` modulo 2^n. -/
def setFld (w : Word) (lo n v : Nat) : Word :=
  w32 (w.toNat - fld w lo n * 2 ^ lo + v % 2 ^ n * 2 ^ lo)

/-- Bit `i` of a word. -/
def tst (w : Word) (i : Nat) : Bool := w.getLsbD i

/-- The word whose only set bit is bit `i`. -/
def bitw (i : Nat) : Word := w32 (2 ^ i)

/-- The word with bit `i` set to `b`. -/
def setBit (w : Word) (i : Nat) (b : Bool) : Word :=
  if b then w ||| bitw i else w &&& ~~~(bitw i)

/-- 1 for true and 0 for false. -/
def b2n (b : Bool) : Nat := if b then 1 else 0

/-- Replace the bits of `m` in `old` by those of `new`. -/
def merge (m old new : Word) : Word := (old &&& ~~~m) ||| (new &&& m)

/-- The natural number below 2^n read as a two's complement number of n bits. -/
def sgn (n v : Nat) : Int :=
  let u := v % 2 ^ n
  if u < 2 ^ (n - 1) then (u : Int) else (u : Int) - 2 ^ n

/-- The two's complement form of n bits of an integer. -/
def unsgn (n : Nat) (v : Int) : Nat := (v % (2 ^ n : Int)).toNat

/-- A word of an integer, modulo 2^32. -/
def wOfInt (v : Int) : Word := w32 (unsgn 32 v)

/-- A word read as a signed number. -/
def sInt (w : Word) : Int := sgn 32 w.toNat

/-- An integer limited to lo and hi. -/
def clampI (lo hi v : Int) : Int := if v < lo then lo else if hi < v then hi else v

/-- R7: serial difference a - b of two 32-bit tick fields, read as signed 32 bits. -/
def tickDiff (a b : Word) : Int := sgn 32 ((a - b).toNat)

/-- R7: `a` is later than `b`. A difference of exactly -2^31 means earlier. -/
def later (a b : Word) : Bool := decide (0 < tickDiff a b)

/-- R7: `a` is the same tick as `b` or later. -/
def notEarlier (a b : Word) : Bool := decide (0 ≤ tickDiff a b)

/-! ### Byte order -/

/-- The byte at position i, or 0 past the end. -/
def byteAt (b : Bytes) (i : Nat) : Nat := (b.getD i 0).toNat

/-- The little-endian number of the first n bytes. -/
def leFirst : Nat → Bytes → Nat
  | 0, _ => 0
  | _ + 1, [] => 0
  | n + 1, x :: r => x.toNat + 256 * leFirst n r

/-- The little-endian number of n bytes from position i. -/
def le (b : Bytes) (i n : Nat) : Nat := leFirst n (b.drop i)

/-- n bytes of a number, least significant first. -/
def toLe : Nat → Nat → Bytes
  | 0, _ => []
  | n + 1, v => BitVec.ofNat 8 v :: toLe n (v / 256)

/-- The number whose big-endian bytes are given. -/
def be (b : Bytes) : Nat := b.foldl (fun a x => a * 256 + x.toNat) 0

/-- n bytes of a number, most significant first. -/
def toBe (n v : Nat) : Bytes := (toLe n v).reverse

/-- The n bytes from position i, zero-filled past the end. -/
def slice (b : Bytes) (i n : Nat) : Bytes :=
  let d := (b.drop i).take n
  d ++ List.replicate (n - d.length) 0

/-- The little-endian word at byte position i. -/
def leWord (b : Bytes) (i : Nat) : Word := w32 (le b i 4)

/-- The bytes of a list of words, each little-endian. -/
def wordsBytes (ws : List Word) : Bytes := ws.flatMap fun w => toLe 4 w.toNat

/-- The little-endian words of a string of bytes, n of them. -/
def bytesWords : Nat → Bytes → List Word
  | 0, _ => []
  | n + 1, b => leWord b 0 :: bytesWords n (b.drop 4)

/-! ### Sparse data -/

/-- The value listed at a key. -/
def Sparse.find {α : Type} : Sparse α → Nat → Option α
  | [], _ => none
  | (k, v) :: r, a => if k = a then some v else Sparse.find r a

/-- The data without any entry at a key. -/
def Sparse.del {α : Type} (l : Sparse α) (a : Nat) : Sparse α := l.filter fun p => p.1 != a

/-- The data with an entry put before the first larger key. -/
def Sparse.ins {α : Type} (a : Nat) (v : α) : Sparse α → Sparse α
  | [] => [(a, v)]
  | (k, x) :: r => if a < k then (a, v) :: (k, x) :: r else (k, x) :: Sparse.ins a v r

/-- The data with the value at a key set. -/
def Sparse.put {α : Type} (l : Sparse α) (a : Nat) (v : α) : Sparse α := Sparse.ins a v (Sparse.del l a)

/-- The value at a key, or what an unlisted key reads as. -/
def Sparse.get {α : Type} (dflt : Nat → α) (l : Sparse α) (a : Nat) : α := (Sparse.find l a).getD (dflt a)

/-- The data with the value at a key set, listing no value that an unlisted key reads as. -/
def Sparse.set {α : Type} [DecidableEq α] (dflt : Nat → α) (l : Sparse α) (a : Nat) (v : α) : Sparse α :=
  if v = dflt a then Sparse.del l a else Sparse.put l a v

/-- Keys strictly rising. -/
def Sparse.sorted {α : Type} (l : Sparse α) : Bool :=
  match l with
  | [] => true
  | (k, _) :: r => (match r with | [] => true | (k', _) :: _ => decide (k < k')) && Sparse.sorted r

/-- The canonical form: keys strictly rising, and no entry equal to what an unlisted key reads as. -/
def Sparse.wf {α : Type} [DecidableEq α] (dflt : Nat → α) (l : Sparse α) : Bool :=
  Sparse.sorted l && l.all fun p => decide (p.2 ≠ dflt p.1)

/-! ### Lists by position -/

/-- The list with position i replaced. -/
def setAt {α : Type} (l : List α) (i : Nat) (v : α) : List α := l.set i v

/-- The list with position i mapped. -/
def modAt {α : Type} (l : List α) (i : Nat) (f : α → α) : List α := l.modify i f

/-- Add n to a 32-bit count that saturates. -/
def satAdd (w : Word) (n : Nat) : Word := w32 (min (w.toNat + n) 0xFFFFFFFF)

/-- The largest number below 2^n, above a, for which p holds, where p holds of all smaller ones. -/
def searchTop (p : Nat → Bool) : Nat → Nat → Nat
  | 0, a => a
  | n + 1, a => if p (a + 2 ^ n) then searchTop p n (a + 2 ^ n) else searchTop p n a

/-- The integer square root. -/
def isqrt (n : Nat) : Nat := searchTop (fun m => decide (m * m ≤ n)) (Nat.log2 n / 2 + 1) 0

/-- Ceiling of a quotient. -/
def cdiv (a b : Nat) : Nat := (a + b - 1) / b

end Sys2Proof.Machine
end

