-- ==== Sys2Proof/Machine/Crc.lean ====
section
/-! DEFINITION. The CRC that WIDTH, POLY, INIT, REFIN, REFOUT and XOROUT define, and the presets of R125. -/

namespace Sys2Proof.Machine

open Sys2Proof

/-- The parameters of a CRC (R125). -/
structure CrcPar where
  width  : Nat
  poly   : Nat
  init   : Nat
  refin  : Bool
  refout : Bool
  xorout : Nat
  deriving DecidableEq, Repr

/-- The low n bits of v in reverse order. -/
def reflect : Nat → Nat → Nat
  | 0, _ => 0
  | n + 1, v => v % 2 * 2 ^ n + reflect n (v / 2)

/-- One bit of CRC division, most significant bit first. -/
def crcBit (p : CrcPar) (reg : Nat) : Nat :=
  if reg / 2 ^ (p.width - 1) % 2 = 1 then Nat.xor (reg * 2 % 2 ^ p.width) p.poly else reg * 2 % 2 ^ p.width

/-- n bits of CRC division. -/
def crcBits (p : CrcPar) : Nat → Nat → Nat
  | 0, reg => reg
  | n + 1, reg => crcBits p n (crcBit p reg)

/-- Absorb one byte into the running value. -/
def crcByte (p : CrcPar) (reg : Nat) (b : Byte) : Nat :=
  let x := if p.refin then reflect 8 b.toNat else b.toNat
  crcBits p 8 (Nat.xor reg (x * 2 ^ (p.width - 8)))

/-- Absorb bytes into the running value, before the final reflection and XOR (R124). -/
def crcRun (p : CrcPar) (reg : Nat) (bs : Bytes) : Nat := bs.foldl (crcByte p) reg

/-- The final reflection and XOR. -/
def crcFinish (p : CrcPar) (reg : Nat) : Nat :=
  Nat.xor (if p.refout then reflect p.width reg else reg) p.xorout

/-- The check value of a string of bytes. -/
def crcOf (p : CrcPar) (bs : Bytes) : Nat := crcFinish p (crcRun p p.init bs)

/-- PRESET 1: CRC-16-CCITT. -/
def crc16 : CrcPar := ⟨16, 0x1021, 0, true, true, 0⟩
/-- PRESET 2: CRC-24Q. -/
def crc24 : CrcPar := ⟨24, 0x864CFB, 0, false, false, 0⟩
/-- PRESET 3: CRC-32. -/
def crc32 : CrcPar := ⟨32, 0x04C11DB7, 0xFFFFFFFF, true, true, 0xFFFFFFFF⟩
/-- PRESET 4: CRC-32C. -/
def crc32c : CrcPar := ⟨32, 0x1EDC6F41, 0xFFFFFFFF, true, true, 0xFFFFFFFF⟩

end Sys2Proof.Machine
end

