-- ==== Sys2Proof/Machine/RegMap.lean ====
section
/-! DEFINITION. The register map: every register of every page with its reset value and its access masks, and a name for its BAR0 offset. -/

namespace Sys2Proof.Machine

open Sys2Proof

/-- One line of a register table: the offset in its page, two index dimensions as stride and count,
the reset value, and the masks of the bits of each access type (R11): written by software, of these RWL, RWS, RWP; read-clears; write-1-clears; write-1-sets. -/
structure RegRow where
  off : Nat
  stride1 : Nat
  count1 : Nat
  stride2 : Nat
  count2 : Nat
  reset : Word
  wr : Word
  lk : Word
  ws : Word
  pw : Word
  rc : Word
  w1c : Word
  w1s : Word
  deriving DecidableEq, Repr

/-- The registers of page RST above its header. -/
def RegMap.rst : List RegRow :=
  [
  -- RST_CAUSE, RO
  ⟨0x040, 0, 1, 0, 1, 0x101, 0x0, 0x0, 0x0, 0x0, 0x0, 0x0, 0x0⟩,
  -- STRAP, RO
  ⟨0x044, 0, 1, 0, 1, 0x0, 0x0, 0x0, 0x0, 0x0, 0x0, 0x0, 0x0⟩,
  -- ROLE, RO
  ⟨0x048, 0, 1, 0, 1, 0x0, 0x0, 0x0, 0x0, 0x0, 0x0, 0x0, 0x0⟩,
  -- SW_RESET, WO
  ⟨0x04C, 0, 1, 0, 1, 0x0, 0x0, 0x0, 0x0, 0x0, 0x0, 0x0, 0x0⟩,
  -- BLK_RST_SET_A, W1S
  ⟨0x050, 0, 1, 0, 1, 0x0, 0x0, 0x0, 0x0, 0x0, 0x0, 0x0, 0xFFFFFFFF⟩,
  -- BLK_RST_SET_B, W1S
  ⟨0x054, 0, 1, 0, 1, 0x0, 0x0, 0x0, 0x0, 0x0, 0x0, 0x0, 0x3⟩,
  -- BLK_RST_CLR_A, W1C
  ⟨0x058, 0, 1, 0, 1, 0x0, 0x0, 0x0, 0x0, 0x0, 0x0, 0xFFFFFFFF, 0x0⟩,
  -- BLK_RST_CLR_B, W1C
  ⟨0x05C, 0, 1, 0, 1, 0x0, 0x0, 0x0, 0x0, 0x0, 0x0, 0x3, 0x0⟩,
  -- BLK_IN_RESET_A, RO
  ⟨0x060, 0, 1, 0, 1, 0xFFFFFFFF, 0x0, 0x0, 0x0, 0x0, 0x0, 0x0, 0x0⟩,
  -- BLK_IN_RESET_B, RO
  ⟨0x064, 0, 1, 0, 1, 0x3, 0x0, 0x0, 0x0, 0x0, 0x0, 0x0, 0x0⟩,
  -- BLK_REL_PEND_A, RO
  ⟨0x068, 0, 1, 0, 1, 0x0, 0x0, 0x0, 0x0, 0x0, 0x0, 0x0, 0x0⟩,
  -- BLK_REL_PEND_B, RO
  ⟨0x06C, 0, 1, 0, 1, 0x0, 0x0, 0x0, 0x0, 0x0, 0x0, 0x0, 0x0⟩,
  -- BLK_REL_FAIL_A, W1C
  ⟨0x070, 0, 1, 0, 1, 0x0, 0x0, 0x0, 0x0, 0x0, 0x0, 0xFFFFFFFF, 0x0⟩,
  -- BLK_REL_FAIL_B, W1C
  ⟨0x074, 0, 1, 0, 1, 0x0, 0x0, 0x0, 0x0, 0x0, 0x0, 0x3, 0x0⟩ ]

/-- The registers of page SYS above its header. -/
def RegMap.sys : List RegRow :=
  [
  -- MODULE_ID, RO
  ⟨0x040, 0, 1, 0, 1, 0x0, 0x0, 0x0, 0x0, 0x0, 0x0, 0x0, 0x0⟩,
  -- IDENT_LO, RO
  ⟨0x044, 0, 1, 0, 1, 0x0, 0x0, 0x0, 0x0, 0x0, 0x0, 0x0, 0x0⟩,
  -- IDENT_HI, RO
  ⟨0x048, 0, 1, 0, 1, 0x0, 0x0, 0x0, 0x0, 0x0, 0x0, 0x0, 0x0⟩,
  -- APT_BASE_LO, RW
  ⟨0x050, 0, 1, 0, 1, 0x0, 0xFFF00000, 0x0, 0x0, 0x0, 0x0, 0x0, 0x0⟩,
  -- APT_BASE_HI, RW
  ⟨0x054, 0, 1, 0, 1, 0x0, 0x7, 0x0, 0x0, 0x0, 0x0, 0x0, 0x0⟩,
  -- APT_CTRL, W1S
  ⟨0x058, 0, 1, 0, 1, 0x0, 0x0, 0x0, 0x0, 0x0, 0x0, 0x0, 0x1⟩,
  -- APT_STAT, RO, W1C
  ⟨0x05C, 0, 1, 0, 1, 0x0, 0x0, 0x0, 0x0, 0x0, 0x0, 0x2, 0x0⟩,
  -- ERR_ADDR_LO, RO
  ⟨0x060, 0, 1, 0, 1, 0x0, 0x0, 0x0, 0x0, 0x0, 0x0, 0x0, 0x0⟩,
  -- ERR_ADDR_HI, RO
  ⟨0x064, 0, 1, 0, 1, 0x0, 0x0, 0x0, 0x0, 0x0, 0x0, 0x0, 0x0⟩,
  -- SW_IRQ_SET, W1S
  ⟨0x068, 0, 1, 0, 1, 0x0, 0x0, 0x0, 0x0, 0x0, 0x0, 0x0, 0x3FF⟩,
  -- SW_IRQ_PEND, W1C
  ⟨0x06C, 0, 1, 0, 1, 0x0, 0x0, 0x0, 0x0, 0x0, 0x0, 0x3FF, 0x0⟩,
  -- HOST_BEAT, WO
  ⟨0x070, 0, 1, 0, 1, 0x0, 0x0, 0x0, 0x0, 0x0, 0x0, 0x0, 0x0⟩,
  -- HOST_STAT, RO
  ⟨0x074, 0, 1, 0, 1, 0x0, 0x0, 0x0, 0x0, 0x0, 0x0, 0x0, 0x0⟩,
  -- HOST_TIMEOUT, RWS
  ⟨0x078, 0, 1, 0, 1, 0x20, 0xFF, 0x0, 0xFF, 0x0, 0x0, 0x0, 0x0⟩ ]

/-- The registers of page MBX above its header. -/
def RegMap.mbx : List RegRow :=
  [
  -- H2M_BASE_LO, RWS
  ⟨0x040, 0, 1, 0, 1, 0x0, 0xFFFFF000, 0x0, 0xFFFFF000, 0x0, 0x0, 0x0, 0x0⟩,
  -- H2M_BASE_HI, RWS
  ⟨0x044, 0, 1, 0, 1, 0x0, 0xFFFFFFFF, 0x0, 0xFFFFFFFF, 0x0, 0x0, 0x0, 0x0⟩,
  -- H2M_CFG, RWS
  ⟨0x048, 0, 1, 0, 1, 0x0, 0xF, 0x0, 0xF, 0x0, 0x0, 0x0, 0x0⟩,
  -- H2M_TAIL, RW
  ⟨0x04C, 0, 1, 0, 1, 0x0, 0xFFFF, 0x0, 0x0, 0x0, 0x0, 0x0, 0x0⟩,
  -- H2M_HEAD, RO
  ⟨0x050, 0, 1, 0, 1, 0x0, 0x0, 0x0, 0x0, 0x0, 0x0, 0x0, 0x0⟩,
  -- M2H_BASE_LO, RWS
  ⟨0x054, 0, 1, 0, 1, 0x0, 0xFFFFF000, 0x0, 0xFFFFF000, 0x0, 0x0, 0x0, 0x0⟩,
  -- M2H_BASE_HI, RWS
  ⟨0x058, 0, 1, 0, 1, 0x0, 0xFFFFFFFF, 0x0, 0xFFFFFFFF, 0x0, 0x0, 0x0, 0x0⟩,
  -- M2H_CFG, RWS
  ⟨0x05C, 0, 1, 0, 1, 0x0, 0xF, 0x0, 0xF, 0x0, 0x0, 0x0, 0x0⟩,
  -- M2H_TAIL, RO
  ⟨0x060, 0, 1, 0, 1, 0x0, 0x0, 0x0, 0x0, 0x0, 0x0, 0x0, 0x0⟩,
  -- M2H_HEAD, RW
  ⟨0x064, 0, 1, 0, 1, 0x0, 0xFFFF, 0x0, 0x0, 0x0, 0x0, 0x0, 0x0⟩,
  -- MBX_STAT, RO
  ⟨0x068, 0, 1, 0, 1, 0x0, 0x0, 0x0, 0x0, 0x0, 0x0, 0x0, 0x0⟩,
  -- MBX_EPOCH, RWS
  ⟨0x06C, 0, 1, 0, 1, 0x0, 0xFFFFFFFF, 0x0, 0xFFFFFFFF, 0x0, 0x0, 0x0, 0x0⟩ ]

/-- The registers of page MKT0 above its header. -/
def RegMap.mkt0 : List RegRow :=
  [
  -- MKT_CFG, RWL
  ⟨0x040, 0, 1, 0, 1, 0x10, 0x1FFF00FF, 0x1FFF00FF, 0x0, 0x0, 0x0, 0x0, 0x0⟩,
  -- OVR_CFG, RWL
  ⟨0x044, 0, 1, 0, 1, 0x1, 0x3, 0x3, 0x0, 0x0, 0x0, 0x0, 0x0⟩,
  -- OVR_LAST, RO
  ⟨0x048, 0, 1, 0, 1, 0x0, 0x0, 0x0, 0x0, 0x0, 0x0, 0x0, 0x0⟩,
  -- OVR_TOTAL, RC
  ⟨0x04C, 0, 1, 0, 1, 0x0, 0x0, 0x0, 0x0, 0x0, 0xFFFFFFFF, 0x0, 0x0⟩,
  -- OVR_TICK, RO
  ⟨0x050, 0, 1, 0, 1, 0x0, 0x0, 0x0, 0x0, 0x0, 0x0, 0x0, 0x0⟩,
  -- HELD, RO
  ⟨0x054, 0, 1, 0, 1, 0x0, 0x0, 0x0, 0x0, 0x0, 0x0, 0x0, 0x0⟩,
  -- HELD_HW, RC
  ⟨0x058, 0, 1, 0, 1, 0x0, 0x0, 0x0, 0x0, 0x0, 0xFFFFFFFF, 0x0, 0x0⟩,
  -- MATCH_USED, RO
  ⟨0x05C, 0, 1, 0, 1, 0x0, 0x0, 0x0, 0x0, 0x0, 0x0, 0x0, 0x0⟩,
  -- STORE_FULL_CNT, RC
  ⟨0x060, 0, 1, 0, 1, 0x0, 0x0, 0x0, 0x0, 0x0, 0xFFFFFFFF, 0x0, 0x0⟩,
  -- MATCH_TO_CNT, RC
  ⟨0x064, 0, 1, 0, 1, 0x0, 0x0, 0x0, 0x0, 0x0, 0xFFFFFFFF, 0x0, 0x0⟩,
  -- CONFLICT_CNT, RC
  ⟨0x068, 0, 1, 0, 1, 0x0, 0x0, 0x0, 0x0, 0x0, 0xFFFFFFFF, 0x0, 0x0⟩,
  -- CLASS_CFG0–CLASS_CFG7, RWL
  ⟨0x080, 4, 8, 0, 1, 0x0, 0xFF1F, 0xFF1F, 0x0, 0x0, 0x0, 0x0, 0x0⟩,
  -- DOM_SEL, RW
  ⟨0x0A0, 0, 1, 0, 1, 0x0, 0xFFF, 0x0, 0x0, 0x0, 0x0, 0x0, 0x0⟩,
  -- DOM_CFG, RWL
  ⟨0x0A4, 0, 1, 0, 1, 0x1, 0xF, 0xF, 0x0, 0x0, 0x0, 0x0, 0x0⟩,
  -- CTR_SEL, RW
  ⟨0x0A8, 0, 1, 0, 1, 0x0, 0x3FF, 0x0, 0x0, 0x0, 0x0, 0x0, 0x0⟩,
  -- CTR_VAL, RW
  ⟨0x0AC, 0, 1, 0, 1, 0x0, 0xFFFF, 0x0, 0x0, 0x0, 0x0, 0x0, 0x0⟩,
  -- CTR_ADD, WO
  ⟨0x0B0, 0, 1, 0, 1, 0x0, 0x0, 0x0, 0x0, 0x0, 0x0, 0x0, 0x0⟩,
  -- CTR_WAITERS, RO
  ⟨0x0B4, 0, 1, 0, 1, 0x0, 0x0, 0x0, 0x0, 0x0, 0x0, 0x0, 0x0⟩ ]

/-- The registers of page MKT1 above its header. -/
def RegMap.mkt1 : List RegRow :=
  [
  -- SUBMIT_H0–SUBMIT_H7, WO
  ⟨0x040, 4, 8, 0, 1, 0x0, 0x0, 0x0, 0x0, 0x0, 0x0, 0x0, 0x0⟩,
  -- SUBMIT_S0–SUBMIT_S7, WO
  ⟨0x060, 4, 8, 0, 1, 0x0, 0x0, 0x0, 0x0, 0x0, 0x0, 0x0, 0x0⟩,
  -- TAKE0, RC
  ⟨0x080, 0, 1, 0, 1, 0x0, 0x0, 0x0, 0x0, 0x0, 0xFF000007, 0x0, 0x0⟩,
  -- TAKE0_POLL, RC
  ⟨0x084, 0, 1, 0, 1, 0x0, 0x0, 0x0, 0x0, 0x0, 0xFF000007, 0x0, 0x0⟩,
  -- RETIRE0, WO
  ⟨0x088, 0, 1, 0, 1, 0x0, 0x0, 0x0, 0x0, 0x0, 0x0, 0x0, 0x0⟩,
  -- TAKE1, RC
  ⟨0x090, 0, 1, 0, 1, 0x0, 0x0, 0x0, 0x0, 0x0, 0xFF000007, 0x0, 0x0⟩,
  -- TAKE1_POLL, RC
  ⟨0x094, 0, 1, 0, 1, 0x0, 0x0, 0x0, 0x0, 0x0, 0xFF000007, 0x0, 0x0⟩,
  -- RETIRE1, WO
  ⟨0x098, 0, 1, 0, 1, 0x0, 0x0, 0x0, 0x0, 0x0, 0x0, 0x0, 0x0⟩,
  -- TBUF0, RO
  ⟨0x100, 4, 64, 0, 1, 0x0, 0x0, 0x0, 0x0, 0x0, 0x0, 0x0, 0x0⟩,
  -- TBUF1, RO
  ⟨0x200, 4, 64, 0, 1, 0x0, 0x0, 0x0, 0x0, 0x0, 0x0, 0x0, 0x0⟩ ]

/-- The registers of page LANE above its header. -/
def RegMap.lane : List RegRow :=
  [
  -- LANE_CFG, RWL
  ⟨0x040, 0, 1, 0, 1, 0x0, 0xFF, 0xFF, 0x0, 0x0, 0x0, 0x0, 0x0⟩,
  -- WDOG, RWL
  ⟨0x044, 0, 1, 0, 1, 0x0, 0xFFFF, 0xFFFF, 0x0, 0x0, 0x0, 0x0, 0x0⟩,
  -- LANE_STAT, RO
  ⟨0x048, 0, 1, 0, 1, 0x0, 0x0, 0x0, 0x0, 0x0, 0x0, 0x0, 0x0⟩,
  -- CUR_WARE, RO
  ⟨0x04C, 0, 1, 0, 1, 0x0, 0x0, 0x0, 0x0, 0x0, 0x0, 0x0, 0x0⟩,
  -- RUN_TICKS, RO
  ⟨0x050, 0, 1, 0, 1, 0x0, 0x0, 0x0, 0x0, 0x0, 0x0, 0x0, 0x0⟩,
  -- WARES_DONE, RC
  ⟨0x054, 0, 1, 0, 1, 0x0, 0x0, 0x0, 0x0, 0x0, 0xFFFFFFFF, 0x0, 0x0⟩,
  -- BUSY_TIME, RO
  ⟨0x058, 0, 1, 0, 1, 0x0, 0x0, 0x0, 0x0, 0x0, 0x0, 0x0, 0x0⟩,
  -- OVR_COUNT, RC
  ⟨0x05C, 0, 1, 0, 1, 0x0, 0x0, 0x0, 0x0, 0x0, 0xFFFFFFFF, 0x0, 0x0⟩,
  -- LS_MISMATCH, RWS
  ⟨0x060, 0, 1, 0, 1, 0x0, 0xFFFFFFFF, 0x0, 0xFFFFFFFF, 0x0, 0x0, 0x0, 0x0⟩,
  -- LS_COUNT, RWS
  ⟨0x064, 0, 1, 0, 1, 0x0, 0xFFFFFFFF, 0x0, 0xFFFFFFFF, 0x0, 0x0, 0x0, 0x0⟩ ]

/-- The registers of page QUE0 above its header. -/
def RegMap.que0 : List RegRow :=
  [
  -- QUE_EMPTY, RO
  ⟨0x040, 0, 1, 0, 1, 0xFFFF, 0x0, 0x0, 0x0, 0x0, 0x0, 0x0, 0x0⟩,
  -- QUE_FULL, RO
  ⟨0x044, 0, 1, 0, 1, 0x0, 0x0, 0x0, 0x0, 0x0, 0x0, 0x0, 0x0⟩,
  -- QCFGq, RW
  ⟨0x100, 32, 16, 0, 1, 0x80, 0x1FFF7FF3, 0x0, 0x0, 0x0, 0x0, 0x0, 0x4⟩,
  -- QCTq, RW
  ⟨0x104, 32, 16, 0, 1, 0x0, 0xFFF, 0x0, 0x0, 0x0, 0x0, 0x0, 0x0⟩,
  -- QFILLq, RO
  ⟨0x108, 32, 16, 0, 1, 0x0, 0x0, 0x0, 0x0, 0x0, 0x0, 0x0, 0x0⟩,
  -- QDROPq, RC
  ⟨0x10C, 32, 16, 0, 1, 0x0, 0x0, 0x0, 0x0, 0x0, 0xFFFFFFFF, 0x0, 0x0⟩,
  -- QPOPSq, RC
  ⟨0x110, 32, 16, 0, 1, 0x0, 0x0, 0x0, 0x0, 0x0, 0xFFFFFFFF, 0x0, 0x0⟩ ]

/-- The registers of page CHK above its header. -/
def RegMap.chk : List RegRow :=
  [
  -- CCFGu, RW
  ⟨0x100, 32, 8, 0, 1, 0x0, 0xF1F07FF, 0x0, 0x0, 0x0, 0x0, 0x0, 0x0⟩,
  -- CPOLYu, RW
  ⟨0x104, 32, 8, 0, 1, 0x0, 0xFFFFFFFF, 0x0, 0x0, 0x0, 0x0, 0x0, 0x0⟩,
  -- CINITu, RW
  ⟨0x108, 32, 8, 0, 1, 0x0, 0xFFFFFFFF, 0x0, 0x0, 0x0, 0x0, 0x0, 0x0⟩,
  -- CXORu, RW
  ⟨0x10C, 32, 8, 0, 1, 0x0, 0xFFFFFFFF, 0x0, 0x0, 0x0, 0x0, 0x0, 0x0⟩,
  -- CVALu, RW
  ⟨0x110, 32, 8, 0, 1, 0x0, 0xFFFFFFFF, 0x0, 0x0, 0x0, 0x0, 0x0, 0x0⟩,
  -- CRESULTu, RC
  ⟨0x114, 32, 8, 0, 1, 0x0, 0x0, 0x0, 0x0, 0x0, 0xFFFFFFFF, 0x0, 0x0⟩,
  -- CBYTESu, RO
  ⟨0x118, 32, 8, 0, 1, 0x0, 0x0, 0x0, 0x0, 0x0, 0x0, 0x0, 0x0⟩,
  -- CFRAMESu, RC
  ⟨0x11C, 32, 8, 0, 1, 0x0, 0x0, 0x0, 0x0, 0x0, 0xFFFFFFFF, 0x0, 0x0⟩ ]

/-- The registers of page MEM above its header. -/
def RegMap.mem : List RegRow :=
  [
  -- MEM_CFG, RWL
  ⟨0x040, 0, 1, 0, 1, 0x1, 0xFFFF01, 0xFFFF01, 0x0, 0x0, 0x0, 0x0, 0x0⟩,
  -- SCRUB_INT, RWL
  ⟨0x044, 0, 1, 0, 1, 0x2DF, 0x3FF, 0x3FF, 0x0, 0x0, 0x0, 0x0, 0x0⟩,
  -- SCRUB_PTR, RO
  ⟨0x048, 0, 1, 0, 1, 0x0, 0x0, 0x0, 0x0, 0x0, 0x0, 0x0, 0x0⟩,
  -- SCRUB_PASS, RO
  ⟨0x04C, 0, 1, 0, 1, 0x0, 0x0, 0x0, 0xFFFFFFFF, 0x0, 0x0, 0x0, 0x0⟩,
  -- CE_COUNT, RC
  ⟨0x050, 0, 1, 0, 1, 0x0, 0x0, 0x0, 0x0, 0x0, 0xFFFFFFFF, 0x0, 0x0⟩,
  -- UE_COUNT, RC
  ⟨0x054, 0, 1, 0, 1, 0x0, 0x0, 0x0, 0x0, 0x0, 0xFFFFFFFF, 0x0, 0x0⟩,
  -- POISON_HITS, RC
  ⟨0x058, 0, 1, 0, 1, 0x0, 0x0, 0x0, 0x0, 0x0, 0xFFFFFFFF, 0x0, 0x0⟩,
  -- ERR_INFO, RO
  ⟨0x05C, 0, 1, 0, 1, 0x0, 0x0, 0x0, 0x0, 0x0, 0x0, 0x0, 0x0⟩,
  -- CE_ADDR_LO, RO
  ⟨0x060, 0, 1, 0, 1, 0x0, 0x0, 0x0, 0x0, 0x0, 0x0, 0x0, 0x0⟩,
  -- CE_ADDR_HI, RO
  ⟨0x064, 0, 1, 0, 1, 0x0, 0x0, 0x0, 0x0, 0x0, 0x0, 0x0, 0x0⟩,
  -- UE_ADDR_LO, RO
  ⟨0x068, 0, 1, 0, 1, 0x0, 0x0, 0x0, 0x0, 0x0, 0x0, 0x0, 0x0⟩,
  -- UE_ADDR_HI, RO
  ⟨0x06C, 0, 1, 0, 1, 0x0, 0x0, 0x0, 0x0, 0x0, 0x0, 0x0, 0x0⟩,
  -- SRAM_CE_COUNT, RC
  ⟨0x070, 0, 1, 0, 1, 0x0, 0x0, 0x0, 0x0, 0x0, 0xFFFFFFFF, 0x0, 0x0⟩,
  -- SRAM_UE_COUNT, RC
  ⟨0x074, 0, 1, 0, 1, 0x0, 0x0, 0x0, 0x0, 0x0, 0xFFFFFFFF, 0x0, 0x0⟩,
  -- OCC_BASE, RWL
  ⟨0x080, 0, 1, 0, 1, 0x800, 0x1FFF, 0x1FFF, 0x0, 0x0, 0x0, 0x0, 0x0⟩,
  -- OCC_LAST, RW
  ⟨0x084, 0, 1, 0, 1, 0x0, 0xFFFFFFFF, 0x0, 0x0, 0x0, 0x0, 0x0, 0x0⟩,
  -- OCC_STAT, RW
  ⟨0x088, 0, 1, 0, 1, 0x0, 0x1, 0x0, 0x0, 0x0, 0x0, 0x0, 0x0⟩,
  -- LWINn_0, RW
  ⟨0x090, 8, 4, 0, 1, 0x0, 0x1F, 0x0, 0x0, 0x0, 0x0, 0x0, 0x0⟩,
  -- LWINn_1, RW
  ⟨0x094, 8, 4, 0, 1, 0x0, 0x1F, 0x0, 0x0, 0x0, 0x0, 0x0, 0x0⟩,
  -- REGr_BASE, RWL
  ⟨0x100, 16, 8, 0, 1, 0x0, 0x1FFF, 0x1FFF, 0x0, 0x0, 0x0, 0x0, 0x0⟩,
  -- REGr_LIMIT, RWL
  ⟨0x104, 16, 8, 0, 1, 0x0, 0x1FFF, 0x1FFF, 0x0, 0x0, 0x0, 0x0, 0x0⟩,
  -- REGr_ATTR, RWL
  ⟨0x108, 16, 8, 0, 1, 0x0, 0xF, 0xF, 0x0, 0x0, 0x0, 0x0, 0x0⟩ ]

/-- The registers of page NVS above its header. -/
def RegMap.nvs : List RegRow :=
  [
  -- NVS_STAT, RO
  ⟨0x040, 0, 1, 0, 1, 0x0, 0x0, 0x0, 0x0, 0x0, 0x0, 0x0, 0x0⟩,
  -- ECC_CE, RC
  ⟨0x044, 0, 1, 0, 1, 0x0, 0x0, 0x0, 0x0, 0x0, 0xFFFFFFFF, 0x0, 0x0⟩,
  -- ECC_UE, RC
  ⟨0x048, 0, 1, 0, 1, 0x0, 0x0, 0x0, 0x0, 0x0, 0xFFFFFFFF, 0x0, 0x0⟩,
  -- ECC_ADDR, RO
  ⟨0x04C, 0, 1, 0, 1, 0x0, 0x0, 0x0, 0x0, 0x0, 0x0, 0x0, 0x0⟩,
  -- NWRITERSr, RWL
  ⟨0x080, 4, 8, 0, 1, 0x0, 0x1FFF, 0x1FFF, 0x0, 0x0, 0x0, 0x0, 0x0⟩ ]

/-- The registers of page EMC above its header. -/
def RegMap.emc : List RegRow :=
  [
  -- EMC_STAT, RO
  ⟨0x040, 0, 1, 0, 1, 0x0, 0x0, 0x0, 0x0, 0x0, 0x0, 0x0, 0x0⟩,
  -- CAPACITY, RO
  ⟨0x044, 0, 1, 0, 1, 0x0, 0x0, 0x0, 0x0, 0x0, 0x0, 0x0, 0x0⟩,
  -- LIFE, RO
  ⟨0x048, 0, 1, 0, 1, 0x0, 0x0, 0x0, 0x0, 0x0, 0x0, 0x0, 0x0⟩,
  -- DEV_STATUS, RO
  ⟨0x04C, 0, 1, 0, 1, 0x0, 0x0, 0x0, 0x0, 0x0, 0x0, 0x0, 0x0⟩ ]

/-- The registers of page RAD above its header. -/
def RegMap.rad : List RegRow :=
  [
  -- RAD_CFG, RW
  ⟨0x040, 0, 1, 0, 1, 0x3002816, 0x7FFFF1F, 0x0, 0x0, 0x0, 0x0, 0x0, 0x0⟩,
  -- RAD_BACKOFF, RW
  ⟨0x044, 0, 1, 0, 1, 0x51, 0x77, 0x0, 0x0, 0x0, 0x0, 0x0, 0x0⟩,
  -- RAD_PWR, RW
  ⟨0x048, 0, 1, 0, 1, 0x30, 0xFF, 0x0, 0x0, 0x0, 0x0, 0x0, 0x0⟩,
  -- RAD_STAT, RO
  ⟨0x04C, 0, 1, 0, 1, 0x0, 0x0, 0x0, 0x0, 0x0, 0x0, 0x0, 0x0⟩,
  -- RSSI, RO
  ⟨0x050, 0, 1, 0, 1, 0x0, 0x0, 0x0, 0x0, 0x0, 0x0, 0x0, 0x0⟩,
  -- TX_SENT, RC
  ⟨0x054, 0, 1, 0, 1, 0x0, 0x0, 0x0, 0x0, 0x0, 0xFFFFFFFF, 0x0, 0x0⟩,
  -- RX_GOOD, RC
  ⟨0x058, 0, 1, 0, 1, 0x0, 0x0, 0x0, 0x0, 0x0, 0xFFFFFFFF, 0x0, 0x0⟩,
  -- RX_BAD, RC
  ⟨0x05C, 0, 1, 0, 1, 0x0, 0x0, 0x0, 0x0, 0x0, 0xFFFFFFFF, 0x0, 0x0⟩,
  -- NOACK_CNT, RC
  ⟨0x060, 0, 1, 0, 1, 0x0, 0x0, 0x0, 0x0, 0x0, 0xFFFFFFFF, 0x0, 0x0⟩,
  -- HELD_CNT, RC
  ⟨0x064, 0, 1, 0, 1, 0x0, 0x0, 0x0, 0x0, 0x0, 0xFFFFFFFF, 0x0, 0x0⟩,
  -- EXPIRED_CNT, RC
  ⟨0x068, 0, 1, 0, 1, 0x0, 0x0, 0x0, 0x0, 0x0, 0xFFFFFFFF, 0x0, 0x0⟩,
  -- ACK_WH, RC
  ⟨0x06C, 0, 1, 0, 1, 0x0, 0x0, 0x0, 0x0, 0x0, 0xFFFFFFFF, 0x0, 0x0⟩ ]

/-- The registers of page CHN above its header. -/
def RegMap.chn : List RegRow :=
  [
  -- CHN_CFG, RWL
  ⟨0x040, 0, 1, 0, 1, 0x0, 0x1, 0x1, 0x0, 0x0, 0x0, 0x0, 0x0⟩,
  -- DWELL_WIN, RWL
  ⟨0x044, 0, 1, 0, 1, 0x1914, 0xFF3F, 0xFF3F, 0x0, 0x0, 0x0, 0x0, 0x0⟩,
  -- DUTY_WIN, RWL
  ⟨0x048, 0, 1, 0, 1, 0x37, 0x3F, 0x3F, 0x0, 0x0, 0x0, 0x0, 0x0⟩,
  -- MIN_SEP, RWL
  ⟨0x04C, 0, 1, 0, 1, 0x2BC, 0x3FFF, 0x3FFF, 0x0, 0x0, 0x0, 0x0, 0x0⟩,
  -- HOP_LEN, RWL
  ⟨0x050, 0, 1, 0, 1, 0x8, 0x7F, 0x7F, 0x0, 0x0, 0x0, 0x0, 0x0⟩,
  -- HOP_COMMIT, W1S
  ⟨0x054, 0, 1, 0, 1, 0x0, 0x0, 0x0, 0x0, 0x0, 0x0, 0x0, 0x1⟩,
  -- HOP_AT, RW
  ⟨0x058, 0, 1, 0, 1, 0x0, 0xFFFFFFFF, 0x0, 0x0, 0x0, 0x0, 0x0, 0x0⟩,
  -- HOP_LIST0–HOP_LIST15, RWL
  ⟨0x060, 4, 16, 0, 1, 0x0, 0x3F3F3F3F, 0x3F3F3F3F, 0x0, 0x0, 0x0, 0x0, 0x0⟩,
  -- SBs_CFG, RWL
  ⟨0x0A0, 8, 8, 0, 1, 0x0, 0x80FF3FFF, 0x80FF3FFF, 0x0, 0x0, 0x0, 0x0, 0x0⟩,
  -- SBs_USED, RO
  ⟨0x0A4, 8, 8, 0, 1, 0x0, 0x0, 0x0, 0x0, 0x0, 0x0, 0x0, 0x0⟩,
  -- CHc_CFG, RWL
  ⟨0x100, 8, 64, 0, 1, 0x0, 0x8771FFFF, 0x8771FFFF, 0x0, 0x0, 0x0, 0x0, 0x0⟩,
  -- CHc_LIM, RWL
  ⟨0x104, 8, 64, 0, 1, 0x0, 0xFFFFFF, 0xFFFFFF, 0x0, 0x0, 0x0, 0x0, 0x0⟩,
  -- CHc_DWELL_USED, RO
  ⟨0x300, 4, 64, 0, 1, 0x0, 0x0, 0x0, 0x0, 0x0, 0x0, 0x0, 0x0⟩ ]

/-- The registers of page LNK0 above its header. -/
def RegMap.lnk0 : List RegRow :=
  [
  -- LNK_KEYS0, RWL
  ⟨0x040, 0, 1, 0, 1, 0x0, 0x3F3F3F, 0x3F3F3F, 0x0, 0x0, 0x0, 0x0, 0x0⟩,
  -- LNK_KEYS1, RWL
  ⟨0x044, 0, 1, 0, 1, 0x0, 0x3F3F, 0x3F3F, 0x0, 0x0, 0x0, 0x0, 0x0⟩,
  -- LNK_GEN, RW
  ⟨0x048, 0, 1, 0, 1, 0x2, 0x7, 0x0, 0x0, 0x0, 0x0, 0x0, 0x0⟩,
  -- GEN_NEXT, RW
  ⟨0x04C, 0, 1, 0, 1, 0x0, 0x3, 0x0, 0x0, 0x0, 0x0, 0x0, 0x0⟩,
  -- GEN_AT, RW
  ⟨0x050, 0, 1, 0, 1, 0x0, 0xFFFFFFFF, 0x0, 0x0, 0x0, 0x0, 0x0, 0x0⟩,
  -- TBL_BASE, RWL
  ⟨0x054, 0, 1, 0, 1, 0x100, 0x1FFF, 0x1FFF, 0x0, 0x0, 0x0, 0x0, 0x0⟩,
  -- IDX_BASE, RWL
  ⟨0x058, 0, 1, 0, 1, 0x108, 0x1FFF, 0x1FFF, 0x0, 0x0, 0x0, 0x0, 0x0⟩,
  -- MIRROR_BASE, RWL
  ⟨0x05C, 0, 1, 0, 1, 0x600000, 0x7FFFFF, 0x7FFFFF, 0x0, 0x0, 0x0, 0x0, 0x0⟩,
  -- LNK_CFG, RW
  ⟨0x060, 0, 1, 0, 1, 0x1, 0x1, 0x0, 0x0, 0x0, 0x0, 0x0, 0x0⟩,
  -- CTR_TX_SK0, RW
  ⟨0x064, 0, 1, 0, 1, 0x0, 0xFFFFFFFF, 0x0, 0x0, 0x0, 0x0, 0x0, 0x0⟩,
  -- CTR_TX_SK1, RW
  ⟨0x068, 0, 1, 0, 1, 0x0, 0xFFFFFFFF, 0x0, 0x0, 0x0, 0x0, 0x0, 0x0⟩,
  -- CTR_TX_NK, RW
  ⟨0x06C, 0, 1, 0, 1, 0x0, 0xFFFFFFFF, 0x0, 0x0, 0x0, 0x0, 0x0, 0x0⟩,
  -- CTR_RESERVE, RO
  ⟨0x070, 0, 1, 0, 1, 0x0, 0x0, 0x0, 0x0, 0x0, 0x0, 0x0, 0x0⟩,
  -- VFY_Q, RW
  ⟨0x074, 0, 1, 0, 1, 0x0, 0xFF, 0x0, 0x0, 0x0, 0x0, 0x0, 0x0⟩,
  -- RX_ACCEPT, RC
  ⟨0x080, 0, 1, 0, 1, 0x0, 0x0, 0x0, 0x0, 0x0, 0xFFFFFFFF, 0x0, 0x0⟩,
  -- RX_DUP, RC
  ⟨0x084, 0, 1, 0, 1, 0x0, 0x0, 0x0, 0x0, 0x0, 0xFFFFFFFF, 0x0, 0x0⟩,
  -- RX_REPLAY, RC
  ⟨0x088, 0, 1, 0, 1, 0x0, 0x0, 0x0, 0x0, 0x0, 0xFFFFFFFF, 0x0, 0x0⟩,
  -- RX_CONFLICT, RC
  ⟨0x08C, 0, 1, 0, 1, 0x0, 0x0, 0x0, 0x0, 0x0, 0xFFFFFFFF, 0x0, 0x0⟩,
  -- RX_MIC_FAIL, RC
  ⟨0x090, 0, 1, 0, 1, 0x0, 0x0, 0x0, 0x0, 0x0, 0xFFFFFFFF, 0x0, 0x0⟩,
  -- RX_UNKNOWN, RC
  ⟨0x094, 0, 1, 0, 1, 0x0, 0x0, 0x0, 0x0, 0x0, 0xFFFFFFFF, 0x0, 0x0⟩,
  -- RX_BAD_SEC, RC
  ⟨0x098, 0, 1, 0, 1, 0x0, 0x0, 0x0, 0x0, 0x0, 0xFFFFFFFF, 0x0, 0x0⟩,
  -- ACK_SENT, RC
  ⟨0x09C, 0, 1, 0, 1, 0x0, 0x0, 0x0, 0x0, 0x0, 0xFFFFFFFF, 0x0, 0x0⟩,
  -- ACK_RESENT, RC
  ⟨0x0A0, 0, 1, 0, 1, 0x0, 0x0, 0x0, 0x0, 0x0, 0xFFFFFFFF, 0x0, 0x0⟩,
  -- ACK_IN_BAD, RC
  ⟨0x0A4, 0, 1, 0, 1, 0x0, 0x0, 0x0, 0x0, 0x0, 0xFFFFFFFF, 0x0, 0x0⟩,
  -- REFILL_CNT, RC
  ⟨0x0A8, 0, 1, 0, 1, 0x0, 0x0, 0x0, 0x0, 0x0, 0xFFFFFFFF, 0x0, 0x0⟩,
  -- REFILL_LATE, RC
  ⟨0x0AC, 0, 1, 0, 1, 0x0, 0x0, 0x0, 0x0, 0x0, 0xFFFFFFFF, 0x0, 0x0⟩,
  -- REFILL_MAX, RC
  ⟨0x0B0, 0, 1, 0, 1, 0x0, 0x0, 0x0, 0x0, 0x0, 0xFFFFFFFF, 0x0, 0x0⟩,
  -- VERDICT_MAX, RC
  ⟨0x0B4, 0, 1, 0, 1, 0x0, 0x0, 0x0, 0x0, 0x0, 0xFFFFFFFF, 0x0, 0x0⟩,
  -- CTX_SEL, RW
  ⟨0x0C0, 0, 1, 0, 1, 0x0, 0x1FF, 0x0, 0x0, 0x0, 0x0, 0x0, 0x0⟩,
  -- CTX_INFO, RO
  ⟨0x0C4, 0, 1, 0, 1, 0x0, 0x0, 0x0, 0x0, 0x0, 0x0, 0x0, 0x0⟩,
  -- CTX_CTRL, W1S
  ⟨0x0C8, 0, 1, 0, 1, 0x0, 0x0, 0x0, 0x0, 0x0, 0x0, 0x0, 0x1⟩,
  -- CTX_INVAL, WO
  ⟨0x0CC, 0, 1, 0, 1, 0x0, 0x0, 0x0, 0x0, 0x0, 0x0, 0x0, 0x0⟩ ]

/-- The registers of page LNK1 above its header. -/
def RegMap.lnk1 : List RegRow :=
  [
  -- ROUTE_At, RW
  ⟨0x048, 8, 12, 0, 1, 0x0, 0xFFF07F3, 0x0, 0x0, 0x0, 0x0, 0x0, 0x0⟩,
  -- ROUTE_Bt, RW
  ⟨0x04C, 8, 12, 0, 1, 0x0, 0x1FFFF, 0x0, 0x0, 0x0, 0x0, 0x0, 0x0⟩ ]

/-- The registers of page BCN above its header. -/
def RegMap.bcn : List RegRow :=
  [
  -- BCN_CFG, RW
  ⟨0x040, 0, 1, 0, 1, 0x0, 0x7, 0x0, 0x0, 0x0, 0x0, 0x0, 0x0⟩,
  -- BCN_NODE, RW
  ⟨0x044, 0, 1, 0, 1, 0x0, 0x1FFFFF, 0x0, 0x0, 0x0, 0x0, 0x0, 0x0⟩,
  -- BCN_DRIFT, RW
  ⟨0x048, 0, 1, 0, 1, 0x1F4, 0xFFFF, 0x0, 0x0, 0x0, 0x0, 0x0, 0x0⟩,
  -- BCN_TPL, RW
  ⟨0x04C, 0, 1, 0, 1, 0x0, 0xFFFF, 0x0, 0x0, 0x0, 0x0, 0x0, 0x0⟩,
  -- BCN_EPOCH, RW
  ⟨0x050, 0, 1, 0, 1, 0x0, 0xFFFF, 0x0, 0x0, 0x0, 0x0, 0x0, 0x0⟩,
  -- BCN_STAT, RO
  ⟨0x054, 0, 1, 0, 1, 0x0, 0x0, 0x0, 0x0, 0x0, 0x0, 0x0, 0x0⟩,
  -- SF_LAST, RO
  ⟨0x058, 0, 1, 0, 1, 0x0, 0x0, 0x0, 0x0, 0x0, 0x0, 0x0, 0x0⟩,
  -- GUARD, RO
  ⟨0x05C, 0, 1, 0, 1, 0x0, 0x0, 0x0, 0x0, 0x0, 0x0, 0x0, 0x0⟩,
  -- MARGIN, RO
  ⟨0x060, 0, 1, 0, 1, 0x0, 0x0, 0x0, 0x0, 0x0, 0x0, 0x0, 0x0⟩,
  -- BCN_TX, RC
  ⟨0x064, 0, 1, 0, 1, 0x0, 0x0, 0x0, 0x0, 0x0, 0xFFFFFFFF, 0x0, 0x0⟩,
  -- BCN_HELD, RC
  ⟨0x068, 0, 1, 0, 1, 0x0, 0x0, 0x0, 0x0, 0x0, 0xFFFFFFFF, 0x0, 0x0⟩,
  -- BCN_RX, RC
  ⟨0x06C, 0, 1, 0, 1, 0x0, 0x0, 0x0, 0x0, 0x0, 0xFFFFFFFF, 0x0, 0x0⟩,
  -- BCN_MISS, RC
  ⟨0x070, 0, 1, 0, 1, 0x0, 0x0, 0x0, 0x0, 0x0, 0xFFFFFFFF, 0x0, 0x0⟩,
  -- ORPHAN_CNT, RC
  ⟨0x074, 0, 1, 0, 1, 0x0, 0x0, 0x0, 0x0, 0x0, 0xFFFFFFFF, 0x0, 0x0⟩ ]

/-- The registers of page NTM above its header. -/
def RegMap.ntm : List RegRow :=
  [
  -- NTM_CFG, RWS
  ⟨0x040, 0, 1, 0, 1, 0x14, 0x1F, 0x0, 0x1F, 0x0, 0x0, 0x0, 0x0⟩,
  -- NTM_STAT, RO
  ⟨0x044, 0, 1, 0, 1, 0x3F00, 0x0, 0x0, 0x0, 0x0, 0x0, 0x0, 0x0⟩,
  -- CNT_LO, RO
  ⟨0x048, 0, 1, 0, 1, 0x0, 0x0, 0x0, 0x0, 0x0, 0x0, 0x0, 0x0⟩,
  -- CNT_HI, RO
  ⟨0x04C, 0, 1, 0, 1, 0x0, 0x0, 0x0, 0x0, 0x0, 0x0, 0x0, 0x0⟩,
  -- SNAP, WO
  ⟨0x050, 0, 1, 0, 1, 0x0, 0x0, 0x0, 0x0, 0x0, 0x0, 0x0, 0x0⟩,
  -- SNAP_CNT_LO, RO
  ⟨0x054, 0, 1, 0, 1, 0x0, 0x0, 0x0, 0x0, 0x0, 0x0, 0x0, 0x0⟩,
  -- SNAP_CNT_HI, RO
  ⟨0x058, 0, 1, 0, 1, 0x0, 0x0, 0x0, 0x0, 0x0, 0x0, 0x0, 0x0⟩,
  -- SNAP_FRAC, RO
  ⟨0x05C, 0, 1, 0, 1, 0x0, 0x0, 0x0, 0x0, 0x0, 0x0, 0x0, 0x0⟩,
  -- SNAP_NS_LO, RO
  ⟨0x060, 0, 1, 0, 1, 0x0, 0x0, 0x0, 0x0, 0x0, 0x0, 0x0, 0x0⟩,
  -- SNAP_NS_HI, RO
  ⟨0x064, 0, 1, 0, 1, 0x0, 0x0, 0x0, 0x0, 0x0, 0x0, 0x0, 0x0⟩,
  -- FREQ, RWS
  ⟨0x068, 0, 1, 0, 1, 0x0, 0xFFFFFFFF, 0x0, 0xFFFFFFFF, 0x0, 0x0, 0x0, 0x0⟩,
  -- RATE, RWS
  ⟨0x06C, 0, 1, 0, 1, 0x0, 0xFFFFFFFF, 0x0, 0xFFFFFFFF, 0x0, 0x0, 0x0, 0x0⟩,
  -- SERVO, RWS
  ⟨0x070, 0, 1, 0, 1, 0x1080, 0xFFFF, 0x0, 0xFFFF, 0x0, 0x0, 0x0, 0x0⟩,
  -- SLEW_MAX, RWS
  ⟨0x074, 0, 1, 0, 1, 0x7D0, 0xFFFF, 0x0, 0xFFFF, 0x0, 0x0, 0x0, 0x0⟩,
  -- STEP_LIM, RWS
  ⟨0x078, 0, 1, 0, 1, 0x2710, 0xFFFFFF, 0x0, 0xFFFFFF, 0x0, 0x0, 0x0, 0x0⟩,
  -- LOCK_THR, RWS
  ⟨0x07C, 0, 1, 0, 1, 0xC8, 0xFFFF, 0x0, 0xFFFF, 0x0, 0x0, 0x0, 0x0⟩,
  -- LAST_ERR, RO
  ⟨0x080, 0, 1, 0, 1, 0x0, 0x0, 0x0, 0x0, 0x0, 0x0, 0x0, 0x0⟩,
  -- DELAY, RO
  ⟨0x084, 0, 1, 0, 1, 0x0, 0x0, 0x0, 0x0, 0x0, 0x0, 0x0, 0x0⟩,
  -- DELAY_DEF, RWS
  ⟨0x088, 0, 1, 0, 1, 0x0, 0xFFFFFFFF, 0x0, 0xFFFFFFFF, 0x0, 0x0, 0x0, 0x0⟩,
  -- DLY_CFG, RWS
  ⟨0x08C, 0, 1, 0, 1, 0x10, 0xFF, 0x0, 0xFF, 0x0, 0x0, 0x0, 0x0⟩,
  -- STEP_NS_LO, RW
  ⟨0x090, 0, 1, 0, 1, 0x0, 0xFFFFFFFF, 0x0, 0x0, 0x0, 0x0, 0x0, 0x0⟩,
  -- STEP_NS_HI, RW
  ⟨0x094, 0, 1, 0, 1, 0x0, 0xFFFFFFFF, 0x0, 0x0, 0x0, 0x0, 0x0, 0x0⟩,
  -- STEP_CTRL, W1S
  ⟨0x098, 0, 1, 0, 1, 0x0, 0x0, 0x0, 0x0, 0x0, 0x0, 0x0, 0x1⟩,
  -- PPS_CAP_LO, RO
  ⟨0x09C, 0, 1, 0, 1, 0x0, 0x0, 0x0, 0x0, 0x0, 0x0, 0x0, 0x0⟩,
  -- PPS_CAP_HI, RO
  ⟨0x0A0, 0, 1, 0, 1, 0x0, 0x0, 0x0, 0x0, 0x0, 0x0, 0x0, 0x0⟩,
  -- PPS_DELAY, RWS
  ⟨0x0A4, 0, 1, 0, 1, 0x0, 0xFFFFFFFF, 0x0, 0xFFFFFFFF, 0x0, 0x0, 0x0, 0x0⟩,
  -- PPS_DIFF, RO
  ⟨0x0A8, 0, 1, 0, 1, 0x0, 0x0, 0x0, 0x0, 0x0, 0x0, 0x0, 0x0⟩,
  -- REF_ERR, RWS
  ⟨0x0AC, 0, 1, 0, 1, 0x64, 0xFFFFFFFF, 0x0, 0xFFFFFFFF, 0x0, 0x0, 0x0, 0x0⟩,
  -- HOLD_RATE, RWS
  ⟨0x0B0, 0, 1, 0, 1, 0x14, 0xFFFFFFFF, 0x0, 0xFFFFFFFF, 0x0, 0x0, 0x0, 0x0⟩,
  -- BOUND, RO
  ⟨0x0B4, 0, 1, 0, 1, 0xFFFFFFFF, 0x0, 0x0, 0x0, 0x0, 0x0, 0x0, 0x0⟩,
  -- TICK_LO, RO
  ⟨0x0B8, 0, 1, 0, 1, 0x0, 0x0, 0x0, 0x0, 0x0, 0x0, 0x0, 0x0⟩,
  -- TICK_HI, RO
  ⟨0x0BC, 0, 1, 0, 1, 0x0, 0x0, 0x0, 0x0, 0x0, 0x0, 0x0, 0x0⟩,
  -- STEP_CNT, RC
  ⟨0x0C0, 0, 1, 0, 1, 0x0, 0x0, 0x0, 0x0, 0x0, 0xFFFFFFFF, 0x0, 0x0⟩,
  -- HOLD_CNT, RC
  ⟨0x0C4, 0, 1, 0, 1, 0x0, 0x0, 0x0, 0x0, 0x0, 0xFFFFFFFF, 0x0, 0x0⟩,
  -- DLY_CNT, RC
  ⟨0x0C8, 0, 1, 0, 1, 0x0, 0x0, 0x0, 0x0, 0x0, 0xFFFFFFFF, 0x0, 0x0⟩,
  -- ANCHOR_LO, RWS
  ⟨0x0D0, 0, 1, 0, 1, 0x0, 0xFFFFFFFF, 0x0, 0xFFFFFFFF, 0x0, 0x0, 0x0, 0x0⟩,
  -- ANCHOR_HI, RWS
  ⟨0x0D4, 0, 1, 0, 1, 0x0, 0xFFFFFFFF, 0x0, 0xFFFFFFFF, 0x0, 0x0, 0x0, 0x0⟩,
  -- OFFSET_FRAC, RWS
  ⟨0x0D8, 0, 1, 0, 1, 0x0, 0xFFFF, 0x0, 0xFFFF, 0x0, 0x0, 0x0, 0x0⟩,
  -- OFFSET_NS_LO, RWS
  ⟨0x0DC, 0, 1, 0, 1, 0x0, 0xFFFFFFFF, 0x0, 0xFFFFFFFF, 0x0, 0x0, 0x0, 0x0⟩,
  -- OFFSET_NS_HI, RWS
  ⟨0x0E0, 0, 1, 0, 1, 0x0, 0xFFFFFFFF, 0x0, 0xFFFFFFFF, 0x0, 0x0, 0x0, 0x0⟩ ] ++
  [
  -- RXLATr_M0, RWL
  ⟨0x100, 16, 4, 0, 1, 0x0, 0xFFFFF, 0xFFFFF, 0x0, 0x0, 0x0, 0x0, 0x0⟩,
  -- RXLATr_M1, RWL
  ⟨0x104, 16, 4, 0, 1, 0x0, 0xFFFFF, 0xFFFFF, 0x0, 0x0, 0x0, 0x0, 0x0⟩,
  -- RXLATr_M2, RWL
  ⟨0x108, 16, 4, 0, 1, 0x0, 0xFFFFF, 0xFFFFF, 0x0, 0x0, 0x0, 0x0, 0x0⟩,
  -- TXLATr, RWL
  ⟨0x10C, 16, 4, 0, 1, 0x0, 0xFFFFF, 0xFFFFF, 0x0, 0x0, 0x0, 0x0, 0x0⟩ ]

/-- The registers of page COR0 above its header. -/
def RegMap.cor0 : List RegRow :=
  [
  -- COR_CFG, RWL
  ⟨0x040, 0, 1, 0, 1, 0x1008000, 0x1FFFF0F, 0x1FFFF0F, 0x0, 0x0, 0x0, 0x0, 0x0⟩,
  -- COR_STAT, RO
  ⟨0x044, 0, 1, 0, 1, 0x0, 0x0, 0x0, 0x0, 0x0, 0x0, 0x0, 0x0⟩,
  -- GRAPH_ID, RO
  ⟨0x048, 0, 1, 0, 1, 0x0, 0x0, 0x0, 0x0, 0x0, 0x0, 0x0, 0x0⟩,
  -- STAGE_ID, RO
  ⟨0x04C, 0, 1, 0, 1, 0x0, 0x0, 0x0, 0x0, 0x0, 0x0, 0x0, 0x0⟩,
  -- GRAPH_AT, RW
  ⟨0x050, 0, 1, 0, 1, 0x0, 0xFFFFFFFF, 0x0, 0x0, 0x0, 0x0, 0x0, 0x0⟩,
  -- GRAPH_CTRL, W1S
  ⟨0x054, 0, 1, 0, 1, 0x0, 0x0, 0x0, 0x0, 0x0, 0x0, 0x0, 0x7⟩,
  -- GRAPH_ERR, RO
  ⟨0x058, 0, 1, 0, 1, 0x0, 0x0, 0x0, 0x0, 0x0, 0x0, 0x0, 0x0⟩,
  -- HYST, RW
  ⟨0x05C, 0, 1, 0, 1, 0xFA0014, 0xFFFF03FF, 0x0, 0x0, 0x0, 0x0, 0x0, 0x0⟩,
  -- MATCH_CFG, RW
  ⟨0x060, 0, 1, 0, 1, 0x482814, 0xFFFFFF, 0x0, 0x0, 0x0, 0x0, 0x0, 0x0⟩,
  -- MAX_AGE, RW
  ⟨0x064, 0, 1, 0, 1, 0x1F4, 0xFFFF, 0x0, 0x0, 0x0, 0x0, 0x0, 0x0⟩,
  -- EXPIRE, RW
  ⟨0x068, 0, 1, 0, 1, 0x283C5078, 0xFFFFFFFF, 0x0, 0x0, 0x0, 0x0, 0x0, 0x0⟩,
  -- OCC_CFG, RW
  ⟨0x06C, 0, 1, 0, 1, 0x64, 0xFF, 0x0, 0x0, 0x0, 0x0, 0x0, 0x0⟩,
  -- WX, RW
  ⟨0x070, 0, 1, 0, 1, 0x400, 0x7FF, 0x0, 0x0, 0x0, 0x0, 0x0, 0x0⟩,
  -- POLICY_AT, RW
  ⟨0x074, 0, 1, 0, 1, 0x0, 0xFFFFFFFF, 0x0, 0x0, 0x0, 0x0, 0x0, 0x0⟩,
  -- POLICY_CTRL, W1S
  ⟨0x078, 0, 1, 0, 1, 0x0, 0x0, 0x0, 0x0, 0x0, 0x0, 0x0, 0x1⟩,
  -- POLICY_LAST, RO
  ⟨0x07C, 0, 1, 0, 1, 0x0, 0x0, 0x0, 0x0, 0x0, 0x0, 0x0, 0x0⟩,
  -- RUN_TICK, RO
  ⟨0x080, 0, 1, 0, 1, 0x0, 0x0, 0x0, 0x0, 0x0, 0x0, 0x0, 0x0⟩,
  -- RUN_TIME, RO
  ⟨0x084, 0, 1, 0, 1, 0x0, 0x0, 0x0, 0x0, 0x0, 0x0, 0x0, 0x0⟩,
  -- RUN_MAX, RC
  ⟨0x088, 0, 1, 0, 1, 0x0, 0x0, 0x0, 0x0, 0x0, 0xFFFFFFFF, 0x0, 0x0⟩,
  -- OVR_CNT, RC
  ⟨0x08C, 0, 1, 0, 1, 0x0, 0x0, 0x0, 0x0, 0x0, 0xFFFFFFFF, 0x0, 0x0⟩,
  -- RPT_IN, RC
  ⟨0x090, 0, 1, 0, 1, 0x0, 0x0, 0x0, 0x0, 0x0, 0xFFFFFFFF, 0x0, 0x0⟩,
  -- RPT_STALE, RC
  ⟨0x094, 0, 1, 0, 1, 0x0, 0x0, 0x0, 0x0, 0x0, 0xFFFFFFFF, 0x0, 0x0⟩,
  -- RPT_LOWCONF, RC
  ⟨0x098, 0, 1, 0, 1, 0x0, 0x0, 0x0, 0x0, 0x0, 0xFFFFFFFF, 0x0, 0x0⟩,
  -- RPT_BADV, RC
  ⟨0x09C, 0, 1, 0, 1, 0x0, 0x0, 0x0, 0x0, 0x0, 0xFFFFFFFF, 0x0, 0x0⟩,
  -- TRK_FULL_CNT, RC
  ⟨0x0A0, 0, 1, 0, 1, 0x0, 0x0, 0x0, 0x0, 0x0, 0xFFFFFFFF, 0x0, 0x0⟩,
  -- TRK_NEW, RC
  ⟨0x0A4, 0, 1, 0, 1, 0x0, 0x0, 0x0, 0x0, 0x0, 0xFFFFFFFF, 0x0, 0x0⟩,
  -- TRK_EXPIRED, RC
  ⟨0x0A8, 0, 1, 0, 1, 0x0, 0x0, 0x0, 0x0, 0x0, 0xFFFFFFFF, 0x0, 0x0⟩,
  -- PUB_CNT, RO
  ⟨0x0AC, 0, 1, 0, 1, 0x0, 0x0, 0x0, 0x0, 0x0, 0x0, 0x0, 0x0⟩,
  -- FLOORm, RW
  ⟨0x100, 4, 32, 0, 1, 0x0, 0x3FF03FF, 0x0, 0x0, 0x0, 0x0, 0x0, 0x0⟩,
  -- CAPm, RW
  ⟨0x180, 4, 32, 0, 1, 0x3E803E8, 0x3FF03FF, 0x0, 0x0, 0x0, 0x0, 0x0, 0x0⟩,
  -- LIVEi, RW
  ⟨0x200, 4, 128, 0, 1, 0x0, 0xFFFFFFFF, 0x0, 0x0, 0x0, 0x0, 0x0, 0x0⟩ ]

/-- The registers of page COR1 above its header. -/
def RegMap.cor1 : List RegRow :=
  [
  -- TRK_SEL, RW
  ⟨0x040, 0, 1, 0, 1, 0x0, 0x3FF, 0x0, 0x0, 0x0, 0x0, 0x0, 0x0⟩,
  -- TRK_W0, RO
  ⟨0x044, 0, 1, 0, 1, 0x0, 0x0, 0x0, 0x0, 0x0, 0x0, 0x0, 0x0⟩,
  -- TRK_W1, RO
  ⟨0x048, 0, 1, 0, 1, 0x0, 0x0, 0x0, 0x0, 0x0, 0x0, 0x0, 0x0⟩,
  -- TRK_W2, RO
  ⟨0x04C, 0, 1, 0, 1, 0x0, 0x0, 0x0, 0x0, 0x0, 0x0, 0x0, 0x0⟩,
  -- TRK_W3, RO
  ⟨0x050, 0, 1, 0, 1, 0x0, 0x0, 0x0, 0x0, 0x0, 0x0, 0x0, 0x0⟩,
  -- VTX_SEL, RW
  ⟨0x060, 0, 1, 0, 1, 0x0, 0xFFF, 0x0, 0x0, 0x0, 0x0, 0x0, 0x0⟩,
  -- VTX_LVL, RO
  ⟨0x064, 0, 1, 0, 1, 0x0, 0x0, 0x0, 0x0, 0x0, 0x0, 0x0, 0x0⟩ ]

/-- The registers of page LVL above its header. -/
def RegMap.lvl : List RegRow :=
  [
  -- LVL_CFG, RWL
  ⟨0x040, 0, 1, 0, 1, 0x40118, 0xFF01FF, 0xFF01FF, 0x0, 0x0, 0x0, 0x0, 0x0⟩,
  -- FADE_CFG, RW
  ⟨0x044, 0, 1, 0, 1, 0x2909, 0x3F3F, 0x0, 0x0, 0x0, 0x0, 0x0, 0x0⟩,
  -- EPOCH, RWS
  ⟨0x048, 0, 1, 0, 1, 0x0, 0xFFFFFFFF, 0x0, 0xFFFFFFFF, 0x0, 0x0, 0x0, 0x0⟩,
  -- MODE_CUR, RWS
  ⟨0x04C, 0, 1, 0, 1, 0x0, 0x13FFF03, 0x0, 0x13FFF03, 0x0, 0x0, 0x0, 0x0⟩,
  -- MODE_PEND, RO
  ⟨0x050, 0, 1, 0, 1, 0x0, 0x0, 0x0, 0x0, 0x0, 0x0, 0x0, 0x0⟩,
  -- MODE_PEND_AT, RO
  ⟨0x054, 0, 1, 0, 1, 0x0, 0x0, 0x0, 0x0, 0x0, 0x0, 0x0, 0x0⟩,
  -- MODE_STAGE, RW
  ⟨0x058, 0, 1, 0, 1, 0x0, 0x73FFF03, 0x0, 0x0, 0x0, 0x0, 0x0, 0x0⟩,
  -- MODE_AT_REQ, RW
  ⟨0x05C, 0, 1, 0, 1, 0x0, 0xFFFFFFFF, 0x0, 0x0, 0x0, 0x0, 0x0, 0x0⟩,
  -- MODE_CTRL, W1S
  ⟨0x060, 0, 1, 0, 1, 0x0, 0x0, 0x0, 0x0, 0x0, 0x0, 0x0, 0x3⟩,
  -- WAVE_STAT, RO
  ⟨0x064, 0, 1, 0, 1, 0x0, 0x0, 0x0, 0x0, 0x0, 0x0, 0x0, 0x0⟩,
  -- LAST_WAVE, RO
  ⟨0x068, 0, 1, 0, 1, 0x0, 0x0, 0x0, 0x0, 0x0, 0x0, 0x0, 0x0⟩,
  -- OWN_LVL, RO
  ⟨0x06C, 0, 1, 0, 1, 0x0, 0x0, 0x0, 0x0, 0x0, 0x0, 0x0, 0x0⟩,
  -- WAVES, RC
  ⟨0x070, 0, 1, 0, 1, 0x0, 0x0, 0x0, 0x0, 0x0, 0xFFFFFFFF, 0x0, 0x0⟩,
  -- FLOOD_RX, RC
  ⟨0x074, 0, 1, 0, 1, 0x0, 0x0, 0x0, 0x0, 0x0, 0xFFFFFFFF, 0x0, 0x0⟩,
  -- FLOOD_FWD, RC
  ⟨0x078, 0, 1, 0, 1, 0x0, 0x0, 0x0, 0x0, 0x0, 0xFFFFFFFF, 0x0, 0x0⟩,
  -- FLOOD_HELD, RC
  ⟨0x07C, 0, 1, 0, 1, 0x0, 0x0, 0x0, 0x0, 0x0, 0xFFFFFFFF, 0x0, 0x0⟩,
  -- FLOOD_NOFWD, RC
  ⟨0x080, 0, 1, 0, 1, 0x0, 0x0, 0x0, 0x0, 0x0, 0xFFFFFFFF, 0x0, 0x0⟩,
  -- LATE_CNT, RC
  ⟨0x084, 0, 1, 0, 1, 0x0, 0x0, 0x0, 0x0, 0x0, 0xFFFFFFFF, 0x0, 0x0⟩,
  -- STALE_EPOCH, RC
  ⟨0x088, 0, 1, 0, 1, 0x0, 0x0, 0x0, 0x0, 0x0, 0xFFFFFFFF, 0x0, 0x0⟩,
  -- BAD_APPLY, RC
  ⟨0x08C, 0, 1, 0, 1, 0x0, 0x0, 0x0, 0x0, 0x0, 0xFFFFFFFF, 0x0, 0x0⟩,
  -- BCN_YIELD, RC
  ⟨0x090, 0, 1, 0, 1, 0x0, 0x0, 0x0, 0x0, 0x0, 0xFFFFFFFF, 0x0, 0x0⟩,
  -- MODE_STAT, RO
  ⟨0x094, 0, 1, 0, 1, 0x0, 0x0, 0x0, 0x0, 0x0, 0x0, 0x0, 0x0⟩,
  -- RING_STAT, RO
  ⟨0x098, 0, 1, 0, 1, 0x0, 0x0, 0x0, 0x0, 0x0, 0x0, 0x0, 0x0⟩,
  -- RING_ID, RO
  ⟨0x09C, 0, 1, 0, 1, 0x0, 0x0, 0x0, 0x0, 0x0, 0x0, 0x0, 0x0⟩,
  -- RING_AT, RO
  ⟨0x0A0, 0, 1, 0, 1, 0x0, 0x0, 0x0, 0x0, 0x0, 0x0, 0x0, 0x0⟩,
  -- SCHEDp, RWS
  ⟨0x0C0, 4, 8, 0, 1, 0x0, 0xFFFFFFFF, 0x0, 0xFFFFFFFF, 0x0, 0x0, 0x0, 0x0⟩,
  -- APPLIEDi, RO
  ⟨0x100, 4, 128, 0, 1, 0x0, 0x0, 0x0, 0x0, 0x0, 0x0, 0x0, 0x0⟩ ]

/-- The registers of page DRV above its header. -/
def RegMap.drv : List RegRow :=
  [
  -- DRV_CFG, RW
  ⟨0x040, 0, 1, 0, 1, 0x80, 0x3FF00F1, 0x0, 0x0, 0x0, 0x0, 0x0, 0x0⟩,
  -- ENMASK, RW
  ⟨0x044, 0, 1, 0, 1, 0x0, 0xFFFFFFFF, 0x0, 0x0, 0x0, 0x0, 0x0, 0x0⟩,
  -- HR_CFG, RW
  ⟨0x048, 0, 1, 0, 1, 0x5000C8, 0xFF03FF, 0x0, 0x0, 0x0, 0x0, 0x0, 0x0⟩,
  -- FAULT_CFG, RW
  ⟨0x04C, 0, 1, 0, 1, 0x1E1496, 0xFFFFFF, 0x0, 0x0, 0x0, 0x0, 0x0, 0x0⟩,
  -- DIS_FADE, RW
  ⟨0x050, 0, 1, 0, 1, 0xFA, 0xFFF, 0x0, 0x0, 0x0, 0x0, 0x0, 0x0⟩,
  -- VF_DEF, RW
  ⟨0x054, 0, 1, 0, 1, 0x12C, 0x3FF, 0x0, 0x0, 0x0, 0x0, 0x0, 0x0⟩,
  -- DRV_CTRL, W1S
  ⟨0x058, 0, 1, 0, 1, 0x0, 0x0, 0x0, 0x0, 0x0, 0x0, 0x0, 0x3⟩,
  -- PORT_STAT, RO
  ⟨0x05C, 0, 1, 0, 1, 0x0, 0x0, 0x0, 0x0, 0x0, 0x0, 0x0, 0x0⟩,
  -- OPEN_MASK, W1C
  ⟨0x060, 0, 1, 0, 1, 0x0, 0x0, 0x0, 0x0, 0x0, 0x0, 0xFFFFFFFF, 0x0⟩,
  -- SHORT_MASK, W1C
  ⟨0x064, 0, 1, 0, 1, 0x0, 0x0, 0x0, 0x0, 0x0, 0x0, 0xFFFFFFFF, 0x0⟩,
  -- DEV_MASK, W1C
  ⟨0x068, 0, 1, 0, 1, 0x0, 0x0, 0x0, 0x0, 0x0, 0x0, 0xFFFFFFFF, 0x0⟩,
  -- HRQ_NOW, RO
  ⟨0x06C, 0, 1, 0, 1, 0x64, 0x0, 0x0, 0x0, 0x0, 0x0, 0x0, 0x0⟩,
  -- SINK_V, RO
  ⟨0x070, 0, 1, 0, 1, 0x0, 0x0, 0x0, 0x0, 0x0, 0x0, 0x0, 0x0⟩,
  -- SINK_P, RO
  ⟨0x074, 0, 1, 0, 1, 0x0, 0x0, 0x0, 0x0, 0x0, 0x0, 0x0, 0x0⟩,
  -- I_MEAS, RO
  ⟨0x078, 0, 1, 0, 1, 0x0, 0x0, 0x0, 0x0, 0x0, 0x0, 0x0, 0x0⟩,
  -- SINK_TEMP, RO
  ⟨0x07C, 0, 1, 0, 1, 0x0, 0x0, 0x0, 0x0, 0x0, 0x0, 0x0, 0x0⟩,
  -- DROPOUT_CNT, RC
  ⟨0x080, 0, 1, 0, 1, 0x0, 0x0, 0x0, 0x0, 0x0, 0xFFFFFFFF, 0x0, 0x0⟩,
  -- HR_HIGH_CNT, RC
  ⟨0x084, 0, 1, 0, 1, 0x0, 0x0, 0x0, 0x0, 0x0, 0xFFFFFFFF, 0x0, 0x0⟩,
  -- TEST_CNT, RC
  ⟨0x088, 0, 1, 0, 1, 0x0, 0x0, 0x0, 0x0, 0x0, 0xFFFFFFFF, 0x0, 0x0⟩,
  -- TEST_ABORT, RC
  ⟨0x08C, 0, 1, 0, 1, 0x0, 0x0, 0x0, 0x0, 0x0, 0xFFFFFFFF, 0x0, 0x0⟩,
  -- PFADEk, RW
  ⟨0x100, 4, 8, 0, 1, 0x0, 0x3F3F3F3F, 0x0, 0x0, 0x0, 0x0, 0x0, 0x0⟩,
  -- VFp, RO
  ⟨0x180, 4, 32, 0, 1, 0x0, 0x0, 0x0, 0x0, 0x0, 0x0, 0x0, 0x0⟩ ]

/-- The registers of page DRG above its header. -/
def RegMap.drg : List RegRow :=
  [
  -- GSCALE, RW
  ⟨0x040, 0, 1, 0, 1, 0x0, 0xFF, 0x0, 0x0, 0x0, 0x0, 0x0, 0x0⟩,
  -- SWAP_CFG, RW
  ⟨0x044, 0, 1, 0, 1, 0x0, 0x7, 0x0, 0x0, 0x0, 0x0, 0x0, 0x0⟩,
  -- SWAP_AT, RW
  ⟨0x048, 0, 1, 0, 1, 0x0, 0xFFFFFFFF, 0x0, 0x0, 0x0, 0x0, 0x0, 0x0⟩,
  -- SWAP_CTRL, W1S
  ⟨0x04C, 0, 1, 0, 1, 0x0, 0x0, 0x0, 0x0, 0x0, 0x0, 0x0, 0x3⟩,
  -- SWAP_STAT, RO
  ⟨0x050, 0, 1, 0, 1, 0x0, 0x0, 0x0, 0x0, 0x0, 0x0, 0x0, 0x0⟩,
  -- LAST_SWAP, RO
  ⟨0x054, 0, 1, 0, 1, 0x0, 0x0, 0x0, 0x0, 0x0, 0x0, 0x0, 0x0⟩,
  -- LAST_FSYNC_LO, RO
  ⟨0x058, 0, 1, 0, 1, 0x0, 0x0, 0x0, 0x0, 0x0, 0x0, 0x0, 0x0⟩,
  -- LAST_FSYNC_HI, RO
  ⟨0x05C, 0, 1, 0, 1, 0x0, 0x0, 0x0, 0x0, 0x0, 0x0, 0x0, 0x0⟩,
  -- TEST_CFG, RW
  ⟨0x060, 0, 1, 0, 1, 0x800101, 0xFFFF01, 0x0, 0x0, 0x0, 0x0, 0x0, 0x0⟩,
  -- HR_SHARE, RW
  ⟨0x064, 0, 1, 0, 1, 0x0, 0xFF, 0x0, 0x0, 0x0, 0x0, 0x0, 0x0⟩,
  -- SINK_TOTAL, RO
  ⟨0x068, 0, 1, 0, 1, 0x0, 0x0, 0x0, 0x0, 0x0, 0x0, 0x0, 0x0⟩,
  -- FSYNC_CNT, RC
  ⟨0x06C, 0, 1, 0, 1, 0x0, 0x0, 0x0, 0x0, 0x0, 0xFFFFFFFF, 0x0, 0x0⟩,
  -- FSYNC_EARLY, RC
  ⟨0x070, 0, 1, 0, 1, 0x0, 0x0, 0x0, 0x0, 0x0, 0xFFFFFFFF, 0x0, 0x0⟩,
  -- DEFn_A, RWP
  ⟨0x080, 16, 4, 0, 1, 0x0, 0x80003FFF, 0x0, 0x0, 0x80003FFF, 0x0, 0x0, 0x0⟩,
  -- DEFn_B, RWP
  ⟨0x084, 16, 4, 0, 1, 0x0, 0xFFFFFFFF, 0x0, 0x0, 0xFFFFFFFF, 0x0, 0x0, 0x0⟩,
  -- DEFn_C, RWP
  ⟨0x088, 16, 4, 0, 1, 0x0, 0x3FFFFFF, 0x0, 0x0, 0x3FFFFFF, 0x0, 0x0, 0x0⟩,
  -- DEF_GSCALE, RWP
  ⟨0x0C0, 0, 1, 0, 1, 0x0, 0xFF, 0x0, 0x0, 0xFF, 0x0, 0x0, 0x0⟩,
  -- SHADOWn_m, RW
  ⟨0x100, 64, 4, 4, 16, 0x0, 0xFFFFFFFF, 0x0, 0x0, 0x0, 0x0, 0x0, 0x0⟩,
  -- ACTIVEn_m, RO
  ⟨0x200, 64, 4, 4, 16, 0x0, 0x0, 0x0, 0x0, 0x0, 0x0, 0x0, 0x0⟩ ]

/-- The registers of page SCL0 above its header. -/
def RegMap.scl0 : List RegRow :=
  [
  -- SCL_CFG, RWL
  ⟨0x040, 0, 1, 0, 1, 0x5000, 0x1FF07, 0x1FF07, 0x0, 0x0, 0x0, 0x0, 0x0⟩,
  -- SCL_STAT, RO
  ⟨0x044, 0, 1, 0, 1, 0x0, 0x0, 0x0, 0x0, 0x0, 0x0, 0x0, 0x0⟩,
  -- FREQ, RO
  ⟨0x048, 0, 1, 0, 1, 0x0, 0x0, 0x0, 0x0, 0x0, 0x0, 0x0, 0x0⟩,
  -- SEG_STAT, RO
  ⟨0x04C, 0, 1, 0, 1, 0x0, 0x0, 0x0, 0x0, 0x0, 0x0, 0x0, 0x0⟩,
  -- LATCH_WARE, RW
  ⟨0x050, 0, 1, 0, 1, 0x0, 0xFFFF71F, 0x0, 0x0, 0x0, 0x0, 0x0, 0x0⟩,
  -- LATCH_DOM, RW
  ⟨0x054, 0, 1, 0, 1, 0x0, 0xFFFF0FFF, 0x0, 0x0, 0x0, 0x0, 0x0, 0x0⟩,
  -- LREC_BASE, RW
  ⟨0x058, 0, 1, 0, 1, 0x0, 0x3FFF, 0x0, 0x0, 0x0, 0x0, 0x0, 0x0⟩,
  -- NCYC, RO
  ⟨0x05C, 0, 1, 0, 1, 0x32, 0x0, 0x0, 0x0, 0x0, 0x0, 0x0, 0x0⟩,
  -- SH_NCYC, RW
  ⟨0x060, 0, 1, 0, 1, 0x32, 0x1FFF, 0x0, 0x0, 0x0, 0x0, 0x0, 0x0⟩,
  -- COEF_CTRL, W1S
  ⟨0x064, 0, 1, 0, 1, 0x0, 0x0, 0x0, 0x0, 0x0, 0x0, 0x0, 0x3⟩,
  -- COEF_STAT, RO
  ⟨0x068, 0, 1, 0, 1, 0x0, 0x0, 0x0, 0x0, 0x0, 0x0, 0x0, 0x0⟩,
  -- CHECK_CFG, RW
  ⟨0x070, 0, 1, 0, 1, 0x1F43204, 0xFFFFFF0F, 0x0, 0x0, 0x0, 0x0, 0x0, 0x0⟩,
  -- CHECK_CTRL, W1S
  ⟨0x074, 0, 1, 0, 1, 0x0, 0x0, 0x0, 0x0, 0x0, 0x0, 0x0, 0x1⟩,
  -- CHECK_STAT, RO
  ⟨0x078, 0, 1, 0, 1, 0x0, 0x0, 0x0, 0x0, 0x0, 0x0, 0x0, 0x0⟩,
  -- CHECK_DIFF, RO
  ⟨0x07C, 0, 1, 0, 1, 0x0, 0x0, 0x0, 0x0, 0x0, 0x0, 0x0, 0x0⟩,
  -- CLIP, RC
  ⟨0x080, 0, 1, 0, 1, 0x0, 0x0, 0x0, 0x0, 0x0, 0xFFFFFFFF, 0x0, 0x0⟩,
  -- LINE_LOST_CNT, RC
  ⟨0x084, 0, 1, 0, 1, 0x0, 0x0, 0x0, 0x0, 0x0, 0xFFFFFFFF, 0x0, 0x0⟩,
  -- SH_CHCFGc, RW
  ⟨0x100, 128, 12, 0, 1, 0x0, 0xF, 0x0, 0x0, 0x0, 0x0, 0x0, 0x0⟩,
  -- SH_FSc, RW
  ⟨0x104, 128, 12, 0, 1, 0x0, 0xFFFFFF, 0x0, 0x0, 0x0, 0x0, 0x0, 0x0⟩,
  -- SH_HYSTc, RW
  ⟨0x108, 128, 12, 0, 1, 0x14, 0x7F, 0x0, 0x0, 0x0, 0x0, 0x0, 0x0⟩,
  -- SH_Bkc, RW
  ⟨0x110, 128, 12, 4, 7, 0x0, 0xFFFFFF, 0x0, 0x0, 0x0, 0x0, 0x0, 0x0⟩,
  -- SH_Gkc, RW
  ⟨0x130, 128, 12, 4, 8, 0x0, 0xFFFFFF, 0x0, 0x0, 0x0, 0x0, 0x0, 0x0⟩,
  -- SH_Pkc, RW
  ⟨0x150, 128, 12, 4, 8, 0x0, 0xFFFF, 0x0, 0x0, 0x0, 0x0, 0x0, 0x0⟩,
  -- CHCFGc, RO
  ⟨0x800, 128, 12, 0, 1, 0x0, 0x0, 0x0, 0x0, 0x0, 0x0, 0x0, 0x0⟩,
  -- FSc, RO
  ⟨0x804, 128, 12, 0, 1, 0x0, 0x0, 0x0, 0x0, 0x0, 0x0, 0x0, 0x0⟩,
  -- HYSTc, RO
  ⟨0x808, 128, 12, 0, 1, 0x14, 0x0, 0x0, 0x0, 0x0, 0x0, 0x0, 0x0⟩,
  -- Bkc, RO
  ⟨0x810, 128, 12, 4, 7, 0x0, 0x0, 0x0, 0x0, 0x0, 0x0, 0x0, 0x0⟩,
  -- Gkc, RO
  ⟨0x830, 128, 12, 4, 8, 0x0, 0x0, 0x0, 0x0, 0x0, 0x0, 0x0, 0x0⟩,
  -- Pkc, RO
  ⟨0x850, 128, 12, 4, 8, 0x0, 0x0, 0x0, 0x0, 0x0, 0x0, 0x0, 0x0⟩ ]

/-- The registers of page SCL1 above its header. -/
def RegMap.scl1 : List RegRow :=
  [
  -- LATCH_SEQ, RO
  ⟨0x040, 0, 1, 0, 1, 0x0, 0x0, 0x0, 0x0, 0x0, 0x0, 0x0, 0x0⟩,
  -- LATCH_TICK, RO
  ⟨0x044, 0, 1, 0, 1, 0x0, 0x0, 0x0, 0x0, 0x0, 0x0, 0x0, 0x0⟩,
  -- LATCH_NS_LO, RO
  ⟨0x048, 0, 1, 0, 1, 0x0, 0x0, 0x0, 0x0, 0x0, 0x0, 0x0, 0x0⟩,
  -- LATCH_NS_HI, RO
  ⟨0x04C, 0, 1, 0, 1, 0x0, 0x0, 0x0, 0x0, 0x0, 0x0, 0x0, 0x0⟩,
  -- LATCH_INFO, RO
  ⟨0x050, 0, 1, 0, 1, 0x0, 0x0, 0x0, 0x0, 0x0, 0x0, 0x0, 0x0⟩,
  -- LATCH_FREQ, RO
  ⟨0x054, 0, 1, 0, 1, 0x0, 0x0, 0x0, 0x0, 0x0, 0x0, 0x0, 0x0⟩,
  -- URMSc, RO
  ⟨0x080, 16, 4, 0, 1, 0x0, 0x0, 0x0, 0x0, 0x0, 0x0, 0x0, 0x0⟩,
  -- U1RMSc, RO
  ⟨0x084, 16, 4, 0, 1, 0x0, 0x0, 0x0, 0x0, 0x0, 0x0, 0x0, 0x0⟩,
  -- UTHDc, RO
  ⟨0x088, 16, 4, 0, 1, 0x0, 0x0, 0x0, 0x0, 0x0, 0x0, 0x0, 0x0⟩,
  -- UANGc, RO
  ⟨0x08C, 16, 4, 0, 1, 0x0, 0x0, 0x0, 0x0, 0x0, 0x0, 0x0, 0x0⟩,
  -- IRMSj, RO
  ⟨0x0C0, 16, 8, 0, 1, 0x0, 0x0, 0x0, 0x0, 0x0, 0x0, 0x0, 0x0⟩,
  -- I1RMSj, RO
  ⟨0x0C4, 16, 8, 0, 1, 0x0, 0x0, 0x0, 0x0, 0x0, 0x0, 0x0, 0x0⟩,
  -- ITHDj, RO
  ⟨0x0C8, 16, 8, 0, 1, 0x0, 0x0, 0x0, 0x0, 0x0, 0x0, 0x0, 0x0⟩,
  -- IANGj, RO
  ⟨0x0CC, 16, 8, 0, 1, 0x0, 0x0, 0x0, 0x0, 0x0, 0x0, 0x0, 0x0⟩,
  -- Pf_p, RO
  ⟨0x140, 64, 2, 16, 4, 0x0, 0x0, 0x0, 0x0, 0x0, 0x0, 0x0, 0x0⟩,
  -- P1f_p, RO
  ⟨0x144, 64, 2, 16, 4, 0x0, 0x0, 0x0, 0x0, 0x0, 0x0, 0x0, 0x0⟩,
  -- Q1f_p, RO
  ⟨0x148, 64, 2, 16, 4, 0x0, 0x0, 0x0, 0x0, 0x0, 0x0, 0x0, 0x0⟩,
  -- Sf_p, RO
  ⟨0x14C, 64, 2, 16, 4, 0x0, 0x0, 0x0, 0x0, 0x0, 0x0, 0x0, 0x0⟩,
  -- CUMf_p_q_LO, RO
  ⟨0x200, 256, 2, 64, 4, 0x0, 0x0, 0x0, 0x0, 0x0, 0x0, 0x0, 0x0⟩,
  -- CUMf_p_q_HI, RO
  ⟨0x204, 256, 2, 64, 4, 0x0, 0x0, 0x0, 0x0, 0x0, 0x0, 0x0, 0x0⟩,
  -- DLTf_p_q, RO
  ⟨0x400, 128, 2, 32, 4, 0x0, 0x0, 0x0, 0x0, 0x0, 0x0, 0x0, 0x0⟩,
  -- MIRf_p_q, RO
  ⟨0x500, 128, 2, 32, 4, 0x0, 0x0, 0x0, 0x0, 0x0, 0x0, 0x0, 0x0⟩,
  -- BAL_CFG, RW
  ⟨0xC00, 0, 1, 0, 1, 0x300384, 0x8031FFFF, 0x0, 0x0, 0x0, 0x0, 0x0, 0x0⟩,
  -- BAL_TOL, RW
  ⟨0xC04, 0, 1, 0, 1, 0xC350, 0xFFFFF, 0x0, 0x0, 0x0, 0x0, 0x0, 0x0⟩,
  -- BAL_CAP_IDX, RO
  ⟨0xC08, 0, 1, 0, 1, 0x0, 0x0, 0x0, 0x0, 0x0, 0x0, 0x0, 0x0⟩,
  -- BAL_CAP_SEQ, RO
  ⟨0xC0C, 0, 1, 0, 1, 0x0, 0x0, 0x0, 0x0, 0x0, 0x0, 0x0, 0x0⟩,
  -- BAL_FEEDx, RO
  ⟨0xC10, 4, 3, 0, 1, 0x0, 0x0, 0x0, 0x0, 0x0, 0x0, 0x0, 0x0⟩,
  -- BAL_NODEx, RW
  ⟨0xC20, 4, 3, 0, 1, 0x0, 0xFFFFFFFF, 0x0, 0x0, 0x0, 0x0, 0x0, 0x0⟩,
  -- BAL_DIFFx, RO
  ⟨0xC30, 4, 3, 0, 1, 0x0, 0x0, 0x0, 0x0, 0x0, 0x0, 0x0, 0x0⟩,
  -- BAL_RATIOx, RO
  ⟨0xC40, 4, 3, 0, 1, 0x0, 0x0, 0x0, 0x0, 0x0, 0x0, 0x0, 0x0⟩,
  -- BAL_CTRL, W1S
  ⟨0xC50, 0, 1, 0, 1, 0x0, 0x0, 0x0, 0x0, 0x0, 0x0, 0x0, 0x1⟩,
  -- BAL_CLOSE_IDX, RW
  ⟨0xC54, 0, 1, 0, 1, 0x0, 0xFFFFFFFF, 0x0, 0x0, 0x0, 0x0, 0x0, 0x0⟩,
  -- BAL_STAT, RO
  ⟨0xC58, 0, 1, 0, 1, 0x0, 0x0, 0x0, 0x0, 0x0, 0x0, 0x0, 0x0⟩,
  -- NRG_STAT, RO
  ⟨0xC60, 0, 1, 0, 1, 0x0, 0x0, 0x0, 0x0, 0x0, 0x0, 0x0, 0x0⟩,
  -- NRG_NSEQ, RO
  ⟨0xC64, 0, 1, 0, 1, 0x0, 0x0, 0x0, 0x0, 0x0, 0x0, 0x0, 0x0⟩,
  -- NRG_JSEQ, RO
  ⟨0xC68, 0, 1, 0, 1, 0x0, 0x0, 0x0, 0x0, 0x0, 0x0, 0x0, 0x0⟩,
  -- TAIL_CNT, RC
  ⟨0xC6C, 0, 1, 0, 1, 0x0, 0x0, 0x0, 0x0, 0x0, 0xFFFFFFFF, 0x0, 0x0⟩,
  -- SAVE_FAIL_CNT, RC
  ⟨0xC70, 0, 1, 0, 1, 0x0, 0x0, 0x0, 0x0, 0x0, 0xFFFFFFFF, 0x0, 0x0⟩ ]

/-- The registers of page PWT above its header. -/
def RegMap.pwt : List RegRow :=
  [
  -- PWT_STAT, RO
  ⟨0x040, 0, 1, 0, 1, 0x0, 0x0, 0x0, 0x0, 0x0, 0x0, 0x0, 0x0⟩,
  -- VBAK, RO
  ⟨0x044, 0, 1, 0, 1, 0x0, 0x0, 0x0, 0x0, 0x0, 0x0, 0x0, 0x0⟩,
  -- FLAGS, W1C
  ⟨0x048, 0, 1, 0, 1, 0x0, 0x0, 0x0, 0x0, 0x0, 0x0, 0x7F, 0x0⟩,
  -- PWT_CFG, RWP
  ⟨0x04C, 0, 1, 0, 1, 0x0, 0x1, 0x0, 0x0, 0x1, 0x0, 0x0, 0x0⟩,
  -- RTC_TIME, RO
  ⟨0x050, 0, 1, 0, 1, 0x6000000, 0x0, 0x0, 0x0, 0x0, 0x0, 0x0, 0x0⟩,
  -- RTC_DATE, RO
  ⟨0x054, 0, 1, 0, 1, 0x20000101, 0x0, 0x0, 0x0, 0x0, 0x0, 0x0, 0x0⟩,
  -- RTC_SUB, RO
  ⟨0x058, 0, 1, 0, 1, 0x0, 0x0, 0x0, 0x0, 0x0, 0x0, 0x0, 0x0⟩,
  -- SH_TIME, RW
  ⟨0x05C, 0, 1, 0, 1, 0x0, 0x3F7F7F, 0x0, 0x0, 0x0, 0x0, 0x0, 0x0⟩,
  -- SH_DATE, RW
  ⟨0x060, 0, 1, 0, 1, 0x20000101, 0xFFFF1F3F, 0x0, 0x0, 0x0, 0x0, 0x0, 0x0⟩,
  -- RTC_CTRL, W1S
  ⟨0x064, 0, 1, 0, 1, 0x0, 0x0, 0x0, 0x0, 0x0, 0x0, 0x0, 0x1⟩,
  -- RTC_CSTAT, RO, W1C
  ⟨0x068, 0, 1, 0, 1, 0x0, 0x0, 0x0, 0x0, 0x0, 0x0, 0x2, 0x0⟩,
  -- RTC_TRIM, RWP
  ⟨0x06C, 0, 1, 0, 1, 0x0, 0xFF, 0x0, 0x0, 0xFF, 0x0, 0x0, 0x0⟩,
  -- RTC_CAP_LO, RO
  ⟨0x070, 0, 1, 0, 1, 0x0, 0x0, 0x0, 0x0, 0x0, 0x0, 0x0, 0x0⟩,
  -- RTC_CAP_HI, RO
  ⟨0x074, 0, 1, 0, 1, 0x0, 0x0, 0x0, 0x0, 0x0, 0x0, 0x0, 0x0⟩,
  -- ALMn_TIME, RWP
  ⟨0x080, 8, 2, 0, 1, 0x0, 0xF73F7F7F, 0x0, 0x0, 0xF73F7F7F, 0x0, 0x0, 0x0⟩,
  -- ALMn_DATE, RWP
  ⟨0x084, 8, 2, 0, 1, 0x0, 0xC0001F3F, 0x0, 0x0, 0xC0001F3F, 0x0, 0x0, 0x0⟩,
  -- PWRON_CFG, RWP
  ⟨0x090, 0, 1, 0, 1, 0x0, 0x3F, 0x0, 0x0, 0x3F, 0x0, 0x0, 0x0⟩,
  -- PWRON_CTRL, W1S
  ⟨0x094, 0, 1, 0, 1, 0x0, 0x0, 0x0, 0x0, 0x0, 0x0, 0x0, 0x3⟩,
  -- PWRON_STAT, RO
  ⟨0x098, 0, 1, 0, 1, 0x0, 0x0, 0x0, 0x0, 0x0, 0x0, 0x0, 0x0⟩,
  -- FAILLIT, RWP
  ⟨0x0A0, 0, 1, 0, 1, 0x0, 0x1, 0x0, 0x0, 0x1, 0x0, 0x0, 0x0⟩,
  -- TAMP_CFG, RWP
  ⟨0x0A4, 0, 1, 0, 1, 0x10, 0x33, 0x0, 0x0, 0x33, 0x0, 0x0, 0x0⟩,
  -- TAMP_STAT, RO
  ⟨0x0A8, 0, 1, 0, 1, 0x0, 0x0, 0x0, 0x0, 0x0, 0x0, 0x0, 0x0⟩,
  -- TAMP_CNT, RO
  ⟨0x0AC, 0, 1, 0, 1, 0x0, 0x0, 0x0, 0x0, 0x0, 0x0, 0x0, 0x0⟩,
  -- TAMP_TIME, RO
  ⟨0x0B0, 0, 1, 0, 1, 0x0, 0x0, 0x0, 0x0, 0x0, 0x0, 0x0, 0x0⟩,
  -- TAMP_DATE, RO
  ⟨0x0B4, 0, 1, 0, 1, 0x0, 0x0, 0x0, 0x0, 0x0, 0x0, 0x0, 0x0⟩,
  -- PWRCYC, RWP
  ⟨0x0B8, 0, 1, 0, 1, 0x1, 0xFFFFFF, 0x0, 0x0, 0xFFFFFF, 0x0, 0x0, 0x0⟩ ]

/-- The registers of page VLT above its header. -/
def RegMap.vlt : List RegRow :=
  [
  -- VLT_STAT, RO
  ⟨0x040, 0, 1, 0, 1, 0x0, 0x0, 0x0, 0x0, 0x0, 0x0, 0x0, 0x0⟩,
  -- LIFE, RO
  ⟨0x044, 0, 1, 0, 1, 0x0, 0x0, 0x0, 0x0, 0x0, 0x0, 0x0, 0x0⟩,
  -- KEY_REGIONS, RWL
  ⟨0x048, 0, 1, 0, 1, 0x3, 0xFF, 0xFF, 0x0, 0x0, 0x0, 0x0, 0x0⟩,
  -- SLOT_SEL, RW
  ⟨0x04C, 0, 1, 0, 1, 0x0, 0x3F, 0x0, 0x0, 0x0, 0x0, 0x0, 0x0⟩,
  -- SLOT_ATTR, RO
  ⟨0x050, 0, 1, 0, 1, 0x0, 0x0, 0x0, 0x0, 0x0, 0x0, 0x0, 0x0⟩,
  -- SLOT_USES, RO
  ⟨0x054, 0, 1, 0, 1, 0x0, 0x0, 0x0, 0x0, 0x0, 0x0, 0x0, 0x0⟩,
  -- OP_CMD, WO
  ⟨0x058, 0, 1, 0, 1, 0x0, 0x0, 0x0, 0x0, 0x0, 0x0, 0x0, 0x0⟩,
  -- OP_ATTR, WO
  ⟨0x05C, 0, 1, 0, 1, 0x0, 0x0, 0x0, 0x0, 0x0, 0x0, 0x0, 0x0⟩,
  -- OP_USES, WO
  ⟨0x060, 0, 1, 0, 1, 0x0, 0x0, 0x0, 0x0, 0x0, 0x0, 0x0, 0x0⟩,
  -- OP_IN, WO
  ⟨0x064, 0, 1, 0, 1, 0x0, 0x0, 0x0, 0x0, 0x0, 0x0, 0x0, 0x0⟩,
  -- OP_OUT, WO
  ⟨0x068, 0, 1, 0, 1, 0x0, 0x0, 0x0, 0x0, 0x0, 0x0, 0x0, 0x0⟩,
  -- OP_STAT, RO
  ⟨0x06C, 0, 1, 0, 1, 0x0, 0x0, 0x0, 0x0, 0x0, 0x0, 0x0, 0x0⟩,
  -- KDF_CFG, WO
  ⟨0x070, 0, 1, 0, 1, 0x0, 0x0, 0x0, 0x0, 0x0, 0x0, 0x0, 0x0⟩,
  -- ZEROIZE, WO
  ⟨0x074, 0, 1, 0, 1, 0x0, 0x0, 0x0, 0x0, 0x0, 0x0, 0x0, 0x0⟩,
  -- KDF_LABELw, WO
  ⟨0x080, 4, 16, 0, 1, 0x0, 0x0, 0x0, 0x0, 0x0, 0x0, 0x0, 0x0⟩,
  -- MEASi_w, RO
  ⟨0x100, 32, 4, 4, 8, 0x0, 0x0, 0x0, 0x0, 0x0, 0x0, 0x0, 0x0⟩ ]

/-- The registers of page CRY above its header. -/
def RegMap.cry : List RegRow :=
  [
  -- CRY_IND, RO
  ⟨0x040, 0, 1, 0, 1, 0x0, 0x0, 0x0, 0x0, 0x0, 0x0, 0x0, 0x0⟩,
  -- TEST_SEL, RW
  ⟨0x044, 0, 1, 0, 1, 0x3FFF, 0x3FFF, 0x0, 0x0, 0x0, 0x0, 0x0, 0x0⟩,
  -- TEST_CTRL, W1S
  ⟨0x048, 0, 1, 0, 1, 0x0, 0x0, 0x0, 0x0, 0x0, 0x0, 0x0, 0x1⟩,
  -- TEST_STAT, RO
  ⟨0x04C, 0, 1, 0, 1, 0x0, 0x0, 0x0, 0x0, 0x0, 0x0, 0x0, 0x0⟩,
  -- TEST_DELAY, RO
  ⟨0x050, 0, 1, 0, 1, 0x0, 0x0, 0x0, 0x0, 0x0, 0x0, 0x0, 0x0⟩,
  -- TEST_RUNS, RC
  ⟨0x054, 0, 1, 0, 1, 0x0, 0x0, 0x0, 0x0, 0x0, 0xFFFFFFFF, 0x0, 0x0⟩,
  -- ENT_CFG, RO
  ⟨0x058, 0, 1, 0, 1, 0x298001A, 0x0, 0x0, 0x0, 0x0, 0x0, 0x0, 0x0⟩,
  -- DRBG_CFG, RWL
  ⟨0x060, 0, 1, 0, 1, 0x1000, 0xFFFF, 0xFFFF, 0x0, 0x0, 0x0, 0x0, 0x0⟩,
  -- DRBG_STAT, RO
  ⟨0x064, 0, 1, 0, 1, 0x0, 0x0, 0x0, 0x0, 0x0, 0x0, 0x0, 0x0⟩,
  -- DBG_STAT, RO
  ⟨0x068, 0, 1, 0, 1, 0x0, 0x0, 0x0, 0x0, 0x0, 0x0, 0x0, 0x0⟩ ]

/-- The registers of page LDG above its header. -/
def RegMap.ldg : List RegRow :=
  [
  -- LDG_STAT, RO
  ⟨0x040, 0, 1, 0, 1, 0x0, 0x0, 0x0, 0x0, 0x0, 0x0, 0x0, 0x0⟩,
  -- NEXT_SEQ, RO
  ⟨0x044, 0, 1, 0, 1, 0x0, 0x0, 0x0, 0x0, 0x0, 0x0, 0x0, 0x0⟩,
  -- OPTIME_S, RO
  ⟨0x048, 0, 1, 0, 1, 0x0, 0x0, 0x0, 0x0, 0x0, 0x0, 0x0, 0x0⟩,
  -- OPTIME_F, RO
  ⟨0x04C, 0, 1, 0, 1, 0x0, 0x0, 0x0, 0x0, 0x0, 0x0, 0x0, 0x0⟩,
  -- SEV_LEVEL, RW
  ⟨0x050, 0, 1, 0, 1, 0x3, 0xF, 0x0, 0x0, 0x0, 0x0, 0x0, 0x0⟩,
  -- LOST_CNT, RC
  ⟨0x054, 0, 1, 0, 1, 0x0, 0x0, 0x0, 0x0, 0x0, 0xFFFFFFFF, 0x0, 0x0⟩,
  -- REC_CNT, RC
  ⟨0x058, 0, 1, 0, 1, 0x0, 0x0, 0x0, 0x0, 0x0, 0xFFFFFFFF, 0x0, 0x0⟩,
  -- BAD_SLOTS, RO
  ⟨0x05C, 0, 1, 0, 1, 0x0, 0x0, 0x0, 0x0, 0x0, 0x0, 0x0, 0x0⟩,
  -- LOG_HDR, WO
  ⟨0x060, 0, 1, 0, 1, 0x0, 0x0, 0x0, 0x0, 0x0, 0x0, 0x0, 0x0⟩,
  -- LOG_N, WO
  ⟨0x064, 0, 1, 0, 1, 0x1, 0x0, 0x0, 0x0, 0x0, 0x0, 0x0, 0x0⟩,
  -- LOG_Pj, WO
  ⟨0x070, 4, 9, 0, 1, 0x0, 0x0, 0x0, 0x0, 0x0, 0x0, 0x0, 0x0⟩,
  -- CURSOR, RW
  ⟨0x0A0, 0, 1, 0, 1, 0x0, 0xFFFFFFFF, 0x0, 0x0, 0x0, 0x0, 0x0, 0x0⟩,
  -- CURSOR_CTRL, RW
  ⟨0x0A4, 0, 1, 0, 1, 0x0, 0x1, 0x0, 0x0, 0x0, 0x0, 0x0, 0x0⟩,
  -- WSTAT, RO
  ⟨0x0A8, 0, 1, 0, 1, 0x3, 0x0, 0x0, 0x0, 0x0, 0x0, 0x0, 0x0⟩,
  -- WINw, RO
  ⟨0x0C0, 4, 8, 0, 1, 0x0, 0x0, 0x0, 0x0, 0x0, 0x0, 0x0, 0x0⟩,
  -- SER_SEL, RW
  ⟨0x100, 0, 1, 0, 1, 0x0, 0xFF, 0x0, 0x0, 0x0, 0x0, 0x0, 0x0⟩,
  -- SER_CFG, RW
  ⟨0x104, 0, 1, 0, 1, 0x0, 0xFF01, 0x0, 0x0, 0x0, 0x0, 0x0, 0x0⟩,
  -- SER_LO, RW
  ⟨0x108, 0, 1, 0, 1, 0x0, 0xFFFFFFFF, 0x0, 0x0, 0x0, 0x0, 0x0, 0x0⟩,
  -- SER_WIDTH, RW
  ⟨0x10C, 0, 1, 0, 1, 0x1, 0xFFFFFFFF, 0x0, 0x0, 0x0, 0x0, 0x0, 0x0⟩,
  -- SER_COUNT_LO, RO
  ⟨0x110, 0, 1, 0, 1, 0x0, 0x0, 0x0, 0x0, 0x0, 0x0, 0x0, 0x0⟩,
  -- SER_COUNT_HI, RO
  ⟨0x114, 0, 1, 0, 1, 0x0, 0x0, 0x0, 0x0, 0x0, 0x0, 0x0, 0x0⟩,
  -- SER_SUM_LO, RO
  ⟨0x118, 0, 1, 0, 1, 0x0, 0x0, 0x0, 0x0, 0x0, 0x0, 0x0, 0x0⟩,
  -- SER_SUM_HI, RO
  ⟨0x11C, 0, 1, 0, 1, 0x0, 0x0, 0x0, 0x0, 0x0, 0x0, 0x0, 0x0⟩,
  -- SER_MIN, RO
  ⟨0x120, 0, 1, 0, 1, 0x0, 0x0, 0x0, 0x0, 0x0, 0x0, 0x0, 0x0⟩,
  -- SER_MIN_T, RO
  ⟨0x124, 0, 1, 0, 1, 0x0, 0x0, 0x0, 0x0, 0x0, 0x0, 0x0, 0x0⟩,
  -- SER_MAX, RO
  ⟨0x128, 0, 1, 0, 1, 0x0, 0x0, 0x0, 0x0, 0x0, 0x0, 0x0, 0x0⟩,
  -- SER_MAX_T, RO
  ⟨0x12C, 0, 1, 0, 1, 0x0, 0x0, 0x0, 0x0, 0x0, 0x0, 0x0, 0x0⟩,
  -- SER_UNDER, RO
  ⟨0x130, 0, 1, 0, 1, 0x0, 0x0, 0x0, 0x0, 0x0, 0x0, 0x0, 0x0⟩,
  -- SER_OVER, RO
  ⟨0x134, 0, 1, 0, 1, 0x0, 0x0, 0x0, 0x0, 0x0, 0x0, 0x0, 0x0⟩,
  -- SER_CTRL, W1S
  ⟨0x138, 0, 1, 0, 1, 0x0, 0x0, 0x0, 0x0, 0x0, 0x0, 0x0, 0x1⟩,
  -- FEED_VAL, WO
  ⟨0x140, 0, 1, 0, 1, 0x0, 0x0, 0x0, 0x0, 0x0, 0x0, 0x0, 0x0⟩,
  -- FEED_SER, WO
  ⟨0x144, 0, 1, 0, 1, 0x0, 0x0, 0x0, 0x0, 0x0, 0x0, 0x0, 0x0⟩,
  -- SER_BINi, RO
  ⟨0x200, 4, 64, 0, 1, 0x0, 0x0, 0x0, 0x0, 0x0, 0x0, 0x0, 0x0⟩ ]

/-- The registers of page IBG above its header. -/
def RegMap.ibg : List RegRow :=
  [
  -- IBG_CFG, RWL
  ⟨0x040, 0, 1, 0, 1, 0x0, 0x17F, 0x17F, 0x0, 0x0, 0x0, 0x0, 0x0⟩,
  -- IBG_STAT, RO
  ⟨0x044, 0, 1, 0, 1, 0x0, 0x0, 0x0, 0x0, 0x0, 0x0, 0x0, 0x0⟩,
  -- PRESENT, RO
  ⟨0x048, 0, 1, 0, 1, 0x0, 0x0, 0x0, 0x0, 0x0, 0x0, 0x0, 0x0⟩,
  -- DELAY_E, RO
  ⟨0x04C, 0, 1, 0, 1, 0x0, 0x0, 0x0, 0x0, 0x0, 0x0, 0x0, 0x0⟩,
  -- DELAY_W, RO
  ⟨0x050, 0, 1, 0, 1, 0x0, 0x0, 0x0, 0x0, 0x0, 0x0, 0x0, 0x0⟩,
  -- MAPp_LO, RO
  ⟨0x060, 8, 8, 0, 1, 0x0, 0x0, 0x0, 0x0, 0x0, 0x0, 0x0, 0x0⟩,
  -- MAPp_HI, RO
  ⟨0x064, 8, 8, 0, 1, 0x0, 0x0, 0x0, 0x0, 0x0, 0x0, 0x0, 0x0⟩,
  -- RX_FRAMES, RC
  ⟨0x0A0, 0, 1, 0, 1, 0x0, 0x0, 0x0, 0x0, 0x0, 0xFFFFFFFF, 0x0, 0x0⟩,
  -- TX_FRAMES, RC
  ⟨0x0A4, 0, 1, 0, 1, 0x0, 0x0, 0x0, 0x0, 0x0, 0xFFFFFFFF, 0x0, 0x0⟩,
  -- FWD_FRAMES, RC
  ⟨0x0A8, 0, 1, 0, 1, 0x0, 0x0, 0x0, 0x0, 0x0, 0xFFFFFFFF, 0x0, 0x0⟩,
  -- CRC_ERR, RC
  ⟨0x0AC, 0, 1, 0, 1, 0x0, 0x0, 0x0, 0x0, 0x0, 0xFFFFFFFF, 0x0, 0x0⟩,
  -- MAC_FAIL, RC
  ⟨0x0B0, 0, 1, 0, 1, 0x0, 0x0, 0x0, 0x0, 0x0, 0xFFFFFFFF, 0x0, 0x0⟩,
  -- DUP_DROP, RC
  ⟨0x0B4, 0, 1, 0, 1, 0x0, 0x0, 0x0, 0x0, 0x0, 0xFFFFFFFF, 0x0, 0x0⟩,
  -- CODE_ERR, RC
  ⟨0x0B8, 0, 1, 0, 1, 0x0, 0x0, 0x0, 0x0, 0x0, 0xFFFFFFFF, 0x0, 0x0⟩,
  -- RRST_CTRL, WO
  ⟨0x0C0, 0, 1, 0, 1, 0x0, 0x0, 0x0, 0x0, 0x0, 0x0, 0x0, 0x0⟩,
  -- MAP_FORGET, WO
  ⟨0x0C4, 0, 1, 0, 1, 0x0, 0x0, 0x0, 0x0, 0x0, 0x0, 0x0, 0x0⟩ ]

/-- The registers of page FOV above its header. -/
def RegMap.fov : List RegRow :=
  [
  -- FOV_CFG, RWS
  ⟨0x040, 0, 1, 0, 1, 0x0, 0x1FFFF, 0x0, 0x1FFFF, 0x0, 0x0, 0x0, 0x0⟩,
  -- FOV_STAT, RO
  ⟨0x044, 0, 1, 0, 1, 0x0, 0x0, 0x0, 0x0, 0x0, 0x0, 0x0, 0x0⟩,
  -- SILENT, RO
  ⟨0x048, 0, 1, 0, 1, 0x0, 0x0, 0x0, 0x0, 0x0, 0x0, 0x0, 0x0⟩,
  -- LAST_HB, RO
  ⟨0x04C, 0, 1, 0, 1, 0x0, 0x0, 0x0, 0x0, 0x0, 0x0, 0x0, 0x0⟩,
  -- IMG_SF, RO
  ⟨0x050, 0, 1, 0, 1, 0x0, 0x0, 0x0, 0x0, 0x0, 0x0, 0x0, 0x0⟩,
  -- IMG_SEQ, RO
  ⟨0x054, 0, 1, 0, 1, 0x0, 0x0, 0x0, 0x0, 0x0, 0x0, 0x0, 0x0⟩,
  -- IMG_HWM, RO
  ⟨0x058, 0, 1, 0, 1, 0x0, 0x0, 0x0, 0x0, 0x0, 0x0, 0x0, 0x0⟩,
  -- NONCE_ID_LO, RWS
  ⟨0x05C, 0, 1, 0, 1, 0x0, 0xFFFFFFFF, 0x0, 0xFFFFFFFF, 0x0, 0x0, 0x0, 0x0⟩,
  -- NONCE_ID_HI, RWS
  ⟨0x060, 0, 1, 0, 1, 0x0, 0xFFFFFFFF, 0x0, 0xFFFFFFFF, 0x0, 0x0, 0x0, 0x0⟩,
  -- TAKEN, RO
  ⟨0x064, 0, 1, 0, 1, 0x0, 0x0, 0x0, 0x0, 0x0, 0x0, 0x0, 0x0⟩,
  -- FOV_CTRL, W1S
  ⟨0x068, 0, 1, 0, 1, 0x0, 0x0, 0x0, 0x0, 0x0, 0x0, 0x0, 0x1⟩,
  -- FOV_RELEASE, WO
  ⟨0x06C, 0, 1, 0, 1, 0x0, 0x0, 0x0, 0x0, 0x0, 0x0, 0x0, 0x0⟩,
  -- TAKEOVERS, RC
  ⟨0x070, 0, 1, 0, 1, 0x0, 0x0, 0x0, 0x0, 0x0, 0xFFFFFFFF, 0x0, 0x0⟩,
  -- CKPT_SENT, RC
  ⟨0x074, 0, 1, 0, 1, 0x0, 0x0, 0x0, 0x0, 0x0, 0xFFFFFFFF, 0x0, 0x0⟩,
  -- CKPT_APPLIED, RC
  ⟨0x078, 0, 1, 0, 1, 0x0, 0x0, 0x0, 0x0, 0x0, 0xFFFFFFFF, 0x0, 0x0⟩,
  -- CKPT_FAIL, RC
  ⟨0x07C, 0, 1, 0, 1, 0x0, 0x0, 0x0, 0x0, 0x0, 0xFFFFFFFF, 0x0, 0x0⟩,
  -- HB_LOST_A, RC
  ⟨0x080, 0, 1, 0, 1, 0x0, 0x0, 0x0, 0x0, 0x0, 0xFFFFFFFF, 0x0, 0x0⟩,
  -- HB_LOST_B, RC
  ⟨0x084, 0, 1, 0, 1, 0x0, 0x0, 0x0, 0x0, 0x0, 0xFFFFFFFF, 0x0, 0x0⟩ ]

/-- The registers of page UPD above its header. -/
def RegMap.upd : List RegRow :=
  [
  -- UPD_STAT, RO
  ⟨0x040, 0, 1, 0, 1, 0x0, 0x0, 0x0, 0x0, 0x0, 0x0, 0x0, 0x0⟩,
  -- UPD_ID, RO
  ⟨0x044, 0, 1, 0, 1, 0x0, 0x0, 0x0, 0x0, 0x0, 0x0, 0x0, 0x0⟩,
  -- DELTA_LEN, RO
  ⟨0x048, 0, 1, 0, 1, 0x0, 0x0, 0x0, 0x0, 0x0, 0x0, 0x0, 0x0⟩,
  -- TARGET_VER, RO
  ⟨0x04C, 0, 1, 0, 1, 0x0, 0x0, 0x0, 0x0, 0x0, 0x0, 0x0, 0x0⟩,
  -- RUN_VER, RO
  ⟨0x050, 0, 1, 0, 1, 0x0, 0x0, 0x0, 0x0, 0x0, 0x0, 0x0, 0x0⟩,
  -- FLOOR, RO
  ⟨0x054, 0, 1, 0, 1, 0x0, 0x0, 0x0, 0x0, 0x0, 0x0, 0x0, 0x0⟩,
  -- BOOT_STAT, RO
  ⟨0x058, 0, 1, 0, 1, 0x0, 0x0, 0x0, 0x0, 0x0, 0x0, 0x0, 0x0⟩,
  -- SET_RESET, RO
  ⟨0x05C, 0, 1, 0, 1, 0x0, 0x0, 0x0, 0x0, 0x0, 0x0, 0x0, 0x0⟩,
  -- RESET_AT, RO
  ⟨0x060, 0, 1, 0, 1, 0x0, 0x0, 0x0, 0x0, 0x0, 0x0, 0x0, 0x0⟩,
  -- APPLY_ERR, RO
  ⟨0x064, 0, 1, 0, 1, 0x0, 0x0, 0x0, 0x0, 0x0, 0x0, 0x0, 0x0⟩ ]

/-- The registers of page PWR above its header. -/
def RegMap.pwr : List RegRow :=
  [
  -- PWR_STAT, RO
  ⟨0x040, 0, 1, 0, 1, 0x0, 0x0, 0x0, 0x0, 0x0, 0x0, 0x0, 0x0⟩,
  -- VIN_MEAS, RO
  ⟨0x044, 0, 1, 0, 1, 0x0, 0x0, 0x0, 0x0, 0x0, 0x0, 0x0, 0x0⟩,
  -- PFAIL_CFG, RWS
  ⟨0x048, 0, 1, 0, 1, 0xBE, 0x1FF, 0x0, 0x1FF, 0x0, 0x0, 0x0, 0x0⟩,
  -- PFAIL_CNT, RC
  ⟨0x04C, 0, 1, 0, 1, 0x0, 0x0, 0x0, 0x0, 0x0, 0xFFFFFFFF, 0x0, 0x0⟩,
  -- P_IN, RO
  ⟨0x050, 0, 1, 0, 1, 0x0, 0x0, 0x0, 0x0, 0x0, 0x0, 0x0, 0x0⟩,
  -- TEMPs, RO
  ⟨0x060, 4, 4, 0, 1, 0x0, 0x0, 0x0, 0x0, 0x0, 0x0, 0x0, 0x0⟩,
  -- RAIL_V0–RAIL_V3, RO
  ⟨0x070, 4, 4, 0, 1, 0x0, 0x0, 0x0, 0x0, 0x0, 0x0, 0x0, 0x0⟩ ]

/-- The registers of page FSW above its header. -/
def RegMap.fsw : List RegRow :=
  [
  -- CONT_HOLD, RWP, RW
  ⟨0x040, 0, 1, 0, 1, 0x0, 0x13F, 0x0, 0x0, 0x3F, 0x0, 0x0, 0x0⟩,
  -- CONT_STAT, RO
  ⟨0x044, 0, 1, 0, 1, 0x0, 0x0, 0x0, 0x0, 0x0, 0x0, 0x0, 0x0⟩,
  -- FSW_CTRL, W1S
  ⟨0x048, 0, 1, 0, 1, 0x0, 0x0, 0x0, 0x0, 0x0, 0x0, 0x0, 0x1⟩,
  -- STAT_IN, RO
  ⟨0x04C, 0, 1, 0, 1, 0x0, 0x0, 0x0, 0x0, 0x0, 0x0, 0x0, 0x0⟩,
  -- STAT_DEB, RW
  ⟨0x050, 0, 1, 0, 1, 0x14, 0xFF, 0x0, 0x0, 0x0, 0x0, 0x0, 0x0⟩,
  -- PHOTO_CFG, RWP
  ⟨0x054, 0, 1, 0, 1, 0x5078, 0x1FFFF, 0x0, 0x0, 0x1FFFF, 0x0, 0x0, 0x0⟩,
  -- PHOTO_STAT, RO
  ⟨0x058, 0, 1, 0, 1, 0x0, 0x0, 0x0, 0x0, 0x0, 0x0, 0x0, 0x0⟩,
  -- COIL_V, RO
  ⟨0x05C, 0, 1, 0, 1, 0x0, 0x0, 0x0, 0x0, 0x0, 0x0, 0x0, 0x0⟩ ]

/-- The registers of page QUE1 above its header. -/
def RegMap.que1 : List RegRow :=
  [
  -- PUSH_LOq, WO
  ⟨0x040, 8, 16, 0, 1, 0x0, 0x0, 0x0, 0x0, 0x0, 0x0, 0x0, 0x0⟩,
  -- PUSH_HIq, WO
  ⟨0x044, 8, 16, 0, 1, 0x0, 0x0, 0x0, 0x0, 0x0, 0x0, 0x0, 0x0⟩ ]

/-- The registers of page QUE2 above its header. -/
def RegMap.que2 : List RegRow :=
  [
  -- POP_HIq, RC
  ⟨0x040, 8, 16, 0, 1, 0x0, 0x0, 0x0, 0x0, 0x0, 0x0, 0x0, 0x0⟩,
  -- POP_LOq, RO
  ⟨0x044, 8, 16, 0, 1, 0x0, 0x0, 0x0, 0x0, 0x0, 0x0, 0x0, 0x0⟩ ]

/-- The registers of page QUE3 above its header. -/
def RegMap.que3 : List RegRow :=
  [
  -- PEEK_HIq, RO
  ⟨0x040, 8, 16, 0, 1, 0x0, 0x0, 0x0, 0x0, 0x0, 0x0, 0x0, 0x0⟩,
  -- PEEK_LOq, RO
  ⟨0x044, 8, 16, 0, 1, 0x0, 0x0, 0x0, 0x0, 0x0, 0x0, 0x0, 0x0⟩ ]

/-- RST.RST_CAUSE: Latest reset cause. -/
abbrev R.rst_RST_CAUSE : Nat := 0x01040
/-- RST.STRAP: Strap reading of the latest reset. -/
abbrev R.rst_STRAP : Nat := 0x01044
/-- RST.ROLE: Role taken at start, after R17. -/
abbrev R.rst_ROLE : Nat := 0x01048
/-- RST.SW_RESET: Software reset request. -/
abbrev R.rst_SW_RESET : Nat := 0x0104C
/-- RST.BLK_RST_SET_A: Put blocks 0–31 into reset. -/
abbrev R.rst_BLK_RST_SET_A : Nat := 0x01050
/-- RST.BLK_RST_SET_B: Put blocks 32–33 into reset. -/
abbrev R.rst_BLK_RST_SET_B : Nat := 0x01054
/-- RST.BLK_RST_CLR_A: Request release of blocks 0–31. -/
abbrev R.rst_BLK_RST_CLR_A : Nat := 0x01058
/-- RST.BLK_RST_CLR_B: Request release of blocks 32–33. -/
abbrev R.rst_BLK_RST_CLR_B : Nat := 0x0105C
/-- RST.BLK_IN_RESET_A: Blocks 0–31 in reset. -/
abbrev R.rst_BLK_IN_RESET_A : Nat := 0x01060
/-- RST.BLK_IN_RESET_B: Blocks 32–33 in reset. -/
abbrev R.rst_BLK_IN_RESET_B : Nat := 0x01064
/-- RST.BLK_REL_PEND_A: Releases pending for blocks 0–31. -/
abbrev R.rst_BLK_REL_PEND_A : Nat := 0x01068
/-- RST.BLK_REL_PEND_B: Releases pending for blocks 32–33. -/
abbrev R.rst_BLK_REL_PEND_B : Nat := 0x0106C
/-- RST.BLK_REL_FAIL_A: Releases abandoned for blocks 0–31. -/
abbrev R.rst_BLK_REL_FAIL_A : Nat := 0x01070
/-- RST.BLK_REL_FAIL_B: Releases abandoned for blocks 32–33. -/
abbrev R.rst_BLK_REL_FAIL_B : Nat := 0x01074
/-- SYS.MODULE_ID: VARIANT[3:0] 0xA or 0xB. -/
abbrev R.sys_MODULE_ID : Nat := 0x00040
/-- SYS.IDENT_LO: Module 64-bit identity, low word (the identity used on air). -/
abbrev R.sys_IDENT_LO : Nat := 0x00044
/-- SYS.IDENT_HI: Module 64-bit identity, high word. -/
abbrev R.sys_IDENT_HI : Nat := 0x00048
/-- SYS.APT_BASE_LO: Staged aperture base, bits 31:20. -/
abbrev R.sys_APT_BASE_LO : Nat := 0x00050
/-- SYS.APT_BASE_HI: Staged aperture base, bits 34:32 in [2:0]. -/
abbrev R.sys_APT_BASE_HI : Nat := 0x00054
/-- SYS.APT_CTRL: COMMIT[0]. -/
abbrev R.sys_APT_CTRL : Nat := 0x00058
/-- SYS.APT_STAT: PENDING[0] RO. -/
abbrev R.sys_APT_STAT : Nat := 0x0005C
/-- SYS.ERR_ADDR_LO: Address for codes 0x10–0x13, low word. -/
abbrev R.sys_ERR_ADDR_LO : Nat := 0x00060
/-- SYS.ERR_ADDR_HI: Address for codes 0x10–0x13, high word. -/
abbrev R.sys_ERR_ADDR_HI : Nat := 0x00064
/-- SYS.SW_IRQ_SET: Firmware sets bits 9:0 to raise vectors 54–63. -/
abbrev R.sys_SW_IRQ_SET : Nat := 0x00068
/-- SYS.SW_IRQ_PEND: Pending firmware vectors. -/
abbrev R.sys_SW_IRQ_PEND : Nat := 0x0006C
/-- SYS.HOST_BEAT: Any write marks the host alive. -/
abbrev R.sys_HOST_BEAT : Nat := 0x00070
/-- SYS.HOST_STAT: PRESENT[0]. -/
abbrev R.sys_HOST_STAT : Nat := 0x00074
/-- SYS.HOST_TIMEOUT: Superframes without a beat before the host counts as absent, 4–255. -/
abbrev R.sys_HOST_TIMEOUT : Nat := 0x00078
/-- MBX.H2M_BASE_LO: Ring base, bits 31:12. -/
abbrev R.mbx_H2M_BASE_LO : Nat := 0x2E040
/-- MBX.H2M_BASE_HI: Ring base, bits 63:32. -/
abbrev R.mbx_H2M_BASE_HI : Nat := 0x2E044
/-- MBX.H2M_CFG: LOG2_N[3:0], 4–10. -/
abbrev R.mbx_H2M_CFG : Nat := 0x2E048
/-- MBX.H2M_TAIL: Doorbell, COUNT[15:0]. -/
abbrev R.mbx_H2M_TAIL : Nat := 0x2E04C
/-- MBX.H2M_HEAD: COUNT[15:0]. -/
abbrev R.mbx_H2M_HEAD : Nat := 0x2E050
/-- MBX.M2H_BASE_LO: Ring base, bits 31:12. -/
abbrev R.mbx_M2H_BASE_LO : Nat := 0x2E054
/-- MBX.M2H_BASE_HI: Ring base, bits 63:32. -/
abbrev R.mbx_M2H_BASE_HI : Nat := 0x2E058
/-- MBX.M2H_CFG: LOG2_N[3:0], as H2M_CFG. -/
abbrev R.mbx_M2H_CFG : Nat := 0x2E05C
/-- MBX.M2H_TAIL: COUNT[15:0]. -/
abbrev R.mbx_M2H_TAIL : Nat := 0x2E060
/-- MBX.M2H_HEAD: COUNT[15:0]. -/
abbrev R.mbx_M2H_HEAD : Nat := 0x2E064
/-- MBX.MBX_STAT: RUNNING[0]. -/
abbrev R.mbx_MBX_STAT : Nat := 0x2E068
/-- MBX.MBX_EPOCH: Incremented at each cancel-all of R78. -/
abbrev R.mbx_MBX_EPOCH : Nat := 0x2E06C
/-- MKT.MKT_CFG: AFF_WAIT[7:0], cycles of 1. -/
abbrev R.mkt_MKT_CFG : Nat := 0x06040
/-- MKT.OVR_CFG: POLICY[1:0], as R106. -/
abbrev R.mkt_OVR_CFG : Nat := 0x06044
/-- MKT.OVR_LAST: COUNT[12:0], at the last edge. -/
abbrev R.mkt_OVR_LAST : Nat := 0x06048
/-- MKT.OVR_TOTAL: Wares overrun, saturating. -/
abbrev R.mkt_OVR_TOTAL : Nat := 0x0604C
/-- MKT.OVR_TICK: Low 32 bits of the last tick with an overrun. -/
abbrev R.mkt_OVR_TICK : Nat := 0x06050
/-- MKT.HELD: COUNT[13:0] wares held. -/
abbrev R.mkt_HELD : Nat := 0x06054
/-- MKT.HELD_HW: Copy of HIGH. -/
abbrev R.mkt_HELD_HW : Nat := 0x06058
/-- MKT.MATCH_USED: USED[11:0]. -/
abbrev R.mkt_MATCH_USED : Nat := 0x0605C
/-- MKT.STORE_FULL_CNT: Operands returned with STORE_FULL. -/
abbrev R.mkt_STORE_FULL_CNT : Nat := 0x06060
/-- MKT.MATCH_TO_CNT: Operands returned with MATCH_TIMEOUT. -/
abbrev R.mkt_MATCH_TO_CNT : Nat := 0x06064
/-- MKT.CONFLICT_CNT: Operands returned with MATCH_CONFLICT. -/
abbrev R.mkt_CONFLICT_CNT : Nat := 0x06068
/-- MKT.CLASS_CFG0–CLASS_CFG7: Class configuration, one word each. -/
abbrev R.mkt_CLASS_CFG0 (i : Nat) : Nat := 0x06080 + 4 * i
/-- MKT.DOM_SEL: INDEX[11:0]. -/
abbrev R.mkt_DOM_SEL : Nat := 0x060A0
/-- MKT.DOM_CFG: Configuration of the domain DOM_SEL names. -/
abbrev R.mkt_DOM_CFG : Nat := 0x060A4
/-- MKT.CTR_SEL: INDEX[9:0]. -/
abbrev R.mkt_CTR_SEL : Nat := 0x060A8
/-- MKT.CTR_VAL: VALUE[15:0] of the selected counter. -/
abbrev R.mkt_CTR_VAL : Nat := 0x060AC
/-- MKT.CTR_ADD: ADD[15:0], signed, added to the selected counter, saturating at 0 and 0xFFFF. -/
abbrev R.mkt_CTR_ADD : Nat := 0x060B0
/-- MKT.CTR_WAITERS: COUNT[13:0], wares waiting on the selected counter. -/
abbrev R.mkt_CTR_WAITERS : Nat := 0x060B4
/-- MKT.SUBMIT_H0–SUBMIT_H7: Host submit window, bytes 0–31 of a ware. -/
abbrev R.mkt_SUBMIT_H0 (i : Nat) : Nat := 0x07040 + 4 * i
/-- MKT.SUBMIT_S0–SUBMIT_S7: Service-core submit window, as the host's. -/
abbrev R.mkt_SUBMIT_S0 (i : Nat) : Nat := 0x07060 + 4 * i
/-- MKT.TAKE0: Take port 0, blocking (R102). -/
abbrev R.mkt_TAKE0 : Nat := 0x07080
/-- MKT.TAKE0_POLL: Take port 0, without waiting. -/
abbrev R.mkt_TAKE0_POLL : Nat := 0x07084
/-- MKT.RETIRE0: Retire a port 0 buffer. -/
abbrev R.mkt_RETIRE0 : Nat := 0x07088
/-- MKT.TAKE1: Take port 1, blocking. -/
abbrev R.mkt_TAKE1 : Nat := 0x07090
/-- MKT.TAKE1_POLL: Take port 1, without waiting. -/
abbrev R.mkt_TAKE1_POLL : Nat := 0x07094
/-- MKT.RETIRE1: Retire a port 1 buffer. -/
abbrev R.mkt_RETIRE1 : Nat := 0x07098
/-- MKT.TBUF0: Port 0 buffers. -/
abbrev R.mkt_TBUF0 (i : Nat) : Nat := 0x07100 + 4 * i
/-- MKT.TBUF1: Port 1 buffers. -/
abbrev R.mkt_TBUF1 (i : Nat) : Nat := 0x07200 + 4 * i
/-- LANE.LANE_CFG: CLASS_MASK[7:0]: classes this lane serves. -/
abbrev R.lane_LANE_CFG (n : Nat) : Nat := 0x08040 + 0x1000 * n
/-- LANE.WDOG: TICKS[7:0]. -/
abbrev R.lane_WDOG (n : Nat) : Nat := 0x08044 + 0x1000 * n
/-- LANE.LANE_STAT: SLOT0_FULL[0]. -/
abbrev R.lane_LANE_STAT (n : Nat) : Nat := 0x08048 + 0x1000 * n
/-- LANE.CUR_WARE: DOMAIN[11:0] and FUNC[27:16] of the running ware. -/
abbrev R.lane_CUR_WARE (n : Nat) : Nat := 0x0804C + 0x1000 * n
/-- LANE.RUN_TICKS: Tick edges crossed by the running ware. -/
abbrev R.lane_RUN_TICKS (n : Nat) : Nat := 0x08050 + 0x1000 * n
/-- LANE.WARES_DONE: Wares retired. -/
abbrev R.lane_WARES_DONE (n : Nat) : Nat := 0x08054 + 0x1000 * n
/-- LANE.BUSY_TIME: µs the lane ran wares during the last full tick, 0–4,000. -/
abbrev R.lane_BUSY_TIME (n : Nat) : Nat := 0x08058 + 0x1000 * n
/-- LANE.OVR_COUNT: Overruns of wares run on this lane. -/
abbrev R.lane_OVR_COUNT (n : Nat) : Nat := 0x0805C + 0x1000 * n
/-- LANE.LS_MISMATCH: VALID[0]. -/
abbrev R.lane_LS_MISMATCH (n : Nat) : Nat := 0x08060 + 0x1000 * n
/-- LANE.LS_COUNT: Lockstep mismatches since the last cold reset. -/
abbrev R.lane_LS_COUNT (n : Nat) : Nat := 0x08064 + 0x1000 * n
/-- QUE.QUE_EMPTY: EMPTY[15:0], one bit per queue. -/
abbrev R.que_QUE_EMPTY : Nat := 0x0C040
/-- QUE.QUE_FULL: FULL[15:0]. -/
abbrev R.que_QUE_FULL : Nat := 0x0C044
/-- QUE.QCFGq: Queue configuration. -/
abbrev R.que_QCFGq (i : Nat) : Nat := 0x0C100 + 32 * i
/-- QUE.QCTq: CT_THRESH[11:0], in entries. -/
abbrev R.que_QCTq (i : Nat) : Nat := 0x0C104 + 32 * i
/-- QUE.QFILLq: COUNT[12:0]. -/
abbrev R.que_QFILLq (i : Nat) : Nat := 0x0C108 + 32 * i
/-- QUE.QDROPq: Refused pushes, saturating. -/
abbrev R.que_QDROPq (i : Nat) : Nat := 0x0C10C + 32 * i
/-- QUE.QPOPSq: Entries popped, wrapping. -/
abbrev R.que_QPOPSq (i : Nat) : Nat := 0x0C110 + 32 * i
/-- CHK.CCFGu: Unit configuration. -/
abbrev R.chk_CCFGu (i : Nat) : Nat := 0x10100 + 32 * i
/-- CHK.CPOLYu: POLY, right-aligned. -/
abbrev R.chk_CPOLYu (i : Nat) : Nat := 0x10104 + 32 * i
/-- CHK.CINITu: INIT, right-aligned. -/
abbrev R.chk_CINITu (i : Nat) : Nat := 0x10108 + 32 * i
/-- CHK.CXORu: XOROUT, right-aligned. -/
abbrev R.chk_CXORu (i : Nat) : Nat := 0x1010C + 32 * i
/-- CHK.CVALu: Running value (R124). -/
abbrev R.chk_CVALu (i : Nat) : Nat := 0x10110 + 32 * i
/-- CHK.CRESULTu: Final value of the last frame. -/
abbrev R.chk_CRESULTu (i : Nat) : Nat := 0x10114 + 32 * i
/-- CHK.CBYTESu: Bytes absorbed in the last or current frame. -/
abbrev R.chk_CBYTESu (i : Nat) : Nat := 0x10118 + 32 * i
/-- CHK.CFRAMESu: Frames completed, wrapping. -/
abbrev R.chk_CFRAMESu (i : Nat) : Nat := 0x1011C + 32 * i
/-- MEM.MEM_CFG: SCRUB_EN[0]. -/
abbrev R.mem_MEM_CFG : Nat := 0x11040
/-- MEM.SCRUB_INT: INTERVAL[9:0], µs, 100–735. -/
abbrev R.mem_SCRUB_INT : Nat := 0x11044
/-- MEM.SCRUB_PTR: Burst being scrubbed, address bits 34:6 in [28:0]. -/
abbrev R.mem_SCRUB_PTR : Nat := 0x11048
/-- MEM.SCRUB_PASS: Passes completed since cold reset. -/
abbrev R.mem_SCRUB_PASS : Nat := 0x1104C
/-- MEM.CE_COUNT: Correctable errors, saturating. -/
abbrev R.mem_CE_COUNT : Nat := 0x11050
/-- MEM.UE_COUNT: Codewords poisoned, saturating. -/
abbrev R.mem_UE_COUNT : Nat := 0x11054
/-- MEM.POISON_HITS: Accesses to poisoned codewords. -/
abbrev R.mem_POISON_HITS : Nat := 0x11058
/-- MEM.ERR_INFO: CE_SYMBOL[5:0], 0–35. -/
abbrev R.mem_ERR_INFO : Nat := 0x1105C
/-- MEM.CE_ADDR_LO: First correctable codeword, bits 31:4. -/
abbrev R.mem_CE_ADDR_LO : Nat := 0x11060
/-- MEM.CE_ADDR_HI: Bits 34:32 in [2:0]. -/
abbrev R.mem_CE_ADDR_HI : Nat := 0x11064
/-- MEM.UE_ADDR_LO: First poisoned codeword, bits 31:4. -/
abbrev R.mem_UE_ADDR_LO : Nat := 0x11068
/-- MEM.UE_ADDR_HI: Bits 34:32 in [2:0]. -/
abbrev R.mem_UE_ADDR_HI : Nat := 0x1106C
/-- MEM.SRAM_CE_COUNT: Packet SRAM correctable errors. -/
abbrev R.mem_SRAM_CE_COUNT : Nat := 0x11070
/-- MEM.SRAM_UE_COUNT: Packet SRAM codewords poisoned. -/
abbrev R.mem_SRAM_UE_COUNT : Nat := 0x11074
/-- MEM.OCC_BASE: History base in MiB, [12:0]. -/
abbrev R.mem_OCC_BASE : Nat := 0x11080
/-- MEM.OCC_LAST: Last second recorded (R140). -/
abbrev R.mem_OCC_LAST : Nat := 0x11084
/-- MEM.OCC_STAT: VALID[0]: OCC_LAST names a written row. -/
abbrev R.mem_OCC_STAT : Nat := 0x11088
/-- MEM.LWINn_0: Lane n window 0 base, 256 MiB units, [4:0], 0–24. -/
abbrev R.mem_LWINn_0 (i : Nat) : Nat := 0x11090 + 8 * i
/-- MEM.LWINn_1: Lane n window 1 base, as LWINn_0. -/
abbrev R.mem_LWINn_1 (i : Nat) : Nat := 0x11094 + 8 * i
/-- MEM.REGr_BASE: BASE[12:0], MiB. -/
abbrev R.mem_REGr_BASE (i : Nat) : Nat := 0x11100 + 16 * i
/-- MEM.REGr_LIMIT: LIMIT[12:0], last MiB included. -/
abbrev R.mem_REGr_LIMIT (i : Nat) : Nat := 0x11104 + 16 * i
/-- MEM.REGr_ATTR: EN[0]. -/
abbrev R.mem_REGr_ATTR (i : Nat) : Nat := 0x11108 + 16 * i
/-- NVS.NVS_STAT: READY[0]. -/
abbrev R.nvs_NVS_STAT : Nat := 0x12040
/-- NVS.ECC_CE: Bits corrected. -/
abbrev R.nvs_ECC_CE : Nat := 0x12044
/-- NVS.ECC_UE: Words not correctable. -/
abbrev R.nvs_ECC_UE : Nat := 0x12048
/-- NVS.ECC_ADDR: First uncorrectable word, byte offset in NVS. -/
abbrev R.nvs_ECC_ADDR : Nat := 0x1204C
/-- NVS.NWRITERSr: Writer mask of region r. -/
abbrev R.nvs_NWRITERSr (i : Nat) : Nat := 0x12080 + 4 * i
/-- EMC.EMC_STAT: READY[0]. -/
abbrev R.emc_EMC_STAT : Nat := 0x13040
/-- EMC.CAPACITY: User area size in 512-byte sectors. -/
abbrev R.emc_CAPACITY : Nat := 0x13044
/-- EMC.LIFE: LIFE_A[7:0] and LIFE_B[15:8] from EXT_CSD DEVICE_LIFE_TIME_EST_TYP_A and B. -/
abbrev R.emc_LIFE : Nat := 0x13048
/-- EMC.DEV_STATUS: Card status of the last failed command. -/
abbrev R.emc_DEV_STATUS : Nat := 0x1304C
/-- RAD.RAD_CFG: PHY and queue configuration. -/
abbrev R.rad_RAD_CFG (n : Nat) : Nat := 0x14040 + 0x1000 * n
/-- RAD.RAD_BACKOFF: BE_MIN[2:0], 0–7. -/
abbrev R.rad_RAD_BACKOFF (n : Nat) : Nat := 0x14044 + 0x1000 * n
/-- RAD.RAD_PWR: REQ[7:0], dBm = −10 + 0. -/
abbrev R.rad_RAD_PWR (n : Nat) : Nat := 0x14048 + 0x1000 * n
/-- RAD.RAD_STAT: STATE[2:0]: 0 off, 1 idle, 2 receive, 3 send, 4 calibrate. -/
abbrev R.rad_RAD_STAT (n : Nat) : Nat := 0x1404C + 0x1000 * n
/-- RAD.RSSI: LAST[7:0], last good frame. -/
abbrev R.rad_RSSI (n : Nat) : Nat := 0x14050 + 0x1000 * n
/-- RAD.TX_SENT: Transmissions, retries and acknowledgements included. -/
abbrev R.rad_TX_SENT (n : Nat) : Nat := 0x14054 + 0x1000 * n
/-- RAD.RX_GOOD: Frames with good FCS. -/
abbrev R.rad_RX_GOOD (n : Nat) : Nat := 0x14058 + 0x1000 * n
/-- RAD.RX_BAD: Sync word found, PHR or FCS bad, or unsupported PHR. -/
abbrev R.rad_RX_BAD (n : Nat) : Nat := 0x1405C + 0x1000 * n
/-- RAD.NOACK_CNT: Failed attempts (R156). -/
abbrev R.rad_NOACK_CNT (n : Nat) : Nat := 0x14060 + 0x1000 * n
/-- RAD.HELD_CNT: Transmissions held back (R162). -/
abbrev R.rad_HELD_CNT (n : Nat) : Nat := 0x14064 + 0x1000 * n
/-- RAD.EXPIRED_CNT: Descriptors returned EXPIRED. -/
abbrev R.rad_EXPIRED_CNT (n : Nat) : Nat := 0x14068 + 0x1000 * n
/-- RAD.ACK_WH: Acknowledgements withheld. -/
abbrev R.rad_ACK_WH (n : Nat) : Nat := 0x1406C + 0x1000 * n
/-- CHN.CHN_CFG: SCOPE[0] (R163). -/
abbrev R.chn_CHN_CFG : Nat := 0x18040
/-- CHN.DWELL_WIN: BINS[5:0], 1–63 superframes. -/
abbrev R.chn_DWELL_WIN : Nat := 0x18044
/-- CHN.DUTY_WIN: BINS[5:0], 1–63 bins of 64 superframes. -/
abbrev R.chn_DUTY_WIN : Nat := 0x18048
/-- CHN.MIN_SEP: KHZ[13:0]. -/
abbrev R.chn_MIN_SEP : Nat := 0x1804C
/-- CHN.HOP_LEN: LEN[6:0], 4–64, staged. -/
abbrev R.chn_HOP_LEN : Nat := 0x18050
/-- CHN.HOP_COMMIT: COMMIT[0]. -/
abbrev R.chn_HOP_COMMIT : Nat := 0x18054
/-- CHN.HOP_AT: Tick at which the staged list applies. -/
abbrev R.chn_HOP_AT : Nat := 0x18058
/-- CHN.HOP_LIST0–HOP_LIST15: Entry 4i + j in bits 8j + 5 : 8j of HOP_LISTi, staged. -/
abbrev R.chn_HOP_LIST0 (i : Nat) : Nat := 0x18060 + 4 * i
/-- CHN.SBs_CFG: DUTY[13:0], 0. -/
abbrev R.chn_SBs_CFG (i : Nat) : Nat := 0x180A0 + 8 * i
/-- CHN.SBs_USED: µs in the duty window. -/
abbrev R.chn_SBs_USED (i : Nat) : Nat := 0x180A4 + 8 * i
/-- CHN.CHc_CFG: FREQ[16:0], kHz above 850,000. -/
abbrev R.chn_CHc_CFG (i : Nat) : Nat := 0x18100 + 8 * i
/-- CHN.CHc_LIM: PWR_CAP[7:0], coded as RAD_PWR. -/
abbrev R.chn_CHc_LIM (i : Nat) : Nat := 0x18104 + 8 * i
/-- CHN.CHc_DWELL_USED: µs in the dwell window. -/
abbrev R.chn_CHc_DWELL_USED (i : Nat) : Nat := 0x18300 + 4 * i
/-- LNK.LNK_KEYS0: SK0_SLOT[5:0]. -/
abbrev R.lnk_LNK_KEYS0 : Nat := 0x19040
/-- LNK.LNK_KEYS1: NK0_SLOT[5:0]. -/
abbrev R.lnk_LNK_KEYS1 : Nat := 0x19044
/-- LNK.LNK_GEN: CUR[0], the generation used for sending. -/
abbrev R.lnk_LNK_GEN : Nat := 0x19048
/-- LNK.GEN_NEXT: NEXT[0]. -/
abbrev R.lnk_GEN_NEXT : Nat := 0x1904C
/-- LNK.GEN_AT: Tick at which CUR becomes NEXT. -/
abbrev R.lnk_GEN_AT : Nat := 0x19050
/-- LNK.TBL_BASE: Record table base, MiB, [12:0]. -/
abbrev R.lnk_TBL_BASE : Nat := 0x19054
/-- LNK.IDX_BASE: Identity hash index base, MiB, [12:0]. -/
abbrev R.lnk_IDX_BASE : Nat := 0x19058
/-- LNK.MIRROR_BASE: Receive mirror, NVS byte offset, [22:0]. -/
abbrev R.lnk_MIRROR_BASE : Nat := 0x1905C
/-- LNK.LNK_CFG: ACK_EN[0]. -/
abbrev R.lnk_LNK_CFG : Nat := 0x19060
/-- LNK.CTR_TX_SK0: Next counter under SK generation 0. -/
abbrev R.lnk_CTR_TX_SK0 : Nat := 0x19064
/-- LNK.CTR_TX_SK1: As CTR_TX_SK0, generation 1. -/
abbrev R.lnk_CTR_TX_SK1 : Nat := 0x19068
/-- LNK.CTR_TX_NK: Next counter for node-key frames. -/
abbrev R.lnk_CTR_TX_NK : Nat := 0x1906C
/-- LNK.CTR_RESERVE: Highest reserve written, over all three counters. -/
abbrev R.lnk_CTR_RESERVE : Nat := 0x19070
/-- LNK.VFY_Q: IN[3:0]. -/
abbrev R.lnk_VFY_Q : Nat := 0x19074
/-- LNK.RX_ACCEPT: Frames accepted. -/
abbrev R.lnk_RX_ACCEPT : Nat := 0x19080
/-- LNK.RX_DUP: Duplicates. -/
abbrev R.lnk_RX_DUP : Nat := 0x19084
/-- LNK.RX_REPLAY: Replays. -/
abbrev R.lnk_RX_REPLAY : Nat := 0x19088
/-- LNK.RX_CONFLICT: Conflicts. -/
abbrev R.lnk_RX_CONFLICT : Nat := 0x1908C
/-- LNK.RX_MIC_FAIL: MIC failures. -/
abbrev R.lnk_RX_MIC_FAIL : Nat := 0x19090
/-- LNK.RX_UNKNOWN: Unknown sender, NK frames that cannot be verified, frames dropped while disabled. -/
abbrev R.lnk_RX_UNKNOWN : Nat := 0x19094
/-- LNK.RX_BAD_SEC: R171, R172, retired generation, CTR = 0. -/
abbrev R.lnk_RX_BAD_SEC : Nat := 0x19098
/-- LNK.ACK_SENT: Acknowledgements sent, resent ones included. -/
abbrev R.lnk_ACK_SENT : Nat := 0x1909C
/-- LNK.ACK_RESENT: Acknowledgements resent for duplicates. -/
abbrev R.lnk_ACK_RESENT : Nat := 0x190A0
/-- LNK.ACK_IN_BAD: Received ACKs rejected (R187). -/
abbrev R.lnk_ACK_IN_BAD : Nat := 0x190A4
/-- LNK.REFILL_CNT: Context refills. -/
abbrev R.lnk_REFILL_CNT : Nat := 0x190A8
/-- LNK.REFILL_LATE: Frames dropped by R190. -/
abbrev R.lnk_REFILL_LATE : Nat := 0x190AC
/-- LNK.REFILL_MAX: Longest refill since read, ns. -/
abbrev R.lnk_REFILL_MAX : Nat := 0x190B0
/-- LNK.VERDICT_MAX: Longest verdict since read, ns after the last symbol. -/
abbrev R.lnk_VERDICT_MAX : Nat := 0x190B4
/-- LNK.CTX_SEL: INDEX[8:0]. -/
abbrev R.lnk_CTX_SEL : Nat := 0x190C0
/-- LNK.CTX_INFO: RECORD[12:0]. -/
abbrev R.lnk_CTX_INFO : Nat := 0x190C4
/-- LNK.CTX_CTRL: INVAL_ALL[0]. -/
abbrev R.lnk_CTX_CTRL : Nat := 0x190C8
/-- LNK.CTX_INVAL: RECORD[12:0]: drop any context that holds this record. -/
abbrev R.lnk_CTX_INVAL : Nat := 0x190CC
/-- LNK.ROUTE_At: Delivery of TYPE t (R197). -/
abbrev R.lnk_ROUTE_At (i : Nat) : Nat := 0x1A048 + 8 * i
/-- LNK.ROUTE_Bt: DOMAIN[11:0]. -/
abbrev R.lnk_ROUTE_Bt (i : Nat) : Nat := 0x1A04C + 8 * i
/-- BCN.BCN_CFG: BEACON_EN[0]. -/
abbrev R.bcn_BCN_CFG : Nat := 0x1B040
/-- BCN.BCN_NODE: DEPTH[4:0]. -/
abbrev R.bcn_BCN_NODE : Nat := 0x1B044
/-- BCN.BCN_DRIFT: D[15:0], ppb, used in R212. -/
abbrev R.bcn_BCN_DRIFT : Nat := 0x1B048
/-- BCN.BCN_TPL: BUF[15:0]: packet SRAM offset ÷ 64 of the payload built for the next beacon. -/
abbrev R.bcn_BCN_TPL : Nat := 0x1B04C
/-- BCN.BCN_EPOCH: EPOCH[15:0] carried by the head's beacons. -/
abbrev R.bcn_BCN_EPOCH : Nat := 0x1B050
/-- BCN.BCN_STAT: STATE[2:0]: 0 off, 1 scan, 2 learn, 3 joining, 4 tracking, 5 miss 1, 6 miss 2, 7 orphan. -/
abbrev R.bcn_BCN_STAT : Nat := 0x1B054
/-- BCN.SF_LAST: SF of the last beacon accepted from the parent, or from the head in the standby role. -/
abbrev R.bcn_SF_LAST : Nat := 0x1B058
/-- BCN.GUARD: US[15:0]: guard of the next window, µs. -/
abbrev R.bcn_GUARD : Nat := 0x1B05C
/-- BCN.MARGIN: DB[7:0], signed: mean margin of the parent's last four beacons. -/
abbrev R.bcn_MARGIN : Nat := 0x1B060
/-- BCN.BCN_TX: Beacons sent. -/
abbrev R.bcn_BCN_TX : Nat := 0x1B064
/-- BCN.BCN_HELD: Beacons held back (R162). -/
abbrev R.bcn_BCN_HELD : Nat := 0x1B068
/-- BCN.BCN_RX: Beacons accepted from the parent. -/
abbrev R.bcn_BCN_RX : Nat := 0x1B06C
/-- BCN.BCN_MISS: Misses. -/
abbrev R.bcn_BCN_MISS : Nat := 0x1B070
/-- BCN.ORPHAN_CNT: Entries into the orphan state. -/
abbrev R.bcn_ORPHAN_CNT : Nat := 0x1B074
/-- NTM.NTM_CFG: Source and PPS configuration. -/
abbrev R.ntm_NTM_CFG : Nat := 0x1C040
/-- NTM.NTM_STAT: State, TQ, holdover seconds. -/
abbrev R.ntm_NTM_STAT : Nat := 0x1C044
/-- NTM.CNT_LO: CNT bits 31:0. -/
abbrev R.ntm_CNT_LO : Nat := 0x1C048
/-- NTM.CNT_HI: CNT bits 63:32, as latched. -/
abbrev R.ntm_CNT_HI : Nat := 0x1C04C
/-- NTM.SNAP: Any write captures a snapshot (R227). -/
abbrev R.ntm_SNAP : Nat := 0x1C050
/-- NTM.SNAP_CNT_LO: Snapshot CNT, bits 31:0. -/
abbrev R.ntm_SNAP_CNT_LO : Nat := 0x1C054
/-- NTM.SNAP_CNT_HI: Snapshot CNT, bits 63:32. -/
abbrev R.ntm_SNAP_CNT_HI : Nat := 0x1C058
/-- NTM.SNAP_FRAC: FRAC[15:0], 2^−16 ns. -/
abbrev R.ntm_SNAP_FRAC : Nat := 0x1C05C
/-- NTM.SNAP_NS_LO: Relso ns, bits 31:0. -/
abbrev R.ntm_SNAP_NS_LO : Nat := 0x1C060
/-- NTM.SNAP_NS_HI: Relso ns, bits 63:32. -/
abbrev R.ntm_SNAP_NS_HI : Nat := 0x1C064
/-- NTM.FREQ: Learned frequency, signed, 2^−48. -/
abbrev R.ntm_FREQ : Nat := 0x1C068
/-- NTM.RATE: Rate in use, signed, 2^−48. -/
abbrev R.ntm_RATE : Nat := 0x1C06C
/-- NTM.SERVO: KP[7:0], KI[15:8], in 2^−8. -/
abbrev R.ntm_SERVO : Nat := 0x1C070
/-- NTM.SLEW_MAX: PPB[15:0]. -/
abbrev R.ntm_SLEW_MAX : Nat := 0x1C074
/-- NTM.STEP_LIM: NS[23:0]. -/
abbrev R.ntm_STEP_LIM : Nat := 0x1C078
/-- NTM.LOCK_THR: NS[15:0]. -/
abbrev R.ntm_LOCK_THR : Nat := 0x1C07C
/-- NTM.LAST_ERR: Last e, signed, 2^−8 ns. -/
abbrev R.ntm_LAST_ERR : Nat := 0x1C080
/-- NTM.DELAY: D in use, 2^−8 ns. -/
abbrev R.ntm_DELAY : Nat := 0x1C084
/-- NTM.DELAY_DEF: D before the first measurement, 2^−8 ns. -/
abbrev R.ntm_DELAY_DEF : Nat := 0x1C088
/-- NTM.DLY_CFG: PERIOD[7:0], superframes, 1–255. -/
abbrev R.ntm_DLY_CFG : Nat := 0x1C08C
/-- NTM.STEP_NS_LO: Staged software step, signed ns, bits 31:0. -/
abbrev R.ntm_STEP_NS_LO : Nat := 0x1C090
/-- NTM.STEP_NS_HI: Bits 63:32. -/
abbrev R.ntm_STEP_NS_HI : Nat := 0x1C094
/-- NTM.STEP_CTRL: GO[0]: apply the staged step under R238. -/
abbrev R.ntm_STEP_CTRL : Nat := 0x1C098
/-- NTM.PPS_CAP_LO: CNT at the last PPS edge, bits 31:0. -/
abbrev R.ntm_PPS_CAP_LO : Nat := 0x1C09C
/-- NTM.PPS_CAP_HI: Bits 63:32. -/
abbrev R.ntm_PPS_CAP_HI : Nat := 0x1C0A0
/-- NTM.PPS_DELAY: Cable and receiver delay, signed ns. -/
abbrev R.ntm_PPS_DELAY : Nat := 0x1C0A4
/-- NTM.PPS_DIFF: Last edge minus own time, signed ns. -/
abbrev R.ntm_PPS_DIFF : Nat := 0x1C0A8
/-- NTM.REF_ERR: Bound of the PPS reference, ns. -/
abbrev R.ntm_REF_ERR : Nat := 0x1C0AC
/-- NTM.HOLD_RATE: Holdover growth of the bound, ns/s. -/
abbrev R.ntm_HOLD_RATE : Nat := 0x1C0B0
/-- NTM.BOUND: Current bound, ns, saturating. -/
abbrev R.ntm_BOUND : Nat := 0x1C0B4
/-- NTM.TICK_LO: Current full tick number, bits 31:0. -/
abbrev R.ntm_TICK_LO : Nat := 0x1C0B8
/-- NTM.TICK_HI: Bits 63:32. -/
abbrev R.ntm_TICK_HI : Nat := 0x1C0BC
/-- NTM.STEP_CNT: Steps taken. -/
abbrev R.ntm_STEP_CNT : Nat := 0x1C0C0
/-- NTM.HOLD_CNT: Entries into HOLDOVER. -/
abbrev R.ntm_HOLD_CNT : Nat := 0x1C0C4
/-- NTM.DLY_CNT: Delay measurements accepted. -/
abbrev R.ntm_DLY_CNT : Nat := 0x1C0C8
/-- NTM.ANCHOR_LO: ANCHOR bits 31:0. -/
abbrev R.ntm_ANCHOR_LO : Nat := 0x1C0D0
/-- NTM.ANCHOR_HI: ANCHOR bits 63:32. -/
abbrev R.ntm_ANCHOR_HI : Nat := 0x1C0D4
/-- NTM.OFFSET_FRAC: OFFSET fraction, [15:0]. -/
abbrev R.ntm_OFFSET_FRAC : Nat := 0x1C0D8
/-- NTM.OFFSET_NS_LO: OFFSET ns, bits 31:0. -/
abbrev R.ntm_OFFSET_NS_LO : Nat := 0x1C0DC
/-- NTM.OFFSET_NS_HI: OFFSET ns, bits 63:32. -/
abbrev R.ntm_OFFSET_NS_HI : Nat := 0x1C0E0
/-- NTM.RXLATr_M0: LAT[19:0], 1/16 ns, MODE 0. -/
abbrev R.ntm_RXLATr_M0 (i : Nat) : Nat := 0x1C100 + 16 * i
/-- NTM.RXLATr_M1: As M0, MODE 1. -/
abbrev R.ntm_RXLATr_M1 (i : Nat) : Nat := 0x1C104 + 16 * i
/-- NTM.RXLATr_M2: As M0, MODE 2. -/
abbrev R.ntm_RXLATr_M2 (i : Nat) : Nat := 0x1C108 + 16 * i
/-- NTM.TXLATr: LAT[19:0], 1/16 ns. -/
abbrev R.ntm_TXLATr (i : Nat) : Nat := 0x1C10C + 16 * i
/-- COR.COR_CFG: RPT_Q[3:0]. -/
abbrev R.cor_COR_CFG : Nat := 0x1D040
/-- COR.COR_STAT: RUNNING[0]. -/
abbrev R.cor_COR_STAT : Nat := 0x1D044
/-- COR.GRAPH_ID: GRAPH_ID of the active bank. -/
abbrev R.cor_GRAPH_ID : Nat := 0x1D048
/-- COR.STAGE_ID: GRAPH_ID of the staged bank, once checked. -/
abbrev R.cor_STAGE_ID : Nat := 0x1D04C
/-- COR.GRAPH_AT: Tick of the swap (R251). -/
abbrev R.cor_GRAPH_AT : Nat := 0x1D050
/-- COR.GRAPH_CTRL: CHECK[0]. -/
abbrev R.cor_GRAPH_CTRL : Nat := 0x1D054
/-- COR.GRAPH_ERR: CHECK[3:0], the number of the failing check of R249. -/
abbrev R.cor_GRAPH_ERR : Nat := 0x1D058
/-- COR.HYST: LEVEL[9:0], 1–1,000. -/
abbrev R.cor_HYST : Nat := 0x1D05C
/-- COR.MATCH_CFG: BACK[7:0], 0. -/
abbrev R.cor_MATCH_CFG : Nat := 0x1D060
/-- COR.MAX_AGE: TICKS[15:0]. -/
abbrev R.cor_MAX_AGE : Nat := 0x1D064
/-- COR.EXPIRE: Bytes 0–3: EXPIRE for classes 0–3, in 0. -/
abbrev R.cor_EXPIRE : Nat := 0x1D068
/-- COR.OCC_CFG: OCC_T[7:0], 10 ms. -/
abbrev R.cor_OCC_CFG : Nat := 0x1D06C
/-- COR.WX: WX[10:0], staged, 0–1,024. -/
abbrev R.cor_WX : Nat := 0x1D070
/-- COR.POLICY_AT: Tick of the armed commit (R259). -/
abbrev R.cor_POLICY_AT : Nat := 0x1D074
/-- COR.POLICY_CTRL: COMMIT[0]. -/
abbrev R.cor_POLICY_CTRL : Nat := 0x1D078
/-- COR.POLICY_LAST: Tick at which the values in use took effect. -/
abbrev R.cor_POLICY_LAST : Nat := 0x1D07C
/-- COR.RUN_TICK: Tick of the last run that finished. -/
abbrev R.cor_RUN_TICK : Nat := 0x1D080
/-- COR.RUN_TIME: µs from 200 µs to the end of the last run. -/
abbrev R.cor_RUN_TIME : Nat := 0x1D084
/-- COR.RUN_MAX: Longest RUN_TIME since read. -/
abbrev R.cor_RUN_MAX : Nat := 0x1D088
/-- COR.OVR_CNT: Runs discarded under R27. -/
abbrev R.cor_OVR_CNT : Nat := 0x1D08C
/-- COR.RPT_IN: Reports popped. -/
abbrev R.cor_RPT_IN : Nat := 0x1D090
/-- COR.RPT_STALE: Dropped by age. -/
abbrev R.cor_RPT_STALE : Nat := 0x1D094
/-- COR.RPT_LOWCONF: Dropped by confidence. -/
abbrev R.cor_RPT_LOWCONF : Nat := 0x1D098
/-- COR.RPT_BADV: Dropped for vertex or KIND. -/
abbrev R.cor_RPT_BADV : Nat := 0x1D09C
/-- COR.TRK_FULL_CNT: Dropped for a full track table. -/
abbrev R.cor_TRK_FULL_CNT : Nat := 0x1D0A0
/-- COR.TRK_NEW: Tracks created. -/
abbrev R.cor_TRK_NEW : Nat := 0x1D0A4
/-- COR.TRK_EXPIRED: Tracks dropped (R251, R256). -/
abbrev R.cor_TRK_EXPIRED : Nat := 0x1D0A8
/-- COR.PUB_CNT: Vertices published at the last publication. -/
abbrev R.cor_PUB_CNT : Nat := 0x1D0AC
/-- COR.FLOORm: Staged floors of groups 2m in [9:0] and 2m + 1 in [25:16], m = 0–31. -/
abbrev R.cor_FLOORm (i : Nat) : Nat := 0x1D100 + 4 * i
/-- COR.CAPm: Staged caps, laid out as FLOORm. -/
abbrev R.cor_CAPm (i : Nat) : Nat := 0x1D180 + 4 * i
/-- COR.LIVEi: Bit j: node 32i + j is live, i = 0–127. -/
abbrev R.cor_LIVEi (i : Nat) : Nat := 0x1D200 + 4 * i
/-- COR.TRK_SEL: INDEX[9:0]. -/
abbrev R.cor_TRK_SEL : Nat := 0x1E040
/-- COR.TRK_W0: ANCHOR[11:0]. -/
abbrev R.cor_TRK_W0 : Nat := 0x1E044
/-- COR.TRK_W1: OFFS[23:0], ms. -/
abbrev R.cor_TRK_W1 : Nat := 0x1E048
/-- COR.TRK_W2: AGE[15:0], ticks. -/
abbrev R.cor_TRK_W2 : Nat := 0x1E04C
/-- COR.TRK_W3: PEAK[9:0], the highest level the track gave in its last search. -/
abbrev R.cor_TRK_W3 : Nat := 0x1E050
/-- COR.VTX_SEL: INDEX[11:0]. -/
abbrev R.cor_VTX_SEL : Nat := 0x1E060
/-- COR.VTX_LVL: TARGET[9:0] of the last kept run. -/
abbrev R.cor_VTX_LVL : Nat := 0x1E064
/-- LVL.LVL_CFG: Lead, relaying, refresh. -/
abbrev R.lvl_LVL_CFG : Nat := 0x1F040
/-- LVL.FADE_CFG: UP[5:0], code 9. -/
abbrev R.lvl_FADE_CFG : Nat := 0x1F044
/-- LVL.EPOCH: CUR[15:0]. -/
abbrev R.lvl_EPOCH : Nat := 0x1F048
/-- LVL.MODE_CUR: OPMODE[1:0]. -/
abbrev R.lvl_MODE_CUR : Nat := 0x1F04C
/-- LVL.MODE_PEND: EPOCH[15:0]. -/
abbrev R.lvl_MODE_PEND : Nat := 0x1F050
/-- LVL.MODE_PEND_AT: Apply tick of the pending mode. -/
abbrev R.lvl_MODE_PEND_AT : Nat := 0x1F054
/-- LVL.MODE_STAGE: Staged change, in the head. -/
abbrev R.lvl_MODE_STAGE : Nat := 0x1F058
/-- LVL.MODE_AT_REQ: Requested C (R278). -/
abbrev R.lvl_MODE_AT_REQ : Nat := 0x1F05C
/-- LVL.MODE_CTRL: ANNOUNCE[0]. -/
abbrev R.lvl_MODE_CTRL : Nat := 0x1F060
/-- LVL.WAVE_STAT: QUEUED[6:0], stripe frames waiting. -/
abbrev R.lvl_WAVE_STAT : Nat := 0x1F064
/-- LVL.LAST_WAVE: Tick of the last wave start. -/
abbrev R.lvl_LAST_WAVE : Nat := 0x1F068
/-- LVL.OWN_LVL: SHOWN[15:0], 1/256 code. -/
abbrev R.lvl_OWN_LVL : Nat := 0x1F06C
/-- LVL.WAVES: Waves started. -/
abbrev R.lvl_WAVES : Nat := 0x1F070
/-- LVL.FLOOD_RX: Flood frames accepted. -/
abbrev R.lvl_FLOOD_RX : Nat := 0x1F074
/-- LVL.FLOOD_FWD: Flood frames forwarded. -/
abbrev R.lvl_FLOOD_FWD : Nat := 0x1F078
/-- LVL.FLOOD_HELD: Held back by the ledgers (R270). -/
abbrev R.lvl_FLOOD_HELD : Nat := 0x1F07C
/-- LVL.FLOOD_NOFWD: Off the grid (R269). -/
abbrev R.lvl_FLOOD_NOFWD : Nat := 0x1F080
/-- LVL.LATE_CNT: Level changes applied late. -/
abbrev R.lvl_LATE_CNT : Nat := 0x1F084
/-- LVL.STALE_EPOCH: Changes discarded (R273). -/
abbrev R.lvl_STALE_EPOCH : Nat := 0x1F088
/-- LVL.BAD_APPLY: Frames dropped (R273). -/
abbrev R.lvl_BAD_APPLY : Nat := 0x1F08C
/-- LVL.BCN_YIELD: Beacons dropped for a flood frame. -/
abbrev R.lvl_BCN_YIELD : Nat := 0x1F090
/-- LVL.MODE_STAT: APPLIED_N[12:0]. -/
abbrev R.lvl_MODE_STAT : Nat := 0x1F094
/-- LVL.RING_STAT: STATE[2:0]: 0 idle, 1 prepared, 2 committed, 3 aborted, 4 in doubt. -/
abbrev R.lvl_RING_STAT : Nat := 0x1F098
/-- LVL.RING_ID: Identifier of the ring change. -/
abbrev R.lvl_RING_ID : Nat := 0x1F09C
/-- LVL.RING_AT: C of the ring change. -/
abbrev R.lvl_RING_AT : Nat := 0x1F0A0
/-- LVL.SCHEDp: Stored schedule point p = 0–7: TOD[16:0], s. -/
abbrev R.lvl_SCHEDp (i : Nat) : Nat := 0x1F0C0 + 4 * i
/-- LVL.APPLIEDi: Bit j: node 32i + j has applied the epoch in force, i = 0–127. -/
abbrev R.lvl_APPLIEDi (i : Nat) : Nat := 0x1F100 + 4 * i
/-- DRV.DRV_CFG: MODE[0]. -/
abbrev R.drv_DRV_CFG (n : Nat) : Nat := 0x20040 + 0x1000 * n
/-- DRV.ENMASK: Bit p: position p enabled. -/
abbrev R.drv_ENMASK (n : Nat) : Nat := 0x20044 + 0x1000 * n
/-- DRV.HR_CFG: LEAD[9:0], µs, 20–1,000. -/
abbrev R.drv_HR_CFG (n : Nat) : Nat := 0x20048 + 0x1000 * n
/-- DRV.FAULT_CFG: OPEN_V[7:0], SHORT_V[15:8], DEV_V[23:16], all 50 mV units. -/
abbrev R.drv_FAULT_CFG (n : Nat) : Nat := 0x2004C + 0x1000 * n
/-- DRV.DIS_FADE: MS[11:0]. -/
abbrev R.drv_DIS_FADE (n : Nat) : Nat := 0x20050 + 0x1000 * n
/-- DRV.VF_DEF: V[9:0], 10 mV. -/
abbrev R.drv_VF_DEF (n : Nat) : Nat := 0x20054 + 0x1000 * n
/-- DRV.DRV_CTRL: TAKE[0]. -/
abbrev R.drv_DRV_CTRL (n : Nat) : Nat := 0x20058 + 0x1000 * n
/-- DRV.PORT_STAT: STATE[2:0]: 0 off, 1 default, 2 running, 3 paused, 4 disable fade, 5 fault. -/
abbrev R.drv_PORT_STAT (n : Nat) : Nat := 0x2005C + 0x1000 * n
/-- DRV.OPEN_MASK: Latched open positions (R301). -/
abbrev R.drv_OPEN_MASK (n : Nat) : Nat := 0x20060 + 0x1000 * n
/-- DRV.SHORT_MASK: Shorted positions. -/
abbrev R.drv_SHORT_MASK (n : Nat) : Nat := 0x20064 + 0x1000 * n
/-- DRV.DEV_MASK: Degraded positions. -/
abbrev R.drv_DEV_MASK (n : Nat) : Nat := 0x20068 + 0x1000 * n
/-- DRV.HRQ_NOW: REQ[10:0], 0. -/
abbrev R.drv_HRQ_NOW (n : Nat) : Nat := 0x2006C + 0x1000 * n
/-- DRV.SINK_V: MEAN[13:0], 10 mV, over the lit counts of the last tick. -/
abbrev R.drv_SINK_V (n : Nat) : Nat := 0x20070 + 0x1000 * n
/-- DRV.SINK_P: MW[15:0], mean over the last superframe. -/
abbrev R.drv_SINK_P (n : Nat) : Nat := 0x20074 + 0x1000 * n
/-- DRV.I_MEAS: MA[10:0]. -/
abbrev R.drv_I_MEAS (n : Nat) : Nat := 0x20078 + 0x1000 * n
/-- DRV.SINK_TEMP: C[7:0], °C + 40. -/
abbrev R.drv_SINK_TEMP (n : Nat) : Nat := 0x2007C + 0x1000 * n
/-- DRV.DROPOUT_CNT: Dropouts. -/
abbrev R.drv_DROPOUT_CNT (n : Nat) : Nat := 0x20080 + 0x1000 * n
/-- DRV.HR_HIGH_CNT: Ticks with headroom high. -/
abbrev R.drv_HR_HIGH_CNT (n : Nat) : Nat := 0x20084 + 0x1000 * n
/-- DRV.TEST_CNT: DONE[15:0]. -/
abbrev R.drv_TEST_CNT (n : Nat) : Nat := 0x20088 + 0x1000 * n
/-- DRV.TEST_ABORT: Test slots ended by a swap. -/
abbrev R.drv_TEST_ABORT (n : Nat) : Nat := 0x2008C + 0x1000 * n
/-- DRV.PFADEk: Fade code of position 4k + j in bits 8j + 5 : 8j, k = 0–7. -/
abbrev R.drv_PFADEk (n i : Nat) : Nat := 0x20100 + 0x1000 * n + 4 * i
/-- DRV.VFp: V[9:0], 10 mV. -/
abbrev R.drv_VFp (n i : Nat) : Nat := 0x20180 + 0x1000 * n + 4 * i
/-- DRG.GSCALE: SCALE[7:0] (R289). -/
abbrev R.drg_GSCALE : Nat := 0x24040
/-- DRG.SWAP_CFG: SRC[1:0], as R294, 3 reserved. -/
abbrev R.drg_SWAP_CFG : Nat := 0x24044
/-- DRG.SWAP_AT: Apply tick of the swap. -/
abbrev R.drg_SWAP_AT : Nat := 0x24048
/-- DRG.SWAP_CTRL: ARM[0]. -/
abbrev R.drg_SWAP_CTRL : Nat := 0x2404C
/-- DRG.SWAP_STAT: ACTIVE[0], the active bank. -/
abbrev R.drg_SWAP_STAT : Nat := 0x24050
/-- DRG.LAST_SWAP: Tick of the last swap. -/
abbrev R.drg_LAST_SWAP : Nat := 0x24054
/-- DRG.LAST_FSYNC_LO: Relso ns of the last FSYNC edge, bits 31:0. -/
abbrev R.drg_LAST_FSYNC_LO : Nat := 0x24058
/-- DRG.LAST_FSYNC_HI: Bits 63:32. -/
abbrev R.drg_LAST_FSYNC_HI : Nat := 0x2405C
/-- DRG.TEST_CFG: EN[0]. -/
abbrev R.drg_TEST_CFG : Nat := 0x24060
/-- DRG.HR_SHARE: GRP0[3:0], GRP1[7:4]: ports whose supplies are one. -/
abbrev R.drg_HR_SHARE : Nat := 0x24064
/-- DRG.SINK_TOTAL: MW[15:0], all four sinks, last superframe. -/
abbrev R.drg_SINK_TOTAL : Nat := 0x24068
/-- DRG.FSYNC_CNT: FSYNC edges seen. -/
abbrev R.drg_FSYNC_CNT : Nat := 0x2406C
/-- DRG.FSYNC_EARLY: Edges that swapped nothing (R294). -/
abbrev R.drg_FSYNC_EARLY : Nat := 0x24070
/-- DRG.DEFn_A: ISET[9:0]. -/
abbrev R.drg_DEFn_A (i : Nat) : Nat := 0x24080 + 16 * i
/-- DRG.DEFn_B: ENMASK of the default. -/
abbrev R.drg_DEFn_B (i : Nat) : Nat := 0x24084 + 16 * i
/-- DRG.DEFn_C: ONTIME[15:0]. -/
abbrev R.drg_DEFn_C (i : Nat) : Nat := 0x24088 + 16 * i
/-- DRG.DEF_GSCALE: SCALE[7:0] used at 40 ms. -/
abbrev R.drg_DEF_GSCALE : Nat := 0x240C0
/-- DRG.SHADOWn_m: Port n, positions 2m in [15:0] and 2m + 1 in [31:16], m = 0–15. -/
abbrev R.drg_SHADOWn_m (i j : Nat) : Nat := 0x24100 + 64 * i + 4 * j
/-- DRG.ACTIVEn_m: The active bank, laid out as SHADOW. -/
abbrev R.drg_ACTIVEn_m (i j : Nat) : Nat := 0x24200 + 64 * i + 4 * j
/-- SCL.SCL_CFG: NOM[0]: 0 50 Hz, 1 60 Hz. -/
abbrev R.scl_SCL_CFG : Nat := 0x25040
/-- SCL.SCL_STAT: LINE_OK[0]. -/
abbrev R.scl_SCL_STAT : Nat := 0x25044
/-- SCL.FREQ: MHZ[16:0], last cycle. -/
abbrev R.scl_FREQ : Nat := 0x25048
/-- SCL.SEG_STAT: Segment of current channel 4 + j in bits 3j + 2 : 3j, j = 0–7. -/
abbrev R.scl_SEG_STAT : Nat := 0x2504C
/-- SCL.LATCH_WARE: EN_WARE[0]. -/
abbrev R.scl_LATCH_WARE : Nat := 0x25050
/-- SCL.LATCH_DOM: DOMAIN[11:0]. -/
abbrev R.scl_LATCH_DOM : Nat := 0x25054
/-- SCL.LREC_BASE: OFFSET[13:0], packet SRAM offset ÷ 256. -/
abbrev R.scl_LREC_BASE : Nat := 0x25058
/-- SCL.NCYC: N[12:0] in force. -/
abbrev R.scl_NCYC : Nat := 0x2505C
/-- SCL.SH_NCYC: N[12:0] staged, 1–4,096. -/
abbrev R.scl_SH_NCYC : Nat := 0x25060
/-- SCL.COEF_CTRL: COMMIT[0]. -/
abbrev R.scl_COEF_CTRL : Nat := 0x25064
/-- SCL.COEF_STAT: PENDING[0]. -/
abbrev R.scl_COEF_STAT : Nat := 0x25068
/-- SCL.CHECK_CFG: CHAN[3:0]. -/
abbrev R.scl_CHECK_CFG : Nat := 0x25070
/-- SCL.CHECK_CTRL: GO[0]. -/
abbrev R.scl_CHECK_CTRL : Nat := 0x25074
/-- SCL.CHECK_STAT: BUSY[0]. -/
abbrev R.scl_CHECK_STAT : Nat := 0x25078
/-- SCL.CHECK_DIFF: Signed ppm (R326). -/
abbrev R.scl_CHECK_DIFF : Nat := 0x2507C
/-- SCL.CLIP: Bit c: channel c clipped since read, c = 0–12. -/
abbrev R.scl_CLIP : Nat := 0x25080
/-- SCL.LINE_LOST_CNT: Entries into free run. -/
abbrev R.scl_LINE_LOST_CNT : Nat := 0x25084
/-- SCL.SH_CHCFGc: EN[0]. -/
abbrev R.scl_SH_CHCFGc (i : Nat) : Nat := 0x25100 + 128 * i
/-- SCL.SH_FSc: FS[23:0] (R309). -/
abbrev R.scl_SH_FSc (i : Nat) : Nat := 0x25104 + 128 * i
/-- SCL.SH_HYSTc: H[6:0], 0. -/
abbrev R.scl_SH_HYSTc (i : Nat) : Nat := 0x25108 + 128 * i
/-- SCL.SH_Bkc: Boundary k = 1–7, MA[23:0]. -/
abbrev R.scl_SH_Bkc (i j : Nat) : Nat := 0x25110 + 128 * i + 4 * j
/-- SCL.SH_Gkc: Gain of segment k = 0–7, signed ppm in [23:0]. -/
abbrev R.scl_SH_Gkc (i j : Nat) : Nat := 0x25130 + 128 * i + 4 * j
/-- SCL.SH_Pkc: Phase of segment k = 0–7, signed 0. -/
abbrev R.scl_SH_Pkc (i j : Nat) : Nat := 0x25150 + 128 * i + 4 * j
/-- SCL.CHCFGc: EN[0]. -/
abbrev R.scl_CHCFGc (i : Nat) : Nat := 0x25800 + 128 * i
/-- SCL.FSc: FS[23:0] (R309). -/
abbrev R.scl_FSc (i : Nat) : Nat := 0x25804 + 128 * i
/-- SCL.HYSTc: H[6:0], 0. -/
abbrev R.scl_HYSTc (i : Nat) : Nat := 0x25808 + 128 * i
/-- SCL.Bkc: Boundary k = 1–7, MA[23:0]. -/
abbrev R.scl_Bkc (i j : Nat) : Nat := 0x25810 + 128 * i + 4 * j
/-- SCL.Gkc: Gain of segment k = 0–7, signed ppm in [23:0]. -/
abbrev R.scl_Gkc (i j : Nat) : Nat := 0x25830 + 128 * i + 4 * j
/-- SCL.Pkc: Phase of segment k = 0–7, signed 0. -/
abbrev R.scl_Pkc (i j : Nat) : Nat := 0x25850 + 128 * i + 4 * j
/-- SCL.LATCH_SEQ: Latches since EN was first set after a cold reset, wrapping. -/
abbrev R.scl_LATCH_SEQ : Nat := 0x26040
/-- SCL.LATCH_TICK: As record bytes 4–7. -/
abbrev R.scl_LATCH_TICK : Nat := 0x26044
/-- SCL.LATCH_NS_LO: As record bytes 8–11. -/
abbrev R.scl_LATCH_NS_LO : Nat := 0x26048
/-- SCL.LATCH_NS_HI: As record bytes 12–15. -/
abbrev R.scl_LATCH_NS_HI : Nat := 0x2604C
/-- SCL.LATCH_INFO: As record bytes 16–19. -/
abbrev R.scl_LATCH_INFO : Nat := 0x26050
/-- SCL.LATCH_FREQ: Mean frequency, mHz. -/
abbrev R.scl_LATCH_FREQ : Nat := 0x26054
/-- SCL.URMSc: Voltage channel c = 0–3: total RMS, mV (u_x for c = 0–2). -/
abbrev R.scl_URMSc (i : Nat) : Nat := 0x26080 + 16 * i
/-- SCL.U1RMSc: Fundamental RMS, mV. -/
abbrev R.scl_U1RMSc (i : Nat) : Nat := 0x26084 + 16 * i
/-- SCL.UTHDc: THD, 0. -/
abbrev R.scl_UTHDc (i : Nat) : Nat := 0x26088 + 16 * i
/-- SCL.UANGc: Angle, signed 0. -/
abbrev R.scl_UANGc (i : Nat) : Nat := 0x2608C + 16 * i
/-- SCL.IRMSj: Current channel 4 + j, j = 0–7: total RMS, mA. -/
abbrev R.scl_IRMSj (i : Nat) : Nat := 0x260C0 + 16 * i
/-- SCL.I1RMSj: Fundamental RMS, mA. -/
abbrev R.scl_I1RMSj (i : Nat) : Nat := 0x260C4 + 16 * i
/-- SCL.ITHDj: THD, 0. -/
abbrev R.scl_ITHDj (i : Nat) : Nat := 0x260C8 + 16 * i
/-- SCL.IANGj: Angle, signed 0. -/
abbrev R.scl_IANGj (i : Nat) : Nat := 0x260CC + 16 * i
/-- SCL.Pf_p: Total active power, signed mW. -/
abbrev R.scl_Pf_p (i j : Nat) : Nat := 0x26140 + 64 * i + 16 * j
/-- SCL.P1f_p: Fundamental active power, signed mW. -/
abbrev R.scl_P1f_p (i j : Nat) : Nat := 0x26144 + 64 * i + 16 * j
/-- SCL.Q1f_p: Fundamental reactive power, signed mvar. -/
abbrev R.scl_Q1f_p (i j : Nat) : Nat := 0x26148 + 64 * i + 16 * j
/-- SCL.Sf_p: Apparent power, mVA. -/
abbrev R.scl_Sf_p (i j : Nat) : Nat := 0x2614C + 64 * i + 16 * j
/-- SCL.CUMf_p_q_LO: Cumulative of quantity q, bits 31:0, µWh, µvarh or µVAh. -/
abbrev R.scl_CUMf_p_q_LO (i j k : Nat) : Nat := 0x26200 + 256 * i + 64 * j + 8 * k
/-- SCL.CUMf_p_q_HI: Bits 63:32. -/
abbrev R.scl_CUMf_p_q_HI (i j k : Nat) : Nat := 0x26204 + 256 * i + 64 * j + 8 * k
/-- SCL.DLTf_p_q: Delta of the last interval, mWh, mvarh or mVAh (R321). -/
abbrev R.scl_DLTf_p_q (i j k : Nat) : Nat := 0x26400 + 128 * i + 32 * j + 4 * k
/-- SCL.MIRf_p_q: Quick mirror, floor(C / 1,000) modulo 2^32. -/
abbrev R.scl_MIRf_p_q (i j k : Nat) : Nat := 0x26500 + 128 * i + 32 * j + 4 * k
/-- SCL.BAL_CFG: PERIOD[16:0], s, 60–86,400. -/
abbrev R.scl_BAL_CFG : Nat := 0x26C00
/-- SCL.BAL_TOL: PPM[19:0]. -/
abbrev R.scl_BAL_TOL : Nat := 0x26C04
/-- SCL.BAL_CAP_IDX: b of the last capture, low 32 bits. -/
abbrev R.scl_BAL_CAP_IDX : Nat := 0x26C08
/-- SCL.BAL_CAP_SEQ: LATCH_SEQ of the capturing latch. -/
abbrev R.scl_BAL_CAP_SEQ : Nat := 0x26C0C
/-- SCL.BAL_FEEDx: Feeder energy of phase x (0–2 for L1–L3), mWh. -/
abbrev R.scl_BAL_FEEDx (i : Nat) : Nat := 0x26C10 + 4 * i
/-- SCL.BAL_NODEx: Node sum of phase x, mWh. -/
abbrev R.scl_BAL_NODEx (i : Nat) : Nat := 0x26C20 + 4 * i
/-- SCL.BAL_DIFFx: Signed mWh (R342). -/
abbrev R.scl_BAL_DIFFx (i : Nat) : Nat := 0x26C30 + 4 * i
/-- SCL.BAL_RATIOx: ppm (R342). -/
abbrev R.scl_BAL_RATIOx (i : Nat) : Nat := 0x26C40 + 4 * i
/-- SCL.BAL_CTRL: CLOSE[0]. -/
abbrev R.scl_BAL_CTRL : Nat := 0x26C50
/-- SCL.BAL_CLOSE_IDX: b being closed. -/
abbrev R.scl_BAL_CLOSE_IDX : Nat := 0x26C54
/-- SCL.BAL_STAT: Capture and close status. -/
abbrev R.scl_BAL_STAT : Nat := 0x26C58
/-- SCL.NRG_STAT: Persistence status. -/
abbrev R.scl_NRG_STAT : Nat := 0x26C60
/-- SCL.NRG_NSEQ: NSEQ of the last record written. -/
abbrev R.scl_NRG_NSEQ : Nat := 0x26C64
/-- SCL.NRG_JSEQ: JSEQ after the last journal write. -/
abbrev R.scl_NRG_JSEQ : Nat := 0x26C68
/-- SCL.TAIL_CNT: Tail saves completed. -/
abbrev R.scl_TAIL_CNT : Nat := 0x26C6C
/-- SCL.SAVE_FAIL_CNT: Saves refused or not completed. -/
abbrev R.scl_SAVE_FAIL_CNT : Nat := 0x26C70
/-- PWT.PWT_STAT: LOST[0]: loss at this start. -/
abbrev R.pwt_PWT_STAT : Nat := 0x04040
/-- PWT.VBAK: MV[11:0], VBAK in mV, updated every second. -/
abbrev R.pwt_VBAK : Nat := 0x04044
/-- PWT.FLAGS: Sticky flags, kept in the domain. -/
abbrev R.pwt_FLAGS : Nat := 0x04048
/-- PWT.PWT_CFG: VBAK_CHG[0] (R345). -/
abbrev R.pwt_PWT_CFG : Nat := 0x0404C
/-- PWT.RTC_TIME: Running time and weekday. -/
abbrev R.pwt_RTC_TIME : Nat := 0x04050
/-- PWT.RTC_DATE: Running date, latched (R350). -/
abbrev R.pwt_RTC_DATE : Nat := 0x04054
/-- PWT.RTC_SUB: SUB[14:0], 1/32,768 s, latched. -/
abbrev R.pwt_RTC_SUB : Nat := 0x04058
/-- PWT.SH_TIME: Staged time, as RTC_TIME without WDAY. -/
abbrev R.pwt_SH_TIME : Nat := 0x0405C
/-- PWT.SH_DATE: Staged date, as RTC_DATE. -/
abbrev R.pwt_SH_DATE : Nat := 0x04060
/-- PWT.RTC_CTRL: COMMIT[0]. -/
abbrev R.pwt_RTC_CTRL : Nat := 0x04064
/-- PWT.RTC_CSTAT: PENDING[0] RO. -/
abbrev R.pwt_RTC_CSTAT : Nat := 0x04068
/-- PWT.RTC_TRIM: TRIM[7:0], signed. -/
abbrev R.pwt_RTC_TRIM : Nat := 0x0406C
/-- PWT.RTC_CAP_LO: CNT at the last second boundary, bits 31:0. -/
abbrev R.pwt_RTC_CAP_LO : Nat := 0x04070
/-- PWT.RTC_CAP_HI: Bits 63:32. -/
abbrev R.pwt_RTC_CAP_HI : Nat := 0x04074
/-- PWT.ALMn_TIME: As RTC_TIME. -/
abbrev R.pwt_ALMn_TIME (i : Nat) : Nat := 0x04080 + 8 * i
/-- PWT.ALMn_DATE: DAY[5:0]. -/
abbrev R.pwt_ALMn_DATE (i : Nat) : Nat := 0x04084 + 8 * i
/-- PWT.PWRON_CFG: PULSE[3:0], s, 0 hold. -/
abbrev R.pwt_PWRON_CFG : Nat := 0x04090
/-- PWT.PWRON_CTRL: ASSERT[0]. -/
abbrev R.pwt_PWRON_CTRL : Nat := 0x04094
/-- PWT.PWRON_STAT: ASSERTED[0]. -/
abbrev R.pwt_PWRON_STAT : Nat := 0x04098
/-- PWT.FAILLIT: LIT[0]. -/
abbrev R.pwt_FAILLIT : Nat := 0x040A0
/-- PWT.TAMP_CFG: EN0[0]. -/
abbrev R.pwt_TAMP_CFG : Nat := 0x040A4
/-- PWT.TAMP_STAT: LOOP0_OK[0]. -/
abbrev R.pwt_TAMP_STAT : Nat := 0x040A8
/-- PWT.TAMP_CNT: COUNT[15:0]. -/
abbrev R.pwt_TAMP_CNT : Nat := 0x040AC
/-- PWT.TAMP_TIME: As RTC_TIME, at the last tamper. -/
abbrev R.pwt_TAMP_TIME : Nat := 0x040B0
/-- PWT.TAMP_DATE: As RTC_DATE, at the last tamper. -/
abbrev R.pwt_TAMP_DATE : Nat := 0x040B4
/-- PWT.PWRCYC: COUNT[23:0] (R362). -/
abbrev R.pwt_PWRCYC : Nat := 0x040B8
/-- VLT.VLT_STAT: ROOT_OK[0]. -/
abbrev R.vlt_VLT_STAT : Nat := 0x28040
/-- VLT.LIFE: APPR_FUSE[0]. -/
abbrev R.vlt_LIFE : Nat := 0x28044
/-- VLT.KEY_REGIONS: Bit r: MEM region r is key-bearing (R384). -/
abbrev R.vlt_KEY_REGIONS : Nat := 0x28048
/-- VLT.SLOT_SEL: INDEX[5:0]. -/
abbrev R.vlt_SLOT_SEL : Nat := 0x2804C
/-- VLT.SLOT_ATTR: Attributes of the selected slot. -/
abbrev R.vlt_SLOT_ATTR : Nat := 0x28050
/-- VLT.SLOT_USES: COUNT[15:0] left. -/
abbrev R.vlt_SLOT_USES : Nat := 0x28054
/-- VLT.OP_CMD: OP[7:0]. -/
abbrev R.vlt_OP_CMD : Nat := 0x28058
/-- VLT.OP_ATTR: Attributes of a slot to be created, laid out as SLOT_ATTR. -/
abbrev R.vlt_OP_ATTR : Nat := 0x2805C
/-- VLT.OP_USES: COUNT[15:0] for a slot to be created. -/
abbrev R.vlt_OP_USES : Nat := 0x28060
/-- VLT.OP_IN: OFFSET[15:0], packet SRAM ÷ 64. -/
abbrev R.vlt_OP_IN : Nat := 0x28064
/-- VLT.OP_OUT: OFFSET[15:0]. -/
abbrev R.vlt_OP_OUT : Nat := 0x28068
/-- VLT.OP_STAT: BUSY[0]. -/
abbrev R.vlt_OP_STAT : Nat := 0x2806C
/-- VLT.KDF_CFG: LEN[6:0], 1–64. -/
abbrev R.vlt_KDF_CFG : Nat := 0x28070
/-- VLT.ZEROIZE: GO[0]. -/
abbrev R.vlt_ZEROIZE : Nat := 0x28074
/-- VLT.KDF_LABELw: Label bytes 4w to 4w + 3, byte 4w in [7:0], w = 0–15. -/
abbrev R.vlt_KDF_LABELw (i : Nat) : Nat := 0x28080 + 4 * i
/-- VLT.MEASi_w: Bytes 4w to 4w + 3 of MEASi, byte 4w in [7:0], i = 0–3, w = 0–7. -/
abbrev R.vlt_MEASi_w (i j : Nat) : Nat := 0x28100 + 32 * i + 4 * j
/-- CRY.CRY_IND: APPROVED_MODE[0]. -/
abbrev R.cry_CRY_IND : Nat := 0x29040
/-- CRY.TEST_SEL: Bit t: test t in the next SELFTEST run. -/
abbrev R.cry_TEST_SEL : Nat := 0x29044
/-- CRY.TEST_CTRL: GO[0]. -/
abbrev R.cry_TEST_CTRL : Nat := 0x29048
/-- CRY.TEST_STAT: BUSY[0]. -/
abbrev R.cry_TEST_STAT : Nat := 0x2904C
/-- CRY.TEST_DELAY: Ticks from the request to the start of the last test of the last run. -/
abbrev R.cry_TEST_DELAY : Nat := 0x29050
/-- CRY.TEST_RUNS: On-demand runs completed. -/
abbrev R.cry_TEST_RUNS : Nat := 0x29054
/-- CRY.ENT_CFG: RCT_C[7:0], 26. -/
abbrev R.cry_ENT_CFG : Nat := 0x29058
/-- CRY.DRBG_CFG: RESEED[15:0], generate requests between reseeds, 1–65,535. -/
abbrev R.cry_DRBG_CFG : Nat := 0x29060
/-- CRY.DRBG_STAT: GEN_SINCE[15:0]. -/
abbrev R.cry_DRBG_STAT : Nat := 0x29064
/-- CRY.DBG_STAT: LOCKED[0]. -/
abbrev R.cry_DBG_STAT : Nat := 0x29068
/-- LDG.LDG_STAT: READY[0]. -/
abbrev R.ldg_LDG_STAT : Nat := 0x2A040
/-- LDG.NEXT_SEQ: Sequence number of the next record. -/
abbrev R.ldg_NEXT_SEQ : Nat := 0x2A044
/-- LDG.OPTIME_S: Operating time, seconds. -/
abbrev R.ldg_OPTIME_S : Nat := 0x2A048
/-- LDG.OPTIME_F: FRAC[7:0], 1/256 s. -/
abbrev R.ldg_OPTIME_F : Nat := 0x2A04C
/-- LDG.SEV_LEVEL: LEVEL[3:0], 0–5 (R404). -/
abbrev R.ldg_SEV_LEVEL : Nat := 0x2A050
/-- LDG.LOST_CNT: Records refused, saturating. -/
abbrev R.ldg_LOST_CNT : Nat := 0x2A054
/-- LDG.REC_CNT: Records written, wrapping. -/
abbrev R.ldg_REC_CNT : Nat := 0x2A058
/-- LDG.BAD_SLOTS: Uncorrectable slots found by the last scan. -/
abbrev R.ldg_BAD_SLOTS : Nat := 0x2A05C
/-- LDG.LOG_HDR: CODE[15:0]. -/
abbrev R.ldg_LOG_HDR : Nat := 0x2A060
/-- LDG.LOG_N: N[1:0], 1–3. -/
abbrev R.ldg_LOG_N : Nat := 0x2A064
/-- LDG.LOG_Pj: Staged parameter j = 0–8. -/
abbrev R.ldg_LOG_Pj (i : Nat) : Nat := 0x2A070 + 4 * i
/-- LDG.CURSOR: SEQ. -/
abbrev R.ldg_CURSOR : Nat := 0x2A0A0
/-- LDG.CURSOR_CTRL: AUTO[0] (R407). -/
abbrev R.ldg_CURSOR_CTRL : Nat := 0x2A0A4
/-- LDG.WSTAT: STATE[1:0], as R406. -/
abbrev R.ldg_WSTAT : Nat := 0x2A0A8
/-- LDG.WINw: Latched record bytes 4w to 4w + 3, w = 0–7. -/
abbrev R.ldg_WINw (i : Nat) : Nat := 0x2A0C0 + 4 * i
/-- LDG.SER_SEL: INDEX[7:0]. -/
abbrev R.ldg_SER_SEL : Nat := 0x2A100
/-- LDG.SER_CFG: EN[0]. -/
abbrev R.ldg_SER_CFG : Nat := 0x2A104
/-- LDG.SER_LO: LO, signed. -/
abbrev R.ldg_SER_LO : Nat := 0x2A108
/-- LDG.SER_WIDTH: W, 1 to 0xFFFF_FFFF. -/
abbrev R.ldg_SER_WIDTH : Nat := 0x2A10C
/-- LDG.SER_COUNT_LO: COUNT, bits 31:0. -/
abbrev R.ldg_SER_COUNT_LO : Nat := 0x2A110
/-- LDG.SER_COUNT_HI: COUNT, bits 63:32. -/
abbrev R.ldg_SER_COUNT_HI : Nat := 0x2A114
/-- LDG.SER_SUM_LO: SUM, signed, bits 31:0. -/
abbrev R.ldg_SER_SUM_LO : Nat := 0x2A118
/-- LDG.SER_SUM_HI: SUM, bits 63:32. -/
abbrev R.ldg_SER_SUM_HI : Nat := 0x2A11C
/-- LDG.SER_MIN: MIN, signed. -/
abbrev R.ldg_SER_MIN : Nat := 0x2A120
/-- LDG.SER_MIN_T: OPSEC of MIN. -/
abbrev R.ldg_SER_MIN_T : Nat := 0x2A124
/-- LDG.SER_MAX: MAX, signed. -/
abbrev R.ldg_SER_MAX : Nat := 0x2A128
/-- LDG.SER_MAX_T: OPSEC of MAX. -/
abbrev R.ldg_SER_MAX_T : Nat := 0x2A12C
/-- LDG.SER_UNDER: Values below LO. -/
abbrev R.ldg_SER_UNDER : Nat := 0x2A130
/-- LDG.SER_OVER: Values at or above LO + 64 × W. -/
abbrev R.ldg_SER_OVER : Nat := 0x2A134
/-- LDG.SER_CTRL: CLEAR[0]. -/
abbrev R.ldg_SER_CTRL : Nat := 0x2A138
/-- LDG.FEED_VAL: Value to feed, signed, staged per master. -/
abbrev R.ldg_FEED_VAL : Nat := 0x2A140
/-- LDG.FEED_SER: SER[7:0]. -/
abbrev R.ldg_FEED_SER : Nat := 0x2A144
/-- LDG.SER_BINi: Bin i = 0–63 of the selected series. -/
abbrev R.ldg_SER_BINi (i : Nat) : Nat := 0x2A200 + 4 * i
/-- IBG.IBG_CFG: RING_SLOT[5:0]. -/
abbrev R.ibg_IBG_CFG : Nat := 0x2B040
/-- IBG.IBG_STAT: LINK_E[0]. -/
abbrev R.ibg_IBG_STAT : Nat := 0x2B044
/-- IBG.PRESENT: Bit p: a heartbeat from position p in the last 8 ticks. -/
abbrev R.ibg_PRESENT : Nat := 0x2B048
/-- IBG.DELAY_E: East wire delay, 2^−8 ns. -/
abbrev R.ibg_DELAY_E : Nat := 0x2B04C
/-- IBG.DELAY_W: West wire delay, 2^−8 ns. -/
abbrev R.ibg_DELAY_W : Nat := 0x2B050
/-- IBG.MAPp_LO: Identity at position p, bits 31:0. -/
abbrev R.ibg_MAPp_LO (i : Nat) : Nat := 0x2B060 + 8 * i
/-- IBG.MAPp_HI: Bits 63:32. -/
abbrev R.ibg_MAPp_HI (i : Nat) : Nat := 0x2B064 + 8 * i
/-- IBG.RX_FRAMES: Frames delivered. -/
abbrev R.ibg_RX_FRAMES : Nat := 0x2B0A0
/-- IBG.TX_FRAMES: Frames originated. -/
abbrev R.ibg_TX_FRAMES : Nat := 0x2B0A4
/-- IBG.FWD_FRAMES: Frames forwarded. -/
abbrev R.ibg_FWD_FRAMES : Nat := 0x2B0A8
/-- IBG.CRC_ERR: R420. -/
abbrev R.ibg_CRC_ERR : Nat := 0x2B0AC
/-- IBG.MAC_FAIL: R420, R427. -/
abbrev R.ibg_MAC_FAIL : Nat := 0x2B0B0
/-- IBG.DUP_DROP: R420. -/
abbrev R.ibg_DUP_DROP : Nat := 0x2B0B4
/-- IBG.CODE_ERR: Code violations and unknown kinds. -/
abbrev R.ibg_CODE_ERR : Nat := 0x2B0B8
/-- IBG.RRST_CTRL: TARGET[2:0]. -/
abbrev R.ibg_RRST_CTRL : Nat := 0x2B0C0
/-- IBG.MAP_FORGET: POS[2:0]. -/
abbrev R.ibg_MAP_FORGET : Nat := 0x2B0C4
/-- FOV.FOV_CFG: SEG[15:0]. -/
abbrev R.fov_FOV_CFG : Nat := 0x2C040
/-- FOV.FOV_STAT: STATE[2:0]: 0 off, 1 active unpaired, 2 active paired, 3 standby unarmed, 4 standby armed, 5 taking over, 6 blocked. -/
abbrev R.fov_FOV_STAT : Nat := 0x2C044
/-- FOV.SILENT: SIL_A[7:0]. -/
abbrev R.fov_SILENT : Nat := 0x2C048
/-- FOV.LAST_HB: Tick of the last heartbeat heard from the partner. -/
abbrev R.fov_LAST_HB : Nat := 0x2C04C
/-- FOV.IMG_SF: SF_CAP of the current half. -/
abbrev R.fov_IMG_SF : Nat := 0x2C050
/-- FOV.IMG_SEQ: FULL[15:0]. -/
abbrev R.fov_IMG_SEQ : Nat := 0x2C054
/-- FOV.IMG_HWM: HWM of the current half. -/
abbrev R.fov_IMG_HWM : Nat := 0x2C058
/-- FOV.NONCE_ID_LO: Nonce identity, bits 31:0. -/
abbrev R.fov_NONCE_ID_LO : Nat := 0x2C05C
/-- FOV.NONCE_ID_HI: Bits 63:32. -/
abbrev R.fov_NONCE_ID_HI : Nat := 0x2C060
/-- FOV.TAKEN: SEG[15:0]. -/
abbrev R.fov_TAKEN : Nat := 0x2C064
/-- FOV.FOV_CTRL: CKPT_FULL[0]. -/
abbrev R.fov_FOV_CTRL : Nat := 0x2C068
/-- FOV.FOV_RELEASE: GO[0]. -/
abbrev R.fov_FOV_RELEASE : Nat := 0x2C06C
/-- FOV.TAKEOVERS: Takeovers made. -/
abbrev R.fov_TAKEOVERS : Nat := 0x2C070
/-- FOV.CKPT_SENT: Checkpoints completed as sender. -/
abbrev R.fov_CKPT_SENT : Nat := 0x2C074
/-- FOV.CKPT_APPLIED: Checkpoints applied (R435). -/
abbrev R.fov_CKPT_APPLIED : Nat := 0x2C078
/-- FOV.CKPT_FAIL: Checkpoints abandoned (R434). -/
abbrev R.fov_CKPT_FAIL : Nat := 0x2C07C
/-- FOV.HB_LOST_A: Ticks with path A silent and path B heard. -/
abbrev R.fov_HB_LOST_A : Nat := 0x2C080
/-- FOV.HB_LOST_B: Ticks with path B silent and path A heard. -/
abbrev R.fov_HB_LOST_B : Nat := 0x2C084
/-- UPD.UPD_STAT: STATE[2:0], as R450. -/
abbrev R.upd_UPD_STAT : Nat := 0x2D040
/-- UPD.UPD_ID: UPD_ID of the update held. -/
abbrev R.upd_UPD_ID : Nat := 0x2D044
/-- UPD.DELTA_LEN: From the header. -/
abbrev R.upd_DELTA_LEN : Nat := 0x2D048
/-- UPD.TARGET_VER: From the header. -/
abbrev R.upd_TARGET_VER : Nat := 0x2D04C
/-- UPD.RUN_VER: VERSION of the running image. -/
abbrev R.upd_RUN_VER : Nat := 0x2D050
/-- UPD.FLOOR: Floor stored in RPMB. -/
abbrev R.upd_FLOOR : Nat := 0x2D054
/-- UPD.BOOT_STAT: RESULT[3:0], as R446, 7 for a failed ROM copy. -/
abbrev R.upd_BOOT_STAT : Nat := 0x2D058
/-- UPD.SET_RESET: Bit g: group g reset at this start (R457). -/
abbrev R.upd_SET_RESET : Nat := 0x2D05C
/-- UPD.RESET_AT: R of the committed update. -/
abbrev R.upd_RESET_AT : Nat := 0x2D060
/-- UPD.APPLY_ERR: CAUSE[3:0]: 1 COPY_OLD beyond the old image, 2 output too long, 3 END missing or early, 4 reserved kind, 5 TARGET_SHA mismatch, 6 eMMC error. -/
abbrev R.upd_APPLY_ERR : Nat := 0x2D064
/-- PWR.PWR_STAT: PFAIL[0]. -/
abbrev R.pwr_PWR_STAT : Nat := 0x03040
/-- PWR.VIN_MEAS: MV[15:0], VIN, updated every tick. -/
abbrev R.pwr_VIN_MEAS : Nat := 0x03044
/-- PWR.PFAIL_CFG: TH[8:0], 0. -/
abbrev R.pwr_PFAIL_CFG : Nat := 0x03048
/-- PWR.PFAIL_CNT: Assertions of PFAIL. -/
abbrev R.pwr_PFAIL_CNT : Nat := 0x0304C
/-- PWR.P_IN: MW[15:0], VIN power, mean over the last superframe. -/
abbrev R.pwr_P_IN : Nat := 0x03050
/-- PWR.TEMPs: C[7:0], °C + 40, sensor s = 0–3. -/
abbrev R.pwr_TEMPs (i : Nat) : Nat := 0x03060 + 4 * i
/-- PWR.RAIL_V0–RAIL_V3: At 0x070–0x07C: rails 0–3, core 0. -/
abbrev R.pwr_RAIL_V0 (i : Nat) : Nat := 0x03070 + 4 * i
/-- FSW.CONT_HOLD: HOLD[5:0] RWP. -/
abbrev R.fsw_CONT_HOLD : Nat := 0x27040
/-- FSW.CONT_STAT: ON[5:0]. -/
abbrev R.fsw_CONT_STAT : Nat := 0x27044
/-- FSW.FSW_CTRL: CLR_FAULT[0]. -/
abbrev R.fsw_FSW_CTRL : Nat := 0x27048
/-- FSW.STAT_IN: STATE[7:0], filtered. -/
abbrev R.fsw_STAT_IN : Nat := 0x2704C
/-- FSW.STAT_DEB: MS[7:0], 1–255. -/
abbrev R.fsw_STAT_DEB : Nat := 0x27050
/-- FSW.PHOTO_CFG: TH[9:0], 0. -/
abbrev R.fsw_PHOTO_CFG : Nat := 0x27054
/-- FSW.PHOTO_STAT: DARK[0]. -/
abbrev R.fsw_PHOTO_STAT : Nat := 0x27058
/-- FSW.COIL_V: MV[15:0]. -/
abbrev R.fsw_COIL_V : Nat := 0x2705C
/-- QUE.PUSH_LOq. -/
abbrev R.que_PUSH_LOq (i : Nat) : Nat := 0x0D040 + 8 * i
/-- QUE.PUSH_HIq. -/
abbrev R.que_PUSH_HIq (i : Nat) : Nat := 0x0D044 + 8 * i
/-- QUE.POP_HIq. -/
abbrev R.que_POP_HIq (i : Nat) : Nat := 0x0E040 + 8 * i
/-- QUE.POP_LOq. -/
abbrev R.que_POP_LOq (i : Nat) : Nat := 0x0E044 + 8 * i
/-- QUE.PEEK_HIq. -/
abbrev R.que_PEEK_HIq (i : Nat) : Nat := 0x0F040 + 8 * i
/-- QUE.PEEK_LOq. -/
abbrev R.que_PEEK_LOq (i : Nat) : Nat := 0x0F044 + 8 * i

end Sys2Proof.Machine
end

