-- ==== Sys2Proof/Machine/Blocks.lean ====
section
/-! DEFINITION. The page index: where each block's pages lie, its code, reset bit, interrupt vectors and capabilities, and the reset value of every register address. -/

namespace Sys2Proof.Machine

open Sys2Proof

/-- The BAR0 base of a block's first page (R65). -/
def blkBase : Blk → Nat
  | .sys => 0x00000 | .rst => 0x01000 | .clk => 0x02000 | .pwr => 0x03000 | .pwt => 0x04000 | .mkt => 0x06000
  | .lane n => 0x08000 + 0x1000 * n.val
  | .que => 0x0C000 | .chk => 0x10000 | .mem => 0x11000 | .nvs => 0x12000 | .emc => 0x13000
  | .rad n => 0x14000 + 0x1000 * n.val
  | .chn => 0x18000 | .lnk => 0x19000 | .bcn => 0x1B000 | .ntm => 0x1C000 | .cor => 0x1D000 | .lvl => 0x1F000
  | .drv n => 0x20000 + 0x1000 * n.val
  | .drg => 0x24000 | .scl => 0x25000 | .fsw => 0x27000 | .vlt => 0x28000 | .cry => 0x29000 | .ldg => 0x2A000
  | .ibg => 0x2B000 | .fov => 0x2C000 | .upd => 0x2D000 | .mbx => 0x2E000

/-- The number of pages of a block (R65). -/
def blkPages : Blk → Nat
  | .mkt => 2 | .que => 4 | .lnk => 2 | .cor => 2 | .scl => 2 | _ => 1

/-- The block code (R65). -/
def blkCode : Blk → Nat
  | .sys => 0x01 | .rst => 0x02 | .clk => 0x03 | .pwr => 0x04 | .pwt => 0x05 | .mkt => 0x06 | .lane _ => 0x07
  | .que => 0x08 | .chk => 0x09 | .mem => 0x0A | .nvs => 0x0B | .emc => 0x0C | .rad _ => 0x0D | .chn => 0x0E
  | .lnk => 0x0F | .bcn => 0x10 | .ntm => 0x11 | .cor => 0x12 | .lvl => 0x13 | .drv _ => 0x14 | .drg => 0x15
  | .scl => 0x16 | .fsw => 0x17 | .vlt => 0x18 | .cry => 0x19 | .ldg => 0x1A | .ibg => 0x1B | .fov => 0x1C
  | .upd => 0x1D | .mbx => 0x1E

/-- The instance number of a block. -/
def blkInst : Blk → Nat
  | .lane n => n.val | .rad n => n.val | .drv n => n.val | _ => 0

/-- The source field of a Ledger record that a block produces (R396). -/
def blkSrc (b : Blk) : Nat := blkCode b * 16 + blkInst b

/-- The block's bit in the RST bitmaps (R54); blocks without one cannot be reset alone. -/
def blkBit : Blk → Option Nat
  | .sys => none | .rst => none | .clk => none | .pwr => none | .pwt => none
  | .mkt => some 0 | .lane n => some (1 + n.val) | .que => some 5 | .chk => some 6 | .mem => some 7 | .nvs => some 8
  | .emc => some 9 | .rad n => some (10 + n.val) | .chn => some 14 | .lnk => some 15 | .bcn => some 16 | .ntm => some 17
  | .cor => some 18 | .lvl => some 19 | .drv n => some (20 + n.val) | .drg => some 24 | .scl => some 25 | .fsw => some 26
  | .vlt => some 27 | .cry => some 28 | .ldg => some 29 | .ibg => some 30 | .fov => some 31 | .upd => some 32 | .mbx => some 33

/-- Every block, in page order. -/
def allBlks : List Blk :=
  [.sys, .rst, .clk, .pwr, .pwt, .mkt, .lane 0, .lane 1, .lane 2, .lane 3, .que, .chk, .mem, .nvs, .emc,
   .rad 0, .rad 1, .rad 2, .rad 3, .chn, .lnk, .bcn, .ntm, .cor, .lvl, .drv 0, .drv 1, .drv 2, .drv 3, .drg,
   .scl, .fsw, .vlt, .cry, .ldg, .ibg, .fov, .upd, .mbx]

/-- The block of a bit of the RST bitmaps. -/
def blkOfBit (i : Nat) : Option Blk := allBlks.find? fun b => blkBit b == some i

/-- The number of block interrupt bits, PAGE_CAP.IRQ_N. -/
def blkIrqN : Blk → Nat
  | .pwr => 4 | .pwt => 7 | .mkt => 6 | .lane _ => 1 | .que => 18 | .chk => 16 | .mem => 4 | .rad _ => 6 | .chn => 3
  | .nvs => 1 | .emc => 2 | .lnk => 5 | .bcn => 4 | .ntm => 6 | .cor => 6 | .lvl => 6 | .drv _ => 8 | .drg => 3 | .scl => 8 | .fsw => 4
  | .vlt => 3 | .cry => 2 | .ldg => 4 | .ibg => 5 | .fov => 6 | .upd => 5 | .mbx => 2 | _ => 0

/-- The block honours DRAIN and the drain on clearing EN, PAGE_CAP.DRAIN. -/
def blkDrain : Blk → Bool
  | .sys => false | .rst => false | .clk => false | .pwr => false | .pwt => false | _ => true

/-- The block has a unit that KILL can truncate, PAGE_CAP.KILL. -/
def blkKill : Blk → Bool
  | .chk => true | .rad _ => true | .lnk => true | .lvl => true | .drv _ => true | .vlt => true | .cry => true | _ => false

/-- PAGE_ID of a page of a block. -/
def pageId (b : Blk) (page : Nat) : Word :=
  w32 (blkCode b * 2 ^ 24 + blkInst b * 2 ^ 20 + page * 2 ^ 16 + 0x0100)

/-- The block and the page number of a BAR0 page, none where BAR0 is unmapped (R65, R66). -/
def blkOfPage (p : Nat) : Option (Blk × Nat) :=
  (allBlks.find? fun b => decide (blkBase b / 0x1000 ≤ p) && decide (p < blkBase b / 0x1000 + blkPages b)).map
    fun b => (b, p - blkBase b / 0x1000)

/-- The register rows of a page above its header. -/
def rowsOf : Blk → Nat → List RegRow
  | .sys, _ => RegMap.sys | .rst, _ => RegMap.rst | .clk, _ => [] | .pwr, _ => RegMap.pwr | .pwt, _ => RegMap.pwt
  | .mkt, 0 => RegMap.mkt0 | .mkt, _ => RegMap.mkt1 | .lane _, _ => RegMap.lane
  | .que, 0 => RegMap.que0 | .que, 1 => RegMap.que1 | .que, 2 => RegMap.que2 | .que, _ => RegMap.que3
  | .chk, _ => RegMap.chk | .mem, _ => RegMap.mem | .nvs, _ => RegMap.nvs | .emc, _ => RegMap.emc
  | .rad _, _ => RegMap.rad | .chn, _ => RegMap.chn | .lnk, 0 => RegMap.lnk0 | .lnk, _ => RegMap.lnk1
  | .bcn, _ => RegMap.bcn | .ntm, _ => RegMap.ntm | .cor, 0 => RegMap.cor0 | .cor, _ => RegMap.cor1
  | .lvl, _ => RegMap.lvl | .drv _, _ => RegMap.drv | .drg, _ => RegMap.drg | .scl, 0 => RegMap.scl0 | .scl, _ => RegMap.scl1
  | .fsw, _ => RegMap.fsw | .vlt, _ => RegMap.vlt | .cry, _ => RegMap.cry | .ldg, _ => RegMap.ldg | .ibg, _ => RegMap.ibg
  | .fov, _ => RegMap.fov | .upd, _ => RegMap.upd | .mbx, _ => RegMap.mbx

/-- The page has RWL fields, PAGE_CAP.LOCK (R67). -/
def pageLocks (b : Blk) (page : Nat) : Bool := (rowsOf b page).any fun r => decide (r.lk ≠ 0)

/-- PAGE_CAP of a page of a block (R67). -/
def pageCap (b : Blk) (page : Nat) : Word :=
  w32 (blkIrqN b + b2n (blkDrain b) * 2 ^ 6 + b2n (blkKill b) * 2 ^ 7 + b2n (blkBit b).isSome * 2 ^ 8 + b2n (pageLocks b page) * 2 ^ 9)

/-- A row holds the register at a page offset. -/
def rowHas (r : RegRow) (off : Nat) : Bool :=
  decide (r.off ≤ off) &&
  (let d := off - r.off
   let i := if r.stride1 = 0 then 0 else min (d / r.stride1) (r.count1 - 1)
   let e := d - i * r.stride1
   let j := if r.stride2 = 0 then 0 else e / r.stride2
   decide (i < r.count1) && decide (j < r.count2) && decide (e = j * r.stride2))

/-- The row of a register address. -/
def findRow (a : Nat) : Option RegRow :=
  match blkOfPage (a / 0x1000) with
  | some (b, p) => (rowsOf b p).find? fun r => rowHas r (a % 0x1000)
  | none => none

/-- The writer mask that region r of NVS has after reset (R137). -/
def nwritersDefault (r : Nat) : Word :=
  w32 ([0x2, 0x183E, 0x100, 0x80, 0x2, 0x80, 0x200, 0x7E].getD r 0)

/-- A CHc_CFG word: frequency in kHz, MODE mask, sub-band and enable. -/
def chCfg (khz modes sb : Nat) (en : Bool) : Nat :=
  (khz - 850000) + modes * 2 ^ 20 + sb * 2 ^ 24 + b2n en * 2 ^ 31

/-- Default channel c of the -A variant (R148). -/
def chnCfgA (c : Nat) : Nat :=
  if c ≤ 6 then chCfg (865200 + 400 * c) 7 0 true
  else if c = 7 then chCfg 868300 7 1 true
  else if c = 8 then chCfg 869525 1 2 true
  else if c ≤ 23 then chCfg (870200 + 400 * (c - 9)) 7 3 false
  else 0

/-- Default limits of channel c of the -A variant (R148): +14.0 dBm is code 48, +27.0 dBm is code 74. -/
def chnLimA (c : Nat) : Nat := if c ≤ 7 then 48 else if c = 8 then 74 else if c ≤ 23 then 48 else 0

/-- Default sub-band s of the -A variant (R148). -/
def chnSbA (s : Nat) : Nat :=
  if s = 0 ∨ s = 1 then 100 + 25 * 2 ^ 16 + 2 ^ 31
  else if s = 2 then 1000 + 25 * 2 ^ 16 + 2 ^ 31
  else if s = 3 then 100 + 25 * 2 ^ 16
  else 0

/-- Reset value of a CHN register of a variant, by page offset, where the two variants differ (R148, R149). -/
def chnDefault (b : Bool) (off : Nat) : Option Nat :=
  if off = 0x4C then some (if b then 2000 else 700)
  else if off = 0x50 then some (if b then 64 else 8)
  else if 0x60 ≤ off ∧ off < 0xA0 then
    let i := (off - 0x60) / 4
    if b ∨ i < 2 then some (4 * i + (4 * i + 1) * 2 ^ 8 + (4 * i + 2) * 2 ^ 16 + (4 * i + 3) * 2 ^ 24) else some 0
  else if 0xA0 ≤ off ∧ off < 0xE0 ∧ off % 8 = 0 then
    let s := (off - 0xA0) / 8
    some (if b then (if s = 0 then 10000 + 2 ^ 31 else 0) else chnSbA s)
  else if 0x100 ≤ off ∧ off < 0x300 then
    let c := (off - 0x100) / 8
    if off % 8 = 0 then some (if b then chCfg (902200 + 400 * c) 7 0 true else chnCfgA c)
    else some (if b then 74 + 400 * 2 ^ 8 else chnLimA c)
  else none

/-- What a register address reads as when nothing lists it: its reset value (R14). -/
def regDefault (b : Bool) (a : Nat) : Word :=
  if 0xF00000 ≤ a then (if a % 16 = 12 then 1 else 0) else
  match blkOfPage (a / 0x1000) with
  | none => 0
  | some (k, p) =>
    let off := a % 0x1000
    if off < 0x40 then (if off = 0 then pageId k p else if off = 4 then pageCap k p else if off = 0x14 then 6 else 0)
    else match (rowsOf k p).find? fun r => rowHas r off with
      | none => 0
      | some r =>
        match k with
        | .chn => match chnDefault b off with | some v => w32 v | none => r.reset
        | .que => if p = 0 ∧ 0x100 ≤ off ∧ off % 0x20 = 0 then w32 (0x80 + 0x100 * ((off - 0x100) / 0x20)) else r.reset
        | .nvs => if off ≥ 0x80 then nwritersDefault ((off - 0x80) / 4) else r.reset
        | _ => r.reset

/-- The address of a header register: one register per block, seen in each of its pages (R67). -/
abbrev hdr (b : Blk) (off : Nat) : Nat := blkBase b + off

/-- Header offsets (R67). -/
abbrev oCtrl : Nat := 0x10
abbrev oStat : Nat := 0x14
abbrev oRaw : Nat := 0x20
abbrev oEn : Nat := 0x24
abbrev oErr : Nat := 0x30
abbrev oLock : Nat := 0x3C

/-- The ERR_CODE.SRC number of a master (R70). -/
def masterSrc : Master → Nat
  | .host => 0 | .svc => 1 | .lane n => 2 + n.val | .porter _ => 6 | .block => 7 | .rom => 8

/-- A number of its own for each master, by which staging words are kept apart (R114, R401). -/
def masterIx : Master → Nat
  | .host => 0 | .svc => 1 | .lane n => 2 + n.val | .porter n => 6 + n.val | .block => 22 | .rom => 23

end Sys2Proof.Machine
end

