-- ==== Sys2Proof/Machine/Crypto.lean ====
section
/-! DEFINITION. The algorithms of R376-R387: SHA-256, HMAC, AES and its modes, AES key wrap, CMAC, CCM*, the counter-mode KDF, CTR_DRBG and P-256. The spec names the public standards and no more; their text is PRESUMED (assumption log 20). -/

namespace Sys2Proof.Machine

open Sys2Proof

/-! ### Bytes -/

/-- Byte i of a table packed in a number. -/
def tabByte (t i : Nat) : Byte := BitVec.ofNat 8 (t / 2 ^ (8 * i))

/-- Bitwise exclusive or of two strings, of the shorter's length. -/
def xorB (a b : Bytes) : Bytes := List.zipWith (fun x y => x ^^^ y) a b

/-- Cut a string into pieces of n bytes, at most `fuel` of them; the last may be short. -/
def chunks (n : Nat) : Nat → Bytes → List Bytes
  | 0, _ => []
  | f + 1, b => if b.isEmpty then [] else b.take n :: chunks n f (b.drop n)

/-- Cut a string into blocks of 16 bytes; the last may be short. -/
def blocks16 (b : Bytes) : List Bytes := chunks 16 (b.length / 16 + 1) b

/-- Fill a string with zeros to a whole number of 16-byte blocks. -/
def padZ16 (b : Bytes) : Bytes := b ++ List.replicate ((16 - b.length % 16) % 16) 0

/-- n zero bytes. -/
def zeros (n : Nat) : Bytes := List.replicate n 0

/-! ### SHA-256 -/

/-- The 64 round constants, 32 bits each, the first lowest. -/
def shaK : Nat :=
  0xc19bf1749bdc06a780deb1fe72be5d74550c7dc3243185be12835b01d807aa98ab1c5ed5923f82a459f111f13956c25be9b5dba5b5c0fbcf71374491428a2f98 +
  0x1429296706ca6351d5a79147c6e00bf3bf597fc7b00327c8a831c66d983e515276f988da5cb0a9dc4a7484aa2de92c6f240ca1cc0fc19dc6efbe4786e49b69c1 * 2 ^ 512 +
  0x106aa070f40e3585d6990624d192e819c76c51a3c24b8b70a81a664ba2bfe8a192722c8581c2c92e766a0abb650a735453380d134d2c6dfc2e1b213827b70a85 * 2 ^ 1024 +
  0xc67178f2bef9a3f7a4506ceb90befffa8cc7020884c8781478a5636f748f82ee682e6ff35b9cca4f4ed8aa4a391c0cb334b0bcb52748774c1e376c0819a4c116 * 2 ^ 1536

/-- Round constant i. -/
def shaKi (i : Nat) : Word := w32 (shaK / 2 ^ (32 * i))

/-- The chaining value as eight words. -/
structure Sha where
  a : Word
  b : Word
  c : Word
  d : Word
  e : Word
  f : Word
  g : Word
  h : Word
  deriving DecidableEq, Repr

/-- The initial chaining value. -/
def shaInit : Sha := ⟨0x6a09e667, 0xbb67ae85, 0x3c6ef372, 0xa54ff53a, 0x510e527f, 0x9b05688c, 0x1f83d9ab, 0x5be0cd19⟩

/-- Rotate right. -/
def ror (w : Word) (n : Nat) : Word := (w >>> n) ||| (w <<< (32 - n))

/-- One word of the message schedule, from the last sixteen, newest first. -/
def shaNext (w : List Word) : Word :=
  let x1 := w.getD 1 0
  let x14 := w.getD 14 0
  (ror x1 17 ^^^ ror x1 19 ^^^ (x1 >>> 10)) + w.getD 6 0 + (ror x14 7 ^^^ ror x14 18 ^^^ (x14 >>> 3)) + w.getD 15 0

/-- One round with schedule word w. -/
def shaRound (i : Nat) (w : Word) (s : Sha) : Sha :=
  let t1 := s.h + (ror s.e 6 ^^^ ror s.e 11 ^^^ ror s.e 25) + ((s.e &&& s.f) ^^^ (~~~s.e &&& s.g)) + shaKi i + w
  let t2 := (ror s.a 2 ^^^ ror s.a 13 ^^^ ror s.a 22) + ((s.a &&& s.b) ^^^ (s.a &&& s.c) ^^^ (s.b &&& s.c))
  ⟨t1 + t2, s.a, s.b, s.c, s.d + t1, s.e, s.f, s.g⟩

/-- The rounds from 64 - n on: `w` are the last sixteen schedule words, newest first. -/
def shaRounds : Nat → List Word → Sha → Sha
  | 0, _, s => s
  | n + 1, w, s =>
    let i := 63 - n
    if i < 16 then shaRounds n w (shaRound i (w.getD (15 - i) 0) s)
    else
      let x := shaNext w
      shaRounds n (x :: w.take 15) (shaRound i x s)

/-- Absorb a block of 64 bytes. -/
def shaBlock (s : Sha) (b : Bytes) : Sha :=
  let w := ((List.range 16).map fun i => w32 (be ((b.drop (4 * i)).take 4))).reverse
  let t := shaRounds 64 w s
  ⟨s.a + t.a, s.b + t.b, s.c + t.c, s.d + t.d, s.e + t.e, s.f + t.f, s.g + t.g, s.h + t.h⟩

/-- SHA-256 of a string. -/
def sha256 (m : Bytes) : Bytes :=
  let p := m ++ (0x80 :: zeros ((119 - m.length % 64) % 64)) ++ toBe 8 (8 * m.length)
  let s := (chunks 64 (p.length / 64 + 1) p).foldl shaBlock shaInit
  [s.a, s.b, s.c, s.d, s.e, s.f, s.g, s.h].flatMap fun x => toBe 4 x.toNat

/-- HMAC-SHA-256. -/
def hmac (key m : Bytes) : Bytes :=
  let k := if 64 < key.length then sha256 key else key
  let k := k ++ zeros (64 - k.length)
  sha256 (k.map (fun x => x ^^^ 0x5C) ++ sha256 (k.map (fun x => x ^^^ 0x36) ++ m))

/-! ### AES -/

/-- The substitution table, entry 0 lowest. -/
def aesS : Nat :=
  0x75b227ebe28012079a059618c323c7041531d871f1e5a534ccf73f362693fdb7c072a49cafa2d4adf04759fa7dc982ca76abd7fe2b670130c56f6bf27b777c63 +
  0xd2f3ff1021dab6bcf5389d928f40a351a89f3c507f02f94585334d43fbaaefd0cf584c4a39becb6a5bb1fc20ed00d153842fe329b3d63b52a05a6e1b1a2c8309 * 2 ^ 512 +
  0x8ae7a65eaf4566ca94ed58d6d37c8e779e4959162acd3c25c2406490a3a32e0db0b5ede14b8ee4688902a22dc4f816073195d643d7ea7c41744975fec130ccd * 2 ^ 1024 +
  0x16bb54b00f2d99416842e6bf0d89a18cdf2855cee9871e9b948ed9691198f8e19e1dc186b95735610ef6034866b53e708a8bbd4b1f74dde8c6b4a61c2e2578ba * 2 ^ 1536

/-- The inverse table. -/
def aesSI : Nat :=
  0x25d18b6d49a25b76b224d92866a12e084ec3fa420b954cee3d23c2a632947b54cbe9dec444438e3487ff2f9b8239e37cfbd7f3819ea340bf38a53630d56a0952 +
  0x6b8a130103bdafc1020f3fca8f1e2cd00645b3b80558e4f70ad3bc8c00abd890849d8da75746155edab9edfd5048706c92b6655dcc5ca4d41698688664f6f872 * 2 ^ 512 +
  0xf45acd78fec0db9a2079d2c64b3e56fc1bbe18aa0e62b76f89c5291d711af1476edf751ce837f9e28535ade72274ac9673e6b4f0cecff297eadc674f4111913a * 2 ^ 1024 +
  0x7d0c2155631469e126d677ba7e042b17619953833cbbebc8b0f52aae4d3be0a0ef9cc9939f7ae52d0d4ab519a97f51605fec8027591012b131c7078833a8dd1f * 2 ^ 1536

/-- SubBytes of one byte. -/
def sub8 (x : Byte) : Byte := tabByte aesS x.toNat

/-- Its inverse. -/
def isub8 (x : Byte) : Byte := tabByte aesSI x.toNat

/-- Multiply by x in GF(2^8). -/
def xtime (x : Byte) : Byte := (x <<< 1) ^^^ (if x.getLsbD 7 then 0x1B else 0)

/-- Multiply by a small constant in GF(2^8), given by four bits. -/
def gmul (k : Nat) (x : Byte) : Byte :=
  let x2 := xtime x
  let x4 := xtime x2
  let x8 := xtime x4
  (if k % 2 = 1 then x else 0) ^^^ (if k / 2 % 2 = 1 then x2 else 0) ^^^ (if k / 4 % 2 = 1 then x4 else 0) ^^^ (if k / 8 % 2 = 1 then x8 else 0)

/-- Byte i of a block. -/
def bAt (b : Bytes) (i : Nat) : Byte := b.getD i 0

/-- ShiftRows, the state column by column. -/
def shiftRows (b : Bytes) : Bytes := (List.range 16).map fun i => bAt b ((i + 4 * (i % 4)) % 16)

/-- Its inverse. -/
def ishiftRows (b : Bytes) : Bytes := (List.range 16).map fun i => bAt b ((i + 16 - 4 * (i % 4)) % 16)

/-- MixColumns with the four constants of a row. -/
def mixCols (k0 k1 k2 k3 : Nat) (b : Bytes) : Bytes :=
  (List.range 16).map fun i =>
    let c := i / 4 * 4
    let r := i % 4
    gmul k0 (bAt b (c + r)) ^^^ gmul k1 (bAt b (c + (r + 1) % 4)) ^^^ gmul k2 (bAt b (c + (r + 2) % 4)) ^^^ gmul k3 (bAt b (c + (r + 3) % 4))

/-- The key schedule, word by word, newest word first: nk words of key, n further words, round constant rc. -/
def aesExpand (nk : Nat) : Nat → Nat → Byte → List Bytes → List Bytes
  | 0, _, _, w => w
  | n + 1, i, rc, w =>
    let t := w.getD 0 []
    let p := w.getD (nk - 1) []
    if i % nk = 0 then
      let r := (t.drop 1 ++ t.take 1).map sub8
      aesExpand nk n (i + 1) (xtime rc) (xorB p (xorB r [rc, 0, 0, 0]) :: w)
    else if nk = 8 && i % nk = 4 then aesExpand nk n (i + 1) rc (xorB p (t.map sub8) :: w)
    else aesExpand nk n (i + 1) rc (xorB p t :: w)

/-- The round keys of a 16- or 32-byte key, first round first. -/
def aesKeys (key : Bytes) : List Bytes :=
  let nk := key.length / 4
  let w := aesExpand nk (4 * (nk + 7) - nk) nk 1 (chunks 4 nk key).reverse
  chunks 16 (nk + 7) w.reverse.flatten

/-- The middle rounds and the last round of encryption. -/
def aesRounds : List Bytes → Bytes → Bytes
  | [], b => b
  | [k], b => xorB (shiftRows (b.map sub8)) k
  | k :: r, b => aesRounds r (xorB (mixCols 2 3 1 1 (shiftRows (b.map sub8))) k)

/-- Encrypt one block with expanded keys. -/
def aesBlk (ks : List Bytes) (b : Bytes) : Bytes :=
  match ks with
  | [] => b
  | k :: r => aesRounds r (xorB b k)

/-- The middle rounds and the last of decryption, keys last round first. -/
def aesIRounds : List Bytes → Bytes → Bytes
  | [], b => b
  | [k], b => xorB ((ishiftRows b).map isub8) k
  | k :: r, b => aesIRounds r (mixCols 14 11 13 9 (xorB ((ishiftRows b).map isub8) k))

/-- Decrypt one block with expanded keys. -/
def aesIBlk (ks : List Bytes) (b : Bytes) : Bytes :=
  match ks.reverse with
  | [] => b
  | k :: r => aesIRounds r (xorB b k)

/-- Encrypt one block under a key. -/
def aesEnc (key b : Bytes) : Bytes := aesBlk (aesKeys key) b

/-! ### Modes -/

/-- ECB encryption of whole blocks. -/
def ecbEnc (key m : Bytes) : Bytes := let ks := aesKeys key; (blocks16 m).flatMap (aesBlk ks)

/-- ECB decryption of whole blocks. -/
def ecbDec (key m : Bytes) : Bytes := let ks := aesKeys key; (blocks16 m).flatMap (aesIBlk ks)

/-- CBC encryption, block by block. -/
def cbcEncGo (ks : List Bytes) : Bytes → List Bytes → Bytes
  | _, [] => []
  | v, b :: r => let c := aesBlk ks (xorB b v); c ++ cbcEncGo ks c r

/-- CBC encryption of whole blocks. -/
def cbcEnc (key iv m : Bytes) : Bytes := cbcEncGo (aesKeys key) iv (blocks16 m)

/-- CBC decryption, block by block. -/
def cbcDecGo (ks : List Bytes) : Bytes → List Bytes → Bytes
  | _, [] => []
  | v, b :: r => xorB (aesIBlk ks b) v ++ cbcDecGo ks b r

/-- CBC decryption of whole blocks. -/
def cbcDec (key iv m : Bytes) : Bytes := cbcDecGo (aesKeys key) iv (blocks16 m)

/-- The key stream of counter mode, n blocks from a counter of 128 bits. -/
def ctrStream (ks : List Bytes) : Nat → Nat → Bytes
  | 0, _ => []
  | n + 1, c => aesBlk ks (toBe 16 c) ++ ctrStream ks n (c + 1)

/-- CTR encryption and decryption: `iv` is the first counter block. -/
def ctrCrypt (key iv m : Bytes) : Bytes := xorB m (ctrStream (aesKeys key) (m.length / 16 + 1) (be iv))

/-- CBC-MAC over whole blocks from a zero vector. -/
def cbcMac (ks : List Bytes) (bs : List Bytes) : Bytes := bs.foldl (fun v b => aesBlk ks (xorB b v)) (zeros 16)

/-- Doubling in GF(2^128) of CMAC. -/
def cmacDbl (b : Bytes) : Bytes :=
  let n := be b
  toBe 16 (if n / 2 ^ 127 % 2 = 1 then Nat.xor (n * 2) 0x87 else n * 2)

/-- AES-CMAC. -/
def cmac (key m : Bytes) : Bytes :=
  let ks := aesKeys key
  let k1 := cmacDbl (aesBlk ks (zeros 16))
  let k2 := cmacDbl k1
  let n := if m.length = 0 then 0 else (m.length - 1) / 16
  let l := m.drop (16 * n)
  let last := if l.length = 16 then xorB l k1 else xorB (padZ16 (l ++ [0x80])) k2
  cbcMac ks (blocks16 (m.take (16 * n)) ++ [last])

/-- RFC 3394: one wrapping step of register r, count t; the state is A and the registers. -/
def kwStep (ks : List Bytes) (a r : Bytes) (t : Nat) : Bytes × Bytes :=
  let b := aesBlk ks (a ++ r)
  (xorB (b.take 8) (toBe 8 t), b.drop 8)

/-- One pass of wrapping over the registers. -/
def kwPass (ks : List Bytes) : Bytes → Nat → List Bytes → Bytes × List Bytes
  | a, _, [] => (a, [])
  | a, t, r :: rs =>
    let x := kwStep ks a r t
    let y := kwPass ks x.1 (t + 1) rs
    (y.1, x.2 :: y.2)

/-- Passes of wrapping, n registers each. -/
def kwPasses (ks : List Bytes) (n : Nat) : Nat → Nat → Bytes × List Bytes → Bytes × List Bytes
  | 0, _, x => x
  | f + 1, t, x => kwPasses ks n f (t + n) (kwPass ks x.1 t x.2)

/-- AES key wrap of RFC 3394. -/
def kwWrap (key p : Bytes) : Bytes :=
  let rs := chunks 8 (p.length / 8 + 1) p
  let x := kwPasses (aesKeys key) rs.length 6 1 (List.replicate 8 0xA6, rs)
  x.1 ++ x.2.flatten

/-- One pass of unwrapping over the registers, last register first, counts falling. -/
def kwUnPass (ks : List Bytes) : Bytes → Nat → List Bytes → Bytes × List Bytes
  | a, _, [] => (a, [])
  | a, t, r :: rs =>
    let b := aesIBlk ks (xorB a (toBe 8 t) ++ r)
    let y := kwUnPass ks (b.take 8) (t - 1) rs
    (y.1, b.drop 8 :: y.2)

/-- Passes of unwrapping. -/
def kwUnPasses (ks : List Bytes) (n : Nat) : Nat → Bytes × List Bytes → Bytes × List Bytes
  | 0, x => x
  | f + 1, x => kwUnPasses ks n f (kwUnPass ks x.1 (n * (f + 1)) x.2)

/-- AES key unwrap of RFC 3394; none where the integrity check fails. -/
def kwUnwrap (key c : Bytes) : Option Bytes :=
  if c.length < 24 ∨ c.length % 8 ≠ 0 then none else
  let rs := (chunks 8 (c.length / 8) (c.drop 8)).reverse
  let x := kwUnPasses (aesKeys key) rs.length 6 (c.take 8, rs)
  if x.1 = List.replicate 8 0xA6 then some x.2.reverse.flatten else none

/-- CCM* with a 13-byte nonce and two length bytes (R177-R179): the encrypted message and the MIC of m bytes. -/
def ccm (key nonce a m : Bytes) (mic : Nat) : Bytes × Bytes :=
  let ks := aesKeys key
  let fl := (if a.isEmpty then 0 else 64) + (if mic = 0 then 0 else (mic - 2) / 2 * 8) + 1
  let b0 := toBe 1 fl ++ nonce ++ toBe 2 m.length
  let aa := if a.isEmpty then [] else blocks16 (padZ16 (toBe 2 a.length ++ a))
  let t := cbcMac ks (b0 :: (aa ++ blocks16 (padZ16 m)))
  let a0 := toBe 1 1 ++ nonce ++ zeros 2
  (xorB m ((ctrStream ks (m.length / 16 + 2) (be a0)).drop 16), xorB (t.take mic) (aesBlk ks a0))

/-- Open a CCM* message: the plaintext where the MIC is right. -/
def ccmOpen (key nonce a c mic : Bytes) : Option Bytes :=
  let a0 := toBe 1 1 ++ nonce ++ zeros 2
  let m := xorB c ((ctrStream (aesKeys key) (c.length / 16 + 2) (be a0)).drop 16)
  if (ccm key nonce a m mic.length).2 = mic then some m else none

/-! ### Derivation (R376) -/

/-- R376: the first n bytes of K(1) and K(2), for L bits. -/
def kdf (key label context : Bytes) (l : Nat) : Bytes :=
  let k (i : Nat) := hmac key (toBe 4 i ++ label ++ [0] ++ context ++ toBe 4 l)
  (k 1 ++ k 2).take (l / 8)

/-! ### CTR_DRBG (R381) -/

/-- The working state of the DRBG: key, V, generate requests since the last reseed, reseeds. -/
structure Drbg where
  k     : Bytes
  v     : Nat
  since : Nat
  seeds : Nat
  deriving DecidableEq, Repr

/-- The blocks after V: n of them. -/
def drbgBlocks (d : Drbg) (n : Nat) : Bytes := ctrStream (aesKeys d.k) n ((d.v + 1) % 2 ^ 128)

/-- CTR_DRBG_Update with 48 bytes. -/
def drbgUpdate (d : Drbg) (p : Bytes) : Drbg :=
  let t := xorB (drbgBlocks d 3) p
  { d with k := t.take 32, v := be (t.drop 32) }

/-- A seed of 48 bytes takes the place of the state before. -/
def drbgSeed (d : Drbg) (e : Bytes) : Drbg := { drbgUpdate d e with since := 0, seeds := (d.seeds + 1) % 65536 }

/-- Generate n bytes. -/
def drbgGen (d : Drbg) (n : Nat) : Bytes × Drbg :=
  let o := (drbgBlocks d ((n + 15) / 16)).take n
  let d' := drbgUpdate { d with v := (d.v + (n + 15) / 16) % 2 ^ 128 } (zeros 48)
  (o, { d' with since := d.since + 1 })

/-! ### P-256 -/

/-- The field prime. -/
def p256 : Nat := 2 ^ 256 - 2 ^ 224 + 2 ^ 192 + 2 ^ 96 - 1

/-- The order of the group. -/
def n256 : Nat := 0xFFFFFFFF00000000FFFFFFFFFFFFFFFFBCE6FAADA7179E84F3B9CAC2FC632551

/-- The constant b. -/
def b256 : Nat := 0x5AC635D8AA3A93E7B3EBBD55769886BC651D06B0CC53B0F63BCE3C3E27D2604B

/-- The base point. -/
def g256 : Nat × Nat :=
  (0x6B17D1F2E12C4247F8BCE6E563A440F277037D812DEB33A0F4A13945D898C296,
   0x4FE342E2FE1A7F9B8EE7EB4A7C0F9E162BCE33576B315ECECBB6406837BF51F5)

/-- A power modulo m, on the low `f` bits of the exponent. -/
def powMod (m : Nat) : Nat → Nat → Nat → Nat
  | 0, _, _ => 1 % m
  | f + 1, b, e =>
    let r := powMod m f (b * b % m) (e / 2)
    if e % 2 = 1 then r * b % m else r

/-- The inverse modulo a prime of 256 bits. -/
def invMod (m a : Nat) : Nat := powMod m 256 (a % m) (m - 2)

/-- The sum of two points; none is the point at infinity. -/
def ecAdd : Option (Nat × Nat) → Option (Nat × Nat) → Option (Nat × Nat)
  | none, q => q
  | p, none => p
  | some (x1, y1), some (x2, y2) =>
    if x1 = x2 ∧ (y1 + y2) % p256 = 0 then none
    else
      let l := if x1 = x2 then (3 * x1 * x1 + p256 - 3) * invMod p256 (2 * y1) % p256
               else (y2 + p256 - y1) * invMod p256 (x2 + p256 - x1) % p256
      let x := (l * l + 2 * p256 - x1 - x2) % p256
      some (x, (l * (x1 + p256 - x) + p256 - y1) % p256)

/-- A multiple of a point, on the low `f` bits of the scalar. -/
def ecMul : Nat → Nat → Option (Nat × Nat) → Option (Nat × Nat)
  | 0, _, _ => none
  | f + 1, k, p =>
    let r := ecMul f (k / 2) (ecAdd p p)
    if k % 2 = 1 then ecAdd p r else r

/-- A point lies on the curve, with both coordinates in range. -/
def ecValid (p : Nat × Nat) : Bool :=
  decide (p.1 < p256) && decide (p.2 < p256) && decide ((p.2 * p.2) % p256 = (p.1 * p.1 * p.1 + (p256 - 3) * p.1 + b256) % p256)

/-- The point of 64 bytes, X then Y. -/
def ecPoint (b : Bytes) : Nat × Nat := (be ((b.drop 0).take 32), be ((b.drop 32).take 32))

/-- The 64 bytes of a point; the point at infinity gives zeros. -/
def ecBytes : Option (Nat × Nat) → Bytes
  | some (x, y) => toBe 32 x ++ toBe 32 y
  | none => zeros 64

/-- ECDSA with SHA-256: `sig` is r then s, 32 bytes each. -/
def ecdsaVerify (pub hash sig : Bytes) : Bool :=
  let r := be (sig.take 32)
  let t := be ((sig.drop 32).take 32)
  let q := ecPoint pub
  if pub.length ≠ 64 ∨ sig.length ≠ 64 ∨ r = 0 ∨ t = 0 ∨ n256 ≤ r ∨ n256 ≤ t ∨ !ecValid q then false
  else
    let w := invMod n256 t
    match ecAdd (ecMul 256 (be hash * w % n256) (some g256)) (ecMul 256 (r * w % n256) (some q)) with
    | some (x, _) => decide (x % n256 = r)
    | none => false

end Sys2Proof.Machine
end

