-- ==== Sys2Proof/Machine/State.lean ====
section
/-! DEFINITION. The state of the module: every register, store, queue, mode and pin the spec gives it, the queue of waiting commands, and the state at reset. -/

namespace Sys2Proof.Machine

open Sys2Proof

/-- Why a step stops with a fault. -/
inductive Fault where
  /-- Raised by `execPewterIntegrityCheck` when the list of strap conversions has not sixteen codes: R33 gives no meaning to such a command. Safe: the model stops where no hardware event exists. -/
  | badStrapCount
  deriving DecidableEq, Repr

/-- Why a command is refused. -/
inductive Refusal where
  /-- Raised by the dispatch for a command whose meaning is not written. Safe: nothing is claimed of it. -/
  | notModelled (mnemonic : String)
  deriving DecidableEq, Repr

/-! ### What leaves the module -/

/-- The answer to the last bus access: data, an acceptance without data, a completer abort (R45, R47, R62), an unsupported request (R58), an internal bus error (R47), or a read that waits. -/
inductive Resp where
  | none
  | data (w : Word)
  | bytes (b : Bytes)
  | done
  | abort
  | unsupported
  | busError
  | stalled
  deriving DecidableEq, Repr

/-- A PPDU as it is sent (R145): the preamble, whether the SFD is that of a coded frame, the PHR's FCS type (2 octets) and data-whitening bit, and the PSDU with its FCS. -/
structure Ppdu where
  pre    : Bytes
  coded  : Bool
  fcs2   : Bool
  whiten : Bool
  psdu   : Bytes
  deriving DecidableEq, Repr

/-- One thing the module sends or drives outside itself. -/
inductive Out where
  /-- An MSI-X message of a vector (R63, R64). -/
  | msi (vector : Nat)
  /-- A frame that starts on air: radio, channel, MODE, power code of RAD_PWR, and the PPDU (R145). -/
  | air (radio channel mode power : Nat) (ppdu : Ppdu)
  /-- A time-stamp that a radio gives with the frame it receives: C_SYNC and PHASE (R229). -/
  | stamp (radio : Nat) (sync : DWord) (phase : Nat)
  /-- A frame sent on an Ibong port: east or not, frame bytes without CRC. -/
  | ring (east : Bool) (frame : Bytes)
  /-- A blocked read that completes later, with its data. -/
  | readDone (m : Master) (w : Word)
  /-- A blocked read that its block's reset ends: a completer abort at the host, a bus error at an internal master (R47). -/
  | readFail (m : Master)
  /-- The stalled read of a lane's ware window, answered with the ware that the Market gave it (R84). -/
  | wareGiven (lane : Nat) (ware : Bytes)
  /-- A held BAR2 access that is answered after an aperture switch (R61). -/
  | bar2Done (r : Resp)
  /-- A host BAR0 request that waited behind a blocked TAKE1 read, answered (R104). -/
  | bar0Done (r : Resp)
  /-- Bytes that a Porter of the mailbox writes to host memory at a bus address: a ring entry, or a reply's data (R72, R73). -/
  | hostWrite (addr : Nat) (b : Bytes)
  /-- A fetch of host memory by a Porter of the mailbox: bus address and length (R72, R73). -/
  | hostRead (addr len : Nat)
  /-- A byte string sent on the maintenance UART (R461). -/
  | uart (b : Bytes)
  /-- A level on a named output pin. -/
  | pin (name : String) (level : Bool)
  deriving DecidableEq, Repr

/-! ### Identity -/

/-- What the module is made as: its variant (R2), its 64-bit identity and its board revision. -/
structure Ident where
  variantB : Bool
  ident    : DWord
  boardRev : Byte
  deriving DecidableEq, Repr

/-! ### Host interface and mailbox (R56-R81) -/

/-- A host request to BAR0 that waits behind a blocked TAKE1 read (R104): a read, a write, a narrow access or a request longer than one DW. -/
inductive Bar0Req where
  | read (a : Nat)
  | write (a : Nat) (v : Word)
  | narrow (wr : Bool) (a : Nat)
  | multiDw (wr : Bool) (a : Nat)
  deriving DecidableEq, Repr

/-- The endpoint and the DRAM aperture. -/
structure HostIf where
  linkUp  : Bool
  /-- Bus Master Enable of the configuration space's command register. -/
  bme     : Bool
  /-- The bus addresses that the host has given BAR0 with BAR1 and BAR2 with BAR3 (R57). -/
  bar0    : DWord
  bar2    : DWord
  /-- The function is in D3hot (R56). -/
  d3hot   : Bool
  present : Bool
  /-- Whole superframes since the last beat, saturating at 255. -/
  missed  : Nat
  /-- Tick edges since the last beat. -/
  beatAge : Nat
  /-- A beat has been written since the last reset of the endpoint. -/
  beaten  : Bool
  /-- The aperture base in force. -/
  aptBase : Nat
  /-- The base of a committed move that waits for its switch. -/
  aptNext : Option Nat
  /-- BAR2 accesses that arrived after the commit, oldest first. -/
  aptHeld : List Bar2Access
  /-- Host requests to BAR0 that wait behind a blocked TAKE1 read, oldest first (R104). -/
  bar0Held : List Bar0Req
  /-- The pending bits of the PBA, bit v for vector v. -/
  pba     : DWord
  deriving DecidableEq, Repr

/-- A mailbox command taken and not yet replied. -/
structure Cmd where
  e       : MbxEntry
  /-- The data fetched from host memory, or none where the fetch failed. -/
  data    : Option Bytes
  /-- The low 32 bits of the tick in which it was taken. -/
  takenAt : Word
  /-- The command has been started and its reply is deferred. -/
  started : Bool
  deriving DecidableEq, Repr

/-- A reply or event written, or held to be written, to the M2H ring, with the data written to host memory. -/
structure MbxOut where
  e    : MbxEntry
  data : Bytes
  deriving DecidableEq, Repr

/-- The mailbox behind the MBX registers. -/
structure Mbx where
  /-- Commands taken, oldest first. -/
  taken    : List Cmd
  /-- Replies that wait for room in the M2H ring, oldest first. -/
  held     : List MbxOut
  /-- Entries written to the M2H ring, newest first. -/
  m2h      : List MbxOut
  evtLost  : Nat
  /-- An MBX_RESET event is due (R78). -/
  resetDue : Bool
  /-- A HOST_SEEN event is due after it (R80). -/
  seenDue  : Bool
  deriving DecidableEq, Repr

/-! ### The Market and the lanes (R82-R111) -/

/-- A ware: the 32 bytes of R85 as fields. -/
structure Ware where
  func   : Nat
  cls    : Nat
  flags  : Nat
  domain : Nat
  origin : Nat
  key    : Word
  /-- Bytes 12-13: WAIT_CTR, or the right operand's ORIGIN in a pair. -/
  b12    : Nat
  /-- Bytes 14-15: SIGNAL_CTR, or the right operand's FLAGS in a pair. -/
  b14    : Nat
  arg0   : DWord
  arg1   : DWord
  deriving DecidableEq, Repr

/-- A ware that is ready or dispatched, with what the Market remembers of it. -/
structure RWare where
  w     : Ware
  /-- The Market cycle at which it became ready. -/
  since : Nat
  /-- Its place in the order in which wares became ready (R98, R100). -/
  ord   : Nat
  /-- Already counted in OVR_TOTAL (R106). -/
  ovr   : Bool
  /-- It has overrun since it was dispatched last (R106). -/
  overran : Bool
  /-- Tick edges crossed since it left its stall slot. -/
  edges : Nat
  /-- Superframe boundaries crossed since it left its stall slot. -/
  sfs   : Nat
  deriving DecidableEq, Repr

/-- A lane as the Market sees it. -/
structure LaneSt where
  /-- Wares in the stall slots, head first, at most two. -/
  slots   : List RWare
  running : Option RWare
  /-- The lane waits at its ware window. -/
  stalled : Bool
  deriving DecidableEq, Repr

/-- The Market's stores. -/
structure Mkt where
  /-- Wares waiting on a counter, oldest first. -/
  waiting  : List Ware
  /-- Parked operands with the tick they were parked at. -/
  parked   : List (Ware × Word)
  /-- Ready wares, earliest ready first. -/
  ready    : List RWare
  /-- The four lanes. -/
  lanes    : List LaneSt
  /-- The buffers of take ports 0 and 1, eight each. -/
  bufs     : List (List (Option RWare))
  /-- Masters blocked at a take port, in order of arrival. -/
  takers   : List (Nat × Master)
  /-- The dependence counters, 0 where unlisted. -/
  ctrs     : Sparse Nat
  /-- DOM_CFG of each domain, 1 where unlisted. -/
  doms     : Sparse Word
  /-- Completions held for a full queue: queue and entry, oldest first. -/
  comps    : List (Nat × DWord)
  /-- Staged words of the submit windows: 8 × window + word; windows 0 host, 1 service core, 2-5 lanes. -/
  stage    : Sparse Word
  /-- Wares that hardware producers hold for want of room, oldest first. -/
  hwHeld   : List Ware
  /-- Domains held by the overrun policy HOLD. -/
  held     : List Nat
  /-- Market cycles counted by the dispatch commands. -/
  cycle    : Nat
  /-- How many wares have become ready. -/
  readied  : Nat
  high     : Nat
  matchHigh : Nat
  deriving DecidableEq, Repr

/-! ### Queues and check units (R112-R126) -/

/-- One entry of a queue. -/
structure QEnt where
  v      : DWord
  poison : Bool
  deriving DecidableEq, Repr

/-- One of the sixteen queues. -/
structure Queue where
  ents   : List QEnt
  high   : Nat
  /-- Packet mode: the producer is inside a packet. -/
  inProd : Bool
  /-- Packet mode: the consumer is inside a packet. -/
  inCons : Bool
  /-- Entries that hardware producers hold, oldest first. -/
  hw     : List DWord
  deriving DecidableEq, Repr

/-- The queues and the per-master staging words of PUSH_LO and POP_LO, keyed 16 × master + queue. -/
structure Que where
  q      : List Queue
  pushLo : Sparse Word
  popLo  : Sparse Word
  deriving DecidableEq, Repr

/-- One check-value unit beside its registers. -/
structure ChkUnit where
  /-- A frame is being absorbed. -/
  inFrame : Bool
  /-- CRESULT has not been read since it was written. -/
  unread  : Bool
  deriving DecidableEq, Repr

/-! ### The Ledger (R395-R414) -/

/-- A Ledger record before its CRC. -/
structure Rec where
  code   : Nat
  sev    : Nat
  src    : Nat
  opsec  : Nat
  opfrac : Nat
  pwrcyc : Nat
  seq    : Nat
  p0     : Word
  p1     : Word
  p2     : Word
  cont   : Bool
  nt     : Bool
  deriving DecidableEq, Repr

/-- A series of the Ledger (R408). -/
structure Series where
  en    : Bool
  qty   : Nat
  lo    : Int
  width : Nat
  bins  : Sparse Nat
  under : Nat
  above : Nat
  count : Nat
  sum   : Int
  /-- Minimum and maximum with operating time and power cycle of the first occurrence. -/
  least : Option (Int × Nat × Nat)
  most  : Option (Int × Nat × Nat)
  deriving DecidableEq, Repr

/-- The window of one master: its cursor and its latched copy. -/
structure LdgWin where
  cursor : Word
  auto   : Bool
  state  : Nat
  slot   : Nat
  win    : List Word
  deriving DecidableEq, Repr

/-- The Ledger's working state. -/
structure Ldg where
  ready   : Bool
  nextSeq : Nat
  fifo    : List Rec
  /-- Records refused since the last LOST record, and whether a LOST record with unknown count is due. -/
  lostDue : Nat
  lostUnknown : Bool
  /-- Operating time at `opCnt`, in units of 4 ns. -/
  opBase  : Nat
  opCnt   : DWord
  /-- Operating time latched for OPTIME_F by the last read of OPTIME_S. -/
  opLatch : Nat
  series  : Sparse Series
  /-- Staged LOG_P words, keyed 16 × master + j, and LOG_N, keyed 16 × master + 15. -/
  stage   : Sparse Word
  /-- Windows by master. -/
  wins    : Sparse LdgWin
  deriving DecidableEq, Repr

/-! ### Stores (R127-R142) -/

/-- DRAM and packet SRAM, with the errors that stand in their arrays and that no access has met yet, by codeword (R128, R135). -/
structure Mem where
  dram       : Sparse Byte
  /-- Poisoned codewords of DRAM, by address divided by 16, without repeats. -/
  poison     : List Nat
  sram       : Sparse Byte
  sramPoison : List Nat
  /-- The TCMs of the lanes, 128 KiB each, instruction TCM first (R141). -/
  tcm        : Sparse Byte
  /-- A first uncorrectable error in a critical region asks for a warm reset with this region (R132). -/
  crit       : Option Nat
  flips      : Sparse CwErr
  sramFlips  : Sparse CwErr
  deriving DecidableEq, Repr

/-- NVS: its bytes, the 64-bit words that cannot be corrected, and the words with one wrong bit (R136), by address divided by 8. -/
structure Nvs where
  mem  : Sparse Byte
  bad  : List Nat
  ones : List Nat
  deriving DecidableEq, Repr

/-- The eMMC partitions that hold data: boot slot and user area (R138). -/
structure Emc where
  boot : Sparse Byte
  user : Sparse Byte
  deriving DecidableEq, Repr

/-! ### Radios and channels (R143-R168) -/

/-- A frame that a radio has queued. -/
structure Tx where
  /-- The descriptor (R168); a frame that the firmware sends itself has its ACCESS, ACK_REQ, deadline bits here. -/
  desc    : DWord
  /-- The PSDU without FCS of a frame that the firmware sends itself; none for a descriptor, whose PSDU lies in packet SRAM. -/
  own     : Option Bytes
  /-- The tick in which it was queued. -/
  since   : Nat
  /-- The secured bytes, kept from the first release (R181). -/
  secured : Option Bytes
  /-- Transmissions made. -/
  tries   : Nat
  /-- Contention slots still to pass before the next attempt (R156). -/
  left    : Nat
  deriving DecidableEq, Repr

/-- A frame on air or waiting for its acknowledgement. -/
structure OnAir where
  tx   : Tx
  chan : Nat
  mode : Nat
  deriving DecidableEq, Repr

/-- A frame being received. -/
structure RxAir where
  psdu  : Bytes
  chan  : Nat
  mode  : Nat
  /-- The context in use, if one was found (R190). -/
  ctx   : Option Nat
  /-- The refill was late (R190). -/
  late  : Bool
  /-- LNK took the frame for processing when it began (R199). -/
  took  : Bool
  /-- Where the frame waits in packet SRAM (R88, R135). -/
  buf   : Option Nat
  deriving DecidableEq, Repr

/-- An acknowledgement that is due 1,000 µs after a frame. -/
structure AckDue where
  psdu   : Bytes
  chan   : Nat
  mode   : Nat
  resent : Bool
  ctx    : Nat
  deriving DecidableEq, Repr

/-- One radio. -/
structure Rad where
  /-- Queued frames, oldest first. -/
  queue : List Tx
  air   : Option OnAir
  rx    : Option RxAir
  ack   : Option AckDue
  /-- Secured bytes of assigned frames, by BUF (R157). -/
  kept  : Sparse Bytes
  /-- The last acknowledgement asked to double the next backoff (R185). -/
  slow  : Bool
  /-- The frame at the head of its class is held back. -/
  held  : Bool
  /-- The antenna reflects: power is cut (R467). -/
  cut   : Bool
  /-- The tick and access class of the last release decision, one for each edge (R161). -/
  tested : Option (Nat × Nat)
  deriving DecidableEq, Repr

/-- CHN beside its registers. The ledgers and their age live in NVS region 1 and survive every reset (R164). -/
structure Chn where
  /-- The hop list in force. -/
  hop     : List Nat
  /-- A committed list and its tick. -/
  hopNext : Option (List Nat × Word)
  /-- The tick C of a segment mode change with a new hop list (R485). -/
  hopHold : Option Word
  /-- Dwell bins in µs, newest first, keyed 64 × set + channel. -/
  dwell   : Sparse (List Nat)
  /-- Duty bins in µs, newest first, keyed 8 × set + sub-band. -/
  duty    : Sparse (List Nat)
  /-- Age in superframes of powered time. -/
  age     : Nat
  deriving DecidableEq, Repr

/-! ### Link security (R169-R200) -/

/-- An accepted frame in the duplicate cache of a context (R191). -/
structure Dup where
  nk  : Bool
  ctr : Nat
  mic : Bytes
  /-- Bytes 3-4 of its acknowledgement. -/
  ack : Bytes
  deriving DecidableEq, Repr

/-- A context: a copy of one record of the context table (R188). -/
structure Ctx where
  record : Nat
  ident  : DWord
  /-- The unwrapped node key, where the record has one. -/
  nk     : Option Bytes
  skH    : Nat
  skW    : Nat
  nkH    : Nat
  nkW    : Nat
  /-- The last eight frames accepted, newest first. -/
  dups   : List Dup
  /-- When it was last used, for the victim of a refill (R190). -/
  used   : Nat
  /-- Dropped as soon as the frame that uses it is done (R200). -/
  drop   : Bool
  deriving DecidableEq, Repr

/-- LNK beside its registers. -/
structure Lnk where
  /-- Contexts by slot, 0-511. -/
  ctx      : Sparse Ctx
  stamp    : Nat
  /-- The reserves of CTR_TX_SK0, CTR_TX_SK1 and CTR_TX_NK, kept in NVS region 1 (R181). -/
  reserve  : List Nat
  /-- The tick in which each counter last gave a value, and how many it gave then (R436). -/
  taken    : List (Nat × Nat)
  /-- Superframe at which the old segment-key generation retires, and that generation (R194). -/
  retire   : Option (Nat × Nat)
  deriving DecidableEq, Repr

/-! ### Beacons, the mesh and joining (R201-R224, R491) -/

/-- A candidate parent that a scanning or orphaned device has heard (R208, R215). -/
structure Cand where
  index   : Nat
  seg     : Nat
  radio   : Nat
  depth   : Nat
  cost    : Nat
  joinOk  : Bool
  /-- Margins of its last beacons in dB, newest first, at most four. -/
  margins : List Int
  hopLen  : Nat
  /-- Hop-list entries heard, in units of 25 kHz above 850 MHz. -/
  hop     : Sparse Nat
  /-- Bytes 16 and 17 of its beacons: the radio settings. -/
  phy     : Nat × Nat
  /-- The segment-key generation of its beacons. -/
  gen     : Nat
  /-- A request to it has failed. -/
  tried   : Bool
  deriving DecidableEq, Repr

/-- BCN beside its registers, with what the firmware keeps of a search for a parent. -/
structure Bcn where
  /-- Margins of the parent's last four beacons in dB, newest first. -/
  margins : List Int
  /-- The superframe of the last beacon accepted from the parent. -/
  heardSf : Option Nat
  /-- The parent's beacon position, once a beacon has been accepted from it since the join or the write of BCN_NODE (R491). -/
  pos     : Option Nat
  /-- The parent's COST. -/
  cost    : Nat
  /-- The superframe whose beacon was built in tick 255 before it (R205). -/
  built   : Option Nat
  /-- The superframe in which learn ended: no beacon of its own is sent in it (R491). -/
  quiet   : Option Nat
  /-- CNT at the start of the last beacon accepted from the parent, for Δt (R212). -/
  lastCnt : DWord
  /-- Superframes in which a standby heard the head, newest first, at most eight (R223). -/
  headSfs : List Nat
  /-- The superframe in which an orphan began to listen, or a search took its candidate (R215, R222). -/
  listen  : Nat
  /-- Position in the scan list (R215). -/
  scan    : Nat
  cands   : List Cand
  /-- The candidate whose hop list is gathered: index and segment (R215). -/
  gather  : Option (Nat × Nat)
  /-- The request under way: index, segment, superframe of the request (R216). -/
  asked   : Option (Nat × Nat × Nat)
  /-- A segment that refused, and the superframe before which it is not asked again (R216). -/
  retryAt : Option (Nat × Nat)
  /-- The superframe whose tick 255 began while the conditions of R30 held. -/
  ready   : Option Nat
  /-- The tick in which the scan came to its present centre (R215). -/
  scanAt  : Nat
  /-- The superframe of a parent window that was open when EN was cleared, and that finishes (R224). -/
  win     : Option Nat
  deriving DecidableEq, Repr

/-- A child that a parent serves. -/
structure Child where
  index  : Nat
  ident  : DWord
  sleepy : Bool
  e      : Nat
  phase  : Nat
  w      : Nat
  /-- The radio on which it was last heard. -/
  radio  : Nat
  /-- Frames held for it, oldest first, each with the tick it came in (R213). -/
  held   : List (Bytes × Nat)
  deriving DecidableEq, Repr

/-- A node that the head has enrolled. -/
structure NodeRow where
  ident  : DWord
  /-- The assigned index, 0 while none. -/
  index  : Nat
  /-- The wrapped node key. -/
  key    : Bytes
  cls    : Nat
  sleepy : Bool
  /-- 1 enrolled, 2 joining, 3 joined. -/
  st     : Nat
  parent : Nat
  depth  : Nat
  ridx   : Nat
  bpos   : Nat
  e      : Nat
  w      : Nat
  phase  : Nat
  /-- Segment-key generations that the node lacked when it asked, a bit for each. -/
  lacks  : Nat
  /-- Superframe of the last JOIN_ACC sent, and how often steps 4 and 5 were repeated. -/
  accSf  : Nat
  tries  : Nat
  /-- It sleeps; it may relay; it was not joined when it asked. -/
  sleeps : Bool
  relayOk : Bool
  new    : Bool
  /-- The enrolment gave the index. -/
  fixed  : Bool
  /-- The node-key generation in use, and the one that the head has sent and that is not yet answered (R195). -/
  nkGen  : Nat
  nkNext : Option Nat
  /-- It has several radios (R201). -/
  multi  : Bool
  deriving DecidableEq, Repr

/-- The mesh as the module's firmware knows it: its own place, its children and routes, and at the head every node. -/
structure Net where
  /-- The segment identifier, 0 for none (R8). -/
  seg      : Nat
  /-- The module's node index in the node role. -/
  index    : Nat
  headId   : DWord
  parentId : DWord
  children : List Child
  /-- ORIG to the child that carried it (R210). -/
  routes   : Sparse Nat
  nodes    : List NodeRow
  /-- Downward frames dropped for want of a route. -/
  dropped  : Nat
  /-- The superframe at which JOIN_OPEN and SLEEPY_OPEN close. -/
  joinEnd  : Option Nat
  /-- The radio on which an identity asked to join, for the answer (R216). -/
  via      : Sparse Nat
  /-- The module's own node-key generation in use (R195). -/
  nkGen    : Nat
  /-- SFLAGS of the next STATUS: orphaned since the last one, and a new segment key held (R175). -/
  orphaned : Bool
  newKey   : Bool
  /-- The module's own wake settings E, PHASE, W, and those that wait for the end of the current wake. -/
  wake     : Nat × Nat × Nat
  wakeNext : Option (Nat × Nat × Nat)
  /-- Superframe in which the head last heard a frame of each node index (R261). -/
  heard    : Sparse Nat
  deriving DecidableEq, Repr

/-! ### Network time (R225-R247) -/

/-- A TOD_SET that waits for its PPS edge (R240). -/
structure TodWait where
  tag    : Word
  /-- The Relso time named, in ns. -/
  ns     : Nat
  force  : Bool
  /-- CNT when the command was taken. -/
  cnt    : DWord
  deriving DecidableEq, Repr

/-- Network time beside the NTM registers. Times with a fraction are in units of 2^-16 ns. -/
structure Ntm where
  /-- The full number of the tick in progress, while the module holds network time. -/
  tick      : Nat
  /-- Local ticks run since the end of reset. -/
  localTick : Nat
  /-- The last tick that began before a step back; ticks up to it are repeated ticks (R489). -/
  passed    : Option Nat
  /-- R237: the next measurement is the first after the step from NONE. -/
  first     : Bool
  good      : Nat
  /-- CNT of the last measurement. -/
  measCnt   : DWord
  /-- Staged words of the anchor set: ANCHOR_LO, ANCHOR_HI, OFFSET_FRAC, OFFSET_NS_LO. -/
  stage     : List (Option Word)
  /-- A step, in units of 2^-16 ns, that waits for the next tick edge. -/
  step      : Option Int
  /-- Accepted delay measurements from the present parent, newest first, in units of 2^-16 ns. -/
  delays    : List Int
  /-- The exchanges that wait for their DRESP, newest first: SEQ and T1. -/
  dreq      : List (Nat × Nat)
  /-- The next SEQ. -/
  dreqSeq   : Nat
  /-- Superframe of the last DREQ to the present parent. -/
  dreqSf    : Option Nat
  /-- A first beacon measurement has been taken since the join. -/
  measured  : Bool
  tod       : Option TodWait
  /-- Errors of consecutive PPS edges beyond STEP_LIM, newest first (R241). -/
  jumps     : List Int
  /-- Relso time of the next PPS edge that is expected, in ns. -/
  ppsNext   : Option Nat
  /-- CNT at the last entry into HOLDOVER. -/
  holdCnt   : DWord
  /-- The bound at the source, in ns, before holdover growth; none is unknown. -/
  base      : Option Nat
  /-- CORR, C_rx and superframe of the parent beacon accepted last (R232), CORR in units of 2^-16 ns. -/
  corr      : Option (Int × DWord × Nat)
  /-- CNT_HI and TICK_HI as latched. -/
  cntHi     : Word
  tickHi    : Word
  /-- The step that waits was staged before the last tick edge (R238). -/
  stepDue   : Bool
  /-- A step has fallen at the edge that began the tick in progress: the tick lasts at least 4.000 ms (R238). -/
  stepHold  : Bool
  deriving DecidableEq, Repr

/-! ### The corridor engine (R248-R264) -/

/-- A track (R253). -/
structure Track where
  cls    : Nat
  anchor : Nat
  app    : Nat
  /-- Time since it was at the anchor, in ms. -/
  offs   : Int
  age    : Nat
  conf   : Nat
  id     : Nat
  /-- The highest level of its last search. -/
  peak   : Nat
  deriving DecidableEq, Repr

/-- A run in progress, from 200 µs to its publication. -/
structure CorRun where
  tick : Nat
  /-- µs from 200 µs to its end. -/
  us   : Nat
  /-- P[v] (R257). -/
  p    : Sparse Nat
  /-- The match table that it builds, keyed 4 × vertex + class: |τ|, track, identifier, approach (R255). -/
  seen : Sparse (Nat × Nat × Nat × Nat)
  /-- Occupancy of the run by vertex: tracks near, fastest approaching class plus 1, reports (R261). -/
  occ  : Sparse (Nat × Nat × Nat)
  deriving DecidableEq, Repr

/-- Policy values: floors, caps and WX (R259). -/
structure Policy where
  floors : List Nat
  caps   : List Nat
  wx     : Nat
  deriving DecidableEq, Repr

/-- COR beside its registers. -/
structure Cor where
  /-- The two graph banks (R250). -/
  banks   : List (Sparse Byte)
  /-- Tracks by number, 0-1,023. -/
  tracks  : Sparse Track
  nextId  : Nat
  /-- The match table in use, keyed 4 × vertex + class: track, identifier, approach. -/
  known   : Sparse (Nat × Nat × Nat)
  run     : Option CorRun
  /-- The tick of the last run started. -/
  lastRun : Option Nat
  /-- The full tick of the armed swap. -/
  swapAt  : Option Nat
  /-- The full tick of the armed commit, with its values. -/
  polAt   : Option (Nat × Policy)
  /-- The policy in use. -/
  pol     : Policy
  /-- Targets of the last kept run; 0 where unlisted. -/
  target  : Sparse Nat
  /-- PUB; 1,023 where unlisted. -/
  pub     : Sparse Nat
  /-- Kept runs in a row whose target differs from PUB. -/
  hold    : Sparse Nat
  /-- The tracks as of the last run that finished. -/
  view    : Sparse Track
  /-- The second that accumulates and its data by vertex. -/
  occSec  : Nat
  occ     : Sparse (Nat × Nat × Nat)
  /-- The frozen second and its words; 0 where unlisted. -/
  row     : Option Nat
  rowW    : Sparse Nat
  /-- A graph check runs: 0 none, 1 asked by register, 2 by GRAPH_LOAD, 3 by the firmware at a start (R263). -/
  check   : Nat
  /-- Tick edges to pass before the firmware arms the swap of a start (R263). -/
  autoArm : Option Nat
  /-- The eMMC copy written last, 0 or 1; none before the first. -/
  newest  : Option Nat
  deriving DecidableEq, Repr

/-! ### Levels and segment modes (R265-R286, R492) -/

/-- A running or finished fade (R275). -/
structure Fade where
  /-- Start and target values in 1/256 of a code, and the length in ticks. -/
  s    : Nat
  t    : Nat
  n    : Nat
  /-- Ticks since its apply tick. -/
  i    : Nat
  code : Nat
  fade : Nat
  /-- The value of i at which the lamp entered it (R273). -/
  i0   : Nat
  deriving DecidableEq, Repr

/-- A pending level change (R273). -/
structure LvlChange where
  apply : Nat
  code  : Nat
  fade  : Nat
  epoch : Nat
  /-- A fifth change pushed it out: it is performed at the next tick edge. -/
  force : Bool
  deriving DecidableEq, Repr

/-- What a segment mode holds (R276). -/
structure SegMode where
  op    : Nat
  fixed : Nat
  mfade : Nat
  gen   : Nat
  genCh : Bool
  /-- A new hop list: centres in units of 25 kHz above 850 MHz. -/
  hop   : Option (List Nat)
  deriving DecidableEq, Repr

/-- A change that the head has announced (R278). -/
structure Announce where
  epoch : Nat
  c     : Nat
  /-- The tick at which it comes into force: C, or later for an in-doubt participant (R284). -/
  at'   : Nat
  mode  : SegMode
  /-- The tick in which it was announced. -/
  since : Nat
  /-- The superframe of its last MODE wave. -/
  sent  : Option Nat
  /-- The tag of its MODE_SET. -/
  tag   : Option Word
  /-- It belongs to a ring-wide change (R283). -/
  ring  : Bool
  deriving DecidableEq, Repr

/-- A cancelled change whose CANCEL frames are still to be flooded (R278). -/
structure Cancelled where
  epoch : Nat
  c     : Nat
  mode  : SegMode
  sent  : Option Nat
  /-- No tick 32 was left: one CANCEL frame at the first opportunity. -/
  once  : Bool
  /-- The tick of the cancellation: its CANCEL frames start at later edges (R268). -/
  since : Nat
  deriving DecidableEq, Repr

/-- A node's pending mode (R279). -/
structure PendMode where
  epoch  : Nat
  /-- C, where it is known. -/
  c      : Option Nat
  at'    : Nat
  mode   : SegMode
  hopLen : Nat
  chunks : Sparse (List Nat)
  done   : Bool
  rev    : Bool
  deriving DecidableEq, Repr

/-- A stripe frame that waits for its wave (R267). -/
structure StripeQ where
  stripe  : Nat
  payload : Bytes
  built   : Nat
  deriving DecidableEq, Repr

/-- A flood frame that a relay is due to send (R269). -/
structure FwdDue where
  psdu : Bytes
  /-- Its start, in µs of network time. -/
  us   : Nat
  deriving DecidableEq, Repr

/-- LVL beside its registers. -/
structure Lvl where
  fade    : Option Fade
  /-- v(i) shown at the last tick edge; 0 is off. -/
  shown   : Nat
  /-- The last nonzero target since the last start (R492). -/
  nonzero : Nat
  pend    : List LvlChange
  queue   : List StripeQ
  /-- APPLY and FADE of each stripe's last change (R271). -/
  last    : Sparse (Word × Nat)
  wave    : Option Nat
  /-- The last superframe with a wave in its ticks 0-13 (R268). -/
  early   : Option Nat
  refresh : Option Nat
  /-- The next stripe to refresh. -/
  robin   : Nat
  fwd     : List FwdDue
  /-- Flood frames sent or due: radio, start and end in µs of network time (R270). -/
  spans   : List (Nat × Nat × Nat)
  ann     : Option Announce
  gone    : List Cancelled
  /-- Epoch numbers that a cancellation has used up. -/
  used    : List Nat
  /-- Hop-list data of the last MODE_SET. -/
  hopData : List Nat
  pmode   : Option PendMode
  /-- The previous epoch and mode, for a revert. -/
  prev    : Option (Nat × SegMode × Option Nat)
  /-- Content of the mode in force beyond MODE_CUR: its hop list, and its C where known. -/
  curHop  : Option (List Nat)
  curC    : Option Nat
  ahead   : Nat
  getSf   : Option Nat
  /-- Acknowledgements still to be sent: epoch, tick of the apply, HOW (R280). -/
  acks    : List (Nat × Nat × Nat)
  late    : Nat
  /-- The edge of C passed while LVL was disabled (R285). -/
  defer   : Bool
  /-- The tick edge before the last one. -/
  prevTick : Nat
  /-- The firmware's copy of EPOCH, MODE_CUR and SCHEDp in settings group 2 (R285). -/
  copy    : Option (Word × Word × List Word)
  /-- The tick of a takeover, for R486. -/
  takeover : Option Nat
  /-- The fades before the present one, newest first: what the lamp showed at earlier edges (R275). -/
  past    : List Fade
  /-- The refresh frame that is built for the next wave (R268, R271). -/
  fresh   : Option StripeQ
  deriving DecidableEq, Repr

/-! ### Pixel-string drive (R287-R307) -/

/-- PORT_STAT.STATE. -/
inductive PortSt where
  | off | dflt | running | paused | disabling | fault
  deriving DecidableEq, Repr

/-- A drive default record as the sequencer has read it, with the shared scale (R304). -/
structure DefRec where
  iset   : Nat
  bits   : Nat
  en     : Word
  ontime : Nat
  gscale : Nat
  deriving DecidableEq, Repr

/-- One drive port beside its registers. -/
structure Port where
  st    : PortSt
  /-- Firmware has taken the port since its reset (R304). -/
  taken : Bool
  /-- TAKE is set: tick edges until it acts, 0 for none. -/
  take  : Nat
  /-- The port is to start from off, after EN is set or a fault is cleared: tick edges until it does, 0 for none. -/
  start : Nat
  /-- ENMASK and OPEN_MASK as the frames use them, and the tick edges until they are taken anew from their registers, 0 for none (R20). -/
  mask  : Word
  latch : Word
  relive : Nat
  /-- The default record that the port runs. -/
  dr    : DefRec
  /-- Valid link words arrive from the head. -/
  link  : Bool
  /-- The port ran its default when it faulted. -/
  wasDef : Bool
  /-- w_p as shown, the start and the target of each position's fade, and its length in ticks (R296). -/
  w     : List Nat
  s0    : List Nat
  t0    : List Nat
  n0    : List Nat
  /-- Tick edges since the swap. -/
  i     : Nat
  /-- A swap fell in a pause: the port fades to the active bank when it resumes (R295). -/
  pswap : Bool
  /-- v in 1/256 of a code, and the current in mA, as taken at the last edge. -/
  v     : Nat
  ma    : Nat
  /-- On-times and CNT when the disable fade began (R305). -/
  d0    : List Nat
  dis   : DWord
  /-- DIS_FADE in ms as it was then. -/
  disMs : Nat
  /-- Voltages of the last 16 tests of each position, newest first (R303). -/
  hist  : Sparse (List Nat)
  /-- The superframe whose test slot is over: it has given its results, or a swap has ended it. -/
  cut   : Option Nat
  /-- Sink energy of the superframe so far, in units of 40 nJ: 10 mV × mA × tick. -/
  acc   : Nat
  deriving DecidableEq, Repr

/-- An armed swap: its SRC, the full tick of SWAP_AT, CNT when the arm landed, and the lead in µs (R294). -/
structure Armed where
  src  : Nat
  at'  : Nat
  cnt  : DWord
  lead : Nat
  deriving DecidableEq, Repr

/-- DRG beside its registers. -/
structure Drg where
  /-- Two banks; each holds 32 values for each of four ports. -/
  banks  : List (List (List Nat))
  /-- The active bank, 0 or 1. -/
  active : Nat
  armed  : Option Armed
  swaps  : Nat
  /-- The BANK_LOAD that waits for its swap. -/
  tag    : Option Word
  deriving DecidableEq, Repr

/-- A port that is off and dark, with its head linked. -/
def portOff : Port :=
  ⟨.off, false, 0, 0, 0, 0, 0, ⟨0, 0, 0, 0, 0⟩, true, false, List.replicate 32 0, List.replicate 32 0, List.replicate 32 0, List.replicate 32 0, 0, false, 0, 0, List.replicate 32 0, 0, 0, [], none, 0⟩

/-- DRG with both banks 0 and no swap armed. -/
def drgOff : Drg := ⟨List.replicate 2 (List.replicate 4 (List.replicate 32 0)), 0, none, 0, none⟩

/-! ### Scales and balance (R308-R343) -/

/-- The running sums of a latch interval. Squares and products are in units of the correction (10^-14 V, 10^-15 A), times are in ns. -/
structure SclSum where
  /-- Line cycles and their total length. -/
  cycles : Nat
  cycT   : Nat
  /-- Total length, with a partial cycle. -/
  time   : Nat
  /-- For each of 12 channels: square of the whole and of the fundamental, times T_c. -/
  sq     : List Nat
  sq1    : List Nat
  /-- For each of 8 paths 4f + p: total and fundamental active, fundamental reactive and apparent power, times T_c. -/
  e      : List Int
  e1     : List Int
  q1     : List Int
  s      : List Int
  /-- Flags of the interval (R322). -/
  start  : Bool
  lost   : Bool
  moved  : Bool
  coefNew : Bool
  clip   : Bool
  check  : Bool
  deriving DecidableEq, Repr

/-- An empty interval. -/
def sumZero : SclSum :=
  ⟨0, 0, 0, List.replicate 12 0, List.replicate 12 0, List.replicate 8 0, List.replicate 8 0, List.replicate 8 0, List.replicate 8 0, false, false, false, false, false, false⟩

/-- What page 1 shows: the results of the last latch. -/
structure SclRes where
  seq  : Nat
  tick : Nat
  ns   : Nat
  info : Nat
  freq : Nat
  /-- For each of 12 channels: RMS, fundamental RMS, THD, angle. -/
  chan : List (List Int)
  /-- For each of 8 paths: P, P1, Q1, S. -/
  pow  : List (List Int)
  /-- 56 cumulatives and deltas by 28f + 7p + q. -/
  cum  : List Nat
  dlt  : List Nat
  deriving DecidableEq, Repr

/-- The results before any latch. -/
def resZero : SclRes :=
  ⟨0, 0, 0, 0, 0, List.replicate 12 [0, 0, 0, 0], List.replicate 8 [0, 0, 0, 0], List.replicate 56 0, List.replicate 56 0⟩

/-- A coefficient block of R329: 32 words, HYST at its reset value. -/
def coefBlock : List Word := [0, 0, 0x14] ++ List.replicate 29 0

/-- Stages of the self-check (R326). -/
inductive CheckSt where
  | idle | asked | running
  deriving DecidableEq, Repr

/-- Scales. -/
structure Scl where
  /-- 56 cumulatives by 28f + 7p + q, in units of 10^-38 J, and what each was at the last latch record. -/
  acc   : List Nat
  base  : List Nat
  /-- CNT at the last boundary and at the last real one, the virtual boundaries since, and the length in ns of the cycle before, 0 for none. -/
  lastB : DWord
  realB : DWord
  virt  : Nat
  prevT : Nat
  /-- For each phase: CNT at its last crossing, its usability, and the usable cycles in a row (R312). -/
  xing  : List (Option DWord)
  ok    : List Bool
  run   : List Nat
  ref   : Nat
  free  : Bool
  /-- Length in ns of the last cycle, for FREQ; 0 for none. -/
  lastT : Nat
  /-- Segments of channels 4-11. -/
  seg   : List Nat
  sum   : SclSum
  res   : SclRes
  /-- CNT at the COMMIT of a pending set. -/
  pend  : Option DWord
  sh    : List (List Word)
  act   : List (List Word)
  check : CheckSt
  /-- Latch wares held by DRAIN (R328). -/
  held  : List Ware
  /-- NSEQ of the last record and of the newest latch record, and JSEQ (R331). -/
  nseq  : Nat
  lbase : Nat
  jseq  : Nat
  /-- The restore that ENERGY_GAP has still to report: RESTORED and the restored NS (R334). -/
  gap   : Option (Nat × Nat)
  /-- The COEF_LOAD and METER_CHECK that wait for their end. -/
  coefTag  : Option Word
  /-- The last balance capture: its interval and the mirrors of the six phase paths (R341). -/
  cap   : Option (Nat × List Nat)
  /-- NS of the last latch with network time since EN was set. -/
  lastNs : Option Nat
  /-- A latch since that capture carried START or PARTIAL. -/
  rough : Bool
  deriving DecidableEq, Repr

/-- Scales after reset. -/
def sclOff : Scl where
  acc := List.replicate 56 0
  base := List.replicate 56 0
  lastB := 0
  realB := 0
  virt := 0
  prevT := 0
  xing := [none, none, none]
  ok := [false, false, false]
  run := [0, 0, 0]
  ref := 0
  free := false
  lastT := 0
  seg := List.replicate 8 0
  sum := sumZero
  res := resZero
  pend := none
  sh := List.replicate 12 coefBlock
  act := List.replicate 12 coefBlock
  check := .idle
  held := []
  nseq := 0
  lbase := 0
  jseq := 0
  gap := none
  coefTag := none
  cap := none
  lastNs := none
  rough := false

/-- A node's energy reading at a balance boundary (R340). -/
structure Reading where
  b       : Nat
  energy  : Nat
  pavg    : Nat
  restart : Bool
  sent    : Bool
  /-- V_RMS in 0.1 V. -/
  volts   : Nat
  deriving DecidableEq, Repr

/-- An ENERGY report that the head holds (R342). -/
structure Report where
  node   : Nat
  intv   : Nat
  energy : Nat
  pavg   : Nat
  phase  : Nat
  restart : Bool
  deriving DecidableEq, Repr

/-- Energy reports and the balance settings of the firmware. -/
structure Nrg where
  /-- PERIOD and SPREAD in use, and those that wait for the next boundary (R340, R343). -/
  period : Nat
  spread : Nat
  next   : Option (Nat × Nat)
  /-- The last four readings, newest first. -/
  reads  : List Reading
  /-- The head's reports, newest first. -/
  reports : List Report
  /-- BAL_SET's PERIOD, SPREAD, FEEDERS and TOL, which wait for the next boundary. -/
  balNext : Option (Nat × Nat × Nat × Nat)
  /-- Since the last reading: mV of the three phases times ns, summed over the latches, and the ns (R340). -/
  volts   : Nat × Nat
  deriving DecidableEq, Repr

/-! ### Start, the Pewter domain, the vault (R29-R55, R344-R394) -/

/-- A record or event of a start, which the firmware writes once it runs. -/
inductive Late where
  | record (code sev src p0 p1 p2 : Nat)
  | event (code src : Nat) (param : Bytes)
  deriving DecidableEq, Repr

/-- Where the start sequence stands. -/
inductive Stage where
  /-- No main power. -/
  | off
  /-- A reset sequence runs, before its 2 ms point. -/
  | reset
  /-- The Pewter check is done and the strap is latched (2 ms). -/
  | checked
  /-- The sequencer has applied the defaults (40 ms). -/
  | defaults
  /-- The boot ROM found no valid image, or the strap asks for bench recovery: no firmware runs. -/
  | dead
  /-- The boot ROM has finished and started the image. -/
  | booted
  deriving DecidableEq, Repr

/-- The start sequence beside the RST registers. -/
structure Boot where
  stage    : Stage
  /-- A cold cause has occurred in the sequence that runs. -/
  seqCold  : Bool
  /-- CNT when the last cause of a reset arrived: another cause at the same value is of the same clock cycle (R40; the model's own field). -/
  causeAt  : Option DWord
  /-- Zeroization has run since the last start. -/
  zeroized : Bool
  /-- The band of the last reset, if any. -/
  lastBand : Option Nat
  /-- What the firmware has to record once it runs, oldest first. -/
  late     : List Late
  /-- SCL has not been enabled since the last cold reset: LATCH_SEQ starts at 0. -/
  sclCold  : Bool
  /-- The firmware's copy of PWRCYC in NVS region 1 (R362). -/
  cycCopy  : Nat
  deriving DecidableEq, Repr

/-- A calendar date and time (R348). -/
structure Cal where
  year : Nat
  mon  : Nat
  day  : Nat
  hour : Nat
  mins : Nat
  sec  : Nat
  deriving DecidableEq, Repr

/-- The Pewter domain beside its registers. -/
structure Pwt where
  /-- The seal (R346). -/
  sealUp    : Bool
  /-- The root secret and its integrity word. -/
  rs        : Bytes
  crc       : Nat
  cal       : Cal
  timeValid : Bool
  /-- The position of the divider, in 1/32,768 s, and of the trim interval, in oscillator cycles. -/
  div       : Nat
  cyc       : Nat
  oscOk     : Bool
  /-- The supply node is fed from VIN. -/
  mainOn    : Bool
  /-- The domain has run from VBAK alone since the last start. -/
  ranVbak   : Bool
  vbak      : Nat
  vbakLow   : Bool
  /-- The words of a passing commit that waits for its cycle. -/
  commit    : Option (Word × Word)
  pwron     : Bool
  /-- Who asserted PWRON: 1 alarm 0, 2 alarm 1, 3 software. -/
  pwronBy   : Nat
  /-- Interrupt bits of flags set while main power was absent. -/
  pendIrq   : Word
  /-- The domain was lost at this start. -/
  lost      : Bool
  /-- Keys were zeroized since the start before this one. -/
  zeroized  : Bool
  /-- The levels last sampled at the tamper loops were right. -/
  loopOk    : List Bool
  deriving DecidableEq, Repr

/-- A vault slot that holds a key: SLOT_ATTR, uses left, the key, and MEAS1 when it was made (R370). -/
structure Slot where
  attr  : Word
  uses  : Nat
  key   : Bytes
  meas1 : Bytes
  deriving DecidableEq, Repr

/-- A vault operation that waits or runs, with what its requester gave. -/
structure VOp where
  who   : VltReq
  op    : Nat
  a     : Nat
  b     : Nat
  attr  : Word
  uses  : Nat
  /-- Input bytes of a mailbox request; a window operation reads packet SRAM. -/
  data  : Bytes
  inp   : Nat × Nat
  out   : Nat × Nat
  kdf   : Word
  label : Bytes
  mode  : AesMode
  iv    : Bytes
  deriving DecidableEq, Repr

/-- The vault. -/
structure Vlt where
  slots    : List (Option Slot)
  /-- MEAS0-MEAS3. -/
  meas     : List Bytes
  /-- The boot ROM has written the measurements and the vault is ready. -/
  ready    : Bool
  /-- The APPR fuse is blown. -/
  fuse     : Bool
  /-- Approved mode holds since this start (R382). -/
  approved : Bool
  debug    : Bool
  drbg     : Option Drbg
  /-- Operations, the one under way first. -/
  ops      : List VOp
  /-- The last counter accepted from the Crypto Officer (R385), which the firmware keeps in NVS. -/
  coCtr    : Nat
  deriving DecidableEq, Repr

/-- A self-test run on demand (R389). -/
structure TestRun where
  sel    : Nat
  /-- Tests still to run. -/
  left   : List Nat
  failed : Option Nat
  /-- The tick of the request. -/
  start  : Nat
  deriving DecidableEq, Repr

/-- CRY beside its registers. -/
structure Cry where
  /-- Tick of a request that waits for its tick edge. -/
  wait : Option Nat
  run  : Option TestRun
  deriving DecidableEq, Repr

/-! ### The Ibong ring and failover (R415-R444) -/

/-- A ring frame that passed the checks of R420 and waits to be used. -/
structure RingRx where
  kind : Nat
  spos : Nat
  hops : Nat
  src  : DWord
  seq  : Nat
  pay  : Bytes
  /-- The port it arrived on, and CNT at its start. -/
  east : Bool
  c    : DWord
  deriving DecidableEq, Repr

/-- The last heartbeat of a position: the tick edge after which it came, and its payload (R428). -/
structure RingHb where
  at' : Nat
  pay : Bytes
  deriving DecidableEq, Repr

/-- IBG. -/
structure Ibg where
  upE    : Bool
  upW    : Bool
  /-- The identity at each of the eight positions, once a map stands (R423). -/
  map    : Option (List (Option DWord))
  /-- The lowest identity known to hold this map; 0 for none. -/
  holder : Nat
  version : Nat
  /-- Identities in east order as learned, and whether the west end, the east end and the closing of the ring are known. -/
  order  : List DWord
  endW   : Bool
  endE   : Bool
  closed : Bool
  /-- PRESENT as last reported. -/
  shown  : Nat
  /-- Frames originated since the start (R418). -/
  sent   : Nat
  /-- Highest authenticated SEQ of each source, and the last unauthenticated SEQ delivered (R420, R422). -/
  seqs   : List (DWord × Nat)
  last   : List (DWord × Nat)
  inbox  : List RingRx
  hb     : List (Option RingHb)
  /-- Tick edges since the start. -/
  edges  : Nat
  master : Option Nat
  /-- The edge count at the last SYNC from the master (R426). -/
  syncAt : Nat
  /-- Delay samples of each port, newest first, and T1 of the request under way, in units of 2^-16 ns (R425). -/
  delE   : List Int
  delW   : List Int
  reqE   : Option Nat
  reqW   : Option Nat
  deriving DecidableEq, Repr

/-- IBG after a cold reset of an unprovisioned module. -/
def ibgOff : Ibg :=
  ⟨false, false, none, 0, 0, [], false, false, false, 0, 0, [], [], [], List.replicate 8 none, 0, none, 0, [], [], none, none⟩

/-- A ring mode change that this module coordinates (R283). -/
structure RingCoord where
  id    : Nat
  c     : Nat
  d     : Nat
  tag   : Option Word
  /-- Positions of the participants, of those that answered READY, and of those that confirmed. -/
  parts : List Nat
  ready : List Nat
  conf  : List Nat
  /-- Positions that answered REFUSE, oldest first. -/
  refused : List Nat
  /-- The decision: commit or not. -/
  decided : Option Bool
  deriving DecidableEq, Repr

/-- A ring mode change in which this module takes part. -/
structure RingPart where
  id    : Nat
  coord : Nat
  c     : Nat
  /-- The announced change, kept for a late COMMIT (R284). -/
  ann   : Announce
  deriving DecidableEq, Repr

/-- Ring mode changes. -/
structure Rmc where
  coord : Option RingCoord
  part  : Option RingPart
  /-- Decisions seen: identifier, commit or not, tick (R283). -/
  known : List (Nat × Bool × Nat)
  deriving DecidableEq, Repr

/-- A checkpoint that a standby assembles (R434). -/
structure CkAsm where
  full  : Nat
  incr  : Nat
  /-- Chunks in all, the superframe of its capture (R433), and the chunks held. -/
  n     : Nat
  sf    : Nat
  got   : Sparse Bytes
  whole : Bool
  /-- The chunk whose arrival is answered: the last of all, or the last of those that were asked for again. -/
  last  : Nat
  deriving DecidableEq, Repr

/-- A checkpoint that a head sends. -/
structure CkTx where
  dest  : Nat
  full  : Nat
  incr  : Nat
  whole : Bool
  /-- The superframe of capture, all chunks, and the numbers of those still to be sent. -/
  sf    : Nat
  chunks : List Bytes
  todo  : List Nat
  deriving DecidableEq, Repr

/-- FOV. -/
structure Fov where
  st     : Nat
  block  : Nat
  /-- A heartbeat was heard on path A in this tick, and the silent ticks in a row of path A and of path B (R429). -/
  heardA : Bool
  silA   : Nat
  silB   : Nat
  partner : Option Nat
  /-- Network time in ns of the last heartbeat on either path, and the tick of the last one on path A. -/
  lastNs : Nat
  lastTick : Word
  /-- The edge count at the last heartbeat of another standby for the segment. -/
  dupAt  : Option Nat
  pathLost : Bool
  partLost : Bool
  blockedSent : Bool
  /-- The tick of the decision, and the tick at which steps 1 to 6 of R437 are complete. -/
  taking : Option (Nat × Nat)
  /-- The tick of the first beacon, until step 8 of R437 is done. -/
  step8  : Option Nat
  /-- What the head last heard of a standby for its segment: edge count, position, FOV_STATE, FULL_SEQ. -/
  pair   : Option (Nat × Nat × Nat × Nat)
  /-- A head that waits under R439: ticks in which a heartbeat came, and the superframe in which the wait began. -/
  probe  : Option (Nat × Nat)
  /-- Firmware arms the standby when an image has been applied (R439). -/
  autoArm : Bool
  hbOut  : Bool
  /-- The current half of region 6: false for the lower one (R435), and the edge count at which it is verified (R443). -/
  half   : Option Bool
  verifyAt : Nat
  asm    : Option CkAsm
  tx     : Option CkTx
  /-- The head's last captured image, and its sequence numbers, the hour of the last full checkpoint and the graph it held (R433). -/
  prev   : Option Bytes
  full   : Nat
  incr   : Nat
  hour   : Nat
  graph  : Word
  want   : Bool
  /-- The head role kept after a takeover: segment and HEAD_ID (R438); released at the next start. -/
  kept   : Option (Nat × Nat)
  release : Bool
  deriving DecidableEq, Repr

/-- FOV after reset. -/
def fovOff : Fov :=
  ⟨0, 0, false, 0, 0, none, 0, 0, none, false, false, false, none, none, none, none, false, false, none, 0, none, none, none, 0, 0, 0, 0, false, none, false⟩

/-! ### Firmware update (R445-R461) -/

/-- The states of UPD (R450). -/
inductive UpdSt where
  | idle | receiving | received | applying | applied | copying | committed
  deriving DecidableEq, Repr

/-- The update journal in RPMB (R455): idle, a copy under way with TARGET_LEN and TARGET_SHA, or a copy that is complete. -/
inductive Journal where
  | idle
  | copying (len : Nat) (sha : Bytes)
  | copied
  deriving DecidableEq, Repr

/-- UPD, the update journal and the settings groups. -/
structure Upd where
  st       : UpdSt
  /-- The delta header of the update held, and the bitmap of units received (R449, R452). -/
  hdr      : Bytes
  got      : BitVec 16384
  applyErr : Word
  /-- APPLY of the COMMIT, and R once it is chosen (R455). -/
  applyAt  : Word
  resetAt  : Option Nat
  journal  : Journal
  /-- The version floor in RPMB; none while it is that of the delivered image. -/
  floor    : Option Word
  /-- The boot slot holds the delivered image, never written since. -/
  shipped  : Bool
  /-- BOOT_STAT. -/
  result   : Nat
  signerNew   : Bool
  romCopy     : Bool
  floorRaised : Bool
  /-- RESULT of a failed start that no image has recorded (R460). -/
  failed   : Nat
  /-- Groups reset at this start (R457). -/
  setReset : BitVec 16
  /-- The stored format version of each settings group, none while it is that of the delivered image; and the old version of each archived group. -/
  sets     : List (Option Nat)
  archive  : List (Option Nat)
  /-- VERSION of the running image and of the one before it; MEAS1 of the last start. -/
  runVer   : Option Word
  prevVer  : Option Word
  signer   : Option Bytes
  deriving DecidableEq, Repr

/-! ### Front-side switching (R471-R482) -/

/-- FSW beside its registers. -/
structure Fsw where
  /-- PHOTO has read dark for 60 s (R37). -/
  steadyDark : Bool
  /-- A PHOTO change became steady between the start of a reset and its 40 ms point, where the sequencer writes it (R37, R51). -/
  due   : Bool
  /-- PHOTO reads dark now, and its voltage in 0.1 V; a change waits for its 60 s (R476). -/
  dark  : Bool
  photo : Nat
  wait  : Bool
  /-- The real state of the six outputs, and those whose fault is latched (R474). -/
  on    : List Bool
  fault : List Bool
  /-- COIL_SUP is at 16 V or above; its voltage in mV. -/
  coilOk : Bool
  coilMv : Nat
  /-- The lowest output that the sequence of R475 has not reached. -/
  seq   : Option Nat
  /-- The filtered status inputs. -/
  stat  : List Bool
  deriving DecidableEq, Repr

/-- The whole module. -/
structure State where
  /-- The commands that wait, first in, first out. -/
  pending : List Instr
  /-- Variant, identity and board revision. -/
  modId : Ident
  /-- The registers of BAR0 by byte offset; a register at its reset value is not listed. -/
  regs : Sparse Word
  /-- What has left the module, newest first (the model's own record). -/
  out : List Out
  /-- The answer to the last bus access (the model's own record). -/
  resp : Resp
  /-- How many free values have been drawn (the model's own counter). -/
  free : Nat
  /-- The counter CNT as of the last timed event (R225). -/
  cnt : DWord
  /-- CNT at the last tick edge. -/
  edgeCnt : DWord
  /-- The last tick edge was an edge of network time: no transitional tick of R22 is in progress. -/
  netEdge : Bool
  /-- The endpoint and the aperture. -/
  host : HostIf
  /-- The mailbox. -/
  mbx : Mbx
  /-- The Market and the lanes. -/
  mkt : Mkt
  /-- The queues. -/
  que : Que
  /-- The check units. -/
  chk : List ChkUnit
  /-- The Ledger. -/
  ldg : Ldg
  /-- Network time. -/
  ntm : Ntm
  /-- DRAM, packet SRAM and the lanes' TCMs. -/
  mem : Mem
  /-- NVS. -/
  nvs : Nvs
  /-- The eMMC. -/
  emc : Emc
  /-- The start sequence. -/
  boot : Boot
  /-- The Pewter domain. -/
  pwt : Pwt
  /-- The vault. -/
  vlt : Vlt
  /-- The self-tests. -/
  cry : Cry
  /-- The radios. -/
  rad : List Rad
  /-- The hop list and the airtime ledgers. -/
  chn : Chn
  /-- Link security. -/
  lnk : Lnk
  /-- Beacons. -/
  bcn : Bcn
  /-- The mesh. -/
  net : Net
  /-- The corridor engine. -/
  cor : Cor
  /-- Levels and modes. -/
  lvl : Lvl
  /-- Contactors, status inputs and the photocell. -/
  fsw : Fsw
  /-- The drive ports. -/
  port : List Port
  /-- The drive frame memory and swaps. -/
  drg : Drg
  /-- Scales. -/
  scl : Scl
  /-- Energy reports. -/
  nrg : Nrg
  /-- The Ibong ring. -/
  ibg : Ibg
  /-- Ring mode changes. -/
  rmc : Rmc
  /-- Failover. -/
  fov : Fov
  /-- Firmware update. -/
  upd : Upd
  deriving DecidableEq, Repr

/-- The module right after a power-on cold reset: every register at the value the spec gives for reset (its entry in the register map), every block in reset, nothing queued. -/
def State.reset : State where
  pending := []
  modId := ⟨false, 0x41D09C2E001377F5, 0⟩
  regs := []
  out := []
  resp := .none
  free := 0
  cnt := 0
  edgeCnt := 0
  netEdge := false
  host := ⟨false, false, 0, 0, false, false, 0, 0, false, 0, none, [], [], 0⟩
  mbx := ⟨[], [], [], 0, false, false⟩
  mkt := ⟨[], [], [], List.replicate 4 ⟨[], none, false⟩, List.replicate 2 (List.replicate 8 none), [], [], [], [], [], [], [], 0, 0, 0, 0⟩
  que := ⟨List.replicate 16 ⟨[], 0, false, false, []⟩, [], []⟩
  chk := List.replicate 8 ⟨false, false⟩
  ldg := ⟨false, 0, [], 0, false, 0, 0, 0, [], [], []⟩
  ntm := ⟨0, 0, none, false, 0, 0, [none, none, none, none], none, [], [], 0, none, false, none, [], none, 0, none, none, 0, 0, false, false⟩
  mem := ⟨[], [], [], [], [], none, [], []⟩
  nvs := ⟨[], [], []⟩
  emc := ⟨[], []⟩
  boot := ⟨.reset, true, none, false, none, [], true, 0⟩
  pwt := ⟨false, List.replicate 32 0, 0, ⟨2000, 1, 1, 0, 0, 0⟩, false, 0, 0, true, true, false, 3000, false, none, false, 0, 0, true, false, [true, true]⟩
  vlt := ⟨List.replicate 64 none, List.replicate 4 (List.replicate 32 0), false, false, false, false, none, [], 0⟩
  cry := ⟨none, none⟩
  rad := List.replicate 4 ⟨[], none, none, none, [], false, false, false, none⟩
  chn := ⟨List.range 8, none, none, [], [], 0⟩
  lnk := ⟨[], 0, [1, 1, 1], [(0, 0), (0, 0), (0, 0)], none⟩
  bcn := ⟨[], none, none, 0, none, none, 0, [], 0, 0, [], none, none, none, none, 0, none⟩
  net := ⟨0, 0, 0, 0, [], [], [], 0, none, [], 0, false, false, (0, 0, 0), none, []⟩
  cor := ⟨[[], []], [], 0, [], none, none, none, none, ⟨List.replicate 64 0, List.replicate 64 1000, 1024⟩, [], [], [], [], 0, [], none, [], 0, none, none⟩
  lvl := ⟨none, 0, 254, [], [], [], none, none, none, 0, [], [], none, [], [], [], none, none, none, none, 0, none, [], 0, false, 0, none, none, [], none⟩
  fsw := ⟨false, false, false, 0, false, List.replicate 6 false, List.replicate 6 false, true, 24000, none, List.replicate 8 false⟩
  port := List.replicate 4 portOff
  drg := drgOff
  scl := sclOff
  nrg := ⟨900, 600, none, [], [], none, (0, 0)⟩
  ibg := ibgOff
  rmc := ⟨none, none, []⟩
  fov := fovOff
  upd := ⟨.idle, [], 0, 0, 0, none, .idle, none, true, 0, false, false, false, 0, 0, List.replicate 16 none, List.replicate 16 none, none, none, none⟩

end Sys2Proof.Machine
end

