-- ==== Sys2Proof/Machine/Regs.lean ====
section
/-! DEFINITION. Reading and writing the register file, the header fields of a block, and drawing free values. -/

namespace Sys2Proof.Machine

open Sys2Proof

/-- The value a register holds. -/
def State.rd (s : State) (a : Nat) : Word := Sparse.get (regDefault s.modId.variantB) s.regs a

/-- Store a value in a register. -/
def State.wr (s : State) (a : Nat) (v : Word) : State :=
  { s with regs := Sparse.set (regDefault s.modId.variantB) s.regs a v }

/-- A field of a register, as a number. -/
def State.rf (s : State) (a lo n : Nat) : Nat := fld (s.rd a) lo n

/-- Store a field of a register. -/
def State.wf (s : State) (a lo n v : Nat) : State := s.wr a (setFld (s.rd a) lo n v)

/-- A register as a number. -/
def State.rn (s : State) (a : Nat) : Nat := (s.rd a).toNat

/-- Bit i of a register. -/
def State.rb (s : State) (a i : Nat) : Bool := tst (s.rd a) i

/-- Store bit i of a register. -/
def State.wb (s : State) (a i : Nat) (v : Bool) : State := s.wr a (setBit (s.rd a) i v)

/-- Add to a counting register that saturates. -/
def State.bumpSat (s : State) (a n : Nat) : State := s.wr a (satAdd (s.rd a) n)

/-- Add to a counting register that wraps. -/
def State.bump (s : State) (a n : Nat) : State := s.wr a (s.rd a + w32 n)

/-- Two registers as one 64-bit value, low word first. -/
def State.rd64 (s : State) (lo hi : Nat) : Nat := s.rn lo + 2 ^ 32 * s.rn hi

/-- Store a 64-bit value in two registers. -/
def State.wr64 (s : State) (lo hi v : Nat) : State := (s.wr lo (w32 v)).wr hi (w32 (v / 2 ^ 32))

/-- Put one thing on the module's outputs. -/
def State.emit (s : State) (o : Out) : State := { s with out := o :: s.out }

/-- Answer the bus access. -/
def State.answer (s : State) (r : Resp) : State := { s with resp := r }

/-- PAGE_CTRL.EN of a block. -/
def State.en (s : State) (b : Blk) : Bool := s.rb (hdr b oCtrl) 0

/-- PAGE_CTRL.DRAIN of a block. -/
def State.drainBit (s : State) (b : Blk) : Bool := s.rb (hdr b oCtrl) 1

/-- PAGE_STAT.DRAINED of a block. -/
def State.drained (s : State) (b : Blk) : Bool := s.rb (hdr b oStat) 1

/-- PAGE_LOCK.LOCK of a block. -/
def State.locked (s : State) (b : Blk) : Bool := s.rb (hdr b oLock) 0

/-- The block is in reset: its bit in RST.BLK_IN_RESET (R54). A block without a bit is in reset while main power is absent, and SYS also until the 2 ms point of a start (R44). -/
def State.inReset (s : State) (b : Blk) : Bool :=
  match blkBit b with
  | none => decide (s.boot.stage = .off) || (decide (b = .sys) && decide (s.boot.stage = .reset))
  | some i => if i < 32 then s.rb R.rst_BLK_IN_RESET_A i else s.rb R.rst_BLK_IN_RESET_B (i - 32)

/-- A bit of one of RST's pairs of bitmap registers. -/
def State.rstBit (s : State) (a : Nat) (i : Nat) : Bool :=
  if i < 32 then s.rb a i else s.rb (a + 4) (i - 32)

/-- Store a bit of one of RST's pairs of bitmap registers. -/
def State.setRstBit (s : State) (a : Nat) (i : Nat) (v : Bool) : State :=
  if i < 32 then s.wb a i v else s.wb (a + 4) (i - 32) v

/-- The block takes new work: out of reset, enabled and not paused by DRAIN (R68). -/
def State.takes (s : State) (b : Blk) : Bool := !s.inReset b && s.en b && !s.drainBit b

/-- The block runs: out of reset and enabled. -/
def State.runs (s : State) (b : Blk) : Bool := !s.inReset b && s.en b

/-- The block drains or pauses and has not finished (R68). -/
def State.draining (s : State) (b : Blk) : Bool :=
  (!s.en b || s.drainBit b) && !s.drained b && !s.inReset b

/-- Advance the counter that numbers the free values drawn. -/
def State.draw (s : State) (n : Nat) : State := { s with free := s.free + n }

end Sys2Proof.Machine
end

