-- ==== Sys2Proof/Machine/Flags.lean ====
section
/-! DEFINITION. Status and interrupt flags: the interrupt registers and vectors of a block (R63, R64), the error register (R70) and the drain flags (R68). -/

namespace Sys2Proof.Machine

open Sys2Proof

/-- The vectors of a block, each with the IRQ_STAT bits mapped to it (R63). MBX's bit 1, which the model raises for an event, goes to vector 53 and its other bits to vector 52 (DESIGN CHOICE, log 49). -/
def blkVecs : Blk → List (Nat × Word)
  | .sys => [(0, 0xFFFFFFFF)] | .rst => [(1, 0xFFFFFFFF)] | .clk => [(1, 0xFFFFFFFF)] | .pwr => [(2, 0xFFFFFFFF)]
  | .pwt => [(3, 0xFFFFFFFF)] | .mkt => [(4, 0xFFFFFFFF)] | .lane n => [(5 + n.val, 0xFFFFFFFF)]
  | .que => (9, 0xC0030001) :: (List.range 15).map fun i => (10 + i, bitw (i + 1))
  | .chk => [(25, 0xFFFFFFFF)] | .mem => [(26, 0xFFFFFFFF)] | .nvs => [(27, 0xFFFFFFFF)] | .emc => [(28, 0xFFFFFFFF)]
  | .rad n => [(29 + n.val, 0xFFFFFFFF)] | .chn => [(33, 0xFFFFFFFF)] | .lnk => [(34, 0xFFFFFFFF)]
  | .bcn => [(35, 0xFFFFFFFF)] | .ntm => [(36, 0xFFFFFFFF)] | .cor => [(37, 0xFFFFFFFF)] | .lvl => [(38, 0xFFFFFFFF)]
  | .drv n => [(39 + n.val, 0xFFFFFFFF)] | .drg => [(43, 0xFFFFFFFF)] | .scl => [(44, 0xFFFFFFFF)] | .fsw => [(45, 0xFFFFFFFF)]
  | .vlt => [(46, 0xFFFFFFFF)] | .cry => [(47, 0xFFFFFFFF)] | .ldg => [(48, 0xFFFFFFFF)] | .ibg => [(49, 0xFFFFFFFF)]
  | .fov => [(50, 0xFFFFFFFF)] | .upd => [(51, 0xFFFFFFFF)] | .mbx => [(52, 0xFFFFFFFD), (53, 2)]

/-- IRQ_STAT of a block: IRQ_RAW AND IRQ_EN (R67). -/
def State.irqStat (s : State) (b : Blk) : Word := s.rd (hdr b oRaw) &&& s.rd (hdr b oEn)

/-- The address of the control word of an MSI-X table entry. -/
def msixCtl (v : Nat) : Nat := 0xF00000 + 16 * v + 12

/-- The condition of a vector of block b: the OR of the IRQ_STAT bits mapped to it (R64). RST and CLK share vector 1. -/
def State.vecCond (s : State) (b : Blk) (p : Nat × Word) : Bool :=
  if p.1 = 1 then s.irqStat .rst ≠ 0 || s.irqStat .clk ≠ 0 else (s.irqStat b &&& p.2) ≠ 0

/-- Send the message of a vector, or set its PBA bit while the vector is masked (R64). -/
def State.fireVec (s : State) (v : Nat) : State :=
  if s.rb (msixCtl v) 0 then { s with host := { s.host with pba := s.host.pba ||| BitVec.ofNat 64 (2 ^ v) } }
  else s.emit (.msi v)

/-- Fire each listed vector of a block whose condition went from 0 to 1 between two states. -/
def fireRising (b : Blk) (old : State) : List (Nat × Word) → State → State
  | [], s => s
  | p :: r, s => fireRising b old r (if !old.vecCond b p && s.vecCond b p then s.fireVec p.1 else s)

/-- Change the interrupt registers of a block, with the messages that follow (R64). -/
def State.irqChange (s : State) (b : Blk) (f : State → State) : State :=
  fireRising b s (blkVecs b) (f s)

/-- Set bits of IRQ_RAW: only bits of the block's interrupts and bits 30 and 31 exist (R67). -/
def State.irqBits (s : State) (b : Blk) (v : Word) : State :=
  s.irqChange b fun t => t.wr (hdr b oRaw) (t.rd (hdr b oRaw) ||| (v &&& w32 (2 ^ blkIrqN b - 1 + 0xC0000000)))

/-- Raise one interrupt bit of a block. -/
def State.irq (s : State) (b : Blk) (i : Nat) : State := s.irqBits b (bitw i)

/-- Fire each listed vector of a block whose condition holds. -/
def fireHolding (b : Blk) : List (Nat × Word) → State → State
  | [], s => s
  | p :: r, s => fireHolding b r (if s.vecCond b p then s.fireVec p.1 else s)

/-- A W1C write of IRQ_RAW: a vector whose condition still holds after it fires again (R64). -/
def State.irqClear (s : State) (b : Blk) (v : Word) : State :=
  fireHolding b (blkVecs b) (s.wr (hdr b oRaw) (s.rd (hdr b oRaw) &&& ~~~v))

/-- A write of IRQ_EN. -/
def State.irqEnable (s : State) (b : Blk) (v : Word) : State :=
  s.irqChange b fun t => t.wr (hdr b oEn) (v &&& w32 (2 ^ blkIrqN b - 1 + 0xC0000000))

/-- Record an error in ERR_CODE: the first error since the last read is kept, every error counts, and interrupt bit 31 is raised (R70). -/
def State.err (s : State) (b : Blk) (code off : Nat) (m : Master) : State :=
  let e := s.rn (hdr b oErr)
  let e' := if e = 0 then code % 256 + off % 0x1000 * 2 ^ 8 + masterSrc m * 2 ^ 20 + 2 ^ 24
            else if e / 2 ^ 24 < 255 then e + 2 ^ 24 else e
  (s.wr (hdr b oErr) (w32 e')).irq b 31

/-- The common error codes of R70. -/
abbrev eNarrowWrite : Nat := 0x01
abbrev eNarrowRead : Nat := 0x02
abbrev eLocked : Nat := 0x03
abbrev eBadKey : Nat := 0x04
abbrev eBadValue : Nat := 0x05
abbrev eBusy : Nat := 0x06
abbrev eDropped : Nat := 0x07
abbrev eRelTimeout : Nat := 0x08
abbrev eNoTime : Nat := 0x09
abbrev eKillIgnored : Nat := 0x0A
abbrev eMultiDw : Nat := 0x10
abbrev eUnmapped : Nat := 0x11
abbrev eClosed : Nat := 0x12
abbrev ePoisoned : Nat := 0x13

/-- Set PAGE_STAT.DRAINED; its change from 0 to 1 raises interrupt bit 30 (R67, R68). -/
def State.setDrained (s : State) (b : Blk) : State :=
  if s.drained b then s else (s.wb (hdr b oStat) 1 true).irq b 30

/-- Raise firmware vectors through SW_IRQ_PEND (R63): a vector whose bit goes from 0 to 1 fires. -/
def fireSw (old new : Word) : List Nat → State → State
  | [], s => s
  | i :: r, s => fireSw old new r (if !tst old i && tst new i then s.fireVec (54 + i) else s)

/-- Fire every firmware vector whose pending bit still reads 1. -/
def fireSwHolding (new : Word) : List Nat → State → State
  | [], s => s
  | i :: r, s => fireSwHolding new r (if tst new i then s.fireVec (54 + i) else s)

end Sys2Proof.Machine
end

