-- ==== Sys2Proof/Machine/Ops.lean ====
section
/-! DEFINITION. Operations shared by the families: network time and ticks, Ledger acceptance, mailbox replies and events, and byte stores. -/

namespace Sys2Proof.Machine

open Sys2Proof

/-! ### Time -/

/-- NTM_STAT.STATE: 0 NONE, 1 ACQUIRE, 2 LOCKED, 3 HOLDOVER (R228). -/
def State.tmState (s : State) : Nat := s.rf R.ntm_NTM_STAT 0 3

/-- The module holds network time (R21, R228). -/
def State.holds (s : State) : Bool := decide (s.tmState ≠ 0)

/-- The full number of the tick in progress: the network tick while the module holds time, otherwise the local tick (R22). -/
def State.tick (s : State) : Nat := if s.holds then s.ntm.tick else s.ntm.localTick

/-- The low 32 bits of the tick in progress (R7). -/
def State.tick32 (s : State) : Word := w32 s.tick

/-- The tick in progress is a repeated tick (R489): it began after a step back and its number has been passed. The tick at whose edge the step fell is not one. -/
def State.repeated (s : State) : Bool :=
  match s.ntm.passed with
  | some p => s.holds && !s.ntm.stepHold && decide (s.ntm.tick ≤ p)
  | none => false

/-- A network tick edge began the tick in progress: the module has slots (R154), and R22's transitional tick is over. -/
def State.onNet (s : State) : Bool := s.holds && s.netEdge

/-- The superframe in progress. -/
def State.sf (s : State) : Nat := s.tick / 256

/-- RATE as a signed number, in units of 2^-48. -/
def State.rate (s : State) : Int := sInt (s.rd R.ntm_RATE)

/-- OFFSET in units of 2^-16 ns. -/
def State.ntOffset (s : State) : Nat := s.rd64 R.ntm_OFFSET_NS_LO R.ntm_OFFSET_NS_HI * 2 ^ 16 + s.rf R.ntm_OFFSET_FRAC 0 16

/-- R226: the network time at counter value c, in units of 2^-16 ns, rounded down. -/
def State.nt (s : State) (c : DWord) : Nat :=
  let d : Nat := (c - BitVec.ofNat 64 (s.rd64 R.ntm_ANCHOR_LO R.ntm_ANCHOR_HI)).toNat
  ((s.ntOffset : Int) + (d : Int) * 2 ^ 18 * (2 ^ 48 + s.rate) / 2 ^ 48).toNat % 2 ^ 80

/-- The network time at a counter value, in whole ns. -/
def State.ntNs (s : State) (c : DWord) : Nat := s.nt c / 2 ^ 16

/-- The latest counter value a command has carried: CNT only runs forward (R225). -/
def State.at (s : State) (c : DWord) : State := { s with cnt := if (c - s.cnt).toNat < 2 ^ 63 then c else s.cnt }

/-- R23: an apply tick can be accepted now: the module holds network time, and the tick does not lie in the repeated span (R489). -/
def State.timeFor (s : State) (t : Word) : Bool :=
  s.holds && (match s.ntm.passed with
    | some p => decide (p < s.ntm.tick) || later t (w32 p)
    | none => true)

/-! ### The Ledger -/

/-- The sequence number after n (R398). -/
def seqNext (n : Nat) : Nat := if n = 0xFFFFFFFF then 4096 else n + 1

/-- Operating time at the current counter value, in units of 4 ns (R397). -/
def State.opTime (s : State) : Nat := s.ldg.opBase + (s.cnt - s.ldg.opCnt).toNat

/-- The records of one group, stamped at acceptance (R401, R402). -/
def stampGroup (code sev src opsec opfrac cyc : Nat) (nt : Bool) : Nat → Bool → List (Word × Word × Word) → List Rec
  | _, _, [] => []
  | q, c, (a, b, d) :: r => ⟨code, sev, src, opsec, opfrac, cyc, q, a, b, d, c, nt⟩ :: stampGroup code sev src opsec opfrac cyc nt (seqNext q) true r

/-- The sequence number after a group of n records. -/
def seqAfter : Nat → Nat → Nat
  | 0, q => q
  | n + 1, q => seqAfter n (seqNext q)

/-- The Ledger can accept a group of n records (R403, R413). -/
def State.ldgRoom (s : State) (n : Nat) : Bool := s.takes .ldg && decide (s.ldg.fifo.length + n ≤ 64)

/-- Accept a group of records, or refuse it whole with LDG_FULL, LOST_CNT and interrupt LOST (R402, R403). A submission while LDG is in reset is dropped and recorded (R47). -/
def State.logGroup (s : State) (m : Master) (code sev src : Nat) (ps : List (Word × Word × Word)) : State :=
  if s.inReset .ldg then s.err .ldg eDropped 0x60 m
  else if s.ldgRoom ps.length then
    let t := s.opTime
    let rs := stampGroup code sev src (t / 250000000) (t % 250000000 * 256 / 250000000) (s.rf R.pwt_PWRCYC 0 24) s.holds s.ldg.nextSeq false ps
    { s with ldg := { s.ldg with fifo := s.ldg.fifo ++ rs, nextSeq := seqAfter ps.length s.ldg.nextSeq } }
  else
    let s := { s with ldg := { s.ldg with lostDue := s.ldg.lostDue + ps.length } }
    ((s.bumpSat R.ldg_LOST_CNT ps.length).err .ldg 0x80 0x60 m).irq .ldg 1

/-- A record that the firmware writes for a block (R396). -/
def State.ledger (s : State) (code sev src : Nat) (p0 p1 p2 : Nat) : State :=
  s.logGroup .svc code sev src [(w32 p0, w32 p1, w32 p2)]

/-- R23: a refused apply tick is counted in the Ledger with the refusing block and the tick named. -/
def State.noTime (s : State) (b : Blk) (t : Word) : State :=
  s.ledger 0xE005 2 (blkSrc b) (blkCode b) t.toNat 0

/-! ### The mailbox -/

/-- Reply status codes (R75). -/
abbrev stOk : Nat := 0
abbrev stCancelled : Nat := 1
abbrev stBadOpcode : Nat := 2
abbrev stBadLength : Nat := 3
abbrev stBadParam : Nat := 4
abbrev stBusy : Nat := 5
abbrev stNoTime : Nat := 6
abbrev stDenied : Nat := 7
abbrev stDmaFault : Nat := 8
abbrev stFault : Nat := 9
abbrev stLate : Nat := 10

/-- The number of entries in the M2H ring. -/
def State.m2hFill (s : State) : Nat := (s.rn R.mbx_M2H_TAIL + 65536 - s.rn R.mbx_M2H_HEAD) % 65536

/-- The M2H ring is configured (R72). -/
def State.m2hUp (s : State) : Bool := decide (s.rf R.mbx_M2H_CFG 0 4 ≠ 0)

/-- The M2H ring has room for an entry. -/
def State.m2hRoom (s : State) : Bool := s.m2hUp && decide (s.m2hFill < 2 ^ s.rf R.mbx_M2H_CFG 0 4)

/-- The 64 little-endian bytes of a ring entry (R73). -/
def entryBytes (e : MbxEntry) : Bytes :=
  toLe 2 e.opcode ++ toLe 2 (e.flags % 256) ++ toLe 4 e.tag.toNat ++ toLe 4 e.length ++ toLe 4 e.status ++ toLe 8 e.addr.toNat ++
    toLe 8 e.apply.toNat ++ slice e.param 0 32

/-- The fields of a ring entry's 64 bytes (R73). -/
def entryOf (b : Bytes) : MbxEntry :=
  ⟨le b 0 2, le b 2 1, leWord b 4, le b 8 4, le b 12 4, BitVec.ofNat 64 (le b 16 8), leWord b 24, slice b 32 32⟩

/-- The bus address of the next entry of the M2H ring: M2H_TAIL mod 2^n entries of 64 bytes above its base (R72). -/
def State.m2hSlot (s : State) : Nat :=
  s.rd64 R.mbx_M2H_BASE_LO R.mbx_M2H_BASE_HI + 64 * (s.rn R.mbx_M2H_TAIL % 2 ^ s.rf R.mbx_M2H_CFG 0 4)

/-- Write an entry to the M2H ring, its data to host memory first (R72, R73); interrupt bit 0 is raised for a reply and bit 1 for an event (DESIGN CHOICE, log 49). -/
def State.putM2h (s : State) (o : MbxOut) : State :=
  let data := if o.data.isEmpty then s.out else .hostWrite o.e.addr.toNat o.data :: s.out
  let s := { s with mbx := { s.mbx with m2h := o :: s.mbx.m2h }, out := .hostWrite s.m2hSlot (entryBytes o.e) :: data }
  (s.wr R.mbx_M2H_TAIL (w32 ((s.rn R.mbx_M2H_TAIL + 1) % 65536))).irq .mbx (if o.e.flags = 2 then 1 else 0)

/-- Write the replies that wait while the ring has room; replies are never dropped (R79). -/
def flushHeld : Nat → State → State
  | 0, s => s
  | n + 1, s =>
    match s.mbx.held with
    | [] => s
    | o :: r => if s.m2hRoom then flushHeld n ({ s with mbx := { s.mbx with held := r } }.putM2h o) else s

/-- Queue a reply and write what the ring has room for. -/
def State.putReply (s : State) (o : MbxOut) : State :=
  flushHeld (s.mbx.held.length + 1) { s with mbx := { s.mbx with held := s.mbx.held ++ [o] } }

/-- Reply to a taken command: status, apply tick, 32 bytes of results, and the data written to ADDR. The command is no longer outstanding (R74). -/
def State.replyAt (s : State) (c : Cmd) (status : Nat) (apply : Word) (param data : Bytes) : State :=
  let s := { s with mbx := { s.mbx with taken := s.mbx.taken.filter fun x => x.e.tag != c.e.tag } }
  s.putReply ⟨⟨c.e.opcode, 0, c.e.tag, data.length, status, c.e.addr, apply, slice param 0 32⟩, data⟩

/-- Reply with the tick of completion in APPLY (R73). -/
def State.reply (s : State) (c : Cmd) (status : Nat) (param data : Bytes) : State :=
  s.replyAt c status s.tick32 param data

/-- Mark a command as started, its reply to come later. -/
def State.defer (s : State) (c : Cmd) : State :=
  { s with mbx := { s.mbx with taken := s.mbx.taken.map fun x => if x.e.tag = c.e.tag then { x with started := true } else x } }

/-- The commands before a tag in the list of taken commands. -/
def cmdsBefore (tag : Word) : List Cmd → List Cmd
  | [] => []
  | c :: r => if c.e.tag = tag then [] else c :: cmdsBefore tag r

/-- A taken command may start: no earlier command carries FENCE, and one with FENCE has no earlier command outstanding and no reply that still waits to be written (R74). -/
def canStart (m : Mbx) (c : Cmd) : Bool :=
  let b := cmdsBefore c.e.tag m.taken
  (b.all fun x => x.e.flags % 2 = 0) && (c.e.flags % 2 = 0 || (b.isEmpty && m.held.isEmpty))

/-- The taken command of an opcode and tag that may start now and has not started. -/
def State.startable (s : State) (opc : Nat) (tag : Word) : Option Cmd :=
  s.mbx.taken.find? fun c => c.e.tag = tag && c.e.opcode = opc && !c.started && canStart s.mbx c

/-- Run a taken command. Without one of this opcode and tag that may start, nothing happens. A nonzero APPLY is refused with NO_TIME while the module holds no time (R23), and with LATE when it lies earlier than two ticks after the tick in which the command was taken (R74); a command whose data could not be fetched is answered DMA_FAULT (R75). -/
def State.withCmd (s : State) (opc : Nat) (tag : Word) (f : Cmd → State → State) : State :=
  match s.startable opc tag with
  | none => s
  | some c =>
    if c.data = none then s.reply c stDmaFault [] []
    else if c.e.apply ≠ 0 && !s.timeFor c.e.apply then (s.noTime .mbx c.e.apply).reply c stNoTime [] []
    else if c.e.apply ≠ 0 && !notEarlier c.e.apply (c.takenAt + 2) then s.reply c stLate [] []
    else f c s

/-- A started command of an opcode whose reply is due. -/
def State.startedCmd (s : State) (opc : Nat) : Option Cmd :=
  s.mbx.taken.find? fun c => c.e.opcode = opc && c.started

/-- The parameter bytes of a command. -/
def Cmd.par (c : Cmd) (i n : Nat) : Nat := le c.e.param i n

/-- The data bytes of a command. -/
def Cmd.bytes (c : Cmd) : Bytes := c.data.getD []

/-- Cut a string of PARAM bytes into the parameter triples of a Ledger group: 12 bytes for each record, at least one record (R405). -/
def paramTriples (n : Nat) (p : Bytes) : List (Word × Word × Word) :=
  let q := slice p 0 36
  let t (i : Nat) := (leWord q i, leWord q (i + 4), leWord q (i + 8))
  if n ≤ 12 then [t 0] else if n ≤ 24 then [t 0, t 12] else [t 0, t 12, t 24]

/-- An event: recorded in the Ledger with its own code (R79, R405), and written to the M2H ring while the host is present; an event that finds the ring full is dropped and counted. -/
def State.event (s : State) (code src : Nat) (param : Bytes) : State :=
  let s := s.logGroup .svc code (Config.eventSev code).val src (paramTriples param.length param)
  if !s.host.present then s
  else if s.m2hRoom && s.mbx.held.isEmpty then s.putM2h ⟨⟨code, 2, 0, 0, 0, 0, s.tick32, slice param 0 32⟩, []⟩
  else { s with mbx := { s.mbx with evtLost := min (s.mbx.evtLost + 1) 255 } }

/-! ### Byte stores -/

/-- Free bytes that stand for data that a codeword error has altered unseen. -/
def freeBytes (k : Nat) : Nat → Bytes
  | 0 => []
  | n + 1 => Config.freeByte k :: freeBytes (k + 1) n

/-- What an unwritten byte of a store reads as. -/
def byteDflt (_ : Nat) : Byte := 0

/-- One byte of a store. -/
def memGet (m : Sparse Byte) (a : Nat) : Byte := Sparse.get byteDflt m a

/-- Store one byte. -/
def memSet (m : Sparse Byte) (a : Nat) (v : Byte) : Sparse Byte := Sparse.set byteDflt m a v

/-- n bytes of a store from address a. -/
def memRead (m : Sparse Byte) (a : Nat) : Nat → Bytes
  | 0 => []
  | n + 1 => memGet m a :: memRead m (a + 1) n

/-- Store bytes from address a upward. -/
def memWrite (m : Sparse Byte) (a : Nat) : Bytes → Sparse Byte
  | [] => m
  | x :: r => memWrite (memSet m a x) (a + 1) r

/-- The little-endian number of n bytes of a store. -/
def memLe (m : Sparse Byte) (a n : Nat) : Nat := leFirst n (memRead m a n)

/-- Memory holds its canonical form: addresses strictly rising, and no entry equal to what an unlisted address reads as. -/
abbrev Memory.wf (m : Sparse Byte) : Bool := Sparse.wf byteDflt m

end Sys2Proof.Machine
end

