-- ==== Sys2Proof/Machine/Access.lean ====
section
/-! DEFINITION. A register access to a page: the answer while the block is in reset (R45, R47), staging words, and writes by access type (R11). -/

namespace Sys2Proof.Machine

open Sys2Proof

/-- R141: the BAR0 offset that a master's address names: the offset itself for the host, the address above 0x2000_0000 for an internal master, none outside the register pages. -/
def busOff (m : Master) (a : Nat) : Option Nat :=
  match m with
  | .host => some a
  | _ => if 0x20000000 ≤ a ∧ a < 0x21000000 then some (a - 0x20000000) else none

/-- The answer to an access that a block in reset drops: completer abort for the host, a bus error for an internal master (R47). -/
def resetResp : Master → Resp
  | .host => .abort
  | _ => .busError

/-- R460: in a dead module every page but SYS and RST is closed. -/
def State.shut (s : State) (b : Blk) : Bool := decide (s.boot.stage = .dead) && !(decide (b = .sys) || decide (b = .rst))

/-- An access to a page: dropped and recorded while its block is in reset (R45, R47), and aborted in a dead module (R460). -/
def State.onPage (s : State) (b : Blk) (off : Nat) (m : Master) (f : State → State) : State :=
  if s.inReset b then (s.err b eDropped off m).answer (resetResp m)
  else if s.shut b then s.answer (resetResp m)
  else f s

/-! ### Host requests behind a blocked TAKE1 read (R104) -/

/-- A read of a take register keeps the endpoint's one completer for BAR0. -/
def State.hostBlocked (s : State) : Bool := s.mkt.takers.any fun x => decide (x.2 = Master.host)

/-- A later host request to BAR0 waits: the read blocks still, or earlier requests wait. -/
def State.hostWaits (s : State) : Bool := s.hostBlocked || !s.host.bar0Held.isEmpty

/-- A request to BAR0: one of the host waits behind a blocked TAKE1 read; any other is served. -/
def State.barReq (s : State) (m : Master) (r : Bar0Req) (f : State → State) : State :=
  if decide (m = .host) && s.hostWaits then { s with host := { s.host with bar0Held := s.host.bar0Held ++ [r] } }.answer .stalled
  else f s

/-- A write of a word at an offset into a block's pages, as a request to BAR0. -/
def State.writeAt (s : State) (b : Blk) (off : Nat) (m : Master) (v : Word) (f : State → State) : State :=
  s.barReq m (.write (blkBase b + off) v) fun t => t.onPage b (off % 0x1000) m f

/-- A read at an offset into a block's pages, as a request to BAR0. -/
def State.readAt (s : State) (b : Blk) (off : Nat) (m : Master) (f : State → State) : State :=
  s.barReq m (.read (blkBase b + off)) fun t => t.onPage b (off % 0x1000) m f

/-- A request that reads. -/
def isRead : Bar0Req → Bool
  | .read _ => true
  | .narrow w _ | .multiDw w _ => !w
  | .write _ _ => false

/-- The reset of a warm start answers the host requests that wait with Completer Abort; a write is dropped. -/
def abortBar0 (l : List Bar0Req) (s : State) : State := l.foldl (fun t r => if isRead r then t.emit (.bar0Done .abort) else t) s

/-- R11: the value a register takes from a software write, by the access type of each bit. -/
def rowWrite (r : RegRow) (locked : Bool) (old v : Word) : Word :=
  let wr := if locked then r.wr &&& ~~~r.lk else r.wr
  ((merge wr old v) &&& ~~~(v &&& r.w1c)) ||| (v &&& r.w1s)

/-- A software write of a register without a rule of its own: by access type, with LOCKED recorded for an RWL field of a locked page (R10, R11, R71). -/
def State.plainWrite (s : State) (b : Blk) (a : Nat) (m : Master) (v : Word) : State :=
  match findRow a with
  | none => s
  | some r =>
    let lk := s.locked b
    let s := if lk && decide (r.lk ≠ 0) then s.err b eLocked (a % 0x1000) m else s
    s.wr a (rowWrite r lk (s.rd a) v)

/-- A software write that a lock refuses whole: recorded as LOCKED, otherwise f acts. -/
def State.unlessLocked (s : State) (b : Blk) (off : Nat) (m : Master) (f : State → State) : State :=
  if s.locked b then s.err b eLocked off m else f s

end Sys2Proof.Machine
end

