-- ==== Sys2Proof/Machine/Queues.lean ====
section
/-! DEFINITION. Queues and check-value units (R112-R126). -/

namespace Sys2Proof.Machine

open Sys2Proof

/-! ### Queues -/

/-- A queue by its number. -/
def State.queue (s : State) (q : Nat) : Queue := s.que.q.getD q ⟨[], 0, false, false, []⟩

/-- Replace a queue. -/
def State.setQueue (s : State) (q : Nat) (x : Queue) : State := { s with que := { s.que with q := setAt s.que.q q x } }

/-- QCFGq.QEN. -/
def State.qen (s : State) (q : Nat) : Bool := s.rb (R.que_QCFGq q) 0

/-- The number of entries a queue can hold. -/
def State.qsize (s : State) (q : Nat) : Nat := 2 ^ s.rf (R.que_QCFGq q) 4 4

/-- QUE takes pushes: enabled and not in drain (R121). -/
def State.queTakes (s : State) : Bool := s.takes .que

/-- The kind of a packet-mode entry, bits 62:56 (R119). -/
def entKind (v : DWord) : Nat := v.toNat / 2 ^ 56 % 128

/-- R120: the entry keeps the header, data and last order of packet mode. -/
def pktOrder (x : Queue) (v : DWord) : Bool :=
  let k := entKind v
  if x.inProd then k = 0x41 || k = 0x42 || k = 0x43 else k = 0x40

/-- Append an entry, with the high-water mark and the level interrupt (R118). -/
def State.pushEnt (s : State) (q : Nat) (v : DWord) : State :=
  let x := s.queue q
  let n := x.ents.length
  let lvl := s.rf (R.que_QCFGq q) 16 13
  let pkt := s.rb (R.que_QCFGq q) 1
  let x' := { x with ents := x.ents ++ [⟨v, false⟩], high := max x.high (n + 1),
                     inProd := if pkt then decide (entKind v = 0x40 ∨ entKind v = 0x41) else x.inProd }
  let s := s.setQueue q x'
  if lvl ≠ 0 ∧ n < lvl ∧ lvl ≤ n + 1 then s.irq .que q else s

/-- Count a refused push in QDROP. -/
def State.qdrop (s : State) (q : Nat) : State := s.bumpSat (R.que_QDROPq q) 1

/-- A refused push that is recorded as QUE_FULL or QUEUE_OFF and raises OVERFLOW (R115). -/
def State.qrefuse (s : State) (q code off : Nat) (m : Master) : State := ((s.qdrop q).err .que code off m).irq .que 16

/-- R114, R115, R120: a software push of the entry that PUSH_LO and this PUSH_HI value make. -/
def State.qpush (s : State) (m : Master) (q : Nat) (hi : Word) : State :=
  let off := 0x44 + 8 * q
  let lo := (Sparse.find s.que.pushLo (16 * masterIx m + q)).getD 0
  let v : DWord := BitVec.ofNat 64 (hi.toNat * 2 ^ 32 + lo.toNat)
  if !tst hi 31 then (s.qdrop q).err .que 0x81 off m
  else if !s.qen q || !s.queTakes then s.qrefuse q 0x82 off m
  else if s.rb (R.que_QCFGq q) 1 && !pktOrder (s.queue q) v then (s.qdrop q).err .que 0x81 off m
  else if s.qsize q ≤ (s.queue q).ents.length then s.qrefuse q 0x80 off m
  else s.pushEnt q v

/-- QUEUE_PUSH: a write of PUSH_HIq. -/
def execQueuePush (m : Master) (q : Fin 16) (v : Word) (s : State) : Host.Outcome State Fault Refusal :=
  .next (s.writeAt .que (0x1044 + 8 * q.val) m v fun t => (t.qpush m q.val v).answer .done)

/-- Let hardware producers push what they hold for a queue: an entry that breaks packet order is dropped and counted, one that finds no room waits (R115, R120). -/
def hwDrain : Nat → Nat → State → State
  | 0, _, s => s
  | n + 1, q, s =>
    let x := s.queue q
    match x.hw with
    | [] => s
    | v :: r =>
      if !s.qen q || !s.queTakes then s
      else if s.rb (R.que_QCFGq q) 1 && !pktOrder x v then
        hwDrain n q (((s.setQueue q { x with hw := r }).qdrop q).err .que 0x81 (0x44 + 8 * q) .block)
      else if s.qsize q ≤ x.ents.length then s
      else hwDrain n q ((s.setQueue q { x with hw := r }).pushEnt q v)

/-- A hardware producer pushes an entry, behind those already held for the queue. -/
def State.hwPush (s : State) (q : Nat) (v : DWord) : State :=
  let x := s.queue q
  hwDrain (x.hw.length + 1) q (s.setQueue q { x with hw := x.hw ++ [v] })

/-- QUEUE_HW_PUSH: the entries held for a queue are pushed once it has room. -/
def execQueueHwPush (q : Fin 16) (s : State) : Host.Outcome State Fault Refusal :=
  .next (if s.inReset .que then s else hwDrain ((s.queue q.val).hw.length + 1) q.val s)

/-- The entries of the head packet present in a queue, up to its last-data or abort entry. -/
def headPacket : List QEnt → List QEnt
  | [] => []
  | e :: r => if entKind e.v = 0x42 ∨ entKind e.v = 0x43 then [e] else e :: headPacket r

/-- The head packet has reached its cut-through point or its end (R120). -/
def State.poppable (s : State) (q : Nat) : Bool :=
  let p := headPacket (s.queue q).ents
  let ct := s.rf (R.que_QCTq q) 0 12
  (p.any fun e => entKind e.v = 0x42 || entKind e.v = 0x43) || (decide (ct ≠ 0) && decide (ct ≤ p.length))

/-- R112, R128: what the store's symbol code makes of an error that a read meets in the head entry: an error in one symbol is corrected, one in two symbols leaves the entry uncorrectable, one in three or more may be detected, miscorrected or missed. -/
def State.qmeet (s : State) (q : Nat) (e : Option CwErr) : State :=
  match e, (s.queue q).ents with
  | some .two, x :: l => s.setQueue q { s.queue q with ents := { x with poison := true } :: l }
  | some .many, x :: l =>
    if Config.freeBit s.free then (s.setQueue q { s.queue q with ents := { x with poison := true } :: l }).draw 1
    else (s.setQueue q { s.queue q with ents := ⟨BitVec.ofNat 64 (leFirst 8 (freeBytes (s.free + 1) 8)), x.poison⟩ :: l }).draw 9
  | _, _ => s

/-- The reason a read of a queue gives no entry, or none (R116). -/
def State.qreason (s : State) (q : Nat) : Option Nat :=
  let x := s.queue q
  let pkt := s.rb (R.que_QCFGq q) 1
  if !s.qen q then some 0x02
  else match x.ents with
    | [] => if !s.queTakes then some 0x02 else if pkt && x.inCons then some 0x04 else some 0x01
    | e :: _ =>
      if e.poison then some 0x05
      else if pkt && !x.inCons && !s.poppable q then some 0x03
      else none

/-- The word a read returns for a reason. -/
def reasonWord (r : Nat) : Word := w32 (r * 2 ^ 24)

/-- The head entry leaves its queue: a consumer that takes a header is inside the packet until its last-data or abort entry (R120). -/
def State.qadvance (s : State) (q : Nat) (e : QEnt) (r : List QEnt) : State :=
  let x := s.queue q
  let k := entKind e.v
  (s.setQueue q { x with ents := r, inCons := if s.rb (R.que_QCFGq q) 1 then !(k = 0x42 || k = 0x43) else x.inCons }).bump (R.que_QPOPSq q) 1

/-- A head entry that cannot be corrected is discarded (R116). -/
def State.qdiscard (s : State) (q : Nat) : State := (s.setQueue q { s.queue q with ents := (s.queue q).ents.tail }).irq .que 17

/-- R116: a read of POP_HIq. -/
def State.qpop (s : State) (m : Master) (q : Nat) : State × Word :=
  let setLo (t : State) (v : Word) : State := { t with que := { t.que with popLo := Sparse.put t.que.popLo (16 * masterIx m + q) v } }
  match s.qreason q with
  | some 0x05 => (setLo (s.qdiscard q) 0, reasonWord 0x05)
  | some r => (setLo s 0, reasonWord r)
  | none =>
    match (s.queue q).ents with
    | [] => (setLo s 0, reasonWord 0x01)
    | e :: r => (setLo (s.qadvance q e r) (w32 e.v.toNat), w32 (e.v.toNat / 2 ^ 32))

/-- QUEUE_POP: a read of POP_HIq, with the error that the read meets in the head entry. -/
def execQueuePop (m : Master) (q : QueueRead) (s : State) : Host.Outcome State Fault Refusal :=
  .next (s.readAt .que (0x2040 + 8 * q.queue.val) m fun t => let r := (t.qmeet q.queue.val q.err).qpop m q.queue.val; r.1.answer (.data r.2))

/-- The word a read of PEEK_HIq returns. -/
def State.qpeekHi (s : State) (q : Nat) : Word :=
  match s.qreason q with
  | some r => reasonWord r
  | none => match (s.queue q).ents with
    | [] => reasonWord 0x01
    | e :: _ => w32 (e.v.toNat / 2 ^ 32)

/-- The word a read of PEEK_LOq returns. -/
def State.qpeekLo (s : State) (q : Nat) : Word :=
  match s.qreason q with
  | some _ => 0
  | none => match (s.queue q).ents with
    | [] => 0
    | e :: _ => w32 e.v.toNat

/-- QUEUE_PEEK: a read of PEEK_HIq, with the error that the read meets in the head entry. -/
def execQueuePeek (m : Master) (q : QueueRead) (s : State) : Host.Outcome State Fault Refusal :=
  .next (s.readAt .que (0x3040 + 8 * q.queue.val) m fun t => let u := t.qmeet q.queue.val q.err; u.answer (.data (u.qpeekHi q.queue.val)))

/-- R117: discard the entries of a queue and end any packet in progress at both ends. -/
def State.qflush (s : State) (q : Nat) : State :=
  s.setQueue q { s.queue q with ents := [], inProd := false, inCons := false }

/-- QUEUE_FLUSH: a write of QCFGq.FLUSH with the other fields as they stand. -/
def execQueueFlush (m : Master) (q : Fin 16) (s : State) : Host.Outcome State Fault Refusal :=
  .next (s.writeAt .que (0x100 + 0x20 * q.val) m (s.rd (R.que_QCFGq q.val) ||| 4) fun t => (t.qflush q.val).answer .done)

/-- The region of a queue: first and one past the last entry of the store. -/
def qregion (cfg : Word) : Nat × Nat := (fld cfg 8 7 * 256, fld cfg 8 7 * 256 + 2 ^ fld cfg 4 4)

/-- R112: a QCFG value for queue q has a bad region or level, or a size that QCT's CT_THRESH does not lie below (R120; DESIGN CHOICE, log 50). -/
def State.qcfgBad (s : State) (q : Nat) (v : Word) : Bool :=
  let l := fld v 4 4
  let r := qregion v
  decide (l < 8) || decide (12 < l) || decide (32768 < r.2) || decide (fld v 8 7 % 2 ^ (l - 8) ≠ 0) || decide (4096 < fld v 16 13) ||
  (decide (s.rf (R.que_QCTq q) 0 12 ≠ 0) && decide (2 ^ l ≤ s.rf (R.que_QCTq q) 0 12)) ||
  ((List.range 16).any fun p => decide (p ≠ q) && s.qen p &&
    (let o := qregion (s.rd (R.que_QCFGq p)); decide (r.1 < o.2) && decide (o.1 < r.2)))

/-- R112, R113, R117: a write of QCFGq. -/
def State.qcfg (s : State) (m : Master) (q : Nat) (v : Word) : State :=
  let old := s.rd (R.que_QCFGq q)
  let off := 0x100 + 0x20 * q
  if s.qcfgBad q v then s.err .que eBadValue off m
  else if tst old 0 && decide (old &&& 0x7FF2 ≠ v &&& 0x7FF2) then s.err .que eBusy off m
  else
    let t := s.wr (R.que_QCFGq q) (v &&& 0x1FFF7FF3)
    let t := if !tst old 0 && tst v 0 then t.setQueue q { t.queue q with ents := [], high := 0, inProd := false, inCons := false } else t
    if tst v 2 then t.qflush q else t

/-- QCFG_WRITE: a write of QCFGq. -/
def execQcfgWrite (m : Master) (q : Fin 16) (v : Word) (s : State) : Host.Outcome State Fault Refusal :=
  .next (s.writeAt .que (0x100 + 0x20 * q.val) m v fun t => (t.qcfg m q.val v).answer .done)

/-- R113, R120: a write of QCTq. -/
def State.qct (s : State) (m : Master) (q : Nat) (v : Word) : State :=
  let off := 0x104 + 0x20 * q
  if fld v 0 12 ≠ 0 ∧ s.qsize q ≤ fld v 0 12 then s.err .que eBadValue off m
  else if s.qen q && decide (s.rd (R.que_QCTq q) ≠ v &&& 0xFFF) then s.err .que eBusy off m
  else s.wr (R.que_QCTq q) (v &&& 0xFFF)

/-- QUE_EMPTY and QUE_FULL: one bit per queue for which a test holds. -/
def qmask (f : Nat → Bool) : Word := w32 ((List.range 16).foldl (fun a q => a + b2n (f q) * 2 ^ q) 0)

/-- The queue registers that show the store's state. -/
def State.queRead (s : State) (off : Nat) : Option Word :=
  if off = 0x40 then some (qmask fun q => (s.queue q).ents.isEmpty)
  else if off = 0x44 then some (qmask fun q => decide (s.qsize q ≤ (s.queue q).ents.length))
  else if 0x100 ≤ off ∧ off < 0x300 ∧ off % 0x20 = 8 then
    let x := s.queue ((off - 0x108) / 0x20)
    some (w32 (x.ents.length + x.high * 2 ^ 16))
  else none

/-- A QUE block reset discards every entry and what hardware producers hold for the Market (R110, R121). -/
def State.queReset (s : State) : State :=
  { s with que := ⟨s.que.q.map fun x => { x with ents := [], high := 0, inProd := false, inCons := false }, [], []⟩,
           mkt := { s.mkt with comps := [] } }

/-! ### Check-value units -/

/-- A check unit by its number. -/
def State.unit (s : State) (u : Nat) : ChkUnit := s.chk.getD u ⟨false, false⟩

/-- Replace a check unit. -/
def State.setUnit (s : State) (u : Nat) (x : ChkUnit) : State := { s with chk := setAt s.chk u x }

/-- R125: the CRC a unit computes. -/
def State.unitCrc (s : State) (u : Nat) : CrcPar :=
  let c := s.rd (R.chk_CCFGu u)
  match fld c 8 3 with
  | 1 => crc16
  | 2 => crc24
  | 3 => crc32
  | 4 => crc32c
  | _ =>
    let w := fld c 16 5 + 1
    ⟨w, s.rn (R.chk_CPOLYu u) % 2 ^ w, s.rn (R.chk_CINITu u) % 2 ^ w, tst c 2, tst c 3, s.rn (R.chk_CXORu u) % 2 ^ w⟩

/-- The unit snoops a source: SRC, and for SRC 0xC the Porter channel (R122). -/
def State.snoops (s : State) (u src chan : Nat) : Bool :=
  let c := s.rd (R.chk_CCFGu u)
  decide (fld c 4 4 = src) && (decide (src ≠ 0xC) || decide (fld c 24 4 = chan))

/-- R123: a frame of a source starts at one unit. -/
def chkStart (src chan : Nat) (s : State) (u : Nat) : State :=
  let c := s.rd (R.chk_CCFGu u)
  if tst c 0 && s.snoops u src chan && !(s.unit u).inFrame then
    let s := s.setUnit u { s.unit u with inFrame := true }
    let s := s.wr (R.chk_CBYTESu u) 0
    if tst c 1 then s.wr (R.chk_CVALu u) (w32 (s.unitCrc u).init) else s
  else s

/-- CHECK_FRAME_START: a frame of a source starts. -/
def execCheckFrameStart (src chan : Nat) (s : State) : Host.Outcome State Fault Refusal :=
  .next (if s.takes .chk then (List.range 8).foldl (chkStart src chan) s else s)

/-- R123: a frame of a source ends at one unit, which has absorbed its bytes. -/
def chkEnd (src chan : Nat) (data : Bytes) (s : State) (u : Nat) : State :=
  if (s.unit u).inFrame && s.snoops u src chan then
    let p := s.unitCrc u
    let v := crcRun p (s.rn (R.chk_CVALu u)) data
    let s := (s.wr (R.chk_CVALu u) (w32 v)).wr (R.chk_CBYTESu u) (w32 data.length)
    let s := s.bump (R.chk_CFRAMESu u) 1
    if s.rb (R.chk_CCFGu u) 1 then
      let late := (s.unit u).unread
      let s := (s.setUnit u ⟨false, true⟩).wr (R.chk_CRESULTu u) (w32 (crcFinish p v))
      let s := s.irq .chk u
      if late then s.irq .chk (8 + u) else s
    else s.setUnit u { s.unit u with inFrame := false }
  else s

/-- No unit is inside a frame. -/
def State.chkIdle (s : State) : Bool := s.chk.all fun x => !x.inFrame

/-- CHECK_FRAME_END: a frame of a source ends, with the bytes it carried. -/
def execCheckFrameEnd (src chan : Nat) (data : Bytes) (s : State) : Host.Outcome State Fault Refusal :=
  .next (if s.inReset .chk then s else
    let s := (List.range 8).foldl (chkEnd src chan data) s
    if s.draining .chk && s.chkIdle then s.setDrained .chk else s)

/-- R124: a write of CVALu. -/
def State.cval (s : State) (m : Master) (u : Nat) (v : Word) : State :=
  if (s.unit u).inFrame then s.err .chk eBusy (0x110 + 0x20 * u) m else s.wr (R.chk_CVALu u) v

/-- CVAL_WRITE: a write of CVALu. -/
def execCvalWrite (m : Master) (u : Fin 8) (v : Word) (s : State) : Host.Outcome State Fault Refusal :=
  .next (s.writeAt .chk (0x110 + 0x20 * u.val) m v fun t => (t.cval m u.val v).answer .done)

/-- A write of CCFGu: refused with BUSY while UEN is 1 unless it changes UEN alone, and with BAD_VALUE for a reserved source, preset or width. A unit given another source starts at that source's next frame (R123). -/
def State.ccfg (s : State) (m : Master) (u : Nat) (v : Word) : State :=
  let old := s.rd (R.chk_CCFGu u)
  let off := 0x100 + 0x20 * u
  let v := v &&& 0xF1F07FF
  if 0xE ≤ fld v 4 4 ∨ 4 < fld v 8 3 ∨ (tst v 0 ∧ fld v 8 3 = 0 ∧ fld v 16 5 < 7) then s.err .chk eBadValue off m
  else if tst old 0 && decide (old ||| 1 ≠ v ||| 1) then s.err .chk eBusy off m
  else (if old &&& 0xF0000F0 = v &&& 0xF0000F0 then s else s.setUnit u { s.unit u with inFrame := false }).wr (R.chk_CCFGu u) v

/-- R126: KILL ends every frame at once and latches nothing. -/
def State.chkKill (s : State) : State :=
  { s with chk := s.chk.map fun x => { x with inFrame := false } }

end Sys2Proof.Machine
end

