-- ==== Sys2Proof/Machine/Market.lean ====
section
/-! DEFINITION. The Market: wares, counters, the matching store, ordering domains, dispatch, take ports and the lanes (R82-R111). -/

namespace Sys2Proof.Machine

open Sys2Proof

/-! ### Wares -/

/-- A ware read from its 32 bytes (R85). -/
def wareOf (b : Bytes) : Ware :=
  ⟨le b 0 2, le b 2 1, le b 3 1, le b 4 2, le b 6 2, leWord b 8, le b 12 2, le b 14 2,
   BitVec.ofNat 64 (le b 16 8), BitVec.ofNat 64 (le b 24 8)⟩

/-- The 32 bytes of a ware (R85). -/
def wareBytes (w : Ware) : Bytes :=
  toLe 2 w.func ++ toLe 1 w.cls ++ toLe 1 w.flags ++ toLe 2 w.domain ++ toLe 2 w.origin ++ toLe 4 w.key.toNat ++
  toLe 2 w.b12 ++ toLe 2 w.b14 ++ toLe 8 w.arg0.toNat ++ toLe 8 w.arg1.toNat

/-- FLAGS.LONG: the ware is long-running (R87). -/
def Ware.long (w : Ware) : Bool := w.flags % 2 = 1

/-- FLAGS.COMPLETE. -/
def Ware.complete (w : Ware) : Bool := w.flags / 2 % 2 = 1

/-- FLAGS.SIDE: 1 right. -/
def Ware.side (w : Ware) : Bool := w.flags / 4 % 2 = 1

/-- FLAGS.PAIR. -/
def Ware.pair (w : Ware) : Bool := w.flags / 8 % 2 = 1

/-- The ordering domain. -/
def Ware.dom (w : Ware) : Nat := w.domain % 4096

/-- The queue class. -/
def Ware.clsN (w : Ware) : Nat := w.cls % 8

/-- CLASS_CFG of a class. -/
def State.clsCfg (s : State) (n : Nat) : Word := s.rd (R.mkt_CLASS_CFG0 n)

/-- The class tracks readiness by matching (R92). -/
def State.clsMatch (s : State) (n : Nat) : Bool := tst (s.clsCfg n) 0

/-- R86: a software ware breaks R85 or names a class whose mode does not match its fields. A nonzero reserved bit breaks R85 (DESIGN CHOICE, log 49). -/
def State.badWare (s : State) (w : Ware) : Bool :=
  decide (4096 ≤ w.func) || decide (8 ≤ w.cls) || decide (4096 ≤ w.domain) || decide (4096 ≤ w.origin) ||
  (if s.clsMatch w.clsN then decide (8 ≤ w.flags) || decide (w.b12 ≠ 0) || decide (w.b14 ≠ 0) || decide (w.arg1 ≠ 0)
   else decide (4 ≤ w.flags) || decide (w.key ≠ 0) || decide (1024 ≤ w.b12) || decide (1024 ≤ w.b14))

/-! ### Counting the wares held -/

/-- Wares in the stall slots of all lanes. -/
def slotWares (m : Mkt) : List RWare := m.lanes.flatMap fun l => l.slots

/-- The wares the store of R88 counts: waiting, parked, ready and in stall slots. -/
def heldCount (m : Mkt) : Nat := m.waiting.length + m.parked.length + m.ready.length + (slotWares m).length

/-- The wares dispatched and not retired: in stall slots, running, or held in take buffers. -/
def inFlight (m : Mkt) : List RWare :=
  slotWares m ++ m.lanes.filterMap (fun l => l.running) ++ m.bufs.flatMap fun p => p.filterMap id

/-- Every ware held in any state. -/
def allWares (m : Mkt) : List Ware :=
  m.waiting ++ m.parked.map (fun p => p.1) ++ m.ready.map (fun r => r.w) ++ (inFlight m).map fun r => r.w

/-- The wares of a domain held in any state (R99). -/
def domHeld (m : Mkt) (d : Nat) : Nat := ((allWares m).filter fun w => w.dom = d).length

/-- Note the high-water marks of the stores, and raise PEND_HIGH when the wares held reach PEND_LEVEL from below. -/
def State.mktMark (s : State) (before : Nat) : State :=
  let n := heldCount s.mkt
  let s := { s with mkt := { s.mkt with high := max s.mkt.high n, matchHigh := max s.mkt.matchHigh s.mkt.parked.length } }
  let lvl := s.rf R.mkt_MKT_CFG 16 13
  if lvl ≠ 0 ∧ before < lvl ∧ lvl ≤ n then s.irq .mkt 4 else s

/-! ### Completions -/

/-- R90: a completion word. -/
def completionWord (status dom func : Nat) (arg : DWord) : DWord :=
  BitVec.ofNat 64 (2 ^ 63 + status % 128 * 2 ^ 56 + dom % 4096 * 2 ^ 44 + func % 4096 * 2 ^ 32 + arg.toNat % 2 ^ 32)

/-- The queue can take an entry now. -/
def State.qroom (s : State) (q : Nat) : Bool :=
  !s.inReset .que && s.qen q && s.queTakes && decide ((s.queue q).ents.length < s.qsize q)

/-- Write the held completions that have room, each queue in order; those that wait are kept. -/
def compFlush : List (Nat × DWord) → List Nat → State → State
  | [], _, s => s
  | (q, v) :: r, stuck, s =>
    if stuck.contains q || !s.qroom q then
      compFlush r (q :: stuck) { s with mkt := { s.mkt with comps := s.mkt.comps ++ [(q, v)] } }
    else if s.rb (R.que_QCFGq q) 1 && !pktOrder (s.queue q) v then
      compFlush r stuck ((s.qdrop q).err .que 0x81 (0x44 + 8 * q) .block)
    else compFlush r stuck (s.pushEnt q v)

/-- Write every completion that has room (R90). -/
def State.writeComps (s : State) : State := compFlush s.mkt.comps [] { s with mkt := { s.mkt with comps := [] } }

/-- Hand a completion to QUE, behind those already held. -/
def State.complete (s : State) (q : Nat) (v : DWord) : State :=
  State.writeComps { s with mkt := { s.mkt with comps := s.mkt.comps ++ [(q, v)] } }

/-- COMPLETION_WRITE: completions held for a full queue are written as space appears. -/
def execCompletionWrite (s : State) : Host.Outcome State Fault Refusal := .next s.writeComps

/-- Write the completions of a ware with a status: the ware's own CQ, and for a pair the right operand's, each where COMPLETE is set (R89, R91). -/
def State.wareDone (s : State) (w : Ware) (status : Nat) : State :=
  let s := if w.complete then s.complete (w.origin % 16) (completionWord status w.dom w.func w.arg0) else s
  if w.pair && decide (w.b14 / 2 % 2 = 1) then s.complete (w.b12 % 16) (completionWord status w.dom w.func w.arg1) else s

/-- Return wares to their originators with a status (R91). -/
def returnAll (status : Nat) : List Ware → State → State
  | [], s => s
  | w :: r, s => returnAll status r (s.wareDone w status)

/-! ### Counters and readiness -/

/-- A dependence counter; counter 0 always reads 0 (R95). -/
def State.ctr (s : State) (n : Nat) : Nat := if n = 0 then 0 else Sparse.get (fun _ => 0) s.mkt.ctrs n

/-- Wares that become ready now, numbered in the order in which they do. -/
def readyNow (cycle : Nat) : Nat → List Ware → List RWare
  | _, [] => []
  | k, w :: r => ⟨w, cycle, k, false, false, 0, 0⟩ :: readyNow cycle (k + 1) r

/-- Wares join the ready set, behind those that became ready before them. -/
def readyAll (ws : List Ware) (m : Mkt) : Mkt :=
  { m with ready := m.ready ++ readyNow m.cycle m.readied ws, readied := m.readied + ws.length }

/-- Make the wares that wait on a counter ready, in order of arrival (R94). -/
def wakeWaiters (n : Nat) (m : Mkt) : Mkt :=
  readyAll (m.waiting.filter fun w => w.b12 % 1024 = n) { m with waiting := m.waiting.filter fun w => w.b12 % 1024 ≠ n }

/-- Set a counter; reaching 0 makes its waiting wares ready. -/
def State.setCtr (s : State) (n v : Nat) : State :=
  if n = 0 then s else
  let m := { s.mkt with ctrs := Sparse.set (fun _ => 0) s.mkt.ctrs n v }
  { s with mkt := if v = 0 then wakeWaiters n m else m }

/-- Decrement a counter; a counter already 0 stays 0 and is recorded (R95). -/
def State.decCtr (s : State) (n : Nat) : State :=
  if s.ctr n = 0 then (s.err .mkt 0x83 0 .block).irq .mkt 5 else s.setCtr n (s.ctr n - 1)

/-- COUNTER_WRITE: a write of CTR_VAL. -/
def execCounterWrite (m : Master) (v : Word) (s : State) : Host.Outcome State Fault Refusal :=
  .next (s.writeAt .mkt 0xAC m v fun t => (t.setCtr (t.rf R.mkt_CTR_SEL 0 10) (fld v 0 16)).answer .done)

/-- R95: a write of CTR_ADD, saturating at 0 and 0xFFFF. -/
def State.addCtr (s : State) (v : Word) : State :=
  let n := s.rf R.mkt_CTR_SEL 0 10
  s.setCtr n (clampI 0 0xFFFF ((s.ctr n : Int) + sgn 16 (fld v 0 16))).toNat

/-- COUNTER_ADD: a write of CTR_ADD. -/
def execCounterAdd (m : Master) (v : Word) (s : State) : Host.Outcome State Fault Refusal :=
  .next (s.writeAt .mkt 0xB0 m v fun t => (t.addCtr v).answer .done)

/-! ### Arrival -/

/-- R85: the pair of a left and a right operand, as the Market dispatches it. -/
def pairOf (l r : Ware) : Ware :=
  ⟨l.func, l.cls, l.flags % 8 + 8, l.domain, l.origin, l.key, r.origin, r.flags % 256, l.arg0, r.arg0⟩

/-- A ware joins the ready set. -/
def State.makeReady (s : State) (w : Ware) : State := { s with mkt := readyAll [w] s.mkt }

/-- R96: an operand looks up its key in the matching store of 2,048 entries. -/
def State.matchIn (s : State) (w : Ware) : State :=
  match s.mkt.parked.find? fun p => p.1.key = w.key with
  | some p =>
    if p.1.side = w.side then ((s.bumpSat R.mkt_CONFLICT_CNT 1).irq .mkt 3).wareDone w 0x04
    else
      let s := { s with mkt := { s.mkt with parked := s.mkt.parked.filter fun x => x.1.key ≠ w.key } }
      s.makeReady (if w.side then pairOf p.1 w else pairOf w p.1)
  | none =>
    if 2048 ≤ s.mkt.parked.length then ((s.bumpSat R.mkt_STORE_FULL_CNT 1).irq .mkt 1).wareDone w 0x05
    else { s with mkt := { s.mkt with parked := s.mkt.parked ++ [(w, s.tick32)] } }

/-- A ware that the Market has taken: matched, waiting on its counter, or ready (R94, R96). -/
def State.arrive (s : State) (w : Ware) : State :=
  let n := heldCount s.mkt
  let s := if s.clsMatch w.clsN then s.matchIn w
           else if w.b12 % 1024 ≠ 0 ∧ s.ctr (w.b12 % 1024) ≠ 0 then { s with mkt := { s.mkt with waiting := s.mkt.waiting ++ [w] } }
           else s.makeReady w
  s.mktMark n

/-- The Market takes wares: out of reset and EN = 1 (R108). -/
def State.mktTakes (s : State) : Bool := !s.inReset .mkt && s.en .mkt

/-- Take the wares that hardware producers hold, while there is room. -/
def hwTake : List Ware → State → State
  | [], s => { s with mkt := { s.mkt with hwHeld := [] } }
  | w :: r, s =>
    if s.mktTakes && decide (heldCount s.mkt < 8192) then hwTake r (s.arrive w)
    else { s with mkt := { s.mkt with hwHeld := w :: r } }

/-- A hardware producer submits a ware; without room it holds the ware (R88, R108). -/
def State.hwSubmit (s : State) (w : Ware) : State := hwTake (s.mkt.hwHeld ++ [w]) s

/-- Space may have appeared: the Market takes what hardware producers hold (R88). -/
def State.mktRoom (s : State) : State := hwTake s.mkt.hwHeld s

/-- The submit window of a master: 0 host, 1 service core, 2-5 lanes. -/
def submitWin : Master → Option Nat
  | .host => some 0 | .svc => some 1 | .lane n => some (2 + n.val) | _ => none

/-- The page offset recorded for a submission. -/
def submitOff : Master → Nat
  | .svc => 0x7C | .host => 0x5C | _ => 0

/-- The ware staged in a submit window. -/
def State.staged (s : State) (win : Nat) : Ware :=
  wareOf (wordsBytes ((List.range 8).map fun i => (Sparse.find s.mkt.stage (8 * win + i)).getD 0))

/-- R86, R88, R108, R111: the write of a window's last word submits the ware it holds. -/
def State.submit (s : State) (m : Master) (w7 : Word) : State :=
  match submitWin m with
  | none => s
  | some win =>
    let s := { s with mkt := { s.mkt with stage := Sparse.put s.mkt.stage (8 * win + 7) w7 } }
    let w := s.staged win
    let off := submitOff m
    if !s.en .mkt then s.err .mkt eBusy off m
    else if s.badWare w then s.err .mkt 0x81 off m
    else if 8192 ≤ heldCount s.mkt then s.err .mkt 0x80 off m
    else s.arrive w

/-- WARE_SUBMIT: a write of the last word of the master's submit window. -/
def execWareSubmit (m : Master) (w7 : Word) (s : State) : Host.Outcome State Fault Refusal :=
  .next (s.writeAt .mkt (0x1000 + submitOff m) m w7 fun t => (t.submit m w7).answer .done)

/-! ### Dispatch -/

/-- DOM_CFG of a domain: serial after reset (R98). -/
def State.domCfg (s : State) (d : Nat) : Word := Sparse.get (fun _ => 1) s.mkt.doms d

/-- Some ware of the domain is dispatched and not retired. -/
def domBusy (m : Mkt) (d : Nat) : Bool := (inFlight m).any fun r => r.w.dom = d

/-- R87: a tick-bound ware is held back from 3,800 µs after the edge. -/
def reserveHolds (us : Nat) (w : Ware) : Bool := decide (3800 ≤ us) && !w.long

/-- R98: the ware may start in its domain: the domain is parallel, or none of its wares is dispatched and not retired and none became ready earlier. -/
def State.domTurn (s : State) (r : RWare) : Bool :=
  !tst (s.domCfg r.w.dom) 0 || (!domBusy s.mkt r.w.dom && s.mkt.ready.all fun x => decide (x.w.dom ≠ r.w.dom) || decide (r.ord ≤ x.ord))

/-- A ready ware that R100 counts a candidate, whatever its consumer. -/
def State.candidate (s : State) (us : Nat) (r : RWare) : Bool :=
  !reserveHolds us r.w && s.domTurn r && !s.mkt.held.contains r.w.dom

/-- The class's consumer serves the ware: 0 lanes, 1 take port 0, 2 take port 1. -/
def State.consumerOf (s : State) (w : Ware) : Nat := fld (s.clsCfg w.clsN) 3 2

/-- A lane serves the ware's class (R92). -/
def State.laneServes (s : State) (n : Nat) (w : Ware) : Bool :=
  decide (s.consumerOf w = 0) && s.rb (R.lane_LANE_CFG n) w.clsN

/-- R100, R101: the domain's pinning and affinity let the ware go to lane n now. -/
def State.laneMay (s : State) (n : Nat) (r : RWare) : Bool :=
  let d := s.domCfg r.w.dom
  if tst d 1 then decide (fld d 2 2 = n)
  else !tst d 6 || decide (fld d 4 2 = n) || decide (s.rf R.mkt_MKT_CFG 0 8 ≤ s.mkt.cycle - r.since)

/-- The best of a list: highest class priority, among equals the earliest ready. -/
def bestWare (prio : Ware → Nat) : List RWare → Option RWare
  | [] => none
  | r :: l =>
    match bestWare prio l with
    | none => some r
    | some b => if prio b.w ≤ prio r.w then some r else some b

/-- Class priority of a ware. -/
def State.prio (s : State) (w : Ware) : Nat := fld (s.clsCfg w.clsN) 1 2

/-- Take the first occurrence of a ready ware out of the ready set. -/
def State.unready (s : State) (r : RWare) : State := { s with mkt := { s.mkt with ready := s.mkt.ready.erase r } }

/-- Record the lane as the domain's last (R100). -/
def State.noteLane (s : State) (d n : Nat) : State :=
  { s with mkt := { s.mkt with doms := Sparse.set (fun _ => 1) s.mkt.doms d (setBit (setFld (s.domCfg d) 4 2 n) 6 true) } }

/-- A lane as the Market sees it. -/
def State.laneSt (s : State) (n : Nat) : LaneSt := s.mkt.lanes.getD n ⟨[], none, false⟩

/-- Replace a lane. -/
def State.setLane (s : State) (n : Nat) (l : LaneSt) : State := { s with mkt := { s.mkt with lanes := setAt s.mkt.lanes n l } }

/-- The Market dispatches: enabled and not paused (R68, R108). -/
def State.mktDispatches (s : State) : Bool := s.takes .mkt

/-- A lane starts the ware at the head of its slots; a read of its window that stalled is answered with that ware (R84). -/
def State.startLane (s : State) (n : Nat) : State :=
  let l := s.laneSt n
  match l.running, l.slots with
  | none, r :: rest =>
    if s.mktDispatches && s.takes (.lane (Fin.ofNat 4 n)) then
      let s := s.setLane n ⟨rest, some { r with edges := 0, sfs := 0 }, false⟩
      (if l.stalled then s.emit (.wareGiven n (wareBytes r.w)) else s).mktRoom
    else s
  | _, _ => s

/-- R100: fill a free stall slot of a lane. -/
def State.dispatchLane (s : State) (n us : Nat) : State :=
  let l := s.laneSt n
  if !s.mktDispatches || !s.takes (.lane (Fin.ofNat 4 n)) || decide (2 ≤ l.slots.length) then s
  else
    match bestWare s.prio (s.mkt.ready.filter fun r => s.candidate us r && s.laneServes n r.w && s.laneMay n r) with
    | none => s
    | some r =>
      let s := ((s.unready r).noteLane r.w.dom n).setLane n { l with slots := l.slots ++ [{ r with overran := false }] }
      if l.stalled then s.startLane n else s

/-- A take port's buffers. -/
def State.portBufs (s : State) (p : Nat) : List (Option RWare) := s.mkt.bufs.getD p []

/-- The lowest-numbered free buffer of a port. -/
def freeBuf : List (Option RWare) → Nat → Option Nat
  | [], _ => none
  | none :: _, i => some i
  | some _ :: l, i => freeBuf l (i + 1)

/-- The words of a take answer: VALID with BUF, or a reason (R102). -/
def takeValid (b : Nat) : Word := w32 (2 ^ 31 + b)

/-- Some class names the port as its consumer. -/
def State.portHasClass (s : State) (p : Nat) : Bool := (List.range 8).any fun n => fld (s.clsCfg n) 3 2 = p + 1

/-- The ready wares of a port's classes. -/
def State.portReady (s : State) (p : Nat) : List RWare := s.mkt.ready.filter fun r => s.consumerOf r.w = p + 1

/-- R102: what a take read is answered at once: a ware in a buffer, or a reason; none where it waits. -/
def State.takeTry (s : State) (p us : Nat) : State × Option Word :=
  if !s.mktDispatches then (s, some (reasonWord 0x02))
  else if !s.portHasClass p then (s, some (reasonWord 0x04))
  else match freeBuf (s.portBufs p) 0 with
    | none => (s, some (reasonWord 0x03))
    | some b =>
      match bestWare s.prio ((s.portReady p).filter fun r => s.candidate us r) with
      | some r =>
        let s := s.unready r
        ({ s with mkt := { s.mkt with bufs := modAt s.mkt.bufs p fun l => setAt l b (some { r with overran := false, edges := 0, sfs := 0 }) } }.mktRoom, some (takeValid b))
      | none =>
        if decide (3800 ≤ us) && !(s.portReady p).isEmpty && (s.portReady p).all fun r => !r.w.long then (s, some (reasonWord 0x05))
        else (s, none)

/-- R100: serve the first reader that waits at a port. -/
def State.dispatchPort (s : State) (p us : Nat) : State :=
  match s.mkt.takers.find? fun t => t.1 = p with
  | none => s
  | some t =>
    let r := s.takeTry p us
    match r.2 with
    | none => r.1
    | some w => ({ r.1 with mkt := { r.1.mkt with takers := r.1.mkt.takers.erase t } }).emit (.readDone t.2 w)

/-- R100: at `us` µs after the tick edge and `cycles` Market cycles after the last dispatch command, the Market serves one slot or one reader. -/
def State.dispatch (s : State) (c : Consumer) (us cycles : Nat) : State :=
  if s.inReset .mkt then s else
    let s := { s with mkt := { s.mkt with cycle := s.mkt.cycle + cycles } }
    match c with
    | .lane n => s.dispatchLane n.val us
    | .port p => s.dispatchPort p.val us

/-- R84: a lane reads its ware window: the ware it runs, the ware at the head of its slots, or a stall until the Market fills one. While a ware runs the window shows it, also when a slot holds another (DESIGN CHOICE, log 49). -/
def State.windowRead (s : State) (n : Nat) : State :=
  let l := s.laneSt n
  match l.running with
  | some r => s.answer (.bytes (wareBytes r.w))
  | none =>
    match l.slots with
    | r :: _ =>
      if s.mktDispatches && s.takes (.lane (Fin.ofNat 4 n)) then (s.startLane n).answer (.bytes (wareBytes r.w))
      else (s.setLane n { l with stalled := true }).answer .stalled
    | [] => (s.setLane n { l with stalled := true }).answer .stalled

/-- WARE_WINDOW_READ: a lane reads its ware window. -/
def execWareWindowRead (lane : Fin 4) (s : State) : Host.Outcome State Fault Refusal :=
  .next (if s.inReset (.lane lane) then s else s.onPage .mkt 0 (.lane lane) fun t => t.windowRead lane.val)

/-! ### Retirement -/

/-- Release the overrun holds of the domains of which no overrunning ware is left in flight (R106). -/
def State.unhold (s : State) : State :=
  { s with mkt := { s.mkt with held := s.mkt.held.filter fun d => (inFlight s.mkt).any fun r => r.w.dom = d && r.overran } }

/-- DRAINED of MKT sets when the last running or held ware has retired (R108). -/
def State.mktDrainCheck (s : State) : State :=
  if s.draining .mkt && (s.mkt.lanes.all fun l => l.running.isNone) && (s.mkt.bufs.all fun p => p.all fun b => b.isNone)
  then s.setDrained .mkt else s

/-- R89: the counters and completions of a retirement. -/
def State.retireWare (s : State) (w : Ware) (v : Word) : State :=
  let s := if !w.pair && decide (w.b14 % 1024 ≠ 0) then s.decCtr (w.b14 % 1024) else s
  let s := if fld v 16 10 ≠ 0 then s.decCtr (fld v 16 10) else s
  s.wareDone w (fld v 8 7)

/-- A ware goes back to its place in the ready set, which stands in the order in which wares became ready. -/
def insReady (r : RWare) : List RWare → List RWare
  | [] => [r]
  | x :: l => if r.ord < x.ord then r :: x :: l else x :: insReady r l

/-- Slot wares go back to the ready set unchanged (R109). -/
def State.slotsBack (s : State) (n : Nat) : State :=
  let l := s.laneSt n
  let s := s.setLane n { l with slots := [] }
  { s with mkt := { s.mkt with ready := l.slots.foldl (fun a r => insReady r a) s.mkt.ready } }.unhold

/-- Let a drain of a lane finish: its slots go back to the ready set, and DRAINED sets when nothing runs (R109). -/
def State.laneDrainCheck (s : State) (n : Nat) : State :=
  let b := Blk.lane (Fin.ofNat 4 n)
  if s.draining b && (s.laneSt n).running.isNone then (if s.en b then s else s.slotsBack n).setDrained b else s

/-- R89: a lane writes its RETIRE word. -/
def State.retireLane (s : State) (n : Nat) (v : Word) : State :=
  let l := s.laneSt n
  match l.running with
  | none => s
  | some r =>
    let s := s.retireWare r.w v
    let s := (s.setLane n { s.laneSt n with running := none }).bump (R.lane_WARES_DONE n) 1
    let s := s.unhold.startLane n
    (s.laneDrainCheck n).mktDrainCheck

/-- R89, R103: a write of RETIRE0 or RETIRE1. -/
def State.retirePort (s : State) (p : Nat) (m : Master) (v : Word) : State :=
  let b := fld v 0 3
  match (s.portBufs p).getD b none with
  | none => s.err .mkt 0x82 (0x88 + 0x10 * p) m
  | some r =>
    let s := s.retireWare r.w v
    let s := { s with mkt := { s.mkt with bufs := modAt s.mkt.bufs p fun l => setAt l b none } }
    s.unhold.mktDrainCheck

/-- WARE_RETIRE: a RETIRE word is written. -/
def execWareRetire (r : Retirer) (v : Word) (s : State) : Host.Outcome State Fault Refusal :=
  .next (match r with
    | .lane n => if s.inReset (.lane n) then s else s.onPage .mkt 0 (.lane n) fun t => (t.retireLane n.val v).answer .done
    | .port p m => s.writeAt .mkt (0x1088 + 0x10 * p.val) m v fun t => (t.retirePort p.val m v).answer .done)

/-! ### Take ports -/

/-- The page offset of a take register. -/
def takeOff (p : Nat) (poll : Bool) : Nat := 0x80 + 0x10 * p + 4 * b2n poll

/-- TAKE_READ: a blocking read of TAKE0 or TAKE1. -/
def execTakeRead (port : Fin 2) (m : Master) (us : Nat) (s : State) : Host.Outcome State Fault Refusal :=
  .next (s.readAt .mkt (0x1000 + takeOff port.val false) m fun t =>
    let r := t.takeTry port.val us
    match r.2 with
    | some w => r.1.answer (.data w)
    | none => ({ r.1 with mkt := { r.1.mkt with takers := r.1.mkt.takers ++ [(port.val, m)] } }).answer .stalled)

/-- TAKE_POLL: a read of TAKE0_POLL or TAKE1_POLL. -/
def execTakePoll (port : Fin 2) (m : Master) (us : Nat) (s : State) : Host.Outcome State Fault Refusal :=
  .next (s.readAt .mkt (0x1000 + takeOff port.val true) m fun t =>
    let r := t.takeTry port.val us
    r.1.answer (.data (r.2.getD (reasonWord 0x01))))

/-- R102: the reader that has waited longest at a port gets TIMEOUT after 64 µs. -/
def State.takeTimeout (s : State) (port : Nat) : State :=
  match s.mkt.takers.find? fun t => t.1 = port with
  | none => s
  | some t => ({ s with mkt := { s.mkt with takers := s.mkt.takers.erase t } }).emit (.readDone t.2 (reasonWord 0x01))

/-- Readers that wait are answered DISABLED at once when MKT is disabled or paused (R102). -/
def State.takersOff (s : State) : State :=
  s.mkt.takers.foldl (fun t x => t.emit (.readDone x.2 (reasonWord 0x02))) { s with mkt := { s.mkt with takers := [] } }

/-- R105: the wares in take port 1 return CANCELLED and its buffers are freed. -/
def State.hostWaresBack (s : State) : State :=
  let ws := ((s.portBufs 1).filterMap id).map fun r => r.w
  let s := { s with mkt := { s.mkt with bufs := setAt s.mkt.bufs 1 (List.replicate 8 none) } }
  (returnAll 0x01 ws s).unhold.mktDrainCheck

/-! ### Timeouts and overrun at the tick edge -/

/-- R97: a parked operand has timed out at a tick. -/
def State.parkOld (s : State) (now : Word) (p : Ware × Word) : Bool :=
  let t := fld (s.clsCfg p.1.clsN) 8 8
  decide (t ≠ 0) && decide (t ≤ (now - p.2).toNat)

/-- R97: return every parked operand that a test picks, with MATCH_TIMEOUT. -/
def State.matchTimeouts (s : State) (f : Ware × Word → Bool) : State :=
  let old := (s.mkt.parked.filter f).map fun p => p.1
  if old.isEmpty then s else
  let s := { s with mkt := { s.mkt with parked := s.mkt.parked.filter fun p => !f p } }
  (returnAll 0x03 old ((s.bumpSat R.mkt_MATCH_TO_CNT old.length).irq .mkt 2)).mktRoom

/-- MATCH_TIMEOUT: the operands of a key that are older than their class allows are returned. -/
def execMatchTimeout (key : Word) (s : State) : Host.Outcome State Fault Refusal :=
  .next (if s.inReset .mkt then s else s.matchTimeouts fun p => decide (p.1.key = key) && s.parkOld s.tick32 p)

/-- A tick-bound ware is counted under R106. -/
def RWare.overrun (r : RWare) : RWare := if r.w.long then r else { r with ovr := true, overran := true }

/-- R106: the tick-bound wares in flight, counted for the first time at this edge. -/
def newOvr (l : List RWare) : Nat := (l.filter fun r => !r.w.long && !r.ovr).length

/-- R106, for one lane: OVR_COUNT grows by the wares counted for the first time, and the interrupt is raised. -/
def laneOvr (s : State) (n : Nat) : State :=
  let l := s.laneSt n
  let all := l.slots ++ l.running.toList
  if (all.filter fun r => !r.w.long).isEmpty then s
  else (s.bumpSat (R.lane_OVR_COUNT n) (newOvr all)).irq (.lane (Fin.ofNat 4 n)) 0

/-- R106: count the overruns at a tick edge and apply the policy. The firmware writes a Ledger record when any ware overran. -/
def State.overrunCheck (s : State) (now : Word) : State :=
  let fl := (inFlight s.mkt).filter fun r => !r.w.long
  let fresh := newOvr fl
  let pol := s.rf R.mkt_OVR_CFG 0 2
  let s := (s.wr R.mkt_OVR_LAST (w32 fl.length)).bumpSat R.mkt_OVR_TOTAL fresh
  let s := if fl.isEmpty ∨ pol = 0 then s
           else (List.range 4).foldl laneOvr ((s.wr R.mkt_OVR_TICK now).irq .mkt 0)
  let s := if fl.isEmpty ∨ pol ≠ 2 then s
           else { s with mkt := { s.mkt with held := (s.mkt.held ++ fl.map fun r => r.w.dom).eraseDups } }
  let s := { s with mkt := { s.mkt with
      lanes := s.mkt.lanes.map fun l => { l with slots := l.slots.map RWare.overrun, running := l.running.map RWare.overrun },
      bufs := s.mkt.bufs.map fun p => p.map fun b => b.map RWare.overrun } }
  match fl with
  | [] => s
  | r :: _ => s.ledger 0xE006 2 0x060 now.toNat fl.length (r.w.dom + r.w.func % 4096 * 2 ^ 16)

/-- BUSY_TIME of a lane at a tick edge: 4,000 µs where one ware has run through the tick, otherwise what the lane's handlers took, which lies open. -/
def State.busyTime (s : State) (n : Nat) : Nat :=
  match (s.laneSt n).running with
  | some r => if 0 < r.edges then 4000 else (Config.freeBelow (s.free + n) 4000).val
  | none => (Config.freeBelow (s.free + n) 4000).val

/-- Note BUSY_TIME of a lane that is out of reset. -/
def noteBusy (s : State) (n : Nat) : State := if s.inReset (.lane (Fin.ofNat 4 n)) then s else s.wr (R.lane_BUSY_TIME n) (w32 (s.busyTime n))

/-- R107: a running ware crosses a tick edge, and a superframe boundary where one falls. -/
def State.runEdges (s : State) (sfEdge : Bool) : State :=
  let s := ((List.range 4).foldl noteBusy s).draw 4
  { s with mkt := { s.mkt with lanes := s.mkt.lanes.map fun l =>
      { l with running := l.running.map fun r => { r with edges := r.edges + 1, sfs := r.sfs + b2n sfEdge } } } }

/-- R107: the watchdog of a lane has fired for the ware it runs. -/
def State.wdogFires (s : State) (n : Nat) : Bool :=
  match (s.laneSt n).running with
  | none => false
  | some r =>
    let t := s.rf (R.lane_WDOG n) 0 8
    let l := s.rf (R.lane_WDOG n) 8 8
    if r.w.long then decide (l ≠ 0) && decide (l ≤ r.sfs) else decide (t ≠ 0) && decide (t ≤ r.edges)

/-! ### Disable, lane drain and reset -/

/-- R108: every ware not running or held in a take buffer returns CANCELLED. -/
def State.mktCancel (s : State) : State :=
  let ws := s.mkt.waiting ++ s.mkt.parked.map (fun p => p.1) ++ s.mkt.ready.map (fun r => r.w) ++ (slotWares s.mkt).map fun r => r.w
  let s := { s with mkt := { s.mkt with
      waiting := [], parked := [], ready := [],
      lanes := s.mkt.lanes.map (fun (l : LaneSt) => { l with slots := [] }) } }
  (returnAll 0x01 ws s.takersOff).unhold.mktDrainCheck

/-- R109: a LANEn block reset abandons the running ware, which returns CANCELLED, and gives its slots back. -/
def State.laneReset (s : State) (n : Nat) : State :=
  let run := (s.laneSt n).running
  let s := (s.slotsBack n).setLane n ⟨[], none, false⟩
  match run with
  | none => s
  | some r => (s.wareDone r.w 0x01).unhold.mktDrainCheck

/-- R47: the reads that the Market keeps waiting end with its reset: those of the take registers and the stalled window reads of lanes, each recorded as dropped. -/
def State.failTakes (s : State) : State :=
  let s := s.mkt.takers.foldl (fun (t : State) x => (t.err .mkt eDropped (0x80 + 0x10 * x.1) x.2).emit (.readFail x.2)) s
  [0, 1, 2, 3].foldl (fun (t : State) (n : Fin 4) => if (s.laneSt n.val).stalled then (t.err .mkt eDropped 0 (.lane n)).emit (.readFail (.lane n)) else t) s

/-- R110: an MKT block reset drops every ware without completion words, and clears the stores, counters and domains. -/
def State.mktReset (s : State) : State :=
  let s := s.failTakes
  { s with mkt := { s.mkt with
      waiting := [], parked := [], ready := [], lanes := List.replicate 4 ⟨[], none, false⟩,
      bufs := List.replicate 2 (List.replicate 8 none), takers := [], ctrs := [], doms := [], comps := [], stage := [],
      held := [], cycle := 0, readied := 0, high := 0 } }

/-! ### Configuration registers -/

/-- R93: a write of CLASS_CFGn. -/
def State.classCfg (s : State) (m : Master) (n : Nat) (v : Word) : State :=
  let off := 0x80 + 4 * n
  s.unlessLocked .mkt off m fun s =>
    if fld v 3 2 = 3 then s.err .mkt eBadValue off m
    else if (allWares s.mkt).any fun w => w.clsN = n then s.err .mkt eBusy off m
    else s.wr (R.mkt_CLASS_CFG0 n) (v &&& 0xFF1F)

/-- CLASS_CFG_WRITE: a write of CLASS_CFGn. -/
def execClassCfgWrite (m : Master) (n : Fin 8) (v : Word) (s : State) : Host.Outcome State Fault Refusal :=
  .next (s.writeAt .mkt (0x80 + 4 * n.val) m v fun t => (t.classCfg m n.val v).answer .done)

/-- R99: a write of DOM_CFG, for the domain that DOM_SEL names. -/
def State.domCfgWrite (s : State) (m : Master) (v : Word) : State :=
  s.unlessLocked .mkt 0xA4 m fun s =>
    let d := s.rf R.mkt_DOM_SEL 0 12
    if domHeld s.mkt d ≠ 0 then s.err .mkt 0x84 0xA4 m
    else { s with mkt := { s.mkt with doms := Sparse.set (fun _ => 1) s.mkt.doms d (merge 0xF (s.domCfg d) v) } }

/-- DOM_CFG_WRITE: a write of DOM_CFG. -/
def execDomCfgWrite (m : Master) (v : Word) (s : State) : Host.Outcome State Fault Refusal :=
  .next (s.writeAt .mkt 0xA4 m v fun t => (t.domCfgWrite m v).answer .done)

/-- R107: a write of WDOG with TICKS = 1 is refused. -/
def State.wdogWrite (s : State) (n : Nat) (m : Master) (v : Word) : State :=
  let b := Blk.lane (Fin.ofNat 4 n)
  s.unlessLocked b 0x44 m fun s => if fld v 0 8 = 1 then s.err b eBadValue 0x44 m else s.wr (R.lane_WDOG n) (v &&& 0xFFFF)

/-- MKT registers that show the stores. -/
def State.mktRead (s : State) (page off : Nat) : Option Word :=
  if page = 0 then
    if off = 0x54 then some (w32 (heldCount s.mkt + s.mkt.high * 2 ^ 16))
    else if off = 0x58 then some (w32 s.mkt.high)
    else if off = 0x5C then some (w32 (s.mkt.parked.length + s.mkt.matchHigh * 2 ^ 16))
    else if off = 0xA4 then
      let d := s.rf R.mkt_DOM_SEL 0 12
      some (setFld (s.domCfg d) 8 14 (domHeld s.mkt d))
    else if off = 0xAC then some (w32 (s.ctr (s.rf R.mkt_CTR_SEL 0 10)))
    else if off = 0xB4 then some (w32 (s.mkt.waiting.filter fun w => w.b12 % 1024 = s.rf R.mkt_CTR_SEL 0 10).length)
    else none
  else if 0x100 ≤ off ∧ off < 0x300 then
    let p := (off - 0x100) / 0x100
    let b := (off - 0x100) % 0x100 / 0x20
    match (s.portBufs p).getD b none with
    | some r => some (leWord (wareBytes r.w) (off % 0x20))
    | none => some 0
  else none

/-- The read of HELD_HW restarts the high-water mark. -/
def State.heldHwRead (s : State) : State := { s with mkt := { s.mkt with high := heldCount s.mkt } }

/-- LANE registers that show the lane. -/
def State.laneRead (s : State) (n off : Nat) : Option Word :=
  let l := s.laneSt n
  if off = 0x48 then some (w32 (b2n (decide (1 ≤ l.slots.length)) + 2 * b2n (decide (2 ≤ l.slots.length)) + 4 * b2n l.running.isSome + 8 * b2n l.stalled))
  else if off = 0x4C then match l.running with
    | some r => some (w32 (r.w.dom + r.w.func % 4096 * 2 ^ 16))
    | none => some 0
  else if off = 0x50 then some (w32 ((l.running.map fun r => r.edges).getD 0))
  else none

end Sys2Proof.Machine
end

