-- ==== Sys2Proof/Machine/Memory.lean ====
section
/-! DEFINITION. The stores: DRAM behind the symbol code, packet SRAM, NVS and eMMC (R127-R142). -/

namespace Sys2Proof.Machine

open Sys2Proof

/-! ### DRAM and poison -/

/-- The size of usable DRAM (R127). -/
abbrev dramSize : Nat := 0x1C0000000

/-- The lowest-numbered enabled region that holds a DRAM address, from region r on (R134). -/
def regionFrom (s : State) (a : Nat) : List Nat → Option Nat
  | [] => none
  | r :: l =>
    if s.rb (R.mem_REGr_ATTR r) 0 && decide (s.rf (R.mem_REGr_BASE r) 0 13 ≤ a / 2 ^ 20) && decide (a / 2 ^ 20 ≤ s.rf (R.mem_REGr_LIMIT r) 0 13)
    then some r else regionFrom s a l

/-- R134: the region that decides for a DRAM address. -/
def State.region (s : State) (a : Nat) : Option Nat := regionFrom s a (List.range 8)

/-- The host may reach an address: its region gives the attribute bit, and the region is not closed as key-bearing (R134, R384). -/
def State.hostOpen (s : State) (attr : Nat) (closed : Nat → Bool) (a : Nat) : Bool :=
  match s.region a with
  | none => false
  | some r => s.rb (R.mem_REGr_ATTR r) attr && !closed r

/-- R130: count a corrected codeword; the first since the last read of CE_COUNT keeps its address. -/
def State.ceCount (s : State) (a sym src : Nat) : State :=
  let first := decide (s.rn R.mem_CE_COUNT = 0)
  let chan := b2n (Config.freeBit s.free)
  let s := s.draw 1
  let s := if first then
      let e := setFld (setFld (setFld (s.rd R.mem_ERR_INFO) 0 6 sym) 6 1 chan) 8 4 src
      ((s.wr R.mem_ERR_INFO (setBit e 25 true)).wr R.mem_CE_ADDR_LO (w32 (a / 16 * 16))).wr R.mem_CE_ADDR_HI (w32 (a / 2 ^ 32))
    else s
  let s := s.bumpSat R.mem_CE_COUNT 1
  if s.rf R.mem_MEM_CFG 8 16 ≠ 0 ∧ s.rn R.mem_CE_COUNT = s.rf R.mem_MEM_CFG 8 16 then s.irq .mem 0 else s

/-- A codeword is poisoned. -/
def State.poisoned (s : State) (a : Nat) : Bool := s.mem.poison.contains (a / 16)

/-- R131, R132: poison a codeword at its first detection, record it, write the Ledger record, and ask for the reset of a critical region. -/
def State.ueDetect (s : State) (a src : Nat) : State :=
  let reg := s.region a
  let first := !s.rb R.mem_ERR_INFO 24
  let s := { s with mem := { s.mem with poison := s.mem.poison ++ [a / 16] } }
  let s := if first then
      let e := setFld (setFld (s.rd R.mem_ERR_INFO) 16 4 src) 20 4 (reg.getD 15)
      ((s.wr R.mem_ERR_INFO (setBit e 24 true)).wr R.mem_UE_ADDR_LO (w32 (a / 16 * 16))).wr R.mem_UE_ADDR_HI (w32 (a / 2 ^ 32))
    else s
  let s := (s.bumpSat R.mem_UE_COUNT 1).irq .mem 1
  let s := s.ledger 0xE008 3 0x0A0 (s.rn R.mem_UE_ADDR_LO) (s.rn R.mem_UE_ADDR_HI) (s.rn R.mem_ERR_INFO)
  match reg with
  | some r => if s.rb (R.mem_REGr_ATTR r) 3 then { s with mem := { s.mem with crit := some r } } else s
  | none => s

/-- R128, R130, R131: what the code makes of an error that a read of a codeword meets; an error in three or more symbols may be detected, miscorrected or missed. -/
def State.cwError (s : State) (src : Nat) (a : Nat) (e : CwErr) : State :=
  if s.poisoned a then s else
  match e with
  | .one sym => s.ceCount a sym.val src
  | .two => s.ueDetect a src
  | .many =>
    let k := (Config.freeBelow s.free 2).val
    let s := s.draw 1
    if k = 0 then s.ueDetect a src
    else
      let t := { s with mem := { s.mem with dram := memWrite s.mem.dram (a / 16 * 16) (freeBytes s.free 16) } }.draw 16
      if k = 1 then t.ceCount a (Config.freeBelow t.free 35).val src else t

/-- Two errors in one codeword together (R128). -/
def cwAdd : CwErr → CwErr → CwErr
  | .one a, .one b => if a = b then .one a else .two
  | _, _ => .many

/-- Errors strike an array, by byte address, and stand in it until an access meets them; several in one codeword add up. -/
def strike : Sparse CwErr → List (Nat × CwErr) → Sparse CwErr
  | f, [] => f
  | f, e :: r => strike (Sparse.put f (e.1 / 16) (match Sparse.find f (e.1 / 16) with | some x => cwAdd x e.2 | none => e.2)) r

/-- Errors strike the DRAM array. -/
def State.dramStrike (s : State) (errs : List (Nat × CwErr)) : State :=
  { s with mem := { s.mem with flips := strike s.mem.flips (errs.filter fun e => decide (e.1 < dramSize)) } }

/-- R128: a read meets the error that stands in a codeword. -/
def State.dramMeet (s : State) (src cw : Nat) : State :=
  match Sparse.find s.mem.flips cw with
  | none => s
  | some e => { s with mem := { s.mem with flips := Sparse.del s.mem.flips cw } }.cwError src (16 * cw) e

/-- The codewords of an array with an error, among those that the bytes from a to a + n touch. -/
def flipsIn (f : Sparse CwErr) (a n : Nat) : List Nat :=
  (f.filter fun p => decide (a / 16 ≤ p.1) && decide (p.1 * 16 < a + n)).map fun p => p.1

/-- R128: a read of the bytes from a to a + n meets the errors that stand in them. -/
def State.dramSeen (s : State) (src a n : Nat) : State := (flipsIn s.mem.flips a n).foldl (fun t w => t.dramMeet src w) s

/-- Count an access to a poisoned codeword (R131). -/
def State.poisonHit (s : State) : State := s.bumpSat R.mem_POISON_HITS 1

/-- The first poisoned codeword that the bytes from a to a + n touch, counting at most k codewords. -/
def firstPoison (s : State) (a n : Nat) : Nat → Option Nat
  | 0 => none
  | k + 1 => if n = 0 then none else if s.poisoned a then some (a / 16 * 16)
             else let d := 16 - a % 16; firstPoison s (a + d) (n - d) k

/-- The number of codewords that n bytes from a can touch. -/
def cwSpan (n : Nat) : Nat := n / 16 + 2

/-- A codeword is written whole, with fresh check symbols: poison and errors that stood in it are gone (R131). -/
def State.cwFresh (s : State) (a : Nat) : State :=
  let t := { s with mem := { s.mem with poison := s.mem.poison.erase (a / 16), flips := Sparse.del s.mem.flips (a / 16) } }
  if s.poisoned a then t.poisonHit else t

/-- A part of a codeword is written: the codeword is read first (R128); a poisoned one drops the write (R131). -/
def State.cwPart (s : State) (src a : Nat) : State :=
  if s.poisoned a then s.poisonHit else s.dramMeet src (a / 16)

/-- Write bytes to DRAM codeword by codeword, for the master of a SRC code: a part of a poisoned codeword is dropped; the dropped codewords are listed (R131). -/
def dramPut (src : Nat) : Nat → State → Nat → Bytes → List Nat → State × List Nat
  | 0, s, _, _, dr => (s, dr)
  | k + 1, s, a, b, dr =>
    if b.isEmpty then (s, dr) else
    let d := 16 - a % 16
    let part := b.take d
    let full := decide (a % 16 = 0) && decide (part.length = 16)
    let t := if full then s.cwFresh a else s.cwPart src a
    if t.poisoned a then dramPut src k t (a + d) (b.drop d) (dr ++ [a / 16 * 16])
    else dramPut src k { t with mem := { t.mem with dram := memWrite t.mem.dram a part } } (a + d) (b.drop d) dr

/-- R47, R131: bytes that an internal master writes to DRAM; dropped and recorded while MEM is in reset. -/
def State.dramStore (s : State) (m : Master) (a : Nat) (b : Bytes) : State :=
  if s.inReset .mem then s.err .mem eDropped 0 m else (dramPut (masterSrc m) (cwSpan b.length) s a b []).1

/-- A block's own write to DRAM. -/
def State.dramWrite (s : State) (a : Nat) (b : Bytes) : State := s.dramStore .block a b

/-- R47, R128, R131: bytes that an internal master reads from DRAM: the errors that stand in them are met; a poisoned codeword gives no data, and counts as a hit unless this read has found it. -/
def State.dramFetch (s : State) (m : Master) (a n : Nat) : State × Option Bytes :=
  if s.inReset .mem then (s.err .mem eDropped 0 m, none)
  else
    let t := s.dramSeen (masterSrc m) a n
    if (firstPoison t a n (cwSpan n)).isSome then (if (firstPoison s a n (cwSpan n)).isSome then t.poisonHit else t, none)
    else (t, some (memRead t.mem.dram a n))

/-! ### The scrubber -/

/-- R133: the scrubber reads its burst of four codewords and moves on; `errs` gives the errors that have struck the array since the last access, by byte address. -/
def State.scrub (s : State) (errs : List (Nat × CwErr)) : State :=
  let s := s.dramStrike errs
  if s.inReset .mem || !s.takes .mem || !s.rb R.mem_MEM_CFG 0 then s else
  let p := s.rf R.mem_SCRUB_PTR 0 29
  let s := s.dramSeen 9 (p * 64) 64
  if p + 1 < dramSize / 64 then s.wr R.mem_SCRUB_PTR (w32 (p + 1))
  else ((s.wr R.mem_SCRUB_PTR 0).bump R.mem_SCRUB_PASS 1).irq .mem 2

/-- R135: an error in a codeword of packet SRAM. -/
def State.sramError (s : State) (a : Nat) (e : CwErr) : State :=
  let ue (t : State) : State :=
    ({ t with mem := { t.mem with sramPoison := t.mem.sramPoison ++ [a / 16] } }.bumpSat R.mem_SRAM_UE_COUNT 1).irq .mem 3
  if s.mem.sramPoison.contains (a / 16) then s else
  match e with
  | .one _ => s.bumpSat R.mem_SRAM_CE_COUNT 1
  | .two => ue s
  | .many =>
    let k := (Config.freeBelow s.free 2).val
    let s := s.draw 1
    if k = 0 then ue s
    else
      let t := { s with mem := { s.mem with sram := memWrite s.mem.sram (a / 16 * 16) (freeBytes s.free 16) } }.draw 16
      if k = 1 then t.bumpSat R.mem_SRAM_CE_COUNT 1 else t

/-- Errors strike packet SRAM. -/
def State.sramStrike (s : State) (errs : List (Nat × CwErr)) : State :=
  { s with mem := { s.mem with sramFlips := strike s.mem.sramFlips (errs.filter fun e => decide (e.1 < 0x400000)) } }

/-- A read meets the error that stands in a codeword of packet SRAM. -/
def State.sramMeet (s : State) (cw : Nat) : State :=
  match Sparse.find s.mem.sramFlips cw with
  | none => s
  | some e => { s with mem := { s.mem with sramFlips := Sparse.del s.mem.sramFlips cw } }.sramError (16 * cw) e

/-- A read of the bytes from a to a + n of packet SRAM meets the errors that stand in them. -/
def State.sramSeen (s : State) (a n : Nat) : State := (flipsIn s.mem.sramFlips a n).foldl (fun t w => t.sramMeet w) s

/-- SRAM_SCRUB: MEM scrubs packet SRAM in full; `errs` gives the errors that have struck it since the last access, by byte address. -/
def execSramScrub (errs : List (Nat × CwErr)) (s : State) : Host.Outcome State Fault Refusal :=
  .next (let t := s.sramStrike errs
    if t.inReset .mem then t else t.sramSeen 0 0x400000)

/-- Read packet SRAM; a poisoned codeword gives a bus error (R135). -/
def State.sramRead (s : State) (a n : Nat) : Option Bytes :=
  if s.mem.sramPoison.any fun p => decide (a / 16 ≤ p) && decide (p * 16 < a + n) then none else some (memRead s.mem.sram a n)

/-- Write bytes to packet SRAM, which the same code guards as DRAM: a codeword written whole takes fresh check symbols and loses its poison (R131, R135). -/
def State.sramWrite (s : State) (a : Nat) (b : Bytes) : State :=
  { s with mem := { s.mem with
      sram := memWrite s.mem.sram a b
      sramPoison := s.mem.sramPoison.filter fun p => !(decide (a ≤ p * 16) && decide (p * 16 + 16 ≤ a + b.length))
      sramFlips := s.mem.sramFlips.filter fun p => !(decide (a ≤ p.1 * 16) && decide (p.1 * 16 + 16 ≤ a + b.length)) } }

/-! ### NVS -/

/-- The bytes of one settings group: a sixteenth of NVS region 4. -/
abbrev groupLen : Nat := 0xA000

/-- The NVS address of a settings group. -/
abbrev groupAddr (g : Nat) : Nat := 0x60000 + groupLen * g

/-- The region of an NVS address (R137). -/
def nvsRegion (a : Nat) : Nat :=
  if a < 0x1000 then 0 else if a < 0x10000 then 1 else if a < 0x40000 then 2 else if a < 0x60000 then 3
  else if a < 0x100000 then 4 else if a < 0x300000 then 5 else if a < 0x600000 then 6 else 7

/-- The bit of an NVS writer mask. -/
inductive NvsWriter where
  | host | svc | lane (n : Nat) | porter | ldg | scl | fov | upd | chn | lnk
  deriving DecidableEq, Repr

/-- The number of a writer's mask bit. -/
def nvsBit : NvsWriter → Nat
  | .host => 0 | .svc => 1 | .lane n => 2 + n | .porter => 6 | .ldg => 7 | .scl => 8 | .fov => 9 | .upd => 10 | .chn => 11 | .lnk => 12

/-- The ERR_CODE master of a writer. -/
def nvsMaster : NvsWriter → Master
  | .host => .host | .svc => .svc | .lane n => .lane (Fin.ofNat 4 n) | .porter => .porter 0 | _ => .block

/-- The region's mask admits a writer (R137). -/
def State.nvsAllows (s : State) (w : NvsWriter) (r : Nat) : Bool := s.rb (R.nvs_NWRITERSr r) (nvsBit w)

/-- A writer's bytes reach a region: NVS is out of reset, and the region's mask admits the writer. -/
def State.nvsOpen (s : State) (w : NvsWriter) (r : Nat) : Bool := !s.inReset .nvs && s.nvsAllows w r

/-- The first address of region r; region 8 would begin at the end of NVS. -/
def nvsStart (r : Nat) : Nat := ([0, 0x1000, 0x10000, 0x40000, 0x60000, 0x100000, 0x300000, 0x600000].getD r 0x800000)

/-- Bytes stored in NVS with their code: words written whole are readable again, and a part of a word is corrected as it is rewritten (R136). -/
def State.nvsPut (s : State) (a : Nat) (b : Bytes) : State :=
  { s with nvs := ⟨memWrite s.nvs.mem a b, s.nvs.bad.filter fun p => !(decide (a ≤ p * 8) && decide (p * 8 + 8 ≤ a + b.length)),
      s.nvs.ones.filter fun p => !(decide (a < p * 8 + 8) && decide (p * 8 < a + b.length))⟩ }

/-- The part of a write that falls into region r: stored where the region's mask admits the writer, otherwise dropped and recorded as WRITE_DENIED (R137). -/
def State.nvsPart (w : NvsWriter) (a : Nat) (b : Bytes) (s : State) (r : Nat) : State :=
  let lo := max a (nvsStart r)
  let p := (b.drop (lo - a)).take (nvsStart (r + 1) - lo)
  if p.isEmpty then s
  else if s.nvsAllows w r then s.nvsPut lo p
  else s.err .nvs 0x80 0 (nvsMaster w)

/-- R136, R137: write bytes to NVS, region by region; a write while NVS is in reset is dropped. -/
def State.nvsWrite (s : State) (w : NvsWriter) (a : Nat) (b : Bytes) : State :=
  if s.inReset .nvs then s.err .nvs eDropped 0 (nvsMaster w) else (List.range 8).foldl (State.nvsPart w a b) s

/-- Read NVS; a word that cannot be corrected gives no data (R136), and NVS in reset gives none (R47). -/
def State.nvsRead (s : State) (a n : Nat) : Option Bytes :=
  if s.inReset .nvs || s.nvs.bad.any fun p => decide (a / 8 ≤ p) && decide (p * 8 < a + n) then none else some (memRead s.nvs.mem a n)

/-- A settings group holds stored items: its first byte is 1 (DESIGN CHOICE, log 51). -/
def State.groupStored (s : State) (g : Nat) : Bool := decide (memGet s.nvs.mem (groupAddr g) = 1)

/-- The firmware loads registers from a settings group that holds them, each from its offset in the group (R147, R457). A word that NVS cannot give leaves its register. -/
def State.loadGroup (s : State) (g : Nat) (regs : List (Nat × Nat)) : State :=
  if !s.groupStored g then s
  else regs.foldl (fun (t : State) p => match t.nvsRead (groupAddr g + p.1) 4 with | some b => t.wr p.2 (leWord b 0) | none => t) s

/-- Count an uncorrectable NVS word; the first keeps its address. -/
def State.nvsUe (s : State) (a : Nat) : State :=
  let s := if s.rn R.nvs_ECC_UE = 0 then s.wr R.nvs_ECC_ADDR (w32 (a / 8 * 8)) else s
  (s.bumpSat R.nvs_ECC_UE 1).irq .nvs 0

/-- Errors strike NVS, by byte address: one bit of a word, or more than its code corrects (R136). -/
def State.nvsStrike (s : State) : List (Nat × CwErr) → State
  | [] => s
  | (a, e) :: r =>
    let p := a / 8
    let s := if 0x800000 ≤ a || s.nvs.bad.contains p then s
      else match e with
        | .one _ => if s.nvs.ones.contains p then { s with nvs := { s.nvs with ones := s.nvs.ones.erase p, bad := p :: s.nvs.bad } }
                    else { s with nvs := { s.nvs with ones := p :: s.nvs.ones } }
        | _ => { s with nvs := { s.nvs with ones := s.nvs.ones.erase p, bad := p :: s.nvs.bad } }
    s.nvsStrike r

/-- R136: bytes that a master reads from NVS: each word with one wrong bit is corrected and counted, and a word that cannot be corrected gives none; the first such word is counted. -/
def State.nvsFetch (s : State) (a n : Nat) : State × Option Bytes :=
  let s := match (s.nvs.ones.filter fun p => decide (a / 8 ≤ p) && decide (p * 8 < a + n)).length with
    | 0 => s
    | k => s.bumpSat R.nvs_ECC_CE k
  match s.nvs.bad.find? fun p => decide (a / 8 ≤ p) && decide (p * 8 < a + n) with
  | some p => (s.nvsUe (p * 8), none)
  | none => (s, some (memRead s.nvs.mem a n))

/-! ### COR's SRAM -/

/-- One byte of the row buffer: word n of the frozen row at bytes 2n and 2n + 1 (R261). -/
def State.rowByte (s : State) (i : Nat) : Byte := BitVec.ofNat 8 ((Sparse.find s.cor.rowW (i / 2)).getD 0 / 256 ^ (i % 2))

/-- R250: n bytes of COR's SRAM from an offset: bank 0, bank 1 at 0x6_0000, the row buffer at 0xC_0000. -/
def State.corRead (s : State) (a n : Nat) : Bytes :=
  (List.range n).map fun j =>
    let i := a + j
    if i < 0xC0000 then memGet (s.cor.banks.getD (i / 0x60000) []) (i % 0x60000) else s.rowByte (i - 0xC0000)

/-- R250: the part of a write that falls into graph bank k; one into the staged bank clears STAGED and disarms the swap. -/
def State.corBank (s : State) (k a : Nat) (b : Bytes) : State :=
  let lo := max a (0x60000 * k)
  let p := (b.drop (lo - a)).take (0x60000 * (k + 1) - lo)
  if p.isEmpty then s else
  let s := { s with cor := { s.cor with banks := modAt s.cor.banks k fun g => memWrite g (lo - 0x60000 * k) p } }
  if k = s.rf R.cor_COR_STAT 2 1 then s
  else { (s.wb R.cor_COR_STAT 3 false).wb R.cor_COR_STAT 4 false with cor := { s.cor with swapAt := none } }

/-- R250: a write to COR's SRAM, bank by bank. The row buffer takes no writes. -/
def State.corWrite (s : State) (a : Nat) (b : Bytes) : State := (s.corBank 0 a b).corBank 1 a b

/-! ### The boot slot -/

/-- n bytes of the boot slot; a byte never written since delivery is open. -/
def State.bootRead (s : State) (a : Nat) : Nat → Bytes
  | 0 => []
  | n + 1 => (Sparse.find s.emc.boot a).getD (Config.shippedByte a) :: s.bootRead (a + 1) n

/-- R455: n bytes of the boot slot as they are read. While a copy is under way, how much of the old image is gone is open: the bytes of the new image's length are free. -/
def State.bootSeen (s : State) (a n : Nat) : State × Bytes :=
  match s.upd.journal with
  | .copying len _ =>
    let k := min n (len - a)
    (s.draw k, freeBytes s.free k ++ s.bootRead (a + k) (n - k))
  | _ => (s, s.bootRead a n)

/-- List bytes from address a upward. -/
def bootPut (m : Sparse Byte) (a : Nat) : Bytes → Sparse Byte
  | [] => m
  | x :: r => bootPut (Sparse.put m a x) (a + 1) r

/-- Write bytes to the boot slot. -/
def State.bootWrite (s : State) (a : Nat) (b : Bytes) : State :=
  { s with emc := { s.emc with boot := bootPut s.emc.boot a b }, upd := { s.upd with shipped := s.upd.shipped && b.isEmpty } }

/-! ### Porter transfers -/

/-- The block whose reset closes a store (R47). -/
def locBlk : PorterLoc → Option Blk
  | .dram _ => some .mem
  | .nvs _ => some .nvs
  | .cor _ => some .cor
  | .boot _ | .user _ | .boot2 _ | .rpmb _ => some .emc
  | _ => none

/-- A store is closed by the reset of its block. -/
def State.locShut (s : State) (l : PorterLoc) : Option Blk :=
  match locBlk l with
  | some b => if s.inReset b then some b else none
  | none => none

/-- The bytes of the eMMC user area (R138). -/
def userSize : Nat := (117440512 + Config.emcExtra.val) * 512

/-- How many bytes lie between a place and the end of its store (R127, R138, R141). -/
def locRoom : PorterLoc → Nat
  | .sram a => 0x400000 - a
  | .nvs a => 0x800000 - a
  | .dram a => dramSize - a
  | .boot a | .boot2 a => 0x2000000 - a
  | .rpmb a => 0x400000 - a
  | .user a => userSize - a
  | .cor a => 0xC2000 - a
  | .tcm a => 0x80000 - a
  | .host _ d => d.length

/-- The place is in the eMMC. -/
def locEmc : PorterLoc → Bool
  | .boot _ | .user _ | .boot2 _ | .rpmb _ => true
  | _ => false

/-- What a Porter reads from a place, up to the first codeword that gives no data, and whether it reached its end. -/
def State.porterRead (s : State) (l : PorterLoc) (n : Nat) : State × Bytes × Bool :=
  match l with
  | .sram a => let t := s.sramSeen a n; match t.sramRead a n with | some b => (t, b, true) | none => (t, [], false)
  | .nvs a => let p := s.nvsFetch a n; (match p.2 with | some b => (p.1, b, true) | none => (p.1, [], false))
  | .dram a =>
    let t := s.dramSeen 6 a n
    match firstPoison t a n (cwSpan n) with
    | some p => (if s.poisoned p then t.poisonHit else t, memRead t.mem.dram a (p - a), false)
    | none => (t, memRead t.mem.dram a n, true)
  | .boot a => let p := s.bootSeen a n; (p.1, p.2, true)
  | .boot2 a => (s, (List.range n).map fun i => Config.boot2Byte (a + i), true)
  | .rpmb _ => (s, [], false)
  | .user a => (s, memRead s.emc.user a n, true)
  | .cor a => (s, s.corRead a n, true)
  | .tcm a => (s, memRead s.mem.tcm a n, true)
  | .host _ d => (s, slice d 0 n, true)

/-- Store the bytes of a transfer. Boot 2 is write-protected, and the RPMB takes authenticated commands only (R138). -/
def State.porterWrite (s : State) (l : PorterLoc) (b : Bytes) : State :=
  match l with
  | .sram a => s.sramWrite a b
  | .nvs a => s.nvsWrite .porter a b
  | .dram a => s.dramStore (.porter 0) a b
  | .boot a => s.bootWrite a b
  | .boot2 _ | .rpmb _ => s
  | .user a => { s with emc := { s.emc with user := memWrite s.emc.user a b } }
  | .cor a => s.corWrite a b
  | .tcm a => { s with mem := { s.mem with tcm := memWrite s.mem.tcm a b } }
  | .host _ _ => s.answer (.bytes b)

/-- Errors strike the store that a transfer reads. -/
def State.porterStrike (s : State) (t : Porter) : State :=
  match t.src with
  | .dram _ => s.dramStrike t.errs
  | .sram _ => s.sramStrike t.errs
  | .nvs _ => s.nvsStrike t.errs
  | _ => s

/-- The place takes a Porter's writes. -/
def locWritable : PorterLoc → Bool
  | .boot2 _ | .rpmb _ => false
  | _ => true

/-- The place answers a Porter's reads. -/
def locReadable : PorterLoc → Bool
  | .rpmb _ => false
  | _ => true

/-- The eMMC refuses a command: DEV_STATUS shows its card status, which the spec leaves open, and DEV_ERR is raised (R138; DESIGN CHOICE, log 50). -/
def State.devErr (s : State) : State := ((s.wr R.emc_DEV_STATUS (Config.freeWord s.free)).draw 1).irq .emc 1

/-- The eMMC's part in a transfer: DONE for a command that it carried out, DEV_ERR for one that it refuses. -/
def State.emcDone (s : State) (t : Porter) : State :=
  if !locEmc t.src && !locEmc t.dst then s
  else if locWritable t.dst && locReadable t.src then s.irq .emc 0 else s.devErr

/-- R95, R127, R131, R141: a Porter transfer ends: it decrements the counter it names, or ends with FAULT at a codeword that gives no data, at a place that does not exist, or at one that refuses it. -/
def State.porterMove (s : State) (t : Porter) : State :=
  let s := s.porterStrike t
  let n := min t.len (min (locRoom t.src) (match t.dst with | .host _ _ => t.len | d => locRoom d))
  let r := s.porterRead t.src n
  let s := (r.1.porterWrite t.dst r.2.1).emcDone t
  if r.2.2 && decide (n = t.len) && locWritable t.dst then
    let s := if t.ctr % 1024 ≠ 0 then s.decCtr (t.ctr % 1024) else s
    match t.dst with
    | .host _ _ => s
    | _ => s.answer .done
  else s.answer .busError

/-- A Porter transfer ends; one whose store is in reset is dropped and recorded (R47). -/
def State.porterDone (s : State) (t : Porter) : State :=
  match s.locShut t.src, s.locShut t.dst with
  | some b, _ => (s.err b eDropped 0 (.porter t.chan)).answer .busError
  | none, some b => (s.err b eDropped 0 (.porter t.chan)).answer .busError
  | none, none => s.porterMove t

/-! ### BAR2 -/

/-- A BAR2 access of n bytes at DRAM address a touches memory that is closed to the host (R62): each MiB that it touches must be open. -/
def State.bar2Closed (s : State) (attr : Nat) (closed : Nat → Bool) (a n : Nat) : Bool :=
  decide (dramSize < a + n) ||
  !((List.range ((a + n - 1) / 2 ^ 20 - a / 2 ^ 20 + 1)).all fun i => s.hostOpen attr closed ((a / 2 ^ 20 + i) * 2 ^ 20))

/-- Record a BAR2 error with its DRAM address (R62). -/
def State.bar2Err (s : State) (code a : Nat) : State :=
  ((s.wr R.sys_ERR_ADDR_LO (w32 a)).wr R.sys_ERR_ADDR_HI (w32 (a / 2 ^ 32))).err .sys code 0 .host

/-- R61, R62, R131: serve a BAR2 access at the base in force; the state after it and its answer. -/
def State.bar2 (s : State) (closed : Nat → Bool) (x : Bar2Access) : State × Resp :=
  match x with
  | .read off n errs =>
    let a := s.host.aptBase + off
    if s.bar2Closed 1 closed a n then (s.bar2Err eClosed a, .abort)
    else
      let hit := (firstPoison s a n (cwSpan n)).isSome
      let s := (s.dramStrike errs).dramSeen (masterSrc .host) a n
      match firstPoison s a n (cwSpan n) with
      | some p => ((if hit then s.poisonHit else s).bar2Err ePoisoned p, .abort)
      | none => (s, .bytes (memRead s.mem.dram a n))
  | .write off b errs =>
    let a := s.host.aptBase + off
    if s.bar2Closed 2 closed a b.length then (s.bar2Err eClosed a, .done)
    else
      let r := dramPut (masterSrc .host) (cwSpan b.length) (s.dramStrike errs) a b []
      (r.2.foldl (fun t p => t.bar2Err ePoisoned p) r.1, .done)

/-! ### The default map (R134) -/

/-- The regions of the Amfadan firmware: base and limit in MiB, and ATTR. -/
def defaultMap : List (Nat × Nat × Nat) := [(0, 0xFF, 9), (0x100, 0x10F, 9), (0x110, 0x3FF, 3), (0x400, 0x7FF, 1), (0x800, 0x1A74, 3), (0x1A75, 0x1BFF, 7)]

/-- Write regions from number r on. -/
def putRegions : Nat → List (Nat × Nat × Nat) → State → State
  | _, [], s => s
  | r, (b, l, a) :: m, s => putRegions (r + 1) m (((s.wr (R.mem_REGr_BASE r) (w32 b)).wr (R.mem_REGr_LIMIT r) (w32 l)).wr (R.mem_REGr_ATTR r) (w32 a))

/-- R134: the Amfadan firmware sets up its map and locks the MEM page. -/
def State.mapSetup (s : State) : State := (putRegions 0 defaultMap s).wb (hdr .mem oLock) 0 true

/-! ### Register writes -/

/-- MEM registers with a range: the write is ignored whole and recorded as BAD_VALUE (R70, R133). -/
def State.memBad (s : State) (off : Nat) (v : Word) : Bool :=
  if off = 0x44 then decide (fld v 0 10 < 100) || decide (735 < fld v 0 10)
  else if off = 0x80 then decide (7168 < fld v 0 13 + 4725)
  else if 0x90 ≤ off ∧ off < 0xB0 then decide (24 < fld v 0 5)
  else if 0x100 ≤ off ∧ off < 0x180 ∧ off % 16 = 4 then
    decide (fld v 0 13 < s.rf (R.mem_REGr_BASE ((off - 0x100) / 16)) 0 13) || decide (7168 ≤ fld v 0 13)
  else false

end Sys2Proof.Machine
end

