-- ==== Sys2Proof/Machine/Ledger.lean ====
section
/-! DEFINITION. The Ledger: records, the reading window, histograms and extremes (R395-R414). -/

namespace Sys2Proof.Machine

open Sys2Proof

/-! ### Records -/

/-- R395: the 32 bytes of a record, with its CRC. -/
def recBytes (r : Rec) : Bytes :=
  let b := toLe 2 r.code ++ toLe 2 (r.sev % 16 + r.src % 4096 * 16) ++ toLe 4 r.opsec ++ toLe 1 r.opfrac ++ toLe 3 r.pwrcyc ++
    toLe 4 r.seq ++ toLe 4 r.p0.toNat ++ toLe 4 r.p1.toNat ++ toLe 4 r.p2.toNat ++ toLe 2 (1 + b2n r.cont * 16 + b2n r.nt * 32)
  b ++ toLe 2 (crcOf crc16 b)

/-- R395: 32 bytes are a valid record: FMT = 0x1 and the CRC is correct. -/
def recValid (b : Bytes) : Bool :=
  decide (le b 28 1 % 16 = 1) && decide (le b 30 2 = crcOf crc16 (slice b 0 30))

/-- R398: the slot of a sequence number. -/
def slotOf (q : Nat) : Nat := if q < 4096 then q else 4096 + (q - 4096) % 61440

/-- R398: the NVS address of a slot. -/
def slotAddr (slot : Nat) : Nat := 0x100000 + 32 * slot

/-- R405: codes that a submission may carry. -/
def logCodeOk (c : Nat) : Bool :=
  decide (0xF000 ≤ c ∧ c ≤ 0xFFFF) || decide (0xE000 ≤ c ∧ c ≤ 0xECFF)

/-- The masters that may submit records and feed series: the service core and the lanes (R401, R409). -/
def mayLog : Master → Bool
  | .svc => true | .lane _ => true | _ => false

/-- The staged LOG word j of a master. -/
def State.logStage (s : State) (m : Master) (j : Nat) : Word :=
  (Sparse.find s.ldg.stage (16 * masterIx m + j)).getD (if j = 15 then 1 else 0)

/-- Stage a LOG word of a master. -/
def State.setLogStage (s : State) (m : Master) (j : Nat) (v : Word) : State :=
  { s with ldg := { s.ldg with stage := Sparse.put s.ldg.stage (16 * masterIx m + j) v } }

/-- R401: a write of LOG_Pj or, as j = 15, of LOG_N. -/
def State.logWrite (s : State) (m : Master) (j : Nat) (v : Word) : State :=
  let off := if j = 15 then 0x64 else 0x70 + 4 * j
  if !mayLog m then s.err .ldg 0x81 off m
  else if j = 15 then (if fld v 0 2 = 0 then s.err .ldg eBadValue off m else s.setLogStage m 15 (w32 (fld v 0 2)))
  else s.setLogStage m j v

/-- R401, R404, R405: the write of LOG_HDR submits a group of the staged records. -/
def State.logSubmit (s : State) (m : Master) (v : Word) : State :=
  let code := fld v 0 16
  let sev := fld v 16 4
  if !mayLog m then s.err .ldg 0x81 0x60 m
  else
    let n := fld (s.logStage m 15) 0 2
    let ps := (List.range n).map fun j => (s.logStage m (3 * j), s.logStage m (3 * j + 1), s.logStage m (3 * j + 2))
    let s := s.setLogStage m 15 1
    if 6 ≤ sev || !logCodeOk code then s.err .ldg eBadValue 0x60 m
    else s.logGroup m code sev (fld v 20 12) ps

/-- LOG_SUBMIT: a write of LOG_HDR. -/
def execLogSubmit (m : Master) (v : Word) (s : State) : Host.Outcome State Fault Refusal :=
  .next (s.writeAt .ldg 0x60 m v fun t => (t.logSubmit m v).answer .done)

/-- DRAINED of LDG sets once every accepted record is written (R413). -/
def State.ldgDrainCheck (s : State) : State :=
  if s.draining .ldg && s.ldg.fifo.isEmpty then s.setDrained .ldg else s

/-- R402, R404: write the oldest accepted record to its slot. -/
def State.writeRec (s : State) : State :=
  match s.ldg.fifo with
  | [] => s
  | r :: rest =>
    let s := { s with ldg := { s.ldg with fifo := rest } }
    let s := s.nvsWrite .ldg (slotAddr (slotOf r.seq)) (recBytes r)
    let s := (s.bump R.ldg_REC_CNT 1).irq .ldg 0
    if s.rf R.ldg_SEV_LEVEL 0 4 ≤ r.sev then s.irq .ldg 2 else s

/-- RECORD_WRITE: LDG writes the next accepted record; records wait while the scan runs (R400). -/
def execRecordWrite (s : State) : Host.Outcome State Fault Refusal :=
  .next (if s.inReset .ldg || !s.ldg.ready || (s.en .ldg && s.drainBit .ldg) then s else s.writeRec.ldgDrainCheck)

/-- R403: write the LOST record that is due, with the number of records refused, or an unknown count. -/
def State.lostRec (s : State) : State :=
  if s.inReset .ldg || !s.ldg.ready || !s.takes .ldg || decide (64 ≤ s.ldg.fifo.length) then s
  else if s.ldg.lostUnknown then
    let s := { s with ldg := { s.ldg with lostUnknown := false } }
    s.logGroup .block 0xEA00 3 0x1A0 [(0, 1, 0)]
  else if s.ldg.lostDue = 0 then s
  else
    let n := s.ldg.lostDue
    let s := { s with ldg := { s.ldg with lostDue := 0 } }
    s.logGroup .block 0xEA00 3 0x1A0 [(w32 n, 0, 0)]

/-- LOST_RECORD: FIFO space has returned. -/
def execLostRecord (s : State) : Host.Outcome State Fault Refusal := .next s.lostRec

/-! ### The scan after release -/

/-- Slots that hold any written byte, with repeats. -/
def State.usedSlots (s : State) : List Nat :=
  ((s.nvs.mem.filter fun p => decide (0x100000 ≤ p.1) && decide (p.1 < 0x300000)).map fun p => (p.1 - 0x100000) / 32).eraseDups

/-- The valid records found, as sequence number and operating second. -/
def State.validRecs (s : State) : List (Nat × Nat) :=
  s.usedSlots.filterMap fun t =>
    match s.nvsRead (slotAddr t) 32 with
    | some b => if recValid b then some (le b 12 4, le b 4 4) else none
    | none => none

/-- The latest of a list of sequence numbers by the order of R7. -/
def latestRec : List (Nat × Nat) → Option (Nat × Nat)
  | [] => none
  | p :: r =>
    match latestRec r with
    | none => some p
    | some b => if later (w32 p.1) (w32 b.1) then some p else some b

/-- Give the waiting records of the FIFO consecutive numbers from q on. -/
def renumber : Nat → List Rec → List Rec
  | _, [] => []
  | q, r :: l => { r with seq := q } :: renumber (seqNext q) l

/-- Slots that NVS cannot correct. -/
def State.badSlots (s : State) : Nat :=
  ((s.nvs.bad.filter fun p => decide (0x100000 ≤ p * 8) && decide (p * 8 < 0x300000)).map fun p => (p * 8 - 0x100000) / 32).eraseDups.length

/-- R397, R400: the scan ends: NEXT_SEQ follows the latest valid record, waiting records take numbers from it, and operating time resumes from the larger of its saved value and the newest record's. -/
def State.scanDone (s : State) : State :=
  let best := latestRec s.validRecs
  let q := match best with | some p => seqNext p.1 | none => 0
  let saved := match s.nvsRead 0x40000 8 with | some b => leFirst 8 b | none => 0
  let op := max saved ((best.map fun p => p.2 * 250000000).getD 0)
  let bad := s.badSlots
  let s := (s.wr R.ldg_BAD_SLOTS (w32 bad))
  { s with ldg := { s.ldg with
      ready := true, fifo := renumber q s.ldg.fifo, nextSeq := seqAfter s.ldg.fifo.length q,
      opBase := max op s.opTime, opCnt := s.cnt } }

/-! ### Series -/

/-- A series as after a clear. -/
def Series.clear (x : Series) : Series := { x with bins := [], under := 0, above := 0, count := 0, sum := 0, least := none, most := none }

/-- A series that has never been configured. -/
def Series.init : Series := ⟨false, 0, 0, 1, [], 0, 0, 0, 0, none, none⟩

/-- A series by its number. -/
def State.series (s : State) (n : Nat) : Series := (Sparse.find s.ldg.series n).getD Series.init

/-- Replace a series. -/
def State.setSeries (s : State) (n : Nat) (x : Series) : State :=
  { s with ldg := { s.ldg with series := Sparse.put s.ldg.series n x } }

/-- R408: the bin of a value. -/
def Series.bin (x : Series) (v : Int) : Nat :=
  if v < x.lo then 0 else min ((v - x.lo) / (x.width : Int)).toNat 63

/-- R408: add a value to a series at an operating time and power cycle. -/
def Series.feed (x : Series) (v : Int) (t c : Nat) : Series :=
  let i := x.bin v
  { x with
    bins := Sparse.put x.bins i (min ((Sparse.find x.bins i).getD 0 + 1) 0xFFFFFFFF),
    under := if v < x.lo then min (x.under + 1) 0xFFFFFFFF else x.under,
    above := if x.lo + 64 * (x.width : Int) ≤ v then min (x.above + 1) 0xFFFFFFFF else x.above,
    count := (x.count + 1) % 2 ^ 64,
    sum := sgn 64 (unsgn 64 (x.sum + v)),
    least := match x.least with | some p => if v < p.1 then some (v, t, c) else some p | none => some (v, t, c),
    most := match x.most with | some p => if p.1 < v then some (v, t, c) else some p | none => some (v, t, c) }

/-- R409: clear a series and write SERIES_CLEARED with its cause: 1 clear, 2 reconfigured. -/
def State.clearSeries (s : State) (n cause : Nat) : State :=
  let c := (s.series n).count
  let s := s.setSeries n (s.series n).clear
  s.logGroup .block 0xEA01 1 0x1A0 [(w32 n, w32 cause, w32 c)]

/-- R409, R413: a write of FEED_SER feeds the staged value. -/
def State.feedSer (s : State) (m : Master) (v : Word) : State :=
  let n := fld v 0 8
  let x := s.series n
  if !mayLog m then s.err .ldg 0x81 0x144 m
  else if !s.takes .ldg || !x.en then s.err .ldg 0x82 0x144 m
  else s.setSeries n (x.feed (sInt (s.logStage m 14)) (s.opTime / 250000000) (s.rf R.pwt_PWRCYC 0 24))

/-- SERIES_FEED: a write of FEED_SER. -/
def execSeriesFeed (m : Master) (v : Word) (s : State) : Host.Outcome State Fault Refusal :=
  .next (s.writeAt .ldg 0x144 m v fun t => (t.feedSer m v).answer .done)

/-- SER_CTRL_CLEAR: a write of SER_CTRL. -/
def execSerCtrlClear (m : Master) (v : Word) (s : State) : Host.Outcome State Fault Refusal :=
  .next (s.writeAt .ldg 0x138 m v fun t => (if tst v 0 then t.clearSeries (t.rf R.ldg_SER_SEL 0 8) 1 else t).answer .done)

/-- A write of SER_LO or SER_WIDTH of the selected series. -/
def State.serShape (s : State) (m : Master) (off : Nat) (v : Word) : State :=
  let n := s.rf R.ldg_SER_SEL 0 8
  let x := s.series n
  if off = 0x10C ∧ v = 0 then s.err .ldg eBadValue off m
  else if x.en then s.err .ldg eBusy off m
  else
    let y := if off = 0x108 then { x with lo := sInt v } else { x with width := v.toNat }
    if y = x then s else (s.setSeries n y).clearSeries n 2

/-- A write of SER_CFG of the selected series. -/
def State.serCfg (s : State) (v : Word) : State :=
  let n := s.rf R.ldg_SER_SEL 0 8
  s.setSeries n { s.series n with en := tst v 0, qty := fld v 8 8 }

/-- R410: the 480-byte saved form of a series. -/
def seriesBytes (x : Series) : Bytes :=
  let ext (p : Option (Int × Nat × Nat)) : Bytes :=
    match p with
    | some q => toLe 4 (unsgn 32 q.1) ++ toLe 4 q.2.1 ++ toLe 4 q.2.2
    | none => List.replicate 12 0
  let b := toLe 1 (b2n x.en + 2 * b2n x.least.isSome) ++ toLe 1 x.qty ++ toLe 2 0 ++ toLe 4 (unsgn 32 x.lo) ++ toLe 4 x.width ++
    (List.range 64).flatMap (fun i => toLe 4 ((Sparse.find x.bins i).getD 0)) ++ toLe 4 x.under ++ toLe 4 x.above ++
    toLe 8 x.count ++ toLe 8 (unsgn 64 x.sum) ++ ext x.least ++ ext x.most
  let b := slice b 0 476
  b ++ toLe 4 (crcOf crc32c b)

/-- R410: the NVS address of a saved series. -/
def seriesAddr (n : Nat) : Nat := 0x41000 + 480 * n

/-- A series read back from its saved form, none where its CRC fails (R411). -/
def seriesOf (b : Bytes) : Option Series :=
  if le b 476 4 ≠ crcOf crc32c (slice b 0 476) then none else
  let has := decide (le b 0 1 / 2 % 2 = 1)
  let ext (i : Nat) : Option (Int × Nat × Nat) := if has then some (sgn 32 (le b i 4), le b (i + 4) 4, le b (i + 8) 4) else none
  some ⟨decide (le b 0 1 % 2 = 1), le b 1 1, sgn 32 (le b 4 4), le b 8 4,
    (List.range 64).filterMap (fun i => let v := le b (12 + 4 * i) 4; if v = 0 then none else some (i, v)),
    le b 268 4, le b 272 4, le b 276 8, sgn 64 (le b 284 8), ext 292, ext 304⟩

/-- R410: save every series that has ever been configured, fed or resumed; the others hold nothing to save. -/
def State.saveSeries (s : State) : State :=
  s.ldg.series.foldl (fun t p => t.nvsWrite .ldg (seriesAddr p.1) (seriesBytes p.2)) s

/-- SERIES_SAVE: the save of every 64 superframes. -/
def execSeriesSave (s : State) : Host.Outcome State Fault Refusal :=
  .next (if s.inReset .ldg || !s.en .ldg then s else s.saveSeries)

/-- R397: save the operating time to NVS region 3. -/
def State.saveOp (s : State) : State := s.nvsWrite .ldg 0x40000 (toLe 8 s.opTime)

/-- OPTIME_SAVE: the save of every 64 superframes. -/
def execOptimeSave (s : State) : Host.Outcome State Fault Refusal :=
  .next (if s.inReset .ldg || !s.en .ldg then s else s.saveOp)

/-- R411: one series resumes from its saved copy; a copy whose CRC fails restarts empty and disabled, with its record and interrupt. A copy never written restarts empty without them. -/
def resumeSeries (s : State) (n : Nat) : State :=
  match s.nvsRead (seriesAddr n) 480 with
  | some b =>
    if b.all fun x => x = 0 then s
    else match seriesOf b with
      | some x => s.setSeries n x
      | none => ((s.setSeries n Series.init).logGroup .block 0xEA02 2 0x1A0 [(w32 n, 0, 0)]).irq .ldg 3
  | none => ((s.setSeries n Series.init).logGroup .block 0xEA02 2 0x1A0 [(w32 n, 0, 0)]).irq .ldg 3

/-- One record or event of the start. -/
def State.lateOne (s : State) (x : Late) : State :=
  match x with
  | .record code sev src p0 p1 p2 => s.ledger code sev src p0 p1 p2
  | .event code src p => s.event code src p

/-- The firmware writes what the start has left to record, once LDG takes records and has scanned (R33, R36, R40, R347, R394). -/
def State.lateFlush (s : State) : State :=
  if decide (s.boot.stage = .booted) && s.takes .ldg && s.ldg.ready then
    s.boot.late.foldl (fun (t : State) x => t.lateOne x) { s with boot := { s.boot with late := [] } }
  else s

/-- LEDGER_SCAN_DONE: the slot scan after release ends, the series resume, and the records of the start follow. -/
def execLedgerScanDone (s : State) : Host.Outcome State Fault Refusal :=
  .next (if s.inReset .ldg || s.ldg.ready then s else ((List.range 256).foldl resumeSeries s.scanDone).lateFlush)

/-! ### The window -/

/-- The window of a master. -/
def State.ldgWin (s : State) (m : Master) : LdgWin := (Sparse.find s.ldg.wins (masterIx m)).getD ⟨0, false, 3, 0, List.replicate 8 0⟩

/-- Replace the window of a master. -/
def State.setLdgWin (s : State) (m : Master) (w : LdgWin) : State :=
  { s with ldg := { s.ldg with wins := Sparse.put s.ldg.wins (masterIx m) w } }

/-- R406: the state of a copy of the slot of sequence q: 0 HELD, 1 GONE, 2 NOT_YET, 3 EMPTY, and the words shown. -/
def State.latchView (s : State) (q : Nat) : Nat × List Word :=
  let zero : List Word := List.replicate 8 0
  if !s.ldg.ready then (3, zero)
  else if notEarlier (w32 q) (w32 s.ldg.nextSeq) then (2, zero)
  else match s.nvsRead (slotAddr (slotOf q)) 32 with
    | none => (3, zero)
    | some b =>
      if !recValid b then (3, zero)
      else if le b 12 4 = q then (0, bytesWords 8 b)
      else (1, bytesWords 8 b)

/-- R406: latch the slot of a sequence number into a master's window. -/
def State.latchWin (s : State) (m : Master) (q : Word) : State :=
  let v := s.latchView q.toNat
  s.setLdgWin m { s.ldgWin m with cursor := q, state := v.1, slot := slotOf q.toNat, win := v.2 }

/-- CURSOR_WRITE: a write of CURSOR. -/
def execCursorWrite (m : Master) (v : Word) (s : State) : Host.Outcome State Fault Refusal :=
  .next (s.writeAt .ldg 0xA0 m v fun t => (t.latchWin m v).answer .done)

/-- R407: a read of WIN7; with AUTO the cursor advances and latches after the read. -/
def State.win7Read (s : State) (m : Master) : State :=
  let w := s.ldgWin m
  let r := s.answer (.data (w.win.getD 7 0))
  if w.auto then r.latchWin m (w32 (seqNext w.cursor.toNat)) else r

/-- WINDOW_AUTO_READ: a read of WIN7. -/
def execWindowAutoRead (m : Master) (s : State) : Host.Outcome State Fault Refusal :=
  .next (s.readAt .ldg 0xDC m fun t => t.win7Read m)

/-! ### Mailbox opcodes (R414) -/

/-- The record that LEDGER_READ gives for a sequence number: its bytes where HELD, otherwise zeros. -/
def State.readRec (s : State) (q : Nat) : Bytes × Bool :=
  let v := s.latchView q
  if v.1 = 0 then (wordsBytes v.2, true) else (List.replicate 32 0, false)

/-- n records from a sequence number on, and how many were HELD. -/
def readRecs (s : State) : Nat → Nat → Bytes × Nat
  | 0, _ => ([], 0)
  | n + 1, q =>
    let r := s.readRec q
    let t := readRecs s n (seqNext q)
    (r.1 ++ t.1, b2n r.2 + t.2)

/-- LEDGER_READ (0x0A00). -/
def execLedgerRead (tag : Word) (s : State) : Host.Outcome State Fault Refusal :=
  .next (s.withCmd 0x0A00 tag fun c t =>
    let n := c.par 4 2
    if n = 0 ∨ 4096 < n then t.reply c stBadParam [] []
    else if c.e.length ≠ 32 * n then t.reply c stBadLength [] []
    else if t.inReset .ldg then t.reply c stBusy [] []
    else
      let r := readRecs t n (c.par 0 4)
      t.reply c stOk (toLe 4 r.2 ++ toLe 4 t.ldg.nextSeq) r.1)

/-- LEDGER_NOTE (0x0A01). -/
def execLedgerNote (tag : Word) (s : State) : Host.Outcome State Fault Refusal :=
  .next (s.withCmd 0x0A01 tag fun c t =>
    let code := c.par 0 2
    if code < 0xEAF0 ∨ 0xEAFF < code ∨ 6 ≤ c.par 2 1 then t.reply c stBadParam [] []
    else if t.inReset .ldg || !t.ldgRoom 1 then (t.ledger code (c.par 2 1) 0xFF0 (c.par 3 4) (c.par 7 4) (c.par 11 4)).reply c stBusy [] []
    else
      let q := t.ldg.nextSeq
      (t.ledger code (c.par 2 1) 0xFF0 (c.par 3 4) (c.par 7 4) (c.par 11 4)).reply c stOk (toLe 4 q) [])

/-- SERIES_READ (0x0A02). -/
def execSeriesRead (tag : Word) (s : State) : Host.Outcome State Fault Refusal :=
  .next (s.withCmd 0x0A02 tag fun c t =>
    if t.inReset .ldg then t.reply c stBusy [] [] else t.reply c stOk [] (seriesBytes (t.series (c.par 0 1))))

/-- SERIES_CFG (0x0A03): LO and W change only while the series is disabled (R409). -/
def execSeriesCfg (tag : Word) (s : State) : Host.Outcome State Fault Refusal :=
  .next (s.withCmd 0x0A03 tag fun c t =>
    let n := c.par 0 1
    let x := t.series n
    let lo := sgn 32 (c.par 3 4)
    let w := c.par 7 4
    let shape := decide (lo ≠ x.lo) || decide (w ≠ x.width)
    if w = 0 ∨ 1 < c.par 1 1 then t.reply c stBadParam [] []
    else if t.inReset .ldg || (shape && x.en) then t.reply c stBusy [] []
    else
      let t := t.setSeries n { x with en := decide (c.par 1 1 = 1), qty := c.par 2 1, lo := lo, width := w }
      (if shape then t.clearSeries n 2 else t).reply c stOk [] [])

/-- SERIES_CLEAR (0x0A04). -/
def execSeriesClear (tag : Word) (s : State) : Host.Outcome State Fault Refusal :=
  .next (s.withCmd 0x0A04 tag fun c t =>
    if t.inReset .ldg then t.reply c stBusy [] [] else (t.clearSeries (c.par 0 1) 1).reply c stOk [] [])

/-! ### Registers, power cuts and reset -/

/-- R403: write the whole FIFO, then the operating time. -/
def ldgFlush : Nat → State → State
  | 0, s => s
  | n + 1, s => if s.ldg.fifo.isEmpty then s else ldgFlush n s.writeRec

/-- R397, R403: the flush on PFAIL and before a warm reset. -/
def State.ldgSave (s : State) : State :=
  if s.inReset .ldg || !s.ldg.ready then s else (ldgFlush s.ldg.fifo.length s).saveOp

/-- LDG registers that show its stores. -/
def State.ldgRead (s : State) (m : Master) (off : Nat) : Option Word :=
  let w := s.ldgWin m
  let x := s.series (s.rf R.ldg_SER_SEL 0 8)
  let ext (p : Option (Int × Nat × Nat)) : Word × Word := match p with | some q => (wOfInt q.1, w32 q.2.1) | none => (0, 0)
  if off = 0x40 then some (w32 (b2n s.ldg.ready + 4 * s.ldg.fifo.length))
  else if off = 0x44 then some (w32 s.ldg.nextSeq)
  else if off = 0x48 then some (w32 (s.opTime / 250000000))
  else if off = 0x4C then some (w32 (s.ldg.opLatch % 250000000 * 256 / 250000000 + s.rf R.pwt_PWRCYC 0 24 * 256))
  else if off = 0x64 then some 0
  else if off = 0xA0 then some w.cursor
  else if off = 0xA4 then some (w32 (b2n w.auto))
  else if off = 0xA8 then some (w32 (w.state + w.slot * 2 ^ 16))
  else if 0xC0 ≤ off ∧ off < 0xE0 then some (w.win.getD ((off - 0xC0) / 4) 0)
  else if off = 0x104 then some (w32 (b2n x.en + x.qty * 256))
  else if off = 0x108 then some (wOfInt x.lo)
  else if off = 0x10C then some (w32 x.width)
  else if off = 0x110 then some (w32 x.count)
  else if off = 0x114 then some (w32 (x.count / 2 ^ 32))
  else if off = 0x118 then some (wOfInt x.sum)
  else if off = 0x11C then some (w32 (unsgn 64 x.sum / 2 ^ 32))
  else if off = 0x120 then some (ext x.least).1
  else if off = 0x124 then some (ext x.least).2
  else if off = 0x128 then some (ext x.most).1
  else if off = 0x12C then some (ext x.most).2
  else if off = 0x130 then some (w32 x.under)
  else if off = 0x134 then some (w32 x.above)
  else if 0x200 ≤ off ∧ off < 0x300 then some (w32 ((Sparse.find x.bins ((off - 0x200) / 4)).getD 0))
  else none

/-- LDG registers written by a rule of their own; none where the plain access type applies. -/
def State.ldgWrite (s : State) (m : Master) (off : Nat) (v : Word) : Option State :=
  if off = 0x50 then (if 5 < fld v 0 4 then some (s.err .ldg eBadValue off m) else none)
  else if off = 0x60 then some (s.logSubmit m v)
  else if off = 0x64 then some (s.logWrite m 15 v)
  else if 0x70 ≤ off ∧ off < 0x94 then some (s.logWrite m ((off - 0x70) / 4) v)
  else if off = 0xA0 then some (s.latchWin m v)
  else if off = 0xA4 then some (s.setLdgWin m { s.ldgWin m with auto := tst v 0 })
  else if off = 0x104 then some (s.serCfg v)
  else if off = 0x108 ∨ off = 0x10C then some (s.serShape m off v)
  else if off = 0x138 then some (if tst v 0 then s.clearSeries (s.rf R.ldg_SER_SEL 0 8) 1 else s)
  else if off = 0x140 then some (if mayLog m then s.setLogStage m 14 v else s.err .ldg 0x81 off m)
  else if off = 0x144 then some (s.feedSer m v)
  else none

/-- An LDG block reset discards the FIFO and the series; a LOST record of unknown count is due after it (R413). -/
def State.ldgReset (s : State) : State :=
  { s with ldg := { s.ldg with ready := false, fifo := [], lostDue := 0, lostUnknown := true, series := [], stage := [], wins := [],
                               opBase := s.opTime, opCnt := s.cnt } }

end Sys2Proof.Machine
end

