-- ==== Sys2Proof/Machine/NetTime.lean ====
section
/-! DEFINITION. Network time: the anchor, the servo, steps, sources, PPS and time of day, and the bound (R225-R247). -/

namespace Sys2Proof.Machine

open Sys2Proof

/-! ### Anchor, rate and steps -/

/-- One second of CNT (R225: 250 MHz). -/
abbrev cntSec : Nat := 250000000

/-- One tick in units of 2^-16 ns. -/
abbrev tick16 : Nat := 4000000 * 2 ^ 16

/-- Set OFFSET, in units of 2^-16 ns, and ANCHOR. -/
def State.setAnchor (s : State) (off : Nat) (c : DWord) : State :=
  let s := (s.wr R.ntm_OFFSET_FRAC (w32 (off % 2 ^ 16))).wr64 R.ntm_OFFSET_NS_LO R.ntm_OFFSET_NS_HI (off / 2 ^ 16)
  s.wr64 R.ntm_ANCHOR_LO R.ntm_ANCHOR_HI c.toNat

/-- R227: change RATE at a counter value without a jump of network time. -/
def State.setRate (s : State) (c : DWord) (v : Int) : State := (s.setAnchor (s.nt c) c).wr R.ntm_RATE (wOfInt v)

/-- Store NTM_STAT.STATE. -/
def State.setTm (s : State) (st : Nat) : State := s.wf R.ntm_NTM_STAT 0 3 st

/-- ppb_to_rate of R237, for a ppb value given as a quotient. -/
def ppbRate (num den : Int) : Int := num * 2 ^ 48 / (den * 1000000000)

/-- Seconds spent in the current holdover. -/
def State.holdS (s : State) : Nat := if s.tmState = 3 then (s.cnt - s.ntm.holdCnt).toNat / cntSec else 0

/-- R242, R243: the bound in ns, none while unknown. -/
def State.bound (s : State) : Option Nat :=
  if s.tmState = 0 then none else s.ntm.base.map fun b => b + s.holdS * s.rn R.ntm_HOLD_RATE

/-- R243: the source code of TQ: 0 PPS and host, 1 ring, 2 beacon chain, 3 holdover. -/
def State.tqSrc (s : State) : Nat :=
  if s.tmState = 3 then 3
  else match s.rf R.ntm_NTM_CFG 0 2 with
    | 2 => 1
    | 3 => 2
    | _ => 0

/-- R243: TQ, ERR in bits 5:0 and SRC in bits 7:6. -/
def State.tq (s : State) : Nat :=
  match s.bound with
  | some b => min (cdiv b 32) 63 + s.tqSrc * 64
  | none => 63 + (if s.tmState = 0 then 0 else s.tqSrc) * 64

/-- The event TIME_LOCKED. -/
def State.evLocked (s : State) : State :=
  (s.irq .ntm 0).event 0xF100 0x110 (toLe 1 s.tmState ++ toLe 1 s.tqSrc ++ toLe 4 (s.bound.getD 0xFFFFFFFF))

/-- R228: enter a time state; entering LOCKED raises the interrupt and the event. -/
def State.toTm (s : State) (st : Nat) : State :=
  if s.tmState = st then s
  else
    let s := s.setTm st
    if st = 2 then s.evLocked else s

/-- R228, R237: the source is lost: HOLDOVER at RATE = FREQ. Cause: 1 source lost, 2 PPS lost, 3 warm reset. -/
def State.loseSource (s : State) (c : DWord) (cause : Nat) : State :=
  if s.tmState = 1 ∨ s.tmState = 2 then
    let s := s.at c
    let s := (s.setRate s.cnt (sInt (s.rd R.ntm_FREQ))).setTm 3
    let s := { s with ntm := { s.ntm with holdCnt := s.cnt, jumps := [] } }
    ((s.bump R.ntm_HOLD_CNT 1).irq .ntm 1).event 0xF101 0x110 (toLe 1 cause)
  else s

/-- R240, R247: NTM is disabled: measurements stop, and a PPS edge after that is expected afresh. -/
def State.ntmDisable (s : State) : State := { s with ntm := { s.ntm with ppsNext := none } }.loseSource s.cnt 1

/-- R238: count a step, raise STEPPED and record it; `e` in units of 2^-16 ns. -/
def State.stepped (s : State) (e : Int) : State :=
  ((s.bump R.ntm_STEP_CNT 1).irq .ntm 2).event 0xF102 0x110 (toLe 8 (unsgn 64 (e / 2 ^ 16)) ++ toLe 4 s.tick32.toNat)

/-- R22, R237: the first setting of time steps at once; the tick number is that of the new time. -/
def State.stepNow (s : State) (e : Int) (c : DWord) : State :=
  let n := (((s.nt c : Int) + e).toNat) % 2 ^ 80
  let s := s.setAnchor n c
  { s with ntm := { s.ntm with tick := n / tick16, stage := [none, none, none, none] } }

/-- A quotient over `d` cycles; over none it lies open. -/
def perTime (n d : Int) : Int := if d = 0 then Config.overNoTime n else n / d

/-- RATE of a computed rate; one outside the register's signed 32 bits lies open. -/
def rateFit (r : Int) : Int := if -2147483648 ≤ r ∧ r < 2147483648 then r else sInt (Config.rateBeyond r)

/-- R237: the frequency after a measurement of `e` over `d` cycles: the first sets it to the average rate, each further one integrates; limited to 5000 ppb. -/
def servoFreq (first : Bool) (freq e d ki : Int) : Int :=
  clampI (-(ppbRate 5000 1)) (ppbRate 5000 1) (freq + perTime (if first then e * 1073741824 else e * ki * 4194304) d)

/-- R237: the slew that a measurement adds to the rate, limited to SLEW_MAX. -/
def servoSlew (slewMax : Nat) (e d kp : Int) : Int :=
  clampI (-(ppbRate slewMax 1)) (ppbRate slewMax 1) (perTime (e * kp * 4194304) d)

/-- R237: the phase error lies within a limit given in ns. -/
def within (lim : Nat) (e : Int) : Bool := decide (-((lim * 65536 : Nat) : Int) ≤ e) && decide (e ≤ ((lim * 65536 : Nat) : Int))

/-- R237: the first measurement sets the time at once. -/
def State.measureFirst (s : State) (e : Int) (c : DWord) : State :=
  let t := (s.stepNow e c).setTm 1
  { t with ntm := { t.ntm with first := true, good := 0 } }.stepped e

/-- R237: the state after a servo measurement: LOCKED after four good ones in ACQUIRE, or after one in HOLDOVER; ACQUIRE after one in HOLDOVER that is not good. -/
def State.servoState (s : State) (ok : Bool) (g : Nat) : State :=
  if s.tmState = 1 ∧ 4 ≤ g then s.toTm 2
  else if s.tmState = 3 then (if ok then s.toTm 2 else s.toTm 1)
  else s

/-- R237: the servo takes a measurement of `e` over `d` cycles. -/
def State.servo (s : State) (e d : Int) (c : DWord) : State :=
  let f := servoFreq s.ntm.first (sInt (s.rd R.ntm_FREQ)) e d (s.rf R.ntm_SERVO 8 8)
  let r := rateFit (f + servoSlew (s.rf R.ntm_SLEW_MAX 0 16) e d (s.rf R.ntm_SERVO 0 8))
  let ok := within (s.rf R.ntm_LOCK_THR 0 16) e
  let g := if ok then s.ntm.good + 1 else 0
  let t := (s.wr R.ntm_FREQ (wOfInt f)).setRate c r
  { t with ntm := { t.ntm with first := false, good := g } }.servoState ok g

/-- LAST_ERR of a phase error: units of 2^-8 ns; one outside the register's signed 32 bits lies open. -/
def lastErr (e : Int) : Word := if -2147483648 ≤ e / 256 ∧ e / 256 ≤ 2147483647 then wOfInt (e / 256) else Config.errBeyond e

/-- R237: one time measurement `e`, in units of 2^-16 ns, taken at counter value c; a new rate or time is set at the present counter value (R227). -/
def State.measure (s : State) (e : Int) (c : DWord) : State :=
  if !s.takes .ntm || !s.rb R.ntm_NTM_CFG 2 then s else
  let d : Nat := (c - s.ntm.measCnt).toNat
  let t := { s with ntm := { s.ntm with measCnt := c } }.wr R.ntm_LAST_ERR (lastErr e)
  if t.tmState = 0 then t.measureFirst e t.cnt
  else if within (t.rf R.ntm_STEP_LIM 0 24) e then t.servo e d t.cnt
  else { t with ntm := { t.ntm with step := some e, good := 0 } }.setTm 1

/-- Set the bound at the source, in ns. -/
def State.setBase (s : State) (b : Option Nat) : State := { s with ntm := { s.ntm with base := b } }

/-- The nearest whole second to a Relso time, in ns. -/
def nearestSec (n : Int) : Int := (n + 500000000) / 1000000000 * 1000000000

/-- R238, R489: a step that was staged before the tick edge at counter value c is applied there, after the edge's actions; the edges of R6 follow the new time, the tick that began at that edge lasts at least 4.000 ms, and a step back makes the ticks already begun repeated ticks. The second that the next PPS edge is expected to name moves by the step's whole seconds. -/
def State.timeStep (s : State) (c : DWord) : State :=
  match s.ntm.step with
  | none => s
  | some e =>
    if !s.holds then { s with ntm := { s.ntm with step := none } }
    else if !s.ntm.stepDue || decide (c ≠ s.edgeCnt) then s
    else
    let next := s.ntm.ppsNext.map fun n => ((n : Int) + nearestSec (e / 2 ^ 16)).toNat
    let s := { s with ntm := { s.ntm with step := none, ppsNext := next, stepDue := false, stepHold := true } }
    let s := s.setAnchor ((((s.nt c : Int) + e).toNat) % 2 ^ 80) c
    let s := if e < 0 then { s with ntm := { s.ntm with passed := some (max (s.ntm.passed.getD 0) s.ntm.tick) } } else s
    (s.wr R.ntm_STEP_CTRL 0).stepped e

/-- TIME_STEP: at the tick edge whose counter value is given. -/
def execTimeStep (c : DWord) (s : State) : Host.Outcome State Fault Refusal := .next ((s.at c).timeStep c)

/-! ### Register accesses -/

/-- R227: a snapshot of CNT and network time. -/
def State.snap (s : State) (c : DWord) : State :=
  let s := s.at c
  let n := s.nt c
  ((s.wr64 R.ntm_SNAP_CNT_LO R.ntm_SNAP_CNT_HI c.toNat).wr R.ntm_SNAP_FRAC (w32 (n % 2 ^ 16))).wr64 R.ntm_SNAP_NS_LO R.ntm_SNAP_NS_HI (n / 2 ^ 16)

/-- SNAP: any write of SNAP. -/
def execSnap (m : Master) (_v : Word) (c : DWord) (s : State) : Host.Outcome State Fault Refusal :=
  .next (s.writeAt .ntm 0x50 m 1 fun t => (t.snap c).answer .done)

/-- R238: STEP_CTRL.GO stages the software step for the next tick edge; refused with NO_TIME while no time is held. -/
def State.stepGo (s : State) (m : Master) (v : Word) : State :=
  if !tst v 0 then s
  else if !s.holds then s.err .ntm eNoTime 0x98 m
  else { s with ntm := { s.ntm with step := some (sgn 64 (s.rd64 R.ntm_STEP_NS_LO R.ntm_STEP_NS_HI) * 2 ^ 16) } }.wr R.ntm_STEP_CTRL 1

/-- STEP_GO: a write of STEP_CTRL. -/
def execStepGo (m : Master) (v : Word) (s : State) : Host.Outcome State Fault Refusal :=
  .next (s.writeAt .ntm 0x98 m v fun t => (t.stepGo m v).answer .done)

/-- Software may load the anchor set: state NONE with SERVO_EN = 0. -/
def State.anchorOpen (s : State) : Bool := decide (s.tmState = 0) && !s.rb R.ntm_NTM_CFG 2

/-- Stage word i of the anchor set: 0 ANCHOR_LO, 1 ANCHOR_HI, 2 OFFSET_FRAC, 3 OFFSET_NS_LO. -/
def State.stageAnchor (s : State) (m : Master) (off i : Nat) (v : Word) : State :=
  if !s.anchorOpen then s.err .ntm eBusy off m
  else { s with ntm := { s.ntm with stage := setAt s.ntm.stage i (some v) } }

/-- A write of OFFSET_NS_HI loads the staged words and its own in one cycle and enters ACQUIRE. -/
def State.offsetLoad (s : State) (m : Master) (v : Word) (c : DWord) : State :=
  if !s.anchorOpen then s.err .ntm eBusy 0xE0 m
  else
    let pick (i a : Nat) : Word := ((s.ntm.stage.getD i none).getD (s.rd a))
    let al := pick 0 R.ntm_ANCHOR_LO
    let ah := pick 1 R.ntm_ANCHOR_HI
    let fr := pick 2 R.ntm_OFFSET_FRAC
    let lo := pick 3 R.ntm_OFFSET_NS_LO
    let s := ((((s.wr R.ntm_ANCHOR_LO al).wr R.ntm_ANCHOR_HI ah).wr R.ntm_OFFSET_FRAC (fr &&& 0xFFFF)).wr R.ntm_OFFSET_NS_LO lo).wr R.ntm_OFFSET_NS_HI v
    let s := (s.at c).setTm 1
    { s with ntm := { s.ntm with stage := [none, none, none, none], tick := s.nt c / tick16, first := true, good := 0, measCnt := c } }

/-- OFFSET_LOAD: a write of OFFSET_NS_HI. -/
def execOffsetLoad (m : Master) (v : Word) (c : DWord) (s : State) : Host.Outcome State Fault Refusal :=
  .next (s.writeAt .ntm 0xE0 m v fun t => (t.offsetLoad m v c).answer .done)

/-- CNT_READ: a read of CNT_LO latches CNT_HI. -/
def execCntRead (m : Master) (c : DWord) (s : State) : Host.Outcome State Fault Refusal :=
  .next (s.readAt .ntm 0x48 m fun t =>
    ({ t.at c with ntm := { t.ntm with cntHi := w32 (c.toNat / 2 ^ 32) } }).answer (.data (w32 c.toNat)))

/-- A read of TICK_LO latches TICK_HI. -/
def State.tickRead (s : State) : State :=
  ({ s with ntm := { s.ntm with tickHi := w32 (s.tick / 2 ^ 32) } }).answer (.data s.tick32)

/-- TICK_READ: a read of TICK_LO. -/
def execTickRead (m : Master) (s : State) : Host.Outcome State Fault Refusal :=
  .next (s.readAt .ntm 0xB8 m fun t => t.tickRead)

/-! ### Link delay -/

/-- A list of integers in rising order, by insertion. -/
def insertI (v : Int) : List Int → List Int
  | [] => [v]
  | x :: r => if v ≤ x then v :: x :: r else x :: insertI v r

/-- The median of a list; of an even number it lies open. -/
def medianI (l : List Int) : Int :=
  let q := l.foldl (fun a x => insertI x a) []
  let n := q.length
  if n % 2 = 1 then q.getD (n / 2) 0 else Config.evenMedian (q.getD (n / 2 - 1) 0) (q.getD (n / 2) 0)

/-- R235: D in use, in units of 2^-16 ns: the median of the last five measurements, or DELAY_DEF before the first. -/
def State.linkD (s : State) : Int :=
  match s.ntm.delays with
  | [] => (s.rn R.ntm_DELAY_DEF : Int) * 2 ^ 8
  | l => medianI l

/-! ### PPS and time of day (R239-R241) -/

/-- An absolute value. -/
def absI (v : Int) : Int := if v < 0 then -v else v

/-- A measurement from PPS_IN sets the bound of R239. -/
def State.ppsMeasure (s : State) (e : Int) (c : DWord) : State :=
  (s.setBase (some (s.rn R.ntm_REF_ERR + 30))).measure e c

/-- The waiting TOD_SET's command. -/
def State.todCmd (s : State) (t : TodWait) : Option Cmd := s.mbx.taken.find? fun c => c.e.tag = t.tag && c.e.opcode = 0x0100

/-- Answer the waiting TOD_SET and forget it. -/
def State.todReply (s : State) (status : Nat) (param : Bytes) : State :=
  match s.ntm.tod with
  | none => s
  | some t =>
    let s := { s with ntm := { s.ntm with tod := none } }
    match s.todCmd t with
    | some c => s.reply c status param []
    | none => s

/-- The edge matches the waiting TOD_SET: it was captured at least 10 ms and no more than 1.1 s after the command was taken (R240). -/
def todRipe (c : DWord) (t : TodWait) : Bool := decide (2500000 ≤ (c - t.cnt).toNat) && decide ((c - t.cnt).toNat ≤ 275000000)

/-- R241: the second that an edge at the module's own time (in ns) is expected to name: the next one counted from the last edge, or a later one where edges have stayed away; the nearest where none has been counted. -/
def State.ppsSec (s : State) (own : Int) : Int :=
  match s.ntm.ppsNext with
  | some n => n + max 0 (nearestSec (own - n))
  | none => nearestSec own

/-- R241: an edge while time is held: a measurement, a step at the third agreeing edge, or a jump. `own` is the module's time of the edge in units of 2^-16 ns. -/
def State.ppsHeld (s : State) (own : Int) (c : DWord) : State :=
  let sec := s.ppsSec (own / 2 ^ 16)
  let e := sec * 2 ^ 16 - own
  if 500000000 * 2 ^ 16 < absI e then s.irq .ntm 4
  else
    let s := { s with ntm := { s.ntm with ppsNext := some (sec.toNat + 1000000000) } }
    if absI e ≤ (s.rf R.ntm_STEP_LIM 0 24 : Int) * 2 ^ 16 then { s with ntm := { s.ntm with jumps := [] } }.ppsMeasure e c
    else
      let j := (e :: s.ntm.jumps).take 3
      if j.length = 3 && j.all fun x => j.all fun y => absI (x - y) ≤ 1000 * 2 ^ 16 then { s with ntm := { s.ntm with jumps := [] } }.ppsMeasure e c
      else { s with ntm := { s.ntm with jumps := j } }.irq .ntm 4

/-- R240: a TOD_SET matched to an edge while time is held: its second agrees, or it is forced and steps by whole seconds, or it conflicts. -/
def State.todHeld (s : State) (own : Int) (t : TodWait) : State :=
  let sec := nearestSec (own / 2 ^ 16)
  if (t.ns : Int) = sec then s.todReply stOk []
  else if t.force then
    ({ s with ntm := { s.ntm with step := some (((t.ns : Int) - sec) * 2 ^ 16), ppsNext := none } }).todReply stOk []
  else (s.err .ntm 0x81 0 .block).todReply stFault (toLe 1 0x81)

/-- R240: a PPS edge of the selected polarity is captured. -/
def State.ppsEdge (s : State) (c : DWord) : State :=
  let s := (s.at c).wr64 R.ntm_PPS_CAP_LO R.ntm_PPS_CAP_HI c.toNat
  let own : Int := (s.nt c : Int) - sInt (s.rd R.ntm_PPS_DELAY) * 2 ^ 16
  let ripe := match s.ntm.tod with | some t => if todRipe c t then some t else none | none => none
  if !s.holds then
    match ripe with
    | some t =>
      let s := { s with ntm := { s.ntm with ppsNext := some (t.ns + 1000000000) } }
      (s.ppsMeasure ((t.ns : Int) * 2 ^ 16 - own) c).todReply stOk []
    | none => s
  else
    let d := nearestSec (own / 2 ^ 16) * 2 ^ 16 - own
    let s := s.wr R.ntm_PPS_DIFF (wOfInt (d / 2 ^ 16))
    let s := if s.rf R.ntm_NTM_CFG 0 2 = 1 then s.ppsHeld own c else { s with ntm := { s.ntm with ppsNext := none } }
    match ripe with
    | some t => s.todHeld own t
    | none => s

/-- PPS_EDGE: an edge on PPS_IN. -/
def execPpsEdge (rising : Bool) (c : DWord) (s : State) : Host.Outcome State Fault Refusal :=
  .next (if s.takes .ntm && s.rb R.ntm_NTM_CFG 4 && (rising != s.rb R.ntm_NTM_CFG 3) then s.ppsEdge c else s.at c)

/-- R241: at counter value c an edge is overdue by 1.1 s: counted from the second that is expected, or, where none is, from one second after the last measurement. -/
def State.ppsOverdue (s : State) (c : DWord) : Bool :=
  match s.ntm.ppsNext with
  | some n => decide (((n : Int) + 1100000000) * 2 ^ 16 ≤ (s.nt c : Int) - sInt (s.rd R.ntm_PPS_DELAY) * 2 ^ 16)
  | none => decide (525000000 ≤ (c - s.ntm.measCnt).toNat)

/-- PPS_LOST: no edge within 1.1 s of the expected one, for a module that follows its PPS. -/
def execPpsLost (c : DWord) (s : State) : Host.Outcome State Fault Refusal :=
  .next (
    let s := s.at c
    if s.runs .ntm && decide (s.rf R.ntm_NTM_CFG 0 2 = 1) && (decide (s.tmState = 1) || decide (s.tmState = 2)) && s.ppsOverdue c then
      ({ s with ntm := { s.ntm with ppsNext := none } }.irq .ntm 3).loseSource c 2
    else s)

/-- TOD_TIMEOUT: a TOD_SET has waited 1.1 s for its edge. -/
def execTodTimeout (c : DWord) (s : State) : Host.Outcome State Fault Refusal :=
  .next (match s.ntm.tod with
    | some t => if 275000000 ≤ (c - t.cnt).toNat then ((s.at c).err .ntm 0x80 0 .block).todReply stFault (toLe 1 0x80) else s
    | none => s)

/-- TOD_SET (0x0100): the second of a PPS edge; a TOD_SET that still waits is answered CANCELLED. -/
def execTodSet (tag : Word) (c : DWord) (s : State) : Host.Outcome State Fault Refusal :=
  .next (s.withCmd 0x0100 tag fun k t =>
    let ns := k.par 0 8
    if ns % 1000000000 ≠ 0 then t.reply k stBadParam [] []
    else if !t.takes .ntm then t.reply k stBusy [] []
    else
      let t := (t.todReply stCancelled []).at c
      ({ t with ntm := { t.ntm with tod := some ⟨tag, ns, decide (k.par 8 1 % 2 = 1), c⟩ } }).defer k)

/-- NTM_STAT as read: STATE, TQ and HOLD_S. -/
def State.ntmStat (s : State) : Word := w32 (s.tmState + s.tq * 2 ^ 8 + min s.holdS 65535 * 2 ^ 16)

/-- BOUND as read, saturating; all ones while unknown. -/
def State.boundReg (s : State) : Word := w32 (min (s.bound.getD 0xFFFFFFFF) 0xFFFFFFFF)

/-- TIME_GET (0x0101). -/
def execTimeGet (tag : Word) (c : DWord) (s : State) : Host.Outcome State Fault Refusal :=
  .next (s.withCmd 0x0101 tag fun k t =>
    let t := t.snap c
    t.reply k stOk (toLe 8 c.toNat ++ toLe 2 (t.nt c % 2 ^ 16) ++ toLe 8 (t.ntNs c) ++ toLe 4 t.ntmStat.toNat ++ toLe 4 t.boundReg.toNat) [])

/-- TIME_SRC (0x0102): denied in the node role. -/
def execTimeSrc (tag : Word) (s : State) : Host.Outcome State Fault Refusal :=
  .next (s.withCmd 0x0102 tag fun k t =>
    if t.rf R.rst_ROLE 0 2 = 2 then t.reply k stDenied [] []
    else if 3 < k.par 0 1 then t.reply k stBadParam [] []
    else (t.wf R.ntm_NTM_CFG 0 2 (k.par 0 1)).reply k stOk [] [])

/-! ### Registers and reset -/

/-- NTM registers that show the time. -/
def State.ntmRead (s : State) (off : Nat) : Option Word :=
  if off = 0x44 then some s.ntmStat
  else if off = 0x48 then some (w32 s.cnt.toNat)
  else if off = 0x4C then some s.ntm.cntHi
  else if off = 0x84 then some (wOfInt (s.linkD / 2 ^ 8))
  else if off = 0xB4 then some s.boundReg
  else if off = 0xB8 then some s.tick32
  else if off = 0xBC then some s.ntm.tickHi
  else none

/-- NTM registers written by a rule of their own; none where the plain access type applies. -/
def State.ntmWrite (s : State) (m : Master) (off : Nat) (v : Word) : Option State :=
  if off = 0x40 ∧ tst v 4 = false then some ({ s with ntm := { s.ntm with ppsNext := none } }.wr R.ntm_NTM_CFG (v &&& 0x1F)) else
  if off = 0x50 then some (s.snap s.cnt)
  else if off = 0x68 then some (if s.rb R.ntm_NTM_CFG 2 then s.err .ntm eBusy off m else s.wr R.ntm_FREQ v)
  else if off = 0x6C then some (if s.rb R.ntm_NTM_CFG 2 then s.err .ntm eBusy off m else s.setRate s.cnt (sInt v))
  else if off = 0x8C then (if fld v 0 8 = 0 then some (s.err .ntm eBadValue off m) else none)
  else if off = 0x98 then some (s.stepGo m v)
  else if off = 0xD0 then some (s.stageAnchor m off 0 v)
  else if off = 0xD4 then some (s.stageAnchor m off 1 v)
  else if off = 0xD8 then some (s.stageAnchor m off 2 v)
  else if off = 0xDC then some (s.stageAnchor m off 3 v)
  else if off = 0xE0 then some (s.offsetLoad m v s.cnt)
  else none

/-- R228, R247: what a reset leaves of the time: HOLDOVER if time was held, otherwise NONE; the medians and the servo's history are discarded. `st` is the state before the reset. -/
def State.ntmReset (s : State) (st : Nat) : State :=
  let s := s.todReply stCancelled []
  let s := s.setTm (if st = 0 then 0 else 3)
  let h := if st = 1 ∨ st = 2 then s.cnt else s.ntm.holdCnt
  { s with ntm := { s.ntm with
      first := false, good := 0, stage := [none, none, none, none], step := none, delays := [], dreq := [], dreqSf := none,
      measured := false, tod := none, jumps := [], ppsNext := none, corr := none, holdCnt := h, stepDue := false } }

end Sys2Proof.Machine
end

