-- ==== Sys2Proof/Machine/Radio.lean ====
section
/-! DEFINITION. The radios and CHN: airtime, channels, the airtime ledgers, transmit descriptors and completions, and hop lists (R143-R168, R490). -/

namespace Sys2Proof.Machine

open Sys2Proof

/-! ### Airtime and slots -/

/-- µs of one octet at a MODE (R144). -/
def octetUs (mode : Nat) : Nat := if mode = 0 then 160 else if mode = 1 then 80 else 40

/-- R146: airtime in µs of a PSDU of L octets, FCS included. -/
def airUs (mode : Nat) (fec : Bool) (pre l : Nat) : Nat :=
  if fec then octetUs mode * (pre + 2) + 2 * octetUs mode * (2 + l + 1) else octetUs mode * (pre + 4 + l)

/-- RAD_CFG.MODE of a radio. -/
def State.radMode (s : State) (r : Nat) : Nat := s.rf (R.rad_RAD_CFG r) 0 2

/-- RAD_CFG.PRE_LEN of a radio. -/
def State.preLen (s : State) (r : Nat) : Nat := s.rf (R.rad_RAD_CFG r) 8 5

/-- Airtime of a PSDU with FCS on a radio as configured. -/
def State.airtime (s : State) (r l : Nat) : Nat := airUs (s.radMode r) (s.rb (R.rad_RAD_CFG r) 3) (s.preLen r) l

/-- Airtime of a beacon: MODE 2, uncoded (R203). -/
def State.bcnAirtime (s : State) (r l : Nat) : Nat := airUs 2 false (s.preLen r) l

/-- R154: SLOT_TICKS, with code 0 for 8. -/
def State.slotTicks (s : State) (r : Nat) : Nat := let v := s.rf (R.rad_RAD_CFG r) 13 3; if v = 0 then 8 else v

/-! ### Descriptors -/

/-- Octets of the PSDU without FCS. -/
def descLen (d : DWord) : Nat := d.toNat / 2 ^ 32 % 256

/-- BUF. -/
def descBuf (d : DWord) : Nat := d.toNat / 2 ^ 40 % 65536

/-- ACCESS. -/
def descAccess (d : DWord) : Nat := d.toNat / 2 ^ 30 % 4

/-- ACK_REQ. -/
def descAck (d : DWord) : Bool := d.getLsbD 29

/-- DL_EN. -/
def descDl (d : DWord) : Bool := d.getLsbD 28

/-- RESEND. -/
def descResend (d : DWord) : Bool := d.getLsbD 27

/-- AT_DL. -/
def descAt (d : DWord) : Nat := d.toNat % 2 ^ 24

/-- The descriptor bits of a frame that the firmware sends itself: ACCESS, ACK_REQ, a deadline or AT tick. -/
def fwDesc (len access : Nat) (ack : Bool) (dl : Option Nat) : DWord :=
  BitVec.ofNat 64 (2 ^ 63 + 0x50 * 2 ^ 56 + len % 256 * 2 ^ 32 + access % 4 * 2 ^ 30 + b2n ack * 2 ^ 29 + b2n dl.isSome * 2 ^ 28 + dl.getD 0 % 2 ^ 24)

/-- Serial difference of 24-bit tick fields, as R7 does with 24 bits. -/
def diff24 (a b : Nat) : Int := sgn 24 ((a + 2 ^ 24 - b % 2 ^ 24) % 2 ^ 24)

/-- A radio by its number. -/
def State.radio (s : State) (r : Nat) : Rad := s.rad.getD r ⟨[], none, none, none, [], false, false, false, none⟩

/-- Replace a radio. -/
def State.setRadio (s : State) (r : Nat) (x : Rad) : State := { s with rad := setAt s.rad r x }

/-- Change a radio. -/
def State.modRadio (s : State) (r : Nat) (f : Rad → Rad) : State := s.setRadio r (f (s.radio r))

/-- Octets of a queued frame's PSDU without FCS. -/
def Tx.len (x : Tx) : Nat := match x.own with | some b => b.length | none => descLen x.desc

/-- µs from the frame's start to the end of its exchange (R154). -/
def State.exchange (s : State) (r : Nat) (x : Tx) : Nat :=
  s.airtime r (x.len + 2) + (if descAck x.desc then 1000 + s.airtime r 16 else 0)

/-- R154, R155: the length in ticks of the contention slots that fit the exchange: a slot, a long slot, or none. -/
def State.slotFor (s : State) (r : Nat) (x : Tx) : Option Nat :=
  let n := s.slotTicks r
  let need := 200 + s.exchange r x
  if need ≤ 4000 * n then some n else if need ≤ 8000 * n then some (2 * n) else none

/-- The STATUS codes of a completion (R168). -/
abbrev dSent : Nat := 0x00
abbrev dCancelled : Nat := 0x01
abbrev dNoAck : Nat := 0x10
abbrev dExpired : Nat := 0x11
abbrev dTooLong : Nat := 0x12
abbrev dKilled : Nat := 0x13

/-- The first of a child's held frames whose PSDU is given has been collected (R213). -/
def dropHeld (b : Bytes) : List (Bytes × Nat) → List (Bytes × Nat)
  | [] => []
  | f :: r => if f.1 = b then r else f :: dropHeld b r

/-- R213: a frame held for a sleepy child, sent and acknowledged, is held no longer. -/
def State.collected (s : State) (b : Bytes) : State :=
  { s with net := { s.net with children := s.net.children.map fun (c : Child) => { c with held := dropHeld b c.held } } }

/-- R168: the frame leaves the radio for the last time and its completion goes to DONEQ. A frame that the firmware sent itself has no descriptor to complete. -/
def State.txDone (s : State) (r : Nat) (x : Tx) (status : Nat) : State :=
  let s := if status = dExpired then (s.bumpSat (R.rad_EXPIRED_CNT r) 1).irq (.rad (Fin.ofNat 4 r)) 1
           else if status = dNoAck then s.irq (.rad (Fin.ofNat 4 r)) 2 else s
  match x.own with
  | some b => if status = dSent ∧ descAccess x.desc = 1 then s.collected b else s
  | none => s.hwPush (s.rf (R.rad_RAD_CFG r) 20 4)
      (BitVec.ofNat 64 (2 ^ 63 + status * 2 ^ 56 + descBuf x.desc * 2 ^ 40 + min x.tries 255 * 2 ^ 32 + s.tick32.toNat))

/-- Complete a list of frames with one status. -/
def txDoneAll (r status : Nat) : List Tx → State → State
  | [], s => s
  | x :: l, s => txDoneAll r status l (s.txDone r x status)

/-- RAD0-RAD3 as a block. -/
abbrev radBlk (r : Nat) : Blk := .rad (Fin.ofNat 4 r)

/-- A descriptor is malformed (R168). -/
def State.badDesc (s : State) (r : Nat) (d : DWord) : Bool :=
  !d.getLsbD 63 || decide (d.toNat / 2 ^ 56 % 128 ≠ 0x50) || decide (descLen d = 0) || decide (253 < descLen d) || decide (descAccess d = 3) ||
  decide (d.toNat / 2 ^ 24 % 8 ≠ 0) || (descResend d && (decide (descAccess d ≠ 1) || (Sparse.find (s.radio r).kept (descBuf d)).isNone)) ||
  decide (0x400000 < descBuf d * 64 + descLen d)

/-- R146, R156: the frame is too long for every slot it may use. -/
def State.tooLong (s : State) (r : Nat) (x : Tx) : Bool :=
  decide (10000 < (if descAccess x.desc = 2 then s.bcnAirtime r (x.len + 2) else s.airtime r (x.len + 2))) ||
  (decide (descAccess x.desc = 0) && (s.slotFor r x).isNone)

/-- Queue a frame in a radio, or complete it TOO_LONG. -/
def State.txQueue (s : State) (r : Nat) (x : Tx) : State :=
  if s.tooLong r x then (s.err (radBlk r) 0x80 0x40 .block).txDone r x dTooLong
  else s.modRadio r fun q => { q with queue := q.queue ++ [x] }

/-- The head entry of a queue is taken by a hardware consumer (R116). -/
def State.hwTakeEnt (s : State) (q : Nat) : State × Option DWord :=
  match s.qreason q with
  | some 0x05 => (s.qdiscard q, none)
  | some _ => (s, none)
  | none =>
    match (s.queue q).ents with
    | [] => (s, none)
    | e :: l => (s.qadvance q e l, some e.v)

/-- R168: a radio takes a descriptor from its TXQ. -/
def State.txDesc (s : State) (r : Nat) : State :=
  if !s.takes (radBlk r) then s else
  let p := s.hwTakeEnt (s.rf (R.rad_RAD_CFG r) 16 4)
  match p.2 with
  | none => p.1
  | some d =>
    if p.1.badDesc r d then p.1.err (radBlk r) 0x81 0x40 .block
    else p.1.txQueue r ⟨d, none, p.1.tick, if descResend d then Sparse.find (p.1.radio r).kept (descBuf d) else none, 0, 0⟩

/-- TX_DESCRIPTOR. -/
def execTxDescriptor (radio : Fin 4) (s : State) : Host.Outcome State Fault Refusal := .next (s.txDesc radio.val)

/-- The firmware sends a frame of its own on a radio: PSDU without FCS, with room for the MIC. -/
def State.fwSend (s : State) (r access : Nat) (ack : Bool) (dl : Option Nat) (psdu : Bytes) : State :=
  if !s.runs (radBlk r) then s
  else s.txQueue r ⟨fwDesc psdu.length access ack dl, some psdu, s.tick, none, 0, 0⟩

/-- The frame's deadline or AT tick has passed (R157, R162): compared only from the first tick edge with network time on (R154). -/
def State.txExpired (s : State) (x : Tx) : Bool :=
  s.onNet && (decide (descAccess x.desc = 1) || descDl x.desc) && decide (0 < diff24 s.tick (descAt x.desc))

/-- R157, R162: frames whose deadline or AT tick has passed return EXPIRED. -/
def State.txExpire (s : State) (r : Nat) : State :=
  let q := (s.radio r).queue
  let gone := q.filter fun x => s.txExpired x
  let s := s.modRadio r fun y => { y with queue := q.filter fun x => !s.txExpired x, held := y.held && gone.isEmpty }
  txDoneAll r dExpired gone s

/-- DEADLINE_EXPIRY. -/
def execDeadlineExpiry (radio : Fin 4) (s : State) : Host.Outcome State Fault Refusal := .next (s.txExpire radio.val)

/-- R154: at the first tick edge with network time every waiting frame counts as queued at that edge. -/
def State.txRestamp (s : State) : State :=
  { s with rad := s.rad.map fun y => { y with queue := y.queue.map fun x => { x with since := s.tick } } }

/-- R166: the radio is inside a frame, its acknowledgement window or its own acknowledgement. -/
def State.radBusy (s : State) (r : Nat) : Bool := (s.radio r).air.isSome || (s.radio r).rx.isSome || (s.radio r).ack.isSome

/-- R166, R490: the current frame has ended. With EN = 0 every queued descriptor returns CANCELLED. -/
def State.radDrain (s : State) (r : Nat) : State :=
  if s.draining (radBlk r) && !s.radBusy r then
    let q := (s.radio r).queue
    let s := if s.en (radBlk r) then s else txDoneAll r dCancelled q (s.modRadio r fun y => { y with queue := [], held := false })
    s.setDrained (radBlk r)
  else s

/-- TX_FRAME_END: a frame that waits for no acknowledgement has been sent. -/
def State.txEnd (s : State) (r : Nat) : State :=
  match (s.radio r).air with
  | none => s
  | some a =>
    if descAck a.tx.desc then s
    else ((s.modRadio r fun y => { y with air := none }).txDone r a.tx dSent).radDrain r

/-- TX_FRAME_END. -/
def execTxFrameEnd (radio : Fin 4) (s : State) : Host.Outcome State Fault Refusal := .next (s.txEnd radio.val)

/-- R166: KILL ends the frame at once: a frame sent returns KILLED, a frame received is lost. -/
def State.radKill (s : State) (r : Nat) : State :=
  let x := s.radio r
  let s := s.setRadio r { x with air := none, rx := none, ack := none }
  let s := match x.air with | some a => s.txDone r a.tx dKilled | none => s
  s.radDrain r

/-- R166, R48: a block reset ends the frame at once, as KILL does, and returns every queued descriptor CANCELLED. -/
def State.radReset (s : State) (r : Nat) : State :=
  let x := s.radio r
  let s := s.setRadio r ⟨[], none, none, none, [], false, false, false, none⟩
  txDoneAll r dCancelled x.queue (match x.air with | some a => s.txDone r a.tx dKilled | none => s)

/-- RAD registers that show the radio's state. -/
def State.radRead (s : State) (chan : Nat) (r off : Nat) : Option Word :=
  let x := s.radio r
  if off = 0x4C then
    let st := if !s.runs (radBlk r) then 0 else if x.rx.isSome then 2 else if x.air.isSome then 3 else 1
    some (w32 (st + chan * 2 ^ 8 + b2n (s.runs (radBlk r) && !s.rb (hdr (radBlk r) oRaw) 4) * 2 ^ 16 + b2n x.held * 2 ^ 17))
  else none

/-- RAD registers with a rule of their own (R168). -/
def State.radWrite (s : State) (m : Master) (r off : Nat) (v : Word) : Option State :=
  if off = 0x40 then
    if fld v 0 2 = 3 ∨ fld v 8 5 < 4 then some (s.err (radBlk r) eBadValue off m)
    else if s.en (radBlk r) && decide (v &&& 0x07FFFF1F ≠ s.rd (R.rad_RAD_CFG r)) then some (s.err (radBlk r) eBusy off m)
    else none
  else if off = 0x44 then (if fld v 4 3 < fld v 0 3 then some (s.err (radBlk r) eBadValue off m) else none)
  else if off = 0x48 then (if 74 < fld v 0 8 then some (s.err (radBlk r) eBadValue off m) else none)
  else none

/-- PA_FAULT (R467): the antenna reflects too much and the power is cut, until a frame whose reflected power is within limits. -/
def execPaFault (radio : Fin 4) (reflects : Bool) (s : State) : Host.Outcome State Fault Refusal :=
  .next (if !s.runs (.rad radio) then s
    else
      let s := s.modRadio radio.val fun x => { x with cut := reflects }
      if reflects then s.irq (.rad radio) 5 else s)

/-! ### Channels -/

/-- R150: the channel of radio r in tick k. -/
def State.chan (s : State) (r k : Nat) : Nat :=
  let n := s.chn.hop.length
  s.chn.hop.getD ((k + r * (n / 4)) % n) 0

/-- The centre of a channel in kHz. -/
def State.chanKhz (s : State) (c : Nat) : Nat := 850000 + s.rf (R.chn_CHc_CFG c) 0 17

/-- The sub-band of a channel. -/
def State.chanSb (s : State) (c : Nat) : Nat := s.rf (R.chn_CHc_CFG c) 24 3

/-- R147: the channel and its sub-band are enabled and permit a MODE. -/
def State.chanOk (s : State) (c mode : Nat) : Bool :=
  s.rb (R.chn_CHc_CFG c) 31 && s.rb (R.chn_CHc_CFG c) (20 + mode) && s.rb (R.chn_SBs_CFG (s.chanSb c)) 31

/-- R153, R467: the power code used: the request, the cap, +27 dBm, and +14 dBm while the antenna reflects. -/
def State.powerCode (s : State) (r c : Nat) : Nat :=
  let p := min (s.rf (R.rad_RAD_PWR r) 0 8) (min (s.rf (R.chn_CHc_LIM c) 0 8) 74)
  if (s.radio r).cut then min p 48 else p

/-! ### The ledgers (R159-R165) -/

/-- The set of ledgers a radio uses (R163). -/
def State.ledSet (s : State) (r : Nat) : Nat := if s.rb R.chn_CHN_CFG 0 then r else 0

/-- µs in the window of one dwell ledger. -/
def State.dwellUsed (s : State) (set c : Nat) : Nat :=
  ((Sparse.get (fun _ => []) s.chn.dwell (64 * set + c)).take (s.rf R.chn_DWELL_WIN 0 6 + 1)).sum

/-- µs in the window of one duty ledger. -/
def State.dutyUsed (s : State) (set sb : Nat) : Nat :=
  ((Sparse.get (fun _ => []) s.chn.duty (8 * set + sb)).take (s.rf R.chn_DUTY_WIN 0 6 + 1)).sum

/-- A channel has a dwell ledger. -/
def State.hasDwell (s : State) (c : Nat) : Bool := decide (s.rf (R.chn_CHc_LIM c) 8 16 ≠ 0)

/-- A sub-band has a duty ledger. -/
def State.hasDuty (s : State) (sb : Nat) : Bool := s.rb (R.chn_SBs_CFG sb) 31 && decide (s.rf (R.chn_SBs_CFG sb) 0 14 < 10000)

/-- The dwell limit in µs. -/
def State.dwellLim (s : State) (c : Nat) : Nat := s.rf (R.chn_CHc_LIM c) 8 16 * 1000

/-- 55 times the duty limit in µs: DUTY × 3,600 s, scaled by the window's nominal length. -/
def State.dutyLim55 (s : State) (sb : Nat) : Nat := s.rf (R.chn_SBs_CFG sb) 0 14 * 360000 * s.rf R.chn_DUTY_WIN 0 6

/-- R160: a transmission of t µs passes its dwell and duty ledgers; a data frame leaves the reserve. -/
def State.ledgersAllow (s : State) (r c t : Nat) (data : Bool) : Bool :=
  let set := s.ledSet r
  let sb := s.chanSb c
  let part (rsv : Nat) : Nat := if data then 100 - rsv else 100
  (!s.hasDwell c || decide ((s.dwellUsed set c + t) * 100 ≤ s.dwellLim c * part (s.rf R.chn_DWELL_WIN 8 8))) &&
  (!s.hasDuty sb || decide ((s.dutyUsed set sb + t) * 5500 ≤ s.dutyLim55 sb * part (s.rf (R.chn_SBs_CFG sb) 16 8)))

/-- Add to the current bin. -/
def binAdd (t : Nat) : List Nat → List Nat
  | [] => [t]
  | x :: l => (x + t) :: l

/-- Charge a dwell ledger; DWELL_WARN when it passes 90 % of its limit. -/
def State.chargeDwell (s : State) (set c t : Nat) : State :=
  if !s.hasDwell c then s else
  let k := 64 * set + c
  let u := s.dwellUsed set c
  let l := s.dwellLim c
  let s := { s with chn := { s.chn with dwell := Sparse.set (fun _ => []) s.chn.dwell k (binAdd t (Sparse.get (fun _ => []) s.chn.dwell k)) } }
  if u * 10 ≤ l * 9 ∧ l * 9 < (u + t) * 10 then s.irq .chn 1 else s

/-- Charge a duty ledger; DUTY_WARN when it passes 90 % of its limit. -/
def State.chargeDuty (s : State) (set sb t : Nat) : State :=
  if !s.hasDuty sb then s else
  let k := 8 * set + sb
  let u := s.dutyUsed set sb
  let l := s.dutyLim55 sb
  let s := { s with chn := { s.chn with duty := Sparse.set (fun _ => []) s.chn.duty k (binAdd t (Sparse.get (fun _ => []) s.chn.duty k)) } }
  if u * 550 ≤ l * 9 ∧ l * 9 < (u + t) * 550 then s.irq .chn 0 else s

/-- Where the current bin of a dwell ledger stands in NVS region 1: 64 bins of 3 bytes for each ledger, by age (DESIGN CHOICE, log 50). -/
def dwellAddr (k age : Nat) : Nat := 0x1100 + 3 * (64 * k + age % 64)

/-- Where the current bin of a duty ledger stands: 64 bins of 4 bytes for each ledger. -/
def dutyAddr (k age : Nat) : Nat := 0xD100 + 4 * (64 * k + age / 64 % 64)

/-- Where the ledgers' age stands. -/
abbrev ageAddr : Nat := 0x1000

/-- The current bin of a ledger. -/
def binNow (l : Sparse (List Nat)) (k : Nat) : Nat := (Sparse.get (fun _ => []) l k).headD 0

/-- R164: CHN writes the bins of a charge and the ledgers' age to NVS region 1. -/
def State.chargeStore (s : State) (set c sb : Nat) : State :=
  ((s.nvsWrite .chn (dwellAddr (64 * set + c) s.chn.age) (toLe 3 (binNow s.chn.dwell (64 * set + c)))).nvsWrite .chn
    (dutyAddr (8 * set + sb) s.chn.age) (toLe 4 (binNow s.chn.duty (8 * set + sb)))).nvsWrite .chn ageAddr (toLe 4 s.chn.age)

/-- R160, R164: charge a transmission before its first bit leaves. -/
def State.charge (s : State) (r c t : Nat) : State :=
  ((s.chargeDwell (s.ledSet r) c t).chargeDuty (s.ledSet r) (s.chanSb c) t).chargeStore (s.ledSet r) c (s.chanSb c)

/-- R164, R167: CHN decides releases: out of reset, enabled and not draining, with NVS region 1 open to its charges. A charge that NVS refuses cannot stand before its transmission, which is then held back (DEDUCED, log 50). -/
def State.chnTakes (s : State) : Bool := s.takes .chn && s.nvsOpen .chn 1

/-- R145: the PPDU of a PSDU without FCS; a beacon goes out uncoded and whitened (R203). -/
def State.ppdu (s : State) (r : Nat) (bcn : Bool) (psdu : Bytes) : Ppdu :=
  ⟨List.replicate (s.preLen r) 0x55, !bcn && s.rb (R.rad_RAD_CFG r) 3, true, bcn || s.rb (R.rad_RAD_CFG r) 4, psdu ++ toLe 2 (crcOf crc16 psdu)⟩

/-- R145: a received FCS of two octets (CRC-16) or four (CRC-32, PRESUMED: the standard's, log 50) is right. -/
def fcsGood (psdu fcs : Bytes) : Bool :=
  if fcs.length = 2 then decide (fcs = toLe 2 (crcOf crc16 psdu)) else decide (fcs = toLe 4 (crcOf crc32 psdu))

/-- A transmission leaves a radio: charged, counted and sent at the power of R153. -/
def State.transmit (s : State) (r c mode t : Nat) (bcn : Bool) (psdu : Bytes) : State :=
  let s := (s.charge r c t).bumpSat (R.rad_TX_SENT r) 1
  let p := s.powerCode r c
  (s.wf (R.rad_RAD_PWR r) 8 8 p).emit (.air r c mode p (s.ppdu r bcn psdu))

/-- R162: a transmission is held back: counted, with interrupt HELD. -/
def State.heldBack (s : State) (r : Nat) : State := (s.bumpSat (R.rad_HELD_CNT r) 1).irq (radBlk r) 0

/-- The new bins of a list of ledgers are written empty. -/
def clearBins (addr : Nat → Nat) (n : Nat) : List Nat → State → State
  | [], s => s
  | k :: r, s => clearBins addr n r (s.nvsWrite .chn (addr k) (zeros n))

/-- R164: at a superframe boundary of powered time each ledger ages: dwell bins every superframe, duty bins every 64; the age and the new bins go to NVS region 1. While NVS refuses CHN's writes the ledgers keep the age last written. -/
def State.ledgerAge (s : State) : State :=
  if decide (s.boot.stage = .off) || !s.nvsOpen .chn 1 then s else
  let a := s.chn.age + 1
  let older (l : Sparse (List Nat)) : Sparse (List Nat) := l.map fun p => (p.1, (0 :: p.2).take 64)
  let s := { s with chn := { s.chn with age := a, dwell := older s.chn.dwell, duty := if a % 64 = 0 then older s.chn.duty else s.chn.duty } }
  let s := clearBins (fun k => dwellAddr k a) 3 (s.chn.dwell.map fun p => p.1) s
  let s := if a % 64 = 0 then clearBins (fun k => dutyAddr k a) 4 (s.chn.duty.map fun p => p.1) s else s
  s.nvsWrite .chn ageAddr (toLe 4 a)

/-- LEDGER_AGE. -/
def execLedgerAge (s : State) : Host.Outcome State Fault Refusal := .next s.ledgerAge

/-! ### Hop lists (R151, R206) -/

/-- The staged hop list. -/
def State.hopStaged (s : State) : List Nat :=
  (List.range (s.rf R.chn_HOP_LEN 0 7)).map fun i => s.rf (R.chn_HOP_LIST0 (i / 4)) (8 * (i % 4)) 6

/-- The absolute difference of two numbers. -/
def natDist (a b : Nat) : Nat := (a - b) + (b - a)

/-- R151: for some position, two of the four radios would be closer than MIN_SEP. -/
def State.sepBad (s : State) (l : List Nat) : Bool :=
  let n := l.length
  let at' (i r : Nat) : Nat := s.chanKhz (l.getD ((i + r * (n / 4)) % n) 0)
  (List.range n).any fun i => (List.range 4).any fun a => (List.range a).any fun b =>
    decide (natDist (at' i a) (at' i b) < s.rf R.chn_MIN_SEP 0 14)

/-- R151: the reason SEP_VIOLATION holds for a list; an entry that is no channel of the table (64) is disabled. -/
def State.hopBad (s : State) (l : List Nat) : Bool :=
  decide (l.length < 4) || decide (64 < l.length) || (l.any fun c => decide (64 ≤ c) || !s.rb (R.chn_CHc_CFG c) 31) ||
  (l.any fun c => (List.range 4).any fun r => s.en (radBlk r) && !s.rb (R.chn_CHc_CFG c) (20 + s.radMode r)) || s.sepBad l

/-- R148, R149: the centres of the default table of the variant, in kHz. -/
def defaultCentres (b : Bool) : List Nat :=
  if b then (List.range 64).map fun c => 902200 + 400 * c
  else ((List.range 7).map fun c => 865200 + 400 * c) ++ [868300, 869525] ++ ((List.range 15).map fun c => 870200 + 400 * c)

/-- R206: the list holds a centre of the default table. -/
def State.hopFindable (s : State) (l : List Nat) : Bool := l.any fun c => (defaultCentres s.modId.variantB).contains (s.chanKhz c)

/-- R151: a list that the firmware commits comes into force, or is refused with SEP_VIOLATION and the list in force stays. -/
def State.hopInstall (s : State) (l : List Nat) : State :=
  if s.hopBad l then s.err .chn 0x80 0x54 .svc else { s with chn := { s.chn with hop := l, hopNext := none } }

/-- The registers of CHN that settings group 0 holds, by their offset in the page (R147, R457). -/
def chnStored : List Nat :=
  [0x40, 0x44, 0x48, 0x4C, 0x50] ++ ((List.range 16).map fun i => 0x60 + 4 * i) ++ ((List.range 8).map fun i => 0xA0 + 8 * i) ++ (List.range 128).map fun i => 0x100 + 4 * i

/-- R147: the firmware loads the channel table from settings group 0 and locks the page. -/
def State.chnLoad (s : State) : State := (s.loadGroup 0 (chnStored.map fun o => (o, blkBase .chn + o))).wb (hdr .chn oLock) 0 true

/-- R147, R457: at a start the firmware loads the table, and the hop list that settings group 0 holds. -/
def State.chnStart (s : State) : State :=
  let t := s.chnLoad
  if t.groupStored 0 then t.hopInstall t.hopStaged else t

/-- The four bytes of HOP_LISTi for a list. -/
def hopWord (l : List Nat) (i : Nat) : Word := w32 (l.getD (4 * i) 0 + l.getD (4 * i + 1) 0 * 2 ^ 8 + l.getD (4 * i + 2) 0 * 2 ^ 16 + l.getD (4 * i + 3) 0 * 2 ^ 24)

/-- The firmware stages a hop list for a tick. -/
def State.stageHop (s : State) (l : List Nat) (at' : Word) : State :=
  ((List.range 16).foldl (fun (t : State) i => t.wr (R.chn_HOP_LIST0 i) (hopWord l i)) (s.wr R.chn_HOP_LEN (w32 l.length))).wr R.chn_HOP_AT at'

/-- R151: HOP_COMMIT. -/
def State.hopCommit (s : State) (m : Master) (v : Word) : State :=
  if !tst v 0 then s else
  let at' := s.rd R.chn_HOP_AT
  let l := s.hopStaged
  if !s.timeFor at' then (s.err .chn eNoTime 0x54 m).noTime .chn at'
  else if at'.toNat % 256 ≠ 0 ∨ !later at' s.tick32 then s.err .chn eBadValue 0x54 m
  else if s.hopBad l then s.err .chn 0x80 0x54 m
  else if !s.hopFindable l then s.err .chn eBadValue 0x54 m
  else ({ s with chn := { s.chn with hopNext := some (l, at') } }).wr R.chn_HOP_COMMIT 1

/-- HOP_COMMIT: a write of HOP_COMMIT. -/
def execHopCommit (m : Master) (v : Word) (s : State) : Host.Outcome State Fault Refusal :=
  .next (s.writeAt .chn 0x54 m v fun t => (t.hopCommit m v).answer .done)

/-- R151: the committed list takes effect once its tick is reached. -/
def State.hopApply (s : State) : State :=
  match s.chn.hopNext with
  | none => s
  | some (l, at') =>
    if s.holds && notEarlier s.tick32 at' then
      (({ s with chn := { s.chn with hop := l, hopNext := none } }).wr R.chn_HOP_COMMIT 0).irq .chn 2
    else s

/-- HOP_APPLY. -/
def execHopApply (s : State) : Host.Outcome State Fault Refusal := .next s.hopApply

/-- R167: a CHN block reset keeps the ledgers and returns the hop list to the default. -/
def State.chnReset (s : State) : State :=
  { s with chn := { s.chn with hop := if s.modId.variantB then List.range 64 else List.range 8, hopNext := none } }

/-- R282: the firmware block-resets CHN and starts it again: its registers return to their defaults but for EN, and the table is loaded again. -/
def State.chnAgain (s : State) : State :=
  let t := s.chnReset
  let t := { t with regs := t.regs.filter fun p => !(decide (blkBase .chn ≤ p.1) && decide (p.1 < blkBase .chn + 0x1000)) }
  (t.wb (hdr .chn oCtrl) 0 (s.en .chn)).chnLoad

/-- The largest of a few numbers. -/
def maxOf (f : Nat → Nat) (n : Nat) : Nat := (List.range n).foldl (fun a i => max a (f i)) 0

/-- CHN registers that show the ledgers; the largest ledger when SCOPE = 1. -/
def State.chnRead (s : State) (off : Nat) : Option Word :=
  let sets := if s.rb R.chn_CHN_CFG 0 then 4 else 1
  if 0xA0 ≤ off ∧ off < 0xE0 ∧ off % 8 = 4 then some (w32 (maxOf (fun r => s.dutyUsed r ((off - 0xA4) / 8)) sets))
  else if 0x300 ≤ off ∧ off < 0x400 ∧ off % 4 = 0 then some (w32 (maxOf (fun r => s.dwellUsed r ((off - 0x300) / 4)) sets))
  else none

/-- CHN registers with a range: the write is ignored whole and recorded as BAD_VALUE. -/
def State.chnBad (off : Nat) (v : Word) : Bool :=
  if off = 0x44 then decide (fld v 0 6 = 0)
  else if off = 0x48 then decide (fld v 0 6 = 0)
  else if off = 0x50 then false
  else if 0xA0 ≤ off ∧ off < 0xE0 ∧ off % 8 = 0 then (tst v 31 && decide (fld v 0 14 = 0)) || decide (10000 < fld v 0 14)
  else if 0x100 ≤ off ∧ off < 0x300 ∧ off % 8 = 4 then decide (74 < fld v 0 8)
  else false

end Sys2Proof.Machine
end

