-- ==== Sys2Proof/Machine/Pewter.lean ====
section
/-! DEFINITION. The Pewter domain: supply and seal, the calendar and its trim, commits, alarms, PWRON, the fail-lit latch and the tamper configuration (R344-R364). -/

namespace Sys2Proof.Machine

open Sys2Proof

/-! ### The calendar (R348, R349) -/

/-- The Gregorian rule. -/
def leapYear (y : Nat) : Bool := y % 4 = 0 && (y % 100 ≠ 0 || y % 400 = 0)

/-- The length of a month. -/
def monthLen (y m : Nat) : Nat :=
  if m = 2 then (if leapYear y then 29 else 28) else if m = 4 ∨ m = 6 ∨ m = 9 ∨ m = 11 then 30 else 31

/-- Days of the n years from 2000 on. -/
def yearsDays : Nat → Nat
  | 0 => 0
  | n + 1 => yearsDays n + (if leapYear (2000 + n) then 366 else 365)

/-- Days of the first n months of a year. -/
def monthsDays (y : Nat) : Nat → Nat
  | 0 => 0
  | n + 1 => monthsDays y n + monthLen y (n + 1)

/-- The weekday, 1 Monday to 7 Sunday; 2000-01-01 is a Saturday. -/
def Cal.wday (c : Cal) : Nat := (yearsDays (c.year - 2000) + monthsDays c.year (c.mon - 1) + (c.day - 1) + 5) % 7 + 1

/-- The first day of the calendar's range. -/
def calZero : Cal := ⟨2000, 1, 1, 0, 0, 0⟩

/-- The calendar one second later; after 2399-12-31 23:59:59 it starts again at 2000-01-01 00:00:00. -/
def Cal.next (c : Cal) : Cal :=
  if c.sec < 59 then { c with sec := c.sec + 1 }
  else if c.mins < 59 then { c with sec := 0, mins := c.mins + 1 }
  else if c.hour < 23 then { c with sec := 0, mins := 0, hour := c.hour + 1 }
  else if c.day < monthLen c.year c.mon then ⟨c.year, c.mon, c.day + 1, 0, 0, 0⟩
  else if c.mon < 12 then ⟨c.year, c.mon + 1, 1, 0, 0, 0⟩
  else if c.year < 2399 then ⟨c.year + 1, 1, 1, 0, 0, 0⟩
  else calZero

/-- The second that follows is a range wrap. -/
def Cal.wraps (c : Cal) : Bool := decide (c = ⟨2399, 12, 31, 23, 59, 59⟩)

/-- Two BCD digits. -/
def bcd2 (n : Nat) : Nat := n / 10 * 16 + n % 10

/-- Four BCD digits. -/
def bcd4 (n : Nat) : Nat := bcd2 (n / 100) * 256 + bcd2 (n % 100)

/-- The value of two BCD digits. -/
def unbcd2 (n : Nat) : Nat := n / 16 * 10 + n % 16

/-- Every digit of a number of d digits is BCD. -/
def isBcd : Nat → Nat → Bool
  | 0, _ => true
  | d + 1, n => decide (n % 16 ≤ 9) && isBcd d (n / 16)

/-- RTC_TIME of a calendar value. -/
def Cal.timeWord (c : Cal) : Word := w32 (bcd2 c.sec + bcd2 c.mins * 2 ^ 8 + bcd2 c.hour * 2 ^ 16 + c.wday * 2 ^ 24)

/-- RTC_DATE of a calendar value. -/
def Cal.dateWord (c : Cal) : Word := w32 (bcd2 c.day + bcd2 c.mon * 2 ^ 8 + bcd4 c.year * 2 ^ 16)

/-- The calendar value of SH_TIME and SH_DATE. -/
def calOf (t d : Word) : Cal :=
  ⟨unbcd2 (fld d 24 8) * 100 + unbcd2 (fld d 16 8), unbcd2 (fld d 8 5), unbcd2 (fld d 0 6), unbcd2 (fld t 16 6), unbcd2 (fld t 8 7), unbcd2 (fld t 0 7)⟩

/-- R351: the first check that a commit fails, 1-3, or 0. -/
def rtcCheck (t d : Word) : Nat :=
  let c := calOf t d
  if !(isBcd 2 (fld t 0 7) && isBcd 2 (fld t 8 7) && isBcd 2 (fld t 16 6) && isBcd 2 (fld d 0 6) && isBcd 2 (fld d 8 5) && isBcd 4 (fld d 16 16)) then 1
  else if 59 < c.sec ∨ 59 < c.mins ∨ 23 < c.hour ∨ c.mon < 1 ∨ 12 < c.mon ∨ c.year < 2000 ∨ 2399 < c.year then 2
  else if c.day < 1 ∨ monthLen c.year c.mon < c.day then 3
  else 0

/-! ### The divider and the trim (R354) -/

/-- R354: how many parts of the trim intervals have ended in the first `a` cycles, for |TRIM| = t. -/
def trimEnds (t a : Nat) : Nat :=
  if t = 0 then 0 else a / 2 ^ 20 * t + min (a % 2 ^ 20 / (2 ^ 20 / t)) (t - 1)

/-- R354: the divider counts of n oscillator cycles from position `cyc` of the interval. -/
def trimCounts (trim : Int) (cyc n : Nat) : Nat :=
  let k := trimEnds trim.natAbs (cyc + n) - trimEnds trim.natAbs cyc
  if 0 ≤ trim then n + k else n - k

/-- The number of cycles, at least n, after which the divider has made `need` counts. -/
def trimCycles (trim : Int) (cyc need : Nat) : Nat → Nat → Nat
  | 0, n => n
  | f + 1, n => if need ≤ trimCounts trim cyc n then n else trimCycles trim cyc need f (n + 1)

/-- TRIM as a signed number. -/
def State.trim (s : State) : Int := sgn 8 (s.rf R.pwt_RTC_TRIM 0 8)

/-- RTC_SUB after some cycles since the second began. -/
def State.rtcSub (s : State) (cycles : Nat) : Nat := min (s.pwt.div + trimCounts s.trim s.pwt.cyc cycles) 32767

/-! ### Flags and interrupts -/

/-- Raise a PWT interrupt, or keep it for the next start while main power is absent (R355). -/
def State.pwtIrq (s : State) (i : Nat) : State :=
  if s.pwt.mainOn then s.irq .pwt i else { s with pwt := { s.pwt with pendIrq := s.pwt.pendIrq ||| bitw i } }

/-- Set a bit of FLAGS. -/
def State.pwtFlag (s : State) (i : Nat) : State := s.wb R.pwt_FLAGS i true

/-- An event of the Pewter domain, sent while main power is present. -/
def State.pwtEvent (s : State) (code : Nat) (p : Bytes) : State :=
  if s.pwt.mainOn then s.event code 0x050 p else s

/-- R346: VBAK is read: below 2.2 V VBAK_LOW is set while it lasts, and VBAK_SEEN until it is cleared. -/
def State.setVbak (s : State) (mv : Nat) : State :=
  let s := { s with pwt := { s.pwt with vbak := mv, vbakLow := s.pwt.vbakLow && decide (mv < 2200) } }
  if 2200 ≤ mv ∨ s.pwt.vbakLow then s
  else (({ s with pwt := { s.pwt with vbakLow := true } }.pwtFlag 6).pwtIrq 3).pwtEvent 0xF802 (toLe 2 mv)

/-- R356: PWRON stays deasserted. -/
def State.pwronBlocked (s : State) : Bool := s.rb R.pwt_FLAGS 4 || s.rb R.pwt_FLAGS 5

/-- Change PWRON. -/
def State.setPwron (s : State) (on : Bool) (by_ : Nat) : State :=
  if s.pwt.pwron = on then { s with pwt := { s.pwt with pwronBy := if on then by_ else 0 } }
  else { s with pwt := { s.pwt with pwron := on, pwronBy := if on then by_ else 0 } }.emit (.pin "PWRON" on)

/-- R355: alarm n matches the calendar. -/
def State.alarmHits (s : State) (n : Nat) : Bool :=
  let t := s.rd (R.pwt_ALMn_TIME n)
  let d := s.rd (R.pwt_ALMn_DATE n)
  let x := s.pwt.cal.timeWord
  let y := s.pwt.cal.dateWord
  let en := [tst t 28, tst t 29, tst t 30, tst t 31, tst d 30, tst d 31]
  let eq := [decide (fld t 0 7 = fld x 0 7), decide (fld t 8 7 = fld x 8 7), decide (fld t 16 6 = fld x 16 6), decide (fld t 24 3 = fld x 24 3),
             decide (fld d 0 6 = fld y 0 6), decide (fld d 8 5 = fld y 8 5)]
  en.any (fun b => b) && (List.zipWith (fun a b => !a || b) en eq).all (fun b => b)

/-- R355: a match of alarm n. -/
def State.alarm (s : State) (n : Nat) : State :=
  if !s.alarmHits n then s else
  let s := (s.pwtFlag (2 + n)).pwtIrq n
  if s.rb R.pwt_PWRON_CFG (4 + n) && !s.pwronBlocked then s.setPwron true (n + 1) else s

/-- R349: a second is counted. -/
def State.second (s : State) (vbakMv : Nat) (c : DWord) : State :=
  let n := trimCycles s.trim s.pwt.cyc (32768 - s.pwt.div) 24 (32768 - s.pwt.div - 12)
  let wrap := s.pwt.cal.wraps
  let s := { s with pwt := { s.pwt with
      cal := s.pwt.cal.next
      div := s.pwt.div + trimCounts s.trim s.pwt.cyc n - 32768
      cyc := (s.pwt.cyc + n) % 2 ^ 20 } }
  let s := s.setVbak vbakMv
  let s := if s.pwt.mainOn then (s.at c).wr64 R.pwt_RTC_CAP_LO R.pwt_RTC_CAP_HI c.toNat else s
  let s := if wrap then ((s.pwtFlag 0).pwtIrq 6).pwtEvent 0xF803 [] else s
  (s.alarm 0).alarm 1

/-- CALENDAR_SECOND: the divider has counted a second; `vbakMv` is the reading of VBAK. A calendar whose oscillator stands still counts nothing (R353). -/
def execCalendarSecond (vbakMv : Nat) (c : DWord) (s : State) : Host.Outcome State Fault Refusal :=
  .next (if s.pwt.oscOk then s.second vbakMv c else s)

/-! ### Commits and reads (R350-R352) -/

/-- R351: commit the staged words: 0 where the commit passes, otherwise the failing check. -/
def State.rtcCommit (s : State) : State × Nat :=
  let t := s.rd R.pwt_SH_TIME
  let d := s.rd R.pwt_SH_DATE
  let k := rtcCheck t d
  if k = 0 then ({ s with pwt := { s.pwt with commit := some (t, d) } }, 0)
  else (((s.wf R.pwt_RTC_CSTAT 4 2 k).wb R.pwt_RTC_CSTAT 1 true).irq .pwt 5, k)

/-- A write of RTC_CTRL. -/
def State.rtcCtrl (s : State) (m : Master) (v : Word) : State :=
  if !tst v 0 then s else if s.pwt.commit.isSome then s.err .pwt eBusy 0x64 m else s.rtcCommit.1

/-- RTC_COMMIT: a write of RTC_CTRL. -/
def execRtcCommit (m : Master) (v : Word) (s : State) : Host.Outcome State Fault Refusal :=
  .next (s.writeAt .pwt 0x64 m v fun t => (t.rtcCtrl m v).answer .done)

/-- R351: the passing commit loads the time and clears the divider; the RTC_SET that asked for it is answered. -/
def State.rtcLoad (s : State) : State :=
  match s.pwt.commit with
  | none => s
  | some (t, d) =>
    let s := { s with pwt := { s.pwt with cal := calOf t d, timeValid := true, div := 0, cyc := 0, commit := none } }
    match s.startedCmd 0x0800 with
    | some c => s.reply c stOk [] []
    | none => s

/-- RTC_LOAD: the 32.768 kHz cycle that loads a passing commit; an oscillator that stands still gives none (R353). -/
def execRtcLoad (s : State) : Host.Outcome State Fault Refusal := .next (if s.pwt.oscOk then s.rtcLoad else s)

/-- R352: main power is lost while a commit waits: it is lost, or completes whole. -/
def State.rtcCut (s : State) : State :=
  if s.pwt.commit.isNone then s
  else if Config.freeBit s.free then s.rtcLoad.draw 1
  else { s with pwt := { s.pwt with commit := none } }.draw 1

/-- R350: latch RTC_DATE and RTC_SUB with RTC_TIME, `cycles` oscillator cycles after the second began. -/
def State.rtcLatch (s : State) (cycles : Nat) : State :=
  (s.wr R.pwt_RTC_DATE s.pwt.cal.dateWord).wr R.pwt_RTC_SUB (w32 (s.rtcSub cycles))

/-- RTC_TIME_READ: a read of RTC_TIME. -/
def execRtcTimeRead (m : Master) (cycles : Nat) (s : State) : Host.Outcome State Fault Refusal :=
  .next (s.readAt .pwt 0x50 m fun t => (t.rtcLatch cycles).answer (.data t.pwt.cal.timeWord))

/-- PWT_STAT as read. -/
def State.pwtStat (s : State) : Word :=
  w32 (b2n s.pwt.lost + 2 * b2n s.pwt.vbakLow + 4 * b2n s.pwt.timeValid + 8 * b2n s.pwt.oscOk + 16 * b2n s.pwt.zeroized + 32 * b2n s.pwt.ranVbak)

/-- RTC_SET (0x0800). -/
def execRtcSet (tag : Word) (s : State) : Host.Outcome State Fault Refusal :=
  .next (s.withCmd 0x0800 tag fun k t =>
    if t.pwt.commit.isSome then t.reply k stBusy [] []
    else
      let r := ((t.wr R.pwt_SH_TIME (w32 (k.par 0 4) &&& 0x3F7F7F)).wr R.pwt_SH_DATE (w32 (k.par 4 4) &&& 0xFFFF1F3F)).rtcCommit
      if r.2 = 0 then r.1.defer k else r.1.reply k stBadParam (toLe 1 r.2) [])

/-- RTC_GET (0x0801). -/
def execRtcGet (tag : Word) (cycles : Nat) (s : State) : Host.Outcome State Fault Refusal :=
  .next (s.withCmd 0x0801 tag fun k t =>
    let t := t.rtcLatch cycles
    t.reply k stOk (wordsBytes [t.pwt.cal.timeWord, t.rd R.pwt_RTC_DATE, t.rd R.pwt_RTC_SUB, t.rd R.pwt_FLAGS, t.pwtStat]) [])

/-! ### Alarms, PWRON and the fail-lit latch (R355-R358) -/

/-- The PWT page refuses an ALMn_TIME word. -/
def almTimeBad (v : Word) : Bool :=
  (tst v 28 && (!isBcd 2 (fld v 0 7) || decide (59 < unbcd2 (fld v 0 7)))) ||
  (tst v 29 && (!isBcd 2 (fld v 8 7) || decide (59 < unbcd2 (fld v 8 7)))) ||
  (tst v 30 && (!isBcd 2 (fld v 16 6) || decide (23 < unbcd2 (fld v 16 6)))) ||
  (tst v 31 && decide (fld v 24 3 = 0))

/-- The PWT page refuses an ALMn_DATE word. -/
def almDateBad (v : Word) : Bool :=
  (tst v 30 && (!isBcd 2 (fld v 0 6) || decide (unbcd2 (fld v 0 6) < 1) || decide (31 < unbcd2 (fld v 0 6)))) ||
  (tst v 31 && (!isBcd 2 (fld v 8 5) || decide (unbcd2 (fld v 8 5) < 1) || decide (12 < unbcd2 (fld v 8 5))))

/-- Stored bits of ALMn_TIME and ALMn_DATE. -/
abbrev almTimeMask : Word := 0xF73F7F7F
abbrev almDateMask : Word := 0xC0001F3F

/-- ALARM_SET (0x0802). -/
def execAlarmSet (tag : Word) (s : State) : Host.Outcome State Fault Refusal :=
  .next (s.withCmd 0x0802 tag fun k t =>
    let n := k.par 0 1
    let at_ := w32 (k.par 4 4)
    let ad := w32 (k.par 8 4)
    if 1 < n ∨ 1 < k.par 1 1 ∨ 15 < k.par 2 1 ∨ k.par 3 1 ≠ 0 ∨ almTimeBad at_ ∨ almDateBad ad then t.reply k stBadParam [] []
    else
      let t := (t.wr (R.pwt_ALMn_TIME n) (at_ &&& almTimeMask)).wr (R.pwt_ALMn_DATE n) (ad &&& almDateMask)
      ((t.wb R.pwt_PWRON_CFG (4 + n) (decide (k.par 1 1 = 1))).wf R.pwt_PWRON_CFG 0 4 (k.par 2 1)).reply k stOk [] [])

/-- R356: PWRON_CTRL.ASSERT. -/
def State.pwronAssert (s : State) (m : Master) : State :=
  if s.pwronBlocked then s.err .pwt eBusy 0x94 m else s.setPwron true 3

/-- PWRON_ASSERT: a write of PWRON_CTRL.ASSERT. -/
def execPwronAssert (m : Master) (s : State) : Host.Outcome State Fault Refusal :=
  .next (s.writeAt .pwt 0x94 m 1 fun t => (t.pwronAssert m).answer .done)

/-- R356: PWRON_CTRL.RELEASE deasserts PWRON when PULSE = 0. -/
def State.pwronRelease (s : State) : State := if s.rf R.pwt_PWRON_CFG 0 4 = 0 then s.setPwron false 0 else s

/-- PWRON_RELEASE: a write of PWRON_CTRL.RELEASE. -/
def execPwronRelease (m : Master) (s : State) : Host.Outcome State Fault Refusal :=
  .next (s.writeAt .pwt 0x94 m 2 fun t => t.pwronRelease.answer .done)

/-- PWRON_PULSE_END: PULSE seconds after PWRON was asserted. -/
def execPwronPulseEnd (s : State) : Host.Outcome State Fault Refusal :=
  .next (if s.pwt.pwron && decide (s.rf R.pwt_PWRON_CFG 0 4 ≠ 0) then s.setPwron false 0 else s)

/-- R358: a write of FAILLIT. -/
def State.faillit (s : State) (m : Master) (v : Word) : State :=
  if fld v 16 16 = 0xFA11 then s.wr R.pwt_FAILLIT (v &&& 1) else s.err .pwt eBadKey 0xA0 m

/-- FAILLIT_WRITE: a write of FAILLIT. -/
def execFaillitWrite (m : Master) (v : Word) (s : State) : Host.Outcome State Fault Refusal :=
  .next (s.writeAt .pwt 0xA0 m v fun t => (t.faillit m v).answer .done)

/-- FAILLIT_SET (0x0803). -/
def execFaillitSet (tag : Word) (s : State) : Host.Outcome State Fault Refusal :=
  .next (s.withCmd 0x0803 tag fun k t =>
    if 1 < k.par 0 1 then t.reply k stBadParam [] []
    else (t.faillit .svc (w32 (0xFA110000 + k.par 0 1))).reply k stOk [] [])

/-- R360: TAMP_CFG is written: a loop that is enabled starts its count of mismatches from zero. -/
def State.tampCfg (s : State) (v : Word) : State :=
  let old := s.rd R.pwt_TAMP_CFG
  let ok (i : Nat) : Bool := s.pwt.loopOk.getD i true || (tst v i && !tst old i)
  { s.wr R.pwt_TAMP_CFG (v &&& 0x33) with pwt := { s.pwt with loopOk := [ok 0, ok 1] } }

/-- TAMPER_CFG (0x0804). -/
def execTamperCfg (tag : Word) (s : State) : Host.Outcome State Fault Refusal :=
  .next (s.withCmd 0x0804 tag fun k t =>
    if 1 < k.par 0 1 ∨ 1 < k.par 1 1 ∨ 2 < k.par 2 1 then t.reply k stBadParam [] []
    else (t.tampCfg (w32 (k.par 0 1 + 2 * k.par 1 1 + 16 * k.par 2 1))).reply k stOk [] [])

/-! ### Supply (R345, R346, R353) -/

/-- VBAK_LOW: VBAK falls below 2.2 V. -/
def execVbakLow (vbakMv : Nat) (s : State) : Host.Outcome State Fault Refusal := .next (s.setVbak vbakMv)

/-- VBAK_RESTORED: VBAK rises back to 2.2 V or above. -/
def execVbakRestored (vbakMv : Nat) (s : State) : Host.Outcome State Fault Refusal := .next (s.setVbak vbakMv)

/-- SEAL_TRIP: the supply node falls to a level: below 1.50 V the monitor trips, from 1.60 V on it does not, and between them it may (R346). -/
def execSealTrip (nodeMv : Nat) (s : State) : Host.Outcome State Fault Refusal :=
  .next (if 1600 ≤ nodeMv then s
    else if nodeMv < 1500 || Config.freeBit s.free then { s.draw 1 with pwt := { s.pwt with sealUp := false } }
    else s.draw 1)

/-- OSC_FAIL: no oscillator cycle for 2 ms. -/
def execOscFail (s : State) : Host.Outcome State Fault Refusal :=
  .next (({ s with pwt := { s.pwt with oscOk := false, timeValid := false } }.pwtFlag 1).pwtIrq 4)

/-- OSC_RESTART: the calendar counts on from where it stopped. -/
def execOscRestart (s : State) : Host.Outcome State Fault Refusal := .next { s with pwt := { s.pwt with oscOk := true } }

/-! ### Zeroization and loss (R347, R361, R368) -/

/-- A root secret of zeros. -/
def rsZero : Bytes := zeros 32

/-- The integrity word of a root secret (R347). -/
def rsCrc (rs : Bytes) : Nat := crcOf crc32c rs

/-- Store a root secret with its integrity word. -/
def State.setRs (s : State) (rs : Bytes) : State := { s with pwt := { s.pwt with rs := rs, crc := rsCrc rs } }

/-- ROOT_OK (R366). -/
def State.rootOk (s : State) : Bool := decide (s.pwt.rs ≠ rsZero)

/-- R347: the domain is intact. -/
def State.pewterIntact (s : State) : Bool := s.pwt.sealUp && decide (s.pwt.crc = rsCrc s.pwt.rs)

/-- Every register that lies in the Pewter domain (R344). -/
def pewterRegs : List Nat :=
  [R.pwt_FLAGS, R.pwt_PWT_CFG, R.pwt_RTC_TRIM, R.pwt_ALMn_TIME 0, R.pwt_ALMn_TIME 1, R.pwt_ALMn_DATE 0, R.pwt_ALMn_DATE 1,
   R.pwt_PWRON_CFG, R.pwt_FAILLIT, R.pwt_TAMP_CFG, R.pwt_TAMP_CNT, R.pwt_TAMP_TIME, R.pwt_TAMP_DATE, R.pwt_PWRCYC, R.fsw_CONT_HOLD,
   R.fsw_PHOTO_CFG, R.drg_DEF_GSCALE] ++ (List.range 4).flatMap fun n => [R.drg_DEFn_A n, R.drg_DEFn_B n, R.drg_DEFn_C n]

/-- R347: after a loss every RWP field takes its reset value, the root secret is zero and sealed, the vault's slots, sealed under it, are unrecoverable, and PWRON is deasserted. `lit` is the strap's latch value. -/
def State.pewterLose (s : State) (lit : Bool) : State :=
  let s := pewterRegs.foldl (fun (t : State) a => t.wr a (regDefault t.modId.variantB a)) s
  let s := s.wr R.pwt_FAILLIT (w32 (b2n lit))
  let s := { s.setRs rsZero with
    pwt := { (s.setRs rsZero).pwt with sealUp := true, cal := calZero, timeValid := false, div := 0, cyc := 0, commit := none, pendIrq := 0 }
    vlt := { s.vlt with slots := List.replicate 64 none } }
  s.setPwron false 0

/-! ### Register accesses -/

/-- PWT registers that show the domain. -/
def State.pwtRead (s : State) (off : Nat) : Option Word :=
  if off = 0x40 then some s.pwtStat
  else if off = 0x44 then some (w32 (s.pwt.vbak % 4096))
  else if off = 0x50 then some s.pwt.cal.timeWord
  else if off = 0x64 then some 0
  else if off = 0x68 then some (setBit (s.rd R.pwt_RTC_CSTAT) 0 s.pwt.commit.isSome)
  else if off = 0x98 then some (w32 (b2n s.pwt.pwron + 2 * s.pwt.pwronBy + 8 * b2n s.pwronBlocked))
  else if off = 0xA8 then some (w32 (b2n (s.pwt.loopOk.getD 0 true) + 2 * b2n (s.pwt.loopOk.getD 1 true)))
  else none

/-- PWT registers written by a rule of their own; none where the plain access type applies. -/
def State.pwtWrite (s : State) (m : Master) (off : Nat) (v : Word) : Option State :=
  let a := 0x4000 + off
  if off = 0x5C ∨ off = 0x60 then (if s.pwt.commit.isSome then some (s.err .pwt eBusy off m) else none)
  else if off = 0x64 then some (s.rtcCtrl m v)
  else if off = 0x6C then (if fld v 0 8 = 0x80 then some (s.err .pwt eBadValue off m) else none)
  else if a = R.pwt_ALMn_TIME 0 ∨ a = R.pwt_ALMn_TIME 1 then (if almTimeBad v then some (s.err .pwt eBadValue off m) else none)
  else if a = R.pwt_ALMn_DATE 0 ∨ a = R.pwt_ALMn_DATE 1 then (if almDateBad v then some (s.err .pwt eBadValue off m) else none)
  else if off = 0x94 then some (let t := if tst v 0 then s.pwronAssert m else s; if tst v 1 then t.pwronRelease else t)
  else if off = 0xA0 then some (s.faillit m v)
  else if off = 0xA4 then some (if fld v 4 2 = 3 then s.err .pwt eBadValue off m else s.tampCfg v)
  else if off = 0xB8 then some (if s.locked .pwt then s.err .pwt eLocked off m else s.wr R.pwt_PWRCYC (v &&& 0xFFFFFF))
  else none

end Sys2Proof.Machine
end

