-- ==== Sys2Proof/Machine/Vault.lean ====
section
/-! DEFINITION. The vault and CRY: slots, services, the Crypto Officer, self-tests, zeroization and the debug port (R365-R394). -/

namespace Sys2Proof.Machine

open Sys2Proof

/-! ### Status codes (R393) -/

abbrev vOk : Nat := 0x00
abbrev vCancelled : Nat := 0x01
abbrev vBadOp : Nat := 0x02
abbrev vBadSlot : Nat := 0x03
abbrev vBadAttr : Nat := 0x04
abbrev vDenied : Nat := 0x05
abbrev vNoRoot : Nat := 0x06
abbrev vUnwrapFail : Nat := 0x07
abbrev vErrorState : Nat := 0x09
abbrev vZeroized : Nat := 0x0A
abbrev vKilled : Nat := 0x0B
abbrev vSlotInUse : Nat := 0x0C
abbrev vVerifyFail : Nat := 0x0D
abbrev vBadParam : Nat := 0x0E

/-- The mailbox status of a vault status (R75, R393). -/
def vltMbx (st : Nat) : Nat :=
  if st = vOk then stOk
  else if st = vCancelled ∨ st = vKilled then stCancelled
  else if st = vBadOp then stBadOpcode
  else if st = vBadSlot ∨ st = vBadAttr ∨ st = vBadParam then stBadParam
  else if st = vDenied ∨ st = vNoRoot ∨ st = vErrorState ∨ st = vSlotInUse then stDenied
  else stFault

/-! ### Modes and indicators -/

/-- CRY_IND.ERROR: the error state of R390. -/
def State.cryError (s : State) : Bool := s.rb R.cry_CRY_IND 1

/-- CRY_IND.POST_OK. -/
def State.postOk (s : State) : Bool := s.rb R.cry_CRY_IND 2

/-- R383: CRY_IND.APPROVED_MODE. -/
def State.approvedInd (s : State) : Bool := s.vlt.approved && !s.cryError

/-- R384: the DRAM regions closed to the host as key-bearing. -/
def State.keyClosed (s : State) (r : Nat) : Bool := s.vlt.approved && s.rb R.vlt_KEY_REGIONS r

/-- R369: the module is in the keys-lost state. -/
def State.keysLost (s : State) : Bool := s.vlt.ready && !s.rootOk

/-- LNK may use keys: no error state, keys not lost, and in approved mode the power-up tests passed (R46, R369, R390). -/
def State.linkKeysOk (s : State) : Bool := !s.cryError && s.rootOk && (!s.vlt.approved || s.postOk)

/-- R390: a failed test puts the module into the error state; kind 1 power-up, 2 conditional, 3 on-demand. -/
def State.cryFail (s : State) (t kind : Nat) : State :=
  let s := ((s.wb R.cry_CRY_IND 1 true).wf R.cry_CRY_IND 8 5 t).wf R.cry_CRY_IND 14 2 kind
  (s.irq .cry 0).event 0xF900 0x190 (toLe 1 t ++ toLe 1 kind)

/-! ### Slots -/

/-- A slot. -/
def State.slot (s : State) (i : Nat) : Option Slot := s.vlt.slots.getD i none

/-- Replace a slot. -/
def State.setSlot (s : State) (i : Nat) (x : Option Slot) : State := { s with vlt := { s.vlt with slots := setAt s.vlt.slots i x } }

/-- The type of a slot's key. -/
def Slot.typ (x : Slot) : Nat := fld x.attr 1 2

/-- The slots that LNK_KEYS0 and LNK_KEYS1 name. -/
def State.linkSlots (s : State) : List Nat :=
  [s.rf R.lnk_LNK_KEYS0 0 6, s.rf R.lnk_LNK_KEYS0 8 6, s.rf R.lnk_LNK_KEYS0 16 6, s.rf R.lnk_LNK_KEYS1 0 6, s.rf R.lnk_LNK_KEYS1 8 6]

/-- R374: the slot cannot be erased or written now. -/
def State.slotBusy (s : State) (i : Nat) : Bool := s.runs .lnk && s.linkSlots.contains i

/-- The length of a key of a type. -/
def typLen (t : Nat) : Nat := if t = 0 then 16 else 32

/-- R371: the attributes of a slot to be created are refused; `derived` for a derived key. -/
def attrBad (v : Word) (uses : Nat) (derived : Bool) (len : Nat) : Bool :=
  let t := fld v 1 2
  decide (t = 3) || decide (typLen t ≠ len) ||
  (tst v 12 && (derived || tst v 10)) ||
  (tst v 10 && !(tst v 7 && tst v 8)) ||
  ((tst v 9 || tst v 11) && decide (t ≠ 0)) ||
  (tst v 9 && decide (uses ≠ 0))

/-- R371: create a slot; origin 0 derived, 1 imported, 2 generated. The status is the answer. -/
def State.createSlot (s : State) (i : Nat) (v : Word) (uses : Nat) (key : Bytes) (origin bind cls : Nat) : State × Nat :=
  if s.slotBusy i then (s, vSlotInUse)
  else if (s.slot i).isSome then (s, vBadSlot)
  else if attrBad v uses (decide (origin = 0)) key.length then (s, vBadAttr)
  else
    let a := w32 (1 + fld v 1 2 * 2 + fld v 4 10 * 2 ^ 4 + origin * 2 ^ 14 + bind * 2 ^ 16 + cls * 2 ^ 20)
    (s.setSlot i (some ⟨a, uses, key, s.vlt.meas.getD 1 []⟩), vOk)

/-- R372: an operation has used a slot as a key; the last use erases it and raises USES_OUT. -/
def State.takeUse (s : State) (i : Nat) : State :=
  match s.slot i with
  | none => s
  | some x => if x.uses = 0 then s else if x.uses = 1 then (s.setSlot i none).irq .vlt 1 else s.setSlot i (some { x with uses := x.uses - 1 })

/-- Erase the slots that a test of number and slot picks. -/
def eraseSlots (f : Nat → Slot → Bool) : Nat → List (Option Slot) → List (Option Slot)
  | _, [] => []
  | i, x :: r => (match x with | some y => if f i y then none else some y | none => none) :: eraseSlots f (i + 1) r

/-- Erase slots of the vault. -/
def State.erase (s : State) (f : Nat → Slot → Bool) : State := { s with vlt := { s.vlt with slots := eraseSlots f 0 s.vlt.slots } }

/-- R370: every reset erases derived slots and those with EXPIRE_RESET. -/
def resetErased (_ : Nat) (x : Slot) : Bool := decide (fld x.attr 14 2 = 0) || tst x.attr 13

/-- The number of slots in use. -/
def State.slotsUsed (s : State) : Nat := (s.vlt.slots.filter fun x => x.isSome).length

/-! ### The DRBG (R381) -/

/-- Free bytes of entropy. -/
def entropy (k : Nat) : Nat → Bytes
  | 0 => []
  | n + 1 => Config.freeByte k :: entropy (k + 1) n

/-- Seed the DRBG from the entropy source. -/
def State.drbgReseed (s : State) : State :=
  let d := s.vlt.drbg.getD ⟨zeros 32, 0, 0, 65535⟩
  { s with vlt := { s.vlt with drbg := some (drbgSeed d (entropy s.free 48)) }, free := s.free + 48 }

/-- Draw n bytes; the DRBG is seeded first when it never was or when RESEED requests have been made since. -/
def State.drbgDraw (s : State) (n : Nat) : Bytes × State :=
  let due := match s.vlt.drbg with | none => true | some d => decide (s.rf R.cry_DRBG_CFG 0 16 ≤ d.since)
  let s := if due then s.drbgReseed else s
  let r := drbgGen (s.vlt.drbg.getD ⟨zeros 32, 0, 0, 0⟩) n
  (r.1, { s with vlt := { s.vlt with drbg := some r.2 } })

/-- DRBG_RESEED: RESEED requests have been made; the reseed runs its known-answer test. -/
def execDrbgReseed (pass : Bool) (s : State) : Host.Outcome State Fault Refusal :=
  .next (match s.vlt.drbg with
    | none => s
    | some d =>
      if d.since < s.rf R.cry_DRBG_CFG 0 16 then s
      else if pass then s.drbgReseed else s.drbgReseed.cryFail 5 2)

/-! ### Derivation and import (R376, R380) -/

/-- MEASj for each j set in BIND, in ascending order. -/
def State.bindMeas (s : State) (bind : Nat) : Bytes :=
  (List.range 4).flatMap fun j => if bind / 2 ^ j % 2 = 1 then s.vlt.meas.getD j [] else []

/-- R380: the enrolment private key. -/
def enrolD (rs : Bytes) : Nat := be (kdf rs [0x41, 0x4D, 0x46, 0x2D, 0x45, 0x4E, 0x52, 0x4F, 0x4C] [0] 320) % (n256 - 1) + 1

/-- R380: the enrolment public key, X then Y. -/
def enrolQ (rs : Bytes) : Bytes := ecBytes (ecMul 256 (enrolD rs) (some g256))

/-- R380: open an import blob under the enrolment key: the attribute block and the key, or the status that refuses it. -/
def importOpen (rs blob : Bytes) : Except Nat Bytes :=
  let qe := blob.take 64
  if (blob.length ≠ 96 ∧ blob.length ≠ 112) ∨ !ecValid (ecPoint qe) then .error vBadParam
  else
    let z := (ecBytes (ecMul 256 (enrolD rs) (some (ecPoint qe)))).take 32
    let kek := kdf z [0x41, 0x4D, 0x46, 0x2D, 0x49, 0x4D, 0x50, 0x4F, 0x52, 0x54] (qe ++ enrolQ rs) 256
    match kwUnwrap kek (blob.drop 64) with
    | some p => .ok p
    | none => .error vUnwrapFail

/-! ### Operations -/

/-- What an operation gives: the state after it, its status, its output, and the slots it used as keys. -/
structure VOut where
  st     : State
  status : Nat
  out    : Bytes
  used   : List Nat

/-- An operation that ends with a status and no output. -/
def State.vFail (s : State) (status : Nat) : VOut := ⟨s, status, [], []⟩

/-- The key of a slot that carries an attribute bit, or the status that refuses it. -/
def State.keyFor (s : State) (i bit : Nat) : Except Nat Slot :=
  match s.slot i with
  | none => .error vBadSlot
  | some x => if tst x.attr bit then .ok x else .error vDenied

/-- STATUS: VLT_STAT, LIFE and CRY_IND. -/
def State.vltStat (s : State) : Word :=
  w32 (b2n s.rootOk + 2 * b2n s.vlt.ready + 4 * b2n s.keysLost + 8 * b2n s.vlt.debug + 2 ^ 8 * s.slotsUsed)

/-- LIFE as read. -/
def State.life (s : State) : Word := w32 (b2n s.vlt.fuse + 0xA100)

/-- CRY_IND as read. -/
def State.cryInd (s : State) : Word := setBit (setBit (s.rd R.cry_CRY_IND) 0 s.approvedInd) 3 s.cry.run.isSome

/-- STATUS. -/
def State.vopStatus (s : State) : VOut := ⟨s, vOk, wordsBytes [s.vltStat, s.life, s.cryInd], []⟩

/-- KEY_IMPORT into a slot. -/
def State.vopImport (s : State) (o : VOp) (inp : Bytes) : VOut :=
  match importOpen s.pwt.rs inp with
  | .error e => s.vFail e
  | .ok p =>
    let r := s.createSlot o.a (leWord p 0) (le p 4 2) (p.drop 8) 1 0 0
    ⟨r.1, r.2, [], []⟩

/-- R367: draw a root secret, again while it is all zero. -/
def drawRs : Nat → State → State
  | 0, s => s
  | f + 1, s =>
    let r := s.drbgDraw 32
    if r.1 = rsZero then drawRs f r.2 else r.2.setRs r.1

/-- VAULT_INIT: accepted only in the keys-lost state. -/
def State.vopInit (s : State) (o : VOp) (inp : Bytes) : VOut :=
  if s.rootOk then s.vFail vDenied
  else
    let t := drawRs 4 s
    let r := t.vopImport { o with a := 0 } inp
    ⟨r.st, r.status, enrolQ t.pwt.rs, []⟩

/-- KEY_GENERATE. -/
def State.vopGenerate (s : State) (o : VOp) : VOut :=
  let r := s.drbgDraw (typLen (fld o.attr 1 2))
  let c := r.2.createSlot o.a o.attr o.uses r.1 2 0 0
  ⟨c.1, c.2, [], []⟩

/-- KEY_DERIVE (R376, R377). -/
def State.vopDerive (s : State) (o : VOp) : VOut :=
  let len := fld o.kdf 0 7
  let bind := fld o.kdf 8 4
  let bits := fld o.kdf 16 9
  if bind / 2 % 2 = 0 ∨ bind / 4 % 2 = 0 then s.vFail vBadAttr
  else if len = 0 ∨ 64 < len ∨ (bits ≠ 128 ∧ bits ≠ 256) then s.vFail vBadParam
  else
    let key := kdf s.pwt.rs (o.label.take len) (BitVec.ofNat 8 bind :: s.bindMeas bind) bits
    let cls := if 8 ≤ bind then 3 else if bind = 7 then 2 else 1
    let r := s.createSlot o.a o.attr o.uses key 0 bind cls
    ⟨r.1, r.2, [], []⟩

/-- The attribute block and the key of a slot, as exported (R373). -/
def slotBlock (x : Slot) : Bytes := toLe 4 x.attr.toNat ++ toLe 4 x.uses ++ x.key

/-- KEY_EXPORT of slot A under the pairing slot B. -/
def State.vopExport (s : State) (o : VOp) : VOut :=
  match s.keyFor o.a 12, s.keyFor o.b 10 with
  | .error e, _ => s.vFail e
  | _, .error e => s.vFail e
  | .ok x, .ok p => ⟨s, vOk, kwWrap p.key (slotBlock x), [o.b]⟩

/-- REWRAP: the key inside an import blob, or inside a record wrapped under slot A, becomes a record wrapped under slot B. -/
def State.vopRewrap (s : State) (o : VOp) (inp : Bytes) : VOut :=
  match s.keyFor o.b 7 with
  | .error e => s.vFail e
  | .ok t =>
    if 96 ≤ inp.length then
      match importOpen s.pwt.rs inp with
      | .error e => s.vFail e
      | .ok p => ⟨s, vOk, kwWrap t.key (p.drop 8), [o.b]⟩
    else
      match s.keyFor o.a 8 with
      | .error e => s.vFail e
      | .ok x =>
        match kwUnwrap x.key inp with
        | none => ⟨s, vUnwrapFail, [], [o.a]⟩
        | some p => ⟨s, vOk, kwWrap t.key (if tst x.attr 10 then p.drop 8 else p), [o.a, o.b]⟩

/-- KEY_ERASE of slot A. -/
def State.vopErase (s : State) (o : VOp) : VOut :=
  if s.slotBusy o.a then s.vFail vSlotInUse
  else if (s.slot o.a).isNone then s.vFail vBadSlot
  else ⟨s.setSlot o.a none, vOk, [], []⟩

/-- Some slot from 1 on that a service would erase is in use by LNK (R374). -/
def State.anyLinkSlot (s : State) : Bool := s.runs .lnk && s.linkSlots.any fun i => decide (i ≠ 0) && (s.slot i).isSome

/-- The event and interrupt of a zeroization: 3 DEBUG_OPEN, 4 APPROVE (R394). -/
def State.zeroEvent (s : State) (cause : Nat) : State := (s.irq .vlt 2).event 0xF901 0x180 (toLe 1 cause)

/-- APPROVE blows the fuse and erases every slot but slot 0; approved mode begins at the next start (R382). -/
def State.vopApprove (s : State) : VOut :=
  if s.anyLinkSlot then s.vFail vSlotInUse
  else
    let t := s.erase fun i _ => decide (i ≠ 0)
    ⟨{ t with vlt := { t.vlt with fuse := true } }.zeroEvent 4, vOk, [], []⟩

/-- DEBUG_OPEN: refused in approved mode; otherwise it erases slots 1-63 and every derived key, sets MEAS2 byte 1 and opens the port (R392). -/
def State.vopDebug (s : State) : VOut :=
  if s.vlt.approved then s.vFail vDenied
  else if s.anyLinkSlot then s.vFail vSlotInUse
  else
    let t := s.erase fun i x => decide (i ≠ 0) || decide (fld x.attr 14 2 = 0)
    let m := t.vlt.meas.getD 2 []
    ⟨{ t with vlt := { t.vlt with debug := true, meas := setAt t.vlt.meas 2 (setAt m 1 1) } }.zeroEvent 3, vOk, [], []⟩

/-- ENCRYPT or DECRYPT in a mode. -/
def aesMode (enc : Bool) (m : AesMode) (key iv d : Bytes) : Option Bytes :=
  match m with
  | .ecb => if d.length % 16 ≠ 0 then none else some (if enc then ecbEnc key d else ecbDec key d)
  | .cbc => if d.length % 16 ≠ 0 ∨ iv.length ≠ 16 then none else some (if enc then cbcEnc key iv d else cbcDec key iv d)
  | .ctr => if iv.length ≠ 16 then none else some (ctrCrypt key iv d)

/-- ENCRYPT and DECRYPT under slot A. -/
def State.vopCrypt (s : State) (enc : Bool) (o : VOp) (inp : Bytes) : VOut :=
  match s.keyFor o.a (if enc then 4 else 5) with
  | .error e => s.vFail e
  | .ok x =>
    if x.typ = 2 then s.vFail vBadAttr else
    match aesMode enc o.mode x.key o.iv inp with
    | none => s.vFail vBadParam
    | some d => ⟨s, vOk, d, [o.a]⟩

/-- MAC under slot A: HMAC-SHA-256 or AES-CMAC by the type of its key. -/
def State.vopMac (s : State) (o : VOp) (inp : Bytes) : VOut :=
  match s.keyFor o.a 6 with
  | .error e => s.vFail e
  | .ok x => ⟨s, vOk, if x.typ = 2 then hmac x.key inp else cmac x.key inp, [o.a]⟩

/-- SIG_VERIFY: the input is the public key, the signature and the message. -/
def State.vopVerify (s : State) (inp : Bytes) : VOut :=
  if inp.length < 128 then s.vFail vBadParam
  else if ecdsaVerify (inp.take 64) (sha256 (inp.drop 128)) ((inp.drop 64).take 64) then ⟨s, vOk, [], []⟩ else s.vFail vVerifyFail

/-- RANDOM: as many bytes as the output has room for. -/
def State.vopRandom (s : State) (o : VOp) : VOut := let r := s.drbgDraw o.out.2; ⟨r.2, vOk, r.1, []⟩

/-- MEAS_EXTEND (R375). -/
def State.vopExtend (s : State) (inp : Bytes) : VOut :=
  ⟨{ s with vlt := { s.vlt with meas := setAt s.vlt.meas 3 (sha256 (s.vlt.meas.getD 3 [] ++ inp)) } }, vOk, [], []⟩

/-- The services by OP (R386), after the checks of R369 and R390. -/
def State.vopRun (s : State) (o : VOp) (inp : Bytes) : VOut :=
  if s.cryError && o.op ≠ 0x00 then s.vFail vErrorState
  else if !s.rootOk && o.op ≠ 0x00 && o.op ≠ 0x03 then s.vFail vNoRoot
  else if o.op = 0x00 then s.vopStatus
  else if o.op = 0x03 then s.vopInit o inp
  else if o.op = 0x04 then ⟨s, vOk, enrolQ s.pwt.rs, []⟩
  else if o.op = 0x05 then s.vopImport o inp
  else if o.op = 0x06 then s.vopGenerate o
  else if o.op = 0x07 then s.vopDerive o
  else if o.op = 0x08 then s.vopExport o
  else if o.op = 0x09 then s.vopRewrap o inp
  else if o.op = 0x0A then s.vopErase o
  else if o.op = 0x0B then s.vopApprove
  else if o.op = 0x0C then s.vopDebug
  else if o.op = 0x20 then s.vopCrypt true o inp
  else if o.op = 0x21 then s.vopCrypt false o inp
  else if o.op = 0x22 then s.vopMac o inp
  else if o.op = 0x23 then s.vopVerify inp
  else if o.op = 0x24 then s.vopRandom o
  else if o.op = 0x25 then s.vopExtend inp
  else s.vFail vBadOp

/-! ### Requests and completion -/

/-- Write OP_STAT: DONE, STATUS, APPROVED and OUT_LEN. -/
def State.opStat (s : State) (status len : Nat) : State :=
  s.wr R.vlt_OP_STAT (w32 (2 + status * 2 ^ 8 + b2n s.approvedInd * 2 ^ 15 + len * 2 ^ 16))

/-- Reply to a vault command: the vault status in PARAM byte 0, results from byte 4 on, and byte 31 the approved indicator (R383). -/
def State.vltReply (s : State) (c : Cmd) (status : Nat) (small data : Bytes) : State :=
  s.reply c (vltMbx status) (slice (toLe 4 status ++ small) 0 31 ++ toLe 1 (b2n s.approvedInd)) data

/-- Answer an operation: the output of a window operation goes to packet SRAM, and the interrupt OP_DONE is raised; a mailbox request is replied to. -/
def State.opAnswer (s : State) (o : VOp) (status : Nat) (out : Bytes) : State :=
  match o.who with
  | .window _ _ =>
    let fits := decide (out.length ≤ o.out.2)
    let st := if fits then status else vBadParam
    let d := if fits then out else []
    let s := s.sramWrite o.out.1 d
    (s.opStat st d.length).irq .vlt 0
  | .mbx tag =>
    match s.mbx.taken.find? fun c => c.e.tag = tag && c.started with
    | none => s
    | some c => if o.op = 0x00 then s.vltReply c status out [] else s.vltReply c status [] out

/-- The input of an operation. -/
def State.opInput (s : State) (o : VOp) : Option Bytes :=
  match o.who with
  | .mbx _ => some o.data
  | .window _ _ => s.sramRead o.inp.1 o.inp.2

/-- The last operation of a drain has ended (R393). -/
def State.vltDrainCheck (s : State) : State := if s.draining .vlt && (s.en .vlt || s.vlt.ops.isEmpty) then s.setDrained .vlt else s

/-- R374: the operation under way ends, with the use counts of R372, and the next may start. -/
def State.opComplete (s : State) : State :=
  match s.vlt.ops with
  | [] => s
  | o :: r =>
    if s.drained .vlt then s else
    let s := { s with vlt := { s.vlt with ops := r } }
    let s := match s.opInput o with
      | none => s.opAnswer o vBadParam []
      | some inp =>
        let x := s.vopRun o inp
        (x.used.foldl State.takeUse x.st).opAnswer o x.status x.out
    s.vltDrainCheck

/-- VAULT_OP_COMPLETE: the operation under way ends; `condFail` names a conditional test that failed in it (R388). Operations wait while a self-test run holds the vault engine (R389). -/
def execVaultOpComplete (condFail : Option (Fin 14)) (s : State) : Host.Outcome State Fault Refusal :=
  .next (if s.inReset .vlt then s
    else match condFail with
      | some t => if s.vlt.ops.isEmpty || s.drained .vlt then s else (s.cryFail t.val 2).opComplete
      | none => s.opComplete)

/-- Put an operation behind those that wait; a vault that takes no work answers CANCELLED. -/
def State.opQueue (s : State) (o : VOp) : State :=
  if !s.takes .vlt then s.opAnswer o vCancelled []
  else
    let s := { s with vlt := { s.vlt with ops := s.vlt.ops ++ [o] } }
    match o.who with
    | .window _ _ => s.wr R.vlt_OP_STAT 0
    | .mbx _ => s

/-- The VLT operation window has started an operation that has not ended. -/
def State.opBusy (s : State) : Bool := s.vlt.ops.any fun o => match o.who with | .window _ _ => true | .mbx _ => false

/-- R384: the operation window is the service core's alone. -/
def State.opDenied (s : State) (m : Master) (off : Nat) : State := s.err .vlt 0x80 off m

/-- The operation that the window registers describe. -/
def State.windowOp (s : State) (m : Master) (v : Word) (mode : AesMode) (iv : Bytes) : VOp :=
  { who := .window m v, op := fld v 0 8, a := fld v 8 6, b := fld v 16 6, attr := s.rd R.vlt_OP_ATTR, uses := s.rf R.vlt_OP_USES 0 16, data := []
    inp := (64 * s.rf R.vlt_OP_IN 0 16, s.rf R.vlt_OP_IN 16 13), out := (64 * s.rf R.vlt_OP_OUT 0 16, s.rf R.vlt_OP_OUT 16 13)
    kdf := s.rd R.vlt_KDF_CFG, label := wordsBytes ((List.range 16).map fun i => s.rd (R.vlt_KDF_LABELw i)), mode := mode, iv := iv }

/-! ### Self-tests (R387-R389) -/

/-- R389: request a self-test run; false where one is under way. -/
def State.testRequest (s : State) : State × Bool :=
  if s.cry.wait.isSome || s.cry.run.isSome then (s.err .cry 0x81 0x48 .block, false)
  else ({ s with cry := { s.cry with wait := some s.tick } }, true)

/-- A run whose last test has ended: TEST_STAT, TEST_RUNS, TEST_DELAY, TEST_DONE and the event. -/
def State.testEnd (s : State) (r : TestRun) (delay : Nat) : State :=
  let ok := r.failed.isNone
  let s := { s with cry := { s.cry with run := none } }
  let s := (s.wr R.cry_TEST_STAT (w32 (b2n ok * 2 + b2n (!ok) * 4 + r.sel * 2 ^ 16))).wr R.cry_TEST_DELAY (w32 delay)
  let s := ((s.bump R.cry_TEST_RUNS 1).irq .cry 1).event 0xF902 0x190 (toLe 1 (b2n ok) ++ toLe 4 delay)
  if s.draining .cry then s.setDrained .cry else s

/-- Go on with a run: end it when no test is left. -/
def State.testGo (s : State) (r : TestRun) : State :=
  if r.left.isEmpty then s.testEnd r (s.tick - r.start)
  else { s with cry := { s.cry with run := some r } }.wr R.cry_TEST_STAT
    (w32 (1 + (r.sel - (r.left.foldl (fun a t => a + 2 ^ t) 0)) * 2 ^ 16))

/-- Note the failure of a test in a run. -/
def TestRun.fail (r : TestRun) (t : Nat) : TestRun := { r with failed := some (r.failed.getD t) }

/-- SELFTEST_RUN: at the next tick edge the selected tests of the vault engine run; `fails` lists those that fail. -/
def execSelftestRun (fails : List Nat) (s : State) : Host.Outcome State Fault Refusal :=
  .next (match s.cry.wait with
    | none => s
    | some t0 =>
      if s.inReset .cry || s.drainBit .cry || decide (s.tick = t0) then s else
      let s := { s with cry := { s.cry with wait := none } }
      let sel := s.rf R.cry_TEST_SEL 0 14
      let pick (t : Nat) : Bool := decide (sel / 2 ^ t % 2 = 1)
      let bad := ([0, 1, 2, 3, 4, 5, 6, 7, 8, 13].filter fun t => pick t && fails.contains t)
      let r : TestRun := ⟨sel, [9, 10, 11, 12].filter pick, bad.head?, t0⟩
      (match bad with | t :: _ => s.cryFail t 3 | [] => s).testGo r)

/-- RADIO_PATH_TEST: the cores of a radio path are idle and its CCM* test runs. -/
def execRadioPathTest (radio : Fin 4) (pass : Bool) (s : State) : Host.Outcome State Fault Refusal :=
  .next (match s.cry.run with
    | none => s
    | some r =>
      let t := 9 + radio.val
      if !r.left.contains t then s
      else
        let r' := { r with left := r.left.filter fun x => x != t }
        if pass then s.testGo r' else (s.cryFail t 3).testGo (r'.fail t))

/-- R387: the power-up tests; `fails` lists those that fail. A pass sets POST_OK and, with the fuse blown at a start, approved mode. -/
def State.powerUpTests (s : State) (fails : List Nat) : State :=
  match fails with
  | t :: _ => ((s.wb R.cry_CRY_IND 2 false).cryFail t 1)
  | [] => (s.wb R.cry_CRY_IND 2 true).wb R.cry_CRY_IND 1 false

/-! ### The Crypto Officer (R385) -/

/-- The 64 bytes of a command entry with its authenticator set to zero. -/
def authBytes (e : MbxEntry) : Bytes := entryBytes { e with param := slice e.param 0 24 ++ zeros 8 }

/-- R385: check the authenticator of a command: none where it fails, otherwise the state with the counter accepted. Without a key in slot 0 no authenticator is asked for. -/
def State.coAuth (s : State) (c : Cmd) : Option State :=
  match s.slot 0 with
  | none => some s
  | some x =>
    let n := c.par 20 4
    let mac := (hmac x.key (authBytes c.e ++ sha256 c.bytes)).take 8
    if s.vlt.coCtr < n ∧ mac = slice c.e.param 24 8 then some ({ s with vlt := { s.vlt with coCtr := n } }.takeUse 0) else none

/-- R385: run a Crypto Officer command once its authenticator is accepted; otherwise DENIED and the record CO_DENIED. -/
def State.withCo (s : State) (c : Cmd) (f : State → State) : State :=
  match s.coAuth c with
  | some t => f t
  | none => (s.ledger 0xE00B 5 0x180 c.e.opcode (c.par 20 4) s.vlt.coCtr).reply c stDenied [] []

/-! ### Services -/

/-- The operation of a mailbox request: PARAM byte 0 slot A, byte 1 slot B, bytes 4-7 attributes, bytes 8-9 uses; the data at ADDR is the input. -/
def mbxOp (c : Cmd) (op : Nat) : VOp :=
  { who := .mbx c.e.tag, op := op, a := c.par 0 1 % 64, b := c.par 1 1 % 64, attr := w32 (c.par 4 4), uses := c.par 8 2, data := c.bytes
    inp := (0, 0), out := (0, c.e.length), kdf := 0, label := [], mode := .ecb, iv := [] }

/-- A service asked for through the mailbox; `co` for a Crypto Officer's. -/
def State.mbxService (s : State) (op : Nat) (co : Bool) (tag : Word) : State :=
  s.withCmd (0x0900 + op) tag fun c t =>
    if co then t.withCo c fun u => (u.defer c).opQueue (mbxOp c op) else (t.defer c).opQueue (mbxOp c op)

/-- A write of OP_CMD: with GO, the operation of the window is queued. -/
def State.opCmd (s : State) (m : Master) (v : Word) (mode : AesMode) (iv : Bytes) : State :=
  if m ≠ .svc then s.opDenied m 0x58
  else if !tst v 31 then s
  else if fld v 0 8 = 0x01 then
    if s.cryError then s.opStat vErrorState 0
    else let r := s.testRequest; (r.1.opStat (if r.2 then vOk else vDenied) 0).irq .vlt 0
  else s.opQueue (s.windowOp m v mode iv)

/-- A service row asked for through OP_CMD: the write of that OP. -/
def State.windowService (s : State) (op : Nat) (m : Master) (v : Word) (mode : AesMode) (iv : Bytes) : State :=
  s.writeAt .vlt 0x58 m v fun t => (if fld v 0 8 = op then t.opCmd m v mode iv else t).answer .done

/-- A service by either way. -/
def State.service (s : State) (op : Nat) (co : Bool) (req : VltReq) : State :=
  match req with
  | .mbx tag => s.mbxService op co tag
  | .window m v => s.windowService op m v .ecb []

/-- STATUS. -/
def execStatus (req : VltReq) (s : State) : Host.Outcome State Fault Refusal := .next (s.service 0x00 false req)

/-- SELFTEST: a run is requested, or refused while one is under way. -/
def execSelftest (req : VltReq) (s : State) : Host.Outcome State Fault Refusal :=
  .next (match req with
    | .window m v => s.windowService 0x01 m v .ecb []
    | .mbx tag => s.withCmd 0x0901 tag fun c t =>
        if t.cryError then t.vltReply c vErrorState [] []
        else let r := t.testRequest; if r.2 then r.1.vltReply c vOk [] [] else r.1.reply c stBusy (toLe 4 vDenied) [])

/-- VAULT_INIT. -/
def execVaultInit (req : VltReq) (s : State) : Host.Outcome State Fault Refusal := .next (s.service 0x03 false req)

/-- ENROL_PUB. -/
def execEnrolPub (req : VltReq) (s : State) : Host.Outcome State Fault Refusal := .next (s.service 0x04 false req)

/-- KEY_IMPORT. -/
def execKeyImport (req : VltReq) (s : State) : Host.Outcome State Fault Refusal := .next (s.service 0x05 true req)

/-- KEY_GENERATE. -/
def execKeyGenerate (req : VltReq) (s : State) : Host.Outcome State Fault Refusal := .next (s.service 0x06 true req)

/-- KEY_DERIVE. -/
def execKeyDerive (m : Master) (v : Word) (s : State) : Host.Outcome State Fault Refusal := .next (s.windowService 0x07 m v .ecb [])

/-- KEY_EXPORT. -/
def execKeyExport (req : VltReq) (s : State) : Host.Outcome State Fault Refusal := .next (s.service 0x08 true req)

/-- REWRAP. -/
def execRewrap (m : Master) (v : Word) (s : State) : Host.Outcome State Fault Refusal := .next (s.windowService 0x09 m v .ecb [])

/-- KEY_ERASE. -/
def execKeyErase (req : VltReq) (s : State) : Host.Outcome State Fault Refusal := .next (s.service 0x0A true req)

/-- APPROVE. -/
def execApprove (req : VltReq) (s : State) : Host.Outcome State Fault Refusal := .next (s.service 0x0B true req)

/-- DEBUG_OPEN. -/
def execDebugOpen (req : VltReq) (s : State) : Host.Outcome State Fault Refusal := .next (s.service 0x0C true req)

/-- ENCRYPT, with its mode and initial vector. -/
def execEncrypt (m : Master) (v : Word) (mode : AesMode) (iv : Bytes) (s : State) : Host.Outcome State Fault Refusal :=
  .next (s.windowService 0x20 m v mode iv)

/-- DECRYPT, with its mode and initial vector. -/
def execDecrypt (m : Master) (v : Word) (mode : AesMode) (iv : Bytes) (s : State) : Host.Outcome State Fault Refusal :=
  .next (s.windowService 0x21 m v mode iv)

/-- MAC. -/
def execMac (m : Master) (v : Word) (s : State) : Host.Outcome State Fault Refusal := .next (s.windowService 0x22 m v .ecb [])

/-- SIG_VERIFY. -/
def execSigVerify (m : Master) (v : Word) (s : State) : Host.Outcome State Fault Refusal := .next (s.windowService 0x23 m v .ecb [])

/-- RANDOM. -/
def execRandom (m : Master) (v : Word) (s : State) : Host.Outcome State Fault Refusal := .next (s.windowService 0x24 m v .ecb [])

/-- MEAS_EXTEND. -/
def execMeasExtend (m : Master) (v : Word) (s : State) : Host.Outcome State Fault Refusal := .next (s.windowService 0x25 m v .ecb [])

/-- TAP_INSTRUCTION: IDCODE and BYPASS are answered; any other acts as BYPASS and is counted in approved mode and while the port is locked (R392). -/
def execTapInstruction (k : TapInstr) (s : State) : Host.Outcome State Fault Refusal :=
  .next (match k with
    | .idcode => s
    | .bypass => s
    | .other =>
      if !s.vlt.approved && s.vlt.debug then s
      else s.wf R.cry_DBG_STAT 16 16 (min (s.rf R.cry_DBG_STAT 16 16 + 1) 65535))

/-! ### Zeroization, resets and registers -/

/-- R368: everything that a full zeroization clears. The reset that follows clears the LNK contexts. -/
def State.zeroizeNow (s : State) : State :=
  let named := (64 * s.rf R.vlt_OP_OUT 0 16, s.rf R.vlt_OP_OUT 16 13)
  let out := named :: s.vlt.ops.filterMap fun o => match o.who with | .window _ _ => some o.out | .mbx _ => none
  let s := { s.setRs rsZero with
    vlt := { s.vlt with slots := List.replicate 64 none, drbg := none, ops := [] }
    mem := { s.mem with sram := out.foldl (fun (m : Sparse Byte) (o : Nat × Nat) => memWrite m o.1 (zeros o.2)) s.mem.sram } }
  let s := { s with pwt := { s.pwt with sealUp := true }, boot := { s.boot with zeroized := true } }
  let s := [R.vlt_OP_CMD, R.vlt_OP_ATTR, R.vlt_OP_USES, R.vlt_OP_IN, R.vlt_OP_OUT, R.vlt_KDF_CFG].foldl (fun (t : State) a => t.wr a 0) s
  ((List.range 16).foldl (fun (t : State) i => t.wr (R.vlt_KDF_LABELw i) 0) s).opStat vZeroized 0

/-- R393: KILL ends the operation under way with its output zeroed: the region that OP_OUT gave a window operation. -/
def State.vltKill (s : State) : State :=
  match s.vlt.ops with
  | [] => s
  | o :: r =>
    let s := { s with vlt := { s.vlt with ops := r } }
    let s := match o.who with | .window _ _ => s.sramWrite o.out.1 (zeros o.out.2) | .mbx _ => s
    (s.opAnswer o vKilled []).vltDrainCheck

/-- R393: clearing EN returns the queued operations CANCELLED; the one under way finishes. -/
def State.vltCancel (s : State) : State :=
  match s.vlt.ops with
  | [] => s
  | o :: r => r.foldl (fun (t : State) p => t.opAnswer p vCancelled []) { s with vlt := { s.vlt with ops := [o] } }

/-- R55, R393: a VLT block reset erases derived and EXPIRE_RESET slots, the operation window and volatile key material. Queued operations return CANCELLED. -/
def State.vltReset (s : State) : State :=
  let ops := s.vlt.ops
  let s := { s with vlt := { s.vlt with ops := [], drbg := none } }.erase resetErased
  ops.foldl (fun (t : State) o => match o.who with | .mbx _ => t.opAnswer o vCancelled [] | .window _ _ => t) s

/-- VLT registers that show the vault; the operation window reads 0 to any master but the service core, and its registers are write-only. -/
def State.vltRead (s : State) (m : Master) (off : Nat) : Option Word :=
  let sel := s.slot (s.rf R.vlt_SLOT_SEL 0 6)
  if off = 0x40 then some s.vltStat
  else if off = 0x44 then some s.life
  else if off = 0x50 then some (match sel with | some x => x.attr | none => 0)
  else if off = 0x54 then some (match sel with | some x => w32 x.uses | none => 0)
  else if off = 0x6C then some (if m = .svc then setBit (s.rd R.vlt_OP_STAT) 0 s.opBusy else 0)
  else if 0x58 ≤ off ∧ off < 0xC0 then some 0
  else if 0x100 ≤ off ∧ off < 0x180 then
    some (if s.vlt.ready then leWord (s.vlt.meas.getD ((off - 0x100) / 32) []) (off % 32) else 0)
  else none

/-- CRY registers that show its state. -/
def State.cryRead (s : State) (off : Nat) : Option Word :=
  if off = 0x40 then some s.cryInd
  else if off = 0x48 then some (w32 (b2n s.cry.wait.isSome))
  else if off = 0x64 then some (match s.vlt.drbg with | some d => w32 (min d.since 65535 + d.seeds * 2 ^ 16) | none => 0)
  else if off = 0x68 then some (w32 (b2n (!s.vlt.debug) + 2 * b2n s.vlt.debug + s.rf R.cry_DBG_STAT 16 16 * 2 ^ 16))
  else none

/-- VLT registers written by a rule of their own, but for ZEROIZE; none where the plain access type applies. -/
def State.vltWrite (s : State) (m : Master) (off : Nat) (v : Word) : Option State :=
  if off = 0x58 then some (s.opCmd m v .ecb [])
  else if (0x5C ≤ off ∧ off < 0x74) ∨ (0x80 ≤ off ∧ off < 0xC0) then
    some (if m ≠ .svc then s.opDenied m off else if off = 0x6C then s else s.wr (0x28000 + off) v)
  else none

/-- CRY registers written by a rule of their own; none where the plain access type applies. -/
def State.cryWrite (s : State) (m : Master) (off : Nat) (v : Word) : Option State :=
  if off = 0x48 then some (if !tst v 0 then s else if s.cry.wait.isSome || s.cry.run.isSome then s.err .cry 0x81 off m else s.testRequest.1)
  else if off = 0x60 then (if fld v 0 16 = 0 then some (s.err .cry eBadValue off m) else none)
  else none

/-- R384: in approved mode the host may write only IRQ_RAW, IRQ_EN and VLT.ZEROIZE of these pages. -/
def State.hostDenied (s : State) (b : Blk) (m : Master) (off : Nat) : Bool :=
  s.vlt.approved && decide (m = .host) && (decide (b = .vlt) || decide (b = .cry)) &&
    !(decide (off = oRaw) || decide (off = oEn) || (decide (b = .vlt) && decide (off = 0x74)))

end Sys2Proof.Machine
end

