-- ==== Sys2Proof/Machine/Link.lean ====
section
/-! DEFINITION. Link security: the common header, securing and opening frames, send counters, contexts, the verdict, delivery and generations (R169-R200, R436). -/

namespace Sys2Proof.Machine

open Sys2Proof

/-! ### Roles -/

/-- RST.ROLE: 0 none, 1 head, 2 node, 3 standby. -/
def State.role (s : State) : Nat := s.rf R.rst_ROLE 0 2

/-- The module acts as head. -/
def State.isHead (s : State) : Bool := decide (s.role = 1)

/-- The module acts as a node. -/
def State.isNode (s : State) : Bool := decide (s.role = 2)

/-- The module is a standby. -/
def State.isStandby (s : State) : Bool := decide (s.role = 3)

/-- The module's own node index: 0 for the head. -/
def State.ownIndex (s : State) : Nat := if s.isHead then 0 else s.net.index

/-- The module has an index in its segment. -/
def State.hasIndex (s : State) : Bool := s.isHead || decide (s.net.index ≠ 0)

/-- R179, R437: the identity in the nonce of every frame the module sends: FOV.NONCE_ID after a takeover. -/
def State.nonceId (s : State) : Nat :=
  let n := s.rd64 R.fov_NONCE_ID_LO R.fov_NONCE_ID_HI
  if n = 0 then s.modId.ident.toNat else n

/-! ### The common header (R170) -/

/-- The fields of a header. -/
structure Hdr where
  fctl  : Nat
  sec   : Nat
  seg   : Nat
  dst   : Nat
  src   : Nat
  ctr   : Nat
  orig  : Nat
  fin   : Nat
  /-- Octets of the header. -/
  len   : Nat
  deriving DecidableEq, Repr

/-- TYPE. -/
def Hdr.typ (h : Hdr) : Nat := h.fctl % 16

/-- ACK_REQ. -/
def Hdr.ackReq (h : Hdr) : Bool := h.fctl / 16 % 2 = 1

/-- MHOP. -/
def Hdr.mhop (h : Hdr) : Bool := h.fctl / 32 % 2 = 1

/-- LSRC. -/
def Hdr.lsrc (h : Hdr) : Bool := h.fctl / 64 % 2 = 1

/-- LDST. -/
def Hdr.ldst (h : Hdr) : Bool := h.fctl / 128 % 2 = 1

/-- LEVEL. -/
def Hdr.level (h : Hdr) : Nat := h.sec % 8

/-- KEYSEL. -/
def Hdr.keysel (h : Hdr) : Nat := h.sec / 8 % 2

/-- GEN. -/
def Hdr.gen (h : Hdr) : Nat := h.sec / 16 % 2

/-- VER. -/
def Hdr.ver (h : Hdr) : Nat := h.sec / 32 % 8

/-- Read a header. -/
def parseHdr (b : Bytes) : Hdr :=
  let f := byteAt b 0
  let dn := if f / 128 % 2 = 1 then 8 else 2
  let sn := if f / 64 % 2 = 1 then 8 else 2
  let c := 4 + dn + sn
  ⟨f, byteAt b 1, le b 2 2, le b 4 dn, le b (4 + dn) sn, le b c 4, le b (c + 4) 2, le b (c + 6) 2, c + 4 + (if f / 32 % 2 = 1 then 4 else 0)⟩

/-- Write a header. -/
def Hdr.bytes (h : Hdr) : Bytes :=
  toLe 1 h.fctl ++ toLe 1 h.sec ++ toLe 2 h.seg ++ toLe (if h.ldst then 8 else 2) h.dst ++ toLe (if h.lsrc then 8 else 2) h.src ++
  toLe 4 h.ctr ++ (if h.mhop then toLe 2 h.orig ++ toLe 2 h.fin else [])

/-- R174: the level of a frame type, 0 for a reserved type. -/
def typeLevel (t : Nat) : Nat := if t = 0 ∨ t = 1 ∨ t = 4 then 2 else if t ≤ 0xC then 6 else 0

/-- R179: the nonce of a frame, or of its acknowledgement with `last` changed. -/
def linkNonce (ident ctr last : Nat) : Bytes := toBe 8 ident ++ toBe 4 ctr ++ toLe 1 last

/-- R177: secure header and payload: the bytes that follow the header on air, payload and MIC. -/
def secureBody (key nonce : Bytes) (level : Nat) (hdr payload : Bytes) : Bytes :=
  if level = 6 then let r := ccm key nonce hdr payload 8; r.1 ++ r.2
  else payload ++ (ccm key nonce (hdr ++ payload) [] 8).2

/-- R177: the plaintext payload of what follows the header, where the MIC is right. -/
def openBody (key nonce : Bytes) (level : Nat) (hdr body mic : Bytes) : Option Bytes :=
  if level = 6 then ccmOpen key nonce hdr body mic
  else (ccmOpen key nonce (hdr ++ body) [] mic).map fun _ => body

/-! ### Keys and records -/

/-- The key of a vault slot that LNK may use (LINK). -/
def State.linkKey (s : State) (i : Nat) : Option Bytes :=
  match s.slot i with
  | some x => if tst x.attr 9 then some x.key else none
  | none => none

/-- The segment key of a generation. -/
def State.skey (s : State) (g : Nat) : Option Bytes := s.linkKey (s.rf R.lnk_LNK_KEYS0 (if g = 0 then 0 else 8) 6)

/-- The module's own node key of a generation. -/
def State.ownNk (s : State) (g : Nat) : Option Bytes := s.linkKey (s.rf R.lnk_LNK_KEYS1 (if g = 0 then 0 else 8) 6)

/-- The slot that WRAP_SLOT names. -/
def State.wrapSlot (s : State) : Nat := s.rf R.lnk_LNK_KEYS0 16 6

/-- R379: the vault key under which node keys are unwrapped. -/
def State.wrapKey (s : State) : Option Bytes :=
  match s.slot s.wrapSlot with
  | some x => if tst x.attr 8 then some x.key else none
  | none => none

/-- The DRAM address of a record (R188). -/
def State.recAddr (s : State) (r : Nat) : Nat := s.rf R.lnk_TBL_BASE 0 13 * 2 ^ 20 + 64 * r

/-- A record's CRC (R188). -/
def recCrc (b : Bytes) : Nat := crcOf crc32c (b.take 60)

/-- The bytes of a record with a good CRC; none while MEM is in reset (R47). -/
def State.recRead (s : State) (r : Nat) : Option Bytes :=
  let a := s.recAddr r
  if s.inReset .mem || (firstPoison s a 64 (cwSpan 64)).isSome then none
  else
    let b := memRead s.mem.dram a 64
    if le b 60 4 = recCrc b then some b else none

/-- VALID of a record. -/
def recLive (b : Bytes) : Bool := le b 8 2 / 2 ^ 12 % 2 = 1

/-- NK_OK of a record. -/
def recNkOk (b : Bytes) : Bool := le b 8 2 / 2 ^ 13 % 2 = 1

/-- Write a record with its CRC. -/
def State.recWrite (s : State) (r : Nat) (b : Bytes) : State :=
  s.dramWrite (s.recAddr r) (b.take 60 ++ toLe 4 (recCrc b))

/-- A record of a node: identity, index, wrapped node key or none, and cleared counters. -/
def recNew (ident : DWord) (index : Nat) (nk : Option Bytes) : Bytes :=
  toLe 8 ident.toNat ++ toLe 2 (index + 2 ^ 12 + b2n nk.isSome * 2 ^ 13) ++ zeros 2 ++ slice (nk.getD []) 0 24 ++ zeros 24

/-- R189: the home entry of an identity. -/
def idxHome (i : Nat) : Nat := (i % 2 ^ 32) ^^^ (i / 2 ^ 32 % 2 ^ 32) |> fun x => x * 0x9E3779B1 % 2 ^ 32 / 2 ^ 19

/-- R189: the address of entry e of the identity index. -/
def State.idxAddr (s : State) (e : Nat) : Nat := s.rf R.lnk_IDX_BASE 0 13 * 2 ^ 20 + 16 * (e % 8192)

/-- R189: an entry is valid and names the identity. -/
def idxHit (i : Nat) (b : Bytes) : Bool := decide (le b 8 2 / 2 ^ 15 % 2 = 1) && decide (le b 0 8 = i)

/-- R189: probe the identity index from entry e, n entries; an entry whose codeword is poisoned gives no data (R131). -/
def idxProbe (s : State) (i e : Nat) : Nat → Option Nat
  | 0 => none
  | n + 1 =>
    let b := memRead s.mem.dram (s.idxAddr e) 16
    if !s.inReset .mem && !s.poisoned (s.idxAddr e) && idxHit i b then some (le b 8 2 % 4096) else idxProbe s i (e + 1) n

/-- R188, R189: the node index of an identity. -/
def State.idxFind (s : State) (i : Nat) : Option Nat := idxProbe s i (idxHome i) 4

/-- The node key of a record, at the head: unwrapped from NK_WRAP. -/
def State.recNk (s : State) (b : Bytes) : Option Bytes :=
  if recNkOk b then (match s.wrapKey with | some k => kwUnwrap k (slice b 12 24) | none => none) else none

/-- The key that secures a frame the module sends (R169). -/
def State.sendKey (s : State) (h : Hdr) : Option Bytes :=
  if h.keysel = 0 then s.skey h.gen
  else if s.isHead then
    match (if h.ldst then s.idxFind h.dst else some h.dst) with
    | some n => (match s.recRead (2 * n + h.gen) with | some b => s.recNk b | none => none)
    | none => none
  else s.ownNk h.gen

/-- R46, R199, R369, R390: LNK secures and verifies frames. -/
def State.lnkTakes (s : State) : Bool := s.takes .lnk && s.linkKeysOk

/-! ### Send counters (R180-R183, R436) -/

/-- The register of send counter i: 0 SK0, 1 SK1, 2 NK. -/
def ctrReg (i : Nat) : Nat := R.lnk_CTR_TX_SK0 + 4 * i

/-- The counter a frame uses. -/
def ctrOf (h : Hdr) : Nat := if h.keysel = 1 then 2 else h.gen

/-- Where the reserve of counter i stands in NVS region 1 (DESIGN CHOICE, log 50). -/
def reserveAddr (i : Nat) : Nat := 0x1010 + 4 * i

/-- R181: write a reserve to NVS region 1 under LNK's bit; it counts once NVS has taken it. A reserve is at most 0xFFFF_FFFF, which no counter value reaches (R183). -/
def State.setReserve (s : State) (i v : Nat) : State :=
  let v := min v 0xFFFFFFFF
  let t := s.nvsWrite .lnk (reserveAddr i) (toLe 4 v)
  if s.nvsOpen .lnk 1 then { t with lnk := { t.lnk with reserve := setAt t.lnk.reserve i v } } else t

/-- R183: send counter i becomes v, at most 0xFFFF_FFFF; CTR_LOW when it passes 0xF000_0000. -/
def State.sendCtr (s : State) (i v : Nat) : State :=
  let v := min v 0xFFFFFFFF
  let t := s.wr (ctrReg i) (w32 v)
  if s.rn (ctrReg i) ≤ 0xF0000000 ∧ 0xF0000000 < v then t.irq .lnk 2 else t

/-- Whether a counter may give a value now: spent (R183), sixteen given in this tick (R436), or at a reserve that NVS does not raise (R181). -/
inductive CtrAnswer where
  | give | wait | spent
  deriving DecidableEq, Repr

/-- R181, R183, R436: what a counter answers. -/
def State.ctrAsk (s : State) (i : Nat) : CtrAnswer :=
  if s.rn (ctrReg i) = 0xFFFFFFFF then .spent
  else
    let p := s.lnk.taken.getD i (0, 0)
    if p.1 = s.tick ∧ 16 ≤ p.2 then .wait
    else if s.lnk.reserve.getD i 0 ≤ max (s.rn (ctrReg i)) 1 ∧ s.nvsOpen .lnk 1 = false then .wait
    else .give

/-- R181: take a value: the reserve is raised by 4,096 before a counter comes within 2,048 of it. -/
def State.ctrTake (s : State) (i : Nat) : State × Nat :=
  let c := max (s.rn (ctrReg i)) 1
  let p := s.lnk.taken.getD i (0, 0)
  let s := { s with lnk := { s.lnk with taken := setAt s.lnk.taken i (s.tick, if p.1 = s.tick then p.2 + 1 else 1) } }
  let r := s.lnk.reserve.getD i 0
  let s := if r ≤ c + 2048 then s.setReserve i (max r c + 4096) else s
  (s.sendCtr i (c + 1), c)

/-- R230, R234: fill the field that carries the frame's own start, in units of 2^-16 ns, in a TIME frame's payload. -/
def fillStart (typ : Nat) (start : Nat) (p : Bytes) : Bytes :=
  if typ = 4 ∧ byteAt p 0 = 1 then slice p 0 2 ++ toLe 8 (start % 2 ^ 64) ++ p.drop 10
  else if typ = 4 ∧ byteAt p 0 = 2 then slice p 0 10 ++ toLe 8 (start % 2 ^ 64) ++ p.drop 18
  else p

/-- The answer to a request to secure a frame. -/
inductive Secured where
  | done (s : State) (b : Bytes)
  | wait
  | cancel

/-- R177-R181, R184: secure a PSDU without FCS whose last eight octets hold the MIC's place: LNK fills SEC.GEN of a segment-key frame, CTR and the MIC; `start` is the scheduled start. -/
def State.secure (s : State) (psdu : Bytes) (start : Nat) : Secured :=
  let h := parseHdr psdu
  let h := if h.keysel = 0 then { h with sec := h.sec % 16 + s.rf R.lnk_LNK_GEN 0 1 * 16 + h.sec / 32 * 32 } else h
  match s.sendKey h with
  | none => .cancel
  | some key =>
    match s.ctrAsk (ctrOf h) with
    | .spent => .cancel
    | .wait => .wait
    | .give =>
      let p := s.ctrTake (ctrOf h)
      let h := { h with ctr := p.2 }
      let ident := if h.lsrc then h.src else s.nonceId
      let pay := fillStart h.typ start ((psdu.drop h.len).take (psdu.length - h.len - 8))
      .done p.1 (h.bytes ++ secureBody key (linkNonce ident p.2 (h.sec % 128)) h.level h.bytes pay)

/-- R182: a software write of a send counter. -/
def State.ctrWrite (s : State) (m : Master) (i : Nat) (v : Word) : State :=
  let off := 0x64 + 4 * i
  if s.en .lnk then s.err .lnk eBusy off m
  else if v.toNat ≤ s.rn (ctrReg i) then s.err .lnk 0x80 off m
  else (s.sendCtr i v.toNat).setReserve i (v.toNat + 4096)

/-- CTR_TX_WRITE: a write of CTR_TX_SK0, CTR_TX_SK1 or CTR_TX_NK. -/
def execCtrTxWrite (m : Master) (i : Fin 3) (v : Word) (s : State) : Host.Outcome State Fault Refusal :=
  .next (s.writeAt .lnk (0x64 + 4 * i.val) m v fun t => (t.ctrWrite m i.val v).answer .done)

/-- R196: the generation used for sending, or the armed one, would not be accepted. -/
def genBad (gen next : Word) : Bool := !tst gen (1 + fld gen 0 1) || (tst next 1 && !tst gen (1 + fld next 0 1))

/-- R196: a write of LNK_GEN. -/
def State.genWrite (s : State) (m : Master) (v : Word) : State :=
  if genBad v (s.rd R.lnk_GEN_NEXT) then s.err .lnk 0x81 0x48 m else s.wr R.lnk_LNK_GEN (v &&& 7)

/-- R196, R23: a write of GEN_NEXT. -/
def State.genNextWrite (s : State) (m : Master) (v : Word) : State :=
  if genBad (s.rd R.lnk_LNK_GEN) v then s.err .lnk 0x81 0x4C m
  else if tst v 1 && !s.timeFor (s.rd R.lnk_GEN_AT) then (s.err .lnk eNoTime 0x4C m).noTime .lnk (s.rd R.lnk_GEN_AT)
  else s.wr R.lnk_GEN_NEXT (v &&& 3)

/-- LNK_GEN_WRITE: a write of LNK_GEN, or of GEN_NEXT. -/
def execLnkGenWrite (m : Master) (next : Bool) (v : Word) (s : State) : Host.Outcome State Fault Refusal :=
  .next (s.writeAt .lnk (if next then 0x4C else 0x48) m v fun t => (if next then t.genNextWrite m v else t.genWrite m v).answer .done)

/-- R182, R194: at GEN_AT the armed generation is taken; where it is a new one, its counter restarts at 1, its reserve is 4,096, and the old generation retires 64 superframes later. -/
def State.genSwitch (s : State) : State :=
  if s.rb R.lnk_GEN_NEXT 1 && s.holds && notEarlier s.tick32 (s.rd R.lnk_GEN_AT) then
    let g := s.rf R.lnk_GEN_NEXT 0 1
    let old := s.rf R.lnk_LNK_GEN 0 1
    let s := (s.wf R.lnk_LNK_GEN 0 1 g).wb R.lnk_GEN_NEXT 1 false
    if old = g then s.irq .lnk 4
    else
      let s := (s.wr (ctrReg g) 1).setReserve g 4096
      ({ s with lnk := { s.lnk with retire := some (s.sf + 64, old) } }).irq .lnk 4
  else s

/-- GEN_SWITCH. -/
def execGenSwitch (s : State) : Host.Outcome State Fault Refusal := .next s.genSwitch

/-- R194: clear the segment-key counters of every valid record of a generation. -/
def clearSk (g : Nat) : Nat → State → State
  | 0, s => s
  | n + 1, s =>
    let r := 2 * n + g
    let s := match s.recRead r with
      | some b => if recLive b && decide (le b 36 8 ≠ 0) then s.recWrite r (b.take 36 ++ zeros 8 ++ b.drop 44) else s
      | none => s
    clearSk g n s

/-- Clear the segment-key counters of a generation in the contexts and the table. -/
def State.clearGen (s : State) (g : Nat) : State :=
  clearSk g 4096 { s with lnk := { s.lnk with ctx := s.lnk.ctx.map fun p => if p.2.record % 2 = g then (p.1, { p.2 with skH := 0, skW := 0 }) else p } }

/-- R194: the old generation is retired: ACCEPT loses it, and the head clears its counters. -/
def State.genRetire (s : State) : State :=
  match s.lnk.retire with
  | none => s
  | some (at', g) =>
    if s.sf < at' then s
    else
      let s := { s with lnk := { s.lnk with retire := none } }
      let s := s.wb R.lnk_LNK_GEN (1 + g) false
      if s.isHead then s.clearGen g else s

/-- GEN_RETIRE. -/
def execGenRetire (s : State) : Host.Outcome State Fault Refusal := .next s.genRetire

/-! ### Contexts (R188-R191, R200) -/

/-- A context that a radio uses: its frame is being received or its acknowledgement is due. -/
def State.ctxInUse (s : State) (i : Nat) : Bool :=
  s.rad.any fun x => (match x.rx with | some f => decide (f.ctx = some i) | none => false) || (match x.ack with | some a => decide (a.ctx = i) | none => false)

/-- The slot that holds a record. -/
def ctxFind (r : Nat) (l : Sparse Ctx) : Option Nat := (l.find? fun p => p.2.record = r && !p.2.drop).map fun p => p.1

/-- Replace a context. -/
def State.setCtx (s : State) (i : Nat) (c : Ctx) : State := { s with lnk := { s.lnk with ctx := Sparse.put s.lnk.ctx i c } }

/-- Mark a context as used now. -/
def State.touch (s : State) (i : Nat) : State :=
  match Sparse.find s.lnk.ctx i with
  | none => s
  | some c => ({ s with lnk := { s.lnk with stamp := s.lnk.stamp + 1 } }).setCtx i { c with used := s.lnk.stamp + 1 }

/-- The first number from k that the table does not hold, among n. -/
def freeSlot (l : Sparse Ctx) (k : Nat) : Nat → Option Nat
  | 0 => none
  | n + 1 => if (Sparse.find l k).isNone then some k else freeSlot l (k + 1) n

/-- R190: the slot for a refill: a free one, else the least recently used that nothing uses. -/
def State.victim (s : State) : Nat :=
  match freeSlot s.lnk.ctx 0 512 with
  | some k => k
  | none =>
    let l := s.lnk.ctx.filter fun p => !s.ctxInUse p.1
    match l with
    | [] => 0
    | p :: r => (r.foldl (fun (a : Nat × Ctx) x => if x.2.used < a.2.used then x else a) p).1

/-- A context from a record's bytes. -/
def ctxOf (r : Nat) (b : Bytes) (nk : Option Bytes) (stamp : Nat) : Ctx :=
  ⟨r, BitVec.ofNat 64 (le b 0 8), nk, le b 36 4, le b 40 4, le b 44 4, le b 48 4, [], stamp, false⟩

/-- The record of a bad CRC (reason 1) or a failed unwrap (reason 2). -/
def State.ctxBad (s : State) (r reason : Nat) : State := s.ledger 0xE00A 5 (blkSrc .lnk) r reason 0

/-- R190, R379: fetch a record into a context; none where the sender stays unknown. The read meets the errors that stand in DRAM; poisoned bytes are no data (R131), and MEM in reset gives none (R47). -/
def State.refill (s : State) (r ns : Nat) : State × Option Nat :=
  let p := ((s.bumpSat R.lnk_REFILL_CNT 1).wr R.lnk_REFILL_MAX (w32 (max (s.rn R.lnk_REFILL_MAX) ns))).dramFetch .block (s.recAddr r) 64
  let s := p.1
  match p.2 with
  | none => (s, none)
  | some b =>
    if le b 60 4 ≠ recCrc b then (s.ctxBad r 1, none)
    else if !recLive b then (s, none)
    else
      let nk := s.recNk b
      if recNkOk b && s.isHead && nk.isNone then (s.ctxBad r 2, none)
      else
        let i := s.victim
        let t := { s with lnk := { s.lnk with stamp := s.lnk.stamp + 1 } }
        (t.setCtx i (ctxOf r b nk t.lnk.stamp), some i)

/-- R188: the record of a frame's sender. -/
def State.recOf (s : State) (h : Hdr) : Option Nat :=
  (if h.lsrc then s.idxFind h.src else some h.src).map fun n => 2 * n + h.gen

/-- The context of a frame that is held already. -/
def State.ctxHeld (s : State) (h : Hdr) : Option Nat := (s.recOf h).bind fun r => ctxFind r s.lnk.ctx

/-- R189: LNK reads the identity index from entry e, n entries, meeting the errors that stand in them (R128, R131). -/
def idxFetch (i e : Nat) : Nat → State → State × Option Nat
  | 0, s => (s, none)
  | n + 1, s =>
    let p := s.dramFetch .block (s.idxAddr e) 16
    match p.2 with
    | some b => if idxHit i b then (p.1, some (le b 8 2 % 4096)) else idxFetch i (e + 1) n p.1
    | none => idxFetch i (e + 1) n p.1

/-- R190: the context of a frame: held, or refilled from the table by the sender's index. -/
def State.ctxFor (s : State) (h : Hdr) (ns : Nat) : State × Option Nat :=
  match s.ctxHeld h with
  | some i => (s.touch i, some i)
  | none =>
    let p := if h.lsrc then idxFetch h.src (idxHome h.src) 4 s else (s, some h.src)
    match p.2 with
    | none => (p.1, none)
    | some n => if 4096 ≤ n then (p.1, none) else p.1.refill (2 * n + h.gen) ns

/-- R200: drop contexts for which f holds; one in use is dropped once its frame is done. -/
def State.ctxDrop (s : State) (f : Ctx → Bool) : State :=
  { s with lnk := { s.lnk with ctx := (s.lnk.ctx.filter fun p => !f p.2 || s.ctxInUse p.1).map fun p => if f p.2 then (p.1, { p.2 with drop := true }) else p } }

/-- R200: drop what waited for its frame to be done. -/
def State.ctxSweep (s : State) : State :=
  { s with lnk := { s.lnk with ctx := s.lnk.ctx.filter fun p => !p.2.drop || s.ctxInUse p.1 } }

/-- CTX_INVAL: a write of CTX_INVAL. -/
def execCtxInval (m : Master) (v : Word) (s : State) : Host.Outcome State Fault Refusal :=
  .next (s.writeAt .lnk 0xCC m v fun t => (t.ctxDrop fun c => decide (c.record = fld v 0 13)).answer .done)

/-- CTX_INVAL_ALL: a write of CTX_CTRL. -/
def execCtxInvalAll (m : Master) (v : Word) (s : State) : Host.Outcome State Fault Refusal :=
  .next (s.writeAt .lnk 0xC8 m v fun t => (if tst v 0 then t.ctxDrop fun _ => true else t).answer .done)

/-- CTX_INFO of the selected context. -/
def State.ctxInfo (s : State) : Word :=
  let i := s.rf R.lnk_CTX_SEL 0 9
  match Sparse.find s.lnk.ctx i with
  | none => 0
  | some c => w32 (c.record + b2n (s.ctxInUse i) * 2 ^ 30 + 2 ^ 31)

/-- R191: the 16 bytes of a context's counter state. -/
def ctxState (c : Ctx) : Bytes := toLe 4 c.skH ++ toLe 4 c.skW ++ toLe 4 c.nkH ++ toLe 4 c.nkW

/-- R191: write-through of the counter state to DRAM, with the record's CRC where its other bytes can be read, and to the mirror in NVS through Porter channel 15. -/
def State.ctxWrite (s : State) (i : Nat) (c : Ctx) : State :=
  let s := s.setCtx i c
  let s := match s.recRead c.record with
    | some b => s.recWrite c.record (b.take 36 ++ ctxState c ++ b.drop 52)
    | none => s.dramWrite (s.recAddr c.record + 36) (ctxState c)
  s.nvsWrite .porter (s.rf R.lnk_MIRROR_BASE 0 23 + 16 * c.record) (ctxState c)

/-- R191, R132: a node's records are written again, each with the counters of its mirror. -/
def State.recRestore (s : State) (ident : DWord) (index g : Nat) (nk : Option Bytes) : State :=
  (List.range 2).foldl (fun (t : State) i => match t.nvsRead (t.rf R.lnk_MIRROR_BASE 0 23 + 16 * (2 * index + i)) 16 with
    | some m => t.recWrite (2 * index + i) ((recNew ident index (if i = g then nk else none)).take 36 ++ m ++ zeros 8)
    | none => t) s

/-- The mirror of a record starts afresh. -/
def State.mirrorClear (s : State) (r : Nat) : State := s.nvsWrite .svc (s.rf R.lnk_MIRROR_BASE 0 23 + 16 * r) (zeros 16)

/-! ### Reception -/

/-- R172: the module beacons for its segment. -/
def State.beacons (s : State) : Bool :=
  s.takes .bcn && (if s.isHead then s.rb R.bcn_BCN_CFG 0 else s.isNode && s.hasIndex && s.rb R.bcn_BCN_NODE 20)

/-- R172: the module knows the sender: a live record names it. -/
def State.knows (s : State) (h : Hdr) : Bool := ((s.recOf h).bind s.recRead).any recLive

/-- R172: the frame is addressed to the module; a JOIN frame of the segment that it beacons for is also taken from a sender that it does not know. -/
def State.addressed (s : State) (h : Hdr) : Bool :=
  ((decide (h.seg = s.net.seg) || (match s.bcn.asked with | some a => decide (h.seg = a.2.1) | none => false) || (s.isStandby && decide (h.seg = s.rf R.fov_FOV_CFG 0 16))) &&
    (if h.ldst then decide (h.dst = s.modId.ident.toNat) else decide (h.dst = 0xFFFF) || (s.hasIndex && decide (h.dst = s.ownIndex)))) ||
  (decide (h.typ = 9) && decide (h.seg = s.net.seg) && s.beacons && !s.knows h)

/-- R170-R172, R174: a security field that makes LNK drop the frame. -/
def secBad (h : Hdr) : Bool :=
  let key := decide (h.typ = 9) || decide (h.typ = 10)
  decide (h.ver ≠ 0) || decide (0xC < h.typ) || decide (typeLevel h.typ ≠ h.level) || (!h.lsrc && decide (4096 ≤ h.src) && decide (h.src ≠ 0xFFFF)) ||
  (!h.ldst && decide (h.dst = 0xFFFF) && h.ackReq) || ((h.lsrc || h.ldst) && !key) || (key && decide (h.keysel = 0))

/-- R171: a short DST with nonzero bits 15:12 other than 0xFFFF. -/
def dstBad (h : Hdr) : Bool := !h.ldst && decide (4096 ≤ h.dst) && decide (h.dst ≠ 0xFFFF)

/-- The radio hears: enabled and not paused; a standby hears on RAD0 in window 0 at position 0 only (R18, R223, R490). -/
def State.hears (s : State) (r : Nat) : Bool :=
  s.takes (radBlk r) && (if s.isStandby then decide (r = 0) && decide (s.tick % 256 = 0) else true)

/-- A node that has no place in the mesh: scanning, gathering a hop list, joining, or an orphan. It sends no frame except JOIN_REQ (R222). -/
def State.placeless (s : State) : Bool :=
  let st := s.rf R.bcn_BCN_STAT 0 3
  decide (st = 1) || decide (st = 3) || decide (st = 7) || (decide (st = 2) && s.bcn.gather.isSome)

/-- The radio that a node joined through: BCN_NODE.RIDX. -/
def State.upRadio (s : State) : Nat := s.rf R.bcn_BCN_NODE 6 2

/-- One superframe in units of 2^-16 ns. -/
abbrev sf16 : Nat := 256 * tick16

/-- BCN_STAT.STATE: 0 off, 1 scan, 2 learn, 3 joining, 4 tracking, 5 miss 1, 6 miss 2, 7 orphan. -/
def State.bcnState (s : State) : Nat := s.rf R.bcn_BCN_STAT 0 3

/-- BCN_NODE.DEPTH. -/
def State.depth (s : State) : Nat := s.rf R.bcn_BCN_NODE 0 5

/-- R212: G = 2 × D × Δt + 50 µs, in units of 2^-16 ns, at a counter value. -/
def State.guard16 (s : State) (c : DWord) : Nat :=
  let dt := if s.bcn.heardSf.isSome then (c - s.bcn.lastCnt).toNat else 0
  2 * s.rf R.bcn_BCN_DRIFT 0 16 * dt * 2 ^ 18 / 1000000000 + 50000 * 2 ^ 16

/-- R221: the guard in use: at least 500 µs in MISS1. -/
def State.guardNow (s : State) (c : DWord) : Nat :=
  if s.bcnState = 5 then max (s.guard16 c) (500000 * 2 ^ 16) else s.guard16 c

/-- R221, R491: the receiver is open over the whole parent window. -/
def State.fullWindow (s : State) : Bool := decide (s.bcnState = 6) || decide (s.bcnState = 2) || s.bcn.pos.isNone

/-- The first tick of the parent's window in this superframe. -/
def State.windowTick (s : State) : Nat := s.sf * 256 + 2 * (s.depth - 1)

/-- R203, R221: at a counter value a node expects its parent's beacon on this radio: from the start of its guard until the beacon ends. -/
def State.expects (s : State) (r : Nat) (c : DWord) : Bool :=
  let t := s.nt c
  let a := (s.windowTick + s.bcn.pos.getD 0) * tick16 + 200000 * 2 ^ 16
  s.isNode && s.takes .bcn && decide (r = s.upRadio) && !s.placeless && decide (s.bcnState ≠ 0) && decide (s.bcn.heardSf ≠ some s.sf) &&
  (if s.fullWindow then decide (s.windowTick * tick16 ≤ t) && decide (t < (s.windowTick + 2) * tick16)
   else decide (a ≤ t + s.guardNow c) && decide (t < a + s.guardNow c + s.bcnAirtime r 58 * 1000 * 2 ^ 16))

/-- The centres of the hop list in force, as beacons carry them: units of 25 kHz above 850 MHz. -/
def State.hopCentres (s : State) : List Nat := s.chn.hop.map fun c => (s.chanKhz c - 850000) / 25

/-- The default hop list of the variant is in force (R148, R149). -/
def State.hopDefault (s : State) : Bool := decide (s.chn.hop = if s.modId.variantB then List.range 64 else List.range 8)

/-- R215: the scan list: the centres of the last hop list, where the device has one, then the default table, in kHz. -/
def State.scanList (s : State) : List Nat := (if s.hopDefault then [] else s.hopCentres.map fun v => 850000 + 25 * v) ++ defaultCentres s.modId.variantB

/-- R150, R215: the channel of the centre that a device without network time scans; 64 where the table holds no such centre. -/
def State.scanChan (s : State) : Nat :=
  let f := s.scanList.getD s.bcn.scan 0
  ((List.range 64).find? fun c => decide (s.chanKhz c = f)).getD 64

/-- R150, R203: the channel on which a radio hears, at a counter value, a frame whose first tick is k: that of tick 2d while it expects its parent's beacon, the scan centre's without network time. -/
def State.rxChan (s : State) (r k : Nat) (c : DWord) : Nat :=
  if !s.holds || (s.isNode && decide (s.bcnState = 1)) then s.scanChan else if s.expects r c then s.chan r s.windowTick else s.chan r k

/-- R229: T_sym × 2^16 ns. -/
def tSym16 (mode : Nat) : Nat := octetUs mode * 125 * 2 ^ 16

/-- R229: RXLAT of a radio and MODE, in units of 2^-16 ns. -/
def State.rxLat (s : State) (r mode : Nat) : Nat := s.rf (R.ntm_RXLATr_M0 r + 4 * mode) 0 20 * 2 ^ 12

/-- R229: the time from a frame's start to its sync point as the receiver sees it, in units of 2^-16 ns. -/
def State.syncLag (s : State) (r mode pre phase : Nat) : Nat :=
  s.rxLat r mode + phase % 256 * tSym16 mode / 256 + 8 * (pre + 2) * tSym16 mode

/-- R203, R229: the MODE of a frame on air: beacons go out at MODE 2. -/
def State.airMode (s : State) (r : Nat) (psdu : Bytes) : Nat := if (parseHdr psdu).typ = 1 then 2 else s.radMode r

/-- R229: the time from a frame's start to its sync point; a beacon names its PRE_LEN in byte 17. -/
def State.airLag (s : State) (r : Nat) (psdu : Bytes) (phase : Nat) : Nat :=
  let h := parseHdr psdu
  s.syncLag r (s.airMode r psdu) (if h.typ = 1 then byteAt psdu (h.len + 17) % 32 else s.preLen r) phase

/-- R229: t_start of a received frame, in units of 2^-16 ns of network time. -/
def State.airStart (s : State) (x : AirRx) : Int := (s.nt x.sync : Int) - s.airLag x.radio.val x.frame x.phase

/-- R229: CNT at t_start. -/
def State.airCnt (s : State) (x : AirRx) : DWord := x.sync - BitVec.ofNat 64 (s.airLag x.radio.val x.frame x.phase / 2 ^ 18)

/-- Where LNK puts a frame in packet SRAM: an offset that the spec leaves open. -/
def State.rxBuf (s : State) : Nat := 64 * (Config.freeBelow s.free 65530).val

/-- A flood frame: STRIPE or MODE, broadcast. -/
def floodFrame (h : Hdr) : Bool := (decide (h.typ = 2) || decide (h.typ = 3)) && !h.ldst && decide (h.dst = 0xFFFF)

/-- R158, R270: a flood frame of the segment in reception keeps other transmissions of its radio off its span, given in µs of network time. -/
def State.floodSpan (s : State) (r : Nat) (h : Hdr) (start : Int) (len : Nat) : State :=
  let us := (start / (1000 * 2 ^ 16)).toNat
  if floodFrame h && s.holds && s.addressed h then { s with lvl := { s.lvl with spans := (r, us, us + s.airtime r (len + 2)) :: s.lvl.spans } } else s

/-- R190: LNK takes the frame: its context is held or refilled while it arrives, and the frame waits in packet SRAM. -/
def State.takeFrame (s : State) (r : Nat) (psdu : Bytes) (k : Nat) (c : DWord) (ns : Nat) : State :=
  let h := parseHdr psdu
  let mode := s.airMode r psdu
  let late := (s.ctxHeld h).isNone && decide (4 * octetUs mode * 1000 * (if h.typ ≠ 1 ∧ s.rb (R.rad_RAD_CFG r) 3 then 2 else 1) < ns)
  let p := s.ctxFor h ns
  let t := if late then (p.1.bumpSat R.lnk_REFILL_LATE 1).irq .lnk 3 else p.1
  let o := t.rxBuf
  ((t.sramWrite o psdu).draw 1).modRadio r fun x => { x with rx := some ⟨psdu, t.rxChan r k c, mode, p.2, late, true, some o⟩ }

/-- FRAME_SYNC: a sync word: the frame is time-stamped and its context refilled while it arrives (R190, R229). A flood frame that travels on a channel on which the radio does not listen is not heard (R203). -/
def State.frameSync (s : State) (r : Nat) (psdu : Bytes) (phrOk : Bool) (phase : Nat) (c : DWord) (ns : Nat) : State :=
  if !s.hears r then s
  else if !phrOk then (s.at c).bumpSat (R.rad_RX_BAD r) 1
  else
    let s := s.at c
    let h := parseHdr psdu
    let start : Int := (s.nt c : Int) - s.airLag r psdu phase
    let k := (start / tick16).toNat
    if floodFrame h && s.holds && decide (s.rxChan r k c ≠ s.chan r k) then s
    else
      let s := (s.emit (.stamp r c phase)).floodSpan r h start psdu.length
      if s.lnkTakes && decide (h.typ ≠ 0) && s.addressed h then s.takeFrame r psdu k c ns
      else s.modRadio r fun x => { x with rx := some ⟨psdu, s.rxChan r k c, s.airMode r psdu, none, false, false, none⟩ }

/-- FRAME_SYNC. -/
def execFrameSync (radio : Fin 4) (psdu : Bytes) (phrOk : Bool) (phase : Nat) (c : DWord) (refillNs : Nat) (s : State) : Host.Outcome State Fault Refusal :=
  .next (s.frameSync radio.val psdu phrOk phase c refillNs)

/-! ### The verdict (R192) -/

/-- Bit H - CTR of the window is set. -/
def winSeen (h w ctr : Nat) : Bool := decide (ctr ≤ h) && decide (h < ctr + 32) && decide (w / 2 ^ (h - ctr) % 2 = 1)

/-- R192: the window after an accepted counter. -/
def winTake (h w ctr : Nat) : Nat × Nat :=
  if h < ctr then (ctr, if 32 ≤ ctr - h then 1 else (w * 2 ^ (ctr - h)) % 2 ^ 32 / 2 * 2 + 1)
  else (h, if w / 2 ^ (h - ctr) % 2 = 1 then w else w + 2 ^ (h - ctr))

/-- The rows of R192 from CTR = 0 on: 0 accept, otherwise the REASON of R197. -/
def judge (accept : Bool) (h w ctr : Nat) (ok : Bool) (cached : Option Bytes) (mic : Bytes) : Nat :=
  if ctr = 0 ∨ accept = false then 7
  else if h < ctr + 32 ∧ ok = false then 1
  else if h < ctr ∨ (h < ctr + 32 ∧ winSeen h w ctr = false) then 0
  else if h < ctr + 32 then (match cached with | some x => if x = mic then 2 else 4 | none => 3)
  else 3

/-- The cached entry of a counter. -/
def dupFind (c : Ctx) (nk : Bool) (ctr : Nat) : Option Dup := c.dups.find? fun d => d.nk = nk && d.ctr = ctr

/-- The key and window that a received frame uses, none where the receiver does not hold the key (R188, R191). -/
def State.rxKey (s : State) (h : Hdr) (c : Ctx) : Option (Bytes × Nat × Nat) :=
  if h.keysel = 0 then (s.skey h.gen).map fun k => (k, c.skH, c.skW)
  else if s.isHead then c.nk.map fun k => (k, c.nkH, c.nkW)
  else if c.record / 2 = 0 ∧ h.gen = s.net.nkGen % 2 then (s.ownNk h.gen).map fun k => (k, c.nkH, c.nkW)
  else none

/-- R178, R185: an acknowledgement without FCS. -/
def makeAck (key : Bytes) (ident : DWord) (h : Hdr) (mic a34 : Bytes) : Bytes :=
  let k := h.sec % 32 / 8 * 8 + 2
  let b := toLe 1 0 ++ toLe 1 k ++ toLe 1 h.ctr ++ slice a34 0 2 ++ zeros 1
  b ++ (ccm key (linkNonce ident.toNat h.ctr (k + 128)) (b ++ mic) [] 8).2

/-- R186, R222: the frame asks for an acknowledgement that the module gives: one addressed to its index or identity. -/
def State.acks (s : State) (h : Hdr) : Bool :=
  h.ackReq && (if h.ldst then decide (h.dst = s.modId.ident.toNat) else s.hasIndex && decide (h.dst = s.ownIndex)) &&
  s.rb R.lnk_LNK_CFG 0 && !s.isStandby && !(s.isNode && s.placeless)

/-- R185: AFLAGS and MARGIN: PENDING while a frame is held for the sender; whether the module is congested lies open. -/
def State.ackBytes (s : State) (h : Hdr) (margin : Int) : Bytes :=
  let p := s.net.children.any fun c => decide ((if h.lsrc then c.ident.toNat else c.index) = h.src) && c.sleepy && !c.held.isEmpty
  toLe 1 (b2n p + b2n (Config.freeBit s.free) * 2) ++ toLe 1 (unsgn 8 (clampI (-127) 127 margin))

/-! ### Delivery (R197) -/

/-- The entries that carry data in packet mode, the last one marked by `last` (R119). -/
def packEntries (last : Bool) : Nat → Bytes → List DWord
  | 0, _ => []
  | n + 1, b =>
    if b.isEmpty then []
    else
      let d := b.take 7
      let r := b.drop 7
      BitVec.ofNat 64 (2 ^ 63 + (if r.isEmpty && last then 0x42 else 0x41) * 2 ^ 56 + leFirst 7 d) :: packEntries last n r

/-- An abort entry with its REASON. -/
def abortEntry (reason : Nat) : DWord := BitVec.ofNat 64 (2 ^ 63 + 0x43 * 2 ^ 56 + reason)

/-- A packet: header with TAG and length, data, and an abort entry with a reason unless it is whole. -/
def packet (tag : Nat) (reason : Nat) (b : Bytes) : List DWord :=
  BitVec.ofNat 64 (2 ^ 63 + 0x40 * 2 ^ 56 + tag % 2 ^ 32 * 2 ^ 16 + b.length % 65536) ::
  (if reason = 0 then packEntries true b.length b else packEntries false b.length b ++ [abortEntry reason])

/-- Push entries as a hardware producer, in order. -/
def pushAll (q : Nat) : List DWord → State → State
  | [], s => s
  | v :: l, s => pushAll q l (s.hwPush q v)

/-- The producer code of LNK in a ware's ORIGIN. -/
def lnkOrigin (cq : Nat) : Nat := cq + blkCode .lnk * 16

/-- The routing register ROUTE_A or ROUTE_B of a TYPE. -/
def State.routeA (s : State) (t : Nat) : Word := s.rd (R.lnk_ROUTE_At (t - 1))

/-- ROUTE_B of a TYPE. -/
def State.routeB (s : State) (t : Nat) : Word := s.rd (R.lnk_ROUTE_Bt (t - 1))

/-- R197: deliver a frame of TYPE t with its TAG; reason 0 for one to be acted on. -/
def State.deliver (s : State) (t tag reason : Nat) (b : Bytes) : State :=
  if t = 0 ∨ 0xC < t then s else
  let a := s.routeA t
  match fld a 0 2 with
  | 1 => pushAll (fld a 4 4) (packet tag reason b) s
  | 2 =>
    if reason ≠ 0 then s
    else
      let o := s.rxBuf
      let rb := s.routeB t
      let s := (s.sramWrite o b).draw 1
      s.hwSubmit ⟨fld a 16 12, fld a 8 3, b2n (tst rb 16) * 2, fld rb 0 12, lnkOrigin (fld rb 12 4), 0, 0, 0, BitVec.ofNat 64 (0x10000000 + o), BitVec.ofNat 64 tag⟩
  | _ => s

/-- R197: TAG. -/
def linkTag (radio ctx rssi : Nat) (unverified : Bool) : Nat := radio + ctx % 512 * 4 + rssi % 256 * 2 ^ 11 + b2n unverified * 2 ^ 19

/-- R120, R166, R197: a frame in reception is killed: its queue delivery ends with an abort entry, after as many data entries as had arrived, which lies open. -/
def State.rxAbort (s : State) (r : Nat) : State :=
  match (s.radio r).rx with
  | none => s
  | some f =>
    let h := parseHdr f.psdu
    let a := s.routeA h.typ
    if f.took && decide (0 < h.typ) && decide (h.typ ≤ 0xC) && decide (fld a 0 2 = 1) then
      let b := f.psdu.take (f.psdu.length - 8)
      let d := (packEntries false b.length b).take (Config.freeBelow s.free (b.length / 7)).val
      pushAll (fld a 4 4) ((packet (linkTag r (f.ctx.getD 0) 0 false) 1 b).take 1 ++ d ++ [abortEntry 1]) (s.draw 1)
    else s

/-- The register that counts a verdict, by reason. -/
def verdictReg (reason : Nat) : Nat :=
  match reason with
  | 0 => R.lnk_RX_ACCEPT | 1 => R.lnk_RX_MIC_FAIL | 2 => R.lnk_RX_DUP | 3 => R.lnk_RX_REPLAY | 4 => R.lnk_RX_CONFLICT
  | 7 => R.lnk_RX_BAD_SEC | _ => R.lnk_RX_UNKNOWN

/-- The head notes the superframe in which it hears a node (R261). -/
def State.heardFrom (s : State) (idx : Nat) : State :=
  if s.isHead && s.holds then { s with net := { s.net with heard := Sparse.put s.net.heard idx s.sf } } else s

/-- What LNK decides on a frame: the reason, the bytes delivered, the acknowledgement and its context. -/
structure Judged where
  s      : State
  reason : Nat
  bytes  : Bytes
  ack    : Option Bytes
  deriving DecidableEq, Repr

/-- R191, R192: an accepted frame changes its context, with write-through and the duplicate cache. -/
def State.acceptFrame (s : State) (i : Nat) (c : Ctx) (h : Hdr) (hw : Nat × Nat) (mic a34 : Bytes) : State :=
  let c := if h.keysel = 0 then { c with skH := hw.1, skW := hw.2 } else { c with nkH := hw.1, nkW := hw.2 }
  (s.draw 1).ctxWrite i { c with dups := (⟨decide (h.keysel = 1), h.ctr, mic, a34⟩ :: c.dups).take 8 }

/-- R192: a conflict is recorded with both MICs. -/
def State.conflict (s : State) (r : Nat) (h : Hdr) (old mic : Bytes) : State :=
  (s.irq .lnk 0).logGroup .svc 0xE009 5 (blkSrc .lnk)
    [(w32 (h.src % 4096 + r * 2 ^ 16), w32 h.ctr, leWord old 0), (leWord old 4, leWord mic 0, leWord mic 4)]

/-- R188-R192: verify a frame without FCS against its context. A node-key frame whose key the receiver does not hold is unknown (R191); for a segment-key frame the row of CTR = 0 and of a retired generation stands before any that needs the key (R192). -/
def State.verify (s : State) (r : Nat) (i : Nat) (c : Ctx) (h : Hdr) (psdu : Bytes) (margin : Int) : Judged :=
  let hb := psdu.take h.len
  let body := (psdu.drop h.len).take (psdu.length - h.len - 8)
  let mic := psdu.drop (psdu.length - 8)
  let acc := decide (h.keysel = 1) || s.rb R.lnk_LNK_GEN (1 + h.gen)
  match s.rxKey h c with
  | none => ⟨s, if h.keysel = 0 ∧ (h.ctr = 0 ∨ acc = false) then 7 else 5, hb ++ body, none⟩
  | some (key, wh, ww) =>
    let plain := openBody key (linkNonce c.ident.toNat h.ctr (h.sec % 128)) h.level hb body mic
    let d := dupFind c (decide (h.keysel = 1)) h.ctr
    let v := judge acc wh ww h.ctr plain.isSome (d.map fun x => x.mic) mic
    let out := hb ++ plain.getD body
    if v = 0 then
      let a34 := s.ackBytes h margin
      ⟨s.acceptFrame i c h (winTake wh ww h.ctr) mic a34, 0, out, if s.acks h then some (makeAck key c.ident h mic a34) else none⟩
    else if v = 2 then
      ⟨s, 2, out, if s.acks h then d.map fun x => makeAck key c.ident h mic x.ack else none⟩
    else if v = 4 then ⟨s.conflict r h (match d with | some x => x.mic | none => []) mic, 4, out, none⟩
    else if v = 1 then ⟨s.irq .lnk 1, 1, out, none⟩
    else ⟨s, v, out, none⟩

/-- R191: a frame whose sender or key is unknown: a JOIN frame is delivered whole and UNVERIFIED, any other is dropped. -/
def State.unknown (s : State) (r rssi ctx : Nat) (h : Hdr) (psdu : Bytes) : State :=
  if h.typ = 9 ∧ h.keysel = 1 then s.deliver 9 (linkTag r ctx rssi true) 0 psdu
  else (s.bumpSat R.lnk_RX_UNKNOWN 1).deliver h.typ (linkTag r ctx rssi false) 5 (psdu.take (psdu.length - 8))

/-- Remember the radio on which a child was heard. -/
def State.heardChild (s : State) (idx r : Nat) : State :=
  { s with net := { s.net with children := s.net.children.map fun c => if c.index = idx then { c with radio := r } else c } }

/-- R192, R197: the verdict on a frame that LNK has a context for. -/
def State.judgeFrame (s : State) (r rssi i : Nat) (f : RxAir) (h : Hdr) (margin : Int) : State :=
  match Sparse.find s.lnk.ctx i with
  | none => s.unknown r rssi 0 h f.psdu
  | some c =>
    let j := s.verify r i c h f.psdu margin
    if j.reason = 5 then j.s.unknown r rssi i h f.psdu
    else
      let s := (j.s.bumpSat (verdictReg j.reason) 1).deliver h.typ (linkTag r i rssi false) j.reason j.bytes
      let s := if j.reason = 0 then ((s.heardChild (c.record / 2) r).heardFrom (c.record / 2)).heardFrom (if h.mhop then h.orig else c.record / 2) else s
      match j.ack with
      | some a => s.modRadio r fun x => { x with ack := some ⟨a, f.chan, f.mode, decide (j.reason = 2), i⟩ }
      | none => s

/-- The frame in reception ends with a good FCS: R171, R172, then R190-R192. A frame that came while LNK was disabled or paused is dropped; one under way before reaches its verdict (R199). -/
def State.goodFrame (s : State) (r rssi : Nat) (f : RxAir) (margin : Int) : State :=
  let h := parseHdr f.psdu
  if h.typ = 0 then s
  else if decide (h.seg = s.net.seg) && dstBad h then s.bumpSat R.lnk_RX_BAD_SEC 1
  else if !s.addressed h then s
  else if s.inReset .lnk || !s.linkKeysOk || (!s.takes .lnk && !f.took) then s.bumpSat R.lnk_RX_UNKNOWN 1
  else if secBad h then (s.bumpSat R.lnk_RX_BAD_SEC 1).deliver h.typ (linkTag r (f.ctx.getD 0) rssi false) 7 (f.psdu.take (f.psdu.length - 8))
  else if f.late then s.deliver h.typ (linkTag r (f.ctx.getD 0) rssi false) 5 (f.psdu.take (f.psdu.length - 8))
  else match f.ctx with
    | none => s.unknown r rssi 0 h f.psdu
    | some i => s.judgeFrame r rssi i f h margin

/-- R135: packet SRAM is poisoned where the frame waits: its queue delivery ends with an abort entry, and it is neither acknowledged nor delivered. The spec gives no REASON for it, which lies open. -/
def State.sramAbort (s : State) (r rssi : Nat) (f : RxAir) : State :=
  let a := s.routeA (parseHdr f.psdu).typ
  let n := f.psdu.length - 8
  if decide ((parseHdr f.psdu).typ ≤ 0xC) && decide (fld a 0 2 = 1) then
    pushAll (fld a 4 4) ((packet (linkTag r (f.ctx.getD 0) rssi false) 1 (zeros n)).take 1 ++ [abortEntry (Config.freeBelow s.free 255).val]) (s.draw 1)
  else s

/-- R135: LNK reads a frame that waits in packet SRAM, meeting the errors that stand there; poisoned bytes are no data. -/
def State.heldFrame (s : State) (f : RxAir) : State × Bool :=
  match f.buf with
  | none => (s, true)
  | some o => let t := s.sramSeen o f.psdu.length; (t, (t.sramRead o f.psdu.length).isSome)

/-- R199: LNK is done once no radio is inside a frame. -/
def State.lnkDrain (s : State) : State :=
  if s.draining .lnk && !((List.range 4).any fun r => s.radBusy r) then s.setDrained .lnk else s

/-- The frame in reception ends: with a good FCS it comes to its verdict, with a bad one it is dropped (R192). -/
def State.endFrame (s : State) (r : Nat) (good : Bool) (rssi : Nat) (f : RxAir) (margin : Int) : State :=
  let p := s.heldFrame f
  let t := p.1
  if !good then
    let t := t.bumpSat (R.rad_RX_BAD r) 1
    if f.took then t.deliver (parseHdr f.psdu).typ (linkTag r (f.ctx.getD 0) rssi false) 6 (f.psdu.take (f.psdu.length - 8)) else t
  else
    let t := (t.bumpSat (R.rad_RX_GOOD r) 1).wf (R.rad_RSSI r) 0 8 rssi
    if p.2 then t.goodFrame r rssi f margin else t.sramAbort r rssi f

/-- FRAME_END_VERDICT: a frame ends with its FCS; RSSI in units of 0.5 dB, margin in dB, and the time the verdict took. -/
def State.frameEnd (s : State) (r : Nat) (fcs : Bytes) (rssi : Nat) (margin : Int) (ns : Nat) : State :=
  match (s.radio r).rx with
  | none => s
  | some f =>
    let s := s.endFrame r (fcsGood f.psdu fcs) rssi f margin
    let s := s.modRadio r fun x => { x with rx := none }
    let s := if f.ctx.isSome then s.wr R.lnk_VERDICT_MAX (w32 (max (s.rn R.lnk_VERDICT_MAX) ns)) else s
    (s.ctxSweep.radDrain r).lnkDrain

/-- FRAME_END_VERDICT. -/
def execFrameEndVerdict (radio : Fin 4) (fcs : Bytes) (rssi : Byte) (margin : Int) (verdictNs : Nat) (s : State) : Host.Outcome State Fault Refusal :=
  .next (s.frameEnd radio.val fcs rssi.toNat margin verdictNs)

/-! ### Acknowledgements -/

/-- R160, R162, R186: an acknowledgement that is due is sent if CHN and the ledgers allow, otherwise dropped and counted in ACK_WH. While LNK is in reset or may not use its keys it is not sent (R46, R199), and one longer than 10,000 µs never is (R146). -/
def State.ackSend (s : State) (r : Nat) : State :=
  match (s.radio r).ack with
  | none => s
  | some a =>
    let s := s.modRadio r fun x => { x with ack := none }
    let t := airUs a.mode (a.mode = s.radMode r && s.rb (R.rad_RAD_CFG r) 3) (s.preLen r) 16
    let s := if s.inReset (radBlk r) || s.inReset .lnk || !s.linkKeysOk || decide (10000 < t) then s
      else if s.chnTakes && s.ledgersAllow r a.chan t false then
        let s := (s.transmit r a.chan a.mode t false a.psdu).bumpSat R.lnk_ACK_SENT 1
        if a.resent then s.bumpSat R.lnk_ACK_RESENT 1 else s
      else (s.bumpSat (R.rad_ACK_WH r) 1).irq (radBlk r) 3
    (s.ctxSweep.radDrain r).lnkDrain

/-- ACK_SEND: 1,000 µs after the frame. -/
def execAckSend (radio : Fin 4) (s : State) : Host.Outcome State Fault Refusal := .next (s.ackSend radio.val)

/-- Return every queued descriptor of one radio CANCELLED (R199). -/
def State.lnkCancel (s : State) (r : Nat) : State :=
  let q := (s.radio r).queue
  txDoneAll r dCancelled q (s.modRadio r fun y => { y with queue := [], held := false })

/-- R156: the attempt of the frame on air has failed: backoff, or NO_ACK. The draw lies open. With the radio's or LNK's EN cleared the waiting frame returns CANCELLED (R166, R199). -/
def State.attemptFail (s : State) (r : Nat) (a : OnAir) : State :=
  let s := (s.bumpSat (R.rad_NOACK_CNT r) 1).modRadio r fun x => { x with air := none }
  let n := a.tx.tries
  let bo := s.rd (R.rad_RAD_BACKOFF r)
  if descAccess a.tx.desc = 0 ∧ n ≤ s.rf (R.rad_RAD_CFG r) 24 3 then
    let k := (Config.freeBelow s.free (2 ^ min (fld bo 0 3 + n - 1) (fld bo 4 3) - 1)).val
    let k := if (s.radio r).slow then 2 * k else k
    let s := (s.draw 1).modRadio r fun x => { x with queue := { a.tx with left := k } :: x.queue, slow := false }
    ((if s.en .lnk then s else s.lnkCancel r).radDrain r).lnkDrain
  else ((s.txDone r a.tx dNoAck).radDrain r).lnkDrain

/-- ACK_TIMEOUT: no sync word by the deadline. -/
def execAckTimeout (radio : Fin 4) (s : State) : Host.Outcome State Fault Refusal :=
  .next (match (s.radio radio.val).air with
    | some a => if descAck a.tx.desc then s.attemptFail radio.val a else s
    | none => s)

/-- R187: an acknowledgement without FCS answers a frame that was sent. -/
def State.ackOk (s : State) (sent ack : Bytes) : Bool :=
  let h := parseHdr sent
  match s.sendKey h with
  | none => false
  | some key =>
    decide (ack.length = 14) && decide (byteAt ack 0 = 0) && decide (byteAt ack 2 = h.ctr % 256) &&
    decide (ack = makeAck key (BitVec.ofNat 64 (if h.lsrc then h.src else s.nonceId)) h (sent.drop (sent.length - 8)) (slice ack 3 2))

/-- ACK_RECEIVE: in the open window of the frame on air an acknowledgement is checked; HOLD doubles the next backoff (R185, R187). LNK accepts none in reset or while it may not use its keys (R46, R199). -/
def State.ackRx (s : State) (r : Nat) (psdu fcs : Bytes) : State :=
  match (s.radio r).air with
  | none => s
  | some a =>
    if !descAck a.tx.desc then s
    else if !fcsGood psdu fcs then s.bumpSat (R.rad_RX_BAD r) 1
    else
      let s := s.bumpSat (R.rad_RX_GOOD r) 1
      if !s.inReset .lnk && s.linkKeysOk && s.ackOk (a.tx.secured.getD []) psdu then
        (((s.modRadio r fun x => { x with air := none, slow := decide (byteAt psdu 3 / 2 % 2 = 1) }).txDone r a.tx dSent).radDrain r).lnkDrain
      else (s.bumpSat R.lnk_ACK_IN_BAD 1).attemptFail r a

/-- ACK_RECEIVE. -/
def execAckReceive (radio : Fin 4) (psdu fcs : Bytes) (s : State) : Host.Outcome State Fault Refusal :=
  .next (s.ackRx radio.val psdu fcs)

/-! ### The verification service (R198) -/

/-- Pop the packet at the head of a queue: its bytes; none where no whole packet stands there. -/
def popPacket : Nat → Nat → State → Bytes → State × Option Bytes
  | 0, _, s, _ => (s, none)
  | n + 1, q, s, b =>
    let p := s.hwTakeEnt q
    match p.2 with
    | none => (p.1, none)
    | some v =>
      let k := entKind v
      let d := toLe 7 v.toNat
      if k = 0x40 then popPacket n q p.1 []
      else if k = 0x41 then popPacket n q p.1 (b ++ d)
      else if k = 0x42 then (p.1, some (b ++ d))
      else (p.1, none)

/-- The length that the header entry at the head of a queue gives. -/
def State.headLen (s : State) (q : Nat) : Nat := match (s.queue q).ents with | e :: _ => e.v.toNat % 65536 | [] => 0

/-- A packet stands at the head of a queue up to its last-data or abort entry. -/
def State.packetReady (s : State) (q : Nat) : Bool :=
  match (s.queue q).ents with
  | e :: _ => decide (entKind e.v = 0x40) && ((headPacket (s.queue q).ents).any fun x => decide (entKind x.v = 0x42) || decide (entKind x.v = 0x43))
  | [] => false

/-- TUNNEL_VERIFY: an inner frame from VFY_Q.IN is verified, acknowledged by nothing, and written to VFY_Q.OUT. -/
def State.tunnelVerify (s : State) : State :=
  let qi := s.rf R.lnk_VFY_Q 0 4
  let qo := s.rf R.lnk_VFY_Q 4 4
  if !s.lnkTakes || !s.packetReady qi then s else
  let n := s.headLen qi
  let p := popPacket 4096 qi s []
  match p.2 with
  | none => p.1
  | some b =>
    let psdu := b.take n
    let h := parseHdr psdu
    let cut := psdu.take (psdu.length - 8)
    let out (t : State) (ctx reason : Nat) (x : Bytes) : State := pushAll qo (packet (linkTag 0 ctx 0 false) reason x) t
    let lost (t : State) (ctx : Nat) : State :=
      if h.typ = 9 ∧ h.keysel = 1 then pushAll qo (packet (linkTag 0 ctx 0 true) 0 psdu) t else out (t.bumpSat R.lnk_RX_UNKNOWN 1) ctx 5 cut
    if secBad h || dstBad h then out (p.1.bumpSat R.lnk_RX_BAD_SEC 1) 0 7 cut
    else
      let c := p.1.ctxFor h 0
      match c.2 with
      | none => lost c.1 0
      | some i =>
        match Sparse.find c.1.lnk.ctx i with
        | none => lost c.1 0
        | some x =>
          let j := c.1.verify 0 i x h psdu 0
          if j.reason = 5 then lost j.s i else out (j.s.bumpSat (verdictReg j.reason) 1) i j.reason j.bytes

/-- TUNNEL_VERIFY. -/
def execTunnelVerify (s : State) : Host.Outcome State Fault Refusal := .next s.tunnelVerify

/-! ### Registers, kill and reset -/

/-- LNK page 0 registers that show its state. -/
def State.lnkRead (s : State) (off : Nat) : Option Word :=
  if off = 0x70 then some (w32 (s.lnk.reserve.foldl max 0))
  else if off = 0xC4 then some s.ctxInfo
  else if off = 0xC8 then some 0
  else none

/-- LNK page 0 registers with a rule of their own. -/
def State.lnkWrite (s : State) (m : Master) (off : Nat) (v : Word) : Option State :=
  if off = 0x48 then some (s.genWrite m v)
  else if off = 0x4C then some (s.genNextWrite m v)
  else if off = 0x64 ∨ off = 0x68 ∨ off = 0x6C then some (s.ctrWrite m ((off - 0x64) / 4) v)
  else if off = 0xC8 then some (if tst v 0 then s.ctxDrop fun _ => true else s)
  else if off = 0xCC then some (s.ctxDrop fun c => decide (c.record = fld v 0 13))
  else none

/-- LNK page 1: ROUTE writes are refused with BUSY while EN is 1, and MODE 3 is reserved. -/
def State.routeWrite (s : State) (m : Master) (off : Nat) (v : Word) : Option State :=
  if 0x48 ≤ off ∧ off < 0xA8 then
    if s.en .lnk then some (s.err .lnk eBusy off m)
    else if off % 8 = 0 ∧ fld v 0 2 = 3 then some (s.err .lnk eBadValue off m)
    else none
  else none

/-- R199: clearing LNK's EN returns queued descriptors CANCELLED. -/
def State.lnkDisable (s : State) : State := (List.range 4).foldl (fun (t : State) r => t.lnkCancel r) s

/-- R199: KILL acts as R166 gives on every radio. -/
def State.lnkKill (s : State) : State := ((List.range 4).foldl (fun (t : State) r => (t.rxAbort r).radKill r) s).lnkDrain

/-- R181: a counter resumes at the reserve that NVS region 1 holds; where it cannot be read, at the one last written. -/
def State.ctrResume (s : State) (i : Nat) : State :=
  let v := match s.nvsRead (reserveAddr i) 4 with | some b => le b 0 4 | none => s.lnk.reserve.getD i 0
  { s with lnk := { s.lnk with reserve := setAt s.lnk.reserve i v } }.sendCtr i v

/-- R199, R181: a reset of LNK discards contexts and caches; each counter resumes at its reserve. -/
def State.lnkReset (s : State) : State :=
  (List.range 3).foldl State.ctrResume { s with lnk := { s.lnk with ctx := [], taken := [(0, 0), (0, 0), (0, 0)] } }

end Sys2Proof.Machine
end

