-- ==== Sys2Proof/Machine/Corridor.lean ====
section
/-! DEFINITION. The corridor engine: the road graph, tracks, the search, targets, publication and the occupancy row (R248-R264). -/

namespace Sys2Proof.Machine

open Sys2Proof

/-! ### The graph image (R248) -/

/-- The length of a graph image. -/
abbrev graphLen : Nat := 331776

/-- Header fields: NV, NE, SEG, GRAPH_ID. -/
def gNv (g : Sparse Byte) : Nat := memLe g 6 2
def gNe (g : Sparse Byte) : Nat := memLe g 8 2
def gSeg (g : Sparse Byte) : Nat := memLe g 10 2
def gId (g : Sparse Byte) : Nat := memLe g 12 4

/-- The profile number that PSEL gives for a zone and class. -/
def gPsel (g : Sparse Byte) (zone cls : Nat) : Nat := memLe g 16 8 / 2 ^ (4 * (4 * zone + cls)) % 16

/-- TAU of point i of a profile, in 10 ms. -/
def gTau (g : Sparse Byte) (p i : Nat) : Int := sgn 16 (memLe g (0x40 + 32 * p + 4 * i) 2)

/-- LVL of point i of a profile. -/
def gLvl (g : Sparse Byte) (p i : Nat) : Nat := memLe g (0x42 + 32 * p + 4 * i) 2

/-- Byte i of a vertex record. -/
def gV (g : Sparse Byte) (v i : Nat) : Nat := (memGet g (0x1000 + 8 * v + i)).toNat

def gValid (g : Sparse Byte) (v : Nat) : Bool := decide (v < 4096) && decide (128 ≤ gV g v 5)
def gLamp (g : Sparse Byte) (v : Nat) : Bool := gV g v 5 / 4 % 2 = 1
def gZone (g : Sparse Byte) (v : Nat) : Nat := gV g v 5 % 4
def gNOut (g : Sparse Byte) (v : Nat) : Nat := gV g v 4 % 16
def gNIn (g : Sparse Byte) (v : Nat) : Nat := gV g v 4 / 16
def gFloorGrp (g : Sparse Byte) (v : Nat) : Nat := gV g v 6 % 64
def gCapGrp (g : Sparse Byte) (v : Nat) : Nat := gV g v 7 % 64

/-- The out-edges of a vertex. -/
def gOut (g : Sparse Byte) (v : Nat) : List Nat :=
  (List.range (gNOut g v)).map fun i => memLe g (0x1000 + 8 * v) 2 % 2 ^ 14 + i

/-- The positions of a vertex's in-edges in the in-list. -/
def gInPos (g : Sparse Byte) (v : Nat) : List Nat :=
  (List.range (gNIn g v)).map fun i => memLe g (0x1002 + 8 * v) 2 % 2 ^ 14 + i

/-- The in-edges of a vertex. -/
def gIn (g : Sparse Byte) (v : Nat) : List Nat := (gInPos g v).map fun i => memLe g (0x9000 + 2 * i) 2

def eTail (g : Sparse Byte) (e : Nat) : Nat := memLe g (0x11000 + 16 * e) 2 % 4096
def eHead (g : Sparse Byte) (e : Nat) : Nat := memLe g (0x11002 + 16 * e) 2 % 4096
def eRev (g : Sparse Byte) (e : Nat) : Nat := memLe g (0x11004 + 16 * e) 2
def eApp (g : Sparse Byte) (e : Nat) : Nat := memLe g (0x11006 + 16 * e) 1 % 16

/-- The travel time of a class along an edge, in 10 ms; none where the class does not use it. -/
def eTime (g : Sparse Byte) (e c : Nat) : Option Nat :=
  let t := memLe g (0x11008 + 16 * e + 2 * c) 2
  if t = 0xFFFF then none else some t

/-- The valid vertices, in rising order. -/
def gVertices (g : Sparse Byte) : List Nat := (List.range 4096).filter fun v => gValid g v

/-- The in-edge of a vertex by which approach number `app` arrives. -/
def gByApp (g : Sparse Byte) (v app : Nat) : Option Nat := if app = 15 then none else (gIn g v).find? fun e => eApp g e = app

/-! ### The check of an image (R249) -/

/-- Check 1: MAGIC, FMT, CRC and SEG. -/
def gCheck1 (g : Sparse Byte) (seg : Nat) : Bool :=
  decide (memLe g 0 4 = 0x48505247) && decide (memLe g 4 2 = 1) && decide (gSeg g = seg) &&
  decide (memLe g 24 4 = crcOf crc32c (memRead g 0 24 ++ List.replicate 4 0 ++ memRead g 28 (graphLen - 28)))

/-- Check 2: NV and NE. -/
def gCheck2 (g : Sparse Byte) : Bool :=
  decide (1 ≤ gNv g) && decide (gNv g ≤ 4096) && decide (1 ≤ gNe g) && decide (gNe g ≤ 16384) &&
  decide (gNv g = (gVertices g).length)

/-- No value occurs twice. -/
def noRepeat : List Nat → Bool
  | [] => true
  | x :: r => !r.contains x && noRepeat r

/-- Check 3 of one vertex. -/
def gVertexOk (g : Sparse Byte) (v : Nat) : Bool :=
  decide (gNOut g v ≤ 8) && ((gOut g v).all fun e => decide (e < gNe g) && decide (eTail g e = v)) &&
  ((gInPos g v).all fun i => decide (i < 16384)) &&
  ((gIn g v).all fun e => decide (e < gNe g) && decide (eHead g e = v)) && noRepeat ((gIn g v).map (eApp g))

/-- Check 4 of one edge. -/
def gEdgeOk (g : Sparse Byte) (e : Nat) : Bool :=
  let r := eRev g e
  gValid g (eTail g e) && gValid g (eHead g e) &&
  (decide (r = 0xFFFF) || (decide (r < gNe g) && decide (eTail g r = eHead g e) && decide (eHead g r = eTail g e) && decide (eRev g r = e)))

/-- Check 5 of one profile. -/
def gProfileOk (g : Sparse Byte) (p : Nat) : Bool :=
  ((List.range 7).all fun i => decide (gTau g p i < gTau g p (i + 1))) && (List.range 8).all fun i => decide (gLvl g p i ≤ 1000)

/-- R249: the first check that fails and its index; (0, 0) for an image that is accepted. -/
def gCheck (g : Sparse Byte) (seg : Nat) : Nat × Nat :=
  if !gCheck1 g seg then (1, 0)
  else if !gCheck2 g then (2, 0)
  else match (gVertices g).find? fun v => !gVertexOk g v with
    | some v => (3, v)
    | none => match (List.range (gNe g)).find? fun e => !gEdgeOk g e with
      | some e => (4, e)
      | none => match (List.range 16).find? fun p => !gProfileOk g p with
        | some p => (5, p)
        | none => (0, 0)

/-! ### Banks, staging and the swap (R250, R251) -/

/-- COR_STAT.BANK. -/
def State.corActive (s : State) : Nat := s.rf R.cor_COR_STAT 2 1

/-- The image in the active bank. -/
def State.graph (s : State) : Sparse Byte := s.cor.banks.getD s.corActive []

/-- The image in the staged bank. -/
def State.stagedBank (s : State) : Sparse Byte := s.cor.banks.getD (1 - s.corActive) []

/-- COR_STAT.GRAPH_VALID. -/
def State.graphValid (s : State) : Bool := s.rb R.cor_COR_STAT 1

/-- Copy an image into the staged bank at offset 0. -/
def State.stage (s : State) (b : Bytes) : State := s.corWrite ((1 - s.corActive) * 0x60000) b

/-- GRAPH_CHECK: GRAPH_CTRL.CHECK. -/
def execGraphCheck (m : Master) (s : State) : Host.Outcome State Fault Refusal :=
  .next (s.writeAt .cor 0x54 m 1 fun t => { t with cor := { t.cor with check := if t.cor.check = 0 then 1 else t.cor.check } }.answer .done)

/-- R259, R250: an apply tick named to COR: none where it is taken, otherwise the error; a tick named without network time is recorded (R23). -/
def State.corTick (s : State) (at32 : Word) : Option Nat :=
  if !s.timeFor at32 then some eNoTime else if !later at32 s.tick32 then some eBadValue else none

/-- The full number of a tick given by its low 32 bits, near the tick in progress (R7). -/
def State.fullTick (s : State) (at32 : Word) : Nat := ((s.tick : Int) + tickDiff at32 s.tick32).toNat

/-- Record a refused apply tick (R23). -/
def State.corNoTime (s : State) (code : Nat) (at32 : Word) : State := if code = eNoTime then s.noTime .cor at32 else s

/-- R250: arm the swap for a tick, or give the error. -/
def State.armSwap (s : State) (at32 : Word) : State × Option Nat :=
  if !s.rb R.cor_COR_STAT 3 then (s, some 0x80)
  else match s.corTick at32 with
    | some e => (s.corNoTime e at32, some e)
    | none => ({ s.wb R.cor_COR_STAT 4 true with cor := { s.cor with swapAt := some (s.fullTick at32) } }, none)

/-- The error of a page operation, where there is one. -/
def State.corErr (r : State × Option Nat) (off : Nat) (m : Master) : State :=
  match r.2 with
  | some e => r.1.err .cor e off m
  | none => r.1

/-- GRAPH_ARM: GRAPH_CTRL.ARM. -/
def execGraphArm (m : Master) (s : State) : Host.Outcome State Fault Refusal :=
  .next (s.writeAt .cor 0x54 m 2 fun t => (State.corErr (t.armSwap (t.rd R.cor_GRAPH_AT)) 0x54 m).answer .done)

/-- Withdraw the armed swap. -/
def State.disarm (s : State) : State := { s.wb R.cor_COR_STAT 4 false with cor := { s.cor with swapAt := none } }

/-- GRAPH_DISARM: GRAPH_CTRL.DISARM. -/
def execGraphDisarm (m : Master) (s : State) : Host.Outcome State Fault Refusal :=
  .next (s.writeAt .cor 0x54 m 4 fun t => t.disarm.answer .done)

/-- R264: the tick that the firmware chooses for a command with APPLY 0. -/
def State.applyOf (s : State) (a : Word) : Word := if a = 0 then w32 (s.tick + 2) else a

/-- R264: the reply of a GRAPH_LOAD whose check has ended. -/
def State.graphReply (s : State) (ok : Bool) : State :=
  match s.startedCmd 0x0400 with
  | none => s
  | some c =>
    if !ok then s.reply c stFault (toLe 4 (s.rn R.cor_GRAPH_ERR)) []
    else
      let at32 := s.applyOf c.e.apply
      match s.armSwap at32 with
      | (t, none) => t.replyAt c stOk at32 (toLe 4 (t.rn R.cor_STAGE_ID) ++ toLe 4 at32.toNat) []
      | (t, some e) => t.reply c (if e = eNoTime then stNoTime else stBadParam) [] []

/-- R249, R250: the check of the staged bank ends. -/
def State.graphChecked (s : State) : State :=
  let k := s.cor.check
  if k = 0 || s.inReset .cor then s else
  let s := { s with cor := { s.cor with check := 0 } }
  let r := gCheck s.stagedBank s.net.seg
  let s := if r.1 = 0 then (s.wb R.cor_COR_STAT 3 true).wr R.cor_STAGE_ID (w32 (gId s.stagedBank))
    else (s.wr R.cor_GRAPH_ERR (w32 (r.1 + r.2 % 2 ^ 14 * 2 ^ 16))).irq .cor 3
  if k = 2 then s.graphReply (decide (r.1 = 0))
  else if k = 3 && decide (r.1 = 0) then { s with cor := { s.cor with autoArm := some 2 } } else s

/-- GRAPH_CHECK_DONE. -/
def execGraphCheckDone (s : State) : Host.Outcome State Fault Refusal := .next s.graphChecked

/-- R251: a track in the new graph: dropped with its anchor, its approach unknown where it names no in-edge. -/
def trackSwap (g : Sparse Byte) (p : Nat × Track) : Option (Nat × Track) :=
  if !gValid g p.2.anchor then none
  else if (gByApp g p.2.anchor p.2.app).isNone then some (p.1, { p.2 with app := 15 }) else some p

/-- COR may start a run: in the head, with network time, in a tick that is not repeated (R16, R23, R263, R489). -/
def State.corRuns (s : State) : Bool := s.takes .cor && s.isHead && s.holds && !s.repeated

/-- R251: the swap armed for this tick, or for one that passed without a run, takes effect. -/
def State.graphSwap (s : State) : State :=
  match s.cor.swapAt with
  | none => s
  | some k =>
    if !s.corRuns || s.tick < k then s else
    let g := s.stagedBank
    let ts := s.cor.tracks.filterMap (trackSwap g)
    let n := s.cor.tracks.length - ts.length
    let b := 1 - s.corActive
    let v := setFld (setFld (setFld (s.rd R.cor_COR_STAT) 1 1 1) 2 1 b) 3 2 0
    let s := ((s.wr R.cor_COR_STAT v).wr R.cor_GRAPH_ID (w32 (gId g))).bumpSat R.cor_TRK_EXPIRED n
    let s := { s with cor := { s.cor with swapAt := none, tracks := ts, known := [] } }
    (s.irq .cor 2).event 0xF400 (blkSrc .cor) (toLe 4 (gId g) ++ toLe 4 s.tick32.toNat)

/-- GRAPH_SWAP. -/
def execGraphSwap (s : State) : Host.Outcome State Fault Refusal := .next s.graphSwap

/-! ### Policy (R258, R259) -/

/-- The policy in the staged registers. -/
def State.stagedPolicy (s : State) : Policy :=
  ⟨(List.range 64).map fun i => s.rf (R.cor_FLOORm (i / 2)) (i % 2 * 16) 10,
   (List.range 64).map fun i => s.rf (R.cor_CAPm (i / 2)) (i % 2 * 16) 10, s.rf R.cor_WX 0 11⟩

/-- R259: arm the staged values for a tick, or give the error. -/
def State.policyCommit (s : State) (at32 : Word) : State × Option Nat :=
  match s.corTick at32 with
  | some e => (s.corNoTime e at32, some e)
  | none => ({ s.wb R.cor_COR_STAT 5 true with cor := { s.cor with polAt := some (s.fullTick at32, s.stagedPolicy) } }, none)

/-- POLICY_COMMIT: POLICY_CTRL.COMMIT. -/
def execPolicyCommit (m : Master) (s : State) : Host.Outcome State Fault Refusal :=
  .next (s.writeAt .cor 0x78 m 1 fun t => (State.corErr (t.policyCommit (t.rd R.cor_POLICY_AT)) 0x78 m).answer .done)

/-- R259: the commit armed for this tick, or for one that passed without a run, takes effect. -/
def State.policyApply (s : State) : State :=
  match s.cor.polAt with
  | none => s
  | some (k, p) =>
    if !s.corRuns || s.tick < k then s
    else { (s.wb R.cor_COR_STAT 5 false).wr R.cor_POLICY_LAST s.tick32 with cor := { s.cor with polAt := none, pol := p } }

/-- POLICY_APPLY. -/
def execPolicyApply (s : State) : Host.Outcome State Fault Refusal := .next s.policyApply

/-! ### Intake (R252-R254) -/

/-- The engine while it takes reports: its tracks, the tracks anchored in this run by 4 × node + class (newest first), reports by node, and what it dropped. -/
structure Intake where
  tracks  : Sparse Track
  nextId  : Nat
  fresh   : List (Nat × Nat)
  reports : Sparse Nat
  stale   : Nat
  badv    : Nat
  low     : Nat
  full    : Nat
  made    : Nat

/-- R254 step 3: the track to refresh, and the approach to take where DIR is unknown; none in it leaves APP as it is. -/
def matchTrack (x : Intake) (known : Sparse (Nat × Nat × Nat)) (key : Nat) : Option (Nat × Option Nat) :=
  match x.fresh.find? fun p => p.1 = key with
  | some p => some (p.2, none)
  | none => match Sparse.find known key with
    | none => none
    | some (t, i, a) => match Sparse.find x.tracks t with
      | some y => if y.id = i then some (t, some a) else none
      | none => none

/-- The lowest free track number. -/
def freeTrack (l : Sparse Track) (k : Nat) : Nat → Option Nat
  | 0 => none
  | n + 1 => if (Sparse.find l k).isNone then some k else freeTrack l (k + 1) n

/-- R254 step 5: the track with the largest AGE, the lowest-numbered first on a tie. -/
def oldest (l : Sparse Track) : Option (Nat × Track) :=
  l.foldl (fun b p => match b with | none => some p | some q => if q.2.age < p.2.age then some p else b) none

/-- R254 step 5: the place of a new track. -/
def trackPlace (l : Sparse Track) : Option Nat :=
  match freeTrack l 0 1024 with
  | some k => some k
  | none => match oldest l with
    | some p => if 250 ≤ p.2.age then some p.1 else none
    | none => none

/-- R254 step 5: create a track. -/
def newTrack (x : Intake) (key node cls app a conf : Nat) : Intake :=
  match trackPlace x.tracks with
  | none => { x with full := x.full + 1 }
  | some k =>
    { x with tracks := Sparse.put x.tracks k ⟨cls, node, app, 4 * a, a, conf, x.nextId, 0⟩, nextId := (x.nextId + 1) % 65536,
             fresh := (key, k) :: x.fresh.filter (fun p => p.2 != k), made := x.made + 1 }

/-- R254 step 4: refresh a track. -/
def refreshTrack (x : Intake) (k key node dir : Nat) (app : Option Nat) (a conf : Nat) : Intake :=
  match Sparse.find x.tracks k with
  | none => x
  | some t =>
    let ap := if dir ≠ 15 then dir else app.getD t.app
    { x with tracks := Sparse.put x.tracks k { t with anchor := node, app := ap, offs := 4 * a, age := a, conf := conf },
             fresh := (key, k) :: x.fresh }

/-- R254: take one report entry in the run of a tick whose low 16 bits are k16. -/
def takeReport (g : Sparse Byte) (known : Sparse (Nat × Nat × Nat)) (maxAge start refresh k16 : Nat) (x : Intake) (e : DWord) : Intake :=
  let f (lo n : Nat) := e.toNat / 2 ^ lo % 2 ^ n
  if f 56 7 ≠ 0x60 then { x with badv := x.badv + 1 } else
  let node := f 44 12
  let cls := f 42 2
  let conf := f 34 4
  let a := (k16 + 65536 - f 16 16) % 65536
  if maxAge < a then { x with stale := x.stale + 1 }
  else if !gValid g node then { x with badv := x.badv + 1 }
  else
    let dir := if (gByApp g node (f 38 4)).isSome then f 38 4 else 15
    let x := { x with reports := Sparse.put x.reports node ((Sparse.find x.reports node).getD 0 + 1) }
    let key := 4 * node + cls
    match matchTrack x known key with
    | some (k, app) =>
      if refresh ≤ conf then refreshTrack x k key node dir app a conf
      else if start ≤ conf then newTrack x key node cls (if dir ≠ 15 then dir else app.getD 15) a conf
      else { x with low := x.low + 1 }
    | none => if start ≤ conf then newTrack x key node cls dir a conf else { x with low := x.low + 1 }

/-- R252: pop the entries of a run: up to the first report whose verdict did not fall before the tick, or n entries. -/
def popReports (q k16 : Nat) : Nat → State → State × List DWord
  | 0, s => (s, [])
  | n + 1, s =>
    match (s.queue q).ents with
    | [] => (s, [])
    | e :: _ =>
      if entKind e.v = 0x60 && decide (0 ≤ sgn 16 (e.v.toNat % 65536 + 65536 - k16)) then (s, [])
      else match s.hwTakeEnt q with
        | (t, none) => (t, [])
        | (t, some v) => let r := popReports q k16 n t; (r.1, v :: r.2)

/-! ### The search (R255-R257) -/

/-- HORIZON of a class, in ms. -/
def horizon (g : Sparse Byte) (c : Nat) : Int :=
  let h (z : Nat) := 10 * gTau g (gPsel g z c) 7
  max (max (h 0) (h 1)) (max (h 2) (h 3))

/-- R257: the level of a profile at τ, from segment i upward. -/
def levelFrom (g : Sparse Byte) (p : Nat) (tau : Int) (i : Nat) : Nat → Nat
  | 0 => 0
  | n + 1 =>
    let t0 := 10 * gTau g p i
    let t1 := 10 * gTau g p (i + 1)
    if t0 ≤ tau ∧ tau ≤ t1 then
      ((gLvl g p i : Int) + ((gLvl g p (i + 1) : Int) - gLvl g p i) * (tau - t0) / (t1 - t0)).toNat
    else levelFrom g p tau (i + 1) n

/-- R257: the level of a profile at τ in ms. -/
def profLevel (g : Sparse Byte) (p : Nat) (tau : Int) : Nat :=
  if tau < 10 * gTau g p 0 ∨ 10 * gTau g p 7 < tau then 0 else levelFrom g p tau 0 7

/-- A vertex that waits in a search, with its time and the edge that leads to it. -/
structure Wait where
  v   : Nat
  d   : Int
  via : Option Nat

/-- The waiting vertex with the smallest time, the lowest index on a tie. -/
def nearest : List Wait → Option Wait
  | [] => none
  | w :: r => match nearest r with
    | none => some w
    | some b => if w.d < b.d ∨ (w.d = b.d ∧ w.v ≤ b.v) then some w else some b

/-- Relax one out-edge. -/
def relax (g : Sparse Byte) (c : Nat) (d : Int) (ban : Option Nat) (done : List Nat) (l : List Wait) (e : Nat) : List Wait :=
  match eTime g e c with
  | none => l
  | some t =>
    if ban = some e then l
    else
      let h := eHead g e
      let nd := d + 10 * (t : Int)
      if done.contains h then l
      else match l.find? fun w => w.v = h with
        | none => ⟨h, nd, some e⟩ :: l
        | some w => if nd < w.d then ⟨h, nd, some e⟩ :: l.filter (fun x => x.v != h) else l

/-- R257: settle up to n vertices; each is given with its time and the edge by which the search reached it. -/
def searchFrom (g : Sparse Byte) (c : Nat) (back : Option Nat) (hor : Int) : Nat → List Wait → List Nat → List Wait
  | 0, _, _ => []
  | n + 1, l, done =>
    match nearest l with
    | none => []
    | some w =>
      let l := l.filter fun x => x.v != w.v
      let done := w.v :: done
      let ban := match w.via with | none => back | some e => some (eRev g e)
      let l := if hor < w.d then l else (gOut g w.v).foldl (relax g c w.d ban done) l
      w :: searchFrom g c back hor n l done

/-- The reverse of the edge by which a track came to its anchor. -/
def trackBack (g : Sparse Byte) (t : Track) : Option Nat := (gByApp g t.anchor t.app).map (eRev g)

/-- R257: the search of a track. -/
def search (g : Sparse Byte) (reach : Nat) (t : Track) : List Wait :=
  searchFrom g t.cls (trackBack g t) (horizon g t.cls) reach [⟨t.anchor, -t.offs, none⟩] []

/-- R256: move the anchor forward where exactly one out-edge is usable. -/
def advance (g : Sparse Byte) (t : Track) : Track :=
  match (gOut g t.anchor).filter fun e => (eTime g e t.cls).isSome && decide (trackBack g t ≠ some e) with
  | [e] =>
    let tt := 10 * (((eTime g e t.cls).getD 0 : Nat) : Int)
    if tt - 10 * gTau g (gPsel g (gZone g (eHead g e)) t.cls) 0 ≤ t.offs then
      { t with anchor := eHead g e, app := eApp g e, offs := t.offs - tt }
    else t
  | _ => t

/-- Record a settled vertex in the run: P[v], the match table (R255) and occupancy (R261). -/
def settle (g : Sparse Byte) (back ahead occT : Int) (k : Nat) (t : Track) (r : CorRun) (w : Wait) : CorRun :=
  let lv := profLevel g (gPsel g (gZone g w.v) t.cls) w.d
  let key := 4 * w.v + t.cls
  let app := match w.via with | none => t.app | some e => eApp g e
  let near : Bool := match Sparse.find r.seen key with | none => true | some x => decide (w.d.natAbs < x.1)
  let o := (Sparse.find r.occ w.v).getD (0, 0, 0)
  let o := (if (w.d.natAbs : Int) ≤ occT then o.1 + 1 else o.1,
            if 0 ≤ w.d ∧ w.d ≤ horizon g t.cls then max o.2.1 (t.cls + 1) else o.2.1, o.2.2)
  { r with
    p := Sparse.set (fun _ => 0) r.p w.v (max (Sparse.get (fun _ => 0) r.p w.v) lv),
    seen := if decide (-back ≤ w.d) && decide (w.d ≤ ahead) && near then Sparse.put r.seen key (w.d.natAbs, k, t.id, app) else r.seen,
    occ := Sparse.set (fun _ => (0, 0, 0)) r.occ w.v o }

/-- The highest level that a search gave. -/
def peakOf (g : Sparse Byte) (c : Nat) (l : List Wait) : Nat :=
  l.foldl (fun m w => max m (profLevel g (gPsel g (gZone g w.v) c) w.d)) 0

/-- R256: a track is dropped after its search. -/
def expired (exp : Word) (t : Track) : Bool :=
  decide (125 * fld exp (8 * t.cls) 8 ≤ 2 * t.age) || (decide (250 ≤ t.age) && decide (t.peak = 0))

/-- Advance and search every track, lowest number first. -/
def searchAll (g : Sparse Byte) (reach : Nat) (back ahead occT : Int) : Sparse Track → CorRun → Sparse Track × CorRun
  | [], r => ([], r)
  | (k, t) :: l, r =>
    let t := advance g t
    let w := search g reach t
    let t := { t with peak := peakOf g t.cls w }
    let x := searchAll g reach back ahead occT l (w.foldl (settle g back ahead occT k t) r)
    ((k, t) :: x.1, x.2)

/-- R253, R263: OFFS and AGE grow by the ticks since the last run. -/
def grow (n : Nat) (t : Track) : Track := { t with offs := t.offs + 4 * n, age := t.age + n }

/-! ### The run -/

/-- The counters and interrupts of an intake. -/
def State.intakeDone (s : State) (x : Intake) (popped : Nat) : State :=
  let s := ((s.bumpSat R.cor_RPT_IN popped).bumpSat R.cor_RPT_STALE x.stale).bumpSat R.cor_RPT_LOWCONF x.low
  let s := ((s.bumpSat R.cor_RPT_BADV x.badv).bumpSat R.cor_TRK_FULL_CNT x.full).bumpSat R.cor_TRK_NEW x.made
  let s := if x.full = 0 then s else s.irq .cor 4
  if x.full + x.stale + x.low + x.badv = 0 then s else s.irq .cor 5

/-- R253, R254: the intake of the run of the tick in progress. -/
def State.intake (s : State) : State × Sparse Nat :=
  let k := s.tick
  let n := match s.cor.lastRun with | none => 1 | some j => k - j
  let q := s.rf R.cor_COR_CFG 0 4
  let r := popReports q (k % 65536) (s.rf R.cor_COR_CFG 16 9) s
  let s := r.1
  let x := r.2.foldl (takeReport s.graph s.cor.known (s.rf R.cor_MAX_AGE 0 16) (s.rf R.cor_MATCH_CFG 16 4) (s.rf R.cor_MATCH_CFG 20 4) (k % 65536))
    ⟨s.cor.tracks.map fun p => (p.1, grow n p.2), s.cor.nextId, [], [], 0, 0, 0, 0, 0⟩
  ({ s with cor := { s.cor with tracks := x.tracks, nextId := x.nextId, lastRun := some k } }.intakeDone x r.2.length, x.reports)

/-- The occupancy of a run with its reports. -/
def withReports (o : Sparse (Nat × Nat × Nat)) (r : Sparse Nat) : Sparse (Nat × Nat × Nat) :=
  r.foldl (fun (a : Sparse (Nat × Nat × Nat)) p => let x := (Sparse.find a p.1).getD (0, 0, 0); Sparse.put a p.1 (x.1, x.2.1, p.2)) o

/-- R256, R257: the tracks move on and search, and the expired ones are dropped. -/
def State.searchTracks (s : State) (us : Nat) (reports : Sparse Nat) : State :=
  let x := searchAll s.graph (s.rf R.cor_COR_CFG 8 8) (100 * s.rf R.cor_MATCH_CFG 0 8) (100 * s.rf R.cor_MATCH_CFG 8 8)
    (10 * s.rf R.cor_OCC_CFG 0 8) s.cor.tracks ⟨s.tick, us, [], [], []⟩
  let live := x.1.filter fun p => !expired (s.rd R.cor_EXPIRE) p.2
  let r := { x.2 with occ := withReports x.2.occ reports }
  ({ s with cor := { s.cor with tracks := live, run := some r } }.bumpSat R.cor_TRK_EXPIRED (x.1.length - live.length)).wb R.cor_COR_STAT 0 true

/-- R27, R253-R257: the run of the tick in progress, which ends `us` µs after its start. Due swaps and commits come first. -/
def State.corridorRun (s : State) (us : Nat) : State :=
  let s := s.graphSwap.policyApply
  if !s.corRuns || !s.graphValid || s.cor.run.isSome || !(match s.cor.lastRun with | none => true | some j => decide (j < s.tick)) then s
  else
    let r := s.intake
    r.1.searchTracks us r.2

/-- CORRIDOR_RUN. -/
def execCorridorRun (us : Nat) (s : State) : Host.Outcome State Fault Refusal := .next (s.corridorRun us)

/-! ### Publication (R258, R260) -/

/-- R258: the target of a vertex. -/
def target (g : Sparse Byte) (pol : Policy) (p : Sparse Nat) (v : Nat) : Nat :=
  min (pol.caps.getD (gCapGrp g v) 1000) (max (pol.floors.getD (gFloorGrp g v) 0) (Sparse.get (fun _ => 0) p v * pol.wx / 1024))

/-- PUB of a vertex. -/
def State.pubOf (s : State) (v : Nat) : Nat := Sparse.get (fun _ => 1023) s.cor.pub v

/-- R260: a lamp is published at a target, given PUB and the kept runs in which they differed; the first run after a reset, where PUB is 1,023, publishes every lamp. -/
def publishes (level holdN t pub n : Nat) : Bool :=
  decide (pub = 1023) || decide (level ≤ natDist t pub) || (decide (t = 0) && decide (pub ≠ 0)) || (decide (t ≠ pub) && decide (holdN ≤ n))

/-- R260: publish one vertex; the list gathers the published vertices, each with whether it rose (R267). -/
def State.publishVertex (s : State) (g : Sparse Byte) (p : Sparse Nat) (acc : State × List (Nat × Bool)) (v : Nat) : State × List (Nat × Bool) :=
  let st := acc.1
  let t := target g s.cor.pol p v
  let st := { st with cor := { st.cor with target := Sparse.set (fun _ => 0) st.cor.target v t } }
  if !gLamp g v then (st, acc.2) else
  let pub := s.pubOf v
  let n := if t = pub then 0 else Sparse.get (fun _ => 0) st.cor.hold v + 1
  if publishes (s.rf R.cor_HYST 0 10) (s.rf R.cor_HYST 16 16) t pub n then
    ({ st with cor := { st.cor with pub := Sparse.set (fun _ => 1023) st.cor.pub v t, hold := Sparse.set (fun _ => 0) st.cor.hold v 0 } },
      (v, decide (pub = 1023) || decide (pub < t)) :: acc.2)
  else ({ st with cor := { st.cor with hold := Sparse.set (fun _ => 0) st.cor.hold v n } }, acc.2)

/-- R260: publish the targets of a kept run, vertex by vertex. -/
def State.publishAll (s : State) (p : Sparse Nat) : State × List (Nat × Bool) :=
  let g := s.graph
  let r := (gVertices g).foldl (s.publishVertex g p) ({ s with cor := { s.cor with target := [] } }, [])
  (r.1.wr R.cor_PUB_CNT (w32 r.2.length), r.2.reverse)

/-! ### Occupancy (R261) -/

/-- Two records of a vertex joined: within a run the near tracks of the richest run count, reports add up to 3. -/
def occJoin (a b : Nat × Nat × Nat) : Nat × Nat × Nat := (max a.1 b.1, max a.2.1 b.2.1, min (a.2.2 + b.2.2) 3)

/-- Add a kept run to its second. -/
def State.occAdd (s : State) (k : Nat) (o : Sparse (Nat × Nat × Nat)) : State :=
  let old := if s.cor.occSec = k / 250 then s.cor.occ else []
  { s with cor := { s.cor with occSec := k / 250,
                               occ := o.foldl (fun (a : Sparse (Nat × Nat × Nat)) p => Sparse.put a p.1 (occJoin ((Sparse.find a p.1).getD (0, 0, 0)) p.2)) old } }

/-- The word of a vertex in the row. -/
def State.occWord (s : State) (g : Sparse Byte) (v : Nat) : Nat :=
  let o := (Sparse.find (s.cor.occ) v).getD (0, 0, 0)
  let live := gValid g v && s.rb (R.cor_LIVEi (v / 32)) (v % 32)
  let st := if !live then 0 else if 2 ≤ o.1 then 3 else if o.1 = 1 then 2 else 1
  st * 2 ^ 14 + (o.2.1 - 1) * 2 ^ 12 + min o.2.2 3 * 2 ^ 10 + (if s.pubOf v = 1023 then 0 else s.pubOf v)

/-- R261: freeze the second of tick k into the row buffer. -/
def State.occFreeze (s : State) (k : Nat) : State :=
  if k % 250 ≠ 249 then s else
  let sec := k / 250
  let s := if s.cor.occSec = sec then s else { s with cor := { s.cor with occSec := sec, occ := [] } }
  let g := s.graph
  let w := (List.range 4096).foldl (fun (l : Sparse Nat) v => Sparse.set (fun _ => 0) l v (if v = 0 then 0x8000 + sec % 32768 else s.occWord g v)) []
  { s with cor := { s.cor with row := some sec, rowW := w, occSec := sec + 1, occ := [] } }

/-- R139, R140: in the tick that ends second s, the firmware copies the row to the history, words first and the header last, and writes OCC_LAST. -/
def State.occRowWrite (s : State) : State :=
  match s.cor.row with
  | none => s
  | some sec =>
    if !(s.isHead && s.holds && !s.repeated && decide (s.tick = 250 * (sec + 1))) || s.inReset .mem || s.inReset .cor then s else
    let a := s.rf R.mem_OCC_BASE 0 13 * 2 ^ 20 + sec % 604800 * 8192
    let b := (List.range 8192).map s.rowByte
    (((s.dramWrite (a + 2) (b.drop 2)).dramWrite a (b.take 2)).wr R.mem_OCC_LAST (w32 sec)).wr R.mem_OCC_STAT (s.rd R.mem_OCC_STAT ||| 1)

/-- OCC_ROW_WRITE. -/
def execOccRowWrite (s : State) : Host.Outcome State Fault Refusal := .next s.occRowWrite

/-- R261: the head's firmware keeps the LIVE bits: joined, and heard within the last 64 superframes. -/
def State.liveUpdate (s : State) : State :=
  (List.range 128).foldl (fun (t : State) i =>
    let bits := (List.range 32).foldl (fun a j =>
      let v := 32 * i + j
      let on := (s.net.nodes.any fun n => n.index = v && n.st = 3) &&
        (match Sparse.find s.net.heard v with | some f => decide (s.sf < f + 64) | none => false)
      a + b2n on * 2 ^ j) 0
    t.wr (R.cor_LIVEi i) (w32 bits)) s

/-! ### The end of a run -/

/-- R263: COR is done once no run is in progress. -/
def State.corDrain (s : State) : State :=
  if s.cor.run.isNone && s.draining .cor then s.setDrained .cor else s

/-- R27, R260: 1,700 µs: publish a finished run or discard it. The published vertices are given, each with whether it rose. -/
def State.corFinish (s : State) : State × List (Nat × Bool) :=
  match s.cor.run with
  | none => (s, [])
  | some r =>
    let s := { s with cor := { s.cor with run := none } }.wb R.cor_COR_STAT 0 false
    if r.us ≤ 1500 then
      let s := ((s.wr R.cor_RUN_TICK (w32 r.tick)).wr R.cor_RUN_TIME (w32 r.us)).wr R.cor_RUN_MAX (w32 (max (s.rn R.cor_RUN_MAX) r.us))
      let s := { s with cor := { s.cor with view := s.cor.tracks, known := r.seen.map fun (p : Nat × Nat × Nat × Nat × Nat) => (p.1, p.2.2) } }
      let x := s.publishAll r.p
      ((((x.1.occAdd r.tick r.occ).occFreeze r.tick).irq .cor 0).corDrain, x.2)
    else
      let s := ((s.bumpSat R.cor_OVR_CNT 1).irq .cor 1).event 0xF401 (blkSrc .cor) (toLe 4 (r.tick % 2 ^ 32) ++ toLe 4 1500)
      ((s.occFreeze r.tick).corDrain, [])

/-! ### Reset and start (R263) -/

/-- A COR block reset: everything of COR but the eMMC copies goes; a GRAPH_LOAD under check is cancelled. -/
def State.corReset (s : State) : State :=
  let s := if s.cor.check = 2 then (match s.startedCmd 0x0400 with | some c => s.reply c stCancelled [] [] | none => s) else s
  { s with cor := ⟨[[], []], [], 0, [], none, none, none, none, ⟨List.replicate 64 0, List.replicate 64 1000, 1024⟩, [], [], [], [], 0, [], none, [], 0, none, s.cor.newest⟩ }

/-- The place of an eMMC copy of the graph in the user area (R138). -/
abbrev graphCopy (i : Nat) : Nat := 769 * 2 ^ 20 + i * 2 ^ 25

/-- An eMMC copy passes R249. -/
def State.copyOk (s : State) (i : Nat) : Bool :=
  (gCheck ((memRead s.emc.user (graphCopy i) graphLen).foldl (fun (p : Sparse Byte × Nat) b => (memSet p.1 p.2 b, p.2 + 1)) ([], 0)).1 s.net.seg).1 = 0

/-- Stage graph data, and note who waits for its check. -/
def State.stageFor (s : State) (b : Bytes) (who : Nat) : State := let t := s.stage b; { t with cor := { t.cor with check := who } }

/-- Stage the copy of the graph that is chosen, for the check at a start. -/
def State.stageCopy (s : State) : Option Nat → State
  | none => s
  | some i => s.stageFor (memRead s.emc.user (graphCopy i) graphLen) 3

/-- R263: the firmware stages the newest eMMC copy that passes R249 and starts its check. -/
def State.corStart (s : State) : State :=
  match s.cor.newest with
  | none => s
  | some n => s.stageCopy ([n, 1 - n].find? fun i => s.copyOk i)

/-- R263: at a tick edge, the firmware arms the swap of a start once a tick has passed and the head holds time. -/
def State.corAutoArm (s : State) : State :=
  match s.cor.autoArm with
  | none => s
  | some (n + 2) => { s with cor := { s.cor with autoArm := some (n + 1) } }
  | some _ =>
    if s.isHead && s.holds && !s.repeated && s.rb R.cor_COR_STAT 3 then
      { ((s.wb R.cor_COR_STAT 4 true).wr R.cor_GRAPH_AT s.tick32) with cor := { s.cor with autoArm := none, swapAt := some s.tick } }
    else s

/-! ### Mailbox (R264) -/

/-- GRAPH_LOAD: the image to the older eMMC copy and the staged bank, and its check; the reply comes when the check ends. While another check runs, the command waits. -/
def execGraphLoad (tag : Word) (s : State) : Host.Outcome State Fault Refusal :=
  .next (if s.cor.check ≠ 0 then s else s.withCmd 0x0400 tag fun c t =>
    if c.e.length ≠ graphLen then t.reply c stBadLength [] []
    else if !t.takes .cor || !t.isHead then t.reply c stBusy [] []
    else if t.inReset .emc then t.reply c stBusy [] []
    else
      let i := match t.cor.newest with | none => 0 | some n => 1 - n
      let t := { t with emc := { t.emc with user := memWrite t.emc.user (graphCopy i) c.bytes } }
      let t := { t with cor := { t.cor with newest := some i } }.stage c.bytes
      { t with cor := { t.cor with check := 2 } }.defer c)

/-- Commit the staged policy for a mailbox command. -/
def State.policyReply (s : State) (c : Cmd) : State :=
  let at32 := s.applyOf c.e.apply
  match (s.wr R.cor_POLICY_AT at32).policyCommit at32 with
  | (t, none) => t.replyAt c stOk at32 [] []
  | (t, some e) => t.reply c (if e = eNoTime then stNoTime else stBadParam) [] []

/-- POLICY_SET. -/
def execPolicySet (tag : Word) (s : State) : Host.Outcome State Fault Refusal :=
  .next (s.withCmd 0x0401 tag fun c t =>
    let v (i : Nat) := le c.bytes (2 * i) 2
    if c.e.length ≠ 256 then t.reply c stBadLength [] []
    else if t.inReset .cor then t.reply c stBusy [] []
    else if (List.range 128).any (fun i => decide (1000 < v i)) || decide (1024 < c.par 0 2) then t.reply c stBadParam [] []
    else
      let t := (List.range 32).foldl (fun (t : State) i =>
        (t.wr (R.cor_FLOORm i) (w32 (v (2 * i) + v (2 * i + 1) * 2 ^ 16))).wr (R.cor_CAPm i) (w32 (v (64 + 2 * i) + v (65 + 2 * i) * 2 ^ 16))) t
      (t.wr R.cor_WX (w32 (c.par 0 2))).policyReply c)

/-- WEATHER_SET. -/
def execWeatherSet (tag : Word) (s : State) : Host.Outcome State Fault Refusal :=
  .next (s.withCmd 0x0402 tag fun c t =>
    if t.inReset .cor then t.reply c stBusy [] []
    else if 1024 < c.par 0 2 then t.reply c stBadParam [] []
    else (t.wr R.cor_WX (w32 (c.par 0 2))).policyReply c)

/-- The words TRK_W0-TRK_W3 of a track. -/
def trackWord (t : Option Track) (i : Nat) : Word :=
  match t with
  | none => 0
  | some t =>
    match i with
    | 0 => w32 (t.anchor + t.app * 2 ^ 12 + t.cls * 2 ^ 16 + t.conf * 2 ^ 20 + 2 ^ 31)
    | 1 => w32 (unsgn 24 t.offs)
    | 2 => w32 (min t.age 65535 + t.id * 2 ^ 16)
    | _ => w32 t.peak

/-- TRACKS_GET: the 1,024 track records of the last run that finished. -/
def execTracksGet (tag : Word) (s : State) : Host.Outcome State Fault Refusal :=
  .next (s.withCmd 0x0403 tag fun c t =>
    if t.inReset .cor then t.reply c stBusy [] []
    else t.reply c stOk [] ((List.range 1024).flatMap fun i => (List.range 4).flatMap fun j => toLe 4 (trackWord (Sparse.find t.cor.view i) j).toNat))

/-! ### The pages -/

/-- COR registers that show the engine's state: pages 0 and 1 at offsets from 0x1_D000. -/
def State.corRead32 (s : State) (off : Nat) : Option Word :=
  match off with
  | 0x044 => some (setFld (s.rd R.cor_COR_STAT) 16 11 s.cor.tracks.length)
  | 0x1044 => some (trackWord (Sparse.find s.cor.view (s.rf R.cor_TRK_SEL 0 10)) 0)
  | 0x1048 => some (trackWord (Sparse.find s.cor.view (s.rf R.cor_TRK_SEL 0 10)) 1)
  | 0x104C => some (trackWord (Sparse.find s.cor.view (s.rf R.cor_TRK_SEL 0 10)) 2)
  | 0x1050 => some (trackWord (Sparse.find s.cor.view (s.rf R.cor_TRK_SEL 0 10)) 3)
  | 0x1064 =>
    let v := s.rf R.cor_VTX_SEL 0 12
    some (w32 (Sparse.get (fun _ => 0) s.cor.target v + s.pubOf v * 2 ^ 16))
  | _ => none

/-- R262 and the COR page: a write value that is refused with BAD_VALUE. -/
def corBad (off : Nat) (v : Word) : Bool :=
  if off = 0x040 then decide (fld v 8 8 = 0) || decide (128 < fld v 8 8) || decide (fld v 16 9 = 0) || decide (256 < fld v 16 9)
  else if off = 0x05C then decide (fld v 0 10 = 0) || decide (1000 < fld v 0 10) || decide (fld v 16 16 = 0)
  else if off = 0x070 then decide (1024 < fld v 0 11)
  else if 0x100 ≤ off ∧ off < 0x200 then decide (1000 < fld v 0 10) || decide (1000 < fld v 16 10)
  else false

/-- GRAPH_CTRL and POLICY_CTRL written as registers: their bits act in the order CHECK, ARM, DISARM. -/
def State.corCtrl (s : State) (m : Master) (off : Nat) (v : Word) : Option State :=
  if off = 0x054 then
    let s := if tst v 0 && decide (s.cor.check = 0) then { s with cor := { s.cor with check := 1 } } else s
    let s := if tst v 1 then State.corErr (s.armSwap (s.rd R.cor_GRAPH_AT)) off m else s
    some (if tst v 2 then s.disarm else s)
  else if off = 0x078 then some (if tst v 0 then State.corErr (s.policyCommit (s.rd R.cor_POLICY_AT)) off m else s)
  else none

end Sys2Proof.Machine
end

