-- ==== Sys2Proof/Machine/Mesh.lean ====
section
/-! DEFINITION. Frames that the firmware sends over the mesh, and the routes they take (R170-R173, R210, R211, R213). -/

namespace Sys2Proof.Machine

open Sys2Proof

/-! ### Received frames -/

/-- The header of a received frame. -/
def airHdr (x : AirRx) : Hdr := parseHdr x.frame

/-- The plaintext payload of a received frame. -/
def airPay (x : AirRx) : Bytes := x.frame.drop (airHdr x).len

/-- The node that a frame comes from: ORIG where it came over several hops, SRC otherwise. -/
def airFrom (x : AirRx) : Nat := let h := airHdr x; if h.mhop then h.orig % 4096 else h.src % 4096

/-- The frame is for this module: FINAL is its index where MHOP is set. -/
def State.airMine (s : State) (x : AirRx) : Bool := let h := airHdr x; !h.mhop || decide (h.fin % 4096 = s.ownIndex)

/-- The opcode of a COMMAND frame, and its arguments. -/
def airOpc (x : AirRx) : Nat := le (airPay x) 0 2
def airArgs (x : AirRx) : Bytes := (airPay x).drop 2

/-! ### Building frames -/

/-- A PSDU without FCS, with room for CTR and MIC, which LNK fills (R184): type, ACK_REQ, KEYSEL and GEN, DST and FINAL with TTL where it is an MHOP frame. -/
def State.frameOf (s : State) (typ : Nat) (ack : Bool) (keysel gen dst : Nat) (hop : Option (Nat × Nat)) (pay : Bytes) : Bytes :=
  let f := typ + b2n ack * 16 + (if hop.isSome then 32 else 0)
  let h : Hdr := ⟨f, typeLevel typ + keysel * 8 + gen * 16, s.net.seg, dst, s.ownIndex, 0, (hop.getD (0, 0)).1, (hop.getD (0, 0)).2, 0⟩
  h.bytes ++ pay ++ zeros 8

/-- ORIG, and FINAL with the TTL of an originator (R173). -/
def State.hopTo (s : State) (final : Nat) : Option (Nat × Nat) := some (s.ownIndex, final + 15 * 4096)

/-- BCN_NODE.PARENT. -/
def State.parentIx (s : State) : Nat := s.rf R.bcn_BCN_NODE 8 12

/-- R210: a node sends an MHOP frame of its own to the head, through its parent, in a contention slot. An orphan sends none (R222). -/
def State.sendUp (s : State) (typ : Nat) (ack : Bool) (pay : Bytes) : State :=
  if !s.isNode || !s.hasIndex || s.placeless then s
  else s.fwSend s.upRadio 0 ack none (s.frameOf typ ack 0 0 s.parentIx (s.hopTo 0) pay)

/-- A COMMAND payload. -/
def command (opc : Nat) (args : Bytes) : Bytes := toLe 2 opc ++ args

/-! ### Children and routes (R210, R213) -/

/-- The child of an index. -/
def State.child (s : State) (i : Nat) : Option Child := s.net.children.find? fun c => c.index = i

/-- The node row of an index, at the head. -/
def State.nodeRow (s : State) (i : Nat) : Option NodeRow := if i = 0 then none else s.net.nodes.find? fun n => n.index = i

/-- R210: climb the parents that the head holds from a node up to the head's own child. -/
def climb (s : State) : Nat → Nat → Option Nat
  | 0, _ => none
  | n + 1, i =>
    match s.nodeRow i with
    | none => none
    | some r => if r.parent = 0 then some i else climb s n r.parent

/-- R210: the child to which a downward frame for a node goes. -/
def State.downHop (s : State) (final : Nat) : Option Nat :=
  if (s.child final).isSome then some final
  else match Sparse.find s.net.routes final with
    | some c => some c
    | none => if s.isHead then climb s 17 final else none

/-- Count a downward frame that has no route. -/
def State.noRoute (s : State) : State := { s with net := { s.net with dropped := s.net.dropped + 1 } }

/-- R213: give a frame to a child: a sleepy child's frame is held, at most four. -/
def State.toChild (s : State) (c : Child) (ack : Bool) (psdu : Bytes) : State :=
  if c.sleepy then
    if 4 ≤ c.held.length then s.noRoute
    else { s with net := { s.net with children := s.net.children.map fun x => if x.index = c.index then { x with held := x.held ++ [(psdu, s.tick)] } else x } }
  else s.fwSend c.radio 0 ack none psdu

/-- R210: send a frame of the module's own downward to a node. -/
def State.sendDown (s : State) (final typ : Nat) (ack : Bool) (keysel gen : Nat) (pay : Bytes) : State :=
  match s.downHop final with
  | none => s.noRoute
  | some c => match s.child c with
    | none => s.noRoute
    | some ch => s.toChild ch ack (s.frameOf typ ack keysel gen c (s.hopTo final) pay)

/-- A COMMAND frame from the head to a node. -/
def State.commandTo (s : State) (final opc : Nat) (args : Bytes) : State := s.sendDown final 8 true 0 0 (command opc args)

/-! ### Frames under node keys, direct or in a TUNNEL (R194, R216) -/

/-- A frame from the head under a node key of generation g: short DST, or the identity of a new device. -/
def State.nkFrame (s : State) (typ g : Nat) (ack : Bool) (long : Bool) (r : NodeRow) (pay : Bytes) : Bytes :=
  let h : Hdr := ⟨typ + b2n ack * 16 + b2n long * 128, 6 + 8 + g % 2 * 16, s.net.seg, if long then r.ident.toNat else r.index, s.ownIndex, 0, 0, 0, 0⟩
  h.bytes ++ pay ++ zeros 8

/-- Send such a frame through a parent: on the head's own radio, or secured, where LNK secures frames (R46), and carried in a TUNNEL to the parent. -/
def State.sendVia (s : State) (parent ridx : Nat) (ack : Bool) (psdu : Bytes) : State :=
  if parent = 0 then s.fwSend ridx 0 ack none psdu
  else if !s.lnkTakes then s
  else match s.secure psdu 0 with
    | .done t b => t.sendDown parent 11 true 0 0 b
    | _ => s

/-- R373: the segment key of a generation, where its slot lets it travel in a KEY frame (XPORT). -/
def State.skeyOut (s : State) (g : Nat) : Option Bytes :=
  match s.slot (s.rf R.lnk_LNK_KEYS0 (if g = 0 then 0 else 8) 6) with
  | some x => if tst x.attr 9 && tst x.attr 11 then some x.key else none
  | none => none

/-- A KEY frame with a segment key for a node. -/
def State.sendSegKey (s : State) (r : NodeRow) (g : Nat) : State :=
  match s.skeyOut g with
  | none => s
  | some k => s.sendVia r.parent r.ridx true (s.nkFrame 10 r.nkGen true false r (toLe 1 0 ++ toLe 1 g ++ k))

/-- R194 step 1: the head sends the segment key of a generation to every joined node. -/
def State.sendSegKeys (s : State) (g : Nat) : State :=
  (s.net.nodes.filter fun r => decide (r.st = 3)).foldl (fun (t : State) r => t.sendSegKey r g) s

/-- The forwarded form of a frame: a new frame of the relay's own with TTL one lower, given DST (R173). -/
def State.relayed (s : State) (h : Hdr) (dst : Nat) (pay : Bytes) : Bytes :=
  s.frameOf h.typ h.ackReq h.keysel h.gen dst (some (h.orig, h.fin % 4096 + (h.fin / 4096 - 1) * 4096)) pay

/-- R210, R173: forward an MHOP frame that is not for this module. Upward frames record ORIG against the child that sent them. -/
def State.forwardMhop (s : State) (x : AirRx) : State :=
  let h := airHdr x
  if !h.mhop || !s.hasIndex then s else
  let fromChild := (s.child (h.src % 4096)).isSome
  let s := if fromChild then { s with net := { s.net with routes := Sparse.put s.net.routes (h.orig % 4096) (h.src % 4096) } } else s
  if s.airMine x || h.fin / 4096 = 0 then s
  else if h.fin % 4096 = 0 then
    if s.isHead || s.placeless then s
    else s.fwSend s.upRadio 0 h.ackReq none (s.relayed h s.parentIx (airPay x))
  else match s.downHop (h.fin % 4096) with
    | none => s.noRoute
    | some c => match s.child c with
      | none => s.noRoute
      | some ch => s.toChild ch h.ackReq (s.relayed h c (airPay x))

/-- R211: a sleepy child's single-hop report goes on as the parent's own MHOP frame. -/
def State.forwardSleepy (s : State) (x : AirRx) : State :=
  let h := airHdr x
  match s.child (h.src % 4096) with
  | none => s
  | some c =>
    if !c.sleepy || h.mhop || !(h.typ = 5 || h.typ = 6 || h.typ = 7) || s.isHead then s
    else s.fwSend s.upRadio 0 h.ackReq none (s.frameOf h.typ h.ackReq 0 0 s.parentIx (some (c.index, 15 * 4096)) (airPay x))

/-- MHOP_FORWARD: an accepted frame that a relay passes on. -/
def execMhopForward (x : AirRx) (s : State) : Host.Outcome State Fault Refusal :=
  .next (if (airHdr x).mhop then s.forwardMhop x else s.forwardSleepy x)

end Sys2Proof.Machine
end

