-- ==== Sys2Proof/Machine/Level.lean ====
section
/-! DEFINITION. Level codes, stripe frames, waves, forwarding and fades (R265-R275, R281, R285, R492). -/

namespace Sys2Proof.Machine

open Sys2Proof

/-! ### The level code (R265) and the fade (R274, R275) -/

/-- The number of decimal digits of n after the first, among `fuel`. -/
def log10 : Nat → Nat → Nat
  | 0, _ => 0
  | f + 1, n => if n < 10 then 0 else log10 f (n / 10) + 1

/-- R265: the code of a COR level: 1 + round(253/3 × log10 L), halves up, so 1 plus the largest m with 10^(6m - 3) ≤ L^506. -/
def levelCode (l : Nat) : Nat := if l = 0 then 0 else 1 + (log10 1600 (l ^ 506) + 3) / 6

/-- R274: N(c), the fade length in ticks. -/
def fadeLen (c : Nat) : Nat :=
  [0, 25, 28, 31, 34, 38, 42, 46, 51, 57, 63, 70, 78, 86, 96, 106,
   118, 130, 144, 160, 178, 197, 218, 242, 268, 297, 330, 366, 405, 449, 498, 552,
   612, 679, 753, 835, 925, 1026, 1137, 1261, 1398, 1550, 1718, 1905, 2112, 2342, 2596, 2879,
   3191, 3538, 3923, 4349, 4822, 5346, 5927, 6571, 7286, 8077, 8955, 9929, 11008, 12204, 13530, 15000].getD (c % 64) 0

/-- R275: v(i), in 1/256 of a code. -/
def fadeValue (s t n i : Nat) : Nat :=
  if n = 0 ∨ n ≤ i then t else ((s : Int) + Int.tdiv (((t : Int) - s) * i) n).toNat

/-- R275: what a fade shows i ticks after its apply tick: off is 0. -/
def fadeAt (f : Fade) (i : Nat) : Nat := if f.code = 0 ∧ f.n ≤ i then 0 else fadeValue f.s f.t f.n i

/-- The value that a list of fades, newest first, gave `back` edges before the last one; off before the first of them. -/
def shownBack (back : Nat) : List Fade → Nat
  | [] => 0
  | f :: r => if back + f.i0 ≤ f.i then fadeAt f (f.i - back) else shownBack back r

/-- What the lamp shows `back` edges before the last one. -/
def State.lampBack (s : State) (back : Nat) : Nat := shownBack back (s.lvl.fade.toList ++ s.lvl.past)

/-- The target that the lamp shows or fades to. -/
def State.lampTarget (s : State) : Nat := match s.lvl.fade with | none => 0 | some f => f.code

/-- R273 step 5, R275: start a fade, i ticks after its apply tick, from the value shown at that tick. The fades before it are kept as long as an apply tick can name their edges (R7). Code 255 changes nothing (R265), and in the error state the lamp holds its level (R390). -/
def State.startFade (s : State) (code fade i : Nat) : State :=
  if code = 255 || s.cryError then s else
  let v := s.lampBack i
  { s with lvl := { s.lvl with fade := some ⟨if v = 0 then 256 else v, if code = 0 then 256 else 256 * code, fadeLen fade, i, code, fade % 64, i⟩,
                               past := (s.lvl.fade.toList ++ s.lvl.past).filter fun f => decide (f.i < 2 ^ 31)
                               nonzero := if code = 0 then s.lvl.nonzero else code } }

/-- R273 step 5: a level change applied late is counted and raises LATE. -/
def State.lateLevel (s : State) : State := (s.bumpSat R.lvl_LATE_CNT 1).irq .lvl 2

/-- Start a fade at the edge of tick k whose apply tick was `apply`. -/
def State.fadeFrom (s : State) (code fade apply k : Nat) (late : Bool) : State :=
  let t := s.startFade code fade (k - apply)
  if late then t.lateLevel else t

/-! ### Epochs -/

/-- EPOCH.CUR. -/
def State.epoch (s : State) : Nat := s.rf R.lvl_EPOCH 0 16

/-- MODE_CUR.OPMODE. -/
def State.opmode (s : State) : Nat := s.rf R.lvl_MODE_CUR 0 2

/-- The serial difference of two epochs, as R7 does with 16 bits. -/
def epochDiff (a b : Nat) : Int := sgn 16 (a + 65536 - b % 65536)

/-- R267: the epoch and the mode in force at a tick: those of an announced change whose C is at or before it. -/
def State.modeAt (s : State) (k : Nat) : Nat × Nat :=
  match s.lvl.ann with
  | some a => if a.c ≤ k then (a.epoch, a.mode.op) else (s.epoch, s.opmode)
  | none => (s.epoch, s.opmode)

/-! ### Changes at a node (R273) -/

/-- Insert a change in the order of APPLY. -/
def insChange (c : LvlChange) : List LvlChange → List LvlChange
  | [] => [c]
  | x :: r => if c.apply < x.apply then c :: x :: r else x :: insChange c r

/-- R273 step 2: with five changes kept, the earliest that is not yet forced goes at the next edge. -/
def forceFirst : List LvlChange → List LvlChange
  | [] => []
  | x :: r => if x.force then x :: forceFirst r else { x with force := true } :: r

/-- R273 steps 2 and 3: take a change into the pending ones. -/
def State.pendChange (s : State) (c : LvlChange) : State :=
  let l := s.lvl.pend
  if l.any fun x => x.apply = c.apply then { s with lvl := { s.lvl with pend := l.map fun x => if x.apply = c.apply then { c with force := x.force } else x } }
  else
    let tgt := match l.getLast? with | some x => x.code | none => s.lampTarget
    if c.code = tgt then s
    else
      let l' := insChange c l
      { s with lvl := { s.lvl with pend := if 4 < (l'.filter fun x => !x.force).length then forceFirst l' else l' } }

/-- R273: a stripe payload that covers the module's index: take its own CODE. -/
def State.takeStripe (s : State) (p : Bytes) : State :=
  if byteAt p 0 % 64 ≠ s.ownIndex / 64 then s else
  let a := leWord p 4
  let code := byteAt p (8 + s.ownIndex % 64)
  if !s.timeFor a then s.noTime .lvl a
  else if 4096 < tickDiff a s.tick32 then s.bumpSat R.lvl_BAD_APPLY 1
  else if code = 255 then s
  else s.pendChange ⟨s.fullTick a, code, byteAt p 1 % 64, le p 2 2, false⟩

/-- R273 steps 2 and 4: act on a change at the edge of tick k: none where it is kept. One that is forced before its APPLY counts in LATE_CNT. -/
def State.performChange (s : State) (k : Nat) (c : LvlChange) : State × Option LvlChange :=
  let d := epochDiff c.epoch s.epoch
  if 0 < d then (s, some c)
  else if d < 0 ∨ s.opmode ≠ 0 then (s.bumpSat R.lvl_STALE_EPOCH 1, none)
  else
    let t := s.fadeFrom c.code c.fade (min c.apply k) k (decide (c.apply < k))
    (if c.force && decide (k ≤ c.apply) then t.bumpSat R.lvl_LATE_CNT 1 else t, none)

/-- Perform the due changes of an edge, earliest first. -/
def performAll (k : Nat) : List LvlChange → State → State × List LvlChange
  | [], s => (s, [])
  | c :: r, s =>
    if c.apply ≤ k ∨ c.force then
      let x := s.performChange k c
      let y := performAll k r x.1
      (y.1, match x.2 with | some d => d :: y.2 | none => y.2)
    else
      let y := performAll k r s
      (y.1, c :: y.2)

/-- R24 step 3: the level changes due at the edge of tick k. -/
def State.levelEdge (s : State) (k : Nat) : State :=
  let r := performAll k s.lvl.pend { s with lvl := { s.lvl with pend := [] } }
  { r.1 with lvl := { r.1.lvl with pend := r.2 } }

/-- R22, R275: a tick edge moves the fade on by n ticks. -/
def State.fadeStep (s : State) (n : Nat) : State :=
  { s with lvl := { s.lvl with fade := s.lvl.fade.map fun f => { f with i := f.i + n }, past := s.lvl.past.map fun f => { f with i := f.i + n } } }

/-- R275, R285: show v(i) after an edge; with LVL stopped the lamp holds. -/
def State.showLevel (s : State) : State :=
  if s.takes .lvl then { s with lvl := { s.lvl with shown := s.lampBack 0 } } else s

/-! ### The stored schedule (R281, R492) -/

/-- The valid points of the schedule: time of day, code, fade code. -/
def State.points (s : State) : List (Nat × Nat × Nat) :=
  (List.range 8).filterMap fun i =>
    let v := s.rd (R.lvl_SCHEDp i)
    if tst v 23 then some (fld v 0 17, fld v 24 8, fld v 17 6) else none

/-- Seconds since a point's time last came, at a second of the Relso day. -/
def sinceTod (sec tod : Nat) : Nat := (sec % 86400 + 86400 - tod) % 86400

/-- The point of a list whose time came last at a second. -/
def lastPoint (sec : Nat) : List (Nat × Nat × Nat) → Option (Nat × Nat × Nat)
  | [] => none
  | p :: r => match lastPoint sec r with
    | none => some p
    | some q => if sinceTod sec p.1 ≤ sinceTod sec q.1 then some p else some q

/-- R222: a node that had a place in the mesh and has lost it, until it has joined again. -/
def State.isOrphan (s : State) : Bool := s.isNode && s.placeless && decide (s.net.index ≠ 0)

/-- R281: the module follows its stored schedule: in SCHEDULE mode, or as an orphan. -/
def State.followsSchedule (s : State) : Bool := decide (s.opmode = 2) || s.isOrphan

/-- R281: a stored point comes into force at the first tick edge at or after its time. -/
def State.schedulePoint (s : State) : State :=
  if !s.takes .lvl || !s.holds || s.repeated || !s.followsSchedule then s else
  let sec := s.tick / 250
  match lastPoint sec s.points with
  | none => s
  | some p => if sinceTod sec p.1 < sec - s.lvl.prevTick / 250 then s.startFade p.2.1 p.2.2 0 else s

/-- SCHEDULE_POINT. -/
def execSchedulePoint (s : State) : Host.Outcome State Fault Refusal := .next s.schedulePoint

/-- The default mode of the strap band (R35): 0 dark, 1 photocell, 2 always-on. -/
def State.strapMode (s : State) : Nat := [0, 1, 2, 1, 0, 1, 2, 1, 0, 1, 1, 1, 1, 0, 0, 1].getD (s.rf R.rst_STRAP 0 4) 0

/-- R492: a module without a valid stored point follows its strap mode where it would follow its schedule. -/
def State.noSchedule (s : State) : State :=
  if !s.takes .lvl || !s.followsSchedule || !s.points.isEmpty then s else
  let lit := s.strapMode = 2 ∨ (s.strapMode = 1 ∧ s.fsw.steadyDark)
  if lit then (if s.lampTarget = 0 ∧ s.lvl.shown = 0 then s.startFade s.lvl.nonzero (s.rf R.lvl_FADE_CFG 0 6) 0 else s)
  else if s.lampTarget = 0 then s else s.startFade 0 (s.rf R.lvl_FADE_CFG 8 6) 0

/-- R492: a module that follows its strap mode because it has no stored point, and is to be lit, returns with the UP fade where its lamp has come to show 0. -/
def State.litAgain (s : State) : State := if decide (s.lampTarget = 0) && decide (s.lvl.shown = 0) && decide (s.strapMode ≠ 0) then s.noSchedule else s

/-- The firmware's copy in settings group 2 (R285). -/
def State.lvlCopy (s : State) : State :=
  { s with lvl := { s.lvl with copy := some (s.rd R.lvl_EPOCH, s.rd R.lvl_MODE_CUR, (List.range 8).map fun i => s.rd (R.lvl_SCHEDp i)) } }

/-- R285: a module start: at a cold start the registers take the copy, at a warm start the copy is rewritten. -/
def State.lvlStart (s : State) (cold : Bool) : State :=
  match s.lvl.copy with
  | none => s.lvlCopy
  | some (e, m, l) =>
    if !cold then s.lvlCopy
    else
      let s := (List.range 8).foldl (fun (t : State) i => t.wr (R.lvl_SCHEDp i) (l.getD i 0)) ((s.wr R.lvl_EPOCH e).wr R.lvl_MODE_CUR m)
      if s.isHead then s.wr R.bcn_BCN_EPOCH (w32 (fld e 0 16)) else s

/-- R286: SCHED_SET: the points of the arguments replace the stored ones; a point outside its range is not valid. -/
def State.schedSet (s : State) (a : Bytes) : State :=
  let n := min (byteAt a 0) 8
  let word (i : Nat) : Word :=
    let tod := le a (1 + 6 * i) 4
    if i < n ∧ tod ≤ 86399 then w32 (tod + byteAt a (6 + 6 * i) % 64 * 2 ^ 17 + 2 ^ 23 + byteAt a (5 + 6 * i) * 2 ^ 24) else 0
  ((List.range 8).foldl (fun (t : State) i => t.wr (R.lvl_SCHEDp i) (word i)) s).lvlCopy

/-- SCHED_SET: a node takes the schedule that the head sends. -/
def execSchedSet (x : AirRx) (s : State) : Host.Outcome State Fault Refusal :=
  .next (if s.isNode && !s.inReset .lvl && s.airMine x && decide (airOpc x = 0x0512) then s.schedSet (airArgs x) else s)

/-! ### Stripe frames (R266, R267) -/

/-- The code that a stripe carries for a node: 255 where it is invalid, has no lamp, or is not published since a reset. -/
def State.stripeCode (s : State) (g : Sparse Byte) (v : Nat) : Nat :=
  if s.graphValid && gValid g v && gLamp g v && decide (s.pubOf v ≠ 1023) then levelCode (s.pubOf v) else 255

/-- The 64 codes of a stripe. -/
def State.stripeCodes (s : State) (n : Nat) : Bytes :=
  (List.range 64).flatMap fun i => toLe 1 (s.stripeCode s.graph (64 * n + i))

/-- R266: a stripe payload. -/
def State.stripePayload (s : State) (n : Nat) (refresh : Bool) (fade epoch : Nat) (apply : Word) : Bytes :=
  toLe 1 (n % 64 + b2n refresh * 64) ++ toLe 1 (fade % 64) ++ toLe 2 epoch ++ toLe 4 apply.toNat ++ s.stripeCodes n

/-- A stripe holds a lamp. -/
def State.stripeLamp (s : State) (n : Nat) : Bool :=
  s.graphValid && (List.range 64).any fun i => gValid s.graph (64 * n + i) && gLamp s.graph (64 * n + i)

/-- Put a frame in the queue: in the place of an older frame of its stripe, or behind the others. -/
def putStripe (e : StripeQ) : List StripeQ → List StripeQ
  | [] => [e]
  | x :: r => if x.stripe = e.stripe then e :: r else x :: putStripe e r

/-- Build and queue the frame of a stripe as a change; the head takes its own entry of stripe 0. -/
def State.queueStripe (s : State) (n fade epoch : Nat) (apply : Word) : State :=
  let p := s.stripePayload n false fade epoch apply
  let s := { s with lvl := { s.lvl with queue := putStripe ⟨n, p, s.tick⟩ s.lvl.queue, last := Sparse.put s.lvl.last n (apply, fade) } }
  if n = 0 then s.takeStripe p else s

/-- R271: a stripe has changed while frames are withheld: its APPLY and FADE are kept for the refresh. -/
def State.noteStripe (s : State) (n fade : Nat) (apply : Word) : State := { s with lvl := { s.lvl with last := Sparse.put s.lvl.last n (apply, fade) } }

/-- R267: build the stripe frames of a publication in tick k; none while the mode in force at k + L is not LIVE. -/
def State.buildStripes (s : State) (k : Nat) (l : List (Nat × Bool)) : State :=
  let at' := k + s.rf R.lvl_LVL_CFG 0 8
  let m := s.modeAt at'
  if !s.takes .lvl || !s.isHead then s else
  (List.range 64).foldl (fun (t : State) n =>
    let own := l.filter fun p => p.1 / 64 = n
    let fade := t.rf R.lvl_FADE_CFG (if own.any fun p => p.2 then 0 else 8) 6
    if own.isEmpty then t
    else if m.2 ≠ 0 then t.noteStripe n fade (w32 at')
    else t.queueStripe n fade m.1 (w32 at')) s

/-- LEVEL_PUBLISH: at 1,700 µs COR publishes or discards, and LVL builds the stripe frames. -/
def execLevelPublish (s : State) : Host.Outcome State Fault Refusal :=
  .next (let r := s.corFinish; r.1.buildStripes s.tick r.2)

/-! ### Waves (R268-R271, R277) -/

/-- R277: a MODE payload. -/
def modePayload (epoch c : Nat) (m : SegMode) (cancel : Bool) (chunk : Nat) : Bytes :=
  let h := m.hop.getD []
  toLe 2 epoch ++ toLe 4 (c % 2 ^ 32) ++ toLe 1 (b2n cancel + b2n m.genCh * 2 + b2n m.hop.isSome * 4) ++ toLe 1 (m.op % 4) ++ toLe 1 m.fixed ++
  toLe 1 (m.mfade % 64) ++ toLe 1 (m.gen % 2) ++ toLe 1 h.length ++ toLe 1 chunk ++ toLe 1 0 ++
  (List.range 16).flatMap fun i => toLe 2 (h.getD (16 * chunk + i) 0)

/-- R278: the hop-list chunk of a superframe. -/
def chunkOf (m : SegMode) (sf : Nat) : Nat :=
  match m.hop with
  | none => 0
  | some h => if h.isEmpty then 0 else sf % cdiv h.length 16

/-- R278: the announced change has a MODE wave due in tick k: in its eight superframes, from tick 32, once in each. -/
def Announce.due (a : Announce) (k : Nat) : Bool :=
  decide (32 ≤ k % 256) && decide (a.sent ≠ some (k / 256)) && decide (a.c ≤ (k / 256 + 8) * 256) && decide (k < a.c) && decide (a.since < k)

/-- R278 step 5: a cancelled change has a CANCEL frame due in tick k, secured before its edge (R268). -/
def Cancelled.due (x : Cancelled) (k : Nat) : Bool :=
  decide (k < x.c) && decide (x.since < k) && (x.once || (decide (32 ≤ k % 256) && decide (x.sent ≠ some (k / 256))))

/-- R278: the MODE frame due in tick k: that of the announced change, or a CANCEL frame. -/
def State.modeDueAt (s : State) (k : Nat) : Option Bytes :=
  match s.lvl.ann.filter fun a => a.due k with
  | some a => some (modePayload a.epoch a.c a.mode false (chunkOf a.mode (k / 256)))
  | none => (s.lvl.gone.find? fun x => x.due k).map fun x => modePayload x.epoch x.c x.mode true (chunkOf x.mode (k / 256))

/-- The MODE frame due now. -/
def State.modeDue (s : State) : Option Bytes := s.modeDueAt s.tick

/-- The MODE frame of this superframe has been sent. -/
def State.modeSent (s : State) : State :=
  match s.lvl.ann.filter fun a => a.due s.tick with
  | some a => { s with lvl := { s.lvl with ann := some { a with sent := some s.sf } } }
  | none => { s with lvl := { s.lvl with gone := (s.lvl.gone.filter fun x => !(x.once && x.due s.tick)).map fun x => if x.due s.tick then { x with sent := some s.sf } else x } }

/-- R268: a wave may start in tick k. -/
def State.waveAllowedAt (s : State) (k : Nat) : Bool :=
  s.takes .lvl && s.isHead && s.onNet && !s.repeated &&
  (match s.lvl.wave with | some w => decide (w + 4 ≤ k) | none => true) &&
  (decide (13 < k % 256) || (match s.lvl.early with | some e => decide (e + 1 ≠ k / 256) | none => true))

/-- R268: a wave may start in this tick. -/
def State.waveAllowed (s : State) : Bool := s.waveAllowedAt s.tick

/-- R271: the stripe of the refresh wave that may start now: the next one with a lamp, in round robin. -/
def State.refreshStripe (s : State) : Option Nat :=
  let n := s.rf R.lvl_LVL_CFG 16 8
  if decide (n = 0) || !s.lvl.queue.isEmpty || decide (s.opmode ≠ 0) || (match s.lvl.refresh with | some f => decide (s.sf < f + n) | none => false) then none
  else ((List.range 64).map fun i => (s.lvl.robin + i) % 64).find? fun i => s.stripeLamp i

/-- R271: the payload of a refresh; the APPLY and FADE of a stripe that has not changed since the start lie open. -/
def State.refreshPayload (s : State) (n : Nat) : Bytes :=
  let l := (Sparse.find s.lvl.last n).getD (Config.freeWord s.free, (Config.freeBelow s.free 63).val)
  s.stripePayload n true l.2 s.epoch l.1

/-- R268, R271: at the edge of tick k a head builds the refresh frame that is due, so that it is secured before a later edge; one that has become out of date is built again. -/
def State.freshBuild (s : State) (k : Nat) : State :=
  if !s.isHead || !s.takes .lvl then s
  else match s.refreshStripe with
    | none => { s with lvl := { s.lvl with fresh := none } }
    | some n =>
      let keep := s.lvl.fresh.any fun q => decide (q.stripe = n) && decide (q.payload.drop 8 = s.stripeCodes n) && decide (le q.payload 2 2 = s.epoch % 65536) &&
        (match Sparse.find s.lvl.last n with | some l => decide (leWord q.payload 4 = l.1) | none => true)
      if keep then s else { s with lvl := { s.lvl with fresh := some ⟨n, s.refreshPayload n, k⟩ } }.draw 1

/-- What a wave of tick k would carry: 0 a MODE frame, 1 the head of the stripe queue, 2 a refresh; with its type and payload (R268). -/
def State.waveFrameAt (s : State) (k : Nat) : Option (Nat × Nat × Bytes) :=
  match s.modeDueAt k with
  | some p => some (0, 3, p)
  | none =>
    match s.lvl.queue with
    | q :: _ => if q.built < k then some (1, 2, q.payload) else none
    | [] => match s.lvl.fresh with
      | none => none
      | some q => if q.built < k ∧ s.opmode = 0 then some (2, 2, q.payload) else none

/-- What a wave of this tick would carry. -/
def State.waveFrame (s : State) : Option (Nat × Nat × Bytes) := s.waveFrameAt s.tick

/-- R270: over `us` to `us + air` µs on radio r a transmission would overlap a flood frame that the head is due to send in one of the next ticks. -/
def State.waveDue (s : State) (r us air : Nat) : Bool :=
  (List.range 6).any fun d =>
    let k := s.tick + d
    s.waveAllowedAt k && ((s.waveFrameAt k).any fun f =>
      decide (k * 4000 + 200 < us + air) && decide (us < k * 4000 + 200 + s.airtime r (f.2.2.length + 22)))

/-- One flood frame leaves on every enabled radio, in the tick k at `us` µs of network time; the ledgers may hold it back, one longer than 10,000 µs is never sent (R146), and a reception in progress is lost (R161, R270). -/
def State.floodOut (s : State) (k us : Nat) (psdu : Bytes) : State :=
  (List.range 4).foldl (fun (t : State) r =>
    let c := t.chan r k
    let mode := t.radMode r
    let air := t.airtime r (psdu.length + 2)
    if !t.runs (radBlk r) || decide (10000 < air) then t
    else if t.takes (radBlk r) && t.chnTakes && t.chanOk c mode && t.ledgersAllow r c air true then
      let t := (t.transmit r c mode air false psdu).modRadio r fun x => { x with rx := none }
      { t with lvl := { t.lvl with spans := (r, us, us + air) :: t.lvl.spans } }
    else (t.bumpSat R.lvl_FLOOD_HELD 1).irq .lvl 1) s

/-- Take the frame that a wave carries out of its place; the head takes its own entry of a refresh of stripe 0 (R267). -/
def State.waveTaken (s : State) (kind : Nat) : State :=
  match kind with
  | 0 => s.modeSent
  | 1 => { s with lvl := { s.lvl with queue := s.lvl.queue.tail } }
  | _ => match s.lvl.fresh with
    | none => s
    | some q =>
      let t := { s with lvl := { s.lvl with refresh := some s.sf, robin := (q.stripe + 1) % 64, fresh := none } }
      if q.stripe = 0 then t.takeStripe q.payload else t

/-- Forget flood frames that ended before this tick. -/
def State.pruneSpans (s : State) : State :=
  { s with lvl := { s.lvl with spans := s.lvl.spans.filter fun p => decide (s.tick * 4000 ≤ p.2.2 + 4000) } }

/-- R268: start a wave with the frame due, 200 µs after the edge. -/
def State.waveStart (s : State) (f : Nat × Nat × Bytes) : State :=
  match s.secure (s.frameOf f.2.1 false 0 0 0xFFFF none f.2.2) ((s.tick * 4000000 + 200000) * 2 ^ 16) with
  | .wait => s
  | .cancel => s.waveTaken f.1
  | .done t psdu =>
    let t := (t.waveTaken f.1).pruneSpans
    let t := t.floodOut t.tick (t.tick * 4000 + 200) psdu
    let t := { t with lvl := { t.lvl with wave := some t.tick, early := if t.tick % 256 ≤ 13 then some t.sf else t.lvl.early } }
    ((t.bumpSat R.lvl_WAVES 1).wr R.lvl_LAST_WAVE t.tick32).irq .lvl 0

/-- WAVE_START. -/
def execWaveStart (s : State) : Host.Outcome State Fault Refusal :=
  .next (match s.waveFrame with | some f => if s.waveAllowed then s.waveStart f else s | none => s)

/-- MODE_WAVE: the wave of a MODE or CANCEL frame that is due. -/
def execModeWave (s : State) : Host.Outcome State Fault Refusal :=
  .next (match s.modeDue with | some p => if s.waveAllowed then s.waveStart (0, 3, p) else s | none => s)

/-! ### Forwarding at a relay (R269) -/

/-- The flood instant nearest a start, in ns of network time, and whether the start lies within 20 µs of it. -/
def floodInstant (start : Int) : Int × Bool :=
  let g := ((start / 65536 - 200000 + 500000) / 1000000) * 1000000 + 200000
  (g, decide ((start - g * 65536).natAbs ≤ 20000 * 65536))

/-- R269: an accepted flood frame is counted, and a relay keeps it to be forwarded 5 ms after its instant; a node without a place forwards none (R222). -/
def State.floodHeard (s : State) (x : AirRx) : State :=
  let h := airHdr x
  if h.dst ≠ 0xFFFF ∨ h.src ≠ 0 ∨ h.mhop then s else
  let s := s.bumpSat R.lvl_FLOOD_RX 1
  if !s.isNode || s.placeless || !s.takes .lvl || !s.rb R.bcn_BCN_NODE 20 || !s.rb R.lvl_LVL_CFG 8 then s else
  let g := floodInstant (s.airStart x)
  if !g.2 then s.bumpSat R.lvl_FLOOD_NOFWD 1
  else
    let us := (g.1 / 1000).toNat + 5000
    let spans := (List.range 4).filterMap fun r => if s.runs (radBlk r) then some (r, us, us + s.airtime r (x.psdu.length + 2)) else none
    let s := s.pruneSpans
    { s with lvl := { s.lvl with fwd := s.lvl.fwd ++ [⟨x.psdu, us⟩], spans := spans ++ s.lvl.spans } }

/-- R269: send the oldest flood frame that is due, unchanged, on every radio; none at a repeated tick (R489), and none from an orphan (R222). -/
def State.floodForward (s : State) : State :=
  match s.lvl.fwd with
  | [] => s
  | f :: r =>
    let s := { s with lvl := { s.lvl with fwd := r, spans := s.lvl.spans.filter fun p => p.2.1 ≠ f.us } }
    if !s.takes .lvl || !s.onNet || s.repeated || (s.isNode && s.placeless) then s else (s.floodOut (f.us / 4000) f.us f.psdu).bumpSat R.lvl_FLOOD_FWD 1

/-- FLOOD_FORWARD. -/
def execFloodForward (s : State) : Host.Outcome State Fault Refusal := .next s.floodForward

/-- STRIPE_RECEIVE: an accepted STRIPE frame: forwarded as a flood, and taken by a node whose index it covers. -/
def execStripeReceive (x : AirRx) (s : State) : Host.Outcome State Fault Refusal :=
  .next (
    let p := airPay x
    let t := (s.at x.verdict).floodHeard x
    if !t.isNode || !t.takes .lvl || decide (byteAt p 0 % 64 ≠ t.ownIndex / 64) then t
    else if (airHdr x).src ≠ 0 then t.bumpSat R.lvl_BAD_APPLY 1
    else t.takeStripe p)

/-! ### Disable, reset, registers (R285) -/

/-- R285: LVL's EN is cleared: a head discards its stripe queue. -/
def State.lvlDisable (s : State) : State :=
  { s with lvl := { s.lvl with queue := if s.isHead then [] else s.lvl.queue, fwd := [], fresh := none } }

/-- R285: LVL's EN is set: a head queues every stripe that holds a lamp as a refresh, and takes its own entry. -/
def State.lvlEnable (s : State) : State :=
  if !s.isHead || decide (s.opmode ≠ 0) then s else
  (List.range 64).foldl (fun (t : State) n =>
    if !t.stripeLamp n then t
    else
      let p := t.refreshPayload n
      let t := { t with lvl := { t.lvl with queue := putStripe ⟨n, p, t.tick⟩ t.lvl.queue } }.draw 1
      if n = 0 then t.takeStripe p else t) s

/-- The nodes whose APPLIED bit is set. -/
def State.appliedN (s : State) : Nat :=
  (List.range 128).foldl (fun n i => n + ((List.range 32).filter fun j => s.rb (R.lvl_APPLIEDi i) j).length) 0

/-- MODE_PEND and MODE_PEND_AT: the announced change in the head, the pending mode in a node. -/
def State.modePend (s : State) : Word × Word :=
  match s.lvl.ann, s.lvl.pmode with
  | some a, _ => (w32 (a.epoch + 2 ^ 16 + 2 ^ 17), w32 a.c)
  | none, some p => (w32 (p.epoch + 2 ^ 16 + b2n p.done * 2 ^ 17 + (p.chunks.foldl (fun n c => n + 2 ^ (c.1 % 4)) 0) * 2 ^ 20), w32 (p.c.getD 0))
  | none, none => (0, 0)

/-- LVL registers that show its state. -/
def State.lvlRead (s : State) (off : Nat) : Option Word :=
  match off with
  | 0x050 => some s.modePend.1
  | 0x054 => some s.modePend.2
  | 0x064 => some (w32 s.lvl.queue.length)
  | 0x06C => some (w32 (s.lvl.shown % 65536 + s.lampTarget * 2 ^ 16 + (match s.lvl.fade with | some f => f.fade | none => 0) * 2 ^ 24))
  | 0x094 => some (w32 (s.appliedN + s.lvl.late % 8192 * 2 ^ 16))
  | _ => none

/-- R285 and the LVL page: the error that refuses a write. -/
def State.lvlRefuses (s : State) (off : Nat) (v : Word) : Option Nat :=
  if off = 0x040 ∧ fld v 0 8 < 8 then some eBadValue
  else if off = 0x044 ∧ (63 < fld v 0 8 ∨ 63 < fld v 8 8) then some eBadValue
  else if (off = 0x048 ∨ off = 0x04C ∨ (0x0C0 ≤ off ∧ off < 0x0E0)) ∧ s.en .lvl then some eBusy
  else if 0x0C0 ≤ off ∧ off < 0x0E0 ∧ 86399 < fld v 0 17 then some eBadValue
  else if (off = 0x058 ∨ off = 0x05C) ∧ s.lvl.ann.isSome then some 0x80
  else none

end Sys2Proof.Machine
end

