-- ==== Sys2Proof/Machine/Modes.lean ====
section
/-! DEFINITION. Segment modes: announcement, cancellation, pending modes, coming into force, and acknowledgement (R276-R282, R286). -/

namespace Sys2Proof.Machine

open Sys2Proof

/-! ### Hop lists and generations (R282) -/

/-- The channel of a centre given in units of 25 kHz above 850 MHz. -/
def State.chanOfCentre (s : State) (v : Nat) : Option Nat :=
  (List.range 64).find? fun c => s.rb (R.chn_CHc_CFG c) 31 && decide (s.chanKhz c = 850000 + 25 * v)

/-- The channels of a hop list of centres; 64, no channel, where the table enables none with the centre. -/
def State.hopChannels (s : State) (l : List Nat) : List Nat := l.map fun v => (s.chanOfCentre v).getD 64

/-- A hop list that the firmware can stage. -/
def State.hopListOk (s : State) (l : List Nat) : Bool :=
  (l.all fun v => (s.chanOfCentre v).isSome) && !s.hopBad (s.hopChannels l) && s.hopFindable (s.hopChannels l)

/-- R282, R194: the firmware accepts both generations and arms the switch at C. -/
def State.armGen (s : State) (g c : Nat) : State :=
  ((s.wr R.lnk_LNK_GEN (s.rd R.lnk_LNK_GEN ||| 6)).wr R.lnk_GEN_AT (w32 c)).wr R.lnk_GEN_NEXT (w32 (g % 2 + 2))

/-- Withdraw an armed switch. -/
def State.disarmGen (s : State) : State := s.wr R.lnk_GEN_NEXT 0

/-- The generation used for sending. -/
def State.genCur (s : State) : Nat := s.rf R.lnk_LNK_GEN 0 1

/-- A mode that is to come into force at C is prepared: the generation is armed, and a new hop list is noted (R485). -/
def State.prepareMode (s : State) (m : SegMode) (c : Nat) : State :=
  let s := if m.gen ≠ s.genCur then s.armGen m.gen c else s
  if m.hop.isSome then { s with chn := { s.chn with hopHold := some (w32 c) } } else s

/-- A prepared mode is withdrawn. -/
def State.unprepareMode (s : State) (m : SegMode) : State :=
  let s := if m.gen ≠ s.genCur then s.disarmGen else s
  if m.hop.isSome then { s with chn := { s.chn with hopHold := none, hopNext := none } } else s

/-- The change that is to come into force at the next edge of a superframe: C and its hop list. -/
def State.nextHop (s : State) : Option (Nat × List Nat) :=
  match s.lvl.ann, s.lvl.pmode with
  | some a, _ => a.mode.hop.map fun l => (a.at', l)
  | none, some p => if p.done then p.mode.hop.map fun l => (p.at', l) else none
  | none, none => none

/-- R151: the list that the firmware stages for C is committed, or refused with SEP_VIOLATION. -/
def State.hopArm (s : State) (l : List Nat) (c : Nat) : State :=
  let t := s.stageHop l (w32 c)
  if t.hopBad l then t.err .chn 0x80 0x54 .svc
  else { t.wr R.chn_HOP_COMMIT 1 with chn := { t.chn with hopNext := some (l, w32 c) } }

/-- R282: at the edge of tick 255 before C, CHN is reset, its table loaded again and the new list staged for C. -/
def State.hopStage (s : State) : State :=
  match s.nextHop with
  | none => s
  | some (c, l) =>
    if s.tick + 1 = c ∧ c % 256 = 0 ∧ s.inReset .chn = false then
      let t := s.chnAgain
      t.hopArm (t.hopChannels l) c
    else s

/-! ### Coming into force (R276, R278, R279) -/

/-- The mode in force, as a node or a ring participant may come back to it. -/
def State.curMode (s : State) : SegMode :=
  ⟨s.opmode, s.rf R.lvl_MODE_CUR 8 8, s.rf R.lvl_MODE_CUR 16 6, s.rf R.lvl_MODE_CUR 24 1, false, s.lvl.curHop⟩

/-- R276: the mode fade at the edge of tick k; an unknown C takes it as complete (R279). -/
def State.modeFade (s : State) (m : SegMode) (c : Option Nat) (k : Nat) : State :=
  let i := match c with | some c => k - c | none => fadeLen m.mfade
  let go (s : State) (code : Nat) : State := if i = 0 then s.startFade code m.mfade 0 else (s.startFade code m.mfade i).lateLevel
  if m.op = 1 then go s m.fixed
  else if m.op = 2 then (match lastPoint (k / 250) s.points with | some p => go s p.2.1 | none => s.noSchedule)
  else s

/-- A mode takes effect late: its generation and hop list are taken at once. -/
def State.lateParts (s : State) (m : SegMode) (k : Nat) : State :=
  let s := if m.gen ≠ s.genCur then (s.armGen m.gen k).genSwitch else s
  match m.hop with
  | some l => s.hopInstall (s.hopChannels l)
  | none => s

/-- R276, R278, R279: a mode comes into force at the edge of tick k. -/
def State.comeIn (s : State) (epoch : Nat) (m : SegMode) (c : Option Nat) (k : Nat) : State :=
  let prev := (s.epoch, { s.curMode with hop := m.hop.map fun _ => s.hopCentres }, s.lvl.curC)
  let s := if c = some k then s else s.lateParts m k
  let s := (s.wr R.lvl_EPOCH (w32 (epoch % 65536 + s.epoch * 2 ^ 16))).wr R.lvl_MODE_CUR
    (w32 (m.op % 4 + m.fixed % 256 * 2 ^ 8 + m.mfade % 64 * 2 ^ 16 + m.gen % 2 * 2 ^ 24))
  let s := { s with chn := { s.chn with hopHold := none } }
  let s := { s with lvl := { s.lvl with prev := some prev, curHop := m.hop, curC := c, ahead := 0, defer := false } }
  ((s.modeFade m c k).lvlCopy).irq .lvl 3

/-- Set an APPLIED bit. -/
def State.setApplied (s : State) (i : Nat) : State := s.wb (R.lvl_APPLIEDi (i / 32)) (i % 32) true

/-- R278 step 4: the head's side: BCN_EPOCH, the APPLIED bitmap with its own bit, the reply and the event. -/
def State.headApplied (s : State) (a : Announce) : State :=
  let s := s.wr R.bcn_BCN_EPOCH (w32 a.epoch)
  let s := ((List.range 128).foldl (fun (t : State) i => t.wr (R.lvl_APPLIEDi i) 0) s).setApplied 0
  let s := { s with lvl := { s.lvl with late := 0, ann := none } }
  let s := match a.tag with
    | some g => (match s.mbx.taken.find? fun (c : Cmd) => c.e.tag = g with
      | some c => s.replyAt c stOk (w32 a.c) [] []
      | none => s)
    | none => s
  s.event 0xF500 (blkSrc .lvl) (toLe 2 a.epoch ++ toLe 4 (a.c % 2 ^ 32) ++ toLe 2 1)

/-- R284: a ring participant that has not learned the decision. -/
def State.ringDoubt (s : State) (a : Announce) : Bool := a.ring && decide (s.rf R.lvl_RING_STAT 0 3 ≠ 2)

/-- A mode that waits for tick k is due: at its tick, or after a stop of LVL at the first tick 0 (R285). -/
def State.modeReady (s : State) (at' k : Nat) : Bool := decide (at' ≤ k) && s.takes .lvl && (!s.lvl.defer || decide (k % 256 = 0))

/-- The tick of a mode passed while LVL was stopped. -/
def State.modeDefer (s : State) (at' k : Nat) : State :=
  if at' ≤ k ∧ !s.takes .lvl then { s with lvl := { s.lvl with defer := true } } else s

/-- R24 step 2: the mode change due at the edge of tick k. In-doubt participants do not apply (R284). -/
def State.modeEdge (s : State) (k : Nat) : State :=
  let s := { s with lvl := { s.lvl with gone := s.lvl.gone.filter fun x => decide (k < x.c) } }
  if s.isHead then
    match s.lvl.ann with
    | none => s
    | some a =>
      if k < a.at' then s
      else if s.ringDoubt a then (if s.rf R.lvl_RING_STAT 0 3 = 1 then s.wf R.lvl_RING_STAT 0 3 4 else s)
      else if s.modeReady a.at' k then (s.comeIn a.epoch a.mode (some a.c) k).headApplied a
      else s.modeDefer a.at' k
  else if s.isNode then
    match s.lvl.pmode with
    | none => s
    | some p =>
      if !p.done then s
      else if s.modeReady p.at' k then
        let t := s.comeIn p.epoch p.mode p.c k
        { t with lvl := { t.lvl with pmode := none, acks := t.lvl.acks ++ [(p.epoch, k, if p.rev then 2 else if p.c = some k then 0 else 1)] } }
      else s.modeDefer p.at' k
  else s

/-! ### The head announces and cancels (R278) -/

/-- R278 step 1: the next epoch: one more, skipping the numbers that cancellations have used up. -/
def nextEpoch (used : List Nat) (e : Nat) : Nat → Nat
  | 0 => (e + 1) % 65536
  | n + 1 => if used.contains ((e + 1) % 65536) then nextEpoch used ((e + 1) % 65536) n else (e + 1) % 65536

/-- R278: announce a change for C, or give the error. A change to the other key generation follows its key, which goes to the nodes first (R194 steps 1 and 3; DEDUCED, log 51). -/
def State.announce (s : State) (m : SegMode) (c : Nat) (tag : Option Word) (ring : Bool) : State × Option Nat :=
  if s.lvl.ann.isSome then (s, some 0x80)
  else if decide (2 < m.op) || decide (c % 256 ≠ 0) || decide (c < s.tick + 9 * 256) || (match m.hop with | some l => !s.hopListOk l | none => false) then (s, some eBadValue)
  else
    let e := nextEpoch s.lvl.used s.epoch s.lvl.used.length
    let live := m.op = 0 ∧ s.opmode ≠ 0
    let s := if m.gen ≠ s.genCur then s.sendSegKeys m.gen else s
    let s := { s with lvl := { s.lvl with ann := some ⟨e, c, c, m, s.tick, none, tag, ring⟩ } }.prepareMode m c
    let s := if live then (List.range 64).foldl (fun (t : State) n => if t.stripeLamp n then t.queueStripe n m.mfade e (w32 c) else t) s else s
    (s, none)

/-- The mode in MODE_STAGE. -/
def State.stagedMode (s : State) : SegMode :=
  let v := s.rd R.lvl_MODE_STAGE
  ⟨fld v 0 2, fld v 8 8, fld v 16 6, fld v 24 1, tst v 25, if tst v 26 then some s.lvl.hopData else none⟩

/-- MODE_CTRL.ANNOUNCE, in the head. -/
def State.ctrlAnnounce (s : State) (m : Master) : State :=
  let at32 := s.rd R.lvl_MODE_AT_REQ
  if !s.isHead then s
  else if !s.timeFor at32 then (s.err .lvl eNoTime 0x60 m).noTime .lvl at32
  else match s.announce s.stagedMode (s.fullTick at32) none false with
    | (t, none) => t
    | (t, some e) => t.err .lvl e 0x60 m

/-- MODE_ANNOUNCE: a write of MODE_CTRL.ANNOUNCE. -/
def execModeAnnounce (m : Master) (s : State) : Host.Outcome State Fault Refusal :=
  .next (s.writeAt .lvl 0x60 m 1 fun t => (t.ctrlAnnounce m).answer .done)

/-- Answer a mailbox command that waits, found by its tag. -/
def State.replyTag (s : State) (tag : Option Word) (status : Nat) : State :=
  match tag with
  | none => s
  | some g => match s.mbx.taken.find? fun (c : Cmd) => c.e.tag = g with
    | some c => s.reply c status [] []
    | none => s

/-- R278 step 5: withdraw the announced change: 0 none was announced, 1 withdrawn, 2 too late for any wave before C. -/
def State.cancelAnn (s : State) : State × Nat :=
  match s.lvl.ann with
  | none => (s, 0)
  | some a =>
    let first := max (s.tick + 1) (match s.lvl.wave with | some w => w + 4 | none => 0)
    if a.c ≤ first then (s, 2)
    else
      let left := decide (s.tick % 256 < 32) || decide ((s.sf + 1) * 256 < a.c)
      let x : Cancelled := ⟨a.epoch, a.c, a.mode, if s.tick % 256 < 32 then none else some s.sf, !left, s.tick⟩
      let s := { s with lvl := { s.lvl with ann := none, gone := s.lvl.gone ++ [x], used := a.epoch :: s.lvl.used } }
      ((s.unprepareMode a.mode).replyTag a.tag stCancelled, 1)

/-- MODE_CTRL.CANCEL. -/
def State.ctrlCancel (s : State) (m : Master) : State :=
  match s.cancelAnn with
  | (t, 2) => t.err .lvl 0x80 0x60 m
  | (t, _) => t

/-- MODE_CTRL_CANCEL: a write of MODE_CTRL.CANCEL. -/
def execModeCtrlCancel (m : Master) (s : State) : Host.Outcome State Fault Refusal :=
  .next (s.writeAt .lvl 0x60 m 2 fun t => (t.ctrlCancel m).answer .done)

/-- MODE_CTRL written as a register. -/
def State.modeCtrl (s : State) (m : Master) (v : Word) : State :=
  let s := if tst v 0 then s.ctrlAnnounce m else s
  if tst v 1 then s.ctrlCancel m else s

/-! ### A node's pending mode (R277, R279) -/

/-- The 16 entries of a chunk. -/
def chunkEntries (p : Bytes) : List Nat := (List.range 16).map fun i => le p (14 + 2 * i) 2

/-- The number of chunks that a pending mode needs. -/
def chunksNeeded (hopLen : Nat) : Nat := cdiv hopLen 16

/-- A pending mode with its chunks joined, once it holds all of them. -/
def PendMode.check (p : PendMode) : PendMode :=
  if p.hopLen = 0 then { p with done := true }
  else
    let n := chunksNeeded p.hopLen
    if (List.range n).all fun i => (Sparse.find p.chunks i).isSome then
      { p with done := true, mode := { p.mode with hop := some (((List.range n).flatMap fun i => (Sparse.find p.chunks i).getD []).take p.hopLen) } }
    else p

/-- The pending mode of a MODE payload. -/
def modeOf (p : Bytes) (c : Option Nat) (at' : Nat) (rev : Bool) : PendMode :=
  let f := byteAt p 6
  ⟨le p 0 2, c, at', ⟨byteAt p 7 % 4, byteAt p 8, byteAt p 9 % 64, byteAt p 10 % 2, decide (f / 2 % 2 = 1), none⟩,
    if f / 4 % 2 = 1 then byteAt p 11 else 0, [], false, rev⟩

/-- Store a pending mode, joined with what is held of the same epoch. -/
def State.storeMode (s : State) (q : PendMode) (p : Bytes) : State :=
  let s := match s.lvl.pmode with | some x => if x.epoch ≠ q.epoch ∧ x.done then s.unprepareMode x.mode else s | none => s
  let old := match s.lvl.pmode with | some x => if x.epoch = q.epoch then x else q | none => q
  let r := { old with at' := min old.at' q.at', c := q.c, chunks := if q.hopLen = 0 then [] else Sparse.put old.chunks (byteAt p 12 % 4) (chunkEntries p) }.check
  let s := { s with lvl := { s.lvl with pmode := some r } }
  if r.done && !old.done then (match r.c with | some c => if s.tick < c then s.prepareMode r.mode c else s | none => s) else s

/-- A CANCEL frame discards the pending mode of its epoch. -/
def State.dropMode (s : State) (epoch : Nat) : State :=
  match s.lvl.pmode with
  | some x => if x.epoch = epoch then { s with lvl := { s.lvl with pmode := none } }.unprepareMode x.mode else s
  | none => s

/-- R279: a node takes a flooded MODE frame: a later epoch becomes its pending mode. -/
def State.takeMode (s : State) (p : Bytes) : State :=
  let e := le p 0 2
  let c := leWord p 2
  if byteAt p 6 % 2 = 1 then s.dropMode e
  else if epochDiff e s.epoch ≤ 0 || (match s.lvl.pmode with | some x => decide (0 < epochDiff x.epoch e) | none => false) then s
  else if !s.timeFor c then s.noTime .lvl c
  else s.storeMode (modeOf p (some (s.fullTick c)) (s.fullTick c) false) p

/-- R279: the answer to MODE_GET: the epoch in force at the head is applied at the next edge. -/
def State.takeModeAnswer (s : State) (p : Bytes) : State :=
  let e := le p 0 2
  let c := leWord p 2
  if epochDiff e s.epoch = 0 then s
  else s.storeMode (modeOf p (if c = 0 then none else some (s.fullTick c)) (s.tick + 1) (decide (epochDiff e s.epoch < 0))) p

/-- MODE_RECEIVE: an accepted MODE frame: flooded, or sent to this node alone. -/
def execModeReceive (x : AirRx) (s : State) : Host.Outcome State Fault Refusal :=
  .next (
    let p := airPay x
    let t := (s.at x.verdict).floodHeard x
    if !t.isNode || t.inReset .lvl then t
    else if (airHdr x).mhop then (if !t.airMine x then t else if t.holds then t.takeModeAnswer p else t.noTime .lvl (leWord p 2))
    else t.takeMode p)

/-- R279: MODE_GET, at most once per superframe. -/
def State.sendModeGet (s : State) (b : Nat) : State :=
  if s.lvl.getSf = some s.sf then s
  else { s with lvl := { s.lvl with getSf := some s.sf } }.sendUp 8 true (command 0x0511 (toLe 2 b))

/-- R279: a node compares the epoch of its parent's beacon with its own. -/
def State.parentEpoch (s : State) (b : Nat) : State :=
  let d := epochDiff b s.epoch
  if d = 0 then { s with lvl := { s.lvl with ahead := 0 } }
  else if 0 < d then
    match s.lvl.pmode with
    | some p => if p.epoch = b ∧ p.done then { s with lvl := { s.lvl with pmode := some { p with at' := min p.at' (s.tick + 1) } } } else s.sendModeGet b
    | none => s.sendModeGet b
  else
    let n := s.lvl.ahead + 1
    let s := { s with lvl := { s.lvl with ahead := n } }
    if n < 4 then s
    else match s.lvl.prev with
      | some (e, m, c) =>
        if e = b then { s with lvl := { s.lvl with pmode := some ⟨e, c, s.tick + 1, m, 0, [], true, true⟩ } } else s.sendModeGet b
      | none => s.sendModeGet b

/-! ### Acknowledgement (R280, R486) -/

/-- MODE_ACK_SEND: in the drawn contention slot, within 32 superframes of the apply, the node sends its oldest MODE_ACK. -/
def execModeAckSend (s : State) : Host.Outcome State Fault Refusal :=
  .next (match s.lvl.acks with
    | [] => s
    | (e, k, how) :: r =>
      let t := { s with lvl := { s.lvl with acks := r } }
      if k / 256 + 32 < s.sf then t
      else if !s.holds || decide (s.tick % 256 < 32) || decide (224 ≤ s.tick % 256) then s
      else t.sendUp 8 true (command 0x0510 (toLe 2 e ++ toLe 4 (k % 2 ^ 32) ++ toLe 1 how)))

/-- R486: within 64 superframes of a takeover. -/
def State.afterTakeover (s : State) : Bool := match s.lvl.takeover with | some k => decide (s.tick < k + 64 * 256) | none => false

/-- MODE_ACK: the head marks the sender as having applied the epoch in force. -/
def execModeAck (x : AirRx) (s : State) : Host.Outcome State Fault Refusal :=
  .next (
    let a := airArgs x
    let i := airFrom x
    if !s.isHead || s.inReset .lvl || decide (airOpc x ≠ 0x0510) || decide (le a 0 2 ≠ s.epoch) then s
    else
      let new := !s.rb (R.lvl_APPLIEDi (i / 32)) (i % 32)
      let t := if new && decide (byteAt a 6 = 1) then { s with lvl := { s.lvl with late := s.lvl.late + 1 } } else s
      t.setApplied i)

/-- MODE_GET: the head answers with a MODE frame of the epoch in force for each chunk that its mode needs. -/
def execModeGet (x : AirRx) (s : State) : Host.Outcome State Fault Refusal :=
  .next (
    if !s.isHead || s.inReset .lvl || decide (airOpc x ≠ 0x0511) then s
    else if s.afterTakeover && decide (le (airArgs x) 0 2 ≠ s.epoch) then s.irq .lvl 4
    else
      let m := s.curMode
      let n := match m.hop with | some l => chunksNeeded l.length | none => 1
      (List.range n).foldl (fun (t : State) i => t.sendDown (airFrom x) 3 true 0 0 (modePayload t.epoch (t.lvl.curC.getD 0) m false i)) (s.irq .lvl 4))

/-! ### Mailbox (R286) -/

/-- R286: the mode of MODE_SET's parameters and data. -/
def modeParam (p d : Bytes) : SegMode :=
  ⟨byteAt p 0, byteAt p 1, byteAt p 2, byteAt p 3, decide (byteAt p 4 = 1),
    if byteAt p 5 = 1 then some (((List.range 64).map fun i => le d (2 * i) 2).takeWhile fun v => v ≠ 0) else none⟩

/-- The parameters lie in their ranges. -/
def modeParamOk (p : Bytes) : Bool :=
  decide (byteAt p 0 ≤ 2) && decide (byteAt p 2 ≤ 63) && decide (byteAt p 3 ≤ 1) && decide (byteAt p 4 ≤ 1) && decide (byteAt p 5 ≤ 1)

/-- The first valid C after now: tick 0 of the first superframe that begins at least n superframes later. -/
def State.firstC (s : State) (n : Nat) : Nat := cdiv (s.tick + n * 256) 256 * 256

/-- MODE_SET: request a segment mode change; the reply comes at C. -/
def execModeSet (tag : Word) (s : State) : Host.Outcome State Fault Refusal :=
  .next (s.withCmd 0x0500 tag fun c t =>
    let m := modeParam c.e.param c.bytes
    if byteAt c.e.param 5 = 1 ∧ c.e.length ≠ 128 then t.reply c stBadLength [] []
    else if !modeParamOk c.e.param then t.reply c stBadParam [] []
    else if !t.isHead || !t.takes .lvl then t.reply c stBusy [] []
    else if !t.holds then (t.noTime .lvl c.e.apply).reply c stNoTime [] []
    else
      let t := { t with lvl := { t.lvl with hopData := m.hop.getD t.lvl.hopData } }
      match t.announce m (if c.e.apply = 0 then t.firstC 9 else t.fullTick c.e.apply) (some tag) false with
      | (u, none) => u.defer c
      | (u, some e) => if e = 0x80 then u.reply c stFault (toLe 1 0x80) [] else u.reply c stBadParam [] [])

/-- MODE_CANCEL. -/
def execModeCancel (tag : Word) (s : State) : Host.Outcome State Fault Refusal :=
  .next (s.withCmd 0x0501 tag fun c t =>
    match t.cancelAnn with
    | (u, 2) => u.reply c stFault (toLe 1 0x80) []
    | (u, n) => u.reply c stOk (toLe 1 n) [])

/-- MODE_STATUS. -/
def execModeStatus (tag : Word) (s : State) : Host.Outcome State Fault Refusal :=
  .next (s.withCmd 0x0502 tag fun c t =>
    t.reply c stOk (toLe 2 t.epoch ++ toLe 2 t.appliedN ++ toLe 2 t.lvl.late) ((List.range 128).flatMap fun i => toLe 4 (t.rn (R.lvl_APPLIEDi i))))

/-- SCHED_PUSH: send up to eight points to a node. -/
def execSchedPush (tag : Word) (s : State) : Host.Outcome State Fault Refusal :=
  .next (s.withCmd 0x0504 tag fun c t =>
    let n := c.e.length / 6
    let i := c.par 0 2
    if c.e.length % 6 ≠ 0 ∨ 8 < n then t.reply c stBadLength [] []
    else if !t.isHead then t.reply c stBusy [] []
    else if !(t.net.nodes.any fun r => r.index = i && r.st = 3) || (List.range n).any (fun j => decide (86399 < le c.bytes (6 * j) 4)) then t.reply c stBadParam [] []
    else (t.commandTo i 0x0512 (toLe 1 n ++ c.bytes)).reply c stOk [] [])

/-! ### Reset (R285) -/

/-- R285: a block reset of LVL clears pending changes, the pending mode, the stripe queue, APPLIED and the ring state. -/
def State.lvlReset (s : State) : State :=
  let s := match s.lvl.ann with | some a => (s.replyTag a.tag stCancelled).unprepareMode a.mode | none => s
  let s := match s.lvl.pmode with | some p => s.unprepareMode p.mode | none => s
  { s with lvl := { s.lvl with pend := [], queue := [], fwd := [], spans := [], ann := none, gone := [], pmode := none, acks := [], late := 0, ahead := 0, defer := false, fresh := none } }

end Sys2Proof.Machine
end

