-- ==== Sys2Proof/Machine/Beacon.lean ====
section
/-! DEFINITION. Beacons: cost, guard, building and sending, reception, misses, orphans and the search for a parent (R201-R209, R212, R215, R221-R224, R491), and the request to join (R216). -/

namespace Sys2Proof.Machine

open Sys2Proof

/-- ORIGIN(SF) in units of 2^-16 ns (R231). -/
def origin16 (sf : Nat) : Nat := sf * sf16 + 200000 * 2 ^ 16

/-- Set STATE and MISSES; reaching TRACKING raises SYNCED. -/
def State.setBcn (s : State) (st m : Nat) : State :=
  let t := (s.wf R.bcn_BCN_STAT 0 3 st).wf R.bcn_BCN_STAT 4 4 (min m 15)
  if st = 4 ∧ s.bcnState ≠ 4 then t.irq .bcn 2 else t

/-! ### Cost and guard (R207, R212) -/

/-- The sum of margins. -/
def marginSum (l : List Int) : Int := l.foldl (fun a x => a + x) 0

/-- R207: the link cost of a mean margin; none below 6 dB or with no beacon heard. -/
def linkCost (l : List Int) : Option Nat :=
  let n : Int := l.length
  let m := marginSum l
  if l.isEmpty then none else if 20 * n ≤ m then some 1 else if 12 * n ≤ m then some 2 else if 6 * n ≤ m then some 4 else none

/-- R207: COST: 0 for the head, 255 while the parent's mean margin is below 6 dB. -/
def State.pathCost (s : State) : Nat :=
  if s.isHead then 0
  else match linkCost s.bcn.margins with
    | some c => min 255 (s.bcn.cost + c)
    | none => 255

/-- A mean margin in whole dB; where it is not whole, the rounding lies open. -/
def State.meanDb (s : State) (l : List Int) : Int :=
  let n : Int := l.length
  if l.isEmpty then 0 else marginSum l / n + (if marginSum l % n = 0 then 0 else if Config.freeBit s.free then 1 else 0)

/-- R212, R221: a beacon that starts at an instant of superframe sf lies in the parent window. -/
def State.inWindow (s : State) (sf : Nat) (start : Int) (c : DWord) : Bool :=
  let w : Int := (sf * sf16 + 2 * (s.depth - 1) * tick16 : Nat)
  if s.fullWindow then decide (w ≤ start) && decide (start < w + 2 * tick16)
  else decide ((start - (w + (s.bcn.pos.getD 0 * tick16 + 200000 * 2 ^ 16 : Nat))).natAbs ≤ s.guardNow c)

/-! ### Building and sending (R203-R205, R231, R232) -/

/-- R205: where in the superframe this module sends its beacon: a head with BEACON_EN at tick 0, a relay that tracks or misses at its position. -/
def State.bcnTick (s : State) : Option Nat :=
  if s.isHead then (if s.rb R.bcn_BCN_CFG 0 && !(s.fov.probe.isSome && (s.ibg.upE || s.ibg.upW)) then some 0 else none)
  else if s.isNode && s.rb R.bcn_BCN_NODE 20 && decide (1 ≤ s.depth) && decide (s.depth ≤ 15) && decide (4 ≤ s.bcnState) && decide (s.bcnState ≤ 6) then
    some (2 * s.depth + b2n (s.rb R.bcn_BCN_NODE 5))
  else none

/-- R30: the radios are calibrated: some radio runs, and every running one has its synthesiser locked. -/
def State.radiosReady (s : State) : Bool :=
  ((List.range 4).any fun r => s.runs (radBlk r)) && (List.range 4).all fun r => !s.runs (radBlk r) || !s.rb (hdr (radBlk r) oRaw) 4

/-- R30: at the edge of tick 255 it is noted whether the firmware runs, the radios are calibrated and network time is held. -/
def State.bcnReady (s : State) (k : Nat) : State :=
  if k % 256 ≠ 255 then s
  else { s with bcn := { s.bcn with ready := if decide (s.boot.stage = .booted) && s.radiosReady && s.onNet then some (k / 256) else none } }

/-- The hop-list entries of a chunk, in units of 25 kHz above 850 MHz; 0 beyond the list. -/
def State.hopChunk (s : State) (chunk : Nat) : Bytes :=
  let h := s.hopCentres
  (List.range 8).flatMap fun i => toLe 2 (h.getD (8 * chunk + i) 0)

/-- R204: the payload of a superframe's beacon on a radio, with CORR in units of 2^-16 ns. -/
def State.bcnPayload (s : State) (sf r : Nat) (corr : Int) : Bytes :=
  let n := s.chn.hop.length
  let chunk := sf % max 1 (cdiv n 8)
  let cfg := s.rd (R.rad_RAD_CFG r)
  toLe 4 sf ++
  toLe 1 (s.depth + b2n (s.rb R.bcn_BCN_CFG 1) * 32 + b2n (s.rb R.bcn_BCN_CFG 2) * 64) ++
  toLe 1 (r + b2n (!s.isHead && s.rb R.bcn_BCN_NODE 5) * 4 + chunk * 8) ++
  toLe 2 (if s.isHead then s.rf R.bcn_BCN_EPOCH 0 16 else s.epoch) ++
  toLe 6 (unsgn 48 corr) ++ toLe 1 s.tq ++ toLe 1 s.pathCost ++
  toLe 1 (fld cfg 0 2 + b2n (tst cfg 3) * 4 + b2n (tst cfg 2) * 8 + b2n (tst cfg 4) * 16) ++
  toLe 1 (fld cfg 8 5 + fld cfg 13 3 * 32) ++ toLe 1 n ++ toLe 1 0 ++ s.hopChunk chunk

/-- BCN_TPL.BUF: where the built payload stands in packet SRAM. -/
def State.bcnBuf (s : State) : Nat := s.rf R.bcn_BCN_TPL 0 16 * 64

/-- BEACON_BUILD: in a tick 255 that began ready, the firmware builds the next superframe's payload in packet SRAM (R30, R205). -/
def execBeaconBuild (s : State) : Host.Outcome State Fault Refusal :=
  .next (
    if decide (s.bcn.ready = some s.sf) && s.takes .bcn && s.bcnTick.isSome && decide (s.tick % 256 = 255) then
      { s.sramWrite s.bcnBuf (s.bcnPayload (s.sf + 1) 0 0) with bcn := { s.bcn with built := some (s.sf + 1) } }
    else s)

/-- R204, R205: the payload sent on a radio: the one built, with this radio's index and settings, and what is in force as it is sent: epoch, CORR and hop list. -/
def State.bcnSent (s : State) (built : Bytes) (r : Nat) (corr : Int) : Bytes :=
  let now := s.bcnPayload s.sf r corr
  built.take 5 ++ slice now 5 9 ++ slice built 14 2 ++ now.drop 16

/-- R231, R232: CORR of a beacon that starts at counter value C_tx. -/
def State.corrOut (s : State) (c : DWord) : Int :=
  if s.isHead then 0
  else match s.ntm.corr with
    | some (ci, cr, sf) =>
      if sf = s.sf then ci + s.linkD + ((c - cr).toNat : Int) * 2 ^ 18 * (2 ^ 48 + s.rate) / 2 ^ 48
      else (s.nt c : Int) - origin16 s.sf
    | none => (s.nt c : Int) - origin16 s.sf

/-- A transmission on radio r over `us` to `us + air` µs would overlap a flood frame that is sent, received or due on it (R270). -/
def State.floodOver (s : State) (r us air : Nat) : Bool :=
  (s.lvl.spans.any fun p => decide (p.1 = r) && decide (p.2.1 < us + air) && decide (us < p.2.2)) || s.waveDue r us air

/-- The beacon on one radio: held back by the ledgers, or sent on the channel of tick 2d (R161, R162, R203). -/
def State.bcnOut (s : State) (r : Nat) (c : DWord) (built : Bytes) : State :=
  if !s.runs (radBlk r) then s else
  let us := s.tick * 4000 + 200
  let air := s.bcnAirtime r 58
  let ch := s.chan r (s.tick - s.tick % 2)
  if s.floodOver r us air then s.bumpSat R.lvl_BCN_YIELD 1
  else if s.takes (radBlk r) && s.chnTakes && s.chanOk ch 2 && s.ledgersAllow r ch air false then
    match s.secure (s.frameOf 1 false 0 0 0xFFFF none (s.bcnSent built r (s.corrOut c))) ((s.tick * 4000000 + 200000) * 2 ^ 16) with
    | .done t psdu => ((t.transmit r ch 2 air true psdu).modRadio r fun x => { x with rx := none }).bumpSat R.bcn_BCN_TX 1
    | _ => s
  else ((s.bumpSat R.bcn_BCN_HELD 1).irq .bcn 3).heldBack r

/-- This superframe's beacon is due: its payload is built, and its position has come. -/
def State.bcnDue (s : State) : Bool :=
  s.takes .bcn && s.onNet && !s.repeated && decide (s.bcnTick = some (s.tick % 256)) && decide (s.bcn.built = some s.sf) && decide (s.bcn.quiet ≠ some s.sf) && s.lnkTakes

/-- The beacon goes out on every radio; a built payload that packet SRAM cannot give is not sent (R135). -/
def State.bcnSend (s : State) (c : DWord) : State :=
  let t := ({ s with bcn := { s.bcn with built := none } }).sramSeen s.bcnBuf 36
  match t.sramRead t.bcnBuf 36 with
  | some b => (List.range 4).foldl (fun (u : State) r => u.bcnOut r c b) t
  | none => t

/-- BEACON_SEND: at its position a head or relay sends its beacon on every radio; `c` is C_tx. -/
def execBeaconSend (c : DWord) (s : State) : Host.Outcome State Fault Refusal :=
  .next (if s.bcnDue then (s.at c).bcnSend c else s.at c)

/-! ### The request to join (R208, R215, R216) -/

/-- A candidate holds every chunk of its hop list. -/
def Cand.full (c : Cand) : Bool := decide (0 < c.hopLen) && (List.range c.hopLen).all fun i => (Sparse.find c.hop i).isSome

/-- R208: a candidate that may be asked. -/
def State.candOk (s : State) (c : Cand) : Bool :=
  c.joinOk && decide (c.depth ≤ 15) && (linkCost c.margins).isSome && !c.tried &&
  (match s.bcn.retryAt with | some r => decide (c.seg ≠ r.1) || decide (r.2 ≤ s.sf) | none => true)

/-- R208: the rank of a candidate, lower first: cost, depth, then margin downward, then index; candidates of the held segment come first. -/
def State.candBefore (s : State) (a b : Cand) : Bool :=
  let home (c : Cand) : Nat := if s.net.seg ≠ 0 ∧ c.seg = s.net.seg then 0 else 1
  let cost (c : Cand) : Nat := c.cost + (linkCost c.margins).getD 255
  if home a ≠ home b then decide (home a < home b)
  else if cost a ≠ cost b then decide (cost a < cost b)
  else if a.depth ≠ b.depth then decide (a.depth < b.depth)
  else if marginSum a.margins * b.margins.length ≠ marginSum b.margins * a.margins.length then
    decide (marginSum b.margins * a.margins.length < marginSum a.margins * b.margins.length)
  else decide (a.index < b.index)

/-- R208: the best candidate of those for which f holds. -/
def State.bestCand (s : State) (f : Cand → Bool) : Option Cand :=
  (s.bcn.cands.filter fun c => s.candOk c && f c).foldl (fun (a : Option Cand) c => match a with
    | none => some c
    | some b => if s.candBefore c b then some c else some b) none

/-- The firmware version that STATUS frames and joins report. -/
def State.fwVersion (s : State) : Nat := s.rn R.upd_RUN_VER

/-- R216: the JOIN_REQ payload. -/
def State.joinPayload (s : State) (parent : Nat) (margins : List Int) (rejoin : Bool) : Bytes :=
  toLe 1 1 ++ toLe 1 (b2n rejoin * 2 + 4 + 8) ++ toLe 2 parent ++ toLe 1 (unsgn 8 (clampI (-128) 127 (s.meanDb margins))) ++
  toLe 1 (min 255 (cdiv (s.rf R.bcn_BCN_DRIFT 0 16) 250)) ++ toLe 1 (b2n (s.skey 0).isSome + b2n (s.skey 1).isSome * 2) ++ toLe 1 3 ++
  toLe 4 s.fwVersion ++ toLe 2 (if rejoin then s.net.index else 0)

/-- R216 step 1: ask a parent: JOIN_REQ under the node key, with LSRC = 1 and no acknowledgement. -/
def State.askParent (s : State) (radio seg parent : Nat) (margins : List Int) : State :=
  let rejoin := decide (s.net.index ≠ 0) && decide (seg = s.net.seg)
  let h : Hdr := ⟨9 + 64, 6 + 8 + s.net.nkGen % 2 * 16, seg, parent, s.modId.ident.toNat, 0, 0, 0, 0⟩
  let s := s.fwSend radio 0 false none (h.bytes ++ s.joinPayload parent margins rejoin ++ zeros 8)
  { s with bcn := { s.bcn with asked := some (parent, seg, s.sf), gather := none } }.setBcn 3 0

/-- R215: start to scan. -/
def State.startScan (s : State) : State :=
  { s with bcn := { s.bcn with asked := none, gather := none, cands := [], scan := 0, scanAt := s.tick } }.setBcn 1 0

/-- Ask the best candidate of those for which f holds, or scan. -/
def State.askBest (s : State) (f : Cand → Bool) : State :=
  match s.bestCand f with
  | some c => s.askParent c.radio c.seg c.index c.margins
  | none => s.startScan

/-! ### Reception (R203, R215, R221, R233) -/

/-- R231: the full superframe number nearest the module's own. -/
def sfNear (cur low : Nat) : Nat := ((cur : Int) + sgn 32 ((low + 2 ^ 32 - cur % 2 ^ 32) % 2 ^ 32)).toNat

/-- R233: the time error that a beacon gives. -/
def State.bcnError (s : State) (x : AirRx) (sf : Nat) : Int :=
  (origin16 sf : Int) + sgn 48 (le (airPay x) 8 6) + s.linkD - s.airStart x

/-- R233, R239, R243: a time measurement from a beacon, with its bound, where beacons are the source. -/
def State.bcnMeasure (s : State) (x : AirRx) (sf : Nat) : State :=
  if s.rf R.ntm_NTM_CFG 0 2 ≠ 3 then s
  else { s.setBase (some (32 * (byteAt (airPay x) 14 % 64) + 50)) with ntm := { (s.setBase (some (32 * (byteAt (airPay x) 14 % 64) + 50))).ntm with measured := true } }.measure
    (s.bcnError x sf) (s.airCnt x)

/-- R223: a standby notes the superframe in which it hears the head at position 0, on RAD0. -/
def State.standbyBeacon (s : State) (seg : Nat) (x : AirRx) (sf : Nat) : State :=
  let h := airHdr x
  if x.radio.val = 0 ∧ h.src = 0 ∧ h.seg = seg ∧ byteAt (airPay x) 5 / 4 % 2 = 0 then
    let s := { s with bcn := { s.bcn with headSfs := (sf :: s.bcn.headSfs).take 8 } }
    (s.wr R.bcn_SF_LAST (w32 sf)).bumpSat R.bcn_BCN_RX 1
  else s

/-- R224: a window that was open when EN was cleared has finished. -/
def State.endWindow (s : State) : State :=
  match s.bcn.win with
  | some _ => ({ s with bcn := { s.bcn with win := none } }).setDrained .bcn
  | none => s

/-- R221: a beacon accepted from the parent in its window. -/
def State.parentBeacon (s : State) (x : AirRx) (sf : Nat) : State :=
  let p := airPay x
  let c := s.airCnt x
  if (airHdr x).src ≠ s.parentIx ∨ x.radio.val ≠ s.upRadio ∨ s.bcn.heardSf = some sf ∨ !s.inWindow sf (s.airStart x) c then s else
  let b := { s.bcn with
    heardSf := some sf, margins := (x.margin :: s.bcn.margins).take 4, pos := some (byteAt p 5 / 4 % 2), cost := byteAt p 15, lastCnt := c
    quiet := if s.bcnState = 2 then some sf else s.bcn.quiet }
  let s := { s with bcn := b, ntm := { s.ntm with corr := some (sgn 48 (le p 8 6), c, sf) } }
  let s := ((s.wr R.bcn_SF_LAST (w32 sf)).bumpSat R.bcn_BCN_RX 1).bcnMeasure x sf
  ((s.setBcn 4 0).parentEpoch (le p 6 2)).endWindow

/-- What a search keeps of a beacon: joined with what is held of the same sender. -/
def candOf (x : AirRx) (old : Option Cand) : Cand :=
  let p := airPay x
  let h := airHdr x
  let chunk := byteAt p 5 / 8 % 8
  let n := byteAt p 18
  let hop := (List.range 8).foldl (fun (l : Sparse Nat) i => if 8 * chunk + i < n then Sparse.put l (8 * chunk + i) (le p (20 + 2 * i) 2) else l)
    (match old with | some c => if c.hopLen = n then c.hop else [] | none => [])
  ⟨h.src % 4096, h.seg, x.radio.val, byteAt p 4 % 32, byteAt p 15, decide (byteAt p 4 / 32 % 2 = 1),
    (x.margin :: (match old with | some c => c.margins | none => [])).take 4, n, hop, (byteAt p 16, byteAt p 17), h.gen,
    match old with | some c => c.tried | none => false⟩

/-- The sender is a candidate. -/
def sameCand (x : AirRx) (c : Cand) : Bool := let h := airHdr x; decide (c.index = h.src % 4096) && decide (c.seg = h.seg) && decide (c.radio = x.radio.val)

/-- Keep a candidate. -/
def State.keepCand (s : State) (x : AirRx) : State × Cand :=
  let c := candOf x (s.bcn.cands.find? fun d => sameCand x d)
  ({ s with bcn := { s.bcn with cands := c :: s.bcn.cands.filter fun d => !sameCand x d } }, c)

/-- R215: the radio settings and the hop list of a candidate are loaded; a list that CHN cannot take is refused (R151). -/
def State.loadPhy (s : State) (c : Cand) : State :=
  let l := (List.range c.hopLen).map fun i => (Sparse.find c.hop i).getD 0
  let b := c.phy.1
  let v := b % 4 + b / 4 % 2 * 8 + b / 8 % 2 * 4 + b / 16 % 2 * 16
  let a := R.rad_RAD_CFG c.radio
  let t := ((s.wf a 0 5 v).wf a 8 5 (c.phy.2 % 32)).wf a 13 3 (c.phy.2 / 32 % 8)
  t.hopInstall (t.hopChannels l)

/-- R215, R222: a search hears a beacon. A device that holds no time takes it from the beacon; a scan stays on its candidate until it holds the hop list, and then asks. -/
def State.searchBeacon (s : State) (x : AirRx) (sf : Nat) : State :=
  let st := s.bcnState
  if st = 7 ∧ (airHdr x).seg ≠ s.net.seg then s else
  let s := if s.holds then s else s.bcnMeasure x sf
  let r := s.keepCand x
  let s := r.1
  let s := if st = 1 then { s with bcn := { s.bcn with gather := some (r.2.index, r.2.seg), listen := sf } }.setBcn 2 0 else s
  if (st = 1 ∨ st = 2) ∧ s.bcn.gather = some (r.2.index, r.2.seg) ∧ r.2.full then (s.loadPhy r.2).askBest fun c => c.full
  else s

/-- BEACON_RECEIVE (R18, R215, R221). -/
def State.beaconRx (s : State) (x : AirRx) : State :=
  let h := airHdr x
  if !(s.takes .bcn || s.bcn.win.isSome) || decide (h.typ ≠ 1) || h.mhop || decide ((airPay x).length ≠ 36) then s else
  let low := le (airPay x) 0 4
  let sf := if s.holds then sfNear (s.airStart x / sf16).toNat low else low
  if s.isStandby then s.standbyBeacon (s.rf R.fov_FOV_CFG 0 16) x sf
  else if s.isHead && s.fov.probe.isSome then s.standbyBeacon s.net.seg x sf
  else if !s.isNode || decide (s.bcnState = 0) then s
  else if s.placeless then s.searchBeacon x sf
  else s.parentBeacon x sf

/-- BEACON_RECEIVE. -/
def execBeaconReceive (x : AirRx) (s : State) : Host.Outcome State Fault Refusal := .next ((s.at x.verdict).beaconRx x)

/-! ### Misses, orphans and the scan (R215, R221, R222) -/

/-- R222: the node becomes an orphan. -/
def State.becomeOrphan (s : State) (m : Nat) : State :=
  let s := (((s.setBcn 7 m).bumpSat R.bcn_ORPHAN_CNT 1).irq .bcn 1).noSchedule
  { s with bcn := { s.bcn with listen := s.sf, cands := [], asked := none, gather := none }, net := { s.net with orphaned := true } }

/-- R221, R491: this superframe's parent window has ended without an accepted beacon. -/
def State.beaconMiss (s : State) (c : DWord) : State :=
  let st := s.bcnState
  if !(s.takes .bcn || s.bcn.win.isSome) || !s.isNode || !s.onNet || s.repeated || s.placeless || decide (st = 0) || decide (s.tick % 256 ≠ 2 * s.depth) || decide (s.bcn.heardSf = some s.sf) then s
  else
    let m := s.rf R.bcn_BCN_STAT 4 4 + 1
    let s := ((s.bumpSat R.bcn_BCN_MISS 1).irq .bcn 0).loseSource c 1
    (if 3 ≤ m then s.becomeOrphan m else s.setBcn (if st = 2 then 2 else 4 + m) m).endWindow

/-- BEACON_MISS: at the end of the parent's window. -/
def execBeaconMiss (c : DWord) (s : State) : Host.Outcome State Fault Refusal := .next ((s.at c).beaconMiss c)

/-- ORPHAN_LISTEN_END: after four superframes an orphan asks its best candidate, or starts to scan. -/
def execOrphanListenEnd (s : State) : Host.Outcome State Fault Refusal :=
  .next (if s.isNode && decide (s.bcnState = 7) && s.takes .bcn && decide (s.bcn.listen + 4 ≤ s.sf) then s.askBest fun c => decide (c.seg = s.net.seg) else s)

/-- SCAN_STEP: a scanning device moves to the next centre after two superframes; one whose candidate has not shown its hop list in eight superframes scans again; a node that has no place and no search begins one. -/
def execScanStep (s : State) : Host.Outcome State Fault Refusal :=
  .next (
    if !s.isNode || !s.takes .bcn then s
    else if s.bcnState = 1 then
      if s.bcn.scanAt + 512 ≤ s.tick then { s with bcn := { s.bcn with scan := (s.bcn.scan + 1) % max 1 s.scanList.length, scanAt := s.tick } } else s
    else if s.bcnState = 2 ∧ s.bcn.gather.isSome ∧ s.bcn.listen + 8 < s.sf then s.startScan
    else if s.bcnState = 0 ∧ s.net.index = 0 then s.startScan
    else s)

/-! ### Registers (R203, R224, R491) -/

/-- R491: BCN_NODE of a joined node is written while STATE is OFF; the record of its parent, where DRAM has lost it, comes back with its mirror (R191). -/
def State.bcnLearn (s : State) : State :=
  if s.isNode && s.hasIndex && decide (s.bcnState = 0) && decide (s.depth ≠ 0) then
    let t := if s.parentIx = 0 || (s.recRead (2 * s.parentIx)).any recLive then s else s.recRestore s.net.parentId s.parentIx 0 none
    { t with bcn := { t.bcn with pos := none, heardSf := none, margins := [], quiet := none } }.setBcn 2 0
  else s

/-- A write of BCN_NODE. -/
def State.bcnNodeWrite (s : State) (m : Master) (v : Word) : State :=
  if s.en .bcn then s.err .bcn eBusy 0x44 m
  else if 16 < fld v 0 5 ∨ (fld v 0 5 = 16 ∧ tst v 20) then s.err .bcn eBadValue 0x44 m
  else (s.wr R.bcn_BCN_NODE (v &&& 0x1FFFFF)).bcnLearn

/-- BCN_NODE_WRITE: a write of BCN_NODE. -/
def execBcnNodeWrite (m : Master) (v : Word) (s : State) : Host.Outcome State Fault Refusal :=
  .next (s.writeAt .bcn 0x44 m v fun t => (t.bcnNodeWrite m v).answer .done)

/-- GUARD in µs. -/
def State.guardUs (s : State) : Nat :=
  let st := s.bcnState
  if !s.isNode || s.placeless || decide (st = 0) then 0
  else if s.fullWindow then 8000
  else min 65535 (cdiv (s.guardNow s.cnt) (1000 * 2 ^ 16))

/-- BCN registers that show its state. -/
def State.bcnRead (s : State) (off : Nat) : Option Word :=
  if off = 0x54 then some (w32 (s.bcnState + s.rf R.bcn_BCN_STAT 4 4 * 2 ^ 4 + s.pathCost * 2 ^ 8))
  else if off = 0x5C then some (w32 s.guardUs)
  else if off = 0x60 then some (w32 (unsgn 8 (s.meanDb s.bcn.margins)))
  else none

/-- BCN registers with a rule of their own. -/
def State.bcnWrite (s : State) (m : Master) (off : Nat) (v : Word) : Option State :=
  if off = 0x40 then
    if tst v 0 && s.chn.hop.any fun c => !s.rb (R.chn_CHc_CFG c) 22 then some (s.err .bcn 0x80 off m) else none
  else if off = 0x44 then some (s.bcnNodeWrite m v)
  else if off = 0x48 then (if s.en .bcn then some (s.err .bcn eBusy off m) else none)
  else none

/-- R224: a parent window is open on a node: from the edge of tick 2(d - 1) until its beacon is accepted or the window ends. -/
def State.windowOpen (s : State) : Bool :=
  s.isNode && s.onNet && !s.placeless && decide (s.bcnState ≠ 0) && decide (s.bcn.heardSf ≠ some s.sf) &&
  decide (s.windowTick ≤ s.tick) && decide (s.tick < s.windowTick + 2)

/-- R224: EN is cleared or DRAIN set: a window that is open finishes. -/
def State.bcnStop (s : State) : State := if s.windowOpen then { s with bcn := { s.bcn with win := some s.sf } } else s

/-- R224: a block reset ends the window and returns STATE to OFF. -/
def State.bcnReset (s : State) : State :=
  { s with bcn := ⟨[], none, none, 0, none, none, 0, [], 0, 0, [], none, none, s.bcn.retryAt, none, 0, none⟩ }.setBcn 0 0

end Sys2Proof.Machine
end

