-- ==== Sys2Proof/Machine/HostIf.lean ====
section
/-! DEFINITION. The host interface: refused accesses, interrupts, the DRAM aperture, host presence and the mailbox rings (R56-R81). -/

namespace Sys2Proof.Machine

open Sys2Proof

/-! ### Configuration space (R56, R57) -/

/-- The values of R56 that the configuration space shows at the places that PCI Express gives them, by byte offset of a word (PRESUMED, log 49): Vendor and Device ID, command and status, Revision ID and class code, the BARs of R57 with their types and sizes, and the Subsystem ID. -/
def State.cfgRead (s : State) (off : Nat) : Option Word :=
  if off = 0x00 then some 0x48001F3C
  else if off = 0x04 then some (w32 (4 * b2n s.host.bme))
  else if off = 0x08 then some 0x118000A1
  else if off = 0x10 then some (w32 (s.host.bar0.toNat % 2 ^ 32 + 0x4))
  else if off = 0x14 then some (w32 (s.host.bar0.toNat / 2 ^ 32))
  else if off = 0x18 then some (w32 (s.host.bar2.toNat % 2 ^ 32 + 0xC))
  else if off = 0x1C then some (w32 (s.host.bar2.toNat / 2 ^ 32))
  else if off = 0x20 ∨ off = 0x24 then some 0
  else if off = 0x2C then some (if s.modId.variantB then 0x480B1F3C else 0x480A1F3C)
  else none

/-- The size of BAR0, 16 MiB, and of BAR2, 256 MiB: the address bits below it read as 0 (R57). -/
abbrev bar0Size : Nat := 0x1000000
abbrev bar2Size : Nat := 0x10000000

/-- A base address with one half written and the bits below its size kept 0. -/
def barPut (old : DWord) (size : Nat) (high : Bool) (v : Word) : DWord :=
  let n := if high then old.toNat % 2 ^ 32 + v.toNat * 2 ^ 32 else old.toNat / 2 ^ 32 * 2 ^ 32 + v.toNat
  BitVec.ofNat 64 (n / size * size)

/-- A write of a configuration-space word: Bus Master Enable and the BARs (R57). No row of the command table carries one; `execHostSeen` and `execHostLost` carry Bus Master Enable. -/
def State.cfgWrite (s : State) (off : Nat) (v : Word) : State :=
  let h := s.host
  if off = 0x04 then { s with host := { h with bme := tst v 2 } }
  else if off = 0x10 then { s with host := { h with bar0 := barPut h.bar0 bar0Size false v } }
  else if off = 0x14 then { s with host := { h with bar0 := barPut h.bar0 bar0Size true v } }
  else if off = 0x18 then { s with host := { h with bar2 := barPut h.bar2 bar2Size false v } }
  else if off = 0x1C then { s with host := { h with bar2 := barPut h.bar2 bar2Size true v } }
  else s

/-- The capabilities of the function (R56). -/
inductive PciCap where
  | pciExpress | msix | powerManagement | advancedErrors
  deriving DecidableEq, Repr

/-- What the endpoint offers: its capabilities, and the largest payload and read request in bytes. INTx, MSI, SR-IOV, ASPM L0s and L1 PM substates are not among them (R56). -/
def pciCaps : List PciCap := [.pciExpress, .msix, .powerManagement, .advancedErrors]
abbrev maxPayload : Nat := 256
abbrev maxReadReq : Nat := 512

/-! ### Accesses that take no effect (R9, R58, R66) -/

/-- Show an address with an error of SYS (R66). ERR_CODE keeps its first error; ERR_ADDR shows the address of the last one (DESIGN CHOICE, log 49). -/
def State.sysErr (s : State) (code a : Nat) (m : Master) : State :=
  (s.err .sys code (a % 0x1000) m).wr64 R.sys_ERR_ADDR_LO R.sys_ERR_ADDR_HI a

/-- The MSI-X table and the PBA (R63). -/
def isMsix (a : Nat) : Bool := (decide (0xF00000 ≤ a) && decide (a < 0xF00400)) || (decide (0xF01000 ≤ a) && decide (a < 0xF01008))

/-- R66: BAR0 is unmapped at an address. -/
def unmapped (a : Nat) : Bool := (blkOfPage (a / 0x1000)).isNone && !isMsix a

/-- R66: an access to an unmapped address: the read gives 0, the write is ignored, and either is recorded. -/
def State.unmappedAccess (s : State) (m : Master) (wr : Bool) (a : Nat) : State :=
  if s.inReset .sys then s.answer (resetResp m) else (s.sysErr eUnmapped a m).answer (if wr then .done else .data 0)

/-- UNMAPPED_ACCESS. -/
def execUnmappedAccess (m : Master) (wr : Bool) (addr : Nat) (v : Word) (s : State) : Host.Outcome State Fault Refusal :=
  .next (match busOff m addr with
    | some a => if unmapped a then s.barReq m (if wr then .write a v else .read a) fun t => t.unmappedAccess m wr a else s
    | none => s)

/-- R9: an access narrower than 32 bits: recorded in the page it names. The MSI-X structures have no page header: there SYS records it (DESIGN CHOICE, log 49). -/
def State.narrow (s : State) (m : Master) (wr : Bool) (a : Nat) : State :=
  let code := if wr then eNarrowWrite else eNarrowRead
  match blkOfPage (a / 0x1000) with
  | some (b, _) => s.onPage b (a % 0x1000) m fun t => (t.err b code (a % 0x1000) m).answer (if wr then .done else .data 0)
  | none =>
    if isMsix a then s.onPage .sys (a % 0x1000) m fun t => (t.err .sys code (a % 0x1000) m).answer (if wr then .done else .data 0)
    else s.unmappedAccess m wr a

/-- NARROW_WRITE. -/
def execNarrowWrite (m : Master) (addr : Nat) (_v : Word) (s : State) : Host.Outcome State Fault Refusal :=
  .next (match busOff m addr with | some a => s.barReq m (.narrow true a) fun t => t.narrow m true a | none => s)

/-- NARROW_READ. -/
def execNarrowRead (m : Master) (addr : Nat) (s : State) : Host.Outcome State Fault Refusal :=
  .next (match busOff m addr with | some a => s.barReq m (.narrow false a) fun t => t.narrow m false a | none => s)

/-- R58: a longer request completes with Unsupported Request, or is dropped if it is a write. -/
def State.multiDw (s : State) (wr : Bool) (addr : Nat) : State :=
  if s.inReset .sys then s.answer (resetResp .host) else (s.sysErr eMultiDw addr .host).answer (if wr then .done else .unsupported)

/-- MULTI_DW. -/
def execMultiDw (wr : Bool) (addr : Nat) (_words : List Word) (s : State) : Host.Outcome State Fault Refusal :=
  .next (s.barReq .host (.multiDw wr addr) fun t => t.multiDw wr addr)

/-! ### Pages that may deny the host (R384) -/

/-- A write to a page: dropped while its block is in reset (R47), ignored and recorded as SRC_DENIED where approved mode closes the page to the host (R384). -/
def State.pageWrite (s : State) (b : Blk) (off : Nat) (m : Master) (f : State → State) : State :=
  s.onPage b off m fun t => (if t.hostDenied b m off then t.err b 0x80 off m else f t).answer .done

/-- A write of a header register of a block, as a request to BAR0. -/
def State.hdrReq (s : State) (b : Blk) (off : Nat) (m : Master) (v : Word) (f : State → State) : State :=
  s.barReq m (.write (hdr b off) v) fun t => t.pageWrite b off m f

/-- IRQ_CLEAR: a W1C write of IRQ_RAW. -/
def execIrqClear (m : Master) (b : Blk) (v : Word) (s : State) : Host.Outcome State Fault Refusal :=
  .next (s.hdrReq b oRaw m v fun t => t.irqClear b v)

/-- IRQ_FORCE: a write of IRQ_FORCE. -/
def execIrqForce (m : Master) (b : Blk) (v : Word) (s : State) : Host.Outcome State Fault Refusal :=
  .next (s.hdrReq b 0x2C m v fun t => t.irqBits b v)

/-- PAGE_LOCK: a write of PAGE_LOCK; the lock clears only with a reset of the block (R71). -/
def execPageLock (m : Master) (b : Blk) (v : Word) (s : State) : Host.Outcome State Fault Refusal :=
  .next (s.hdrReq b oLock m v fun t => if tst v 0 then t.wb (hdr b oLock) 0 true else t)

/-- R63: firmware raises vectors 54-63. -/
def State.swIrqSet (s : State) (v : Word) : State :=
  let old := s.rd R.sys_SW_IRQ_PEND
  let new := old ||| (v &&& 0x3FF)
  fireSw old new (List.range 10) (s.wr R.sys_SW_IRQ_PEND new)

/-- SW_IRQ_SET: a write of SW_IRQ_SET. -/
def execSwIrqSet (m : Master) (v : Word) (s : State) : Host.Outcome State Fault Refusal :=
  .next (s.writeAt .sys 0x68 m v fun t => (t.swIrqSet v).answer .done)

/-- The host clears pending firmware vectors; one that still holds fires again, as R64 has it for IRQ_RAW (DESIGN CHOICE, log 49). -/
def State.swIrqClear (s : State) (v : Word) : State :=
  let new := s.rd R.sys_SW_IRQ_PEND &&& ~~~v
  fireSwHolding new (List.range 10) (s.wr R.sys_SW_IRQ_PEND new)

/-- The condition of an MSI-X vector. -/
def State.vecNow (s : State) (v : Nat) : Bool :=
  if 54 ≤ v then s.rb R.sys_SW_IRQ_PEND (v - 54)
  else allBlks.any fun b => (blkVecs b).any fun p => decide (p.1 = v) && s.vecCond b p

/-- R64: a write of an MSI-X table word; a vector that is unmasked while its PBA bit is set fires if its condition still holds. -/
def State.msixWrite (s : State) (a : Nat) (v : Word) : State :=
  if 0xF01000 ≤ a then s
  else if a % 16 ≠ 12 then s.wr a v
  else
    let n := (a - 0xF00000) / 16
    let s := s.wr a (v &&& 1)
    if tst v 0 || !(s.host.pba.getLsbD n) then s
    else
      let s := { s with host := { s.host with pba := s.host.pba &&& ~~~(BitVec.ofNat 64 (2 ^ n)) } }
      if s.vecNow n then s.fireVec n else s

/-- A word of the MSI-X table or the PBA. -/
def State.msixRead (s : State) (a : Nat) : Word :=
  if 0xF01000 ≤ a then w32 (s.host.pba.toNat / 2 ^ (8 * (a - 0xF01000))) else s.rd a

/-! ### The DRAM aperture (R61, R62) -/

/-- The staged base. -/
def State.aptStaged (s : State) : Nat := s.rf R.sys_APT_BASE_LO 20 12 * 2 ^ 20 + s.rf R.sys_APT_BASE_HI 0 3 * 2 ^ 32

/-- R61: a commit of the staged base: it waits for its switch, or is rejected. -/
def State.aptCommit (s : State) (m : Master) (v : Word) : State :=
  if !tst v 0 then s
  else if s.host.aptNext.isSome then s.err .sys eBusy 0x58 m
  else if 0x1C0000000 < s.aptStaged + 0x10000000 then (s.wb R.sys_APT_STAT 1 true).err .sys eBadValue 0x58 m
  else { s with host := { s.host with aptNext := some s.aptStaged } }

/-- APT_COMMIT: a write of APT_CTRL. -/
def execAptCommit (m : Master) (v : Word) (s : State) : Host.Outcome State Fault Refusal :=
  .next (s.writeAt .sys 0x58 m v fun t => (t.aptCommit m v).answer .done)

/-- Serve a BAR2 access, or abort it while MEM is in reset (R47). -/
def State.bar2Serve (s : State) (x : Bar2Access) : State × Resp :=
  if s.inReset .mem then (s.err .mem eDropped 0 .host, .abort) else s.bar2 s.keyClosed x

/-- Serve the accesses that were held, oldest first. -/
def bar2Held : List Bar2Access → State → State
  | [], s => s
  | x :: r, s => let y := s.bar2Serve x; bar2Held r (y.1.emit (.bar2Done y.2))

/-! ### Host presence (R78, R80) -/

/-- R78: every outstanding command is cancelled without a reply of its own, and an MBX_RESET event is due. -/
def State.cancelAll (s : State) : State :=
  let s := { s with mbx := { s.mbx with taken := [], held := [], resetDue := true }, ntm := { s.ntm with tod := none } }
  (s.wr R.mbx_H2M_HEAD (s.rd R.mbx_H2M_TAIL)).bump R.mbx_MBX_EPOCH 1

/-- A ring is configured: LOG2_N from 4 to 10. -/
def ringUp (n : Nat) : Bool := decide (4 ≤ n) && decide (n ≤ 10)

/-- R80: the conditions under which the host counts as present. -/
def State.hostCond (s : State) : Bool :=
  s.host.linkUp && s.host.bme && ringUp (s.rf R.mbx_H2M_CFG 0 4) && ringUp (s.rf R.mbx_M2H_CFG 0 4) && s.runs .mbx &&
    s.host.beaten && decide (s.host.missed < s.rf R.sys_HOST_TIMEOUT 0 8)

/-- HOST_STAT as read. -/
def State.hostStat (s : State) : Word :=
  w32 (b2n s.host.present + 2 * b2n s.host.linkUp + 4 * b2n s.host.bme + s.host.missed * 2 ^ 8)

/-- R80, R105: the host no longer counts as present. -/
def State.hostGone (s : State) : State :=
  let s := { s with host := { s.host with present := false } }.cancelAll.hostWaresBack
  s.ledger 0xE00C 1 0x1E0 s.hostStat.toNat (s.rn R.mbx_MBX_EPOCH) 0

/-- R80: the host counts as present again; HOST_SEEN follows an MBX_RESET event that is due. The first presence after a cold start is taken for one too (DESIGN CHOICE, log 49). -/
def State.hostBack (s : State) : State :=
  let s := { s with host := { s.host with present := true } }
  if s.mbx.resetDue then { s with mbx := { s.mbx with seenDue := true } } else s.event 0xF002 0x1E0 []

/-- R80: judge the conditions anew. -/
def State.hostUpdate (s : State) : State :=
  if s.host.present && !s.hostCond then s.hostGone
  else if !s.host.present && s.hostCond then s.hostBack
  else s

/-- R80: a whole superframe has passed since the last beat. -/
def State.missBeat (s : State) : State :=
  { s with host := { s.host with missed := min (s.host.missed + 1) 255 } }.hostUpdate

/-- R80: a tick edge passes. The first one ends the tick of the beat, so a whole superframe has passed once 256 more have. -/
def State.beatEdge (s : State) : State :=
  let t := { s with host := { s.host with beatAge := s.host.beatAge + 1 } }
  if decide (0 < s.host.beatAge) && decide (s.host.beatAge % 256 = 0) then t.missBeat else t

/-- R80: a write of HOST_BEAT. -/
def State.hostBeat (s : State) : State := { s with host := { s.host with missed := 0, beatAge := 0, beaten := true } }.hostUpdate

/-- HOST_BEAT: a write of HOST_BEAT. -/
def execHostBeat (m : Master) (v : Word) (s : State) : Host.Outcome State Fault Refusal :=
  .next (s.writeAt .sys 0x70 m v fun t => t.hostBeat.answer .done)

/-- HOST_LOST: the link or Bus Master Enable changes, and the host's conditions are judged. -/
def execHostLost (linkUp bme : Bool) (s : State) : Host.Outcome State Fault Refusal :=
  .next { s with host := { s.host with linkUp := linkUp, bme := bme } }.hostUpdate

/-- HOST_SEEN: the link or Bus Master Enable changes, and the host's conditions are judged. -/
def execHostSeen (linkUp bme : Bool) (s : State) : Host.Outcome State Fault Refusal :=
  .next { s with host := { s.host with linkUp := linkUp, bme := bme } }.hostUpdate

/-- The registers of SYS and MBX that PERST# resets (R60), and the MSI-X table of the endpoint. -/
def perstRegs : List Nat :=
  [R.sys_APT_BASE_LO, R.sys_APT_BASE_HI, R.mbx_H2M_BASE_LO, R.mbx_H2M_BASE_HI, R.mbx_H2M_CFG, R.mbx_M2H_BASE_LO, R.mbx_M2H_BASE_HI, R.mbx_M2H_CFG]

/-- R60, R78, R105: PERST# resets the endpoint and the fields marked PERST#. With the endpoint go the aperture base in force, a move that waits, the BAR2 accesses held for it, the BARs, and the requests that wait behind a blocked TAKE1 read (DESIGN CHOICE, log 49). -/
def State.perst (s : State) : State :=
  let s := perstRegs.foldl (fun (t : State) a => t.wr a 0) s
  let s := { s with
    regs := s.regs.filter fun p => decide (p.1 < 0xF00000)
    host := { s.host with linkUp := false, bme := false, bar0 := 0, bar2 := 0, d3hot := false, aptBase := 0, aptNext := none, aptHeld := [], bar0Held := [], pba := 0 }
    mkt := { s.mkt with takers := s.mkt.takers.filter fun x => decide (x.2 ≠ Master.host) } }
  if s.host.present then s.hostGone else s.cancelAll.hostWaresBack

/-- PERST. -/
def execPerst (s : State) : Host.Outcome State Fault Refusal := .next s.perst

/-! ### The rings (R72-R79) -/

/-- R72: a doorbell; one that would make the ring hold more than 2^n entries is ignored. A ring that is not configured holds none (DESIGN CHOICE, log 49). -/
def State.doorbell (s : State) (m : Master) (v : Word) : State :=
  let n := s.rf R.mbx_H2M_CFG 0 4
  let room := if ringUp n then 2 ^ n else 0
  if room < (fld v 0 16 + 65536 - s.rf R.mbx_H2M_HEAD 0 16) % 65536 then s.err .mbx eBadValue 0x4C m
  else s.wr R.mbx_H2M_TAIL (v &&& 0xFFFF)

/-- MBX_DOORBELL: a write of H2M_TAIL. -/
def execMbxDoorbell (m : Master) (v : Word) (s : State) : Host.Outcome State Fault Refusal :=
  .next (s.writeAt .mbx 0x4C m v fun t => (t.doorbell m v).answer .done)

/-- R72: the host advances M2H_HEAD; a count that would leave more than 2^n entries in the ring is ignored. Replies that waited for room are written. -/
def State.m2hAdvance (s : State) (m : Master) (v : Word) : State :=
  let n := s.rf R.mbx_M2H_CFG 0 4
  let room := if ringUp n then 2 ^ n else 0
  if room < (s.rn R.mbx_M2H_TAIL + 65536 - fld v 0 16) % 65536 then s.err .mbx eBadValue 0x64 m
  else
    let s := s.wr R.mbx_M2H_HEAD (v &&& 0xFFFF)
    flushHeld (s.mbx.held.length + 1) s

/-- The opcodes that the chapters define for the host (R76). -/
def mbxOpcodes : List Nat :=
  [0x0000, 0x0001, 0x0100, 0x0101, 0x0102, 0x0200, 0x0201, 0x0202, 0x0203, 0x0400, 0x0401, 0x0402, 0x0403, 0x0500, 0x0501, 0x0502, 0x0503,
   0x0504, 0x0600, 0x0601, 0x0602, 0x0700, 0x0701, 0x0710, 0x0711, 0x0800, 0x0801, 0x0802, 0x0803, 0x0804, 0x0900, 0x0901, 0x0902, 0x0903,
   0x0904, 0x0905, 0x0906, 0x0908, 0x090A, 0x090B, 0x090C, 0x0A00, 0x0A01, 0x0A02, 0x0A03, 0x0A04] ++
  [0x0B00, 0x0B01, 0x0B02, 0x0B03, 0x0B04, 0x0B05, 0x0C00, 0x0C01, 0x0C02, 0x0C03, 0x0C04, 0x0C05, 0x0C06]

/-- Commands taken and not yet replied (R74). -/
def State.outstanding (s : State) : Nat := s.mbx.taken.length + s.mbx.held.length

/-- R74: the module can take a command: the host is present, the H2M ring holds one, fewer than 64 are outstanding, and the M2H ring is not full. -/
def State.mayTake (s : State) : Bool :=
  s.takes .mbx && s.host.present && decide (s.rf R.mbx_H2M_HEAD 0 16 ≠ s.rf R.mbx_H2M_TAIL 0 16) && decide (s.outstanding < 64) && s.m2hRoom

/-- R72: the bus address of the entry that a count refers to, in the ring of a base and a size register. -/
def State.ringAddr (s : State) (lo hi cfg count : Nat) : Nat := s.rd64 lo hi + 64 * (count % 2 ^ s.rf cfg 0 4)

/-- R72: a Porter fetches the next entry of the H2M ring, and the data that the entry names. -/
def State.fetchEntry (s : State) (e : MbxEntry) : State :=
  let s := s.emit (.hostRead (s.ringAddr R.mbx_H2M_BASE_LO R.mbx_H2M_BASE_HI R.mbx_H2M_CFG (s.rf R.mbx_H2M_HEAD 0 16)) 64)
  if e.length = 0 then s else s.emit (.hostRead e.addr.toNat e.length)

/-- R73-R76: take an entry: an unknown opcode or a length out of range is answered at once, any other command waits to be run. -/
def State.takeCmd (s : State) (e : MbxEntry) (data : Option Bytes) : State :=
  let s := s.fetchEntry e
  let s := s.wr R.mbx_H2M_HEAD (w32 ((s.rf R.mbx_H2M_HEAD 0 16 + 1) % 65536))
  let c : Cmd := ⟨e, data, s.tick32, false⟩
  let s := { s with mbx := { s.mbx with taken := s.mbx.taken ++ [c] } }
  if !mbxOpcodes.contains e.opcode then s.reply c stBadOpcode [] []
  else if 1048576 < e.length then s.reply c stBadLength [] []
  else s

/-- MBX_COMMAND_TAKE: the module takes the next entry, given as the 64 bytes that host memory holds for it, with the data fetched at ADDR or none where the fetch failed. -/
def execMbxCommandTake (raw : Bytes) (data : Option Bytes) (s : State) : Host.Outcome State Fault Refusal :=
  .next (if s.mayTake then s.takeCmd (entryOf raw) data else s)

/-- R78: the MBX_RESET event, and HOST_SEEN after it where one is due. While the M2H ring is full it waits for room: R78 asks for one such event, where R79 drops others (DESIGN CHOICE, log 49). -/
def State.mbxResetEvent (s : State) : State :=
  if !s.mbx.resetDue || !s.host.present || !s.m2hRoom then s
  else
    let seen := s.mbx.seenDue
    let s := { s with mbx := { s.mbx with resetDue := false, seenDue := false } }
    let s := s.event 0xF000 0x1E0 (toLe 4 (s.rn R.mbx_MBX_EPOCH) ++ toLe 2 (s.rn R.mbx_H2M_HEAD))
    if seen then s.event 0xF002 0x1E0 [] else s

/-- MBX_RESET: the M2H ring is configured and the host present. -/
def execMbxReset (s : State) : Host.Outcome State Fault Refusal := .next s.mbxResetEvent

/-- R79: the EVENTS_LOST event once the ring has space. EVT_LOST then counts anew from 0 (DESIGN CHOICE, log 49). -/
def State.eventsLost (s : State) : State :=
  if s.mbx.evtLost = 0 || !s.host.present || !s.m2hRoom || !s.mbx.held.isEmpty then s
  else
    let n := s.mbx.evtLost
    { s with mbx := { s.mbx with evtLost := 0 } }.event 0xF001 0x1E0 (toLe 1 n)

/-- EVENTS_LOST: space appears after dropped events. -/
def execEventsLost (s : State) : Host.Outcome State Fault Refusal := .next s.eventsLost

/-- NOP (0x0000): replies OK with PARAM echoed. -/
def execNop (tag : Word) (s : State) : Host.Outcome State Fault Refusal :=
  .next (s.withCmd 0x0000 tag fun c t => t.reply c stOk c.e.param [])

/-- R78: an MBX block reset cancels every command, and the host no longer counts as present. -/
def State.mbxReset (s : State) : State :=
  let s := { s with mbx := { s.mbx with evtLost := 0, seenDue := false } }
  if s.host.present then s.hostGone else s.cancelAll

/-- MBX_STAT as read. -/
def State.mbxStat (s : State) : Word := w32 (b2n s.host.present + s.mbx.evtLost * 2 ^ 8 + s.outstanding * 2 ^ 16)

/-- A write of a ring size: refused while MBX is enabled, and for a size out of range. -/
def State.ringCfg (s : State) (a : Nat) (m : Master) (v : Word) : State :=
  let n := fld v 0 4
  if s.en .mbx && decide (n ≠ s.rf a 0 4) then s.err .mbx eBusy (a % 0x1000) m
  else if n ≠ 0 && !ringUp n then s.err .mbx eBadValue (a % 0x1000) m
  else (s.wr a (v &&& 0xF)).hostUpdate

/-- SYS registers that show the module. -/
def State.sysRead (s : State) (off : Nat) : Option Word :=
  if off = 0x40 then some (w32 ((if s.modId.variantB then 0xB else 0xA) + 0xA100 + s.modId.boardRev.toNat * 2 ^ 16))
  else if off = 0x44 then some (w32 s.modId.ident.toNat)
  else if off = 0x48 then some (w32 (s.modId.ident.toNat / 2 ^ 32))
  else if off = 0x58 ∨ off = 0x68 ∨ off = 0x70 then some 0
  else if off = 0x5C then some (setBit (s.rd R.sys_APT_STAT) 0 s.host.aptNext.isSome)
  else if off = 0x74 then some s.hostStat
  else none

/-- SYS registers written by a rule of their own; none where the plain access type applies. -/
def State.sysWrite (s : State) (m : Master) (off : Nat) (v : Word) : Option State :=
  if off = 0x58 then some (s.aptCommit m v)
  else if off = 0x68 then some (s.swIrqSet v)
  else if off = 0x6C then some (s.swIrqClear v)
  else if off = 0x70 then some s.hostBeat
  else if off = 0x78 then some (if fld v 0 8 < 4 then s.err .sys eBadValue off m else (s.wr R.sys_HOST_TIMEOUT (v &&& 0xFF)).hostUpdate)
  else none

/-- MBX registers written by a rule of their own; none where the plain access type applies. -/
def State.mbxWrite (s : State) (m : Master) (off : Nat) (v : Word) : Option State :=
  if off = 0x48 then some (s.ringCfg R.mbx_H2M_CFG m v)
  else if off = 0x5C then some (s.ringCfg R.mbx_M2H_CFG m v)
  else if off = 0x4C then some (s.doorbell m v)
  else if off = 0x64 then some (s.m2hAdvance m v)
  else none

end Sys2Proof.Machine
end

