-- ==== Sys2Proof/Machine/Join.lean ====
section
/-! DEFINITION. Joining, enrolment, children, sleepy sensors, key frames and the link-delay exchange (R194, R195, R209-R219, R234, R235). -/

namespace Sys2Proof.Machine

open Sys2Proof

/-! ### Records and the identity index (R188, R189, R200) -/

/-- The record with VALID clear: it names nobody. -/
def State.recClear (s : State) (r : Nat) : State :=
  (match s.recRead r with
    | some b => s.recWrite r (b.take 8 ++ zeros 2 ++ b.drop 10)
    | none => s).ctxDrop fun c => decide (c.record = r)

/-- Both records of a node are invalidated. -/
def State.recFree (s : State) (index : Nat) : State := (s.recClear (2 * index)).recClear (2 * index + 1)

/-- Write both records of a node; its node key, wrapped, belongs to generation g. -/
def State.recSet (s : State) (ident : DWord) (index g : Nat) (nk : Option Bytes) : State :=
  let one (t : State) (i : Nat) : State :=
    ((t.recWrite (2 * index + i) (recNew ident index (if i = g then nk else none))).mirrorClear (2 * index + i)).ctxDrop fun c => decide (c.record = 2 * index + i)
  one (one s 0) 1

/-- An entry of the identity index, as (identity, index), where VALID; a poisoned one gives no data (R131). -/
def State.idxGet (s : State) (e : Nat) : Option (Nat × Nat) :=
  let b := memRead s.mem.dram (s.idxAddr e) 16
  if !s.poisoned (s.idxAddr e) && decide (le b 8 2 / 2 ^ 15 % 2 = 1) then some (le b 0 8, le b 8 2 % 4096) else none

/-- Write an entry of the identity index. -/
def State.idxPut (s : State) (e ident index : Nat) : State :=
  s.dramWrite (s.idxAddr e) (toLe 8 ident ++ toLe 2 (index + 2 ^ 15) ++ zeros 6)

/-- Clear VALID of an entry. -/
def State.idxClear (s : State) (e : Nat) : State := s.dramWrite (s.idxAddr e + 8) (toLe 2 0)

/-- The four probe entries of an identity. -/
def idxProbes (i : Nat) : List Nat := (List.range 4).map fun k => (idxHome i + k) % 8192

/-- R189: place an identity in a free entry of its four, if need be after moving another identity within its own four. -/
def State.idxPlace (s : State) (ident index : Nat) : Option State :=
  let free (i : Nat) : Option Nat := (idxProbes i).find? fun e => (s.idxGet e).isNone && !s.poisoned (s.idxAddr e)
  match free ident with
  | some e => some (s.idxPut e ident index)
  | none =>
    (idxProbes ident).findSome? fun e =>
      match s.idxGet e with
      | none => none
      | some (j, n) => (free j).map fun f => ((s.idxPut f j n).idxClear e).idxPut e ident index

/-- Take an identity out of the index. -/
def State.idxRemove (s : State) (ident : Nat) : State :=
  (idxProbes ident).foldl (fun (t : State) e => match t.idxGet e with | some (j, _) => if j = ident then t.idxClear e else t | none => t) s

/-- R189: the identity's entry names an index: the entry that it has, or one placed now. -/
def State.idxSet (s : State) (ident index : Nat) : Option State :=
  match (idxProbes ident).find? fun e => (s.idxGet e).any fun p => decide (p.1 = ident) with
  | some e => some (s.idxPut e ident index)
  | none => s.idxPlace ident index

/-- R198, R216: the record that an identity enrolled without an index is verified and answered under, until its join assigns one: record 0, which no node uses at the head (DESIGN CHOICE, log 51). -/
def State.lend (s : State) (r : NodeRow) : State := if r.index = 0 then s.recSet r.ident 0 r.nkGen (some r.key) else s

/-- The lent record is taken back. -/
def State.unlend (s : State) (r : NodeRow) : State := if r.index = 0 then s.recFree 0 else s

/-- The lent record becomes the record of the index assigned, with the counters of the request (R191). -/
def State.lentTo (s : State) (index g : Nat) : State :=
  (List.range 2).foldl (fun (t : State) i => match t.recRead i with
    | some b => (t.recWrite (2 * index + i) (b.take 8 ++ toLe 2 (index + 2 ^ 12 + b2n (decide (i = g % 2)) * 2 ^ 13) ++ b.drop 10)).ctxDrop fun c => decide (c.record = 2 * index + i)
    | none => t) s

/-! ### The head's table -/

/-- Replace the row of an identity. -/
def State.setRow (s : State) (r : NodeRow) : State :=
  { s with net := { s.net with nodes := s.net.nodes.map fun n => if n.ident = r.ident then r else n } }

/-- The row of an identity. -/
def State.rowOf (s : State) (ident : DWord) : Option NodeRow := s.net.nodes.find? fun n => n.ident = ident

/-- The lowest node index that no row holds. -/
def State.freeIndex (s : State) : Option Nat := (List.range 4095).map (fun i => i + 1) |>.find? fun i => !(s.net.nodes.any fun n => n.index = i)

/-- R209: i lies on the chain of parents from node n to the head. -/
def onChain (s : State) (i : Nat) : Nat → Nat → Bool
  | 0, _ => false
  | k + 1, n => if n = i then true else match s.nodeRow n with | some r => if r.parent = 0 then false else onChain s i k r.parent | none => false

/-- R213: two wake positions of one radio index fall on the same slot of some superframe. -/
def wakeClash (e p e' p' : Nat) : Bool := decide (p % 2 ^ min e e' = p' % 2 ^ min e e')

/-- R213: the first free wake position (PHASE, W) of a radio index at E = 4. -/
def State.freeWake (s : State) (ridx : Nat) : Option (Nat × Nat) :=
  ((List.range 16).flatMap fun p => (List.range 8).map fun w => (p, w)).find? fun q =>
    !(s.net.nodes.any fun n => n.sleeps && decide (2 ≤ n.st) && decide (n.ridx = ridx) && decide (n.w = q.2) && wakeClash 4 q.1 n.e n.phase)

/-- Nodes that the head serves or is admitting through a parent. -/
def State.childCount (s : State) (parent : Nat) : Nat := (s.net.nodes.filter fun n => decide (2 ≤ n.st) && decide (n.parent = parent)).length

/-! ### Children -/

/-- R217, R219: take a child, with records for its counters. -/
def State.addChild (s : State) (index : Nat) (ident : DWord) (sleepy : Bool) (e phase w : Nat) : State :=
  let c : Child := ⟨index, ident, sleepy, e, phase, w, (Sparse.find s.net.via ident.toNat).getD 0, []⟩
  let s := { s with net := { s.net with children := c :: s.net.children.filter fun x => x.index ≠ index } }
  if s.isHead then s else s.recSet ident index 0 none

/-- Drop a child, and the routes through it. -/
def State.dropChild (s : State) (index : Nat) : State :=
  let s := { s with net := { s.net with children := s.net.children.filter (fun x => x.index ≠ index), routes := s.net.routes.filter fun p => p.2 ≠ index } }
  if s.isHead then s else s.recFree index

/-- A COMMAND frame from the head for this node, of an opcode. -/
def State.fromHead (s : State) (x : AirRx) (opc : Nat) : Bool :=
  s.isNode && s.hasIndex && s.airMine x && decide (airFrom x = 0) && decide ((airHdr x).typ = 8) && decide (airOpc x = opc)

/-- CHILD_ADD: the head gives this parent a child. -/
def execChildAdd (x : AirRx) (s : State) : Host.Outcome State Fault Refusal :=
  .next (let a := airArgs x
    if s.fromHead x 0x0210 then s.addChild (le a 0 2 % 4096) (BitVec.ofNat 64 (le a 2 8)) (decide (byteAt a 10 ≠ 0)) (byteAt a 11 % 16) (byteAt a 12) (byteAt a 13 % 8) else s)

/-- CHILD_DEL: the head takes a child away. -/
def execChildDel (x : AirRx) (s : State) : Host.Outcome State Fault Refusal :=
  .next (if s.fromHead x 0x0211 then s.dropChild (le (airArgs x) 0 2 % 4096) else s)

/-- The head adds a child at its parent: its own table, or a CHILD_ADD command. -/
def State.childAddAt (s : State) (parent : Nat) (r : NodeRow) : State :=
  if parent = 0 then s.addChild r.index r.ident r.sleeps r.e r.phase r.w
  else s.commandTo parent 0x0210 (toLe 2 r.index ++ toLe 8 r.ident.toNat ++ toLe 1 (b2n r.sleeps) ++ toLe 1 r.e ++ toLe 1 r.phase ++ toLe 1 r.w)

/-- The head takes a child from a parent. -/
def State.childDelAt (s : State) (parent index : Nat) : State :=
  if parent = 0 then s.dropChild index else s.commandTo parent 0x0211 (toLe 2 index)

/-! ### Tunnels and the answers to a join (R194, R216) -/

/-- A TUNNEL frame for this node: its inner frame goes out unchanged, on the radio of the device it is for. -/
def State.passInner (s : State) (x : AirRx) : State :=
  let b := airPay x
  let h := parseHdr b
  let r := if h.ldst then (Sparse.find s.net.via h.dst).getD 0 else match s.child (h.dst % 4096) with | some c => c.radio | none => 0
  if !s.airMine x || !s.runs (radBlk r) then s
  else s.txQueue r ⟨fwDesc b.length 0 h.ackReq none, some b, s.tick, some b, 0, 0⟩

/-- R216: the JOIN_ACC payload. -/
def State.accPayload (s : State) (r : NodeRow) (relay : Bool) : Bytes :=
  let pid := if r.parent = 0 then s.nonceId else match s.nodeRow r.parent with | some p => p.ident.toNat | none => 0
  toLe 1 2 ++ toLe 1 0 ++ toLe 2 r.index ++ toLe 2 r.parent ++ toLe 1 r.depth ++ toLe 1 (r.ridx + r.bpos * 4 + b2n relay * 8) ++ toLe 8 s.nonceId ++
  toLe 8 pid ++ toLe 1 (r.e + r.w * 16) ++ toLe 1 r.phase

/-- R216 steps 4 and 5: CHILD_ADD to the parent, JOIN_ACC and the keys that the device lacks. -/
def State.admitNode (s : State) (r : NodeRow) : State :=
  let s := s.childAddAt r.parent r
  let s := s.sendVia r.parent r.ridx false (s.nkFrame 9 r.nkGen false r.new r (s.accPayload r (r.relayOk && decide (r.depth ≤ 15))))
  (List.range 2).foldl (fun (t : State) g => if r.lacks / 2 ^ g % 2 = 1 then t.sendSegKey r g else t) s

/-- Send a frame to a device through a parent, secured at once. -/
def State.sendNow (s : State) (parent ridx : Nat) (psdu : Bytes) : State :=
  if parent ≠ 0 then s.sendVia parent ridx false psdu
  else if !s.lnkTakes || !s.runs (radBlk ridx) then s
  else match s.secure psdu 0 with
    | .done t b => t.txQueue ridx ⟨fwDesc b.length 0 false none, some b, t.tick, some b, 0, 0⟩
    | _ => s

/-- R216: JOIN_REFUSED: to the device, with the superframes it shall wait, which the firmware chooses; and to the host. -/
def State.refuseJoin (s : State) (r : NodeRow) (parent ridx reason : Nat) : State :=
  let wait := (Config.freeBelow s.free 65535).val
  let s := (s.draw 1).sendNow parent ridx (s.nkFrame 9 r.nkGen false true r (toLe 1 3 ++ toLe 1 reason ++ toLe 2 wait))
  s.event 0xF203 (blkSrc .bcn) (toLe 2 r.index ++ toLe 1 reason)

/-! ### JOIN_REQ (R209, R216-R218) -/

/-- What a JOIN_REQ asks. -/
structure JoinAsk where
  sleepy  : Bool
  relayOk : Bool
  parent  : Nat
  lacks   : Nat
  multi   : Bool

/-- Read a JOIN_REQ payload. -/
def joinAsk (s : State) (p : Bytes) : JoinAsk :=
  let f := byteAt p 1
  let has := byteAt p 6
  let need (g : Nat) : Nat := if (s.skey g).isSome ∧ has / 2 ^ g % 2 = 0 then 2 ^ g else 0
  ⟨decide (f % 2 = 1), decide (f / 4 % 2 = 1), le p 2 2 % 4096, need 0 + need 1, decide (f / 8 % 2 = 1)⟩

/-- The depth of a parent. -/
def State.depthOf (s : State) (parent : Nat) : Option Nat :=
  if parent = 0 then some 0 else match s.nodeRow parent with | some r => if r.st = 3 then some r.depth else none | none => none

/-- R209, R216, R217: the reason to refuse a join, if any. -/
def State.joinReason (s : State) (r : NodeRow) (a : JoinAsk) (ridx : Nat) : Option Nat :=
  let held := decide (2 ≤ r.st)
  if r.index ≠ 0 && onChain s r.index 17 a.parent then some 6
  else match s.depthOf a.parent with
    | none => some 3
    | some d =>
      if 15 < d then some 3
      else if 64 ≤ s.childCount a.parent - (if held && r.parent = a.parent then 1 else 0) then some 4
      else if r.index = 0 ∧ s.freeIndex.isNone then some 1
      else if a.sleepy ∧ (!r.sleepy ∨ (a.parent = 0 ∧ !s.rb R.bcn_BCN_CFG 2)) then some 5
      else if a.parent = 0 ∧ !s.rb R.bcn_BCN_CFG 1 then some 5
      else if a.sleepy ∧ !r.sleeps ∧ (512 ≤ (s.net.nodes.filter fun n => n.sleeps && decide (2 ≤ n.st)).length ∨ (s.freeWake ridx).isNone) then some 2
      else none

/-- R189, R216: the index of a device that is let in: its own, or a new one with its entry of the index and its lent record; none where no entry takes it. -/
def State.giveIndex (s : State) (r : NodeRow) (index : Nat) : Option State :=
  if r.index ≠ 0 then some s
  else match s.idxSet r.ident.toNat index with
    | some t => some (t.lentTo index r.nkGen)
    | none => none

/-- R216 step 3: assign index, depth, radio index, position and wake settings, and let the device in. An identity that no entry of the index takes is refused as for a full segment. -/
def State.acceptJoin (s : State) (r : NodeRow) (a : JoinAsk) (ridx : Nat) (rejoin : Bool) : State :=
  let index := if r.index = 0 then (s.freeIndex).getD 0 else r.index
  let d := (s.depthOf a.parent).getD 0 + 1
  let wake := if a.sleepy then (if r.sleeps ∧ r.ridx = ridx then (r.e, r.phase, r.w) else match s.freeWake ridx with | some q => (4, q.1, q.2) | none => (4, 0, 0)) else (0, 0, 0)
  let old := r.parent
  let n : NodeRow := { r with
    index := index, st := 2, parent := a.parent, depth := d, ridx := ridx, bpos := index % 2, e := wake.1, phase := wake.2.1, w := wake.2.2
    lacks := a.lacks, accSf := s.sf, tries := 0, sleeps := a.sleepy, relayOk := a.relayOk, new := !rejoin, multi := a.multi }
  match s.giveIndex r index with
  | none => s.refuseJoin r a.parent ridx 1
  | some s =>
    let s := s.setRow n
    let s := if rejoin ∧ old ≠ a.parent then
        (s.childDelAt old index).event 0xF201 (blkSrc .bcn) (toLe 2 index ++ toLe 1 1) else s
    s.admitNode n

/-- R198: the firmware verifies the request of an identity that has no index yet, under the lent record; another's has passed LNK. -/
def State.joinVerified (s : State) (r : NodeRow) (x : AirRx) : State × Bool :=
  if r.index ≠ 0 then (s, true)
  else
    let h := parseHdr x.psdu
    let c := s.ctxFor h 0
    match c.2.bind fun i => (Sparse.find c.1.lnk.ctx i).map fun k => (i, k) with
    | none => (c.1, false)
    | some (i, k) =>
      let j := c.1.verify 0 i k h x.psdu 0
      (j.s, decide (j.reason = 0))

/-- The radio index of a device that asks (R201): that of the head's radio; behind a relay with one radio, the relay's; behind one with several, that of the radio it asked through, which no frame tells the head and which lies open. -/
def State.askRidx (s : State) (a : JoinAsk) (radio : Nat) : Nat :=
  if a.parent = 0 then radio
  else match s.nodeRow a.parent with
    | some q => if q.multi then (Config.freeBelow s.free 3).val else q.ridx
    | none => 0

/-- The head takes a verified JOIN_REQ. An identity that is not enrolled is refused silently. -/
def State.joinReq (s : State) (x : AirRx) : State :=
  let h := airHdr x
  let a := joinAsk s (airPay x)
  match s.rowOf (BitVec.ofNat 64 h.src) with
  | none => s.event 0xF202 (blkSrc .bcn) (toLe 8 h.src ++ toLe 2 (h.dst % 65536))
  | some r =>
    let v := (s.lend r).joinVerified r x
    if !v.2 then v.1.unlend r
    else
      let s := { v.1 with net := { v.1.net with via := Sparse.put v.1.net.via h.src x.radio.val } }
      let ridx := s.askRidx a x.radio.val
      ((match s.joinReason r a ridx with
        | some e => (s.draw 1).refuseJoin r a.parent ridx e
        | none => (s.draw 1).acceptJoin r a ridx (decide (r.st = 3)))).unlend r

/-- JOIN_REQ: the head decides; a node carries the request, which it cannot verify, to the head in a TUNNEL. -/
def execJoinReq (x : AirRx) (s : State) : Host.Outcome State Fault Refusal :=
  .next (
    let h := airHdr x
    if h.typ ≠ 9 ∨ !h.lsrc then s
    else if s.isHead then (if byteAt (airPay x) 0 = 1 then s.joinReq x else s)
    else if s.isNode && s.hasIndex && !s.placeless && decide (h.dst = s.ownIndex) then
      { s with net := { s.net with via := Sparse.put s.net.via h.src x.radio.val } }.sendUp 11 true x.psdu
    else s)

/-! ### STATUS, and the end of a join (R175, R195, R216) -/

/-- R220, R303: FAULTS: open, shorted and degraded positions; a port's fault; temperature; headroom, dropout or the supply out of range; a sensor's fault, for which the spec gives no condition and which lies open; time; tamper; node key; settings reset. A module has no battery, and its route table has room for every index. -/
def State.faultBits (s : State) : Nat :=
  let any (f : Fin 4 → Bool) : Bool := (List.finRange 4).any f
  let raw (i : Nat) : Bool := any fun n => s.rb (hdr (.drv n) oRaw) i
  let mv := s.rf R.pwr_VIN_MEAS 0 16
  b2n (any fun n => decide (s.rd (R.drv_OPEN_MASK n) ≠ 0)) +
  b2n (any fun n => decide (s.rd (R.drv_SHORT_MASK n) ≠ 0) || decide (s.rd (R.drv_DEV_MASK n) ≠ 0)) * 2 +
  b2n (raw 6 || s.port.any fun p => decide (p.st = PortSt.fault) && !p.link) * 2 ^ 2 +
  b2n (raw 5 || s.rb (hdr .pwr oRaw) 3 || s.port.any fun p => decide (p.st = PortSt.fault) && p.link) * 2 ^ 3 +
  b2n (raw 3 || raw 4 || decide (mv < 18000) || decide (36000 < mv)) * 2 ^ 4 +
  b2n (Config.freeBit s.free) * 2 ^ 5 + b2n (!s.holds) * 2 ^ 6 + b2n (decide (s.rf R.pwt_FLAGS 4 2 ≠ 0)) * 2 ^ 8 +
  b2n (s.ownNk s.net.nkGen).isNone * 2 ^ 9 + b2n (decide (s.rd R.upd_SET_RESET ≠ 0)) * 2 ^ 10

/-- R175: the STATUS payload: FAULTS, level shown, temperature, flags. -/
def State.statusPayload (s : State) : Bytes :=
  let high := (List.range 3).any fun i => decide (0xF0000000 < s.rn (ctrReg i))
  toLe 4 s.faultBits ++ toLe 2 s.lvl.shown ++ toLe 1 (s.rf (R.pwr_TEMPs 0) 0 8) ++ toLe 1 (b2n s.net.orphaned + b2n high * 2 + b2n s.net.newKey * 4)

/-- Send STATUS to the head; its flags start afresh. -/
def State.sendStatus (s : State) : State :=
  let s := (s.draw 1).sendUp 7 true s.statusPayload
  { s with net := { s.net with orphaned := false, newKey := false } }

/-- R195: STATUS under the new node key. -/
def State.sendNkStatus (s : State) (g : Nat) : State :=
  let inner := s.frameOf 7 (decide (s.parentIx = 0)) 1 g 0 none s.statusPayload
  if s.parentIx = 0 then (s.draw 1).fwSend s.upRadio 0 true none inner
  else if !s.lnkTakes then s
  else match (s.draw 1).secure inner 0 with
    | .done t b => t.sendUp 11 true b
    | _ => s

/-- R195: the answer under the new node key: the old record loses NK_OK. -/
def State.nkRoll (s : State) (r : NodeRow) (g : Nat) : State :=
  let old := 2 * r.index + (1 - g % 2)
  let s := s.setRow { r with nkGen := g, nkNext := none }
  (match s.recRead old with
    | some b => s.recWrite old (b.take 8 ++ toLe 2 (le b 8 2 % 2 ^ 13) ++ b.drop 10)
    | none => s).ctxDrop fun c => decide (c.record = old)

/-- STATUS_RECEIVE: at the head it completes a pending join, and under the next node key it completes the key's replacement. -/
def execStatusReceive (x : AirRx) (s : State) : Host.Outcome State Fault Refusal :=
  .next (
    let h := airHdr x
    if !s.isHead || decide (h.typ ≠ 7) then s
    else match s.nodeRow (airFrom x) with
      | none => s
      | some r =>
        let s := if h.keysel = 1 ∧ r.nkNext = some h.gen then s.nkRoll r h.gen else s
        if r.st = 2 then
          match s.nodeRow r.index with
          | some q => (s.setRow { q with st := 3, lacks := 0 }).event 0xF200 (blkSrc .bcn) (toLe 2 r.index ++ toLe 8 r.ident.toNat ++ toLe 2 r.parent ++ toLe 1 r.depth)
          | none => s
        else s)

/-- The head gives a join up: the index is free again unless the enrolment gave it. -/
def State.abandonJoin (s : State) (r : NodeRow) : State :=
  let s := if r.parent = 0 then s.dropChild r.index else s
  let s := if r.fixed then s.setRow { r with st := 1, sleeps := false }
    else (((s.recFree r.index).idxSet r.ident.toNat 0).getD (s.recFree r.index)).setRow { r with st := 1, index := 0, sleeps := false }
  s.event 0xF201 (blkSrc .bcn) (toLe 2 r.index ++ toLe 1 2)

/-- JOIN_CONFIRM_TIMEOUT: no STATUS within 16 superframes: steps 4 and 5 again, three times at most. -/
def execJoinConfirmTimeout (index : Nat) (s : State) : Host.Outcome State Fault Refusal :=
  .next (match s.nodeRow index with
    | none => s
    | some r =>
      if !s.isHead || decide (r.st ≠ 2) || decide (s.sf < r.accSf + 16) then s
      else if r.tries < 3 then
        let q := { r with tries := r.tries + 1, accSf := s.sf }
        (s.setRow q).admitNode q
      else s.abandonJoin r)

/-! ### The joining device (R201, R216, R217) -/

/-- R216 step 6: the device holds the segment key, tells the head, and tracks. -/
def State.joined (s : State) : State := (s.setBcn 4 0).sendStatus

/-- A new place in the mesh: what belonged to the former parent is forgotten (R207, R235); the margins and the COST are those of the parent taken, as it was heard as a candidate. -/
def State.newParent (s : State) (index seg head parent : Nat) (wake : Nat × Nat × Nat) (margins : List Int) (cost : Nat) : State :=
  { s with
    net := { s.net with seg := seg, index := index, headId := BitVec.ofNat 64 head, parentId := BitVec.ofNat 64 parent, wake := wake, wakeNext := none }
    bcn := { s.bcn with asked := none, gather := none, cands := [], pos := none, heardSf := none, margins := margins, cost := cost, quiet := none }
    ntm := { s.ntm with delays := [], dreq := [], dreqSf := none, measured := false, corr := none } }

/-- R217: the records of a former parent that is neither the head, the new parent nor a child are freed. -/
def State.leaveParent (s : State) (old new : Nat) : State :=
  if old = new ∨ old = 0 ∨ (s.child old).isSome then s else s.recFree old

/-- R216, R217: take the index, the parent and the settings of JOIN_ACC. -/
def State.takeAccept (s : State) (x : AirRx) (parent seg : Nat) : State :=
  let p := airPay x
  let c := s.bcn.cands.find? fun c => decide (c.index = parent) && decide (c.seg = seg)
  let gen := match c with | some c => c.gen | none => s.genCur
  let old := s.parentIx
  let heard : List Int × Nat := match c with
    | some c => (c.margins, c.cost)
    | none => if parent = old ∧ seg = s.net.seg then (s.bcn.margins, s.bcn.cost) else ([], 0)
  let f := byteAt p 7
  let node := byteAt p 6 % 32 + f / 4 % 2 * 32 + f % 4 * 64 + le p 4 2 % 4096 * 256 + f / 8 % 2 * 2 ^ 20
  let s := ((s.newParent (le p 2 2 % 4096) seg (le p 8 8) (le p 16 8) (byteAt p 24 % 16, byteAt p 25, byteAt p 24 / 16 % 8) heard.1 heard.2).wr R.bcn_BCN_NODE (w32 node)).wf R.lnk_LNK_GEN 0 1 gen
  let s := ((s.leaveParent old s.parentIx).wb R.lnk_LNK_GEN (1 + gen) true).recSet (BitVec.ofNat 64 (le p 8 8)) 0 0 none
  let s := if s.parentIx = 0 then s else s.recSet (BitVec.ofNat 64 (le p 16 8)) s.parentIx 0 none
  if (s.skey gen).isSome then s.joined else s

/-- JOIN_ACC: the accept that answers this device's request; a parent passes a tunnelled one on. -/
def execJoinAcc (x : AirRx) (s : State) : Host.Outcome State Fault Refusal :=
  .next (
    let h := airHdr x
    if !s.isNode then s
    else if h.typ = 11 then s.passInner x
    else match s.bcn.asked with
      | some a => if h.typ = 9 ∧ byteAt (airPay x) 0 = 2 ∧ h.seg = a.2.1 then s.takeAccept x (le (airPay x) 4 2 % 4096) a.2.1 else s
      | none => s)

/-- JOIN_REF: the refusal: another request to this segment waits; candidates of other segments may still be asked. -/
def execJoinRef (x : AirRx) (s : State) : Host.Outcome State Fault Refusal :=
  .next (
    let h := airHdr x
    if !s.isNode then s
    else if h.typ = 11 then s.passInner x
    else match s.bcn.asked with
      | some a =>
        if h.typ = 9 ∧ byteAt (airPay x) 0 = 3 ∧ h.seg = a.2.1 then
          { s with bcn := { s.bcn with asked := none, retryAt := some (a.2.1, s.sf + le (airPay x) 2 2) } }.askBest fun _ => true
        else s
      | none => s)

/-- JOIN_TIMEOUT: no answer within 8 superframes of the request: the next candidate. -/
def execJoinTimeout (s : State) : Host.Outcome State Fault Refusal :=
  .next (match s.bcn.asked with
    | some a =>
      if !s.isNode || decide (s.sf < a.2.2 + 8) then s
      else
        { s with bcn := { s.bcn with cands := s.bcn.cands.map fun (c : Cand) => if c.index = a.1 ∧ c.seg = a.2.1 then { c with tried := true } else c } }.askBest fun _ => true
    | none => s)

/-- REJOIN_VIA: the node joins again through the parent that the head names. -/
def execRejoinVia (x : AirRx) (s : State) : Host.Outcome State Fault Refusal :=
  .next (
    if s.fromHead x 0x0212 then
      let p := le (airArgs x) 0 2 % 4096
      match s.bcn.cands.find? fun c => decide (c.index = p) && decide (c.seg = s.net.seg) with
      | some c => s.askParent c.radio c.seg p c.margins
      | none => s.askParent s.upRadio s.net.seg p (if p = s.parentIx then s.bcn.margins else [])
    else s)

/-! ### Keys (R194, R195) -/

/-- Put a link key into a slot. -/
def State.putLinkKey (s : State) (slot : Nat) (key : Bytes) : State :=
  s.setSlot slot (some ⟨w32 (1 + 2 ^ 9 + 2 ^ 14), 0, key, s.vlt.meas.getD 1 []⟩)

/-- The next STATUS shows NEW_KEY. -/
def State.noteKey (s : State) : State := { s with net := { s.net with newKey := true } }

/-- R194: a new segment key: kept beside the old one, its counters cleared, told in the next STATUS. -/
def State.takeSegKey (s : State) (g : Nat) (key : Bytes) : State :=
  let s := (s.putLinkKey (s.rf R.lnk_LNK_KEYS0 (if g = 0 then 0 else 8) 6) key).clearGen g |>.noteKey
  if s.bcnState = 3 ∧ s.bcn.asked.isNone ∧ g = s.genCur then s.joined else s

/-- R195: a new node key, answered under that key. -/
def State.takeNodeKey (s : State) (g : Nat) (key : Bytes) : State :=
  let s := s.putLinkKey (s.rf R.lnk_LNK_KEYS1 (if g = 0 then 0 else 8) 6) key
  { s with net := { s.net with nkGen := g } }.sendNkStatus g

/-- KEY_RECEIVE: a node takes a key sent under its node key; a parent passes a tunnelled one on. -/
def execKeyReceive (x : AirRx) (s : State) : Host.Outcome State Fault Refusal :=
  .next (
    let h := airHdr x
    let p := airPay x
    if !s.isNode then s
    else if h.typ = 11 then s.passInner x
    else if h.typ ≠ 10 ∨ p.length ≠ 18 ∨ 1 < byteAt p 1 then s
    else if byteAt p 0 = 0 then s.takeSegKey (byteAt p 1) (p.drop 2)
    else if byteAt p 0 = 1 then s.takeNodeKey (byteAt p 1) (p.drop 2)
    else s)

/-! ### Reports, sleepy sensors (R213, R214, R219, R252) -/

/-- The tick in progress at a counter value (R6, R27): the module's own where it holds no network time. -/
def State.tickAt (s : State) (c : DWord) : Nat := if s.holds then s.nt c / tick16 else s.tick

/-- PRESENCE_RECEIVE: the head's firmware pushes a report entry to COR's queue, with the tick of the frame's verdict (R27, R252). -/
def execPresenceReceive (x : AirRx) (s : State) : Host.Outcome State Fault Refusal :=
  .next (
    let p := airPay x
    if !s.isHead || decide ((airHdr x).typ ≠ 5) then s.at x.verdict
    else (s.at x.verdict).hwPush (s.rf R.cor_COR_CFG 0 4) (BitVec.ofNat 64
      (2 ^ 63 + 0x60 * 2 ^ 56 + airFrom x * 2 ^ 44 + byteAt p 0 / 16 % 4 * 2 ^ 42 + byteAt p 1 % 16 * 2 ^ 38 + byteAt p 1 / 16 * 2 ^ 34 +
        (byteAt p 0 % 16 + 3) % 4 * 2 ^ 32 + le p 2 2 * 2 ^ 16 + s.tickAt x.verdict % 65536)))

/-- WAKE_SET: new wake settings, taken after the current wake. -/
def execWakeSet (x : AirRx) (s : State) : Host.Outcome State Fault Refusal :=
  .next (
    let a := airArgs x
    if s.fromHead x 0x0213 then { s with net := { s.net with wakeNext := some (byteAt a 0 % 16, byteAt a 1, byteAt a 2 % 8) } } else s)

/-- R485: the exchange of wake slot 7 would reach the last 50 µs before a new hop list's C. -/
def State.hopBlocks (s : State) (t : Nat) : Bool :=
  match s.chn.hopHold with
  | some c => decide (w32 (t / 256 * 256 + 256) = c)
  | none => false

/-- R213: a wake exchange on a radio ends 50 µs before the last edge of its two ticks. -/
def State.wakeFits (s : State) (r : Nat) (psdu : Bytes) : Bool :=
  decide (200 + s.exchange r ⟨fwDesc psdu.length 1 true none, some psdu, 0, none, 0, 0⟩ ≤ 7950)

/-- R213: a held frame waits in the radio already, or is on air. -/
def State.wakeQueued (s : State) (r : Nat) (psdu : Bytes) : Bool :=
  ((s.radio r).queue.any fun x => decide (x.own = some psdu)) || (s.radio r).air.any fun a => decide (a.tx.own = some psdu)

/-- R213: the module's own wake, where the head has given it one: its frame, or a STATUS, in the wake slot. -/
def State.ownWake (s : State) (heard : Bool) : State :=
  let w := s.net.wake
  let f := s.frameOf 7 true 0 0 s.parentIx none s.statusPayload
  let s := if heard && decide (s.sf % 2 ^ w.1 = w.2.1) && decide (s.rf R.bcn_BCN_DRIFT 0 16 * (s.cnt - s.bcn.lastCnt).toNat * 4 ≤ 50000 * 1000000000) && s.wakeFits s.upRadio f then
      (s.draw 1).fwSend s.upRadio 1 true (some (s.sf * 256 + 224 + 4 * w.2.2)) f else s
  match s.net.wakeNext with
  | some n => { s with net := { s.net with wake := n, wakeNext := none } }
  | none => s

/-- R213: a sleepy child's wake: its parent sends one held frame at tick 226 + 4w of a superframe of its phase, if the child was heard there. The frame stays held until it is collected. -/
def State.childWake (s : State) (c : Child) (heard : Bool) : State :=
  match c.held with
  | [] => s
  | f :: _ =>
    let at' := s.sf * 256 + 226 + 4 * c.w
    if !heard || !s.holds || decide (s.sf % 2 ^ c.e ≠ c.phase) || decide (at' < s.tick) || (decide (c.w = 7) && s.hopBlocks at') || !s.wakeFits c.radio f.1 || s.wakeQueued c.radio f.1 then s
    else s.fwSend c.radio 1 true (some at') f.1

/-- SLEEPY_WAKE: of a sleepy child, or of this module itself where it sleeps. -/
def execSleepyWake (index : Nat) (heard : Bool) (s : State) : Host.Outcome State Fault Refusal :=
  .next (
    if s.isNode && decide (index = s.net.index) then s.ownWake heard
    else match s.child index with
      | some c => if c.sleepy then s.childWake c heard else s
      | none => s)

/-- HELD_FRAME_EXPIRY: a frame held for a sleepy child for 2^E + 1 superframes is dropped. -/
def execHeldFrameExpiry (s : State) : Host.Outcome State Fault Refusal :=
  .next { s with net := { s.net with children := s.net.children.map fun (c : Child) => { c with held := c.held.filter fun f => decide (s.tick < f.2 + 256 * (2 ^ c.e + 1)) } } }

/-! ### The link-delay exchange (R234, R235) -/

/-- DREQ_SEND: a node asks its parent every PERIOD superframes, first after its first beacon measurement; the firmware asks while NTM takes work (R247). -/
def execDreqSend (s : State) : Host.Outcome State Fault Refusal :=
  .next (
    let due := match s.ntm.dreqSf with | none => true | some f => decide (f + s.rf R.ntm_DLY_CFG 0 8 ≤ s.sf)
    if s.takes .ntm && s.isNode && s.holds && s.ntm.measured && !s.placeless && due then
      let q := s.ntm.dreqSeq
      let t := { s with ntm := { s.ntm with dreqSeq := (q + 1) % 256, dreqSf := some s.sf } }
      t.fwSend t.upRadio 0 false none (t.frameOf 4 false 0 0 t.parentIx none (toLe 1 1 ++ toLe 1 q ++ zeros 8))
    else s)

/-- A time in units of 2^-16 ns as a TS of eight octets. -/
def tsOf (t : Int) : Nat := unsgn 64 t

/-- DREQ: the parent answers with a DRESP within 4 superframes, carrying T2, the start of the DREQ (R229); T3 is filled at release. -/
def execDreq (x : AirRx) (s : State) : Host.Outcome State Fault Refusal :=
  .next (
    let h := airHdr x
    let p := airPay x
    let t := s.at x.verdict
    if h.typ ≠ 4 ∨ h.mhop ∨ byteAt p 0 ≠ 1 ∨ p.length ≠ 10 ∨ !s.hasIndex ∨ !s.holds ∨ s.placeless then t
    else t.fwSend x.radio.val 0 false (some (t.tick + 4 * 256))
      (t.frameOf 4 false 0 0 (h.src % 4096) none (toLe 1 2 ++ toLe 1 (byteAt p 1) ++ toLe 8 (tsOf (s.airStart x)) ++ zeros 8)))

/-- R235: a link-delay measurement in units of 2^-16 ns, where it is accepted. -/
def delayOf (t1 t2 t3 t4 : Nat) : Option Int :=
  let a := (t4 + 2 ^ 64 - t1 % 2 ^ 64) % 2 ^ 64
  let b := (t3 + 2 ^ 64 - t2 % 2 ^ 64) % 2 ^ 64
  let d := sgn 64 ((a + 2 ^ 64 - b) % 2 ^ 64)
  if 8192000000 * 2 ^ 16 < b ∨ d < 0 ∨ 2 * 100000 * 2 ^ 16 < d then none else some (d / 2)

/-- R235: the answer to a DREQ that was sent has come, with T4. -/
def State.takeDresp (s : State) (q t1 t2 t3 : Nat) (t4 : Int) : State :=
  let d := delayOf t1 t2 t3 (tsOf t4)
  let t := { s with ntm := { s.ntm with dreq := s.ntm.dreq.filter (fun p => p.1 ≠ q), delays := (d.toList ++ s.ntm.delays).take 5 } }
  if d.isSome then (t.bumpSat R.ntm_DLY_CNT 1).irq .ntm 5 else t

/-- DRESP: the node computes and keeps the link delay, while NTM takes work (R247). -/
def execDresp (x : AirRx) (s : State) : Host.Outcome State Fault Refusal :=
  .next (
    let h := airHdr x
    let p := airPay x
    let t := s.at x.verdict
    if h.typ ≠ 4 ∨ h.mhop ∨ byteAt p 0 ≠ 2 ∨ p.length ≠ 18 ∨ !s.isNode ∨ h.src ≠ s.parentIx ∨ !s.takes .ntm then t
    else match s.ntm.dreq.find? fun q => decide (q.1 = byteAt p 1) with
      | none => t
      | some (q, t1) => t.takeDresp q t1 (le p 2 8) (le p 10 8) (s.airStart x))

/-! ### The host's commands (R219) -/

/-- R195: a joined node is given a new node key: its record of the other generation takes it, and a KEY frame goes under the current one. -/
def State.nextNodeKey (s : State) (r : NodeRow) (wrapped key : Bytes) : State :=
  let g := 1 - r.nkGen % 2
  let rec' := 2 * r.index + g
  let b := (s.recRead rec').getD (recNew r.ident r.index none)
  let s := (s.recWrite rec' (b.take 8 ++ toLe 2 (r.index + 2 ^ 12 + 2 ^ 13) ++ zeros 2 ++ slice wrapped 0 24 ++ b.drop 36)).ctxDrop fun c => decide (c.record = rec')
  let s := s.setRow { r with key := wrapped, nkNext := some g }
  s.sendVia r.parent r.ridx true (s.nkFrame 10 r.nkGen true false r (toLe 1 1 ++ toLe 1 g ++ key))

/-- A new enrolment, with its place in the identity index, and its record where the enrolment gives the index; none where R189 refuses it. -/
def State.enrol (s : State) (ident : DWord) (index cls : Nat) (sleepy : Bool) (key : Bytes) : Option State :=
  let r : NodeRow := ⟨ident, index, key, cls, sleepy, 1, 0, 0, 0, 0, 0, 0, 0, 0, 0, 0, false, false, true, decide (index ≠ 0), 0, none, false⟩
  let t := { s with net := { s.net with nodes := r :: s.net.nodes } }
  (t.idxPlace ident.toNat index).map fun u => if index = 0 then u else u.recSet ident index 0 (some key)

/-- R380, R386: the node key of an enrolment comes as an import blob, and REWRAP turns it into a record under WRAP_SLOT: the state after it, and the record, or the vault's status. -/
def State.blobToRec (s : State) (c : Cmd) : State × Except Nat Bytes :=
  let x := s.vopRun { mbxOp c 0x09 with b := s.wrapSlot } c.bytes
  let t := x.used.foldl State.takeUse x.st
  (t, if x.status ≠ vOk then .error x.status else if x.out.length = 24 then .ok x.out else .error vBadParam)

/-- An enrolment with its wrapped node key: a new one, or another key and class for one that the head holds; for a joined node the key replaces its present one (R195). None where it is refused. -/
def State.enrolKey (s : State) (ident : DWord) (index cls : Nat) (sleepy : Bool) (rec' : Bytes) : Option State :=
  match s.rowOf ident with
  | some r =>
    if index ≠ 0 ∧ index ≠ r.index then none
    else if r.st = 3 then (s.wrapKey.bind fun k => kwUnwrap k rec').map fun key => s.nextNodeKey r rec' key
    else
      let u := s.setRow { r with key := rec', cls := cls, sleepy := sleepy }
      some (if r.index = 0 then u else u.recSet ident r.index r.nkGen (some rec'))
  | none => if index ≠ 0 ∧ s.net.nodes.any (fun n => n.index = index) then none else s.enrol ident index cls sleepy rec'

/-- NODE_ENROLL, a command of the Crypto Officer (R385): enrol an identity with its node key, which comes as an import blob (R380). -/
def execNodeEnroll (tag : Word) (s : State) : Host.Outcome State Fault Refusal :=
  .next (s.withCmd 0x0200 tag fun c t => t.withCo c fun t =>
    if c.e.length ≠ 96 then t.reply c stBadLength [] []
    else if !t.isHead || !t.takes .vlt then t.reply c stBusy [] []
    else if 4095 < c.par 8 2 then t.reply c stBadParam [] []
    else match t.blobToRec c with
      | (u, .error e) => u.reply c (vltMbx e) [] []
      | (u, .ok k) => match u.enrolKey (BitVec.ofNat 64 (c.par 0 8)) (c.par 8 2) (c.par 10 1) (decide (c.par 11 1 ≠ 0)) k with
        | some v => v.reply c stOk [] []
        | none => u.reply c stBadParam [] [])

/-- NODE_REMOVE: free an index; its records are invalidated. -/
def execNodeRemove (tag : Word) (s : State) : Host.Outcome State Fault Refusal :=
  .next (s.withCmd 0x0201 tag fun c t =>
    let i := c.par 0 2
    if !t.isHead then t.reply c stBusy [] []
    else match t.nodeRow i with
      | none => t.reply c stBadParam [] []
      | some r =>
        let u := { t with net := { t.net with nodes := t.net.nodes.filter fun n => n.ident ≠ r.ident } }
        let u := ((if r.parent = 0 then u.dropChild i else u).recFree i).idxRemove r.ident.toNat
        let u := if 2 ≤ r.st then u.event 0xF201 (blkSrc .bcn) (toLe 2 i ++ toLe 1 0) else u
        u.reply c stOk [] [])

/-- One entry of the node table. -/
def State.tableEntry (s : State) (i : Nat) : Bytes :=
  match s.nodeRow i with
  | some r => toLe 8 r.ident.toNat ++ toLe 2 r.parent ++ toLe 1 r.depth ++ toLe 1 r.ridx ++ toLe 1 r.e ++ toLe 1 r.w ++ toLe 1 r.phase ++ toLe 1 r.st
  | none => zeros 16

/-- NODE_TABLE: one 16-byte entry for each index. -/
def execNodeTable (tag : Word) (s : State) : Host.Outcome State Fault Refusal :=
  .next (s.withCmd 0x0202 tag fun c t =>
    if !t.isHead then t.reply c stBusy [] []
    else t.reply c stOk [] ((List.range 4096).flatMap fun i => t.tableEntry i))

/-- JOIN_CTRL: open or close joins, for a duration in superframes or without end. -/
def execJoinCtrl (tag : Word) (s : State) : Host.Outcome State Fault Refusal :=
  .next (s.withCmd 0x0203 tag fun c t =>
    if 1 < c.par 0 1 ∨ 1 < c.par 1 1 then t.reply c stBadParam [] []
    else
      let d := c.par 2 2
      let t := { t with net := { t.net with joinEnd := if d = 0 then none else some (t.sf + d) } }
      ((t.wb R.bcn_BCN_CFG 1 (decide (c.par 0 1 = 1))).wb R.bcn_BCN_CFG 2 (decide (c.par 1 1 = 1))).reply c stOk [] [])

/-- JOIN_WINDOW_EXPIRY: the duration has run out: joins close. -/
def execJoinWindowExpiry (s : State) : Host.Outcome State Fault Refusal :=
  .next (match s.net.joinEnd with
    | some e =>
      if s.sf < e then s
      else ({ s with net := { s.net with joinEnd := none } }.wb R.bcn_BCN_CFG 1 false).wb R.bcn_BCN_CFG 2 false
    | none => s)

end Sys2Proof.Machine
end

