-- ==== Sys2Proof/Machine/Drive.lean ====
section
/-! DEFINITION. Pixel-string drive ports: on-times and packing, banks and swaps, fades, headroom, faults and the string test, defaults, disable (R287-R307). -/

namespace Sys2Proof.Machine

open Sys2Proof

/-- A port by its number. -/
def State.port' (s : State) (n : Nat) : Port := s.port.getD n portOff

/-- Change a port. -/
def State.modPort (s : State) (n : Nat) (f : Port → Port) : State := { s with port := setAt s.port n (f (s.port' n)) }

/-- DRV0-DRV3 as a block. -/
abbrev drvBlk (n : Nat) : Blk := .drv (Fin.ofNat 4 n)

/-- PORT_STAT.STATE as a code. -/
def PortSt.code : PortSt → Nat
  | .off => 0 | .dflt => 1 | .running => 2 | .paused => 3 | .disabling => 4 | .fault => 5

/-- The sink is on. -/
def PortSt.lit : PortSt → Bool
  | .dflt | .running | .paused | .disabling => true
  | _ => false

/-! ### LEVEL mode (R292) -/

/-- The largest m with 1000 × m ≤ f × X(v) in units of 10^-6 %: X(v) = 10^(((v - 256) / 256) × 3/253 - 1) %. -/
def xBound (f v : Nat) : Nat :=
  searchTop (fun m => decide ((1000 * m) ^ 64768 ≤ f ^ 64768 * 10 ^ (5 * 64768 + 3 * (v - 256)))) 29 0

/-- R292: X(v) in units of 10^-6 %: what the port computes, within ±0.1 % of its value. -/
def levelX (v : Nat) : Nat :=
  if v < 256 then 0
  else
    let lo := xBound 999 v + 1
    let hi := xBound 1001 v
    max lo (min hi (Config.levelX v))

/-- R292: D_p from w_p. -/
def onTime (mode b v w : Nat) : Nat :=
  if mode = 0 then (if w = 0xFFFF then 2 ^ b else w / 2 ^ (16 - b))
  else min (2 ^ b) ((2 * w * levelX v * 2 ^ b + 65535 * 100000000) / (2 * 65535 * 100000000))

/-! ### Frames (R289-R291) -/

/-- B of a port: from its default record in DEFAULT, from DRV_CFG otherwise; at most 16. -/
def State.drvB (s : State) (n : Nat) : Nat :=
  8 + min 8 (if (s.port' n).st = .dflt then (s.port' n).dr.bits else s.rf (R.drv_DRV_CFG n) 4 4)

/-- The enabled positions. -/
def State.drvEn (s : State) (n : Nat) : Word := if (s.port' n).st = .dflt then (s.port' n).dr.en else (s.port' n).mask

/-- R291: the active positions: enabled and not open-latched, in ascending order. -/
def State.active (s : State) (n : Nat) : List Nat :=
  (List.range 32).filter fun p => tst (s.drvEn n) p && !tst (s.port' n).latch p

/-- The frame period in ns. -/
def State.framePeriod (s : State) (n : Nat) : Nat := 2 ^ s.drvB n * 40

/-- R290: time in ns on which frames are phased: Relso time, or the local counter. -/
def State.frameNs (s : State) (c : DWord) : Nat := if s.holds then s.ntNs c else c.toNat * 4

/-- R305: the disable fade at the start of the current frame, as a quotient of what is left. -/
def State.disLeft (s : State) (n : Nat) : Nat × Nat :=
  let p := s.port' n
  let all := p.disMs * 1000000
  let into := s.frameNs s.cnt % s.framePeriod n
  let gone := (s.cnt - p.dis).toNat * 4 - into
  (all - gone, all)

/-- R292, R304, R305: the on-time of a position at a value, in the port's present state. -/
def State.onTimeOf (s : State) (n pos w : Nat) : Nat :=
  let p := s.port' n
  match p.st with
  | .dflt => onTime 0 (s.drvB n) 0 p.dr.ontime
  | .running | .paused => onTime (s.rf (R.drv_DRV_CFG n) 0 1) (s.drvB n) p.v w
  | .disabling => let q := s.disLeft n; p.d0.getD pos 0 * q.1 / max 1 q.2
  | _ => 0

/-- The on-times D_p of the active positions, with their positions. -/
def State.onTimes (s : State) (n : Nat) : List (Nat × Nat) := (s.active n).map fun p => (p, s.onTimeOf n p ((s.port' n).w.getD p 0))

/-- R291: lay on-times end to end around the frame: position, start, on-time. -/
def layOut (b : Nat) : Nat → List (Nat × Nat) → List (Nat × Nat × Nat)
  | _, [] => []
  | c, (p, d) :: l => (p, c % 2 ^ b, d) :: layOut b (c + d) l

/-- R291: the frame of a port: position, start, on-time. -/
def State.frame (s : State) (n : Nat) : List (Nat × Nat × Nat) := layOut (s.drvB n) 0 (s.onTimes n)

/-- R291: a position that starts at `start` with on-time d is lit at count c of a frame of 2^b counts. -/
def litAt (b start d c : Nat) : Bool := decide ((c + 2 ^ b - start) % 2 ^ b < d)

/-- R289: the current in mA that the registers set: 1,500 mA × GSCALE/255 × ISET/1,023, rounded to the nearest. -/
def State.setMa (s : State) (n : Nat) : Nat :=
  let g := if (s.port' n).st = .dflt then (s.port' n).dr.gscale else s.rf R.drg_GSCALE 0 8
  let i := if (s.port' n).st = .dflt then (s.port' n).dr.iset else s.rf (R.drv_DRV_CFG n) 16 10
  (2 * 1500 * g * i + 255 * 1023) / (2 * 255 * 1023)

/-! ### Headroom (R297) -/

/-- VF_p in 10 mV: as measured, or VF_DEF. -/
def State.vf (s : State) (n p : Nat) : Nat :=
  if s.rb (R.drv_VFp n p) 31 then s.rf (R.drv_VFp n p) 0 10 else s.rf (R.drv_VF_DEF n) 0 10

/-- HR_TARGET + HR_TRIM in 10 mV. -/
def State.hrBase (s : State) (n : Nat) : Int := s.rf (R.drv_HR_CFG n) 16 8 + sgn 12 (s.rf (R.drv_HRQ_NOW n) 16 12)

/-- The need at a count: the voltages of the lit positions and the base. -/
def State.needAt (s : State) (n : Nat) (f : List (Nat × Nat × Nat)) (c : Nat) : Int :=
  f.foldl (fun a x => if litAt (s.drvB n) x.2.1 x.2.2 c then a + s.vf n x.1 else a) (s.hrBase n)

/-- The largest of some needs. -/
def maxNeed (l : List Int) : Int := l.foldl (fun a x => max a x) 0

/-- The largest need of a frame over a window of `span` counts from c, beside that at c itself: it rises only where a position starts. -/
def State.needOver (s : State) (n : Nat) (f : List (Nat × Nat × Nat)) (c span : Nat) : Int :=
  let full := 2 ^ s.drvB n
  maxNeed (s.needAt n f c :: (f.filterMap fun x => if (x.2.1 + full - c) % full ≤ span then some (s.needAt n f x.2.1) else none))

/-- The bank that is not active. -/
def State.shadowOf (s : State) (n : Nat) : List Nat := (s.drg.banks.getD (1 - s.drg.active) []).getD n []

/-- The active bank of a port. -/
def State.bankOf (s : State) (n : Nat) : List Nat := (s.drg.banks.getD s.drg.active []).getD n []

/-- The frame maximum of the shadow bank. -/
def State.shadowMax (s : State) (n : Nat) : Int :=
  let b := s.drvB n
  let f := layOut b 0 ((s.active n).map fun p => (p, s.onTimeOf n p ((s.shadowOf n).getD p 0)))
  s.needOver n f 0 (2 ^ b)

/-- The full-string need of a test slot. -/
def State.testNeed (s : State) (n : Nat) : Int := (s.active n).foldl (fun a p => a + s.vf n p) (s.hrBase n)

/-- R302: the start of the test slot of superframe sf in ns: the first frame start at or after the edge of its tick. -/
def State.slotNs (s : State) (n sf : Nat) : Nat :=
  cdiv ((sf * 256 + s.rf R.drg_TEST_CFG 16 8) * 4000000) (s.framePeriod n) * s.framePeriod n

/-- R302: superframe sf has a test slot. -/
def State.testSf (s : State) (sf : Nat) : Bool := s.rb R.drg_TEST_CFG 0 && decide (sf % max 1 (s.rf R.drg_TEST_CFG 8 8) = 0)

/-- R302: the port would be tested: it is lit and some active position has an on-time. -/
def State.testable (s : State) (n : Nat) : Bool :=
  (decide ((s.port' n).st = .dflt) || decide ((s.port' n).st = .running) || decide ((s.port' n).st = .paused)) && (s.onTimes n).any fun x => decide (x.2 ≠ 0)

/-- R297: now lies in a test slot or its lead. -/
def State.inTestLead (s : State) (n lead : Nat) : Bool :=
  s.holds && s.testable n && [s.sf, s.sf + 1].any fun sf =>
    s.testSf sf && decide ((s.port' n).cut ≠ some sf) && decide (s.slotNs n sf ≤ s.ntNs s.cnt + lead * 1000) && decide (s.ntNs s.cnt < s.slotNs n sf + 40000)

/-- R297: the new bank's need is requested now: from the arm for FSYNC, in the lead before the edge otherwise. -/
def State.inSwapLead (s : State) (lead : Nat) : Bool :=
  match s.drg.armed with
  | none => false
  | some a =>
    let edge := (s.tick + 1) * 4000000
    let now := s.ntNs s.cnt
    if a.src = 2 then true
    else if a.src = 1 then s.holds && decide (a.at' * 4000000 ≤ now + lead * 1000)
    else s.holds && decide (edge ≤ now + lead * 1000) && decide (a.lead * 1000 + now ≤ (s.cnt - a.cnt).toNat * 4 + edge)

/-- R296: w_p at edge i of its fade. -/
def Port.wAt (p : Port) (i : Nat) : List Nat :=
  (List.range 32).map fun k => fadeValue (p.s0.getD k 0) (p.t0.getD k 0) (p.n0.getD k 0) i

/-- R297: the frame that the fades of a running port produce at the next tick edge. -/
def State.nextFrame (s : State) (n : Nat) : List (Nat × Nat × Nat) :=
  let p := s.port' n
  let w := p.wAt (p.i + 1)
  let v := match s.lvl.fade with | some f => fadeAt f (f.i + 1) | none => p.v
  layOut (s.drvB n) 0 ((s.active n).map fun k => (k, onTime (s.rf (R.drv_DRV_CFG n) 0 1) (s.drvB n) v (w.getD k 0)))

/-- R297: the need over the lead: of the frame, and where a tick edge falls within the lead, of the frame that follows it. -/
def State.leadNeed (s : State) (n lead : Nat) : Int :=
  let full := 2 ^ s.drvB n
  let toEdge := (1000000 - (s.cnt - s.edgeCnt).toNat) * 4
  let now := s.needOver n (s.frame n) (s.frameNs s.cnt / 40 % full) (min (lead * 1000) toEdge / 40)
  if (s.port' n).st = .running ∧ toEdge ≤ lead * 1000 then
    max now (s.needOver n (s.nextFrame n) ((s.frameNs s.cnt + toEdge) / 40 % full) ((lead * 1000 - toEdge) / 40))
  else now

/-- R297: Q of one port, in 10 mV, before its limits. -/
def State.portNeed (s : State) (n : Nat) : Int :=
  let p := s.port' n
  let f := s.frame n
  if !p.st.lit || !(f.any fun x => decide (x.2.2 ≠ 0)) then 1000
  else
    let lead := s.rf (R.drv_HR_CFG n) 0 10
    let q := s.leadNeed n lead
    let q := if s.inTestLead n lead then max q (s.testNeed n) else q
    if p.st = .running && s.inSwapLead lead then max q (s.shadowMax n) else q

/-- R297: the request of a port within 10-125 V: the largest of its supply's group. -/
def State.request (s : State) (n : Nat) : Nat :=
  let g := s.rd R.drg_HR_SHARE
  let grp := if tst g n then (List.range 4).filter fun m => tst g m else if tst g (4 + n) then (List.range 4).filter fun m => tst g (4 + m) else [n]
  (clampI 1000 12500 (maxNeed (grp.map fun m => s.portNeed m))).toNat

/-! ### Fades and swaps (R293-R296) -/

/-- PFADE_p of a port. -/
def State.pfade (s : State) (n p : Nat) : Nat := s.rf (R.drv_PFADEk n (p / 4)) (8 * (p % 4)) 6

/-- R296: every position of a port starts its fade from a value to the active bank. A start at a tick edge is its edge i = 0; any other shows the value it starts from until the first edge after it. -/
def State.startPort (s : State) (n : Nat) (frm : List Nat) (edge : Bool) : State :=
  let t := s.bankOf n
  let l := (List.range 32).map fun p => fadeLen (s.pfade n p)
  s.modPort n fun x =>
    let x := { x with s0 := frm, t0 := t, n0 := l, i := 0, pswap := false, w := frm }
    if edge then { x with w := x.wAt 0 } else x

/-- R306: a port keeps what it shows. -/
def Port.hold (p : Port) : Port := { p with s0 := p.w, t0 := p.w, n0 := List.replicate 32 0, pswap := false }

/-- R295: one port meets a swap; in the error state it holds what it shows (R390). -/
def State.portSwap (s : State) (n : Nat) (edge : Bool) : State :=
  let p := s.port' n
  if s.cryError then s.modPort n fun x => { x with pswap := x.st = .paused }
  else if p.st = .running then s.startPort n p.w edge
  else if p.st = .paused then s.modPort n fun x => { x with pswap := true }
  else s

/-- R302: the port is in its test slot. -/
def State.inSlot (s : State) (n : Nat) : Bool :=
  let t := s.frameNs s.cnt
  s.holds && s.testable n && s.testSf s.sf && decide ((s.port' n).cut ≠ some s.sf) && decide (s.slotNs n s.sf ≤ t) && decide (t < s.slotNs n s.sf + 40000)

/-- R295: a test slot in progress at a swap ends and gives no results. -/
def State.cutTest (s : State) (n : Nat) : State :=
  if s.inSlot n then
    (s.modPort n fun x => { x with cut := some s.sf }).bumpSat (R.drv_TEST_ABORT n) 1
  else s

/-- A reply to the BANK_LOAD that waits. -/
def State.bankReply (s : State) (status : Nat) : State :=
  match s.drg.tag with
  | none => s
  | some g =>
    let s := { s with drg := { s.drg with tag := none } }
    match s.mbx.taken.find? fun (c : Cmd) => c.e.tag = g with
    | some c => s.reply c status [] []
    | none => s

/-- An event of the firmware, where it runs. -/
def State.fwEvent (s : State) (code src : Nat) (p : Bytes) : State := if s.boot.stage = .booted then s.event code src p else s

/-- R293, R294: the banks exchange roles, at a tick edge or at an FSYNC edge; `inst` is the instant for the event. -/
def State.bankSwap (s : State) (inst : Nat) (edge : Bool) : State :=
  let s := (List.range 4).foldl (fun (t : State) n => t.cutTest n) s
  let s := { s with drg := { s.drg with armed := none, active := 1 - s.drg.active, swaps := (s.drg.swaps + 1) % 65536 } }
  let s := (s.wr R.drg_LAST_SWAP s.tick32).irq .drg 0
  let s := (List.range 4).foldl (fun (t : State) n => t.portSwap n edge) s
  (s.bankReply stOk).fwEvent 0xF601 (blkSrc .drg) (toLe 1 s.drg.active ++ toLe 8 inst)

/-- R294: the armed swap has had its lead. -/
def Armed.ripe (a : Armed) (c : DWord) : Bool := decide (a.lead * 250 ≤ (c - a.cnt).toNat)

/-- R24 step 5, R294: the swap due at the edge of tick k. -/
def State.swapEdge (s : State) (k : Nat) (c : DWord) : State :=
  if s.inReset .drg then s else
  match s.drg.armed with
  | none => s
  | some a =>
    if (a.src = 0 ∧ a.ripe c) ∨ (a.src = 1 ∧ s.holds ∧ !s.repeated ∧ a.at' ≤ k) then s.bankSwap k true else s

/-- FSYNC_EDGE: an FSYNC edge; one of the selected polarity swaps where its swap is armed and has had its lead. -/
def State.fsync (s : State) (rising : Bool) (c : DWord) : State :=
  if s.inReset .drg then s else
  let s := ((s.at c).bumpSat R.drg_FSYNC_CNT 1).wr64 R.drg_LAST_FSYNC_LO R.drg_LAST_FSYNC_HI (s.ntNs c)
  if rising = s.rb R.drg_SWAP_CFG 2 then s
  else match s.drg.armed with
    | some a => if a.src = 2 ∧ a.ripe c then s.bankSwap (s.ntNs c) false else (s.bumpSat R.drg_FSYNC_EARLY 1).irq .drg 1
    | none => (s.bumpSat R.drg_FSYNC_EARLY 1).irq .drg 1

/-- FSYNC_EDGE. -/
def execFsyncEdge (rising : Bool) (c : DWord) (s : State) : Host.Outcome State Fault Refusal := .next (s.fsync rising c)

/-- R293: arm a swap; the error that refuses it, if any. -/
def State.armBanks (s : State) (c : DWord) : State × Option Nat :=
  let src := s.rf R.drg_SWAP_CFG 0 2
  let at32 := s.rd R.drg_SWAP_AT
  let lead := (List.range 4).foldl (fun a n => max a (s.rf (R.drv_HR_CFG n) 0 10)) 0
  if s.drg.armed.isSome then (s, some 0x80)
  else if src = 3 then (s, some eBadValue)
  else if src = 1 ∧ !s.timeFor at32 then (s.noTime .drg at32, some eNoTime)
  else if src = 1 ∧ tickDiff at32 s.tick32 < 1 then (s, some eBadValue)
  else ({ s with drg := { s.drg with armed := some ⟨src, s.fullTick at32, c, lead⟩ } }, none)

/-- SWAP_CTRL.ARM. -/
def State.ctrlArm (s : State) (m : Master) (c : DWord) : State :=
  match (s.at c).armBanks c with
  | (t, none) => t
  | (t, some e) => t.err .drg e 0x4C m

/-- SWAP_ARM: a write of SWAP_CTRL.ARM. -/
def execSwapArm (m : Master) (c : DWord) (s : State) : Host.Outcome State Fault Refusal :=
  .next (s.writeAt .drg 0x4C m 1 fun t => (t.ctrlArm m c).answer .done)

/-- SWAP_CTRL.DISARM: the armed swap is withdrawn; a BANK_LOAD that waits for it is cancelled. -/
def State.ctrlDisarm (s : State) : State := ({ s with drg := { s.drg with armed := none } }).bankReply stCancelled

/-- SWAP_DISARM: a write of SWAP_CTRL.DISARM. -/
def execSwapDisarm (m : Master) (s : State) : Host.Outcome State Fault Refusal :=
  .next (s.writeAt .drg 0x4C m 2 fun t => t.ctrlDisarm.answer .done)

/-- Set two positions of the shadow bank. -/
def State.putShadow (s : State) (n i : Nat) (v : Word) : State :=
  let k := 1 - s.drg.active
  { s with drg := { s.drg with banks := modAt s.drg.banks k fun b => modAt b n fun l => setAt (setAt l (2 * i) (fld v 0 16)) (2 * i + 1) (fld v 16 16) } }

/-- R293: a write of the shadow bank, refused with ARMED while a swap is armed. -/
def State.shadowWrite (s : State) (m : Master) (n i : Nat) (v : Word) : State :=
  if s.drg.armed.isSome then s.err .drg 0x80 (0x100 + 64 * n + 4 * i) m else s.putShadow n i v

/-- SHADOW_WRITE. -/
def execShadowWrite (m : Master) (port : Fin 4) (index : Fin 16) (v : Word) (s : State) : Host.Outcome State Fault Refusal :=
  .next (s.writeAt .drg (0x100 + 64 * port.val + 4 * index.val) m v fun t => (t.shadowWrite m port.val index.val v).answer .done)

/-! ### Tick edge of a port (R289, R292, R298, R300, R304) -/

/-- The 40 ms point of the start has passed: the outputs of the contactors and the drive ports have their first configured state (R29, R51). -/
def State.configured (s : State) : Bool :=
  match s.boot.stage with
  | .defaults | .dead | .booted => true
  | .off | .reset | .checked => false

/-- R304: a port that firmware takes follows its registers and the active bank from this edge. -/
def State.takePort (s : State) (n : Nat) : State :=
  let b := s.bankOf n
  s.modPort n fun x =>
    let x := { x with take := 0, taken := true }
    if (x.st = .off ∨ x.st = .dflt) ∧ s.en (drvBlk n) then { { x with w := b }.hold with st := .running, i := 0 }
    else if x.st = .dflt then { x with st := .off }
    else x

/-- R303, R305: a port starts from off and fades in, as at a swap. -/
def State.fadeIn (s : State) (n : Nat) : State :=
  (s.startPort n (List.replicate 32 0) true).modPort n fun x => { x with st := .running, taken := true }

/-- R304: the default record of a port as it stands. -/
def State.defRec (s : State) (n : Nat) : DefRec :=
  ⟨s.rf (R.drg_DEFn_A n) 0 10, s.rf (R.drg_DEFn_A n) 10 4, s.rd (R.drg_DEFn_B n), s.rf (R.drg_DEFn_C n) 0 16, s.rf R.drg_DEF_GSCALE 0 8⟩

/-- R304: the sequencer runs a port by its default record; VF_DEF takes the record's VFD. -/
def State.runDefault (s : State) (n : Nat) : State :=
  let d := s.defRec n
  let s := (s.wf (R.drv_VF_DEF n) 0 10 (s.rf (R.drg_DEFn_C n) 16 10)).modPort n fun x => { x with st := .dflt, dr := d, start := 0 }
  let ma := s.setMa n
  s.modPort n fun x => { x with ma := ma }

/-- A port that was to start does so: faded in where firmware has taken it, by its default record where it ran that when it faulted (R303, R305). -/
def State.portStart (s : State) (n : Nat) : State :=
  let p := s.port' n
  let s := s.modPort n fun x => { x with start := 0 }
  if p.st ≠ .off then s
  else if p.taken then (if s.en (drvBlk n) then s.fadeIn n else s)
  else if p.wasDef then s.runDefault n else s

/-- R16, R51, R390: the port may be lit or changed: the 40 ms point has passed, the module is no standby, and no failed test holds its levels. -/
def State.mayLight (s : State) : Bool := s.configured && !s.isStandby && !s.cryError

/-- One tick edge of a wait that ends with an action: none left to pass acts at this edge. -/
def waitEdge (k : Nat) : Nat := if 2 ≤ k then k - 1 else k

/-- R20: ENMASK and OPEN_MASK come into use once their wait is over. -/
def State.relive (s : State) (n : Nat) : State :=
  s.modPort n fun x =>
    if s.cryError then x
    else if x.relive = 1 then { x with relive := 0, mask := s.rd (R.drv_ENMASK n), latch := s.rd (R.drv_OPEN_MASK n) }
    else { x with relive := waitEdge x.relive }

/-- R306, R296: one edge of a port: what waits for it, and the fades, unless the swap or the start was at this edge; DRG in reset freezes the port. -/
def State.portStep (s : State) (n : Nat) (swapped : Bool) : State :=
  if s.inReset .drg then s
  else
    let p := s.port' n
    let s := s.relive n
    let s := if p.take = 1 && s.mayLight then s.takePort n else s.modPort n fun x => { x with take := waitEdge x.take }
    let starts := decide (p.start = 1) && s.mayLight
    let s := if starts then s.portStart n else s.modPort n fun x => { x with start := waitEdge x.start }
    let ma := s.setMa n
    let v := s.lvl.shown % 65536
    s.modPort n fun x =>
      let x := if x.st = .running then (if swapped || starts then x else { x with i := x.i + 1, w := x.wAt (x.i + 1) }) else x
      { x with ma := if s.cryError then x.ma else ma, v := if x.st = .paused then x.v else v }

/-- R298: HR_TRIM after a tick with a mean sink voltage, in 10 mV: a quarter of the difference, at most 0.5 V in a tick, within 6.0 V. -/
def trimStep (trim target volts : Int) : Int := clampI (-600) 600 (trim + clampI (-50) 50 ((target - volts) / 4))

/-- R298, R300, R303: what the sink monitor gives for the tick that ended. -/
def State.sinkEdge (s : State) (n : Nat) (x : SinkMeas) : State :=
  let s := s.wf (R.drv_SINK_TEMP n) 0 8 x.temp
  let lit := (s.onTimes n).any fun y => decide (y.2 ≠ 0)
  if !(s.port' n).st.lit || !lit then s.wf (R.drv_I_MEAS n) 0 11 0
  else
    let full := 2 ^ s.drvB n
    let sum := ((s.onTimes n).map fun y => y.2).sum
    let s := (s.wf (R.drv_SINK_V n) 0 14 x.volts).wf (R.drv_I_MEAS n) 0 11 x.ma
    let s := x.vf.foldl (fun (t : State) y => if (s.onTimes n).any fun z => z.1 = y.1 && decide (z.2 ≠ 0) then t.wr (R.drv_VFp n y.1) (w32 (min y.2 1023 + 2 ^ 31)) else t) s
    let trim := trimStep (sgn 12 (s.rf (R.drv_HRQ_NOW n) 16 12)) (s.rf (R.drv_HR_CFG n) 16 8) x.volts
    let s := s.wf (R.drv_HRQ_NOW n) 16 12 (unsgn 12 trim)
    let s := s.modPort n fun p => { p with acc := p.acc + x.volts * x.ma * min sum full / full }
    if 800 < x.volts then ((s.bumpSat (R.drv_HR_HIGH_CNT n) 1).irq (drvBlk n) 4).fwEvent 0xF600 (blkSrc (drvBlk n)) (toLe 1 n ++ toLe 1 5 ++ toLe 1 0) else s

/-- R300: at a superframe boundary the averages in mW are reported. -/
def State.sinkReport (s : State) : State :=
  let mw (n : Nat) : Nat := (s.port' n).acc / 25600
  let s := (List.range 4).foldl (fun (t : State) n => t.wf (R.drv_SINK_P n) 0 16 (min 65535 (mw n))) s
  let total := ((List.range 4).map mw).sum
  let s := s.wf R.drg_SINK_TOTAL 0 16 (min 65535 total)
  let s := { s with port := s.port.map fun (p : Port) => { p with acc := 0 } }
  if 6000 < total then s.irq .drg 2 else s

/-- R24 step 5 and the drive's other work at a tick edge. -/
def State.driveEdge (s : State) (k : Nat) (c : DWord) (sinks : List SinkMeas) : State :=
  let old := s.drg.swaps
  let s := (List.range 4).foldl (fun (t : State) n => match sinks[n]? with | some x => if t.inReset (drvBlk n) then t else t.sinkEdge n x | none => t) s
  let s := if k % 256 = 0 then s.sinkReport else s
  let s := s.swapEdge k c
  let sw := decide (s.drg.swaps ≠ old)
  (List.range 4).foldl (fun (t : State) n => if t.inReset (drvBlk n) then t else t.portStep n sw) s

/-! ### Faults and the string test (R301-R303) -/

/-- R303: a fault of a port: its event, and with it the Ledger record; rows are numbered from 1. -/
def State.drvFault (s : State) (n row pos : Nat) : State := s.fwEvent 0xF600 (blkSrc (drvBlk n)) (toLe 1 n ++ toLe 1 row ++ toLe 1 pos)

/-- R291, R302: the position is lit in the port's frames, or by its test slot. -/
def State.litPos (s : State) (n p : Nat) : Bool :=
  (s.port' n).st.lit && (s.onTimes n).any fun x => decide (x.1 = p) && (decide (x.2 ≠ 0) || s.inSlot n)

/-- OPEN_POSITION: a lit position above OPEN_V is bypassed and latched. -/
def execOpenPosition (port : Fin 4) (pos : Fin 32) (s : State) : Host.Outcome State Fault Refusal :=
  .next (
    let n := port.val
    if s.inReset (.drv port) || !s.litPos n pos.val then s
    else
      let s := (s.wb (R.drv_OPEN_MASK n) pos.val true).modPort n fun x => { x with latch := setBit x.latch pos.val true }
      (s.irq (.drv port) 0).drvFault n 1 pos.val)

/-- DROPOUT: the sink is starved while it should carry current. -/
def execDropout (port : Fin 4) (s : State) : Host.Outcome State Fault Refusal :=
  .next (
    let n := port.val
    if s.inReset (.drv port) || !(s.port' n).st.lit then s
    else ((s.bumpSat (R.drv_DROPOUT_CNT n) 1).irq (.drv port) 3).drvFault n 4 0)

/-- R303: the sink turns off and the port is in the fault state. -/
def State.portFault (s : State) (n irqBit row : Nat) : State :=
  let p := s.port' n
  if s.inReset (drvBlk n) || decide (p.st = .fault) then s
  else
    let s := if p.st = .disabling then s.setDrained (drvBlk n) else s
    ((s.modPort n fun x => { x with st := .fault, start := 0, wasDef := decide (p.st = .dflt) }).irq (drvBlk n) irqBit).drvFault n row 0

/-- SINK_HOT: a sink junction at 150 °C (R300). -/
def execSinkHot (port : Fin 4) (s : State) : Host.Outcome State Fault Refusal := .next (s.portFault port.val 5 6)

/-- DRV_LINK_LOST: no valid link word for 2 µs. -/
def execDrvLinkLost (port : Fin 4) (s : State) : Host.Outcome State Fault Refusal :=
  .next ((s.modPort port.val fun x => { x with link := false }).portFault port.val 6 7)

/-- R303: one position's sample: VF_p, and the short and degraded checks. -/
def State.testPos (s : State) (n p v : Nat) : State :=
  let h := (Sparse.find (s.port' n).hist p).getD []
  let dev := s.rf (R.drv_FAULT_CFG n) 16 8 * 5
  let far := decide (16 * dev < (16 * (v : Int) - h.sum).natAbs)
  let s := s.wr (R.drv_VFp n p) (w32 (min v 1023 + 2 ^ 31))
  let s := s.modPort n fun x => { x with hist := Sparse.put x.hist p ((v :: h).take 16) }
  let s := if v < s.rf (R.drv_FAULT_CFG n) 8 8 * 5 then ((s.wb (R.drv_SHORT_MASK n) p true).irq (drvBlk n) 1).drvFault n 2 p else s
  if h.length = 16 && far then ((s.wb (R.drv_DEV_MASK n) p true).irq (drvBlk n) 2).drvFault n 3 p else s

/-- STRING_TEST: the test slot of a superframe ends with the voltages of the positions, in 10 mV. A port with nothing lit skips it. -/
def State.stringTest (s : State) (n : Nat) (volts : List Nat) : State :=
  let p := s.port' n
  if s.inReset (drvBlk n) || s.inReset .drg || !s.onNet || !s.testSf s.sf || decide (s.tick % 256 ≠ s.rf R.drg_TEST_CFG 16 8) || decide (p.cut = some s.sf) then s
  else if p.st = .dflt ∨ p.st = .running ∨ p.st = .paused then
    let a := R.drv_TEST_CNT n
    let go := s.testable n
    let s := s.modPort n fun x => { x with cut := some s.sf }
    if !go then s.wf a 16 16 (min 65535 (s.rf a 16 16 + 1))
    else
      let t := ((s.active n).foldl (fun (u : State) q => match volts[q]? with | some v => u.testPos n q v | none => u) s)
      (t.wf a 0 16 (min 65535 (t.rf a 0 16 + 1))).irq (drvBlk n) 7
  else s

/-- STRING_TEST. -/
def execStringTest (port : Fin 4) (volts : List Nat) (s : State) : Host.Outcome State Fault Refusal := .next (s.stringTest port.val volts)

/-- R20: the tick edges that a write lets pass before it changes a frame: the second is the first that lies at least one full tick after it. -/
abbrev fullTickWait : Nat := 2

/-- R303: DRV_CTRL.CLR_FAULT: the port leaves the fault state and starts from off at a later tick edge (R20): faded in where firmware has taken it, by its default record otherwise. -/
def State.clrFault (s : State) (n : Nat) : State :=
  let p := s.port' n
  if p.st ≠ .fault then s
  else s.modPort n fun x => { x with link := true, st := .off, start := fullTickWait }

/-- DRV_CLR_FAULT: a write of DRV_CTRL.CLR_FAULT. -/
def execDrvClrFault (m : Master) (port : Fin 4) (s : State) : Host.Outcome State Fault Refusal :=
  .next (s.writeAt (.drv port) 0x58 m 2 fun t => (t.clrFault port.val).answer .done)

/-- R304: DRV_CTRL.TAKE acts at the next tick edge; a host's at the first that lies a full tick after it (R20). -/
def State.drvTake (s : State) (m : Master) (n : Nat) : State :=
  s.modPort n fun x => { x with take := if m = .host then fullTickWait else 1 }

/-- DRV_TAKE: a write of DRV_CTRL.TAKE. -/
def execDrvTake (m : Master) (port : Fin 4) (s : State) : Host.Outcome State Fault Refusal :=
  .next (s.writeAt (.drv port) 0x58 m 1 fun t => (t.drvTake m port.val).answer .done)

/-! ### Defaults, disable, drain and reset (R39, R304-R306) -/

/-- R39, R304: the sequencer lights or darkens the ports that no firmware has taken, each by its record; a port in reset stays dark (R48), and so do those of a standby (R16). -/
def State.drvDefaults (s : State) (lit : Bool) : State :=
  (List.range 4).foldl (fun (t : State) n =>
    let p := t.port' n
    if t.inReset (drvBlk n) ∨ p.taken ∨ (p.st ≠ .off ∧ p.st ≠ .dflt) then t
    else if lit && t.rb (R.drg_DEFn_A n) 31 && !t.isStandby then t.runDefault n
    else
      let t := t.modPort n fun x => { x with st := .off, start := 0 }
      let ma := t.setMa n
      t.modPort n fun x => { x with ma := ma }) s

/-- R305: EN is cleared: the disable fade begins, or DRAINED sets at once. -/
def State.drvDisable (s : State) (n : Nat) : State :=
  let p := s.port' n
  if p.st.lit && decide (p.st ≠ .disabling) then
    let d := s.onTimes n
    let d0 := (List.range 32).map fun k => (match d.find? fun x => x.1 = k with | some x => x.2 | none => 0)
    s.modPort n fun x => { x with st := .disabling, start := 0, d0 := d0, dis := s.cnt, disMs := s.rf (R.drv_DIS_FADE n) 0 12 }
  else if p.st = .disabling then s else (s.modPort n fun x => { x with start := 0 }).setDrained (drvBlk n)

/-- R305: EN is set: a port that firmware has taken fades in at a later tick edge (R20). -/
def State.drvEnable (s : State) (n : Nat) : State :=
  let p := s.port' n
  if p.taken && decide (p.st = .off) then s.modPort n fun x => { x with start := fullTickWait } else s

/-- R305: the disable fade has run its DIS_FADE. -/
def State.drvFaded (s : State) (n : Nat) : State :=
  let p := s.port' n
  if p.st = .disabling ∧ (s.cnt - p.dis).toNat < p.disMs * 250000 then s.at (p.dis + BitVec.ofNat 64 (p.disMs * 250000)) else s

/-- R305: the disable fade has ended. -/
def State.drvDrained (s : State) (n : Nat) : State :=
  if (s.port' n).st = .disabling then (s.modPort n fun x => { x with st := .off }).setDrained (drvBlk n) else s

/-- R305: DRAIN pauses the fades. -/
def State.drvPause (s : State) (n : Nat) : State :=
  (s.modPort n fun x => { x with st := if x.st = .running then .paused else x.st }).setDrained (drvBlk n)

/-- R295, R305: the port resumes; after a swap in the pause it fades to the active bank. -/
def State.drvResume (s : State) (n : Nat) : State :=
  let p := s.port' n
  if p.st ≠ .paused then s
  else
    let s := s.modPort n fun x => { x with st := .running }
    if p.pswap then s.startPort n p.w false else s

/-- R306: a DRVn reset turns the sink off and forgets the port. -/
def State.drvReset (s : State) (n : Nat) : State := s.modPort n fun _ => portOff

/-- R306: a DRG reset clears the banks and the armed swap; ports hold what they show. -/
def State.drgReset (s : State) : State :=
  let s := s.bankReply stCancelled
  { s with drg := drgOff, port := s.port.map fun (p : Port) => p.hold }

/-! ### Registers -/

/-- DRV registers that show the port. -/
def State.drvRead (s : State) (n off : Nat) : Option Word :=
  let p := s.port' n
  if off = 0x5C then
    some (w32 (p.st.code + b2n p.st.lit * 8 + b2n p.link * 16 + ((s.onTimes n).filter fun x => decide (x.2 ≠ 0)).length * 2 ^ 8))
  else if off = 0x6C then some (setFld (s.rd (R.drv_HRQ_NOW n)) 0 11 (s.request n / 10))
  else none

/-- DRV registers with a rule of their own. -/
def State.drvWrite (s : State) (m : Master) (n off : Nat) (v : Word) : Option State :=
  if off = 0x40 then
    if s.en (drvBlk n) && decide ((v ^^^ s.rd (R.drv_DRV_CFG n)) &&& 0xF1 ≠ 0) then some (s.err (drvBlk n) eBusy off m)
    else if 8 < fld v 4 4 then some (s.err (drvBlk n) eBadValue off m) else none
  else if off = 0x48 then
    if fld v 0 10 < 20 ∨ 1000 < fld v 0 10 ∨ fld v 16 8 < 45 ∨ 200 < fld v 16 8 then some (s.err (drvBlk n) eBadValue off m) else none
  else if off = 0x44 ∨ off = 0x60 then
    some ((s.plainWrite (drvBlk n) (blkBase (drvBlk n) + off) m v).modPort n fun x => { x with relive := fullTickWait })
  else if off = 0x58 then
    let s := if tst v 0 then s.drvTake m n else s
    some (if tst v 1 then s.clrFault n else s)
  else if 0x100 ≤ off ∧ off < 0x120 ∧ v &&& 0xC0C0C0C0 ≠ 0 then some (s.err (drvBlk n) eBadValue off m)
  else none

/-- Two values of a bank as a word. -/
def bankWord (l : List Nat) (i : Nat) : Word := w32 (l.getD (2 * i) 0 + l.getD (2 * i + 1) 0 * 2 ^ 16)

/-- DRG registers that show the banks and the swap. -/
def State.drgRead (s : State) (off : Nat) : Option Word :=
  if off = 0x50 then some (w32 (s.drg.active + b2n s.drg.armed.isSome * 2 + s.drg.swaps * 2 ^ 16))
  else if 0x100 ≤ off ∧ off < 0x200 then some (bankWord (s.shadowOf ((off - 0x100) / 64)) ((off - 0x100) % 64 / 4))
  else if 0x200 ≤ off ∧ off < 0x300 then some (bankWord (s.bankOf ((off - 0x200) / 64)) ((off - 0x200) % 64 / 4))
  else none

/-- DRG registers with a rule of their own. -/
def State.drgWrite (s : State) (m : Master) (off : Nat) (v : Word) : Option State :=
  if off = 0x44 then (if fld v 0 2 = 3 then some (s.err .drg eBadValue off m) else none)
  else if off = 0x4C then
    let s := if tst v 0 then s.ctrlArm m s.cnt else s
    some (if tst v 1 then s.ctrlDisarm else s)
  else if off = 0x60 then (if fld v 8 8 = 0 then some (s.err .drg eBadValue off m) else none)
  else if off = 0x64 then (if fld v 0 4 &&& fld v 4 4 ≠ 0 then some (s.err .drg eBadValue off m) else none)
  else if 0x100 ≤ off ∧ off < 0x200 then some (s.shadowWrite m ((off - 0x100) / 64) ((off - 0x100) % 64 / 4) v)
  else none

/-! ### Mailbox (R307) -/

/-- Load the shadow from 256 bytes. -/
def State.loadShadow (s : State) (b : Bytes) : State :=
  let bank := (List.range 4).map fun n => (List.range 32).map fun p => le b (64 * n + 2 * p) 2
  { s with drg := { s.drg with banks := setAt s.drg.banks (1 - s.drg.active) bank } }

/-- BANK_LOAD: write the shadow and arm; the reply comes at the swap. -/
def execBankLoad (tag : Word) (c : DWord) (s : State) : Host.Outcome State Fault Refusal :=
  .next (s.withCmd 0x0600 tag fun k t =>
    let src := k.par 0 1
    if k.e.length ≠ 256 then t.reply k stBadLength [] []
    else if 2 < src then t.reply k stBadParam [] []
    else if !t.takes .drg then t.reply k stBusy [] []
    else if t.drg.armed.isSome then t.reply k stFault (toLe 1 0x80) []
    else
      let t := (t.at c).loadShadow k.bytes
      let at' := if k.e.apply = 0 then w32 (t.tick + 2) else k.e.apply
      match ((t.wf R.drg_SWAP_CFG 0 2 src).wr R.drg_SWAP_AT at').armBanks c with
      | (u, none) => ({ u with drg := { u.drg with tag := some tag } }).defer k
      | (u, some e) => u.reply k (if e = eNoTime then stNoTime else stBadParam) [] [])

/-- The status of one port: PORT_STAT, the three masks, the 32 VF_p. -/
def State.portStatus (s : State) (n : Nat) : Bytes :=
  toLe 4 ((s.drvRead n 0x5C).getD 0).toNat ++ toLe 4 (s.rn (R.drv_OPEN_MASK n)) ++ toLe 4 (s.rn (R.drv_SHORT_MASK n)) ++ toLe 4 (s.rn (R.drv_DEV_MASK n)) ++
  (List.range 32).flatMap fun p => toLe 4 (s.rn (R.drv_VFp n p))

/-- DRV_STATUS. -/
def execDrvStatus (tag : Word) (s : State) : Host.Outcome State Fault Refusal :=
  .next (s.withCmd 0x0601 tag fun k t => t.reply k stOk [] ((List.range 4).flatMap fun n => t.portStatus n))

/-- R307: write a port's default record, VALID last, or clear VALID. -/
def State.defaultSet (s : State) (n iset bits : Nat) (en : Word) (ontime vfd gscale : Nat) : State :=
  let s := s.wb (R.drg_DEFn_A n) 31 false
  if en = 0 then s
  else
    let s := ((s.wr (R.drg_DEFn_B n) en).wr (R.drg_DEFn_C n) (w32 (ontime + vfd * 2 ^ 16))).wf R.drg_DEF_GSCALE 0 8 gscale
    s.wr (R.drg_DEFn_A n) (w32 (iset + bits * 2 ^ 10 + 2 ^ 31))

/-- DEFAULT_SET. -/
def execDefaultSet (tag : Word) (s : State) : Host.Outcome State Fault Refusal :=
  .next (s.withCmd 0x0602 tag fun k t =>
    if 3 < k.par 0 1 ∨ 1023 < k.par 1 2 ∨ 8 < k.par 3 1 ∨ 1023 < k.par 10 2 then t.reply k stBadParam [] []
    else if t.inReset .drg then t.reply k stBusy [] []
    else (t.defaultSet (k.par 0 1) (k.par 1 2) (k.par 3 1) (w32 (k.par 4 4)) (k.par 8 2) (k.par 10 2) (k.par 12 1)).reply k stOk [] [])

end Sys2Proof.Machine
end

