-- ==== Sys2Proof/Machine/Scales.lean ====
section
/-! DEFINITION. Scales: correction by segment, line tracking, cycle energies, the latch with its record and ware, energy persistence, coefficient sets and the self-check (R308-R338, R341). -/

namespace Sys2Proof.Machine

open Sys2Proof

/-- A quotient in whole units, rounded as Config.roundUp says where it is no whole number. -/
def rdiv (num : Int) (den : Nat) : Int :=
  if den = 0 then Config.noMean num else num / den + (if num % den ≠ 0 && Config.roundUp num den then 1 else 0)

/-- The square root of a quotient in whole units, rounded likewise. -/
def rsqrt (num den : Nat) : Int :=
  if den = 0 then Config.noMean num
  else
    let r := isqrt (num / den)
    if r * r * den ≠ num && Config.roundUp num den then r + 1 else r

/-! ### Angles -/

/-- Terms of the series of cosine and sine in units of 2^-60, from the k-th power upward. -/
def trigSum (x2 : Int) : Nat → Int → Int → Int → Int
  | 0, _, _, a => a
  | n + 1, k, t, a => trigSum x2 n (k + 2) (-(t * x2 / 2 ^ 60) / ((k + 1) * (k + 2))) (a + t)

/-- Cosine and sine of an angle in 10^-6 degrees, in units of 2^-60. -/
def cosSin (a : Int) : Int × Int :=
  let d := (a + 180000000) % 360000000 - 180000000
  let x := d * 3622009729038561421 / 180000000
  (trigSum (x * x / 2 ^ 60) 24 0 (2 ^ 60) 0, trigSum (x * x / 2 ^ 60) 24 1 x 0)

/-- A phasor turned forward by an angle in 10^-6 degrees. -/
def turn (a : Int) (z : Int × Int) : Int × Int :=
  if a = 0 then z
  else let q := cosSin a; ((z.1 * q.1 - z.2 * q.2) / 2 ^ 60, (z.1 * q.2 + z.2 * q.1) / 2 ^ 60)

/-- The sign of the angle from θ, in 0.01 degrees, to a phasor with im ≥ 0. -/
def sideOf (re im : Int) (j : Nat) : Int := let q := cosSin (j * 10000); q.1 * im - q.2 * re

/-- The angle of a phasor in 0.01 degrees, between -180 and 180 degrees. -/
def angleOf (z : Int × Int) : Int :=
  if z = (0, 0) then Config.noMean 0
  else
    let im : Int := z.2.natAbs
    let k := searchTop (fun j => decide (j ≤ 18000) && decide (0 ≤ sideOf z.1 im j)) 15 0
    let k : Int := if decide (sideOf z.1 im k ≠ 0) && decide (im ≠ 0) && Config.roundUp z.1 z.2.natAbs then k + 1 else k
    if z.2 < 0 then -k else k

/-! ### Correction (R309, R316) -/

/-- The nominal period in ns (R313). -/
def State.nominal (s : State) : Nat := if s.rb R.scl_SCL_CFG 0 then 16667000 else 20000000

/-- Word j of the block of channel c in a set. -/
def coefW (set : List (List Word)) (c j : Nat) : Word := (set.getD c []).getD j 0

/-- The channel is enabled. -/
def State.chanOn (s : State) (c : Nat) : Bool := tst (coefW s.scl.act c 0) 0

/-- The segment in use on a channel. -/
def State.segOf (s : State) (c : Nat) : Nat := if c < 4 then 0 else s.scl.seg.getD (c - 4) 0

/-- R309, R316: one corrected bin, in units of 10^-14 V or 10^-15 A, for a cycle of t ns after one of tp ns. -/
def State.corrBin (s : State) (c t tp h : Nat) (z : Int × Int) : Int × Int :=
  let w := coefW s.scl.act c
  if tst (w 0) 3 && h = 0 then (0, 0)
  else
    let z := if fld (w 0) 1 2 = 2 then (z.2 * t / (h * s.nominal), -z.1 * t / (h * s.nominal)) else z
    let z := turn (h * sgn 16 (fld (w (20 + s.segOf c)) 0 16) * 1000 * tp / t) z
    let g := (fld (w 1) 0 24 : Int) * (1000000 + sgn 24 (fld (w (12 + s.segOf c)) 0 24))
    (z.1 * g, z.2 * g)

/-- The corrected bins of a channel. -/
def State.corrected (s : State) (chans : List ChanIn) (t c : Nat) : List (Int × Int) :=
  let tp := if s.scl.free ∨ s.scl.prevT = 0 then s.nominal else s.scl.prevT
  if s.chanOn c then ((chans.getD c ⟨false, []⟩).bins.zipIdx).map fun z => s.corrBin c t tp z.2 z.1 else []

/-- The bins of a difference. -/
def subBins : List (Int × Int) → List (Int × Int) → List (Int × Int)
  | [], b => b.map fun z => (-z.1, -z.2)
  | a, [] => a
  | x :: a, y :: b => (x.1 - y.1, x.2 - y.2) :: subBins a b

/-- The mean of the product of two signals. -/
def meanProd : List (Int × Int) → List (Int × Int) → Int
  | x :: a, y :: b => x.1 * y.1 + x.2 * y.2 + meanProd a b
  | _, _ => 0

/-- The fundamental. -/
def fund (l : List (Int × Int)) : Int × Int := l.getD 1 (0, 0)

/-- Real part of the product of one phasor with the conjugate of another. -/
def reProd (a b : Int × Int) : Int := a.1 * b.1 + a.2 * b.2

/-- Imaginary part of it. -/
def imProd (a b : Int × Int) : Int := a.2 * b.1 - a.1 * b.2

/-- R309: the twelve signals of page 1: u_x of the three phases, v_N, and the eight currents. -/
def State.signals (s : State) (chans : List ChanIn) (t : Nat) : List (List (Int × Int)) :=
  let n := s.corrected chans t 3
  (List.range 12).map fun c =>
    let x := s.corrected chans t c
    if c < 3 && !s.rb R.scl_SCL_CFG 16 then subBins x n else x

/-! ### Cycle quantities (R314, R315) -/

/-- The products of a path for a cycle of t ns: total, fundamental and reactive energy, apparent energy. -/
def phaseProd (u i : List (Int × Int)) (t : Nat) : List Int :=
  [meanProd u i * t, reProd (fund u) (fund i) * t, imProd (fund u) (fund i) * t,
   (isqrt ((meanProd u u).toNat * (meanProd i i).toNat) : Int) * t]

/-- Sums of lists of integers position by position. -/
def addL (a b : List Int) : List Int := List.zipWith (fun x y => x + y) a b

/-- The products of the eight paths 4f + p. -/
def pathProds (sig : List (List (Int × Int))) (t : Nat) : List (List Int) :=
  (List.range 2).flatMap fun f =>
    let x := (List.range 3).map fun p => phaseProd (sig.getD p []) (sig.getD (4 + 3 * f + p) []) t
    x ++ [x.foldl addL [0, 0, 0, 0]]

/-- R314, R315: what a path adds to its seven cumulatives. -/
def pathEnergy (x : List Int) : List Nat :=
  let g (i : Nat) := x.getD i 0
  [(g 0).toNat, (-g 0).toNat, (g 1).toNat, (-g 1).toNat, (g 2).toNat, (-g 2).toNat, (g 3).toNat]

/-- The interval's sums with a cycle. -/
def addCycle (m : SclSum) (sig : List (List (Int × Int))) (prods : List (List Int)) (t : Nat) : SclSum :=
  let col (i : Nat) := prods.map fun x => x.getD i 0
  { m with
    time := m.time + t,
    sq := List.zipWith (fun a x => a + (meanProd x x).toNat * t) m.sq sig,
    sq1 := List.zipWith (fun a x => a + (reProd (fund x) (fund x)).toNat * t) m.sq1 sig,
    e := addL m.e (col 0), e1 := addL m.e1 (col 1), q1 := addL m.q1 (col 2), s := addL m.s (col 3) }

/-- The cumulatives with a cycle. -/
def addEnergy (acc : List Nat) (prods : List (List Int)) : List Nat :=
  List.zipWith (fun a b => a + b) acc (prods.flatMap pathEnergy)

/-- Accumulate a cycle or a part of one. -/
def State.accumulate (s : State) (chans : List ChanIn) (t : Nat) : State :=
  let sig := s.signals chans t
  let prods := pathProds sig t
  { s with scl := { s.scl with sum := addCycle s.scl.sum sig prods t, acc := addEnergy s.scl.acc prods } }

/-- One µWh in units of 10^-38 J. -/
abbrev uWh : Nat := 36 * 10 ^ 34

/-- R321: a mirror, floor(C / 1,000) modulo 2^32. -/
def mirror (c : Nat) : Nat := c / 1000 % 2 ^ 32

/-! ### Clipping and segments (R310, R317) -/

/-- R310: the channels that clipped. The spare is sampled while a check runs. -/
def State.clipMask (s : State) (chans : List ChanIn) : Word :=
  (List.range 13).foldl (fun (a : Word) c =>
    if (chans.getD c ⟨false, []⟩).clip && (if c = 12 then decide (s.scl.check = .running) else s.chanOn c) then a ||| bitw c else a) 0

/-- METER_FAULT (R329): an event of the firmware. -/
def State.meterFault (s : State) (kind chan : Nat) : State :=
  s.fwEvent 0xF700 (blkSrc .scl) (toLe 1 kind ++ toLe 1 chan ++ toLe 4 s.scl.res.seq)

/-- R310: note clipped samples. -/
def State.noteClip (s : State) (chans : List ChanIn) : State :=
  let m := s.clipMask chans
  if m = 0 then s
  else
    let old := s.rd R.scl_CLIP
    let s := ({ s with scl := { s.scl with sum := { s.scl.sum with clip := true } } }.wr R.scl_CLIP (old ||| m)).irq .scl 3
    (List.range 13).foldl (fun (t : State) c => if tst m c && !tst old c then t.meterFault 2 c else t) s

/-- The RMS of a signal is at least b mA times q / 1,000. -/
def rmsAtLeast (ms : Nat) (b q : Nat) : Bool := decide ((b * q * 10 ^ 9) ^ 2 ≤ ms)

/-- Boundary B_k of a set's block. -/
def bnd (set : List (List Word)) (c k : Nat) : Nat := if k = 0 then 0 else fld (coefW set c (3 + k)) 0 24

/-- Move up while the current reaches the next boundary with hysteresis q. -/
def segUp (set : List (List Word)) (c ms q : Nat) : Nat → Nat → Nat
  | 0, k => k
  | n + 1, k => if k < 7 && rmsAtLeast ms (bnd set c (k + 1)) q then segUp set c ms q n (k + 1) else k

/-- Move down while the current is below the boundary with hysteresis q. -/
def segDown (set : List (List Word)) (c ms q : Nat) : Nat → Nat → Nat
  | 0, k => k
  | n + 1, k => if 0 < k && !rmsAtLeast ms (bnd set c k) q then segDown set c ms q n (k - 1) else k

/-- R317: the segments after a cycle whose mean squares are given. -/
def State.segments (s : State) (ms : List Nat) : List Nat :=
  (List.range 8).map fun j =>
    let c := 4 + j
    let h := fld (coefW s.scl.act c 2) 0 7
    segDown s.scl.act c (ms.getD c 0) (1000 - h) 7 (segUp s.scl.act c (ms.getD c 0) (1000 + h) 7 (s.scl.seg.getD j 0))

/-- R317: the segments under a new set, without hysteresis. -/
def freshSegs (set : List (List Word)) (ms : List Nat) : List Nat :=
  (List.range 8).map fun j => segUp set (4 + j) (ms.getD (4 + j) 0) 1000 7 0

/-! ### Totals records (R330-R333) -/

/-- The bytes of a totals record without its CRC (R331). -/
def totalsBody (nseq base kind coef lseq ns jseq : Nat) (acc : List Nat) : Bytes :=
  toLe 4 nseq ++ toLe 4 base ++ toLe 4 (kind + coef * 2 ^ 16) ++ toLe 4 lseq ++ toLe 8 ns ++ toLe 4 jseq ++ toLe 4 0 ++
  (acc.flatMap fun a => toLe 8 (a / uWh)) ++ (acc.flatMap fun a => toLe 4 (min (2 ^ 32 - 1) (a % uWh / (uWh / 2 ^ 32)))) ++ List.replicate 60 0

/-- A totals record (R331). -/
def totalsRec (b : Bytes) : Bytes := b ++ toLe 4 (crcOf crc32c b)

/-- The valid totals record of a slot. -/
def State.slotRec (s : State) (a : Nat) : Option Bytes :=
  match s.nvsRead a 768 with
  | none => none
  | some b => if le b 764 4 = crcOf crc32c (b.take 764) then some b else none

/-- NSEQ of a slot; a slot that is not valid counts as the lowest (R332). -/
def State.slotSeq (s : State) (a : Nat) : Nat := match s.slotRec a with | some b => le b 0 4 | none => 0

/-- The slot of a pair with the lower NSEQ. -/
def State.lowSlot (s : State) (a b : Nat) : Nat := if s.slotSeq b < s.slotSeq a then b else a

/-- NVS takes Scales's saves (R137, R330). -/
def State.sclSaves (s : State) : Bool := !s.inReset .nvs && s.rb (R.nvs_NWRITERSr 2) (nvsBit .scl)

/-- COEF_STAT.SEQ. -/
def State.coefSeq (s : State) : Nat := s.rf R.scl_COEF_STAT 16 16

/-- A refused save is counted; NVS records it. -/
def State.saveFailed (s : State) : State :=
  ((s.nvsWrite .scl 0x10000 []).bumpSat R.scl_SAVE_FAIL_CNT 1).wb R.scl_NRG_STAT 2 false

/-- A totals record into a slot. -/
def State.saveTotals (s : State) (slot kind base ns : Nat) (acc : List Nat) : State :=
  let n := s.scl.nseq + 1
  let b := totalsBody n (if kind = 0 then n else base) kind s.coefSeq s.scl.res.seq ns s.scl.jseq acc
  let s := (s.nvsWrite .scl slot (totalsRec b)).wb R.scl_NRG_STAT 2 true
  { s with scl := { s.scl with nseq := n, lbase := if kind = 0 then n else s.scl.lbase } }

/-- R332: the saves of a latch: the journal record, then the totals. -/
def State.saveLatch (s : State) (record : Bytes) : State :=
  if !s.sclSaves then s.saveFailed
  else
    let s := s.nvsWrite .scl (0x11000 + 256 * (s.scl.jseq % 752)) record
    let s := { s with scl := { s.scl with jseq := (s.scl.jseq + 1) % 2 ^ 32 } }
    s.saveTotals (s.lowSlot 0x10000 0x10400) 0 0 s.scl.res.ns s.scl.acc

/-- R335: the tail: the totals with the running part of the cycle, into the older tail slot. Metering goes on unchanged. -/
def State.sclTail (s : State) : State :=
  if !s.runs .scl then s
  else if !s.sclSaves then s.saveFailed
  else
    let acc := (s.accumulate (Config.partCycle s.free) ((s.cnt - s.scl.lastB).toNat * 4)).scl.acc
    ((s.draw 1).saveTotals (s.lowSlot 0x10800 0x10C00) 1 s.scl.lbase (if s.holds then s.ntNs s.cnt else 0) acc).bumpSat R.scl_TAIL_CNT 1

/-- The cumulatives of a totals record. -/
def recAcc (b : Bytes) : List Nat :=
  (List.range 56).map fun i => (le b (32 + 8 * i) 8 * 2 ^ 32 + le b (480 + 4 * i) 4) * (uWh / 2 ^ 32)

/-- The record with the highest NSEQ. -/
def newest : List Bytes → Option Bytes
  | [] => none
  | b :: r => match newest r with | some c => if le c 0 4 < le b 0 4 then some b else some c | none => some b

/-- R333: restore the totals when SCL leaves reset. LATCH_SEQ starts at 0 after a cold reset. -/
def State.sclRestore (s : State) : State :=
  let lat := [0x10000, 0x10400].filterMap s.slotRec
  let tails := [0x10800, 0x10C00].filterMap s.slotRec
  let top := ((lat ++ tails).map fun b => le b 0 4).foldl max 0
  let stale (b : Bytes) (cl : Nat) : Bool := decide (le b 4 4 ≠ cl)
  match newest lat with
  | none => { s with scl := { s.scl with nseq := top, gap := some (0, 0) } }.wb R.scl_NRG_STAT 3 (!tails.isEmpty)
  | some l =>
    let cl := le l 0 4
    let ct := newest (tails.filter fun b => !stale b cl)
    let b := ct.getD l
    let acc := recAcc b
    let how := if ct.isSome then 2 else 1
    let seq := if s.boot.sclCold then 0 else le l 12 4
    let s := (s.wf R.scl_NRG_STAT 0 2 how).wb R.scl_NRG_STAT 3 (tails.any fun b => stale b cl)
    { s with scl := { s.scl with
        acc := acc, base := recAcc l, nseq := top, lbase := cl, jseq := le l 24 4, gap := some (how, le b 16 8),
        res := { resZero with seq := seq, cum := acc.map fun a => a / uWh % 2 ^ 64 } } }

/-! ### The latch (R320-R325) -/

/-- The results of channel c (R315). -/
def chanRes (m : SclSum) (sig : List (List (Int × Int))) (c : Nat) : List Int :=
  let sq := m.sq.getD c 0
  let sq1 := m.sq1.getD c 0
  let den := m.time * 10 ^ (if c < 4 then 22 else 24)
  let z := fund (sig.getD c [])
  let r := fund (sig.getD (if c < 4 ∨ 10 ≤ c then 0 else (c - 4) % 3) [])
  [rsqrt sq den, rsqrt sq1 den, rsqrt ((sq - sq1) * 10 ^ 8) sq1, angleOf (reProd z r, imProd z r)]

/-- The power results of a path. -/
def powRes (m : SclSum) (i : Nat) : List Int :=
  [m.e, m.e1, m.q1, m.s].map fun l => rdiv (l.getD i 0) (m.time * 10 ^ 26)

/-- LATCH_INFO of an interval (R322). -/
def infoWord (m : SclSum) (part noTime : Bool) (ref : Nat) : Nat :=
  m.cycles + b2n part * 2 ^ 16 + b2n m.start * 2 ^ 17 + b2n m.lost * 2 ^ 18 + b2n m.moved * 2 ^ 19 + b2n m.coefNew * 2 ^ 20 +
  b2n m.clip * 2 ^ 21 + b2n m.check * 2 ^ 22 + b2n noTime * 2 ^ 23 + ref * 2 ^ 24

/-- R321: the deltas between two sets of cumulatives. -/
def deltas (old new : List Nat) : List Nat :=
  List.zipWith (fun a b => (b / uWh / 1000 + 2 ^ 32 - a / uWh / 1000 % 2 ^ 32) % 2 ^ 32) old new

/-- The results of the latch at counter value c. -/
def State.latchRes (s : State) (sig : List (List (Int × Int))) (c : DWord) (part : Bool) : SclRes :=
  let m := s.scl.sum
  { seq := (s.scl.res.seq + 1) % 2 ^ 32,
    tick := (if s.holds then s.ntNs c / 4000000 else s.ntm.localTick) % 2 ^ 32,
    ns := if s.holds then s.ntNs c else 0,
    info := infoWord m part (!s.holds) s.scl.ref,
    freq := (rdiv (m.cycles * 10 ^ 12) m.cycT).toNat,
    chan := (List.range 12).map (chanRes m sig),
    pow := (List.range 8).map (powRes m),
    cum := s.scl.acc.map fun a => a / uWh % 2 ^ 64,
    dlt := deltas s.scl.base s.scl.acc }

/-- R322: the latch record. -/
def latchRec (r : SclRes) (coef : Nat) : Bytes :=
  let h := toLe 4 r.seq ++ toLe 4 r.tick ++ toLe 8 r.ns ++ toLe 4 r.info ++ toLe 4 r.freq ++ toLe 2 coef ++ toLe 2 0
  let d := r.dlt.flatMap fun x => toLe 4 x
  h ++ toLe 4 (crcOf crc32c (h ++ d)) ++ d

/-- Packet SRAM offset of the ring slot of a latch; packet SRAM is 4 MiB. -/
def State.slotOff (s : State) (seq : Nat) : Nat := (256 * s.rf R.scl_LREC_BASE 0 14 + 256 * (seq % 64)) % 0x400000

/-- R323: the latch ware. -/
def State.latchWare (s : State) (seq : Nat) : Ware :=
  let w := s.rd R.scl_LATCH_WARE
  let match' := tst w 1
  ⟨fld w 16 12, fld w 8 3, b2n (tst w 4) + b2n (tst w 3) * 2 + b2n (match' && tst w 2) * 4, s.rf R.scl_LATCH_DOM 0 12,
   fld w 12 4 + blkCode .scl * 16, if match' then w32 (s.rf R.scl_LATCH_DOM 16 16 * 2 ^ 16 + seq % 2 ^ 16) else 0, 0, 0,
   BitVec.ofNat 64 (0x10000000 + s.slotOff seq), 0⟩

/-- R323: the Market, or Scales itself, still holds a latch ware of a ring slot. -/
def State.slotHeld (s : State) (seq : Nat) : Bool :=
  (allWares s.mkt ++ s.mkt.hwHeld ++ s.scl.held).any fun w =>
    decide (w.origin / 16 % 256 = blkCode .scl) && decide (w.arg0 = BitVec.ofNat 64 (0x10000000 + s.slotOff seq))

/-- R321, R323: write the ring slot and submit the ware. -/
def State.latchOut (s : State) (record : Bytes) : State :=
  let seq := s.scl.res.seq
  let s := if s.slotHeld seq then (s.irq .scl 7).meterFault 4 0 else s
  let s := s.sramWrite (s.slotOff seq) record
  let s :=
    if !s.rb R.scl_LATCH_WARE 0 then s
    else if s.en .scl && s.drainBit .scl then { s with scl := { s.scl with held := s.scl.held ++ [s.latchWare seq] } }
    else s.hwSubmit (s.latchWare seq)
  s.irq .scl 0

/-- R318: take the pending set at a boundary; `ms` are the mean squares of the last cycle. -/
def State.takeSet (s : State) (ms : List Nat) : State :=
  let q := (s.coefSeq + 1) % 2 ^ 16
  let s := (s.wf R.scl_COEF_STAT 16 16 q).wr R.scl_NCYC (s.rd R.scl_SH_NCYC)
  let s := { s with scl := { s.scl with
    act := s.scl.sh, pend := none, seg := freshSegs s.scl.sh ms, sum := { s.scl.sum with coefNew := true } } }
  let s := s.irq .scl 4
  match s.scl.coefTag with
  | none => s
  | some tag =>
    let s := { s with scl := { s.scl with coefTag := none } }
    match s.mbx.taken.find? fun (c : Cmd) => c.e.tag = tag && c.e.opcode = 0x0700 with
    | some c => s.reply c stOk (toLe 2 q ++ toLe 4 s.scl.res.seq) []
    | none => s

/-- R318: the set is taken at a boundary at least one sample after the COMMIT. -/
def State.setDue (s : State) (c : DWord) : Bool :=
  match s.scl.pend with | some p => decide (31250 ≤ (c - p).toNat * 4) | none => false

/-- R341: Scales captures the feeder side at a latch that lies at or after a balance boundary. -/
def State.balCapture (s : State) (time : Nat) : State :=
  let r := s.scl.res
  let rough := s.scl.rough || decide (r.info / 2 ^ 16 % 4 ≠ 0)
  let s := { s with scl := { s.scl with rough := rough } }
  if !s.holds then s
  else
    let p := max 1 (s.rf R.scl_BAL_CFG 0 17) * 10 ^ 9
    let prev := s.scl.lastNs.getD (r.ns - time)
    let s := { s with scl := { s.scl with lastNs := some r.ns } }
    if !s.rb R.scl_BAL_CFG 31 || decide (r.ns / p ≤ prev / p) then s
    else
      let b := r.ns / p - 1
      let mir := (List.range 6).map fun i => mirror (r.cum.getD (28 * (i / 3) + 7 * (i % 3)) 0)
      let on (f : Nat) := s.rb R.scl_BAL_CFG (20 + f)
      let feed (o : List Nat) (x : Nat) : Nat :=
        (List.range 2).foldl (fun a f => if on f then a + (mir.getD (3 * f + x) 0 + 2 ^ 32 - o.getD (3 * f + x) 0) else a) 0
      let s := (s.wr R.scl_BAL_CAP_IDX (w32 b)).wr R.scl_BAL_CAP_SEQ (w32 r.seq)
      let bad := match s.scl.cap with | some (b', _) => rough || decide (b ≠ b' + 1) | none => true
      let s := match s.scl.cap with
        | some (_, o) => (List.range 3).foldl (fun (t : State) x => t.wr (R.scl_BAL_FEEDx x) (w32 (feed o x))) s
        | none => ((List.range 3).foldl (fun (t : State) x => t.wr (R.scl_BAL_FEEDx x) (Config.freeWord (t.free + x))) s).draw 3
      let st := s.rd R.scl_BAL_STAT
      { s with scl := { s.scl with cap := some (b, mir), rough := false } }.wr R.scl_BAL_STAT (setBit (setBit (setBit st 0 true) 1 false) 5 bad)

/-- R334: the firmware's record of the gap, at the first latch after a start. -/
def State.gapNote (s : State) : State :=
  match s.scl.gap with
  | none => s
  | some (how, ns) =>
    { s with scl := { s.scl with gap := none } }.fwEvent 0xF711 (blkSrc .scl) (toLe 1 how ++ toLe 8 ns ++ toLe 8 s.scl.res.ns)

/-- The results of a latch stand in page 1 and a new interval begins. -/
def State.publish (s : State) (r : SclRes) : State :=
  { s with scl := { s.scl with res := r, base := s.scl.acc, sum := { sumZero with check := decide (s.scl.check = .running) } } }

/-- R340: a latch of `time` ns adds its phase voltages to what the next reading reports. -/
def State.noteVolts (s : State) (time : Nat) : State :=
  let mv (c : Nat) : Nat := ((s.scl.res.chan.getD c []).getD 0 0).toNat
  { s with nrg := { s.nrg with volts := (s.nrg.volts.1 + (mv 0 + mv 1 + mv 2) * time, s.nrg.volts.2 + time) } }

/-- R321: the latch at a boundary. -/
def State.latch (s : State) (sig : List (List (Int × Int))) (ms : List Nat) (c : DWord) (part : Bool) : State :=
  let coef := s.coefSeq
  let time := s.scl.sum.time
  let s := (s.publish (s.latchRes sig c part)).noteVolts time
  let record := latchRec s.scl.res coef
  let s := if s.setDue c then s.takeSet ms else s
  let s := ((s.latchOut record).saveLatch record).balCapture time
  s.gapNote

/-! ### Line tracking (R312, R313) -/

/-- Mean squares of a cycle's signals. -/
def meanSqs (sig : List (List (Int × Int))) : List Nat := sig.map fun x => (meanProd x x).toNat

/-- R313, R317, R320: a line-cycle boundary: the cycle ends, and with the N-th the interval. -/
def State.boundary (s : State) (chans : List ChanIn) (c : DWord) (virt : Bool) : State :=
  let t := (c - s.scl.lastB).toNat * 4
  if t < 7500000 then s
  else
    let sig := s.signals chans t
    let ms := meanSqs sig
    let s := (s.accumulate chans t).noteClip chans
    let k := s.scl
    let m := k.sum
    let s := { s with scl := { k with
      seg := s.segments ms, prevT := t, lastT := t, lastB := c, realB := if virt then k.realB else c, virt := if virt then k.virt + 1 else 0,
      sum := { m with cycles := m.cycles + 1, cycT := m.cycT + t, lost := m.lost || virt } } }
    if s.rf R.scl_NCYC 0 13 ≤ s.scl.sum.cycles then s.latch sig ms c false else s

/-- A phase is usable at a counter value: its last cycle was good, and it has not stopped since (R312). -/
def State.alive (s : State) (x : Nat) (c : DWord) : Bool :=
  s.scl.ok.getD x false && (match s.scl.xing.getD x none with | some p => decide ((c - p).toNat * 4 ≤ 22222000) | none => false)

/-- R312: the reference moves to a phase. -/
def State.moveRef (s : State) (x : Nat) : State :=
  if s.scl.ref = x then s
  else { s with scl := { s.scl with ref := x, sum := { s.scl.sum with moved := true } } }.irq .scl 2

/-- R312: note a crossing of phase x whose last cycle had the fundamental `volts` in mV. -/
def State.crossing (s : State) (x volts : Nat) (c : DWord) : State :=
  let good := match s.scl.xing.getD x none with
    | some p => let t := (c - p).toNat * 4; decide (15152000 ≤ t) && decide (t ≤ 22222000) && decide (s.rf R.scl_SCL_CFG 8 8 * 1000 ≤ volts)
    | none => false
  { s with scl := { s.scl with
    xing := setAt s.scl.xing x (some c), ok := setAt s.scl.ok x good, run := setAt s.scl.run x (if good then s.scl.run.getD x 0 + 1 else 0) } }

/-- The preferred phase; the value 3 names none of its own. -/
def State.refPref (s : State) : Nat := min 2 (s.rf R.scl_SCL_CFG 1 2)

/-- R312: the next usable phase after the reference, in the order L1, L2, L3, L1. -/
def State.nextRef (s : State) (c : DWord) : Option Nat :=
  [(s.scl.ref + 1) % 3, (s.scl.ref + 2) % 3].find? fun x => s.alive x c

/-- CYCLE_BOUNDARY: a positive-going crossing of a phase, with the fundamental RMS of that phase's last cycle in mV and what the channels give for the cycle since the last boundary. -/
def State.cycleBoundary (s : State) (x volts : Nat) (chans : List ChanIn) (c : DWord) : State :=
  if !s.runs .scl then s
  else
    let was := s.scl.ok.getD x false
    let s := (s.at c).crossing x volts c
    let good := s.scl.ok.getD x false
    if s.scl.free then
      if good then ({ s with scl := { s.scl with free := false } }.moveRef (if s.alive s.refPref c then s.refPref else x)).boundary chans c false else s
    else if x = s.scl.ref then (if good || was then s.boundary chans c false else s)
    else if x = s.refPref && decide (64 ≤ s.scl.run.getD x 0) then (s.moveRef x).boundary chans c false
    else if !s.alive s.scl.ref c && s.nextRef c = some x then (s.moveRef x).boundary chans c false
    else s

/-- CYCLE_BOUNDARY. -/
def execCycleBoundary (phase : Fin 3) (volts : Nat) (chans : List ChanIn) (c : DWord) (s : State) : Host.Outcome State Fault Refusal :=
  .next (s.cycleBoundary phase.val volts chans c)

/-- LINE_LOST: no phase has been usable for two nominal periods since the last boundary. -/
def execLineLost (c : DWord) (s : State) : Host.Outcome State Fault Refusal :=
  .next (
    if !s.runs .scl || s.scl.free || (List.range 3).any (fun x => s.alive x c) || decide ((c - s.scl.lastB).toNat * 4 < 2 * s.nominal) then s
    else
      let t := { s.at c with scl := { s.scl with free := true, realB := s.scl.lastB, virt := 1 } }
      ((t.bumpSat R.scl_LINE_LOST_CNT 1).irq .scl 1).meterFault 1 t.scl.ref)

/-- VIRTUAL_BOUNDARY: in free run, the next multiple of the nominal period after the last real boundary. -/
def execVirtualBoundary (chans : List ChanIn) (s : State) : Host.Outcome State Fault Refusal :=
  .next (
    if !s.runs .scl || !s.scl.free then s
    else
      let c := s.scl.realB + BitVec.ofNat 64 ((s.scl.virt + 1) * s.nominal / 4)
      (s.at c).boundary chans c true)

/-! ### Enable, disable, drain and reset (R328) -/

/-- EN is set: the first interval starts (R317, R320). -/
def State.sclEnable (s : State) : State :=
  { s with
    boot := { s.boot with sclCold := false }
    scl := { s.scl with
    lastB := s.cnt, realB := s.cnt, virt := 0, prevT := 0, xing := [none, none, none], ok := [false, false, false], run := [0, 0, 0],
    ref := s.refPref, free := false, seg := List.replicate 8 0, lastNs := none,
    sum := { sumZero with start := true, check := decide (s.scl.check = .running) } } }

/-- The METER_CHECK that waits is answered. -/
def State.checkReply (s : State) (status : Nat) : State :=
  match s.startedCmd 0x0701 with
  | some c => s.reply c status (toLe 4 (s.rn R.scl_CHECK_DIFF) ++ toLe 4 (s.rn R.scl_CHECK_STAT)) []
  | none => s

/-- R326: the check is abandoned. -/
def State.abandonCheck (s : State) : State :=
  if s.scl.check = .idle then s
  else ({ s with scl := { s.scl with check := .idle } }.wb R.scl_CHECK_STAT 0 false).checkReply stCancelled

/-- R325, R328: EN is cleared: a partial latch, unless this is the sample of a latch boundary. -/
def State.sclDisable (s : State) : State :=
  let t := (s.cnt - s.scl.lastB).toNat * 4
  let s :=
    if t < 31250 && s.scl.sum.cycles = 0 && !s.scl.sum.start then s
    else
      let chans := Config.partCycle s.free
      let sig := s.signals chans t
      (((s.draw 1).accumulate chans t).noteClip chans).latch sig (meanSqs sig) s.cnt true
  (s.abandonCheck).setDrained .scl

/-- R328: DRAIN clears: the held wares are submitted in order. -/
def State.sclResume (s : State) : State :=
  s.scl.held.foldl (fun (t : State) w => t.hwSubmit w) { s with scl := { s.scl with held := [] } }

/-- An SCL reset after its tail: everything but the totals in NVS is lost; held latch wares return CANCELLED (R69). -/
def State.sclReset (s : State) : State :=
  let s := s.scl.held.foldl (fun (t : State) w => t.wareDone w 0x01) s.abandonCheck
  let s := match s.scl.coefTag with
    | some tag => (match s.mbx.taken.find? fun (c : Cmd) => c.e.tag = tag && c.e.opcode = 0x0700 with | some c => s.reply c stCancelled [] [] | none => s)
    | none => s
  { s with scl := sclOff }

/-! ### Coefficient sets (R318, R319) -/

/-- The writable bits of word j of a coefficient block. -/
def coefMask (j : Nat) : Word :=
  if j = 0 then 0xF else if j = 1 then 0xFFFFFF else if j = 2 then 0x7F else if 4 ≤ j ∧ j < 11 then 0xFFFFFF
  else if 12 ≤ j ∧ j < 20 then 0xFFFFFF else if 20 ≤ j ∧ j < 28 then 0xFFFF else 0

/-- R319: a channel's block refuses the COMMIT. -/
def blockBad (set : List (List Word)) (c : Nat) : Bool :=
  let w := coefW set c
  let on := tst (w 0) 0
  let kind := fld (w 0) 1 2
  let cur := decide (4 ≤ c)
  let h := fld (w 2) 0 7
  (on && decide (fld (w 1) 0 24 = 0)) || (if cur then kind ≠ 1 && kind ≠ 2 else kind ≠ 0) || (kind = 2 && !tst (w 0) 3) ||
  ((List.range 8).any fun k => decide (500000 < (sgn 24 (fld (w (12 + k)) 0 24)).natAbs) || decide (5000 < (sgn 16 (fld (w (20 + k)) 0 16)).natAbs)) ||
  (cur && decide (100 < h)) ||
  (cur && on && (decide (bnd set c 1 = 0) || (List.range 6).any fun k => decide (1000 * bnd set c (k + 2) < bnd set c (k + 1) * (1000 + 2 * h))))

/-- R319: the COMMIT is refused. -/
def State.commitBad (s : State) : Bool :=
  let n := s.rf R.scl_SH_NCYC 0 13
  decide (n = 0) || decide (4096 < n) || (List.range 12).any fun c => blockBad s.scl.sh c

/-- R318: COMMIT, refused with BAD_VALUE by R319. -/
def State.coefCommit (s : State) (m : Master) (c : DWord) : State :=
  if s.scl.pend.isSome then s
  else if s.commitBad then s.err .scl eBadValue 0x64 m
  else { s with scl := { s.scl with pend := some c } }

/-- R328, R457: the firmware commits the calibrated set that settings group 1 holds, at every start. -/
def State.sclLoad (s : State) : State :=
  if !s.groupStored 1 then s
  else
    let w (o : Nat) : Word := match s.nvsRead (groupAddr 1 + o) 4 with | some b => leWord b 0 | none => 0
    let sh := (List.range 12).map fun c => (List.range 32).map fun j => w (0x100 + 128 * c + 4 * j) &&& coefMask j
    let t := ({ s with scl := { s.scl with sh := sh } }).wf R.scl_SH_NCYC 0 13 (fld (w 0x60) 0 13)
    let t := if w 0x1C00 = 0 then t else t.wr R.scl_BAL_CFG (w 0x1C00)
    if t.commitBad then s else { t with scl := { t.scl with pend := some t.cnt } }

/-- COEF_COMMIT: a write of COEF_CTRL.COMMIT. -/
def execCoefCommit (m : Master) (c : DWord) (s : State) : Host.Outcome State Fault Refusal :=
  .next (s.writeAt .scl 0x64 m 1 fun t => ((t.at c).coefCommit m c).answer .done)

/-- R318: CANCEL withdraws a pending set. -/
def State.coefCancel (s : State) : State :=
  let s := { s with scl := { s.scl with pend := none } }
  match s.scl.coefTag with
  | none => s
  | some tag =>
    let s := { s with scl := { s.scl with coefTag := none } }
    match s.mbx.taken.find? fun (c : Cmd) => c.e.tag = tag && c.e.opcode = 0x0700 with
    | some c => s.reply c stCancelled [] []
    | none => s

/-- COEF_CANCEL: a write of COEF_CTRL.CANCEL. -/
def execCoefCancel (m : Master) (s : State) : Host.Outcome State Fault Refusal :=
  .next (s.writeAt .scl 0x64 m 2 fun t => t.coefCancel.answer .done)

/-- COEF_LOAD: the firmware writes the shadow and commits; the reply comes at the latch that takes the set. -/
def execCoefLoad (tag : Word) (c : DWord) (s : State) : Host.Outcome State Fault Refusal :=
  .next (s.withCmd 0x0700 tag fun k t =>
    let t := t.at c
    if k.e.length ≠ 1536 then t.reply k stBadLength [] []
    else if t.inReset .scl || t.scl.pend.isSome then t.reply k stBusy [] []
    else
      let sh := (List.range 12).map fun c => (List.range 32).map fun j => leWord k.bytes (128 * c + 4 * j) &&& coefMask j
      let t := ({ t with scl := { t.scl with sh := sh } }).wf R.scl_SH_NCYC 0 13 (k.par 0 2)
      if t.commitBad || decide (4096 < k.par 0 2) then t.reply k stBadParam [] []
      else { t with scl := { t.scl with pend := some c, coefTag := some tag } }.defer k)

/-! ### Self-check (R326) -/

/-- R326: a check is asked for. -/
def State.checkGo (s : State) (m : Master) : State :=
  if s.scl.check ≠ .idle then s.err .scl eBusy 0x74 m
  else { s with scl := { s.scl with check := .asked } }.wr R.scl_CHECK_STAT (w32 (1 + s.rf R.scl_CHECK_CFG 0 4 * 2 ^ 8))

/-- METER_CHECK_GO: a write of CHECK_CTRL.GO. -/
def execMeterCheckGo (m : Master) (s : State) : Host.Outcome State Fault Refusal :=
  .next (s.writeAt .scl 0x74 m 1 fun t => (t.checkGo m).answer .done)

/-- CHECK_START: the check starts at a tick edge. -/
def execCheckStart (s : State) : Host.Outcome State Fault Refusal :=
  .next (if s.inReset .scl || decide (s.scl.check ≠ .asked) then s
    else { s with scl := { s.scl with check := .running, sum := { s.scl.sum with check := true } } })

/-- CHECK_COMPLETE: the check ends. -/
def State.checkEnd (s : State) (x : CheckMeas) : State :=
  let tol := s.rf R.scl_CHECK_CFG 16 16
  let chan := fld (s.rd R.scl_CHECK_STAT) 8 4
  let s := { s with scl := { s.scl with check := .idle } }
  let refFail := decide (tol < x.refPpm.natAbs)
  let low := !refFail && decide (2 * x.chan ^ 2 < 10000 ^ 2)
  let diff := rdiv (((x.spare : Int) - x.chan) * 1000000) x.chan
  let fail := !refFail && !low && decide (tol < diff.natAbs)
  let s := if refFail || low then s else s.wr R.scl_CHECK_DIFF (wOfInt diff)
  let s := s.wr R.scl_CHECK_STAT (w32 (2 + b2n fail * 4 + b2n refFail * 8 + b2n low * 16 + chan * 2 ^ 8))
  let s := s.irq .scl 5
  let s := if fail || refFail then (s.irq .scl 6).meterFault 3 chan else s
  s.checkReply stOk

/-- CHECK_COMPLETE. -/
def execCheckComplete (x : CheckMeas) (s : State) : Host.Outcome State Fault Refusal :=
  .next (if s.inReset .scl || decide (s.scl.check ≠ .running) then s else s.checkEnd x)

/-- METER_CHECK: the firmware sets CHECK_CFG and asks for a check. -/
def execMeterCheck (tag : Word) (s : State) : Host.Outcome State Fault Refusal :=
  .next (s.withCmd 0x0701 tag fun k t =>
    if 11 < k.par 0 1 ∨ k.par 1 1 < 4 then t.reply k stBadParam [] []
    else if t.inReset .scl || decide (t.scl.check ≠ .idle) then t.reply k stBusy [] []
    else (((t.wf R.scl_CHECK_CFG 0 4 (k.par 0 1)).wf R.scl_CHECK_CFG 8 8 (k.par 1 1)).checkGo .svc).defer k)

/-! ### Registers -/

/-- SCL page 0 registers that show Scales. -/
def State.sclRead0 (s : State) (off : Nat) : Option Word :=
  let k := s.scl
  if off = 0x44 then
    some (w32 (b2n (s.runs .scl && !k.free && k.ok.getD k.ref false) + k.ref * 2 + b2n k.free * 8 + b2n (decide (k.check ≠ .idle)) * 16))
  else if off = 0x48 then some (w32 (if k.lastT = 0 then 0 else (rdiv (10 ^ 12) k.lastT).toNat % 2 ^ 17))
  else if off = 0x4C then some (w32 ((List.range 8).foldl (fun a j => a + k.seg.getD j 0 * 2 ^ (3 * j)) 0))
  else if off = 0x68 then some (setBit (s.rd R.scl_COEF_STAT) 0 k.pend.isSome)
  else if 0x100 ≤ off ∧ off < 0x700 then some (coefW k.sh ((off - 0x100) / 128) ((off - 0x100) % 128 / 4))
  else if 0x800 ≤ off ∧ off < 0xE00 then some (coefW k.act ((off - 0x800) / 128) ((off - 0x800) % 128 / 4))
  else none

/-- SCL page 1 registers that show the last latch. -/
def State.sclRead1 (s : State) (off : Nat) : Option Word :=
  let r := s.scl.res
  let g (l : List Nat) (f p q : Nat) : Nat := if p < 4 ∧ q < 7 then l.getD (28 * f + 7 * p + q) 0 else 0
  if off = 0x40 then some (w32 r.seq) else if off = 0x44 then some (w32 r.tick)
  else if off = 0x48 then some (w32 r.ns) else if off = 0x4C then some (w32 (r.ns / 2 ^ 32))
  else if off = 0x50 then some (w32 r.info) else if off = 0x54 then some (w32 r.freq)
  else if 0x80 ≤ off ∧ off < 0x140 then some (wOfInt ((r.chan.getD ((off - 0x80) / 16) []).getD ((off - 0x80) % 16 / 4) 0))
  else if 0x140 ≤ off ∧ off < 0x1C0 then some (wOfInt ((r.pow.getD ((off - 0x140) / 16) []).getD ((off - 0x140) % 16 / 4) 0))
  else if 0x200 ≤ off ∧ off < 0x400 then
    let o := off - 0x200
    some (w32 (g r.cum (o / 0x100) (o % 0x100 / 0x40) (o % 0x40 / 8) / 2 ^ (o % 8 * 8)))
  else if 0x400 ≤ off ∧ off < 0x500 then let o := off - 0x400; some (w32 (g r.dlt (o / 0x80) (o % 0x80 / 0x20) (o % 0x20 / 4)))
  else if 0x500 ≤ off ∧ off < 0x600 then let o := off - 0x500; some (w32 (mirror (g r.cum (o / 0x80) (o % 0x80 / 0x20) (o % 0x20 / 4))))
  else if off = 0xC64 then some (w32 s.scl.nseq)
  else if off = 0xC68 then some (w32 s.scl.jseq)
  else none

/-- SCL page 0 registers with a rule of their own. -/
def State.sclWrite0 (s : State) (m : Master) (off : Nat) (v : Word) : Option State :=
  let shadow := off = 0x60 ∨ (0x100 ≤ off ∧ off < 0x700)
  if shadow && s.scl.pend.isSome then some (s.err .scl 0x80 off m)
  else if off = 0x40 then (if fld v 1 2 = 3 then some (s.err .scl eBadValue off m) else none)
  else if off = 0x64 then
    let s := if tst v 0 then s.coefCommit m s.cnt else s
    some (if tst v 1 then s.coefCancel else s)
  else if off = 0x70 then (if 11 < fld v 0 4 ∨ fld v 8 8 < 4 then some (s.err .scl eBadValue off m) else none)
  else if off = 0x74 then some (if tst v 0 then s.checkGo m else s)
  else if 0x100 ≤ off ∧ off < 0x700 then
    let c := (off - 0x100) / 128
    let j := (off - 0x100) % 128 / 4
    some { s with scl := { s.scl with sh := modAt s.scl.sh c fun b => setAt b j (v &&& coefMask j) } }
  else none

end Sys2Proof.Machine
end

