-- ==== Sys2Proof/Machine/Energy.lean ====
section
/-! DEFINITION. Node energy reports, the balance and the journal (R339-R343, R486). -/

namespace Sys2Proof.Machine

open Sys2Proof

/-- R342: BAL_RATIO of a node sum and a feeder energy. -/
def balRatio (node feed : Nat) : Nat := if feed = 0 then 0xFFFFFFFF else (2 * node * 10 ^ 6 + feed) / (2 * feed)

/-- The register that shows it; a quotient beyond 32 bits is not stated. -/
def balShown (node feed : Nat) : Word := if balRatio node feed < 2 ^ 32 then w32 (balRatio node feed) else Config.balRatioBeyond node feed

/-- R342: one phase of a CLOSE. -/
def State.closePhase (s : State) (x : Nat) : State :=
  let feed := s.rn (R.scl_BAL_FEEDx x)
  let node := s.rn (R.scl_BAL_NODEx x)
  let r := balShown node feed
  let s := (s.wr (R.scl_BAL_DIFFx x) (w32 feed - w32 node)).wr (R.scl_BAL_RATIOx x) r
  s.wb R.scl_BAL_STAT (2 + x) (decide (s.rf R.scl_BAL_TOL 0 20 < ((10 ^ 6 : Int) - r.toNat).natAbs))

/-- R342: CLOSE; refused unless its index is the captured one. -/
def State.balClose (s : State) (m : Master) : State :=
  if s.rd R.scl_BAL_CLOSE_IDX ≠ s.rd R.scl_BAL_CAP_IDX then s.err .scl eBadValue 0xC50 m
  else (((s.closePhase 0).closePhase 1).closePhase 2).wf R.scl_BAL_STAT 0 2 2

/-- The report of a node for an interval. -/
def State.report (s : State) (node intv : Nat) : Option Report :=
  s.nrg.reports.find? fun r => decide (r.node = node) && decide (r.intv = intv)

/-- R342: what the firmware counts for a node's report: the difference of two good reports, or P_AVG × P; and whether it is metered. -/
def State.counted (s : State) (r : Report) : Nat × Bool :=
  match s.report r.node ((r.intv + 2 ^ 16 - 1) % 2 ^ 16) with
  | some q =>
    if !q.restart && !r.restart && decide (q.phase = r.phase) then ((r.energy + 2 ^ 32 - q.energy) % 2 ^ 32, true)
    else (r.pavg * s.rf R.scl_BAL_CFG 0 17 / 36, false)
  | none => (r.pavg * s.rf R.scl_BAL_CFG 0 17 / 36, false)

/-- R342: the firmware closes interval b 60 s after SPREAD has ended. -/
def State.closeDue (s : State) : Bool :=
  s.holds && decide (250 * (s.rf R.scl_BAL_CFG 0 17 * (s.rn R.scl_BAL_CAP_IDX + 1) + s.nrg.spread + 60) ≤ s.tick)

/-- R342: the firmware's close of the captured interval, once it is due: node sums, index, CLOSE and the event. -/
def State.fwClose (s : State) : State :=
  if !s.closeDue then s else
  let b := s.rn R.scl_BAL_CAP_IDX
  let rs := s.nrg.reports.filter fun r => decide (r.intv = b % 2 ^ 16)
  let sum (x : Nat) : Nat := rs.foldl (fun a r => if r.phase = x + 1 then a + (s.counted r).1 else a) 0
  let metered := (rs.filter fun r => (s.counted r).2).length
  let missing := (s.net.nodes.filter fun n => decide (n.st = 3) && !n.sleeps && !(rs.any fun r => decide (r.node = n.index))).length
  let s := (List.range 3).foldl (fun (t : State) x => t.wr (R.scl_BAL_NODEx x) (w32 (sum x))) s
  let s := (s.wr R.scl_BAL_CLOSE_IDX (w32 b)).balClose .svc
  let st := s.rd R.scl_BAL_STAT
  s.fwEvent 0xF710 (blkSrc .scl) (toLe 4 b ++ ((List.range 3).flatMap fun x => toLe 4 (s.rn (R.scl_BAL_DIFFx x))) ++
    toLe 2 metered ++ toLe 2 (rs.length - metered) ++ toLe 2 missing ++ toLe 1 (fld st 2 3) ++ toLe 1 (fld st 5 1))

/-- BAL_CLOSE: a write of BAL_CTRL.CLOSE; the firmware (master svc) first writes the node sums and the index. -/
def execBalClose (m : Master) (s : State) : Host.Outcome State Fault Refusal :=
  .next (s.writeAt .scl 0x1C50 m 1 fun t => ((match m with | .svc => t.fwClose | _ => t.balClose m)).answer .done)

/-- At most the newest four reports of a node. -/
def pruneReports (node : Nat) (l : List Report) : List Report :=
  let mine := (l.filter fun r => decide (r.node = node)).take 4
  l.filter fun r => decide (r.node ≠ node) || mine.contains r

/-- ENERGY_RECEIVE: the head keeps a node's report (R175, R342). For 64 superframes after a takeover a report that it already holds is discarded (R486). -/
def execEnergyReceive (x : AirRx) (s : State) : Host.Outcome State Fault Refusal :=
  .next (
    let p := airPay x
    let r : Report := ⟨airFrom x, le p 10 2, le p 0 4, le p 4 2, byteAt p 8, tst (w32 (byteAt p 9)) 0⟩
    if !s.isHead || decide ((airHdr x).typ ≠ 6) then s
    else if s.afterTakeover && (s.report r.node r.intv).isSome then s
    else
      let rest := s.nrg.reports.filter fun q => !(decide (q.node = r.node) && decide (q.intv = r.intv))
      { s with nrg := { s.nrg with reports := pruneReports r.node (r :: rest) } })

/-- R340: the node's reading at the boundary that ends interval b: its cumulative import of feeder 0, the mean power since the reading before, and the mean RMS voltage of the latches in the interval; without them the value is open. -/
def State.takeReading (s : State) (b : Nat) : State :=
  let e := mirror (s.scl.res.cum.getD 21 0)
  let prev := s.nrg.reads.head?
  let pavg := match prev with | some q => (e + 2 ^ 32 - q.energy) % 2 ^ 32 * 36 / max 1 s.nrg.period | none => Config.nodePower b
  let restart := match prev with | some q => decide (q.b + 1 ≠ b) | none => true
  let volts := if s.nrg.volts.2 = 0 then Config.nodeVolts b else (rdiv s.nrg.volts.1 (300 * s.nrg.volts.2)).toNat
  { s with nrg := { s.nrg with
      reads := (⟨b, e, if pavg < 65536 then pavg else Config.nodePower b, restart, false, volts⟩ :: s.nrg.reads).take 4, volts := (0, 0) } }

/-- A boundary of period p, in seconds, lies after tick `old` and not after tick k. -/
def crosses (p old k : Nat) : Bool := decide (old / (250 * max 1 p) < k / (250 * max 1 p))

/-- R340: at the first tick edge at or after a boundary a node reads its counter and takes new settings. -/
def State.nodeBoundary (s : State) (old k : Nat) : State :=
  if s.isNode && crosses s.nrg.period old k then
    let s := s.takeReading (k / (250 * max 1 s.nrg.period) - 1)
    match s.nrg.next with
    | some (p, w) => { s with nrg := { s.nrg with period := p, spread := w, next := none } }
    | none => s
  else s

/-- R343: at the next boundary what BAL_SET gave is written. -/
def State.balBoundary (s : State) (old k : Nat) : State :=
  match s.nrg.balNext with
  | some (p, w, f, t) =>
    if crosses (s.rf R.scl_BAL_CFG 0 17) old k then
      let u := ((s.wf R.scl_BAL_CFG 0 17 p).wf R.scl_BAL_CFG 20 2 f).wr R.scl_BAL_TOL (w32 t)
      { u with nrg := { u.nrg with balNext := none, spread := if s.isNode then u.nrg.spread else w } }
    else s
  | none => s

/-- R340, R343, R489: the balance boundaries between the last tick and this one; none at a repeated tick. -/
def State.energyEdge (s : State) (old k : Nat) : State :=
  if !s.holds || s.repeated then s else (s.nodeBoundary old k).balBoundary old k

/-- The ENERGY payload of a reading (R175). A Mladec module reports a feeder's sum, so PHASE is 0. -/
def energyPayload (r : Reading) : Bytes :=
  toLe 4 r.energy ++ toLe 2 r.pavg ++ toLe 2 r.volts ++ toLe 1 0 ++ toLe 1 (b2n r.restart) ++ toLe 2 (r.b % 2 ^ 16)

/-- ENERGY_REPORT_SEND: the node sends its oldest reading that is not sent. An orphan or a node without a place or time keeps it (R340). -/
def execEnergyReportSend (s : State) : Host.Outcome State Fault Refusal :=
  .next (
    match s.nrg.reads.reverse.find? fun r => !r.sent with
    | none => s
    | some r =>
      if !s.isNode || !s.hasIndex || !s.holds || s.placeless then s
      else { s with nrg := { s.nrg with reads := s.nrg.reads.map fun (q : Reading) => if q.b = r.b then { q with sent := true } else q } }.sendUp 6 true (energyPayload r))

/-- ENERGY_CFG: a node takes PERIOD and SPREAD, in force from its next boundary. -/
def execEnergyCfg (x : AirRx) (s : State) : Host.Outcome State Fault Refusal :=
  .next (
    let p := le (airArgs x) 0 4
    if !s.fromHead x 0x0718 || decide (p < 60) || decide (86400 < p) then s
    else { s with nrg := { s.nrg with next := some (p, le (airArgs x) 4 2) } })

/-- JOURNAL_READ: latch journal records to host memory. -/
def execJournalRead (tag : Word) (s : State) : Host.Outcome State Fault Refusal :=
  .next (s.withCmd 0x0710 tag fun k t =>
    let first := k.par 0 4
    let n := k.par 4 2
    if n = 0 ∨ 752 < n then t.reply k stBadParam [] []
    else if k.e.length ≠ 256 * n then t.reply k stBadLength [] []
    else if t.scl.jseq < first + n ∨ first + 752 < t.scl.jseq then t.reply k stBadParam [] []
    else
      match (List.range n).mapM fun i => t.nvsRead (0x11000 + 256 * ((first + i) % 752)) 256 with
      | some l => t.reply k stOk [] l.flatten
      | none => t.reply k stFault [] [])

/-- BAL_SET: the balance configuration for the next boundary, and ENERGY_CFG to every node. -/
def execBalSet (tag : Word) (s : State) : Host.Outcome State Fault Refusal :=
  .next (s.withCmd 0x0711 tag fun k t =>
    let p := k.par 0 4
    let w := k.par 4 2
    let f := k.par 6 1
    let tol := k.par 7 4
    if p < 60 ∨ 86400 < p ∨ f = 0 ∨ 3 < f ∨ 2 ^ 20 ≤ tol then t.reply k stBadParam [] []
    else
      let t := { t with nrg := { t.nrg with balNext := some (p, w, f, tol) } }
      let t := if t.isHead then (t.net.nodes.filter fun n => decide (n.st = 3)).foldl (fun (u : State) n => u.commandTo n.index 0x0718 (slice k.e.param 0 6)) t else t
      t.reply k stOk [] [])

/-- Page 1 registers of the balance with a rule of their own. -/
def State.balWrite (s : State) (m : Master) (off : Nat) (v : Word) : Option State :=
  if off = 0xC00 then
    if fld v 0 17 < 60 ∨ 86400 < fld v 0 17 ∨ fld v 20 2 = 0 then some (s.err .scl eBadValue off m)
    else
      let s := if tst v 31 && !s.rb R.scl_BAL_CFG 31 then { s with scl := { s.scl with cap := none, rough := false } } else s
      some (s.plainWrite .scl R.scl_BAL_CFG m v)
  else if off = 0xC50 then some (if tst v 0 then s.balClose m else s)
  else none

end Sys2Proof.Machine
end

