-- ==== Sys2Proof/Machine/Ring.lean ====
section
/-! DEFINITION. The Ibong ring: frames, checks and forwarding, the map, wire delay, the tick master and SYNC (R415-R427, R442, R444). -/

namespace Sys2Proof.Machine

open Sys2Proof

/-! ### Frames (R418-R422) -/

/-- The ring key: the AES-128 slot that IBG_CFG names, with MAC set (R421). -/
def State.ringKey (s : State) : Option Bytes :=
  if s.rb R.ibg_IBG_CFG 6 then
    match s.slot (s.rf R.ibg_IBG_CFG 0 6) with
    | some x => if tst x.attr 6 && decide (fld x.attr 1 2 = 0) && s.rootOk then some x.key else none
    | none => none
  else none

/-- The position of an identity in the map. -/
def posIn (map : List (Option DWord)) (i : DWord) : Option Nat := (List.range 8).find? fun p => decide (map.getD p none = some i)

/-- The module's own position. -/
def State.ringPos (s : State) : Option Nat := match s.ibg.map with | some m => posIn m s.modId.ident | none => none

/-- The own position as a source field: 0xF while not yet numbered. -/
def State.spos (s : State) : Nat := s.ringPos.getD 15

/-- R419: the kinds that always carry a MAC. -/
def kindAlways (k : Nat) : Bool := decide (k = 0x10) || decide (k = 0x11) || (decide (0x20 ≤ k) && decide (k ≤ 0x26)) || decide (k = 0x30) || decide (k = 0x40)

/-- R419: the kinds that carry a MAC where a ring key is installed. -/
def kindKeyed (k : Nat) : Bool := decide (k = 4) || decide (k = 5)

/-- R419: the kinds that cross one link only. -/
def kindLocal (k : Nat) : Bool := decide (1 ≤ k) && decide (k ≤ 3)

/-- R419: a known kind. -/
def kindOk (k : Nat) : Bool := kindLocal k || kindKeyed k || kindAlways k

/-- R418: a frame without MAC and CRC. -/
def ringBody (kind hops : Nat) (west auth : Bool) (spos dpos src seq : Nat) (pay : Bytes) : Bytes :=
  toLe 1 kind ++ toLe 1 (hops + b2n west * 16 + b2n auth * 32) ++ toLe 1 (spos + dpos * 16) ++ toLe 1 0 ++
  toLe 8 src ++ toLe 8 seq ++ toLe 2 pay.length ++ toLe 2 0 ++ pay

/-- R418: the MAC of a frame's bytes under the ring key. -/
def ringMac (key body : Bytes) : Bytes := (cmac key body).take 8

/-- R418: append MAC and CRC. -/
def ringSeal (key : Option Bytes) (body : Bytes) : Bytes :=
  let b := match key with | some k => body ++ ringMac k body | none => body
  b ++ toLe 4 (crcOf crc32 b)

/-- The link of a port is up. -/
def State.linkOn (s : State) (east : Bool) : Bool := if east then s.ibg.upE else s.ibg.upW

/-- Frames leave on the ports: IBG is out of reset and enabled (R442). -/
def State.ibgRuns (s : State) : Bool := s.takes .ibg

/-- R423: the map stands and gives the module no position: it sends only DISCOVER and takes no role on the ring. -/
def State.ringFull (s : State) : Bool := s.ibg.map.isSome && s.ringPos.isNone

/-- R418, R419, R422: originate a frame on the given ports. Nothing is sent where the kind needs a key and none is installed, and nothing but DISCOVER by a module without a position in the map. -/
def State.ringOut (s : State) (ports : List Bool) (kind dpos : Nat) (pay : Bytes) : State :=
  let key := s.ringKey
  let auth := kindAlways kind || (kindKeyed kind && key.isSome)
  if !s.ibgRuns || (auth && key.isNone) || (s.ringFull && decide (kind ≠ 1)) then s
  else
    let seq := s.rf R.pwt_PWRCYC 0 24 * 2 ^ 40 + s.ibg.sent % 2 ^ 40
    let f (e : Bool) : Bytes := ringSeal (if auth then key else none)
      (ringBody kind (if kindLocal kind then 0 else 7) (!e) auth s.spos dpos s.modId.ident.toNat seq pay)
    let out := (ports.filter fun e => s.linkOn e).map fun e => Out.ring e (f e)
    let s := { s with ibg := { s.ibg with sent := s.ibg.sent + 1 } }.bumpSat R.ibg_TX_FRAMES 1
    out.foldl (fun (t : State) o => t.emit o) s

/-- Originate a frame for the ring. -/
def State.ringSend (s : State) (kind dpos : Nat) (pay : Bytes) : State := s.ringOut [true, false] kind dpos pay

/-- R422: the frame may be forwarded. -/
def State.forwards (s : State) (b : Bytes) : Bool :=
  let dpos := byteAt b 2 / 16
  kindOk (byteAt b 0) && !kindLocal (byteAt b 0) && decide (byteAt b 1 % 16 ≠ 0) && decide (le b 4 8 ≠ s.modId.ident.toNat) && decide (some dpos ≠ s.ringPos)

/-- Median delay of a port, in units of 2^-16 ns; 0 before the first sample. -/
def portDelay (l : List Int) : Int := match l with | [] => 0 | _ => medianI l

/-- The delay of the link of a port. -/
def State.wireD (s : State) (east : Bool) : Int := portDelay (if east then s.ibg.delE else s.ibg.delW)

/-- R425: a SYNC payload with what this module adds to CORR. -/
def addCorr (pay : Bytes) (d : Int) : Bytes := slice pay 0 8 ++ toLe 6 (unsgn 48 (sgn 48 (le pay 8 6) + d)) ++ pay.drop 14

/-- R422, R425: forward a frame out of the other port: one hop fewer, a SYNC with its wire delay and residence added. A frame that failed a check leaves with a bad CRC. -/
def State.forward (s : State) (east : Bool) (b : Bytes) (res : Nat) (good : Bool) : State :=
  if !s.linkOn (!east) then s
  else
    let len := le b 20 2
    let pay := slice b 24 len
    let pay := if byteAt b 0 = 4 then addCorr pay (s.wireD east + res) else pay
    let auth := tst (w32 (byteAt b 1)) 5
    let body := ringBody (byteAt b 0) (byteAt b 1 % 16 - 1) (tst (w32 (byteAt b 1)) 4) auth (byteAt b 2 % 16) (byteAt b 2 / 16) (le b 4 8) (le b 12 8) pay
    let body := match s.ringKey with
      | some k => if auth then body ++ ringMac k body else body
      | none => if auth then body ++ slice b (24 + len) 8 else body
    let crc := crcOf crc32 body
    (s.emit (.ring (!east) (body ++ toLe 4 (if good then crc else 2 ^ 32 - 1 - crc)))).bumpSat R.ibg_FWD_FRAMES 1

/-- The number kept for an identity. -/
def seqOf (l : List (DWord × Nat)) (i : DWord) : Option Nat := (l.find? fun p => decide (p.1 = i)).map fun p => p.2

/-- Keep a number for an identity. -/
def putSeq (l : List (DWord × Nat)) (i : DWord) (q : Nat) : List (DWord × Nat) := (i, q) :: l.filter fun p => decide (p.1 ≠ i)

/-- R425: a second copy of a SYNC that came by fewer hops, or by the east on a tie, replaces the first. -/
def betterSync (x y : RingRx) : Bool :=
  decide (x.kind = 4) && decide (y.kind = 4) && decide (x.src = y.src) && decide (x.seq = y.seq) && (decide (x.hops < y.hops) || (decide (x.hops = y.hops) && y.east && !x.east))

/-- R420, R422: deliver a good frame, unless it is a copy. -/
def State.ringDeliver (s : State) (x : RingRx) (auth : Bool) : State :=
  let old := seqOf (if auth then s.ibg.seqs else s.ibg.last) x.src
  let dup := match old with | some q => if auth then decide (x.seq ≤ q) else decide (x.seq = q) | none => false
  if dup then
    let s := { s with ibg := { s.ibg with inbox := s.ibg.inbox.map fun (y : RingRx) => if betterSync y x then x else y } }
    if auth then s.bumpSat R.ibg_DUP_DROP 1 else s
  else
    { s with ibg := { s.ibg with
      inbox := s.ibg.inbox ++ [x],
      seqs := if auth then putSeq s.ibg.seqs x.src x.seq else s.ibg.seqs,
      last := if auth then s.ibg.last else putSeq s.ibg.last x.src x.seq } }.bumpSat R.ibg_RX_FRAMES 1

/-- The MAC of a received frame is right. -/
def State.macOk (s : State) (b : Bytes) : Bool :=
  match s.ringKey with
  | none => false
  | some k => tst (w32 (byteAt b 1)) 5 && decide (slice b (24 + le b 20 2) 8 = ringMac k (b.take (24 + le b 20 2)))

/-- R420, R422: a ring frame is checked, delivered and forwarded; `res` is the residence time of a forwarded SYNC in units of 2^-16 ns. -/
def State.ringRx (s : State) (east : Bool) (f : Bytes) (c : DWord) (res : Nat) : State :=
  if !s.ibgRuns || !s.linkOn east then s
  else
    let n := f.length
    let b := f.take (n - 4)
    let auth := tst (w32 (byteAt b 1)) 5
    let kind := byteAt b 0
    if n < 32 || decide (2048 < n) || decide (n ≠ 28 + le b 20 2 + b2n auth * 8) || decide (le f (n - 4) 4 ≠ crcOf crc32 b) then
      let s := s.bumpSat R.ibg_CRC_ERR 1
      if s.forwards b then s.forward east b res false else s
    else if !kindOk kind then s.bumpSat R.ibg_CODE_ERR 1
    else
      let need := kindAlways kind || (kindKeyed kind && s.ringKey.isSome)
      let good := !need || s.macOk b
      let s := if s.forwards b then s.forward east b res good else s
      if !good then (s.bumpSat R.ibg_MAC_FAIL 1).irq .ibg 3
      else if le b 4 8 = s.modId.ident.toNat then s
      else
        let dpos := byteAt b 2 / 16
        if kindLocal kind || (dpos = 15 && kind ≠ 0x30) || some dpos = s.ringPos then
          s.ringDeliver ⟨kind, byteAt b 2 % 16, byteAt b 1 % 16, BitVec.ofNat 64 (le b 4 8), le b 12 8, slice b 24 (le b 20 2), east, c⟩ need
        else s

/-- RING_FRAME_RECEIVE. -/
def execRingFrameReceive (east : Bool) (frame : Bytes) (c : DWord) (res : Nat) (s : State) : Host.Outcome State Fault Refusal :=
  .next ((s.at c).ringRx east frame c res)

/-- The oldest frame of a kind that waits, taken from the inbox. -/
def State.ringTake (s : State) (kind : Nat) : Option (RingRx × State) :=
  match s.ibg.inbox.find? fun x => decide (x.kind = kind) with
  | some x => some (x, { s with ibg := { s.ibg with inbox := s.ibg.inbox.erase x } })
  | none => none

/-- Handle the oldest waiting frame of a kind. -/
def State.onRing (s : State) (kind : Nat) (f : RingRx → State → State) : State :=
  match s.ringTake kind with
  | some (x, t) => f x t
  | none => s

/-- RING_DATA: a DATA frame reaches the firmware. -/
def execRingData (s : State) : Host.Outcome State Fault Refusal := .next (s.onRing 0x40 fun _ t => t)

/-! ### Links -/

/-- LINK_UP: 1,024 valid symbols in a row. -/
def execLinkUp (east : Bool) (s : State) : Host.Outcome State Fault Refusal :=
  .next (if s.inReset .ibg || s.linkOn east then s
    else (if east then { s with ibg := { s.ibg with upE := true } } else { s with ibg := { s.ibg with upW := true } }).irq .ibg 0)

/-- The identities west of the module, with itself, or east of it. -/
def upTo (l : List DWord) (i : DWord) : List DWord := l.takeWhile (fun x => decide (x ≠ i)) ++ [i]

/-- The identities from one on. -/
def fromOn (l : List DWord) (i : DWord) : List DWord := i :: (l.dropWhile fun x => decide (x ≠ i)).drop 1

/-- LINK_DOWN: code violations or silence; the port retrains. -/
def execLinkDown (east : Bool) (s : State) : Host.Outcome State Fault Refusal :=
  .next (if s.inReset .ibg || !s.linkOn east then s
    else
      let me := s.modId.ident
      let g := s.ibg
      (if east then { s with ibg := { g with upE := false, closed := false, delE := [], reqE := none, order := upTo g.order me } }
       else { s with ibg := { g with upW := false, closed := false, delW := [], reqW := none, order := fromOn g.order me } }).irq .ibg 0)

/-! ### The map (R423) -/

/-- The positions present: a heartbeat in the last 8 ticks. -/
def State.present (s : State) : Nat :=
  (List.range 8).foldl (fun a p => match s.ibg.hb.getD p none with | some h => if s.ibg.edges ≤ h.at' + 8 then a + 2 ^ p else a | none => a) 0

/-- The payload of DISCOVER: identity, role, the lowest holder of the map, what is known of the ends, and the map as identities in east order with their positions. -/
def State.discoverPay (s : State) : Bytes :=
  let g := s.ibg
  let l := if g.order.isEmpty then [s.modId.ident] else g.order
  let pos (i : DWord) : Nat := match g.map with | some m => (posIn m i).getD 255 | none => 255
  let away := match g.map with | some m => m.filterMap id |>.filter (fun i => !l.contains i) | none => []
  toLe 8 s.modId.ident.toNat ++ toLe 1 s.role ++ toLe 8 g.holder ++
  toLe 1 (b2n (g.endW || !g.upW) + b2n (g.endE || !g.upE) * 2 + b2n g.closed * 4) ++ toLe 1 l.length ++ toLe 1 away.length ++
  (l ++ away).flatMap fun i => toLe 8 i.toNat ++ toLe 1 (pos i)

/-- DISCOVER_SEND: each port that is up sends DISCOVER. -/
def execDiscoverSend (s : State) : Host.Outcome State Fault Refusal := .next (s.ringOut [true, false] 1 15 s.discoverPay)

/-- The entries of a DISCOVER payload: identity and position. -/
def discEntries (p : Bytes) : List (DWord × Nat) :=
  (List.range (byteAt p 18 + byteAt p 19)).map fun i => (BitVec.ofNat 64 (le p (20 + 9 * i) 8), byteAt p (28 + 9 * i))

/-- A map of eight positions from entries. -/
def mapOf (l : List (DWord × Nat)) : List (Option DWord) := (List.range 8).map fun p => (l.find? fun e => decide (e.2 = p)).map fun e => e.1

/-- What a neighbour's list says of the order of the ring. -/
def mergeOrder (mine : List DWord) (me peer : DWord) (theirs : List DWord) (east : Bool) : List DWord × Bool :=
  if east then
    let pre := upTo mine me
    let suf := (fromOn theirs peer).filter fun x => !pre.contains x
    (pre ++ suf, (fromOn theirs peer).any fun x => pre.contains x)
  else
    let suf := fromOn mine me
    let pre := (upTo theirs peer).filter fun x => !suf.contains x
    (pre ++ suf, (upTo theirs peer).any fun x => suf.contains x)

/-- The identity with the lowest number. -/
def lowest (l : List DWord) : Option DWord := l.foldl (fun a x => match a with | some y => if x.toNat < y.toNat then some x else a | none => some x) none

/-- R423: the first forming: positions from the lowest identity of a closed ring eastward, or from the west end of a line. -/
def formMap (order : List DWord) (closed : Bool) : List (Option DWord) :=
  let l := match closed, lowest order with | true, some x => fromOn order x ++ order.takeWhile (fun y => decide (y ≠ x)) | _, _ => order
  (List.range 8).map fun p => l[p]?

/-- R423: a new identity takes the lowest free position. -/
def placeNew (m : List (Option DWord)) (i : DWord) : List (Option DWord) :=
  if (posIn m i).isSome then m
  else match (List.range 8).find? fun p => decide (m.getD p none = none) with | some p => setAt m p (some i) | none => m

/-- R423: a map stands; it is kept, and the module raises RING_FULL where it has no position. -/
def State.setMap (s : State) (m : List (Option DWord)) (holder : Nat) : State :=
  let changed := decide (s.ibg.map ≠ some m)
  let s := { s with ibg := { s.ibg with map := some m, holder := holder, version := if changed then (s.ibg.version + 1) % 65536 else s.ibg.version } }
  if !changed then s
  else
    let s := (s.irq .ibg 1).fwEvent 0xFB00 (blkSrc .ibg) (toLe 2 s.ibg.version ++ toLe 1 s.present)
    if (posIn m s.modId.ident).isNone then s.irq .ibg 4 else s

/-- R423: what a DISCOVER frame tells. -/
def State.discovered (s : State) (x : RingRx) : State :=
  let p := x.pay
  let me := s.modId.ident
  let es := discEntries p
  let theirs := (es.take (byteAt p 18)).map fun e => e.1
  let r := mergeOrder s.ibg.order me x.src theirs x.east
  let fl := byteAt p 17
  let closed := r.2 || decide (fl / 4 % 2 = 1)
  let endW := if x.east then s.ibg.endW || !s.ibg.upW else decide (fl % 2 = 1)
  let endE := if x.east then decide (fl / 2 % 2 = 1) else s.ibg.endE || !s.ibg.upE
  let s := { s with ibg := { s.ibg with order := r.1, closed := closed, endW := endW, endE := endE } }
  let h : Nat := le p 9 8
  let m := mapOf es
  if decide (h ≠ 0) && (s.ibg.map.isNone || decide (h < s.ibg.holder)) then s.setMap (placeNew m me) (min h me.toNat)
  else match s.ibg.map with
    | none => if closed || (endW && endE) then let m := formMap r.1 closed; s.setMap m (((lowest (m.filterMap id)).map BitVec.toNat).getD 0) else s
    | some q => s.setMap (r.1.foldl placeNew q) s.ibg.holder

/-- DISCOVER: a DISCOVER frame of a neighbour. -/
def execDiscover (s : State) : Host.Outcome State Fault Refusal := .next (s.onRing 1 fun x t => t.discovered x)

/-- R423: free a position, unless its module is present. -/
def State.forgetPos (s : State) (p : Nat) : State × Bool :=
  if s.present / 2 ^ p % 2 = 1 ∨ some p = s.ringPos then (s, false)
  else match s.ibg.map with
    | some m => (s.setMap (setAt m p none) s.ibg.holder, true)
    | none => (s, true)

/-- MAP_FORGET: a write of MAP_FORGET. -/
def State.mapForget (s : State) (m : Master) (v : Word) : State :=
  if fld v 16 16 ≠ 0xF0E7 then s.err .ibg eBadKey 0xC4 m
  else match s.forgetPos (fld v 0 3) with | (t, true) => t | (t, false) => t.err .ibg eBusy 0xC4 m

/-- MAP_FORGET. -/
def execMapForget (m : Master) (v : Word) (s : State) : Host.Outcome State Fault Refusal :=
  .next (s.writeAt .ibg 0xC4 m v fun t => (t.mapForget m v).answer .done)

/-- RING_FORGET. -/
def execRingForget (tag : Word) (s : State) : Host.Outcome State Fault Refusal :=
  .next (s.withCmd 0x0B02 tag fun k t =>
    if 7 < k.par 0 1 then t.reply k stBadParam [] []
    else match t.forgetPos (k.par 0 1) with | (u, true) => u.reply k stOk [] [] | (u, false) => u.reply k stBusy [] [])

/-- RING_STATUS: for each position its identity, presence, mastery and last heartbeat, 32 bytes. -/
def execRingStatus (tag : Word) (s : State) : Host.Outcome State Fault Refusal :=
  .next (s.withCmd 0x0B00 tag fun k t =>
    t.reply k stOk [] ((List.range 8).flatMap fun p =>
      toLe 8 (match t.ibg.map with | some m => ((m.getD p none).getD 0).toNat | none => 0) ++ toLe 1 (t.present / 2 ^ p % 2) ++
      toLe 1 (b2n (decide (t.ibg.master = some p))) ++ zeros 6 ++ (match t.ibg.hb.getD p none with | some h => slice h.pay 0 16 | none => zeros 16)))

/-! ### Remote reset: the sender (R427) -/

/-- Why a RESET frame cannot be sent. -/
def State.rrstError (s : State) : Option Nat := if s.ringKey.isNone then some 0x80 else if s.ibg.map.isNone then some 0x81 else none

/-- Send a RESET frame. -/
def State.rrstSend (s : State) (p : Nat) : State := s.ringSend 0x30 p (toLe 2 0xC0DE)

/-- A write of RRST_CTRL. -/
def State.rrstCtrl (s : State) (m : Master) (v : Word) : State :=
  if fld v 16 16 ≠ 0xC0DE then s.err .ibg eBadKey 0xC0 m
  else match s.rrstError with | some e => s.err .ibg e 0xC0 m | none => s.rrstSend (fld v 0 3)

/-- RRST_CTRL_WRITE. -/
def execRrstCtrlWrite (m : Master) (v : Word) (s : State) : Host.Outcome State Fault Refusal :=
  .next (s.writeAt .ibg 0xC0 m v fun t => (t.rrstCtrl m v).answer .done)

/-- RING_RESET. -/
def execRingReset (tag : Word) (s : State) : Host.Outcome State Fault Refusal :=
  .next (s.withCmd 0x0B01 tag fun k t =>
    if 7 < k.par 0 1 then t.reply k stBadParam [] []
    else match t.rrstError with | some e => t.reply k stFault (toLe 1 e) [] | none => (t.rrstSend (k.par 0 1)).reply k stOk [] [])

/-! ### Wire delay (R425) -/

/-- A TS of a counter value (R234). -/
def State.ts (s : State) (c : DWord) : Nat := s.nt c % 2 ^ 64

/-- RING_DELAY_MEASURE: each port that is up sends DLY_REQ with its start. -/
def execRingDelayMeasure (c : DWord) (s : State) : Host.Outcome State Fault Refusal :=
  .next (
    let t := s.at c
    if !t.ibgRuns then t
    else
      let ts := t.ts c
      let t := { t with ibg := { t.ibg with reqE := if t.ibg.upE then some ts else none, reqW := if t.ibg.upW then some ts else none } }
      t.ringOut [true, false] 2 15 (toLe 8 ts))

/-- DLY_REQ: the port answers with the start of the request and of this frame, which begins at c. -/
def execDlyReq (c : DWord) (s : State) : Host.Outcome State Fault Refusal :=
  .next (s.onRing 2 fun x t => let t := t.at c; t.ringOut [x.east] 3 15 (toLe 8 (t.ts x.c) ++ toLe 8 (t.ts c)))

/-- R235: a delay sample of a port; differences of TS values are taken modulo 2^64. -/
def wireSample (t1 t2 t3 t4 : Nat) : Int := (sgn 64 ((t4 + 2 ^ 64 - t1) % 2 ^ 64) - sgn 64 ((t3 + 2 ^ 64 - t2) % 2 ^ 64)) / 2

/-- DLY_RESP: the port takes a sample; the median of the last five is used. -/
def execDlyResp (s : State) : Host.Outcome State Fault Refusal :=
  .next (s.onRing 3 fun x t =>
    let t4 := t.ts x.c
    match (if x.east then t.ibg.reqE else t.ibg.reqW) with
    | none => t
    | some t1 =>
      let d := wireSample t1 (le x.pay 0 8) (le x.pay 8 8) t4
      if x.east then { t with ibg := { t.ibg with reqE := none, delE := (d :: t.ibg.delE).take 5 } }
      else { t with ibg := { t.ibg with reqW := none, delW := (d :: t.ibg.delW).take 5 } })

/-! ### Tick master and SYNC (R424-R426) -/

/-- R424: the module is an eligible head. -/
def State.eligible (s : State) : Bool := s.isHead && decide (s.rf R.ntm_NTM_CFG 0 2 = 1) && decide (s.tmState = 2)

/-- R239: the firmware chooses NTM's source at a change of role or mastership. -/
def State.srcByRole (s : State) : State :=
  let v :=
    if s.isNode then 3 else if s.isStandby then 2
    else if s.isHead then (match s.ibg.master with | none => 1 | some p => if some p = s.ringPos then 1 else 2)
    else s.rf R.ntm_NTM_CFG 0 2
  s.wf R.ntm_NTM_CFG 0 2 v

/-- The mastership changes. -/
def State.setMaster (s : State) (m : Option Nat) : State :=
  if s.ibg.master = m then s
  else
    let s := { s with ibg := { s.ibg with master := m, syncAt := s.ibg.edges } }.irq .ibg 2
    (s.srcByRole).fwEvent 0xFB01 (blkSrc .ibg) (toLe 1 (m.getD 0xFF) ++ toLe 4 s.tick32.toNat)

/-- The first byte of the last heartbeat of a present position. -/
def State.hbFlags (s : State) (p : Nat) : Nat :=
  match s.ibg.hb.getD p none with | some h => if s.ibg.edges ≤ h.at' + 8 then byteAt h.pay 0 else 0 | none => 0

/-- R424: the choice among the eligible heads: a working master, else preferred heads first, then the lowest position. -/
def State.elect (s : State) : Option Nat :=
  let f (p : Nat) : Nat :=
    if some p = s.ringPos then b2n s.eligible * 32 + b2n (s.rb R.rst_ROLE 2) * 64 else s.hbFlags p
  let has (b : Nat) (p : Nat) : Bool := decide (f p / b % 2 = 1)
  match (List.range 8).find? (has 128) with
  | some p => some p
  | none => match (List.range 8).find? fun p => has 32 p && has 64 p with
    | some p => some p
    | none => (List.range 8).find? (has 32)

/-- R424: with a map and no master, a module makes the choice. -/
def State.chooseMaster (s : State) : State :=
  if s.ibg.map.isSome && s.ibg.master.isNone then s.setMaster s.elect else s

/-- SYNC_SEND: the tick master sends SYNC; the frame starts at c. -/
def execSyncSend (c : DWord) (s : State) : Host.Outcome State Fault Refusal :=
  .next (
    let t := s.at c
    if t.ibg.master.isSome && decide (t.ibg.master = t.ringPos) && decide (t.tick % 16 = 0) then
      t.ringSend 4 15 (toLe 8 (t.ts c) ++ toLe 6 0 ++ toLe 1 t.tq ++ toLe 1 0)
    else t)

/-- R425: the error that a SYNC gives, in units of 2^-16 ns. A TS has 64 bits; where the module holds no time, the part of the time above them is open. -/
def State.syncError (s : State) (x : RingRx) : Int :=
  let v : Int := (le x.pay 0 8 : Int) + sgn 48 (le x.pay 8 6) + s.wireD x.east
  if s.holds then sgn 64 ((v - s.nt x.c) % 2 ^ 64).toNat
  else v + (Config.ringHigh s.free % 2 ^ 16 : Nat) * 2 ^ 64 - s.nt x.c

/-- R243: the bound that a TQ gives in ns, none for unknown. -/
def tqBound (tq : Nat) : Option Nat := if tq % 64 = 63 then none else some (tq % 64 * 32)

/-- SYNC: a SYNC of the master; a module that follows the ring takes a measurement. -/
def execSync (s : State) : Host.Outcome State Fault Refusal :=
  .next (s.onRing 4 fun x t =>
    match t.ibg.master, t.ibg.map with
    | some p, some m =>
      if m.getD p none ≠ some x.src then t
      else
        let t := { t with ibg := { t.ibg with syncAt := t.ibg.edges } }
        if t.rf R.ntm_NTM_CFG 0 2 ≠ 2 then t
        else ((t.setBase ((tqBound (byteAt x.pay 14)).map fun b => b + 10)).measure (t.syncError x) x.c).draw 1
    | _, _ => t)

/-- R426: the master is lost: no SYNC for 48 ticks, or no heartbeat for 8. -/
def State.masterGone (s : State) : Bool :=
  match s.ibg.master with
  | none => false
  | some p => decide (some p ≠ s.ringPos) &&
    (decide (s.ibg.syncAt + 48 ≤ s.ibg.edges) || (match s.ibg.hb.getD p none with | some h => decide (h.at' + 8 ≤ s.ibg.edges) | none => true))

/-- R426: without the master, a module that takes ring time enters holdover, and all choose again. -/
def State.masterLost (s : State) (c : DWord) : State :=
  let old := s.ibg.master
  let s := if s.rf R.ntm_NTM_CFG 0 2 = 2 then s.loseSource c 1 else s
  let s := { s with ibg := { s.ibg with hb := match old with | some p => setAt s.ibg.hb p none | none => s.ibg.hb } }.setMaster none
  s.chooseMaster

/-- MASTER_LOST. -/
def execMasterLost (c : DWord) (s : State) : Host.Outcome State Fault Refusal :=
  .next (if !s.inReset .ibg && s.masterGone then (s.at c).masterLost c else s)

/-- The ring's part of a tick edge: the edge count, the choice of a master, and a change of presence. -/
def State.ringEdge (s : State) : State :=
  if s.inReset .ibg then s
  else
    let s := ({ s with ibg := { s.ibg with edges := s.ibg.edges + 1 } }).chooseMaster
    let p := s.present
    if p = s.ibg.shown then s
    else ({ s with ibg := { s.ibg with shown := p } }.irq .ibg 1).fwEvent 0xFB00 (blkSrc .ibg) (toLe 2 s.ibg.version ++ toLe 1 p)

/-! ### Registers and reset -/

/-- IBG registers that show the ring. -/
def State.ibgRead (s : State) (off : Nat) : Option Word :=
  let g := s.ibg
  if off = 0x44 then
    some (w32 (b2n g.upE + b2n g.upW * 2 + b2n (g.closed && g.upE && g.upW) * 4 + b2n g.map.isSome * 8 + s.ringPos.getD 0 * 16 +
      b2n g.master.isSome * 2 ^ 8 + g.master.getD 0 * 2 ^ 9 + (match g.map with | some m => (m.filterMap id).length | none => 0) * 2 ^ 12))
  else if off = 0x48 then some (w32 s.present)
  else if off = 0x4C then some (wOfInt (s.wireD true / 2 ^ 8))
  else if off = 0x50 then some (wOfInt (s.wireD false / 2 ^ 8))
  else if 0x60 ≤ off ∧ off < 0xA0 then
    some (match g.map with | some m => w32 (((m.getD ((off - 0x60) / 8) none).getD 0).toNat / 2 ^ ((off - 0x60) % 8 * 8)) | none => 0)
  else none

/-- IBG registers with a rule of their own. -/
def State.ibgWrite (s : State) (m : Master) (off : Nat) (v : Word) : Option State :=
  if off = 0xC0 then some (s.rrstCtrl m v) else if off = 0xC4 then some (s.mapForget m v) else none

/-- R442: an IBG reset retrains the links and keeps the map. -/
def State.ibgReset (s : State) : State :=
  { s with ibg := { ibgOff with map := s.ibg.map, holder := s.ibg.holder, version := s.ibg.version, sent := s.ibg.sent } }

end Sys2Proof.Machine
end

