-- ==== Sys2Proof/Machine/Failover.lean ====
section
/-! DEFINITION. Failover: heartbeats, arming, the takeover decision, checkpoints, takeover, and the repaired unit (R428-R440, R443, R444). -/

namespace Sys2Proof.Machine

open Sys2Proof

/-- The segment that a standby watches. -/
def State.watchSeg (s : State) : Nat := s.rf R.fov_FOV_CFG 0 16

/-- R439: the head waits before it may send beacons. -/
def State.beaconHeld (s : State) : Bool := s.fov.probe.isSome && (s.ibg.upE || s.ibg.upW)

/-- The module is the active head of a segment. -/
def State.activeHead (s : State) : Bool := s.isHead && decide (s.net.seg ≠ 0) && decide (s.boot.stage = .booted) && !s.beaconHeld

/-- R428: FOV sends heartbeats: enabled, and not in the crypto error state. -/
def State.beats (s : State) : Bool := s.runs .fov && !s.cryError

/-! ### The checkpoint image (R432) -/

/-- The pairing key: the vault slot with PAIR = 1 (R421). -/
def State.pairKey (s : State) : Option Bytes :=
  (s.vlt.slots.filterMap fun x => match x with | some y => if tst y.attr 10 then some y.key else none | none => none).head?

/-- Wrap a wrapped key again under another key. -/
def rewrap (old new : Option Bytes) (w : Bytes) : Bytes :=
  match old, new with
  | some a, some b => (match kwUnwrap a w with | some k => kwWrap b k | none => w)
  | _, _ => w

/-- A context record with its node key wrapped again. -/
def rewrapRec (old new : Option Bytes) (r : Bytes) : Bytes :=
  if recLive r && recNkOk r then
    let b := r.take 12 ++ slice (rewrap old new (slice r 12 24)) 0 24 ++ slice r 36 24
    b ++ toLe 4 (recCrc b)
  else r

/-- The hop list of an image: centres in 2-byte entries, 64 in all. -/
def hopBytes (l : List Nat) : Bytes := (List.range 64).flatMap fun i => toLe 2 (l.getD i 0)

/-- The 4 KiB of COR, LVL, BCN and balance settings. -/
def State.ckSettings (s : State) : Bytes :=
  let p := s.cor.pol
  let b := ((List.range 64).flatMap fun i => toLe 2 (p.floors.getD i 0)) ++ ((List.range 64).flatMap fun i => toLe 2 (p.caps.getD i 0)) ++ toLe 4 p.wx ++
    ([R.cor_HYST, R.lvl_LVL_CFG, R.lvl_FADE_CFG] ++ ((List.range 8).map fun i => R.lvl_SCHEDp i) ++ [R.bcn_BCN_CFG, R.scl_BAL_CFG]).flatMap fun a => toLe 4 (s.rn a)
  slice b 0 4096

/-- The image from its second page on. -/
def State.ckBody (s : State) : Bytes :=
  ((List.range 4096).flatMap fun i => s.tableEntry i) ++
  ((List.range 4096).flatMap fun i => toLe 4 ((s.downHop i).getD 0)) ++
  ((List.range 8192).flatMap fun r => rewrapRec s.wrapKey s.pairKey (memRead s.mem.dram (s.recAddr r) 64)) ++
  s.ckSettings ++ memRead s.graph 0 graphLen

/-- MODE_CUR's layout of a mode. -/
def modeWord (m : SegMode) : Nat := m.op % 4 + m.fixed % 256 * 2 ^ 8 + m.mfade % 64 * 2 ^ 16 + m.gen % 2 * 2 ^ 24

/-- The header of an image with a body: the fields of R432, the CRC of the body, and its own CRC in the last word. -/
def State.ckHeader (s : State) (full incr : Nat) (body : Bytes) : Bytes :=
  let pend := match s.lvl.ann with
    | some a => toLe 1 1 ++ toLe 1 ((a.mode.hop.getD []).length) ++ toLe 2 a.epoch ++ toLe 4 (modeWord a.mode) ++ toLe 8 a.c ++ hopBytes (a.mode.hop.getD [])
    | none => zeros 144
  let b := toLe 4 0x4B504346 ++ toLe 2 1 ++ toLe 2 s.net.seg ++ toLe 8 s.nonceId ++ toLe 2 full ++ toLe 2 incr ++ toLe 4 s.sf ++
    toLe 4 (s.lnk.reserve.foldl max 0) ++ toLe 4 s.epoch ++ toLe 4 (s.rn R.lvl_MODE_CUR) ++ toLe 4 (s.rn R.lnk_LNK_GEN) ++ toLe 4 s.hopCentres.length ++
    hopBytes s.hopCentres ++ toLe 4 (crcOf crc32c body) ++ pend
  let b := slice b 0 4092
  b ++ toLe 4 (crcOf crc32c b)

/-- Field offsets of the header. -/
abbrev hSeg : Nat := 6
abbrev hHead : Nat := 8
abbrev hFull : Nat := 16
abbrev hIncr : Nat := 18
abbrev hSf : Nat := 20
abbrev hHwm : Nat := 24
abbrev hEpoch : Nat := 28
abbrev hMode : Nat := 32
abbrev hGen : Nat := 36
abbrev hHopLen : Nat := 40
abbrev hHop : Nat := 44
abbrev hBody : Nat := 172
abbrev hPend : Nat := 176

/-- The size of the image. -/
abbrev imgLen : Nat := 0xE7000

/-- A header that verifies. -/
def hdrOk (h : Bytes) : Bool := decide (le h 0 4 = 0x4B504346) && decide (le h 4 2 = 1) && decide (le h 4092 4 = crcOf crc32c (h.take 4092))

/-- The NVS address of a half of region 6 (R435). -/
def halfAddr (b : Bool) : Nat := if b then 0x480000 else 0x300000

/-- The header of a half, where it verifies. -/
def State.halfHdr (s : State) (b : Bool) : Option Bytes :=
  match s.nvsRead (halfAddr b) 4096 with
  | some h => if hdrOk h then some h else none
  | none => none

/-- The header of the current half. -/
def State.img (s : State) : Option Bytes := match s.fov.half with | some b => s.halfHdr b | none => none

/-- R443: the newer of the halves whose header and image verify. -/
def State.findHalf (s : State) : Option Bool :=
  let ok (b : Bool) : Option (Nat × Bool) :=
    match s.halfHdr b, s.nvsRead (halfAddr b + 4096) (imgLen - 4096) with
    | some h, some body => if le h hBody 4 = crcOf crc32c body then some (le h hSf 4, b) else none
    | _, _ => none
  match ok false, ok true with
  | some x, some y => some (if x.1 < y.1 then y.2 else x.2)
  | some x, none => some x.2
  | none, some y => some y.2
  | none, none => none

/-! ### Heartbeats (R428, R429) -/

/-- R428: the heartbeat payload. -/
def State.beatPay (s : State) : Bytes :=
  let b0 := s.role + b2n s.activeHead * 4 + b2n s.fov.taking.isSome * 8 + b2n s.cryError * 16 + b2n s.eligible * 32 +
    b2n (s.rb R.rst_ROLE 2) * 64 + b2n (s.ibg.master.isSome && decide (s.ibg.master = s.ringPos)) * 128
  let seg := if s.isStandby then s.watchSeg else s.net.seg
  let seqs := if s.isStandby then (match s.img with | some h => (le h hFull 2, le h hIncr 2) | none => (0, 0)) else (s.fov.full, s.fov.incr)
  toLe 1 b0 ++ toLe 1 (s.fov.st + s.tmState * 16) ++ toLe 2 seg ++ toLe 4 s.tick32.toNat ++ toLe 1 s.tq ++ toLe 1 0 ++ toLe 2 s.epoch ++
  toLe 2 seqs.1 ++ toLe 2 seqs.2

/-- HEARTBEAT_SEND: 100 µs after a tick edge. -/
def execHeartbeatSend (s : State) : Host.Outcome State Fault Refusal := .next (if s.beats then s.ringSend 5 15 s.beatPay else s)

/-- R429, R430, R433: what FOV takes from a heartbeat. -/
def State.beatHeard (s : State) (x : RingRx) (pos : Nat) : State :=
  let b0 := byteAt x.pay 0
  let seg := le x.pay 2 2
  if !s.runs .fov then s
  else if s.isStandby then
    if seg ≠ s.watchSeg then s
    else if b0 / 4 % 2 = 1 then
      { s with fov := { s.fov with heardA := true, partner := some pos, lastNs := s.ntNs x.c, lastTick := s.tick32 } }
    else if b0 % 4 = 3 then { s with fov := { s.fov with dupAt := some s.ibg.edges } }
    else s
  else if s.isHead && decide (seg = s.net.seg) && decide (b0 % 4 = 3) then
    { s with fov := { s.fov with pair := some (s.ibg.edges, pos, byteAt x.pay 1 % 8, le x.pay 12 2) } }
  else s

/-- HEARTBEAT: a heartbeat that was accepted. -/
def execHeartbeat (s : State) : Host.Outcome State Fault Refusal :=
  .next (s.onRing 5 fun x t =>
    let pos := match t.ibg.map with | some m => (posIn m x.src).getD x.spos | none => x.spos
    let t := if pos < 8 then { t with ibg := { t.ibg with hb := setAt t.ibg.hb pos (some ⟨t.ibg.edges, x.pay⟩) } } else t
    t.beatHeard x pos)

/-- PATH_LOST: one path silent for 8 ticks while the other is heard. -/
def execPathLost (s : State) : Host.Outcome State Fault Refusal :=
  .next (
    let a := decide (8 ≤ s.fov.silA) && decide (s.fov.silB = 0)
    let b := decide (8 ≤ s.fov.silB) && decide (s.fov.silA = 0)
    if s.inReset .fov || !s.isStandby || s.fov.pathLost || !(a || b) then s
    else ({ s with fov := { s.fov with pathLost := true } }.irq .fov 2).ledger 0xEB00 2 (blkSrc .fov) (b2n b) s.fov.silA s.fov.silB)

/-! ### Arming (R430) -/

/-- R430: the first failing condition, 0 for none. -/
def State.armBlock (s : State) : Nat :=
  if !s.rb R.fov_FOV_CFG 16 then 1
  else match s.img with
    | none => 2
    | some h =>
      if le h hSeg 2 ≠ s.watchSeg then 2
      else if 4096 < (s.sf : Int) - sfNear s.sf (le h hSf 4) then 3
      else if 0xFFFFFFFF < le h hHwm 4 + 2 ^ 24 then 4
      else if !s.holds then 5
      else if !(match s.bcn.headSfs with | f :: _ => decide (s.sf ≤ f + 16) | [] => false) then 6
      else if !s.rootOk || s.cryError || s.ringKey.isNone then 7
      else if (match s.fov.dupAt with | some e => decide (s.ibg.edges ≤ e + 8) | none => false) then 8
      else 0

/-- R430: arm or disarm; arming is reported. -/
def State.rearm (s : State) : State :=
  if !s.isStandby || !s.runs .fov || s.fov.taking.isSome then s
  else
    let b := s.armBlock
    let was := decide (s.fov.st = 4)
    let s := { s with fov := { s.fov with block := b, st := if b = 0 then 4 else if s.fov.blockedSent then 6 else 3 } }
    if b = 0 && !was then
      s.fwEvent 0xFB04 (blkSrc .fov) (toLe 2 s.watchSeg ++ (match s.img with | some h => slice h hFull 4 | none => zeros 4))
    else s

/-- R429: the standby's count of silent ticks at a tick edge. -/
def State.watch (s : State) (hbIn : Bool) : State :=
  let f := s.fov
  let a := f.heardA
  let sa := if a then 0 else min 255 (f.silA + 1)
  let sb := if hbIn then 0 else min 255 (f.silB + 1)
  let s := { s with fov := { f with
    heardA := false, silA := sa, silB := sb,
    lastNs := if hbIn && s.holds then max f.lastNs ((s.tick - 1) * 4000000) else f.lastNs,
    pathLost := f.pathLost && ((decide (8 ≤ sa) && hbIn) || (decide (8 ≤ sb) && a)),
    partLost := f.partLost && !a && !hbIn, blockedSent := f.blockedSent && !a && !hbIn } }
  let s := if a != hbIn then s.bumpSat (if a then R.fov_HB_LOST_B else R.fov_HB_LOST_A) 1 else s
  s.rearm

/-! ### The decision (R431) -/

/-- One superframe in ns. -/
abbrev sfNs : Nat := 1024000000

/-- R431: the first superframe whose head beacon window begins after an instant. -/
def winAfter (ns : Nat) : Nat := if ns < 200000 then 0 else (ns - 200000) / sfNs + 1

/-- R431: the last superframe whose head beacon window has begun before the edge of tick k. -/
def winBefore (k : Nat) : Option Nat := if k * 4000000 ≤ 200000 then none else some ((k * 4000000 - 200001) / sfNs)

/-- R431: both paths are silent and a window has passed since the last heartbeat: some sf, whether a beacon was heard in such a window. -/
def State.silentFor (s : State) : Option Bool :=
  if decide (8 ≤ s.fov.silA) && decide (8 ≤ s.fov.silB) && s.holds then
    match winBefore s.tick with
    | some w => if winAfter s.fov.lastNs ≤ w then some (s.bcn.headSfs.any fun f => decide (winAfter s.fov.lastNs ≤ f)) else none
    | none => none
  else none

/-- R431: the decision to take over. The firmware completes steps 1 to 6 of R437 within 180 ticks. -/
def State.decide' (s : State) : State :=
  let n := (Config.freeBelow s.free 179).val + 1
  (({ s with fov := { s.fov with st := 5, taking := some (s.tick, s.tick + n) } }.draw 1).irq .fov 0)

/-- The decision of a tick edge at which both paths are silent and a window has passed: takeover, or PARTNER_LOST where the beacon is heard, or FAILOVER_BLOCKED where the standby is not armed (R431, R440). -/
def State.takeoverDecision (s : State) : State :=
  if !s.isStandby || !s.runs .fov || s.fov.taking.isSome || s.ringFull then s
  else match s.silentFor with
    | none => s
    | some true =>
      if s.fov.partLost then s
      else ({ s with fov := { s.fov with partLost := true } }.irq .fov 1).ledger 0xEB01 2 (blkSrc .fov) s.watchSeg 0 0
    | some false =>
      if s.fov.st = 4 then s.decide'
      else if s.fov.blockedSent then s
      else ({ s with fov := { s.fov with blockedSent := true, st := 6 } }.irq .fov 4).fwEvent 0xFB03 (blkSrc .fov) (toLe 2 s.watchSeg ++ toLe 1 s.fov.block)

/-- TAKEOVER_DECISION: the decision, as every tick edge takes it. -/
def execTakeoverDecision (s : State) : Host.Outcome State Fault Refusal := .next s.takeoverDecision

/-! ### Checkpoints: the head (R433, R434) -/

/-- The 64-byte blocks of a string, n of them. -/
def blocks64 : Nat → Bytes → List Bytes
  | 0, _ => []
  | n + 1, b => b.take 64 :: blocks64 n (b.drop 64)

/-- Cut a list into groups of at most k, n of them at most. -/
def groups {α : Type} (k : Nat) : Nat → List α → List (List α)
  | 0, _ => []
  | n + 1, l => if l.isEmpty then [] else l.take k :: groups k n (l.drop k)

/-- The numbered blocks that changed; the header always goes. -/
def changedBlocks (old new : Bytes) : List (Nat × Bytes) :=
  ((List.zip (blocks64 14784 old) (blocks64 14784 new)).zipIdx).filterMap fun p =>
    if p.2 < 64 ∨ p.1.1 ≠ p.1.2 then some (p.2, p.1.2) else none

/-- A standby for the segment, armed or arming, heartbeats (R433): its position and its FULL_SEQ. -/
def State.standbyNow (s : State) : Option (Nat × Nat × Nat) :=
  match s.fov.pair with
  | some (e, p, st, q) => if s.ibg.edges ≤ e + 8 ∧ (st = 3 ∨ st = 4 ∨ st = 6) then some (p, st, q) else none
  | none => none

/-- R433: the hour of Relso time. -/
def State.hourNow (s : State) : Nat := s.tick / 900000

/-- R433: this capture is a full checkpoint. -/
def State.ckWhole (s : State) (q : Nat × Nat × Nat) : Bool :=
  s.fov.prev.isNone || decide (s.fov.hour ≠ s.hourNow) || decide (s.fov.graph ≠ s.rd R.cor_GRAPH_ID) || s.fov.want ||
  (decide (q.2.1 = 4) && decide (q.2.2 ≠ s.fov.full))

/-- R433: capture; the chunks leave from the next tick edge on. A checkpoint whose 64 superframes end here without an answer is abandoned (R434). -/
def State.capture (s : State) (q : Nat × Nat × Nat) : State :=
  let s := if s.fov.tx.isSome then s.bumpSat R.fov_CKPT_FAIL 1 else s
  let body := s.ckBody
  let old := s.fov.prev.getD []
  let size := 64 * (changedBlocks old (s.ckHeader s.fov.full s.fov.incr body ++ body)).length
  let whole := s.ckWhole q || decide (1048576 < size)
  let full := if whole then (s.fov.full + 1) % 65536 else s.fov.full
  let incr := if whole then 0 else (s.fov.incr + 1) % 65536
  let img := s.ckHeader full incr body ++ body
  let chunks :=
    if whole then (groups 1984 480 img) else (groups 30 500 (changedBlocks old img)).map fun g => g.flatMap fun p => toLe 2 p.1 ++ p.2
  { s with fov := { s.fov with
      prev := some img, full := full, incr := incr, want := false,
      hour := if whole then s.hourNow else s.fov.hour, graph := if whole then s.rd R.cor_GRAPH_ID else s.fov.graph,
      tx := some ⟨q.1, full, incr, whole, s.sf, chunks, List.range chunks.length⟩ } }

/-- The payload of a CKPT_DATA frame. -/
def ckPay (t : CkTx) (i : Nat) : Bytes :=
  toLe 2 t.full ++ toLe 2 t.incr ++ toLe 2 i ++ toLe 2 t.chunks.length ++ toLe 1 (b2n t.whole) ++ t.chunks.getD i []

/-- R433, R434: at a tick edge, at most 32 CKPT_DATA frames, and none while no standby for the segment heartbeats. -/
def State.ckSend (s : State) : State :=
  match s.fov.tx with
  | none => s
  | some t =>
    if s.standbyNow.isNone then s
    else
    let s := (t.todo.take 32).foldl (fun (u : State) i => u.ringSend 0x10 t.dest (ckPay t i)) s
    { s with fov := { s.fov with tx := some { t with todo := t.todo.drop 32 } } }

/-- CHECKPOINT_CAPTURE: 100 µs after the edge of tick 128 of every 64th superframe. -/
def execCheckpointCapture (s : State) : Host.Outcome State Fault Refusal :=
  .next (
    if !s.activeHead || !s.takes .fov || !s.holds || decide (s.tick % 256 ≠ 128) || decide (s.sf % 64 ≠ 0) then s
    else match s.standbyNow with
      | some q => s.capture q
      | none => s)

/-- CKPT_ACK: the standby has it all, or lacks chunks, which are sent again. The payload holds FULL_SEQ, INCR_SEQ, OK, and the bitmap of missing chunks. -/
def execCkptAck (s : State) : Host.Outcome State Fault Refusal :=
  .next (s.onRing 0x11 fun x t =>
    match t.fov.tx with
    | none => t
    | some k =>
      if le x.pay 0 2 ≠ k.full ∨ le x.pay 2 2 ≠ k.incr ∨ x.spos ≠ k.dest then t
      else if byteAt x.pay 4 = 1 then { t with fov := { t.fov with tx := none } }.bumpSat R.fov_CKPT_SENT 1
      else
        let miss := (List.range k.chunks.length).filter fun i => tst (w32 (byteAt x.pay (5 + i / 8))) (i % 8)
        { t with fov := { t.fov with tx := some { k with todo := k.todo ++ miss.filter fun i => !k.todo.contains i } } })

/-- R434: 64 superframes have passed since the capture of superframe sf, at its tick 128. -/
def State.ckOld (s : State) (sf : Nat) : Bool := decide ((sf + 64) * 256 + 128 ≤ s.tick)

/-- CHECKPOINT_ABANDON: 64 superframes after its capture a checkpoint is not complete. -/
def execCheckpointAbandon (s : State) : Host.Outcome State Fault Refusal :=
  .next (
    let s := match s.fov.tx with
      | some t => if s.ckOld t.sf then { s with fov := { s.fov with tx := none } }.bumpSat R.fov_CKPT_FAIL 1 else s
      | none => s
    match s.fov.asm with
    | some a => if s.ckOld a.sf then { s with fov := { s.fov with asm := none } }.bumpSat R.fov_CKPT_FAIL 1 else s
    | none => s)

/-! ### Checkpoints: the standby (R434, R435) -/

/-- The chunks of a checkpoint that are missing. -/
def CkAsm.missing (a : CkAsm) : List Nat := (List.range a.n).filter fun i => (Sparse.find a.got i).isNone

/-- All chunks joined. -/
def CkAsm.joined (a : CkAsm) : Bytes := (List.range a.n).flatMap fun i => (Sparse.find a.got i).getD []

/-- The checkpoint is applied. -/
def State.ckApplied (s : State) (half : Bool) : State :=
  let s := ({ s with fov := { s.fov with half := some half } }.bumpSat R.fov_CKPT_APPLIED 1).irq .fov 3
  let s := if s.fov.autoArm then s.wb R.fov_FOV_CFG 16 true else s
  s.rearm

/-- R435: a full checkpoint goes into the half that is not current, its header last, where both CRCs verify. -/
def State.applyFull (s : State) (img : Bytes) : State × Bool :=
  let h := img.take 4096
  let body := img.drop 4096
  if hdrOk h && decide (img.length = imgLen) && decide (le h hBody 4 = crcOf crc32c body) then
    let half := match s.fov.half with | some b => !b | none => false
    let a := halfAddr half
    ((((s.nvsWrite .fov (a + 4096) body).nvsWrite .fov a h)).ckApplied half, true)
  else (s, false)

/-- The numbered blocks of an incremental checkpoint's chunks. -/
def incrBlocks (a : CkAsm) : List (Nat × Bytes) :=
  (List.range a.n).flatMap fun i =>
    let b := (Sparse.find a.got i).getD []
    (List.range (b.length / 66)).map fun j => (le b (66 * j) 2, slice b (66 * j + 2) 64)

/-- R435: an incremental checkpoint goes into the current half block by block, its header last. -/
def State.applyIncr (s : State) (a : CkAsm) : State × Bool :=
  match s.fov.half, s.img with
  | some half, some h =>
    let bs := incrBlocks a
    let base := halfAddr half
    let hdr := (bs.filter fun p => decide (p.1 < 64)).flatMap fun p => p.2
    if le h hFull 2 = a.full ∧ hdrOk hdr then
      let s := (bs.filter fun p => decide (64 ≤ p.1)).foldl (fun (t : State) p => t.nvsWrite .fov (base + 64 * p.1) p.2) s
      ((s.nvsWrite .fov base hdr).ckApplied half, true)
    else (s, false)
  | _, _ => (s, false)

/-- The answer to the last chunk. -/
def State.ckAck (s : State) (a : CkAsm) (ok : Bool) : State :=
  let miss := a.missing
  let bits := (List.range 64).flatMap fun i => toLe 1 ((List.range 8).foldl (fun v j => if miss.contains (8 * i + j) then v + 2 ^ j else v) 0)
  s.ringSend 0x11 (s.fov.partner.getD 15) (toLe 2 a.full ++ toLe 2 a.incr ++ toLe 1 (b2n ok) ++ bits)

/-- R434: take a chunk; after the last one the standby applies the checkpoint or names what is missing. -/
def State.takeChunk (s : State) (p : Bytes) : State :=
  let full := le p 0 2
  let incr := le p 2 2
  let i := le p 4 2
  let a0 : CkAsm := ⟨full, incr, le p 6 2, (s.tick - 128) / 16384 * 64, [], decide (byteAt p 8 = 1), le p 6 2 - 1⟩
  let a := match s.fov.asm with | some a => if a.full = full ∧ a.incr = incr then a else a0 | none => a0
  let a := { a with got := Sparse.put a.got i (p.drop 9) }
  let s := { s with fov := { s.fov with asm := some a } }
  if a.missing.isEmpty then
    let r := if a.whole then s.applyFull a.joined else s.applyIncr a
    if r.2 then ({ r.1 with fov := { r.1.fov with asm := none } }).ckAck a true
    else r.1
  else if i = a.last then ({ s with fov := { s.fov with asm := some { a with last := a.missing.foldl max 0 } } }).ckAck a false
  else s

/-- CKPT_DATA: a chunk from the partner. -/
def execCkptData (s : State) : Host.Outcome State Fault Refusal :=
  .next (s.onRing 0x10 fun x t => if t.isStandby && t.takes .fov && decide (some x.spos = t.fov.partner) then t.takeChunk x.pay else t)

/-! ### Takeover (R436-R438) -/

/-- Step 2: a row of the node table from its entry and its record. -/
def nodeOfEntry (i : Nat) (e rec0 : Bytes) : NodeRow :=
  { ident := BitVec.ofNat 64 (le e 0 8), index := i, key := slice rec0 12 24, cls := 3, sleepy := true, st := byteAt e 15, parent := le e 8 2,
    depth := byteAt e 10, ridx := byteAt e 11, bpos := i % 2, e := byteAt e 12, w := byteAt e 13, phase := byteAt e 14, lacks := 0, accSf := 0, tries := 0,
    sleeps := decide (byteAt e 12 ≠ 0), relayOk := true, new := false, fixed := false, nkGen := 0, nkNext := none, multi := false }

/-- Step 2: the node table, the routes and the context records of the image. -/
def State.takeTables (s : State) (img : Bytes) : State :=
  let rec' (r : Nat) : Bytes := rewrapRec s.pairKey s.wrapKey (slice img (0x15000 + 64 * r) 64)
  let rows := (List.range 4096).filterMap fun i =>
    let e := slice img (0x1000 + 16 * i) 16
    if byteAt e 15 = 0 then none else some (nodeOfEntry i e (rec' (2 * i)))
  let kids := (rows.filter fun r => decide (r.parent = 0) && decide (r.st = 3)).map fun r => (⟨r.index, r.ident, r.sleeps, r.e, r.phase, r.w, r.ridx, []⟩ : Child)
  let routes := (List.range 4096).filterMap fun i => let n := le img (0x11000 + 4 * i) 4; if n = 0 then none else some (i, n)
  let s := { s with net := { s.net with nodes := rows, children := kids, routes := routes, index := 0 } }
  let s := (List.range 8192).foldl (fun (t : State) r =>
    let b := rec' r
    (t.dramWrite (t.recAddr r) b).nvsWrite .porter (t.rf R.lnk_MIRROR_BASE 0 23 + 16 * r) (slice b 36 16)) s
  let s := (List.range 8192).foldl (fun (t : State) e => t.idxClear e) s
  rows.foldl (fun (t : State) r => (t.idxPlace r.ident.toNat r.index).getD t) s

/-- R436: each send counter jumps by 2^24, and its new reserve is written first. -/
def State.jumpCounters (s : State) (hwm : Nat) : State :=
  (List.range 3).foldl (fun (t : State) i => (t.setReserve i (hwm + 2 ^ 24 + 4096)).sendCtr i (hwm + 2 ^ 24)) s

/-- Step 3: identity, segment, epoch, mode, generation and hop list. -/
def State.takeHeader (s : State) (h : Bytes) : State :=
  let hop := (List.range (min 64 (le h hHopLen 4))).map fun i => le h (hHop + 2 * i) 2
  let s := s.wr64 R.fov_NONCE_ID_LO R.fov_NONCE_ID_HI (le h hHead 8)
  let s := ((s.wr R.lvl_EPOCH (w32 (le h hEpoch 2))).wr R.lvl_MODE_CUR (leWord h hMode)).wr R.bcn_BCN_EPOCH (w32 (le h hEpoch 2))
  let s := s.wr R.lnk_LNK_GEN (leWord h hGen)
  ({ s with net := { s.net with seg := le h hSeg 2 }, chn := { s.chn with hopHold := none } }.hopInstall (s.hopChannels hop)).lvlCopy

/-- A pending mode of the header applies at its C, or at the first beacon where C does not lie later. -/
def State.takePending (s : State) (h : Bytes) (first : Nat) : State :=
  if byteAt h hPend ≠ 1 then s
  else
    let w := leWord h (hPend + 4)
    let hop := (List.range (byteAt h (hPend + 1))).map fun i => le h (hPend + 16 + 2 * i) 2
    let m : SegMode := ⟨fld w 0 2, fld w 8 8, fld w 16 6, fld w 24 1, decide (fld w 24 1 ≠ s.genCur), if hop.isEmpty then none else some hop⟩
    let c := le h (hPend + 8) 8
    let at' := if first < c then c else first
    { s with lvl := { s.lvl with ann := some ⟨le h (hPend + 2) 2, c, at', m, s.tick, none, none, false⟩ } }.prepareMode m at'

/-- The settings page of the image. -/
def State.takeSettings (s : State) (img : Bytes) : State :=
  let p := slice img 0x95000 4096
  let regs := [R.cor_HYST, R.lvl_LVL_CFG, R.lvl_FADE_CFG] ++ ((List.range 8).map fun i => R.lvl_SCHEDp i) ++ [R.bcn_BCN_CFG, R.scl_BAL_CFG]
  let s := (regs.zipIdx).foldl (fun (t : State) r => t.wr r.1 (leWord p (260 + 4 * r.2))) s
  let s := (List.range 32).foldl (fun (t : State) i => (t.wr (R.cor_FLOORm i) (leWord p (4 * i))).wr (R.cor_CAPm i) (leWord p (128 + 4 * i))) s
  { s.wr R.cor_WX (leWord p 256) with
    cor := { s.cor with pol := ⟨(List.range 64).map fun i => le p (2 * i) 2, (List.range 64).map fun i => le p (128 + 2 * i) 2, le p 256 4⟩ } }

/-- R437 steps 1 to 6, after the decision of tick d. -/
def State.takeoverSteps (s : State) (d : Nat) : State :=
  match s.fov.half with
  | none => s
  | some half =>
    match s.nvsRead (halfAddr half) imgLen with
    | none => s
    | some img =>
      let first := (d / 256 + 1) * 256
      let hwm := le img hHwm 4
      let s := s.wf R.rst_ROLE 0 2 1
      let s := (List.range 4).foldl (fun (t : State) n => t.setRstBit R.rst_BLK_IN_RESET_A (1 + n) false) s
      let s := ((s.takeTables img).takeHeader (img.take 4096)).jumpCounters hwm
      let s := (s.takeSettings img).takePending (img.take 4096) first
      let s := (List.range 4).foldl (fun (t : State) r => (t.wb (hdr (radBlk r) oCtrl) 0 true).wb (hdr (radBlk r) oStat) 1 false) s
      let s := ((s.wb R.bcn_BCN_CFG 0 true).bumpSat R.fov_TAKEOVERS 1).srcByRole
      let s := { s with
        fov := { s.fov with st := 1, taking := none, step8 := some first, kept := some (s.net.seg, le img hHead 8) },
        lvl := { s.lvl with takeover := some s.tick } }
      s.fwEvent 0xFB02 (blkSrc .fov) (toLe 2 s.net.seg ++ toLe 4 d ++ toLe 4 hwm ++ toLe 4 first)

/-- R432, R437 step 8: COR begins without tracks and history; the graph is staged and checked for its swap, and COR and LVL are enabled. -/
def State.takeoverGraph (s : State) : State :=
  let p := s.cor.pol
  let s := { s with fov := { s.fov with step8 := none } }.corReset
  let s := { s with cor := { s.cor with pol := p } }
  let s := match s.fov.half with
    | some half => (match s.nvsRead (halfAddr half + 0x96000) graphLen with
      | some g => let t := s.stage g; { t with cor := { t.cor with check := 3 } }
      | none => s)
    | none => s
  let on (t : State) (b : Blk) : State := (t.wb (hdr b oCtrl) 0 true).wb (hdr b oStat) 1 false
  (on (on s .cor) .lvl).lvlEnable

/-! ### The repaired unit (R439, R440) -/

/-- The module becomes a standby: nothing is sent any more, and what a standby holds idle stops (R16, R18). -/
def State.enterStandby (s : State) (seg : Nat) : State :=
  let s := match s.lvl.ann with | some a => ((s.replyTag a.tag stCancelled).unprepareMode a.mode) | none => s
  let s := { s with lvl := { s.lvl with ann := none } }
  let s := (List.range 4).foldl (fun (t : State) r => t.radKill r) s
  let s := (List.range 3).foldl (fun (t : State) r => t.wb (hdr (radBlk (r + 1)) oCtrl) 0 false) s
  let s := (List.range 4).foldl (fun (t : State) n => (t.laneReset n).setRstBit R.rst_BLK_IN_RESET_A (1 + n) true) s
  let off (t : State) (b : Blk) : State := t.wb (hdr b oCtrl) 0 false
  let s := if s.en .scl then (off s .scl).sclDisable else s
  let s := (off (off s .cor) .lvl).lvlDisable
  let s := (List.range 4).foldl (fun (t : State) n => if t.en (drvBlk n) then (off t (drvBlk n)).drvDisable n else t) s
  let s := ((s.wf R.rst_ROLE 0 2 3).wb R.rst_ROLE 6 true).wb R.bcn_BCN_CFG 0 false
  let s := { s with net := { s.net with seg := 0, index := 0 }, bcn := { s.bcn with headSfs := [], built := none } }
  (s.wr R.fov_FOV_CFG (w32 seg)).srcByRole

/-- R439: the module enters the standby role for its segment. -/
def State.demote (s : State) : State :=
  let seg := s.net.seg
  let s := s.enterStandby seg
  let s := { s with fov := { s.fov with probe := none, autoArm := true, pair := none, tx := none, silA := 0, silB := 0, st := 3 } }.irq .fov 5
  (s.ledger 0xEB02 1 (blkSrc .fov) seg 0 0).rearm

/-- R439, R440: another position takes the segment over, or, while the module waits, is active for it; or the window brought a beacon of it. -/
def State.segTaken (s : State) : Bool :=
  let other := (List.range 8).any fun p =>
    decide (some p ≠ s.ringPos) &&
    (match s.ibg.hb.getD p none with
     | some h => decide (s.ibg.edges ≤ h.at' + 8) && decide (le h.pay 2 2 = s.net.seg) &&
        (decide (byteAt h.pay 0 / 8 % 2 = 1) || (s.fov.probe.isSome && decide (byteAt h.pay 0 / 4 % 2 = 1)))
     | none => false)
  other || (s.fov.probe.isSome && !s.bcn.headSfs.isEmpty)

/-- R439: the wait of a head at a tick edge: heartbeats in 16 ticks, and one window 0. -/
def State.probeEdge (s : State) : State :=
  match s.fov.probe with
  | none => s
  | some (n, sf0) =>
    let heard := s.ibg.hb.any fun h => match h with | some h => decide (h.at' + 1 = s.ibg.edges) | none => false
    let n := if heard then n + 1 else n
    let sf0 := if s.holds then sf0 else s.sf
    if 16 ≤ n ∧ s.holds ∧ sf0 < s.sf ∧ 2 ≤ s.tick % 256 then { s with fov := { s.fov with probe := none } }
    else { s with fov := { s.fov with probe := some (n, sf0) } }

/-- R439: a head that finds its segment active elsewhere becomes a standby. -/
def State.demoteCheck (s : State) : State :=
  if s.isHead && !s.inReset .fov && decide (s.net.seg ≠ 0) && s.segTaken then s.demote else s

/-- DEMOTION_CHECK: a head finds its segment active elsewhere. -/
def execDemotionCheck (s : State) : Host.Outcome State Fault Refusal := .next s.demoteCheck

/-! ### The tick edge, registers, reset -/

/-- R428: HB_OUT at a tick edge. -/
def State.hbOut (s : State) : State :=
  let on := s.beats && (s.activeHead || s.fov.taking.isSome)
  let v := on && !s.fov.hbOut
  if v = s.fov.hbOut then s else { s with fov := { s.fov with hbOut := v } }.emit (.pin "HB_OUT" v)

/-- FOV's part of a tick edge; `hbIn` says whether HB_IN changed in the tick that ended. -/
def State.fovEdge (s : State) (hbIn : Bool) : State :=
  if s.inReset .fov then s
  else
    let s := if s.ibg.edges = s.fov.verifyAt then { s with fov := { s.fov with half := s.findHalf } } else s
    let s := s.demoteCheck.probeEdge
    let s := match s.fov.taking with | some (d, t) => if t ≤ s.tick then s.takeoverSteps d else s | none => s
    let s := match s.fov.step8 with | some f => if f < s.tick then s.takeoverGraph else s | none => s
    let s :=
      if !s.en .fov then { s with fov := { s.fov with st := 0 } }
      else if s.isStandby then (if s.fov.taking.isSome then s else (s.watch hbIn).takeoverDecision)
      else if s.activeHead then { s with fov := { s.fov with st := match s.standbyNow with | some q => if q.2.1 = 4 then 2 else 1 | none => 1 } }
      else { s with fov := { s.fov with st := 0 } }
    let s := if s.takes .fov then s.ckSend else s
    s.hbOut

/-- A write of FOV_CFG. -/
def State.fovCfg (s : State) (m : Master) (v : Word) : State :=
  if s.fov.kept.isSome && decide (fld v 0 16 ≠ s.watchSeg) then s.err .fov 0x81 0x40 m
  else if tst v 16 && s.img.isNone then s.err .fov 0x80 0x40 m
  else (s.wr R.fov_FOV_CFG (v &&& 0x1FFFF)).rearm

/-- FOV_CFG_WRITE. -/
def execFovCfgWrite (m : Master) (v : Word) (s : State) : Host.Outcome State Fault Refusal :=
  .next (s.writeAt .fov 0x40 m v fun t => (t.fovCfg m v).answer .done)

/-- CKPT_FULL: a write of FOV_CTRL.CKPT_FULL. -/
def execCkptFull (m : Master) (s : State) : Host.Outcome State Fault Refusal :=
  .next (s.writeAt .fov 0x68 m 1 fun t => { t with fov := { t.fov with want := true } }.answer .done)

/-- R438: release the kept role; it takes effect at the next start. -/
def State.releaseRole (s : State) : State := { s with fov := { s.fov with release := true } }

/-- A write of FOV_RELEASE. -/
def State.fovRelease (s : State) (m : Master) (v : Word) : State :=
  if fld v 16 16 ≠ 0x5EED then s.err .fov eBadKey 0x6C m else if tst v 0 then s.releaseRole else s

/-- FOV_RELEASE: by the register or by the mailbox command. -/
def execFovRelease (via : Via) (s : State) : Host.Outcome State Fault Refusal :=
  .next (match via with
    | .reg m v => s.writeAt .fov 0x6C m v fun t => (t.fovRelease m v).answer .done
    | .mbx tag => s.withCmd 0x0B05 tag fun k t => t.releaseRole.reply k stOk [] [])

/-- FOV_SET. -/
def execFovSet (tag : Word) (s : State) : Host.Outcome State Fault Refusal :=
  .next (s.withCmd 0x0B03 tag fun k t =>
    if 1 < k.par 2 1 then t.reply k stBadParam [] []
    else if t.inReset .fov then t.reply k stBusy [] []
    else if t.fov.kept.isSome && decide (k.par 0 2 ≠ t.watchSeg) then t.reply k stFault (toLe 1 0x81) []
    else if decide (k.par 2 1 = 1) && t.img.isNone then t.reply k stFault (toLe 1 0x80) []
    else ((t.wr R.fov_FOV_CFG (w32 (k.par 0 2 + k.par 2 1 * 2 ^ 16))).rearm).reply k stOk [] [])

/-- CKPT_NOW. -/
def execCkptNow (tag : Word) (s : State) : Host.Outcome State Fault Refusal :=
  .next (s.withCmd 0x0B04 tag fun k t => { t with fov := { t.fov with want := true } }.reply k stOk [] [])

/-- FOV registers that show the state. -/
def State.fovRead (s : State) (off : Nat) : Option Word :=
  let f := s.fov
  if off = 0x44 then some (w32 (f.st + f.partner.getD 0 * 16 + b2n f.partner.isSome * 128 + (if s.isStandby then f.block else 0) * 2 ^ 8))
  else if off = 0x48 then some (w32 (f.silA + f.silB * 2 ^ 8))
  else if off = 0x4C then some f.lastTick
  else if off = 0x50 then some (match s.img with | some h => leWord h hSf | none => 0)
  else if off = 0x54 then some (match s.img with | some h => leWord h hFull | none => 0)
  else if off = 0x58 then some (match s.img with | some h => leWord h hHwm | none => 0)
  else if off = 0x64 then some (match f.kept with | some k => w32 (k.1 + 2 ^ 31) | none => 0)
  else none

/-- FOV registers with a rule of their own. -/
def State.fovWrite (s : State) (m : Master) (off : Nat) (v : Word) : Option State :=
  if off = 0x40 then some (s.fovCfg m v)
  else if off = 0x5C ∨ off = 0x60 then (if s.en .lnk then some (s.err .fov eBusy off m) else none)
  else if off = 0x68 then some (if tst v 0 then { s with fov := { s.fov with want := true } } else s)
  else if off = 0x6C then some (s.fovRelease m v)
  else none

/-- R443: EN is cleared. -/
def State.fovDisable (s : State) : State :=
  let s := { s with fov := { s.fov with st := 0, block := 1, tx := none, asm := none } }
  (if s.fov.hbOut then { s with fov := { s.fov with hbOut := false } }.emit (.pin "HB_OUT" false) else s).setDrained .fov

/-- R443: an FOV reset: the current half is verified again within 50 ms of the release. -/
def State.fovReset (s : State) : State :=
  let s := if s.fov.hbOut then s.emit (.pin "HB_OUT" false) else s
  { s with fov := { fovOff with kept := s.fov.kept, release := s.fov.release, autoArm := s.fov.autoArm } }

/-- FOV leaves reset. -/
def State.fovStart (s : State) : State := { s with fov := { s.fov with verifyAt := s.ibg.edges + 13 } }

end Sys2Proof.Machine
end

