-- ==== Sys2Proof/Machine/RingMode.lean ====
section
/-! DEFINITION. Ring-wide mode changes in two phases: the coordinator, the participants, doubt, and the decisions a module keeps (R283, R284, R286, R441). -/

namespace Sys2Proof.Machine

open Sys2Proof

/-! ### What is kept (R283, R284) -/

/-- RING_STAT.STATE: 0 idle, 1 prepared, 2 committed, 3 aborted, 4 in doubt. -/
def State.ringSt (s : State) : Nat := s.rf R.lvl_RING_STAT 0 3

/-- A ring change is prepared here: its coordinator, identifier and C. -/
def State.ringPrepare (s : State) (coord id c : Nat) : State :=
  ((s.wr R.lvl_RING_STAT (w32 (1 + coord % 8 * 16))).wr R.lvl_RING_ID (w32 id)).wr R.lvl_RING_AT (w32 c)

/-- The decision that the module keeps for a change. -/
def State.knownOf (s : State) (id : Nat) : Option Bool := (s.rmc.known.find? fun k => decide (k.1 = id)).map fun k => k.2.1

/-- Keep a decision (R283). -/
def State.keepDecision (s : State) (id : Nat) (commit : Bool) : State :=
  if (s.knownOf id).isSome then s else { s with rmc := { s.rmc with known := (id, commit, s.tick) :: s.rmc.known } }

/-- Withdraw the announced ring change (R278 step 5); past its C it is dropped without a CANCEL wave. -/
def State.ringDrop (s : State) : State :=
  match s.lvl.ann with
  | none => s
  | some a =>
    if !a.ring then s
    else if a.c ≤ s.tick then { s with lvl := { s.lvl with ann := none, used := a.epoch :: s.lvl.used } }.unprepareMode a.mode
    else s.cancelAnn.1

/-- Tick 0 of the next superframe. -/
def State.nextZero (s : State) : Nat := (s.tick / 256 + 1) * 256

/-- R284: an in-doubt participant learns COMMIT: the change is due at its next superframe boundary. -/
def State.ringLate (s : State) (a : Announce) (id : Nat) : State :=
  let k := s.nextZero
  let s := { s with lvl := { s.lvl with ann := some { a with at' := k } } }
  s.fwEvent 0xF502 (blkSrc .lvl) (toLe 4 id ++ toLe 1 s.spos ++ toLe 4 (k % 2 ^ 32))

/-- The announced ring change: of the coordinator or of a participant. -/
def State.ringAnn (s : State) : Option Announce :=
  match s.lvl.ann, s.rmc.part with
  | some a, _ => if a.ring then some a else none
  | none, some p => some p.ann
  | none, none => none

/-- R284: the module learns the decision of its change; `who` is the refusing position. -/
def State.ringLearn (s : State) (id : Nat) (commit : Bool) (who : Nat) : State :=
  let s := s.keepDecision id commit
  let mine := (match s.rmc.coord with | some c => decide (c.id = id) | none => false) || (match s.rmc.part with | some p => decide (p.id = id) | none => false)
  let st := s.ringSt
  if !mine || (decide (st ≠ 1) && decide (st ≠ 4)) then s
  else
    let s := ((s.wf R.lvl_RING_STAT 0 3 (if commit then 2 else 3)).irq .lvl 5).fwEvent 0xF501 (blkSrc .lvl) (toLe 4 id ++ toLe 1 (if commit then 1 else 2) ++ toLe 1 who)
    if !commit then s.ringDrop
    else if st = 4 then (match s.ringAnn with | some a => s.ringLate a id | none => s)
    else s

/-- R283: the decision forgets itself after 64 superframes. -/
def execRingDecisionExpiry (s : State) : Host.Outcome State Fault Refusal :=
  .next { s with rmc := { s.rmc with known := s.rmc.known.filter fun k => decide (s.tick < k.2.2 + 64 * 256) } }

/-! ### The coordinator (R283) -/

/-- The 12 bytes of a mode in MODE_SET and PREPARE (R286). -/
def modeBytes (m : SegMode) : Bytes :=
  toLe 1 m.op ++ toLe 1 m.fixed ++ toLe 1 m.mfade ++ toLe 1 m.gen ++ toLe 1 (b2n m.genCh) ++ toLe 1 (b2n m.hop.isSome) ++ zeros 6

/-- The PREPARE payload (R441). -/
def prepPay (id : Nat) (m : SegMode) (c d : Nat) : Bytes :=
  let l := m.hop.getD []
  toLe 4 id ++ modeBytes m ++ toLe 4 (c % 2 ^ 32) ++ toLe 4 (d % 2 ^ 32) ++ toLe 1 l.length ++ l.flatMap fun v => toLe 2 v

/-- R283: the other modules that are heads at this moment. -/
def State.otherHeads (s : State) : List Nat :=
  (List.range 8).filter fun p => decide (some p ≠ s.ringPos) && (match s.ibg.hb.getD p none with
    | some h => decide (s.ibg.edges ≤ h.at' + 8) && decide (byteAt h.pay 0 % 8 = 1)
    | none => false)

/-- A ring change is under way here. -/
def State.ringBusy (s : State) : Bool :=
  s.ringSt = 1 || s.ringSt = 4 || (match s.rmc.coord with | some k => decide (s.tick < k.c) && !(k.parts.all fun p => k.conf.contains p) | none => false)

/-- R283 step 1: announce the change here and send PREPARE. -/
def State.ringBegin (s : State) (m : SegMode) (c : Nat) (tag : Word) : State × Option Nat :=
  let id := (Config.freeWord s.free).toNat
  match (s.draw 1).announce m c none true with
  | (t, some e) => (t, some e)
  | (t, none) =>
    let t := t.ringPrepare t.spos id c
    let t := { t with rmc := { t.rmc with coord := some ⟨id, c, c - 512, some tag, t.otherHeads, [], [], [], none⟩, part := none } }
    (t.ringSend 0x20 15 (prepPay id m c (c - 512)), none)

/-- RING_MODE: request a mode change of the whole ring; the reply comes with the decision. -/
def execRingMode (tag : Word) (s : State) : Host.Outcome State Fault Refusal :=
  .next (s.withCmd 0x0503 tag fun c t =>
    if byteAt c.e.param 5 = 1 ∧ c.e.length ≠ 128 then t.reply c stBadLength [] []
    else if !modeParamOk c.e.param then t.reply c stBadParam [] []
    else if !t.isHead || !t.takes .lvl then t.reply c stBusy [] []
    else if !t.holds then (t.noTime .lvl c.e.apply).reply c stNoTime [] []
    else if t.ringBusy then t.reply c stFault (toLe 1 0x81) []
    else
      match t.ringBegin (modeParam c.e.param c.bytes) (t.firstC 10) tag with
      | (u, none) => u.defer c
      | (u, some e) => if e = 0x80 then u.reply c stFault (toLe 1 0x80) [] else u.reply c stBadParam [] [])

/-- The coordinator's record, changed. -/
def State.onCoord (s : State) (id : Nat) (f : RingCoord → RingCoord) : State :=
  match s.rmc.coord with
  | some k => if k.id = id then { s with rmc := { s.rmc with coord := some (f k) } } else s
  | none => s

/-- A position noted once. -/
def addOnce (l : List Nat) (p : Nat) : List Nat := if l.contains p then l else l ++ [p]

/-- READY: the coordinator records it. -/
def execReady (s : State) : Host.Outcome State Fault Refusal :=
  .next (s.onRing 0x21 fun x t => t.onCoord (le x.pay 0 4) fun k => if k.decided = none then { k with ready := addOnce k.ready x.spos } else k)

/-- REFUSE: the coordinator records it. -/
def execRefuse (s : State) : Host.Outcome State Fault Refusal :=
  .next (s.onRing 0x22 fun x t => t.onCoord (le x.pay 0 4) fun k => if k.decided = none then { k with refused := addOnce k.refused x.spos } else k)

/-- Send COMMIT or ABORT, in both ring directions (R283, R441). -/
def State.sendDecision (s : State) (k : RingCoord) (commit : Bool) : State :=
  s.ringSend (if commit then 0x23 else 0x24) 15 (toLe 4 k.id ++ toLe 1 (k.refused.headD 0xFF))

/-- Every participant answered READY. -/
def RingCoord.allReady (k : RingCoord) : Bool := k.parts.all fun p => k.ready.contains p

/-- Every participant has answered. -/
def RingCoord.answered (k : RingCoord) : Bool := k.parts.all fun p => k.ready.contains p || k.refused.contains p

/-- R283 step 3: the decision is taken, sent, and answered to the host. -/
def State.ringDecide (s : State) (k : RingCoord) : State :=
  let commit := k.allReady
  let who := k.refused.headD 0xFF
  let s := { s with rmc := { s.rmc with coord := some { k with decided := some commit } } }
  let s := (s.ringLearn k.id commit who).sendDecision k commit
  match k.tag with
  | none => s
  | some g => match s.mbx.taken.find? fun (c : Cmd) => c.e.tag = g with
    | some c => if commit then s.reply c stOk (toLe 4 (k.c % 2 ^ 32)) [] else s.reply c stFault (toLe 1 who) []
    | none => s

/-- RING_DECIDE: at D, or when all have answered. -/
def execRingDecide (s : State) : Host.Outcome State Fault Refusal :=
  .next (match s.rmc.coord with
    | none => s
    | some k => if k.decided.isNone && (k.answered || decide (k.d ≤ s.tick)) then s.ringDecide k else s)

/-- RING_DECISION_REPEAT: the decision again, until each participant confirms it or C arrives. -/
def execRingDecisionRepeat (s : State) : Host.Outcome State Fault Refusal :=
  .next (match s.rmc.coord with
    | none => s
    | some k => match k.decided with
      | none => s
      | some d => if k.c ≤ s.tick || (k.parts.all fun p => k.conf.contains p) then { s with rmc := { s.rmc with coord := none } } else s.sendDecision k d)

/-! ### The participant (R283, R284) -/

/-- The mode of a PREPARE payload. -/
def prepMode (p : Bytes) : SegMode :=
  { modeParam (slice p 4 12) [] with hop := if byteAt p 9 = 1 then some ((List.range (byteAt p 24)).map fun i => le p (25 + 2 * i) 2) else none }

/-- R441: why a participant refuses: 1 a change is announced, 2 no time (counted in the Ledger, R23), 3 invalid content. -/
def State.ringStage (s : State) (x : RingRx) : State × Option Nat :=
  let p := x.pay
  let m := prepMode p
  if s.lvl.ann.isSome || s.ringBusy then (s, some 1)
  else if !s.timeFor (leWord p 16) then (s.noTime .lvl (leWord p 16), some 2)
  else if !modeParamOk (slice p 4 12) || decide (64 < byteAt p 24) || decide (p.length < 25 + 2 * byteAt p 24) then (s, some 3)
  else
    let c := s.fullTick (leWord p 16)
    match s.announce m c none true with
    | (t, some _) => (t, some 3)
    | (t, none) =>
      let t := t.ringPrepare x.spos (le p 0 4) c
      ({ t with rmc := { t.rmc with part := t.lvl.ann.map fun a => ⟨le p 0 4, x.spos, c, a⟩ } }, none)

/-- PREPARE: a head stages the change and answers the coordinator. -/
def execPrepare (s : State) : Host.Outcome State Fault Refusal :=
  .next (s.onRing 0x20 fun x t =>
    if !t.isHead || t.inReset .lvl then t
    else if (match t.rmc.part with | some q => decide (q.id = le x.pay 0 4) && decide (t.ringSt = 1) | none => false) then t.ringSend 0x21 x.spos (x.pay.take 4)
    else match t.ringStage x with
      | (u, none) => u.ringSend 0x21 x.spos (x.pay.take 4)
      | (u, some e) => u.ringSend 0x22 x.spos (x.pay.take 4 ++ toLe 1 e))

/-- CONFIRM of a decision (R441). -/
def State.ringConfirm (s : State) (id : Nat) (d : Nat) : State := s.ringSend 0x26 15 (toLe 4 id ++ toLe 1 d)

/-- A decision frame of the coordinator: it is learned, and a participant confirms it. -/
def State.takeDecision (s : State) (x : RingRx) (commit : Bool) : State :=
  let id := le x.pay 0 4
  let s := s.ringLearn id commit (byteAt x.pay 4)
  match s.rmc.part with
  | some p => if p.id = id then s.ringConfirm id (if commit then 1 else 2) else s
  | none => s

/-- RING_COMMIT. -/
def execRingCommit (s : State) : Host.Outcome State Fault Refusal := .next (s.onRing 0x23 fun x t => t.takeDecision x true)

/-- RING_ABORT. -/
def execRingAbort (s : State) : Host.Outcome State Fault Refusal := .next (s.onRing 0x24 fun x t => t.takeDecision x false)

/-- RING_QUERY: a module that keeps the decision answers. -/
def execRingQuery (s : State) : Host.Outcome State Fault Refusal :=
  .next (s.onRing 0x25 fun x t => match t.knownOf (le x.pay 0 4) with
    | some d => t.ringConfirm (le x.pay 0 4) (if d then 1 else 2)
    | none => t)

/-- RING_CONFIRM: it tells the coordinator that a participant knows the decision, and others the decision. -/
def execRingConfirm (s : State) : Host.Outcome State Fault Refusal :=
  .next (s.onRing 0x26 fun x t =>
    let id := le x.pay 0 4
    let d := byteAt x.pay 4
    if d = 0 ∨ 2 < d then t
    else (t.onCoord id fun k => if k.decided.isSome then { k with conf := addOnce k.conf x.spos } else k).ringLearn id (decide (d = 1)) 0xFF)

/-- The identifier and C of the module's own ring change. -/
def State.ringOwn (s : State) : Option (Nat × Nat) :=
  match s.rmc.part, s.rmc.coord with
  | some p, _ => some (p.id, p.c)
  | none, some k => some (k.id, k.c)
  | none, none => none

/-- RING_DOUBT_QUERY: an in-doubt module asks the ring. -/
def execRingDoubtQuery (s : State) : Host.Outcome State Fault Refusal :=
  .next (match s.ringOwn with
    | some o => if s.ringSt = 4 then s.ringSend 0x25 15 (toLe 4 o.1) else s
    | none => s)

/-- RING_DOUBT_EXPIRY: nothing learned within 64 superframes of C. -/
def execRingDoubtExpiry (s : State) : Host.Outcome State Fault Refusal :=
  .next (match s.ringOwn with
    | some o => if s.ringSt = 4 ∧ o.2 + 64 * 256 ≤ s.tick then { (s.wf R.lvl_RING_STAT 0 3 3).ringDrop with rmc := { s.rmc with part := none } } else s
    | none => s)

/-- R285: after an LVL reset the module is in doubt about its ring change. -/
def State.ringAfterReset (s : State) (st : Nat) : State :=
  match s.ringOwn with
  | some _ => if st = 1 ∨ st = 4 then s.wf R.lvl_RING_STAT 0 3 4 else s
  | none => s

end Sys2Proof.Machine
end

