-- ==== Sys2Proof/Machine/Power.lean ====
section
/-! DEFINITION. Power failure warning, temperature warning, contactors, status inputs and the photocell (R37, R359, R471-R482). -/

namespace Sys2Proof.Machine

open Sys2Proof

/-! ### Contactor outputs (R37, R359, R474, R475) -/

/-- HOLD bit i. -/
def State.hold (s : State) (i : Nat) : Bool := s.rb R.fsw_CONT_HOLD i

/-- CONT_HOLD.FW_OWN: firmware controls the contactors. -/
def State.fwOwn (s : State) : Bool := s.rb R.fsw_CONT_HOLD 8

/-- CONT_HOLD.COIL_DROP: the drivers were unpowered since the sequencer's last 40 ms write. -/
def State.coilDrop (s : State) : Bool := s.rb R.fsw_CONT_HOLD 9

/-- R51: from power-up to 40 ms the outputs of drivers that were unpowered stay de-energised. -/
def State.coilGap (s : State) : Bool :=
  s.coilDrop && s.boot.seqCold && (decide (s.boot.stage = .off) || decide (s.boot.stage = .reset) || decide (s.boot.stage = .checked))

/-- R474: what output i is to be: its HOLD bit, off without COIL_SUP and after its fault. -/
def State.contTarget (s : State) (i : Nat) : Bool := s.hold i && s.fsw.coilOk && !s.fsw.fault.getD i false && !s.coilGap

/-- Drive output i. -/
def State.setCont (s : State) (i : Nat) (v : Bool) : State :=
  if s.fsw.on.getD i false = v then s
  else { s with fsw := { s.fsw with on := setAt s.fsw.on i v } }.emit (.pin ("CONT" ++ toString i) v)

/-- The outputs that differ from what they are to be. -/
def State.contTodo (s : State) : List Nat := (List.range 6).filter fun i => decide (s.fsw.on.getD i false ≠ s.contTarget i)

/-- R475, R482: the sequence has ended: an FSW that drains hands the contactors back. -/
def State.contIdle (s : State) : State :=
  let s := { s with fsw := { s.fsw with seq := none } }
  if !s.inReset .fsw && !s.en .fsw && !s.drained .fsw then (s.wb R.fsw_CONT_HOLD 8 false).setDrained .fsw else s

/-- R475: switch the next output in ascending order from the one the sequence has reached; outputs below it wait for the next pass. -/
def State.contStep (s : State) (reached : Nat) : State :=
  match s.contTodo.filter (fun i => decide (reached ≤ i)), s.contTodo with
  | i :: _, _ | [], i :: _ =>
    let s := s.setCont i (s.contTarget i)
    if s.contTodo.isEmpty then s.contIdle else { s with fsw := { s.fsw with seq := some (i + 1) } }
  | [], [] => s.contIdle

/-- R475: outputs that are to change do so: the first at once, unless a sequence runs. In the error state they hold (R390). -/
def State.contFollow (s : State) : State := if s.fsw.seq.isSome || s.cryError then s else s.contStep 0

/-- CONT_SEQUENCE_STEP: 10 ms after the last change. -/
def execContSequenceStep (s : State) : Host.Outcome State Fault Refusal :=
  .next (match s.fsw.seq with
    | some p => if (s.drainBit .fsw && s.en .fsw) || s.cryError then s else s.contStep p
    | none => s)

/-- R359: a write of CONT_HOLD: FW_OWN = 1 claims the contactors and sets HOLD; FW_OWN = 0 hands them back. Before the 40 ms point (R51, R52) and in a standby, whose contactors follow the fail-lit latch (R16), a claim is refused with BUSY (DESIGN CHOICE, log 42: the spec names no code). -/
def State.contHold (s : State) (m : Master) (v : Word) : State :=
  if tst v 8 && (!s.configured || s.isStandby) then s.err .fsw eBusy 0x40 m
  else if tst v 8 then (s.wr R.fsw_CONT_HOLD (w32 (fld v 0 6 + 2 ^ 8 + b2n s.coilDrop * 2 ^ 9))).contFollow
  else s.wb R.fsw_CONT_HOLD 8 false

/-- CONT_HOLD_WRITE. -/
def execContHoldWrite (m : Master) (v : Word) (s : State) : Host.Outcome State Fault Refusal :=
  .next (s.writeAt .fsw 0x40 m v fun t => (t.contHold m v).answer .done)

/-- An interrupt of FSW, once its page is out of reset. -/
def State.fswIrq (s : State) (i : Nat) : State := if s.inReset .fsw then s else s.irq .fsw i

/-- CONT_FAULT: an output at its current limit for 10 ms, or overheated, switches off. -/
def execContFault (output : Fin 6) (s : State) : Host.Outcome State Fault Refusal :=
  .next (({ s with fsw := { s.fsw with fault := setAt s.fsw.fault output.val true } }.setCont output.val false).fswIrq 2)

/-- FSW_CTRL.CLR_FAULT: faulted outputs follow HOLD again. -/
def State.contClr (s : State) : State := { s with fsw := { s.fsw with fault := List.replicate 6 false } }.contFollow

/-- CONT_CLR_FAULT: a write of CLR_FAULT. -/
def execContClrFault (m : Master) (s : State) : Host.Outcome State Fault Refusal :=
  .next (s.writeAt .fsw 0x48 m 1 fun t => t.contClr.answer .done)

/-- R474: COIL_SUP falls below 16 V: every output is off, COIL_OK clears and COIL_DROP is set. -/
def State.coilDown (s : State) : State :=
  let t := { s with fsw := { s.fsw with coilOk := false } }
  let t := (List.range 6).foldl (fun (u : State) i => u.setCont i false) t
  ((t.wb R.fsw_CONT_HOLD 9 true).contIdle).fswIrq 3

/-- R474: COIL_SUP is at a level: below 16 V it is lost, from there on the outputs follow HOLD. -/
def State.coilAt (s : State) (mv : Nat) : State :=
  let s := { s with fsw := { s.fsw with coilMv := mv } }
  if mv < 16000 then (if s.fsw.coilOk then s.coilDown else s)
  else if s.fsw.coilOk then s
  else { s with fsw := { s.fsw with coilOk := true } }.contFollow

/-- COIL_LOST: COIL_SUP falls to a level. -/
def execCoilLost (coilMv : Nat) (s : State) : Host.Outcome State Fault Refusal := .next (s.coilAt coilMv)

/-- COIL_RETURN: COIL_SUP rises to a level. -/
def execCoilReturn (coilMv : Nat) (s : State) : Host.Outcome State Fault Refusal := .next (s.coilAt coilMv)

/-! ### The sequencer (R35, R37, R39) -/

/-- R37: the table: LIT and always-on, or LIT, photocell and dark. -/
def State.lit (s : State) (dark : Bool) : Bool := s.rb R.pwt_FAILLIT 0 && (s.strapMode = 2 || (s.strapMode = 1 && dark))

/-- R37: the sequencer writes all six HOLD bits, where no firmware controls the contactors. -/
def State.seqWrite (s : State) (lit : Bool) : State :=
  if s.fwOwn || s.cryError then s else (s.wf R.fsw_CONT_HOLD 0 6 (if lit then 63 else 0)).contFollow

/-- PHOTO_STEADY: a PHOTO change has held for 60 s; one that is steady before the 40 ms point of a start is written there (R37, R51). The error state changes no output (R390). -/
def execPhotoSteady (s : State) : Host.Outcome State Fault Refusal :=
  .next (if !s.fsw.wait then s
    else
      let t := { s with fsw := { s.fsw with wait := false, steadyDark := s.fsw.dark } }
      match t.boot.stage with
      | .off => t
      | .reset | .checked => { t with fsw := { t.fsw with due := true } }
      | _ => if t.cryError then t else ((t.seqWrite (t.lit t.fsw.dark)).drvDefaults (t.lit t.fsw.dark)).noSchedule)

/-- R476: the comparator: what PHOTO reads at a voltage in 0.1 V, after what it read. -/
def State.photoReads (s : State) (v : Nat) : Bool :=
  let th := s.rf R.fsw_PHOTO_CFG 0 10
  let low := th - s.rf R.fsw_PHOTO_CFG 10 6
  if s.rb R.fsw_PHOTO_CFG 16 then (if s.fsw.dark then decide (v ≤ th) else decide (v < low))
  else if s.fsw.dark then decide (low ≤ v) else decide (th < v)

/-- R476: judge PHOTO at a voltage. -/
def State.photoAt (s : State) (v : Nat) : State :=
  let d := s.photoReads v
  let s := { s with fsw := { s.fsw with photo := v } }
  if d = s.fsw.dark then s else { s with fsw := { s.fsw with dark := d, wait := true } }.fswIrq 1

/-- PHOTO_CHANGE: the photocell voltage moves. -/
def execPhotoChange (decivolts : Nat) (s : State) : Host.Outcome State Fault Refusal := .next (s.photoAt decivolts)

/-- STAT_CHANGE: a status input has held its new state for STAT_DEB. -/
def execStatChange (input : Fin 8) (on : Bool) (s : State) : Host.Outcome State Fault Refusal :=
  .next (if s.inReset .fsw || decide (s.fsw.stat.getD input.val false = on) then s
    else { s with fsw := { s.fsw with stat := setAt s.fsw.stat input.val on } }.irq .fsw 0)

/-! ### Schedule floors while the host is absent (R81) -/

/-- The schedule tables stored in the eMMC user area (R138). -/
def State.scheduleTables (s : State) : List (Nat × Byte) := s.emc.user.filter fun p => decide (257 * 2 ^ 20 ≤ p.1) && decide (p.1 < 769 * 2 ^ 20)

/-- R81: the floor of a group: what the stored tables give, and after their range what the strap's default mode decides. -/
def State.tableFloor (s : State) (g : Nat) : Nat :=
  if Config.tableRuns s.scheduleTables (s.tick / 250) then (Config.tableFloor s.scheduleTables (s.tick / 250) g).val
  else if s.strapMode = 2 ∨ (s.strapMode = 1 ∧ s.fsw.steadyDark = true) then Config.litFloor.val else 0

/-- R81: at a superframe's first edge a head whose host is absent commits the floors of its stored tables, where they differ, for the next tick. -/
def State.tableEdge (s : State) : State :=
  if s.host.present || !s.isHead || !s.takes .cor || !s.holds || s.repeated || s.scheduleTables.isEmpty then s
  else
    let w (m : Nat) : Word := w32 (s.tableFloor (2 * m) + s.tableFloor (2 * m + 1) * 2 ^ 16)
    if (List.range 32).all fun m => decide (s.rd (R.cor_FLOORm m) = w m) then s
    else
      let t := ((List.range 32).foldl (fun (t : State) m => t.wr (R.cor_FLOORm m) (w m)) s).wr R.cor_POLICY_AT (w32 (s.tick + 1))
      { t.wb R.cor_COR_STAT 5 true with cor := { t.cor with polAt := some (s.tick + 1, t.stagedPolicy) } }

/-! ### FSW registers, drain and reset -/

/-- Six booleans as bits. -/
def bitsOf (l : List Bool) : Nat := (List.range l.length).foldl (fun a i => a + b2n (l.getD i false) * 2 ^ i) 0

/-- FSW registers that show its state. -/
def State.fswRead (s : State) (off : Nat) : Option Word :=
  let f := s.fsw
  if off = 0x44 then some (w32 (bitsOf f.on + bitsOf f.fault * 2 ^ 8 + b2n f.coilOk * 2 ^ 16 + b2n f.seq.isSome * 2 ^ 17))
  else if off = 0x4C then some (w32 (bitsOf f.stat))
  else if off = 0x58 then some (w32 (b2n f.dark + f.photo % 1024 * 2 ^ 16))
  else if off = 0x5C then some (w32 (f.coilMv % 65536))
  else none

/-- FSW registers with a rule of their own (R359, R476, R482). -/
def State.fswWrite (s : State) (m : Master) (off : Nat) (v : Word) : Option State :=
  if off = 0x40 then some (s.contHold m v)
  else if off = 0x48 then some (if tst v 0 then s.contClr else s)
  else if off = 0x50 then (if fld v 0 8 = 0 then some (s.err .fsw eBadValue off m) else none)
  else if off = 0x54 then
    some (if 360 < fld v 0 10 ∨ fld v 10 6 = 0 ∨ fld v 0 10 < fld v 10 6 then s.err .fsw eBadValue off m
      else let t := s.wr R.fsw_PHOTO_CFG (v &&& 0x1FFFF); t.photoAt t.fsw.photo)
  else none

/-- R482: EN is cleared. -/
def State.fswDisable (s : State) : State :=
  if s.fsw.seq.isSome then s else (s.wb R.fsw_CONT_HOLD 8 false).setDrained .fsw

/-! ### Supply and temperature (R471, R480) -/

/-- R471: a level lies below a threshold in mV that holds within 300 mV: certainly, certainly not, or as a free bit says. -/
def State.underMv (s : State) (th mv : Nat) : Bool := decide (mv + 300 < th) || (decide (mv < th + 300) && Config.freeBit s.free)

/-- R471: the PFAIL threshold in mV. -/
def State.pfailTh (s : State) : Nat := s.rf R.pwr_PFAIL_CFG 0 9 * 100

/-- R471: PFAIL asserts: PFAIL_N goes low, Scales saves its tail and LDG its FIFO and series (R335, R403, R410). -/
def State.pfailOn (s : State) : State :=
  let t := (((s.wb R.pwr_PWR_STAT 0 true).bumpSat R.pwr_PFAIL_CNT 1).emit (.pin "PFAIL_N" false)).irq .pwr 0
  let t := t.sclTail
  if t.inReset .ldg then t else t.ldgSave.saveSeries

/-- PFAIL: VIN falls to a level; below PFAIL_TH, PFAIL asserts. -/
def execPfail (vinMv : Nat) (s : State) : Host.Outcome State Fault Refusal :=
  .next (
    let t := (s.wr R.pwr_VIN_MEAS (w32 (vinMv % 65536))).draw 1
    if t.rb R.pwr_PWR_STAT 0 || decide (t.boot.stage = .off) || !s.underMv s.pfailTh vinMv then t else t.pfailOn)

/-- PFAIL_END: VIN has been at a level for 1 ms; above PFAIL_TH + 1.0 V, PFAIL ends. -/
def execPfailEnd (vinMv : Nat) (s : State) : Host.Outcome State Fault Refusal :=
  .next (
    let t := (s.wr R.pwr_VIN_MEAS (w32 (vinMv % 65536))).draw 1
    if t.rb R.pwr_PWR_STAT 0 && !s.underMv (s.pfailTh + 1001) vinMv then
      ((t.wb R.pwr_PWR_STAT 0 false).emit (.pin "PFAIL_N" true)).irq .pwr 1
    else t)

/-- TEMPs holds °C + 40. -/
def State.setTemp (s : State) (sensor : Nat) (t : Int) : State :=
  if sensor < 4 then s.wr (R.pwr_TEMPs sensor) (w32 (clampI 0 255 (t / 10 + 40)).toNat) else s

/-- The warning level of a sensor in 0.1 °C (R480). -/
def warnLevel (sensor : Nat) : Int := [1100, 1050, 1200, 850].getD sensor 10000

/-- R480: a sensor reads a temperature; from its warning level on it raises TEMP_WARN. -/
def State.tempAt (s : State) (sensor : Nat) (t : Int) : State :=
  let u := s.setTemp sensor t
  if warnLevel sensor ≤ t then u.irq .pwr 3 else u

/-- TEMP_WARNING: a sensor reaches a temperature. -/
def execTempWarning (sensor : Nat) (tempDeciC : Int) (s : State) : Host.Outcome State Fault Refusal := .next (s.tempAt sensor tempDeciC)

/-- PWR registers that show its state. -/
def State.pwrRead (s : State) (off : Nat) : Option Word :=
  if off = 0x40 then some (w32 (s.rf R.pwr_PWR_STAT 0 1 + b2n (decide (s.boot.stage ≠ .off)) * 2)) else none

/-- PFAIL_CFG.TH takes 190 to 300 (R471). -/
def State.pwrWrite (s : State) (m : Master) (off : Nat) (v : Word) : Option State :=
  if off = 0x48 then (if fld v 0 9 < 190 ∨ 300 < fld v 0 9 then some (s.err .pwr eBadValue off m) else none) else none

end Sys2Proof.Machine
end

