-- ==== Sys2Proof/Machine/Update.lean ====
section
/-! DEFINITION. Boot images and their check, the delta, and the update commands (R445-R459, R462); INFO (R77). -/

namespace Sys2Proof.Machine

open Sys2Proof

/-! ### The boot image (R445, R446) -/

/-- Bytes of an image by position. -/
abbrev Img : Type := Nat → Nat → Bytes

/-- IMG_LEN. -/
def imgLenOf (m : Img) : Nat := leFirst 4 (m 12 4)

/-- R446: the first check that an image fails, 0 where it passes; `floor` is the stored floor, `err` an eMMC read error. -/
def imgResult (m : Img) (floor : Nat) (err : Bool) : Nat :=
  let len := imgLenOf m
  let ver := leFirst 4 (m 4 4)
  if leFirst 4 (m 0 4) ≠ 0x4D494D41 ∨ len < 4096 ∨ 32 * 2 ^ 20 < len ∨ len % 4096 ≠ 0 then 1
  else if !ecdsaVerify Config.rootPub (sha256 (m 32 64)) (m 96 64) then 2
  else if !ecdsaVerify (m 32 64) (sha256 (m 0 448 ++ m 512 (len - 512))) (m 448 64) then 3
  else if ver < floor then 4
  else if ver < leFirst 4 (m 8 4) then 5
  else if err then 6
  else 0

/-- The image in the boot slot. -/
def State.slotImg (s : State) : Img := s.bootRead

/-- An image given as bytes. -/
def bytesImg (b : Bytes) : Img := fun a n => slice b a n

/-- The floor stored in RPMB; that of the delivered image until an image raises it. -/
def State.floorVer (s : State) : Nat :=
  match s.upd.floor with | some f => f.toNat | none => leFirst 4 ((List.range 4).map fun i => Config.shippedByte (8 + i))

/-- The stored format version of a settings group. -/
def State.groupVer (s : State) (g : Nat) : Nat := (s.upd.sets.getD g none).getD (Config.shippedByte (16 + g)).toNat

/-! ### The delta (R447, R448) -/

/-- A field of the delta header held: DELTA_LEN, TARGET_LEN, TARGET_VER, the hashes. -/
def State.dField (s : State) (i : Nat) : Nat := le s.upd.hdr i 4

/-- DELTA_LEN. -/
def State.dLen (s : State) : Nat := s.dField 12

/-- TARGET_LEN. -/
def State.tLen (s : State) : Nat := s.dField 16

/-- TARGET_SHA. -/
def State.tSha (s : State) : Bytes := slice s.upd.hdr 56 32

/-- R448: the operations from delta offset pos, after some output; an error gives its cause and the offset of the operation. -/
def deltaRun (old : Img) (oldLen tlen : Nat) : Nat → Bytes → Nat → Bytes → Except (Nat × Nat) Bytes
  | 0, _, pos, _ => .error (3, pos)
  | n + 1, d, pos, out =>
    match d with
    | [] => .error (3, pos)
    | k :: r =>
      if k = 0 then (if r.isEmpty ∧ out.length = tlen then .ok out else .error (3, pos))
      else if k = 1 then
        let src := le r 0 4
        let len := le r 4 4
        if r.length < 8 then .error (3, pos)
        else if oldLen < src + len then .error (1, pos)
        else if tlen < out.length + len then .error (2, pos)
        else deltaRun old oldLen tlen n (r.drop 8) (pos + 9) (out ++ old src len)
      else if k = 2 then
        let len := le r 0 4
        if r.length < 4 then .error (3, pos)
        else if tlen < out.length + len then .error (2, pos)
        else if r.length < 4 + len then .error (3, pos)
        else deltaRun old oldLen tlen n (r.drop (4 + len)) (pos + 5 + len) (out ++ (r.drop 4).take len)
      else if k = 3 then
        let len := le r 0 4
        if r.length < 5 then .error (3, pos)
        else if tlen < out.length + len then .error (2, pos)
        else deltaRun old oldLen tlen n (r.drop 5) (pos + 6) (out ++ List.replicate len (r.getD 4 0))
      else .error (4, pos)

/-! ### Staging (R449, R138) -/

/-- The staging area in the user area, its delta and its rebuilt image; the settings archive. -/
abbrev stagDelta : Nat := 2 * 2 ^ 20
/-- The rebuilt image. -/
abbrev stagImage : Nat := 66 * 2 ^ 20
/-- The settings archive. -/
abbrev setArchive : Nat := 833 * 2 ^ 20

/-- The units of a delta. -/
def deltaUnits (len : Nat) : Nat := cdiv len 4096

/-- Units missing. -/
def State.unitsMissing (s : State) : Nat :=
  if s.upd.hdr.isEmpty then 0 else ((List.range (deltaUnits s.dLen)).filter fun u => !s.upd.got.getLsbD u).length

/-- The number of UPD_STAT.STATE. -/
def UpdSt.num : UpdSt → Nat
  | .idle => 0 | .receiving => 1 | .received => 2 | .applying => 3 | .applied => 4 | .copying => 5 | .committed => 6

/-- Set the state. -/
def State.setUpd (s : State) (x : UpdSt) : State := { s with upd := { s.upd with st := x } }

/-! ### Commands (R450-R455, R462) -/

/-- A state-changing command: refused while UPD does not take work, without its authenticator (R453), or in a state that does not allow it (R450). -/
def State.updCmd (s : State) (opc : Nat) (tag : Word) (ok : Cmd → State → Bool) (f : Cmd → State → State) : State :=
  s.withCmd opc tag fun c t =>
    t.withCo c fun u =>
      if !u.takes .upd then u.reply c stBusy [] []
      else if ok c u then f c u
      else (u.err .upd 0x80 0 .svc).reply c stBusy [] []

/-- R451: the header is refused. -/
def State.hdrBad (s : State) (h : Bytes) : Bool :=
  decide (le h 0 4 ≠ 0x444C4544) || decide (le h 4 2 ≠ 1) || decide (le h 124 4 ≠ crcOf crc32c (h.take 124)) || decide (le h 8 4 = 0) ||
  decide (64 * 2 ^ 20 < le h 12 4) || decide (le h 16 4 < 4096) || decide (32 * 2 ^ 20 < le h 16 4) || decide (le h 16 4 % 4096 ≠ 0) ||
  decide (slice h 24 32 ≠ s.vlt.meas.getD 0 []) || decide (le h 20 4 < s.floorVer)

/-- STATE and the units missing, as results. -/
def State.updParam (s : State) : Bytes := toLe 4 s.upd.st.num ++ toLe 4 s.unitsMissing

/-- The states in which a BEGIN with the same header resumes. -/
def State.resumes (s : State) (h : Bytes) : Bool :=
  (match s.upd.st with | .receiving | .received | .applied => true | _ => false) && decide (s.upd.hdr = h)

/-- UPD_BEGIN: start or resume an update. -/
def execUpdBegin (tag : Word) (s : State) : Host.Outcome State Fault Refusal :=
  .next (s.updCmd 0x0C00 tag (fun c t => decide (t.upd.st = .idle) || t.resumes c.bytes) fun c t =>
    if c.e.length ≠ 128 then t.reply c stBadLength [] []
    else if t.resumes c.bytes then t.reply c stOk t.updParam []
    else if t.hdrBad c.bytes then t.reply c stBadParam [] []
    else
      let u := { t with upd := { t.upd with st := .receiving, hdr := c.bytes, got := 0 } }
      u.reply c stOk u.updParam [])

/-- Mark the units from one on. -/
def markUnits (got : BitVec 16384) (u : Nat) : Nat → BitVec 16384
  | 0 => got
  | n + 1 => markUnits (got ||| BitVec.ofNat 16384 (2 ^ u)) (u + 1) n

/-- Store a block: the delta bytes and the bitmap; the last missing unit makes the delta RECEIVED. -/
def State.storeBlock (s : State) (off : Nat) (d : Bytes) : State :=
  let s := { s with
    emc := { s.emc with user := memWrite s.emc.user (stagDelta + off) d }
    upd := { s.upd with got := markUnits s.upd.got (off / 4096) (cdiv d.length 4096) } }
  if s.unitsMissing = 0 ∧ s.upd.st = .receiving then (s.setUpd .received).irq .upd 0 else s

/-- UPD_BLOCK: a block of the delta. In APPLIED it is refused and the state returns to RECEIVED. -/
def execUpdBlock (tag : Word) (s : State) : Host.Outcome State Fault Refusal :=
  .next (s.updCmd 0x0C01 tag (fun _ t => match t.upd.st with | .receiving | .received | .applied => true | _ => false) fun c t =>
    let off := c.par 4 4
    let d := c.bytes
    if t.upd.st = .applied then ((t.setUpd .received).err .upd 0x80 0 .svc).reply c stBusy [] []
    else if c.e.length = 0 ∨ 65536 < c.e.length ∨ (c.e.length % 4096 ≠ 0 ∧ off + c.e.length ≠ t.dLen) then t.reply c stBadLength [] []
    else if off % 4096 ≠ 0 ∨ c.par 0 4 ≠ t.dField 8 ∨ t.dLen < off + c.e.length then t.reply c stBadParam [] []
    else if crcOf crc32c d ≠ c.par 8 4 then t.reply c stFault [] []
    else (t.storeBlock off d).reply c stOk [] [])

/-- UPD_STATUS: the bitmap, and the state. -/
def execUpdStatus (tag : Word) (s : State) : Host.Outcome State Fault Refusal :=
  .next (s.withCmd 0x0C02 tag fun c t =>
    t.reply c stOk (toLe 4 t.upd.st.num ++ toLe 4 (t.dField 8) ++ toLe 4 t.unitsMissing) (toLe 2048 t.upd.got.toNat))

/-- UPD_APPLY: the rebuild starts; its reply comes with its end. -/
def execUpdApply (tag : Word) (s : State) : Host.Outcome State Fault Refusal :=
  .next (s.updCmd 0x0C03 tag (fun _ t => decide (t.upd.st = .received)) fun c t =>
    (t.setUpd .applying).defer c)

/-- What the apply makes of the delta: the new image, or a cause and an offset. -/
def State.applyResult (s : State) (emmcErrAt : Option Nat) : Except (Nat × Nat) Bytes :=
  match emmcErrAt with
  | some a => .error (6, a)
  | none =>
    let d := memRead s.emc.user stagDelta s.dLen
    match deltaRun s.slotImg (imgLenOf s.slotImg) s.tLen d.length (d.drop 128) 128 [] with
    | .error e => .error e
    | .ok b => if sha256 b = s.tSha then .ok b else .error (5, s.dLen - 1)

/-- APPLY_DONE: the apply ends, as the delta gives or with an eMMC error at an operation. -/
def execApplyDone (emmcErrAt : Option Nat) (s : State) : Host.Outcome State Fault Refusal :=
  .next (
    if s.upd.st ≠ .applying ∨ s.inReset .upd then s
    else
      let re (t : State) (st : Nat) (p : Bytes) : State := match t.startedCmd 0x0C03 with | some c => t.reply c st p [] | none => t
      match s.applyResult emmcErrAt with
      | .ok b =>
        let u := s.setUpd .applied
        re ({ u with emc := { u.emc with user := memWrite u.emc.user stagImage b } }.irq .upd 1) stOk []
      | .error e =>
        let w := w32 (e.2 / 16 * 16 + e.1)
        let t := { s with upd := { s.upd with st := .received, applyErr := w } }.irq .upd 2
        re (if e.1 = 6 then t.irq .upd 4 else t) stFault (toLe 4 w.toNat))

/-- UPD_COMMIT: the journal is written as COPYING and the copy starts; its reply comes with R. -/
def execUpdCommit (tag : Word) (s : State) : Host.Outcome State Fault Refusal :=
  .next (s.updCmd 0x0C04 tag (fun _ t => decide (t.upd.st = .applied)) fun c t =>
    { t with upd := { t.upd with st := .copying, journal := .copying t.tLen t.tSha, applyAt := c.e.apply, resetAt := none } }.defer c)

/-- R455 step 4: the first tick that begins at least one tick after an instant in the tick in progress. -/
def State.afterOneTick (s : State) (c : DWord) : Nat := if s.holds && decide (s.nt c % tick16 = 0) then s.tick + 1 else s.tick + 2

/-- COPY_DONE: the copy is complete: COPIED, COMMITTED, and R. -/
def execCopyDone (c : DWord) (s : State) : Host.Outcome State Fault Refusal :=
  .next (
    if s.upd.st ≠ .copying ∨ s.inReset .upd then s
    else
      let t := (s.at c).bootWrite 0 (memRead s.emc.user stagImage s.tLen)
      let r := max (t.afterOneTick c) (if s.upd.applyAt = 0 then 0 else t.fullTick s.upd.applyAt)
      let t := { t with upd := { t.upd with st := .committed, journal := .copied, resetAt := some r } }.irq .upd 3
      let t := match t.startedCmd 0x0C04 with | some k => t.reply k stOk (toLe 4 (r % 2 ^ 32)) [] | none => t
      if t.draining .upd || !t.en .upd then t.setDrained .upd else t)

/-- UPD_ABORT: the control area is cleared. -/
def execUpdAbort (tag : Word) (s : State) : Host.Outcome State Fault Refusal :=
  .next (s.updCmd 0x0C05 tag (fun _ t => match t.upd.st with | .idle | .receiving | .received | .applied => true | _ => false) fun c t =>
    { t with upd := { t.upd with st := .idle, hdr := [], got := 0 } }.reply c stOk [] [])

/-- SETTINGS_ARCHIVE_READ: the archived bytes of a group, then their old version. -/
def execSettingsArchiveRead (tag : Word) (s : State) : Host.Outcome State Fault Refusal :=
  .next (s.withCmd 0x0C06 tag fun c t =>
    let g := c.par 0 1
    match t.upd.archive.getD g none with
    | some v => t.reply c stOk [] (memRead t.emc.user (setArchive + groupLen * g) groupLen ++ toLe 1 v)
    | none => t.reply c stBadParam [] [])

/-! ### The first start of a new image (R457, R459) -/

/-- What a module does without the stored items of a settings group. -/
def State.forgetGroup (s : State) (g : Nat) : State :=
  if g = 2 then { s with lvl := { s.lvl with copy := none } }
  else if g = 3 then { s with net := { s.net with seg := 0, index := 0, headId := 0, parentId := 0, nodes := [], routes := [] } }
  else if g = 4 then { s with ibg := { s.ibg with map := none, holder := 0 }, fov := { s.fov with kept := none } }.wr R.fov_FOV_CFG 0
  else if g = 5 then { s with ldg := { s.ldg with series := [] } }
  else s

/-- A record of the start, written at once where the firmware runs and kept for it until then. -/
def State.startRecord (s : State) (code sev src p0 p1 p2 : Nat) : State :=
  if s.boot.stage = .booted then s.ledger code sev src p0 p1 p2
  else { s with boot := { s.boot with late := s.boot.late ++ [Late.record code sev src p0 p1 p2] } }

/-- R457: a group is archived with its old version and rewritten with its defaults and the new version. -/
def State.resetGroup (s : State) (g new : Nat) : State :=
  let old := s.groupVer g
  let b := memRead s.nvs.mem (groupAddr g) groupLen
  let s := { s with
    emc := { s.emc with user := memWrite s.emc.user (setArchive + groupLen * g) b }
    upd := { s.upd with sets := setAt s.upd.sets g (some new), archive := setAt s.upd.archive g (some old), setReset := s.upd.setReset ||| BitVec.ofNat 16 (2 ^ g) } }
  ((s.nvsWrite .svc (groupAddr g) (zeros groupLen)).forgetGroup g).startRecord 0xEC01 1 (blkSrc .upd) g old new

/-- R457: the firmware compares each group's version with its own, as its first act of a start. The delivered image wrote what it finds. -/
def State.settingsReset (s : State) : State :=
  if s.upd.shipped then s
  else (List.range 15).foldl (fun (t : State) g =>
    let new := byteAt (s.bootRead (16 + g) 1) 0
    if t.groupVer g = new then t else t.resetGroup g new) s

/-- SETTINGS_RESET: the comparison, where the firmware runs. -/
def execSettingsReset (s : State) : Host.Outcome State Fault Refusal :=
  .next (if s.boot.stage = .booted then s.settingsReset else s)

/-- UPD_BOOTED: after a boot that follows an update, the record, the event, and the journal back at IDLE. -/
def execUpdBooted (s : State) : Host.Outcome State Fault Refusal :=
  .next (if s.boot.stage ≠ .booted ∨ s.upd.journal ≠ .copied then s
    else
      let t := { s with upd := { s.upd with journal := .idle } }
      let old := (t.upd.prevVer.getD 0).toNat
      let new := (t.upd.runVer.getD 0).toNat
      (t.ledger 0xEC00 1 (blkSrc .upd) old new t.floorVer).event 0xFC00 (blkSrc .upd)
        (toLe 4 old ++ toLe 4 new ++ toLe 4 t.floorVer ++ toLe 2 t.upd.setReset.toNat ++ toLe 1 (b2n t.upd.signerNew)))

/-! ### Registers, disable and reset (R456) -/

/-- UPD registers. -/
def State.updRead (s : State) (off : Nat) : Option Word :=
  let u := s.upd
  if off = 0x40 then some (w32 (u.st.num + s.unitsMissing * 2 ^ 16))
  else if off = 0x44 then some (w32 (s.dField 8))
  else if off = 0x48 then some (w32 s.dLen)
  else if off = 0x4C then some (w32 (s.dField 20))
  else if off = 0x50 then some (u.runVer.getD 0)
  else if off = 0x54 then some (w32 s.floorVer)
  else if off = 0x58 then some (w32 (u.result + b2n u.signerNew * 2 ^ 4 + b2n u.romCopy * 2 ^ 5 + b2n u.floorRaised * 2 ^ 6))
  else if off = 0x5C then some (w32 u.setReset.toNat)
  else if off = 0x60 then some (w32 (u.resetAt.getD 0))
  else if off = 0x64 then some u.applyErr
  else none

/-- R456: EN is cleared: an apply stops at RECEIVED; a copy runs to its end before DRAINED sets. -/
def State.updDisable (s : State) : State :=
  match s.upd.st with
  | .copying => s
  | .applying =>
    let s := s.setUpd .received
    (match s.startedCmd 0x0C03 with | some c => s.reply c stCancelled [] [] | none => s).setDrained .upd
  | _ => s.setDrained .upd

/-- R456: what an interruption leaves of the update: an apply must be repeated. -/
def State.updStops (s : State) : State :=
  match s.upd.st with
  | .applying | .applied => s.setUpd .received
  | _ => s

/-- A UPD block reset: an apply ends; a copy resumes from its start after the release. -/
def State.updReset (s : State) : State :=
  let s := match s.startedCmd 0x0C03 with | some c => s.reply c stCancelled [] [] | none => s
  { s.updStops with upd := { s.updStops.upd with applyErr := 0 } }

/-! ### INFO (R77) -/

/-- INFO: identity, versions and role. -/
def execInfo (tag : Word) (s : State) : Host.Outcome State Fault Refusal :=
  .next (s.withCmd 0x0001 tag fun c t =>
    t.reply c stOk (toLe 4 ((t.sysRead 0x40).getD (t.rd 0x40)).toNat ++ toLe 8 t.modId.ident.toNat ++ toLe 4 (t.upd.runVer.getD 0).toNat ++ toLe 4 (t.rn R.rst_ROLE) ++ toLe 2 t.net.seg) [])

end Sys2Proof.Machine
end

