-- ==== Sys2Proof/Machine/Start.lean ====
section
/-! DEFINITION. Resets and starts: what each reset keeps, the causes of a reset, the strap, the start sequence up to the image, tamper and zeroization, and block resets and releases (R29-R55, R83, R107, R347, R361, R368, R446, R461). -/

namespace Sys2Proof.Machine

open Sys2Proof

/-! ### What a reset keeps (R12, R43, R51) -/

/-- Registers of PWR that show the hardware's state and not a stored value (R14). -/
def pwrLive : List Nat :=
  [R.pwr_PWR_STAT, R.pwr_VIN_MEAS, R.pwr_P_IN] ++ (List.range 4).map R.pwr_TEMPs ++ (List.range 4).map fun i => 0x3070 + 4 * i

/-- The word of a register after a reset of the module, none for its reset value: RWP fields are kept always, RWS fields over a warm reset, and the endpoint's own table over a warm reset (R12, R45). CONT_HOLD keeps HOLD and COIL_DROP (R37, R359). -/
def gapWord (b warm : Bool) (a : Nat) (v : Word) : Option Word :=
  if 0xF00000 ≤ a then (if warm then some v else none)
  else if a = R.fsw_CONT_HOLD then some (v &&& 0x23F)
  else if pewterRegs.contains a || pwrLive.contains a || (warm && decide (a = R.mem_SCRUB_PASS)) then some v
  else if a % 0x1000 < 0x40 then none
  else match findRow a with
    | none => none
    | some r => some (merge (r.pw ||| (if warm then r.ws else 0)) (regDefault b a) v)

/-- The register file after a reset of the module. -/
def gapRegs (b warm : Bool) (l : Sparse Word) : Sparse Word :=
  l.filterMap fun p => match gapWord b warm p.1 p.2 with
    | none => none
    | some v => if v = regDefault b p.1 then none else some (p.1, v)

/-- Accesses held at the aperture end with an abort, since MEM is in reset (R47). -/
def abortHeld : List Bar2Access → State → State
  | [], s => s
  | _ :: r, s => abortHeld r (s.emit (.bar2Done .abort))

/-- The endpoint, the mailbox, the Market, the queues and the check units after a reset. The endpoint is reset only by a cold reset (R45); the mailbox cancels what was outstanding (R78). -/
def State.gapIo (s : State) (warm : Bool) : State :=
  let s := abortHeld s.host.aptHeld s
  let s := if warm then abortBar0 s.host.bar0Held s.failTakes else s
  { s with
    host := if warm then { s.host with present := false, missed := 0, beatAge := 0, aptBase := 0, aptNext := none, aptHeld := [], bar0Held := [] } else State.reset.host
    mbx := { State.reset.mbx with m2h := s.mbx.m2h, resetDue := warm }
    mkt := { State.reset.mkt with matchHigh := if warm then s.mkt.matchHigh else 0 }
    que := State.reset.que
    chk := State.reset.chk }

/-- The stores and the Ledger after a reset: DRAM survives a warm one, packet SRAM none (R43, R129); records still in the FIFO are lost (R403). -/
def State.gapStores (s : State) (warm : Bool) : State :=
  let lost := s.ldg.lostUnknown || !s.ldg.fifo.isEmpty || decide (s.ldg.lostDue ≠ 0)
  let s := s.ldgReset
  { s with
    mem := if warm then { s.mem with sram := [], sramPoison := [], sramFlips := [], tcm := [], crit := none } else State.reset.mem
    ldg := { s.ldg with lostUnknown := lost } }

/-- Time after a reset: network time survives a warm one as holdover (R228), and CNT restarts with a cold one. -/
def State.gapTime (s : State) (warm : Bool) (st : Nat) : State :=
  if warm then
    let s := { s with ntm := { s.ntm with tod := none } }.ntmReset st
    { s with ntm := { s.ntm with localTick := 0 }, edgeCnt := s.cnt, netEdge := decide (st ≠ 0) }
  else
    { s with ntm := State.reset.ntm, cnt := 0, edgeCnt := 0, netEdge := false, ldg := { s.ldg with opCnt := 0 } }

/-- Radios, links, beacons and the mesh after a reset: the airtime ledgers, the counter reserves and the enrolment live in stores that keep them. -/
def State.gapAir (s : State) : State :=
  let s := { s with
    rad := State.reset.rad
    chn := { s.chn with hop := if s.modId.variantB then List.range 64 else List.range 8, hopNext := none, hopHold := none }
    bcn := { State.reset.bcn with retryAt := s.bcn.retryAt }
    net := { State.reset.net with
      seg := s.net.seg, index := s.net.index, headId := s.net.headId, parentId := s.net.parentId, nodes := s.net.nodes
      nkGen := s.net.nkGen, wake := s.net.wake } }
  s.lnkReset

/-- The light, the drive and the metering after a reset. -/
def State.gapLight (s : State) : State :=
  let s := s.corReset
  { s with
    lvl := { State.reset.lvl with copy := s.lvl.copy }
    port := State.reset.port
    drg := drgOff
    scl := sclOff
    nrg := { State.reset.nrg with period := s.nrg.period, spread := s.nrg.spread } }

/-- The ring, failover, the vault and the update after a reset: derived and expiring slots are erased (R43), and an apply is to be repeated (R456). -/
def State.gapRest (s : State) : State :=
  let s := (s.ibgReset.fovReset).updStops
  { s with
    rmc := State.reset.rmc
    ibg := { s.ibg with sent := 0 }
    fov := { s.fov with autoArm := false }
    upd := { s.upd with applyErr := 0, resetAt := none, setReset := 0 }
    cry := State.reset.cry
    vlt := { s.vlt with ops := [], drbg := none, ready := false, approved := false, debug := false, meas := setAt s.vlt.meas 3 (zeros 32)
                        slots := eraseSlots resetErased 0 s.vlt.slots }
    pwt := { s.pwt with ranVbak := s.pwt.ranVbak && !s.pwt.mainOn } }

/-- Everything that a reset of the module does to its state (R43). -/
def State.gap (s : State) (warm : Bool) : State :=
  let st := s.tmState
  let s := (s.gapIo warm).gapStores warm
  let s := { s with regs := gapRegs s.modId.variantB warm s.regs }
  let s := if warm then s.bump R.mbx_MBX_EPOCH 1 else s
  (((s.gapTime warm st).gapAir).gapLight).gapRest

/-- What the firmware has to record of a reset once it runs again: the host that was lost (R80), and time that fell to holdover (R228). -/
def State.lateOf (s : State) (cold : Bool) : List Late :=
  (if s.host.present then [.record 0xE00C 1 0x1E0 s.hostStat.toNat (s.rn R.mbx_MBX_EPOCH) 0] else []) ++
  (if !cold && (decide (s.tmState = 1) || decide (s.tmState = 2)) then [.event 0xF101 0x110 (toLe 1 3)] else [])

/-! ### Causes (R40-R42) -/

/-- A reset sequence runs: none has completed since its cause. -/
def State.inSequence (s : State) : Bool :=
  match s.boot.stage with
  | .off | .reset | .checked | .defaults => true
  | .dead | .booted => false

/-- R40: the place of a cause in the Priority column, 1 the highest. -/
def causeRank (code : Nat) : Nat := [13, 1, 2, 3, 10, 8, 6, 9, 13, 11, 4, 5, 7, 12].getD code 13

/-- R40: the cause in RST_CAUSE arrived in this clock cycle and is higher in the Priority column. Two causes between which CNT has not moved are of one clock cycle (DESIGN CHOICE, log 13). -/
def State.outranked (s : State) (code : Nat) : Bool :=
  decide (s.boot.stage = .reset) && decide (s.boot.causeAt = some s.cnt) && decide (causeRank (s.rf R.rst_RST_CAUSE 0 4) < causeRank code)

/-- R40, R42: a reset of the module takes effect. A warm one first saves Scales' tail and the Ledger's FIFO; a cause that arrives while a sequence runs restarts it and replaces the code, unless the cause before it came in the same clock cycle and has the higher priority. -/
def State.enterReset (s : State) (code src : Nat) (cold : Bool) : State :=
  let late := s.lateOf cold
  let kept := s.outranked code
  let cause := if kept then s.rf R.rst_RST_CAUSE 0 8 else code + src % 16 * 2 ^ 4
  let sc := cold || (s.inSequence && s.boot.seqCold)
  let s := (if cold then s else s.sclTail.ldgSave).gap (!cold)
  let s := s.wr R.rst_RST_CAUSE (w32 (cause + b2n sc * 2 ^ 8))
  { s with boot := { s.boot with stage := .reset, seqCold := sc, causeAt := some s.cnt, sclCold := cold || s.boot.sclCold, late := s.boot.late ++ late } }.contFollow

/-- A reset with main power present. -/
def State.resetModule (s : State) (code src : Nat) (cold : Bool) : State :=
  if s.boot.stage = .off then s else s.enterReset code src cold

/-- POWER_ON: the input monitor sees VIN in range and every rail good. -/
def execPowerOn (s : State) : Host.Outcome State Fault Refusal :=
  .next (
    let t := s.enterReset 1 0 true
    let t := { t with pwt := { t.pwt with mainOn := true } }
    if t.rb R.pwr_PWR_STAT 0 then (t.wb R.pwr_PWR_STAT 0 false).emit (.pin "PFAIL_N" true) else t)

/-- VIN_BROWN_OUT: VIN falls to a level: below 15.7 V it is a brown-out, from 16.3 V on it is not, and between them it may be (R471). -/
def execVinBrownOut (vinMv : Nat) (s : State) : Host.Outcome State Fault Refusal :=
  .next (
    let vin (t : State) : State := t.wr R.pwr_VIN_MEAS (w32 (vinMv % 65536))
    if s.boot.stage = .off then s
    else if 16300 ≤ vinMv then vin s
    else if vinMv < 15700 || Config.freeBit s.free then vin ((s.draw 1).enterReset 2 0 true)
    else vin (s.draw 1))

/-- CORE_SUPPLY_FAULT: a core rail leaves its range. -/
def execCoreSupplyFault (rail : Fin 4) (s : State) : Host.Outcome State Fault Refusal := .next (s.resetModule 3 rail.val true)

/-- MOD_RESET: MOD_RESET_N is low for a time: from 10 µs on a warm reset, below 1 µs nothing, and between them either (R41). -/
def execModReset (lowNs : Nat) (s : State) : Host.Outcome State Fault Refusal :=
  .next (
    if lowNs < 1000 then s
    else if 10000 ≤ lowNs then s.resetModule 4 0 false
    else if Config.freeBit s.free then (s.draw 1).resetModule 4 0 false else s.draw 1)

/-- R53: a write of SW_RESET. -/
def State.swReset (s : State) (m : Master) (v : Word) : State :=
  if fld v 16 16 ≠ 0xC0DE then s.err .rst eBadKey 0x4C m
  else if !tst v 0 then s.err .rst eBadValue 0x4C m
  else s.resetModule 8 0 false

/-- SW_RESET: a write of SW_RESET. -/
def execSwReset (m : Master) (v : Word) (s : State) : Host.Outcome State Fault Refusal :=
  .next (s.writeAt .rst 0x4C m v fun t => (t.swReset m v).answer .done)

/-- LOCKSTEP_MISMATCH: the two cores of a running lane differ; the lane keeps the program counter over the warm reset (R83). -/
def execLockstepMismatch (lane : Fin 4) (detail : Word) (s : State) : Host.Outcome State Fault Refusal :=
  .next (
    if s.inReset (.lane lane) || decide (s.boot.stage = .off) then s
    else
      let t := (s.enterReset 6 lane.val false).wr (R.lane_LS_MISMATCH lane.val) (detail ||| 1)
      let t := t.bumpSat (R.lane_LS_COUNT lane.val) 1
      { t with boot := { t.boot with late := t.boot.late ++
          [.record 0xE007 4 (blkSrc (.lane lane)) lane.val (detail ||| 1).toNat (t.rn (R.lane_LS_COUNT lane.val))] } })

/-- LANE_WATCHDOG: the watchdog of a lane fires where its ware has run across as many edges as its limit (R107). -/
def execLaneWatchdog (lane : Fin 4) (s : State) : Host.Outcome State Fault Refusal :=
  .next (if s.wdogFires lane.val then s.resetModule 5 lane.val false else s)

/-- SERVICE_WATCHDOG: the service core's watchdog fires. -/
def execServiceWatchdog (s : State) : Host.Outcome State Fault Refusal := .next (s.resetModule 7 0 false)

/-- The trip level of a sensor in 0.1 °C (R480). -/
def tripLevel (sensor : Nat) : Int := [1250, 1200, 1400, 950].getD sensor 10000

/-- THERMAL_TRIP: a sensor reaches a temperature; from its trip level on, a warm reset follows (R480). -/
def execThermalTrip (sensor : Nat) (tempDeciC : Int) (s : State) : Host.Outcome State Fault Refusal :=
  .next (
    if s.boot.stage = .off ∨ 4 ≤ sensor then s
    else if tempDeciC < tripLevel sensor then s.tempAt sensor tempDeciC
    else (s.enterReset 0xB sensor false).setTemp sensor tempDeciC)

/-- R132: an uncorrectable error found in a critical region takes the module into a warm reset. -/
def State.critReset (s : State) : State :=
  match s.mem.crit with
  | some r => s.resetModule 0xC r false
  | none => s

/-- R455: from the edge of R on, the reset after a committed copy is due. -/
def State.updDue (s : State) : State :=
  match s.upd.resetAt with
  | some r => if r ≤ s.tick then s.resetModule 0xD 0 false else s
  | none => s

/-- UPD_RESET: the reset after a committed copy, at the edge of R. -/
def execUpdReset (s : State) : Host.Outcome State Fault Refusal := .next s.updDue

/-- RING_RESET_FRAME: an authenticated RESET frame for this position is taken where RRST_EN is 1 (R427). -/
def execRingResetFrame (s : State) : Host.Outcome State Fault Refusal :=
  .next (s.onRing 0x30 fun x t =>
    if le x.pay 0 2 = 0xC0DE && t.rb R.ibg_IBG_CFG 8 then t.resetModule 9 (if x.east then 0 else 1) false else t)

/-- VBAK_SWITCHOVER: main power is gone and the Pewter domain runs from VBAK (R345). -/
def execVbakSwitchover (vbakMv : Nat) (s : State) : Host.Outcome State Fault Refusal :=
  .next (
    let late := if s.boot.stage = .off then [] else s.lateOf true
    let t := if s.boot.stage = .off then s else s.gap false
    { t with
      boot := { t.boot with stage := .off, seqCold := true, sclCold := true, late := t.boot.late ++ late }
      pwt := { t.pwt with mainOn := false, ranVbak := true } }.contFollow.rtcCut.setVbak vbakMv)

/-! ### Tamper and zeroization (R361, R368, R391) -/

/-- R361: a tamper at an enabled loop: everything secret is zeroized and resealed, the detection is recorded in the domain, and a module with main power takes a warm reset. -/
def State.tamper (s : State) (loop : Nat) : State :=
  if !s.rb R.pwt_TAMP_CFG loop then s
  else
    let s := s.zeroizeNow
    let n := min (s.rf R.pwt_TAMP_CNT 0 16 + 1) 65535
    let s := ((s.wr R.pwt_TAMP_CNT (w32 (n + loop * 2 ^ 16))).wr R.pwt_TAMP_TIME s.pwt.cal.timeWord).wr R.pwt_TAMP_DATE s.pwt.cal.dateWord
    let s := { s with pwt := { s.pwt with loopOk := setAt s.pwt.loopOk loop false } }
    let s := ((s.pwtFlag (4 + loop)).setPwron false 0).pwtIrq 2
    let ev : Late := .event 0xF801 0x050 (toLe 1 loop ++ toLe 2 n ++ toLe 4 s.pwt.cal.timeWord.toNat ++ toLe 4 s.pwt.cal.dateWord.toNat)
    let s := { s with boot := { s.boot with late := s.boot.late ++ [ev, Late.event 0xF901 0x180 (toLe 1 1)] } }
    s.resetModule 0xA loop false

/-- TAMPER: two mismatches in a row at a tamper loop. -/
def execTamper (loop : Fin 2) (s : State) : Host.Outcome State Fault Refusal := .next (s.tamper loop.val)

/-- R368: ZEROIZE: a full zeroization, and a warm reset; the event follows the next start (R394). -/
def State.zeroize (s : State) : State :=
  let s := s.zeroizeNow
  let s := { s with boot := { s.boot with late := s.boot.late ++ [Late.event 0xF901 0x180 (toLe 1 2)] } }
  s.resetModule 8 0 false

/-- R368: a write of VLT.ZEROIZE. -/
def State.zeroizeReg (s : State) (m : Master) (v : Word) : State :=
  if fld v 16 16 = 0xC1EA ∧ tst v 0 then s.zeroize else s.err .vlt eBadKey 0x74 m

/-- ZEROIZE, asked for through the mailbox or the register; no role is authenticated. The reset that follows answers no command (R78). -/
def execZeroize (req : VltReq) (s : State) : Host.Outcome State Fault Refusal :=
  .next (match req with
    | .mbx tag => s.withCmd 0x0902 tag fun _ t => t.zeroize
    | .window m v => s.writeAt .vlt 0x74 m v fun t => (t.zeroizeReg m v).answer .done)

/-! ### The strap and the Pewter check (R33-R36, R347) -/

/-- Put a code into a rising list. -/
def insertCode (a : Nat) : List Nat → List Nat
  | [] => [a]
  | x :: r => if a ≤ x then a :: x :: r else x :: insertCode a r

/-- R33: the eighth-lowest of the conversions; a code above full scale reads 63. -/
def strapMedian (codes : List Nat) : Nat := ((codes.foldl (fun l a => insertCode (min a 63) l) []).getD 7 0)

/-- R35: the band that a band runs as. -/
def runBand (raw : Nat) : Nat := if raw = 13 ∨ raw = 14 then 4 else raw

/-- RST.STRAP of sixteen conversions, after the band of the previous reset (R33, R35, R36). -/
def strapWord (codes : List Nat) (last : Option Nat) : Word :=
  let med := strapMedian codes
  let raw := med / 4
  let noisy := codes.any fun c => decide (min c 63 / 4 ≠ raw)
  let changed := match last with | some b => decide (b ≠ raw) | none => false
  w32 (runBand raw + med * 2 ^ 4 + b2n noisy * 2 ^ 10 + b2n (decide (runBand raw ≠ raw)) * 2 ^ 11 + b2n (decide (med = 63)) * 2 ^ 12 + b2n changed * 2 ^ 13)

/-- R35: the role of a band: 0 none, 1 head, 2 node, 3 standby. -/
def bandRole (b : Nat) : Nat := [0, 1, 1, 1, 1, 2, 2, 2, 2, 3, 3, 1, 1, 1, 1, 2].getD b 0

/-- R35: the latch value of a band used when Pewter is lost. -/
def bandLit (b : Nat) : Bool := [0, 1, 1, 0, 0, 1, 1, 0, 0, 1, 0, 1, 0, 0, 0, 1].getD b 0 = 1

/-- RST.ROLE of a band; `refused` where R17 step 2 takes the head role away: the spec gives such a module NO_HEAD and no role code, and the model gives it role 0 (DESIGN CHOICE, log 13). -/
def State.roleWord (s : State) (b : Nat) (refused : Bool) : Word :=
  w32 ((if refused then 0 else bandRole b) + b2n (decide (b = 11 ∨ b = 12)) * 2 ^ 2 + b2n (bandLit b) * 2 ^ 3 + s.strapMode * 2 ^ 4 + b2n refused * 2 ^ 6)

/-- Enable a block that the sequencer or the boot ROM starts (R67). -/
def State.startBlk (s : State) (b : Blk) : State := (s.wb (hdr b oCtrl) 0 true).wb (hdr b oStat) 1 false

/-- Release and enable a block that the sequencer starts (R44). -/
def State.seqRelease (s : State) (b : Blk) : State :=
  (match blkBit b with
   | some i => s.setRstBit R.rst_BLK_IN_RESET_A i false
   | none => s).startBlk b

/-- R347: the Pewter domain is judged: kept, with the power cycle counted at a cold start (R362), or lost, with the strap's latch value. -/
def State.pewterCheck (s : State) (band : Nat) : State :=
  if s.pewterIntact then
    let cold := decide (s.rf R.rst_RST_CAUSE 0 4 ≤ 3)
    let s := { s with pwt := { s.pwt with lost := false } }
    if cold then s.wr R.pwt_PWRCYC (w32 ((s.rf R.pwt_PWRCYC 0 24 + 1) % 2 ^ 24)) else s
  else
    let s := s.pewterLose (bandLit band)
    let s := (s.wr R.pwt_PWRCYC 1).wr R.rst_RST_CAUSE 0x301
    { s with
      ntm := { State.reset.ntm with localTick := s.ntm.localTick }
      pwt := { s.pwt with lost := true }
      boot := { s.boot with
        seqCold := true
        late := s.boot.late ++ [Late.event 0xF800 0x050 (toLe 2 s.pwt.vbak ++ toLe 1 band)] } }.setTm 0

/-- R29, R33, R347: the 2 ms point of a start: the strap is latched, the Pewter domain judged, the role taken, and step 3 of R44 released. -/
def State.checkPoint (s : State) (codes : List Nat) : State :=
  let w := strapWord codes s.boot.lastBand
  let raw := strapMedian codes / 4
  let band := runBand raw
  let notes : List Late :=
    (if tst w 10 then [.record 0xE003 2 0x020 w.toNat 0 0] else []) ++
    (if tst w 13 then [.record 0xE002 2 0x020 (s.boot.lastBand.getD 0) raw 0] else [])
  let s := (s.wr R.rst_STRAP w).pewterCheck band
  let s := if s.pwt.lost then s.photoAt s.fsw.photo else s
  let z := s.boot.zeroized
  let s := s.wb R.rst_RST_CAUSE 10 z
  let s := { s with
    pwt := { s.pwt with zeroized := z }
    boot := { s.boot with stage := .checked, zeroized := false, lastBand := some raw, late := s.boot.late ++ notes } }
  let s := s.wr R.rst_ROLE (s.roleWord band (decide (bandRole band = 1) && (s.pwt.lost || !s.rootOk)))
  let s := [Blk.sys, .rst, .clk, .pwr, .pwt].foldl (fun (t : State) b => t.startBlk b) s
  let s := [Blk.fsw, .drv 0, .drv 1, .drv 2, .drv 3, .drg].foldl (fun (t : State) b => t.seqRelease b) s
  let p := s.pwt.pendIrq
  { s with pwt := { s.pwt with pendIrq := 0 } }.irqBits .pwt p

/-- PEWTER_INTEGRITY_CHECK: the 2 ms point, with the sixteen strap conversions. -/
def execPewterIntegrityCheck (codes : List Nat) (s : State) : Host.Outcome State Fault Refusal :=
  if s.boot.stage ≠ .reset then .next s
  else if codes.length ≠ 16 then .fault .badStrapCount
  else .next (s.checkPoint codes)

/-- R37, R39, R44: the 40 ms point: the stand-alone defaults, and steps 4 and 5 of the release. -/
def State.defaultsPoint (s : State) : State :=
  let s := { s with boot := { s.boot with stage := .defaults } }
  let lit := s.lit s.fsw.dark
  let s := if s.coilDrop || s.pwt.lost || s.fsw.due then (s.wb R.fsw_CONT_HOLD 9 false).seqWrite lit else s.contFollow
  let s := { s with fsw := { s.fsw with steadyDark := s.fsw.dark, due := false } }.drvDefaults lit
  [Blk.mem, .nvs, .emc, .vlt, .cry].foldl (fun (t : State) b => t.seqRelease b) s

/-- SEQUENCER_DEFAULTS: the 40 ms point. -/
def execSequencerDefaults (s : State) : Host.Outcome State Fault Refusal :=
  .next (if s.boot.stage = .checked then s.defaultsPoint else s)

/-! ### The boot ROM (R375, R382, R387, R446, R455, R460) -/

/-- R456: a copy that was interrupted is completed from the staged image; false where the staged image fails TARGET_SHA. -/
def State.bootCopy (s : State) : State × Bool :=
  match s.upd.journal with
  | .copying n sha =>
    let img := memRead s.emc.user stagImage n
    if sha256 img = sha then
      let s := s.bootWrite 0 img
      ({ s with upd := { s.upd with journal := .copied, romCopy := true } }, true)
    else (s, false)
  | _ => (s, true)

/-- R446: the result of the check of the boot slot; the image as delivered passes (assumption log 35). -/
def State.bootResult (s : State) (err : Bool) : Nat :=
  if s.upd.shipped then (if err then 6 else 0) else imgResult s.slotImg s.floorVer err

/-- The measurements that the boot ROM writes (R375). -/
def State.measureImage (s : State) (approved : Bool) : State :=
  let m0 := sha256 (s.slotImg 0 (imgLenOf s.slotImg))
  let m1 := sha256 (s.slotImg 32 64)
  let m2 := toLe 1 (b2n approved) ++ zeros 3 ++ toLe 4 0x1A1 ++ zeros 24
  { s with vlt := { s.vlt with meas := [m0, m1, m2, zeros 32] } }

/-- R378: a start whose MEAS1 differs from a stored slot's erases that slot. -/
def State.signerSlots (s : State) : State :=
  let m1 := s.vlt.meas.getD 1 []
  s.erase fun _ x => decide (x.meas1 ≠ m1)

/-- R446, R450, R455, R459: the image is accepted: the floor rises, the journal and the signer are noted, and an update that was committed is held no longer. -/
def State.imageAccepted (s : State) : State :=
  if s.upd.shipped then { s with upd := { s.upd with signerNew := false, floorRaised := false, runVer := some (w32 (leFirst 4 (s.slotImg 4 4))) } }
  else
    let ver := w32 (leFirst 4 (s.slotImg 4 4))
    let fl := leFirst 4 (s.slotImg 8 4)
    let up := decide (s.floorVer < fl)
    let who := s.slotImg 32 64
    let ended := match s.upd.st with | .copying | .committed => true | _ => false
    { s with upd := { s.upd with
        st := if ended then .idle else s.upd.st
        hdr := if ended then [] else s.upd.hdr
        got := if ended then 0 else s.upd.got
        floor := if up then some (w32 fl) else s.upd.floor
        floorRaised := up
        prevVer := if s.upd.journal = .copied then s.upd.runVer else s.upd.prevVer
        runVer := some ver
        signerNew := (match s.upd.signer with | some x => decide (x ≠ who) | none => decide (s.upd.journal = .copied))
        signer := some who } }

/-- R387, R390: the power-up tests; a failure is recorded once the firmware runs. -/
def State.bootTests (s : State) (fails : List Nat) : State :=
  match fails with
  | [] => s.wb R.cry_CRY_IND 2 true
  | t :: _ =>
    let s := ((s.wb R.cry_CRY_IND 1 true).wf R.cry_CRY_IND 8 5 t).wf R.cry_CRY_IND 14 2 1
    { (s.irq .cry 0) with boot := { (s.irq .cry 0).boot with late := s.boot.late ++ [Late.event 0xF900 0x190 (toLe 1 t ++ toLe 1 1)] } }

/-- R17 step 3, R438: the role kept after a takeover, or released; a head takes its provisioned segment from settings group 3, a node keeps the one it joined, and a module of another role belongs to none (R8). -/
def State.bootRole (s : State) : State :=
  let s := if s.fov.release then { s with fov := { s.fov with kept := none, release := false } } else s
  let prov := memLe s.nvs.mem (groupAddr 3) 2
  match s.fov.kept with
  | some (g, id) =>
    if s.pwt.lost || !s.rootOk then { s with net := { s.net with seg := 0 } }
    else
      let s := (s.wf R.rst_ROLE 0 2 1).wr64 R.fov_NONCE_ID_LO R.fov_NONCE_ID_HI id
      { s with net := { s.net with seg := g } }
  | none => { s with net := { s.net with seg := if s.isHead then prov else if s.isNode then s.net.seg else 0 } }

/-- R16: the block is a lane of a standby, which stays in reset. -/
def State.heldLane (s : State) (i : Nat) : Bool := s.isStandby && decide (1 ≤ i) && decide (i ≤ 4)

/-- The blocks that the service-core firmware releases (R44 step 6); the lanes of a standby stay in reset (R16). -/
def State.step6 (s : State) : List Nat :=
  ((List.range 34).filter fun i => s.rstBit R.rst_BLK_IN_RESET_A i).filter fun i => !s.heldLane i

/-- R362: after a loss the firmware writes its copy of the power-cycle counter plus 1 and locks the page; otherwise it renews the copy. -/
def State.bootCycle (s : State) : State :=
  let s := if s.pwt.lost then (s.wr R.pwt_PWRCYC (w32 ((s.boot.cycCopy + 1) % 2 ^ 24))).wb (hdr .pwt oLock) 0 true else s
  { s with boot := { s.boot with cycCopy := s.rf R.pwt_PWRCYC 0 24 } }

/-- Take the bytes of a range, and its poison and errors, out of DRAM: it is written anew. -/
def State.dramWipe (s : State) (lo hi : Nat) : State :=
  let inside (a : Nat) : Bool := decide (lo ≤ a) && decide (a < hi)
  { s with mem := { s.mem with
      dram := s.mem.dram.filter fun p => !inside p.1
      poison := s.mem.poison.filter fun p => !inside (16 * p)
      flips := s.mem.flips.filter fun p => !inside (16 * p.1) } }

/-- Codewords are written anew with bytes that the spec does not state. -/
def refillFree : List Nat → State → State
  | [], s => s
  | p :: l, s => refillFree l ({ s with mem := { s.mem with dram := memWrite s.mem.dram (16 * p) (freeBytes s.free 16) } }.draw 16)

/-- R132, R188, R189: the link table and the identity index written anew in DRAM: at a head from its enrolments, at a node from what it knows of the head, each record with the counters of its mirror (R191). -/
def State.rebuildTables (s : State) : State :=
  if s.isHead then
    s.net.nodes.foldl (fun (t : State) r =>
      let t := (t.idxSet r.ident.toNat r.index).getD t
      if r.index = 0 then t else t.recRestore r.ident r.index r.nkGen (some r.key)) s
  else if s.isNode && s.hasIndex then s.recRestore s.net.headId 0 0 none
  else s

/-- R129, R132: after a reset that lost DRAM, or that an error in a critical region caused, the firmware writes regions 0 and 1 of the default map whole from their sources. What region 0 holds is the firmware's own. -/
def State.rewriteCritical (s : State) : State :=
  if s.boot.seqCold || decide (s.rf R.rst_RST_CAUSE 0 4 = 0xC) then
    let t := refillFree (s.mem.poison.filter fun p => decide (16 * p < 0x10000000)) s
    let low (p : Nat) : Bool := decide (16 * p < 0x10000000)
    let t := { t with mem := { t.mem with poison := t.mem.poison.filter (fun p => !low p), flips := t.mem.flips.filter fun p => !low p.1 } }
    (t.dramWipe 0x10000000 0x11000000).rebuildTables
  else s

/-- The firmware's first acts: its role and segment, its copies, the releases it asks for, and the records of the start (R33, R36, R40, R460). -/
def State.firmwareStart (s : State) : State :=
  let s := ((s.settingsReset.bootRole.bootCycle).mapSetup.rewriteCritical).lvlStart s.boot.seqCold
  let s := s.srcByRole
  let s := if s.isHead then { s with fov := { s.fov with probe := some (0, s.sf) } } else s
  let s := s.step6.foldl (fun (t : State) i => t.setRstBit R.rst_BLK_REL_PEND_A i true) s
  let first : Late := .record 0xE001 1 0x020 (s.rn R.rst_RST_CAUSE) (s.rn R.rst_STRAP) (s.rn R.rst_ROLE)
  let old : List Late := if s.upd.failed = 0 then [] else [.record 0xEC02 4 (blkSrc .upd) s.upd.failed 0 0]
  { s with
    upd := { s.upd with failed := 0 }
    boot := { s.boot with stage := .booted, late := first :: (s.boot.late ++ old) } }

/-- The vault is ready: measurements, power-up tests, approved mode, and the slots of another signer erased. -/
def State.vaultReady (s : State) (fails : List Nat) : State :=
  let ok := s.vlt.fuse && fails.isEmpty
  let s := (s.bootTests fails).measureImage ok
  let s := { s with vlt := { s.vlt with ready := true, approved := ok } }
  if s.upd.shipped then s else s.signerSlots

/-- R446: the boot ROM's part of a start. -/
def State.bootCheck (s : State) (fails : List Nat) (err : Bool) : State :=
  let s := { s with upd := { s.upd with result := 0, romCopy := false, floorRaised := false, signerNew := false } }
  if s.rf R.rst_STRAP 0 4 = 0 then { s with boot := { s.boot with stage := .dead } }
  else
    let c := s.bootCopy
    let r := if c.2 then c.1.bootResult err else 7
    if r ≠ 0 then { c.1 with upd := { c.1.upd with result := r, failed := r }, boot := { c.1.boot with stage := .dead } }
    else (c.1.imageAccepted.vaultReady fails).firmwareStart

/-- BOOT_CHECK: the boot ROM checks the image and starts it; `fails` lists the power-up tests that fail, `emmcErr` an eMMC error during the check. -/
def execBootCheck (fails : List Nat) (emmcErr : Bool) (s : State) : Host.Outcome State Fault Refusal :=
  .next (if s.boot.stage = .defaults then s.bootCheck fails emmcErr else s)

/-- BENCH_RECOVERY: in strap band 0 the bench station delivers a full image, which the boot ROM checks before it writes the boot slot (R461). -/
def execBenchRecovery (image : Bytes) (s : State) : Host.Outcome State Fault Refusal :=
  .next (if s.boot.stage ≠ .dead ∨ s.rf R.rst_STRAP 0 4 ≠ 0 then s
    else if image.length = imgLenOf (bytesImg image) ∧ imgResult (bytesImg image) s.floorVer false = 0 then s.bootWrite 0 image
    else s)

/-! ### Block resets (R47-R50, R54, R55) -/

/-- The word of a block's register after a reset of the block: RWS and RWP fields are kept (R43). -/
def blkWord (b : Bool) (a : Nat) (v : Word) : Option Word :=
  if a = R.fsw_CONT_HOLD then some (v &&& 0x23F)
  else if pewterRegs.contains a || decide (a = R.mem_SCRUB_PASS) then some v
  else if a % 0x1000 < 0x40 then none
  else match findRow a with
    | none => none
    | some r => some (merge (r.pw ||| r.ws) (regDefault b a) v)

/-- The register file after a reset of one block. -/
def blkRegs (b : Bool) (k : Blk) (l : Sparse Word) : Sparse Word :=
  l.filterMap fun p =>
    if blkBase k ≤ p.1 ∧ p.1 < blkBase k + 0x1000 * blkPages k then
      match blkWord b p.1 p.2 with
      | none => none
      | some v => if v = regDefault b p.1 then none else some (p.1, v)
    else some p

/-- What a reset of a block does to its work before its registers fall: the unit is abandoned and queued work returns CANCELLED (R48). -/
def State.blkWork (s : State) (b : Blk) : State :=
  match b with
  | .mkt => s.mktReset
  | .lane n => let t := s.laneReset n.val; { t with mem := { t.mem with tcm := t.mem.tcm.filter fun p => p.1 / 0x20000 ≠ n.val } }
  | .que => let t := s.queReset; { t with mem := { t.mem with sram := [], sramPoison := [], sramFlips := [] } }
  | .chk => { s with chk := State.reset.chk }
  | .rad n => (s.rxAbort n.val).radReset n.val
  | .chn => s.chnReset
  | .cor => s.corReset
  | .lvl => s.lvlReset
  | .drv n => s.drvReset n.val
  | .drg => s.drgReset
  | .scl => (s.sclTail).sclReset
  | .vlt => s.vltReset
  | .cry => { s with cry := State.reset.cry, vlt := { s.vlt with drbg := none } }
  | .ldg => s.ldgReset
  | .ibg => s.ibgReset
  | .fov => s.fovReset
  | .upd => s.updReset
  | .mbx => s.mbxReset
  | .lnk => s.lnkKill.lnkDisable
  | .sys | .rst | .clk | .pwr | .pwt | .mem | .nvs | .emc | .bcn | .ntm | .fsw => s

/-- What a reset of a block sets once its registers have fallen. -/
def State.blkAfter (s : State) (b : Blk) (tm ring : Nat) : State :=
  match b with
  | .lnk => s.lnkReset
  | .bcn => s.bcnReset
  | .ntm => s.ntmReset tm
  | .lvl => s.ringAfterReset ring
  | .fsw => s.contFollow
  | _ => s

/-- R47-R50: a block is put into reset at once; one that is in reset only loses a pending release. -/
def State.blockReset (s : State) (b : Blk) : State :=
  match blkBit b with
  | none => s
  | some i =>
    let p := s.setRstBit R.rst_BLK_REL_PEND_A i false
    if s.inReset b then p
    else
      let tm := s.tmState
      let ring := s.ringSt
      let s := p.blkWork b
      let s := { s with regs := blkRegs s.modId.variantB b s.regs }
      (s.setRstBit R.rst_BLK_IN_RESET_A i true).blkAfter b tm ring

/-- The blocks that a word of a BLK register names. -/
def wordBits (hi : Bool) (v : Word) : List Nat :=
  if hi then (List.range 2).filterMap fun i => if tst v i then some (32 + i) else none
  else (List.range 32).filter fun i => tst v i

/-- A write of BLK_RST_SET_A or BLK_RST_SET_B. -/
def State.blkRstSet (s : State) (hi : Bool) (v : Word) : State :=
  (wordBits hi v).foldl (fun (t : State) i => match blkOfBit i with | some b => t.blockReset b | none => t) s

/-! ### Releases (R44, R49) -/

/-- The block belongs to step 6 of R44. -/
def isStep6 (i : Nat) : Bool := !([7, 8, 9, 20, 21, 22, 23, 24, 26, 27, 28].contains i)

/-- R49: a release is requested: it is pending until the block's clock is good. In a dead module the blocks of step 6 stay in reset (R460), and before the sequencer has come to a block's step its release is the sequencer's (R44). The lanes of a standby stay in reset (R16). -/
def State.relRequest (s : State) (i : Nat) : State :=
  let open_ := match s.boot.stage with
    | .booted => true
    | .dead => !isStep6 i
    | _ => false
  if open_ && !s.heldLane i && s.rstBit R.rst_BLK_IN_RESET_A i then s.setRstBit R.rst_BLK_REL_PEND_A i true else s

/-- A write of BLK_RST_CLR_A or BLK_RST_CLR_B. -/
def State.blkRstClr (s : State) (hi : Bool) (v : Word) : State := (wordBits hi v).foldl (fun (t : State) i => t.relRequest i) s

/-- BLOCK_RELEASE_REQUEST: a write of BLK_RST_CLR_A or, for `hi`, BLK_RST_CLR_B. -/
def execBlockReleaseRequest (m : Master) (hi : Bool) (v : Word) (s : State) : Host.Outcome State Fault Refusal :=
  .next (s.writeAt .rst (if hi then 0x5C else 0x58) m v fun t => (t.blkRstClr hi v).answer .done)

/-- R230: the firmware loads the radios' latencies from settings group 15, or as they were measured at manufacture, and locks the page. -/
def State.ntmLoad (s : State) : State :=
  let regs := (List.range 4).flatMap fun r => (List.range 4).map fun m => R.ntm_RXLATr_M0 r + 4 * m
  let t := regs.foldl (fun (t : State) a => t.wr a (Config.factoryLat a &&& 0xFFFFF)) s
  (t.loadGroup 15 (regs.map fun a => (a - blkBase .ntm, a))).wb (hdr .ntm oLock) 0 true

/-- What a block does as it leaves reset: SCL restores its totals (R333) and its set, CHN loads its table (R147) and NTM its latencies, MEM gets its map where the firmware runs (R134), FOV verifies its half (R443), COR stages its graph at a head (R263), and VLT and CRY run their power-up tests (R55). -/
def State.released (s : State) (b : Blk) (fails : List Nat) : State :=
  match b with
  | .scl => s.sclRestore.sclLoad
  | .chn => s.chnStart
  | .ntm => s.ntmLoad
  | .mem => if s.boot.stage = .booted then s.mapSetup else s
  | .fov => s.fovStart
  | .cor => if s.isHead then s.corStart else s
  | .vlt => s.powerUpTests fails
  | .cry => s.powerUpTests fails
  | _ => s

/-- R49: a pending release completes. -/
def State.blockRelease (s : State) (i : Nat) (fails : List Nat) : State :=
  if i < 34 && s.rstBit R.rst_BLK_REL_PEND_A i then
    let s := (s.setRstBit R.rst_BLK_REL_PEND_A i false).setRstBit R.rst_BLK_IN_RESET_A i false
    match blkOfBit i with
    | some b => s.released b fails
    | none => s
  else s

/-- BLOCK_RELEASE: 64 cycles after clock-good a pending release completes; `fails` lists the power-up tests that fail in it. -/
def execBlockRelease (bit : Nat) (fails : List Nat) (s : State) : Host.Outcome State Fault Refusal := .next (s.blockRelease bit fails)

/-- R49: a pending release is abandoned: the block stays in reset, and the failure is shown and recorded. -/
def State.relTimeout (s : State) (i : Nat) : State :=
  if i < 34 && s.rstBit R.rst_BLK_REL_PEND_A i then
    let s := (s.setRstBit R.rst_BLK_REL_PEND_A i false).setRstBit R.rst_BLK_REL_FAIL_A i true
    let s := s.err .rst eRelTimeout (if i < 32 then 0x58 else 0x5C) .block
    if s.boot.stage = .booted then s.ledger 0xE004 3 0x020 i 0 0 else s
  else s

/-- RELEASE_TIMEOUT: clock-good has not come 10 ms after the request. -/
def execReleaseTimeout (bit : Nat) (s : State) : Host.Outcome State Fault Refusal := .next (s.relTimeout bit)

end Sys2Proof.Machine
end

