-- ==== Sys2Proof/Machine/Control.lean ====
section
/-! DEFINITION. PAGE_CTRL: enable, drain and kill of every block (R68, R69). -/

namespace Sys2Proof.Machine

open Sys2Proof

/-- PAGE_STAT.BUSY: a unit of work of the block is in progress. A block whose unit is a single command of this model is never inside one. -/
def State.unitBusy (s : State) (b : Blk) : Bool :=
  match b with
  | .mkt => (s.mkt.lanes.any fun l => l.running.isSome) || (s.mkt.bufs.any fun p => p.any fun x => x.isSome)
  | .lane n => (s.laneSt n.val).running.isSome
  | .chk => !s.chkIdle
  | .rad n => s.radBusy n.val
  | .lnk => (List.range 4).any fun r => s.radBusy r
  | .cor => s.cor.run.isSome
  | .drv n => decide ((s.port' n.val).st = .disabling)
  | .vlt => !s.vlt.ops.isEmpty && !s.drained .vlt
  | .cry => s.cry.run.isSome
  | .ldg => !s.en .ldg && !s.ldg.fifo.isEmpty
  | .upd => decide (s.upd.st = .copying) || (s.en .upd && decide (s.upd.st = .applying))
  | .fsw => s.fsw.seq.isSome && !s.en .fsw
  | .bcn => s.bcn.win.isSome || (s.runs .bcn && s.windowOpen)
  | .sys | .rst | .clk | .pwr | .pwt | .que | .mem | .nvs | .emc | .chn | .ntm | .lvl | .drg | .scl | .ibg | .fov | .mbx => false

/-- A drain whose unit has ended is complete (R68). -/
def State.drainDone (s : State) (b : Blk) : State := if s.draining b && !s.unitBusy b then s.setDrained b else s

/-- Let hardware producers push what every queue has room for (R121). -/
def State.queResume (s : State) : State :=
  ((List.range 16).foldl (fun (t : State) q => hwDrain ((t.queue q).hw.length + 1) q t) s).writeComps

/-- The Market takes what hardware producers hold, and lanes that wait start what their slots hold (R108). -/
def State.mktResume (s : State) : State :=
  let s := s.mktRoom
  (List.range 4).foldl (fun (t : State) n => if (t.laneSt n).stalled then t.startLane n else t) s

/-- What a block takes up again once it takes work: after EN is set or DRAIN is cleared. -/
def State.resumeBlk (s : State) (b : Blk) : State :=
  match b with
  | .mkt => s.mktResume
  | .lane n => if (s.laneSt n.val).stalled then s.startLane n.val else s
  | .que => s.queResume
  | .drv n => s.drvResume n.val
  | .scl => s.sclResume
  | .ldg => s.lateFlush
  | .sys | .rst | .clk | .pwr | .pwt | .chk | .mem | .nvs | .emc | .rad _ | .chn | .lnk | .bcn | .ntm | .cor | .lvl | .drg | .fsw
  | .vlt | .cry | .ibg | .fov | .upd | .mbx => s

/-- What setting EN begins in a block. -/
def State.enableBlk (s : State) (b : Blk) : State :=
  match b with
  | .drv n => s.drvEnable n.val
  | .scl => s.sclEnable
  | .lvl => s.lvlEnable
  | .mbx => s.hostUpdate
  | .mkt | .lane _ | .que | .ldg => s.resumeBlk b
  | .sys | .rst | .clk | .pwr | .pwt | .chk | .mem | .nvs | .emc | .rad _ | .chn | .lnk | .bcn | .ntm | .cor | .drg | .fsw
  | .vlt | .cry | .ibg | .fov | .upd => s

/-- R68: EN is cleared while the block works: its queued work returns CANCELLED and the drain begins. -/
def State.disableBlk (s : State) (b : Blk) : State :=
  match b with
  | .mkt => s.mktCancel
  | .lane n => s.laneDrainCheck n.val
  | .rad n => s.radDrain n.val
  | .lnk => s.lnkDisable.lnkDrain
  | .ntm => s.ntmDisable.drainDone .ntm
  | .lvl => s.lvlDisable.drainDone .lvl
  | .drv n => s.drvDisable n.val
  | .scl => s.sclDisable
  | .fsw => s.fswDisable
  | .vlt => s.vltCancel.drainDone .vlt
  | .cry => ({ s with cry := { s.cry with wait := none } }).drainDone .cry
  | .ldg => s.saveSeries.drainDone .ldg
  | .fov => s.fovDisable
  | .upd => s.updDisable
  | .mbx => s.hostUpdate.drainDone .mbx
  | .bcn => s.bcnStop.drainDone .bcn
  | .sys | .rst | .clk | .pwr | .pwt | .que | .chk | .mem | .nvs | .emc | .chn | .cor | .drg | .ibg => s.drainDone b

/-- R69: EN is cleared while DRAIN = 1 and DRAINED = 1: the held work returns CANCELLED at once. -/
def State.cancelHeld (s : State) (b : Blk) : State :=
  match b with
  | .mkt => s.mktCancel
  | .lane n => s.slotsBack n.val
  | .rad n => s.lnkCancel n.val
  | .lnk => s.lnkDisable
  | .vlt => s.vlt.ops.foldl (fun (t : State) o => t.opAnswer o vCancelled []) { s with vlt := { s.vlt with ops := [] } }
  | .cry => { s with cry := { s.cry with wait := none } }
  | .scl => (s.scl.held.foldl (fun (t : State) w => t.wareDone w 0x01) { s with scl := { s.scl with held := [] } }).sclDisable
  | .ntm => s.ntmDisable
  | .lvl => s.lvlDisable
  | .drv n => s.drvDisable n.val
  | .fsw => s.fswDisable
  | .ldg => s.saveSeries
  | .fov => s.fovDisable
  | .upd => s.updDisable
  | .mbx => s.hostUpdate
  | .sys | .rst | .clk | .pwr | .pwt | .que | .chk | .mem | .nvs | .emc | .chn | .bcn | .cor | .drg | .ibg => s

/-- R68: DRAIN is set while EN = 1: the block pauses after its current unit. -/
def State.pauseBlk (s : State) (b : Blk) : State :=
  match b with
  | .mkt => s.takersOff.drainDone .mkt
  | .rad n => s.radDrain n.val
  | .drv n => s.drvPause n.val
  | .bcn => s.bcnStop.drainDone .bcn
  | .sys | .rst | .clk | .pwr | .pwt | .lane _ | .que | .chk | .mem | .nvs | .emc | .chn | .lnk | .ntm | .cor | .lvl | .drg
  | .scl | .fsw | .vlt | .cry | .ldg | .ibg | .fov | .upd | .mbx => s.drainDone b

/-- R69: the unit of a draining block is truncated as its chapter defines. -/
def State.killBlk (s : State) (b : Blk) : State :=
  match b with
  | .chk => s.chkKill
  | .rad n => (s.rxAbort n.val).radKill n.val
  | .lnk => s.lnkKill
  | .drv n => s.drvDrained n.val
  | .vlt => s.vltKill
  | .cry => { s with cry := { s.cry with run := none } }.wr R.cry_TEST_STAT 0
  | .sys | .rst | .clk | .pwr | .pwt | .mkt | .lane _ | .que | .mem | .nvs | .emc | .chn | .bcn | .ntm | .cor | .lvl | .drg
  | .scl | .fsw | .ldg | .ibg | .fov | .upd | .mbx => s

/-- Store PAGE_CTRL.EN and DRAIN. -/
def State.setCtrl (s : State) (b : Blk) (en drain : Bool) : State := (s.wb (hdr b oCtrl) 0 en).wb (hdr b oCtrl) 1 drain

/-- Clear PAGE_STAT.DRAINED. -/
def State.undrain (s : State) (b : Blk) : State := s.wb (hdr b oStat) 1 false

/-- R69: a write of 1 to KILL. -/
def State.killReq (s : State) (b : Blk) (m : Master) : State :=
  if blkKill b && s.draining b then ((s.wb (hdr b oStat) 5 true).killBlk b).drainDone b else s.err b eKillIgnored oCtrl m

/-- R68, R69: the EN and DRAIN bits of a write of PAGE_CTRL. EN set again during a drain is refused with BUSY and answers none. -/
def State.enDrain (s : State) (b : Blk) (en drain : Bool) : Option State :=
  if s.en b then
    if en then
      if drain && !s.drainBit b then some ((s.setCtrl b true true).pauseBlk b)
      else if !drain && s.drainBit b then some (((s.setCtrl b true false).undrain b).resumeBlk b)
      else some s
    else if s.drained b then some ((s.setCtrl b false drain).cancelHeld b)
    else some ((s.setCtrl b false drain).disableBlk b)
  else if !en then some (s.setCtrl b false drain)
  else if !s.drained b then none
  else
    let s := ((s.setCtrl b true drain).undrain b).enableBlk b
    some (if drain then s.pauseBlk b else s)

/-- R16: Scales of a standby is disabled until the takeover: EN stays 0, and a write of 1 is not recorded (DESIGN CHOICE, log 13). -/
def State.keptOff (s : State) (b : Blk) : Bool := decide (b = .scl) && s.isStandby

/-- A write of PAGE_CTRL (R67-R69). A block without a drain keeps EN = 1: a write of 0 is refused with BAD_VALUE (R363), and DRAIN reads 0. RST_REQ wins over the other bits (R69). -/
def State.ctrlWrite (s : State) (b : Blk) (m : Master) (v : Word) : State :=
  if tst v 3 && (blkBit b).isSome then s.blockReset b
  else if !blkDrain b then
    let s := if tst v 0 then s else s.err b eBadValue oCtrl m
    if tst v 2 then s.killReq b m else s
  else
    match s.enDrain b (tst v 0 && !s.keptOff b) (tst v 1) with
    | none => s.err b eBusy oCtrl m
    | some t => if tst v 2 then t.killReq b m else t

end Sys2Proof.Machine
end

