-- ==== Sys2Proof/Machine/Bus.lean ====
section
/-! DEFINITION. The buses: reads and writes of every register of BAR0 by access type (R11-R13, R65-R71), and the internal masters' view of the stores (R141). -/

namespace Sys2Proof.Machine

open Sys2Proof

/-! ### Writes -/

/-- A write of a header register (R67). -/
def State.hdrWrite (s : State) (b : Blk) (m : Master) (off : Nat) (v : Word) : State :=
  if off = oCtrl then s.ctrlWrite b m v
  else if off = oStat then s.wr (hdr b oStat) (s.rd (hdr b oStat) &&& ~~~(v &&& 0x24))
  else if off = oRaw then s.irqClear b v
  else if off = oEn then s.irqEnable b v
  else if off = 0x2C then s.irqBits b v
  else if off = oLock then (if tst v 0 then s.wb (hdr b oLock) 0 true else s)
  else s

/-- RST registers written by a rule of their own. -/
def State.rstWrite (s : State) (m : Master) (off : Nat) (v : Word) : Option State :=
  if off = 0x4C then some (s.swReset m v)
  else if off = 0x50 ∨ off = 0x54 then some (s.blkRstSet (decide (off = 0x54)) v)
  else if off = 0x58 ∨ off = 0x5C then some (s.blkRstClr (decide (off = 0x5C)) v)
  else none

/-- Stage word i of a submit window. -/
def State.stageWare (s : State) (win i : Nat) (v : Word) : State :=
  { s with mkt := { s.mkt with stage := Sparse.put s.mkt.stage (8 * win + i) v } }

/-- A write of word i of the submit window of a master: the last word submits (R86). -/
def State.windowWrite (s : State) (owner : Master) (i : Nat) (v : Word) : State :=
  match submitWin owner with
  | none => s
  | some win => if i = 7 then s.submit owner v else s.stageWare win i v

/-- MKT registers written by a rule of their own. -/
def State.mktWrite (s : State) (m : Master) (p off : Nat) (v : Word) : Option State :=
  if p = 0 then
    if 0x80 ≤ off ∧ off < 0xA0 then some (s.classCfg m ((off - 0x80) / 4) v)
    else if off = 0xA4 then some (s.domCfgWrite m v)
    else if off = 0xAC then some (s.setCtr (s.rf R.mkt_CTR_SEL 0 10) (fld v 0 16))
    else if off = 0xB0 then some (s.addCtr v)
    else none
  else if 0x40 ≤ off ∧ off < 0x60 then some (s.windowWrite .host ((off - 0x40) / 4) v)
  else if 0x60 ≤ off ∧ off < 0x80 then some (s.windowWrite .svc ((off - 0x60) / 4) v)
  else if off = 0x88 then some (s.retirePort 0 m v)
  else if off = 0x98 then some (s.retirePort 1 m v)
  else none

/-- QUE registers written by a rule of their own. -/
def State.queWrite (s : State) (m : Master) (p off : Nat) (v : Word) : Option State :=
  if p = 0 then
    if 0x100 ≤ off ∧ off < 0x300 ∧ off % 0x20 = 0 then some (s.qcfg m ((off - 0x100) / 0x20) v)
    else if 0x100 ≤ off ∧ off < 0x300 ∧ off % 0x20 = 4 then some (s.qct m ((off - 0x100) / 0x20) v)
    else none
  else if p = 1 ∧ 0x40 ≤ off ∧ off < 0xC0 then
    let q := (off - 0x40) / 8
    some (if off % 8 = 0 then { s with que := { s.que with pushLo := Sparse.put s.que.pushLo (16 * masterIx m + q) v } }
      else s.qpush m q v)
  else none

/-- CHK registers written by a rule of their own. The parameters of an enabled unit stand (R69). -/
def State.chkWrite (s : State) (m : Master) (off : Nat) (v : Word) : Option State :=
  if off < 0x100 ∨ 0x200 ≤ off then none
  else
    let u := (off - 0x100) / 0x20
    let o := off % 0x20
    if o = 0 then some (s.ccfg m u v)
    else if o = 0x10 then some (s.cval m u v)
    else if (o = 4 ∨ o = 8 ∨ o = 0xC) ∧ s.rb (R.chk_CCFGu u) 0 then some (s.err .chk eBusy off m)
    else none

/-- CHN registers written by a rule of their own. -/
def State.chnWrite (s : State) (m : Master) (off : Nat) (v : Word) : Option State :=
  if off = 0x54 then some (s.hopCommit m v) else if chnBad off v then some (s.err .chn eBadValue off m) else none

/-- COR registers written by a rule of their own. -/
def State.corWrite32 (s : State) (m : Master) (p off : Nat) (v : Word) : Option State :=
  if p ≠ 0 then none else if corBad off v then some (s.err .cor eBadValue off m) else s.corCtrl m off v

/-- LVL registers written by a rule of their own. -/
def State.lvlWrite (s : State) (m : Master) (off : Nat) (v : Word) : Option State :=
  if off = 0x60 then some (s.modeCtrl m v) else (s.lvlRefuses off v).map fun e => s.err .lvl e off m

/-- VLT registers written by a rule of their own. -/
def State.vltWrite' (s : State) (m : Master) (off : Nat) (v : Word) : Option State :=
  if off = 0x74 then some (s.zeroizeReg m v) else s.vltWrite m off v

/-- Registers above the header written by a rule of their own, by block and page; none where the access type alone decides. -/
def State.ownWrite (s : State) (b : Blk) (m : Master) (p off : Nat) (v : Word) : Option State :=
  match b with
  | .sys => s.sysWrite m off v
  | .rst => s.rstWrite m off v
  | .pwr => s.pwrWrite m off v
  | .pwt => s.pwtWrite m off v
  | .mkt => s.mktWrite m p off v
  | .lane n => if off = 0x44 then some (s.wdogWrite n.val m v) else none
  | .que => s.queWrite m p off v
  | .chk => s.chkWrite m off v
  | .mem => if s.memBad off v then some (s.err .mem eBadValue off m) else none
  | .rad n => s.radWrite m n.val off v
  | .chn => s.chnWrite m off v
  | .lnk => if p = 0 then s.lnkWrite m off v else s.routeWrite m off v
  | .bcn => s.bcnWrite m off v
  | .ntm => s.ntmWrite m off v
  | .cor => s.corWrite32 m p off v
  | .lvl => s.lvlWrite m off v
  | .drv n => s.drvWrite m n.val off v
  | .drg => s.drgWrite m off v
  | .scl => if p = 0 then s.sclWrite0 m off v else s.balWrite m off v
  | .fsw => s.fswWrite m off v
  | .vlt => s.vltWrite' m off v
  | .cry => s.cryWrite m off v
  | .ldg => s.ldgWrite m off v
  | .ibg => s.ibgWrite m off v
  | .fov => s.fovWrite m off v
  | .mbx => s.mbxWrite m off v
  | .clk | .nvs | .emc | .upd => none

/-- The register at an address has RWL fields. -/
def rowLocks (a : Nat) : Bool := match findRow a with | some r => decide (r.lk ≠ 0) | none => false

/-- A write to a register of a page (R11): refused and recorded as LOCKED where the lock holds it (R71), otherwise by the rule of the register, or by its access type. -/
def State.pageStore (s : State) (b : Blk) (m : Master) (p off : Nat) (v : Word) : State :=
  let a := blkBase b + 0x1000 * p + off
  if off < 0x40 then s.hdrWrite b m off v
  else if s.locked b && rowLocks a then s.err b eLocked off m
  else match s.ownWrite b m p off v with
    | some t => t
    | none => s.plainWrite b a m v

/-- A word written at a BAR0 offset. -/
def State.regWrite (s : State) (m : Master) (a : Nat) (v : Word) : State :=
  if isMsix a then s.onPage .sys (a % 0x1000) m fun t => (t.msixWrite a v).answer .done
  else match blkOfPage (a / 0x1000) with
    | none => s.unmappedAccess m true a
    | some (b, p) => s.pageWrite b (a % 0x1000) m fun t => t.pageStore b m p (a % 0x1000) v

/-! ### Reads -/

/-- PAGE_STAT as read. -/
def State.pageStat (s : State) (b : Blk) : Word :=
  let v := s.rd (hdr b oStat)
  setBit (setBit (setBit v 0 (s.unitBusy b)) 3 (decide (s.rd (hdr b oErr) ≠ 0))) 4 (s.locked b)

/-- A header register as read (R67). -/
def State.hdrRead (s : State) (b : Blk) (p off : Nat) : Word :=
  if off = 0 then pageId b p
  else if off = 4 then pageCap b p
  else if off = oCtrl then s.rd (hdr b oCtrl)
  else if off = oStat then s.pageStat b
  else if off = oRaw then s.rd (hdr b oRaw)
  else if off = oEn then s.rd (hdr b oEn)
  else if off = 0x28 then s.irqStat b
  else if off = oErr then s.rd (hdr b oErr)
  else if off = oLock then s.rd (hdr b oLock)
  else 0

/-- The channel that RAD_STAT shows. -/
def State.radChan (s : State) (r : Nat) : Nat :=
  match (s.radio r).rx, (s.radio r).air with
  | some x, _ => x.chan
  | none, some y => y.chan
  | none, none => s.rxChan r s.tick s.cnt

/-- EMC registers that show the device: set up by the boot ROM for HS400 on eight bits (R138), with a user area of at least 57,344 MiB. -/
def State.emcRead (s : State) (off : Nat) : Option Word :=
  if off = 0x40 then some (if decide (s.boot.stage = .booted) || decide (s.boot.stage = .dead) then 0xF else 0)
  else if off = 0x44 then some (w32 (117440512 + Config.emcExtra.val))
  else none

/-- Registers above the header whose value is not stored, by block and page. -/
def State.ownRead (s : State) (b : Blk) (m : Master) (p off : Nat) : Option Word :=
  match b with
  | .sys => s.sysRead off
  | .pwr => s.pwrRead off
  | .pwt => s.pwtRead off
  | .mkt => s.mktRead p off
  | .lane n => s.laneRead n.val off
  | .que =>
    if p = 0 then s.queRead off
    else if p = 3 ∧ 0x40 ≤ off ∧ off < 0xC0 then some (if off % 8 = 0 then s.qpeekHi ((off - 0x40) / 8) else s.qpeekLo ((off - 0x40) / 8))
    else if p = 2 ∧ 0x40 ≤ off ∧ off < 0xC0 ∧ off % 8 = 4 then some ((Sparse.find s.que.popLo (16 * masterIx m + (off - 0x40) / 8)).getD 0)
    else none
  | .rad n => s.radRead (s.radChan n.val) n.val off
  | .chn => s.chnRead off
  | .lnk => if p = 0 then s.lnkRead off else none
  | .bcn => s.bcnRead off
  | .ntm => s.ntmRead off
  | .cor => s.corRead32 (0x1000 * p + off)
  | .lvl => s.lvlRead off
  | .drv n => s.drvRead n.val off
  | .drg => s.drgRead off
  | .scl => if p = 0 then s.sclRead0 off else s.sclRead1 off
  | .fsw => s.fswRead off
  | .vlt => s.vltRead m off
  | .cry => s.cryRead off
  | .ldg => s.ldgRead m off
  | .ibg => s.ibgRead off
  | .fov => s.fovRead off
  | .upd => s.updRead off
  | .mbx => if off = 0x68 then some s.mbxStat else none
  | .nvs => if off = 0x40 then some 1 else none
  | .emc => s.emcRead off
  | .rst | .clk | .chk | .mem => none

/-- The value of a register of a page. -/
def State.pageVal (s : State) (b : Blk) (m : Master) (p off : Nat) : Word :=
  if off < 0x40 then s.hdrRead b p off else (s.ownRead b m p off).getD (s.rd (blkBase b + 0x1000 * p + off))

/-- The bits of a register that a read clears (R13). -/
def rcMask (b : Blk) (p off : Nat) : Word :=
  if off < 0x40 then (if off = oErr then 0xFFFFFFFF else 0)
  else match findRow (blkBase b + 0x1000 * p + off) with | some r => r.rc | none => 0

/-- µs since the last tick edge. -/
def State.usNow (s : State) : Nat := (s.cnt - s.edgeCnt).toNat / 250

/-- A read of a take port (R102): answered at once, or the master waits; a poll never waits. -/
def State.portRead (s : State) (m : Master) (port : Nat) (poll : Bool) : State :=
  let r := s.takeTry port s.usNow
  match r.2 with
  | some w => r.1.answer (.data w)
  | none =>
    if poll then r.1.answer (.data (reasonWord 0x01))
    else ({ r.1 with mkt := { r.1.mkt with takers := r.1.mkt.takers ++ [(port, m)] } }).answer .stalled

/-- A read of CRESULT clears it and OVR (R123). -/
def State.cresultRead (s : State) (u : Nat) : State :=
  let v := s.rd (R.chk_CRESULTu u)
  let s := (s.wr (R.chk_CRESULTu u) 0).setUnit u { s.unit u with unread := false }
  (s.irqClear .chk (bitw (8 + u))).answer (.data v)

/-- Reads with an effect of their own, by block and page. -/
def State.actRead (s : State) (b : Blk) (m : Master) (p off : Nat) : Option State :=
  match b with
  | .mkt =>
    if p = 0 then (if off = 0x58 then some ((s.answer (.data (w32 s.mkt.high))).heldHwRead) else none)
    else if off = 0x80 ∨ off = 0x84 then some (s.portRead m 0 (decide (off = 0x84)))
    else if off = 0x90 ∨ off = 0x94 then some (s.portRead m 1 (decide (off = 0x94)))
    else none
  | .que =>
    if p = 2 ∧ 0x40 ≤ off ∧ off < 0xC0 ∧ off % 8 = 0 then
      let r := s.qpop m ((off - 0x40) / 8)
      some (r.1.answer (.data r.2))
    else none
  | .chk => if 0x100 ≤ off ∧ off < 0x200 ∧ off % 0x20 = 0x14 then some (s.cresultRead ((off - 0x100) / 0x20)) else none
  | .ntm =>
    if off = 0x48 then
      some ({ s with ntm := { s.ntm with cntHi := w32 (s.cnt.toNat / 2 ^ 32) } }.answer (.data (w32 s.cnt.toNat)))
    else if off = 0xB8 then some s.tickRead
    else none
  | .pwt =>
    if off = 0x50 then some (((s.draw 1).rtcLatch (Config.freeBelow s.free 32767).val).answer (.data s.pwt.cal.timeWord)) else none
  | .pwr => if off = 0x50 ∨ (0x70 ≤ off ∧ off < 0x80 ∧ off % 4 = 0) then some ((s.draw 1).answer (.data (w32 (Config.freeBelow s.free 65535).val))) else none
  | .emc => if off = 0x48 then some ((s.draw 1).answer (.data (w32 (Config.freeBelow s.free 0xFFFFFF).val))) else none
  | .ldg =>
    if off = 0x48 then some ({ s with ldg := { s.ldg with opLatch := s.opTime } }.answer (.data (w32 (s.opTime / 250000000))))
    else if off = 0xDC then some (s.win7Read m)
    else none
  | .sys | .rst | .clk | .lane _ | .mem | .nvs | .rad _ | .chn | .lnk | .bcn | .cor | .lvl | .drv _ | .drg | .scl
  | .fsw | .vlt | .cry | .ibg | .fov | .upd | .mbx => none

/-- A read of a register of a page: its value, with RC bits cleared (R13), or the effect of its own rule. -/
def State.pageLoad (s : State) (b : Blk) (m : Master) (p off : Nat) : State :=
  match s.actRead b m p off with
  | some t => t
  | none =>
    let v := s.pageVal b m p off
    let k := rcMask b p off
    let a := if off < 0x40 then hdr b off else blkBase b + 0x1000 * p + off
    (if k = 0 then s else s.wr a (s.rd a &&& ~~~k)).answer (.data v)

/-- A word read at a BAR0 offset. In a dead module UPD answers reads although it stays in reset (R460). -/
def State.regRead (s : State) (m : Master) (a : Nat) : State :=
  if isMsix a then s.onPage .sys (a % 0x1000) m fun t => t.answer (.data (t.msixRead a))
  else match blkOfPage (a / 0x1000) with
    | none => s.unmappedAccess m false a
    | some (b, p) =>
      if decide (s.boot.stage = .dead) && decide (b = .upd) then s.answer (.data (s.pageVal b m p (a % 0x1000)))
      else s.onPage b (a % 0x1000) m fun t => t.pageLoad b m p (a % 0x1000)

/-! ### The stores as internal masters see them (R141) -/

/-- The place that an internal address names for the service core and the Porters. -/
def svcLoc (a : Nat) : Option PorterLoc :=
  if 0x8000000 ≤ a ∧ a < 0x8080000 then some (.tcm (a - 0x8000000))
  else if 0x9000000 ≤ a ∧ a < 0x90C2000 then some (.cor (a - 0x9000000))
  else if 0x10000000 ≤ a ∧ a < 0x10400000 then some (.sram (a - 0x10000000))
  else if 0x30000000 ≤ a ∧ a < 0x30800000 then some (.nvs (a - 0x30000000))
  else if 0x1000000000 ≤ a ∧ a < 0x1000000000 + dramSize then some (.dram (a - 0x1000000000))
  else none

/-- The place that an address of lane n names; DRAM is seen through the lane's two windows. -/
def State.laneLoc (s : State) (n a : Nat) : Option PorterLoc :=
  let win (k : Nat) : Option PorterLoc :=
    let d := s.rf (0x11090 + 8 * n + 4 * k) 0 5 * 2 ^ 28 + a % 0x40000000
    if d < dramSize then some (.dram d) else none
  if a < 0x20000 then some (.tcm (0x20000 * n + a))
  else if 0x10000000 ≤ a ∧ a < 0x10400000 then some (.sram (a - 0x10000000))
  else if 0x30000000 ≤ a ∧ a < 0x30800000 then some (.nvs (a - 0x30000000))
  else if 0x40000000 ≤ a ∧ a < 0x80000000 then win 0
  else if 0x80000000 ≤ a ∧ a < 0xC0000000 then win 1
  else none

/-- The place that a master's address names. -/
def State.busLoc (s : State) (m : Master) (a : Nat) : Option PorterLoc :=
  match m with
  | .host => none
  | .lane n => s.laneLoc n.val a
  | .svc | .porter _ | .block | .rom => svcLoc a

/-- The writer that NVS sees behind a master. -/
def nvsWho : Master → NvsWriter
  | .host => .host | .svc => .svc | .lane n => .lane n.val | .porter _ => .porter | .block => .svc | .rom => .svc

/-- A word written to a store. A place that does not exist ends in a bus error. -/
def State.storeWrite (s : State) (m : Master) (l : Option PorterLoc) (v : Word) : State :=
  match l with
  | none => s.answer .busError
  | some l =>
    match s.locShut l with
    | some b => (s.err b eDropped 0 m).answer .busError
    | none =>
      match l with
      | .nvs a => (s.nvsWrite (nvsWho m) a (toLe 4 v.toNat)).answer .done
      | .dram a => (s.dramStore m a (toLe 4 v.toNat)).answer .done
      | _ => (s.porterWrite l (toLe 4 v.toNat)).answer .done

/-- A word read from a store; a poisoned codeword, or an NVS word that cannot be corrected, ends in a bus error (R131, R135, R136). -/
def State.storeRead (s : State) (m : Master) (l : Option PorterLoc) : State :=
  match l with
  | none => s.answer .busError
  | some l =>
    match s.locShut l with
    | some b => (s.err b eDropped 0 m).answer .busError
    | none =>
      match l with
      | .dram a => let r := s.dramFetch m a 4; (match r.2 with | some x => r.1.answer (.data (leWord x 0)) | none => r.1.answer .busError)
      | _ => let r := s.porterRead l 4; if r.2.2 then r.1.answer (.data (leWord r.2.1 0)) else r.1.answer .busError

/-- A lane's own windows: the ware window, RETIRE and the submit window (R84, R141). -/
def State.laneLocal (s : State) (n : Fin 4) (a : Nat) (w : Option Word) : Option State :=
  if 0x20000 ≤ a ∧ a < 0x20020 ∧ w = none then
    some (s.onPage .mkt 0 (.lane n) fun t =>
      let u := t.windowRead n.val
      match u.resp with
      | .bytes b => u.answer (.data (leWord b (a - 0x20000)))
      | _ => u)
  else match w with
    | some v =>
      if a = 0x20020 then some (s.onPage .mkt 0 (.lane n) fun t => (t.retireLane n.val v).answer .done)
      else if 0x20040 ≤ a ∧ a < 0x20060 then some (s.onPage .mkt 0 (.lane n) fun t => (t.windowWrite (.lane n) ((a - 0x20040) / 4) v).answer .done)
      else none
    | none => none

/-- A lane in reset makes no access. -/
def State.laneHeld (s : State) (m : Master) : Bool := match m with | .lane n => s.inReset (.lane n) | _ => false

/-- A word written by a master at its own address. -/
def State.busWrite (s : State) (m : Master) (a : Nat) (v : Word) : State :=
  match busOff m a with
  | some off => s.barReq m (.write off v) fun t => t.regWrite m off v
  | none =>
    match m with
    | .lane n => (s.laneLocal n a (some v)).getD (s.storeWrite m (s.busLoc m a) v)
    | _ => if a < 0x20000 then s.answer .busError else s.storeWrite m (s.busLoc m a) v

/-- The boot ROM's word at an address. -/
def romWord (a : Nat) : Word := leWord ((List.range 4).map fun i => Config.romByte (a + i)) 0

/-- A word read by a master at its own address. -/
def State.busRead (s : State) (m : Master) (a : Nat) : State :=
  match busOff m a with
  | some off => s.barReq m (.read off) fun t => t.regRead m off
  | none =>
    match m with
    | .lane n => (s.laneLocal n a none).getD (s.storeRead m (s.busLoc m a))
    | _ => if a < 0x20000 then s.answer (.data (romWord a)) else s.storeRead m (s.busLoc m a)

/-! ### Host requests that waited behind a blocked TAKE1 read (R104) -/

/-- Serve one request of the host that has waited. A write is posted; a read is answered now, unless it is a take that blocks in its turn. -/
def State.bar0Serve (s : State) (r : Bar0Req) : State :=
  let done (t : State) : State := if t.resp = .stalled then t else t.emit (.bar0Done t.resp)
  match r with
  | .read a => done (s.regRead .host a)
  | .write a v => s.regWrite .host a v
  | .narrow wr a => if wr then s.narrow .host true a else done (s.narrow .host false a)
  | .multiDw wr a => if wr then s.multiDw true a else done (s.multiDw false a)

/-- Serve the requests that wait, oldest first, until one of them blocks again. -/
def bar0Queue : List Bar0Req → State → State
  | [], s => s
  | r :: l, s =>
    if s.hostBlocked then { s with host := { s.host with bar0Held := r :: l } } else bar0Queue l (s.bar0Serve r)

/-- R104: once no read of a take register blocks any more, the requests behind it are served. The answer to the access that freed them stays. -/
def State.hostFlush (s : State) : State :=
  if s.host.bar0Held.isEmpty || s.hostBlocked then s
  else { bar0Queue s.host.bar0Held { s with host := { s.host with bar0Held := [] } } with resp := s.resp }

/-- WARE_DISPATCH: the Market serves one slot or one reader. -/
def execWareDispatch (c : Consumer) (us cycles : Nat) (s : State) : Host.Outcome State Fault Refusal :=
  .next (s.dispatch c us cycles).hostFlush

/-- TAKE_TIMEOUT: the reader that has waited longest at a port gets TIMEOUT. -/
def execTakeTimeout (port : Fin 2) (s : State) : Host.Outcome State Fault Refusal :=
  .next (s.takeTimeout port.val).hostFlush

/-- BLOCK_RESET: a write of BLK_RST_SET_A or, for `hi`, BLK_RST_SET_B. -/
def execBlockReset (m : Master) (hi : Bool) (v : Word) (s : State) : Host.Outcome State Fault Refusal :=
  .next (s.writeAt .rst (if hi then 0x54 else 0x50) m v fun t => (t.blkRstSet hi v).answer .done).hostFlush

/-- PAGE_RST_REQ: PAGE_CTRL.RST_REQ of a block. -/
def execPageRstReq (m : Master) (b : Blk) (s : State) : Host.Outcome State Fault Refusal :=
  .next (s.writeAt b oCtrl m (s.rd (hdr b oCtrl) ||| 8) fun t => (t.blockReset b).answer .done).hostFlush

/-- A write of PAGE_CTRL that changes its present value by a function. -/
def State.ctrlChange (s : State) (b : Blk) (m : Master) (f : Word → Word) : State :=
  (s.hdrReq b oCtrl m (f (s.rd (hdr b oCtrl))) fun t => t.ctrlWrite b m (f (t.rd (hdr b oCtrl)))).hostFlush

/-- BLOCK_ENABLE: a write that sets EN. -/
def execBlockEnable (m : Master) (b : Blk) (s : State) : Host.Outcome State Fault Refusal :=
  .next (s.ctrlChange b m fun v => setBit v 0 true)

/-- BLOCK_DISABLE: a write that clears EN. -/
def execBlockDisable (m : Master) (b : Blk) (s : State) : Host.Outcome State Fault Refusal :=
  .next (s.ctrlChange b m fun v => setBit v 0 false)

/-- DRAIN_SET: a write that sets DRAIN. -/
def execDrainSet (m : Master) (b : Blk) (s : State) : Host.Outcome State Fault Refusal :=
  .next (s.ctrlChange b m fun v => setBit v 1 true)

/-- DRAIN_CLEAR: a write that clears DRAIN. -/
def execDrainClear (m : Master) (b : Blk) (s : State) : Host.Outcome State Fault Refusal :=
  .next (s.ctrlChange b m fun v => setBit v 1 false)

/-- DRAIN_COMPLETE: the current unit of a draining block ends: the disable fade of a drive port, or a unit that another command has ended. -/
def execDrainComplete (b : Blk) (s : State) : Host.Outcome State Fault Refusal :=
  .next (match b with
    | .drv n => ((s.drvFaded n.val).drvDrained n.val).drainDone b
    | _ => s.drainDone b)

/-- KILL: a write that sets KILL. -/
def execKill (m : Master) (b : Blk) (s : State) : Host.Outcome State Fault Refusal :=
  .next (s.ctrlChange b m fun v => setBit v 2 true)

/-- REGISTER_WRITE: a word written at a master's address: a BAR0 offset for the host, an internal address for the others (R11, R141). -/
def execRegisterWrite (m : Master) (addr : Nat) (v : Word) (s : State) : Host.Outcome State Fault Refusal :=
  .next (if s.laneHeld m then s else (s.busWrite m addr v).hostFlush)

/-- RC_READ: a word read at a master's address; the RC bits that it returns are cleared (R13). -/
def execRcRead (m : Master) (addr : Nat) (s : State) : Host.Outcome State Fault Refusal :=
  .next (if s.laneHeld m then s else s.busRead m addr)

/-! ### Traffic of DRAM, with the reset that an uncorrectable error in a critical region brings (R132) -/

/-- APERTURE_SWITCH: the new base comes into force and the held accesses are served there. -/
def execApertureSwitch (s : State) : Host.Outcome State Fault Refusal :=
  .next (match s.host.aptNext with
    | none => s
    | some b =>
      let l := s.host.aptHeld
      (bar2Held l { s with host := { s.host with aptBase := b, aptNext := none, aptHeld := [] } }).critReset)

/-- BAR2_ACCESS: served at the base in force, or held after a commit until the switch. -/
def execBar2Access (a : Bar2Access) (s : State) : Host.Outcome State Fault Refusal :=
  .next (if s.host.aptNext.isSome then { s with host := { s.host with aptHeld := s.host.aptHeld ++ [a] } }.answer .stalled
    else let y := s.bar2Serve a; (y.1.answer y.2).critReset)

/-- SCRUB_BURST: the scrubber reads its next burst, with the errors that the array shows. -/
def execScrubBurst (errs : List (Nat × CwErr)) (s : State) : Host.Outcome State Fault Refusal := .next (s.scrub errs).critReset

/-- PORTER_TRANSFER_DONE: a Porter's transfer ends. -/
def execPorterTransferDone (t : Porter) (s : State) : Host.Outcome State Fault Refusal := .next (s.porterDone t).critReset

end Sys2Proof.Machine
end

