-- ==== Sys2Proof/Machine/Release.lean ====
section
/-! DEFINITION. The release of a queued frame at its slot (R154-R162, R180, R184, R270, R485). -/

namespace Sys2Proof.Machine

open Sys2Proof

/-- R485: in the superframe before a new hop list's tick an exchange that reaches tick 255 is not started. -/
def State.hopReaches (s : State) (exch : Nat) : Bool := s.hopBlocks s.tick && decide (255 * 4000 < s.tick % 256 * 4000 + 200 + exch)

/-- The PSDU without FCS that a queued frame carries before it is secured; packet SRAM is read as it stands, and none is given where it is poisoned there (R135). -/
def State.txBytes (s : State) (x : Tx) : State × Option Bytes :=
  match x.own with
  | some b => (s, some b)
  | none =>
    let t := s.sramSeen (descBuf x.desc * 64) (descLen x.desc)
    (t, t.sramRead (descBuf x.desc * 64) (descLen x.desc))

/-- R180, R184: the secured bytes of a frame: those of its first release, or secured now. -/
def State.securedOf (s : State) (x : Tx) : Secured :=
  match x.secured with
  | some b => .done s b
  | none =>
    let p := s.txBytes x
    match p.2 with
    | some b => p.1.secure b ((s.tick * 4000000 + 200000) * 2 ^ 16)
    | none => .cancel

/-- Replace the first entry equal to x. -/
def putTx (x y : Tx) : List Tx → List Tx
  | [] => []
  | z :: l => if z = x then y :: l else z :: putTx x y l

/-- R235: the requester keeps SEQ and T1 of the DREQ that it sends, for the last sixteen. -/
def State.noteDreq (s : State) (b : Bytes) : State :=
  let h := parseHdr b
  if h.typ = 4 ∧ byteAt b h.len = 1 then
    { s with ntm := { s.ntm with dreq := ((byteAt b (h.len + 1), le b (h.len + 2) 8) :: s.ntm.dreq.filter fun p => p.1 ≠ byteAt b (h.len + 1)).take 16 } }
  else s

/-- The frame leaves the queue for the air; a reception in progress is lost. -/
def State.goOnAir (s : State) (r acc c mode air : Nat) (x : Tx) (b : Bytes) : State :=
  let y : Tx := { x with secured := some b, tries := x.tries + 1 }
  let s := (s.transmit r c mode air (decide (acc = 2)) b).modRadio r fun q => { q with
    queue := q.queue.erase x, air := some ⟨y, c, mode⟩, rx := none, held := false
    kept := if acc = 1 ∧ x.own = none then Sparse.put q.kept (descBuf x.desc) b else q.kept }
  s.noteDreq b

/-- R160, R162: the frame at the head of its class is held back; a beacon is dropped. -/
def State.holdFrame (s : State) (r acc : Nat) (x : Tx) : State :=
  let s := s.heldBack r
  if acc = 2 then (s.modRadio r fun q => { q with queue := q.queue.erase x }).txDone r x dExpired
  else s.modRadio r fun q => { q with held := true }

/-- MODE, airtime and exchange in µs, and channel, of a frame of an access class in this tick. -/
def State.sendMode (s : State) (r acc : Nat) : Nat := if acc = 2 then 2 else s.radMode r

/-- R146: its airtime. -/
def State.sendAir (s : State) (r acc : Nat) (x : Tx) : Nat := if acc = 2 then s.bcnAirtime r (x.len + 2) else s.airtime r (x.len + 2)

/-- R154: its exchange. -/
def State.sendExch (s : State) (r acc : Nat) (x : Tx) : Nat := s.sendAir r acc x + (if descAck x.desc then 1000 + s.airtime r 16 else 0)

/-- R150, R203: its channel. -/
def State.sendChan (s : State) (r acc : Nat) : Nat := s.chan r (if acc = 2 then s.tick - s.tick % 2 else s.tick)

/-- R158, R160: at its instant the frame is released, unless a flood frame, the hop-list change, LNK, CHN or a ledger keeps it. A beacon that a flood frame keeps back is dropped (R162). -/
def State.tryRelease (s : State) (r acc : Nat) (x : Tx) : State :=
  let mode := s.sendMode r acc
  let air := s.sendAir r acc x
  let exch := s.sendExch r acc x
  let c := s.sendChan r acc
  if s.floodOver r (s.tick * 4000 + 200) exch then (if acc = 2 then s.holdFrame r acc x else s)
  else if s.hopReaches exch || !s.lnkTakes then s
  else if !s.takes (radBlk r) || !s.chnTakes || !s.chanOk c mode || !s.ledgersAllow r c air (decide (acc ≠ 2)) then s.holdFrame r acc x
  else match s.securedOf x with
    | .wait => s
    | .cancel => (s.modRadio r fun q => { q with queue := q.queue.erase x }).txDone r x dCancelled
    | .done t b => t.goOnAir r acc c mode air x b

/-- R222: a device without a place sends only JOIN_REQ, which carries its identity as SRC. -/
def State.maySend (s : State) (x : Tx) : Bool :=
  !(s.isNode && s.placeless) || (match x.own with | some b => decide ((parseHdr b).typ = 9) && (parseHdr b).lsrc | none => false)

/-- R154, R157: an assigned frame's slot begins at its AT tick, and its exchange ends in the slot; the firmware's wake frames use the two ticks of R213. -/
def State.atSlot (s : State) (r : Nat) (x : Tx) : Bool :=
  let n := s.slotTicks r
  decide (s.tick % 2 ^ 24 = descAt x.desc) &&
  (match x.own with
    | some _ => decide (200 + s.sendExch r 1 x ≤ 7950)
    | none => decide (s.tick % n = 0) && decide (200 + s.sendExch r 1 x ≤ 4000 * n))

/-- The frame of an access class that this tick edge may release: the first contention or beacon frame, and the first assigned frame of this tick, which nothing but an earlier one of the same tick blocks (R157, R162). -/
def State.nextTx (s : State) (r acc : Nat) : Option Tx :=
  (s.radio r).queue.find? fun x => decide (descAccess x.desc = acc) && (decide (acc ≠ 1) || decide (s.tick % 2 ^ 24 = descAt x.desc))

/-- R154-R157: the frame of an access class at this tick edge. -/
def State.releaseFrame (s : State) (r acc : Nat) (x : Tx) : State :=
  let t := s.tick % 256
  if acc = 0 then
    match s.slotFor r x with
    | none => s
    | some p =>
      if s.tick % p ≠ 0 ∨ 224 < t + p ∨ s.tick ≤ x.since then s
      else if 0 < x.left then s.modRadio r fun q => { q with queue := putTx x { x with left := x.left - 1 } q.queue }
      else s.tryRelease r 0 x
  else if acc = 1 then (if s.atSlot r x then s.tryRelease r 1 x else s)
  else if t = 2 * s.depth + b2n (!s.isHead && s.rb R.bcn_BCN_NODE 5) then s.tryRelease r 2 x
  else s

/-- One radio's release decision for an access class: made once in a tick. A paused radio starts no frame, and drops a beacon that falls due (R490). -/
def State.releaseOf (s : State) (r acc : Nat) : State :=
  if (s.radio r).tested = some (s.tick, acc) then s
  else
    let s := s.modRadio r fun q => { q with tested := some (s.tick, acc) }
    if !(s.takes (radBlk r) || (s.runs (radBlk r) && decide (acc = 2))) || (s.radio r).air.isSome then s
    else match s.nextTx r acc with
      | none => s
      | some x => if s.maySend x then s.releaseFrame r acc x else s

/-- R202: the access class of a tick: beacons in ticks 0 to 31, contention to 223, assigned frames after. -/
def tickClass (t : Nat) : Nat := if t < 32 then 2 else if t < 224 then 0 else 1

/-- R161: of the frames due at one instant, which are of one class, the lower-numbered radio's is tested and charged first. -/
def State.releaseUpTo (s : State) (r acc : Nat) : State := (List.range (r + 1)).foldl (fun (t : State) q => t.releaseOf q acc) s

/-- FRAME_RELEASE: 200 µs after the first edge of a slot, for one radio and access class: 0 contention, 1 assigned, 2 beacon. -/
def execFrameRelease (radio : Fin 4) (access : Fin 3) (s : State) : Host.Outcome State Fault Refusal :=
  .next (if !s.onNet || s.isStandby || s.repeated || decide (tickClass (s.tick % 256) ≠ access.val) then s else s.releaseUpTo radio.val access.val)

end Sys2Proof.Machine
end

