-- ==== Sys2Proof/Machine/Tick.lean ====
section
/-! DEFINITION. The tick edge: the actions of R24 in their order, and what else the blocks do at an edge (R21-R25, R238, R489). -/

namespace Sys2Proof.Machine

open Sys2Proof

/-- Ticks run: main power is present, and the module holds network time or its reset has ended (R21, R22). -/
def State.ticksRun (s : State) : Bool :=
  match s.boot.stage with
  | .off => false
  | .reset | .checked => s.holds
  | .defaults | .dead | .booted => true

/-- R22, R238: the transitional tick, or the tick at whose edge a step fell, lasts at least 4.000 ms. -/
def State.inTransit (s : State) (c : DWord) : Bool := s.holds && (!s.netEdge || s.ntm.stepHold) && decide ((c - s.edgeCnt).toNat < 1000000)

/-- R22, R245: a tick edge falls at a counter value: the first value at which network time has reached the next multiple of a tick, or 4.000 ms after a local edge. The first local edge after a reset comes as its end gives it. -/
def State.edgeAt (s : State) (c : DWord) : Bool :=
  decide (s.edgeCnt.toNat < c.toNat) &&
  (if s.holds then decide (s.nt c / tick16 ≠ s.nt (c - 1) / tick16)
   else decide (s.ntm.localTick = 0) || decide ((c - s.edgeCnt).toNat % 1000000 = 0))

/-- The number of the tick that begins at a counter value: that of network time, or one more local tick (R6, R22). -/
def State.edgeTick (s : State) (c : DWord) : Nat := if s.holds then s.nt c / tick16 else s.ntm.localTick + 1

/-- The new tick number is in force; a step staged before this edge is due at it (R238). -/
def State.enterTick (s : State) (k : Nat) (c : DWord) : State :=
  let n := { s.ntm with stepHold := false, stepDue := s.ntm.step.isSome }
  { s with
    cnt := c
    edgeCnt := c
    netEdge := s.holds
    ntm := if s.holds then { n with tick := k } else { n with localTick := k } }

/-- R24 step 1: operands that have waited too long return, and the wares not retired are counted (R97, R106, R107). -/
def State.mktEdge (s : State) (k : Nat) : State :=
  if s.inReset .mkt then s
  else ((s.matchTimeouts fun p => s.parkOld s.tick32 p).overrunCheck s.tick32).runEdges (decide (k % 256 = 0))

/-- Put a number into a rising list without repeats. -/
def insTick (a : Nat) : List Nat → List Nat
  | [] => [a]
  | b :: r => if a < b then a :: b :: r else if a = b then b :: r else b :: insTick a r

/-- R238: the apply ticks of levels and modes that lie between two ticks, in order. -/
def State.skipped (s : State) (old k : Nat) : List Nat :=
  let l := s.lvl.pend.map (fun c => c.apply) ++ (match s.lvl.ann with | some a => [a.at'] | none => []) ++
    (match s.lvl.pmode with | some p => [p.at'] | none => [])
  (l.filter fun t => decide (old < t) && decide (t < k)).foldl (fun a t => insTick t a) []

/-- R24 steps 2 and 3 at one tick, with the fades moved on by n ticks before. -/
def State.applyTick (s : State) (n t : Nat) : State := ((s.fadeStep n).modeEdge t).levelEdge t

/-- Perform the apply ticks of a rising list, after tick `at'`; the last one performed is given. -/
def applyTicks : Nat → List Nat → State → State × Nat
  | at', [], s => (s, at')
  | at', t :: r, s => applyTicks t r (s.applyTick (t - at') t)

/-- R24 steps 2 to 4: the mode, the levels and the fades of an edge, after those that a step forward has skipped. A repeated tick performs no apply tick (R489); local ticks serve fades only (R22). -/
def State.lightEdge (s : State) (old k : Nat) (forward : Bool) : State :=
  if s.inReset .lvl then s
  else if !s.holds || s.repeated then (s.fadeStep 1).showLevel
  else if forward then
    let r := applyTicks old (s.skipped old k) s
    (r.1.applyTick (k - r.2) k).showLevel.litAgain
  else (s.applyTick 1 k).showLevel.litAgain

/-- What the firmware and the other blocks do at an edge, after tick `old`. -/
def State.restEdge (s : State) (old k : Nat) (hbIn : Bool) : State :=
  let s := s.corAutoArm
  let s := if s.holds && !s.repeated then ((s.hopStage).bcnReady k).freshBuild k else s
  let s := if decide (k % 256 = 0) && s.isHead && !s.inReset .cor then s.liveUpdate else s
  let s := if k % 256 = 0 then s.tableEdge else s
  let s := ((s.ringEdge.fovEdge hbIn).energyEdge old k)
  s.beatEdge

/-- A tick edge at a counter value (R24). -/
def State.tickEdge (s : State) (c : DWord) (sinks : List SinkMeas) (hbIn : Bool) : State :=
  let k := s.edgeTick c
  let old := if s.holds && !s.netEdge then k - 1 else s.tick
  let first := s.holds && !s.netEdge
  let s := s.enterTick k c
  let s := if first then s.txRestamp else s
  let s := s.mktEdge k
  let s := s.lightEdge old k (decide (old < k))
  let s := s.driveEdge k c sinks
  let s := s.restEdge old k hbIn
  { s with lvl := { s.lvl with prevTick := old } }

/-- TICK_EDGE, at the instant of an edge (R245): CNT at the edge, what the sink monitors give for the tick that ended, and whether HB_IN changed in it. -/
def execTickEdge (c : DWord) (sinks : List SinkMeas) (hbIn : Bool) (s : State) : Host.Outcome State Fault Refusal :=
  .next (if s.ticksRun && s.edgeAt c && !s.inTransit c then s.tickEdge c sinks hbIn else s.at c)

end Sys2Proof.Machine
end

