-- ==== Sys2Proof/Machine/Dispatch.lean ====
section
/-! DEFINITION. The dispatch of commands: one arm per row of the opcode table, each one direct call of its meaning. -/

namespace Sys2Proof.Machine

open Sys2Proof

/-- The effect of one command on everything but the queue. -/
def exec (i : Instr) (s : State) : Host.Outcome State Fault Refusal :=
  match i with
  | .powerOn => Sys2Proof.Machine.execPowerOn s
  | .vinBrownOut vinMv => Sys2Proof.Machine.execVinBrownOut vinMv s
  | .coreSupplyFault rail => Sys2Proof.Machine.execCoreSupplyFault rail s
  | .modReset lowNs => Sys2Proof.Machine.execModReset lowNs s
  | .swReset m v => Sys2Proof.Machine.execSwReset m v s
  | .pewterIntegrityCheck codes => Sys2Proof.Machine.execPewterIntegrityCheck codes s
  | .sequencerDefaults => Sys2Proof.Machine.execSequencerDefaults s
  | .bootCheck fails emmcErr => Sys2Proof.Machine.execBootCheck fails emmcErr s
  | .benchRecovery image => Sys2Proof.Machine.execBenchRecovery image s
  | .perst => Sys2Proof.Machine.execPerst s
  | .lockstepMismatch lane detail => Sys2Proof.Machine.execLockstepMismatch lane detail s
  | .laneWatchdog lane => Sys2Proof.Machine.execLaneWatchdog lane s
  | .serviceWatchdog => Sys2Proof.Machine.execServiceWatchdog s
  | .thermalTrip sensor tempDeciC => Sys2Proof.Machine.execThermalTrip sensor tempDeciC s
  | .tempWarning sensor tempDeciC => Sys2Proof.Machine.execTempWarning sensor tempDeciC s
  | .blockReset m hi v => Sys2Proof.Machine.execBlockReset m hi v s
  | .blockReleaseRequest m hi v => Sys2Proof.Machine.execBlockReleaseRequest m hi v s
  | .blockRelease bit fails => Sys2Proof.Machine.execBlockRelease bit fails s
  | .releaseTimeout bit => Sys2Proof.Machine.execReleaseTimeout bit s
  | .tickEdge c sinks hbIn => Sys2Proof.Machine.execTickEdge c sinks hbIn s
  | .corridorRun us => Sys2Proof.Machine.execCorridorRun us s
  | .levelPublish => Sys2Proof.Machine.execLevelPublish s
  | .occRowWrite => Sys2Proof.Machine.execOccRowWrite s
  | .graphCheck m => Sys2Proof.Machine.execGraphCheck m s
  | .graphCheckDone => Sys2Proof.Machine.execGraphCheckDone s
  | .graphArm m => Sys2Proof.Machine.execGraphArm m s
  | .graphDisarm m => Sys2Proof.Machine.execGraphDisarm m s
  | .graphSwap => Sys2Proof.Machine.execGraphSwap s
  | .policyCommit m => Sys2Proof.Machine.execPolicyCommit m s
  | .policyApply => Sys2Proof.Machine.execPolicyApply s
  | .waveStart => Sys2Proof.Machine.execWaveStart s
  | .floodForward => Sys2Proof.Machine.execFloodForward s
  | .stripeReceive x => Sys2Proof.Machine.execStripeReceive x s
  | .modeAnnounce m => Sys2Proof.Machine.execModeAnnounce m s
  | .modeCtrlCancel m => Sys2Proof.Machine.execModeCtrlCancel m s
  | .modeWave => Sys2Proof.Machine.execModeWave s
  | .modeReceive x => Sys2Proof.Machine.execModeReceive x s
  | .modeAckSend => Sys2Proof.Machine.execModeAckSend s
  | .schedulePoint => Sys2Proof.Machine.execSchedulePoint s
  | .beaconBuild => Sys2Proof.Machine.execBeaconBuild s
  | .beaconSend c => Sys2Proof.Machine.execBeaconSend c s
  | .beaconReceive x => Sys2Proof.Machine.execBeaconReceive x s
  | .beaconMiss c => Sys2Proof.Machine.execBeaconMiss c s
  | .orphanListenEnd => Sys2Proof.Machine.execOrphanListenEnd s
  | .scanStep => Sys2Proof.Machine.execScanStep s
  | .bcnNodeWrite m v => Sys2Proof.Machine.execBcnNodeWrite m v s
  | .joinReq x => Sys2Proof.Machine.execJoinReq x s
  | .joinAcc x => Sys2Proof.Machine.execJoinAcc x s
  | .joinRef x => Sys2Proof.Machine.execJoinRef x s
  | .joinTimeout => Sys2Proof.Machine.execJoinTimeout s
  | .joinConfirmTimeout index => Sys2Proof.Machine.execJoinConfirmTimeout index s
  | .statusReceive x => Sys2Proof.Machine.execStatusReceive x s
  | .joinWindowExpiry => Sys2Proof.Machine.execJoinWindowExpiry s
  | .sleepyWake index heard => Sys2Proof.Machine.execSleepyWake index heard s
  | .heldFrameExpiry => Sys2Proof.Machine.execHeldFrameExpiry s
  | .mhopForward x => Sys2Proof.Machine.execMhopForward x s
  | .txDescriptor radio => Sys2Proof.Machine.execTxDescriptor radio s
  | .frameRelease radio access => Sys2Proof.Machine.execFrameRelease radio access s
  | .ackTimeout radio => Sys2Proof.Machine.execAckTimeout radio s
  | .deadlineExpiry radio => Sys2Proof.Machine.execDeadlineExpiry radio s
  | .frameSync radio psdu phrOk phase c refillNs => Sys2Proof.Machine.execFrameSync radio psdu phrOk phase c refillNs s
  | .frameEndVerdict radio fcs rssi margin verdictNs => Sys2Proof.Machine.execFrameEndVerdict radio fcs rssi margin verdictNs s
  | .ackSend radio => Sys2Proof.Machine.execAckSend radio s
  | .ackReceive radio psdu fcs => Sys2Proof.Machine.execAckReceive radio psdu fcs s
  | .ledgerAge => Sys2Proof.Machine.execLedgerAge s
  | .hopCommit m v => Sys2Proof.Machine.execHopCommit m v s
  | .hopApply => Sys2Proof.Machine.execHopApply s
  | .paFault radio reflects => Sys2Proof.Machine.execPaFault radio reflects s
  | .ctrTxWrite m k v => Sys2Proof.Machine.execCtrTxWrite m k v s
  | .lnkGenWrite m next v => Sys2Proof.Machine.execLnkGenWrite m next v s
  | .genSwitch => Sys2Proof.Machine.execGenSwitch s
  | .genRetire => Sys2Proof.Machine.execGenRetire s
  | .ctxInval m v => Sys2Proof.Machine.execCtxInval m v s
  | .ctxInvalAll m v => Sys2Proof.Machine.execCtxInvalAll m v s
  | .tunnelVerify => Sys2Proof.Machine.execTunnelVerify s
  | .keyReceive x => Sys2Proof.Machine.execKeyReceive x s
  | .presenceReceive x => Sys2Proof.Machine.execPresenceReceive x s
  | .energyReceive x => Sys2Proof.Machine.execEnergyReceive x s
  | .energyReportSend => Sys2Proof.Machine.execEnergyReportSend s
  | .childAdd x => Sys2Proof.Machine.execChildAdd x s
  | .childDel x => Sys2Proof.Machine.execChildDel x s
  | .rejoinVia x => Sys2Proof.Machine.execRejoinVia x s
  | .wakeSet x => Sys2Proof.Machine.execWakeSet x s
  | .energyCfg x => Sys2Proof.Machine.execEnergyCfg x s
  | .schedSet x => Sys2Proof.Machine.execSchedSet x s
  | .modeAck x => Sys2Proof.Machine.execModeAck x s
  | .modeGet x => Sys2Proof.Machine.execModeGet x s
  | .ppsEdge rising c => Sys2Proof.Machine.execPpsEdge rising c s
  | .ppsLost c => Sys2Proof.Machine.execPpsLost c s
  | .todTimeout c => Sys2Proof.Machine.execTodTimeout c s
  | .snap m v c => Sys2Proof.Machine.execSnap m v c s
  | .stepGo m v => Sys2Proof.Machine.execStepGo m v s
  | .timeStep c => Sys2Proof.Machine.execTimeStep c s
  | .offsetLoad m v c => Sys2Proof.Machine.execOffsetLoad m v c s
  | .cntRead m c => Sys2Proof.Machine.execCntRead m c s
  | .tickRead m => Sys2Proof.Machine.execTickRead m s
  | .dreqSend => Sys2Proof.Machine.execDreqSend s
  | .dreq x => Sys2Proof.Machine.execDreq x s
  | .dresp x => Sys2Proof.Machine.execDresp x s
  | .todSet tag c => Sys2Proof.Machine.execTodSet tag c s
  | .timeGet tag c => Sys2Proof.Machine.execTimeGet tag c s
  | .timeSrc tag => Sys2Proof.Machine.execTimeSrc tag s
  | .narrowWrite m addr v => Sys2Proof.Machine.execNarrowWrite m addr v s
  | .narrowRead m addr => Sys2Proof.Machine.execNarrowRead m addr s
  | .multiDw wr addr words => Sys2Proof.Machine.execMultiDw wr addr words s
  | .unmappedAccess m wr addr v => Sys2Proof.Machine.execUnmappedAccess m wr addr v s
  | .registerWrite m addr v => Sys2Proof.Machine.execRegisterWrite m addr v s
  | .rcRead m addr => Sys2Proof.Machine.execRcRead m addr s
  | .pageLock m b v => Sys2Proof.Machine.execPageLock m b v s
  | .blockEnable m b => Sys2Proof.Machine.execBlockEnable m b s
  | .blockDisable m b => Sys2Proof.Machine.execBlockDisable m b s
  | .drainSet m b => Sys2Proof.Machine.execDrainSet m b s
  | .drainClear m b => Sys2Proof.Machine.execDrainClear m b s
  | .drainComplete b => Sys2Proof.Machine.execDrainComplete b s
  | .kill m b => Sys2Proof.Machine.execKill m b s
  | .pageRstReq m b => Sys2Proof.Machine.execPageRstReq m b s
  | .irqClear m b v => Sys2Proof.Machine.execIrqClear m b v s
  | .irqForce m b v => Sys2Proof.Machine.execIrqForce m b v s
  | .swIrqSet m v => Sys2Proof.Machine.execSwIrqSet m v s
  | .aptCommit m v => Sys2Proof.Machine.execAptCommit m v s
  | .apertureSwitch => Sys2Proof.Machine.execApertureSwitch s
  | .bar2Access a => Sys2Proof.Machine.execBar2Access a s
  | .hostBeat m v => Sys2Proof.Machine.execHostBeat m v s
  | .hostLost linkUp bme => Sys2Proof.Machine.execHostLost linkUp bme s
  | .hostSeen linkUp bme => Sys2Proof.Machine.execHostSeen linkUp bme s
  | .mbxDoorbell m v => Sys2Proof.Machine.execMbxDoorbell m v s
  | .mbxCommandTake raw data => Sys2Proof.Machine.execMbxCommandTake raw data s
  | .mbxReset => Sys2Proof.Machine.execMbxReset s
  | .eventsLost => Sys2Proof.Machine.execEventsLost s
  | .nop tag => Sys2Proof.Machine.execNop tag s
  | .info tag => Sys2Proof.Machine.execInfo tag s
  | .wareSubmit m w7 => Sys2Proof.Machine.execWareSubmit m w7 s
  | .wareDispatch c us cycles => Sys2Proof.Machine.execWareDispatch c us cycles s
  | .wareWindowRead lane => Sys2Proof.Machine.execWareWindowRead lane s
  | .wareRetire r v => Sys2Proof.Machine.execWareRetire r v s
  | .completionWrite => Sys2Proof.Machine.execCompletionWrite s
  | .takeRead port m us => Sys2Proof.Machine.execTakeRead port m us s
  | .takePoll port m us => Sys2Proof.Machine.execTakePoll port m us s
  | .takeTimeout port => Sys2Proof.Machine.execTakeTimeout port s
  | .matchTimeout key => Sys2Proof.Machine.execMatchTimeout key s
  | .counterWrite m v => Sys2Proof.Machine.execCounterWrite m v s
  | .counterAdd m v => Sys2Proof.Machine.execCounterAdd m v s
  | .classCfgWrite m n v => Sys2Proof.Machine.execClassCfgWrite m n v s
  | .domCfgWrite m v => Sys2Proof.Machine.execDomCfgWrite m v s
  | .queuePush m q v => Sys2Proof.Machine.execQueuePush m q v s
  | .queueHwPush q => Sys2Proof.Machine.execQueueHwPush q s
  | .queuePop m q => Sys2Proof.Machine.execQueuePop m q s
  | .queuePeek m q => Sys2Proof.Machine.execQueuePeek m q s
  | .queueFlush m q => Sys2Proof.Machine.execQueueFlush m q s
  | .qcfgWrite m q v => Sys2Proof.Machine.execQcfgWrite m q v s
  | .checkFrameStart src chan => Sys2Proof.Machine.execCheckFrameStart src chan s
  | .checkFrameEnd src chan data => Sys2Proof.Machine.execCheckFrameEnd src chan data s
  | .cvalWrite m u v => Sys2Proof.Machine.execCvalWrite m u v s
  | .scrubBurst errs => Sys2Proof.Machine.execScrubBurst errs s
  | .sramScrub errs => Sys2Proof.Machine.execSramScrub errs s
  | .openPosition port pos => Sys2Proof.Machine.execOpenPosition port pos s
  | .dropout port => Sys2Proof.Machine.execDropout port s
  | .sinkHot port => Sys2Proof.Machine.execSinkHot port s
  | .drvLinkLost port => Sys2Proof.Machine.execDrvLinkLost port s
  | .stringTest port volts => Sys2Proof.Machine.execStringTest port volts s
  | .fsyncEdge rising c => Sys2Proof.Machine.execFsyncEdge rising c s
  | .shadowWrite m port index v => Sys2Proof.Machine.execShadowWrite m port index v s
  | .swapArm m c => Sys2Proof.Machine.execSwapArm m c s
  | .swapDisarm m => Sys2Proof.Machine.execSwapDisarm m s
  | .drvTake m port => Sys2Proof.Machine.execDrvTake m port s
  | .drvClrFault m port => Sys2Proof.Machine.execDrvClrFault m port s
  | .bankLoad tag c => Sys2Proof.Machine.execBankLoad tag c s
  | .drvStatus tag => Sys2Proof.Machine.execDrvStatus tag s
  | .defaultSet tag => Sys2Proof.Machine.execDefaultSet tag s
  | .cycleBoundary phase volts chans c => Sys2Proof.Machine.execCycleBoundary phase volts chans c s
  | .lineLost c => Sys2Proof.Machine.execLineLost c s
  | .virtualBoundary chans => Sys2Proof.Machine.execVirtualBoundary chans s
  | .coefCommit m c => Sys2Proof.Machine.execCoefCommit m c s
  | .coefCancel m => Sys2Proof.Machine.execCoefCancel m s
  | .meterCheckGo m => Sys2Proof.Machine.execMeterCheckGo m s
  | .checkStart => Sys2Proof.Machine.execCheckStart s
  | .checkComplete x => Sys2Proof.Machine.execCheckComplete x s
  | .balClose m => Sys2Proof.Machine.execBalClose m s
  | .pfail vinMv => Sys2Proof.Machine.execPfail vinMv s
  | .pfailEnd vinMv => Sys2Proof.Machine.execPfailEnd vinMv s
  | .coefLoad tag c => Sys2Proof.Machine.execCoefLoad tag c s
  | .meterCheck tag => Sys2Proof.Machine.execMeterCheck tag s
  | .journalRead tag => Sys2Proof.Machine.execJournalRead tag s
  | .balSet tag => Sys2Proof.Machine.execBalSet tag s
  | .sealTrip nodeMv => Sys2Proof.Machine.execSealTrip nodeMv s
  | .vbakLow vbakMv => Sys2Proof.Machine.execVbakLow vbakMv s
  | .calendarSecond vbakMv c => Sys2Proof.Machine.execCalendarSecond vbakMv c s
  | .rtcCommit m v => Sys2Proof.Machine.execRtcCommit m v s
  | .rtcLoad => Sys2Proof.Machine.execRtcLoad s
  | .rtcTimeRead m cycles => Sys2Proof.Machine.execRtcTimeRead m cycles s
  | .oscFail => Sys2Proof.Machine.execOscFail s
  | .pwronAssert m => Sys2Proof.Machine.execPwronAssert m s
  | .pwronRelease m => Sys2Proof.Machine.execPwronRelease m s
  | .pwronPulseEnd => Sys2Proof.Machine.execPwronPulseEnd s
  | .faillitWrite m v => Sys2Proof.Machine.execFaillitWrite m v s
  | .contHoldWrite m v => Sys2Proof.Machine.execContHoldWrite m v s
  | .tamper loop => Sys2Proof.Machine.execTamper loop s
  | .rtcSet tag => Sys2Proof.Machine.execRtcSet tag s
  | .rtcGet tag cycles => Sys2Proof.Machine.execRtcGet tag cycles s
  | .alarmSet tag => Sys2Proof.Machine.execAlarmSet tag s
  | .faillitSet tag => Sys2Proof.Machine.execFaillitSet tag s
  | .tamperCfg tag => Sys2Proof.Machine.execTamperCfg tag s
  | .photoChange decivolts => Sys2Proof.Machine.execPhotoChange decivolts s
  | .photoSteady => Sys2Proof.Machine.execPhotoSteady s
  | .statChange input on => Sys2Proof.Machine.execStatChange input on s
  | .coilLost coilMv => Sys2Proof.Machine.execCoilLost coilMv s
  | .coilReturn coilMv => Sys2Proof.Machine.execCoilReturn coilMv s
  | .contFault output => Sys2Proof.Machine.execContFault output s
  | .contSequenceStep => Sys2Proof.Machine.execContSequenceStep s
  | .contClrFault m => Sys2Proof.Machine.execContClrFault m s
  | .status req => Sys2Proof.Machine.execStatus req s
  | .selftest req => Sys2Proof.Machine.execSelftest req s
  | .selftestRun fails => Sys2Proof.Machine.execSelftestRun fails s
  | .radioPathTest radio pass => Sys2Proof.Machine.execRadioPathTest radio pass s
  | .drbgReseed pass => Sys2Proof.Machine.execDrbgReseed pass s
  | .zeroize req => Sys2Proof.Machine.execZeroize req s
  | .vaultInit req => Sys2Proof.Machine.execVaultInit req s
  | .enrolPub req => Sys2Proof.Machine.execEnrolPub req s
  | .keyImport req => Sys2Proof.Machine.execKeyImport req s
  | .keyGenerate req => Sys2Proof.Machine.execKeyGenerate req s
  | .keyDerive m v => Sys2Proof.Machine.execKeyDerive m v s
  | .keyExport req => Sys2Proof.Machine.execKeyExport req s
  | .rewrap m v => Sys2Proof.Machine.execRewrap m v s
  | .keyErase req => Sys2Proof.Machine.execKeyErase req s
  | .approve req => Sys2Proof.Machine.execApprove req s
  | .debugOpen req => Sys2Proof.Machine.execDebugOpen req s
  | .encrypt m v mode iv => Sys2Proof.Machine.execEncrypt m v mode iv s
  | .decrypt m v mode iv => Sys2Proof.Machine.execDecrypt m v mode iv s
  | .mac m v => Sys2Proof.Machine.execMac m v s
  | .sigVerify m v => Sys2Proof.Machine.execSigVerify m v s
  | .random m v => Sys2Proof.Machine.execRandom m v s
  | .measExtend m v => Sys2Proof.Machine.execMeasExtend m v s
  | .tapInstruction k => Sys2Proof.Machine.execTapInstruction k s
  | .logSubmit m v => Sys2Proof.Machine.execLogSubmit m v s
  | .recordWrite => Sys2Proof.Machine.execRecordWrite s
  | .lostRecord => Sys2Proof.Machine.execLostRecord s
  | .ledgerScanDone => Sys2Proof.Machine.execLedgerScanDone s
  | .cursorWrite m v => Sys2Proof.Machine.execCursorWrite m v s
  | .windowAutoRead m => Sys2Proof.Machine.execWindowAutoRead m s
  | .seriesFeed m v => Sys2Proof.Machine.execSeriesFeed m v s
  | .serCtrlClear m v => Sys2Proof.Machine.execSerCtrlClear m v s
  | .seriesSave => Sys2Proof.Machine.execSeriesSave s
  | .optimeSave => Sys2Proof.Machine.execOptimeSave s
  | .ledgerRead tag => Sys2Proof.Machine.execLedgerRead tag s
  | .ledgerNote tag => Sys2Proof.Machine.execLedgerNote tag s
  | .seriesRead tag => Sys2Proof.Machine.execSeriesRead tag s
  | .seriesCfg tag => Sys2Proof.Machine.execSeriesCfg tag s
  | .seriesClear tag => Sys2Proof.Machine.execSeriesClear tag s
  | .linkUp east => Sys2Proof.Machine.execLinkUp east s
  | .linkDown east => Sys2Proof.Machine.execLinkDown east s
  | .ringFrameReceive east frame c res => Sys2Proof.Machine.execRingFrameReceive east frame c res s
  | .discover => Sys2Proof.Machine.execDiscover s
  | .discoverSend => Sys2Proof.Machine.execDiscoverSend s
  | .ringDelayMeasure c => Sys2Proof.Machine.execRingDelayMeasure c s
  | .dlyReq c => Sys2Proof.Machine.execDlyReq c s
  | .dlyResp => Sys2Proof.Machine.execDlyResp s
  | .syncSend c => Sys2Proof.Machine.execSyncSend c s
  | .sync => Sys2Proof.Machine.execSync s
  | .masterLost c => Sys2Proof.Machine.execMasterLost c s
  | .heartbeatSend => Sys2Proof.Machine.execHeartbeatSend s
  | .heartbeat => Sys2Proof.Machine.execHeartbeat s
  | .pathLost => Sys2Proof.Machine.execPathLost s
  | .takeoverDecision => Sys2Proof.Machine.execTakeoverDecision s
  | .checkpointCapture => Sys2Proof.Machine.execCheckpointCapture s
  | .ckptData => Sys2Proof.Machine.execCkptData s
  | .ckptAck => Sys2Proof.Machine.execCkptAck s
  | .checkpointAbandon => Sys2Proof.Machine.execCheckpointAbandon s
  | .demotionCheck => Sys2Proof.Machine.execDemotionCheck s
  | .prepare => Sys2Proof.Machine.execPrepare s
  | .ready => Sys2Proof.Machine.execReady s
  | .refuse => Sys2Proof.Machine.execRefuse s
  | .ringDecide => Sys2Proof.Machine.execRingDecide s
  | .ringDecisionRepeat => Sys2Proof.Machine.execRingDecisionRepeat s
  | .ringCommit => Sys2Proof.Machine.execRingCommit s
  | .ringAbort => Sys2Proof.Machine.execRingAbort s
  | .ringQuery => Sys2Proof.Machine.execRingQuery s
  | .ringConfirm => Sys2Proof.Machine.execRingConfirm s
  | .ringDoubtQuery => Sys2Proof.Machine.execRingDoubtQuery s
  | .ringDoubtExpiry => Sys2Proof.Machine.execRingDoubtExpiry s
  | .ringResetFrame => Sys2Proof.Machine.execRingResetFrame s
  | .ringData => Sys2Proof.Machine.execRingData s
  | .rrstCtrlWrite m v => Sys2Proof.Machine.execRrstCtrlWrite m v s
  | .mapForget m v => Sys2Proof.Machine.execMapForget m v s
  | .fovCfgWrite m v => Sys2Proof.Machine.execFovCfgWrite m v s
  | .ckptFull m => Sys2Proof.Machine.execCkptFull m s
  | .fovRelease via => Sys2Proof.Machine.execFovRelease via s
  | .ringStatus tag => Sys2Proof.Machine.execRingStatus tag s
  | .ringReset tag => Sys2Proof.Machine.execRingReset tag s
  | .ringForget tag => Sys2Proof.Machine.execRingForget tag s
  | .fovSet tag => Sys2Proof.Machine.execFovSet tag s
  | .ckptNow tag => Sys2Proof.Machine.execCkptNow tag s
  | .updBegin tag => Sys2Proof.Machine.execUpdBegin tag s
  | .updBlock tag => Sys2Proof.Machine.execUpdBlock tag s
  | .updStatus tag => Sys2Proof.Machine.execUpdStatus tag s
  | .updApply tag => Sys2Proof.Machine.execUpdApply tag s
  | .applyDone emmcErrAt => Sys2Proof.Machine.execApplyDone emmcErrAt s
  | .updCommit tag => Sys2Proof.Machine.execUpdCommit tag s
  | .copyDone c => Sys2Proof.Machine.execCopyDone c s
  | .updReset => Sys2Proof.Machine.execUpdReset s
  | .updAbort tag => Sys2Proof.Machine.execUpdAbort tag s
  | .settingsArchiveRead tag => Sys2Proof.Machine.execSettingsArchiveRead tag s
  | .settingsReset => Sys2Proof.Machine.execSettingsReset s
  | .updBooted => Sys2Proof.Machine.execUpdBooted s
  | .nodeEnroll tag => Sys2Proof.Machine.execNodeEnroll tag s
  | .nodeRemove tag => Sys2Proof.Machine.execNodeRemove tag s
  | .nodeTable tag => Sys2Proof.Machine.execNodeTable tag s
  | .joinCtrl tag => Sys2Proof.Machine.execJoinCtrl tag s
  | .graphLoad tag => Sys2Proof.Machine.execGraphLoad tag s
  | .policySet tag => Sys2Proof.Machine.execPolicySet tag s
  | .weatherSet tag => Sys2Proof.Machine.execWeatherSet tag s
  | .tracksGet tag => Sys2Proof.Machine.execTracksGet tag s
  | .modeSet tag => Sys2Proof.Machine.execModeSet tag s
  | .modeCancel tag => Sys2Proof.Machine.execModeCancel tag s
  | .modeStatus tag => Sys2Proof.Machine.execModeStatus tag s
  | .ringMode tag => Sys2Proof.Machine.execRingMode tag s
  | .schedPush tag => Sys2Proof.Machine.execSchedPush tag s
  | .vbakSwitchover vbakMv => Sys2Proof.Machine.execVbakSwitchover vbakMv s
  | .vbakRestored vbakMv => Sys2Proof.Machine.execVbakRestored vbakMv s
  | .oscRestart => Sys2Proof.Machine.execOscRestart s
  | .porterTransferDone t => Sys2Proof.Machine.execPorterTransferDone t s
  | .vaultOpComplete condFail => Sys2Proof.Machine.execVaultOpComplete condFail s
  | .txFrameEnd radio => Sys2Proof.Machine.execTxFrameEnd radio s
  | .ringDecisionExpiry => Sys2Proof.Machine.execRingDecisionExpiry s

end Sys2Proof.Machine
end

