-- ==== Sys2Proof/WellFormed.lean ====
section
/-! DEFINITION. Which commands are well formed: operands of the sizes that the spec gives them. A meaning asks for none of this unless its docstring says so; the checks say which data an event of the hardware can carry. -/

namespace Sys2Proof

/-- A list of failing self-tests: numbers 0-13 (R389). -/
def testsOk (fails : List Nat) : Bool := fails.all fun t => decide (t < 14)

/-- A node index: 12 bits (R8, R175). -/
def indexOk (i : Nat) : Bool := decide (i < 4096)

/-- A PSDU without FCS: at most 253 bytes (R168). -/
def psduOk (p : Bytes) : Bool := decide (p.length ≤ 253)

/-- What a sink reports: a voltage and a current of 16 bits, a temperature of 8 bits (R300). -/
def sinkOk (m : SinkMeas) : Bool := decide (m.volts < 65536) && decide (m.ma < 65536) && decide (m.temp < 256) && m.vf.all fun x => decide (x.1 < 32) && decide (x.2 < 65536)

/-- An address that a master can name: the 16 MiB of BAR0 for the host (R57), 64 bits inside the module (R141). -/
def addrOk (m : Master) (a : Nat) : Bool :=
  match m with
  | .host => decide (a < 0x1000000)
  | _ => decide (a < 2 ^ 64)

/-- A BAR2 access moves at least one byte, inside the aperture (R61, R62). -/
def bar2Ok (a : Bar2Access) : Bool :=
  match a with
  | .read off n _ => decide (0 < n) && decide (off + n ≤ 2 ^ 28)
  | .write off d _ => decide (0 < d.length) && decide (off + d.length ≤ 2 ^ 28)

/-- The initial value of an AES mode: none for ECB, one block otherwise (R386). -/
def ivOk (m : AesMode) (iv : Bytes) : Bool :=
  match m with
  | .ecb => iv.isEmpty
  | _ => decide (iv.length = 16)

/-- A Porter transfer moves at least one byte and names one of the 1,024 counters (R95). -/
def porterOk (t : Porter) : Bool := decide (0 < t.len) && decide (t.ctr < 1024)

/-- A received frame fits a PSDU. -/
def airOk (x : AirRx) : Bool := psduOk x.psdu && psduOk x.frame

/-- The command is well formed. -/
def WellFormed (i : Instr) : Bool :=
  match i with
  | .powerOn => true
  | .vinBrownOut _ => true
  | .coreSupplyFault _ => true
  | .modReset _ => true
  | .swReset _ _ => true
  | .pewterIntegrityCheck codes => decide (codes.length = 16) && codes.all fun c => decide (c < 64)
  | .sequencerDefaults => true
  | .bootCheck fails _ => testsOk fails
  | .benchRecovery _ => true
  | .perst => true
  | .lockstepMismatch _ _ => true
  | .laneWatchdog _ => true
  | .serviceWatchdog => true
  | .thermalTrip sensor _ => decide (sensor < 4)
  | .tempWarning sensor _ => decide (sensor < 4)
  | .blockReset _ _ _ => true
  | .blockReleaseRequest _ _ _ => true
  | .blockRelease bit fails => decide (bit < 34) && testsOk fails
  | .releaseTimeout bit => decide (bit < 34)
  | .tickEdge _ sinks _ => decide (sinks.length = 4) && sinks.all sinkOk
  | .corridorRun _ => true
  | .levelPublish => true
  | .occRowWrite => true
  | .graphCheck _ => true
  | .graphCheckDone => true
  | .graphArm _ => true
  | .graphDisarm _ => true
  | .graphSwap => true
  | .policyCommit _ => true
  | .policyApply => true
  | .waveStart => true
  | .floodForward => true
  | .stripeReceive x => airOk x
  | .modeAnnounce _ => true
  | .modeCtrlCancel _ => true
  | .modeWave => true
  | .modeReceive x => airOk x
  | .modeAckSend => true
  | .schedulePoint => true
  | .beaconBuild => true
  | .beaconSend _ => true
  | .beaconReceive x => airOk x
  | .beaconMiss _ => true
  | .orphanListenEnd => true
  | .scanStep => true
  | .bcnNodeWrite _ _ => true
  | .joinReq x => airOk x
  | .joinAcc x => airOk x
  | .joinRef x => airOk x
  | .joinTimeout => true
  | .joinConfirmTimeout index => indexOk index
  | .statusReceive x => airOk x
  | .joinWindowExpiry => true
  | .sleepyWake index _ => indexOk index
  | .heldFrameExpiry => true
  | .mhopForward x => airOk x
  | .txDescriptor _ => true
  | .frameRelease _ _ => true
  | .ackTimeout _ => true
  | .deadlineExpiry _ => true
  | .frameSync _ psdu _ _ _ _ => psduOk psdu
  | .frameEndVerdict _ fcs _ _ _ => decide (fcs.length = 2) || decide (fcs.length = 4)
  | .ackSend _ => true
  | .ackReceive _ psdu fcs => psduOk psdu && (decide (fcs.length = 2) || decide (fcs.length = 4))
  | .ledgerAge => true
  | .hopCommit _ _ => true
  | .hopApply => true
  | .paFault _ _ => true
  | .ctrTxWrite _ _ _ => true
  | .lnkGenWrite _ _ _ => true
  | .genSwitch => true
  | .genRetire => true
  | .ctxInval _ _ => true
  | .ctxInvalAll _ _ => true
  | .tunnelVerify => true
  | .keyReceive x => airOk x
  | .presenceReceive x => airOk x
  | .energyReceive x => airOk x
  | .energyReportSend => true
  | .childAdd x => airOk x
  | .childDel x => airOk x
  | .rejoinVia x => airOk x
  | .wakeSet x => airOk x
  | .energyCfg x => airOk x
  | .schedSet x => airOk x
  | .modeAck x => airOk x
  | .modeGet x => airOk x
  | .ppsEdge _ _ => true
  | .ppsLost _ => true
  | .todTimeout _ => true
  | .snap _ _ _ => true
  | .stepGo _ _ => true
  | .timeStep _ => true
  | .offsetLoad _ _ _ => true
  | .cntRead _ _ => true
  | .tickRead _ => true
  | .dreqSend => true
  | .dreq x => airOk x
  | .dresp x => airOk x
  | .todSet _ _ => true
  | .timeGet _ _ => true
  | .timeSrc _ => true
  | .narrowWrite m addr _ => addrOk m addr
  | .narrowRead m addr => addrOk m addr
  | .multiDw _ addr words => addrOk .host addr && decide (addr % 4 = 0) && decide (2 ≤ words.length)
  | .unmappedAccess m _ addr _ => addrOk m addr && decide (addr % 4 = 0)
  | .registerWrite m addr _ => addrOk m addr && decide (addr % 4 = 0)
  | .rcRead m addr => addrOk m addr && decide (addr % 4 = 0)
  | .pageLock _ _ _ => true
  | .blockEnable _ _ => true
  | .blockDisable _ _ => true
  | .drainSet _ _ => true
  | .drainClear _ _ => true
  | .drainComplete _ => true
  | .kill _ _ => true
  | .pageRstReq _ _ => true
  | .irqClear _ _ _ => true
  | .irqForce _ _ _ => true
  | .swIrqSet _ _ => true
  | .aptCommit _ _ => true
  | .apertureSwitch => true
  | .bar2Access a => bar2Ok a
  | .hostBeat _ _ => true
  | .hostLost _ _ => true
  | .hostSeen _ _ => true
  | .mbxDoorbell _ _ => true
  | .mbxCommandTake raw _ => decide (raw.length = 64)
  | .mbxReset => true
  | .eventsLost => true
  | .nop _ => true
  | .info _ => true
  | .wareSubmit _ _ => true
  | .wareDispatch _ _ _ => true
  | .wareWindowRead _ => true
  | .wareRetire _ _ => true
  | .completionWrite => true
  | .takeRead _ _ _ => true
  | .takePoll _ _ _ => true
  | .takeTimeout _ => true
  | .matchTimeout _ => true
  | .counterWrite _ _ => true
  | .counterAdd _ _ => true
  | .classCfgWrite _ _ _ => true
  | .domCfgWrite _ _ => true
  | .queuePush _ _ _ => true
  | .queueHwPush _ => true
  | .queuePop _ _ => true
  | .queuePeek _ _ => true
  | .queueFlush _ _ => true
  | .qcfgWrite _ _ _ => true
  | .checkFrameStart src chan => decide (src < 14) && decide (chan < 16)
  | .checkFrameEnd src chan _ => decide (src < 14) && decide (chan < 16)
  | .cvalWrite _ _ _ => true
  | .scrubBurst _ => true
  | .sramScrub _ => true
  | .openPosition _ _ => true
  | .dropout _ => true
  | .sinkHot _ => true
  | .drvLinkLost _ => true
  | .stringTest _ volts => decide (volts.length ≤ 32)
  | .fsyncEdge _ _ => true
  | .shadowWrite _ _ _ _ => true
  | .swapArm _ _ => true
  | .swapDisarm _ => true
  | .drvTake _ _ => true
  | .drvClrFault _ _ => true
  | .bankLoad _ _ => true
  | .drvStatus _ => true
  | .defaultSet _ => true
  | .cycleBoundary _ _ chans _ => decide (chans.length = 12)
  | .lineLost _ => true
  | .virtualBoundary chans => decide (chans.length = 12)
  | .coefCommit _ _ => true
  | .coefCancel _ => true
  | .meterCheckGo _ => true
  | .checkStart => true
  | .checkComplete _ => true
  | .balClose _ => true
  | .pfail _ => true
  | .pfailEnd _ => true
  | .coefLoad _ _ => true
  | .meterCheck _ => true
  | .journalRead _ => true
  | .balSet _ => true
  | .sealTrip _ => true
  | .vbakLow _ => true
  | .calendarSecond _ _ => true
  | .rtcCommit _ _ => true
  | .rtcLoad => true
  | .rtcTimeRead _ _ => true
  | .oscFail => true
  | .pwronAssert _ => true
  | .pwronRelease _ => true
  | .pwronPulseEnd => true
  | .faillitWrite _ _ => true
  | .contHoldWrite _ _ => true
  | .tamper _ => true
  | .rtcSet _ => true
  | .rtcGet _ _ => true
  | .alarmSet _ => true
  | .faillitSet _ => true
  | .tamperCfg _ => true
  | .photoChange _ => true
  | .photoSteady => true
  | .statChange _ _ => true
  | .coilLost _ => true
  | .coilReturn _ => true
  | .contFault _ => true
  | .contSequenceStep => true
  | .contClrFault _ => true
  | .status _ => true
  | .selftest _ => true
  | .selftestRun fails => testsOk fails
  | .radioPathTest _ _ => true
  | .drbgReseed _ => true
  | .zeroize _ => true
  | .vaultInit _ => true
  | .enrolPub _ => true
  | .keyImport _ => true
  | .keyGenerate _ => true
  | .keyDerive _ _ => true
  | .keyExport _ => true
  | .rewrap _ _ => true
  | .keyErase _ => true
  | .approve _ => true
  | .debugOpen _ => true
  | .encrypt _ _ mode iv => ivOk mode iv
  | .decrypt _ _ mode iv => ivOk mode iv
  | .mac _ _ => true
  | .sigVerify _ _ => true
  | .random _ _ => true
  | .measExtend _ _ => true
  | .tapInstruction _ => true
  | .logSubmit _ _ => true
  | .recordWrite => true
  | .lostRecord => true
  | .ledgerScanDone => true
  | .cursorWrite _ _ => true
  | .windowAutoRead _ => true
  | .seriesFeed _ _ => true
  | .serCtrlClear _ _ => true
  | .seriesSave => true
  | .optimeSave => true
  | .ledgerRead _ => true
  | .ledgerNote _ => true
  | .seriesRead _ => true
  | .seriesCfg _ => true
  | .seriesClear _ => true
  | .linkUp _ => true
  | .linkDown _ => true
  | .ringFrameReceive _ _ _ _ => true
  | .discover => true
  | .discoverSend => true
  | .ringDelayMeasure _ => true
  | .dlyReq _ => true
  | .dlyResp => true
  | .syncSend _ => true
  | .sync => true
  | .masterLost _ => true
  | .heartbeatSend => true
  | .heartbeat => true
  | .pathLost => true
  | .takeoverDecision => true
  | .checkpointCapture => true
  | .ckptData => true
  | .ckptAck => true
  | .checkpointAbandon => true
  | .demotionCheck => true
  | .prepare => true
  | .ready => true
  | .refuse => true
  | .ringDecide => true
  | .ringDecisionRepeat => true
  | .ringCommit => true
  | .ringAbort => true
  | .ringQuery => true
  | .ringConfirm => true
  | .ringDoubtQuery => true
  | .ringDoubtExpiry => true
  | .ringResetFrame => true
  | .ringData => true
  | .rrstCtrlWrite _ _ => true
  | .mapForget _ _ => true
  | .fovCfgWrite _ _ => true
  | .ckptFull _ => true
  | .fovRelease _ => true
  | .ringStatus _ => true
  | .ringReset _ => true
  | .ringForget _ => true
  | .fovSet _ => true
  | .ckptNow _ => true
  | .updBegin _ => true
  | .updBlock _ => true
  | .updStatus _ => true
  | .updApply _ => true
  | .applyDone _ => true
  | .updCommit _ => true
  | .copyDone _ => true
  | .updReset => true
  | .updAbort _ => true
  | .settingsArchiveRead _ => true
  | .settingsReset => true
  | .updBooted => true
  | .nodeEnroll _ => true
  | .nodeRemove _ => true
  | .nodeTable _ => true
  | .joinCtrl _ => true
  | .graphLoad _ => true
  | .policySet _ => true
  | .weatherSet _ => true
  | .tracksGet _ => true
  | .modeSet _ => true
  | .modeCancel _ => true
  | .modeStatus _ => true
  | .ringMode _ => true
  | .schedPush _ => true
  | .vbakSwitchover _ => true
  | .vbakRestored _ => true
  | .oscRestart => true
  | .porterTransferDone t => porterOk t
  | .vaultOpComplete _ => true
  | .txFrameEnd _ => true
  | .ringDecisionExpiry => true

end Sys2Proof
end

