-- ==== Sys2Proof/Safety.lean ====
section
/-! DEFINITION. What counts as a safe state and a safe step, in the terms that the statements use: canonical stores, the parts of the state that a step may change, and commands that are ready to run. -/

namespace Sys2Proof.Machine

open Sys2Proof

/-! ### The parts of the state -/

/-- The parts of the state, one for each field; the endpoint's pending bits of vectors are a part of their own. -/
inductive Part where
  | pending
  | modId
  | regs
  | out
  | resp
  | free
  | cnt
  | edgeCnt
  | netEdge
  | mbx
  | mkt
  | que
  | chk
  | ldg
  | ntm
  | mem
  | nvs
  | emc
  | boot
  | pwt
  | vlt
  | cry
  | rad
  | chn
  | lnk
  | bcn
  | net
  | cor
  | lvl
  | fsw
  | port
  | drg
  | scl
  | nrg
  | ibg
  | rmc
  | fov
  | upd
  | host
  | pba
  deriving DecidableEq, Repr

/-- A part is the same in two states. -/
def SamePart (s t : State) (p : Part) : Prop :=
  match p with
  | .pending => t.pending = s.pending
  | .modId => t.modId = s.modId
  | .regs => t.regs = s.regs
  | .out => t.out = s.out
  | .resp => t.resp = s.resp
  | .free => t.free = s.free
  | .cnt => t.cnt = s.cnt
  | .edgeCnt => t.edgeCnt = s.edgeCnt
  | .netEdge => t.netEdge = s.netEdge
  | .mbx => t.mbx = s.mbx
  | .mkt => t.mkt = s.mkt
  | .que => t.que = s.que
  | .chk => t.chk = s.chk
  | .ldg => t.ldg = s.ldg
  | .ntm => t.ntm = s.ntm
  | .mem => t.mem = s.mem
  | .nvs => t.nvs = s.nvs
  | .emc => t.emc = s.emc
  | .boot => t.boot = s.boot
  | .pwt => t.pwt = s.pwt
  | .vlt => t.vlt = s.vlt
  | .cry => t.cry = s.cry
  | .rad => t.rad = s.rad
  | .chn => t.chn = s.chn
  | .lnk => t.lnk = s.lnk
  | .bcn => t.bcn = s.bcn
  | .net => t.net = s.net
  | .cor => t.cor = s.cor
  | .lvl => t.lvl = s.lvl
  | .fsw => t.fsw = s.fsw
  | .port => t.port = s.port
  | .drg => t.drg = s.drg
  | .scl => t.scl = s.scl
  | .nrg => t.nrg = s.nrg
  | .ibg => t.ibg = s.ibg
  | .rmc => t.rmc = s.rmc
  | .fov => t.fov = s.fov
  | .upd => t.upd = s.upd
  | .host => { t.host with pba := 0 } = { s.host with pba := 0 }
  | .pba => t.host.pba = s.host.pba

/-- A step from s to t changes no part outside the list. -/
def ChangesOnly (ps : List Part) (s t : State) : Prop := ∀ p, p ∉ ps → SamePart s t p

/-- A step from s to t changes no register outside the list of addresses. -/
def RegsOnly (as : List Nat) (s t : State) : Prop := ∀ a, a ∉ as → t.rd a = s.rd a

/-- A step from s to t changes no register outside the pages of the list, a page being an address divided by 4,096. -/
def PagesOnly (ps : List Nat) (s t : State) : Prop := ∀ a, a / 0x1000 ∉ ps → t.rd a = s.rd a

/-! ### What each command can change -/

/-- Everything that a reset of the module can change: all but the queue, the identity, the last answer and the eMMC. -/
def resetParts : List Part := [.regs, .out, .free, .cnt, .edgeCnt, .netEdge, .mbx, .mkt, .que, .chk, .ldg, .ntm, .mem, .nvs, .boot, .pwt, .vlt, .cry, .rad, .chn, .lnk, .bcn, .net, .cor, .lvl, .fsw, .port, .drg, .scl, .nrg, .ibg, .rmc, .fov, .upd, .host, .pba]

/-- The parts of the state that a command can change: everything else it leaves as it was. -/
def touches : Instr → List Part
  | .powerOn => resetParts
  | .vinBrownOut .. => resetParts
  | .coreSupplyFault .. => resetParts
  | .modReset .. => resetParts
  | .swReset .. => .resp :: resetParts
  | .pewterIntegrityCheck .. => [.regs, .out, .ntm, .boot, .pwt, .vlt, .fsw, .pba]
  | .sequencerDefaults => [.regs, .out, .boot, .fsw, .port, .pba]
  | .bootCheck .. => [.regs, .out, .free, .ldg, .mem, .nvs, .emc, .boot, .vlt, .net, .lvl, .ibg, .fov, .upd, .pba]
  | .benchRecovery .. => [.emc, .upd]
  | .perst => [.regs, .out, .mbx, .mkt, .que, .ldg, .ntm, .host, .pba]
  | .lockstepMismatch .. => resetParts
  | .laneWatchdog .. => resetParts
  | .serviceWatchdog => resetParts
  | .thermalTrip .. => resetParts
  | .tempWarning .. => [.regs, .out, .pba]
  | .blockReset .. => .resp :: resetParts
  | .blockReleaseRequest .. => [.regs, .out, .resp, .host, .pba]
  | .blockRelease .. => [.regs, .out, .mbx, .ldg, .chn, .cor, .scl, .fov, .pba]
  | .releaseTimeout .. => [.regs, .out, .ldg, .pba]
  | .tickEdge .. => [.regs, .out, .free, .cnt, .edgeCnt, .netEdge, .mbx, .mkt, .que, .ldg, .ntm, .mem, .nvs, .rad, .chn, .lnk, .bcn, .net, .cor, .lvl, .port, .drg, .scl, .nrg, .ibg, .fov, .host, .pba]
  | .corridorRun .. => [.regs, .out, .mbx, .que, .ldg, .cor, .pba]
  | .levelPublish => [.regs, .out, .mbx, .ldg, .cor, .lvl, .pba]
  | .occRowWrite => [.regs, .out, .free, .ldg, .mem, .pba]
  | .graphCheck .. => [.regs, .out, .resp, .cor, .host, .pba]
  | .graphCheckDone => [.regs, .out, .mbx, .ldg, .cor, .pba]
  | .graphArm .. => [.regs, .out, .resp, .ldg, .cor, .host, .pba]
  | .graphDisarm .. => [.regs, .out, .resp, .cor, .host, .pba]
  | .graphSwap => [.regs, .out, .mbx, .ldg, .cor, .pba]
  | .policyCommit .. => [.regs, .out, .resp, .ldg, .cor, .host, .pba]
  | .policyApply => [.regs, .cor]
  | .waveStart => [.regs, .out, .ldg, .nvs, .rad, .chn, .lnk, .lvl, .pba]
  | .floodForward => [.regs, .out, .nvs, .rad, .chn, .lvl, .pba]
  | .stripeReceive .. => [.regs, .out, .cnt, .ldg, .lvl, .pba]
  | .modeAnnounce .. => [.regs, .out, .resp, .que, .ldg, .nvs, .rad, .chn, .lnk, .net, .lvl, .host, .pba]
  | .modeCtrlCancel .. => [.regs, .out, .resp, .mbx, .chn, .lvl, .host, .pba]
  | .modeWave => [.regs, .out, .ldg, .nvs, .rad, .chn, .lnk, .lvl, .pba]
  | .modeReceive .. => [.regs, .out, .cnt, .ldg, .chn, .lvl, .pba]
  | .modeAckSend => [.regs, .out, .que, .rad, .net, .lvl, .pba]
  | .schedulePoint => [.lvl]
  | .beaconBuild => [.mem, .bcn]
  | .beaconSend .. => [.regs, .out, .free, .cnt, .mem, .nvs, .rad, .chn, .lnk, .bcn, .pba]
  | .beaconReceive .. => [.regs, .out, .cnt, .mbx, .que, .ldg, .ntm, .rad, .chn, .bcn, .net, .lvl, .pba]
  | .beaconMiss .. => [.regs, .out, .cnt, .mbx, .ldg, .ntm, .bcn, .net, .lvl, .pba]
  | .orphanListenEnd => [.regs, .out, .que, .rad, .bcn, .net, .pba]
  | .scanStep => [.regs, .out, .bcn, .pba]
  | .bcnNodeWrite .. => [.regs, .out, .resp, .free, .ldg, .mem, .bcn, .host, .pba]
  | .joinReq .. => [.regs, .out, .free, .mbx, .que, .ldg, .mem, .nvs, .rad, .lnk, .net, .pba]
  | .joinAcc .. => [.regs, .out, .free, .que, .ldg, .ntm, .mem, .nvs, .rad, .lnk, .bcn, .net, .pba]
  | .joinRef .. => [.regs, .out, .que, .rad, .bcn, .net, .pba]
  | .joinTimeout => [.regs, .out, .que, .rad, .bcn, .net, .pba]
  | .joinConfirmTimeout .. => [.regs, .out, .free, .mbx, .que, .ldg, .mem, .nvs, .rad, .lnk, .net, .pba]
  | .statusReceive .. => [.regs, .out, .free, .mbx, .ldg, .mem, .lnk, .net, .pba]
  | .joinWindowExpiry => [.regs, .net]
  | .sleepyWake .. => [.regs, .out, .free, .que, .rad, .net, .pba]
  | .heldFrameExpiry => [.net]
  | .mhopForward .. => [.regs, .out, .que, .rad, .net, .pba]
  | .txDescriptor .. => [.regs, .out, .que, .rad, .net, .pba]
  | .frameRelease .. => [.regs, .out, .free, .que, .ntm, .mem, .nvs, .rad, .chn, .lnk, .net, .pba]
  | .ackTimeout .. => [.regs, .out, .free, .que, .rad, .net, .pba]
  | .deadlineExpiry .. => [.regs, .out, .que, .rad, .net, .pba]
  | .frameSync .. => [.regs, .out, .free, .cnt, .ldg, .mem, .rad, .lnk, .lvl, .pba]
  | .frameEndVerdict .. => [.regs, .out, .free, .mkt, .que, .ldg, .mem, .nvs, .rad, .lnk, .net, .pba]
  | .ackSend .. => [.regs, .out, .que, .nvs, .rad, .chn, .lnk, .net, .pba]
  | .ackReceive .. => [.regs, .out, .free, .que, .rad, .net, .pba]
  | .ledgerAge => [.regs, .out, .nvs, .chn, .pba]
  | .hopCommit .. => [.regs, .out, .resp, .ldg, .chn, .host, .pba]
  | .hopApply => [.regs, .out, .chn, .pba]
  | .paFault .. => [.regs, .out, .rad, .pba]
  | .ctrTxWrite .. => [.regs, .out, .resp, .nvs, .lnk, .host, .pba]
  | .lnkGenWrite .. => [.regs, .out, .resp, .ldg, .host, .pba]
  | .genSwitch => [.regs, .out, .nvs, .lnk, .pba]
  | .genRetire => [.regs, .out, .free, .ldg, .mem, .lnk, .pba]
  | .ctxInval .. => [.regs, .out, .resp, .lnk, .host, .pba]
  | .ctxInvalAll .. => [.regs, .out, .resp, .lnk, .host, .pba]
  | .tunnelVerify => [.regs, .out, .free, .que, .ldg, .mem, .nvs, .lnk, .pba]
  | .keyReceive .. => [.regs, .out, .free, .que, .ldg, .mem, .nvs, .vlt, .rad, .lnk, .net, .pba]
  | .presenceReceive .. => [.regs, .out, .cnt, .que, .pba]
  | .energyReceive .. => [.nrg]
  | .energyReportSend => [.regs, .out, .que, .rad, .net, .nrg, .pba]
  | .childAdd .. => [.regs, .out, .free, .ldg, .mem, .nvs, .lnk, .net, .pba]
  | .childDel .. => [.regs, .out, .free, .ldg, .mem, .lnk, .net, .pba]
  | .rejoinVia .. => [.regs, .out, .que, .rad, .bcn, .net, .pba]
  | .wakeSet .. => [.net]
  | .energyCfg .. => [.nrg]
  | .schedSet .. => [.regs, .lvl]
  | .modeAck .. => [.regs, .lvl]
  | .modeGet .. => [.regs, .out, .que, .rad, .net, .pba]
  | .ppsEdge .. => [.regs, .out, .cnt, .mbx, .ldg, .ntm, .pba]
  | .ppsLost .. => [.regs, .out, .cnt, .mbx, .ldg, .ntm, .pba]
  | .todTimeout .. => [.regs, .out, .cnt, .mbx, .ntm, .pba]
  | .snap .. => [.regs, .out, .resp, .cnt, .host, .pba]
  | .stepGo .. => [.regs, .out, .resp, .ntm, .host, .pba]
  | .timeStep .. => [.regs, .out, .cnt, .mbx, .ldg, .ntm, .pba]
  | .offsetLoad .. => [.regs, .out, .resp, .cnt, .ntm, .host, .pba]
  | .cntRead .. => [.regs, .out, .resp, .cnt, .ntm, .host, .pba]
  | .tickRead .. => [.regs, .out, .resp, .ntm, .host, .pba]
  | .dreqSend => [.regs, .out, .que, .ntm, .rad, .net, .pba]
  | .dreq .. => [.regs, .out, .cnt, .que, .rad, .net, .pba]
  | .dresp .. => [.regs, .out, .cnt, .ntm, .pba]
  | .todSet .. => [.regs, .out, .cnt, .mbx, .ldg, .ntm, .pba]
  | .timeGet .. => [.regs, .out, .cnt, .mbx, .ldg, .pba]
  | .timeSrc .. => [.regs, .out, .mbx, .ldg, .pba]
  | .narrowWrite .. => [.regs, .out, .resp, .host, .pba]
  | .narrowRead .. => [.regs, .out, .resp, .host, .pba]
  | .multiDw .. => [.regs, .out, .resp, .host, .pba]
  | .unmappedAccess .. => [.regs, .out, .resp, .host, .pba]
  | .registerWrite .. => .resp :: .emc :: resetParts
  | .rcRead .. => [.regs, .out, .resp, .free, .mkt, .que, .chk, .ldg, .ntm, .mem, .host, .pba]
  | .pageLock .. => [.regs, .out, .resp, .host, .pba]
  | .blockEnable .. => .resp :: resetParts
  | .blockDisable .. => .resp :: resetParts
  | .drainSet .. => .resp :: resetParts
  | .drainClear .. => .resp :: resetParts
  | .drainComplete .. => [.regs, .out, .cnt, .port, .pba]
  | .kill .. => .resp :: resetParts
  | .pageRstReq .. => .resp :: resetParts
  | .irqClear .. => [.regs, .out, .resp, .host, .pba]
  | .irqForce .. => [.regs, .out, .resp, .host, .pba]
  | .swIrqSet .. => [.regs, .out, .resp, .host, .pba]
  | .aptCommit .. => [.regs, .out, .resp, .host, .pba]
  | .apertureSwitch => resetParts
  | .bar2Access .. => .resp :: resetParts
  | .hostBeat .. => [.regs, .out, .resp, .mbx, .mkt, .que, .ldg, .ntm, .host, .pba]
  | .hostLost .. => [.regs, .out, .mbx, .mkt, .que, .ldg, .ntm, .host, .pba]
  | .hostSeen .. => [.regs, .out, .mbx, .mkt, .que, .ldg, .ntm, .host, .pba]
  | .mbxDoorbell .. => [.regs, .out, .resp, .host, .pba]
  | .mbxCommandTake .. => [.regs, .out, .mbx, .pba]
  | .mbxReset => [.regs, .out, .mbx, .ldg, .pba]
  | .eventsLost => [.regs, .out, .mbx, .ldg, .pba]
  | .nop .. => [.regs, .out, .mbx, .ldg, .pba]
  | .info .. => [.regs, .out, .mbx, .ldg, .pba]
  | .wareSubmit .. => [.regs, .out, .resp, .mkt, .que, .host, .pba]
  | .wareDispatch .. => .resp :: resetParts
  | .wareWindowRead .. => [.regs, .out, .resp, .mkt, .que, .pba]
  | .wareRetire .. => [.regs, .out, .resp, .mkt, .que, .host, .pba]
  | .completionWrite => [.regs, .out, .mkt, .que, .pba]
  | .takeRead .. => [.regs, .out, .resp, .mkt, .que, .host, .pba]
  | .takePoll .. => [.regs, .out, .resp, .mkt, .que, .host, .pba]
  | .takeTimeout .. => .resp :: resetParts
  | .matchTimeout .. => [.regs, .out, .mkt, .que, .pba]
  | .counterWrite .. => [.regs, .out, .resp, .mkt, .host, .pba]
  | .counterAdd .. => [.regs, .out, .resp, .mkt, .host, .pba]
  | .classCfgWrite .. => [.regs, .out, .resp, .host, .pba]
  | .domCfgWrite .. => [.regs, .out, .resp, .mkt, .host, .pba]
  | .queuePush .. => [.regs, .out, .resp, .que, .host, .pba]
  | .queueHwPush .. => [.regs, .out, .que, .pba]
  | .queuePop .. => [.regs, .out, .resp, .free, .que, .host, .pba]
  | .queuePeek .. => [.regs, .out, .resp, .free, .que, .host, .pba]
  | .queueFlush .. => [.regs, .out, .resp, .que, .host, .pba]
  | .qcfgWrite .. => [.regs, .out, .resp, .que, .host, .pba]
  | .checkFrameStart .. => [.regs, .chk]
  | .checkFrameEnd .. => [.regs, .out, .chk, .pba]
  | .cvalWrite .. => [.regs, .out, .resp, .host, .pba]
  | .scrubBurst .. => resetParts
  | .sramScrub .. => [.regs, .out, .free, .mem, .pba]
  | .openPosition .. => [.regs, .out, .mbx, .ldg, .port, .pba]
  | .dropout .. => [.regs, .out, .mbx, .ldg, .pba]
  | .sinkHot .. => [.regs, .out, .mbx, .ldg, .port, .pba]
  | .drvLinkLost .. => [.regs, .out, .mbx, .ldg, .port, .pba]
  | .stringTest .. => [.regs, .out, .mbx, .ldg, .port, .pba]
  | .fsyncEdge .. => [.regs, .out, .cnt, .mbx, .ldg, .port, .drg, .pba]
  | .shadowWrite .. => [.regs, .out, .resp, .drg, .host, .pba]
  | .swapArm .. => [.regs, .out, .resp, .cnt, .ldg, .drg, .host, .pba]
  | .swapDisarm .. => [.regs, .out, .resp, .mbx, .drg, .host, .pba]
  | .drvTake .. => [.regs, .out, .resp, .port, .host, .pba]
  | .drvClrFault .. => [.regs, .out, .resp, .port, .host, .pba]
  | .bankLoad .. => [.regs, .out, .cnt, .mbx, .ldg, .drg, .pba]
  | .drvStatus .. => [.regs, .out, .mbx, .ldg, .pba]
  | .defaultSet .. => [.regs, .out, .mbx, .ldg, .pba]
  | .cycleBoundary .. => [.regs, .out, .free, .cnt, .mbx, .mkt, .que, .ldg, .mem, .nvs, .scl, .nrg, .pba]
  | .lineLost .. => [.regs, .out, .cnt, .mbx, .ldg, .scl, .pba]
  | .virtualBoundary .. => [.regs, .out, .free, .cnt, .mbx, .mkt, .que, .ldg, .mem, .nvs, .scl, .nrg, .pba]
  | .coefCommit .. => [.regs, .out, .resp, .cnt, .scl, .host, .pba]
  | .coefCancel .. => [.regs, .out, .resp, .mbx, .scl, .host, .pba]
  | .meterCheckGo .. => [.regs, .out, .resp, .scl, .host, .pba]
  | .checkStart => [.scl]
  | .checkComplete .. => [.regs, .out, .mbx, .ldg, .scl, .pba]
  | .balClose .. => [.regs, .out, .resp, .mbx, .ldg, .host, .pba]
  | .pfail .. => [.regs, .out, .free, .ldg, .nvs, .scl, .pba]
  | .pfailEnd .. => [.regs, .out, .free, .pba]
  | .coefLoad .. => [.regs, .out, .cnt, .mbx, .ldg, .scl, .pba]
  | .meterCheck .. => [.regs, .out, .mbx, .ldg, .scl, .pba]
  | .journalRead .. => [.regs, .out, .mbx, .ldg, .pba]
  | .balSet .. => [.regs, .out, .mbx, .que, .ldg, .rad, .net, .nrg, .pba]
  | .sealTrip .. => [.free, .pwt]
  | .vbakLow .. => [.regs, .out, .mbx, .ldg, .pwt, .pba]
  | .calendarSecond .. => [.regs, .out, .cnt, .mbx, .ldg, .pwt, .pba]
  | .rtcCommit .. => [.regs, .out, .resp, .pwt, .host, .pba]
  | .rtcLoad => [.regs, .out, .mbx, .pwt, .pba]
  | .rtcTimeRead .. => [.regs, .out, .resp, .host, .pba]
  | .oscFail => [.regs, .out, .pwt, .pba]
  | .pwronAssert .. => [.regs, .out, .resp, .pwt, .host, .pba]
  | .pwronRelease .. => [.regs, .out, .resp, .pwt, .host, .pba]
  | .pwronPulseEnd => [.out, .pwt]
  | .faillitWrite .. => [.regs, .out, .resp, .host, .pba]
  | .contHoldWrite .. => [.regs, .out, .resp, .fsw, .host, .pba]
  | .tamper .. => resetParts
  | .rtcSet .. => [.regs, .out, .mbx, .ldg, .pwt, .pba]
  | .rtcGet .. => [.regs, .out, .mbx, .ldg, .pba]
  | .alarmSet .. => [.regs, .out, .mbx, .ldg, .pba]
  | .faillitSet .. => [.regs, .out, .mbx, .ldg, .pba]
  | .tamperCfg .. => [.regs, .out, .mbx, .ldg, .pwt, .pba]
  | .photoChange .. => [.regs, .out, .fsw, .pba]
  | .photoSteady => [.regs, .out, .lvl, .fsw, .port, .pba]
  | .statChange .. => [.regs, .out, .fsw, .pba]
  | .coilLost .. => [.regs, .out, .fsw, .pba]
  | .coilReturn .. => [.regs, .out, .fsw, .pba]
  | .contFault .. => [.regs, .out, .fsw, .pba]
  | .contSequenceStep => [.regs, .out, .fsw, .pba]
  | .contClrFault .. => [.regs, .out, .resp, .fsw, .host, .pba]
  | .status .. => [.regs, .out, .resp, .mbx, .ldg, .mem, .vlt, .cry, .host, .pba]
  | .selftest .. => [.regs, .out, .resp, .mbx, .ldg, .mem, .vlt, .cry, .host, .pba]
  | .selftestRun .. => [.regs, .out, .mbx, .ldg, .cry, .pba]
  | .radioPathTest .. => [.regs, .out, .mbx, .ldg, .cry, .pba]
  | .drbgReseed .. => [.regs, .out, .free, .mbx, .ldg, .vlt, .pba]
  | .zeroize .. => .resp :: resetParts
  | .vaultInit .. => [.regs, .out, .resp, .mbx, .ldg, .mem, .vlt, .cry, .host, .pba]
  | .enrolPub .. => [.regs, .out, .resp, .mbx, .ldg, .mem, .vlt, .cry, .host, .pba]
  | .keyImport .. => [.regs, .out, .resp, .mbx, .ldg, .mem, .vlt, .cry, .host, .pba]
  | .keyGenerate .. => [.regs, .out, .resp, .mbx, .ldg, .mem, .vlt, .cry, .host, .pba]
  | .keyDerive .. => [.regs, .out, .resp, .mbx, .mem, .vlt, .cry, .host, .pba]
  | .keyExport .. => [.regs, .out, .resp, .mbx, .ldg, .mem, .vlt, .cry, .host, .pba]
  | .rewrap .. => [.regs, .out, .resp, .mbx, .mem, .vlt, .cry, .host, .pba]
  | .keyErase .. => [.regs, .out, .resp, .mbx, .ldg, .mem, .vlt, .cry, .host, .pba]
  | .approve .. => [.regs, .out, .resp, .mbx, .ldg, .mem, .vlt, .cry, .host, .pba]
  | .debugOpen .. => [.regs, .out, .resp, .mbx, .ldg, .mem, .vlt, .cry, .host, .pba]
  | .encrypt .. => [.regs, .out, .resp, .mbx, .mem, .vlt, .cry, .host, .pba]
  | .decrypt .. => [.regs, .out, .resp, .mbx, .mem, .vlt, .cry, .host, .pba]
  | .mac .. => [.regs, .out, .resp, .mbx, .mem, .vlt, .cry, .host, .pba]
  | .sigVerify .. => [.regs, .out, .resp, .mbx, .mem, .vlt, .cry, .host, .pba]
  | .random .. => [.regs, .out, .resp, .mbx, .mem, .vlt, .cry, .host, .pba]
  | .measExtend .. => [.regs, .out, .resp, .mbx, .mem, .vlt, .cry, .host, .pba]
  | .tapInstruction .. => [.regs]
  | .logSubmit .. => [.regs, .out, .resp, .ldg, .host, .pba]
  | .recordWrite => [.regs, .out, .ldg, .nvs, .pba]
  | .lostRecord => [.regs, .out, .ldg, .pba]
  | .ledgerScanDone => [.regs, .out, .mbx, .ldg, .boot, .pba]
  | .cursorWrite .. => [.regs, .out, .resp, .ldg, .host, .pba]
  | .windowAutoRead .. => [.regs, .out, .resp, .ldg, .host, .pba]
  | .seriesFeed .. => [.regs, .out, .resp, .ldg, .host, .pba]
  | .serCtrlClear .. => [.regs, .out, .resp, .ldg, .host, .pba]
  | .seriesSave => [.regs, .out, .nvs, .pba]
  | .optimeSave => [.regs, .out, .nvs, .pba]
  | .ledgerRead .. => [.regs, .out, .mbx, .ldg, .pba]
  | .ledgerNote .. => [.regs, .out, .mbx, .ldg, .pba]
  | .seriesRead .. => [.regs, .out, .mbx, .ldg, .pba]
  | .seriesCfg .. => [.regs, .out, .mbx, .ldg, .pba]
  | .seriesClear .. => [.regs, .out, .mbx, .ldg, .pba]
  | .linkUp .. => [.regs, .out, .ibg, .pba]
  | .linkDown .. => [.regs, .out, .ibg, .pba]
  | .ringFrameReceive .. => [.regs, .out, .cnt, .ibg, .pba]
  | .discover => [.regs, .out, .mbx, .ldg, .ibg, .pba]
  | .discoverSend => [.regs, .out, .ibg]
  | .ringDelayMeasure .. => [.regs, .out, .cnt, .ibg]
  | .dlyReq .. => [.regs, .out, .cnt, .ibg]
  | .dlyResp => [.ibg]
  | .syncSend .. => [.regs, .out, .cnt, .ibg]
  | .sync => [.regs, .out, .free, .mbx, .ldg, .ntm, .ibg, .pba]
  | .masterLost .. => [.regs, .out, .cnt, .mbx, .ldg, .ntm, .ibg, .pba]
  | .heartbeatSend => [.regs, .out, .ibg]
  | .heartbeat => [.ibg, .fov]
  | .pathLost => [.regs, .out, .ldg, .fov, .pba]
  | .takeoverDecision => [.regs, .out, .free, .mbx, .ldg, .fov, .pba]
  | .checkpointCapture => [.regs, .fov]
  | .ckptData => [.regs, .out, .mbx, .ldg, .nvs, .ibg, .fov, .pba]
  | .ckptAck => [.regs, .ibg, .fov]
  | .checkpointAbandon => [.regs, .fov]
  | .demotionCheck => [.regs, .out, .free, .mbx, .mkt, .que, .ldg, .mem, .nvs, .rad, .chn, .bcn, .net, .lvl, .port, .scl, .nrg, .fov, .pba]
  | .prepare => [.regs, .out, .que, .ldg, .nvs, .rad, .chn, .lnk, .net, .lvl, .ibg, .rmc, .pba]
  | .ready => [.ibg, .rmc]
  | .refuse => [.ibg, .rmc]
  | .ringDecide => [.regs, .out, .mbx, .ldg, .chn, .lvl, .ibg, .rmc, .pba]
  | .ringDecisionRepeat => [.regs, .out, .ibg, .rmc]
  | .ringCommit => [.regs, .out, .mbx, .ldg, .chn, .lvl, .ibg, .rmc, .pba]
  | .ringAbort => [.regs, .out, .mbx, .ldg, .chn, .lvl, .ibg, .rmc, .pba]
  | .ringQuery => [.regs, .out, .ibg]
  | .ringConfirm => [.regs, .out, .mbx, .ldg, .chn, .lvl, .ibg, .rmc, .pba]
  | .ringDoubtQuery => [.regs, .out, .ibg]
  | .ringDoubtExpiry => [.regs, .out, .mbx, .chn, .lvl, .rmc, .pba]
  | .ringResetFrame => resetParts
  | .ringData => [.ibg]
  | .rrstCtrlWrite .. => [.regs, .out, .resp, .ibg, .host, .pba]
  | .mapForget .. => [.regs, .out, .resp, .mbx, .ldg, .ibg, .host, .pba]
  | .fovCfgWrite .. => [.regs, .out, .resp, .mbx, .ldg, .fov, .host, .pba]
  | .ckptFull .. => [.regs, .out, .resp, .fov, .host, .pba]
  | .fovRelease .. => [.regs, .out, .resp, .mbx, .ldg, .fov, .host, .pba]
  | .ringStatus .. => [.regs, .out, .mbx, .ldg, .pba]
  | .ringReset .. => [.regs, .out, .mbx, .ldg, .ibg, .pba]
  | .ringForget .. => [.regs, .out, .mbx, .ldg, .ibg, .pba]
  | .fovSet .. => [.regs, .out, .mbx, .ldg, .fov, .pba]
  | .ckptNow .. => [.regs, .out, .mbx, .ldg, .fov, .pba]
  | .updBegin .. => [.regs, .out, .mbx, .ldg, .vlt, .upd, .pba]
  | .updBlock .. => [.regs, .out, .mbx, .ldg, .emc, .vlt, .upd, .pba]
  | .updStatus .. => [.regs, .out, .mbx, .ldg, .pba]
  | .updApply .. => [.regs, .out, .mbx, .ldg, .vlt, .upd, .pba]
  | .applyDone .. => [.regs, .out, .mbx, .emc, .upd, .pba]
  | .updCommit .. => [.regs, .out, .mbx, .ldg, .vlt, .upd, .pba]
  | .copyDone .. => [.regs, .out, .cnt, .mbx, .emc, .upd, .pba]
  | .updReset => resetParts
  | .updAbort .. => [.regs, .out, .mbx, .ldg, .vlt, .upd, .pba]
  | .settingsArchiveRead .. => [.regs, .out, .mbx, .ldg, .pba]
  | .settingsReset => [.regs, .out, .ldg, .nvs, .emc, .boot, .net, .lvl, .ibg, .fov, .upd, .pba]
  | .updBooted => [.regs, .out, .mbx, .ldg, .upd, .pba]
  | .nodeEnroll .. => [.regs, .out, .free, .mbx, .que, .ldg, .mem, .nvs, .pwt, .vlt, .rad, .lnk, .net, .pba]
  | .nodeRemove .. => [.regs, .out, .free, .mbx, .ldg, .mem, .lnk, .net, .pba]
  | .nodeTable .. => [.regs, .out, .mbx, .ldg, .pba]
  | .joinCtrl .. => [.regs, .out, .mbx, .ldg, .net, .pba]
  | .graphLoad .. => [.regs, .out, .mbx, .ldg, .emc, .cor, .pba]
  | .policySet .. => [.regs, .out, .mbx, .ldg, .cor, .pba]
  | .weatherSet .. => [.regs, .out, .mbx, .ldg, .cor, .pba]
  | .tracksGet .. => [.regs, .out, .mbx, .ldg, .pba]
  | .modeSet .. => [.regs, .out, .mbx, .que, .ldg, .nvs, .rad, .chn, .lnk, .net, .lvl, .pba]
  | .modeCancel .. => [.regs, .out, .mbx, .ldg, .chn, .lvl, .pba]
  | .modeStatus .. => [.regs, .out, .mbx, .ldg, .pba]
  | .ringMode .. => [.regs, .out, .free, .mbx, .que, .ldg, .nvs, .rad, .chn, .lnk, .net, .lvl, .ibg, .rmc, .pba]
  | .schedPush .. => [.regs, .out, .mbx, .que, .ldg, .rad, .net, .pba]
  | .vbakSwitchover .. => [.regs, .out, .free, .cnt, .edgeCnt, .netEdge, .mbx, .mkt, .que, .chk, .ldg, .ntm, .mem, .boot, .pwt, .vlt, .cry, .rad, .chn, .lnk, .bcn, .net, .cor, .lvl, .fsw, .port, .drg, .scl, .nrg, .ibg, .rmc, .fov, .upd, .host, .pba]
  | .vbakRestored .. => [.regs, .out, .mbx, .ldg, .pwt, .pba]
  | .oscRestart => [.pwt]
  | .porterTransferDone .. => .resp :: .emc :: resetParts
  | .vaultOpComplete .. => [.regs, .out, .free, .mbx, .ldg, .mem, .pwt, .vlt, .pba]
  | .txFrameEnd .. => [.regs, .out, .que, .rad, .net, .pba]
  | .ringDecisionExpiry => [.rmc]

/-! ### Which commands are accesses to a page, and which are taken from the mailbox -/

/-- The page, the offset and the master of a command that is an access to a register of a page. -/
def pageOf : Instr → Option (Blk × Nat × Master)
  | .swReset m _ => some (.rst, 0x4C, m)
  | .blockReset m hi _ => some (.rst, (if hi then 0x54 else 0x50), m)
  | .blockReleaseRequest m hi _ => some (.rst, (if hi then 0x5C else 0x58), m)
  | .graphCheck m => some (.cor, 0x54, m)
  | .graphArm m => some (.cor, 0x54, m)
  | .graphDisarm m => some (.cor, 0x54, m)
  | .policyCommit m => some (.cor, 0x78, m)
  | .modeAnnounce m => some (.lvl, 0x60, m)
  | .modeCtrlCancel m => some (.lvl, 0x60, m)
  | .bcnNodeWrite m _ => some (.bcn, 0x44, m)
  | .hopCommit m _ => some (.chn, 0x54, m)
  | .ctrTxWrite m k _ => some (.lnk, (0x64 + 4 * k.val), m)
  | .lnkGenWrite m next _ => some (.lnk, (if next then 0x4C else 0x48), m)
  | .ctxInval m _ => some (.lnk, 0xCC, m)
  | .ctxInvalAll m _ => some (.lnk, 0xC8, m)
  | .snap m _ _ => some (.ntm, 0x50, m)
  | .stepGo m _ => some (.ntm, 0x98, m)
  | .offsetLoad m _ _ => some (.ntm, 0xE0, m)
  | .cntRead m _ => some (.ntm, 0x48, m)
  | .tickRead m => some (.ntm, 0xB8, m)
  | .pageLock m b _ => some (b, oLock, m)
  | .blockEnable m b => some (b, oCtrl, m)
  | .blockDisable m b => some (b, oCtrl, m)
  | .drainSet m b => some (b, oCtrl, m)
  | .drainClear m b => some (b, oCtrl, m)
  | .kill m b => some (b, oCtrl, m)
  | .pageRstReq m b => some (b, oCtrl, m)
  | .irqClear m b _ => some (b, oRaw, m)
  | .irqForce m b _ => some (b, 0x2C, m)
  | .swIrqSet m _ => some (.sys, 0x68, m)
  | .aptCommit m _ => some (.sys, 0x58, m)
  | .hostBeat m _ => some (.sys, 0x70, m)
  | .mbxDoorbell m _ => some (.mbx, 0x4C, m)
  | .wareSubmit m _ => some (.mkt, (submitOff m), m)
  | .takeRead port m _ => some (.mkt, (takeOff port.val false), m)
  | .takePoll port m _ => some (.mkt, (takeOff port.val true), m)
  | .counterWrite m _ => some (.mkt, 0xAC, m)
  | .counterAdd m _ => some (.mkt, 0xB0, m)
  | .classCfgWrite m n _ => some (.mkt, (0x80 + 4 * n.val), m)
  | .domCfgWrite m _ => some (.mkt, 0xA4, m)
  | .queuePush m q _ => some (.que, (0x44 + 8 * q.val), m)
  | .queuePop m q => some (.que, (0x40 + 8 * q.queue.val), m)
  | .queuePeek m q => some (.que, (0x40 + 8 * q.queue.val), m)
  | .queueFlush m q => some (.que, (0x100 + 0x20 * q.val), m)
  | .qcfgWrite m q _ => some (.que, (0x100 + 0x20 * q.val), m)
  | .cvalWrite m u _ => some (.chk, (0x110 + 0x20 * u.val), m)
  | .shadowWrite m port index _ => some (.drg, (0x100 + 64 * port.val + 4 * index.val), m)
  | .swapArm m _ => some (.drg, 0x4C, m)
  | .swapDisarm m => some (.drg, 0x4C, m)
  | .drvTake m port => some ((.drv port), 0x58, m)
  | .drvClrFault m port => some ((.drv port), 0x58, m)
  | .coefCommit m _ => some (.scl, 0x64, m)
  | .coefCancel m => some (.scl, 0x64, m)
  | .meterCheckGo m => some (.scl, 0x74, m)
  | .balClose m => some (.scl, 0xC50, m)
  | .rtcCommit m _ => some (.pwt, 0x64, m)
  | .rtcTimeRead m _ => some (.pwt, 0x50, m)
  | .pwronAssert m => some (.pwt, 0x94, m)
  | .pwronRelease m => some (.pwt, 0x94, m)
  | .faillitWrite m _ => some (.pwt, 0xA0, m)
  | .contHoldWrite m _ => some (.fsw, 0x40, m)
  | .contClrFault m => some (.fsw, 0x48, m)
  | .status (.window m _) => some (.vlt, 0x58, m)
  | .selftest (.window m _) => some (.vlt, 0x58, m)
  | .zeroize (.window m _) => some (.vlt, 0x74, m)
  | .vaultInit (.window m _) => some (.vlt, 0x58, m)
  | .enrolPub (.window m _) => some (.vlt, 0x58, m)
  | .keyImport (.window m _) => some (.vlt, 0x58, m)
  | .keyGenerate (.window m _) => some (.vlt, 0x58, m)
  | .keyDerive m _ => some (.vlt, 0x58, m)
  | .keyExport (.window m _) => some (.vlt, 0x58, m)
  | .rewrap m _ => some (.vlt, 0x58, m)
  | .keyErase (.window m _) => some (.vlt, 0x58, m)
  | .approve (.window m _) => some (.vlt, 0x58, m)
  | .debugOpen (.window m _) => some (.vlt, 0x58, m)
  | .encrypt m _ _ _ => some (.vlt, 0x58, m)
  | .decrypt m _ _ _ => some (.vlt, 0x58, m)
  | .mac m _ => some (.vlt, 0x58, m)
  | .sigVerify m _ => some (.vlt, 0x58, m)
  | .random m _ => some (.vlt, 0x58, m)
  | .measExtend m _ => some (.vlt, 0x58, m)
  | .logSubmit m _ => some (.ldg, 0x60, m)
  | .cursorWrite m _ => some (.ldg, 0xA0, m)
  | .windowAutoRead m => some (.ldg, 0xDC, m)
  | .seriesFeed m _ => some (.ldg, 0x144, m)
  | .serCtrlClear m _ => some (.ldg, 0x138, m)
  | .rrstCtrlWrite m _ => some (.ibg, 0xC0, m)
  | .mapForget m _ => some (.ibg, 0xC4, m)
  | .fovCfgWrite m _ => some (.fov, 0x40, m)
  | .ckptFull m => some (.fov, 0x68, m)
  | .fovRelease (.reg m _) => some (.fov, 0x6C, m)
  | _ => none

/-- A service of the vault that a command asks for: its OP, whether the Crypto Officer's authenticator is asked for through the mailbox, the request, and the mode and initial vector of an AES operation. -/
def vltOf : Instr → Option (Nat × Bool × VltReq × AesMode × Bytes)
  | .status req => some (0x00, false, req, .ecb, [])
  | .vaultInit req => some (0x03, false, req, .ecb, [])
  | .enrolPub req => some (0x04, false, req, .ecb, [])
  | .keyImport req => some (0x05, true, req, .ecb, [])
  | .keyGenerate req => some (0x06, true, req, .ecb, [])
  | .keyDerive m v => some (0x07, false, .window m v, .ecb, [])
  | .keyExport req => some (0x08, true, req, .ecb, [])
  | .rewrap m v => some (0x09, false, .window m v, .ecb, [])
  | .keyErase req => some (0x0A, true, req, .ecb, [])
  | .approve req => some (0x0B, true, req, .ecb, [])
  | .debugOpen req => some (0x0C, true, req, .ecb, [])
  | .encrypt m v mode iv => some (0x20, false, .window m v, mode, iv)
  | .decrypt m v mode iv => some (0x21, false, .window m v, mode, iv)
  | .mac m v => some (0x22, false, .window m v, .ecb, [])
  | .sigVerify m v => some (0x23, false, .window m v, .ecb, [])
  | .random m v => some (0x24, false, .window m v, .ecb, [])
  | .measExtend m v => some (0x25, false, .window m v, .ecb, [])
  | _ => none

/-- The opcode and tag of a command that runs a mailbox command. -/
def mbxOf : Instr → Option (Nat × Word)
  | .todSet tag _ => some (0x0100, tag)
  | .timeGet tag _ => some (0x0101, tag)
  | .timeSrc tag => some (0x0102, tag)
  | .nop tag => some (0x0000, tag)
  | .info tag => some (0x0001, tag)
  | .bankLoad tag _ => some (0x0600, tag)
  | .drvStatus tag => some (0x0601, tag)
  | .defaultSet tag => some (0x0602, tag)
  | .coefLoad tag _ => some (0x0700, tag)
  | .meterCheck tag => some (0x0701, tag)
  | .journalRead tag => some (0x0710, tag)
  | .balSet tag => some (0x0711, tag)
  | .rtcSet tag => some (0x0800, tag)
  | .rtcGet tag _ => some (0x0801, tag)
  | .alarmSet tag => some (0x0802, tag)
  | .faillitSet tag => some (0x0803, tag)
  | .tamperCfg tag => some (0x0804, tag)
  | .status (.mbx tag) => some (0x0900, tag)
  | .selftest (.mbx tag) => some (0x0901, tag)
  | .zeroize (.mbx tag) => some (0x0902, tag)
  | .vaultInit (.mbx tag) => some (0x0903, tag)
  | .enrolPub (.mbx tag) => some (0x0904, tag)
  | .keyImport (.mbx tag) => some (0x0905, tag)
  | .keyGenerate (.mbx tag) => some (0x0906, tag)
  | .keyExport (.mbx tag) => some (0x0908, tag)
  | .keyErase (.mbx tag) => some (0x090A, tag)
  | .approve (.mbx tag) => some (0x090B, tag)
  | .debugOpen (.mbx tag) => some (0x090C, tag)
  | .ledgerRead tag => some (0x0A00, tag)
  | .ledgerNote tag => some (0x0A01, tag)
  | .seriesRead tag => some (0x0A02, tag)
  | .seriesCfg tag => some (0x0A03, tag)
  | .seriesClear tag => some (0x0A04, tag)
  | .fovRelease (.mbx tag) => some (0x0B05, tag)
  | .ringStatus tag => some (0x0B00, tag)
  | .ringReset tag => some (0x0B01, tag)
  | .ringForget tag => some (0x0B02, tag)
  | .fovSet tag => some (0x0B03, tag)
  | .ckptNow tag => some (0x0B04, tag)
  | .updBegin tag => some (0x0C00, tag)
  | .updBlock tag => some (0x0C01, tag)
  | .updStatus tag => some (0x0C02, tag)
  | .updApply tag => some (0x0C03, tag)
  | .updCommit tag => some (0x0C04, tag)
  | .updAbort tag => some (0x0C05, tag)
  | .settingsArchiveRead tag => some (0x0C06, tag)
  | .nodeEnroll tag => some (0x0200, tag)
  | .nodeRemove tag => some (0x0201, tag)
  | .nodeTable tag => some (0x0202, tag)
  | .joinCtrl tag => some (0x0203, tag)
  | .graphLoad tag => some (0x0400, tag)
  | .policySet tag => some (0x0401, tag)
  | .weatherSet tag => some (0x0402, tag)
  | .tracksGet tag => some (0x0403, tag)
  | .modeSet tag => some (0x0500, tag)
  | .modeCancel tag => some (0x0501, tag)
  | .modeStatus tag => some (0x0502, tag)
  | .ringMode tag => some (0x0503, tag)
  | .schedPush tag => some (0x0504, tag)
  | _ => none

/-! ### Canonical stores -/

/-- The register file and every byte store hold their canonical form; the boot slot, whose unwritten bytes are open, has its addresses rising. -/
def Canon (s : State) : Prop :=
  Sparse.wf (regDefault s.modId.variantB) s.regs = true ∧ Memory.wf s.mem.dram = true ∧ Memory.wf s.mem.sram = true ∧
    Memory.wf s.mem.tcm = true ∧ Memory.wf s.nvs.mem = true ∧ Memory.wf s.emc.user = true ∧ Sparse.sorted s.emc.boot = true

/-- Every command that waits is well formed. -/
def QueueOk (s : State) : Prop := s.pending.all WellFormed = true

/-! ### Commands that run -/

/-- A register access of a master to the page of a block is served: the block is out of reset and the module is not dead (R45, R47, R460), and a request of the host has no blocked TAKE1 read before it (R104). -/
def PageOpen (s : State) (b : Blk) (m : Master) : Prop := s.inReset b = false ∧ s.shut b = false ∧ (m = .host → s.hostWaits = false)

/-- A mailbox command of an opcode and tag has been taken, may start now, has its data, and its APPLY is 0 or an apply tick that the module accepts (R23, R74, R75). -/
def Ready (s : State) (opc : Nat) (tag : Word) (c : Cmd) : Prop :=
  s.startable opc tag = some c ∧ c.data ≠ none ∧
    (c.e.apply = 0 ∨ (s.timeFor c.e.apply = true ∧ notEarlier c.e.apply (c.takenAt + 2) = true))

/-- A mailbox command is over: no outstanding command has its tag, since its reply is written or is held until the M2H ring has room (R74). -/
def Ended (c : Cmd) (s : State) : Prop := ∀ x ∈ s.mbx.taken, x.e.tag ≠ c.e.tag

end Sys2Proof.Machine
end

