-- ==== Sys2Proof/Certificates/Slice0/Obligations.lean ====
section
/-! DEFINITION. The statements about the module that are for proof. -/

open Sys2Proof Sys2Proof.Machine

/-- A step runs the front command on the state with the queue's rest; with none waiting it idles (the model's choice, assumption log 2) (derived: R72, R74, opcode table). -/
def Obligations.StepRunsFrontCommand : Prop :=
  (∀ (c : Instr) (rest : List Instr) (s : State), s.pending = c :: rest → step s = exec c { s with pending := rest }) ∧
  (∀ s : State, s.pending = [] → step s = .next s)

/-- No command changes the waiting commands or the module's variant, identity and board revision (derived: R2, R51, R77). -/
def Obligations.CommandsKeepQueueAndIdentity : Prop :=
  ∀ (i : Instr) (s t : State), exec i s = .next t → t.pending = s.pending ∧ t.modId = s.modId

/-- Every step keeps the register file and every byte store in canonical form (derived: R11, R14, R127, R135, R136, R138). -/
def Obligations.StoresStayCanonical : Prop :=
  ∀ s t : State, Canon s → step s = .next t → Canon t

/-- Every step keeps the waiting commands well formed (derived: R2, R74). -/
def Obligations.WaitingCommandsStayWellFormed : Prop :=
  ∀ s t : State, QueueOk s → step s = .next t → QueueOk t

/-- After a power-on cold reset every block is in reset, the cause is recorded, nothing is queued and every store is canonical (derived: R14, R29, R40, R54, R67, R43). -/
def Obligations.ResetValues : Prop :=
  (State.reset.rd R.rst_RST_CAUSE = 0x101 ∧ State.reset.rd R.rst_BLK_IN_RESET_A = 0xFFFFFFFF ∧ State.reset.rd R.rst_BLK_IN_RESET_B = 3 ∧
    (∀ b : Blk, b ∈ allBlks → State.reset.en b = false ∧ State.reset.drained b = true ∧ State.reset.rd (hdr b oErr) = 0 ∧ State.reset.rd (hdr b oRaw) = 0) ∧
    State.reset.boot.stage = .reset ∧ State.reset.pending = [] ∧ State.reset.mbx.taken = [] ∧ State.reset.mkt.ready = [] ∧
    (∀ q ∈ State.reset.que.q, q.ents = []) ∧ State.reset.holds = false) ∧
  (Canon State.reset ∧ QueueOk State.reset)

/-- Every command leaves every part of the state outside its own list as it was (derived: opcode table, R11, R42, R45, R52, R67, R70). -/
def Obligations.CommandsChangeNamedPartsOnly : Prop :=
  ∀ (i : Instr) (s t : State), exec i s = .next t → ChangesOnly (touches i) s t

/-- Entering a reset leaves every block in reset, the cause recorded, work gone, and DRAM only after a warm one (derived: R42, R43, R45, R54, R78, R129). -/
def Obligations.EnteringResetClears : Prop :=
  ∀ (s : State) (code src : Nat) (cold : Bool), code < 16 → src < 16 →
    let t := s.enterReset code src cold
    t.boot.stage = .reset ∧
    t.rd R.rst_RST_CAUSE = w32 ((if s.outranked code then s.rf R.rst_RST_CAUSE 0 8 else code + 16 * src) + (if cold || (s.inSequence && s.boot.seqCold) then 256 else 0)) ∧
    t.rd R.rst_BLK_IN_RESET_A = 0xFFFFFFFF ∧ t.rd R.rst_BLK_IN_RESET_B = 3 ∧
    (∀ b ∈ allBlks, t.en b = false ∧ t.rd (hdr b oErr) = 0 ∧ t.rd (hdr b oRaw) = 0) ∧
    t.mbx.taken = [] ∧ t.mkt.ready = [] ∧ t.mkt.waiting = [] ∧ (∀ q ∈ t.que.q, q.ents = []) ∧ t.mem.sram = [] ∧ t.mem.tcm = [] ∧
    t.mem.dram = (if cold then [] else s.mem.dram) ∧ t.emc = s.emc ∧ t.modId = s.modId ∧ t.pending = s.pending

/-- Supplies, MOD_RESET, software, watchdogs, lockstep, a thermal trip and a committed update enter reset with their cause (derived: R29, R40, R41, R471, R53, R83, R107, R132, R427, R455, R480). -/
def Obligations.ResetSourcesEnterReset : Prop :=
  ((∀ s : State, ∃ t, exec .powerOn s = .next t ∧ t.boot.stage = .reset ∧ t.boot.seqCold = true ∧ t.pwt.mainOn = true ∧ t.rd R.rst_RST_CAUSE = 0x101 ∧
    t.rb R.pwr_PWR_STAT 0 = false ∧ ChangesOnly resetParts s t) ∧
  (∀ (mv : Nat) (s : State), s.boot.stage ≠ .off → mv < 15700 → ∃ t, exec (.vinBrownOut mv) s = .next t ∧ t.boot.stage = .reset ∧
    t.rd R.rst_RST_CAUSE = (if s.outranked 2 then w32 (s.rf R.rst_RST_CAUSE 0 8 + 256) else 0x102) ∧ t.rd R.pwr_VIN_MEAS = w32 mv ∧ ChangesOnly resetParts s t) ∧
  (∀ (mv : Nat) (s : State), s.boot.stage ≠ .off → 16300 ≤ mv → exec (.vinBrownOut mv) s = .next (s.wr R.pwr_VIN_MEAS (w32 (mv % 65536)))) ∧
  (∀ (r : Fin 4) (s : State), s.boot.stage ≠ .off → (∃ t, exec (.coreSupplyFault r) s = .next t ∧ t = s.enterReset 3 r.val true ∧ t.boot.stage = .reset ∧ t.boot.seqCold = true ∧ (s.outranked 3 = false → t.rf R.rst_RST_CAUSE 0 8 = 3 + 16 * r.val))) ∧
  (∀ (ns : Nat) (s : State), s.boot.stage ≠ .off → 10000 ≤ ns → (∃ t, exec (.modReset ns) s = .next t ∧ t = s.enterReset 4 0 false ∧ t.boot.stage = .reset ∧ (s.outranked 4 = false → t.rf R.rst_RST_CAUSE 0 8 = 4))) ∧
  (∀ (ns : Nat) (s : State), ns < 1000 → exec (.modReset ns) s = .next s) ∧
  (∀ (ns : Nat) (s : State), s.boot.stage ≠ .off → 1000 ≤ ns → ns < 10000 → exec (.modReset ns) s = .next (if Config.freeBit s.free then (s.draw 1).enterReset 4 0 false else s.draw 1))) ∧
  ((∀ (m : Master) (v : Word) (s : State), PageOpen s .rst m → s.boot.stage ≠ .off → fld v 16 16 = 0xC0DE → tst v 0 = true →
    (∃ t, exec (.swReset m v) s = .next t ∧ t = (s.enterReset 8 0 false).answer .done ∧ t.boot.stage = .reset ∧ (s.outranked 8 = false → t.rf R.rst_RST_CAUSE 0 8 = 8))) ∧
  (∀ (m : Master) (v : Word) (s : State), PageOpen s .rst m → fld v 16 16 ≠ 0xC0DE →
    (∃ t, exec (.swReset m v) s = .next t ∧ t = (s.err .rst eBadKey 0x4C m).answer .done ∧ t.boot = s.boot ∧ t.resp = .done)) ∧
  (∀ (m : Master) (v : Word) (s : State), PageOpen s .rst m → fld v 16 16 = 0xC0DE → tst v 0 = false →
    (∃ t, exec (.swReset m v) s = .next t ∧ t = (s.err .rst eBadValue 0x4C m).answer .done ∧ t.boot = s.boot ∧ t.resp = .done)) ∧
  (∀ (n : Fin 4) (s : State), s.boot.stage ≠ .off → s.wdogFires n.val = true → (∃ t, exec (.laneWatchdog n) s = .next t ∧ t = s.enterReset 5 n.val false ∧ t.boot.stage = .reset ∧ (s.outranked 5 = false → t.rf R.rst_RST_CAUSE 0 8 = 5 + 16 * n.val))) ∧
  (∀ (n : Fin 4) (s : State), s.wdogFires n.val = false → exec (.laneWatchdog n) s = .next s) ∧
  (∀ s : State, s.boot.stage ≠ .off → (∃ t, exec .serviceWatchdog s = .next t ∧ t = s.enterReset 7 0 false ∧ t.boot.stage = .reset ∧ (s.outranked 7 = false → t.rf R.rst_RST_CAUSE 0 8 = 7))) ∧
  (∀ (n : Fin 4) (d : Word) (s : State), s.inReset (.lane n) = false → s.boot.stage ≠ .off → s.outranked 6 = false → ∃ t, exec (.lockstepMismatch n d) s = .next t ∧
    t.boot.stage = .reset ∧ t.rf R.rst_RST_CAUSE 0 8 = 6 + 16 * n.val ∧ t.rd (R.lane_LS_MISMATCH n.val) = d ||| 1 ∧
    t.rd (R.lane_LS_COUNT n.val) = satAdd (s.rd (R.lane_LS_COUNT n.val)) 1 ∧ ChangesOnly resetParts s t) ∧
  (∀ (n : Nat) (c : Int) (s : State), s.boot.stage ≠ .off → n < 4 → tripLevel n ≤ c →
    (∃ t, exec (.thermalTrip n c) s = .next t ∧ t = (s.enterReset 0xB n false).setTemp n c ∧ t.boot.stage = .reset ∧ (s.outranked 0xB = false → t.rf R.rst_RST_CAUSE 0 8 = 0xB + 16 * n))) ∧
  (∀ (n : Nat) (c : Int) (s : State), s.boot.stage ≠ .off → n < 4 → c < tripLevel n →
    let u := s.wr (R.pwr_TEMPs n) (w32 (clampI 0 255 (c / 10 + 40)).toNat)
    (∃ t, exec (.thermalTrip n c) s = .next t ∧ t = (if warnLevel n ≤ c then u.irq .pwr 3 else u) ∧ t.boot = s.boot ∧ t.rd (R.pwr_TEMPs n) = w32 (clampI 0 255 (c / 10 + 40)).toNat)) ∧
  (∀ (n : Nat) (c : Int) (s : State), n < 4 → let u := s.wr (R.pwr_TEMPs n) (w32 (clampI 0 255 (c / 10 + 40)).toNat)
    (∃ t, exec (.tempWarning n c) s = .next t ∧ t = (if warnLevel n ≤ c then u.irq .pwr 3 else u) ∧ t.boot = s.boot ∧ t.rd (R.pwr_TEMPs n) = w32 (clampI 0 255 (c / 10 + 40)).toNat ∧ (warnLevel n ≤ c → t.rb (hdr .pwr oRaw) 3 = true))) ∧
  (∀ (r : Nat) (s : State), s.boot.stage ≠ .off → s.upd.resetAt = some r → r ≤ s.tick → ∃ t, exec .updReset s = .next t ∧ t = s.enterReset 0xD 0 false ∧ t.boot.stage = .reset ∧ (s.outranked 0xD = false → t.rf R.rst_RST_CAUSE 0 4 = 0xD)) ∧
  (∀ s : State, (∀ r, s.upd.resetAt = some r → s.tick < r) → exec .updReset s = .next s))

/-- Each point of the start sequence moves on from the one before and opens the blocks of that point (derived: R29, R37, R347, R348, R446, R447, R461). -/
def Obligations.StartSequencePoints : Prop :=
  (∀ (cs : List Nat) (s : State), s.boot.stage = .reset → cs.length = 16 → ∃ t, exec (.pewterIntegrityCheck cs) s = .next t ∧ t.boot.stage = .checked ∧
    t.rd R.rst_STRAP = strapWord cs s.boot.lastBand ∧ t.pwt.lost = !s.pewterIntact ∧
    (∀ b ∈ [Blk.sys, .rst, .clk, .pwr, .pwt, .fsw, .drv 0, .drv 1, .drv 2, .drv 3, .drg], t.en b = true) ∧
    (∀ b ∈ [Blk.fsw, .drv 0, .drv 1, .drv 2, .drv 3, .drg], t.inReset b = false) ∧ ChangesOnly (touches (.pewterIntegrityCheck cs)) s t) ∧
  (∀ (cs : List Nat) (s : State), s.boot.stage = .reset → cs.length ≠ 16 → exec (.pewterIntegrityCheck cs) s = .fault .badStrapCount) ∧
  (∀ (cs : List Nat) (s : State), s.boot.stage ≠ .reset → exec (.pewterIntegrityCheck cs) s = .next s) ∧
  (∀ s : State, s.boot.stage = .checked → ∃ t, exec .sequencerDefaults s = .next t ∧ t.boot.stage = .defaults ∧
    (∀ b ∈ [Blk.mem, .nvs, .emc, .vlt, .cry], t.en b = true ∧ t.inReset b = false) ∧ ChangesOnly (touches .sequencerDefaults) s t) ∧
  (∀ s : State, s.boot.stage ≠ .checked → exec .sequencerDefaults s = .next s) ∧
  (∀ (fs : List Nat) (e : Bool) (s : State), s.boot.stage = .defaults → ∃ t, exec (.bootCheck fs e) s = .next t ∧
    (t.boot.stage = .booted ∨ t.boot.stage = .dead) ∧ (s.rf R.rst_STRAP 0 4 = 0 → t.boot.stage = .dead) ∧
    (t.upd.result ≠ 0 → t.boot.stage = .dead) ∧
    (t.boot.stage = .booted → s.rf R.rst_STRAP 0 4 ≠ 0 ∧ t.upd.result = 0 ∧ t.vlt.ready = true ∧ t.vlt.approved = (s.vlt.fuse && fs.isEmpty)) ∧
    ChangesOnly (touches (.bootCheck fs e)) s t) ∧
  (∀ (fs : List Nat) (e : Bool) (s : State), s.boot.stage ≠ .defaults → exec (.bootCheck fs e) s = .next s) ∧
  (∀ (b : Bytes) (s : State), s.boot.stage = .dead → s.rf R.rst_STRAP 0 4 = 0 → exec (.benchRecovery b) s =
    .next (if b.length = imgLenOf (bytesImg b) ∧ imgResult (bytesImg b) s.floorVer false = 0 then s.bootWrite 0 b else s)) ∧
  (∀ (b : Bytes) (s : State), s.boot.stage = .dead → s.rf R.rst_STRAP 0 4 = 0 → ∃ t, exec (.benchRecovery b) s = .next t ∧ ChangesOnly [.emc, .upd] s t ∧
    t.emc.user = s.emc.user ∧ (b.length = imgLenOf (bytesImg b) ∧ imgResult (bytesImg b) s.floorVer false = 0 → t.emc.boot = bootPut s.emc.boot 0 b))

/-- A block is put into reset, asked to leave it, leaves it, or times out, each in its own bits (derived: R47, R48, R49, R50). -/
def Obligations.BlockResetAndRelease : Prop :=
  (∀ (m : Master) (hi : Bool) (v : Word) (s : State), PageOpen s .rst m →
    exec (.blockReset m hi v) s = .next (((wordBits hi v).foldl (fun (t : State) i => (blkOfBit i).elim t t.blockReset) s).answer .done)) ∧
  (∀ (m : Master) (hi : Bool) (v : Word) (i : Nat) (b : Blk) (s : State), PageOpen s .rst m → wordBits hi v = [i] → blkOfBit i = some b → s.inReset b = false →
    ∃ t, exec (.blockReset m hi v) s = .next t ∧ t.resp = .done ∧ t.inReset b = true ∧ t.en b = false ∧ t.rd (hdr b oErr) = 0 ∧
      ChangesOnly (touches (.blockReset m hi v)) s t) ∧
  (∀ (m : Master) (hi : Bool) (v : Word) (s : State), PageOpen s .rst m →
    exec (.blockReleaseRequest m hi v) s = .next (((wordBits hi v).foldl (fun (t : State) i => t.relRequest i) s).answer .done)) ∧
  (∀ (m : Master) (hi : Bool) (v : Word) (i : Nat) (s : State), PageOpen s .rst m → wordBits hi v = [i] → s.boot.stage = .booted → s.heldLane i = false →
    s.rstBit R.rst_BLK_IN_RESET_A i = true → ∃ t, exec (.blockReleaseRequest m hi v) s = .next t ∧ t.resp = .done ∧ t.rstBit R.rst_BLK_REL_PEND_A i = true ∧
      t = (s.setRstBit R.rst_BLK_REL_PEND_A i true).answer .done) ∧
  (∀ (i : Nat) (s : State), i < 34 → s.boot.stage = .booted → s.heldLane i = false → s.rstBit R.rst_BLK_IN_RESET_A i = true →
    (s.relRequest i).rstBit R.rst_BLK_REL_PEND_A i = true ∧ s.relRequest i = s.setRstBit R.rst_BLK_REL_PEND_A i true) ∧
  (∀ (i : Nat) (b : Blk) (fs : List Nat) (s : State), i < 34 → s.rstBit R.rst_BLK_REL_PEND_A i = true → blkOfBit i = some b →
    exec (.blockRelease i fs) s = .next (((s.setRstBit R.rst_BLK_REL_PEND_A i false).setRstBit R.rst_BLK_IN_RESET_A i false).released b fs)) ∧
  (∀ (i : Nat) (b : Blk) (fs : List Nat) (s : State), i < 34 → s.rstBit R.rst_BLK_REL_PEND_A i = true → blkOfBit i = some b →
    b ∉ [Blk.scl, .chn, .ntm, .mem, .fov, .cor, .vlt, .cry] → ∃ t, exec (.blockRelease i fs) s = .next t ∧ t.inReset b = false ∧
      t.rstBit R.rst_BLK_REL_PEND_A i = false ∧ t.en b = s.en b ∧ ChangesOnly [.regs] s t) ∧
  (∀ (i : Nat) (fs : List Nat) (s : State), s.rstBit R.rst_BLK_REL_PEND_A i = false → exec (.blockRelease i fs) s = .next s) ∧
  (∀ (i : Nat) (s : State), i < 34 → s.rstBit R.rst_BLK_REL_PEND_A i = true → s.boot.stage = .booted → ∃ t, exec (.releaseTimeout i) s = .next t ∧ t =
    (((s.setRstBit R.rst_BLK_REL_PEND_A i false).setRstBit R.rst_BLK_REL_FAIL_A i true).err .rst eRelTimeout (if i < 32 then 0x58 else 0x5C) .block).ledger 0xE004 3 0x020 i 0 0 ∧
      t.rstBit R.rst_BLK_REL_PEND_A i = false ∧ t.rstBit R.rst_BLK_REL_FAIL_A i = true ∧ t.rstBit R.rst_BLK_IN_RESET_A i = s.rstBit R.rst_BLK_IN_RESET_A i ∧
      (s.rd (hdr .rst oErr) = 0 → t.rf (hdr .rst oErr) 0 8 = eRelTimeout)) ∧
  (∀ (i : Nat) (s : State), s.rstBit R.rst_BLK_REL_PEND_A i = false → exec (.releaseTimeout i) s = .next s)

/-- A tick edge takes the counter value and the next tick (derived: R17, R22, R24, R37). -/
def Obligations.TickEdgeAdvancesTime : Prop :=
  (∀ (c : DWord) (sk : List SinkMeas) (hb : Bool) (s : State), s.ticksRun = true → s.edgeAt c = true → s.inTransit c = false → ∃ t, exec (.tickEdge c sk hb) s = .next t ∧
    t.cnt = c ∧ t.edgeCnt = c ∧ t.netEdge = s.holds ∧ (s.holds = true → t.ntm.tick = s.nt c / tick16 ∧ t.ntm.localTick = s.ntm.localTick) ∧
    (s.holds = false → t.ntm.localTick = s.ntm.localTick + 1 ∧ t.ntm.tick = s.ntm.tick) ∧ ChangesOnly (touches (.tickEdge c sk hb)) s t) ∧
  (∀ (c : DWord) (sk : List SinkMeas) (hb : Bool) (s : State), s.ticksRun = false ∨ s.edgeAt c = false ∨ s.inTransit c = true → exec (.tickEdge c sk hb) s = .next (s.at c))

/-- A run takes the reports of its tick and searches the tracks; its end publishes, or counts an overrun (derived: R27, R140, R258, R260, R261, R262). -/
def Obligations.CorridorRunsAndPublishes : Prop :=
  (∀ (us : Nat) (s : State), s.corRuns = true → s.graphValid = true → s.cor.run = none → (∀ j, s.cor.lastRun = some j → j < s.tick) → s.cor.swapAt = none →
    s.cor.polAt = none → ∃ t, exec (.corridorRun us) s = .next t ∧ t = s.intake.1.searchTracks us s.intake.2 ∧ t.cor.run.map (fun r => r.us) = some us ∧
      t.cor.lastRun = some s.tick ∧ t.rb R.cor_COR_STAT 0 = true ∧ ChangesOnly (touches (.corridorRun us)) s t) ∧
  (∀ (r : CorRun) (s : State), s.cor.run = some r → r.us ≤ 1500 → ∃ t, exec .levelPublish s = .next t ∧ t.cor.run = none ∧ t.rd R.cor_RUN_TICK = w32 r.tick ∧
    t.rd R.cor_RUN_TIME = w32 r.us ∧ t.rd R.cor_RUN_MAX = w32 (max (s.rn R.cor_RUN_MAX) r.us) ∧ t.cor.view = s.cor.tracks ∧
    ChangesOnly [.regs, .out, .mbx, .ldg, .cor, .lvl, .pba] s t) ∧
  (∀ (r : CorRun) (s : State), s.cor.run = some r → 1500 < r.us → ∃ t, exec .levelPublish s = .next t ∧ t.cor.run = none ∧
    t.rd R.cor_RUN_TICK = s.rd R.cor_RUN_TICK ∧ t.rd R.cor_OVR_CNT = satAdd (s.rd R.cor_OVR_CNT) 1 ∧ ChangesOnly [.regs, .out, .mbx, .ldg, .cor, .lvl, .pba] s t) ∧
  (∀ (sec : Nat) (s : State), s.cor.row = some sec → s.isHead = true → s.holds = true → s.repeated = false → s.tick = 250 * (sec + 1) →
    s.inReset .mem = false → s.inReset .cor = false →
    let a := s.rf R.mem_OCC_BASE 0 13 * 2 ^ 20 + sec % 604800 * 8192
    let b := (List.range 8192).map s.rowByte
    ∃ t, exec .occRowWrite s = .next t ∧ t = (((s.dramWrite (a + 2) (b.drop 2)).dramWrite a (b.take 2)).wr R.mem_OCC_LAST (w32 sec)).wr R.mem_OCC_STAT (s.rd R.mem_OCC_STAT ||| 1) ∧
      t.rd R.mem_OCC_LAST = w32 sec ∧ t.rd R.mem_OCC_STAT = s.rd R.mem_OCC_STAT ||| 1 ∧ t.cor = s.cor)

/-- A graph is checked, armed and swapped, and a policy takes effect at its tick (derived: R249, R250, R251, R259). -/
def Obligations.GraphsAndPoliciesTakeEffect : Prop :=
  ((∀ (m : Master) (s : State), PageOpen s .cor m → s.cor.check = 0 → ∃ t, exec (.graphCheck m) s = .next t ∧ t = { s with cor := { s.cor with check := 1 } }.answer .done ∧ t.cor.check = 1 ∧ t.resp = .done) ∧
  (∀ s : State, s.cor.check = 1 → s.inReset .cor = false → let u : State := { s with cor := { s.cor with check := 0 } }; let e := gCheck s.stagedBank s.net.seg
    ∃ t, exec .graphCheckDone s = .next t ∧ t = (if e.1 = 0 then (u.wb R.cor_COR_STAT 3 true).wr R.cor_STAGE_ID (w32 (gId s.stagedBank))
      else (u.wr R.cor_GRAPH_ERR (w32 (e.1 + e.2 % 2 ^ 14 * 2 ^ 16))).irq .cor 3) ∧ t.cor.check = 0 ∧
      (e.1 = 0 → t.rb R.cor_COR_STAT 3 = true ∧ t.rd R.cor_STAGE_ID = w32 (gId s.stagedBank)) ∧
      (e.1 ≠ 0 → t.rd R.cor_GRAPH_ERR = w32 (e.1 + e.2 % 2 ^ 14 * 2 ^ 16) ∧ t.rd R.cor_COR_STAT = s.rd R.cor_COR_STAT)) ∧
  (∀ (m : Master) (s : State), PageOpen s .cor m → s.rb R.cor_COR_STAT 3 = true → s.timeFor (s.rd R.cor_GRAPH_AT) = true → later (s.rd R.cor_GRAPH_AT) s.tick32 = true →
    ∃ t, exec (.graphArm m) s = .next t ∧ t = { s.wb R.cor_COR_STAT 4 true with cor := { s.cor with swapAt := some (s.fullTick (s.rd R.cor_GRAPH_AT)) } }.answer .done ∧
      t.rb R.cor_COR_STAT 4 = true ∧ t.cor.swapAt = some (s.fullTick (s.rd R.cor_GRAPH_AT)) ∧ t.resp = .done) ∧
  (∀ (m : Master) (s : State), PageOpen s .cor m → s.rb R.cor_COR_STAT 3 = false → exec (.graphArm m) s = .next ((s.err .cor 0x80 0x54 m).answer .done)) ∧
  (∀ (m : Master) (s : State), PageOpen s .cor m → ∃ t, exec (.graphDisarm m) s = .next t ∧
    t = { s.wb R.cor_COR_STAT 4 false with cor := { s.cor with swapAt := none } }.answer .done ∧ t.rb R.cor_COR_STAT 4 = false ∧ t.cor.swapAt = none ∧ t.resp = .done) ∧
  (∀ (k : Nat) (s : State), s.cor.swapAt = some k → s.corRuns = true → k ≤ s.tick → ∃ t, exec .graphSwap s = .next t ∧ t.cor.swapAt = none ∧
    t.cor.tracks = s.cor.tracks.filterMap (trackSwap s.stagedBank) ∧ t.rd R.cor_GRAPH_ID = w32 (gId s.stagedBank) ∧ t.rb R.cor_COR_STAT 1 = true ∧
    t.rf R.cor_COR_STAT 2 1 = 1 - s.corActive ∧ t.rf R.cor_COR_STAT 3 2 = 0 ∧ ChangesOnly [.regs, .out, .mbx, .ldg, .cor, .pba] s t) ∧
  (∀ s : State, s.cor.swapAt = none → exec .graphSwap s = .next s)) ∧
  ((∀ (m : Master) (s : State), PageOpen s .cor m → s.timeFor (s.rd R.cor_POLICY_AT) = true → later (s.rd R.cor_POLICY_AT) s.tick32 = true → ∃ t, exec (.policyCommit m) s = .next t ∧
    t = { s.wb R.cor_COR_STAT 5 true with cor := { s.cor with polAt := some (s.fullTick (s.rd R.cor_POLICY_AT), s.stagedPolicy) } }.answer .done ∧
    t.rb R.cor_COR_STAT 5 = true ∧ t.cor.polAt = some (s.fullTick (s.rd R.cor_POLICY_AT), s.stagedPolicy) ∧ t.resp = .done) ∧
  (∀ (m : Master) (s : State), PageOpen s .cor m → s.timeFor (s.rd R.cor_POLICY_AT) = false →
    exec (.policyCommit m) s = .next (((s.noTime .cor (s.rd R.cor_POLICY_AT)).err .cor eNoTime 0x78 m).answer .done)) ∧
  (∀ (m : Master) (s : State), PageOpen s .cor m → s.timeFor (s.rd R.cor_POLICY_AT) = true → later (s.rd R.cor_POLICY_AT) s.tick32 = false →
    exec (.policyCommit m) s = .next ((s.err .cor eBadValue 0x78 m).answer .done)) ∧
  (∀ (k : Nat) (p : Policy) (s : State), s.cor.polAt = some (k, p) → s.corRuns = true → k ≤ s.tick → ∃ t, exec .policyApply s = .next t ∧
    t = { (s.wb R.cor_COR_STAT 5 false).wr R.cor_POLICY_LAST s.tick32 with cor := { s.cor with polAt := none, pol := p } } ∧ t.cor.pol = p ∧ t.cor.polAt = none ∧
    t.rb R.cor_COR_STAT 5 = false ∧ t.rd R.cor_POLICY_LAST = s.tick32))

/-- Waves are sent, forwarded and taken at their tick; a head announces modes for a cycle boundary ahead and nodes store them (derived: R268, R269, R272, R273, R281, R276, R278, R279, R280). -/
def Obligations.WavesAndModes : Prop :=
  ((∀ (f : Nat × Nat × Bytes) (u : State) (b : Bytes) (s : State), s.waveFrame = some f → s.waveAllowed = true →
    s.secure (s.frameOf f.2.1 false 0 0 0xFFFF none f.2.2) ((s.tick * 4000000 + 200000) * 2 ^ 16) = .done u b → ∃ t, exec .waveStart s = .next t ∧
    t.lvl.wave = some s.tick ∧ t.rd R.lvl_LAST_WAVE = s.tick32 ∧ t.rd R.lvl_WAVES = satAdd (s.rd R.lvl_WAVES) 1 ∧
    ChangesOnly (touches .waveStart) s t) ∧
  (∀ s : State, s.waveFrame = none → exec .waveStart s = .next s) ∧
  (∀ (p : Bytes) (u : State) (b : Bytes) (s : State), s.modeDue = some p → s.waveAllowed = true →
    s.secure (s.frameOf 3 false 0 0 0xFFFF none p) ((s.tick * 4000000 + 200000) * 2 ^ 16) = .done u b → ∃ t, exec .modeWave s = .next t ∧ t = s.waveStart (0, 3, p) ∧
    t.lvl.wave = some s.tick ∧ t.rd R.lvl_LAST_WAVE = s.tick32 ∧ t.rd R.lvl_WAVES = satAdd (s.rd R.lvl_WAVES) 1 ∧ ChangesOnly (touches .modeWave) s t) ∧
  (∀ (f : FwdDue) (r : List FwdDue) (s : State), s.lvl.fwd = f :: r → s.takes .lvl = true → s.onNet = true → s.repeated = false → (s.isNode = true → s.placeless = false) →
    ∃ t, exec .floodForward s = .next t ∧
    t = ({ s with lvl := { s.lvl with fwd := r, spans := s.lvl.spans.filter fun p => p.2.1 ≠ f.us } }.floodOut (f.us / 4000) f.us f.psdu).bumpSat R.lvl_FLOOD_FWD 1 ∧
    t.lvl.fwd = r ∧ t.rd R.lvl_FLOOD_FWD = satAdd (s.rd R.lvl_FLOOD_FWD) 1 ∧ ChangesOnly (touches .floodForward) s t) ∧
  (∀ (f : FwdDue) (r : List FwdDue) (s : State), s.lvl.fwd = f :: r → s.repeated = true → ∃ t, exec .floodForward s = .next t ∧ t.lvl.fwd = r ∧ ChangesOnly [.lvl] s t) ∧
  (∀ (x : AirRx) (s : State), let t := (s.at x.verdict).floodHeard x; let p := airPay x; let a := leWord p 4; let code := byteAt p (8 + t.ownIndex % 64)
    t.isNode = true → t.takes .lvl = true → byteAt p 0 % 64 = t.ownIndex / 64 → (airHdr x).src = 0 →
    (t.timeFor a = true → tickDiff a t.tick32 ≤ 4096 → code ≠ 255 →
      exec (.stripeReceive x) s = .next (t.pendChange ⟨t.fullTick a, code, byteAt p 1 % 64, le p 2 2, false⟩)) ∧
    (t.timeFor a = true → tickDiff a t.tick32 ≤ 4096 → code ≠ 255 → code ≠ t.lampTarget → t.lvl.pend = [] →
      ∃ v, exec (.stripeReceive x) s = .next v ∧ v.lvl.pend = [⟨t.fullTick a, code, byteAt p 1 % 64, le p 2 2, false⟩] ∧ ChangesOnly [.lvl] t v) ∧
    (t.timeFor a = true → tickDiff a t.tick32 ≤ 4096 → code = 255 → exec (.stripeReceive x) s = .next t) ∧
    (t.timeFor a = true → 4096 < tickDiff a t.tick32 → exec (.stripeReceive x) s = .next (t.bumpSat R.lvl_BAD_APPLY 1)) ∧
    (t.timeFor a = false → exec (.stripeReceive x) s = .next (t.noTime .lvl a))) ∧
  (∀ (p : Nat × Nat × Nat) (s : State), s.takes .lvl = true → s.holds = true → s.repeated = false → s.followsSchedule = true → lastPoint (s.tick / 250) s.points = some p →
    sinceTod (s.tick / 250) p.1 < s.tick / 250 - s.lvl.prevTick / 250 → exec .schedulePoint s = .next (s.startFade p.2.1 p.2.2 0) ∧
    (p.2.1 ≠ 255 → s.cryError = false → ∃ t, exec .schedulePoint s = .next t ∧ t.lvl.fade.map (fun f => (f.code, f.s, f.t, f.n, f.i)) =
      some (p.2.1, if s.lampBack 0 = 0 then 256 else s.lampBack 0, if p.2.1 = 0 then 256 else 256 * p.2.1, fadeLen p.2.2, 0) ∧ ChangesOnly [.lvl] s t))) ∧
  ((∀ (m : Master) (s : State), PageOpen s .lvl m → s.isHead = true → s.timeFor (s.rd R.lvl_MODE_AT_REQ) = true → s.lvl.ann = none → s.stagedMode.op ≤ 2 →
    s.fullTick (s.rd R.lvl_MODE_AT_REQ) % 256 = 0 → s.tick + 9 * 256 ≤ s.fullTick (s.rd R.lvl_MODE_AT_REQ) → (∀ l, s.stagedMode.hop = some l → s.hopListOk l = true) →
    ∃ t, exec (.modeAnnounce m) s = .next t ∧ t.resp = .done ∧
      t.lvl.ann = some ⟨nextEpoch s.lvl.used s.epoch s.lvl.used.length, s.fullTick (s.rd R.lvl_MODE_AT_REQ), s.fullTick (s.rd R.lvl_MODE_AT_REQ), s.stagedMode, s.tick, none, none, false⟩ ∧
      ChangesOnly (touches (.modeAnnounce m)) s t) ∧
  (∀ (m : Master) (s : State), PageOpen s .lvl m → s.isHead = true → s.timeFor (s.rd R.lvl_MODE_AT_REQ) = true → s.lvl.ann.isSome = true →
    exec (.modeAnnounce m) s = .next ((s.err .lvl 0x80 0x60 m).answer .done)) ∧
  (∀ (m : Master) (s : State), PageOpen s .lvl m → s.lvl.ann = none → exec (.modeCtrlCancel m) s = .next (s.answer .done)) ∧
  (∀ (m : Master) (a : Announce) (s : State), PageOpen s .lvl m → s.lvl.ann = some a → max (s.tick + 1) (s.lvl.wave.elim 0 (· + 4)) < a.c → a.tag = none →
    ∃ t, exec (.modeCtrlCancel m) s = .next t ∧ t.lvl.ann = none ∧ t.lvl.used = a.epoch :: s.lvl.used ∧ ChangesOnly (touches (.modeCtrlCancel m)) s t) ∧
  (∀ (x : AirRx) (s : State), let t := (s.at x.verdict).floodHeard x; t.isNode = true → t.inReset .lvl = false → (airHdr x).mhop = false →
    exec (.modeReceive x) s = .next (t.takeMode (airPay x))) ∧
  (∀ (x : AirRx) (s : State), let t := (s.at x.verdict).floodHeard x; let p := airPay x; t.isNode = true → t.inReset .lvl = false → (airHdr x).mhop = false →
    byteAt p 6 % 2 = 0 → 0 < epochDiff (le p 0 2) t.epoch → t.lvl.pmode = none → t.timeFor (leWord p 2) = true →
    ∃ v, exec (.modeReceive x) s = .next v ∧ v.lvl.pmode.map (fun q => (q.epoch, q.c)) = some (le p 0 2, some (t.fullTick (leWord p 2))) ∧ ChangesOnly (touches (.modeReceive x)) s v) ∧
  (∀ (p : Bytes) (s : State), byteAt p 6 % 2 = 0 → 0 < epochDiff (le p 0 2) s.epoch → s.lvl.pmode = none → s.timeFor (leWord p 2) = true →
    s.takeMode p = s.storeMode (modeOf p (some (s.fullTick (leWord p 2))) (s.fullTick (leWord p 2)) false) p) ∧
  (∀ (e k how : Nat) (r : List (Nat × Nat × Nat)) (s : State), s.lvl.acks = (e, k, how) :: r → s.sf ≤ k / 256 + 32 → s.holds = true → 32 ≤ s.tick % 256 → s.tick % 256 < 224 →
    ∃ t, exec .modeAckSend s = .next t ∧ t = ({ s with lvl := { s.lvl with acks := r } }.sendUp 8 true (command 0x0510 (toLe 2 e ++ toLe 4 (k % 2 ^ 32) ++ toLe 1 how))) ∧
      t.lvl.acks = r ∧ ChangesOnly (touches .modeAckSend) s t))

/-- Beacons are built and sent in their slot, and a module tracks its parent's beacons and counts those it misses (derived: R30, R162, R203, R205, R212, R491, R207, R215, R221, R222). -/
def Obligations.BeaconsAreSentAndTracked : Prop :=
  ((∀ s : State, s.bcn.ready = some s.sf → s.takes .bcn = true → s.bcnTick.isSome = true → s.tick % 256 = 255 →
    ∃ t, exec .beaconBuild s = .next t ∧ t.bcn.built = some (s.sf + 1) ∧ t.mem.sram = memWrite s.mem.sram s.bcnBuf (s.bcnPayload (s.sf + 1) 0 0) ∧ ChangesOnly [.mem, .bcn] s t) ∧
  (∀ (c : DWord) (s : State), s.bcnDue = true → let u : State := { s.at c with bcn := { s.bcn with built := none } }.sramSeen s.bcnBuf 36
    (∀ b, u.sramRead s.bcnBuf 36 = some b → ∃ t, exec (.beaconSend c) s = .next t ∧ t = (List.range 4).foldl (fun (v : State) r => v.bcnOut r c b) u ∧ t.bcn.built = none ∧
      ChangesOnly (touches (.beaconSend c)) s t) ∧
    (u.sramRead s.bcnBuf 36 = none → exec (.beaconSend c) s = .next u)) ∧
  (∀ (r : Nat) (c : DWord) (b : Bytes) (s : State), s.runs (radBlk r) = true → s.floodOver r (s.tick * 4000 + 200) (s.bcnAirtime r 58) = true →
    s.bcnOut r c b = s.bumpSat R.lvl_BCN_YIELD 1) ∧
  (∀ (r : Nat) (c : DWord) (b : Bytes) (s : State), s.runs (radBlk r) = true → s.floodOver r (s.tick * 4000 + 200) (s.bcnAirtime r 58) = false →
    s.ledgersAllow r (s.chan r (s.tick - s.tick % 2)) (s.bcnAirtime r 58) false = false →
    s.bcnOut r c b = ((s.bumpSat R.bcn_BCN_HELD 1).irq .bcn 3).heldBack r) ∧
  (∀ (m : Master) (v : Word) (s : State), PageOpen s .bcn m → s.en .bcn = true → exec (.bcnNodeWrite m v) s = .next ((s.err .bcn eBusy 0x44 m).answer .done)) ∧
  (∀ (m : Master) (v : Word) (s : State), PageOpen s .bcn m → s.en .bcn = false → 16 < fld v 0 5 → exec (.bcnNodeWrite m v) s = .next ((s.err .bcn eBadValue 0x44 m).answer .done)) ∧
  (∀ (m : Master) (v : Word) (s : State), PageOpen s .bcn m → s.en .bcn = false → fld v 0 5 ≤ 16 → (fld v 0 5 = 16 → tst v 20 = false) →
    ∃ t, exec (.bcnNodeWrite m v) s = .next t ∧ t = (s.wr R.bcn_BCN_NODE (v &&& 0x1FFFFF)).bcnLearn.answer .done ∧ t.rd R.bcn_BCN_NODE = v &&& 0x1FFFFF ∧ t.resp = .done)) ∧
  ((∀ (x : AirRx) (s : State), s.takes .bcn = true → s.holds = true → s.isStandby = false → s.isNode = true → s.bcnState ≠ 0 → s.placeless = false →
    (airHdr x).typ = 1 → (airHdr x).mhop = false → (airPay x).length = 36 → (airHdr x).src = s.parentIx → x.radio.val = s.upRadio →
    let u := s.at x.verdict
    let sf := sfNear (u.airStart x / sf16).toNat (le (airPay x) 0 4)
    s.bcn.heardSf ≠ some sf → u.inWindow sf (u.airStart x) (u.airCnt x) = true → ∃ t, exec (.beaconReceive x) s = .next t ∧ t.bcnState = 4 ∧ t.rf R.bcn_BCN_STAT 4 4 = 0 ∧
      t.bcn.heardSf = some sf ∧ t.bcn.cost = byteAt (airPay x) 15 ∧ t.bcn.margins = (x.margin :: s.bcn.margins).take 4 ∧ t.rd R.bcn_SF_LAST = w32 sf ∧
      t.rd R.bcn_BCN_RX = satAdd (s.rd R.bcn_BCN_RX) 1 ∧ ChangesOnly (touches (.beaconReceive x)) s t) ∧
  (∀ (c : DWord) (s : State), s.takes .bcn = true → s.isNode = true → s.onNet = true → s.repeated = false → s.placeless = false → s.bcnState ≠ 0 →
    s.tick % 256 = 2 * s.depth → s.bcn.heardSf ≠ some s.sf → s.rf R.bcn_BCN_STAT 4 4 < 2 → ∃ t, exec (.beaconMiss c) s = .next t ∧ t.rf R.bcn_BCN_STAT 4 4 = s.rf R.bcn_BCN_STAT 4 4 + 1 ∧
      t.bcnState = (if s.bcnState = 2 then 2 else 5 + s.rf R.bcn_BCN_STAT 4 4) ∧ t.rd R.bcn_BCN_MISS = satAdd (s.rd R.bcn_BCN_MISS) 1 ∧
      ChangesOnly (touches (.beaconMiss c)) s t) ∧
  (∀ (c : DWord) (s : State), s.takes .bcn = true → s.isNode = true → s.onNet = true → s.repeated = false → s.placeless = false → s.bcnState ≠ 0 →
    s.tick % 256 = 2 * s.depth → s.bcn.heardSf ≠ some s.sf → s.rf R.bcn_BCN_STAT 4 4 = 2 → ∃ t, exec (.beaconMiss c) s = .next t ∧ t.bcnState = 7 ∧ t.net.orphaned = true ∧
      t.bcn.listen = s.sf ∧ t.bcn.cands = [] ∧ t.rd R.bcn_ORPHAN_CNT = satAdd (s.rd R.bcn_ORPHAN_CNT) 1 ∧ ChangesOnly (touches (.beaconMiss c)) s t) ∧
  (∀ s : State, s.isNode = true → s.bcnState = 7 → s.takes .bcn = true → s.bcn.listen + 4 ≤ s.sf →
    exec .orphanListenEnd s = .next (s.askBest fun c => decide (c.seg = s.net.seg)) ∧
    (∀ c, s.bestCand (fun c => decide (c.seg = s.net.seg)) = some c → ∃ t, exec .orphanListenEnd s = .next t ∧ t.bcnState = 3 ∧
      t.bcn.asked.map (fun a => (a.1, a.2.1)) = some (c.index, c.seg) ∧ ChangesOnly (touches .orphanListenEnd) s t) ∧
    (s.bestCand (fun c => decide (c.seg = s.net.seg)) = none → ∃ t, exec .orphanListenEnd s = .next t ∧ t.bcnState = 1 ∧ t.bcn.cands = [] ∧ t.bcn.scan = 0 ∧
      ChangesOnly (touches .orphanListenEnd) s t)) ∧
  (∀ s : State, s.isNode = true → s.takes .bcn = true → s.bcnState = 1 → s.bcn.scanAt + 512 ≤ s.tick → ∃ t, exec .scanStep s = .next t ∧
    t.bcn.scan = (s.bcn.scan + 1) % max 1 s.scanList.length ∧ t.bcn.scanAt = s.tick ∧ ChangesOnly [.bcn] s t) ∧
  (∀ s : State, s.isNode = true → s.takes .bcn = true → s.bcnState = 1 → s.tick < s.bcn.scanAt + 512 → exec .scanStep s = .next s) ∧
  (∀ s : State, s.isNode = true → s.takes .bcn = true → s.bcnState = 2 → s.bcn.gather.isSome = true → s.bcn.listen + 8 < s.sf → ∃ t, exec .scanStep s = .next t ∧
    t = s.startScan ∧ t.bcnState = 1 ∧ t.bcn.cands = [] ∧ t.bcn.scan = 0 ∧ ChangesOnly (touches .scanStep) s t))

/-- The head decides who joins, and a joining device takes the place it is given (derived: R209, R216, R217, R218, R219, R208, R210, R213). -/
def Obligations.ModulesJoinTheSegment : Prop :=
  ((∀ (x : AirRx) (s : State), (airHdr x).typ = 9 → (airHdr x).lsrc = true → s.isHead = true → byteAt (airPay x) 0 = 1 → s.rowOf (BitVec.ofNat 64 (airHdr x).src) = none →
    ∃ t, exec (.joinReq x) s = .next t ∧ t = s.event 0xF202 (blkSrc .bcn) (toLe 8 (airHdr x).src ++ toLe 2 ((airHdr x).dst % 65536)) ∧ t.net = s.net ∧ t.rad = s.rad) ∧
  (∀ (x : AirRx) (r : NodeRow) (s : State), (airHdr x).typ = 9 → (airHdr x).lsrc = true → s.isHead = true → byteAt (airPay x) 0 = 1 →
    s.rowOf (BitVec.ofNat 64 (airHdr x).src) = some r →
    let a := joinAsk s (airPay x)
    let v := (s.lend r).joinVerified r x
    let u : State := { v.1 with net := { v.1.net with via := Sparse.put v.1.net.via (airHdr x).src x.radio.val } }
    let q := u.askRidx a x.radio.val
    (v.2 = false → exec (.joinReq x) s = .next (v.1.unlend r)) ∧
    (v.2 = true → u.joinReason r a q = none → exec (.joinReq x) s = .next (((u.draw 1).acceptJoin r a q (decide (r.st = 3))).unlend r)) ∧
    (∀ e, v.2 = true → u.joinReason r a q = some e → exec (.joinReq x) s = .next (((u.draw 1).refuseJoin r a.parent q e).unlend r))) ∧
  (∀ (x : AirRx) (r : NodeRow) (s : State), (airHdr x).typ = 9 → (airHdr x).lsrc = true → s.isHead = true → byteAt (airPay x) 0 = 1 →
    s.rowOf (BitVec.ofNat 64 (airHdr x).src) = some r → r.index ≠ 0 → (joinAsk s (airPay x)).parent = 0 →
    let u : State := { s with net := { s.net with via := Sparse.put s.net.via (airHdr x).src x.radio.val } }
    (u.joinReason r (joinAsk s (airPay x)) x.radio.val = none → ∃ t, exec (.joinReq x) s = .next t ∧
      (t.rowOf r.ident).map (fun n => (n.index, n.st, n.parent, n.ridx, n.accSf, n.tries)) = some (r.index, 2, 0, x.radio.val, s.sf, 0) ∧
      Sparse.find t.net.via (airHdr x).src = some x.radio.val ∧ ChangesOnly (touches (.joinReq x)) s t) ∧
    (∀ e, u.joinReason r (joinAsk s (airPay x)) x.radio.val = some e → ∃ t, exec (.joinReq x) s = .next t ∧ t.net.nodes = s.net.nodes ∧
      Sparse.find t.net.via (airHdr x).src = some x.radio.val ∧ ChangesOnly (touches (.joinReq x)) s t)) ∧
  (∀ (x : AirRx) (s : State), (airHdr x).typ = 9 → (airHdr x).lsrc = true → s.isHead = false → s.isNode = true → s.hasIndex = true → s.placeless = false → (airHdr x).dst = s.ownIndex →
    ∃ t, exec (.joinReq x) s = .next t ∧ t = { s with net := { s.net with via := Sparse.put s.net.via (airHdr x).src x.radio.val } }.sendUp 11 true x.psdu ∧
      t.net.via = Sparse.put s.net.via (airHdr x).src x.radio.val) ∧
  (∀ (x : AirRx) (r : NodeRow) (s : State), s.isHead = true → (airHdr x).typ = 7 → (airHdr x).keysel = 0 → s.nodeRow (airFrom x) = some r → r.index = airFrom x → r.st = 2 →
    ∃ t, exec (.statusReceive x) s = .next t ∧ t = (s.setRow { r with st := 3, lacks := 0 }).event 0xF200 (blkSrc .bcn)
      (toLe 2 r.index ++ toLe 8 r.ident.toNat ++ toLe 2 r.parent ++ toLe 1 r.depth) ∧ (t.rowOf r.ident).map (fun n => (n.st, n.lacks)) = some (3, 0)) ∧
  (∀ (i : Nat) (r : NodeRow) (s : State), s.nodeRow i = some r → s.isHead = true → r.st = 2 → r.accSf + 16 ≤ s.sf → r.tries < 3 →
    ∃ t, exec (.joinConfirmTimeout i) s = .next t ∧ t = (s.setRow { r with tries := r.tries + 1, accSf := s.sf }).admitNode { r with tries := r.tries + 1, accSf := s.sf } ∧
      (t.rowOf r.ident).map (fun n => (n.st, n.tries, n.accSf)) = some (2, r.tries + 1, s.sf)) ∧
  (∀ (i : Nat) (r : NodeRow) (s : State), s.nodeRow i = some r → s.isHead = true → r.st = 2 → r.accSf + 16 ≤ s.sf → 3 ≤ r.tries →
    ∃ t, exec (.joinConfirmTimeout i) s = .next t ∧ t = s.abandonJoin r ∧ (t.rowOf r.ident).map (fun n => (n.st, n.index)) = some (1, if r.fixed then r.index else 0)) ∧
  (∀ (e : Nat) (s : State), s.net.joinEnd = some e → e ≤ s.sf → ∃ t, exec .joinWindowExpiry s = .next t ∧
    t = ({ s with net := { s.net with joinEnd := none } }.wb R.bcn_BCN_CFG 1 false).wb R.bcn_BCN_CFG 2 false ∧ t.net.joinEnd = none ∧
    t.rb R.bcn_BCN_CFG 1 = false ∧ t.rb R.bcn_BCN_CFG 2 = false)) ∧
  ((∀ (x : AirRx) (a : Nat × Nat × Nat) (s : State), s.isNode = true → (airHdr x).typ = 9 → s.bcn.asked = some a → byteAt (airPay x) 0 = 2 → (airHdr x).seg = a.2.1 →
    ∃ t, exec (.joinAcc x) s = .next t ∧ t = s.takeAccept x (le (airPay x) 4 2 % 4096) a.2.1 ∧ t.net.seg = a.2.1 ∧ t.net.index = le (airPay x) 2 2 % 4096 ∧ t.bcn.asked = none ∧
      t.bcn.cands = [] ∧ t.rf R.bcn_BCN_NODE 8 12 = le (airPay x) 4 2 % 4096 ∧ t.depth = byteAt (airPay x) 6 % 32 ∧ ChangesOnly (touches (.joinAcc x)) s t) ∧
  (∀ (x : AirRx) (a : Nat × Nat × Nat) (s : State), s.isNode = true → (airHdr x).typ = 9 → s.bcn.asked = some a → byteAt (airPay x) 0 = 3 → (airHdr x).seg = a.2.1 →
    ∃ t, exec (.joinRef x) s = .next t ∧ t = { s with bcn := { s.bcn with asked := none, retryAt := some (a.2.1, s.sf + le (airPay x) 2 2) } }.askBest (fun _ => true) ∧
      t.bcn.retryAt = some (a.2.1, s.sf + le (airPay x) 2 2) ∧ (t.bcnState = 1 ∨ t.bcnState = 3)) ∧
  (∀ (a : Nat × Nat × Nat) (s : State), s.bcn.asked = some a → s.isNode = true → a.2.2 + 8 ≤ s.sf → let l := s.bcn.cands.map fun (c : Cand) => if c.index = a.1 ∧ c.seg = a.2.1 then { c with tried := true } else c
    ∃ t, exec .joinTimeout s = .next t ∧ t = { s with bcn := { s.bcn with cands := l } }.askBest (fun _ => true) ∧
      (t.bcnState = 1 ∧ t.bcn.cands = [] ∨ t.bcnState = 3 ∧ t.bcn.cands = l)) ∧
  (∀ (k : Nat × Nat × Nat) (s : State), s.isNode = true → s.net.wakeNext = some k → ∃ t, exec (.sleepyWake s.net.index false) s = .next t ∧
    t.net.wake = k ∧ t.net.wakeNext = none ∧ ChangesOnly [.net] s t) ∧
  (∀ (i : Nat) (c : Child) (f : Bytes × Nat) (r : List (Bytes × Nat)) (s : State), s.isNode = false → s.child i = some c → c.sleepy = true → c.held = f :: r → s.holds = true →
    s.sf % 2 ^ c.e = c.phase → s.tick ≤ s.sf * 256 + 226 + 4 * c.w → c.w < 7 → s.wakeFits c.radio f.1 = true → s.wakeQueued c.radio f.1 = false →
    exec (.sleepyWake i true) s = .next (s.fwSend c.radio 1 true (some (s.sf * 256 + 226 + 4 * c.w)) f.1) ∧
    (let y : Tx := ⟨fwDesc f.1.length 1 true (some (s.sf * 256 + 226 + 4 * c.w)), some f.1, s.tick, none, 0, 0⟩
     c.radio < s.rad.length → s.runs (radBlk c.radio) = true → s.tooLong c.radio y = false → ∃ t, exec (.sleepyWake i true) s = .next t ∧
      (t.radio c.radio).queue = (s.radio c.radio).queue ++ [y] ∧ ChangesOnly [.rad] s t)) ∧
  (∀ s : State, ∃ t, exec .heldFrameExpiry s = .next t ∧ t.net.children.length = s.net.children.length ∧
    (∀ c ∈ t.net.children, ∀ f ∈ c.held, s.tick < f.2 + 256 * (2 ^ c.e + 1)) ∧ ChangesOnly [.net] s t) ∧
  (∀ (x : AirRx) (c : Nat) (k : Child) (s : State), (airHdr x).mhop = true → s.hasIndex = true → s.child ((airHdr x).src % 4096) = none → s.airMine x = false →
    (airHdr x).fin / 4096 ≠ 0 → (airHdr x).fin % 4096 ≠ 0 → s.downHop ((airHdr x).fin % 4096) = some c → s.child c = some k →
    exec (.mhopForward x) s = .next (s.toChild k (airHdr x).ackReq (s.relayed (airHdr x) c (airPay x))) ∧
    (let b := s.relayed (airHdr x) c (airPay x)
     let y : Tx := ⟨fwDesc b.length 0 (airHdr x).ackReq none, some b, s.tick, none, 0, 0⟩
     k.sleepy = false → k.radio < s.rad.length → s.runs (radBlk k.radio) = true → s.tooLong k.radio y = false → ∃ t, exec (.mhopForward x) s = .next t ∧
      (t.radio k.radio).queue = (s.radio k.radio).queue ++ [y] ∧ ChangesOnly [.rad] s t)))

/-- A radio takes descriptors, keeps a frame to its slot and its deadline, and completes it (derived: R154, R155, R157, R158, R162, R166, R168, R467). -/
def Obligations.RadioQueuesItsFrames : Prop :=
  (∀ (r : Fin 4) (t : State) (d : DWord) (s : State), s.takes (radBlk r.val) = true → s.hwTakeEnt (s.rf (R.rad_RAD_CFG r.val) 16 4) = (t, some d) →
    (t.badDesc r.val d = true → exec (.txDescriptor r) s = .next (t.err (radBlk r.val) 0x81 0x40 .block)) ∧
    (t.badDesc r.val d = false →
      let x : Tx := ⟨d, none, t.tick, if descResend d then Sparse.find (t.radio r.val).kept (descBuf d) else none, 0, 0⟩
      (t.tooLong r.val x = false → exec (.txDescriptor r) s = .next (t.modRadio r.val fun q => { q with queue := q.queue ++ [x] })) ∧
      (t.tooLong r.val x = false → t.rad.length = 4 → ∃ v, exec (.txDescriptor r) s = .next v ∧ (v.radio r.val).queue = (t.radio r.val).queue ++ [x] ∧ ChangesOnly [.rad] t v) ∧
      (t.tooLong r.val x = true → exec (.txDescriptor r) s = .next ((t.err (radBlk r.val) 0x80 0x40 .block).txDone r.val x dTooLong)))) ∧
  (∀ (r : Fin 4) (a : Fin 3) (s : State), s.onNet = true → s.isStandby = false → s.repeated = false → tickClass (s.tick % 256) = a.val →
    exec (.frameRelease r a) s = .next (s.releaseUpTo r.val a.val)) ∧
  (∀ (r acc : Nat) (x : Tx) (s : State), (s.radio r).tested ≠ some (s.tick, acc) → s.takes (radBlk r) = true → (s.radio r).air = none →
    let u := s.modRadio r fun q => { q with tested := some (s.tick, acc) }
    u.nextTx r acc = some x → u.maySend x = true → s.releaseOf r acc = u.releaseFrame r acc x) ∧
  (∀ (x : Tx) (v : State) (b : Bytes) (s : State), s.onNet = true → s.isStandby = false → s.repeated = false → 224 ≤ s.tick % 256 → s.rad.length = 4 →
    (s.radio 0).tested ≠ some (s.tick, 1) → s.takes (radBlk 0) = true → (s.radio 0).air = none →
    let u := s.modRadio 0 fun q => { q with tested := some (s.tick, 1) }
    u.nextTx 0 1 = some x → u.maySend x = true → u.atSlot 0 x = true → u.floodOver 0 (u.tick * 4000 + 200) (u.sendExch 0 1 x) = false →
    u.hopReaches (u.sendExch 0 1 x) = false → u.lnkTakes = true → u.chnTakes = true → u.chanOk (u.sendChan 0 1) (u.sendMode 0 1) = true →
    u.ledgersAllow 0 (u.sendChan 0 1) (u.sendAir 0 1 x) true = true → u.securedOf x = .done v b →
    ∃ t, exec (.frameRelease 0 1) s = .next t ∧ (t.radio 0).air.map (fun a => (a.tx.desc, a.tx.secured, a.tx.tries)) = some (x.desc, some b, x.tries + 1) ∧ (t.radio 0).rx = none ∧
      ChangesOnly (touches (.frameRelease 0 1)) s t) ∧
  (∀ (r p : Nat) (x : Tx) (s : State), s.slotFor r x = some p → s.tick % p = 0 → s.tick % 256 + p ≤ 224 → x.since < s.tick →
    (x.left = 0 → s.releaseFrame r 0 x = s.tryRelease r 0 x) ∧
    (0 < x.left → s.releaseFrame r 0 x = s.modRadio r fun q => { q with queue := putTx x { x with left := x.left - 1 } q.queue })) ∧
  (∀ (r : Nat) (x : Tx) (s : State), s.atSlot r x = true → s.releaseFrame r 1 x = s.tryRelease r 1 x) ∧
  (∀ (r : Fin 4) (s : State), ∃ t, exec (.deadlineExpiry r) s = .next t ∧ (∀ x ∈ (t.radio r.val).queue, s.txExpired x = false) ∧
    ChangesOnly (touches (.deadlineExpiry r)) s t) ∧
  (∀ (r : Fin 4) (a : OnAir) (s : State), (s.radio r.val).air = some a → descAck a.tx.desc = false →
    ∃ t, exec (.txFrameEnd r) s = .next t ∧ t = ((s.modRadio r.val fun y => { y with air := none }).txDone r.val a.tx dSent).radDrain r.val ∧ (t.radio r.val).air = none) ∧
  (∀ (r : Fin 4) (s : State), s.runs (.rad r) = true → s.rad.length = 4 →
    (∃ t, exec (.paFault r true) s = .next t ∧ t = (s.modRadio r.val fun x => { x with cut := true }).irq (.rad r) 5 ∧ (t.radio r.val).cut = true ∧ t.rb (hdr (.rad r) oRaw) 5 = true) ∧
    (∃ t, exec (.paFault r false) s = .next t ∧ t = (s.modRadio r.val fun x => { x with cut := false }) ∧ (t.radio r.val).cut = false))

/-- A hop list is committed for a boundary ahead, applied at it, and the airtime ledgers age at each superframe (derived: R151, R164, R206). -/
def Obligations.ChannelsHopAndAge : Prop :=
  (∀ (m : Master) (v : Word) (s : State), PageOpen s .chn m → tst v 0 = true → s.timeFor (s.rd R.chn_HOP_AT) = true → (s.rd R.chn_HOP_AT).toNat % 256 = 0 →
    later (s.rd R.chn_HOP_AT) s.tick32 = true →
    (s.hopBad s.hopStaged = false → s.hopFindable s.hopStaged = true → ∃ t, exec (.hopCommit m v) s = .next t ∧
      t = (({ s with chn := { s.chn with hopNext := some (s.hopStaged, s.rd R.chn_HOP_AT) } }).wr R.chn_HOP_COMMIT 1).answer .done ∧
      t.chn.hopNext = some (s.hopStaged, s.rd R.chn_HOP_AT) ∧ t.rd R.chn_HOP_COMMIT = 1 ∧ t.resp = .done) ∧
    (s.hopBad s.hopStaged = true → exec (.hopCommit m v) s = .next ((s.err .chn 0x80 0x54 m).answer .done)) ∧
    (s.hopBad s.hopStaged = false → s.hopFindable s.hopStaged = false → exec (.hopCommit m v) s = .next ((s.err .chn eBadValue 0x54 m).answer .done))) ∧
  (∀ (m : Master) (v : Word) (s : State), PageOpen s .chn m → tst v 0 = true → s.timeFor (s.rd R.chn_HOP_AT) = false →
    exec (.hopCommit m v) s = .next (((s.err .chn eNoTime 0x54 m).noTime .chn (s.rd R.chn_HOP_AT)).answer .done)) ∧
  (∀ (m : Master) (v : Word) (s : State), PageOpen s .chn m → tst v 0 = true → s.timeFor (s.rd R.chn_HOP_AT) = true → (s.rd R.chn_HOP_AT).toNat % 256 ≠ 0 →
    exec (.hopCommit m v) s = .next ((s.err .chn eBadValue 0x54 m).answer .done)) ∧
  (∀ (l : List Nat) (a : Word) (s : State), s.chn.hopNext = some (l, a) → s.holds = true → notEarlier s.tick32 a = true →
    ∃ t, exec .hopApply s = .next t ∧ t = (({ s with chn := { s.chn with hop := l, hopNext := none } }).wr R.chn_HOP_COMMIT 0).irq .chn 2 ∧ t.chn.hop = l ∧ t.chn.hopNext = none ∧
      t.rd R.chn_HOP_COMMIT = 0 ∧ t.rb (hdr .chn oRaw) 2 = true) ∧
  (∀ s : State, s.boot.stage ≠ .off → s.nvsOpen .chn 1 = true → ∃ t, exec .ledgerAge s = .next t ∧ t.chn.age = s.chn.age + 1 ∧ t.chn.dwell = s.chn.dwell.map (fun p => (p.1, (0 :: p.2).take 64)) ∧
    ((s.chn.age + 1) % 64 ≠ 0 → t.chn.duty = s.chn.duty) ∧ ((s.chn.age + 1) % 64 = 0 → t.chn.duty = s.chn.duty.map (fun p => (p.1, (0 :: p.2).take 64))) ∧
    ChangesOnly (touches .ledgerAge) s t)

/-- Once the link layer accepts a counter, the window it keeps refuses that counter whatever comes with it (derived: R192). -/
def Obligations.AcceptedCounterIsNeverAcceptedAgain : Prop :=
  ∀ (acc ok acc' ok' : Bool) (h w ctr : Nat) (ca ca' : Option Bytes) (mic mic' : Bytes), judge acc h w ctr ok ca mic = 0 →
    judge acc' (winTake h w ctr).1 (winTake h w ctr).2 ctr ok' ca' mic' ≠ 0

/-- A radio that hears a sync word receives, its frame end gives a verdict, and acknowledgements close the exchange (derived: R18, R156, R171, R185, R186, R187, R190, R192, R197, R229). -/
def Obligations.FramesAreHeardAndJudged : Prop :=
  (∀ (r : Fin 4) (b : Bytes) (ph : Nat) (c : DWord) (ns : Nat) (s : State), s.hears r.val = true → s.rad.length = 4 →
    (exec (.frameSync r b false ph c ns) s = .next ((s.at c).bumpSat (R.rad_RX_BAD r.val) 1)) ∧
    (let u := s.at c; let k := (((u.nt c : Int) - u.airLag r.val b ph) / tick16).toNat
     (floodFrame (parseHdr b) = true → s.holds = true → u.rxChan r.val k c = u.chan r.val k) → ∃ t, exec (.frameSync r b true ph c ns) s = .next t ∧
      (t.radio r.val).rx.map (fun f => (f.psdu, f.mode)) = some (b, if (parseHdr b).typ = 1 then 2 else s.radMode r.val) ∧ t.cnt = u.cnt ∧
      ChangesOnly (touches (.frameSync r b true ph c ns)) s t)) ∧
  (∀ (r : Fin 4) (fcs : Bytes) (rs : Byte) (mg : Int) (ns : Nat) (f : RxAir) (s : State), s.rad.length = 4 → (s.radio r.val).rx = some f →
    let ok := fcsGood f.psdu fcs
    ∃ t, exec (.frameEndVerdict r fcs rs mg ns) s = .next t ∧ (t.radio r.val).rx = none ∧
      t.rd (R.rad_RX_GOOD r.val) = (if ok then satAdd (s.rd (R.rad_RX_GOOD r.val)) 1 else s.rd (R.rad_RX_GOOD r.val)) ∧
      t.rd (R.rad_RX_BAD r.val) = (if ok then s.rd (R.rad_RX_BAD r.val) else satAdd (s.rd (R.rad_RX_BAD r.val)) 1) ∧
      (ok = true → t.rf (R.rad_RSSI r.val) 0 8 = rs.toNat) ∧ ChangesOnly (touches (.frameEndVerdict r fcs rs mg ns)) s t) ∧
  (∀ (r : Fin 4) (s : State), (s.radio r.val).rx = none → ∀ fcs rs mg ns, exec (.frameEndVerdict r fcs rs mg ns) s = .next s) ∧
  (∀ (r : Fin 4) (s : State), s.rad.length = 4 → (s.radio r.val).ack.isSome = true → ∃ t, exec (.ackSend r) s = .next t ∧ (t.radio r.val).ack = none ∧
    ChangesOnly (touches (.ackSend r)) s t) ∧
  (∀ (r : Fin 4) (a : OnAir) (b fcs : Bytes) (s : State), (s.radio r.val).air = some a → descAck a.tx.desc = true → let u := s.bumpSat (R.rad_RX_GOOD r.val) 1
    exec (.ackTimeout r) s = .next (s.attemptFail r.val a) ∧
    (∃ t, exec (.ackTimeout r) s = .next t ∧ (t.radio r.val).air = none ∧ t.rd (R.rad_NOACK_CNT r.val) = satAdd (s.rd (R.rad_NOACK_CNT r.val)) 1 ∧
      ChangesOnly (touches (.ackTimeout r)) s t) ∧
    (fcsGood b fcs = false → exec (.ackReceive r b fcs) s = .next (s.bumpSat (R.rad_RX_BAD r.val) 1)) ∧
    (fcsGood b fcs = true → u.inReset .lnk = false → u.linkKeysOk = true → u.ackOk (a.tx.secured.getD []) b = true → ∃ t, exec (.ackReceive r b fcs) s = .next t ∧
      t = (((u.modRadio r.val fun x => { x with air := none, slow := decide (byteAt b 3 / 2 % 2 = 1) }).txDone r.val a.tx dSent).radDrain r.val).lnkDrain ∧
      (t.radio r.val).air = none ∧ (t.radio r.val).slow = decide (byteAt b 3 / 2 % 2 = 1) ∧ t.rd (R.rad_RX_GOOD r.val) = satAdd (s.rd (R.rad_RX_GOOD r.val)) 1) ∧
    (fcsGood b fcs = true → u.inReset .lnk = true ∨ u.linkKeysOk = false ∨ u.ackOk (a.tx.secured.getD []) b = false →
      exec (.ackReceive r b fcs) s = .next ((u.bumpSat R.lnk_ACK_IN_BAD 1).attemptFail r.val a))) ∧
  (∀ (r : Nat) (a : OnAir) (s : State), descAccess a.tx.desc ≠ 0 →
    s.attemptFail r a = ((((s.bumpSat (R.rad_NOACK_CNT r) 1).modRadio r fun x => { x with air := none }).txDone r a.tx dNoAck).radDrain r).lnkDrain)

/-- The link's counters and key generations, and what nodes take and report (derived: R181, R182, R194, R196, R198, R200, R195, R252, R340, R342). -/
def Obligations.LinkKeepsItsCountersAndKeys : Prop :=
  ((∀ (m : Master) (i : Fin 3) (v : Word) (s : State), PageOpen s .lnk m →
    (s.en .lnk = true → exec (.ctrTxWrite m i v) s = .next ((s.err .lnk eBusy (0x64 + 4 * i.val) m).answer .done)) ∧
    (s.en .lnk = false → v.toNat ≤ s.rn (ctrReg i.val) → exec (.ctrTxWrite m i v) s = .next ((s.err .lnk 0x80 (0x64 + 4 * i.val) m).answer .done)) ∧
    (s.en .lnk = false → s.rn (ctrReg i.val) < v.toNat → ∃ t, exec (.ctrTxWrite m i v) s = .next t ∧ t = ((s.sendCtr i.val v.toNat).setReserve i.val (v.toNat + 4096)).answer .done ∧
      t.rd (ctrReg i.val) = v ∧ t.resp = .done ∧ (s.nvsOpen .lnk 1 = true → t.lnk.reserve = setAt s.lnk.reserve i.val (min (v.toNat + 4096) 0xFFFFFFFF)))) ∧
  (∀ (m : Master) (v : Word) (s : State), PageOpen s .lnk m →
    (genBad v (s.rd R.lnk_GEN_NEXT) = true → exec (.lnkGenWrite m false v) s = .next ((s.err .lnk 0x81 0x48 m).answer .done)) ∧
    (genBad v (s.rd R.lnk_GEN_NEXT) = false → ∃ t, exec (.lnkGenWrite m false v) s = .next t ∧ t = (s.wr R.lnk_LNK_GEN (v &&& 7)).answer .done ∧ t.rd R.lnk_LNK_GEN = v &&& 7) ∧
    (genBad (s.rd R.lnk_LNK_GEN) v = false → (tst v 1 = true → s.timeFor (s.rd R.lnk_GEN_AT) = true) →
      ∃ t, exec (.lnkGenWrite m true v) s = .next t ∧ t = (s.wr R.lnk_GEN_NEXT (v &&& 3)).answer .done ∧ t.rd R.lnk_GEN_NEXT = v &&& 3)) ∧
  (∀ s : State, s.rb R.lnk_GEN_NEXT 1 = true → s.holds = true → notEarlier s.tick32 (s.rd R.lnk_GEN_AT) = true → ∃ t, exec .genSwitch s = .next t ∧
    t.rf R.lnk_LNK_GEN 0 1 = s.rf R.lnk_GEN_NEXT 0 1 ∧ t.rb R.lnk_GEN_NEXT 1 = false ∧
    (s.rf R.lnk_LNK_GEN 0 1 ≠ s.rf R.lnk_GEN_NEXT 0 1 → t.rd (ctrReg (s.rf R.lnk_GEN_NEXT 0 1)) = 1 ∧ t.lnk.retire = some (s.sf + 64, s.rf R.lnk_LNK_GEN 0 1)) ∧ ChangesOnly (touches .genSwitch) s t) ∧
  (∀ (a g : Nat) (s : State), s.lnk.retire = some (a, g) → a ≤ s.sf → s.isHead = false → g ≤ 1 → ∃ t, exec .genRetire s = .next t ∧
    t = { s with lnk := { s.lnk with retire := none } }.wb R.lnk_LNK_GEN (1 + g) false ∧ t.lnk.retire = none ∧ t.rb R.lnk_LNK_GEN (1 + g) = false) ∧
  (∀ (m : Master) (v : Word) (s : State), PageOpen s .lnk m → ∃ t, exec (.ctxInval m v) s = .next t ∧ t = (s.ctxDrop fun c => decide (c.record = fld v 0 13)).answer .done ∧
    (∀ p ∈ t.lnk.ctx, p.2.record = fld v 0 13 → p.2.drop = true) ∧ t.resp = .done) ∧
  (∀ (m : Master) (v : Word) (s : State), PageOpen s .lnk m → tst v 0 = true → ∃ t, exec (.ctxInvalAll m v) s = .next t ∧ t = (s.ctxDrop fun _ => true).answer .done ∧
    (∀ p ∈ t.lnk.ctx, p.2.drop = true) ∧ t.resp = .done) ∧
  (∀ (t : State) (b : Bytes) (s : State), s.lnkTakes = true → s.packetReady (s.rf R.lnk_VFY_Q 0 4) = true → popPacket 4096 (s.rf R.lnk_VFY_Q 0 4) s [] = (t, some b) →
    let psdu := b.take (s.headLen (s.rf R.lnk_VFY_Q 0 4))
    (secBad (parseHdr psdu) || dstBad (parseHdr psdu)) = true →
      ∃ v, exec .tunnelVerify s = .next v ∧ v = pushAll (s.rf R.lnk_VFY_Q 4 4) (packet (linkTag 0 0 0 false) 7 (psdu.take (psdu.length - 8))) (t.bumpSat R.lnk_RX_BAD_SEC 1) ∧
        v.rd R.lnk_RX_BAD_SEC = satAdd (t.rd R.lnk_RX_BAD_SEC) 1)) ∧
  ((∀ (x : AirRx) (s : State), s.isNode = true → (airHdr x).typ = 10 → (airPay x).length = 18 → byteAt (airPay x) 1 ≤ 1 →
    (byteAt (airPay x) 0 = 0 → exec (.keyReceive x) s = .next (s.takeSegKey (byteAt (airPay x) 1) ((airPay x).drop 2))) ∧
    (byteAt (airPay x) 0 = 0 → s.vlt.slots.length = 64 → (s.bcnState ≠ 3 ∨ s.bcn.asked.isSome = true) → ∃ t, exec (.keyReceive x) s = .next t ∧ t.net.newKey = true ∧
      ((t.vlt.slots.getD (s.rf R.lnk_LNK_KEYS0 (if byteAt (airPay x) 1 = 0 then 0 else 8) 6) none).map fun k => k.key) = some ((airPay x).drop 2) ∧ ChangesOnly (touches (.keyReceive x)) s t) ∧
    (byteAt (airPay x) 0 = 1 → exec (.keyReceive x) s = .next (s.takeNodeKey (byteAt (airPay x) 1) ((airPay x).drop 2))) ∧
    (byteAt (airPay x) 0 = 1 → s.vlt.slots.length = 64 → ∃ t, exec (.keyReceive x) s = .next t ∧ t.net.nkGen = byteAt (airPay x) 1 ∧
      ((t.vlt.slots.getD (s.rf R.lnk_LNK_KEYS1 (if byteAt (airPay x) 1 = 0 then 0 else 8) 6) none).map fun k => k.key) = some ((airPay x).drop 2) ∧ ChangesOnly (touches (.keyReceive x)) s t)) ∧
  (∀ (x : AirRx) (s : State), s.isHead = true → (airHdr x).typ = 5 →
    let q := s.rf R.cor_COR_CFG 0 4
    let d : DWord := BitVec.ofNat 64 (2 ^ 63 + 0x60 * 2 ^ 56 + airFrom x * 2 ^ 44 + byteAt (airPay x) 0 / 16 % 4 * 2 ^ 42 + byteAt (airPay x) 1 % 16 * 2 ^ 38 +
      byteAt (airPay x) 1 / 16 * 2 ^ 34 + (byteAt (airPay x) 0 % 16 + 3) % 4 * 2 ^ 32 + le (airPay x) 2 2 * 2 ^ 16 + s.tickAt x.verdict % 65536)
    exec (.presenceReceive x) s = .next ((s.at x.verdict).hwPush q d) ∧
    ((s.queue q).hw = [] → q < s.que.q.length → s.takes .que = true → s.qen q = true → (s.queue q).ents.length < s.qsize q → ∃ t, exec (.presenceReceive x) s = .next t ∧
      (t.queue q).ents = (s.queue q).ents ++ [⟨d, false⟩] ∧ (t.queue q).hw = [] ∧ ChangesOnly (touches (.presenceReceive x)) s t)) ∧
  (∀ (x : AirRx) (s : State), s.isHead = true → (airHdr x).typ = 6 → s.afterTakeover = false → ∃ t, exec (.energyReceive x) s = .next t ∧
    (∃ r ∈ t.nrg.reports, r.node = airFrom x ∧ r.intv = le (airPay x) 10 2 ∧ r.energy = le (airPay x) 0 4) ∧ ChangesOnly [.nrg] s t) ∧
  (∀ (r : Reading) (s : State), s.nrg.reads.reverse.find? (fun r => !r.sent) = some r → s.isNode = true → s.hasIndex = true → s.holds = true → s.placeless = false → ∃ t, exec .energyReportSend s = .next t ∧
    t = ({ s with nrg := { s.nrg with reads := s.nrg.reads.map fun (q : Reading) => if q.b = r.b then { q with sent := true } else q } }.sendUp 6 true (energyPayload r)) ∧
    t.nrg.reads = s.nrg.reads.map fun (q : Reading) => if q.b = r.b then { q with sent := true } else q))

/-- A node obeys the head's commands of the air and no one else's, and the head answers a mode query and notes an acknowledgement (derived: R219, R279, R280, R286, R343). -/
def Obligations.AirCommandsFromTheHead : Prop :=
  ((∀ (x : AirRx) (s : State), s.fromHead x 0x0210 = true → (∃ t, exec (.childAdd x) s = .next t ∧ t = s.addChild (le (airArgs x) 0 2 % 4096) (BitVec.ofNat 64 (le (airArgs x) 2 8)) (decide (byteAt (airArgs x) 10 ≠ 0)) (byteAt (airArgs x) 11 % 16)
      (byteAt (airArgs x) 12) (byteAt (airArgs x) 13 % 8) ∧ (t.child (le (airArgs x) 0 2 % 4096)).map (fun c => (c.ident, c.sleepy, c.held)) = some (BitVec.ofNat 64 (le (airArgs x) 2 8), decide (byteAt (airArgs x) 10 ≠ 0), []))) ∧
  (∀ (x : AirRx) (s : State), s.fromHead x 0x0211 = true → (∃ t, exec (.childDel x) s = .next t ∧ t = s.dropChild (le (airArgs x) 0 2 % 4096) ∧ t.child (le (airArgs x) 0 2 % 4096) = none ∧ (∀ p ∈ t.net.routes, p.2 ≠ le (airArgs x) 0 2 % 4096))) ∧
  (∀ (x : AirRx) (s : State), s.fromHead x 0x0212 = true →
    let p := le (airArgs x) 0 2 % 4096
    (∀ k, s.bcn.cands.find? (fun c => decide (c.index = p) && decide (c.seg = s.net.seg)) = some k →
      (∃ t, exec (.rejoinVia x) s = .next t ∧ t = s.askParent k.radio k.seg p k.margins ∧ t.bcnState = 3 ∧ t.bcn.asked = some (p, k.seg, s.sf))) ∧
    (s.bcn.cands.find? (fun c => decide (c.index = p) && decide (c.seg = s.net.seg)) = none →
      (∃ t, exec (.rejoinVia x) s = .next t ∧ t = s.askParent s.upRadio s.net.seg p (if p = s.parentIx then s.bcn.margins else []) ∧ t.bcnState = 3 ∧ t.bcn.asked = some (p, s.net.seg, s.sf)))) ∧
  (∀ (x : AirRx) (s : State), s.fromHead x 0x0213 = true → (∃ t, exec (.wakeSet x) s = .next t ∧ t = { s with net := { s.net with wakeNext := some (byteAt (airArgs x) 0 % 16, byteAt (airArgs x) 1, byteAt (airArgs x) 2 % 8) } } ∧ t.net.wakeNext = some (byteAt (airArgs x) 0 % 16, byteAt (airArgs x) 1, byteAt (airArgs x) 2 % 8))) ∧
  (∀ (x : AirRx) (s : State), s.fromHead x 0x0718 = true → 60 ≤ le (airArgs x) 0 4 → le (airArgs x) 0 4 ≤ 86400 → (∃ t, exec (.energyCfg x) s = .next t ∧ t = { s with nrg := { s.nrg with next := some (le (airArgs x) 0 4, le (airArgs x) 4 2) } } ∧ t.nrg.next = some (le (airArgs x) 0 4, le (airArgs x) 4 2))) ∧
  (∀ (x : AirRx) (s : State), s.isNode = true → s.inReset .lvl = false → s.airMine x = true → airOpc x = 0x0512 → (∃ t, exec (.schedSet x) s = .next t ∧ t = s.schedSet (airArgs x) ∧ (∀ p ∈ List.range 8, p < byteAt (airArgs x) 0 → le (airArgs x) (1 + 6 * p) 4 ≤ 86399 → t.rf (R.lvl_SCHEDp p) 0 17 = le (airArgs x) (1 + 6 * p) 4 ∧ t.rb (R.lvl_SCHEDp p) 23 = true) ∧
    (∀ p ∈ List.range 8, byteAt (airArgs x) 0 ≤ p → t.rd (R.lvl_SCHEDp p) = 0))) ∧
  (∀ (x : AirRx) (s : State), s.isHead = true → s.inReset .lvl = false → airOpc x = 0x0510 → le (airArgs x) 0 2 = s.epoch →
    ∃ t, exec (.modeAck x) s = .next t ∧ t.rb (R.lvl_APPLIEDi (airFrom x / 32)) (airFrom x % 32) = true ∧
      t.lvl.late = s.lvl.late + (if s.rb (R.lvl_APPLIEDi (airFrom x / 32)) (airFrom x % 32) = false ∧ byteAt (airArgs x) 6 = 1 then 1 else 0) ∧ ChangesOnly [.regs, .lvl] s t) ∧
  (∀ (x : AirRx) (s : State), s.isHead = true → s.inReset .lvl = false → airOpc x = 0x0511 → s.afterTakeover = false → s.curMode.hop = none → (∃ t, exec (.modeGet x) s = .next t ∧ t = (s.irq .lvl 4).sendDown (airFrom x) 3 true 0 0 (modePayload (s.irq .lvl 4).epoch ((s.irq .lvl 4).lvl.curC.getD 0) s.curMode false 0) ∧ t.rb (hdr .lvl oRaw) 4 = true))) ∧
  (∀ (x : AirRx) (s : State), (∀ o, s.fromHead x o = false) → exec (.childAdd x) s = .next s ∧ exec (.childDel x) s = .next s ∧ exec (.rejoinVia x) s = .next s ∧
    exec (.wakeSet x) s = .next s ∧ exec (.energyCfg x) s = .next s)

/-- A PPS edge is measured and its loss leads to holdover, a time of day waits for its edge, and the link delay is measured (derived: R228, R239, R240, R241, R235). -/
def Obligations.PpsTimeOfDayAndLinkDelay : Prop :=
  ((∀ (b : Bool) (c : DWord) (s : State), s.takes .ntm = true → s.rb R.ntm_NTM_CFG 4 = true → b = !s.rb R.ntm_NTM_CFG 3 → ∃ t, exec (.ppsEdge b c) s = .next t ∧
    t.cnt = (s.at c).cnt ∧ t.rd64 R.ntm_PPS_CAP_LO R.ntm_PPS_CAP_HI = c.toNat ∧ ChangesOnly (touches (.ppsEdge b c)) s t) ∧
  (∀ (b : Bool) (c : DWord) (s : State), s.takes .ntm = true → s.rb R.ntm_NTM_CFG 4 = true → b = s.rb R.ntm_NTM_CFG 3 → exec (.ppsEdge b c) s = .next (s.at c)) ∧
  (∀ (c : DWord) (s : State), s.runs .ntm = true → s.rf R.ntm_NTM_CFG 0 2 = 1 → (s.tmState = 1 ∨ s.tmState = 2) → (s.at c).ppsOverdue c = true → ∃ t, exec (.ppsLost c) s = .next t ∧ t.tmState = 3 ∧
    t.ntm.holdCnt = (s.at c).cnt ∧ t.ntm.ppsNext = none ∧ t.rd R.ntm_HOLD_CNT = s.rd R.ntm_HOLD_CNT + 1 ∧ ChangesOnly (touches (.ppsLost c)) s t) ∧
  (∀ (c : DWord) (k : TodWait) (s : State), s.ntm.tod = some k → 275000000 ≤ (c - k.cnt).toNat → (∃ t, exec (.todTimeout c) s = .next t ∧ t = ((s.at c).err .ntm 0x80 0 .block).todReply stFault (toLe 1 0x80) ∧ t.ntm.tod = none)) ∧
  (∀ (tag : Word) (c : DWord) (k : Cmd) (s : State), Ready s 0x0100 tag k →
    (k.par 0 8 % 1000000000 ≠ 0 → (∃ t, exec (.todSet tag c) s = .next t ∧ t = s.reply k stBadParam [] [] ∧ Ended k t)) ∧
    (k.par 0 8 % 1000000000 = 0 → s.takes .ntm = false → (∃ t, exec (.todSet tag c) s = .next t ∧ t = s.reply k stBusy [] [] ∧ Ended k t)) ∧
    (k.par 0 8 % 1000000000 = 0 → s.takes .ntm = true → ∃ t, exec (.todSet tag c) s = .next t ∧ t.cnt = (s.at c).cnt ∧
      t.ntm.tod = some ⟨tag, k.par 0 8, decide (k.par 8 1 % 2 = 1), c⟩ ∧ ChangesOnly (touches (.todSet tag c)) s t))) ∧
  ((∀ s : State, s.takes .ntm = true → s.isNode = true → s.holds = true → s.ntm.measured = true → s.placeless = false → (s.ntm.dreqSf.all fun f => decide (f + s.rf R.ntm_DLY_CFG 0 8 ≤ s.sf)) = true →
    let u : State := { s with ntm := { s.ntm with dreqSeq := (s.ntm.dreqSeq + 1) % 256, dreqSf := some s.sf } }
    ∃ t, exec .dreqSend s = .next t ∧ t = u.fwSend u.upRadio 0 false none (u.frameOf 4 false 0 0 u.parentIx none (toLe 1 1 ++ toLe 1 s.ntm.dreqSeq ++ zeros 8)) ∧
      t.ntm.dreqSeq = (s.ntm.dreqSeq + 1) % 256 ∧ t.ntm.dreqSf = some s.sf ∧ ChangesOnly (touches .dreqSend) s t) ∧
  (∀ (x : AirRx) (s : State), (airHdr x).typ = 4 → (airHdr x).mhop = false → byteAt (airPay x) 0 = 1 → (airPay x).length = 10 → s.hasIndex = true → s.holds = true →
    s.placeless = false → let u := s.at x.verdict
    ∃ t, exec (.dreq x) s = .next t ∧ t = u.fwSend x.radio.val 0 false (some (u.tick + 4 * 256))
      (u.frameOf 4 false 0 0 ((airHdr x).src % 4096) none (toLe 1 2 ++ toLe 1 (byteAt (airPay x) 1) ++ toLe 8 (tsOf (s.airStart x)) ++ zeros 8)) ∧
      t.cnt = u.cnt ∧ ChangesOnly (touches (.dreq x)) s t) ∧
  (∀ (x : AirRx) (s : State), (airHdr x).typ = 4 → (airHdr x).mhop = false → byteAt (airPay x) 0 = 1 → (airPay x).length = 10 → s.hasIndex = true → s.holds = true →
    s.placeless = false → s.runs (radBlk x.radio.val) = true → s.rad.length = 4 → let u := s.at x.verdict
    let b := u.frameOf 4 false 0 0 ((airHdr x).src % 4096) none (toLe 1 2 ++ toLe 1 (byteAt (airPay x) 1) ++ toLe 8 (tsOf (s.airStart x)) ++ zeros 8)
    let y : Tx := ⟨fwDesc b.length 0 false (some (s.tick + 4 * 256)), some b, s.tick, none, 0, 0⟩
    u.tooLong x.radio.val y = false → ∃ t, exec (.dreq x) s = .next t ∧ (t.radio x.radio.val).queue = (s.radio x.radio.val).queue ++ [y]) ∧
  (∀ (x : AirRx) (n t1 : Nat) (s : State), (airHdr x).typ = 4 → (airHdr x).mhop = false → byteAt (airPay x) 0 = 2 → (airPay x).length = 18 → s.isNode = true →
    (airHdr x).src = s.parentIx → s.takes .ntm = true → s.ntm.dreq.find? (fun q => decide (q.1 = byteAt (airPay x) 1)) = some (n, t1) →
    let d := (delayOf t1 (le (airPay x) 2 8) (le (airPay x) 10 8) (tsOf (s.airStart x))).toList
    ∃ t, exec (.dresp x) s = .next t ∧ t.ntm.dreq = s.ntm.dreq.filter (fun p => p.1 ≠ n) ∧ t.ntm.delays = (d ++ s.ntm.delays).take 5 ∧
      t.rd R.ntm_DLY_CNT = satAdd (s.rd R.ntm_DLY_CNT) d.length ∧ RegsOnly [R.ntm_DLY_CNT, hdr .ntm oRaw] s t ∧ ChangesOnly (touches (.dresp x)) s t))

/-- Time is read with its high word latched, snapped, stepped at the next edge, and loaded as one set (derived: R225, R226, R227, R238, R245, R246). -/
def Obligations.TimeIsReadSteppedAndLoaded : Prop :=
  (∀ (m : Master) (c : DWord) (s : State), PageOpen s .ntm m → (∃ t, exec (.cntRead m c) s = .next t ∧ t = ({ s.at c with ntm := { s.ntm with cntHi := w32 (c.toNat / 2 ^ 32) } }).answer (.data (w32 c.toNat)) ∧ t.resp = .data (w32 c.toNat) ∧ t.ntm.cntHi = w32 (c.toNat / 2 ^ 32))) ∧
  (∀ (m : Master) (s : State), PageOpen s .ntm m → (∃ t, exec (.tickRead m) s = .next t ∧ t = { s with ntm := { s.ntm with tickHi := w32 (s.tick / 2 ^ 32) } }.answer (.data s.tick32) ∧ t.resp = .data s.tick32 ∧ t.ntm.tickHi = w32 (s.tick / 2 ^ 32))) ∧
  (∀ (m : Master) (v : Word) (c : DWord) (s : State), PageOpen s .ntm m → ∃ t, exec (.snap m v c) s = .next t ∧ t.resp = .done ∧ t.cnt = (s.at c).cnt ∧
    t.rd64 R.ntm_SNAP_CNT_LO R.ntm_SNAP_CNT_HI = c.toNat ∧ t.rd R.ntm_SNAP_FRAC = w32 (s.nt c % 2 ^ 16) ∧
    t.rd64 R.ntm_SNAP_NS_LO R.ntm_SNAP_NS_HI = s.nt c / 2 ^ 16 % 2 ^ 64 ∧ ChangesOnly [.regs, .resp, .cnt] s t) ∧
  (∀ (m : Master) (v : Word) (s : State), PageOpen s .ntm m → tst v 0 = true → s.holds = true → (∃ t, exec (.stepGo m v) s = .next t ∧ t = (({ s with ntm := { s.ntm with step := some (sgn 64 (s.rd64 R.ntm_STEP_NS_LO R.ntm_STEP_NS_HI) * 2 ^ 16) } }).wr R.ntm_STEP_CTRL 1).answer .done ∧ t.ntm.step = some (sgn 64 (s.rd64 R.ntm_STEP_NS_LO R.ntm_STEP_NS_HI) * 2 ^ 16) ∧ t.rd R.ntm_STEP_CTRL = 1 ∧ t.resp = .done)) ∧
  (∀ (m : Master) (v : Word) (s : State), PageOpen s .ntm m → tst v 0 = true → s.holds = false → exec (.stepGo m v) s = .next ((s.err .ntm eNoTime 0x98 m).answer .done)) ∧
  (∀ (e : Int) (c : DWord) (s : State), s.ntm.step = some e → s.holds = true → s.ntm.stepDue = true → c = s.edgeCnt → ∃ t, exec (.timeStep c) s = .next t ∧ t.ntm.step = none ∧ t.ntm.stepHold = true ∧ t.cnt = (s.at c).cnt ∧
    t.rd R.ntm_STEP_CTRL = 0 ∧ t.rd R.ntm_STEP_CNT = s.rd R.ntm_STEP_CNT + 1 ∧ (e < 0 → t.ntm.passed = some (max (s.ntm.passed.getD 0) s.ntm.tick)) ∧
    ChangesOnly (touches (.timeStep c)) s t) ∧
  (∀ (m : Master) (v : Word) (c : DWord) (s : State), PageOpen s .ntm m → s.tmState = 0 → s.rb R.ntm_NTM_CFG 2 = false → ∃ t, exec (.offsetLoad m v c) s = .next t ∧
    t.tmState = 1 ∧ t.rd R.ntm_OFFSET_NS_HI = v ∧ t.rd R.ntm_OFFSET_NS_LO = (s.ntm.stage.getD 3 none).getD (s.rd R.ntm_OFFSET_NS_LO) ∧
    t.rd R.ntm_ANCHOR_LO = (s.ntm.stage.getD 0 none).getD (s.rd R.ntm_ANCHOR_LO) ∧ t.ntm.stage = [none, none, none, none] ∧ t.cnt = (s.at c).cnt ∧
    ChangesOnly (touches (.offsetLoad m v c)) s t) ∧
  (∀ (m : Master) (v : Word) (c : DWord) (s : State), PageOpen s .ntm m → s.tmState ≠ 0 → exec (.offsetLoad m v c) s = .next ((s.err .ntm eBusy 0xE0 m).answer .done)) ∧
  (∀ (tag : Word) (c : DWord) (k : Cmd) (s : State), Ready s 0x0101 tag k → let t := s.snap c
    (∃ v, exec (.timeGet tag c) s = .next v ∧ v = t.reply k stOk (toLe 8 c.toNat ++ toLe 2 (t.nt c % 2 ^ 16) ++ toLe 8 (t.ntNs c) ++ toLe 4 t.ntmStat.toNat ++ toLe 4 t.boundReg.toNat) [] ∧ Ended k v)) ∧
  (∀ (tag : Word) (k : Cmd) (s : State), Ready s 0x0102 tag k →
    (s.rf R.rst_ROLE 0 2 = 2 → (∃ t, exec (.timeSrc tag) s = .next t ∧ t = s.reply k stDenied [] [] ∧ Ended k t)) ∧
    (s.rf R.rst_ROLE 0 2 ≠ 2 → k.par 0 1 ≤ 3 → (∃ t, exec (.timeSrc tag) s = .next t ∧ t = (s.wf R.ntm_NTM_CFG 0 2 (k.par 0 1)).reply k stOk [] [] ∧ t.rf R.ntm_NTM_CFG 0 2 = k.par 0 1 ∧ Ended k t)) ∧
    (s.rf R.rst_ROLE 0 2 ≠ 2 → 3 < k.par 0 1 → (∃ t, exec (.timeSrc tag) s = .next t ∧ t = s.reply k stBadParam [] [] ∧ Ended k t)))

/-- The servo's frequency stays within 5,000 ppb and its slew within SLEW_MAX, whatever it measures (derived: R237). -/
def Obligations.ServoStaysInItsLimits : Prop :=
  ∀ (first : Bool) (freq e d k : Int) (n : Nat), -(ppbRate 5000 1) ≤ servoFreq first freq e d k ∧ servoFreq first freq e d k ≤ ppbRate 5000 1 ∧
    -(ppbRate n 1) ≤ servoSlew n e d k ∧ servoSlew n e d k ≤ ppbRate n 1

/-- Tick fields of 32 bits wrap every 2^32 ticks and are compared by serial arithmetic (stated: R7). -/
def Obligations.SerialComparisonOfTicks : Prop :=
  (∀ s : State, s.tick32.toNat = s.tick % 2 ^ 32) ∧ (∀ n : Nat, w32 (n + 2 ^ 32) = w32 n ∧ (w32 n).toNat = n % 2 ^ 32) ∧ 2 ^ 32 * 4 = 17179869184 ∧
  (∀ a b : Word, later a b = true ↔ 0 < (a - b).toInt) ∧
  (∀ a b : Word, later a b = true ↔ 1 ≤ (a - b).toNat ∧ (a - b).toNat ≤ 2 ^ 31 - 1) ∧
  (∀ a b : Word, (a - b).toNat = 2 ^ 31 → later a b = false ∧ later b a = false)

/-- Outside the pages and the MSI-X structures BAR0 is unmapped: reads give zero, writes are ignored, both are recorded (stated: R66). -/
def Obligations.UnmappedAccessesAreRecorded : Prop :=
  (∀ a : Nat, unmapped a = true ↔ blkOfPage (a / 0x1000) = none ∧ isMsix a = false) ∧
  (∀ a : Nat, 0x5000 ≤ a → a < 0x6000 → unmapped a = true) ∧ (∀ a : Nat, 0x2F000 ≤ a → isMsix a = false → unmapped a = true) ∧
  (∀ (m : Master) (wr : Bool) (addr a : Nat) (v : Word) (s : State), busOff m addr = some a → a < 2 ^ 24 → unmapped a = true → s.inReset .sys = false → (m = .host → s.hostWaits = false) →
    ∃ t, exec (.unmappedAccess m wr addr v) s = .next t ∧ t.resp = (if wr then .done else .data 0) ∧ t.rd R.sys_ERR_ADDR_LO = w32 a ∧ t.rd R.sys_ERR_ADDR_HI = 0 ∧
      (s.rd (hdr .sys oErr) = 0 → t.rd (hdr .sys oErr) = w32 (0x11 + a % 0x1000 * 2 ^ 8 + masterSrc m * 2 ^ 20 + 2 ^ 24)) ∧
      t.rb (hdr .sys oRaw) 31 = true ∧ RegsOnly [hdr .sys oErr, hdr .sys oRaw, R.sys_ERR_ADDR_LO, R.sys_ERR_ADDR_HI] s t ∧
      ChangesOnly [.regs, .resp, .out, .pba] s t)

/-- ERR_CODE keeps the first error since the last read, counts every error, and sets IRQ bit 31 (stated: R70). -/
def Obligations.FirstErrorIsKeptAndCounted : Prop :=
  (∀ (s : State) (b : Blk) (code off : Nat) (m : Master), code < 256 → off < 0x1000 → let t := s.err b code off m
    (s.rn (hdr b oErr) = 0 → t.rf (hdr b oErr) 0 8 = code ∧ t.rf (hdr b oErr) 8 12 = off ∧ t.rf (hdr b oErr) 20 4 = masterSrc m ∧ t.rf (hdr b oErr) 24 8 = 1) ∧
    (s.rn (hdr b oErr) ≠ 0 → t.rf (hdr b oErr) 0 24 = s.rf (hdr b oErr) 0 24 ∧ t.rf (hdr b oErr) 24 8 = min (s.rf (hdr b oErr) 24 8 + 1) 255) ∧
    t.rb (hdr b oRaw) 31 = true ∧ RegsOnly [hdr b oErr, hdr b oRaw] s t ∧ ChangesOnly [.regs, .pba, .out] s t) ∧
  (∀ (s : State) (b : Blk) (m : Master) (p : Nat), ∃ t, t = s.pageLoad b m p oErr ∧ t.resp = .data (s.rd (hdr b oErr)) ∧ t.rd (hdr b oErr) = 0 ∧
    RegsOnly [hdr b oErr] s t ∧ ChangesOnly [.regs, .resp] s t) ∧
  (eNarrowWrite = 0x01 ∧ eNarrowRead = 0x02 ∧ eLocked = 0x03 ∧ eBadKey = 0x04 ∧ eBadValue = 0x05 ∧ eBusy = 0x06 ∧ eDropped = 0x07 ∧ eRelTimeout = 0x08 ∧
    eNoTime = 0x09 ∧ eKillIgnored = 0x0A ∧ eMultiDw = 0x10 ∧ eUnmapped = 0x11 ∧ eClosed = 0x12 ∧ ePoisoned = 0x13)

/-- A register access to a block in reset has no effect: it is recorded as DROPPED_IN_RESET and the host sees an abort (derived: R45, R47). -/
def Obligations.AccessesInResetAreDropped : Prop :=
  ∀ (i : Instr) (b : Blk) (off : Nat) (m : Master) (s : State), pageOf i = some (b, off, m) → s.inReset b = true →
    (s.hostWaits = false ∨ (m ≠ .host ∧ s.hostBlocked = true)) → exec i s = .next ((s.err b eDropped off m).answer (resetResp m))

/-- A word reaches a register by its page, its lock and its own rule; narrow and long accesses are recorded and take no effect (derived: R11, R13, R67, R71, R141, R9, R58). -/
def Obligations.RegistersAreReadAndWrittenAsWords : Prop :=
  ((∀ (m : Master) (a : Nat) (v : Word) (s : State), s.laneHeld m = false →
    exec (.registerWrite m a v) s = .next (s.busWrite m a v).hostFlush ∧ exec (.rcRead m a) s = .next (s.busRead m a)) ∧
  (∀ (m : Master) (addr a p : Nat) (b : Blk) (v : Word) (s : State), s.laneHeld m = false → busOff m addr = some a → isMsix a = false →
    blkOfPage (a / 0x1000) = some (b, p) → PageOpen s b m → s.hostDenied b m (a % 0x1000) = false →
    exec (.registerWrite m addr v) s = .next ((s.pageStore b m p (a % 0x1000) v).answer .done).hostFlush ∧
    exec (.rcRead m addr) s = .next (s.pageLoad b m p (a % 0x1000))) ∧
  (∀ (b : Blk) (s : State), PageOpen s b .host → ∃ t, exec (.rcRead .host (hdr b oErr)) s = .next t ∧ t.resp = .data (s.rd (hdr b oErr)) ∧ t.rd (hdr b oErr) = 0 ∧
    RegsOnly [hdr b oErr] s t ∧ ChangesOnly [.regs, .resp] s t) ∧
  (∀ (b : Blk) (v : Word) (s : State), PageOpen s b .host → s.hostDenied b .host oStat = false → ∃ t, exec (.registerWrite .host (hdr b oStat) v) s = .next t ∧
    t.rd (hdr b oStat) = s.rd (hdr b oStat) &&& ~~~(v &&& 0x24) ∧ t.resp = .done ∧ RegsOnly [hdr b oStat] s t ∧ ChangesOnly [.regs, .resp] s t) ∧
  (∀ (s : State) (b : Blk) (m : Master) (p off : Nat) (v : Word), 0x40 ≤ off → s.locked b = true → rowLocks (blkBase b + 0x1000 * p + off) = true →
    s.pageStore b m p off v = s.err b eLocked off m) ∧
  (∀ (s : State) (b : Blk) (m : Master) (p : Nat) (v : Word), s.pageStore b m p 0 v = s ∧ s.pageStore b m p 4 v = s ∧ s.pageStore b m p oErr v = s) ∧
  (∀ (a : Nat) (v : Word) (s : State), a < 0x3FFFFD → s.inReset .que = false → s.host.bar0Held = [] → ∃ t, exec (.registerWrite .svc (0x10000000 + a) v) s = .next t ∧ t.resp = .done ∧
    memRead t.mem.sram a 4 = toLe 4 v.toNat ∧ (∀ x, (x < a ∨ a + 4 ≤ x) → memRead t.mem.sram x 1 = memRead s.mem.sram x 1) ∧ ChangesOnly [.mem, .resp] s t)) ∧
  ((∀ (m : Master) (addr a : Nat) (v : Word) (b : Blk) (p : Nat) (s : State), busOff m addr = some a → blkOfPage (a / 0x1000) = some (b, p) → PageOpen s b m →
    (∃ t, exec (.narrowWrite m addr v) s = .next t ∧ t = (s.err b eNarrowWrite (a % 0x1000) m).answer .done ∧ (s.rd (hdr b oErr) = 0 → t.rf (hdr b oErr) 0 8 = 0x01) ∧ t.resp = .done ∧ RegsOnly [hdr b oErr, hdr b oRaw] s t) ∧
    (∃ t, exec (.narrowRead m addr) s = .next t ∧ t = (s.err b eNarrowRead (a % 0x1000) m).answer (.data 0) ∧ (s.rd (hdr b oErr) = 0 → t.rf (hdr b oErr) 0 8 = 0x02) ∧ t.resp = .data 0 ∧ RegsOnly [hdr b oErr, hdr b oRaw] s t)) ∧
  (∀ (m : Master) (addr : Nat) (v : Word) (s : State), busOff m addr = none → exec (.narrowWrite m addr v) s = .next s ∧ exec (.narrowRead m addr) s = .next s) ∧
  (∀ (wr : Bool) (addr : Nat) (ws : List Word) (s : State), s.inReset .sys = false → s.hostWaits = false → ∃ t, exec (.multiDw wr addr ws) s = .next t ∧
    t.resp = (if wr then .done else .unsupported) ∧ t.rd64 R.sys_ERR_ADDR_LO R.sys_ERR_ADDR_HI = addr % 2 ^ 64 ∧
    (s.rd (hdr .sys oErr) = 0 → t.rf (hdr .sys oErr) 0 8 = 0x10) ∧
    RegsOnly [hdr .sys oErr, hdr .sys oRaw, R.sys_ERR_ADDR_LO, R.sys_ERR_ADDR_HI] s t ∧ ChangesOnly [.regs, .resp, .out, .pba] s t))

/-- Interrupts are cleared and forced bit by bit, the page lock sets, and a reset request resets the block (derived: R63, R64, R67, R69, R71, R384). -/
def Obligations.PageHeadersAreWritten : Prop :=
  (∀ (m : Master) (b : Blk) (v : Word) (s : State), PageOpen s b m → s.hostDenied b m oRaw = false → ∃ t, exec (.irqClear m b v) s = .next t ∧ t.resp = .done ∧
    t.rd (hdr b oRaw) = s.rd (hdr b oRaw) &&& ~~~v ∧ RegsOnly [hdr b oRaw] s t ∧ ChangesOnly [.regs, .resp, .out, .pba] s t) ∧
  (∀ (m : Master) (b : Blk) (v : Word) (s : State), PageOpen s b m → s.hostDenied b m 0x2C = false → ∃ t, exec (.irqForce m b v) s = .next t ∧ t.resp = .done ∧
    t.rd (hdr b oRaw) = s.rd (hdr b oRaw) ||| (v &&& w32 (2 ^ blkIrqN b - 1 + 0xC0000000)) ∧ RegsOnly [hdr b oRaw] s t ∧ ChangesOnly [.regs, .resp, .out, .pba] s t) ∧
  (∀ (m : Master) (b : Blk) (v : Word) (s : State), PageOpen s b m → s.hostDenied b m oLock = false → tst v 0 = true → ∃ t, exec (.pageLock m b v) s = .next t ∧
    t.locked b = true ∧ RegsOnly [hdr b oLock] s t ∧ ChangesOnly [.regs, .resp] s t) ∧
  (∀ (m : Master) (b : Blk) (s : State), PageOpen s b m → exec (.pageRstReq m b) s = .next ((s.blockReset b).answer .done).hostFlush ∧
    (s.host.bar0Held = [] → ∃ t, exec (.pageRstReq m b) s = .next t ∧ t = (s.blockReset b).answer .done ∧ t.inReset b = (blkBit b).isSome ∧ t.resp = .done)) ∧
  (∀ (m : Master) (v : Word) (s : State), PageOpen s .sys m → ∃ t, exec (.swIrqSet m v) s = .next t ∧ t.resp = .done ∧
    t.rd R.sys_SW_IRQ_PEND = s.rd R.sys_SW_IRQ_PEND ||| (v &&& 0x3FF) ∧ RegsOnly [R.sys_SW_IRQ_PEND] s t ∧ ChangesOnly [.regs, .resp, .out, .pba] s t) ∧
  (∀ (s : State) (n : Nat), (s.rb (msixCtl n) 0 = false → s.fireVec n = s.emit (.msi n)) ∧
    (s.rb (msixCtl n) 0 = true → n < 64 → (s.fireVec n).host.pba.getLsbD n = true ∧ ChangesOnly [.pba] s (s.fireVec n))) ∧
  (∀ (m : Master) (b : Blk) (v : Word) (s : State), PageOpen s b m → s.hostDenied b m 0x2C = true → exec (.irqForce m b v) s = .next ((s.err b 0x80 0x2C m).answer .done))

/-- Enable, drain and kill follow the table of their meetings (derived: R68, R69). -/
def Obligations.BlocksDrainPauseResumeAndStop : Prop :=
  (∀ (m : Master) (b : Blk) (s : State), PageOpen s b m → s.hostDenied b m oCtrl = false → let w := s.rd (hdr b oCtrl)
    exec (.blockEnable m b) s = .next ((s.ctrlWrite b m (setBit w 0 true)).answer .done).hostFlush ∧
    exec (.blockDisable m b) s = .next ((s.ctrlWrite b m (setBit w 0 false)).answer .done).hostFlush ∧
    exec (.drainSet m b) s = .next ((s.ctrlWrite b m (setBit w 1 true)).answer .done).hostFlush ∧
    exec (.drainClear m b) s = .next ((s.ctrlWrite b m (setBit w 1 false)).answer .done).hostFlush ∧
    exec (.kill m b) s = .next ((s.ctrlWrite b m (setBit w 2 true)).answer .done).hostFlush) ∧
  (∀ (m : Master) (b : Blk) (s : State), PageOpen s b m → s.hostDenied b m oCtrl = false → blkDrain b = true → s.keptOff b = false → s.host.bar0Held = [] → s.rn (hdr b oCtrl) < 4 →
    (s.en b = false → s.drained b = true → ∃ t, exec (.blockEnable m b) s = .next t ∧ t.en b = true ∧ t.resp = .done) ∧
    (s.en b = true → ∃ t, exec (.blockDisable m b) s = .next t ∧ t.en b = false ∧ t.resp = .done) ∧
    (s.en b = true → s.drainBit b = false → ∃ t, exec (.drainSet m b) s = .next t ∧ t.en b = true ∧ t.drainBit b = true ∧ t.resp = .done) ∧
    (s.en b = true → s.drainBit b = true → ∃ t, exec (.drainClear m b) s = .next t ∧ t.en b = true ∧ t.drainBit b = false ∧ t.resp = .done) ∧
    (blkKill b = true → s.draining b = true → ∃ t, exec (.kill m b) s = .next t ∧ t.rb (hdr b oStat) 5 = true ∧ t.resp = .done)) ∧
  (∀ (m : Master) (b : Blk) (v : Word) (s : State), blkDrain b = true → tst v 3 = false → tst v 2 = false →
    (s.en b = true → tst v 0 = false → s.drained b = false → s.ctrlWrite b m v = (s.setCtrl b false (tst v 1)).disableBlk b) ∧
    (s.en b = true → tst v 0 = false → s.drained b = true → s.ctrlWrite b m v = (s.setCtrl b false (tst v 1)).cancelHeld b) ∧
    (s.en b = true → tst v 0 = true → s.keptOff b = false → tst v 1 = true → s.drainBit b = false → s.ctrlWrite b m v = (s.setCtrl b true true).pauseBlk b) ∧
    (s.en b = true → tst v 0 = true → s.keptOff b = false → tst v 1 = false → s.drainBit b = true → s.ctrlWrite b m v = ((s.setCtrl b true false).undrain b).resumeBlk b) ∧
    (s.en b = false → tst v 0 = true → s.keptOff b = false → s.drained b = false → s.ctrlWrite b m v = s.err b eBusy oCtrl m) ∧
    (s.en b = false → tst v 0 = true → s.keptOff b = false → tst v 1 = false → s.drained b = true → s.ctrlWrite b m v = ((s.setCtrl b true false).undrain b).enableBlk b)) ∧
  (∀ (m : Master) (b : Blk) (s : State), (blkKill b = false ∨ s.draining b = false → s.killReq b m = s.err b eKillIgnored oCtrl m) ∧
    (blkKill b = true → s.draining b = true → s.killReq b m = ((s.wb (hdr b oStat) 5 true).killBlk b).drainDone b)) ∧
  (∀ (b : Blk) (s : State), (∀ n, b ≠ .drv n) → s.draining b = true → s.unitBusy b = false → ∃ t, exec (.drainComplete b) s = .next t ∧ t.drained b = true ∧
    t.rb (hdr b oRaw) 30 = true ∧ RegsOnly [hdr b oStat, hdr b oRaw] s t ∧ ChangesOnly [.regs, .out, .pba] s t) ∧
  (∀ (n : Fin 4) (s : State), exec (.drainComplete (.drv n)) s = .next (((s.drvFaded n.val).drvDrained n.val).drainDone (.drv n)) ∧
    (s.port.length = 4 → (s.port' n.val).st = .disabling → ∃ t, exec (.drainComplete (.drv n)) s = .next t ∧ (t.port' n.val).st = .off ∧ t.drained (.drv n) = true))

/-- A mailbox command runs only when it is outstanding and may start, and its data, time and apply tick are checked first (derived: R20, R23, R73, R74, R75). -/
def Obligations.MailboxCommandsWaitForTheirTurn : Prop :=
  ∀ (i : Instr) (opc : Nat) (tag : Word) (s : State), mbxOf i = some (opc, tag) → (i = .graphLoad tag → s.cor.check = 0) →
    (s.startable opc tag = none → exec i s = .next s) ∧
    (∀ c, s.startable opc tag = some c →
      (c.data = none → exec i s = .next (s.reply c stDmaFault [] [])) ∧
      (c.data ≠ none → c.e.apply ≠ 0 → s.timeFor c.e.apply = false → exec i s = .next ((s.noTime .mbx c.e.apply).reply c stNoTime [] [])) ∧
      (c.data ≠ none → c.e.apply ≠ 0 → s.timeFor c.e.apply = true → notEarlier c.e.apply (c.takenAt + 2) = false → exec i s = .next (s.reply c stLate [] [])))

/-- A reply ends its command and is written to the ring, or is held until the ring has room; it is never dropped (derived: R72, R73, R74, R79). -/
def Obligations.RepliesAreWrittenOnceAndCounted : Prop :=
  ∀ (s : State) (c : Cmd) (st : Nat) (p d : Bytes), let t := s.reply c st p d
    let o : MbxOut := ⟨⟨c.e.opcode, 0, c.e.tag, d.length, st, c.e.addr, s.tick32, slice p 0 32⟩, d⟩
    (∀ x, x ∈ t.mbx.taken ↔ x ∈ s.mbx.taken ∧ x.e.tag ≠ c.e.tag) ∧ ChangesOnly [.mbx, .regs, .pba, .out] s t ∧
    RegsOnly [R.mbx_M2H_TAIL, hdr .mbx oRaw] s t ∧
    (s.m2hRoom = true → s.mbx.held = [] → t.mbx.m2h = o :: s.mbx.m2h ∧ t.mbx.held = [] ∧ t.rn R.mbx_M2H_TAIL = (s.rn R.mbx_M2H_TAIL + 1) % 65536 ∧ t.rb (hdr .mbx oRaw) 0 = true) ∧
    (s.m2hRoom = false → t.mbx.held = s.mbx.held ++ [o] ∧ t.mbx.m2h = s.mbx.m2h ∧ t.regs = s.regs)

/-- The doorbell, the taking of commands, NOP and INFO, and the events after a reset and after a loss (derived: R72, R74, R76, R77, R78, R79). -/
def Obligations.MailboxTakesCommands : Prop :=
  (∀ (m : Master) (v : Word) (s : State), PageOpen s .mbx m → let n := s.rf R.mbx_H2M_CFG 0 4
    let d := (fld v 0 16 + 65536 - s.rf R.mbx_H2M_HEAD 0 16) % 65536
    (4 ≤ n → n ≤ 10 → d ≤ 2 ^ n → (∃ t, exec (.mbxDoorbell m v) s = .next t ∧ t = (s.wr R.mbx_H2M_TAIL (v &&& 0xFFFF)).answer .done ∧ t.rf R.mbx_H2M_TAIL 0 16 = fld v 0 16 ∧ t.resp = .done)) ∧
    (4 ≤ n → n ≤ 10 → 2 ^ n < d → exec (.mbxDoorbell m v) s = .next ((s.err .mbx eBadValue 0x4C m).answer .done))) ∧
  (∀ (raw : Bytes) (data : Option Bytes) (s : State), s.takes .mbx = true → s.host.present = true → s.rf R.mbx_H2M_HEAD 0 16 ≠ s.rf R.mbx_H2M_TAIL 0 16 →
    s.mbx.taken.length + s.mbx.held.length < 64 → s.m2hRoom = true → let e := entryOf raw
    let c : Cmd := ⟨e, data, s.tick32, false⟩
    let n := (s.rf R.mbx_H2M_HEAD 0 16 + 1) % 65536
    let u : State := { (s.fetchEntry e).wr R.mbx_H2M_HEAD (w32 n) with mbx := { s.mbx with taken := s.mbx.taken ++ [c] } }
    (e.opcode ∈ mbxOpcodes → e.length ≤ 1048576 → ∃ t, exec (.mbxCommandTake raw data) s = .next t ∧ t = u ∧ t.mbx.taken = s.mbx.taken ++ [c] ∧ t.rn R.mbx_H2M_HEAD = n) ∧
    (e.opcode ∉ mbxOpcodes → ∃ t, exec (.mbxCommandTake raw data) s = .next t ∧ t = u.reply c stBadOpcode [] [] ∧ Ended c t ∧ t.rn R.mbx_H2M_HEAD = n) ∧
    (e.opcode ∈ mbxOpcodes → 1048576 < e.length → ∃ t, exec (.mbxCommandTake raw data) s = .next t ∧ t = u.reply c stBadLength [] [] ∧ Ended c t ∧ t.rn R.mbx_H2M_HEAD = n)) ∧
  (∀ (raw : Bytes) (data : Option Bytes) (s : State), s.mayTake = false → exec (.mbxCommandTake raw data) s = .next s) ∧
  (∀ (tag : Word) (k : Cmd) (s : State), Ready s 0x0000 tag k → (∃ t, exec (.nop tag) s = .next t ∧ t = s.reply k stOk k.e.param [] ∧ Ended k t)) ∧
  (∀ (tag : Word) (k : Cmd) (s : State), Ready s 0x0001 tag k → (∃ t, exec (.info tag) s = .next t ∧ t = s.reply k stOk
    (toLe 4 ((if s.modId.variantB then 0xB else 0xA) + 0xA100 + s.modId.boardRev.toNat * 2 ^ 16) ++ toLe 8 s.modId.ident.toNat ++
      toLe 4 (s.upd.runVer.getD 0).toNat ++ toLe 4 (s.rn R.rst_ROLE) ++ toLe 2 s.net.seg) [] ∧ Ended k t)) ∧
  (∀ s : State, s.mbx.resetDue = true → s.host.present = true → s.m2hRoom = true → s.mbx.seenDue = false → (∃ t, exec .mbxReset s = .next t ∧ t = ({ s with mbx := { s.mbx with resetDue := false, seenDue := false } } : State).event 0xF000 0x1E0 (toLe 4 (s.rn R.mbx_MBX_EPOCH) ++ toLe 2 (s.rn R.mbx_H2M_HEAD)) ∧ t.mbx.resetDue = false ∧ (s.mbx.held = [] → t.mbx.m2h.head?.map (fun o => (o.e.opcode, o.e.flags)) = some (0xF000, 2)))) ∧
  (∀ s : State, s.mbx.evtLost ≠ 0 → s.host.present = true → s.m2hRoom = true → s.mbx.held = [] → (∃ t, exec .eventsLost s = .next t ∧ t = ({ s with mbx := { s.mbx with evtLost := 0 } } : State).event 0xF001 0x1E0 (toLe 1 s.mbx.evtLost) ∧ t.mbx.evtLost = 0 ∧ t.mbx.m2h.head?.map (fun o => (o.e.opcode, o.e.flags)) = some (0xF001, 2)))

/-- The host is present while all its conditions hold; its loss and PERST# cancel what it had outstanding (derived: R60, R78, R80, R105). -/
def Obligations.HostPresenceFollowsItsConditions : Prop :=
  (∀ (l b : Bool) (s : State), let u : State := { s with host := { s.host with linkUp := l, bme := b } }
    (s.host.present = true → u.hostCond = false → ∃ t, exec (.hostLost l b) s = .next t ∧ t.host.present = false ∧ t.mbx.taken = [] ∧ t.mbx.held = [] ∧ t.mbx.resetDue = true ∧
      t.rd R.mbx_H2M_HEAD = s.rd R.mbx_H2M_TAIL ∧ t.rn R.mbx_MBX_EPOCH = (s.rn R.mbx_MBX_EPOCH + 1) % 2 ^ 32 ∧ ChangesOnly (touches (.hostLost l b)) s t) ∧
    (s.host.present = u.hostCond → exec (.hostLost l b) s = .next u ∧ exec (.hostSeen l b) s = .next u) ∧ exec (.hostLost l b) s = exec (.hostSeen l b) s ∧
    (s.host.present = false → u.hostCond = true → s.mbx.resetDue = false → ∃ t, exec (.hostSeen l b) s = .next t ∧
      t = ({ u with host := { u.host with present := true } } : State).event 0xF002 0x1E0 [] ∧ t.host.present = true ∧
      (s.m2hRoom = true → s.mbx.held = [] → t.mbx.m2h.head?.map (fun o => (o.e.opcode, o.e.flags)) = some (0xF002, 2))) ∧
    (s.host.present = false → u.hostCond = true → s.mbx.resetDue = true → ∃ t, exec (.hostSeen l b) s = .next t ∧
      t = { u with host := { u.host with present := true }, mbx := { u.mbx with seenDue := true } } ∧ t.host.present = true ∧ t.mbx.seenDue = true)) ∧
  (∀ (m : Master) (v : Word) (s : State), PageOpen s .sys m → ∃ t, exec (.hostBeat m v) s = .next t ∧ t.resp = .done ∧ t.host.missed = 0 ∧ t.host.beaten = true ∧
    (s.host.present = true → t.host.present = t.hostCond) ∧ ChangesOnly (touches (.hostBeat m v)) s t) ∧
  (∀ s : State, ∃ t, exec .perst s = .next t ∧ t.host.present = false ∧ t.host.linkUp = false ∧ t.host.bme = false ∧ t.host.aptBase = 0 ∧ t.host.aptNext = none ∧
    (∀ a ∈ perstRegs, t.rd a = 0) ∧ t.mbx.taken = [] ∧ t.mbx.held = [] ∧ t.mbx.resetDue = true ∧ t.rn R.mbx_MBX_EPOCH = (s.rn R.mbx_MBX_EPOCH + 1) % 2 ^ 32 ∧
    ChangesOnly (touches .perst) s t)

/-- A commit of a legal base waits for the switch, accesses after it are held, and the switch serves them at the new base (derived: R61, R62, R132). -/
def Obligations.ApertureMovesBetweenAccesses : Prop :=
  (∀ (m : Master) (v : Word) (s : State), PageOpen s .sys m → tst v 0 = true → s.host.aptNext = none →
    (s.aptStaged + 0x10000000 ≤ 0x1C0000000 → (∃ t, exec (.aptCommit m v) s = .next t ∧ t = ({ s with host := { s.host with aptNext := some s.aptStaged } } : State).answer .done ∧ t.host.aptNext = some s.aptStaged ∧ t.resp = .done)) ∧
    (0x1C0000000 < s.aptStaged + 0x10000000 → exec (.aptCommit m v) s = .next (((s.wb R.sys_APT_STAT 1 true).err .sys eBadValue 0x58 m).answer .done))) ∧
  (∀ (m : Master) (v : Word) (s : State) (b : Nat), PageOpen s .sys m → tst v 0 = true → s.host.aptNext = some b → exec (.aptCommit m v) s = .next ((s.err .sys eBusy 0x58 m).answer .done)) ∧
  (∀ s : State, s.aptStaged % 2 ^ 20 = 0) ∧
  (∀ (a : Bar2Access) (s : State), s.host.aptNext.isSome = true →
    (∃ t, exec (.bar2Access a) s = .next t ∧ t = ({ s with host := { s.host with aptHeld := s.host.aptHeld ++ [a] } } : State).answer .stalled ∧ t.resp = .stalled ∧ t.host.aptHeld = s.host.aptHeld ++ [a])) ∧
  (∀ (a : Bar2Access) (s : State), s.host.aptNext = none → exec (.bar2Access a) s = .next (((s.bar2Serve a).1.answer (s.bar2Serve a).2).critReset)) ∧
  (∀ (off n : Nat) (s : State), s.host.aptNext = none → s.inReset .mem = false → s.mem.crit = none → s.mem.flips = [] → s.mem.poison = [] →
    s.bar2Closed 1 s.keyClosed (s.host.aptBase + off) n = false → ∃ t, exec (.bar2Access (.read off n [])) s = .next t ∧
      t.resp = .bytes (memRead s.mem.dram (s.host.aptBase + off) n) ∧ ChangesOnly [.resp] s t) ∧
  (∀ (off n : Nat) (s : State), s.host.aptNext = none → s.inReset .mem = false → s.mem.crit = none → s.bar2Closed 1 s.keyClosed (s.host.aptBase + off) n = true →
    ∃ t, exec (.bar2Access (.read off n [])) s = .next t ∧ t.resp = .abort ∧ t.mem = s.mem) ∧
  (∀ (b : Nat) (s : State), s.host.aptNext = some b → (∃ t, exec .apertureSwitch s = .next t ∧ t = (bar2Held s.host.aptHeld { s with host := { s.host with aptBase := b, aptNext := none, aptHeld := [] } }).critReset ∧ (s.host.aptHeld = [] → s.mem.crit = none → t.host.aptBase = b ∧ t.host.aptNext = none))) ∧
  (∀ s : State, s.host.aptNext = none → exec .apertureSwitch s = .next s)

/-- A submitted ware is refused whole, parked, matched, left waiting on its counter, or made ready (derived: R85, R86, R88, R92, R93, R94, R95, R96, R97, R99, R111). -/
def Obligations.WaresAreSubmittedAndMatched : Prop :=
  (∀ (m : Master) (v : Word) (win : Nat) (s : State), PageOpen s .mkt m → submitWin m = some win →
    let u : State := { s with mkt := { s.mkt with stage := Sparse.put s.mkt.stage (8 * win + 7) v } }
    let w := u.staged win
    (s.en .mkt = false → exec (.wareSubmit m v) s = .next ((u.err .mkt eBusy (submitOff m) m).answer .done)) ∧
    (s.en .mkt = true → u.badWare w = true → exec (.wareSubmit m v) s = .next ((u.err .mkt 0x81 (submitOff m) m).answer .done)) ∧
    (s.en .mkt = true → u.badWare w = false → 8192 ≤ heldCount u.mkt → exec (.wareSubmit m v) s = .next ((u.err .mkt 0x80 (submitOff m) m).answer .done)) ∧
    (s.en .mkt = true → u.badWare w = false → heldCount u.mkt < 8192 → (∃ t, exec (.wareSubmit m v) s = .next t ∧ t = (u.arrive w).answer .done ∧ t.resp = .done ∧
      (s.clsMatch w.clsN = false → w.b12 % 1024 = 0 → t.mkt.ready = s.mkt.ready ++ readyNow s.mkt.cycle s.mkt.readied [w])))) ∧
  (∀ (a : Ware) (s : State), s.clsMatch a.clsN = false →
    (a.b12 % 1024 = 0 ∨ s.ctr (a.b12 % 1024) = 0 → (s.arrive a).mkt.ready = s.mkt.ready ++ readyNow s.mkt.cycle s.mkt.readied [a] ∧ (s.arrive a).mkt.waiting = s.mkt.waiting) ∧
    (a.b12 % 1024 ≠ 0 → s.ctr (a.b12 % 1024) ≠ 0 → (s.arrive a).mkt.waiting = s.mkt.waiting ++ [a] ∧ (s.arrive a).mkt.ready = s.mkt.ready)) ∧
  (∀ (a : Ware) (s : State), s.clsMatch a.clsN = true →
    (∀ p, s.mkt.parked.find? (fun p => p.1.key = a.key) = some p → p.1.side ≠ a.side →
      (s.arrive a).mkt.ready = s.mkt.ready ++ readyNow s.mkt.cycle s.mkt.readied [if a.side then pairOf p.1 a else pairOf a p.1] ∧
      (s.arrive a).mkt.parked = s.mkt.parked.filter (fun x => x.1.key ≠ a.key)) ∧
    (s.mkt.parked.find? (fun p => p.1.key = a.key) = none → s.mkt.parked.length < 2048 → (s.arrive a).mkt.parked = s.mkt.parked ++ [(a, s.tick32)] ∧ (s.arrive a).mkt.ready = s.mkt.ready)) ∧
  (∀ (m : Master) (v : Word) (s : State), PageOpen s .mkt m → let n := s.rf R.mkt_CTR_SEL 0 10
    ∃ t, exec (.counterWrite m v) s = .next t ∧ t.resp = .done ∧ t.ctr n = (if n = 0 then 0 else fld v 0 16) ∧ ChangesOnly [.mkt, .resp] s t ∧
      (n ≠ 0 → fld v 0 16 = 0 → t.mkt.ready = s.mkt.ready ++ readyNow s.mkt.cycle s.mkt.readied (s.mkt.waiting.filter fun w => w.b12 % 1024 = n) ∧
        t.mkt.waiting = s.mkt.waiting.filter fun w => w.b12 % 1024 ≠ n)) ∧
  (∀ (m : Master) (v : Word) (s : State), PageOpen s .mkt m → let n := s.rf R.mkt_CTR_SEL 0 10
    ∃ t, exec (.counterAdd m v) s = .next t ∧ t.resp = .done ∧ ChangesOnly [.mkt, .resp] s t ∧
      (n ≠ 0 → (t.ctr n : Int) = clampI 0 0xFFFF ((s.ctr n : Int) + sgn 16 (fld v 0 16)))) ∧
  (∀ (key : Word) (s : State), s.inReset .mkt = false → let old := fun (p : Ware × Word) => decide (p.1.key = key) && s.parkOld s.tick32 p
    ∃ t, exec (.matchTimeout key) s = .next t ∧ t = s.matchTimeouts old ∧ (s.mkt.hwHeld = [] → t.mkt.parked = s.mkt.parked.filter fun p => !old p)) ∧
  (∀ (m : Master) (n : Fin 8) (v : Word) (s : State), PageOpen s .mkt m → s.locked .mkt = false → fld v 3 2 ≠ 3 →
    ((∀ w ∈ allWares s.mkt, w.clsN ≠ n.val) → (∃ t, exec (.classCfgWrite m n v) s = .next t ∧ t = (s.wr (R.mkt_CLASS_CFG0 n.val) (v &&& 0xFF1F)).answer .done ∧ t.rd (R.mkt_CLASS_CFG0 n.val) = v &&& 0xFF1F ∧ t.resp = .done)) ∧
    ((∃ w ∈ allWares s.mkt, w.clsN = n.val) → exec (.classCfgWrite m n v) s = .next ((s.err .mkt eBusy (0x80 + 4 * n.val) m).answer .done))) ∧
  (∀ (m : Master) (v : Word) (s : State), PageOpen s .mkt m → s.locked .mkt = false → let d := s.rf R.mkt_DOM_SEL 0 12
    (domHeld s.mkt d = 0 → (∃ t, exec (.domCfgWrite m v) s = .next t ∧ t = ({ s with mkt := { s.mkt with doms := Sparse.set (fun _ => 1) s.mkt.doms d (merge 0xF (s.domCfg d) v) } } : State).answer .done ∧ t.domCfg d = merge 0xF (s.domCfg d) v ∧ t.resp = .done)) ∧
    (domHeld s.mkt d ≠ 0 → exec (.domCfgWrite m v) s = .next ((s.err .mkt 0x84 0xA4 m).answer .done)))

/-- The Market chooses the ware of the highest class priority, and among equals the one that became ready first (derived: R100). -/
def Obligations.TheEarliestOfTheHighestIsChosen : Prop :=
  (∀ (prio : Ware → Nat) (l : List RWare), bestWare prio l = none ↔ l = []) ∧
  (∀ (prio : Ware → Nat) (l : List RWare) (r : RWare), bestWare prio l = some r → ∃ a b, l = a ++ r :: b ∧ (∀ x ∈ a, prio x.w < prio r.w) ∧ ∀ x ∈ b, prio x.w ≤ prio r.w)

/-- A lane's free slot or a waiting reader gets the chosen candidate; windows, take ports and RETIRE words follow (derived: R84, R87, R89, R90, R98, R100, R102, R103, R106). -/
def Obligations.WaresAreDispatchedTakenAndRetired : Prop :=
  (∀ (n : Fin 4) (us cy : Nat) (r : RWare) (s : State), s.inReset .mkt = false → s.takes .mkt = true → s.takes (.lane n) = true → s.host.bar0Held = [] → let u : State := { s with mkt := { s.mkt with cycle := s.mkt.cycle + cy } }
    (u.laneSt n.val).slots.length < 2 → (u.laneSt n.val).stalled = false →
    bestWare u.prio (u.mkt.ready.filter fun x => u.candidate us x && u.laneServes n.val x.w && u.laneMay n.val x) = some r → ∃ t, exec (.wareDispatch (.lane n) us cy) s = .next t ∧
      t.mkt.ready = s.mkt.ready.erase r ∧ (n.val < s.mkt.lanes.length → (t.laneSt n.val).slots = (s.laneSt n.val).slots ++ [{ r with overran := false }]) ∧
      (tst (s.domCfg r.w.dom) 0 = true → domBusy s.mkt r.w.dom = false) ∧ fld (t.domCfg r.w.dom) 4 2 = n.val ∧ ChangesOnly [.mkt] s t) ∧
  (∀ (n : Fin 4) (us cy : Nat) (s : State), s.inReset .mkt = false → s.host.bar0Held = [] → (∀ r ∈ s.mkt.ready, s.laneServes n.val r.w = false) →
    exec (.wareDispatch (.lane n) us cy) s = .next { s with mkt := { s.mkt with cycle := s.mkt.cycle + cy } }) ∧
  (∀ (n : Fin 4) (s : State), PageOpen s .mkt (.lane n) → s.inReset (.lane n) = false →
    (∀ r, (s.laneSt n.val).running = some r → (∃ t, exec (.wareWindowRead n) s = .next t ∧ t = s.answer (.bytes (wareBytes r.w)) ∧ t.resp = .bytes (wareBytes r.w))) ∧
    (∀ r l, (s.laneSt n.val).running = none → (s.laneSt n.val).slots = r :: l → s.takes .mkt = true → s.takes (.lane n) = true →
      ∃ t, exec (.wareWindowRead n) s = .next t ∧ t.resp = .bytes (wareBytes r.w)) ∧
    ((s.laneSt n.val).running = none → (s.laneSt n.val).slots = [] →
      (∃ t, exec (.wareWindowRead n) s = .next t ∧ t = (s.setLane n.val { s.laneSt n.val with stalled := true }).answer .stalled ∧ t.resp = .stalled ∧ (n.val < s.mkt.lanes.length → (t.laneSt n.val).stalled = true)))) ∧
  (∀ (n : Fin 4) (v : Word) (s : State), PageOpen s .mkt (.lane n) → s.inReset (.lane n) = false →
    (∀ r, (s.laneSt n.val).running = some r → ∃ t, exec (.wareRetire (.lane n) v) s = .next t ∧ t.resp = .done ∧
      t.rn (R.lane_WARES_DONE n.val) = (s.rn (R.lane_WARES_DONE n.val) + 1) % 2 ^ 32 ∧ ChangesOnly (touches (.wareRetire (.lane n) v)) s t) ∧
    ((s.laneSt n.val).running = none → exec (.wareRetire (.lane n) v) s = .next (s.answer .done))) ∧
  (∀ (p : Fin 2) (m : Master) (v : Word) (s : State), PageOpen s .mkt m → (s.portBufs p.val).getD (fld v 0 3) none = none →
    exec (.wareRetire (.port p m) v) s = .next ((s.err .mkt 0x82 (0x88 + 0x10 * p.val) m).answer .done)) ∧
  (∀ (p : Fin 2) (m : Master) (v : Word) (r : RWare) (s : State), PageOpen s .mkt m → (s.portBufs p.val).getD (fld v 0 3) none = some r →
    ∃ t, exec (.wareRetire (.port p m) v) s = .next t ∧ t.resp = .done ∧ (t.portBufs p.val).getD (fld v 0 3) none = none) ∧
  (∀ (q : Nat) (d : DWord) (s : State), s.mkt.comps = [(q, d)] → s.qroom q = true → s.rb (R.que_QCFGq q) 1 = false → q < s.que.q.length →
    ∃ t, exec .completionWrite s = .next t ∧ t.mkt.comps = [] ∧ (t.queue q).ents = (s.queue q).ents ++ [⟨d, false⟩]) ∧
  (∀ s : State, exec .completionWrite s = .next (compFlush s.mkt.comps [] { s with mkt := { s.mkt with comps := [] } })) ∧
  (∀ (p : Fin 2) (m : Master) (us : Nat) (s : State), PageOpen s .mkt m → let r := s.takeTry p.val us
    (∀ w, r.2 = some w → (∃ t, exec (.takeRead p m us) s = .next t ∧ t = r.1.answer (.data w) ∧ t.resp = .data w) ∧ (∃ t, exec (.takePoll p m us) s = .next t ∧ t = r.1.answer (.data w) ∧ t.resp = .data w)) ∧
    (r.2 = none → (∃ t, exec (.takePoll p m us) s = .next t ∧ t = r.1.answer (.data (reasonWord 0x01)) ∧ t.resp = .data (reasonWord 0x01)) ∧
      (∃ t, exec (.takeRead p m us) s = .next t ∧ t = ({ r.1 with mkt := { r.1.mkt with takers := r.1.mkt.takers ++ [(p.val, m)] } } : State).answer .stalled ∧ t.resp = .stalled ∧ t.mkt.takers = r.1.mkt.takers ++ [(p.val, m)])) ∧
    (s.takes .mkt = false → r = (s, some (reasonWord 0x02))) ∧ (s.takes .mkt = true → s.portHasClass p.val = false → r = (s, some (reasonWord 0x04)))) ∧
  (∀ (p : Fin 2) (x : Nat × Master) (s : State), s.mkt.takers.find? (fun t => t.1 = p.val) = some x →
    ∃ t, exec (.takeTimeout p) s = .next t ∧ t = (({ s with mkt := { s.mkt with takers := s.mkt.takers.erase x } } : State).emit (.readDone x.2 (reasonWord 0x01))).hostFlush ∧
      (s.host.bar0Held = [] → t.mkt.takers = s.mkt.takers.erase x ∧ ChangesOnly [.mkt, .out] s t)) ∧
  (∀ (p : Fin 2) (s : State), s.mkt.takers.find? (fun t => t.1 = p.val) = none → s.host.bar0Held = [] → exec (.takeTimeout p) s = .next s) ∧
  (∀ (i : Instr) (b : Blk) (off : Nat) (s : State), pageOf i = some (b, off, .host) → s.hostBlocked = true → ∃ t, exec i s = .next t ∧ t.resp = .stalled ∧
    t.host.bar0Held.length = s.host.bar0Held.length + 1 ∧ ChangesOnly [.host, .resp] s t)

/-- A queue takes entries in order while it has room, and gives the oldest back (derived: R112, R114, R115, R116, R117, R118, R120, R121). -/
def Obligations.QueuesPushPopAndFlush : Prop :=
  (∀ (m : Master) (q : Fin 16) (v : Word) (s : State), PageOpen s .que m → let off := 0x44 + 8 * q.val
    let lo := (Sparse.find s.que.pushLo (16 * masterIx m + q.val)).getD 0
    (tst v 31 = false → exec (.queuePush m q v) s = .next (((s.qdrop q.val).err .que 0x81 off m).answer .done)) ∧
    (tst v 31 = true → s.qen q.val = false ∨ s.queTakes = false → exec (.queuePush m q v) s = .next ((s.qrefuse q.val 0x82 off m).answer .done)) ∧
    (tst v 31 = true → s.qen q.val = true → s.queTakes = true → s.rb (R.que_QCFGq q.val) 1 = false →
      (s.qsize q.val ≤ (s.queue q.val).ents.length → exec (.queuePush m q v) s = .next ((s.qrefuse q.val 0x80 off m).answer .done)) ∧
      ((s.queue q.val).ents.length < s.qsize q.val → q.val < s.que.q.length → ∃ t, exec (.queuePush m q v) s = .next t ∧ t.resp = .done ∧
        (t.queue q.val).ents = (s.queue q.val).ents ++ [⟨BitVec.ofNat 64 (v.toNat * 2 ^ 32 + lo.toNat), false⟩] ∧
        (∀ p, p ≠ q.val → t.queue p = s.queue p) ∧ RegsOnly [hdr .que oRaw] s t ∧ ChangesOnly [.regs, .que, .resp, .pba, .out] s t))) ∧
  (∀ (q : Fin 16) (s : State), s.qmeet q.val none = s ∧ (∀ b : Fin 36, s.qmeet q.val (some (.one b)) = s) ∧
    (∀ e l, (s.queue q.val).ents = e :: l → q.val < s.que.q.length → ((s.qmeet q.val (some .two)).queue q.val).ents = { e with poison := true } :: l)) ∧
  (∀ (m : Master) (q : Fin 16) (err : Option CwErr) (s : State), PageOpen s .que m → s.qen q.val = true → s.rb (R.que_QCFGq q.val) 1 = false → q.val < s.que.q.length →
    let u := s.qmeet q.val err
    (∀ (e : QEnt) (r : List QEnt), (u.queue q.val).ents = e :: r → ∃ t, exec (.queuePop m ⟨q, err⟩) s = .next t ∧ (t.queue q.val).ents = r ∧
      t.resp = .data (if e.poison then w32 (5 * 2 ^ 24) else w32 (e.v.toNat / 2 ^ 32)) ∧
      (Sparse.find t.que.popLo (16 * masterIx m + q.val)).getD 0 = (if e.poison then 0 else w32 e.v.toNat) ∧
      (e.poison = false → t.rd (R.que_QPOPSq q.val) = s.rd (R.que_QPOPSq q.val) + 1) ∧ ChangesOnly [.regs, .que, .resp, .pba, .out, .free] s t) ∧
    ((u.queue q.val).ents = [] → s.queTakes = true → ∃ t, exec (.queuePop m ⟨q, err⟩) s = .next t ∧ t.resp = .data (w32 (1 * 2 ^ 24)) ∧ t.que.q = s.que.q ∧
      ChangesOnly [.que, .resp] s t)) ∧
  (∀ (m : Master) (q : Fin 16) (err : Option CwErr) (s : State), PageOpen s .que m → let u := s.qmeet q.val err
    (∃ t, exec (.queuePeek m ⟨q, err⟩) s = .next t ∧ t = u.answer (.data (u.qpeekHi q.val)) ∧ ChangesOnly [.que, .resp, .free] s t) ∧
    (∀ (e : QEnt) (l : List QEnt), (u.queue q.val).ents = e :: l → e.poison = false → s.qen q.val = true → s.rb (R.que_QCFGq q.val) 1 = false →
      ∃ t, exec (.queuePeek m ⟨q, err⟩) s = .next t ∧ t.resp = .data (w32 (e.v.toNat / 2 ^ 32)) ∧ (t.queue q.val).ents = e :: l)) ∧
  (∀ (m : Master) (q : Fin 16) (s : State), PageOpen s .que m → ∃ t, exec (.queueFlush m q) s = .next t ∧ (t.queue q.val).ents = [] ∧
    (∀ p, p ≠ q.val → t.queue p = s.queue p) ∧ ChangesOnly [.que, .resp] s t) ∧
  (∀ (m : Master) (q : Fin 16) (v : Word) (s : State), PageOpen s .que m →
    (s.qcfgBad q.val v = true → exec (.qcfgWrite m q v) s = .next ((s.err .que eBadValue (0x100 + 0x20 * q.val) m).answer .done)) ∧
    (s.qcfgBad q.val v = false → s.qen q.val = false → tst v 0 = true → ∃ t, exec (.qcfgWrite m q v) s = .next t ∧ t.resp = .done ∧
      t.rd (R.que_QCFGq q.val) = v &&& 0x1FFF7FF3 ∧ (t.queue q.val).ents = [] ∧ RegsOnly [R.que_QCFGq q.val] s t ∧ ChangesOnly [.regs, .que, .resp] s t)) ∧
  (∀ (q : Fin 16) (s : State), s.inReset .que = false → (s.queue q.val).hw = [] → exec (.queueHwPush q) s = .next s) ∧
  (∀ (q : Fin 16) (v : DWord) (s : State), s.inReset .que = false → (s.queue q.val).hw = [v] → s.qen q.val = true → s.queTakes = true → s.rb (R.que_QCFGq q.val) 1 = false →
    q.val < s.que.q.length → (s.queue q.val).ents.length < s.qsize q.val → ∃ t, exec (.queueHwPush q) s = .next t ∧
      (t.queue q.val).ents = (s.queue q.val).ents ++ [⟨v, false⟩] ∧ (t.queue q.val).hw = [] ∧ (∀ p, p ≠ q.val → t.queue p = s.queue p) ∧ ChangesOnly (touches (.queueHwPush q)) s t)

/-- A check unit starts, absorbs and latches with the frames of its source, and its value stands inside a frame (derived: R122, R123, R124, R125, R126). -/
def Obligations.CheckUnitsFollowTheFramesOfTheirSource : Prop :=
  (∀ (src chan : Nat) (s : State), s.takes .chk = true → (∃ t, exec (.checkFrameStart src chan) s = .next t ∧ t = (List.range 8).foldl (chkStart src chan) s ∧ (∀ u ∈ List.range 8, u < s.chk.length → s.rb (R.chk_CCFGu u) 0 = true → s.snoops u src chan = true → (s.unit u).inFrame = false →
      (t.unit u).inFrame = true ∧ t.rd (R.chk_CBYTESu u) = 0))) ∧
  (∀ (src chan : Nat) (s : State), s.takes .chk = false → exec (.checkFrameStart src chan) s = .next s) ∧
  (∀ (src chan u : Nat) (s : State), u < s.chk.length → u < 8 → s.rb (R.chk_CCFGu u) 0 = true → s.snoops u src chan = true → (s.unit u).inFrame = false →
    ((chkStart src chan s u).unit u).inFrame = true ∧ (chkStart src chan s u).rd (R.chk_CBYTESu u) = 0 ∧
    (s.rb (R.chk_CCFGu u) 1 = true → (chkStart src chan s u).rd (R.chk_CVALu u) = w32 (s.unitCrc u).init) ∧
    (∀ w, w ≠ u → (chkStart src chan s u).unit w = s.unit w) ∧ RegsOnly [R.chk_CBYTESu u, R.chk_CVALu u] s (chkStart src chan s u)) ∧
  (∀ (src chan : Nat) (d : Bytes) (s : State), s.inReset .chk = false → s.en .chk = true → s.drainBit .chk = false →
    (∃ t, exec (.checkFrameEnd src chan d) s = .next t ∧ t = (List.range 8).foldl (chkEnd src chan d) s ∧ (∀ u ∈ List.range 8, u < s.chk.length → (s.unit u).inFrame = true → s.snoops u src chan = true →
      (t.unit u).inFrame = false ∧ t.rd (R.chk_CFRAMESu u) = s.rd (R.chk_CFRAMESu u) + 1))) ∧
  (∀ (src chan : Nat) (d : Bytes) (s : State), s.inReset .chk = true → exec (.checkFrameEnd src chan d) s = .next s) ∧
  (∀ (src chan u : Nat) (d : Bytes) (s : State), u < s.chk.length → u < 8 → (s.unit u).inFrame = true → s.snoops u src chan = true → let t := chkEnd src chan d s u
    let v := crcRun (s.unitCrc u) (s.rn (R.chk_CVALu u)) d
    (t.unit u).inFrame = false ∧ t.rd (R.chk_CVALu u) = w32 v ∧ t.rd (R.chk_CBYTESu u) = w32 d.length ∧ t.rd (R.chk_CFRAMESu u) = s.rd (R.chk_CFRAMESu u) + 1 ∧
    (s.rb (R.chk_CCFGu u) 1 = true → t.rd (R.chk_CRESULTu u) = w32 (crcFinish (s.unitCrc u) v) ∧ t.rb (hdr .chk oRaw) u = true) ∧
    (s.rb (R.chk_CCFGu u) 1 = false → t.rd (R.chk_CRESULTu u) = s.rd (R.chk_CRESULTu u)) ∧ ChangesOnly [.regs, .chk, .pba, .out] s t) ∧
  (∀ (m : Master) (u : Fin 8) (v : Word) (s : State), PageOpen s .chk m →
    ((s.unit u.val).inFrame = false → (∃ t, exec (.cvalWrite m u v) s = .next t ∧ t = (s.wr (R.chk_CVALu u.val) v).answer .done ∧ t.rd (R.chk_CVALu u.val) = v ∧ t.resp = .done)) ∧
    ((s.unit u.val).inFrame = true → exec (.cvalWrite m u v) s = .next ((s.err .chk eBusy (0x110 + 0x20 * u.val) m).answer .done)))

/-- The scrubber walks DRAM with its pointer, packet SRAM errors are corrected or poisoned, and a Porter transfer copies and counts down (derived: R131, R133, R135, R95). -/
def Obligations.MemoryErrorsAndPorterTransfers : Prop :=
  (∀ (errs : List (Nat × CwErr)) (s : State), exec (.scrubBurst errs) s = .next (s.scrub errs).critReset) ∧
  (∀ s : State, s.takes .mem = true → s.inReset .mem = false → s.rb R.mem_MEM_CFG 0 = true → s.mem.crit = none → s.mem.flips = [] → let p := s.rf R.mem_SCRUB_PTR 0 29
    ∃ t, exec (.scrubBurst []) s = .next t ∧ ChangesOnly [.regs, .pba, .out] s t ∧
      (p + 1 < dramSize / 64 → t.rd R.mem_SCRUB_PTR = w32 (p + 1) ∧ t.rd R.mem_SCRUB_PASS = s.rd R.mem_SCRUB_PASS) ∧
      (dramSize / 64 ≤ p + 1 → t.rd R.mem_SCRUB_PTR = 0 ∧ t.rd R.mem_SCRUB_PASS = s.rd R.mem_SCRUB_PASS + 1 ∧ t.rb (hdr .mem oRaw) 2 = true)) ∧
  (∀ (errs : List (Nat × CwErr)) (s : State), s.inReset .mem = true ∨ s.rb R.mem_MEM_CFG 0 = false → s.scrub errs = s.dramStrike errs) ∧
  (∀ (errs : List (Nat × CwErr)) (s : State), s.inReset .mem = true → exec (.sramScrub errs) s = .next (s.sramStrike errs)) ∧
  (∀ (a : Nat) (b : Fin 36) (s : State), s.inReset .mem = false → a < 0x400000 → s.mem.sramFlips = [] → a / 16 ∉ s.mem.sramPoison →
    (∃ t, exec (.sramScrub [(a, .one b)]) s = .next t ∧ t = s.bumpSat R.mem_SRAM_CE_COUNT 1 ∧ t.rd R.mem_SRAM_CE_COUNT = satAdd (s.rd R.mem_SRAM_CE_COUNT) 1) ∧
    (∃ t, exec (.sramScrub [(a, .two)]) s = .next t ∧ t.mem.sramPoison = s.mem.sramPoison ++ [a / 16] ∧ t.mem.sram = s.mem.sram ∧ t.rb (hdr .mem oRaw) 3 = true ∧
      ChangesOnly [.regs, .mem, .pba, .out] s t)) ∧
  (∀ (a : Nat) (e : CwErr) (s : State), s.inReset .mem = false → a < 0x400000 → s.mem.sramFlips = [] → a / 16 ∈ s.mem.sramPoison → exec (.sramScrub [(a, e)]) s = .next s) ∧
  (∀ (p : Porter) (b : Bytes) (s : State), p.errs = [] → s.mem.crit = none → s.mem.flips = [] → s.locShut p.src = none → s.locShut p.dst = none → locWritable p.dst = true →
    p.len ≤ locRoom p.src → p.len ≤ (match p.dst with | .host _ _ => p.len | d => locRoom d) → s.porterRead p.src p.len = (s, b, true) → ∃ t, exec (.porterTransferDone p) s = .next t ∧
    (∀ a, p.dst = .sram a → t.mem.sram = (s.sramWrite a b).mem.sram) ∧ (∀ a, p.dst = .tcm a → t.mem.tcm = memWrite s.mem.tcm a b) ∧
    (∀ a, p.dst = .user a → t.emc.user = memWrite s.emc.user a b) ∧ (∀ a, p.dst = .dram a → t.mem.dram = (s.dramStore (.porter 0) a b).mem.dram) ∧
    t.resp = (match p.dst with | .host _ _ => .bytes b | _ => .done) ∧
    (p.ctr % 1024 ≠ 0 → s.ctr (p.ctr % 1024) ≠ 0 → t.ctr (p.ctr % 1024) = s.ctr (p.ctr % 1024) - 1) ∧ (p.ctr % 1024 = 0 → t.mkt = s.mkt) ∧
    ChangesOnly (touches (.porterTransferDone p)) s t) ∧
  (∀ (p : Porter) (a : Nat) (s : State), p.errs = [] → s.mem.crit = none → s.mem.flips = [] → s.mem.sramFlips = [] → p.src = .sram a → a + p.len ≤ 0x400000 → p.len ≤ locRoom p.dst →
    s.locShut p.dst = none → s.sramRead a p.len = none → ∃ t, exec (.porterTransferDone p) s = .next t ∧
    t.resp = .busError ∧ t.mkt = s.mkt ∧ t.mem.sram = s.mem.sram ∧ t.mem.dram = s.mem.dram ∧ ChangesOnly (touches (.porterTransferDone p)) s t)

/-- Open positions are bypassed, drop-outs counted, hot and lost sinks darken their port, and the string test measures (derived: R298, R300, R301, R302, R303). -/
def Obligations.StringFaultsAreLatchedAndEndTheirPort : Prop :=
  (∀ (n : Fin 4) (k : Fin 32) (s : State), s.inReset (.drv n) = false → s.litPos n.val k.val = true → ∃ t, exec (.openPosition n k) s = .next t ∧
    t.rb (R.drv_OPEN_MASK n.val) k.val = true ∧ t.rb (hdr (.drv n) oRaw) 0 = true ∧ ChangesOnly (touches (.openPosition n k)) s t) ∧
  (∀ (n : Fin 4) (k : Fin 32) (s : State), s.inReset (.drv n) = true ∨ s.litPos n.val k.val = false → exec (.openPosition n k) s = .next s) ∧
  (∀ (n : Fin 4) (s : State), s.inReset (.drv n) = false → (s.port' n.val).st.lit = true → ∃ t, exec (.dropout n) s = .next t ∧
    t.rd (R.drv_DROPOUT_CNT n.val) = satAdd (s.rd (R.drv_DROPOUT_CNT n.val)) 1 ∧ t.rb (hdr (.drv n) oRaw) 3 = true ∧ ChangesOnly (touches (.dropout n)) s t) ∧
  (∀ (n : Fin 4) (s : State), s.inReset (.drv n) = true ∨ (s.port' n.val).st.lit = false → exec (.dropout n) s = .next s) ∧
  (∀ (n : Fin 4) (s : State), s.inReset (.drv n) = false → n.val < s.port.length → (s.port' n.val).st ≠ .fault →
    (∃ t, exec (.sinkHot n) s = .next t ∧ (t.port' n.val).st = .fault ∧ (t.port' n.val).st.lit = false ∧ t.rb (hdr (.drv n) oRaw) 5 = true ∧
      (∀ k, k ≠ n.val → t.port' k = s.port' k) ∧ ChangesOnly (touches (.sinkHot n)) s t) ∧
    (∃ t, exec (.drvLinkLost n) s = .next t ∧ (t.port' n.val).st = .fault ∧ (t.port' n.val).link = false ∧ t.rb (hdr (.drv n) oRaw) 6 = true ∧
      (∀ k, k ≠ n.val → t.port' k = s.port' k) ∧ ChangesOnly (touches (.drvLinkLost n)) s t)) ∧
  (∀ (n : Fin 4) (s : State), s.inReset (.drv n) = true ∨ (s.port' n.val).st = .fault → exec (.sinkHot n) s = .next s ∧
    exec (.drvLinkLost n) s = .next (s.modPort n.val fun x => { x with link := false })) ∧
  (∀ (n : Fin 4) (vs : List Nat) (s : State), s.testSf s.sf = false ∨ s.tick % 256 ≠ s.rf R.drg_TEST_CFG 16 8 ∨ (s.port' n.val).cut = some s.sf → exec (.stringTest n vs) s = .next s) ∧
  (∀ (n : Fin 4) (vs : List Nat) (s : State), s.inReset (.drv n) = false → s.inReset .drg = false → s.onNet = true → s.testSf s.sf = true → s.tick % 256 = s.rf R.drg_TEST_CFG 16 8 →
    (s.port' n.val).cut ≠ some s.sf → s.testable n.val = true → ∃ t, exec (.stringTest n vs) s = .next t ∧ t.rb (hdr (.drv n) oRaw) 7 = true ∧ t.rf (R.drv_TEST_CNT n.val) 0 16 = min 65535 (s.rf (R.drv_TEST_CNT n.val) 0 16 + 1) ∧
      ChangesOnly (touches (.stringTest n vs)) s t)

/-- The shadow bank is written while no swap is armed, a swap is armed, withdrawn and met at its edge (derived: R293, R294, R303, R304, R307). -/
def Obligations.BanksAreWrittenArmedAndSwapped : Prop :=
  (∀ (m : Master) (n : Fin 4) (i : Fin 16) (v : Word) (s : State), PageOpen s .drg m →
    (s.drg.armed = none → s.drg.active < 2 → ∃ t, exec (.shadowWrite m n i v) s = .next t ∧ t.resp = .done ∧ (∀ k, t.bankOf k = s.bankOf k) ∧
      (∀ k, k ≠ n.val → t.shadowOf k = s.shadowOf k) ∧ ChangesOnly [.drg, .resp] s t) ∧
    (s.drg.armed.isSome = true → exec (.shadowWrite m n i v) s = .next ((s.err .drg 0x80 (0x100 + 64 * n.val + 4 * i.val) m).answer .done))) ∧
  (∀ (m : Master) (c : DWord) (s : State), PageOpen s .drg m →
    (s.drg.armed.isSome = true → exec (.swapArm m c) s = .next (((s.at c).err .drg 0x80 0x4C m).answer .done)) ∧
    (s.drg.armed = none → s.rf R.drg_SWAP_CFG 0 2 = 3 → exec (.swapArm m c) s = .next (((s.at c).err .drg eBadValue 0x4C m).answer .done)) ∧
    (s.drg.armed = none → s.rf R.drg_SWAP_CFG 0 2 = 0 ∨ s.rf R.drg_SWAP_CFG 0 2 = 2 → ∃ t, exec (.swapArm m c) s = .next t ∧ t.resp = .done ∧
      t.drg.armed.map (fun a => (a.src, a.cnt)) = some (s.rf R.drg_SWAP_CFG 0 2, c) ∧ t.drg.banks = s.drg.banks ∧ ChangesOnly [.drg, .cnt, .resp] s t)) ∧
  (∀ (m : Master) (s : State), PageOpen s .drg m → ∃ t, exec (.swapDisarm m) s = .next t ∧ t.resp = .done ∧ t.drg.armed = none ∧ t.drg.banks = s.drg.banks ∧
    ChangesOnly (touches (.swapDisarm m)) s t) ∧
  (∀ (b : Bool) (c : DWord) (s : State), s.inReset .drg = false → b = s.rb R.drg_SWAP_CFG 2 →
    (∃ t, exec (.fsyncEdge b c) s = .next t ∧ t = ((s.at c).bumpSat R.drg_FSYNC_CNT 1).wr64 R.drg_LAST_FSYNC_LO R.drg_LAST_FSYNC_HI (s.ntNs c) ∧ t.rd R.drg_FSYNC_CNT = satAdd (s.rd R.drg_FSYNC_CNT) 1 ∧ t.rd64 R.drg_LAST_FSYNC_LO R.drg_LAST_FSYNC_HI = s.ntNs c % 2 ^ 64)) ∧
  (∀ (b : Bool) (c : DWord) (s : State), s.inReset .drg = false → b ≠ s.rb R.drg_SWAP_CFG 2 → s.drg.armed = none → ∃ t, exec (.fsyncEdge b c) s = .next t ∧
    t.rd R.drg_FSYNC_EARLY = satAdd (s.rd R.drg_FSYNC_EARLY) 1 ∧ t.drg = s.drg ∧ t.rb (hdr .drg oRaw) 1 = true ∧ ChangesOnly [.regs, .cnt, .pba, .out] s t) ∧
  (∀ (m : Master) (n : Fin 4) (s : State), PageOpen s (.drv n) m → (∃ t, exec (.drvTake m n) s = .next t ∧ t = (s.modPort n.val fun x => { x with take := if m = .host then 2 else 1 }).answer .done ∧ (n.val < s.port.length → (t.port' n.val).take = if m = .host then 2 else 1))) ∧
  (∀ (m : Master) (n : Fin 4) (s : State), PageOpen s (.drv n) m → ((s.port' n.val).st ≠ .fault → exec (.drvClrFault m n) s = .next (s.answer .done)) ∧
    ((s.port' n.val).st = .fault → ∃ t, exec (.drvClrFault m n) s = .next t ∧ t = (s.modPort n.val fun x => { x with link := true, st := .off, start := 2 }).answer .done ∧
      (n.val < s.port.length → (t.port' n.val).st = .off ∧ (t.port' n.val).start = 2))) ∧
  (∀ (tag : Word) (c : DWord) (k : Cmd) (s : State), Ready s 0x0600 tag k →
    (k.e.length ≠ 256 → (∃ t, exec (.bankLoad tag c) s = .next t ∧ t = s.reply k stBadLength [] [] ∧ Ended k t)) ∧
    (k.e.length = 256 → 2 < k.par 0 1 → (∃ t, exec (.bankLoad tag c) s = .next t ∧ t = s.reply k stBadParam [] [] ∧ Ended k t)) ∧
    (k.e.length = 256 → k.par 0 1 ≤ 2 → s.takes .drg = false → (∃ t, exec (.bankLoad tag c) s = .next t ∧ t = s.reply k stBusy [] [] ∧ Ended k t)) ∧
    (k.e.length = 256 → k.par 0 1 ≤ 2 → s.takes .drg = true → s.drg.armed.isSome = true → (∃ t, exec (.bankLoad tag c) s = .next t ∧ t = s.reply k stFault (toLe 1 0x80) [] ∧ Ended k t)) ∧
    (k.e.length = 256 → k.par 0 1 = 2 → s.takes .drg = true → s.drg.armed = none → ∃ t, exec (.bankLoad tag c) s = .next t ∧ t.drg.tag = some tag ∧ t.drg.armed.isSome = true ∧
      (s.drg.active < 2 → s.drg.banks.length = 2 → ∀ n, n < 4 → t.shadowOf n = (List.range 32).map fun p => le k.bytes (64 * n + 2 * p) 2) ∧ ChangesOnly (touches (.bankLoad tag c)) s t)) ∧
  (∀ (tag : Word) (k : Cmd) (s : State), Ready s 0x0601 tag k → (∃ t, exec (.drvStatus tag) s = .next t ∧ t = s.reply k stOk [] ((List.range 4).flatMap fun n => s.portStatus n) ∧ Ended k t)) ∧
  (∀ (tag : Word) (k : Cmd) (s : State), Ready s 0x0602 tag k →
    (3 < k.par 0 1 ∨ 1023 < k.par 1 2 ∨ 8 < k.par 3 1 ∨ 1023 < k.par 10 2 → (∃ t, exec (.defaultSet tag) s = .next t ∧ t = s.reply k stBadParam [] [] ∧ Ended k t)) ∧
    (k.par 0 1 ≤ 3 → k.par 1 2 ≤ 1023 → k.par 3 1 ≤ 8 → k.par 10 2 ≤ 1023 → s.inReset .drg = false → (∃ t, exec (.defaultSet tag) s = .next t ∧ t = (s.defaultSet (k.par 0 1) (k.par 1 2) (k.par 3 1) (w32 (k.par 4 4)) (k.par 8 2) (k.par 10 2) (k.par 12 1)).reply k stOk [] [] ∧ Ended k t ∧
      (w32 (k.par 4 4) = 0 → t.rb (R.drg_DEFn_A (k.par 0 1)) 31 = false) ∧
      (w32 (k.par 4 4) ≠ 0 → t.rd (R.drg_DEFn_A (k.par 0 1)) = w32 (k.par 1 2 + k.par 3 1 * 2 ^ 10 + 2 ^ 31) ∧ t.rd (R.drg_DEFn_B (k.par 0 1)) = w32 (k.par 4 4)))))

/-- The on-time of every value fits the frame, is none for zero and the whole frame for the largest (derived: R287, R288, R292). -/
def Obligations.OnTimesFitTheirFrame : Prop :=
  (∀ mode b v w : Nat, 8 ≤ b → b ≤ 16 → w ≤ 0xFFFF → onTime mode b v w ≤ 2 ^ b) ∧ (∀ mode b v : Nat, 8 ≤ b → b ≤ 16 → onTime mode b v 0 = 0) ∧
  (∀ b v w : Nat, 8 ≤ b → b ≤ 16 → w < 0xFFFF → onTime 0 b v w = w / 2 ^ (16 - b)) ∧ (∀ b v : Nat, onTime 0 b v 0xFFFF = 2 ^ b) ∧
  (∀ b v w x : Nat, 8 ≤ b → b ≤ 16 → w ≤ x → x ≤ 0xFFFF → onTime 0 b v w ≤ onTime 0 b v x)

/-- Line crossings end the metering cycles, a lost line runs free, and coefficients, checks and the balance are commanded (derived: R312, R313, R318, R326, R329, R342, R343). -/
def Obligations.MetersRunByTheirCycles : Prop :=
  (∀ (x : Fin 3) (v : Nat) (ch : List ChanIn) (c : DWord) (s : State), s.runs .scl = false → exec (.cycleBoundary x v ch c) s = .next s) ∧
  (∀ (x : Fin 3) (v : Nat) (ch : List ChanIn) (c : DWord) (s : State), s.runs .scl = true → x.val < s.scl.xing.length → ∃ t, exec (.cycleBoundary x v ch c) s = .next t ∧
    t.cnt = (s.at c).cnt ∧ (x.val ≠ s.scl.ref → x.val ≠ s.refPref → s.scl.free = false → s.alive s.scl.ref c = true →
      t.scl.xing.getD x.val none = some c ∧ t.scl.acc = s.scl.acc ∧ t.scl.lastB = s.scl.lastB) ∧ ChangesOnly (touches (.cycleBoundary x v ch c)) s t) ∧
  (∀ (ch : List ChanIn) (c : DWord) (b : Bool) (s : State), (c - s.scl.lastB).toNat * 4 < 7500000 → s.boundary ch c b = s) ∧
  (∀ (c : DWord) (s : State), s.runs .scl = true → s.scl.free = false → (∀ x, x < 3 → s.alive x c = false) → 2 * s.nominal ≤ (c - s.scl.lastB).toNat * 4 → ∃ t, exec (.lineLost c) s = .next t ∧
    t.scl.free = true ∧ t.cnt = (s.at c).cnt ∧ t.scl.realB = s.scl.lastB ∧ t.scl.virt = 1 ∧ t.rd R.scl_LINE_LOST_CNT = satAdd (s.rd R.scl_LINE_LOST_CNT) 1 ∧ ChangesOnly (touches (.lineLost c)) s t) ∧
  (∀ (ch : List ChanIn) (s : State), s.runs .scl = true → s.scl.free = true → let c := s.scl.realB + BitVec.ofNat 64 ((s.scl.virt + 1) * s.nominal / 4)
    (∃ t, exec (.virtualBoundary ch) s = .next t ∧ t = (s.at c).boundary ch c true ∧ (7500000 ≤ (c - s.scl.lastB).toNat * 4 → t.scl.lastB = c ∧ t.scl.virt = s.scl.virt + 1 ∧ t.scl.realB = s.scl.realB))) ∧
  (∀ (ch : List ChanIn) (s : State), s.runs .scl = false ∨ s.scl.free = false → exec (.virtualBoundary ch) s = .next s) ∧
  (∀ (m : Master) (c : DWord) (s : State), PageOpen s .scl m → s.scl.pend = none →
    (s.commitBad = true → (∃ t, exec (.coefCommit m c) s = .next t ∧ t = ((s.at c).err .scl eBadValue 0x64 m).answer .done ∧ t.resp = .done ∧ t.scl.pend = none)) ∧
    (s.commitBad = false → (∃ t, exec (.coefCommit m c) s = .next t ∧ t = ({ s.at c with scl := { s.scl with pend := some c } } : State).answer .done ∧ t.scl.pend = some c ∧ t.resp = .done))) ∧
  (∀ (m : Master) (s : State), PageOpen s .scl m → ∃ t, exec (.coefCancel m) s = .next t ∧ t.scl.pend = none ∧ t.scl.coefTag = none ∧ t.resp = .done ∧ ChangesOnly (touches (.coefCancel m)) s t) ∧
  (∀ (m : Master) (s : State), PageOpen s .scl m →
    (s.scl.check ≠ .idle → (∃ t, exec (.meterCheckGo m) s = .next t ∧ t = (s.err .scl eBusy 0x74 m).answer .done ∧ t.resp = .done ∧ t.scl.check = s.scl.check)) ∧
    (s.scl.check = .idle → ∃ t, exec (.meterCheckGo m) s = .next t ∧ t.scl.check = .asked ∧ t.rf R.scl_CHECK_STAT 0 1 = 1 ∧ t.rf R.scl_CHECK_STAT 8 4 = s.rf R.scl_CHECK_CFG 0 4 ∧
      ChangesOnly (touches (.meterCheckGo m)) s t)) ∧
  (∀ s : State, s.inReset .scl = false → s.scl.check = .asked → (∃ t, exec .checkStart s = .next t ∧ t = { s with scl := { s.scl with check := .running, sum := { s.scl.sum with check := true } } } ∧ t.scl.check = .running ∧ t.scl.sum.check = true)) ∧
  (∀ s : State, s.scl.check ≠ .asked → exec .checkStart s = .next s) ∧
  (∀ (x : CheckMeas) (s : State), s.inReset .scl = false → s.scl.check = .running → ∃ t, exec (.checkComplete x) s = .next t ∧ t.scl.check = .idle ∧
    t.rf R.scl_CHECK_STAT 0 2 = 2 ∧ t.rf R.scl_CHECK_STAT 8 4 = s.rf R.scl_CHECK_STAT 8 4 ∧ t.rb R.scl_CHECK_STAT 3 = decide (s.rf R.scl_CHECK_CFG 16 16 < x.refPpm.natAbs) ∧ t.rb (hdr .scl oRaw) 5 = true ∧ ChangesOnly (touches (.checkComplete x)) s t) ∧
  (∀ (m : Master) (s : State), PageOpen s .scl m → m ≠ .svc → s.rd R.scl_BAL_CLOSE_IDX ≠ s.rd R.scl_BAL_CAP_IDX →
    (∃ t, exec (.balClose m) s = .next t ∧ t = (s.err .scl eBadValue 0xC50 m).answer .done ∧ t.resp = .done ∧ t.rd R.scl_BAL_STAT = s.rd R.scl_BAL_STAT)) ∧
  (∀ (m : Master) (s : State), PageOpen s .scl m → m ≠ .svc → s.rd R.scl_BAL_CLOSE_IDX = s.rd R.scl_BAL_CAP_IDX → ∃ t, exec (.balClose m) s = .next t ∧ t.rf R.scl_BAL_STAT 0 2 = 2 ∧
    t.resp = .done ∧ ChangesOnly (touches (.balClose m)) s t) ∧
  (∀ s : State, PageOpen s .scl .svc → ∃ t, exec (.balClose .svc) s = .next t ∧ t.resp = .done ∧ (s.closeDue = false → t.rd R.scl_BAL_CLOSE_IDX = s.rd R.scl_BAL_CLOSE_IDX) ∧
    (s.closeDue = true → t.rd R.scl_BAL_CLOSE_IDX = s.rd R.scl_BAL_CAP_IDX ∧ t.rf R.scl_BAL_STAT 0 2 = 2)) ∧
  (∀ (tag : Word) (c : DWord) (k : Cmd) (s : State), Ready s 0x0700 tag k → (k.e.length ≠ 1536 → (∃ t, exec (.coefLoad tag c) s = .next t ∧ t = (s.at c).reply k stBadLength [] [] ∧ Ended k t)) ∧
    (k.e.length = 1536 → s.inReset .scl = true ∨ s.scl.pend.isSome = true → (∃ t, exec (.coefLoad tag c) s = .next t ∧ t = (s.at c).reply k stBusy [] [] ∧ Ended k t)) ∧
    (k.e.length = 1536 → s.inReset .scl = false → s.scl.pend = none → 1 ≤ k.par 0 2 → k.par 0 2 ≤ 4096 →
      (let set := (List.range 12).map fun q => (List.range 32).map fun j => leWord k.bytes (128 * q + 4 * j) &&& coefMask j
       ((List.range 12).any fun q => blockBad set q) = false → ∃ t, exec (.coefLoad tag c) s = .next t ∧ t.scl.sh = set ∧ t.rf R.scl_SH_NCYC 0 13 = k.par 0 2 ∧
         t.scl.pend = some c ∧ t.scl.coefTag = some tag))) ∧
  (∀ (tag : Word) (k : Cmd) (s : State), Ready s 0x0701 tag k → (11 < k.par 0 1 ∨ k.par 1 1 < 4 → (∃ t, exec (.meterCheck tag) s = .next t ∧ t = s.reply k stBadParam [] [] ∧ Ended k t)) ∧
    (k.par 0 1 ≤ 11 → 4 ≤ k.par 1 1 → s.inReset .scl = false → s.scl.check = .idle → ∃ t, exec (.meterCheck tag) s = .next t ∧ t.scl.check = .asked ∧
      t.rf R.scl_CHECK_CFG 0 4 = k.par 0 1 ∧ t.rf R.scl_CHECK_CFG 8 8 = k.par 1 1 ∧ ChangesOnly (touches (.meterCheck tag)) s t) ∧
    (k.par 0 1 ≤ 11 → 4 ≤ k.par 1 1 → s.inReset .scl = true ∨ s.scl.check ≠ .idle → (∃ t, exec (.meterCheck tag) s = .next t ∧ t = s.reply k stBusy [] [] ∧ Ended k t))) ∧
  (∀ (tag : Word) (k : Cmd) (s : State), Ready s 0x0710 tag k → let f := k.par 0 4; let n := k.par 4 2
    (n = 0 ∨ 752 < n → (∃ t, exec (.journalRead tag) s = .next t ∧ t = s.reply k stBadParam [] [] ∧ Ended k t)) ∧
    (∀ l, 1 ≤ n → n ≤ 752 → k.e.length = 256 * n → f + n ≤ s.scl.jseq → s.scl.jseq ≤ f + 752 → (List.range n).mapM (fun i => s.nvsRead (0x11000 + 256 * ((f + i) % 752)) 256) = some l →
      (∃ t, exec (.journalRead tag) s = .next t ∧ t = s.reply k stOk [] l.flatten ∧ Ended k t)) ∧
    (1 ≤ n → n ≤ 752 → k.e.length ≠ 256 * n → (∃ t, exec (.journalRead tag) s = .next t ∧ t = s.reply k stBadLength [] [] ∧ Ended k t)) ∧
    (1 ≤ n → n ≤ 752 → k.e.length = 256 * n → s.scl.jseq < f + n ∨ f + 752 < s.scl.jseq → (∃ t, exec (.journalRead tag) s = .next t ∧ t = s.reply k stBadParam [] [] ∧ Ended k t))) ∧
  (∀ (tag : Word) (k : Cmd) (s : State), Ready s 0x0711 tag k → s.isHead = false → 60 ≤ k.par 0 4 → k.par 0 4 ≤ 86400 → 1 ≤ k.par 6 1 → k.par 6 1 ≤ 3 → k.par 7 4 < 2 ^ 20 →
    (∃ t, exec (.balSet tag) s = .next t ∧ t = ({ s with nrg := { s.nrg with balNext := some (k.par 0 4, k.par 4 2, k.par 6 1, k.par 7 4) } } : State).reply k stOk [] [] ∧ Ended k t)) ∧
  (∀ (tag : Word) (k : Cmd) (s : State), Ready s 0x0711 tag k → 60 ≤ k.par 0 4 → k.par 0 4 ≤ 86400 → 1 ≤ k.par 6 1 → k.par 6 1 ≤ 3 → k.par 7 4 < 2 ^ 20 →
    ∃ t, exec (.balSet tag) s = .next t ∧ t.nrg.balNext = some (k.par 0 4, k.par 4 2, k.par 6 1, k.par 7 4) ∧ Ended k t) ∧
  (∀ (tag : Word) (k : Cmd) (s : State), Ready s 0x0711 tag k → k.par 0 4 < 60 ∨ 86400 < k.par 0 4 ∨ k.par 6 1 = 0 ∨ 3 < k.par 6 1 ∨ 2 ^ 20 ≤ k.par 7 4 →
    ∃ t, exec (.balSet tag) s = .next t ∧ t = s.reply k stBadParam [] [] ∧ Ended k t)

/-- Each second leads from a date of the years 2000 to 2399 to the next one, by the Gregorian rule (derived: R348, R349). -/
def Obligations.CalendarIsGregorian : Prop :=
  ∀ c : Cal, 2000 ≤ c.year → c.year ≤ 2399 → 1 ≤ c.mon → c.mon ≤ 12 → 1 ≤ c.day → c.day ≤ monthLen c.year c.mon → c.hour ≤ 23 → c.mins ≤ 59 → c.sec ≤ 59 →
    let n := c.next
    (2000 ≤ n.year ∧ n.year ≤ 2399 ∧ 1 ≤ n.mon ∧ n.mon ≤ 12 ∧ 1 ≤ n.day ∧ n.day ≤ monthLen n.year n.mon ∧ n.hour ≤ 23 ∧ n.mins ≤ 59 ∧ n.sec ≤ 59) ∧
    (c.wraps = true ↔ n = calZero) ∧
    (¬ (c.hour = 23 ∧ c.mins = 59 ∧ c.sec = 59) → n.year = c.year ∧ n.mon = c.mon ∧ n.day = c.day ∧ n.wday = c.wday) ∧
    (c.hour = 23 ∧ c.mins = 59 ∧ c.sec = 59 → n.hour = 0 ∧ n.mins = 0 ∧ n.sec = 0 ∧ n.wday = c.wday % 7 + 1)

/-- The Pewter domain counts seconds while its oscillator runs, loads commits, drives PWRON and keeps its latches (derived: R346, R349, R350, R351, R353, R355, R356, R358, R361, R364). -/
def Obligations.PewterKeepsTimeAndWatch : Prop :=
  (∀ (mv : Nat) (c : DWord) (s : State), s.pwt.oscOk = true → ∃ t, exec (.calendarSecond mv c) s = .next t ∧ t.pwt.cal = s.pwt.cal.next ∧ t.pwt.vbak = mv ∧
    (s.pwt.mainOn = true → t.rd64 R.pwt_RTC_CAP_LO R.pwt_RTC_CAP_HI = c.toNat) ∧ ChangesOnly (touches (.calendarSecond mv c)) s t) ∧
  (∀ (mv : Nat) (c : DWord) (s : State), s.pwt.oscOk = false → exec (.calendarSecond mv c) s = .next s) ∧
  (∀ s : State, ∃ t, exec .oscFail s = .next t ∧ t.pwt.oscOk = false ∧ t.pwt.timeValid = false ∧ t.rb R.pwt_FLAGS 1 = true ∧ t.pwt.cal = s.pwt.cal ∧ ChangesOnly (touches .oscFail) s t) ∧
  (∀ s : State, (∃ t, exec .oscRestart s = .next t ∧ t = { s with pwt := { s.pwt with oscOk := true } } ∧ t.pwt.oscOk = true)) ∧
  (∀ (mv : Nat) (s : State), (1600 ≤ mv → exec (.sealTrip mv) s = .next s) ∧
    (mv < 1500 → ∃ t, exec (.sealTrip mv) s = .next t ∧ t = { s.draw 1 with pwt := { s.pwt with sealUp := false } } ∧ t.pwt.sealUp = false) ∧
    (1500 ≤ mv → mv < 1600 → ∃ t, exec (.sealTrip mv) s = .next t ∧ (t.pwt = s.pwt ∨ t.pwt = { s.pwt with sealUp := false }) ∧ ChangesOnly [.pwt, .free] s t)) ∧
  (∀ (mv : Nat) (s : State), (2200 ≤ mv → ∃ t, exec (.vbakLow mv) s = .next t ∧ t = { s with pwt := { s.pwt with vbak := mv, vbakLow := false } } ∧ t.pwt.vbak = mv) ∧
    (mv < 2200 → s.pwt.vbakLow = true → ∃ t, exec (.vbakLow mv) s = .next t ∧ t = { s with pwt := { s.pwt with vbak := mv } } ∧ t.pwt.vbak = mv) ∧
    (mv < 2200 → s.pwt.vbakLow = false → ∃ t, exec (.vbakLow mv) s = .next t ∧ t.pwt.vbakLow = true ∧ t.pwt.vbak = mv ∧ t.rb R.pwt_FLAGS 6 = true ∧ ChangesOnly (touches (.vbakLow mv)) s t)) ∧
  (∀ (mv : Nat) (s : State), (2200 ≤ mv → ∃ t, exec (.vbakRestored mv) s = .next t ∧ t = { s with pwt := { s.pwt with vbak := mv, vbakLow := false } } ∧ t.pwt.vbakLow = false) ∧
    (mv < 2200 → ∃ t, exec (.vbakRestored mv) s = .next t ∧ t.pwt.vbakLow = true ∧ t.pwt.vbak = mv ∧ (s.pwt.vbakLow = false → t.rb R.pwt_FLAGS 6 = true) ∧
      ChangesOnly (touches (.vbakRestored mv)) s t)) ∧
  (∀ (mv : Nat) (s : State), ∃ t, exec (.vbakSwitchover mv) s = .next t ∧ t.boot.stage = .off ∧ t.pwt.mainOn = false ∧ t.pwt.ranVbak = true ∧ t.pwt.vbak = mv ∧ t.pwt.commit = none ∧ (s.pwt.commit = none → t.pwt.cal = s.pwt.cal) ∧
    ChangesOnly (touches (.vbakSwitchover mv)) s t) ∧
  (∀ (m : Master) (v : Word) (s : State), PageOpen s .pwt m → tst v 0 = false → exec (.rtcCommit m v) s = .next (s.answer .done)) ∧
  (∀ (m : Master) (v : Word) (s : State), PageOpen s .pwt m → tst v 0 = true →
    (s.pwt.commit.isSome = true → (∃ t, exec (.rtcCommit m v) s = .next t ∧ t = (s.err .pwt eBusy 0x64 m).answer .done ∧ t.pwt.commit = s.pwt.commit)) ∧
    (s.pwt.commit = none → rtcCheck (s.rd R.pwt_SH_TIME) (s.rd R.pwt_SH_DATE) = 0 → (∃ t, exec (.rtcCommit m v) s = .next t ∧ t = ({ s with pwt := { s.pwt with commit := some (s.rd R.pwt_SH_TIME, s.rd R.pwt_SH_DATE) } } : State).answer .done ∧ t.pwt.commit = some (s.rd R.pwt_SH_TIME, s.rd R.pwt_SH_DATE))) ∧
    (s.pwt.commit = none → rtcCheck (s.rd R.pwt_SH_TIME) (s.rd R.pwt_SH_DATE) ≠ 0 → ∃ t, exec (.rtcCommit m v) s = .next t ∧ t.pwt = s.pwt ∧ t.rb R.pwt_RTC_CSTAT 1 = true ∧
      t.rf R.pwt_RTC_CSTAT 4 2 = rtcCheck (s.rd R.pwt_SH_TIME) (s.rd R.pwt_SH_DATE) ∧ t.rb (hdr .pwt oRaw) 5 = true)) ∧
  (∀ (a d : Word) (s : State), s.pwt.oscOk = true → s.pwt.commit = some (a, d) → ∃ t, exec .rtcLoad s = .next t ∧ t.pwt.cal = calOf a d ∧ t.pwt.timeValid = true ∧ t.pwt.div = 0 ∧ t.pwt.commit = none ∧
    ChangesOnly (touches .rtcLoad) s t) ∧
  (∀ s : State, s.pwt.oscOk = false ∨ s.pwt.commit = none → exec .rtcLoad s = .next s) ∧
  (∀ (m : Master) (n : Nat) (s : State), PageOpen s .pwt m → ∃ t, exec (.rtcTimeRead m n) s = .next t ∧ t.resp = .data s.pwt.cal.timeWord ∧ t.rd R.pwt_RTC_DATE = s.pwt.cal.dateWord ∧
    t.rd R.pwt_RTC_SUB = w32 (s.rtcSub n) ∧ RegsOnly [R.pwt_RTC_DATE, R.pwt_RTC_SUB] s t ∧ ChangesOnly (touches (.rtcTimeRead m n)) s t) ∧
  (∀ (m : Master) (s : State), PageOpen s .pwt m → (s.pwronBlocked = true → (∃ t, exec (.pwronAssert m) s = .next t ∧ t = (s.err .pwt eBusy 0x94 m).answer .done ∧ t.pwt.pwron = s.pwt.pwron)) ∧
    (s.pwronBlocked = false → ∃ t, exec (.pwronAssert m) s = .next t ∧ t.pwt.pwron = true ∧ t.pwt.pwronBy = 3 ∧ ChangesOnly (touches (.pwronAssert m)) s t)) ∧
  (∀ (m : Master) (s : State), PageOpen s .pwt m → (s.rf R.pwt_PWRON_CFG 0 4 = 0 → ∃ t, exec (.pwronRelease m) s = .next t ∧ t.pwt.pwron = false) ∧
    (s.rf R.pwt_PWRON_CFG 0 4 ≠ 0 → (∃ t, exec (.pwronRelease m) s = .next t ∧ t = s.answer .done ∧ t.pwt.pwron = s.pwt.pwron))) ∧
  (∀ s : State, (s.pwt.pwron = true → s.rf R.pwt_PWRON_CFG 0 4 ≠ 0 → ∃ t, exec .pwronPulseEnd s = .next t ∧ t.pwt.pwron = false) ∧ (s.pwt.pwron = false ∨ s.rf R.pwt_PWRON_CFG 0 4 = 0 → exec .pwronPulseEnd s = .next s)) ∧
  (∀ (m : Master) (v : Word) (s : State), PageOpen s .pwt m → (fld v 16 16 = 0xFA11 → (∃ t, exec (.faillitWrite m v) s = .next t ∧ t = (s.wr R.pwt_FAILLIT (v &&& 1)).answer .done ∧ t.rd R.pwt_FAILLIT = v &&& 1 ∧ t.resp = .done)) ∧
    (fld v 16 16 ≠ 0xFA11 → (∃ t, exec (.faillitWrite m v) s = .next t ∧ t = (s.err .pwt eBadKey 0xA0 m).answer .done ∧ t.rd R.pwt_FAILLIT = s.rd R.pwt_FAILLIT))) ∧
  (∀ (l : Fin 2) (s : State), (s.rb R.pwt_TAMP_CFG l.val = false → exec (.tamper l) s = .next s) ∧
    (s.rb R.pwt_TAMP_CFG l.val = true → ∃ t, exec (.tamper l) s = .next t ∧ t.pwt.rs = rsZero ∧ t.rf R.pwt_TAMP_CNT 0 16 = min (s.rf R.pwt_TAMP_CNT 0 16 + 1) 65535 ∧
      t.rb R.pwt_FLAGS (4 + l.val) = true ∧ t.pwt.pwron = false ∧ (s.boot.stage ≠ .off → t.boot.stage = .reset) ∧ ChangesOnly (touches (.tamper l)) s t)) ∧
  (∀ (tag : Word) (k : Cmd) (s : State), Ready s 0x0800 tag k → let a := w32 (k.par 0 4) &&& 0x3F7F7F; let d := w32 (k.par 4 4) &&& 0xFFFF1F3F
    (s.pwt.commit.isSome = true → ∃ t, exec (.rtcSet tag) s = .next t ∧ t = s.reply k stBusy [] [] ∧ Ended k t) ∧
    (s.pwt.commit = none → rtcCheck a d = 0 → ∃ t, exec (.rtcSet tag) s = .next t ∧ t.pwt.commit = some (a, d) ∧ t.rd R.pwt_SH_TIME = a ∧ t.rd R.pwt_SH_DATE = d ∧
      ChangesOnly (touches (.rtcSet tag)) s t) ∧
    (s.pwt.commit = none → rtcCheck a d ≠ 0 → ∃ t, exec (.rtcSet tag) s = .next t ∧ t.pwt = s.pwt ∧ t.rf R.pwt_RTC_CSTAT 4 2 = rtcCheck a d ∧ Ended k t)) ∧
  (∀ (tag : Word) (n : Nat) (k : Cmd) (s : State), Ready s 0x0801 tag k → (∃ t, exec (.rtcGet tag n) s = .next t ∧ t = (s.rtcLatch n).reply k stOk
    (wordsBytes [s.pwt.cal.timeWord, (s.rtcLatch n).rd R.pwt_RTC_DATE, (s.rtcLatch n).rd R.pwt_RTC_SUB, (s.rtcLatch n).rd R.pwt_FLAGS, (s.rtcLatch n).pwtStat]) [] ∧ Ended k t ∧ t.rd R.pwt_RTC_DATE = s.pwt.cal.dateWord)) ∧
  (∀ (tag : Word) (k : Cmd) (s : State), Ready s 0x0802 tag k → k.par 0 1 ≤ 1 → k.par 1 1 ≤ 1 → k.par 2 1 ≤ 15 → k.par 3 1 = 0 → almTimeBad (w32 (k.par 4 4)) = false → almDateBad (w32 (k.par 8 4)) = false →
    ∃ t, exec (.alarmSet tag) s = .next t ∧ t.rd (R.pwt_ALMn_TIME (k.par 0 1)) = w32 (k.par 4 4) &&& almTimeMask ∧ t.rd (R.pwt_ALMn_DATE (k.par 0 1)) = w32 (k.par 8 4) &&& almDateMask ∧
      t.rb R.pwt_PWRON_CFG (4 + k.par 0 1) = decide (k.par 1 1 = 1) ∧ t.rf R.pwt_PWRON_CFG 0 4 = k.par 2 1 ∧ Ended k t ∧ ChangesOnly (touches (.alarmSet tag)) s t) ∧
  (∀ (tag : Word) (k : Cmd) (s : State), Ready s 0x0802 tag k → 1 < k.par 0 1 ∨ 1 < k.par 1 1 ∨ 15 < k.par 2 1 ∨ k.par 3 1 ≠ 0 ∨ almTimeBad (w32 (k.par 4 4)) = true ∨ almDateBad (w32 (k.par 8 4)) = true →
    ∃ t, exec (.alarmSet tag) s = .next t ∧ t = s.reply k stBadParam [] [] ∧ Ended k t) ∧
  (∀ (tag : Word) (k : Cmd) (s : State), Ready s 0x0803 tag k → (1 < k.par 0 1 → (∃ t, exec (.faillitSet tag) s = .next t ∧ t = s.reply k stBadParam [] [] ∧ Ended k t)) ∧
    (k.par 0 1 ≤ 1 → (∃ t, exec (.faillitSet tag) s = .next t ∧ t = (s.wr R.pwt_FAILLIT (w32 (k.par 0 1))).reply k stOk [] [] ∧ t.rd R.pwt_FAILLIT = w32 (k.par 0 1) ∧ Ended k t))) ∧
  (∀ (tag : Word) (k : Cmd) (s : State), Ready s 0x0804 tag k → (1 < k.par 0 1 ∨ 1 < k.par 1 1 ∨ 2 < k.par 2 1 → (∃ t, exec (.tamperCfg tag) s = .next t ∧ t = s.reply k stBadParam [] [] ∧ Ended k t)) ∧
    (k.par 0 1 ≤ 1 → k.par 1 1 ≤ 1 → k.par 2 1 ≤ 2 → (∃ t, exec (.tamperCfg tag) s = .next t ∧ t = (s.tampCfg (w32 (k.par 0 1 + 2 * k.par 1 1 + 16 * k.par 2 1))).reply k stOk [] [] ∧ t.rd R.pwt_TAMP_CFG = w32 (k.par 0 1 + 2 * k.par 1 1 + 16 * k.par 2 1) ∧
      (s.pwt.loopOk = [false, false] → t.pwt.loopOk = [decide (k.par 0 1 = 1 ∧ s.rb R.pwt_TAMP_CFG 0 = false), decide (k.par 1 1 = 1 ∧ s.rb R.pwt_TAMP_CFG 1 = false)]) ∧ Ended k t)))

/-- A power-failure warning and its end, the contactors in sequence, the photocell and the status inputs (derived: R37, R335, R359, R403, R471, R474, R475, R476, R482). -/
def Obligations.PowerFailsAndContactorsFollow : Prop :=
  (∀ (mv : Nat) (s : State), s.rb R.pwr_PWR_STAT 0 = true ∨ s.boot.stage = .off ∨ s.pfailTh + 300 ≤ mv →
    ∃ t, exec (.pfail mv) s = .next t ∧ t = (s.wr R.pwr_VIN_MEAS (w32 (mv % 65536))).draw 1 ∧ t.rb R.pwr_PWR_STAT 0 = s.rb R.pwr_PWR_STAT 0) ∧
  (∀ (mv : Nat) (s : State), s.rb R.pwr_PWR_STAT 0 = false → s.boot.stage ≠ .off → mv + 300 < s.pfailTh → ∃ t, exec (.pfail mv) s = .next t ∧ t.rb R.pwr_PWR_STAT 0 = true ∧
    t.rd R.pwr_PFAIL_CNT = satAdd (s.rd R.pwr_PFAIL_CNT) 1 ∧ t.rb (hdr .pwr oRaw) 0 = true ∧ ChangesOnly (touches (.pfail mv)) s t) ∧
  (∀ (mv : Nat) (s : State), (s.rb R.pwr_PWR_STAT 0 = false ∨ mv < s.pfailTh + 701 →
      ∃ t, exec (.pfailEnd mv) s = .next t ∧ t = (s.wr R.pwr_VIN_MEAS (w32 (mv % 65536))).draw 1 ∧ t.rb R.pwr_PWR_STAT 0 = s.rb R.pwr_PWR_STAT 0) ∧
    (s.rb R.pwr_PWR_STAT 0 = true → s.pfailTh + 1301 ≤ mv → ∃ t, exec (.pfailEnd mv) s = .next t ∧ t.rb R.pwr_PWR_STAT 0 = false ∧ t.rb (hdr .pwr oRaw) 1 = true ∧
      Out.pin "PFAIL_N" true ∈ t.out ∧ ChangesOnly (touches (.pfailEnd mv)) s t)) ∧
  (∀ (m : Master) (v : Word) (s : State), PageOpen s .fsw m →
    (tst v 8 = false → (∃ t, exec (.contHoldWrite m v) s = .next t ∧ t = (s.wb R.fsw_CONT_HOLD 8 false).answer .done ∧ t.fwOwn = false ∧ t.rf R.fsw_CONT_HOLD 0 6 = s.rf R.fsw_CONT_HOLD 0 6)) ∧
    (tst v 8 = true → s.configured = false ∨ s.isStandby = true → ∃ t, exec (.contHoldWrite m v) s = .next t ∧ t = (s.err .fsw eBusy 0x40 m).answer .done ∧ t.fsw = s.fsw) ∧
    (tst v 8 = true → s.configured = true → s.isStandby = false → ∃ t, exec (.contHoldWrite m v) s = .next t ∧ t.rf R.fsw_CONT_HOLD 0 6 = fld v 0 6 ∧ t.coilDrop = s.coilDrop ∧ t.resp = .done ∧
      (s.en .fsw = true → t.fwOwn = true) ∧ ChangesOnly (touches (.contHoldWrite m v)) s t)) ∧
  (∀ s : State, (s.fsw.seq = none → exec .contSequenceStep s = .next s) ∧
    (∀ p, s.fsw.seq = some p → s.drainBit .fsw = false → s.cryError = false → ∃ t, exec .contSequenceStep s = .next t ∧ t = s.contStep p ∧
      (s.contTodo = [] → t.fsw.seq = none ∧ t.fsw.on = s.fsw.on)) ∧
    (∀ p, s.fsw.seq = some p → (s.drainBit .fsw = true ∧ s.en .fsw = true) ∨ s.cryError = true → exec .contSequenceStep s = .next s)) ∧
  (∀ (p i : Nat) (s : State), s.fsw.on.length = 6 → s.contTodo.filter (fun i => decide (p ≤ i)) ≠ [] → i = (s.contTodo.filter (fun i => decide (p ≤ i))).headD 0 →
    (s.contStep p).fsw.on.getD i false = s.contTarget i ∧ (∀ k, k ≠ i → (s.contStep p).fsw.on.getD k false = s.fsw.on.getD k false)) ∧
  (∀ (mv : Nat) (s : State), mv < 16000 →
    (s.fsw.coilOk = true → s.fsw.on.length = 6 → ∃ t, exec (.coilLost mv) s = .next t ∧ (∀ i, t.fsw.on.getD i false = false) ∧ t.fsw.coilOk = false ∧ t.fsw.coilMv = mv ∧
      t.coilDrop = true ∧ t.fsw.seq = none ∧ ChangesOnly (touches (.coilLost mv)) s t) ∧
    (s.fsw.coilOk = false → ∃ t, exec (.coilLost mv) s = .next t ∧ t = { s with fsw := { s.fsw with coilMv := mv } } ∧ t.coilDrop = s.coilDrop)) ∧
  (∀ (mv : Nat) (s : State), 16000 ≤ mv →
    (s.fsw.coilOk = false → ∃ t, exec (.coilReturn mv) s = .next t ∧ t.fsw.coilOk = true ∧ t.fsw.coilMv = mv ∧ t.coilDrop = s.coilDrop ∧ ChangesOnly (touches (.coilReturn mv)) s t) ∧
    (s.fsw.coilOk = true → ∃ t, exec (.coilReturn mv) s = .next t ∧ t = { s with fsw := { s.fsw with coilMv := mv } } ∧ t.coilDrop = s.coilDrop)) ∧
  (∀ (mv : Nat) (s : State), exec (.coilReturn mv) s = exec (.coilLost mv) s) ∧
  (∀ (o : Fin 6) (s : State), s.fsw.on.length = 6 → s.fsw.fault.length = 6 → ∃ t, exec (.contFault o) s = .next t ∧ t.fsw.on.getD o.val false = false ∧ t.fsw.fault.getD o.val false = true ∧
    (∀ k, k ≠ o.val → t.fsw.on.getD k false = s.fsw.on.getD k false) ∧ (s.inReset .fsw = false → t.rb (hdr .fsw oRaw) 2 = true) ∧ ChangesOnly (touches (.contFault o)) s t) ∧
  (∀ (m : Master) (s : State), PageOpen s .fsw m → ∃ t, exec (.contClrFault m) s = .next t ∧ (∀ i, t.fsw.fault.getD i false = false) ∧ t.resp = .done ∧ ChangesOnly (touches (.contClrFault m)) s t) ∧
  (∀ (dv : Nat) (s : State), s.photoReads dv = s.fsw.dark → (∃ t, exec (.photoChange dv) s = .next t ∧ t = { s with fsw := { s.fsw with photo := dv } } ∧ t.fsw.dark = s.fsw.dark)) ∧
  (∀ (dv : Nat) (s : State), s.photoReads dv ≠ s.fsw.dark → ∃ t, exec (.photoChange dv) s = .next t ∧ t.fsw = { s.fsw with photo := dv, dark := s.photoReads dv, wait := true } ∧
    (s.inReset .fsw = false → t.rb (hdr .fsw oRaw) 1 = true) ∧ ChangesOnly (touches (.photoChange dv)) s t) ∧
  (∀ s : State, (s.fsw.wait = false → exec .photoSteady s = .next s) ∧
    (s.fsw.wait = true → ∃ t, exec .photoSteady s = .next t ∧ t.fsw.wait = false ∧ t.fsw.steadyDark = s.fsw.dark ∧
      ((s.boot.stage = .reset ∨ s.boot.stage = .checked) → t.fsw.due = true) ∧ ChangesOnly (touches .photoSteady) s t)) ∧
  (∀ (i : Fin 8) (b : Bool) (s : State), s.inReset .fsw = false →
    (s.fsw.stat.getD i.val false = b → exec (.statChange i b) s = .next s) ∧
    (s.fsw.stat.getD i.val false ≠ b → ∃ t, exec (.statChange i b) s = .next t ∧ t = ({ s with fsw := { s.fsw with stat := setAt s.fsw.stat i.val b } } : State).irq .fsw 0 ∧
      t.rb (hdr .fsw oRaw) 0 = true))

/-- A vault service is asked for through the service core's window or a mailbox command, with the Crypto Officer's authenticator where it must be (derived: R372, R374, R384, R385, R386, R393). -/
def Obligations.VaultServicesAreQueuedForTheVault : Prop :=
  (∀ (i : Instr) (op : Nat) (co : Bool) (m : Master) (v : Word) (mode : AesMode) (iv : Bytes) (s : State), vltOf i = some (op, co, .window m v, mode, iv) → PageOpen s .vlt m →
    (fld v 0 8 ≠ op → ∃ t, exec i s = .next t ∧ t = s.answer .done ∧ t.vlt = s.vlt) ∧
    (fld v 0 8 = op → m ≠ .svc → ∃ t, exec i s = .next t ∧ t = (s.err .vlt 0x80 0x58 m).answer .done ∧ t.vlt = s.vlt) ∧
    (fld v 0 8 = op → m = .svc → tst v 31 = false → ∃ t, exec i s = .next t ∧ t = s.answer .done ∧ t.vlt = s.vlt) ∧
    (fld v 0 8 = op → m = .svc → tst v 31 = true → ∃ t, exec i s = .next t ∧ t = (s.opQueue (s.windowOp m v mode iv)).answer .done ∧
      (s.takes .vlt = true → t.vlt.ops = s.vlt.ops ++ [s.windowOp m v mode iv]) ∧ (s.takes .vlt = false → t.vlt.ops = s.vlt.ops ∧ t.rf R.vlt_OP_STAT 8 7 = vCancelled))) ∧
  (∀ (i : Instr) (op : Nat) (co : Bool) (tag : Word) (mode : AesMode) (iv : Bytes) (k : Cmd) (s : State), vltOf i = some (op, co, .mbx tag, mode, iv) → Ready s (0x0900 + op) tag k →
    (co = false → ∃ t, exec i s = .next t ∧ t = (s.defer k).opQueue (mbxOp k op) ∧ (s.takes .vlt = true → t.vlt.ops = s.vlt.ops ++ [mbxOp k op])) ∧
    (∀ u, co = true → s.coAuth k = some u → ∃ t, exec i s = .next t ∧ t = (u.defer k).opQueue (mbxOp k op) ∧ (s.takes .vlt = true → t.vlt.ops = s.vlt.ops ++ [mbxOp k op])) ∧
    (co = true → s.coAuth k = none → ∃ t, exec i s = .next t ∧ t = (s.ledger 0xE00B 5 0x180 k.e.opcode (k.par 20 4) s.vlt.coCtr).reply k stDenied [] [] ∧ t.vlt = s.vlt ∧ Ended k t)) ∧
  (∀ (k : Cmd) (s : State), (s.slot 0 = none → s.coAuth k = some s) ∧
    (∀ x, s.slot 0 = some x → (s.coAuth k).isSome = (decide (s.vlt.coCtr < k.par 20 4) &&
      decide ((hmac x.key (authBytes k.e ++ sha256 k.bytes)).take 8 = slice k.e.param 24 8))) ∧
    (∀ t, s.coAuth k = some t → s.slot 0 ≠ none → s.vlt.coCtr < t.vlt.coCtr ∧ t.vlt.coCtr = k.par 20 4)) ∧
  (∀ (o : VOp) (s : State), (s.takes .vlt = false → s.opQueue o = s.opAnswer o vCancelled []) ∧ (s.takes .vlt = true → (s.opQueue o).vlt.ops = s.vlt.ops ++ [o])) ∧
  (∀ (c : Option (Fin 14)) (s : State), s.inReset .vlt = true → exec (.vaultOpComplete c) s = .next s) ∧
  (∀ (c : Option (Fin 14)) (s : State), s.vlt.ops = [] ∨ s.drained .vlt = true → exec (.vaultOpComplete c) s = .next s) ∧
  (∀ (o : VOp) (r : List VOp) (inp : Bytes) (s : State), s.inReset .vlt = false → s.vlt.ops = o :: r → s.drained .vlt = false → let u : State := { s with vlt := { s.vlt with ops := r } }
    u.opInput o = some inp → ∃ t, exec (.vaultOpComplete none) s = .next t ∧ t.vlt.ops = r ∧
      t = (((u.vopRun o inp).used.foldl State.takeUse (u.vopRun o inp).st).opAnswer o (u.vopRun o inp).status (u.vopRun o inp).out).vltDrainCheck) ∧
  (∀ (o : VOp) (r : List VOp) (s : State), s.inReset .vlt = false → s.vlt.ops = o :: r → s.drained .vlt = false → let u : State := { s with vlt := { s.vlt with ops := r } }
    u.opInput o = none → ∃ t, exec (.vaultOpComplete none) s = .next t ∧ t = (u.opAnswer o vBadParam []).vltDrainCheck ∧ t.vlt.ops = r) ∧
  (∀ (o : VOp) (r : List VOp) (n : Fin 14) (s : State), s.inReset .vlt = false → s.vlt.ops = o :: r → s.drained .vlt = false →
    ∃ t, exec (.vaultOpComplete (some n)) s = .next t ∧ t = (s.cryFail n.val 2).opComplete ∧ t.cryError = true ∧ t.vlt.ops = r)

/-- The vault's services refuse what the keys' attributes, the root secret, the error state and the modes forbid (derived: R369, R371, R373, R374, R382, R386, R390, R392). -/
def Obligations.VaultGuardsItsKeys : Prop :=
  (∀ (o : VOp) (inp : Bytes) (s : State), s.cryError = true → o.op ≠ 0 → let x := s.vopRun o inp; x.st = s ∧ x.status = vErrorState ∧ x.out = [] ∧ x.used = []) ∧
  (∀ (o : VOp) (inp : Bytes) (s : State), s.cryError = false → s.rootOk = false → o.op ≠ 0 → o.op ≠ 3 → let x := s.vopRun o inp; x.st = s ∧ x.status = vNoRoot ∧ x.out = []) ∧
  (∀ (i : Nat) (v : Word) (uses : Nat) (key : Bytes) (org bind cls : Nat) (s : State), let r := s.createSlot i v uses key org bind cls
    (r.2 ≠ vOk → r.1 = s) ∧ (r.2 = vOk → s.slot i = none ∧ s.slotBusy i = false ∧ key.length = typLen (fld v 1 2) ∧ (tst v 12 = true → org ≠ 0 ∧ tst v 10 = false) ∧
      (tst v 10 = true → tst v 7 = true ∧ tst v 8 = true) ∧ (∀ j, j ≠ i → r.1.slot j = s.slot j))) ∧
  (∀ (o : VOp) (s : State), (s.vopExport o).st = s ∧ ((s.vopExport o).status = vOk → ∃ x p, s.slot o.a = some x ∧ tst x.attr 12 = true ∧ s.slot o.b = some p ∧ tst p.attr 10 = true ∧
    (s.vopExport o).out = kwWrap p.key (slotBlock x))) ∧
  (∀ (o : VOp) (s : State), let x := s.vopErase o; (x.status = vOk → x.st.slot o.a = none ∧ s.slotBusy o.a = false ∧ ∀ j, j ≠ o.a → x.st.slot j = s.slot j) ∧ (x.status ≠ vOk → x.st = s)) ∧
  (∀ s : State, let x := s.vopApprove; (s.anyLinkSlot = true → x.st = s ∧ x.status = vSlotInUse) ∧
    (s.anyLinkSlot = false → x.status = vOk ∧ x.st.vlt.fuse = true ∧ x.st.slot 0 = s.slot 0 ∧ x.st.vlt.approved = s.vlt.approved ∧ ∀ j, j ≠ 0 → x.st.slot j = none)) ∧
  (∀ s : State, let x := s.vopDebug; (s.vlt.approved = true → x.st = s ∧ x.status = vDenied) ∧
    (s.vlt.approved = false → s.anyLinkSlot = false → x.status = vOk ∧ x.st.vlt.debug = true ∧ (∀ j, j ≠ 0 → x.st.slot j = none) ∧
      ∀ y, x.st.slot 0 = some y → s.slot 0 = some y ∧ fld y.attr 14 2 ≠ 0)) ∧
  (∀ (i : Nat) (x : Slot) (s : State), s.slot i = some x → (x.uses = 0 → s.takeUse i = s) ∧ (x.uses = 1 → (s.takeUse i).slot i = none) ∧
    (2 ≤ x.uses → (s.takeUse i).slot i = some { x with uses := x.uses - 1 }) ∧ ∀ j, j ≠ i → (s.takeUse i).slot j = s.slot j)

/-- Self-tests run when asked and report; zeroization clears the secrets and resets; the debug port counts what it ignores (derived: R368, R381, R387, R389, R390, R392, R393). -/
def Obligations.SelfTestsZeroizationAndDebugPort : Prop :=
  (∀ (m : Master) (v : Word) (s : State), PageOpen s .vlt m → fld v 0 8 = 1 → tst v 31 = true →
    (m ≠ .svc → (∃ t, exec (.selftest (.window m v)) s = .next t ∧ t = (s.err .vlt 0x80 0x58 m).answer .done ∧ t.cry = s.cry)) ∧
    (m = .svc → s.cryError = true → (∃ t, exec (.selftest (.window m v)) s = .next t ∧ t = (s.opStat vErrorState 0).answer .done ∧ t.cry = s.cry ∧ t.rf R.vlt_OP_STAT 8 7 = vErrorState)) ∧
    (m = .svc → s.cryError = false → s.cry.wait = none → s.cry.run = none → ∃ t, exec (.selftest (.window m v)) s = .next t ∧ t.cry.wait = some s.tick ∧ t.resp = .done ∧
      t.rf R.vlt_OP_STAT 8 7 = vOk ∧ t.rb R.vlt_OP_STAT 1 = true ∧ t.rb (hdr .vlt oRaw) 0 = true ∧ ChangesOnly (touches (.selftest (.window m v))) s t) ∧
    (m = .svc → s.cryError = false → s.cry.wait.isSome = true ∨ s.cry.run.isSome = true → ∃ t, exec (.selftest (.window m v)) s = .next t ∧ t.cry = s.cry ∧ t.rf R.vlt_OP_STAT 8 7 = vDenied)) ∧
  (∀ (tag : Word) (k : Cmd) (s : State), Ready s 0x0901 tag k → (s.cryError = true → (∃ t, exec (.selftest (.mbx tag)) s = .next t ∧ t = s.vltReply k vErrorState [] [] ∧ Ended k t)) ∧
    (s.cryError = false → s.cry.wait = none → s.cry.run = none →
      (∃ t, exec (.selftest (.mbx tag)) s = .next t ∧ t = ({ s with cry := { s.cry with wait := some s.tick } } : State).vltReply k vOk [] [] ∧ t.cry.wait = some s.tick ∧ Ended k t)) ∧
    (s.cryError = false → s.cry.wait.isSome = true ∨ s.cry.run.isSome = true → ∃ t, exec (.selftest (.mbx tag)) s = .next t ∧
      t = (s.err .cry 0x81 0x48 .block).reply k stBusy (toLe 4 vDenied) [] ∧ Ended k t)) ∧
  (∀ (fs : List Nat) (s : State), s.cry.wait = none ∨ s.cry.wait = some s.tick ∨ s.inReset .cry = true ∨ s.drainBit .cry = true → exec (.selftestRun fs) s = .next s) ∧
  (∀ (fs : List Nat) (t0 : Nat) (s : State), s.cry.wait = some t0 → s.tick ≠ t0 → s.inReset .cry = false → s.drainBit .cry = false → ∃ t, exec (.selftestRun fs) s = .next t ∧ t.cry.wait = none ∧
    ((∀ n, n < 14 → n < 9 ∨ n = 13 → s.rf R.cry_TEST_SEL 0 14 / 2 ^ n % 2 = 1 → n ∉ fs) → t.cryError = s.cryError) ∧
    (∀ n, n < 9 → s.rf R.cry_TEST_SEL 0 14 / 2 ^ n % 2 = 1 → n ∈ fs → t.cryError = true) ∧ ChangesOnly (touches (.selftestRun fs)) s t) ∧
  (∀ (r : Fin 4) (b : Bool) (s : State), s.cry.run = none → exec (.radioPathTest r b) s = .next s) ∧
  (∀ (r : Fin 4) (b : Bool) (x : TestRun) (s : State), s.cry.run = some x → 9 + r.val ∉ x.left → exec (.radioPathTest r b) s = .next s) ∧
  (∀ (r : Fin 4) (x : TestRun) (s : State), s.cry.run = some x → 9 + r.val ∈ x.left → let y := { x with left := x.left.filter fun z => z != 9 + r.val }
    (∃ t, exec (.radioPathTest r true) s = .next t ∧ t = s.testGo y ∧ (y.left ≠ [] → t.cry.run = some y) ∧ (y.left = [] → t.cry.run = none) ∧ t.cryError = s.cryError) ∧
    (∃ t, exec (.radioPathTest r false) s = .next t ∧ t = (s.cryFail (9 + r.val) 3).testGo (y.fail (9 + r.val)) ∧ t.cryError = true)) ∧
  (∀ (x : TestRun) (s : State), x.left = [] → (s.testGo x).cry.run = none ∧ (s.testGo x).rb R.cry_TEST_STAT 1 = x.failed.isNone ∧
    (s.testGo x).rd R.cry_TEST_DELAY = w32 (s.tick - x.start) ∧ (s.testGo x).rd R.cry_TEST_RUNS = s.rd R.cry_TEST_RUNS + 1 ∧ (s.testGo x).rb (hdr .cry oRaw) 1 = true) ∧
  (∀ (b : Bool) (s : State), s.vlt.drbg = none → exec (.drbgReseed b) s = .next s) ∧
  (∀ (b : Bool) (d : Drbg) (s : State), s.vlt.drbg = some d → (d.since < s.rf R.cry_DRBG_CFG 0 16 → exec (.drbgReseed b) s = .next s) ∧
    (s.rf R.cry_DRBG_CFG 0 16 ≤ d.since → ∃ t, exec (.drbgReseed b) s = .next t ∧ t = (if b then s.drbgReseed else s.drbgReseed.cryFail 5 2) ∧
      t.vlt.drbg.map (fun x => (x.since, x.seeds)) = some (0, (d.seeds + 1) % 65536) ∧ (b = false → t.cryError = true))) ∧
  (∀ (t k : Nat) (s : State), t < 32 → k < 4 → (s.cryFail t k).cryError = true ∧ (s.cryFail t k).rf R.cry_CRY_IND 8 5 = t ∧ (s.cryFail t k).rf R.cry_CRY_IND 14 2 = k ∧ (s.cryFail t k).approvedInd = false) ∧
  (∀ (m : Master) (v : Word) (s : State), PageOpen s .vlt m →
    (fld v 16 16 = 0xC1EA → tst v 0 = true → s.boot.stage ≠ .off → ∃ t, exec (.zeroize (.window m v)) s = .next t ∧ t.pwt.rs = rsZero ∧ t.rootOk = false ∧ (∀ i, t.slot i = none) ∧
      t.boot.stage = .reset ∧ (s.outranked 8 = false → t.rf R.rst_RST_CAUSE 0 4 = 8) ∧ t.resp = .done) ∧
    (fld v 16 16 ≠ 0xC1EA → (∃ t, exec (.zeroize (.window m v)) s = .next t ∧ t = (s.err .vlt eBadKey 0x74 m).answer .done ∧ t.pwt.rs = s.pwt.rs))) ∧
  (∀ (tag : Word) (k : Cmd) (s : State), Ready s 0x0902 tag k → s.boot.stage ≠ .off → ∃ t, exec (.zeroize (.mbx tag)) s = .next t ∧ t.pwt.rs = rsZero ∧ (∀ i, t.slot i = none) ∧
    t.boot.stage = .reset ∧ (s.outranked 8 = false → t.rf R.rst_RST_CAUSE 0 4 = 8) ∧ t.mbx.taken = []) ∧
  (∀ s : State, exec (.tapInstruction .idcode) s = .next s ∧ exec (.tapInstruction .bypass) s = .next s ∧
    (s.vlt.approved = false → s.vlt.debug = true → exec (.tapInstruction .other) s = .next s) ∧
    (s.vlt.approved = true ∨ s.vlt.debug = false → ∃ t, exec (.tapInstruction .other) s = .next t ∧
      t = s.wf R.cry_DBG_STAT 16 16 (min (s.rf R.cry_DBG_STAT 16 16 + 1) 65535) ∧ t.rf R.cry_DBG_STAT 16 16 = min (s.rf R.cry_DBG_STAT 16 16 + 1) 65535))

/-- Records are submitted, written in order to their slots as valid 32 bytes, read back, and series are fed, saved and cleared (derived: R395, R397, R398, R400, R401, R403, R405, R406, R407, R408, R409, R414). -/
def Obligations.LedgerKeepsItsRecords : Prop :=
  (∀ r : Rec, (recBytes r).length = 32 ∧ recValid (recBytes r) = true) ∧
  (∀ p q : Nat, p < q → slotOf p = slotOf q → 4096 ≤ p ∧ q - p ≥ 61440) ∧ (∀ q : Nat, slotOf q < 65536) ∧
  (∀ (m : Master) (v : Word) (s : State), PageOpen s .ldg m → (mayLog m = false → (∃ t, exec (.logSubmit m v) s = .next t ∧ t = (s.err .ldg 0x81 0x60 m).answer .done ∧ t.ldg = s.ldg)) ∧
    (mayLog m = true → 6 ≤ fld v 16 4 ∨ logCodeOk (fld v 0 16) = false → (∃ t, exec (.logSubmit m v) s = .next t ∧ t = ((s.setLogStage m 15 1).err .ldg eBadValue 0x60 m).answer .done ∧ t.ldg.fifo = s.ldg.fifo)) ∧
    (mayLog m = true → fld v 16 4 < 6 → logCodeOk (fld v 0 16) = true → let n := fld (s.logStage m 15) 0 2
      s.ldgRoom n = true → ∃ t rs, exec (.logSubmit m v) s = .next t ∧ t.resp = .done ∧ t.ldg.fifo = s.ldg.fifo ++ rs ∧ rs.length = n ∧
        (∀ r ∈ rs, r.code = fld v 0 16 ∧ r.sev = fld v 16 4 ∧ r.src = fld v 20 12) ∧ ChangesOnly [.ldg, .resp] s t)) ∧
  (∀ s : State, s.inReset .ldg = true ∨ s.ldg.ready = false ∨ (s.en .ldg = true ∧ s.drainBit .ldg = true) → exec .recordWrite s = .next s) ∧
  (∀ (r : Rec) (l : List Rec) (s : State), s.inReset .ldg = false → s.ldg.ready = true → s.takes .ldg = true → s.ldg.fifo = r :: l → s.inReset .nvs = false →
    s.rb (R.nvs_NWRITERSr (nvsRegion (slotAddr (slotOf r.seq)))) (nvsBit .ldg) = true → ∃ t, exec .recordWrite s = .next t ∧ t.ldg.fifo = l ∧
      t.nvs.mem = memWrite s.nvs.mem (slotAddr (slotOf r.seq)) (recBytes r) ∧ t.rd R.ldg_REC_CNT = s.rd R.ldg_REC_CNT + 1 ∧ t.rb (hdr .ldg oRaw) 0 = true ∧
      ChangesOnly [.regs, .ldg, .nvs, .pba, .out] s t) ∧
  (∀ s : State, (s.inReset .ldg = true ∨ s.ldg.ready = false ∨ s.takes .ldg = false ∨ 64 ≤ s.ldg.fifo.length ∨ (s.ldg.lostDue = 0 ∧ s.ldg.lostUnknown = false) → exec .lostRecord s = .next s) ∧
    (s.ldg.ready = true → s.takes .ldg = true → s.ldg.fifo.length < 64 → s.ldg.lostUnknown = false → s.ldg.lostDue ≠ 0 → ∃ t r, exec .lostRecord s = .next t ∧ t.ldg.lostDue = 0 ∧
      t.ldg.fifo = s.ldg.fifo ++ [r] ∧ r.code = 0xEA00 ∧ r.p0 = w32 s.ldg.lostDue ∧ ChangesOnly [.ldg] s t) ∧
    (s.ldg.ready = true → s.takes .ldg = true → s.ldg.fifo.length < 64 → s.ldg.lostUnknown = true → ∃ t r, exec .lostRecord s = .next t ∧ t.ldg.lostUnknown = false ∧
      t.ldg.fifo = s.ldg.fifo ++ [r] ∧ r.code = 0xEA00 ∧ r.p0 = 0 ∧ r.p1 = 1 ∧ ChangesOnly [.ldg] s t)) ∧
  (∀ s : State, (s.inReset .ldg = true ∨ s.ldg.ready = true → exec .ledgerScanDone s = .next s) ∧
    (s.inReset .ldg = false → s.ldg.ready = false → ∃ t, exec .ledgerScanDone s = .next t ∧ t = ((List.range 256).foldl resumeSeries s.scanDone).lateFlush ∧ t.ldg.ready = true ∧
      s.opTime ≤ s.scanDone.opTime)) ∧
  (∀ (m : Master) (v : Word) (s : State), PageOpen s .ldg m → ∃ t, exec (.cursorWrite m v) s = .next t ∧ t = (s.latchWin m v).answer .done ∧
    (t.ldgWin m).cursor = v ∧ (t.ldgWin m).slot = slotOf v.toNat ∧ (t.ldgWin m).state = (s.latchView v.toNat).1 ∧ (t.ldgWin m).win = (s.latchView v.toNat).2) ∧
  (∀ (m : Master) (s : State), PageOpen s .ldg m → ∃ t, exec (.windowAutoRead m) s = .next t ∧ t.resp = .data ((s.ldgWin m).win.getD 7 0) ∧
    ((s.ldgWin m).auto = true → (t.ldgWin m).cursor = w32 (seqNext (s.ldgWin m).cursor.toNat)) ∧ ((s.ldgWin m).auto = false → t.ldg = s.ldg) ∧ ChangesOnly [.ldg, .resp] s t) ∧
  (∀ (m : Master) (v : Word) (s : State), PageOpen s .ldg m → mayLog m = true → let x := s.series (fld v 0 8)
    (s.takes .ldg = false ∨ x.en = false → (∃ t, exec (.seriesFeed m v) s = .next t ∧ t = (s.err .ldg 0x82 0x144 m).answer .done ∧ t.ldg = s.ldg)) ∧
    (s.takes .ldg = true → x.en = true → (∃ t, exec (.seriesFeed m v) s = .next t ∧ t = (s.setSeries (fld v 0 8) (x.feed (sInt (s.logStage m 14)) (s.opTime / 250000000) (s.rf R.pwt_PWRCYC 0 24))).answer .done ∧ (t.series (fld v 0 8)).count = (x.count + 1) % 2 ^ 64 ∧ t.resp = .done))) ∧
  (∀ (x : Series) (v : Int) (t c : Nat), x.bin v < 64 ∧ (x.feed v t c).count = (x.count + 1) % 2 ^ 64 ∧
    (∀ i, i ≠ x.bin v → Sparse.find (x.feed v t c).bins i = Sparse.find x.bins i) ∧
    (Sparse.find (x.feed v t c).bins (x.bin v)) = some (min ((Sparse.find x.bins (x.bin v)).getD 0 + 1) 0xFFFFFFFF)) ∧
  (∀ (m : Master) (v : Word) (s : State), PageOpen s .ldg m → (tst v 0 = false → (∃ t, exec (.serCtrlClear m v) s = .next t ∧ t = s.answer .done ∧ t.ldg = s.ldg)) ∧
    (tst v 0 = true → (∃ t, exec (.serCtrlClear m v) s = .next t ∧ t = (s.clearSeries (s.rf R.ldg_SER_SEL 0 8) 1).answer .done ∧ (t.series (s.rf R.ldg_SER_SEL 0 8)).count = 0 ∧ t.resp = .done))) ∧
  (∀ s : State, s.inReset .ldg = false → s.en .ldg = true → (∃ t, exec .seriesSave s = .next t ∧ t = s.saveSeries ∧ t.ldg = s.ldg ∧ ChangesOnly (touches .seriesSave) s t) ∧
      (∃ t, exec .optimeSave s = .next t ∧ t = s.nvsWrite .ldg 0x40000 (toLe 8 s.opTime) ∧ (s.inReset .nvs = false → s.nvsAllows .ldg 3 = true → t.nvs.mem = memWrite s.nvs.mem 0x40000 (toLe 8 s.opTime)) ∧
        ChangesOnly (touches .optimeSave) s t)) ∧
  (∀ s : State, s.inReset .ldg = true ∨ s.en .ldg = false → exec .seriesSave s = .next s ∧ exec .optimeSave s = .next s) ∧
  (∀ (tag : Word) (k : Cmd) (s : State), Ready s 0x0A00 tag k → let n := k.par 4 2
    (n = 0 ∨ 4096 < n → ∃ t, exec (.ledgerRead tag) s = .next t ∧ t = s.reply k stBadParam [] [] ∧ Ended k t) ∧
    (1 ≤ n → n ≤ 4096 → k.e.length ≠ 32 * n → ∃ t, exec (.ledgerRead tag) s = .next t ∧ t = s.reply k stBadLength [] [] ∧ Ended k t) ∧
    (1 ≤ n → n ≤ 4096 → k.e.length = 32 * n → s.inReset .ldg = true → ∃ t, exec (.ledgerRead tag) s = .next t ∧ t = s.reply k stBusy [] [] ∧ Ended k t) ∧
    (1 ≤ n → n ≤ 4096 → k.e.length = 32 * n → s.inReset .ldg = false → ∃ t, exec (.ledgerRead tag) s = .next t ∧
      t = s.reply k stOk (toLe 4 (readRecs s n (k.par 0 4)).2 ++ toLe 4 s.ldg.nextSeq) (readRecs s n (k.par 0 4)).1 ∧ Ended k t)) ∧
  (∀ (tag : Word) (k : Cmd) (s : State), Ready s 0x0A01 tag k → let u := s.ledger (k.par 0 2) (k.par 2 1) 0xFF0 (k.par 3 4) (k.par 7 4) (k.par 11 4)
    (k.par 0 2 < 0xEAF0 ∨ 0xEAFF < k.par 0 2 ∨ 6 ≤ k.par 2 1 → ∃ t, exec (.ledgerNote tag) s = .next t ∧ t = s.reply k stBadParam [] [] ∧ Ended k t) ∧
    (0xEAF0 ≤ k.par 0 2 → k.par 0 2 ≤ 0xEAFF → k.par 2 1 < 6 → s.inReset .ldg = true ∨ s.ldgRoom 1 = false → ∃ t, exec (.ledgerNote tag) s = .next t ∧ t = u.reply k stBusy [] [] ∧
      t.ldg.fifo = s.ldg.fifo ∧ Ended k t) ∧
    (0xEAF0 ≤ k.par 0 2 → k.par 0 2 ≤ 0xEAFF → k.par 2 1 < 6 → s.inReset .ldg = false → s.ldgRoom 1 = true → ∃ t, exec (.ledgerNote tag) s = .next t ∧
      t = u.reply k stOk (toLe 4 s.ldg.nextSeq) [] ∧ t.ldg.fifo.length = s.ldg.fifo.length + 1 ∧ Ended k t)) ∧
  (∀ (tag : Word) (k : Cmd) (s : State), Ready s 0x0A02 tag k → (s.inReset .ldg = true → ∃ t, exec (.seriesRead tag) s = .next t ∧ t = s.reply k stBusy [] [] ∧ Ended k t) ∧
    (s.inReset .ldg = false → ∃ t, exec (.seriesRead tag) s = .next t ∧ t = s.reply k stOk [] (seriesBytes (s.series (k.par 0 1))) ∧ Ended k t)) ∧
  (∀ (tag : Word) (k : Cmd) (s : State), Ready s 0x0A03 tag k → let x := s.series (k.par 0 1); let y : Series := { x with en := decide (k.par 1 1 = 1), qty := k.par 2 1, lo := sgn 32 (k.par 3 4), width := k.par 7 4 }
    (k.par 7 4 = 0 ∨ 1 < k.par 1 1 → ∃ t, exec (.seriesCfg tag) s = .next t ∧ t = s.reply k stBadParam [] [] ∧ Ended k t) ∧
    (k.par 7 4 ≠ 0 → k.par 1 1 ≤ 1 → s.inReset .ldg = true ∨ ((sgn 32 (k.par 3 4) ≠ x.lo ∨ k.par 7 4 ≠ x.width) ∧ x.en = true) →
      ∃ t, exec (.seriesCfg tag) s = .next t ∧ t = s.reply k stBusy [] [] ∧ Ended k t) ∧
    (k.par 7 4 ≠ 0 → k.par 1 1 ≤ 1 → s.inReset .ldg = false → sgn 32 (k.par 3 4) = x.lo → k.par 7 4 = x.width →
      ∃ t, exec (.seriesCfg tag) s = .next t ∧ t = (s.setSeries (k.par 0 1) y).reply k stOk [] [] ∧ t.series (k.par 0 1) = y ∧ Ended k t) ∧
    (k.par 7 4 ≠ 0 → k.par 1 1 ≤ 1 → s.inReset .ldg = false → (sgn 32 (k.par 3 4) ≠ x.lo ∨ k.par 7 4 ≠ x.width) → x.en = false →
      ∃ t, exec (.seriesCfg tag) s = .next t ∧ t = ((s.setSeries (k.par 0 1) y).clearSeries (k.par 0 1) 2).reply k stOk [] [] ∧ t.series (k.par 0 1) = y.clear ∧ Ended k t)) ∧
  (∀ (tag : Word) (k : Cmd) (s : State), Ready s 0x0A04 tag k → (s.inReset .ldg = true → ∃ t, exec (.seriesClear tag) s = .next t ∧ t = s.reply k stBusy [] [] ∧ Ended k t) ∧
    (s.inReset .ldg = false → ∃ t, exec (.seriesClear tag) s = .next t ∧ t = (s.clearSeries (k.par 0 1) 1).reply k stOk [] [] ∧ (t.series (k.par 0 1)).count = 0 ∧ Ended k t))

/-- A ring frame sealed under the ring key is delivered with its fields, a damaged or forged one never, and a numbered one once (derived: R418, R419, R420, R421, R422). -/
def Obligations.RingFramesAreCheckedAndTakenOnce : Prop :=
  (∀ (e west : Bool) (kind hops spos dpos seq : Nat) (src : DWord) (key pay : Bytes) (c : DWord) (res : Nat) (s : State), s.ringKey = some key → key.length = 16 →
    s.ibgRuns = true → s.linkOn e = true → kindAlways kind = true → hops < 16 → spos < 16 → dpos < 16 → seq < 2 ^ 64 → pay.length ≤ 2012 → src ≠ s.modId.ident →
    ((dpos = 15 ∧ kind ≠ 0x30) ∨ some dpos = s.ringPos) → (∀ q, seqOf s.ibg.seqs src = some q → q < seq) → ∃ t,
    exec (.ringFrameReceive e (ringSeal (some key) (ringBody kind hops west true spos dpos src.toNat seq pay)) c res) s = .next t ∧
      t.ibg.inbox = s.ibg.inbox ++ [⟨kind, spos, hops, src, seq, pay, e, c⟩] ∧ seqOf t.ibg.seqs src = some seq ∧
      t.rd R.ibg_RX_FRAMES = satAdd (s.rd R.ibg_RX_FRAMES) 1 ∧ ChangesOnly (touches (.ringFrameReceive e [] c res)) s t) ∧
  (∀ (e : Bool) (f : Bytes) (c : DWord) (res : Nat) (s : State), s.ibgRuns = true → s.linkOn e = true → le f (f.length - 4) 4 ≠ crcOf crc32 (f.take (f.length - 4)) →
    ∃ t, exec (.ringFrameReceive e f c res) s = .next t ∧ t.ibg = s.ibg ∧ t.rd R.ibg_CRC_ERR = satAdd (s.rd R.ibg_CRC_ERR) 1 ∧
      t.rd R.ibg_RX_FRAMES = s.rd R.ibg_RX_FRAMES) ∧
  (∀ (e : Bool) (f : Bytes) (c : DWord) (res : Nat) (s : State), let n := f.length; let b := f.take (n - 4)
    s.ibgRuns = true → s.linkOn e = true → 32 ≤ n → n ≤ 2048 → n = 28 + le b 20 2 + b2n (tst (w32 (byteAt b 1)) 5) * 8 → le f (n - 4) 4 = crcOf crc32 b →
    kindAlways (byteAt b 0) = true → s.macOk b = false → ∃ t, exec (.ringFrameReceive e f c res) s = .next t ∧ t.ibg = s.ibg ∧
      t.rd R.ibg_MAC_FAIL = satAdd (s.rd R.ibg_MAC_FAIL) 1 ∧ t.rb (hdr .ibg oRaw) 3 = true) ∧
  (∀ (x y : RingRx) (s : State), (∀ q, seqOf s.ibg.seqs x.src = some q → q < x.seq) → y.src = x.src → y.seq ≤ x.seq →
    let t := s.ringDeliver x true
    t.ibg.inbox = s.ibg.inbox ++ [x] ∧ (t.ringDeliver y true).ibg.inbox.length = t.ibg.inbox.length ∧
      (t.ringDeliver y true).rd R.ibg_DUP_DROP = satAdd (t.rd R.ibg_DUP_DROP) 1) ∧
  (∀ (e : Bool) (f : Bytes) (c : DWord) (res : Nat) (src : DWord) (q : Nat) (s : State), seqOf s.ibg.seqs src = some q →
    ∃ t q', exec (.ringFrameReceive e f c res) s = .next t ∧ seqOf t.ibg.seqs src = some q' ∧ q ≤ q')

/-- Links come and go, DISCOVER builds the map, the wire delay is measured, SYNC carries the tick, and a module is reset over the ring (derived: R417, R419, R422, R423, R424, R425, R426, R427, R444). -/
def Obligations.RingKeepsLinksMapAndMaster : Prop :=
  ((∀ (e : Bool) (s : State), s.inReset .ibg = false → s.linkOn e = false → ∃ t, exec (.linkUp e) s = .next t ∧ t.linkOn e = true ∧
    t.linkOn (!e) = s.linkOn (!e) ∧ t.rb (hdr .ibg oRaw) 0 = true ∧ ChangesOnly (touches (.linkUp e)) s t) ∧
  (∀ (e : Bool) (s : State), s.inReset .ibg = false → s.linkOn e = true → ∃ t, exec (.linkDown e) s = .next t ∧ t.linkOn e = false ∧
    t.linkOn (!e) = s.linkOn (!e) ∧ t.wireD e = 0 ∧ t.wireD (!e) = s.wireD (!e) ∧ t.ibg.closed = false ∧ t.rb (hdr .ibg oRaw) 0 = true ∧
    ChangesOnly (touches (.linkDown e)) s t) ∧
  (∀ (e : Bool) (s : State), s.inReset .ibg = true → exec (.linkUp e) s = .next s ∧ exec (.linkDown e) s = .next s) ∧
  (∀ (c : DWord) (s : State), ∀ p ∈ [(1, Instr.discover), (2, .dlyReq c), (3, .dlyResp), (4, .sync), (0x30, .ringResetFrame), (0x40, .ringData)],
    s.ringTake p.1 = none → exec p.2 s = .next s) ∧
  (∀ (x : RingRx) (t s : State), s.ringTake 1 = some (x, t) → (∃ u, exec .discover s = .next u ∧ u = t.discovered x ∧ u.ibg.order = (mergeOrder t.ibg.order t.modId.ident x.src (((discEntries x.pay).take (byteAt x.pay 18)).map fun e => e.1) x.east).1 ∧
    (t.ibg.map = none → le x.pay 9 8 ≠ 0 → u.ibg.map = some (placeNew (mapOf (discEntries x.pay)) t.modId.ident)))) ∧
  (∀ (ports : List Bool) (kind dpos : Nat) (pay : Bytes) (e : Bool) (s : State), s.ibgRuns = true → (s.ringFull = false ∨ kind = 1) → e ∈ ports → s.linkOn e = true →
    let seq := s.rf R.pwt_PWRCYC 0 24 * 2 ^ 40 + s.ibg.sent % 2 ^ 40; let h := if kindLocal kind then 0 else 7; let t := s.ringOut ports kind dpos pay
    (kindAlways kind = false → (kindKeyed kind = false ∨ s.ringKey = none) → Out.ring e (ringSeal none (ringBody kind h (!e) false s.spos dpos s.modId.ident.toNat seq pay)) ∈ t.out ∧
      t.ibg.sent = s.ibg.sent + 1 ∧ t.rd R.ibg_TX_FRAMES = satAdd (s.rd R.ibg_TX_FRAMES) 1) ∧
    (∀ key, (kindAlways kind = true ∨ kindKeyed kind = true) → s.ringKey = some key → Out.ring e (ringSeal (some key) (ringBody kind h (!e) true s.spos dpos s.modId.ident.toNat seq pay)) ∈ t.out ∧
      t.ibg.sent = s.ibg.sent + 1 ∧ t.rd R.ibg_TX_FRAMES = satAdd (s.rd R.ibg_TX_FRAMES) 1)) ∧
  (∀ s : State, (∃ t, exec .discoverSend s = .next t ∧ t = s.ringOut [true, false] 1 15 s.discoverPay ∧ (s.ibgRuns = true → t.ibg.sent = s.ibg.sent + 1))) ∧
  (∀ (x : RingRx) (t s : State), s.ringTake 0x40 = some (x, t) → (∃ u, exec .ringData s = .next u ∧ u = t ∧ u.ibg.inbox = s.ibg.inbox.erase x)) ∧
  (∀ (m : List (Option DWord)) (i j : DWord) (p : Nat), m.length = 8 → (m.getD p none = some j → (placeNew m i).getD p none = some j) ∧
    (m.getD p none = none → p < 8 → (posIn (placeNew m i) i).isSome = true))) ∧
  ((∀ (c : DWord) (s : State), let t := s.at c; (t.ibgRuns = true → ∃ u, exec (.ringDelayMeasure c) s = .next u ∧
      u = ({ t with ibg := { t.ibg with reqE := if t.ibg.upE then some (t.ts c) else none, reqW := if t.ibg.upW then some (t.ts c) else none } } : State).ringOut [true, false] 2 15 (toLe 8 (t.ts c)) ∧
      (t.ibg.upE = true → u.ibg.reqE = some (t.ts c)) ∧ (t.ibg.upW = true → u.ibg.reqW = some (t.ts c))) ∧
    (t.ibgRuns = false → exec (.ringDelayMeasure c) s = .next t)) ∧
  (∀ (c : DWord) (x : RingRx) (t s : State), s.ringTake 2 = some (x, t) → ∃ u, exec (.dlyReq c) s = .next u ∧
    u = (t.at c).ringOut [x.east] 3 15 (toLe 8 ((t.at c).ts x.c) ++ toLe 8 ((t.at c).ts c)) ∧ u.ibg.inbox = s.ibg.inbox.erase x) ∧
  (∀ (x : RingRx) (t1 : Nat) (t s : State), s.ringTake 3 = some (x, t) →
    let d := wireSample t1 (le x.pay 0 8) (le x.pay 8 8) (t.ts x.c)
    (x.east = true → t.ibg.reqE = some t1 → (∃ u, exec .dlyResp s = .next u ∧ u = { t with ibg := { t.ibg with reqE := none, delE := (d :: t.ibg.delE).take 5 } } ∧ u.wireD true = portDelay ((d :: t.ibg.delE).take 5) ∧ u.wireD false = t.wireD false)) ∧
    (x.east = false → t.ibg.reqW = some t1 → (∃ u, exec .dlyResp s = .next u ∧ u = { t with ibg := { t.ibg with reqW := none, delW := (d :: t.ibg.delW).take 5 } } ∧ u.wireD false = portDelay ((d :: t.ibg.delW).take 5) ∧ u.wireD true = t.wireD true))) ∧
  (∀ (x : RingRx) (t s : State), s.ringTake 3 = some (x, t) → (if x.east then t.ibg.reqE else t.ibg.reqW) = none → exec .dlyResp s = .next t) ∧
  (∀ (c : DWord) (p : Nat) (s : State), let t := s.at c; t.ibg.master = some p → t.ringPos = some p → t.tick % 16 = 0 → ∃ u, exec (.syncSend c) s = .next u ∧
    u = t.ringSend 4 15 (toLe 8 (t.ts c) ++ toLe 6 0 ++ toLe 1 t.tq ++ toLe 1 0) ∧ (t.ibgRuns = true → t.ringFull = false → u.ibg.sent = t.ibg.sent + 1)) ∧
  (∀ (c : DWord) (s : State), let t := s.at c; t.ibg.master = none ∨ t.ibg.master ≠ t.ringPos ∨ t.tick % 16 ≠ 0 → exec (.syncSend c) s = .next t) ∧
  (∀ (x : RingRx) (p : Nat) (m : List (Option DWord)) (t s : State), s.ringTake 4 = some (x, t) → t.ibg.master = some p → t.ibg.map = some m →
    (m.getD p none ≠ some x.src → exec .sync s = .next t) ∧ (m.getD p none = some x.src → let u := { t with ibg := { t.ibg with syncAt := t.ibg.edges } }
    (t.rf R.ntm_NTM_CFG 0 2 = 2 → ∃ v, exec .sync s = .next v ∧ v = ((u.setBase ((tqBound (byteAt x.pay 14)).map (· + 10))).measure (u.syncError x) x.c).draw 1 ∧
      v.ntm.base = (tqBound (byteAt x.pay 14)).map (· + 10) ∧ (t.takes .ntm = true → t.rb R.ntm_NTM_CFG 2 = true → v.ntm.measCnt = x.c)) ∧
    (t.rf R.ntm_NTM_CFG 0 2 ≠ 2 → ∃ v, exec .sync s = .next v ∧ v = u ∧ v.ibg.syncAt = t.ibg.edges))) ∧
  (∀ (c : DWord) (s : State), s.inReset .ibg = false → s.masterGone = true → ∃ t, exec (.masterLost c) s = .next t ∧ t.ibg.master ≠ s.ibg.master ∧
    ChangesOnly (touches (.masterLost c)) s t) ∧
  (∀ (c : DWord) (s : State), s.inReset .ibg = true ∨ s.masterGone = false → exec (.masterLost c) s = .next s)) ∧
  ((∀ (m : Master) (v : Word) (s : State), PageOpen s .ibg m →
    (fld v 16 16 ≠ 0xC0DE → (∃ t, exec (.rrstCtrlWrite m v) s = .next t ∧ t = (s.err .ibg eBadKey 0xC0 m).answer .done ∧ t.ibg = s.ibg)) ∧
    (fld v 16 16 = 0xC0DE → s.ringKey = none → (∃ t, exec (.rrstCtrlWrite m v) s = .next t ∧ t = (s.err .ibg 0x80 0xC0 m).answer .done ∧ t.ibg = s.ibg)) ∧
    (fld v 16 16 = 0xC0DE → s.ringKey ≠ none → s.ibg.map = none → (∃ t, exec (.rrstCtrlWrite m v) s = .next t ∧ t = (s.err .ibg 0x81 0xC0 m).answer .done ∧ t.ibg = s.ibg)) ∧
    (fld v 16 16 = 0xC0DE → s.ringKey ≠ none → s.ibg.map ≠ none → (∃ t, exec (.rrstCtrlWrite m v) s = .next t ∧ t = (s.rrstSend (fld v 0 3)).answer .done ∧ t.resp = .done ∧ (s.ibgRuns = true → s.ringFull = false → t.ibg.sent = s.ibg.sent + 1)))) ∧
  (∀ (x : RingRx) (t s : State), s.ringTake 0x30 = some (x, t) →
    (le x.pay 0 2 = 0xC0DE → t.boot.stage ≠ .off → t.rb R.ibg_IBG_CFG 8 = true → ∃ u, exec .ringResetFrame s = .next u ∧ u = t.enterReset 9 (if x.east then 0 else 1) false ∧
      u.boot.stage = .reset ∧ (t.outranked 9 = false → u.rf R.rst_RST_CAUSE 0 4 = 9)) ∧
    (le x.pay 0 2 ≠ 0xC0DE ∨ t.rb R.ibg_IBG_CFG 8 = false → exec .ringResetFrame s = .next t)) ∧
  (∀ (m : Master) (v : Word) (s : State), PageOpen s .ibg m →
    (fld v 16 16 ≠ 0xF0E7 → ∃ t, exec (.mapForget m v) s = .next t ∧ t = (s.err .ibg eBadKey 0xC4 m).answer .done ∧ t.ibg = s.ibg) ∧
    (fld v 16 16 = 0xF0E7 → (s.present / 2 ^ fld v 0 3 % 2 = 1 ∨ some (fld v 0 3) = s.ringPos) → ∃ t, exec (.mapForget m v) s = .next t ∧ t = (s.err .ibg eBusy 0xC4 m).answer .done ∧ t.ibg = s.ibg) ∧
    (fld v 16 16 = 0xF0E7 → s.present / 2 ^ fld v 0 3 % 2 ≠ 1 → some (fld v 0 3) ≠ s.ringPos → s.ibg.map = none → exec (.mapForget m v) s = .next (s.answer .done)) ∧
    (∀ q, fld v 16 16 = 0xF0E7 → s.present / 2 ^ fld v 0 3 % 2 ≠ 1 → some (fld v 0 3) ≠ s.ringPos → s.ibg.map = some q →
      ∃ t, exec (.mapForget m v) s = .next t ∧ t = (s.setMap (setAt q (fld v 0 3) none) s.ibg.holder).answer .done ∧ t.ibg.map = some (setAt q (fld v 0 3) none))) ∧
  (∀ (tag : Word) (k : Cmd) (s : State), Ready s 0x0B00 tag k → (∃ t, exec (.ringStatus tag) s = .next t ∧ t = s.reply k stOk [] ((List.range 8).flatMap fun p =>
    toLe 8 (match s.ibg.map with | some m => ((m.getD p none).getD 0).toNat | none => 0) ++ toLe 1 (s.present / 2 ^ p % 2) ++
    toLe 1 (b2n (decide (s.ibg.master = some p))) ++ zeros 6 ++ (match s.ibg.hb.getD p none with | some h => slice h.pay 0 16 | none => zeros 16)) ∧ Ended k t)) ∧
  (∀ (tag : Word) (k : Cmd) (s : State), Ready s 0x0B01 tag k → (7 < k.par 0 1 → (∃ t, exec (.ringReset tag) s = .next t ∧ t = s.reply k stBadParam [] [] ∧ Ended k t)) ∧
    (∀ e, k.par 0 1 ≤ 7 → s.rrstError = some e → (∃ t, exec (.ringReset tag) s = .next t ∧ t = s.reply k stFault (toLe 1 e) [] ∧ Ended k t)) ∧
    (k.par 0 1 ≤ 7 → s.rrstError = none → (∃ t, exec (.ringReset tag) s = .next t ∧ t = (s.rrstSend (k.par 0 1)).reply k stOk [] [] ∧ (s.ibgRuns = true → s.ringFull = false → t.ibg.sent = s.ibg.sent + 1) ∧ Ended k t))) ∧
  (∀ (tag : Word) (k : Cmd) (s : State), Ready s 0x0B02 tag k → (7 < k.par 0 1 → (∃ t, exec (.ringForget tag) s = .next t ∧ t = s.reply k stBadParam [] [] ∧ Ended k t)) ∧
    (∀ u, k.par 0 1 ≤ 7 → s.forgetPos (k.par 0 1) = (u, true) → (∃ t, exec (.ringForget tag) s = .next t ∧ t = u.reply k stOk [] [] ∧ (∀ m, s.ibg.map = some m → t.ibg.map = some (setAt m (k.par 0 1) none)) ∧ Ended k t)) ∧
    (∀ u, k.par 0 1 ≤ 7 → s.forgetPos (k.par 0 1) = (u, false) → (∃ t, exec (.ringForget tag) s = .next t ∧ t = s.reply k stBusy [] [] ∧ t.ibg.map = s.ibg.map ∧ Ended k t))))

/-- A standby hears the head, decides when both paths fall silent, and keeps the head's checkpoints; a head found elsewhere steps back (derived: R428, R429, R430, R431, R433, R434, R435, R437, R438, R439, R443, R444). -/
def Obligations.StandbyWatchesTakesOverAndIsFed : Prop :=
  ((∀ s : State, (s.beats = true → (∃ t, exec .heartbeatSend s = .next t ∧ t = s.ringSend 5 15 s.beatPay ∧ (s.ibgRuns = true → s.ringFull = false → t.ibg.sent = s.ibg.sent + 1))) ∧ (s.beats = false → exec .heartbeatSend s = .next s)) ∧
  (∀ s : State, ∀ p ∈ [(5, Instr.heartbeat), (0x10, .ckptData), (0x11, .ckptAck)], s.ringTake p.1 = none → exec p.2 s = .next s) ∧
  (∀ (x : RingRx) (t s : State), s.ringTake 5 = some (x, t) →
    (∀ m p, t.ibg.map = some m → posIn m x.src = some p → ∃ u, exec .heartbeat s = .next u ∧ u.ibg.hb = setAt t.ibg.hb p (some ⟨t.ibg.edges, x.pay⟩) ∧
      u = ({ t with ibg := { t.ibg with hb := setAt t.ibg.hb p (some ⟨t.ibg.edges, x.pay⟩) } } : State).beatHeard x p) ∧
    (t.ibg.map = none → 8 ≤ x.spos → ∃ u, exec .heartbeat s = .next u ∧ u = t.beatHeard x x.spos ∧ u.ibg = t.ibg)) ∧
  (∀ (x : RingRx) (p : Nat) (s : State), s.runs .fov = true → s.isHead = true → le x.pay 2 2 = s.net.seg → byteAt x.pay 0 % 4 = 3 →
    s.beatHeard x p = { s with fov := { s.fov with pair := some (s.ibg.edges, p, byteAt x.pay 1 % 8, le x.pay 12 2) } }) ∧
  (∀ (x : RingRx) (p : Nat) (s : State), s.runs .fov = true → s.isStandby = true → le x.pay 2 2 = s.watchSeg → byteAt x.pay 0 / 4 % 2 = 1 →
    s.beatHeard x p = { s with fov := { s.fov with heardA := true, partner := some p, lastNs := s.ntNs x.c, lastTick := s.tick32 } }) ∧
  (∀ s : State, s.inReset .fov = false → s.isStandby = true → s.fov.pathLost = false →
    ((8 ≤ s.fov.silA ∧ s.fov.silB = 0) ∨ (8 ≤ s.fov.silB ∧ s.fov.silA = 0)) →
    ∃ t, exec .pathLost s = .next t ∧ t.fov.pathLost = true ∧ t.rb (hdr .fov oRaw) 2 = true ∧ ChangesOnly (touches .pathLost) s t) ∧
  (∀ s : State, s.isStandby = true → s.runs .fov = true → s.fov.taking = none → s.ringFull = false →
    (s.silentFor = none → exec .takeoverDecision s = .next s) ∧
    (s.silentFor = some false → s.fov.st = 4 → ∃ t n, exec .takeoverDecision s = .next t ∧ t.fov.st = 5 ∧ t.fov.taking = some (s.tick, s.tick + n) ∧ 1 ≤ n ∧ n ≤ 180 ∧
      t.rb (hdr .fov oRaw) 0 = true ∧ ChangesOnly (touches .takeoverDecision) s t) ∧
    (s.silentFor = some false → s.fov.st ≠ 4 → s.fov.blockedSent = false → ∃ t, exec .takeoverDecision s = .next t ∧ t.fov.st = 6 ∧ t.fov.taking = none ∧
      t.rb (hdr .fov oRaw) 4 = true ∧ ChangesOnly (touches .takeoverDecision) s t) ∧
    (s.silentFor = some true → s.fov.partLost = false → ∃ t, exec .takeoverDecision s = .next t ∧ t.fov.partLost = true ∧ t.fov.taking = none ∧
      t.rb (hdr .fov oRaw) 1 = true ∧ ChangesOnly (touches .takeoverDecision) s t) ∧
    ((s.silentFor = some true ∧ s.fov.partLost = true) ∨ (s.silentFor = some false ∧ s.fov.st ≠ 4 ∧ s.fov.blockedSent = true) → exec .takeoverDecision s = .next s)) ∧
  (∀ s : State, s.isStandby = false ∨ s.runs .fov = false ∨ s.fov.taking.isSome = true ∨ s.ringFull = true → exec .takeoverDecision s = .next s)) ∧
  ((∀ (q : Nat × Nat × Nat) (s : State), s.activeHead = true → s.takes .fov = true → s.holds = true → s.tick % 256 = 128 → s.sf % 64 = 0 →
    (s.standbyNow = some q → ∃ t k, exec .checkpointCapture s = .next t ∧ t = s.capture q ∧ t.fov.tx = some k ∧ k.dest = q.1 ∧ k.sf = s.sf ∧ k.full = t.fov.full ∧
      k.incr = t.fov.incr ∧ k.todo = List.range k.chunks.length ∧ t.fov.want = false) ∧ (s.standbyNow = none → exec .checkpointCapture s = .next s)) ∧
  (∀ s : State, s.activeHead = false ∨ s.takes .fov = false ∨ s.holds = false ∨ s.tick % 256 ≠ 128 ∨ s.sf % 64 ≠ 0 → exec .checkpointCapture s = .next s) ∧
  (∀ (x : RingRx) (t s : State), s.ringTake 0x10 = some (x, t) → t.isStandby = true → t.takes .fov = true → t.fov.partner = some x.spos →
    ∃ u, exec .ckptData s = .next u ∧ u = t.takeChunk x.pay ∧ u.ibg.inbox = s.ibg.inbox.erase x) ∧
  (∀ (x : RingRx) (t s : State), s.ringTake 0x10 = some (x, t) → t.isStandby = false ∨ t.takes .fov = false ∨ t.fov.partner ≠ some x.spos → exec .ckptData s = .next t) ∧
  (∀ (p : Bytes) (s : State), s.fov.asm = none → 2 ≤ le p 6 2 → le p 4 2 ≠ le p 6 2 - 1 → s.takeChunk p =
    { s with fov := { s.fov with asm := some ⟨le p 0 2, le p 2 2, le p 6 2, (s.tick - 128) / 16384 * 64, Sparse.put [] (le p 4 2) (p.drop 9), decide (byteAt p 8 = 1), le p 6 2 - 1⟩ } }) ∧
  (∀ (x : RingRx) (k : CkTx) (t s : State), s.ringTake 0x11 = some (x, t) → t.fov.tx = some k → le x.pay 0 2 = k.full → le x.pay 2 2 = k.incr → x.spos = k.dest →
    (byteAt x.pay 4 = 1 → (∃ u, exec .ckptAck s = .next u ∧ u = { t with fov := { t.fov with tx := none } }.bumpSat R.fov_CKPT_SENT 1 ∧ u.fov.tx = none ∧ u.rd R.fov_CKPT_SENT = satAdd (t.rd R.fov_CKPT_SENT) 1)) ∧
    (byteAt x.pay 4 ≠ 1 → ∃ l, exec .ckptAck s = .next { t with fov := { t.fov with tx := some { k with todo := k.todo ++ l } } } ∧
      ∀ i, (i ∈ k.todo ∨ i ∈ l) ↔ (i ∈ k.todo ∨ (i < k.chunks.length ∧ tst (w32 (byteAt x.pay (5 + i / 8))) (i % 8) = true)))) ∧
  (∀ (x : RingRx) (t s : State), s.ringTake 0x11 = some (x, t) → (∀ k, t.fov.tx = some k → le x.pay 0 2 ≠ k.full ∨ le x.pay 2 2 ≠ k.incr ∨ x.spos ≠ k.dest) → exec .ckptAck s = .next t) ∧
  (∀ (k : CkTx) (s : State), s.fov.tx = some k → s.fov.asm = none → ((k.sf + 64) * 256 + 128 ≤ s.tick → ∃ t, exec .checkpointAbandon s = .next t ∧
      t = ({ s with fov := { s.fov with tx := none } } : State).bumpSat R.fov_CKPT_FAIL 1 ∧ t.fov.tx = none ∧ t.rd R.fov_CKPT_FAIL = satAdd (s.rd R.fov_CKPT_FAIL) 1) ∧
    (s.tick < (k.sf + 64) * 256 + 128 → exec .checkpointAbandon s = .next s)) ∧
  (∀ (a : CkAsm) (s : State), s.fov.tx = none → s.fov.asm = some a → ((a.sf + 64) * 256 + 128 ≤ s.tick → ∃ t, exec .checkpointAbandon s = .next t ∧
      t = ({ s with fov := { s.fov with asm := none } } : State).bumpSat R.fov_CKPT_FAIL 1 ∧ t.fov.asm = none ∧ t.rd R.fov_CKPT_FAIL = satAdd (s.rd R.fov_CKPT_FAIL) 1) ∧
    (s.tick < (a.sf + 64) * 256 + 128 → exec .checkpointAbandon s = .next s)) ∧
  (∀ s : State, s.fov.tx = none → s.fov.asm = none → exec .checkpointAbandon s = .next s) ∧
  (∀ s : State, s.isHead = true → s.inReset .fov = false → s.net.seg ≠ 0 → s.segTaken = true → ∃ t, exec .demotionCheck s = .next t ∧
    t.isStandby = true ∧ t.watchSeg = s.net.seg % 65536 ∧ t.net.seg = 0 ∧ t.net.index = 0 ∧ t.fov.autoArm = true ∧ t.rb (hdr .fov oRaw) 5 = true ∧ ChangesOnly (touches .demotionCheck) s t) ∧
  (∀ s : State, s.segTaken = false ∨ s.isHead = false ∨ s.inReset .fov = true ∨ s.net.seg = 0 → exec .demotionCheck s = .next s)) ∧
  ((∀ (m : Master) (v : Word) (s : State), PageOpen s .fov m →
    (s.fov.kept.isSome = true → fld v 0 16 ≠ s.watchSeg → (∃ t, exec (.fovCfgWrite m v) s = .next t ∧ t = (s.err .fov 0x81 0x40 m).answer .done ∧ t.fov = s.fov ∧ t.watchSeg = s.watchSeg)) ∧
    ((s.fov.kept.isSome = true → fld v 0 16 = s.watchSeg) → tst v 16 = true → s.img = none → (∃ t, exec (.fovCfgWrite m v) s = .next t ∧ t = (s.err .fov 0x80 0x40 m).answer .done ∧ t.fov = s.fov ∧ t.watchSeg = s.watchSeg)) ∧
    ((s.fov.kept.isSome = true → fld v 0 16 = s.watchSeg) → (tst v 16 = true → s.img ≠ none) →
      (∃ t, exec (.fovCfgWrite m v) s = .next t ∧ t = (s.wr R.fov_FOV_CFG (v &&& 0x1FFFF)).rearm.answer .done ∧ t.watchSeg = fld v 0 16 ∧ t.resp = .done))) ∧
  (∀ (m : Master) (s : State), PageOpen s .fov m → (∃ t, exec (.ckptFull m) s = .next t ∧ t = { s with fov := { s.fov with want := true } }.answer .done ∧ t.fov.want = true)) ∧
  (∀ (m : Master) (v : Word) (s : State), PageOpen s .fov m →
    (fld v 16 16 ≠ 0x5EED → (∃ t, exec (.fovRelease (.reg m v)) s = .next t ∧ t = (s.err .fov eBadKey 0x6C m).answer .done ∧ t.fov = s.fov)) ∧
    (fld v 16 16 = 0x5EED → tst v 0 = true → (∃ t, exec (.fovRelease (.reg m v)) s = .next t ∧ t = { s with fov := { s.fov with release := true } }.answer .done ∧ t.fov.release = true ∧ t.resp = .done)) ∧
    (fld v 16 16 = 0x5EED → tst v 0 = false → (∃ t, exec (.fovRelease (.reg m v)) s = .next t ∧ t = s.answer .done ∧ t.fov = s.fov))) ∧
  (∀ (tag : Word) (k : Cmd) (s : State), Ready s 0x0B05 tag k → (∃ t, exec (.fovRelease (.mbx tag)) s = .next t ∧ t = { s with fov := { s.fov with release := true } }.reply k stOk [] [] ∧ t.fov.release = true ∧ Ended k t)) ∧
  (∀ (tag : Word) (k : Cmd) (s : State), Ready s 0x0B04 tag k → (∃ t, exec (.ckptNow tag) s = .next t ∧ t = { s with fov := { s.fov with want := true } }.reply k stOk [] [] ∧ t.fov.want = true ∧ Ended k t)) ∧
  (∀ (tag : Word) (k : Cmd) (s : State), Ready s 0x0B03 tag k → (1 < k.par 2 1 → (∃ t, exec (.fovSet tag) s = .next t ∧ t = s.reply k stBadParam [] [] ∧ Ended k t)) ∧
    (k.par 2 1 ≤ 1 → s.inReset .fov = true → (∃ t, exec (.fovSet tag) s = .next t ∧ t = s.reply k stBusy [] [] ∧ Ended k t)) ∧
    (k.par 2 1 ≤ 1 → s.inReset .fov = false → s.fov.kept.isSome = true → k.par 0 2 ≠ s.watchSeg → (∃ t, exec (.fovSet tag) s = .next t ∧ t = s.reply k stFault (toLe 1 0x81) [] ∧ Ended k t)) ∧
    (k.par 2 1 = 1 → s.inReset .fov = false → (s.fov.kept.isSome = true → k.par 0 2 = s.watchSeg) → s.img = none → (∃ t, exec (.fovSet tag) s = .next t ∧ t = s.reply k stFault (toLe 1 0x80) [] ∧ Ended k t)) ∧
    (k.par 2 1 ≤ 1 → s.inReset .fov = false → (s.fov.kept.isSome = true → k.par 0 2 = s.watchSeg) → (k.par 2 1 = 1 → s.img ≠ none) →
      (∃ t, exec (.fovSet tag) s = .next t ∧ t = (s.wr R.fov_FOV_CFG (w32 (k.par 0 2 + k.par 2 1 * 2 ^ 16))).rearm.reply k stOk [] [] ∧ t.watchSeg = k.par 0 2 ∧ Ended k t))))

/-- A ring-wide mode change commits when every participant is ready, is learned once, and leaves doubt by asking or by its end (derived: R283, R284, R286, R441). -/
def Obligations.RingModeChangesAreDecidedOnce : Prop :=
  ((∀ s : State, ∀ p ∈ [(0x20, Instr.prepare), (0x21, .ready), (0x22, .refuse), (0x23, .ringCommit), (0x24, .ringAbort), (0x25, .ringQuery), (0x26, .ringConfirm)],
    s.ringTake p.1 = none → exec p.2 s = .next s) ∧
  (∀ (x : RingRx) (u t s : State), s.ringTake 0x20 = some (x, t) → t.isHead = true → t.inReset .lvl = false → (∀ q, t.rmc.part = some q → q.id ≠ le x.pay 0 4) →
    (t.ringStage x = (u, none) → ∃ v, exec .prepare s = .next v ∧ v = u.ringSend 0x21 x.spos (x.pay.take 4) ∧ v.ringSt = 1 ∧ v.rmc.part.map (fun q => (q.id, q.coord)) = some (le x.pay 0 4, x.spos)) ∧
    (∀ e, t.ringStage x = (u, some e) → ∃ v, exec .prepare s = .next v ∧ v = u.ringSend 0x22 x.spos (x.pay.take 4 ++ toLe 1 e) ∧ v.rmc = t.rmc)) ∧
  (∀ (x : RingRx) (q : RingPart) (t s : State), s.ringTake 0x20 = some (x, t) → t.isHead = true → t.inReset .lvl = false → t.rmc.part = some q → q.id = le x.pay 0 4 →
    t.ringSt = 1 → ∃ v, exec .prepare s = .next v ∧ v = t.ringSend 0x21 x.spos (x.pay.take 4) ∧ v.rmc = t.rmc ∧ v.lvl = t.lvl) ∧
  (∀ (x : RingRx) (t s : State), s.ringTake 0x20 = some (x, t) → t.isHead = false ∨ t.inReset .lvl = true → exec .prepare s = .next t) ∧
  (∀ (x : RingRx) (s : State), (s.lvl.ann.isSome = true ∨ s.ringBusy = true → s.ringStage x = (s, some 1)) ∧
    (s.lvl.ann = none → s.ringBusy = false → s.timeFor (leWord x.pay 16) = false → s.ringStage x = (s.noTime .lvl (leWord x.pay 16), some 2)) ∧
    (s.lvl.ann = none → s.ringBusy = false → s.timeFor (leWord x.pay 16) = true → modeParamOk (slice x.pay 4 12) = false → s.ringStage x = (s, some 3))) ∧
  (∀ (x : RingRx) (k : RingCoord) (t s : State), s.ringTake 0x21 = some (x, t) → t.rmc.coord = some k → k.id = le x.pay 0 4 → k.decided = none →
    ∃ u, exec .ready s = .next u ∧ u = { t with rmc := { t.rmc with coord := some { k with ready := addOnce k.ready x.spos } } } ∧ ∀ k', u.rmc.coord = some k' → x.spos ∈ k'.ready ∧ k'.refused = k.refused) ∧
  (∀ (x : RingRx) (k : RingCoord) (t s : State), s.ringTake 0x22 = some (x, t) → t.rmc.coord = some k → k.id = le x.pay 0 4 → k.decided = none →
    ∃ u, exec .refuse s = .next u ∧ u = { t with rmc := { t.rmc with coord := some { k with refused := addOnce k.refused x.spos } } } ∧ ∀ k', u.rmc.coord = some k' → x.spos ∈ k'.refused ∧ k'.ready = k.ready) ∧
  (∀ (x : RingRx) (t s : State), (∀ k, t.rmc.coord = some k → k.id ≠ le x.pay 0 4 ∨ k.decided ≠ none) → (s.ringTake 0x21 = some (x, t) → exec .ready s = .next t) ∧
    (s.ringTake 0x22 = some (x, t) → exec .refuse s = .next t)) ∧
  (∀ (k : RingCoord) (s : State), s.rmc.coord = some k → k.decided = none → (k.answered = true ∨ k.d ≤ s.tick) → ∃ t, exec .ringDecide s = .next t ∧
    t.rmc.coord = some { k with decided := some k.allReady } ∧ (s.knownOf k.id = none → t.knownOf k.id = some k.allReady) ∧
    ChangesOnly (touches .ringDecide) s t) ∧
  (∀ (k : RingCoord) (s : State), s.rmc.coord = some k → k.decided = none → k.answered = false → s.tick < k.d → exec .ringDecide s = .next s) ∧
  (∀ s : State, (∀ k, s.rmc.coord = some k → k.decided ≠ none) → exec .ringDecide s = .next s) ∧
  (∀ s : State, (∀ k, s.rmc.coord = some k → k.decided = none) → exec .ringDecisionRepeat s = .next s) ∧
  (∀ (k : RingCoord) (d : Bool) (s : State), s.rmc.coord = some k → k.decided = some d →
    (s.tick < k.c → (k.parts.all fun p => k.conf.contains p) = false → (∃ t, exec .ringDecisionRepeat s = .next t ∧ t = s.sendDecision k d ∧ t.rmc = s.rmc ∧ (s.ibgRuns = true → s.ringFull = false → s.ringKey ≠ none → t.ibg.sent = s.ibg.sent + 1))) ∧
    (k.c ≤ s.tick ∨ (k.parts.all fun p => k.conf.contains p) = true → (∃ t, exec .ringDecisionRepeat s = .next t ∧ t = { s with rmc := { s.rmc with coord := none } } ∧ t.rmc.coord = none)))) ∧
  ((∀ (x : RingRx) (p : RingPart) (t s : State), t.rmc.part = some p → p.id = le x.pay 0 4 → t.ringSt = 1 →
    (s.ringTake 0x23 = some (x, t) → ∃ u, exec .ringCommit s = .next u ∧ u.ringSt = 2 ∧ u.rb (hdr .lvl oRaw) 5 = true ∧ u.lvl = t.lvl ∧
      u.knownOf p.id = some ((t.knownOf p.id).getD true) ∧ ChangesOnly (touches .ringCommit) s u) ∧
    (s.ringTake 0x24 = some (x, t) → ∃ u, exec .ringAbort s = .next u ∧ u.ringSt = 3 ∧ u.rb (hdr .lvl oRaw) 5 = true ∧
      u.knownOf p.id = some ((t.knownOf p.id).getD false) ∧ ChangesOnly (touches .ringAbort) s u)) ∧
  (∀ (x : RingRx) (t s : State), t.rmc.part = none → t.rmc.coord = none → let id := le x.pay 0 4
    (s.ringTake 0x23 = some (x, t) → ∃ u, exec .ringCommit s = .next u ∧ u.ringSt = t.ringSt ∧ u.lvl = t.lvl ∧ u.knownOf id = some ((t.knownOf id).getD true)) ∧
    (s.ringTake 0x24 = some (x, t) → ∃ u, exec .ringAbort s = .next u ∧ u.ringSt = t.ringSt ∧ u.lvl = t.lvl ∧ u.knownOf id = some ((t.knownOf id).getD false))) ∧
  (∀ (x : RingRx) (t s : State), s.ringTake 0x25 = some (x, t) →
    (∀ d, t.knownOf (le x.pay 0 4) = some d → (∃ u, exec .ringQuery s = .next u ∧ u = t.ringConfirm (le x.pay 0 4) (if d then 1 else 2) ∧ u.rmc = t.rmc)) ∧
    (t.knownOf (le x.pay 0 4) = none → exec .ringQuery s = .next t)) ∧
  (∀ (x : RingRx) (t s : State), s.ringTake 0x26 = some (x, t) → let d := byteAt x.pay 4
    ((d = 1 ∨ d = 2) → ∃ u, exec .ringConfirm s = .next u ∧ u = (t.onCoord (le x.pay 0 4) fun k => if k.decided.isSome then { k with conf := addOnce k.conf x.spos } else k).ringLearn
      (le x.pay 0 4) (decide (d = 1)) 0xFF ∧ u.knownOf (le x.pay 0 4) = some ((t.knownOf (le x.pay 0 4)).getD (decide (d = 1)))) ∧
    (d = 0 ∨ 2 < d → exec .ringConfirm s = .next t)) ∧
  (∀ (o : Nat × Nat) (s : State), s.ringOwn = some o → s.ringSt = 4 → (∃ t, exec .ringDoubtQuery s = .next t ∧ t = s.ringSend 0x25 15 (toLe 4 o.1) ∧ t.rmc = s.rmc ∧ (s.ibgRuns = true → s.ringFull = false → s.ringKey ≠ none → t.ibg.sent = s.ibg.sent + 1)) ∧
    (o.2 + 16384 ≤ s.tick → ∃ t, exec .ringDoubtExpiry s = .next t ∧ t.ringSt = 3 ∧ t.rmc.part = none ∧ ChangesOnly (touches .ringDoubtExpiry) s t) ∧
    (s.tick < o.2 + 16384 → exec .ringDoubtExpiry s = .next s)) ∧
  (∀ s : State, s.ringOwn = none ∨ s.ringSt ≠ 4 → exec .ringDoubtQuery s = .next s ∧ exec .ringDoubtExpiry s = .next s) ∧
  (∀ s : State, ∃ t, exec .ringDecisionExpiry s = .next t ∧ (∀ d, d ∈ t.rmc.known ↔ d ∈ s.rmc.known ∧ s.tick < d.2.2 + 16384) ∧ ChangesOnly [.rmc] s t)) ∧
  (∀ (tag : Word) (k : Cmd) (s : State), Ready s 0x0503 tag k →
    (byteAt k.e.param 5 = 1 → k.e.length ≠ 128 → (∃ t, exec (.ringMode tag) s = .next t ∧ t = s.reply k stBadLength [] [] ∧ Ended k t)) ∧
    ((byteAt k.e.param 5 = 1 → k.e.length = 128) →
      (modeParamOk k.e.param = false → (∃ t, exec (.ringMode tag) s = .next t ∧ t = s.reply k stBadParam [] [] ∧ Ended k t)) ∧
      (modeParamOk k.e.param = true → (s.isHead = false ∨ s.takes .lvl = false) → (∃ t, exec (.ringMode tag) s = .next t ∧ t = s.reply k stBusy [] [] ∧ Ended k t)) ∧
      (modeParamOk k.e.param = true → s.isHead = true → s.takes .lvl = true →
        (s.holds = false → (∃ t, exec (.ringMode tag) s = .next t ∧ t = (s.noTime .lvl k.e.apply).reply k stNoTime [] [] ∧ Ended k t)) ∧
        (s.holds = true → s.ringBusy = true → (∃ t, exec (.ringMode tag) s = .next t ∧ t = s.reply k stFault (toLe 1 0x81) [] ∧ Ended k t)) ∧
        (∀ u, s.holds = true → s.ringBusy = false → s.ringBegin (modeParam k.e.param k.bytes) (s.firstC 10) tag = (u, none) → ∃ t, exec (.ringMode tag) s = .next t ∧ t = u.defer k ∧
          t.ringSt = 1 ∧ t.rmc.coord.map (fun q => (q.c, q.d, q.parts)) = some (s.firstC 10, s.firstC 10 - 512, s.otherHeads)) ∧
        (s.holds = true → s.ringBusy = false → s.lvl.ann = none → byteAt k.e.param 5 = 0 → ∃ t, exec (.ringMode tag) s = .next t ∧ t.ringSt = 1 ∧
          t.lvl.ann.map (fun a => a.c) = some (s.firstC 10) ∧ t.rmc.coord.map (fun q => (q.c, q.d, q.parts)) = some (s.firstC 10, s.firstC 10 - 512, s.otherHeads)) ∧
        (s.holds = true → s.ringBusy = false → s.lvl.ann.isSome = true → ∃ t, exec (.ringMode tag) s = .next t ∧ t.lvl = s.lvl ∧ t.rmc = s.rmc ∧ Ended k t ∧
          ChangesOnly (touches (.ringMode tag)) s t))))

/-- An update is begun, received, applied, committed and copied only in its states, and only an image with the target's length and hash is applied (derived: R448, R449, R450, R451, R452, R453, R454, R455, R457, R459, R462). -/
def Obligations.UpdatesAreReceivedCheckedAndCopied : Prop :=
  ((∀ (tag : Word) (k : Cmd) (s : State), ∀ p ∈ [(0x0C00, Instr.updBegin tag), (0x0C01, .updBlock tag), (0x0C03, .updApply tag), (0x0C04, .updCommit tag), (0x0C05, .updAbort tag)],
    Ready s p.1 tag k → (s.coAuth k = none →
      ∃ t, exec p.2 s = .next t ∧ t = (s.ledger 0xE00B 5 0x180 k.e.opcode (k.par 20 4) s.vlt.coCtr).reply k stDenied [] [] ∧ t.upd = s.upd ∧ Ended k t) ∧
    (∀ u, s.coAuth k = some u → u.takes .upd = false → ∃ t, exec p.2 s = .next t ∧ t = u.reply k stBusy [] [] ∧ t.upd = s.upd ∧ Ended k t)) ∧
  (∀ (tag : Word) (k : Cmd) (u s : State), Ready s 0x0C00 tag k → s.coAuth k = some u → u.takes .upd = true →
    (u.upd.st ≠ .idle → u.resumes k.bytes = false → (∃ t, exec (.updBegin tag) s = .next t ∧ t = (u.err .upd 0x80 0 .svc).reply k stBusy [] [] ∧ t.upd = u.upd ∧ Ended k t)) ∧
    (u.upd.st = .idle → k.e.length ≠ 128 → (∃ t, exec (.updBegin tag) s = .next t ∧ t = u.reply k stBadLength [] [] ∧ Ended k t)) ∧
    (k.e.length = 128 → u.resumes k.bytes = true → (∃ t, exec (.updBegin tag) s = .next t ∧ t = u.reply k stOk u.updParam [] ∧ t.upd = u.upd ∧ Ended k t)) ∧
    (u.upd.st = .idle → k.e.length = 128 → u.hdrBad k.bytes = true → (∃ t, exec (.updBegin tag) s = .next t ∧ t = u.reply k stBadParam [] [] ∧ t.upd = u.upd ∧ Ended k t)) ∧
    (u.upd.st = .idle → k.e.length = 128 → u.hdrBad k.bytes = false →
      let t := { u with upd := { u.upd with st := .receiving, hdr := k.bytes, got := 0 } }
      (∃ v, exec (.updBegin tag) s = .next v ∧ v = t.reply k stOk t.updParam [] ∧ v.upd.st = .receiving ∧ v.upd.hdr = k.bytes ∧ v.upd.got = 0 ∧ Ended k v))) ∧
  (∀ (tag : Word) (k : Cmd) (u s : State), Ready s 0x0C01 tag k → s.coAuth k = some u → u.takes .upd = true → let off := k.par 4 4; let n := k.e.length
    (u.upd.st = .applied → (∃ t, exec (.updBlock tag) s = .next t ∧ t = ((u.setUpd .received).err .upd 0x80 0 .svc).reply k stBusy [] [] ∧ t.upd.st = .received ∧ Ended k t)) ∧
    ((u.upd.st = .receiving ∨ u.upd.st = .received) → 0 < n → n ≤ 65536 → (n % 4096 = 0 ∨ off + n = u.dLen) → off % 4096 = 0 → k.par 0 4 = u.dField 8 → off + n ≤ u.dLen →
      (crcOf crc32c k.bytes = k.par 8 4 → ∃ t, exec (.updBlock tag) s = .next t ∧ t = (u.storeBlock off k.bytes).reply k stOk [] [] ∧
        t.emc.user = memWrite u.emc.user (stagDelta + off) k.bytes ∧ t.upd.got = markUnits u.upd.got (off / 4096) (cdiv n 4096) ∧
        (u.upd.st = .receiving → t.upd.st = if t.unitsMissing = 0 then .received else .receiving) ∧ Ended k t) ∧
      (crcOf crc32c k.bytes ≠ k.par 8 4 → ∃ t, exec (.updBlock tag) s = .next t ∧ t = u.reply k stFault [] [] ∧ t.upd = u.upd ∧ Ended k t)) ∧
    ((u.upd.st = .receiving ∨ u.upd.st = .received) → n = 0 ∨ 65536 < n ∨ (n % 4096 ≠ 0 ∧ off + n ≠ u.dLen) →
      ∃ t, exec (.updBlock tag) s = .next t ∧ t = u.reply k stBadLength [] [] ∧ Ended k t) ∧
    ((u.upd.st = .receiving ∨ u.upd.st = .received) → 0 < n → n ≤ 65536 → (n % 4096 = 0 ∨ off + n = u.dLen) → off % 4096 ≠ 0 ∨ k.par 0 4 ≠ u.dField 8 ∨ u.dLen < off + n →
      ∃ t, exec (.updBlock tag) s = .next t ∧ t = u.reply k stBadParam [] [] ∧ Ended k t) ∧
    (u.upd.st = .idle ∨ u.upd.st = .applying ∨ u.upd.st = .copying ∨ u.upd.st = .committed →
      ∃ t, exec (.updBlock tag) s = .next t ∧ t = (u.err .upd 0x80 0 .svc).reply k stBusy [] [] ∧ t.upd = u.upd ∧ Ended k t)) ∧
  (∀ (tag : Word) (k : Cmd) (u s : State), Ready s 0x0C03 tag k → s.coAuth k = some u → u.takes .upd = true →
    (u.upd.st = .received → (∃ t, exec (.updApply tag) s = .next t ∧ t = ({ u with upd := { u.upd with st := .applying } } : State).defer k ∧ t.upd = { u.upd with st := .applying })) ∧
    (u.upd.st ≠ .received → (∃ t, exec (.updApply tag) s = .next t ∧ t = (u.err .upd 0x80 0 .svc).reply k stBusy [] [] ∧ t.upd = u.upd ∧ Ended k t))) ∧
  (∀ (tag : Word) (k : Cmd) (u s : State), Ready s 0x0C04 tag k → s.coAuth k = some u → u.takes .upd = true →
    (u.upd.st = .applied → (∃ t, exec (.updCommit tag) s = .next t ∧ t = ({ u with upd := { u.upd with st := .copying, journal := .copying u.tLen u.tSha, applyAt := k.e.apply, resetAt := none } } : State).defer k ∧ t.upd.st = .copying ∧ t.upd.journal = .copying u.tLen u.tSha)) ∧
    (u.upd.st ≠ .applied → (∃ t, exec (.updCommit tag) s = .next t ∧ t = (u.err .upd 0x80 0 .svc).reply k stBusy [] [] ∧ t.upd = u.upd ∧ Ended k t))) ∧
  (∀ (tag : Word) (k : Cmd) (u s : State), Ready s 0x0C05 tag k → s.coAuth k = some u → u.takes .upd = true →
    ((u.upd.st = .applying ∨ u.upd.st = .copying ∨ u.upd.st = .committed) → (∃ t, exec (.updAbort tag) s = .next t ∧ t = (u.err .upd 0x80 0 .svc).reply k stBusy [] [] ∧ t.upd = u.upd ∧ Ended k t)) ∧
    ((u.upd.st = .idle ∨ u.upd.st = .receiving ∨ u.upd.st = .received ∨ u.upd.st = .applied) →
      (∃ t, exec (.updAbort tag) s = .next t ∧ t = ({ u with upd := { u.upd with st := .idle, hdr := [], got := 0 } } : State).reply k stOk [] [] ∧ t.upd.st = .idle ∧ t.upd.hdr = [] ∧ t.upd.got = 0 ∧ Ended k t)))) ∧
  ((∀ (e : Option Nat) (b : Bytes) (s : State), s.applyResult e = .ok b → sha256 b = s.tSha ∧ b.length = s.tLen) ∧
  (∀ (e : Option Nat) (b : Bytes) (s : State), s.upd.st = .applying → s.inReset .upd = false → s.applyResult e = .ok b → ∃ t, exec (.applyDone e) s = .next t ∧
    t.upd = { s.upd with st := .applied } ∧ t.emc.user = memWrite s.emc.user stagImage b ∧ t.rb (hdr .upd oRaw) 1 = true ∧ ChangesOnly (touches (.applyDone e)) s t) ∧
  (∀ (e : Option Nat) (x : Nat × Nat) (s : State), s.upd.st = .applying → s.inReset .upd = false → s.applyResult e = .error x → ∃ t, exec (.applyDone e) s = .next t ∧
    t.upd = { s.upd with st := .received, applyErr := w32 (x.2 / 16 * 16 + x.1) } ∧ t.emc = s.emc ∧ t.rb (hdr .upd oRaw) 2 = true ∧
    (x.1 = 6 → t.rb (hdr .upd oRaw) 4 = true) ∧ ChangesOnly (touches (.applyDone e)) s t) ∧
  (∀ (c : DWord) (s : State), s.upd.st = .copying → s.inReset .upd = false → ∃ t r, exec (.copyDone c) s = .next t ∧ t.upd.st = .committed ∧ t.upd.journal = .copied ∧
    t.upd.resetAt = some r ∧ (s.at c).tick + 1 ≤ r ∧ t.bootRead 0 s.tLen = memRead s.emc.user stagImage s.tLen ∧ t.emc.user = s.emc.user ∧
    t.rb (hdr .upd oRaw) 3 = true ∧ ChangesOnly (touches (.copyDone c)) s t) ∧
  (∀ (e : Option Nat) (c : DWord) (s : State), (s.upd.st ≠ .applying ∨ s.inReset .upd = true → exec (.applyDone e) s = .next s) ∧ (s.upd.st ≠ .copying ∨ s.inReset .upd = true → exec (.copyDone c) s = .next s))) ∧
  ((∀ (tag : Word) (k : Cmd) (s : State), Ready s 0x0C02 tag k → (∃ t, exec (.updStatus tag) s = .next t ∧ t = s.reply k stOk (toLe 4 s.upd.st.num ++ toLe 4 (s.dField 8) ++ toLe 4 s.unitsMissing) (toLe 2048 s.upd.got.toNat) ∧ Ended k t)) ∧
  (∀ (tag : Word) (k : Cmd) (s : State), Ready s 0x0C06 tag k → (s.upd.archive.getD (k.par 0 1) none = none → (∃ t, exec (.settingsArchiveRead tag) s = .next t ∧ t = s.reply k stBadParam [] [] ∧ Ended k t)) ∧
    (∀ v, s.upd.archive.getD (k.par 0 1) none = some v → (∃ t, exec (.settingsArchiveRead tag) s = .next t ∧ t = s.reply k stOk [] (memRead s.emc.user (setArchive + groupLen * k.par 0 1) groupLen ++ toLe 1 v) ∧ Ended k t))) ∧
  (∀ s : State, s.boot.stage ≠ .booted ∨ s.upd.shipped = true → exec .settingsReset s = .next s) ∧
  (∀ s : State, s.boot.stage = .booted → s.upd.shipped = false → 15 ≤ s.upd.sets.length → ∃ t, exec .settingsReset s = .next t ∧
    (∀ g < 15, t.groupVer g = byteAt (s.bootRead (16 + g) 1) 0 ∧ (s.groupVer g = byteAt (s.bootRead (16 + g) 1) 0 → t.upd.archive.getD g none = s.upd.archive.getD g none)) ∧
    ChangesOnly (touches .settingsReset) s t) ∧
  (∀ s : State, s.boot.stage = .booted → (s.upd.journal = .copied → ∃ t, exec .updBooted s = .next t ∧ t.upd = { s.upd with journal := .idle } ∧ ChangesOnly (touches .updBooted) s t) ∧
    (s.upd.journal ≠ .copied → exec .updBooted s = .next s)) ∧
  (∀ s : State, s.boot.stage ≠ .booted → exec .updBooted s = .next s))

/-- Nodes, graphs, policies, modes and schedules are commanded through the mailbox (derived: R219, R249, R251, R264, R276, R278, R286). -/
def Obligations.HeadCommandsOfTheMailbox : Prop :=
  ((∀ (tag : Word) (k : Cmd) (s : State), Ready s 0x0200 tag k → s.coAuth k = none →
    ∃ t, exec (.nodeEnroll tag) s = .next t ∧ t = (s.ledger 0xE00B 5 0x180 k.e.opcode (k.par 20 4) s.vlt.coCtr).reply k stDenied [] [] ∧ t.net = s.net ∧ Ended k t) ∧
  (∀ (tag : Word) (k : Cmd) (u s : State), Ready s 0x0200 tag k → s.coAuth k = some u →
    (k.e.length ≠ 96 → ∃ t, exec (.nodeEnroll tag) s = .next t ∧ t = u.reply k stBadLength [] [] ∧ t.net = s.net ∧ Ended k t) ∧
    (k.e.length = 96 → (u.isHead = false ∨ u.takes .vlt = false) → ∃ t, exec (.nodeEnroll tag) s = .next t ∧ t = u.reply k stBusy [] [] ∧ t.net = s.net ∧ Ended k t) ∧
    (k.e.length = 96 → u.isHead = true → u.takes .vlt = true → 4095 < k.par 8 2 → ∃ t, exec (.nodeEnroll tag) s = .next t ∧ t = u.reply k stBadParam [] [] ∧ t.net = s.net ∧ Ended k t) ∧
    (k.e.length = 96 → u.isHead = true → u.takes .vlt = true → k.par 8 2 ≤ 4095 → ∃ t, exec (.nodeEnroll tag) s = .next t ∧ Ended k t ∧
      (∀ e, (u.blobToRec k).2 = .error e → t = (u.blobToRec k).1.reply k (vltMbx e) [] [] ∧ t.net = s.net) ∧
      (∀ key, (u.blobToRec k).2 = .ok key → let v := (u.blobToRec k).1.enrolKey (BitVec.ofNat 64 (k.par 0 8)) (k.par 8 2) (k.par 10 1) (decide (k.par 11 1 ≠ 0)) key
        (∀ x, v = some x → t = x.reply k stOk [] [] ∧ t.net = x.net) ∧ (v = none → t = (u.blobToRec k).1.reply k stBadParam [] [] ∧ t.net = s.net)))) ∧
  (∀ (id : DWord) (i cls : Nat) (sl : Bool) (key : Bytes) (s : State), s.rowOf id = none →
    (i ≠ 0 → (∃ n ∈ s.net.nodes, n.index = i) → s.enrolKey id i cls sl key = none) ∧
    ((i ≠ 0 → ∀ n ∈ s.net.nodes, n.index ≠ i) → s.enrolKey id i cls sl key = s.enrol id i cls sl key ∧
      ∀ t, s.enrol id i cls sl key = some t → ∃ n, t.net.nodes = n :: s.net.nodes ∧ n.ident = id ∧ n.index = i ∧ n.key = key ∧ n.cls = cls ∧ n.sleepy = sl ∧ n.st = 1)) ∧
  (∀ (id : DWord) (i cls : Nat) (sl : Bool) (key : Bytes) (r : NodeRow) (s : State), s.rowOf id = some r →
    (i ≠ 0 → i ≠ r.index → s.enrolKey id i cls sl key = none) ∧
    ((i = 0 ∨ i = r.index) → r.st ≠ 3 → r.index = 0 → s.enrolKey id i cls sl key = some (s.setRow { r with key := key, cls := cls, sleepy := sl })) ∧
    ((i = 0 ∨ i = r.index) → r.st ≠ 3 → r.index ≠ 0 →
      s.enrolKey id i cls sl key = some ((s.setRow { r with key := key, cls := cls, sleepy := sl }).recSet id r.index r.nkGen (some key))) ∧
    (∀ w p, (i = 0 ∨ i = r.index) → r.st = 3 → s.wrapKey = some w → kwUnwrap w key = some p → s.enrolKey id i cls sl key = some (s.nextNodeKey r key p)) ∧
    ((i = 0 ∨ i = r.index) → r.st = 3 → (s.wrapKey.bind fun w => kwUnwrap w key) = none → s.enrolKey id i cls sl key = none)) ∧
  (∀ (tag : Word) (k : Cmd) (s : State), Ready s 0x0201 tag k → (s.isHead = false → (∃ t, exec (.nodeRemove tag) s = .next t ∧ t = s.reply k stBusy [] [] ∧ t.net = s.net ∧ Ended k t)) ∧
    (s.isHead = true → s.nodeRow (k.par 0 2) = none → (∃ t, exec (.nodeRemove tag) s = .next t ∧ t = s.reply k stBadParam [] [] ∧ t.net = s.net ∧ Ended k t)) ∧
    (∀ r, s.isHead = true → s.nodeRow (k.par 0 2) = some r → ∃ t, exec (.nodeRemove tag) s = .next t ∧ (∀ n, n ∈ t.net.nodes ↔ n ∈ s.net.nodes ∧ n.ident ≠ r.ident) ∧
      (r.parent = 0 → ∀ c ∈ t.net.children, c.index ≠ k.par 0 2) ∧ Ended k t ∧ ChangesOnly (touches (.nodeRemove tag)) s t)) ∧
  (∀ (tag : Word) (k : Cmd) (s : State), Ready s 0x0202 tag k → (s.isHead = false → (∃ t, exec (.nodeTable tag) s = .next t ∧ t = s.reply k stBusy [] [] ∧ Ended k t)) ∧
    (s.isHead = true → (∃ t, exec (.nodeTable tag) s = .next t ∧ t = s.reply k stOk [] ((List.range 4096).flatMap fun i => s.tableEntry i) ∧ (t.net = s.net ∧ Ended k t)))) ∧
  (∀ (tag : Word) (k : Cmd) (s : State), Ready s 0x0203 tag k → ((1 < k.par 0 1 ∨ 1 < k.par 1 1) → (∃ t, exec (.joinCtrl tag) s = .next t ∧ t = s.reply k stBadParam [] [] ∧ t.net = s.net ∧ Ended k t)) ∧
    (k.par 0 1 ≤ 1 → k.par 1 1 ≤ 1 → ∃ t, exec (.joinCtrl tag) s = .next t ∧ t.rf R.bcn_BCN_CFG 1 1 = k.par 0 1 ∧ t.rf R.bcn_BCN_CFG 2 1 = k.par 1 1 ∧
      t.net.joinEnd = (if k.par 2 2 = 0 then none else some (s.sf + k.par 2 2)) ∧ Ended k t ∧ ChangesOnly (touches (.joinCtrl tag)) s t))) ∧
  ((∀ (tag : Word) (k : Cmd) (s : State), Ready s 0x0400 tag k → s.cor.check = 0 → (k.e.length ≠ graphLen → (∃ t, exec (.graphLoad tag) s = .next t ∧ t = s.reply k stBadLength [] [] ∧ t.cor = s.cor ∧ Ended k t)) ∧
    (k.e.length = graphLen → (s.takes .cor = false ∨ s.isHead = false ∨ s.inReset .emc = true) → (∃ t, exec (.graphLoad tag) s = .next t ∧ t = s.reply k stBusy [] [] ∧ t.cor = s.cor ∧ Ended k t)) ∧
    (k.e.length = graphLen → s.takes .cor = true → s.isHead = true → s.inReset .emc = false → ∃ t j, exec (.graphLoad tag) s = .next t ∧ t.cor.check = 2 ∧
      t.cor.newest = some j ∧ (∀ n, s.cor.newest = some n → j = 1 - n) ∧ t.emc.user = memWrite s.emc.user (graphCopy j) k.bytes ∧ ChangesOnly (touches (.graphLoad tag)) s t)) ∧
  (∀ (tag : Word) (s : State), s.cor.check ≠ 0 → exec (.graphLoad tag) s = .next s) ∧
  (∀ (tag : Word) (k : Cmd) (s : State), Ready s 0x0401 tag k → (k.e.length ≠ 256 → (∃ t, exec (.policySet tag) s = .next t ∧ t = s.reply k stBadLength [] [] ∧ t.cor = s.cor ∧ Ended k t)) ∧
    (k.e.length = 256 → s.inReset .cor = true → (∃ t, exec (.policySet tag) s = .next t ∧ t = s.reply k stBusy [] [] ∧ t.cor = s.cor ∧ Ended k t)) ∧
    (k.e.length = 256 → s.inReset .cor = false → ((∃ i < 128, 1000 < le k.bytes (2 * i) 2) ∨ 1024 < k.par 0 2) → (∃ t, exec (.policySet tag) s = .next t ∧ t = s.reply k stBadParam [] [] ∧ t.cor = s.cor ∧ Ended k t)) ∧
    (∀ at', k.e.length = 256 → s.inReset .cor = false → (∀ i < 128, le k.bytes (2 * i) 2 ≤ 1000) → k.par 0 2 ≤ 1024 → at' = s.applyOf k.e.apply →
      s.timeFor at' = true → later at' s.tick32 = true → ∃ t p, exec (.policySet tag) s = .next t ∧ t.cor.polAt = some (s.fullTick at', p) ∧ p.wx = k.par 0 2 ∧
        (∀ i < 64, p.floors.getD i 0 = le k.bytes (2 * i) 2 ∧ p.caps.getD i 0 = le k.bytes (128 + 2 * i) 2) ∧ t.rb R.cor_COR_STAT 5 = true ∧
        Ended k t ∧ ChangesOnly (touches (.policySet tag)) s t)) ∧
  (∀ (tag : Word) (k : Cmd) (s : State), Ready s 0x0402 tag k → (s.inReset .cor = true → (∃ t, exec (.weatherSet tag) s = .next t ∧ t = s.reply k stBusy [] [] ∧ t.cor = s.cor ∧ Ended k t)) ∧
    (s.inReset .cor = false → 1024 < k.par 0 2 → (∃ t, exec (.weatherSet tag) s = .next t ∧ t = s.reply k stBadParam [] [] ∧ t.cor = s.cor ∧ Ended k t)) ∧
    (s.inReset .cor = false → k.par 0 2 ≤ 1024 → let at' := s.applyOf k.e.apply
      ∃ t, exec (.weatherSet tag) s = .next t ∧ t = (s.wr R.cor_WX (w32 (k.par 0 2))).policyReply k ∧ t.rd R.cor_WX = w32 (k.par 0 2) ∧ Ended k t ∧
        (s.timeFor at' = true → later at' s.tick32 = true → t.rb R.cor_COR_STAT 5 = true ∧ ∃ p, t.cor.polAt = some (s.fullTick at', p) ∧ p.wx = k.par 0 2) ∧
        (s.timeFor at' = false ∨ later at' s.tick32 = false → t.cor = s.cor))) ∧
  (∀ (tag : Word) (k : Cmd) (s : State), Ready s 0x0403 tag k → (s.inReset .cor = true → (∃ t, exec (.tracksGet tag) s = .next t ∧ t = s.reply k stBusy [] [] ∧ t.cor = s.cor ∧ Ended k t)) ∧
    (s.inReset .cor = false → (∃ t, exec (.tracksGet tag) s = .next t ∧ t = s.reply k stOk [] ((List.range 1024).flatMap fun i => (List.range 4).flatMap fun j => toLe 4 (trackWord (Sparse.find s.cor.view i) j).toNat) ∧ t.cor = s.cor ∧ Ended k t)))) ∧
  ((∀ (tag : Word) (k : Cmd) (s : State), Ready s 0x0500 tag k → let m := modeParam k.e.param k.bytes
    (byteAt k.e.param 5 = 1 → k.e.length ≠ 128 → (∃ t, exec (.modeSet tag) s = .next t ∧ t = s.reply k stBadLength [] [] ∧ t.lvl = s.lvl ∧ Ended k t)) ∧
    ((byteAt k.e.param 5 = 1 → k.e.length = 128) → modeParamOk k.e.param = false → (∃ t, exec (.modeSet tag) s = .next t ∧ t = s.reply k stBadParam [] [] ∧ t.lvl = s.lvl ∧ Ended k t)) ∧
    ((byteAt k.e.param 5 = 1 → k.e.length = 128) → modeParamOk k.e.param = true →
      ((s.isHead = false ∨ s.takes .lvl = false) → (∃ t, exec (.modeSet tag) s = .next t ∧ t = s.reply k stBusy [] [] ∧ t.lvl = s.lvl ∧ Ended k t)) ∧
      (s.isHead = true → s.takes .lvl = true → s.holds = false → (∃ t, exec (.modeSet tag) s = .next t ∧ t = (s.noTime .lvl k.e.apply).reply k stNoTime [] [] ∧ Ended k t)) ∧
      (s.isHead = true → s.takes .lvl = true → s.holds = true → let u := { s with lvl := { s.lvl with hopData := m.hop.getD s.lvl.hopData } }
        let c := if k.e.apply = 0 then s.firstC 9 else s.fullTick k.e.apply
        (s.lvl.ann.isSome = true → (∃ t, exec (.modeSet tag) s = .next t ∧ t = u.reply k stFault (toLe 1 0x80) [] ∧ t.lvl = u.lvl ∧ Ended k t)) ∧
        (s.lvl.ann = none → c % 256 = 0 → s.tick + 2304 ≤ c → (∀ l, m.hop = some l → s.hopListOk l = true) → ∃ t a, exec (.modeSet tag) s = .next t ∧ t.lvl.ann = some a ∧
          a.mode = m ∧ a.c = c ∧ a.tag = some tag ∧ t.mbx.m2h = s.mbx.m2h ∧ ChangesOnly (touches (.modeSet tag)) s t)))) ∧
  (∀ (tag : Word) (k : Cmd) (s : State), Ready s 0x0501 tag k → (s.lvl.ann = none → (∃ t, exec (.modeCancel tag) s = .next t ∧ t = s.reply k stOk (toLe 1 0) [] ∧ t.lvl = s.lvl ∧ Ended k t)) ∧
    (∀ u, s.cancelAnn = (u, 2) → (∃ t, exec (.modeCancel tag) s = .next t ∧ t = u.reply k stFault (toLe 1 0x80) [] ∧ t.lvl = s.lvl ∧ Ended k t)) ∧
    (∀ u, s.cancelAnn = (u, 1) → ∃ t, exec (.modeCancel tag) s = .next t ∧ t = u.reply k stOk (toLe 1 1) [] ∧ t.lvl.ann = none ∧ Ended k t)) ∧
  (∀ (tag : Word) (k : Cmd) (s : State), Ready s 0x0502 tag k → (∃ t, exec (.modeStatus tag) s = .next t ∧ t = s.reply k stOk (toLe 2 s.epoch ++ toLe 2 s.appliedN ++ toLe 2 s.lvl.late) ((List.range 128).flatMap fun i => toLe 4 (s.rn (R.lvl_APPLIEDi i))) ∧ t.lvl = s.lvl ∧ Ended k t)) ∧
  (∀ (tag : Word) (k : Cmd) (s : State), Ready s 0x0504 tag k → let n := k.e.length / 6
    ((k.e.length % 6 ≠ 0 ∨ 8 < n) → (∃ t, exec (.schedPush tag) s = .next t ∧ t = s.reply k stBadLength [] [] ∧ Ended k t)) ∧
    (k.e.length % 6 = 0 → n ≤ 8 → s.isHead = false → (∃ t, exec (.schedPush tag) s = .next t ∧ t = s.reply k stBusy [] [] ∧ Ended k t)) ∧
    (k.e.length % 6 = 0 → n ≤ 8 → s.isHead = true → (∃ r ∈ s.net.nodes, r.index = k.par 0 2 ∧ r.st = 3) → (∀ j < n, le k.bytes (6 * j) 4 ≤ 86399) →
      ∃ t, exec (.schedPush tag) s = .next t ∧ t = (s.commandTo (k.par 0 2) 0x0512 (toLe 1 n ++ k.bytes)).reply k stOk [] [] ∧ Ended k t) ∧
    (k.e.length % 6 = 0 → n ≤ 8 → s.isHead = true → ((∀ r ∈ s.net.nodes, r.index = k.par 0 2 → r.st ≠ 3) ∨ ∃ j < n, 86399 < le k.bytes (6 * j) 4) →
      ∃ t, exec (.schedPush tag) s = .next t ∧ t = s.reply k stBadParam [] [] ∧ Ended k t)))
end

