-- ==== Sys2Proof/Laws/Sparse.lean ====
section
/-! SUPPORT. Laws of sparse data and of byte stores: reading after writing, and that every operation keeps the canonical form. -/

namespace Sys2Proof.Machine

open Sys2Proof

/-! ### Reading after writing -/

theorem Sparse.find_del_same {α : Type} (l : Sparse α) (a : Nat) : Sparse.find (Sparse.del l a) a = none := by
  induction l with
  | nil => rfl
  | cons p r ih =>
    obtain ⟨k, v⟩ := p
    by_cases h : k = a <;> simp_all [Sparse.del, Sparse.find]

theorem Sparse.find_del_ne {α : Type} (l : Sparse α) {a b : Nat} (h : b ≠ a) : Sparse.find (Sparse.del l a) b = Sparse.find l b := by
  induction l with
  | nil => rfl
  | cons p r ih =>
    obtain ⟨k, v⟩ := p
    by_cases hk : k = a
    · subst hk; simpa [Sparse.del, Sparse.find, h.symm] using ih
    · simp only [Sparse.del, bne_iff_ne, ne_eq, hk, not_false_eq_true, List.filter_cons_of_pos] at ih ⊢
      simp only [Sparse.find, ih]

theorem Sparse.find_ins_same {α : Type} (l : Sparse α) (a : Nat) (v : α) (h : Sparse.find l a = none) :
    Sparse.find (Sparse.ins a v l) a = some v := by
  induction l with
  | nil => simp [Sparse.ins, Sparse.find]
  | cons p r ih =>
    obtain ⟨k, x⟩ := p
    simp only [Sparse.ins, Sparse.find] at h ⊢
    split at h
    · cases h
    · split <;> simp_all [Sparse.find]

theorem Sparse.find_ins_ne {α : Type} (l : Sparse α) {a b : Nat} (v : α) (h : b ≠ a) :
    Sparse.find (Sparse.ins a v l) b = Sparse.find l b := by
  induction l with
  | nil => simp [Sparse.ins, Sparse.find, h.symm]
  | cons p r ih =>
    obtain ⟨k, x⟩ := p
    simp only [Sparse.ins]
    split <;> simp [Sparse.find, h.symm, ih]

/-- Reading a key just set gives the value set. -/
@[simp] theorem Sparse.get_set_same {α : Type} [DecidableEq α] (d : Nat → α) (l : Sparse α) (a : Nat) (v : α) :
    Sparse.get d (Sparse.set d l a v) a = v := by
  unfold Sparse.get Sparse.set Sparse.put
  split
  · simp [Sparse.find_del_same, *]
  · simp [Sparse.find_ins_same _ _ _ (Sparse.find_del_same l a)]

/-- Setting a key leaves every other key. -/
theorem Sparse.get_set_ne {α : Type} [DecidableEq α] (d : Nat → α) (l : Sparse α) {a b : Nat} (v : α) (h : b ≠ a) :
    Sparse.get d (Sparse.set d l a v) b = Sparse.get d l b := by
  unfold Sparse.get Sparse.set Sparse.put
  split
  · simp [Sparse.find_del_ne l h]
  · simp [Sparse.find_ins_ne _ _ h, Sparse.find_del_ne l h]

/-! ### The canonical form -/

theorem Sparse.sorted_iff {α : Type} (l : Sparse α) : Sparse.sorted l = true ↔ (l.map Prod.fst).Pairwise (· < ·) := by
  induction l with
  | nil => simp [Sparse.sorted]
  | cons p r ih =>
    obtain ⟨k, v⟩ := p
    cases r with
    | nil => simp [Sparse.sorted]
    | cons q r' =>
      obtain ⟨k', v'⟩ := q
      have e : Sparse.sorted ((k, v) :: (k', v') :: r') = (decide (k < k') && Sparse.sorted ((k', v') :: r')) := rfl
      simp only [e, Bool.and_eq_true, decide_eq_true_eq, ih, List.map_cons, List.pairwise_cons]
      constructor
      · rintro ⟨h1, h2, h3⟩
        refine ⟨?_, h2, h3⟩
        intro a ha
        rcases List.mem_cons.mp ha with rfl | ha
        · exact h1
        · exact Nat.lt_trans h1 (h2 a ha)
      · rintro ⟨h1, h2⟩
        exact ⟨h1 k' (by simp), h2⟩

theorem Sparse.mem_ins {α : Type} (l : Sparse α) (a : Nat) (v : α) (p : Nat × α) : p ∈ Sparse.ins a v l ↔ p = (a, v) ∨ p ∈ l := by
  induction l with
  | nil => simp [Sparse.ins]
  | cons q r ih =>
    obtain ⟨k, x⟩ := q
    simp only [Sparse.ins]
    split <;> simp_all [or_left_comm]

theorem Sparse.ins_sorted {α : Type} (l : Sparse α) (a : Nat) (v : α) (h : (l.map Prod.fst).Pairwise (· < ·))
    (ha : ∀ p ∈ l, p.1 ≠ a) : ((Sparse.ins a v l).map Prod.fst).Pairwise (· < ·) := by
  induction l with
  | nil => simp [Sparse.ins]
  | cons q r ih =>
    obtain ⟨k, x⟩ := q
    simp only [List.map_cons, List.pairwise_cons] at h
    have hk : k ≠ a := ha (k, x) (by simp)
    simp only [Sparse.ins]
    split
    · rename_i hlt
      simp only [List.map_cons, List.pairwise_cons]
      refine ⟨?_, h.1, h.2⟩
      intro b hb
      rcases List.mem_cons.mp hb with rfl | hb
      · exact hlt
      · exact Nat.lt_trans hlt (h.1 b hb)
    · rename_i hge
      simp only [List.map_cons, List.pairwise_cons]
      refine ⟨?_, ih h.2 fun p hp => ha p (by simp [hp])⟩
      intro b hb
      obtain ⟨p, hp, rfl⟩ := List.mem_map.mp hb
      rcases (Sparse.mem_ins r a v p).mp hp with rfl | hp
      · simp; omega
      · exact h.1 _ (List.mem_map.mpr ⟨p, hp, rfl⟩)

/-- Removing a key keeps keys rising. -/
theorem Sparse.del_sorted {α : Type} (l : Sparse α) (a : Nat) (h : Sparse.sorted l = true) : Sparse.sorted (Sparse.del l a) = true := by
  rw [Sparse.sorted_iff] at h ⊢
  exact h.sublist (List.filter_sublist.map _)

/-- Putting a value keeps keys rising. -/
theorem Sparse.put_sorted {α : Type} (l : Sparse α) (a : Nat) (v : α) (h : Sparse.sorted l = true) : Sparse.sorted (Sparse.put l a v) = true := by
  have hd := Sparse.del_sorted l a h
  rw [Sparse.sorted_iff] at hd ⊢
  exact Sparse.ins_sorted _ _ _ hd (by intro p hp; simpa [Sparse.del] using (List.mem_filter.mp hp).2)

/-- Setting a value keeps the canonical form. -/
theorem Sparse.set_wf {α : Type} [DecidableEq α] (d : Nat → α) (l : Sparse α) (a : Nat) (v : α) (h : Sparse.wf d l = true) :
    Sparse.wf d (Sparse.set d l a v) = true := by
  simp only [Sparse.wf, Bool.and_eq_true, List.all_eq_true, decide_eq_true_eq] at h ⊢
  unfold Sparse.set
  split
  · exact ⟨Sparse.del_sorted l a h.1, fun p hp => h.2 p (List.mem_filter.mp hp).1⟩
  · rename_i hv
    refine ⟨Sparse.put_sorted l a v h.1, fun p hp => ?_⟩
    rcases (Sparse.mem_ins _ a v p).mp hp with rfl | hp
    · exact hv
    · exact h.2 p (List.mem_filter.mp hp).1

/-! ### Byte stores -/

/-- A byte just stored reads back. -/
@[simp] theorem memGet_memSet_same (m : Sparse Byte) (a : Nat) (v : Byte) : memGet (memSet m a v) a = v :=
  Sparse.get_set_same _ _ _ _

/-- Keeping some of the entries keeps the canonical form. -/
theorem Sparse.filter_wf {α : Type} [DecidableEq α] (d : Nat → α) (q : Nat × α → Bool) (l : Sparse α) (h : Sparse.wf d l = true) :
    Sparse.wf d (l.filter q) = true := by
  simp only [Sparse.wf, Bool.and_eq_true, List.all_eq_true, decide_eq_true_eq] at h ⊢
  refine ⟨?_, fun p hp => h.2 p (List.mem_filter.mp hp).1⟩
  have := h.1
  rw [Sparse.sorted_iff] at this ⊢
  exact this.sublist (List.filter_sublist.map _)

/-- A change of values that keeps the addresses and makes no value a default one keeps the canonical form. -/
theorem Sparse.filterMap_wf {α : Type} [DecidableEq α] (d : Nat → α) (f : Nat × α → Option (Nat × α)) (l : Sparse α)
    (hf : ∀ p q, f p = some q → p.2 ≠ d p.1 → q.1 = p.1 ∧ q.2 ≠ d q.1) (h : Sparse.wf d l = true) : Sparse.wf d (l.filterMap f) = true := by
  simp only [Sparse.wf, Bool.and_eq_true, List.all_eq_true, decide_eq_true_eq] at h ⊢
  obtain ⟨hs, hv⟩ := h
  rw [Sparse.sorted_iff] at hs ⊢
  induction l with
  | nil => exact ⟨List.Pairwise.nil, by simp⟩
  | cons p r ih =>
    obtain ⟨h1, h2⟩ := List.pairwise_cons.mp hs
    obtain ⟨i1, i2⟩ := ih h2 fun x hx => hv x (List.mem_cons_of_mem _ hx)
    cases e : f p with
    | none =>
      rw [List.filterMap_cons, e]
      exact ⟨i1, i2⟩
    | some q =>
      obtain ⟨k1, k2⟩ := hf p q e (hv p List.mem_cons_self)
      simp only [List.filterMap_cons, e, List.map_cons, List.pairwise_cons, List.mem_cons, List.mem_map]
      refine ⟨⟨?_, i1⟩, ?_⟩
      · rintro a ⟨x, hx, rfl⟩
        obtain ⟨y, hy, ey⟩ := List.mem_filterMap.mp hx
        have := hf y x ey (hv y (List.mem_cons_of_mem _ hy))
        rw [k1, this.1]
        exact h1 _ (List.mem_map_of_mem hy)
      · rintro x (rfl | hx)
        · exact k2
        · exact i2 x hx

/-- Storing a byte leaves every other byte. -/
theorem memGet_memSet_ne (m : Sparse Byte) {a b : Nat} (v : Byte) (h : b ≠ a) : memGet (memSet m a v) b = memGet m b :=
  Sparse.get_set_ne _ _ _ h

/-- Storing a byte keeps the canonical form. -/
theorem memSet_wf (m : Sparse Byte) (a : Nat) (v : Byte) (h : Memory.wf m = true) : Memory.wf (memSet m a v) = true :=
  Sparse.set_wf _ _ _ _ h

/-- Storing bytes keeps the canonical form. -/
theorem memWrite_wf (m : Sparse Byte) (a : Nat) (b : Bytes) (h : Memory.wf m = true) : Memory.wf (memWrite m a b) = true := by
  induction b generalizing m a with
  | nil => exact h
  | cons x r ih => exact ih _ _ (memSet_wf _ _ _ h)

/-- Storing bytes leaves every byte outside them. -/
theorem memGet_memWrite_outside (m : Sparse Byte) (a : Nat) (b : Bytes) (c : Nat) (h : c < a ∨ a + b.length ≤ c) :
    memGet (memWrite m a b) c = memGet m c := by
  induction b generalizing m a with
  | nil => rfl
  | cons x r ih =>
    simp only [List.length_cons] at h
    rw [memWrite, ih _ _ (by omega), memGet_memSet_ne _ _ (by omega)]

/-- Bytes just stored read back. -/
theorem memRead_memWrite_same (m : Sparse Byte) (a : Nat) (b : Bytes) : memRead (memWrite m a b) a b.length = b := by
  induction b generalizing m a with
  | nil => rfl
  | cons x r ih =>
    simp only [List.length_cons, memRead, memWrite, ih]
    rw [memGet_memWrite_outside _ _ _ _ (by omega), memGet_memSet_same]

/-- A store that lists nothing is canonical. -/
theorem Memory.wf_nil : Memory.wf [] = true := rfl

end Sys2Proof.Machine
end

