-- ==== Sys2Proof/Laws/State.lean ====
section
/-! SUPPORT. What the plain updates of State leave in each field, one lemma a field: storing a register, an output, an answer, a draw of a free value, and a new counter value. -/

namespace Sys2Proof.Machine

open Sys2Proof

@[simp] theorem State.wr_pending (s : State) (a : Nat) (v : Word) : (s.wr a v).pending = s.pending := rfl
@[simp] theorem State.wr_modId (s : State) (a : Nat) (v : Word) : (s.wr a v).modId = s.modId := rfl
@[simp] theorem State.wr_out (s : State) (a : Nat) (v : Word) : (s.wr a v).out = s.out := rfl
@[simp] theorem State.wr_resp (s : State) (a : Nat) (v : Word) : (s.wr a v).resp = s.resp := rfl
@[simp] theorem State.wr_free (s : State) (a : Nat) (v : Word) : (s.wr a v).free = s.free := rfl
@[simp] theorem State.wr_cnt (s : State) (a : Nat) (v : Word) : (s.wr a v).cnt = s.cnt := rfl
@[simp] theorem State.wr_edgeCnt (s : State) (a : Nat) (v : Word) : (s.wr a v).edgeCnt = s.edgeCnt := rfl
@[simp] theorem State.wr_netEdge (s : State) (a : Nat) (v : Word) : (s.wr a v).netEdge = s.netEdge := rfl
@[simp] theorem State.wr_host (s : State) (a : Nat) (v : Word) : (s.wr a v).host = s.host := rfl
@[simp] theorem State.wr_mbx (s : State) (a : Nat) (v : Word) : (s.wr a v).mbx = s.mbx := rfl
@[simp] theorem State.wr_mkt (s : State) (a : Nat) (v : Word) : (s.wr a v).mkt = s.mkt := rfl
@[simp] theorem State.wr_que (s : State) (a : Nat) (v : Word) : (s.wr a v).que = s.que := rfl
@[simp] theorem State.wr_chk (s : State) (a : Nat) (v : Word) : (s.wr a v).chk = s.chk := rfl
@[simp] theorem State.wr_ldg (s : State) (a : Nat) (v : Word) : (s.wr a v).ldg = s.ldg := rfl
@[simp] theorem State.wr_ntm (s : State) (a : Nat) (v : Word) : (s.wr a v).ntm = s.ntm := rfl
@[simp] theorem State.wr_mem (s : State) (a : Nat) (v : Word) : (s.wr a v).mem = s.mem := rfl
@[simp] theorem State.wr_nvs (s : State) (a : Nat) (v : Word) : (s.wr a v).nvs = s.nvs := rfl
@[simp] theorem State.wr_emc (s : State) (a : Nat) (v : Word) : (s.wr a v).emc = s.emc := rfl
@[simp] theorem State.wr_boot (s : State) (a : Nat) (v : Word) : (s.wr a v).boot = s.boot := rfl
@[simp] theorem State.wr_pwt (s : State) (a : Nat) (v : Word) : (s.wr a v).pwt = s.pwt := rfl
@[simp] theorem State.wr_vlt (s : State) (a : Nat) (v : Word) : (s.wr a v).vlt = s.vlt := rfl
@[simp] theorem State.wr_cry (s : State) (a : Nat) (v : Word) : (s.wr a v).cry = s.cry := rfl
@[simp] theorem State.wr_rad (s : State) (a : Nat) (v : Word) : (s.wr a v).rad = s.rad := rfl
@[simp] theorem State.wr_chn (s : State) (a : Nat) (v : Word) : (s.wr a v).chn = s.chn := rfl
@[simp] theorem State.wr_lnk (s : State) (a : Nat) (v : Word) : (s.wr a v).lnk = s.lnk := rfl
@[simp] theorem State.wr_bcn (s : State) (a : Nat) (v : Word) : (s.wr a v).bcn = s.bcn := rfl
@[simp] theorem State.wr_net (s : State) (a : Nat) (v : Word) : (s.wr a v).net = s.net := rfl
@[simp] theorem State.wr_cor (s : State) (a : Nat) (v : Word) : (s.wr a v).cor = s.cor := rfl
@[simp] theorem State.wr_lvl (s : State) (a : Nat) (v : Word) : (s.wr a v).lvl = s.lvl := rfl
@[simp] theorem State.wr_fsw (s : State) (a : Nat) (v : Word) : (s.wr a v).fsw = s.fsw := rfl
@[simp] theorem State.wr_port (s : State) (a : Nat) (v : Word) : (s.wr a v).port = s.port := rfl
@[simp] theorem State.wr_drg (s : State) (a : Nat) (v : Word) : (s.wr a v).drg = s.drg := rfl
@[simp] theorem State.wr_scl (s : State) (a : Nat) (v : Word) : (s.wr a v).scl = s.scl := rfl
@[simp] theorem State.wr_nrg (s : State) (a : Nat) (v : Word) : (s.wr a v).nrg = s.nrg := rfl
@[simp] theorem State.wr_ibg (s : State) (a : Nat) (v : Word) : (s.wr a v).ibg = s.ibg := rfl
@[simp] theorem State.wr_rmc (s : State) (a : Nat) (v : Word) : (s.wr a v).rmc = s.rmc := rfl
@[simp] theorem State.wr_fov (s : State) (a : Nat) (v : Word) : (s.wr a v).fov = s.fov := rfl
@[simp] theorem State.wr_upd (s : State) (a : Nat) (v : Word) : (s.wr a v).upd = s.upd := rfl

@[simp] theorem State.emit_pending (s : State) (o : Out) : (s.emit o).pending = s.pending := rfl
@[simp] theorem State.emit_modId (s : State) (o : Out) : (s.emit o).modId = s.modId := rfl
@[simp] theorem State.emit_regs (s : State) (o : Out) : (s.emit o).regs = s.regs := rfl
@[simp] theorem State.emit_resp (s : State) (o : Out) : (s.emit o).resp = s.resp := rfl
@[simp] theorem State.emit_free (s : State) (o : Out) : (s.emit o).free = s.free := rfl
@[simp] theorem State.emit_cnt (s : State) (o : Out) : (s.emit o).cnt = s.cnt := rfl
@[simp] theorem State.emit_edgeCnt (s : State) (o : Out) : (s.emit o).edgeCnt = s.edgeCnt := rfl
@[simp] theorem State.emit_netEdge (s : State) (o : Out) : (s.emit o).netEdge = s.netEdge := rfl
@[simp] theorem State.emit_host (s : State) (o : Out) : (s.emit o).host = s.host := rfl
@[simp] theorem State.emit_mbx (s : State) (o : Out) : (s.emit o).mbx = s.mbx := rfl
@[simp] theorem State.emit_mkt (s : State) (o : Out) : (s.emit o).mkt = s.mkt := rfl
@[simp] theorem State.emit_que (s : State) (o : Out) : (s.emit o).que = s.que := rfl
@[simp] theorem State.emit_chk (s : State) (o : Out) : (s.emit o).chk = s.chk := rfl
@[simp] theorem State.emit_ldg (s : State) (o : Out) : (s.emit o).ldg = s.ldg := rfl
@[simp] theorem State.emit_ntm (s : State) (o : Out) : (s.emit o).ntm = s.ntm := rfl
@[simp] theorem State.emit_mem (s : State) (o : Out) : (s.emit o).mem = s.mem := rfl
@[simp] theorem State.emit_nvs (s : State) (o : Out) : (s.emit o).nvs = s.nvs := rfl
@[simp] theorem State.emit_emc (s : State) (o : Out) : (s.emit o).emc = s.emc := rfl
@[simp] theorem State.emit_boot (s : State) (o : Out) : (s.emit o).boot = s.boot := rfl
@[simp] theorem State.emit_pwt (s : State) (o : Out) : (s.emit o).pwt = s.pwt := rfl
@[simp] theorem State.emit_vlt (s : State) (o : Out) : (s.emit o).vlt = s.vlt := rfl
@[simp] theorem State.emit_cry (s : State) (o : Out) : (s.emit o).cry = s.cry := rfl
@[simp] theorem State.emit_rad (s : State) (o : Out) : (s.emit o).rad = s.rad := rfl
@[simp] theorem State.emit_chn (s : State) (o : Out) : (s.emit o).chn = s.chn := rfl
@[simp] theorem State.emit_lnk (s : State) (o : Out) : (s.emit o).lnk = s.lnk := rfl
@[simp] theorem State.emit_bcn (s : State) (o : Out) : (s.emit o).bcn = s.bcn := rfl
@[simp] theorem State.emit_net (s : State) (o : Out) : (s.emit o).net = s.net := rfl
@[simp] theorem State.emit_cor (s : State) (o : Out) : (s.emit o).cor = s.cor := rfl
@[simp] theorem State.emit_lvl (s : State) (o : Out) : (s.emit o).lvl = s.lvl := rfl
@[simp] theorem State.emit_fsw (s : State) (o : Out) : (s.emit o).fsw = s.fsw := rfl
@[simp] theorem State.emit_port (s : State) (o : Out) : (s.emit o).port = s.port := rfl
@[simp] theorem State.emit_drg (s : State) (o : Out) : (s.emit o).drg = s.drg := rfl
@[simp] theorem State.emit_scl (s : State) (o : Out) : (s.emit o).scl = s.scl := rfl
@[simp] theorem State.emit_nrg (s : State) (o : Out) : (s.emit o).nrg = s.nrg := rfl
@[simp] theorem State.emit_ibg (s : State) (o : Out) : (s.emit o).ibg = s.ibg := rfl
@[simp] theorem State.emit_rmc (s : State) (o : Out) : (s.emit o).rmc = s.rmc := rfl
@[simp] theorem State.emit_fov (s : State) (o : Out) : (s.emit o).fov = s.fov := rfl
@[simp] theorem State.emit_upd (s : State) (o : Out) : (s.emit o).upd = s.upd := rfl

@[simp] theorem State.answer_pending (s : State) (r : Resp) : (s.answer r).pending = s.pending := rfl
@[simp] theorem State.answer_modId (s : State) (r : Resp) : (s.answer r).modId = s.modId := rfl
@[simp] theorem State.answer_regs (s : State) (r : Resp) : (s.answer r).regs = s.regs := rfl
@[simp] theorem State.answer_out (s : State) (r : Resp) : (s.answer r).out = s.out := rfl
@[simp] theorem State.answer_free (s : State) (r : Resp) : (s.answer r).free = s.free := rfl
@[simp] theorem State.answer_cnt (s : State) (r : Resp) : (s.answer r).cnt = s.cnt := rfl
@[simp] theorem State.answer_edgeCnt (s : State) (r : Resp) : (s.answer r).edgeCnt = s.edgeCnt := rfl
@[simp] theorem State.answer_netEdge (s : State) (r : Resp) : (s.answer r).netEdge = s.netEdge := rfl
@[simp] theorem State.answer_host (s : State) (r : Resp) : (s.answer r).host = s.host := rfl
@[simp] theorem State.answer_mbx (s : State) (r : Resp) : (s.answer r).mbx = s.mbx := rfl
@[simp] theorem State.answer_mkt (s : State) (r : Resp) : (s.answer r).mkt = s.mkt := rfl
@[simp] theorem State.answer_que (s : State) (r : Resp) : (s.answer r).que = s.que := rfl
@[simp] theorem State.answer_chk (s : State) (r : Resp) : (s.answer r).chk = s.chk := rfl
@[simp] theorem State.answer_ldg (s : State) (r : Resp) : (s.answer r).ldg = s.ldg := rfl
@[simp] theorem State.answer_ntm (s : State) (r : Resp) : (s.answer r).ntm = s.ntm := rfl
@[simp] theorem State.answer_mem (s : State) (r : Resp) : (s.answer r).mem = s.mem := rfl
@[simp] theorem State.answer_nvs (s : State) (r : Resp) : (s.answer r).nvs = s.nvs := rfl
@[simp] theorem State.answer_emc (s : State) (r : Resp) : (s.answer r).emc = s.emc := rfl
@[simp] theorem State.answer_boot (s : State) (r : Resp) : (s.answer r).boot = s.boot := rfl
@[simp] theorem State.answer_pwt (s : State) (r : Resp) : (s.answer r).pwt = s.pwt := rfl
@[simp] theorem State.answer_vlt (s : State) (r : Resp) : (s.answer r).vlt = s.vlt := rfl
@[simp] theorem State.answer_cry (s : State) (r : Resp) : (s.answer r).cry = s.cry := rfl
@[simp] theorem State.answer_rad (s : State) (r : Resp) : (s.answer r).rad = s.rad := rfl
@[simp] theorem State.answer_chn (s : State) (r : Resp) : (s.answer r).chn = s.chn := rfl
@[simp] theorem State.answer_lnk (s : State) (r : Resp) : (s.answer r).lnk = s.lnk := rfl
@[simp] theorem State.answer_bcn (s : State) (r : Resp) : (s.answer r).bcn = s.bcn := rfl
@[simp] theorem State.answer_net (s : State) (r : Resp) : (s.answer r).net = s.net := rfl
@[simp] theorem State.answer_cor (s : State) (r : Resp) : (s.answer r).cor = s.cor := rfl
@[simp] theorem State.answer_lvl (s : State) (r : Resp) : (s.answer r).lvl = s.lvl := rfl
@[simp] theorem State.answer_fsw (s : State) (r : Resp) : (s.answer r).fsw = s.fsw := rfl
@[simp] theorem State.answer_port (s : State) (r : Resp) : (s.answer r).port = s.port := rfl
@[simp] theorem State.answer_drg (s : State) (r : Resp) : (s.answer r).drg = s.drg := rfl
@[simp] theorem State.answer_scl (s : State) (r : Resp) : (s.answer r).scl = s.scl := rfl
@[simp] theorem State.answer_nrg (s : State) (r : Resp) : (s.answer r).nrg = s.nrg := rfl
@[simp] theorem State.answer_ibg (s : State) (r : Resp) : (s.answer r).ibg = s.ibg := rfl
@[simp] theorem State.answer_rmc (s : State) (r : Resp) : (s.answer r).rmc = s.rmc := rfl
@[simp] theorem State.answer_fov (s : State) (r : Resp) : (s.answer r).fov = s.fov := rfl
@[simp] theorem State.answer_upd (s : State) (r : Resp) : (s.answer r).upd = s.upd := rfl

@[simp] theorem State.draw_pending (s : State) (n : Nat) : (s.draw n).pending = s.pending := rfl
@[simp] theorem State.draw_modId (s : State) (n : Nat) : (s.draw n).modId = s.modId := rfl
@[simp] theorem State.draw_regs (s : State) (n : Nat) : (s.draw n).regs = s.regs := rfl
@[simp] theorem State.draw_out (s : State) (n : Nat) : (s.draw n).out = s.out := rfl
@[simp] theorem State.draw_resp (s : State) (n : Nat) : (s.draw n).resp = s.resp := rfl
@[simp] theorem State.draw_cnt (s : State) (n : Nat) : (s.draw n).cnt = s.cnt := rfl
@[simp] theorem State.draw_edgeCnt (s : State) (n : Nat) : (s.draw n).edgeCnt = s.edgeCnt := rfl
@[simp] theorem State.draw_netEdge (s : State) (n : Nat) : (s.draw n).netEdge = s.netEdge := rfl
@[simp] theorem State.draw_host (s : State) (n : Nat) : (s.draw n).host = s.host := rfl
@[simp] theorem State.draw_mbx (s : State) (n : Nat) : (s.draw n).mbx = s.mbx := rfl
@[simp] theorem State.draw_mkt (s : State) (n : Nat) : (s.draw n).mkt = s.mkt := rfl
@[simp] theorem State.draw_que (s : State) (n : Nat) : (s.draw n).que = s.que := rfl
@[simp] theorem State.draw_chk (s : State) (n : Nat) : (s.draw n).chk = s.chk := rfl
@[simp] theorem State.draw_ldg (s : State) (n : Nat) : (s.draw n).ldg = s.ldg := rfl
@[simp] theorem State.draw_ntm (s : State) (n : Nat) : (s.draw n).ntm = s.ntm := rfl
@[simp] theorem State.draw_mem (s : State) (n : Nat) : (s.draw n).mem = s.mem := rfl
@[simp] theorem State.draw_nvs (s : State) (n : Nat) : (s.draw n).nvs = s.nvs := rfl
@[simp] theorem State.draw_emc (s : State) (n : Nat) : (s.draw n).emc = s.emc := rfl
@[simp] theorem State.draw_boot (s : State) (n : Nat) : (s.draw n).boot = s.boot := rfl
@[simp] theorem State.draw_pwt (s : State) (n : Nat) : (s.draw n).pwt = s.pwt := rfl
@[simp] theorem State.draw_vlt (s : State) (n : Nat) : (s.draw n).vlt = s.vlt := rfl
@[simp] theorem State.draw_cry (s : State) (n : Nat) : (s.draw n).cry = s.cry := rfl
@[simp] theorem State.draw_rad (s : State) (n : Nat) : (s.draw n).rad = s.rad := rfl
@[simp] theorem State.draw_chn (s : State) (n : Nat) : (s.draw n).chn = s.chn := rfl
@[simp] theorem State.draw_lnk (s : State) (n : Nat) : (s.draw n).lnk = s.lnk := rfl
@[simp] theorem State.draw_bcn (s : State) (n : Nat) : (s.draw n).bcn = s.bcn := rfl
@[simp] theorem State.draw_net (s : State) (n : Nat) : (s.draw n).net = s.net := rfl
@[simp] theorem State.draw_cor (s : State) (n : Nat) : (s.draw n).cor = s.cor := rfl
@[simp] theorem State.draw_lvl (s : State) (n : Nat) : (s.draw n).lvl = s.lvl := rfl
@[simp] theorem State.draw_fsw (s : State) (n : Nat) : (s.draw n).fsw = s.fsw := rfl
@[simp] theorem State.draw_port (s : State) (n : Nat) : (s.draw n).port = s.port := rfl
@[simp] theorem State.draw_drg (s : State) (n : Nat) : (s.draw n).drg = s.drg := rfl
@[simp] theorem State.draw_scl (s : State) (n : Nat) : (s.draw n).scl = s.scl := rfl
@[simp] theorem State.draw_nrg (s : State) (n : Nat) : (s.draw n).nrg = s.nrg := rfl
@[simp] theorem State.draw_ibg (s : State) (n : Nat) : (s.draw n).ibg = s.ibg := rfl
@[simp] theorem State.draw_rmc (s : State) (n : Nat) : (s.draw n).rmc = s.rmc := rfl
@[simp] theorem State.draw_fov (s : State) (n : Nat) : (s.draw n).fov = s.fov := rfl
@[simp] theorem State.draw_upd (s : State) (n : Nat) : (s.draw n).upd = s.upd := rfl

@[simp] theorem State.at_pending (s : State) (c : DWord) : (s.at c).pending = s.pending := rfl
@[simp] theorem State.at_modId (s : State) (c : DWord) : (s.at c).modId = s.modId := rfl
@[simp] theorem State.at_regs (s : State) (c : DWord) : (s.at c).regs = s.regs := rfl
@[simp] theorem State.at_out (s : State) (c : DWord) : (s.at c).out = s.out := rfl
@[simp] theorem State.at_resp (s : State) (c : DWord) : (s.at c).resp = s.resp := rfl
@[simp] theorem State.at_free (s : State) (c : DWord) : (s.at c).free = s.free := rfl
@[simp] theorem State.at_edgeCnt (s : State) (c : DWord) : (s.at c).edgeCnt = s.edgeCnt := rfl
@[simp] theorem State.at_netEdge (s : State) (c : DWord) : (s.at c).netEdge = s.netEdge := rfl
@[simp] theorem State.at_host (s : State) (c : DWord) : (s.at c).host = s.host := rfl
@[simp] theorem State.at_mbx (s : State) (c : DWord) : (s.at c).mbx = s.mbx := rfl
@[simp] theorem State.at_mkt (s : State) (c : DWord) : (s.at c).mkt = s.mkt := rfl
@[simp] theorem State.at_que (s : State) (c : DWord) : (s.at c).que = s.que := rfl
@[simp] theorem State.at_chk (s : State) (c : DWord) : (s.at c).chk = s.chk := rfl
@[simp] theorem State.at_ldg (s : State) (c : DWord) : (s.at c).ldg = s.ldg := rfl
@[simp] theorem State.at_ntm (s : State) (c : DWord) : (s.at c).ntm = s.ntm := rfl
@[simp] theorem State.at_mem (s : State) (c : DWord) : (s.at c).mem = s.mem := rfl
@[simp] theorem State.at_nvs (s : State) (c : DWord) : (s.at c).nvs = s.nvs := rfl
@[simp] theorem State.at_emc (s : State) (c : DWord) : (s.at c).emc = s.emc := rfl
@[simp] theorem State.at_boot (s : State) (c : DWord) : (s.at c).boot = s.boot := rfl
@[simp] theorem State.at_pwt (s : State) (c : DWord) : (s.at c).pwt = s.pwt := rfl
@[simp] theorem State.at_vlt (s : State) (c : DWord) : (s.at c).vlt = s.vlt := rfl
@[simp] theorem State.at_cry (s : State) (c : DWord) : (s.at c).cry = s.cry := rfl
@[simp] theorem State.at_rad (s : State) (c : DWord) : (s.at c).rad = s.rad := rfl
@[simp] theorem State.at_chn (s : State) (c : DWord) : (s.at c).chn = s.chn := rfl
@[simp] theorem State.at_lnk (s : State) (c : DWord) : (s.at c).lnk = s.lnk := rfl
@[simp] theorem State.at_bcn (s : State) (c : DWord) : (s.at c).bcn = s.bcn := rfl
@[simp] theorem State.at_net (s : State) (c : DWord) : (s.at c).net = s.net := rfl
@[simp] theorem State.at_cor (s : State) (c : DWord) : (s.at c).cor = s.cor := rfl
@[simp] theorem State.at_lvl (s : State) (c : DWord) : (s.at c).lvl = s.lvl := rfl
@[simp] theorem State.at_fsw (s : State) (c : DWord) : (s.at c).fsw = s.fsw := rfl
@[simp] theorem State.at_port (s : State) (c : DWord) : (s.at c).port = s.port := rfl
@[simp] theorem State.at_drg (s : State) (c : DWord) : (s.at c).drg = s.drg := rfl
@[simp] theorem State.at_scl (s : State) (c : DWord) : (s.at c).scl = s.scl := rfl
@[simp] theorem State.at_nrg (s : State) (c : DWord) : (s.at c).nrg = s.nrg := rfl
@[simp] theorem State.at_ibg (s : State) (c : DWord) : (s.at c).ibg = s.ibg := rfl
@[simp] theorem State.at_rmc (s : State) (c : DWord) : (s.at c).rmc = s.rmc := rfl
@[simp] theorem State.at_fov (s : State) (c : DWord) : (s.at c).fov = s.fov := rfl
@[simp] theorem State.at_upd (s : State) (c : DWord) : (s.at c).upd = s.upd := rfl

@[simp] theorem State.emit_out (s : State) (o : Out) : (s.emit o).out = o :: s.out := rfl
@[simp] theorem State.answer_resp (s : State) (r : Resp) : (s.answer r).resp = r := rfl
@[simp] theorem State.draw_free (s : State) (n : Nat) : (s.draw n).free = s.free + n := rfl
theorem State.at_cnt (s : State) (c : DWord) : (s.at c).cnt = if (c - s.cnt).toNat < 2 ^ 63 then c else s.cnt := rfl

/-! ### Registers -/

/-- A register just written reads back. -/
@[simp] theorem State.rd_wr_same (s : State) (a : Nat) (v : Word) : (s.wr a v).rd a = v := by
  simp [State.rd, State.wr]

/-- Writing a register leaves every other register. -/
theorem State.rd_wr_ne (s : State) {a b : Nat} (v : Word) (h : b ≠ a) : (s.wr a v).rd b = s.rd b := by
  simp [State.rd, State.wr, Sparse.get_set_ne _ _ _ h]

/-- Reading after a write, both cases. -/
theorem State.rd_wr (s : State) (a b : Nat) (v : Word) : (s.wr a v).rd b = if b = a then v else s.rd b := by
  split
  · simp [*]
  · exact s.rd_wr_ne v ‹_›

/-- A register depends on the stored values and the variant alone. -/
theorem State.rd_congr {s t : State} (h : t.regs = s.regs) (hv : t.modId = s.modId) (a : Nat) : t.rd a = s.rd a := by
  simp [State.rd, h, hv]

@[simp] theorem State.rd_emit (s : State) (o : Out) (a : Nat) : (s.emit o).rd a = s.rd a := rfl
@[simp] theorem State.rd_answer (s : State) (r : Resp) (a : Nat) : (s.answer r).rd a = s.rd a := rfl
@[simp] theorem State.rd_draw (s : State) (n a : Nat) : (s.draw n).rd a = s.rd a := rfl
@[simp] theorem State.rd_at (s : State) (c : DWord) (a : Nat) : (s.at c).rd a = s.rd a := rfl

/-- Writing a register keeps the register file canonical. -/
theorem State.wr_regs_wf (s : State) (a : Nat) (v : Word) (h : Sparse.wf (regDefault s.modId.variantB) s.regs = true) :
    Sparse.wf (regDefault (s.wr a v).modId.variantB) (s.wr a v).regs = true :=
  Sparse.set_wf _ _ _ _ h

end Sys2Proof.Machine
end

