-- ==== Sys2Proof/Laws/Ops.lean ====
section
/-! SUPPORT. What raising an interrupt, recording an error, writing a Ledger record, sending an event and replying to a command can change: one lemma of shape each, its fields, and the registers outside it. -/

namespace Sys2Proof.Machine

open Sys2Proof

/-! ### Vectors -/

/-- A vector fires as a message or as a pending bit, and changes nothing else. -/
theorem State.fireVec_shape (s : State) (v : Nat) : ∃ p o, s.fireVec v = { s with host := { s.host with pba := p }, out := o } := by
  unfold State.fireVec
  split
  · exact ⟨_, s.out, rfl⟩
  · exact ⟨s.host.pba, _, rfl⟩

/-- Firing the vectors of a block that rose changes PBA bits and outputs alone. -/
theorem fireRising_shape (b : Blk) (old : State) (l : List (Nat × Word)) (s : State) :
    ∃ p o, fireRising b old l s = { s with host := { s.host with pba := p }, out := o } := by
  induction l generalizing s with
  | nil => exact ⟨s.host.pba, s.out, rfl⟩
  | cons q r ih =>
    unfold fireRising
    split
    · obtain ⟨p, o, e⟩ := s.fireVec_shape q.1
      obtain ⟨p', o', e'⟩ := ih (s.fireVec q.1)
      exact ⟨p', o', by rw [e', e]⟩
    · exact ih s

/-- Firing the vectors of a block that hold changes PBA bits and outputs alone. -/
theorem fireHolding_shape (b : Blk) (l : List (Nat × Word)) (s : State) :
    ∃ p o, fireHolding b l s = { s with host := { s.host with pba := p }, out := o } := by
  induction l generalizing s with
  | nil => exact ⟨s.host.pba, s.out, rfl⟩
  | cons q r ih =>
    unfold fireHolding
    split
    · obtain ⟨p, o, e⟩ := s.fireVec_shape q.1
      obtain ⟨p', o', e'⟩ := ih (s.fireVec q.1)
      exact ⟨p', o', by rw [e', e]⟩
    · exact ih s

@[simp] theorem fireRising_rd (b : Blk) (old : State) (l : List (Nat × Word)) (s : State) (a : Nat) : (fireRising b old l s).rd a = s.rd a := by
  obtain ⟨p, o, e⟩ := fireRising_shape b old l s; rw [e]; rfl

@[simp] theorem fireHolding_rd (b : Blk) (l : List (Nat × Word)) (s : State) (a : Nat) : (fireHolding b l s).rd a = s.rd a := by
  obtain ⟨p, o, e⟩ := fireHolding_shape b l s; rw [e]; rfl

/-! ### Raising interrupt bits -/

/-- Raising interrupt bits changes IRQ_RAW of the block, PBA bits and outputs alone. -/
theorem State.irqBits_shape (s : State) (b : Blk) (v : Word) :
    ∃ r p o, s.irqBits b v = { s with regs := r, host := { s.host with pba := p }, out := o } := by
  unfold State.irqBits State.irqChange
  obtain ⟨p, o, e⟩ := fireRising_shape b s (blkVecs b) (s.wr (hdr b oRaw) (s.rd (hdr b oRaw) ||| (v &&& w32 (2 ^ blkIrqN b - 1 + 0xC0000000))))
  exact ⟨_, p, o, by rw [e]; rfl⟩

theorem State.irq_shape (s : State) (b : Blk) (i : Nat) :
    ∃ r p o, s.irq b i = { s with regs := r, host := { s.host with pba := p }, out := o } := s.irqBits_shape b (bitw i)

/-- Raising interrupt bits ORs them, as far as the block has them, into IRQ_RAW. -/
@[simp] theorem State.irqBits_rd_raw (s : State) (b : Blk) (v : Word) :
    (s.irqBits b v).rd (hdr b oRaw) = s.rd (hdr b oRaw) ||| (v &&& w32 (2 ^ blkIrqN b - 1 + 0xC0000000)) := by
  simp [State.irqBits, State.irqChange]

/-- Raising interrupt bits leaves every register but IRQ_RAW of the block. -/
theorem State.irqBits_rd_ne (s : State) (b : Blk) (v : Word) {a : Nat} (h : a ≠ hdr b oRaw) : (s.irqBits b v).rd a = s.rd a := by
  simp [State.irqBits, State.irqChange, State.rd_wr_ne _ _ h]

theorem State.irq_rd_ne (s : State) (b : Blk) (i : Nat) {a : Nat} (h : a ≠ hdr b oRaw) : (s.irq b i).rd a = s.rd a :=
  s.irqBits_rd_ne b _ h

@[simp] theorem State.irq_pending (s : State) (b : Blk) (i : Nat) : (s.irq b i).pending = s.pending := by
  obtain ⟨_, _, _, e⟩ := s.irq_shape b i; rw [e]
@[simp] theorem State.irq_modId (s : State) (b : Blk) (i : Nat) : (s.irq b i).modId = s.modId := by
  obtain ⟨_, _, _, e⟩ := s.irq_shape b i; rw [e]
@[simp] theorem State.irq_resp (s : State) (b : Blk) (i : Nat) : (s.irq b i).resp = s.resp := by
  obtain ⟨_, _, _, e⟩ := s.irq_shape b i; rw [e]
@[simp] theorem State.irq_free (s : State) (b : Blk) (i : Nat) : (s.irq b i).free = s.free := by
  obtain ⟨_, _, _, e⟩ := s.irq_shape b i; rw [e]
@[simp] theorem State.irq_cnt (s : State) (b : Blk) (i : Nat) : (s.irq b i).cnt = s.cnt := by
  obtain ⟨_, _, _, e⟩ := s.irq_shape b i; rw [e]
@[simp] theorem State.irq_edgeCnt (s : State) (b : Blk) (i : Nat) : (s.irq b i).edgeCnt = s.edgeCnt := by
  obtain ⟨_, _, _, e⟩ := s.irq_shape b i; rw [e]
@[simp] theorem State.irq_netEdge (s : State) (b : Blk) (i : Nat) : (s.irq b i).netEdge = s.netEdge := by
  obtain ⟨_, _, _, e⟩ := s.irq_shape b i; rw [e]
@[simp] theorem State.irq_mbx (s : State) (b : Blk) (i : Nat) : (s.irq b i).mbx = s.mbx := by
  obtain ⟨_, _, _, e⟩ := s.irq_shape b i; rw [e]
@[simp] theorem State.irq_mkt (s : State) (b : Blk) (i : Nat) : (s.irq b i).mkt = s.mkt := by
  obtain ⟨_, _, _, e⟩ := s.irq_shape b i; rw [e]
@[simp] theorem State.irq_que (s : State) (b : Blk) (i : Nat) : (s.irq b i).que = s.que := by
  obtain ⟨_, _, _, e⟩ := s.irq_shape b i; rw [e]
@[simp] theorem State.irq_chk (s : State) (b : Blk) (i : Nat) : (s.irq b i).chk = s.chk := by
  obtain ⟨_, _, _, e⟩ := s.irq_shape b i; rw [e]
@[simp] theorem State.irq_ldg (s : State) (b : Blk) (i : Nat) : (s.irq b i).ldg = s.ldg := by
  obtain ⟨_, _, _, e⟩ := s.irq_shape b i; rw [e]
@[simp] theorem State.irq_ntm (s : State) (b : Blk) (i : Nat) : (s.irq b i).ntm = s.ntm := by
  obtain ⟨_, _, _, e⟩ := s.irq_shape b i; rw [e]
@[simp] theorem State.irq_mem (s : State) (b : Blk) (i : Nat) : (s.irq b i).mem = s.mem := by
  obtain ⟨_, _, _, e⟩ := s.irq_shape b i; rw [e]
@[simp] theorem State.irq_nvs (s : State) (b : Blk) (i : Nat) : (s.irq b i).nvs = s.nvs := by
  obtain ⟨_, _, _, e⟩ := s.irq_shape b i; rw [e]
@[simp] theorem State.irq_emc (s : State) (b : Blk) (i : Nat) : (s.irq b i).emc = s.emc := by
  obtain ⟨_, _, _, e⟩ := s.irq_shape b i; rw [e]
@[simp] theorem State.irq_boot (s : State) (b : Blk) (i : Nat) : (s.irq b i).boot = s.boot := by
  obtain ⟨_, _, _, e⟩ := s.irq_shape b i; rw [e]
@[simp] theorem State.irq_pwt (s : State) (b : Blk) (i : Nat) : (s.irq b i).pwt = s.pwt := by
  obtain ⟨_, _, _, e⟩ := s.irq_shape b i; rw [e]
@[simp] theorem State.irq_vlt (s : State) (b : Blk) (i : Nat) : (s.irq b i).vlt = s.vlt := by
  obtain ⟨_, _, _, e⟩ := s.irq_shape b i; rw [e]
@[simp] theorem State.irq_cry (s : State) (b : Blk) (i : Nat) : (s.irq b i).cry = s.cry := by
  obtain ⟨_, _, _, e⟩ := s.irq_shape b i; rw [e]
@[simp] theorem State.irq_rad (s : State) (b : Blk) (i : Nat) : (s.irq b i).rad = s.rad := by
  obtain ⟨_, _, _, e⟩ := s.irq_shape b i; rw [e]
@[simp] theorem State.irq_chn (s : State) (b : Blk) (i : Nat) : (s.irq b i).chn = s.chn := by
  obtain ⟨_, _, _, e⟩ := s.irq_shape b i; rw [e]
@[simp] theorem State.irq_lnk (s : State) (b : Blk) (i : Nat) : (s.irq b i).lnk = s.lnk := by
  obtain ⟨_, _, _, e⟩ := s.irq_shape b i; rw [e]
@[simp] theorem State.irq_bcn (s : State) (b : Blk) (i : Nat) : (s.irq b i).bcn = s.bcn := by
  obtain ⟨_, _, _, e⟩ := s.irq_shape b i; rw [e]
@[simp] theorem State.irq_net (s : State) (b : Blk) (i : Nat) : (s.irq b i).net = s.net := by
  obtain ⟨_, _, _, e⟩ := s.irq_shape b i; rw [e]
@[simp] theorem State.irq_cor (s : State) (b : Blk) (i : Nat) : (s.irq b i).cor = s.cor := by
  obtain ⟨_, _, _, e⟩ := s.irq_shape b i; rw [e]
@[simp] theorem State.irq_lvl (s : State) (b : Blk) (i : Nat) : (s.irq b i).lvl = s.lvl := by
  obtain ⟨_, _, _, e⟩ := s.irq_shape b i; rw [e]
@[simp] theorem State.irq_fsw (s : State) (b : Blk) (i : Nat) : (s.irq b i).fsw = s.fsw := by
  obtain ⟨_, _, _, e⟩ := s.irq_shape b i; rw [e]
@[simp] theorem State.irq_port (s : State) (b : Blk) (i : Nat) : (s.irq b i).port = s.port := by
  obtain ⟨_, _, _, e⟩ := s.irq_shape b i; rw [e]
@[simp] theorem State.irq_drg (s : State) (b : Blk) (i : Nat) : (s.irq b i).drg = s.drg := by
  obtain ⟨_, _, _, e⟩ := s.irq_shape b i; rw [e]
@[simp] theorem State.irq_scl (s : State) (b : Blk) (i : Nat) : (s.irq b i).scl = s.scl := by
  obtain ⟨_, _, _, e⟩ := s.irq_shape b i; rw [e]
@[simp] theorem State.irq_nrg (s : State) (b : Blk) (i : Nat) : (s.irq b i).nrg = s.nrg := by
  obtain ⟨_, _, _, e⟩ := s.irq_shape b i; rw [e]
@[simp] theorem State.irq_ibg (s : State) (b : Blk) (i : Nat) : (s.irq b i).ibg = s.ibg := by
  obtain ⟨_, _, _, e⟩ := s.irq_shape b i; rw [e]
@[simp] theorem State.irq_rmc (s : State) (b : Blk) (i : Nat) : (s.irq b i).rmc = s.rmc := by
  obtain ⟨_, _, _, e⟩ := s.irq_shape b i; rw [e]
@[simp] theorem State.irq_fov (s : State) (b : Blk) (i : Nat) : (s.irq b i).fov = s.fov := by
  obtain ⟨_, _, _, e⟩ := s.irq_shape b i; rw [e]
@[simp] theorem State.irq_upd (s : State) (b : Blk) (i : Nat) : (s.irq b i).upd = s.upd := by
  obtain ⟨_, _, _, e⟩ := s.irq_shape b i; rw [e]
@[simp] theorem State.irq_present (s : State) (b : Blk) (i : Nat) : (s.irq b i).host.present = s.host.present := by
  obtain ⟨_, _, _, e⟩ := s.irq_shape b i; rw [e]

/-! ### Recording an error -/

/-- Recording an error changes ERR_CODE and IRQ_RAW of the block, PBA bits and outputs alone. -/
theorem State.err_shape (s : State) (b : Blk) (code off : Nat) (m : Master) :
    ∃ r p o, s.err b code off m = { s with regs := r, host := { s.host with pba := p }, out := o } := by
  unfold State.err
  obtain ⟨r, p, o, e⟩ := (s.wr (hdr b oErr) _).irq_shape b 31
  exact ⟨r, p, o, by rw [e]; rfl⟩

/-- The addresses of a block's header registers differ. -/
theorem hdr_ne (b : Blk) {i j : Nat} (h : i ≠ j) : hdr b i ≠ hdr b j := by
  simp [hdr, h]

theorem State.err_rd_ne (s : State) (b : Blk) (code off : Nat) (m : Master) {a : Nat} (h : a ≠ hdr b oErr) (h' : a ≠ hdr b oRaw) :
    (s.err b code off m).rd a = s.rd a := by
  unfold State.err
  rw [State.irq_rd_ne _ _ _ h', State.rd_wr_ne _ _ h]

/-- The first error since the last read is kept with code, offset and source, and counts 1 (R70). -/
theorem State.err_first (s : State) (b : Blk) (code off : Nat) (m : Master) (h : s.rd (hdr b oErr) = 0) :
    (s.err b code off m).rd (hdr b oErr) = w32 (code % 256 + off % 0x1000 * 2 ^ 8 + masterSrc m * 2 ^ 20 + 2 ^ 24) := by
  unfold State.err
  rw [State.irq_rd_ne _ _ _ (hdr_ne b (by decide))]
  simp [State.rn, h]

@[simp] theorem State.err_pending (s : State) (b : Blk) (code off : Nat) (m : Master) : (s.err b code off m).pending = s.pending := by
  obtain ⟨_, _, _, e⟩ := s.err_shape b code off m; rw [e]
@[simp] theorem State.err_modId (s : State) (b : Blk) (code off : Nat) (m : Master) : (s.err b code off m).modId = s.modId := by
  obtain ⟨_, _, _, e⟩ := s.err_shape b code off m; rw [e]
@[simp] theorem State.err_resp (s : State) (b : Blk) (code off : Nat) (m : Master) : (s.err b code off m).resp = s.resp := by
  obtain ⟨_, _, _, e⟩ := s.err_shape b code off m; rw [e]
@[simp] theorem State.err_free (s : State) (b : Blk) (code off : Nat) (m : Master) : (s.err b code off m).free = s.free := by
  obtain ⟨_, _, _, e⟩ := s.err_shape b code off m; rw [e]
@[simp] theorem State.err_cnt (s : State) (b : Blk) (code off : Nat) (m : Master) : (s.err b code off m).cnt = s.cnt := by
  obtain ⟨_, _, _, e⟩ := s.err_shape b code off m; rw [e]
@[simp] theorem State.err_edgeCnt (s : State) (b : Blk) (code off : Nat) (m : Master) : (s.err b code off m).edgeCnt = s.edgeCnt := by
  obtain ⟨_, _, _, e⟩ := s.err_shape b code off m; rw [e]
@[simp] theorem State.err_netEdge (s : State) (b : Blk) (code off : Nat) (m : Master) : (s.err b code off m).netEdge = s.netEdge := by
  obtain ⟨_, _, _, e⟩ := s.err_shape b code off m; rw [e]
@[simp] theorem State.err_mbx (s : State) (b : Blk) (code off : Nat) (m : Master) : (s.err b code off m).mbx = s.mbx := by
  obtain ⟨_, _, _, e⟩ := s.err_shape b code off m; rw [e]
@[simp] theorem State.err_mkt (s : State) (b : Blk) (code off : Nat) (m : Master) : (s.err b code off m).mkt = s.mkt := by
  obtain ⟨_, _, _, e⟩ := s.err_shape b code off m; rw [e]
@[simp] theorem State.err_que (s : State) (b : Blk) (code off : Nat) (m : Master) : (s.err b code off m).que = s.que := by
  obtain ⟨_, _, _, e⟩ := s.err_shape b code off m; rw [e]
@[simp] theorem State.err_chk (s : State) (b : Blk) (code off : Nat) (m : Master) : (s.err b code off m).chk = s.chk := by
  obtain ⟨_, _, _, e⟩ := s.err_shape b code off m; rw [e]
@[simp] theorem State.err_ldg (s : State) (b : Blk) (code off : Nat) (m : Master) : (s.err b code off m).ldg = s.ldg := by
  obtain ⟨_, _, _, e⟩ := s.err_shape b code off m; rw [e]
@[simp] theorem State.err_ntm (s : State) (b : Blk) (code off : Nat) (m : Master) : (s.err b code off m).ntm = s.ntm := by
  obtain ⟨_, _, _, e⟩ := s.err_shape b code off m; rw [e]
@[simp] theorem State.err_mem (s : State) (b : Blk) (code off : Nat) (m : Master) : (s.err b code off m).mem = s.mem := by
  obtain ⟨_, _, _, e⟩ := s.err_shape b code off m; rw [e]
@[simp] theorem State.err_nvs (s : State) (b : Blk) (code off : Nat) (m : Master) : (s.err b code off m).nvs = s.nvs := by
  obtain ⟨_, _, _, e⟩ := s.err_shape b code off m; rw [e]
@[simp] theorem State.err_emc (s : State) (b : Blk) (code off : Nat) (m : Master) : (s.err b code off m).emc = s.emc := by
  obtain ⟨_, _, _, e⟩ := s.err_shape b code off m; rw [e]
@[simp] theorem State.err_boot (s : State) (b : Blk) (code off : Nat) (m : Master) : (s.err b code off m).boot = s.boot := by
  obtain ⟨_, _, _, e⟩ := s.err_shape b code off m; rw [e]
@[simp] theorem State.err_pwt (s : State) (b : Blk) (code off : Nat) (m : Master) : (s.err b code off m).pwt = s.pwt := by
  obtain ⟨_, _, _, e⟩ := s.err_shape b code off m; rw [e]
@[simp] theorem State.err_vlt (s : State) (b : Blk) (code off : Nat) (m : Master) : (s.err b code off m).vlt = s.vlt := by
  obtain ⟨_, _, _, e⟩ := s.err_shape b code off m; rw [e]
@[simp] theorem State.err_cry (s : State) (b : Blk) (code off : Nat) (m : Master) : (s.err b code off m).cry = s.cry := by
  obtain ⟨_, _, _, e⟩ := s.err_shape b code off m; rw [e]
@[simp] theorem State.err_rad (s : State) (b : Blk) (code off : Nat) (m : Master) : (s.err b code off m).rad = s.rad := by
  obtain ⟨_, _, _, e⟩ := s.err_shape b code off m; rw [e]
@[simp] theorem State.err_chn (s : State) (b : Blk) (code off : Nat) (m : Master) : (s.err b code off m).chn = s.chn := by
  obtain ⟨_, _, _, e⟩ := s.err_shape b code off m; rw [e]
@[simp] theorem State.err_lnk (s : State) (b : Blk) (code off : Nat) (m : Master) : (s.err b code off m).lnk = s.lnk := by
  obtain ⟨_, _, _, e⟩ := s.err_shape b code off m; rw [e]
@[simp] theorem State.err_bcn (s : State) (b : Blk) (code off : Nat) (m : Master) : (s.err b code off m).bcn = s.bcn := by
  obtain ⟨_, _, _, e⟩ := s.err_shape b code off m; rw [e]
@[simp] theorem State.err_net (s : State) (b : Blk) (code off : Nat) (m : Master) : (s.err b code off m).net = s.net := by
  obtain ⟨_, _, _, e⟩ := s.err_shape b code off m; rw [e]
@[simp] theorem State.err_cor (s : State) (b : Blk) (code off : Nat) (m : Master) : (s.err b code off m).cor = s.cor := by
  obtain ⟨_, _, _, e⟩ := s.err_shape b code off m; rw [e]
@[simp] theorem State.err_lvl (s : State) (b : Blk) (code off : Nat) (m : Master) : (s.err b code off m).lvl = s.lvl := by
  obtain ⟨_, _, _, e⟩ := s.err_shape b code off m; rw [e]
@[simp] theorem State.err_fsw (s : State) (b : Blk) (code off : Nat) (m : Master) : (s.err b code off m).fsw = s.fsw := by
  obtain ⟨_, _, _, e⟩ := s.err_shape b code off m; rw [e]
@[simp] theorem State.err_port (s : State) (b : Blk) (code off : Nat) (m : Master) : (s.err b code off m).port = s.port := by
  obtain ⟨_, _, _, e⟩ := s.err_shape b code off m; rw [e]
@[simp] theorem State.err_drg (s : State) (b : Blk) (code off : Nat) (m : Master) : (s.err b code off m).drg = s.drg := by
  obtain ⟨_, _, _, e⟩ := s.err_shape b code off m; rw [e]
@[simp] theorem State.err_scl (s : State) (b : Blk) (code off : Nat) (m : Master) : (s.err b code off m).scl = s.scl := by
  obtain ⟨_, _, _, e⟩ := s.err_shape b code off m; rw [e]
@[simp] theorem State.err_nrg (s : State) (b : Blk) (code off : Nat) (m : Master) : (s.err b code off m).nrg = s.nrg := by
  obtain ⟨_, _, _, e⟩ := s.err_shape b code off m; rw [e]
@[simp] theorem State.err_ibg (s : State) (b : Blk) (code off : Nat) (m : Master) : (s.err b code off m).ibg = s.ibg := by
  obtain ⟨_, _, _, e⟩ := s.err_shape b code off m; rw [e]
@[simp] theorem State.err_rmc (s : State) (b : Blk) (code off : Nat) (m : Master) : (s.err b code off m).rmc = s.rmc := by
  obtain ⟨_, _, _, e⟩ := s.err_shape b code off m; rw [e]
@[simp] theorem State.err_fov (s : State) (b : Blk) (code off : Nat) (m : Master) : (s.err b code off m).fov = s.fov := by
  obtain ⟨_, _, _, e⟩ := s.err_shape b code off m; rw [e]
@[simp] theorem State.err_upd (s : State) (b : Blk) (code off : Nat) (m : Master) : (s.err b code off m).upd = s.upd := by
  obtain ⟨_, _, _, e⟩ := s.err_shape b code off m; rw [e]
@[simp] theorem State.err_present (s : State) (b : Blk) (code off : Nat) (m : Master) : (s.err b code off m).host.present = s.host.present := by
  obtain ⟨_, _, _, e⟩ := s.err_shape b code off m; rw [e]

/-! ### The Ledger -/

/-- A group of Ledger records changes the Ledger, registers of LDG, PBA bits and outputs alone. -/
theorem State.logGroup_shape (s : State) (m : Master) (code sev src : Nat) (ps : List (Word × Word × Word)) :
    ∃ l r p o, s.logGroup m code sev src ps = { s with ldg := l, regs := r, host := { s.host with pba := p }, out := o } := by
  unfold State.logGroup
  split
  · obtain ⟨r, p, o, e⟩ := s.err_shape .ldg eDropped 0x60 m
    exact ⟨s.ldg, r, p, o, e⟩
  · split
    · exact ⟨_, s.regs, s.host.pba, s.out, rfl⟩
    · simp only []
      obtain ⟨r, p, o, e⟩ := State.irq_shape (State.err (State.bumpSat { s with ldg := { s.ldg with lostDue := s.ldg.lostDue + ps.length } } R.ldg_LOST_CNT ps.length) .ldg 0x80 0x60 m) .ldg 1
      obtain ⟨r', p', o', e'⟩ := State.err_shape (State.bumpSat { s with ldg := { s.ldg with lostDue := s.ldg.lostDue + ps.length } } R.ldg_LOST_CNT ps.length) .ldg 0x80 0x60 m
      exact ⟨_, r, p, o, by rw [e, e']; rfl⟩

/-- A group of Ledger records leaves every register outside the page of LDG. -/
theorem State.logGroup_rd (s : State) (m : Master) (code sev src : Nat) (ps : List (Word × Word × Word)) {a : Nat} (h : a / 0x1000 ≠ 0x2A) :
    (s.logGroup m code sev src ps).rd a = s.rd a := by
  have h1 : a ≠ hdr .ldg oRaw := by rintro rfl; exact h (by decide)
  have h2 : a ≠ hdr .ldg oErr := by rintro rfl; exact h (by decide)
  have h3 : a ≠ R.ldg_LOST_CNT := by rintro rfl; exact h (by decide)
  unfold State.logGroup
  split
  · exact s.err_rd_ne _ _ _ _ h2 h1
  · split
    · rfl
    · simp only []
      rw [State.irq_rd_ne _ _ _ h1, State.err_rd_ne _ _ _ _ _ h2 h1]
      exact State.rd_wr_ne _ _ h3

theorem State.ledger_shape (s : State) (code sev src p0 p1 p2 : Nat) :
    ∃ l r p o, s.ledger code sev src p0 p1 p2 = { s with ldg := l, regs := r, host := { s.host with pba := p }, out := o } :=
  s.logGroup_shape _ _ _ _ _

theorem State.ledger_rd (s : State) (code sev src p0 p1 p2 : Nat) {a : Nat} (h : a / 0x1000 ≠ 0x2A) :
    (s.ledger code sev src p0 p1 p2).rd a = s.rd a := s.logGroup_rd _ _ _ _ _ h

@[simp] theorem State.ledger_pending (s : State) (code sev src p0 p1 p2 : Nat) : (s.ledger code sev src p0 p1 p2).pending = s.pending := by
  obtain ⟨_, _, _, _, e⟩ := s.ledger_shape code sev src p0 p1 p2; rw [e]
@[simp] theorem State.ledger_modId (s : State) (code sev src p0 p1 p2 : Nat) : (s.ledger code sev src p0 p1 p2).modId = s.modId := by
  obtain ⟨_, _, _, _, e⟩ := s.ledger_shape code sev src p0 p1 p2; rw [e]
@[simp] theorem State.ledger_resp (s : State) (code sev src p0 p1 p2 : Nat) : (s.ledger code sev src p0 p1 p2).resp = s.resp := by
  obtain ⟨_, _, _, _, e⟩ := s.ledger_shape code sev src p0 p1 p2; rw [e]
@[simp] theorem State.ledger_free (s : State) (code sev src p0 p1 p2 : Nat) : (s.ledger code sev src p0 p1 p2).free = s.free := by
  obtain ⟨_, _, _, _, e⟩ := s.ledger_shape code sev src p0 p1 p2; rw [e]
@[simp] theorem State.ledger_cnt (s : State) (code sev src p0 p1 p2 : Nat) : (s.ledger code sev src p0 p1 p2).cnt = s.cnt := by
  obtain ⟨_, _, _, _, e⟩ := s.ledger_shape code sev src p0 p1 p2; rw [e]
@[simp] theorem State.ledger_edgeCnt (s : State) (code sev src p0 p1 p2 : Nat) : (s.ledger code sev src p0 p1 p2).edgeCnt = s.edgeCnt := by
  obtain ⟨_, _, _, _, e⟩ := s.ledger_shape code sev src p0 p1 p2; rw [e]
@[simp] theorem State.ledger_netEdge (s : State) (code sev src p0 p1 p2 : Nat) : (s.ledger code sev src p0 p1 p2).netEdge = s.netEdge := by
  obtain ⟨_, _, _, _, e⟩ := s.ledger_shape code sev src p0 p1 p2; rw [e]
@[simp] theorem State.ledger_mbx (s : State) (code sev src p0 p1 p2 : Nat) : (s.ledger code sev src p0 p1 p2).mbx = s.mbx := by
  obtain ⟨_, _, _, _, e⟩ := s.ledger_shape code sev src p0 p1 p2; rw [e]
@[simp] theorem State.ledger_mkt (s : State) (code sev src p0 p1 p2 : Nat) : (s.ledger code sev src p0 p1 p2).mkt = s.mkt := by
  obtain ⟨_, _, _, _, e⟩ := s.ledger_shape code sev src p0 p1 p2; rw [e]
@[simp] theorem State.ledger_que (s : State) (code sev src p0 p1 p2 : Nat) : (s.ledger code sev src p0 p1 p2).que = s.que := by
  obtain ⟨_, _, _, _, e⟩ := s.ledger_shape code sev src p0 p1 p2; rw [e]
@[simp] theorem State.ledger_chk (s : State) (code sev src p0 p1 p2 : Nat) : (s.ledger code sev src p0 p1 p2).chk = s.chk := by
  obtain ⟨_, _, _, _, e⟩ := s.ledger_shape code sev src p0 p1 p2; rw [e]
@[simp] theorem State.ledger_ntm (s : State) (code sev src p0 p1 p2 : Nat) : (s.ledger code sev src p0 p1 p2).ntm = s.ntm := by
  obtain ⟨_, _, _, _, e⟩ := s.ledger_shape code sev src p0 p1 p2; rw [e]
@[simp] theorem State.ledger_mem (s : State) (code sev src p0 p1 p2 : Nat) : (s.ledger code sev src p0 p1 p2).mem = s.mem := by
  obtain ⟨_, _, _, _, e⟩ := s.ledger_shape code sev src p0 p1 p2; rw [e]
@[simp] theorem State.ledger_nvs (s : State) (code sev src p0 p1 p2 : Nat) : (s.ledger code sev src p0 p1 p2).nvs = s.nvs := by
  obtain ⟨_, _, _, _, e⟩ := s.ledger_shape code sev src p0 p1 p2; rw [e]
@[simp] theorem State.ledger_emc (s : State) (code sev src p0 p1 p2 : Nat) : (s.ledger code sev src p0 p1 p2).emc = s.emc := by
  obtain ⟨_, _, _, _, e⟩ := s.ledger_shape code sev src p0 p1 p2; rw [e]
@[simp] theorem State.ledger_boot (s : State) (code sev src p0 p1 p2 : Nat) : (s.ledger code sev src p0 p1 p2).boot = s.boot := by
  obtain ⟨_, _, _, _, e⟩ := s.ledger_shape code sev src p0 p1 p2; rw [e]
@[simp] theorem State.ledger_pwt (s : State) (code sev src p0 p1 p2 : Nat) : (s.ledger code sev src p0 p1 p2).pwt = s.pwt := by
  obtain ⟨_, _, _, _, e⟩ := s.ledger_shape code sev src p0 p1 p2; rw [e]
@[simp] theorem State.ledger_vlt (s : State) (code sev src p0 p1 p2 : Nat) : (s.ledger code sev src p0 p1 p2).vlt = s.vlt := by
  obtain ⟨_, _, _, _, e⟩ := s.ledger_shape code sev src p0 p1 p2; rw [e]
@[simp] theorem State.ledger_cry (s : State) (code sev src p0 p1 p2 : Nat) : (s.ledger code sev src p0 p1 p2).cry = s.cry := by
  obtain ⟨_, _, _, _, e⟩ := s.ledger_shape code sev src p0 p1 p2; rw [e]
@[simp] theorem State.ledger_rad (s : State) (code sev src p0 p1 p2 : Nat) : (s.ledger code sev src p0 p1 p2).rad = s.rad := by
  obtain ⟨_, _, _, _, e⟩ := s.ledger_shape code sev src p0 p1 p2; rw [e]
@[simp] theorem State.ledger_chn (s : State) (code sev src p0 p1 p2 : Nat) : (s.ledger code sev src p0 p1 p2).chn = s.chn := by
  obtain ⟨_, _, _, _, e⟩ := s.ledger_shape code sev src p0 p1 p2; rw [e]
@[simp] theorem State.ledger_lnk (s : State) (code sev src p0 p1 p2 : Nat) : (s.ledger code sev src p0 p1 p2).lnk = s.lnk := by
  obtain ⟨_, _, _, _, e⟩ := s.ledger_shape code sev src p0 p1 p2; rw [e]
@[simp] theorem State.ledger_bcn (s : State) (code sev src p0 p1 p2 : Nat) : (s.ledger code sev src p0 p1 p2).bcn = s.bcn := by
  obtain ⟨_, _, _, _, e⟩ := s.ledger_shape code sev src p0 p1 p2; rw [e]
@[simp] theorem State.ledger_net (s : State) (code sev src p0 p1 p2 : Nat) : (s.ledger code sev src p0 p1 p2).net = s.net := by
  obtain ⟨_, _, _, _, e⟩ := s.ledger_shape code sev src p0 p1 p2; rw [e]
@[simp] theorem State.ledger_cor (s : State) (code sev src p0 p1 p2 : Nat) : (s.ledger code sev src p0 p1 p2).cor = s.cor := by
  obtain ⟨_, _, _, _, e⟩ := s.ledger_shape code sev src p0 p1 p2; rw [e]
@[simp] theorem State.ledger_lvl (s : State) (code sev src p0 p1 p2 : Nat) : (s.ledger code sev src p0 p1 p2).lvl = s.lvl := by
  obtain ⟨_, _, _, _, e⟩ := s.ledger_shape code sev src p0 p1 p2; rw [e]
@[simp] theorem State.ledger_fsw (s : State) (code sev src p0 p1 p2 : Nat) : (s.ledger code sev src p0 p1 p2).fsw = s.fsw := by
  obtain ⟨_, _, _, _, e⟩ := s.ledger_shape code sev src p0 p1 p2; rw [e]
@[simp] theorem State.ledger_port (s : State) (code sev src p0 p1 p2 : Nat) : (s.ledger code sev src p0 p1 p2).port = s.port := by
  obtain ⟨_, _, _, _, e⟩ := s.ledger_shape code sev src p0 p1 p2; rw [e]
@[simp] theorem State.ledger_drg (s : State) (code sev src p0 p1 p2 : Nat) : (s.ledger code sev src p0 p1 p2).drg = s.drg := by
  obtain ⟨_, _, _, _, e⟩ := s.ledger_shape code sev src p0 p1 p2; rw [e]
@[simp] theorem State.ledger_scl (s : State) (code sev src p0 p1 p2 : Nat) : (s.ledger code sev src p0 p1 p2).scl = s.scl := by
  obtain ⟨_, _, _, _, e⟩ := s.ledger_shape code sev src p0 p1 p2; rw [e]
@[simp] theorem State.ledger_nrg (s : State) (code sev src p0 p1 p2 : Nat) : (s.ledger code sev src p0 p1 p2).nrg = s.nrg := by
  obtain ⟨_, _, _, _, e⟩ := s.ledger_shape code sev src p0 p1 p2; rw [e]
@[simp] theorem State.ledger_ibg (s : State) (code sev src p0 p1 p2 : Nat) : (s.ledger code sev src p0 p1 p2).ibg = s.ibg := by
  obtain ⟨_, _, _, _, e⟩ := s.ledger_shape code sev src p0 p1 p2; rw [e]
@[simp] theorem State.ledger_rmc (s : State) (code sev src p0 p1 p2 : Nat) : (s.ledger code sev src p0 p1 p2).rmc = s.rmc := by
  obtain ⟨_, _, _, _, e⟩ := s.ledger_shape code sev src p0 p1 p2; rw [e]
@[simp] theorem State.ledger_fov (s : State) (code sev src p0 p1 p2 : Nat) : (s.ledger code sev src p0 p1 p2).fov = s.fov := by
  obtain ⟨_, _, _, _, e⟩ := s.ledger_shape code sev src p0 p1 p2; rw [e]
@[simp] theorem State.ledger_upd (s : State) (code sev src p0 p1 p2 : Nat) : (s.ledger code sev src p0 p1 p2).upd = s.upd := by
  obtain ⟨_, _, _, _, e⟩ := s.ledger_shape code sev src p0 p1 p2; rw [e]
@[simp] theorem State.ledger_present (s : State) (code sev src p0 p1 p2 : Nat) : (s.ledger code sev src p0 p1 p2).host.present = s.host.present := by
  obtain ⟨_, _, _, _, e⟩ := s.ledger_shape code sev src p0 p1 p2; rw [e]

/-! ### The mailbox -/

/-- Writing an M2H entry changes the mailbox, its registers, PBA bits and outputs alone. -/
theorem State.putM2h_shape (s : State) (x : MbxOut) :
    ∃ m r p o, s.putM2h x = { s with mbx := m, regs := r, host := { s.host with pba := p }, out := o } := by
  unfold State.putM2h
  extract_lets data m u
  obtain ⟨r, p, o, e⟩ := State.irq_shape (u.wr R.mbx_M2H_TAIL (w32 ((u.rn R.mbx_M2H_TAIL + 1) % 65536))) .mbx (if x.e.flags = 2 then 1 else 0)
  exact ⟨_, r, p, o, by rw [e]; rfl⟩

theorem State.putM2h_rd (s : State) (x : MbxOut) {a : Nat} (h : a / 0x1000 ≠ 0x2E) : (s.putM2h x).rd a = s.rd a := by
  have h1 : a ≠ hdr .mbx oRaw := by rintro rfl; exact h (by decide)
  have h2 : a ≠ R.mbx_M2H_TAIL := by rintro rfl; exact h (by decide)
  unfold State.putM2h
  simp only []
  rw [State.irq_rd_ne _ _ _ h1, State.rd_wr_ne _ _ h2]
  rfl

/-- Writing the replies that wait changes the mailbox, its registers, PBA bits and outputs alone. -/
theorem flushHeld_shape (n : Nat) (s : State) :
    ∃ m r p o, flushHeld n s = { s with mbx := m, regs := r, host := { s.host with pba := p }, out := o } := by
  induction n generalizing s with
  | zero => exact ⟨s.mbx, s.regs, s.host.pba, s.out, rfl⟩
  | succ n ih =>
    unfold flushHeld
    split
    · exact ⟨s.mbx, s.regs, s.host.pba, s.out, rfl⟩
    · rename_i x rest _
      split
      · obtain ⟨m, r, p, o, e⟩ := State.putM2h_shape { s with mbx := { s.mbx with held := rest } } x
        obtain ⟨m', r', p', o', e'⟩ := ih (State.putM2h { s with mbx := { s.mbx with held := rest } } x)
        exact ⟨m', r', p', o', by rw [e', e]⟩
      · exact ⟨s.mbx, s.regs, s.host.pba, s.out, rfl⟩

theorem flushHeld_rd (n : Nat) (s : State) {a : Nat} (h : a / 0x1000 ≠ 0x2E) : (flushHeld n s).rd a = s.rd a := by
  induction n generalizing s with
  | zero => rfl
  | succ n ih =>
    unfold flushHeld
    split
    · rfl
    · split
      · rw [ih, State.putM2h_rd _ _ h]; rfl
      · rfl

/-- A reply changes the mailbox, its registers, PBA bits and outputs alone. -/
theorem State.replyAt_shape (s : State) (c : Cmd) (st : Nat) (ap : Word) (p d : Bytes) :
    ∃ m r q o, s.replyAt c st ap p d = { s with mbx := m, regs := r, host := { s.host with pba := q }, out := o } := by
  unfold State.replyAt State.putReply
  simp only []
  obtain ⟨m, r, q, o, e⟩ := flushHeld_shape _ _
  exact ⟨m, r, q, o, e⟩

theorem State.reply_shape (s : State) (c : Cmd) (st : Nat) (p d : Bytes) :
    ∃ m r q o, s.reply c st p d = { s with mbx := m, regs := r, host := { s.host with pba := q }, out := o } :=
  s.replyAt_shape c st _ p d

/-- A reply leaves every register outside the page of MBX. -/
theorem State.replyAt_rd (s : State) (c : Cmd) (st : Nat) (ap : Word) (p d : Bytes) {a : Nat} (h : a / 0x1000 ≠ 0x2E) :
    (s.replyAt c st ap p d).rd a = s.rd a := by
  unfold State.replyAt State.putReply
  simp only []
  rw [flushHeld_rd _ _ h]
  rfl

theorem State.reply_rd (s : State) (c : Cmd) (st : Nat) (p d : Bytes) {a : Nat} (h : a / 0x1000 ≠ 0x2E) :
    (s.reply c st p d).rd a = s.rd a := s.replyAt_rd c st _ p d h

@[simp] theorem State.reply_pending (s : State) (c : Cmd) (st : Nat) (p d : Bytes) : (s.reply c st p d).pending = s.pending := by
  obtain ⟨_, _, _, _, e⟩ := s.reply_shape c st p d; rw [e]
@[simp] theorem State.reply_modId (s : State) (c : Cmd) (st : Nat) (p d : Bytes) : (s.reply c st p d).modId = s.modId := by
  obtain ⟨_, _, _, _, e⟩ := s.reply_shape c st p d; rw [e]
@[simp] theorem State.reply_resp (s : State) (c : Cmd) (st : Nat) (p d : Bytes) : (s.reply c st p d).resp = s.resp := by
  obtain ⟨_, _, _, _, e⟩ := s.reply_shape c st p d; rw [e]
@[simp] theorem State.reply_free (s : State) (c : Cmd) (st : Nat) (p d : Bytes) : (s.reply c st p d).free = s.free := by
  obtain ⟨_, _, _, _, e⟩ := s.reply_shape c st p d; rw [e]
@[simp] theorem State.reply_cnt (s : State) (c : Cmd) (st : Nat) (p d : Bytes) : (s.reply c st p d).cnt = s.cnt := by
  obtain ⟨_, _, _, _, e⟩ := s.reply_shape c st p d; rw [e]
@[simp] theorem State.reply_edgeCnt (s : State) (c : Cmd) (st : Nat) (p d : Bytes) : (s.reply c st p d).edgeCnt = s.edgeCnt := by
  obtain ⟨_, _, _, _, e⟩ := s.reply_shape c st p d; rw [e]
@[simp] theorem State.reply_netEdge (s : State) (c : Cmd) (st : Nat) (p d : Bytes) : (s.reply c st p d).netEdge = s.netEdge := by
  obtain ⟨_, _, _, _, e⟩ := s.reply_shape c st p d; rw [e]
@[simp] theorem State.reply_mkt (s : State) (c : Cmd) (st : Nat) (p d : Bytes) : (s.reply c st p d).mkt = s.mkt := by
  obtain ⟨_, _, _, _, e⟩ := s.reply_shape c st p d; rw [e]
@[simp] theorem State.reply_que (s : State) (c : Cmd) (st : Nat) (p d : Bytes) : (s.reply c st p d).que = s.que := by
  obtain ⟨_, _, _, _, e⟩ := s.reply_shape c st p d; rw [e]
@[simp] theorem State.reply_chk (s : State) (c : Cmd) (st : Nat) (p d : Bytes) : (s.reply c st p d).chk = s.chk := by
  obtain ⟨_, _, _, _, e⟩ := s.reply_shape c st p d; rw [e]
@[simp] theorem State.reply_ldg (s : State) (c : Cmd) (st : Nat) (p d : Bytes) : (s.reply c st p d).ldg = s.ldg := by
  obtain ⟨_, _, _, _, e⟩ := s.reply_shape c st p d; rw [e]
@[simp] theorem State.reply_ntm (s : State) (c : Cmd) (st : Nat) (p d : Bytes) : (s.reply c st p d).ntm = s.ntm := by
  obtain ⟨_, _, _, _, e⟩ := s.reply_shape c st p d; rw [e]
@[simp] theorem State.reply_mem (s : State) (c : Cmd) (st : Nat) (p d : Bytes) : (s.reply c st p d).mem = s.mem := by
  obtain ⟨_, _, _, _, e⟩ := s.reply_shape c st p d; rw [e]
@[simp] theorem State.reply_nvs (s : State) (c : Cmd) (st : Nat) (p d : Bytes) : (s.reply c st p d).nvs = s.nvs := by
  obtain ⟨_, _, _, _, e⟩ := s.reply_shape c st p d; rw [e]
@[simp] theorem State.reply_emc (s : State) (c : Cmd) (st : Nat) (p d : Bytes) : (s.reply c st p d).emc = s.emc := by
  obtain ⟨_, _, _, _, e⟩ := s.reply_shape c st p d; rw [e]
@[simp] theorem State.reply_boot (s : State) (c : Cmd) (st : Nat) (p d : Bytes) : (s.reply c st p d).boot = s.boot := by
  obtain ⟨_, _, _, _, e⟩ := s.reply_shape c st p d; rw [e]
@[simp] theorem State.reply_pwt (s : State) (c : Cmd) (st : Nat) (p d : Bytes) : (s.reply c st p d).pwt = s.pwt := by
  obtain ⟨_, _, _, _, e⟩ := s.reply_shape c st p d; rw [e]
@[simp] theorem State.reply_vlt (s : State) (c : Cmd) (st : Nat) (p d : Bytes) : (s.reply c st p d).vlt = s.vlt := by
  obtain ⟨_, _, _, _, e⟩ := s.reply_shape c st p d; rw [e]
@[simp] theorem State.reply_cry (s : State) (c : Cmd) (st : Nat) (p d : Bytes) : (s.reply c st p d).cry = s.cry := by
  obtain ⟨_, _, _, _, e⟩ := s.reply_shape c st p d; rw [e]
@[simp] theorem State.reply_rad (s : State) (c : Cmd) (st : Nat) (p d : Bytes) : (s.reply c st p d).rad = s.rad := by
  obtain ⟨_, _, _, _, e⟩ := s.reply_shape c st p d; rw [e]
@[simp] theorem State.reply_chn (s : State) (c : Cmd) (st : Nat) (p d : Bytes) : (s.reply c st p d).chn = s.chn := by
  obtain ⟨_, _, _, _, e⟩ := s.reply_shape c st p d; rw [e]
@[simp] theorem State.reply_lnk (s : State) (c : Cmd) (st : Nat) (p d : Bytes) : (s.reply c st p d).lnk = s.lnk := by
  obtain ⟨_, _, _, _, e⟩ := s.reply_shape c st p d; rw [e]
@[simp] theorem State.reply_bcn (s : State) (c : Cmd) (st : Nat) (p d : Bytes) : (s.reply c st p d).bcn = s.bcn := by
  obtain ⟨_, _, _, _, e⟩ := s.reply_shape c st p d; rw [e]
@[simp] theorem State.reply_net (s : State) (c : Cmd) (st : Nat) (p d : Bytes) : (s.reply c st p d).net = s.net := by
  obtain ⟨_, _, _, _, e⟩ := s.reply_shape c st p d; rw [e]
@[simp] theorem State.reply_cor (s : State) (c : Cmd) (st : Nat) (p d : Bytes) : (s.reply c st p d).cor = s.cor := by
  obtain ⟨_, _, _, _, e⟩ := s.reply_shape c st p d; rw [e]
@[simp] theorem State.reply_lvl (s : State) (c : Cmd) (st : Nat) (p d : Bytes) : (s.reply c st p d).lvl = s.lvl := by
  obtain ⟨_, _, _, _, e⟩ := s.reply_shape c st p d; rw [e]
@[simp] theorem State.reply_fsw (s : State) (c : Cmd) (st : Nat) (p d : Bytes) : (s.reply c st p d).fsw = s.fsw := by
  obtain ⟨_, _, _, _, e⟩ := s.reply_shape c st p d; rw [e]
@[simp] theorem State.reply_port (s : State) (c : Cmd) (st : Nat) (p d : Bytes) : (s.reply c st p d).port = s.port := by
  obtain ⟨_, _, _, _, e⟩ := s.reply_shape c st p d; rw [e]
@[simp] theorem State.reply_drg (s : State) (c : Cmd) (st : Nat) (p d : Bytes) : (s.reply c st p d).drg = s.drg := by
  obtain ⟨_, _, _, _, e⟩ := s.reply_shape c st p d; rw [e]
@[simp] theorem State.reply_scl (s : State) (c : Cmd) (st : Nat) (p d : Bytes) : (s.reply c st p d).scl = s.scl := by
  obtain ⟨_, _, _, _, e⟩ := s.reply_shape c st p d; rw [e]
@[simp] theorem State.reply_nrg (s : State) (c : Cmd) (st : Nat) (p d : Bytes) : (s.reply c st p d).nrg = s.nrg := by
  obtain ⟨_, _, _, _, e⟩ := s.reply_shape c st p d; rw [e]
@[simp] theorem State.reply_ibg (s : State) (c : Cmd) (st : Nat) (p d : Bytes) : (s.reply c st p d).ibg = s.ibg := by
  obtain ⟨_, _, _, _, e⟩ := s.reply_shape c st p d; rw [e]
@[simp] theorem State.reply_rmc (s : State) (c : Cmd) (st : Nat) (p d : Bytes) : (s.reply c st p d).rmc = s.rmc := by
  obtain ⟨_, _, _, _, e⟩ := s.reply_shape c st p d; rw [e]
@[simp] theorem State.reply_fov (s : State) (c : Cmd) (st : Nat) (p d : Bytes) : (s.reply c st p d).fov = s.fov := by
  obtain ⟨_, _, _, _, e⟩ := s.reply_shape c st p d; rw [e]
@[simp] theorem State.reply_upd (s : State) (c : Cmd) (st : Nat) (p d : Bytes) : (s.reply c st p d).upd = s.upd := by
  obtain ⟨_, _, _, _, e⟩ := s.reply_shape c st p d; rw [e]
@[simp] theorem State.reply_present (s : State) (c : Cmd) (st : Nat) (p d : Bytes) : (s.reply c st p d).host.present = s.host.present := by
  obtain ⟨_, _, _, _, e⟩ := s.reply_shape c st p d; rw [e]

/-- An event changes the Ledger, the mailbox, their registers, PBA bits and outputs alone. -/
theorem State.event_shape (s : State) (code src : Nat) (q : Bytes) :
    ∃ l m r p o, s.event code src q = { s with ldg := l, mbx := m, regs := r, host := { s.host with pba := p }, out := o } := by
  unfold State.event
  simp only []
  obtain ⟨l, r, p, o, e⟩ := s.logGroup_shape .svc code (Config.eventSev code).val src (paramTriples q.length q)
  split
  · exact ⟨l, s.mbx, r, p, o, e⟩
  · split
    · obtain ⟨m', r', p', o', e'⟩ := State.putM2h_shape (s.logGroup .svc code (Config.eventSev code).val src (paramTriples q.length q)) ⟨⟨code, 2, 0, 0, 0, 0, State.tick32 (s.logGroup .svc code (Config.eventSev code).val src (paramTriples q.length q)), slice q 0 32⟩, []⟩
      exact ⟨l, m', r', p', o', by rw [e', e]⟩
    · exact ⟨l, _, r, p, o, by rw [e]⟩

/-- An event leaves every register outside the pages of LDG and MBX. -/
theorem State.event_rd (s : State) (code src : Nat) (q : Bytes) {a : Nat} (h : a / 0x1000 ≠ 0x2A) (h' : a / 0x1000 ≠ 0x2E) :
    (s.event code src q).rd a = s.rd a := by
  unfold State.event
  simp only []
  split
  · exact s.logGroup_rd _ _ _ _ _ h
  · split
    · rw [State.putM2h_rd _ _ h', State.logGroup_rd _ _ _ _ _ _ h]
    · exact s.logGroup_rd _ _ _ _ _ h

@[simp] theorem State.event_pending (s : State) (code src : Nat) (q : Bytes) : (s.event code src q).pending = s.pending := by
  obtain ⟨_, _, _, _, _, e⟩ := s.event_shape code src q; rw [e]
@[simp] theorem State.event_modId (s : State) (code src : Nat) (q : Bytes) : (s.event code src q).modId = s.modId := by
  obtain ⟨_, _, _, _, _, e⟩ := s.event_shape code src q; rw [e]
@[simp] theorem State.event_resp (s : State) (code src : Nat) (q : Bytes) : (s.event code src q).resp = s.resp := by
  obtain ⟨_, _, _, _, _, e⟩ := s.event_shape code src q; rw [e]
@[simp] theorem State.event_free (s : State) (code src : Nat) (q : Bytes) : (s.event code src q).free = s.free := by
  obtain ⟨_, _, _, _, _, e⟩ := s.event_shape code src q; rw [e]
@[simp] theorem State.event_cnt (s : State) (code src : Nat) (q : Bytes) : (s.event code src q).cnt = s.cnt := by
  obtain ⟨_, _, _, _, _, e⟩ := s.event_shape code src q; rw [e]
@[simp] theorem State.event_edgeCnt (s : State) (code src : Nat) (q : Bytes) : (s.event code src q).edgeCnt = s.edgeCnt := by
  obtain ⟨_, _, _, _, _, e⟩ := s.event_shape code src q; rw [e]
@[simp] theorem State.event_netEdge (s : State) (code src : Nat) (q : Bytes) : (s.event code src q).netEdge = s.netEdge := by
  obtain ⟨_, _, _, _, _, e⟩ := s.event_shape code src q; rw [e]
@[simp] theorem State.event_mkt (s : State) (code src : Nat) (q : Bytes) : (s.event code src q).mkt = s.mkt := by
  obtain ⟨_, _, _, _, _, e⟩ := s.event_shape code src q; rw [e]
@[simp] theorem State.event_que (s : State) (code src : Nat) (q : Bytes) : (s.event code src q).que = s.que := by
  obtain ⟨_, _, _, _, _, e⟩ := s.event_shape code src q; rw [e]
@[simp] theorem State.event_chk (s : State) (code src : Nat) (q : Bytes) : (s.event code src q).chk = s.chk := by
  obtain ⟨_, _, _, _, _, e⟩ := s.event_shape code src q; rw [e]
@[simp] theorem State.event_ntm (s : State) (code src : Nat) (q : Bytes) : (s.event code src q).ntm = s.ntm := by
  obtain ⟨_, _, _, _, _, e⟩ := s.event_shape code src q; rw [e]
@[simp] theorem State.event_mem (s : State) (code src : Nat) (q : Bytes) : (s.event code src q).mem = s.mem := by
  obtain ⟨_, _, _, _, _, e⟩ := s.event_shape code src q; rw [e]
@[simp] theorem State.event_nvs (s : State) (code src : Nat) (q : Bytes) : (s.event code src q).nvs = s.nvs := by
  obtain ⟨_, _, _, _, _, e⟩ := s.event_shape code src q; rw [e]
@[simp] theorem State.event_emc (s : State) (code src : Nat) (q : Bytes) : (s.event code src q).emc = s.emc := by
  obtain ⟨_, _, _, _, _, e⟩ := s.event_shape code src q; rw [e]
@[simp] theorem State.event_boot (s : State) (code src : Nat) (q : Bytes) : (s.event code src q).boot = s.boot := by
  obtain ⟨_, _, _, _, _, e⟩ := s.event_shape code src q; rw [e]
@[simp] theorem State.event_pwt (s : State) (code src : Nat) (q : Bytes) : (s.event code src q).pwt = s.pwt := by
  obtain ⟨_, _, _, _, _, e⟩ := s.event_shape code src q; rw [e]
@[simp] theorem State.event_vlt (s : State) (code src : Nat) (q : Bytes) : (s.event code src q).vlt = s.vlt := by
  obtain ⟨_, _, _, _, _, e⟩ := s.event_shape code src q; rw [e]
@[simp] theorem State.event_cry (s : State) (code src : Nat) (q : Bytes) : (s.event code src q).cry = s.cry := by
  obtain ⟨_, _, _, _, _, e⟩ := s.event_shape code src q; rw [e]
@[simp] theorem State.event_rad (s : State) (code src : Nat) (q : Bytes) : (s.event code src q).rad = s.rad := by
  obtain ⟨_, _, _, _, _, e⟩ := s.event_shape code src q; rw [e]
@[simp] theorem State.event_chn (s : State) (code src : Nat) (q : Bytes) : (s.event code src q).chn = s.chn := by
  obtain ⟨_, _, _, _, _, e⟩ := s.event_shape code src q; rw [e]
@[simp] theorem State.event_lnk (s : State) (code src : Nat) (q : Bytes) : (s.event code src q).lnk = s.lnk := by
  obtain ⟨_, _, _, _, _, e⟩ := s.event_shape code src q; rw [e]
@[simp] theorem State.event_bcn (s : State) (code src : Nat) (q : Bytes) : (s.event code src q).bcn = s.bcn := by
  obtain ⟨_, _, _, _, _, e⟩ := s.event_shape code src q; rw [e]
@[simp] theorem State.event_net (s : State) (code src : Nat) (q : Bytes) : (s.event code src q).net = s.net := by
  obtain ⟨_, _, _, _, _, e⟩ := s.event_shape code src q; rw [e]
@[simp] theorem State.event_cor (s : State) (code src : Nat) (q : Bytes) : (s.event code src q).cor = s.cor := by
  obtain ⟨_, _, _, _, _, e⟩ := s.event_shape code src q; rw [e]
@[simp] theorem State.event_lvl (s : State) (code src : Nat) (q : Bytes) : (s.event code src q).lvl = s.lvl := by
  obtain ⟨_, _, _, _, _, e⟩ := s.event_shape code src q; rw [e]
@[simp] theorem State.event_fsw (s : State) (code src : Nat) (q : Bytes) : (s.event code src q).fsw = s.fsw := by
  obtain ⟨_, _, _, _, _, e⟩ := s.event_shape code src q; rw [e]
@[simp] theorem State.event_port (s : State) (code src : Nat) (q : Bytes) : (s.event code src q).port = s.port := by
  obtain ⟨_, _, _, _, _, e⟩ := s.event_shape code src q; rw [e]
@[simp] theorem State.event_drg (s : State) (code src : Nat) (q : Bytes) : (s.event code src q).drg = s.drg := by
  obtain ⟨_, _, _, _, _, e⟩ := s.event_shape code src q; rw [e]
@[simp] theorem State.event_scl (s : State) (code src : Nat) (q : Bytes) : (s.event code src q).scl = s.scl := by
  obtain ⟨_, _, _, _, _, e⟩ := s.event_shape code src q; rw [e]
@[simp] theorem State.event_nrg (s : State) (code src : Nat) (q : Bytes) : (s.event code src q).nrg = s.nrg := by
  obtain ⟨_, _, _, _, _, e⟩ := s.event_shape code src q; rw [e]
@[simp] theorem State.event_ibg (s : State) (code src : Nat) (q : Bytes) : (s.event code src q).ibg = s.ibg := by
  obtain ⟨_, _, _, _, _, e⟩ := s.event_shape code src q; rw [e]
@[simp] theorem State.event_rmc (s : State) (code src : Nat) (q : Bytes) : (s.event code src q).rmc = s.rmc := by
  obtain ⟨_, _, _, _, _, e⟩ := s.event_shape code src q; rw [e]
@[simp] theorem State.event_fov (s : State) (code src : Nat) (q : Bytes) : (s.event code src q).fov = s.fov := by
  obtain ⟨_, _, _, _, _, e⟩ := s.event_shape code src q; rw [e]
@[simp] theorem State.event_upd (s : State) (code src : Nat) (q : Bytes) : (s.event code src q).upd = s.upd := by
  obtain ⟨_, _, _, _, _, e⟩ := s.event_shape code src q; rw [e]
@[simp] theorem State.event_present (s : State) (code src : Nat) (q : Bytes) : (s.event code src q).host.present = s.host.present := by
  obtain ⟨_, _, _, _, _, e⟩ := s.event_shape code src q; rw [e]

end Sys2Proof.Machine
end

