-- ==== Sys2Proof/Laws/Safety.lean ====
section
/-! SUPPORT. Laws of the statement vocabulary: frames, served page accesses and ready commands. -/

namespace Sys2Proof.Machine

open Sys2Proof

theorem ChangesOnly.refl (ps : List Part) (s : State) : ChangesOnly ps s s := by
  intro p _; cases p <;> rfl

theorem ChangesOnly.trans {ps : List Part} {s t u : State} (h : ChangesOnly ps s t) (h' : ChangesOnly ps t u) : ChangesOnly ps s u := by
  intro p hp
  have a := h p hp
  have b := h' p hp
  cases p <;> exact Eq.trans b a

theorem ChangesOnly.mono {ps qs : List Part} {s t : State} (h : ChangesOnly ps s t) (hs : ∀ p ∈ ps, p ∈ qs) : ChangesOnly qs s t :=
  fun p hp => h p fun hm => hp (hs p hm)

/-- Raising an interrupt is a change of registers, PBA bits and outputs. -/
theorem State.irq_changes (s : State) (b : Blk) (i : Nat) : ChangesOnly [.regs, .pba, .out] s (s.irq b i) := by
  obtain ⟨r, p, o, e⟩ := s.irq_shape b i
  rw [e]; intro q hq; cases q <;> first | rfl | simp at hq

/-- Recording an error is a change of registers, PBA bits and outputs. -/
theorem State.err_changes (s : State) (b : Blk) (code off : Nat) (m : Master) : ChangesOnly [.regs, .pba, .out] s (s.err b code off m) := by
  obtain ⟨r, p, o, e⟩ := s.err_shape b code off m
  rw [e]; intro q hq; cases q <;> first | rfl | simp at hq

/-- A Ledger record is a change of the Ledger, registers, PBA bits and outputs. -/
theorem State.ledger_changes (s : State) (code sev src p0 p1 p2 : Nat) : ChangesOnly [.ldg, .regs, .pba, .out] s (s.ledger code sev src p0 p1 p2) := by
  obtain ⟨l, r, p, o, e⟩ := s.ledger_shape code sev src p0 p1 p2
  rw [e]; intro q hq; cases q <;> first | rfl | simp at hq

/-- A reply is a change of the mailbox, registers, PBA bits and outputs. -/
theorem State.reply_changes (s : State) (c : Cmd) (st : Nat) (p d : Bytes) : ChangesOnly [.mbx, .regs, .pba, .out] s (s.reply c st p d) := by
  obtain ⟨m, r, q, o, e⟩ := s.reply_shape c st p d
  rw [e]; intro q hq; cases q <;> first | rfl | simp at hq

/-- An event is a change of the Ledger, the mailbox, registers, PBA bits and outputs. -/
theorem State.event_changes (s : State) (code src : Nat) (q : Bytes) : ChangesOnly [.ldg, .mbx, .regs, .pba, .out] s (s.event code src q) := by
  obtain ⟨l, m, r, p, o, e⟩ := s.event_shape code src q
  rw [e]; intro q hq; cases q <;> first | rfl | simp at hq

/-- A served page access runs its meaning. -/
theorem State.onPage_open {s : State} {b : Blk} {m : Master} (h : PageOpen s b m) (off : Nat) (f : State → State) : s.onPage b off m f = f s := by
  simp [State.onPage, h.1, h.2.1]

/-- A request to BAR0 that nothing holds up is served. -/
theorem State.barReq_open {s : State} {b : Blk} {m : Master} (h : PageOpen s b m) (r : Bar0Req) (f : State → State) : s.barReq m r f = f s := by
  unfold State.barReq
  by_cases e : m = .host
  · simp [h.2.2 e]
  · simp [e]

/-- A served write runs its meaning. -/
theorem State.writeAt_open {s : State} {b : Blk} {m : Master} (h : PageOpen s b m) (off : Nat) (v : Word) (f : State → State) :
    s.writeAt b off m v f = f s := by
  unfold State.writeAt
  rw [State.barReq_open h, State.onPage_open h]

/-- A served read runs its meaning. -/
theorem State.readAt_open {s : State} {b : Blk} {m : Master} (h : PageOpen s b m) (off : Nat) (f : State → State) : s.readAt b off m f = f s := by
  unfold State.readAt
  rw [State.barReq_open h, State.onPage_open h]

/-- A page access to a block in reset is dropped and recorded. -/
theorem State.onPage_reset {s : State} {b : Blk} (h : s.inReset b = true) (off : Nat) (m : Master) (f : State → State) :
    s.onPage b off m f = (s.err b eDropped off m).answer (resetResp m) := by
  simp [State.onPage, h]

/-- A ready command runs its meaning. -/
theorem State.withCmd_ready {s : State} {opc : Nat} {tag : Word} {c : Cmd} (h : Ready s opc tag c) (f : Cmd → State → State) :
    s.withCmd opc tag f = f c s := by
  obtain ⟨h1, h2, h3⟩ := h
  unfold State.withCmd
  rw [h1]
  rcases h3 with h3 | ⟨h3, h4⟩
  · simp [h2, h3]
  · have h5 : notEarlier c.e.apply (c.takenAt + 2#32) = true := h4
    simp [h2, h3, h5]

/-- Writing the replies that were held leaves the outstanding commands. -/
theorem flushHeld_taken : ∀ (n : Nat) (s : State), (flushHeld n s).mbx.taken = s.mbx.taken
  | 0, s => rfl
  | n + 1, s => by
    unfold flushHeld
    split
    · rfl
    · split
      · rw [flushHeld_taken n]
        unfold State.putM2h
        simp
      · rfl

/-- A reply ends its command. -/
theorem State.replyAt_ended (s : State) (c : Cmd) (st : Nat) (ap : Word) (p d : Bytes) : Ended c (s.replyAt c st ap p d) := by
  unfold Ended State.replyAt State.putReply
  rw [flushHeld_taken]
  simp

/-- A reply ends its command. -/
theorem State.reply_ended (s : State) (c : Cmd) (st : Nat) (p d : Bytes) : Ended c (s.reply c st p d) := s.replyAt_ended c st _ p d

end Sys2Proof.Machine
end

