-- ==== Sys2Proof/Laws/Goes.lean ====
section
/-! SUPPORT. The relation that every operation of the model keeps: a later state differs from an earlier one in named parts only, and its stores stay canonical. -/

namespace Sys2Proof.Machine

open Sys2Proof

/-- s has come from s0 by changes of the parts in W alone, and with canonical stores if s0 had them. -/
def Goes (W : List Part) (s0 s : State) : Prop := ChangesOnly W s0 s ∧ (Canon s0 → Canon s)

/-- Every state that an optional result can be has come from s0. -/
@[irreducible] def GoesO (W : List Part) (s0 : State) (o : Option State) : Prop := ∀ u, o = some u → Goes W s0 u

/-- Every part of the first list is in the second. -/
def subParts (a b : List Part) : Bool := a.all fun p => b.contains p

theorem subParts_mem {a b : List Part} (h : subParts a b = true) {p : Part} (hp : p ∈ a) : p ∈ b := by
  simpa using (List.all_eq_true.mp h) p hp

theorem subT {a b W : List Part} (h : subParts a b = true) (hW : subParts b W = true) : subParts a W = true :=
  List.all_eq_true.mpr fun _ hp => by simpa using subParts_mem hW (subParts_mem h hp)

theorem Goes.refl (W : List Part) (s : State) : Goes W s s := ⟨ChangesOnly.refl W s, id⟩

theorem Goes.trans {W : List Part} {s t u : State} (h : Goes W s t) (h' : Goes W t u) : Goes W s u :=
  ⟨h.1.trans h'.1, fun c => h'.2 (h.2 c)⟩

/-- A change of named parts that keeps the stores canonical. -/
theorem Goes.upd {W : List Part} {s0 b t : State} (P : List Part) (_ : t.pending = b.pending) (hP : subParts P W = true)
    (hs : ChangesOnly P b t) (c : Canon b → Canon t) (h : Goes W s0 b) : Goes W s0 t :=
  h.trans ⟨hs.mono fun _ hp => subParts_mem hP hp, c⟩

theorem Goes.cut {W : List Part} {s0 x : State} {G : Prop} (h : Goes W s0 x) (g : Goes W s0 x → G) : G := g h

theorem Goes.foldl {W : List Part} {s0 : State} {α : Type} {f : State → α → State} {l : List α} {s : State}
    (hf : ∀ t x, Goes W s0 t → Goes W s0 (f t x)) (h : Goes W s0 s) : Goes W s0 (l.foldl f s) := by
  induction l generalizing s with
  | nil => exact h
  | cons x r ih => exact ih (hf _ _ h)

/-- A fold that carries the state with other data. -/
theorem Goes.foldlP {W : List Part} {s0 : State} {α β : Type} {f : State × β → α → State × β} {l : List α} {a : State × β}
    (hf : ∀ t x, Goes W s0 t.1 → Goes W s0 (f t x).1) (h : Goes W s0 a.1) : Goes W s0 (l.foldl f a).1 := by
  induction l generalizing a with
  | nil => exact h
  | cons x r ih => exact ih (hf _ _ h)

theorem GoesO.elim {W : List Part} {s0 u : State} {o : Option State} (h : GoesO W s0 o) (e : o = some u) : Goes W s0 u := by
  unfold GoesO at h; exact h u e

theorem GoesO.none {W : List Part} {s0 : State} : GoesO W s0 none := by unfold GoesO; intro u e; cases e

theorem GoesO.some {W : List Part} {s0 s : State} (h : Goes W s0 s) : GoesO W s0 (some s) := by
  unfold GoesO; intro u e; cases e; exact h

/-! ### Branches -/

theorem Goes.ite {W : List Part} {s0 a b : State} {c : Prop} [Decidable c] (ha : Goes W s0 a) (hb : Goes W s0 b) : Goes W s0 (if c then a else b) := by
  split <;> assumption

theorem Goes.iteFst {α : Type} {W : List Part} {s0 : State} {a b : State × α} {c : Prop} [Decidable c] (ha : Goes W s0 a.1) (hb : Goes W s0 b.1) :
    Goes W s0 (if c then a else b).1 := by
  split <;> assumption

theorem Goes.iteOut {W : List Part} {s0 : State} {a b : VOut} {c : Prop} [Decidable c] (ha : Goes W s0 a.st) (hb : Goes W s0 b.st) :
    Goes W s0 (if c then a else b).st := by
  split <;> assumption

theorem Goes.iteJ {W : List Part} {s0 : State} {a b : Judged} {c : Prop} [Decidable c] (ha : Goes W s0 a.s) (hb : Goes W s0 b.s) :
    Goes W s0 (if c then a else b).s := by
  split <;> assumption

theorem GoesO.ite {W : List Part} {s0 : State} {a b : Option State} {c : Prop} [Decidable c] (ha : GoesO W s0 a) (hb : GoesO W s0 b) :
    GoesO W s0 (if c then a else b) := by
  split <;> assumption

theorem GoesO.getD {W : List Part} {s0 d : State} {o : Option State} (ho : GoesO W s0 o) (hd : Goes W s0 d) : Goes W s0 (o.getD d) := by
  cases o with
  | none => exact hd
  | some u => exact ho.elim rfl

theorem GoesO.map {α : Type} {W : List Part} {s0 : State} {f : α → State} {o : Option α} (h : ∀ x, Goes W s0 (f x)) : GoesO W s0 (o.map f) := by
  cases o with
  | none => exact GoesO.none
  | some x => exact GoesO.some (h x)

theorem GoesO.mapS {W : List Part} {s0 : State} {f : State → State} {o : Option State} (ho : GoesO W s0 o) (h : ∀ x, Goes W s0 x → Goes W s0 (f x)) :
    GoesO W s0 (o.map f) := by
  cases o with
  | none => exact GoesO.none
  | some x => exact GoesO.some (h x (ho.elim rfl))

theorem GoesO.findSome {α : Type} {W : List Part} {s0 : State} {f : α → Option State} {l : List α} (h : ∀ x, GoesO W s0 (f x)) : GoesO W s0 (l.findSome? f) := by
  induction l with
  | nil => exact GoesO.none
  | cons x r ih =>
    unfold List.findSome?
    split
    · rename_i u e
      exact GoesO.some ((h x).elim e)
    · exact ih

/-! ### Changes of one field -/

theorem goes_set_out {W : List Part} {s0 : State} (s : State) (v : List Out) (hW : subParts [.out] W = true) (h : Goes W s0 s) : Goes W s0 { s with out := v } :=
  Goes.upd (b := s) [.out] rfl hW (by intro p hp; cases p <;> first | rfl | simp at hp) (fun c => c) h
theorem goes_set_resp {W : List Part} {s0 : State} (s : State) (v : Resp) (hW : subParts [.resp] W = true) (h : Goes W s0 s) : Goes W s0 { s with resp := v } :=
  Goes.upd (b := s) [.resp] rfl hW (by intro p hp; cases p <;> first | rfl | simp at hp) (fun c => c) h
theorem goes_set_free {W : List Part} {s0 : State} (s : State) (v : Nat) (hW : subParts [.free] W = true) (h : Goes W s0 s) : Goes W s0 { s with free := v } :=
  Goes.upd (b := s) [.free] rfl hW (by intro p hp; cases p <;> first | rfl | simp at hp) (fun c => c) h
theorem goes_set_cnt {W : List Part} {s0 : State} (s : State) (v : DWord) (hW : subParts [.cnt] W = true) (h : Goes W s0 s) : Goes W s0 { s with cnt := v } :=
  Goes.upd (b := s) [.cnt] rfl hW (by intro p hp; cases p <;> first | rfl | simp at hp) (fun c => c) h
theorem goes_set_edgeCnt {W : List Part} {s0 : State} (s : State) (v : DWord) (hW : subParts [.edgeCnt] W = true) (h : Goes W s0 s) : Goes W s0 { s with edgeCnt := v } :=
  Goes.upd (b := s) [.edgeCnt] rfl hW (by intro p hp; cases p <;> first | rfl | simp at hp) (fun c => c) h
theorem goes_set_netEdge {W : List Part} {s0 : State} (s : State) (v : Bool) (hW : subParts [.netEdge] W = true) (h : Goes W s0 s) : Goes W s0 { s with netEdge := v } :=
  Goes.upd (b := s) [.netEdge] rfl hW (by intro p hp; cases p <;> first | rfl | simp at hp) (fun c => c) h
theorem goes_set_mbx {W : List Part} {s0 : State} (s : State) (v : Mbx) (hW : subParts [.mbx] W = true) (h : Goes W s0 s) : Goes W s0 { s with mbx := v } :=
  Goes.upd (b := s) [.mbx] rfl hW (by intro p hp; cases p <;> first | rfl | simp at hp) (fun c => c) h
theorem goes_set_mkt {W : List Part} {s0 : State} (s : State) (v : Mkt) (hW : subParts [.mkt] W = true) (h : Goes W s0 s) : Goes W s0 { s with mkt := v } :=
  Goes.upd (b := s) [.mkt] rfl hW (by intro p hp; cases p <;> first | rfl | simp at hp) (fun c => c) h
theorem goes_set_que {W : List Part} {s0 : State} (s : State) (v : Que) (hW : subParts [.que] W = true) (h : Goes W s0 s) : Goes W s0 { s with que := v } :=
  Goes.upd (b := s) [.que] rfl hW (by intro p hp; cases p <;> first | rfl | simp at hp) (fun c => c) h
theorem goes_set_chk {W : List Part} {s0 : State} (s : State) (v : List ChkUnit) (hW : subParts [.chk] W = true) (h : Goes W s0 s) : Goes W s0 { s with chk := v } :=
  Goes.upd (b := s) [.chk] rfl hW (by intro p hp; cases p <;> first | rfl | simp at hp) (fun c => c) h
theorem goes_set_ldg {W : List Part} {s0 : State} (s : State) (v : Ldg) (hW : subParts [.ldg] W = true) (h : Goes W s0 s) : Goes W s0 { s with ldg := v } :=
  Goes.upd (b := s) [.ldg] rfl hW (by intro p hp; cases p <;> first | rfl | simp at hp) (fun c => c) h
theorem goes_set_ntm {W : List Part} {s0 : State} (s : State) (v : Ntm) (hW : subParts [.ntm] W = true) (h : Goes W s0 s) : Goes W s0 { s with ntm := v } :=
  Goes.upd (b := s) [.ntm] rfl hW (by intro p hp; cases p <;> first | rfl | simp at hp) (fun c => c) h
theorem goes_set_boot {W : List Part} {s0 : State} (s : State) (v : Boot) (hW : subParts [.boot] W = true) (h : Goes W s0 s) : Goes W s0 { s with boot := v } :=
  Goes.upd (b := s) [.boot] rfl hW (by intro p hp; cases p <;> first | rfl | simp at hp) (fun c => c) h
theorem goes_set_pwt {W : List Part} {s0 : State} (s : State) (v : Pwt) (hW : subParts [.pwt] W = true) (h : Goes W s0 s) : Goes W s0 { s with pwt := v } :=
  Goes.upd (b := s) [.pwt] rfl hW (by intro p hp; cases p <;> first | rfl | simp at hp) (fun c => c) h
theorem goes_set_vlt {W : List Part} {s0 : State} (s : State) (v : Vlt) (hW : subParts [.vlt] W = true) (h : Goes W s0 s) : Goes W s0 { s with vlt := v } :=
  Goes.upd (b := s) [.vlt] rfl hW (by intro p hp; cases p <;> first | rfl | simp at hp) (fun c => c) h
theorem goes_set_cry {W : List Part} {s0 : State} (s : State) (v : Cry) (hW : subParts [.cry] W = true) (h : Goes W s0 s) : Goes W s0 { s with cry := v } :=
  Goes.upd (b := s) [.cry] rfl hW (by intro p hp; cases p <;> first | rfl | simp at hp) (fun c => c) h
theorem goes_set_rad {W : List Part} {s0 : State} (s : State) (v : List Rad) (hW : subParts [.rad] W = true) (h : Goes W s0 s) : Goes W s0 { s with rad := v } :=
  Goes.upd (b := s) [.rad] rfl hW (by intro p hp; cases p <;> first | rfl | simp at hp) (fun c => c) h
theorem goes_set_chn {W : List Part} {s0 : State} (s : State) (v : Chn) (hW : subParts [.chn] W = true) (h : Goes W s0 s) : Goes W s0 { s with chn := v } :=
  Goes.upd (b := s) [.chn] rfl hW (by intro p hp; cases p <;> first | rfl | simp at hp) (fun c => c) h
theorem goes_set_lnk {W : List Part} {s0 : State} (s : State) (v : Lnk) (hW : subParts [.lnk] W = true) (h : Goes W s0 s) : Goes W s0 { s with lnk := v } :=
  Goes.upd (b := s) [.lnk] rfl hW (by intro p hp; cases p <;> first | rfl | simp at hp) (fun c => c) h
theorem goes_set_bcn {W : List Part} {s0 : State} (s : State) (v : Bcn) (hW : subParts [.bcn] W = true) (h : Goes W s0 s) : Goes W s0 { s with bcn := v } :=
  Goes.upd (b := s) [.bcn] rfl hW (by intro p hp; cases p <;> first | rfl | simp at hp) (fun c => c) h
theorem goes_set_net {W : List Part} {s0 : State} (s : State) (v : Net) (hW : subParts [.net] W = true) (h : Goes W s0 s) : Goes W s0 { s with net := v } :=
  Goes.upd (b := s) [.net] rfl hW (by intro p hp; cases p <;> first | rfl | simp at hp) (fun c => c) h
theorem goes_set_cor {W : List Part} {s0 : State} (s : State) (v : Cor) (hW : subParts [.cor] W = true) (h : Goes W s0 s) : Goes W s0 { s with cor := v } :=
  Goes.upd (b := s) [.cor] rfl hW (by intro p hp; cases p <;> first | rfl | simp at hp) (fun c => c) h
theorem goes_set_lvl {W : List Part} {s0 : State} (s : State) (v : Lvl) (hW : subParts [.lvl] W = true) (h : Goes W s0 s) : Goes W s0 { s with lvl := v } :=
  Goes.upd (b := s) [.lvl] rfl hW (by intro p hp; cases p <;> first | rfl | simp at hp) (fun c => c) h
theorem goes_set_fsw {W : List Part} {s0 : State} (s : State) (v : Fsw) (hW : subParts [.fsw] W = true) (h : Goes W s0 s) : Goes W s0 { s with fsw := v } :=
  Goes.upd (b := s) [.fsw] rfl hW (by intro p hp; cases p <;> first | rfl | simp at hp) (fun c => c) h
theorem goes_set_port {W : List Part} {s0 : State} (s : State) (v : List Port) (hW : subParts [.port] W = true) (h : Goes W s0 s) : Goes W s0 { s with port := v } :=
  Goes.upd (b := s) [.port] rfl hW (by intro p hp; cases p <;> first | rfl | simp at hp) (fun c => c) h
theorem goes_set_drg {W : List Part} {s0 : State} (s : State) (v : Drg) (hW : subParts [.drg] W = true) (h : Goes W s0 s) : Goes W s0 { s with drg := v } :=
  Goes.upd (b := s) [.drg] rfl hW (by intro p hp; cases p <;> first | rfl | simp at hp) (fun c => c) h
theorem goes_set_scl {W : List Part} {s0 : State} (s : State) (v : Scl) (hW : subParts [.scl] W = true) (h : Goes W s0 s) : Goes W s0 { s with scl := v } :=
  Goes.upd (b := s) [.scl] rfl hW (by intro p hp; cases p <;> first | rfl | simp at hp) (fun c => c) h
theorem goes_set_nrg {W : List Part} {s0 : State} (s : State) (v : Nrg) (hW : subParts [.nrg] W = true) (h : Goes W s0 s) : Goes W s0 { s with nrg := v } :=
  Goes.upd (b := s) [.nrg] rfl hW (by intro p hp; cases p <;> first | rfl | simp at hp) (fun c => c) h
theorem goes_set_ibg {W : List Part} {s0 : State} (s : State) (v : Ibg) (hW : subParts [.ibg] W = true) (h : Goes W s0 s) : Goes W s0 { s with ibg := v } :=
  Goes.upd (b := s) [.ibg] rfl hW (by intro p hp; cases p <;> first | rfl | simp at hp) (fun c => c) h
theorem goes_set_rmc {W : List Part} {s0 : State} (s : State) (v : Rmc) (hW : subParts [.rmc] W = true) (h : Goes W s0 s) : Goes W s0 { s with rmc := v } :=
  Goes.upd (b := s) [.rmc] rfl hW (by intro p hp; cases p <;> first | rfl | simp at hp) (fun c => c) h
theorem goes_set_fov {W : List Part} {s0 : State} (s : State) (v : Fov) (hW : subParts [.fov] W = true) (h : Goes W s0 s) : Goes W s0 { s with fov := v } :=
  Goes.upd (b := s) [.fov] rfl hW (by intro p hp; cases p <;> first | rfl | simp at hp) (fun c => c) h
theorem goes_set_upd {W : List Part} {s0 : State} (s : State) (v : Upd) (hW : subParts [.upd] W = true) (h : Goes W s0 s) : Goes W s0 { s with upd := v } :=
  Goes.upd (b := s) [.upd] rfl hW (by intro p hp; cases p <;> first | rfl | simp at hp) (fun c => c) h

/-- Taking a PBA bit or an output adds to the parts alone. -/
theorem goes_emit {W : List Part} {s0 : State} (s : State) (o : Out) (hW : subParts [.out] W = true) (h : Goes W s0 s) : Goes W s0 (s.emit o) :=
  Goes.upd (b := s) [.out] rfl hW (by intro p hp; cases p <;> first | rfl | simp at hp) (fun c => c) h

/-- Writing a register keeps the register file canonical. -/
theorem goes_wr {W : List Part} {s0 : State} (s : State) (a : Nat) (v : Word) (hW : subParts [.regs] W = true) (h : Goes W s0 s) : Goes W s0 (s.wr a v) :=
  Goes.upd (b := s) [.regs] rfl hW (by intro p hp; cases p <;> first | rfl | simp at hp) (fun c => ⟨Sparse.set_wf _ _ _ _ c.1, c.2⟩) h

end Sys2Proof.Machine
end

