-- ==== Sys2Proof/Laws/GoesRegs.lean ====
section
/-! SUPPORT. What the operations of Machine/Regs.lean can change: one lemma each. -/

set_option linter.unreachableTactic false
set_option linter.unusedTactic false

namespace Sys2Proof.Machine

open Sys2Proof

theorem goes_wf {W : List Part} {s0 : State} (s : State) (a : Nat) (lo : Nat) (n : Nat) (v : Nat) (hW : subParts [.regs] W = true) (hg : Goes W s0 s) : Goes W s0 (State.wf s a lo n v) := by
  unfold State.wf
  repeat' first
    | with_reducible assumption
    | (with_reducible refine goes_wr _ _ _ ?_ ?_; exact subT rfl hW)

theorem goes_wb {W : List Part} {s0 : State} (s : State) (a : Nat) (i : Nat) (v : Bool) (hW : subParts [.regs] W = true) (hg : Goes W s0 s) : Goes W s0 (State.wb s a i v) := by
  unfold State.wb
  repeat' first
    | with_reducible assumption
    | (with_reducible refine goes_wr _ _ _ ?_ ?_; exact subT rfl hW)

theorem goes_bumpSat {W : List Part} {s0 : State} (s : State) (a : Nat) (n : Nat) (hW : subParts [.regs] W = true) (hg : Goes W s0 s) : Goes W s0 (State.bumpSat s a n) := by
  unfold State.bumpSat
  repeat' first
    | with_reducible assumption
    | (with_reducible refine goes_wr _ _ _ ?_ ?_; exact subT rfl hW)

theorem goes_bump {W : List Part} {s0 : State} (s : State) (a : Nat) (n : Nat) (hW : subParts [.regs] W = true) (hg : Goes W s0 s) : Goes W s0 (State.bump s a n) := by
  unfold State.bump
  repeat' first
    | with_reducible assumption
    | (with_reducible refine goes_wr _ _ _ ?_ ?_; exact subT rfl hW)

theorem goes_wr64 {W : List Part} {s0 : State} (s : State) (lo : Nat) (hi : Nat) (v : Nat) (hW : subParts [.regs] W = true) (hg : Goes W s0 s) : Goes W s0 (State.wr64 s lo hi v) := by
  unfold State.wr64
  repeat' first
    | with_reducible assumption
    | lift_lets
    | (with_reducible refine goes_wr _ _ _ ?_ ?_; exact subT rfl hW)

theorem goes_answer {W : List Part} {s0 : State} (s : State) (r : Resp) (hW : subParts [.resp] W = true) (hg : Goes W s0 s) : Goes W s0 (State.answer s r) := by
  unfold State.answer
  repeat' first
    | with_reducible assumption
    | (fail_if_no_progress (with_reducible refine goes_set_resp _ _ ?_ ?_; exact subT rfl hW))

theorem goes_setRstBit {W : List Part} {s0 : State} (s : State) (a : Nat) (i : Nat) (v : Bool) (hW : subParts [.regs] W = true) (hg : Goes W s0 s) : Goes W s0 (State.setRstBit s a i v) := by
  unfold State.setRstBit
  repeat' first
    | with_reducible assumption
    | lift_lets
    | (with_reducible refine goes_wb _ _ _ _ ?_ ?_; exact subT rfl hW)
    | (with_reducible refine Goes.ite ?_ ?_)

theorem goes_draw {W : List Part} {s0 : State} (s : State) (n : Nat) (hW : subParts [.free] W = true) (hg : Goes W s0 s) : Goes W s0 (State.draw s n) := by
  unfold State.draw
  repeat' first
    | with_reducible assumption
    | (fail_if_no_progress (with_reducible refine goes_set_free _ _ ?_ ?_; exact subT rfl hW))

end Sys2Proof.Machine
end

