-- ==== Sys2Proof/Laws/GoesFlags.lean ====
section
/-! SUPPORT. What the operations of Machine/Flags.lean can change: one lemma each. -/

set_option linter.unreachableTactic false
set_option linter.unusedTactic false

namespace Sys2Proof.Machine

open Sys2Proof

theorem goes_fireVec {W : List Part} {s0 : State} (s : State) (v : Nat) (hW : subParts [.out, .pba] W = true) (hg : Goes W s0 s) : Goes W s0 (State.fireVec s v) := by
  unfold State.fireVec
  repeat' first
    | with_reducible assumption
    | intro x
    | lift_lets
    | (with_reducible refine goes_emit _ _ ?_ ?_; exact subT rfl hW)
    | (with_reducible refine Goes.ite ?_ ?_)
    | (fail_if_no_progress (apply Goes.upd [.pba]; dsimp only; exact subT rfl hW; (intro p hp; cases p <;> first | rfl | simp at hp); exact fun c => c))

theorem goes_fireRising {W : List Part} {s0 : State} (b : Blk) (old : State) (l : List (Nat × Word)) (s : State) (hW : subParts [.out, .pba] W = true) (h : Goes W s0 s) : Goes W s0 (fireRising b old l s) := by
  induction l generalizing s with
  | nil => exact h
  | cons x r ih =>
    unfold fireRising
    refine ih _ ?_
    repeat' first
      | assumption
      | refine goes_fireVec _ _ (subT rfl hW) ?_
      | split

theorem goes_irqChange {W : List Part} {s0 : State} (s : State) (b : Blk) (f : State → State) (hW : subParts [.out, .pba] W = true)
    (hf : ∀ t, Goes W s0 t → Goes W s0 (f t)) (h : Goes W s0 s) : Goes W s0 (s.irqChange b f) :=
  goes_fireRising _ _ _ _ (subT rfl hW) (hf _ h)

theorem goes_irqBits {W : List Part} {s0 : State} (s : State) (b : Blk) (v : Word) (hW : subParts [.regs, .out, .pba] W = true) (hg : Goes W s0 s) : Goes W s0 (State.irqBits s b v) := by
  unfold State.irqBits
  repeat' first
    | with_reducible assumption
    | lift_lets
    | (with_reducible refine goes_wr _ _ _ ?_ ?_; exact subT rfl hW)
    | (with_reducible refine goes_irqChange _ _ _ ?_ (fun _ _ => ?_) ?_; exact subT rfl hW)

theorem goes_irq {W : List Part} {s0 : State} (s : State) (b : Blk) (i : Nat) (hW : subParts [.regs, .out, .pba] W = true) (hg : Goes W s0 s) : Goes W s0 (State.irq s b i) := by
  unfold State.irq
  repeat' first
    | with_reducible assumption
    | (with_reducible refine goes_irqBits _ _ _ ?_ ?_; exact subT rfl hW)

theorem goes_fireHolding {W : List Part} {s0 : State} (b : Blk) (l : List (Nat × Word)) (s : State) (hW : subParts [.out, .pba] W = true) (h : Goes W s0 s) : Goes W s0 (fireHolding b l s) := by
  induction l generalizing s with
  | nil => exact h
  | cons x r ih =>
    unfold fireHolding
    refine ih _ ?_
    repeat' first
      | assumption
      | refine goes_fireVec _ _ (subT rfl hW) ?_
      | split

theorem goes_irqClear {W : List Part} {s0 : State} (s : State) (b : Blk) (v : Word) (hW : subParts [.regs, .out, .pba] W = true) (hg : Goes W s0 s) : Goes W s0 (State.irqClear s b v) := by
  unfold State.irqClear
  repeat' first
    | with_reducible assumption
    | lift_lets
    | (with_reducible refine goes_wr _ _ _ ?_ ?_; exact subT rfl hW)
    | (with_reducible refine goes_fireHolding _ _ _ ?_ ?_; exact subT rfl hW)

theorem goes_irqEnable {W : List Part} {s0 : State} (s : State) (b : Blk) (v : Word) (hW : subParts [.regs, .out, .pba] W = true) (hg : Goes W s0 s) : Goes W s0 (State.irqEnable s b v) := by
  unfold State.irqEnable
  repeat' first
    | with_reducible assumption
    | lift_lets
    | (with_reducible refine goes_wr _ _ _ ?_ ?_; exact subT rfl hW)
    | (with_reducible refine goes_irqChange _ _ _ ?_ (fun _ _ => ?_) ?_; exact subT rfl hW)

theorem goes_err {W : List Part} {s0 : State} (s : State) (b : Blk) (code : Nat) (off : Nat) (m : Master) (hW : subParts [.regs, .out, .pba] W = true) (hg : Goes W s0 s) : Goes W s0 (State.err s b code off m) := by
  unfold State.err
  repeat' first
    | with_reducible assumption
    | intro x
    | lift_lets
    | (with_reducible refine goes_wr _ _ _ ?_ ?_; exact subT rfl hW)
    | (with_reducible refine goes_irq _ _ _ ?_ ?_; exact subT rfl hW)

theorem goes_setDrained {W : List Part} {s0 : State} (s : State) (b : Blk) (hW : subParts [.regs, .out, .pba] W = true) (hg : Goes W s0 s) : Goes W s0 (State.setDrained s b) := by
  unfold State.setDrained
  repeat' first
    | with_reducible assumption
    | lift_lets
    | (with_reducible refine goes_wb _ _ _ _ ?_ ?_; exact subT rfl hW)
    | (with_reducible refine goes_irq _ _ _ ?_ ?_; exact subT rfl hW)
    | (with_reducible refine Goes.ite ?_ ?_)

theorem goes_fireSw {W : List Part} {s0 : State} (old new : Word) (l : List Nat) (s : State) (hW : subParts [.out, .pba] W = true) (h : Goes W s0 s) : Goes W s0 (fireSw old new l s) := by
  induction l generalizing s with
  | nil => exact h
  | cons x r ih =>
    unfold fireSw
    refine ih _ ?_
    repeat' first
      | assumption
      | refine goes_fireVec _ _ (subT rfl hW) ?_
      | split

theorem goes_fireSwHolding {W : List Part} {s0 : State} (new : Word) (l : List Nat) (s : State) (hW : subParts [.out, .pba] W = true) (h : Goes W s0 s) : Goes W s0 (fireSwHolding new l s) := by
  induction l generalizing s with
  | nil => exact h
  | cons x r ih =>
    unfold fireSwHolding
    refine ih _ ?_
    repeat' first
      | assumption
      | refine goes_fireVec _ _ (subT rfl hW) ?_
      | split

end Sys2Proof.Machine
end

