-- ==== Sys2Proof/Laws/GoesOps.lean ====
section
/-! SUPPORT. What the operations of Machine/Ops.lean can change: one lemma each. -/

set_option linter.unreachableTactic false
set_option linter.unusedTactic false

namespace Sys2Proof.Machine

open Sys2Proof

theorem goes_at {W : List Part} {s0 : State} (s : State) (c : DWord) (hW : subParts [.cnt] W = true) (hg : Goes W s0 s) : Goes W s0 (State.at s c) := by
  unfold State.at
  repeat' first
    | with_reducible assumption
    | split
    | (fail_if_no_progress (with_reducible refine goes_set_cnt _ _ ?_ ?_; exact subT rfl hW))

theorem goes_logGroup {W : List Part} {s0 : State} (s : State) (m : Master) (code : Nat) (sev : Nat) (src : Nat) (ps : List (Word × Word × Word)) (hW : subParts [.regs, .out, .ldg, .pba] W = true) (hg : Goes W s0 s) : Goes W s0 (State.logGroup s m code sev src ps) := by
  unfold State.logGroup
  repeat' first
    | with_reducible assumption
    | (intro x; refine Goes.cut (W := W) (s0 := s0) (x := x) ?_ ?_; rotate_left; clear_value x; intro hx; rotate_right)
    | intro x
    | lift_lets
    | (with_reducible refine goes_bumpSat _ _ _ ?_ ?_; exact subT rfl hW)
    | (with_reducible refine goes_irq _ _ _ ?_ ?_; exact subT rfl hW)
    | (with_reducible refine goes_err _ _ _ _ _ ?_ ?_; exact subT rfl hW)
    | (with_reducible refine Goes.ite ?_ ?_)
    | (fail_if_no_progress (with_reducible refine goes_set_ldg _ _ ?_ ?_; exact subT rfl hW))

theorem goes_ledger {W : List Part} {s0 : State} (s : State) (code : Nat) (sev : Nat) (src : Nat) (p0 : Nat) (p1 : Nat) (p2 : Nat) (hW : subParts [.regs, .out, .ldg, .pba] W = true) (hg : Goes W s0 s) : Goes W s0 (State.ledger s code sev src p0 p1 p2) := by
  unfold State.ledger
  repeat' first
    | with_reducible assumption
    | (with_reducible refine goes_logGroup _ _ _ _ _ _ ?_ ?_; exact subT rfl hW)

theorem goes_noTime {W : List Part} {s0 : State} (s : State) (b : Blk) (t : Word) (hW : subParts [.regs, .out, .ldg, .pba] W = true) (hg : Goes W s0 s) : Goes W s0 (State.noTime s b t) := by
  unfold State.noTime
  repeat' first
    | with_reducible assumption
    | (with_reducible refine goes_ledger _ _ _ _ _ _ _ ?_ ?_; exact subT rfl hW)

theorem goes_putM2h {W : List Part} {s0 : State} (s : State) (o : MbxOut) (hW : subParts [.regs, .out, .mbx, .pba] W = true) (hg : Goes W s0 s) : Goes W s0 (State.putM2h s o) := by
  unfold State.putM2h
  repeat' first
    | with_reducible assumption
    | (intro x; refine Goes.cut (W := W) (s0 := s0) (x := x) ?_ ?_; rotate_left; clear_value x; intro hx; rotate_right)
    | intro x
    | lift_lets
    | (with_reducible refine goes_wr _ _ _ ?_ ?_; exact subT rfl hW)
    | (with_reducible refine goes_irq _ _ _ ?_ ?_; exact subT rfl hW)
    | split
    | (fail_if_no_progress (apply Goes.upd [.out, .mbx]; dsimp only; exact subT rfl hW; (intro p hp; cases p <;> first | rfl | simp at hp); exact fun c => c))
    | (dsimp +zetaDelta only)

theorem goes_flushHeld {W : List Part} {s0 : State} (n : Nat) (s : State) (hW : subParts [.regs, .out, .mbx, .pba] W = true) (h : Goes W s0 s) : Goes W s0 (flushHeld n s) := by
  induction n generalizing s with
  | zero => exact h
  | succ n ih =>
    unfold flushHeld
    split
    · exact h
    · split
      · refine ih _ (goes_putM2h _ _ hW ?_)
        exact Goes.upd (b := s) [.mbx] rfl (subT rfl hW) (by intro p hp; cases p <;> first | rfl | simp at hp) (fun c => c) h
      · exact h

theorem goes_putReply {W : List Part} {s0 : State} (s : State) (o : MbxOut) (hW : subParts [.regs, .out, .mbx, .pba] W = true) (hg : Goes W s0 s) : Goes W s0 (State.putReply s o) := by
  unfold State.putReply
  repeat' first
    | with_reducible assumption
    | intro x
    | lift_lets
    | (with_reducible refine goes_flushHeld _ _ ?_ ?_; exact subT rfl hW)
    | (fail_if_no_progress (with_reducible refine goes_set_mbx _ _ ?_ ?_; exact subT rfl hW))

theorem goes_replyAt {W : List Part} {s0 : State} (s : State) (c : Cmd) (status : Nat) (apply : Word) (param : Bytes) (data : Bytes) (hW : subParts [.regs, .out, .mbx, .pba] W = true) (hg : Goes W s0 s) : Goes W s0 (State.replyAt s c status apply param data) := by
  unfold State.replyAt
  repeat' first
    | with_reducible assumption
    | (intro x; refine Goes.cut (W := W) (s0 := s0) (x := x) ?_ ?_; rotate_left; clear_value x; intro hx; rotate_right)
    | intro x
    | lift_lets
    | (with_reducible refine goes_putReply _ _ ?_ ?_; exact subT rfl hW)
    | (fail_if_no_progress (with_reducible refine goes_set_mbx _ _ ?_ ?_; exact subT rfl hW))

theorem goes_reply {W : List Part} {s0 : State} (s : State) (c : Cmd) (status : Nat) (param : Bytes) (data : Bytes) (hW : subParts [.regs, .out, .mbx, .pba] W = true) (hg : Goes W s0 s) : Goes W s0 (State.reply s c status param data) := by
  unfold State.reply
  repeat' first
    | with_reducible assumption
    | (with_reducible refine goes_replyAt _ _ _ _ _ _ ?_ ?_; exact subT rfl hW)

theorem goes_defer {W : List Part} {s0 : State} (s : State) (c : Cmd) (hW : subParts [.mbx] W = true) (hg : Goes W s0 s) : Goes W s0 (State.defer s c) := by
  unfold State.defer
  repeat' first
    | with_reducible assumption
    | intro x
    | lift_lets
    | (fail_if_no_progress (with_reducible refine goes_set_mbx _ _ ?_ ?_; exact subT rfl hW))

theorem goes_withCmd {W : List Part} {s0 : State} (s : State) (opc : Nat) (tag : Word) (f : Cmd → State → State)
    (hW : subParts [.regs, .out, .mbx, .ldg, .pba] W = true) (hf : ∀ c t, Goes W s0 t → Goes W s0 (f c t)) (h : Goes W s0 s) : Goes W s0 (s.withCmd opc tag f) := by
  unfold State.withCmd
  repeat' first
    | assumption
    | refine goes_noTime _ _ _ (subT rfl hW) ?_
    | refine goes_reply _ _ _ _ _ (subT rfl hW) ?_
    | refine hf _ _ ?_
    | split

theorem goes_event {W : List Part} {s0 : State} (s : State) (code : Nat) (src : Nat) (param : Bytes) (hW : subParts [.regs, .out, .mbx, .ldg, .pba] W = true) (hg : Goes W s0 s) : Goes W s0 (State.event s code src param) := by
  unfold State.event
  repeat' first
    | with_reducible assumption
    | (intro x; refine Goes.cut (W := W) (s0 := s0) (x := x) ?_ ?_; rotate_left; clear_value x; intro hx; rotate_right)
    | intro x
    | lift_lets
    | (with_reducible refine goes_logGroup _ _ _ _ _ _ ?_ ?_; exact subT rfl hW)
    | (with_reducible refine goes_putM2h _ _ ?_ ?_; exact subT rfl hW)
    | (with_reducible refine Goes.ite ?_ ?_)
    | (fail_if_no_progress (with_reducible refine goes_set_mbx _ _ ?_ ?_; exact subT rfl hW))

end Sys2Proof.Machine
end

