-- ==== Sys2Proof/Laws/GoesAccess.lean ====
section
/-! SUPPORT. What the operations of Machine/Access.lean can change: one lemma each. -/

set_option linter.unreachableTactic false
set_option linter.unusedTactic false

namespace Sys2Proof.Machine

open Sys2Proof

theorem goes_onPage {W : List Part} {s0 : State} (s : State) (b : Blk) (off : Nat) (m : Master) (f : State → State)
    (hW : subParts [.regs, .out, .resp, .pba] W = true) (hf : ∀ t, Goes W s0 t → Goes W s0 (f t)) (h : Goes W s0 s) : Goes W s0 (s.onPage b off m f) := by
  unfold State.onPage
  split
  · exact goes_answer _ _ (subT rfl hW) (goes_err _ _ _ _ _ (subT rfl hW) h)
  · split
    · exact goes_answer _ _ (subT rfl hW) h
    · exact hf _ h

theorem goes_barReq {W : List Part} {s0 : State} (s : State) (m : Master) (r : Bar0Req) (f : State → State)
    (hW : subParts [.resp, .host] W = true) (hf : ∀ t, Goes W s0 t → Goes W s0 (f t)) (h : Goes W s0 s) : Goes W s0 (s.barReq m r f) := by
  unfold State.barReq
  split
  · exact goes_answer _ _ (subT rfl hW) (Goes.upd (b := s) [.host] rfl (subT rfl hW) (by intro p hp; cases p <;> first | rfl | simp at hp) (fun c => c) h)
  · exact hf _ h

theorem goes_writeAt {W : List Part} {s0 : State} (s : State) (b : Blk) (off : Nat) (m : Master) (v : Word) (f : State → State)
    (hW : subParts [.regs, .out, .resp, .host, .pba] W = true) (hf : ∀ t, Goes W s0 t → Goes W s0 (f t)) (h : Goes W s0 s) : Goes W s0 (s.writeAt b off m v f) :=
  goes_barReq _ _ _ _ (subT rfl hW) (fun _ g => goes_onPage _ _ _ _ _ (subT rfl hW) hf g) h

theorem goes_readAt {W : List Part} {s0 : State} (s : State) (b : Blk) (off : Nat) (m : Master) (f : State → State)
    (hW : subParts [.regs, .out, .resp, .host, .pba] W = true) (hf : ∀ t, Goes W s0 t → Goes W s0 (f t)) (h : Goes W s0 s) : Goes W s0 (s.readAt b off m f) :=
  goes_barReq _ _ _ _ (subT rfl hW) (fun _ g => goes_onPage _ _ _ _ _ (subT rfl hW) hf g) h

theorem goes_abortBar0 {W : List Part} {s0 : State} (l : List Bar0Req) (s : State) (hW : subParts [.out] W = true) (hg : Goes W s0 s) : Goes W s0 (abortBar0 l s) := by
  unfold abortBar0
  repeat' first
    | with_reducible assumption
    | lift_lets
    | (with_reducible refine goes_emit _ _ ?_ ?_; exact subT rfl hW)
    | (with_reducible refine Goes.ite ?_ ?_)
    | (refine Goes.foldl (fun _ _ _ => ?_) ?_)

theorem goes_plainWrite {W : List Part} {s0 : State} (s : State) (b : Blk) (a : Nat) (m : Master) (v : Word) (hW : subParts [.regs, .out, .pba] W = true) (hg : Goes W s0 s) : Goes W s0 (State.plainWrite s b a m v) := by
  unfold State.plainWrite
  repeat' first
    | with_reducible assumption
    | (intro x; refine Goes.cut (W := W) (s0 := s0) (x := x) ?_ ?_; rotate_left; clear_value x; intro hx; rotate_right)
    | intro x
    | lift_lets
    | (with_reducible refine goes_wr _ _ _ ?_ ?_; exact subT rfl hW)
    | (with_reducible refine goes_err _ _ _ _ _ ?_ ?_; exact subT rfl hW)
    | (with_reducible refine Goes.ite ?_ ?_)
    | split

theorem goes_unlessLocked {W : List Part} {s0 : State} (s : State) (b : Blk) (off : Nat) (m : Master) (f : State → State)
    (hW : subParts [.regs, .out, .pba] W = true) (hf : ∀ t, Goes W s0 t → Goes W s0 (f t)) (h : Goes W s0 s) : Goes W s0 (s.unlessLocked b off m f) := by
  unfold State.unlessLocked
  split
  · exact goes_err _ _ _ _ _ (subT rfl hW) h
  · exact hf _ h

end Sys2Proof.Machine
end

