-- ==== Sys2Proof/Laws/GoesQueues.lean ====
section
/-! SUPPORT. What the operations of Machine/Queues.lean can change: one lemma each. -/

set_option linter.unreachableTactic false
set_option linter.unusedTactic false

namespace Sys2Proof.Machine

open Sys2Proof

theorem goes_setQueue {W : List Part} {s0 : State} (s : State) (q : Nat) (x : Queue) (hW : subParts [.que] W = true) (hg : Goes W s0 s) : Goes W s0 (State.setQueue s q x) := by
  unfold State.setQueue
  repeat' first
    | with_reducible assumption
    | intro x
    | lift_lets
    | (fail_if_no_progress (with_reducible refine goes_set_que _ _ ?_ ?_; exact subT rfl hW))

theorem goes_pushEnt {W : List Part} {s0 : State} (s : State) (q : Nat) (v : DWord) (hW : subParts [.regs, .out, .que, .pba] W = true) (hg : Goes W s0 s) : Goes W s0 (State.pushEnt s q v) := by
  unfold State.pushEnt
  repeat' first
    | with_reducible assumption
    | (intro x; refine Goes.cut (W := W) (s0 := s0) (x := x) ?_ ?_; rotate_left; clear_value x; intro hx; rotate_right)
    | intro x
    | lift_lets
    | (with_reducible refine goes_irq _ _ _ ?_ ?_; exact subT rfl hW)
    | (with_reducible refine goes_setQueue _ _ _ ?_ ?_; exact subT rfl hW)
    | (with_reducible refine Goes.ite ?_ ?_)

theorem goes_qdrop {W : List Part} {s0 : State} (s : State) (q : Nat) (hW : subParts [.regs] W = true) (hg : Goes W s0 s) : Goes W s0 (State.qdrop s q) := by
  unfold State.qdrop
  repeat' first
    | with_reducible assumption
    | (with_reducible refine goes_bumpSat _ _ _ ?_ ?_; exact subT rfl hW)

theorem goes_qrefuse {W : List Part} {s0 : State} (s : State) (q : Nat) (code : Nat) (off : Nat) (m : Master) (hW : subParts [.regs, .out, .pba] W = true) (hg : Goes W s0 s) : Goes W s0 (State.qrefuse s q code off m) := by
  unfold State.qrefuse
  repeat' first
    | with_reducible assumption
    | lift_lets
    | (with_reducible refine goes_irq _ _ _ ?_ ?_; exact subT rfl hW)
    | (with_reducible refine goes_err _ _ _ _ _ ?_ ?_; exact subT rfl hW)
    | (with_reducible refine goes_qdrop _ _ ?_ ?_; exact subT rfl hW)

theorem goes_qpush {W : List Part} {s0 : State} (s : State) (m : Master) (q : Nat) (hi : Word) (hW : subParts [.regs, .out, .que, .pba] W = true) (hg : Goes W s0 s) : Goes W s0 (State.qpush s m q hi) := by
  unfold State.qpush
  repeat' first
    | with_reducible assumption
    | intro x
    | lift_lets
    | (with_reducible refine goes_err _ _ _ _ _ ?_ ?_; exact subT rfl hW)
    | (with_reducible refine goes_pushEnt _ _ _ ?_ ?_; exact subT rfl hW)
    | (with_reducible refine goes_qdrop _ _ ?_ ?_; exact subT rfl hW)
    | (with_reducible refine goes_qrefuse _ _ _ _ _ ?_ ?_; exact subT rfl hW)
    | (with_reducible refine Goes.ite ?_ ?_)

theorem goes_execQueuePush {W : List Part} {s0 : State} (m : Master) (q : Fin 16) (v : Word) (s : State) (hW : subParts [.regs, .out, .resp, .que, .host, .pba] W = true) (hg : Goes W s0 s) : ∀ t0, execQueuePush m q v s = .next t0 → Goes W s0 t0 := by
  unfold execQueuePush
  intro t0 e0
  obtain rfl := Host.Outcome.next.inj e0
  clear e0
  repeat' first
    | with_reducible assumption
    | lift_lets
    | (with_reducible refine goes_answer _ _ ?_ ?_; exact subT rfl hW)
    | (with_reducible refine goes_writeAt _ _ _ _ _ _ ?_ (fun _ _ => ?_) ?_; exact subT rfl hW)
    | (with_reducible refine goes_qpush _ _ _ _ ?_ ?_; exact subT rfl hW)

theorem goes_hwDrain {W : List Part} {s0 : State} (n q : Nat) (s : State) (hW : subParts [.regs, .out, .que, .pba] W = true) (h : Goes W s0 s) : Goes W s0 (hwDrain n q s) := by
  induction n generalizing s with
  | zero =>
    unfold hwDrain
    repeat' first
      | assumption
  | succ n ih =>
    unfold hwDrain
    repeat' first
      | (with_reducible refine ih _ ?_)
      | with_reducible assumption
      | intro x
      | lift_lets
      | (with_reducible refine goes_err _ _ _ _ _ ?_ ?_; exact subT rfl hW)
      | (with_reducible refine goes_setQueue _ _ _ ?_ ?_; exact subT rfl hW)
      | (with_reducible refine goes_pushEnt _ _ _ ?_ ?_; exact subT rfl hW)
      | (with_reducible refine goes_qdrop _ _ ?_ ?_; exact subT rfl hW)
      | (with_reducible refine Goes.ite ?_ ?_)
      | split

theorem goes_hwPush {W : List Part} {s0 : State} (s : State) (q : Nat) (v : DWord) (hW : subParts [.regs, .out, .que, .pba] W = true) (hg : Goes W s0 s) : Goes W s0 (State.hwPush s q v) := by
  unfold State.hwPush
  repeat' first
    | with_reducible assumption
    | intro x
    | lift_lets
    | (with_reducible refine goes_setQueue _ _ _ ?_ ?_; exact subT rfl hW)
    | (with_reducible refine goes_hwDrain _ _ _ ?_ ?_; exact subT rfl hW)

theorem goes_execQueueHwPush {W : List Part} {s0 : State} (q : Fin 16) (s : State) (hW : subParts [.regs, .out, .que, .pba] W = true) (hg : Goes W s0 s) : ∀ t0, execQueueHwPush q s = .next t0 → Goes W s0 t0 := by
  unfold execQueueHwPush
  intro t0 e0
  obtain rfl := Host.Outcome.next.inj e0
  clear e0
  repeat' first
    | with_reducible assumption
    | lift_lets
    | (with_reducible refine goes_hwDrain _ _ _ ?_ ?_; exact subT rfl hW)
    | (with_reducible refine Goes.ite ?_ ?_)

theorem goes_qmeet {W : List Part} {s0 : State} (s : State) (q : Nat) (e : Option CwErr) (hW : subParts [.free, .que] W = true) (hg : Goes W s0 s) : Goes W s0 (State.qmeet s q e) := by
  unfold State.qmeet
  repeat' first
    | with_reducible assumption
    | intro x
    | lift_lets
    | (with_reducible refine goes_draw _ _ ?_ ?_; exact subT rfl hW)
    | (with_reducible refine goes_setQueue _ _ _ ?_ ?_; exact subT rfl hW)
    | (with_reducible refine Goes.ite ?_ ?_)
    | split

theorem goes_qadvance {W : List Part} {s0 : State} (s : State) (q : Nat) (e : QEnt) (r : List QEnt) (hW : subParts [.regs, .que] W = true) (hg : Goes W s0 s) : Goes W s0 (State.qadvance s q e r) := by
  unfold State.qadvance
  repeat' first
    | with_reducible assumption
    | intro x
    | lift_lets
    | (with_reducible refine goes_bump _ _ _ ?_ ?_; exact subT rfl hW)
    | (with_reducible refine goes_setQueue _ _ _ ?_ ?_; exact subT rfl hW)

theorem goes_qdiscard {W : List Part} {s0 : State} (s : State) (q : Nat) (hW : subParts [.regs, .out, .que, .pba] W = true) (hg : Goes W s0 s) : Goes W s0 (State.qdiscard s q) := by
  unfold State.qdiscard
  repeat' first
    | with_reducible assumption
    | intro x
    | lift_lets
    | (with_reducible refine goes_irq _ _ _ ?_ ?_; exact subT rfl hW)
    | (with_reducible refine goes_setQueue _ _ _ ?_ ?_; exact subT rfl hW)

theorem goes_qpop {W : List Part} {s0 : State} (s : State) (m : Master) (q : Nat) (hW : subParts [.regs, .out, .que, .pba] W = true) (hg : Goes W s0 s) : Goes W s0 (State.qpop s m q).1 := by
  unfold State.qpop
  repeat' first
    | with_reducible assumption
    | intro x
    | lift_lets
    | (with_reducible refine goes_qadvance _ _ _ _ ?_ ?_; exact subT rfl hW)
    | (with_reducible refine goes_qdiscard _ _ ?_ ?_; exact subT rfl hW)
    | split
    | (fail_if_no_progress (with_reducible refine goes_set_que _ _ ?_ ?_; exact subT rfl hW))

theorem goes_qpop' {W : List Part} {s0 : State} (s : State) (m : Master) (q : Nat) {u0 : State} {v0 : Word} (e : State.qpop s m q = (u0, v0)) (hW : subParts [.regs, .out, .que, .pba] W = true) (hg : Goes W s0 s) : Goes W s0 u0 := by
  have := goes_qpop s m q hW hg
  rw [e] at this
  exact this

theorem goes_execQueuePop {W : List Part} {s0 : State} (m : Master) (q : QueueRead) (s : State) (hW : subParts [.regs, .out, .resp, .free, .que, .host, .pba] W = true) (hg : Goes W s0 s) : ∀ t0, execQueuePop m q s = .next t0 → Goes W s0 t0 := by
  unfold execQueuePop
  intro t0 e0
  obtain rfl := Host.Outcome.next.inj e0
  clear e0
  repeat' first
    | with_reducible assumption
    | intro x
    | lift_lets
    | (with_reducible refine goes_answer _ _ ?_ ?_; exact subT rfl hW)
    | (with_reducible refine goes_readAt _ _ _ _ _ ?_ (fun _ _ => ?_) ?_; exact subT rfl hW)
    | (with_reducible refine goes_qmeet _ _ _ ?_ ?_; exact subT rfl hW)
    | (with_reducible refine goes_qpop _ _ _ ?_ ?_; exact subT rfl hW)

theorem goes_execQueuePeek {W : List Part} {s0 : State} (m : Master) (q : QueueRead) (s : State) (hW : subParts [.regs, .out, .resp, .free, .que, .host, .pba] W = true) (hg : Goes W s0 s) : ∀ t0, execQueuePeek m q s = .next t0 → Goes W s0 t0 := by
  unfold execQueuePeek
  intro t0 e0
  obtain rfl := Host.Outcome.next.inj e0
  clear e0
  repeat' first
    | with_reducible assumption
    | (intro x; refine Goes.cut (W := W) (s0 := s0) (x := x) ?_ ?_; rotate_left; clear_value x; intro hx; rotate_right)
    | lift_lets
    | (with_reducible refine goes_answer _ _ ?_ ?_; exact subT rfl hW)
    | (with_reducible refine goes_readAt _ _ _ _ _ ?_ (fun _ _ => ?_) ?_; exact subT rfl hW)
    | (with_reducible refine goes_qmeet _ _ _ ?_ ?_; exact subT rfl hW)

theorem goes_qflush {W : List Part} {s0 : State} (s : State) (q : Nat) (hW : subParts [.que] W = true) (hg : Goes W s0 s) : Goes W s0 (State.qflush s q) := by
  unfold State.qflush
  repeat' first
    | with_reducible assumption
    | intro x
    | lift_lets
    | (with_reducible refine goes_setQueue _ _ _ ?_ ?_; exact subT rfl hW)

theorem goes_execQueueFlush {W : List Part} {s0 : State} (m : Master) (q : Fin 16) (s : State) (hW : subParts [.regs, .out, .resp, .que, .host, .pba] W = true) (hg : Goes W s0 s) : ∀ t0, execQueueFlush m q s = .next t0 → Goes W s0 t0 := by
  unfold execQueueFlush
  intro t0 e0
  obtain rfl := Host.Outcome.next.inj e0
  clear e0
  repeat' first
    | with_reducible assumption
    | lift_lets
    | (with_reducible refine goes_answer _ _ ?_ ?_; exact subT rfl hW)
    | (with_reducible refine goes_writeAt _ _ _ _ _ _ ?_ (fun _ _ => ?_) ?_; exact subT rfl hW)
    | (with_reducible refine goes_qflush _ _ ?_ ?_; exact subT rfl hW)

theorem goes_qcfg {W : List Part} {s0 : State} (s : State) (m : Master) (q : Nat) (v : Word) (hW : subParts [.regs, .out, .que, .pba] W = true) (hg : Goes W s0 s) : Goes W s0 (State.qcfg s m q v) := by
  unfold State.qcfg
  repeat' first
    | with_reducible assumption
    | (intro x; refine Goes.cut (W := W) (s0 := s0) (x := x) ?_ ?_; rotate_left; clear_value x; intro hx; rotate_right)
    | intro x
    | lift_lets
    | (with_reducible refine goes_wr _ _ _ ?_ ?_; exact subT rfl hW)
    | (with_reducible refine goes_err _ _ _ _ _ ?_ ?_; exact subT rfl hW)
    | (with_reducible refine goes_setQueue _ _ _ ?_ ?_; exact subT rfl hW)
    | (with_reducible refine goes_qflush _ _ ?_ ?_; exact subT rfl hW)
    | (with_reducible refine Goes.ite ?_ ?_)

theorem goes_execQcfgWrite {W : List Part} {s0 : State} (m : Master) (q : Fin 16) (v : Word) (s : State) (hW : subParts [.regs, .out, .resp, .que, .host, .pba] W = true) (hg : Goes W s0 s) : ∀ t0, execQcfgWrite m q v s = .next t0 → Goes W s0 t0 := by
  unfold execQcfgWrite
  intro t0 e0
  obtain rfl := Host.Outcome.next.inj e0
  clear e0
  repeat' first
    | with_reducible assumption
    | lift_lets
    | (with_reducible refine goes_answer _ _ ?_ ?_; exact subT rfl hW)
    | (with_reducible refine goes_writeAt _ _ _ _ _ _ ?_ (fun _ _ => ?_) ?_; exact subT rfl hW)
    | (with_reducible refine goes_qcfg _ _ _ _ ?_ ?_; exact subT rfl hW)

theorem goes_qct {W : List Part} {s0 : State} (s : State) (m : Master) (q : Nat) (v : Word) (hW : subParts [.regs, .out, .pba] W = true) (hg : Goes W s0 s) : Goes W s0 (State.qct s m q v) := by
  unfold State.qct
  repeat' first
    | with_reducible assumption
    | intro x
    | lift_lets
    | (with_reducible refine goes_wr _ _ _ ?_ ?_; exact subT rfl hW)
    | (with_reducible refine goes_err _ _ _ _ _ ?_ ?_; exact subT rfl hW)
    | (with_reducible refine Goes.ite ?_ ?_)

theorem goes_queReset {W : List Part} {s0 : State} (s : State) (hW : subParts [.mkt, .que] W = true) (hg : Goes W s0 s) : Goes W s0 (State.queReset s) := by
  unfold State.queReset
  repeat' first
    | with_reducible assumption
    | intro x
    | lift_lets
    | (fail_if_no_progress (apply Goes.upd [.mkt, .que]; dsimp only; exact subT rfl hW; (intro p hp; cases p <;> first | rfl | simp at hp); exact fun c => c))

theorem goes_setUnit {W : List Part} {s0 : State} (s : State) (u : Nat) (x : ChkUnit) (hW : subParts [.chk] W = true) (hg : Goes W s0 s) : Goes W s0 (State.setUnit s u x) := by
  unfold State.setUnit
  repeat' first
    | with_reducible assumption
    | (fail_if_no_progress (with_reducible refine goes_set_chk _ _ ?_ ?_; exact subT rfl hW))

theorem goes_chkStart {W : List Part} {s0 : State} (src : Nat) (chan : Nat) (s : State) (u : Nat) (hW : subParts [.regs, .chk] W = true) (hg : Goes W s0 s) : Goes W s0 (chkStart src chan s u) := by
  unfold chkStart
  repeat' first
    | with_reducible assumption
    | (intro x; refine Goes.cut (W := W) (s0 := s0) (x := x) ?_ ?_; rotate_left; clear_value x; intro hx; rotate_right)
    | intro x
    | lift_lets
    | (with_reducible refine goes_wr _ _ _ ?_ ?_; exact subT rfl hW)
    | (with_reducible refine goes_setUnit _ _ _ ?_ ?_; exact subT rfl hW)
    | (with_reducible refine Goes.ite ?_ ?_)

theorem goes_execCheckFrameStart {W : List Part} {s0 : State} (src : Nat) (chan : Nat) (s : State) (hW : subParts [.regs, .chk] W = true) (hg : Goes W s0 s) : ∀ t0, execCheckFrameStart src chan s = .next t0 → Goes W s0 t0 := by
  unfold execCheckFrameStart
  intro t0 e0
  obtain rfl := Host.Outcome.next.inj e0
  clear e0
  repeat' first
    | with_reducible assumption
    | lift_lets
    | (with_reducible refine goes_chkStart _ _ _ _ ?_ ?_; exact subT rfl hW)
    | (with_reducible refine Goes.ite ?_ ?_)
    | (refine Goes.foldl (fun _ _ _ => ?_) ?_)

theorem goes_chkEnd {W : List Part} {s0 : State} (src : Nat) (chan : Nat) (data : Bytes) (s : State) (u : Nat) (hW : subParts [.regs, .out, .chk, .pba] W = true) (hg : Goes W s0 s) : Goes W s0 (chkEnd src chan data s u) := by
  unfold chkEnd
  repeat' first
    | with_reducible assumption
    | (intro x; refine Goes.cut (W := W) (s0 := s0) (x := x) ?_ ?_; rotate_left; clear_value x; intro hx; rotate_right)
    | intro x
    | lift_lets
    | (with_reducible refine goes_wr _ _ _ ?_ ?_; exact subT rfl hW)
    | (with_reducible refine goes_bump _ _ _ ?_ ?_; exact subT rfl hW)
    | (with_reducible refine goes_irq _ _ _ ?_ ?_; exact subT rfl hW)
    | (with_reducible refine goes_setUnit _ _ _ ?_ ?_; exact subT rfl hW)
    | (with_reducible refine Goes.ite ?_ ?_)

theorem goes_execCheckFrameEnd {W : List Part} {s0 : State} (src : Nat) (chan : Nat) (data : Bytes) (s : State) (hW : subParts [.regs, .out, .chk, .pba] W = true) (hg : Goes W s0 s) : ∀ t0, execCheckFrameEnd src chan data s = .next t0 → Goes W s0 t0 := by
  unfold execCheckFrameEnd
  intro t0 e0
  obtain rfl := Host.Outcome.next.inj e0
  clear e0
  repeat' first
    | with_reducible assumption
    | (intro x; refine Goes.cut (W := W) (s0 := s0) (x := x) ?_ ?_; rotate_left; clear_value x; intro hx; rotate_right)
    | lift_lets
    | (with_reducible refine goes_setDrained _ _ ?_ ?_; exact subT rfl hW)
    | (with_reducible refine goes_chkEnd _ _ _ _ _ ?_ ?_; exact subT rfl hW)
    | (with_reducible refine Goes.ite ?_ ?_)
    | (refine Goes.foldl (fun _ _ _ => ?_) ?_)

theorem goes_cval {W : List Part} {s0 : State} (s : State) (m : Master) (u : Nat) (v : Word) (hW : subParts [.regs, .out, .pba] W = true) (hg : Goes W s0 s) : Goes W s0 (State.cval s m u v) := by
  unfold State.cval
  repeat' first
    | with_reducible assumption
    | lift_lets
    | (with_reducible refine goes_wr _ _ _ ?_ ?_; exact subT rfl hW)
    | (with_reducible refine goes_err _ _ _ _ _ ?_ ?_; exact subT rfl hW)
    | (with_reducible refine Goes.ite ?_ ?_)

theorem goes_execCvalWrite {W : List Part} {s0 : State} (m : Master) (u : Fin 8) (v : Word) (s : State) (hW : subParts [.regs, .out, .resp, .host, .pba] W = true) (hg : Goes W s0 s) : ∀ t0, execCvalWrite m u v s = .next t0 → Goes W s0 t0 := by
  unfold execCvalWrite
  intro t0 e0
  obtain rfl := Host.Outcome.next.inj e0
  clear e0
  repeat' first
    | with_reducible assumption
    | lift_lets
    | (with_reducible refine goes_answer _ _ ?_ ?_; exact subT rfl hW)
    | (with_reducible refine goes_writeAt _ _ _ _ _ _ ?_ (fun _ _ => ?_) ?_; exact subT rfl hW)
    | (with_reducible refine goes_cval _ _ _ _ ?_ ?_; exact subT rfl hW)

theorem goes_ccfg {W : List Part} {s0 : State} (s : State) (m : Master) (u : Nat) (v : Word) (hW : subParts [.regs, .out, .chk, .pba] W = true) (hg : Goes W s0 s) : Goes W s0 (State.ccfg s m u v) := by
  unfold State.ccfg
  repeat' first
    | with_reducible assumption
    | intro x
    | lift_lets
    | (with_reducible refine goes_wr _ _ _ ?_ ?_; exact subT rfl hW)
    | (with_reducible refine goes_err _ _ _ _ _ ?_ ?_; exact subT rfl hW)
    | (with_reducible refine goes_setUnit _ _ _ ?_ ?_; exact subT rfl hW)
    | (with_reducible refine Goes.ite ?_ ?_)

theorem goes_chkKill {W : List Part} {s0 : State} (s : State) (hW : subParts [.chk] W = true) (hg : Goes W s0 s) : Goes W s0 (State.chkKill s) := by
  unfold State.chkKill
  repeat' first
    | with_reducible assumption
    | (fail_if_no_progress (with_reducible refine goes_set_chk _ _ ?_ ?_; exact subT rfl hW))

end Sys2Proof.Machine
end

