-- ==== Sys2Proof/Laws/GoesMarket.lean ====
section
/-! SUPPORT. What the operations of Machine/Market.lean can change: one lemma each. -/

set_option linter.unreachableTactic false
set_option linter.unusedTactic false

namespace Sys2Proof.Machine

open Sys2Proof

theorem goes_mktMark {W : List Part} {s0 : State} (s : State) (before : Nat) (hW : subParts [.regs, .out, .mkt, .pba] W = true) (hg : Goes W s0 s) : Goes W s0 (State.mktMark s before) := by
  unfold State.mktMark
  repeat' first
    | with_reducible assumption
    | (intro x; refine Goes.cut (W := W) (s0 := s0) (x := x) ?_ ?_; rotate_left; clear_value x; intro hx; rotate_right)
    | intro x
    | lift_lets
    | (with_reducible refine goes_irq _ _ _ ?_ ?_; exact subT rfl hW)
    | (with_reducible refine Goes.ite ?_ ?_)
    | (fail_if_no_progress (with_reducible refine goes_set_mkt _ _ ?_ ?_; exact subT rfl hW))

theorem goes_compFlush {W : List Part} {s0 : State} (l : List (Nat × DWord)) (stuck : List Nat) (s : State) (hW : subParts [.regs, .out, .mkt, .que, .pba] W = true) (h : Goes W s0 s) : Goes W s0 (compFlush l stuck s) := by
  induction l generalizing s stuck with
  | nil =>
    unfold compFlush
    repeat' first
      | assumption
  | cons x r ih =>
    unfold compFlush
    repeat' first
      | (with_reducible refine ih _ _ ?_)
      | with_reducible assumption
      | intro x
      | lift_lets
      | (with_reducible refine goes_err _ _ _ _ _ ?_ ?_; exact subT rfl hW)
      | (with_reducible refine goes_pushEnt _ _ _ ?_ ?_; exact subT rfl hW)
      | (with_reducible refine goes_qdrop _ _ ?_ ?_; exact subT rfl hW)
      | (with_reducible refine Goes.ite ?_ ?_)
      | (fail_if_no_progress (with_reducible refine goes_set_mkt _ _ ?_ ?_; exact subT rfl hW))

theorem goes_writeComps {W : List Part} {s0 : State} (s : State) (hW : subParts [.regs, .out, .mkt, .que, .pba] W = true) (hg : Goes W s0 s) : Goes W s0 (State.writeComps s) := by
  unfold State.writeComps
  repeat' first
    | with_reducible assumption
    | intro x
    | lift_lets
    | (with_reducible refine goes_compFlush _ _ _ ?_ ?_; exact subT rfl hW)
    | (fail_if_no_progress (with_reducible refine goes_set_mkt _ _ ?_ ?_; exact subT rfl hW))

theorem goes_complete {W : List Part} {s0 : State} (s : State) (q : Nat) (v : DWord) (hW : subParts [.regs, .out, .mkt, .que, .pba] W = true) (hg : Goes W s0 s) : Goes W s0 (State.complete s q v) := by
  unfold State.complete
  repeat' first
    | with_reducible assumption
    | intro x
    | lift_lets
    | (with_reducible refine goes_writeComps _ ?_ ?_; exact subT rfl hW)
    | (fail_if_no_progress (with_reducible refine goes_set_mkt _ _ ?_ ?_; exact subT rfl hW))

theorem goes_execCompletionWrite {W : List Part} {s0 : State} (s : State) (hW : subParts [.regs, .out, .mkt, .que, .pba] W = true) (hg : Goes W s0 s) : ∀ t0, execCompletionWrite s = .next t0 → Goes W s0 t0 := by
  unfold execCompletionWrite
  intro t0 e0
  obtain rfl := Host.Outcome.next.inj e0
  clear e0
  repeat' first
    | with_reducible assumption
    | (with_reducible refine goes_writeComps _ ?_ ?_; exact subT rfl hW)

theorem goes_wareDone {W : List Part} {s0 : State} (s : State) (w : Ware) (status : Nat) (hW : subParts [.regs, .out, .mkt, .que, .pba] W = true) (hg : Goes W s0 s) : Goes W s0 (State.wareDone s w status) := by
  unfold State.wareDone
  repeat' first
    | with_reducible assumption
    | (intro x; refine Goes.cut (W := W) (s0 := s0) (x := x) ?_ ?_; rotate_left; clear_value x; intro hx; rotate_right)
    | lift_lets
    | (with_reducible refine goes_complete _ _ _ ?_ ?_; exact subT rfl hW)
    | (with_reducible refine Goes.ite ?_ ?_)

theorem goes_returnAll {W : List Part} {s0 : State} (status : Nat) (l : List Ware) (s : State) (hW : subParts [.regs, .out, .mkt, .que, .pba] W = true) (h : Goes W s0 s) : Goes W s0 (returnAll status l s) := by
  induction l generalizing s with
  | nil =>
    unfold returnAll
    repeat' first
      | assumption
  | cons x r ih =>
    unfold returnAll
    repeat' first
      | (with_reducible refine ih _ ?_)
      | with_reducible assumption
      | lift_lets
      | (with_reducible refine goes_wareDone _ _ _ ?_ ?_; exact subT rfl hW)

theorem goes_setCtr {W : List Part} {s0 : State} (s : State) (n : Nat) (v : Nat) (hW : subParts [.mkt] W = true) (hg : Goes W s0 s) : Goes W s0 (State.setCtr s n v) := by
  unfold State.setCtr
  repeat' first
    | with_reducible assumption
    | intro x
    | lift_lets
    | (with_reducible refine Goes.ite ?_ ?_)
    | split
    | (fail_if_no_progress (with_reducible refine goes_set_mkt _ _ ?_ ?_; exact subT rfl hW))

theorem goes_decCtr {W : List Part} {s0 : State} (s : State) (n : Nat) (hW : subParts [.regs, .out, .mkt, .pba] W = true) (hg : Goes W s0 s) : Goes W s0 (State.decCtr s n) := by
  unfold State.decCtr
  repeat' first
    | with_reducible assumption
    | lift_lets
    | (with_reducible refine goes_irq _ _ _ ?_ ?_; exact subT rfl hW)
    | (with_reducible refine goes_err _ _ _ _ _ ?_ ?_; exact subT rfl hW)
    | (with_reducible refine goes_setCtr _ _ _ ?_ ?_; exact subT rfl hW)
    | (with_reducible refine Goes.ite ?_ ?_)

theorem goes_execCounterWrite {W : List Part} {s0 : State} (m : Master) (v : Word) (s : State) (hW : subParts [.regs, .out, .resp, .mkt, .host, .pba] W = true) (hg : Goes W s0 s) : ∀ t0, execCounterWrite m v s = .next t0 → Goes W s0 t0 := by
  unfold execCounterWrite
  intro t0 e0
  obtain rfl := Host.Outcome.next.inj e0
  clear e0
  repeat' first
    | with_reducible assumption
    | lift_lets
    | (with_reducible refine goes_answer _ _ ?_ ?_; exact subT rfl hW)
    | (with_reducible refine goes_writeAt _ _ _ _ _ _ ?_ (fun _ _ => ?_) ?_; exact subT rfl hW)
    | (with_reducible refine goes_setCtr _ _ _ ?_ ?_; exact subT rfl hW)

theorem goes_addCtr {W : List Part} {s0 : State} (s : State) (v : Word) (hW : subParts [.mkt] W = true) (hg : Goes W s0 s) : Goes W s0 (State.addCtr s v) := by
  unfold State.addCtr
  repeat' first
    | with_reducible assumption
    | intro x
    | lift_lets
    | (with_reducible refine goes_setCtr _ _ _ ?_ ?_; exact subT rfl hW)

theorem goes_execCounterAdd {W : List Part} {s0 : State} (m : Master) (v : Word) (s : State) (hW : subParts [.regs, .out, .resp, .mkt, .host, .pba] W = true) (hg : Goes W s0 s) : ∀ t0, execCounterAdd m v s = .next t0 → Goes W s0 t0 := by
  unfold execCounterAdd
  intro t0 e0
  obtain rfl := Host.Outcome.next.inj e0
  clear e0
  repeat' first
    | with_reducible assumption
    | lift_lets
    | (with_reducible refine goes_answer _ _ ?_ ?_; exact subT rfl hW)
    | (with_reducible refine goes_writeAt _ _ _ _ _ _ ?_ (fun _ _ => ?_) ?_; exact subT rfl hW)
    | (with_reducible refine goes_addCtr _ _ ?_ ?_; exact subT rfl hW)

theorem goes_makeReady {W : List Part} {s0 : State} (s : State) (w : Ware) (hW : subParts [.mkt] W = true) (hg : Goes W s0 s) : Goes W s0 (State.makeReady s w) := by
  unfold State.makeReady
  repeat' first
    | with_reducible assumption
    | (fail_if_no_progress (with_reducible refine goes_set_mkt _ _ ?_ ?_; exact subT rfl hW))

theorem goes_matchIn {W : List Part} {s0 : State} (s : State) (w : Ware) (hW : subParts [.regs, .out, .mkt, .que, .pba] W = true) (hg : Goes W s0 s) : Goes W s0 (State.matchIn s w) := by
  unfold State.matchIn
  repeat' first
    | with_reducible assumption
    | (intro x; refine Goes.cut (W := W) (s0 := s0) (x := x) ?_ ?_; rotate_left; clear_value x; intro hx; rotate_right)
    | intro x
    | lift_lets
    | (with_reducible refine goes_bumpSat _ _ _ ?_ ?_; exact subT rfl hW)
    | (with_reducible refine goes_irq _ _ _ ?_ ?_; exact subT rfl hW)
    | (with_reducible refine goes_wareDone _ _ _ ?_ ?_; exact subT rfl hW)
    | (with_reducible refine goes_makeReady _ _ ?_ ?_; exact subT rfl hW)
    | (with_reducible refine Goes.ite ?_ ?_)
    | split
    | (fail_if_no_progress (with_reducible refine goes_set_mkt _ _ ?_ ?_; exact subT rfl hW))

theorem goes_arrive {W : List Part} {s0 : State} (s : State) (w : Ware) (hW : subParts [.regs, .out, .mkt, .que, .pba] W = true) (hg : Goes W s0 s) : Goes W s0 (State.arrive s w) := by
  unfold State.arrive
  repeat' first
    | with_reducible assumption
    | (intro x; refine Goes.cut (W := W) (s0 := s0) (x := x) ?_ ?_; rotate_left; clear_value x; intro hx; rotate_right)
    | intro x
    | lift_lets
    | (with_reducible refine goes_mktMark _ _ ?_ ?_; exact subT rfl hW)
    | (with_reducible refine goes_makeReady _ _ ?_ ?_; exact subT rfl hW)
    | (with_reducible refine goes_matchIn _ _ ?_ ?_; exact subT rfl hW)
    | (with_reducible refine Goes.ite ?_ ?_)
    | (fail_if_no_progress (with_reducible refine goes_set_mkt _ _ ?_ ?_; exact subT rfl hW))

theorem goes_hwTake {W : List Part} {s0 : State} (l : List Ware) (s : State) (hW : subParts [.regs, .out, .mkt, .que, .pba] W = true) (h : Goes W s0 s) : Goes W s0 (hwTake l s) := by
  induction l generalizing s with
  | nil =>
    unfold hwTake
    repeat' first
      | assumption
      | intro x
      | lift_lets
      | (fail_if_no_progress (with_reducible refine goes_set_mkt _ _ ?_ ?_; exact subT rfl hW))
  | cons x r ih =>
    unfold hwTake
    repeat' first
      | (with_reducible refine ih _ ?_)
      | with_reducible assumption
      | intro x
      | lift_lets
      | (with_reducible refine goes_arrive _ _ ?_ ?_; exact subT rfl hW)
      | (with_reducible refine Goes.ite ?_ ?_)
      | (fail_if_no_progress (with_reducible refine goes_set_mkt _ _ ?_ ?_; exact subT rfl hW))

theorem goes_hwSubmit {W : List Part} {s0 : State} (s : State) (w : Ware) (hW : subParts [.regs, .out, .mkt, .que, .pba] W = true) (hg : Goes W s0 s) : Goes W s0 (State.hwSubmit s w) := by
  unfold State.hwSubmit
  repeat' first
    | with_reducible assumption
    | (with_reducible refine goes_hwTake _ _ ?_ ?_; exact subT rfl hW)

theorem goes_mktRoom {W : List Part} {s0 : State} (s : State) (hW : subParts [.regs, .out, .mkt, .que, .pba] W = true) (hg : Goes W s0 s) : Goes W s0 (State.mktRoom s) := by
  unfold State.mktRoom
  repeat' first
    | with_reducible assumption
    | (with_reducible refine goes_hwTake _ _ ?_ ?_; exact subT rfl hW)

theorem goes_submit {W : List Part} {s0 : State} (s : State) (m : Master) (w7 : Word) (hW : subParts [.regs, .out, .mkt, .que, .pba] W = true) (hg : Goes W s0 s) : Goes W s0 (State.submit s m w7) := by
  unfold State.submit
  repeat' first
    | with_reducible assumption
    | (intro x; refine Goes.cut (W := W) (s0 := s0) (x := x) ?_ ?_; rotate_left; clear_value x; intro hx; rotate_right)
    | intro x
    | lift_lets
    | (with_reducible refine goes_err _ _ _ _ _ ?_ ?_; exact subT rfl hW)
    | (with_reducible refine goes_arrive _ _ ?_ ?_; exact subT rfl hW)
    | (with_reducible refine Goes.ite ?_ ?_)
    | split
    | (fail_if_no_progress (with_reducible refine goes_set_mkt _ _ ?_ ?_; exact subT rfl hW))

theorem goes_execWareSubmit {W : List Part} {s0 : State} (m : Master) (w7 : Word) (s : State) (hW : subParts [.regs, .out, .resp, .mkt, .que, .host, .pba] W = true) (hg : Goes W s0 s) : ∀ t0, execWareSubmit m w7 s = .next t0 → Goes W s0 t0 := by
  unfold execWareSubmit
  intro t0 e0
  obtain rfl := Host.Outcome.next.inj e0
  clear e0
  repeat' first
    | with_reducible assumption
    | lift_lets
    | (with_reducible refine goes_answer _ _ ?_ ?_; exact subT rfl hW)
    | (with_reducible refine goes_writeAt _ _ _ _ _ _ ?_ (fun _ _ => ?_) ?_; exact subT rfl hW)
    | (with_reducible refine goes_submit _ _ _ ?_ ?_; exact subT rfl hW)

theorem goes_unready {W : List Part} {s0 : State} (s : State) (r : RWare) (hW : subParts [.mkt] W = true) (hg : Goes W s0 s) : Goes W s0 (State.unready s r) := by
  unfold State.unready
  repeat' first
    | with_reducible assumption
    | intro x
    | lift_lets
    | (fail_if_no_progress (with_reducible refine goes_set_mkt _ _ ?_ ?_; exact subT rfl hW))

theorem goes_noteLane {W : List Part} {s0 : State} (s : State) (d : Nat) (n : Nat) (hW : subParts [.mkt] W = true) (hg : Goes W s0 s) : Goes W s0 (State.noteLane s d n) := by
  unfold State.noteLane
  repeat' first
    | with_reducible assumption
    | intro x
    | lift_lets
    | (fail_if_no_progress (with_reducible refine goes_set_mkt _ _ ?_ ?_; exact subT rfl hW))

theorem goes_setLane {W : List Part} {s0 : State} (s : State) (n : Nat) (l : LaneSt) (hW : subParts [.mkt] W = true) (hg : Goes W s0 s) : Goes W s0 (State.setLane s n l) := by
  unfold State.setLane
  repeat' first
    | with_reducible assumption
    | intro x
    | lift_lets
    | (fail_if_no_progress (with_reducible refine goes_set_mkt _ _ ?_ ?_; exact subT rfl hW))

theorem goes_startLane {W : List Part} {s0 : State} (s : State) (n : Nat) (hW : subParts [.regs, .out, .mkt, .que, .pba] W = true) (hg : Goes W s0 s) : Goes W s0 (State.startLane s n) := by
  unfold State.startLane
  repeat' first
    | with_reducible assumption
    | (intro x; refine Goes.cut (W := W) (s0 := s0) (x := x) ?_ ?_; rotate_left; clear_value x; intro hx; rotate_right)
    | intro x
    | lift_lets
    | (with_reducible refine goes_emit _ _ ?_ ?_; exact subT rfl hW)
    | (with_reducible refine goes_mktRoom _ ?_ ?_; exact subT rfl hW)
    | (with_reducible refine goes_setLane _ _ _ ?_ ?_; exact subT rfl hW)
    | (with_reducible refine Goes.ite ?_ ?_)
    | split

theorem goes_dispatchLane {W : List Part} {s0 : State} (s : State) (n : Nat) (us : Nat) (hW : subParts [.regs, .out, .mkt, .que, .pba] W = true) (hg : Goes W s0 s) : Goes W s0 (State.dispatchLane s n us) := by
  unfold State.dispatchLane
  repeat' first
    | with_reducible assumption
    | (intro x; refine Goes.cut (W := W) (s0 := s0) (x := x) ?_ ?_; rotate_left; clear_value x; intro hx; rotate_right)
    | intro x
    | lift_lets
    | (with_reducible refine goes_unready _ _ ?_ ?_; exact subT rfl hW)
    | (with_reducible refine goes_noteLane _ _ _ ?_ ?_; exact subT rfl hW)
    | (with_reducible refine goes_setLane _ _ _ ?_ ?_; exact subT rfl hW)
    | (with_reducible refine goes_startLane _ _ ?_ ?_; exact subT rfl hW)
    | (with_reducible refine Goes.ite ?_ ?_)
    | split

theorem goes_takeTry {W : List Part} {s0 : State} (s : State) (p : Nat) (us : Nat) (hW : subParts [.regs, .out, .mkt, .que, .pba] W = true) (hg : Goes W s0 s) : Goes W s0 (State.takeTry s p us).1 := by
  unfold State.takeTry
  repeat' first
    | with_reducible assumption
    | (intro x; refine Goes.cut (W := W) (s0 := s0) (x := x) ?_ ?_; rotate_left; clear_value x; intro hx; rotate_right)
    | intro x
    | lift_lets
    | (with_reducible refine goes_mktRoom _ ?_ ?_; exact subT rfl hW)
    | (with_reducible refine goes_unready _ _ ?_ ?_; exact subT rfl hW)
    | (with_reducible refine Goes.iteFst ?_ ?_)
    | split
    | (fail_if_no_progress (with_reducible refine goes_set_mkt _ _ ?_ ?_; exact subT rfl hW))

theorem goes_takeTry' {W : List Part} {s0 : State} (s : State) (p : Nat) (us : Nat) {u0 : State} {v0 : Option Word} (e : State.takeTry s p us = (u0, v0)) (hW : subParts [.regs, .out, .mkt, .que, .pba] W = true) (hg : Goes W s0 s) : Goes W s0 u0 := by
  have := goes_takeTry s p us hW hg
  rw [e] at this
  exact this

theorem goes_dispatchPort {W : List Part} {s0 : State} (s : State) (p : Nat) (us : Nat) (hW : subParts [.regs, .out, .mkt, .que, .pba] W = true) (hg : Goes W s0 s) : Goes W s0 (State.dispatchPort s p us) := by
  unfold State.dispatchPort
  repeat' first
    | with_reducible assumption
    | (intro x; refine Goes.cut (W := W) (s0 := s0) (x := x) ?_ ?_; rotate_left; clear_value x; intro hx; rotate_right)
    | intro x
    | lift_lets
    | (with_reducible refine goes_emit _ _ ?_ ?_; exact subT rfl hW)
    | (with_reducible refine goes_takeTry _ _ _ ?_ ?_; exact subT rfl hW)
    | split
    | (fail_if_no_progress (with_reducible refine goes_set_mkt _ _ ?_ ?_; exact subT rfl hW))

theorem goes_dispatch {W : List Part} {s0 : State} (s : State) (c : Consumer) (us : Nat) (cycles : Nat) (hW : subParts [.regs, .out, .mkt, .que, .pba] W = true) (hg : Goes W s0 s) : Goes W s0 (State.dispatch s c us cycles) := by
  unfold State.dispatch
  repeat' first
    | with_reducible assumption
    | (intro x; refine Goes.cut (W := W) (s0 := s0) (x := x) ?_ ?_; rotate_left; clear_value x; intro hx; rotate_right)
    | intro x
    | lift_lets
    | (with_reducible refine goes_dispatchLane _ _ _ ?_ ?_; exact subT rfl hW)
    | (with_reducible refine goes_dispatchPort _ _ _ ?_ ?_; exact subT rfl hW)
    | (with_reducible refine Goes.ite ?_ ?_)
    | split
    | (fail_if_no_progress (with_reducible refine goes_set_mkt _ _ ?_ ?_; exact subT rfl hW))

theorem goes_windowRead {W : List Part} {s0 : State} (s : State) (n : Nat) (hW : subParts [.regs, .out, .resp, .mkt, .que, .pba] W = true) (hg : Goes W s0 s) : Goes W s0 (State.windowRead s n) := by
  unfold State.windowRead
  repeat' first
    | with_reducible assumption
    | intro x
    | lift_lets
    | (with_reducible refine goes_answer _ _ ?_ ?_; exact subT rfl hW)
    | (with_reducible refine goes_setLane _ _ _ ?_ ?_; exact subT rfl hW)
    | (with_reducible refine goes_startLane _ _ ?_ ?_; exact subT rfl hW)
    | (with_reducible refine Goes.ite ?_ ?_)
    | split

theorem goes_execWareWindowRead {W : List Part} {s0 : State} (lane : Fin 4) (s : State) (hW : subParts [.regs, .out, .resp, .mkt, .que, .pba] W = true) (hg : Goes W s0 s) : ∀ t0, execWareWindowRead lane s = .next t0 → Goes W s0 t0 := by
  unfold execWareWindowRead
  intro t0 e0
  obtain rfl := Host.Outcome.next.inj e0
  clear e0
  repeat' first
    | with_reducible assumption
    | lift_lets
    | (with_reducible refine goes_onPage _ _ _ _ _ ?_ (fun _ _ => ?_) ?_; exact subT rfl hW)
    | (with_reducible refine goes_windowRead _ _ ?_ ?_; exact subT rfl hW)
    | (with_reducible refine Goes.ite ?_ ?_)

theorem goes_unhold {W : List Part} {s0 : State} (s : State) (hW : subParts [.mkt] W = true) (hg : Goes W s0 s) : Goes W s0 (State.unhold s) := by
  unfold State.unhold
  repeat' first
    | with_reducible assumption
    | intro x
    | lift_lets
    | (fail_if_no_progress (with_reducible refine goes_set_mkt _ _ ?_ ?_; exact subT rfl hW))

theorem goes_mktDrainCheck {W : List Part} {s0 : State} (s : State) (hW : subParts [.regs, .out, .pba] W = true) (hg : Goes W s0 s) : Goes W s0 (State.mktDrainCheck s) := by
  unfold State.mktDrainCheck
  repeat' first
    | with_reducible assumption
    | lift_lets
    | (with_reducible refine goes_setDrained _ _ ?_ ?_; exact subT rfl hW)
    | (with_reducible refine Goes.ite ?_ ?_)

theorem goes_retireWare {W : List Part} {s0 : State} (s : State) (w : Ware) (v : Word) (hW : subParts [.regs, .out, .mkt, .que, .pba] W = true) (hg : Goes W s0 s) : Goes W s0 (State.retireWare s w v) := by
  unfold State.retireWare
  repeat' first
    | with_reducible assumption
    | (intro x; refine Goes.cut (W := W) (s0 := s0) (x := x) ?_ ?_; rotate_left; clear_value x; intro hx; rotate_right)
    | lift_lets
    | (with_reducible refine goes_wareDone _ _ _ ?_ ?_; exact subT rfl hW)
    | (with_reducible refine goes_decCtr _ _ ?_ ?_; exact subT rfl hW)
    | (with_reducible refine Goes.ite ?_ ?_)

theorem goes_slotsBack {W : List Part} {s0 : State} (s : State) (n : Nat) (hW : subParts [.mkt] W = true) (hg : Goes W s0 s) : Goes W s0 (State.slotsBack s n) := by
  unfold State.slotsBack
  repeat' first
    | with_reducible assumption
    | (intro x; refine Goes.cut (W := W) (s0 := s0) (x := x) ?_ ?_; rotate_left; clear_value x; intro hx; rotate_right)
    | intro x
    | lift_lets
    | (with_reducible refine goes_setLane _ _ _ ?_ ?_; exact subT rfl hW)
    | (with_reducible refine goes_unhold _ ?_ ?_; exact subT rfl hW)
    | (fail_if_no_progress (with_reducible refine goes_set_mkt _ _ ?_ ?_; exact subT rfl hW))

theorem goes_laneDrainCheck {W : List Part} {s0 : State} (s : State) (n : Nat) (hW : subParts [.regs, .out, .mkt, .pba] W = true) (hg : Goes W s0 s) : Goes W s0 (State.laneDrainCheck s n) := by
  unfold State.laneDrainCheck
  repeat' first
    | with_reducible assumption
    | intro x
    | lift_lets
    | (with_reducible refine goes_setDrained _ _ ?_ ?_; exact subT rfl hW)
    | (with_reducible refine goes_slotsBack _ _ ?_ ?_; exact subT rfl hW)
    | (with_reducible refine Goes.ite ?_ ?_)

theorem goes_retireLane {W : List Part} {s0 : State} (s : State) (n : Nat) (v : Word) (hW : subParts [.regs, .out, .mkt, .que, .pba] W = true) (hg : Goes W s0 s) : Goes W s0 (State.retireLane s n v) := by
  unfold State.retireLane
  repeat' first
    | with_reducible assumption
    | (intro x; refine Goes.cut (W := W) (s0 := s0) (x := x) ?_ ?_; rotate_left; clear_value x; intro hx; rotate_right)
    | intro x
    | lift_lets
    | (with_reducible refine goes_bump _ _ _ ?_ ?_; exact subT rfl hW)
    | (with_reducible refine goes_setLane _ _ _ ?_ ?_; exact subT rfl hW)
    | (with_reducible refine goes_startLane _ _ ?_ ?_; exact subT rfl hW)
    | (with_reducible refine goes_unhold _ ?_ ?_; exact subT rfl hW)
    | (with_reducible refine goes_mktDrainCheck _ ?_ ?_; exact subT rfl hW)
    | (with_reducible refine goes_retireWare _ _ _ ?_ ?_; exact subT rfl hW)
    | (with_reducible refine goes_laneDrainCheck _ _ ?_ ?_; exact subT rfl hW)
    | split

theorem goes_retirePort {W : List Part} {s0 : State} (s : State) (p : Nat) (m : Master) (v : Word) (hW : subParts [.regs, .out, .mkt, .que, .pba] W = true) (hg : Goes W s0 s) : Goes W s0 (State.retirePort s p m v) := by
  unfold State.retirePort
  repeat' first
    | with_reducible assumption
    | (intro x; refine Goes.cut (W := W) (s0 := s0) (x := x) ?_ ?_; rotate_left; clear_value x; intro hx; rotate_right)
    | intro x
    | lift_lets
    | (with_reducible refine goes_err _ _ _ _ _ ?_ ?_; exact subT rfl hW)
    | (with_reducible refine goes_unhold _ ?_ ?_; exact subT rfl hW)
    | (with_reducible refine goes_mktDrainCheck _ ?_ ?_; exact subT rfl hW)
    | (with_reducible refine goes_retireWare _ _ _ ?_ ?_; exact subT rfl hW)
    | split
    | (fail_if_no_progress (with_reducible refine goes_set_mkt _ _ ?_ ?_; exact subT rfl hW))

theorem goes_execWareRetire {W : List Part} {s0 : State} (r : Retirer) (v : Word) (s : State) (hW : subParts [.regs, .out, .resp, .mkt, .que, .host, .pba] W = true) (hg : Goes W s0 s) : ∀ t0, execWareRetire r v s = .next t0 → Goes W s0 t0 := by
  unfold execWareRetire
  intro t0 e0
  obtain rfl := Host.Outcome.next.inj e0
  clear e0
  repeat' first
    | with_reducible assumption
    | lift_lets
    | (with_reducible refine goes_answer _ _ ?_ ?_; exact subT rfl hW)
    | (with_reducible refine goes_onPage _ _ _ _ _ ?_ (fun _ _ => ?_) ?_; exact subT rfl hW)
    | (with_reducible refine goes_writeAt _ _ _ _ _ _ ?_ (fun _ _ => ?_) ?_; exact subT rfl hW)
    | (with_reducible refine goes_retireLane _ _ _ ?_ ?_; exact subT rfl hW)
    | (with_reducible refine goes_retirePort _ _ _ _ ?_ ?_; exact subT rfl hW)
    | (with_reducible refine Goes.ite ?_ ?_)
    | split

theorem goes_execTakeRead {W : List Part} {s0 : State} (port : Fin 2) (m : Master) (us : Nat) (s : State) (hW : subParts [.regs, .out, .resp, .mkt, .que, .host, .pba] W = true) (hg : Goes W s0 s) : ∀ t0, execTakeRead port m us s = .next t0 → Goes W s0 t0 := by
  unfold execTakeRead
  intro t0 e0
  obtain rfl := Host.Outcome.next.inj e0
  clear e0
  repeat' first
    | with_reducible assumption
    | (intro x; refine Goes.cut (W := W) (s0 := s0) (x := x) ?_ ?_; rotate_left; clear_value x; intro hx; rotate_right)
    | intro x
    | lift_lets
    | (with_reducible refine goes_answer _ _ ?_ ?_; exact subT rfl hW)
    | (with_reducible refine goes_readAt _ _ _ _ _ ?_ (fun _ _ => ?_) ?_; exact subT rfl hW)
    | (with_reducible refine goes_takeTry _ _ _ ?_ ?_; exact subT rfl hW)
    | split
    | (fail_if_no_progress (with_reducible refine goes_set_mkt _ _ ?_ ?_; exact subT rfl hW))

theorem goes_execTakePoll {W : List Part} {s0 : State} (port : Fin 2) (m : Master) (us : Nat) (s : State) (hW : subParts [.regs, .out, .resp, .mkt, .que, .host, .pba] W = true) (hg : Goes W s0 s) : ∀ t0, execTakePoll port m us s = .next t0 → Goes W s0 t0 := by
  unfold execTakePoll
  intro t0 e0
  obtain rfl := Host.Outcome.next.inj e0
  clear e0
  repeat' first
    | with_reducible assumption
    | intro x
    | lift_lets
    | (with_reducible refine goes_answer _ _ ?_ ?_; exact subT rfl hW)
    | (with_reducible refine goes_readAt _ _ _ _ _ ?_ (fun _ _ => ?_) ?_; exact subT rfl hW)
    | (with_reducible refine goes_takeTry _ _ _ ?_ ?_; exact subT rfl hW)

theorem goes_takeTimeout {W : List Part} {s0 : State} (s : State) (port : Nat) (hW : subParts [.out, .mkt] W = true) (hg : Goes W s0 s) : Goes W s0 (State.takeTimeout s port) := by
  unfold State.takeTimeout
  repeat' first
    | with_reducible assumption
    | intro x
    | lift_lets
    | (with_reducible refine goes_emit _ _ ?_ ?_; exact subT rfl hW)
    | split
    | (fail_if_no_progress (with_reducible refine goes_set_mkt _ _ ?_ ?_; exact subT rfl hW))

theorem goes_takersOff {W : List Part} {s0 : State} (s : State) (hW : subParts [.out, .mkt] W = true) (hg : Goes W s0 s) : Goes W s0 (State.takersOff s) := by
  unfold State.takersOff
  repeat' first
    | with_reducible assumption
    | intro x
    | lift_lets
    | (with_reducible refine goes_emit _ _ ?_ ?_; exact subT rfl hW)
    | (refine Goes.foldl (fun _ _ _ => ?_) ?_)
    | (fail_if_no_progress (with_reducible refine goes_set_mkt _ _ ?_ ?_; exact subT rfl hW))

theorem goes_hostWaresBack {W : List Part} {s0 : State} (s : State) (hW : subParts [.regs, .out, .mkt, .que, .pba] W = true) (hg : Goes W s0 s) : Goes W s0 (State.hostWaresBack s) := by
  unfold State.hostWaresBack
  repeat' first
    | with_reducible assumption
    | (intro x; refine Goes.cut (W := W) (s0 := s0) (x := x) ?_ ?_; rotate_left; clear_value x; intro hx; rotate_right)
    | intro x
    | lift_lets
    | (with_reducible refine goes_returnAll _ _ _ ?_ ?_; exact subT rfl hW)
    | (with_reducible refine goes_unhold _ ?_ ?_; exact subT rfl hW)
    | (with_reducible refine goes_mktDrainCheck _ ?_ ?_; exact subT rfl hW)
    | (fail_if_no_progress (with_reducible refine goes_set_mkt _ _ ?_ ?_; exact subT rfl hW))

theorem goes_matchTimeouts {W : List Part} {s0 : State} (s : State) (f : Ware × Word → Bool) (hW : subParts [.regs, .out, .mkt, .que, .pba] W = true) (hg : Goes W s0 s) : Goes W s0 (State.matchTimeouts s f) := by
  unfold State.matchTimeouts
  repeat' first
    | with_reducible assumption
    | (intro x; refine Goes.cut (W := W) (s0 := s0) (x := x) ?_ ?_; rotate_left; clear_value x; intro hx; rotate_right)
    | intro x
    | lift_lets
    | (with_reducible refine goes_bumpSat _ _ _ ?_ ?_; exact subT rfl hW)
    | (with_reducible refine goes_irq _ _ _ ?_ ?_; exact subT rfl hW)
    | (with_reducible refine goes_returnAll _ _ _ ?_ ?_; exact subT rfl hW)
    | (with_reducible refine goes_mktRoom _ ?_ ?_; exact subT rfl hW)
    | (with_reducible refine Goes.ite ?_ ?_)
    | (fail_if_no_progress (with_reducible refine goes_set_mkt _ _ ?_ ?_; exact subT rfl hW))

theorem goes_execMatchTimeout {W : List Part} {s0 : State} (key : Word) (s : State) (hW : subParts [.regs, .out, .mkt, .que, .pba] W = true) (hg : Goes W s0 s) : ∀ t0, execMatchTimeout key s = .next t0 → Goes W s0 t0 := by
  unfold execMatchTimeout
  intro t0 e0
  obtain rfl := Host.Outcome.next.inj e0
  clear e0
  repeat' first
    | with_reducible assumption
    | lift_lets
    | (with_reducible refine goes_matchTimeouts _ _ ?_ ?_; exact subT rfl hW)
    | (with_reducible refine Goes.ite ?_ ?_)

theorem goes_laneOvr {W : List Part} {s0 : State} (s : State) (n : Nat) (hW : subParts [.regs, .out, .pba] W = true) (hg : Goes W s0 s) : Goes W s0 (laneOvr s n) := by
  unfold laneOvr
  repeat' first
    | with_reducible assumption
    | intro x
    | lift_lets
    | (with_reducible refine goes_bumpSat _ _ _ ?_ ?_; exact subT rfl hW)
    | (with_reducible refine goes_irq _ _ _ ?_ ?_; exact subT rfl hW)
    | (with_reducible refine Goes.ite ?_ ?_)

theorem goes_overrunCheck {W : List Part} {s0 : State} (s : State) (now : Word) (hW : subParts [.regs, .out, .mkt, .ldg, .pba] W = true) (hg : Goes W s0 s) : Goes W s0 (State.overrunCheck s now) := by
  unfold State.overrunCheck
  repeat' first
    | with_reducible assumption
    | (intro x; refine Goes.cut (W := W) (s0 := s0) (x := x) ?_ ?_; rotate_left; clear_value x; intro hx; rotate_right)
    | intro x
    | lift_lets
    | (with_reducible refine goes_wr _ _ _ ?_ ?_; exact subT rfl hW)
    | (with_reducible refine goes_bumpSat _ _ _ ?_ ?_; exact subT rfl hW)
    | (with_reducible refine goes_irq _ _ _ ?_ ?_; exact subT rfl hW)
    | (with_reducible refine goes_ledger _ _ _ _ _ _ _ ?_ ?_; exact subT rfl hW)
    | (with_reducible refine goes_laneOvr _ _ ?_ ?_; exact subT rfl hW)
    | (with_reducible refine Goes.ite ?_ ?_)
    | split
    | (refine Goes.foldl (fun _ _ _ => ?_) ?_)
    | (fail_if_no_progress (with_reducible refine goes_set_mkt _ _ ?_ ?_; exact subT rfl hW))
    | (dsimp +zetaDelta only)

theorem goes_noteBusy {W : List Part} {s0 : State} (s : State) (n : Nat) (hW : subParts [.regs] W = true) (hg : Goes W s0 s) : Goes W s0 (noteBusy s n) := by
  unfold noteBusy
  split
  · exact hg
  · exact goes_wr _ _ _ (subT rfl hW) hg

theorem goes_runEdges {W : List Part} {s0 : State} (s : State) (sfEdge : Bool) (hW : subParts [.regs, .free, .mkt] W = true) (hg : Goes W s0 s) : Goes W s0 (State.runEdges s sfEdge) := by
  unfold State.runEdges
  exact goes_set_mkt _ _ (subT rfl hW) (goes_draw _ _ (subT rfl hW) (Goes.foldl (fun _ _ h => goes_noteBusy _ _ (subT rfl hW) h) hg))

theorem goes_mktCancel {W : List Part} {s0 : State} (s : State) (hW : subParts [.regs, .out, .mkt, .que, .pba] W = true) (hg : Goes W s0 s) : Goes W s0 (State.mktCancel s) := by
  unfold State.mktCancel
  repeat' first
    | with_reducible assumption
    | (intro x; refine Goes.cut (W := W) (s0 := s0) (x := x) ?_ ?_; rotate_left; clear_value x; intro hx; rotate_right)
    | intro x
    | lift_lets
    | (with_reducible refine goes_returnAll _ _ _ ?_ ?_; exact subT rfl hW)
    | (with_reducible refine goes_unhold _ ?_ ?_; exact subT rfl hW)
    | (with_reducible refine goes_mktDrainCheck _ ?_ ?_; exact subT rfl hW)
    | (with_reducible refine goes_takersOff _ ?_ ?_; exact subT rfl hW)
    | (fail_if_no_progress (with_reducible refine goes_set_mkt _ _ ?_ ?_; exact subT rfl hW))

theorem goes_laneReset {W : List Part} {s0 : State} (s : State) (n : Nat) (hW : subParts [.regs, .out, .mkt, .que, .pba] W = true) (hg : Goes W s0 s) : Goes W s0 (State.laneReset s n) := by
  unfold State.laneReset
  repeat' first
    | with_reducible assumption
    | (intro x; refine Goes.cut (W := W) (s0 := s0) (x := x) ?_ ?_; rotate_left; clear_value x; intro hx; rotate_right)
    | intro x
    | lift_lets
    | (with_reducible refine goes_wareDone _ _ _ ?_ ?_; exact subT rfl hW)
    | (with_reducible refine goes_setLane _ _ _ ?_ ?_; exact subT rfl hW)
    | (with_reducible refine goes_unhold _ ?_ ?_; exact subT rfl hW)
    | (with_reducible refine goes_mktDrainCheck _ ?_ ?_; exact subT rfl hW)
    | (with_reducible refine goes_slotsBack _ _ ?_ ?_; exact subT rfl hW)
    | split
    | (dsimp +zetaDelta only)

theorem goes_failTakes {W : List Part} {s0 : State} (s : State) (hW : subParts [.regs, .out, .pba] W = true) (hg : Goes W s0 s) : Goes W s0 (State.failTakes s) := by
  unfold State.failTakes
  repeat' first
    | with_reducible assumption
    | (intro x; refine Goes.cut (W := W) (s0 := s0) (x := x) ?_ ?_; rotate_left; clear_value x; intro hx; rotate_right)
    | lift_lets
    | (with_reducible refine goes_emit _ _ ?_ ?_; exact subT rfl hW)
    | (with_reducible refine goes_err _ _ _ _ _ ?_ ?_; exact subT rfl hW)
    | (with_reducible refine Goes.ite ?_ ?_)
    | (refine Goes.foldl (fun _ _ _ => ?_) ?_)

theorem goes_mktReset {W : List Part} {s0 : State} (s : State) (hW : subParts [.regs, .out, .mkt, .pba] W = true) (hg : Goes W s0 s) : Goes W s0 (State.mktReset s) := by
  unfold State.mktReset
  repeat' first
    | with_reducible assumption
    | (intro x; refine Goes.cut (W := W) (s0 := s0) (x := x) ?_ ?_; rotate_left; clear_value x; intro hx; rotate_right)
    | intro x
    | lift_lets
    | (with_reducible refine goes_failTakes _ ?_ ?_; exact subT rfl hW)
    | (fail_if_no_progress (with_reducible refine goes_set_mkt _ _ ?_ ?_; exact subT rfl hW))

theorem goes_classCfg {W : List Part} {s0 : State} (s : State) (m : Master) (n : Nat) (v : Word) (hW : subParts [.regs, .out, .pba] W = true) (hg : Goes W s0 s) : Goes W s0 (State.classCfg s m n v) := by
  unfold State.classCfg
  repeat' first
    | with_reducible assumption
    | intro x
    | lift_lets
    | (with_reducible refine goes_wr _ _ _ ?_ ?_; exact subT rfl hW)
    | (with_reducible refine goes_err _ _ _ _ _ ?_ ?_; exact subT rfl hW)
    | (with_reducible refine goes_unlessLocked _ _ _ _ _ ?_ (fun _ _ => ?_) ?_; exact subT rfl hW)
    | (with_reducible refine Goes.ite ?_ ?_)

theorem goes_execClassCfgWrite {W : List Part} {s0 : State} (m : Master) (n : Fin 8) (v : Word) (s : State) (hW : subParts [.regs, .out, .resp, .host, .pba] W = true) (hg : Goes W s0 s) : ∀ t0, execClassCfgWrite m n v s = .next t0 → Goes W s0 t0 := by
  unfold execClassCfgWrite
  intro t0 e0
  obtain rfl := Host.Outcome.next.inj e0
  clear e0
  repeat' first
    | with_reducible assumption
    | lift_lets
    | (with_reducible refine goes_answer _ _ ?_ ?_; exact subT rfl hW)
    | (with_reducible refine goes_writeAt _ _ _ _ _ _ ?_ (fun _ _ => ?_) ?_; exact subT rfl hW)
    | (with_reducible refine goes_classCfg _ _ _ _ ?_ ?_; exact subT rfl hW)

theorem goes_domCfgWrite {W : List Part} {s0 : State} (s : State) (m : Master) (v : Word) (hW : subParts [.regs, .out, .mkt, .pba] W = true) (hg : Goes W s0 s) : Goes W s0 (State.domCfgWrite s m v) := by
  unfold State.domCfgWrite
  repeat' first
    | with_reducible assumption
    | intro x
    | lift_lets
    | (with_reducible refine goes_err _ _ _ _ _ ?_ ?_; exact subT rfl hW)
    | (with_reducible refine goes_unlessLocked _ _ _ _ _ ?_ (fun _ _ => ?_) ?_; exact subT rfl hW)
    | (with_reducible refine Goes.ite ?_ ?_)
    | (fail_if_no_progress (with_reducible refine goes_set_mkt _ _ ?_ ?_; exact subT rfl hW))

theorem goes_execDomCfgWrite {W : List Part} {s0 : State} (m : Master) (v : Word) (s : State) (hW : subParts [.regs, .out, .resp, .mkt, .host, .pba] W = true) (hg : Goes W s0 s) : ∀ t0, execDomCfgWrite m v s = .next t0 → Goes W s0 t0 := by
  unfold execDomCfgWrite
  intro t0 e0
  obtain rfl := Host.Outcome.next.inj e0
  clear e0
  repeat' first
    | with_reducible assumption
    | lift_lets
    | (with_reducible refine goes_answer _ _ ?_ ?_; exact subT rfl hW)
    | (with_reducible refine goes_writeAt _ _ _ _ _ _ ?_ (fun _ _ => ?_) ?_; exact subT rfl hW)
    | (with_reducible refine goes_domCfgWrite _ _ _ ?_ ?_; exact subT rfl hW)

theorem goes_wdogWrite {W : List Part} {s0 : State} (s : State) (n : Nat) (m : Master) (v : Word) (hW : subParts [.regs, .out, .pba] W = true) (hg : Goes W s0 s) : Goes W s0 (State.wdogWrite s n m v) := by
  unfold State.wdogWrite
  repeat' first
    | with_reducible assumption
    | intro x
    | lift_lets
    | (with_reducible refine goes_wr _ _ _ ?_ ?_; exact subT rfl hW)
    | (with_reducible refine goes_err _ _ _ _ _ ?_ ?_; exact subT rfl hW)
    | (with_reducible refine goes_unlessLocked _ _ _ _ _ ?_ (fun _ _ => ?_) ?_; exact subT rfl hW)
    | (with_reducible refine Goes.ite ?_ ?_)

theorem goes_heldHwRead {W : List Part} {s0 : State} (s : State) (hW : subParts [.mkt] W = true) (hg : Goes W s0 s) : Goes W s0 (State.heldHwRead s) := by
  unfold State.heldHwRead
  repeat' first
    | with_reducible assumption
    | intro x
    | lift_lets
    | (fail_if_no_progress (with_reducible refine goes_set_mkt _ _ ?_ ?_; exact subT rfl hW))

end Sys2Proof.Machine
end

