-- ==== Sys2Proof/Laws/GoesMemory.lean ====
section
/-! SUPPORT. What the operations of Machine/Memory.lean can change: one lemma each. -/

set_option linter.unreachableTactic false
set_option linter.unusedTactic false

namespace Sys2Proof.Machine

open Sys2Proof

theorem goes_ceCount {W : List Part} {s0 : State} (s : State) (a : Nat) (sym : Nat) (src : Nat) (hW : subParts [.regs, .out, .free, .pba] W = true) (hg : Goes W s0 s) : Goes W s0 (State.ceCount s a sym src) := by
  unfold State.ceCount
  repeat' first
    | with_reducible assumption
    | (intro x; refine Goes.cut (W := W) (s0 := s0) (x := x) ?_ ?_; rotate_left; clear_value x; intro hx; rotate_right)
    | intro x
    | lift_lets
    | (with_reducible refine goes_wr _ _ _ ?_ ?_; exact subT rfl hW)
    | (with_reducible refine goes_bumpSat _ _ _ ?_ ?_; exact subT rfl hW)
    | (with_reducible refine goes_draw _ _ ?_ ?_; exact subT rfl hW)
    | (with_reducible refine goes_irq _ _ _ ?_ ?_; exact subT rfl hW)
    | (with_reducible refine Goes.ite ?_ ?_)

theorem goes_ueDetect {W : List Part} {s0 : State} (s : State) (a : Nat) (src : Nat) (hW : subParts [.regs, .out, .ldg, .mem, .pba] W = true) (hg : Goes W s0 s) : Goes W s0 (State.ueDetect s a src) := by
  unfold State.ueDetect
  repeat' first
    | with_reducible assumption
    | (intro x; refine Goes.cut (W := W) (s0 := s0) (x := x) ?_ ?_; rotate_left; clear_value x; intro hx; rotate_right)
    | intro x
    | lift_lets
    | (with_reducible refine goes_wr _ _ _ ?_ ?_; exact subT rfl hW)
    | (with_reducible refine goes_bumpSat _ _ _ ?_ ?_; exact subT rfl hW)
    | (with_reducible refine goes_irq _ _ _ ?_ ?_; exact subT rfl hW)
    | (with_reducible refine goes_ledger _ _ _ _ _ _ _ ?_ ?_; exact subT rfl hW)
    | (with_reducible refine Goes.ite ?_ ?_)
    | split
    | (fail_if_no_progress (apply Goes.upd [.mem]; dsimp only; exact subT rfl hW; (intro p hp; cases p <;> first | rfl | simp at hp); first | exact fun c => c | exact fun c => ⟨c.1, memWrite_wf _ _ _ c.2.1, c.2.2⟩ | exact fun c => ⟨c.1, c.2.1, memWrite_wf _ _ _ c.2.2.1, c.2.2.2⟩ | exact fun c => ⟨c.1, c.2.1, c.2.2.1, memWrite_wf _ _ _ c.2.2.2.1, c.2.2.2.2⟩ | exact fun c => ⟨c.1, c.2.1, Memory.wf_nil, c.2.2.2⟩))
    | (dsimp +zetaDelta only)

theorem goes_cwError {W : List Part} {s0 : State} (s : State) (src : Nat) (a : Nat) (e : CwErr) (hW : subParts [.regs, .out, .free, .ldg, .mem, .pba] W = true) (hg : Goes W s0 s) : Goes W s0 (State.cwError s src a e) := by
  unfold State.cwError
  repeat' first
    | with_reducible assumption
    | (intro x; refine Goes.cut (W := W) (s0 := s0) (x := x) ?_ ?_; rotate_left; clear_value x; intro hx; rotate_right)
    | intro x
    | lift_lets
    | (with_reducible refine goes_draw _ _ ?_ ?_; exact subT rfl hW)
    | (with_reducible refine goes_ceCount _ _ _ _ ?_ ?_; exact subT rfl hW)
    | (with_reducible refine goes_ueDetect _ _ _ ?_ ?_; exact subT rfl hW)
    | (with_reducible refine Goes.ite ?_ ?_)
    | split
    | (fail_if_no_progress (apply Goes.upd [.mem]; dsimp only; exact subT rfl hW; (intro p hp; cases p <;> first | rfl | simp at hp); first | exact fun c => c | exact fun c => ⟨c.1, memWrite_wf _ _ _ c.2.1, c.2.2⟩ | exact fun c => ⟨c.1, c.2.1, memWrite_wf _ _ _ c.2.2.1, c.2.2.2⟩ | exact fun c => ⟨c.1, c.2.1, c.2.2.1, memWrite_wf _ _ _ c.2.2.2.1, c.2.2.2.2⟩ | exact fun c => ⟨c.1, c.2.1, Memory.wf_nil, c.2.2.2⟩))

theorem goes_dramStrike {W : List Part} {s0 : State} (s : State) (errs : List (Nat × CwErr)) (hW : subParts [.mem] W = true) (hg : Goes W s0 s) : Goes W s0 (State.dramStrike s errs) := by
  unfold State.dramStrike
  repeat' first
    | with_reducible assumption
    | intro x
    | lift_lets
    | (fail_if_no_progress (apply Goes.upd [.mem]; dsimp only; exact subT rfl hW; (intro p hp; cases p <;> first | rfl | simp at hp); first | exact fun c => c | exact fun c => ⟨c.1, memWrite_wf _ _ _ c.2.1, c.2.2⟩ | exact fun c => ⟨c.1, c.2.1, memWrite_wf _ _ _ c.2.2.1, c.2.2.2⟩ | exact fun c => ⟨c.1, c.2.1, c.2.2.1, memWrite_wf _ _ _ c.2.2.2.1, c.2.2.2.2⟩ | exact fun c => ⟨c.1, c.2.1, Memory.wf_nil, c.2.2.2⟩))

theorem goes_dramMeet {W : List Part} {s0 : State} (s : State) (src : Nat) (cw : Nat) (hW : subParts [.regs, .out, .free, .ldg, .mem, .pba] W = true) (hg : Goes W s0 s) : Goes W s0 (State.dramMeet s src cw) := by
  unfold State.dramMeet
  repeat' first
    | with_reducible assumption
    | intro x
    | lift_lets
    | (with_reducible refine goes_cwError _ _ _ _ ?_ ?_; exact subT rfl hW)
    | split
    | (fail_if_no_progress (apply Goes.upd [.mem]; dsimp only; exact subT rfl hW; (intro p hp; cases p <;> first | rfl | simp at hp); first | exact fun c => c | exact fun c => ⟨c.1, memWrite_wf _ _ _ c.2.1, c.2.2⟩ | exact fun c => ⟨c.1, c.2.1, memWrite_wf _ _ _ c.2.2.1, c.2.2.2⟩ | exact fun c => ⟨c.1, c.2.1, c.2.2.1, memWrite_wf _ _ _ c.2.2.2.1, c.2.2.2.2⟩ | exact fun c => ⟨c.1, c.2.1, Memory.wf_nil, c.2.2.2⟩))

theorem goes_dramSeen {W : List Part} {s0 : State} (s : State) (src : Nat) (a : Nat) (n : Nat) (hW : subParts [.regs, .out, .free, .ldg, .mem, .pba] W = true) (hg : Goes W s0 s) : Goes W s0 (State.dramSeen s src a n) := by
  unfold State.dramSeen
  repeat' first
    | with_reducible assumption
    | lift_lets
    | (with_reducible refine goes_dramMeet _ _ _ ?_ ?_; exact subT rfl hW)
    | (refine Goes.foldl (fun _ _ _ => ?_) ?_)

theorem goes_poisonHit {W : List Part} {s0 : State} (s : State) (hW : subParts [.regs] W = true) (hg : Goes W s0 s) : Goes W s0 (State.poisonHit s) := by
  unfold State.poisonHit
  repeat' first
    | with_reducible assumption
    | (with_reducible refine goes_bumpSat _ _ _ ?_ ?_; exact subT rfl hW)

theorem goes_cwFresh {W : List Part} {s0 : State} (s : State) (a : Nat) (hW : subParts [.regs, .mem] W = true) (hg : Goes W s0 s) : Goes W s0 (State.cwFresh s a) := by
  unfold State.cwFresh
  repeat' first
    | with_reducible assumption
    | (intro x; refine Goes.cut (W := W) (s0 := s0) (x := x) ?_ ?_; rotate_left; clear_value x; intro hx; rotate_right)
    | intro x
    | lift_lets
    | (with_reducible refine goes_poisonHit _ ?_ ?_; exact subT rfl hW)
    | (with_reducible refine Goes.ite ?_ ?_)
    | (fail_if_no_progress (apply Goes.upd [.mem]; dsimp only; exact subT rfl hW; (intro p hp; cases p <;> first | rfl | simp at hp); first | exact fun c => c | exact fun c => ⟨c.1, memWrite_wf _ _ _ c.2.1, c.2.2⟩ | exact fun c => ⟨c.1, c.2.1, memWrite_wf _ _ _ c.2.2.1, c.2.2.2⟩ | exact fun c => ⟨c.1, c.2.1, c.2.2.1, memWrite_wf _ _ _ c.2.2.2.1, c.2.2.2.2⟩ | exact fun c => ⟨c.1, c.2.1, Memory.wf_nil, c.2.2.2⟩))
    | (dsimp +zetaDelta only)

theorem goes_cwPart {W : List Part} {s0 : State} (s : State) (src : Nat) (a : Nat) (hW : subParts [.regs, .out, .free, .ldg, .mem, .pba] W = true) (hg : Goes W s0 s) : Goes W s0 (State.cwPart s src a) := by
  unfold State.cwPart
  repeat' first
    | with_reducible assumption
    | lift_lets
    | (with_reducible refine goes_dramMeet _ _ _ ?_ ?_; exact subT rfl hW)
    | (with_reducible refine goes_poisonHit _ ?_ ?_; exact subT rfl hW)
    | (with_reducible refine Goes.ite ?_ ?_)

theorem goes_dramPut {W : List Part} {s0 : State} (src k a : Nat) (b : Bytes) (dr : List Nat) (s : State) (hW : subParts [.regs, .out, .free, .ldg, .mem, .pba] W = true) (h : Goes W s0 s) : Goes W s0 (dramPut src k s a b dr).1 := by
  induction k generalizing s a b dr with
  | zero =>
    unfold dramPut
    repeat' first
      | assumption
  | succ n ih =>
    unfold dramPut
    repeat' first
      | (with_reducible refine ih _ _ _ _ ?_)
      | with_reducible assumption
      | (intro x; refine Goes.cut (W := W) (s0 := s0) (x := x) ?_ ?_; rotate_left; clear_value x; intro hx; rotate_right)
      | intro x
      | lift_lets
      | (with_reducible refine goes_cwFresh _ _ ?_ ?_; exact subT rfl hW)
      | (with_reducible refine goes_cwPart _ _ _ ?_ ?_; exact subT rfl hW)
      | (with_reducible refine Goes.ite ?_ ?_)
      | (with_reducible refine Goes.iteFst ?_ ?_)
      | (fail_if_no_progress (apply Goes.upd [.regs, .out, .free, .ldg, .mem, .pba]; dsimp only; exact subT rfl hW; (intro p hp; cases p <;> first | rfl | simp at hp); first | exact fun c => c | exact fun c => ⟨Sparse.filter_wf _ _ _ c.1, c.2⟩ | exact fun c => ⟨c.1, memWrite_wf _ _ _ c.2.1, c.2.2⟩ | exact fun c => ⟨c.1, c.2.1, memWrite_wf _ _ _ c.2.2.1, c.2.2.2⟩ | exact fun c => ⟨c.1, c.2.1, c.2.2.1, memWrite_wf _ _ _ c.2.2.2.1, c.2.2.2.2⟩ | exact fun c => ⟨c.1, c.2.1, Memory.wf_nil, c.2.2.2⟩))

theorem goes_dramStore {W : List Part} {s0 : State} (s : State) (m : Master) (a : Nat) (b : Bytes) (hW : subParts [.regs, .out, .free, .ldg, .mem, .pba] W = true) (hg : Goes W s0 s) : Goes W s0 (State.dramStore s m a b) := by
  unfold State.dramStore
  repeat' first
    | with_reducible assumption
    | lift_lets
    | (with_reducible refine goes_err _ _ _ _ _ ?_ ?_; exact subT rfl hW)
    | (with_reducible refine goes_dramPut _ _ _ _ _ _ ?_ ?_; exact subT rfl hW)
    | (with_reducible refine Goes.ite ?_ ?_)

theorem goes_dramWrite {W : List Part} {s0 : State} (s : State) (a : Nat) (b : Bytes) (hW : subParts [.regs, .out, .free, .ldg, .mem, .pba] W = true) (hg : Goes W s0 s) : Goes W s0 (State.dramWrite s a b) := by
  unfold State.dramWrite
  repeat' first
    | with_reducible assumption
    | (with_reducible refine goes_dramStore _ _ _ _ ?_ ?_; exact subT rfl hW)

theorem goes_dramFetch {W : List Part} {s0 : State} (s : State) (m : Master) (a : Nat) (n : Nat) (hW : subParts [.regs, .out, .free, .ldg, .mem, .pba] W = true) (hg : Goes W s0 s) : Goes W s0 (State.dramFetch s m a n).1 := by
  unfold State.dramFetch
  repeat' first
    | with_reducible assumption
    | (intro x; refine Goes.cut (W := W) (s0 := s0) (x := x) ?_ ?_; rotate_left; clear_value x; intro hx; rotate_right)
    | lift_lets
    | (with_reducible refine goes_err _ _ _ _ _ ?_ ?_; exact subT rfl hW)
    | (with_reducible refine goes_dramSeen _ _ _ _ ?_ ?_; exact subT rfl hW)
    | (with_reducible refine goes_poisonHit _ ?_ ?_; exact subT rfl hW)
    | (with_reducible refine Goes.ite ?_ ?_)
    | (with_reducible refine Goes.iteFst ?_ ?_)

theorem goes_dramFetch' {W : List Part} {s0 : State} (s : State) (m : Master) (a : Nat) (n : Nat) {u0 : State} {v0 : Option Bytes} (e : State.dramFetch s m a n = (u0, v0)) (hW : subParts [.regs, .out, .free, .ldg, .mem, .pba] W = true) (hg : Goes W s0 s) : Goes W s0 u0 := by
  have := goes_dramFetch s m a n hW hg
  rw [e] at this
  exact this

theorem goes_scrub {W : List Part} {s0 : State} (s : State) (errs : List (Nat × CwErr)) (hW : subParts [.regs, .out, .free, .ldg, .mem, .pba] W = true) (hg : Goes W s0 s) : Goes W s0 (State.scrub s errs) := by
  unfold State.scrub
  repeat' first
    | with_reducible assumption
    | (intro x; refine Goes.cut (W := W) (s0 := s0) (x := x) ?_ ?_; rotate_left; clear_value x; intro hx; rotate_right)
    | intro x
    | lift_lets
    | (with_reducible refine goes_wr _ _ _ ?_ ?_; exact subT rfl hW)
    | (with_reducible refine goes_bump _ _ _ ?_ ?_; exact subT rfl hW)
    | (with_reducible refine goes_irq _ _ _ ?_ ?_; exact subT rfl hW)
    | (with_reducible refine goes_dramStrike _ _ ?_ ?_; exact subT rfl hW)
    | (with_reducible refine goes_dramSeen _ _ _ _ ?_ ?_; exact subT rfl hW)
    | (with_reducible refine Goes.ite ?_ ?_)

theorem goes_sramError {W : List Part} {s0 : State} (s : State) (a : Nat) (e : CwErr) (hW : subParts [.regs, .out, .free, .mem, .pba] W = true) (hg : Goes W s0 s) : Goes W s0 (State.sramError s a e) := by
  unfold State.sramError
  repeat' first
    | with_reducible assumption
    | (intro x; refine Goes.cut (W := W) (s0 := s0) (x := x) ?_ ?_; rotate_left; clear_value x; intro hx; rotate_right)
    | intro x
    | lift_lets
    | (with_reducible refine goes_bumpSat _ _ _ ?_ ?_; exact subT rfl hW)
    | (with_reducible refine goes_draw _ _ ?_ ?_; exact subT rfl hW)
    | (with_reducible refine goes_irq _ _ _ ?_ ?_; exact subT rfl hW)
    | (with_reducible refine Goes.ite ?_ ?_)
    | split
    | (fail_if_no_progress (apply Goes.upd [.mem]; dsimp only; exact subT rfl hW; (intro p hp; cases p <;> first | rfl | simp at hp); first | exact fun c => c | exact fun c => ⟨c.1, memWrite_wf _ _ _ c.2.1, c.2.2⟩ | exact fun c => ⟨c.1, c.2.1, memWrite_wf _ _ _ c.2.2.1, c.2.2.2⟩ | exact fun c => ⟨c.1, c.2.1, c.2.2.1, memWrite_wf _ _ _ c.2.2.2.1, c.2.2.2.2⟩ | exact fun c => ⟨c.1, c.2.1, Memory.wf_nil, c.2.2.2⟩))

theorem goes_sramStrike {W : List Part} {s0 : State} (s : State) (errs : List (Nat × CwErr)) (hW : subParts [.mem] W = true) (hg : Goes W s0 s) : Goes W s0 (State.sramStrike s errs) := by
  unfold State.sramStrike
  repeat' first
    | with_reducible assumption
    | intro x
    | lift_lets
    | (fail_if_no_progress (apply Goes.upd [.mem]; dsimp only; exact subT rfl hW; (intro p hp; cases p <;> first | rfl | simp at hp); first | exact fun c => c | exact fun c => ⟨c.1, memWrite_wf _ _ _ c.2.1, c.2.2⟩ | exact fun c => ⟨c.1, c.2.1, memWrite_wf _ _ _ c.2.2.1, c.2.2.2⟩ | exact fun c => ⟨c.1, c.2.1, c.2.2.1, memWrite_wf _ _ _ c.2.2.2.1, c.2.2.2.2⟩ | exact fun c => ⟨c.1, c.2.1, Memory.wf_nil, c.2.2.2⟩))

theorem goes_sramMeet {W : List Part} {s0 : State} (s : State) (cw : Nat) (hW : subParts [.regs, .out, .free, .mem, .pba] W = true) (hg : Goes W s0 s) : Goes W s0 (State.sramMeet s cw) := by
  unfold State.sramMeet
  repeat' first
    | with_reducible assumption
    | intro x
    | lift_lets
    | (with_reducible refine goes_sramError _ _ _ ?_ ?_; exact subT rfl hW)
    | split
    | (fail_if_no_progress (apply Goes.upd [.mem]; dsimp only; exact subT rfl hW; (intro p hp; cases p <;> first | rfl | simp at hp); first | exact fun c => c | exact fun c => ⟨c.1, memWrite_wf _ _ _ c.2.1, c.2.2⟩ | exact fun c => ⟨c.1, c.2.1, memWrite_wf _ _ _ c.2.2.1, c.2.2.2⟩ | exact fun c => ⟨c.1, c.2.1, c.2.2.1, memWrite_wf _ _ _ c.2.2.2.1, c.2.2.2.2⟩ | exact fun c => ⟨c.1, c.2.1, Memory.wf_nil, c.2.2.2⟩))

theorem goes_sramSeen {W : List Part} {s0 : State} (s : State) (a : Nat) (n : Nat) (hW : subParts [.regs, .out, .free, .mem, .pba] W = true) (hg : Goes W s0 s) : Goes W s0 (State.sramSeen s a n) := by
  unfold State.sramSeen
  repeat' first
    | with_reducible assumption
    | lift_lets
    | (with_reducible refine goes_sramMeet _ _ ?_ ?_; exact subT rfl hW)
    | (refine Goes.foldl (fun _ _ _ => ?_) ?_)

theorem goes_execSramScrub {W : List Part} {s0 : State} (errs : List (Nat × CwErr)) (s : State) (hW : subParts [.regs, .out, .free, .mem, .pba] W = true) (hg : Goes W s0 s) : ∀ t0, execSramScrub errs s = .next t0 → Goes W s0 t0 := by
  unfold execSramScrub
  intro t0 e0
  obtain rfl := Host.Outcome.next.inj e0
  clear e0
  repeat' first
    | with_reducible assumption
    | (intro x; refine Goes.cut (W := W) (s0 := s0) (x := x) ?_ ?_; rotate_left; clear_value x; intro hx; rotate_right)
    | lift_lets
    | (with_reducible refine goes_sramStrike _ _ ?_ ?_; exact subT rfl hW)
    | (with_reducible refine goes_sramSeen _ _ _ ?_ ?_; exact subT rfl hW)
    | (with_reducible refine Goes.ite ?_ ?_)

theorem goes_sramWrite {W : List Part} {s0 : State} (s : State) (a : Nat) (b : Bytes) (hW : subParts [.mem] W = true) (hg : Goes W s0 s) : Goes W s0 (State.sramWrite s a b) := by
  unfold State.sramWrite
  repeat' first
    | with_reducible assumption
    | intro x
    | lift_lets
    | (fail_if_no_progress (apply Goes.upd [.mem]; dsimp only; exact subT rfl hW; (intro p hp; cases p <;> first | rfl | simp at hp); first | exact fun c => c | exact fun c => ⟨c.1, memWrite_wf _ _ _ c.2.1, c.2.2⟩ | exact fun c => ⟨c.1, c.2.1, memWrite_wf _ _ _ c.2.2.1, c.2.2.2⟩ | exact fun c => ⟨c.1, c.2.1, c.2.2.1, memWrite_wf _ _ _ c.2.2.2.1, c.2.2.2.2⟩ | exact fun c => ⟨c.1, c.2.1, Memory.wf_nil, c.2.2.2⟩))

theorem goes_nvsPut {W : List Part} {s0 : State} (s : State) (a : Nat) (b : Bytes) (hW : subParts [.nvs] W = true) (hg : Goes W s0 s) : Goes W s0 (State.nvsPut s a b) := by
  unfold State.nvsPut
  repeat' first
    | with_reducible assumption
    | (fail_if_no_progress (apply Goes.upd [.nvs]; dsimp only; exact subT rfl hW; (intro p hp; cases p <;> first | rfl | simp at hp); first | exact fun c => c | exact fun c => ⟨c.1, c.2.1, c.2.2.1, c.2.2.2.1, memWrite_wf _ _ _ c.2.2.2.2.1, c.2.2.2.2.2⟩))

theorem goes_nvsPart {W : List Part} {s0 : State} (w : NvsWriter) (a : Nat) (b : Bytes) (s : State) (r : Nat) (hW : subParts [.regs, .out, .nvs, .pba] W = true) (hg : Goes W s0 s) : Goes W s0 (State.nvsPart w a b s r) := by
  unfold State.nvsPart
  repeat' first
    | with_reducible assumption
    | intro x
    | lift_lets
    | (with_reducible refine goes_err _ _ _ _ _ ?_ ?_; exact subT rfl hW)
    | (with_reducible refine goes_nvsPut _ _ _ ?_ ?_; exact subT rfl hW)
    | (with_reducible refine Goes.ite ?_ ?_)

theorem goes_nvsWrite {W : List Part} {s0 : State} (s : State) (w : NvsWriter) (a : Nat) (b : Bytes) (hW : subParts [.regs, .out, .nvs, .pba] W = true) (hg : Goes W s0 s) : Goes W s0 (State.nvsWrite s w a b) := by
  unfold State.nvsWrite
  repeat' first
    | with_reducible assumption
    | lift_lets
    | (with_reducible refine goes_err _ _ _ _ _ ?_ ?_; exact subT rfl hW)
    | (with_reducible refine goes_nvsPart _ _ _ _ _ ?_ ?_; exact subT rfl hW)
    | (with_reducible refine Goes.ite ?_ ?_)
    | (refine Goes.foldl (fun _ _ _ => ?_) ?_)

theorem goes_loadGroup {W : List Part} {s0 : State} (s : State) (g : Nat) (regs : List (Nat × Nat)) (hW : subParts [.regs] W = true) (hg : Goes W s0 s) : Goes W s0 (State.loadGroup s g regs) := by
  unfold State.loadGroup
  repeat' first
    | with_reducible assumption
    | lift_lets
    | (with_reducible refine goes_wr _ _ _ ?_ ?_; exact subT rfl hW)
    | (with_reducible refine Goes.ite ?_ ?_)
    | split
    | (refine Goes.foldl (fun _ _ _ => ?_) ?_)

theorem goes_nvsUe {W : List Part} {s0 : State} (s : State) (a : Nat) (hW : subParts [.regs, .out, .pba] W = true) (hg : Goes W s0 s) : Goes W s0 (State.nvsUe s a) := by
  unfold State.nvsUe
  repeat' first
    | with_reducible assumption
    | (intro x; refine Goes.cut (W := W) (s0 := s0) (x := x) ?_ ?_; rotate_left; clear_value x; intro hx; rotate_right)
    | lift_lets
    | (with_reducible refine goes_wr _ _ _ ?_ ?_; exact subT rfl hW)
    | (with_reducible refine goes_bumpSat _ _ _ ?_ ?_; exact subT rfl hW)
    | (with_reducible refine goes_irq _ _ _ ?_ ?_; exact subT rfl hW)
    | (with_reducible refine Goes.ite ?_ ?_)

theorem goes_nvsStrike {W : List Part} {s0 : State} (l : List (Nat × CwErr)) (s : State) (hW : subParts [.nvs] W = true) (h : Goes W s0 s) : Goes W s0 (State.nvsStrike s l) := by
  induction l generalizing s with
  | nil =>
    unfold State.nvsStrike
    repeat' first
      | assumption
  | cons x r ih =>
    unfold State.nvsStrike
    repeat' first
      | (with_reducible refine ih _ ?_)
      | with_reducible assumption
      | intro x
      | lift_lets
      | (with_reducible refine Goes.ite ?_ ?_)
      | split
      | (fail_if_no_progress (apply Goes.upd [.nvs]; dsimp only; exact subT rfl hW; (intro p hp; cases p <;> first | rfl | simp at hp); first | exact fun c => c | exact fun c => ⟨c.1, c.2.1, c.2.2.1, c.2.2.2.1, memWrite_wf _ _ _ c.2.2.2.2.1, c.2.2.2.2.2⟩))

theorem goes_nvsFetch {W : List Part} {s0 : State} (s : State) (a : Nat) (n : Nat) (hW : subParts [.regs, .out, .pba] W = true) (hg : Goes W s0 s) : Goes W s0 (State.nvsFetch s a n).1 := by
  unfold State.nvsFetch
  repeat' first
    | with_reducible assumption
    | (intro x; refine Goes.cut (W := W) (s0 := s0) (x := x) ?_ ?_; rotate_left; clear_value x; intro hx; rotate_right)
    | lift_lets
    | (with_reducible refine goes_bumpSat _ _ _ ?_ ?_; exact subT rfl hW)
    | (with_reducible refine goes_nvsUe _ _ ?_ ?_; exact subT rfl hW)
    | split
    | (dsimp +zetaDelta only)

theorem goes_nvsFetch' {W : List Part} {s0 : State} (s : State) (a : Nat) (n : Nat) {u0 : State} {v0 : Option Bytes} (e : State.nvsFetch s a n = (u0, v0)) (hW : subParts [.regs, .out, .pba] W = true) (hg : Goes W s0 s) : Goes W s0 u0 := by
  have := goes_nvsFetch s a n hW hg
  rw [e] at this
  exact this

theorem goes_corBank {W : List Part} {s0 : State} (s : State) (k : Nat) (a : Nat) (b : Bytes) (hW : subParts [.regs, .cor] W = true) (hg : Goes W s0 s) : Goes W s0 (State.corBank s k a b) := by
  unfold State.corBank
  repeat' first
    | with_reducible assumption
    | (intro x; refine Goes.cut (W := W) (s0 := s0) (x := x) ?_ ?_; rotate_left; clear_value x; intro hx; rotate_right)
    | intro x
    | lift_lets
    | (with_reducible refine goes_wb _ _ _ _ ?_ ?_; exact subT rfl hW)
    | (with_reducible refine Goes.ite ?_ ?_)
    | (fail_if_no_progress (with_reducible refine goes_set_cor _ _ ?_ ?_; exact subT rfl hW))

theorem goes_corWrite {W : List Part} {s0 : State} (s : State) (a : Nat) (b : Bytes) (hW : subParts [.regs, .cor] W = true) (hg : Goes W s0 s) : Goes W s0 (State.corWrite s a b) := by
  unfold State.corWrite
  repeat' first
    | with_reducible assumption
    | lift_lets
    | (with_reducible refine goes_corBank _ _ _ _ ?_ ?_; exact subT rfl hW)

theorem goes_bootSeen {W : List Part} {s0 : State} (s : State) (a : Nat) (n : Nat) (hW : subParts [.free] W = true) (hg : Goes W s0 s) : Goes W s0 (State.bootSeen s a n).1 := by
  unfold State.bootSeen
  repeat' first
    | with_reducible assumption
    | lift_lets
    | (with_reducible refine goes_draw _ _ ?_ ?_; exact subT rfl hW)
    | split
    | dsimp only

theorem goes_bootSeen' {W : List Part} {s0 : State} (s : State) (a : Nat) (n : Nat) {u0 : State} {v0 : Bytes} (e : State.bootSeen s a n = (u0, v0)) (hW : subParts [.free] W = true) (hg : Goes W s0 s) : Goes W s0 u0 := by
  have := goes_bootSeen s a n hW hg
  rw [e] at this
  exact this

/-- Storing bytes of the boot slot keeps its addresses rising. -/
theorem bootPut_sorted (m : Sparse Byte) (a : Nat) (b : Bytes) (h : Sparse.sorted m = true) : Sparse.sorted (bootPut m a b) = true := by
  induction b generalizing m a with
  | nil => exact h
  | cons x r ih => exact ih _ _ (Sparse.put_sorted _ _ _ h)

theorem goes_bootWrite {W : List Part} {s0 : State} (s : State) (a : Nat) (b : Bytes) (hW : subParts [.emc, .upd] W = true) (h : Goes W s0 s) : Goes W s0 (s.bootWrite a b) :=
  Goes.upd (b := s) [.emc, .upd] rfl (subT rfl hW) (by intro p hp; cases p <;> first | rfl | simp at hp)
    (fun c => ⟨c.1, c.2.1, c.2.2.1, c.2.2.2.1, c.2.2.2.2.1, c.2.2.2.2.2.1, bootPut_sorted _ _ _ c.2.2.2.2.2.2⟩) h

theorem goes_porterRead {W : List Part} {s0 : State} (s : State) (l : PorterLoc) (n : Nat) (hW : subParts [.regs, .out, .free, .ldg, .mem, .pba] W = true) (hg : Goes W s0 s) : Goes W s0 (State.porterRead s l n).1 := by
  unfold State.porterRead
  repeat' first
    | with_reducible assumption
    | (intro x; refine Goes.cut (W := W) (s0 := s0) (x := x) ?_ ?_; rotate_left; clear_value x; intro hx; rotate_right)
    | intro x
    | lift_lets
    | (with_reducible refine goes_dramSeen _ _ _ _ ?_ ?_; exact subT rfl hW)
    | (with_reducible refine goes_poisonHit _ ?_ ?_; exact subT rfl hW)
    | (with_reducible refine goes_sramSeen _ _ _ ?_ ?_; exact subT rfl hW)
    | (with_reducible refine goes_nvsFetch _ _ _ ?_ ?_; exact subT rfl hW)
    | (with_reducible refine goes_bootSeen _ _ _ ?_ ?_; exact subT rfl hW)
    | (with_reducible refine Goes.ite ?_ ?_)
    | split

theorem goes_porterRead' {W : List Part} {s0 : State} (s : State) (l : PorterLoc) (n : Nat) {u0 : State} {v0 : Bytes × Bool} (e : State.porterRead s l n = (u0, v0)) (hW : subParts [.regs, .out, .free, .ldg, .mem, .pba] W = true) (hg : Goes W s0 s) : Goes W s0 u0 := by
  have := goes_porterRead s l n hW hg
  rw [e] at this
  exact this

theorem goes_porterWrite {W : List Part} {s0 : State} (s : State) (l : PorterLoc) (b : Bytes) (hW : subParts [.regs, .out, .resp, .free, .ldg, .mem, .nvs, .emc, .cor, .upd, .pba] W = true) (hg : Goes W s0 s) : Goes W s0 (State.porterWrite s l b) := by
  unfold State.porterWrite
  repeat' first
    | with_reducible assumption
    | intro x
    | lift_lets
    | (with_reducible refine goes_answer _ _ ?_ ?_; exact subT rfl hW)
    | (with_reducible refine goes_dramStore _ _ _ _ ?_ ?_; exact subT rfl hW)
    | (with_reducible refine goes_sramWrite _ _ _ ?_ ?_; exact subT rfl hW)
    | (with_reducible refine goes_nvsWrite _ _ _ _ ?_ ?_; exact subT rfl hW)
    | (with_reducible refine goes_corWrite _ _ _ ?_ ?_; exact subT rfl hW)
    | (with_reducible refine goes_bootWrite _ _ _ ?_ ?_; exact subT rfl hW)
    | split
    | (fail_if_no_progress (apply Goes.upd [.mem, .emc]; dsimp only; exact subT rfl hW; (intro p hp; cases p <;> first | rfl | simp at hp); first | exact fun c => c | exact fun c => ⟨c.1, memWrite_wf _ _ _ c.2.1, c.2.2⟩ | exact fun c => ⟨c.1, c.2.1, memWrite_wf _ _ _ c.2.2.1, c.2.2.2⟩ | exact fun c => ⟨c.1, c.2.1, c.2.2.1, memWrite_wf _ _ _ c.2.2.2.1, c.2.2.2.2⟩ | exact fun c => ⟨c.1, c.2.1, Memory.wf_nil, c.2.2.2⟩ | exact fun c => ⟨c.1, c.2.1, c.2.2.1, c.2.2.2.1, memWrite_wf _ _ _ c.2.2.2.2.1, c.2.2.2.2.2⟩ | exact fun c => ⟨c.1, c.2.1, c.2.2.1, c.2.2.2.1, c.2.2.2.2.1, memWrite_wf _ _ _ c.2.2.2.2.2.1, c.2.2.2.2.2.2⟩))

theorem goes_porterStrike {W : List Part} {s0 : State} (s : State) (t : Porter) (hW : subParts [.mem, .nvs] W = true) (hg : Goes W s0 s) : Goes W s0 (State.porterStrike s t) := by
  unfold State.porterStrike
  repeat' first
    | with_reducible assumption
    | (with_reducible refine goes_dramStrike _ _ ?_ ?_; exact subT rfl hW)
    | (with_reducible refine goes_sramStrike _ _ ?_ ?_; exact subT rfl hW)
    | (with_reducible refine goes_nvsStrike _ _ ?_ ?_; exact subT rfl hW)
    | split

theorem goes_devErr {W : List Part} {s0 : State} (s : State) (hW : subParts [.regs, .out, .free, .pba] W = true) (hg : Goes W s0 s) : Goes W s0 (State.devErr s) := by
  unfold State.devErr
  repeat' first
    | with_reducible assumption
    | lift_lets
    | (with_reducible refine goes_wr _ _ _ ?_ ?_; exact subT rfl hW)
    | (with_reducible refine goes_draw _ _ ?_ ?_; exact subT rfl hW)
    | (with_reducible refine goes_irq _ _ _ ?_ ?_; exact subT rfl hW)

theorem goes_emcDone {W : List Part} {s0 : State} (s : State) (t : Porter) (hW : subParts [.regs, .out, .free, .pba] W = true) (hg : Goes W s0 s) : Goes W s0 (State.emcDone s t) := by
  unfold State.emcDone
  repeat' first
    | with_reducible assumption
    | lift_lets
    | (with_reducible refine goes_irq _ _ _ ?_ ?_; exact subT rfl hW)
    | (with_reducible refine goes_devErr _ ?_ ?_; exact subT rfl hW)
    | (with_reducible refine Goes.ite ?_ ?_)

theorem goes_porterMove {W : List Part} {s0 : State} (s : State) (t : Porter) (hW : subParts [.regs, .out, .resp, .free, .mkt, .ldg, .mem, .nvs, .emc, .cor, .upd, .pba] W = true) (hg : Goes W s0 s) : Goes W s0 (State.porterMove s t) := by
  unfold State.porterMove
  repeat' first
    | with_reducible assumption
    | (intro x; refine Goes.cut (W := W) (s0 := s0) (x := x) ?_ ?_; rotate_left; clear_value x; intro hx; rotate_right)
    | intro x
    | lift_lets
    | (with_reducible refine goes_answer _ _ ?_ ?_; exact subT rfl hW)
    | (with_reducible refine goes_decCtr _ _ ?_ ?_; exact subT rfl hW)
    | (with_reducible refine goes_porterRead _ _ _ ?_ ?_; exact subT rfl hW)
    | (with_reducible refine goes_porterWrite _ _ _ ?_ ?_; exact subT rfl hW)
    | (with_reducible refine goes_porterStrike _ _ ?_ ?_; exact subT rfl hW)
    | (with_reducible refine goes_emcDone _ _ ?_ ?_; exact subT rfl hW)
    | (with_reducible refine Goes.ite ?_ ?_)
    | split

theorem goes_porterDone {W : List Part} {s0 : State} (s : State) (t : Porter) (hW : subParts [.regs, .out, .resp, .free, .mkt, .ldg, .mem, .nvs, .emc, .cor, .upd, .pba] W = true) (hg : Goes W s0 s) : Goes W s0 (State.porterDone s t) := by
  unfold State.porterDone
  repeat' first
    | with_reducible assumption
    | lift_lets
    | (with_reducible refine goes_answer _ _ ?_ ?_; exact subT rfl hW)
    | (with_reducible refine goes_err _ _ _ _ _ ?_ ?_; exact subT rfl hW)
    | (with_reducible refine goes_porterMove _ _ ?_ ?_; exact subT rfl hW)
    | split

theorem goes_bar2Err {W : List Part} {s0 : State} (s : State) (code : Nat) (a : Nat) (hW : subParts [.regs, .out, .pba] W = true) (hg : Goes W s0 s) : Goes W s0 (State.bar2Err s code a) := by
  unfold State.bar2Err
  repeat' first
    | with_reducible assumption
    | lift_lets
    | (with_reducible refine goes_wr _ _ _ ?_ ?_; exact subT rfl hW)
    | (with_reducible refine goes_err _ _ _ _ _ ?_ ?_; exact subT rfl hW)

theorem goes_bar2 {W : List Part} {s0 : State} (s : State) (closed : Nat → Bool) (x : Bar2Access) (hW : subParts [.regs, .out, .free, .ldg, .mem, .pba] W = true) (hg : Goes W s0 s) : Goes W s0 (State.bar2 s closed x).1 := by
  unfold State.bar2
  repeat' first
    | with_reducible assumption
    | intro x
    | lift_lets
    | (with_reducible refine goes_dramStrike _ _ ?_ ?_; exact subT rfl hW)
    | (with_reducible refine goes_dramSeen _ _ _ _ ?_ ?_; exact subT rfl hW)
    | (with_reducible refine goes_poisonHit _ ?_ ?_; exact subT rfl hW)
    | (with_reducible refine goes_dramPut _ _ _ _ _ _ ?_ ?_; exact subT rfl hW)
    | (with_reducible refine goes_bar2Err _ _ _ ?_ ?_; exact subT rfl hW)
    | (with_reducible refine Goes.ite ?_ ?_)
    | (with_reducible refine Goes.iteFst ?_ ?_)
    | split
    | (refine Goes.foldl (fun _ _ _ => ?_) ?_)

theorem goes_bar2' {W : List Part} {s0 : State} (s : State) (closed : Nat → Bool) (x : Bar2Access) {u0 : State} {v0 : Resp} (e : State.bar2 s closed x = (u0, v0)) (hW : subParts [.regs, .out, .free, .ldg, .mem, .pba] W = true) (hg : Goes W s0 s) : Goes W s0 u0 := by
  have := goes_bar2 s closed x hW hg
  rw [e] at this
  exact this

theorem goes_putRegions {W : List Part} {s0 : State} (n : Nat) (l : List (Nat × Nat × Nat)) (s : State) (hW : subParts [.regs] W = true) (h : Goes W s0 s) : Goes W s0 (putRegions n l s) := by
  induction l generalizing s n with
  | nil =>
    unfold putRegions
    repeat' first
      | assumption
  | cons x r ih =>
    unfold putRegions
    repeat' first
      | (with_reducible refine ih _ _ ?_)
      | with_reducible assumption
      | lift_lets
      | (with_reducible refine goes_wr _ _ _ ?_ ?_; exact subT rfl hW)

theorem goes_mapSetup {W : List Part} {s0 : State} (s : State) (hW : subParts [.regs] W = true) (hg : Goes W s0 s) : Goes W s0 (State.mapSetup s) := by
  unfold State.mapSetup
  repeat' first
    | with_reducible assumption
    | lift_lets
    | (with_reducible refine goes_wb _ _ _ _ ?_ ?_; exact subT rfl hW)
    | (with_reducible refine goes_putRegions _ _ _ ?_ ?_; exact subT rfl hW)

end Sys2Proof.Machine
end

