-- ==== Sys2Proof/Laws/GoesPewter.lean ====
section
/-! SUPPORT. What the operations of Machine/Pewter.lean can change: one lemma each. -/

set_option linter.unreachableTactic false
set_option linter.unusedTactic false

namespace Sys2Proof.Machine

open Sys2Proof

theorem goes_pwtIrq {W : List Part} {s0 : State} (s : State) (i : Nat) (hW : subParts [.regs, .out, .pwt, .pba] W = true) (hg : Goes W s0 s) : Goes W s0 (State.pwtIrq s i) := by
  unfold State.pwtIrq
  repeat' first
    | with_reducible assumption
    | intro x
    | lift_lets
    | (with_reducible refine goes_irq _ _ _ ?_ ?_; exact subT rfl hW)
    | (with_reducible refine Goes.ite ?_ ?_)
    | (fail_if_no_progress (with_reducible refine goes_set_pwt _ _ ?_ ?_; exact subT rfl hW))

theorem goes_pwtFlag {W : List Part} {s0 : State} (s : State) (i : Nat) (hW : subParts [.regs] W = true) (hg : Goes W s0 s) : Goes W s0 (State.pwtFlag s i) := by
  unfold State.pwtFlag
  repeat' first
    | with_reducible assumption
    | (with_reducible refine goes_wb _ _ _ _ ?_ ?_; exact subT rfl hW)

theorem goes_pwtEvent {W : List Part} {s0 : State} (s : State) (code : Nat) (p : Bytes) (hW : subParts [.regs, .out, .mbx, .ldg, .pba] W = true) (hg : Goes W s0 s) : Goes W s0 (State.pwtEvent s code p) := by
  unfold State.pwtEvent
  repeat' first
    | with_reducible assumption
    | lift_lets
    | (with_reducible refine goes_event _ _ _ _ ?_ ?_; exact subT rfl hW)
    | (with_reducible refine Goes.ite ?_ ?_)

theorem goes_setVbak {W : List Part} {s0 : State} (s : State) (mv : Nat) (hW : subParts [.regs, .out, .mbx, .ldg, .pwt, .pba] W = true) (hg : Goes W s0 s) : Goes W s0 (State.setVbak s mv) := by
  unfold State.setVbak
  repeat' first
    | with_reducible assumption
    | intro x
    | lift_lets
    | (with_reducible refine goes_pwtIrq _ _ ?_ ?_; exact subT rfl hW)
    | (with_reducible refine goes_pwtFlag _ _ ?_ ?_; exact subT rfl hW)
    | (with_reducible refine goes_pwtEvent _ _ _ ?_ ?_; exact subT rfl hW)
    | (with_reducible refine Goes.ite ?_ ?_)
    | (fail_if_no_progress (with_reducible refine goes_set_pwt _ _ ?_ ?_; exact subT rfl hW))

theorem goes_setPwron {W : List Part} {s0 : State} (s : State) (on : Bool) (by_ : Nat) (hW : subParts [.out, .pwt] W = true) (hg : Goes W s0 s) : Goes W s0 (State.setPwron s on by_) := by
  unfold State.setPwron
  repeat' first
    | with_reducible assumption
    | intro x
    | lift_lets
    | (with_reducible refine goes_emit _ _ ?_ ?_; exact subT rfl hW)
    | (with_reducible refine Goes.ite ?_ ?_)
    | split
    | (fail_if_no_progress (with_reducible refine goes_set_pwt _ _ ?_ ?_; exact subT rfl hW))

theorem goes_alarm {W : List Part} {s0 : State} (s : State) (n : Nat) (hW : subParts [.regs, .out, .pwt, .pba] W = true) (hg : Goes W s0 s) : Goes W s0 (State.alarm s n) := by
  unfold State.alarm
  repeat' first
    | with_reducible assumption
    | (intro x; refine Goes.cut (W := W) (s0 := s0) (x := x) ?_ ?_; rotate_left; clear_value x; intro hx; rotate_right)
    | lift_lets
    | (with_reducible refine goes_pwtIrq _ _ ?_ ?_; exact subT rfl hW)
    | (with_reducible refine goes_pwtFlag _ _ ?_ ?_; exact subT rfl hW)
    | (with_reducible refine goes_setPwron _ _ _ ?_ ?_; exact subT rfl hW)
    | (with_reducible refine Goes.ite ?_ ?_)

theorem goes_second {W : List Part} {s0 : State} (s : State) (vbakMv : Nat) (c : DWord) (hW : subParts [.regs, .out, .cnt, .mbx, .ldg, .pwt, .pba] W = true) (hg : Goes W s0 s) : Goes W s0 (State.second s vbakMv c) := by
  unfold State.second
  repeat' first
    | with_reducible assumption
    | (intro x; refine Goes.cut (W := W) (s0 := s0) (x := x) ?_ ?_; rotate_left; clear_value x; intro hx; rotate_right)
    | intro x
    | lift_lets
    | (with_reducible refine goes_wr64 _ _ _ _ ?_ ?_; exact subT rfl hW)
    | (with_reducible refine goes_at _ _ ?_ ?_; exact subT rfl hW)
    | (with_reducible refine goes_pwtIrq _ _ ?_ ?_; exact subT rfl hW)
    | (with_reducible refine goes_pwtFlag _ _ ?_ ?_; exact subT rfl hW)
    | (with_reducible refine goes_pwtEvent _ _ _ ?_ ?_; exact subT rfl hW)
    | (with_reducible refine goes_setVbak _ _ ?_ ?_; exact subT rfl hW)
    | (with_reducible refine goes_alarm _ _ ?_ ?_; exact subT rfl hW)
    | (with_reducible refine Goes.ite ?_ ?_)
    | (fail_if_no_progress (with_reducible refine goes_set_pwt _ _ ?_ ?_; exact subT rfl hW))

theorem goes_execCalendarSecond {W : List Part} {s0 : State} (vbakMv : Nat) (c : DWord) (s : State) (hW : subParts [.regs, .out, .cnt, .mbx, .ldg, .pwt, .pba] W = true) (hg : Goes W s0 s) : ∀ t0, execCalendarSecond vbakMv c s = .next t0 → Goes W s0 t0 := by
  unfold execCalendarSecond
  intro t0 e0
  obtain rfl := Host.Outcome.next.inj e0
  clear e0
  repeat' first
    | with_reducible assumption
    | lift_lets
    | (with_reducible refine goes_second _ _ _ ?_ ?_; exact subT rfl hW)
    | (with_reducible refine Goes.ite ?_ ?_)

theorem goes_rtcCommit {W : List Part} {s0 : State} (s : State) (hW : subParts [.regs, .out, .pwt, .pba] W = true) (hg : Goes W s0 s) : Goes W s0 (State.rtcCommit s).1 := by
  unfold State.rtcCommit
  repeat' first
    | with_reducible assumption
    | intro x
    | lift_lets
    | (with_reducible refine goes_wf _ _ _ _ _ ?_ ?_; exact subT rfl hW)
    | (with_reducible refine goes_wb _ _ _ _ ?_ ?_; exact subT rfl hW)
    | (with_reducible refine goes_irq _ _ _ ?_ ?_; exact subT rfl hW)
    | (with_reducible refine Goes.iteFst ?_ ?_)
    | (fail_if_no_progress (with_reducible refine goes_set_pwt _ _ ?_ ?_; exact subT rfl hW))

theorem goes_rtcCommit' {W : List Part} {s0 : State} (s : State) {u0 : State} {v0 : Nat} (e : State.rtcCommit s = (u0, v0)) (hW : subParts [.regs, .out, .pwt, .pba] W = true) (hg : Goes W s0 s) : Goes W s0 u0 := by
  have := goes_rtcCommit s hW hg
  rw [e] at this
  exact this

theorem goes_rtcCtrl {W : List Part} {s0 : State} (s : State) (m : Master) (v : Word) (hW : subParts [.regs, .out, .pwt, .pba] W = true) (hg : Goes W s0 s) : Goes W s0 (State.rtcCtrl s m v) := by
  unfold State.rtcCtrl
  repeat' first
    | with_reducible assumption
    | lift_lets
    | (with_reducible refine goes_err _ _ _ _ _ ?_ ?_; exact subT rfl hW)
    | (with_reducible refine goes_rtcCommit _ ?_ ?_; exact subT rfl hW)
    | (with_reducible refine Goes.ite ?_ ?_)

theorem goes_execRtcCommit {W : List Part} {s0 : State} (m : Master) (v : Word) (s : State) (hW : subParts [.regs, .out, .resp, .pwt, .host, .pba] W = true) (hg : Goes W s0 s) : ∀ t0, execRtcCommit m v s = .next t0 → Goes W s0 t0 := by
  unfold execRtcCommit
  intro t0 e0
  obtain rfl := Host.Outcome.next.inj e0
  clear e0
  repeat' first
    | with_reducible assumption
    | lift_lets
    | (with_reducible refine goes_answer _ _ ?_ ?_; exact subT rfl hW)
    | (with_reducible refine goes_writeAt _ _ _ _ _ _ ?_ (fun _ _ => ?_) ?_; exact subT rfl hW)
    | (with_reducible refine goes_rtcCtrl _ _ _ ?_ ?_; exact subT rfl hW)

theorem goes_rtcLoad {W : List Part} {s0 : State} (s : State) (hW : subParts [.regs, .out, .mbx, .pwt, .pba] W = true) (hg : Goes W s0 s) : Goes W s0 (State.rtcLoad s) := by
  unfold State.rtcLoad
  repeat' first
    | with_reducible assumption
    | (intro x; refine Goes.cut (W := W) (s0 := s0) (x := x) ?_ ?_; rotate_left; clear_value x; intro hx; rotate_right)
    | intro x
    | lift_lets
    | (with_reducible refine goes_reply _ _ _ _ _ ?_ ?_; exact subT rfl hW)
    | split
    | (fail_if_no_progress (with_reducible refine goes_set_pwt _ _ ?_ ?_; exact subT rfl hW))

theorem goes_execRtcLoad {W : List Part} {s0 : State} (s : State) (hW : subParts [.regs, .out, .mbx, .pwt, .pba] W = true) (hg : Goes W s0 s) : ∀ t0, execRtcLoad s = .next t0 → Goes W s0 t0 := by
  unfold execRtcLoad
  intro t0 e0
  obtain rfl := Host.Outcome.next.inj e0
  clear e0
  repeat' first
    | with_reducible assumption
    | lift_lets
    | (with_reducible refine goes_rtcLoad _ ?_ ?_; exact subT rfl hW)
    | (with_reducible refine Goes.ite ?_ ?_)

theorem goes_rtcCut {W : List Part} {s0 : State} (s : State) (hW : subParts [.regs, .out, .free, .mbx, .pwt, .pba] W = true) (hg : Goes W s0 s) : Goes W s0 (State.rtcCut s) := by
  unfold State.rtcCut
  repeat' first
    | with_reducible assumption
    | intro x
    | lift_lets
    | (with_reducible refine goes_draw _ _ ?_ ?_; exact subT rfl hW)
    | (with_reducible refine goes_rtcLoad _ ?_ ?_; exact subT rfl hW)
    | (with_reducible refine Goes.ite ?_ ?_)
    | (fail_if_no_progress (with_reducible refine goes_set_pwt _ _ ?_ ?_; exact subT rfl hW))

theorem goes_rtcLatch {W : List Part} {s0 : State} (s : State) (cycles : Nat) (hW : subParts [.regs] W = true) (hg : Goes W s0 s) : Goes W s0 (State.rtcLatch s cycles) := by
  unfold State.rtcLatch
  repeat' first
    | with_reducible assumption
    | lift_lets
    | (with_reducible refine goes_wr _ _ _ ?_ ?_; exact subT rfl hW)

theorem goes_execRtcTimeRead {W : List Part} {s0 : State} (m : Master) (cycles : Nat) (s : State) (hW : subParts [.regs, .out, .resp, .host, .pba] W = true) (hg : Goes W s0 s) : ∀ t0, execRtcTimeRead m cycles s = .next t0 → Goes W s0 t0 := by
  unfold execRtcTimeRead
  intro t0 e0
  obtain rfl := Host.Outcome.next.inj e0
  clear e0
  repeat' first
    | with_reducible assumption
    | lift_lets
    | (with_reducible refine goes_answer _ _ ?_ ?_; exact subT rfl hW)
    | (with_reducible refine goes_readAt _ _ _ _ _ ?_ (fun _ _ => ?_) ?_; exact subT rfl hW)
    | (with_reducible refine goes_rtcLatch _ _ ?_ ?_; exact subT rfl hW)

theorem goes_execRtcSet {W : List Part} {s0 : State} (tag : Word) (s : State) (hW : subParts [.regs, .out, .mbx, .ldg, .pwt, .pba] W = true) (hg : Goes W s0 s) : ∀ t0, execRtcSet tag s = .next t0 → Goes W s0 t0 := by
  unfold execRtcSet
  intro t0 e0
  obtain rfl := Host.Outcome.next.inj e0
  clear e0
  repeat' first
    | with_reducible assumption
    | intro x
    | lift_lets
    | (with_reducible refine goes_wr _ _ _ ?_ ?_; exact subT rfl hW)
    | (with_reducible refine goes_reply _ _ _ _ _ ?_ ?_; exact subT rfl hW)
    | (with_reducible refine goes_defer _ _ ?_ ?_; exact subT rfl hW)
    | (with_reducible refine goes_withCmd _ _ _ _ ?_ (fun _ _ _ => ?_) ?_; exact subT rfl hW)
    | (with_reducible refine goes_rtcCommit _ ?_ ?_; exact subT rfl hW)
    | (with_reducible refine Goes.ite ?_ ?_)

theorem goes_execRtcGet {W : List Part} {s0 : State} (tag : Word) (cycles : Nat) (s : State) (hW : subParts [.regs, .out, .mbx, .ldg, .pba] W = true) (hg : Goes W s0 s) : ∀ t0, execRtcGet tag cycles s = .next t0 → Goes W s0 t0 := by
  unfold execRtcGet
  intro t0 e0
  obtain rfl := Host.Outcome.next.inj e0
  clear e0
  repeat' first
    | with_reducible assumption
    | (intro x; refine Goes.cut (W := W) (s0 := s0) (x := x) ?_ ?_; rotate_left; clear_value x; intro hx; rotate_right)
    | lift_lets
    | (with_reducible refine goes_reply _ _ _ _ _ ?_ ?_; exact subT rfl hW)
    | (with_reducible refine goes_withCmd _ _ _ _ ?_ (fun _ _ _ => ?_) ?_; exact subT rfl hW)
    | (with_reducible refine goes_rtcLatch _ _ ?_ ?_; exact subT rfl hW)

theorem goes_execAlarmSet {W : List Part} {s0 : State} (tag : Word) (s : State) (hW : subParts [.regs, .out, .mbx, .ldg, .pba] W = true) (hg : Goes W s0 s) : ∀ t0, execAlarmSet tag s = .next t0 → Goes W s0 t0 := by
  unfold execAlarmSet
  intro t0 e0
  obtain rfl := Host.Outcome.next.inj e0
  clear e0
  repeat' first
    | with_reducible assumption
    | (intro x; refine Goes.cut (W := W) (s0 := s0) (x := x) ?_ ?_; rotate_left; clear_value x; intro hx; rotate_right)
    | lift_lets
    | (with_reducible refine goes_wr _ _ _ ?_ ?_; exact subT rfl hW)
    | (with_reducible refine goes_wf _ _ _ _ _ ?_ ?_; exact subT rfl hW)
    | (with_reducible refine goes_wb _ _ _ _ ?_ ?_; exact subT rfl hW)
    | (with_reducible refine goes_reply _ _ _ _ _ ?_ ?_; exact subT rfl hW)
    | (with_reducible refine goes_withCmd _ _ _ _ ?_ (fun _ _ _ => ?_) ?_; exact subT rfl hW)
    | (with_reducible refine Goes.ite ?_ ?_)

theorem goes_pwronAssert {W : List Part} {s0 : State} (s : State) (m : Master) (hW : subParts [.regs, .out, .pwt, .pba] W = true) (hg : Goes W s0 s) : Goes W s0 (State.pwronAssert s m) := by
  unfold State.pwronAssert
  repeat' first
    | with_reducible assumption
    | lift_lets
    | (with_reducible refine goes_err _ _ _ _ _ ?_ ?_; exact subT rfl hW)
    | (with_reducible refine goes_setPwron _ _ _ ?_ ?_; exact subT rfl hW)
    | (with_reducible refine Goes.ite ?_ ?_)

theorem goes_execPwronAssert {W : List Part} {s0 : State} (m : Master) (s : State) (hW : subParts [.regs, .out, .resp, .pwt, .host, .pba] W = true) (hg : Goes W s0 s) : ∀ t0, execPwronAssert m s = .next t0 → Goes W s0 t0 := by
  unfold execPwronAssert
  intro t0 e0
  obtain rfl := Host.Outcome.next.inj e0
  clear e0
  repeat' first
    | with_reducible assumption
    | lift_lets
    | (with_reducible refine goes_answer _ _ ?_ ?_; exact subT rfl hW)
    | (with_reducible refine goes_writeAt _ _ _ _ _ _ ?_ (fun _ _ => ?_) ?_; exact subT rfl hW)
    | (with_reducible refine goes_pwronAssert _ _ ?_ ?_; exact subT rfl hW)

theorem goes_pwronRelease {W : List Part} {s0 : State} (s : State) (hW : subParts [.out, .pwt] W = true) (hg : Goes W s0 s) : Goes W s0 (State.pwronRelease s) := by
  unfold State.pwronRelease
  repeat' first
    | with_reducible assumption
    | lift_lets
    | (with_reducible refine goes_setPwron _ _ _ ?_ ?_; exact subT rfl hW)
    | (with_reducible refine Goes.ite ?_ ?_)

theorem goes_execPwronRelease {W : List Part} {s0 : State} (m : Master) (s : State) (hW : subParts [.regs, .out, .resp, .pwt, .host, .pba] W = true) (hg : Goes W s0 s) : ∀ t0, execPwronRelease m s = .next t0 → Goes W s0 t0 := by
  unfold execPwronRelease
  intro t0 e0
  obtain rfl := Host.Outcome.next.inj e0
  clear e0
  repeat' first
    | with_reducible assumption
    | lift_lets
    | (with_reducible refine goes_answer _ _ ?_ ?_; exact subT rfl hW)
    | (with_reducible refine goes_writeAt _ _ _ _ _ _ ?_ (fun _ _ => ?_) ?_; exact subT rfl hW)
    | (with_reducible refine goes_pwronRelease _ ?_ ?_; exact subT rfl hW)

theorem goes_execPwronPulseEnd {W : List Part} {s0 : State} (s : State) (hW : subParts [.out, .pwt] W = true) (hg : Goes W s0 s) : ∀ t0, execPwronPulseEnd s = .next t0 → Goes W s0 t0 := by
  unfold execPwronPulseEnd
  intro t0 e0
  obtain rfl := Host.Outcome.next.inj e0
  clear e0
  repeat' first
    | with_reducible assumption
    | lift_lets
    | (with_reducible refine goes_setPwron _ _ _ ?_ ?_; exact subT rfl hW)
    | (with_reducible refine Goes.ite ?_ ?_)

theorem goes_faillit {W : List Part} {s0 : State} (s : State) (m : Master) (v : Word) (hW : subParts [.regs, .out, .pba] W = true) (hg : Goes W s0 s) : Goes W s0 (State.faillit s m v) := by
  unfold State.faillit
  repeat' first
    | with_reducible assumption
    | lift_lets
    | (with_reducible refine goes_wr _ _ _ ?_ ?_; exact subT rfl hW)
    | (with_reducible refine goes_err _ _ _ _ _ ?_ ?_; exact subT rfl hW)
    | (with_reducible refine Goes.ite ?_ ?_)

theorem goes_execFaillitWrite {W : List Part} {s0 : State} (m : Master) (v : Word) (s : State) (hW : subParts [.regs, .out, .resp, .host, .pba] W = true) (hg : Goes W s0 s) : ∀ t0, execFaillitWrite m v s = .next t0 → Goes W s0 t0 := by
  unfold execFaillitWrite
  intro t0 e0
  obtain rfl := Host.Outcome.next.inj e0
  clear e0
  repeat' first
    | with_reducible assumption
    | lift_lets
    | (with_reducible refine goes_answer _ _ ?_ ?_; exact subT rfl hW)
    | (with_reducible refine goes_writeAt _ _ _ _ _ _ ?_ (fun _ _ => ?_) ?_; exact subT rfl hW)
    | (with_reducible refine goes_faillit _ _ _ ?_ ?_; exact subT rfl hW)

theorem goes_execFaillitSet {W : List Part} {s0 : State} (tag : Word) (s : State) (hW : subParts [.regs, .out, .mbx, .ldg, .pba] W = true) (hg : Goes W s0 s) : ∀ t0, execFaillitSet tag s = .next t0 → Goes W s0 t0 := by
  unfold execFaillitSet
  intro t0 e0
  obtain rfl := Host.Outcome.next.inj e0
  clear e0
  repeat' first
    | with_reducible assumption
    | lift_lets
    | (with_reducible refine goes_reply _ _ _ _ _ ?_ ?_; exact subT rfl hW)
    | (with_reducible refine goes_withCmd _ _ _ _ ?_ (fun _ _ _ => ?_) ?_; exact subT rfl hW)
    | (with_reducible refine goes_faillit _ _ _ ?_ ?_; exact subT rfl hW)
    | (with_reducible refine Goes.ite ?_ ?_)

theorem goes_tampCfg {W : List Part} {s0 : State} (s : State) (v : Word) (hW : subParts [.regs, .pwt] W = true) (hg : Goes W s0 s) : Goes W s0 (State.tampCfg s v) := by
  unfold State.tampCfg
  repeat' first
    | with_reducible assumption
    | (intro x; refine Goes.cut (W := W) (s0 := s0) (x := x) ?_ ?_; rotate_left; clear_value x; intro hx; rotate_right)
    | intro x
    | lift_lets
    | (with_reducible refine goes_wr _ _ _ ?_ ?_; exact subT rfl hW)
    | (fail_if_no_progress (with_reducible refine goes_set_pwt _ _ ?_ ?_; exact subT rfl hW))

theorem goes_execTamperCfg {W : List Part} {s0 : State} (tag : Word) (s : State) (hW : subParts [.regs, .out, .mbx, .ldg, .pwt, .pba] W = true) (hg : Goes W s0 s) : ∀ t0, execTamperCfg tag s = .next t0 → Goes W s0 t0 := by
  unfold execTamperCfg
  intro t0 e0
  obtain rfl := Host.Outcome.next.inj e0
  clear e0
  repeat' first
    | with_reducible assumption
    | lift_lets
    | (with_reducible refine goes_reply _ _ _ _ _ ?_ ?_; exact subT rfl hW)
    | (with_reducible refine goes_withCmd _ _ _ _ ?_ (fun _ _ _ => ?_) ?_; exact subT rfl hW)
    | (with_reducible refine goes_tampCfg _ _ ?_ ?_; exact subT rfl hW)
    | (with_reducible refine Goes.ite ?_ ?_)

theorem goes_execVbakLow {W : List Part} {s0 : State} (vbakMv : Nat) (s : State) (hW : subParts [.regs, .out, .mbx, .ldg, .pwt, .pba] W = true) (hg : Goes W s0 s) : ∀ t0, execVbakLow vbakMv s = .next t0 → Goes W s0 t0 := by
  unfold execVbakLow
  intro t0 e0
  obtain rfl := Host.Outcome.next.inj e0
  clear e0
  repeat' first
    | with_reducible assumption
    | (with_reducible refine goes_setVbak _ _ ?_ ?_; exact subT rfl hW)

theorem goes_execVbakRestored {W : List Part} {s0 : State} (vbakMv : Nat) (s : State) (hW : subParts [.regs, .out, .mbx, .ldg, .pwt, .pba] W = true) (hg : Goes W s0 s) : ∀ t0, execVbakRestored vbakMv s = .next t0 → Goes W s0 t0 := by
  unfold execVbakRestored
  intro t0 e0
  obtain rfl := Host.Outcome.next.inj e0
  clear e0
  repeat' first
    | with_reducible assumption
    | (with_reducible refine goes_setVbak _ _ ?_ ?_; exact subT rfl hW)

theorem goes_execSealTrip {W : List Part} {s0 : State} (nodeMv : Nat) (s : State) (hW : subParts [.free, .pwt] W = true) (hg : Goes W s0 s) : ∀ t0, execSealTrip nodeMv s = .next t0 → Goes W s0 t0 := by
  unfold execSealTrip
  intro t0 e0
  obtain rfl := Host.Outcome.next.inj e0
  clear e0
  repeat' first
    | with_reducible assumption
    | (intro x; refine Goes.cut (W := W) (s0 := s0) (x := x) ?_ ?_; rotate_left; clear_value x; intro hx; rotate_right)
    | intro x
    | lift_lets
    | (with_reducible refine goes_draw _ _ ?_ ?_; exact subT rfl hW)
    | (with_reducible refine Goes.ite ?_ ?_)
    | (fail_if_no_progress (with_reducible refine goes_set_pwt _ _ ?_ ?_; exact subT rfl hW))

theorem goes_execOscFail {W : List Part} {s0 : State} (s : State) (hW : subParts [.regs, .out, .pwt, .pba] W = true) (hg : Goes W s0 s) : ∀ t0, execOscFail s = .next t0 → Goes W s0 t0 := by
  unfold execOscFail
  intro t0 e0
  obtain rfl := Host.Outcome.next.inj e0
  clear e0
  repeat' first
    | with_reducible assumption
    | intro x
    | lift_lets
    | (with_reducible refine goes_pwtIrq _ _ ?_ ?_; exact subT rfl hW)
    | (with_reducible refine goes_pwtFlag _ _ ?_ ?_; exact subT rfl hW)
    | (fail_if_no_progress (with_reducible refine goes_set_pwt _ _ ?_ ?_; exact subT rfl hW))

theorem goes_execOscRestart {W : List Part} {s0 : State} (s : State) (hW : subParts [.pwt] W = true) (hg : Goes W s0 s) : ∀ t0, execOscRestart s = .next t0 → Goes W s0 t0 := by
  unfold execOscRestart
  intro t0 e0
  obtain rfl := Host.Outcome.next.inj e0
  clear e0
  repeat' first
    | with_reducible assumption
    | intro x
    | lift_lets
    | (fail_if_no_progress (with_reducible refine goes_set_pwt _ _ ?_ ?_; exact subT rfl hW))

theorem goes_setRs {W : List Part} {s0 : State} (s : State) (rs : Bytes) (hW : subParts [.pwt] W = true) (hg : Goes W s0 s) : Goes W s0 (State.setRs s rs) := by
  unfold State.setRs
  repeat' first
    | with_reducible assumption
    | intro x
    | lift_lets
    | (fail_if_no_progress (with_reducible refine goes_set_pwt _ _ ?_ ?_; exact subT rfl hW))

theorem goes_pewterLose {W : List Part} {s0 : State} (s : State) (lit : Bool) (hW : subParts [.regs, .out, .pwt, .vlt] W = true) (hg : Goes W s0 s) : Goes W s0 (State.pewterLose s lit) := by
  unfold State.pewterLose
  repeat' first
    | with_reducible assumption
    | (intro x; refine Goes.cut (W := W) (s0 := s0) (x := x) ?_ ?_; rotate_left; clear_value x; intro hx; rotate_right)
    | intro x
    | lift_lets
    | (with_reducible refine goes_wr _ _ _ ?_ ?_; exact subT rfl hW)
    | (with_reducible refine goes_setPwron _ _ _ ?_ ?_; exact subT rfl hW)
    | (with_reducible refine goes_setRs _ _ ?_ ?_; exact subT rfl hW)
    | (refine Goes.foldl (fun _ _ _ => ?_) ?_)
    | (fail_if_no_progress (apply Goes.upd [.pwt, .vlt]; dsimp only; exact subT rfl hW; (intro p hp; cases p <;> first | rfl | simp at hp); exact fun c => c))
    | (dsimp +zetaDelta only)

theorem goes_pwtWrite {W : List Part} {s0 : State} (s : State) (m : Master) (off : Nat) (v : Word) (hW : subParts [.regs, .out, .pwt, .pba] W = true) (hg : Goes W s0 s) : GoesO W s0 (State.pwtWrite s m off v) := by
  unfold State.pwtWrite
  repeat' first
    | with_reducible assumption
    | (intro x; refine Goes.cut (W := W) (s0 := s0) (x := x) ?_ ?_; rotate_left; clear_value x; intro hx; rotate_right)
    | intro x
    | lift_lets
    | (with_reducible refine goes_wr _ _ _ ?_ ?_; exact subT rfl hW)
    | (with_reducible refine goes_err _ _ _ _ _ ?_ ?_; exact subT rfl hW)
    | (with_reducible refine goes_rtcCtrl _ _ _ ?_ ?_; exact subT rfl hW)
    | (with_reducible refine goes_pwronAssert _ _ ?_ ?_; exact subT rfl hW)
    | (with_reducible refine goes_pwronRelease _ ?_ ?_; exact subT rfl hW)
    | (with_reducible refine goes_faillit _ _ _ ?_ ?_; exact subT rfl hW)
    | (with_reducible refine goes_tampCfg _ _ ?_ ?_; exact subT rfl hW)
    | (refine GoesO.some ?_)
    | exact GoesO.none
    | (with_reducible refine Goes.ite ?_ ?_)
    | (with_reducible refine GoesO.ite ?_ ?_)

end Sys2Proof.Machine
end

