-- ==== Sys2Proof/Laws/GoesVault.lean ====
section
/-! SUPPORT. What the operations of Machine/Vault.lean can change: one lemma each. -/

set_option linter.unreachableTactic false
set_option linter.unusedTactic false

namespace Sys2Proof.Machine

open Sys2Proof

theorem goes_cryFail {W : List Part} {s0 : State} (s : State) (t : Nat) (kind : Nat) (hW : subParts [.regs, .out, .mbx, .ldg, .pba] W = true) (hg : Goes W s0 s) : Goes W s0 (State.cryFail s t kind) := by
  unfold State.cryFail
  repeat' first
    | with_reducible assumption
    | (intro x; refine Goes.cut (W := W) (s0 := s0) (x := x) ?_ ?_; rotate_left; clear_value x; intro hx; rotate_right)
    | lift_lets
    | (with_reducible refine goes_wf _ _ _ _ _ ?_ ?_; exact subT rfl hW)
    | (with_reducible refine goes_wb _ _ _ _ ?_ ?_; exact subT rfl hW)
    | (with_reducible refine goes_irq _ _ _ ?_ ?_; exact subT rfl hW)
    | (with_reducible refine goes_event _ _ _ _ ?_ ?_; exact subT rfl hW)

theorem goes_setSlot {W : List Part} {s0 : State} (s : State) (i : Nat) (x : Option Slot) (hW : subParts [.vlt] W = true) (hg : Goes W s0 s) : Goes W s0 (State.setSlot s i x) := by
  unfold State.setSlot
  repeat' first
    | with_reducible assumption
    | intro x
    | lift_lets
    | (fail_if_no_progress (with_reducible refine goes_set_vlt _ _ ?_ ?_; exact subT rfl hW))

theorem goes_createSlot {W : List Part} {s0 : State} (s : State) (i : Nat) (v : Word) (uses : Nat) (key : Bytes) (origin : Nat) (bind : Nat) (cls : Nat) (hW : subParts [.vlt] W = true) (hg : Goes W s0 s) : Goes W s0 (State.createSlot s i v uses key origin bind cls).1 := by
  unfold State.createSlot
  repeat' first
    | with_reducible assumption
    | intro x
    | lift_lets
    | (with_reducible refine goes_setSlot _ _ _ ?_ ?_; exact subT rfl hW)
    | (with_reducible refine Goes.iteFst ?_ ?_)

theorem goes_createSlot' {W : List Part} {s0 : State} (s : State) (i : Nat) (v : Word) (uses : Nat) (key : Bytes) (origin : Nat) (bind : Nat) (cls : Nat) {u0 : State} {v0 : Nat} (e : State.createSlot s i v uses key origin bind cls = (u0, v0)) (hW : subParts [.vlt] W = true) (hg : Goes W s0 s) : Goes W s0 u0 := by
  have := goes_createSlot s i v uses key origin bind cls hW hg
  rw [e] at this
  exact this

theorem goes_takeUse {W : List Part} {s0 : State} (s : State) (i : Nat) (hW : subParts [.regs, .out, .vlt, .pba] W = true) (hg : Goes W s0 s) : Goes W s0 (State.takeUse s i) := by
  unfold State.takeUse
  repeat' first
    | with_reducible assumption
    | lift_lets
    | (with_reducible refine goes_irq _ _ _ ?_ ?_; exact subT rfl hW)
    | (with_reducible refine goes_setSlot _ _ _ ?_ ?_; exact subT rfl hW)
    | (with_reducible refine Goes.ite ?_ ?_)
    | split

theorem goes_erase {W : List Part} {s0 : State} (s : State) (f : Nat → Slot → Bool) (hW : subParts [.vlt] W = true) (hg : Goes W s0 s) : Goes W s0 (State.erase s f) := by
  unfold State.erase
  repeat' first
    | with_reducible assumption
    | intro x
    | lift_lets
    | (fail_if_no_progress (with_reducible refine goes_set_vlt _ _ ?_ ?_; exact subT rfl hW))

theorem goes_drbgReseed {W : List Part} {s0 : State} (s : State) (hW : subParts [.free, .vlt] W = true) (hg : Goes W s0 s) : Goes W s0 (State.drbgReseed s) := by
  unfold State.drbgReseed
  repeat' first
    | with_reducible assumption
    | intro x
    | lift_lets
    | (fail_if_no_progress (apply Goes.upd [.free, .vlt]; dsimp only; exact subT rfl hW; (intro p hp; cases p <;> first | rfl | simp at hp); exact fun c => c))

theorem goes_drbgDraw {W : List Part} {s0 : State} (s : State) (n : Nat) (hW : subParts [.free, .vlt] W = true) (h : Goes W s0 s) : Goes W s0 (s.drbgDraw n).2 := by
  unfold State.drbgDraw
  extract_lets due t r
  have ht : Goes W s0 t := by
    unfold t
    split
    · exact goes_drbgReseed _ (subT rfl hW) h
    · exact h
  exact Goes.upd (b := t) [.vlt] rfl (subT rfl hW) (by intro p hp; cases p <;> first | rfl | simp at hp) (fun c => c) ht

theorem goes_execDrbgReseed {W : List Part} {s0 : State} (pass : Bool) (s : State) (hW : subParts [.regs, .out, .free, .mbx, .ldg, .vlt, .pba] W = true) (hg : Goes W s0 s) : ∀ t0, execDrbgReseed pass s = .next t0 → Goes W s0 t0 := by
  unfold execDrbgReseed
  intro t0 e0
  obtain rfl := Host.Outcome.next.inj e0
  clear e0
  repeat' first
    | with_reducible assumption
    | lift_lets
    | (with_reducible refine goes_cryFail _ _ _ ?_ ?_; exact subT rfl hW)
    | (with_reducible refine goes_drbgReseed _ ?_ ?_; exact subT rfl hW)
    | (with_reducible refine Goes.ite ?_ ?_)
    | split

theorem goes_vFail {W : List Part} {s0 : State} (s : State) (status : Nat) (hW : subParts [] W = true) (hg : Goes W s0 s) : Goes W s0 (State.vFail s status).st := by
  unfold State.vFail
  repeat' first
    | with_reducible assumption

theorem goes_vopStatus {W : List Part} {s0 : State} (s : State) (hW : subParts [] W = true) (hg : Goes W s0 s) : Goes W s0 (State.vopStatus s).st := by
  unfold State.vopStatus
  repeat' first
    | with_reducible assumption

theorem goes_vopImport {W : List Part} {s0 : State} (s : State) (o : VOp) (inp : Bytes) (hW : subParts [.vlt] W = true) (hg : Goes W s0 s) : Goes W s0 (State.vopImport s o inp).st := by
  unfold State.vopImport
  repeat' first
    | with_reducible assumption
    | intro x
    | lift_lets
    | (with_reducible refine goes_createSlot _ _ _ _ _ _ _ _ ?_ ?_; exact subT rfl hW)
    | (with_reducible refine goes_vFail _ _ ?_ ?_; exact subT rfl hW)
    | split

theorem goes_drawRs {W : List Part} {s0 : State} (n : Nat) (s : State) (hW : subParts [.free, .pwt, .vlt] W = true) (h : Goes W s0 s) : Goes W s0 (drawRs n s) := by
  induction n generalizing s with
  | zero =>
    unfold drawRs
    repeat' first
      | assumption
  | succ n ih =>
    unfold drawRs
    repeat' first
      | (with_reducible refine ih _ ?_)
      | with_reducible assumption
      | intro x
      | lift_lets
      | (with_reducible refine goes_setRs _ _ ?_ ?_; exact subT rfl hW)
      | (with_reducible refine goes_drbgDraw _ _ ?_ ?_; exact subT rfl hW)
      | (with_reducible refine Goes.ite ?_ ?_)

theorem goes_vopInit {W : List Part} {s0 : State} (s : State) (o : VOp) (inp : Bytes) (hW : subParts [.free, .pwt, .vlt] W = true) (hg : Goes W s0 s) : Goes W s0 (State.vopInit s o inp).st := by
  unfold State.vopInit
  repeat' first
    | with_reducible assumption
    | (intro x; refine Goes.cut (W := W) (s0 := s0) (x := x) ?_ ?_; rotate_left; clear_value x; intro hx; rotate_right)
    | intro x
    | lift_lets
    | (with_reducible refine goes_vFail _ _ ?_ ?_; exact subT rfl hW)
    | (with_reducible refine goes_vopImport _ _ _ ?_ ?_; exact subT rfl hW)
    | (with_reducible refine goes_drawRs _ _ ?_ ?_; exact subT rfl hW)
    | (with_reducible refine Goes.iteOut ?_ ?_)

theorem goes_vopGenerate {W : List Part} {s0 : State} (s : State) (o : VOp) (hW : subParts [.free, .vlt] W = true) (hg : Goes W s0 s) : Goes W s0 (State.vopGenerate s o).st := by
  unfold State.vopGenerate
  repeat' first
    | with_reducible assumption
    | intro x
    | lift_lets
    | (with_reducible refine goes_createSlot _ _ _ _ _ _ _ _ ?_ ?_; exact subT rfl hW)
    | (with_reducible refine goes_drbgDraw _ _ ?_ ?_; exact subT rfl hW)

theorem goes_vopDerive {W : List Part} {s0 : State} (s : State) (o : VOp) (hW : subParts [.vlt] W = true) (hg : Goes W s0 s) : Goes W s0 (State.vopDerive s o).st := by
  unfold State.vopDerive
  repeat' first
    | with_reducible assumption
    | intro x
    | lift_lets
    | (with_reducible refine goes_createSlot _ _ _ _ _ _ _ _ ?_ ?_; exact subT rfl hW)
    | (with_reducible refine goes_vFail _ _ ?_ ?_; exact subT rfl hW)
    | (with_reducible refine Goes.iteOut ?_ ?_)

theorem goes_vopExport {W : List Part} {s0 : State} (s : State) (o : VOp) (hW : subParts [] W = true) (hg : Goes W s0 s) : Goes W s0 (State.vopExport s o).st := by
  unfold State.vopExport
  repeat' first
    | with_reducible assumption
    | (with_reducible refine goes_vFail _ _ ?_ ?_; exact subT rfl hW)
    | split

theorem goes_vopRewrap {W : List Part} {s0 : State} (s : State) (o : VOp) (inp : Bytes) (hW : subParts [] W = true) (hg : Goes W s0 s) : Goes W s0 (State.vopRewrap s o inp).st := by
  unfold State.vopRewrap
  repeat' first
    | with_reducible assumption
    | lift_lets
    | (with_reducible refine goes_vFail _ _ ?_ ?_; exact subT rfl hW)
    | (with_reducible refine Goes.iteOut ?_ ?_)
    | split

theorem goes_vopErase {W : List Part} {s0 : State} (s : State) (o : VOp) (hW : subParts [.vlt] W = true) (hg : Goes W s0 s) : Goes W s0 (State.vopErase s o).st := by
  unfold State.vopErase
  repeat' first
    | with_reducible assumption
    | lift_lets
    | (with_reducible refine goes_setSlot _ _ _ ?_ ?_; exact subT rfl hW)
    | (with_reducible refine goes_vFail _ _ ?_ ?_; exact subT rfl hW)
    | (with_reducible refine Goes.iteOut ?_ ?_)

theorem goes_zeroEvent {W : List Part} {s0 : State} (s : State) (cause : Nat) (hW : subParts [.regs, .out, .mbx, .ldg, .pba] W = true) (hg : Goes W s0 s) : Goes W s0 (State.zeroEvent s cause) := by
  unfold State.zeroEvent
  repeat' first
    | with_reducible assumption
    | lift_lets
    | (with_reducible refine goes_irq _ _ _ ?_ ?_; exact subT rfl hW)
    | (with_reducible refine goes_event _ _ _ _ ?_ ?_; exact subT rfl hW)

theorem goes_vopApprove {W : List Part} {s0 : State} (s : State) (hW : subParts [.regs, .out, .mbx, .ldg, .vlt, .pba] W = true) (hg : Goes W s0 s) : Goes W s0 (State.vopApprove s).st := by
  unfold State.vopApprove
  repeat' first
    | with_reducible assumption
    | (intro x; refine Goes.cut (W := W) (s0 := s0) (x := x) ?_ ?_; rotate_left; clear_value x; intro hx; rotate_right)
    | intro x
    | lift_lets
    | (with_reducible refine goes_erase _ _ ?_ ?_; exact subT rfl hW)
    | (with_reducible refine goes_vFail _ _ ?_ ?_; exact subT rfl hW)
    | (with_reducible refine goes_zeroEvent _ _ ?_ ?_; exact subT rfl hW)
    | (with_reducible refine Goes.iteOut ?_ ?_)
    | (fail_if_no_progress (with_reducible refine goes_set_vlt _ _ ?_ ?_; exact subT rfl hW))

theorem goes_vopDebug {W : List Part} {s0 : State} (s : State) (hW : subParts [.regs, .out, .mbx, .ldg, .vlt, .pba] W = true) (hg : Goes W s0 s) : Goes W s0 (State.vopDebug s).st := by
  unfold State.vopDebug
  repeat' first
    | with_reducible assumption
    | (intro x; refine Goes.cut (W := W) (s0 := s0) (x := x) ?_ ?_; rotate_left; clear_value x; intro hx; rotate_right)
    | intro x
    | lift_lets
    | (with_reducible refine goes_erase _ _ ?_ ?_; exact subT rfl hW)
    | (with_reducible refine goes_vFail _ _ ?_ ?_; exact subT rfl hW)
    | (with_reducible refine goes_zeroEvent _ _ ?_ ?_; exact subT rfl hW)
    | (with_reducible refine Goes.iteOut ?_ ?_)
    | (fail_if_no_progress (with_reducible refine goes_set_vlt _ _ ?_ ?_; exact subT rfl hW))

theorem goes_vopCrypt {W : List Part} {s0 : State} (s : State) (enc : Bool) (o : VOp) (inp : Bytes) (hW : subParts [] W = true) (hg : Goes W s0 s) : Goes W s0 (State.vopCrypt s enc o inp).st := by
  unfold State.vopCrypt
  repeat' first
    | with_reducible assumption
    | lift_lets
    | (with_reducible refine goes_vFail _ _ ?_ ?_; exact subT rfl hW)
    | (with_reducible refine Goes.iteOut ?_ ?_)
    | split

theorem goes_vopMac {W : List Part} {s0 : State} (s : State) (o : VOp) (inp : Bytes) (hW : subParts [] W = true) (hg : Goes W s0 s) : Goes W s0 (State.vopMac s o inp).st := by
  unfold State.vopMac
  repeat' first
    | with_reducible assumption
    | (with_reducible refine goes_vFail _ _ ?_ ?_; exact subT rfl hW)
    | split

theorem goes_vopVerify {W : List Part} {s0 : State} (s : State) (inp : Bytes) (hW : subParts [] W = true) (hg : Goes W s0 s) : Goes W s0 (State.vopVerify s inp).st := by
  unfold State.vopVerify
  repeat' first
    | with_reducible assumption
    | lift_lets
    | (with_reducible refine goes_vFail _ _ ?_ ?_; exact subT rfl hW)
    | (with_reducible refine Goes.iteOut ?_ ?_)

theorem goes_vopRandom {W : List Part} {s0 : State} (s : State) (o : VOp) (hW : subParts [.free, .vlt] W = true) (hg : Goes W s0 s) : Goes W s0 (State.vopRandom s o).st := by
  unfold State.vopRandom
  repeat' first
    | with_reducible assumption
    | intro x
    | lift_lets
    | (with_reducible refine goes_drbgDraw _ _ ?_ ?_; exact subT rfl hW)

theorem goes_vopExtend {W : List Part} {s0 : State} (s : State) (inp : Bytes) (hW : subParts [.vlt] W = true) (hg : Goes W s0 s) : Goes W s0 (State.vopExtend s inp).st := by
  unfold State.vopExtend
  repeat' first
    | with_reducible assumption
    | intro x
    | lift_lets
    | (fail_if_no_progress (with_reducible refine goes_set_vlt _ _ ?_ ?_; exact subT rfl hW))

theorem goes_vopRun {W : List Part} {s0 : State} (s : State) (o : VOp) (inp : Bytes) (hW : subParts [.regs, .out, .free, .mbx, .ldg, .pwt, .vlt, .pba] W = true) (hg : Goes W s0 s) : Goes W s0 (State.vopRun s o inp).st := by
  unfold State.vopRun
  repeat' first
    | with_reducible assumption
    | lift_lets
    | (with_reducible refine goes_vFail _ _ ?_ ?_; exact subT rfl hW)
    | (with_reducible refine goes_vopStatus _ ?_ ?_; exact subT rfl hW)
    | (with_reducible refine goes_vopImport _ _ _ ?_ ?_; exact subT rfl hW)
    | (with_reducible refine goes_vopInit _ _ _ ?_ ?_; exact subT rfl hW)
    | (with_reducible refine goes_vopGenerate _ _ ?_ ?_; exact subT rfl hW)
    | (with_reducible refine goes_vopDerive _ _ ?_ ?_; exact subT rfl hW)
    | (with_reducible refine goes_vopExport _ _ ?_ ?_; exact subT rfl hW)
    | (with_reducible refine goes_vopRewrap _ _ _ ?_ ?_; exact subT rfl hW)
    | (with_reducible refine goes_vopErase _ _ ?_ ?_; exact subT rfl hW)
    | (with_reducible refine goes_vopApprove _ ?_ ?_; exact subT rfl hW)
    | (with_reducible refine goes_vopDebug _ ?_ ?_; exact subT rfl hW)
    | (with_reducible refine goes_vopCrypt _ _ _ _ ?_ ?_; exact subT rfl hW)
    | (with_reducible refine goes_vopMac _ _ _ ?_ ?_; exact subT rfl hW)
    | (with_reducible refine goes_vopVerify _ _ ?_ ?_; exact subT rfl hW)
    | (with_reducible refine goes_vopRandom _ _ ?_ ?_; exact subT rfl hW)
    | (with_reducible refine goes_vopExtend _ _ ?_ ?_; exact subT rfl hW)
    | (with_reducible refine Goes.iteOut ?_ ?_)

theorem goes_opStat {W : List Part} {s0 : State} (s : State) (status : Nat) (len : Nat) (hW : subParts [.regs] W = true) (hg : Goes W s0 s) : Goes W s0 (State.opStat s status len) := by
  unfold State.opStat
  repeat' first
    | with_reducible assumption
    | (with_reducible refine goes_wr _ _ _ ?_ ?_; exact subT rfl hW)

theorem goes_vltReply {W : List Part} {s0 : State} (s : State) (c : Cmd) (status : Nat) (small : Bytes) (data : Bytes) (hW : subParts [.regs, .out, .mbx, .pba] W = true) (hg : Goes W s0 s) : Goes W s0 (State.vltReply s c status small data) := by
  unfold State.vltReply
  repeat' first
    | with_reducible assumption
    | (with_reducible refine goes_reply _ _ _ _ _ ?_ ?_; exact subT rfl hW)

theorem goes_opAnswer {W : List Part} {s0 : State} (s : State) (o : VOp) (status : Nat) (out : Bytes) (hW : subParts [.regs, .out, .mbx, .mem, .pba] W = true) (hg : Goes W s0 s) : Goes W s0 (State.opAnswer s o status out) := by
  unfold State.opAnswer
  repeat' first
    | with_reducible assumption
    | (intro x; refine Goes.cut (W := W) (s0 := s0) (x := x) ?_ ?_; rotate_left; clear_value x; intro hx; rotate_right)
    | intro x
    | lift_lets
    | (with_reducible refine goes_irq _ _ _ ?_ ?_; exact subT rfl hW)
    | (with_reducible refine goes_opStat _ _ _ ?_ ?_; exact subT rfl hW)
    | (with_reducible refine goes_vltReply _ _ _ _ _ ?_ ?_; exact subT rfl hW)
    | (with_reducible refine goes_sramWrite _ _ _ ?_ ?_; exact subT rfl hW)
    | (with_reducible refine Goes.ite ?_ ?_)
    | split

theorem goes_vltDrainCheck {W : List Part} {s0 : State} (s : State) (hW : subParts [.regs, .out, .pba] W = true) (hg : Goes W s0 s) : Goes W s0 (State.vltDrainCheck s) := by
  unfold State.vltDrainCheck
  repeat' first
    | with_reducible assumption
    | lift_lets
    | (with_reducible refine goes_setDrained _ _ ?_ ?_; exact subT rfl hW)
    | (with_reducible refine Goes.ite ?_ ?_)

theorem goes_opComplete {W : List Part} {s0 : State} (s : State) (hW : subParts [.regs, .out, .free, .mbx, .ldg, .mem, .pwt, .vlt, .pba] W = true) (hg : Goes W s0 s) : Goes W s0 (State.opComplete s) := by
  unfold State.opComplete
  repeat' first
    | with_reducible assumption
    | (intro x; refine Goes.cut (W := W) (s0 := s0) (x := x) ?_ ?_; rotate_left; clear_value x; intro hx; rotate_right)
    | intro x
    | lift_lets
    | (with_reducible refine goes_takeUse _ _ ?_ ?_; exact subT rfl hW)
    | (with_reducible refine goes_vopRun _ _ _ ?_ ?_; exact subT rfl hW)
    | (with_reducible refine goes_opAnswer _ _ _ _ ?_ ?_; exact subT rfl hW)
    | (with_reducible refine goes_vltDrainCheck _ ?_ ?_; exact subT rfl hW)
    | (with_reducible refine Goes.ite ?_ ?_)
    | split
    | (refine Goes.foldl (fun _ _ _ => ?_) ?_)
    | (fail_if_no_progress (with_reducible refine goes_set_vlt _ _ ?_ ?_; exact subT rfl hW))
    | (dsimp +zetaDelta only)

theorem goes_execVaultOpComplete {W : List Part} {s0 : State} (condFail : Option (Fin 14)) (s : State) (hW : subParts [.regs, .out, .free, .mbx, .ldg, .mem, .pwt, .vlt, .pba] W = true) (hg : Goes W s0 s) : ∀ t0, execVaultOpComplete condFail s = .next t0 → Goes W s0 t0 := by
  unfold execVaultOpComplete
  intro t0 e0
  obtain rfl := Host.Outcome.next.inj e0
  clear e0
  repeat' first
    | with_reducible assumption
    | lift_lets
    | (with_reducible refine goes_cryFail _ _ _ ?_ ?_; exact subT rfl hW)
    | (with_reducible refine goes_opComplete _ ?_ ?_; exact subT rfl hW)
    | (with_reducible refine Goes.ite ?_ ?_)
    | split

theorem goes_opQueue {W : List Part} {s0 : State} (s : State) (o : VOp) (hW : subParts [.regs, .out, .mbx, .mem, .vlt, .pba] W = true) (hg : Goes W s0 s) : Goes W s0 (State.opQueue s o) := by
  unfold State.opQueue
  repeat' first
    | with_reducible assumption
    | (intro x; refine Goes.cut (W := W) (s0 := s0) (x := x) ?_ ?_; rotate_left; clear_value x; intro hx; rotate_right)
    | intro x
    | lift_lets
    | (with_reducible refine goes_wr _ _ _ ?_ ?_; exact subT rfl hW)
    | (with_reducible refine goes_opAnswer _ _ _ _ ?_ ?_; exact subT rfl hW)
    | (with_reducible refine Goes.ite ?_ ?_)
    | split
    | (fail_if_no_progress (with_reducible refine goes_set_vlt _ _ ?_ ?_; exact subT rfl hW))

theorem goes_opDenied {W : List Part} {s0 : State} (s : State) (m : Master) (off : Nat) (hW : subParts [.regs, .out, .pba] W = true) (hg : Goes W s0 s) : Goes W s0 (State.opDenied s m off) := by
  unfold State.opDenied
  repeat' first
    | with_reducible assumption
    | (with_reducible refine goes_err _ _ _ _ _ ?_ ?_; exact subT rfl hW)

theorem goes_testRequest {W : List Part} {s0 : State} (s : State) (hW : subParts [.regs, .out, .cry, .pba] W = true) (hg : Goes W s0 s) : Goes W s0 (State.testRequest s).1 := by
  unfold State.testRequest
  repeat' first
    | with_reducible assumption
    | intro x
    | lift_lets
    | (with_reducible refine goes_err _ _ _ _ _ ?_ ?_; exact subT rfl hW)
    | (with_reducible refine Goes.iteFst ?_ ?_)
    | (fail_if_no_progress (with_reducible refine goes_set_cry _ _ ?_ ?_; exact subT rfl hW))

theorem goes_testRequest' {W : List Part} {s0 : State} (s : State) {u0 : State} {v0 : Bool} (e : State.testRequest s = (u0, v0)) (hW : subParts [.regs, .out, .cry, .pba] W = true) (hg : Goes W s0 s) : Goes W s0 u0 := by
  have := goes_testRequest s hW hg
  rw [e] at this
  exact this

theorem goes_testEnd {W : List Part} {s0 : State} (s : State) (r : TestRun) (delay : Nat) (hW : subParts [.regs, .out, .mbx, .ldg, .cry, .pba] W = true) (hg : Goes W s0 s) : Goes W s0 (State.testEnd s r delay) := by
  unfold State.testEnd
  repeat' first
    | with_reducible assumption
    | (intro x; refine Goes.cut (W := W) (s0 := s0) (x := x) ?_ ?_; rotate_left; clear_value x; intro hx; rotate_right)
    | intro x
    | lift_lets
    | (with_reducible refine goes_wr _ _ _ ?_ ?_; exact subT rfl hW)
    | (with_reducible refine goes_bump _ _ _ ?_ ?_; exact subT rfl hW)
    | (with_reducible refine goes_irq _ _ _ ?_ ?_; exact subT rfl hW)
    | (with_reducible refine goes_setDrained _ _ ?_ ?_; exact subT rfl hW)
    | (with_reducible refine goes_event _ _ _ _ ?_ ?_; exact subT rfl hW)
    | (with_reducible refine Goes.ite ?_ ?_)
    | (fail_if_no_progress (with_reducible refine goes_set_cry _ _ ?_ ?_; exact subT rfl hW))

theorem goes_testGo {W : List Part} {s0 : State} (s : State) (r : TestRun) (hW : subParts [.regs, .out, .mbx, .ldg, .cry, .pba] W = true) (hg : Goes W s0 s) : Goes W s0 (State.testGo s r) := by
  unfold State.testGo
  repeat' first
    | with_reducible assumption
    | intro x
    | lift_lets
    | (with_reducible refine goes_wr _ _ _ ?_ ?_; exact subT rfl hW)
    | (with_reducible refine goes_testEnd _ _ _ ?_ ?_; exact subT rfl hW)
    | (with_reducible refine Goes.ite ?_ ?_)
    | (fail_if_no_progress (with_reducible refine goes_set_cry _ _ ?_ ?_; exact subT rfl hW))

theorem goes_execSelftestRun {W : List Part} {s0 : State} (fails : List Nat) (s : State) (hW : subParts [.regs, .out, .mbx, .ldg, .cry, .pba] W = true) (hg : Goes W s0 s) : ∀ t0, execSelftestRun fails s = .next t0 → Goes W s0 t0 := by
  unfold execSelftestRun
  intro t0 e0
  obtain rfl := Host.Outcome.next.inj e0
  clear e0
  repeat' first
    | with_reducible assumption
    | intro x
    | lift_lets
    | (with_reducible refine goes_cryFail _ _ _ ?_ ?_; exact subT rfl hW)
    | (with_reducible refine goes_testGo _ _ ?_ ?_; exact subT rfl hW)
    | (with_reducible refine Goes.ite ?_ ?_)
    | split
    | (fail_if_no_progress (with_reducible refine goes_set_cry _ _ ?_ ?_; exact subT rfl hW))
    | (dsimp +zetaDelta only)

theorem goes_execRadioPathTest {W : List Part} {s0 : State} (radio : Fin 4) (pass : Bool) (s : State) (hW : subParts [.regs, .out, .mbx, .ldg, .cry, .pba] W = true) (hg : Goes W s0 s) : ∀ t0, execRadioPathTest radio pass s = .next t0 → Goes W s0 t0 := by
  unfold execRadioPathTest
  intro t0 e0
  obtain rfl := Host.Outcome.next.inj e0
  clear e0
  repeat' first
    | with_reducible assumption
    | intro x
    | lift_lets
    | (with_reducible refine goes_cryFail _ _ _ ?_ ?_; exact subT rfl hW)
    | (with_reducible refine goes_testGo _ _ ?_ ?_; exact subT rfl hW)
    | (with_reducible refine Goes.ite ?_ ?_)
    | split

theorem goes_powerUpTests {W : List Part} {s0 : State} (s : State) (fails : List Nat) (hW : subParts [.regs, .out, .mbx, .ldg, .pba] W = true) (hg : Goes W s0 s) : Goes W s0 (State.powerUpTests s fails) := by
  unfold State.powerUpTests
  repeat' first
    | with_reducible assumption
    | lift_lets
    | (with_reducible refine goes_wb _ _ _ _ ?_ ?_; exact subT rfl hW)
    | (with_reducible refine goes_cryFail _ _ _ ?_ ?_; exact subT rfl hW)
    | split

theorem goes_coAuth {W : List Part} {s0 : State} (s : State) (c : Cmd) (hW : subParts [.regs, .out, .vlt, .pba] W = true) (hg : Goes W s0 s) : GoesO W s0 (State.coAuth s c) := by
  unfold State.coAuth
  repeat' first
    | with_reducible assumption
    | intro x
    | lift_lets
    | (with_reducible refine goes_takeUse _ _ ?_ ?_; exact subT rfl hW)
    | (refine GoesO.some ?_)
    | exact GoesO.none
    | (with_reducible refine GoesO.ite ?_ ?_)
    | split
    | (fail_if_no_progress (with_reducible refine goes_set_vlt _ _ ?_ ?_; exact subT rfl hW))

theorem goes_withCo {W : List Part} {s0 : State} (s : State) (c : Cmd) (f : State → State)
    (hW : subParts [.regs, .out, .mbx, .ldg, .vlt, .pba] W = true) (hf : ∀ t, Goes W s0 t → Goes W s0 (f t)) (h : Goes W s0 s) : Goes W s0 (s.withCo c f) := by
  unfold State.withCo
  split
  · exact hf _ (GoesO.elim (goes_coAuth _ _ (subT rfl hW) h) (by assumption))
  · exact goes_reply _ _ _ _ _ (subT rfl hW) (goes_ledger _ _ _ _ _ _ _ (subT rfl hW) h)

theorem goes_mbxService {W : List Part} {s0 : State} (s : State) (op : Nat) (co : Bool) (tag : Word) (hW : subParts [.regs, .out, .mbx, .ldg, .mem, .vlt, .pba] W = true) (hg : Goes W s0 s) : Goes W s0 (State.mbxService s op co tag) := by
  unfold State.mbxService
  repeat' first
    | with_reducible assumption
    | lift_lets
    | (with_reducible refine goes_defer _ _ ?_ ?_; exact subT rfl hW)
    | (with_reducible refine goes_withCmd _ _ _ _ ?_ (fun _ _ _ => ?_) ?_; exact subT rfl hW)
    | (with_reducible refine goes_opQueue _ _ ?_ ?_; exact subT rfl hW)
    | (with_reducible refine goes_withCo _ _ _ ?_ (fun _ _ => ?_) ?_; exact subT rfl hW)
    | (with_reducible refine Goes.ite ?_ ?_)

theorem goes_opCmd {W : List Part} {s0 : State} (s : State) (m : Master) (v : Word) (mode : AesMode) (iv : Bytes) (hW : subParts [.regs, .out, .mbx, .mem, .vlt, .cry, .pba] W = true) (hg : Goes W s0 s) : Goes W s0 (State.opCmd s m v mode iv) := by
  unfold State.opCmd
  repeat' first
    | with_reducible assumption
    | intro x
    | lift_lets
    | (with_reducible refine goes_irq _ _ _ ?_ ?_; exact subT rfl hW)
    | (with_reducible refine goes_opStat _ _ _ ?_ ?_; exact subT rfl hW)
    | (with_reducible refine goes_opQueue _ _ ?_ ?_; exact subT rfl hW)
    | (with_reducible refine goes_opDenied _ _ _ ?_ ?_; exact subT rfl hW)
    | (with_reducible refine goes_testRequest _ ?_ ?_; exact subT rfl hW)
    | (with_reducible refine Goes.ite ?_ ?_)

theorem goes_windowService {W : List Part} {s0 : State} (s : State) (op : Nat) (m : Master) (v : Word) (mode : AesMode) (iv : Bytes) (hW : subParts [.regs, .out, .resp, .mbx, .mem, .vlt, .cry, .host, .pba] W = true) (hg : Goes W s0 s) : Goes W s0 (State.windowService s op m v mode iv) := by
  unfold State.windowService
  repeat' first
    | with_reducible assumption
    | lift_lets
    | (with_reducible refine goes_answer _ _ ?_ ?_; exact subT rfl hW)
    | (with_reducible refine goes_writeAt _ _ _ _ _ _ ?_ (fun _ _ => ?_) ?_; exact subT rfl hW)
    | (with_reducible refine goes_opCmd _ _ _ _ _ ?_ ?_; exact subT rfl hW)
    | (with_reducible refine Goes.ite ?_ ?_)

theorem goes_service {W : List Part} {s0 : State} (s : State) (op : Nat) (co : Bool) (req : VltReq) (hW : subParts [.regs, .out, .resp, .mbx, .ldg, .mem, .vlt, .cry, .host, .pba] W = true) (hg : Goes W s0 s) : Goes W s0 (State.service s op co req) := by
  unfold State.service
  repeat' first
    | with_reducible assumption
    | (with_reducible refine goes_mbxService _ _ _ _ ?_ ?_; exact subT rfl hW)
    | (with_reducible refine goes_windowService _ _ _ _ _ _ ?_ ?_; exact subT rfl hW)
    | split

theorem goes_execStatus {W : List Part} {s0 : State} (req : VltReq) (s : State) (hW : subParts [.regs, .out, .resp, .mbx, .ldg, .mem, .vlt, .cry, .host, .pba] W = true) (hg : Goes W s0 s) : ∀ t0, execStatus req s = .next t0 → Goes W s0 t0 := by
  unfold execStatus
  intro t0 e0
  obtain rfl := Host.Outcome.next.inj e0
  clear e0
  repeat' first
    | with_reducible assumption
    | (with_reducible refine goes_service _ _ _ _ ?_ ?_; exact subT rfl hW)

theorem goes_execSelftest {W : List Part} {s0 : State} (req : VltReq) (s : State) (hW : subParts [.regs, .out, .resp, .mbx, .ldg, .mem, .vlt, .cry, .host, .pba] W = true) (hg : Goes W s0 s) : ∀ t0, execSelftest req s = .next t0 → Goes W s0 t0 := by
  unfold execSelftest
  intro t0 e0
  obtain rfl := Host.Outcome.next.inj e0
  clear e0
  repeat' first
    | with_reducible assumption
    | intro x
    | lift_lets
    | (with_reducible refine goes_reply _ _ _ _ _ ?_ ?_; exact subT rfl hW)
    | (with_reducible refine goes_withCmd _ _ _ _ ?_ (fun _ _ _ => ?_) ?_; exact subT rfl hW)
    | (with_reducible refine goes_vltReply _ _ _ _ _ ?_ ?_; exact subT rfl hW)
    | (with_reducible refine goes_testRequest _ ?_ ?_; exact subT rfl hW)
    | (with_reducible refine goes_windowService _ _ _ _ _ _ ?_ ?_; exact subT rfl hW)
    | (with_reducible refine Goes.ite ?_ ?_)
    | split

theorem goes_execVaultInit {W : List Part} {s0 : State} (req : VltReq) (s : State) (hW : subParts [.regs, .out, .resp, .mbx, .ldg, .mem, .vlt, .cry, .host, .pba] W = true) (hg : Goes W s0 s) : ∀ t0, execVaultInit req s = .next t0 → Goes W s0 t0 := by
  unfold execVaultInit
  intro t0 e0
  obtain rfl := Host.Outcome.next.inj e0
  clear e0
  repeat' first
    | with_reducible assumption
    | (with_reducible refine goes_service _ _ _ _ ?_ ?_; exact subT rfl hW)

theorem goes_execEnrolPub {W : List Part} {s0 : State} (req : VltReq) (s : State) (hW : subParts [.regs, .out, .resp, .mbx, .ldg, .mem, .vlt, .cry, .host, .pba] W = true) (hg : Goes W s0 s) : ∀ t0, execEnrolPub req s = .next t0 → Goes W s0 t0 := by
  unfold execEnrolPub
  intro t0 e0
  obtain rfl := Host.Outcome.next.inj e0
  clear e0
  repeat' first
    | with_reducible assumption
    | (with_reducible refine goes_service _ _ _ _ ?_ ?_; exact subT rfl hW)

theorem goes_execKeyImport {W : List Part} {s0 : State} (req : VltReq) (s : State) (hW : subParts [.regs, .out, .resp, .mbx, .ldg, .mem, .vlt, .cry, .host, .pba] W = true) (hg : Goes W s0 s) : ∀ t0, execKeyImport req s = .next t0 → Goes W s0 t0 := by
  unfold execKeyImport
  intro t0 e0
  obtain rfl := Host.Outcome.next.inj e0
  clear e0
  repeat' first
    | with_reducible assumption
    | (with_reducible refine goes_service _ _ _ _ ?_ ?_; exact subT rfl hW)

theorem goes_execKeyGenerate {W : List Part} {s0 : State} (req : VltReq) (s : State) (hW : subParts [.regs, .out, .resp, .mbx, .ldg, .mem, .vlt, .cry, .host, .pba] W = true) (hg : Goes W s0 s) : ∀ t0, execKeyGenerate req s = .next t0 → Goes W s0 t0 := by
  unfold execKeyGenerate
  intro t0 e0
  obtain rfl := Host.Outcome.next.inj e0
  clear e0
  repeat' first
    | with_reducible assumption
    | (with_reducible refine goes_service _ _ _ _ ?_ ?_; exact subT rfl hW)

theorem goes_execKeyDerive {W : List Part} {s0 : State} (m : Master) (v : Word) (s : State) (hW : subParts [.regs, .out, .resp, .mbx, .mem, .vlt, .cry, .host, .pba] W = true) (hg : Goes W s0 s) : ∀ t0, execKeyDerive m v s = .next t0 → Goes W s0 t0 := by
  unfold execKeyDerive
  intro t0 e0
  obtain rfl := Host.Outcome.next.inj e0
  clear e0
  repeat' first
    | with_reducible assumption
    | (with_reducible refine goes_windowService _ _ _ _ _ _ ?_ ?_; exact subT rfl hW)

theorem goes_execKeyExport {W : List Part} {s0 : State} (req : VltReq) (s : State) (hW : subParts [.regs, .out, .resp, .mbx, .ldg, .mem, .vlt, .cry, .host, .pba] W = true) (hg : Goes W s0 s) : ∀ t0, execKeyExport req s = .next t0 → Goes W s0 t0 := by
  unfold execKeyExport
  intro t0 e0
  obtain rfl := Host.Outcome.next.inj e0
  clear e0
  repeat' first
    | with_reducible assumption
    | (with_reducible refine goes_service _ _ _ _ ?_ ?_; exact subT rfl hW)

theorem goes_execRewrap {W : List Part} {s0 : State} (m : Master) (v : Word) (s : State) (hW : subParts [.regs, .out, .resp, .mbx, .mem, .vlt, .cry, .host, .pba] W = true) (hg : Goes W s0 s) : ∀ t0, execRewrap m v s = .next t0 → Goes W s0 t0 := by
  unfold execRewrap
  intro t0 e0
  obtain rfl := Host.Outcome.next.inj e0
  clear e0
  repeat' first
    | with_reducible assumption
    | (with_reducible refine goes_windowService _ _ _ _ _ _ ?_ ?_; exact subT rfl hW)

theorem goes_execKeyErase {W : List Part} {s0 : State} (req : VltReq) (s : State) (hW : subParts [.regs, .out, .resp, .mbx, .ldg, .mem, .vlt, .cry, .host, .pba] W = true) (hg : Goes W s0 s) : ∀ t0, execKeyErase req s = .next t0 → Goes W s0 t0 := by
  unfold execKeyErase
  intro t0 e0
  obtain rfl := Host.Outcome.next.inj e0
  clear e0
  repeat' first
    | with_reducible assumption
    | (with_reducible refine goes_service _ _ _ _ ?_ ?_; exact subT rfl hW)

theorem goes_execApprove {W : List Part} {s0 : State} (req : VltReq) (s : State) (hW : subParts [.regs, .out, .resp, .mbx, .ldg, .mem, .vlt, .cry, .host, .pba] W = true) (hg : Goes W s0 s) : ∀ t0, execApprove req s = .next t0 → Goes W s0 t0 := by
  unfold execApprove
  intro t0 e0
  obtain rfl := Host.Outcome.next.inj e0
  clear e0
  repeat' first
    | with_reducible assumption
    | (with_reducible refine goes_service _ _ _ _ ?_ ?_; exact subT rfl hW)

theorem goes_execDebugOpen {W : List Part} {s0 : State} (req : VltReq) (s : State) (hW : subParts [.regs, .out, .resp, .mbx, .ldg, .mem, .vlt, .cry, .host, .pba] W = true) (hg : Goes W s0 s) : ∀ t0, execDebugOpen req s = .next t0 → Goes W s0 t0 := by
  unfold execDebugOpen
  intro t0 e0
  obtain rfl := Host.Outcome.next.inj e0
  clear e0
  repeat' first
    | with_reducible assumption
    | (with_reducible refine goes_service _ _ _ _ ?_ ?_; exact subT rfl hW)

theorem goes_execEncrypt {W : List Part} {s0 : State} (m : Master) (v : Word) (mode : AesMode) (iv : Bytes) (s : State) (hW : subParts [.regs, .out, .resp, .mbx, .mem, .vlt, .cry, .host, .pba] W = true) (hg : Goes W s0 s) : ∀ t0, execEncrypt m v mode iv s = .next t0 → Goes W s0 t0 := by
  unfold execEncrypt
  intro t0 e0
  obtain rfl := Host.Outcome.next.inj e0
  clear e0
  repeat' first
    | with_reducible assumption
    | (with_reducible refine goes_windowService _ _ _ _ _ _ ?_ ?_; exact subT rfl hW)

theorem goes_execDecrypt {W : List Part} {s0 : State} (m : Master) (v : Word) (mode : AesMode) (iv : Bytes) (s : State) (hW : subParts [.regs, .out, .resp, .mbx, .mem, .vlt, .cry, .host, .pba] W = true) (hg : Goes W s0 s) : ∀ t0, execDecrypt m v mode iv s = .next t0 → Goes W s0 t0 := by
  unfold execDecrypt
  intro t0 e0
  obtain rfl := Host.Outcome.next.inj e0
  clear e0
  repeat' first
    | with_reducible assumption
    | (with_reducible refine goes_windowService _ _ _ _ _ _ ?_ ?_; exact subT rfl hW)

theorem goes_execMac {W : List Part} {s0 : State} (m : Master) (v : Word) (s : State) (hW : subParts [.regs, .out, .resp, .mbx, .mem, .vlt, .cry, .host, .pba] W = true) (hg : Goes W s0 s) : ∀ t0, execMac m v s = .next t0 → Goes W s0 t0 := by
  unfold execMac
  intro t0 e0
  obtain rfl := Host.Outcome.next.inj e0
  clear e0
  repeat' first
    | with_reducible assumption
    | (with_reducible refine goes_windowService _ _ _ _ _ _ ?_ ?_; exact subT rfl hW)

theorem goes_execSigVerify {W : List Part} {s0 : State} (m : Master) (v : Word) (s : State) (hW : subParts [.regs, .out, .resp, .mbx, .mem, .vlt, .cry, .host, .pba] W = true) (hg : Goes W s0 s) : ∀ t0, execSigVerify m v s = .next t0 → Goes W s0 t0 := by
  unfold execSigVerify
  intro t0 e0
  obtain rfl := Host.Outcome.next.inj e0
  clear e0
  repeat' first
    | with_reducible assumption
    | (with_reducible refine goes_windowService _ _ _ _ _ _ ?_ ?_; exact subT rfl hW)

theorem goes_execRandom {W : List Part} {s0 : State} (m : Master) (v : Word) (s : State) (hW : subParts [.regs, .out, .resp, .mbx, .mem, .vlt, .cry, .host, .pba] W = true) (hg : Goes W s0 s) : ∀ t0, execRandom m v s = .next t0 → Goes W s0 t0 := by
  unfold execRandom
  intro t0 e0
  obtain rfl := Host.Outcome.next.inj e0
  clear e0
  repeat' first
    | with_reducible assumption
    | (with_reducible refine goes_windowService _ _ _ _ _ _ ?_ ?_; exact subT rfl hW)

theorem goes_execMeasExtend {W : List Part} {s0 : State} (m : Master) (v : Word) (s : State) (hW : subParts [.regs, .out, .resp, .mbx, .mem, .vlt, .cry, .host, .pba] W = true) (hg : Goes W s0 s) : ∀ t0, execMeasExtend m v s = .next t0 → Goes W s0 t0 := by
  unfold execMeasExtend
  intro t0 e0
  obtain rfl := Host.Outcome.next.inj e0
  clear e0
  repeat' first
    | with_reducible assumption
    | (with_reducible refine goes_windowService _ _ _ _ _ _ ?_ ?_; exact subT rfl hW)

theorem goes_execTapInstruction {W : List Part} {s0 : State} (k : TapInstr) (s : State) (hW : subParts [.regs] W = true) (hg : Goes W s0 s) : ∀ t0, execTapInstruction k s = .next t0 → Goes W s0 t0 := by
  unfold execTapInstruction
  intro t0 e0
  obtain rfl := Host.Outcome.next.inj e0
  clear e0
  repeat' first
    | with_reducible assumption
    | lift_lets
    | (with_reducible refine goes_wf _ _ _ _ _ ?_ ?_; exact subT rfl hW)
    | (with_reducible refine Goes.ite ?_ ?_)
    | split

theorem foldl_memWrite_wf (l : List (Nat × Nat)) (m : Sparse Byte) (h : Memory.wf m = true) :
    Memory.wf (l.foldl (fun (m : Sparse Byte) (o : Nat × Nat) => memWrite m o.1 (zeros o.2)) m) = true := by
  induction l generalizing m with
  | nil => exact h
  | cons x r ih => exact ih _ (memWrite_wf _ _ _ h)

theorem goes_zeroizeNow {W : List Part} {s0 : State} (s : State) (hW : subParts [.regs, .mem, .boot, .pwt, .vlt] W = true) (h : Goes W s0 s) : Goes W s0 s.zeroizeNow := by
  unfold State.zeroizeNow
  extract_lets out rs x y z u v
  refine goes_opStat _ _ _ (subT rfl hW) (Goes.foldl (fun _ _ g => goes_wr _ _ _ (subT rfl hW) g) (Goes.foldl (fun _ _ g => goes_wr _ _ _ (subT rfl hW) g) ?_))
  refine Goes.upd (b := s) [.regs, .mem, .boot, .pwt, .vlt] rfl (subT rfl hW) (by intro p hp; cases p <;> first | rfl | simp at hp) (fun c => ?_) h
  exact ⟨c.1, c.2.1, foldl_memWrite_wf _ _ c.2.2.1, c.2.2.2⟩

theorem goes_vltKill {W : List Part} {s0 : State} (s : State) (hW : subParts [.regs, .out, .mbx, .mem, .vlt, .pba] W = true) (hg : Goes W s0 s) : Goes W s0 (State.vltKill s) := by
  unfold State.vltKill
  repeat' first
    | with_reducible assumption
    | (intro x; refine Goes.cut (W := W) (s0 := s0) (x := x) ?_ ?_; rotate_left; clear_value x; intro hx; rotate_right)
    | intro x
    | lift_lets
    | (with_reducible refine goes_sramWrite _ _ _ ?_ ?_; exact subT rfl hW)
    | (with_reducible refine goes_opAnswer _ _ _ _ ?_ ?_; exact subT rfl hW)
    | (with_reducible refine goes_vltDrainCheck _ ?_ ?_; exact subT rfl hW)
    | split
    | (fail_if_no_progress (with_reducible refine goes_set_vlt _ _ ?_ ?_; exact subT rfl hW))
    | (dsimp +zetaDelta only)

theorem goes_vltCancel {W : List Part} {s0 : State} (s : State) (hW : subParts [.regs, .out, .mbx, .mem, .vlt, .pba] W = true) (hg : Goes W s0 s) : Goes W s0 (State.vltCancel s) := by
  unfold State.vltCancel
  repeat' first
    | with_reducible assumption
    | intro x
    | lift_lets
    | (with_reducible refine goes_opAnswer _ _ _ _ ?_ ?_; exact subT rfl hW)
    | split
    | (refine Goes.foldl (fun _ _ _ => ?_) ?_)
    | (fail_if_no_progress (with_reducible refine goes_set_vlt _ _ ?_ ?_; exact subT rfl hW))

theorem goes_vltReset {W : List Part} {s0 : State} (s : State) (hW : subParts [.regs, .out, .mbx, .mem, .vlt, .pba] W = true) (hg : Goes W s0 s) : Goes W s0 (State.vltReset s) := by
  unfold State.vltReset
  repeat' first
    | with_reducible assumption
    | (intro x; refine Goes.cut (W := W) (s0 := s0) (x := x) ?_ ?_; rotate_left; clear_value x; intro hx; rotate_right)
    | intro x
    | lift_lets
    | (with_reducible refine goes_erase _ _ ?_ ?_; exact subT rfl hW)
    | (with_reducible refine goes_opAnswer _ _ _ _ ?_ ?_; exact subT rfl hW)
    | split
    | (refine Goes.foldl (fun _ _ _ => ?_) ?_)
    | (fail_if_no_progress (with_reducible refine goes_set_vlt _ _ ?_ ?_; exact subT rfl hW))

theorem goes_vltWrite {W : List Part} {s0 : State} (s : State) (m : Master) (off : Nat) (v : Word) (hW : subParts [.regs, .out, .mbx, .mem, .vlt, .cry, .pba] W = true) (hg : Goes W s0 s) : GoesO W s0 (State.vltWrite s m off v) := by
  unfold State.vltWrite
  repeat' first
    | with_reducible assumption
    | lift_lets
    | (with_reducible refine goes_wr _ _ _ ?_ ?_; exact subT rfl hW)
    | (with_reducible refine goes_opDenied _ _ _ ?_ ?_; exact subT rfl hW)
    | (with_reducible refine goes_opCmd _ _ _ _ _ ?_ ?_; exact subT rfl hW)
    | (refine GoesO.some ?_)
    | exact GoesO.none
    | (with_reducible refine Goes.ite ?_ ?_)
    | (with_reducible refine GoesO.ite ?_ ?_)

theorem goes_cryWrite {W : List Part} {s0 : State} (s : State) (m : Master) (off : Nat) (v : Word) (hW : subParts [.regs, .out, .cry, .pba] W = true) (hg : Goes W s0 s) : GoesO W s0 (State.cryWrite s m off v) := by
  unfold State.cryWrite
  repeat' first
    | with_reducible assumption
    | lift_lets
    | (with_reducible refine goes_err _ _ _ _ _ ?_ ?_; exact subT rfl hW)
    | (with_reducible refine goes_testRequest _ ?_ ?_; exact subT rfl hW)
    | (refine GoesO.some ?_)
    | exact GoesO.none
    | (with_reducible refine Goes.ite ?_ ?_)
    | (with_reducible refine GoesO.ite ?_ ?_)

end Sys2Proof.Machine
end

