-- ==== Sys2Proof/Laws/GoesHostIf.lean ====
section
/-! SUPPORT. What the operations of Machine/HostIf.lean can change: one lemma each. -/

set_option linter.unreachableTactic false
set_option linter.unusedTactic false

namespace Sys2Proof.Machine

open Sys2Proof

/-- A change of the endpoint that leaves its pending bits. -/
theorem goes_host {W : List Part} {s0 : State} (s : State) (h : HostIf) (hp : h.pba = s.host.pba) (hW : subParts [.host] W = true) (hg : Goes W s0 s) : Goes W s0 { s with host := h } :=
  Goes.upd (b := s) [.host] rfl hW (by intro p hq; cases p <;> first | exact absurd (by decide) hq | exact hp | rfl) (fun c => c) hg

theorem goes_cfgWrite {W : List Part} {s0 : State} (s : State) (off : Nat) (v : Word) (hW : subParts [.host] W = true) (hg : Goes W s0 s) : Goes W s0 (State.cfgWrite s off v) := by
  unfold State.cfgWrite
  extract_lets h
  repeat' split
  all_goals first | exact hg | exact goes_host _ _ rfl hW hg

theorem goes_sysErr {W : List Part} {s0 : State} (s : State) (code : Nat) (a : Nat) (m : Master) (hW : subParts [.regs, .out, .pba] W = true) (hg : Goes W s0 s) : Goes W s0 (State.sysErr s code a m) := by
  unfold State.sysErr
  repeat' first
    | with_reducible assumption
    | lift_lets
    | (with_reducible refine goes_wr64 _ _ _ _ ?_ ?_; exact subT rfl hW)
    | (with_reducible refine goes_err _ _ _ _ _ ?_ ?_; exact subT rfl hW)

theorem goes_unmappedAccess {W : List Part} {s0 : State} (s : State) (m : Master) (wr : Bool) (a : Nat) (hW : subParts [.regs, .out, .resp, .pba] W = true) (hg : Goes W s0 s) : Goes W s0 (State.unmappedAccess s m wr a) := by
  unfold State.unmappedAccess
  repeat' first
    | with_reducible assumption
    | lift_lets
    | (with_reducible refine goes_answer _ _ ?_ ?_; exact subT rfl hW)
    | (with_reducible refine goes_sysErr _ _ _ _ ?_ ?_; exact subT rfl hW)
    | (with_reducible refine Goes.ite ?_ ?_)

theorem goes_execUnmappedAccess {W : List Part} {s0 : State} (m : Master) (wr : Bool) (addr : Nat) (v : Word) (s : State) (hW : subParts [.regs, .out, .resp, .host, .pba] W = true) (hg : Goes W s0 s) : ∀ t0, execUnmappedAccess m wr addr v s = .next t0 → Goes W s0 t0 := by
  unfold execUnmappedAccess
  intro t0 e0
  obtain rfl := Host.Outcome.next.inj e0
  clear e0
  repeat' first
    | with_reducible assumption
    | lift_lets
    | (with_reducible refine goes_barReq _ _ _ _ ?_ (fun _ _ => ?_) ?_; exact subT rfl hW)
    | (with_reducible refine goes_unmappedAccess _ _ _ _ ?_ ?_; exact subT rfl hW)
    | (with_reducible refine Goes.ite ?_ ?_)
    | split

theorem goes_narrow {W : List Part} {s0 : State} (s : State) (m : Master) (wr : Bool) (a : Nat) (hW : subParts [.regs, .out, .resp, .pba] W = true) (hg : Goes W s0 s) : Goes W s0 (State.narrow s m wr a) := by
  unfold State.narrow
  repeat' first
    | with_reducible assumption
    | intro x
    | lift_lets
    | (with_reducible refine goes_answer _ _ ?_ ?_; exact subT rfl hW)
    | (with_reducible refine goes_err _ _ _ _ _ ?_ ?_; exact subT rfl hW)
    | (with_reducible refine goes_onPage _ _ _ _ _ ?_ (fun _ _ => ?_) ?_; exact subT rfl hW)
    | (with_reducible refine goes_unmappedAccess _ _ _ _ ?_ ?_; exact subT rfl hW)
    | (with_reducible refine Goes.ite ?_ ?_)
    | split

theorem goes_execNarrowWrite {W : List Part} {s0 : State} (m : Master) (addr : Nat) (_v : Word) (s : State) (hW : subParts [.regs, .out, .resp, .host, .pba] W = true) (hg : Goes W s0 s) : ∀ t0, execNarrowWrite m addr _v s = .next t0 → Goes W s0 t0 := by
  unfold execNarrowWrite
  intro t0 e0
  obtain rfl := Host.Outcome.next.inj e0
  clear e0
  repeat' first
    | with_reducible assumption
    | lift_lets
    | (with_reducible refine goes_barReq _ _ _ _ ?_ (fun _ _ => ?_) ?_; exact subT rfl hW)
    | (with_reducible refine goes_narrow _ _ _ _ ?_ ?_; exact subT rfl hW)
    | split

theorem goes_execNarrowRead {W : List Part} {s0 : State} (m : Master) (addr : Nat) (s : State) (hW : subParts [.regs, .out, .resp, .host, .pba] W = true) (hg : Goes W s0 s) : ∀ t0, execNarrowRead m addr s = .next t0 → Goes W s0 t0 := by
  unfold execNarrowRead
  intro t0 e0
  obtain rfl := Host.Outcome.next.inj e0
  clear e0
  repeat' first
    | with_reducible assumption
    | lift_lets
    | (with_reducible refine goes_barReq _ _ _ _ ?_ (fun _ _ => ?_) ?_; exact subT rfl hW)
    | (with_reducible refine goes_narrow _ _ _ _ ?_ ?_; exact subT rfl hW)
    | split

theorem goes_multiDw {W : List Part} {s0 : State} (s : State) (wr : Bool) (addr : Nat) (hW : subParts [.regs, .out, .resp, .pba] W = true) (hg : Goes W s0 s) : Goes W s0 (State.multiDw s wr addr) := by
  unfold State.multiDw
  repeat' first
    | with_reducible assumption
    | lift_lets
    | (with_reducible refine goes_answer _ _ ?_ ?_; exact subT rfl hW)
    | (with_reducible refine goes_sysErr _ _ _ _ ?_ ?_; exact subT rfl hW)
    | (with_reducible refine Goes.ite ?_ ?_)

theorem goes_execMultiDw {W : List Part} {s0 : State} (wr : Bool) (addr : Nat) (_words : List Word) (s : State) (hW : subParts [.regs, .out, .resp, .host, .pba] W = true) (hg : Goes W s0 s) : ∀ t0, execMultiDw wr addr _words s = .next t0 → Goes W s0 t0 := by
  unfold execMultiDw
  intro t0 e0
  obtain rfl := Host.Outcome.next.inj e0
  clear e0
  repeat' first
    | with_reducible assumption
    | lift_lets
    | (with_reducible refine goes_barReq _ _ _ _ ?_ (fun _ _ => ?_) ?_; exact subT rfl hW)
    | (with_reducible refine goes_multiDw _ _ _ ?_ ?_; exact subT rfl hW)

theorem goes_pageWrite {W : List Part} {s0 : State} (s : State) (b : Blk) (off : Nat) (m : Master) (f : State → State)
    (hW : subParts [.regs, .out, .resp, .pba] W = true) (hf : ∀ t, Goes W s0 t → Goes W s0 (f t)) (h : Goes W s0 s) : Goes W s0 (s.pageWrite b off m f) := by
  refine goes_onPage _ _ _ _ _ hW (fun t ht => goes_answer _ _ (subT rfl hW) ?_) h
  split
  · exact goes_err _ _ _ _ _ (subT rfl hW) ht
  · exact hf _ ht

theorem goes_hdrReq {W : List Part} {s0 : State} (s : State) (b : Blk) (off : Nat) (m : Master) (v : Word) (f : State → State)
    (hW : subParts [.regs, .out, .resp, .host, .pba] W = true) (hf : ∀ t, Goes W s0 t → Goes W s0 (f t)) (h : Goes W s0 s) : Goes W s0 (s.hdrReq b off m v f) :=
  goes_barReq _ _ _ _ (subT rfl hW) (fun _ g => goes_pageWrite _ _ _ _ _ (subT rfl hW) hf g) h

theorem goes_execIrqClear {W : List Part} {s0 : State} (m : Master) (b : Blk) (v : Word) (s : State) (hW : subParts [.regs, .out, .resp, .host, .pba] W = true) (hg : Goes W s0 s) : ∀ t0, execIrqClear m b v s = .next t0 → Goes W s0 t0 := by
  unfold execIrqClear
  intro t0 e0
  obtain rfl := Host.Outcome.next.inj e0
  clear e0
  repeat' first
    | with_reducible assumption
    | lift_lets
    | (with_reducible refine goes_irqClear _ _ _ ?_ ?_; exact subT rfl hW)
    | (with_reducible refine goes_hdrReq _ _ _ _ _ _ ?_ (fun _ _ => ?_) ?_; exact subT rfl hW)

theorem goes_execIrqForce {W : List Part} {s0 : State} (m : Master) (b : Blk) (v : Word) (s : State) (hW : subParts [.regs, .out, .resp, .host, .pba] W = true) (hg : Goes W s0 s) : ∀ t0, execIrqForce m b v s = .next t0 → Goes W s0 t0 := by
  unfold execIrqForce
  intro t0 e0
  obtain rfl := Host.Outcome.next.inj e0
  clear e0
  repeat' first
    | with_reducible assumption
    | lift_lets
    | (with_reducible refine goes_irqBits _ _ _ ?_ ?_; exact subT rfl hW)
    | (with_reducible refine goes_hdrReq _ _ _ _ _ _ ?_ (fun _ _ => ?_) ?_; exact subT rfl hW)

theorem goes_execPageLock {W : List Part} {s0 : State} (m : Master) (b : Blk) (v : Word) (s : State) (hW : subParts [.regs, .out, .resp, .host, .pba] W = true) (hg : Goes W s0 s) : ∀ t0, execPageLock m b v s = .next t0 → Goes W s0 t0 := by
  unfold execPageLock
  intro t0 e0
  obtain rfl := Host.Outcome.next.inj e0
  clear e0
  repeat' first
    | with_reducible assumption
    | lift_lets
    | (with_reducible refine goes_wb _ _ _ _ ?_ ?_; exact subT rfl hW)
    | (with_reducible refine goes_hdrReq _ _ _ _ _ _ ?_ (fun _ _ => ?_) ?_; exact subT rfl hW)
    | (with_reducible refine Goes.ite ?_ ?_)

theorem goes_swIrqSet {W : List Part} {s0 : State} (s : State) (v : Word) (hW : subParts [.regs, .out, .pba] W = true) (hg : Goes W s0 s) : Goes W s0 (State.swIrqSet s v) := by
  unfold State.swIrqSet
  repeat' first
    | with_reducible assumption
    | intro x
    | lift_lets
    | (with_reducible refine goes_wr _ _ _ ?_ ?_; exact subT rfl hW)
    | (with_reducible refine goes_fireSw _ _ _ _ ?_ ?_; exact subT rfl hW)

theorem goes_execSwIrqSet {W : List Part} {s0 : State} (m : Master) (v : Word) (s : State) (hW : subParts [.regs, .out, .resp, .host, .pba] W = true) (hg : Goes W s0 s) : ∀ t0, execSwIrqSet m v s = .next t0 → Goes W s0 t0 := by
  unfold execSwIrqSet
  intro t0 e0
  obtain rfl := Host.Outcome.next.inj e0
  clear e0
  repeat' first
    | with_reducible assumption
    | lift_lets
    | (with_reducible refine goes_answer _ _ ?_ ?_; exact subT rfl hW)
    | (with_reducible refine goes_writeAt _ _ _ _ _ _ ?_ (fun _ _ => ?_) ?_; exact subT rfl hW)
    | (with_reducible refine goes_swIrqSet _ _ ?_ ?_; exact subT rfl hW)

theorem goes_swIrqClear {W : List Part} {s0 : State} (s : State) (v : Word) (hW : subParts [.regs, .out, .pba] W = true) (hg : Goes W s0 s) : Goes W s0 (State.swIrqClear s v) := by
  unfold State.swIrqClear
  repeat' first
    | with_reducible assumption
    | intro x
    | lift_lets
    | (with_reducible refine goes_wr _ _ _ ?_ ?_; exact subT rfl hW)
    | (with_reducible refine goes_fireSwHolding _ _ _ ?_ ?_; exact subT rfl hW)

theorem goes_msixWrite {W : List Part} {s0 : State} (s : State) (a : Nat) (v : Word) (hW : subParts [.regs, .out, .pba] W = true) (hg : Goes W s0 s) : Goes W s0 (State.msixWrite s a v) := by
  unfold State.msixWrite
  repeat' first
    | with_reducible assumption
    | (intro x; refine Goes.cut (W := W) (s0 := s0) (x := x) ?_ ?_; rotate_left; clear_value x; intro hx; rotate_right)
    | intro x
    | lift_lets
    | (with_reducible refine goes_wr _ _ _ ?_ ?_; exact subT rfl hW)
    | (with_reducible refine goes_fireVec _ _ ?_ ?_; exact subT rfl hW)
    | (with_reducible refine Goes.ite ?_ ?_)
    | (fail_if_no_progress (apply Goes.upd [.pba]; dsimp only; exact subT rfl hW; (intro p hp; cases p <;> first | rfl | simp at hp); exact fun c => c))
    | (dsimp +zetaDelta only)

theorem goes_aptCommit {W : List Part} {s0 : State} (s : State) (m : Master) (v : Word) (hW : subParts [.regs, .out, .host, .pba] W = true) (hg : Goes W s0 s) : Goes W s0 (State.aptCommit s m v) := by
  unfold State.aptCommit
  repeat' first
    | with_reducible assumption
    | intro x
    | lift_lets
    | (with_reducible refine goes_wb _ _ _ _ ?_ ?_; exact subT rfl hW)
    | (with_reducible refine goes_err _ _ _ _ _ ?_ ?_; exact subT rfl hW)
    | (with_reducible refine Goes.ite ?_ ?_)
    | (fail_if_no_progress (apply Goes.upd [.host]; dsimp only; exact subT rfl hW; (intro p hp; cases p <;> first | rfl | simp at hp); exact fun c => c))

theorem goes_execAptCommit {W : List Part} {s0 : State} (m : Master) (v : Word) (s : State) (hW : subParts [.regs, .out, .resp, .host, .pba] W = true) (hg : Goes W s0 s) : ∀ t0, execAptCommit m v s = .next t0 → Goes W s0 t0 := by
  unfold execAptCommit
  intro t0 e0
  obtain rfl := Host.Outcome.next.inj e0
  clear e0
  repeat' first
    | with_reducible assumption
    | lift_lets
    | (with_reducible refine goes_answer _ _ ?_ ?_; exact subT rfl hW)
    | (with_reducible refine goes_writeAt _ _ _ _ _ _ ?_ (fun _ _ => ?_) ?_; exact subT rfl hW)
    | (with_reducible refine goes_aptCommit _ _ _ ?_ ?_; exact subT rfl hW)

theorem goes_bar2Serve {W : List Part} {s0 : State} (s : State) (x : Bar2Access) (hW : subParts [.regs, .out, .free, .ldg, .mem, .pba] W = true) (hg : Goes W s0 s) : Goes W s0 (State.bar2Serve s x).1 := by
  unfold State.bar2Serve
  repeat' first
    | with_reducible assumption
    | lift_lets
    | (with_reducible refine goes_err _ _ _ _ _ ?_ ?_; exact subT rfl hW)
    | (with_reducible refine goes_bar2 _ _ _ ?_ ?_; exact subT rfl hW)
    | (with_reducible refine Goes.iteFst ?_ ?_)

theorem goes_bar2Serve' {W : List Part} {s0 : State} (s : State) (x : Bar2Access) {u0 : State} {v0 : Resp} (e : State.bar2Serve s x = (u0, v0)) (hW : subParts [.regs, .out, .free, .ldg, .mem, .pba] W = true) (hg : Goes W s0 s) : Goes W s0 u0 := by
  have := goes_bar2Serve s x hW hg
  rw [e] at this
  exact this

theorem goes_bar2Held {W : List Part} {s0 : State} (l : List Bar2Access) (s : State) (hW : subParts [.regs, .out, .free, .ldg, .mem, .pba] W = true) (h : Goes W s0 s) : Goes W s0 (bar2Held l s) := by
  induction l generalizing s with
  | nil =>
    unfold bar2Held
    repeat' first
      | assumption
  | cons x r ih =>
    unfold bar2Held
    repeat' first
      | (with_reducible refine ih _ ?_)
      | with_reducible assumption
      | lift_lets
      | (with_reducible refine goes_emit _ _ ?_ ?_; exact subT rfl hW)
      | (with_reducible refine goes_bar2Serve _ _ ?_ ?_; exact subT rfl hW)

theorem goes_cancelAll {W : List Part} {s0 : State} (s : State) (hW : subParts [.regs, .mbx, .ntm] W = true) (hg : Goes W s0 s) : Goes W s0 (State.cancelAll s) := by
  unfold State.cancelAll
  repeat' first
    | with_reducible assumption
    | (intro x; refine Goes.cut (W := W) (s0 := s0) (x := x) ?_ ?_; rotate_left; clear_value x; intro hx; rotate_right)
    | intro x
    | lift_lets
    | (with_reducible refine goes_wr _ _ _ ?_ ?_; exact subT rfl hW)
    | (with_reducible refine goes_bump _ _ _ ?_ ?_; exact subT rfl hW)
    | (fail_if_no_progress (apply Goes.upd [.mbx, .ntm]; dsimp only; exact subT rfl hW; (intro p hp; cases p <;> first | rfl | simp at hp); exact fun c => c))
    | (dsimp +zetaDelta only)

theorem goes_hostGone {W : List Part} {s0 : State} (s : State) (hW : subParts [.regs, .out, .mbx, .mkt, .que, .ldg, .ntm, .host, .pba] W = true) (hg : Goes W s0 s) : Goes W s0 (State.hostGone s) := by
  unfold State.hostGone
  repeat' first
    | with_reducible assumption
    | (intro x; refine Goes.cut (W := W) (s0 := s0) (x := x) ?_ ?_; rotate_left; clear_value x; intro hx; rotate_right)
    | intro x
    | lift_lets
    | (with_reducible refine goes_ledger _ _ _ _ _ _ _ ?_ ?_; exact subT rfl hW)
    | (with_reducible refine goes_hostWaresBack _ ?_ ?_; exact subT rfl hW)
    | (with_reducible refine goes_cancelAll _ ?_ ?_; exact subT rfl hW)
    | (fail_if_no_progress (apply Goes.upd [.host]; dsimp only; exact subT rfl hW; (intro p hp; cases p <;> first | rfl | simp at hp); exact fun c => c))

theorem goes_hostBack {W : List Part} {s0 : State} (s : State) (hW : subParts [.regs, .out, .mbx, .ldg, .host, .pba] W = true) (hg : Goes W s0 s) : Goes W s0 (State.hostBack s) := by
  unfold State.hostBack
  repeat' first
    | with_reducible assumption
    | (intro x; refine Goes.cut (W := W) (s0 := s0) (x := x) ?_ ?_; rotate_left; clear_value x; intro hx; rotate_right)
    | intro x
    | lift_lets
    | (with_reducible refine goes_event _ _ _ _ ?_ ?_; exact subT rfl hW)
    | (with_reducible refine Goes.ite ?_ ?_)
    | (fail_if_no_progress (with_reducible refine goes_set_mbx _ _ ?_ ?_; exact subT rfl hW))
    | (fail_if_no_progress (apply Goes.upd [.mbx, .host]; dsimp only; exact subT rfl hW; (intro p hp; cases p <;> first | rfl | simp at hp); exact fun c => c))
    | (dsimp +zetaDelta only)

theorem goes_hostUpdate {W : List Part} {s0 : State} (s : State) (hW : subParts [.regs, .out, .mbx, .mkt, .que, .ldg, .ntm, .host, .pba] W = true) (hg : Goes W s0 s) : Goes W s0 (State.hostUpdate s) := by
  unfold State.hostUpdate
  repeat' first
    | with_reducible assumption
    | lift_lets
    | (with_reducible refine goes_hostGone _ ?_ ?_; exact subT rfl hW)
    | (with_reducible refine goes_hostBack _ ?_ ?_; exact subT rfl hW)
    | (with_reducible refine Goes.ite ?_ ?_)

theorem goes_missBeat {W : List Part} {s0 : State} (s : State) (hW : subParts [.regs, .out, .mbx, .mkt, .que, .ldg, .ntm, .host, .pba] W = true) (hg : Goes W s0 s) : Goes W s0 (State.missBeat s) := by
  unfold State.missBeat
  repeat' first
    | with_reducible assumption
    | intro x
    | lift_lets
    | (with_reducible refine goes_hostUpdate _ ?_ ?_; exact subT rfl hW)
    | (fail_if_no_progress (apply Goes.upd [.host]; dsimp only; exact subT rfl hW; (intro p hp; cases p <;> first | rfl | simp at hp); exact fun c => c))

theorem goes_beatEdge {W : List Part} {s0 : State} (s : State) (hW : subParts [.regs, .out, .mbx, .mkt, .que, .ldg, .ntm, .host, .pba] W = true) (hg : Goes W s0 s) : Goes W s0 (State.beatEdge s) := by
  unfold State.beatEdge
  repeat' first
    | with_reducible assumption
    | (intro x; refine Goes.cut (W := W) (s0 := s0) (x := x) ?_ ?_; rotate_left; clear_value x; intro hx; rotate_right)
    | intro x
    | lift_lets
    | (with_reducible refine goes_missBeat _ ?_ ?_; exact subT rfl hW)
    | (with_reducible refine Goes.ite ?_ ?_)
    | (fail_if_no_progress (apply Goes.upd [.host]; dsimp only; exact subT rfl hW; (intro p hp; cases p <;> first | rfl | simp at hp); exact fun c => c))
    | (dsimp +zetaDelta only)

theorem goes_hostBeat {W : List Part} {s0 : State} (s : State) (hW : subParts [.regs, .out, .mbx, .mkt, .que, .ldg, .ntm, .host, .pba] W = true) (hg : Goes W s0 s) : Goes W s0 (State.hostBeat s) := by
  unfold State.hostBeat
  repeat' first
    | with_reducible assumption
    | intro x
    | lift_lets
    | (with_reducible refine goes_hostUpdate _ ?_ ?_; exact subT rfl hW)
    | (fail_if_no_progress (apply Goes.upd [.host]; dsimp only; exact subT rfl hW; (intro p hp; cases p <;> first | rfl | simp at hp); exact fun c => c))

theorem goes_execHostBeat {W : List Part} {s0 : State} (m : Master) (v : Word) (s : State) (hW : subParts [.regs, .out, .resp, .mbx, .mkt, .que, .ldg, .ntm, .host, .pba] W = true) (hg : Goes W s0 s) : ∀ t0, execHostBeat m v s = .next t0 → Goes W s0 t0 := by
  unfold execHostBeat
  intro t0 e0
  obtain rfl := Host.Outcome.next.inj e0
  clear e0
  repeat' first
    | with_reducible assumption
    | lift_lets
    | (with_reducible refine goes_answer _ _ ?_ ?_; exact subT rfl hW)
    | (with_reducible refine goes_writeAt _ _ _ _ _ _ ?_ (fun _ _ => ?_) ?_; exact subT rfl hW)
    | (with_reducible refine goes_hostBeat _ ?_ ?_; exact subT rfl hW)

theorem goes_execHostLost {W : List Part} {s0 : State} (linkUp : Bool) (bme : Bool) (s : State) (hW : subParts [.regs, .out, .mbx, .mkt, .que, .ldg, .ntm, .host, .pba] W = true) (hg : Goes W s0 s) : ∀ t0, execHostLost linkUp bme s = .next t0 → Goes W s0 t0 := by
  unfold execHostLost
  intro t0 e0
  obtain rfl := Host.Outcome.next.inj e0
  clear e0
  repeat' first
    | with_reducible assumption
    | intro x
    | lift_lets
    | (with_reducible refine goes_hostUpdate _ ?_ ?_; exact subT rfl hW)
    | (fail_if_no_progress (apply Goes.upd [.host]; dsimp only; exact subT rfl hW; (intro p hp; cases p <;> first | rfl | simp at hp); exact fun c => c))

theorem goes_execHostSeen {W : List Part} {s0 : State} (linkUp : Bool) (bme : Bool) (s : State) (hW : subParts [.regs, .out, .mbx, .mkt, .que, .ldg, .ntm, .host, .pba] W = true) (hg : Goes W s0 s) : ∀ t0, execHostSeen linkUp bme s = .next t0 → Goes W s0 t0 := by
  unfold execHostSeen
  intro t0 e0
  obtain rfl := Host.Outcome.next.inj e0
  clear e0
  repeat' first
    | with_reducible assumption
    | intro x
    | lift_lets
    | (with_reducible refine goes_hostUpdate _ ?_ ?_; exact subT rfl hW)
    | (fail_if_no_progress (apply Goes.upd [.host]; dsimp only; exact subT rfl hW; (intro p hp; cases p <;> first | rfl | simp at hp); exact fun c => c))

theorem goes_perst {W : List Part} {s0 : State} (s : State) (hW : subParts [.regs, .out, .mbx, .mkt, .que, .ldg, .ntm, .host, .pba] W = true) (hg : Goes W s0 s) : Goes W s0 (State.perst s) := by
  unfold State.perst
  repeat' first
    | with_reducible assumption
    | (intro x; refine Goes.cut (W := W) (s0 := s0) (x := x) ?_ ?_; rotate_left; clear_value x; intro hx; rotate_right)
    | intro x
    | lift_lets
    | (with_reducible refine goes_wr _ _ _ ?_ ?_; exact subT rfl hW)
    | (with_reducible refine goes_hostWaresBack _ ?_ ?_; exact subT rfl hW)
    | (with_reducible refine goes_cancelAll _ ?_ ?_; exact subT rfl hW)
    | (with_reducible refine goes_hostGone _ ?_ ?_; exact subT rfl hW)
    | (with_reducible refine Goes.ite ?_ ?_)
    | (refine Goes.foldl (fun _ _ _ => ?_) ?_)
    | (fail_if_no_progress (apply Goes.upd [.regs, .mkt, .host, .pba]; dsimp only; exact subT rfl hW; (intro p hp; cases p <;> first | rfl | simp at hp); first | exact fun c => c | exact fun c => ⟨Sparse.filter_wf _ _ _ c.1, c.2⟩))
    | (dsimp +zetaDelta only)

theorem goes_execPerst {W : List Part} {s0 : State} (s : State) (hW : subParts [.regs, .out, .mbx, .mkt, .que, .ldg, .ntm, .host, .pba] W = true) (hg : Goes W s0 s) : ∀ t0, execPerst s = .next t0 → Goes W s0 t0 := by
  unfold execPerst
  intro t0 e0
  obtain rfl := Host.Outcome.next.inj e0
  clear e0
  repeat' first
    | with_reducible assumption
    | (with_reducible refine goes_perst _ ?_ ?_; exact subT rfl hW)

theorem goes_doorbell {W : List Part} {s0 : State} (s : State) (m : Master) (v : Word) (hW : subParts [.regs, .out, .pba] W = true) (hg : Goes W s0 s) : Goes W s0 (State.doorbell s m v) := by
  unfold State.doorbell
  repeat' first
    | with_reducible assumption
    | intro x
    | lift_lets
    | (with_reducible refine goes_wr _ _ _ ?_ ?_; exact subT rfl hW)
    | (with_reducible refine goes_err _ _ _ _ _ ?_ ?_; exact subT rfl hW)
    | (with_reducible refine Goes.ite ?_ ?_)

theorem goes_execMbxDoorbell {W : List Part} {s0 : State} (m : Master) (v : Word) (s : State) (hW : subParts [.regs, .out, .resp, .host, .pba] W = true) (hg : Goes W s0 s) : ∀ t0, execMbxDoorbell m v s = .next t0 → Goes W s0 t0 := by
  unfold execMbxDoorbell
  intro t0 e0
  obtain rfl := Host.Outcome.next.inj e0
  clear e0
  repeat' first
    | with_reducible assumption
    | lift_lets
    | (with_reducible refine goes_answer _ _ ?_ ?_; exact subT rfl hW)
    | (with_reducible refine goes_writeAt _ _ _ _ _ _ ?_ (fun _ _ => ?_) ?_; exact subT rfl hW)
    | (with_reducible refine goes_doorbell _ _ _ ?_ ?_; exact subT rfl hW)

theorem goes_m2hAdvance {W : List Part} {s0 : State} (s : State) (m : Master) (v : Word) (hW : subParts [.regs, .out, .mbx, .pba] W = true) (hg : Goes W s0 s) : Goes W s0 (State.m2hAdvance s m v) := by
  unfold State.m2hAdvance
  repeat' first
    | with_reducible assumption
    | lift_lets
    | (with_reducible refine goes_wr _ _ _ ?_ ?_; exact subT rfl hW)
    | (with_reducible refine goes_err _ _ _ _ _ ?_ ?_; exact subT rfl hW)
    | (with_reducible refine Goes.ite ?_ ?_)
    | (with_reducible refine goes_flushHeld _ _ ?_ ?_; exact subT rfl hW)

theorem goes_fetchEntry {W : List Part} {s0 : State} (s : State) (e : MbxEntry) (hW : subParts [.out] W = true) (hg : Goes W s0 s) : Goes W s0 (State.fetchEntry s e) := by
  unfold State.fetchEntry
  repeat' first
    | with_reducible assumption
    | (intro x; refine Goes.cut (W := W) (s0 := s0) (x := x) ?_ ?_; rotate_left; clear_value x; intro hx; rotate_right)
    | lift_lets
    | (with_reducible refine goes_emit _ _ ?_ ?_; exact subT rfl hW)
    | (with_reducible refine Goes.ite ?_ ?_)

theorem goes_takeCmd {W : List Part} {s0 : State} (s : State) (e : MbxEntry) (data : Option Bytes) (hW : subParts [.regs, .out, .mbx, .pba] W = true) (hg : Goes W s0 s) : Goes W s0 (State.takeCmd s e data) := by
  unfold State.takeCmd
  repeat' first
    | with_reducible assumption
    | (intro x; refine Goes.cut (W := W) (s0 := s0) (x := x) ?_ ?_; rotate_left; clear_value x; intro hx; rotate_right)
    | intro x
    | lift_lets
    | (with_reducible refine goes_wr _ _ _ ?_ ?_; exact subT rfl hW)
    | (with_reducible refine goes_reply _ _ _ _ _ ?_ ?_; exact subT rfl hW)
    | (with_reducible refine goes_fetchEntry _ _ ?_ ?_; exact subT rfl hW)
    | (with_reducible refine Goes.ite ?_ ?_)
    | (fail_if_no_progress (with_reducible refine goes_set_mbx _ _ ?_ ?_; exact subT rfl hW))

theorem goes_execMbxCommandTake {W : List Part} {s0 : State} (raw : Bytes) (data : Option Bytes) (s : State) (hW : subParts [.regs, .out, .mbx, .pba] W = true) (hg : Goes W s0 s) : ∀ t0, execMbxCommandTake raw data s = .next t0 → Goes W s0 t0 := by
  unfold execMbxCommandTake
  intro t0 e0
  obtain rfl := Host.Outcome.next.inj e0
  clear e0
  repeat' first
    | with_reducible assumption
    | lift_lets
    | (with_reducible refine goes_takeCmd _ _ _ ?_ ?_; exact subT rfl hW)
    | (with_reducible refine Goes.ite ?_ ?_)

theorem goes_mbxResetEvent {W : List Part} {s0 : State} (s : State) (hW : subParts [.regs, .out, .mbx, .ldg, .pba] W = true) (hg : Goes W s0 s) : Goes W s0 (State.mbxResetEvent s) := by
  unfold State.mbxResetEvent
  repeat' first
    | with_reducible assumption
    | (intro x; refine Goes.cut (W := W) (s0 := s0) (x := x) ?_ ?_; rotate_left; clear_value x; intro hx; rotate_right)
    | intro x
    | lift_lets
    | (with_reducible refine goes_event _ _ _ _ ?_ ?_; exact subT rfl hW)
    | (with_reducible refine Goes.ite ?_ ?_)
    | (fail_if_no_progress (with_reducible refine goes_set_mbx _ _ ?_ ?_; exact subT rfl hW))

theorem goes_execMbxReset {W : List Part} {s0 : State} (s : State) (hW : subParts [.regs, .out, .mbx, .ldg, .pba] W = true) (hg : Goes W s0 s) : ∀ t0, execMbxReset s = .next t0 → Goes W s0 t0 := by
  unfold execMbxReset
  intro t0 e0
  obtain rfl := Host.Outcome.next.inj e0
  clear e0
  repeat' first
    | with_reducible assumption
    | (with_reducible refine goes_mbxResetEvent _ ?_ ?_; exact subT rfl hW)

theorem goes_eventsLost {W : List Part} {s0 : State} (s : State) (hW : subParts [.regs, .out, .mbx, .ldg, .pba] W = true) (hg : Goes W s0 s) : Goes W s0 (State.eventsLost s) := by
  unfold State.eventsLost
  repeat' first
    | with_reducible assumption
    | intro x
    | lift_lets
    | (with_reducible refine goes_event _ _ _ _ ?_ ?_; exact subT rfl hW)
    | (with_reducible refine Goes.ite ?_ ?_)
    | (fail_if_no_progress (with_reducible refine goes_set_mbx _ _ ?_ ?_; exact subT rfl hW))

theorem goes_execEventsLost {W : List Part} {s0 : State} (s : State) (hW : subParts [.regs, .out, .mbx, .ldg, .pba] W = true) (hg : Goes W s0 s) : ∀ t0, execEventsLost s = .next t0 → Goes W s0 t0 := by
  unfold execEventsLost
  intro t0 e0
  obtain rfl := Host.Outcome.next.inj e0
  clear e0
  repeat' first
    | with_reducible assumption
    | (with_reducible refine goes_eventsLost _ ?_ ?_; exact subT rfl hW)

theorem goes_execNop {W : List Part} {s0 : State} (tag : Word) (s : State) (hW : subParts [.regs, .out, .mbx, .ldg, .pba] W = true) (hg : Goes W s0 s) : ∀ t0, execNop tag s = .next t0 → Goes W s0 t0 := by
  unfold execNop
  intro t0 e0
  obtain rfl := Host.Outcome.next.inj e0
  clear e0
  repeat' first
    | with_reducible assumption
    | lift_lets
    | (with_reducible refine goes_reply _ _ _ _ _ ?_ ?_; exact subT rfl hW)
    | (with_reducible refine goes_withCmd _ _ _ _ ?_ (fun _ _ _ => ?_) ?_; exact subT rfl hW)

theorem goes_mbxReset {W : List Part} {s0 : State} (s : State) (hW : subParts [.regs, .out, .mbx, .mkt, .que, .ldg, .ntm, .host, .pba] W = true) (hg : Goes W s0 s) : Goes W s0 (State.mbxReset s) := by
  unfold State.mbxReset
  repeat' first
    | with_reducible assumption
    | (intro x; refine Goes.cut (W := W) (s0 := s0) (x := x) ?_ ?_; rotate_left; clear_value x; intro hx; rotate_right)
    | intro x
    | lift_lets
    | (with_reducible refine goes_cancelAll _ ?_ ?_; exact subT rfl hW)
    | (with_reducible refine goes_hostGone _ ?_ ?_; exact subT rfl hW)
    | (with_reducible refine Goes.ite ?_ ?_)
    | (fail_if_no_progress (with_reducible refine goes_set_mbx _ _ ?_ ?_; exact subT rfl hW))

theorem goes_ringCfg {W : List Part} {s0 : State} (s : State) (a : Nat) (m : Master) (v : Word) (hW : subParts [.regs, .out, .mbx, .mkt, .que, .ldg, .ntm, .host, .pba] W = true) (hg : Goes W s0 s) : Goes W s0 (State.ringCfg s a m v) := by
  unfold State.ringCfg
  repeat' first
    | with_reducible assumption
    | intro x
    | lift_lets
    | (with_reducible refine goes_wr _ _ _ ?_ ?_; exact subT rfl hW)
    | (with_reducible refine goes_err _ _ _ _ _ ?_ ?_; exact subT rfl hW)
    | (with_reducible refine goes_hostUpdate _ ?_ ?_; exact subT rfl hW)
    | (with_reducible refine Goes.ite ?_ ?_)

theorem goes_sysWrite {W : List Part} {s0 : State} (s : State) (m : Master) (off : Nat) (v : Word) (hW : subParts [.regs, .out, .mbx, .mkt, .que, .ldg, .ntm, .host, .pba] W = true) (hg : Goes W s0 s) : GoesO W s0 (State.sysWrite s m off v) := by
  unfold State.sysWrite
  repeat' first
    | with_reducible assumption
    | lift_lets
    | (with_reducible refine goes_wr _ _ _ ?_ ?_; exact subT rfl hW)
    | (with_reducible refine goes_err _ _ _ _ _ ?_ ?_; exact subT rfl hW)
    | (with_reducible refine goes_swIrqSet _ _ ?_ ?_; exact subT rfl hW)
    | (with_reducible refine goes_swIrqClear _ _ ?_ ?_; exact subT rfl hW)
    | (with_reducible refine goes_aptCommit _ _ _ ?_ ?_; exact subT rfl hW)
    | (with_reducible refine goes_hostUpdate _ ?_ ?_; exact subT rfl hW)
    | (with_reducible refine goes_hostBeat _ ?_ ?_; exact subT rfl hW)
    | (refine GoesO.some ?_)
    | exact GoesO.none
    | (with_reducible refine Goes.ite ?_ ?_)
    | (with_reducible refine GoesO.ite ?_ ?_)

theorem goes_mbxWrite {W : List Part} {s0 : State} (s : State) (m : Master) (off : Nat) (v : Word) (hW : subParts [.regs, .out, .mbx, .mkt, .que, .ldg, .ntm, .host, .pba] W = true) (hg : Goes W s0 s) : GoesO W s0 (State.mbxWrite s m off v) := by
  unfold State.mbxWrite
  repeat' first
    | with_reducible assumption
    | lift_lets
    | (with_reducible refine goes_doorbell _ _ _ ?_ ?_; exact subT rfl hW)
    | (with_reducible refine goes_m2hAdvance _ _ _ ?_ ?_; exact subT rfl hW)
    | (with_reducible refine goes_ringCfg _ _ _ _ ?_ ?_; exact subT rfl hW)
    | (refine GoesO.some ?_)
    | exact GoesO.none
    | (with_reducible refine GoesO.ite ?_ ?_)

end Sys2Proof.Machine
end

