-- ==== Sys2Proof/Laws/GoesLedger.lean ====
section
/-! SUPPORT. What the operations of Machine/Ledger.lean can change: one lemma each. -/

set_option linter.unreachableTactic false
set_option linter.unusedTactic false

namespace Sys2Proof.Machine

open Sys2Proof

theorem goes_setLogStage {W : List Part} {s0 : State} (s : State) (m : Master) (j : Nat) (v : Word) (hW : subParts [.ldg] W = true) (hg : Goes W s0 s) : Goes W s0 (State.setLogStage s m j v) := by
  unfold State.setLogStage
  repeat' first
    | with_reducible assumption
    | intro x
    | lift_lets
    | (fail_if_no_progress (with_reducible refine goes_set_ldg _ _ ?_ ?_; exact subT rfl hW))

theorem goes_logWrite {W : List Part} {s0 : State} (s : State) (m : Master) (j : Nat) (v : Word) (hW : subParts [.regs, .out, .ldg, .pba] W = true) (hg : Goes W s0 s) : Goes W s0 (State.logWrite s m j v) := by
  unfold State.logWrite
  repeat' first
    | with_reducible assumption
    | intro x
    | lift_lets
    | (with_reducible refine goes_err _ _ _ _ _ ?_ ?_; exact subT rfl hW)
    | (with_reducible refine goes_setLogStage _ _ _ _ ?_ ?_; exact subT rfl hW)
    | (with_reducible refine Goes.ite ?_ ?_)

theorem goes_logSubmit {W : List Part} {s0 : State} (s : State) (m : Master) (v : Word) (hW : subParts [.regs, .out, .ldg, .pba] W = true) (hg : Goes W s0 s) : Goes W s0 (State.logSubmit s m v) := by
  unfold State.logSubmit
  repeat' first
    | with_reducible assumption
    | (intro x; refine Goes.cut (W := W) (s0 := s0) (x := x) ?_ ?_; rotate_left; clear_value x; intro hx; rotate_right)
    | intro x
    | lift_lets
    | (with_reducible refine goes_err _ _ _ _ _ ?_ ?_; exact subT rfl hW)
    | (with_reducible refine goes_logGroup _ _ _ _ _ _ ?_ ?_; exact subT rfl hW)
    | (with_reducible refine goes_setLogStage _ _ _ _ ?_ ?_; exact subT rfl hW)
    | (with_reducible refine Goes.ite ?_ ?_)

theorem goes_execLogSubmit {W : List Part} {s0 : State} (m : Master) (v : Word) (s : State) (hW : subParts [.regs, .out, .resp, .ldg, .host, .pba] W = true) (hg : Goes W s0 s) : ∀ t0, execLogSubmit m v s = .next t0 → Goes W s0 t0 := by
  unfold execLogSubmit
  intro t0 e0
  obtain rfl := Host.Outcome.next.inj e0
  clear e0
  repeat' first
    | with_reducible assumption
    | lift_lets
    | (with_reducible refine goes_answer _ _ ?_ ?_; exact subT rfl hW)
    | (with_reducible refine goes_writeAt _ _ _ _ _ _ ?_ (fun _ _ => ?_) ?_; exact subT rfl hW)
    | (with_reducible refine goes_logSubmit _ _ _ ?_ ?_; exact subT rfl hW)

theorem goes_ldgDrainCheck {W : List Part} {s0 : State} (s : State) (hW : subParts [.regs, .out, .pba] W = true) (hg : Goes W s0 s) : Goes W s0 (State.ldgDrainCheck s) := by
  unfold State.ldgDrainCheck
  repeat' first
    | with_reducible assumption
    | lift_lets
    | (with_reducible refine goes_setDrained _ _ ?_ ?_; exact subT rfl hW)
    | (with_reducible refine Goes.ite ?_ ?_)

theorem goes_writeRec {W : List Part} {s0 : State} (s : State) (hW : subParts [.regs, .out, .ldg, .nvs, .pba] W = true) (hg : Goes W s0 s) : Goes W s0 (State.writeRec s) := by
  unfold State.writeRec
  repeat' first
    | with_reducible assumption
    | (intro x; refine Goes.cut (W := W) (s0 := s0) (x := x) ?_ ?_; rotate_left; clear_value x; intro hx; rotate_right)
    | intro x
    | lift_lets
    | (with_reducible refine goes_bump _ _ _ ?_ ?_; exact subT rfl hW)
    | (with_reducible refine goes_irq _ _ _ ?_ ?_; exact subT rfl hW)
    | (with_reducible refine goes_nvsWrite _ _ _ _ ?_ ?_; exact subT rfl hW)
    | (with_reducible refine Goes.ite ?_ ?_)
    | split
    | (fail_if_no_progress (with_reducible refine goes_set_ldg _ _ ?_ ?_; exact subT rfl hW))

theorem goes_execRecordWrite {W : List Part} {s0 : State} (s : State) (hW : subParts [.regs, .out, .ldg, .nvs, .pba] W = true) (hg : Goes W s0 s) : ∀ t0, execRecordWrite s = .next t0 → Goes W s0 t0 := by
  unfold execRecordWrite
  intro t0 e0
  obtain rfl := Host.Outcome.next.inj e0
  clear e0
  repeat' first
    | with_reducible assumption
    | lift_lets
    | (with_reducible refine goes_ldgDrainCheck _ ?_ ?_; exact subT rfl hW)
    | (with_reducible refine goes_writeRec _ ?_ ?_; exact subT rfl hW)
    | (with_reducible refine Goes.ite ?_ ?_)

theorem goes_lostRec {W : List Part} {s0 : State} (s : State) (hW : subParts [.regs, .out, .ldg, .pba] W = true) (hg : Goes W s0 s) : Goes W s0 (State.lostRec s) := by
  unfold State.lostRec
  repeat' first
    | with_reducible assumption
    | (intro x; refine Goes.cut (W := W) (s0 := s0) (x := x) ?_ ?_; rotate_left; clear_value x; intro hx; rotate_right)
    | intro x
    | lift_lets
    | (with_reducible refine goes_logGroup _ _ _ _ _ _ ?_ ?_; exact subT rfl hW)
    | (with_reducible refine Goes.ite ?_ ?_)
    | (fail_if_no_progress (with_reducible refine goes_set_ldg _ _ ?_ ?_; exact subT rfl hW))

theorem goes_execLostRecord {W : List Part} {s0 : State} (s : State) (hW : subParts [.regs, .out, .ldg, .pba] W = true) (hg : Goes W s0 s) : ∀ t0, execLostRecord s = .next t0 → Goes W s0 t0 := by
  unfold execLostRecord
  intro t0 e0
  obtain rfl := Host.Outcome.next.inj e0
  clear e0
  repeat' first
    | with_reducible assumption
    | (with_reducible refine goes_lostRec _ ?_ ?_; exact subT rfl hW)

theorem goes_scanDone {W : List Part} {s0 : State} (s : State) (hW : subParts [.regs, .ldg] W = true) (hg : Goes W s0 s) : Goes W s0 (State.scanDone s) := by
  unfold State.scanDone
  repeat' first
    | with_reducible assumption
    | (intro x; refine Goes.cut (W := W) (s0 := s0) (x := x) ?_ ?_; rotate_left; clear_value x; intro hx; rotate_right)
    | intro x
    | lift_lets
    | (with_reducible refine goes_wr _ _ _ ?_ ?_; exact subT rfl hW)
    | (fail_if_no_progress (with_reducible refine goes_set_ldg _ _ ?_ ?_; exact subT rfl hW))

theorem goes_setSeries {W : List Part} {s0 : State} (s : State) (n : Nat) (x : Series) (hW : subParts [.ldg] W = true) (hg : Goes W s0 s) : Goes W s0 (State.setSeries s n x) := by
  unfold State.setSeries
  repeat' first
    | with_reducible assumption
    | intro x
    | lift_lets
    | (fail_if_no_progress (with_reducible refine goes_set_ldg _ _ ?_ ?_; exact subT rfl hW))

theorem goes_clearSeries {W : List Part} {s0 : State} (s : State) (n : Nat) (cause : Nat) (hW : subParts [.regs, .out, .ldg, .pba] W = true) (hg : Goes W s0 s) : Goes W s0 (State.clearSeries s n cause) := by
  unfold State.clearSeries
  repeat' first
    | with_reducible assumption
    | (intro x; refine Goes.cut (W := W) (s0 := s0) (x := x) ?_ ?_; rotate_left; clear_value x; intro hx; rotate_right)
    | intro x
    | lift_lets
    | (with_reducible refine goes_logGroup _ _ _ _ _ _ ?_ ?_; exact subT rfl hW)
    | (with_reducible refine goes_setSeries _ _ _ ?_ ?_; exact subT rfl hW)

theorem goes_feedSer {W : List Part} {s0 : State} (s : State) (m : Master) (v : Word) (hW : subParts [.regs, .out, .ldg, .pba] W = true) (hg : Goes W s0 s) : Goes W s0 (State.feedSer s m v) := by
  unfold State.feedSer
  repeat' first
    | with_reducible assumption
    | intro x
    | lift_lets
    | (with_reducible refine goes_err _ _ _ _ _ ?_ ?_; exact subT rfl hW)
    | (with_reducible refine goes_setSeries _ _ _ ?_ ?_; exact subT rfl hW)
    | (with_reducible refine Goes.ite ?_ ?_)

theorem goes_execSeriesFeed {W : List Part} {s0 : State} (m : Master) (v : Word) (s : State) (hW : subParts [.regs, .out, .resp, .ldg, .host, .pba] W = true) (hg : Goes W s0 s) : ∀ t0, execSeriesFeed m v s = .next t0 → Goes W s0 t0 := by
  unfold execSeriesFeed
  intro t0 e0
  obtain rfl := Host.Outcome.next.inj e0
  clear e0
  repeat' first
    | with_reducible assumption
    | lift_lets
    | (with_reducible refine goes_answer _ _ ?_ ?_; exact subT rfl hW)
    | (with_reducible refine goes_writeAt _ _ _ _ _ _ ?_ (fun _ _ => ?_) ?_; exact subT rfl hW)
    | (with_reducible refine goes_feedSer _ _ _ ?_ ?_; exact subT rfl hW)

theorem goes_execSerCtrlClear {W : List Part} {s0 : State} (m : Master) (v : Word) (s : State) (hW : subParts [.regs, .out, .resp, .ldg, .host, .pba] W = true) (hg : Goes W s0 s) : ∀ t0, execSerCtrlClear m v s = .next t0 → Goes W s0 t0 := by
  unfold execSerCtrlClear
  intro t0 e0
  obtain rfl := Host.Outcome.next.inj e0
  clear e0
  repeat' first
    | with_reducible assumption
    | lift_lets
    | (with_reducible refine goes_answer _ _ ?_ ?_; exact subT rfl hW)
    | (with_reducible refine goes_writeAt _ _ _ _ _ _ ?_ (fun _ _ => ?_) ?_; exact subT rfl hW)
    | (with_reducible refine goes_clearSeries _ _ _ ?_ ?_; exact subT rfl hW)
    | (with_reducible refine Goes.ite ?_ ?_)

theorem goes_serShape {W : List Part} {s0 : State} (s : State) (m : Master) (off : Nat) (v : Word) (hW : subParts [.regs, .out, .ldg, .pba] W = true) (hg : Goes W s0 s) : Goes W s0 (State.serShape s m off v) := by
  unfold State.serShape
  repeat' first
    | with_reducible assumption
    | intro x
    | lift_lets
    | (with_reducible refine goes_err _ _ _ _ _ ?_ ?_; exact subT rfl hW)
    | (with_reducible refine goes_setSeries _ _ _ ?_ ?_; exact subT rfl hW)
    | (with_reducible refine goes_clearSeries _ _ _ ?_ ?_; exact subT rfl hW)
    | (with_reducible refine Goes.ite ?_ ?_)

theorem goes_serCfg {W : List Part} {s0 : State} (s : State) (v : Word) (hW : subParts [.ldg] W = true) (hg : Goes W s0 s) : Goes W s0 (State.serCfg s v) := by
  unfold State.serCfg
  repeat' first
    | with_reducible assumption
    | intro x
    | lift_lets
    | (with_reducible refine goes_setSeries _ _ _ ?_ ?_; exact subT rfl hW)

theorem goes_saveSeries {W : List Part} {s0 : State} (s : State) (hW : subParts [.regs, .out, .nvs, .pba] W = true) (hg : Goes W s0 s) : Goes W s0 (State.saveSeries s) := by
  unfold State.saveSeries
  repeat' first
    | with_reducible assumption
    | lift_lets
    | (with_reducible refine goes_nvsWrite _ _ _ _ ?_ ?_; exact subT rfl hW)
    | (refine Goes.foldl (fun _ _ _ => ?_) ?_)

theorem goes_execSeriesSave {W : List Part} {s0 : State} (s : State) (hW : subParts [.regs, .out, .nvs, .pba] W = true) (hg : Goes W s0 s) : ∀ t0, execSeriesSave s = .next t0 → Goes W s0 t0 := by
  unfold execSeriesSave
  intro t0 e0
  obtain rfl := Host.Outcome.next.inj e0
  clear e0
  repeat' first
    | with_reducible assumption
    | lift_lets
    | (with_reducible refine goes_saveSeries _ ?_ ?_; exact subT rfl hW)
    | (with_reducible refine Goes.ite ?_ ?_)

theorem goes_saveOp {W : List Part} {s0 : State} (s : State) (hW : subParts [.regs, .out, .nvs, .pba] W = true) (hg : Goes W s0 s) : Goes W s0 (State.saveOp s) := by
  unfold State.saveOp
  repeat' first
    | with_reducible assumption
    | (with_reducible refine goes_nvsWrite _ _ _ _ ?_ ?_; exact subT rfl hW)

theorem goes_execOptimeSave {W : List Part} {s0 : State} (s : State) (hW : subParts [.regs, .out, .nvs, .pba] W = true) (hg : Goes W s0 s) : ∀ t0, execOptimeSave s = .next t0 → Goes W s0 t0 := by
  unfold execOptimeSave
  intro t0 e0
  obtain rfl := Host.Outcome.next.inj e0
  clear e0
  repeat' first
    | with_reducible assumption
    | lift_lets
    | (with_reducible refine goes_saveOp _ ?_ ?_; exact subT rfl hW)
    | (with_reducible refine Goes.ite ?_ ?_)

theorem goes_resumeSeries {W : List Part} {s0 : State} (s : State) (n : Nat) (hW : subParts [.regs, .out, .ldg, .pba] W = true) (hg : Goes W s0 s) : Goes W s0 (resumeSeries s n) := by
  unfold resumeSeries
  repeat' first
    | with_reducible assumption
    | lift_lets
    | (with_reducible refine goes_irq _ _ _ ?_ ?_; exact subT rfl hW)
    | (with_reducible refine goes_logGroup _ _ _ _ _ _ ?_ ?_; exact subT rfl hW)
    | (with_reducible refine goes_setSeries _ _ _ ?_ ?_; exact subT rfl hW)
    | (with_reducible refine Goes.ite ?_ ?_)
    | split

theorem goes_lateOne {W : List Part} {s0 : State} (s : State) (x : Late) (hW : subParts [.regs, .out, .mbx, .ldg, .pba] W = true) (hg : Goes W s0 s) : Goes W s0 (State.lateOne s x) := by
  unfold State.lateOne
  repeat' first
    | with_reducible assumption
    | (with_reducible refine goes_ledger _ _ _ _ _ _ _ ?_ ?_; exact subT rfl hW)
    | (with_reducible refine goes_event _ _ _ _ ?_ ?_; exact subT rfl hW)
    | split

theorem goes_lateFlush {W : List Part} {s0 : State} (s : State) (hW : subParts [.regs, .out, .mbx, .ldg, .boot, .pba] W = true) (hg : Goes W s0 s) : Goes W s0 (State.lateFlush s) := by
  unfold State.lateFlush
  repeat' first
    | with_reducible assumption
    | intro x
    | lift_lets
    | (with_reducible refine goes_lateOne _ _ ?_ ?_; exact subT rfl hW)
    | (with_reducible refine Goes.ite ?_ ?_)
    | (refine Goes.foldl (fun _ _ _ => ?_) ?_)
    | (fail_if_no_progress (with_reducible refine goes_set_boot _ _ ?_ ?_; exact subT rfl hW))

theorem goes_execLedgerScanDone {W : List Part} {s0 : State} (s : State) (hW : subParts [.regs, .out, .mbx, .ldg, .boot, .pba] W = true) (hg : Goes W s0 s) : ∀ t0, execLedgerScanDone s = .next t0 → Goes W s0 t0 := by
  unfold execLedgerScanDone
  intro t0 e0
  obtain rfl := Host.Outcome.next.inj e0
  clear e0
  repeat' first
    | with_reducible assumption
    | lift_lets
    | (with_reducible refine goes_scanDone _ ?_ ?_; exact subT rfl hW)
    | (with_reducible refine goes_resumeSeries _ _ ?_ ?_; exact subT rfl hW)
    | (with_reducible refine goes_lateFlush _ ?_ ?_; exact subT rfl hW)
    | (with_reducible refine Goes.ite ?_ ?_)
    | (refine Goes.foldl (fun _ _ _ => ?_) ?_)

theorem goes_setLdgWin {W : List Part} {s0 : State} (s : State) (m : Master) (w : LdgWin) (hW : subParts [.ldg] W = true) (hg : Goes W s0 s) : Goes W s0 (State.setLdgWin s m w) := by
  unfold State.setLdgWin
  repeat' first
    | with_reducible assumption
    | intro x
    | lift_lets
    | (fail_if_no_progress (with_reducible refine goes_set_ldg _ _ ?_ ?_; exact subT rfl hW))

theorem goes_latchWin {W : List Part} {s0 : State} (s : State) (m : Master) (q : Word) (hW : subParts [.ldg] W = true) (hg : Goes W s0 s) : Goes W s0 (State.latchWin s m q) := by
  unfold State.latchWin
  repeat' first
    | with_reducible assumption
    | intro x
    | lift_lets
    | (with_reducible refine goes_setLdgWin _ _ _ ?_ ?_; exact subT rfl hW)

theorem goes_execCursorWrite {W : List Part} {s0 : State} (m : Master) (v : Word) (s : State) (hW : subParts [.regs, .out, .resp, .ldg, .host, .pba] W = true) (hg : Goes W s0 s) : ∀ t0, execCursorWrite m v s = .next t0 → Goes W s0 t0 := by
  unfold execCursorWrite
  intro t0 e0
  obtain rfl := Host.Outcome.next.inj e0
  clear e0
  repeat' first
    | with_reducible assumption
    | lift_lets
    | (with_reducible refine goes_answer _ _ ?_ ?_; exact subT rfl hW)
    | (with_reducible refine goes_writeAt _ _ _ _ _ _ ?_ (fun _ _ => ?_) ?_; exact subT rfl hW)
    | (with_reducible refine goes_latchWin _ _ _ ?_ ?_; exact subT rfl hW)

theorem goes_win7Read {W : List Part} {s0 : State} (s : State) (m : Master) (hW : subParts [.resp, .ldg] W = true) (hg : Goes W s0 s) : Goes W s0 (State.win7Read s m) := by
  unfold State.win7Read
  repeat' first
    | with_reducible assumption
    | (intro x; refine Goes.cut (W := W) (s0 := s0) (x := x) ?_ ?_; rotate_left; clear_value x; intro hx; rotate_right)
    | intro x
    | lift_lets
    | (with_reducible refine goes_answer _ _ ?_ ?_; exact subT rfl hW)
    | (with_reducible refine goes_latchWin _ _ _ ?_ ?_; exact subT rfl hW)
    | (with_reducible refine Goes.ite ?_ ?_)

theorem goes_execWindowAutoRead {W : List Part} {s0 : State} (m : Master) (s : State) (hW : subParts [.regs, .out, .resp, .ldg, .host, .pba] W = true) (hg : Goes W s0 s) : ∀ t0, execWindowAutoRead m s = .next t0 → Goes W s0 t0 := by
  unfold execWindowAutoRead
  intro t0 e0
  obtain rfl := Host.Outcome.next.inj e0
  clear e0
  repeat' first
    | with_reducible assumption
    | lift_lets
    | (with_reducible refine goes_readAt _ _ _ _ _ ?_ (fun _ _ => ?_) ?_; exact subT rfl hW)
    | (with_reducible refine goes_win7Read _ _ ?_ ?_; exact subT rfl hW)

theorem goes_execLedgerRead {W : List Part} {s0 : State} (tag : Word) (s : State) (hW : subParts [.regs, .out, .mbx, .ldg, .pba] W = true) (hg : Goes W s0 s) : ∀ t0, execLedgerRead tag s = .next t0 → Goes W s0 t0 := by
  unfold execLedgerRead
  intro t0 e0
  obtain rfl := Host.Outcome.next.inj e0
  clear e0
  repeat' first
    | with_reducible assumption
    | intro x
    | lift_lets
    | (with_reducible refine goes_reply _ _ _ _ _ ?_ ?_; exact subT rfl hW)
    | (with_reducible refine goes_withCmd _ _ _ _ ?_ (fun _ _ _ => ?_) ?_; exact subT rfl hW)
    | (with_reducible refine Goes.ite ?_ ?_)

theorem goes_execLedgerNote {W : List Part} {s0 : State} (tag : Word) (s : State) (hW : subParts [.regs, .out, .mbx, .ldg, .pba] W = true) (hg : Goes W s0 s) : ∀ t0, execLedgerNote tag s = .next t0 → Goes W s0 t0 := by
  unfold execLedgerNote
  intro t0 e0
  obtain rfl := Host.Outcome.next.inj e0
  clear e0
  repeat' first
    | with_reducible assumption
    | intro x
    | lift_lets
    | (with_reducible refine goes_ledger _ _ _ _ _ _ _ ?_ ?_; exact subT rfl hW)
    | (with_reducible refine goes_reply _ _ _ _ _ ?_ ?_; exact subT rfl hW)
    | (with_reducible refine goes_withCmd _ _ _ _ ?_ (fun _ _ _ => ?_) ?_; exact subT rfl hW)
    | (with_reducible refine Goes.ite ?_ ?_)

theorem goes_execSeriesRead {W : List Part} {s0 : State} (tag : Word) (s : State) (hW : subParts [.regs, .out, .mbx, .ldg, .pba] W = true) (hg : Goes W s0 s) : ∀ t0, execSeriesRead tag s = .next t0 → Goes W s0 t0 := by
  unfold execSeriesRead
  intro t0 e0
  obtain rfl := Host.Outcome.next.inj e0
  clear e0
  repeat' first
    | with_reducible assumption
    | lift_lets
    | (with_reducible refine goes_reply _ _ _ _ _ ?_ ?_; exact subT rfl hW)
    | (with_reducible refine goes_withCmd _ _ _ _ ?_ (fun _ _ _ => ?_) ?_; exact subT rfl hW)
    | (with_reducible refine Goes.ite ?_ ?_)

theorem goes_execSeriesCfg {W : List Part} {s0 : State} (tag : Word) (s : State) (hW : subParts [.regs, .out, .mbx, .ldg, .pba] W = true) (hg : Goes W s0 s) : ∀ t0, execSeriesCfg tag s = .next t0 → Goes W s0 t0 := by
  unfold execSeriesCfg
  intro t0 e0
  obtain rfl := Host.Outcome.next.inj e0
  clear e0
  repeat' first
    | with_reducible assumption
    | (intro x; refine Goes.cut (W := W) (s0 := s0) (x := x) ?_ ?_; rotate_left; clear_value x; intro hx; rotate_right)
    | intro x
    | lift_lets
    | (with_reducible refine goes_reply _ _ _ _ _ ?_ ?_; exact subT rfl hW)
    | (with_reducible refine goes_withCmd _ _ _ _ ?_ (fun _ _ _ => ?_) ?_; exact subT rfl hW)
    | (with_reducible refine goes_setSeries _ _ _ ?_ ?_; exact subT rfl hW)
    | (with_reducible refine goes_clearSeries _ _ _ ?_ ?_; exact subT rfl hW)
    | (with_reducible refine Goes.ite ?_ ?_)

theorem goes_execSeriesClear {W : List Part} {s0 : State} (tag : Word) (s : State) (hW : subParts [.regs, .out, .mbx, .ldg, .pba] W = true) (hg : Goes W s0 s) : ∀ t0, execSeriesClear tag s = .next t0 → Goes W s0 t0 := by
  unfold execSeriesClear
  intro t0 e0
  obtain rfl := Host.Outcome.next.inj e0
  clear e0
  repeat' first
    | with_reducible assumption
    | lift_lets
    | (with_reducible refine goes_reply _ _ _ _ _ ?_ ?_; exact subT rfl hW)
    | (with_reducible refine goes_withCmd _ _ _ _ ?_ (fun _ _ _ => ?_) ?_; exact subT rfl hW)
    | (with_reducible refine goes_clearSeries _ _ _ ?_ ?_; exact subT rfl hW)
    | (with_reducible refine Goes.ite ?_ ?_)

theorem goes_ldgFlush {W : List Part} {s0 : State} (n : Nat) (s : State) (hW : subParts [.regs, .out, .ldg, .nvs, .pba] W = true) (h : Goes W s0 s) : Goes W s0 (ldgFlush n s) := by
  induction n generalizing s with
  | zero =>
    unfold ldgFlush
    repeat' first
      | assumption
  | succ n ih =>
    unfold ldgFlush
    repeat' first
      | (with_reducible refine ih _ ?_)
      | with_reducible assumption
      | lift_lets
      | (with_reducible refine goes_writeRec _ ?_ ?_; exact subT rfl hW)
      | (with_reducible refine Goes.ite ?_ ?_)

theorem goes_ldgSave {W : List Part} {s0 : State} (s : State) (hW : subParts [.regs, .out, .ldg, .nvs, .pba] W = true) (hg : Goes W s0 s) : Goes W s0 (State.ldgSave s) := by
  unfold State.ldgSave
  repeat' first
    | with_reducible assumption
    | lift_lets
    | (with_reducible refine goes_saveOp _ ?_ ?_; exact subT rfl hW)
    | (with_reducible refine goes_ldgFlush _ _ ?_ ?_; exact subT rfl hW)
    | (with_reducible refine Goes.ite ?_ ?_)

theorem goes_ldgWrite {W : List Part} {s0 : State} (s : State) (m : Master) (off : Nat) (v : Word) (hW : subParts [.regs, .out, .ldg, .pba] W = true) (hg : Goes W s0 s) : GoesO W s0 (State.ldgWrite s m off v) := by
  unfold State.ldgWrite
  repeat' first
    | with_reducible assumption
    | intro x
    | lift_lets
    | (with_reducible refine goes_err _ _ _ _ _ ?_ ?_; exact subT rfl hW)
    | (with_reducible refine goes_setLogStage _ _ _ _ ?_ ?_; exact subT rfl hW)
    | (with_reducible refine goes_logWrite _ _ _ _ ?_ ?_; exact subT rfl hW)
    | (with_reducible refine goes_logSubmit _ _ _ ?_ ?_; exact subT rfl hW)
    | (with_reducible refine goes_clearSeries _ _ _ ?_ ?_; exact subT rfl hW)
    | (with_reducible refine goes_feedSer _ _ _ ?_ ?_; exact subT rfl hW)
    | (with_reducible refine goes_serShape _ _ _ _ ?_ ?_; exact subT rfl hW)
    | (with_reducible refine goes_serCfg _ _ ?_ ?_; exact subT rfl hW)
    | (with_reducible refine goes_setLdgWin _ _ _ ?_ ?_; exact subT rfl hW)
    | (with_reducible refine goes_latchWin _ _ _ ?_ ?_; exact subT rfl hW)
    | (refine GoesO.some ?_)
    | exact GoesO.none
    | (with_reducible refine Goes.ite ?_ ?_)
    | (with_reducible refine GoesO.ite ?_ ?_)

theorem goes_ldgReset {W : List Part} {s0 : State} (s : State) (hW : subParts [.ldg] W = true) (hg : Goes W s0 s) : Goes W s0 (State.ldgReset s) := by
  unfold State.ldgReset
  repeat' first
    | with_reducible assumption
    | intro x
    | lift_lets
    | (fail_if_no_progress (with_reducible refine goes_set_ldg _ _ ?_ ?_; exact subT rfl hW))

end Sys2Proof.Machine
end

