-- ==== Sys2Proof/Laws/GoesNetTime.lean ====
section
/-! SUPPORT. What the operations of Machine/NetTime.lean can change: one lemma each. -/

set_option linter.unreachableTactic false
set_option linter.unusedTactic false

namespace Sys2Proof.Machine

open Sys2Proof

theorem goes_setAnchor {W : List Part} {s0 : State} (s : State) (off : Nat) (c : DWord) (hW : subParts [.regs] W = true) (hg : Goes W s0 s) : Goes W s0 (State.setAnchor s off c) := by
  unfold State.setAnchor
  repeat' first
    | with_reducible assumption
    | (intro x; refine Goes.cut (W := W) (s0 := s0) (x := x) ?_ ?_; rotate_left; clear_value x; intro hx; rotate_right)
    | lift_lets
    | (with_reducible refine goes_wr _ _ _ ?_ ?_; exact subT rfl hW)
    | (with_reducible refine goes_wr64 _ _ _ _ ?_ ?_; exact subT rfl hW)

theorem goes_setRate {W : List Part} {s0 : State} (s : State) (c : DWord) (v : Int) (hW : subParts [.regs] W = true) (hg : Goes W s0 s) : Goes W s0 (State.setRate s c v) := by
  unfold State.setRate
  repeat' first
    | with_reducible assumption
    | lift_lets
    | (with_reducible refine goes_wr _ _ _ ?_ ?_; exact subT rfl hW)
    | (with_reducible refine goes_setAnchor _ _ _ ?_ ?_; exact subT rfl hW)

theorem goes_setTm {W : List Part} {s0 : State} (s : State) (st : Nat) (hW : subParts [.regs] W = true) (hg : Goes W s0 s) : Goes W s0 (State.setTm s st) := by
  unfold State.setTm
  repeat' first
    | with_reducible assumption
    | (with_reducible refine goes_wf _ _ _ _ _ ?_ ?_; exact subT rfl hW)

theorem goes_evLocked {W : List Part} {s0 : State} (s : State) (hW : subParts [.regs, .out, .mbx, .ldg, .pba] W = true) (hg : Goes W s0 s) : Goes W s0 (State.evLocked s) := by
  unfold State.evLocked
  repeat' first
    | with_reducible assumption
    | lift_lets
    | (with_reducible refine goes_irq _ _ _ ?_ ?_; exact subT rfl hW)
    | (with_reducible refine goes_event _ _ _ _ ?_ ?_; exact subT rfl hW)

theorem goes_toTm {W : List Part} {s0 : State} (s : State) (st : Nat) (hW : subParts [.regs, .out, .mbx, .ldg, .pba] W = true) (hg : Goes W s0 s) : Goes W s0 (State.toTm s st) := by
  unfold State.toTm
  repeat' first
    | with_reducible assumption
    | (intro x; refine Goes.cut (W := W) (s0 := s0) (x := x) ?_ ?_; rotate_left; clear_value x; intro hx; rotate_right)
    | lift_lets
    | (with_reducible refine goes_setTm _ _ ?_ ?_; exact subT rfl hW)
    | (with_reducible refine goes_evLocked _ ?_ ?_; exact subT rfl hW)
    | (with_reducible refine Goes.ite ?_ ?_)

theorem goes_loseSource {W : List Part} {s0 : State} (s : State) (c : DWord) (cause : Nat) (hW : subParts [.regs, .out, .cnt, .mbx, .ldg, .ntm, .pba] W = true) (hg : Goes W s0 s) : Goes W s0 (State.loseSource s c cause) := by
  unfold State.loseSource
  repeat' first
    | with_reducible assumption
    | (intro x; refine Goes.cut (W := W) (s0 := s0) (x := x) ?_ ?_; rotate_left; clear_value x; intro hx; rotate_right)
    | intro x
    | lift_lets
    | (with_reducible refine goes_bump _ _ _ ?_ ?_; exact subT rfl hW)
    | (with_reducible refine goes_irq _ _ _ ?_ ?_; exact subT rfl hW)
    | (with_reducible refine goes_at _ _ ?_ ?_; exact subT rfl hW)
    | (with_reducible refine goes_event _ _ _ _ ?_ ?_; exact subT rfl hW)
    | (with_reducible refine goes_setRate _ _ _ ?_ ?_; exact subT rfl hW)
    | (with_reducible refine goes_setTm _ _ ?_ ?_; exact subT rfl hW)
    | (with_reducible refine Goes.ite ?_ ?_)
    | (fail_if_no_progress (with_reducible refine goes_set_ntm _ _ ?_ ?_; exact subT rfl hW))

theorem goes_ntmDisable {W : List Part} {s0 : State} (s : State) (hW : subParts [.regs, .out, .cnt, .mbx, .ldg, .ntm, .pba] W = true) (hg : Goes W s0 s) : Goes W s0 (State.ntmDisable s) := by
  unfold State.ntmDisable
  repeat' first
    | with_reducible assumption
    | intro x
    | lift_lets
    | (with_reducible refine goes_loseSource _ _ _ ?_ ?_; exact subT rfl hW)
    | (fail_if_no_progress (with_reducible refine goes_set_ntm _ _ ?_ ?_; exact subT rfl hW))

theorem goes_stepped {W : List Part} {s0 : State} (s : State) (e : Int) (hW : subParts [.regs, .out, .mbx, .ldg, .pba] W = true) (hg : Goes W s0 s) : Goes W s0 (State.stepped s e) := by
  unfold State.stepped
  repeat' first
    | with_reducible assumption
    | lift_lets
    | (with_reducible refine goes_bump _ _ _ ?_ ?_; exact subT rfl hW)
    | (with_reducible refine goes_irq _ _ _ ?_ ?_; exact subT rfl hW)
    | (with_reducible refine goes_event _ _ _ _ ?_ ?_; exact subT rfl hW)

theorem goes_stepNow {W : List Part} {s0 : State} (s : State) (e : Int) (c : DWord) (hW : subParts [.regs, .ntm] W = true) (hg : Goes W s0 s) : Goes W s0 (State.stepNow s e c) := by
  unfold State.stepNow
  repeat' first
    | with_reducible assumption
    | (intro x; refine Goes.cut (W := W) (s0 := s0) (x := x) ?_ ?_; rotate_left; clear_value x; intro hx; rotate_right)
    | intro x
    | lift_lets
    | (with_reducible refine goes_setAnchor _ _ _ ?_ ?_; exact subT rfl hW)
    | (fail_if_no_progress (with_reducible refine goes_set_ntm _ _ ?_ ?_; exact subT rfl hW))

theorem goes_measureFirst {W : List Part} {s0 : State} (s : State) (e : Int) (c : DWord) (hW : subParts [.regs, .out, .mbx, .ldg, .ntm, .pba] W = true) (hg : Goes W s0 s) : Goes W s0 (State.measureFirst s e c) := by
  unfold State.measureFirst
  repeat' first
    | with_reducible assumption
    | (intro x; refine Goes.cut (W := W) (s0 := s0) (x := x) ?_ ?_; rotate_left; clear_value x; intro hx; rotate_right)
    | intro x
    | lift_lets
    | (with_reducible refine goes_setTm _ _ ?_ ?_; exact subT rfl hW)
    | (with_reducible refine goes_stepped _ _ ?_ ?_; exact subT rfl hW)
    | (with_reducible refine goes_stepNow _ _ _ ?_ ?_; exact subT rfl hW)
    | (fail_if_no_progress (with_reducible refine goes_set_ntm _ _ ?_ ?_; exact subT rfl hW))

theorem goes_servoState {W : List Part} {s0 : State} (s : State) (ok : Bool) (g : Nat) (hW : subParts [.regs, .out, .mbx, .ldg, .pba] W = true) (hg : Goes W s0 s) : Goes W s0 (State.servoState s ok g) := by
  unfold State.servoState
  repeat' first
    | with_reducible assumption
    | lift_lets
    | (with_reducible refine goes_toTm _ _ ?_ ?_; exact subT rfl hW)
    | (with_reducible refine Goes.ite ?_ ?_)

theorem goes_servo {W : List Part} {s0 : State} (s : State) (e : Int) (d : Int) (c : DWord) (hW : subParts [.regs, .out, .mbx, .ldg, .ntm, .pba] W = true) (hg : Goes W s0 s) : Goes W s0 (State.servo s e d c) := by
  unfold State.servo
  repeat' first
    | with_reducible assumption
    | (intro x; refine Goes.cut (W := W) (s0 := s0) (x := x) ?_ ?_; rotate_left; clear_value x; intro hx; rotate_right)
    | intro x
    | lift_lets
    | (with_reducible refine goes_wr _ _ _ ?_ ?_; exact subT rfl hW)
    | (with_reducible refine goes_setRate _ _ _ ?_ ?_; exact subT rfl hW)
    | (with_reducible refine goes_servoState _ _ _ ?_ ?_; exact subT rfl hW)
    | (fail_if_no_progress (with_reducible refine goes_set_ntm _ _ ?_ ?_; exact subT rfl hW))

theorem goes_measure {W : List Part} {s0 : State} (s : State) (e : Int) (c : DWord) (hW : subParts [.regs, .out, .mbx, .ldg, .ntm, .pba] W = true) (hg : Goes W s0 s) : Goes W s0 (State.measure s e c) := by
  unfold State.measure
  repeat' first
    | with_reducible assumption
    | intro x
    | lift_lets
    | (with_reducible refine goes_wr _ _ _ ?_ ?_; exact subT rfl hW)
    | (with_reducible refine goes_setTm _ _ ?_ ?_; exact subT rfl hW)
    | (with_reducible refine goes_measureFirst _ _ _ ?_ ?_; exact subT rfl hW)
    | (with_reducible refine goes_servo _ _ _ _ ?_ ?_; exact subT rfl hW)
    | (with_reducible refine Goes.ite ?_ ?_)
    | (fail_if_no_progress (with_reducible refine goes_set_ntm _ _ ?_ ?_; exact subT rfl hW))

theorem goes_setBase {W : List Part} {s0 : State} (s : State) (b : Option Nat) (hW : subParts [.ntm] W = true) (hg : Goes W s0 s) : Goes W s0 (State.setBase s b) := by
  unfold State.setBase
  repeat' first
    | with_reducible assumption
    | intro x
    | lift_lets
    | (fail_if_no_progress (with_reducible refine goes_set_ntm _ _ ?_ ?_; exact subT rfl hW))

theorem goes_timeStep {W : List Part} {s0 : State} (s : State) (c : DWord) (hW : subParts [.regs, .out, .mbx, .ldg, .ntm, .pba] W = true) (hg : Goes W s0 s) : Goes W s0 (State.timeStep s c) := by
  unfold State.timeStep
  repeat' first
    | with_reducible assumption
    | (intro x; refine Goes.cut (W := W) (s0 := s0) (x := x) ?_ ?_; rotate_left; clear_value x; intro hx; rotate_right)
    | intro x
    | lift_lets
    | (with_reducible refine goes_wr _ _ _ ?_ ?_; exact subT rfl hW)
    | (with_reducible refine goes_setAnchor _ _ _ ?_ ?_; exact subT rfl hW)
    | (with_reducible refine goes_stepped _ _ ?_ ?_; exact subT rfl hW)
    | (with_reducible refine Goes.ite ?_ ?_)
    | split
    | (fail_if_no_progress (with_reducible refine goes_set_ntm _ _ ?_ ?_; exact subT rfl hW))

theorem goes_execTimeStep {W : List Part} {s0 : State} (c : DWord) (s : State) (hW : subParts [.regs, .out, .cnt, .mbx, .ldg, .ntm, .pba] W = true) (hg : Goes W s0 s) : ∀ t0, execTimeStep c s = .next t0 → Goes W s0 t0 := by
  unfold execTimeStep
  intro t0 e0
  obtain rfl := Host.Outcome.next.inj e0
  clear e0
  repeat' first
    | with_reducible assumption
    | lift_lets
    | (with_reducible refine goes_at _ _ ?_ ?_; exact subT rfl hW)
    | (with_reducible refine goes_timeStep _ _ ?_ ?_; exact subT rfl hW)

theorem goes_snap {W : List Part} {s0 : State} (s : State) (c : DWord) (hW : subParts [.regs, .cnt] W = true) (hg : Goes W s0 s) : Goes W s0 (State.snap s c) := by
  unfold State.snap
  repeat' first
    | with_reducible assumption
    | (intro x; refine Goes.cut (W := W) (s0 := s0) (x := x) ?_ ?_; rotate_left; clear_value x; intro hx; rotate_right)
    | intro x
    | lift_lets
    | (with_reducible refine goes_wr _ _ _ ?_ ?_; exact subT rfl hW)
    | (with_reducible refine goes_wr64 _ _ _ _ ?_ ?_; exact subT rfl hW)
    | (with_reducible refine goes_at _ _ ?_ ?_; exact subT rfl hW)

theorem goes_execSnap {W : List Part} {s0 : State} (m : Master) (_v : Word) (c : DWord) (s : State) (hW : subParts [.regs, .out, .resp, .cnt, .host, .pba] W = true) (hg : Goes W s0 s) : ∀ t0, execSnap m _v c s = .next t0 → Goes W s0 t0 := by
  unfold execSnap
  intro t0 e0
  obtain rfl := Host.Outcome.next.inj e0
  clear e0
  repeat' first
    | with_reducible assumption
    | lift_lets
    | (with_reducible refine goes_answer _ _ ?_ ?_; exact subT rfl hW)
    | (with_reducible refine goes_writeAt _ _ _ _ _ _ ?_ (fun _ _ => ?_) ?_; exact subT rfl hW)
    | (with_reducible refine goes_snap _ _ ?_ ?_; exact subT rfl hW)

theorem goes_stepGo {W : List Part} {s0 : State} (s : State) (m : Master) (v : Word) (hW : subParts [.regs, .out, .ntm, .pba] W = true) (hg : Goes W s0 s) : Goes W s0 (State.stepGo s m v) := by
  unfold State.stepGo
  repeat' first
    | with_reducible assumption
    | intro x
    | lift_lets
    | (with_reducible refine goes_wr _ _ _ ?_ ?_; exact subT rfl hW)
    | (with_reducible refine goes_err _ _ _ _ _ ?_ ?_; exact subT rfl hW)
    | (with_reducible refine Goes.ite ?_ ?_)
    | (fail_if_no_progress (with_reducible refine goes_set_ntm _ _ ?_ ?_; exact subT rfl hW))

theorem goes_execStepGo {W : List Part} {s0 : State} (m : Master) (v : Word) (s : State) (hW : subParts [.regs, .out, .resp, .ntm, .host, .pba] W = true) (hg : Goes W s0 s) : ∀ t0, execStepGo m v s = .next t0 → Goes W s0 t0 := by
  unfold execStepGo
  intro t0 e0
  obtain rfl := Host.Outcome.next.inj e0
  clear e0
  repeat' first
    | with_reducible assumption
    | lift_lets
    | (with_reducible refine goes_answer _ _ ?_ ?_; exact subT rfl hW)
    | (with_reducible refine goes_writeAt _ _ _ _ _ _ ?_ (fun _ _ => ?_) ?_; exact subT rfl hW)
    | (with_reducible refine goes_stepGo _ _ _ ?_ ?_; exact subT rfl hW)

theorem goes_stageAnchor {W : List Part} {s0 : State} (s : State) (m : Master) (off : Nat) (i : Nat) (v : Word) (hW : subParts [.regs, .out, .ntm, .pba] W = true) (hg : Goes W s0 s) : Goes W s0 (State.stageAnchor s m off i v) := by
  unfold State.stageAnchor
  repeat' first
    | with_reducible assumption
    | intro x
    | lift_lets
    | (with_reducible refine goes_err _ _ _ _ _ ?_ ?_; exact subT rfl hW)
    | (with_reducible refine Goes.ite ?_ ?_)
    | (fail_if_no_progress (with_reducible refine goes_set_ntm _ _ ?_ ?_; exact subT rfl hW))

theorem goes_offsetLoad {W : List Part} {s0 : State} (s : State) (m : Master) (v : Word) (c : DWord) (hW : subParts [.regs, .out, .cnt, .ntm, .pba] W = true) (hg : Goes W s0 s) : Goes W s0 (State.offsetLoad s m v c) := by
  unfold State.offsetLoad
  repeat' first
    | with_reducible assumption
    | (intro x; refine Goes.cut (W := W) (s0 := s0) (x := x) ?_ ?_; rotate_left; clear_value x; intro hx; rotate_right)
    | intro x
    | lift_lets
    | (with_reducible refine goes_wr _ _ _ ?_ ?_; exact subT rfl hW)
    | (with_reducible refine goes_err _ _ _ _ _ ?_ ?_; exact subT rfl hW)
    | (with_reducible refine goes_at _ _ ?_ ?_; exact subT rfl hW)
    | (with_reducible refine goes_setTm _ _ ?_ ?_; exact subT rfl hW)
    | (with_reducible refine Goes.ite ?_ ?_)
    | (fail_if_no_progress (with_reducible refine goes_set_ntm _ _ ?_ ?_; exact subT rfl hW))

theorem goes_execOffsetLoad {W : List Part} {s0 : State} (m : Master) (v : Word) (c : DWord) (s : State) (hW : subParts [.regs, .out, .resp, .cnt, .ntm, .host, .pba] W = true) (hg : Goes W s0 s) : ∀ t0, execOffsetLoad m v c s = .next t0 → Goes W s0 t0 := by
  unfold execOffsetLoad
  intro t0 e0
  obtain rfl := Host.Outcome.next.inj e0
  clear e0
  repeat' first
    | with_reducible assumption
    | lift_lets
    | (with_reducible refine goes_answer _ _ ?_ ?_; exact subT rfl hW)
    | (with_reducible refine goes_writeAt _ _ _ _ _ _ ?_ (fun _ _ => ?_) ?_; exact subT rfl hW)
    | (with_reducible refine goes_offsetLoad _ _ _ _ ?_ ?_; exact subT rfl hW)

theorem goes_execCntRead {W : List Part} {s0 : State} (m : Master) (c : DWord) (s : State) (hW : subParts [.regs, .out, .resp, .cnt, .ntm, .host, .pba] W = true) (hg : Goes W s0 s) : ∀ t0, execCntRead m c s = .next t0 → Goes W s0 t0 := by
  unfold execCntRead
  intro t0 e0
  obtain rfl := Host.Outcome.next.inj e0
  clear e0
  repeat' first
    | with_reducible assumption
    | (intro x; refine Goes.cut (W := W) (s0 := s0) (x := x) ?_ ?_; rotate_left; clear_value x; intro hx; rotate_right)
    | intro x
    | lift_lets
    | (with_reducible refine goes_answer _ _ ?_ ?_; exact subT rfl hW)
    | (with_reducible refine goes_at _ _ ?_ ?_; exact subT rfl hW)
    | (with_reducible refine goes_readAt _ _ _ _ _ ?_ (fun _ _ => ?_) ?_; exact subT rfl hW)
    | (fail_if_no_progress (with_reducible refine goes_set_ntm _ _ ?_ ?_; exact subT rfl hW))

theorem goes_tickRead {W : List Part} {s0 : State} (s : State) (hW : subParts [.resp, .ntm] W = true) (hg : Goes W s0 s) : Goes W s0 (State.tickRead s) := by
  unfold State.tickRead
  repeat' first
    | with_reducible assumption
    | intro x
    | lift_lets
    | (with_reducible refine goes_answer _ _ ?_ ?_; exact subT rfl hW)
    | (fail_if_no_progress (with_reducible refine goes_set_ntm _ _ ?_ ?_; exact subT rfl hW))

theorem goes_execTickRead {W : List Part} {s0 : State} (m : Master) (s : State) (hW : subParts [.regs, .out, .resp, .ntm, .host, .pba] W = true) (hg : Goes W s0 s) : ∀ t0, execTickRead m s = .next t0 → Goes W s0 t0 := by
  unfold execTickRead
  intro t0 e0
  obtain rfl := Host.Outcome.next.inj e0
  clear e0
  repeat' first
    | with_reducible assumption
    | lift_lets
    | (with_reducible refine goes_readAt _ _ _ _ _ ?_ (fun _ _ => ?_) ?_; exact subT rfl hW)
    | (with_reducible refine goes_tickRead _ ?_ ?_; exact subT rfl hW)

theorem goes_ppsMeasure {W : List Part} {s0 : State} (s : State) (e : Int) (c : DWord) (hW : subParts [.regs, .out, .mbx, .ldg, .ntm, .pba] W = true) (hg : Goes W s0 s) : Goes W s0 (State.ppsMeasure s e c) := by
  unfold State.ppsMeasure
  repeat' first
    | with_reducible assumption
    | lift_lets
    | (with_reducible refine goes_measure _ _ _ ?_ ?_; exact subT rfl hW)
    | (with_reducible refine goes_setBase _ _ ?_ ?_; exact subT rfl hW)

theorem goes_todReply {W : List Part} {s0 : State} (s : State) (status : Nat) (param : Bytes) (hW : subParts [.regs, .out, .mbx, .ntm, .pba] W = true) (hg : Goes W s0 s) : Goes W s0 (State.todReply s status param) := by
  unfold State.todReply
  repeat' first
    | with_reducible assumption
    | (intro x; refine Goes.cut (W := W) (s0 := s0) (x := x) ?_ ?_; rotate_left; clear_value x; intro hx; rotate_right)
    | intro x
    | lift_lets
    | (with_reducible refine goes_reply _ _ _ _ _ ?_ ?_; exact subT rfl hW)
    | split
    | (fail_if_no_progress (with_reducible refine goes_set_ntm _ _ ?_ ?_; exact subT rfl hW))

theorem goes_ppsHeld {W : List Part} {s0 : State} (s : State) (own : Int) (c : DWord) (hW : subParts [.regs, .out, .mbx, .ldg, .ntm, .pba] W = true) (hg : Goes W s0 s) : Goes W s0 (State.ppsHeld s own c) := by
  unfold State.ppsHeld
  repeat' first
    | with_reducible assumption
    | (intro x; refine Goes.cut (W := W) (s0 := s0) (x := x) ?_ ?_; rotate_left; clear_value x; intro hx; rotate_right)
    | intro x
    | lift_lets
    | (with_reducible refine goes_irq _ _ _ ?_ ?_; exact subT rfl hW)
    | (with_reducible refine goes_ppsMeasure _ _ _ ?_ ?_; exact subT rfl hW)
    | (with_reducible refine Goes.ite ?_ ?_)
    | (fail_if_no_progress (with_reducible refine goes_set_ntm _ _ ?_ ?_; exact subT rfl hW))

theorem goes_todHeld {W : List Part} {s0 : State} (s : State) (own : Int) (t : TodWait) (hW : subParts [.regs, .out, .mbx, .ntm, .pba] W = true) (hg : Goes W s0 s) : Goes W s0 (State.todHeld s own t) := by
  unfold State.todHeld
  repeat' first
    | with_reducible assumption
    | intro x
    | lift_lets
    | (with_reducible refine goes_err _ _ _ _ _ ?_ ?_; exact subT rfl hW)
    | (with_reducible refine goes_todReply _ _ _ ?_ ?_; exact subT rfl hW)
    | (with_reducible refine Goes.ite ?_ ?_)
    | (fail_if_no_progress (with_reducible refine goes_set_ntm _ _ ?_ ?_; exact subT rfl hW))

theorem goes_ppsEdge {W : List Part} {s0 : State} (s : State) (c : DWord) (hW : subParts [.regs, .out, .cnt, .mbx, .ldg, .ntm, .pba] W = true) (hg : Goes W s0 s) : Goes W s0 (State.ppsEdge s c) := by
  unfold State.ppsEdge
  repeat' first
    | with_reducible assumption
    | (intro x; refine Goes.cut (W := W) (s0 := s0) (x := x) ?_ ?_; rotate_left; clear_value x; intro hx; rotate_right)
    | intro x
    | lift_lets
    | (with_reducible refine goes_wr _ _ _ ?_ ?_; exact subT rfl hW)
    | (with_reducible refine goes_wr64 _ _ _ _ ?_ ?_; exact subT rfl hW)
    | (with_reducible refine goes_at _ _ ?_ ?_; exact subT rfl hW)
    | (with_reducible refine goes_ppsMeasure _ _ _ ?_ ?_; exact subT rfl hW)
    | (with_reducible refine goes_todReply _ _ _ ?_ ?_; exact subT rfl hW)
    | (with_reducible refine goes_ppsHeld _ _ _ ?_ ?_; exact subT rfl hW)
    | (with_reducible refine goes_todHeld _ _ _ ?_ ?_; exact subT rfl hW)
    | (with_reducible refine Goes.ite ?_ ?_)
    | split
    | (fail_if_no_progress (with_reducible refine goes_set_ntm _ _ ?_ ?_; exact subT rfl hW))
    | dsimp only
    | (dsimp +zetaDelta only)

theorem goes_execPpsEdge {W : List Part} {s0 : State} (rising : Bool) (c : DWord) (s : State) (hW : subParts [.regs, .out, .cnt, .mbx, .ldg, .ntm, .pba] W = true) (hg : Goes W s0 s) : ∀ t0, execPpsEdge rising c s = .next t0 → Goes W s0 t0 := by
  unfold execPpsEdge
  intro t0 e0
  obtain rfl := Host.Outcome.next.inj e0
  clear e0
  repeat' first
    | with_reducible assumption
    | lift_lets
    | (with_reducible refine goes_at _ _ ?_ ?_; exact subT rfl hW)
    | (with_reducible refine goes_ppsEdge _ _ ?_ ?_; exact subT rfl hW)
    | (with_reducible refine Goes.ite ?_ ?_)

theorem goes_execPpsLost {W : List Part} {s0 : State} (c : DWord) (s : State) (hW : subParts [.regs, .out, .cnt, .mbx, .ldg, .ntm, .pba] W = true) (hg : Goes W s0 s) : ∀ t0, execPpsLost c s = .next t0 → Goes W s0 t0 := by
  unfold execPpsLost
  intro t0 e0
  obtain rfl := Host.Outcome.next.inj e0
  clear e0
  repeat' first
    | with_reducible assumption
    | (intro x; refine Goes.cut (W := W) (s0 := s0) (x := x) ?_ ?_; rotate_left; clear_value x; intro hx; rotate_right)
    | intro x
    | lift_lets
    | (with_reducible refine goes_irq _ _ _ ?_ ?_; exact subT rfl hW)
    | (with_reducible refine goes_at _ _ ?_ ?_; exact subT rfl hW)
    | (with_reducible refine goes_loseSource _ _ _ ?_ ?_; exact subT rfl hW)
    | (with_reducible refine Goes.ite ?_ ?_)
    | (fail_if_no_progress (with_reducible refine goes_set_ntm _ _ ?_ ?_; exact subT rfl hW))

theorem goes_execTodTimeout {W : List Part} {s0 : State} (c : DWord) (s : State) (hW : subParts [.regs, .out, .cnt, .mbx, .ntm, .pba] W = true) (hg : Goes W s0 s) : ∀ t0, execTodTimeout c s = .next t0 → Goes W s0 t0 := by
  unfold execTodTimeout
  intro t0 e0
  obtain rfl := Host.Outcome.next.inj e0
  clear e0
  repeat' first
    | with_reducible assumption
    | lift_lets
    | (with_reducible refine goes_err _ _ _ _ _ ?_ ?_; exact subT rfl hW)
    | (with_reducible refine goes_at _ _ ?_ ?_; exact subT rfl hW)
    | (with_reducible refine goes_todReply _ _ _ ?_ ?_; exact subT rfl hW)
    | (with_reducible refine Goes.ite ?_ ?_)
    | split

theorem goes_execTodSet {W : List Part} {s0 : State} (tag : Word) (c : DWord) (s : State) (hW : subParts [.regs, .out, .cnt, .mbx, .ldg, .ntm, .pba] W = true) (hg : Goes W s0 s) : ∀ t0, execTodSet tag c s = .next t0 → Goes W s0 t0 := by
  unfold execTodSet
  intro t0 e0
  obtain rfl := Host.Outcome.next.inj e0
  clear e0
  repeat' first
    | with_reducible assumption
    | (intro x; refine Goes.cut (W := W) (s0 := s0) (x := x) ?_ ?_; rotate_left; clear_value x; intro hx; rotate_right)
    | intro x
    | lift_lets
    | (with_reducible refine goes_at _ _ ?_ ?_; exact subT rfl hW)
    | (with_reducible refine goes_reply _ _ _ _ _ ?_ ?_; exact subT rfl hW)
    | (with_reducible refine goes_defer _ _ ?_ ?_; exact subT rfl hW)
    | (with_reducible refine goes_withCmd _ _ _ _ ?_ (fun _ _ _ => ?_) ?_; exact subT rfl hW)
    | (with_reducible refine goes_todReply _ _ _ ?_ ?_; exact subT rfl hW)
    | (with_reducible refine Goes.ite ?_ ?_)
    | (fail_if_no_progress (with_reducible refine goes_set_ntm _ _ ?_ ?_; exact subT rfl hW))

theorem goes_execTimeGet {W : List Part} {s0 : State} (tag : Word) (c : DWord) (s : State) (hW : subParts [.regs, .out, .cnt, .mbx, .ldg, .pba] W = true) (hg : Goes W s0 s) : ∀ t0, execTimeGet tag c s = .next t0 → Goes W s0 t0 := by
  unfold execTimeGet
  intro t0 e0
  obtain rfl := Host.Outcome.next.inj e0
  clear e0
  repeat' first
    | with_reducible assumption
    | (intro x; refine Goes.cut (W := W) (s0 := s0) (x := x) ?_ ?_; rotate_left; clear_value x; intro hx; rotate_right)
    | lift_lets
    | (with_reducible refine goes_reply _ _ _ _ _ ?_ ?_; exact subT rfl hW)
    | (with_reducible refine goes_withCmd _ _ _ _ ?_ (fun _ _ _ => ?_) ?_; exact subT rfl hW)
    | (with_reducible refine goes_snap _ _ ?_ ?_; exact subT rfl hW)

theorem goes_execTimeSrc {W : List Part} {s0 : State} (tag : Word) (s : State) (hW : subParts [.regs, .out, .mbx, .ldg, .pba] W = true) (hg : Goes W s0 s) : ∀ t0, execTimeSrc tag s = .next t0 → Goes W s0 t0 := by
  unfold execTimeSrc
  intro t0 e0
  obtain rfl := Host.Outcome.next.inj e0
  clear e0
  repeat' first
    | with_reducible assumption
    | lift_lets
    | (with_reducible refine goes_wf _ _ _ _ _ ?_ ?_; exact subT rfl hW)
    | (with_reducible refine goes_reply _ _ _ _ _ ?_ ?_; exact subT rfl hW)
    | (with_reducible refine goes_withCmd _ _ _ _ ?_ (fun _ _ _ => ?_) ?_; exact subT rfl hW)
    | (with_reducible refine Goes.ite ?_ ?_)

theorem goes_ntmWrite {W : List Part} {s0 : State} (s : State) (m : Master) (off : Nat) (v : Word) (hW : subParts [.regs, .out, .cnt, .ntm, .pba] W = true) (hg : Goes W s0 s) : GoesO W s0 (State.ntmWrite s m off v) := by
  unfold State.ntmWrite
  repeat' first
    | with_reducible assumption
    | intro x
    | lift_lets
    | (with_reducible refine goes_wr _ _ _ ?_ ?_; exact subT rfl hW)
    | (with_reducible refine goes_err _ _ _ _ _ ?_ ?_; exact subT rfl hW)
    | (with_reducible refine goes_setRate _ _ _ ?_ ?_; exact subT rfl hW)
    | (with_reducible refine goes_snap _ _ ?_ ?_; exact subT rfl hW)
    | (with_reducible refine goes_stepGo _ _ _ ?_ ?_; exact subT rfl hW)
    | (with_reducible refine goes_stageAnchor _ _ _ _ _ ?_ ?_; exact subT rfl hW)
    | (with_reducible refine goes_offsetLoad _ _ _ _ ?_ ?_; exact subT rfl hW)
    | (refine GoesO.some ?_)
    | exact GoesO.none
    | (with_reducible refine Goes.ite ?_ ?_)
    | (with_reducible refine GoesO.ite ?_ ?_)
    | (fail_if_no_progress (with_reducible refine goes_set_ntm _ _ ?_ ?_; exact subT rfl hW))

theorem goes_ntmReset {W : List Part} {s0 : State} (s : State) (st : Nat) (hW : subParts [.regs, .out, .mbx, .ntm, .pba] W = true) (hg : Goes W s0 s) : Goes W s0 (State.ntmReset s st) := by
  unfold State.ntmReset
  repeat' first
    | with_reducible assumption
    | (intro x; refine Goes.cut (W := W) (s0 := s0) (x := x) ?_ ?_; rotate_left; clear_value x; intro hx; rotate_right)
    | intro x
    | lift_lets
    | (with_reducible refine goes_setTm _ _ ?_ ?_; exact subT rfl hW)
    | (with_reducible refine goes_todReply _ _ _ ?_ ?_; exact subT rfl hW)
    | (fail_if_no_progress (with_reducible refine goes_set_ntm _ _ ?_ ?_; exact subT rfl hW))

end Sys2Proof.Machine
end

