-- ==== Sys2Proof/Laws/GoesRadio.lean ====
section
/-! SUPPORT. What the operations of Machine/Radio.lean can change: one lemma each. -/

set_option linter.unreachableTactic false
set_option linter.unusedTactic false

namespace Sys2Proof.Machine

open Sys2Proof

theorem goes_setRadio {W : List Part} {s0 : State} (s : State) (r : Nat) (x : Rad) (hW : subParts [.rad] W = true) (hg : Goes W s0 s) : Goes W s0 (State.setRadio s r x) := by
  unfold State.setRadio
  repeat' first
    | with_reducible assumption
    | (fail_if_no_progress (with_reducible refine goes_set_rad _ _ ?_ ?_; exact subT rfl hW))

theorem goes_modRadio {W : List Part} {s0 : State} (s : State) (r : Nat) (f : Rad → Rad) (hW : subParts [.rad] W = true) (hg : Goes W s0 s) : Goes W s0 (State.modRadio s r f) := by
  unfold State.modRadio
  repeat' first
    | with_reducible assumption
    | (with_reducible refine goes_setRadio _ _ _ ?_ ?_; exact subT rfl hW)

theorem goes_collected {W : List Part} {s0 : State} (s : State) (b : Bytes) (hW : subParts [.net] W = true) (hg : Goes W s0 s) : Goes W s0 (State.collected s b) := by
  unfold State.collected
  repeat' first
    | with_reducible assumption
    | intro x
    | lift_lets
    | (fail_if_no_progress (with_reducible refine goes_set_net _ _ ?_ ?_; exact subT rfl hW))

theorem goes_txDone {W : List Part} {s0 : State} (s : State) (r : Nat) (x : Tx) (status : Nat) (hW : subParts [.regs, .out, .que, .net, .pba] W = true) (hg : Goes W s0 s) : Goes W s0 (State.txDone s r x status) := by
  unfold State.txDone
  repeat' first
    | with_reducible assumption
    | (intro x; refine Goes.cut (W := W) (s0 := s0) (x := x) ?_ ?_; rotate_left; clear_value x; intro hx; rotate_right)
    | lift_lets
    | (with_reducible refine goes_bumpSat _ _ _ ?_ ?_; exact subT rfl hW)
    | (with_reducible refine goes_irq _ _ _ ?_ ?_; exact subT rfl hW)
    | (with_reducible refine goes_hwPush _ _ _ ?_ ?_; exact subT rfl hW)
    | (with_reducible refine goes_collected _ _ ?_ ?_; exact subT rfl hW)
    | (with_reducible refine Goes.ite ?_ ?_)
    | split

theorem goes_txDoneAll {W : List Part} {s0 : State} (q status : Nat) (l : List Tx) (s : State) (hW : subParts [.regs, .out, .que, .net, .pba] W = true) (h : Goes W s0 s) : Goes W s0 (txDoneAll q status l s) := by
  induction l generalizing s with
  | nil =>
    unfold txDoneAll
    repeat' first
      | assumption
  | cons x r ih =>
    unfold txDoneAll
    repeat' first
      | (with_reducible refine ih _ ?_)
      | with_reducible assumption
      | lift_lets
      | (with_reducible refine goes_txDone _ _ _ _ ?_ ?_; exact subT rfl hW)

theorem goes_txQueue {W : List Part} {s0 : State} (s : State) (r : Nat) (x : Tx) (hW : subParts [.regs, .out, .que, .rad, .net, .pba] W = true) (hg : Goes W s0 s) : Goes W s0 (State.txQueue s r x) := by
  unfold State.txQueue
  repeat' first
    | with_reducible assumption
    | lift_lets
    | (with_reducible refine goes_err _ _ _ _ _ ?_ ?_; exact subT rfl hW)
    | (with_reducible refine goes_modRadio _ _ _ ?_ ?_; exact subT rfl hW)
    | (with_reducible refine goes_txDone _ _ _ _ ?_ ?_; exact subT rfl hW)
    | (with_reducible refine Goes.ite ?_ ?_)

theorem goes_hwTakeEnt {W : List Part} {s0 : State} (s : State) (q : Nat) (hW : subParts [.regs, .out, .que, .pba] W = true) (hg : Goes W s0 s) : Goes W s0 (State.hwTakeEnt s q).1 := by
  unfold State.hwTakeEnt
  repeat' first
    | with_reducible assumption
    | (with_reducible refine goes_qadvance _ _ _ _ ?_ ?_; exact subT rfl hW)
    | (with_reducible refine goes_qdiscard _ _ ?_ ?_; exact subT rfl hW)
    | split

theorem goes_hwTakeEnt' {W : List Part} {s0 : State} (s : State) (q : Nat) {u0 : State} {v0 : Option DWord} (e : State.hwTakeEnt s q = (u0, v0)) (hW : subParts [.regs, .out, .que, .pba] W = true) (hg : Goes W s0 s) : Goes W s0 u0 := by
  have := goes_hwTakeEnt s q hW hg
  rw [e] at this
  exact this

theorem goes_txDesc {W : List Part} {s0 : State} (s : State) (r : Nat) (hW : subParts [.regs, .out, .que, .rad, .net, .pba] W = true) (hg : Goes W s0 s) : Goes W s0 (State.txDesc s r) := by
  unfold State.txDesc
  repeat' first
    | with_reducible assumption
    | intro x
    | lift_lets
    | (with_reducible refine goes_err _ _ _ _ _ ?_ ?_; exact subT rfl hW)
    | (with_reducible refine goes_txQueue _ _ _ ?_ ?_; exact subT rfl hW)
    | (with_reducible refine goes_hwTakeEnt _ _ ?_ ?_; exact subT rfl hW)
    | (with_reducible refine Goes.ite ?_ ?_)
    | split

theorem goes_execTxDescriptor {W : List Part} {s0 : State} (radio : Fin 4) (s : State) (hW : subParts [.regs, .out, .que, .rad, .net, .pba] W = true) (hg : Goes W s0 s) : ∀ t0, execTxDescriptor radio s = .next t0 → Goes W s0 t0 := by
  unfold execTxDescriptor
  intro t0 e0
  obtain rfl := Host.Outcome.next.inj e0
  clear e0
  repeat' first
    | with_reducible assumption
    | (with_reducible refine goes_txDesc _ _ ?_ ?_; exact subT rfl hW)

theorem goes_fwSend {W : List Part} {s0 : State} (s : State) (r : Nat) (access : Nat) (ack : Bool) (dl : Option Nat) (psdu : Bytes) (hW : subParts [.regs, .out, .que, .rad, .net, .pba] W = true) (hg : Goes W s0 s) : Goes W s0 (State.fwSend s r access ack dl psdu) := by
  unfold State.fwSend
  repeat' first
    | with_reducible assumption
    | lift_lets
    | (with_reducible refine goes_txQueue _ _ _ ?_ ?_; exact subT rfl hW)
    | (with_reducible refine Goes.ite ?_ ?_)

theorem goes_txExpire {W : List Part} {s0 : State} (s : State) (r : Nat) (hW : subParts [.regs, .out, .que, .rad, .net, .pba] W = true) (hg : Goes W s0 s) : Goes W s0 (State.txExpire s r) := by
  unfold State.txExpire
  repeat' first
    | with_reducible assumption
    | (intro x; refine Goes.cut (W := W) (s0 := s0) (x := x) ?_ ?_; rotate_left; clear_value x; intro hx; rotate_right)
    | intro x
    | lift_lets
    | (with_reducible refine goes_modRadio _ _ _ ?_ ?_; exact subT rfl hW)
    | (with_reducible refine goes_txDoneAll _ _ _ _ ?_ ?_; exact subT rfl hW)

theorem goes_execDeadlineExpiry {W : List Part} {s0 : State} (radio : Fin 4) (s : State) (hW : subParts [.regs, .out, .que, .rad, .net, .pba] W = true) (hg : Goes W s0 s) : ∀ t0, execDeadlineExpiry radio s = .next t0 → Goes W s0 t0 := by
  unfold execDeadlineExpiry
  intro t0 e0
  obtain rfl := Host.Outcome.next.inj e0
  clear e0
  repeat' first
    | with_reducible assumption
    | (with_reducible refine goes_txExpire _ _ ?_ ?_; exact subT rfl hW)

theorem goes_txRestamp {W : List Part} {s0 : State} (s : State) (hW : subParts [.rad] W = true) (hg : Goes W s0 s) : Goes W s0 (State.txRestamp s) := by
  unfold State.txRestamp
  repeat' first
    | with_reducible assumption
    | (fail_if_no_progress (with_reducible refine goes_set_rad _ _ ?_ ?_; exact subT rfl hW))

theorem goes_radDrain {W : List Part} {s0 : State} (s : State) (r : Nat) (hW : subParts [.regs, .out, .que, .rad, .net, .pba] W = true) (hg : Goes W s0 s) : Goes W s0 (State.radDrain s r) := by
  unfold State.radDrain
  repeat' first
    | with_reducible assumption
    | (intro x; refine Goes.cut (W := W) (s0 := s0) (x := x) ?_ ?_; rotate_left; clear_value x; intro hx; rotate_right)
    | intro x
    | lift_lets
    | (with_reducible refine goes_setDrained _ _ ?_ ?_; exact subT rfl hW)
    | (with_reducible refine goes_modRadio _ _ _ ?_ ?_; exact subT rfl hW)
    | (with_reducible refine goes_txDoneAll _ _ _ _ ?_ ?_; exact subT rfl hW)
    | (with_reducible refine Goes.ite ?_ ?_)

theorem goes_txEnd {W : List Part} {s0 : State} (s : State) (r : Nat) (hW : subParts [.regs, .out, .que, .rad, .net, .pba] W = true) (hg : Goes W s0 s) : Goes W s0 (State.txEnd s r) := by
  unfold State.txEnd
  repeat' first
    | with_reducible assumption
    | lift_lets
    | (with_reducible refine goes_modRadio _ _ _ ?_ ?_; exact subT rfl hW)
    | (with_reducible refine goes_txDone _ _ _ _ ?_ ?_; exact subT rfl hW)
    | (with_reducible refine goes_radDrain _ _ ?_ ?_; exact subT rfl hW)
    | (with_reducible refine Goes.ite ?_ ?_)
    | split

theorem goes_execTxFrameEnd {W : List Part} {s0 : State} (radio : Fin 4) (s : State) (hW : subParts [.regs, .out, .que, .rad, .net, .pba] W = true) (hg : Goes W s0 s) : ∀ t0, execTxFrameEnd radio s = .next t0 → Goes W s0 t0 := by
  unfold execTxFrameEnd
  intro t0 e0
  obtain rfl := Host.Outcome.next.inj e0
  clear e0
  repeat' first
    | with_reducible assumption
    | (with_reducible refine goes_txEnd _ _ ?_ ?_; exact subT rfl hW)

theorem goes_radKill {W : List Part} {s0 : State} (s : State) (r : Nat) (hW : subParts [.regs, .out, .que, .rad, .net, .pba] W = true) (hg : Goes W s0 s) : Goes W s0 (State.radKill s r) := by
  unfold State.radKill
  repeat' first
    | with_reducible assumption
    | (intro x; refine Goes.cut (W := W) (s0 := s0) (x := x) ?_ ?_; rotate_left; clear_value x; intro hx; rotate_right)
    | intro x
    | lift_lets
    | (with_reducible refine goes_setRadio _ _ _ ?_ ?_; exact subT rfl hW)
    | (with_reducible refine goes_txDone _ _ _ _ ?_ ?_; exact subT rfl hW)
    | (with_reducible refine goes_radDrain _ _ ?_ ?_; exact subT rfl hW)
    | split
    | (dsimp +zetaDelta only)

theorem goes_radReset {W : List Part} {s0 : State} (s : State) (r : Nat) (hW : subParts [.regs, .out, .que, .rad, .net, .pba] W = true) (hg : Goes W s0 s) : Goes W s0 (State.radReset s r) := by
  unfold State.radReset
  repeat' first
    | with_reducible assumption
    | (intro x; refine Goes.cut (W := W) (s0 := s0) (x := x) ?_ ?_; rotate_left; clear_value x; intro hx; rotate_right)
    | intro x
    | lift_lets
    | (with_reducible refine goes_setRadio _ _ _ ?_ ?_; exact subT rfl hW)
    | (with_reducible refine goes_txDone _ _ _ _ ?_ ?_; exact subT rfl hW)
    | (with_reducible refine goes_txDoneAll _ _ _ _ ?_ ?_; exact subT rfl hW)
    | split

theorem goes_radWrite {W : List Part} {s0 : State} (s : State) (m : Master) (r : Nat) (off : Nat) (v : Word) (hW : subParts [.regs, .out, .pba] W = true) (hg : Goes W s0 s) : GoesO W s0 (State.radWrite s m r off v) := by
  unfold State.radWrite
  repeat' first
    | with_reducible assumption
    | lift_lets
    | (with_reducible refine goes_err _ _ _ _ _ ?_ ?_; exact subT rfl hW)
    | (refine GoesO.some ?_)
    | exact GoesO.none
    | (with_reducible refine GoesO.ite ?_ ?_)

theorem goes_execPaFault {W : List Part} {s0 : State} (radio : Fin 4) (reflects : Bool) (s : State) (hW : subParts [.regs, .out, .rad, .pba] W = true) (hg : Goes W s0 s) : ∀ t0, execPaFault radio reflects s = .next t0 → Goes W s0 t0 := by
  unfold execPaFault
  intro t0 e0
  obtain rfl := Host.Outcome.next.inj e0
  clear e0
  repeat' first
    | with_reducible assumption
    | (intro x; refine Goes.cut (W := W) (s0 := s0) (x := x) ?_ ?_; rotate_left; clear_value x; intro hx; rotate_right)
    | lift_lets
    | (with_reducible refine goes_irq _ _ _ ?_ ?_; exact subT rfl hW)
    | (with_reducible refine goes_modRadio _ _ _ ?_ ?_; exact subT rfl hW)
    | (with_reducible refine Goes.ite ?_ ?_)

theorem goes_chargeDwell {W : List Part} {s0 : State} (s : State) (set : Nat) (c : Nat) (t : Nat) (hW : subParts [.regs, .out, .chn, .pba] W = true) (hg : Goes W s0 s) : Goes W s0 (State.chargeDwell s set c t) := by
  unfold State.chargeDwell
  repeat' first
    | with_reducible assumption
    | (intro x; refine Goes.cut (W := W) (s0 := s0) (x := x) ?_ ?_; rotate_left; clear_value x; intro hx; rotate_right)
    | intro x
    | lift_lets
    | (with_reducible refine goes_irq _ _ _ ?_ ?_; exact subT rfl hW)
    | (with_reducible refine Goes.ite ?_ ?_)
    | (fail_if_no_progress (with_reducible refine goes_set_chn _ _ ?_ ?_; exact subT rfl hW))

theorem goes_chargeDuty {W : List Part} {s0 : State} (s : State) (set : Nat) (sb : Nat) (t : Nat) (hW : subParts [.regs, .out, .chn, .pba] W = true) (hg : Goes W s0 s) : Goes W s0 (State.chargeDuty s set sb t) := by
  unfold State.chargeDuty
  repeat' first
    | with_reducible assumption
    | (intro x; refine Goes.cut (W := W) (s0 := s0) (x := x) ?_ ?_; rotate_left; clear_value x; intro hx; rotate_right)
    | intro x
    | lift_lets
    | (with_reducible refine goes_irq _ _ _ ?_ ?_; exact subT rfl hW)
    | (with_reducible refine Goes.ite ?_ ?_)
    | (fail_if_no_progress (with_reducible refine goes_set_chn _ _ ?_ ?_; exact subT rfl hW))

theorem goes_chargeStore {W : List Part} {s0 : State} (s : State) (set : Nat) (c : Nat) (sb : Nat) (hW : subParts [.regs, .out, .nvs, .pba] W = true) (hg : Goes W s0 s) : Goes W s0 (State.chargeStore s set c sb) := by
  unfold State.chargeStore
  repeat' first
    | with_reducible assumption
    | lift_lets
    | (with_reducible refine goes_nvsWrite _ _ _ _ ?_ ?_; exact subT rfl hW)

theorem goes_charge {W : List Part} {s0 : State} (s : State) (r : Nat) (c : Nat) (t : Nat) (hW : subParts [.regs, .out, .nvs, .chn, .pba] W = true) (hg : Goes W s0 s) : Goes W s0 (State.charge s r c t) := by
  unfold State.charge
  repeat' first
    | with_reducible assumption
    | lift_lets
    | (with_reducible refine goes_chargeDwell _ _ _ _ ?_ ?_; exact subT rfl hW)
    | (with_reducible refine goes_chargeDuty _ _ _ _ ?_ ?_; exact subT rfl hW)
    | (with_reducible refine goes_chargeStore _ _ _ _ ?_ ?_; exact subT rfl hW)

theorem goes_transmit {W : List Part} {s0 : State} (s : State) (r : Nat) (c : Nat) (mode : Nat) (t : Nat) (bcn : Bool) (psdu : Bytes) (hW : subParts [.regs, .out, .nvs, .chn, .pba] W = true) (hg : Goes W s0 s) : Goes W s0 (State.transmit s r c mode t bcn psdu) := by
  unfold State.transmit
  repeat' first
    | with_reducible assumption
    | (intro x; refine Goes.cut (W := W) (s0 := s0) (x := x) ?_ ?_; rotate_left; clear_value x; intro hx; rotate_right)
    | intro x
    | lift_lets
    | (with_reducible refine goes_wf _ _ _ _ _ ?_ ?_; exact subT rfl hW)
    | (with_reducible refine goes_bumpSat _ _ _ ?_ ?_; exact subT rfl hW)
    | (with_reducible refine goes_emit _ _ ?_ ?_; exact subT rfl hW)
    | (with_reducible refine goes_charge _ _ _ _ ?_ ?_; exact subT rfl hW)

theorem goes_heldBack {W : List Part} {s0 : State} (s : State) (r : Nat) (hW : subParts [.regs, .out, .pba] W = true) (hg : Goes W s0 s) : Goes W s0 (State.heldBack s r) := by
  unfold State.heldBack
  repeat' first
    | with_reducible assumption
    | lift_lets
    | (with_reducible refine goes_bumpSat _ _ _ ?_ ?_; exact subT rfl hW)
    | (with_reducible refine goes_irq _ _ _ ?_ ?_; exact subT rfl hW)

theorem goes_clearBins {W : List Part} {s0 : State} (addr : Nat → Nat) (n : Nat) (l : List Nat) (s : State) (hW : subParts [.regs, .out, .nvs, .pba] W = true) (h : Goes W s0 s) : Goes W s0 (clearBins addr n l s) := by
  induction l generalizing s with
  | nil =>
    unfold clearBins
    repeat' first
      | assumption
  | cons x r ih =>
    unfold clearBins
    repeat' first
      | (with_reducible refine ih _ ?_)
      | with_reducible assumption
      | lift_lets
      | (with_reducible refine goes_nvsWrite _ _ _ _ ?_ ?_; exact subT rfl hW)

theorem goes_ledgerAge {W : List Part} {s0 : State} (s : State) (hW : subParts [.regs, .out, .nvs, .chn, .pba] W = true) (hg : Goes W s0 s) : Goes W s0 (State.ledgerAge s) := by
  unfold State.ledgerAge
  repeat' first
    | with_reducible assumption
    | (intro x; refine Goes.cut (W := W) (s0 := s0) (x := x) ?_ ?_; rotate_left; clear_value x; intro hx; rotate_right)
    | intro x
    | lift_lets
    | (with_reducible refine goes_nvsWrite _ _ _ _ ?_ ?_; exact subT rfl hW)
    | (with_reducible refine goes_clearBins _ _ _ _ ?_ ?_; exact subT rfl hW)
    | (with_reducible refine Goes.ite ?_ ?_)
    | (fail_if_no_progress (with_reducible refine goes_set_chn _ _ ?_ ?_; exact subT rfl hW))

theorem goes_execLedgerAge {W : List Part} {s0 : State} (s : State) (hW : subParts [.regs, .out, .nvs, .chn, .pba] W = true) (hg : Goes W s0 s) : ∀ t0, execLedgerAge s = .next t0 → Goes W s0 t0 := by
  unfold execLedgerAge
  intro t0 e0
  obtain rfl := Host.Outcome.next.inj e0
  clear e0
  repeat' first
    | with_reducible assumption
    | (with_reducible refine goes_ledgerAge _ ?_ ?_; exact subT rfl hW)

theorem goes_hopInstall {W : List Part} {s0 : State} (s : State) (l : List Nat) (hW : subParts [.regs, .out, .chn, .pba] W = true) (hg : Goes W s0 s) : Goes W s0 (State.hopInstall s l) := by
  unfold State.hopInstall
  repeat' first
    | with_reducible assumption
    | intro x
    | lift_lets
    | (with_reducible refine goes_err _ _ _ _ _ ?_ ?_; exact subT rfl hW)
    | (with_reducible refine Goes.ite ?_ ?_)
    | (fail_if_no_progress (with_reducible refine goes_set_chn _ _ ?_ ?_; exact subT rfl hW))

theorem goes_chnLoad {W : List Part} {s0 : State} (s : State) (hW : subParts [.regs] W = true) (hg : Goes W s0 s) : Goes W s0 (State.chnLoad s) := by
  unfold State.chnLoad
  repeat' first
    | with_reducible assumption
    | lift_lets
    | (with_reducible refine goes_wb _ _ _ _ ?_ ?_; exact subT rfl hW)
    | (with_reducible refine goes_loadGroup _ _ _ ?_ ?_; exact subT rfl hW)

theorem goes_chnStart {W : List Part} {s0 : State} (s : State) (hW : subParts [.regs, .out, .chn, .pba] W = true) (hg : Goes W s0 s) : Goes W s0 (State.chnStart s) := by
  unfold State.chnStart
  repeat' first
    | with_reducible assumption
    | (intro x; refine Goes.cut (W := W) (s0 := s0) (x := x) ?_ ?_; rotate_left; clear_value x; intro hx; rotate_right)
    | lift_lets
    | (with_reducible refine goes_hopInstall _ _ ?_ ?_; exact subT rfl hW)
    | (with_reducible refine goes_chnLoad _ ?_ ?_; exact subT rfl hW)
    | (with_reducible refine Goes.ite ?_ ?_)

theorem goes_stageHop {W : List Part} {s0 : State} (s : State) (l : List Nat) (at' : Word) (hW : subParts [.regs] W = true) (hg : Goes W s0 s) : Goes W s0 (State.stageHop s l at') := by
  unfold State.stageHop
  repeat' first
    | with_reducible assumption
    | lift_lets
    | (with_reducible refine goes_wr _ _ _ ?_ ?_; exact subT rfl hW)
    | (refine Goes.foldl (fun _ _ _ => ?_) ?_)

theorem goes_hopCommit {W : List Part} {s0 : State} (s : State) (m : Master) (v : Word) (hW : subParts [.regs, .out, .ldg, .chn, .pba] W = true) (hg : Goes W s0 s) : Goes W s0 (State.hopCommit s m v) := by
  unfold State.hopCommit
  repeat' first
    | with_reducible assumption
    | intro x
    | lift_lets
    | (with_reducible refine goes_wr _ _ _ ?_ ?_; exact subT rfl hW)
    | (with_reducible refine goes_err _ _ _ _ _ ?_ ?_; exact subT rfl hW)
    | (with_reducible refine goes_noTime _ _ _ ?_ ?_; exact subT rfl hW)
    | (with_reducible refine Goes.ite ?_ ?_)
    | (fail_if_no_progress (with_reducible refine goes_set_chn _ _ ?_ ?_; exact subT rfl hW))

theorem goes_execHopCommit {W : List Part} {s0 : State} (m : Master) (v : Word) (s : State) (hW : subParts [.regs, .out, .resp, .ldg, .chn, .host, .pba] W = true) (hg : Goes W s0 s) : ∀ t0, execHopCommit m v s = .next t0 → Goes W s0 t0 := by
  unfold execHopCommit
  intro t0 e0
  obtain rfl := Host.Outcome.next.inj e0
  clear e0
  repeat' first
    | with_reducible assumption
    | lift_lets
    | (with_reducible refine goes_answer _ _ ?_ ?_; exact subT rfl hW)
    | (with_reducible refine goes_writeAt _ _ _ _ _ _ ?_ (fun _ _ => ?_) ?_; exact subT rfl hW)
    | (with_reducible refine goes_hopCommit _ _ _ ?_ ?_; exact subT rfl hW)

theorem goes_hopApply {W : List Part} {s0 : State} (s : State) (hW : subParts [.regs, .out, .chn, .pba] W = true) (hg : Goes W s0 s) : Goes W s0 (State.hopApply s) := by
  unfold State.hopApply
  repeat' first
    | with_reducible assumption
    | intro x
    | lift_lets
    | (with_reducible refine goes_wr _ _ _ ?_ ?_; exact subT rfl hW)
    | (with_reducible refine goes_irq _ _ _ ?_ ?_; exact subT rfl hW)
    | (with_reducible refine Goes.ite ?_ ?_)
    | split
    | (fail_if_no_progress (with_reducible refine goes_set_chn _ _ ?_ ?_; exact subT rfl hW))

theorem goes_execHopApply {W : List Part} {s0 : State} (s : State) (hW : subParts [.regs, .out, .chn, .pba] W = true) (hg : Goes W s0 s) : ∀ t0, execHopApply s = .next t0 → Goes W s0 t0 := by
  unfold execHopApply
  intro t0 e0
  obtain rfl := Host.Outcome.next.inj e0
  clear e0
  repeat' first
    | with_reducible assumption
    | (with_reducible refine goes_hopApply _ ?_ ?_; exact subT rfl hW)

theorem goes_chnReset {W : List Part} {s0 : State} (s : State) (hW : subParts [.chn] W = true) (hg : Goes W s0 s) : Goes W s0 (State.chnReset s) := by
  unfold State.chnReset
  repeat' first
    | with_reducible assumption
    | intro x
    | lift_lets
    | split
    | (fail_if_no_progress (with_reducible refine goes_set_chn _ _ ?_ ?_; exact subT rfl hW))

theorem goes_chnAgain {W : List Part} {s0 : State} (s : State) (hW : subParts [.regs, .chn] W = true) (hg : Goes W s0 s) : Goes W s0 (State.chnAgain s) := by
  unfold State.chnAgain
  repeat' first
    | with_reducible assumption
    | (intro x; refine Goes.cut (W := W) (s0 := s0) (x := x) ?_ ?_; rotate_left; clear_value x; intro hx; rotate_right)
    | lift_lets
    | (with_reducible refine goes_wb _ _ _ _ ?_ ?_; exact subT rfl hW)
    | (with_reducible refine goes_chnLoad _ ?_ ?_; exact subT rfl hW)
    | (with_reducible refine goes_chnReset _ ?_ ?_; exact subT rfl hW)
    | (fail_if_no_progress (apply Goes.upd [.regs]; dsimp only; exact subT rfl hW; (intro p hp; cases p <;> first | rfl | simp at hp); first | exact fun c => c | exact fun c => ⟨Sparse.filter_wf _ _ _ c.1, c.2⟩))
    | (dsimp +zetaDelta only)

end Sys2Proof.Machine
end

