-- ==== Sys2Proof/Laws/GoesLink.lean ====
section
/-! SUPPORT. What the operations of Machine/Link.lean can change: one lemma each. -/

set_option linter.unreachableTactic false
set_option linter.unusedTactic false

namespace Sys2Proof.Machine

open Sys2Proof

theorem goes_recWrite {W : List Part} {s0 : State} (s : State) (r : Nat) (b : Bytes) (hW : subParts [.regs, .out, .free, .ldg, .mem, .pba] W = true) (hg : Goes W s0 s) : Goes W s0 (State.recWrite s r b) := by
  unfold State.recWrite
  repeat' first
    | with_reducible assumption
    | (with_reducible refine goes_dramWrite _ _ _ ?_ ?_; exact subT rfl hW)

theorem goes_setReserve {W : List Part} {s0 : State} (s : State) (i : Nat) (v : Nat) (hW : subParts [.regs, .out, .nvs, .lnk, .pba] W = true) (hg : Goes W s0 s) : Goes W s0 (State.setReserve s i v) := by
  unfold State.setReserve
  repeat' first
    | with_reducible assumption
    | (intro x; refine Goes.cut (W := W) (s0 := s0) (x := x) ?_ ?_; rotate_left; clear_value x; intro hx; rotate_right)
    | intro x
    | lift_lets
    | (with_reducible refine goes_nvsWrite _ _ _ _ ?_ ?_; exact subT rfl hW)
    | (with_reducible refine Goes.ite ?_ ?_)
    | (fail_if_no_progress (with_reducible refine goes_set_lnk _ _ ?_ ?_; exact subT rfl hW))

theorem goes_sendCtr {W : List Part} {s0 : State} (s : State) (i : Nat) (v : Nat) (hW : subParts [.regs, .out, .pba] W = true) (hg : Goes W s0 s) : Goes W s0 (State.sendCtr s i v) := by
  unfold State.sendCtr
  repeat' first
    | with_reducible assumption
    | (intro x; refine Goes.cut (W := W) (s0 := s0) (x := x) ?_ ?_; rotate_left; clear_value x; intro hx; rotate_right)
    | intro x
    | lift_lets
    | (with_reducible refine goes_wr _ _ _ ?_ ?_; exact subT rfl hW)
    | (with_reducible refine goes_irq _ _ _ ?_ ?_; exact subT rfl hW)
    | (with_reducible refine Goes.ite ?_ ?_)

theorem goes_ctrTake {W : List Part} {s0 : State} (s : State) (i : Nat) (hW : subParts [.regs, .out, .nvs, .lnk, .pba] W = true) (hg : Goes W s0 s) : Goes W s0 (State.ctrTake s i).1 := by
  unfold State.ctrTake
  repeat' first
    | with_reducible assumption
    | (intro x; refine Goes.cut (W := W) (s0 := s0) (x := x) ?_ ?_; rotate_left; clear_value x; intro hx; rotate_right)
    | intro x
    | lift_lets
    | (with_reducible refine goes_setReserve _ _ _ ?_ ?_; exact subT rfl hW)
    | (with_reducible refine goes_sendCtr _ _ _ ?_ ?_; exact subT rfl hW)
    | (with_reducible refine Goes.ite ?_ ?_)
    | (fail_if_no_progress (with_reducible refine goes_set_lnk _ _ ?_ ?_; exact subT rfl hW))

theorem goes_ctrTake' {W : List Part} {s0 : State} (s : State) (i : Nat) {u0 : State} {v0 : Nat} (e : State.ctrTake s i = (u0, v0)) (hW : subParts [.regs, .out, .nvs, .lnk, .pba] W = true) (hg : Goes W s0 s) : Goes W s0 u0 := by
  have := goes_ctrTake s i hW hg
  rw [e] at this
  exact this

theorem goes_secure {W : List Part} {s0 : State} (s : State) (psdu : Bytes) (start : Nat) {t : State} {b : Bytes} (e : s.secure psdu start = .done t b)
    (hW : subParts [.regs, .out, .nvs, .lnk, .pba] W = true) (hg : Goes W s0 s) : Goes W s0 t := by
  unfold State.secure at e
  extract_lets h h' p at e
  split at e
  · cases e
  · split at e
    · cases e
    · cases e
    · cases e
      exact goes_ctrTake _ _ (subT rfl hW) hg

theorem goes_ctrWrite {W : List Part} {s0 : State} (s : State) (m : Master) (i : Nat) (v : Word) (hW : subParts [.regs, .out, .nvs, .lnk, .pba] W = true) (hg : Goes W s0 s) : Goes W s0 (State.ctrWrite s m i v) := by
  unfold State.ctrWrite
  repeat' first
    | with_reducible assumption
    | intro x
    | lift_lets
    | (with_reducible refine goes_err _ _ _ _ _ ?_ ?_; exact subT rfl hW)
    | (with_reducible refine goes_setReserve _ _ _ ?_ ?_; exact subT rfl hW)
    | (with_reducible refine goes_sendCtr _ _ _ ?_ ?_; exact subT rfl hW)
    | (with_reducible refine Goes.ite ?_ ?_)

theorem goes_execCtrTxWrite {W : List Part} {s0 : State} (m : Master) (i : Fin 3) (v : Word) (s : State) (hW : subParts [.regs, .out, .resp, .nvs, .lnk, .host, .pba] W = true) (hg : Goes W s0 s) : ∀ t0, execCtrTxWrite m i v s = .next t0 → Goes W s0 t0 := by
  unfold execCtrTxWrite
  intro t0 e0
  obtain rfl := Host.Outcome.next.inj e0
  clear e0
  repeat' first
    | with_reducible assumption
    | lift_lets
    | (with_reducible refine goes_answer _ _ ?_ ?_; exact subT rfl hW)
    | (with_reducible refine goes_writeAt _ _ _ _ _ _ ?_ (fun _ _ => ?_) ?_; exact subT rfl hW)
    | (with_reducible refine goes_ctrWrite _ _ _ _ ?_ ?_; exact subT rfl hW)

theorem goes_genWrite {W : List Part} {s0 : State} (s : State) (m : Master) (v : Word) (hW : subParts [.regs, .out, .pba] W = true) (hg : Goes W s0 s) : Goes W s0 (State.genWrite s m v) := by
  unfold State.genWrite
  repeat' first
    | with_reducible assumption
    | lift_lets
    | (with_reducible refine goes_wr _ _ _ ?_ ?_; exact subT rfl hW)
    | (with_reducible refine goes_err _ _ _ _ _ ?_ ?_; exact subT rfl hW)
    | (with_reducible refine Goes.ite ?_ ?_)

theorem goes_genNextWrite {W : List Part} {s0 : State} (s : State) (m : Master) (v : Word) (hW : subParts [.regs, .out, .ldg, .pba] W = true) (hg : Goes W s0 s) : Goes W s0 (State.genNextWrite s m v) := by
  unfold State.genNextWrite
  repeat' first
    | with_reducible assumption
    | lift_lets
    | (with_reducible refine goes_wr _ _ _ ?_ ?_; exact subT rfl hW)
    | (with_reducible refine goes_err _ _ _ _ _ ?_ ?_; exact subT rfl hW)
    | (with_reducible refine goes_noTime _ _ _ ?_ ?_; exact subT rfl hW)
    | (with_reducible refine Goes.ite ?_ ?_)

theorem goes_execLnkGenWrite {W : List Part} {s0 : State} (m : Master) (next : Bool) (v : Word) (s : State) (hW : subParts [.regs, .out, .resp, .ldg, .host, .pba] W = true) (hg : Goes W s0 s) : ∀ t0, execLnkGenWrite m next v s = .next t0 → Goes W s0 t0 := by
  unfold execLnkGenWrite
  intro t0 e0
  obtain rfl := Host.Outcome.next.inj e0
  clear e0
  repeat' first
    | with_reducible assumption
    | lift_lets
    | (with_reducible refine goes_answer _ _ ?_ ?_; exact subT rfl hW)
    | (with_reducible refine goes_writeAt _ _ _ _ _ _ ?_ (fun _ _ => ?_) ?_; exact subT rfl hW)
    | (with_reducible refine goes_genWrite _ _ _ ?_ ?_; exact subT rfl hW)
    | (with_reducible refine goes_genNextWrite _ _ _ ?_ ?_; exact subT rfl hW)
    | (with_reducible refine Goes.ite ?_ ?_)

theorem goes_genSwitch {W : List Part} {s0 : State} (s : State) (hW : subParts [.regs, .out, .nvs, .lnk, .pba] W = true) (hg : Goes W s0 s) : Goes W s0 (State.genSwitch s) := by
  unfold State.genSwitch
  repeat' first
    | with_reducible assumption
    | (intro x; refine Goes.cut (W := W) (s0 := s0) (x := x) ?_ ?_; rotate_left; clear_value x; intro hx; rotate_right)
    | intro x
    | lift_lets
    | (with_reducible refine goes_wr _ _ _ ?_ ?_; exact subT rfl hW)
    | (with_reducible refine goes_wf _ _ _ _ _ ?_ ?_; exact subT rfl hW)
    | (with_reducible refine goes_wb _ _ _ _ ?_ ?_; exact subT rfl hW)
    | (with_reducible refine goes_irq _ _ _ ?_ ?_; exact subT rfl hW)
    | (with_reducible refine goes_setReserve _ _ _ ?_ ?_; exact subT rfl hW)
    | (with_reducible refine Goes.ite ?_ ?_)
    | (fail_if_no_progress (with_reducible refine goes_set_lnk _ _ ?_ ?_; exact subT rfl hW))

theorem goes_execGenSwitch {W : List Part} {s0 : State} (s : State) (hW : subParts [.regs, .out, .nvs, .lnk, .pba] W = true) (hg : Goes W s0 s) : ∀ t0, execGenSwitch s = .next t0 → Goes W s0 t0 := by
  unfold execGenSwitch
  intro t0 e0
  obtain rfl := Host.Outcome.next.inj e0
  clear e0
  repeat' first
    | with_reducible assumption
    | (with_reducible refine goes_genSwitch _ ?_ ?_; exact subT rfl hW)

theorem goes_clearSk {W : List Part} {s0 : State} (g n : Nat) (s : State) (hW : subParts [.regs, .out, .free, .ldg, .mem, .pba] W = true) (h : Goes W s0 s) : Goes W s0 (clearSk g n s) := by
  induction n generalizing s with
  | zero =>
    unfold clearSk
    repeat' first
      | assumption
  | succ n ih =>
    unfold clearSk
    repeat' first
      | (with_reducible refine ih _ ?_)
      | with_reducible assumption
      | lift_lets
      | (with_reducible refine goes_recWrite _ _ _ ?_ ?_; exact subT rfl hW)
      | (with_reducible refine Goes.ite ?_ ?_)
      | split

theorem goes_clearGen {W : List Part} {s0 : State} (s : State) (g : Nat) (hW : subParts [.regs, .out, .free, .ldg, .mem, .lnk, .pba] W = true) (hg : Goes W s0 s) : Goes W s0 (State.clearGen s g) := by
  unfold State.clearGen
  repeat' first
    | with_reducible assumption
    | intro x
    | lift_lets
    | (with_reducible refine goes_clearSk _ _ _ ?_ ?_; exact subT rfl hW)
    | (fail_if_no_progress (with_reducible refine goes_set_lnk _ _ ?_ ?_; exact subT rfl hW))

theorem goes_genRetire {W : List Part} {s0 : State} (s : State) (hW : subParts [.regs, .out, .free, .ldg, .mem, .lnk, .pba] W = true) (hg : Goes W s0 s) : Goes W s0 (State.genRetire s) := by
  unfold State.genRetire
  repeat' first
    | with_reducible assumption
    | (intro x; refine Goes.cut (W := W) (s0 := s0) (x := x) ?_ ?_; rotate_left; clear_value x; intro hx; rotate_right)
    | intro x
    | lift_lets
    | (with_reducible refine goes_wb _ _ _ _ ?_ ?_; exact subT rfl hW)
    | (with_reducible refine goes_clearGen _ _ ?_ ?_; exact subT rfl hW)
    | (with_reducible refine Goes.ite ?_ ?_)
    | split
    | (fail_if_no_progress (with_reducible refine goes_set_lnk _ _ ?_ ?_; exact subT rfl hW))

theorem goes_execGenRetire {W : List Part} {s0 : State} (s : State) (hW : subParts [.regs, .out, .free, .ldg, .mem, .lnk, .pba] W = true) (hg : Goes W s0 s) : ∀ t0, execGenRetire s = .next t0 → Goes W s0 t0 := by
  unfold execGenRetire
  intro t0 e0
  obtain rfl := Host.Outcome.next.inj e0
  clear e0
  repeat' first
    | with_reducible assumption
    | (with_reducible refine goes_genRetire _ ?_ ?_; exact subT rfl hW)

theorem goes_setCtx {W : List Part} {s0 : State} (s : State) (i : Nat) (c : Ctx) (hW : subParts [.lnk] W = true) (hg : Goes W s0 s) : Goes W s0 (State.setCtx s i c) := by
  unfold State.setCtx
  repeat' first
    | with_reducible assumption
    | intro x
    | lift_lets
    | (fail_if_no_progress (with_reducible refine goes_set_lnk _ _ ?_ ?_; exact subT rfl hW))

theorem goes_touch {W : List Part} {s0 : State} (s : State) (i : Nat) (hW : subParts [.lnk] W = true) (hg : Goes W s0 s) : Goes W s0 (State.touch s i) := by
  unfold State.touch
  repeat' first
    | with_reducible assumption
    | intro x
    | lift_lets
    | (with_reducible refine goes_setCtx _ _ _ ?_ ?_; exact subT rfl hW)
    | split
    | (fail_if_no_progress (with_reducible refine goes_set_lnk _ _ ?_ ?_; exact subT rfl hW))

theorem goes_ctxBad {W : List Part} {s0 : State} (s : State) (r : Nat) (reason : Nat) (hW : subParts [.regs, .out, .ldg, .pba] W = true) (hg : Goes W s0 s) : Goes W s0 (State.ctxBad s r reason) := by
  unfold State.ctxBad
  repeat' first
    | with_reducible assumption
    | (with_reducible refine goes_ledger _ _ _ _ _ _ _ ?_ ?_; exact subT rfl hW)

theorem goes_refill {W : List Part} {s0 : State} (s : State) (r : Nat) (ns : Nat) (hW : subParts [.regs, .out, .free, .ldg, .mem, .lnk, .pba] W = true) (hg : Goes W s0 s) : Goes W s0 (State.refill s r ns).1 := by
  unfold State.refill
  repeat' first
    | with_reducible assumption
    | (intro x; refine Goes.cut (W := W) (s0 := s0) (x := x) ?_ ?_; rotate_left; clear_value x; intro hx; rotate_right)
    | intro x
    | lift_lets
    | (with_reducible refine goes_wr _ _ _ ?_ ?_; exact subT rfl hW)
    | (with_reducible refine goes_bumpSat _ _ _ ?_ ?_; exact subT rfl hW)
    | (with_reducible refine goes_dramFetch _ _ _ _ ?_ ?_; exact subT rfl hW)
    | (with_reducible refine goes_setCtx _ _ _ ?_ ?_; exact subT rfl hW)
    | (with_reducible refine goes_ctxBad _ _ _ ?_ ?_; exact subT rfl hW)
    | (with_reducible refine Goes.iteFst ?_ ?_)
    | split
    | (fail_if_no_progress (with_reducible refine goes_set_lnk _ _ ?_ ?_; exact subT rfl hW))

theorem goes_refill' {W : List Part} {s0 : State} (s : State) (r : Nat) (ns : Nat) {u0 : State} {v0 : Option Nat} (e : State.refill s r ns = (u0, v0)) (hW : subParts [.regs, .out, .free, .ldg, .mem, .lnk, .pba] W = true) (hg : Goes W s0 s) : Goes W s0 u0 := by
  have := goes_refill s r ns hW hg
  rw [e] at this
  exact this

theorem goes_idxFetch {W : List Part} {s0 : State} (i k n : Nat) (s : State) (hW : subParts [.regs, .out, .free, .ldg, .mem, .pba] W = true) (h : Goes W s0 s) : Goes W s0 (idxFetch i k n s).1 := by
  induction n generalizing s k with
  | zero =>
    unfold idxFetch
    repeat' first
      | assumption
  | succ n ih =>
    unfold idxFetch
    repeat' first
      | (with_reducible refine ih _ _ ?_)
      | with_reducible assumption
      | intro x
      | lift_lets
      | (with_reducible refine goes_dramFetch _ _ _ _ ?_ ?_; exact subT rfl hW)
      | (with_reducible refine Goes.iteFst ?_ ?_)
      | split

theorem goes_idxFetch' {W : List Part} {s0 : State} (i k n : Nat) (s : State) {u0 : State} {v0 : Option Nat} (e : idxFetch i k n s = (u0, v0)) (hW : subParts [.regs, .out, .free, .ldg, .mem, .pba] W = true) (h : Goes W s0 s) : Goes W s0 u0 := by
  have := goes_idxFetch i k n s hW h
  rw [e] at this
  exact this

theorem goes_ctxFor {W : List Part} {s0 : State} (s : State) (h : Hdr) (ns : Nat) (hW : subParts [.regs, .out, .free, .ldg, .mem, .lnk, .pba] W = true) (hg : Goes W s0 s) : Goes W s0 (State.ctxFor s h ns).1 := by
  unfold State.ctxFor
  repeat' first
    | with_reducible assumption
    | intro x
    | lift_lets
    | (with_reducible refine goes_touch _ _ ?_ ?_; exact subT rfl hW)
    | (with_reducible refine goes_refill _ _ _ ?_ ?_; exact subT rfl hW)
    | (with_reducible refine goes_idxFetch _ _ _ _ ?_ ?_; exact subT rfl hW)
    | (with_reducible refine Goes.iteFst ?_ ?_)
    | split

theorem goes_ctxFor' {W : List Part} {s0 : State} (s : State) (h : Hdr) (ns : Nat) {u0 : State} {v0 : Option Nat} (e : State.ctxFor s h ns = (u0, v0)) (hW : subParts [.regs, .out, .free, .ldg, .mem, .lnk, .pba] W = true) (hg : Goes W s0 s) : Goes W s0 u0 := by
  have := goes_ctxFor s h ns hW hg
  rw [e] at this
  exact this

theorem goes_ctxDrop {W : List Part} {s0 : State} (s : State) (f : Ctx → Bool) (hW : subParts [.lnk] W = true) (hg : Goes W s0 s) : Goes W s0 (State.ctxDrop s f) := by
  unfold State.ctxDrop
  repeat' first
    | with_reducible assumption
    | intro x
    | lift_lets
    | (fail_if_no_progress (with_reducible refine goes_set_lnk _ _ ?_ ?_; exact subT rfl hW))

theorem goes_ctxSweep {W : List Part} {s0 : State} (s : State) (hW : subParts [.lnk] W = true) (hg : Goes W s0 s) : Goes W s0 (State.ctxSweep s) := by
  unfold State.ctxSweep
  repeat' first
    | with_reducible assumption
    | intro x
    | lift_lets
    | (fail_if_no_progress (with_reducible refine goes_set_lnk _ _ ?_ ?_; exact subT rfl hW))

theorem goes_execCtxInval {W : List Part} {s0 : State} (m : Master) (v : Word) (s : State) (hW : subParts [.regs, .out, .resp, .lnk, .host, .pba] W = true) (hg : Goes W s0 s) : ∀ t0, execCtxInval m v s = .next t0 → Goes W s0 t0 := by
  unfold execCtxInval
  intro t0 e0
  obtain rfl := Host.Outcome.next.inj e0
  clear e0
  repeat' first
    | with_reducible assumption
    | lift_lets
    | (with_reducible refine goes_answer _ _ ?_ ?_; exact subT rfl hW)
    | (with_reducible refine goes_writeAt _ _ _ _ _ _ ?_ (fun _ _ => ?_) ?_; exact subT rfl hW)
    | (with_reducible refine goes_ctxDrop _ _ ?_ ?_; exact subT rfl hW)

theorem goes_execCtxInvalAll {W : List Part} {s0 : State} (m : Master) (v : Word) (s : State) (hW : subParts [.regs, .out, .resp, .lnk, .host, .pba] W = true) (hg : Goes W s0 s) : ∀ t0, execCtxInvalAll m v s = .next t0 → Goes W s0 t0 := by
  unfold execCtxInvalAll
  intro t0 e0
  obtain rfl := Host.Outcome.next.inj e0
  clear e0
  repeat' first
    | with_reducible assumption
    | lift_lets
    | (with_reducible refine goes_answer _ _ ?_ ?_; exact subT rfl hW)
    | (with_reducible refine goes_writeAt _ _ _ _ _ _ ?_ (fun _ _ => ?_) ?_; exact subT rfl hW)
    | (with_reducible refine goes_ctxDrop _ _ ?_ ?_; exact subT rfl hW)
    | (with_reducible refine Goes.ite ?_ ?_)

theorem goes_ctxWrite {W : List Part} {s0 : State} (s : State) (i : Nat) (c : Ctx) (hW : subParts [.regs, .out, .free, .ldg, .mem, .nvs, .lnk, .pba] W = true) (hg : Goes W s0 s) : Goes W s0 (State.ctxWrite s i c) := by
  unfold State.ctxWrite
  repeat' first
    | with_reducible assumption
    | (intro x; refine Goes.cut (W := W) (s0 := s0) (x := x) ?_ ?_; rotate_left; clear_value x; intro hx; rotate_right)
    | lift_lets
    | (with_reducible refine goes_dramWrite _ _ _ ?_ ?_; exact subT rfl hW)
    | (with_reducible refine goes_nvsWrite _ _ _ _ ?_ ?_; exact subT rfl hW)
    | (with_reducible refine goes_recWrite _ _ _ ?_ ?_; exact subT rfl hW)
    | (with_reducible refine goes_setCtx _ _ _ ?_ ?_; exact subT rfl hW)
    | split
    | (dsimp +zetaDelta only)

theorem goes_recRestore {W : List Part} {s0 : State} (s : State) (ident : DWord) (index : Nat) (g : Nat) (nk : Option Bytes) (hW : subParts [.regs, .out, .free, .ldg, .mem, .pba] W = true) (hg : Goes W s0 s) : Goes W s0 (State.recRestore s ident index g nk) := by
  unfold State.recRestore
  repeat' first
    | with_reducible assumption
    | lift_lets
    | (with_reducible refine goes_recWrite _ _ _ ?_ ?_; exact subT rfl hW)
    | split
    | (refine Goes.foldl (fun _ _ _ => ?_) ?_)

theorem goes_mirrorClear {W : List Part} {s0 : State} (s : State) (r : Nat) (hW : subParts [.regs, .out, .nvs, .pba] W = true) (hg : Goes W s0 s) : Goes W s0 (State.mirrorClear s r) := by
  unfold State.mirrorClear
  repeat' first
    | with_reducible assumption
    | (with_reducible refine goes_nvsWrite _ _ _ _ ?_ ?_; exact subT rfl hW)

theorem goes_floodSpan {W : List Part} {s0 : State} (s : State) (r : Nat) (h : Hdr) (start : Int) (len : Nat) (hW : subParts [.lvl] W = true) (hg : Goes W s0 s) : Goes W s0 (State.floodSpan s r h start len) := by
  unfold State.floodSpan
  repeat' first
    | with_reducible assumption
    | intro x
    | lift_lets
    | (with_reducible refine Goes.ite ?_ ?_)
    | (fail_if_no_progress (with_reducible refine goes_set_lvl _ _ ?_ ?_; exact subT rfl hW))

theorem goes_takeFrame {W : List Part} {s0 : State} (s : State) (r : Nat) (psdu : Bytes) (k : Nat) (c : DWord) (ns : Nat) (hW : subParts [.regs, .out, .free, .ldg, .mem, .rad, .lnk, .pba] W = true) (hg : Goes W s0 s) : Goes W s0 (State.takeFrame s r psdu k c ns) := by
  unfold State.takeFrame
  repeat' first
    | with_reducible assumption
    | (intro x; refine Goes.cut (W := W) (s0 := s0) (x := x) ?_ ?_; rotate_left; clear_value x; intro hx; rotate_right)
    | intro x
    | lift_lets
    | (with_reducible refine goes_bumpSat _ _ _ ?_ ?_; exact subT rfl hW)
    | (with_reducible refine goes_draw _ _ ?_ ?_; exact subT rfl hW)
    | (with_reducible refine goes_irq _ _ _ ?_ ?_; exact subT rfl hW)
    | (with_reducible refine goes_sramWrite _ _ _ ?_ ?_; exact subT rfl hW)
    | (with_reducible refine goes_modRadio _ _ _ ?_ ?_; exact subT rfl hW)
    | (with_reducible refine goes_ctxFor _ _ _ ?_ ?_; exact subT rfl hW)
    | (with_reducible refine Goes.ite ?_ ?_)

theorem goes_frameSync {W : List Part} {s0 : State} (s : State) (r : Nat) (psdu : Bytes) (phrOk : Bool) (phase : Nat) (c : DWord) (ns : Nat) (hW : subParts [.regs, .out, .free, .cnt, .ldg, .mem, .rad, .lnk, .lvl, .pba] W = true) (hg : Goes W s0 s) : Goes W s0 (State.frameSync s r psdu phrOk phase c ns) := by
  unfold State.frameSync
  repeat' first
    | with_reducible assumption
    | (intro x; refine Goes.cut (W := W) (s0 := s0) (x := x) ?_ ?_; rotate_left; clear_value x; intro hx; rotate_right)
    | intro x
    | lift_lets
    | (with_reducible refine goes_bumpSat _ _ _ ?_ ?_; exact subT rfl hW)
    | (with_reducible refine goes_emit _ _ ?_ ?_; exact subT rfl hW)
    | (with_reducible refine goes_at _ _ ?_ ?_; exact subT rfl hW)
    | (with_reducible refine goes_modRadio _ _ _ ?_ ?_; exact subT rfl hW)
    | (with_reducible refine goes_floodSpan _ _ _ _ _ ?_ ?_; exact subT rfl hW)
    | (with_reducible refine goes_takeFrame _ _ _ _ _ _ ?_ ?_; exact subT rfl hW)
    | (with_reducible refine Goes.ite ?_ ?_)

theorem goes_execFrameSync {W : List Part} {s0 : State} (radio : Fin 4) (psdu : Bytes) (phrOk : Bool) (phase : Nat) (c : DWord) (refillNs : Nat) (s : State) (hW : subParts [.regs, .out, .free, .cnt, .ldg, .mem, .rad, .lnk, .lvl, .pba] W = true) (hg : Goes W s0 s) : ∀ t0, execFrameSync radio psdu phrOk phase c refillNs s = .next t0 → Goes W s0 t0 := by
  unfold execFrameSync
  intro t0 e0
  obtain rfl := Host.Outcome.next.inj e0
  clear e0
  repeat' first
    | with_reducible assumption
    | (with_reducible refine goes_frameSync _ _ _ _ _ _ _ ?_ ?_; exact subT rfl hW)

theorem goes_pushAll {W : List Part} {s0 : State} (q : Nat) (l : List DWord) (s : State) (hW : subParts [.regs, .out, .que, .pba] W = true) (h : Goes W s0 s) : Goes W s0 (pushAll q l s) := by
  induction l generalizing s with
  | nil =>
    unfold pushAll
    repeat' first
      | assumption
  | cons x r ih =>
    unfold pushAll
    repeat' first
      | (with_reducible refine ih _ ?_)
      | with_reducible assumption
      | lift_lets
      | (with_reducible refine goes_hwPush _ _ _ ?_ ?_; exact subT rfl hW)

theorem goes_deliver {W : List Part} {s0 : State} (s : State) (t : Nat) (tag : Nat) (reason : Nat) (b : Bytes) (hW : subParts [.regs, .out, .free, .mkt, .que, .mem, .pba] W = true) (hg : Goes W s0 s) : Goes W s0 (State.deliver s t tag reason b) := by
  unfold State.deliver
  repeat' first
    | with_reducible assumption
    | (intro x; refine Goes.cut (W := W) (s0 := s0) (x := x) ?_ ?_; rotate_left; clear_value x; intro hx; rotate_right)
    | intro x
    | lift_lets
    | (with_reducible refine goes_draw _ _ ?_ ?_; exact subT rfl hW)
    | (with_reducible refine goes_hwSubmit _ _ ?_ ?_; exact subT rfl hW)
    | (with_reducible refine goes_pushAll _ _ _ ?_ ?_; exact subT rfl hW)
    | (with_reducible refine goes_sramWrite _ _ _ ?_ ?_; exact subT rfl hW)
    | (with_reducible refine Goes.ite ?_ ?_)
    | split

theorem goes_rxAbort {W : List Part} {s0 : State} (s : State) (r : Nat) (hW : subParts [.regs, .out, .free, .que, .pba] W = true) (hg : Goes W s0 s) : Goes W s0 (State.rxAbort s r) := by
  unfold State.rxAbort
  repeat' first
    | with_reducible assumption
    | intro x
    | lift_lets
    | (with_reducible refine goes_draw _ _ ?_ ?_; exact subT rfl hW)
    | (with_reducible refine goes_pushAll _ _ _ ?_ ?_; exact subT rfl hW)
    | (with_reducible refine Goes.ite ?_ ?_)
    | split

theorem goes_heardFrom {W : List Part} {s0 : State} (s : State) (idx : Nat) (hW : subParts [.net] W = true) (hg : Goes W s0 s) : Goes W s0 (State.heardFrom s idx) := by
  unfold State.heardFrom
  repeat' first
    | with_reducible assumption
    | intro x
    | lift_lets
    | (with_reducible refine Goes.ite ?_ ?_)
    | (fail_if_no_progress (with_reducible refine goes_set_net _ _ ?_ ?_; exact subT rfl hW))

theorem goes_acceptFrame {W : List Part} {s0 : State} (s : State) (i : Nat) (c : Ctx) (h : Hdr) (hw : Nat × Nat) (mic : Bytes) (a34 : Bytes) (hW : subParts [.regs, .out, .free, .ldg, .mem, .nvs, .lnk, .pba] W = true) (hg : Goes W s0 s) : Goes W s0 (State.acceptFrame s i c h hw mic a34) := by
  unfold State.acceptFrame
  repeat' first
    | with_reducible assumption
    | intro x
    | lift_lets
    | (with_reducible refine goes_draw _ _ ?_ ?_; exact subT rfl hW)
    | (with_reducible refine goes_ctxWrite _ _ _ ?_ ?_; exact subT rfl hW)

theorem goes_conflict {W : List Part} {s0 : State} (s : State) (r : Nat) (h : Hdr) (old : Bytes) (mic : Bytes) (hW : subParts [.regs, .out, .ldg, .pba] W = true) (hg : Goes W s0 s) : Goes W s0 (State.conflict s r h old mic) := by
  unfold State.conflict
  repeat' first
    | with_reducible assumption
    | lift_lets
    | (with_reducible refine goes_irq _ _ _ ?_ ?_; exact subT rfl hW)
    | (with_reducible refine goes_logGroup _ _ _ _ _ _ ?_ ?_; exact subT rfl hW)

theorem goes_verify {W : List Part} {s0 : State} (s : State) (r : Nat) (i : Nat) (c : Ctx) (h : Hdr) (psdu : Bytes) (margin : Int) (hW : subParts [.regs, .out, .free, .ldg, .mem, .nvs, .lnk, .pba] W = true) (hg : Goes W s0 s) : Goes W s0 (State.verify s r i c h psdu margin).s := by
  unfold State.verify
  repeat' first
    | with_reducible assumption
    | intro x
    | lift_lets
    | (with_reducible refine goes_irq _ _ _ ?_ ?_; exact subT rfl hW)
    | (with_reducible refine goes_acceptFrame _ _ _ _ _ _ _ ?_ ?_; exact subT rfl hW)
    | (with_reducible refine goes_conflict _ _ _ _ _ ?_ ?_; exact subT rfl hW)
    | (with_reducible refine Goes.iteJ ?_ ?_)
    | split
    | dsimp only

theorem goes_unknown {W : List Part} {s0 : State} (s : State) (r : Nat) (rssi : Nat) (ctx : Nat) (h : Hdr) (psdu : Bytes) (hW : subParts [.regs, .out, .free, .mkt, .que, .mem, .pba] W = true) (hg : Goes W s0 s) : Goes W s0 (State.unknown s r rssi ctx h psdu) := by
  unfold State.unknown
  repeat' first
    | with_reducible assumption
    | lift_lets
    | (with_reducible refine goes_bumpSat _ _ _ ?_ ?_; exact subT rfl hW)
    | (with_reducible refine goes_deliver _ _ _ _ _ ?_ ?_; exact subT rfl hW)
    | (with_reducible refine Goes.ite ?_ ?_)

theorem goes_heardChild {W : List Part} {s0 : State} (s : State) (idx : Nat) (r : Nat) (hW : subParts [.net] W = true) (hg : Goes W s0 s) : Goes W s0 (State.heardChild s idx r) := by
  unfold State.heardChild
  repeat' first
    | with_reducible assumption
    | intro x
    | lift_lets
    | (fail_if_no_progress (with_reducible refine goes_set_net _ _ ?_ ?_; exact subT rfl hW))

theorem goes_judgeFrame {W : List Part} {s0 : State} (s : State) (r : Nat) (rssi : Nat) (i : Nat) (f : RxAir) (h : Hdr) (margin : Int) (hW : subParts [.regs, .out, .free, .mkt, .que, .ldg, .mem, .nvs, .rad, .lnk, .net, .pba] W = true) (hg : Goes W s0 s) : Goes W s0 (State.judgeFrame s r rssi i f h margin) := by
  unfold State.judgeFrame
  repeat' first
    | with_reducible assumption
    | (intro x; refine Goes.cut (W := W) (s0 := s0) (x := x) ?_ ?_; rotate_left; clear_value x; intro hx; rotate_right)
    | intro x
    | lift_lets
    | (with_reducible refine goes_bumpSat _ _ _ ?_ ?_; exact subT rfl hW)
    | (with_reducible refine goes_modRadio _ _ _ ?_ ?_; exact subT rfl hW)
    | (with_reducible refine goes_deliver _ _ _ _ _ ?_ ?_; exact subT rfl hW)
    | (with_reducible refine goes_heardFrom _ _ ?_ ?_; exact subT rfl hW)
    | (with_reducible refine goes_verify _ _ _ _ _ _ _ ?_ ?_; exact subT rfl hW)
    | (with_reducible refine goes_unknown _ _ _ _ _ _ ?_ ?_; exact subT rfl hW)
    | (with_reducible refine goes_heardChild _ _ _ ?_ ?_; exact subT rfl hW)
    | (with_reducible refine Goes.ite ?_ ?_)
    | split

theorem goes_goodFrame {W : List Part} {s0 : State} (s : State) (r : Nat) (rssi : Nat) (f : RxAir) (margin : Int) (hW : subParts [.regs, .out, .free, .mkt, .que, .ldg, .mem, .nvs, .rad, .lnk, .net, .pba] W = true) (hg : Goes W s0 s) : Goes W s0 (State.goodFrame s r rssi f margin) := by
  unfold State.goodFrame
  repeat' first
    | with_reducible assumption
    | intro x
    | lift_lets
    | (with_reducible refine goes_bumpSat _ _ _ ?_ ?_; exact subT rfl hW)
    | (with_reducible refine goes_deliver _ _ _ _ _ ?_ ?_; exact subT rfl hW)
    | (with_reducible refine goes_unknown _ _ _ _ _ _ ?_ ?_; exact subT rfl hW)
    | (with_reducible refine goes_judgeFrame _ _ _ _ _ _ _ ?_ ?_; exact subT rfl hW)
    | (with_reducible refine Goes.ite ?_ ?_)
    | split

theorem goes_sramAbort {W : List Part} {s0 : State} (s : State) (r : Nat) (rssi : Nat) (f : RxAir) (hW : subParts [.regs, .out, .free, .que, .pba] W = true) (hg : Goes W s0 s) : Goes W s0 (State.sramAbort s r rssi f) := by
  unfold State.sramAbort
  repeat' first
    | with_reducible assumption
    | intro x
    | lift_lets
    | (with_reducible refine goes_draw _ _ ?_ ?_; exact subT rfl hW)
    | (with_reducible refine goes_pushAll _ _ _ ?_ ?_; exact subT rfl hW)
    | (with_reducible refine Goes.ite ?_ ?_)

theorem goes_heldFrame {W : List Part} {s0 : State} (s : State) (f : RxAir) (hW : subParts [.regs, .out, .free, .mem, .pba] W = true) (hg : Goes W s0 s) : Goes W s0 (State.heldFrame s f).1 := by
  unfold State.heldFrame
  repeat' first
    | with_reducible assumption
    | (intro x; refine Goes.cut (W := W) (s0 := s0) (x := x) ?_ ?_; rotate_left; clear_value x; intro hx; rotate_right)
    | lift_lets
    | (with_reducible refine goes_sramSeen _ _ _ ?_ ?_; exact subT rfl hW)
    | split

theorem goes_heldFrame' {W : List Part} {s0 : State} (s : State) (f : RxAir) {u0 : State} {v0 : Bool} (e : State.heldFrame s f = (u0, v0)) (hW : subParts [.regs, .out, .free, .mem, .pba] W = true) (hg : Goes W s0 s) : Goes W s0 u0 := by
  have := goes_heldFrame s f hW hg
  rw [e] at this
  exact this

theorem goes_lnkDrain {W : List Part} {s0 : State} (s : State) (hW : subParts [.regs, .out, .pba] W = true) (hg : Goes W s0 s) : Goes W s0 (State.lnkDrain s) := by
  unfold State.lnkDrain
  repeat' first
    | with_reducible assumption
    | lift_lets
    | (with_reducible refine goes_setDrained _ _ ?_ ?_; exact subT rfl hW)
    | (with_reducible refine Goes.ite ?_ ?_)

theorem goes_endFrame {W : List Part} {s0 : State} (s : State) (r : Nat) (good : Bool) (rssi : Nat) (f : RxAir) (margin : Int) (hW : subParts [.regs, .out, .free, .mkt, .que, .ldg, .mem, .nvs, .rad, .lnk, .net, .pba] W = true) (hg : Goes W s0 s) : Goes W s0 (State.endFrame s r good rssi f margin) := by
  unfold State.endFrame
  repeat' first
    | with_reducible assumption
    | (intro x; refine Goes.cut (W := W) (s0 := s0) (x := x) ?_ ?_; rotate_left; clear_value x; intro hx; rotate_right)
    | intro x
    | lift_lets
    | (with_reducible refine goes_wf _ _ _ _ _ ?_ ?_; exact subT rfl hW)
    | (with_reducible refine goes_bumpSat _ _ _ ?_ ?_; exact subT rfl hW)
    | (with_reducible refine goes_deliver _ _ _ _ _ ?_ ?_; exact subT rfl hW)
    | (with_reducible refine goes_goodFrame _ _ _ _ _ ?_ ?_; exact subT rfl hW)
    | (with_reducible refine goes_sramAbort _ _ _ _ ?_ ?_; exact subT rfl hW)
    | (with_reducible refine goes_heldFrame _ _ ?_ ?_; exact subT rfl hW)
    | (with_reducible refine Goes.ite ?_ ?_)

theorem goes_frameEnd {W : List Part} {s0 : State} (s : State) (r : Nat) (fcs : Bytes) (rssi : Nat) (margin : Int) (ns : Nat) (hW : subParts [.regs, .out, .free, .mkt, .que, .ldg, .mem, .nvs, .rad, .lnk, .net, .pba] W = true) (hg : Goes W s0 s) : Goes W s0 (State.frameEnd s r fcs rssi margin ns) := by
  unfold State.frameEnd
  repeat' first
    | with_reducible assumption
    | (intro x; refine Goes.cut (W := W) (s0 := s0) (x := x) ?_ ?_; rotate_left; clear_value x; intro hx; rotate_right)
    | lift_lets
    | (with_reducible refine goes_wr _ _ _ ?_ ?_; exact subT rfl hW)
    | (with_reducible refine goes_modRadio _ _ _ ?_ ?_; exact subT rfl hW)
    | (with_reducible refine goes_radDrain _ _ ?_ ?_; exact subT rfl hW)
    | (with_reducible refine goes_ctxSweep _ ?_ ?_; exact subT rfl hW)
    | (with_reducible refine goes_lnkDrain _ ?_ ?_; exact subT rfl hW)
    | (with_reducible refine goes_endFrame _ _ _ _ _ _ ?_ ?_; exact subT rfl hW)
    | (with_reducible refine Goes.ite ?_ ?_)
    | split

theorem goes_execFrameEndVerdict {W : List Part} {s0 : State} (radio : Fin 4) (fcs : Bytes) (rssi : Byte) (margin : Int) (verdictNs : Nat) (s : State) (hW : subParts [.regs, .out, .free, .mkt, .que, .ldg, .mem, .nvs, .rad, .lnk, .net, .pba] W = true) (hg : Goes W s0 s) : ∀ t0, execFrameEndVerdict radio fcs rssi margin verdictNs s = .next t0 → Goes W s0 t0 := by
  unfold execFrameEndVerdict
  intro t0 e0
  obtain rfl := Host.Outcome.next.inj e0
  clear e0
  repeat' first
    | with_reducible assumption
    | (with_reducible refine goes_frameEnd _ _ _ _ _ _ ?_ ?_; exact subT rfl hW)

theorem goes_ackSend {W : List Part} {s0 : State} (s : State) (r : Nat) (hW : subParts [.regs, .out, .que, .nvs, .rad, .chn, .lnk, .net, .pba] W = true) (hg : Goes W s0 s) : Goes W s0 (State.ackSend s r) := by
  unfold State.ackSend
  repeat' first
    | with_reducible assumption
    | (intro x; refine Goes.cut (W := W) (s0 := s0) (x := x) ?_ ?_; rotate_left; clear_value x; intro hx; rotate_right)
    | intro x
    | lift_lets
    | (with_reducible refine goes_bumpSat _ _ _ ?_ ?_; exact subT rfl hW)
    | (with_reducible refine goes_irq _ _ _ ?_ ?_; exact subT rfl hW)
    | (with_reducible refine goes_modRadio _ _ _ ?_ ?_; exact subT rfl hW)
    | (with_reducible refine goes_radDrain _ _ ?_ ?_; exact subT rfl hW)
    | (with_reducible refine goes_transmit _ _ _ _ _ _ _ ?_ ?_; exact subT rfl hW)
    | (with_reducible refine goes_ctxSweep _ ?_ ?_; exact subT rfl hW)
    | (with_reducible refine goes_lnkDrain _ ?_ ?_; exact subT rfl hW)
    | (with_reducible refine Goes.ite ?_ ?_)
    | split

theorem goes_execAckSend {W : List Part} {s0 : State} (radio : Fin 4) (s : State) (hW : subParts [.regs, .out, .que, .nvs, .rad, .chn, .lnk, .net, .pba] W = true) (hg : Goes W s0 s) : ∀ t0, execAckSend radio s = .next t0 → Goes W s0 t0 := by
  unfold execAckSend
  intro t0 e0
  obtain rfl := Host.Outcome.next.inj e0
  clear e0
  repeat' first
    | with_reducible assumption
    | (with_reducible refine goes_ackSend _ _ ?_ ?_; exact subT rfl hW)

theorem goes_lnkCancel {W : List Part} {s0 : State} (s : State) (r : Nat) (hW : subParts [.regs, .out, .que, .rad, .net, .pba] W = true) (hg : Goes W s0 s) : Goes W s0 (State.lnkCancel s r) := by
  unfold State.lnkCancel
  repeat' first
    | with_reducible assumption
    | intro x
    | lift_lets
    | (with_reducible refine goes_modRadio _ _ _ ?_ ?_; exact subT rfl hW)
    | (with_reducible refine goes_txDoneAll _ _ _ _ ?_ ?_; exact subT rfl hW)

theorem goes_attemptFail {W : List Part} {s0 : State} (s : State) (r : Nat) (a : OnAir) (hW : subParts [.regs, .out, .free, .que, .rad, .net, .pba] W = true) (hg : Goes W s0 s) : Goes W s0 (State.attemptFail s r a) := by
  unfold State.attemptFail
  repeat' first
    | with_reducible assumption
    | (intro x; refine Goes.cut (W := W) (s0 := s0) (x := x) ?_ ?_; rotate_left; clear_value x; intro hx; rotate_right)
    | intro x
    | lift_lets
    | (with_reducible refine goes_bumpSat _ _ _ ?_ ?_; exact subT rfl hW)
    | (with_reducible refine goes_draw _ _ ?_ ?_; exact subT rfl hW)
    | (with_reducible refine goes_modRadio _ _ _ ?_ ?_; exact subT rfl hW)
    | (with_reducible refine goes_txDone _ _ _ _ ?_ ?_; exact subT rfl hW)
    | (with_reducible refine goes_radDrain _ _ ?_ ?_; exact subT rfl hW)
    | (with_reducible refine goes_lnkCancel _ _ ?_ ?_; exact subT rfl hW)
    | (with_reducible refine goes_lnkDrain _ ?_ ?_; exact subT rfl hW)
    | (with_reducible refine Goes.ite ?_ ?_)

theorem goes_execAckTimeout {W : List Part} {s0 : State} (radio : Fin 4) (s : State) (hW : subParts [.regs, .out, .free, .que, .rad, .net, .pba] W = true) (hg : Goes W s0 s) : ∀ t0, execAckTimeout radio s = .next t0 → Goes W s0 t0 := by
  unfold execAckTimeout
  intro t0 e0
  obtain rfl := Host.Outcome.next.inj e0
  clear e0
  repeat' first
    | with_reducible assumption
    | lift_lets
    | (with_reducible refine goes_attemptFail _ _ _ ?_ ?_; exact subT rfl hW)
    | (with_reducible refine Goes.ite ?_ ?_)
    | split

theorem goes_ackRx {W : List Part} {s0 : State} (s : State) (r : Nat) (psdu : Bytes) (fcs : Bytes) (hW : subParts [.regs, .out, .free, .que, .rad, .net, .pba] W = true) (hg : Goes W s0 s) : Goes W s0 (State.ackRx s r psdu fcs) := by
  unfold State.ackRx
  repeat' first
    | with_reducible assumption
    | (intro x; refine Goes.cut (W := W) (s0 := s0) (x := x) ?_ ?_; rotate_left; clear_value x; intro hx; rotate_right)
    | lift_lets
    | (with_reducible refine goes_bumpSat _ _ _ ?_ ?_; exact subT rfl hW)
    | (with_reducible refine goes_modRadio _ _ _ ?_ ?_; exact subT rfl hW)
    | (with_reducible refine goes_txDone _ _ _ _ ?_ ?_; exact subT rfl hW)
    | (with_reducible refine goes_radDrain _ _ ?_ ?_; exact subT rfl hW)
    | (with_reducible refine goes_lnkDrain _ ?_ ?_; exact subT rfl hW)
    | (with_reducible refine goes_attemptFail _ _ _ ?_ ?_; exact subT rfl hW)
    | (with_reducible refine Goes.ite ?_ ?_)
    | split

theorem goes_execAckReceive {W : List Part} {s0 : State} (radio : Fin 4) (psdu : Bytes) (fcs : Bytes) (s : State) (hW : subParts [.regs, .out, .free, .que, .rad, .net, .pba] W = true) (hg : Goes W s0 s) : ∀ t0, execAckReceive radio psdu fcs s = .next t0 → Goes W s0 t0 := by
  unfold execAckReceive
  intro t0 e0
  obtain rfl := Host.Outcome.next.inj e0
  clear e0
  repeat' first
    | with_reducible assumption
    | (with_reducible refine goes_ackRx _ _ _ _ ?_ ?_; exact subT rfl hW)

theorem goes_popPacket {W : List Part} {s0 : State} (n q : Nat) (b : Bytes) (s : State) (hW : subParts [.regs, .out, .que, .pba] W = true) (h : Goes W s0 s) : Goes W s0 (popPacket n q s b).1 := by
  induction n generalizing s b with
  | zero =>
    unfold popPacket
    repeat' first
      | assumption
  | succ n ih =>
    unfold popPacket
    repeat' first
      | (with_reducible refine ih _ _ ?_)
      | with_reducible assumption
      | intro x
      | lift_lets
      | (with_reducible refine goes_hwTakeEnt _ _ ?_ ?_; exact subT rfl hW)
      | (with_reducible refine Goes.iteFst ?_ ?_)
      | split

theorem goes_popPacket' {W : List Part} {s0 : State} (n q : Nat) (b : Bytes) (s : State) {u0 : State} {v0 : Option Bytes} (e : popPacket n q s b = (u0, v0)) (hW : subParts [.regs, .out, .que, .pba] W = true) (h : Goes W s0 s) : Goes W s0 u0 := by
  have := goes_popPacket n q b s hW h
  rw [e] at this
  exact this

theorem goes_tunnelVerify {W : List Part} {s0 : State} (s : State) (hW : subParts [.regs, .out, .free, .que, .ldg, .mem, .nvs, .lnk, .pba] W = true) (hg : Goes W s0 s) : Goes W s0 (State.tunnelVerify s) := by
  unfold State.tunnelVerify
  repeat' first
    | with_reducible assumption
    | intro x
    | lift_lets
    | (with_reducible refine goes_bumpSat _ _ _ ?_ ?_; exact subT rfl hW)
    | (with_reducible refine goes_ctxFor _ _ _ ?_ ?_; exact subT rfl hW)
    | (with_reducible refine goes_pushAll _ _ _ ?_ ?_; exact subT rfl hW)
    | (with_reducible refine goes_verify _ _ _ _ _ _ _ ?_ ?_; exact subT rfl hW)
    | (with_reducible refine goes_popPacket _ _ _ _ ?_ ?_; exact subT rfl hW)
    | (with_reducible refine Goes.ite ?_ ?_)
    | split

theorem goes_execTunnelVerify {W : List Part} {s0 : State} (s : State) (hW : subParts [.regs, .out, .free, .que, .ldg, .mem, .nvs, .lnk, .pba] W = true) (hg : Goes W s0 s) : ∀ t0, execTunnelVerify s = .next t0 → Goes W s0 t0 := by
  unfold execTunnelVerify
  intro t0 e0
  obtain rfl := Host.Outcome.next.inj e0
  clear e0
  repeat' first
    | with_reducible assumption
    | (with_reducible refine goes_tunnelVerify _ ?_ ?_; exact subT rfl hW)

theorem goes_lnkWrite {W : List Part} {s0 : State} (s : State) (m : Master) (off : Nat) (v : Word) (hW : subParts [.regs, .out, .ldg, .nvs, .lnk, .pba] W = true) (hg : Goes W s0 s) : GoesO W s0 (State.lnkWrite s m off v) := by
  unfold State.lnkWrite
  repeat' first
    | with_reducible assumption
    | lift_lets
    | (with_reducible refine goes_ctrWrite _ _ _ _ ?_ ?_; exact subT rfl hW)
    | (with_reducible refine goes_genWrite _ _ _ ?_ ?_; exact subT rfl hW)
    | (with_reducible refine goes_genNextWrite _ _ _ ?_ ?_; exact subT rfl hW)
    | (with_reducible refine goes_ctxDrop _ _ ?_ ?_; exact subT rfl hW)
    | (refine GoesO.some ?_)
    | exact GoesO.none
    | (with_reducible refine Goes.ite ?_ ?_)
    | (with_reducible refine GoesO.ite ?_ ?_)

theorem goes_routeWrite {W : List Part} {s0 : State} (s : State) (m : Master) (off : Nat) (v : Word) (hW : subParts [.regs, .out, .pba] W = true) (hg : Goes W s0 s) : GoesO W s0 (State.routeWrite s m off v) := by
  unfold State.routeWrite
  repeat' first
    | with_reducible assumption
    | lift_lets
    | (with_reducible refine goes_err _ _ _ _ _ ?_ ?_; exact subT rfl hW)
    | (refine GoesO.some ?_)
    | exact GoesO.none
    | (with_reducible refine GoesO.ite ?_ ?_)

theorem goes_lnkDisable {W : List Part} {s0 : State} (s : State) (hW : subParts [.regs, .out, .que, .rad, .net, .pba] W = true) (hg : Goes W s0 s) : Goes W s0 (State.lnkDisable s) := by
  unfold State.lnkDisable
  repeat' first
    | with_reducible assumption
    | lift_lets
    | (with_reducible refine goes_lnkCancel _ _ ?_ ?_; exact subT rfl hW)
    | (refine Goes.foldl (fun _ _ _ => ?_) ?_)

theorem goes_lnkKill {W : List Part} {s0 : State} (s : State) (hW : subParts [.regs, .out, .free, .que, .rad, .net, .pba] W = true) (hg : Goes W s0 s) : Goes W s0 (State.lnkKill s) := by
  unfold State.lnkKill
  repeat' first
    | with_reducible assumption
    | lift_lets
    | (with_reducible refine goes_rxAbort _ _ ?_ ?_; exact subT rfl hW)
    | (with_reducible refine goes_radKill _ _ ?_ ?_; exact subT rfl hW)
    | (with_reducible refine goes_lnkDrain _ ?_ ?_; exact subT rfl hW)
    | (refine Goes.foldl (fun _ _ _ => ?_) ?_)

theorem goes_ctrResume {W : List Part} {s0 : State} (s : State) (i : Nat) (hW : subParts [.regs, .out, .lnk, .pba] W = true) (hg : Goes W s0 s) : Goes W s0 (State.ctrResume s i) := by
  unfold State.ctrResume
  repeat' first
    | with_reducible assumption
    | intro x
    | lift_lets
    | (with_reducible refine goes_sendCtr _ _ _ ?_ ?_; exact subT rfl hW)
    | (fail_if_no_progress (with_reducible refine goes_set_lnk _ _ ?_ ?_; exact subT rfl hW))

theorem goes_lnkReset {W : List Part} {s0 : State} (s : State) (hW : subParts [.regs, .out, .lnk, .pba] W = true) (hg : Goes W s0 s) : Goes W s0 (State.lnkReset s) := by
  unfold State.lnkReset
  repeat' first
    | with_reducible assumption
    | intro x
    | lift_lets
    | (with_reducible refine goes_ctrResume _ _ ?_ ?_; exact subT rfl hW)
    | (refine Goes.foldl (fun _ _ _ => ?_) ?_)
    | (fail_if_no_progress (with_reducible refine goes_set_lnk _ _ ?_ ?_; exact subT rfl hW))

end Sys2Proof.Machine
end

