-- ==== Sys2Proof/Laws/GoesCorridor.lean ====
section
/-! SUPPORT. What the operations of Machine/Corridor.lean can change: one lemma each. -/

set_option linter.unreachableTactic false
set_option linter.unusedTactic false

namespace Sys2Proof.Machine

open Sys2Proof

theorem goes_stage {W : List Part} {s0 : State} (s : State) (b : Bytes) (hW : subParts [.regs, .cor] W = true) (hg : Goes W s0 s) : Goes W s0 (State.stage s b) := by
  unfold State.stage
  repeat' first
    | with_reducible assumption
    | (with_reducible refine goes_corWrite _ _ _ ?_ ?_; exact subT rfl hW)

theorem goes_execGraphCheck {W : List Part} {s0 : State} (m : Master) (s : State) (hW : subParts [.regs, .out, .resp, .cor, .host, .pba] W = true) (hg : Goes W s0 s) : ∀ t0, execGraphCheck m s = .next t0 → Goes W s0 t0 := by
  unfold execGraphCheck
  intro t0 e0
  obtain rfl := Host.Outcome.next.inj e0
  clear e0
  repeat' first
    | with_reducible assumption
    | intro x
    | lift_lets
    | (with_reducible refine goes_answer _ _ ?_ ?_; exact subT rfl hW)
    | (with_reducible refine goes_writeAt _ _ _ _ _ _ ?_ (fun _ _ => ?_) ?_; exact subT rfl hW)
    | split
    | (fail_if_no_progress (with_reducible refine goes_set_cor _ _ ?_ ?_; exact subT rfl hW))

theorem goes_corNoTime {W : List Part} {s0 : State} (s : State) (code : Nat) (at32 : Word) (hW : subParts [.regs, .out, .ldg, .pba] W = true) (hg : Goes W s0 s) : Goes W s0 (State.corNoTime s code at32) := by
  unfold State.corNoTime
  repeat' first
    | with_reducible assumption
    | lift_lets
    | (with_reducible refine goes_noTime _ _ _ ?_ ?_; exact subT rfl hW)
    | (with_reducible refine Goes.ite ?_ ?_)

theorem goes_armSwap {W : List Part} {s0 : State} (s : State) (at32 : Word) (hW : subParts [.regs, .out, .ldg, .cor, .pba] W = true) (hg : Goes W s0 s) : Goes W s0 (State.armSwap s at32).1 := by
  unfold State.armSwap
  repeat' first
    | with_reducible assumption
    | (intro x; refine Goes.cut (W := W) (s0 := s0) (x := x) ?_ ?_; rotate_left; clear_value x; intro hx; rotate_right)
    | intro x
    | lift_lets
    | (with_reducible refine goes_wb _ _ _ _ ?_ ?_; exact subT rfl hW)
    | (with_reducible refine goes_corNoTime _ _ _ ?_ ?_; exact subT rfl hW)
    | (with_reducible refine Goes.iteFst ?_ ?_)
    | split
    | (fail_if_no_progress (with_reducible refine goes_set_cor _ _ ?_ ?_; exact subT rfl hW))

theorem goes_armSwap' {W : List Part} {s0 : State} (s : State) (at32 : Word) {u0 : State} {v0 : Option Nat} (e : State.armSwap s at32 = (u0, v0)) (hW : subParts [.regs, .out, .ldg, .cor, .pba] W = true) (hg : Goes W s0 s) : Goes W s0 u0 := by
  have := goes_armSwap s at32 hW hg
  rw [e] at this
  exact this

theorem goes_corErr {W : List Part} {s0 : State} (r : State × Option Nat) (off : Nat) (m : Master) (hW : subParts [.regs, .out, .pba] W = true)
    (h : Goes W s0 r.1) : Goes W s0 (State.corErr r off m) := by
  unfold State.corErr
  split
  · exact goes_err _ _ _ _ _ hW h
  · exact h

theorem goes_execGraphArm {W : List Part} {s0 : State} (m : Master) (s : State) (hW : subParts [.regs, .out, .resp, .ldg, .cor, .host, .pba] W = true) (hg : Goes W s0 s) : ∀ t0, execGraphArm m s = .next t0 → Goes W s0 t0 := by
  unfold execGraphArm
  intro t0 e0
  obtain rfl := Host.Outcome.next.inj e0
  clear e0
  repeat' first
    | with_reducible assumption
    | lift_lets
    | (with_reducible refine goes_answer _ _ ?_ ?_; exact subT rfl hW)
    | (with_reducible refine goes_writeAt _ _ _ _ _ _ ?_ (fun _ _ => ?_) ?_; exact subT rfl hW)
    | (with_reducible refine goes_armSwap _ _ ?_ ?_; exact subT rfl hW)
    | (with_reducible refine goes_corErr _ _ _ ?_ ?_; exact subT rfl hW)

theorem goes_disarm {W : List Part} {s0 : State} (s : State) (hW : subParts [.regs, .cor] W = true) (hg : Goes W s0 s) : Goes W s0 (State.disarm s) := by
  unfold State.disarm
  repeat' first
    | with_reducible assumption
    | (intro x; refine Goes.cut (W := W) (s0 := s0) (x := x) ?_ ?_; rotate_left; clear_value x; intro hx; rotate_right)
    | intro x
    | lift_lets
    | (with_reducible refine goes_wb _ _ _ _ ?_ ?_; exact subT rfl hW)
    | (fail_if_no_progress (with_reducible refine goes_set_cor _ _ ?_ ?_; exact subT rfl hW))

theorem goes_execGraphDisarm {W : List Part} {s0 : State} (m : Master) (s : State) (hW : subParts [.regs, .out, .resp, .cor, .host, .pba] W = true) (hg : Goes W s0 s) : ∀ t0, execGraphDisarm m s = .next t0 → Goes W s0 t0 := by
  unfold execGraphDisarm
  intro t0 e0
  obtain rfl := Host.Outcome.next.inj e0
  clear e0
  repeat' first
    | with_reducible assumption
    | lift_lets
    | (with_reducible refine goes_answer _ _ ?_ ?_; exact subT rfl hW)
    | (with_reducible refine goes_writeAt _ _ _ _ _ _ ?_ (fun _ _ => ?_) ?_; exact subT rfl hW)
    | (with_reducible refine goes_disarm _ ?_ ?_; exact subT rfl hW)

theorem goes_graphReply {W : List Part} {s0 : State} (s : State) (ok : Bool) (hW : subParts [.regs, .out, .mbx, .ldg, .cor, .pba] W = true) (hg : Goes W s0 s) : Goes W s0 (State.graphReply s ok) := by
  unfold State.graphReply
  repeat' first
    | with_reducible assumption
    | intro x
    | lift_lets
    | (with_reducible refine goes_replyAt _ _ _ _ _ _ ?_ ?_; exact subT rfl hW)
    | (with_reducible refine goes_reply _ _ _ _ _ ?_ ?_; exact subT rfl hW)
    | (with_reducible refine goes_armSwap' _ _ (by assumption) ?_ ?_; exact subT rfl hW)
    | (with_reducible refine Goes.ite ?_ ?_)
    | split

theorem goes_graphChecked {W : List Part} {s0 : State} (s : State) (hW : subParts [.regs, .out, .mbx, .ldg, .cor, .pba] W = true) (hg : Goes W s0 s) : Goes W s0 (State.graphChecked s) := by
  unfold State.graphChecked
  repeat' first
    | with_reducible assumption
    | (intro x; refine Goes.cut (W := W) (s0 := s0) (x := x) ?_ ?_; rotate_left; clear_value x; intro hx; rotate_right)
    | intro x
    | lift_lets
    | (with_reducible refine goes_wr _ _ _ ?_ ?_; exact subT rfl hW)
    | (with_reducible refine goes_wb _ _ _ _ ?_ ?_; exact subT rfl hW)
    | (with_reducible refine goes_irq _ _ _ ?_ ?_; exact subT rfl hW)
    | (with_reducible refine goes_graphReply _ _ ?_ ?_; exact subT rfl hW)
    | (with_reducible refine Goes.ite ?_ ?_)
    | (fail_if_no_progress (with_reducible refine goes_set_cor _ _ ?_ ?_; exact subT rfl hW))

theorem goes_execGraphCheckDone {W : List Part} {s0 : State} (s : State) (hW : subParts [.regs, .out, .mbx, .ldg, .cor, .pba] W = true) (hg : Goes W s0 s) : ∀ t0, execGraphCheckDone s = .next t0 → Goes W s0 t0 := by
  unfold execGraphCheckDone
  intro t0 e0
  obtain rfl := Host.Outcome.next.inj e0
  clear e0
  repeat' first
    | with_reducible assumption
    | (with_reducible refine goes_graphChecked _ ?_ ?_; exact subT rfl hW)

theorem goes_graphSwap {W : List Part} {s0 : State} (s : State) (hW : subParts [.regs, .out, .mbx, .ldg, .cor, .pba] W = true) (hg : Goes W s0 s) : Goes W s0 (State.graphSwap s) := by
  unfold State.graphSwap
  repeat' first
    | with_reducible assumption
    | (intro x; refine Goes.cut (W := W) (s0 := s0) (x := x) ?_ ?_; rotate_left; clear_value x; intro hx; rotate_right)
    | intro x
    | lift_lets
    | (with_reducible refine goes_wr _ _ _ ?_ ?_; exact subT rfl hW)
    | (with_reducible refine goes_bumpSat _ _ _ ?_ ?_; exact subT rfl hW)
    | (with_reducible refine goes_irq _ _ _ ?_ ?_; exact subT rfl hW)
    | (with_reducible refine goes_event _ _ _ _ ?_ ?_; exact subT rfl hW)
    | (with_reducible refine Goes.ite ?_ ?_)
    | split
    | (fail_if_no_progress (with_reducible refine goes_set_cor _ _ ?_ ?_; exact subT rfl hW))

theorem goes_execGraphSwap {W : List Part} {s0 : State} (s : State) (hW : subParts [.regs, .out, .mbx, .ldg, .cor, .pba] W = true) (hg : Goes W s0 s) : ∀ t0, execGraphSwap s = .next t0 → Goes W s0 t0 := by
  unfold execGraphSwap
  intro t0 e0
  obtain rfl := Host.Outcome.next.inj e0
  clear e0
  repeat' first
    | with_reducible assumption
    | (with_reducible refine goes_graphSwap _ ?_ ?_; exact subT rfl hW)

theorem goes_policyCommit {W : List Part} {s0 : State} (s : State) (at32 : Word) (hW : subParts [.regs, .out, .ldg, .cor, .pba] W = true) (hg : Goes W s0 s) : Goes W s0 (State.policyCommit s at32).1 := by
  unfold State.policyCommit
  repeat' first
    | with_reducible assumption
    | (intro x; refine Goes.cut (W := W) (s0 := s0) (x := x) ?_ ?_; rotate_left; clear_value x; intro hx; rotate_right)
    | intro x
    | lift_lets
    | (with_reducible refine goes_wb _ _ _ _ ?_ ?_; exact subT rfl hW)
    | (with_reducible refine goes_corNoTime _ _ _ ?_ ?_; exact subT rfl hW)
    | split
    | (fail_if_no_progress (with_reducible refine goes_set_cor _ _ ?_ ?_; exact subT rfl hW))

theorem goes_policyCommit' {W : List Part} {s0 : State} (s : State) (at32 : Word) {u0 : State} {v0 : Option Nat} (e : State.policyCommit s at32 = (u0, v0)) (hW : subParts [.regs, .out, .ldg, .cor, .pba] W = true) (hg : Goes W s0 s) : Goes W s0 u0 := by
  have := goes_policyCommit s at32 hW hg
  rw [e] at this
  exact this

theorem goes_execPolicyCommit {W : List Part} {s0 : State} (m : Master) (s : State) (hW : subParts [.regs, .out, .resp, .ldg, .cor, .host, .pba] W = true) (hg : Goes W s0 s) : ∀ t0, execPolicyCommit m s = .next t0 → Goes W s0 t0 := by
  unfold execPolicyCommit
  intro t0 e0
  obtain rfl := Host.Outcome.next.inj e0
  clear e0
  repeat' first
    | with_reducible assumption
    | lift_lets
    | (with_reducible refine goes_answer _ _ ?_ ?_; exact subT rfl hW)
    | (with_reducible refine goes_writeAt _ _ _ _ _ _ ?_ (fun _ _ => ?_) ?_; exact subT rfl hW)
    | (with_reducible refine goes_corErr _ _ _ ?_ ?_; exact subT rfl hW)
    | (with_reducible refine goes_policyCommit _ _ ?_ ?_; exact subT rfl hW)

theorem goes_policyApply {W : List Part} {s0 : State} (s : State) (hW : subParts [.regs, .cor] W = true) (hg : Goes W s0 s) : Goes W s0 (State.policyApply s) := by
  unfold State.policyApply
  repeat' first
    | with_reducible assumption
    | (intro x; refine Goes.cut (W := W) (s0 := s0) (x := x) ?_ ?_; rotate_left; clear_value x; intro hx; rotate_right)
    | intro x
    | lift_lets
    | (with_reducible refine goes_wr _ _ _ ?_ ?_; exact subT rfl hW)
    | (with_reducible refine goes_wb _ _ _ _ ?_ ?_; exact subT rfl hW)
    | (with_reducible refine Goes.ite ?_ ?_)
    | split
    | (fail_if_no_progress (with_reducible refine goes_set_cor _ _ ?_ ?_; exact subT rfl hW))

theorem goes_execPolicyApply {W : List Part} {s0 : State} (s : State) (hW : subParts [.regs, .cor] W = true) (hg : Goes W s0 s) : ∀ t0, execPolicyApply s = .next t0 → Goes W s0 t0 := by
  unfold execPolicyApply
  intro t0 e0
  obtain rfl := Host.Outcome.next.inj e0
  clear e0
  repeat' first
    | with_reducible assumption
    | (with_reducible refine goes_policyApply _ ?_ ?_; exact subT rfl hW)

theorem goes_popReports {W : List Part} {s0 : State} (q k16 n : Nat) (s : State) (hW : subParts [.regs, .out, .que, .pba] W = true) (h : Goes W s0 s) : Goes W s0 (popReports q k16 n s).1 := by
  induction n generalizing s with
  | zero =>
    unfold popReports
    repeat' first
      | assumption
  | succ n ih =>
    unfold popReports
    repeat' first
      | (with_reducible refine ih _ ?_)
      | with_reducible assumption
      | lift_lets
      | (with_reducible refine goes_hwTakeEnt' _ _ (by assumption) ?_ ?_; exact subT rfl hW)
      | (with_reducible refine Goes.iteFst ?_ ?_)
      | split
      | dsimp only

theorem goes_popReports' {W : List Part} {s0 : State} (q k16 n : Nat) (s : State) {u0 : State} {v0 : List DWord} (e : popReports q k16 n s = (u0, v0)) (hW : subParts [.regs, .out, .que, .pba] W = true) (h : Goes W s0 s) : Goes W s0 u0 := by
  have := goes_popReports q k16 n s hW h
  rw [e] at this
  exact this

theorem goes_intakeDone {W : List Part} {s0 : State} (s : State) (x : Intake) (popped : Nat) (hW : subParts [.regs, .out, .pba] W = true) (hg : Goes W s0 s) : Goes W s0 (State.intakeDone s x popped) := by
  unfold State.intakeDone
  repeat' first
    | with_reducible assumption
    | (intro x; refine Goes.cut (W := W) (s0 := s0) (x := x) ?_ ?_; rotate_left; clear_value x; intro hx; rotate_right)
    | lift_lets
    | (with_reducible refine goes_bumpSat _ _ _ ?_ ?_; exact subT rfl hW)
    | (with_reducible refine goes_irq _ _ _ ?_ ?_; exact subT rfl hW)
    | (with_reducible refine Goes.ite ?_ ?_)

theorem goes_intake {W : List Part} {s0 : State} (s : State) (hW : subParts [.regs, .out, .que, .cor, .pba] W = true) (hg : Goes W s0 s) : Goes W s0 (State.intake s).1 := by
  unfold State.intake
  repeat' first
    | with_reducible assumption
    | (intro x; refine Goes.cut (W := W) (s0 := s0) (x := x) ?_ ?_; rotate_left; clear_value x; intro hx; rotate_right)
    | intro x
    | lift_lets
    | (with_reducible refine goes_popReports _ _ _ _ ?_ ?_; exact subT rfl hW)
    | (with_reducible refine goes_intakeDone _ _ _ ?_ ?_; exact subT rfl hW)
    | (fail_if_no_progress (with_reducible refine goes_set_cor _ _ ?_ ?_; exact subT rfl hW))

theorem goes_intake' {W : List Part} {s0 : State} (s : State) {u0 : State} {v0 : Sparse Nat} (e : State.intake s = (u0, v0)) (hW : subParts [.regs, .out, .que, .cor, .pba] W = true) (hg : Goes W s0 s) : Goes W s0 u0 := by
  have := goes_intake s hW hg
  rw [e] at this
  exact this

theorem goes_searchTracks {W : List Part} {s0 : State} (s : State) (us : Nat) (reports : Sparse Nat) (hW : subParts [.regs, .cor] W = true) (hg : Goes W s0 s) : Goes W s0 (State.searchTracks s us reports) := by
  unfold State.searchTracks
  repeat' first
    | with_reducible assumption
    | intro x
    | lift_lets
    | (with_reducible refine goes_wb _ _ _ _ ?_ ?_; exact subT rfl hW)
    | (with_reducible refine goes_bumpSat _ _ _ ?_ ?_; exact subT rfl hW)
    | (fail_if_no_progress (with_reducible refine goes_set_cor _ _ ?_ ?_; exact subT rfl hW))

theorem goes_corridorRun {W : List Part} {s0 : State} (s : State) (us : Nat) (hW : subParts [.regs, .out, .mbx, .que, .ldg, .cor, .pba] W = true) (hg : Goes W s0 s) : Goes W s0 (State.corridorRun s us) := by
  unfold State.corridorRun
  repeat' first
    | with_reducible assumption
    | (intro x; refine Goes.cut (W := W) (s0 := s0) (x := x) ?_ ?_; rotate_left; clear_value x; intro hx; rotate_right)
    | intro x
    | lift_lets
    | (with_reducible refine goes_graphSwap _ ?_ ?_; exact subT rfl hW)
    | (with_reducible refine goes_policyApply _ ?_ ?_; exact subT rfl hW)
    | (with_reducible refine goes_intake _ ?_ ?_; exact subT rfl hW)
    | (with_reducible refine goes_searchTracks _ _ _ ?_ ?_; exact subT rfl hW)
    | (with_reducible refine Goes.ite ?_ ?_)

theorem goes_execCorridorRun {W : List Part} {s0 : State} (us : Nat) (s : State) (hW : subParts [.regs, .out, .mbx, .que, .ldg, .cor, .pba] W = true) (hg : Goes W s0 s) : ∀ t0, execCorridorRun us s = .next t0 → Goes W s0 t0 := by
  unfold execCorridorRun
  intro t0 e0
  obtain rfl := Host.Outcome.next.inj e0
  clear e0
  repeat' first
    | with_reducible assumption
    | (with_reducible refine goes_corridorRun _ _ ?_ ?_; exact subT rfl hW)

theorem goes_publishVertex {W : List Part} {s0 : State} (s : State) (g : Sparse Byte) (p : Sparse Nat) (acc : State × List (Nat × Bool)) (v : Nat)
    (hW : subParts [.cor] W = true) (hg : Goes W s0 acc.1) : Goes W s0 (s.publishVertex g p acc v).1 := by
  unfold State.publishVertex
  extract_lets st t c st2 pub n
  have h2 : Goes W s0 st2 := goes_set_cor _ _ hW hg
  split
  · exact h2
  · split <;> exact goes_set_cor _ _ hW h2

theorem goes_publishAll {W : List Part} {s0 : State} (s : State) (p : Sparse Nat) (hW : subParts [.regs, .cor] W = true) (hg : Goes W s0 s) :
    Goes W s0 (s.publishAll p).1 := by
  unfold State.publishAll
  extract_lets g c r
  have hr : Goes W s0 r.1 := Goes.foldlP (fun _ _ h => goes_publishVertex _ _ _ _ _ (subT rfl hW) h) (goes_set_cor _ _ (subT rfl hW) hg)
  exact goes_wr _ _ _ (subT rfl hW) hr

theorem goes_occAdd {W : List Part} {s0 : State} (s : State) (k : Nat) (o : Sparse (Nat × Nat × Nat)) (hW : subParts [.cor] W = true) (hg : Goes W s0 s) : Goes W s0 (State.occAdd s k o) := by
  unfold State.occAdd
  repeat' first
    | with_reducible assumption
    | intro x
    | lift_lets
    | (fail_if_no_progress (with_reducible refine goes_set_cor _ _ ?_ ?_; exact subT rfl hW))

theorem goes_occFreeze {W : List Part} {s0 : State} (s : State) (k : Nat) (hW : subParts [.cor] W = true) (hg : Goes W s0 s) : Goes W s0 (State.occFreeze s k) := by
  unfold State.occFreeze
  repeat' first
    | with_reducible assumption
    | (intro x; refine Goes.cut (W := W) (s0 := s0) (x := x) ?_ ?_; rotate_left; clear_value x; intro hx; rotate_right)
    | intro x
    | lift_lets
    | (with_reducible refine Goes.ite ?_ ?_)
    | (fail_if_no_progress (with_reducible refine goes_set_cor _ _ ?_ ?_; exact subT rfl hW))

theorem goes_occRowWrite {W : List Part} {s0 : State} (s : State) (hW : subParts [.regs, .out, .free, .ldg, .mem, .pba] W = true) (hg : Goes W s0 s) : Goes W s0 (State.occRowWrite s) := by
  unfold State.occRowWrite
  repeat' first
    | with_reducible assumption
    | intro x
    | lift_lets
    | (with_reducible refine goes_wr _ _ _ ?_ ?_; exact subT rfl hW)
    | (with_reducible refine goes_dramWrite _ _ _ ?_ ?_; exact subT rfl hW)
    | (with_reducible refine Goes.ite ?_ ?_)
    | split

theorem goes_execOccRowWrite {W : List Part} {s0 : State} (s : State) (hW : subParts [.regs, .out, .free, .ldg, .mem, .pba] W = true) (hg : Goes W s0 s) : ∀ t0, execOccRowWrite s = .next t0 → Goes W s0 t0 := by
  unfold execOccRowWrite
  intro t0 e0
  obtain rfl := Host.Outcome.next.inj e0
  clear e0
  repeat' first
    | with_reducible assumption
    | (with_reducible refine goes_occRowWrite _ ?_ ?_; exact subT rfl hW)

theorem goes_liveUpdate {W : List Part} {s0 : State} (s : State) (hW : subParts [.regs] W = true) (hg : Goes W s0 s) : Goes W s0 (State.liveUpdate s) := by
  unfold State.liveUpdate
  repeat' first
    | with_reducible assumption
    | intro x
    | lift_lets
    | (with_reducible refine goes_wr _ _ _ ?_ ?_; exact subT rfl hW)
    | (refine Goes.foldl (fun _ _ _ => ?_) ?_)

theorem goes_corDrain {W : List Part} {s0 : State} (s : State) (hW : subParts [.regs, .out, .pba] W = true) (hg : Goes W s0 s) : Goes W s0 (State.corDrain s) := by
  unfold State.corDrain
  repeat' first
    | with_reducible assumption
    | lift_lets
    | (with_reducible refine goes_setDrained _ _ ?_ ?_; exact subT rfl hW)
    | (with_reducible refine Goes.ite ?_ ?_)

theorem goes_corFinish {W : List Part} {s0 : State} (s : State) (hW : subParts [.regs, .out, .mbx, .ldg, .cor, .pba] W = true) (hg : Goes W s0 s) : Goes W s0 (State.corFinish s).1 := by
  unfold State.corFinish
  repeat' first
    | with_reducible assumption
    | (intro x; refine Goes.cut (W := W) (s0 := s0) (x := x) ?_ ?_; rotate_left; clear_value x; intro hx; rotate_right)
    | intro x
    | lift_lets
    | (with_reducible refine goes_wr _ _ _ ?_ ?_; exact subT rfl hW)
    | (with_reducible refine goes_wb _ _ _ _ ?_ ?_; exact subT rfl hW)
    | (with_reducible refine goes_bumpSat _ _ _ ?_ ?_; exact subT rfl hW)
    | (with_reducible refine goes_irq _ _ _ ?_ ?_; exact subT rfl hW)
    | (with_reducible refine goes_event _ _ _ _ ?_ ?_; exact subT rfl hW)
    | (with_reducible refine goes_publishAll _ _ ?_ ?_; exact subT rfl hW)
    | (with_reducible refine goes_occAdd _ _ _ ?_ ?_; exact subT rfl hW)
    | (with_reducible refine goes_occFreeze _ _ ?_ ?_; exact subT rfl hW)
    | (with_reducible refine goes_corDrain _ ?_ ?_; exact subT rfl hW)
    | (with_reducible refine Goes.iteFst ?_ ?_)
    | split
    | (fail_if_no_progress (with_reducible refine goes_set_cor _ _ ?_ ?_; exact subT rfl hW))

theorem goes_corFinish' {W : List Part} {s0 : State} (s : State) {u0 : State} {v0 : List (Nat × Bool)} (e : State.corFinish s = (u0, v0)) (hW : subParts [.regs, .out, .mbx, .ldg, .cor, .pba] W = true) (hg : Goes W s0 s) : Goes W s0 u0 := by
  have := goes_corFinish s hW hg
  rw [e] at this
  exact this

theorem goes_corReset {W : List Part} {s0 : State} (s : State) (hW : subParts [.regs, .out, .mbx, .cor, .pba] W = true) (hg : Goes W s0 s) : Goes W s0 (State.corReset s) := by
  unfold State.corReset
  repeat' first
    | with_reducible assumption
    | (intro x; refine Goes.cut (W := W) (s0 := s0) (x := x) ?_ ?_; rotate_left; clear_value x; intro hx; rotate_right)
    | lift_lets
    | (with_reducible refine goes_reply _ _ _ _ _ ?_ ?_; exact subT rfl hW)
    | (with_reducible refine Goes.ite ?_ ?_)
    | split
    | (fail_if_no_progress (with_reducible refine goes_set_cor _ _ ?_ ?_; exact subT rfl hW))

theorem goes_stageFor {W : List Part} {s0 : State} (s : State) (b : Bytes) (n : Nat) (hW : subParts [.regs, .cor] W = true) (hg : Goes W s0 s) :
    Goes W s0 (s.stageFor b n) :=
  goes_set_cor _ _ (subT rfl hW) (goes_stage _ _ (subT rfl hW) hg)

theorem goes_stageCopy {W : List Part} {s0 : State} (s : State) (o : Option Nat) (hW : subParts [.regs, .cor] W = true) (hg : Goes W s0 s) :
    Goes W s0 (s.stageCopy o) := by
  cases o with
  | none => exact hg
  | some i => exact goes_stageFor s _ 3 hW hg

theorem goes_corStart {W : List Part} {s0 : State} (s : State) (hW : subParts [.regs, .cor] W = true) (hg : Goes W s0 s) : Goes W s0 (State.corStart s) := by
  unfold State.corStart
  split
  · exact hg
  · exact goes_stageCopy s _ hW hg

theorem goes_corAutoArm {W : List Part} {s0 : State} (s : State) (hW : subParts [.regs, .cor] W = true) (hg : Goes W s0 s) : Goes W s0 (State.corAutoArm s) := by
  unfold State.corAutoArm
  repeat' first
    | with_reducible assumption
    | (intro x; refine Goes.cut (W := W) (s0 := s0) (x := x) ?_ ?_; rotate_left; clear_value x; intro hx; rotate_right)
    | intro x
    | lift_lets
    | (with_reducible refine goes_wr _ _ _ ?_ ?_; exact subT rfl hW)
    | (with_reducible refine goes_wb _ _ _ _ ?_ ?_; exact subT rfl hW)
    | (with_reducible refine Goes.ite ?_ ?_)
    | split
    | (fail_if_no_progress (with_reducible refine goes_set_cor _ _ ?_ ?_; exact subT rfl hW))

theorem goes_execGraphLoad {W : List Part} {s0 : State} (tag : Word) (s : State) (hW : subParts [.regs, .out, .mbx, .ldg, .emc, .cor, .pba] W = true) (hg : Goes W s0 s) : ∀ t0, execGraphLoad tag s = .next t0 → Goes W s0 t0 := by
  unfold execGraphLoad
  intro t0 e0
  obtain rfl := Host.Outcome.next.inj e0
  clear e0
  repeat' first
    | with_reducible assumption
    | (intro x; refine Goes.cut (W := W) (s0 := s0) (x := x) ?_ ?_; rotate_left; clear_value x; intro hx; rotate_right)
    | intro x
    | lift_lets
    | (with_reducible refine goes_reply _ _ _ _ _ ?_ ?_; exact subT rfl hW)
    | (with_reducible refine goes_defer _ _ ?_ ?_; exact subT rfl hW)
    | (with_reducible refine goes_withCmd _ _ _ _ ?_ (fun _ _ _ => ?_) ?_; exact subT rfl hW)
    | (with_reducible refine goes_stage _ _ ?_ ?_; exact subT rfl hW)
    | (with_reducible refine Goes.ite ?_ ?_)
    | split
    | (fail_if_no_progress (with_reducible refine goes_set_cor _ _ ?_ ?_; exact subT rfl hW))
    | (fail_if_no_progress (apply Goes.upd [.emc, .cor]; dsimp only; exact subT rfl hW; (intro p hp; cases p <;> first | rfl | simp at hp); first | exact fun c => c | exact fun c => ⟨c.1, c.2.1, c.2.2.1, c.2.2.2.1, c.2.2.2.2.1, memWrite_wf _ _ _ c.2.2.2.2.2.1, c.2.2.2.2.2.2⟩))
    | (dsimp +zetaDelta only)

theorem goes_policyReply {W : List Part} {s0 : State} (s : State) (c : Cmd) (hW : subParts [.regs, .out, .mbx, .ldg, .cor, .pba] W = true) (hg : Goes W s0 s) : Goes W s0 (State.policyReply s c) := by
  unfold State.policyReply
  repeat' first
    | with_reducible assumption
    | intro x
    | lift_lets
    | (with_reducible refine goes_wr _ _ _ ?_ ?_; exact subT rfl hW)
    | (with_reducible refine goes_replyAt _ _ _ _ _ _ ?_ ?_; exact subT rfl hW)
    | (with_reducible refine goes_reply _ _ _ _ _ ?_ ?_; exact subT rfl hW)
    | (with_reducible refine goes_policyCommit' _ _ (by assumption) ?_ ?_; exact subT rfl hW)
    | split

theorem goes_execPolicySet {W : List Part} {s0 : State} (tag : Word) (s : State) (hW : subParts [.regs, .out, .mbx, .ldg, .cor, .pba] W = true) (hg : Goes W s0 s) : ∀ t0, execPolicySet tag s = .next t0 → Goes W s0 t0 := by
  unfold execPolicySet
  intro t0 e0
  obtain rfl := Host.Outcome.next.inj e0
  clear e0
  repeat' first
    | with_reducible assumption
    | (intro x; refine Goes.cut (W := W) (s0 := s0) (x := x) ?_ ?_; rotate_left; clear_value x; intro hx; rotate_right)
    | lift_lets
    | (with_reducible refine goes_wr _ _ _ ?_ ?_; exact subT rfl hW)
    | (with_reducible refine goes_reply _ _ _ _ _ ?_ ?_; exact subT rfl hW)
    | (with_reducible refine goes_withCmd _ _ _ _ ?_ (fun _ _ _ => ?_) ?_; exact subT rfl hW)
    | (with_reducible refine goes_policyReply _ _ ?_ ?_; exact subT rfl hW)
    | (with_reducible refine Goes.ite ?_ ?_)
    | (refine Goes.foldl (fun _ _ _ => ?_) ?_)

theorem goes_execWeatherSet {W : List Part} {s0 : State} (tag : Word) (s : State) (hW : subParts [.regs, .out, .mbx, .ldg, .cor, .pba] W = true) (hg : Goes W s0 s) : ∀ t0, execWeatherSet tag s = .next t0 → Goes W s0 t0 := by
  unfold execWeatherSet
  intro t0 e0
  obtain rfl := Host.Outcome.next.inj e0
  clear e0
  repeat' first
    | with_reducible assumption
    | lift_lets
    | (with_reducible refine goes_wr _ _ _ ?_ ?_; exact subT rfl hW)
    | (with_reducible refine goes_reply _ _ _ _ _ ?_ ?_; exact subT rfl hW)
    | (with_reducible refine goes_withCmd _ _ _ _ ?_ (fun _ _ _ => ?_) ?_; exact subT rfl hW)
    | (with_reducible refine goes_policyReply _ _ ?_ ?_; exact subT rfl hW)
    | (with_reducible refine Goes.ite ?_ ?_)

theorem goes_execTracksGet {W : List Part} {s0 : State} (tag : Word) (s : State) (hW : subParts [.regs, .out, .mbx, .ldg, .pba] W = true) (hg : Goes W s0 s) : ∀ t0, execTracksGet tag s = .next t0 → Goes W s0 t0 := by
  unfold execTracksGet
  intro t0 e0
  obtain rfl := Host.Outcome.next.inj e0
  clear e0
  repeat' first
    | with_reducible assumption
    | lift_lets
    | (with_reducible refine goes_reply _ _ _ _ _ ?_ ?_; exact subT rfl hW)
    | (with_reducible refine goes_withCmd _ _ _ _ ?_ (fun _ _ _ => ?_) ?_; exact subT rfl hW)
    | (with_reducible refine Goes.ite ?_ ?_)

theorem goes_corCtrl {W : List Part} {s0 : State} (s : State) (m : Master) (off : Nat) (v : Word) (hW : subParts [.regs, .out, .ldg, .cor, .pba] W = true) (hg : Goes W s0 s) : GoesO W s0 (State.corCtrl s m off v) := by
  unfold State.corCtrl
  repeat' first
    | with_reducible assumption
    | (intro x; refine Goes.cut (W := W) (s0 := s0) (x := x) ?_ ?_; rotate_left; clear_value x; intro hx; rotate_right)
    | intro x
    | lift_lets
    | (with_reducible refine goes_armSwap _ _ ?_ ?_; exact subT rfl hW)
    | (with_reducible refine goes_corErr _ _ _ ?_ ?_; exact subT rfl hW)
    | (with_reducible refine goes_disarm _ ?_ ?_; exact subT rfl hW)
    | (with_reducible refine goes_policyCommit _ _ ?_ ?_; exact subT rfl hW)
    | (refine GoesO.some ?_)
    | exact GoesO.none
    | (with_reducible refine Goes.ite ?_ ?_)
    | (with_reducible refine GoesO.ite ?_ ?_)
    | (fail_if_no_progress (with_reducible refine goes_set_cor _ _ ?_ ?_; exact subT rfl hW))

end Sys2Proof.Machine
end

