-- ==== Sys2Proof/Laws/GoesMesh.lean ====
section
/-! SUPPORT. What the operations of Machine/Mesh.lean can change: one lemma each. -/

set_option linter.unreachableTactic false
set_option linter.unusedTactic false

namespace Sys2Proof.Machine

open Sys2Proof

theorem goes_sendUp {W : List Part} {s0 : State} (s : State) (typ : Nat) (ack : Bool) (pay : Bytes) (hW : subParts [.regs, .out, .que, .rad, .net, .pba] W = true) (hg : Goes W s0 s) : Goes W s0 (State.sendUp s typ ack pay) := by
  unfold State.sendUp
  repeat' first
    | with_reducible assumption
    | lift_lets
    | (with_reducible refine goes_fwSend _ _ _ _ _ _ ?_ ?_; exact subT rfl hW)
    | (with_reducible refine Goes.ite ?_ ?_)

theorem goes_noRoute {W : List Part} {s0 : State} (s : State) (hW : subParts [.net] W = true) (hg : Goes W s0 s) : Goes W s0 (State.noRoute s) := by
  unfold State.noRoute
  repeat' first
    | with_reducible assumption
    | intro x
    | lift_lets
    | (fail_if_no_progress (with_reducible refine goes_set_net _ _ ?_ ?_; exact subT rfl hW))

theorem goes_toChild {W : List Part} {s0 : State} (s : State) (c : Child) (ack : Bool) (psdu : Bytes) (hW : subParts [.regs, .out, .que, .rad, .net, .pba] W = true) (hg : Goes W s0 s) : Goes W s0 (State.toChild s c ack psdu) := by
  unfold State.toChild
  repeat' first
    | with_reducible assumption
    | intro x
    | lift_lets
    | (with_reducible refine goes_fwSend _ _ _ _ _ _ ?_ ?_; exact subT rfl hW)
    | (with_reducible refine goes_noRoute _ ?_ ?_; exact subT rfl hW)
    | (with_reducible refine Goes.ite ?_ ?_)
    | (fail_if_no_progress (with_reducible refine goes_set_net _ _ ?_ ?_; exact subT rfl hW))

theorem goes_sendDown {W : List Part} {s0 : State} (s : State) (final : Nat) (typ : Nat) (ack : Bool) (keysel : Nat) (gen : Nat) (pay : Bytes) (hW : subParts [.regs, .out, .que, .rad, .net, .pba] W = true) (hg : Goes W s0 s) : Goes W s0 (State.sendDown s final typ ack keysel gen pay) := by
  unfold State.sendDown
  repeat' first
    | with_reducible assumption
    | (with_reducible refine goes_noRoute _ ?_ ?_; exact subT rfl hW)
    | (with_reducible refine goes_toChild _ _ _ _ ?_ ?_; exact subT rfl hW)
    | split

theorem goes_commandTo {W : List Part} {s0 : State} (s : State) (final : Nat) (opc : Nat) (args : Bytes) (hW : subParts [.regs, .out, .que, .rad, .net, .pba] W = true) (hg : Goes W s0 s) : Goes W s0 (State.commandTo s final opc args) := by
  unfold State.commandTo
  repeat' first
    | with_reducible assumption
    | (with_reducible refine goes_sendDown _ _ _ _ _ _ _ ?_ ?_; exact subT rfl hW)

theorem goes_sendVia {W : List Part} {s0 : State} (s : State) (parent : Nat) (ridx : Nat) (ack : Bool) (psdu : Bytes) (hW : subParts [.regs, .out, .que, .nvs, .rad, .lnk, .net, .pba] W = true) (hg : Goes W s0 s) : Goes W s0 (State.sendVia s parent ridx ack psdu) := by
  unfold State.sendVia
  repeat' first
    | with_reducible assumption
    | lift_lets
    | (with_reducible refine goes_fwSend _ _ _ _ _ _ ?_ ?_; exact subT rfl hW)
    | (with_reducible refine goes_secure _ _ _ (by assumption) ?_ ?_; exact subT rfl hW)
    | (with_reducible refine goes_sendDown _ _ _ _ _ _ _ ?_ ?_; exact subT rfl hW)
    | (with_reducible refine Goes.ite ?_ ?_)
    | split

theorem goes_sendSegKey {W : List Part} {s0 : State} (s : State) (r : NodeRow) (g : Nat) (hW : subParts [.regs, .out, .que, .nvs, .rad, .lnk, .net, .pba] W = true) (hg : Goes W s0 s) : Goes W s0 (State.sendSegKey s r g) := by
  unfold State.sendSegKey
  repeat' first
    | with_reducible assumption
    | (with_reducible refine goes_sendVia _ _ _ _ _ ?_ ?_; exact subT rfl hW)
    | split

theorem goes_sendSegKeys {W : List Part} {s0 : State} (s : State) (g : Nat) (hW : subParts [.regs, .out, .que, .nvs, .rad, .lnk, .net, .pba] W = true) (hg : Goes W s0 s) : Goes W s0 (State.sendSegKeys s g) := by
  unfold State.sendSegKeys
  repeat' first
    | with_reducible assumption
    | lift_lets
    | (with_reducible refine goes_sendSegKey _ _ _ ?_ ?_; exact subT rfl hW)
    | (refine Goes.foldl (fun _ _ _ => ?_) ?_)

theorem goes_forwardMhop {W : List Part} {s0 : State} (s : State) (x : AirRx) (hW : subParts [.regs, .out, .que, .rad, .net, .pba] W = true) (hg : Goes W s0 s) : Goes W s0 (State.forwardMhop s x) := by
  unfold State.forwardMhop
  repeat' first
    | with_reducible assumption
    | (intro x; refine Goes.cut (W := W) (s0 := s0) (x := x) ?_ ?_; rotate_left; clear_value x; intro hx; rotate_right)
    | intro x
    | lift_lets
    | (with_reducible refine goes_fwSend _ _ _ _ _ _ ?_ ?_; exact subT rfl hW)
    | (with_reducible refine goes_noRoute _ ?_ ?_; exact subT rfl hW)
    | (with_reducible refine goes_toChild _ _ _ _ ?_ ?_; exact subT rfl hW)
    | (with_reducible refine Goes.ite ?_ ?_)
    | split
    | (fail_if_no_progress (with_reducible refine goes_set_net _ _ ?_ ?_; exact subT rfl hW))

theorem goes_forwardSleepy {W : List Part} {s0 : State} (s : State) (x : AirRx) (hW : subParts [.regs, .out, .que, .rad, .net, .pba] W = true) (hg : Goes W s0 s) : Goes W s0 (State.forwardSleepy s x) := by
  unfold State.forwardSleepy
  repeat' first
    | with_reducible assumption
    | intro x
    | lift_lets
    | (with_reducible refine goes_fwSend _ _ _ _ _ _ ?_ ?_; exact subT rfl hW)
    | (with_reducible refine Goes.ite ?_ ?_)
    | split

theorem goes_execMhopForward {W : List Part} {s0 : State} (x : AirRx) (s : State) (hW : subParts [.regs, .out, .que, .rad, .net, .pba] W = true) (hg : Goes W s0 s) : ∀ t0, execMhopForward x s = .next t0 → Goes W s0 t0 := by
  unfold execMhopForward
  intro t0 e0
  obtain rfl := Host.Outcome.next.inj e0
  clear e0
  repeat' first
    | with_reducible assumption
    | lift_lets
    | (with_reducible refine goes_forwardMhop _ _ ?_ ?_; exact subT rfl hW)
    | (with_reducible refine goes_forwardSleepy _ _ ?_ ?_; exact subT rfl hW)
    | (with_reducible refine Goes.ite ?_ ?_)

end Sys2Proof.Machine
end

