-- ==== Sys2Proof/Laws/GoesLevel.lean ====
section
/-! SUPPORT. What the operations of Machine/Level.lean can change: one lemma each. -/

set_option linter.unreachableTactic false
set_option linter.unusedTactic false

namespace Sys2Proof.Machine

open Sys2Proof

theorem goes_startFade {W : List Part} {s0 : State} (s : State) (code : Nat) (fade : Nat) (i : Nat) (hW : subParts [.lvl] W = true) (hg : Goes W s0 s) : Goes W s0 (State.startFade s code fade i) := by
  unfold State.startFade
  repeat' first
    | with_reducible assumption
    | intro x
    | lift_lets
    | (with_reducible refine Goes.ite ?_ ?_)
    | split
    | (fail_if_no_progress (with_reducible refine goes_set_lvl _ _ ?_ ?_; exact subT rfl hW))

theorem goes_lateLevel {W : List Part} {s0 : State} (s : State) (hW : subParts [.regs, .out, .pba] W = true) (hg : Goes W s0 s) : Goes W s0 (State.lateLevel s) := by
  unfold State.lateLevel
  repeat' first
    | with_reducible assumption
    | lift_lets
    | (with_reducible refine goes_bumpSat _ _ _ ?_ ?_; exact subT rfl hW)
    | (with_reducible refine goes_irq _ _ _ ?_ ?_; exact subT rfl hW)

theorem goes_fadeFrom {W : List Part} {s0 : State} (s : State) (code : Nat) (fade : Nat) (apply : Nat) (k : Nat) (late : Bool) (hW : subParts [.regs, .out, .lvl, .pba] W = true) (hg : Goes W s0 s) : Goes W s0 (State.fadeFrom s code fade apply k late) := by
  unfold State.fadeFrom
  repeat' first
    | with_reducible assumption
    | (intro x; refine Goes.cut (W := W) (s0 := s0) (x := x) ?_ ?_; rotate_left; clear_value x; intro hx; rotate_right)
    | lift_lets
    | (with_reducible refine goes_startFade _ _ _ _ ?_ ?_; exact subT rfl hW)
    | (with_reducible refine goes_lateLevel _ ?_ ?_; exact subT rfl hW)
    | (with_reducible refine Goes.ite ?_ ?_)

theorem goes_pendChange {W : List Part} {s0 : State} (s : State) (c : LvlChange) (hW : subParts [.lvl] W = true) (hg : Goes W s0 s) : Goes W s0 (State.pendChange s c) := by
  unfold State.pendChange
  repeat' first
    | with_reducible assumption
    | intro x
    | lift_lets
    | (with_reducible refine Goes.ite ?_ ?_)
    | split
    | (fail_if_no_progress (with_reducible refine goes_set_lvl _ _ ?_ ?_; exact subT rfl hW))

theorem goes_takeStripe {W : List Part} {s0 : State} (s : State) (p : Bytes) (hW : subParts [.regs, .out, .ldg, .lvl, .pba] W = true) (hg : Goes W s0 s) : Goes W s0 (State.takeStripe s p) := by
  unfold State.takeStripe
  repeat' first
    | with_reducible assumption
    | intro x
    | lift_lets
    | (with_reducible refine goes_bumpSat _ _ _ ?_ ?_; exact subT rfl hW)
    | (with_reducible refine goes_noTime _ _ _ ?_ ?_; exact subT rfl hW)
    | (with_reducible refine goes_pendChange _ _ ?_ ?_; exact subT rfl hW)
    | (with_reducible refine Goes.ite ?_ ?_)

theorem goes_performChange {W : List Part} {s0 : State} (s : State) (k : Nat) (c : LvlChange) (hW : subParts [.regs, .out, .lvl, .pba] W = true) (hg : Goes W s0 s) : Goes W s0 (State.performChange s k c).1 := by
  unfold State.performChange
  dsimp only
  refine Goes.iteFst hg (Goes.iteFst (goes_bumpSat _ _ _ (subT rfl hW) hg) ?_)
  have h := goes_fadeFrom s c.code c.fade (min c.apply k) k (decide (c.apply < k)) hW hg
  dsimp only
  split
  · exact goes_bumpSat _ _ _ (subT rfl hW) h
  · exact h

theorem goes_performChange' {W : List Part} {s0 : State} (s : State) (k : Nat) (c : LvlChange) {u0 : State} {v0 : Option LvlChange} (e : State.performChange s k c = (u0, v0)) (hW : subParts [.regs, .out, .lvl, .pba] W = true) (hg : Goes W s0 s) : Goes W s0 u0 := by
  have := goes_performChange s k c hW hg
  rw [e] at this
  exact this

theorem goes_performAll {W : List Part} {s0 : State} (k : Nat) (l : List LvlChange) (s : State) (hW : subParts [.regs, .out, .lvl, .pba] W = true) (h : Goes W s0 s) : Goes W s0 (performAll k l s).1 := by
  induction l generalizing s with
  | nil =>
    unfold performAll
    repeat' first
      | assumption
  | cons x r ih =>
    unfold performAll
    repeat' first
      | (with_reducible refine ih _ ?_)
      | with_reducible assumption
      | intro x
      | lift_lets
      | (with_reducible refine goes_performChange _ _ _ ?_ ?_; exact subT rfl hW)
      | (with_reducible refine Goes.iteFst ?_ ?_)

theorem goes_performAll' {W : List Part} {s0 : State} (k : Nat) (l : List LvlChange) (s : State) {u0 : State} {v0 : List LvlChange} (e : performAll k l s = (u0, v0)) (hW : subParts [.regs, .out, .lvl, .pba] W = true) (h : Goes W s0 s) : Goes W s0 u0 := by
  have := goes_performAll k l s hW h
  rw [e] at this
  exact this

theorem goes_levelEdge {W : List Part} {s0 : State} (s : State) (k : Nat) (hW : subParts [.regs, .out, .lvl, .pba] W = true) (hg : Goes W s0 s) : Goes W s0 (State.levelEdge s k) := by
  unfold State.levelEdge
  repeat' first
    | with_reducible assumption
    | (intro x; refine Goes.cut (W := W) (s0 := s0) (x := x) ?_ ?_; rotate_left; clear_value x; intro hx; rotate_right)
    | intro x
    | lift_lets
    | (with_reducible refine goes_performAll _ _ _ ?_ ?_; exact subT rfl hW)
    | (fail_if_no_progress (with_reducible refine goes_set_lvl _ _ ?_ ?_; exact subT rfl hW))

theorem goes_fadeStep {W : List Part} {s0 : State} (s : State) (n : Nat) (hW : subParts [.lvl] W = true) (hg : Goes W s0 s) : Goes W s0 (State.fadeStep s n) := by
  unfold State.fadeStep
  repeat' first
    | with_reducible assumption
    | intro x
    | lift_lets
    | (fail_if_no_progress (with_reducible refine goes_set_lvl _ _ ?_ ?_; exact subT rfl hW))

theorem goes_showLevel {W : List Part} {s0 : State} (s : State) (hW : subParts [.lvl] W = true) (hg : Goes W s0 s) : Goes W s0 (State.showLevel s) := by
  unfold State.showLevel
  repeat' first
    | with_reducible assumption
    | intro x
    | lift_lets
    | (with_reducible refine Goes.ite ?_ ?_)
    | (fail_if_no_progress (with_reducible refine goes_set_lvl _ _ ?_ ?_; exact subT rfl hW))

theorem goes_schedulePoint {W : List Part} {s0 : State} (s : State) (hW : subParts [.lvl] W = true) (hg : Goes W s0 s) : Goes W s0 (State.schedulePoint s) := by
  unfold State.schedulePoint
  repeat' first
    | with_reducible assumption
    | intro x
    | lift_lets
    | (with_reducible refine goes_startFade _ _ _ _ ?_ ?_; exact subT rfl hW)
    | (with_reducible refine Goes.ite ?_ ?_)
    | split

theorem goes_execSchedulePoint {W : List Part} {s0 : State} (s : State) (hW : subParts [.lvl] W = true) (hg : Goes W s0 s) : ∀ t0, execSchedulePoint s = .next t0 → Goes W s0 t0 := by
  unfold execSchedulePoint
  intro t0 e0
  obtain rfl := Host.Outcome.next.inj e0
  clear e0
  repeat' first
    | with_reducible assumption
    | (with_reducible refine goes_schedulePoint _ ?_ ?_; exact subT rfl hW)

theorem goes_noSchedule {W : List Part} {s0 : State} (s : State) (hW : subParts [.lvl] W = true) (hg : Goes W s0 s) : Goes W s0 (State.noSchedule s) := by
  unfold State.noSchedule
  repeat' first
    | with_reducible assumption
    | intro x
    | lift_lets
    | (with_reducible refine goes_startFade _ _ _ _ ?_ ?_; exact subT rfl hW)
    | (with_reducible refine Goes.ite ?_ ?_)

theorem goes_litAgain {W : List Part} {s0 : State} (s : State) (hW : subParts [.lvl] W = true) (hg : Goes W s0 s) : Goes W s0 (State.litAgain s) := by
  unfold State.litAgain
  repeat' first
    | with_reducible assumption
    | lift_lets
    | (with_reducible refine goes_noSchedule _ ?_ ?_; exact subT rfl hW)
    | (with_reducible refine Goes.ite ?_ ?_)

theorem goes_lvlCopy {W : List Part} {s0 : State} (s : State) (hW : subParts [.lvl] W = true) (hg : Goes W s0 s) : Goes W s0 (State.lvlCopy s) := by
  unfold State.lvlCopy
  repeat' first
    | with_reducible assumption
    | intro x
    | lift_lets
    | (fail_if_no_progress (with_reducible refine goes_set_lvl _ _ ?_ ?_; exact subT rfl hW))

theorem goes_lvlStart {W : List Part} {s0 : State} (s : State) (cold : Bool) (hW : subParts [.regs, .lvl] W = true) (hg : Goes W s0 s) : Goes W s0 (State.lvlStart s cold) := by
  unfold State.lvlStart
  repeat' first
    | with_reducible assumption
    | (intro x; refine Goes.cut (W := W) (s0 := s0) (x := x) ?_ ?_; rotate_left; clear_value x; intro hx; rotate_right)
    | lift_lets
    | (with_reducible refine goes_wr _ _ _ ?_ ?_; exact subT rfl hW)
    | (with_reducible refine goes_lvlCopy _ ?_ ?_; exact subT rfl hW)
    | (with_reducible refine Goes.ite ?_ ?_)
    | split
    | (refine Goes.foldl (fun _ _ _ => ?_) ?_)

theorem goes_schedSet {W : List Part} {s0 : State} (s : State) (a : Bytes) (hW : subParts [.regs, .lvl] W = true) (hg : Goes W s0 s) : Goes W s0 (State.schedSet s a) := by
  unfold State.schedSet
  repeat' first
    | with_reducible assumption
    | intro x
    | lift_lets
    | (with_reducible refine goes_wr _ _ _ ?_ ?_; exact subT rfl hW)
    | (with_reducible refine goes_lvlCopy _ ?_ ?_; exact subT rfl hW)
    | (refine Goes.foldl (fun _ _ _ => ?_) ?_)

theorem goes_execSchedSet {W : List Part} {s0 : State} (x : AirRx) (s : State) (hW : subParts [.regs, .lvl] W = true) (hg : Goes W s0 s) : ∀ t0, execSchedSet x s = .next t0 → Goes W s0 t0 := by
  unfold execSchedSet
  intro t0 e0
  obtain rfl := Host.Outcome.next.inj e0
  clear e0
  repeat' first
    | with_reducible assumption
    | lift_lets
    | (with_reducible refine goes_schedSet _ _ ?_ ?_; exact subT rfl hW)
    | (with_reducible refine Goes.ite ?_ ?_)

theorem goes_queueStripe {W : List Part} {s0 : State} (s : State) (n : Nat) (fade : Nat) (epoch : Nat) (apply : Word) (hW : subParts [.regs, .out, .ldg, .lvl, .pba] W = true) (hg : Goes W s0 s) : Goes W s0 (State.queueStripe s n fade epoch apply) := by
  unfold State.queueStripe
  repeat' first
    | with_reducible assumption
    | (intro x; refine Goes.cut (W := W) (s0 := s0) (x := x) ?_ ?_; rotate_left; clear_value x; intro hx; rotate_right)
    | intro x
    | lift_lets
    | (with_reducible refine goes_takeStripe _ _ ?_ ?_; exact subT rfl hW)
    | (with_reducible refine Goes.ite ?_ ?_)
    | (fail_if_no_progress (with_reducible refine goes_set_lvl _ _ ?_ ?_; exact subT rfl hW))

theorem goes_noteStripe {W : List Part} {s0 : State} (s : State) (n : Nat) (fade : Nat) (apply : Word) (hW : subParts [.lvl] W = true) (hg : Goes W s0 s) : Goes W s0 (State.noteStripe s n fade apply) := by
  unfold State.noteStripe
  repeat' first
    | with_reducible assumption
    | intro x
    | lift_lets
    | (fail_if_no_progress (with_reducible refine goes_set_lvl _ _ ?_ ?_; exact subT rfl hW))

theorem goes_buildStripes {W : List Part} {s0 : State} (s : State) (k : Nat) (l : List (Nat × Bool)) (hW : subParts [.regs, .out, .ldg, .lvl, .pba] W = true) (hg : Goes W s0 s) : Goes W s0 (State.buildStripes s k l) := by
  unfold State.buildStripes
  repeat' first
    | with_reducible assumption
    | intro x
    | lift_lets
    | (with_reducible refine goes_queueStripe _ _ _ _ _ ?_ ?_; exact subT rfl hW)
    | (with_reducible refine goes_noteStripe _ _ _ _ ?_ ?_; exact subT rfl hW)
    | (with_reducible refine Goes.ite ?_ ?_)
    | split
    | (refine Goes.foldl (fun _ _ _ => ?_) ?_)

theorem goes_execLevelPublish {W : List Part} {s0 : State} (s : State) (hW : subParts [.regs, .out, .mbx, .ldg, .cor, .lvl, .pba] W = true) (hg : Goes W s0 s) : ∀ t0, execLevelPublish s = .next t0 → Goes W s0 t0 := by
  unfold execLevelPublish
  intro t0 e0
  obtain rfl := Host.Outcome.next.inj e0
  clear e0
  repeat' first
    | with_reducible assumption
    | intro x
    | lift_lets
    | (with_reducible refine goes_corFinish _ ?_ ?_; exact subT rfl hW)
    | (with_reducible refine goes_buildStripes _ _ _ ?_ ?_; exact subT rfl hW)

theorem goes_modeSent {W : List Part} {s0 : State} (s : State) (hW : subParts [.lvl] W = true) (hg : Goes W s0 s) : Goes W s0 (State.modeSent s) := by
  unfold State.modeSent
  repeat' first
    | with_reducible assumption
    | intro x
    | lift_lets
    | split
    | (fail_if_no_progress (with_reducible refine goes_set_lvl _ _ ?_ ?_; exact subT rfl hW))

theorem goes_freshBuild {W : List Part} {s0 : State} (s : State) (k : Nat) (hW : subParts [.free, .lvl] W = true) (hg : Goes W s0 s) : Goes W s0 (State.freshBuild s k) := by
  unfold State.freshBuild
  repeat' first
    | with_reducible assumption
    | intro x
    | lift_lets
    | (with_reducible refine goes_draw _ _ ?_ ?_; exact subT rfl hW)
    | (with_reducible refine Goes.ite ?_ ?_)
    | split
    | (fail_if_no_progress (with_reducible refine goes_set_lvl _ _ ?_ ?_; exact subT rfl hW))

theorem goes_floodOut {W : List Part} {s0 : State} (s : State) (k : Nat) (us : Nat) (psdu : Bytes) (hW : subParts [.regs, .out, .nvs, .rad, .chn, .lvl, .pba] W = true) (hg : Goes W s0 s) : Goes W s0 (State.floodOut s k us psdu) := by
  unfold State.floodOut
  repeat' first
    | with_reducible assumption
    | (intro x; refine Goes.cut (W := W) (s0 := s0) (x := x) ?_ ?_; rotate_left; clear_value x; intro hx; rotate_right)
    | intro x
    | lift_lets
    | (with_reducible refine goes_bumpSat _ _ _ ?_ ?_; exact subT rfl hW)
    | (with_reducible refine goes_irq _ _ _ ?_ ?_; exact subT rfl hW)
    | (with_reducible refine goes_modRadio _ _ _ ?_ ?_; exact subT rfl hW)
    | (with_reducible refine goes_transmit _ _ _ _ _ _ _ ?_ ?_; exact subT rfl hW)
    | (with_reducible refine Goes.ite ?_ ?_)
    | (refine Goes.foldl (fun _ _ _ => ?_) ?_)
    | (fail_if_no_progress (with_reducible refine goes_set_lvl _ _ ?_ ?_; exact subT rfl hW))

theorem goes_waveTaken {W : List Part} {s0 : State} (s : State) (kind : Nat) (hW : subParts [.regs, .out, .ldg, .lvl, .pba] W = true) (hg : Goes W s0 s) : Goes W s0 (State.waveTaken s kind) := by
  unfold State.waveTaken
  repeat' first
    | with_reducible assumption
    | (intro x; refine Goes.cut (W := W) (s0 := s0) (x := x) ?_ ?_; rotate_left; clear_value x; intro hx; rotate_right)
    | intro x
    | lift_lets
    | (with_reducible refine goes_takeStripe _ _ ?_ ?_; exact subT rfl hW)
    | (with_reducible refine goes_modeSent _ ?_ ?_; exact subT rfl hW)
    | (with_reducible refine Goes.ite ?_ ?_)
    | split
    | (fail_if_no_progress (with_reducible refine goes_set_lvl _ _ ?_ ?_; exact subT rfl hW))

theorem goes_pruneSpans {W : List Part} {s0 : State} (s : State) (hW : subParts [.lvl] W = true) (hg : Goes W s0 s) : Goes W s0 (State.pruneSpans s) := by
  unfold State.pruneSpans
  repeat' first
    | with_reducible assumption
    | intro x
    | lift_lets
    | (fail_if_no_progress (with_reducible refine goes_set_lvl _ _ ?_ ?_; exact subT rfl hW))

theorem goes_waveStart {W : List Part} {s0 : State} (s : State) (f : Nat × Nat × Bytes) (hW : subParts [.regs, .out, .ldg, .nvs, .rad, .chn, .lnk, .lvl, .pba] W = true) (hg : Goes W s0 s) : Goes W s0 (State.waveStart s f) := by
  unfold State.waveStart
  repeat' first
    | with_reducible assumption
    | lift_lets
    | (with_reducible refine goes_wr _ _ _ ?_ ?_; exact subT rfl hW)
    | (with_reducible refine goes_bumpSat _ _ _ ?_ ?_; exact subT rfl hW)
    | (with_reducible refine goes_irq _ _ _ ?_ ?_; exact subT rfl hW)
    | (with_reducible refine goes_secure _ _ _ (by assumption) ?_ ?_; exact subT rfl hW)
    | (with_reducible refine goes_floodOut _ _ _ _ ?_ ?_; exact subT rfl hW)
    | (with_reducible refine goes_waveTaken _ _ ?_ ?_; exact subT rfl hW)
    | (with_reducible refine goes_pruneSpans _ ?_ ?_; exact subT rfl hW)
    | split
    | (fail_if_no_progress (with_reducible refine goes_set_lvl _ _ ?_ ?_; exact subT rfl hW))
    | dsimp only

theorem goes_execWaveStart {W : List Part} {s0 : State} (s : State) (hW : subParts [.regs, .out, .ldg, .nvs, .rad, .chn, .lnk, .lvl, .pba] W = true) (hg : Goes W s0 s) : ∀ t0, execWaveStart s = .next t0 → Goes W s0 t0 := by
  unfold execWaveStart
  intro t0 e0
  obtain rfl := Host.Outcome.next.inj e0
  clear e0
  repeat' first
    | with_reducible assumption
    | lift_lets
    | (with_reducible refine goes_waveStart _ _ ?_ ?_; exact subT rfl hW)
    | (with_reducible refine Goes.ite ?_ ?_)
    | split

theorem goes_execModeWave {W : List Part} {s0 : State} (s : State) (hW : subParts [.regs, .out, .ldg, .nvs, .rad, .chn, .lnk, .lvl, .pba] W = true) (hg : Goes W s0 s) : ∀ t0, execModeWave s = .next t0 → Goes W s0 t0 := by
  unfold execModeWave
  intro t0 e0
  obtain rfl := Host.Outcome.next.inj e0
  clear e0
  repeat' first
    | with_reducible assumption
    | lift_lets
    | (with_reducible refine goes_waveStart _ _ ?_ ?_; exact subT rfl hW)
    | (with_reducible refine Goes.ite ?_ ?_)
    | split

theorem goes_floodHeard {W : List Part} {s0 : State} (s : State) (x : AirRx) (hW : subParts [.regs, .lvl] W = true) (hg : Goes W s0 s) : Goes W s0 (State.floodHeard s x) := by
  unfold State.floodHeard
  repeat' first
    | with_reducible assumption
    | (intro x; refine Goes.cut (W := W) (s0 := s0) (x := x) ?_ ?_; rotate_left; clear_value x; intro hx; rotate_right)
    | intro x
    | lift_lets
    | (with_reducible refine goes_bumpSat _ _ _ ?_ ?_; exact subT rfl hW)
    | (with_reducible refine goes_pruneSpans _ ?_ ?_; exact subT rfl hW)
    | (with_reducible refine Goes.ite ?_ ?_)
    | (fail_if_no_progress (with_reducible refine goes_set_lvl _ _ ?_ ?_; exact subT rfl hW))

theorem goes_floodForward {W : List Part} {s0 : State} (s : State) (hW : subParts [.regs, .out, .nvs, .rad, .chn, .lvl, .pba] W = true) (hg : Goes W s0 s) : Goes W s0 (State.floodForward s) := by
  unfold State.floodForward
  repeat' first
    | with_reducible assumption
    | (intro x; refine Goes.cut (W := W) (s0 := s0) (x := x) ?_ ?_; rotate_left; clear_value x; intro hx; rotate_right)
    | intro x
    | lift_lets
    | (with_reducible refine goes_bumpSat _ _ _ ?_ ?_; exact subT rfl hW)
    | (with_reducible refine goes_floodOut _ _ _ _ ?_ ?_; exact subT rfl hW)
    | (with_reducible refine Goes.ite ?_ ?_)
    | split
    | (fail_if_no_progress (with_reducible refine goes_set_lvl _ _ ?_ ?_; exact subT rfl hW))

theorem goes_execFloodForward {W : List Part} {s0 : State} (s : State) (hW : subParts [.regs, .out, .nvs, .rad, .chn, .lvl, .pba] W = true) (hg : Goes W s0 s) : ∀ t0, execFloodForward s = .next t0 → Goes W s0 t0 := by
  unfold execFloodForward
  intro t0 e0
  obtain rfl := Host.Outcome.next.inj e0
  clear e0
  repeat' first
    | with_reducible assumption
    | (with_reducible refine goes_floodForward _ ?_ ?_; exact subT rfl hW)

theorem goes_execStripeReceive {W : List Part} {s0 : State} (x : AirRx) (s : State) (hW : subParts [.regs, .out, .cnt, .ldg, .lvl, .pba] W = true) (hg : Goes W s0 s) : ∀ t0, execStripeReceive x s = .next t0 → Goes W s0 t0 := by
  unfold execStripeReceive
  intro t0 e0
  obtain rfl := Host.Outcome.next.inj e0
  clear e0
  repeat' first
    | with_reducible assumption
    | (intro x; refine Goes.cut (W := W) (s0 := s0) (x := x) ?_ ?_; rotate_left; clear_value x; intro hx; rotate_right)
    | intro x
    | lift_lets
    | (with_reducible refine goes_bumpSat _ _ _ ?_ ?_; exact subT rfl hW)
    | (with_reducible refine goes_at _ _ ?_ ?_; exact subT rfl hW)
    | (with_reducible refine goes_takeStripe _ _ ?_ ?_; exact subT rfl hW)
    | (with_reducible refine goes_floodHeard _ _ ?_ ?_; exact subT rfl hW)
    | (with_reducible refine Goes.ite ?_ ?_)

theorem goes_lvlDisable {W : List Part} {s0 : State} (s : State) (hW : subParts [.lvl] W = true) (hg : Goes W s0 s) : Goes W s0 (State.lvlDisable s) := by
  unfold State.lvlDisable
  repeat' first
    | with_reducible assumption
    | intro x
    | lift_lets
    | split
    | (fail_if_no_progress (with_reducible refine goes_set_lvl _ _ ?_ ?_; exact subT rfl hW))

theorem goes_lvlEnable {W : List Part} {s0 : State} (s : State) (hW : subParts [.regs, .out, .free, .ldg, .lvl, .pba] W = true) (hg : Goes W s0 s) : Goes W s0 (State.lvlEnable s) := by
  unfold State.lvlEnable
  repeat' first
    | with_reducible assumption
    | (intro x; refine Goes.cut (W := W) (s0 := s0) (x := x) ?_ ?_; rotate_left; clear_value x; intro hx; rotate_right)
    | intro x
    | lift_lets
    | (with_reducible refine goes_draw _ _ ?_ ?_; exact subT rfl hW)
    | (with_reducible refine goes_takeStripe _ _ ?_ ?_; exact subT rfl hW)
    | (with_reducible refine Goes.ite ?_ ?_)
    | (refine Goes.foldl (fun _ _ _ => ?_) ?_)
    | (fail_if_no_progress (with_reducible refine goes_set_lvl _ _ ?_ ?_; exact subT rfl hW))

end Sys2Proof.Machine
end

