-- ==== Sys2Proof/Laws/GoesModes.lean ====
section
/-! SUPPORT. What the operations of Machine/Modes.lean can change: one lemma each. -/

set_option linter.unreachableTactic false
set_option linter.unusedTactic false

namespace Sys2Proof.Machine

open Sys2Proof

theorem goes_armGen {W : List Part} {s0 : State} (s : State) (g : Nat) (c : Nat) (hW : subParts [.regs] W = true) (hg : Goes W s0 s) : Goes W s0 (State.armGen s g c) := by
  unfold State.armGen
  repeat' first
    | with_reducible assumption
    | lift_lets
    | (with_reducible refine goes_wr _ _ _ ?_ ?_; exact subT rfl hW)

theorem goes_disarmGen {W : List Part} {s0 : State} (s : State) (hW : subParts [.regs] W = true) (hg : Goes W s0 s) : Goes W s0 (State.disarmGen s) := by
  unfold State.disarmGen
  repeat' first
    | with_reducible assumption
    | (with_reducible refine goes_wr _ _ _ ?_ ?_; exact subT rfl hW)

theorem goes_prepareMode {W : List Part} {s0 : State} (s : State) (m : SegMode) (c : Nat) (hW : subParts [.regs, .chn] W = true) (hg : Goes W s0 s) : Goes W s0 (State.prepareMode s m c) := by
  unfold State.prepareMode
  repeat' first
    | with_reducible assumption
    | (intro x; refine Goes.cut (W := W) (s0 := s0) (x := x) ?_ ?_; rotate_left; clear_value x; intro hx; rotate_right)
    | intro x
    | lift_lets
    | (with_reducible refine goes_armGen _ _ _ ?_ ?_; exact subT rfl hW)
    | (with_reducible refine Goes.ite ?_ ?_)
    | (fail_if_no_progress (with_reducible refine goes_set_chn _ _ ?_ ?_; exact subT rfl hW))

theorem goes_unprepareMode {W : List Part} {s0 : State} (s : State) (m : SegMode) (hW : subParts [.regs, .chn] W = true) (hg : Goes W s0 s) : Goes W s0 (State.unprepareMode s m) := by
  unfold State.unprepareMode
  repeat' first
    | with_reducible assumption
    | (intro x; refine Goes.cut (W := W) (s0 := s0) (x := x) ?_ ?_; rotate_left; clear_value x; intro hx; rotate_right)
    | intro x
    | lift_lets
    | (with_reducible refine goes_disarmGen _ ?_ ?_; exact subT rfl hW)
    | (with_reducible refine Goes.ite ?_ ?_)
    | (fail_if_no_progress (with_reducible refine goes_set_chn _ _ ?_ ?_; exact subT rfl hW))

theorem goes_hopArm {W : List Part} {s0 : State} (s : State) (l : List Nat) (c : Nat) (hW : subParts [.regs, .out, .chn, .pba] W = true) (hg : Goes W s0 s) : Goes W s0 (State.hopArm s l c) := by
  unfold State.hopArm
  repeat' first
    | with_reducible assumption
    | (intro x; refine Goes.cut (W := W) (s0 := s0) (x := x) ?_ ?_; rotate_left; clear_value x; intro hx; rotate_right)
    | intro x
    | lift_lets
    | (with_reducible refine goes_wr _ _ _ ?_ ?_; exact subT rfl hW)
    | (with_reducible refine goes_err _ _ _ _ _ ?_ ?_; exact subT rfl hW)
    | (with_reducible refine goes_stageHop _ _ _ ?_ ?_; exact subT rfl hW)
    | (with_reducible refine Goes.ite ?_ ?_)
    | (fail_if_no_progress (with_reducible refine goes_set_chn _ _ ?_ ?_; exact subT rfl hW))

theorem goes_hopStage {W : List Part} {s0 : State} (s : State) (hW : subParts [.regs, .out, .chn, .pba] W = true) (hg : Goes W s0 s) : Goes W s0 (State.hopStage s) := by
  unfold State.hopStage
  repeat' first
    | with_reducible assumption
    | (intro x; refine Goes.cut (W := W) (s0 := s0) (x := x) ?_ ?_; rotate_left; clear_value x; intro hx; rotate_right)
    | lift_lets
    | (with_reducible refine goes_chnAgain _ ?_ ?_; exact subT rfl hW)
    | (with_reducible refine goes_hopArm _ _ _ ?_ ?_; exact subT rfl hW)
    | (with_reducible refine Goes.ite ?_ ?_)
    | split

theorem goes_modeFade {W : List Part} {s0 : State} (s : State) (m : SegMode) (c : Option Nat) (k : Nat) (hW : subParts [.regs, .out, .lvl, .pba] W = true) (hg : Goes W s0 s) : Goes W s0 (State.modeFade s m c k) := by
  unfold State.modeFade
  repeat' first
    | with_reducible assumption
    | intro x
    | lift_lets
    | (with_reducible refine goes_startFade _ _ _ _ ?_ ?_; exact subT rfl hW)
    | (with_reducible refine goes_lateLevel _ ?_ ?_; exact subT rfl hW)
    | (with_reducible refine goes_noSchedule _ ?_ ?_; exact subT rfl hW)
    | (with_reducible refine Goes.ite ?_ ?_)
    | split

theorem goes_lateParts {W : List Part} {s0 : State} (s : State) (m : SegMode) (k : Nat) (hW : subParts [.regs, .out, .nvs, .chn, .lnk, .pba] W = true) (hg : Goes W s0 s) : Goes W s0 (State.lateParts s m k) := by
  unfold State.lateParts
  repeat' first
    | with_reducible assumption
    | (intro x; refine Goes.cut (W := W) (s0 := s0) (x := x) ?_ ?_; rotate_left; clear_value x; intro hx; rotate_right)
    | lift_lets
    | (with_reducible refine goes_hopInstall _ _ ?_ ?_; exact subT rfl hW)
    | (with_reducible refine goes_genSwitch _ ?_ ?_; exact subT rfl hW)
    | (with_reducible refine goes_armGen _ _ _ ?_ ?_; exact subT rfl hW)
    | (with_reducible refine Goes.ite ?_ ?_)
    | split

theorem goes_comeIn {W : List Part} {s0 : State} (s : State) (epoch : Nat) (m : SegMode) (c : Option Nat) (k : Nat) (hW : subParts [.regs, .out, .nvs, .chn, .lnk, .lvl, .pba] W = true) (hg : Goes W s0 s) : Goes W s0 (State.comeIn s epoch m c k) := by
  unfold State.comeIn
  repeat' first
    | with_reducible assumption
    | (intro x; refine Goes.cut (W := W) (s0 := s0) (x := x) ?_ ?_; rotate_left; clear_value x; intro hx; rotate_right)
    | intro x
    | lift_lets
    | (with_reducible refine goes_wr _ _ _ ?_ ?_; exact subT rfl hW)
    | (with_reducible refine goes_irq _ _ _ ?_ ?_; exact subT rfl hW)
    | (with_reducible refine goes_lvlCopy _ ?_ ?_; exact subT rfl hW)
    | (with_reducible refine goes_modeFade _ _ _ _ ?_ ?_; exact subT rfl hW)
    | (with_reducible refine goes_lateParts _ _ _ ?_ ?_; exact subT rfl hW)
    | (with_reducible refine Goes.ite ?_ ?_)
    | (fail_if_no_progress (with_reducible refine goes_set_chn _ _ ?_ ?_; exact subT rfl hW))
    | (fail_if_no_progress (with_reducible refine goes_set_lvl _ _ ?_ ?_; exact subT rfl hW))

theorem goes_setApplied {W : List Part} {s0 : State} (s : State) (i : Nat) (hW : subParts [.regs] W = true) (hg : Goes W s0 s) : Goes W s0 (State.setApplied s i) := by
  unfold State.setApplied
  repeat' first
    | with_reducible assumption
    | (with_reducible refine goes_wb _ _ _ _ ?_ ?_; exact subT rfl hW)

theorem goes_headApplied {W : List Part} {s0 : State} (s : State) (a : Announce) (hW : subParts [.regs, .out, .mbx, .ldg, .lvl, .pba] W = true) (hg : Goes W s0 s) : Goes W s0 (State.headApplied s a) := by
  unfold State.headApplied
  repeat' first
    | with_reducible assumption
    | (intro x; refine Goes.cut (W := W) (s0 := s0) (x := x) ?_ ?_; rotate_left; clear_value x; intro hx; rotate_right)
    | intro x
    | lift_lets
    | (with_reducible refine goes_wr _ _ _ ?_ ?_; exact subT rfl hW)
    | (with_reducible refine goes_replyAt _ _ _ _ _ _ ?_ ?_; exact subT rfl hW)
    | (with_reducible refine goes_event _ _ _ _ ?_ ?_; exact subT rfl hW)
    | (with_reducible refine goes_setApplied _ _ ?_ ?_; exact subT rfl hW)
    | split
    | (refine Goes.foldl (fun _ _ _ => ?_) ?_)
    | (fail_if_no_progress (with_reducible refine goes_set_lvl _ _ ?_ ?_; exact subT rfl hW))
    | (dsimp +zetaDelta only)

theorem goes_modeDefer {W : List Part} {s0 : State} (s : State) (at' : Nat) (k : Nat) (hW : subParts [.lvl] W = true) (hg : Goes W s0 s) : Goes W s0 (State.modeDefer s at' k) := by
  unfold State.modeDefer
  repeat' first
    | with_reducible assumption
    | intro x
    | lift_lets
    | (with_reducible refine Goes.ite ?_ ?_)
    | (fail_if_no_progress (with_reducible refine goes_set_lvl _ _ ?_ ?_; exact subT rfl hW))

theorem goes_modeEdge {W : List Part} {s0 : State} (s : State) (k : Nat) (hW : subParts [.regs, .out, .mbx, .ldg, .nvs, .chn, .lnk, .lvl, .pba] W = true) (hg : Goes W s0 s) : Goes W s0 (State.modeEdge s k) := by
  unfold State.modeEdge
  repeat' first
    | with_reducible assumption
    | (intro x; refine Goes.cut (W := W) (s0 := s0) (x := x) ?_ ?_; rotate_left; clear_value x; intro hx; rotate_right)
    | intro x
    | lift_lets
    | (with_reducible refine goes_wf _ _ _ _ _ ?_ ?_; exact subT rfl hW)
    | (with_reducible refine goes_comeIn _ _ _ _ _ ?_ ?_; exact subT rfl hW)
    | (with_reducible refine goes_headApplied _ _ ?_ ?_; exact subT rfl hW)
    | (with_reducible refine goes_modeDefer _ _ _ ?_ ?_; exact subT rfl hW)
    | (with_reducible refine Goes.ite ?_ ?_)
    | split
    | (fail_if_no_progress (with_reducible refine goes_set_lvl _ _ ?_ ?_; exact subT rfl hW))

theorem goes_announce {W : List Part} {s0 : State} (s : State) (m : SegMode) (c : Nat) (tag : Option Word) (ring : Bool) (hW : subParts [.regs, .out, .que, .ldg, .nvs, .rad, .chn, .lnk, .net, .lvl, .pba] W = true) (hg : Goes W s0 s) : Goes W s0 (State.announce s m c tag ring).1 := by
  unfold State.announce
  repeat' first
    | with_reducible assumption
    | (intro x; refine Goes.cut (W := W) (s0 := s0) (x := x) ?_ ?_; rotate_left; clear_value x; intro hx; rotate_right)
    | intro x
    | lift_lets
    | (with_reducible refine goes_sendSegKeys _ _ ?_ ?_; exact subT rfl hW)
    | (with_reducible refine goes_queueStripe _ _ _ _ _ ?_ ?_; exact subT rfl hW)
    | (with_reducible refine goes_prepareMode _ _ _ ?_ ?_; exact subT rfl hW)
    | (with_reducible refine Goes.ite ?_ ?_)
    | (with_reducible refine Goes.iteFst ?_ ?_)
    | (refine Goes.foldl (fun _ _ _ => ?_) ?_)
    | (fail_if_no_progress (with_reducible refine goes_set_lvl _ _ ?_ ?_; exact subT rfl hW))

theorem goes_announce' {W : List Part} {s0 : State} (s : State) (m : SegMode) (c : Nat) (tag : Option Word) (ring : Bool) {u0 : State} {v0 : Option Nat} (e : State.announce s m c tag ring = (u0, v0)) (hW : subParts [.regs, .out, .que, .ldg, .nvs, .rad, .chn, .lnk, .net, .lvl, .pba] W = true) (hg : Goes W s0 s) : Goes W s0 u0 := by
  have := goes_announce s m c tag ring hW hg
  rw [e] at this
  exact this

theorem goes_ctrlAnnounce {W : List Part} {s0 : State} (s : State) (m : Master) (hW : subParts [.regs, .out, .que, .ldg, .nvs, .rad, .chn, .lnk, .net, .lvl, .pba] W = true) (hg : Goes W s0 s) : Goes W s0 (State.ctrlAnnounce s m) := by
  unfold State.ctrlAnnounce
  repeat' first
    | with_reducible assumption
    | intro x
    | lift_lets
    | (with_reducible refine goes_err _ _ _ _ _ ?_ ?_; exact subT rfl hW)
    | (with_reducible refine goes_noTime _ _ _ ?_ ?_; exact subT rfl hW)
    | (with_reducible refine goes_announce' _ _ _ _ _ (by assumption) ?_ ?_; exact subT rfl hW)
    | (with_reducible refine Goes.ite ?_ ?_)
    | split

theorem goes_execModeAnnounce {W : List Part} {s0 : State} (m : Master) (s : State) (hW : subParts [.regs, .out, .resp, .que, .ldg, .nvs, .rad, .chn, .lnk, .net, .lvl, .host, .pba] W = true) (hg : Goes W s0 s) : ∀ t0, execModeAnnounce m s = .next t0 → Goes W s0 t0 := by
  unfold execModeAnnounce
  intro t0 e0
  obtain rfl := Host.Outcome.next.inj e0
  clear e0
  repeat' first
    | with_reducible assumption
    | lift_lets
    | (with_reducible refine goes_answer _ _ ?_ ?_; exact subT rfl hW)
    | (with_reducible refine goes_writeAt _ _ _ _ _ _ ?_ (fun _ _ => ?_) ?_; exact subT rfl hW)
    | (with_reducible refine goes_ctrlAnnounce _ _ ?_ ?_; exact subT rfl hW)

theorem goes_replyTag {W : List Part} {s0 : State} (s : State) (tag : Option Word) (status : Nat) (hW : subParts [.regs, .out, .mbx, .pba] W = true) (hg : Goes W s0 s) : Goes W s0 (State.replyTag s tag status) := by
  unfold State.replyTag
  repeat' first
    | with_reducible assumption
    | (with_reducible refine goes_reply _ _ _ _ _ ?_ ?_; exact subT rfl hW)
    | split

theorem goes_cancelAnn {W : List Part} {s0 : State} (s : State) (hW : subParts [.regs, .out, .mbx, .chn, .lvl, .pba] W = true) (hg : Goes W s0 s) : Goes W s0 (State.cancelAnn s).1 := by
  unfold State.cancelAnn
  repeat' first
    | with_reducible assumption
    | (intro x; refine Goes.cut (W := W) (s0 := s0) (x := x) ?_ ?_; rotate_left; clear_value x; intro hx; rotate_right)
    | intro x
    | lift_lets
    | (with_reducible refine goes_unprepareMode _ _ ?_ ?_; exact subT rfl hW)
    | (with_reducible refine goes_replyTag _ _ _ ?_ ?_; exact subT rfl hW)
    | (with_reducible refine Goes.iteFst ?_ ?_)
    | split
    | (fail_if_no_progress (with_reducible refine goes_set_lvl _ _ ?_ ?_; exact subT rfl hW))

theorem goes_cancelAnn' {W : List Part} {s0 : State} (s : State) {u0 : State} {v0 : Nat} (e : State.cancelAnn s = (u0, v0)) (hW : subParts [.regs, .out, .mbx, .chn, .lvl, .pba] W = true) (hg : Goes W s0 s) : Goes W s0 u0 := by
  have := goes_cancelAnn s hW hg
  rw [e] at this
  exact this

theorem goes_ctrlCancel {W : List Part} {s0 : State} (s : State) (m : Master) (hW : subParts [.regs, .out, .mbx, .chn, .lvl, .pba] W = true) (hg : Goes W s0 s) : Goes W s0 (State.ctrlCancel s m) := by
  unfold State.ctrlCancel
  repeat' first
    | with_reducible assumption
    | lift_lets
    | (with_reducible refine goes_err _ _ _ _ _ ?_ ?_; exact subT rfl hW)
    | (with_reducible refine goes_cancelAnn' _ (by assumption) ?_ ?_; exact subT rfl hW)
    | split

theorem goes_execModeCtrlCancel {W : List Part} {s0 : State} (m : Master) (s : State) (hW : subParts [.regs, .out, .resp, .mbx, .chn, .lvl, .host, .pba] W = true) (hg : Goes W s0 s) : ∀ t0, execModeCtrlCancel m s = .next t0 → Goes W s0 t0 := by
  unfold execModeCtrlCancel
  intro t0 e0
  obtain rfl := Host.Outcome.next.inj e0
  clear e0
  repeat' first
    | with_reducible assumption
    | lift_lets
    | (with_reducible refine goes_answer _ _ ?_ ?_; exact subT rfl hW)
    | (with_reducible refine goes_writeAt _ _ _ _ _ _ ?_ (fun _ _ => ?_) ?_; exact subT rfl hW)
    | (with_reducible refine goes_ctrlCancel _ _ ?_ ?_; exact subT rfl hW)

theorem goes_modeCtrl {W : List Part} {s0 : State} (s : State) (m : Master) (v : Word) (hW : subParts [.regs, .out, .mbx, .que, .ldg, .nvs, .rad, .chn, .lnk, .net, .lvl, .pba] W = true) (hg : Goes W s0 s) : Goes W s0 (State.modeCtrl s m v) := by
  unfold State.modeCtrl
  repeat' first
    | with_reducible assumption
    | (intro x; refine Goes.cut (W := W) (s0 := s0) (x := x) ?_ ?_; rotate_left; clear_value x; intro hx; rotate_right)
    | lift_lets
    | (with_reducible refine goes_ctrlAnnounce _ _ ?_ ?_; exact subT rfl hW)
    | (with_reducible refine goes_ctrlCancel _ _ ?_ ?_; exact subT rfl hW)
    | (with_reducible refine Goes.ite ?_ ?_)

theorem goes_storeMode {W : List Part} {s0 : State} (s : State) (q : PendMode) (p : Bytes) (hW : subParts [.regs, .chn, .lvl] W = true) (hg : Goes W s0 s) : Goes W s0 (State.storeMode s q p) := by
  unfold State.storeMode
  repeat' first
    | with_reducible assumption
    | (intro x; refine Goes.cut (W := W) (s0 := s0) (x := x) ?_ ?_; rotate_left; clear_value x; intro hx; rotate_right)
    | intro x
    | lift_lets
    | (with_reducible refine goes_prepareMode _ _ _ ?_ ?_; exact subT rfl hW)
    | (with_reducible refine goes_unprepareMode _ _ ?_ ?_; exact subT rfl hW)
    | (with_reducible refine Goes.ite ?_ ?_)
    | split
    | (fail_if_no_progress (with_reducible refine goes_set_lvl _ _ ?_ ?_; exact subT rfl hW))
    | (dsimp +zetaDelta only)

theorem goes_dropMode {W : List Part} {s0 : State} (s : State) (epoch : Nat) (hW : subParts [.regs, .chn, .lvl] W = true) (hg : Goes W s0 s) : Goes W s0 (State.dropMode s epoch) := by
  unfold State.dropMode
  repeat' first
    | with_reducible assumption
    | intro x
    | lift_lets
    | (with_reducible refine goes_unprepareMode _ _ ?_ ?_; exact subT rfl hW)
    | (with_reducible refine Goes.ite ?_ ?_)
    | split
    | (fail_if_no_progress (with_reducible refine goes_set_lvl _ _ ?_ ?_; exact subT rfl hW))

theorem goes_takeMode {W : List Part} {s0 : State} (s : State) (p : Bytes) (hW : subParts [.regs, .out, .ldg, .chn, .lvl, .pba] W = true) (hg : Goes W s0 s) : Goes W s0 (State.takeMode s p) := by
  unfold State.takeMode
  repeat' first
    | with_reducible assumption
    | intro x
    | lift_lets
    | (with_reducible refine goes_noTime _ _ _ ?_ ?_; exact subT rfl hW)
    | (with_reducible refine goes_storeMode _ _ _ ?_ ?_; exact subT rfl hW)
    | (with_reducible refine goes_dropMode _ _ ?_ ?_; exact subT rfl hW)
    | (with_reducible refine Goes.ite ?_ ?_)

theorem goes_takeModeAnswer {W : List Part} {s0 : State} (s : State) (p : Bytes) (hW : subParts [.regs, .chn, .lvl] W = true) (hg : Goes W s0 s) : Goes W s0 (State.takeModeAnswer s p) := by
  unfold State.takeModeAnswer
  repeat' first
    | with_reducible assumption
    | intro x
    | lift_lets
    | (with_reducible refine goes_storeMode _ _ _ ?_ ?_; exact subT rfl hW)
    | (with_reducible refine Goes.ite ?_ ?_)

theorem goes_execModeReceive {W : List Part} {s0 : State} (x : AirRx) (s : State) (hW : subParts [.regs, .out, .cnt, .ldg, .chn, .lvl, .pba] W = true) (hg : Goes W s0 s) : ∀ t0, execModeReceive x s = .next t0 → Goes W s0 t0 := by
  unfold execModeReceive
  intro t0 e0
  obtain rfl := Host.Outcome.next.inj e0
  clear e0
  repeat' first
    | with_reducible assumption
    | (intro x; refine Goes.cut (W := W) (s0 := s0) (x := x) ?_ ?_; rotate_left; clear_value x; intro hx; rotate_right)
    | intro x
    | lift_lets
    | (with_reducible refine goes_at _ _ ?_ ?_; exact subT rfl hW)
    | (with_reducible refine goes_noTime _ _ _ ?_ ?_; exact subT rfl hW)
    | (with_reducible refine goes_floodHeard _ _ ?_ ?_; exact subT rfl hW)
    | (with_reducible refine goes_takeMode _ _ ?_ ?_; exact subT rfl hW)
    | (with_reducible refine goes_takeModeAnswer _ _ ?_ ?_; exact subT rfl hW)
    | (with_reducible refine Goes.ite ?_ ?_)

theorem goes_sendModeGet {W : List Part} {s0 : State} (s : State) (b : Nat) (hW : subParts [.regs, .out, .que, .rad, .net, .lvl, .pba] W = true) (hg : Goes W s0 s) : Goes W s0 (State.sendModeGet s b) := by
  unfold State.sendModeGet
  repeat' first
    | with_reducible assumption
    | intro x
    | lift_lets
    | (with_reducible refine goes_sendUp _ _ _ _ ?_ ?_; exact subT rfl hW)
    | (with_reducible refine Goes.ite ?_ ?_)
    | (fail_if_no_progress (with_reducible refine goes_set_lvl _ _ ?_ ?_; exact subT rfl hW))

theorem goes_parentEpoch {W : List Part} {s0 : State} (s : State) (b : Nat) (hW : subParts [.regs, .out, .que, .rad, .net, .lvl, .pba] W = true) (hg : Goes W s0 s) : Goes W s0 (State.parentEpoch s b) := by
  unfold State.parentEpoch
  repeat' first
    | with_reducible assumption
    | (intro x; refine Goes.cut (W := W) (s0 := s0) (x := x) ?_ ?_; rotate_left; clear_value x; intro hx; rotate_right)
    | intro x
    | lift_lets
    | (with_reducible refine goes_sendModeGet _ _ ?_ ?_; exact subT rfl hW)
    | (with_reducible refine Goes.ite ?_ ?_)
    | split
    | (fail_if_no_progress (with_reducible refine goes_set_lvl _ _ ?_ ?_; exact subT rfl hW))

theorem goes_execModeAckSend {W : List Part} {s0 : State} (s : State) (hW : subParts [.regs, .out, .que, .rad, .net, .lvl, .pba] W = true) (hg : Goes W s0 s) : ∀ t0, execModeAckSend s = .next t0 → Goes W s0 t0 := by
  unfold execModeAckSend
  intro t0 e0
  obtain rfl := Host.Outcome.next.inj e0
  clear e0
  repeat' first
    | with_reducible assumption
    | (intro x; refine Goes.cut (W := W) (s0 := s0) (x := x) ?_ ?_; rotate_left; clear_value x; intro hx; rotate_right)
    | intro x
    | lift_lets
    | (with_reducible refine goes_sendUp _ _ _ _ ?_ ?_; exact subT rfl hW)
    | (with_reducible refine Goes.ite ?_ ?_)
    | split
    | (fail_if_no_progress (with_reducible refine goes_set_lvl _ _ ?_ ?_; exact subT rfl hW))

theorem goes_execModeAck {W : List Part} {s0 : State} (x : AirRx) (s : State) (hW : subParts [.regs, .lvl] W = true) (hg : Goes W s0 s) : ∀ t0, execModeAck x s = .next t0 → Goes W s0 t0 := by
  unfold execModeAck
  intro t0 e0
  obtain rfl := Host.Outcome.next.inj e0
  clear e0
  repeat' first
    | with_reducible assumption
    | (intro x; refine Goes.cut (W := W) (s0 := s0) (x := x) ?_ ?_; rotate_left; clear_value x; intro hx; rotate_right)
    | intro x
    | lift_lets
    | (with_reducible refine goes_setApplied _ _ ?_ ?_; exact subT rfl hW)
    | (with_reducible refine Goes.ite ?_ ?_)
    | (fail_if_no_progress (with_reducible refine goes_set_lvl _ _ ?_ ?_; exact subT rfl hW))

theorem goes_execModeGet {W : List Part} {s0 : State} (x : AirRx) (s : State) (hW : subParts [.regs, .out, .que, .rad, .net, .pba] W = true) (hg : Goes W s0 s) : ∀ t0, execModeGet x s = .next t0 → Goes W s0 t0 := by
  unfold execModeGet
  intro t0 e0
  obtain rfl := Host.Outcome.next.inj e0
  clear e0
  repeat' first
    | with_reducible assumption
    | intro x
    | lift_lets
    | (with_reducible refine goes_irq _ _ _ ?_ ?_; exact subT rfl hW)
    | (with_reducible refine goes_sendDown _ _ _ _ _ _ _ ?_ ?_; exact subT rfl hW)
    | (with_reducible refine Goes.ite ?_ ?_)
    | (refine Goes.foldl (fun _ _ _ => ?_) ?_)

theorem goes_execModeSet {W : List Part} {s0 : State} (tag : Word) (s : State) (hW : subParts [.regs, .out, .mbx, .que, .ldg, .nvs, .rad, .chn, .lnk, .net, .lvl, .pba] W = true) (hg : Goes W s0 s) : ∀ t0, execModeSet tag s = .next t0 → Goes W s0 t0 := by
  unfold execModeSet
  intro t0 e0
  obtain rfl := Host.Outcome.next.inj e0
  clear e0
  repeat' first
    | with_reducible assumption
    | (intro x; refine Goes.cut (W := W) (s0 := s0) (x := x) ?_ ?_; rotate_left; clear_value x; intro hx; rotate_right)
    | intro x
    | lift_lets
    | (with_reducible refine goes_noTime _ _ _ ?_ ?_; exact subT rfl hW)
    | (with_reducible refine goes_reply _ _ _ _ _ ?_ ?_; exact subT rfl hW)
    | (with_reducible refine goes_defer _ _ ?_ ?_; exact subT rfl hW)
    | (with_reducible refine goes_withCmd _ _ _ _ ?_ (fun _ _ _ => ?_) ?_; exact subT rfl hW)
    | (with_reducible refine goes_announce' _ _ _ _ _ (by assumption) ?_ ?_; exact subT rfl hW)
    | (with_reducible refine Goes.ite ?_ ?_)
    | split
    | (fail_if_no_progress (with_reducible refine goes_set_lvl _ _ ?_ ?_; exact subT rfl hW))

theorem goes_execModeCancel {W : List Part} {s0 : State} (tag : Word) (s : State) (hW : subParts [.regs, .out, .mbx, .ldg, .chn, .lvl, .pba] W = true) (hg : Goes W s0 s) : ∀ t0, execModeCancel tag s = .next t0 → Goes W s0 t0 := by
  unfold execModeCancel
  intro t0 e0
  obtain rfl := Host.Outcome.next.inj e0
  clear e0
  repeat' first
    | with_reducible assumption
    | lift_lets
    | (with_reducible refine goes_reply _ _ _ _ _ ?_ ?_; exact subT rfl hW)
    | (with_reducible refine goes_withCmd _ _ _ _ ?_ (fun _ _ _ => ?_) ?_; exact subT rfl hW)
    | (with_reducible refine goes_cancelAnn' _ (by assumption) ?_ ?_; exact subT rfl hW)
    | split

theorem goes_execModeStatus {W : List Part} {s0 : State} (tag : Word) (s : State) (hW : subParts [.regs, .out, .mbx, .ldg, .pba] W = true) (hg : Goes W s0 s) : ∀ t0, execModeStatus tag s = .next t0 → Goes W s0 t0 := by
  unfold execModeStatus
  intro t0 e0
  obtain rfl := Host.Outcome.next.inj e0
  clear e0
  repeat' first
    | with_reducible assumption
    | lift_lets
    | (with_reducible refine goes_reply _ _ _ _ _ ?_ ?_; exact subT rfl hW)
    | (with_reducible refine goes_withCmd _ _ _ _ ?_ (fun _ _ _ => ?_) ?_; exact subT rfl hW)

theorem goes_execSchedPush {W : List Part} {s0 : State} (tag : Word) (s : State) (hW : subParts [.regs, .out, .mbx, .que, .ldg, .rad, .net, .pba] W = true) (hg : Goes W s0 s) : ∀ t0, execSchedPush tag s = .next t0 → Goes W s0 t0 := by
  unfold execSchedPush
  intro t0 e0
  obtain rfl := Host.Outcome.next.inj e0
  clear e0
  repeat' first
    | with_reducible assumption
    | lift_lets
    | (with_reducible refine goes_reply _ _ _ _ _ ?_ ?_; exact subT rfl hW)
    | (with_reducible refine goes_withCmd _ _ _ _ ?_ (fun _ _ _ => ?_) ?_; exact subT rfl hW)
    | (with_reducible refine goes_commandTo _ _ _ _ ?_ ?_; exact subT rfl hW)
    | (with_reducible refine Goes.ite ?_ ?_)

theorem goes_lvlReset {W : List Part} {s0 : State} (s : State) (hW : subParts [.regs, .out, .mbx, .chn, .lvl, .pba] W = true) (hg : Goes W s0 s) : Goes W s0 (State.lvlReset s) := by
  unfold State.lvlReset
  repeat' first
    | with_reducible assumption
    | (intro x; refine Goes.cut (W := W) (s0 := s0) (x := x) ?_ ?_; rotate_left; clear_value x; intro hx; rotate_right)
    | intro x
    | lift_lets
    | (with_reducible refine goes_unprepareMode _ _ ?_ ?_; exact subT rfl hW)
    | (with_reducible refine goes_replyTag _ _ _ ?_ ?_; exact subT rfl hW)
    | split
    | (fail_if_no_progress (with_reducible refine goes_set_lvl _ _ ?_ ?_; exact subT rfl hW))
    | (dsimp +zetaDelta only)

end Sys2Proof.Machine
end

