-- ==== Sys2Proof/Laws/GoesBeacon.lean ====
section
/-! SUPPORT. What the operations of Machine/Beacon.lean can change: one lemma each. -/

set_option linter.unreachableTactic false
set_option linter.unusedTactic false

namespace Sys2Proof.Machine

open Sys2Proof

theorem goes_setBcn {W : List Part} {s0 : State} (s : State) (st : Nat) (m : Nat) (hW : subParts [.regs, .out, .pba] W = true) (hg : Goes W s0 s) : Goes W s0 (State.setBcn s st m) := by
  unfold State.setBcn
  repeat' first
    | with_reducible assumption
    | (intro x; refine Goes.cut (W := W) (s0 := s0) (x := x) ?_ ?_; rotate_left; clear_value x; intro hx; rotate_right)
    | lift_lets
    | (with_reducible refine goes_wf _ _ _ _ _ ?_ ?_; exact subT rfl hW)
    | (with_reducible refine goes_irq _ _ _ ?_ ?_; exact subT rfl hW)
    | (with_reducible refine Goes.ite ?_ ?_)

theorem goes_bcnReady {W : List Part} {s0 : State} (s : State) (k : Nat) (hW : subParts [.bcn] W = true) (hg : Goes W s0 s) : Goes W s0 (State.bcnReady s k) := by
  unfold State.bcnReady
  repeat' first
    | with_reducible assumption
    | intro x
    | lift_lets
    | (with_reducible refine Goes.ite ?_ ?_)
    | split
    | (fail_if_no_progress (with_reducible refine goes_set_bcn _ _ ?_ ?_; exact subT rfl hW))

theorem goes_execBeaconBuild {W : List Part} {s0 : State} (s : State) (hW : subParts [.mem, .bcn] W = true) (hg : Goes W s0 s) : ∀ t0, execBeaconBuild s = .next t0 → Goes W s0 t0 := by
  unfold execBeaconBuild
  intro t0 e0
  obtain rfl := Host.Outcome.next.inj e0
  clear e0
  repeat' first
    | with_reducible assumption
    | (intro x; refine Goes.cut (W := W) (s0 := s0) (x := x) ?_ ?_; rotate_left; clear_value x; intro hx; rotate_right)
    | intro x
    | lift_lets
    | (with_reducible refine goes_sramWrite _ _ _ ?_ ?_; exact subT rfl hW)
    | (with_reducible refine Goes.ite ?_ ?_)
    | (fail_if_no_progress (with_reducible refine goes_set_bcn _ _ ?_ ?_; exact subT rfl hW))

theorem goes_bcnOut {W : List Part} {s0 : State} (s : State) (r : Nat) (c : DWord) (built : Bytes) (hW : subParts [.regs, .out, .nvs, .rad, .chn, .lnk, .pba] W = true) (hg : Goes W s0 s) : Goes W s0 (State.bcnOut s r c built) := by
  unfold State.bcnOut
  repeat' first
    | with_reducible assumption
    | intro x
    | lift_lets
    | (with_reducible refine goes_bumpSat _ _ _ ?_ ?_; exact subT rfl hW)
    | (with_reducible refine goes_irq _ _ _ ?_ ?_; exact subT rfl hW)
    | (with_reducible refine goes_modRadio _ _ _ ?_ ?_; exact subT rfl hW)
    | (with_reducible refine goes_transmit _ _ _ _ _ _ _ ?_ ?_; exact subT rfl hW)
    | (with_reducible refine goes_heldBack _ _ ?_ ?_; exact subT rfl hW)
    | (with_reducible refine goes_secure _ _ _ (by assumption) ?_ ?_; exact subT rfl hW)
    | (with_reducible refine Goes.ite ?_ ?_)
    | split

theorem goes_bcnSend {W : List Part} {s0 : State} (s : State) (c : DWord) (hW : subParts [.regs, .out, .free, .mem, .nvs, .rad, .chn, .lnk, .bcn, .pba] W = true) (hg : Goes W s0 s) : Goes W s0 (State.bcnSend s c) := by
  unfold State.bcnSend
  repeat' first
    | with_reducible assumption
    | (intro x; refine Goes.cut (W := W) (s0 := s0) (x := x) ?_ ?_; rotate_left; clear_value x; intro hx; rotate_right)
    | intro x
    | lift_lets
    | (with_reducible refine goes_sramSeen _ _ _ ?_ ?_; exact subT rfl hW)
    | (with_reducible refine goes_bcnOut _ _ _ _ ?_ ?_; exact subT rfl hW)
    | split
    | (refine Goes.foldl (fun _ _ _ => ?_) ?_)
    | (fail_if_no_progress (with_reducible refine goes_set_bcn _ _ ?_ ?_; exact subT rfl hW))

theorem goes_execBeaconSend {W : List Part} {s0 : State} (c : DWord) (s : State) (hW : subParts [.regs, .out, .free, .cnt, .mem, .nvs, .rad, .chn, .lnk, .bcn, .pba] W = true) (hg : Goes W s0 s) : ∀ t0, execBeaconSend c s = .next t0 → Goes W s0 t0 := by
  unfold execBeaconSend
  intro t0 e0
  obtain rfl := Host.Outcome.next.inj e0
  clear e0
  repeat' first
    | with_reducible assumption
    | lift_lets
    | (with_reducible refine goes_at _ _ ?_ ?_; exact subT rfl hW)
    | (with_reducible refine goes_bcnSend _ _ ?_ ?_; exact subT rfl hW)
    | (with_reducible refine Goes.ite ?_ ?_)

theorem goes_askParent {W : List Part} {s0 : State} (s : State) (radio : Nat) (seg : Nat) (parent : Nat) (margins : List Int) (hW : subParts [.regs, .out, .que, .rad, .bcn, .net, .pba] W = true) (hg : Goes W s0 s) : Goes W s0 (State.askParent s radio seg parent margins) := by
  unfold State.askParent
  repeat' first
    | with_reducible assumption
    | (intro x; refine Goes.cut (W := W) (s0 := s0) (x := x) ?_ ?_; rotate_left; clear_value x; intro hx; rotate_right)
    | intro x
    | lift_lets
    | (with_reducible refine goes_fwSend _ _ _ _ _ _ ?_ ?_; exact subT rfl hW)
    | (with_reducible refine goes_setBcn _ _ _ ?_ ?_; exact subT rfl hW)
    | (fail_if_no_progress (with_reducible refine goes_set_bcn _ _ ?_ ?_; exact subT rfl hW))

theorem goes_startScan {W : List Part} {s0 : State} (s : State) (hW : subParts [.regs, .out, .bcn, .pba] W = true) (hg : Goes W s0 s) : Goes W s0 (State.startScan s) := by
  unfold State.startScan
  repeat' first
    | with_reducible assumption
    | intro x
    | lift_lets
    | (with_reducible refine goes_setBcn _ _ _ ?_ ?_; exact subT rfl hW)
    | (fail_if_no_progress (with_reducible refine goes_set_bcn _ _ ?_ ?_; exact subT rfl hW))

theorem goes_askBest {W : List Part} {s0 : State} (s : State) (f : Cand → Bool) (hW : subParts [.regs, .out, .que, .rad, .bcn, .net, .pba] W = true) (hg : Goes W s0 s) : Goes W s0 (State.askBest s f) := by
  unfold State.askBest
  repeat' first
    | with_reducible assumption
    | (with_reducible refine goes_askParent _ _ _ _ _ ?_ ?_; exact subT rfl hW)
    | (with_reducible refine goes_startScan _ ?_ ?_; exact subT rfl hW)
    | split

theorem goes_bcnMeasure {W : List Part} {s0 : State} (s : State) (x : AirRx) (sf : Nat) (hW : subParts [.regs, .out, .mbx, .ldg, .ntm, .pba] W = true) (hg : Goes W s0 s) : Goes W s0 (State.bcnMeasure s x sf) := by
  unfold State.bcnMeasure
  repeat' first
    | with_reducible assumption
    | (intro x; refine Goes.cut (W := W) (s0 := s0) (x := x) ?_ ?_; rotate_left; clear_value x; intro hx; rotate_right)
    | intro x
    | lift_lets
    | (with_reducible refine goes_measure _ _ _ ?_ ?_; exact subT rfl hW)
    | (with_reducible refine goes_setBase _ _ ?_ ?_; exact subT rfl hW)
    | (with_reducible refine Goes.ite ?_ ?_)
    | (fail_if_no_progress (with_reducible refine goes_set_ntm _ _ ?_ ?_; exact subT rfl hW))

theorem goes_standbyBeacon {W : List Part} {s0 : State} (s : State) (seg : Nat) (x : AirRx) (sf : Nat) (hW : subParts [.regs, .bcn] W = true) (hg : Goes W s0 s) : Goes W s0 (State.standbyBeacon s seg x sf) := by
  unfold State.standbyBeacon
  repeat' first
    | with_reducible assumption
    | (intro x; refine Goes.cut (W := W) (s0 := s0) (x := x) ?_ ?_; rotate_left; clear_value x; intro hx; rotate_right)
    | intro x
    | lift_lets
    | (with_reducible refine goes_wr _ _ _ ?_ ?_; exact subT rfl hW)
    | (with_reducible refine goes_bumpSat _ _ _ ?_ ?_; exact subT rfl hW)
    | (with_reducible refine Goes.ite ?_ ?_)
    | (fail_if_no_progress (with_reducible refine goes_set_bcn _ _ ?_ ?_; exact subT rfl hW))

theorem goes_endWindow {W : List Part} {s0 : State} (s : State) (hW : subParts [.regs, .out, .bcn, .pba] W = true) (hg : Goes W s0 s) : Goes W s0 (State.endWindow s) := by
  unfold State.endWindow
  repeat' first
    | with_reducible assumption
    | intro x
    | lift_lets
    | (with_reducible refine goes_setDrained _ _ ?_ ?_; exact subT rfl hW)
    | split
    | (fail_if_no_progress (with_reducible refine goes_set_bcn _ _ ?_ ?_; exact subT rfl hW))

theorem goes_parentBeacon {W : List Part} {s0 : State} (s : State) (x : AirRx) (sf : Nat) (hW : subParts [.regs, .out, .mbx, .que, .ldg, .ntm, .rad, .bcn, .net, .lvl, .pba] W = true) (hg : Goes W s0 s) : Goes W s0 (State.parentBeacon s x sf) := by
  unfold State.parentBeacon
  repeat' first
    | with_reducible assumption
    | (intro x; refine Goes.cut (W := W) (s0 := s0) (x := x) ?_ ?_; rotate_left; clear_value x; intro hx; rotate_right)
    | intro x
    | lift_lets
    | (with_reducible refine goes_wr _ _ _ ?_ ?_; exact subT rfl hW)
    | (with_reducible refine goes_bumpSat _ _ _ ?_ ?_; exact subT rfl hW)
    | (with_reducible refine goes_parentEpoch _ _ ?_ ?_; exact subT rfl hW)
    | (with_reducible refine goes_setBcn _ _ _ ?_ ?_; exact subT rfl hW)
    | (with_reducible refine goes_bcnMeasure _ _ _ ?_ ?_; exact subT rfl hW)
    | (with_reducible refine goes_endWindow _ ?_ ?_; exact subT rfl hW)
    | (with_reducible refine Goes.ite ?_ ?_)
    | split
    | (fail_if_no_progress (apply Goes.upd [.ntm, .bcn]; dsimp only; exact subT rfl hW; (intro p hp; cases p <;> first | rfl | simp at hp); exact fun c => c))
    | (dsimp +zetaDelta only)

theorem goes_keepCand {W : List Part} {s0 : State} (s : State) (x : AirRx) (hW : subParts [.bcn] W = true) (hg : Goes W s0 s) : Goes W s0 (State.keepCand s x).1 := by
  unfold State.keepCand
  repeat' first
    | with_reducible assumption
    | intro x
    | lift_lets
    | (fail_if_no_progress (with_reducible refine goes_set_bcn _ _ ?_ ?_; exact subT rfl hW))

theorem goes_keepCand' {W : List Part} {s0 : State} (s : State) (x : AirRx) {u0 : State} {v0 : Cand} (e : State.keepCand s x = (u0, v0)) (hW : subParts [.bcn] W = true) (hg : Goes W s0 s) : Goes W s0 u0 := by
  have := goes_keepCand s x hW hg
  rw [e] at this
  exact this

theorem goes_loadPhy {W : List Part} {s0 : State} (s : State) (c : Cand) (hW : subParts [.regs, .out, .chn, .pba] W = true) (hg : Goes W s0 s) : Goes W s0 (State.loadPhy s c) := by
  unfold State.loadPhy
  repeat' first
    | with_reducible assumption
    | (intro x; refine Goes.cut (W := W) (s0 := s0) (x := x) ?_ ?_; rotate_left; clear_value x; intro hx; rotate_right)
    | intro x
    | lift_lets
    | (with_reducible refine goes_wf _ _ _ _ _ ?_ ?_; exact subT rfl hW)
    | (with_reducible refine goes_hopInstall _ _ ?_ ?_; exact subT rfl hW)

theorem goes_searchBeacon {W : List Part} {s0 : State} (s : State) (x : AirRx) (sf : Nat) (hW : subParts [.regs, .out, .mbx, .que, .ldg, .ntm, .rad, .chn, .bcn, .net, .pba] W = true) (hg : Goes W s0 s) : Goes W s0 (State.searchBeacon s x sf) := by
  unfold State.searchBeacon
  repeat' first
    | with_reducible assumption
    | (intro x; refine Goes.cut (W := W) (s0 := s0) (x := x) ?_ ?_; rotate_left; clear_value x; intro hx; rotate_right)
    | intro x
    | lift_lets
    | (with_reducible refine goes_setBcn _ _ _ ?_ ?_; exact subT rfl hW)
    | (with_reducible refine goes_askBest _ _ ?_ ?_; exact subT rfl hW)
    | (with_reducible refine goes_bcnMeasure _ _ _ ?_ ?_; exact subT rfl hW)
    | (with_reducible refine goes_keepCand _ _ ?_ ?_; exact subT rfl hW)
    | (with_reducible refine goes_loadPhy _ _ ?_ ?_; exact subT rfl hW)
    | (with_reducible refine Goes.ite ?_ ?_)
    | (fail_if_no_progress (with_reducible refine goes_set_bcn _ _ ?_ ?_; exact subT rfl hW))

theorem goes_beaconRx {W : List Part} {s0 : State} (s : State) (x : AirRx) (hW : subParts [.regs, .out, .mbx, .que, .ldg, .ntm, .rad, .chn, .bcn, .net, .lvl, .pba] W = true) (hg : Goes W s0 s) : Goes W s0 (State.beaconRx s x) := by
  unfold State.beaconRx
  repeat' first
    | with_reducible assumption
    | intro x
    | lift_lets
    | (with_reducible refine goes_standbyBeacon _ _ _ _ ?_ ?_; exact subT rfl hW)
    | (with_reducible refine goes_parentBeacon _ _ _ ?_ ?_; exact subT rfl hW)
    | (with_reducible refine goes_searchBeacon _ _ _ ?_ ?_; exact subT rfl hW)
    | (with_reducible refine Goes.ite ?_ ?_)

theorem goes_execBeaconReceive {W : List Part} {s0 : State} (x : AirRx) (s : State) (hW : subParts [.regs, .out, .cnt, .mbx, .que, .ldg, .ntm, .rad, .chn, .bcn, .net, .lvl, .pba] W = true) (hg : Goes W s0 s) : ∀ t0, execBeaconReceive x s = .next t0 → Goes W s0 t0 := by
  unfold execBeaconReceive
  intro t0 e0
  obtain rfl := Host.Outcome.next.inj e0
  clear e0
  repeat' first
    | with_reducible assumption
    | lift_lets
    | (with_reducible refine goes_at _ _ ?_ ?_; exact subT rfl hW)
    | (with_reducible refine goes_beaconRx _ _ ?_ ?_; exact subT rfl hW)

theorem goes_becomeOrphan {W : List Part} {s0 : State} (s : State) (m : Nat) (hW : subParts [.regs, .out, .bcn, .net, .lvl, .pba] W = true) (hg : Goes W s0 s) : Goes W s0 (State.becomeOrphan s m) := by
  unfold State.becomeOrphan
  repeat' first
    | with_reducible assumption
    | (intro x; refine Goes.cut (W := W) (s0 := s0) (x := x) ?_ ?_; rotate_left; clear_value x; intro hx; rotate_right)
    | intro x
    | lift_lets
    | (with_reducible refine goes_bumpSat _ _ _ ?_ ?_; exact subT rfl hW)
    | (with_reducible refine goes_irq _ _ _ ?_ ?_; exact subT rfl hW)
    | (with_reducible refine goes_noSchedule _ ?_ ?_; exact subT rfl hW)
    | (with_reducible refine goes_setBcn _ _ _ ?_ ?_; exact subT rfl hW)
    | (fail_if_no_progress (apply Goes.upd [.bcn, .net]; dsimp only; exact subT rfl hW; (intro p hp; cases p <;> first | rfl | simp at hp); exact fun c => c))

theorem goes_beaconMiss {W : List Part} {s0 : State} (s : State) (c : DWord) (hW : subParts [.regs, .out, .cnt, .mbx, .ldg, .ntm, .bcn, .net, .lvl, .pba] W = true) (hg : Goes W s0 s) : Goes W s0 (State.beaconMiss s c) := by
  unfold State.beaconMiss
  repeat' first
    | with_reducible assumption
    | (intro x; refine Goes.cut (W := W) (s0 := s0) (x := x) ?_ ?_; rotate_left; clear_value x; intro hx; rotate_right)
    | intro x
    | lift_lets
    | (with_reducible refine goes_bumpSat _ _ _ ?_ ?_; exact subT rfl hW)
    | (with_reducible refine goes_irq _ _ _ ?_ ?_; exact subT rfl hW)
    | (with_reducible refine goes_loseSource _ _ _ ?_ ?_; exact subT rfl hW)
    | (with_reducible refine goes_setBcn _ _ _ ?_ ?_; exact subT rfl hW)
    | (with_reducible refine goes_endWindow _ ?_ ?_; exact subT rfl hW)
    | (with_reducible refine goes_becomeOrphan _ _ ?_ ?_; exact subT rfl hW)
    | (with_reducible refine Goes.ite ?_ ?_)

theorem goes_execBeaconMiss {W : List Part} {s0 : State} (c : DWord) (s : State) (hW : subParts [.regs, .out, .cnt, .mbx, .ldg, .ntm, .bcn, .net, .lvl, .pba] W = true) (hg : Goes W s0 s) : ∀ t0, execBeaconMiss c s = .next t0 → Goes W s0 t0 := by
  unfold execBeaconMiss
  intro t0 e0
  obtain rfl := Host.Outcome.next.inj e0
  clear e0
  repeat' first
    | with_reducible assumption
    | lift_lets
    | (with_reducible refine goes_at _ _ ?_ ?_; exact subT rfl hW)
    | (with_reducible refine goes_beaconMiss _ _ ?_ ?_; exact subT rfl hW)

theorem goes_execOrphanListenEnd {W : List Part} {s0 : State} (s : State) (hW : subParts [.regs, .out, .que, .rad, .bcn, .net, .pba] W = true) (hg : Goes W s0 s) : ∀ t0, execOrphanListenEnd s = .next t0 → Goes W s0 t0 := by
  unfold execOrphanListenEnd
  intro t0 e0
  obtain rfl := Host.Outcome.next.inj e0
  clear e0
  repeat' first
    | with_reducible assumption
    | lift_lets
    | (with_reducible refine goes_askBest _ _ ?_ ?_; exact subT rfl hW)
    | (with_reducible refine Goes.ite ?_ ?_)

theorem goes_execScanStep {W : List Part} {s0 : State} (s : State) (hW : subParts [.regs, .out, .bcn, .pba] W = true) (hg : Goes W s0 s) : ∀ t0, execScanStep s = .next t0 → Goes W s0 t0 := by
  unfold execScanStep
  intro t0 e0
  obtain rfl := Host.Outcome.next.inj e0
  clear e0
  repeat' first
    | with_reducible assumption
    | intro x
    | lift_lets
    | (with_reducible refine goes_startScan _ ?_ ?_; exact subT rfl hW)
    | (with_reducible refine Goes.ite ?_ ?_)
    | (fail_if_no_progress (with_reducible refine goes_set_bcn _ _ ?_ ?_; exact subT rfl hW))

theorem goes_bcnLearn {W : List Part} {s0 : State} (s : State) (hW : subParts [.regs, .out, .free, .ldg, .mem, .bcn, .pba] W = true) (hg : Goes W s0 s) : Goes W s0 (State.bcnLearn s) := by
  unfold State.bcnLearn
  repeat' first
    | with_reducible assumption
    | (intro x; refine Goes.cut (W := W) (s0 := s0) (x := x) ?_ ?_; rotate_left; clear_value x; intro hx; rotate_right)
    | intro x
    | lift_lets
    | (with_reducible refine goes_recRestore _ _ _ _ _ ?_ ?_; exact subT rfl hW)
    | (with_reducible refine goes_setBcn _ _ _ ?_ ?_; exact subT rfl hW)
    | (with_reducible refine Goes.ite ?_ ?_)
    | (fail_if_no_progress (with_reducible refine goes_set_bcn _ _ ?_ ?_; exact subT rfl hW))

theorem goes_bcnNodeWrite {W : List Part} {s0 : State} (s : State) (m : Master) (v : Word) (hW : subParts [.regs, .out, .free, .ldg, .mem, .bcn, .pba] W = true) (hg : Goes W s0 s) : Goes W s0 (State.bcnNodeWrite s m v) := by
  unfold State.bcnNodeWrite
  repeat' first
    | with_reducible assumption
    | lift_lets
    | (with_reducible refine goes_wr _ _ _ ?_ ?_; exact subT rfl hW)
    | (with_reducible refine goes_err _ _ _ _ _ ?_ ?_; exact subT rfl hW)
    | (with_reducible refine goes_bcnLearn _ ?_ ?_; exact subT rfl hW)
    | (with_reducible refine Goes.ite ?_ ?_)

theorem goes_execBcnNodeWrite {W : List Part} {s0 : State} (m : Master) (v : Word) (s : State) (hW : subParts [.regs, .out, .resp, .free, .ldg, .mem, .bcn, .host, .pba] W = true) (hg : Goes W s0 s) : ∀ t0, execBcnNodeWrite m v s = .next t0 → Goes W s0 t0 := by
  unfold execBcnNodeWrite
  intro t0 e0
  obtain rfl := Host.Outcome.next.inj e0
  clear e0
  repeat' first
    | with_reducible assumption
    | lift_lets
    | (with_reducible refine goes_answer _ _ ?_ ?_; exact subT rfl hW)
    | (with_reducible refine goes_writeAt _ _ _ _ _ _ ?_ (fun _ _ => ?_) ?_; exact subT rfl hW)
    | (with_reducible refine goes_bcnNodeWrite _ _ _ ?_ ?_; exact subT rfl hW)

theorem goes_bcnWrite {W : List Part} {s0 : State} (s : State) (m : Master) (off : Nat) (v : Word) (hW : subParts [.regs, .out, .free, .ldg, .mem, .bcn, .pba] W = true) (hg : Goes W s0 s) : GoesO W s0 (State.bcnWrite s m off v) := by
  unfold State.bcnWrite
  repeat' first
    | with_reducible assumption
    | lift_lets
    | (with_reducible refine goes_err _ _ _ _ _ ?_ ?_; exact subT rfl hW)
    | (with_reducible refine goes_bcnNodeWrite _ _ _ ?_ ?_; exact subT rfl hW)
    | (refine GoesO.some ?_)
    | exact GoesO.none
    | (with_reducible refine GoesO.ite ?_ ?_)

theorem goes_bcnStop {W : List Part} {s0 : State} (s : State) (hW : subParts [.bcn] W = true) (hg : Goes W s0 s) : Goes W s0 (State.bcnStop s) := by
  unfold State.bcnStop
  repeat' first
    | with_reducible assumption
    | intro x
    | lift_lets
    | (with_reducible refine Goes.ite ?_ ?_)
    | (fail_if_no_progress (with_reducible refine goes_set_bcn _ _ ?_ ?_; exact subT rfl hW))

theorem goes_bcnReset {W : List Part} {s0 : State} (s : State) (hW : subParts [.regs, .out, .bcn, .pba] W = true) (hg : Goes W s0 s) : Goes W s0 (State.bcnReset s) := by
  unfold State.bcnReset
  repeat' first
    | with_reducible assumption
    | lift_lets
    | (with_reducible refine goes_setBcn _ _ _ ?_ ?_; exact subT rfl hW)
    | (fail_if_no_progress (with_reducible refine goes_set_bcn _ _ ?_ ?_; exact subT rfl hW))

end Sys2Proof.Machine
end

