-- ==== Sys2Proof/Laws/GoesJoin.lean ====
section
/-! SUPPORT. What the operations of Machine/Join.lean can change: one lemma each. -/

set_option linter.unreachableTactic false
set_option linter.unusedTactic false

namespace Sys2Proof.Machine

open Sys2Proof

theorem goes_recClear {W : List Part} {s0 : State} (s : State) (r : Nat) (hW : subParts [.regs, .out, .free, .ldg, .mem, .lnk, .pba] W = true) (hg : Goes W s0 s) : Goes W s0 (State.recClear s r) := by
  unfold State.recClear
  repeat' first
    | with_reducible assumption
    | lift_lets
    | (with_reducible refine goes_recWrite _ _ _ ?_ ?_; exact subT rfl hW)
    | (with_reducible refine goes_ctxDrop _ _ ?_ ?_; exact subT rfl hW)
    | split

theorem goes_recFree {W : List Part} {s0 : State} (s : State) (index : Nat) (hW : subParts [.regs, .out, .free, .ldg, .mem, .lnk, .pba] W = true) (hg : Goes W s0 s) : Goes W s0 (State.recFree s index) := by
  unfold State.recFree
  repeat' first
    | with_reducible assumption
    | lift_lets
    | (with_reducible refine goes_recClear _ _ ?_ ?_; exact subT rfl hW)

theorem goes_recSet {W : List Part} {s0 : State} (s : State) (ident : DWord) (index : Nat) (g : Nat) (nk : Option Bytes) (hW : subParts [.regs, .out, .free, .ldg, .mem, .nvs, .lnk, .pba] W = true) (hg : Goes W s0 s) : Goes W s0 (State.recSet s ident index g nk) := by
  unfold State.recSet
  repeat' first
    | with_reducible assumption
    | intro x
    | lift_lets
    | (with_reducible refine goes_recWrite _ _ _ ?_ ?_; exact subT rfl hW)
    | (with_reducible refine goes_ctxDrop _ _ ?_ ?_; exact subT rfl hW)
    | (with_reducible refine goes_mirrorClear _ _ ?_ ?_; exact subT rfl hW)

theorem goes_idxPut {W : List Part} {s0 : State} (s : State) (e : Nat) (ident : Nat) (index : Nat) (hW : subParts [.regs, .out, .free, .ldg, .mem, .pba] W = true) (hg : Goes W s0 s) : Goes W s0 (State.idxPut s e ident index) := by
  unfold State.idxPut
  repeat' first
    | with_reducible assumption
    | (with_reducible refine goes_dramWrite _ _ _ ?_ ?_; exact subT rfl hW)

theorem goes_idxClear {W : List Part} {s0 : State} (s : State) (e : Nat) (hW : subParts [.regs, .out, .free, .ldg, .mem, .pba] W = true) (hg : Goes W s0 s) : Goes W s0 (State.idxClear s e) := by
  unfold State.idxClear
  repeat' first
    | with_reducible assumption
    | (with_reducible refine goes_dramWrite _ _ _ ?_ ?_; exact subT rfl hW)

theorem goes_idxPlace {W : List Part} {s0 : State} (s : State) (ident : Nat) (index : Nat) (hW : subParts [.regs, .out, .free, .ldg, .mem, .pba] W = true) (hg : Goes W s0 s) : GoesO W s0 (State.idxPlace s ident index) := by
  unfold State.idxPlace
  repeat' first
    | with_reducible assumption
    | intro x
    | lift_lets
    | (with_reducible refine goes_idxPut _ _ _ _ ?_ ?_; exact subT rfl hW)
    | (with_reducible refine goes_idxClear _ _ ?_ ?_; exact subT rfl hW)
    | (refine GoesO.some ?_)
    | exact GoesO.none
    | (with_reducible refine GoesO.map (fun _ => ?_))
    | (with_reducible refine GoesO.findSome (fun _ => ?_))
    | split

theorem goes_idxRemove {W : List Part} {s0 : State} (s : State) (ident : Nat) (hW : subParts [.regs, .out, .free, .ldg, .mem, .pba] W = true) (hg : Goes W s0 s) : Goes W s0 (State.idxRemove s ident) := by
  unfold State.idxRemove
  repeat' first
    | with_reducible assumption
    | lift_lets
    | (with_reducible refine goes_idxClear _ _ ?_ ?_; exact subT rfl hW)
    | (with_reducible refine Goes.ite ?_ ?_)
    | split
    | (refine Goes.foldl (fun _ _ _ => ?_) ?_)

theorem goes_idxSet {W : List Part} {s0 : State} (s : State) (ident : Nat) (index : Nat) (hW : subParts [.regs, .out, .free, .ldg, .mem, .pba] W = true) (hg : Goes W s0 s) : GoesO W s0 (State.idxSet s ident index) := by
  unfold State.idxSet
  repeat' first
    | with_reducible assumption
    | lift_lets
    | (with_reducible refine goes_idxPut _ _ _ _ ?_ ?_; exact subT rfl hW)
    | (with_reducible refine goes_idxPlace _ _ _ ?_ ?_; exact subT rfl hW)
    | (refine GoesO.some ?_)
    | split

theorem goes_lend {W : List Part} {s0 : State} (s : State) (r : NodeRow) (hW : subParts [.regs, .out, .free, .ldg, .mem, .nvs, .lnk, .pba] W = true) (hg : Goes W s0 s) : Goes W s0 (State.lend s r) := by
  unfold State.lend
  repeat' first
    | with_reducible assumption
    | lift_lets
    | (with_reducible refine goes_recSet _ _ _ _ _ ?_ ?_; exact subT rfl hW)
    | (with_reducible refine Goes.ite ?_ ?_)

theorem goes_unlend {W : List Part} {s0 : State} (s : State) (r : NodeRow) (hW : subParts [.regs, .out, .free, .ldg, .mem, .lnk, .pba] W = true) (hg : Goes W s0 s) : Goes W s0 (State.unlend s r) := by
  unfold State.unlend
  repeat' first
    | with_reducible assumption
    | lift_lets
    | (with_reducible refine goes_recFree _ _ ?_ ?_; exact subT rfl hW)
    | (with_reducible refine Goes.ite ?_ ?_)

theorem goes_lentTo {W : List Part} {s0 : State} (s : State) (index : Nat) (g : Nat) (hW : subParts [.regs, .out, .free, .ldg, .mem, .lnk, .pba] W = true) (hg : Goes W s0 s) : Goes W s0 (State.lentTo s index g) := by
  unfold State.lentTo
  repeat' first
    | with_reducible assumption
    | lift_lets
    | (with_reducible refine goes_recWrite _ _ _ ?_ ?_; exact subT rfl hW)
    | (with_reducible refine goes_ctxDrop _ _ ?_ ?_; exact subT rfl hW)
    | split
    | (refine Goes.foldl (fun _ _ _ => ?_) ?_)

theorem goes_setRow {W : List Part} {s0 : State} (s : State) (r : NodeRow) (hW : subParts [.net] W = true) (hg : Goes W s0 s) : Goes W s0 (State.setRow s r) := by
  unfold State.setRow
  repeat' first
    | with_reducible assumption
    | intro x
    | lift_lets
    | (fail_if_no_progress (with_reducible refine goes_set_net _ _ ?_ ?_; exact subT rfl hW))

theorem goes_addChild {W : List Part} {s0 : State} (s : State) (index : Nat) (ident : DWord) (sleepy : Bool) (e : Nat) (phase : Nat) (w : Nat) (hW : subParts [.regs, .out, .free, .ldg, .mem, .nvs, .lnk, .net, .pba] W = true) (hg : Goes W s0 s) : Goes W s0 (State.addChild s index ident sleepy e phase w) := by
  unfold State.addChild
  repeat' first
    | with_reducible assumption
    | (intro x; refine Goes.cut (W := W) (s0 := s0) (x := x) ?_ ?_; rotate_left; clear_value x; intro hx; rotate_right)
    | intro x
    | lift_lets
    | (with_reducible refine goes_recSet _ _ _ _ _ ?_ ?_; exact subT rfl hW)
    | (with_reducible refine Goes.ite ?_ ?_)
    | (fail_if_no_progress (with_reducible refine goes_set_net _ _ ?_ ?_; exact subT rfl hW))

theorem goes_dropChild {W : List Part} {s0 : State} (s : State) (index : Nat) (hW : subParts [.regs, .out, .free, .ldg, .mem, .lnk, .net, .pba] W = true) (hg : Goes W s0 s) : Goes W s0 (State.dropChild s index) := by
  unfold State.dropChild
  repeat' first
    | with_reducible assumption
    | (intro x; refine Goes.cut (W := W) (s0 := s0) (x := x) ?_ ?_; rotate_left; clear_value x; intro hx; rotate_right)
    | intro x
    | lift_lets
    | (with_reducible refine goes_recFree _ _ ?_ ?_; exact subT rfl hW)
    | (with_reducible refine Goes.ite ?_ ?_)
    | (fail_if_no_progress (with_reducible refine goes_set_net _ _ ?_ ?_; exact subT rfl hW))

theorem goes_execChildAdd {W : List Part} {s0 : State} (x : AirRx) (s : State) (hW : subParts [.regs, .out, .free, .ldg, .mem, .nvs, .lnk, .net, .pba] W = true) (hg : Goes W s0 s) : ∀ t0, execChildAdd x s = .next t0 → Goes W s0 t0 := by
  unfold execChildAdd
  intro t0 e0
  obtain rfl := Host.Outcome.next.inj e0
  clear e0
  repeat' first
    | with_reducible assumption
    | intro x
    | lift_lets
    | (with_reducible refine goes_addChild _ _ _ _ _ _ _ ?_ ?_; exact subT rfl hW)
    | (with_reducible refine Goes.ite ?_ ?_)

theorem goes_execChildDel {W : List Part} {s0 : State} (x : AirRx) (s : State) (hW : subParts [.regs, .out, .free, .ldg, .mem, .lnk, .net, .pba] W = true) (hg : Goes W s0 s) : ∀ t0, execChildDel x s = .next t0 → Goes W s0 t0 := by
  unfold execChildDel
  intro t0 e0
  obtain rfl := Host.Outcome.next.inj e0
  clear e0
  repeat' first
    | with_reducible assumption
    | lift_lets
    | (with_reducible refine goes_dropChild _ _ ?_ ?_; exact subT rfl hW)
    | (with_reducible refine Goes.ite ?_ ?_)

theorem goes_childAddAt {W : List Part} {s0 : State} (s : State) (parent : Nat) (r : NodeRow) (hW : subParts [.regs, .out, .free, .que, .ldg, .mem, .nvs, .rad, .lnk, .net, .pba] W = true) (hg : Goes W s0 s) : Goes W s0 (State.childAddAt s parent r) := by
  unfold State.childAddAt
  repeat' first
    | with_reducible assumption
    | lift_lets
    | (with_reducible refine goes_commandTo _ _ _ _ ?_ ?_; exact subT rfl hW)
    | (with_reducible refine goes_addChild _ _ _ _ _ _ _ ?_ ?_; exact subT rfl hW)
    | (with_reducible refine Goes.ite ?_ ?_)

theorem goes_childDelAt {W : List Part} {s0 : State} (s : State) (parent : Nat) (index : Nat) (hW : subParts [.regs, .out, .free, .que, .ldg, .mem, .rad, .lnk, .net, .pba] W = true) (hg : Goes W s0 s) : Goes W s0 (State.childDelAt s parent index) := by
  unfold State.childDelAt
  repeat' first
    | with_reducible assumption
    | lift_lets
    | (with_reducible refine goes_commandTo _ _ _ _ ?_ ?_; exact subT rfl hW)
    | (with_reducible refine goes_dropChild _ _ ?_ ?_; exact subT rfl hW)
    | (with_reducible refine Goes.ite ?_ ?_)

theorem goes_passInner {W : List Part} {s0 : State} (s : State) (x : AirRx) (hW : subParts [.regs, .out, .que, .rad, .net, .pba] W = true) (hg : Goes W s0 s) : Goes W s0 (State.passInner s x) := by
  unfold State.passInner
  repeat' first
    | with_reducible assumption
    | intro x
    | lift_lets
    | (with_reducible refine goes_txQueue _ _ _ ?_ ?_; exact subT rfl hW)
    | (with_reducible refine Goes.ite ?_ ?_)

theorem goes_admitNode {W : List Part} {s0 : State} (s : State) (r : NodeRow) (hW : subParts [.regs, .out, .free, .que, .ldg, .mem, .nvs, .rad, .lnk, .net, .pba] W = true) (hg : Goes W s0 s) : Goes W s0 (State.admitNode s r) := by
  unfold State.admitNode
  repeat' first
    | with_reducible assumption
    | (intro x; refine Goes.cut (W := W) (s0 := s0) (x := x) ?_ ?_; rotate_left; clear_value x; intro hx; rotate_right)
    | lift_lets
    | (with_reducible refine goes_sendVia _ _ _ _ _ ?_ ?_; exact subT rfl hW)
    | (with_reducible refine goes_sendSegKey _ _ _ ?_ ?_; exact subT rfl hW)
    | (with_reducible refine goes_childAddAt _ _ _ ?_ ?_; exact subT rfl hW)
    | (with_reducible refine Goes.ite ?_ ?_)
    | (refine Goes.foldl (fun _ _ _ => ?_) ?_)

theorem goes_sendNow {W : List Part} {s0 : State} (s : State) (parent : Nat) (ridx : Nat) (psdu : Bytes) (hW : subParts [.regs, .out, .que, .nvs, .rad, .lnk, .net, .pba] W = true) (hg : Goes W s0 s) : Goes W s0 (State.sendNow s parent ridx psdu) := by
  unfold State.sendNow
  repeat' first
    | with_reducible assumption
    | lift_lets
    | (with_reducible refine goes_txQueue _ _ _ ?_ ?_; exact subT rfl hW)
    | (with_reducible refine goes_secure _ _ _ (by assumption) ?_ ?_; exact subT rfl hW)
    | (with_reducible refine goes_sendVia _ _ _ _ _ ?_ ?_; exact subT rfl hW)
    | (with_reducible refine Goes.ite ?_ ?_)
    | split

theorem goes_refuseJoin {W : List Part} {s0 : State} (s : State) (r : NodeRow) (parent : Nat) (ridx : Nat) (reason : Nat) (hW : subParts [.regs, .out, .free, .mbx, .que, .ldg, .nvs, .rad, .lnk, .net, .pba] W = true) (hg : Goes W s0 s) : Goes W s0 (State.refuseJoin s r parent ridx reason) := by
  unfold State.refuseJoin
  repeat' first
    | with_reducible assumption
    | (intro x; refine Goes.cut (W := W) (s0 := s0) (x := x) ?_ ?_; rotate_left; clear_value x; intro hx; rotate_right)
    | intro x
    | lift_lets
    | (with_reducible refine goes_draw _ _ ?_ ?_; exact subT rfl hW)
    | (with_reducible refine goes_event _ _ _ _ ?_ ?_; exact subT rfl hW)
    | (with_reducible refine goes_sendNow _ _ _ _ ?_ ?_; exact subT rfl hW)

theorem goes_giveIndex {W : List Part} {s0 : State} (s : State) (r : NodeRow) (index : Nat) (hW : subParts [.regs, .out, .free, .ldg, .mem, .lnk, .pba] W = true) (hg : Goes W s0 s) : GoesO W s0 (State.giveIndex s r index) := by
  unfold State.giveIndex
  repeat' first
    | with_reducible assumption
    | lift_lets
    | (with_reducible refine GoesO.elim (goes_idxSet _ _ _ ?_ ?_) (by assumption); exact subT rfl hW)
    | (with_reducible refine goes_lentTo _ _ _ ?_ ?_; exact subT rfl hW)
    | (refine GoesO.some ?_)
    | exact GoesO.none
    | (with_reducible refine GoesO.ite ?_ ?_)
    | split

theorem goes_acceptJoin {W : List Part} {s0 : State} (s : State) (r : NodeRow) (a : JoinAsk) (ridx : Nat) (rejoin : Bool) (hW : subParts [.regs, .out, .free, .mbx, .que, .ldg, .mem, .nvs, .rad, .lnk, .net, .pba] W = true) (hg : Goes W s0 s) : Goes W s0 (State.acceptJoin s r a ridx rejoin) := by
  unfold State.acceptJoin
  repeat' first
    | with_reducible assumption
    | (intro x; refine Goes.cut (W := W) (s0 := s0) (x := x) ?_ ?_; rotate_left; clear_value x; intro hx; rotate_right)
    | intro x
    | lift_lets
    | (with_reducible refine goes_event _ _ _ _ ?_ ?_; exact subT rfl hW)
    | (with_reducible refine goes_setRow _ _ ?_ ?_; exact subT rfl hW)
    | (with_reducible refine goes_childDelAt _ _ _ ?_ ?_; exact subT rfl hW)
    | (with_reducible refine goes_admitNode _ _ ?_ ?_; exact subT rfl hW)
    | (with_reducible refine goes_refuseJoin _ _ _ _ _ ?_ ?_; exact subT rfl hW)
    | (with_reducible refine GoesO.elim (goes_giveIndex _ _ _ ?_ ?_) (by assumption); exact subT rfl hW)
    | (with_reducible refine Goes.ite ?_ ?_)
    | split

theorem goes_joinVerified {W : List Part} {s0 : State} (s : State) (r : NodeRow) (x : AirRx) (hW : subParts [.regs, .out, .free, .ldg, .mem, .nvs, .lnk, .pba] W = true) (hg : Goes W s0 s) : Goes W s0 (State.joinVerified s r x).1 := by
  unfold State.joinVerified
  repeat' first
    | with_reducible assumption
    | intro x
    | lift_lets
    | (with_reducible refine goes_ctxFor _ _ _ ?_ ?_; exact subT rfl hW)
    | (with_reducible refine goes_verify _ _ _ _ _ _ _ ?_ ?_; exact subT rfl hW)
    | (with_reducible refine Goes.iteFst ?_ ?_)
    | split

theorem goes_joinVerified' {W : List Part} {s0 : State} (s : State) (r : NodeRow) (x : AirRx) {u0 : State} {v0 : Bool} (e : State.joinVerified s r x = (u0, v0)) (hW : subParts [.regs, .out, .free, .ldg, .mem, .nvs, .lnk, .pba] W = true) (hg : Goes W s0 s) : Goes W s0 u0 := by
  have := goes_joinVerified s r x hW hg
  rw [e] at this
  exact this

theorem goes_joinReq {W : List Part} {s0 : State} (s : State) (x : AirRx) (hW : subParts [.regs, .out, .free, .mbx, .que, .ldg, .mem, .nvs, .rad, .lnk, .net, .pba] W = true) (hg : Goes W s0 s) : Goes W s0 (State.joinReq s x) := by
  unfold State.joinReq
  repeat' first
    | with_reducible assumption
    | (intro x; refine Goes.cut (W := W) (s0 := s0) (x := x) ?_ ?_; rotate_left; clear_value x; intro hx; rotate_right)
    | intro x
    | lift_lets
    | (with_reducible refine goes_draw _ _ ?_ ?_; exact subT rfl hW)
    | (with_reducible refine goes_event _ _ _ _ ?_ ?_; exact subT rfl hW)
    | (with_reducible refine goes_lend _ _ ?_ ?_; exact subT rfl hW)
    | (with_reducible refine goes_unlend _ _ ?_ ?_; exact subT rfl hW)
    | (with_reducible refine goes_refuseJoin _ _ _ _ _ ?_ ?_; exact subT rfl hW)
    | (with_reducible refine goes_acceptJoin _ _ _ _ _ ?_ ?_; exact subT rfl hW)
    | (with_reducible refine goes_joinVerified _ _ _ ?_ ?_; exact subT rfl hW)
    | (with_reducible refine Goes.ite ?_ ?_)
    | split
    | (fail_if_no_progress (with_reducible refine goes_set_net _ _ ?_ ?_; exact subT rfl hW))

theorem goes_execJoinReq {W : List Part} {s0 : State} (x : AirRx) (s : State) (hW : subParts [.regs, .out, .free, .mbx, .que, .ldg, .mem, .nvs, .rad, .lnk, .net, .pba] W = true) (hg : Goes W s0 s) : ∀ t0, execJoinReq x s = .next t0 → Goes W s0 t0 := by
  unfold execJoinReq
  intro t0 e0
  obtain rfl := Host.Outcome.next.inj e0
  clear e0
  repeat' first
    | with_reducible assumption
    | intro x
    | lift_lets
    | (with_reducible refine goes_sendUp _ _ _ _ ?_ ?_; exact subT rfl hW)
    | (with_reducible refine goes_joinReq _ _ ?_ ?_; exact subT rfl hW)
    | (with_reducible refine Goes.ite ?_ ?_)
    | (fail_if_no_progress (with_reducible refine goes_set_net _ _ ?_ ?_; exact subT rfl hW))

theorem goes_sendStatus {W : List Part} {s0 : State} (s : State) (hW : subParts [.regs, .out, .free, .que, .rad, .net, .pba] W = true) (hg : Goes W s0 s) : Goes W s0 (State.sendStatus s) := by
  unfold State.sendStatus
  repeat' first
    | with_reducible assumption
    | (intro x; refine Goes.cut (W := W) (s0 := s0) (x := x) ?_ ?_; rotate_left; clear_value x; intro hx; rotate_right)
    | intro x
    | lift_lets
    | (with_reducible refine goes_draw _ _ ?_ ?_; exact subT rfl hW)
    | (with_reducible refine goes_sendUp _ _ _ _ ?_ ?_; exact subT rfl hW)
    | (fail_if_no_progress (with_reducible refine goes_set_net _ _ ?_ ?_; exact subT rfl hW))

theorem goes_sendNkStatus {W : List Part} {s0 : State} (s : State) (g : Nat) (hW : subParts [.regs, .out, .free, .que, .nvs, .rad, .lnk, .net, .pba] W = true) (hg : Goes W s0 s) : Goes W s0 (State.sendNkStatus s g) := by
  unfold State.sendNkStatus
  repeat' first
    | with_reducible assumption
    | intro x
    | lift_lets
    | (with_reducible refine goes_draw _ _ ?_ ?_; exact subT rfl hW)
    | (with_reducible refine goes_fwSend _ _ _ _ _ _ ?_ ?_; exact subT rfl hW)
    | (with_reducible refine goes_secure _ _ _ (by assumption) ?_ ?_; exact subT rfl hW)
    | (with_reducible refine goes_sendUp _ _ _ _ ?_ ?_; exact subT rfl hW)
    | (with_reducible refine Goes.ite ?_ ?_)
    | split

theorem goes_nkRoll {W : List Part} {s0 : State} (s : State) (r : NodeRow) (g : Nat) (hW : subParts [.regs, .out, .free, .ldg, .mem, .lnk, .net, .pba] W = true) (hg : Goes W s0 s) : Goes W s0 (State.nkRoll s r g) := by
  unfold State.nkRoll
  repeat' first
    | with_reducible assumption
    | (intro x; refine Goes.cut (W := W) (s0 := s0) (x := x) ?_ ?_; rotate_left; clear_value x; intro hx; rotate_right)
    | intro x
    | lift_lets
    | (with_reducible refine goes_recWrite _ _ _ ?_ ?_; exact subT rfl hW)
    | (with_reducible refine goes_ctxDrop _ _ ?_ ?_; exact subT rfl hW)
    | (with_reducible refine goes_setRow _ _ ?_ ?_; exact subT rfl hW)
    | split

theorem goes_execStatusReceive {W : List Part} {s0 : State} (x : AirRx) (s : State) (hW : subParts [.regs, .out, .free, .mbx, .ldg, .mem, .lnk, .net, .pba] W = true) (hg : Goes W s0 s) : ∀ t0, execStatusReceive x s = .next t0 → Goes W s0 t0 := by
  unfold execStatusReceive
  intro t0 e0
  obtain rfl := Host.Outcome.next.inj e0
  clear e0
  repeat' first
    | with_reducible assumption
    | (intro x; refine Goes.cut (W := W) (s0 := s0) (x := x) ?_ ?_; rotate_left; clear_value x; intro hx; rotate_right)
    | intro x
    | lift_lets
    | (with_reducible refine goes_event _ _ _ _ ?_ ?_; exact subT rfl hW)
    | (with_reducible refine goes_setRow _ _ ?_ ?_; exact subT rfl hW)
    | (with_reducible refine goes_nkRoll _ _ _ ?_ ?_; exact subT rfl hW)
    | (with_reducible refine Goes.ite ?_ ?_)
    | split

theorem goes_abandonJoin {W : List Part} {s0 : State} (s : State) (r : NodeRow) (hW : subParts [.regs, .out, .free, .mbx, .ldg, .mem, .lnk, .net, .pba] W = true) (hg : Goes W s0 s) : Goes W s0 (State.abandonJoin s r) := by
  unfold State.abandonJoin
  repeat' first
    | with_reducible assumption
    | (intro x; refine Goes.cut (W := W) (s0 := s0) (x := x) ?_ ?_; rotate_left; clear_value x; intro hx; rotate_right)
    | lift_lets
    | (with_reducible refine goes_event _ _ _ _ ?_ ?_; exact subT rfl hW)
    | (with_reducible refine goes_recFree _ _ ?_ ?_; exact subT rfl hW)
    | (with_reducible refine goes_idxSet _ _ _ ?_ ?_; exact subT rfl hW)
    | (with_reducible refine goes_setRow _ _ ?_ ?_; exact subT rfl hW)
    | (with_reducible refine goes_dropChild _ _ ?_ ?_; exact subT rfl hW)
    | (with_reducible refine Goes.ite ?_ ?_)
    | (with_reducible refine GoesO.getD ?_ ?_)

theorem goes_execJoinConfirmTimeout {W : List Part} {s0 : State} (index : Nat) (s : State) (hW : subParts [.regs, .out, .free, .mbx, .que, .ldg, .mem, .nvs, .rad, .lnk, .net, .pba] W = true) (hg : Goes W s0 s) : ∀ t0, execJoinConfirmTimeout index s = .next t0 → Goes W s0 t0 := by
  unfold execJoinConfirmTimeout
  intro t0 e0
  obtain rfl := Host.Outcome.next.inj e0
  clear e0
  repeat' first
    | with_reducible assumption
    | intro x
    | lift_lets
    | (with_reducible refine goes_setRow _ _ ?_ ?_; exact subT rfl hW)
    | (with_reducible refine goes_admitNode _ _ ?_ ?_; exact subT rfl hW)
    | (with_reducible refine goes_abandonJoin _ _ ?_ ?_; exact subT rfl hW)
    | (with_reducible refine Goes.ite ?_ ?_)
    | split

theorem goes_joined {W : List Part} {s0 : State} (s : State) (hW : subParts [.regs, .out, .free, .que, .rad, .net, .pba] W = true) (hg : Goes W s0 s) : Goes W s0 (State.joined s) := by
  unfold State.joined
  repeat' first
    | with_reducible assumption
    | lift_lets
    | (with_reducible refine goes_setBcn _ _ _ ?_ ?_; exact subT rfl hW)
    | (with_reducible refine goes_sendStatus _ ?_ ?_; exact subT rfl hW)

theorem goes_newParent {W : List Part} {s0 : State} (s : State) (index : Nat) (seg : Nat) (head : Nat) (parent : Nat) (wake : Nat × Nat × Nat) (margins : List Int) (cost : Nat) (hW : subParts [.ntm, .bcn, .net] W = true) (hg : Goes W s0 s) : Goes W s0 (State.newParent s index seg head parent wake margins cost) := by
  unfold State.newParent
  repeat' first
    | with_reducible assumption
    | intro x
    | lift_lets
    | (fail_if_no_progress (apply Goes.upd [.ntm, .bcn, .net]; dsimp only; exact subT rfl hW; (intro p hp; cases p <;> first | rfl | simp at hp); exact fun c => c))

theorem goes_leaveParent {W : List Part} {s0 : State} (s : State) (old : Nat) (new : Nat) (hW : subParts [.regs, .out, .free, .ldg, .mem, .lnk, .pba] W = true) (hg : Goes W s0 s) : Goes W s0 (State.leaveParent s old new) := by
  unfold State.leaveParent
  repeat' first
    | with_reducible assumption
    | lift_lets
    | (with_reducible refine goes_recFree _ _ ?_ ?_; exact subT rfl hW)
    | (with_reducible refine Goes.ite ?_ ?_)

theorem goes_takeAccept {W : List Part} {s0 : State} (s : State) (x : AirRx) (parent : Nat) (seg : Nat) (hW : subParts [.regs, .out, .free, .que, .ldg, .ntm, .mem, .nvs, .rad, .lnk, .bcn, .net, .pba] W = true) (hg : Goes W s0 s) : Goes W s0 (State.takeAccept s x parent seg) := by
  unfold State.takeAccept
  repeat' first
    | with_reducible assumption
    | (intro x; refine Goes.cut (W := W) (s0 := s0) (x := x) ?_ ?_; rotate_left; clear_value x; intro hx; rotate_right)
    | intro x
    | lift_lets
    | (with_reducible refine goes_wr _ _ _ ?_ ?_; exact subT rfl hW)
    | (with_reducible refine goes_wf _ _ _ _ _ ?_ ?_; exact subT rfl hW)
    | (with_reducible refine goes_wb _ _ _ _ ?_ ?_; exact subT rfl hW)
    | (with_reducible refine goes_recSet _ _ _ _ _ ?_ ?_; exact subT rfl hW)
    | (with_reducible refine goes_joined _ ?_ ?_; exact subT rfl hW)
    | (with_reducible refine goes_newParent _ _ _ _ _ _ _ _ ?_ ?_; exact subT rfl hW)
    | (with_reducible refine goes_leaveParent _ _ _ ?_ ?_; exact subT rfl hW)
    | (with_reducible refine Goes.ite ?_ ?_)

theorem goes_execJoinAcc {W : List Part} {s0 : State} (x : AirRx) (s : State) (hW : subParts [.regs, .out, .free, .que, .ldg, .ntm, .mem, .nvs, .rad, .lnk, .bcn, .net, .pba] W = true) (hg : Goes W s0 s) : ∀ t0, execJoinAcc x s = .next t0 → Goes W s0 t0 := by
  unfold execJoinAcc
  intro t0 e0
  obtain rfl := Host.Outcome.next.inj e0
  clear e0
  repeat' first
    | with_reducible assumption
    | intro x
    | lift_lets
    | (with_reducible refine goes_passInner _ _ ?_ ?_; exact subT rfl hW)
    | (with_reducible refine goes_takeAccept _ _ _ _ ?_ ?_; exact subT rfl hW)
    | (with_reducible refine Goes.ite ?_ ?_)
    | split

theorem goes_execJoinRef {W : List Part} {s0 : State} (x : AirRx) (s : State) (hW : subParts [.regs, .out, .que, .rad, .bcn, .net, .pba] W = true) (hg : Goes W s0 s) : ∀ t0, execJoinRef x s = .next t0 → Goes W s0 t0 := by
  unfold execJoinRef
  intro t0 e0
  obtain rfl := Host.Outcome.next.inj e0
  clear e0
  repeat' first
    | with_reducible assumption
    | intro x
    | lift_lets
    | (with_reducible refine goes_askBest _ _ ?_ ?_; exact subT rfl hW)
    | (with_reducible refine goes_passInner _ _ ?_ ?_; exact subT rfl hW)
    | (with_reducible refine Goes.ite ?_ ?_)
    | split
    | (fail_if_no_progress (with_reducible refine goes_set_bcn _ _ ?_ ?_; exact subT rfl hW))

theorem goes_execJoinTimeout {W : List Part} {s0 : State} (s : State) (hW : subParts [.regs, .out, .que, .rad, .bcn, .net, .pba] W = true) (hg : Goes W s0 s) : ∀ t0, execJoinTimeout s = .next t0 → Goes W s0 t0 := by
  unfold execJoinTimeout
  intro t0 e0
  obtain rfl := Host.Outcome.next.inj e0
  clear e0
  repeat' first
    | with_reducible assumption
    | intro x
    | lift_lets
    | (with_reducible refine goes_askBest _ _ ?_ ?_; exact subT rfl hW)
    | (with_reducible refine Goes.ite ?_ ?_)
    | split
    | (fail_if_no_progress (with_reducible refine goes_set_bcn _ _ ?_ ?_; exact subT rfl hW))

theorem goes_execRejoinVia {W : List Part} {s0 : State} (x : AirRx) (s : State) (hW : subParts [.regs, .out, .que, .rad, .bcn, .net, .pba] W = true) (hg : Goes W s0 s) : ∀ t0, execRejoinVia x s = .next t0 → Goes W s0 t0 := by
  unfold execRejoinVia
  intro t0 e0
  obtain rfl := Host.Outcome.next.inj e0
  clear e0
  repeat' first
    | with_reducible assumption
    | intro x
    | lift_lets
    | (with_reducible refine goes_askParent _ _ _ _ _ ?_ ?_; exact subT rfl hW)
    | (with_reducible refine Goes.ite ?_ ?_)
    | split

theorem goes_putLinkKey {W : List Part} {s0 : State} (s : State) (slot : Nat) (key : Bytes) (hW : subParts [.vlt] W = true) (hg : Goes W s0 s) : Goes W s0 (State.putLinkKey s slot key) := by
  unfold State.putLinkKey
  repeat' first
    | with_reducible assumption
    | (with_reducible refine goes_setSlot _ _ _ ?_ ?_; exact subT rfl hW)

theorem goes_noteKey {W : List Part} {s0 : State} (s : State) (hW : subParts [.net] W = true) (hg : Goes W s0 s) : Goes W s0 (State.noteKey s) := by
  unfold State.noteKey
  repeat' first
    | with_reducible assumption
    | intro x
    | lift_lets
    | (fail_if_no_progress (with_reducible refine goes_set_net _ _ ?_ ?_; exact subT rfl hW))

theorem goes_takeSegKey {W : List Part} {s0 : State} (s : State) (g : Nat) (key : Bytes) (hW : subParts [.regs, .out, .free, .que, .ldg, .mem, .vlt, .rad, .lnk, .net, .pba] W = true) (hg : Goes W s0 s) : Goes W s0 (State.takeSegKey s g key) := by
  unfold State.takeSegKey
  repeat' first
    | with_reducible assumption
    | (intro x; refine Goes.cut (W := W) (s0 := s0) (x := x) ?_ ?_; rotate_left; clear_value x; intro hx; rotate_right)
    | lift_lets
    | (with_reducible refine goes_clearGen _ _ ?_ ?_; exact subT rfl hW)
    | (with_reducible refine goes_joined _ ?_ ?_; exact subT rfl hW)
    | (with_reducible refine goes_putLinkKey _ _ _ ?_ ?_; exact subT rfl hW)
    | (with_reducible refine goes_noteKey _ ?_ ?_; exact subT rfl hW)
    | (with_reducible refine Goes.ite ?_ ?_)

theorem goes_takeNodeKey {W : List Part} {s0 : State} (s : State) (g : Nat) (key : Bytes) (hW : subParts [.regs, .out, .free, .que, .nvs, .vlt, .rad, .lnk, .net, .pba] W = true) (hg : Goes W s0 s) : Goes W s0 (State.takeNodeKey s g key) := by
  unfold State.takeNodeKey
  repeat' first
    | with_reducible assumption
    | (intro x; refine Goes.cut (W := W) (s0 := s0) (x := x) ?_ ?_; rotate_left; clear_value x; intro hx; rotate_right)
    | intro x
    | lift_lets
    | (with_reducible refine goes_sendNkStatus _ _ ?_ ?_; exact subT rfl hW)
    | (with_reducible refine goes_putLinkKey _ _ _ ?_ ?_; exact subT rfl hW)
    | (fail_if_no_progress (with_reducible refine goes_set_net _ _ ?_ ?_; exact subT rfl hW))

theorem goes_execKeyReceive {W : List Part} {s0 : State} (x : AirRx) (s : State) (hW : subParts [.regs, .out, .free, .que, .ldg, .mem, .nvs, .vlt, .rad, .lnk, .net, .pba] W = true) (hg : Goes W s0 s) : ∀ t0, execKeyReceive x s = .next t0 → Goes W s0 t0 := by
  unfold execKeyReceive
  intro t0 e0
  obtain rfl := Host.Outcome.next.inj e0
  clear e0
  repeat' first
    | with_reducible assumption
    | intro x
    | lift_lets
    | (with_reducible refine goes_passInner _ _ ?_ ?_; exact subT rfl hW)
    | (with_reducible refine goes_takeSegKey _ _ _ ?_ ?_; exact subT rfl hW)
    | (with_reducible refine goes_takeNodeKey _ _ _ ?_ ?_; exact subT rfl hW)
    | (with_reducible refine Goes.ite ?_ ?_)

theorem goes_execPresenceReceive {W : List Part} {s0 : State} (x : AirRx) (s : State) (hW : subParts [.regs, .out, .cnt, .que, .pba] W = true) (hg : Goes W s0 s) : ∀ t0, execPresenceReceive x s = .next t0 → Goes W s0 t0 := by
  unfold execPresenceReceive
  intro t0 e0
  obtain rfl := Host.Outcome.next.inj e0
  clear e0
  repeat' first
    | with_reducible assumption
    | intro x
    | lift_lets
    | (with_reducible refine goes_at _ _ ?_ ?_; exact subT rfl hW)
    | (with_reducible refine goes_hwPush _ _ _ ?_ ?_; exact subT rfl hW)
    | (with_reducible refine Goes.ite ?_ ?_)

theorem goes_execWakeSet {W : List Part} {s0 : State} (x : AirRx) (s : State) (hW : subParts [.net] W = true) (hg : Goes W s0 s) : ∀ t0, execWakeSet x s = .next t0 → Goes W s0 t0 := by
  unfold execWakeSet
  intro t0 e0
  obtain rfl := Host.Outcome.next.inj e0
  clear e0
  repeat' first
    | with_reducible assumption
    | intro x
    | lift_lets
    | (with_reducible refine Goes.ite ?_ ?_)
    | (fail_if_no_progress (with_reducible refine goes_set_net _ _ ?_ ?_; exact subT rfl hW))

theorem goes_ownWake {W : List Part} {s0 : State} (s : State) (heard : Bool) (hW : subParts [.regs, .out, .free, .que, .rad, .net, .pba] W = true) (hg : Goes W s0 s) : Goes W s0 (State.ownWake s heard) := by
  unfold State.ownWake
  repeat' first
    | with_reducible assumption
    | (intro x; refine Goes.cut (W := W) (s0 := s0) (x := x) ?_ ?_; rotate_left; clear_value x; intro hx; rotate_right)
    | intro x
    | lift_lets
    | (with_reducible refine goes_draw _ _ ?_ ?_; exact subT rfl hW)
    | (with_reducible refine goes_fwSend _ _ _ _ _ _ ?_ ?_; exact subT rfl hW)
    | (with_reducible refine Goes.ite ?_ ?_)
    | split
    | (fail_if_no_progress (with_reducible refine goes_set_net _ _ ?_ ?_; exact subT rfl hW))

theorem goes_childWake {W : List Part} {s0 : State} (s : State) (c : Child) (heard : Bool) (hW : subParts [.regs, .out, .que, .rad, .net, .pba] W = true) (hg : Goes W s0 s) : Goes W s0 (State.childWake s c heard) := by
  unfold State.childWake
  repeat' first
    | with_reducible assumption
    | intro x
    | lift_lets
    | (with_reducible refine goes_fwSend _ _ _ _ _ _ ?_ ?_; exact subT rfl hW)
    | (with_reducible refine Goes.ite ?_ ?_)
    | split

theorem goes_execSleepyWake {W : List Part} {s0 : State} (index : Nat) (heard : Bool) (s : State) (hW : subParts [.regs, .out, .free, .que, .rad, .net, .pba] W = true) (hg : Goes W s0 s) : ∀ t0, execSleepyWake index heard s = .next t0 → Goes W s0 t0 := by
  unfold execSleepyWake
  intro t0 e0
  obtain rfl := Host.Outcome.next.inj e0
  clear e0
  repeat' first
    | with_reducible assumption
    | lift_lets
    | (with_reducible refine goes_ownWake _ _ ?_ ?_; exact subT rfl hW)
    | (with_reducible refine goes_childWake _ _ _ ?_ ?_; exact subT rfl hW)
    | (with_reducible refine Goes.ite ?_ ?_)
    | split

theorem goes_execHeldFrameExpiry {W : List Part} {s0 : State} (s : State) (hW : subParts [.net] W = true) (hg : Goes W s0 s) : ∀ t0, execHeldFrameExpiry s = .next t0 → Goes W s0 t0 := by
  unfold execHeldFrameExpiry
  intro t0 e0
  obtain rfl := Host.Outcome.next.inj e0
  clear e0
  repeat' first
    | with_reducible assumption
    | intro x
    | lift_lets
    | (fail_if_no_progress (with_reducible refine goes_set_net _ _ ?_ ?_; exact subT rfl hW))

theorem goes_execDreqSend {W : List Part} {s0 : State} (s : State) (hW : subParts [.regs, .out, .que, .ntm, .rad, .net, .pba] W = true) (hg : Goes W s0 s) : ∀ t0, execDreqSend s = .next t0 → Goes W s0 t0 := by
  unfold execDreqSend
  intro t0 e0
  obtain rfl := Host.Outcome.next.inj e0
  clear e0
  repeat' first
    | with_reducible assumption
    | (intro x; refine Goes.cut (W := W) (s0 := s0) (x := x) ?_ ?_; rotate_left; clear_value x; intro hx; rotate_right)
    | intro x
    | lift_lets
    | (with_reducible refine goes_fwSend _ _ _ _ _ _ ?_ ?_; exact subT rfl hW)
    | (with_reducible refine Goes.ite ?_ ?_)
    | (fail_if_no_progress (with_reducible refine goes_set_ntm _ _ ?_ ?_; exact subT rfl hW))

theorem goes_execDreq {W : List Part} {s0 : State} (x : AirRx) (s : State) (hW : subParts [.regs, .out, .cnt, .que, .rad, .net, .pba] W = true) (hg : Goes W s0 s) : ∀ t0, execDreq x s = .next t0 → Goes W s0 t0 := by
  unfold execDreq
  intro t0 e0
  obtain rfl := Host.Outcome.next.inj e0
  clear e0
  repeat' first
    | with_reducible assumption
    | (intro x; refine Goes.cut (W := W) (s0 := s0) (x := x) ?_ ?_; rotate_left; clear_value x; intro hx; rotate_right)
    | intro x
    | lift_lets
    | (with_reducible refine goes_at _ _ ?_ ?_; exact subT rfl hW)
    | (with_reducible refine goes_fwSend _ _ _ _ _ _ ?_ ?_; exact subT rfl hW)
    | (with_reducible refine Goes.ite ?_ ?_)

theorem goes_takeDresp {W : List Part} {s0 : State} (s : State) (q : Nat) (t1 : Nat) (t2 : Nat) (t3 : Nat) (t4 : Int) (hW : subParts [.regs, .out, .ntm, .pba] W = true) (hg : Goes W s0 s) : Goes W s0 (State.takeDresp s q t1 t2 t3 t4) := by
  unfold State.takeDresp
  repeat' first
    | with_reducible assumption
    | (intro x; refine Goes.cut (W := W) (s0 := s0) (x := x) ?_ ?_; rotate_left; clear_value x; intro hx; rotate_right)
    | intro x
    | lift_lets
    | (with_reducible refine goes_bumpSat _ _ _ ?_ ?_; exact subT rfl hW)
    | (with_reducible refine goes_irq _ _ _ ?_ ?_; exact subT rfl hW)
    | (with_reducible refine Goes.ite ?_ ?_)
    | (fail_if_no_progress (with_reducible refine goes_set_ntm _ _ ?_ ?_; exact subT rfl hW))

theorem goes_execDresp {W : List Part} {s0 : State} (x : AirRx) (s : State) (hW : subParts [.regs, .out, .cnt, .ntm, .pba] W = true) (hg : Goes W s0 s) : ∀ t0, execDresp x s = .next t0 → Goes W s0 t0 := by
  unfold execDresp
  intro t0 e0
  obtain rfl := Host.Outcome.next.inj e0
  clear e0
  repeat' first
    | with_reducible assumption
    | (intro x; refine Goes.cut (W := W) (s0 := s0) (x := x) ?_ ?_; rotate_left; clear_value x; intro hx; rotate_right)
    | intro x
    | lift_lets
    | (with_reducible refine goes_at _ _ ?_ ?_; exact subT rfl hW)
    | (with_reducible refine goes_takeDresp _ _ _ _ _ _ ?_ ?_; exact subT rfl hW)
    | (with_reducible refine Goes.ite ?_ ?_)
    | split

theorem goes_nextNodeKey {W : List Part} {s0 : State} (s : State) (r : NodeRow) (wrapped : Bytes) (key : Bytes) (hW : subParts [.regs, .out, .free, .que, .ldg, .mem, .nvs, .rad, .lnk, .net, .pba] W = true) (hg : Goes W s0 s) : Goes W s0 (State.nextNodeKey s r wrapped key) := by
  unfold State.nextNodeKey
  repeat' first
    | with_reducible assumption
    | (intro x; refine Goes.cut (W := W) (s0 := s0) (x := x) ?_ ?_; rotate_left; clear_value x; intro hx; rotate_right)
    | intro x
    | lift_lets
    | (with_reducible refine goes_recWrite _ _ _ ?_ ?_; exact subT rfl hW)
    | (with_reducible refine goes_ctxDrop _ _ ?_ ?_; exact subT rfl hW)
    | (with_reducible refine goes_setRow _ _ ?_ ?_; exact subT rfl hW)
    | (with_reducible refine goes_sendVia _ _ _ _ _ ?_ ?_; exact subT rfl hW)

theorem goes_enrol {W : List Part} {s0 : State} (s : State) (ident : DWord) (index : Nat) (cls : Nat) (sleepy : Bool) (key : Bytes) (hW : subParts [.regs, .out, .free, .ldg, .mem, .nvs, .lnk, .net, .pba] W = true) (hg : Goes W s0 s) : GoesO W s0 (State.enrol s ident index cls sleepy key) := by
  unfold State.enrol
  repeat' first
    | with_reducible assumption
    | (intro x; refine Goes.cut (W := W) (s0 := s0) (x := x) ?_ ?_; rotate_left; clear_value x; intro hx; rotate_right)
    | intro x
    | lift_lets
    | (with_reducible refine goes_recSet _ _ _ _ _ ?_ ?_; exact subT rfl hW)
    | (with_reducible refine goes_idxPlace _ _ _ ?_ ?_; exact subT rfl hW)
    | (with_reducible refine Goes.ite ?_ ?_)
    | (with_reducible refine GoesO.mapS ?_ (fun _ _ => ?_))
    | (fail_if_no_progress (with_reducible refine goes_set_net _ _ ?_ ?_; exact subT rfl hW))

theorem goes_blobToRec {W : List Part} {s0 : State} (s : State) (c : Cmd) (hW : subParts [.regs, .out, .free, .mbx, .ldg, .pwt, .vlt, .pba] W = true) (hg : Goes W s0 s) : Goes W s0 (State.blobToRec s c).1 := by
  unfold State.blobToRec
  repeat' first
    | with_reducible assumption
    | (intro x; refine Goes.cut (W := W) (s0 := s0) (x := x) ?_ ?_; rotate_left; clear_value x; intro hx; rotate_right)
    | intro x
    | lift_lets
    | (with_reducible refine goes_takeUse _ _ ?_ ?_; exact subT rfl hW)
    | (with_reducible refine goes_vopRun _ _ _ ?_ ?_; exact subT rfl hW)
    | (refine Goes.foldl (fun _ _ _ => ?_) ?_)

theorem goes_blobToRec' {W : List Part} {s0 : State} (s : State) (c : Cmd) {u0 : State} {v0 : Except Nat Bytes} (e : State.blobToRec s c = (u0, v0)) (hW : subParts [.regs, .out, .free, .mbx, .ldg, .pwt, .vlt, .pba] W = true) (hg : Goes W s0 s) : Goes W s0 u0 := by
  have := goes_blobToRec s c hW hg
  rw [e] at this
  exact this

theorem goes_enrolKey {W : List Part} {s0 : State} (s : State) (ident : DWord) (index : Nat) (cls : Nat) (sleepy : Bool) (rec' : Bytes) (hW : subParts [.regs, .out, .free, .que, .ldg, .mem, .nvs, .rad, .lnk, .net, .pba] W = true) (hg : Goes W s0 s) : GoesO W s0 (State.enrolKey s ident index cls sleepy rec') := by
  unfold State.enrolKey
  repeat' first
    | with_reducible assumption
    | (intro x; refine Goes.cut (W := W) (s0 := s0) (x := x) ?_ ?_; rotate_left; clear_value x; intro hx; rotate_right)
    | lift_lets
    | (with_reducible refine goes_recSet _ _ _ _ _ ?_ ?_; exact subT rfl hW)
    | (with_reducible refine goes_setRow _ _ ?_ ?_; exact subT rfl hW)
    | (with_reducible refine goes_nextNodeKey _ _ _ _ ?_ ?_; exact subT rfl hW)
    | (with_reducible refine goes_enrol _ _ _ _ _ _ ?_ ?_; exact subT rfl hW)
    | (refine GoesO.some ?_)
    | exact GoesO.none
    | (with_reducible refine Goes.ite ?_ ?_)
    | (with_reducible refine GoesO.ite ?_ ?_)
    | (with_reducible refine GoesO.map (fun _ => ?_))
    | split

theorem goes_execNodeEnroll {W : List Part} {s0 : State} (tag : Word) (s : State) (hW : subParts [.regs, .out, .free, .mbx, .que, .ldg, .mem, .nvs, .pwt, .vlt, .rad, .lnk, .net, .pba] W = true) (hg : Goes W s0 s) : ∀ t0, execNodeEnroll tag s = .next t0 → Goes W s0 t0 := by
  unfold execNodeEnroll
  intro t0 e0
  obtain rfl := Host.Outcome.next.inj e0
  clear e0
  repeat' first
    | with_reducible assumption
    | lift_lets
    | (with_reducible refine goes_reply _ _ _ _ _ ?_ ?_; exact subT rfl hW)
    | (with_reducible refine goes_withCmd _ _ _ _ ?_ (fun _ _ _ => ?_) ?_; exact subT rfl hW)
    | (with_reducible refine goes_withCo _ _ _ ?_ (fun _ _ => ?_) ?_; exact subT rfl hW)
    | (with_reducible refine goes_blobToRec' _ _ (by assumption) ?_ ?_; exact subT rfl hW)
    | (with_reducible refine GoesO.elim (goes_enrolKey _ _ _ _ _ _ ?_ ?_) (by assumption); exact subT rfl hW)
    | (with_reducible refine Goes.ite ?_ ?_)
    | split

theorem goes_execNodeRemove {W : List Part} {s0 : State} (tag : Word) (s : State) (hW : subParts [.regs, .out, .free, .mbx, .ldg, .mem, .lnk, .net, .pba] W = true) (hg : Goes W s0 s) : ∀ t0, execNodeRemove tag s = .next t0 → Goes W s0 t0 := by
  unfold execNodeRemove
  intro t0 e0
  obtain rfl := Host.Outcome.next.inj e0
  clear e0
  repeat' first
    | with_reducible assumption
    | (intro x; refine Goes.cut (W := W) (s0 := s0) (x := x) ?_ ?_; rotate_left; clear_value x; intro hx; rotate_right)
    | intro x
    | lift_lets
    | (with_reducible refine goes_reply _ _ _ _ _ ?_ ?_; exact subT rfl hW)
    | (with_reducible refine goes_withCmd _ _ _ _ ?_ (fun _ _ _ => ?_) ?_; exact subT rfl hW)
    | (with_reducible refine goes_event _ _ _ _ ?_ ?_; exact subT rfl hW)
    | (with_reducible refine goes_recFree _ _ ?_ ?_; exact subT rfl hW)
    | (with_reducible refine goes_idxRemove _ _ ?_ ?_; exact subT rfl hW)
    | (with_reducible refine goes_dropChild _ _ ?_ ?_; exact subT rfl hW)
    | (with_reducible refine Goes.ite ?_ ?_)
    | split
    | (fail_if_no_progress (with_reducible refine goes_set_net _ _ ?_ ?_; exact subT rfl hW))

theorem goes_execNodeTable {W : List Part} {s0 : State} (tag : Word) (s : State) (hW : subParts [.regs, .out, .mbx, .ldg, .pba] W = true) (hg : Goes W s0 s) : ∀ t0, execNodeTable tag s = .next t0 → Goes W s0 t0 := by
  unfold execNodeTable
  intro t0 e0
  obtain rfl := Host.Outcome.next.inj e0
  clear e0
  repeat' first
    | with_reducible assumption
    | lift_lets
    | (with_reducible refine goes_reply _ _ _ _ _ ?_ ?_; exact subT rfl hW)
    | (with_reducible refine goes_withCmd _ _ _ _ ?_ (fun _ _ _ => ?_) ?_; exact subT rfl hW)
    | (with_reducible refine Goes.ite ?_ ?_)

theorem goes_execJoinCtrl {W : List Part} {s0 : State} (tag : Word) (s : State) (hW : subParts [.regs, .out, .mbx, .ldg, .net, .pba] W = true) (hg : Goes W s0 s) : ∀ t0, execJoinCtrl tag s = .next t0 → Goes W s0 t0 := by
  unfold execJoinCtrl
  intro t0 e0
  obtain rfl := Host.Outcome.next.inj e0
  clear e0
  repeat' first
    | with_reducible assumption
    | (intro x; refine Goes.cut (W := W) (s0 := s0) (x := x) ?_ ?_; rotate_left; clear_value x; intro hx; rotate_right)
    | intro x
    | lift_lets
    | (with_reducible refine goes_wb _ _ _ _ ?_ ?_; exact subT rfl hW)
    | (with_reducible refine goes_reply _ _ _ _ _ ?_ ?_; exact subT rfl hW)
    | (with_reducible refine goes_withCmd _ _ _ _ ?_ (fun _ _ _ => ?_) ?_; exact subT rfl hW)
    | (with_reducible refine Goes.ite ?_ ?_)
    | (fail_if_no_progress (with_reducible refine goes_set_net _ _ ?_ ?_; exact subT rfl hW))

theorem goes_execJoinWindowExpiry {W : List Part} {s0 : State} (s : State) (hW : subParts [.regs, .net] W = true) (hg : Goes W s0 s) : ∀ t0, execJoinWindowExpiry s = .next t0 → Goes W s0 t0 := by
  unfold execJoinWindowExpiry
  intro t0 e0
  obtain rfl := Host.Outcome.next.inj e0
  clear e0
  repeat' first
    | with_reducible assumption
    | intro x
    | lift_lets
    | (with_reducible refine goes_wb _ _ _ _ ?_ ?_; exact subT rfl hW)
    | (with_reducible refine Goes.ite ?_ ?_)
    | split
    | (fail_if_no_progress (with_reducible refine goes_set_net _ _ ?_ ?_; exact subT rfl hW))

end Sys2Proof.Machine
end

