-- ==== Sys2Proof/Laws/GoesDrive.lean ====
section
/-! SUPPORT. What the operations of Machine/Drive.lean can change: one lemma each. -/

set_option linter.unreachableTactic false
set_option linter.unusedTactic false

namespace Sys2Proof.Machine

open Sys2Proof

theorem goes_modPort {W : List Part} {s0 : State} (s : State) (n : Nat) (f : Port → Port) (hW : subParts [.port] W = true) (hg : Goes W s0 s) : Goes W s0 (State.modPort s n f) := by
  unfold State.modPort
  repeat' first
    | with_reducible assumption
    | (fail_if_no_progress (with_reducible refine goes_set_port _ _ ?_ ?_; exact subT rfl hW))

theorem goes_startPort {W : List Part} {s0 : State} (s : State) (n : Nat) (frm : List Nat) (edge : Bool) (hW : subParts [.port] W = true) (hg : Goes W s0 s) : Goes W s0 (State.startPort s n frm edge) := by
  unfold State.startPort
  repeat' first
    | with_reducible assumption
    | intro x
    | lift_lets
    | (with_reducible refine goes_modPort _ _ _ ?_ ?_; exact subT rfl hW)

theorem goes_portSwap {W : List Part} {s0 : State} (s : State) (n : Nat) (edge : Bool) (hW : subParts [.port] W = true) (hg : Goes W s0 s) : Goes W s0 (State.portSwap s n edge) := by
  unfold State.portSwap
  repeat' first
    | with_reducible assumption
    | intro x
    | lift_lets
    | (with_reducible refine goes_modPort _ _ _ ?_ ?_; exact subT rfl hW)
    | (with_reducible refine goes_startPort _ _ _ _ ?_ ?_; exact subT rfl hW)
    | (with_reducible refine Goes.ite ?_ ?_)

theorem goes_cutTest {W : List Part} {s0 : State} (s : State) (n : Nat) (hW : subParts [.regs, .port] W = true) (hg : Goes W s0 s) : Goes W s0 (State.cutTest s n) := by
  unfold State.cutTest
  repeat' first
    | with_reducible assumption
    | lift_lets
    | (with_reducible refine goes_bumpSat _ _ _ ?_ ?_; exact subT rfl hW)
    | (with_reducible refine goes_modPort _ _ _ ?_ ?_; exact subT rfl hW)
    | (with_reducible refine Goes.ite ?_ ?_)

theorem goes_bankReply {W : List Part} {s0 : State} (s : State) (status : Nat) (hW : subParts [.regs, .out, .mbx, .drg, .pba] W = true) (hg : Goes W s0 s) : Goes W s0 (State.bankReply s status) := by
  unfold State.bankReply
  repeat' first
    | with_reducible assumption
    | (intro x; refine Goes.cut (W := W) (s0 := s0) (x := x) ?_ ?_; rotate_left; clear_value x; intro hx; rotate_right)
    | intro x
    | lift_lets
    | (with_reducible refine goes_reply _ _ _ _ _ ?_ ?_; exact subT rfl hW)
    | split
    | (fail_if_no_progress (with_reducible refine goes_set_drg _ _ ?_ ?_; exact subT rfl hW))

theorem goes_fwEvent {W : List Part} {s0 : State} (s : State) (code : Nat) (src : Nat) (p : Bytes) (hW : subParts [.regs, .out, .mbx, .ldg, .pba] W = true) (hg : Goes W s0 s) : Goes W s0 (State.fwEvent s code src p) := by
  unfold State.fwEvent
  repeat' first
    | with_reducible assumption
    | lift_lets
    | (with_reducible refine goes_event _ _ _ _ ?_ ?_; exact subT rfl hW)
    | (with_reducible refine Goes.ite ?_ ?_)

theorem goes_bankSwap {W : List Part} {s0 : State} (s : State) (inst : Nat) (edge : Bool) (hW : subParts [.regs, .out, .mbx, .ldg, .port, .drg, .pba] W = true) (hg : Goes W s0 s) : Goes W s0 (State.bankSwap s inst edge) := by
  unfold State.bankSwap
  repeat' first
    | with_reducible assumption
    | (intro x; refine Goes.cut (W := W) (s0 := s0) (x := x) ?_ ?_; rotate_left; clear_value x; intro hx; rotate_right)
    | intro x
    | lift_lets
    | (with_reducible refine goes_wr _ _ _ ?_ ?_; exact subT rfl hW)
    | (with_reducible refine goes_irq _ _ _ ?_ ?_; exact subT rfl hW)
    | (with_reducible refine goes_portSwap _ _ _ ?_ ?_; exact subT rfl hW)
    | (with_reducible refine goes_cutTest _ _ ?_ ?_; exact subT rfl hW)
    | (with_reducible refine goes_bankReply _ _ ?_ ?_; exact subT rfl hW)
    | (with_reducible refine goes_fwEvent _ _ _ _ ?_ ?_; exact subT rfl hW)
    | (refine Goes.foldl (fun _ _ _ => ?_) ?_)
    | (fail_if_no_progress (with_reducible refine goes_set_drg _ _ ?_ ?_; exact subT rfl hW))

theorem goes_swapEdge {W : List Part} {s0 : State} (s : State) (k : Nat) (c : DWord) (hW : subParts [.regs, .out, .mbx, .ldg, .port, .drg, .pba] W = true) (hg : Goes W s0 s) : Goes W s0 (State.swapEdge s k c) := by
  unfold State.swapEdge
  repeat' first
    | with_reducible assumption
    | lift_lets
    | (with_reducible refine goes_bankSwap _ _ _ ?_ ?_; exact subT rfl hW)
    | (with_reducible refine Goes.ite ?_ ?_)
    | split

theorem goes_fsync {W : List Part} {s0 : State} (s : State) (rising : Bool) (c : DWord) (hW : subParts [.regs, .out, .cnt, .mbx, .ldg, .port, .drg, .pba] W = true) (hg : Goes W s0 s) : Goes W s0 (State.fsync s rising c) := by
  unfold State.fsync
  repeat' first
    | with_reducible assumption
    | (intro x; refine Goes.cut (W := W) (s0 := s0) (x := x) ?_ ?_; rotate_left; clear_value x; intro hx; rotate_right)
    | lift_lets
    | (with_reducible refine goes_bumpSat _ _ _ ?_ ?_; exact subT rfl hW)
    | (with_reducible refine goes_wr64 _ _ _ _ ?_ ?_; exact subT rfl hW)
    | (with_reducible refine goes_irq _ _ _ ?_ ?_; exact subT rfl hW)
    | (with_reducible refine goes_at _ _ ?_ ?_; exact subT rfl hW)
    | (with_reducible refine goes_bankSwap _ _ _ ?_ ?_; exact subT rfl hW)
    | (with_reducible refine Goes.ite ?_ ?_)
    | split

theorem goes_execFsyncEdge {W : List Part} {s0 : State} (rising : Bool) (c : DWord) (s : State) (hW : subParts [.regs, .out, .cnt, .mbx, .ldg, .port, .drg, .pba] W = true) (hg : Goes W s0 s) : ∀ t0, execFsyncEdge rising c s = .next t0 → Goes W s0 t0 := by
  unfold execFsyncEdge
  intro t0 e0
  obtain rfl := Host.Outcome.next.inj e0
  clear e0
  repeat' first
    | with_reducible assumption
    | (with_reducible refine goes_fsync _ _ _ ?_ ?_; exact subT rfl hW)

theorem goes_armBanks {W : List Part} {s0 : State} (s : State) (c : DWord) (hW : subParts [.regs, .out, .ldg, .drg, .pba] W = true) (hg : Goes W s0 s) : Goes W s0 (State.armBanks s c).1 := by
  unfold State.armBanks
  repeat' first
    | with_reducible assumption
    | intro x
    | lift_lets
    | (with_reducible refine goes_noTime _ _ _ ?_ ?_; exact subT rfl hW)
    | (with_reducible refine Goes.iteFst ?_ ?_)
    | (fail_if_no_progress (with_reducible refine goes_set_drg _ _ ?_ ?_; exact subT rfl hW))

theorem goes_armBanks' {W : List Part} {s0 : State} (s : State) (c : DWord) {u0 : State} {v0 : Option Nat} (e : State.armBanks s c = (u0, v0)) (hW : subParts [.regs, .out, .ldg, .drg, .pba] W = true) (hg : Goes W s0 s) : Goes W s0 u0 := by
  have := goes_armBanks s c hW hg
  rw [e] at this
  exact this

theorem goes_ctrlArm {W : List Part} {s0 : State} (s : State) (m : Master) (c : DWord) (hW : subParts [.regs, .out, .cnt, .ldg, .drg, .pba] W = true) (hg : Goes W s0 s) : Goes W s0 (State.ctrlArm s m c) := by
  unfold State.ctrlArm
  repeat' first
    | with_reducible assumption
    | lift_lets
    | (with_reducible refine goes_err _ _ _ _ _ ?_ ?_; exact subT rfl hW)
    | (with_reducible refine goes_at _ _ ?_ ?_; exact subT rfl hW)
    | (with_reducible refine goes_armBanks' _ _ (by assumption) ?_ ?_; exact subT rfl hW)
    | split

theorem goes_execSwapArm {W : List Part} {s0 : State} (m : Master) (c : DWord) (s : State) (hW : subParts [.regs, .out, .resp, .cnt, .ldg, .drg, .host, .pba] W = true) (hg : Goes W s0 s) : ∀ t0, execSwapArm m c s = .next t0 → Goes W s0 t0 := by
  unfold execSwapArm
  intro t0 e0
  obtain rfl := Host.Outcome.next.inj e0
  clear e0
  repeat' first
    | with_reducible assumption
    | lift_lets
    | (with_reducible refine goes_answer _ _ ?_ ?_; exact subT rfl hW)
    | (with_reducible refine goes_writeAt _ _ _ _ _ _ ?_ (fun _ _ => ?_) ?_; exact subT rfl hW)
    | (with_reducible refine goes_ctrlArm _ _ _ ?_ ?_; exact subT rfl hW)

theorem goes_ctrlDisarm {W : List Part} {s0 : State} (s : State) (hW : subParts [.regs, .out, .mbx, .drg, .pba] W = true) (hg : Goes W s0 s) : Goes W s0 (State.ctrlDisarm s) := by
  unfold State.ctrlDisarm
  repeat' first
    | with_reducible assumption
    | intro x
    | lift_lets
    | (with_reducible refine goes_bankReply _ _ ?_ ?_; exact subT rfl hW)
    | (fail_if_no_progress (with_reducible refine goes_set_drg _ _ ?_ ?_; exact subT rfl hW))

theorem goes_execSwapDisarm {W : List Part} {s0 : State} (m : Master) (s : State) (hW : subParts [.regs, .out, .resp, .mbx, .drg, .host, .pba] W = true) (hg : Goes W s0 s) : ∀ t0, execSwapDisarm m s = .next t0 → Goes W s0 t0 := by
  unfold execSwapDisarm
  intro t0 e0
  obtain rfl := Host.Outcome.next.inj e0
  clear e0
  repeat' first
    | with_reducible assumption
    | lift_lets
    | (with_reducible refine goes_answer _ _ ?_ ?_; exact subT rfl hW)
    | (with_reducible refine goes_writeAt _ _ _ _ _ _ ?_ (fun _ _ => ?_) ?_; exact subT rfl hW)
    | (with_reducible refine goes_ctrlDisarm _ ?_ ?_; exact subT rfl hW)

theorem goes_putShadow {W : List Part} {s0 : State} (s : State) (n : Nat) (i : Nat) (v : Word) (hW : subParts [.drg] W = true) (hg : Goes W s0 s) : Goes W s0 (State.putShadow s n i v) := by
  unfold State.putShadow
  repeat' first
    | with_reducible assumption
    | intro x
    | lift_lets
    | (fail_if_no_progress (with_reducible refine goes_set_drg _ _ ?_ ?_; exact subT rfl hW))

theorem goes_shadowWrite {W : List Part} {s0 : State} (s : State) (m : Master) (n : Nat) (i : Nat) (v : Word) (hW : subParts [.regs, .out, .drg, .pba] W = true) (hg : Goes W s0 s) : Goes W s0 (State.shadowWrite s m n i v) := by
  unfold State.shadowWrite
  repeat' first
    | with_reducible assumption
    | lift_lets
    | (with_reducible refine goes_err _ _ _ _ _ ?_ ?_; exact subT rfl hW)
    | (with_reducible refine goes_putShadow _ _ _ _ ?_ ?_; exact subT rfl hW)
    | (with_reducible refine Goes.ite ?_ ?_)

theorem goes_execShadowWrite {W : List Part} {s0 : State} (m : Master) (port : Fin 4) (index : Fin 16) (v : Word) (s : State) (hW : subParts [.regs, .out, .resp, .drg, .host, .pba] W = true) (hg : Goes W s0 s) : ∀ t0, execShadowWrite m port index v s = .next t0 → Goes W s0 t0 := by
  unfold execShadowWrite
  intro t0 e0
  obtain rfl := Host.Outcome.next.inj e0
  clear e0
  repeat' first
    | with_reducible assumption
    | lift_lets
    | (with_reducible refine goes_answer _ _ ?_ ?_; exact subT rfl hW)
    | (with_reducible refine goes_writeAt _ _ _ _ _ _ ?_ (fun _ _ => ?_) ?_; exact subT rfl hW)
    | (with_reducible refine goes_shadowWrite _ _ _ _ _ ?_ ?_; exact subT rfl hW)

theorem goes_takePort {W : List Part} {s0 : State} (s : State) (n : Nat) (hW : subParts [.port] W = true) (hg : Goes W s0 s) : Goes W s0 (State.takePort s n) := by
  unfold State.takePort
  repeat' first
    | with_reducible assumption
    | intro x
    | lift_lets
    | (with_reducible refine goes_modPort _ _ _ ?_ ?_; exact subT rfl hW)

theorem goes_fadeIn {W : List Part} {s0 : State} (s : State) (n : Nat) (hW : subParts [.port] W = true) (hg : Goes W s0 s) : Goes W s0 (State.fadeIn s n) := by
  unfold State.fadeIn
  repeat' first
    | with_reducible assumption
    | lift_lets
    | (with_reducible refine goes_modPort _ _ _ ?_ ?_; exact subT rfl hW)
    | (with_reducible refine goes_startPort _ _ _ _ ?_ ?_; exact subT rfl hW)

theorem goes_runDefault {W : List Part} {s0 : State} (s : State) (n : Nat) (hW : subParts [.regs, .port] W = true) (hg : Goes W s0 s) : Goes W s0 (State.runDefault s n) := by
  unfold State.runDefault
  repeat' first
    | with_reducible assumption
    | (intro x; refine Goes.cut (W := W) (s0 := s0) (x := x) ?_ ?_; rotate_left; clear_value x; intro hx; rotate_right)
    | intro x
    | lift_lets
    | (with_reducible refine goes_wf _ _ _ _ _ ?_ ?_; exact subT rfl hW)
    | (with_reducible refine goes_modPort _ _ _ ?_ ?_; exact subT rfl hW)

theorem goes_portStart {W : List Part} {s0 : State} (s : State) (n : Nat) (hW : subParts [.regs, .port] W = true) (hg : Goes W s0 s) : Goes W s0 (State.portStart s n) := by
  unfold State.portStart
  repeat' first
    | with_reducible assumption
    | (intro x; refine Goes.cut (W := W) (s0 := s0) (x := x) ?_ ?_; rotate_left; clear_value x; intro hx; rotate_right)
    | intro x
    | lift_lets
    | (with_reducible refine goes_modPort _ _ _ ?_ ?_; exact subT rfl hW)
    | (with_reducible refine goes_fadeIn _ _ ?_ ?_; exact subT rfl hW)
    | (with_reducible refine goes_runDefault _ _ ?_ ?_; exact subT rfl hW)
    | (with_reducible refine Goes.ite ?_ ?_)

theorem goes_relive {W : List Part} {s0 : State} (s : State) (n : Nat) (hW : subParts [.port] W = true) (hg : Goes W s0 s) : Goes W s0 (State.relive s n) := by
  unfold State.relive
  repeat' first
    | with_reducible assumption
    | (with_reducible refine goes_modPort _ _ _ ?_ ?_; exact subT rfl hW)

theorem goes_portStep {W : List Part} {s0 : State} (s : State) (n : Nat) (swapped : Bool) (hW : subParts [.regs, .port] W = true) (hg : Goes W s0 s) : Goes W s0 (State.portStep s n swapped) := by
  unfold State.portStep
  repeat' first
    | with_reducible assumption
    | (intro x; refine Goes.cut (W := W) (s0 := s0) (x := x) ?_ ?_; rotate_left; clear_value x; intro hx; rotate_right)
    | intro x
    | lift_lets
    | (with_reducible refine goes_modPort _ _ _ ?_ ?_; exact subT rfl hW)
    | (with_reducible refine goes_takePort _ _ ?_ ?_; exact subT rfl hW)
    | (with_reducible refine goes_portStart _ _ ?_ ?_; exact subT rfl hW)
    | (with_reducible refine goes_relive _ _ ?_ ?_; exact subT rfl hW)
    | (with_reducible refine Goes.ite ?_ ?_)

theorem goes_sinkEdge {W : List Part} {s0 : State} (s : State) (n : Nat) (x : SinkMeas) (hW : subParts [.regs, .out, .mbx, .ldg, .port, .pba] W = true) (hg : Goes W s0 s) : Goes W s0 (State.sinkEdge s n x) := by
  unfold State.sinkEdge
  repeat' first
    | with_reducible assumption
    | (intro x; refine Goes.cut (W := W) (s0 := s0) (x := x) ?_ ?_; rotate_left; clear_value x; intro hx; rotate_right)
    | intro x
    | lift_lets
    | (with_reducible refine goes_wr _ _ _ ?_ ?_; exact subT rfl hW)
    | (with_reducible refine goes_wf _ _ _ _ _ ?_ ?_; exact subT rfl hW)
    | (with_reducible refine goes_bumpSat _ _ _ ?_ ?_; exact subT rfl hW)
    | (with_reducible refine goes_irq _ _ _ ?_ ?_; exact subT rfl hW)
    | (with_reducible refine goes_modPort _ _ _ ?_ ?_; exact subT rfl hW)
    | (with_reducible refine goes_fwEvent _ _ _ _ ?_ ?_; exact subT rfl hW)
    | (with_reducible refine Goes.ite ?_ ?_)
    | (refine Goes.foldl (fun _ _ _ => ?_) ?_)

theorem goes_sinkReport {W : List Part} {s0 : State} (s : State) (hW : subParts [.regs, .out, .port, .pba] W = true) (hg : Goes W s0 s) : Goes W s0 (State.sinkReport s) := by
  unfold State.sinkReport
  repeat' first
    | with_reducible assumption
    | (intro x; refine Goes.cut (W := W) (s0 := s0) (x := x) ?_ ?_; rotate_left; clear_value x; intro hx; rotate_right)
    | intro x
    | lift_lets
    | (with_reducible refine goes_wf _ _ _ _ _ ?_ ?_; exact subT rfl hW)
    | (with_reducible refine goes_irq _ _ _ ?_ ?_; exact subT rfl hW)
    | (with_reducible refine Goes.ite ?_ ?_)
    | (refine Goes.foldl (fun _ _ _ => ?_) ?_)
    | (fail_if_no_progress (with_reducible refine goes_set_port _ _ ?_ ?_; exact subT rfl hW))

theorem goes_driveEdge {W : List Part} {s0 : State} (s : State) (k : Nat) (c : DWord) (sinks : List SinkMeas) (hW : subParts [.regs, .out, .mbx, .ldg, .port, .drg, .pba] W = true) (hg : Goes W s0 s) : Goes W s0 (State.driveEdge s k c sinks) := by
  unfold State.driveEdge
  repeat' first
    | with_reducible assumption
    | (intro x; refine Goes.cut (W := W) (s0 := s0) (x := x) ?_ ?_; rotate_left; clear_value x; intro hx; rotate_right)
    | intro x
    | lift_lets
    | (with_reducible refine goes_swapEdge _ _ _ ?_ ?_; exact subT rfl hW)
    | (with_reducible refine goes_portStep _ _ _ ?_ ?_; exact subT rfl hW)
    | (with_reducible refine goes_sinkEdge _ _ _ ?_ ?_; exact subT rfl hW)
    | (with_reducible refine goes_sinkReport _ ?_ ?_; exact subT rfl hW)
    | (with_reducible refine Goes.ite ?_ ?_)
    | split
    | (refine Goes.foldl (fun _ _ _ => ?_) ?_)

theorem goes_drvFault {W : List Part} {s0 : State} (s : State) (n : Nat) (row : Nat) (pos : Nat) (hW : subParts [.regs, .out, .mbx, .ldg, .pba] W = true) (hg : Goes W s0 s) : Goes W s0 (State.drvFault s n row pos) := by
  unfold State.drvFault
  repeat' first
    | with_reducible assumption
    | (with_reducible refine goes_fwEvent _ _ _ _ ?_ ?_; exact subT rfl hW)

theorem goes_execOpenPosition {W : List Part} {s0 : State} (port : Fin 4) (pos : Fin 32) (s : State) (hW : subParts [.regs, .out, .mbx, .ldg, .port, .pba] W = true) (hg : Goes W s0 s) : ∀ t0, execOpenPosition port pos s = .next t0 → Goes W s0 t0 := by
  unfold execOpenPosition
  intro t0 e0
  obtain rfl := Host.Outcome.next.inj e0
  clear e0
  repeat' first
    | with_reducible assumption
    | (intro x; refine Goes.cut (W := W) (s0 := s0) (x := x) ?_ ?_; rotate_left; clear_value x; intro hx; rotate_right)
    | intro x
    | lift_lets
    | (with_reducible refine goes_wb _ _ _ _ ?_ ?_; exact subT rfl hW)
    | (with_reducible refine goes_irq _ _ _ ?_ ?_; exact subT rfl hW)
    | (with_reducible refine goes_modPort _ _ _ ?_ ?_; exact subT rfl hW)
    | (with_reducible refine goes_drvFault _ _ _ _ ?_ ?_; exact subT rfl hW)
    | (with_reducible refine Goes.ite ?_ ?_)

theorem goes_execDropout {W : List Part} {s0 : State} (port : Fin 4) (s : State) (hW : subParts [.regs, .out, .mbx, .ldg, .pba] W = true) (hg : Goes W s0 s) : ∀ t0, execDropout port s = .next t0 → Goes W s0 t0 := by
  unfold execDropout
  intro t0 e0
  obtain rfl := Host.Outcome.next.inj e0
  clear e0
  repeat' first
    | with_reducible assumption
    | intro x
    | lift_lets
    | (with_reducible refine goes_bumpSat _ _ _ ?_ ?_; exact subT rfl hW)
    | (with_reducible refine goes_irq _ _ _ ?_ ?_; exact subT rfl hW)
    | (with_reducible refine goes_drvFault _ _ _ _ ?_ ?_; exact subT rfl hW)
    | (with_reducible refine Goes.ite ?_ ?_)

theorem goes_portFault {W : List Part} {s0 : State} (s : State) (n : Nat) (irqBit : Nat) (row : Nat) (hW : subParts [.regs, .out, .mbx, .ldg, .port, .pba] W = true) (hg : Goes W s0 s) : Goes W s0 (State.portFault s n irqBit row) := by
  unfold State.portFault
  repeat' first
    | with_reducible assumption
    | (intro x; refine Goes.cut (W := W) (s0 := s0) (x := x) ?_ ?_; rotate_left; clear_value x; intro hx; rotate_right)
    | intro x
    | lift_lets
    | (with_reducible refine goes_irq _ _ _ ?_ ?_; exact subT rfl hW)
    | (with_reducible refine goes_setDrained _ _ ?_ ?_; exact subT rfl hW)
    | (with_reducible refine goes_modPort _ _ _ ?_ ?_; exact subT rfl hW)
    | (with_reducible refine goes_drvFault _ _ _ _ ?_ ?_; exact subT rfl hW)
    | (with_reducible refine Goes.ite ?_ ?_)

theorem goes_execSinkHot {W : List Part} {s0 : State} (port : Fin 4) (s : State) (hW : subParts [.regs, .out, .mbx, .ldg, .port, .pba] W = true) (hg : Goes W s0 s) : ∀ t0, execSinkHot port s = .next t0 → Goes W s0 t0 := by
  unfold execSinkHot
  intro t0 e0
  obtain rfl := Host.Outcome.next.inj e0
  clear e0
  repeat' first
    | with_reducible assumption
    | (with_reducible refine goes_portFault _ _ _ _ ?_ ?_; exact subT rfl hW)

theorem goes_execDrvLinkLost {W : List Part} {s0 : State} (port : Fin 4) (s : State) (hW : subParts [.regs, .out, .mbx, .ldg, .port, .pba] W = true) (hg : Goes W s0 s) : ∀ t0, execDrvLinkLost port s = .next t0 → Goes W s0 t0 := by
  unfold execDrvLinkLost
  intro t0 e0
  obtain rfl := Host.Outcome.next.inj e0
  clear e0
  repeat' first
    | with_reducible assumption
    | lift_lets
    | (with_reducible refine goes_modPort _ _ _ ?_ ?_; exact subT rfl hW)
    | (with_reducible refine goes_portFault _ _ _ _ ?_ ?_; exact subT rfl hW)

theorem goes_testPos {W : List Part} {s0 : State} (s : State) (n : Nat) (p : Nat) (v : Nat) (hW : subParts [.regs, .out, .mbx, .ldg, .port, .pba] W = true) (hg : Goes W s0 s) : Goes W s0 (State.testPos s n p v) := by
  unfold State.testPos
  repeat' first
    | with_reducible assumption
    | (intro x; refine Goes.cut (W := W) (s0 := s0) (x := x) ?_ ?_; rotate_left; clear_value x; intro hx; rotate_right)
    | intro x
    | lift_lets
    | (with_reducible refine goes_wr _ _ _ ?_ ?_; exact subT rfl hW)
    | (with_reducible refine goes_wb _ _ _ _ ?_ ?_; exact subT rfl hW)
    | (with_reducible refine goes_irq _ _ _ ?_ ?_; exact subT rfl hW)
    | (with_reducible refine goes_modPort _ _ _ ?_ ?_; exact subT rfl hW)
    | (with_reducible refine goes_drvFault _ _ _ _ ?_ ?_; exact subT rfl hW)
    | (with_reducible refine Goes.ite ?_ ?_)

theorem goes_stringTest {W : List Part} {s0 : State} (s : State) (n : Nat) (volts : List Nat) (hW : subParts [.regs, .out, .mbx, .ldg, .port, .pba] W = true) (hg : Goes W s0 s) : Goes W s0 (State.stringTest s n volts) := by
  unfold State.stringTest
  repeat' first
    | with_reducible assumption
    | (intro x; refine Goes.cut (W := W) (s0 := s0) (x := x) ?_ ?_; rotate_left; clear_value x; intro hx; rotate_right)
    | intro x
    | lift_lets
    | (with_reducible refine goes_wf _ _ _ _ _ ?_ ?_; exact subT rfl hW)
    | (with_reducible refine goes_irq _ _ _ ?_ ?_; exact subT rfl hW)
    | (with_reducible refine goes_modPort _ _ _ ?_ ?_; exact subT rfl hW)
    | (with_reducible refine goes_testPos _ _ _ _ ?_ ?_; exact subT rfl hW)
    | (with_reducible refine Goes.ite ?_ ?_)
    | split
    | (refine Goes.foldl (fun _ _ _ => ?_) ?_)

theorem goes_execStringTest {W : List Part} {s0 : State} (port : Fin 4) (volts : List Nat) (s : State) (hW : subParts [.regs, .out, .mbx, .ldg, .port, .pba] W = true) (hg : Goes W s0 s) : ∀ t0, execStringTest port volts s = .next t0 → Goes W s0 t0 := by
  unfold execStringTest
  intro t0 e0
  obtain rfl := Host.Outcome.next.inj e0
  clear e0
  repeat' first
    | with_reducible assumption
    | (with_reducible refine goes_stringTest _ _ _ ?_ ?_; exact subT rfl hW)

theorem goes_clrFault {W : List Part} {s0 : State} (s : State) (n : Nat) (hW : subParts [.port] W = true) (hg : Goes W s0 s) : Goes W s0 (State.clrFault s n) := by
  unfold State.clrFault
  repeat' first
    | with_reducible assumption
    | intro x
    | lift_lets
    | (with_reducible refine goes_modPort _ _ _ ?_ ?_; exact subT rfl hW)
    | (with_reducible refine Goes.ite ?_ ?_)

theorem goes_execDrvClrFault {W : List Part} {s0 : State} (m : Master) (port : Fin 4) (s : State) (hW : subParts [.regs, .out, .resp, .port, .host, .pba] W = true) (hg : Goes W s0 s) : ∀ t0, execDrvClrFault m port s = .next t0 → Goes W s0 t0 := by
  unfold execDrvClrFault
  intro t0 e0
  obtain rfl := Host.Outcome.next.inj e0
  clear e0
  repeat' first
    | with_reducible assumption
    | lift_lets
    | (with_reducible refine goes_answer _ _ ?_ ?_; exact subT rfl hW)
    | (with_reducible refine goes_writeAt _ _ _ _ _ _ ?_ (fun _ _ => ?_) ?_; exact subT rfl hW)
    | (with_reducible refine goes_clrFault _ _ ?_ ?_; exact subT rfl hW)

theorem goes_drvTake {W : List Part} {s0 : State} (s : State) (m : Master) (n : Nat) (hW : subParts [.port] W = true) (hg : Goes W s0 s) : Goes W s0 (State.drvTake s m n) := by
  unfold State.drvTake
  repeat' first
    | with_reducible assumption
    | (with_reducible refine goes_modPort _ _ _ ?_ ?_; exact subT rfl hW)

theorem goes_execDrvTake {W : List Part} {s0 : State} (m : Master) (port : Fin 4) (s : State) (hW : subParts [.regs, .out, .resp, .port, .host, .pba] W = true) (hg : Goes W s0 s) : ∀ t0, execDrvTake m port s = .next t0 → Goes W s0 t0 := by
  unfold execDrvTake
  intro t0 e0
  obtain rfl := Host.Outcome.next.inj e0
  clear e0
  repeat' first
    | with_reducible assumption
    | lift_lets
    | (with_reducible refine goes_answer _ _ ?_ ?_; exact subT rfl hW)
    | (with_reducible refine goes_writeAt _ _ _ _ _ _ ?_ (fun _ _ => ?_) ?_; exact subT rfl hW)
    | (with_reducible refine goes_drvTake _ _ _ ?_ ?_; exact subT rfl hW)

theorem goes_drvDefaults {W : List Part} {s0 : State} (s : State) (lit : Bool) (hW : subParts [.regs, .port] W = true) (hg : Goes W s0 s) : Goes W s0 (State.drvDefaults s lit) := by
  unfold State.drvDefaults
  repeat' first
    | with_reducible assumption
    | (intro x; refine Goes.cut (W := W) (s0 := s0) (x := x) ?_ ?_; rotate_left; clear_value x; intro hx; rotate_right)
    | intro x
    | lift_lets
    | (with_reducible refine goes_modPort _ _ _ ?_ ?_; exact subT rfl hW)
    | (with_reducible refine goes_runDefault _ _ ?_ ?_; exact subT rfl hW)
    | (with_reducible refine Goes.ite ?_ ?_)
    | (refine Goes.foldl (fun _ _ _ => ?_) ?_)

theorem goes_drvDisable {W : List Part} {s0 : State} (s : State) (n : Nat) (hW : subParts [.regs, .out, .port, .pba] W = true) (hg : Goes W s0 s) : Goes W s0 (State.drvDisable s n) := by
  unfold State.drvDisable
  repeat' first
    | with_reducible assumption
    | intro x
    | lift_lets
    | (with_reducible refine goes_setDrained _ _ ?_ ?_; exact subT rfl hW)
    | (with_reducible refine goes_modPort _ _ _ ?_ ?_; exact subT rfl hW)
    | (with_reducible refine Goes.ite ?_ ?_)

theorem goes_drvEnable {W : List Part} {s0 : State} (s : State) (n : Nat) (hW : subParts [.port] W = true) (hg : Goes W s0 s) : Goes W s0 (State.drvEnable s n) := by
  unfold State.drvEnable
  repeat' first
    | with_reducible assumption
    | intro x
    | lift_lets
    | (with_reducible refine goes_modPort _ _ _ ?_ ?_; exact subT rfl hW)
    | (with_reducible refine Goes.ite ?_ ?_)

theorem goes_drvFaded {W : List Part} {s0 : State} (s : State) (n : Nat) (hW : subParts [.cnt] W = true) (hg : Goes W s0 s) : Goes W s0 (State.drvFaded s n) := by
  unfold State.drvFaded
  repeat' first
    | with_reducible assumption
    | intro x
    | lift_lets
    | (with_reducible refine goes_at _ _ ?_ ?_; exact subT rfl hW)
    | (with_reducible refine Goes.ite ?_ ?_)

theorem goes_drvDrained {W : List Part} {s0 : State} (s : State) (n : Nat) (hW : subParts [.regs, .out, .port, .pba] W = true) (hg : Goes W s0 s) : Goes W s0 (State.drvDrained s n) := by
  unfold State.drvDrained
  repeat' first
    | with_reducible assumption
    | lift_lets
    | (with_reducible refine goes_setDrained _ _ ?_ ?_; exact subT rfl hW)
    | (with_reducible refine goes_modPort _ _ _ ?_ ?_; exact subT rfl hW)
    | (with_reducible refine Goes.ite ?_ ?_)

theorem goes_drvPause {W : List Part} {s0 : State} (s : State) (n : Nat) (hW : subParts [.regs, .out, .port, .pba] W = true) (hg : Goes W s0 s) : Goes W s0 (State.drvPause s n) := by
  unfold State.drvPause
  repeat' first
    | with_reducible assumption
    | lift_lets
    | (with_reducible refine goes_setDrained _ _ ?_ ?_; exact subT rfl hW)
    | (with_reducible refine goes_modPort _ _ _ ?_ ?_; exact subT rfl hW)

theorem goes_drvResume {W : List Part} {s0 : State} (s : State) (n : Nat) (hW : subParts [.port] W = true) (hg : Goes W s0 s) : Goes W s0 (State.drvResume s n) := by
  unfold State.drvResume
  repeat' first
    | with_reducible assumption
    | (intro x; refine Goes.cut (W := W) (s0 := s0) (x := x) ?_ ?_; rotate_left; clear_value x; intro hx; rotate_right)
    | intro x
    | lift_lets
    | (with_reducible refine goes_modPort _ _ _ ?_ ?_; exact subT rfl hW)
    | (with_reducible refine goes_startPort _ _ _ _ ?_ ?_; exact subT rfl hW)
    | (with_reducible refine Goes.ite ?_ ?_)

theorem goes_drvReset {W : List Part} {s0 : State} (s : State) (n : Nat) (hW : subParts [.port] W = true) (hg : Goes W s0 s) : Goes W s0 (State.drvReset s n) := by
  unfold State.drvReset
  repeat' first
    | with_reducible assumption
    | (with_reducible refine goes_modPort _ _ _ ?_ ?_; exact subT rfl hW)

theorem goes_drgReset {W : List Part} {s0 : State} (s : State) (hW : subParts [.regs, .out, .mbx, .port, .drg, .pba] W = true) (hg : Goes W s0 s) : Goes W s0 (State.drgReset s) := by
  unfold State.drgReset
  repeat' first
    | with_reducible assumption
    | (intro x; refine Goes.cut (W := W) (s0 := s0) (x := x) ?_ ?_; rotate_left; clear_value x; intro hx; rotate_right)
    | lift_lets
    | (with_reducible refine goes_bankReply _ _ ?_ ?_; exact subT rfl hW)
    | (fail_if_no_progress (apply Goes.upd [.port, .drg]; dsimp only; exact subT rfl hW; (intro p hp; cases p <;> first | rfl | simp at hp); exact fun c => c))

theorem goes_drvWrite {W : List Part} {s0 : State} (s : State) (m : Master) (n : Nat) (off : Nat) (v : Word) (hW : subParts [.regs, .out, .port, .pba] W = true) (hg : Goes W s0 s) : GoesO W s0 (State.drvWrite s m n off v) := by
  unfold State.drvWrite
  repeat' first
    | with_reducible assumption
    | (intro x; refine Goes.cut (W := W) (s0 := s0) (x := x) ?_ ?_; rotate_left; clear_value x; intro hx; rotate_right)
    | lift_lets
    | (with_reducible refine goes_err _ _ _ _ _ ?_ ?_; exact subT rfl hW)
    | (with_reducible refine goes_plainWrite _ _ _ _ _ ?_ ?_; exact subT rfl hW)
    | (with_reducible refine goes_modPort _ _ _ ?_ ?_; exact subT rfl hW)
    | (with_reducible refine goes_clrFault _ _ ?_ ?_; exact subT rfl hW)
    | (with_reducible refine goes_drvTake _ _ _ ?_ ?_; exact subT rfl hW)
    | (refine GoesO.some ?_)
    | exact GoesO.none
    | (with_reducible refine Goes.ite ?_ ?_)
    | (with_reducible refine GoesO.ite ?_ ?_)

theorem goes_drgWrite {W : List Part} {s0 : State} (s : State) (m : Master) (off : Nat) (v : Word) (hW : subParts [.regs, .out, .cnt, .mbx, .ldg, .drg, .pba] W = true) (hg : Goes W s0 s) : GoesO W s0 (State.drgWrite s m off v) := by
  unfold State.drgWrite
  repeat' first
    | with_reducible assumption
    | (intro x; refine Goes.cut (W := W) (s0 := s0) (x := x) ?_ ?_; rotate_left; clear_value x; intro hx; rotate_right)
    | lift_lets
    | (with_reducible refine goes_err _ _ _ _ _ ?_ ?_; exact subT rfl hW)
    | (with_reducible refine goes_ctrlArm _ _ _ ?_ ?_; exact subT rfl hW)
    | (with_reducible refine goes_ctrlDisarm _ ?_ ?_; exact subT rfl hW)
    | (with_reducible refine goes_shadowWrite _ _ _ _ _ ?_ ?_; exact subT rfl hW)
    | (refine GoesO.some ?_)
    | exact GoesO.none
    | (with_reducible refine Goes.ite ?_ ?_)
    | (with_reducible refine GoesO.ite ?_ ?_)

theorem goes_loadShadow {W : List Part} {s0 : State} (s : State) (b : Bytes) (hW : subParts [.drg] W = true) (hg : Goes W s0 s) : Goes W s0 (State.loadShadow s b) := by
  unfold State.loadShadow
  repeat' first
    | with_reducible assumption
    | intro x
    | lift_lets
    | (fail_if_no_progress (with_reducible refine goes_set_drg _ _ ?_ ?_; exact subT rfl hW))

theorem goes_execBankLoad {W : List Part} {s0 : State} (tag : Word) (c : DWord) (s : State) (hW : subParts [.regs, .out, .cnt, .mbx, .ldg, .drg, .pba] W = true) (hg : Goes W s0 s) : ∀ t0, execBankLoad tag c s = .next t0 → Goes W s0 t0 := by
  unfold execBankLoad
  intro t0 e0
  obtain rfl := Host.Outcome.next.inj e0
  clear e0
  repeat' first
    | with_reducible assumption
    | (intro x; refine Goes.cut (W := W) (s0 := s0) (x := x) ?_ ?_; rotate_left; clear_value x; intro hx; rotate_right)
    | intro x
    | lift_lets
    | (with_reducible refine goes_wr _ _ _ ?_ ?_; exact subT rfl hW)
    | (with_reducible refine goes_wf _ _ _ _ _ ?_ ?_; exact subT rfl hW)
    | (with_reducible refine goes_at _ _ ?_ ?_; exact subT rfl hW)
    | (with_reducible refine goes_reply _ _ _ _ _ ?_ ?_; exact subT rfl hW)
    | (with_reducible refine goes_defer _ _ ?_ ?_; exact subT rfl hW)
    | (with_reducible refine goes_withCmd _ _ _ _ ?_ (fun _ _ _ => ?_) ?_; exact subT rfl hW)
    | (with_reducible refine goes_armBanks' _ _ (by assumption) ?_ ?_; exact subT rfl hW)
    | (with_reducible refine goes_loadShadow _ _ ?_ ?_; exact subT rfl hW)
    | (with_reducible refine Goes.ite ?_ ?_)
    | split
    | (fail_if_no_progress (with_reducible refine goes_set_drg _ _ ?_ ?_; exact subT rfl hW))

theorem goes_execDrvStatus {W : List Part} {s0 : State} (tag : Word) (s : State) (hW : subParts [.regs, .out, .mbx, .ldg, .pba] W = true) (hg : Goes W s0 s) : ∀ t0, execDrvStatus tag s = .next t0 → Goes W s0 t0 := by
  unfold execDrvStatus
  intro t0 e0
  obtain rfl := Host.Outcome.next.inj e0
  clear e0
  repeat' first
    | with_reducible assumption
    | lift_lets
    | (with_reducible refine goes_reply _ _ _ _ _ ?_ ?_; exact subT rfl hW)
    | (with_reducible refine goes_withCmd _ _ _ _ ?_ (fun _ _ _ => ?_) ?_; exact subT rfl hW)

theorem goes_defaultSet {W : List Part} {s0 : State} (s : State) (n : Nat) (iset : Nat) (bits : Nat) (en : Word) (ontime : Nat) (vfd : Nat) (gscale : Nat) (hW : subParts [.regs] W = true) (hg : Goes W s0 s) : Goes W s0 (State.defaultSet s n iset bits en ontime vfd gscale) := by
  unfold State.defaultSet
  repeat' first
    | with_reducible assumption
    | (intro x; refine Goes.cut (W := W) (s0 := s0) (x := x) ?_ ?_; rotate_left; clear_value x; intro hx; rotate_right)
    | lift_lets
    | (with_reducible refine goes_wr _ _ _ ?_ ?_; exact subT rfl hW)
    | (with_reducible refine goes_wf _ _ _ _ _ ?_ ?_; exact subT rfl hW)
    | (with_reducible refine goes_wb _ _ _ _ ?_ ?_; exact subT rfl hW)
    | (with_reducible refine Goes.ite ?_ ?_)

theorem goes_execDefaultSet {W : List Part} {s0 : State} (tag : Word) (s : State) (hW : subParts [.regs, .out, .mbx, .ldg, .pba] W = true) (hg : Goes W s0 s) : ∀ t0, execDefaultSet tag s = .next t0 → Goes W s0 t0 := by
  unfold execDefaultSet
  intro t0 e0
  obtain rfl := Host.Outcome.next.inj e0
  clear e0
  repeat' first
    | with_reducible assumption
    | lift_lets
    | (with_reducible refine goes_reply _ _ _ _ _ ?_ ?_; exact subT rfl hW)
    | (with_reducible refine goes_withCmd _ _ _ _ ?_ (fun _ _ _ => ?_) ?_; exact subT rfl hW)
    | (with_reducible refine goes_defaultSet _ _ _ _ _ _ _ _ ?_ ?_; exact subT rfl hW)
    | (with_reducible refine Goes.ite ?_ ?_)

end Sys2Proof.Machine
end

