-- ==== Sys2Proof/Laws/GoesScales.lean ====
section
/-! SUPPORT. What the operations of Machine/Scales.lean can change: one lemma each. -/

set_option linter.unreachableTactic false
set_option linter.unusedTactic false

namespace Sys2Proof.Machine

open Sys2Proof

theorem goes_accumulate {W : List Part} {s0 : State} (s : State) (chans : List ChanIn) (t : Nat) (hW : subParts [.scl] W = true) (hg : Goes W s0 s) : Goes W s0 (State.accumulate s chans t) := by
  unfold State.accumulate
  repeat' first
    | with_reducible assumption
    | intro x
    | lift_lets
    | (fail_if_no_progress (with_reducible refine goes_set_scl _ _ ?_ ?_; exact subT rfl hW))

theorem goes_meterFault {W : List Part} {s0 : State} (s : State) (kind : Nat) (chan : Nat) (hW : subParts [.regs, .out, .mbx, .ldg, .pba] W = true) (hg : Goes W s0 s) : Goes W s0 (State.meterFault s kind chan) := by
  unfold State.meterFault
  repeat' first
    | with_reducible assumption
    | (with_reducible refine goes_fwEvent _ _ _ _ ?_ ?_; exact subT rfl hW)

theorem goes_noteClip {W : List Part} {s0 : State} (s : State) (chans : List ChanIn) (hW : subParts [.regs, .out, .mbx, .ldg, .scl, .pba] W = true) (hg : Goes W s0 s) : Goes W s0 (State.noteClip s chans) := by
  unfold State.noteClip
  repeat' first
    | with_reducible assumption
    | (intro x; refine Goes.cut (W := W) (s0 := s0) (x := x) ?_ ?_; rotate_left; clear_value x; intro hx; rotate_right)
    | intro x
    | lift_lets
    | (with_reducible refine goes_wr _ _ _ ?_ ?_; exact subT rfl hW)
    | (with_reducible refine goes_irq _ _ _ ?_ ?_; exact subT rfl hW)
    | (with_reducible refine goes_meterFault _ _ _ ?_ ?_; exact subT rfl hW)
    | (with_reducible refine Goes.ite ?_ ?_)
    | (refine Goes.foldl (fun _ _ _ => ?_) ?_)
    | (fail_if_no_progress (with_reducible refine goes_set_scl _ _ ?_ ?_; exact subT rfl hW))

theorem goes_saveFailed {W : List Part} {s0 : State} (s : State) (hW : subParts [.regs, .out, .nvs, .pba] W = true) (hg : Goes W s0 s) : Goes W s0 (State.saveFailed s) := by
  unfold State.saveFailed
  repeat' first
    | with_reducible assumption
    | lift_lets
    | (with_reducible refine goes_wb _ _ _ _ ?_ ?_; exact subT rfl hW)
    | (with_reducible refine goes_bumpSat _ _ _ ?_ ?_; exact subT rfl hW)
    | (with_reducible refine goes_nvsWrite _ _ _ _ ?_ ?_; exact subT rfl hW)

theorem goes_saveTotals {W : List Part} {s0 : State} (s : State) (slot : Nat) (kind : Nat) (base : Nat) (ns : Nat) (acc : List Nat) (hW : subParts [.regs, .out, .nvs, .scl, .pba] W = true) (hg : Goes W s0 s) : Goes W s0 (State.saveTotals s slot kind base ns acc) := by
  unfold State.saveTotals
  repeat' first
    | with_reducible assumption
    | (intro x; refine Goes.cut (W := W) (s0 := s0) (x := x) ?_ ?_; rotate_left; clear_value x; intro hx; rotate_right)
    | intro x
    | lift_lets
    | (with_reducible refine goes_wb _ _ _ _ ?_ ?_; exact subT rfl hW)
    | (with_reducible refine goes_nvsWrite _ _ _ _ ?_ ?_; exact subT rfl hW)
    | split
    | (fail_if_no_progress (with_reducible refine goes_set_scl _ _ ?_ ?_; exact subT rfl hW))

theorem goes_saveLatch {W : List Part} {s0 : State} (s : State) (record : Bytes) (hW : subParts [.regs, .out, .nvs, .scl, .pba] W = true) (hg : Goes W s0 s) : Goes W s0 (State.saveLatch s record) := by
  unfold State.saveLatch
  repeat' first
    | with_reducible assumption
    | (intro x; refine Goes.cut (W := W) (s0 := s0) (x := x) ?_ ?_; rotate_left; clear_value x; intro hx; rotate_right)
    | intro x
    | lift_lets
    | (with_reducible refine goes_nvsWrite _ _ _ _ ?_ ?_; exact subT rfl hW)
    | (with_reducible refine goes_saveFailed _ ?_ ?_; exact subT rfl hW)
    | (with_reducible refine goes_saveTotals _ _ _ _ _ _ ?_ ?_; exact subT rfl hW)
    | (with_reducible refine Goes.ite ?_ ?_)
    | (fail_if_no_progress (with_reducible refine goes_set_scl _ _ ?_ ?_; exact subT rfl hW))

theorem goes_sclTail {W : List Part} {s0 : State} (s : State) (hW : subParts [.regs, .out, .free, .nvs, .scl, .pba] W = true) (hg : Goes W s0 s) : Goes W s0 (State.sclTail s) := by
  unfold State.sclTail
  repeat' first
    | with_reducible assumption
    | intro x
    | lift_lets
    | (with_reducible refine goes_bumpSat _ _ _ ?_ ?_; exact subT rfl hW)
    | (with_reducible refine goes_draw _ _ ?_ ?_; exact subT rfl hW)
    | (with_reducible refine goes_saveFailed _ ?_ ?_; exact subT rfl hW)
    | (with_reducible refine goes_saveTotals _ _ _ _ _ _ ?_ ?_; exact subT rfl hW)
    | (with_reducible refine Goes.ite ?_ ?_)

theorem goes_sclRestore {W : List Part} {s0 : State} (s : State) (hW : subParts [.regs, .scl] W = true) (hg : Goes W s0 s) : Goes W s0 (State.sclRestore s) := by
  unfold State.sclRestore
  repeat' first
    | with_reducible assumption
    | (intro x; refine Goes.cut (W := W) (s0 := s0) (x := x) ?_ ?_; rotate_left; clear_value x; intro hx; rotate_right)
    | intro x
    | lift_lets
    | (with_reducible refine goes_wf _ _ _ _ _ ?_ ?_; exact subT rfl hW)
    | (with_reducible refine goes_wb _ _ _ _ ?_ ?_; exact subT rfl hW)
    | split
    | (fail_if_no_progress (with_reducible refine goes_set_scl _ _ ?_ ?_; exact subT rfl hW))

theorem goes_latchOut {W : List Part} {s0 : State} (s : State) (record : Bytes) (hW : subParts [.regs, .out, .mbx, .mkt, .que, .ldg, .mem, .scl, .pba] W = true) (hg : Goes W s0 s) : Goes W s0 (State.latchOut s record) := by
  unfold State.latchOut
  repeat' first
    | with_reducible assumption
    | (intro x; refine Goes.cut (W := W) (s0 := s0) (x := x) ?_ ?_; rotate_left; clear_value x; intro hx; rotate_right)
    | intro x
    | lift_lets
    | (with_reducible refine goes_irq _ _ _ ?_ ?_; exact subT rfl hW)
    | (with_reducible refine goes_hwSubmit _ _ ?_ ?_; exact subT rfl hW)
    | (with_reducible refine goes_meterFault _ _ _ ?_ ?_; exact subT rfl hW)
    | (with_reducible refine goes_sramWrite _ _ _ ?_ ?_; exact subT rfl hW)
    | (with_reducible refine Goes.ite ?_ ?_)
    | (fail_if_no_progress (with_reducible refine goes_set_scl _ _ ?_ ?_; exact subT rfl hW))

theorem goes_takeSet {W : List Part} {s0 : State} (s : State) (ms : List Nat) (hW : subParts [.regs, .out, .mbx, .scl, .pba] W = true) (hg : Goes W s0 s) : Goes W s0 (State.takeSet s ms) := by
  unfold State.takeSet
  repeat' first
    | with_reducible assumption
    | (intro x; refine Goes.cut (W := W) (s0 := s0) (x := x) ?_ ?_; rotate_left; clear_value x; intro hx; rotate_right)
    | intro x
    | lift_lets
    | (with_reducible refine goes_wr _ _ _ ?_ ?_; exact subT rfl hW)
    | (with_reducible refine goes_wf _ _ _ _ _ ?_ ?_; exact subT rfl hW)
    | (with_reducible refine goes_irq _ _ _ ?_ ?_; exact subT rfl hW)
    | (with_reducible refine goes_reply _ _ _ _ _ ?_ ?_; exact subT rfl hW)
    | split
    | (fail_if_no_progress (with_reducible refine goes_set_scl _ _ ?_ ?_; exact subT rfl hW))

theorem goes_balCapture {W : List Part} {s0 : State} (s : State) (time : Nat) (hW : subParts [.regs, .free, .scl] W = true) (hg : Goes W s0 s) : Goes W s0 (State.balCapture s time) := by
  unfold State.balCapture
  repeat' first
    | with_reducible assumption
    | (intro x; refine Goes.cut (W := W) (s0 := s0) (x := x) ?_ ?_; rotate_left; clear_value x; intro hx; rotate_right)
    | intro x
    | lift_lets
    | (with_reducible refine goes_wr _ _ _ ?_ ?_; exact subT rfl hW)
    | (with_reducible refine goes_draw _ _ ?_ ?_; exact subT rfl hW)
    | (with_reducible refine Goes.ite ?_ ?_)
    | split
    | (refine Goes.foldl (fun _ _ _ => ?_) ?_)
    | (fail_if_no_progress (with_reducible refine goes_set_scl _ _ ?_ ?_; exact subT rfl hW))
    | (dsimp +zetaDelta only)

theorem goes_gapNote {W : List Part} {s0 : State} (s : State) (hW : subParts [.regs, .out, .mbx, .ldg, .scl, .pba] W = true) (hg : Goes W s0 s) : Goes W s0 (State.gapNote s) := by
  unfold State.gapNote
  repeat' first
    | with_reducible assumption
    | intro x
    | lift_lets
    | (with_reducible refine goes_fwEvent _ _ _ _ ?_ ?_; exact subT rfl hW)
    | split
    | (fail_if_no_progress (with_reducible refine goes_set_scl _ _ ?_ ?_; exact subT rfl hW))

theorem goes_publish {W : List Part} {s0 : State} (s : State) (r : SclRes) (hW : subParts [.scl] W = true) (hg : Goes W s0 s) : Goes W s0 (State.publish s r) := by
  unfold State.publish
  repeat' first
    | with_reducible assumption
    | intro x
    | lift_lets
    | (fail_if_no_progress (with_reducible refine goes_set_scl _ _ ?_ ?_; exact subT rfl hW))

theorem goes_noteVolts {W : List Part} {s0 : State} (s : State) (time : Nat) (hW : subParts [.nrg] W = true) (hg : Goes W s0 s) : Goes W s0 (State.noteVolts s time) := by
  unfold State.noteVolts
  repeat' first
    | with_reducible assumption
    | intro x
    | lift_lets
    | (fail_if_no_progress (with_reducible refine goes_set_nrg _ _ ?_ ?_; exact subT rfl hW))

theorem goes_latch {W : List Part} {s0 : State} (s : State) (sig : List (List (Int × Int))) (ms : List Nat) (c : DWord) (part : Bool) (hW : subParts [.regs, .out, .free, .mbx, .mkt, .que, .ldg, .mem, .nvs, .scl, .nrg, .pba] W = true) (hg : Goes W s0 s) : Goes W s0 (State.latch s sig ms c part) := by
  unfold State.latch
  repeat' first
    | with_reducible assumption
    | (intro x; refine Goes.cut (W := W) (s0 := s0) (x := x) ?_ ?_; rotate_left; clear_value x; intro hx; rotate_right)
    | intro x
    | lift_lets
    | (with_reducible refine goes_saveLatch _ _ ?_ ?_; exact subT rfl hW)
    | (with_reducible refine goes_latchOut _ _ ?_ ?_; exact subT rfl hW)
    | (with_reducible refine goes_takeSet _ _ ?_ ?_; exact subT rfl hW)
    | (with_reducible refine goes_balCapture _ _ ?_ ?_; exact subT rfl hW)
    | (with_reducible refine goes_gapNote _ ?_ ?_; exact subT rfl hW)
    | (with_reducible refine goes_publish _ _ ?_ ?_; exact subT rfl hW)
    | (with_reducible refine goes_noteVolts _ _ ?_ ?_; exact subT rfl hW)
    | (with_reducible refine Goes.ite ?_ ?_)

theorem goes_boundary {W : List Part} {s0 : State} (s : State) (chans : List ChanIn) (c : DWord) (virt : Bool) (hW : subParts [.regs, .out, .free, .mbx, .mkt, .que, .ldg, .mem, .nvs, .scl, .nrg, .pba] W = true) (hg : Goes W s0 s) : Goes W s0 (State.boundary s chans c virt) := by
  unfold State.boundary
  repeat' first
    | with_reducible assumption
    | intro x
    | lift_lets
    | (with_reducible refine goes_accumulate _ _ _ ?_ ?_; exact subT rfl hW)
    | (with_reducible refine goes_noteClip _ _ ?_ ?_; exact subT rfl hW)
    | (with_reducible refine goes_latch _ _ _ _ _ ?_ ?_; exact subT rfl hW)
    | (with_reducible refine Goes.ite ?_ ?_)
    | (fail_if_no_progress (with_reducible refine goes_set_scl _ _ ?_ ?_; exact subT rfl hW))

theorem goes_moveRef {W : List Part} {s0 : State} (s : State) (x : Nat) (hW : subParts [.regs, .out, .scl, .pba] W = true) (hg : Goes W s0 s) : Goes W s0 (State.moveRef s x) := by
  unfold State.moveRef
  repeat' first
    | with_reducible assumption
    | intro x
    | lift_lets
    | (with_reducible refine goes_irq _ _ _ ?_ ?_; exact subT rfl hW)
    | (with_reducible refine Goes.ite ?_ ?_)
    | (fail_if_no_progress (with_reducible refine goes_set_scl _ _ ?_ ?_; exact subT rfl hW))

theorem goes_crossing {W : List Part} {s0 : State} (s : State) (x : Nat) (volts : Nat) (c : DWord) (hW : subParts [.scl] W = true) (hg : Goes W s0 s) : Goes W s0 (State.crossing s x volts c) := by
  unfold State.crossing
  repeat' first
    | with_reducible assumption
    | intro x
    | lift_lets
    | split
    | (fail_if_no_progress (with_reducible refine goes_set_scl _ _ ?_ ?_; exact subT rfl hW))

theorem goes_cycleBoundary {W : List Part} {s0 : State} (s : State) (x : Nat) (volts : Nat) (chans : List ChanIn) (c : DWord) (hW : subParts [.regs, .out, .free, .cnt, .mbx, .mkt, .que, .ldg, .mem, .nvs, .scl, .nrg, .pba] W = true) (hg : Goes W s0 s) : Goes W s0 (State.cycleBoundary s x volts chans c) := by
  unfold State.cycleBoundary
  repeat' first
    | with_reducible assumption
    | (intro x; refine Goes.cut (W := W) (s0 := s0) (x := x) ?_ ?_; rotate_left; clear_value x; intro hx; rotate_right)
    | intro x
    | lift_lets
    | (with_reducible refine goes_at _ _ ?_ ?_; exact subT rfl hW)
    | (with_reducible refine goes_boundary _ _ _ _ ?_ ?_; exact subT rfl hW)
    | (with_reducible refine goes_moveRef _ _ ?_ ?_; exact subT rfl hW)
    | (with_reducible refine goes_crossing _ _ _ _ ?_ ?_; exact subT rfl hW)
    | (with_reducible refine Goes.ite ?_ ?_)
    | (fail_if_no_progress (with_reducible refine goes_set_scl _ _ ?_ ?_; exact subT rfl hW))

theorem goes_execCycleBoundary {W : List Part} {s0 : State} (phase : Fin 3) (volts : Nat) (chans : List ChanIn) (c : DWord) (s : State) (hW : subParts [.regs, .out, .free, .cnt, .mbx, .mkt, .que, .ldg, .mem, .nvs, .scl, .nrg, .pba] W = true) (hg : Goes W s0 s) : ∀ t0, execCycleBoundary phase volts chans c s = .next t0 → Goes W s0 t0 := by
  unfold execCycleBoundary
  intro t0 e0
  obtain rfl := Host.Outcome.next.inj e0
  clear e0
  repeat' first
    | with_reducible assumption
    | (with_reducible refine goes_cycleBoundary _ _ _ _ _ ?_ ?_; exact subT rfl hW)

theorem goes_execLineLost {W : List Part} {s0 : State} (c : DWord) (s : State) (hW : subParts [.regs, .out, .cnt, .mbx, .ldg, .scl, .pba] W = true) (hg : Goes W s0 s) : ∀ t0, execLineLost c s = .next t0 → Goes W s0 t0 := by
  unfold execLineLost
  intro t0 e0
  obtain rfl := Host.Outcome.next.inj e0
  clear e0
  repeat' first
    | with_reducible assumption
    | (intro x; refine Goes.cut (W := W) (s0 := s0) (x := x) ?_ ?_; rotate_left; clear_value x; intro hx; rotate_right)
    | intro x
    | lift_lets
    | (with_reducible refine goes_bumpSat _ _ _ ?_ ?_; exact subT rfl hW)
    | (with_reducible refine goes_irq _ _ _ ?_ ?_; exact subT rfl hW)
    | (with_reducible refine goes_at _ _ ?_ ?_; exact subT rfl hW)
    | (with_reducible refine goes_meterFault _ _ _ ?_ ?_; exact subT rfl hW)
    | (with_reducible refine Goes.ite ?_ ?_)
    | (fail_if_no_progress (with_reducible refine goes_set_scl _ _ ?_ ?_; exact subT rfl hW))

theorem goes_execVirtualBoundary {W : List Part} {s0 : State} (chans : List ChanIn) (s : State) (hW : subParts [.regs, .out, .free, .cnt, .mbx, .mkt, .que, .ldg, .mem, .nvs, .scl, .nrg, .pba] W = true) (hg : Goes W s0 s) : ∀ t0, execVirtualBoundary chans s = .next t0 → Goes W s0 t0 := by
  unfold execVirtualBoundary
  intro t0 e0
  obtain rfl := Host.Outcome.next.inj e0
  clear e0
  repeat' first
    | with_reducible assumption
    | intro x
    | lift_lets
    | (with_reducible refine goes_at _ _ ?_ ?_; exact subT rfl hW)
    | (with_reducible refine goes_boundary _ _ _ _ ?_ ?_; exact subT rfl hW)
    | (with_reducible refine Goes.ite ?_ ?_)

theorem goes_sclEnable {W : List Part} {s0 : State} (s : State) (hW : subParts [.boot, .scl] W = true) (hg : Goes W s0 s) : Goes W s0 (State.sclEnable s) := by
  unfold State.sclEnable
  repeat' first
    | with_reducible assumption
    | intro x
    | lift_lets
    | (fail_if_no_progress (apply Goes.upd [.boot, .scl]; dsimp only; exact subT rfl hW; (intro p hp; cases p <;> first | rfl | simp at hp); exact fun c => c))

theorem goes_checkReply {W : List Part} {s0 : State} (s : State) (status : Nat) (hW : subParts [.regs, .out, .mbx, .pba] W = true) (hg : Goes W s0 s) : Goes W s0 (State.checkReply s status) := by
  unfold State.checkReply
  repeat' first
    | with_reducible assumption
    | (with_reducible refine goes_reply _ _ _ _ _ ?_ ?_; exact subT rfl hW)
    | split

theorem goes_abandonCheck {W : List Part} {s0 : State} (s : State) (hW : subParts [.regs, .out, .mbx, .scl, .pba] W = true) (hg : Goes W s0 s) : Goes W s0 (State.abandonCheck s) := by
  unfold State.abandonCheck
  repeat' first
    | with_reducible assumption
    | intro x
    | lift_lets
    | (with_reducible refine goes_wb _ _ _ _ ?_ ?_; exact subT rfl hW)
    | (with_reducible refine goes_checkReply _ _ ?_ ?_; exact subT rfl hW)
    | (with_reducible refine Goes.ite ?_ ?_)
    | (fail_if_no_progress (with_reducible refine goes_set_scl _ _ ?_ ?_; exact subT rfl hW))

theorem goes_sclDisable {W : List Part} {s0 : State} (s : State) (hW : subParts [.regs, .out, .free, .mbx, .mkt, .que, .ldg, .mem, .nvs, .scl, .nrg, .pba] W = true) (hg : Goes W s0 s) : Goes W s0 (State.sclDisable s) := by
  unfold State.sclDisable
  repeat' first
    | with_reducible assumption
    | (intro x; refine Goes.cut (W := W) (s0 := s0) (x := x) ?_ ?_; rotate_left; clear_value x; intro hx; rotate_right)
    | intro x
    | lift_lets
    | (with_reducible refine goes_draw _ _ ?_ ?_; exact subT rfl hW)
    | (with_reducible refine goes_setDrained _ _ ?_ ?_; exact subT rfl hW)
    | (with_reducible refine goes_accumulate _ _ _ ?_ ?_; exact subT rfl hW)
    | (with_reducible refine goes_noteClip _ _ ?_ ?_; exact subT rfl hW)
    | (with_reducible refine goes_latch _ _ _ _ _ ?_ ?_; exact subT rfl hW)
    | (with_reducible refine goes_abandonCheck _ ?_ ?_; exact subT rfl hW)
    | (with_reducible refine Goes.ite ?_ ?_)

theorem goes_sclResume {W : List Part} {s0 : State} (s : State) (hW : subParts [.regs, .out, .mkt, .que, .scl, .pba] W = true) (hg : Goes W s0 s) : Goes W s0 (State.sclResume s) := by
  unfold State.sclResume
  repeat' first
    | with_reducible assumption
    | intro x
    | lift_lets
    | (with_reducible refine goes_hwSubmit _ _ ?_ ?_; exact subT rfl hW)
    | (refine Goes.foldl (fun _ _ _ => ?_) ?_)
    | (fail_if_no_progress (with_reducible refine goes_set_scl _ _ ?_ ?_; exact subT rfl hW))

theorem goes_sclReset {W : List Part} {s0 : State} (s : State) (hW : subParts [.regs, .out, .mbx, .mkt, .que, .scl, .pba] W = true) (hg : Goes W s0 s) : Goes W s0 (State.sclReset s) := by
  unfold State.sclReset
  repeat' first
    | with_reducible assumption
    | (intro x; refine Goes.cut (W := W) (s0 := s0) (x := x) ?_ ?_; rotate_left; clear_value x; intro hx; rotate_right)
    | lift_lets
    | (with_reducible refine goes_reply _ _ _ _ _ ?_ ?_; exact subT rfl hW)
    | (with_reducible refine goes_wareDone _ _ _ ?_ ?_; exact subT rfl hW)
    | (with_reducible refine goes_abandonCheck _ ?_ ?_; exact subT rfl hW)
    | split
    | (refine Goes.foldl (fun _ _ _ => ?_) ?_)
    | (fail_if_no_progress (with_reducible refine goes_set_scl _ _ ?_ ?_; exact subT rfl hW))
    | (dsimp +zetaDelta only)

theorem goes_coefCommit {W : List Part} {s0 : State} (s : State) (m : Master) (c : DWord) (hW : subParts [.regs, .out, .scl, .pba] W = true) (hg : Goes W s0 s) : Goes W s0 (State.coefCommit s m c) := by
  unfold State.coefCommit
  repeat' first
    | with_reducible assumption
    | intro x
    | lift_lets
    | (with_reducible refine goes_err _ _ _ _ _ ?_ ?_; exact subT rfl hW)
    | (with_reducible refine Goes.ite ?_ ?_)
    | (fail_if_no_progress (with_reducible refine goes_set_scl _ _ ?_ ?_; exact subT rfl hW))

theorem goes_sclLoad {W : List Part} {s0 : State} (s : State) (hW : subParts [.regs, .scl] W = true) (hg : Goes W s0 s) : Goes W s0 (State.sclLoad s) := by
  unfold State.sclLoad
  repeat' first
    | with_reducible assumption
    | (intro x; refine Goes.cut (W := W) (s0 := s0) (x := x) ?_ ?_; rotate_left; clear_value x; intro hx; rotate_right)
    | intro x
    | lift_lets
    | (with_reducible refine goes_wr _ _ _ ?_ ?_; exact subT rfl hW)
    | (with_reducible refine goes_wf _ _ _ _ _ ?_ ?_; exact subT rfl hW)
    | (with_reducible refine Goes.ite ?_ ?_)
    | (fail_if_no_progress (with_reducible refine goes_set_scl _ _ ?_ ?_; exact subT rfl hW))

theorem goes_execCoefCommit {W : List Part} {s0 : State} (m : Master) (c : DWord) (s : State) (hW : subParts [.regs, .out, .resp, .cnt, .scl, .host, .pba] W = true) (hg : Goes W s0 s) : ∀ t0, execCoefCommit m c s = .next t0 → Goes W s0 t0 := by
  unfold execCoefCommit
  intro t0 e0
  obtain rfl := Host.Outcome.next.inj e0
  clear e0
  repeat' first
    | with_reducible assumption
    | lift_lets
    | (with_reducible refine goes_answer _ _ ?_ ?_; exact subT rfl hW)
    | (with_reducible refine goes_at _ _ ?_ ?_; exact subT rfl hW)
    | (with_reducible refine goes_writeAt _ _ _ _ _ _ ?_ (fun _ _ => ?_) ?_; exact subT rfl hW)
    | (with_reducible refine goes_coefCommit _ _ _ ?_ ?_; exact subT rfl hW)

theorem goes_coefCancel {W : List Part} {s0 : State} (s : State) (hW : subParts [.regs, .out, .mbx, .scl, .pba] W = true) (hg : Goes W s0 s) : Goes W s0 (State.coefCancel s) := by
  unfold State.coefCancel
  repeat' first
    | with_reducible assumption
    | (intro x; refine Goes.cut (W := W) (s0 := s0) (x := x) ?_ ?_; rotate_left; clear_value x; intro hx; rotate_right)
    | intro x
    | lift_lets
    | (with_reducible refine goes_reply _ _ _ _ _ ?_ ?_; exact subT rfl hW)
    | split
    | (fail_if_no_progress (with_reducible refine goes_set_scl _ _ ?_ ?_; exact subT rfl hW))

theorem goes_execCoefCancel {W : List Part} {s0 : State} (m : Master) (s : State) (hW : subParts [.regs, .out, .resp, .mbx, .scl, .host, .pba] W = true) (hg : Goes W s0 s) : ∀ t0, execCoefCancel m s = .next t0 → Goes W s0 t0 := by
  unfold execCoefCancel
  intro t0 e0
  obtain rfl := Host.Outcome.next.inj e0
  clear e0
  repeat' first
    | with_reducible assumption
    | lift_lets
    | (with_reducible refine goes_answer _ _ ?_ ?_; exact subT rfl hW)
    | (with_reducible refine goes_writeAt _ _ _ _ _ _ ?_ (fun _ _ => ?_) ?_; exact subT rfl hW)
    | (with_reducible refine goes_coefCancel _ ?_ ?_; exact subT rfl hW)

theorem goes_execCoefLoad {W : List Part} {s0 : State} (tag : Word) (c : DWord) (s : State) (hW : subParts [.regs, .out, .cnt, .mbx, .ldg, .scl, .pba] W = true) (hg : Goes W s0 s) : ∀ t0, execCoefLoad tag c s = .next t0 → Goes W s0 t0 := by
  unfold execCoefLoad
  intro t0 e0
  obtain rfl := Host.Outcome.next.inj e0
  clear e0
  repeat' first
    | with_reducible assumption
    | (intro x; refine Goes.cut (W := W) (s0 := s0) (x := x) ?_ ?_; rotate_left; clear_value x; intro hx; rotate_right)
    | intro x
    | lift_lets
    | (with_reducible refine goes_wf _ _ _ _ _ ?_ ?_; exact subT rfl hW)
    | (with_reducible refine goes_at _ _ ?_ ?_; exact subT rfl hW)
    | (with_reducible refine goes_reply _ _ _ _ _ ?_ ?_; exact subT rfl hW)
    | (with_reducible refine goes_defer _ _ ?_ ?_; exact subT rfl hW)
    | (with_reducible refine goes_withCmd _ _ _ _ ?_ (fun _ _ _ => ?_) ?_; exact subT rfl hW)
    | (with_reducible refine Goes.ite ?_ ?_)
    | (fail_if_no_progress (with_reducible refine goes_set_scl _ _ ?_ ?_; exact subT rfl hW))

theorem goes_checkGo {W : List Part} {s0 : State} (s : State) (m : Master) (hW : subParts [.regs, .out, .scl, .pba] W = true) (hg : Goes W s0 s) : Goes W s0 (State.checkGo s m) := by
  unfold State.checkGo
  repeat' first
    | with_reducible assumption
    | intro x
    | lift_lets
    | (with_reducible refine goes_wr _ _ _ ?_ ?_; exact subT rfl hW)
    | (with_reducible refine goes_err _ _ _ _ _ ?_ ?_; exact subT rfl hW)
    | (with_reducible refine Goes.ite ?_ ?_)
    | (fail_if_no_progress (with_reducible refine goes_set_scl _ _ ?_ ?_; exact subT rfl hW))

theorem goes_execMeterCheckGo {W : List Part} {s0 : State} (m : Master) (s : State) (hW : subParts [.regs, .out, .resp, .scl, .host, .pba] W = true) (hg : Goes W s0 s) : ∀ t0, execMeterCheckGo m s = .next t0 → Goes W s0 t0 := by
  unfold execMeterCheckGo
  intro t0 e0
  obtain rfl := Host.Outcome.next.inj e0
  clear e0
  repeat' first
    | with_reducible assumption
    | lift_lets
    | (with_reducible refine goes_answer _ _ ?_ ?_; exact subT rfl hW)
    | (with_reducible refine goes_writeAt _ _ _ _ _ _ ?_ (fun _ _ => ?_) ?_; exact subT rfl hW)
    | (with_reducible refine goes_checkGo _ _ ?_ ?_; exact subT rfl hW)

theorem goes_execCheckStart {W : List Part} {s0 : State} (s : State) (hW : subParts [.scl] W = true) (hg : Goes W s0 s) : ∀ t0, execCheckStart s = .next t0 → Goes W s0 t0 := by
  unfold execCheckStart
  intro t0 e0
  obtain rfl := Host.Outcome.next.inj e0
  clear e0
  repeat' first
    | with_reducible assumption
    | intro x
    | lift_lets
    | (with_reducible refine Goes.ite ?_ ?_)
    | (fail_if_no_progress (with_reducible refine goes_set_scl _ _ ?_ ?_; exact subT rfl hW))

theorem goes_checkEnd {W : List Part} {s0 : State} (s : State) (x : CheckMeas) (hW : subParts [.regs, .out, .mbx, .ldg, .scl, .pba] W = true) (hg : Goes W s0 s) : Goes W s0 (State.checkEnd s x) := by
  unfold State.checkEnd
  repeat' first
    | with_reducible assumption
    | (intro x; refine Goes.cut (W := W) (s0 := s0) (x := x) ?_ ?_; rotate_left; clear_value x; intro hx; rotate_right)
    | intro x
    | lift_lets
    | (with_reducible refine goes_wr _ _ _ ?_ ?_; exact subT rfl hW)
    | (with_reducible refine goes_irq _ _ _ ?_ ?_; exact subT rfl hW)
    | (with_reducible refine goes_meterFault _ _ _ ?_ ?_; exact subT rfl hW)
    | (with_reducible refine goes_checkReply _ _ ?_ ?_; exact subT rfl hW)
    | (with_reducible refine Goes.ite ?_ ?_)
    | (fail_if_no_progress (with_reducible refine goes_set_scl _ _ ?_ ?_; exact subT rfl hW))

theorem goes_execCheckComplete {W : List Part} {s0 : State} (x : CheckMeas) (s : State) (hW : subParts [.regs, .out, .mbx, .ldg, .scl, .pba] W = true) (hg : Goes W s0 s) : ∀ t0, execCheckComplete x s = .next t0 → Goes W s0 t0 := by
  unfold execCheckComplete
  intro t0 e0
  obtain rfl := Host.Outcome.next.inj e0
  clear e0
  repeat' first
    | with_reducible assumption
    | lift_lets
    | (with_reducible refine goes_checkEnd _ _ ?_ ?_; exact subT rfl hW)
    | (with_reducible refine Goes.ite ?_ ?_)

theorem goes_execMeterCheck {W : List Part} {s0 : State} (tag : Word) (s : State) (hW : subParts [.regs, .out, .mbx, .ldg, .scl, .pba] W = true) (hg : Goes W s0 s) : ∀ t0, execMeterCheck tag s = .next t0 → Goes W s0 t0 := by
  unfold execMeterCheck
  intro t0 e0
  obtain rfl := Host.Outcome.next.inj e0
  clear e0
  repeat' first
    | with_reducible assumption
    | lift_lets
    | (with_reducible refine goes_wf _ _ _ _ _ ?_ ?_; exact subT rfl hW)
    | (with_reducible refine goes_reply _ _ _ _ _ ?_ ?_; exact subT rfl hW)
    | (with_reducible refine goes_defer _ _ ?_ ?_; exact subT rfl hW)
    | (with_reducible refine goes_withCmd _ _ _ _ ?_ (fun _ _ _ => ?_) ?_; exact subT rfl hW)
    | (with_reducible refine goes_checkGo _ _ ?_ ?_; exact subT rfl hW)
    | (with_reducible refine Goes.ite ?_ ?_)

theorem goes_sclWrite0 {W : List Part} {s0 : State} (s : State) (m : Master) (off : Nat) (v : Word) (hW : subParts [.regs, .out, .mbx, .scl, .pba] W = true) (hg : Goes W s0 s) : GoesO W s0 (State.sclWrite0 s m off v) := by
  unfold State.sclWrite0
  repeat' first
    | with_reducible assumption
    | (intro x; refine Goes.cut (W := W) (s0 := s0) (x := x) ?_ ?_; rotate_left; clear_value x; intro hx; rotate_right)
    | intro x
    | lift_lets
    | (with_reducible refine goes_err _ _ _ _ _ ?_ ?_; exact subT rfl hW)
    | (with_reducible refine goes_coefCommit _ _ _ ?_ ?_; exact subT rfl hW)
    | (with_reducible refine goes_coefCancel _ ?_ ?_; exact subT rfl hW)
    | (with_reducible refine goes_checkGo _ _ ?_ ?_; exact subT rfl hW)
    | (refine GoesO.some ?_)
    | exact GoesO.none
    | (with_reducible refine Goes.ite ?_ ?_)
    | (with_reducible refine GoesO.ite ?_ ?_)
    | (fail_if_no_progress (with_reducible refine goes_set_scl _ _ ?_ ?_; exact subT rfl hW))

end Sys2Proof.Machine
end

