-- ==== Sys2Proof/Laws/GoesEnergy.lean ====
section
/-! SUPPORT. What the operations of Machine/Energy.lean can change: one lemma each. -/

set_option linter.unreachableTactic false
set_option linter.unusedTactic false

namespace Sys2Proof.Machine

open Sys2Proof

theorem goes_closePhase {W : List Part} {s0 : State} (s : State) (x : Nat) (hW : subParts [.regs] W = true) (hg : Goes W s0 s) : Goes W s0 (State.closePhase s x) := by
  unfold State.closePhase
  repeat' first
    | with_reducible assumption
    | (intro x; refine Goes.cut (W := W) (s0 := s0) (x := x) ?_ ?_; rotate_left; clear_value x; intro hx; rotate_right)
    | intro x
    | lift_lets
    | (with_reducible refine goes_wr _ _ _ ?_ ?_; exact subT rfl hW)
    | (with_reducible refine goes_wb _ _ _ _ ?_ ?_; exact subT rfl hW)

theorem goes_balClose {W : List Part} {s0 : State} (s : State) (m : Master) (hW : subParts [.regs, .out, .pba] W = true) (hg : Goes W s0 s) : Goes W s0 (State.balClose s m) := by
  unfold State.balClose
  repeat' first
    | with_reducible assumption
    | lift_lets
    | (with_reducible refine goes_wf _ _ _ _ _ ?_ ?_; exact subT rfl hW)
    | (with_reducible refine goes_err _ _ _ _ _ ?_ ?_; exact subT rfl hW)
    | (with_reducible refine goes_closePhase _ _ ?_ ?_; exact subT rfl hW)
    | (with_reducible refine Goes.ite ?_ ?_)

theorem goes_fwClose {W : List Part} {s0 : State} (s : State) (hW : subParts [.regs, .out, .mbx, .ldg, .pba] W = true) (hg : Goes W s0 s) : Goes W s0 (State.fwClose s) := by
  unfold State.fwClose
  repeat' first
    | with_reducible assumption
    | (intro x; refine Goes.cut (W := W) (s0 := s0) (x := x) ?_ ?_; rotate_left; clear_value x; intro hx; rotate_right)
    | intro x
    | lift_lets
    | (with_reducible refine goes_wr _ _ _ ?_ ?_; exact subT rfl hW)
    | (with_reducible refine goes_fwEvent _ _ _ _ ?_ ?_; exact subT rfl hW)
    | (with_reducible refine goes_balClose _ _ ?_ ?_; exact subT rfl hW)
    | (with_reducible refine Goes.ite ?_ ?_)
    | (refine Goes.foldl (fun _ _ _ => ?_) ?_)

theorem goes_execBalClose {W : List Part} {s0 : State} (m : Master) (s : State) (hW : subParts [.regs, .out, .resp, .mbx, .ldg, .host, .pba] W = true) (hg : Goes W s0 s) : ∀ t0, execBalClose m s = .next t0 → Goes W s0 t0 := by
  unfold execBalClose
  intro t0 e0
  obtain rfl := Host.Outcome.next.inj e0
  clear e0
  repeat' first
    | with_reducible assumption
    | lift_lets
    | (with_reducible refine goes_answer _ _ ?_ ?_; exact subT rfl hW)
    | (with_reducible refine goes_writeAt _ _ _ _ _ _ ?_ (fun _ _ => ?_) ?_; exact subT rfl hW)
    | (with_reducible refine goes_balClose _ _ ?_ ?_; exact subT rfl hW)
    | (with_reducible refine goes_fwClose _ ?_ ?_; exact subT rfl hW)
    | split

theorem goes_execEnergyReceive {W : List Part} {s0 : State} (x : AirRx) (s : State) (hW : subParts [.nrg] W = true) (hg : Goes W s0 s) : ∀ t0, execEnergyReceive x s = .next t0 → Goes W s0 t0 := by
  unfold execEnergyReceive
  intro t0 e0
  obtain rfl := Host.Outcome.next.inj e0
  clear e0
  repeat' first
    | with_reducible assumption
    | intro x
    | lift_lets
    | (with_reducible refine Goes.ite ?_ ?_)
    | (fail_if_no_progress (with_reducible refine goes_set_nrg _ _ ?_ ?_; exact subT rfl hW))

theorem goes_takeReading {W : List Part} {s0 : State} (s : State) (b : Nat) (hW : subParts [.nrg] W = true) (hg : Goes W s0 s) : Goes W s0 (State.takeReading s b) := by
  unfold State.takeReading
  repeat' first
    | with_reducible assumption
    | intro x
    | lift_lets
    | split
    | (fail_if_no_progress (with_reducible refine goes_set_nrg _ _ ?_ ?_; exact subT rfl hW))

theorem goes_nodeBoundary {W : List Part} {s0 : State} (s : State) (old : Nat) (k : Nat) (hW : subParts [.nrg] W = true) (hg : Goes W s0 s) : Goes W s0 (State.nodeBoundary s old k) := by
  unfold State.nodeBoundary
  repeat' first
    | with_reducible assumption
    | (intro x; refine Goes.cut (W := W) (s0 := s0) (x := x) ?_ ?_; rotate_left; clear_value x; intro hx; rotate_right)
    | intro x
    | lift_lets
    | (with_reducible refine goes_takeReading _ _ ?_ ?_; exact subT rfl hW)
    | (with_reducible refine Goes.ite ?_ ?_)
    | split
    | (fail_if_no_progress (with_reducible refine goes_set_nrg _ _ ?_ ?_; exact subT rfl hW))

theorem goes_balBoundary {W : List Part} {s0 : State} (s : State) (old : Nat) (k : Nat) (hW : subParts [.regs, .nrg] W = true) (hg : Goes W s0 s) : Goes W s0 (State.balBoundary s old k) := by
  unfold State.balBoundary
  repeat' first
    | with_reducible assumption
    | (intro x; refine Goes.cut (W := W) (s0 := s0) (x := x) ?_ ?_; rotate_left; clear_value x; intro hx; rotate_right)
    | intro x
    | lift_lets
    | (with_reducible refine goes_wr _ _ _ ?_ ?_; exact subT rfl hW)
    | (with_reducible refine goes_wf _ _ _ _ _ ?_ ?_; exact subT rfl hW)
    | (with_reducible refine Goes.ite ?_ ?_)
    | split
    | (fail_if_no_progress (with_reducible refine goes_set_nrg _ _ ?_ ?_; exact subT rfl hW))

theorem goes_energyEdge {W : List Part} {s0 : State} (s : State) (old : Nat) (k : Nat) (hW : subParts [.regs, .nrg] W = true) (hg : Goes W s0 s) : Goes W s0 (State.energyEdge s old k) := by
  unfold State.energyEdge
  repeat' first
    | with_reducible assumption
    | lift_lets
    | (with_reducible refine goes_nodeBoundary _ _ _ ?_ ?_; exact subT rfl hW)
    | (with_reducible refine goes_balBoundary _ _ _ ?_ ?_; exact subT rfl hW)
    | (with_reducible refine Goes.ite ?_ ?_)

theorem goes_execEnergyReportSend {W : List Part} {s0 : State} (s : State) (hW : subParts [.regs, .out, .que, .rad, .net, .nrg, .pba] W = true) (hg : Goes W s0 s) : ∀ t0, execEnergyReportSend s = .next t0 → Goes W s0 t0 := by
  unfold execEnergyReportSend
  intro t0 e0
  obtain rfl := Host.Outcome.next.inj e0
  clear e0
  repeat' first
    | with_reducible assumption
    | intro x
    | lift_lets
    | (with_reducible refine goes_sendUp _ _ _ _ ?_ ?_; exact subT rfl hW)
    | (with_reducible refine Goes.ite ?_ ?_)
    | split
    | (fail_if_no_progress (with_reducible refine goes_set_nrg _ _ ?_ ?_; exact subT rfl hW))

theorem goes_execEnergyCfg {W : List Part} {s0 : State} (x : AirRx) (s : State) (hW : subParts [.nrg] W = true) (hg : Goes W s0 s) : ∀ t0, execEnergyCfg x s = .next t0 → Goes W s0 t0 := by
  unfold execEnergyCfg
  intro t0 e0
  obtain rfl := Host.Outcome.next.inj e0
  clear e0
  repeat' first
    | with_reducible assumption
    | intro x
    | lift_lets
    | (with_reducible refine Goes.ite ?_ ?_)
    | (fail_if_no_progress (with_reducible refine goes_set_nrg _ _ ?_ ?_; exact subT rfl hW))

theorem goes_execJournalRead {W : List Part} {s0 : State} (tag : Word) (s : State) (hW : subParts [.regs, .out, .mbx, .ldg, .pba] W = true) (hg : Goes W s0 s) : ∀ t0, execJournalRead tag s = .next t0 → Goes W s0 t0 := by
  unfold execJournalRead
  intro t0 e0
  obtain rfl := Host.Outcome.next.inj e0
  clear e0
  repeat' first
    | with_reducible assumption
    | lift_lets
    | (with_reducible refine goes_reply _ _ _ _ _ ?_ ?_; exact subT rfl hW)
    | (with_reducible refine goes_withCmd _ _ _ _ ?_ (fun _ _ _ => ?_) ?_; exact subT rfl hW)
    | (with_reducible refine Goes.ite ?_ ?_)
    | split

theorem goes_execBalSet {W : List Part} {s0 : State} (tag : Word) (s : State) (hW : subParts [.regs, .out, .mbx, .que, .ldg, .rad, .net, .nrg, .pba] W = true) (hg : Goes W s0 s) : ∀ t0, execBalSet tag s = .next t0 → Goes W s0 t0 := by
  unfold execBalSet
  intro t0 e0
  obtain rfl := Host.Outcome.next.inj e0
  clear e0
  repeat' first
    | with_reducible assumption
    | (intro x; refine Goes.cut (W := W) (s0 := s0) (x := x) ?_ ?_; rotate_left; clear_value x; intro hx; rotate_right)
    | intro x
    | lift_lets
    | (with_reducible refine goes_reply _ _ _ _ _ ?_ ?_; exact subT rfl hW)
    | (with_reducible refine goes_withCmd _ _ _ _ ?_ (fun _ _ _ => ?_) ?_; exact subT rfl hW)
    | (with_reducible refine goes_commandTo _ _ _ _ ?_ ?_; exact subT rfl hW)
    | (with_reducible refine Goes.ite ?_ ?_)
    | (refine Goes.foldl (fun _ _ _ => ?_) ?_)
    | (fail_if_no_progress (with_reducible refine goes_set_nrg _ _ ?_ ?_; exact subT rfl hW))

theorem goes_balWrite {W : List Part} {s0 : State} (s : State) (m : Master) (off : Nat) (v : Word) (hW : subParts [.regs, .out, .scl, .pba] W = true) (hg : Goes W s0 s) : GoesO W s0 (State.balWrite s m off v) := by
  unfold State.balWrite
  repeat' first
    | with_reducible assumption
    | (intro x; refine Goes.cut (W := W) (s0 := s0) (x := x) ?_ ?_; rotate_left; clear_value x; intro hx; rotate_right)
    | intro x
    | lift_lets
    | (with_reducible refine goes_err _ _ _ _ _ ?_ ?_; exact subT rfl hW)
    | (with_reducible refine goes_plainWrite _ _ _ _ _ ?_ ?_; exact subT rfl hW)
    | (with_reducible refine goes_balClose _ _ ?_ ?_; exact subT rfl hW)
    | (refine GoesO.some ?_)
    | exact GoesO.none
    | (with_reducible refine Goes.ite ?_ ?_)
    | (with_reducible refine GoesO.ite ?_ ?_)
    | (fail_if_no_progress (with_reducible refine goes_set_scl _ _ ?_ ?_; exact subT rfl hW))

end Sys2Proof.Machine
end

