-- ==== Sys2Proof/Laws/GoesRing.lean ====
section
/-! SUPPORT. What the operations of Machine/Ring.lean can change: one lemma each. -/

set_option linter.unreachableTactic false
set_option linter.unusedTactic false

namespace Sys2Proof.Machine

open Sys2Proof

theorem goes_ringOut {W : List Part} {s0 : State} (s : State) (ports : List Bool) (kind : Nat) (dpos : Nat) (pay : Bytes) (hW : subParts [.regs, .out, .ibg] W = true) (hg : Goes W s0 s) : Goes W s0 (State.ringOut s ports kind dpos pay) := by
  unfold State.ringOut
  repeat' first
    | with_reducible assumption
    | (intro x; refine Goes.cut (W := W) (s0 := s0) (x := x) ?_ ?_; rotate_left; clear_value x; intro hx; rotate_right)
    | intro x
    | lift_lets
    | (with_reducible refine goes_bumpSat _ _ _ ?_ ?_; exact subT rfl hW)
    | (with_reducible refine goes_emit _ _ ?_ ?_; exact subT rfl hW)
    | (with_reducible refine Goes.ite ?_ ?_)
    | (refine Goes.foldl (fun _ _ _ => ?_) ?_)
    | (fail_if_no_progress (with_reducible refine goes_set_ibg _ _ ?_ ?_; exact subT rfl hW))

theorem goes_ringSend {W : List Part} {s0 : State} (s : State) (kind : Nat) (dpos : Nat) (pay : Bytes) (hW : subParts [.regs, .out, .ibg] W = true) (hg : Goes W s0 s) : Goes W s0 (State.ringSend s kind dpos pay) := by
  unfold State.ringSend
  repeat' first
    | with_reducible assumption
    | (with_reducible refine goes_ringOut _ _ _ _ _ ?_ ?_; exact subT rfl hW)

theorem goes_forward {W : List Part} {s0 : State} (s : State) (east : Bool) (b : Bytes) (res : Nat) (good : Bool) (hW : subParts [.regs, .out] W = true) (hg : Goes W s0 s) : Goes W s0 (State.forward s east b res good) := by
  unfold State.forward
  repeat' first
    | with_reducible assumption
    | intro x
    | lift_lets
    | (with_reducible refine goes_bumpSat _ _ _ ?_ ?_; exact subT rfl hW)
    | (with_reducible refine goes_emit _ _ ?_ ?_; exact subT rfl hW)
    | (with_reducible refine Goes.ite ?_ ?_)

theorem goes_ringDeliver {W : List Part} {s0 : State} (s : State) (x : RingRx) (auth : Bool) (hW : subParts [.regs, .ibg] W = true) (hg : Goes W s0 s) : Goes W s0 (State.ringDeliver s x auth) := by
  unfold State.ringDeliver
  repeat' first
    | with_reducible assumption
    | (intro x; refine Goes.cut (W := W) (s0 := s0) (x := x) ?_ ?_; rotate_left; clear_value x; intro hx; rotate_right)
    | intro x
    | lift_lets
    | (with_reducible refine goes_bumpSat _ _ _ ?_ ?_; exact subT rfl hW)
    | (with_reducible refine Goes.ite ?_ ?_)
    | split
    | (fail_if_no_progress (with_reducible refine goes_set_ibg _ _ ?_ ?_; exact subT rfl hW))

theorem goes_ringRx {W : List Part} {s0 : State} (s : State) (east : Bool) (f : Bytes) (c : DWord) (res : Nat) (hW : subParts [.regs, .out, .ibg, .pba] W = true) (hg : Goes W s0 s) : Goes W s0 (State.ringRx s east f c res) := by
  unfold State.ringRx
  repeat' first
    | with_reducible assumption
    | (intro x; refine Goes.cut (W := W) (s0 := s0) (x := x) ?_ ?_; rotate_left; clear_value x; intro hx; rotate_right)
    | intro x
    | lift_lets
    | (with_reducible refine goes_bumpSat _ _ _ ?_ ?_; exact subT rfl hW)
    | (with_reducible refine goes_irq _ _ _ ?_ ?_; exact subT rfl hW)
    | (with_reducible refine goes_forward _ _ _ _ _ ?_ ?_; exact subT rfl hW)
    | (with_reducible refine goes_ringDeliver _ _ _ ?_ ?_; exact subT rfl hW)
    | (with_reducible refine Goes.ite ?_ ?_)

theorem goes_execRingFrameReceive {W : List Part} {s0 : State} (east : Bool) (frame : Bytes) (c : DWord) (res : Nat) (s : State) (hW : subParts [.regs, .out, .cnt, .ibg, .pba] W = true) (hg : Goes W s0 s) : ∀ t0, execRingFrameReceive east frame c res s = .next t0 → Goes W s0 t0 := by
  unfold execRingFrameReceive
  intro t0 e0
  obtain rfl := Host.Outcome.next.inj e0
  clear e0
  repeat' first
    | with_reducible assumption
    | lift_lets
    | (with_reducible refine goes_at _ _ ?_ ?_; exact subT rfl hW)
    | (with_reducible refine goes_ringRx _ _ _ _ _ ?_ ?_; exact subT rfl hW)

theorem goes_onRing {W : List Part} {s0 : State} (s : State) (kind : Nat) (f : RingRx → State → State)
    (hW : subParts [.ibg] W = true) (hf : ∀ x t, Goes W s0 t → Goes W s0 (f x t)) (h : Goes W s0 s) : Goes W s0 (s.onRing kind f) := by
  unfold State.onRing State.ringTake
  split
  · rename_i x t e
    refine hf _ _ ?_
    split at e
    · cases e
      exact Goes.upd (b := s) [.ibg] rfl (subT rfl hW) (by intro p hp; cases p <;> first | rfl | simp at hp) (fun c => c) h
    · cases e
  · exact h

theorem goes_execRingData {W : List Part} {s0 : State} (s : State) (hW : subParts [.ibg] W = true) (hg : Goes W s0 s) : ∀ t0, execRingData s = .next t0 → Goes W s0 t0 := by
  unfold execRingData
  intro t0 e0
  obtain rfl := Host.Outcome.next.inj e0
  clear e0
  repeat' first
    | with_reducible assumption
    | (with_reducible refine goes_onRing _ _ _ ?_ (fun _ _ _ => ?_) ?_; exact subT rfl hW)

theorem goes_execLinkUp {W : List Part} {s0 : State} (east : Bool) (s : State) (hW : subParts [.regs, .out, .ibg, .pba] W = true) (hg : Goes W s0 s) : ∀ t0, execLinkUp east s = .next t0 → Goes W s0 t0 := by
  unfold execLinkUp
  intro t0 e0
  obtain rfl := Host.Outcome.next.inj e0
  clear e0
  repeat' first
    | with_reducible assumption
    | intro x
    | lift_lets
    | (with_reducible refine goes_irq _ _ _ ?_ ?_; exact subT rfl hW)
    | (with_reducible refine Goes.ite ?_ ?_)
    | (fail_if_no_progress (with_reducible refine goes_set_ibg _ _ ?_ ?_; exact subT rfl hW))

theorem goes_execLinkDown {W : List Part} {s0 : State} (east : Bool) (s : State) (hW : subParts [.regs, .out, .ibg, .pba] W = true) (hg : Goes W s0 s) : ∀ t0, execLinkDown east s = .next t0 → Goes W s0 t0 := by
  unfold execLinkDown
  intro t0 e0
  obtain rfl := Host.Outcome.next.inj e0
  clear e0
  repeat' first
    | with_reducible assumption
    | intro x
    | lift_lets
    | (with_reducible refine goes_irq _ _ _ ?_ ?_; exact subT rfl hW)
    | (with_reducible refine Goes.ite ?_ ?_)
    | (fail_if_no_progress (with_reducible refine goes_set_ibg _ _ ?_ ?_; exact subT rfl hW))

theorem goes_execDiscoverSend {W : List Part} {s0 : State} (s : State) (hW : subParts [.regs, .out, .ibg] W = true) (hg : Goes W s0 s) : ∀ t0, execDiscoverSend s = .next t0 → Goes W s0 t0 := by
  unfold execDiscoverSend
  intro t0 e0
  obtain rfl := Host.Outcome.next.inj e0
  clear e0
  repeat' first
    | with_reducible assumption
    | (with_reducible refine goes_ringOut _ _ _ _ _ ?_ ?_; exact subT rfl hW)

theorem goes_setMap {W : List Part} {s0 : State} (s : State) (m : List (Option DWord)) (holder : Nat) (hW : subParts [.regs, .out, .mbx, .ldg, .ibg, .pba] W = true) (hg : Goes W s0 s) : Goes W s0 (State.setMap s m holder) := by
  unfold State.setMap
  repeat' first
    | with_reducible assumption
    | (intro x; refine Goes.cut (W := W) (s0 := s0) (x := x) ?_ ?_; rotate_left; clear_value x; intro hx; rotate_right)
    | intro x
    | lift_lets
    | (with_reducible refine goes_irq _ _ _ ?_ ?_; exact subT rfl hW)
    | (with_reducible refine goes_fwEvent _ _ _ _ ?_ ?_; exact subT rfl hW)
    | (with_reducible refine Goes.ite ?_ ?_)
    | (fail_if_no_progress (with_reducible refine goes_set_ibg _ _ ?_ ?_; exact subT rfl hW))

theorem goes_discovered {W : List Part} {s0 : State} (s : State) (x : RingRx) (hW : subParts [.regs, .out, .mbx, .ldg, .ibg, .pba] W = true) (hg : Goes W s0 s) : Goes W s0 (State.discovered s x) := by
  unfold State.discovered
  repeat' first
    | with_reducible assumption
    | (intro x; refine Goes.cut (W := W) (s0 := s0) (x := x) ?_ ?_; rotate_left; clear_value x; intro hx; rotate_right)
    | intro x
    | lift_lets
    | (with_reducible refine goes_setMap _ _ _ ?_ ?_; exact subT rfl hW)
    | (with_reducible refine Goes.ite ?_ ?_)
    | split
    | (fail_if_no_progress (with_reducible refine goes_set_ibg _ _ ?_ ?_; exact subT rfl hW))

theorem goes_execDiscover {W : List Part} {s0 : State} (s : State) (hW : subParts [.regs, .out, .mbx, .ldg, .ibg, .pba] W = true) (hg : Goes W s0 s) : ∀ t0, execDiscover s = .next t0 → Goes W s0 t0 := by
  unfold execDiscover
  intro t0 e0
  obtain rfl := Host.Outcome.next.inj e0
  clear e0
  repeat' first
    | with_reducible assumption
    | lift_lets
    | (with_reducible refine goes_onRing _ _ _ ?_ (fun _ _ _ => ?_) ?_; exact subT rfl hW)
    | (with_reducible refine goes_discovered _ _ ?_ ?_; exact subT rfl hW)

theorem goes_forgetPos {W : List Part} {s0 : State} (s : State) (p : Nat) (hW : subParts [.regs, .out, .mbx, .ldg, .ibg, .pba] W = true) (hg : Goes W s0 s) : Goes W s0 (State.forgetPos s p).1 := by
  unfold State.forgetPos
  repeat' first
    | with_reducible assumption
    | lift_lets
    | (with_reducible refine goes_setMap _ _ _ ?_ ?_; exact subT rfl hW)
    | (with_reducible refine Goes.iteFst ?_ ?_)
    | split

theorem goes_forgetPos' {W : List Part} {s0 : State} (s : State) (p : Nat) {u0 : State} {v0 : Bool} (e : State.forgetPos s p = (u0, v0)) (hW : subParts [.regs, .out, .mbx, .ldg, .ibg, .pba] W = true) (hg : Goes W s0 s) : Goes W s0 u0 := by
  have := goes_forgetPos s p hW hg
  rw [e] at this
  exact this

theorem goes_mapForget {W : List Part} {s0 : State} (s : State) (m : Master) (v : Word) (hW : subParts [.regs, .out, .mbx, .ldg, .ibg, .pba] W = true) (hg : Goes W s0 s) : Goes W s0 (State.mapForget s m v) := by
  unfold State.mapForget
  repeat' first
    | with_reducible assumption
    | lift_lets
    | (with_reducible refine goes_err _ _ _ _ _ ?_ ?_; exact subT rfl hW)
    | (with_reducible refine goes_forgetPos' _ _ (by assumption) ?_ ?_; exact subT rfl hW)
    | (with_reducible refine Goes.ite ?_ ?_)
    | split

theorem goes_execMapForget {W : List Part} {s0 : State} (m : Master) (v : Word) (s : State) (hW : subParts [.regs, .out, .resp, .mbx, .ldg, .ibg, .host, .pba] W = true) (hg : Goes W s0 s) : ∀ t0, execMapForget m v s = .next t0 → Goes W s0 t0 := by
  unfold execMapForget
  intro t0 e0
  obtain rfl := Host.Outcome.next.inj e0
  clear e0
  repeat' first
    | with_reducible assumption
    | lift_lets
    | (with_reducible refine goes_answer _ _ ?_ ?_; exact subT rfl hW)
    | (with_reducible refine goes_writeAt _ _ _ _ _ _ ?_ (fun _ _ => ?_) ?_; exact subT rfl hW)
    | (with_reducible refine goes_mapForget _ _ _ ?_ ?_; exact subT rfl hW)

theorem goes_execRingForget {W : List Part} {s0 : State} (tag : Word) (s : State) (hW : subParts [.regs, .out, .mbx, .ldg, .ibg, .pba] W = true) (hg : Goes W s0 s) : ∀ t0, execRingForget tag s = .next t0 → Goes W s0 t0 := by
  unfold execRingForget
  intro t0 e0
  obtain rfl := Host.Outcome.next.inj e0
  clear e0
  repeat' first
    | with_reducible assumption
    | lift_lets
    | (with_reducible refine goes_reply _ _ _ _ _ ?_ ?_; exact subT rfl hW)
    | (with_reducible refine goes_withCmd _ _ _ _ ?_ (fun _ _ _ => ?_) ?_; exact subT rfl hW)
    | (with_reducible refine goes_forgetPos' _ _ (by assumption) ?_ ?_; exact subT rfl hW)
    | (with_reducible refine Goes.ite ?_ ?_)
    | split

theorem goes_execRingStatus {W : List Part} {s0 : State} (tag : Word) (s : State) (hW : subParts [.regs, .out, .mbx, .ldg, .pba] W = true) (hg : Goes W s0 s) : ∀ t0, execRingStatus tag s = .next t0 → Goes W s0 t0 := by
  unfold execRingStatus
  intro t0 e0
  obtain rfl := Host.Outcome.next.inj e0
  clear e0
  repeat' first
    | with_reducible assumption
    | lift_lets
    | (with_reducible refine goes_reply _ _ _ _ _ ?_ ?_; exact subT rfl hW)
    | (with_reducible refine goes_withCmd _ _ _ _ ?_ (fun _ _ _ => ?_) ?_; exact subT rfl hW)

theorem goes_rrstSend {W : List Part} {s0 : State} (s : State) (p : Nat) (hW : subParts [.regs, .out, .ibg] W = true) (hg : Goes W s0 s) : Goes W s0 (State.rrstSend s p) := by
  unfold State.rrstSend
  repeat' first
    | with_reducible assumption
    | (with_reducible refine goes_ringSend _ _ _ _ ?_ ?_; exact subT rfl hW)

theorem goes_rrstCtrl {W : List Part} {s0 : State} (s : State) (m : Master) (v : Word) (hW : subParts [.regs, .out, .ibg, .pba] W = true) (hg : Goes W s0 s) : Goes W s0 (State.rrstCtrl s m v) := by
  unfold State.rrstCtrl
  repeat' first
    | with_reducible assumption
    | lift_lets
    | (with_reducible refine goes_err _ _ _ _ _ ?_ ?_; exact subT rfl hW)
    | (with_reducible refine goes_rrstSend _ _ ?_ ?_; exact subT rfl hW)
    | (with_reducible refine Goes.ite ?_ ?_)
    | split

theorem goes_execRrstCtrlWrite {W : List Part} {s0 : State} (m : Master) (v : Word) (s : State) (hW : subParts [.regs, .out, .resp, .ibg, .host, .pba] W = true) (hg : Goes W s0 s) : ∀ t0, execRrstCtrlWrite m v s = .next t0 → Goes W s0 t0 := by
  unfold execRrstCtrlWrite
  intro t0 e0
  obtain rfl := Host.Outcome.next.inj e0
  clear e0
  repeat' first
    | with_reducible assumption
    | lift_lets
    | (with_reducible refine goes_answer _ _ ?_ ?_; exact subT rfl hW)
    | (with_reducible refine goes_writeAt _ _ _ _ _ _ ?_ (fun _ _ => ?_) ?_; exact subT rfl hW)
    | (with_reducible refine goes_rrstCtrl _ _ _ ?_ ?_; exact subT rfl hW)

theorem goes_execRingReset {W : List Part} {s0 : State} (tag : Word) (s : State) (hW : subParts [.regs, .out, .mbx, .ldg, .ibg, .pba] W = true) (hg : Goes W s0 s) : ∀ t0, execRingReset tag s = .next t0 → Goes W s0 t0 := by
  unfold execRingReset
  intro t0 e0
  obtain rfl := Host.Outcome.next.inj e0
  clear e0
  repeat' first
    | with_reducible assumption
    | lift_lets
    | (with_reducible refine goes_reply _ _ _ _ _ ?_ ?_; exact subT rfl hW)
    | (with_reducible refine goes_withCmd _ _ _ _ ?_ (fun _ _ _ => ?_) ?_; exact subT rfl hW)
    | (with_reducible refine goes_rrstSend _ _ ?_ ?_; exact subT rfl hW)
    | (with_reducible refine Goes.ite ?_ ?_)
    | split

theorem goes_execRingDelayMeasure {W : List Part} {s0 : State} (c : DWord) (s : State) (hW : subParts [.regs, .out, .cnt, .ibg] W = true) (hg : Goes W s0 s) : ∀ t0, execRingDelayMeasure c s = .next t0 → Goes W s0 t0 := by
  unfold execRingDelayMeasure
  intro t0 e0
  obtain rfl := Host.Outcome.next.inj e0
  clear e0
  repeat' first
    | with_reducible assumption
    | (intro x; refine Goes.cut (W := W) (s0 := s0) (x := x) ?_ ?_; rotate_left; clear_value x; intro hx; rotate_right)
    | intro x
    | lift_lets
    | (with_reducible refine goes_at _ _ ?_ ?_; exact subT rfl hW)
    | (with_reducible refine goes_ringOut _ _ _ _ _ ?_ ?_; exact subT rfl hW)
    | (with_reducible refine Goes.ite ?_ ?_)
    | (fail_if_no_progress (with_reducible refine goes_set_ibg _ _ ?_ ?_; exact subT rfl hW))

theorem goes_execDlyReq {W : List Part} {s0 : State} (c : DWord) (s : State) (hW : subParts [.regs, .out, .cnt, .ibg] W = true) (hg : Goes W s0 s) : ∀ t0, execDlyReq c s = .next t0 → Goes W s0 t0 := by
  unfold execDlyReq
  intro t0 e0
  obtain rfl := Host.Outcome.next.inj e0
  clear e0
  repeat' first
    | with_reducible assumption
    | (intro x; refine Goes.cut (W := W) (s0 := s0) (x := x) ?_ ?_; rotate_left; clear_value x; intro hx; rotate_right)
    | lift_lets
    | (with_reducible refine goes_at _ _ ?_ ?_; exact subT rfl hW)
    | (with_reducible refine goes_ringOut _ _ _ _ _ ?_ ?_; exact subT rfl hW)
    | (with_reducible refine goes_onRing _ _ _ ?_ (fun _ _ _ => ?_) ?_; exact subT rfl hW)

theorem goes_execDlyResp {W : List Part} {s0 : State} (s : State) (hW : subParts [.ibg] W = true) (hg : Goes W s0 s) : ∀ t0, execDlyResp s = .next t0 → Goes W s0 t0 := by
  unfold execDlyResp
  intro t0 e0
  obtain rfl := Host.Outcome.next.inj e0
  clear e0
  repeat' first
    | with_reducible assumption
    | intro x
    | lift_lets
    | (with_reducible refine goes_onRing _ _ _ ?_ (fun _ _ _ => ?_) ?_; exact subT rfl hW)
    | (with_reducible refine Goes.ite ?_ ?_)
    | split
    | (fail_if_no_progress (with_reducible refine goes_set_ibg _ _ ?_ ?_; exact subT rfl hW))

theorem goes_srcByRole {W : List Part} {s0 : State} (s : State) (hW : subParts [.regs] W = true) (hg : Goes W s0 s) : Goes W s0 (State.srcByRole s) := by
  unfold State.srcByRole
  repeat' first
    | with_reducible assumption
    | intro x
    | lift_lets
    | (with_reducible refine goes_wf _ _ _ _ _ ?_ ?_; exact subT rfl hW)

theorem goes_setMaster {W : List Part} {s0 : State} (s : State) (m : Option Nat) (hW : subParts [.regs, .out, .mbx, .ldg, .ibg, .pba] W = true) (hg : Goes W s0 s) : Goes W s0 (State.setMaster s m) := by
  unfold State.setMaster
  repeat' first
    | with_reducible assumption
    | (intro x; refine Goes.cut (W := W) (s0 := s0) (x := x) ?_ ?_; rotate_left; clear_value x; intro hx; rotate_right)
    | intro x
    | lift_lets
    | (with_reducible refine goes_irq _ _ _ ?_ ?_; exact subT rfl hW)
    | (with_reducible refine goes_fwEvent _ _ _ _ ?_ ?_; exact subT rfl hW)
    | (with_reducible refine goes_srcByRole _ ?_ ?_; exact subT rfl hW)
    | (with_reducible refine Goes.ite ?_ ?_)
    | (fail_if_no_progress (with_reducible refine goes_set_ibg _ _ ?_ ?_; exact subT rfl hW))

theorem goes_chooseMaster {W : List Part} {s0 : State} (s : State) (hW : subParts [.regs, .out, .mbx, .ldg, .ibg, .pba] W = true) (hg : Goes W s0 s) : Goes W s0 (State.chooseMaster s) := by
  unfold State.chooseMaster
  repeat' first
    | with_reducible assumption
    | lift_lets
    | (with_reducible refine goes_setMaster _ _ ?_ ?_; exact subT rfl hW)
    | (with_reducible refine Goes.ite ?_ ?_)

theorem goes_execSyncSend {W : List Part} {s0 : State} (c : DWord) (s : State) (hW : subParts [.regs, .out, .cnt, .ibg] W = true) (hg : Goes W s0 s) : ∀ t0, execSyncSend c s = .next t0 → Goes W s0 t0 := by
  unfold execSyncSend
  intro t0 e0
  obtain rfl := Host.Outcome.next.inj e0
  clear e0
  repeat' first
    | with_reducible assumption
    | (intro x; refine Goes.cut (W := W) (s0 := s0) (x := x) ?_ ?_; rotate_left; clear_value x; intro hx; rotate_right)
    | lift_lets
    | (with_reducible refine goes_at _ _ ?_ ?_; exact subT rfl hW)
    | (with_reducible refine goes_ringSend _ _ _ _ ?_ ?_; exact subT rfl hW)
    | (with_reducible refine Goes.ite ?_ ?_)

theorem goes_execSync {W : List Part} {s0 : State} (s : State) (hW : subParts [.regs, .out, .free, .mbx, .ldg, .ntm, .ibg, .pba] W = true) (hg : Goes W s0 s) : ∀ t0, execSync s = .next t0 → Goes W s0 t0 := by
  unfold execSync
  intro t0 e0
  obtain rfl := Host.Outcome.next.inj e0
  clear e0
  repeat' first
    | with_reducible assumption
    | (intro x; refine Goes.cut (W := W) (s0 := s0) (x := x) ?_ ?_; rotate_left; clear_value x; intro hx; rotate_right)
    | intro x
    | lift_lets
    | (with_reducible refine goes_draw _ _ ?_ ?_; exact subT rfl hW)
    | (with_reducible refine goes_measure _ _ _ ?_ ?_; exact subT rfl hW)
    | (with_reducible refine goes_setBase _ _ ?_ ?_; exact subT rfl hW)
    | (with_reducible refine goes_onRing _ _ _ ?_ (fun _ _ _ => ?_) ?_; exact subT rfl hW)
    | (with_reducible refine Goes.ite ?_ ?_)
    | split
    | (fail_if_no_progress (with_reducible refine goes_set_ibg _ _ ?_ ?_; exact subT rfl hW))

theorem goes_masterLost {W : List Part} {s0 : State} (s : State) (c : DWord) (hW : subParts [.regs, .out, .cnt, .mbx, .ldg, .ntm, .ibg, .pba] W = true) (hg : Goes W s0 s) : Goes W s0 (State.masterLost s c) := by
  unfold State.masterLost
  repeat' first
    | with_reducible assumption
    | (intro x; refine Goes.cut (W := W) (s0 := s0) (x := x) ?_ ?_; rotate_left; clear_value x; intro hx; rotate_right)
    | intro x
    | lift_lets
    | (with_reducible refine goes_loseSource _ _ _ ?_ ?_; exact subT rfl hW)
    | (with_reducible refine goes_setMaster _ _ ?_ ?_; exact subT rfl hW)
    | (with_reducible refine goes_chooseMaster _ ?_ ?_; exact subT rfl hW)
    | (with_reducible refine Goes.ite ?_ ?_)
    | (fail_if_no_progress (with_reducible refine goes_set_ibg _ _ ?_ ?_; exact subT rfl hW))

theorem goes_execMasterLost {W : List Part} {s0 : State} (c : DWord) (s : State) (hW : subParts [.regs, .out, .cnt, .mbx, .ldg, .ntm, .ibg, .pba] W = true) (hg : Goes W s0 s) : ∀ t0, execMasterLost c s = .next t0 → Goes W s0 t0 := by
  unfold execMasterLost
  intro t0 e0
  obtain rfl := Host.Outcome.next.inj e0
  clear e0
  repeat' first
    | with_reducible assumption
    | lift_lets
    | (with_reducible refine goes_at _ _ ?_ ?_; exact subT rfl hW)
    | (with_reducible refine goes_masterLost _ _ ?_ ?_; exact subT rfl hW)
    | (with_reducible refine Goes.ite ?_ ?_)

theorem goes_ringEdge {W : List Part} {s0 : State} (s : State) (hW : subParts [.regs, .out, .mbx, .ldg, .ibg, .pba] W = true) (hg : Goes W s0 s) : Goes W s0 (State.ringEdge s) := by
  unfold State.ringEdge
  repeat' first
    | with_reducible assumption
    | intro x
    | lift_lets
    | (with_reducible refine goes_irq _ _ _ ?_ ?_; exact subT rfl hW)
    | (with_reducible refine goes_fwEvent _ _ _ _ ?_ ?_; exact subT rfl hW)
    | (with_reducible refine goes_chooseMaster _ ?_ ?_; exact subT rfl hW)
    | (with_reducible refine Goes.ite ?_ ?_)
    | (fail_if_no_progress (with_reducible refine goes_set_ibg _ _ ?_ ?_; exact subT rfl hW))

theorem goes_ibgWrite {W : List Part} {s0 : State} (s : State) (m : Master) (off : Nat) (v : Word) (hW : subParts [.regs, .out, .mbx, .ldg, .ibg, .pba] W = true) (hg : Goes W s0 s) : GoesO W s0 (State.ibgWrite s m off v) := by
  unfold State.ibgWrite
  repeat' first
    | with_reducible assumption
    | lift_lets
    | (with_reducible refine goes_mapForget _ _ _ ?_ ?_; exact subT rfl hW)
    | (with_reducible refine goes_rrstCtrl _ _ _ ?_ ?_; exact subT rfl hW)
    | (refine GoesO.some ?_)
    | exact GoesO.none
    | (with_reducible refine GoesO.ite ?_ ?_)

theorem goes_ibgReset {W : List Part} {s0 : State} (s : State) (hW : subParts [.ibg] W = true) (hg : Goes W s0 s) : Goes W s0 (State.ibgReset s) := by
  unfold State.ibgReset
  repeat' first
    | with_reducible assumption
    | intro x
    | lift_lets
    | (fail_if_no_progress (with_reducible refine goes_set_ibg _ _ ?_ ?_; exact subT rfl hW))

end Sys2Proof.Machine
end

