-- ==== Sys2Proof/Laws/GoesFailover.lean ====
section
/-! SUPPORT. What the operations of Machine/Failover.lean can change: one lemma each. -/

set_option linter.unreachableTactic false
set_option linter.unusedTactic false

namespace Sys2Proof.Machine

open Sys2Proof

theorem goes_execHeartbeatSend {W : List Part} {s0 : State} (s : State) (hW : subParts [.regs, .out, .ibg] W = true) (hg : Goes W s0 s) : ∀ t0, execHeartbeatSend s = .next t0 → Goes W s0 t0 := by
  unfold execHeartbeatSend
  intro t0 e0
  obtain rfl := Host.Outcome.next.inj e0
  clear e0
  repeat' first
    | with_reducible assumption
    | lift_lets
    | (with_reducible refine goes_ringSend _ _ _ _ ?_ ?_; exact subT rfl hW)
    | (with_reducible refine Goes.ite ?_ ?_)

theorem goes_beatHeard {W : List Part} {s0 : State} (s : State) (x : RingRx) (pos : Nat) (hW : subParts [.fov] W = true) (hg : Goes W s0 s) : Goes W s0 (State.beatHeard s x pos) := by
  unfold State.beatHeard
  repeat' first
    | with_reducible assumption
    | intro x
    | lift_lets
    | (with_reducible refine Goes.ite ?_ ?_)
    | (fail_if_no_progress (with_reducible refine goes_set_fov _ _ ?_ ?_; exact subT rfl hW))

theorem goes_execHeartbeat {W : List Part} {s0 : State} (s : State) (hW : subParts [.ibg, .fov] W = true) (hg : Goes W s0 s) : ∀ t0, execHeartbeat s = .next t0 → Goes W s0 t0 := by
  unfold execHeartbeat
  intro t0 e0
  obtain rfl := Host.Outcome.next.inj e0
  clear e0
  repeat' first
    | with_reducible assumption
    | (intro x; refine Goes.cut (W := W) (s0 := s0) (x := x) ?_ ?_; rotate_left; clear_value x; intro hx; rotate_right)
    | intro x
    | lift_lets
    | (with_reducible refine goes_onRing _ _ _ ?_ (fun _ _ _ => ?_) ?_; exact subT rfl hW)
    | (with_reducible refine goes_beatHeard _ _ _ ?_ ?_; exact subT rfl hW)
    | (with_reducible refine Goes.ite ?_ ?_)
    | (fail_if_no_progress (with_reducible refine goes_set_ibg _ _ ?_ ?_; exact subT rfl hW))

theorem goes_execPathLost {W : List Part} {s0 : State} (s : State) (hW : subParts [.regs, .out, .ldg, .fov, .pba] W = true) (hg : Goes W s0 s) : ∀ t0, execPathLost s = .next t0 → Goes W s0 t0 := by
  unfold execPathLost
  intro t0 e0
  obtain rfl := Host.Outcome.next.inj e0
  clear e0
  repeat' first
    | with_reducible assumption
    | intro x
    | lift_lets
    | (with_reducible refine goes_irq _ _ _ ?_ ?_; exact subT rfl hW)
    | (with_reducible refine goes_ledger _ _ _ _ _ _ _ ?_ ?_; exact subT rfl hW)
    | (with_reducible refine Goes.ite ?_ ?_)
    | (fail_if_no_progress (with_reducible refine goes_set_fov _ _ ?_ ?_; exact subT rfl hW))

theorem goes_rearm {W : List Part} {s0 : State} (s : State) (hW : subParts [.regs, .out, .mbx, .ldg, .fov, .pba] W = true) (hg : Goes W s0 s) : Goes W s0 (State.rearm s) := by
  unfold State.rearm
  repeat' first
    | with_reducible assumption
    | (intro x; refine Goes.cut (W := W) (s0 := s0) (x := x) ?_ ?_; rotate_left; clear_value x; intro hx; rotate_right)
    | intro x
    | lift_lets
    | (with_reducible refine goes_fwEvent _ _ _ _ ?_ ?_; exact subT rfl hW)
    | (with_reducible refine Goes.ite ?_ ?_)
    | (fail_if_no_progress (with_reducible refine goes_set_fov _ _ ?_ ?_; exact subT rfl hW))

theorem goes_watch {W : List Part} {s0 : State} (s : State) (hbIn : Bool) (hW : subParts [.regs, .out, .mbx, .ldg, .fov, .pba] W = true) (hg : Goes W s0 s) : Goes W s0 (State.watch s hbIn) := by
  unfold State.watch
  repeat' first
    | with_reducible assumption
    | (intro x; refine Goes.cut (W := W) (s0 := s0) (x := x) ?_ ?_; rotate_left; clear_value x; intro hx; rotate_right)
    | intro x
    | lift_lets
    | (with_reducible refine goes_bumpSat _ _ _ ?_ ?_; exact subT rfl hW)
    | (with_reducible refine goes_rearm _ ?_ ?_; exact subT rfl hW)
    | (with_reducible refine Goes.ite ?_ ?_)
    | (fail_if_no_progress (with_reducible refine goes_set_fov _ _ ?_ ?_; exact subT rfl hW))

theorem goes_decideP {W : List Part} {s0 : State} (s : State) (hW : subParts [.regs, .out, .free, .fov, .pba] W = true) (hg : Goes W s0 s) : Goes W s0 (State.decide' s) := by
  unfold State.decide'
  repeat' first
    | with_reducible assumption
    | intro x
    | lift_lets
    | (with_reducible refine goes_draw _ _ ?_ ?_; exact subT rfl hW)
    | (with_reducible refine goes_irq _ _ _ ?_ ?_; exact subT rfl hW)
    | (fail_if_no_progress (with_reducible refine goes_set_fov _ _ ?_ ?_; exact subT rfl hW))

theorem goes_takeoverDecision {W : List Part} {s0 : State} (s : State) (hW : subParts [.regs, .out, .free, .mbx, .ldg, .fov, .pba] W = true) (hg : Goes W s0 s) : Goes W s0 (State.takeoverDecision s) := by
  unfold State.takeoverDecision
  repeat' first
    | with_reducible assumption
    | intro x
    | lift_lets
    | (with_reducible refine goes_irq _ _ _ ?_ ?_; exact subT rfl hW)
    | (with_reducible refine goes_ledger _ _ _ _ _ _ _ ?_ ?_; exact subT rfl hW)
    | (with_reducible refine goes_fwEvent _ _ _ _ ?_ ?_; exact subT rfl hW)
    | (with_reducible refine goes_decideP _ ?_ ?_; exact subT rfl hW)
    | (with_reducible refine Goes.ite ?_ ?_)
    | split
    | (fail_if_no_progress (with_reducible refine goes_set_fov _ _ ?_ ?_; exact subT rfl hW))

theorem goes_execTakeoverDecision {W : List Part} {s0 : State} (s : State) (hW : subParts [.regs, .out, .free, .mbx, .ldg, .fov, .pba] W = true) (hg : Goes W s0 s) : ∀ t0, execTakeoverDecision s = .next t0 → Goes W s0 t0 := by
  unfold execTakeoverDecision
  intro t0 e0
  obtain rfl := Host.Outcome.next.inj e0
  clear e0
  repeat' first
    | with_reducible assumption
    | (with_reducible refine goes_takeoverDecision _ ?_ ?_; exact subT rfl hW)

theorem goes_capture {W : List Part} {s0 : State} (s : State) (q : Nat × Nat × Nat) (hW : subParts [.regs, .fov] W = true) (hg : Goes W s0 s) : Goes W s0 (State.capture s q) := by
  unfold State.capture
  repeat' first
    | with_reducible assumption
    | (intro x; refine Goes.cut (W := W) (s0 := s0) (x := x) ?_ ?_; rotate_left; clear_value x; intro hx; rotate_right)
    | intro x
    | lift_lets
    | (with_reducible refine goes_bumpSat _ _ _ ?_ ?_; exact subT rfl hW)
    | (with_reducible refine Goes.ite ?_ ?_)
    | split
    | (fail_if_no_progress (with_reducible refine goes_set_fov _ _ ?_ ?_; exact subT rfl hW))

theorem goes_ckSend {W : List Part} {s0 : State} (s : State) (hW : subParts [.regs, .out, .ibg, .fov] W = true) (hg : Goes W s0 s) : Goes W s0 (State.ckSend s) := by
  unfold State.ckSend
  repeat' first
    | with_reducible assumption
    | (intro x; refine Goes.cut (W := W) (s0 := s0) (x := x) ?_ ?_; rotate_left; clear_value x; intro hx; rotate_right)
    | intro x
    | lift_lets
    | (with_reducible refine goes_ringSend _ _ _ _ ?_ ?_; exact subT rfl hW)
    | (with_reducible refine Goes.ite ?_ ?_)
    | split
    | (refine Goes.foldl (fun _ _ _ => ?_) ?_)
    | (fail_if_no_progress (with_reducible refine goes_set_fov _ _ ?_ ?_; exact subT rfl hW))

theorem goes_execCheckpointCapture {W : List Part} {s0 : State} (s : State) (hW : subParts [.regs, .fov] W = true) (hg : Goes W s0 s) : ∀ t0, execCheckpointCapture s = .next t0 → Goes W s0 t0 := by
  unfold execCheckpointCapture
  intro t0 e0
  obtain rfl := Host.Outcome.next.inj e0
  clear e0
  repeat' first
    | with_reducible assumption
    | lift_lets
    | (with_reducible refine goes_capture _ _ ?_ ?_; exact subT rfl hW)
    | (with_reducible refine Goes.ite ?_ ?_)
    | split

theorem goes_execCkptAck {W : List Part} {s0 : State} (s : State) (hW : subParts [.regs, .ibg, .fov] W = true) (hg : Goes W s0 s) : ∀ t0, execCkptAck s = .next t0 → Goes W s0 t0 := by
  unfold execCkptAck
  intro t0 e0
  obtain rfl := Host.Outcome.next.inj e0
  clear e0
  repeat' first
    | with_reducible assumption
    | intro x
    | lift_lets
    | (with_reducible refine goes_bumpSat _ _ _ ?_ ?_; exact subT rfl hW)
    | (with_reducible refine goes_onRing _ _ _ ?_ (fun _ _ _ => ?_) ?_; exact subT rfl hW)
    | (with_reducible refine Goes.ite ?_ ?_)
    | split
    | (fail_if_no_progress (with_reducible refine goes_set_fov _ _ ?_ ?_; exact subT rfl hW))

theorem goes_execCheckpointAbandon {W : List Part} {s0 : State} (s : State) (hW : subParts [.regs, .fov] W = true) (hg : Goes W s0 s) : ∀ t0, execCheckpointAbandon s = .next t0 → Goes W s0 t0 := by
  unfold execCheckpointAbandon
  intro t0 e0
  obtain rfl := Host.Outcome.next.inj e0
  clear e0
  repeat' first
    | with_reducible assumption
    | (intro x; refine Goes.cut (W := W) (s0 := s0) (x := x) ?_ ?_; rotate_left; clear_value x; intro hx; rotate_right)
    | intro x
    | lift_lets
    | (with_reducible refine goes_bumpSat _ _ _ ?_ ?_; exact subT rfl hW)
    | (with_reducible refine Goes.ite ?_ ?_)
    | split
    | (fail_if_no_progress (with_reducible refine goes_set_fov _ _ ?_ ?_; exact subT rfl hW))
    | (dsimp +zetaDelta only)

theorem goes_ckApplied {W : List Part} {s0 : State} (s : State) (half : Bool) (hW : subParts [.regs, .out, .mbx, .ldg, .fov, .pba] W = true) (hg : Goes W s0 s) : Goes W s0 (State.ckApplied s half) := by
  unfold State.ckApplied
  repeat' first
    | with_reducible assumption
    | (intro x; refine Goes.cut (W := W) (s0 := s0) (x := x) ?_ ?_; rotate_left; clear_value x; intro hx; rotate_right)
    | intro x
    | lift_lets
    | (with_reducible refine goes_wb _ _ _ _ ?_ ?_; exact subT rfl hW)
    | (with_reducible refine goes_bumpSat _ _ _ ?_ ?_; exact subT rfl hW)
    | (with_reducible refine goes_irq _ _ _ ?_ ?_; exact subT rfl hW)
    | (with_reducible refine goes_rearm _ ?_ ?_; exact subT rfl hW)
    | (with_reducible refine Goes.ite ?_ ?_)
    | (fail_if_no_progress (with_reducible refine goes_set_fov _ _ ?_ ?_; exact subT rfl hW))

theorem goes_applyFull {W : List Part} {s0 : State} (s : State) (img : Bytes) (hW : subParts [.regs, .out, .mbx, .ldg, .nvs, .fov, .pba] W = true) (hg : Goes W s0 s) : Goes W s0 (State.applyFull s img).1 := by
  unfold State.applyFull
  repeat' first
    | with_reducible assumption
    | intro x
    | lift_lets
    | (with_reducible refine goes_nvsWrite _ _ _ _ ?_ ?_; exact subT rfl hW)
    | (with_reducible refine goes_ckApplied _ _ ?_ ?_; exact subT rfl hW)
    | (with_reducible refine Goes.iteFst ?_ ?_)

theorem goes_applyFull' {W : List Part} {s0 : State} (s : State) (img : Bytes) {u0 : State} {v0 : Bool} (e : State.applyFull s img = (u0, v0)) (hW : subParts [.regs, .out, .mbx, .ldg, .nvs, .fov, .pba] W = true) (hg : Goes W s0 s) : Goes W s0 u0 := by
  have := goes_applyFull s img hW hg
  rw [e] at this
  exact this

theorem goes_applyIncr {W : List Part} {s0 : State} (s : State) (a : CkAsm) (hW : subParts [.regs, .out, .mbx, .ldg, .nvs, .fov, .pba] W = true) (hg : Goes W s0 s) : Goes W s0 (State.applyIncr s a).1 := by
  unfold State.applyIncr
  repeat' first
    | with_reducible assumption
    | intro x
    | lift_lets
    | (with_reducible refine goes_nvsWrite _ _ _ _ ?_ ?_; exact subT rfl hW)
    | (with_reducible refine goes_ckApplied _ _ ?_ ?_; exact subT rfl hW)
    | (with_reducible refine Goes.iteFst ?_ ?_)
    | split
    | (refine Goes.foldl (fun _ _ _ => ?_) ?_)
    | dsimp only

theorem goes_applyIncr' {W : List Part} {s0 : State} (s : State) (a : CkAsm) {u0 : State} {v0 : Bool} (e : State.applyIncr s a = (u0, v0)) (hW : subParts [.regs, .out, .mbx, .ldg, .nvs, .fov, .pba] W = true) (hg : Goes W s0 s) : Goes W s0 u0 := by
  have := goes_applyIncr s a hW hg
  rw [e] at this
  exact this

theorem goes_ckAck {W : List Part} {s0 : State} (s : State) (a : CkAsm) (ok : Bool) (hW : subParts [.regs, .out, .ibg] W = true) (hg : Goes W s0 s) : Goes W s0 (State.ckAck s a ok) := by
  unfold State.ckAck
  repeat' first
    | with_reducible assumption
    | intro x
    | lift_lets
    | (with_reducible refine goes_ringSend _ _ _ _ ?_ ?_; exact subT rfl hW)

theorem goes_takeChunk {W : List Part} {s0 : State} (s : State) (p : Bytes) (hW : subParts [.regs, .out, .mbx, .ldg, .nvs, .ibg, .fov, .pba] W = true) (hg : Goes W s0 s) : Goes W s0 (State.takeChunk s p) := by
  unfold State.takeChunk
  repeat' first
    | with_reducible assumption
    | (intro x; refine Goes.cut (W := W) (s0 := s0) (x := x) ?_ ?_; rotate_left; clear_value x; intro hx; rotate_right)
    | intro x
    | lift_lets
    | (with_reducible refine goes_applyFull _ _ ?_ ?_; exact subT rfl hW)
    | (with_reducible refine goes_applyIncr _ _ ?_ ?_; exact subT rfl hW)
    | (with_reducible refine goes_ckAck _ _ _ ?_ ?_; exact subT rfl hW)
    | (with_reducible refine Goes.ite ?_ ?_)
    | (with_reducible refine Goes.iteFst ?_ ?_)
    | (fail_if_no_progress (with_reducible refine goes_set_fov _ _ ?_ ?_; exact subT rfl hW))

theorem goes_execCkptData {W : List Part} {s0 : State} (s : State) (hW : subParts [.regs, .out, .mbx, .ldg, .nvs, .ibg, .fov, .pba] W = true) (hg : Goes W s0 s) : ∀ t0, execCkptData s = .next t0 → Goes W s0 t0 := by
  unfold execCkptData
  intro t0 e0
  obtain rfl := Host.Outcome.next.inj e0
  clear e0
  repeat' first
    | with_reducible assumption
    | lift_lets
    | (with_reducible refine goes_onRing _ _ _ ?_ (fun _ _ _ => ?_) ?_; exact subT rfl hW)
    | (with_reducible refine goes_takeChunk _ _ ?_ ?_; exact subT rfl hW)
    | (with_reducible refine Goes.ite ?_ ?_)

theorem goes_takeTables {W : List Part} {s0 : State} (s : State) (img : Bytes) (hW : subParts [.regs, .out, .free, .ldg, .mem, .nvs, .net, .pba] W = true) (hg : Goes W s0 s) : Goes W s0 (State.takeTables s img) := by
  unfold State.takeTables
  repeat' first
    | with_reducible assumption
    | (intro x; refine Goes.cut (W := W) (s0 := s0) (x := x) ?_ ?_; rotate_left; clear_value x; intro hx; rotate_right)
    | intro x
    | lift_lets
    | (with_reducible refine goes_dramWrite _ _ _ ?_ ?_; exact subT rfl hW)
    | (with_reducible refine goes_nvsWrite _ _ _ _ ?_ ?_; exact subT rfl hW)
    | (with_reducible refine goes_idxClear _ _ ?_ ?_; exact subT rfl hW)
    | (with_reducible refine goes_idxPlace _ _ _ ?_ ?_; exact subT rfl hW)
    | (with_reducible refine GoesO.getD ?_ ?_)
    | (refine Goes.foldl (fun _ _ _ => ?_) ?_)
    | (fail_if_no_progress (with_reducible refine goes_set_net _ _ ?_ ?_; exact subT rfl hW))

theorem goes_jumpCounters {W : List Part} {s0 : State} (s : State) (hwm : Nat) (hW : subParts [.regs, .out, .nvs, .lnk, .pba] W = true) (hg : Goes W s0 s) : Goes W s0 (State.jumpCounters s hwm) := by
  unfold State.jumpCounters
  repeat' first
    | with_reducible assumption
    | lift_lets
    | (with_reducible refine goes_setReserve _ _ _ ?_ ?_; exact subT rfl hW)
    | (with_reducible refine goes_sendCtr _ _ _ ?_ ?_; exact subT rfl hW)
    | (refine Goes.foldl (fun _ _ _ => ?_) ?_)

theorem goes_takeHeader {W : List Part} {s0 : State} (s : State) (h : Bytes) (hW : subParts [.regs, .out, .chn, .net, .lvl, .pba] W = true) (hg : Goes W s0 s) : Goes W s0 (State.takeHeader s h) := by
  unfold State.takeHeader
  repeat' first
    | with_reducible assumption
    | (intro x; refine Goes.cut (W := W) (s0 := s0) (x := x) ?_ ?_; rotate_left; clear_value x; intro hx; rotate_right)
    | intro x
    | lift_lets
    | (with_reducible refine goes_wr _ _ _ ?_ ?_; exact subT rfl hW)
    | (with_reducible refine goes_wr64 _ _ _ _ ?_ ?_; exact subT rfl hW)
    | (with_reducible refine goes_hopInstall _ _ ?_ ?_; exact subT rfl hW)
    | (with_reducible refine goes_lvlCopy _ ?_ ?_; exact subT rfl hW)
    | (fail_if_no_progress (apply Goes.upd [.chn, .net]; dsimp only; exact subT rfl hW; (intro p hp; cases p <;> first | rfl | simp at hp); exact fun c => c))

theorem goes_takePending {W : List Part} {s0 : State} (s : State) (h : Bytes) (first : Nat) (hW : subParts [.regs, .chn, .lvl] W = true) (hg : Goes W s0 s) : Goes W s0 (State.takePending s h first) := by
  unfold State.takePending
  repeat' first
    | with_reducible assumption
    | intro x
    | lift_lets
    | (with_reducible refine goes_prepareMode _ _ _ ?_ ?_; exact subT rfl hW)
    | (with_reducible refine Goes.ite ?_ ?_)
    | (fail_if_no_progress (with_reducible refine goes_set_lvl _ _ ?_ ?_; exact subT rfl hW))

theorem goes_takeSettings {W : List Part} {s0 : State} (s : State) (img : Bytes) (hW : subParts [.regs, .cor] W = true) (hg : Goes W s0 s) : Goes W s0 (State.takeSettings s img) := by
  unfold State.takeSettings
  repeat' first
    | with_reducible assumption
    | (intro x; refine Goes.cut (W := W) (s0 := s0) (x := x) ?_ ?_; rotate_left; clear_value x; intro hx; rotate_right)
    | intro x
    | lift_lets
    | (with_reducible refine goes_wr _ _ _ ?_ ?_; exact subT rfl hW)
    | (refine Goes.foldl (fun _ _ _ => ?_) ?_)
    | (fail_if_no_progress (with_reducible refine goes_set_cor _ _ ?_ ?_; exact subT rfl hW))

theorem goes_takeoverSteps {W : List Part} {s0 : State} (s : State) (d : Nat) (hW : subParts [.regs, .out, .free, .mbx, .ldg, .mem, .nvs, .chn, .lnk, .net, .cor, .lvl, .fov, .pba] W = true) (hg : Goes W s0 s) : Goes W s0 (State.takeoverSteps s d) := by
  unfold State.takeoverSteps
  repeat' first
    | with_reducible assumption
    | (intro x; refine Goes.cut (W := W) (s0 := s0) (x := x) ?_ ?_; rotate_left; clear_value x; intro hx; rotate_right)
    | intro x
    | lift_lets
    | (with_reducible refine goes_wf _ _ _ _ _ ?_ ?_; exact subT rfl hW)
    | (with_reducible refine goes_wb _ _ _ _ ?_ ?_; exact subT rfl hW)
    | (with_reducible refine goes_bumpSat _ _ _ ?_ ?_; exact subT rfl hW)
    | (with_reducible refine goes_setRstBit _ _ _ _ ?_ ?_; exact subT rfl hW)
    | (with_reducible refine goes_fwEvent _ _ _ _ ?_ ?_; exact subT rfl hW)
    | (with_reducible refine goes_srcByRole _ ?_ ?_; exact subT rfl hW)
    | (with_reducible refine goes_takeTables _ _ ?_ ?_; exact subT rfl hW)
    | (with_reducible refine goes_jumpCounters _ _ ?_ ?_; exact subT rfl hW)
    | (with_reducible refine goes_takeHeader _ _ ?_ ?_; exact subT rfl hW)
    | (with_reducible refine goes_takePending _ _ _ ?_ ?_; exact subT rfl hW)
    | (with_reducible refine goes_takeSettings _ _ ?_ ?_; exact subT rfl hW)
    | split
    | (refine Goes.foldl (fun _ _ _ => ?_) ?_)
    | (fail_if_no_progress (apply Goes.upd [.lvl, .fov]; dsimp only; exact subT rfl hW; (intro p hp; cases p <;> first | rfl | simp at hp); first | exact fun c => c | exact fun c => ⟨c.1, memWrite_wf _ _ _ c.2.1, c.2.2⟩ | exact fun c => ⟨c.1, c.2.1, memWrite_wf _ _ _ c.2.2.1, c.2.2.2⟩ | exact fun c => ⟨c.1, c.2.1, c.2.2.1, memWrite_wf _ _ _ c.2.2.2.1, c.2.2.2.2⟩ | exact fun c => ⟨c.1, c.2.1, Memory.wf_nil, c.2.2.2⟩ | exact fun c => ⟨c.1, c.2.1, c.2.2.1, c.2.2.2.1, memWrite_wf _ _ _ c.2.2.2.2.1, c.2.2.2.2.2⟩))
    | (dsimp +zetaDelta only)

theorem goes_takeoverGraph {W : List Part} {s0 : State} (s : State) (hW : subParts [.regs, .out, .free, .mbx, .ldg, .cor, .lvl, .fov, .pba] W = true) (hg : Goes W s0 s) : Goes W s0 (State.takeoverGraph s) := by
  unfold State.takeoverGraph
  repeat' first
    | with_reducible assumption
    | (intro x; refine Goes.cut (W := W) (s0 := s0) (x := x) ?_ ?_; rotate_left; clear_value x; intro hx; rotate_right)
    | intro x
    | lift_lets
    | (with_reducible refine goes_wb _ _ _ _ ?_ ?_; exact subT rfl hW)
    | (with_reducible refine goes_stage _ _ ?_ ?_; exact subT rfl hW)
    | (with_reducible refine goes_corReset _ ?_ ?_; exact subT rfl hW)
    | (with_reducible refine goes_lvlEnable _ ?_ ?_; exact subT rfl hW)
    | split
    | (fail_if_no_progress (with_reducible refine goes_set_cor _ _ ?_ ?_; exact subT rfl hW))
    | (fail_if_no_progress (with_reducible refine goes_set_fov _ _ ?_ ?_; exact subT rfl hW))
    | (dsimp +zetaDelta only)

theorem goes_enterStandby {W : List Part} {s0 : State} (s : State) (seg : Nat) (hW : subParts [.regs, .out, .free, .mbx, .mkt, .que, .ldg, .mem, .nvs, .rad, .chn, .bcn, .net, .lvl, .port, .scl, .nrg, .pba] W = true) (hg : Goes W s0 s) : Goes W s0 (State.enterStandby s seg) := by
  unfold State.enterStandby
  repeat' first
    | with_reducible assumption
    | (intro x; refine Goes.cut (W := W) (s0 := s0) (x := x) ?_ ?_; rotate_left; clear_value x; intro hx; rotate_right)
    | intro x
    | lift_lets
    | (with_reducible refine goes_wr _ _ _ ?_ ?_; exact subT rfl hW)
    | (with_reducible refine goes_wf _ _ _ _ _ ?_ ?_; exact subT rfl hW)
    | (with_reducible refine goes_wb _ _ _ _ ?_ ?_; exact subT rfl hW)
    | (with_reducible refine goes_setRstBit _ _ _ _ ?_ ?_; exact subT rfl hW)
    | (with_reducible refine goes_laneReset _ _ ?_ ?_; exact subT rfl hW)
    | (with_reducible refine goes_radKill _ _ ?_ ?_; exact subT rfl hW)
    | (with_reducible refine goes_lvlDisable _ ?_ ?_; exact subT rfl hW)
    | (with_reducible refine goes_unprepareMode _ _ ?_ ?_; exact subT rfl hW)
    | (with_reducible refine goes_replyTag _ _ _ ?_ ?_; exact subT rfl hW)
    | (with_reducible refine goes_drvDisable _ _ ?_ ?_; exact subT rfl hW)
    | (with_reducible refine goes_sclDisable _ ?_ ?_; exact subT rfl hW)
    | (with_reducible refine goes_srcByRole _ ?_ ?_; exact subT rfl hW)
    | (with_reducible refine Goes.ite ?_ ?_)
    | split
    | (refine Goes.foldl (fun _ _ _ => ?_) ?_)
    | (fail_if_no_progress (with_reducible refine goes_set_lvl _ _ ?_ ?_; exact subT rfl hW))
    | (fail_if_no_progress (apply Goes.upd [.bcn, .net, .lvl]; dsimp only; exact subT rfl hW; (intro p hp; cases p <;> first | rfl | simp at hp); first | exact fun c => c | exact fun c => ⟨c.1, memWrite_wf _ _ _ c.2.1, c.2.2⟩ | exact fun c => ⟨c.1, c.2.1, memWrite_wf _ _ _ c.2.2.1, c.2.2.2⟩ | exact fun c => ⟨c.1, c.2.1, c.2.2.1, memWrite_wf _ _ _ c.2.2.2.1, c.2.2.2.2⟩ | exact fun c => ⟨c.1, c.2.1, Memory.wf_nil, c.2.2.2⟩ | exact fun c => ⟨c.1, c.2.1, c.2.2.1, c.2.2.2.1, memWrite_wf _ _ _ c.2.2.2.2.1, c.2.2.2.2.2⟩))
    | (dsimp +zetaDelta only)

theorem goes_demote {W : List Part} {s0 : State} (s : State) (hW : subParts [.regs, .out, .free, .mbx, .mkt, .que, .ldg, .mem, .nvs, .rad, .chn, .bcn, .net, .lvl, .port, .scl, .nrg, .fov, .pba] W = true) (hg : Goes W s0 s) : Goes W s0 (State.demote s) := by
  unfold State.demote
  repeat' first
    | with_reducible assumption
    | (intro x; refine Goes.cut (W := W) (s0 := s0) (x := x) ?_ ?_; rotate_left; clear_value x; intro hx; rotate_right)
    | intro x
    | lift_lets
    | (with_reducible refine goes_irq _ _ _ ?_ ?_; exact subT rfl hW)
    | (with_reducible refine goes_ledger _ _ _ _ _ _ _ ?_ ?_; exact subT rfl hW)
    | (with_reducible refine goes_rearm _ ?_ ?_; exact subT rfl hW)
    | (with_reducible refine goes_enterStandby _ _ ?_ ?_; exact subT rfl hW)
    | (fail_if_no_progress (with_reducible refine goes_set_fov _ _ ?_ ?_; exact subT rfl hW))

theorem goes_probeEdge {W : List Part} {s0 : State} (s : State) (hW : subParts [.fov] W = true) (hg : Goes W s0 s) : Goes W s0 (State.probeEdge s) := by
  unfold State.probeEdge
  repeat' first
    | with_reducible assumption
    | intro x
    | lift_lets
    | (with_reducible refine Goes.ite ?_ ?_)
    | split
    | (fail_if_no_progress (with_reducible refine goes_set_fov _ _ ?_ ?_; exact subT rfl hW))
    | dsimp only

theorem goes_demoteCheck {W : List Part} {s0 : State} (s : State) (hW : subParts [.regs, .out, .free, .mbx, .mkt, .que, .ldg, .mem, .nvs, .rad, .chn, .bcn, .net, .lvl, .port, .scl, .nrg, .fov, .pba] W = true) (hg : Goes W s0 s) : Goes W s0 (State.demoteCheck s) := by
  unfold State.demoteCheck
  repeat' first
    | with_reducible assumption
    | lift_lets
    | (with_reducible refine goes_demote _ ?_ ?_; exact subT rfl hW)
    | (with_reducible refine Goes.ite ?_ ?_)

theorem goes_execDemotionCheck {W : List Part} {s0 : State} (s : State) (hW : subParts [.regs, .out, .free, .mbx, .mkt, .que, .ldg, .mem, .nvs, .rad, .chn, .bcn, .net, .lvl, .port, .scl, .nrg, .fov, .pba] W = true) (hg : Goes W s0 s) : ∀ t0, execDemotionCheck s = .next t0 → Goes W s0 t0 := by
  unfold execDemotionCheck
  intro t0 e0
  obtain rfl := Host.Outcome.next.inj e0
  clear e0
  repeat' first
    | with_reducible assumption
    | (with_reducible refine goes_demoteCheck _ ?_ ?_; exact subT rfl hW)

theorem goes_hbOut {W : List Part} {s0 : State} (s : State) (hW : subParts [.out, .fov] W = true) (hg : Goes W s0 s) : Goes W s0 (State.hbOut s) := by
  unfold State.hbOut
  repeat' first
    | with_reducible assumption
    | intro x
    | lift_lets
    | (with_reducible refine goes_emit _ _ ?_ ?_; exact subT rfl hW)
    | (with_reducible refine Goes.ite ?_ ?_)
    | (fail_if_no_progress (with_reducible refine goes_set_fov _ _ ?_ ?_; exact subT rfl hW))

theorem goes_fovEdge {W : List Part} {s0 : State} (s : State) (hbIn : Bool) (hW : subParts [.regs, .out, .free, .mbx, .mkt, .que, .ldg, .mem, .nvs, .rad, .chn, .lnk, .bcn, .net, .cor, .lvl, .port, .scl, .nrg, .ibg, .fov, .pba] W = true) (hg : Goes W s0 s) : Goes W s0 (State.fovEdge s hbIn) := by
  unfold State.fovEdge
  repeat' first
    | with_reducible assumption
    | (intro x; refine Goes.cut (W := W) (s0 := s0) (x := x) ?_ ?_; rotate_left; clear_value x; intro hx; rotate_right)
    | intro x
    | lift_lets
    | (with_reducible refine goes_watch _ _ ?_ ?_; exact subT rfl hW)
    | (with_reducible refine goes_takeoverDecision _ ?_ ?_; exact subT rfl hW)
    | (with_reducible refine goes_ckSend _ ?_ ?_; exact subT rfl hW)
    | (with_reducible refine goes_takeoverSteps _ _ ?_ ?_; exact subT rfl hW)
    | (with_reducible refine goes_takeoverGraph _ ?_ ?_; exact subT rfl hW)
    | (with_reducible refine goes_probeEdge _ ?_ ?_; exact subT rfl hW)
    | (with_reducible refine goes_demoteCheck _ ?_ ?_; exact subT rfl hW)
    | (with_reducible refine goes_hbOut _ ?_ ?_; exact subT rfl hW)
    | (with_reducible refine Goes.ite ?_ ?_)
    | split
    | (fail_if_no_progress (with_reducible refine goes_set_fov _ _ ?_ ?_; exact subT rfl hW))
    | (dsimp +zetaDelta only)

theorem goes_fovCfg {W : List Part} {s0 : State} (s : State) (m : Master) (v : Word) (hW : subParts [.regs, .out, .mbx, .ldg, .fov, .pba] W = true) (hg : Goes W s0 s) : Goes W s0 (State.fovCfg s m v) := by
  unfold State.fovCfg
  repeat' first
    | with_reducible assumption
    | lift_lets
    | (with_reducible refine goes_wr _ _ _ ?_ ?_; exact subT rfl hW)
    | (with_reducible refine goes_err _ _ _ _ _ ?_ ?_; exact subT rfl hW)
    | (with_reducible refine goes_rearm _ ?_ ?_; exact subT rfl hW)
    | (with_reducible refine Goes.ite ?_ ?_)

theorem goes_execFovCfgWrite {W : List Part} {s0 : State} (m : Master) (v : Word) (s : State) (hW : subParts [.regs, .out, .resp, .mbx, .ldg, .fov, .host, .pba] W = true) (hg : Goes W s0 s) : ∀ t0, execFovCfgWrite m v s = .next t0 → Goes W s0 t0 := by
  unfold execFovCfgWrite
  intro t0 e0
  obtain rfl := Host.Outcome.next.inj e0
  clear e0
  repeat' first
    | with_reducible assumption
    | lift_lets
    | (with_reducible refine goes_answer _ _ ?_ ?_; exact subT rfl hW)
    | (with_reducible refine goes_writeAt _ _ _ _ _ _ ?_ (fun _ _ => ?_) ?_; exact subT rfl hW)
    | (with_reducible refine goes_fovCfg _ _ _ ?_ ?_; exact subT rfl hW)

theorem goes_execCkptFull {W : List Part} {s0 : State} (m : Master) (s : State) (hW : subParts [.regs, .out, .resp, .fov, .host, .pba] W = true) (hg : Goes W s0 s) : ∀ t0, execCkptFull m s = .next t0 → Goes W s0 t0 := by
  unfold execCkptFull
  intro t0 e0
  obtain rfl := Host.Outcome.next.inj e0
  clear e0
  repeat' first
    | with_reducible assumption
    | intro x
    | lift_lets
    | (with_reducible refine goes_answer _ _ ?_ ?_; exact subT rfl hW)
    | (with_reducible refine goes_writeAt _ _ _ _ _ _ ?_ (fun _ _ => ?_) ?_; exact subT rfl hW)
    | (fail_if_no_progress (with_reducible refine goes_set_fov _ _ ?_ ?_; exact subT rfl hW))

theorem goes_releaseRole {W : List Part} {s0 : State} (s : State) (hW : subParts [.fov] W = true) (hg : Goes W s0 s) : Goes W s0 (State.releaseRole s) := by
  unfold State.releaseRole
  repeat' first
    | with_reducible assumption
    | intro x
    | lift_lets
    | (fail_if_no_progress (with_reducible refine goes_set_fov _ _ ?_ ?_; exact subT rfl hW))

theorem goes_fovRelease {W : List Part} {s0 : State} (s : State) (m : Master) (v : Word) (hW : subParts [.regs, .out, .fov, .pba] W = true) (hg : Goes W s0 s) : Goes W s0 (State.fovRelease s m v) := by
  unfold State.fovRelease
  repeat' first
    | with_reducible assumption
    | lift_lets
    | (with_reducible refine goes_err _ _ _ _ _ ?_ ?_; exact subT rfl hW)
    | (with_reducible refine goes_releaseRole _ ?_ ?_; exact subT rfl hW)
    | (with_reducible refine Goes.ite ?_ ?_)

theorem goes_execFovRelease {W : List Part} {s0 : State} (via : Via) (s : State) (hW : subParts [.regs, .out, .resp, .mbx, .ldg, .fov, .host, .pba] W = true) (hg : Goes W s0 s) : ∀ t0, execFovRelease via s = .next t0 → Goes W s0 t0 := by
  unfold execFovRelease
  intro t0 e0
  obtain rfl := Host.Outcome.next.inj e0
  clear e0
  repeat' first
    | with_reducible assumption
    | lift_lets
    | (with_reducible refine goes_answer _ _ ?_ ?_; exact subT rfl hW)
    | (with_reducible refine goes_reply _ _ _ _ _ ?_ ?_; exact subT rfl hW)
    | (with_reducible refine goes_withCmd _ _ _ _ ?_ (fun _ _ _ => ?_) ?_; exact subT rfl hW)
    | (with_reducible refine goes_writeAt _ _ _ _ _ _ ?_ (fun _ _ => ?_) ?_; exact subT rfl hW)
    | (with_reducible refine goes_releaseRole _ ?_ ?_; exact subT rfl hW)
    | (with_reducible refine goes_fovRelease _ _ _ ?_ ?_; exact subT rfl hW)
    | split

theorem goes_execFovSet {W : List Part} {s0 : State} (tag : Word) (s : State) (hW : subParts [.regs, .out, .mbx, .ldg, .fov, .pba] W = true) (hg : Goes W s0 s) : ∀ t0, execFovSet tag s = .next t0 → Goes W s0 t0 := by
  unfold execFovSet
  intro t0 e0
  obtain rfl := Host.Outcome.next.inj e0
  clear e0
  repeat' first
    | with_reducible assumption
    | lift_lets
    | (with_reducible refine goes_wr _ _ _ ?_ ?_; exact subT rfl hW)
    | (with_reducible refine goes_reply _ _ _ _ _ ?_ ?_; exact subT rfl hW)
    | (with_reducible refine goes_withCmd _ _ _ _ ?_ (fun _ _ _ => ?_) ?_; exact subT rfl hW)
    | (with_reducible refine goes_rearm _ ?_ ?_; exact subT rfl hW)
    | (with_reducible refine Goes.ite ?_ ?_)

theorem goes_execCkptNow {W : List Part} {s0 : State} (tag : Word) (s : State) (hW : subParts [.regs, .out, .mbx, .ldg, .fov, .pba] W = true) (hg : Goes W s0 s) : ∀ t0, execCkptNow tag s = .next t0 → Goes W s0 t0 := by
  unfold execCkptNow
  intro t0 e0
  obtain rfl := Host.Outcome.next.inj e0
  clear e0
  repeat' first
    | with_reducible assumption
    | intro x
    | lift_lets
    | (with_reducible refine goes_reply _ _ _ _ _ ?_ ?_; exact subT rfl hW)
    | (with_reducible refine goes_withCmd _ _ _ _ ?_ (fun _ _ _ => ?_) ?_; exact subT rfl hW)
    | (fail_if_no_progress (with_reducible refine goes_set_fov _ _ ?_ ?_; exact subT rfl hW))

theorem goes_fovWrite {W : List Part} {s0 : State} (s : State) (m : Master) (off : Nat) (v : Word) (hW : subParts [.regs, .out, .mbx, .ldg, .fov, .pba] W = true) (hg : Goes W s0 s) : GoesO W s0 (State.fovWrite s m off v) := by
  unfold State.fovWrite
  repeat' first
    | with_reducible assumption
    | intro x
    | lift_lets
    | (with_reducible refine goes_err _ _ _ _ _ ?_ ?_; exact subT rfl hW)
    | (with_reducible refine goes_fovCfg _ _ _ ?_ ?_; exact subT rfl hW)
    | (with_reducible refine goes_fovRelease _ _ _ ?_ ?_; exact subT rfl hW)
    | (refine GoesO.some ?_)
    | exact GoesO.none
    | (with_reducible refine Goes.ite ?_ ?_)
    | (with_reducible refine GoesO.ite ?_ ?_)
    | (fail_if_no_progress (with_reducible refine goes_set_fov _ _ ?_ ?_; exact subT rfl hW))

theorem goes_fovDisable {W : List Part} {s0 : State} (s : State) (hW : subParts [.regs, .out, .fov, .pba] W = true) (hg : Goes W s0 s) : Goes W s0 (State.fovDisable s) := by
  unfold State.fovDisable
  repeat' first
    | with_reducible assumption
    | (intro x; refine Goes.cut (W := W) (s0 := s0) (x := x) ?_ ?_; rotate_left; clear_value x; intro hx; rotate_right)
    | intro x
    | lift_lets
    | (with_reducible refine goes_emit _ _ ?_ ?_; exact subT rfl hW)
    | (with_reducible refine goes_setDrained _ _ ?_ ?_; exact subT rfl hW)
    | (with_reducible refine Goes.ite ?_ ?_)
    | (fail_if_no_progress (with_reducible refine goes_set_fov _ _ ?_ ?_; exact subT rfl hW))

theorem goes_fovReset {W : List Part} {s0 : State} (s : State) (hW : subParts [.out, .fov] W = true) (hg : Goes W s0 s) : Goes W s0 (State.fovReset s) := by
  unfold State.fovReset
  repeat' first
    | with_reducible assumption
    | (intro x; refine Goes.cut (W := W) (s0 := s0) (x := x) ?_ ?_; rotate_left; clear_value x; intro hx; rotate_right)
    | intro x
    | lift_lets
    | (with_reducible refine goes_emit _ _ ?_ ?_; exact subT rfl hW)
    | (with_reducible refine Goes.ite ?_ ?_)
    | (fail_if_no_progress (with_reducible refine goes_set_fov _ _ ?_ ?_; exact subT rfl hW))

theorem goes_fovStart {W : List Part} {s0 : State} (s : State) (hW : subParts [.fov] W = true) (hg : Goes W s0 s) : Goes W s0 (State.fovStart s) := by
  unfold State.fovStart
  repeat' first
    | with_reducible assumption
    | intro x
    | lift_lets
    | (fail_if_no_progress (with_reducible refine goes_set_fov _ _ ?_ ?_; exact subT rfl hW))

end Sys2Proof.Machine
end

