-- ==== Sys2Proof/Laws/GoesRingMode.lean ====
section
/-! SUPPORT. What the operations of Machine/RingMode.lean can change: one lemma each. -/

set_option linter.unreachableTactic false
set_option linter.unusedTactic false

namespace Sys2Proof.Machine

open Sys2Proof

theorem goes_ringPrepare {W : List Part} {s0 : State} (s : State) (coord : Nat) (id : Nat) (c : Nat) (hW : subParts [.regs] W = true) (hg : Goes W s0 s) : Goes W s0 (State.ringPrepare s coord id c) := by
  unfold State.ringPrepare
  repeat' first
    | with_reducible assumption
    | lift_lets
    | (with_reducible refine goes_wr _ _ _ ?_ ?_; exact subT rfl hW)

theorem goes_keepDecision {W : List Part} {s0 : State} (s : State) (id : Nat) (commit : Bool) (hW : subParts [.rmc] W = true) (hg : Goes W s0 s) : Goes W s0 (State.keepDecision s id commit) := by
  unfold State.keepDecision
  repeat' first
    | with_reducible assumption
    | intro x
    | lift_lets
    | (with_reducible refine Goes.ite ?_ ?_)
    | (fail_if_no_progress (with_reducible refine goes_set_rmc _ _ ?_ ?_; exact subT rfl hW))

theorem goes_ringDrop {W : List Part} {s0 : State} (s : State) (hW : subParts [.regs, .out, .mbx, .chn, .lvl, .pba] W = true) (hg : Goes W s0 s) : Goes W s0 (State.ringDrop s) := by
  unfold State.ringDrop
  repeat' first
    | with_reducible assumption
    | intro x
    | lift_lets
    | (with_reducible refine goes_unprepareMode _ _ ?_ ?_; exact subT rfl hW)
    | (with_reducible refine goes_cancelAnn _ ?_ ?_; exact subT rfl hW)
    | (with_reducible refine Goes.ite ?_ ?_)
    | split
    | (fail_if_no_progress (with_reducible refine goes_set_lvl _ _ ?_ ?_; exact subT rfl hW))

theorem goes_ringLate {W : List Part} {s0 : State} (s : State) (a : Announce) (id : Nat) (hW : subParts [.regs, .out, .mbx, .ldg, .lvl, .pba] W = true) (hg : Goes W s0 s) : Goes W s0 (State.ringLate s a id) := by
  unfold State.ringLate
  repeat' first
    | with_reducible assumption
    | (intro x; refine Goes.cut (W := W) (s0 := s0) (x := x) ?_ ?_; rotate_left; clear_value x; intro hx; rotate_right)
    | intro x
    | lift_lets
    | (with_reducible refine goes_fwEvent _ _ _ _ ?_ ?_; exact subT rfl hW)
    | (fail_if_no_progress (with_reducible refine goes_set_lvl _ _ ?_ ?_; exact subT rfl hW))

theorem goes_ringLearn {W : List Part} {s0 : State} (s : State) (id : Nat) (commit : Bool) (who : Nat) (hW : subParts [.regs, .out, .mbx, .ldg, .chn, .lvl, .rmc, .pba] W = true) (hg : Goes W s0 s) : Goes W s0 (State.ringLearn s id commit who) := by
  unfold State.ringLearn
  repeat' first
    | with_reducible assumption
    | (intro x; refine Goes.cut (W := W) (s0 := s0) (x := x) ?_ ?_; rotate_left; clear_value x; intro hx; rotate_right)
    | intro x
    | lift_lets
    | (with_reducible refine goes_wf _ _ _ _ _ ?_ ?_; exact subT rfl hW)
    | (with_reducible refine goes_irq _ _ _ ?_ ?_; exact subT rfl hW)
    | (with_reducible refine goes_fwEvent _ _ _ _ ?_ ?_; exact subT rfl hW)
    | (with_reducible refine goes_keepDecision _ _ _ ?_ ?_; exact subT rfl hW)
    | (with_reducible refine goes_ringDrop _ ?_ ?_; exact subT rfl hW)
    | (with_reducible refine goes_ringLate _ _ _ ?_ ?_; exact subT rfl hW)
    | (with_reducible refine Goes.ite ?_ ?_)
    | split

theorem goes_execRingDecisionExpiry {W : List Part} {s0 : State} (s : State) (hW : subParts [.rmc] W = true) (hg : Goes W s0 s) : ∀ t0, execRingDecisionExpiry s = .next t0 → Goes W s0 t0 := by
  unfold execRingDecisionExpiry
  intro t0 e0
  obtain rfl := Host.Outcome.next.inj e0
  clear e0
  repeat' first
    | with_reducible assumption
    | intro x
    | lift_lets
    | (fail_if_no_progress (with_reducible refine goes_set_rmc _ _ ?_ ?_; exact subT rfl hW))

theorem goes_ringBegin {W : List Part} {s0 : State} (s : State) (m : SegMode) (c : Nat) (tag : Word) (hW : subParts [.regs, .out, .free, .que, .ldg, .nvs, .rad, .chn, .lnk, .net, .lvl, .ibg, .rmc, .pba] W = true) (hg : Goes W s0 s) : Goes W s0 (State.ringBegin s m c tag).1 := by
  unfold State.ringBegin
  repeat' first
    | with_reducible assumption
    | (intro x; refine Goes.cut (W := W) (s0 := s0) (x := x) ?_ ?_; rotate_left; clear_value x; intro hx; rotate_right)
    | intro x
    | lift_lets
    | (with_reducible refine goes_draw _ _ ?_ ?_; exact subT rfl hW)
    | (with_reducible refine goes_announce' _ _ _ _ _ (by assumption) ?_ ?_; exact subT rfl hW)
    | (with_reducible refine goes_ringSend _ _ _ _ ?_ ?_; exact subT rfl hW)
    | (with_reducible refine goes_ringPrepare _ _ _ _ ?_ ?_; exact subT rfl hW)
    | split
    | (fail_if_no_progress (with_reducible refine goes_set_rmc _ _ ?_ ?_; exact subT rfl hW))

theorem goes_ringBegin' {W : List Part} {s0 : State} (s : State) (m : SegMode) (c : Nat) (tag : Word) {u0 : State} {v0 : Option Nat} (e : State.ringBegin s m c tag = (u0, v0)) (hW : subParts [.regs, .out, .free, .que, .ldg, .nvs, .rad, .chn, .lnk, .net, .lvl, .ibg, .rmc, .pba] W = true) (hg : Goes W s0 s) : Goes W s0 u0 := by
  have := goes_ringBegin s m c tag hW hg
  rw [e] at this
  exact this

theorem goes_execRingMode {W : List Part} {s0 : State} (tag : Word) (s : State) (hW : subParts [.regs, .out, .free, .mbx, .que, .ldg, .nvs, .rad, .chn, .lnk, .net, .lvl, .ibg, .rmc, .pba] W = true) (hg : Goes W s0 s) : ∀ t0, execRingMode tag s = .next t0 → Goes W s0 t0 := by
  unfold execRingMode
  intro t0 e0
  obtain rfl := Host.Outcome.next.inj e0
  clear e0
  repeat' first
    | with_reducible assumption
    | lift_lets
    | (with_reducible refine goes_noTime _ _ _ ?_ ?_; exact subT rfl hW)
    | (with_reducible refine goes_reply _ _ _ _ _ ?_ ?_; exact subT rfl hW)
    | (with_reducible refine goes_defer _ _ ?_ ?_; exact subT rfl hW)
    | (with_reducible refine goes_withCmd _ _ _ _ ?_ (fun _ _ _ => ?_) ?_; exact subT rfl hW)
    | (with_reducible refine goes_ringBegin' _ _ _ _ (by assumption) ?_ ?_; exact subT rfl hW)
    | (with_reducible refine Goes.ite ?_ ?_)
    | split

theorem goes_onCoord {W : List Part} {s0 : State} (s : State) (id : Nat) (f : RingCoord → RingCoord) (hW : subParts [.rmc] W = true) (hg : Goes W s0 s) : Goes W s0 (State.onCoord s id f) := by
  unfold State.onCoord
  repeat' first
    | with_reducible assumption
    | intro x
    | lift_lets
    | (with_reducible refine Goes.ite ?_ ?_)
    | split
    | (fail_if_no_progress (with_reducible refine goes_set_rmc _ _ ?_ ?_; exact subT rfl hW))

theorem goes_execReady {W : List Part} {s0 : State} (s : State) (hW : subParts [.ibg, .rmc] W = true) (hg : Goes W s0 s) : ∀ t0, execReady s = .next t0 → Goes W s0 t0 := by
  unfold execReady
  intro t0 e0
  obtain rfl := Host.Outcome.next.inj e0
  clear e0
  repeat' first
    | with_reducible assumption
    | lift_lets
    | (with_reducible refine goes_onRing _ _ _ ?_ (fun _ _ _ => ?_) ?_; exact subT rfl hW)
    | (with_reducible refine goes_onCoord _ _ _ ?_ ?_; exact subT rfl hW)

theorem goes_execRefuse {W : List Part} {s0 : State} (s : State) (hW : subParts [.ibg, .rmc] W = true) (hg : Goes W s0 s) : ∀ t0, execRefuse s = .next t0 → Goes W s0 t0 := by
  unfold execRefuse
  intro t0 e0
  obtain rfl := Host.Outcome.next.inj e0
  clear e0
  repeat' first
    | with_reducible assumption
    | lift_lets
    | (with_reducible refine goes_onRing _ _ _ ?_ (fun _ _ _ => ?_) ?_; exact subT rfl hW)
    | (with_reducible refine goes_onCoord _ _ _ ?_ ?_; exact subT rfl hW)

theorem goes_sendDecision {W : List Part} {s0 : State} (s : State) (k : RingCoord) (commit : Bool) (hW : subParts [.regs, .out, .ibg] W = true) (hg : Goes W s0 s) : Goes W s0 (State.sendDecision s k commit) := by
  unfold State.sendDecision
  repeat' first
    | with_reducible assumption
    | (with_reducible refine goes_ringSend _ _ _ _ ?_ ?_; exact subT rfl hW)

theorem goes_ringDecide {W : List Part} {s0 : State} (s : State) (k : RingCoord) (hW : subParts [.regs, .out, .mbx, .ldg, .chn, .lvl, .ibg, .rmc, .pba] W = true) (hg : Goes W s0 s) : Goes W s0 (State.ringDecide s k) := by
  unfold State.ringDecide
  repeat' first
    | with_reducible assumption
    | (intro x; refine Goes.cut (W := W) (s0 := s0) (x := x) ?_ ?_; rotate_left; clear_value x; intro hx; rotate_right)
    | intro x
    | lift_lets
    | (with_reducible refine goes_reply _ _ _ _ _ ?_ ?_; exact subT rfl hW)
    | (with_reducible refine goes_ringLearn _ _ _ _ ?_ ?_; exact subT rfl hW)
    | (with_reducible refine goes_sendDecision _ _ _ ?_ ?_; exact subT rfl hW)
    | (with_reducible refine Goes.ite ?_ ?_)
    | split
    | (fail_if_no_progress (with_reducible refine goes_set_rmc _ _ ?_ ?_; exact subT rfl hW))

theorem goes_execRingDecide {W : List Part} {s0 : State} (s : State) (hW : subParts [.regs, .out, .mbx, .ldg, .chn, .lvl, .ibg, .rmc, .pba] W = true) (hg : Goes W s0 s) : ∀ t0, execRingDecide s = .next t0 → Goes W s0 t0 := by
  unfold execRingDecide
  intro t0 e0
  obtain rfl := Host.Outcome.next.inj e0
  clear e0
  repeat' first
    | with_reducible assumption
    | lift_lets
    | (with_reducible refine goes_ringDecide _ _ ?_ ?_; exact subT rfl hW)
    | (with_reducible refine Goes.ite ?_ ?_)
    | split

theorem goes_execRingDecisionRepeat {W : List Part} {s0 : State} (s : State) (hW : subParts [.regs, .out, .ibg, .rmc] W = true) (hg : Goes W s0 s) : ∀ t0, execRingDecisionRepeat s = .next t0 → Goes W s0 t0 := by
  unfold execRingDecisionRepeat
  intro t0 e0
  obtain rfl := Host.Outcome.next.inj e0
  clear e0
  repeat' first
    | with_reducible assumption
    | intro x
    | lift_lets
    | (with_reducible refine goes_sendDecision _ _ _ ?_ ?_; exact subT rfl hW)
    | (with_reducible refine Goes.ite ?_ ?_)
    | split
    | (fail_if_no_progress (with_reducible refine goes_set_rmc _ _ ?_ ?_; exact subT rfl hW))

theorem goes_ringStage {W : List Part} {s0 : State} (s : State) (x : RingRx) (hW : subParts [.regs, .out, .que, .ldg, .nvs, .rad, .chn, .lnk, .net, .lvl, .rmc, .pba] W = true) (hg : Goes W s0 s) : Goes W s0 (State.ringStage s x).1 := by
  unfold State.ringStage
  repeat' first
    | with_reducible assumption
    | (intro x; refine Goes.cut (W := W) (s0 := s0) (x := x) ?_ ?_; rotate_left; clear_value x; intro hx; rotate_right)
    | intro x
    | lift_lets
    | (with_reducible refine goes_noTime _ _ _ ?_ ?_; exact subT rfl hW)
    | (with_reducible refine goes_announce' _ _ _ _ _ (by assumption) ?_ ?_; exact subT rfl hW)
    | (with_reducible refine goes_ringPrepare _ _ _ _ ?_ ?_; exact subT rfl hW)
    | (with_reducible refine Goes.iteFst ?_ ?_)
    | split
    | (fail_if_no_progress (with_reducible refine goes_set_rmc _ _ ?_ ?_; exact subT rfl hW))

theorem goes_ringStage' {W : List Part} {s0 : State} (s : State) (x : RingRx) {u0 : State} {v0 : Option Nat} (e : State.ringStage s x = (u0, v0)) (hW : subParts [.regs, .out, .que, .ldg, .nvs, .rad, .chn, .lnk, .net, .lvl, .rmc, .pba] W = true) (hg : Goes W s0 s) : Goes W s0 u0 := by
  have := goes_ringStage s x hW hg
  rw [e] at this
  exact this

theorem goes_execPrepare {W : List Part} {s0 : State} (s : State) (hW : subParts [.regs, .out, .que, .ldg, .nvs, .rad, .chn, .lnk, .net, .lvl, .ibg, .rmc, .pba] W = true) (hg : Goes W s0 s) : ∀ t0, execPrepare s = .next t0 → Goes W s0 t0 := by
  unfold execPrepare
  intro t0 e0
  obtain rfl := Host.Outcome.next.inj e0
  clear e0
  repeat' first
    | with_reducible assumption
    | lift_lets
    | (with_reducible refine goes_ringSend _ _ _ _ ?_ ?_; exact subT rfl hW)
    | (with_reducible refine goes_onRing _ _ _ ?_ (fun _ _ _ => ?_) ?_; exact subT rfl hW)
    | (with_reducible refine goes_ringStage' _ _ (by assumption) ?_ ?_; exact subT rfl hW)
    | (with_reducible refine Goes.ite ?_ ?_)
    | split

theorem goes_ringConfirm {W : List Part} {s0 : State} (s : State) (id : Nat) (d : Nat) (hW : subParts [.regs, .out, .ibg] W = true) (hg : Goes W s0 s) : Goes W s0 (State.ringConfirm s id d) := by
  unfold State.ringConfirm
  repeat' first
    | with_reducible assumption
    | (with_reducible refine goes_ringSend _ _ _ _ ?_ ?_; exact subT rfl hW)

theorem goes_takeDecision {W : List Part} {s0 : State} (s : State) (x : RingRx) (commit : Bool) (hW : subParts [.regs, .out, .mbx, .ldg, .chn, .lvl, .ibg, .rmc, .pba] W = true) (hg : Goes W s0 s) : Goes W s0 (State.takeDecision s x commit) := by
  unfold State.takeDecision
  repeat' first
    | with_reducible assumption
    | (intro x; refine Goes.cut (W := W) (s0 := s0) (x := x) ?_ ?_; rotate_left; clear_value x; intro hx; rotate_right)
    | intro x
    | lift_lets
    | (with_reducible refine goes_ringLearn _ _ _ _ ?_ ?_; exact subT rfl hW)
    | (with_reducible refine goes_ringConfirm _ _ _ ?_ ?_; exact subT rfl hW)
    | (with_reducible refine Goes.ite ?_ ?_)
    | split

theorem goes_execRingCommit {W : List Part} {s0 : State} (s : State) (hW : subParts [.regs, .out, .mbx, .ldg, .chn, .lvl, .ibg, .rmc, .pba] W = true) (hg : Goes W s0 s) : ∀ t0, execRingCommit s = .next t0 → Goes W s0 t0 := by
  unfold execRingCommit
  intro t0 e0
  obtain rfl := Host.Outcome.next.inj e0
  clear e0
  repeat' first
    | with_reducible assumption
    | lift_lets
    | (with_reducible refine goes_onRing _ _ _ ?_ (fun _ _ _ => ?_) ?_; exact subT rfl hW)
    | (with_reducible refine goes_takeDecision _ _ _ ?_ ?_; exact subT rfl hW)

theorem goes_execRingAbort {W : List Part} {s0 : State} (s : State) (hW : subParts [.regs, .out, .mbx, .ldg, .chn, .lvl, .ibg, .rmc, .pba] W = true) (hg : Goes W s0 s) : ∀ t0, execRingAbort s = .next t0 → Goes W s0 t0 := by
  unfold execRingAbort
  intro t0 e0
  obtain rfl := Host.Outcome.next.inj e0
  clear e0
  repeat' first
    | with_reducible assumption
    | lift_lets
    | (with_reducible refine goes_onRing _ _ _ ?_ (fun _ _ _ => ?_) ?_; exact subT rfl hW)
    | (with_reducible refine goes_takeDecision _ _ _ ?_ ?_; exact subT rfl hW)

theorem goes_execRingQuery {W : List Part} {s0 : State} (s : State) (hW : subParts [.regs, .out, .ibg] W = true) (hg : Goes W s0 s) : ∀ t0, execRingQuery s = .next t0 → Goes W s0 t0 := by
  unfold execRingQuery
  intro t0 e0
  obtain rfl := Host.Outcome.next.inj e0
  clear e0
  repeat' first
    | with_reducible assumption
    | lift_lets
    | (with_reducible refine goes_onRing _ _ _ ?_ (fun _ _ _ => ?_) ?_; exact subT rfl hW)
    | (with_reducible refine goes_ringConfirm _ _ _ ?_ ?_; exact subT rfl hW)
    | split

theorem goes_execRingConfirm {W : List Part} {s0 : State} (s : State) (hW : subParts [.regs, .out, .mbx, .ldg, .chn, .lvl, .ibg, .rmc, .pba] W = true) (hg : Goes W s0 s) : ∀ t0, execRingConfirm s = .next t0 → Goes W s0 t0 := by
  unfold execRingConfirm
  intro t0 e0
  obtain rfl := Host.Outcome.next.inj e0
  clear e0
  repeat' first
    | with_reducible assumption
    | lift_lets
    | (with_reducible refine goes_onRing _ _ _ ?_ (fun _ _ _ => ?_) ?_; exact subT rfl hW)
    | (with_reducible refine goes_ringLearn _ _ _ _ ?_ ?_; exact subT rfl hW)
    | (with_reducible refine goes_onCoord _ _ _ ?_ ?_; exact subT rfl hW)
    | (with_reducible refine Goes.ite ?_ ?_)

theorem goes_execRingDoubtQuery {W : List Part} {s0 : State} (s : State) (hW : subParts [.regs, .out, .ibg] W = true) (hg : Goes W s0 s) : ∀ t0, execRingDoubtQuery s = .next t0 → Goes W s0 t0 := by
  unfold execRingDoubtQuery
  intro t0 e0
  obtain rfl := Host.Outcome.next.inj e0
  clear e0
  repeat' first
    | with_reducible assumption
    | lift_lets
    | (with_reducible refine goes_ringSend _ _ _ _ ?_ ?_; exact subT rfl hW)
    | (with_reducible refine Goes.ite ?_ ?_)
    | split

theorem goes_execRingDoubtExpiry {W : List Part} {s0 : State} (s : State) (hW : subParts [.regs, .out, .mbx, .chn, .lvl, .rmc, .pba] W = true) (hg : Goes W s0 s) : ∀ t0, execRingDoubtExpiry s = .next t0 → Goes W s0 t0 := by
  unfold execRingDoubtExpiry
  intro t0 e0
  obtain rfl := Host.Outcome.next.inj e0
  clear e0
  repeat' first
    | with_reducible assumption
    | (intro x; refine Goes.cut (W := W) (s0 := s0) (x := x) ?_ ?_; rotate_left; clear_value x; intro hx; rotate_right)
    | intro x
    | lift_lets
    | (with_reducible refine goes_wf _ _ _ _ _ ?_ ?_; exact subT rfl hW)
    | (with_reducible refine goes_ringDrop _ ?_ ?_; exact subT rfl hW)
    | (with_reducible refine Goes.ite ?_ ?_)
    | split
    | (fail_if_no_progress (with_reducible refine goes_set_rmc _ _ ?_ ?_; exact subT rfl hW))

theorem goes_ringAfterReset {W : List Part} {s0 : State} (s : State) (st : Nat) (hW : subParts [.regs] W = true) (hg : Goes W s0 s) : Goes W s0 (State.ringAfterReset s st) := by
  unfold State.ringAfterReset
  repeat' first
    | with_reducible assumption
    | lift_lets
    | (with_reducible refine goes_wf _ _ _ _ _ ?_ ?_; exact subT rfl hW)
    | (with_reducible refine Goes.ite ?_ ?_)
    | split

end Sys2Proof.Machine
end

