-- ==== Sys2Proof/Laws/GoesPower.lean ====
section
/-! SUPPORT. What the operations of Machine/Power.lean can change: one lemma each. -/

set_option linter.unreachableTactic false
set_option linter.unusedTactic false

namespace Sys2Proof.Machine

open Sys2Proof

theorem goes_setCont {W : List Part} {s0 : State} (s : State) (i : Nat) (v : Bool) (hW : subParts [.out, .fsw] W = true) (hg : Goes W s0 s) : Goes W s0 (State.setCont s i v) := by
  unfold State.setCont
  repeat' first
    | with_reducible assumption
    | intro x
    | lift_lets
    | (with_reducible refine goes_emit _ _ ?_ ?_; exact subT rfl hW)
    | (with_reducible refine Goes.ite ?_ ?_)
    | (fail_if_no_progress (with_reducible refine goes_set_fsw _ _ ?_ ?_; exact subT rfl hW))

theorem goes_contIdle {W : List Part} {s0 : State} (s : State) (hW : subParts [.regs, .out, .fsw, .pba] W = true) (hg : Goes W s0 s) : Goes W s0 (State.contIdle s) := by
  unfold State.contIdle
  repeat' first
    | with_reducible assumption
    | (intro x; refine Goes.cut (W := W) (s0 := s0) (x := x) ?_ ?_; rotate_left; clear_value x; intro hx; rotate_right)
    | intro x
    | lift_lets
    | (with_reducible refine goes_wb _ _ _ _ ?_ ?_; exact subT rfl hW)
    | (with_reducible refine goes_setDrained _ _ ?_ ?_; exact subT rfl hW)
    | (with_reducible refine Goes.ite ?_ ?_)
    | (fail_if_no_progress (with_reducible refine goes_set_fsw _ _ ?_ ?_; exact subT rfl hW))

theorem goes_contStep {W : List Part} {s0 : State} (s : State) (reached : Nat) (hW : subParts [.regs, .out, .fsw, .pba] W = true) (hg : Goes W s0 s) : Goes W s0 (State.contStep s reached) := by
  unfold State.contStep
  repeat' first
    | with_reducible assumption
    | lift_lets
    | (with_reducible refine goes_setCont _ _ _ ?_ ?_; exact subT rfl hW)
    | (with_reducible refine goes_contIdle _ ?_ ?_; exact subT rfl hW)
    | (with_reducible refine Goes.ite ?_ ?_)
    | split
    | (fail_if_no_progress (with_reducible refine goes_set_fsw _ _ ?_ ?_; exact subT rfl hW))
    | dsimp only

theorem goes_contFollow {W : List Part} {s0 : State} (s : State) (hW : subParts [.regs, .out, .fsw, .pba] W = true) (hg : Goes W s0 s) : Goes W s0 (State.contFollow s) := by
  unfold State.contFollow
  repeat' first
    | with_reducible assumption
    | lift_lets
    | (with_reducible refine goes_contStep _ _ ?_ ?_; exact subT rfl hW)
    | (with_reducible refine Goes.ite ?_ ?_)

theorem goes_execContSequenceStep {W : List Part} {s0 : State} (s : State) (hW : subParts [.regs, .out, .fsw, .pba] W = true) (hg : Goes W s0 s) : ∀ t0, execContSequenceStep s = .next t0 → Goes W s0 t0 := by
  unfold execContSequenceStep
  intro t0 e0
  obtain rfl := Host.Outcome.next.inj e0
  clear e0
  repeat' first
    | with_reducible assumption
    | lift_lets
    | (with_reducible refine goes_contStep _ _ ?_ ?_; exact subT rfl hW)
    | (with_reducible refine Goes.ite ?_ ?_)
    | split

theorem goes_contHold {W : List Part} {s0 : State} (s : State) (m : Master) (v : Word) (hW : subParts [.regs, .out, .fsw, .pba] W = true) (hg : Goes W s0 s) : Goes W s0 (State.contHold s m v) := by
  unfold State.contHold
  repeat' first
    | with_reducible assumption
    | lift_lets
    | (with_reducible refine goes_wr _ _ _ ?_ ?_; exact subT rfl hW)
    | (with_reducible refine goes_wb _ _ _ _ ?_ ?_; exact subT rfl hW)
    | (with_reducible refine goes_err _ _ _ _ _ ?_ ?_; exact subT rfl hW)
    | (with_reducible refine goes_contFollow _ ?_ ?_; exact subT rfl hW)
    | (with_reducible refine Goes.ite ?_ ?_)

theorem goes_execContHoldWrite {W : List Part} {s0 : State} (m : Master) (v : Word) (s : State) (hW : subParts [.regs, .out, .resp, .fsw, .host, .pba] W = true) (hg : Goes W s0 s) : ∀ t0, execContHoldWrite m v s = .next t0 → Goes W s0 t0 := by
  unfold execContHoldWrite
  intro t0 e0
  obtain rfl := Host.Outcome.next.inj e0
  clear e0
  repeat' first
    | with_reducible assumption
    | lift_lets
    | (with_reducible refine goes_answer _ _ ?_ ?_; exact subT rfl hW)
    | (with_reducible refine goes_writeAt _ _ _ _ _ _ ?_ (fun _ _ => ?_) ?_; exact subT rfl hW)
    | (with_reducible refine goes_contHold _ _ _ ?_ ?_; exact subT rfl hW)

theorem goes_fswIrq {W : List Part} {s0 : State} (s : State) (i : Nat) (hW : subParts [.regs, .out, .pba] W = true) (hg : Goes W s0 s) : Goes W s0 (State.fswIrq s i) := by
  unfold State.fswIrq
  repeat' first
    | with_reducible assumption
    | lift_lets
    | (with_reducible refine goes_irq _ _ _ ?_ ?_; exact subT rfl hW)
    | (with_reducible refine Goes.ite ?_ ?_)

theorem goes_execContFault {W : List Part} {s0 : State} (output : Fin 6) (s : State) (hW : subParts [.regs, .out, .fsw, .pba] W = true) (hg : Goes W s0 s) : ∀ t0, execContFault output s = .next t0 → Goes W s0 t0 := by
  unfold execContFault
  intro t0 e0
  obtain rfl := Host.Outcome.next.inj e0
  clear e0
  repeat' first
    | with_reducible assumption
    | intro x
    | lift_lets
    | (with_reducible refine goes_setCont _ _ _ ?_ ?_; exact subT rfl hW)
    | (with_reducible refine goes_fswIrq _ _ ?_ ?_; exact subT rfl hW)
    | (fail_if_no_progress (with_reducible refine goes_set_fsw _ _ ?_ ?_; exact subT rfl hW))

theorem goes_contClr {W : List Part} {s0 : State} (s : State) (hW : subParts [.regs, .out, .fsw, .pba] W = true) (hg : Goes W s0 s) : Goes W s0 (State.contClr s) := by
  unfold State.contClr
  repeat' first
    | with_reducible assumption
    | intro x
    | lift_lets
    | (with_reducible refine goes_contFollow _ ?_ ?_; exact subT rfl hW)
    | (fail_if_no_progress (with_reducible refine goes_set_fsw _ _ ?_ ?_; exact subT rfl hW))

theorem goes_execContClrFault {W : List Part} {s0 : State} (m : Master) (s : State) (hW : subParts [.regs, .out, .resp, .fsw, .host, .pba] W = true) (hg : Goes W s0 s) : ∀ t0, execContClrFault m s = .next t0 → Goes W s0 t0 := by
  unfold execContClrFault
  intro t0 e0
  obtain rfl := Host.Outcome.next.inj e0
  clear e0
  repeat' first
    | with_reducible assumption
    | lift_lets
    | (with_reducible refine goes_answer _ _ ?_ ?_; exact subT rfl hW)
    | (with_reducible refine goes_writeAt _ _ _ _ _ _ ?_ (fun _ _ => ?_) ?_; exact subT rfl hW)
    | (with_reducible refine goes_contClr _ ?_ ?_; exact subT rfl hW)

theorem goes_coilDown {W : List Part} {s0 : State} (s : State) (hW : subParts [.regs, .out, .fsw, .pba] W = true) (hg : Goes W s0 s) : Goes W s0 (State.coilDown s) := by
  unfold State.coilDown
  repeat' first
    | with_reducible assumption
    | (intro x; refine Goes.cut (W := W) (s0 := s0) (x := x) ?_ ?_; rotate_left; clear_value x; intro hx; rotate_right)
    | intro x
    | lift_lets
    | (with_reducible refine goes_wb _ _ _ _ ?_ ?_; exact subT rfl hW)
    | (with_reducible refine goes_setCont _ _ _ ?_ ?_; exact subT rfl hW)
    | (with_reducible refine goes_contIdle _ ?_ ?_; exact subT rfl hW)
    | (with_reducible refine goes_fswIrq _ _ ?_ ?_; exact subT rfl hW)
    | (refine Goes.foldl (fun _ _ _ => ?_) ?_)
    | (fail_if_no_progress (with_reducible refine goes_set_fsw _ _ ?_ ?_; exact subT rfl hW))

theorem goes_coilAt {W : List Part} {s0 : State} (s : State) (mv : Nat) (hW : subParts [.regs, .out, .fsw, .pba] W = true) (hg : Goes W s0 s) : Goes W s0 (State.coilAt s mv) := by
  unfold State.coilAt
  repeat' first
    | with_reducible assumption
    | (intro x; refine Goes.cut (W := W) (s0 := s0) (x := x) ?_ ?_; rotate_left; clear_value x; intro hx; rotate_right)
    | intro x
    | lift_lets
    | (with_reducible refine goes_contFollow _ ?_ ?_; exact subT rfl hW)
    | (with_reducible refine goes_coilDown _ ?_ ?_; exact subT rfl hW)
    | (with_reducible refine Goes.ite ?_ ?_)
    | (fail_if_no_progress (with_reducible refine goes_set_fsw _ _ ?_ ?_; exact subT rfl hW))

theorem goes_execCoilLost {W : List Part} {s0 : State} (coilMv : Nat) (s : State) (hW : subParts [.regs, .out, .fsw, .pba] W = true) (hg : Goes W s0 s) : ∀ t0, execCoilLost coilMv s = .next t0 → Goes W s0 t0 := by
  unfold execCoilLost
  intro t0 e0
  obtain rfl := Host.Outcome.next.inj e0
  clear e0
  repeat' first
    | with_reducible assumption
    | (with_reducible refine goes_coilAt _ _ ?_ ?_; exact subT rfl hW)

theorem goes_execCoilReturn {W : List Part} {s0 : State} (coilMv : Nat) (s : State) (hW : subParts [.regs, .out, .fsw, .pba] W = true) (hg : Goes W s0 s) : ∀ t0, execCoilReturn coilMv s = .next t0 → Goes W s0 t0 := by
  unfold execCoilReturn
  intro t0 e0
  obtain rfl := Host.Outcome.next.inj e0
  clear e0
  repeat' first
    | with_reducible assumption
    | (with_reducible refine goes_coilAt _ _ ?_ ?_; exact subT rfl hW)

theorem goes_seqWrite {W : List Part} {s0 : State} (s : State) (lit : Bool) (hW : subParts [.regs, .out, .fsw, .pba] W = true) (hg : Goes W s0 s) : Goes W s0 (State.seqWrite s lit) := by
  unfold State.seqWrite
  repeat' first
    | with_reducible assumption
    | lift_lets
    | (with_reducible refine goes_wf _ _ _ _ _ ?_ ?_; exact subT rfl hW)
    | (with_reducible refine goes_contFollow _ ?_ ?_; exact subT rfl hW)
    | (with_reducible refine Goes.ite ?_ ?_)

theorem goes_execPhotoSteady {W : List Part} {s0 : State} (s : State) (hW : subParts [.regs, .out, .lvl, .fsw, .port, .pba] W = true) (hg : Goes W s0 s) : ∀ t0, execPhotoSteady s = .next t0 → Goes W s0 t0 := by
  unfold execPhotoSteady
  intro t0 e0
  obtain rfl := Host.Outcome.next.inj e0
  clear e0
  repeat' first
    | with_reducible assumption
    | (intro x; refine Goes.cut (W := W) (s0 := s0) (x := x) ?_ ?_; rotate_left; clear_value x; intro hx; rotate_right)
    | intro x
    | lift_lets
    | (with_reducible refine goes_noSchedule _ ?_ ?_; exact subT rfl hW)
    | (with_reducible refine goes_drvDefaults _ _ ?_ ?_; exact subT rfl hW)
    | (with_reducible refine goes_seqWrite _ _ ?_ ?_; exact subT rfl hW)
    | (with_reducible refine Goes.ite ?_ ?_)
    | split
    | (fail_if_no_progress (with_reducible refine goes_set_fsw _ _ ?_ ?_; exact subT rfl hW))

theorem goes_photoAt {W : List Part} {s0 : State} (s : State) (v : Nat) (hW : subParts [.regs, .out, .fsw, .pba] W = true) (hg : Goes W s0 s) : Goes W s0 (State.photoAt s v) := by
  unfold State.photoAt
  repeat' first
    | with_reducible assumption
    | (intro x; refine Goes.cut (W := W) (s0 := s0) (x := x) ?_ ?_; rotate_left; clear_value x; intro hx; rotate_right)
    | intro x
    | lift_lets
    | (with_reducible refine goes_fswIrq _ _ ?_ ?_; exact subT rfl hW)
    | (with_reducible refine Goes.ite ?_ ?_)
    | (fail_if_no_progress (with_reducible refine goes_set_fsw _ _ ?_ ?_; exact subT rfl hW))

theorem goes_execPhotoChange {W : List Part} {s0 : State} (decivolts : Nat) (s : State) (hW : subParts [.regs, .out, .fsw, .pba] W = true) (hg : Goes W s0 s) : ∀ t0, execPhotoChange decivolts s = .next t0 → Goes W s0 t0 := by
  unfold execPhotoChange
  intro t0 e0
  obtain rfl := Host.Outcome.next.inj e0
  clear e0
  repeat' first
    | with_reducible assumption
    | (with_reducible refine goes_photoAt _ _ ?_ ?_; exact subT rfl hW)

theorem goes_execStatChange {W : List Part} {s0 : State} (input : Fin 8) (on : Bool) (s : State) (hW : subParts [.regs, .out, .fsw, .pba] W = true) (hg : Goes W s0 s) : ∀ t0, execStatChange input on s = .next t0 → Goes W s0 t0 := by
  unfold execStatChange
  intro t0 e0
  obtain rfl := Host.Outcome.next.inj e0
  clear e0
  repeat' first
    | with_reducible assumption
    | intro x
    | lift_lets
    | (with_reducible refine goes_irq _ _ _ ?_ ?_; exact subT rfl hW)
    | (with_reducible refine Goes.ite ?_ ?_)
    | (fail_if_no_progress (with_reducible refine goes_set_fsw _ _ ?_ ?_; exact subT rfl hW))

theorem goes_tableEdge {W : List Part} {s0 : State} (s : State) (hW : subParts [.regs, .cor] W = true) (hg : Goes W s0 s) : Goes W s0 (State.tableEdge s) := by
  unfold State.tableEdge
  repeat' first
    | with_reducible assumption
    | (intro x; refine Goes.cut (W := W) (s0 := s0) (x := x) ?_ ?_; rotate_left; clear_value x; intro hx; rotate_right)
    | intro x
    | lift_lets
    | (with_reducible refine goes_wr _ _ _ ?_ ?_; exact subT rfl hW)
    | (with_reducible refine goes_wb _ _ _ _ ?_ ?_; exact subT rfl hW)
    | (with_reducible refine Goes.ite ?_ ?_)
    | (refine Goes.foldl (fun _ _ _ => ?_) ?_)
    | (fail_if_no_progress (with_reducible refine goes_set_cor _ _ ?_ ?_; exact subT rfl hW))

theorem goes_fswWrite {W : List Part} {s0 : State} (s : State) (m : Master) (off : Nat) (v : Word) (hW : subParts [.regs, .out, .fsw, .pba] W = true) (hg : Goes W s0 s) : GoesO W s0 (State.fswWrite s m off v) := by
  unfold State.fswWrite
  repeat' first
    | with_reducible assumption
    | (intro x; refine Goes.cut (W := W) (s0 := s0) (x := x) ?_ ?_; rotate_left; clear_value x; intro hx; rotate_right)
    | lift_lets
    | (with_reducible refine goes_wr _ _ _ ?_ ?_; exact subT rfl hW)
    | (with_reducible refine goes_err _ _ _ _ _ ?_ ?_; exact subT rfl hW)
    | (with_reducible refine goes_contHold _ _ _ ?_ ?_; exact subT rfl hW)
    | (with_reducible refine goes_contClr _ ?_ ?_; exact subT rfl hW)
    | (with_reducible refine goes_photoAt _ _ ?_ ?_; exact subT rfl hW)
    | (refine GoesO.some ?_)
    | exact GoesO.none
    | (with_reducible refine Goes.ite ?_ ?_)
    | (with_reducible refine GoesO.ite ?_ ?_)

theorem goes_fswDisable {W : List Part} {s0 : State} (s : State) (hW : subParts [.regs, .out, .pba] W = true) (hg : Goes W s0 s) : Goes W s0 (State.fswDisable s) := by
  unfold State.fswDisable
  repeat' first
    | with_reducible assumption
    | lift_lets
    | (with_reducible refine goes_wb _ _ _ _ ?_ ?_; exact subT rfl hW)
    | (with_reducible refine goes_setDrained _ _ ?_ ?_; exact subT rfl hW)
    | (with_reducible refine Goes.ite ?_ ?_)

theorem goes_pfailOn {W : List Part} {s0 : State} (s : State) (hW : subParts [.regs, .out, .free, .ldg, .nvs, .scl, .pba] W = true) (hg : Goes W s0 s) : Goes W s0 (State.pfailOn s) := by
  unfold State.pfailOn
  repeat' first
    | with_reducible assumption
    | (intro x; refine Goes.cut (W := W) (s0 := s0) (x := x) ?_ ?_; rotate_left; clear_value x; intro hx; rotate_right)
    | lift_lets
    | (with_reducible refine goes_wb _ _ _ _ ?_ ?_; exact subT rfl hW)
    | (with_reducible refine goes_bumpSat _ _ _ ?_ ?_; exact subT rfl hW)
    | (with_reducible refine goes_emit _ _ ?_ ?_; exact subT rfl hW)
    | (with_reducible refine goes_irq _ _ _ ?_ ?_; exact subT rfl hW)
    | (with_reducible refine goes_saveSeries _ ?_ ?_; exact subT rfl hW)
    | (with_reducible refine goes_ldgSave _ ?_ ?_; exact subT rfl hW)
    | (with_reducible refine goes_sclTail _ ?_ ?_; exact subT rfl hW)
    | (with_reducible refine Goes.ite ?_ ?_)

theorem goes_execPfail {W : List Part} {s0 : State} (vinMv : Nat) (s : State) (hW : subParts [.regs, .out, .free, .ldg, .nvs, .scl, .pba] W = true) (hg : Goes W s0 s) : ∀ t0, execPfail vinMv s = .next t0 → Goes W s0 t0 := by
  unfold execPfail
  intro t0 e0
  obtain rfl := Host.Outcome.next.inj e0
  clear e0
  repeat' first
    | with_reducible assumption
    | (intro x; refine Goes.cut (W := W) (s0 := s0) (x := x) ?_ ?_; rotate_left; clear_value x; intro hx; rotate_right)
    | lift_lets
    | (with_reducible refine goes_wr _ _ _ ?_ ?_; exact subT rfl hW)
    | (with_reducible refine goes_draw _ _ ?_ ?_; exact subT rfl hW)
    | (with_reducible refine goes_pfailOn _ ?_ ?_; exact subT rfl hW)
    | (with_reducible refine Goes.ite ?_ ?_)

theorem goes_execPfailEnd {W : List Part} {s0 : State} (vinMv : Nat) (s : State) (hW : subParts [.regs, .out, .free, .pba] W = true) (hg : Goes W s0 s) : ∀ t0, execPfailEnd vinMv s = .next t0 → Goes W s0 t0 := by
  unfold execPfailEnd
  intro t0 e0
  obtain rfl := Host.Outcome.next.inj e0
  clear e0
  repeat' first
    | with_reducible assumption
    | (intro x; refine Goes.cut (W := W) (s0 := s0) (x := x) ?_ ?_; rotate_left; clear_value x; intro hx; rotate_right)
    | lift_lets
    | (with_reducible refine goes_wr _ _ _ ?_ ?_; exact subT rfl hW)
    | (with_reducible refine goes_wb _ _ _ _ ?_ ?_; exact subT rfl hW)
    | (with_reducible refine goes_emit _ _ ?_ ?_; exact subT rfl hW)
    | (with_reducible refine goes_draw _ _ ?_ ?_; exact subT rfl hW)
    | (with_reducible refine goes_irq _ _ _ ?_ ?_; exact subT rfl hW)
    | (with_reducible refine Goes.ite ?_ ?_)

theorem goes_setTemp {W : List Part} {s0 : State} (s : State) (sensor : Nat) (t : Int) (hW : subParts [.regs] W = true) (hg : Goes W s0 s) : Goes W s0 (State.setTemp s sensor t) := by
  unfold State.setTemp
  repeat' first
    | with_reducible assumption
    | lift_lets
    | (with_reducible refine goes_wr _ _ _ ?_ ?_; exact subT rfl hW)
    | (with_reducible refine Goes.ite ?_ ?_)

theorem goes_tempAt {W : List Part} {s0 : State} (s : State) (sensor : Nat) (t : Int) (hW : subParts [.regs, .out, .pba] W = true) (hg : Goes W s0 s) : Goes W s0 (State.tempAt s sensor t) := by
  unfold State.tempAt
  repeat' first
    | with_reducible assumption
    | (intro x; refine Goes.cut (W := W) (s0 := s0) (x := x) ?_ ?_; rotate_left; clear_value x; intro hx; rotate_right)
    | lift_lets
    | (with_reducible refine goes_irq _ _ _ ?_ ?_; exact subT rfl hW)
    | (with_reducible refine goes_setTemp _ _ _ ?_ ?_; exact subT rfl hW)
    | (with_reducible refine Goes.ite ?_ ?_)

theorem goes_execTempWarning {W : List Part} {s0 : State} (sensor : Nat) (tempDeciC : Int) (s : State) (hW : subParts [.regs, .out, .pba] W = true) (hg : Goes W s0 s) : ∀ t0, execTempWarning sensor tempDeciC s = .next t0 → Goes W s0 t0 := by
  unfold execTempWarning
  intro t0 e0
  obtain rfl := Host.Outcome.next.inj e0
  clear e0
  repeat' first
    | with_reducible assumption
    | (with_reducible refine goes_tempAt _ _ _ ?_ ?_; exact subT rfl hW)

theorem goes_pwrWrite {W : List Part} {s0 : State} (s : State) (m : Master) (off : Nat) (v : Word) (hW : subParts [.regs, .out, .pba] W = true) (hg : Goes W s0 s) : GoesO W s0 (State.pwrWrite s m off v) := by
  unfold State.pwrWrite
  repeat' first
    | with_reducible assumption
    | lift_lets
    | (with_reducible refine goes_err _ _ _ _ _ ?_ ?_; exact subT rfl hW)
    | (refine GoesO.some ?_)
    | exact GoesO.none
    | (with_reducible refine GoesO.ite ?_ ?_)

end Sys2Proof.Machine
end

