-- ==== Sys2Proof/Laws/GoesUpdate.lean ====
section
/-! SUPPORT. What the operations of Machine/Update.lean can change: one lemma each. -/

set_option linter.unreachableTactic false
set_option linter.unusedTactic false

namespace Sys2Proof.Machine

open Sys2Proof

theorem goes_setUpd {W : List Part} {s0 : State} (s : State) (x : UpdSt) (hW : subParts [.upd] W = true) (hg : Goes W s0 s) : Goes W s0 (State.setUpd s x) := by
  unfold State.setUpd
  repeat' first
    | with_reducible assumption
    | intro x
    | lift_lets
    | (fail_if_no_progress (with_reducible refine goes_set_upd _ _ ?_ ?_; exact subT rfl hW))

theorem goes_updCmd {W : List Part} {s0 : State} (s : State) (opc : Nat) (tag : Word) (ok : Cmd → State → Bool) (f : Cmd → State → State)
    (hW : subParts [.regs, .out, .mbx, .ldg, .vlt, .pba] W = true) (hf : ∀ c t, Goes W s0 t → Goes W s0 (f c t)) (h : Goes W s0 s) : Goes W s0 (s.updCmd opc tag ok f) := by
  unfold State.updCmd
  refine goes_withCmd _ _ _ _ (subT rfl hW) (fun c t ht => goes_withCo _ _ _ (subT rfl hW) (fun u hu => ?_) ht) h
  split
  · exact goes_reply _ _ _ _ _ (subT rfl hW) hu
  · split
    · exact hf _ _ hu
    · exact goes_reply _ _ _ _ _ (subT rfl hW) (goes_err _ _ _ _ _ (subT rfl hW) hu)

theorem goes_execUpdBegin {W : List Part} {s0 : State} (tag : Word) (s : State) (hW : subParts [.regs, .out, .mbx, .ldg, .vlt, .upd, .pba] W = true) (hg : Goes W s0 s) : ∀ t0, execUpdBegin tag s = .next t0 → Goes W s0 t0 := by
  unfold execUpdBegin
  intro t0 e0
  obtain rfl := Host.Outcome.next.inj e0
  clear e0
  repeat' first
    | with_reducible assumption
    | (intro x; refine Goes.cut (W := W) (s0 := s0) (x := x) ?_ ?_; rotate_left; clear_value x; intro hx; rotate_right)
    | intro x
    | lift_lets
    | (with_reducible refine goes_reply _ _ _ _ _ ?_ ?_; exact subT rfl hW)
    | (with_reducible refine goes_updCmd _ _ _ _ _ ?_ (fun _ _ _ => ?_) ?_; exact subT rfl hW)
    | (with_reducible refine Goes.ite ?_ ?_)
    | (fail_if_no_progress (with_reducible refine goes_set_upd _ _ ?_ ?_; exact subT rfl hW))

theorem goes_storeBlock {W : List Part} {s0 : State} (s : State) (off : Nat) (d : Bytes) (hW : subParts [.regs, .out, .emc, .upd, .pba] W = true) (hg : Goes W s0 s) : Goes W s0 (State.storeBlock s off d) := by
  unfold State.storeBlock
  repeat' first
    | with_reducible assumption
    | intro x
    | lift_lets
    | (with_reducible refine goes_irq _ _ _ ?_ ?_; exact subT rfl hW)
    | (with_reducible refine goes_setUpd _ _ ?_ ?_; exact subT rfl hW)
    | (with_reducible refine Goes.ite ?_ ?_)
    | (fail_if_no_progress (apply Goes.upd [.emc, .upd]; dsimp only; exact subT rfl hW; (intro p hp; cases p <;> first | rfl | simp at hp); first | exact fun c => c | exact fun c => ⟨c.1, c.2.1, c.2.2.1, c.2.2.2.1, c.2.2.2.2.1, memWrite_wf _ _ _ c.2.2.2.2.2.1, c.2.2.2.2.2.2⟩))
    | (dsimp +zetaDelta only)

theorem goes_execUpdBlock {W : List Part} {s0 : State} (tag : Word) (s : State) (hW : subParts [.regs, .out, .mbx, .ldg, .emc, .vlt, .upd, .pba] W = true) (hg : Goes W s0 s) : ∀ t0, execUpdBlock tag s = .next t0 → Goes W s0 t0 := by
  unfold execUpdBlock
  intro t0 e0
  obtain rfl := Host.Outcome.next.inj e0
  clear e0
  repeat' first
    | with_reducible assumption
    | lift_lets
    | (with_reducible refine goes_err _ _ _ _ _ ?_ ?_; exact subT rfl hW)
    | (with_reducible refine goes_reply _ _ _ _ _ ?_ ?_; exact subT rfl hW)
    | (with_reducible refine goes_setUpd _ _ ?_ ?_; exact subT rfl hW)
    | (with_reducible refine goes_updCmd _ _ _ _ _ ?_ (fun _ _ _ => ?_) ?_; exact subT rfl hW)
    | (with_reducible refine goes_storeBlock _ _ _ ?_ ?_; exact subT rfl hW)
    | (with_reducible refine Goes.ite ?_ ?_)

theorem goes_execUpdStatus {W : List Part} {s0 : State} (tag : Word) (s : State) (hW : subParts [.regs, .out, .mbx, .ldg, .pba] W = true) (hg : Goes W s0 s) : ∀ t0, execUpdStatus tag s = .next t0 → Goes W s0 t0 := by
  unfold execUpdStatus
  intro t0 e0
  obtain rfl := Host.Outcome.next.inj e0
  clear e0
  repeat' first
    | with_reducible assumption
    | lift_lets
    | (with_reducible refine goes_reply _ _ _ _ _ ?_ ?_; exact subT rfl hW)
    | (with_reducible refine goes_withCmd _ _ _ _ ?_ (fun _ _ _ => ?_) ?_; exact subT rfl hW)

theorem goes_execUpdApply {W : List Part} {s0 : State} (tag : Word) (s : State) (hW : subParts [.regs, .out, .mbx, .ldg, .vlt, .upd, .pba] W = true) (hg : Goes W s0 s) : ∀ t0, execUpdApply tag s = .next t0 → Goes W s0 t0 := by
  unfold execUpdApply
  intro t0 e0
  obtain rfl := Host.Outcome.next.inj e0
  clear e0
  repeat' first
    | with_reducible assumption
    | lift_lets
    | (with_reducible refine goes_defer _ _ ?_ ?_; exact subT rfl hW)
    | (with_reducible refine goes_setUpd _ _ ?_ ?_; exact subT rfl hW)
    | (with_reducible refine goes_updCmd _ _ _ _ _ ?_ (fun _ _ _ => ?_) ?_; exact subT rfl hW)

theorem goes_execApplyDone {W : List Part} {s0 : State} (emmcErrAt : Option Nat) (s : State) (hW : subParts [.regs, .out, .mbx, .emc, .upd, .pba] W = true) (hg : Goes W s0 s) : ∀ t0, execApplyDone emmcErrAt s = .next t0 → Goes W s0 t0 := by
  unfold execApplyDone
  intro t0 e0
  obtain rfl := Host.Outcome.next.inj e0
  clear e0
  repeat' first
    | with_reducible assumption
    | (intro x; refine Goes.cut (W := W) (s0 := s0) (x := x) ?_ ?_; rotate_left; clear_value x; intro hx; rotate_right)
    | intro x
    | lift_lets
    | (with_reducible refine goes_irq _ _ _ ?_ ?_; exact subT rfl hW)
    | (with_reducible refine goes_reply _ _ _ _ _ ?_ ?_; exact subT rfl hW)
    | (with_reducible refine goes_setUpd _ _ ?_ ?_; exact subT rfl hW)
    | (with_reducible refine Goes.ite ?_ ?_)
    | split
    | (fail_if_no_progress (with_reducible refine goes_set_upd _ _ ?_ ?_; exact subT rfl hW))
    | (fail_if_no_progress (apply Goes.upd [.emc, .upd]; dsimp only; exact subT rfl hW; (intro p hp; cases p <;> first | rfl | simp at hp); first | exact fun c => c | exact fun c => ⟨c.1, c.2.1, c.2.2.1, c.2.2.2.1, c.2.2.2.2.1, memWrite_wf _ _ _ c.2.2.2.2.2.1, c.2.2.2.2.2.2⟩))
    | (dsimp +zetaDelta only)

theorem goes_execUpdCommit {W : List Part} {s0 : State} (tag : Word) (s : State) (hW : subParts [.regs, .out, .mbx, .ldg, .vlt, .upd, .pba] W = true) (hg : Goes W s0 s) : ∀ t0, execUpdCommit tag s = .next t0 → Goes W s0 t0 := by
  unfold execUpdCommit
  intro t0 e0
  obtain rfl := Host.Outcome.next.inj e0
  clear e0
  repeat' first
    | with_reducible assumption
    | intro x
    | lift_lets
    | (with_reducible refine goes_defer _ _ ?_ ?_; exact subT rfl hW)
    | (with_reducible refine goes_updCmd _ _ _ _ _ ?_ (fun _ _ _ => ?_) ?_; exact subT rfl hW)
    | (fail_if_no_progress (with_reducible refine goes_set_upd _ _ ?_ ?_; exact subT rfl hW))

theorem goes_execCopyDone {W : List Part} {s0 : State} (c : DWord) (s : State) (hW : subParts [.regs, .out, .cnt, .mbx, .emc, .upd, .pba] W = true) (hg : Goes W s0 s) : ∀ t0, execCopyDone c s = .next t0 → Goes W s0 t0 := by
  unfold execCopyDone
  intro t0 e0
  obtain rfl := Host.Outcome.next.inj e0
  clear e0
  repeat' first
    | with_reducible assumption
    | (intro x; refine Goes.cut (W := W) (s0 := s0) (x := x) ?_ ?_; rotate_left; clear_value x; intro hx; rotate_right)
    | intro x
    | lift_lets
    | (with_reducible refine goes_irq _ _ _ ?_ ?_; exact subT rfl hW)
    | (with_reducible refine goes_setDrained _ _ ?_ ?_; exact subT rfl hW)
    | (with_reducible refine goes_at _ _ ?_ ?_; exact subT rfl hW)
    | (with_reducible refine goes_reply _ _ _ _ _ ?_ ?_; exact subT rfl hW)
    | (with_reducible refine goes_bootWrite _ _ _ ?_ ?_; exact subT rfl hW)
    | (with_reducible refine Goes.ite ?_ ?_)
    | split
    | (fail_if_no_progress (with_reducible refine goes_set_upd _ _ ?_ ?_; exact subT rfl hW))
    | (dsimp +zetaDelta only)

theorem goes_execUpdAbort {W : List Part} {s0 : State} (tag : Word) (s : State) (hW : subParts [.regs, .out, .mbx, .ldg, .vlt, .upd, .pba] W = true) (hg : Goes W s0 s) : ∀ t0, execUpdAbort tag s = .next t0 → Goes W s0 t0 := by
  unfold execUpdAbort
  intro t0 e0
  obtain rfl := Host.Outcome.next.inj e0
  clear e0
  repeat' first
    | with_reducible assumption
    | intro x
    | lift_lets
    | (with_reducible refine goes_reply _ _ _ _ _ ?_ ?_; exact subT rfl hW)
    | (with_reducible refine goes_updCmd _ _ _ _ _ ?_ (fun _ _ _ => ?_) ?_; exact subT rfl hW)
    | (fail_if_no_progress (with_reducible refine goes_set_upd _ _ ?_ ?_; exact subT rfl hW))

theorem goes_execSettingsArchiveRead {W : List Part} {s0 : State} (tag : Word) (s : State) (hW : subParts [.regs, .out, .mbx, .ldg, .pba] W = true) (hg : Goes W s0 s) : ∀ t0, execSettingsArchiveRead tag s = .next t0 → Goes W s0 t0 := by
  unfold execSettingsArchiveRead
  intro t0 e0
  obtain rfl := Host.Outcome.next.inj e0
  clear e0
  repeat' first
    | with_reducible assumption
    | lift_lets
    | (with_reducible refine goes_reply _ _ _ _ _ ?_ ?_; exact subT rfl hW)
    | (with_reducible refine goes_withCmd _ _ _ _ ?_ (fun _ _ _ => ?_) ?_; exact subT rfl hW)
    | split

theorem goes_forgetGroup {W : List Part} {s0 : State} (s : State) (g : Nat) (hW : subParts [.regs, .ldg, .net, .lvl, .ibg, .fov] W = true) (hg : Goes W s0 s) : Goes W s0 (State.forgetGroup s g) := by
  unfold State.forgetGroup
  repeat' first
    | with_reducible assumption
    | intro x
    | lift_lets
    | (with_reducible refine goes_wr _ _ _ ?_ ?_; exact subT rfl hW)
    | (with_reducible refine Goes.ite ?_ ?_)
    | (fail_if_no_progress (with_reducible refine goes_set_ldg _ _ ?_ ?_; exact subT rfl hW))
    | (fail_if_no_progress (with_reducible refine goes_set_lvl _ _ ?_ ?_; exact subT rfl hW))
    | (fail_if_no_progress (with_reducible refine goes_set_net _ _ ?_ ?_; exact subT rfl hW))
    | (fail_if_no_progress (apply Goes.upd [.ldg, .net, .lvl, .ibg, .fov]; dsimp only; exact subT rfl hW; (intro p hp; cases p <;> first | rfl | simp at hp); exact fun c => c))

theorem goes_startRecord {W : List Part} {s0 : State} (s : State) (code : Nat) (sev : Nat) (src : Nat) (p0 : Nat) (p1 : Nat) (p2 : Nat) (hW : subParts [.regs, .out, .ldg, .boot, .pba] W = true) (hg : Goes W s0 s) : Goes W s0 (State.startRecord s code sev src p0 p1 p2) := by
  unfold State.startRecord
  repeat' first
    | with_reducible assumption
    | intro x
    | lift_lets
    | (with_reducible refine goes_ledger _ _ _ _ _ _ _ ?_ ?_; exact subT rfl hW)
    | (with_reducible refine Goes.ite ?_ ?_)
    | (fail_if_no_progress (with_reducible refine goes_set_boot _ _ ?_ ?_; exact subT rfl hW))

theorem goes_resetGroup {W : List Part} {s0 : State} (s : State) (g new : Nat) (hW : subParts [.regs, .out, .ldg, .nvs, .emc, .boot, .net, .lvl, .ibg, .fov, .upd, .pba] W = true) (hg : Goes W s0 s) : Goes W s0 (s.resetGroup g new) := by
  unfold State.resetGroup
  generalize setArchive + groupLen * g = ad, memRead s.nvs.mem (groupAddr g) groupLen = b
  extract_lets old bb e u t
  have ht : Goes W s0 t := by
    refine Goes.upd (b := s) [.emc, .upd] rfl (subT rfl hW) (by intro p hp; cases p <;> first | exact absurd (by decide) hp | rfl) (fun c => ?_) hg
    exact ⟨c.1, c.2.1, c.2.2.1, c.2.2.2.1, c.2.2.2.2.1, memWrite_wf _ _ _ c.2.2.2.2.2.1, c.2.2.2.2.2.2⟩
  clear_value t
  with_reducible refine goes_startRecord _ _ _ _ _ _ _ ?_ (goes_forgetGroup _ _ ?_ (goes_nvsWrite _ _ _ _ ?_ ht))
  all_goals exact subT rfl hW

theorem goes_settingsReset {W : List Part} {s0 : State} (s : State) (hW : subParts [.regs, .out, .ldg, .nvs, .emc, .boot, .net, .lvl, .ibg, .fov, .upd, .pba] W = true) (hg : Goes W s0 s) : Goes W s0 (State.settingsReset s) := by
  unfold State.settingsReset
  repeat' first
    | with_reducible assumption
    | intro x
    | lift_lets
    | (with_reducible refine goes_resetGroup _ _ _ ?_ ?_; exact subT rfl hW)
    | (with_reducible refine Goes.ite ?_ ?_)
    | (refine Goes.foldl (fun _ _ _ => ?_) ?_)

theorem goes_execSettingsReset {W : List Part} {s0 : State} (s : State) (hW : subParts [.regs, .out, .ldg, .nvs, .emc, .boot, .net, .lvl, .ibg, .fov, .upd, .pba] W = true) (hg : Goes W s0 s) : ∀ t0, execSettingsReset s = .next t0 → Goes W s0 t0 := by
  unfold execSettingsReset
  intro t0 e0
  obtain rfl := Host.Outcome.next.inj e0
  clear e0
  repeat' first
    | with_reducible assumption
    | lift_lets
    | (with_reducible refine goes_settingsReset _ ?_ ?_; exact subT rfl hW)
    | (with_reducible refine Goes.ite ?_ ?_)

theorem goes_execUpdBooted {W : List Part} {s0 : State} (s : State) (hW : subParts [.regs, .out, .mbx, .ldg, .upd, .pba] W = true) (hg : Goes W s0 s) : ∀ t0, execUpdBooted s = .next t0 → Goes W s0 t0 := by
  unfold execUpdBooted
  intro t0 e0
  obtain rfl := Host.Outcome.next.inj e0
  clear e0
  repeat' first
    | with_reducible assumption
    | (intro x; refine Goes.cut (W := W) (s0 := s0) (x := x) ?_ ?_; rotate_left; clear_value x; intro hx; rotate_right)
    | intro x
    | lift_lets
    | (with_reducible refine goes_ledger _ _ _ _ _ _ _ ?_ ?_; exact subT rfl hW)
    | (with_reducible refine goes_event _ _ _ _ ?_ ?_; exact subT rfl hW)
    | (with_reducible refine Goes.ite ?_ ?_)
    | (fail_if_no_progress (with_reducible refine goes_set_upd _ _ ?_ ?_; exact subT rfl hW))

theorem goes_updDisable {W : List Part} {s0 : State} (s : State) (hW : subParts [.regs, .out, .mbx, .upd, .pba] W = true) (hg : Goes W s0 s) : Goes W s0 (State.updDisable s) := by
  unfold State.updDisable
  repeat' first
    | with_reducible assumption
    | (intro x; refine Goes.cut (W := W) (s0 := s0) (x := x) ?_ ?_; rotate_left; clear_value x; intro hx; rotate_right)
    | lift_lets
    | (with_reducible refine goes_setDrained _ _ ?_ ?_; exact subT rfl hW)
    | (with_reducible refine goes_reply _ _ _ _ _ ?_ ?_; exact subT rfl hW)
    | (with_reducible refine goes_setUpd _ _ ?_ ?_; exact subT rfl hW)
    | split

theorem goes_updStops {W : List Part} {s0 : State} (s : State) (hW : subParts [.upd] W = true) (hg : Goes W s0 s) : Goes W s0 (State.updStops s) := by
  unfold State.updStops
  repeat' first
    | with_reducible assumption
    | (with_reducible refine goes_setUpd _ _ ?_ ?_; exact subT rfl hW)
    | split

theorem goes_updReset {W : List Part} {s0 : State} (s : State) (hW : subParts [.regs, .out, .mbx, .upd, .pba] W = true) (hg : Goes W s0 s) : Goes W s0 (State.updReset s) := by
  unfold State.updReset
  repeat' first
    | with_reducible assumption
    | (intro x; refine Goes.cut (W := W) (s0 := s0) (x := x) ?_ ?_; rotate_left; clear_value x; intro hx; rotate_right)
    | intro x
    | lift_lets
    | (with_reducible refine goes_reply _ _ _ _ _ ?_ ?_; exact subT rfl hW)
    | (with_reducible refine goes_updStops _ ?_ ?_; exact subT rfl hW)
    | split
    | (fail_if_no_progress (with_reducible refine goes_set_upd _ _ ?_ ?_; exact subT rfl hW))
    | (dsimp +zetaDelta only)

theorem goes_execInfo {W : List Part} {s0 : State} (tag : Word) (s : State) (hW : subParts [.regs, .out, .mbx, .ldg, .pba] W = true) (hg : Goes W s0 s) : ∀ t0, execInfo tag s = .next t0 → Goes W s0 t0 := by
  unfold execInfo
  intro t0 e0
  obtain rfl := Host.Outcome.next.inj e0
  clear e0
  repeat' first
    | with_reducible assumption
    | lift_lets
    | (with_reducible refine goes_reply _ _ _ _ _ ?_ ?_; exact subT rfl hW)
    | (with_reducible refine goes_withCmd _ _ _ _ ?_ (fun _ _ _ => ?_) ?_; exact subT rfl hW)

end Sys2Proof.Machine
end

