-- ==== Sys2Proof/Laws/GoesStart.lean ====
section
/-! SUPPORT. What the operations of Machine/Start.lean can change: one lemma each. -/

set_option linter.unreachableTactic false
set_option linter.unusedTactic false

namespace Sys2Proof.Machine

open Sys2Proof

theorem goes_abortHeld {W : List Part} {s0 : State} (l : List Bar2Access) (s : State) (hW : subParts [.out] W = true) (h : Goes W s0 s) : Goes W s0 (abortHeld l s) := by
  induction l generalizing s with
  | nil =>
    unfold abortHeld
    repeat' first
      | assumption
  | cons x r ih =>
    unfold abortHeld
    repeat' first
      | (with_reducible refine ih _ ?_)
      | with_reducible assumption
      | lift_lets
      | (with_reducible refine goes_emit _ _ ?_ ?_; exact subT rfl hW)

theorem goes_gapIo {W : List Part} {s0 : State} (s : State) (warm : Bool) (hW : subParts [.regs, .out, .mbx, .mkt, .que, .chk, .host, .pba] W = true) (hg : Goes W s0 s) : Goes W s0 (State.gapIo s warm) := by
  unfold State.gapIo
  repeat' first
    | with_reducible assumption
    | (intro x; refine Goes.cut (W := W) (s0 := s0) (x := x) ?_ ?_; rotate_left; clear_value x; intro hx; rotate_right)
    | intro x
    | lift_lets
    | (with_reducible refine goes_abortBar0 _ _ ?_ ?_; exact subT rfl hW)
    | (with_reducible refine goes_failTakes _ ?_ ?_; exact subT rfl hW)
    | (with_reducible refine goes_abortHeld _ _ ?_ ?_; exact subT rfl hW)
    | (with_reducible refine Goes.ite ?_ ?_)
    | split
    | (fail_if_no_progress (apply Goes.upd [.mbx, .mkt, .que, .chk, .host, .pba]; dsimp only; exact subT rfl hW; (intro p hp; cases p <;> first | exact absurd (by decide) hp | rfl); first | exact fun c => c | exact fun c => ⟨gapRegs_wf _ _ _ c.1, c.2⟩ | exact fun c => ⟨blkRegs_wf _ _ _ c.1, c.2⟩))

/-- The registers that a start keeps stay canonical. -/
theorem gapRegs_wf (b warm : Bool) (l : Sparse Word) (h : Sparse.wf (regDefault b) l = true) : Sparse.wf (regDefault b) (gapRegs b warm l) = true := by
  refine Sparse.filterMap_wf _ _ _ (fun p q e hp => ?_) h
  split at e
  · cases e
  · split at e
    · cases e
    · cases e
      exact ⟨rfl, by assumption⟩

/-- The registers that a block's reset keeps stay canonical. -/
theorem blkRegs_wf (b : Bool) (k : Blk) (l : Sparse Word) (h : Sparse.wf (regDefault b) l = true) : Sparse.wf (regDefault b) (blkRegs b k l) = true := by
  refine Sparse.filterMap_wf _ _ _ (fun p q e hp => ?_) h
  split at e
  · split at e
    · cases e
    · split at e
      · cases e
      · cases e
        exact ⟨rfl, by assumption⟩
  · cases e
    exact ⟨rfl, hp⟩

theorem goes_gapStores {W : List Part} {s0 : State} (s : State) (warm : Bool) (hW : subParts [.ldg, .mem] W = true) (hg : Goes W s0 s) : Goes W s0 (s.gapStores warm) := by
  unfold State.gapStores
  extract_lets lost t
  have ht : Goes W s0 t := goes_ldgReset _ (subT rfl hW) hg
  refine Goes.upd (b := t) [.mem, .ldg] rfl (subT rfl hW) (by intro p hp; cases p <;> first | rfl | simp at hp) (fun c => ?_) ht
  cases warm
  · exact ⟨c.1, Memory.wf_nil, Memory.wf_nil, Memory.wf_nil, c.2.2.2.2⟩
  · exact ⟨c.1, c.2.1, Memory.wf_nil, Memory.wf_nil, c.2.2.2.2⟩

theorem goes_gapTime {W : List Part} {s0 : State} (s : State) (warm : Bool) (st : Nat) (hW : subParts [.regs, .out, .cnt, .edgeCnt, .netEdge, .mbx, .ldg, .ntm, .pba] W = true) (hg : Goes W s0 s) : Goes W s0 (State.gapTime s warm st) := by
  unfold State.gapTime
  repeat' first
    | with_reducible assumption
    | (intro x; refine Goes.cut (W := W) (s0 := s0) (x := x) ?_ ?_; rotate_left; clear_value x; intro hx; rotate_right)
    | intro x
    | lift_lets
    | (with_reducible refine goes_ntmReset _ _ ?_ ?_; exact subT rfl hW)
    | (with_reducible refine Goes.ite ?_ ?_)
    | (fail_if_no_progress (with_reducible refine goes_set_ntm _ _ ?_ ?_; exact subT rfl hW))
    | (fail_if_no_progress (apply Goes.upd [.cnt, .edgeCnt, .netEdge, .ldg, .ntm]; dsimp only; exact subT rfl hW; (intro p hp; cases p <;> first | exact absurd (by decide) hp | rfl); first | exact fun c => c | exact fun c => ⟨gapRegs_wf _ _ _ c.1, c.2⟩ | exact fun c => ⟨blkRegs_wf _ _ _ c.1, c.2⟩))

theorem goes_gapAir {W : List Part} {s0 : State} (s : State) (hW : subParts [.regs, .out, .rad, .chn, .lnk, .bcn, .net, .pba] W = true) (hg : Goes W s0 s) : Goes W s0 (State.gapAir s) := by
  unfold State.gapAir
  repeat' first
    | with_reducible assumption
    | (intro x; refine Goes.cut (W := W) (s0 := s0) (x := x) ?_ ?_; rotate_left; clear_value x; intro hx; rotate_right)
    | intro x
    | lift_lets
    | (with_reducible refine goes_lnkReset _ ?_ ?_; exact subT rfl hW)
    | split
    | (fail_if_no_progress (apply Goes.upd [.rad, .chn, .bcn, .net]; dsimp only; exact subT rfl hW; (intro p hp; cases p <;> first | exact absurd (by decide) hp | rfl); first | exact fun c => c | exact fun c => ⟨gapRegs_wf _ _ _ c.1, c.2⟩ | exact fun c => ⟨blkRegs_wf _ _ _ c.1, c.2⟩))
    | (dsimp +zetaDelta only)

theorem goes_gapLight {W : List Part} {s0 : State} (s : State) (hW : subParts [.regs, .out, .mbx, .cor, .lvl, .port, .drg, .scl, .nrg, .pba] W = true) (hg : Goes W s0 s) : Goes W s0 (State.gapLight s) := by
  unfold State.gapLight
  repeat' first
    | with_reducible assumption
    | (intro x; refine Goes.cut (W := W) (s0 := s0) (x := x) ?_ ?_; rotate_left; clear_value x; intro hx; rotate_right)
    | intro x
    | lift_lets
    | (with_reducible refine goes_corReset _ ?_ ?_; exact subT rfl hW)
    | (fail_if_no_progress (apply Goes.upd [.lvl, .port, .drg, .scl, .nrg]; dsimp only; exact subT rfl hW; (intro p hp; cases p <;> first | exact absurd (by decide) hp | rfl); first | exact fun c => c | exact fun c => ⟨gapRegs_wf _ _ _ c.1, c.2⟩ | exact fun c => ⟨blkRegs_wf _ _ _ c.1, c.2⟩))

theorem goes_gapRest {W : List Part} {s0 : State} (s : State) (hW : subParts [.out, .pwt, .vlt, .cry, .ibg, .rmc, .fov, .upd] W = true) (hg : Goes W s0 s) : Goes W s0 (State.gapRest s) := by
  unfold State.gapRest
  repeat' first
    | with_reducible assumption
    | (intro x; refine Goes.cut (W := W) (s0 := s0) (x := x) ?_ ?_; rotate_left; clear_value x; intro hx; rotate_right)
    | intro x
    | lift_lets
    | (with_reducible refine goes_ibgReset _ ?_ ?_; exact subT rfl hW)
    | (with_reducible refine goes_fovReset _ ?_ ?_; exact subT rfl hW)
    | (with_reducible refine goes_updStops _ ?_ ?_; exact subT rfl hW)
    | (fail_if_no_progress (apply Goes.upd [.pwt, .vlt, .cry, .ibg, .rmc, .fov, .upd]; dsimp only; exact subT rfl hW; (intro p hp; cases p <;> first | exact absurd (by decide) hp | rfl); exact fun c => c))

theorem goes_gap {W : List Part} {s0 : State} (s : State) (warm : Bool) (hW : subParts [.regs, .out, .cnt, .edgeCnt, .netEdge, .mbx, .mkt, .que, .chk, .ldg, .ntm, .mem, .pwt, .vlt, .cry, .rad, .chn, .lnk, .bcn, .net, .cor, .lvl, .port, .drg, .scl, .nrg, .ibg, .rmc, .fov, .upd, .host, .pba] W = true) (hg : Goes W s0 s) : Goes W s0 (State.gap s warm) := by
  unfold State.gap
  repeat' first
    | with_reducible assumption
    | (intro x; refine Goes.cut (W := W) (s0 := s0) (x := x) ?_ ?_; rotate_left; clear_value x; intro hx; rotate_right)
    | intro x
    | lift_lets
    | (with_reducible refine goes_bump _ _ _ ?_ ?_; exact subT rfl hW)
    | (with_reducible refine goes_gapIo _ _ ?_ ?_; exact subT rfl hW)
    | (with_reducible refine goes_gapStores _ _ ?_ ?_; exact subT rfl hW)
    | (with_reducible refine goes_gapTime _ _ _ ?_ ?_; exact subT rfl hW)
    | (with_reducible refine goes_gapAir _ ?_ ?_; exact subT rfl hW)
    | (with_reducible refine goes_gapLight _ ?_ ?_; exact subT rfl hW)
    | (with_reducible refine goes_gapRest _ ?_ ?_; exact subT rfl hW)
    | (with_reducible refine Goes.ite ?_ ?_)
    | (fail_if_no_progress (apply Goes.upd [.regs]; dsimp only; exact subT rfl hW; (intro p hp; cases p <;> first | exact absurd (by decide) hp | rfl); first | exact fun c => c | exact fun c => ⟨gapRegs_wf _ _ _ c.1, c.2⟩ | exact fun c => ⟨blkRegs_wf _ _ _ c.1, c.2⟩ | exact fun c => ⟨c.1, c.2.1, c.2.2.1, Sparse.filter_wf _ _ _ c.2.2.2.1, c.2.2.2.2⟩ | exact fun c => ⟨c.1, c.2.1, Memory.wf_nil, c.2.2.2⟩ | exact fun c => ⟨c.1, memWrite_wf _ _ _ c.2.1, c.2.2⟩ | exact fun c => ⟨c.1, c.2.1, memWrite_wf _ _ _ c.2.2.1, c.2.2.2⟩ | exact fun c => ⟨c.1, c.2.1, c.2.2.1, memWrite_wf _ _ _ c.2.2.2.1, c.2.2.2.2⟩ | exact fun c => ⟨c.1, c.2.1, Memory.wf_nil, c.2.2.2⟩))
    | (dsimp +zetaDelta only)

theorem goes_enterReset {W : List Part} {s0 : State} (s : State) (code : Nat) (src : Nat) (cold : Bool) (hW : subParts [.regs, .out, .free, .cnt, .edgeCnt, .netEdge, .mbx, .mkt, .que, .chk, .ldg, .ntm, .mem, .nvs, .boot, .pwt, .vlt, .cry, .rad, .chn, .lnk, .bcn, .net, .cor, .lvl, .fsw, .port, .drg, .scl, .nrg, .ibg, .rmc, .fov, .upd, .host, .pba] W = true) (hg : Goes W s0 s) : Goes W s0 (State.enterReset s code src cold) := by
  unfold State.enterReset
  repeat' first
    | with_reducible assumption
    | (intro x; refine Goes.cut (W := W) (s0 := s0) (x := x) ?_ ?_; rotate_left; clear_value x; intro hx; rotate_right)
    | intro x
    | lift_lets
    | (with_reducible refine goes_wr _ _ _ ?_ ?_; exact subT rfl hW)
    | (with_reducible refine goes_ldgSave _ ?_ ?_; exact subT rfl hW)
    | (with_reducible refine goes_sclTail _ ?_ ?_; exact subT rfl hW)
    | (with_reducible refine goes_contFollow _ ?_ ?_; exact subT rfl hW)
    | (with_reducible refine goes_gap _ _ ?_ ?_; exact subT rfl hW)
    | (with_reducible refine Goes.ite ?_ ?_)
    | (fail_if_no_progress (with_reducible refine goes_set_boot _ _ ?_ ?_; exact subT rfl hW))

theorem goes_resetModule {W : List Part} {s0 : State} (s : State) (code : Nat) (src : Nat) (cold : Bool) (hW : subParts [.regs, .out, .free, .cnt, .edgeCnt, .netEdge, .mbx, .mkt, .que, .chk, .ldg, .ntm, .mem, .nvs, .boot, .pwt, .vlt, .cry, .rad, .chn, .lnk, .bcn, .net, .cor, .lvl, .fsw, .port, .drg, .scl, .nrg, .ibg, .rmc, .fov, .upd, .host, .pba] W = true) (hg : Goes W s0 s) : Goes W s0 (State.resetModule s code src cold) := by
  unfold State.resetModule
  repeat' first
    | with_reducible assumption
    | lift_lets
    | (with_reducible refine goes_enterReset _ _ _ _ ?_ ?_; exact subT rfl hW)
    | (with_reducible refine Goes.ite ?_ ?_)

theorem goes_execPowerOn {W : List Part} {s0 : State} (s : State) (hW : subParts [.regs, .out, .free, .cnt, .edgeCnt, .netEdge, .mbx, .mkt, .que, .chk, .ldg, .ntm, .mem, .nvs, .boot, .pwt, .vlt, .cry, .rad, .chn, .lnk, .bcn, .net, .cor, .lvl, .fsw, .port, .drg, .scl, .nrg, .ibg, .rmc, .fov, .upd, .host, .pba] W = true) (hg : Goes W s0 s) : ∀ t0, execPowerOn s = .next t0 → Goes W s0 t0 := by
  unfold execPowerOn
  intro t0 e0
  obtain rfl := Host.Outcome.next.inj e0
  clear e0
  repeat' first
    | with_reducible assumption
    | (intro x; refine Goes.cut (W := W) (s0 := s0) (x := x) ?_ ?_; rotate_left; clear_value x; intro hx; rotate_right)
    | intro x
    | lift_lets
    | (with_reducible refine goes_wb _ _ _ _ ?_ ?_; exact subT rfl hW)
    | (with_reducible refine goes_emit _ _ ?_ ?_; exact subT rfl hW)
    | (with_reducible refine goes_enterReset _ _ _ _ ?_ ?_; exact subT rfl hW)
    | (with_reducible refine Goes.ite ?_ ?_)
    | (fail_if_no_progress (with_reducible refine goes_set_pwt _ _ ?_ ?_; exact subT rfl hW))

theorem goes_execVinBrownOut {W : List Part} {s0 : State} (vinMv : Nat) (s : State) (hW : subParts [.regs, .out, .free, .cnt, .edgeCnt, .netEdge, .mbx, .mkt, .que, .chk, .ldg, .ntm, .mem, .nvs, .boot, .pwt, .vlt, .cry, .rad, .chn, .lnk, .bcn, .net, .cor, .lvl, .fsw, .port, .drg, .scl, .nrg, .ibg, .rmc, .fov, .upd, .host, .pba] W = true) (hg : Goes W s0 s) : ∀ t0, execVinBrownOut vinMv s = .next t0 → Goes W s0 t0 := by
  unfold execVinBrownOut
  intro t0 e0
  obtain rfl := Host.Outcome.next.inj e0
  clear e0
  repeat' first
    | with_reducible assumption
    | intro x
    | lift_lets
    | (with_reducible refine goes_wr _ _ _ ?_ ?_; exact subT rfl hW)
    | (with_reducible refine goes_draw _ _ ?_ ?_; exact subT rfl hW)
    | (with_reducible refine goes_enterReset _ _ _ _ ?_ ?_; exact subT rfl hW)
    | (with_reducible refine Goes.ite ?_ ?_)

theorem goes_execCoreSupplyFault {W : List Part} {s0 : State} (rail : Fin 4) (s : State) (hW : subParts [.regs, .out, .free, .cnt, .edgeCnt, .netEdge, .mbx, .mkt, .que, .chk, .ldg, .ntm, .mem, .nvs, .boot, .pwt, .vlt, .cry, .rad, .chn, .lnk, .bcn, .net, .cor, .lvl, .fsw, .port, .drg, .scl, .nrg, .ibg, .rmc, .fov, .upd, .host, .pba] W = true) (hg : Goes W s0 s) : ∀ t0, execCoreSupplyFault rail s = .next t0 → Goes W s0 t0 := by
  unfold execCoreSupplyFault
  intro t0 e0
  obtain rfl := Host.Outcome.next.inj e0
  clear e0
  repeat' first
    | with_reducible assumption
    | (with_reducible refine goes_resetModule _ _ _ _ ?_ ?_; exact subT rfl hW)

theorem goes_execModReset {W : List Part} {s0 : State} (lowNs : Nat) (s : State) (hW : subParts [.regs, .out, .free, .cnt, .edgeCnt, .netEdge, .mbx, .mkt, .que, .chk, .ldg, .ntm, .mem, .nvs, .boot, .pwt, .vlt, .cry, .rad, .chn, .lnk, .bcn, .net, .cor, .lvl, .fsw, .port, .drg, .scl, .nrg, .ibg, .rmc, .fov, .upd, .host, .pba] W = true) (hg : Goes W s0 s) : ∀ t0, execModReset lowNs s = .next t0 → Goes W s0 t0 := by
  unfold execModReset
  intro t0 e0
  obtain rfl := Host.Outcome.next.inj e0
  clear e0
  repeat' first
    | with_reducible assumption
    | lift_lets
    | (with_reducible refine goes_draw _ _ ?_ ?_; exact subT rfl hW)
    | (with_reducible refine goes_resetModule _ _ _ _ ?_ ?_; exact subT rfl hW)
    | (with_reducible refine Goes.ite ?_ ?_)

theorem goes_swReset {W : List Part} {s0 : State} (s : State) (m : Master) (v : Word) (hW : subParts [.regs, .out, .free, .cnt, .edgeCnt, .netEdge, .mbx, .mkt, .que, .chk, .ldg, .ntm, .mem, .nvs, .boot, .pwt, .vlt, .cry, .rad, .chn, .lnk, .bcn, .net, .cor, .lvl, .fsw, .port, .drg, .scl, .nrg, .ibg, .rmc, .fov, .upd, .host, .pba] W = true) (hg : Goes W s0 s) : Goes W s0 (State.swReset s m v) := by
  unfold State.swReset
  repeat' first
    | with_reducible assumption
    | lift_lets
    | (with_reducible refine goes_err _ _ _ _ _ ?_ ?_; exact subT rfl hW)
    | (with_reducible refine goes_resetModule _ _ _ _ ?_ ?_; exact subT rfl hW)
    | (with_reducible refine Goes.ite ?_ ?_)

theorem goes_execSwReset {W : List Part} {s0 : State} (m : Master) (v : Word) (s : State) (hW : subParts [.regs, .out, .resp, .free, .cnt, .edgeCnt, .netEdge, .mbx, .mkt, .que, .chk, .ldg, .ntm, .mem, .nvs, .boot, .pwt, .vlt, .cry, .rad, .chn, .lnk, .bcn, .net, .cor, .lvl, .fsw, .port, .drg, .scl, .nrg, .ibg, .rmc, .fov, .upd, .host, .pba] W = true) (hg : Goes W s0 s) : ∀ t0, execSwReset m v s = .next t0 → Goes W s0 t0 := by
  unfold execSwReset
  intro t0 e0
  obtain rfl := Host.Outcome.next.inj e0
  clear e0
  repeat' first
    | with_reducible assumption
    | lift_lets
    | (with_reducible refine goes_answer _ _ ?_ ?_; exact subT rfl hW)
    | (with_reducible refine goes_writeAt _ _ _ _ _ _ ?_ (fun _ _ => ?_) ?_; exact subT rfl hW)
    | (with_reducible refine goes_swReset _ _ _ ?_ ?_; exact subT rfl hW)

theorem goes_execLockstepMismatch {W : List Part} {s0 : State} (lane : Fin 4) (detail : Word) (s : State) (hW : subParts [.regs, .out, .free, .cnt, .edgeCnt, .netEdge, .mbx, .mkt, .que, .chk, .ldg, .ntm, .mem, .nvs, .boot, .pwt, .vlt, .cry, .rad, .chn, .lnk, .bcn, .net, .cor, .lvl, .fsw, .port, .drg, .scl, .nrg, .ibg, .rmc, .fov, .upd, .host, .pba] W = true) (hg : Goes W s0 s) : ∀ t0, execLockstepMismatch lane detail s = .next t0 → Goes W s0 t0 := by
  unfold execLockstepMismatch
  intro t0 e0
  obtain rfl := Host.Outcome.next.inj e0
  clear e0
  repeat' first
    | with_reducible assumption
    | (intro x; refine Goes.cut (W := W) (s0 := s0) (x := x) ?_ ?_; rotate_left; clear_value x; intro hx; rotate_right)
    | intro x
    | lift_lets
    | (with_reducible refine goes_wr _ _ _ ?_ ?_; exact subT rfl hW)
    | (with_reducible refine goes_bumpSat _ _ _ ?_ ?_; exact subT rfl hW)
    | (with_reducible refine goes_enterReset _ _ _ _ ?_ ?_; exact subT rfl hW)
    | (with_reducible refine Goes.ite ?_ ?_)
    | (fail_if_no_progress (with_reducible refine goes_set_boot _ _ ?_ ?_; exact subT rfl hW))

theorem goes_execLaneWatchdog {W : List Part} {s0 : State} (lane : Fin 4) (s : State) (hW : subParts [.regs, .out, .free, .cnt, .edgeCnt, .netEdge, .mbx, .mkt, .que, .chk, .ldg, .ntm, .mem, .nvs, .boot, .pwt, .vlt, .cry, .rad, .chn, .lnk, .bcn, .net, .cor, .lvl, .fsw, .port, .drg, .scl, .nrg, .ibg, .rmc, .fov, .upd, .host, .pba] W = true) (hg : Goes W s0 s) : ∀ t0, execLaneWatchdog lane s = .next t0 → Goes W s0 t0 := by
  unfold execLaneWatchdog
  intro t0 e0
  obtain rfl := Host.Outcome.next.inj e0
  clear e0
  repeat' first
    | with_reducible assumption
    | lift_lets
    | (with_reducible refine goes_resetModule _ _ _ _ ?_ ?_; exact subT rfl hW)
    | (with_reducible refine Goes.ite ?_ ?_)

theorem goes_execServiceWatchdog {W : List Part} {s0 : State} (s : State) (hW : subParts [.regs, .out, .free, .cnt, .edgeCnt, .netEdge, .mbx, .mkt, .que, .chk, .ldg, .ntm, .mem, .nvs, .boot, .pwt, .vlt, .cry, .rad, .chn, .lnk, .bcn, .net, .cor, .lvl, .fsw, .port, .drg, .scl, .nrg, .ibg, .rmc, .fov, .upd, .host, .pba] W = true) (hg : Goes W s0 s) : ∀ t0, execServiceWatchdog s = .next t0 → Goes W s0 t0 := by
  unfold execServiceWatchdog
  intro t0 e0
  obtain rfl := Host.Outcome.next.inj e0
  clear e0
  repeat' first
    | with_reducible assumption
    | (with_reducible refine goes_resetModule _ _ _ _ ?_ ?_; exact subT rfl hW)

theorem goes_execThermalTrip {W : List Part} {s0 : State} (sensor : Nat) (tempDeciC : Int) (s : State) (hW : subParts [.regs, .out, .free, .cnt, .edgeCnt, .netEdge, .mbx, .mkt, .que, .chk, .ldg, .ntm, .mem, .nvs, .boot, .pwt, .vlt, .cry, .rad, .chn, .lnk, .bcn, .net, .cor, .lvl, .fsw, .port, .drg, .scl, .nrg, .ibg, .rmc, .fov, .upd, .host, .pba] W = true) (hg : Goes W s0 s) : ∀ t0, execThermalTrip sensor tempDeciC s = .next t0 → Goes W s0 t0 := by
  unfold execThermalTrip
  intro t0 e0
  obtain rfl := Host.Outcome.next.inj e0
  clear e0
  repeat' first
    | with_reducible assumption
    | lift_lets
    | (with_reducible refine goes_setTemp _ _ _ ?_ ?_; exact subT rfl hW)
    | (with_reducible refine goes_tempAt _ _ _ ?_ ?_; exact subT rfl hW)
    | (with_reducible refine goes_enterReset _ _ _ _ ?_ ?_; exact subT rfl hW)
    | (with_reducible refine Goes.ite ?_ ?_)

theorem goes_critReset {W : List Part} {s0 : State} (s : State) (hW : subParts [.regs, .out, .free, .cnt, .edgeCnt, .netEdge, .mbx, .mkt, .que, .chk, .ldg, .ntm, .mem, .nvs, .boot, .pwt, .vlt, .cry, .rad, .chn, .lnk, .bcn, .net, .cor, .lvl, .fsw, .port, .drg, .scl, .nrg, .ibg, .rmc, .fov, .upd, .host, .pba] W = true) (hg : Goes W s0 s) : Goes W s0 (State.critReset s) := by
  unfold State.critReset
  repeat' first
    | with_reducible assumption
    | (with_reducible refine goes_resetModule _ _ _ _ ?_ ?_; exact subT rfl hW)
    | split

theorem goes_updDue {W : List Part} {s0 : State} (s : State) (hW : subParts [.regs, .out, .free, .cnt, .edgeCnt, .netEdge, .mbx, .mkt, .que, .chk, .ldg, .ntm, .mem, .nvs, .boot, .pwt, .vlt, .cry, .rad, .chn, .lnk, .bcn, .net, .cor, .lvl, .fsw, .port, .drg, .scl, .nrg, .ibg, .rmc, .fov, .upd, .host, .pba] W = true) (hg : Goes W s0 s) : Goes W s0 (State.updDue s) := by
  unfold State.updDue
  repeat' first
    | with_reducible assumption
    | lift_lets
    | (with_reducible refine goes_resetModule _ _ _ _ ?_ ?_; exact subT rfl hW)
    | (with_reducible refine Goes.ite ?_ ?_)
    | split

theorem goes_execUpdReset {W : List Part} {s0 : State} (s : State) (hW : subParts [.regs, .out, .free, .cnt, .edgeCnt, .netEdge, .mbx, .mkt, .que, .chk, .ldg, .ntm, .mem, .nvs, .boot, .pwt, .vlt, .cry, .rad, .chn, .lnk, .bcn, .net, .cor, .lvl, .fsw, .port, .drg, .scl, .nrg, .ibg, .rmc, .fov, .upd, .host, .pba] W = true) (hg : Goes W s0 s) : ∀ t0, execUpdReset s = .next t0 → Goes W s0 t0 := by
  unfold execUpdReset
  intro t0 e0
  obtain rfl := Host.Outcome.next.inj e0
  clear e0
  repeat' first
    | with_reducible assumption
    | (with_reducible refine goes_updDue _ ?_ ?_; exact subT rfl hW)

theorem goes_execRingResetFrame {W : List Part} {s0 : State} (s : State) (hW : subParts [.regs, .out, .free, .cnt, .edgeCnt, .netEdge, .mbx, .mkt, .que, .chk, .ldg, .ntm, .mem, .nvs, .boot, .pwt, .vlt, .cry, .rad, .chn, .lnk, .bcn, .net, .cor, .lvl, .fsw, .port, .drg, .scl, .nrg, .ibg, .rmc, .fov, .upd, .host, .pba] W = true) (hg : Goes W s0 s) : ∀ t0, execRingResetFrame s = .next t0 → Goes W s0 t0 := by
  unfold execRingResetFrame
  intro t0 e0
  obtain rfl := Host.Outcome.next.inj e0
  clear e0
  repeat' first
    | with_reducible assumption
    | lift_lets
    | (with_reducible refine goes_onRing _ _ _ ?_ (fun _ _ _ => ?_) ?_; exact subT rfl hW)
    | (with_reducible refine goes_resetModule _ _ _ _ ?_ ?_; exact subT rfl hW)
    | (with_reducible refine Goes.ite ?_ ?_)

theorem goes_execVbakSwitchover {W : List Part} {s0 : State} (vbakMv : Nat) (s : State) (hW : subParts [.regs, .out, .free, .cnt, .edgeCnt, .netEdge, .mbx, .mkt, .que, .chk, .ldg, .ntm, .mem, .boot, .pwt, .vlt, .cry, .rad, .chn, .lnk, .bcn, .net, .cor, .lvl, .fsw, .port, .drg, .scl, .nrg, .ibg, .rmc, .fov, .upd, .host, .pba] W = true) (hg : Goes W s0 s) : ∀ t0, execVbakSwitchover vbakMv s = .next t0 → Goes W s0 t0 := by
  unfold execVbakSwitchover
  intro t0 e0
  obtain rfl := Host.Outcome.next.inj e0
  clear e0
  repeat' first
    | with_reducible assumption
    | (intro x; refine Goes.cut (W := W) (s0 := s0) (x := x) ?_ ?_; rotate_left; clear_value x; intro hx; rotate_right)
    | intro x
    | lift_lets
    | (with_reducible refine goes_setVbak _ _ ?_ ?_; exact subT rfl hW)
    | (with_reducible refine goes_rtcCut _ ?_ ?_; exact subT rfl hW)
    | (with_reducible refine goes_contFollow _ ?_ ?_; exact subT rfl hW)
    | (with_reducible refine goes_gap _ _ ?_ ?_; exact subT rfl hW)
    | (with_reducible refine Goes.ite ?_ ?_)
    | (fail_if_no_progress (apply Goes.upd [.boot, .pwt]; dsimp only; exact subT rfl hW; (intro p hp; cases p <;> first | exact absurd (by decide) hp | rfl); first | exact fun c => c | exact fun c => ⟨gapRegs_wf _ _ _ c.1, c.2⟩ | exact fun c => ⟨blkRegs_wf _ _ _ c.1, c.2⟩ | exact fun c => ⟨c.1, c.2.1, c.2.2.1, Sparse.filter_wf _ _ _ c.2.2.2.1, c.2.2.2.2⟩ | exact fun c => ⟨c.1, c.2.1, Memory.wf_nil, c.2.2.2⟩ | exact fun c => ⟨c.1, Sparse.filter_wf _ _ _ c.2.1, c.2.2⟩ | exact fun c => ⟨c.1, memWrite_wf _ _ _ c.2.1, c.2.2⟩ | exact fun c => ⟨c.1, c.2.1, memWrite_wf _ _ _ c.2.2.1, c.2.2.2⟩ | exact fun c => ⟨c.1, c.2.1, c.2.2.1, memWrite_wf _ _ _ c.2.2.2.1, c.2.2.2.2⟩ | exact fun c => ⟨c.1, c.2.1, Memory.wf_nil, c.2.2.2⟩))

theorem goes_tamper {W : List Part} {s0 : State} (s : State) (loop : Nat) (hW : subParts [.regs, .out, .free, .cnt, .edgeCnt, .netEdge, .mbx, .mkt, .que, .chk, .ldg, .ntm, .mem, .nvs, .boot, .pwt, .vlt, .cry, .rad, .chn, .lnk, .bcn, .net, .cor, .lvl, .fsw, .port, .drg, .scl, .nrg, .ibg, .rmc, .fov, .upd, .host, .pba] W = true) (hg : Goes W s0 s) : Goes W s0 (State.tamper s loop) := by
  unfold State.tamper
  repeat' first
    | with_reducible assumption
    | (intro x; refine Goes.cut (W := W) (s0 := s0) (x := x) ?_ ?_; rotate_left; clear_value x; intro hx; rotate_right)
    | intro x
    | lift_lets
    | (with_reducible refine goes_wr _ _ _ ?_ ?_; exact subT rfl hW)
    | (with_reducible refine goes_pwtIrq _ _ ?_ ?_; exact subT rfl hW)
    | (with_reducible refine goes_pwtFlag _ _ ?_ ?_; exact subT rfl hW)
    | (with_reducible refine goes_setPwron _ _ _ ?_ ?_; exact subT rfl hW)
    | (with_reducible refine goes_zeroizeNow _ ?_ ?_; exact subT rfl hW)
    | (with_reducible refine goes_resetModule _ _ _ _ ?_ ?_; exact subT rfl hW)
    | (with_reducible refine Goes.ite ?_ ?_)
    | (fail_if_no_progress (with_reducible refine goes_set_boot _ _ ?_ ?_; exact subT rfl hW))
    | (fail_if_no_progress (with_reducible refine goes_set_pwt _ _ ?_ ?_; exact subT rfl hW))

theorem goes_execTamper {W : List Part} {s0 : State} (loop : Fin 2) (s : State) (hW : subParts [.regs, .out, .free, .cnt, .edgeCnt, .netEdge, .mbx, .mkt, .que, .chk, .ldg, .ntm, .mem, .nvs, .boot, .pwt, .vlt, .cry, .rad, .chn, .lnk, .bcn, .net, .cor, .lvl, .fsw, .port, .drg, .scl, .nrg, .ibg, .rmc, .fov, .upd, .host, .pba] W = true) (hg : Goes W s0 s) : ∀ t0, execTamper loop s = .next t0 → Goes W s0 t0 := by
  unfold execTamper
  intro t0 e0
  obtain rfl := Host.Outcome.next.inj e0
  clear e0
  repeat' first
    | with_reducible assumption
    | (with_reducible refine goes_tamper _ _ ?_ ?_; exact subT rfl hW)

theorem goes_zeroize {W : List Part} {s0 : State} (s : State) (hW : subParts [.regs, .out, .free, .cnt, .edgeCnt, .netEdge, .mbx, .mkt, .que, .chk, .ldg, .ntm, .mem, .nvs, .boot, .pwt, .vlt, .cry, .rad, .chn, .lnk, .bcn, .net, .cor, .lvl, .fsw, .port, .drg, .scl, .nrg, .ibg, .rmc, .fov, .upd, .host, .pba] W = true) (hg : Goes W s0 s) : Goes W s0 (State.zeroize s) := by
  unfold State.zeroize
  repeat' first
    | with_reducible assumption
    | (intro x; refine Goes.cut (W := W) (s0 := s0) (x := x) ?_ ?_; rotate_left; clear_value x; intro hx; rotate_right)
    | intro x
    | lift_lets
    | (with_reducible refine goes_zeroizeNow _ ?_ ?_; exact subT rfl hW)
    | (with_reducible refine goes_resetModule _ _ _ _ ?_ ?_; exact subT rfl hW)
    | (fail_if_no_progress (with_reducible refine goes_set_boot _ _ ?_ ?_; exact subT rfl hW))

theorem goes_zeroizeReg {W : List Part} {s0 : State} (s : State) (m : Master) (v : Word) (hW : subParts [.regs, .out, .free, .cnt, .edgeCnt, .netEdge, .mbx, .mkt, .que, .chk, .ldg, .ntm, .mem, .nvs, .boot, .pwt, .vlt, .cry, .rad, .chn, .lnk, .bcn, .net, .cor, .lvl, .fsw, .port, .drg, .scl, .nrg, .ibg, .rmc, .fov, .upd, .host, .pba] W = true) (hg : Goes W s0 s) : Goes W s0 (State.zeroizeReg s m v) := by
  unfold State.zeroizeReg
  repeat' first
    | with_reducible assumption
    | lift_lets
    | (with_reducible refine goes_err _ _ _ _ _ ?_ ?_; exact subT rfl hW)
    | (with_reducible refine goes_zeroize _ ?_ ?_; exact subT rfl hW)
    | (with_reducible refine Goes.ite ?_ ?_)

theorem goes_execZeroize {W : List Part} {s0 : State} (req : VltReq) (s : State) (hW : subParts [.regs, .out, .resp, .free, .cnt, .edgeCnt, .netEdge, .mbx, .mkt, .que, .chk, .ldg, .ntm, .mem, .nvs, .boot, .pwt, .vlt, .cry, .rad, .chn, .lnk, .bcn, .net, .cor, .lvl, .fsw, .port, .drg, .scl, .nrg, .ibg, .rmc, .fov, .upd, .host, .pba] W = true) (hg : Goes W s0 s) : ∀ t0, execZeroize req s = .next t0 → Goes W s0 t0 := by
  unfold execZeroize
  intro t0 e0
  obtain rfl := Host.Outcome.next.inj e0
  clear e0
  repeat' first
    | with_reducible assumption
    | lift_lets
    | (with_reducible refine goes_answer _ _ ?_ ?_; exact subT rfl hW)
    | (with_reducible refine goes_withCmd _ _ _ _ ?_ (fun _ _ _ => ?_) ?_; exact subT rfl hW)
    | (with_reducible refine goes_writeAt _ _ _ _ _ _ ?_ (fun _ _ => ?_) ?_; exact subT rfl hW)
    | (with_reducible refine goes_zeroize _ ?_ ?_; exact subT rfl hW)
    | (with_reducible refine goes_zeroizeReg _ _ _ ?_ ?_; exact subT rfl hW)
    | split

theorem goes_startBlk {W : List Part} {s0 : State} (s : State) (b : Blk) (hW : subParts [.regs] W = true) (hg : Goes W s0 s) : Goes W s0 (State.startBlk s b) := by
  unfold State.startBlk
  repeat' first
    | with_reducible assumption
    | lift_lets
    | (with_reducible refine goes_wb _ _ _ _ ?_ ?_; exact subT rfl hW)

theorem goes_seqRelease {W : List Part} {s0 : State} (s : State) (b : Blk) (hW : subParts [.regs] W = true) (hg : Goes W s0 s) : Goes W s0 (State.seqRelease s b) := by
  unfold State.seqRelease
  repeat' first
    | with_reducible assumption
    | lift_lets
    | (with_reducible refine goes_setRstBit _ _ _ _ ?_ ?_; exact subT rfl hW)
    | (with_reducible refine goes_startBlk _ _ ?_ ?_; exact subT rfl hW)
    | split

theorem goes_pewterCheck {W : List Part} {s0 : State} (s : State) (band : Nat) (hW : subParts [.regs, .out, .ntm, .boot, .pwt, .vlt] W = true) (hg : Goes W s0 s) : Goes W s0 (State.pewterCheck s band) := by
  unfold State.pewterCheck
  repeat' first
    | with_reducible assumption
    | (intro x; refine Goes.cut (W := W) (s0 := s0) (x := x) ?_ ?_; rotate_left; clear_value x; intro hx; rotate_right)
    | intro x
    | lift_lets
    | (with_reducible refine goes_wr _ _ _ ?_ ?_; exact subT rfl hW)
    | (with_reducible refine goes_setTm _ _ ?_ ?_; exact subT rfl hW)
    | (with_reducible refine goes_pewterLose _ _ ?_ ?_; exact subT rfl hW)
    | (with_reducible refine Goes.ite ?_ ?_)
    | (fail_if_no_progress (with_reducible refine goes_set_pwt _ _ ?_ ?_; exact subT rfl hW))
    | (fail_if_no_progress (apply Goes.upd [.ntm, .boot, .pwt]; dsimp only; exact subT rfl hW; (intro p hp; cases p <;> first | exact absurd (by decide) hp | rfl); first | exact fun c => c | exact fun c => ⟨gapRegs_wf _ _ _ c.1, c.2⟩ | exact fun c => ⟨blkRegs_wf _ _ _ c.1, c.2⟩))

theorem goes_checkPoint {W : List Part} {s0 : State} (s : State) (codes : List Nat) (hW : subParts [.regs, .out, .ntm, .boot, .pwt, .vlt, .fsw, .pba] W = true) (hg : Goes W s0 s) : Goes W s0 (State.checkPoint s codes) := by
  unfold State.checkPoint
  repeat' first
    | with_reducible assumption
    | (intro x; refine Goes.cut (W := W) (s0 := s0) (x := x) ?_ ?_; rotate_left; clear_value x; intro hx; rotate_right)
    | intro x
    | lift_lets
    | (with_reducible refine goes_wr _ _ _ ?_ ?_; exact subT rfl hW)
    | (with_reducible refine goes_wb _ _ _ _ ?_ ?_; exact subT rfl hW)
    | (with_reducible refine goes_irqBits _ _ _ ?_ ?_; exact subT rfl hW)
    | (with_reducible refine goes_photoAt _ _ ?_ ?_; exact subT rfl hW)
    | (with_reducible refine goes_startBlk _ _ ?_ ?_; exact subT rfl hW)
    | (with_reducible refine goes_seqRelease _ _ ?_ ?_; exact subT rfl hW)
    | (with_reducible refine goes_pewterCheck _ _ ?_ ?_; exact subT rfl hW)
    | (with_reducible refine Goes.ite ?_ ?_)
    | split
    | (refine Goes.foldl (fun _ _ _ => ?_) ?_)
    | (fail_if_no_progress (with_reducible refine goes_set_pwt _ _ ?_ ?_; exact subT rfl hW))
    | (fail_if_no_progress (apply Goes.upd [.boot, .pwt]; dsimp only; exact subT rfl hW; (intro p hp; cases p <;> first | exact absurd (by decide) hp | rfl); first | exact fun c => c | exact fun c => ⟨gapRegs_wf _ _ _ c.1, c.2⟩ | exact fun c => ⟨blkRegs_wf _ _ _ c.1, c.2⟩))
    | (dsimp +zetaDelta only)

theorem goes_execPewterIntegrityCheck {W : List Part} {s0 : State} (codes : List Nat) (s : State) (hW : subParts [.regs, .out, .ntm, .boot, .pwt, .vlt, .fsw, .pba] W = true) (hg : Goes W s0 s) : ∀ t0, execPewterIntegrityCheck codes s = .next t0 → Goes W s0 t0 := by
  unfold execPewterIntegrityCheck
  intro t0 e0
  split at e0
  · obtain rfl := Host.Outcome.next.inj e0
    exact hg
  · split at e0
    · cases e0
    · obtain rfl := Host.Outcome.next.inj e0
      exact goes_checkPoint _ _ (subT rfl hW) hg

theorem goes_defaultsPoint {W : List Part} {s0 : State} (s : State) (hW : subParts [.regs, .out, .boot, .fsw, .port, .pba] W = true) (hg : Goes W s0 s) : Goes W s0 (State.defaultsPoint s) := by
  unfold State.defaultsPoint
  repeat' first
    | with_reducible assumption
    | (intro x; refine Goes.cut (W := W) (s0 := s0) (x := x) ?_ ?_; rotate_left; clear_value x; intro hx; rotate_right)
    | intro x
    | lift_lets
    | (with_reducible refine goes_wb _ _ _ _ ?_ ?_; exact subT rfl hW)
    | (with_reducible refine goes_drvDefaults _ _ ?_ ?_; exact subT rfl hW)
    | (with_reducible refine goes_contFollow _ ?_ ?_; exact subT rfl hW)
    | (with_reducible refine goes_seqWrite _ _ ?_ ?_; exact subT rfl hW)
    | (with_reducible refine goes_seqRelease _ _ ?_ ?_; exact subT rfl hW)
    | (with_reducible refine Goes.ite ?_ ?_)
    | (refine Goes.foldl (fun _ _ _ => ?_) ?_)
    | (fail_if_no_progress (with_reducible refine goes_set_boot _ _ ?_ ?_; exact subT rfl hW))
    | (fail_if_no_progress (with_reducible refine goes_set_fsw _ _ ?_ ?_; exact subT rfl hW))

theorem goes_execSequencerDefaults {W : List Part} {s0 : State} (s : State) (hW : subParts [.regs, .out, .boot, .fsw, .port, .pba] W = true) (hg : Goes W s0 s) : ∀ t0, execSequencerDefaults s = .next t0 → Goes W s0 t0 := by
  unfold execSequencerDefaults
  intro t0 e0
  obtain rfl := Host.Outcome.next.inj e0
  clear e0
  repeat' first
    | with_reducible assumption
    | lift_lets
    | (with_reducible refine goes_defaultsPoint _ ?_ ?_; exact subT rfl hW)
    | (with_reducible refine Goes.ite ?_ ?_)

theorem goes_bootCopy {W : List Part} {s0 : State} (s : State) (hW : subParts [.emc, .upd] W = true) (hg : Goes W s0 s) : Goes W s0 (State.bootCopy s).1 := by
  unfold State.bootCopy
  repeat' first
    | with_reducible assumption
    | lift_lets
    | (with_reducible refine goes_bootWrite _ _ _ ?_ ?_; exact subT rfl hW)
    | (with_reducible refine Goes.iteFst ?_ ?_)
    | split
    | (fail_if_no_progress (with_reducible refine goes_set_upd _ _ ?_ ?_; exact subT rfl hW))
    | dsimp only

theorem goes_bootCopy' {W : List Part} {s0 : State} (s : State) {u0 : State} {v0 : Bool} (e : State.bootCopy s = (u0, v0)) (hW : subParts [.emc, .upd] W = true) (hg : Goes W s0 s) : Goes W s0 u0 := by
  have := goes_bootCopy s hW hg
  rw [e] at this
  exact this

theorem goes_measureImage {W : List Part} {s0 : State} (s : State) (approved : Bool) (hW : subParts [.vlt] W = true) (hg : Goes W s0 s) : Goes W s0 (State.measureImage s approved) := by
  unfold State.measureImage
  repeat' first
    | with_reducible assumption
    | intro x
    | lift_lets
    | (fail_if_no_progress (with_reducible refine goes_set_vlt _ _ ?_ ?_; exact subT rfl hW))

theorem goes_signerSlots {W : List Part} {s0 : State} (s : State) (hW : subParts [.vlt] W = true) (hg : Goes W s0 s) : Goes W s0 (State.signerSlots s) := by
  unfold State.signerSlots
  repeat' first
    | with_reducible assumption
    | intro x
    | lift_lets
    | (with_reducible refine goes_erase _ _ ?_ ?_; exact subT rfl hW)

theorem goes_imageAccepted {W : List Part} {s0 : State} (s : State) (hW : subParts [.upd] W = true) (hg : Goes W s0 s) : Goes W s0 (State.imageAccepted s) := by
  unfold State.imageAccepted
  repeat' first
    | with_reducible assumption
    | intro x
    | lift_lets
    | (with_reducible refine Goes.ite ?_ ?_)
    | split
    | (fail_if_no_progress (with_reducible refine goes_set_upd _ _ ?_ ?_; exact subT rfl hW))

theorem goes_bootTests {W : List Part} {s0 : State} (s : State) (fails : List Nat) (hW : subParts [.regs, .out, .boot, .pba] W = true) (hg : Goes W s0 s) : Goes W s0 (State.bootTests s fails) := by
  unfold State.bootTests
  repeat' first
    | with_reducible assumption
    | (intro x; refine Goes.cut (W := W) (s0 := s0) (x := x) ?_ ?_; rotate_left; clear_value x; intro hx; rotate_right)
    | intro x
    | lift_lets
    | (with_reducible refine goes_wf _ _ _ _ _ ?_ ?_; exact subT rfl hW)
    | (with_reducible refine goes_wb _ _ _ _ ?_ ?_; exact subT rfl hW)
    | (with_reducible refine goes_irq _ _ _ ?_ ?_; exact subT rfl hW)
    | split
    | (fail_if_no_progress (with_reducible refine goes_set_boot _ _ ?_ ?_; exact subT rfl hW))

theorem goes_bootRole {W : List Part} {s0 : State} (s : State) (hW : subParts [.regs, .net, .fov] W = true) (hg : Goes W s0 s) : Goes W s0 (State.bootRole s) := by
  unfold State.bootRole
  repeat' first
    | with_reducible assumption
    | (intro x; refine Goes.cut (W := W) (s0 := s0) (x := x) ?_ ?_; rotate_left; clear_value x; intro hx; rotate_right)
    | intro x
    | lift_lets
    | (with_reducible refine goes_wf _ _ _ _ _ ?_ ?_; exact subT rfl hW)
    | (with_reducible refine goes_wr64 _ _ _ _ ?_ ?_; exact subT rfl hW)
    | (with_reducible refine Goes.ite ?_ ?_)
    | split
    | (fail_if_no_progress (with_reducible refine goes_set_fov _ _ ?_ ?_; exact subT rfl hW))
    | (fail_if_no_progress (with_reducible refine goes_set_net _ _ ?_ ?_; exact subT rfl hW))

theorem goes_bootCycle {W : List Part} {s0 : State} (s : State) (hW : subParts [.regs, .boot] W = true) (hg : Goes W s0 s) : Goes W s0 (State.bootCycle s) := by
  unfold State.bootCycle
  repeat' first
    | with_reducible assumption
    | (intro x; refine Goes.cut (W := W) (s0 := s0) (x := x) ?_ ?_; rotate_left; clear_value x; intro hx; rotate_right)
    | intro x
    | lift_lets
    | (with_reducible refine goes_wr _ _ _ ?_ ?_; exact subT rfl hW)
    | (with_reducible refine goes_wb _ _ _ _ ?_ ?_; exact subT rfl hW)
    | (with_reducible refine Goes.ite ?_ ?_)
    | (fail_if_no_progress (with_reducible refine goes_set_boot _ _ ?_ ?_; exact subT rfl hW))

theorem goes_dramWipe {W : List Part} {s0 : State} (s : State) (lo : Nat) (hi : Nat) (hW : subParts [.mem] W = true) (hg : Goes W s0 s) : Goes W s0 (State.dramWipe s lo hi) := by
  unfold State.dramWipe
  repeat' first
    | with_reducible assumption
    | intro x
    | lift_lets
    | (fail_if_no_progress (apply Goes.upd [.mem]; dsimp only; exact subT rfl hW; (intro p hp; cases p <;> first | exact absurd (by decide) hp | rfl); first | exact fun c => c | exact fun c => ⟨c.1, c.2.1, c.2.2.1, Sparse.filter_wf _ _ _ c.2.2.2.1, c.2.2.2.2⟩ | exact fun c => ⟨c.1, c.2.1, Memory.wf_nil, c.2.2.2⟩ | exact fun c => ⟨c.1, Sparse.filter_wf _ _ _ c.2.1, c.2.2⟩ | exact fun c => ⟨c.1, memWrite_wf _ _ _ c.2.1, c.2.2⟩ | exact fun c => ⟨c.1, c.2.1, memWrite_wf _ _ _ c.2.2.1, c.2.2.2⟩ | exact fun c => ⟨c.1, c.2.1, c.2.2.1, memWrite_wf _ _ _ c.2.2.2.1, c.2.2.2.2⟩ | exact fun c => ⟨c.1, c.2.1, Memory.wf_nil, c.2.2.2⟩))

theorem goes_refillFree {W : List Part} {s0 : State} (l : List Nat) (s : State) (hW : subParts [.free, .mem] W = true) (h : Goes W s0 s) : Goes W s0 (refillFree l s) := by
  induction l generalizing s with
  | nil =>
    unfold refillFree
    repeat' first
      | assumption
  | cons x r ih =>
    unfold refillFree
    repeat' first
      | (with_reducible refine ih _ ?_)
      | with_reducible assumption
      | intro x
      | lift_lets
      | (with_reducible refine goes_draw _ _ ?_ ?_; exact subT rfl hW)
      | (fail_if_no_progress (apply Goes.upd [.free, .mem]; dsimp only; exact subT rfl hW; (intro p hp; cases p <;> first | exact absurd (by decide) hp | rfl); first | exact fun c => c | exact fun c => ⟨c.1, c.2.1, c.2.2.1, Sparse.filter_wf _ _ _ c.2.2.2.1, c.2.2.2.2⟩ | exact fun c => ⟨c.1, c.2.1, Memory.wf_nil, c.2.2.2⟩ | exact fun c => ⟨c.1, Sparse.filter_wf _ _ _ c.2.1, c.2.2⟩ | exact fun c => ⟨c.1, memWrite_wf _ _ _ c.2.1, c.2.2⟩ | exact fun c => ⟨c.1, c.2.1, memWrite_wf _ _ _ c.2.2.1, c.2.2.2⟩ | exact fun c => ⟨c.1, c.2.1, c.2.2.1, memWrite_wf _ _ _ c.2.2.2.1, c.2.2.2.2⟩ | exact fun c => ⟨c.1, c.2.1, Memory.wf_nil, c.2.2.2⟩))

theorem goes_rebuildTables {W : List Part} {s0 : State} (s : State) (hW : subParts [.regs, .out, .free, .ldg, .mem, .pba] W = true) (hg : Goes W s0 s) : Goes W s0 (State.rebuildTables s) := by
  unfold State.rebuildTables
  repeat' first
    | with_reducible assumption
    | (intro x; refine Goes.cut (W := W) (s0 := s0) (x := x) ?_ ?_; rotate_left; clear_value x; intro hx; rotate_right)
    | lift_lets
    | (with_reducible refine goes_recRestore _ _ _ _ _ ?_ ?_; exact subT rfl hW)
    | (with_reducible refine goes_idxSet _ _ _ ?_ ?_; exact subT rfl hW)
    | (with_reducible refine Goes.ite ?_ ?_)
    | (with_reducible refine GoesO.getD ?_ ?_)
    | (refine Goes.foldl (fun _ _ _ => ?_) ?_)

theorem goes_rewriteCritical {W : List Part} {s0 : State} (s : State) (hW : subParts [.regs, .out, .free, .ldg, .mem, .pba] W = true) (hg : Goes W s0 s) : Goes W s0 (State.rewriteCritical s) := by
  unfold State.rewriteCritical
  repeat' first
    | with_reducible assumption
    | (intro x; refine Goes.cut (W := W) (s0 := s0) (x := x) ?_ ?_; rotate_left; clear_value x; intro hx; rotate_right)
    | intro x
    | lift_lets
    | (with_reducible refine goes_dramWipe _ _ _ ?_ ?_; exact subT rfl hW)
    | (with_reducible refine goes_refillFree _ _ ?_ ?_; exact subT rfl hW)
    | (with_reducible refine goes_rebuildTables _ ?_ ?_; exact subT rfl hW)
    | (with_reducible refine Goes.ite ?_ ?_)
    | (fail_if_no_progress (apply Goes.upd [.mem]; dsimp only; exact subT rfl hW; (intro p hp; cases p <;> first | exact absurd (by decide) hp | rfl); first | exact fun c => c | exact fun c => ⟨gapRegs_wf _ _ _ c.1, c.2⟩ | exact fun c => ⟨blkRegs_wf _ _ _ c.1, c.2⟩ | exact fun c => ⟨c.1, c.2.1, c.2.2.1, Sparse.filter_wf _ _ _ c.2.2.2.1, c.2.2.2.2⟩ | exact fun c => ⟨c.1, c.2.1, Memory.wf_nil, c.2.2.2⟩ | exact fun c => ⟨c.1, Sparse.filter_wf _ _ _ c.2.1, c.2.2⟩ | exact fun c => ⟨c.1, memWrite_wf _ _ _ c.2.1, c.2.2⟩ | exact fun c => ⟨c.1, c.2.1, memWrite_wf _ _ _ c.2.2.1, c.2.2.2⟩ | exact fun c => ⟨c.1, c.2.1, c.2.2.1, memWrite_wf _ _ _ c.2.2.2.1, c.2.2.2.2⟩ | exact fun c => ⟨c.1, c.2.1, Memory.wf_nil, c.2.2.2⟩))
    | (dsimp +zetaDelta only)

theorem goes_firmwareStart {W : List Part} {s0 : State} (s : State) (hW : subParts [.regs, .out, .free, .ldg, .mem, .nvs, .emc, .boot, .net, .lvl, .ibg, .fov, .upd, .pba] W = true) (hg : Goes W s0 s) : Goes W s0 (State.firmwareStart s) := by
  unfold State.firmwareStart
  repeat' first
    | with_reducible assumption
    | (intro x; refine Goes.cut (W := W) (s0 := s0) (x := x) ?_ ?_; rotate_left; clear_value x; intro hx; rotate_right)
    | intro x
    | lift_lets
    | (with_reducible refine goes_setRstBit _ _ _ _ ?_ ?_; exact subT rfl hW)
    | (with_reducible refine goes_mapSetup _ ?_ ?_; exact subT rfl hW)
    | (with_reducible refine goes_lvlStart _ _ ?_ ?_; exact subT rfl hW)
    | (with_reducible refine goes_srcByRole _ ?_ ?_; exact subT rfl hW)
    | (with_reducible refine goes_settingsReset _ ?_ ?_; exact subT rfl hW)
    | (with_reducible refine goes_bootRole _ ?_ ?_; exact subT rfl hW)
    | (with_reducible refine goes_bootCycle _ ?_ ?_; exact subT rfl hW)
    | (with_reducible refine goes_rewriteCritical _ ?_ ?_; exact subT rfl hW)
    | (with_reducible refine Goes.ite ?_ ?_)
    | (refine Goes.foldl (fun _ _ _ => ?_) ?_)
    | (fail_if_no_progress (with_reducible refine goes_set_fov _ _ ?_ ?_; exact subT rfl hW))
    | (fail_if_no_progress (apply Goes.upd [.boot, .fov, .upd]; dsimp only; exact subT rfl hW; (intro p hp; cases p <;> first | exact absurd (by decide) hp | rfl); first | exact fun c => c | exact fun c => ⟨gapRegs_wf _ _ _ c.1, c.2⟩ | exact fun c => ⟨blkRegs_wf _ _ _ c.1, c.2⟩ | exact fun c => ⟨c.1, c.2.1, c.2.2.1, Sparse.filter_wf _ _ _ c.2.2.2.1, c.2.2.2.2⟩ | exact fun c => ⟨c.1, c.2.1, Memory.wf_nil, c.2.2.2⟩ | exact fun c => ⟨c.1, Sparse.filter_wf _ _ _ c.2.1, c.2.2⟩ | exact fun c => ⟨c.1, memWrite_wf _ _ _ c.2.1, c.2.2⟩ | exact fun c => ⟨c.1, c.2.1, memWrite_wf _ _ _ c.2.2.1, c.2.2.2⟩ | exact fun c => ⟨c.1, c.2.1, c.2.2.1, memWrite_wf _ _ _ c.2.2.2.1, c.2.2.2.2⟩ | exact fun c => ⟨c.1, c.2.1, Memory.wf_nil, c.2.2.2⟩ | exact fun c => ⟨c.1, c.2.1, c.2.2.1, c.2.2.2.1, memWrite_wf _ _ _ c.2.2.2.2.1, c.2.2.2.2.2⟩ | exact fun c => ⟨c.1, c.2.1, c.2.2.1, c.2.2.2.1, c.2.2.2.2.1, memWrite_wf _ _ _ c.2.2.2.2.2.1, c.2.2.2.2.2.2⟩))

theorem goes_vaultReady {W : List Part} {s0 : State} (s : State) (fails : List Nat) (hW : subParts [.regs, .out, .boot, .vlt, .pba] W = true) (hg : Goes W s0 s) : Goes W s0 (State.vaultReady s fails) := by
  unfold State.vaultReady
  repeat' first
    | with_reducible assumption
    | (intro x; refine Goes.cut (W := W) (s0 := s0) (x := x) ?_ ?_; rotate_left; clear_value x; intro hx; rotate_right)
    | intro x
    | lift_lets
    | (with_reducible refine goes_measureImage _ _ ?_ ?_; exact subT rfl hW)
    | (with_reducible refine goes_signerSlots _ ?_ ?_; exact subT rfl hW)
    | (with_reducible refine goes_bootTests _ _ ?_ ?_; exact subT rfl hW)
    | (with_reducible refine Goes.ite ?_ ?_)
    | (fail_if_no_progress (with_reducible refine goes_set_vlt _ _ ?_ ?_; exact subT rfl hW))

theorem goes_bootCheck {W : List Part} {s0 : State} (s : State) (fails : List Nat) (err : Bool) (hW : subParts [.regs, .out, .free, .ldg, .mem, .nvs, .emc, .boot, .vlt, .net, .lvl, .ibg, .fov, .upd, .pba] W = true) (hg : Goes W s0 s) : Goes W s0 (State.bootCheck s fails err) := by
  unfold State.bootCheck
  repeat' first
    | with_reducible assumption
    | (intro x; refine Goes.cut (W := W) (s0 := s0) (x := x) ?_ ?_; rotate_left; clear_value x; intro hx; rotate_right)
    | intro x
    | lift_lets
    | (with_reducible refine goes_bootCopy _ ?_ ?_; exact subT rfl hW)
    | (with_reducible refine goes_imageAccepted _ ?_ ?_; exact subT rfl hW)
    | (with_reducible refine goes_firmwareStart _ ?_ ?_; exact subT rfl hW)
    | (with_reducible refine goes_vaultReady _ _ ?_ ?_; exact subT rfl hW)
    | (with_reducible refine Goes.ite ?_ ?_)
    | (fail_if_no_progress (with_reducible refine goes_set_boot _ _ ?_ ?_; exact subT rfl hW))
    | (fail_if_no_progress (with_reducible refine goes_set_upd _ _ ?_ ?_; exact subT rfl hW))
    | (fail_if_no_progress (apply Goes.upd [.boot, .upd]; dsimp only; exact subT rfl hW; (intro p hp; cases p <;> first | exact absurd (by decide) hp | rfl); first | exact fun c => c | exact fun c => ⟨gapRegs_wf _ _ _ c.1, c.2⟩ | exact fun c => ⟨blkRegs_wf _ _ _ c.1, c.2⟩ | exact fun c => ⟨c.1, c.2.1, c.2.2.1, c.2.2.2.1, c.2.2.2.2.1, memWrite_wf _ _ _ c.2.2.2.2.2.1, c.2.2.2.2.2.2⟩))

theorem goes_execBootCheck {W : List Part} {s0 : State} (fails : List Nat) (emmcErr : Bool) (s : State) (hW : subParts [.regs, .out, .free, .ldg, .mem, .nvs, .emc, .boot, .vlt, .net, .lvl, .ibg, .fov, .upd, .pba] W = true) (hg : Goes W s0 s) : ∀ t0, execBootCheck fails emmcErr s = .next t0 → Goes W s0 t0 := by
  unfold execBootCheck
  intro t0 e0
  obtain rfl := Host.Outcome.next.inj e0
  clear e0
  repeat' first
    | with_reducible assumption
    | lift_lets
    | (with_reducible refine goes_bootCheck _ _ _ ?_ ?_; exact subT rfl hW)
    | (with_reducible refine Goes.ite ?_ ?_)

theorem goes_execBenchRecovery {W : List Part} {s0 : State} (image : Bytes) (s : State) (hW : subParts [.emc, .upd] W = true) (hg : Goes W s0 s) : ∀ t0, execBenchRecovery image s = .next t0 → Goes W s0 t0 := by
  unfold execBenchRecovery
  intro t0 e0
  obtain rfl := Host.Outcome.next.inj e0
  clear e0
  repeat' first
    | with_reducible assumption
    | lift_lets
    | (with_reducible refine goes_bootWrite _ _ _ ?_ ?_; exact subT rfl hW)
    | (with_reducible refine Goes.ite ?_ ?_)

theorem goes_blkWork {W : List Part} {s0 : State} (s : State) (b : Blk) (hW : subParts [.regs, .out, .free, .mbx, .mkt, .que, .chk, .ldg, .ntm, .mem, .nvs, .vlt, .cry, .rad, .chn, .net, .cor, .lvl, .port, .drg, .scl, .ibg, .fov, .upd, .host, .pba] W = true) (hg : Goes W s0 s) : Goes W s0 (State.blkWork s b) := by
  unfold State.blkWork
  repeat' first
    | with_reducible assumption
    | (intro x; refine Goes.cut (W := W) (s0 := s0) (x := x) ?_ ?_; rotate_left; clear_value x; intro hx; rotate_right)
    | intro x
    | lift_lets
    | (with_reducible refine goes_queReset _ ?_ ?_; exact subT rfl hW)
    | (with_reducible refine goes_laneReset _ _ ?_ ?_; exact subT rfl hW)
    | (with_reducible refine goes_mktReset _ ?_ ?_; exact subT rfl hW)
    | (with_reducible refine goes_ldgReset _ ?_ ?_; exact subT rfl hW)
    | (with_reducible refine goes_radReset _ _ ?_ ?_; exact subT rfl hW)
    | (with_reducible refine goes_chnReset _ ?_ ?_; exact subT rfl hW)
    | (with_reducible refine goes_vltReset _ ?_ ?_; exact subT rfl hW)
    | (with_reducible refine goes_rxAbort _ _ ?_ ?_; exact subT rfl hW)
    | (with_reducible refine goes_lnkDisable _ ?_ ?_; exact subT rfl hW)
    | (with_reducible refine goes_lnkKill _ ?_ ?_; exact subT rfl hW)
    | (with_reducible refine goes_corReset _ ?_ ?_; exact subT rfl hW)
    | (with_reducible refine goes_lvlReset _ ?_ ?_; exact subT rfl hW)
    | (with_reducible refine goes_drvReset _ _ ?_ ?_; exact subT rfl hW)
    | (with_reducible refine goes_drgReset _ ?_ ?_; exact subT rfl hW)
    | (with_reducible refine goes_sclTail _ ?_ ?_; exact subT rfl hW)
    | (with_reducible refine goes_sclReset _ ?_ ?_; exact subT rfl hW)
    | (with_reducible refine goes_ibgReset _ ?_ ?_; exact subT rfl hW)
    | (with_reducible refine goes_fovReset _ ?_ ?_; exact subT rfl hW)
    | (with_reducible refine goes_mbxReset _ ?_ ?_; exact subT rfl hW)
    | (with_reducible refine goes_updReset _ ?_ ?_; exact subT rfl hW)
    | split
    | (fail_if_no_progress (with_reducible refine goes_set_chk _ _ ?_ ?_; exact subT rfl hW))
    | (fail_if_no_progress (apply Goes.upd [.chk, .mem, .vlt, .cry]; dsimp only; exact subT rfl hW; (intro p hp; cases p <;> first | exact absurd (by decide) hp | rfl); first | exact fun c => c | exact fun c => ⟨gapRegs_wf _ _ _ c.1, c.2⟩ | exact fun c => ⟨blkRegs_wf _ _ _ c.1, c.2⟩ | exact fun c => ⟨c.1, c.2.1, c.2.2.1, Sparse.filter_wf _ _ _ c.2.2.2.1, c.2.2.2.2⟩ | exact fun c => ⟨c.1, c.2.1, Memory.wf_nil, c.2.2.2⟩ | exact fun c => ⟨c.1, Sparse.filter_wf _ _ _ c.2.1, c.2.2⟩ | exact fun c => ⟨c.1, memWrite_wf _ _ _ c.2.1, c.2.2⟩ | exact fun c => ⟨c.1, c.2.1, memWrite_wf _ _ _ c.2.2.1, c.2.2.2⟩ | exact fun c => ⟨c.1, c.2.1, c.2.2.1, memWrite_wf _ _ _ c.2.2.2.1, c.2.2.2.2⟩ | exact fun c => ⟨c.1, c.2.1, Memory.wf_nil, c.2.2.2⟩ | exact fun c => ⟨c.1, c.2.1, c.2.2.1, c.2.2.2.1, memWrite_wf _ _ _ c.2.2.2.2.1, c.2.2.2.2.2⟩))

theorem goes_blkAfter {W : List Part} {s0 : State} (s : State) (b : Blk) (tm : Nat) (ring : Nat) (hW : subParts [.regs, .out, .mbx, .ntm, .lnk, .bcn, .fsw, .pba] W = true) (hg : Goes W s0 s) : Goes W s0 (State.blkAfter s b tm ring) := by
  unfold State.blkAfter
  repeat' first
    | with_reducible assumption
    | (with_reducible refine goes_ntmReset _ _ ?_ ?_; exact subT rfl hW)
    | (with_reducible refine goes_lnkReset _ ?_ ?_; exact subT rfl hW)
    | (with_reducible refine goes_bcnReset _ ?_ ?_; exact subT rfl hW)
    | (with_reducible refine goes_ringAfterReset _ _ ?_ ?_; exact subT rfl hW)
    | (with_reducible refine goes_contFollow _ ?_ ?_; exact subT rfl hW)
    | split

theorem goes_blockReset {W : List Part} {s0 : State} (s : State) (b : Blk) (hW : subParts [.regs, .out, .free, .mbx, .mkt, .que, .chk, .ldg, .ntm, .mem, .nvs, .vlt, .cry, .rad, .chn, .lnk, .bcn, .net, .cor, .lvl, .fsw, .port, .drg, .scl, .ibg, .fov, .upd, .host, .pba] W = true) (hg : Goes W s0 s) : Goes W s0 (State.blockReset s b) := by
  unfold State.blockReset
  repeat' first
    | with_reducible assumption
    | (intro x; refine Goes.cut (W := W) (s0 := s0) (x := x) ?_ ?_; rotate_left; clear_value x; intro hx; rotate_right)
    | intro x
    | lift_lets
    | (with_reducible refine goes_setRstBit _ _ _ _ ?_ ?_; exact subT rfl hW)
    | (with_reducible refine goes_blkWork _ _ ?_ ?_; exact subT rfl hW)
    | (with_reducible refine goes_blkAfter _ _ _ _ ?_ ?_; exact subT rfl hW)
    | (with_reducible refine Goes.ite ?_ ?_)
    | split
    | (fail_if_no_progress (apply Goes.upd [.regs]; dsimp only; exact subT rfl hW; (intro p hp; cases p <;> first | exact absurd (by decide) hp | rfl); first | exact fun c => c | exact fun c => ⟨gapRegs_wf _ _ _ c.1, c.2⟩ | exact fun c => ⟨blkRegs_wf _ _ _ c.1, c.2⟩ | exact fun c => ⟨c.1, c.2.1, c.2.2.1, Sparse.filter_wf _ _ _ c.2.2.2.1, c.2.2.2.2⟩ | exact fun c => ⟨c.1, c.2.1, Memory.wf_nil, c.2.2.2⟩ | exact fun c => ⟨c.1, memWrite_wf _ _ _ c.2.1, c.2.2⟩ | exact fun c => ⟨c.1, c.2.1, memWrite_wf _ _ _ c.2.2.1, c.2.2.2⟩ | exact fun c => ⟨c.1, c.2.1, c.2.2.1, memWrite_wf _ _ _ c.2.2.2.1, c.2.2.2.2⟩ | exact fun c => ⟨c.1, c.2.1, Memory.wf_nil, c.2.2.2⟩ | exact fun c => ⟨c.1, c.2.1, c.2.2.1, c.2.2.2.1, memWrite_wf _ _ _ c.2.2.2.2.1, c.2.2.2.2.2⟩))
    | (dsimp +zetaDelta only)

theorem goes_blkRstSet {W : List Part} {s0 : State} (s : State) (hi : Bool) (v : Word) (hW : subParts [.regs, .out, .free, .mbx, .mkt, .que, .chk, .ldg, .ntm, .mem, .nvs, .vlt, .cry, .rad, .chn, .lnk, .bcn, .net, .cor, .lvl, .fsw, .port, .drg, .scl, .ibg, .fov, .upd, .host, .pba] W = true) (hg : Goes W s0 s) : Goes W s0 (State.blkRstSet s hi v) := by
  unfold State.blkRstSet
  repeat' first
    | with_reducible assumption
    | lift_lets
    | (with_reducible refine goes_blockReset _ _ ?_ ?_; exact subT rfl hW)
    | split
    | (refine Goes.foldl (fun _ _ _ => ?_) ?_)

theorem goes_relRequest {W : List Part} {s0 : State} (s : State) (i : Nat) (hW : subParts [.regs] W = true) (hg : Goes W s0 s) : Goes W s0 (State.relRequest s i) := by
  unfold State.relRequest
  repeat' first
    | with_reducible assumption
    | intro x
    | lift_lets
    | (with_reducible refine goes_setRstBit _ _ _ _ ?_ ?_; exact subT rfl hW)
    | (with_reducible refine Goes.ite ?_ ?_)

theorem goes_blkRstClr {W : List Part} {s0 : State} (s : State) (hi : Bool) (v : Word) (hW : subParts [.regs] W = true) (hg : Goes W s0 s) : Goes W s0 (State.blkRstClr s hi v) := by
  unfold State.blkRstClr
  repeat' first
    | with_reducible assumption
    | lift_lets
    | (with_reducible refine goes_relRequest _ _ ?_ ?_; exact subT rfl hW)
    | (refine Goes.foldl (fun _ _ _ => ?_) ?_)

theorem goes_execBlockReleaseRequest {W : List Part} {s0 : State} (m : Master) (hi : Bool) (v : Word) (s : State) (hW : subParts [.regs, .out, .resp, .host, .pba] W = true) (hg : Goes W s0 s) : ∀ t0, execBlockReleaseRequest m hi v s = .next t0 → Goes W s0 t0 := by
  unfold execBlockReleaseRequest
  intro t0 e0
  obtain rfl := Host.Outcome.next.inj e0
  clear e0
  repeat' first
    | with_reducible assumption
    | lift_lets
    | (with_reducible refine goes_answer _ _ ?_ ?_; exact subT rfl hW)
    | (with_reducible refine goes_writeAt _ _ _ _ _ _ ?_ (fun _ _ => ?_) ?_; exact subT rfl hW)
    | (with_reducible refine goes_blkRstClr _ _ _ ?_ ?_; exact subT rfl hW)

theorem goes_ntmLoad {W : List Part} {s0 : State} (s : State) (hW : subParts [.regs] W = true) (hg : Goes W s0 s) : Goes W s0 (State.ntmLoad s) := by
  unfold State.ntmLoad
  repeat' first
    | with_reducible assumption
    | (intro x; refine Goes.cut (W := W) (s0 := s0) (x := x) ?_ ?_; rotate_left; clear_value x; intro hx; rotate_right)
    | intro x
    | lift_lets
    | (with_reducible refine goes_wr _ _ _ ?_ ?_; exact subT rfl hW)
    | (with_reducible refine goes_wb _ _ _ _ ?_ ?_; exact subT rfl hW)
    | (with_reducible refine goes_loadGroup _ _ _ ?_ ?_; exact subT rfl hW)
    | (refine Goes.foldl (fun _ _ _ => ?_) ?_)

theorem goes_released {W : List Part} {s0 : State} (s : State) (b : Blk) (fails : List Nat) (hW : subParts [.regs, .out, .mbx, .ldg, .chn, .cor, .scl, .fov, .pba] W = true) (hg : Goes W s0 s) : Goes W s0 (State.released s b fails) := by
  unfold State.released
  repeat' first
    | with_reducible assumption
    | lift_lets
    | (with_reducible refine goes_mapSetup _ ?_ ?_; exact subT rfl hW)
    | (with_reducible refine goes_chnStart _ ?_ ?_; exact subT rfl hW)
    | (with_reducible refine goes_powerUpTests _ _ ?_ ?_; exact subT rfl hW)
    | (with_reducible refine goes_corStart _ ?_ ?_; exact subT rfl hW)
    | (with_reducible refine goes_sclRestore _ ?_ ?_; exact subT rfl hW)
    | (with_reducible refine goes_sclLoad _ ?_ ?_; exact subT rfl hW)
    | (with_reducible refine goes_fovStart _ ?_ ?_; exact subT rfl hW)
    | (with_reducible refine goes_ntmLoad _ ?_ ?_; exact subT rfl hW)
    | (with_reducible refine Goes.ite ?_ ?_)
    | split

theorem goes_blockRelease {W : List Part} {s0 : State} (s : State) (i : Nat) (fails : List Nat) (hW : subParts [.regs, .out, .mbx, .ldg, .chn, .cor, .scl, .fov, .pba] W = true) (hg : Goes W s0 s) : Goes W s0 (State.blockRelease s i fails) := by
  unfold State.blockRelease
  repeat' first
    | with_reducible assumption
    | (intro x; refine Goes.cut (W := W) (s0 := s0) (x := x) ?_ ?_; rotate_left; clear_value x; intro hx; rotate_right)
    | lift_lets
    | (with_reducible refine goes_setRstBit _ _ _ _ ?_ ?_; exact subT rfl hW)
    | (with_reducible refine goes_released _ _ _ ?_ ?_; exact subT rfl hW)
    | (with_reducible refine Goes.ite ?_ ?_)
    | split

theorem goes_execBlockRelease {W : List Part} {s0 : State} (bit : Nat) (fails : List Nat) (s : State) (hW : subParts [.regs, .out, .mbx, .ldg, .chn, .cor, .scl, .fov, .pba] W = true) (hg : Goes W s0 s) : ∀ t0, execBlockRelease bit fails s = .next t0 → Goes W s0 t0 := by
  unfold execBlockRelease
  intro t0 e0
  obtain rfl := Host.Outcome.next.inj e0
  clear e0
  repeat' first
    | with_reducible assumption
    | (with_reducible refine goes_blockRelease _ _ _ ?_ ?_; exact subT rfl hW)

theorem goes_relTimeout {W : List Part} {s0 : State} (s : State) (i : Nat) (hW : subParts [.regs, .out, .ldg, .pba] W = true) (hg : Goes W s0 s) : Goes W s0 (State.relTimeout s i) := by
  unfold State.relTimeout
  repeat' first
    | with_reducible assumption
    | (intro x; refine Goes.cut (W := W) (s0 := s0) (x := x) ?_ ?_; rotate_left; clear_value x; intro hx; rotate_right)
    | lift_lets
    | (with_reducible refine goes_setRstBit _ _ _ _ ?_ ?_; exact subT rfl hW)
    | (with_reducible refine goes_err _ _ _ _ _ ?_ ?_; exact subT rfl hW)
    | (with_reducible refine goes_ledger _ _ _ _ _ _ _ ?_ ?_; exact subT rfl hW)
    | (with_reducible refine Goes.ite ?_ ?_)

theorem goes_execReleaseTimeout {W : List Part} {s0 : State} (bit : Nat) (s : State) (hW : subParts [.regs, .out, .ldg, .pba] W = true) (hg : Goes W s0 s) : ∀ t0, execReleaseTimeout bit s = .next t0 → Goes W s0 t0 := by
  unfold execReleaseTimeout
  intro t0 e0
  obtain rfl := Host.Outcome.next.inj e0
  clear e0
  repeat' first
    | with_reducible assumption
    | (with_reducible refine goes_relTimeout _ _ ?_ ?_; exact subT rfl hW)

end Sys2Proof.Machine
end

