-- ==== Sys2Proof/Laws/Gap.lean ====
section
/-! SUPPORT. What a register reads as after a reset of the module. -/

namespace Sys2Proof.Machine

open Sys2Proof

/-- An address that no entry of a list has finds nothing. -/
theorem Sparse.find_none_of {α : Type} (l : Sparse α) (a : Nat) (h : ∀ p ∈ l, p.1 ≠ a) : Sparse.find l a = none := by
  induction l with
  | nil => rfl
  | cons p r ih =>
    have h1 := h p List.mem_cons_self
    unfold Sparse.find
    simp only [h1, if_false]
    exact ih fun q hq => h q (List.mem_cons_of_mem _ hq)

/-- A register that a reset of the module keeps nothing of reads as its reset value. -/
theorem gapRegs_get_default (b warm : Bool) (l : Sparse Word) (a : Nat) (h : ∀ v, gapWord b warm a v = none) :
    Sparse.get (regDefault b) (gapRegs b warm l) a = regDefault b a := by
  unfold Sparse.get
  rw [Sparse.find_none_of]
  · rfl
  · intro p hp e
    obtain ⟨q, _, eq⟩ := List.mem_filterMap.mp hp
    split at eq
    · cases eq
    · rename_i v ev
      split at eq
      · cases eq
      · cases eq
        rw [show q.1 = a from e, h] at ev
        cases ev

end Sys2Proof.Machine
end

