-- ==== Sys2Proof/Laws/GoesControl.lean ====
section
/-! SUPPORT. What the operations of Machine/Control.lean can change: one lemma each. -/

set_option linter.unreachableTactic false
set_option linter.unusedTactic false

namespace Sys2Proof.Machine

open Sys2Proof

theorem goes_drainDone {W : List Part} {s0 : State} (s : State) (b : Blk) (hW : subParts [.regs, .out, .pba] W = true) (hg : Goes W s0 s) : Goes W s0 (State.drainDone s b) := by
  unfold State.drainDone
  repeat' first
    | with_reducible assumption
    | lift_lets
    | (with_reducible refine goes_setDrained _ _ ?_ ?_; exact subT rfl hW)
    | (with_reducible refine Goes.ite ?_ ?_)

theorem goes_queResume {W : List Part} {s0 : State} (s : State) (hW : subParts [.regs, .out, .mkt, .que, .pba] W = true) (hg : Goes W s0 s) : Goes W s0 (State.queResume s) := by
  unfold State.queResume
  repeat' first
    | with_reducible assumption
    | lift_lets
    | (with_reducible refine goes_hwDrain _ _ _ ?_ ?_; exact subT rfl hW)
    | (with_reducible refine goes_writeComps _ ?_ ?_; exact subT rfl hW)
    | (refine Goes.foldl (fun _ _ _ => ?_) ?_)

theorem goes_mktResume {W : List Part} {s0 : State} (s : State) (hW : subParts [.regs, .out, .mkt, .que, .pba] W = true) (hg : Goes W s0 s) : Goes W s0 (State.mktResume s) := by
  unfold State.mktResume
  repeat' first
    | with_reducible assumption
    | (intro x; refine Goes.cut (W := W) (s0 := s0) (x := x) ?_ ?_; rotate_left; clear_value x; intro hx; rotate_right)
    | lift_lets
    | (with_reducible refine goes_mktRoom _ ?_ ?_; exact subT rfl hW)
    | (with_reducible refine goes_startLane _ _ ?_ ?_; exact subT rfl hW)
    | (with_reducible refine Goes.ite ?_ ?_)
    | (refine Goes.foldl (fun _ _ _ => ?_) ?_)

theorem goes_resumeBlk {W : List Part} {s0 : State} (s : State) (b : Blk) (hW : subParts [.regs, .out, .mbx, .mkt, .que, .ldg, .boot, .port, .scl, .pba] W = true) (hg : Goes W s0 s) : Goes W s0 (State.resumeBlk s b) := by
  unfold State.resumeBlk
  repeat' first
    | with_reducible assumption
    | lift_lets
    | (with_reducible refine goes_startLane _ _ ?_ ?_; exact subT rfl hW)
    | (with_reducible refine goes_lateFlush _ ?_ ?_; exact subT rfl hW)
    | (with_reducible refine goes_drvResume _ _ ?_ ?_; exact subT rfl hW)
    | (with_reducible refine goes_sclResume _ ?_ ?_; exact subT rfl hW)
    | (with_reducible refine goes_queResume _ ?_ ?_; exact subT rfl hW)
    | (with_reducible refine goes_mktResume _ ?_ ?_; exact subT rfl hW)
    | (with_reducible refine Goes.ite ?_ ?_)
    | split

theorem goes_enableBlk {W : List Part} {s0 : State} (s : State) (b : Blk) (hW : subParts [.regs, .out, .free, .mbx, .mkt, .que, .ldg, .ntm, .boot, .lvl, .port, .scl, .host, .pba] W = true) (hg : Goes W s0 s) : Goes W s0 (State.enableBlk s b) := by
  unfold State.enableBlk
  repeat' first
    | with_reducible assumption
    | (with_reducible refine goes_lvlEnable _ ?_ ?_; exact subT rfl hW)
    | (with_reducible refine goes_drvEnable _ _ ?_ ?_; exact subT rfl hW)
    | (with_reducible refine goes_sclEnable _ ?_ ?_; exact subT rfl hW)
    | (with_reducible refine goes_hostUpdate _ ?_ ?_; exact subT rfl hW)
    | (with_reducible refine goes_resumeBlk _ _ ?_ ?_; exact subT rfl hW)
    | split

theorem goes_disableBlk {W : List Part} {s0 : State} (s : State) (b : Blk) (hW : subParts [.regs, .out, .free, .cnt, .mbx, .mkt, .que, .ldg, .ntm, .mem, .nvs, .vlt, .cry, .rad, .bcn, .net, .lvl, .port, .scl, .nrg, .fov, .upd, .host, .pba] W = true) (hg : Goes W s0 s) : Goes W s0 (State.disableBlk s b) := by
  unfold State.disableBlk
  repeat' first
    | with_reducible assumption
    | intro x
    | lift_lets
    | (with_reducible refine goes_laneDrainCheck _ _ ?_ ?_; exact subT rfl hW)
    | (with_reducible refine goes_mktCancel _ ?_ ?_; exact subT rfl hW)
    | (with_reducible refine goes_saveSeries _ ?_ ?_; exact subT rfl hW)
    | (with_reducible refine goes_ntmDisable _ ?_ ?_; exact subT rfl hW)
    | (with_reducible refine goes_radDrain _ _ ?_ ?_; exact subT rfl hW)
    | (with_reducible refine goes_vltCancel _ ?_ ?_; exact subT rfl hW)
    | (with_reducible refine goes_lnkDrain _ ?_ ?_; exact subT rfl hW)
    | (with_reducible refine goes_lnkDisable _ ?_ ?_; exact subT rfl hW)
    | (with_reducible refine goes_lvlDisable _ ?_ ?_; exact subT rfl hW)
    | (with_reducible refine goes_bcnStop _ ?_ ?_; exact subT rfl hW)
    | (with_reducible refine goes_drvDisable _ _ ?_ ?_; exact subT rfl hW)
    | (with_reducible refine goes_sclDisable _ ?_ ?_; exact subT rfl hW)
    | (with_reducible refine goes_fovDisable _ ?_ ?_; exact subT rfl hW)
    | (with_reducible refine goes_fswDisable _ ?_ ?_; exact subT rfl hW)
    | (with_reducible refine goes_hostUpdate _ ?_ ?_; exact subT rfl hW)
    | (with_reducible refine goes_updDisable _ ?_ ?_; exact subT rfl hW)
    | (with_reducible refine goes_drainDone _ _ ?_ ?_; exact subT rfl hW)
    | split
    | (fail_if_no_progress (with_reducible refine goes_set_cry _ _ ?_ ?_; exact subT rfl hW))

theorem goes_cancelHeld {W : List Part} {s0 : State} (s : State) (b : Blk) (hW : subParts [.regs, .out, .free, .cnt, .mbx, .mkt, .que, .ldg, .ntm, .mem, .nvs, .vlt, .cry, .rad, .net, .lvl, .port, .scl, .nrg, .fov, .upd, .host, .pba] W = true) (hg : Goes W s0 s) : Goes W s0 (State.cancelHeld s b) := by
  unfold State.cancelHeld
  repeat' first
    | with_reducible assumption
    | intro x
    | lift_lets
    | (with_reducible refine goes_wareDone _ _ _ ?_ ?_; exact subT rfl hW)
    | (with_reducible refine goes_slotsBack _ _ ?_ ?_; exact subT rfl hW)
    | (with_reducible refine goes_mktCancel _ ?_ ?_; exact subT rfl hW)
    | (with_reducible refine goes_saveSeries _ ?_ ?_; exact subT rfl hW)
    | (with_reducible refine goes_ntmDisable _ ?_ ?_; exact subT rfl hW)
    | (with_reducible refine goes_opAnswer _ _ _ _ ?_ ?_; exact subT rfl hW)
    | (with_reducible refine goes_lnkCancel _ _ ?_ ?_; exact subT rfl hW)
    | (with_reducible refine goes_lnkDisable _ ?_ ?_; exact subT rfl hW)
    | (with_reducible refine goes_lvlDisable _ ?_ ?_; exact subT rfl hW)
    | (with_reducible refine goes_drvDisable _ _ ?_ ?_; exact subT rfl hW)
    | (with_reducible refine goes_sclDisable _ ?_ ?_; exact subT rfl hW)
    | (with_reducible refine goes_fovDisable _ ?_ ?_; exact subT rfl hW)
    | (with_reducible refine goes_fswDisable _ ?_ ?_; exact subT rfl hW)
    | (with_reducible refine goes_hostUpdate _ ?_ ?_; exact subT rfl hW)
    | (with_reducible refine goes_updDisable _ ?_ ?_; exact subT rfl hW)
    | split
    | (refine Goes.foldl (fun _ _ _ => ?_) ?_)
    | (fail_if_no_progress (with_reducible refine goes_set_cry _ _ ?_ ?_; exact subT rfl hW))
    | (fail_if_no_progress (with_reducible refine goes_set_scl _ _ ?_ ?_; exact subT rfl hW))
    | (fail_if_no_progress (with_reducible refine goes_set_vlt _ _ ?_ ?_; exact subT rfl hW))

theorem goes_pauseBlk {W : List Part} {s0 : State} (s : State) (b : Blk) (hW : subParts [.regs, .out, .mkt, .que, .rad, .bcn, .net, .port, .pba] W = true) (hg : Goes W s0 s) : Goes W s0 (State.pauseBlk s b) := by
  unfold State.pauseBlk
  repeat' first
    | with_reducible assumption
    | lift_lets
    | (with_reducible refine goes_takersOff _ ?_ ?_; exact subT rfl hW)
    | (with_reducible refine goes_radDrain _ _ ?_ ?_; exact subT rfl hW)
    | (with_reducible refine goes_bcnStop _ ?_ ?_; exact subT rfl hW)
    | (with_reducible refine goes_drvPause _ _ ?_ ?_; exact subT rfl hW)
    | (with_reducible refine goes_drainDone _ _ ?_ ?_; exact subT rfl hW)
    | split

theorem goes_killBlk {W : List Part} {s0 : State} (s : State) (b : Blk) (hW : subParts [.regs, .out, .free, .mbx, .que, .chk, .mem, .vlt, .cry, .rad, .net, .port, .pba] W = true) (hg : Goes W s0 s) : Goes W s0 (State.killBlk s b) := by
  unfold State.killBlk
  repeat' first
    | with_reducible assumption
    | intro x
    | lift_lets
    | (with_reducible refine goes_wr _ _ _ ?_ ?_; exact subT rfl hW)
    | (with_reducible refine goes_chkKill _ ?_ ?_; exact subT rfl hW)
    | (with_reducible refine goes_rxAbort _ _ ?_ ?_; exact subT rfl hW)
    | (with_reducible refine goes_radKill _ _ ?_ ?_; exact subT rfl hW)
    | (with_reducible refine goes_vltKill _ ?_ ?_; exact subT rfl hW)
    | (with_reducible refine goes_lnkKill _ ?_ ?_; exact subT rfl hW)
    | (with_reducible refine goes_drvDrained _ _ ?_ ?_; exact subT rfl hW)
    | split
    | (fail_if_no_progress (with_reducible refine goes_set_cry _ _ ?_ ?_; exact subT rfl hW))

theorem goes_setCtrl {W : List Part} {s0 : State} (s : State) (b : Blk) (en : Bool) (drain : Bool) (hW : subParts [.regs] W = true) (hg : Goes W s0 s) : Goes W s0 (State.setCtrl s b en drain) := by
  unfold State.setCtrl
  repeat' first
    | with_reducible assumption
    | lift_lets
    | (with_reducible refine goes_wb _ _ _ _ ?_ ?_; exact subT rfl hW)

theorem goes_undrain {W : List Part} {s0 : State} (s : State) (b : Blk) (hW : subParts [.regs] W = true) (hg : Goes W s0 s) : Goes W s0 (State.undrain s b) := by
  unfold State.undrain
  repeat' first
    | with_reducible assumption
    | (with_reducible refine goes_wb _ _ _ _ ?_ ?_; exact subT rfl hW)

theorem goes_killReq {W : List Part} {s0 : State} (s : State) (b : Blk) (m : Master) (hW : subParts [.regs, .out, .free, .mbx, .que, .chk, .mem, .vlt, .cry, .rad, .net, .port, .pba] W = true) (hg : Goes W s0 s) : Goes W s0 (State.killReq s b m) := by
  unfold State.killReq
  repeat' first
    | with_reducible assumption
    | lift_lets
    | (with_reducible refine goes_wb _ _ _ _ ?_ ?_; exact subT rfl hW)
    | (with_reducible refine goes_err _ _ _ _ _ ?_ ?_; exact subT rfl hW)
    | (with_reducible refine goes_drainDone _ _ ?_ ?_; exact subT rfl hW)
    | (with_reducible refine goes_killBlk _ _ ?_ ?_; exact subT rfl hW)
    | (with_reducible refine Goes.ite ?_ ?_)

theorem goes_enDrain {W : List Part} {s0 : State} (s : State) (b : Blk) (en : Bool) (drain : Bool) (hW : subParts [.regs, .out, .free, .cnt, .mbx, .mkt, .que, .ldg, .ntm, .mem, .nvs, .boot, .vlt, .cry, .rad, .bcn, .net, .lvl, .port, .scl, .nrg, .fov, .upd, .host, .pba] W = true) (hg : Goes W s0 s) : GoesO W s0 (State.enDrain s b en drain) := by
  unfold State.enDrain
  repeat' first
    | with_reducible assumption
    | (intro x; refine Goes.cut (W := W) (s0 := s0) (x := x) ?_ ?_; rotate_left; clear_value x; intro hx; rotate_right)
    | lift_lets
    | (with_reducible refine goes_resumeBlk _ _ ?_ ?_; exact subT rfl hW)
    | (with_reducible refine goes_enableBlk _ _ ?_ ?_; exact subT rfl hW)
    | (with_reducible refine goes_disableBlk _ _ ?_ ?_; exact subT rfl hW)
    | (with_reducible refine goes_cancelHeld _ _ ?_ ?_; exact subT rfl hW)
    | (with_reducible refine goes_pauseBlk _ _ ?_ ?_; exact subT rfl hW)
    | (with_reducible refine goes_setCtrl _ _ _ _ ?_ ?_; exact subT rfl hW)
    | (with_reducible refine goes_undrain _ _ ?_ ?_; exact subT rfl hW)
    | (refine GoesO.some ?_)
    | exact GoesO.none
    | (with_reducible refine Goes.ite ?_ ?_)
    | (with_reducible refine GoesO.ite ?_ ?_)

theorem goes_ctrlWrite {W : List Part} {s0 : State} (s : State) (b : Blk) (m : Master) (v : Word) (hW : subParts [.regs, .out, .free, .cnt, .mbx, .mkt, .que, .chk, .ldg, .ntm, .mem, .nvs, .boot, .vlt, .cry, .rad, .chn, .lnk, .bcn, .net, .cor, .lvl, .fsw, .port, .drg, .scl, .nrg, .ibg, .fov, .upd, .host, .pba] W = true) (hg : Goes W s0 s) : Goes W s0 (State.ctrlWrite s b m v) := by
  unfold State.ctrlWrite
  repeat' first
    | with_reducible assumption
    | (intro x; refine Goes.cut (W := W) (s0 := s0) (x := x) ?_ ?_; rotate_left; clear_value x; intro hx; rotate_right)
    | lift_lets
    | (with_reducible refine goes_err _ _ _ _ _ ?_ ?_; exact subT rfl hW)
    | (with_reducible refine goes_blockReset _ _ ?_ ?_; exact subT rfl hW)
    | (with_reducible refine goes_killReq _ _ _ ?_ ?_; exact subT rfl hW)
    | (with_reducible refine GoesO.elim (goes_enDrain _ _ _ _ ?_ ?_) (by assumption); exact subT rfl hW)
    | (with_reducible refine Goes.ite ?_ ?_)
    | split

end Sys2Proof.Machine
end

