-- ==== Sys2Proof/Laws/GoesBus.lean ====
section
/-! SUPPORT. What the operations of Machine/Bus.lean can change: one lemma each. -/

set_option linter.unreachableTactic false
set_option linter.unusedTactic false

namespace Sys2Proof.Machine

open Sys2Proof

theorem goes_hdrWrite {W : List Part} {s0 : State} (s : State) (b : Blk) (m : Master) (off : Nat) (v : Word) (hW : subParts [.regs, .out, .free, .cnt, .mbx, .mkt, .que, .chk, .ldg, .ntm, .mem, .nvs, .boot, .vlt, .cry, .rad, .chn, .lnk, .bcn, .net, .cor, .lvl, .fsw, .port, .drg, .scl, .nrg, .ibg, .fov, .upd, .host, .pba] W = true) (hg : Goes W s0 s) : Goes W s0 (State.hdrWrite s b m off v) := by
  unfold State.hdrWrite
  repeat' first
    | with_reducible assumption
    | lift_lets
    | (with_reducible refine goes_wr _ _ _ ?_ ?_; exact subT rfl hW)
    | (with_reducible refine goes_wb _ _ _ _ ?_ ?_; exact subT rfl hW)
    | (with_reducible refine goes_irqBits _ _ _ ?_ ?_; exact subT rfl hW)
    | (with_reducible refine goes_irqClear _ _ _ ?_ ?_; exact subT rfl hW)
    | (with_reducible refine goes_irqEnable _ _ _ ?_ ?_; exact subT rfl hW)
    | (with_reducible refine goes_ctrlWrite _ _ _ _ ?_ ?_; exact subT rfl hW)
    | (with_reducible refine Goes.ite ?_ ?_)

theorem goes_rstWrite {W : List Part} {s0 : State} (s : State) (m : Master) (off : Nat) (v : Word) (hW : subParts [.regs, .out, .free, .cnt, .edgeCnt, .netEdge, .mbx, .mkt, .que, .chk, .ldg, .ntm, .mem, .nvs, .boot, .pwt, .vlt, .cry, .rad, .chn, .lnk, .bcn, .net, .cor, .lvl, .fsw, .port, .drg, .scl, .nrg, .ibg, .rmc, .fov, .upd, .host, .pba] W = true) (hg : Goes W s0 s) : GoesO W s0 (State.rstWrite s m off v) := by
  unfold State.rstWrite
  repeat' first
    | with_reducible assumption
    | lift_lets
    | (with_reducible refine goes_swReset _ _ _ ?_ ?_; exact subT rfl hW)
    | (with_reducible refine goes_blkRstSet _ _ _ ?_ ?_; exact subT rfl hW)
    | (with_reducible refine goes_blkRstClr _ _ _ ?_ ?_; exact subT rfl hW)
    | (refine GoesO.some ?_)
    | exact GoesO.none
    | (with_reducible refine GoesO.ite ?_ ?_)

theorem goes_stageWare {W : List Part} {s0 : State} (s : State) (win : Nat) (i : Nat) (v : Word) (hW : subParts [.mkt] W = true) (hg : Goes W s0 s) : Goes W s0 (State.stageWare s win i v) := by
  unfold State.stageWare
  repeat' first
    | with_reducible assumption
    | intro x
    | lift_lets
    | (fail_if_no_progress (with_reducible refine goes_set_mkt _ _ ?_ ?_; exact subT rfl hW))

theorem goes_windowWrite {W : List Part} {s0 : State} (s : State) (owner : Master) (i : Nat) (v : Word) (hW : subParts [.regs, .out, .mkt, .que, .pba] W = true) (hg : Goes W s0 s) : Goes W s0 (State.windowWrite s owner i v) := by
  unfold State.windowWrite
  repeat' first
    | with_reducible assumption
    | lift_lets
    | (with_reducible refine goes_submit _ _ _ ?_ ?_; exact subT rfl hW)
    | (with_reducible refine goes_stageWare _ _ _ _ ?_ ?_; exact subT rfl hW)
    | (with_reducible refine Goes.ite ?_ ?_)
    | split

theorem goes_mktWrite {W : List Part} {s0 : State} (s : State) (m : Master) (p : Nat) (off : Nat) (v : Word) (hW : subParts [.regs, .out, .mkt, .que, .pba] W = true) (hg : Goes W s0 s) : GoesO W s0 (State.mktWrite s m p off v) := by
  unfold State.mktWrite
  repeat' first
    | with_reducible assumption
    | lift_lets
    | (with_reducible refine goes_setCtr _ _ _ ?_ ?_; exact subT rfl hW)
    | (with_reducible refine goes_addCtr _ _ ?_ ?_; exact subT rfl hW)
    | (with_reducible refine goes_retirePort _ _ _ _ ?_ ?_; exact subT rfl hW)
    | (with_reducible refine goes_classCfg _ _ _ _ ?_ ?_; exact subT rfl hW)
    | (with_reducible refine goes_domCfgWrite _ _ _ ?_ ?_; exact subT rfl hW)
    | (with_reducible refine goes_windowWrite _ _ _ _ ?_ ?_; exact subT rfl hW)
    | (refine GoesO.some ?_)
    | exact GoesO.none
    | (with_reducible refine GoesO.ite ?_ ?_)

theorem goes_queWrite {W : List Part} {s0 : State} (s : State) (m : Master) (p : Nat) (off : Nat) (v : Word) (hW : subParts [.regs, .out, .que, .pba] W = true) (hg : Goes W s0 s) : GoesO W s0 (State.queWrite s m p off v) := by
  unfold State.queWrite
  repeat' first
    | with_reducible assumption
    | intro x
    | lift_lets
    | (with_reducible refine goes_qpush _ _ _ _ ?_ ?_; exact subT rfl hW)
    | (with_reducible refine goes_qcfg _ _ _ _ ?_ ?_; exact subT rfl hW)
    | (with_reducible refine goes_qct _ _ _ _ ?_ ?_; exact subT rfl hW)
    | (refine GoesO.some ?_)
    | exact GoesO.none
    | (with_reducible refine Goes.ite ?_ ?_)
    | (with_reducible refine GoesO.ite ?_ ?_)
    | (fail_if_no_progress (with_reducible refine goes_set_que _ _ ?_ ?_; exact subT rfl hW))

theorem goes_chkWrite {W : List Part} {s0 : State} (s : State) (m : Master) (off : Nat) (v : Word) (hW : subParts [.regs, .out, .chk, .pba] W = true) (hg : Goes W s0 s) : GoesO W s0 (State.chkWrite s m off v) := by
  unfold State.chkWrite
  repeat' first
    | with_reducible assumption
    | intro x
    | lift_lets
    | (with_reducible refine goes_err _ _ _ _ _ ?_ ?_; exact subT rfl hW)
    | (with_reducible refine goes_cval _ _ _ _ ?_ ?_; exact subT rfl hW)
    | (with_reducible refine goes_ccfg _ _ _ _ ?_ ?_; exact subT rfl hW)
    | (refine GoesO.some ?_)
    | exact GoesO.none
    | (with_reducible refine GoesO.ite ?_ ?_)

theorem goes_chnWrite {W : List Part} {s0 : State} (s : State) (m : Master) (off : Nat) (v : Word) (hW : subParts [.regs, .out, .ldg, .chn, .pba] W = true) (hg : Goes W s0 s) : GoesO W s0 (State.chnWrite s m off v) := by
  unfold State.chnWrite
  repeat' first
    | with_reducible assumption
    | lift_lets
    | (with_reducible refine goes_err _ _ _ _ _ ?_ ?_; exact subT rfl hW)
    | (with_reducible refine goes_hopCommit _ _ _ ?_ ?_; exact subT rfl hW)
    | (refine GoesO.some ?_)
    | exact GoesO.none
    | (with_reducible refine GoesO.ite ?_ ?_)

theorem goes_corWrite32 {W : List Part} {s0 : State} (s : State) (m : Master) (p : Nat) (off : Nat) (v : Word) (hW : subParts [.regs, .out, .ldg, .cor, .pba] W = true) (hg : Goes W s0 s) : GoesO W s0 (State.corWrite32 s m p off v) := by
  unfold State.corWrite32
  repeat' first
    | with_reducible assumption
    | lift_lets
    | (with_reducible refine goes_err _ _ _ _ _ ?_ ?_; exact subT rfl hW)
    | (with_reducible refine goes_corCtrl _ _ _ _ ?_ ?_; exact subT rfl hW)
    | (refine GoesO.some ?_)
    | exact GoesO.none
    | (with_reducible refine GoesO.ite ?_ ?_)

theorem goes_lvlWrite {W : List Part} {s0 : State} (s : State) (m : Master) (off : Nat) (v : Word) (hW : subParts [.regs, .out, .mbx, .que, .ldg, .nvs, .rad, .chn, .lnk, .net, .lvl, .pba] W = true) (hg : Goes W s0 s) : GoesO W s0 (State.lvlWrite s m off v) := by
  unfold State.lvlWrite
  repeat' first
    | with_reducible assumption
    | lift_lets
    | (with_reducible refine goes_err _ _ _ _ _ ?_ ?_; exact subT rfl hW)
    | (with_reducible refine goes_modeCtrl _ _ _ ?_ ?_; exact subT rfl hW)
    | (refine GoesO.some ?_)
    | (with_reducible refine GoesO.ite ?_ ?_)
    | (with_reducible refine GoesO.map (fun _ => ?_))

theorem goes_vltWriteP {W : List Part} {s0 : State} (s : State) (m : Master) (off : Nat) (v : Word) (hW : subParts [.regs, .out, .free, .cnt, .edgeCnt, .netEdge, .mbx, .mkt, .que, .chk, .ldg, .ntm, .mem, .nvs, .boot, .pwt, .vlt, .cry, .rad, .chn, .lnk, .bcn, .net, .cor, .lvl, .fsw, .port, .drg, .scl, .nrg, .ibg, .rmc, .fov, .upd, .host, .pba] W = true) (hg : Goes W s0 s) : GoesO W s0 (State.vltWrite' s m off v) := by
  unfold State.vltWrite'
  repeat' first
    | with_reducible assumption
    | lift_lets
    | (with_reducible refine goes_vltWrite _ _ _ _ ?_ ?_; exact subT rfl hW)
    | (with_reducible refine goes_zeroizeReg _ _ _ ?_ ?_; exact subT rfl hW)
    | (refine GoesO.some ?_)
    | (with_reducible refine GoesO.ite ?_ ?_)

theorem goes_ownWrite {W : List Part} {s0 : State} (s : State) (b : Blk) (m : Master) (p : Nat) (off : Nat) (v : Word) (hW : subParts [.regs, .out, .free, .cnt, .edgeCnt, .netEdge, .mbx, .mkt, .que, .chk, .ldg, .ntm, .mem, .nvs, .boot, .pwt, .vlt, .cry, .rad, .chn, .lnk, .bcn, .net, .cor, .lvl, .fsw, .port, .drg, .scl, .nrg, .ibg, .rmc, .fov, .upd, .host, .pba] W = true) (hg : Goes W s0 s) : GoesO W s0 (State.ownWrite s b m p off v) := by
  unfold State.ownWrite
  repeat' first
    | with_reducible assumption
    | lift_lets
    | (with_reducible refine goes_err _ _ _ _ _ ?_ ?_; exact subT rfl hW)
    | (with_reducible refine goes_wdogWrite _ _ _ _ ?_ ?_; exact subT rfl hW)
    | (with_reducible refine goes_ldgWrite _ _ _ _ ?_ ?_; exact subT rfl hW)
    | (with_reducible refine goes_ntmWrite _ _ _ _ ?_ ?_; exact subT rfl hW)
    | (with_reducible refine goes_radWrite _ _ _ _ _ ?_ ?_; exact subT rfl hW)
    | (with_reducible refine goes_pwtWrite _ _ _ _ ?_ ?_; exact subT rfl hW)
    | (with_reducible refine goes_cryWrite _ _ _ _ ?_ ?_; exact subT rfl hW)
    | (with_reducible refine goes_lnkWrite _ _ _ _ ?_ ?_; exact subT rfl hW)
    | (with_reducible refine goes_routeWrite _ _ _ _ ?_ ?_; exact subT rfl hW)
    | (with_reducible refine goes_bcnWrite _ _ _ _ ?_ ?_; exact subT rfl hW)
    | (with_reducible refine goes_drvWrite _ _ _ _ _ ?_ ?_; exact subT rfl hW)
    | (with_reducible refine goes_drgWrite _ _ _ _ ?_ ?_; exact subT rfl hW)
    | (with_reducible refine goes_sclWrite0 _ _ _ _ ?_ ?_; exact subT rfl hW)
    | (with_reducible refine goes_balWrite _ _ _ _ ?_ ?_; exact subT rfl hW)
    | (with_reducible refine goes_ibgWrite _ _ _ _ ?_ ?_; exact subT rfl hW)
    | (with_reducible refine goes_fovWrite _ _ _ _ ?_ ?_; exact subT rfl hW)
    | (with_reducible refine goes_fswWrite _ _ _ _ ?_ ?_; exact subT rfl hW)
    | (with_reducible refine goes_pwrWrite _ _ _ _ ?_ ?_; exact subT rfl hW)
    | (with_reducible refine goes_sysWrite _ _ _ _ ?_ ?_; exact subT rfl hW)
    | (with_reducible refine goes_mbxWrite _ _ _ _ ?_ ?_; exact subT rfl hW)
    | (with_reducible refine goes_rstWrite _ _ _ _ ?_ ?_; exact subT rfl hW)
    | (with_reducible refine goes_mktWrite _ _ _ _ _ ?_ ?_; exact subT rfl hW)
    | (with_reducible refine goes_queWrite _ _ _ _ _ ?_ ?_; exact subT rfl hW)
    | (with_reducible refine goes_chkWrite _ _ _ _ ?_ ?_; exact subT rfl hW)
    | (with_reducible refine goes_chnWrite _ _ _ _ ?_ ?_; exact subT rfl hW)
    | (with_reducible refine goes_corWrite32 _ _ _ _ _ ?_ ?_; exact subT rfl hW)
    | (with_reducible refine goes_lvlWrite _ _ _ _ ?_ ?_; exact subT rfl hW)
    | (with_reducible refine goes_vltWriteP _ _ _ _ ?_ ?_; exact subT rfl hW)
    | (refine GoesO.some ?_)
    | exact GoesO.none
    | (with_reducible refine GoesO.ite ?_ ?_)
    | split

theorem goes_pageStore {W : List Part} {s0 : State} (s : State) (b : Blk) (m : Master) (p : Nat) (off : Nat) (v : Word) (hW : subParts [.regs, .out, .free, .cnt, .edgeCnt, .netEdge, .mbx, .mkt, .que, .chk, .ldg, .ntm, .mem, .nvs, .boot, .pwt, .vlt, .cry, .rad, .chn, .lnk, .bcn, .net, .cor, .lvl, .fsw, .port, .drg, .scl, .nrg, .ibg, .rmc, .fov, .upd, .host, .pba] W = true) (hg : Goes W s0 s) : Goes W s0 (State.pageStore s b m p off v) := by
  unfold State.pageStore
  repeat' first
    | with_reducible assumption
    | intro x
    | lift_lets
    | (with_reducible refine goes_err _ _ _ _ _ ?_ ?_; exact subT rfl hW)
    | (with_reducible refine goes_plainWrite _ _ _ _ _ ?_ ?_; exact subT rfl hW)
    | (with_reducible refine goes_hdrWrite _ _ _ _ _ ?_ ?_; exact subT rfl hW)
    | (with_reducible refine GoesO.elim (goes_ownWrite _ _ _ _ _ _ ?_ ?_) (by assumption); exact subT rfl hW)
    | (with_reducible refine Goes.ite ?_ ?_)
    | split

theorem goes_regWrite {W : List Part} {s0 : State} (s : State) (m : Master) (a : Nat) (v : Word) (hW : subParts [.regs, .out, .resp, .free, .cnt, .edgeCnt, .netEdge, .mbx, .mkt, .que, .chk, .ldg, .ntm, .mem, .nvs, .boot, .pwt, .vlt, .cry, .rad, .chn, .lnk, .bcn, .net, .cor, .lvl, .fsw, .port, .drg, .scl, .nrg, .ibg, .rmc, .fov, .upd, .host, .pba] W = true) (hg : Goes W s0 s) : Goes W s0 (State.regWrite s m a v) := by
  unfold State.regWrite
  repeat' first
    | with_reducible assumption
    | lift_lets
    | (with_reducible refine goes_answer _ _ ?_ ?_; exact subT rfl hW)
    | (with_reducible refine goes_onPage _ _ _ _ _ ?_ (fun _ _ => ?_) ?_; exact subT rfl hW)
    | (with_reducible refine goes_unmappedAccess _ _ _ _ ?_ ?_; exact subT rfl hW)
    | (with_reducible refine goes_pageWrite _ _ _ _ _ ?_ (fun _ _ => ?_) ?_; exact subT rfl hW)
    | (with_reducible refine goes_msixWrite _ _ _ ?_ ?_; exact subT rfl hW)
    | (with_reducible refine goes_pageStore _ _ _ _ _ _ ?_ ?_; exact subT rfl hW)
    | (with_reducible refine Goes.ite ?_ ?_)
    | split

theorem goes_portRead {W : List Part} {s0 : State} (s : State) (m : Master) (port : Nat) (poll : Bool) (hW : subParts [.regs, .out, .resp, .mkt, .que, .pba] W = true) (hg : Goes W s0 s) : Goes W s0 (State.portRead s m port poll) := by
  unfold State.portRead
  repeat' first
    | with_reducible assumption
    | (intro x; refine Goes.cut (W := W) (s0 := s0) (x := x) ?_ ?_; rotate_left; clear_value x; intro hx; rotate_right)
    | intro x
    | lift_lets
    | (with_reducible refine goes_answer _ _ ?_ ?_; exact subT rfl hW)
    | (with_reducible refine goes_takeTry _ _ _ ?_ ?_; exact subT rfl hW)
    | (with_reducible refine Goes.ite ?_ ?_)
    | split
    | (fail_if_no_progress (with_reducible refine goes_set_mkt _ _ ?_ ?_; exact subT rfl hW))

theorem goes_cresultRead {W : List Part} {s0 : State} (s : State) (u : Nat) (hW : subParts [.regs, .out, .resp, .chk, .pba] W = true) (hg : Goes W s0 s) : Goes W s0 (State.cresultRead s u) := by
  unfold State.cresultRead
  repeat' first
    | with_reducible assumption
    | (intro x; refine Goes.cut (W := W) (s0 := s0) (x := x) ?_ ?_; rotate_left; clear_value x; intro hx; rotate_right)
    | intro x
    | lift_lets
    | (with_reducible refine goes_wr _ _ _ ?_ ?_; exact subT rfl hW)
    | (with_reducible refine goes_answer _ _ ?_ ?_; exact subT rfl hW)
    | (with_reducible refine goes_irqClear _ _ _ ?_ ?_; exact subT rfl hW)
    | (with_reducible refine goes_setUnit _ _ _ ?_ ?_; exact subT rfl hW)

theorem goes_actRead {W : List Part} {s0 : State} (s : State) (b : Blk) (m : Master) (p : Nat) (off : Nat) (hW : subParts [.regs, .out, .resp, .free, .mkt, .que, .chk, .ldg, .ntm, .pba] W = true) (hg : Goes W s0 s) : GoesO W s0 (State.actRead s b m p off) := by
  unfold State.actRead
  repeat' first
    | with_reducible assumption
    | intro x
    | lift_lets
    | (with_reducible refine goes_answer _ _ ?_ ?_; exact subT rfl hW)
    | (with_reducible refine goes_draw _ _ ?_ ?_; exact subT rfl hW)
    | (with_reducible refine goes_qpop _ _ _ ?_ ?_; exact subT rfl hW)
    | (with_reducible refine goes_heldHwRead _ ?_ ?_; exact subT rfl hW)
    | (with_reducible refine goes_win7Read _ _ ?_ ?_; exact subT rfl hW)
    | (with_reducible refine goes_tickRead _ ?_ ?_; exact subT rfl hW)
    | (with_reducible refine goes_rtcLatch _ _ ?_ ?_; exact subT rfl hW)
    | (with_reducible refine goes_portRead _ _ _ _ ?_ ?_; exact subT rfl hW)
    | (with_reducible refine goes_cresultRead _ _ ?_ ?_; exact subT rfl hW)
    | (refine GoesO.some ?_)
    | exact GoesO.none
    | (with_reducible refine GoesO.ite ?_ ?_)
    | split
    | (fail_if_no_progress (with_reducible refine goes_set_ldg _ _ ?_ ?_; exact subT rfl hW))
    | (fail_if_no_progress (with_reducible refine goes_set_ntm _ _ ?_ ?_; exact subT rfl hW))

theorem goes_pageLoad {W : List Part} {s0 : State} (s : State) (b : Blk) (m : Master) (p : Nat) (off : Nat) (hW : subParts [.regs, .out, .resp, .free, .mkt, .que, .chk, .ldg, .ntm, .pba] W = true) (hg : Goes W s0 s) : Goes W s0 (State.pageLoad s b m p off) := by
  unfold State.pageLoad
  repeat' first
    | with_reducible assumption
    | intro x
    | lift_lets
    | (with_reducible refine goes_wr _ _ _ ?_ ?_; exact subT rfl hW)
    | (with_reducible refine goes_answer _ _ ?_ ?_; exact subT rfl hW)
    | (with_reducible refine GoesO.elim (goes_actRead _ _ _ _ _ ?_ ?_) (by assumption); exact subT rfl hW)
    | (with_reducible refine Goes.ite ?_ ?_)
    | split

theorem goes_regRead {W : List Part} {s0 : State} (s : State) (m : Master) (a : Nat) (hW : subParts [.regs, .out, .resp, .free, .mkt, .que, .chk, .ldg, .ntm, .pba] W = true) (hg : Goes W s0 s) : Goes W s0 (State.regRead s m a) := by
  unfold State.regRead
  repeat' first
    | with_reducible assumption
    | lift_lets
    | (with_reducible refine goes_answer _ _ ?_ ?_; exact subT rfl hW)
    | (with_reducible refine goes_onPage _ _ _ _ _ ?_ (fun _ _ => ?_) ?_; exact subT rfl hW)
    | (with_reducible refine goes_unmappedAccess _ _ _ _ ?_ ?_; exact subT rfl hW)
    | (with_reducible refine goes_pageLoad _ _ _ _ _ ?_ ?_; exact subT rfl hW)
    | (with_reducible refine Goes.ite ?_ ?_)
    | split

theorem goes_storeWrite {W : List Part} {s0 : State} (s : State) (m : Master) (l : Option PorterLoc) (v : Word) (hW : subParts [.regs, .out, .resp, .free, .ldg, .mem, .nvs, .emc, .cor, .upd, .pba] W = true) (hg : Goes W s0 s) : Goes W s0 (State.storeWrite s m l v) := by
  unfold State.storeWrite
  repeat' first
    | with_reducible assumption
    | lift_lets
    | (with_reducible refine goes_answer _ _ ?_ ?_; exact subT rfl hW)
    | (with_reducible refine goes_err _ _ _ _ _ ?_ ?_; exact subT rfl hW)
    | (with_reducible refine goes_dramStore _ _ _ _ ?_ ?_; exact subT rfl hW)
    | (with_reducible refine goes_nvsWrite _ _ _ _ ?_ ?_; exact subT rfl hW)
    | (with_reducible refine goes_porterWrite _ _ _ ?_ ?_; exact subT rfl hW)
    | split

theorem goes_storeRead {W : List Part} {s0 : State} (s : State) (m : Master) (l : Option PorterLoc) (hW : subParts [.regs, .out, .resp, .free, .ldg, .mem, .pba] W = true) (hg : Goes W s0 s) : Goes W s0 (State.storeRead s m l) := by
  unfold State.storeRead
  repeat' first
    | with_reducible assumption
    | intro x
    | lift_lets
    | (with_reducible refine goes_answer _ _ ?_ ?_; exact subT rfl hW)
    | (with_reducible refine goes_err _ _ _ _ _ ?_ ?_; exact subT rfl hW)
    | (with_reducible refine goes_dramFetch _ _ _ _ ?_ ?_; exact subT rfl hW)
    | (with_reducible refine goes_porterRead _ _ _ ?_ ?_; exact subT rfl hW)
    | (with_reducible refine Goes.ite ?_ ?_)
    | split

theorem goes_laneLocal {W : List Part} {s0 : State} (s : State) (n : Fin 4) (a : Nat) (w : Option Word) (hW : subParts [.regs, .out, .resp, .mkt, .que, .pba] W = true) (hg : Goes W s0 s) : GoesO W s0 (State.laneLocal s n a w) := by
  unfold State.laneLocal
  repeat' first
    | with_reducible assumption
    | (intro x; refine Goes.cut (W := W) (s0 := s0) (x := x) ?_ ?_; rotate_left; clear_value x; intro hx; rotate_right)
    | lift_lets
    | (with_reducible refine goes_answer _ _ ?_ ?_; exact subT rfl hW)
    | (with_reducible refine goes_onPage _ _ _ _ _ ?_ (fun _ _ => ?_) ?_; exact subT rfl hW)
    | (with_reducible refine goes_windowRead _ _ ?_ ?_; exact subT rfl hW)
    | (with_reducible refine goes_retireLane _ _ _ ?_ ?_; exact subT rfl hW)
    | (with_reducible refine goes_windowWrite _ _ _ _ ?_ ?_; exact subT rfl hW)
    | (refine GoesO.some ?_)
    | exact GoesO.none
    | (with_reducible refine GoesO.ite ?_ ?_)
    | split

theorem goes_busWrite {W : List Part} {s0 : State} (s : State) (m : Master) (a : Nat) (v : Word) (hW : subParts [.regs, .out, .resp, .free, .cnt, .edgeCnt, .netEdge, .mbx, .mkt, .que, .chk, .ldg, .ntm, .mem, .nvs, .emc, .boot, .pwt, .vlt, .cry, .rad, .chn, .lnk, .bcn, .net, .cor, .lvl, .fsw, .port, .drg, .scl, .nrg, .ibg, .rmc, .fov, .upd, .host, .pba] W = true) (hg : Goes W s0 s) : Goes W s0 (State.busWrite s m a v) := by
  unfold State.busWrite
  repeat' first
    | with_reducible assumption
    | lift_lets
    | (with_reducible refine goes_answer _ _ ?_ ?_; exact subT rfl hW)
    | (with_reducible refine goes_barReq _ _ _ _ ?_ (fun _ _ => ?_) ?_; exact subT rfl hW)
    | (with_reducible refine goes_regWrite _ _ _ _ ?_ ?_; exact subT rfl hW)
    | (with_reducible refine goes_storeWrite _ _ _ _ ?_ ?_; exact subT rfl hW)
    | (with_reducible refine goes_laneLocal _ _ _ _ ?_ ?_; exact subT rfl hW)
    | (with_reducible refine Goes.ite ?_ ?_)
    | (with_reducible refine GoesO.getD ?_ ?_)
    | split

theorem goes_busRead {W : List Part} {s0 : State} (s : State) (m : Master) (a : Nat) (hW : subParts [.regs, .out, .resp, .free, .mkt, .que, .chk, .ldg, .ntm, .mem, .host, .pba] W = true) (hg : Goes W s0 s) : Goes W s0 (State.busRead s m a) := by
  unfold State.busRead
  repeat' first
    | with_reducible assumption
    | lift_lets
    | (with_reducible refine goes_answer _ _ ?_ ?_; exact subT rfl hW)
    | (with_reducible refine goes_barReq _ _ _ _ ?_ (fun _ _ => ?_) ?_; exact subT rfl hW)
    | (with_reducible refine goes_regRead _ _ _ ?_ ?_; exact subT rfl hW)
    | (with_reducible refine goes_storeRead _ _ _ ?_ ?_; exact subT rfl hW)
    | (with_reducible refine goes_laneLocal _ _ _ _ ?_ ?_; exact subT rfl hW)
    | (with_reducible refine Goes.ite ?_ ?_)
    | (with_reducible refine GoesO.getD ?_ ?_)
    | split

theorem goes_bar0Serve {W : List Part} {s0 : State} (s : State) (r : Bar0Req) (hW : subParts [.regs, .out, .resp, .free, .cnt, .edgeCnt, .netEdge, .mbx, .mkt, .que, .chk, .ldg, .ntm, .mem, .nvs, .boot, .pwt, .vlt, .cry, .rad, .chn, .lnk, .bcn, .net, .cor, .lvl, .fsw, .port, .drg, .scl, .nrg, .ibg, .rmc, .fov, .upd, .host, .pba] W = true) (hg : Goes W s0 s) : Goes W s0 (State.bar0Serve s r) := by
  unfold State.bar0Serve
  repeat' first
    | with_reducible assumption
    | intro x
    | lift_lets
    | (with_reducible refine goes_emit _ _ ?_ ?_; exact subT rfl hW)
    | (with_reducible refine goes_narrow _ _ _ _ ?_ ?_; exact subT rfl hW)
    | (with_reducible refine goes_multiDw _ _ _ ?_ ?_; exact subT rfl hW)
    | (with_reducible refine goes_regWrite _ _ _ _ ?_ ?_; exact subT rfl hW)
    | (with_reducible refine goes_regRead _ _ _ ?_ ?_; exact subT rfl hW)
    | (with_reducible refine Goes.ite ?_ ?_)
    | split

theorem goes_bar0Queue {W : List Part} {s0 : State} (l : List Bar0Req) (s : State) (hW : subParts [.regs, .out, .resp, .free, .cnt, .edgeCnt, .netEdge, .mbx, .mkt, .que, .chk, .ldg, .ntm, .mem, .nvs, .boot, .pwt, .vlt, .cry, .rad, .chn, .lnk, .bcn, .net, .cor, .lvl, .fsw, .port, .drg, .scl, .nrg, .ibg, .rmc, .fov, .upd, .host, .pba] W = true) (h : Goes W s0 s) : Goes W s0 (bar0Queue l s) := by
  induction l generalizing s with
  | nil =>
    unfold bar0Queue
    repeat' first
      | assumption
  | cons x r ih =>
    unfold bar0Queue
    repeat' first
      | (with_reducible refine ih _ ?_)
      | with_reducible assumption
      | intro x
      | lift_lets
      | (with_reducible refine goes_bar0Serve _ _ ?_ ?_; exact subT rfl hW)
      | (with_reducible refine Goes.ite ?_ ?_)
      | (fail_if_no_progress (apply Goes.upd [.regs, .out, .resp, .free, .cnt, .edgeCnt, .netEdge, .mbx, .mkt, .que, .chk, .ldg, .ntm, .mem, .nvs, .boot, .pwt, .vlt, .cry, .rad, .chn, .lnk, .bcn, .net, .cor, .lvl, .fsw, .port, .drg, .scl, .nrg, .ibg, .rmc, .fov, .upd, .host, .pba]; dsimp only; exact subT rfl hW; (intro p hp; cases p <;> first | rfl | simp at hp); first | exact fun c => c | exact fun c => ⟨Sparse.filter_wf _ _ _ c.1, c.2⟩ | exact fun c => ⟨c.1, Sparse.filter_wf _ _ _ c.2.1, c.2.2⟩ | exact fun c => ⟨c.1, memWrite_wf _ _ _ c.2.1, c.2.2⟩ | exact fun c => ⟨c.1, c.2.1, memWrite_wf _ _ _ c.2.2.1, c.2.2.2⟩ | exact fun c => ⟨c.1, c.2.1, c.2.2.1, memWrite_wf _ _ _ c.2.2.2.1, c.2.2.2.2⟩ | exact fun c => ⟨c.1, c.2.1, Memory.wf_nil, c.2.2.2⟩ | exact fun c => ⟨c.1, c.2.1, c.2.2.1, c.2.2.2.1, memWrite_wf _ _ _ c.2.2.2.2.1, c.2.2.2.2.2⟩))

theorem goes_hostFlush {W : List Part} {s0 : State} (s : State) (hW : subParts [.regs, .out, .resp, .free, .cnt, .edgeCnt, .netEdge, .mbx, .mkt, .que, .chk, .ldg, .ntm, .mem, .nvs, .boot, .pwt, .vlt, .cry, .rad, .chn, .lnk, .bcn, .net, .cor, .lvl, .fsw, .port, .drg, .scl, .nrg, .ibg, .rmc, .fov, .upd, .host, .pba] W = true) (hg : Goes W s0 s) : Goes W s0 (State.hostFlush s) := by
  unfold State.hostFlush
  split
  · exact hg
  · exact goes_set_resp _ _ (subT rfl hW) (goes_bar0Queue _ _ (subT rfl hW) (goes_host _ _ rfl (subT rfl hW) hg))

theorem goes_execWareDispatch {W : List Part} {s0 : State} (c : Consumer) (us : Nat) (cycles : Nat) (s : State) (hW : subParts [.regs, .out, .resp, .free, .cnt, .edgeCnt, .netEdge, .mbx, .mkt, .que, .chk, .ldg, .ntm, .mem, .nvs, .boot, .pwt, .vlt, .cry, .rad, .chn, .lnk, .bcn, .net, .cor, .lvl, .fsw, .port, .drg, .scl, .nrg, .ibg, .rmc, .fov, .upd, .host, .pba] W = true) (hg : Goes W s0 s) : ∀ t0, execWareDispatch c us cycles s = .next t0 → Goes W s0 t0 := by
  unfold execWareDispatch
  intro t0 e0
  obtain rfl := Host.Outcome.next.inj e0
  clear e0
  repeat' first
    | with_reducible assumption
    | lift_lets
    | (with_reducible refine goes_dispatch _ _ _ _ ?_ ?_; exact subT rfl hW)
    | (with_reducible refine goes_hostFlush _ ?_ ?_; exact subT rfl hW)

theorem goes_execTakeTimeout {W : List Part} {s0 : State} (port : Fin 2) (s : State) (hW : subParts [.regs, .out, .resp, .free, .cnt, .edgeCnt, .netEdge, .mbx, .mkt, .que, .chk, .ldg, .ntm, .mem, .nvs, .boot, .pwt, .vlt, .cry, .rad, .chn, .lnk, .bcn, .net, .cor, .lvl, .fsw, .port, .drg, .scl, .nrg, .ibg, .rmc, .fov, .upd, .host, .pba] W = true) (hg : Goes W s0 s) : ∀ t0, execTakeTimeout port s = .next t0 → Goes W s0 t0 := by
  unfold execTakeTimeout
  intro t0 e0
  obtain rfl := Host.Outcome.next.inj e0
  clear e0
  repeat' first
    | with_reducible assumption
    | lift_lets
    | (with_reducible refine goes_takeTimeout _ _ ?_ ?_; exact subT rfl hW)
    | (with_reducible refine goes_hostFlush _ ?_ ?_; exact subT rfl hW)

theorem goes_execBlockReset {W : List Part} {s0 : State} (m : Master) (hi : Bool) (v : Word) (s : State) (hW : subParts [.regs, .out, .resp, .free, .cnt, .edgeCnt, .netEdge, .mbx, .mkt, .que, .chk, .ldg, .ntm, .mem, .nvs, .boot, .pwt, .vlt, .cry, .rad, .chn, .lnk, .bcn, .net, .cor, .lvl, .fsw, .port, .drg, .scl, .nrg, .ibg, .rmc, .fov, .upd, .host, .pba] W = true) (hg : Goes W s0 s) : ∀ t0, execBlockReset m hi v s = .next t0 → Goes W s0 t0 := by
  unfold execBlockReset
  intro t0 e0
  obtain rfl := Host.Outcome.next.inj e0
  clear e0
  repeat' first
    | with_reducible assumption
    | lift_lets
    | (with_reducible refine goes_answer _ _ ?_ ?_; exact subT rfl hW)
    | (with_reducible refine goes_writeAt _ _ _ _ _ _ ?_ (fun _ _ => ?_) ?_; exact subT rfl hW)
    | (with_reducible refine goes_blkRstSet _ _ _ ?_ ?_; exact subT rfl hW)
    | (with_reducible refine goes_hostFlush _ ?_ ?_; exact subT rfl hW)

theorem goes_execPageRstReq {W : List Part} {s0 : State} (m : Master) (b : Blk) (s : State) (hW : subParts [.regs, .out, .resp, .free, .cnt, .edgeCnt, .netEdge, .mbx, .mkt, .que, .chk, .ldg, .ntm, .mem, .nvs, .boot, .pwt, .vlt, .cry, .rad, .chn, .lnk, .bcn, .net, .cor, .lvl, .fsw, .port, .drg, .scl, .nrg, .ibg, .rmc, .fov, .upd, .host, .pba] W = true) (hg : Goes W s0 s) : ∀ t0, execPageRstReq m b s = .next t0 → Goes W s0 t0 := by
  unfold execPageRstReq
  intro t0 e0
  obtain rfl := Host.Outcome.next.inj e0
  clear e0
  repeat' first
    | with_reducible assumption
    | lift_lets
    | (with_reducible refine goes_answer _ _ ?_ ?_; exact subT rfl hW)
    | (with_reducible refine goes_writeAt _ _ _ _ _ _ ?_ (fun _ _ => ?_) ?_; exact subT rfl hW)
    | (with_reducible refine goes_blockReset _ _ ?_ ?_; exact subT rfl hW)
    | (with_reducible refine goes_hostFlush _ ?_ ?_; exact subT rfl hW)

theorem goes_ctrlChange {W : List Part} {s0 : State} (s : State) (b : Blk) (m : Master) (f : Word → Word) (hW : subParts [.regs, .out, .resp, .free, .cnt, .edgeCnt, .netEdge, .mbx, .mkt, .que, .chk, .ldg, .ntm, .mem, .nvs, .boot, .pwt, .vlt, .cry, .rad, .chn, .lnk, .bcn, .net, .cor, .lvl, .fsw, .port, .drg, .scl, .nrg, .ibg, .rmc, .fov, .upd, .host, .pba] W = true) (hg : Goes W s0 s) : Goes W s0 (State.ctrlChange s b m f) := by
  unfold State.ctrlChange
  repeat' first
    | with_reducible assumption
    | lift_lets
    | (with_reducible refine goes_hdrReq _ _ _ _ _ _ ?_ (fun _ _ => ?_) ?_; exact subT rfl hW)
    | (with_reducible refine goes_ctrlWrite _ _ _ _ ?_ ?_; exact subT rfl hW)
    | (with_reducible refine goes_hostFlush _ ?_ ?_; exact subT rfl hW)

theorem goes_execBlockEnable {W : List Part} {s0 : State} (m : Master) (b : Blk) (s : State) (hW : subParts [.regs, .out, .resp, .free, .cnt, .edgeCnt, .netEdge, .mbx, .mkt, .que, .chk, .ldg, .ntm, .mem, .nvs, .boot, .pwt, .vlt, .cry, .rad, .chn, .lnk, .bcn, .net, .cor, .lvl, .fsw, .port, .drg, .scl, .nrg, .ibg, .rmc, .fov, .upd, .host, .pba] W = true) (hg : Goes W s0 s) : ∀ t0, execBlockEnable m b s = .next t0 → Goes W s0 t0 := by
  unfold execBlockEnable
  intro t0 e0
  obtain rfl := Host.Outcome.next.inj e0
  clear e0
  repeat' first
    | with_reducible assumption
    | (with_reducible refine goes_ctrlChange _ _ _ _ ?_ ?_; exact subT rfl hW)

theorem goes_execBlockDisable {W : List Part} {s0 : State} (m : Master) (b : Blk) (s : State) (hW : subParts [.regs, .out, .resp, .free, .cnt, .edgeCnt, .netEdge, .mbx, .mkt, .que, .chk, .ldg, .ntm, .mem, .nvs, .boot, .pwt, .vlt, .cry, .rad, .chn, .lnk, .bcn, .net, .cor, .lvl, .fsw, .port, .drg, .scl, .nrg, .ibg, .rmc, .fov, .upd, .host, .pba] W = true) (hg : Goes W s0 s) : ∀ t0, execBlockDisable m b s = .next t0 → Goes W s0 t0 := by
  unfold execBlockDisable
  intro t0 e0
  obtain rfl := Host.Outcome.next.inj e0
  clear e0
  repeat' first
    | with_reducible assumption
    | (with_reducible refine goes_ctrlChange _ _ _ _ ?_ ?_; exact subT rfl hW)

theorem goes_execDrainSet {W : List Part} {s0 : State} (m : Master) (b : Blk) (s : State) (hW : subParts [.regs, .out, .resp, .free, .cnt, .edgeCnt, .netEdge, .mbx, .mkt, .que, .chk, .ldg, .ntm, .mem, .nvs, .boot, .pwt, .vlt, .cry, .rad, .chn, .lnk, .bcn, .net, .cor, .lvl, .fsw, .port, .drg, .scl, .nrg, .ibg, .rmc, .fov, .upd, .host, .pba] W = true) (hg : Goes W s0 s) : ∀ t0, execDrainSet m b s = .next t0 → Goes W s0 t0 := by
  unfold execDrainSet
  intro t0 e0
  obtain rfl := Host.Outcome.next.inj e0
  clear e0
  repeat' first
    | with_reducible assumption
    | (with_reducible refine goes_ctrlChange _ _ _ _ ?_ ?_; exact subT rfl hW)

theorem goes_execDrainClear {W : List Part} {s0 : State} (m : Master) (b : Blk) (s : State) (hW : subParts [.regs, .out, .resp, .free, .cnt, .edgeCnt, .netEdge, .mbx, .mkt, .que, .chk, .ldg, .ntm, .mem, .nvs, .boot, .pwt, .vlt, .cry, .rad, .chn, .lnk, .bcn, .net, .cor, .lvl, .fsw, .port, .drg, .scl, .nrg, .ibg, .rmc, .fov, .upd, .host, .pba] W = true) (hg : Goes W s0 s) : ∀ t0, execDrainClear m b s = .next t0 → Goes W s0 t0 := by
  unfold execDrainClear
  intro t0 e0
  obtain rfl := Host.Outcome.next.inj e0
  clear e0
  repeat' first
    | with_reducible assumption
    | (with_reducible refine goes_ctrlChange _ _ _ _ ?_ ?_; exact subT rfl hW)

theorem goes_execDrainComplete {W : List Part} {s0 : State} (b : Blk) (s : State) (hW : subParts [.regs, .out, .cnt, .port, .pba] W = true) (hg : Goes W s0 s) : ∀ t0, execDrainComplete b s = .next t0 → Goes W s0 t0 := by
  unfold execDrainComplete
  intro t0 e0
  obtain rfl := Host.Outcome.next.inj e0
  clear e0
  repeat' first
    | with_reducible assumption
    | lift_lets
    | (with_reducible refine goes_drvFaded _ _ ?_ ?_; exact subT rfl hW)
    | (with_reducible refine goes_drvDrained _ _ ?_ ?_; exact subT rfl hW)
    | (with_reducible refine goes_drainDone _ _ ?_ ?_; exact subT rfl hW)
    | split

theorem goes_execKill {W : List Part} {s0 : State} (m : Master) (b : Blk) (s : State) (hW : subParts [.regs, .out, .resp, .free, .cnt, .edgeCnt, .netEdge, .mbx, .mkt, .que, .chk, .ldg, .ntm, .mem, .nvs, .boot, .pwt, .vlt, .cry, .rad, .chn, .lnk, .bcn, .net, .cor, .lvl, .fsw, .port, .drg, .scl, .nrg, .ibg, .rmc, .fov, .upd, .host, .pba] W = true) (hg : Goes W s0 s) : ∀ t0, execKill m b s = .next t0 → Goes W s0 t0 := by
  unfold execKill
  intro t0 e0
  obtain rfl := Host.Outcome.next.inj e0
  clear e0
  repeat' first
    | with_reducible assumption
    | (with_reducible refine goes_ctrlChange _ _ _ _ ?_ ?_; exact subT rfl hW)

theorem goes_execRegisterWrite {W : List Part} {s0 : State} (m : Master) (addr : Nat) (v : Word) (s : State) (hW : subParts [.regs, .out, .resp, .free, .cnt, .edgeCnt, .netEdge, .mbx, .mkt, .que, .chk, .ldg, .ntm, .mem, .nvs, .emc, .boot, .pwt, .vlt, .cry, .rad, .chn, .lnk, .bcn, .net, .cor, .lvl, .fsw, .port, .drg, .scl, .nrg, .ibg, .rmc, .fov, .upd, .host, .pba] W = true) (hg : Goes W s0 s) : ∀ t0, execRegisterWrite m addr v s = .next t0 → Goes W s0 t0 := by
  unfold execRegisterWrite
  intro t0 e0
  obtain rfl := Host.Outcome.next.inj e0
  clear e0
  repeat' first
    | with_reducible assumption
    | lift_lets
    | (with_reducible refine goes_busWrite _ _ _ _ ?_ ?_; exact subT rfl hW)
    | (with_reducible refine goes_hostFlush _ ?_ ?_; exact subT rfl hW)
    | (with_reducible refine Goes.ite ?_ ?_)

theorem goes_execRcRead {W : List Part} {s0 : State} (m : Master) (addr : Nat) (s : State) (hW : subParts [.regs, .out, .resp, .free, .mkt, .que, .chk, .ldg, .ntm, .mem, .host, .pba] W = true) (hg : Goes W s0 s) : ∀ t0, execRcRead m addr s = .next t0 → Goes W s0 t0 := by
  unfold execRcRead
  intro t0 e0
  obtain rfl := Host.Outcome.next.inj e0
  clear e0
  repeat' first
    | with_reducible assumption
    | lift_lets
    | (with_reducible refine goes_busRead _ _ _ ?_ ?_; exact subT rfl hW)
    | (with_reducible refine Goes.ite ?_ ?_)

theorem goes_execApertureSwitch {W : List Part} {s0 : State} (s : State) (hW : subParts [.regs, .out, .free, .cnt, .edgeCnt, .netEdge, .mbx, .mkt, .que, .chk, .ldg, .ntm, .mem, .nvs, .boot, .pwt, .vlt, .cry, .rad, .chn, .lnk, .bcn, .net, .cor, .lvl, .fsw, .port, .drg, .scl, .nrg, .ibg, .rmc, .fov, .upd, .host, .pba] W = true) (hg : Goes W s0 s) : ∀ t0, execApertureSwitch s = .next t0 → Goes W s0 t0 := by
  unfold execApertureSwitch
  intro t0 e0
  obtain rfl := Host.Outcome.next.inj e0
  clear e0
  repeat' first
    | with_reducible assumption
    | intro x
    | lift_lets
    | (with_reducible refine goes_bar2Held _ _ ?_ ?_; exact subT rfl hW)
    | (with_reducible refine goes_critReset _ ?_ ?_; exact subT rfl hW)
    | split
    | (fail_if_no_progress (apply Goes.upd [.host]; dsimp only; exact subT rfl hW; (intro p hp; cases p <;> first | rfl | simp at hp); first | exact fun c => c | exact fun c => ⟨c.1, memWrite_wf _ _ _ c.2.1, c.2.2⟩ | exact fun c => ⟨c.1, c.2.1, memWrite_wf _ _ _ c.2.2.1, c.2.2.2⟩ | exact fun c => ⟨c.1, c.2.1, c.2.2.1, memWrite_wf _ _ _ c.2.2.2.1, c.2.2.2.2⟩ | exact fun c => ⟨c.1, c.2.1, Memory.wf_nil, c.2.2.2⟩ | exact fun c => ⟨c.1, c.2.1, c.2.2.1, c.2.2.2.1, memWrite_wf _ _ _ c.2.2.2.2.1, c.2.2.2.2.2⟩))

theorem goes_execBar2Access {W : List Part} {s0 : State} (a : Bar2Access) (s : State) (hW : subParts [.regs, .out, .resp, .free, .cnt, .edgeCnt, .netEdge, .mbx, .mkt, .que, .chk, .ldg, .ntm, .mem, .nvs, .boot, .pwt, .vlt, .cry, .rad, .chn, .lnk, .bcn, .net, .cor, .lvl, .fsw, .port, .drg, .scl, .nrg, .ibg, .rmc, .fov, .upd, .host, .pba] W = true) (hg : Goes W s0 s) : ∀ t0, execBar2Access a s = .next t0 → Goes W s0 t0 := by
  unfold execBar2Access
  intro t0 e0
  obtain rfl := Host.Outcome.next.inj e0
  clear e0
  repeat' first
    | with_reducible assumption
    | intro x
    | lift_lets
    | (with_reducible refine goes_answer _ _ ?_ ?_; exact subT rfl hW)
    | (with_reducible refine goes_bar2Serve _ _ ?_ ?_; exact subT rfl hW)
    | (with_reducible refine goes_critReset _ ?_ ?_; exact subT rfl hW)
    | (with_reducible refine Goes.ite ?_ ?_)
    | (fail_if_no_progress (apply Goes.upd [.host]; dsimp only; exact subT rfl hW; (intro p hp; cases p <;> first | rfl | simp at hp); first | exact fun c => c | exact fun c => ⟨c.1, memWrite_wf _ _ _ c.2.1, c.2.2⟩ | exact fun c => ⟨c.1, c.2.1, memWrite_wf _ _ _ c.2.2.1, c.2.2.2⟩ | exact fun c => ⟨c.1, c.2.1, c.2.2.1, memWrite_wf _ _ _ c.2.2.2.1, c.2.2.2.2⟩ | exact fun c => ⟨c.1, c.2.1, Memory.wf_nil, c.2.2.2⟩ | exact fun c => ⟨c.1, c.2.1, c.2.2.1, c.2.2.2.1, memWrite_wf _ _ _ c.2.2.2.2.1, c.2.2.2.2.2⟩))

theorem goes_execScrubBurst {W : List Part} {s0 : State} (errs : List (Nat × CwErr)) (s : State) (hW : subParts [.regs, .out, .free, .cnt, .edgeCnt, .netEdge, .mbx, .mkt, .que, .chk, .ldg, .ntm, .mem, .nvs, .boot, .pwt, .vlt, .cry, .rad, .chn, .lnk, .bcn, .net, .cor, .lvl, .fsw, .port, .drg, .scl, .nrg, .ibg, .rmc, .fov, .upd, .host, .pba] W = true) (hg : Goes W s0 s) : ∀ t0, execScrubBurst errs s = .next t0 → Goes W s0 t0 := by
  unfold execScrubBurst
  intro t0 e0
  obtain rfl := Host.Outcome.next.inj e0
  clear e0
  repeat' first
    | with_reducible assumption
    | lift_lets
    | (with_reducible refine goes_scrub _ _ ?_ ?_; exact subT rfl hW)
    | (with_reducible refine goes_critReset _ ?_ ?_; exact subT rfl hW)

theorem goes_execPorterTransferDone {W : List Part} {s0 : State} (t : Porter) (s : State) (hW : subParts [.regs, .out, .resp, .free, .cnt, .edgeCnt, .netEdge, .mbx, .mkt, .que, .chk, .ldg, .ntm, .mem, .nvs, .emc, .boot, .pwt, .vlt, .cry, .rad, .chn, .lnk, .bcn, .net, .cor, .lvl, .fsw, .port, .drg, .scl, .nrg, .ibg, .rmc, .fov, .upd, .host, .pba] W = true) (hg : Goes W s0 s) : ∀ t0, execPorterTransferDone t s = .next t0 → Goes W s0 t0 := by
  unfold execPorterTransferDone
  intro t0 e0
  obtain rfl := Host.Outcome.next.inj e0
  clear e0
  repeat' first
    | with_reducible assumption
    | lift_lets
    | (with_reducible refine goes_porterDone _ _ ?_ ?_; exact subT rfl hW)
    | (with_reducible refine goes_critReset _ ?_ ?_; exact subT rfl hW)

end Sys2Proof.Machine
end

