-- ==== Sys2Proof/Laws/GoesRelease.lean ====
section
/-! SUPPORT. What the operations of Machine/Release.lean can change: one lemma each. -/

set_option linter.unreachableTactic false
set_option linter.unusedTactic false

namespace Sys2Proof.Machine

open Sys2Proof

theorem goes_txBytes {W : List Part} {s0 : State} (s : State) (x : Tx) (hW : subParts [.regs, .out, .free, .mem, .pba] W = true) (hg : Goes W s0 s) : Goes W s0 (State.txBytes s x).1 := by
  unfold State.txBytes
  repeat' first
    | with_reducible assumption
    | (intro x; refine Goes.cut (W := W) (s0 := s0) (x := x) ?_ ?_; rotate_left; clear_value x; intro hx; rotate_right)
    | lift_lets
    | (with_reducible refine goes_sramSeen _ _ _ ?_ ?_; exact subT rfl hW)
    | split

theorem goes_txBytes' {W : List Part} {s0 : State} (s : State) (x : Tx) {u0 : State} {v0 : Option Bytes} (e : State.txBytes s x = (u0, v0)) (hW : subParts [.regs, .out, .free, .mem, .pba] W = true) (hg : Goes W s0 s) : Goes W s0 u0 := by
  have := goes_txBytes s x hW hg
  rw [e] at this
  exact this

theorem goes_securedOf {W : List Part} {s0 : State} (s : State) (x : Tx) {t : State} {b : Bytes} (e : s.securedOf x = .done t b)
    (hW : subParts [.regs, .out, .free, .mem, .nvs, .lnk, .pba] W = true) (hg : Goes W s0 s) : Goes W s0 t := by
  unfold State.securedOf at e
  split at e
  · cases e
    exact hg
  · dsimp only at e
    split at e
    · exact goes_secure _ _ _ e (subT rfl hW) (goes_txBytes _ _ (subT rfl hW) hg)
    · cases e

theorem goes_noteDreq {W : List Part} {s0 : State} (s : State) (b : Bytes) (hW : subParts [.ntm] W = true) (hg : Goes W s0 s) : Goes W s0 (State.noteDreq s b) := by
  unfold State.noteDreq
  repeat' first
    | with_reducible assumption
    | intro x
    | lift_lets
    | (with_reducible refine Goes.ite ?_ ?_)
    | (fail_if_no_progress (with_reducible refine goes_set_ntm _ _ ?_ ?_; exact subT rfl hW))

theorem goes_goOnAir {W : List Part} {s0 : State} (s : State) (r : Nat) (acc : Nat) (c : Nat) (mode : Nat) (air : Nat) (x : Tx) (b : Bytes) (hW : subParts [.regs, .out, .ntm, .nvs, .rad, .chn, .pba] W = true) (hg : Goes W s0 s) : Goes W s0 (State.goOnAir s r acc c mode air x b) := by
  unfold State.goOnAir
  repeat' first
    | with_reducible assumption
    | (intro x; refine Goes.cut (W := W) (s0 := s0) (x := x) ?_ ?_; rotate_left; clear_value x; intro hx; rotate_right)
    | intro x
    | lift_lets
    | (with_reducible refine goes_modRadio _ _ _ ?_ ?_; exact subT rfl hW)
    | (with_reducible refine goes_transmit _ _ _ _ _ _ _ ?_ ?_; exact subT rfl hW)
    | (with_reducible refine goes_noteDreq _ _ ?_ ?_; exact subT rfl hW)

theorem goes_holdFrame {W : List Part} {s0 : State} (s : State) (r : Nat) (acc : Nat) (x : Tx) (hW : subParts [.regs, .out, .que, .rad, .net, .pba] W = true) (hg : Goes W s0 s) : Goes W s0 (State.holdFrame s r acc x) := by
  unfold State.holdFrame
  repeat' first
    | with_reducible assumption
    | (intro x; refine Goes.cut (W := W) (s0 := s0) (x := x) ?_ ?_; rotate_left; clear_value x; intro hx; rotate_right)
    | lift_lets
    | (with_reducible refine goes_modRadio _ _ _ ?_ ?_; exact subT rfl hW)
    | (with_reducible refine goes_txDone _ _ _ _ ?_ ?_; exact subT rfl hW)
    | (with_reducible refine goes_heldBack _ _ ?_ ?_; exact subT rfl hW)
    | (with_reducible refine Goes.ite ?_ ?_)

theorem goes_tryRelease {W : List Part} {s0 : State} (s : State) (r : Nat) (acc : Nat) (x : Tx) (hW : subParts [.regs, .out, .free, .que, .ntm, .mem, .nvs, .rad, .chn, .lnk, .net, .pba] W = true) (hg : Goes W s0 s) : Goes W s0 (State.tryRelease s r acc x) := by
  unfold State.tryRelease
  repeat' first
    | with_reducible assumption
    | intro x
    | lift_lets
    | (with_reducible refine goes_modRadio _ _ _ ?_ ?_; exact subT rfl hW)
    | (with_reducible refine goes_txDone _ _ _ _ ?_ ?_; exact subT rfl hW)
    | (with_reducible refine goes_securedOf _ _ (by assumption) ?_ ?_; exact subT rfl hW)
    | (with_reducible refine goes_goOnAir _ _ _ _ _ _ _ _ ?_ ?_; exact subT rfl hW)
    | (with_reducible refine goes_holdFrame _ _ _ _ ?_ ?_; exact subT rfl hW)
    | (with_reducible refine Goes.ite ?_ ?_)
    | split

theorem goes_releaseFrame {W : List Part} {s0 : State} (s : State) (r : Nat) (acc : Nat) (x : Tx) (hW : subParts [.regs, .out, .free, .que, .ntm, .mem, .nvs, .rad, .chn, .lnk, .net, .pba] W = true) (hg : Goes W s0 s) : Goes W s0 (State.releaseFrame s r acc x) := by
  unfold State.releaseFrame
  repeat' first
    | with_reducible assumption
    | intro x
    | lift_lets
    | (with_reducible refine goes_modRadio _ _ _ ?_ ?_; exact subT rfl hW)
    | (with_reducible refine goes_tryRelease _ _ _ _ ?_ ?_; exact subT rfl hW)
    | (with_reducible refine Goes.ite ?_ ?_)
    | split

theorem goes_releaseOf {W : List Part} {s0 : State} (s : State) (r : Nat) (acc : Nat) (hW : subParts [.regs, .out, .free, .que, .ntm, .mem, .nvs, .rad, .chn, .lnk, .net, .pba] W = true) (hg : Goes W s0 s) : Goes W s0 (State.releaseOf s r acc) := by
  unfold State.releaseOf
  repeat' first
    | with_reducible assumption
    | (intro x; refine Goes.cut (W := W) (s0 := s0) (x := x) ?_ ?_; rotate_left; clear_value x; intro hx; rotate_right)
    | lift_lets
    | (with_reducible refine goes_modRadio _ _ _ ?_ ?_; exact subT rfl hW)
    | (with_reducible refine goes_releaseFrame _ _ _ _ ?_ ?_; exact subT rfl hW)
    | (with_reducible refine Goes.ite ?_ ?_)
    | split

theorem goes_releaseUpTo {W : List Part} {s0 : State} (s : State) (r : Nat) (acc : Nat) (hW : subParts [.regs, .out, .free, .que, .ntm, .mem, .nvs, .rad, .chn, .lnk, .net, .pba] W = true) (hg : Goes W s0 s) : Goes W s0 (State.releaseUpTo s r acc) := by
  unfold State.releaseUpTo
  repeat' first
    | with_reducible assumption
    | lift_lets
    | (with_reducible refine goes_releaseOf _ _ _ ?_ ?_; exact subT rfl hW)
    | (refine Goes.foldl (fun _ _ _ => ?_) ?_)

theorem goes_execFrameRelease {W : List Part} {s0 : State} (radio : Fin 4) (access : Fin 3) (s : State) (hW : subParts [.regs, .out, .free, .que, .ntm, .mem, .nvs, .rad, .chn, .lnk, .net, .pba] W = true) (hg : Goes W s0 s) : ∀ t0, execFrameRelease radio access s = .next t0 → Goes W s0 t0 := by
  unfold execFrameRelease
  intro t0 e0
  obtain rfl := Host.Outcome.next.inj e0
  clear e0
  repeat' first
    | with_reducible assumption
    | lift_lets
    | (with_reducible refine goes_releaseUpTo _ _ _ ?_ ?_; exact subT rfl hW)
    | (with_reducible refine Goes.ite ?_ ?_)

end Sys2Proof.Machine
end

