-- ==== Sys2Proof/Laws/GoesTick.lean ====
section
/-! SUPPORT. What the operations of Machine/Tick.lean can change: one lemma each. -/

set_option linter.unreachableTactic false
set_option linter.unusedTactic false

namespace Sys2Proof.Machine

open Sys2Proof

theorem goes_enterTick {W : List Part} {s0 : State} (s : State) (k : Nat) (c : DWord) (hW : subParts [.cnt, .edgeCnt, .netEdge, .ntm] W = true) (hg : Goes W s0 s) : Goes W s0 (State.enterTick s k c) := by
  unfold State.enterTick
  repeat' first
    | with_reducible assumption
    | intro x
    | lift_lets
    | split
    | (fail_if_no_progress (apply Goes.upd [.cnt, .edgeCnt, .netEdge, .ntm]; dsimp only; exact subT rfl hW; (intro p hp; cases p <;> first | rfl | simp at hp); exact fun c => c))

theorem goes_mktEdge {W : List Part} {s0 : State} (s : State) (k : Nat) (hW : subParts [.regs, .out, .free, .mkt, .que, .ldg, .pba] W = true) (hg : Goes W s0 s) : Goes W s0 (State.mktEdge s k) := by
  unfold State.mktEdge
  repeat' first
    | with_reducible assumption
    | lift_lets
    | (with_reducible refine goes_matchTimeouts _ _ ?_ ?_; exact subT rfl hW)
    | (with_reducible refine goes_overrunCheck _ _ ?_ ?_; exact subT rfl hW)
    | (with_reducible refine goes_runEdges _ _ ?_ ?_; exact subT rfl hW)
    | (with_reducible refine Goes.ite ?_ ?_)

theorem goes_applyTick {W : List Part} {s0 : State} (s : State) (n : Nat) (t : Nat) (hW : subParts [.regs, .out, .mbx, .ldg, .nvs, .chn, .lnk, .lvl, .pba] W = true) (hg : Goes W s0 s) : Goes W s0 (State.applyTick s n t) := by
  unfold State.applyTick
  repeat' first
    | with_reducible assumption
    | lift_lets
    | (with_reducible refine goes_levelEdge _ _ ?_ ?_; exact subT rfl hW)
    | (with_reducible refine goes_fadeStep _ _ ?_ ?_; exact subT rfl hW)
    | (with_reducible refine goes_modeEdge _ _ ?_ ?_; exact subT rfl hW)

theorem goes_applyTicks {W : List Part} {s0 : State} (a : Nat) (l : List Nat) (s : State) (hW : subParts [.regs, .out, .mbx, .ldg, .nvs, .chn, .lnk, .lvl, .pba] W = true) (h : Goes W s0 s) : Goes W s0 (applyTicks a l s).1 := by
  induction l generalizing s a with
  | nil =>
    unfold applyTicks
    repeat' first
      | assumption
  | cons x r ih =>
    unfold applyTicks
    repeat' first
      | (with_reducible refine ih _ _ ?_)
      | with_reducible assumption
      | lift_lets
      | (with_reducible refine goes_applyTick _ _ _ ?_ ?_; exact subT rfl hW)

theorem goes_applyTicks' {W : List Part} {s0 : State} (a : Nat) (l : List Nat) (s : State) {u0 : State} {v0 : Nat} (e : applyTicks a l s = (u0, v0)) (hW : subParts [.regs, .out, .mbx, .ldg, .nvs, .chn, .lnk, .lvl, .pba] W = true) (h : Goes W s0 s) : Goes W s0 u0 := by
  have := goes_applyTicks a l s hW h
  rw [e] at this
  exact this

theorem goes_lightEdge {W : List Part} {s0 : State} (s : State) (old : Nat) (k : Nat) (forward : Bool) (hW : subParts [.regs, .out, .mbx, .ldg, .nvs, .chn, .lnk, .lvl, .pba] W = true) (hg : Goes W s0 s) : Goes W s0 (State.lightEdge s old k forward) := by
  unfold State.lightEdge
  repeat' first
    | with_reducible assumption
    | intro x
    | lift_lets
    | (with_reducible refine goes_fadeStep _ _ ?_ ?_; exact subT rfl hW)
    | (with_reducible refine goes_showLevel _ ?_ ?_; exact subT rfl hW)
    | (with_reducible refine goes_litAgain _ ?_ ?_; exact subT rfl hW)
    | (with_reducible refine goes_applyTick _ _ _ ?_ ?_; exact subT rfl hW)
    | (with_reducible refine goes_applyTicks _ _ _ ?_ ?_; exact subT rfl hW)
    | (with_reducible refine Goes.ite ?_ ?_)

theorem goes_restEdge {W : List Part} {s0 : State} (s : State) (old : Nat) (k : Nat) (hbIn : Bool) (hW : subParts [.regs, .out, .free, .mbx, .mkt, .que, .ldg, .ntm, .mem, .nvs, .rad, .chn, .lnk, .bcn, .net, .cor, .lvl, .port, .scl, .nrg, .ibg, .fov, .host, .pba] W = true) (hg : Goes W s0 s) : Goes W s0 (State.restEdge s old k hbIn) := by
  unfold State.restEdge
  repeat' first
    | with_reducible assumption
    | (intro x; refine Goes.cut (W := W) (s0 := s0) (x := x) ?_ ?_; rotate_left; clear_value x; intro hx; rotate_right)
    | lift_lets
    | (with_reducible refine goes_liveUpdate _ ?_ ?_; exact subT rfl hW)
    | (with_reducible refine goes_corAutoArm _ ?_ ?_; exact subT rfl hW)
    | (with_reducible refine goes_freshBuild _ _ ?_ ?_; exact subT rfl hW)
    | (with_reducible refine goes_hopStage _ ?_ ?_; exact subT rfl hW)
    | (with_reducible refine goes_bcnReady _ _ ?_ ?_; exact subT rfl hW)
    | (with_reducible refine goes_energyEdge _ _ _ ?_ ?_; exact subT rfl hW)
    | (with_reducible refine goes_ringEdge _ ?_ ?_; exact subT rfl hW)
    | (with_reducible refine goes_fovEdge _ _ ?_ ?_; exact subT rfl hW)
    | (with_reducible refine goes_tableEdge _ ?_ ?_; exact subT rfl hW)
    | (with_reducible refine goes_beatEdge _ ?_ ?_; exact subT rfl hW)
    | (with_reducible refine Goes.ite ?_ ?_)

theorem goes_tickEdge {W : List Part} {s0 : State} (s : State) (c : DWord) (sinks : List SinkMeas) (hbIn : Bool) (hW : subParts [.regs, .out, .free, .cnt, .edgeCnt, .netEdge, .mbx, .mkt, .que, .ldg, .ntm, .mem, .nvs, .rad, .chn, .lnk, .bcn, .net, .cor, .lvl, .port, .drg, .scl, .nrg, .ibg, .fov, .host, .pba] W = true) (hg : Goes W s0 s) : Goes W s0 (State.tickEdge s c sinks hbIn) := by
  unfold State.tickEdge
  repeat' first
    | with_reducible assumption
    | (intro x; refine Goes.cut (W := W) (s0 := s0) (x := x) ?_ ?_; rotate_left; clear_value x; intro hx; rotate_right)
    | intro x
    | lift_lets
    | (with_reducible refine goes_txRestamp _ ?_ ?_; exact subT rfl hW)
    | (with_reducible refine goes_driveEdge _ _ _ _ ?_ ?_; exact subT rfl hW)
    | (with_reducible refine goes_enterTick _ _ _ ?_ ?_; exact subT rfl hW)
    | (with_reducible refine goes_mktEdge _ _ ?_ ?_; exact subT rfl hW)
    | (with_reducible refine goes_lightEdge _ _ _ _ ?_ ?_; exact subT rfl hW)
    | (with_reducible refine goes_restEdge _ _ _ _ ?_ ?_; exact subT rfl hW)
    | (with_reducible refine Goes.ite ?_ ?_)
    | (fail_if_no_progress (with_reducible refine goes_set_lvl _ _ ?_ ?_; exact subT rfl hW))

theorem goes_execTickEdge {W : List Part} {s0 : State} (c : DWord) (sinks : List SinkMeas) (hbIn : Bool) (s : State) (hW : subParts [.regs, .out, .free, .cnt, .edgeCnt, .netEdge, .mbx, .mkt, .que, .ldg, .ntm, .mem, .nvs, .rad, .chn, .lnk, .bcn, .net, .cor, .lvl, .port, .drg, .scl, .nrg, .ibg, .fov, .host, .pba] W = true) (hg : Goes W s0 s) : ∀ t0, execTickEdge c sinks hbIn s = .next t0 → Goes W s0 t0 := by
  unfold execTickEdge
  intro t0 e0
  obtain rfl := Host.Outcome.next.inj e0
  clear e0
  repeat' first
    | with_reducible assumption
    | lift_lets
    | (with_reducible refine goes_at _ _ ?_ ?_; exact subT rfl hW)
    | (with_reducible refine goes_tickEdge _ _ _ _ ?_ ?_; exact subT rfl hW)
    | (with_reducible refine Goes.ite ?_ ?_)

end Sys2Proof.Machine
end

