-- ==== Sys2Proof/Tests/Slice0.lean ====
section
/-! SUPPORT. Tests: ill-formed commands that the checks refuse, the spec's worked examples, known answers of the standard algorithms, and for every obligation with hypotheses the states and operands that meet them, clause by clause. The expected results stand in the spec or in the standard that the comment names. -/

set_option Elab.async false

namespace Sys2Proof.Tests

open Sys2Proof Sys2Proof.Machine


/-- A register file with the given values. -/
def regsOf (l : List (Nat × Word)) : Sparse Word := l.foldr (fun p m => Sparse.put m p.1 p.2) []

/-- A module that has started, with the given role and every block out of reset and enabled; it holds network time, in tick 40 of superframe 1000, which a network edge began, a root secret, and keys in slots 1 to 3. -/
def w (role : Word) (l : List (Nat × Word)) : State :=
  { State.reset with
    regs := regsOf (l ++ [(R.rst_ROLE, role), (R.lnk_LNK_KEYS0, 0x030201), (R.ibg_IBG_CFG, 0x41), (R.rst_BLK_IN_RESET_A, 0), (R.rst_BLK_IN_RESET_B, 0), (R.ntm_NTM_STAT, 2)] ++ allBlks.map fun b => (hdr b oCtrl, 1))
    boot := { State.reset.boot with stage := .booted }
    netEdge := true
    ntm := { State.reset.ntm with tick := 256040 }
    pwt := { State.reset.pwt with rs := 1 :: List.replicate 31 0 }
    vlt := { State.reset.vlt with slots := none :: List.replicate 3 (some ⟨0x240, 0, List.range 16 |>.map (BitVec.ofNat 8), []⟩) ++ List.replicate 60 none }
    ldg := { State.reset.ldg with ready := true } }

/-- A mailbox command with an opcode, parameters, data and APPLY; its tag is 7. -/
def kc (opc : Nat) (p d : Bytes) (ap : Word) : Cmd := ⟨⟨opc, 0, 7, d.length, 0, 0, ap, p⟩, some d, 0, false⟩

/-- A state in which a command waits to run. -/
def onK (k : Cmd) (s : State) : State := { s with mbx := { s.mbx with taken := [k] } }

/-- A ware of a class and a key. -/
def w0 (cls : Nat) (key : Word) : Ware := ⟨1, cls, 0, 0, 0, key, 0, 0, 0, 0⟩

/-- A ready ware that has seen a number of tick edges. -/
def rw0 (edges : Nat) : RWare := ⟨w0 0 0, 0, 0, false, false, edges, 0⟩

/-- A frame as a radio hears it. -/
def rx (f : Bytes) : AirRx := ⟨0, f, f, 0, 0, 0, 0⟩

theorem noneImp {α : Type} {o : Option α} {P : α → Prop} (h : o = none) : ∀ l, o = some l → P l := by
  intro l e
  rw [h] at e
  cases e

/-- A row of the head's node table. -/
def nr (index st accSf tries : Nat) : NodeRow := ⟨0, index, [], 3, false, st, 0, 0, 0, 0, 0, 0, 0, 0, accSf, tries, false, true, false, false, 0, none, false⟩

/-- A sleepy child with the frames held for it. -/
def kid (index : Nat) (held : List (Bytes × Nat)) : Child := ⟨index, 0, true, 0, 0, 6, 0, held⟩


/-- A queued frame with a descriptor. -/
def tx (d : DWord) : Tx := ⟨d, none, 0, none, 0, 0⟩

/-- The radios of a state in which radio 0 holds a queued frame, a frame on air, a frame being received and an acknowledgement that is due. -/
def rads (q : Option Tx) (a : Option OnAir) (r : Option RxAir) (k : Option AckDue) : List Rad :=
  ⟨q.toList, a, r, k, [], false, false, false, none⟩ :: List.replicate 3 ⟨[], none, none, none, [], false, false, false, none⟩

/-- The head with one descriptor in queue 0, which is enabled. -/
def qd (d : DWord) : State :=
  { w 1 [(R.que_QCFGq 0, 1)] with que := { (w 0 []).que with q := ⟨[⟨d, false⟩], 0, false, false, []⟩ :: List.replicate 15 ⟨[], 0, false, false, []⟩ } }

/-- A secured frame under segment key 0, its acknowledgement, and the frame on air at the head. -/
def sent0 : Bytes := [0x41, 0, 1, 0] ++ List.replicate 18 0

def ack0 : Bytes := makeAck (((w 1 []).sendKey (parseHdr sent0)).getD []) (BitVec.ofNat 64 (if (parseHdr sent0).lsrc then (parseHdr sent0).src else (w 1 []).nonceId)) (parseHdr sent0) (sent0.drop 14) [0, 0]

def air0 : OnAir := ⟨{ tx 0xF000000520000000 with secured := some sent0 }, 0, 0⟩

/-- The head with a packet of two bytes in queue 0, which is enabled. -/
def qp : State :=
  { w 1 [(R.que_QCFGq 0, 1)] with que := { (w 0 []).que with q := ⟨[⟨0x4000000000000002, false⟩, ⟨0x4200000000000001, false⟩], 0, false, false, []⟩ :: List.replicate 15 ⟨[], 0, false, false, []⟩ } }

/-- A command frame of the head with an opcode and arguments, as node 5 hears it. -/
def cf (o : Bytes) (a : Bytes) : AirRx := rx ([0x28, 0] ++ List.replicate 12 0 ++ [5, 0] ++ o ++ a)

/-- Node 5, with the given registers. -/
def n5 (l : List (Nat × Word)) : State := { w 2 l with net := { (w 2 []).net with index := 5 } }

/-- A head whose host is present, with both mailbox rings up; the host has written one command. -/
def hm : State :=
  { w 1 [(R.mbx_H2M_CFG, 4), (R.mbx_M2H_CFG, 4), (R.mbx_H2M_TAIL, 1)] with host := { (w 1 []).host with linkUp := true, bme := true, present := true, beaten := true } }

/-- A head whose slot 0 holds the Crypto Officer's key with two uses left, and an authenticated APPROVE. -/
def co0 : State :=
  { w 1 [(hdr .vlt oStat, 0)] with vlt := { (w 1 []).vlt with slots := some ⟨0x240, 2, List.replicate 16 1, []⟩ :: List.replicate 63 none } }

def coK : Cmd :=
  kc 0x090B (List.replicate 20 0 ++ toLe 4 1 ++ (hmac (List.replicate 16 1) (entryBytes (kc 0x090B (List.replicate 20 0 ++ toLe 4 1) [] 0).e ++ sha256 [])).take 8) [] 0

/-- A vault operation of a mailbox command: STATUS. -/
def vo : VOp := ⟨.mbx 7, 0, 0, 0, 0, 0, [], (0, 0), (0, 0), 0, [], .ecb, []⟩

/-- A head whose slot 4 holds an exportable key and slot 5 a wrapping key, with no link security running. -/
def sv : State :=
  { w 1 [(hdr .lnk oCtrl, 0)] with vlt := { (w 1 []).vlt with slots := List.replicate 4 none ++ [some ⟨0x5240, 1, List.replicate 16 1, []⟩, some ⟨0x4480, 2, List.replicate 32 2, []⟩, some ⟨0x5240, 0, List.replicate 16 1, []⟩] ++ List.replicate 57 none } }

/-- A Ledger record. -/
def rec1 : Rec := ⟨0xE000, 1, 0, 0, 0, 0, 65535, 0, 0, 0, false, false⟩

/-- A head that has taken in one ring frame, and the head after the frame is used. -/
def inb (x : RingRx) (s : State) : State := { s with ibg := { s.ibg with inbox := [x] } }

/-- A ring frame of a kind with a payload, from the module 9 at position 3. -/
def rr (kind : Nat) (pay : Bytes) : RingRx := ⟨kind, 3, 1, 9, 5, pay, true, 0⟩

/-- A map with the head at position 0 and the module 9 at position 3. -/
def map3 : List (Option DWord) := [some 0x41D09C2E001377F5, none, none, some 9, none, none, none, none]

/-- A ring frame of kind 0x10 that is flagged as authenticated, with a wrong MAC. -/
def badMac : Bytes := ringSeal none (ringBody 0x10 1 false true 3 15 9 5 [] ++ zeros 8)

/-- The payload of a PREPARE with identifier 7, and an announced change to the same mode. -/
def prep : Bytes := toLe 4 7 ++ zeros 12 ++ toLe 4 259072 ++ zeros 5

def ann7 : Announce := ⟨1, 259072, 259072, ⟨0, 0, 0, 0, false, none⟩, 0, none, none, true⟩

/-- A ring mode change that this module coordinates, with participant 3. -/
def co7 (d : Option Bool) : RingCoord := ⟨7, 259072, 258560, none, [3], [], [], [], d⟩

/-- An update of four bytes that is being received. -/
def hdr4 : Bytes := zeros 8 ++ toLe 4 1 ++ toLe 4 4 ++ zeros 112

/-- A delta header that is good for the delivered image. -/
def hdrOk : Bytes :=
  let b := toLe 4 0x444C4544 ++ toLe 4 1 ++ toLe 4 1 ++ toLe 4 4 ++ toLe 4 4096 ++ zeros 104
  b ++ toLe 4 (crcOf crc32c b)

/-- A delta that ends at once, for the empty image. -/
def hdr0 : Bytes := zeros 12 ++ toLe 4 129 ++ zeros 40 ++ sha256 [] ++ zeros 40

/-- The key of slots 1 to 3, and a GRAPH_LOAD that names the length of a graph. -/
def key0 : Bytes := List.range 16 |>.map (BitVec.ofNat 8)

def kG : Cmd := { kc 0x0400 [] [] 0 with e := ⟨0x0400, 0, 7, graphLen, 0, 0, 0, []⟩ }

def okOf {α β : Type} : Except α β → Option β
  | .ok b => some b
  | .error _ => none

def errOf {α β : Type} : Except α β → Option α
  | .ok _ => none
  | .error e => some e

theorem ok_of {α β : Type} {x : Except α β} {b : β} (h : okOf x = some b) : x = .ok b := by
  cases x <;> simp_all [okOf]

theorem err_of {α β : Type} {x : Except α β} {e : α} (h : errOf x = some e) : x = .error e := by
  cases x <;> simp_all [errOf]


/-- The state and the bytes of a frame that was secured. -/
def secS : Secured → State
  | .done u _ => u
  | _ => State.reset

def secB : Secured → Bytes
  | .done _ b => b
  | _ => []

def secOk : Secured → Bool
  | .done _ _ => true
  | _ => false

theorem secured_of {x : Secured} (h : secOk x = true) : x = .done (secS x) (secB x) := by
  cases x <;> simp_all [secOk, secS, secB]


/-- The head in tick 240 of superframe 1000: channel 0 is enabled and radio 0 holds a secured frame for that tick. -/
def hc : State :=
  { w 1 [(R.chn_CHc_CFG 0, 0x80F04E84), (R.chn_SBs_CFG 0, 0x80002710)] with
    rad := rads (some { tx 0xD00000054003E8F0 with secured := some sent0 }) none none none
    chn := { State.reset.chn with hop := [0] }
    ntm := { (w 1 []).ntm with tick := 256240 } }

/-! ### Well-formedness: a command that each check refuses -/

theorem test_illformed_refused :
    (∀ i ∈ ([.pewterIntegrityCheck [0], .pewterIntegrityCheck (List.replicate 16 64), .bootCheck [14] false, .blockRelease 34 [], .blockRelease 0 [14],
      .releaseTimeout 34, .selftestRun [14], .thermalTrip 4 0, .tempWarning 4 0, .joinConfirmTimeout 4096, .sleepyWake 4096 true,
      .frameSync 0 (zeros 254) false 0 0 0, .ackReceive 0 (zeros 254) (zeros 2), .ackReceive 0 (zeros 5) (zeros 3), .joinReq { rx [] with psdu := zeros 254 },
      .narrowRead .host 0x1000000, .narrowRead .svc (2 ^ 64), .rcRead .host 2, .registerWrite .host 1 0, .unmappedAccess .host true 3 0,
      .multiDw true 0 [1], .multiDw true 2 [1, 2], .bar2Access (.read 0 0 []), .bar2Access (.read (2 ^ 28) 1 []), .bar2Access (.write 0 [] []),
      .bar2Access (.write (2 ^ 28) [1] []), .mbxCommandTake (zeros 63) none, .frameEndVerdict 0 (zeros 3) 0 0 0, .checkFrameStart 14 0, .checkFrameEnd 0 16 [], .stringTest 0 (List.replicate 33 0),
      .cycleBoundary 0 0 [] 0, .virtualBoundary [], .encrypt .svc 0 .ecb [1], .decrypt .svc 0 .cbc [], .porterTransferDone ⟨0, .sram 0, .sram 0, 0, 0, []⟩,
      .porterTransferDone ⟨0, .sram 0, .sram 0, 4, 1024, []⟩] : List Instr), WellFormed i = false) := by
  decide +kernel

theorem test_illformed_tick : WellFormed (.tickEdge 0 [⟨0, 0, 0, []⟩] false) = false ∧
    WellFormed (.tickEdge 0 (⟨65536, 0, 0, []⟩ :: List.replicate 3 ⟨0, 0, 0, []⟩) false) = false := by
  decide +kernel

/-! ### The spec's worked examples -/

/-- 00_scope.md, serial comparison: 0x0000_0008 lies 24 ticks ahead of 0xFFFF_FFF0. -/
theorem test_later_wraps : tickDiff 8 0xFFFFFFF0 = 24 ∧ later 8 0xFFFFFFF0 = true := by decide +kernel

/-- 03_host_interface_pages.md: with the aperture at 0x1_0A00_0000, BAR2 offset 0x12_3450 reads DRAM 0x1_0A12_3450. -/
theorem test_aperture_reads : (({ (w 1 [(R.mem_REGr_BASE 0, 0), (R.mem_REGr_LIMIT 0, 0xFFFFFFFF), (R.mem_REGr_ATTR 0, 0xFFFFFFFF)]) with host := { (w 0 []).host with aptBase := 0x10A000000 }, mem := { (w 0 []).mem with dram := [(0x10A123450, 7)] } }).bar2Serve (.read 0x123450 1 [])).2 = .bytes [7] := by
  decide +kernel

/-- 03_host_interface_pages.md, R56: the identifiers of configuration space, of the variant A. -/
theorem test_config_space :
    [0x00, 0x08, 0x2C].map (State.cfgRead { State.reset with modId := { State.reset.modId with variantB := false } }) = [some 0x48001F3C, some 0x118000A1, some 0x480A1F3C] := by
  decide +kernel

/-- 03_host_interface_pages.md, R73: the fields of an entry lie where its table puts them. -/
theorem test_entry_layout :
    entryBytes ⟨0x0500, 1, 0x11223344, 128, 6, 0x0102030405060708, 0x99, zeros 32⟩ =
      [0x00, 0x05, 1, 0, 0x44, 0x33, 0x22, 0x11, 128, 0, 0, 0, 6, 0, 0, 0, 8, 7, 6, 5, 4, 3, 2, 1, 0x99, 0, 0, 0, 0, 0, 0, 0] ++ zeros 32 := by
  decide +kernel

/-- R125: the check values of the four presets over the ASCII digits 1 to 9. -/
theorem test_crc_presets :
    (let d : Bytes := [0x31, 0x32, 0x33, 0x34, 0x35, 0x36, 0x37, 0x38, 0x39];
     [crcOf crc16 d, crcOf crc24 d, crcOf crc32 d, crcOf crc32c d]) = [0x2189, 0xCDE703, 0xCBF43926, 0xE3069283] := by
  decide +kernel

/-- 07_radios_channels_limits.md: airtimes at mode 2 of 16, 30, 58 and 94 octets with the default preamble. -/
theorem test_airtime : [16, 30, 58, 94].map (airUs 2 false 8) = [1120, 1680, 2800, 4240] := by decide +kernel

/-- 08_air_frames_security.md: one sender's window. -/
theorem test_window :
    (judge true 1000 0xFFFFFFFB 1001 true none [], winTake 1000 0xFFFFFFFB 1001) = (0, 1001, 0xFFFFFFF7) ∧
    (judge true 1001 0xFFFFFFF7 998 true none [], winTake 1001 0xFFFFFFF7 998) = (0, 1001, 0xFFFFFFFF) ∧
    judge true 1001 0xFFFFFFFF 1001 true (some [5]) [5] = 2 ∧ judge true 1001 0xFFFFFFFF 1001 true (some [5]) [6] = 4 ∧
    judge true 1001 0xFFFFFFFF 969 true none [] = 3 ∧ winTake 1001 0xFFFFFFFF 1040 = (1040, 1) := by
  decide +kernel

/-- 08_air_frames_security.md: the header of the presence report of node 1,207. -/
theorem test_header :
    (let h := parseHdr [0x35, 0x06, 0x35, 0x0C, 0x8F, 0x03, 0xB7, 0x04, 0x3C, 0x5A, 0, 0, 0xB7, 0x04, 0x00, 0xF0];
     [h.typ, h.level, h.keysel, h.gen, h.seg, h.dst, h.src, h.ctr, h.orig, h.fin % 4096, h.fin / 4096, h.len]) =
      [5, 6, 0, 0, 0x0C35, 911, 1207, 0x5A3C, 1207, 0, 15, 16] := by
  decide +kernel

/-- 10_network_time.md, one relay hop: the bound of relay 64 and its TQ byte. -/
theorem test_tq :
    { (w 2 [(R.ntm_NTM_STAT, 2), (R.ntm_NTM_CFG, 3)]) with ntm := { (w 0 []).ntm with base := some 210 } }.tq = 0x87 := by
  decide +kernel

/-- The profiles of the corridor example: number 3 for fast vehicles and number 0 for pedestrians, TAU in 10 ms. -/
def graph1 : Sparse Byte :=
  let p (n : Nat) (l : List (Int × Nat)) (g : Sparse Byte) : Sparse Byte :=
    memWrite g (0x40 + 32 * n) (l.flatMap fun x => toLe 2 (x.1 % 65536).toNat ++ toLe 2 x.2)
  p 3 [(-200, 0), (-100, 600), (0, 1000), (300, 1000), (600, 1000), (1000, 500), (1100, 250), (1200, 0)]
    (p 0 [(-1000, 0), (-500, 600), (0, 800), (400, 800), (800, 700), (1400, 500), (2000, 300), (3000, 0)] [])

/-- 11_corridor_engine.md, a car and a pedestrian: the levels by τ in ms. -/
theorem test_profiles :
    [-520, 1680, 3880, 6080, 8280, 9080].map (profLevel graph1 3) = [792, 1000, 1000, 990, 715, 615] ∧
    [-3000, 7000, 27800, 32000].map (profLevel graph1 0) = [680, 725, 66, 0] := by
  decide +kernel

/-- The same example: which targets are published over the level before, with HYST at its defaults. -/
theorem test_publishes :
    [(752, 745), (950, 950), (950, 820), (900, 200), (679, 200), (584, 200), (646, 700)].map (fun x => publishes 20 75 x.1 x.2 0) =
      [false, false, true, true, true, true, true] := by
  decide +kernel

/-- 12_levels_fades_modes.md, node 1,530: codes, the length of fade code 9, and v(i). -/
theorem test_fade :
    (levelCode 300, levelCode 1000, fadeLen 9) = (210, 254, 57) ∧
    [0, 1, 6, 10, 57].map (fadeValue 53760 65024 57) = [53760, 53957, 54945, 55736, 65024] := by
  decide +kernel

/-- 15_energy_persistence_balance.md, phase L1: the ratio of the nodes to the feeders in ppm. -/
theorem test_balance_ratio : balRatio 2231400 2300000 = 970174 := by decide +kernel

/-- 16_pewter_domain_calendar.md: the two commits around 28 February 2100, and the second after. -/
theorem test_calendar :
    rtcCheck 0x00120000 0x21000229 = 3 ∧ rtcCheck 0x00235959 0x21000228 = 0 ∧ (calOf 0x00235959 0x21000228).wday = 7 ∧
    (calOf 0x00235959 0x21000228).next.dateWord = 0x21000301 ∧ (calOf 0x00235959 0x21000228).next.wday = 1 := by
  decide +kernel

/-- 18_ledger.md, reading behind a busy writer: the slot of record 69,997 and its address. -/
theorem test_ledger_slot : slotOf 69997 = 8557 ∧ slotAddr (slotOf 69997) = 0x142DA0 ∧ slotOf 131437 = slotOf 69997 := by decide +kernel

/-- 20_firmware_update.md: a delta of 262,813 bytes is 65 units. -/
theorem test_delta_units : deltaUnits 262813 = 65 := by decide +kernel

/-! ### Known answers of the algorithms that the spec names by their standards (assumption log 20) -/

/-- FIPS 180-4: SHA-256 of abc. -/
theorem test_sha256 :
    be (sha256 [0x61, 0x62, 0x63]) = 0xba7816bf8f01cfea414140de5dae2223b00361a396177a9cb410ff61f20015ad := by
  decide +kernel

/-- FIPS 197, appendix C.1. -/
theorem test_aes128 : be (aesEnc ((List.range 16).map (BitVec.ofNat 8)) (toBe 16 0x00112233445566778899aabbccddeeff)) = 0x69c4e0d86a7b0430d8cdb78070b4c55a := by
  decide +kernel

/-- RFC 4493, example 2. -/
theorem test_cmac : be (cmac (toBe 16 0x2b7e151628aed2a6abf7158809cf4f3c) (toBe 16 0x6bc1bee22e409f96e93d7e117393172a)) = 0x070a16b46b4d4144f79bdd9dd04a287c := by
  decide +kernel

/-- RFC 3394, 4.1: wrap and unwrap of 128 bits with a 128-bit key. -/
theorem test_keywrap :
    be (kwWrap ((List.range 16).map (BitVec.ofNat 8)) (toBe 16 0x00112233445566778899aabbccddeeff)) = 0x1fa68b0a8112b447aef34bd8fb5a7b829d3e862371d2cfe5 := by
  decide +kernel

theorem test_keyunwrap :
    kwUnwrap ((List.range 16).map (BitVec.ofNat 8)) (toBe 24 0x1fa68b0a8112b447aef34bd8fb5a7b829d3e862371d2cfe5) = some (toBe 16 0x00112233445566778899aabbccddeeff) := by
  decide +kernel

/-- RFC 4231, case 2. -/
theorem test_hmac :
    be (hmac [0x4a, 0x65, 0x66, 0x65] (toBe 28 0x7768617420646f2079612077616e7420666f72206e6f7468696e673f)) =
      0x5bdcc146bf60754e6a042426089575c75a003f089d2739839dec58b964ec3843 := by
  decide +kernel

/-- RFC 3610, packet vector 1. -/
theorem test_ccm :
    (ccm ((List.range 16).map fun i => BitVec.ofNat 8 (0xC0 + i)) (toBe 13 0x00000003020100A0A1A2A3A4A5) ((List.range 8).map (BitVec.ofNat 8))
      ((List.range 23).map fun i => BitVec.ofNat 8 (8 + i)) 8) =
      (toBe 23 0x588C979A61C663D2F066D0C2C0F989806D5F6B61DAC384, toBe 8 0x17E8D12CFDF926E0) := by
  decide +kernel

/-! ### The hypotheses of the obligations can be met -/

/-- States and operands that meet the hypotheses of StepRunsFrontCommand, clause by clause. -/
theorem test_hyps_StepRunsFrontCommand :
    (∃ (c : Instr), ∃ (rest : List Instr), ∃ (s : State), (s.pending = c :: rest)) ∧
    (∃ (s : State), (s.pending = [])) :=
  ⟨⟨.discover, [], { (w 0 []) with pending := [.discover] }, by decide +kernel⟩,
   ⟨(w 0 []), by decide +kernel⟩⟩

/-- States and operands that meet the hypotheses of CommandsKeepQueueAndIdentity, clause by clause. -/
theorem test_hyps_CommandsKeepQueueAndIdentity : (∃ (i : Instr), ∃ (s : State), ∃ (t : State), (exec i s = .next t)) :=
  ⟨.discover, (w 0 []), (w 0 []), rfl⟩

/-- States and operands that meet the hypotheses of StoresStayCanonical, clause by clause. -/
theorem test_hyps_StoresStayCanonical : (∃ (s : State), ∃ (t : State), (Canon s) ∧ (step s = .next t)) :=
  ⟨State.reset, State.reset, by unfold Canon; decide +kernel, rfl⟩

/-- States and operands that meet the hypotheses of WaitingCommandsStayWellFormed, clause by clause. -/
theorem test_hyps_WaitingCommandsStayWellFormed : (∃ (s : State), ∃ (t : State), (QueueOk s) ∧ (step s = .next t)) :=
  ⟨{ (w 0 []) with pending := [.discover] }, (w 0 []), by unfold QueueOk; decide +kernel, rfl⟩

/-- States and operands that meet the hypotheses of ResetValues, clause by clause. -/
theorem test_hyps_ResetValues : (∃ (b : Blk), (b ∈ allBlks)) :=
  ⟨.mbx, by decide +kernel⟩

/-- States and operands that meet the hypotheses of CommandsChangeNamedPartsOnly, clause by clause. -/
theorem test_hyps_CommandsChangeNamedPartsOnly : (∃ (i : Instr), ∃ (s : State), ∃ (t : State), (exec i s = .next t)) :=
  ⟨.discover, (w 0 []), (w 0 []), rfl⟩

/-- States and operands that meet the hypotheses of EnteringResetClears, clause by clause. -/
theorem test_hyps_EnteringResetClears :
    (∃ (code : Nat), ∃ (src : Nat), (code < 16) ∧ (src < 16)) ∧
    (∃ (code : Nat), ∃ (src : Nat), ∃ b, (code < 16) ∧ (src < 16) ∧ (b ∈ allBlks)) :=
  ⟨⟨15, 15, by decide +kernel⟩,
   ⟨15, 0, .mbx, by decide +kernel⟩⟩

/-- States and operands that meet the hypotheses of ResetSourcesEnterReset, clause by clause. -/
theorem test_hyps_ResetSourcesEnterReset :
    (∃ (mv : Nat), ∃ (s : State), (s.boot.stage ≠ .off) ∧ (mv < 15700)) ∧
    (∃ (mv : Nat), ∃ (s : State), (s.boot.stage ≠ .off) ∧ (16300 ≤ mv)) ∧
    (∃ (s : State), (s.boot.stage ≠ .off)) ∧
    (∃ (ns : Nat), ∃ (s : State), (s.boot.stage ≠ .off) ∧ (10000 ≤ ns)) ∧
    (∃ (ns : Nat), (ns < 1000)) ∧
    (∃ (ns : Nat), ∃ (s : State), (s.boot.stage ≠ .off) ∧ (1000 ≤ ns) ∧ (ns < 10000)) ∧
    (∃ (m : Master), ∃ (v : Word), ∃ (s : State), (PageOpen s .rst m) ∧ (s.boot.stage ≠ .off) ∧ (fld v 16 16 = 0xC0DE) ∧ (tst v 0 = true)) ∧
    (∃ (m : Master), ∃ (v : Word), ∃ (s : State), (PageOpen s .rst m) ∧ (fld v 16 16 ≠ 0xC0DE)) ∧
    (∃ (m : Master), ∃ (v : Word), ∃ (s : State), (PageOpen s .rst m) ∧ (fld v 16 16 = 0xC0DE) ∧ (tst v 0 = false)) ∧
    (∃ (n : Fin 4), ∃ (s : State), (s.boot.stage ≠ .off) ∧ (s.wdogFires n.val = true)) ∧
    (∃ (n : Fin 4), ∃ (s : State), (s.wdogFires n.val = false)) ∧
    (∃ (s : State), (s.boot.stage ≠ .off)) ∧
    (∃ (n : Fin 4), ∃ (s : State), (s.inReset (.lane n) = false) ∧ (s.boot.stage ≠ .off) ∧ (s.outranked 6 = false)) ∧
    (∃ (n : Nat), ∃ (c : Int), ∃ (s : State), (s.boot.stage ≠ .off) ∧ (n < 4) ∧ (tripLevel n ≤ c)) ∧
    (∃ (n : Nat), ∃ (c : Int), ∃ (s : State), (s.boot.stage ≠ .off) ∧ (n < 4) ∧ (c < tripLevel n)) ∧
    (∃ (n : Nat), (n < 4)) ∧
    (∃ (r : Nat), ∃ (s : State), (s.boot.stage ≠ .off) ∧ (s.upd.resetAt = some r) ∧ (r ≤ s.tick)) ∧
    (∃ (s : State), ((∀ r, s.upd.resetAt = some r → s.tick < r))) :=
  ⟨⟨15699, (w 0 []), by decide +kernel⟩,
   ⟨16300, (w 0 []), by decide +kernel⟩,
   ⟨(w 0 []), by decide +kernel⟩,
   ⟨10000, (w 0 []), by decide +kernel⟩,
   ⟨999, by decide +kernel⟩,
   ⟨9999, (w 0 []), by decide +kernel⟩,
   ⟨.host, 0xC0DE0001, (w 0 []), by unfold PageOpen; decide +kernel⟩,
   ⟨.host, 0xC0DD0001, (w 0 []), by unfold PageOpen; decide +kernel⟩,
   ⟨.host, 0xC0DE0000, (w 0 []), by unfold PageOpen; decide +kernel⟩,
   ⟨0, { (w 0 [(R.lane_WDOG 0, 3)]) with mkt := { (w 0 []).mkt with lanes := [⟨[], some (rw0 3), false⟩] } }, by decide +kernel⟩,
   ⟨0, (w 0 []), by decide +kernel⟩,
   ⟨(w 0 []), by decide +kernel⟩,
   ⟨3, (w 0 []), by decide +kernel⟩,
   ⟨3, (tripLevel 3), (w 0 []), by decide +kernel⟩,
   ⟨3, (tripLevel 3 - 1), (w 0 []), by decide +kernel⟩,
   ⟨3, by decide +kernel⟩,
   ⟨256040, { (w 0 []) with upd := { (w 0 []).upd with resetAt := some 256040 } }, by decide +kernel⟩,
   ⟨(w 1 []), noneImp rfl⟩⟩

/-- States and operands that meet the hypotheses of StartSequencePoints, clause by clause. -/
theorem test_hyps_StartSequencePoints :
    (∃ (cs : List Nat), ∃ (s : State), (s.boot.stage = .reset) ∧ (cs.length = 16)) ∧
    (∃ (cs : List Nat), ∃ (s : State), (s.boot.stage = .reset) ∧ (cs.length ≠ 16)) ∧
    (∃ (s : State), (s.boot.stage ≠ .reset)) ∧
    (∃ (s : State), (s.boot.stage = .checked)) ∧
    (∃ (s : State), (s.boot.stage ≠ .checked)) ∧
    (∃ (s : State), (s.boot.stage = .defaults)) ∧
    (∃ (s : State), (s.boot.stage ≠ .defaults)) ∧
    (∃ (s : State), (s.boot.stage = .dead) ∧ (s.rf R.rst_STRAP 0 4 = 0)) :=
  ⟨⟨(List.replicate 16 0), { (w 0 []) with boot := { (w 0 []).boot with stage := .reset } }, by decide +kernel⟩,
   ⟨(List.replicate 15 0), { (w 0 []) with boot := { (w 0 []).boot with stage := .reset } }, by decide +kernel⟩,
   ⟨{ (w 0 []) with boot := { (w 0 []).boot with stage := .booted } }, by decide +kernel⟩,
   ⟨{ (w 0 []) with boot := { (w 0 []).boot with stage := .checked } }, by decide +kernel⟩,
   ⟨{ (w 0 []) with boot := { (w 0 []).boot with stage := .defaults } }, by decide +kernel⟩,
   ⟨{ (w 0 []) with boot := { (w 0 []).boot with stage := .defaults } }, by decide +kernel⟩,
   ⟨{ (w 0 []) with boot := { (w 0 []).boot with stage := .booted } }, by decide +kernel⟩,
   ⟨{ (w 0 [(R.rst_STRAP, 0)]) with boot := { (w 0 []).boot with stage := .dead } }, by decide +kernel⟩⟩

/-- States and operands that meet the hypotheses of BlockResetAndRelease, clause by clause. -/
theorem test_hyps_BlockResetAndRelease :
    (∃ (m : Master), ∃ (s : State), (PageOpen s .rst m)) ∧
    (∃ (m : Master), ∃ (hi : Bool), ∃ (v : Word), ∃ (i : Nat), ∃ (b : Blk), ∃ (s : State), (PageOpen s .rst m) ∧ (wordBits hi v = [i]) ∧ (blkOfBit i = some b) ∧ (s.inReset b = false)) ∧
    (∃ (m : Master), ∃ (hi : Bool), ∃ (v : Word), ∃ (i : Nat), ∃ (s : State), (PageOpen s .rst m) ∧ (wordBits hi v = [i]) ∧ (s.boot.stage = .booted) ∧ (s.heldLane i = false) ∧ (s.rstBit R.rst_BLK_IN_RESET_A i = true)) ∧
    (∃ (i : Nat), ∃ (s : State), (i < 34) ∧ (s.boot.stage = .booted) ∧ (s.heldLane i = false) ∧ (s.rstBit R.rst_BLK_IN_RESET_A i = true)) ∧
    (∃ (i : Nat), ∃ (b : Blk), ∃ (s : State), (i < 34) ∧ (s.rstBit R.rst_BLK_REL_PEND_A i = true) ∧ (blkOfBit i = some b)) ∧
    (∃ (i : Nat), ∃ (b : Blk), ∃ (s : State), (i < 34) ∧ (s.rstBit R.rst_BLK_REL_PEND_A i = true) ∧ (blkOfBit i = some b) ∧ (b ∉ [Blk.scl, .chn, .ntm, .mem, .fov, .cor, .vlt, .cry])) ∧
    (∃ (i : Nat), ∃ (s : State), (s.rstBit R.rst_BLK_REL_PEND_A i = false)) ∧
    (∃ (i : Nat), ∃ (s : State), (i < 34) ∧ (s.rstBit R.rst_BLK_REL_PEND_A i = true) ∧ (s.boot.stage = .booted)) ∧
    (∃ (i : Nat), ∃ (s : State), (s.rstBit R.rst_BLK_REL_PEND_A i = false)) :=
  ⟨⟨.host, (w 0 []), by unfold PageOpen; decide +kernel⟩,
   ⟨.host, false, 0x00008000, 15, .lnk, (w 0 []), by unfold PageOpen; decide +kernel⟩,
   ⟨.host, true, 2, 33, (w 0 [(R.rst_BLK_IN_RESET_B, 2)]), by unfold PageOpen; decide +kernel⟩,
   ⟨33, (w 0 [(R.rst_BLK_IN_RESET_B, 2)]), by decide +kernel⟩,
   ⟨33, .mbx, (w 0 [(R.rst_BLK_REL_PEND_B, 2)]), by decide +kernel⟩,
   ⟨33, .mbx, (w 0 [(R.rst_BLK_REL_PEND_B, 2)]), by decide +kernel⟩,
   ⟨33, (w 0 []), by decide +kernel⟩,
   ⟨33, (w 0 [(R.rst_BLK_REL_PEND_B, 2)]), by decide +kernel⟩,
   ⟨33, (w 0 []), by decide +kernel⟩⟩

/-- States and operands that meet the hypotheses of TickEdgeAdvancesTime, clause by clause. -/
theorem test_hyps_TickEdgeAdvancesTime :
    (∃ (c : DWord), ∃ (s : State), (s.ticksRun = true) ∧ (s.edgeAt c = true) ∧ (s.inTransit c = false)) ∧
    (∃ (c : DWord), ∃ (s : State), (s.ticksRun = false ∨ s.edgeAt c = false ∨ s.inTransit c = true)) :=
  ⟨⟨1000000, (w 0 []), by decide +kernel⟩,
   ⟨1000001, (w 0 []), by decide +kernel⟩⟩

/-- States and operands that meet the hypotheses of CorridorRunsAndPublishes, clause by clause. -/
theorem test_hyps_CorridorRunsAndPublishes :
    (∃ (s : State), (s.corRuns = true) ∧ (s.graphValid = true) ∧ (s.cor.run = none) ∧ ((∀ j, s.cor.lastRun = some j → j < s.tick)) ∧ (s.cor.swapAt = none) ∧ (s.cor.polAt = none)) ∧
    (∃ (r : CorRun), ∃ (s : State), (s.cor.run = some r) ∧ (r.us ≤ 1500)) ∧
    (∃ (r : CorRun), ∃ (s : State), (s.cor.run = some r) ∧ (1500 < r.us)) ∧
    (∃ (sec : Nat), ∃ (s : State), (s.cor.row = some sec) ∧ (s.isHead = true) ∧ (s.holds = true) ∧ (s.repeated = false) ∧ (s.tick = 250 * (sec + 1)) ∧ (s.inReset .mem = false) ∧ (s.inReset .cor = false)) :=
  ⟨⟨(w 1 [(R.cor_COR_STAT, 2)]), by (repeat refine ⟨by decide +kernel, ?_⟩); first | decide +kernel | exact ⟨(by intro j h; cases h), by decide +kernel, by decide +kernel⟩⟩,
   ⟨⟨256039, 1500, [], [], []⟩, { (w 1 []) with cor := { (w 0 []).cor with run := some ⟨256039, 1500, [], [], []⟩ } }, by decide +kernel⟩,
   ⟨⟨256039, 1501, [], [], []⟩, { (w 1 []) with cor := { (w 0 []).cor with run := some ⟨256039, 1501, [], [], []⟩ } }, by decide +kernel⟩,
   ⟨1023, { (w 1 []) with cor := { (w 0 []).cor with row := some 1023 }, ntm := { (w 0 []).ntm with tick := 256000 } }, by decide +kernel⟩⟩

/-- States and operands that meet the hypotheses of GraphsAndPoliciesTakeEffect, clause by clause. -/
theorem test_hyps_GraphsAndPoliciesTakeEffect :
    (∃ (m : Master), ∃ (s : State), (PageOpen s .cor m) ∧ (s.cor.check = 0)) ∧
    (∃ (s : State), (s.cor.check = 1) ∧ (s.inReset .cor = false)) ∧
    (∃ (m : Master), ∃ (s : State), (PageOpen s .cor m) ∧ (s.rb R.cor_COR_STAT 3 = true) ∧ (s.timeFor (s.rd R.cor_GRAPH_AT) = true) ∧ (later (s.rd R.cor_GRAPH_AT) s.tick32 = true)) ∧
    (∃ (m : Master), ∃ (s : State), (PageOpen s .cor m) ∧ (s.rb R.cor_COR_STAT 3 = false)) ∧
    (∃ (m : Master), ∃ (s : State), (PageOpen s .cor m)) ∧
    (∃ (k : Nat), ∃ (s : State), (s.cor.swapAt = some k) ∧ (s.corRuns = true) ∧ (k ≤ s.tick)) ∧
    (∃ (s : State), (s.cor.swapAt = none)) ∧
    (∃ (m : Master), ∃ (s : State), (PageOpen s .cor m) ∧ (s.timeFor (s.rd R.cor_POLICY_AT) = true) ∧ (later (s.rd R.cor_POLICY_AT) s.tick32 = true)) ∧
    (∃ (m : Master), ∃ (s : State), (PageOpen s .cor m) ∧ (s.timeFor (s.rd R.cor_POLICY_AT) = false)) ∧
    (∃ (m : Master), ∃ (s : State), (PageOpen s .cor m) ∧ (s.timeFor (s.rd R.cor_POLICY_AT) = true) ∧ (later (s.rd R.cor_POLICY_AT) s.tick32 = false)) ∧
    (∃ (k : Nat), ∃ (p : Policy), ∃ (s : State), (s.cor.polAt = some (k, p)) ∧ (s.corRuns = true) ∧ (k ≤ s.tick)) :=
  ⟨⟨.host, (w 1 []), by unfold PageOpen; decide +kernel⟩,
   ⟨{ (w 1 []) with cor := { (w 0 []).cor with check := 1 } }, by decide +kernel⟩,
   ⟨.host, (w 1 [(R.cor_COR_STAT, 8), (R.cor_GRAPH_AT, 256041)]), by unfold PageOpen; decide +kernel⟩,
   ⟨.host, (w 1 []), by unfold PageOpen; decide +kernel⟩,
   ⟨.host, (w 1 []), by unfold PageOpen; decide +kernel⟩,
   ⟨256040, { (w 1 []) with cor := { (w 0 []).cor with swapAt := some 256040 } }, by decide +kernel⟩,
   ⟨(w 1 []), by decide +kernel⟩,
   ⟨.host, (w 1 [(R.cor_POLICY_AT, 256041)]), by unfold PageOpen; decide +kernel⟩,
   ⟨.host, (w 1 [(R.ntm_NTM_STAT, 0)]), by unfold PageOpen; decide +kernel⟩,
   ⟨.host, (w 1 [(R.cor_POLICY_AT, 256040)]), by unfold PageOpen; decide +kernel⟩,
   ⟨256040, ⟨[], [], 0⟩, { (w 1 []) with cor := { (w 0 []).cor with polAt := some (256040, ⟨[], [], 0⟩) } }, by decide +kernel⟩⟩

/-- States and operands that meet the hypotheses of WavesAndModes, clause by clause. -/
theorem test_hyps_WavesAndModes :
    (∃ (f : Nat × Nat × Bytes), ∃ (u : State), ∃ (b : Bytes), ∃ (s : State), (s.waveFrame = some f) ∧ (s.waveAllowed = true) ∧ (s.secure (s.frameOf f.2.1 false 0 0 0xFFFF none f.2.2) ((s.tick * 4000000 + 200000) * 2 ^ 16) = .done u b)) ∧
    (∃ (s : State), (s.waveFrame = none)) ∧
    (∃ (p : Bytes), ∃ (u : State), ∃ (b : Bytes), ∃ (s : State), (s.modeDue = some p) ∧ (s.waveAllowed = true) ∧ (s.secure (s.frameOf 3 false 0 0 0xFFFF none p) ((s.tick * 4000000 + 200000) * 2 ^ 16) = .done u b)) ∧
    (∃ (f : FwdDue), ∃ (r : List FwdDue), ∃ (s : State), (s.lvl.fwd = f :: r) ∧ (s.takes .lvl = true) ∧ (s.onNet = true) ∧ (s.repeated = false) ∧ ((s.isNode = true → s.placeless = false))) ∧
    (∃ (f : FwdDue), ∃ (r : List FwdDue), ∃ (s : State), (s.lvl.fwd = f :: r) ∧ (s.repeated = true)) ∧
    (∃ (x : AirRx), ∃ (s : State), (let t := (s.at x.verdict).floodHeard x; (let p := airPay x; (let a := leWord p 4; (let code := byteAt p (8 + t.ownIndex % 64); (t.isNode = true) ∧ (t.takes .lvl = true) ∧ (byteAt p 0 % 64 = t.ownIndex / 64) ∧ ((airHdr x).src = 0) ∧ (t.timeFor a = true) ∧ (tickDiff a t.tick32 ≤ 4096) ∧ (code ≠ 255)))))) ∧
    (∃ (x : AirRx), ∃ (s : State), (let t := (s.at x.verdict).floodHeard x; (let p := airPay x; (let a := leWord p 4; (let code := byteAt p (8 + t.ownIndex % 64); (t.isNode = true) ∧ (t.takes .lvl = true) ∧ (byteAt p 0 % 64 = t.ownIndex / 64) ∧ ((airHdr x).src = 0) ∧ (t.timeFor a = true) ∧ (tickDiff a t.tick32 ≤ 4096) ∧ (code ≠ 255) ∧ (code ≠ t.lampTarget) ∧ (t.lvl.pend = [])))))) ∧
    (∃ (x : AirRx), ∃ (s : State), (let t := (s.at x.verdict).floodHeard x; (let p := airPay x; (let a := leWord p 4; (let code := byteAt p (8 + t.ownIndex % 64); (t.isNode = true) ∧ (t.takes .lvl = true) ∧ (byteAt p 0 % 64 = t.ownIndex / 64) ∧ ((airHdr x).src = 0) ∧ (t.timeFor a = true) ∧ (tickDiff a t.tick32 ≤ 4096) ∧ (code = 255)))))) ∧
    (∃ (x : AirRx), ∃ (s : State), (let t := (s.at x.verdict).floodHeard x; (let p := airPay x; (let a := leWord p 4; (t.isNode = true) ∧ (t.takes .lvl = true) ∧ (byteAt p 0 % 64 = t.ownIndex / 64) ∧ ((airHdr x).src = 0) ∧ (t.timeFor a = true) ∧ (4096 < tickDiff a t.tick32))))) ∧
    (∃ (x : AirRx), ∃ (s : State), (let t := (s.at x.verdict).floodHeard x; (let p := airPay x; (let a := leWord p 4; (t.isNode = true) ∧ (t.takes .lvl = true) ∧ (byteAt p 0 % 64 = t.ownIndex / 64) ∧ ((airHdr x).src = 0) ∧ (t.timeFor a = false))))) ∧
    (∃ (p : Nat × Nat × Nat), ∃ (s : State), (s.takes .lvl = true) ∧ (s.holds = true) ∧ (s.repeated = false) ∧ (s.followsSchedule = true) ∧ (lastPoint (s.tick / 250) s.points = some p) ∧ (sinceTod (s.tick / 250) p.1 < s.tick / 250 - s.lvl.prevTick / 250)) ∧
    (∃ (p : Nat × Nat × Nat), ∃ (s : State), (s.takes .lvl = true) ∧ (s.holds = true) ∧ (s.repeated = false) ∧ (s.followsSchedule = true) ∧ (lastPoint (s.tick / 250) s.points = some p) ∧ (sinceTod (s.tick / 250) p.1 < s.tick / 250 - s.lvl.prevTick / 250) ∧ (p.2.1 ≠ 255) ∧ (s.cryError = false)) ∧
    (∃ (m : Master), ∃ (s : State), (PageOpen s .lvl m) ∧ (s.isHead = true) ∧ (s.timeFor (s.rd R.lvl_MODE_AT_REQ) = true) ∧ (s.lvl.ann = none) ∧ (s.stagedMode.op ≤ 2) ∧ (s.fullTick (s.rd R.lvl_MODE_AT_REQ) % 256 = 0) ∧ (s.tick + 9 * 256 ≤ s.fullTick (s.rd R.lvl_MODE_AT_REQ)) ∧ ((∀ l, s.stagedMode.hop = some l → s.hopListOk l = true))) ∧
    (∃ (m : Master), ∃ (s : State), (PageOpen s .lvl m) ∧ (s.isHead = true) ∧ (s.timeFor (s.rd R.lvl_MODE_AT_REQ) = true) ∧ (s.lvl.ann.isSome = true)) ∧
    (∃ (m : Master), ∃ (s : State), (PageOpen s .lvl m) ∧ (s.lvl.ann = none)) ∧
    (∃ (m : Master), ∃ (a : Announce), ∃ (s : State), (PageOpen s .lvl m) ∧ (s.lvl.ann = some a) ∧ (max (s.tick + 1) (s.lvl.wave.elim 0 (· + 4)) < a.c) ∧ (a.tag = none)) ∧
    (∃ (x : AirRx), ∃ (s : State), (let t := (s.at x.verdict).floodHeard x; (t.isNode = true) ∧ (t.inReset .lvl = false) ∧ ((airHdr x).mhop = false))) ∧
    (∃ (x : AirRx), ∃ (s : State), (let t := (s.at x.verdict).floodHeard x; (let p := airPay x; (t.isNode = true) ∧ (t.inReset .lvl = false) ∧ ((airHdr x).mhop = false) ∧ (byteAt p 6 % 2 = 0) ∧ (0 < epochDiff (le p 0 2) t.epoch) ∧ (t.lvl.pmode = none) ∧ (t.timeFor (leWord p 2) = true)))) ∧
    (∃ (p : Bytes), ∃ (s : State), (byteAt p 6 % 2 = 0) ∧ (0 < epochDiff (le p 0 2) s.epoch) ∧ (s.lvl.pmode = none) ∧ (s.timeFor (leWord p 2) = true)) ∧
    (∃ (e : Nat), ∃ (k : Nat), ∃ (how : Nat), ∃ (r : List (Nat × Nat × Nat)), ∃ (s : State), (s.lvl.acks = (e, k, how) :: r) ∧ (s.sf ≤ k / 256 + 32) ∧ (s.holds = true) ∧ (32 ≤ s.tick % 256) ∧ (s.tick % 256 < 224)) :=
  ⟨⟨(1, 2, [0]), (secS (({ (w 1 []) with lvl := { (w 0 []).lvl with queue := [⟨3, [0], 1⟩] } }).secure (({ (w 1 []) with lvl := { (w 0 []).lvl with queue := [⟨3, [0], 1⟩] } }).frameOf 2 false 0 0 0xFFFF none [0]) (256040 * 4000000 * 65536 + 200000 * 65536))), (secB (({ (w 1 []) with lvl := { (w 0 []).lvl with queue := [⟨3, [0], 1⟩] } }).secure (({ (w 1 []) with lvl := { (w 0 []).lvl with queue := [⟨3, [0], 1⟩] } }).frameOf 2 false 0 0 0xFFFF none [0]) (256040 * 4000000 * 65536 + 200000 * 65536))), { (w 1 []) with lvl := { (w 0 []).lvl with queue := [⟨3, [0], 1⟩] } }, by (repeat refine ⟨by decide +kernel, ?_⟩); first | decide +kernel | exact secured_of (by decide +kernel)⟩,
   ⟨(w 1 []), by decide +kernel⟩,
   ⟨((({ (w 1 []) with lvl := { (w 0 []).lvl with ann := some ⟨1, 256768, 256768, ⟨0, 0, 0, 0, false, none⟩, 0, none, none, false⟩ } }).modeDue).getD []), (secS (({ (w 1 []) with lvl := { (w 0 []).lvl with ann := some ⟨1, 256768, 256768, ⟨0, 0, 0, 0, false, none⟩, 0, none, none, false⟩ } }).secure (((w 1 [])).frameOf 3 false 0 0 0xFFFF none ((({ (w 1 []) with lvl := { (w 0 []).lvl with ann := some ⟨1, 256768, 256768, ⟨0, 0, 0, 0, false, none⟩, 0, none, none, false⟩ } }).modeDue).getD [])) (256040 * 4000000 * 65536 + 200000 * 65536))), (secB (({ (w 1 []) with lvl := { (w 0 []).lvl with ann := some ⟨1, 256768, 256768, ⟨0, 0, 0, 0, false, none⟩, 0, none, none, false⟩ } }).secure (((w 1 [])).frameOf 3 false 0 0 0xFFFF none ((({ (w 1 []) with lvl := { (w 0 []).lvl with ann := some ⟨1, 256768, 256768, ⟨0, 0, 0, 0, false, none⟩, 0, none, none, false⟩ } }).modeDue).getD [])) (256040 * 4000000 * 65536 + 200000 * 65536))), { (w 1 []) with lvl := { (w 0 []).lvl with ann := some ⟨1, 256768, 256768, ⟨0, 0, 0, 0, false, none⟩, 0, none, none, false⟩ } }, by (repeat refine ⟨by decide +kernel, ?_⟩); first | decide +kernel | exact secured_of (by decide +kernel)⟩,
   ⟨⟨[], 0⟩, [], { (w 1 []) with netEdge := true, lvl := { (w 0 []).lvl with fwd := [⟨[], 0⟩] } }, by decide +kernel⟩,
   ⟨⟨[], 0⟩, [], { (w 1 []) with lvl := { (w 0 []).lvl with fwd := [⟨[], 0⟩] }, ntm := { (w 0 []).ntm with passed := some 256041 } }, by decide +kernel⟩,
   ⟨(rx (List.replicate 16 0 ++ [0x28, 0xF8, 3, 0, 17])), (w 2 []), by dsimp only; decide +kernel⟩,
   ⟨(rx (List.replicate 16 0 ++ [0x28, 0xF8, 3, 0, 17])), (w 2 []), by dsimp only; decide +kernel⟩,
   ⟨(rx (List.replicate 16 0 ++ [0x28, 0xF8, 3, 0, 255])), (w 2 []), by dsimp only; decide +kernel⟩,
   ⟨(rx (List.replicate 16 0 ++ [0x29, 0xF8, 3, 0, 17])), (w 2 []), by dsimp only; decide +kernel⟩,
   ⟨(rx (List.replicate 16 0 ++ [0x28, 0xF8, 3, 0, 17])), (w 2 [(R.ntm_NTM_STAT, 0)]), by dsimp only; decide +kernel⟩,
   ⟨(1024, 2, 0), { (w 2 [(R.bcn_BCN_STAT, 7), (R.lvl_SCHEDp 0, 0x02800400)]) with net := { (w 0 []).net with index := 5 } }, by decide +kernel⟩,
   ⟨(1024, 2, 0), { (w 2 [(R.bcn_BCN_STAT, 7), (R.lvl_SCHEDp 0, 0x02800400)]) with net := { (w 0 []).net with index := 5 } }, by decide +kernel⟩,
   ⟨.host, (w 1 [(R.lvl_MODE_AT_REQ, 258560)]), by unfold PageOpen; (repeat refine ⟨by decide +kernel, ?_⟩); first | decide +kernel | exact noneImp (by decide +kernel)⟩,
   ⟨.host, { (w 1 [(R.lvl_MODE_AT_REQ, 258560)]) with lvl := { (w 0 []).lvl with ann := some ⟨1, 256768, 256768, ⟨0, 0, 0, 0, false, none⟩, 0, none, none, false⟩ } }, by unfold PageOpen; decide +kernel⟩,
   ⟨.host, (w 1 []), by unfold PageOpen; decide +kernel⟩,
   ⟨.host, ⟨1, 256042, 256042, ⟨0, 0, 0, 0, false, none⟩, 0, none, none, false⟩, { (w 1 []) with lvl := { (w 0 []).lvl with ann := some ⟨1, 256042, 256042, ⟨0, 0, 0, 0, false, none⟩, 0, none, none, false⟩ } }, by unfold PageOpen; decide +kernel⟩,
   ⟨(rx (List.replicate 14 0)), (w 2 []), by dsimp only; decide +kernel⟩,
   ⟨(rx (List.replicate 12 0 ++ [1, 0, 0x00, 0xF0, 3, 0, 0, 0, 0, 0, 0])), (w 2 []), by dsimp only; decide +kernel⟩,
   ⟨[1], (w 2 []), by decide +kernel⟩,
   ⟨1, 247808, 0, [], { (w 2 []) with lvl := { (w 0 []).lvl with acks := [(1, 247808, 0)] } }, by decide +kernel⟩⟩

/-- States and operands that meet the hypotheses of BeaconsAreSentAndTracked, clause by clause. -/
theorem test_hyps_BeaconsAreSentAndTracked :
    (∃ (s : State), (s.bcn.ready = some s.sf) ∧ (s.takes .bcn = true) ∧ (s.bcnTick.isSome = true) ∧ (s.tick % 256 = 255)) ∧
    (∃ (c : DWord), ∃ (s : State), ∃ b, (s.bcnDue = true) ∧ (let u : State := { s.at c with bcn := { s.bcn with built := none } }.sramSeen s.bcnBuf 36; (u.sramRead s.bcnBuf 36 = some b))) ∧
    (∃ (c : DWord), ∃ (s : State), (s.bcnDue = true) ∧ (let u : State := { s.at c with bcn := { s.bcn with built := none } }.sramSeen s.bcnBuf 36; (u.sramRead s.bcnBuf 36 = none))) ∧
    (∃ (r : Nat), ∃ (s : State), (s.runs (radBlk r) = true) ∧ (s.floodOver r (s.tick * 4000 + 200) (s.bcnAirtime r 58) = true)) ∧
    (∃ (r : Nat), ∃ (s : State), (s.runs (radBlk r) = true) ∧ (s.floodOver r (s.tick * 4000 + 200) (s.bcnAirtime r 58) = false) ∧ (s.ledgersAllow r (s.chan r (s.tick - s.tick % 2)) (s.bcnAirtime r 58) false = false)) ∧
    (∃ (m : Master), ∃ (s : State), (PageOpen s .bcn m) ∧ (s.en .bcn = true)) ∧
    (∃ (m : Master), ∃ (v : Word), ∃ (s : State), (PageOpen s .bcn m) ∧ (s.en .bcn = false) ∧ (16 < fld v 0 5)) ∧
    (∃ (m : Master), ∃ (v : Word), ∃ (s : State), (PageOpen s .bcn m) ∧ (s.en .bcn = false) ∧ (fld v 0 5 ≤ 16) ∧ ((fld v 0 5 = 16 → tst v 20 = false))) ∧
    (∃ (x : AirRx), ∃ (s : State), (s.takes .bcn = true) ∧ (s.holds = true) ∧ (s.isStandby = false) ∧ (s.isNode = true) ∧ (s.bcnState ≠ 0) ∧ (s.placeless = false) ∧ ((airHdr x).typ = 1) ∧ ((airHdr x).mhop = false) ∧ ((airPay x).length = 36) ∧ ((airHdr x).src = s.parentIx) ∧ (x.radio.val = s.upRadio) ∧ (let u := s.at x.verdict; (let sf := sfNear (u.airStart x / sf16).toNat (le (airPay x) 0 4); (s.bcn.heardSf ≠ some sf) ∧ (u.inWindow sf (u.airStart x) (u.airCnt x) = true)))) ∧
    (∃ (s : State), (s.takes .bcn = true) ∧ (s.isNode = true) ∧ (s.onNet = true) ∧ (s.repeated = false) ∧ (s.placeless = false) ∧ (s.bcnState ≠ 0) ∧ (s.tick % 256 = 2 * s.depth) ∧ (s.bcn.heardSf ≠ some s.sf) ∧ (s.rf R.bcn_BCN_STAT 4 4 < 2)) ∧
    (∃ (s : State), (s.takes .bcn = true) ∧ (s.isNode = true) ∧ (s.onNet = true) ∧ (s.repeated = false) ∧ (s.placeless = false) ∧ (s.bcnState ≠ 0) ∧ (s.tick % 256 = 2 * s.depth) ∧ (s.bcn.heardSf ≠ some s.sf) ∧ (s.rf R.bcn_BCN_STAT 4 4 = 2)) ∧
    (∃ (s : State), (s.isNode = true) ∧ (s.bcnState = 7) ∧ (s.takes .bcn = true) ∧ (s.bcn.listen + 4 ≤ s.sf)) ∧
    (∃ (s : State), ∃ c, (s.isNode = true) ∧ (s.bcnState = 7) ∧ (s.takes .bcn = true) ∧ (s.bcn.listen + 4 ≤ s.sf) ∧ (s.bestCand (fun c => decide (c.seg = s.net.seg)) = some c)) ∧
    (∃ (s : State), (s.isNode = true) ∧ (s.bcnState = 7) ∧ (s.takes .bcn = true) ∧ (s.bcn.listen + 4 ≤ s.sf) ∧ (s.bestCand (fun c => decide (c.seg = s.net.seg)) = none)) ∧
    (∃ (s : State), (s.isNode = true) ∧ (s.takes .bcn = true) ∧ (s.bcnState = 1) ∧ (s.bcn.scanAt + 512 ≤ s.tick)) ∧
    (∃ (s : State), (s.isNode = true) ∧ (s.takes .bcn = true) ∧ (s.bcnState = 1) ∧ (s.tick < s.bcn.scanAt + 512)) ∧
    (∃ (s : State), (s.isNode = true) ∧ (s.takes .bcn = true) ∧ (s.bcnState = 2) ∧ (s.bcn.gather.isSome = true) ∧ (s.bcn.listen + 8 < s.sf)) :=
  ⟨⟨{ (w 1 [(R.bcn_BCN_CFG, 1)]) with ntm := { (w 0 []).ntm with tick := 256255 }, bcn := { (w 0 []).bcn with ready := some 1000 } }, by decide +kernel⟩,
   ⟨0, { (w 1 [(R.bcn_BCN_CFG, 1)]) with ntm := { (w 0 []).ntm with tick := 256000 }, bcn := { (w 0 []).bcn with built := some 1000 } }, (zeros 36), by dsimp only; decide +kernel⟩,
   ⟨0, { (w 1 [(R.bcn_BCN_CFG, 1)]) with ntm := { (w 0 []).ntm with tick := 256000 }, bcn := { (w 0 []).bcn with built := some 1000 }, mem := { (w 0 []).mem with sramPoison := [0] } }, by dsimp only; decide +kernel⟩,
   ⟨3, { (w 1 []) with lvl := { (w 0 []).lvl with spans := [(3, 0, 2 ^ 60)] } }, by decide +kernel⟩,
   ⟨0, { (w 1 [(R.chn_CHc_LIM 0, 0x19000)]) with chn := { (w 0 []).chn with dwell := [(0, [1000000000])] } }, by decide +kernel⟩,
   ⟨.host, (w 1 []), by unfold PageOpen; decide +kernel⟩,
   ⟨.host, 17, (w 1 [(hdr .bcn oCtrl, 0)]), by unfold PageOpen; decide +kernel⟩,
   ⟨.host, 16, (w 1 [(hdr .bcn oCtrl, 0)]), by unfold PageOpen; decide +kernel⟩,
   ⟨{ rx ([1] ++ List.replicate 11 0 ++ [0xE8, 3] ++ List.replicate 34 0) with sync := 256001000000 }, (w 2 [(R.bcn_BCN_STAT, 6), (R.bcn_BCN_NODE, 1)]), by dsimp only; decide +kernel⟩,
   ⟨{ (w 2 [(R.bcn_BCN_STAT, 0x16), (R.bcn_BCN_NODE, 1)]) with ntm := { (w 0 []).ntm with tick := 256002 } }, by decide +kernel⟩,
   ⟨{ (w 2 [(R.bcn_BCN_STAT, 0x26), (R.bcn_BCN_NODE, 1)]) with ntm := { (w 0 []).ntm with tick := 256002 } }, by decide +kernel⟩,
   ⟨{ (w 2 [(R.bcn_BCN_STAT, 7)]) with bcn := { (w 0 []).bcn with listen := 996 } }, by decide +kernel⟩,
   ⟨{ (w 2 [(R.bcn_BCN_STAT, 7)]) with bcn := { (w 0 []).bcn with listen := 996, cands := [⟨0, 0, 0, 1, 20, true, [10, 10, 10, 10], 1, [], (0, 0), 0, false⟩] } }, (⟨0, 0, 0, 1, 20, true, [10, 10, 10, 10], 1, [], (0, 0), 0, false⟩ : Cand), by decide +kernel⟩,
   ⟨{ (w 2 [(R.bcn_BCN_STAT, 7)]) with bcn := { (w 0 []).bcn with listen := 996 } }, by decide +kernel⟩,
   ⟨(w 2 [(R.bcn_BCN_STAT, 1)]), by decide +kernel⟩,
   ⟨{ (w 2 [(R.bcn_BCN_STAT, 1)]) with bcn := { (w 0 []).bcn with scanAt := 256000 } }, by decide +kernel⟩,
   ⟨{ (w 2 [(R.bcn_BCN_STAT, 2)]) with bcn := { (w 0 []).bcn with gather := some (1, 1), listen := 991 } }, by decide +kernel⟩⟩

/-- States and operands that meet the hypotheses of ModulesJoinTheSegment, clause by clause. -/
theorem test_hyps_ModulesJoinTheSegment :
    (∃ (x : AirRx), ∃ (s : State), ((airHdr x).typ = 9) ∧ ((airHdr x).lsrc = true) ∧ (s.isHead = true) ∧ (byteAt (airPay x) 0 = 1) ∧ (s.rowOf (BitVec.ofNat 64 (airHdr x).src) = none)) ∧
    (∃ (x : AirRx), ∃ (r : NodeRow), ∃ (s : State), ((airHdr x).typ = 9) ∧ ((airHdr x).lsrc = true) ∧ (s.isHead = true) ∧ (byteAt (airPay x) 0 = 1) ∧ (s.rowOf (BitVec.ofNat 64 (airHdr x).src) = some r) ∧ (let v := (s.lend r).joinVerified r x; (v.2 = false))) ∧
    (∃ (x : AirRx), ∃ (r : NodeRow), ∃ (s : State), ((airHdr x).typ = 9) ∧ ((airHdr x).lsrc = true) ∧ (s.isHead = true) ∧ (byteAt (airPay x) 0 = 1) ∧ (s.rowOf (BitVec.ofNat 64 (airHdr x).src) = some r) ∧ (let a := joinAsk s (airPay x); (let v := (s.lend r).joinVerified r x; (let u : State := { v.1 with net := { v.1.net with via := Sparse.put v.1.net.via (airHdr x).src x.radio.val } }; (let q := u.askRidx a x.radio.val; (v.2 = true) ∧ (u.joinReason r a q = none)))))) ∧
    (∃ (x : AirRx), ∃ (r : NodeRow), ∃ (s : State), ∃ e, ((airHdr x).typ = 9) ∧ ((airHdr x).lsrc = true) ∧ (s.isHead = true) ∧ (byteAt (airPay x) 0 = 1) ∧ (s.rowOf (BitVec.ofNat 64 (airHdr x).src) = some r) ∧ (let a := joinAsk s (airPay x); (let v := (s.lend r).joinVerified r x; (let u : State := { v.1 with net := { v.1.net with via := Sparse.put v.1.net.via (airHdr x).src x.radio.val } }; (let q := u.askRidx a x.radio.val; (v.2 = true) ∧ (u.joinReason r a q = some e)))))) ∧
    (∃ (x : AirRx), ∃ (r : NodeRow), ∃ (s : State), ((airHdr x).typ = 9) ∧ ((airHdr x).lsrc = true) ∧ (s.isHead = true) ∧ (byteAt (airPay x) 0 = 1) ∧ (s.rowOf (BitVec.ofNat 64 (airHdr x).src) = some r) ∧ (r.index ≠ 0) ∧ ((joinAsk s (airPay x)).parent = 0) ∧ (let u : State := { s with net := { s.net with via := Sparse.put s.net.via (airHdr x).src x.radio.val } }; (u.joinReason r (joinAsk s (airPay x)) x.radio.val = none))) ∧
    (∃ (x : AirRx), ∃ (r : NodeRow), ∃ (s : State), ∃ e, ((airHdr x).typ = 9) ∧ ((airHdr x).lsrc = true) ∧ (s.isHead = true) ∧ (byteAt (airPay x) 0 = 1) ∧ (s.rowOf (BitVec.ofNat 64 (airHdr x).src) = some r) ∧ (r.index ≠ 0) ∧ ((joinAsk s (airPay x)).parent = 0) ∧ (let u : State := { s with net := { s.net with via := Sparse.put s.net.via (airHdr x).src x.radio.val } }; (u.joinReason r (joinAsk s (airPay x)) x.radio.val = some e))) ∧
    (∃ (x : AirRx), ∃ (s : State), ((airHdr x).typ = 9) ∧ ((airHdr x).lsrc = true) ∧ (s.isHead = false) ∧ (s.isNode = true) ∧ (s.hasIndex = true) ∧ (s.placeless = false) ∧ ((airHdr x).dst = s.ownIndex)) ∧
    (∃ (x : AirRx), ∃ (r : NodeRow), ∃ (s : State), (s.isHead = true) ∧ ((airHdr x).typ = 7) ∧ ((airHdr x).keysel = 0) ∧ (s.nodeRow (airFrom x) = some r) ∧ (r.index = airFrom x) ∧ (r.st = 2)) ∧
    (∃ (i : Nat), ∃ (r : NodeRow), ∃ (s : State), (s.nodeRow i = some r) ∧ (s.isHead = true) ∧ (r.st = 2) ∧ (r.accSf + 16 ≤ s.sf) ∧ (r.tries < 3)) ∧
    (∃ (i : Nat), ∃ (r : NodeRow), ∃ (s : State), (s.nodeRow i = some r) ∧ (s.isHead = true) ∧ (r.st = 2) ∧ (r.accSf + 16 ≤ s.sf) ∧ (3 ≤ r.tries)) ∧
    (∃ (e : Nat), ∃ (s : State), (s.net.joinEnd = some e) ∧ (e ≤ s.sf)) ∧
    (∃ (x : AirRx), ∃ (a : Nat × Nat × Nat), ∃ (s : State), (s.isNode = true) ∧ ((airHdr x).typ = 9) ∧ (s.bcn.asked = some a) ∧ (byteAt (airPay x) 0 = 2) ∧ ((airHdr x).seg = a.2.1)) ∧
    (∃ (x : AirRx), ∃ (a : Nat × Nat × Nat), ∃ (s : State), (s.isNode = true) ∧ ((airHdr x).typ = 9) ∧ (s.bcn.asked = some a) ∧ (byteAt (airPay x) 0 = 3) ∧ ((airHdr x).seg = a.2.1)) ∧
    (∃ (a : Nat × Nat × Nat), ∃ (s : State), (s.bcn.asked = some a) ∧ (s.isNode = true) ∧ (a.2.2 + 8 ≤ s.sf)) ∧
    (∃ (k : Nat × Nat × Nat), ∃ (s : State), (s.isNode = true) ∧ (s.net.wakeNext = some k)) ∧
    (∃ (i : Nat), ∃ (c : Child), ∃ (f : Bytes × Nat), ∃ (r : List (Bytes × Nat)), ∃ (s : State), (s.isNode = false) ∧ (s.child i = some c) ∧ (c.sleepy = true) ∧ (c.held = f :: r) ∧ (s.holds = true) ∧ (s.sf % 2 ^ c.e = c.phase) ∧ (s.tick ≤ s.sf * 256 + 226 + 4 * c.w) ∧ (c.w < 7) ∧ (s.wakeFits c.radio f.1 = true) ∧ (s.wakeQueued c.radio f.1 = false)) ∧
    (∃ (i : Nat), ∃ (c : Child), ∃ (f : Bytes × Nat), ∃ (r : List (Bytes × Nat)), ∃ (s : State), (s.isNode = false) ∧ (s.child i = some c) ∧ (c.sleepy = true) ∧ (c.held = f :: r) ∧ (s.holds = true) ∧ (s.sf % 2 ^ c.e = c.phase) ∧ (s.tick ≤ s.sf * 256 + 226 + 4 * c.w) ∧ (c.w < 7) ∧ (s.wakeFits c.radio f.1 = true) ∧ (s.wakeQueued c.radio f.1 = false) ∧ (let y : Tx := ⟨fwDesc f.1.length 1 true (some (s.sf * 256 + 226 + 4 * c.w)), some f.1, s.tick, none, 0, 0⟩; (c.radio < s.rad.length) ∧ (s.runs (radBlk c.radio) = true) ∧ (s.tooLong c.radio y = false))) ∧
    (∃ (x : AirRx), ∃ (c : Nat), ∃ (k : Child), ∃ (s : State), ((airHdr x).mhop = true) ∧ (s.hasIndex = true) ∧ (s.child ((airHdr x).src % 4096) = none) ∧ (s.airMine x = false) ∧ ((airHdr x).fin / 4096 ≠ 0) ∧ ((airHdr x).fin % 4096 ≠ 0) ∧ (s.downHop ((airHdr x).fin % 4096) = some c) ∧ (s.child c = some k)) ∧
    (∃ (x : AirRx), ∃ (c : Nat), ∃ (k : Child), ∃ (s : State), ((airHdr x).mhop = true) ∧ (s.hasIndex = true) ∧ (s.child ((airHdr x).src % 4096) = none) ∧ (s.airMine x = false) ∧ ((airHdr x).fin / 4096 ≠ 0) ∧ ((airHdr x).fin % 4096 ≠ 0) ∧ (s.downHop ((airHdr x).fin % 4096) = some c) ∧ (s.child c = some k) ∧ (let b := s.relayed (airHdr x) c (airPay x); (let y : Tx := ⟨fwDesc b.length 0 (airHdr x).ackReq none, some b, s.tick, none, 0, 0⟩; (k.sleepy = false) ∧ (k.radio < s.rad.length) ∧ (s.runs (radBlk k.radio) = true) ∧ (s.tooLong k.radio y = false)))) :=
  ⟨⟨(rx ([0x49] ++ List.replicate 17 0 ++ [1])), (w 1 []), by decide +kernel⟩,
   ⟨(rx ([0x49] ++ List.replicate 17 0 ++ [1])), (nr 0 1 0 0), { (w 1 [(R.bcn_BCN_CFG, 2)]) with net := { (w 0 []).net with nodes := [nr 0 1 0 0] } }, by dsimp only; decide +kernel⟩,
   ⟨(rx ([0x49] ++ List.replicate 17 0 ++ [1])), (nr 5 1 0 0), { (w 1 [(R.bcn_BCN_CFG, 2)]) with net := { (w 0 []).net with nodes := [nr 5 1 0 0] } }, by dsimp only; decide +kernel⟩,
   ⟨(rx ([0x49] ++ List.replicate 17 0 ++ [1])), (nr 5 1 0 0), { (w 1 []) with net := { (w 0 []).net with nodes := [nr 5 1 0 0] } }, 5, by dsimp only; decide +kernel⟩,
   ⟨(rx ([0x49] ++ List.replicate 17 0 ++ [1])), (nr 5 1 0 0), { (w 1 [(R.bcn_BCN_CFG, 2)]) with net := { (w 0 []).net with nodes := [nr 5 1 0 0] } }, by dsimp only; decide +kernel⟩,
   ⟨(rx ([0x49] ++ List.replicate 17 0 ++ [1])), (nr 5 1 0 0), { (w 1 []) with net := { (w 0 []).net with nodes := [nr 5 1 0 0] } }, 5, by dsimp only; decide +kernel⟩,
   ⟨(rx ([0x49, 0, 0, 0, 5] ++ List.replicate 13 0 ++ [1])), { (w 2 [(R.bcn_BCN_STAT, 4)]) with net := { (w 0 []).net with index := 5 } }, by decide +kernel⟩,
   ⟨(rx [7, 0, 0, 0, 0, 0, 5, 0]), (nr 5 2 0 0), { (w 1 []) with net := { (w 0 []).net with nodes := [nr 5 2 0 0] } }, by decide +kernel⟩,
   ⟨5, (nr 5 2 984 2), { (w 1 []) with net := { (w 0 []).net with nodes := [nr 5 2 984 2] } }, by decide +kernel⟩,
   ⟨5, (nr 5 2 984 3), { (w 1 []) with net := { (w 0 []).net with nodes := [nr 5 2 984 3] } }, by decide +kernel⟩,
   ⟨1000, { (w 1 []) with net := { (w 0 []).net with joinEnd := some 1000 } }, by decide +kernel⟩,
   ⟨(rx ([9] ++ List.replicate 11 0 ++ [2])), (0, 0, 0), { (w 2 []) with bcn := { (w 0 []).bcn with asked := some (0, 0, 0) } }, by decide +kernel⟩,
   ⟨(rx ([9] ++ List.replicate 11 0 ++ [3])), (0, 0, 0), { (w 2 []) with bcn := { (w 0 []).bcn with asked := some (0, 0, 0) } }, by decide +kernel⟩,
   ⟨(0, 0, 992), { (w 2 []) with bcn := { (w 0 []).bcn with asked := some (0, 0, 992) } }, by decide +kernel⟩,
   ⟨(1, 2, 3), { (w 2 []) with net := { (w 0 []).net with wakeNext := some (1, 2, 3) } }, by decide +kernel⟩,
   ⟨5, (kid 5 [([1], 0)]), ([1], 0), [], { (w 1 []) with net := { (w 0 []).net with children := [kid 5 [([1], 0)]] } }, by decide +kernel⟩,
   ⟨5, (kid 5 [([1], 0)]), ([1], 0), [], { (w 1 []) with net := { (w 0 []).net with children := [kid 5 [([1], 0)]] } }, by dsimp only; decide +kernel⟩,
   ⟨(rx ([0x20] ++ List.replicate 13 0 ++ [6, 0x10])), 6, (kid 6 []), { (w 1 []) with net := { (w 0 []).net with children := [kid 6 []] } }, by decide +kernel⟩,
   ⟨(rx ([0x20] ++ List.replicate 13 0 ++ [6, 0x10])), 6, { kid 6 [] with sleepy := false }, { (w 1 []) with net := { (w 0 []).net with children := [{ kid 6 [] with sleepy := false }] } }, by dsimp only; decide +kernel⟩⟩

/-- States and operands that meet the hypotheses of RadioQueuesItsFrames, clause by clause. -/
theorem test_hyps_RadioQueuesItsFrames :
    (∃ (r : Fin 4), ∃ (t : State), ∃ (d : DWord), ∃ (s : State), (s.takes (radBlk r.val) = true) ∧ (s.hwTakeEnt (s.rf (R.rad_RAD_CFG r.val) 16 4) = (t, some d)) ∧ (t.badDesc r.val d = true)) ∧
    (∃ (r : Fin 4), ∃ (t : State), ∃ (d : DWord), ∃ (s : State), (s.takes (radBlk r.val) = true) ∧ (s.hwTakeEnt (s.rf (R.rad_RAD_CFG r.val) 16 4) = (t, some d)) ∧ (t.badDesc r.val d = false) ∧ (let x : Tx := ⟨d, none, t.tick, if descResend d then Sparse.find (t.radio r.val).kept (descBuf d) else none, 0, 0⟩; (t.tooLong r.val x = false))) ∧
    (∃ (r : Fin 4), ∃ (t : State), ∃ (d : DWord), ∃ (s : State), (s.takes (radBlk r.val) = true) ∧ (s.hwTakeEnt (s.rf (R.rad_RAD_CFG r.val) 16 4) = (t, some d)) ∧ (t.badDesc r.val d = false) ∧ (let x : Tx := ⟨d, none, t.tick, if descResend d then Sparse.find (t.radio r.val).kept (descBuf d) else none, 0, 0⟩; (t.tooLong r.val x = false) ∧ (t.rad.length = 4))) ∧
    (∃ (r : Fin 4), ∃ (t : State), ∃ (d : DWord), ∃ (s : State), (s.takes (radBlk r.val) = true) ∧ (s.hwTakeEnt (s.rf (R.rad_RAD_CFG r.val) 16 4) = (t, some d)) ∧ (t.badDesc r.val d = false) ∧ (let x : Tx := ⟨d, none, t.tick, if descResend d then Sparse.find (t.radio r.val).kept (descBuf d) else none, 0, 0⟩; (t.tooLong r.val x = true))) ∧
    (∃ (a : Fin 3), ∃ (s : State), (s.onNet = true) ∧ (s.isStandby = false) ∧ (s.repeated = false) ∧ (tickClass (s.tick % 256) = a.val)) ∧
    (∃ (r : Nat), ∃ (acc : Nat), ∃ (x : Tx), ∃ (s : State), ((s.radio r).tested ≠ some (s.tick, acc)) ∧ (s.takes (radBlk r) = true) ∧ ((s.radio r).air = none) ∧ (let u := s.modRadio r fun q => { q with tested := some (s.tick, acc) }; (u.nextTx r acc = some x) ∧ (u.maySend x = true))) ∧
    (∃ (x : Tx), ∃ (v : State), ∃ (b : Bytes), ∃ (s : State), (s.onNet = true) ∧ (s.isStandby = false) ∧ (s.repeated = false) ∧ (224 ≤ s.tick % 256) ∧ (s.rad.length = 4) ∧ ((s.radio 0).tested ≠ some (s.tick, 1)) ∧ (s.takes (radBlk 0) = true) ∧ ((s.radio 0).air = none) ∧ (let u := s.modRadio 0 fun q => { q with tested := some (s.tick, 1) }; (u.nextTx 0 1 = some x) ∧ (u.maySend x = true) ∧ (u.atSlot 0 x = true) ∧ (u.floodOver 0 (u.tick * 4000 + 200) (u.sendExch 0 1 x) = false) ∧ (u.hopReaches (u.sendExch 0 1 x) = false) ∧ (u.lnkTakes = true) ∧ (u.chnTakes = true) ∧ (u.chanOk (u.sendChan 0 1) (u.sendMode 0 1) = true) ∧ (u.ledgersAllow 0 (u.sendChan 0 1) (u.sendAir 0 1 x) true = true) ∧ (u.securedOf x = .done v b))) ∧
    (∃ (r : Nat), ∃ (p : Nat), ∃ (x : Tx), ∃ (s : State), (s.slotFor r x = some p) ∧ (s.tick % p = 0) ∧ (s.tick % 256 + p ≤ 224) ∧ (x.since < s.tick) ∧ (x.left = 0)) ∧
    (∃ (r : Nat), ∃ (p : Nat), ∃ (x : Tx), ∃ (s : State), (s.slotFor r x = some p) ∧ (s.tick % p = 0) ∧ (s.tick % 256 + p ≤ 224) ∧ (x.since < s.tick) ∧ (0 < x.left)) ∧
    (∃ (r : Nat), ∃ (x : Tx), ∃ (s : State), (s.atSlot r x = true)) ∧
    (∃ (r : Fin 4), ∃ (a : OnAir), ∃ (s : State), ((s.radio r.val).air = some a) ∧ (descAck a.tx.desc = false)) ∧
    (∃ (r : Fin 4), ∃ (s : State), (s.runs (.rad r) = true) ∧ (s.rad.length = 4)) :=
  ⟨⟨0, ((qd 0x5000000500000000).hwTakeEnt 0).1, 0x5000000500000000, (qd 0x5000000500000000), by decide +kernel⟩,
   ⟨0, ((qd 0xD000000500000000).hwTakeEnt 0).1, 0xD000000500000000, (qd 0xD000000500000000), by dsimp only; decide +kernel⟩,
   ⟨0, ((qd 0xD000000500000000).hwTakeEnt 0).1, 0xD000000500000000, (qd 0xD000000500000000), by dsimp only; decide +kernel⟩,
   ⟨0, ((qd 0xD00000FD00000000).hwTakeEnt 0).1, 0xD00000FD00000000, (qd 0xD00000FD00000000), by dsimp only; decide +kernel⟩,
   ⟨0, (w 1 []), by decide +kernel⟩,
   ⟨0, 0, (tx 0xD000000500000000), { (w 1 []) with rad := rads (some (tx 0xD000000500000000)) none none none }, by dsimp only; decide +kernel⟩,
   ⟨{ tx 0xD00000054003E8F0 with secured := some sent0 }, (hc.modRadio 0 fun q => { q with tested := some (256240, 1) }), sent0, hc, by (repeat refine ⟨by decide +kernel, ?_⟩); rfl⟩,
   ⟨0, 1, (tx 0xD000000500000000), (w 1 []), by decide +kernel⟩,
   ⟨0, 1, { tx 0xD000000500000000 with left := 1 }, (w 1 []), by decide +kernel⟩,
   ⟨0, (tx 0xD00000054003E8F0), { (w 1 []) with ntm := { (w 0 []).ntm with tick := 256240 } }, by decide +kernel⟩,
   ⟨0, ⟨tx 0xD000000500000000, 0, 0⟩, { (w 1 []) with rad := rads none (some ⟨tx 0xD000000500000000, 0, 0⟩) none none }, by decide +kernel⟩,
   ⟨0, (w 1 []), by decide +kernel⟩⟩

/-- States and operands that meet the hypotheses of ChannelsHopAndAge, clause by clause. -/
theorem test_hyps_ChannelsHopAndAge :
    (∃ (m : Master), ∃ (v : Word), ∃ (s : State), (PageOpen s .chn m) ∧ (tst v 0 = true) ∧ (s.timeFor (s.rd R.chn_HOP_AT) = true) ∧ ((s.rd R.chn_HOP_AT).toNat % 256 = 0) ∧ (later (s.rd R.chn_HOP_AT) s.tick32 = true) ∧ (s.hopBad s.hopStaged = false) ∧ (s.hopFindable s.hopStaged = true)) ∧
    (∃ (m : Master), ∃ (v : Word), ∃ (s : State), (PageOpen s .chn m) ∧ (tst v 0 = true) ∧ (s.timeFor (s.rd R.chn_HOP_AT) = true) ∧ ((s.rd R.chn_HOP_AT).toNat % 256 = 0) ∧ (later (s.rd R.chn_HOP_AT) s.tick32 = true) ∧ (s.hopBad s.hopStaged = true)) ∧
    (∃ (m : Master), ∃ (v : Word), ∃ (s : State), (PageOpen s .chn m) ∧ (tst v 0 = true) ∧ (s.timeFor (s.rd R.chn_HOP_AT) = true) ∧ ((s.rd R.chn_HOP_AT).toNat % 256 = 0) ∧ (later (s.rd R.chn_HOP_AT) s.tick32 = true) ∧ (s.hopBad s.hopStaged = false) ∧ (s.hopFindable s.hopStaged = false)) ∧
    (∃ (m : Master), ∃ (v : Word), ∃ (s : State), (PageOpen s .chn m) ∧ (tst v 0 = true) ∧ (s.timeFor (s.rd R.chn_HOP_AT) = false)) ∧
    (∃ (m : Master), ∃ (v : Word), ∃ (s : State), (PageOpen s .chn m) ∧ (tst v 0 = true) ∧ (s.timeFor (s.rd R.chn_HOP_AT) = true) ∧ ((s.rd R.chn_HOP_AT).toNat % 256 ≠ 0)) ∧
    (∃ (l : List Nat), ∃ (a : Word), ∃ (s : State), (s.chn.hopNext = some (l, a)) ∧ (s.holds = true) ∧ (notEarlier s.tick32 a = true)) ∧
    (∃ (s : State), (s.boot.stage ≠ .off) ∧ (s.nvsOpen .chn 1 = true)) :=
  ⟨⟨.host, 1, (w 1 [(R.chn_HOP_AT, 256256)]), by unfold PageOpen; decide +kernel⟩,
   ⟨.host, 1, (w 1 [(R.chn_HOP_AT, 256256), (R.chn_HOP_LEN, 3)]), by unfold PageOpen; decide +kernel⟩,
   ⟨.host, 1, (w 1 [(R.chn_HOP_AT, 256256), (R.chn_HOP_LEN, 4), (R.chn_HOP_LIST0 0, 0x03020100), (R.chn_CHc_CFG 0, 0x80F04E84), (R.chn_CHc_CFG 1, 0x80F0526C), (R.chn_CHc_CFG 2, 0x80F05654), (R.chn_CHc_CFG 3, 0x80F05A3C)]), by unfold PageOpen; decide +kernel⟩,
   ⟨.host, 1, (w 1 [(R.ntm_NTM_STAT, 0)]), by unfold PageOpen; decide +kernel⟩,
   ⟨.host, 1, (w 1 [(R.chn_HOP_AT, 256257)]), by unfold PageOpen; decide +kernel⟩,
   ⟨[0, 1, 2, 3], 256000, { (w 1 []) with chn := { (w 0 []).chn with hopNext := some ([0, 1, 2, 3], 256000) } }, by decide +kernel⟩,
   ⟨(w 1 []), by decide +kernel⟩⟩

/-- States and operands that meet the hypotheses of AcceptedCounterIsNeverAcceptedAgain, clause by clause. -/
theorem test_hyps_AcceptedCounterIsNeverAcceptedAgain : (∃ (acc : Bool), ∃ (ok : Bool), ∃ (h : Nat), ∃ (w : Nat), ∃ (ctr : Nat), ∃ (ca : Option Bytes), ∃ (mic : Bytes), (judge acc h w ctr ok ca mic = 0)) :=
  ⟨true, true, 5, 1, 6, none, [], by decide +kernel⟩

/-- States and operands that meet the hypotheses of FramesAreHeardAndJudged, clause by clause. -/
theorem test_hyps_FramesAreHeardAndJudged :
    (∃ (r : Fin 4), ∃ (s : State), (s.hears r.val = true) ∧ (s.rad.length = 4)) ∧
    (∃ (r : Fin 4), ∃ (b : Bytes), ∃ (ph : Nat), ∃ (c : DWord), ∃ (s : State), (s.hears r.val = true) ∧ (s.rad.length = 4) ∧ (let u := s.at c; (let k := (((u.nt c : Int) - u.airLag r.val b ph) / tick16).toNat; ((floodFrame (parseHdr b) = true → s.holds = true → u.rxChan r.val k c = u.chan r.val k))))) ∧
    (∃ (r : Fin 4), ∃ (f : RxAir), ∃ (s : State), (s.rad.length = 4) ∧ ((s.radio r.val).rx = some f)) ∧
    (∃ (r : Fin 4), ∃ (s : State), ((s.radio r.val).rx = none)) ∧
    (∃ (r : Fin 4), ∃ (s : State), (s.rad.length = 4) ∧ ((s.radio r.val).ack.isSome = true)) ∧
    (∃ (r : Fin 4), ∃ (a : OnAir), ∃ (s : State), ((s.radio r.val).air = some a) ∧ (descAck a.tx.desc = true)) ∧
    (∃ (r : Fin 4), ∃ (a : OnAir), ∃ (b : Bytes), ∃ (fcs : Bytes), ∃ (s : State), ((s.radio r.val).air = some a) ∧ (descAck a.tx.desc = true) ∧ (fcsGood b fcs = false)) ∧
    (∃ (r : Fin 4), ∃ (a : OnAir), ∃ (b : Bytes), ∃ (fcs : Bytes), ∃ (s : State), ((s.radio r.val).air = some a) ∧ (descAck a.tx.desc = true) ∧ (let u := s.bumpSat (R.rad_RX_GOOD r.val) 1; (fcsGood b fcs = true) ∧ (u.inReset .lnk = false) ∧ (u.linkKeysOk = true) ∧ (u.ackOk (a.tx.secured.getD []) b = true))) ∧
    (∃ (r : Fin 4), ∃ (a : OnAir), ∃ (b : Bytes), ∃ (fcs : Bytes), ∃ (s : State), ((s.radio r.val).air = some a) ∧ (descAck a.tx.desc = true) ∧ (let u := s.bumpSat (R.rad_RX_GOOD r.val) 1; (fcsGood b fcs = true) ∧ (u.inReset .lnk = true ∨ u.linkKeysOk = false ∨ u.ackOk (a.tx.secured.getD []) b = false))) ∧
    (∃ (a : OnAir), (descAccess a.tx.desc ≠ 0)) :=
  ⟨⟨0, (w 1 []), by decide +kernel⟩,
   ⟨0, [], 0, 0, (w 1 []), by dsimp only; decide +kernel⟩,
   ⟨0, (⟨[1, 2], 0, 0, none, false, false, none⟩ : RxAir), { (w 1 []) with rad := rads none none (some (⟨[1, 2], 0, 0, none, false, false, none⟩ : RxAir)) none }, by decide +kernel⟩,
   ⟨0, (w 1 []), by decide +kernel⟩,
   ⟨0, { (w 1 []) with rad := rads none none none (some (⟨[], 0, 0, false, 0⟩ : AckDue)) }, by decide +kernel⟩,
   ⟨0, ⟨tx 0xF000000520000000, 0, 0⟩, { (w 1 []) with rad := rads none (some ⟨tx 0xF000000520000000, 0, 0⟩) none none }, by decide +kernel⟩,
   ⟨0, ⟨tx 0xF000000520000000, 0, 0⟩, [], [], { (w 1 []) with rad := rads none (some ⟨tx 0xF000000520000000, 0, 0⟩) none none }, by decide +kernel⟩,
   ⟨0, air0, ack0, (toLe 2 (crcOf crc16 ack0)), { (w 1 []) with rad := rads none (some air0) none none }, by dsimp only; decide +kernel⟩,
   ⟨0, ⟨tx 0xF000000520000000, 0, 0⟩, [1, 2], (toLe 2 (crcOf crc16 [1, 2])), { (w 1 []) with rad := rads none (some ⟨tx 0xF000000520000000, 0, 0⟩) none none }, by dsimp only; decide +kernel⟩,
   ⟨⟨tx 0x40000005, 0, 0⟩, by decide +kernel⟩⟩

/-- States and operands that meet the hypotheses of LinkKeepsItsCountersAndKeys, clause by clause. -/
theorem test_hyps_LinkKeepsItsCountersAndKeys :
    (∃ (m : Master), ∃ (s : State), (PageOpen s .lnk m) ∧ (s.en .lnk = true)) ∧
    (∃ (m : Master), ∃ (i : Fin 3), ∃ (v : Word), ∃ (s : State), (PageOpen s .lnk m) ∧ (s.en .lnk = false) ∧ (v.toNat ≤ s.rn (ctrReg i.val))) ∧
    (∃ (m : Master), ∃ (i : Fin 3), ∃ (v : Word), ∃ (s : State), (PageOpen s .lnk m) ∧ (s.en .lnk = false) ∧ (s.rn (ctrReg i.val) < v.toNat)) ∧
    (∃ (m : Master), ∃ (v : Word), ∃ (s : State), (PageOpen s .lnk m) ∧ (genBad v (s.rd R.lnk_GEN_NEXT) = true)) ∧
    (∃ (m : Master), ∃ (v : Word), ∃ (s : State), (PageOpen s .lnk m) ∧ (genBad v (s.rd R.lnk_GEN_NEXT) = false)) ∧
    (∃ (m : Master), ∃ (v : Word), ∃ (s : State), (PageOpen s .lnk m) ∧ (genBad (s.rd R.lnk_LNK_GEN) v = false) ∧ ((tst v 1 = true → s.timeFor (s.rd R.lnk_GEN_AT) = true))) ∧
    (∃ (s : State), (s.rb R.lnk_GEN_NEXT 1 = true) ∧ (s.holds = true) ∧ (notEarlier s.tick32 (s.rd R.lnk_GEN_AT) = true)) ∧
    (∃ (a : Nat), ∃ (g : Nat), ∃ (s : State), (s.lnk.retire = some (a, g)) ∧ (a ≤ s.sf) ∧ (s.isHead = false) ∧ (g ≤ 1)) ∧
    (∃ (m : Master), ∃ (s : State), (PageOpen s .lnk m)) ∧
    (∃ (m : Master), ∃ (v : Word), ∃ (s : State), (PageOpen s .lnk m) ∧ (tst v 0 = true)) ∧
    (∃ (t : State), ∃ (b : Bytes), ∃ (s : State), (s.lnkTakes = true) ∧ (s.packetReady (s.rf R.lnk_VFY_Q 0 4) = true) ∧ (popPacket 4096 (s.rf R.lnk_VFY_Q 0 4) s [] = (t, some b)) ∧ (let psdu := b.take (s.headLen (s.rf R.lnk_VFY_Q 0 4)); ((secBad (parseHdr psdu) || dstBad (parseHdr psdu)) = true))) ∧
    (∃ (x : AirRx), ∃ (s : State), (s.isNode = true) ∧ ((airHdr x).typ = 10) ∧ ((airPay x).length = 18) ∧ (byteAt (airPay x) 1 ≤ 1) ∧ (byteAt (airPay x) 0 = 0)) ∧
    (∃ (x : AirRx), ∃ (s : State), (s.isNode = true) ∧ ((airHdr x).typ = 10) ∧ ((airPay x).length = 18) ∧ (byteAt (airPay x) 1 ≤ 1) ∧ (byteAt (airPay x) 0 = 0) ∧ (s.vlt.slots.length = 64) ∧ ((s.bcnState ≠ 3 ∨ s.bcn.asked.isSome = true))) ∧
    (∃ (x : AirRx), ∃ (s : State), (s.isNode = true) ∧ ((airHdr x).typ = 10) ∧ ((airPay x).length = 18) ∧ (byteAt (airPay x) 1 ≤ 1) ∧ (byteAt (airPay x) 0 = 1)) ∧
    (∃ (x : AirRx), ∃ (s : State), (s.isNode = true) ∧ ((airHdr x).typ = 10) ∧ ((airPay x).length = 18) ∧ (byteAt (airPay x) 1 ≤ 1) ∧ (byteAt (airPay x) 0 = 1) ∧ (s.vlt.slots.length = 64)) ∧
    (∃ (x : AirRx), ∃ (s : State), (s.isHead = true) ∧ ((airHdr x).typ = 5)) ∧
    (∃ (x : AirRx), ∃ (s : State), (s.isHead = true) ∧ ((airHdr x).typ = 5) ∧ (let q := s.rf R.cor_COR_CFG 0 4; ((s.queue q).hw = []) ∧ (q < s.que.q.length) ∧ (s.takes .que = true) ∧ (s.qen q = true) ∧ ((s.queue q).ents.length < s.qsize q))) ∧
    (∃ (x : AirRx), ∃ (s : State), (s.isHead = true) ∧ ((airHdr x).typ = 6) ∧ (s.afterTakeover = false)) ∧
    (∃ (r : Reading), ∃ (s : State), (s.nrg.reads.reverse.find? (fun r => !r.sent) = some r) ∧ (s.isNode = true) ∧ (s.hasIndex = true) ∧ (s.holds = true) ∧ (s.placeless = false)) :=
  ⟨⟨.host, (w 1 []), by unfold PageOpen; decide +kernel⟩,
   ⟨.host, 0, 1, (w 1 [(hdr .lnk oCtrl, 0), (ctrReg 0, 1)]), by unfold PageOpen; decide +kernel⟩,
   ⟨.host, 0, 2, (w 1 [(hdr .lnk oCtrl, 0), (ctrReg 0, 1)]), by unfold PageOpen; decide +kernel⟩,
   ⟨.host, 1, (w 1 []), by unfold PageOpen; decide +kernel⟩,
   ⟨.host, 2, (w 1 []), by unfold PageOpen; decide +kernel⟩,
   ⟨.host, 1, (w 1 [(R.lnk_LNK_GEN, 2)]), by unfold PageOpen; decide +kernel⟩,
   ⟨(w 1 [(R.lnk_GEN_NEXT, 3), (R.lnk_GEN_AT, 256040)]), by decide +kernel⟩,
   ⟨1000, 0, { (w 2 []) with lnk := { (w 0 []).lnk with retire := some (1000, 0) } }, by decide +kernel⟩,
   ⟨.host, (w 1 []), by unfold PageOpen; decide +kernel⟩,
   ⟨.host, 1, (w 1 []), by unfold PageOpen; decide +kernel⟩,
   ⟨(popPacket 4096 0 qp []).1, (toLe 7 1), qp, by dsimp only; decide +kernel⟩,
   ⟨(rx ([10] ++ List.replicate 11 0 ++ [0, 1] ++ List.replicate 16 1)), (w 2 []), by decide +kernel⟩,
   ⟨(rx ([10] ++ List.replicate 11 0 ++ [0, 1] ++ List.replicate 16 1)), (w 2 [(R.bcn_BCN_STAT, 4)]), by decide +kernel⟩,
   ⟨(rx ([10] ++ List.replicate 11 0 ++ [1, 0] ++ List.replicate 16 1)), (w 2 []), by decide +kernel⟩,
   ⟨(rx ([10] ++ List.replicate 11 0 ++ [1, 0] ++ List.replicate 16 1)), (w 2 [(R.bcn_BCN_STAT, 4)]), by decide +kernel⟩,
   ⟨(rx ([5] ++ List.replicate 20 0)), (w 1 []), by decide +kernel⟩,
   ⟨(rx ([5] ++ List.replicate 20 0)), (w 1 [(R.que_QCFGq 0, 0x101)]), by dsimp only; decide +kernel⟩,
   ⟨(rx ([6] ++ List.replicate 30 0)), (w 1 []), by decide +kernel⟩,
   ⟨(⟨900, 5, 1, false, false, 0⟩ : Reading), { (w 2 [(R.bcn_BCN_STAT, 4)]) with net := { (w 0 []).net with index := 3 }, nrg := { (w 0 []).nrg with reads := [(⟨900, 5, 1, false, false, 0⟩ : Reading)] } }, by decide +kernel⟩⟩

/-- States and operands that meet the hypotheses of AirCommandsFromTheHead, clause by clause. -/
theorem test_hyps_AirCommandsFromTheHead :
    (∃ (x : AirRx), ∃ (s : State), (s.fromHead x 0x0210 = true)) ∧
    (∃ (x : AirRx), ∃ (s : State), (s.fromHead x 0x0211 = true)) ∧
    (∃ (x : AirRx), ∃ (s : State), ∃ k, (s.fromHead x 0x0212 = true) ∧ (let p := le (airArgs x) 0 2 % 4096; (s.bcn.cands.find? (fun c => decide (c.index = p) && decide (c.seg = s.net.seg)) = some k))) ∧
    (∃ (x : AirRx), ∃ (s : State), (s.fromHead x 0x0212 = true) ∧ (let p := le (airArgs x) 0 2 % 4096; (s.bcn.cands.find? (fun c => decide (c.index = p) && decide (c.seg = s.net.seg)) = none))) ∧
    (∃ (x : AirRx), ∃ (s : State), (s.fromHead x 0x0213 = true)) ∧
    (∃ (x : AirRx), ∃ (s : State), (s.fromHead x 0x0718 = true) ∧ (60 ≤ le (airArgs x) 0 4) ∧ (le (airArgs x) 0 4 ≤ 86400)) ∧
    (∃ (x : AirRx), ∃ (s : State), (s.isNode = true) ∧ (s.inReset .lvl = false) ∧ (s.airMine x = true) ∧ (airOpc x = 0x0512)) ∧
    (∃ (x : AirRx), ∃ (s : State), (s.isHead = true) ∧ (s.inReset .lvl = false) ∧ (airOpc x = 0x0510) ∧ (le (airArgs x) 0 2 = s.epoch)) ∧
    (∃ (x : AirRx), ∃ (s : State), (s.isHead = true) ∧ (s.inReset .lvl = false) ∧ (airOpc x = 0x0511) ∧ (s.afterTakeover = false) ∧ (s.curMode.hop = none)) ∧
    (∃ (x : AirRx), ∃ (s : State), ((∀ o, s.fromHead x o = false))) :=
  ⟨⟨(cf [0x10, 2] (List.replicate 16 1)), (n5 []), by decide +kernel⟩,
   ⟨(cf [0x11, 2] [7, 0]), (n5 []), by decide +kernel⟩,
   ⟨(cf [0x12, 2] [7, 0]), { n5 [] with bcn := { (n5 []).bcn with cands := [(⟨7, 0, 0, 1, 0, true, [], 0, [], (0, 0), 0, false⟩ : Cand)] } }, (⟨7, 0, 0, 1, 0, true, [], 0, [], (0, 0), 0, false⟩ : Cand), by dsimp only; decide +kernel⟩,
   ⟨(cf [0x12, 2] [7, 0]), (n5 []), by dsimp only; decide +kernel⟩,
   ⟨(cf [0x13, 2] [7, 0]), (n5 []), by decide +kernel⟩,
   ⟨(cf [0x18, 7] (toLe 4 60)), (n5 []), by decide +kernel⟩,
   ⟨(cf [0x12, 5] (List.replicate 16 1)), (n5 []), by decide +kernel⟩,
   ⟨(rx ([6] ++ List.replicate 11 0 ++ [0x10, 5] ++ List.replicate 8 0)), (w 1 []), by decide +kernel⟩,
   ⟨(rx ([6] ++ List.replicate 11 0 ++ [0x11, 5] ++ List.replicate 8 0)), (w 1 []), by decide +kernel⟩,
   ⟨(cf [0x10, 2] []), (w 1 []), fun o => by unfold State.fromHead; rw [show (w 1 []).isNode = false by decide +kernel]; rfl⟩⟩

/-- States and operands that meet the hypotheses of PpsTimeOfDayAndLinkDelay, clause by clause. -/
theorem test_hyps_PpsTimeOfDayAndLinkDelay :
    (∃ (b : Bool), ∃ (s : State), (s.takes .ntm = true) ∧ (s.rb R.ntm_NTM_CFG 4 = true) ∧ (b = !s.rb R.ntm_NTM_CFG 3)) ∧
    (∃ (b : Bool), ∃ (s : State), (s.takes .ntm = true) ∧ (s.rb R.ntm_NTM_CFG 4 = true) ∧ (b = s.rb R.ntm_NTM_CFG 3)) ∧
    (∃ (c : DWord), ∃ (s : State), (s.runs .ntm = true) ∧ (s.rf R.ntm_NTM_CFG 0 2 = 1) ∧ ((s.tmState = 1 ∨ s.tmState = 2)) ∧ ((s.at c).ppsOverdue c = true)) ∧
    (∃ (c : DWord), ∃ (k : TodWait), ∃ (s : State), (s.ntm.tod = some k) ∧ (275000000 ≤ (c - k.cnt).toNat)) ∧
    (∃ (tag : Word), ∃ (k : Cmd), ∃ (s : State), (Ready s 0x0100 tag k) ∧ (k.par 0 8 % 1000000000 ≠ 0)) ∧
    (∃ (tag : Word), ∃ (k : Cmd), ∃ (s : State), (Ready s 0x0100 tag k) ∧ (k.par 0 8 % 1000000000 = 0) ∧ (s.takes .ntm = false)) ∧
    (∃ (tag : Word), ∃ (k : Cmd), ∃ (s : State), (Ready s 0x0100 tag k) ∧ (k.par 0 8 % 1000000000 = 0) ∧ (s.takes .ntm = true)) ∧
    (∃ (s : State), (s.takes .ntm = true) ∧ (s.isNode = true) ∧ (s.holds = true) ∧ (s.ntm.measured = true) ∧ (s.placeless = false) ∧ ((s.ntm.dreqSf.all fun f => decide (f + s.rf R.ntm_DLY_CFG 0 8 ≤ s.sf)) = true)) ∧
    (∃ (x : AirRx), ∃ (s : State), ((airHdr x).typ = 4) ∧ ((airHdr x).mhop = false) ∧ (byteAt (airPay x) 0 = 1) ∧ ((airPay x).length = 10) ∧ (s.hasIndex = true) ∧ (s.holds = true) ∧ (s.placeless = false)) ∧
    (∃ (x : AirRx), ∃ (s : State), ((airHdr x).typ = 4) ∧ ((airHdr x).mhop = false) ∧ (byteAt (airPay x) 0 = 1) ∧ ((airPay x).length = 10) ∧ (s.hasIndex = true) ∧ (s.holds = true) ∧ (s.placeless = false) ∧ (s.runs (radBlk x.radio.val) = true) ∧ (s.rad.length = 4) ∧ (let u := s.at x.verdict; (let b := u.frameOf 4 false 0 0 ((airHdr x).src % 4096) none (toLe 1 2 ++ toLe 1 (byteAt (airPay x) 1) ++ toLe 8 (tsOf (s.airStart x)) ++ zeros 8); (let y : Tx := ⟨fwDesc b.length 0 false (some (s.tick + 4 * 256)), some b, s.tick, none, 0, 0⟩; (u.tooLong x.radio.val y = false))))) ∧
    (∃ (x : AirRx), ∃ (n : Nat), ∃ (t1 : Nat), ∃ (s : State), ((airHdr x).typ = 4) ∧ ((airHdr x).mhop = false) ∧ (byteAt (airPay x) 0 = 2) ∧ ((airPay x).length = 18) ∧ (s.isNode = true) ∧ ((airHdr x).src = s.parentIx) ∧ (s.takes .ntm = true) ∧ (s.ntm.dreq.find? (fun q => decide (q.1 = byteAt (airPay x) 1)) = some (n, t1))) :=
  ⟨⟨true, (w 1 [(R.ntm_NTM_CFG, 0x10)]), by decide +kernel⟩,
   ⟨false, (w 1 [(R.ntm_NTM_CFG, 0x10)]), by decide +kernel⟩,
   ⟨600000000, (w 1 [(R.ntm_NTM_CFG, 1)]), by decide +kernel⟩,
   ⟨275000000, (⟨7, 0, false, 0⟩ : TodWait), { (w 1 []) with ntm := { (w 0 []).ntm with tod := some ⟨7, 0, false, 0⟩ } }, by decide +kernel⟩,
   ⟨7, (kc 0x0100 (toLe 8 1) [] 0), (onK (kc 0x0100 (toLe 8 1) [] 0) (w 1 [])), by unfold Ready; decide +kernel⟩,
   ⟨7, (kc 0x0100 (toLe 8 0) [] 0), (onK (kc 0x0100 (toLe 8 0) [] 0) (w 1 [(hdr .ntm oCtrl, 0)])), by unfold Ready; decide +kernel⟩,
   ⟨7, (kc 0x0100 (toLe 8 0) [] 0), (onK (kc 0x0100 (toLe 8 0) [] 0) (w 1 [])), by unfold Ready; decide +kernel⟩,
   ⟨{ (w 2 [(R.bcn_BCN_STAT, 4)]) with ntm := { (w 0 []).ntm with measured := true } }, by decide +kernel⟩,
   ⟨(rx ([4] ++ List.replicate 11 0 ++ [1] ++ List.replicate 9 0)), (w 1 []), by decide +kernel⟩,
   ⟨(rx ([4] ++ List.replicate 11 0 ++ [1] ++ List.replicate 9 0)), (w 1 []), by dsimp only; decide +kernel⟩,
   ⟨(rx ([4, 0, 0, 0, 0, 0, 3] ++ List.replicate 5 0 ++ [2, 9] ++ List.replicate 16 0)), 9, 77, { (w 2 [(R.bcn_BCN_NODE, 0x300)]) with ntm := { (w 0 []).ntm with dreq := [(9, 77)] } }, by decide +kernel⟩⟩

/-- States and operands that meet the hypotheses of TimeIsReadSteppedAndLoaded, clause by clause. -/
theorem test_hyps_TimeIsReadSteppedAndLoaded :
    (∃ (m : Master), ∃ (s : State), (PageOpen s .ntm m)) ∧
    (∃ (m : Master), ∃ (s : State), (PageOpen s .ntm m)) ∧
    (∃ (m : Master), ∃ (s : State), (PageOpen s .ntm m)) ∧
    (∃ (m : Master), ∃ (v : Word), ∃ (s : State), (PageOpen s .ntm m) ∧ (tst v 0 = true) ∧ (s.holds = true)) ∧
    (∃ (m : Master), ∃ (v : Word), ∃ (s : State), (PageOpen s .ntm m) ∧ (tst v 0 = true) ∧ (s.holds = false)) ∧
    (∃ (e : Int), ∃ (c : DWord), ∃ (s : State), (s.ntm.step = some e) ∧ (s.holds = true) ∧ (s.ntm.stepDue = true) ∧ (c = s.edgeCnt)) ∧
    (∃ (m : Master), ∃ (s : State), (PageOpen s .ntm m) ∧ (s.tmState = 0) ∧ (s.rb R.ntm_NTM_CFG 2 = false)) ∧
    (∃ (m : Master), ∃ (s : State), (PageOpen s .ntm m) ∧ (s.tmState ≠ 0)) ∧
    (∃ (tag : Word), ∃ (k : Cmd), ∃ (s : State), (Ready s 0x0101 tag k)) ∧
    (∃ (tag : Word), ∃ (k : Cmd), ∃ (s : State), (Ready s 0x0102 tag k) ∧ (s.rf R.rst_ROLE 0 2 = 2)) ∧
    (∃ (tag : Word), ∃ (k : Cmd), ∃ (s : State), (Ready s 0x0102 tag k) ∧ (s.rf R.rst_ROLE 0 2 ≠ 2) ∧ (k.par 0 1 ≤ 3)) ∧
    (∃ (tag : Word), ∃ (k : Cmd), ∃ (s : State), (Ready s 0x0102 tag k) ∧ (s.rf R.rst_ROLE 0 2 ≠ 2) ∧ (3 < k.par 0 1)) :=
  ⟨⟨.host, (w 1 []), by unfold PageOpen; decide +kernel⟩,
   ⟨.host, (w 1 []), by unfold PageOpen; decide +kernel⟩,
   ⟨.host, (w 1 []), by unfold PageOpen; decide +kernel⟩,
   ⟨.host, 1, (w 1 []), by unfold PageOpen; decide +kernel⟩,
   ⟨.host, 1, (w 1 [(R.ntm_NTM_STAT, 0)]), by unfold PageOpen; decide +kernel⟩,
   ⟨5, 7, { { (w 1 []) with ntm := { (w 0 []).ntm with step := some 5, stepDue := true } } with edgeCnt := 7 }, by decide +kernel⟩,
   ⟨.host, (w 1 [(R.ntm_NTM_STAT, 0), (R.ntm_NTM_CFG, 0)]), by unfold PageOpen; decide +kernel⟩,
   ⟨.host, (w 1 []), by unfold PageOpen; decide +kernel⟩,
   ⟨7, (kc 0x0101 [] [] 0), (onK (kc 0x0101 [] [] 0) (w 1 [])), by unfold Ready; decide +kernel⟩,
   ⟨7, (kc 0x0102 [1] [] 0), (onK (kc 0x0102 [1] [] 0) (w 2 [])), by unfold Ready; decide +kernel⟩,
   ⟨7, (kc 0x0102 [3] [] 0), (onK (kc 0x0102 [3] [] 0) (w 1 [])), by unfold Ready; decide +kernel⟩,
   ⟨7, (kc 0x0102 [4] [] 0), (onK (kc 0x0102 [4] [] 0) (w 1 [])), by unfold Ready; decide +kernel⟩⟩

/-- States and operands that meet the hypotheses of SerialComparisonOfTicks, clause by clause. -/
theorem test_hyps_SerialComparisonOfTicks : (∃ (a : Word), ∃ (b : Word), ((a - b).toNat = 2 ^ 31)) :=
  ⟨0x80000000, 0, by decide +kernel⟩

/-- States and operands that meet the hypotheses of UnmappedAccessesAreRecorded, clause by clause. -/
theorem test_hyps_UnmappedAccessesAreRecorded :
    (∃ (a : Nat), (0x5000 ≤ a) ∧ (a < 0x6000)) ∧
    (∃ (a : Nat), (0x2F000 ≤ a) ∧ (isMsix a = false)) ∧
    (∃ (m : Master), ∃ (addr : Nat), ∃ (a : Nat), ∃ (s : State), (busOff m addr = some a) ∧ (a < 2 ^ 24) ∧ (unmapped a = true) ∧ (s.inReset .sys = false) ∧ ((m = .host → s.hostWaits = false))) :=
  ⟨⟨0x5FFF, by decide +kernel⟩,
   ⟨0x2F000, by decide +kernel⟩,
   ⟨.host, 0x5000, 0x5000, (w 1 []), by decide +kernel⟩⟩

/-- States and operands that meet the hypotheses of FirstErrorIsKeptAndCounted, clause by clause. -/
theorem test_hyps_FirstErrorIsKeptAndCounted :
    (∃ (s : State), ∃ (b : Blk), ∃ (code : Nat), ∃ (off : Nat), (code < 256) ∧ (off < 0x1000) ∧ (s.rn (hdr b oErr) = 0)) ∧
    (∃ (s : State), ∃ (b : Blk), ∃ (code : Nat), ∃ (off : Nat), (code < 256) ∧ (off < 0x1000) ∧ (s.rn (hdr b oErr) ≠ 0)) ∧
    (∃ (code : Nat), ∃ (off : Nat), (code < 256) ∧ (off < 0x1000)) :=
  ⟨⟨(w 1 []), .sys, 255, 0xFFF, by decide +kernel⟩,
   ⟨(w 1 [(hdr .sys oErr, 1)]), .sys, 255, 0xFFF, by decide +kernel⟩,
   ⟨255, 0xFFF, by decide +kernel⟩⟩

/-- States and operands that meet the hypotheses of AccessesInResetAreDropped, clause by clause. -/
theorem test_hyps_AccessesInResetAreDropped : (∃ (i : Instr), ∃ (b : Blk), ∃ (off : Nat), ∃ (m : Master), ∃ (s : State), (pageOf i = some (b, off, m)) ∧ (s.inReset b = true) ∧ ((s.hostWaits = false ∨ (m ≠ .host ∧ s.hostBlocked = true)))) :=
  ⟨(.graphCheck .host), .cor, 0x54, .host, State.reset, by decide +kernel⟩

/-- States and operands that meet the hypotheses of RegistersAreReadAndWrittenAsWords, clause by clause. -/
theorem test_hyps_RegistersAreReadAndWrittenAsWords :
    (∃ (m : Master), ∃ (s : State), (s.laneHeld m = false)) ∧
    (∃ (m : Master), ∃ (addr : Nat), ∃ (a : Nat), ∃ (p : Nat), ∃ (b : Blk), ∃ (s : State), (s.laneHeld m = false) ∧ (busOff m addr = some a) ∧ (isMsix a = false) ∧ (blkOfPage (a / 0x1000) = some (b, p)) ∧ (PageOpen s b m) ∧ (s.hostDenied b m (a % 0x1000) = false)) ∧
    (∃ (b : Blk), ∃ (s : State), (PageOpen s b .host)) ∧
    (∃ (b : Blk), ∃ (s : State), (PageOpen s b .host) ∧ (s.hostDenied b .host oStat = false)) ∧
    (∃ (s : State), ∃ (b : Blk), ∃ (p : Nat), ∃ (off : Nat), (0x40 ≤ off) ∧ (s.locked b = true) ∧ (rowLocks (blkBase b + 0x1000 * p + off) = true)) ∧
    (∃ (a : Nat), ∃ (s : State), (a < 0x3FFFFD) ∧ (s.inReset .que = false) ∧ (s.host.bar0Held = [])) ∧
    (∃ (m : Master), ∃ (addr : Nat), ∃ (a : Nat), ∃ (b : Blk), ∃ (p : Nat), ∃ (s : State), (busOff m addr = some a) ∧ (blkOfPage (a / 0x1000) = some (b, p)) ∧ (PageOpen s b m)) ∧
    (∃ (m : Master), ∃ (addr : Nat), (busOff m addr = none)) ∧
    (∃ (s : State), (s.inReset .sys = false) ∧ (s.hostWaits = false)) :=
  ⟨⟨.host, (w 1 []), by decide +kernel⟩,
   ⟨.host, 0x1040, 0x1040, 0, .rst, (w 1 []), by unfold PageOpen; decide +kernel⟩,
   ⟨.cor, (w 1 []), by unfold PageOpen; decide +kernel⟩,
   ⟨.cor, (w 1 []), by unfold PageOpen; decide +kernel⟩,
   ⟨(w 1 [(hdr .cor oLock, 1)]), .cor, 0, 0x40, by decide +kernel⟩,
   ⟨0x3FFFFC, (w 1 []), by decide +kernel⟩,
   ⟨.host, 0x1041, 0x1041, .rst, 0, (w 1 []), by unfold PageOpen; decide +kernel⟩,
   ⟨.svc, 0x1041, by decide +kernel⟩,
   ⟨(w 1 []), by decide +kernel⟩⟩

/-- States and operands that meet the hypotheses of PageHeadersAreWritten, clause by clause. -/
theorem test_hyps_PageHeadersAreWritten :
    (∃ (m : Master), ∃ (b : Blk), ∃ (s : State), (PageOpen s b m) ∧ (s.hostDenied b m oRaw = false)) ∧
    (∃ (m : Master), ∃ (b : Blk), ∃ (s : State), (PageOpen s b m) ∧ (s.hostDenied b m 0x2C = false)) ∧
    (∃ (m : Master), ∃ (b : Blk), ∃ (v : Word), ∃ (s : State), (PageOpen s b m) ∧ (s.hostDenied b m oLock = false) ∧ (tst v 0 = true)) ∧
    (∃ (m : Master), ∃ (b : Blk), ∃ (s : State), (PageOpen s b m)) ∧
    (∃ (m : Master), ∃ (b : Blk), ∃ (s : State), (PageOpen s b m) ∧ (s.host.bar0Held = [])) ∧
    (∃ (m : Master), ∃ (s : State), (PageOpen s .sys m)) ∧
    (∃ (s : State), ∃ (n : Nat), (s.rb (msixCtl n) 0 = false)) ∧
    (∃ (s : State), ∃ (n : Nat), (s.rb (msixCtl n) 0 = true) ∧ (n < 64)) ∧
    (∃ (m : Master), ∃ (b : Blk), ∃ (s : State), (PageOpen s b m) ∧ (s.hostDenied b m 0x2C = true)) :=
  ⟨⟨.host, .cor, (w 1 []), by unfold PageOpen; decide +kernel⟩,
   ⟨.host, .cor, (w 1 []), by unfold PageOpen; decide +kernel⟩,
   ⟨.host, .cor, 1, (w 1 []), by unfold PageOpen; decide +kernel⟩,
   ⟨.host, .cor, (w 1 []), by unfold PageOpen; decide +kernel⟩,
   ⟨.host, .cor, (w 1 []), by unfold PageOpen; decide +kernel⟩,
   ⟨.host, (w 1 []), by unfold PageOpen; decide +kernel⟩,
   ⟨(w 1 [(msixCtl 63, 0)]), 63, by decide +kernel⟩,
   ⟨(w 1 []), 63, by decide +kernel⟩,
   ⟨.host, .vlt, { (w 1 []) with vlt := { (w 0 []).vlt with approved := true } }, by unfold PageOpen; decide +kernel⟩⟩

/-- States and operands that meet the hypotheses of BlocksDrainPauseResumeAndStop, clause by clause. -/
theorem test_hyps_BlocksDrainPauseResumeAndStop :
    (∃ (m : Master), ∃ (b : Blk), ∃ (s : State), (PageOpen s b m) ∧ (s.hostDenied b m oCtrl = false)) ∧
    (∃ (m : Master), ∃ (b : Blk), ∃ (s : State), (PageOpen s b m) ∧ (s.hostDenied b m oCtrl = false) ∧ (blkDrain b = true) ∧ (s.keptOff b = false) ∧ (s.host.bar0Held = []) ∧ (s.rn (hdr b oCtrl) < 4) ∧ (s.en b = false) ∧ (s.drained b = true)) ∧
    (∃ (m : Master), ∃ (b : Blk), ∃ (s : State), (PageOpen s b m) ∧ (s.hostDenied b m oCtrl = false) ∧ (blkDrain b = true) ∧ (s.keptOff b = false) ∧ (s.host.bar0Held = []) ∧ (s.rn (hdr b oCtrl) < 4) ∧ (s.en b = true)) ∧
    (∃ (m : Master), ∃ (b : Blk), ∃ (s : State), (PageOpen s b m) ∧ (s.hostDenied b m oCtrl = false) ∧ (blkDrain b = true) ∧ (s.keptOff b = false) ∧ (s.host.bar0Held = []) ∧ (s.rn (hdr b oCtrl) < 4) ∧ (s.en b = true) ∧ (s.drainBit b = false)) ∧
    (∃ (m : Master), ∃ (b : Blk), ∃ (s : State), (PageOpen s b m) ∧ (s.hostDenied b m oCtrl = false) ∧ (blkDrain b = true) ∧ (s.keptOff b = false) ∧ (s.host.bar0Held = []) ∧ (s.rn (hdr b oCtrl) < 4) ∧ (s.en b = true) ∧ (s.drainBit b = true)) ∧
    (∃ (m : Master), ∃ (b : Blk), ∃ (s : State), (PageOpen s b m) ∧ (s.hostDenied b m oCtrl = false) ∧ (blkDrain b = true) ∧ (s.keptOff b = false) ∧ (s.host.bar0Held = []) ∧ (s.rn (hdr b oCtrl) < 4) ∧ (blkKill b = true) ∧ (s.draining b = true)) ∧
    (∃ (b : Blk), ∃ (v : Word), ∃ (s : State), (blkDrain b = true) ∧ (tst v 3 = false) ∧ (tst v 2 = false) ∧ (s.en b = true) ∧ (tst v 0 = false) ∧ (s.drained b = false)) ∧
    (∃ (b : Blk), ∃ (v : Word), ∃ (s : State), (blkDrain b = true) ∧ (tst v 3 = false) ∧ (tst v 2 = false) ∧ (s.en b = true) ∧ (tst v 0 = false) ∧ (s.drained b = true)) ∧
    (∃ (b : Blk), ∃ (v : Word), ∃ (s : State), (blkDrain b = true) ∧ (tst v 3 = false) ∧ (tst v 2 = false) ∧ (s.en b = true) ∧ (tst v 0 = true) ∧ (s.keptOff b = false) ∧ (tst v 1 = true) ∧ (s.drainBit b = false)) ∧
    (∃ (b : Blk), ∃ (v : Word), ∃ (s : State), (blkDrain b = true) ∧ (tst v 3 = false) ∧ (tst v 2 = false) ∧ (s.en b = true) ∧ (tst v 0 = true) ∧ (s.keptOff b = false) ∧ (tst v 1 = false) ∧ (s.drainBit b = true)) ∧
    (∃ (b : Blk), ∃ (v : Word), ∃ (s : State), (blkDrain b = true) ∧ (tst v 3 = false) ∧ (tst v 2 = false) ∧ (s.en b = false) ∧ (tst v 0 = true) ∧ (s.keptOff b = false) ∧ (s.drained b = false)) ∧
    (∃ (b : Blk), ∃ (v : Word), ∃ (s : State), (blkDrain b = true) ∧ (tst v 3 = false) ∧ (tst v 2 = false) ∧ (s.en b = false) ∧ (tst v 0 = true) ∧ (s.keptOff b = false) ∧ (tst v 1 = false) ∧ (s.drained b = true)) ∧
    (∃ (b : Blk), ∃ (s : State), (blkKill b = false ∨ s.draining b = false)) ∧
    (∃ (b : Blk), ∃ (s : State), (blkKill b = true) ∧ (s.draining b = true)) ∧
    (∃ (b : Blk), ∃ (s : State), ((∀ n, b ≠ .drv n)) ∧ (s.draining b = true) ∧ (s.unitBusy b = false)) ∧
    (∃ (n : Fin 4), ∃ (s : State), (s.port.length = 4) ∧ ((s.port' n.val).st = .disabling)) :=
  ⟨⟨.host, .cor, (w 1 []), by unfold PageOpen; decide +kernel⟩,
   ⟨.host, .cor, (w 1 [(hdr .cor oCtrl, 0), (hdr .cor oStat, 2)]), by unfold PageOpen; decide +kernel⟩,
   ⟨.host, .cor, (w 1 []), by unfold PageOpen; decide +kernel⟩,
   ⟨.host, .cor, (w 1 []), by unfold PageOpen; decide +kernel⟩,
   ⟨.host, .cor, (w 1 [(hdr .cor oCtrl, 3)]), by unfold PageOpen; decide +kernel⟩,
   ⟨.host, .lnk, (w 1 [(hdr .lnk oCtrl, 0), (hdr .lnk oStat, 0)]), by unfold PageOpen; decide +kernel⟩,
   ⟨.cor, 0, (w 1 [(hdr .cor oStat, 0)]), by decide +kernel⟩,
   ⟨.cor, 0, (w 1 [(hdr .cor oStat, 2)]), by decide +kernel⟩,
   ⟨.cor, 3, (w 1 []), by decide +kernel⟩,
   ⟨.cor, 1, (w 1 [(hdr .cor oCtrl, 3)]), by decide +kernel⟩,
   ⟨.cor, 1, (w 1 [(hdr .cor oCtrl, 0), (hdr .cor oStat, 0)]), by decide +kernel⟩,
   ⟨.cor, 1, (w 1 [(hdr .cor oCtrl, 0), (hdr .cor oStat, 2)]), by decide +kernel⟩,
   ⟨.cor, (w 1 []), by decide +kernel⟩,
   ⟨.lnk, (w 1 [(hdr .lnk oCtrl, 0), (hdr .lnk oStat, 0)]), by decide +kernel⟩,
   ⟨.cor, (w 1 [(hdr .cor oCtrl, 0), (hdr .cor oStat, 0)]), by decide +kernel⟩,
   ⟨1, { (w 1 []) with port := State.reset.port.map fun p => { p with st := .disabling } }, by decide +kernel⟩⟩

/-- States and operands that meet the hypotheses of MailboxCommandsWaitForTheirTurn, clause by clause. -/
theorem test_hyps_MailboxCommandsWaitForTheirTurn :
    (∃ (i : Instr), ∃ (opc : Nat), ∃ (tag : Word), ∃ (s : State), (mbxOf i = some (opc, tag)) ∧ ((i = .graphLoad tag → s.cor.check = 0)) ∧ (s.startable opc tag = none)) ∧
    (∃ (i : Instr), ∃ (opc : Nat), ∃ (tag : Word), ∃ (s : State), ∃ c, (mbxOf i = some (opc, tag)) ∧ ((i = .graphLoad tag → s.cor.check = 0)) ∧ (s.startable opc tag = some c) ∧ (c.data = none)) ∧
    (∃ (i : Instr), ∃ (opc : Nat), ∃ (tag : Word), ∃ (s : State), ∃ c, (mbxOf i = some (opc, tag)) ∧ ((i = .graphLoad tag → s.cor.check = 0)) ∧ (s.startable opc tag = some c) ∧ (c.data ≠ none) ∧ (c.e.apply ≠ 0) ∧ (s.timeFor c.e.apply = false)) ∧
    (∃ (i : Instr), ∃ (opc : Nat), ∃ (tag : Word), ∃ (s : State), ∃ c, (mbxOf i = some (opc, tag)) ∧ ((i = .graphLoad tag → s.cor.check = 0)) ∧ (s.startable opc tag = some c) ∧ (c.data ≠ none) ∧ (c.e.apply ≠ 0) ∧ (s.timeFor c.e.apply = true) ∧ (notEarlier c.e.apply (c.takenAt + 2) = false)) :=
  ⟨⟨(.nop 7), 0, 7, (w 1 []), by decide +kernel⟩,
   ⟨(.nop 7), 0, 7, (onK { kc 0 [] [] 0 with data := none } (w 1 [])), { kc 0 [] [] 0 with data := none }, by decide +kernel⟩,
   ⟨(.nop 7), 0, 7, (onK (kc 0 [] [] 256050) (w 1 [(R.ntm_NTM_STAT, 0)])), (kc 0 [] [] 256050), by decide +kernel⟩,
   ⟨(.nop 7), 0, 7, (onK (kc 0 [] [] 1) (w 1 [])), (kc 0 [] [] 1), by decide +kernel⟩⟩

/-- States and operands that meet the hypotheses of RepliesAreWrittenOnceAndCounted, clause by clause. -/
theorem test_hyps_RepliesAreWrittenOnceAndCounted :
    (∃ (s : State), (s.m2hRoom = true) ∧ (s.mbx.held = [])) ∧
    (∃ (s : State), (s.m2hRoom = false)) :=
  ⟨⟨hm, by decide +kernel⟩,
   ⟨(w 1 []), by decide +kernel⟩⟩

/-- States and operands that meet the hypotheses of MailboxTakesCommands, clause by clause. -/
theorem test_hyps_MailboxTakesCommands :
    (∃ (m : Master), ∃ (v : Word), ∃ (s : State), (PageOpen s .mbx m) ∧ (let n := s.rf R.mbx_H2M_CFG 0 4; (let d := (fld v 0 16 + 65536 - s.rf R.mbx_H2M_HEAD 0 16) % 65536; (4 ≤ n) ∧ (n ≤ 10) ∧ (d ≤ 2 ^ n)))) ∧
    (∃ (m : Master), ∃ (v : Word), ∃ (s : State), (PageOpen s .mbx m) ∧ (let n := s.rf R.mbx_H2M_CFG 0 4; (let d := (fld v 0 16 + 65536 - s.rf R.mbx_H2M_HEAD 0 16) % 65536; (4 ≤ n) ∧ (n ≤ 10) ∧ (2 ^ n < d)))) ∧
    (∃ (raw : Bytes), ∃ (s : State), (s.takes .mbx = true) ∧ (s.host.present = true) ∧ (s.rf R.mbx_H2M_HEAD 0 16 ≠ s.rf R.mbx_H2M_TAIL 0 16) ∧ (s.mbx.taken.length + s.mbx.held.length < 64) ∧ (s.m2hRoom = true) ∧ (let e := entryOf raw; (e.opcode ∈ mbxOpcodes) ∧ (e.length ≤ 1048576))) ∧
    (∃ (raw : Bytes), ∃ (s : State), (s.takes .mbx = true) ∧ (s.host.present = true) ∧ (s.rf R.mbx_H2M_HEAD 0 16 ≠ s.rf R.mbx_H2M_TAIL 0 16) ∧ (s.mbx.taken.length + s.mbx.held.length < 64) ∧ (s.m2hRoom = true) ∧ (let e := entryOf raw; (e.opcode ∉ mbxOpcodes))) ∧
    (∃ (raw : Bytes), ∃ (s : State), (s.takes .mbx = true) ∧ (s.host.present = true) ∧ (s.rf R.mbx_H2M_HEAD 0 16 ≠ s.rf R.mbx_H2M_TAIL 0 16) ∧ (s.mbx.taken.length + s.mbx.held.length < 64) ∧ (s.m2hRoom = true) ∧ (let e := entryOf raw; (e.opcode ∈ mbxOpcodes) ∧ (1048576 < e.length))) ∧
    (∃ (s : State), (s.mayTake = false)) ∧
    (∃ (tag : Word), ∃ (k : Cmd), ∃ (s : State), (Ready s 0x0000 tag k)) ∧
    (∃ (tag : Word), ∃ (k : Cmd), ∃ (s : State), (Ready s 0x0001 tag k)) ∧
    (∃ (s : State), (s.mbx.resetDue = true) ∧ (s.host.present = true) ∧ (s.m2hRoom = true) ∧ (s.mbx.seenDue = false)) ∧
    (∃ (s : State), (s.mbx.evtLost ≠ 0) ∧ (s.host.present = true) ∧ (s.m2hRoom = true) ∧ (s.mbx.held = [])) :=
  ⟨⟨.host, 16, hm, by dsimp only; unfold PageOpen; decide +kernel⟩,
   ⟨.host, 17, hm, by dsimp only; unfold PageOpen; decide +kernel⟩,
   ⟨(entryBytes ⟨0, 0, 7, 1048576, 0, 0, 0, []⟩), hm, by dsimp only; decide +kernel⟩,
   ⟨(entryBytes ⟨0xFFFF, 0, 7, 0, 0, 0, 0, []⟩), hm, by dsimp only; decide +kernel⟩,
   ⟨(entryBytes ⟨0, 0, 7, 1048577, 0, 0, 0, []⟩), hm, by dsimp only; decide +kernel⟩,
   ⟨(w 1 []), by decide +kernel⟩,
   ⟨7, (kc 0 [] [] 0), (onK (kc 0 [] [] 0) (w 1 [])), by unfold Ready; decide +kernel⟩,
   ⟨7, (kc 1 [] [] 0), (onK (kc 1 [] [] 0) (w 1 [])), by unfold Ready; decide +kernel⟩,
   ⟨{ hm with mbx := { hm.mbx with resetDue := true } }, by decide +kernel⟩,
   ⟨{ hm with mbx := { hm.mbx with evtLost := 1 } }, by decide +kernel⟩⟩

/-- States and operands that meet the hypotheses of HostPresenceFollowsItsConditions, clause by clause. -/
theorem test_hyps_HostPresenceFollowsItsConditions :
    (∃ (l : Bool), ∃ (b : Bool), ∃ (s : State), (let u : State := { s with host := { s.host with linkUp := l, bme := b } }; (s.host.present = true) ∧ (u.hostCond = false))) ∧
    (∃ (l : Bool), ∃ (b : Bool), ∃ (s : State), (let u : State := { s with host := { s.host with linkUp := l, bme := b } }; (s.host.present = u.hostCond))) ∧
    (∃ (l : Bool), ∃ (b : Bool), ∃ (s : State), (let u : State := { s with host := { s.host with linkUp := l, bme := b } }; (s.host.present = false) ∧ (u.hostCond = true) ∧ (s.mbx.resetDue = false))) ∧
    (∃ (l : Bool), ∃ (b : Bool), ∃ (s : State), (let u : State := { s with host := { s.host with linkUp := l, bme := b } }; (s.host.present = false) ∧ (u.hostCond = true) ∧ (s.mbx.resetDue = true))) ∧
    (∃ (m : Master), ∃ (s : State), (PageOpen s .sys m)) :=
  ⟨⟨false, true, hm, by dsimp only; decide +kernel⟩,
   ⟨true, true, hm, by dsimp only; decide +kernel⟩,
   ⟨true, true, { hm with host := { hm.host with present := false } }, by dsimp only; decide +kernel⟩,
   ⟨true, true, { hm with host := { hm.host with present := false }, mbx := { hm.mbx with resetDue := true } }, by dsimp only; decide +kernel⟩,
   ⟨.host, (w 1 []), by unfold PageOpen; decide +kernel⟩⟩

/-- States and operands that meet the hypotheses of ApertureMovesBetweenAccesses, clause by clause. -/
theorem test_hyps_ApertureMovesBetweenAccesses :
    (∃ (m : Master), ∃ (v : Word), ∃ (s : State), (PageOpen s .sys m) ∧ (tst v 0 = true) ∧ (s.host.aptNext = none) ∧ (s.aptStaged + 0x10000000 ≤ 0x1C0000000)) ∧
    (∃ (m : Master), ∃ (v : Word), ∃ (s : State), (PageOpen s .sys m) ∧ (tst v 0 = true) ∧ (s.host.aptNext = none) ∧ (0x1C0000000 < s.aptStaged + 0x10000000)) ∧
    (∃ (m : Master), ∃ (v : Word), ∃ (s : State), ∃ (b : Nat), (PageOpen s .sys m) ∧ (tst v 0 = true) ∧ (s.host.aptNext = some b)) ∧
    (∃ (s : State), (s.host.aptNext.isSome = true)) ∧
    (∃ (s : State), (s.host.aptNext = none)) ∧
    (∃ (off : Nat), ∃ (n : Nat), ∃ (s : State), (s.host.aptNext = none) ∧ (s.inReset .mem = false) ∧ (s.mem.crit = none) ∧ (s.mem.flips = []) ∧ (s.mem.poison = []) ∧ (s.bar2Closed 1 s.keyClosed (s.host.aptBase + off) n = false)) ∧
    (∃ (off : Nat), ∃ (n : Nat), ∃ (s : State), (s.host.aptNext = none) ∧ (s.inReset .mem = false) ∧ (s.mem.crit = none) ∧ (s.bar2Closed 1 s.keyClosed (s.host.aptBase + off) n = true)) ∧
    (∃ (b : Nat), ∃ (s : State), (s.host.aptNext = some b)) ∧
    (∃ (s : State), (s.host.aptNext = none)) :=
  ⟨⟨.host, 1, (w 1 [(R.sys_APT_BASE_LO, 0xB0000000), (R.sys_APT_BASE_HI, 1)]), by unfold PageOpen; decide +kernel⟩,
   ⟨.host, 1, (w 1 [(R.sys_APT_BASE_LO, 0xB0100000), (R.sys_APT_BASE_HI, 1)]), by unfold PageOpen; decide +kernel⟩,
   ⟨.host, 1, { (w 1 []) with host := { (w 0 []).host with aptNext := some 5 } }, 5, by unfold PageOpen; decide +kernel⟩,
   ⟨{ (w 1 []) with host := { (w 0 []).host with aptNext := some 5 } }, by decide +kernel⟩,
   ⟨(w 1 []), by decide +kernel⟩,
   ⟨0, 4, (w 1 [(R.mem_REGr_ATTR 0, 7), (R.mem_REGr_LIMIT 0, 100)]), by decide +kernel⟩,
   ⟨0, 4, (w 1 [(R.mem_REGr_ATTR 0, 5), (R.mem_REGr_LIMIT 0, 100)]), by decide +kernel⟩,
   ⟨5, { (w 1 []) with host := { (w 0 []).host with aptNext := some 5 } }, by decide +kernel⟩,
   ⟨(w 1 []), by decide +kernel⟩⟩

/-- States and operands that meet the hypotheses of WaresAreSubmittedAndMatched, clause by clause. -/
theorem test_hyps_WaresAreSubmittedAndMatched :
    (∃ (m : Master), ∃ (win : Nat), ∃ (s : State), (PageOpen s .mkt m) ∧ (submitWin m = some win) ∧ (s.en .mkt = false)) ∧
    (∃ (m : Master), ∃ (v : Word), ∃ (win : Nat), ∃ (s : State), (PageOpen s .mkt m) ∧ (submitWin m = some win) ∧ (let u : State := { s with mkt := { s.mkt with stage := Sparse.put s.mkt.stage (8 * win + 7) v } }; (let w := u.staged win; (s.en .mkt = true) ∧ (u.badWare w = true)))) ∧
    (∃ (m : Master), ∃ (v : Word), ∃ (win : Nat), ∃ (s : State), (PageOpen s .mkt m) ∧ (submitWin m = some win) ∧ (let u : State := { s with mkt := { s.mkt with stage := Sparse.put s.mkt.stage (8 * win + 7) v } }; (let w := u.staged win; (s.en .mkt = true) ∧ (u.badWare w = false) ∧ (8192 ≤ heldCount u.mkt)))) ∧
    (∃ (m : Master), ∃ (v : Word), ∃ (win : Nat), ∃ (s : State), (PageOpen s .mkt m) ∧ (submitWin m = some win) ∧ (let u : State := { s with mkt := { s.mkt with stage := Sparse.put s.mkt.stage (8 * win + 7) v } }; (let w := u.staged win; (s.en .mkt = true) ∧ (u.badWare w = false) ∧ (heldCount u.mkt < 8192)))) ∧
    (∃ (a : Ware), ∃ (s : State), (s.clsMatch a.clsN = false) ∧ (a.b12 % 1024 = 0 ∨ s.ctr (a.b12 % 1024) = 0)) ∧
    (∃ (a : Ware), ∃ (s : State), (s.clsMatch a.clsN = false) ∧ (a.b12 % 1024 ≠ 0) ∧ (s.ctr (a.b12 % 1024) ≠ 0)) ∧
    (∃ (a : Ware), ∃ (s : State), ∃ p, (s.clsMatch a.clsN = true) ∧ (s.mkt.parked.find? (fun p => p.1.key = a.key) = some p) ∧ (p.1.side ≠ a.side)) ∧
    (∃ (a : Ware), ∃ (s : State), (s.clsMatch a.clsN = true) ∧ (s.mkt.parked.find? (fun p => p.1.key = a.key) = none) ∧ (s.mkt.parked.length < 2048)) ∧
    (∃ (m : Master), ∃ (s : State), (PageOpen s .mkt m)) ∧
    (∃ (s : State), (s.inReset .mkt = false)) ∧
    (∃ (m : Master), ∃ (n : Fin 8), ∃ (v : Word), ∃ (s : State), (PageOpen s .mkt m) ∧ (s.locked .mkt = false) ∧ (fld v 3 2 ≠ 3) ∧ ((∀ w ∈ allWares s.mkt, w.clsN ≠ n.val))) ∧
    (∃ (m : Master), ∃ (n : Fin 8), ∃ (v : Word), ∃ (s : State), (PageOpen s .mkt m) ∧ (s.locked .mkt = false) ∧ (fld v 3 2 ≠ 3) ∧ ((∃ w ∈ allWares s.mkt, w.clsN = n.val))) ∧
    (∃ (m : Master), ∃ (s : State), (PageOpen s .mkt m) ∧ (s.locked .mkt = false) ∧ (let d := s.rf R.mkt_DOM_SEL 0 12; (domHeld s.mkt d = 0))) ∧
    (∃ (m : Master), ∃ (s : State), (PageOpen s .mkt m) ∧ (s.locked .mkt = false) ∧ (let d := s.rf R.mkt_DOM_SEL 0 12; (domHeld s.mkt d ≠ 0))) :=
  ⟨⟨.host, 0, (w 1 [(hdr .mkt oCtrl, 0)]), by unfold PageOpen; decide +kernel⟩,
   ⟨.host, 0, 0, { (w 1 []) with mkt := { (w 0 []).mkt with stage := [(0, 0xFFFF)] } }, by dsimp only; unfold PageOpen; decide +kernel⟩,
   ⟨.host, 0, 0, { (w 1 []) with mkt := { (w 0 []).mkt with waiting := List.replicate 8192 (w0 0 0) } }, by dsimp only; unfold PageOpen; decide +kernel⟩,
   ⟨.host, 0, 0, (w 1 []), by dsimp only; unfold PageOpen; decide +kernel⟩,
   ⟨(w0 0 0), (w 1 []), by decide +kernel⟩,
   ⟨{ w0 0 0 with b12 := 5 }, { (w 1 []) with mkt := { (w 0 []).mkt with ctrs := [(5, 1)] } }, by decide +kernel⟩,
   ⟨(w0 0 9), { (w 1 [(R.mkt_CLASS_CFG0 0, 1)]) with mkt := { (w 0 []).mkt with parked := [({ w0 0 9 with flags := 4 }, 0)] } }, ({ w0 0 9 with flags := 4 }, 0), by decide +kernel⟩,
   ⟨(w0 0 9), (w 1 [(R.mkt_CLASS_CFG0 0, 1)]), by decide +kernel⟩,
   ⟨.host, (w 1 []), by unfold PageOpen; decide +kernel⟩,
   ⟨(w 1 []), by decide +kernel⟩,
   ⟨.host, 3, 1, (w 1 []), by unfold PageOpen; decide +kernel⟩,
   ⟨.host, 0, 1, { (w 1 []) with mkt := { (w 0 []).mkt with ready := [rw0 0] } }, by unfold PageOpen; decide +kernel⟩,
   ⟨.host, (w 1 []), by dsimp only; unfold PageOpen; decide +kernel⟩,
   ⟨.host, { (w 1 []) with mkt := { (w 0 []).mkt with ready := [rw0 0] } }, by dsimp only; unfold PageOpen; decide +kernel⟩⟩

/-- States and operands that meet the hypotheses of TheEarliestOfTheHighestIsChosen, clause by clause. -/
theorem test_hyps_TheEarliestOfTheHighestIsChosen : (∃ (prio : Ware → Nat), ∃ (l : List RWare), ∃ (r : RWare), (bestWare prio l = some r)) :=
  ⟨(fun w => w.cls), [rw0 0], (rw0 0), by decide +kernel⟩

/-- States and operands that meet the hypotheses of WaresAreDispatchedTakenAndRetired, clause by clause. -/
theorem test_hyps_WaresAreDispatchedTakenAndRetired :
    (∃ (n : Fin 4), ∃ (us : Nat), ∃ (cy : Nat), ∃ (r : RWare), ∃ (s : State), (s.inReset .mkt = false) ∧ (s.takes .mkt = true) ∧ (s.takes (.lane n) = true) ∧ (s.host.bar0Held = []) ∧ (let u : State := { s with mkt := { s.mkt with cycle := s.mkt.cycle + cy } }; ((u.laneSt n.val).slots.length < 2) ∧ ((u.laneSt n.val).stalled = false) ∧ (bestWare u.prio (u.mkt.ready.filter fun x => u.candidate us x && u.laneServes n.val x.w && u.laneMay n.val x) = some r))) ∧
    (∃ (n : Fin 4), ∃ (s : State), (s.inReset .mkt = false) ∧ (s.host.bar0Held = []) ∧ ((∀ r ∈ s.mkt.ready, s.laneServes n.val r.w = false))) ∧
    (∃ (n : Fin 4), ∃ (s : State), ∃ r, (PageOpen s .mkt (.lane n)) ∧ (s.inReset (.lane n) = false) ∧ ((s.laneSt n.val).running = some r)) ∧
    (∃ (n : Fin 4), ∃ (s : State), ∃ r, ∃ l, (PageOpen s .mkt (.lane n)) ∧ (s.inReset (.lane n) = false) ∧ ((s.laneSt n.val).running = none) ∧ ((s.laneSt n.val).slots = r :: l) ∧ (s.takes .mkt = true) ∧ (s.takes (.lane n) = true)) ∧
    (∃ (n : Fin 4), ∃ (s : State), (PageOpen s .mkt (.lane n)) ∧ (s.inReset (.lane n) = false) ∧ ((s.laneSt n.val).running = none) ∧ ((s.laneSt n.val).slots = [])) ∧
    (∃ (n : Fin 4), ∃ (s : State), ∃ r, (PageOpen s .mkt (.lane n)) ∧ (s.inReset (.lane n) = false) ∧ ((s.laneSt n.val).running = some r)) ∧
    (∃ (n : Fin 4), ∃ (s : State), (PageOpen s .mkt (.lane n)) ∧ (s.inReset (.lane n) = false) ∧ ((s.laneSt n.val).running = none)) ∧
    (∃ (p : Fin 2), ∃ (m : Master), ∃ (v : Word), ∃ (s : State), (PageOpen s .mkt m) ∧ ((s.portBufs p.val).getD (fld v 0 3) none = none)) ∧
    (∃ (p : Fin 2), ∃ (m : Master), ∃ (v : Word), ∃ (r : RWare), ∃ (s : State), (PageOpen s .mkt m) ∧ ((s.portBufs p.val).getD (fld v 0 3) none = some r)) ∧
    (∃ (q : Nat), ∃ (d : DWord), ∃ (s : State), (s.mkt.comps = [(q, d)]) ∧ (s.qroom q = true) ∧ (s.rb (R.que_QCFGq q) 1 = false) ∧ (q < s.que.q.length)) ∧
    (∃ (p : Fin 2), ∃ (m : Master), ∃ (us : Nat), ∃ (s : State), ∃ w, (PageOpen s .mkt m) ∧ (let r := s.takeTry p.val us; (r.2 = some w))) ∧
    (∃ (p : Fin 2), ∃ (m : Master), ∃ (us : Nat), ∃ (s : State), (PageOpen s .mkt m) ∧ (let r := s.takeTry p.val us; (r.2 = none))) ∧
    (∃ (m : Master), ∃ (s : State), (PageOpen s .mkt m) ∧ (s.takes .mkt = false)) ∧
    (∃ (p : Fin 2), ∃ (m : Master), ∃ (s : State), (PageOpen s .mkt m) ∧ (s.takes .mkt = true) ∧ (s.portHasClass p.val = false)) ∧
    (∃ (p : Fin 2), ∃ (x : Nat × Master), ∃ (s : State), (s.mkt.takers.find? (fun t => t.1 = p.val) = some x)) ∧
    (∃ (p : Fin 2), ∃ (s : State), (s.mkt.takers.find? (fun t => t.1 = p.val) = none) ∧ (s.host.bar0Held = [])) ∧
    (∃ (i : Instr), ∃ (b : Blk), ∃ (off : Nat), ∃ (s : State), (pageOf i = some (b, off, .host)) ∧ (s.hostBlocked = true)) :=
  ⟨⟨0, 0, 1, (rw0 0), { (w 1 [(R.lane_LANE_CFG 0, 1)]) with mkt := { (w 0 []).mkt with ready := [rw0 0] } }, by dsimp only; decide +kernel⟩,
   ⟨0, (w 1 []), by decide +kernel⟩,
   ⟨0, { (w 1 []) with mkt := { (w 0 []).mkt with lanes := ⟨[], some (rw0 0), false⟩ :: List.replicate 3 ⟨[], none, false⟩ } }, (rw0 0), by unfold PageOpen; decide +kernel⟩,
   ⟨0, { (w 1 []) with mkt := { (w 0 []).mkt with lanes := ⟨[rw0 0], none, false⟩ :: List.replicate 3 ⟨[], none, false⟩ } }, (rw0 0), ([] : List RWare), by unfold PageOpen; decide +kernel⟩,
   ⟨0, (w 1 []), by unfold PageOpen; decide +kernel⟩,
   ⟨0, { (w 1 []) with mkt := { (w 0 []).mkt with lanes := ⟨[], some (rw0 0), false⟩ :: List.replicate 3 ⟨[], none, false⟩ } }, (rw0 0), by unfold PageOpen; decide +kernel⟩,
   ⟨0, (w 1 []), by unfold PageOpen; decide +kernel⟩,
   ⟨0, .host, 7, (w 1 []), by unfold PageOpen; decide +kernel⟩,
   ⟨0, .host, 0, (rw0 0), { (w 1 []) with mkt := { (w 0 []).mkt with bufs := (some (rw0 0) :: List.replicate 7 none) :: [List.replicate 8 none] } }, by unfold PageOpen; decide +kernel⟩,
   ⟨0, 5, { (w 1 [(R.que_QCFGq 0, 1)]) with mkt := { (w 0 []).mkt with comps := [(0, 5)] } }, by decide +kernel⟩,
   ⟨0, .host, 0, { (w 1 [(R.mkt_CLASS_CFG0 0, 8)]) with mkt := { (w 0 []).mkt with ready := [rw0 0] } }, (takeValid 0), by dsimp only; unfold PageOpen; decide +kernel⟩,
   ⟨0, .host, 0, (w 1 [(R.mkt_CLASS_CFG0 0, 8)]), by dsimp only; unfold PageOpen; decide +kernel⟩,
   ⟨.host, (w 1 [(hdr .mkt oCtrl, 0)]), by unfold PageOpen; decide +kernel⟩,
   ⟨0, .host, (w 1 []), by unfold PageOpen; decide +kernel⟩,
   ⟨1, (1, .host), { (w 1 []) with mkt := { (w 0 []).mkt with takers := [(1, .host)] } }, by decide +kernel⟩,
   ⟨1, (w 1 []), by decide +kernel⟩,
   ⟨(.graphCheck .host), .cor, 0x54, { (w 1 []) with mkt := { (w 0 []).mkt with takers := [(1, .host)] } }, by decide +kernel⟩⟩

/-- States and operands that meet the hypotheses of QueuesPushPopAndFlush, clause by clause. -/
theorem test_hyps_QueuesPushPopAndFlush :
    (∃ (m : Master), ∃ (v : Word), ∃ (s : State), (PageOpen s .que m) ∧ (tst v 31 = false)) ∧
    (∃ (m : Master), ∃ (q : Fin 16), ∃ (v : Word), ∃ (s : State), (PageOpen s .que m) ∧ (tst v 31 = true) ∧ (s.qen q.val = false ∨ s.queTakes = false)) ∧
    (∃ (m : Master), ∃ (q : Fin 16), ∃ (v : Word), ∃ (s : State), (PageOpen s .que m) ∧ (tst v 31 = true) ∧ (s.qen q.val = true) ∧ (s.queTakes = true) ∧ (s.rb (R.que_QCFGq q.val) 1 = false) ∧ (s.qsize q.val ≤ (s.queue q.val).ents.length)) ∧
    (∃ (m : Master), ∃ (q : Fin 16), ∃ (v : Word), ∃ (s : State), (PageOpen s .que m) ∧ (tst v 31 = true) ∧ (s.qen q.val = true) ∧ (s.queTakes = true) ∧ (s.rb (R.que_QCFGq q.val) 1 = false) ∧ ((s.queue q.val).ents.length < s.qsize q.val) ∧ (q.val < s.que.q.length)) ∧
    (∃ (q : Fin 16), ∃ (s : State), ∃ e, ∃ l, ((s.queue q.val).ents = e :: l) ∧ (q.val < s.que.q.length)) ∧
    (∃ (m : Master), ∃ (q : Fin 16), ∃ (err : Option CwErr), ∃ (s : State), ∃ (e : QEnt), ∃ (r : List QEnt), (PageOpen s .que m) ∧ (s.qen q.val = true) ∧ (s.rb (R.que_QCFGq q.val) 1 = false) ∧ (q.val < s.que.q.length) ∧ (let u := s.qmeet q.val err; ((u.queue q.val).ents = e :: r))) ∧
    (∃ (m : Master), ∃ (q : Fin 16), ∃ (err : Option CwErr), ∃ (s : State), (PageOpen s .que m) ∧ (s.qen q.val = true) ∧ (s.rb (R.que_QCFGq q.val) 1 = false) ∧ (q.val < s.que.q.length) ∧ (let u := s.qmeet q.val err; ((u.queue q.val).ents = []) ∧ (s.queTakes = true))) ∧
    (∃ (m : Master), ∃ (s : State), (PageOpen s .que m)) ∧
    (∃ (m : Master), ∃ (q : Fin 16), ∃ (err : Option CwErr), ∃ (s : State), ∃ (e : QEnt), ∃ (l : List QEnt), (PageOpen s .que m) ∧ (let u := s.qmeet q.val err; ((u.queue q.val).ents = e :: l) ∧ (e.poison = false) ∧ (s.qen q.val = true) ∧ (s.rb (R.que_QCFGq q.val) 1 = false))) ∧
    (∃ (m : Master), ∃ (s : State), (PageOpen s .que m)) ∧
    (∃ (m : Master), ∃ (q : Fin 16), ∃ (v : Word), ∃ (s : State), (PageOpen s .que m) ∧ (s.qcfgBad q.val v = true)) ∧
    (∃ (m : Master), ∃ (q : Fin 16), ∃ (v : Word), ∃ (s : State), (PageOpen s .que m) ∧ (s.qcfgBad q.val v = false) ∧ (s.qen q.val = false) ∧ (tst v 0 = true)) ∧
    (∃ (q : Fin 16), ∃ (s : State), (s.inReset .que = false) ∧ ((s.queue q.val).hw = [])) ∧
    (∃ (q : Fin 16), ∃ (v : DWord), ∃ (s : State), (s.inReset .que = false) ∧ ((s.queue q.val).hw = [v]) ∧ (s.qen q.val = true) ∧ (s.queTakes = true) ∧ (s.rb (R.que_QCFGq q.val) 1 = false) ∧ (q.val < s.que.q.length) ∧ ((s.queue q.val).ents.length < s.qsize q.val)) :=
  ⟨⟨.host, 0, (w 1 []), by unfold PageOpen; decide +kernel⟩,
   ⟨.host, 15, 0x80000000, (w 1 []), by unfold PageOpen; decide +kernel⟩,
   ⟨.host, 0, 0x80000000, (qd 1), by unfold PageOpen; decide +kernel⟩,
   ⟨.host, 15, 0x80000000, (w 1 [(R.que_QCFGq 15, 1)]), by unfold PageOpen; decide +kernel⟩,
   ⟨0, (qd 1), (⟨1, false⟩ : QEnt), ([] : List QEnt), by decide +kernel⟩,
   ⟨.host, 0, none, (qd 1), (⟨1, false⟩ : QEnt), ([] : List QEnt), by dsimp only; unfold PageOpen; decide +kernel⟩,
   ⟨.host, 15, none, (w 1 [(R.que_QCFGq 15, 1)]), by dsimp only; unfold PageOpen; decide +kernel⟩,
   ⟨.host, (w 1 []), by unfold PageOpen; decide +kernel⟩,
   ⟨.host, 0, none, (qd 1), (⟨1, false⟩ : QEnt), ([] : List QEnt), by dsimp only; unfold PageOpen; decide +kernel⟩,
   ⟨.host, (w 1 []), by unfold PageOpen; decide +kernel⟩,
   ⟨.host, 15, 0x70, (w 1 []), by unfold PageOpen; decide +kernel⟩,
   ⟨.host, 15, 0x81, (w 1 []), by unfold PageOpen; decide +kernel⟩,
   ⟨15, (w 1 []), by decide +kernel⟩,
   ⟨0, 5, { qd 1 with que := { (qd 1).que with q := ⟨[], 0, false, false, [5]⟩ :: List.replicate 15 ⟨[], 0, false, false, []⟩ } }, by decide +kernel⟩⟩

/-- States and operands that meet the hypotheses of CheckUnitsFollowTheFramesOfTheirSource, clause by clause. -/
theorem test_hyps_CheckUnitsFollowTheFramesOfTheirSource :
    (∃ (s : State), (s.takes .chk = true)) ∧
    (∃ (s : State), (s.takes .chk = false)) ∧
    (∃ (src : Nat), ∃ (chan : Nat), ∃ (u : Nat), ∃ (s : State), (u < s.chk.length) ∧ (u < 8) ∧ (s.rb (R.chk_CCFGu u) 0 = true) ∧ (s.snoops u src chan = true) ∧ ((s.unit u).inFrame = false)) ∧
    (∃ (src : Nat), ∃ (chan : Nat), ∃ (u : Nat), ∃ (s : State), (u < s.chk.length) ∧ (u < 8) ∧ (s.rb (R.chk_CCFGu u) 0 = true) ∧ (s.snoops u src chan = true) ∧ ((s.unit u).inFrame = false) ∧ (s.rb (R.chk_CCFGu u) 1 = true)) ∧
    (∃ (src : Nat), ∃ (chan : Nat), ∃ (u : Nat), ∃ (s : State), ∃ w, (u < s.chk.length) ∧ (u < 8) ∧ (s.rb (R.chk_CCFGu u) 0 = true) ∧ (s.snoops u src chan = true) ∧ ((s.unit u).inFrame = false) ∧ (w ≠ u)) ∧
    (∃ (s : State), (s.inReset .chk = false) ∧ (s.en .chk = true) ∧ (s.drainBit .chk = false)) ∧
    (∃ (s : State), (s.inReset .chk = true)) ∧
    (∃ (src : Nat), ∃ (chan : Nat), ∃ (u : Nat), ∃ (s : State), (u < s.chk.length) ∧ (u < 8) ∧ ((s.unit u).inFrame = true) ∧ (s.snoops u src chan = true)) ∧
    (∃ (src : Nat), ∃ (chan : Nat), ∃ (u : Nat), ∃ (s : State), (u < s.chk.length) ∧ (u < 8) ∧ ((s.unit u).inFrame = true) ∧ (s.snoops u src chan = true) ∧ (s.rb (R.chk_CCFGu u) 1 = true)) ∧
    (∃ (src : Nat), ∃ (chan : Nat), ∃ (u : Nat), ∃ (s : State), (u < s.chk.length) ∧ (u < 8) ∧ ((s.unit u).inFrame = true) ∧ (s.snoops u src chan = true) ∧ (s.rb (R.chk_CCFGu u) 1 = false)) ∧
    (∃ (m : Master), ∃ (u : Fin 8), ∃ (s : State), (PageOpen s .chk m) ∧ ((s.unit u.val).inFrame = false)) ∧
    (∃ (m : Master), ∃ (u : Fin 8), ∃ (s : State), (PageOpen s .chk m) ∧ ((s.unit u.val).inFrame = true)) :=
  ⟨⟨(w 1 []), by decide +kernel⟩,
   ⟨(w 1 [(hdr .chk oCtrl, 0)]), by decide +kernel⟩,
   ⟨12, 3, 7, (w 1 [(R.chk_CCFGu 7, 0x030000C1)]), by decide +kernel⟩,
   ⟨12, 3, 7, (w 1 [(R.chk_CCFGu 7, 0x030000C3)]), by decide +kernel⟩,
   ⟨12, 3, 7, (w 1 [(R.chk_CCFGu 7, 0x030000C1)]), 6, by decide +kernel⟩,
   ⟨(w 1 []), by decide +kernel⟩,
   ⟨State.reset, by decide +kernel⟩,
   ⟨12, 3, 7, { (w 1 [(R.chk_CCFGu 7, 0x030000C1)]) with chk := List.replicate 8 ⟨true, false⟩ }, by decide +kernel⟩,
   ⟨12, 3, 7, { (w 1 [(R.chk_CCFGu 7, 0x030000C3)]) with chk := List.replicate 8 ⟨true, false⟩ }, by decide +kernel⟩,
   ⟨12, 3, 7, { (w 1 [(R.chk_CCFGu 7, 0x030000C1)]) with chk := List.replicate 8 ⟨true, false⟩ }, by decide +kernel⟩,
   ⟨.host, 7, (w 1 []), by unfold PageOpen; decide +kernel⟩,
   ⟨.host, 7, { (w 1 []) with chk := List.replicate 8 ⟨true, false⟩ }, by unfold PageOpen; decide +kernel⟩⟩

/-- States and operands that meet the hypotheses of MemoryErrorsAndPorterTransfers, clause by clause. -/
theorem test_hyps_MemoryErrorsAndPorterTransfers :
    (∃ (s : State), (s.takes .mem = true) ∧ (s.inReset .mem = false) ∧ (s.rb R.mem_MEM_CFG 0 = true) ∧ (s.mem.crit = none) ∧ (s.mem.flips = [])) ∧
    (∃ (s : State), (s.inReset .mem = true ∨ s.rb R.mem_MEM_CFG 0 = false)) ∧
    (∃ (s : State), (s.inReset .mem = true)) ∧
    (∃ (a : Nat), ∃ (s : State), (s.inReset .mem = false) ∧ (a < 0x400000) ∧ (s.mem.sramFlips = []) ∧ (a / 16 ∉ s.mem.sramPoison)) ∧
    (∃ (a : Nat), ∃ (s : State), (s.inReset .mem = false) ∧ (a < 0x400000) ∧ (s.mem.sramFlips = []) ∧ (a / 16 ∈ s.mem.sramPoison)) ∧
    (∃ (p : Porter), ∃ (b : Bytes), ∃ (s : State), (p.errs = []) ∧ (s.mem.crit = none) ∧ (s.mem.flips = []) ∧ (s.locShut p.src = none) ∧ (s.locShut p.dst = none) ∧ (locWritable p.dst = true) ∧ (p.len ≤ locRoom p.src) ∧ (p.len ≤ (match p.dst with | .host _ _ => p.len | d => locRoom d)) ∧ (s.porterRead p.src p.len = (s, b, true))) ∧
    (∃ (p : Porter), ∃ (a : Nat), ∃ (s : State), (p.errs = []) ∧ (s.mem.crit = none) ∧ (s.mem.flips = []) ∧ (s.mem.sramFlips = []) ∧ (p.src = .sram a) ∧ (a + p.len ≤ 0x400000) ∧ (p.len ≤ locRoom p.dst) ∧ (s.locShut p.dst = none) ∧ (s.sramRead a p.len = none)) :=
  ⟨⟨(w 1 [(R.mem_MEM_CFG, 1)]), by decide +kernel⟩,
   ⟨(w 1 [(R.mem_MEM_CFG, 0)]), by decide +kernel⟩,
   ⟨State.reset, by decide +kernel⟩,
   ⟨0x3FFFFF, (w 1 []), by decide +kernel⟩,
   ⟨0x3FFFFF, { (w 1 []) with mem := { (w 0 []).mem with sramPoison := [0x3FFFF] } }, by decide +kernel⟩,
   ⟨(⟨0, .sram 0, .sram 16, 4, 0, []⟩ : Porter), [0, 0, 0, 0], (w 1 []), by decide +kernel⟩,
   ⟨(⟨0, .sram 0, .sram 16, 4, 0, []⟩ : Porter), 0, { (w 1 []) with mem := { (w 0 []).mem with sramPoison := [0] } }, by decide +kernel⟩⟩

/-- States and operands that meet the hypotheses of StringFaultsAreLatchedAndEndTheirPort, clause by clause. -/
theorem test_hyps_StringFaultsAreLatchedAndEndTheirPort :
    (∃ (n : Fin 4), ∃ (k : Fin 32), ∃ (s : State), (s.inReset (.drv n) = false) ∧ (s.litPos n.val k.val = true)) ∧
    (∃ (n : Fin 4), ∃ (k : Fin 32), ∃ (s : State), (s.inReset (.drv n) = true ∨ s.litPos n.val k.val = false)) ∧
    (∃ (n : Fin 4), ∃ (s : State), (s.inReset (.drv n) = false) ∧ ((s.port' n.val).st.lit = true)) ∧
    (∃ (n : Fin 4), ∃ (s : State), (s.inReset (.drv n) = true ∨ (s.port' n.val).st.lit = false)) ∧
    (∃ (n : Fin 4), ∃ (s : State), (s.inReset (.drv n) = false) ∧ (n.val < s.port.length) ∧ ((s.port' n.val).st ≠ .fault)) ∧
    (∃ (n : Fin 4), ∃ (s : State), (s.inReset (.drv n) = true ∨ (s.port' n.val).st = .fault)) ∧
    (∃ (n : Fin 4), ∃ (s : State), (s.testSf s.sf = false ∨ s.tick % 256 ≠ s.rf R.drg_TEST_CFG 16 8 ∨ (s.port' n.val).cut = some s.sf)) ∧
    (∃ (n : Fin 4), ∃ (s : State), (s.inReset (.drv n) = false) ∧ (s.inReset .drg = false) ∧ (s.onNet = true) ∧ (s.testSf s.sf = true) ∧ (s.tick % 256 = s.rf R.drg_TEST_CFG 16 8) ∧ ((s.port' n.val).cut ≠ some s.sf) ∧ (s.testable n.val = true)) :=
  ⟨⟨0, 31, { (w 1 [(R.drv_ENMASK 0, 0xFFFFFFFF)]) with port := { portOff with st := .running, mask := 0xFFFFFFFF, w := List.replicate 32 0xFFFF } :: List.replicate 3 portOff }, by decide +kernel⟩,
   ⟨0, 31, (w 1 []), by decide +kernel⟩,
   ⟨0, { (w 1 []) with port := { portOff with st := .running } :: List.replicate 3 portOff }, by decide +kernel⟩,
   ⟨0, (w 1 []), by decide +kernel⟩,
   ⟨3, (w 1 []), by decide +kernel⟩,
   ⟨3, State.reset, by decide +kernel⟩,
   ⟨0, (w 1 [(R.drg_TEST_CFG, 0)]), by decide +kernel⟩,
   ⟨0, { (w 1 [(R.drg_TEST_CFG, 0x280101), (R.drv_ENMASK 0, 0xFFFFFFFF)]) with port := { portOff with st := .running, mask := 0xFFFFFFFF, w := List.replicate 32 0xFFFF } :: List.replicate 3 portOff }, by decide +kernel⟩⟩

/-- States and operands that meet the hypotheses of BanksAreWrittenArmedAndSwapped, clause by clause. -/
theorem test_hyps_BanksAreWrittenArmedAndSwapped :
    (∃ (m : Master), ∃ (s : State), (PageOpen s .drg m) ∧ (s.drg.armed = none) ∧ (s.drg.active < 2)) ∧
    (∃ (m : Master), ∃ (s : State), (PageOpen s .drg m) ∧ (s.drg.armed.isSome = true)) ∧
    (∃ (m : Master), ∃ (s : State), (PageOpen s .drg m) ∧ (s.drg.armed.isSome = true)) ∧
    (∃ (m : Master), ∃ (s : State), (PageOpen s .drg m) ∧ (s.drg.armed = none) ∧ (s.rf R.drg_SWAP_CFG 0 2 = 3)) ∧
    (∃ (m : Master), ∃ (s : State), (PageOpen s .drg m) ∧ (s.drg.armed = none) ∧ (s.rf R.drg_SWAP_CFG 0 2 = 0 ∨ s.rf R.drg_SWAP_CFG 0 2 = 2)) ∧
    (∃ (m : Master), ∃ (s : State), (PageOpen s .drg m)) ∧
    (∃ (b : Bool), ∃ (s : State), (s.inReset .drg = false) ∧ (b = s.rb R.drg_SWAP_CFG 2)) ∧
    (∃ (b : Bool), ∃ (s : State), (s.inReset .drg = false) ∧ (b ≠ s.rb R.drg_SWAP_CFG 2) ∧ (s.drg.armed = none)) ∧
    (∃ (m : Master), ∃ (n : Fin 4), ∃ (s : State), (PageOpen s (.drv n) m)) ∧
    (∃ (m : Master), ∃ (n : Fin 4), ∃ (s : State), (PageOpen s (.drv n) m) ∧ ((s.port' n.val).st ≠ .fault)) ∧
    (∃ (m : Master), ∃ (n : Fin 4), ∃ (s : State), (PageOpen s (.drv n) m) ∧ ((s.port' n.val).st = .fault)) ∧
    (∃ (tag : Word), ∃ (k : Cmd), ∃ (s : State), (Ready s 0x0600 tag k) ∧ (k.e.length ≠ 256)) ∧
    (∃ (tag : Word), ∃ (k : Cmd), ∃ (s : State), (Ready s 0x0600 tag k) ∧ (k.e.length = 256) ∧ (2 < k.par 0 1)) ∧
    (∃ (tag : Word), ∃ (k : Cmd), ∃ (s : State), (Ready s 0x0600 tag k) ∧ (k.e.length = 256) ∧ (k.par 0 1 ≤ 2) ∧ (s.takes .drg = false)) ∧
    (∃ (tag : Word), ∃ (k : Cmd), ∃ (s : State), (Ready s 0x0600 tag k) ∧ (k.e.length = 256) ∧ (k.par 0 1 ≤ 2) ∧ (s.takes .drg = true) ∧ (s.drg.armed.isSome = true)) ∧
    (∃ (tag : Word), ∃ (k : Cmd), ∃ (s : State), (Ready s 0x0600 tag k) ∧ (k.e.length = 256) ∧ (k.par 0 1 = 2) ∧ (s.takes .drg = true) ∧ (s.drg.armed = none)) ∧
    (∃ (tag : Word), ∃ (k : Cmd), ∃ (s : State), (Ready s 0x0601 tag k)) ∧
    (∃ (tag : Word), ∃ (k : Cmd), ∃ (s : State), (Ready s 0x0602 tag k) ∧ (3 < k.par 0 1 ∨ 1023 < k.par 1 2 ∨ 8 < k.par 3 1 ∨ 1023 < k.par 10 2)) ∧
    (∃ (tag : Word), ∃ (k : Cmd), ∃ (s : State), (Ready s 0x0602 tag k) ∧ (k.par 0 1 ≤ 3) ∧ (k.par 1 2 ≤ 1023) ∧ (k.par 3 1 ≤ 8) ∧ (k.par 10 2 ≤ 1023) ∧ (s.inReset .drg = false)) :=
  ⟨⟨.host, (w 1 []), by unfold PageOpen; decide +kernel⟩,
   ⟨.host, { (w 1 []) with drg := { (w 0 []).drg with armed := some ⟨0, 0, 0, 0⟩ } }, by unfold PageOpen; decide +kernel⟩,
   ⟨.host, { (w 1 []) with drg := { (w 0 []).drg with armed := some ⟨0, 0, 0, 0⟩ } }, by unfold PageOpen; decide +kernel⟩,
   ⟨.host, (w 1 [(R.drg_SWAP_CFG, 3)]), by unfold PageOpen; decide +kernel⟩,
   ⟨.host, (w 1 [(R.drg_SWAP_CFG, 2)]), by unfold PageOpen; decide +kernel⟩,
   ⟨.host, (w 1 []), by unfold PageOpen; decide +kernel⟩,
   ⟨false, (w 1 [(R.drg_SWAP_CFG, 0)]), by decide +kernel⟩,
   ⟨true, (w 1 [(R.drg_SWAP_CFG, 0)]), by decide +kernel⟩,
   ⟨.host, 3, (w 1 []), by unfold PageOpen; decide +kernel⟩,
   ⟨.host, 3, (w 1 []), by unfold PageOpen; decide +kernel⟩,
   ⟨.host, 3, { (w 1 []) with port := List.replicate 4 { portOff with st := .fault } }, by unfold PageOpen; decide +kernel⟩,
   ⟨7, (kc 0x0600 [] (zeros 0) 0), (onK (kc 0x0600 [] (zeros 0) 0) (w 1 [])), by unfold Ready; decide +kernel⟩,
   ⟨7, (kc 0x0600 [3] (zeros 256) 0), (onK (kc 0x0600 [3] (zeros 256) 0) (w 1 [])), by unfold Ready; decide +kernel⟩,
   ⟨7, (kc 0x0600 [2] (zeros 256) 0), (onK (kc 0x0600 [2] (zeros 256) 0) (w 1 [(R.rst_BLK_IN_RESET_A, 0xFFFFFFFF), (R.rst_BLK_IN_RESET_B, 0xFFFFFFFF)])), by unfold Ready; decide +kernel⟩,
   ⟨7, (kc 0x0600 [2] (zeros 256) 0), (onK (kc 0x0600 [2] (zeros 256) 0) { (w 1 []) with drg := { (w 0 []).drg with armed := some ⟨0, 0, 0, 0⟩ } }), by unfold Ready; decide +kernel⟩,
   ⟨7, (kc 0x0600 [2] (zeros 256) 0), (onK (kc 0x0600 [2] (zeros 256) 0) (w 1 [])), by unfold Ready; decide +kernel⟩,
   ⟨7, (kc 0x0601 [] [] 0), (onK (kc 0x0601 [] [] 0) (w 1 [])), by unfold Ready; decide +kernel⟩,
   ⟨7, (kc 0x0602 [4] [] 0), (onK (kc 0x0602 [4] [] 0) (w 1 [])), by unfold Ready; decide +kernel⟩,
   ⟨7, (kc 0x0602 [3, 0xFF, 3, 8, 0, 0, 0, 0, 0, 0, 0xFF, 3] [] 0), (onK (kc 0x0602 [3, 0xFF, 3, 8, 0, 0, 0, 0, 0, 0, 0xFF, 3] [] 0) (w 1 [])), by unfold Ready; decide +kernel⟩⟩

/-- States and operands that meet the hypotheses of OnTimesFitTheirFrame, clause by clause. -/
theorem test_hyps_OnTimesFitTheirFrame :
    (∃ (b : Nat), ∃ (w : Nat), (8 ≤ b) ∧ (b ≤ 16) ∧ (w ≤ 0xFFFF)) ∧
    (∃ (b : Nat), (8 ≤ b) ∧ (b ≤ 16)) ∧
    (∃ (b : Nat), ∃ (w : Nat), (8 ≤ b) ∧ (b ≤ 16) ∧ (w < 0xFFFF)) ∧
    (∃ (b : Nat), ∃ (w : Nat), ∃ (x : Nat), (8 ≤ b) ∧ (b ≤ 16) ∧ (w ≤ x) ∧ (x ≤ 0xFFFF)) :=
  ⟨⟨16, 0xFFFF, by decide +kernel⟩,
   ⟨16, by decide +kernel⟩,
   ⟨16, 0xFFFE, by decide +kernel⟩,
   ⟨16, 0xFFFE, 0xFFFF, by decide +kernel⟩⟩

/-- States and operands that meet the hypotheses of MetersRunByTheirCycles, clause by clause. -/
theorem test_hyps_MetersRunByTheirCycles :
    (∃ (s : State), (s.runs .scl = false)) ∧
    (∃ (x : Fin 3), ∃ (s : State), (s.runs .scl = true) ∧ (x.val < s.scl.xing.length)) ∧
    (∃ (c : DWord), ∃ (s : State), ((c - s.scl.lastB).toNat * 4 < 7500000)) ∧
    (∃ (c : DWord), ∃ (s : State), (s.runs .scl = true) ∧ (s.scl.free = false) ∧ ((∀ x, x < 3 → s.alive x c = false)) ∧ (2 * s.nominal ≤ (c - s.scl.lastB).toNat * 4)) ∧
    (∃ (s : State), (s.runs .scl = true) ∧ (s.scl.free = true)) ∧
    (∃ (s : State), (s.runs .scl = false ∨ s.scl.free = false)) ∧
    (∃ (m : Master), ∃ (s : State), (PageOpen s .scl m) ∧ (s.scl.pend = none) ∧ (s.commitBad = true)) ∧
    (∃ (m : Master), ∃ (s : State), (PageOpen s .scl m) ∧ (s.scl.pend = none) ∧ (s.commitBad = false)) ∧
    (∃ (m : Master), ∃ (s : State), (PageOpen s .scl m)) ∧
    (∃ (m : Master), ∃ (s : State), (PageOpen s .scl m) ∧ (s.scl.check ≠ .idle)) ∧
    (∃ (m : Master), ∃ (s : State), (PageOpen s .scl m) ∧ (s.scl.check = .idle)) ∧
    (∃ (s : State), (s.inReset .scl = false) ∧ (s.scl.check = .asked)) ∧
    (∃ (s : State), (s.scl.check ≠ .asked)) ∧
    (∃ (s : State), (s.inReset .scl = false) ∧ (s.scl.check = .running)) ∧
    (∃ (m : Master), ∃ (s : State), (PageOpen s .scl m) ∧ (m ≠ .svc) ∧ (s.rd R.scl_BAL_CLOSE_IDX ≠ s.rd R.scl_BAL_CAP_IDX)) ∧
    (∃ (m : Master), ∃ (s : State), (PageOpen s .scl m) ∧ (m ≠ .svc) ∧ (s.rd R.scl_BAL_CLOSE_IDX = s.rd R.scl_BAL_CAP_IDX)) ∧
    (∃ (s : State), (PageOpen s .scl .svc)) ∧
    (∃ (tag : Word), ∃ (k : Cmd), ∃ (s : State), (Ready s 0x0700 tag k) ∧ (k.e.length ≠ 1536)) ∧
    (∃ (tag : Word), ∃ (k : Cmd), ∃ (s : State), (Ready s 0x0700 tag k) ∧ (k.e.length = 1536) ∧ (s.inReset .scl = true ∨ s.scl.pend.isSome = true)) ∧
    (∃ (tag : Word), ∃ (k : Cmd), ∃ (s : State), (Ready s 0x0700 tag k) ∧ (k.e.length = 1536) ∧ (s.inReset .scl = false) ∧ (s.scl.pend = none) ∧ (1 ≤ k.par 0 2) ∧ (k.par 0 2 ≤ 4096) ∧ (let set := (List.range 12).map fun q => (List.range 32).map fun j => leWord k.bytes (128 * q + 4 * j) &&& coefMask j; (((List.range 12).any fun q => blockBad set q) = false))) ∧
    (∃ (tag : Word), ∃ (k : Cmd), ∃ (s : State), (Ready s 0x0701 tag k) ∧ (11 < k.par 0 1 ∨ k.par 1 1 < 4)) ∧
    (∃ (tag : Word), ∃ (k : Cmd), ∃ (s : State), (Ready s 0x0701 tag k) ∧ (k.par 0 1 ≤ 11) ∧ (4 ≤ k.par 1 1) ∧ (s.inReset .scl = false) ∧ (s.scl.check = .idle)) ∧
    (∃ (tag : Word), ∃ (k : Cmd), ∃ (s : State), (Ready s 0x0701 tag k) ∧ (k.par 0 1 ≤ 11) ∧ (4 ≤ k.par 1 1) ∧ (s.inReset .scl = true ∨ s.scl.check ≠ .idle)) ∧
    (∃ (tag : Word), ∃ (k : Cmd), ∃ (s : State), (Ready s 0x0710 tag k) ∧ (let n := k.par 4 2; (n = 0 ∨ 752 < n))) ∧
    (∃ (tag : Word), ∃ (k : Cmd), ∃ (s : State), ∃ l, (Ready s 0x0710 tag k) ∧ (let f := k.par 0 4; (let n := k.par 4 2; (1 ≤ n) ∧ (n ≤ 752) ∧ (k.e.length = 256 * n) ∧ (f + n ≤ s.scl.jseq) ∧ (s.scl.jseq ≤ f + 752) ∧ ((List.range n).mapM (fun i => s.nvsRead (0x11000 + 256 * ((f + i) % 752)) 256) = some l)))) ∧
    (∃ (tag : Word), ∃ (k : Cmd), ∃ (s : State), (Ready s 0x0710 tag k) ∧ (let n := k.par 4 2; (1 ≤ n) ∧ (n ≤ 752) ∧ (k.e.length ≠ 256 * n))) ∧
    (∃ (tag : Word), ∃ (k : Cmd), ∃ (s : State), (Ready s 0x0710 tag k) ∧ (let f := k.par 0 4; (let n := k.par 4 2; (1 ≤ n) ∧ (n ≤ 752) ∧ (k.e.length = 256 * n) ∧ (s.scl.jseq < f + n ∨ f + 752 < s.scl.jseq)))) ∧
    (∃ (tag : Word), ∃ (k : Cmd), ∃ (s : State), (Ready s 0x0711 tag k) ∧ (s.isHead = false) ∧ (60 ≤ k.par 0 4) ∧ (k.par 0 4 ≤ 86400) ∧ (1 ≤ k.par 6 1) ∧ (k.par 6 1 ≤ 3) ∧ (k.par 7 4 < 2 ^ 20)) ∧
    (∃ (tag : Word), ∃ (k : Cmd), ∃ (s : State), (Ready s 0x0711 tag k) ∧ (60 ≤ k.par 0 4) ∧ (k.par 0 4 ≤ 86400) ∧ (1 ≤ k.par 6 1) ∧ (k.par 6 1 ≤ 3) ∧ (k.par 7 4 < 2 ^ 20)) ∧
    (∃ (tag : Word), ∃ (k : Cmd), ∃ (s : State), (Ready s 0x0711 tag k) ∧ (k.par 0 4 < 60 ∨ 86400 < k.par 0 4 ∨ k.par 6 1 = 0 ∨ 3 < k.par 6 1 ∨ 2 ^ 20 ≤ k.par 7 4)) :=
  ⟨⟨State.reset, by decide +kernel⟩,
   ⟨2, (w 1 []), by decide +kernel⟩,
   ⟨1874999, (w 1 []), by decide +kernel⟩,
   ⟨10000000, (w 1 []), by decide +kernel⟩,
   ⟨{ (w 1 []) with scl := { (w 0 []).scl with free := true } }, by decide +kernel⟩,
   ⟨(w 1 []), by decide +kernel⟩,
   ⟨.host, (w 1 [(R.scl_SH_NCYC, 0)]), by unfold PageOpen; decide +kernel⟩,
   ⟨.host, { (w 1 [(R.scl_SH_NCYC, 4096)]) with scl := { (w 0 []).scl with sh := List.replicate 4 coefBlock ++ List.replicate 8 (2 :: coefBlock.tail) } }, by unfold PageOpen; decide +kernel⟩,
   ⟨.host, (w 1 []), by unfold PageOpen; decide +kernel⟩,
   ⟨.host, { (w 1 []) with scl := { (w 0 []).scl with check := .asked } }, by unfold PageOpen; decide +kernel⟩,
   ⟨.host, (w 1 []), by unfold PageOpen; decide +kernel⟩,
   ⟨{ (w 1 []) with scl := { (w 0 []).scl with check := .asked } }, by decide +kernel⟩,
   ⟨(w 1 []), by decide +kernel⟩,
   ⟨{ (w 1 []) with scl := { (w 0 []).scl with check := .running } }, by decide +kernel⟩,
   ⟨.host, (w 1 [(R.scl_BAL_CLOSE_IDX, 1)]), by unfold PageOpen; decide +kernel⟩,
   ⟨.host, (w 1 []), by unfold PageOpen; decide +kernel⟩,
   ⟨{ (w 1 []) with ntm := { (w 0 []).ntm with tick := 400000 } }, by unfold PageOpen; decide +kernel⟩,
   ⟨7, (kc 0x0700 [] (zeros 0) 0), (onK (kc 0x0700 [] (zeros 0) 0) (w 1 [])), by unfold Ready; decide +kernel⟩,
   ⟨7, (kc 0x0700 [] (zeros 1536) 0), (onK (kc 0x0700 [] (zeros 1536) 0) State.reset), by unfold Ready; decide +kernel⟩,
   ⟨7, (kc 0x0700 [0, 1] ((List.replicate 4 (zeros 128) ++ List.replicate 8 (2 :: zeros 127)).flatten) 0), (onK (kc 0x0700 [0, 1] ((List.replicate 4 (zeros 128) ++ List.replicate 8 (2 :: zeros 127)).flatten) 0) (w 1 [])), by dsimp only; unfold Ready; decide +kernel⟩,
   ⟨7, (kc 0x0701 [12, 4] [] 0), (onK (kc 0x0701 [12, 4] [] 0) (w 1 [])), by unfold Ready; decide +kernel⟩,
   ⟨7, (kc 0x0701 [11, 4] [] 0), (onK (kc 0x0701 [11, 4] [] 0) (w 1 [])), by unfold Ready; decide +kernel⟩,
   ⟨7, (kc 0x0701 [11, 4] [] 0), (onK (kc 0x0701 [11, 4] [] 0) { (w 1 []) with scl := { (w 0 []).scl with check := .running } }), by unfold Ready; decide +kernel⟩,
   ⟨7, (kc 0x0710 (toLe 4 0 ++ toLe 2 753) [] 0), (onK (kc 0x0710 (toLe 4 0 ++ toLe 2 753) [] 0) (w 1 [])), by dsimp only; unfold Ready; decide +kernel⟩,
   ⟨7, (kc 0x0710 (toLe 4 0 ++ toLe 2 1) (zeros 256) 0), (onK (kc 0x0710 (toLe 4 0 ++ toLe 2 1) (zeros 256) 0) { (w 1 []) with scl := { (w 0 []).scl with jseq := 752 } }), [zeros 256], by dsimp only; unfold Ready; decide +kernel⟩,
   ⟨7, (kc 0x0710 (toLe 4 0 ++ toLe 2 1) [] 0), (onK (kc 0x0710 (toLe 4 0 ++ toLe 2 1) [] 0) (w 1 [])), by dsimp only; unfold Ready; decide +kernel⟩,
   ⟨7, (kc 0x0710 (toLe 4 0 ++ toLe 2 1) (zeros 256) 0), (onK (kc 0x0710 (toLe 4 0 ++ toLe 2 1) (zeros 256) 0) (w 1 [])), by dsimp only; unfold Ready; decide +kernel⟩,
   ⟨7, (kc 0x0711 (toLe 4 60 ++ [0, 0, 3] ++ toLe 4 1048575) [] 0), (onK (kc 0x0711 (toLe 4 60 ++ [0, 0, 3] ++ toLe 4 1048575) [] 0) (w 2 [])), by unfold Ready; decide +kernel⟩,
   ⟨7, (kc 0x0711 (toLe 4 60 ++ [0, 0, 3] ++ toLe 4 1048575) [] 0), (onK (kc 0x0711 (toLe 4 60 ++ [0, 0, 3] ++ toLe 4 1048575) [] 0) (w 1 [])), by unfold Ready; decide +kernel⟩,
   ⟨7, (kc 0x0711 (toLe 4 59 ++ [0, 0, 3] ++ toLe 4 1048575) [] 0), (onK (kc 0x0711 (toLe 4 59 ++ [0, 0, 3] ++ toLe 4 1048575) [] 0) (w 2 [])), by unfold Ready; decide +kernel⟩⟩

/-- States and operands that meet the hypotheses of CalendarIsGregorian, clause by clause. -/
theorem test_hyps_CalendarIsGregorian :
    (∃ (c : Cal), (2000 ≤ c.year) ∧ (c.year ≤ 2399) ∧ (1 ≤ c.mon) ∧ (c.mon ≤ 12) ∧ (1 ≤ c.day) ∧ (c.day ≤ monthLen c.year c.mon) ∧ (c.hour ≤ 23) ∧ (c.mins ≤ 59) ∧ (c.sec ≤ 59)) ∧
    (∃ (c : Cal), (2000 ≤ c.year) ∧ (c.year ≤ 2399) ∧ (1 ≤ c.mon) ∧ (c.mon ≤ 12) ∧ (1 ≤ c.day) ∧ (c.day ≤ monthLen c.year c.mon) ∧ (c.hour ≤ 23) ∧ (c.mins ≤ 59) ∧ (c.sec ≤ 59) ∧ (¬ (c.hour = 23 ∧ c.mins = 59 ∧ c.sec = 59))) ∧
    (∃ (c : Cal), (2000 ≤ c.year) ∧ (c.year ≤ 2399) ∧ (1 ≤ c.mon) ∧ (c.mon ≤ 12) ∧ (1 ≤ c.day) ∧ (c.day ≤ monthLen c.year c.mon) ∧ (c.hour ≤ 23) ∧ (c.mins ≤ 59) ∧ (c.sec ≤ 59) ∧ (c.hour = 23 ∧ c.mins = 59 ∧ c.sec = 59)) :=
  ⟨⟨⟨2000, 2, 29, 23, 59, 59⟩, by decide +kernel⟩,
   ⟨⟨2399, 12, 31, 23, 59, 58⟩, by decide +kernel⟩,
   ⟨⟨2399, 12, 31, 23, 59, 59⟩, by decide +kernel⟩⟩

/-- States and operands that meet the hypotheses of PewterKeepsTimeAndWatch, clause by clause. -/
theorem test_hyps_PewterKeepsTimeAndWatch :
    (∃ (s : State), (s.pwt.oscOk = true)) ∧
    (∃ (s : State), (s.pwt.oscOk = false)) ∧
    (∃ (mv : Nat), (1600 ≤ mv)) ∧
    (∃ (mv : Nat), (mv < 1500)) ∧
    (∃ (mv : Nat), (1500 ≤ mv) ∧ (mv < 1600)) ∧
    (∃ (mv : Nat), (2200 ≤ mv)) ∧
    (∃ (mv : Nat), ∃ (s : State), (mv < 2200) ∧ (s.pwt.vbakLow = true)) ∧
    (∃ (mv : Nat), ∃ (s : State), (mv < 2200) ∧ (s.pwt.vbakLow = false)) ∧
    (∃ (mv : Nat), (mv < 2200)) ∧
    (∃ (m : Master), ∃ (v : Word), ∃ (s : State), (PageOpen s .pwt m) ∧ (tst v 0 = false)) ∧
    (∃ (m : Master), ∃ (v : Word), ∃ (s : State), (PageOpen s .pwt m) ∧ (tst v 0 = true) ∧ (s.pwt.commit.isSome = true)) ∧
    (∃ (m : Master), ∃ (v : Word), ∃ (s : State), (PageOpen s .pwt m) ∧ (tst v 0 = true) ∧ (s.pwt.commit = none) ∧ (rtcCheck (s.rd R.pwt_SH_TIME) (s.rd R.pwt_SH_DATE) = 0)) ∧
    (∃ (m : Master), ∃ (v : Word), ∃ (s : State), (PageOpen s .pwt m) ∧ (tst v 0 = true) ∧ (s.pwt.commit = none) ∧ (rtcCheck (s.rd R.pwt_SH_TIME) (s.rd R.pwt_SH_DATE) ≠ 0)) ∧
    (∃ (a : Word), ∃ (d : Word), ∃ (s : State), (s.pwt.oscOk = true) ∧ (s.pwt.commit = some (a, d))) ∧
    (∃ (s : State), (s.pwt.oscOk = false ∨ s.pwt.commit = none)) ∧
    (∃ (m : Master), ∃ (s : State), (PageOpen s .pwt m)) ∧
    (∃ (m : Master), ∃ (s : State), (PageOpen s .pwt m) ∧ (s.pwronBlocked = true)) ∧
    (∃ (m : Master), ∃ (s : State), (PageOpen s .pwt m) ∧ (s.pwronBlocked = false)) ∧
    (∃ (m : Master), ∃ (s : State), (PageOpen s .pwt m) ∧ (s.rf R.pwt_PWRON_CFG 0 4 = 0)) ∧
    (∃ (m : Master), ∃ (s : State), (PageOpen s .pwt m) ∧ (s.rf R.pwt_PWRON_CFG 0 4 ≠ 0)) ∧
    (∃ (s : State), (s.pwt.pwron = true) ∧ (s.rf R.pwt_PWRON_CFG 0 4 ≠ 0)) ∧
    (∃ (s : State), (s.pwt.pwron = false ∨ s.rf R.pwt_PWRON_CFG 0 4 = 0)) ∧
    (∃ (m : Master), ∃ (v : Word), ∃ (s : State), (PageOpen s .pwt m) ∧ (fld v 16 16 = 0xFA11)) ∧
    (∃ (m : Master), ∃ (v : Word), ∃ (s : State), (PageOpen s .pwt m) ∧ (fld v 16 16 ≠ 0xFA11)) ∧
    (∃ (l : Fin 2), ∃ (s : State), (s.rb R.pwt_TAMP_CFG l.val = false)) ∧
    (∃ (l : Fin 2), ∃ (s : State), (s.rb R.pwt_TAMP_CFG l.val = true)) ∧
    (∃ (tag : Word), ∃ (k : Cmd), ∃ (s : State), (Ready s 0x0800 tag k) ∧ (s.pwt.commit.isSome = true)) ∧
    (∃ (tag : Word), ∃ (k : Cmd), ∃ (s : State), (Ready s 0x0800 tag k) ∧ (let a := w32 (k.par 0 4) &&& 0x3F7F7F; (let d := w32 (k.par 4 4) &&& 0xFFFF1F3F; (s.pwt.commit = none) ∧ (rtcCheck a d = 0)))) ∧
    (∃ (tag : Word), ∃ (k : Cmd), ∃ (s : State), (Ready s 0x0800 tag k) ∧ (let a := w32 (k.par 0 4) &&& 0x3F7F7F; (let d := w32 (k.par 4 4) &&& 0xFFFF1F3F; (s.pwt.commit = none) ∧ (rtcCheck a d ≠ 0)))) ∧
    (∃ (tag : Word), ∃ (k : Cmd), ∃ (s : State), (Ready s 0x0801 tag k)) ∧
    (∃ (tag : Word), ∃ (k : Cmd), ∃ (s : State), (Ready s 0x0802 tag k) ∧ (k.par 0 1 ≤ 1) ∧ (k.par 1 1 ≤ 1) ∧ (k.par 2 1 ≤ 15) ∧ (k.par 3 1 = 0) ∧ (almTimeBad (w32 (k.par 4 4)) = false) ∧ (almDateBad (w32 (k.par 8 4)) = false)) ∧
    (∃ (tag : Word), ∃ (k : Cmd), ∃ (s : State), (Ready s 0x0802 tag k) ∧ (1 < k.par 0 1 ∨ 1 < k.par 1 1 ∨ 15 < k.par 2 1 ∨ k.par 3 1 ≠ 0 ∨ almTimeBad (w32 (k.par 4 4)) = true ∨ almDateBad (w32 (k.par 8 4)) = true)) ∧
    (∃ (tag : Word), ∃ (k : Cmd), ∃ (s : State), (Ready s 0x0803 tag k) ∧ (1 < k.par 0 1)) ∧
    (∃ (tag : Word), ∃ (k : Cmd), ∃ (s : State), (Ready s 0x0803 tag k) ∧ (k.par 0 1 ≤ 1)) ∧
    (∃ (tag : Word), ∃ (k : Cmd), ∃ (s : State), (Ready s 0x0804 tag k) ∧ (1 < k.par 0 1 ∨ 1 < k.par 1 1 ∨ 2 < k.par 2 1)) ∧
    (∃ (tag : Word), ∃ (k : Cmd), ∃ (s : State), (Ready s 0x0804 tag k) ∧ (k.par 0 1 ≤ 1) ∧ (k.par 1 1 ≤ 1) ∧ (k.par 2 1 ≤ 2)) :=
  ⟨⟨{ (w 1 []) with pwt := { (w 0 []).pwt with oscOk := true } }, by decide +kernel⟩,
   ⟨{ (w 1 []) with pwt := { (w 0 []).pwt with oscOk := false } }, by decide +kernel⟩,
   ⟨1600, by decide +kernel⟩,
   ⟨1499, by decide +kernel⟩,
   ⟨1599, by decide +kernel⟩,
   ⟨2200, by decide +kernel⟩,
   ⟨2199, { (w 1 []) with pwt := { (w 0 []).pwt with vbakLow := true } }, by decide +kernel⟩,
   ⟨2199, (w 1 []), by decide +kernel⟩,
   ⟨2199, by decide +kernel⟩,
   ⟨.host, 2, (w 1 []), by unfold PageOpen; decide +kernel⟩,
   ⟨.host, 1, { (w 1 []) with pwt := { (w 0 []).pwt with commit := some (0, 0) } }, by unfold PageOpen; decide +kernel⟩,
   ⟨.host, 1, (w 1 [(R.pwt_SH_TIME, 0x235959), (R.pwt_SH_DATE, 0x20000229)]), by unfold PageOpen; decide +kernel⟩,
   ⟨.host, 1, (w 1 [(R.pwt_SH_TIME, 0x235959), (R.pwt_SH_DATE, 0x20010229)]), by unfold PageOpen; decide +kernel⟩,
   ⟨0x235959, 0x20000229, { (w 1 []) with pwt := { (w 0 []).pwt with oscOk := true, commit := some (0x235959, 0x20000229) } }, by decide +kernel⟩,
   ⟨(w 1 []), by decide +kernel⟩,
   ⟨.host, (w 1 []), by unfold PageOpen; decide +kernel⟩,
   ⟨.host, (w 1 [(R.pwt_FLAGS, 0x10)]), by unfold PageOpen; decide +kernel⟩,
   ⟨.host, (w 1 []), by unfold PageOpen; decide +kernel⟩,
   ⟨.host, (w 1 [(R.pwt_PWRON_CFG, 0)]), by unfold PageOpen; decide +kernel⟩,
   ⟨.host, (w 1 [(R.pwt_PWRON_CFG, 1)]), by unfold PageOpen; decide +kernel⟩,
   ⟨{ (w 1 [(R.pwt_PWRON_CFG, 1)]) with pwt := { (w 0 []).pwt with pwron := true } }, by decide +kernel⟩,
   ⟨(w 1 []), by decide +kernel⟩,
   ⟨.host, 0xFA110001, (w 1 []), by unfold PageOpen; decide +kernel⟩,
   ⟨.host, 0xFA120001, (w 1 []), by unfold PageOpen; decide +kernel⟩,
   ⟨1, (w 1 []), by decide +kernel⟩,
   ⟨1, (w 1 [(R.pwt_TAMP_CFG, 2)]), by decide +kernel⟩,
   ⟨7, (kc 0x0800 [] [] 0), (onK (kc 0x0800 [] [] 0) { (w 1 []) with pwt := { (w 0 []).pwt with commit := some (0, 0) } }), by unfold Ready; decide +kernel⟩,
   ⟨7, (kc 0x0800 (toLe 4 0x235959 ++ toLe 4 0x20000229) [] 0), (onK (kc 0x0800 (toLe 4 0x235959 ++ toLe 4 0x20000229) [] 0) (w 1 [])), by dsimp only; unfold Ready; decide +kernel⟩,
   ⟨7, (kc 0x0800 (toLe 4 0x235959 ++ toLe 4 0x20010229) [] 0), (onK (kc 0x0800 (toLe 4 0x235959 ++ toLe 4 0x20010229) [] 0) (w 1 [])), by dsimp only; unfold Ready; decide +kernel⟩,
   ⟨7, (kc 0x0801 [] [] 0), (onK (kc 0x0801 [] [] 0) (w 1 [])), by unfold Ready; decide +kernel⟩,
   ⟨7, (kc 0x0802 [1, 1, 15] [] 0), (onK (kc 0x0802 [1, 1, 15] [] 0) (w 1 [])), by unfold Ready; decide +kernel⟩,
   ⟨7, (kc 0x0802 [2, 1, 15] [] 0), (onK (kc 0x0802 [2, 1, 15] [] 0) (w 1 [])), by unfold Ready; decide +kernel⟩,
   ⟨7, (kc 0x0803 [2] [] 0), (onK (kc 0x0803 [2] [] 0) (w 1 [])), by unfold Ready; decide +kernel⟩,
   ⟨7, (kc 0x0803 [1] [] 0), (onK (kc 0x0803 [1] [] 0) (w 1 [])), by unfold Ready; decide +kernel⟩,
   ⟨7, (kc 0x0804 [2] [] 0), (onK (kc 0x0804 [2] [] 0) (w 1 [])), by unfold Ready; decide +kernel⟩,
   ⟨7, (kc 0x0804 [1, 1, 2] [] 0), (onK (kc 0x0804 [1, 1, 2] [] 0) (w 1 [])), by unfold Ready; decide +kernel⟩⟩

/-- States and operands that meet the hypotheses of PowerFailsAndContactorsFollow, clause by clause. -/
theorem test_hyps_PowerFailsAndContactorsFollow :
    (∃ (mv : Nat), ∃ (s : State), (s.rb R.pwr_PWR_STAT 0 = true ∨ s.boot.stage = .off ∨ s.pfailTh + 300 ≤ mv)) ∧
    (∃ (mv : Nat), ∃ (s : State), (s.rb R.pwr_PWR_STAT 0 = false) ∧ (s.boot.stage ≠ .off) ∧ (mv + 300 < s.pfailTh)) ∧
    (∃ (mv : Nat), ∃ (s : State), (s.rb R.pwr_PWR_STAT 0 = false ∨ mv < s.pfailTh + 701)) ∧
    (∃ (mv : Nat), ∃ (s : State), (s.rb R.pwr_PWR_STAT 0 = true) ∧ (s.pfailTh + 1301 ≤ mv)) ∧
    (∃ (m : Master), ∃ (v : Word), ∃ (s : State), (PageOpen s .fsw m) ∧ (tst v 8 = false)) ∧
    (∃ (m : Master), ∃ (v : Word), ∃ (s : State), (PageOpen s .fsw m) ∧ (tst v 8 = true) ∧ (s.configured = false ∨ s.isStandby = true)) ∧
    (∃ (m : Master), ∃ (v : Word), ∃ (s : State), (PageOpen s .fsw m) ∧ (tst v 8 = true) ∧ (s.configured = true) ∧ (s.isStandby = false)) ∧
    (∃ (s : State), (s.fsw.seq = none)) ∧
    (∃ (s : State), ∃ p, (s.fsw.seq = some p) ∧ (s.drainBit .fsw = false) ∧ (s.cryError = false)) ∧
    (∃ (s : State), ∃ p, (s.fsw.seq = some p) ∧ ((s.drainBit .fsw = true ∧ s.en .fsw = true) ∨ s.cryError = true)) ∧
    (∃ (p : Nat), ∃ (i : Nat), ∃ (s : State), (s.fsw.on.length = 6) ∧ (s.contTodo.filter (fun i => decide (p ≤ i)) ≠ []) ∧ (i = (s.contTodo.filter (fun i => decide (p ≤ i))).headD 0)) ∧
    (∃ (p : Nat), ∃ (i : Nat), ∃ (s : State), ∃ k, (s.fsw.on.length = 6) ∧ (s.contTodo.filter (fun i => decide (p ≤ i)) ≠ []) ∧ (i = (s.contTodo.filter (fun i => decide (p ≤ i))).headD 0) ∧ (k ≠ i)) ∧
    (∃ (mv : Nat), ∃ (s : State), (mv < 16000) ∧ (s.fsw.coilOk = true) ∧ (s.fsw.on.length = 6)) ∧
    (∃ (mv : Nat), ∃ (s : State), (mv < 16000) ∧ (s.fsw.coilOk = false)) ∧
    (∃ (mv : Nat), ∃ (s : State), (16000 ≤ mv) ∧ (s.fsw.coilOk = false)) ∧
    (∃ (mv : Nat), ∃ (s : State), (16000 ≤ mv) ∧ (s.fsw.coilOk = true)) ∧
    (∃ (s : State), (s.fsw.on.length = 6) ∧ (s.fsw.fault.length = 6)) ∧
    (∃ (m : Master), ∃ (s : State), (PageOpen s .fsw m)) ∧
    (∃ (dv : Nat), ∃ (s : State), (s.photoReads dv = s.fsw.dark)) ∧
    (∃ (dv : Nat), ∃ (s : State), (s.photoReads dv ≠ s.fsw.dark)) ∧
    (∃ (s : State), (s.fsw.wait = false)) ∧
    (∃ (s : State), (s.fsw.wait = true)) ∧
    (∃ (i : Fin 8), ∃ (b : Bool), ∃ (s : State), (s.inReset .fsw = false) ∧ (s.fsw.stat.getD i.val false = b)) ∧
    (∃ (i : Fin 8), ∃ (b : Bool), ∃ (s : State), (s.inReset .fsw = false) ∧ (s.fsw.stat.getD i.val false ≠ b)) :=
  ⟨⟨0, (w 1 [(R.pwr_PWR_STAT, 1)]), by decide +kernel⟩,
   ⟨0, (w 1 []), by decide +kernel⟩,
   ⟨14000, (w 1 []), by decide +kernel⟩,
   ⟨14001, (w 1 [(R.pwr_PWR_STAT, 1), (R.pwr_PFAIL_CFG, 127)]), by decide +kernel⟩,
   ⟨.host, 0x3F, (w 1 []), by unfold PageOpen; decide +kernel⟩,
   ⟨.host, 0x13F, (w 3 []), by unfold PageOpen; decide +kernel⟩,
   ⟨.host, 0x13F, (w 1 []), by unfold PageOpen; decide +kernel⟩,
   ⟨(w 1 []), by decide +kernel⟩,
   ⟨{ (w 1 []) with fsw := { (w 0 []).fsw with seq := some 0 } }, 0, by decide +kernel⟩,
   ⟨{ (w 1 [(hdr .fsw oCtrl, 3)]) with fsw := { (w 0 []).fsw with seq := some 0 } }, 0, by decide +kernel⟩,
   ⟨5, 5, (w 1 [(R.fsw_CONT_HOLD, 0x120)]), by decide +kernel⟩,
   ⟨5, 5, (w 1 [(R.fsw_CONT_HOLD, 0x120)]), 4, by decide +kernel⟩,
   ⟨0, (w 1 []), by decide +kernel⟩,
   ⟨0, { (w 1 []) with fsw := { (w 0 []).fsw with coilOk := false } }, by decide +kernel⟩,
   ⟨16000, { (w 1 []) with fsw := { (w 0 []).fsw with coilOk := false } }, by decide +kernel⟩,
   ⟨16000, (w 1 []), by decide +kernel⟩,
   ⟨(w 1 []), by decide +kernel⟩,
   ⟨.host, (w 1 []), by unfold PageOpen; decide +kernel⟩,
   ⟨0, (w 1 []), by decide +kernel⟩,
   ⟨0x3FF, (w 1 []), by decide +kernel⟩,
   ⟨(w 1 []), by decide +kernel⟩,
   ⟨{ (w 1 []) with fsw := { (w 0 []).fsw with wait := true } }, by decide +kernel⟩,
   ⟨7, false, (w 1 []), by decide +kernel⟩,
   ⟨7, true, (w 1 []), by decide +kernel⟩⟩

/-- States and operands that meet the hypotheses of VaultServicesAreQueuedForTheVault, clause by clause. -/
theorem test_hyps_VaultServicesAreQueuedForTheVault :
    (∃ (i : Instr), ∃ (op : Nat), ∃ (co : Bool), ∃ (m : Master), ∃ (v : Word), ∃ (mode : AesMode), ∃ (iv : Bytes), ∃ (s : State), (vltOf i = some (op, co, .window m v, mode, iv)) ∧ (PageOpen s .vlt m) ∧ (fld v 0 8 ≠ op)) ∧
    (∃ (i : Instr), ∃ (op : Nat), ∃ (co : Bool), ∃ (m : Master), ∃ (v : Word), ∃ (mode : AesMode), ∃ (iv : Bytes), ∃ (s : State), (vltOf i = some (op, co, .window m v, mode, iv)) ∧ (PageOpen s .vlt m) ∧ (fld v 0 8 = op) ∧ (m ≠ .svc)) ∧
    (∃ (i : Instr), ∃ (op : Nat), ∃ (co : Bool), ∃ (m : Master), ∃ (v : Word), ∃ (mode : AesMode), ∃ (iv : Bytes), ∃ (s : State), (vltOf i = some (op, co, .window m v, mode, iv)) ∧ (PageOpen s .vlt m) ∧ (fld v 0 8 = op) ∧ (m = .svc) ∧ (tst v 31 = false)) ∧
    (∃ (i : Instr), ∃ (op : Nat), ∃ (co : Bool), ∃ (m : Master), ∃ (v : Word), ∃ (mode : AesMode), ∃ (iv : Bytes), ∃ (s : State), (vltOf i = some (op, co, .window m v, mode, iv)) ∧ (PageOpen s .vlt m) ∧ (fld v 0 8 = op) ∧ (m = .svc) ∧ (tst v 31 = true)) ∧
    (∃ (i : Instr), ∃ (op : Nat), ∃ (co : Bool), ∃ (tag : Word), ∃ (mode : AesMode), ∃ (iv : Bytes), ∃ (k : Cmd), ∃ (s : State), (vltOf i = some (op, co, .mbx tag, mode, iv)) ∧ (Ready s (0x0900 + op) tag k) ∧ (co = false)) ∧
    (∃ (i : Instr), ∃ (op : Nat), ∃ (co : Bool), ∃ (tag : Word), ∃ (mode : AesMode), ∃ (iv : Bytes), ∃ (k : Cmd), ∃ (s : State), ∃ u, (vltOf i = some (op, co, .mbx tag, mode, iv)) ∧ (Ready s (0x0900 + op) tag k) ∧ (co = true) ∧ (s.coAuth k = some u)) ∧
    (∃ (i : Instr), ∃ (op : Nat), ∃ (co : Bool), ∃ (tag : Word), ∃ (mode : AesMode), ∃ (iv : Bytes), ∃ (k : Cmd), ∃ (s : State), (vltOf i = some (op, co, .mbx tag, mode, iv)) ∧ (Ready s (0x0900 + op) tag k) ∧ (co = true) ∧ (s.coAuth k = none)) ∧
    (∃ (s : State), (s.slot 0 = none)) ∧
    (∃ (s : State), ∃ x, (s.slot 0 = some x)) ∧
    (∃ (k : Cmd), ∃ (s : State), ∃ t, (s.coAuth k = some t) ∧ (s.slot 0 ≠ none)) ∧
    (∃ (s : State), (s.takes .vlt = false)) ∧
    (∃ (s : State), (s.takes .vlt = true)) ∧
    (∃ (s : State), (s.inReset .vlt = true)) ∧
    (∃ (s : State), (s.vlt.ops = [] ∨ s.drained .vlt = true)) ∧
    (∃ (o : VOp), ∃ (r : List VOp), ∃ (inp : Bytes), ∃ (s : State), (s.inReset .vlt = false) ∧ (s.vlt.ops = o :: r) ∧ (s.drained .vlt = false) ∧ (let u : State := { s with vlt := { s.vlt with ops := r } }; (u.opInput o = some inp))) ∧
    (∃ (o : VOp), ∃ (r : List VOp), ∃ (s : State), (s.inReset .vlt = false) ∧ (s.vlt.ops = o :: r) ∧ (s.drained .vlt = false) ∧ (let u : State := { s with vlt := { s.vlt with ops := r } }; (u.opInput o = none))) ∧
    (∃ (o : VOp), ∃ (r : List VOp), ∃ (s : State), (s.inReset .vlt = false) ∧ (s.vlt.ops = o :: r) ∧ (s.drained .vlt = false)) :=
  ⟨⟨(.random .svc 0), 0x24, false, .svc, 0, .ecb, [], (w 1 []), by unfold PageOpen; decide +kernel⟩,
   ⟨(.random .host 0x80000024), 0x24, false, .host, 0x80000024, .ecb, [], (w 1 []), by unfold PageOpen; decide +kernel⟩,
   ⟨(.random .svc 0x24), 0x24, false, .svc, 0x24, .ecb, [], (w 1 []), by unfold PageOpen; decide +kernel⟩,
   ⟨(.random .svc 0x80000024), 0x24, false, .svc, 0x80000024, .ecb, [], (w 1 []), by unfold PageOpen; decide +kernel⟩,
   ⟨(.status (.mbx 7)), 0, false, 7, .ecb, [], (kc 0x0900 [] [] 0), (onK (kc 0x0900 [] [] 0) (w 1 [])), by unfold Ready; decide +kernel⟩,
   ⟨(.approve (.mbx 7)), 0x0B, true, 7, .ecb, [], (kc 0x090B [] [] 0), (onK (kc 0x090B [] [] 0) (w 1 [])), (onK (kc 0x090B [] [] 0) (w 1 [])), by unfold Ready; decide +kernel⟩,
   ⟨(.approve (.mbx 7)), 0x0B, true, 7, .ecb, [], (kc 0x090B [] [] 0), (onK (kc 0x090B [] [] 0) co0), by unfold Ready; decide +kernel⟩,
   ⟨(w 1 []), by decide +kernel⟩,
   ⟨co0, ⟨0x240, 2, List.replicate 16 1, []⟩, by decide +kernel⟩,
   ⟨coK, co0, ((co0.coAuth coK).getD co0), by decide +kernel⟩,
   ⟨State.reset, by decide +kernel⟩,
   ⟨(w 1 []), by decide +kernel⟩,
   ⟨State.reset, by decide +kernel⟩,
   ⟨(w 1 []), by decide +kernel⟩,
   ⟨vo, [], [], { (w 1 [(hdr .vlt oStat, 0)]) with vlt := { (w 0 []).vlt with ops := [vo] } }, by dsimp only; decide +kernel⟩,
   ⟨{ vo with who := .window .svc 0, inp := (0, 1) }, [], { (w 1 [(hdr .vlt oStat, 0)]) with vlt := { (w 0 []).vlt with ops := [{ vo with who := .window .svc 0, inp := (0, 1) }] }, mem := { (w 0 []).mem with sramPoison := [0] } }, by dsimp only; decide +kernel⟩,
   ⟨vo, [], { (w 1 [(hdr .vlt oStat, 0)]) with vlt := { (w 0 []).vlt with ops := [vo] } }, by decide +kernel⟩⟩

/-- States and operands that meet the hypotheses of VaultGuardsItsKeys, clause by clause. -/
theorem test_hyps_VaultGuardsItsKeys :
    (∃ (o : VOp), ∃ (s : State), (s.cryError = true) ∧ (o.op ≠ 0)) ∧
    (∃ (o : VOp), ∃ (s : State), (s.cryError = false) ∧ (s.rootOk = false) ∧ (o.op ≠ 0) ∧ (o.op ≠ 3)) ∧
    (∃ (i : Nat), ∃ (v : Word), ∃ (uses : Nat), ∃ (key : Bytes), ∃ (org : Nat), ∃ (bind : Nat), ∃ (cls : Nat), ∃ (s : State), (let r := s.createSlot i v uses key org bind cls; (r.2 ≠ vOk))) ∧
    (∃ (i : Nat), ∃ (v : Word), ∃ (uses : Nat), ∃ (key : Bytes), ∃ (org : Nat), ∃ (bind : Nat), ∃ (cls : Nat), ∃ (s : State), (let r := s.createSlot i v uses key org bind cls; (r.2 = vOk))) ∧
    (∃ (i : Nat), ∃ (v : Word), ∃ (uses : Nat), ∃ (key : Bytes), ∃ (org : Nat), ∃ (bind : Nat), ∃ (cls : Nat), ∃ (s : State), (let r := s.createSlot i v uses key org bind cls; (r.2 = vOk) ∧ (tst v 12 = true))) ∧
    (∃ (i : Nat), ∃ (v : Word), ∃ (uses : Nat), ∃ (key : Bytes), ∃ (org : Nat), ∃ (bind : Nat), ∃ (cls : Nat), ∃ (s : State), (let r := s.createSlot i v uses key org bind cls; (r.2 = vOk) ∧ (tst v 10 = true))) ∧
    (∃ (i : Nat), ∃ (v : Word), ∃ (uses : Nat), ∃ (key : Bytes), ∃ (org : Nat), ∃ (bind : Nat), ∃ (cls : Nat), ∃ (s : State), ∃ j, (let r := s.createSlot i v uses key org bind cls; (r.2 = vOk) ∧ (j ≠ i))) ∧
    (∃ (o : VOp), ∃ (s : State), ((s.vopExport o).status = vOk)) ∧
    (∃ (o : VOp), ∃ (s : State), (let x := s.vopErase o; (x.status = vOk))) ∧
    (∃ (o : VOp), ∃ (s : State), ∃ j, (let x := s.vopErase o; (x.status = vOk) ∧ (j ≠ o.a))) ∧
    (∃ (o : VOp), ∃ (s : State), (let x := s.vopErase o; (x.status ≠ vOk))) ∧
    (∃ (s : State), (s.anyLinkSlot = true)) ∧
    (∃ (s : State), (s.anyLinkSlot = false)) ∧
    (∃ (s : State), ∃ j, (s.anyLinkSlot = false) ∧ (j ≠ 0)) ∧
    (∃ (s : State), (s.vlt.approved = true)) ∧
    (∃ (s : State), (s.vlt.approved = false) ∧ (s.anyLinkSlot = false)) ∧
    (∃ (s : State), ∃ j, (s.vlt.approved = false) ∧ (s.anyLinkSlot = false) ∧ (j ≠ 0)) ∧
    (∃ (s : State), ∃ y, (let x := s.vopDebug; (s.vlt.approved = false) ∧ (s.anyLinkSlot = false) ∧ (x.st.slot 0 = some y))) ∧
    (∃ (i : Nat), ∃ (x : Slot), ∃ (s : State), (s.slot i = some x) ∧ (x.uses = 0)) ∧
    (∃ (i : Nat), ∃ (x : Slot), ∃ (s : State), (s.slot i = some x) ∧ (x.uses = 1)) ∧
    (∃ (i : Nat), ∃ (x : Slot), ∃ (s : State), (s.slot i = some x) ∧ (2 ≤ x.uses)) ∧
    (∃ (i : Nat), ∃ (x : Slot), ∃ (s : State), ∃ j, (s.slot i = some x) ∧ (j ≠ i)) :=
  ⟨⟨{ vo with op := 6 }, (w 1 [(R.cry_CRY_IND, 2)]), by decide +kernel⟩,
   ⟨{ vo with op := 6 }, { sv with pwt := { sv.pwt with rs := rsZero } }, by decide +kernel⟩,
   ⟨4, 0x240, 1, [], 1, 0, 0, sv, by dsimp only; decide +kernel⟩,
   ⟨63, 0x40, 1, (List.replicate 16 1), 1, 0, 0, sv, by dsimp only; decide +kernel⟩,
   ⟨63, 0x1040, 1, (List.replicate 16 1), 1, 0, 0, sv, by dsimp only; decide +kernel⟩,
   ⟨63, 0x582, 1, (List.replicate 32 1), 1, 0, 0, sv, by dsimp only; decide +kernel⟩,
   ⟨63, 0x40, 1, (List.replicate 16 1), 1, 0, 0, sv, 4, by dsimp only; decide +kernel⟩,
   ⟨{ vo with op := 8, a := 4, b := 5 }, sv, by decide +kernel⟩,
   ⟨{ vo with op := 10, a := 4 }, sv, by dsimp only; decide +kernel⟩,
   ⟨{ vo with op := 10, a := 4 }, sv, 5, by dsimp only; decide +kernel⟩,
   ⟨{ vo with op := 10, a := 7 }, sv, by dsimp only; decide +kernel⟩,
   ⟨(w 1 []), by decide +kernel⟩,
   ⟨sv, by decide +kernel⟩,
   ⟨sv, 63, by decide +kernel⟩,
   ⟨{ sv with vlt := { sv.vlt with approved := true } }, by decide +kernel⟩,
   ⟨sv, by decide +kernel⟩,
   ⟨sv, 63, by decide +kernel⟩,
   ⟨{ sv with vlt := { sv.vlt with slots := some ⟨0x4240, 2, List.replicate 16 1, []⟩ :: List.replicate 63 none } }, ⟨0x4240, 2, List.replicate 16 1, []⟩, by dsimp only; decide +kernel⟩,
   ⟨6, ⟨0x5240, 0, List.replicate 16 1, []⟩, sv, by decide +kernel⟩,
   ⟨4, ⟨0x5240, 1, List.replicate 16 1, []⟩, sv, by decide +kernel⟩,
   ⟨5, ⟨0x4480, 2, List.replicate 32 2, []⟩, sv, by decide +kernel⟩,
   ⟨5, ⟨0x4480, 2, List.replicate 32 2, []⟩, sv, 4, by decide +kernel⟩⟩

/-- States and operands that meet the hypotheses of SelfTestsZeroizationAndDebugPort, clause by clause. -/
theorem test_hyps_SelfTestsZeroizationAndDebugPort :
    (∃ (m : Master), ∃ (v : Word), ∃ (s : State), (PageOpen s .vlt m) ∧ (fld v 0 8 = 1) ∧ (tst v 31 = true) ∧ (m ≠ .svc)) ∧
    (∃ (m : Master), ∃ (v : Word), ∃ (s : State), (PageOpen s .vlt m) ∧ (fld v 0 8 = 1) ∧ (tst v 31 = true) ∧ (m = .svc) ∧ (s.cryError = true)) ∧
    (∃ (m : Master), ∃ (v : Word), ∃ (s : State), (PageOpen s .vlt m) ∧ (fld v 0 8 = 1) ∧ (tst v 31 = true) ∧ (m = .svc) ∧ (s.cryError = false) ∧ (s.cry.wait = none) ∧ (s.cry.run = none)) ∧
    (∃ (m : Master), ∃ (v : Word), ∃ (s : State), (PageOpen s .vlt m) ∧ (fld v 0 8 = 1) ∧ (tst v 31 = true) ∧ (m = .svc) ∧ (s.cryError = false) ∧ (s.cry.wait.isSome = true ∨ s.cry.run.isSome = true)) ∧
    (∃ (tag : Word), ∃ (k : Cmd), ∃ (s : State), (Ready s 0x0901 tag k) ∧ (s.cryError = true)) ∧
    (∃ (tag : Word), ∃ (k : Cmd), ∃ (s : State), (Ready s 0x0901 tag k) ∧ (s.cryError = false) ∧ (s.cry.wait = none) ∧ (s.cry.run = none)) ∧
    (∃ (tag : Word), ∃ (k : Cmd), ∃ (s : State), (Ready s 0x0901 tag k) ∧ (s.cryError = false) ∧ (s.cry.wait.isSome = true ∨ s.cry.run.isSome = true)) ∧
    (∃ (s : State), (s.cry.wait = none ∨ s.cry.wait = some s.tick ∨ s.inReset .cry = true ∨ s.drainBit .cry = true)) ∧
    (∃ (t0 : Nat), ∃ (s : State), (s.cry.wait = some t0) ∧ (s.tick ≠ t0) ∧ (s.inReset .cry = false) ∧ (s.drainBit .cry = false)) ∧
    (∃ (s : State), (s.cry.run = none)) ∧
    (∃ (r : Fin 4), ∃ (x : TestRun), ∃ (s : State), (s.cry.run = some x) ∧ (9 + r.val ∉ x.left)) ∧
    (∃ (r : Fin 4), ∃ (x : TestRun), ∃ (s : State), (s.cry.run = some x) ∧ (9 + r.val ∈ x.left)) ∧
    (∃ (x : TestRun), (x.left = [])) ∧
    (∃ (s : State), (s.vlt.drbg = none)) ∧
    (∃ (d : Drbg), ∃ (s : State), (s.vlt.drbg = some d) ∧ (d.since < s.rf R.cry_DRBG_CFG 0 16)) ∧
    (∃ (d : Drbg), ∃ (s : State), (s.vlt.drbg = some d) ∧ (s.rf R.cry_DRBG_CFG 0 16 ≤ d.since)) ∧
    (∃ (t : Nat), ∃ (k : Nat), (t < 32) ∧ (k < 4)) ∧
    (∃ (m : Master), ∃ (v : Word), ∃ (s : State), (PageOpen s .vlt m) ∧ (fld v 16 16 = 0xC1EA) ∧ (tst v 0 = true) ∧ (s.boot.stage ≠ .off)) ∧
    (∃ (m : Master), ∃ (v : Word), ∃ (s : State), (PageOpen s .vlt m) ∧ (fld v 16 16 ≠ 0xC1EA)) ∧
    (∃ (tag : Word), ∃ (k : Cmd), ∃ (s : State), (Ready s 0x0902 tag k) ∧ (s.boot.stage ≠ .off)) ∧
    (∃ (s : State), (s.vlt.approved = false) ∧ (s.vlt.debug = true)) ∧
    (∃ (s : State), (s.vlt.approved = true ∨ s.vlt.debug = false)) :=
  ⟨⟨.host, 0x80000001, (w 1 []), by unfold PageOpen; decide +kernel⟩,
   ⟨.svc, 0x80000001, (w 1 [(R.cry_CRY_IND, 2)]), by unfold PageOpen; decide +kernel⟩,
   ⟨.svc, 0x80000001, (w 1 []), by unfold PageOpen; decide +kernel⟩,
   ⟨.svc, 0x80000001, { (w 1 []) with cry := { (w 0 []).cry with wait := some 5 } }, by unfold PageOpen; decide +kernel⟩,
   ⟨7, (kc 0x0901 [] [] 0), (onK (kc 0x0901 [] [] 0) (w 1 [(R.cry_CRY_IND, 2)])), by unfold Ready; decide +kernel⟩,
   ⟨7, (kc 0x0901 [] [] 0), (onK (kc 0x0901 [] [] 0) (w 1 [])), by unfold Ready; decide +kernel⟩,
   ⟨7, (kc 0x0901 [] [] 0), (onK (kc 0x0901 [] [] 0) { (w 1 []) with cry := { (w 0 []).cry with wait := some 5 } }), by unfold Ready; decide +kernel⟩,
   ⟨(w 1 []), by decide +kernel⟩,
   ⟨5, { (w 1 []) with cry := { (w 0 []).cry with wait := some 5 } }, by decide +kernel⟩,
   ⟨(w 1 []), by decide +kernel⟩,
   ⟨3, ⟨0, [11], none, 0⟩, { (w 1 []) with cry := { (w 0 []).cry with run := some ⟨0, [11], none, 0⟩ } }, by decide +kernel⟩,
   ⟨3, ⟨0, [12], none, 0⟩, { (w 1 []) with cry := { (w 0 []).cry with run := some ⟨0, [12], none, 0⟩ } }, by decide +kernel⟩,
   ⟨⟨0, [], none, 0⟩, by decide +kernel⟩,
   ⟨(w 1 []), by decide +kernel⟩,
   ⟨⟨[], 0, 9, 0⟩, { (w 1 [(R.cry_DRBG_CFG, 10)]) with vlt := { (w 0 []).vlt with drbg := some ⟨[], 0, 9, 0⟩ } }, by decide +kernel⟩,
   ⟨⟨[], 0, 10, 0⟩, { (w 1 [(R.cry_DRBG_CFG, 10)]) with vlt := { (w 0 []).vlt with drbg := some ⟨[], 0, 10, 0⟩ } }, by decide +kernel⟩,
   ⟨31, 3, by decide +kernel⟩,
   ⟨.host, 0xC1EA0001, (w 1 []), by unfold PageOpen; decide +kernel⟩,
   ⟨.host, 0xC1EB0001, (w 1 []), by unfold PageOpen; decide +kernel⟩,
   ⟨7, (kc 0x0902 [] [] 0), (onK (kc 0x0902 [] [] 0) (w 1 [])), by unfold Ready; decide +kernel⟩,
   ⟨{ (w 1 []) with vlt := { (w 0 []).vlt with debug := true } }, by decide +kernel⟩,
   ⟨(w 1 []), by decide +kernel⟩⟩

/-- States and operands that meet the hypotheses of LedgerKeepsItsRecords, clause by clause. -/
theorem test_hyps_LedgerKeepsItsRecords :
    (∃ (p : Nat), ∃ (q : Nat), (p < q) ∧ (slotOf p = slotOf q)) ∧
    (∃ (m : Master), ∃ (s : State), (PageOpen s .ldg m) ∧ (mayLog m = false)) ∧
    (∃ (m : Master), ∃ (v : Word), ∃ (s : State), (PageOpen s .ldg m) ∧ (mayLog m = true) ∧ (6 ≤ fld v 16 4 ∨ logCodeOk (fld v 0 16) = false)) ∧
    (∃ (m : Master), ∃ (v : Word), ∃ (s : State), (PageOpen s .ldg m) ∧ (mayLog m = true) ∧ (fld v 16 4 < 6) ∧ (logCodeOk (fld v 0 16) = true) ∧ (let n := fld (s.logStage m 15) 0 2; (s.ldgRoom n = true))) ∧
    (∃ (s : State), (s.inReset .ldg = true ∨ s.ldg.ready = false ∨ (s.en .ldg = true ∧ s.drainBit .ldg = true))) ∧
    (∃ (r : Rec), ∃ (l : List Rec), ∃ (s : State), (s.inReset .ldg = false) ∧ (s.ldg.ready = true) ∧ (s.takes .ldg = true) ∧ (s.ldg.fifo = r :: l) ∧ (s.inReset .nvs = false) ∧ (s.rb (R.nvs_NWRITERSr (nvsRegion (slotAddr (slotOf r.seq)))) (nvsBit .ldg) = true)) ∧
    (∃ (s : State), (s.inReset .ldg = true ∨ s.ldg.ready = false ∨ s.takes .ldg = false ∨ 64 ≤ s.ldg.fifo.length ∨ (s.ldg.lostDue = 0 ∧ s.ldg.lostUnknown = false))) ∧
    (∃ (s : State), (s.ldg.ready = true) ∧ (s.takes .ldg = true) ∧ (s.ldg.fifo.length < 64) ∧ (s.ldg.lostUnknown = false) ∧ (s.ldg.lostDue ≠ 0)) ∧
    (∃ (s : State), (s.ldg.ready = true) ∧ (s.takes .ldg = true) ∧ (s.ldg.fifo.length < 64) ∧ (s.ldg.lostUnknown = true)) ∧
    (∃ (s : State), (s.inReset .ldg = true ∨ s.ldg.ready = true)) ∧
    (∃ (s : State), (s.inReset .ldg = false) ∧ (s.ldg.ready = false)) ∧
    (∃ (m : Master), ∃ (s : State), (PageOpen s .ldg m)) ∧
    (∃ (m : Master), ∃ (s : State), (PageOpen s .ldg m)) ∧
    (∃ (m : Master), ∃ (v : Word), ∃ (s : State), (PageOpen s .ldg m) ∧ (mayLog m = true) ∧ (let x := s.series (fld v 0 8); (s.takes .ldg = false ∨ x.en = false))) ∧
    (∃ (m : Master), ∃ (v : Word), ∃ (s : State), (PageOpen s .ldg m) ∧ (mayLog m = true) ∧ (let x := s.series (fld v 0 8); (s.takes .ldg = true) ∧ (x.en = true))) ∧
    (∃ (x : Series), ∃ (v : Int), ∃ i, (i ≠ x.bin v)) ∧
    (∃ (m : Master), ∃ (v : Word), ∃ (s : State), (PageOpen s .ldg m) ∧ (tst v 0 = false)) ∧
    (∃ (m : Master), ∃ (v : Word), ∃ (s : State), (PageOpen s .ldg m) ∧ (tst v 0 = true)) ∧
    (∃ (s : State), (s.inReset .ldg = false) ∧ (s.en .ldg = true)) ∧
    (∃ (s : State), (s.inReset .ldg = true ∨ s.en .ldg = false)) ∧
    (∃ (tag : Word), ∃ (k : Cmd), ∃ (s : State), (Ready s 0x0A00 tag k) ∧ (let n := k.par 4 2; (n = 0 ∨ 4096 < n))) ∧
    (∃ (tag : Word), ∃ (k : Cmd), ∃ (s : State), (Ready s 0x0A00 tag k) ∧ (let n := k.par 4 2; (1 ≤ n) ∧ (n ≤ 4096) ∧ (k.e.length ≠ 32 * n))) ∧
    (∃ (tag : Word), ∃ (k : Cmd), ∃ (s : State), (Ready s 0x0A00 tag k) ∧ (let n := k.par 4 2; (1 ≤ n) ∧ (n ≤ 4096) ∧ (k.e.length = 32 * n) ∧ (s.inReset .ldg = true))) ∧
    (∃ (tag : Word), ∃ (k : Cmd), ∃ (s : State), (Ready s 0x0A00 tag k) ∧ (let n := k.par 4 2; (1 ≤ n) ∧ (n ≤ 4096) ∧ (k.e.length = 32 * n) ∧ (s.inReset .ldg = false))) ∧
    (∃ (tag : Word), ∃ (k : Cmd), ∃ (s : State), (Ready s 0x0A01 tag k) ∧ (k.par 0 2 < 0xEAF0 ∨ 0xEAFF < k.par 0 2 ∨ 6 ≤ k.par 2 1)) ∧
    (∃ (tag : Word), ∃ (k : Cmd), ∃ (s : State), (Ready s 0x0A01 tag k) ∧ (0xEAF0 ≤ k.par 0 2) ∧ (k.par 0 2 ≤ 0xEAFF) ∧ (k.par 2 1 < 6) ∧ (s.inReset .ldg = true ∨ s.ldgRoom 1 = false)) ∧
    (∃ (tag : Word), ∃ (k : Cmd), ∃ (s : State), (Ready s 0x0A01 tag k) ∧ (0xEAF0 ≤ k.par 0 2) ∧ (k.par 0 2 ≤ 0xEAFF) ∧ (k.par 2 1 < 6) ∧ (s.inReset .ldg = false) ∧ (s.ldgRoom 1 = true)) ∧
    (∃ (tag : Word), ∃ (k : Cmd), ∃ (s : State), (Ready s 0x0A02 tag k) ∧ (s.inReset .ldg = true)) ∧
    (∃ (tag : Word), ∃ (k : Cmd), ∃ (s : State), (Ready s 0x0A02 tag k) ∧ (s.inReset .ldg = false)) ∧
    (∃ (tag : Word), ∃ (k : Cmd), ∃ (s : State), (Ready s 0x0A03 tag k) ∧ (k.par 7 4 = 0 ∨ 1 < k.par 1 1)) ∧
    (∃ (tag : Word), ∃ (k : Cmd), ∃ (s : State), (Ready s 0x0A03 tag k) ∧ (let x := s.series (k.par 0 1); (k.par 7 4 ≠ 0) ∧ (k.par 1 1 ≤ 1) ∧ (s.inReset .ldg = true ∨ ((sgn 32 (k.par 3 4) ≠ x.lo ∨ k.par 7 4 ≠ x.width) ∧ x.en = true)))) ∧
    (∃ (tag : Word), ∃ (k : Cmd), ∃ (s : State), (Ready s 0x0A03 tag k) ∧ (let x := s.series (k.par 0 1); (k.par 7 4 ≠ 0) ∧ (k.par 1 1 ≤ 1) ∧ (s.inReset .ldg = false) ∧ (sgn 32 (k.par 3 4) = x.lo) ∧ (k.par 7 4 = x.width))) ∧
    (∃ (tag : Word), ∃ (k : Cmd), ∃ (s : State), (Ready s 0x0A03 tag k) ∧ (let x := s.series (k.par 0 1); (k.par 7 4 ≠ 0) ∧ (k.par 1 1 ≤ 1) ∧ (s.inReset .ldg = false) ∧ ((sgn 32 (k.par 3 4) ≠ x.lo ∨ k.par 7 4 ≠ x.width)) ∧ (x.en = false))) ∧
    (∃ (tag : Word), ∃ (k : Cmd), ∃ (s : State), (Ready s 0x0A04 tag k) ∧ (s.inReset .ldg = true)) ∧
    (∃ (tag : Word), ∃ (k : Cmd), ∃ (s : State), (Ready s 0x0A04 tag k) ∧ (s.inReset .ldg = false)) :=
  ⟨⟨4096, 65536, by decide +kernel⟩,
   ⟨.host, (w 1 []), by unfold PageOpen; decide +kernel⟩,
   ⟨.svc, 0x6E000, (w 1 []), by unfold PageOpen; decide +kernel⟩,
   ⟨.svc, 0x5E000, (w 1 []), by dsimp only; unfold PageOpen; decide +kernel⟩,
   ⟨State.reset, by decide +kernel⟩,
   ⟨rec1, [], { (w 1 []) with ldg := { (w 0 []).ldg with fifo := [rec1], ready := true } }, by decide +kernel⟩,
   ⟨(w 1 []), by decide +kernel⟩,
   ⟨{ (w 1 []) with ldg := { (w 0 []).ldg with lostDue := 1, ready := true } }, by decide +kernel⟩,
   ⟨{ (w 1 []) with ldg := { (w 0 []).ldg with lostUnknown := true, ready := true } }, by decide +kernel⟩,
   ⟨(w 1 []), by decide +kernel⟩,
   ⟨{ (w 1 []) with ldg := { (w 0 []).ldg with ready := false } }, by decide +kernel⟩,
   ⟨.host, (w 1 []), by unfold PageOpen; decide +kernel⟩,
   ⟨.host, (w 1 []), by unfold PageOpen; decide +kernel⟩,
   ⟨.svc, 5, (w 1 []), by dsimp only; unfold PageOpen; decide +kernel⟩,
   ⟨.svc, 5, { (w 1 []) with ldg := { (w 0 []).ldg with series := [(5, { Series.init with en := true })] } }, by dsimp only; unfold PageOpen; decide +kernel⟩,
   ⟨Series.init, 0, 63, by decide +kernel⟩,
   ⟨.host, 0, (w 1 []), by unfold PageOpen; decide +kernel⟩,
   ⟨.host, 1, (w 1 []), by unfold PageOpen; decide +kernel⟩,
   ⟨(w 1 []), by decide +kernel⟩,
   ⟨State.reset, by decide +kernel⟩,
   ⟨7, (kc 0x0A00 (toLe 4 0 ++ toLe 2 4097) [] 0), (onK (kc 0x0A00 (toLe 4 0 ++ toLe 2 4097) [] 0) (w 1 [])), by dsimp only; unfold Ready; decide +kernel⟩,
   ⟨7, (kc 0x0A00 (toLe 4 0 ++ toLe 2 4096) [] 0), (onK (kc 0x0A00 (toLe 4 0 ++ toLe 2 4096) [] 0) (w 1 [])), by dsimp only; unfold Ready; decide +kernel⟩,
   ⟨7, (kc 0x0A00 (toLe 4 0 ++ toLe 2 1) (zeros 32) 0), (onK (kc 0x0A00 (toLe 4 0 ++ toLe 2 1) (zeros 32) 0) State.reset), by dsimp only; unfold Ready; decide +kernel⟩,
   ⟨7, (kc 0x0A00 (toLe 4 0 ++ toLe 2 1) (zeros 32) 0), (onK (kc 0x0A00 (toLe 4 0 ++ toLe 2 1) (zeros 32) 0) (w 1 [])), by dsimp only; unfold Ready; decide +kernel⟩,
   ⟨7, (kc 0x0A01 (toLe 2 0xEAEF ++ [0]) [] 0), (onK (kc 0x0A01 (toLe 2 0xEAEF ++ [0]) [] 0) (w 1 [])), by unfold Ready; decide +kernel⟩,
   ⟨7, (kc 0x0A01 (toLe 2 0xEAFF ++ [5]) [] 0), (onK (kc 0x0A01 (toLe 2 0xEAFF ++ [5]) [] 0) State.reset), by unfold Ready; decide +kernel⟩,
   ⟨7, (kc 0x0A01 (toLe 2 0xEAFF ++ [5]) [] 0), (onK (kc 0x0A01 (toLe 2 0xEAFF ++ [5]) [] 0) (w 1 [])), by unfold Ready; decide +kernel⟩,
   ⟨7, (kc 0x0A02 [5] [] 0), (onK (kc 0x0A02 [5] [] 0) State.reset), by unfold Ready; decide +kernel⟩,
   ⟨7, (kc 0x0A02 [5] [] 0), (onK (kc 0x0A02 [5] [] 0) (w 1 [])), by unfold Ready; decide +kernel⟩,
   ⟨7, (kc 0x0A03 [5, 2, 0] [] 0), (onK (kc 0x0A03 [5, 2, 0] [] 0) (w 1 [])), by unfold Ready; decide +kernel⟩,
   ⟨7, (kc 0x0A03 ([5, 1, 0] ++ toLe 4 0 ++ toLe 4 1) [] 0), (onK (kc 0x0A03 ([5, 1, 0] ++ toLe 4 0 ++ toLe 4 1) [] 0) State.reset), by dsimp only; unfold Ready; decide +kernel⟩,
   ⟨7, (kc 0x0A03 ([5, 1, 0] ++ toLe 4 0 ++ toLe 4 1) [] 0), (onK (kc 0x0A03 ([5, 1, 0] ++ toLe 4 0 ++ toLe 4 1) [] 0) (w 1 [])), by dsimp only; unfold Ready; decide +kernel⟩,
   ⟨7, (kc 0x0A03 ([5, 1, 0] ++ toLe 4 1 ++ toLe 4 2) [] 0), (onK (kc 0x0A03 ([5, 1, 0] ++ toLe 4 1 ++ toLe 4 2) [] 0) (w 1 [])), by dsimp only; unfold Ready; decide +kernel⟩,
   ⟨7, (kc 0x0A04 [5] [] 0), (onK (kc 0x0A04 [5] [] 0) State.reset), by unfold Ready; decide +kernel⟩,
   ⟨7, (kc 0x0A04 [5] [] 0), (onK (kc 0x0A04 [5] [] 0) (w 1 [])), by unfold Ready; decide +kernel⟩⟩

/-- States and operands that meet the hypotheses of RingFramesAreCheckedAndTakenOnce, clause by clause. -/
theorem test_hyps_RingFramesAreCheckedAndTakenOnce :
    (∃ (e : Bool), ∃ (kind : Nat), ∃ (hops : Nat), ∃ (spos : Nat), ∃ (dpos : Nat), ∃ (seq : Nat), ∃ (src : DWord), ∃ (key : Bytes), ∃ (pay : Bytes), ∃ (s : State), (s.ringKey = some key) ∧ (key.length = 16) ∧ (s.ibgRuns = true) ∧ (s.linkOn e = true) ∧ (kindAlways kind = true) ∧ (hops < 16) ∧ (spos < 16) ∧ (dpos < 16) ∧ (seq < 2 ^ 64) ∧ (pay.length ≤ 2012) ∧ (src ≠ s.modId.ident) ∧ (((dpos = 15 ∧ kind ≠ 0x30) ∨ some dpos = s.ringPos)) ∧ ((∀ q, seqOf s.ibg.seqs src = some q → q < seq))) ∧
    (∃ (e : Bool), ∃ (f : Bytes), ∃ (s : State), (s.ibgRuns = true) ∧ (s.linkOn e = true) ∧ (le f (f.length - 4) 4 ≠ crcOf crc32 (f.take (f.length - 4)))) ∧
    (∃ (e : Bool), ∃ (f : Bytes), ∃ (s : State), (let n := f.length; (let b := f.take (n - 4); (s.ibgRuns = true) ∧ (s.linkOn e = true) ∧ (32 ≤ n) ∧ (n ≤ 2048) ∧ (n = 28 + le b 20 2 + b2n (tst (w32 (byteAt b 1)) 5) * 8) ∧ (le f (n - 4) 4 = crcOf crc32 b) ∧ (kindAlways (byteAt b 0) = true) ∧ (s.macOk b = false)))) ∧
    (∃ (x : RingRx), ∃ (y : RingRx), ∃ (s : State), ((∀ q, seqOf s.ibg.seqs x.src = some q → q < x.seq)) ∧ (y.src = x.src) ∧ (y.seq ≤ x.seq)) ∧
    (∃ (src : DWord), ∃ (q : Nat), ∃ (s : State), (seqOf s.ibg.seqs src = some q)) :=
  ⟨⟨true, 0x10, 15, 14, 15, 0xFFFFFFFFFFFFFFFF, 9, (List.range 16 |>.map (BitVec.ofNat 8)), [], { (w 1 []) with ibg := { (w 0 []).ibg with upE := true } }, by (repeat refine ⟨by decide +kernel, ?_⟩); first | decide +kernel | exact noneImp rfl⟩,
   ⟨true, [1, 0, 0, 0, 0], { (w 1 []) with ibg := { (w 0 []).ibg with upE := true } }, by decide +kernel⟩,
   ⟨true, badMac, { (w 1 []) with ibg := { (w 0 []).ibg with upE := true } }, by dsimp only; decide +kernel⟩,
   ⟨(rr 0x10 []), (rr 0x10 []), (w 1 []), noneImp rfl, by decide +kernel, by decide +kernel⟩,
   ⟨9, 5, { (w 1 []) with ibg := { (w 0 []).ibg with seqs := [(9, 5)] } }, by decide +kernel⟩⟩

/-- States and operands that meet the hypotheses of RingKeepsLinksMapAndMaster, clause by clause. -/
theorem test_hyps_RingKeepsLinksMapAndMaster :
    (∃ (e : Bool), ∃ (s : State), (s.inReset .ibg = false) ∧ (s.linkOn e = false)) ∧
    (∃ (e : Bool), ∃ (s : State), (s.inReset .ibg = false) ∧ (s.linkOn e = true)) ∧
    (∃ (s : State), (s.inReset .ibg = true)) ∧
    (∃ (c : DWord), ∃ (s : State), ∃ p, (p ∈ [(1, Instr.discover), (2, .dlyReq c), (3, .dlyResp), (4, .sync), (0x30, .ringResetFrame), (0x40, .ringData)]) ∧ (s.ringTake p.1 = none)) ∧
    (∃ (x : RingRx), ∃ (t : State), ∃ (s : State), (s.ringTake 1 = some (x, t))) ∧
    (∃ (ports : List Bool), ∃ (kind : Nat), ∃ (e : Bool), ∃ (s : State), (s.ibgRuns = true) ∧ ((s.ringFull = false ∨ kind = 1)) ∧ (e ∈ ports) ∧ (s.linkOn e = true) ∧ (kindAlways kind = false) ∧ ((kindKeyed kind = false ∨ s.ringKey = none))) ∧
    (∃ (ports : List Bool), ∃ (kind : Nat), ∃ (e : Bool), ∃ (s : State), ∃ key, (s.ibgRuns = true) ∧ ((s.ringFull = false ∨ kind = 1)) ∧ (e ∈ ports) ∧ (s.linkOn e = true) ∧ ((kindAlways kind = true ∨ kindKeyed kind = true)) ∧ (s.ringKey = some key)) ∧
    (∃ (x : RingRx), ∃ (t : State), ∃ (s : State), (s.ringTake 0x40 = some (x, t))) ∧
    (∃ (m : List (Option DWord)), ∃ (j : DWord), ∃ (p : Nat), (m.length = 8) ∧ (m.getD p none = some j)) ∧
    (∃ (m : List (Option DWord)), ∃ (p : Nat), (m.length = 8) ∧ (m.getD p none = none) ∧ (p < 8)) ∧
    (∃ (c : DWord), ∃ (s : State), (let t := s.at c; (t.ibgRuns = true))) ∧
    (∃ (c : DWord), ∃ (s : State), (let t := s.at c; (t.ibgRuns = false))) ∧
    (∃ (x : RingRx), ∃ (t : State), ∃ (s : State), (s.ringTake 2 = some (x, t))) ∧
    (∃ (x : RingRx), ∃ (t1 : Nat), ∃ (t : State), ∃ (s : State), (s.ringTake 3 = some (x, t)) ∧ (x.east = true) ∧ (t.ibg.reqE = some t1)) ∧
    (∃ (x : RingRx), ∃ (t1 : Nat), ∃ (t : State), ∃ (s : State), (s.ringTake 3 = some (x, t)) ∧ (x.east = false) ∧ (t.ibg.reqW = some t1)) ∧
    (∃ (x : RingRx), ∃ (t : State), ∃ (s : State), (s.ringTake 3 = some (x, t)) ∧ ((if x.east then t.ibg.reqE else t.ibg.reqW) = none)) ∧
    (∃ (c : DWord), ∃ (p : Nat), ∃ (s : State), (let t := s.at c; (t.ibg.master = some p) ∧ (t.ringPos = some p) ∧ (t.tick % 16 = 0))) ∧
    (∃ (c : DWord), ∃ (s : State), (let t := s.at c; (t.ibg.master = none ∨ t.ibg.master ≠ t.ringPos ∨ t.tick % 16 ≠ 0))) ∧
    (∃ (x : RingRx), ∃ (p : Nat), ∃ (m : List (Option DWord)), ∃ (t : State), ∃ (s : State), (s.ringTake 4 = some (x, t)) ∧ (t.ibg.master = some p) ∧ (t.ibg.map = some m) ∧ (m.getD p none ≠ some x.src)) ∧
    (∃ (x : RingRx), ∃ (p : Nat), ∃ (m : List (Option DWord)), ∃ (t : State), ∃ (s : State), (s.ringTake 4 = some (x, t)) ∧ (t.ibg.master = some p) ∧ (t.ibg.map = some m) ∧ (m.getD p none = some x.src) ∧ (t.rf R.ntm_NTM_CFG 0 2 = 2)) ∧
    (∃ (x : RingRx), ∃ (p : Nat), ∃ (m : List (Option DWord)), ∃ (t : State), ∃ (s : State), (s.ringTake 4 = some (x, t)) ∧ (t.ibg.master = some p) ∧ (t.ibg.map = some m) ∧ (m.getD p none = some x.src) ∧ (t.rf R.ntm_NTM_CFG 0 2 ≠ 2)) ∧
    (∃ (s : State), (s.inReset .ibg = false) ∧ (s.masterGone = true)) ∧
    (∃ (s : State), (s.inReset .ibg = true ∨ s.masterGone = false)) ∧
    (∃ (m : Master), ∃ (v : Word), ∃ (s : State), (PageOpen s .ibg m) ∧ (fld v 16 16 ≠ 0xC0DE)) ∧
    (∃ (m : Master), ∃ (v : Word), ∃ (s : State), (PageOpen s .ibg m) ∧ (fld v 16 16 = 0xC0DE) ∧ (s.ringKey = none)) ∧
    (∃ (m : Master), ∃ (v : Word), ∃ (s : State), (PageOpen s .ibg m) ∧ (fld v 16 16 = 0xC0DE) ∧ (s.ringKey ≠ none) ∧ (s.ibg.map = none)) ∧
    (∃ (m : Master), ∃ (v : Word), ∃ (s : State), (PageOpen s .ibg m) ∧ (fld v 16 16 = 0xC0DE) ∧ (s.ringKey ≠ none) ∧ (s.ibg.map ≠ none)) ∧
    (∃ (x : RingRx), ∃ (t : State), ∃ (s : State), (s.ringTake 0x30 = some (x, t)) ∧ (le x.pay 0 2 = 0xC0DE) ∧ (t.boot.stage ≠ .off) ∧ (t.rb R.ibg_IBG_CFG 8 = true)) ∧
    (∃ (x : RingRx), ∃ (t : State), ∃ (s : State), (s.ringTake 0x30 = some (x, t)) ∧ (le x.pay 0 2 ≠ 0xC0DE ∨ t.rb R.ibg_IBG_CFG 8 = false)) ∧
    (∃ (m : Master), ∃ (v : Word), ∃ (s : State), (PageOpen s .ibg m) ∧ (fld v 16 16 ≠ 0xF0E7)) ∧
    (∃ (m : Master), ∃ (v : Word), ∃ (s : State), (PageOpen s .ibg m) ∧ (fld v 16 16 = 0xF0E7) ∧ ((s.present / 2 ^ fld v 0 3 % 2 = 1 ∨ some (fld v 0 3) = s.ringPos))) ∧
    (∃ (m : Master), ∃ (v : Word), ∃ (s : State), (PageOpen s .ibg m) ∧ (fld v 16 16 = 0xF0E7) ∧ (s.present / 2 ^ fld v 0 3 % 2 ≠ 1) ∧ (some (fld v 0 3) ≠ s.ringPos) ∧ (s.ibg.map = none)) ∧
    (∃ (m : Master), ∃ (v : Word), ∃ (s : State), ∃ q, (PageOpen s .ibg m) ∧ (fld v 16 16 = 0xF0E7) ∧ (s.present / 2 ^ fld v 0 3 % 2 ≠ 1) ∧ (some (fld v 0 3) ≠ s.ringPos) ∧ (s.ibg.map = some q)) ∧
    (∃ (tag : Word), ∃ (k : Cmd), ∃ (s : State), (Ready s 0x0B00 tag k)) ∧
    (∃ (tag : Word), ∃ (k : Cmd), ∃ (s : State), (Ready s 0x0B01 tag k) ∧ (7 < k.par 0 1)) ∧
    (∃ (tag : Word), ∃ (k : Cmd), ∃ (s : State), ∃ e, (Ready s 0x0B01 tag k) ∧ (k.par 0 1 ≤ 7) ∧ (s.rrstError = some e)) ∧
    (∃ (tag : Word), ∃ (k : Cmd), ∃ (s : State), (Ready s 0x0B01 tag k) ∧ (k.par 0 1 ≤ 7) ∧ (s.rrstError = none)) ∧
    (∃ (tag : Word), ∃ (k : Cmd), ∃ (s : State), (Ready s 0x0B02 tag k) ∧ (7 < k.par 0 1)) ∧
    (∃ (tag : Word), ∃ (k : Cmd), ∃ (s : State), ∃ u, (Ready s 0x0B02 tag k) ∧ (k.par 0 1 ≤ 7) ∧ (s.forgetPos (k.par 0 1) = (u, true))) ∧
    (∃ (tag : Word), ∃ (k : Cmd), ∃ (s : State), ∃ u, (Ready s 0x0B02 tag k) ∧ (k.par 0 1 ≤ 7) ∧ (s.forgetPos (k.par 0 1) = (u, false))) :=
  ⟨⟨true, (w 1 []), by decide +kernel⟩,
   ⟨true, { (w 1 []) with ibg := { (w 0 []).ibg with upE := true } }, by decide +kernel⟩,
   ⟨State.reset, by decide +kernel⟩,
   ⟨0, (w 1 []), (4, .sync), by decide +kernel⟩,
   ⟨(rr 1 []), (w 1 []), (inb (rr 1 []) (w 1 [])), by decide +kernel⟩,
   ⟨[true], 2, true, { (w 1 []) with ibg := { (w 0 []).ibg with upE := true } }, by decide +kernel⟩,
   ⟨[true], 0x30, true, { (w 1 []) with ibg := { (w 0 []).ibg with upE := true } }, (List.range 16 |>.map (BitVec.ofNat 8)), by decide +kernel⟩,
   ⟨(rr 0x40 []), (w 1 []), (inb (rr 0x40 []) (w 1 [])), by decide +kernel⟩,
   ⟨map3, 9, 3, by decide +kernel⟩,
   ⟨map3, 7, by decide +kernel⟩,
   ⟨0, (w 1 []), by dsimp only; decide +kernel⟩,
   ⟨0, State.reset, by dsimp only; decide +kernel⟩,
   ⟨(rr 2 []), (w 1 []), (inb (rr 2 []) (w 1 [])), by decide +kernel⟩,
   ⟨(rr 3 (zeros 16)), 7, { (w 1 []) with ibg := { (w 0 []).ibg with reqE := some 7 } }, (inb (rr 3 (zeros 16)) { (w 1 []) with ibg := { (w 0 []).ibg with reqE := some 7 } }), by decide +kernel⟩,
   ⟨{ rr 3 (zeros 16) with east := false }, 7, { (w 1 []) with ibg := { (w 0 []).ibg with reqW := some 7 } }, (inb { rr 3 (zeros 16) with east := false } { (w 1 []) with ibg := { (w 0 []).ibg with reqW := some 7 } }), by decide +kernel⟩,
   ⟨(rr 3 (zeros 16)), (w 1 []), (inb (rr 3 (zeros 16)) (w 1 [])), by decide +kernel⟩,
   ⟨0, 0, { (w 1 []) with ntm := { (w 0 []).ntm with tick := 256048 }, ibg := { (w 0 []).ibg with master := some 0, map := some map3 } }, by dsimp only; decide +kernel⟩,
   ⟨0, (w 1 []), by dsimp only; decide +kernel⟩,
   ⟨(rr 4 (zeros 16)), 2, map3, { (w 1 []) with ibg := { (w 0 []).ibg with master := some 2, map := some map3 } }, (inb (rr 4 (zeros 16)) { (w 1 []) with ibg := { (w 0 []).ibg with master := some 2, map := some map3 } }), by decide +kernel⟩,
   ⟨(rr 4 (zeros 16)), 3, map3, { (w 1 [(R.ntm_NTM_CFG, 2)]) with ibg := { (w 0 []).ibg with master := some 3, map := some map3 } }, (inb (rr 4 (zeros 16)) { (w 1 [(R.ntm_NTM_CFG, 2)]) with ibg := { (w 0 []).ibg with master := some 3, map := some map3 } }), by decide +kernel⟩,
   ⟨(rr 4 (zeros 16)), 3, map3, { (w 1 [(R.ntm_NTM_CFG, 1)]) with ibg := { (w 0 []).ibg with master := some 3, map := some map3 } }, (inb (rr 4 (zeros 16)) { (w 1 [(R.ntm_NTM_CFG, 1)]) with ibg := { (w 0 []).ibg with master := some 3, map := some map3 } }), by decide +kernel⟩,
   ⟨{ (w 1 []) with ibg := { (w 0 []).ibg with master := some 3, map := some map3 } }, by decide +kernel⟩,
   ⟨(w 1 []), by decide +kernel⟩,
   ⟨.host, 0xC0DF0000, (w 1 []), by unfold PageOpen; decide +kernel⟩,
   ⟨.host, 0xC0DE0000, (w 1 [(R.ibg_IBG_CFG, 0)]), by unfold PageOpen; decide +kernel⟩,
   ⟨.host, 0xC0DE0000, (w 1 []), by unfold PageOpen; decide +kernel⟩,
   ⟨.host, 0xC0DE0000, { (w 1 []) with ibg := { (w 0 []).ibg with map := some map3 } }, by unfold PageOpen; decide +kernel⟩,
   ⟨(rr 0x30 [0xDE, 0xC0]), (w 1 [(R.ibg_IBG_CFG, 0x141)]), (inb (rr 0x30 [0xDE, 0xC0]) (w 1 [(R.ibg_IBG_CFG, 0x141)])), by decide +kernel⟩,
   ⟨(rr 0x30 [0xDE, 0xC0]), (w 1 []), (inb (rr 0x30 [0xDE, 0xC0]) (w 1 [])), by decide +kernel⟩,
   ⟨.host, 0xF0E80000, (w 1 []), by unfold PageOpen; decide +kernel⟩,
   ⟨.host, 0xF0E70000, { (w 1 []) with ibg := { (w 0 []).ibg with map := some map3 } }, by unfold PageOpen; decide +kernel⟩,
   ⟨.host, 0xF0E70003, (w 1 []), by unfold PageOpen; decide +kernel⟩,
   ⟨.host, 0xF0E70003, { (w 1 []) with ibg := { (w 0 []).ibg with map := some map3 } }, map3, by unfold PageOpen; decide +kernel⟩,
   ⟨7, (kc 0x0B00 [] [] 0), (onK (kc 0x0B00 [] [] 0) (w 1 [])), by unfold Ready; decide +kernel⟩,
   ⟨7, (kc 0x0B01 [8] [] 0), (onK (kc 0x0B01 [8] [] 0) (w 1 [])), by unfold Ready; decide +kernel⟩,
   ⟨7, (kc 0x0B01 [7] [] 0), (onK (kc 0x0B01 [7] [] 0) (w 1 [])), 0x81, by unfold Ready; decide +kernel⟩,
   ⟨7, (kc 0x0B01 [7] [] 0), (onK (kc 0x0B01 [7] [] 0) { (w 1 []) with ibg := { (w 0 []).ibg with map := some map3 } }), by unfold Ready; decide +kernel⟩,
   ⟨7, (kc 0x0B02 [8] [] 0), (onK (kc 0x0B02 [8] [] 0) (w 1 [])), by unfold Ready; decide +kernel⟩,
   ⟨7, (kc 0x0B02 [7] [] 0), (onK (kc 0x0B02 [7] [] 0) (w 1 [])), (onK (kc 0x0B02 [7] [] 0) (w 1 [])), by unfold Ready; decide +kernel⟩,
   ⟨7, (kc 0x0B02 [0] [] 0), (onK (kc 0x0B02 [0] [] 0) { (w 1 []) with ibg := { (w 0 []).ibg with map := some map3 } }), (onK (kc 0x0B02 [0] [] 0) { (w 1 []) with ibg := { (w 0 []).ibg with map := some map3 } }), by unfold Ready; decide +kernel⟩⟩

/-- States and operands that meet the hypotheses of StandbyWatchesTakesOverAndIsFed, clause by clause. -/
theorem test_hyps_StandbyWatchesTakesOverAndIsFed :
    (∃ (s : State), (s.beats = true)) ∧
    (∃ (s : State), (s.beats = false)) ∧
    (∃ (s : State), ∃ p, (p ∈ [(5, Instr.heartbeat), (0x10, .ckptData), (0x11, .ckptAck)]) ∧ (s.ringTake p.1 = none)) ∧
    (∃ (x : RingRx), ∃ (t : State), ∃ (s : State), ∃ m, ∃ p, (s.ringTake 5 = some (x, t)) ∧ (t.ibg.map = some m) ∧ (posIn m x.src = some p)) ∧
    (∃ (x : RingRx), ∃ (t : State), ∃ (s : State), (s.ringTake 5 = some (x, t)) ∧ (t.ibg.map = none) ∧ (8 ≤ x.spos)) ∧
    (∃ (x : RingRx), ∃ (s : State), (s.runs .fov = true) ∧ (s.isHead = true) ∧ (le x.pay 2 2 = s.net.seg) ∧ (byteAt x.pay 0 % 4 = 3)) ∧
    (∃ (x : RingRx), ∃ (s : State), (s.runs .fov = true) ∧ (s.isStandby = true) ∧ (le x.pay 2 2 = s.watchSeg) ∧ (byteAt x.pay 0 / 4 % 2 = 1)) ∧
    (∃ (s : State), (s.inReset .fov = false) ∧ (s.isStandby = true) ∧ (s.fov.pathLost = false) ∧ (((8 ≤ s.fov.silA ∧ s.fov.silB = 0) ∨ (8 ≤ s.fov.silB ∧ s.fov.silA = 0)))) ∧
    (∃ (s : State), (s.isStandby = true) ∧ (s.runs .fov = true) ∧ (s.fov.taking = none) ∧ (s.ringFull = false) ∧ (s.silentFor = none)) ∧
    (∃ (s : State), (s.isStandby = true) ∧ (s.runs .fov = true) ∧ (s.fov.taking = none) ∧ (s.ringFull = false) ∧ (s.silentFor = some false) ∧ (s.fov.st = 4)) ∧
    (∃ (s : State), (s.isStandby = true) ∧ (s.runs .fov = true) ∧ (s.fov.taking = none) ∧ (s.ringFull = false) ∧ (s.silentFor = some false) ∧ (s.fov.st ≠ 4) ∧ (s.fov.blockedSent = false)) ∧
    (∃ (s : State), (s.isStandby = true) ∧ (s.runs .fov = true) ∧ (s.fov.taking = none) ∧ (s.ringFull = false) ∧ (s.silentFor = some true) ∧ (s.fov.partLost = false)) ∧
    (∃ (s : State), (s.isStandby = true) ∧ (s.runs .fov = true) ∧ (s.fov.taking = none) ∧ (s.ringFull = false) ∧ ((s.silentFor = some true ∧ s.fov.partLost = true) ∨ (s.silentFor = some false ∧ s.fov.st ≠ 4 ∧ s.fov.blockedSent = true))) ∧
    (∃ (s : State), (s.isStandby = false ∨ s.runs .fov = false ∨ s.fov.taking.isSome = true ∨ s.ringFull = true)) ∧
    (∃ (q : Nat × Nat × Nat), ∃ (s : State), (s.activeHead = true) ∧ (s.takes .fov = true) ∧ (s.holds = true) ∧ (s.tick % 256 = 128) ∧ (s.sf % 64 = 0) ∧ (s.standbyNow = some q)) ∧
    (∃ (s : State), (s.activeHead = true) ∧ (s.takes .fov = true) ∧ (s.holds = true) ∧ (s.tick % 256 = 128) ∧ (s.sf % 64 = 0) ∧ (s.standbyNow = none)) ∧
    (∃ (s : State), (s.activeHead = false ∨ s.takes .fov = false ∨ s.holds = false ∨ s.tick % 256 ≠ 128 ∨ s.sf % 64 ≠ 0)) ∧
    (∃ (x : RingRx), ∃ (t : State), ∃ (s : State), (s.ringTake 0x10 = some (x, t)) ∧ (t.isStandby = true) ∧ (t.takes .fov = true) ∧ (t.fov.partner = some x.spos)) ∧
    (∃ (x : RingRx), ∃ (t : State), ∃ (s : State), (s.ringTake 0x10 = some (x, t)) ∧ (t.isStandby = false ∨ t.takes .fov = false ∨ t.fov.partner ≠ some x.spos)) ∧
    (∃ (p : Bytes), ∃ (s : State), (s.fov.asm = none) ∧ (2 ≤ le p 6 2) ∧ (le p 4 2 ≠ le p 6 2 - 1)) ∧
    (∃ (x : RingRx), ∃ (k : CkTx), ∃ (t : State), ∃ (s : State), (s.ringTake 0x11 = some (x, t)) ∧ (t.fov.tx = some k) ∧ (le x.pay 0 2 = k.full) ∧ (le x.pay 2 2 = k.incr) ∧ (x.spos = k.dest) ∧ (byteAt x.pay 4 = 1)) ∧
    (∃ (x : RingRx), ∃ (k : CkTx), ∃ (t : State), ∃ (s : State), (s.ringTake 0x11 = some (x, t)) ∧ (t.fov.tx = some k) ∧ (le x.pay 0 2 = k.full) ∧ (le x.pay 2 2 = k.incr) ∧ (x.spos = k.dest) ∧ (byteAt x.pay 4 ≠ 1)) ∧
    (∃ (x : RingRx), ∃ (t : State), ∃ (s : State), (s.ringTake 0x11 = some (x, t)) ∧ ((∀ k, t.fov.tx = some k → le x.pay 0 2 ≠ k.full ∨ le x.pay 2 2 ≠ k.incr ∨ x.spos ≠ k.dest))) ∧
    (∃ (k : CkTx), ∃ (s : State), (s.fov.tx = some k) ∧ (s.fov.asm = none) ∧ ((k.sf + 64) * 256 + 128 ≤ s.tick)) ∧
    (∃ (k : CkTx), ∃ (s : State), (s.fov.tx = some k) ∧ (s.fov.asm = none) ∧ (s.tick < (k.sf + 64) * 256 + 128)) ∧
    (∃ (a : CkAsm), ∃ (s : State), (s.fov.tx = none) ∧ (s.fov.asm = some a) ∧ ((a.sf + 64) * 256 + 128 ≤ s.tick)) ∧
    (∃ (a : CkAsm), ∃ (s : State), (s.fov.tx = none) ∧ (s.fov.asm = some a) ∧ (s.tick < (a.sf + 64) * 256 + 128)) ∧
    (∃ (s : State), (s.fov.tx = none) ∧ (s.fov.asm = none)) ∧
    (∃ (s : State), (s.isHead = true) ∧ (s.inReset .fov = false) ∧ (s.net.seg ≠ 0) ∧ (s.segTaken = true)) ∧
    (∃ (s : State), (s.segTaken = false ∨ s.isHead = false ∨ s.inReset .fov = true ∨ s.net.seg = 0)) ∧
    (∃ (m : Master), ∃ (v : Word), ∃ (s : State), (PageOpen s .fov m) ∧ (s.fov.kept.isSome = true) ∧ (fld v 0 16 ≠ s.watchSeg)) ∧
    (∃ (m : Master), ∃ (v : Word), ∃ (s : State), (PageOpen s .fov m) ∧ ((s.fov.kept.isSome = true → fld v 0 16 = s.watchSeg)) ∧ (tst v 16 = true) ∧ (s.img = none)) ∧
    (∃ (m : Master), ∃ (v : Word), ∃ (s : State), (PageOpen s .fov m) ∧ ((s.fov.kept.isSome = true → fld v 0 16 = s.watchSeg)) ∧ ((tst v 16 = true → s.img ≠ none))) ∧
    (∃ (m : Master), ∃ (s : State), (PageOpen s .fov m)) ∧
    (∃ (m : Master), ∃ (v : Word), ∃ (s : State), (PageOpen s .fov m) ∧ (fld v 16 16 ≠ 0x5EED)) ∧
    (∃ (m : Master), ∃ (v : Word), ∃ (s : State), (PageOpen s .fov m) ∧ (fld v 16 16 = 0x5EED) ∧ (tst v 0 = true)) ∧
    (∃ (m : Master), ∃ (v : Word), ∃ (s : State), (PageOpen s .fov m) ∧ (fld v 16 16 = 0x5EED) ∧ (tst v 0 = false)) ∧
    (∃ (tag : Word), ∃ (k : Cmd), ∃ (s : State), (Ready s 0x0B05 tag k)) ∧
    (∃ (tag : Word), ∃ (k : Cmd), ∃ (s : State), (Ready s 0x0B04 tag k)) ∧
    (∃ (tag : Word), ∃ (k : Cmd), ∃ (s : State), (Ready s 0x0B03 tag k) ∧ (1 < k.par 2 1)) ∧
    (∃ (tag : Word), ∃ (k : Cmd), ∃ (s : State), (Ready s 0x0B03 tag k) ∧ (k.par 2 1 ≤ 1) ∧ (s.inReset .fov = true)) ∧
    (∃ (tag : Word), ∃ (k : Cmd), ∃ (s : State), (Ready s 0x0B03 tag k) ∧ (k.par 2 1 ≤ 1) ∧ (s.inReset .fov = false) ∧ (s.fov.kept.isSome = true) ∧ (k.par 0 2 ≠ s.watchSeg)) ∧
    (∃ (tag : Word), ∃ (k : Cmd), ∃ (s : State), (Ready s 0x0B03 tag k) ∧ (k.par 2 1 = 1) ∧ (s.inReset .fov = false) ∧ ((s.fov.kept.isSome = true → k.par 0 2 = s.watchSeg)) ∧ (s.img = none)) ∧
    (∃ (tag : Word), ∃ (k : Cmd), ∃ (s : State), (Ready s 0x0B03 tag k) ∧ (k.par 2 1 ≤ 1) ∧ (s.inReset .fov = false) ∧ ((s.fov.kept.isSome = true → k.par 0 2 = s.watchSeg)) ∧ ((k.par 2 1 = 1 → s.img ≠ none))) :=
  ⟨⟨(w 3 []), by decide +kernel⟩,
   ⟨(w 3 [(R.cry_CRY_IND, 2)]), by decide +kernel⟩,
   ⟨(w 3 []), (0x11, .ckptAck), by decide +kernel⟩,
   ⟨(rr 5 (zeros 16)), { (w 3 []) with ibg := { (w 0 []).ibg with map := some map3 } }, (inb (rr 5 (zeros 16)) { (w 3 []) with ibg := { (w 0 []).ibg with map := some map3 } }), map3, 3, by decide +kernel⟩,
   ⟨{ rr 5 (zeros 16) with spos := 15 }, (w 3 []), (inb { rr 5 (zeros 16) with spos := 15 } (w 3 [])), by decide +kernel⟩,
   ⟨(rr 5 [3, 4, 1, 0]), { (w 1 []) with net := { (w 0 []).net with seg := 1 } }, by decide +kernel⟩,
   ⟨(rr 5 [4, 0, 1, 0]), (w 3 [(R.fov_FOV_CFG, 1)]), by decide +kernel⟩,
   ⟨{ (w 3 []) with fov := { (w 0 []).fov with silA := 8 } }, by decide +kernel⟩,
   ⟨(w 3 []), by decide +kernel⟩,
   ⟨{ (w 3 []) with fov := { (w 0 []).fov with silA := 8, silB := 8, st := 4 } }, by decide +kernel⟩,
   ⟨{ (w 3 []) with fov := { (w 0 []).fov with silA := 8, silB := 8, st := 3 } }, by decide +kernel⟩,
   ⟨{ (w 3 []) with fov := { (w 0 []).fov with silA := 8, silB := 8 }, bcn := { (w 0 []).bcn with headSfs := [999] } }, by decide +kernel⟩,
   ⟨{ (w 3 []) with fov := { (w 0 []).fov with silA := 8, silB := 8, st := 3, blockedSent := true } }, by decide +kernel⟩,
   ⟨(w 1 []), by decide +kernel⟩,
   ⟨(3, 4, 0), { (w 1 []) with ntm := { (w 0 []).ntm with tick := 262272 }, net := { (w 0 []).net with seg := 1 }, fov := { (w 0 []).fov with pair := some (0, 3, 4, 0) } }, by decide +kernel⟩,
   ⟨{ (w 1 []) with ntm := { (w 0 []).ntm with tick := 262272 }, net := { (w 0 []).net with seg := 1 } }, by decide +kernel⟩,
   ⟨(w 3 []), by decide +kernel⟩,
   ⟨(rr 0x10 (zeros 16)), { (w 3 []) with fov := { (w 0 []).fov with partner := some 3 } }, (inb (rr 0x10 (zeros 16)) { (w 3 []) with fov := { (w 0 []).fov with partner := some 3 } }), by decide +kernel⟩,
   ⟨(rr 0x10 (zeros 16)), { (w 3 []) with fov := { (w 0 []).fov with partner := some 2 } }, (inb (rr 0x10 (zeros 16)) { (w 3 []) with fov := { (w 0 []).fov with partner := some 2 } }), by decide +kernel⟩,
   ⟨[1, 0, 2, 0, 0, 0, 2, 0, 1], (w 3 []), by decide +kernel⟩,
   ⟨(rr 0x11 [1, 0, 2, 0, 1]), ⟨3, 1, 2, true, 0, [], []⟩, { (w 1 []) with fov := { (w 0 []).fov with tx := some ⟨3, 1, 2, true, 0, [], []⟩ } }, (inb (rr 0x11 [1, 0, 2, 0, 1]) { (w 1 []) with fov := { (w 0 []).fov with tx := some ⟨3, 1, 2, true, 0, [], []⟩ } }), by decide +kernel⟩,
   ⟨(rr 0x11 [1, 0, 2, 0, 0]), ⟨3, 1, 2, true, 0, [], []⟩, { (w 1 []) with fov := { (w 0 []).fov with tx := some ⟨3, 1, 2, true, 0, [], []⟩ } }, (inb (rr 0x11 [1, 0, 2, 0, 0]) { (w 1 []) with fov := { (w 0 []).fov with tx := some ⟨3, 1, 2, true, 0, [], []⟩ } }), by decide +kernel⟩,
   ⟨(rr 0x11 [1, 0, 2, 0, 1]), (w 1 []), (inb (rr 0x11 [1, 0, 2, 0, 1]) (w 1 [])), by decide +kernel⟩,
   ⟨⟨3, 1, 2, true, 936, [], []⟩, { (w 1 []) with fov := { (w 0 []).fov with tx := some ⟨3, 1, 2, true, 936, [], []⟩ }, ntm := { (w 0 []).ntm with tick := 256128 } }, by decide +kernel⟩,
   ⟨⟨3, 1, 2, true, 936, [], []⟩, { (w 1 []) with fov := { (w 0 []).fov with tx := some ⟨3, 1, 2, true, 936, [], []⟩ }, ntm := { (w 0 []).ntm with tick := 256127 } }, by decide +kernel⟩,
   ⟨⟨1, 2, 1, 936, [], true, 0⟩, { (w 3 []) with fov := { (w 0 []).fov with asm := some ⟨1, 2, 1, 936, [], true, 0⟩ }, ntm := { (w 0 []).ntm with tick := 256128 } }, by decide +kernel⟩,
   ⟨⟨1, 2, 1, 936, [], true, 0⟩, { (w 3 []) with fov := { (w 0 []).fov with asm := some ⟨1, 2, 1, 936, [], true, 0⟩ }, ntm := { (w 0 []).ntm with tick := 256127 } }, by decide +kernel⟩,
   ⟨(w 1 []), by decide +kernel⟩,
   ⟨{ (w 1 []) with net := { (w 0 []).net with seg := 1 }, ibg := { (w 0 []).ibg with map := some map3, hb := [none, none, none, some ⟨0, [8, 0, 1, 0]⟩, none, none, none, none] } }, by decide +kernel⟩,
   ⟨(w 1 []), by decide +kernel⟩,
   ⟨.host, 2, { (w 3 [(R.fov_FOV_CFG, 1)]) with fov := { (w 0 []).fov with kept := some (1, 0) } }, by unfold PageOpen; decide +kernel⟩,
   ⟨.host, 0x10001, (w 3 []), by unfold PageOpen; decide +kernel⟩,
   ⟨.host, 1, (w 3 []), by unfold PageOpen; decide +kernel⟩,
   ⟨.host, (w 1 []), by unfold PageOpen; decide +kernel⟩,
   ⟨.host, 0x5EEE0001, (w 1 []), by unfold PageOpen; decide +kernel⟩,
   ⟨.host, 0x5EED0001, (w 1 []), by unfold PageOpen; decide +kernel⟩,
   ⟨.host, 0x5EED0000, (w 1 []), by unfold PageOpen; decide +kernel⟩,
   ⟨7, (kc 0x0B05 [] [] 0), (onK (kc 0x0B05 [] [] 0) (w 1 [])), by unfold Ready; decide +kernel⟩,
   ⟨7, (kc 0x0B04 [] [] 0), (onK (kc 0x0B04 [] [] 0) (w 1 [])), by unfold Ready; decide +kernel⟩,
   ⟨7, (kc 0x0B03 [1, 0, 2] [] 0), (onK (kc 0x0B03 [1, 0, 2] [] 0) (w 3 [])), by unfold Ready; decide +kernel⟩,
   ⟨7, (kc 0x0B03 [1, 0, 1] [] 0), (onK (kc 0x0B03 [1, 0, 1] [] 0) State.reset), by unfold Ready; decide +kernel⟩,
   ⟨7, (kc 0x0B03 [2, 0, 1] [] 0), (onK (kc 0x0B03 [2, 0, 1] [] 0) { (w 3 [(R.fov_FOV_CFG, 1)]) with fov := { (w 0 []).fov with kept := some (1, 0) } }), by unfold Ready; decide +kernel⟩,
   ⟨7, (kc 0x0B03 [2, 0, 1] [] 0), (onK (kc 0x0B03 [2, 0, 1] [] 0) (w 3 [])), by unfold Ready; decide +kernel⟩,
   ⟨7, (kc 0x0B03 [2, 0, 0] [] 0), (onK (kc 0x0B03 [2, 0, 0] [] 0) (w 3 [])), by unfold Ready; decide +kernel⟩⟩

/-- States and operands that meet the hypotheses of RingModeChangesAreDecidedOnce, clause by clause. -/
theorem test_hyps_RingModeChangesAreDecidedOnce :
    (∃ (s : State), ∃ p, (p ∈ [(0x20, Instr.prepare), (0x21, .ready), (0x22, .refuse), (0x23, .ringCommit), (0x24, .ringAbort), (0x25, .ringQuery), (0x26, .ringConfirm)]) ∧ (s.ringTake p.1 = none)) ∧
    (∃ (x : RingRx), ∃ (u : State), ∃ (t : State), ∃ (s : State), (s.ringTake 0x20 = some (x, t)) ∧ (t.isHead = true) ∧ (t.inReset .lvl = false) ∧ ((∀ q, t.rmc.part = some q → q.id ≠ le x.pay 0 4)) ∧ (t.ringStage x = (u, none))) ∧
    (∃ (x : RingRx), ∃ (u : State), ∃ (t : State), ∃ (s : State), ∃ e, (s.ringTake 0x20 = some (x, t)) ∧ (t.isHead = true) ∧ (t.inReset .lvl = false) ∧ ((∀ q, t.rmc.part = some q → q.id ≠ le x.pay 0 4)) ∧ (t.ringStage x = (u, some e))) ∧
    (∃ (x : RingRx), ∃ (q : RingPart), ∃ (t : State), ∃ (s : State), (s.ringTake 0x20 = some (x, t)) ∧ (t.isHead = true) ∧ (t.inReset .lvl = false) ∧ (t.rmc.part = some q) ∧ (q.id = le x.pay 0 4) ∧ (t.ringSt = 1)) ∧
    (∃ (x : RingRx), ∃ (t : State), ∃ (s : State), (s.ringTake 0x20 = some (x, t)) ∧ (t.isHead = false ∨ t.inReset .lvl = true)) ∧
    (∃ (s : State), (s.lvl.ann.isSome = true ∨ s.ringBusy = true)) ∧
    (∃ (x : RingRx), ∃ (s : State), (s.lvl.ann = none) ∧ (s.ringBusy = false) ∧ (s.timeFor (leWord x.pay 16) = false)) ∧
    (∃ (x : RingRx), ∃ (s : State), (s.lvl.ann = none) ∧ (s.ringBusy = false) ∧ (s.timeFor (leWord x.pay 16) = true) ∧ (modeParamOk (slice x.pay 4 12) = false)) ∧
    (∃ (x : RingRx), ∃ (k : RingCoord), ∃ (t : State), ∃ (s : State), (s.ringTake 0x21 = some (x, t)) ∧ (t.rmc.coord = some k) ∧ (k.id = le x.pay 0 4) ∧ (k.decided = none)) ∧
    (∃ (x : RingRx), ∃ (k : RingCoord), ∃ (t : State), ∃ (s : State), (s.ringTake 0x22 = some (x, t)) ∧ (t.rmc.coord = some k) ∧ (k.id = le x.pay 0 4) ∧ (k.decided = none)) ∧
    (∃ (x : RingRx), ∃ (t : State), ∃ (s : State), ((∀ k, t.rmc.coord = some k → k.id ≠ le x.pay 0 4 ∨ k.decided ≠ none)) ∧ (s.ringTake 0x21 = some (x, t))) ∧
    (∃ (x : RingRx), ∃ (t : State), ∃ (s : State), ((∀ k, t.rmc.coord = some k → k.id ≠ le x.pay 0 4 ∨ k.decided ≠ none)) ∧ (s.ringTake 0x22 = some (x, t))) ∧
    (∃ (k : RingCoord), ∃ (s : State), (s.rmc.coord = some k) ∧ (k.decided = none) ∧ ((k.answered = true ∨ k.d ≤ s.tick))) ∧
    (∃ (k : RingCoord), ∃ (s : State), (s.rmc.coord = some k) ∧ (k.decided = none) ∧ (k.answered = false) ∧ (s.tick < k.d)) ∧
    (∃ (s : State), ((∀ k, s.rmc.coord = some k → k.decided ≠ none))) ∧
    (∃ (s : State), ((∀ k, s.rmc.coord = some k → k.decided = none))) ∧
    (∃ (k : RingCoord), ∃ (d : Bool), ∃ (s : State), (s.rmc.coord = some k) ∧ (k.decided = some d) ∧ (s.tick < k.c) ∧ ((k.parts.all fun p => k.conf.contains p) = false)) ∧
    (∃ (k : RingCoord), ∃ (d : Bool), ∃ (s : State), (s.rmc.coord = some k) ∧ (k.decided = some d) ∧ (k.c ≤ s.tick ∨ (k.parts.all fun p => k.conf.contains p) = true)) ∧
    (∃ (x : RingRx), ∃ (p : RingPart), ∃ (t : State), ∃ (s : State), (t.rmc.part = some p) ∧ (p.id = le x.pay 0 4) ∧ (t.ringSt = 1) ∧ (s.ringTake 0x23 = some (x, t))) ∧
    (∃ (x : RingRx), ∃ (p : RingPart), ∃ (t : State), ∃ (s : State), (t.rmc.part = some p) ∧ (p.id = le x.pay 0 4) ∧ (t.ringSt = 1) ∧ (s.ringTake 0x24 = some (x, t))) ∧
    (∃ (x : RingRx), ∃ (t : State), ∃ (s : State), (t.rmc.part = none) ∧ (t.rmc.coord = none) ∧ (s.ringTake 0x23 = some (x, t))) ∧
    (∃ (x : RingRx), ∃ (t : State), ∃ (s : State), (t.rmc.part = none) ∧ (t.rmc.coord = none) ∧ (s.ringTake 0x24 = some (x, t))) ∧
    (∃ (x : RingRx), ∃ (t : State), ∃ (s : State), ∃ d, (s.ringTake 0x25 = some (x, t)) ∧ (t.knownOf (le x.pay 0 4) = some d)) ∧
    (∃ (x : RingRx), ∃ (t : State), ∃ (s : State), (s.ringTake 0x25 = some (x, t)) ∧ (t.knownOf (le x.pay 0 4) = none)) ∧
    (∃ (x : RingRx), ∃ (t : State), ∃ (s : State), (s.ringTake 0x26 = some (x, t)) ∧ (let d := byteAt x.pay 4; ((d = 1 ∨ d = 2)))) ∧
    (∃ (x : RingRx), ∃ (t : State), ∃ (s : State), (s.ringTake 0x26 = some (x, t)) ∧ (let d := byteAt x.pay 4; (d = 0 ∨ 2 < d))) ∧
    (∃ (o : Nat × Nat), ∃ (s : State), (s.ringOwn = some o) ∧ (s.ringSt = 4)) ∧
    (∃ (o : Nat × Nat), ∃ (s : State), (s.ringOwn = some o) ∧ (s.ringSt = 4) ∧ (o.2 + 16384 ≤ s.tick)) ∧
    (∃ (o : Nat × Nat), ∃ (s : State), (s.ringOwn = some o) ∧ (s.ringSt = 4) ∧ (s.tick < o.2 + 16384)) ∧
    (∃ (s : State), (s.ringOwn = none ∨ s.ringSt ≠ 4)) ∧
    (∃ (tag : Word), ∃ (k : Cmd), ∃ (s : State), (Ready s 0x0503 tag k) ∧ (byteAt k.e.param 5 = 1) ∧ (k.e.length ≠ 128)) ∧
    (∃ (tag : Word), ∃ (k : Cmd), ∃ (s : State), (Ready s 0x0503 tag k) ∧ ((byteAt k.e.param 5 = 1 → k.e.length = 128)) ∧ (modeParamOk k.e.param = false)) ∧
    (∃ (tag : Word), ∃ (k : Cmd), ∃ (s : State), (Ready s 0x0503 tag k) ∧ ((byteAt k.e.param 5 = 1 → k.e.length = 128)) ∧ (modeParamOk k.e.param = true) ∧ ((s.isHead = false ∨ s.takes .lvl = false))) ∧
    (∃ (tag : Word), ∃ (k : Cmd), ∃ (s : State), (Ready s 0x0503 tag k) ∧ ((byteAt k.e.param 5 = 1 → k.e.length = 128)) ∧ (modeParamOk k.e.param = true) ∧ (s.isHead = true) ∧ (s.takes .lvl = true) ∧ (s.holds = false)) ∧
    (∃ (tag : Word), ∃ (k : Cmd), ∃ (s : State), (Ready s 0x0503 tag k) ∧ ((byteAt k.e.param 5 = 1 → k.e.length = 128)) ∧ (modeParamOk k.e.param = true) ∧ (s.isHead = true) ∧ (s.takes .lvl = true) ∧ (s.holds = true) ∧ (s.ringBusy = true)) ∧
    (∃ (tag : Word), ∃ (k : Cmd), ∃ (s : State), ∃ u, (Ready s 0x0503 tag k) ∧ ((byteAt k.e.param 5 = 1 → k.e.length = 128)) ∧ (modeParamOk k.e.param = true) ∧ (s.isHead = true) ∧ (s.takes .lvl = true) ∧ (s.holds = true) ∧ (s.ringBusy = false) ∧ (s.ringBegin (modeParam k.e.param k.bytes) (s.firstC 10) tag = (u, none))) ∧
    (∃ (tag : Word), ∃ (k : Cmd), ∃ (s : State), (Ready s 0x0503 tag k) ∧ ((byteAt k.e.param 5 = 1 → k.e.length = 128)) ∧ (modeParamOk k.e.param = true) ∧ (s.isHead = true) ∧ (s.takes .lvl = true) ∧ (s.holds = true) ∧ (s.ringBusy = false) ∧ (s.lvl.ann = none) ∧ (byteAt k.e.param 5 = 0)) ∧
    (∃ (tag : Word), ∃ (k : Cmd), ∃ (s : State), (Ready s 0x0503 tag k) ∧ ((byteAt k.e.param 5 = 1 → k.e.length = 128)) ∧ (modeParamOk k.e.param = true) ∧ (s.isHead = true) ∧ (s.takes .lvl = true) ∧ (s.holds = true) ∧ (s.ringBusy = false) ∧ (s.lvl.ann.isSome = true)) :=
  ⟨⟨(w 1 []), (0x26, .ringConfirm), by decide +kernel⟩,
   ⟨(rr 0x20 prep), (State.ringStage (w 1 []) (rr 0x20 prep)).1, (w 1 []), (inb (rr 0x20 prep) (w 1 [])), by (repeat refine ⟨by decide +kernel, ?_⟩); first | decide +kernel | exact ⟨noneImp rfl, by decide +kernel⟩⟩,
   ⟨(rr 0x20 prep), { (w 1 []) with lvl := { (w 0 []).lvl with ann := some ann7 } }, { (w 1 []) with lvl := { (w 0 []).lvl with ann := some ann7 } }, (inb (rr 0x20 prep) { (w 1 []) with lvl := { (w 0 []).lvl with ann := some ann7 } }), 1, by (repeat refine ⟨by decide +kernel, ?_⟩); first | decide +kernel | exact ⟨noneImp rfl, by decide +kernel⟩⟩,
   ⟨(rr 0x20 prep), ⟨7, 3, 259072, ann7⟩, { (w 1 [(R.lvl_RING_STAT, 1)]) with rmc := { (w 0 []).rmc with part := some ⟨7, 3, 259072, ann7⟩ } }, (inb (rr 0x20 prep) { (w 1 [(R.lvl_RING_STAT, 1)]) with rmc := { (w 0 []).rmc with part := some ⟨7, 3, 259072, ann7⟩ } }), by decide +kernel⟩,
   ⟨(rr 0x20 prep), (w 2 []), (inb (rr 0x20 prep) (w 2 [])), by decide +kernel⟩,
   ⟨{ (w 1 []) with lvl := { (w 0 []).lvl with ann := some ann7 } }, by decide +kernel⟩,
   ⟨(rr 0x20 prep), (w 1 [(R.ntm_NTM_STAT, 0)]), by decide +kernel⟩,
   ⟨(rr 0x20 (toLe 4 7 ++ [3] ++ zeros 30)), (w 1 []), by decide +kernel⟩,
   ⟨(rr 0x21 [7, 0, 0, 0]), (co7 none), { (w 1 []) with rmc := { (w 0 []).rmc with coord := some (co7 none) } }, (inb (rr 0x21 [7, 0, 0, 0]) { (w 1 []) with rmc := { (w 0 []).rmc with coord := some (co7 none) } }), by decide +kernel⟩,
   ⟨(rr 0x22 [7, 0, 0, 0, 1]), (co7 none), { (w 1 []) with rmc := { (w 0 []).rmc with coord := some (co7 none) } }, (inb (rr 0x22 [7, 0, 0, 0, 1]) { (w 1 []) with rmc := { (w 0 []).rmc with coord := some (co7 none) } }), by decide +kernel⟩,
   ⟨(rr 0x21 [7, 0, 0, 0]), (w 1 []), (inb (rr 0x21 [7, 0, 0, 0]) (w 1 [])), noneImp rfl, by decide +kernel⟩,
   ⟨(rr 0x22 [7, 0, 0, 0]), (w 1 []), (inb (rr 0x22 [7, 0, 0, 0]) (w 1 [])), noneImp rfl, by decide +kernel⟩,
   ⟨(co7 none), { (w 1 []) with ntm := { (w 0 []).ntm with tick := 258560 }, rmc := { (w 0 []).rmc with coord := some (co7 none) } }, by decide +kernel⟩,
   ⟨(co7 none), { (w 1 []) with ntm := { (w 0 []).ntm with tick := 258559 }, rmc := { (w 0 []).rmc with coord := some (co7 none) } }, by decide +kernel⟩,
   ⟨(w 1 []), noneImp rfl⟩,
   ⟨(w 1 []), noneImp rfl⟩,
   ⟨(co7 (some true)), true, { (w 1 []) with ntm := { (w 0 []).ntm with tick := 259071 }, rmc := { (w 0 []).rmc with coord := some (co7 (some true)) } }, by decide +kernel⟩,
   ⟨(co7 (some true)), true, { (w 1 []) with ntm := { (w 0 []).ntm with tick := 259072 }, rmc := { (w 0 []).rmc with coord := some (co7 (some true)) } }, by decide +kernel⟩,
   ⟨(rr 0x23 [7, 0, 0, 0]), ⟨7, 3, 259072, ann7⟩, { (w 1 [(R.lvl_RING_STAT, 1)]) with rmc := { (w 0 []).rmc with part := some ⟨7, 3, 259072, ann7⟩ } }, (inb (rr 0x23 [7, 0, 0, 0]) { (w 1 [(R.lvl_RING_STAT, 1)]) with rmc := { (w 0 []).rmc with part := some ⟨7, 3, 259072, ann7⟩ } }), by decide +kernel⟩,
   ⟨(rr 0x24 [7, 0, 0, 0]), ⟨7, 3, 259072, ann7⟩, { (w 1 [(R.lvl_RING_STAT, 1)]) with rmc := { (w 0 []).rmc with part := some ⟨7, 3, 259072, ann7⟩ } }, (inb (rr 0x24 [7, 0, 0, 0]) { (w 1 [(R.lvl_RING_STAT, 1)]) with rmc := { (w 0 []).rmc with part := some ⟨7, 3, 259072, ann7⟩ } }), by decide +kernel⟩,
   ⟨(rr 0x23 [7, 0, 0, 0]), (w 1 []), (inb (rr 0x23 [7, 0, 0, 0]) (w 1 [])), by decide +kernel⟩,
   ⟨(rr 0x24 [7, 0, 0, 0]), (w 1 []), (inb (rr 0x24 [7, 0, 0, 0]) (w 1 [])), by decide +kernel⟩,
   ⟨(rr 0x25 [7, 0, 0, 0]), { (w 1 []) with rmc := { (w 0 []).rmc with known := [(7, true, 256000)] } }, (inb (rr 0x25 [7, 0, 0, 0]) { (w 1 []) with rmc := { (w 0 []).rmc with known := [(7, true, 256000)] } }), true, by decide +kernel⟩,
   ⟨(rr 0x25 [7, 0, 0, 0]), (w 1 []), (inb (rr 0x25 [7, 0, 0, 0]) (w 1 [])), by decide +kernel⟩,
   ⟨(rr 0x26 [7, 0, 0, 0, 2]), (w 1 []), (inb (rr 0x26 [7, 0, 0, 0, 2]) (w 1 [])), by dsimp only; decide +kernel⟩,
   ⟨(rr 0x26 [7, 0, 0, 0, 3]), (w 1 []), (inb (rr 0x26 [7, 0, 0, 0, 3]) (w 1 [])), by dsimp only; decide +kernel⟩,
   ⟨(7, 259072), { (w 1 [(R.lvl_RING_STAT, 4)]) with rmc := { (w 0 []).rmc with coord := some (co7 none) } }, by decide +kernel⟩,
   ⟨(7, 259072), { (w 1 [(R.lvl_RING_STAT, 4)]) with ntm := { (w 0 []).ntm with tick := 275456 }, rmc := { (w 0 []).rmc with coord := some (co7 none) } }, by decide +kernel⟩,
   ⟨(7, 259072), { (w 1 [(R.lvl_RING_STAT, 4)]) with ntm := { (w 0 []).ntm with tick := 275455 }, rmc := { (w 0 []).rmc with coord := some (co7 none) } }, by decide +kernel⟩,
   ⟨(w 1 []), by decide +kernel⟩,
   ⟨7, (kc 0x0503 [0, 0, 0, 0, 0, 1] [] 0), (onK (kc 0x0503 [0, 0, 0, 0, 0, 1] [] 0) (w 1 [])), by unfold Ready; decide +kernel⟩,
   ⟨7, (kc 0x0503 [3] [] 0), (onK (kc 0x0503 [3] [] 0) (w 1 [])), by unfold Ready; decide +kernel⟩,
   ⟨7, (kc 0x0503 [2] [] 0), (onK (kc 0x0503 [2] [] 0) (w 2 [])), by unfold Ready; decide +kernel⟩,
   ⟨7, (kc 0x0503 [2] [] 0), (onK (kc 0x0503 [2] [] 0) (w 1 [(R.ntm_NTM_STAT, 0)])), by unfold Ready; decide +kernel⟩,
   ⟨7, (kc 0x0503 [2] [] 0), (onK (kc 0x0503 [2] [] 0) (w 1 [(R.lvl_RING_STAT, 4)])), by unfold Ready; decide +kernel⟩,
   ⟨7, (kc 0x0503 [2] [] 0), (onK (kc 0x0503 [2] [] 0) (w 1 [])), ((onK (kc 0x0503 [2] [] 0) (w 1 [])).ringBegin (modeParam (kc 0x0503 [2] [] 0).e.param (kc 0x0503 [2] [] 0).bytes) ((onK (kc 0x0503 [2] [] 0) (w 1 [])).firstC 10) 7).1, by unfold Ready; (repeat refine ⟨by decide +kernel, ?_⟩); first | decide +kernel | exact Prod.ext rfl (by decide +kernel)⟩,
   ⟨7, (kc 0x0503 [2] [] 0), (onK (kc 0x0503 [2] [] 0) (w 1 [])), by unfold Ready; decide +kernel⟩,
   ⟨7, (kc 0x0503 [2] [] 0), (onK (kc 0x0503 [2] [] 0) { (w 1 []) with lvl := { (w 0 []).lvl with ann := some ann7 } }), by unfold Ready; decide +kernel⟩⟩

/-- States and operands that meet the hypotheses of UpdatesAreReceivedCheckedAndCopied, clause by clause. -/
theorem test_hyps_UpdatesAreReceivedCheckedAndCopied :
    (∃ (tag : Word), ∃ (k : Cmd), ∃ (s : State), ∃ p, (p ∈ [(0x0C00, Instr.updBegin tag), (0x0C01, .updBlock tag), (0x0C03, .updApply tag), (0x0C04, .updCommit tag), (0x0C05, .updAbort tag)]) ∧ (Ready s p.1 tag k) ∧ (s.coAuth k = none)) ∧
    (∃ (tag : Word), ∃ (k : Cmd), ∃ (s : State), ∃ p, ∃ u, (p ∈ [(0x0C00, Instr.updBegin tag), (0x0C01, .updBlock tag), (0x0C03, .updApply tag), (0x0C04, .updCommit tag), (0x0C05, .updAbort tag)]) ∧ (Ready s p.1 tag k) ∧ (s.coAuth k = some u) ∧ (u.takes .upd = false)) ∧
    (∃ (tag : Word), ∃ (k : Cmd), ∃ (u : State), ∃ (s : State), (Ready s 0x0C00 tag k) ∧ (s.coAuth k = some u) ∧ (u.takes .upd = true) ∧ (u.upd.st ≠ .idle) ∧ (u.resumes k.bytes = false)) ∧
    (∃ (tag : Word), ∃ (k : Cmd), ∃ (u : State), ∃ (s : State), (Ready s 0x0C00 tag k) ∧ (s.coAuth k = some u) ∧ (u.takes .upd = true) ∧ (u.upd.st = .idle) ∧ (k.e.length ≠ 128)) ∧
    (∃ (tag : Word), ∃ (k : Cmd), ∃ (u : State), ∃ (s : State), (Ready s 0x0C00 tag k) ∧ (s.coAuth k = some u) ∧ (u.takes .upd = true) ∧ (k.e.length = 128) ∧ (u.resumes k.bytes = true)) ∧
    (∃ (tag : Word), ∃ (k : Cmd), ∃ (u : State), ∃ (s : State), (Ready s 0x0C00 tag k) ∧ (s.coAuth k = some u) ∧ (u.takes .upd = true) ∧ (u.upd.st = .idle) ∧ (k.e.length = 128) ∧ (u.hdrBad k.bytes = true)) ∧
    (∃ (tag : Word), ∃ (k : Cmd), ∃ (u : State), ∃ (s : State), (Ready s 0x0C00 tag k) ∧ (s.coAuth k = some u) ∧ (u.takes .upd = true) ∧ (u.upd.st = .idle) ∧ (k.e.length = 128) ∧ (u.hdrBad k.bytes = false)) ∧
    (∃ (tag : Word), ∃ (k : Cmd), ∃ (u : State), ∃ (s : State), (Ready s 0x0C01 tag k) ∧ (s.coAuth k = some u) ∧ (u.takes .upd = true) ∧ (u.upd.st = .applied)) ∧
    (∃ (tag : Word), ∃ (k : Cmd), ∃ (u : State), ∃ (s : State), (Ready s 0x0C01 tag k) ∧ (s.coAuth k = some u) ∧ (u.takes .upd = true) ∧ (let off := k.par 4 4; (let n := k.e.length; ((u.upd.st = .receiving ∨ u.upd.st = .received)) ∧ (0 < n) ∧ (n ≤ 65536) ∧ ((n % 4096 = 0 ∨ off + n = u.dLen)) ∧ (off % 4096 = 0) ∧ (k.par 0 4 = u.dField 8) ∧ (off + n ≤ u.dLen) ∧ (crcOf crc32c k.bytes = k.par 8 4)))) ∧
    (∃ (tag : Word), ∃ (k : Cmd), ∃ (u : State), ∃ (s : State), (Ready s 0x0C01 tag k) ∧ (s.coAuth k = some u) ∧ (u.takes .upd = true) ∧ (let off := k.par 4 4; (let n := k.e.length; ((u.upd.st = .receiving ∨ u.upd.st = .received)) ∧ (0 < n) ∧ (n ≤ 65536) ∧ ((n % 4096 = 0 ∨ off + n = u.dLen)) ∧ (off % 4096 = 0) ∧ (k.par 0 4 = u.dField 8) ∧ (off + n ≤ u.dLen) ∧ (crcOf crc32c k.bytes ≠ k.par 8 4)))) ∧
    (∃ (tag : Word), ∃ (k : Cmd), ∃ (u : State), ∃ (s : State), (Ready s 0x0C01 tag k) ∧ (s.coAuth k = some u) ∧ (u.takes .upd = true) ∧ (let off := k.par 4 4; (let n := k.e.length; ((u.upd.st = .receiving ∨ u.upd.st = .received)) ∧ (n = 0 ∨ 65536 < n ∨ (n % 4096 ≠ 0 ∧ off + n ≠ u.dLen))))) ∧
    (∃ (tag : Word), ∃ (k : Cmd), ∃ (u : State), ∃ (s : State), (Ready s 0x0C01 tag k) ∧ (s.coAuth k = some u) ∧ (u.takes .upd = true) ∧ (let off := k.par 4 4; (let n := k.e.length; ((u.upd.st = .receiving ∨ u.upd.st = .received)) ∧ (0 < n) ∧ (n ≤ 65536) ∧ ((n % 4096 = 0 ∨ off + n = u.dLen)) ∧ (off % 4096 ≠ 0 ∨ k.par 0 4 ≠ u.dField 8 ∨ u.dLen < off + n)))) ∧
    (∃ (tag : Word), ∃ (k : Cmd), ∃ (u : State), ∃ (s : State), (Ready s 0x0C01 tag k) ∧ (s.coAuth k = some u) ∧ (u.takes .upd = true) ∧ (u.upd.st = .idle ∨ u.upd.st = .applying ∨ u.upd.st = .copying ∨ u.upd.st = .committed)) ∧
    (∃ (tag : Word), ∃ (k : Cmd), ∃ (u : State), ∃ (s : State), (Ready s 0x0C03 tag k) ∧ (s.coAuth k = some u) ∧ (u.takes .upd = true) ∧ (u.upd.st = .received)) ∧
    (∃ (tag : Word), ∃ (k : Cmd), ∃ (u : State), ∃ (s : State), (Ready s 0x0C03 tag k) ∧ (s.coAuth k = some u) ∧ (u.takes .upd = true) ∧ (u.upd.st ≠ .received)) ∧
    (∃ (tag : Word), ∃ (k : Cmd), ∃ (u : State), ∃ (s : State), (Ready s 0x0C04 tag k) ∧ (s.coAuth k = some u) ∧ (u.takes .upd = true) ∧ (u.upd.st = .applied)) ∧
    (∃ (tag : Word), ∃ (k : Cmd), ∃ (u : State), ∃ (s : State), (Ready s 0x0C04 tag k) ∧ (s.coAuth k = some u) ∧ (u.takes .upd = true) ∧ (u.upd.st ≠ .applied)) ∧
    (∃ (tag : Word), ∃ (k : Cmd), ∃ (u : State), ∃ (s : State), (Ready s 0x0C05 tag k) ∧ (s.coAuth k = some u) ∧ (u.takes .upd = true) ∧ ((u.upd.st = .applying ∨ u.upd.st = .copying ∨ u.upd.st = .committed))) ∧
    (∃ (tag : Word), ∃ (k : Cmd), ∃ (u : State), ∃ (s : State), (Ready s 0x0C05 tag k) ∧ (s.coAuth k = some u) ∧ (u.takes .upd = true) ∧ ((u.upd.st = .idle ∨ u.upd.st = .receiving ∨ u.upd.st = .received ∨ u.upd.st = .applied))) ∧
    (∃ (e : Option Nat), ∃ (b : Bytes), ∃ (s : State), (s.applyResult e = .ok b)) ∧
    (∃ (e : Option Nat), ∃ (b : Bytes), ∃ (s : State), (s.upd.st = .applying) ∧ (s.inReset .upd = false) ∧ (s.applyResult e = .ok b)) ∧
    (∃ (e : Option Nat), ∃ (x : Nat × Nat), ∃ (s : State), (s.upd.st = .applying) ∧ (s.inReset .upd = false) ∧ (s.applyResult e = .error x)) ∧
    (∃ (s : State), (s.upd.st = .copying) ∧ (s.inReset .upd = false)) ∧
    (∃ (s : State), (s.upd.st ≠ .applying ∨ s.inReset .upd = true)) ∧
    (∃ (s : State), (s.upd.st ≠ .copying ∨ s.inReset .upd = true)) ∧
    (∃ (tag : Word), ∃ (k : Cmd), ∃ (s : State), (Ready s 0x0C02 tag k)) ∧
    (∃ (tag : Word), ∃ (k : Cmd), ∃ (s : State), (Ready s 0x0C06 tag k) ∧ (s.upd.archive.getD (k.par 0 1) none = none)) ∧
    (∃ (tag : Word), ∃ (k : Cmd), ∃ (s : State), ∃ v, (Ready s 0x0C06 tag k) ∧ (s.upd.archive.getD (k.par 0 1) none = some v)) ∧
    (∃ (s : State), (s.boot.stage ≠ .booted ∨ s.upd.shipped = true)) ∧
    (∃ (s : State), (s.boot.stage = .booted) ∧ (s.upd.shipped = false) ∧ (15 ≤ s.upd.sets.length)) ∧
    (∃ (s : State), (s.boot.stage = .booted) ∧ (s.upd.journal = .copied)) ∧
    (∃ (s : State), (s.boot.stage = .booted) ∧ (s.upd.journal ≠ .copied)) ∧
    (∃ (s : State), (s.boot.stage ≠ .booted)) :=
  ⟨⟨7, (kc 0x0C05 [] [] 0), (onK (kc 0x0C05 [] [] 0) co0), (0x0C05, .updAbort 7), by unfold Ready; decide +kernel⟩,
   ⟨7, (kc 0x0C05 [] [] 0), (onK (kc 0x0C05 [] [] 0) (w 1 [(hdr .upd oCtrl, 0)])), (0x0C05, .updAbort 7), (onK (kc 0x0C05 [] [] 0) (w 1 [(hdr .upd oCtrl, 0)])), by unfold Ready; decide +kernel⟩,
   ⟨7, (kc 0x0C00 [] [] 0), (onK (kc 0x0C00 [] [] 0) { (w 1 []) with upd := { (w 0 []).upd with st := .applying } }), (onK (kc 0x0C00 [] [] 0) { (w 1 []) with upd := { (w 0 []).upd with st := .applying } }), by unfold Ready; decide +kernel⟩,
   ⟨7, (kc 0x0C00 [] [] 0), (onK (kc 0x0C00 [] [] 0) (w 1 [])), (onK (kc 0x0C00 [] [] 0) (w 1 [])), by unfold Ready; decide +kernel⟩,
   ⟨7, (kc 0x0C00 [] (zeros 128) 0), (onK (kc 0x0C00 [] (zeros 128) 0) { (w 1 []) with upd := { (w 0 []).upd with st := .receiving, hdr := zeros 128 } }), (onK (kc 0x0C00 [] (zeros 128) 0) { (w 1 []) with upd := { (w 0 []).upd with st := .receiving, hdr := zeros 128 } }), by unfold Ready; decide +kernel⟩,
   ⟨7, (kc 0x0C00 [] (zeros 128) 0), (onK (kc 0x0C00 [] (zeros 128) 0) (w 1 [])), (onK (kc 0x0C00 [] (zeros 128) 0) (w 1 [])), by unfold Ready; decide +kernel⟩,
   ⟨7, (kc 0x0C00 [] hdrOk 0), (onK (kc 0x0C00 [] hdrOk 0) { (w 1 []) with upd := { (w 0 []).upd with floor := some 0 } }), (onK (kc 0x0C00 [] hdrOk 0) { (w 1 []) with upd := { (w 0 []).upd with floor := some 0 } }), by unfold Ready; decide +kernel⟩,
   ⟨7, (kc 0x0C01 [] [] 0), (onK (kc 0x0C01 [] [] 0) { (w 1 []) with upd := { (w 0 []).upd with st := .applied } }), (onK (kc 0x0C01 [] [] 0) { (w 1 []) with upd := { (w 0 []).upd with st := .applied } }), by unfold Ready; decide +kernel⟩,
   ⟨7, (kc 0x0C01 (toLe 4 1 ++ toLe 4 0 ++ toLe 4 (crcOf crc32c [1, 2, 3, 4])) [1, 2, 3, 4] 0), (onK (kc 0x0C01 (toLe 4 1 ++ toLe 4 0 ++ toLe 4 (crcOf crc32c [1, 2, 3, 4])) [1, 2, 3, 4] 0) { (w 1 []) with upd := { (w 0 []).upd with st := .receiving, hdr := hdr4 } }), (onK (kc 0x0C01 (toLe 4 1 ++ toLe 4 0 ++ toLe 4 (crcOf crc32c [1, 2, 3, 4])) [1, 2, 3, 4] 0) { (w 1 []) with upd := { (w 0 []).upd with st := .receiving, hdr := hdr4 } }), by dsimp only; unfold Ready; decide +kernel⟩,
   ⟨7, (kc 0x0C01 (toLe 4 1 ++ toLe 4 0 ++ toLe 4 0) [1, 2, 3, 4] 0), (onK (kc 0x0C01 (toLe 4 1 ++ toLe 4 0 ++ toLe 4 0) [1, 2, 3, 4] 0) { (w 1 []) with upd := { (w 0 []).upd with st := .receiving, hdr := hdr4 } }), (onK (kc 0x0C01 (toLe 4 1 ++ toLe 4 0 ++ toLe 4 0) [1, 2, 3, 4] 0) { (w 1 []) with upd := { (w 0 []).upd with st := .receiving, hdr := hdr4 } }), by dsimp only; unfold Ready; decide +kernel⟩,
   ⟨7, (kc 0x0C01 [] [] 0), (onK (kc 0x0C01 [] [] 0) { (w 1 []) with upd := { (w 0 []).upd with st := .receiving, hdr := hdr4 } }), (onK (kc 0x0C01 [] [] 0) { (w 1 []) with upd := { (w 0 []).upd with st := .receiving, hdr := hdr4 } }), by dsimp only; unfold Ready; decide +kernel⟩,
   ⟨7, (kc 0x0C01 (toLe 4 1 ++ toLe 4 1 ++ toLe 4 0) (zeros 3) 0), (onK (kc 0x0C01 (toLe 4 1 ++ toLe 4 1 ++ toLe 4 0) (zeros 3) 0) { (w 1 []) with upd := { (w 0 []).upd with st := .receiving, hdr := hdr4 } }), (onK (kc 0x0C01 (toLe 4 1 ++ toLe 4 1 ++ toLe 4 0) (zeros 3) 0) { (w 1 []) with upd := { (w 0 []).upd with st := .receiving, hdr := hdr4 } }), by dsimp only; unfold Ready; decide +kernel⟩,
   ⟨7, (kc 0x0C01 [] [] 0), (onK (kc 0x0C01 [] [] 0) { (w 1 []) with upd := { (w 0 []).upd with st := .idle } }), (onK (kc 0x0C01 [] [] 0) { (w 1 []) with upd := { (w 0 []).upd with st := .idle } }), by unfold Ready; decide +kernel⟩,
   ⟨7, (kc 0x0C03 [] [] 0), (onK (kc 0x0C03 [] [] 0) { (w 1 []) with upd := { (w 0 []).upd with st := .received } }), (onK (kc 0x0C03 [] [] 0) { (w 1 []) with upd := { (w 0 []).upd with st := .received } }), by unfold Ready; decide +kernel⟩,
   ⟨7, (kc 0x0C03 [] [] 0), (onK (kc 0x0C03 [] [] 0) (w 1 [])), (onK (kc 0x0C03 [] [] 0) (w 1 [])), by unfold Ready; decide +kernel⟩,
   ⟨7, (kc 0x0C04 [] [] 0), (onK (kc 0x0C04 [] [] 0) { (w 1 []) with upd := { (w 0 []).upd with st := .applied } }), (onK (kc 0x0C04 [] [] 0) { (w 1 []) with upd := { (w 0 []).upd with st := .applied } }), by unfold Ready; decide +kernel⟩,
   ⟨7, (kc 0x0C04 [] [] 0), (onK (kc 0x0C04 [] [] 0) (w 1 [])), (onK (kc 0x0C04 [] [] 0) (w 1 [])), by unfold Ready; decide +kernel⟩,
   ⟨7, (kc 0x0C05 [] [] 0), (onK (kc 0x0C05 [] [] 0) { (w 1 []) with upd := { (w 0 []).upd with st := .committed } }), (onK (kc 0x0C05 [] [] 0) { (w 1 []) with upd := { (w 0 []).upd with st := .committed } }), by unfold Ready; decide +kernel⟩,
   ⟨7, (kc 0x0C05 [] [] 0), (onK (kc 0x0C05 [] [] 0) (w 1 [])), (onK (kc 0x0C05 [] [] 0) (w 1 [])), by unfold Ready; decide +kernel⟩,
   ⟨none, [], { (w 1 []) with upd := { (w 0 []).upd with hdr := hdr0 } }, ok_of (by decide +kernel)⟩,
   ⟨none, [], { (w 1 []) with upd := { (w 0 []).upd with hdr := hdr0, st := .applying } }, by (repeat refine ⟨by decide +kernel, ?_⟩); first | decide +kernel | exact ok_of (by decide +kernel)⟩,
   ⟨(some 5), (6, 5), { (w 1 []) with upd := { (w 0 []).upd with st := .applying } }, by (repeat refine ⟨by decide +kernel, ?_⟩); first | decide +kernel | exact err_of (by decide +kernel)⟩,
   ⟨{ (w 1 []) with upd := { (w 0 []).upd with st := .copying } }, by decide +kernel⟩,
   ⟨(w 1 []), by decide +kernel⟩,
   ⟨(w 1 []), by decide +kernel⟩,
   ⟨7, (kc 0x0C02 [] [] 0), (onK (kc 0x0C02 [] [] 0) (w 1 [])), by unfold Ready; decide +kernel⟩,
   ⟨7, (kc 0x0C06 [15] [] 0), (onK (kc 0x0C06 [15] [] 0) (w 1 [])), by unfold Ready; decide +kernel⟩,
   ⟨7, (kc 0x0C06 [15] [] 0), (onK (kc 0x0C06 [15] [] 0) { (w 1 []) with upd := { (w 0 []).upd with archive := List.replicate 15 none ++ [some 1] } }), 1, by unfold Ready; decide +kernel⟩,
   ⟨{ (w 1 []) with upd := { (w 0 []).upd with shipped := true } }, by decide +kernel⟩,
   ⟨{ (w 1 []) with upd := { (w 0 []).upd with shipped := false } }, by decide +kernel⟩,
   ⟨{ (w 1 []) with upd := { (w 0 []).upd with journal := .copied } }, by decide +kernel⟩,
   ⟨(w 1 []), by decide +kernel⟩,
   ⟨State.reset, by decide +kernel⟩⟩

/-- States and operands that meet the hypotheses of HeadCommandsOfTheMailbox, clause by clause. -/
theorem test_hyps_HeadCommandsOfTheMailbox :
    (∃ (tag : Word), ∃ (k : Cmd), ∃ (s : State), (Ready s 0x0200 tag k) ∧ (s.coAuth k = none)) ∧
    (∃ (tag : Word), ∃ (k : Cmd), ∃ (u : State), ∃ (s : State), (Ready s 0x0200 tag k) ∧ (s.coAuth k = some u) ∧ (k.e.length ≠ 96)) ∧
    (∃ (tag : Word), ∃ (k : Cmd), ∃ (u : State), ∃ (s : State), (Ready s 0x0200 tag k) ∧ (s.coAuth k = some u) ∧ (k.e.length = 96) ∧ ((u.isHead = false ∨ u.takes .vlt = false))) ∧
    (∃ (tag : Word), ∃ (k : Cmd), ∃ (u : State), ∃ (s : State), (Ready s 0x0200 tag k) ∧ (s.coAuth k = some u) ∧ (k.e.length = 96) ∧ (u.isHead = true) ∧ (u.takes .vlt = true) ∧ (4095 < k.par 8 2)) ∧
    (∃ (tag : Word), ∃ (k : Cmd), ∃ (u : State), ∃ (s : State), (Ready s 0x0200 tag k) ∧ (s.coAuth k = some u) ∧ (k.e.length = 96) ∧ (u.isHead = true) ∧ (u.takes .vlt = true) ∧ (k.par 8 2 ≤ 4095)) ∧
    (∃ (id : DWord), ∃ (i : Nat), ∃ (s : State), (s.rowOf id = none) ∧ (i ≠ 0) ∧ ((∃ n ∈ s.net.nodes, n.index = i))) ∧
    (∃ (id : DWord), ∃ (i : Nat), ∃ (s : State), (s.rowOf id = none) ∧ ((i ≠ 0 → ∀ n ∈ s.net.nodes, n.index ≠ i))) ∧
    (∃ (id : DWord), ∃ (i : Nat), ∃ (cls : Nat), ∃ (sl : Bool), ∃ (key : Bytes), ∃ (s : State), ∃ t, (s.rowOf id = none) ∧ ((i ≠ 0 → ∀ n ∈ s.net.nodes, n.index ≠ i)) ∧ (s.enrol id i cls sl key = some t)) ∧
    (∃ (id : DWord), ∃ (i : Nat), ∃ (r : NodeRow), ∃ (s : State), (s.rowOf id = some r) ∧ (i ≠ 0) ∧ (i ≠ r.index)) ∧
    (∃ (id : DWord), ∃ (i : Nat), ∃ (r : NodeRow), ∃ (s : State), (s.rowOf id = some r) ∧ ((i = 0 ∨ i = r.index)) ∧ (r.st ≠ 3) ∧ (r.index = 0)) ∧
    (∃ (id : DWord), ∃ (i : Nat), ∃ (r : NodeRow), ∃ (s : State), (s.rowOf id = some r) ∧ ((i = 0 ∨ i = r.index)) ∧ (r.st ≠ 3) ∧ (r.index ≠ 0)) ∧
    (∃ (id : DWord), ∃ (i : Nat), ∃ (key : Bytes), ∃ (r : NodeRow), ∃ (s : State), ∃ w, ∃ p, (s.rowOf id = some r) ∧ ((i = 0 ∨ i = r.index)) ∧ (r.st = 3) ∧ (s.wrapKey = some w) ∧ (kwUnwrap w key = some p)) ∧
    (∃ (id : DWord), ∃ (i : Nat), ∃ (key : Bytes), ∃ (r : NodeRow), ∃ (s : State), (s.rowOf id = some r) ∧ ((i = 0 ∨ i = r.index)) ∧ (r.st = 3) ∧ ((s.wrapKey.bind fun w => kwUnwrap w key) = none)) ∧
    (∃ (tag : Word), ∃ (k : Cmd), ∃ (s : State), (Ready s 0x0201 tag k) ∧ (s.isHead = false)) ∧
    (∃ (tag : Word), ∃ (k : Cmd), ∃ (s : State), (Ready s 0x0201 tag k) ∧ (s.isHead = true) ∧ (s.nodeRow (k.par 0 2) = none)) ∧
    (∃ (tag : Word), ∃ (k : Cmd), ∃ (s : State), ∃ r, (Ready s 0x0201 tag k) ∧ (s.isHead = true) ∧ (s.nodeRow (k.par 0 2) = some r)) ∧
    (∃ (tag : Word), ∃ (k : Cmd), ∃ (s : State), (Ready s 0x0202 tag k) ∧ (s.isHead = false)) ∧
    (∃ (tag : Word), ∃ (k : Cmd), ∃ (s : State), (Ready s 0x0202 tag k) ∧ (s.isHead = true)) ∧
    (∃ (tag : Word), ∃ (k : Cmd), ∃ (s : State), (Ready s 0x0203 tag k) ∧ ((1 < k.par 0 1 ∨ 1 < k.par 1 1))) ∧
    (∃ (tag : Word), ∃ (k : Cmd), ∃ (s : State), (Ready s 0x0203 tag k) ∧ (k.par 0 1 ≤ 1) ∧ (k.par 1 1 ≤ 1)) ∧
    (∃ (tag : Word), ∃ (k : Cmd), ∃ (s : State), (Ready s 0x0400 tag k) ∧ (s.cor.check = 0) ∧ (k.e.length ≠ graphLen)) ∧
    (∃ (tag : Word), ∃ (k : Cmd), ∃ (s : State), (Ready s 0x0400 tag k) ∧ (s.cor.check = 0) ∧ (k.e.length = graphLen) ∧ ((s.takes .cor = false ∨ s.isHead = false ∨ s.inReset .emc = true))) ∧
    (∃ (tag : Word), ∃ (k : Cmd), ∃ (s : State), (Ready s 0x0400 tag k) ∧ (s.cor.check = 0) ∧ (k.e.length = graphLen) ∧ (s.takes .cor = true) ∧ (s.isHead = true) ∧ (s.inReset .emc = false)) ∧
    (∃ (s : State), (s.cor.check ≠ 0)) ∧
    (∃ (tag : Word), ∃ (k : Cmd), ∃ (s : State), (Ready s 0x0401 tag k) ∧ (k.e.length ≠ 256)) ∧
    (∃ (tag : Word), ∃ (k : Cmd), ∃ (s : State), (Ready s 0x0401 tag k) ∧ (k.e.length = 256) ∧ (s.inReset .cor = true)) ∧
    (∃ (tag : Word), ∃ (k : Cmd), ∃ (s : State), (Ready s 0x0401 tag k) ∧ (k.e.length = 256) ∧ (s.inReset .cor = false) ∧ (((∃ i < 128, 1000 < le k.bytes (2 * i) 2) ∨ 1024 < k.par 0 2))) ∧
    (∃ (tag : Word), ∃ (k : Cmd), ∃ (s : State), ∃ at', (Ready s 0x0401 tag k) ∧ (k.e.length = 256) ∧ (s.inReset .cor = false) ∧ ((∀ i < 128, le k.bytes (2 * i) 2 ≤ 1000)) ∧ (k.par 0 2 ≤ 1024) ∧ (at' = s.applyOf k.e.apply) ∧ (s.timeFor at' = true) ∧ (later at' s.tick32 = true)) ∧
    (∃ (tag : Word), ∃ (k : Cmd), ∃ (s : State), (Ready s 0x0402 tag k) ∧ (s.inReset .cor = true)) ∧
    (∃ (tag : Word), ∃ (k : Cmd), ∃ (s : State), (Ready s 0x0402 tag k) ∧ (s.inReset .cor = false) ∧ (1024 < k.par 0 2)) ∧
    (∃ (tag : Word), ∃ (k : Cmd), ∃ (s : State), (Ready s 0x0402 tag k) ∧ (s.inReset .cor = false) ∧ (k.par 0 2 ≤ 1024)) ∧
    (∃ (tag : Word), ∃ (k : Cmd), ∃ (s : State), (Ready s 0x0403 tag k) ∧ (s.inReset .cor = true)) ∧
    (∃ (tag : Word), ∃ (k : Cmd), ∃ (s : State), (Ready s 0x0403 tag k) ∧ (s.inReset .cor = false)) ∧
    (∃ (tag : Word), ∃ (k : Cmd), ∃ (s : State), (Ready s 0x0500 tag k) ∧ (byteAt k.e.param 5 = 1) ∧ (k.e.length ≠ 128)) ∧
    (∃ (tag : Word), ∃ (k : Cmd), ∃ (s : State), (Ready s 0x0500 tag k) ∧ ((byteAt k.e.param 5 = 1 → k.e.length = 128)) ∧ (modeParamOk k.e.param = false)) ∧
    (∃ (tag : Word), ∃ (k : Cmd), ∃ (s : State), (Ready s 0x0500 tag k) ∧ ((byteAt k.e.param 5 = 1 → k.e.length = 128)) ∧ (modeParamOk k.e.param = true) ∧ ((s.isHead = false ∨ s.takes .lvl = false))) ∧
    (∃ (tag : Word), ∃ (k : Cmd), ∃ (s : State), (Ready s 0x0500 tag k) ∧ ((byteAt k.e.param 5 = 1 → k.e.length = 128)) ∧ (modeParamOk k.e.param = true) ∧ (s.isHead = true) ∧ (s.takes .lvl = true) ∧ (s.holds = false)) ∧
    (∃ (tag : Word), ∃ (k : Cmd), ∃ (s : State), (Ready s 0x0500 tag k) ∧ ((byteAt k.e.param 5 = 1 → k.e.length = 128)) ∧ (modeParamOk k.e.param = true) ∧ (s.isHead = true) ∧ (s.takes .lvl = true) ∧ (s.holds = true) ∧ (s.lvl.ann.isSome = true)) ∧
    (∃ (tag : Word), ∃ (k : Cmd), ∃ (s : State), (Ready s 0x0500 tag k) ∧ (let m := modeParam k.e.param k.bytes; ((byteAt k.e.param 5 = 1 → k.e.length = 128)) ∧ (modeParamOk k.e.param = true) ∧ (s.isHead = true) ∧ (s.takes .lvl = true) ∧ (s.holds = true) ∧ (let c := if k.e.apply = 0 then s.firstC 9 else s.fullTick k.e.apply; (s.lvl.ann = none) ∧ (c % 256 = 0) ∧ (s.tick + 2304 ≤ c) ∧ ((∀ l, m.hop = some l → s.hopListOk l = true))))) ∧
    (∃ (tag : Word), ∃ (k : Cmd), ∃ (s : State), (Ready s 0x0501 tag k) ∧ (s.lvl.ann = none)) ∧
    (∃ (tag : Word), ∃ (k : Cmd), ∃ (s : State), ∃ u, (Ready s 0x0501 tag k) ∧ (s.cancelAnn = (u, 2))) ∧
    (∃ (tag : Word), ∃ (k : Cmd), ∃ (s : State), ∃ u, (Ready s 0x0501 tag k) ∧ (s.cancelAnn = (u, 1))) ∧
    (∃ (tag : Word), ∃ (k : Cmd), ∃ (s : State), (Ready s 0x0502 tag k)) ∧
    (∃ (tag : Word), ∃ (k : Cmd), ∃ (s : State), (Ready s 0x0504 tag k) ∧ (let n := k.e.length / 6; ((k.e.length % 6 ≠ 0 ∨ 8 < n)))) ∧
    (∃ (tag : Word), ∃ (k : Cmd), ∃ (s : State), (Ready s 0x0504 tag k) ∧ (let n := k.e.length / 6; (k.e.length % 6 = 0) ∧ (n ≤ 8) ∧ (s.isHead = false))) ∧
    (∃ (tag : Word), ∃ (k : Cmd), ∃ (s : State), (Ready s 0x0504 tag k) ∧ (let n := k.e.length / 6; (k.e.length % 6 = 0) ∧ (n ≤ 8) ∧ (s.isHead = true) ∧ ((∃ r ∈ s.net.nodes, r.index = k.par 0 2 ∧ r.st = 3)) ∧ ((∀ j < n, le k.bytes (6 * j) 4 ≤ 86399)))) ∧
    (∃ (tag : Word), ∃ (k : Cmd), ∃ (s : State), (Ready s 0x0504 tag k) ∧ (let n := k.e.length / 6; (k.e.length % 6 = 0) ∧ (n ≤ 8) ∧ (s.isHead = true))) :=
  ⟨⟨7, (kc 0x0200 (toLe 8 9) [] 0), (onK (kc 0x0200 (toLe 8 9) [] 0) co0), by unfold Ready; decide +kernel⟩,
   ⟨7, (kc 0x0200 (toLe 8 9) [] 0), (onK (kc 0x0200 (toLe 8 9) [] 0) (w 1 [])), (onK (kc 0x0200 (toLe 8 9) [] 0) (w 1 [])), by unfold Ready; decide +kernel⟩,
   ⟨7, (kc 0x0200 (toLe 8 9) (zeros 96) 0), (onK (kc 0x0200 (toLe 8 9) (zeros 96) 0) (w 2 [])), (onK (kc 0x0200 (toLe 8 9) (zeros 96) 0) (w 2 [])), by unfold Ready; decide +kernel⟩,
   ⟨7, (kc 0x0200 (toLe 8 9 ++ toLe 2 4096) (zeros 96) 0), (onK (kc 0x0200 (toLe 8 9 ++ toLe 2 4096) (zeros 96) 0) (w 1 [])), (onK (kc 0x0200 (toLe 8 9 ++ toLe 2 4096) (zeros 96) 0) (w 1 [])), by unfold Ready; decide +kernel⟩,
   ⟨7, (kc 0x0200 (toLe 8 9 ++ toLe 2 4095) (zeros 96) 0), (onK (kc 0x0200 (toLe 8 9 ++ toLe 2 4095) (zeros 96) 0) (w 1 [])), (onK (kc 0x0200 (toLe 8 9 ++ toLe 2 4095) (zeros 96) 0) (w 1 [])), by unfold Ready; decide +kernel⟩,
   ⟨9, 4095, { (w 1 []) with net := { (w 0 []).net with nodes := [nr 4095 3 0 0] } }, by decide +kernel⟩,
   ⟨9, 4095, { (w 1 []) with net := { (w 0 []).net with nodes := [nr 5 3 0 0] } }, by decide +kernel⟩,
   ⟨9, 4095, 0, false, (zeros 24), (w 1 []), (((w 1 []).enrol 9 4095 0 false (zeros 24)).getD (w 1 [])), by decide +kernel⟩,
   ⟨0, 4095, (nr 4094 3 0 0), { (w 1 []) with net := { (w 0 []).net with nodes := [nr 4094 3 0 0] } }, by decide +kernel⟩,
   ⟨0, 0, (nr 0 1 0 0), { (w 1 []) with net := { (w 0 []).net with nodes := [nr 0 1 0 0] } }, by decide +kernel⟩,
   ⟨0, 4095, (nr 4095 1 0 0), { (w 1 []) with net := { (w 0 []).net with nodes := [nr 4095 1 0 0] } }, by decide +kernel⟩,
   ⟨0, 4095, (toBe 24 0x935a3eb101c34add025e170b46ff0db23e5c2fae8c8f8370), (nr 4095 3 0 0), { (w 1 []) with net := { (w 0 []).net with nodes := [nr 4095 3 0 0] }, vlt := { (w 0 []).vlt with slots := none :: List.replicate 3 (some ⟨0x540, 0, key0, []⟩) ++ List.replicate 60 none } }, key0, key0, by decide +kernel⟩,
   ⟨0, 4095, (zeros 24), (nr 4095 3 0 0), { (w 1 []) with net := { (w 0 []).net with nodes := [nr 4095 3 0 0] } }, by decide +kernel⟩,
   ⟨7, (kc 0x0201 (toLe 2 5) [] 0), (onK (kc 0x0201 (toLe 2 5) [] 0) (w 2 [])), by unfold Ready; decide +kernel⟩,
   ⟨7, (kc 0x0201 (toLe 2 5) [] 0), (onK (kc 0x0201 (toLe 2 5) [] 0) (w 1 [])), by unfold Ready; decide +kernel⟩,
   ⟨7, (kc 0x0201 (toLe 2 5) [] 0), (onK (kc 0x0201 (toLe 2 5) [] 0) { (w 1 []) with net := { (w 0 []).net with nodes := [nr 5 3 0 0] } }), (nr 5 3 0 0), by unfold Ready; decide +kernel⟩,
   ⟨7, (kc 0x0202 [] [] 0), (onK (kc 0x0202 [] [] 0) (w 2 [])), by unfold Ready; decide +kernel⟩,
   ⟨7, (kc 0x0202 [] [] 0), (onK (kc 0x0202 [] [] 0) (w 1 [])), by unfold Ready; decide +kernel⟩,
   ⟨7, (kc 0x0203 [2] [] 0), (onK (kc 0x0203 [2] [] 0) (w 1 [])), by unfold Ready; decide +kernel⟩,
   ⟨7, (kc 0x0203 [1, 1] [] 0), (onK (kc 0x0203 [1, 1] [] 0) (w 1 [])), by unfold Ready; decide +kernel⟩,
   ⟨7, (kc 0x0400 [] [] 0), (onK (kc 0x0400 [] [] 0) (w 1 [])), by unfold Ready; decide +kernel⟩,
   ⟨7, kG, (onK kG (w 2 [])), by unfold Ready; decide +kernel⟩,
   ⟨7, kG, (onK kG (w 1 [])), by unfold Ready; decide +kernel⟩,
   ⟨{ (w 1 []) with cor := { (w 0 []).cor with check := 2 } }, by decide +kernel⟩,
   ⟨7, (kc 0x0401 [] [] 0), (onK (kc 0x0401 [] [] 0) (w 1 [])), by unfold Ready; decide +kernel⟩,
   ⟨7, (kc 0x0401 [] (zeros 256) 0), (onK (kc 0x0401 [] (zeros 256) 0) State.reset), by unfold Ready; decide +kernel⟩,
   ⟨7, (kc 0x0401 (toLe 2 1025) (zeros 256) 0), (onK (kc 0x0401 (toLe 2 1025) (zeros 256) 0) (w 1 [])), by unfold Ready; decide +kernel⟩,
   ⟨7, (kc 0x0401 (toLe 2 1024) (zeros 256) 0), (onK (kc 0x0401 (toLe 2 1024) (zeros 256) 0) (w 1 [])), 256042, by unfold Ready; decide +kernel⟩,
   ⟨7, (kc 0x0402 [] [] 0), (onK (kc 0x0402 [] [] 0) State.reset), by unfold Ready; decide +kernel⟩,
   ⟨7, (kc 0x0402 (toLe 2 1025) [] 0), (onK (kc 0x0402 (toLe 2 1025) [] 0) (w 1 [])), by unfold Ready; decide +kernel⟩,
   ⟨7, (kc 0x0402 (toLe 2 1024) [] 0), (onK (kc 0x0402 (toLe 2 1024) [] 0) (w 1 [])), by unfold Ready; decide +kernel⟩,
   ⟨7, (kc 0x0403 [] [] 0), (onK (kc 0x0403 [] [] 0) State.reset), by unfold Ready; decide +kernel⟩,
   ⟨7, (kc 0x0403 [] [] 0), (onK (kc 0x0403 [] [] 0) (w 1 [])), by unfold Ready; decide +kernel⟩,
   ⟨7, (kc 0x0500 [0, 0, 0, 0, 0, 1] [] 0), (onK (kc 0x0500 [0, 0, 0, 0, 0, 1] [] 0) (w 1 [])), by unfold Ready; decide +kernel⟩,
   ⟨7, (kc 0x0500 [3] [] 0), (onK (kc 0x0500 [3] [] 0) (w 1 [])), by unfold Ready; decide +kernel⟩,
   ⟨7, (kc 0x0500 [2] [] 0), (onK (kc 0x0500 [2] [] 0) (w 2 [])), by unfold Ready; decide +kernel⟩,
   ⟨7, (kc 0x0500 [2] [] 0), (onK (kc 0x0500 [2] [] 0) (w 1 [(R.ntm_NTM_STAT, 0)])), by unfold Ready; decide +kernel⟩,
   ⟨7, (kc 0x0500 [2] [] 0), (onK (kc 0x0500 [2] [] 0) { (w 1 []) with lvl := { (w 0 []).lvl with ann := some ann7 } }), by unfold Ready; decide +kernel⟩,
   ⟨7, (kc 0x0500 [2] [] 0), (onK (kc 0x0500 [2] [] 0) (w 1 [])), by unfold Ready; (repeat refine ⟨by decide +kernel, ?_⟩); first | decide +kernel | exact noneImp rfl⟩,
   ⟨7, (kc 0x0501 [] [] 0), (onK (kc 0x0501 [] [] 0) (w 1 [])), by unfold Ready; decide +kernel⟩,
   ⟨7, (kc 0x0501 [] [] 0), (onK (kc 0x0501 [] [] 0) { (w 1 []) with ntm := { (w 0 []).ntm with tick := 259071 }, lvl := { (w 0 []).lvl with ann := some ann7 } }), (onK (kc 0x0501 [] [] 0) { (w 1 []) with ntm := { (w 0 []).ntm with tick := 259071 }, lvl := { (w 0 []).lvl with ann := some ann7 } }), by unfold Ready; decide +kernel⟩,
   ⟨7, (kc 0x0501 [] [] 0), (onK (kc 0x0501 [] [] 0) { (w 1 []) with lvl := { (w 0 []).lvl with ann := some ann7 } }), (onK (kc 0x0501 [] [] 0) { (w 1 []) with lvl := { (w 0 []).lvl with ann := some ann7 } }).cancelAnn.1, by unfold Ready; decide +kernel⟩,
   ⟨7, (kc 0x0502 [] [] 0), (onK (kc 0x0502 [] [] 0) (w 1 [])), by unfold Ready; decide +kernel⟩,
   ⟨7, (kc 0x0504 [] (zeros 54) 0), (onK (kc 0x0504 [] (zeros 54) 0) (w 1 [])), by dsimp only; unfold Ready; decide +kernel⟩,
   ⟨7, (kc 0x0504 [] (zeros 48) 0), (onK (kc 0x0504 [] (zeros 48) 0) (w 2 [])), by dsimp only; unfold Ready; decide +kernel⟩,
   ⟨7, (kc 0x0504 (toLe 2 5) (toLe 4 86399 ++ zeros 2) 0), (onK (kc 0x0504 (toLe 2 5) (toLe 4 86399 ++ zeros 2) 0) { (w 1 []) with net := { (w 0 []).net with nodes := [nr 5 3 0 0] } }), by dsimp only; unfold Ready; decide +kernel⟩,
   ⟨7, (kc 0x0504 (toLe 2 5) (toLe 4 86400 ++ zeros 2) 0), (onK (kc 0x0504 (toLe 2 5) (toLe 4 86400 ++ zeros 2) 0) { (w 1 []) with net := { (w 0 []).net with nodes := [nr 5 3 0 0] } }), by dsimp only; unfold Ready; decide +kernel⟩⟩

end Sys2Proof.Tests
end

section
/-! SUPPORT. What one command, and one step, can change; and the statements that follow: no command touches the queue or the identity, every step keeps canonical stores, every command keeps to its list of parts. -/

namespace Sys2Proof.Machine

open Sys2Proof

/-! ### What one command can change -/

/-- Every command changes the parts of its own list alone and keeps the stores canonical: the law of its meaning, arm by arm of the dispatch. -/
theorem exec_goes {i : Instr} {s s' : State} (h : exec i s = .next s') : Goes (touches i) s s' := by
  cases i with
  | powerOn => exact goes_execPowerOn s rfl (.refl _ s) s' h
  | vinBrownOut vinMv => exact goes_execVinBrownOut vinMv s rfl (.refl _ s) s' h
  | coreSupplyFault rail => exact goes_execCoreSupplyFault rail s rfl (.refl _ s) s' h
  | modReset lowNs => exact goes_execModReset lowNs s rfl (.refl _ s) s' h
  | swReset m v => exact goes_execSwReset m v s rfl (.refl _ s) s' h
  | pewterIntegrityCheck codes => exact goes_execPewterIntegrityCheck codes s rfl (.refl _ s) s' h
  | sequencerDefaults => exact goes_execSequencerDefaults s rfl (.refl _ s) s' h
  | bootCheck fails emmcErr => exact goes_execBootCheck fails emmcErr s rfl (.refl _ s) s' h
  | benchRecovery image => exact goes_execBenchRecovery image s rfl (.refl _ s) s' h
  | perst => exact goes_execPerst s rfl (.refl _ s) s' h
  | lockstepMismatch lane detail => exact goes_execLockstepMismatch lane detail s rfl (.refl _ s) s' h
  | laneWatchdog lane => exact goes_execLaneWatchdog lane s rfl (.refl _ s) s' h
  | serviceWatchdog => exact goes_execServiceWatchdog s rfl (.refl _ s) s' h
  | thermalTrip sensor tempDeciC => exact goes_execThermalTrip sensor tempDeciC s rfl (.refl _ s) s' h
  | tempWarning sensor tempDeciC => exact goes_execTempWarning sensor tempDeciC s rfl (.refl _ s) s' h
  | blockReset m hi v => exact goes_execBlockReset m hi v s rfl (.refl _ s) s' h
  | blockReleaseRequest m hi v => exact goes_execBlockReleaseRequest m hi v s rfl (.refl _ s) s' h
  | blockRelease bit fails => exact goes_execBlockRelease bit fails s rfl (.refl _ s) s' h
  | releaseTimeout bit => exact goes_execReleaseTimeout bit s rfl (.refl _ s) s' h
  | tickEdge c sinks hbIn => exact goes_execTickEdge c sinks hbIn s rfl (.refl _ s) s' h
  | corridorRun us => exact goes_execCorridorRun us s rfl (.refl _ s) s' h
  | levelPublish => exact goes_execLevelPublish s rfl (.refl _ s) s' h
  | occRowWrite => exact goes_execOccRowWrite s rfl (.refl _ s) s' h
  | graphCheck m => exact goes_execGraphCheck m s rfl (.refl _ s) s' h
  | graphCheckDone => exact goes_execGraphCheckDone s rfl (.refl _ s) s' h
  | graphArm m => exact goes_execGraphArm m s rfl (.refl _ s) s' h
  | graphDisarm m => exact goes_execGraphDisarm m s rfl (.refl _ s) s' h
  | graphSwap => exact goes_execGraphSwap s rfl (.refl _ s) s' h
  | policyCommit m => exact goes_execPolicyCommit m s rfl (.refl _ s) s' h
  | policyApply => exact goes_execPolicyApply s rfl (.refl _ s) s' h
  | waveStart => exact goes_execWaveStart s rfl (.refl _ s) s' h
  | floodForward => exact goes_execFloodForward s rfl (.refl _ s) s' h
  | stripeReceive x => exact goes_execStripeReceive x s rfl (.refl _ s) s' h
  | modeAnnounce m => exact goes_execModeAnnounce m s rfl (.refl _ s) s' h
  | modeCtrlCancel m => exact goes_execModeCtrlCancel m s rfl (.refl _ s) s' h
  | modeWave => exact goes_execModeWave s rfl (.refl _ s) s' h
  | modeReceive x => exact goes_execModeReceive x s rfl (.refl _ s) s' h
  | modeAckSend => exact goes_execModeAckSend s rfl (.refl _ s) s' h
  | schedulePoint => exact goes_execSchedulePoint s rfl (.refl _ s) s' h
  | beaconBuild => exact goes_execBeaconBuild s rfl (.refl _ s) s' h
  | beaconSend c => exact goes_execBeaconSend c s rfl (.refl _ s) s' h
  | beaconReceive x => exact goes_execBeaconReceive x s rfl (.refl _ s) s' h
  | beaconMiss c => exact goes_execBeaconMiss c s rfl (.refl _ s) s' h
  | orphanListenEnd => exact goes_execOrphanListenEnd s rfl (.refl _ s) s' h
  | scanStep => exact goes_execScanStep s rfl (.refl _ s) s' h
  | bcnNodeWrite m v => exact goes_execBcnNodeWrite m v s rfl (.refl _ s) s' h
  | joinReq x => exact goes_execJoinReq x s rfl (.refl _ s) s' h
  | joinAcc x => exact goes_execJoinAcc x s rfl (.refl _ s) s' h
  | joinRef x => exact goes_execJoinRef x s rfl (.refl _ s) s' h
  | joinTimeout => exact goes_execJoinTimeout s rfl (.refl _ s) s' h
  | joinConfirmTimeout index => exact goes_execJoinConfirmTimeout index s rfl (.refl _ s) s' h
  | statusReceive x => exact goes_execStatusReceive x s rfl (.refl _ s) s' h
  | joinWindowExpiry => exact goes_execJoinWindowExpiry s rfl (.refl _ s) s' h
  | sleepyWake index heard => exact goes_execSleepyWake index heard s rfl (.refl _ s) s' h
  | heldFrameExpiry => exact goes_execHeldFrameExpiry s rfl (.refl _ s) s' h
  | mhopForward x => exact goes_execMhopForward x s rfl (.refl _ s) s' h
  | txDescriptor radio => exact goes_execTxDescriptor radio s rfl (.refl _ s) s' h
  | frameRelease radio access => exact goes_execFrameRelease radio access s rfl (.refl _ s) s' h
  | ackTimeout radio => exact goes_execAckTimeout radio s rfl (.refl _ s) s' h
  | deadlineExpiry radio => exact goes_execDeadlineExpiry radio s rfl (.refl _ s) s' h
  | frameSync radio psdu phrOk phase c refillNs => exact goes_execFrameSync radio psdu phrOk phase c refillNs s rfl (.refl _ s) s' h
  | frameEndVerdict radio fcs rssi margin verdictNs => exact goes_execFrameEndVerdict radio fcs rssi margin verdictNs s rfl (.refl _ s) s' h
  | ackSend radio => exact goes_execAckSend radio s rfl (.refl _ s) s' h
  | ackReceive radio psdu fcs => exact goes_execAckReceive radio psdu fcs s rfl (.refl _ s) s' h
  | ledgerAge => exact goes_execLedgerAge s rfl (.refl _ s) s' h
  | hopCommit m v => exact goes_execHopCommit m v s rfl (.refl _ s) s' h
  | hopApply => exact goes_execHopApply s rfl (.refl _ s) s' h
  | paFault radio reflects => exact goes_execPaFault radio reflects s rfl (.refl _ s) s' h
  | ctrTxWrite m k v => exact goes_execCtrTxWrite m k v s rfl (.refl _ s) s' h
  | lnkGenWrite m next v => exact goes_execLnkGenWrite m next v s rfl (.refl _ s) s' h
  | genSwitch => exact goes_execGenSwitch s rfl (.refl _ s) s' h
  | genRetire => exact goes_execGenRetire s rfl (.refl _ s) s' h
  | ctxInval m v => exact goes_execCtxInval m v s rfl (.refl _ s) s' h
  | ctxInvalAll m v => exact goes_execCtxInvalAll m v s rfl (.refl _ s) s' h
  | tunnelVerify => exact goes_execTunnelVerify s rfl (.refl _ s) s' h
  | keyReceive x => exact goes_execKeyReceive x s rfl (.refl _ s) s' h
  | presenceReceive x => exact goes_execPresenceReceive x s rfl (.refl _ s) s' h
  | energyReceive x => exact goes_execEnergyReceive x s rfl (.refl _ s) s' h
  | energyReportSend => exact goes_execEnergyReportSend s rfl (.refl _ s) s' h
  | childAdd x => exact goes_execChildAdd x s rfl (.refl _ s) s' h
  | childDel x => exact goes_execChildDel x s rfl (.refl _ s) s' h
  | rejoinVia x => exact goes_execRejoinVia x s rfl (.refl _ s) s' h
  | wakeSet x => exact goes_execWakeSet x s rfl (.refl _ s) s' h
  | energyCfg x => exact goes_execEnergyCfg x s rfl (.refl _ s) s' h
  | schedSet x => exact goes_execSchedSet x s rfl (.refl _ s) s' h
  | modeAck x => exact goes_execModeAck x s rfl (.refl _ s) s' h
  | modeGet x => exact goes_execModeGet x s rfl (.refl _ s) s' h
  | ppsEdge rising c => exact goes_execPpsEdge rising c s rfl (.refl _ s) s' h
  | ppsLost c => exact goes_execPpsLost c s rfl (.refl _ s) s' h
  | todTimeout c => exact goes_execTodTimeout c s rfl (.refl _ s) s' h
  | snap m v c => exact goes_execSnap m v c s rfl (.refl _ s) s' h
  | stepGo m v => exact goes_execStepGo m v s rfl (.refl _ s) s' h
  | timeStep c => exact goes_execTimeStep c s rfl (.refl _ s) s' h
  | offsetLoad m v c => exact goes_execOffsetLoad m v c s rfl (.refl _ s) s' h
  | cntRead m c => exact goes_execCntRead m c s rfl (.refl _ s) s' h
  | tickRead m => exact goes_execTickRead m s rfl (.refl _ s) s' h
  | dreqSend => exact goes_execDreqSend s rfl (.refl _ s) s' h
  | dreq x => exact goes_execDreq x s rfl (.refl _ s) s' h
  | dresp x => exact goes_execDresp x s rfl (.refl _ s) s' h
  | todSet tag c => exact goes_execTodSet tag c s rfl (.refl _ s) s' h
  | timeGet tag c => exact goes_execTimeGet tag c s rfl (.refl _ s) s' h
  | timeSrc tag => exact goes_execTimeSrc tag s rfl (.refl _ s) s' h
  | narrowWrite m addr v => exact goes_execNarrowWrite m addr v s rfl (.refl _ s) s' h
  | narrowRead m addr => exact goes_execNarrowRead m addr s rfl (.refl _ s) s' h
  | multiDw wr addr words => exact goes_execMultiDw wr addr words s rfl (.refl _ s) s' h
  | unmappedAccess m wr addr v => exact goes_execUnmappedAccess m wr addr v s rfl (.refl _ s) s' h
  | registerWrite m addr v => exact goes_execRegisterWrite m addr v s rfl (.refl _ s) s' h
  | rcRead m addr => exact goes_execRcRead m addr s rfl (.refl _ s) s' h
  | pageLock m b v => exact goes_execPageLock m b v s rfl (.refl _ s) s' h
  | blockEnable m b => exact goes_execBlockEnable m b s rfl (.refl _ s) s' h
  | blockDisable m b => exact goes_execBlockDisable m b s rfl (.refl _ s) s' h
  | drainSet m b => exact goes_execDrainSet m b s rfl (.refl _ s) s' h
  | drainClear m b => exact goes_execDrainClear m b s rfl (.refl _ s) s' h
  | drainComplete b => exact goes_execDrainComplete b s rfl (.refl _ s) s' h
  | kill m b => exact goes_execKill m b s rfl (.refl _ s) s' h
  | pageRstReq m b => exact goes_execPageRstReq m b s rfl (.refl _ s) s' h
  | irqClear m b v => exact goes_execIrqClear m b v s rfl (.refl _ s) s' h
  | irqForce m b v => exact goes_execIrqForce m b v s rfl (.refl _ s) s' h
  | swIrqSet m v => exact goes_execSwIrqSet m v s rfl (.refl _ s) s' h
  | aptCommit m v => exact goes_execAptCommit m v s rfl (.refl _ s) s' h
  | apertureSwitch => exact goes_execApertureSwitch s rfl (.refl _ s) s' h
  | bar2Access a => exact goes_execBar2Access a s rfl (.refl _ s) s' h
  | hostBeat m v => exact goes_execHostBeat m v s rfl (.refl _ s) s' h
  | hostLost linkUp bme => exact goes_execHostLost linkUp bme s rfl (.refl _ s) s' h
  | hostSeen linkUp bme => exact goes_execHostSeen linkUp bme s rfl (.refl _ s) s' h
  | mbxDoorbell m v => exact goes_execMbxDoorbell m v s rfl (.refl _ s) s' h
  | mbxCommandTake raw data => exact goes_execMbxCommandTake raw data s rfl (.refl _ s) s' h
  | mbxReset => exact goes_execMbxReset s rfl (.refl _ s) s' h
  | eventsLost => exact goes_execEventsLost s rfl (.refl _ s) s' h
  | nop tag => exact goes_execNop tag s rfl (.refl _ s) s' h
  | info tag => exact goes_execInfo tag s rfl (.refl _ s) s' h
  | wareSubmit m w7 => exact goes_execWareSubmit m w7 s rfl (.refl _ s) s' h
  | wareDispatch c us cycles => exact goes_execWareDispatch c us cycles s rfl (.refl _ s) s' h
  | wareWindowRead lane => exact goes_execWareWindowRead lane s rfl (.refl _ s) s' h
  | wareRetire r v => exact goes_execWareRetire r v s rfl (.refl _ s) s' h
  | completionWrite => exact goes_execCompletionWrite s rfl (.refl _ s) s' h
  | takeRead port m us => exact goes_execTakeRead port m us s rfl (.refl _ s) s' h
  | takePoll port m us => exact goes_execTakePoll port m us s rfl (.refl _ s) s' h
  | takeTimeout port => exact goes_execTakeTimeout port s rfl (.refl _ s) s' h
  | matchTimeout key => exact goes_execMatchTimeout key s rfl (.refl _ s) s' h
  | counterWrite m v => exact goes_execCounterWrite m v s rfl (.refl _ s) s' h
  | counterAdd m v => exact goes_execCounterAdd m v s rfl (.refl _ s) s' h
  | classCfgWrite m n v => exact goes_execClassCfgWrite m n v s rfl (.refl _ s) s' h
  | domCfgWrite m v => exact goes_execDomCfgWrite m v s rfl (.refl _ s) s' h
  | queuePush m q v => exact goes_execQueuePush m q v s rfl (.refl _ s) s' h
  | queueHwPush q => exact goes_execQueueHwPush q s rfl (.refl _ s) s' h
  | queuePop m q => exact goes_execQueuePop m q s rfl (.refl _ s) s' h
  | queuePeek m q => exact goes_execQueuePeek m q s rfl (.refl _ s) s' h
  | queueFlush m q => exact goes_execQueueFlush m q s rfl (.refl _ s) s' h
  | qcfgWrite m q v => exact goes_execQcfgWrite m q v s rfl (.refl _ s) s' h
  | checkFrameStart src chan => exact goes_execCheckFrameStart src chan s rfl (.refl _ s) s' h
  | checkFrameEnd src chan data => exact goes_execCheckFrameEnd src chan data s rfl (.refl _ s) s' h
  | cvalWrite m u v => exact goes_execCvalWrite m u v s rfl (.refl _ s) s' h
  | scrubBurst errs => exact goes_execScrubBurst errs s rfl (.refl _ s) s' h
  | sramScrub errs => exact goes_execSramScrub errs s rfl (.refl _ s) s' h
  | openPosition port pos => exact goes_execOpenPosition port pos s rfl (.refl _ s) s' h
  | dropout port => exact goes_execDropout port s rfl (.refl _ s) s' h
  | sinkHot port => exact goes_execSinkHot port s rfl (.refl _ s) s' h
  | drvLinkLost port => exact goes_execDrvLinkLost port s rfl (.refl _ s) s' h
  | stringTest port volts => exact goes_execStringTest port volts s rfl (.refl _ s) s' h
  | fsyncEdge rising c => exact goes_execFsyncEdge rising c s rfl (.refl _ s) s' h
  | shadowWrite m port index v => exact goes_execShadowWrite m port index v s rfl (.refl _ s) s' h
  | swapArm m c => exact goes_execSwapArm m c s rfl (.refl _ s) s' h
  | swapDisarm m => exact goes_execSwapDisarm m s rfl (.refl _ s) s' h
  | drvTake m port => exact goes_execDrvTake m port s rfl (.refl _ s) s' h
  | drvClrFault m port => exact goes_execDrvClrFault m port s rfl (.refl _ s) s' h
  | bankLoad tag c => exact goes_execBankLoad tag c s rfl (.refl _ s) s' h
  | drvStatus tag => exact goes_execDrvStatus tag s rfl (.refl _ s) s' h
  | defaultSet tag => exact goes_execDefaultSet tag s rfl (.refl _ s) s' h
  | cycleBoundary phase volts chans c => exact goes_execCycleBoundary phase volts chans c s rfl (.refl _ s) s' h
  | lineLost c => exact goes_execLineLost c s rfl (.refl _ s) s' h
  | virtualBoundary chans => exact goes_execVirtualBoundary chans s rfl (.refl _ s) s' h
  | coefCommit m c => exact goes_execCoefCommit m c s rfl (.refl _ s) s' h
  | coefCancel m => exact goes_execCoefCancel m s rfl (.refl _ s) s' h
  | meterCheckGo m => exact goes_execMeterCheckGo m s rfl (.refl _ s) s' h
  | checkStart => exact goes_execCheckStart s rfl (.refl _ s) s' h
  | checkComplete x => exact goes_execCheckComplete x s rfl (.refl _ s) s' h
  | balClose m => exact goes_execBalClose m s rfl (.refl _ s) s' h
  | pfail vinMv => exact goes_execPfail vinMv s rfl (.refl _ s) s' h
  | pfailEnd vinMv => exact goes_execPfailEnd vinMv s rfl (.refl _ s) s' h
  | coefLoad tag c => exact goes_execCoefLoad tag c s rfl (.refl _ s) s' h
  | meterCheck tag => exact goes_execMeterCheck tag s rfl (.refl _ s) s' h
  | journalRead tag => exact goes_execJournalRead tag s rfl (.refl _ s) s' h
  | balSet tag => exact goes_execBalSet tag s rfl (.refl _ s) s' h
  | sealTrip nodeMv => exact goes_execSealTrip nodeMv s rfl (.refl _ s) s' h
  | vbakLow vbakMv => exact goes_execVbakLow vbakMv s rfl (.refl _ s) s' h
  | calendarSecond vbakMv c => exact goes_execCalendarSecond vbakMv c s rfl (.refl _ s) s' h
  | rtcCommit m v => exact goes_execRtcCommit m v s rfl (.refl _ s) s' h
  | rtcLoad => exact goes_execRtcLoad s rfl (.refl _ s) s' h
  | rtcTimeRead m cycles => exact goes_execRtcTimeRead m cycles s rfl (.refl _ s) s' h
  | oscFail => exact goes_execOscFail s rfl (.refl _ s) s' h
  | pwronAssert m => exact goes_execPwronAssert m s rfl (.refl _ s) s' h
  | pwronRelease m => exact goes_execPwronRelease m s rfl (.refl _ s) s' h
  | pwronPulseEnd => exact goes_execPwronPulseEnd s rfl (.refl _ s) s' h
  | faillitWrite m v => exact goes_execFaillitWrite m v s rfl (.refl _ s) s' h
  | contHoldWrite m v => exact goes_execContHoldWrite m v s rfl (.refl _ s) s' h
  | tamper loop => exact goes_execTamper loop s rfl (.refl _ s) s' h
  | rtcSet tag => exact goes_execRtcSet tag s rfl (.refl _ s) s' h
  | rtcGet tag cycles => exact goes_execRtcGet tag cycles s rfl (.refl _ s) s' h
  | alarmSet tag => exact goes_execAlarmSet tag s rfl (.refl _ s) s' h
  | faillitSet tag => exact goes_execFaillitSet tag s rfl (.refl _ s) s' h
  | tamperCfg tag => exact goes_execTamperCfg tag s rfl (.refl _ s) s' h
  | photoChange decivolts => exact goes_execPhotoChange decivolts s rfl (.refl _ s) s' h
  | photoSteady => exact goes_execPhotoSteady s rfl (.refl _ s) s' h
  | statChange input on => exact goes_execStatChange input on s rfl (.refl _ s) s' h
  | coilLost coilMv => exact goes_execCoilLost coilMv s rfl (.refl _ s) s' h
  | coilReturn coilMv => exact goes_execCoilReturn coilMv s rfl (.refl _ s) s' h
  | contFault output => exact goes_execContFault output s rfl (.refl _ s) s' h
  | contSequenceStep => exact goes_execContSequenceStep s rfl (.refl _ s) s' h
  | contClrFault m => exact goes_execContClrFault m s rfl (.refl _ s) s' h
  | status req => exact goes_execStatus req s rfl (.refl _ s) s' h
  | selftest req => exact goes_execSelftest req s rfl (.refl _ s) s' h
  | selftestRun fails => exact goes_execSelftestRun fails s rfl (.refl _ s) s' h
  | radioPathTest radio pass => exact goes_execRadioPathTest radio pass s rfl (.refl _ s) s' h
  | drbgReseed pass => exact goes_execDrbgReseed pass s rfl (.refl _ s) s' h
  | zeroize req => exact goes_execZeroize req s rfl (.refl _ s) s' h
  | vaultInit req => exact goes_execVaultInit req s rfl (.refl _ s) s' h
  | enrolPub req => exact goes_execEnrolPub req s rfl (.refl _ s) s' h
  | keyImport req => exact goes_execKeyImport req s rfl (.refl _ s) s' h
  | keyGenerate req => exact goes_execKeyGenerate req s rfl (.refl _ s) s' h
  | keyDerive m v => exact goes_execKeyDerive m v s rfl (.refl _ s) s' h
  | keyExport req => exact goes_execKeyExport req s rfl (.refl _ s) s' h
  | rewrap m v => exact goes_execRewrap m v s rfl (.refl _ s) s' h
  | keyErase req => exact goes_execKeyErase req s rfl (.refl _ s) s' h
  | approve req => exact goes_execApprove req s rfl (.refl _ s) s' h
  | debugOpen req => exact goes_execDebugOpen req s rfl (.refl _ s) s' h
  | encrypt m v mode iv => exact goes_execEncrypt m v mode iv s rfl (.refl _ s) s' h
  | decrypt m v mode iv => exact goes_execDecrypt m v mode iv s rfl (.refl _ s) s' h
  | mac m v => exact goes_execMac m v s rfl (.refl _ s) s' h
  | sigVerify m v => exact goes_execSigVerify m v s rfl (.refl _ s) s' h
  | random m v => exact goes_execRandom m v s rfl (.refl _ s) s' h
  | measExtend m v => exact goes_execMeasExtend m v s rfl (.refl _ s) s' h
  | tapInstruction k => exact goes_execTapInstruction k s rfl (.refl _ s) s' h
  | logSubmit m v => exact goes_execLogSubmit m v s rfl (.refl _ s) s' h
  | recordWrite => exact goes_execRecordWrite s rfl (.refl _ s) s' h
  | lostRecord => exact goes_execLostRecord s rfl (.refl _ s) s' h
  | ledgerScanDone => exact goes_execLedgerScanDone s rfl (.refl _ s) s' h
  | cursorWrite m v => exact goes_execCursorWrite m v s rfl (.refl _ s) s' h
  | windowAutoRead m => exact goes_execWindowAutoRead m s rfl (.refl _ s) s' h
  | seriesFeed m v => exact goes_execSeriesFeed m v s rfl (.refl _ s) s' h
  | serCtrlClear m v => exact goes_execSerCtrlClear m v s rfl (.refl _ s) s' h
  | seriesSave => exact goes_execSeriesSave s rfl (.refl _ s) s' h
  | optimeSave => exact goes_execOptimeSave s rfl (.refl _ s) s' h
  | ledgerRead tag => exact goes_execLedgerRead tag s rfl (.refl _ s) s' h
  | ledgerNote tag => exact goes_execLedgerNote tag s rfl (.refl _ s) s' h
  | seriesRead tag => exact goes_execSeriesRead tag s rfl (.refl _ s) s' h
  | seriesCfg tag => exact goes_execSeriesCfg tag s rfl (.refl _ s) s' h
  | seriesClear tag => exact goes_execSeriesClear tag s rfl (.refl _ s) s' h
  | linkUp east => exact goes_execLinkUp east s rfl (.refl _ s) s' h
  | linkDown east => exact goes_execLinkDown east s rfl (.refl _ s) s' h
  | ringFrameReceive east frame c res => exact goes_execRingFrameReceive east frame c res s rfl (.refl _ s) s' h
  | discover => exact goes_execDiscover s rfl (.refl _ s) s' h
  | discoverSend => exact goes_execDiscoverSend s rfl (.refl _ s) s' h
  | ringDelayMeasure c => exact goes_execRingDelayMeasure c s rfl (.refl _ s) s' h
  | dlyReq c => exact goes_execDlyReq c s rfl (.refl _ s) s' h
  | dlyResp => exact goes_execDlyResp s rfl (.refl _ s) s' h
  | syncSend c => exact goes_execSyncSend c s rfl (.refl _ s) s' h
  | sync => exact goes_execSync s rfl (.refl _ s) s' h
  | masterLost c => exact goes_execMasterLost c s rfl (.refl _ s) s' h
  | heartbeatSend => exact goes_execHeartbeatSend s rfl (.refl _ s) s' h
  | heartbeat => exact goes_execHeartbeat s rfl (.refl _ s) s' h
  | pathLost => exact goes_execPathLost s rfl (.refl _ s) s' h
  | takeoverDecision => exact goes_execTakeoverDecision s rfl (.refl _ s) s' h
  | checkpointCapture => exact goes_execCheckpointCapture s rfl (.refl _ s) s' h
  | ckptData => exact goes_execCkptData s rfl (.refl _ s) s' h
  | ckptAck => exact goes_execCkptAck s rfl (.refl _ s) s' h
  | checkpointAbandon => exact goes_execCheckpointAbandon s rfl (.refl _ s) s' h
  | demotionCheck => exact goes_execDemotionCheck s rfl (.refl _ s) s' h
  | prepare => exact goes_execPrepare s rfl (.refl _ s) s' h
  | ready => exact goes_execReady s rfl (.refl _ s) s' h
  | refuse => exact goes_execRefuse s rfl (.refl _ s) s' h
  | ringDecide => exact goes_execRingDecide s rfl (.refl _ s) s' h
  | ringDecisionRepeat => exact goes_execRingDecisionRepeat s rfl (.refl _ s) s' h
  | ringCommit => exact goes_execRingCommit s rfl (.refl _ s) s' h
  | ringAbort => exact goes_execRingAbort s rfl (.refl _ s) s' h
  | ringQuery => exact goes_execRingQuery s rfl (.refl _ s) s' h
  | ringConfirm => exact goes_execRingConfirm s rfl (.refl _ s) s' h
  | ringDoubtQuery => exact goes_execRingDoubtQuery s rfl (.refl _ s) s' h
  | ringDoubtExpiry => exact goes_execRingDoubtExpiry s rfl (.refl _ s) s' h
  | ringResetFrame => exact goes_execRingResetFrame s rfl (.refl _ s) s' h
  | ringData => exact goes_execRingData s rfl (.refl _ s) s' h
  | rrstCtrlWrite m v => exact goes_execRrstCtrlWrite m v s rfl (.refl _ s) s' h
  | mapForget m v => exact goes_execMapForget m v s rfl (.refl _ s) s' h
  | fovCfgWrite m v => exact goes_execFovCfgWrite m v s rfl (.refl _ s) s' h
  | ckptFull m => exact goes_execCkptFull m s rfl (.refl _ s) s' h
  | fovRelease via => exact goes_execFovRelease via s rfl (.refl _ s) s' h
  | ringStatus tag => exact goes_execRingStatus tag s rfl (.refl _ s) s' h
  | ringReset tag => exact goes_execRingReset tag s rfl (.refl _ s) s' h
  | ringForget tag => exact goes_execRingForget tag s rfl (.refl _ s) s' h
  | fovSet tag => exact goes_execFovSet tag s rfl (.refl _ s) s' h
  | ckptNow tag => exact goes_execCkptNow tag s rfl (.refl _ s) s' h
  | updBegin tag => exact goes_execUpdBegin tag s rfl (.refl _ s) s' h
  | updBlock tag => exact goes_execUpdBlock tag s rfl (.refl _ s) s' h
  | updStatus tag => exact goes_execUpdStatus tag s rfl (.refl _ s) s' h
  | updApply tag => exact goes_execUpdApply tag s rfl (.refl _ s) s' h
  | applyDone emmcErrAt => exact goes_execApplyDone emmcErrAt s rfl (.refl _ s) s' h
  | updCommit tag => exact goes_execUpdCommit tag s rfl (.refl _ s) s' h
  | copyDone c => exact goes_execCopyDone c s rfl (.refl _ s) s' h
  | updReset => exact goes_execUpdReset s rfl (.refl _ s) s' h
  | updAbort tag => exact goes_execUpdAbort tag s rfl (.refl _ s) s' h
  | settingsArchiveRead tag => exact goes_execSettingsArchiveRead tag s rfl (.refl _ s) s' h
  | settingsReset => exact goes_execSettingsReset s rfl (.refl _ s) s' h
  | updBooted => exact goes_execUpdBooted s rfl (.refl _ s) s' h
  | nodeEnroll tag => exact goes_execNodeEnroll tag s rfl (.refl _ s) s' h
  | nodeRemove tag => exact goes_execNodeRemove tag s rfl (.refl _ s) s' h
  | nodeTable tag => exact goes_execNodeTable tag s rfl (.refl _ s) s' h
  | joinCtrl tag => exact goes_execJoinCtrl tag s rfl (.refl _ s) s' h
  | graphLoad tag => exact goes_execGraphLoad tag s rfl (.refl _ s) s' h
  | policySet tag => exact goes_execPolicySet tag s rfl (.refl _ s) s' h
  | weatherSet tag => exact goes_execWeatherSet tag s rfl (.refl _ s) s' h
  | tracksGet tag => exact goes_execTracksGet tag s rfl (.refl _ s) s' h
  | modeSet tag => exact goes_execModeSet tag s rfl (.refl _ s) s' h
  | modeCancel tag => exact goes_execModeCancel tag s rfl (.refl _ s) s' h
  | modeStatus tag => exact goes_execModeStatus tag s rfl (.refl _ s) s' h
  | ringMode tag => exact goes_execRingMode tag s rfl (.refl _ s) s' h
  | schedPush tag => exact goes_execSchedPush tag s rfl (.refl _ s) s' h
  | vbakSwitchover vbakMv => exact goes_execVbakSwitchover vbakMv s rfl (.refl _ s) s' h
  | vbakRestored vbakMv => exact goes_execVbakRestored vbakMv s rfl (.refl _ s) s' h
  | oscRestart => exact goes_execOscRestart s rfl (.refl _ s) s' h
  | porterTransferDone t => exact goes_execPorterTransferDone t s rfl (.refl _ s) s' h
  | vaultOpComplete condFail => exact goes_execVaultOpComplete condFail s rfl (.refl _ s) s' h
  | txFrameEnd radio => exact goes_execTxFrameEnd radio s rfl (.refl _ s) s' h
  | ringDecisionExpiry => exact goes_execRingDecisionExpiry s rfl (.refl _ s) s' h

/-- No command changes more than the answer, the eMMC and what a reset of the module can change. -/
theorem touches_sub (i : Instr) : subParts (touches i) (.resp :: .emc :: resetParts) = true := by
  cases i <;> rfl

/-- No list of parts holds the queue or the identity. -/
theorem touches_spares (i : Instr) : .pending ∉ touches i ∧ .modId ∉ touches i :=
  ⟨fun h => absurd (subParts_mem (touches_sub i) h) (by decide), fun h => absurd (subParts_mem (touches_sub i) h) (by decide)⟩

/-- A step keeps canonical stores: the queue is no part of them, and the front command keeps them. -/
theorem step_canon {s t : State} (c : Canon s) (h : step s = .next t) : Canon t := by
  unfold step at h
  split at h
  · cases h
    exact c
  · exact (exec_goes h).2 c

/-- Settles O2: the queue and the identity are in no command's list of parts. -/
theorem commandsKeepQueueAndIdentity : Obligations.CommandsKeepQueueAndIdentity := by
  intro i s t h
  obtain ⟨hp, hm⟩ := touches_spares i
  exact ⟨(exec_goes h).1 .pending hp, (exec_goes h).1 .modId hm⟩

/-- Settles O3, by the canonical-form half of what every command keeps. -/
theorem storesStayCanonical : Obligations.StoresStayCanonical := fun _ _ => step_canon

/-- Settles O6, by the frame half of what every command keeps. -/
theorem commandsChangeNamedPartsOnly : Obligations.CommandsChangeNamedPartsOnly := fun _ _ _ h => (exec_goes h).1

end Sys2Proof.Machine
end

section
/-! SUPPORT. Serial comparison of 32-bit tick fields. -/

namespace Sys2Proof.Machine

open Sys2Proof

/-! ### Serial comparison (R7) -/

/-- The serial difference is the difference of the words as a signed number. -/
theorem tickDiff_eq_toInt (a b : Word) : tickDiff a b = (a - b).toInt := by
  unfold tickDiff sgn
  rw [BitVec.toInt_eq_toNat_cond, Nat.mod_eq_of_lt (a - b).isLt]
  have half : ((a - b).toNat < 2 ^ (32 - 1)) ↔ 2 * (a - b).toNat < 2 ^ 32 := by omega
  simp only [half]
  split <;> rfl

theorem later_iff_toInt (a b : Word) : later a b = true ↔ 0 < (a - b).toInt := by
  simp [later, tickDiff_eq_toInt]

theorem later_iff_toNat (a b : Word) : later a b = true ↔ 1 ≤ (a - b).toNat ∧ (a - b).toNat ≤ 2 ^ 31 - 1 := by
  rw [later_iff_toInt, BitVec.toInt_eq_toNat_cond]
  have := (a - b).isLt
  split <;> omega

/-- A difference of 2^31 is the same in both directions. -/
theorem sub_toNat_half_comm {a b : Word} (h : (a - b).toNat = 2 ^ 31) : (b - a).toNat = 2 ^ 31 := by
  rw [BitVec.toNat_sub] at h ⊢
  have := a.isLt
  have := b.isLt
  omega

/-- Fields 2^31 apart are in no order. -/
theorem not_later_of_half {a b : Word} (h : (a - b).toNat = 2 ^ 31) : later a b = false := by
  rw [← Bool.not_eq_true, later_iff_toNat, h]
  omega

/-- A word of a number wraps every 2^32. -/
theorem w32_wraps (n : Nat) : w32 (n + 2 ^ 32) = w32 n := by
  apply BitVec.eq_of_toNat_eq
  simp

/-- Settles O26: the serial difference is the signed difference of the words, which is positive from 1 to 2^31 - 1. -/
theorem serialComparisonOfTicks : Obligations.SerialComparisonOfTicks :=
  ⟨fun s => BitVec.toNat_ofNat s.tick 32, fun n => ⟨w32_wraps n, BitVec.toNat_ofNat n 32⟩, rfl, later_iff_toInt, later_iff_toNat,
    fun _ _ h => ⟨not_later_of_half h, not_later_of_half (sub_toNat_half_comm h)⟩⟩

end Sys2Proof.Machine
end

section
/-! SUPPORT. Page and header addresses, what single updates change, and word accesses to an open page, to the header and to packet SRAM. -/

namespace Sys2Proof.Machine

open Sys2Proof

/-! ### Pages and headers (R65, R67) -/

theorem mem_allBlks (b : Blk) : b ∈ allBlks := by
  cases b with
  | lane n | rad n | drv n => fin_cases n <;> decide
  | _ => decide

/-- The first page of a block is its own. -/
theorem blkOfPage_base (b : Blk) : blkOfPage (blkBase b / 0x1000) = some (b, 0) := by
  have all : ∀ b ∈ allBlks, blkOfPage (blkBase b / 0x1000) = some (b, 0) := by decide
  exact all b (mem_allBlks b)

/-- Pages lie at multiples of 4,096, below the MSI-X structures. -/
theorem blkBase_aligned (b : Blk) : blkBase b % 0x1000 = 0 ∧ blkBase b ≤ 0x2E000 := by
  have all : ∀ b ∈ allBlks, blkBase b % 0x1000 = 0 ∧ blkBase b ≤ 0x2E000 := by decide
  exact all b (mem_allBlks b)

theorem blkOfPage_hdr (b : Blk) {off : Nat} (h : off < 0x1000) : blkOfPage (hdr b off / 0x1000) = some (b, 0) := by
  have e : hdr b off / 0x1000 = blkBase b / 0x1000 := by
    have := (blkBase_aligned b).1
    unfold hdr
    omega
  rw [e, blkOfPage_base]

theorem hdr_mod (b : Blk) {off : Nat} (h : off < 0x1000) : hdr b off % 0x1000 = off := by
  have := (blkBase_aligned b).1
  unfold hdr
  omega

theorem isMsix_hdr (b : Blk) {off : Nat} (h : off < 0x1000) : isMsix (hdr b off) = false := by
  have := (blkBase_aligned b).2
  simp only [isMsix, hdr, Bool.or_eq_false_iff, Bool.and_eq_false_iff, decide_eq_false_iff_not]
  omega

/-! ### What single updates change -/

theorem State.wr_changes (s : State) (a : Nat) (v : Word) : ChangesOnly [.regs] s (s.wr a v) := (goes_wr s a v rfl (.refl _ s)).1

theorem State.answer_changes (s : State) (r : Resp) : ChangesOnly [.resp] s (s.answer r) := (goes_answer s r rfl (.refl _ s)).1

theorem State.sramWrite_changes (s : State) (a : Nat) (b : Bytes) : ChangesOnly [.mem] s (s.sramWrite a b) := (goes_sramWrite s a b rfl (.refl _ s)).1

/-- Answering after a change adds the answer to the parts. -/
theorem ChangesOnly.answer {ps qs : List Part} {s t : State} (h : ChangesOnly ps s t) (r : Resp) (hs : ∀ p ∈ ps, p ∈ qs) (hr : .resp ∈ qs) :
    ChangesOnly qs s (t.answer r) :=
  (h.mono hs).trans ((t.answer_changes r).mono (by simpa using hr))

theorem RegsOnly.trans {as : List Nat} {s t u : State} (h : RegsOnly as s t) (h' : RegsOnly as t u) : RegsOnly as s u :=
  fun a ha => (h' a ha).trans (h a ha)

theorem RegsOnly.mono {as bs : List Nat} {s t : State} (h : RegsOnly as s t) (hs : ∀ a ∈ as, a ∈ bs) : RegsOnly bs s t :=
  fun a ha => h a fun hm => ha (hs a hm)

theorem RegsOnly.wr (s : State) (a : Nat) (v : Word) : RegsOnly [a] s (s.wr a v) :=
  fun _ h => s.rd_wr_ne v (by simpa using h)

theorem RegsOnly.err (s : State) (b : Blk) (code off : Nat) (m : Master) : RegsOnly [hdr b oErr, hdr b oRaw] s (s.err b code off m) := by
  intro a h
  simp only [List.mem_cons, List.not_mem_nil, or_false, not_or] at h
  obtain ⟨herr, hraw⟩ := h
  exact s.err_rd_ne b code off m herr hraw

/-- Two registers stored as one 64-bit value read back as it. -/
theorem State.rd64_wr64 (s : State) {lo hi : Nat} (v : Nat) (h : lo ≠ hi) : (s.wr64 lo hi v).rd64 lo hi = v % 2 ^ 64 := by
  simp only [State.rd64, State.wr64, State.rn, State.rd_wr_ne _ _ h, State.rd_wr_same, BitVec.toNat_ofNat]
  omega

theorem State.wr64_regsOnly (s : State) (lo hi v : Nat) : RegsOnly [lo, hi] s (s.wr64 lo hi v) :=
  ((RegsOnly.wr s lo _).mono (by simp)).trans ((RegsOnly.wr _ hi _).mono (by simp))

/-- The code of the first error since the last read is kept (R70). -/
theorem State.err_first_code (s : State) (b : Blk) {code : Nat} (off : Nat) (m : Master) (hc : code < 256) (h : s.rd (hdr b oErr) = 0) :
    (s.err b code off m).rf (hdr b oErr) 0 8 = code := by
  unfold State.rf fld
  rw [s.err_first b code off m h, BitVec.toNat_ofNat]
  omega

/-! ### Requests that nothing holds up -/

theorem State.bar0Held_of_not_waits {s : State} (h : s.hostWaits = false) : s.host.bar0Held = [] := by
  simpa [State.hostWaits] using (Bool.or_eq_false_iff.mp h).2

/-- With no request of the host waiting there is none to serve. -/
theorem State.hostFlush_none {s : State} (h : s.host.bar0Held = []) : s.hostFlush = s := by
  simp [State.hostFlush, h]

theorem State.pageWrite_open {s : State} {b : Blk} {m : Master} {off : Nat} (h : PageOpen s b m) (hd : s.hostDenied b m off = false) (f : State → State) :
    s.pageWrite b off m f = (f s).answer .done := by
  simp [State.pageWrite, State.onPage_open h, hd]

/-- A page that is open is not of UPD in a dead module. -/
theorem PageOpen.not_deadUpd {s : State} {b : Blk} {m : Master} (h : PageOpen s b m) : (decide (s.boot.stage = .dead) && decide (b = .upd)) = false := by
  obtain ⟨_, hshut, _⟩ := h
  by_cases hu : b = .upd
  · subst hu
    simpa [State.shut] using hshut
  · simp [hu]

/-- A word written at a BAR0 offset reaches the register of its page. -/
theorem State.busWrite_page {s : State} {m : Master} {addr a p : Nat} {b : Blk} (v : Word) (ha : busOff m addr = some a) (hx : isMsix a = false)
    (hb : blkOfPage (a / 0x1000) = some (b, p)) (ho : PageOpen s b m) (hd : s.hostDenied b m (a % 0x1000) = false) :
    s.busWrite m addr v = (s.pageStore b m p (a % 0x1000) v).answer .done := by
  simp only [State.busWrite, ha, State.barReq_open ho, State.regWrite, hx, hb, State.pageWrite_open ho hd, Bool.false_eq_true, if_false]

/-- A word read at a BAR0 offset comes from the register of its page. -/
theorem State.busRead_page {s : State} {m : Master} {addr a p : Nat} {b : Blk} (ha : busOff m addr = some a) (hx : isMsix a = false)
    (hb : blkOfPage (a / 0x1000) = some (b, p)) (ho : PageOpen s b m) : s.busRead m addr = s.pageLoad b m p (a % 0x1000) := by
  simp only [State.busRead, ha, State.barReq_open ho, State.regRead, hx, hb, ho.not_deadUpd, State.onPage_open ho, Bool.false_eq_true, if_false]

/-! ### Header registers -/

/-- No header register has a read with an effect of its own: those of the eight blocks that have any lie at 0x40 and above. -/
theorem State.actRead_header (s : State) (b : Blk) (m : Master) (p : Nat) {off : Nat} (h : off < 0x40) : s.actRead b m p off = none := by
  cases b with
  | mkt | que | chk | ntm | pwt | pwr | emc | ldg => grind [State.actRead]
  | _ => rfl

/-- A read of ERR_CODE answers it and clears it (R70). -/
theorem State.pageLoad_err (s : State) (b : Blk) (m : Master) (p : Nat) :
    s.pageLoad b m p oErr = (s.wr (hdr b oErr) 0).answer (.data (s.rd (hdr b oErr))) := by
  have h : oErr < 0x40 := by decide
  simp [State.pageLoad, s.actRead_header b m p h, State.pageVal, State.hdrRead, rcMask, h]

/-- A write of PAGE_STAT clears KILLED and bit 2 where written 1 (R67). -/
theorem State.pageStore_stat (s : State) (b : Blk) (m : Master) (p : Nat) (v : Word) :
    s.pageStore b m p oStat v = s.wr (hdr b oStat) (s.rd (hdr b oStat) &&& ~~~(v &&& 0x24)) := by
  have h : oStat < 0x40 := by decide
  simp [State.pageStore, State.hdrWrite, h]

/-- PAGE_ID, PAGE_CAP and ERR_CODE ignore writes (R67). -/
theorem State.pageStore_header_fixed (s : State) (b : Blk) (m : Master) (p : Nat) (v : Word) {off : Nat} (h : off = 0 ∨ off = 4 ∨ off = oErr) :
    s.pageStore b m p off v = s := by
  have lt : off < 0x40 := by rcases h with rfl | rfl | rfl <;> decide
  rcases h with rfl | rfl | rfl <;> simp [State.pageStore, State.hdrWrite, lt]

/-- The lock of a page refuses a write to a register with lockable fields (R71). -/
theorem State.pageStore_locked (s : State) (b : Blk) (m : Master) (p off : Nat) (v : Word) (h : 0x40 ≤ off) (hl : s.locked b = true)
    (hr : rowLocks (blkBase b + 0x1000 * p + off) = true) : s.pageStore b m p off v = s.err b eLocked off m := by
  simp [State.pageStore, Nat.not_lt.mpr h, hl, hr]

/-! ### Words in packet SRAM (R141) -/

@[simp] theorem toLe_length (n v : Nat) : (toLe n v).length = n := by
  induction n generalizing v with
  | zero => rfl
  | succ n ih => simp [toLe, ih]

theorem svcLoc_sram {a : Nat} (h : a < 0x400000) : svcLoc (0x10000000 + a) = some (.sram a) := by
  unfold svcLoc
  rw [if_neg (by omega), if_neg (by omega), if_pos (by omega), Nat.add_sub_cancel_left]

/-- A word that the service core writes to packet SRAM is stored there. -/
theorem State.busWrite_sram (s : State) {a : Nat} (v : Word) (h : a < 0x400000) :
    s.busWrite .svc (0x10000000 + a) v = (s.sramWrite a (toLe 4 v.toNat)).answer .done := by
  have ho : busOff .svc (0x10000000 + a) = none := if_neg (by omega)
  simp only [State.busWrite, ho, State.busLoc, svcLoc_sram h, if_neg (show ¬ 0x10000000 + a < 0x20000 by omega)]
  rfl

theorem memRead_sramWrite (s : State) (a : Nat) (b : Bytes) : memRead (s.sramWrite a b).mem.sram a b.length = b :=
  memRead_memWrite_same _ _ _

end Sys2Proof.Machine
end

section
/-! SUPPORT. The values that registers and stores have after a power-on cold reset. -/

namespace Sys2Proof.Machine

open Sys2Proof

/-! ### The state after a power-on cold reset (R14) -/

/-- After reset every register reads as its reset value. -/
theorem reset_rd (a : Nat) : State.reset.rd a = regDefault false a := rfl

/-- The header registers above PAGE_CAP have reset value 0, but for PAGE_STAT, which has DRAINED and bit 2 set (R67). -/
theorem regDefault_hdr (v : Bool) (b : Blk) {off : Nat} (h : off < 0x40) (h0 : off ≠ 0) (h4 : off ≠ 4) :
    regDefault v (hdr b off) = if off = oStat then 6 else 0 := by
  have hb : ¬ 0xF00000 ≤ hdr b off := by
    have := (blkBase_aligned b).2
    unfold hdr
    omega
  unfold regDefault
  rw [if_neg hb, blkOfPage_hdr b (by omega)]
  simp only [hdr_mod b (show off < 0x1000 by omega), h, h0, h4, if_true, if_false]

theorem reset_rd_hdr (b : Blk) {off : Nat} (h : off < 0x40) (h0 : off ≠ 0) (h4 : off ≠ 4) : State.reset.rd (hdr b off) = if off = oStat then 6 else 0 :=
  (reset_rd _).trans (regDefault_hdr false b h h0 h4)

theorem reset_en (b : Blk) : State.reset.en b = false := by
  unfold State.en State.rb
  rw [reset_rd_hdr b (by decide) (by decide) (by decide)]
  rfl

theorem reset_drained (b : Blk) : State.reset.drained b = true := by
  unfold State.drained State.rb
  rw [reset_rd_hdr b (by decide) (by decide) (by decide)]
  rfl

theorem reset_err (b : Blk) : State.reset.rd (hdr b oErr) = 0 := reset_rd_hdr b (by decide) (by decide) (by decide)

theorem reset_raw (b : Blk) : State.reset.rd (hdr b oRaw) = 0 := reset_rd_hdr b (by decide) (by decide) (by decide)

theorem reset_queues_empty {q : Queue} (h : q ∈ State.reset.que.q) : q.ents = [] := by
  rw [List.eq_of_mem_replicate h]

theorem reset_canon : Canon State.reset := ⟨rfl, rfl, rfl, rfl, rfl, rfl, rfl⟩

/-- Settles O5: after reset nothing is listed, so every register reads as its reset value and every store is empty. -/
theorem resetValues : Obligations.ResetValues :=
  ⟨⟨by decide, by decide, by decide, fun b _ => ⟨reset_en b, reset_drained b, reset_err b, reset_raw b⟩,
    rfl, rfl, rfl, rfl, fun _ h => reset_queues_empty h, by decide⟩, reset_canon, rfl⟩

end Sys2Proof.Machine
end

section
/-! SUPPORT. What the commands that carry a word, and the narrow and long accesses, do to a state. -/

namespace Sys2Proof.Machine

open Sys2Proof

/-! ### The commands that carry a word -/

theorem exec_registerWrite {m : Master} {s : State} (a : Nat) (v : Word) (h : s.laneHeld m = false) :
    exec (.registerWrite m a v) s = .next (s.busWrite m a v).hostFlush := by
  simp [exec, execRegisterWrite, h]

theorem exec_rcRead {m : Master} {s : State} (a : Nat) (h : s.laneHeld m = false) : exec (.rcRead m a) s = .next (s.busRead m a) := by
  simp [exec, execRcRead, h]

/-- A read of ERR_CODE by the host answers it and clears it, and does no more (R70). -/
theorem exec_rcRead_err {b : Blk} {s : State} (ho : PageOpen s b .host) :
    exec (.rcRead .host (hdr b oErr)) s = .next ((s.wr (hdr b oErr) 0).answer (.data (s.rd (hdr b oErr)))) := by
  rw [exec_rcRead _ rfl, State.busRead_page (a := hdr b oErr) rfl (isMsix_hdr b (by decide)) (blkOfPage_hdr b (by decide)) ho, hdr_mod b (by decide),
    State.pageLoad_err]

/-- A write of PAGE_STAT by the host clears KILLED and bit 2 where written 1, and does no more (R67). -/
theorem exec_registerWrite_stat {b : Blk} {s : State} (v : Word) (ho : PageOpen s b .host) (hd : s.hostDenied b .host oStat = false) :
    exec (.registerWrite .host (hdr b oStat) v) s = .next ((s.wr (hdr b oStat) (s.rd (hdr b oStat) &&& ~~~(v &&& 0x24))).answer .done) := by
  have hm := hdr_mod b (off := oStat) (by decide)
  rw [exec_registerWrite _ v rfl, State.busWrite_page v (a := hdr b oStat) rfl (isMsix_hdr b (by decide)) (blkOfPage_hdr b (by decide)) ho (by rwa [hm]), hm,
    State.pageStore_stat, State.hostFlush_none]
  exact State.bar0Held_of_not_waits (ho.2.2 rfl)

theorem exec_registerWrite_sram {a : Nat} (v : Word) {s : State} (h : a < 0x400000) (hb : s.host.bar0Held = []) :
    exec (.registerWrite .svc (0x10000000 + a) v) s = .next ((s.sramWrite a (toLe 4 v.toNat)).answer .done) := by
  rw [exec_registerWrite _ v rfl, State.busWrite_sram s v h, State.hostFlush_none]
  exact hb

/-! ### Narrow and long accesses (R9, R58) -/

theorem exec_narrowWrite {m : Master} {addr a p : Nat} {b : Blk} {s : State} (v : Word) (ha : busOff m addr = some a)
    (hb : blkOfPage (a / 0x1000) = some (b, p)) (ho : PageOpen s b m) :
    exec (.narrowWrite m addr v) s = .next ((s.err b eNarrowWrite (a % 0x1000) m).answer .done) := by
  simp [exec, execNarrowWrite, ha, State.barReq_open ho, State.narrow, hb, State.onPage_open ho]

theorem exec_narrowRead {m : Master} {addr a p : Nat} {b : Blk} {s : State} (ha : busOff m addr = some a)
    (hb : blkOfPage (a / 0x1000) = some (b, p)) (ho : PageOpen s b m) :
    exec (.narrowRead m addr) s = .next ((s.err b eNarrowRead (a % 0x1000) m).answer (.data 0)) := by
  simp [exec, execNarrowRead, ha, State.barReq_open ho, State.narrow, hb, State.onPage_open ho]

theorem exec_narrow_outside {m : Master} {addr : Nat} (v : Word) (s : State) (h : busOff m addr = none) :
    exec (.narrowWrite m addr v) s = .next s ∧ exec (.narrowRead m addr) s = .next s := by
  simp [exec, execNarrowWrite, execNarrowRead, h]

theorem exec_multiDw (wr : Bool) (addr : Nat) (ws : List Word) {s : State} (hr : s.inReset .sys = false) (hw : s.hostWaits = false) :
    exec (.multiDw wr addr ws) s = .next ((s.sysErr eMultiDw addr .host).answer (if wr then .done else .unsupported)) := by
  simp [exec, execMultiDw, State.barReq, hw, State.multiDw, hr]

/-- ERR_ADDR shows the address that goes with an error of SYS (R66). -/
theorem State.sysErr_addr (s : State) (code a : Nat) (m : Master) : (s.sysErr code a m).rd64 R.sys_ERR_ADDR_LO R.sys_ERR_ADDR_HI = a % 2 ^ 64 :=
  State.rd64_wr64 _ a (by decide)

theorem State.sysErr_first_code (s : State) {code : Nat} (a : Nat) (m : Master) (hc : code < 256) (h : s.rd (hdr .sys oErr) = 0) :
    (s.sysErr code a m).rf (hdr .sys oErr) 0 8 = code := by
  have e : (s.sysErr code a m).rd (hdr .sys oErr) = (s.err .sys code (a % 0x1000) m).rd (hdr .sys oErr) :=
    State.wr64_regsOnly _ _ _ a _ (by decide)
  unfold State.rf
  rw [e]
  exact s.err_first_code .sys _ m hc h

theorem State.sysErr_regsOnly (s : State) (code a : Nat) (m : Master) :
    RegsOnly [hdr .sys oErr, hdr .sys oRaw, R.sys_ERR_ADDR_LO, R.sys_ERR_ADDR_HI] s (s.sysErr code a m) :=
  ((RegsOnly.err s .sys code _ m).mono (by simp)).trans ((State.wr64_regsOnly _ _ _ a).mono (by simp))

theorem State.sysErr_changes (s : State) (code a : Nat) (m : Master) : ChangesOnly [.regs, .pba, .out] s (s.sysErr code a m) :=
  (s.err_changes .sys code _ m).trans (((State.wr_changes _ _ _).trans (State.wr_changes _ _ _)).mono (by simp))

/-- Settles O30: each access is computed on an open page, and its frame follows from what the one update it makes can change. -/
theorem registersAreReadAndWrittenAsWords : Obligations.RegistersAreReadAndWrittenAsWords := by
  refine ⟨⟨?word, ?page, ?errCode, ?pageStat, ?locked, ?fixed, ?sram⟩, ?narrow, ?outside, ?long⟩
  case word => exact fun m a v s h => ⟨exec_registerWrite a v h, exec_rcRead a h⟩
  case page =>
    intro m addr a p b v s hl ha hx hb ho hd
    rw [exec_registerWrite addr v hl, exec_rcRead addr hl, State.busWrite_page v ha hx hb ho hd, State.busRead_page ha hx hb ho]
    exact ⟨rfl, rfl⟩
  case errCode =>
    intro b s ho
    exact ⟨_, exec_rcRead_err ho, rfl, State.rd_wr_same _ _ _, RegsOnly.wr _ _ _, (s.wr_changes _ _).answer _ (by simp) (by simp)⟩
  case pageStat =>
    intro b v s ho hd
    exact ⟨_, exec_registerWrite_stat v ho hd, State.rd_wr_same _ _ _, rfl, RegsOnly.wr _ _ _, (s.wr_changes _ _).answer _ (by simp) (by simp)⟩
  case locked => exact State.pageStore_locked
  case fixed =>
    intro s b m p v
    exact ⟨s.pageStore_header_fixed b m p v (.inl rfl), s.pageStore_header_fixed b m p v (.inr (.inl rfl)),
      s.pageStore_header_fixed b m p v (.inr (.inr rfl))⟩
  case sram =>
    intro a v s h _ hb
    refine ⟨_, exec_registerWrite_sram v (by omega) hb, rfl, memRead_sramWrite s a (toLe 4 v.toNat), fun x hx => ?_,
      (s.sramWrite_changes _ _).answer _ (by simp) (by simp)⟩
    exact congrArg (· :: []) (memGet_memWrite_outside _ _ _ _ (by rwa [toLe_length]))
  case narrow =>
    intro m addr a v b p s ha hb ho
    exact ⟨⟨_, exec_narrowWrite v ha hb ho, rfl, s.err_first_code b _ m (by decide), rfl, RegsOnly.err _ _ _ _ _⟩,
      ⟨_, exec_narrowRead ha hb ho, rfl, s.err_first_code b _ m (by decide), rfl, RegsOnly.err _ _ _ _ _⟩⟩
  case outside => exact fun m addr v s h => exec_narrow_outside v s h
  case long =>
    intro wr addr ws s hr hw
    exact ⟨_, exec_multiDw wr addr ws hr hw, rfl, s.sysErr_addr _ addr _, s.sysErr_first_code addr _ (by decide), s.sysErr_regsOnly _ addr _,
      (s.sysErr_changes _ addr _).answer _ (by simp) (by simp)⟩

end Sys2Proof.Machine
end

section
/-! SUPPORT. The checks that a taken mailbox command meets before its own rule. -/

namespace Sys2Proof.Machine

open Sys2Proof

/-! ### The checks in their order (R20, R23, R74, R75) -/

/-- Without a command that may start nothing runs. -/
theorem State.withCmd_none {s : State} {opc : Nat} {tag : Word} (h : s.startable opc tag = none) (f : Cmd → State → State) : s.withCmd opc tag f = s := by
  simp only [State.withCmd, h]

/-- A command whose data could not be fetched is answered DMA_FAULT. -/
theorem State.withCmd_dmaFault {s : State} {opc : Nat} {tag : Word} {c : Cmd} (h : s.startable opc tag = some c) (hd : c.data = none)
    (f : Cmd → State → State) : s.withCmd opc tag f = s.reply c stDmaFault [] [] := by
  simp only [State.withCmd, h, hd, if_true]

/-- A command with an apply tick while there is no time for it is recorded and answered NO_TIME. -/
theorem State.withCmd_noTime {s : State} {opc : Nat} {tag : Word} {c : Cmd} (h : s.startable opc tag = some c) (hd : c.data ≠ none)
    (ha : c.e.apply ≠ 0) (ht : s.timeFor c.e.apply = false) (f : Cmd → State → State) :
    s.withCmd opc tag f = (s.noTime .mbx c.e.apply).reply c stNoTime [] [] := by
  have hc : (c.e.apply ≠ 0 && !s.timeFor c.e.apply) = true := by simpa [ht] using ha
  simp only [State.withCmd, h, if_neg hd, if_pos hc]

/-- A command whose apply tick lies earlier than two ticks after it was taken is answered LATE. -/
theorem State.withCmd_late {s : State} {opc : Nat} {tag : Word} {c : Cmd} (h : s.startable opc tag = some c) (hd : c.data ≠ none)
    (ha : c.e.apply ≠ 0) (ht : s.timeFor c.e.apply = true) (hl : notEarlier c.e.apply (c.takenAt + 2) = false) (f : Cmd → State → State) :
    s.withCmd opc tag f = s.reply c stLate [] [] := by
  have hn : ¬ (c.e.apply ≠ 0 && !s.timeFor c.e.apply) = true := by simp [ht]
  have hc : (c.e.apply ≠ 0 && !notEarlier c.e.apply (c.takenAt + 2)) = true := by simpa only [hl, Bool.not_false, Bool.and_true, decide_eq_true_eq] using ha
  simp only [State.withCmd, h, if_neg hd, if_neg hn, if_pos hc]

/-! ### The mailbox commands -/

/-- A service of the vault asked for through the mailbox is a mailbox command. -/
theorem State.service_mbx (s : State) (op : Nat) (co : Bool) (tag : Word) :
    ∃ f, (.next (s.service op co (.mbx tag)) : Host.Outcome State Fault Refusal) = .next (s.withCmd (0x0900 + op) tag f) := by
  unfold State.service State.mbxService
  exact ⟨_, rfl⟩

/-- GRAPH_LOAD is judged once no graph check is under way. -/
theorem exec_graphLoad_idle {s : State} (tag : Word) (h : s.cor.check = 0) : ∃ f, exec (.graphLoad tag) s = .next (s.withCmd 0x0400 tag f) :=
  ⟨_, congrArg _ (if_neg (not_not.mpr h))⟩

/-- Every mailbox command runs its meaning behind the checks. -/
theorem exec_mbx {i : Instr} {opc : Nat} {tag : Word} {s : State} (h : mbxOf i = some (opc, tag)) (hg : i = .graphLoad tag → s.cor.check = 0) :
    ∃ f, exec i s = .next (s.withCmd opc tag f) := by
  unfold mbxOf at h
  split at h <;> cases h
  -- All but the services of the vault and GRAPH_LOAD, the last, are `withCmd` as they stand.
  any_goals exact ⟨_, rfl⟩
  on_goal -1 => exact exec_graphLoad_idle tag (hg rfl)
  all_goals exact s.service_mbx _ _ tag

/-- Settles O33: every mailbox command stands behind the same checks, and each of their answers ends it. -/
theorem mailboxCommandsWaitForTheirTurn : Obligations.MailboxCommandsWaitForTheirTurn := by
  intro i opc tag s hi hg
  obtain ⟨f, hf⟩ := exec_mbx hi hg
  refine ⟨fun h => ?_, fun c h => ⟨fun hd => ?_, fun hd ha ht => ?_, fun hd ha ht hl => ?_⟩⟩
  · rw [hf, State.withCmd_none h]
  · rw [hf, State.withCmd_dmaFault h hd]
  · rw [hf, State.withCmd_noTime h hd ha ht]
  · rw [hf, State.withCmd_late h hd ha ht hl]

end Sys2Proof.Machine
end

section
/-! SUPPORT. The tick edge: what enters with the new tick and what the actions of the edge leave alone. -/

namespace Sys2Proof.Machine

open Sys2Proof

/-! ### The tick number through the actions of an edge (R22, R24) -/

/-- The two tick numbers are the same in two states. -/
def SameTick (s t : State) : Prop := t.ntm.tick = s.ntm.tick ∧ t.ntm.localTick = s.ntm.localTick

/-- What the actions of an edge can change before the host's beat is judged: neither the counter, nor its edge, nor the network time block. -/
def edgeParts : List Part :=
  [.regs, .out, .free, .mbx, .mkt, .que, .ldg, .mem, .nvs, .rad, .chn, .lnk, .bcn, .net, .cor, .lvl, .port, .drg, .scl, .nrg, .ibg, .fov, .pba]

/-- What judging the host's beat can change. -/
def beatParts : List Part := [.regs, .out, .mbx, .mkt, .que, .ldg, .ntm, .host, .pba]

theorem State.cancelAll_ticks (s : State) : SameTick s s.cancelAll := ⟨rfl, rfl⟩

/-- A host that is gone takes the tick firmware's time of day with it, and no tick number. -/
theorem State.hostGone_ticks (s : State) : SameTick s s.hostGone := by
  have h : s.hostGone.ntm = { s with host := { s.host with present := false } }.cancelAll.ntm := by
    unfold State.hostGone
    rw [State.ledger_ntm]
    exact (goes_hostWaresBack _ (W := [.regs, .out, .mkt, .que, .pba]) rfl (Goes.refl _ _)).1 .ntm (by decide)
  unfold SameTick
  rw [h]
  exact State.cancelAll_ticks _

theorem State.hostUpdate_ticks (s : State) : SameTick s s.hostUpdate := by
  unfold State.hostUpdate
  split
  · exact s.hostGone_ticks
  · split
    · have h := (goes_hostBack s (W := [.regs, .out, .mbx, .ldg, .host, .pba]) rfl (Goes.refl _ s)).1 .ntm (by decide)
      exact ⟨congrArg Ntm.tick h, congrArg Ntm.localTick h⟩
    · exact ⟨rfl, rfl⟩

theorem State.beatEdge_ticks (s : State) : SameTick s s.beatEdge := by
  unfold State.beatEdge
  simp only []
  split
  · exact State.hostUpdate_ticks _
  · exact ⟨rfl, rfl⟩

/-- The firmware and the other blocks act at an edge, and last the host's beat is judged. -/
theorem State.restEdge_goes (s : State) (old k : Nat) (hbIn : Bool) : ∃ u, Goes edgeParts s u ∧ s.restEdge old k hbIn = u.beatEdge := by
  refine ⟨_, ?_, rfl⟩
  refine goes_energyEdge _ _ _ rfl (goes_fovEdge _ _ rfl (goes_ringEdge _ rfl ?_))
  refine Goes.ite (goes_tableEdge _ rfl ?_) ?_
  all_goals refine Goes.ite (goes_liveUpdate _ rfl ?_) ?_
  all_goals refine Goes.ite (goes_freshBuild _ _ rfl (goes_bcnReady _ _ rfl (goes_hopStage _ rfl ?_))) ?_
  all_goals exact goes_corAutoArm _ rfl (Goes.refl _ s)

/-- An edge enters its tick; its actions follow, and last the host's beat is judged. -/
theorem State.tickEdge_goes (s : State) (c : DWord) (sinks : List SinkMeas) (hbIn : Bool) :
    ∃ u v, Goes edgeParts (s.enterTick (s.edgeTick c) c) u ∧ s.tickEdge c sinks hbIn = { u.beatEdge with lvl := v } := by
  unfold State.tickEdge
  simp only []
  generalize hk : s.edgeTick c = k
  obtain ⟨u, hu, e⟩ := State.restEdge_goes _ _ k hbIn
  refine ⟨u, _, Goes.trans ?_ hu, by rw [e]⟩ 
  refine goes_driveEdge _ _ _ _ rfl (goes_lightEdge _ _ _ _ rfl (goes_mktEdge _ _ rfl ?_))
  exact Goes.ite (goes_txRestamp _ rfl (Goes.refl _ _)) (Goes.refl _ _)

/-! ### What enters with the new tick (R17, R22) -/

theorem State.enterTick_tick (s : State) (k : Nat) (c : DWord) (h : s.holds = true) :
    (s.enterTick k c).ntm.tick = k ∧ (s.enterTick k c).ntm.localTick = s.ntm.localTick := by
  simp [State.enterTick, h]

theorem State.enterTick_localTick (s : State) (k : Nat) (c : DWord) (h : s.holds = false) :
    (s.enterTick k c).ntm.localTick = k ∧ (s.enterTick k c).ntm.tick = s.ntm.tick := by
  simp [State.enterTick, h]

/-- A tick edge leaves the counter, its edge and the tick numbers as entering the tick has set them. -/
theorem State.tickEdge_keeps (s : State) (c : DWord) (sinks : List SinkMeas) (hbIn : Bool) :
    let t := s.tickEdge c sinks hbIn
    t.cnt = c ∧ t.edgeCnt = c ∧ t.netEdge = s.holds ∧ SameTick (s.enterTick (s.edgeTick c) c) t := by
  obtain ⟨u, v, ⟨hu, _⟩, e⟩ := s.tickEdge_goes c sinks hbIn
  have hb : ChangesOnly beatParts u u.beatEdge := (goes_beatEdge u rfl (Goes.refl beatParts u)).1
  have hn : u.ntm = (s.enterTick (s.edgeTick c) c).ntm := hu .ntm (by decide)
  have ht := u.beatEdge_ticks
  unfold SameTick at ht ⊢
  rw [hn] at ht
  simp only [e]
  exact ⟨(hb .cnt (by decide)).trans (hu .cnt (by decide)), (hb .edgeCnt (by decide)).trans (hu .edgeCnt (by decide)),
    (hb .netEdge (by decide)).trans (hu .netEdge (by decide)), ht⟩

theorem exec_tickEdge {c : DWord} {sinks : List SinkMeas} {hbIn : Bool} {s : State} (hr : s.ticksRun = true) (he : s.edgeAt c = true)
    (ht : s.inTransit c = false) : exec (.tickEdge c sinks hbIn) s = .next (s.tickEdge c sinks hbIn) := by
  simp [exec, execTickEdge, hr, he, ht]

/-- Where no edge falls the counter alone moves. -/
theorem exec_tickEdge_none {c : DWord} {sinks : List SinkMeas} {hbIn : Bool} {s : State}
    (h : s.ticksRun = false ∨ s.edgeAt c = false ∨ s.inTransit c = true) : exec (.tickEdge c sinks hbIn) s = .next (s.at c) := by
  rcases h with h | h | h <;> simp [exec, execTickEdge, h]

/-- Settles O11: the edge enters its tick, and nothing that follows in it moves the counter or a tick number. -/
theorem tickEdgeAdvancesTime : Obligations.TickEdgeAdvancesTime := by
  refine ⟨fun c sinks hbIn s hr he ht => ?_, fun c sinks hbIn s h => exec_tickEdge_none h⟩
  have hx := exec_tickEdge (sinks := sinks) (hbIn := hbIn) hr he ht
  obtain ⟨hc, hec, hne, hk, hl⟩ := s.tickEdge_keeps c sinks hbIn
  refine ⟨_, hx, hc, hec, hne, fun h => ?_, fun h => ?_, (exec_goes hx).1⟩
  · obtain ⟨h1, h2⟩ := s.enterTick_tick (s.edgeTick c) c h
    exact ⟨by rw [hk, h1, State.edgeTick, if_pos h], hl.trans h2⟩
  · obtain ⟨h1, h2⟩ := s.enterTick_localTick (s.edgeTick c) c h
    exact ⟨by rw [hl, h1, State.edgeTick, h]; rfl, hk.trans h2⟩

end Sys2Proof.Machine
end

section
/-! SUPPORT. What the shared operations leave of the registers past the page headers. -/

namespace Sys2Proof.Machine

open Sys2Proof

/-! ### Bits and single writes -/

theorem tst_bitw {i : Nat} (h : i < 32) : tst (bitw i) i = true := by
  simp only [tst, bitw, w32, BitVec.getLsbD_ofNat, Nat.testBit_two_pow_self, h, decide_true, Bool.and_self]

theorem tst_setBit_same (w : Word) {i : Nat} (b : Bool) (h : i < 32) : tst (setBit w i b) i = b := by
  have hi : (bitw i).getLsbD i = true := tst_bitw h
  cases b
  · simp only [tst, setBit, BitVec.getLsbD_and, BitVec.getLsbD_not, hi, Bool.not_true, Bool.and_false, Bool.false_eq_true, if_false]
  · simp only [tst, setBit, BitVec.getLsbD_or, hi, Bool.or_true, if_true]

theorem State.wb_rd_ne (s : State) {a c : Nat} (i : Nat) (v : Bool) (h : c ≠ a) : (s.wb a i v).rd c = s.rd c := s.rd_wr_ne _ h

theorem State.wb_rb_same (s : State) (a : Nat) {i : Nat} (v : Bool) (h : i < 32) : (s.wb a i v).rb a i = v := by
  simp [State.wb, State.rb, tst_setBit_same _ v h]

theorem State.bumpSat_rd_same (s : State) (a n : Nat) : (s.bumpSat a n).rd a = satAdd (s.rd a) n := s.rd_wr_same a _

theorem State.bumpSat_rd_ne (s : State) {a c : Nat} (n : Nat) (h : c ≠ a) : (s.bumpSat a n).rd c = s.rd c := s.rd_wr_ne _ h

/-- An operation that changes no registers leaves every one as it was. -/
theorem Goes.rd {W : List Part} {s t : State} (h : Goes W s t) (hr : .regs ∉ W) (hm : .modId ∉ W) (a : Nat) : t.rd a = s.rd a :=
  State.rd_congr (h.1 .regs hr) (h.1 .modId hm) a

/-! ### Interrupts, errors and drains touch page headers alone -/

/-- A register past the header of its page, which takes the first 0x40 bytes (R67). -/
abbrev PastHeader (a : Nat) : Prop := 0x40 ≤ a % 0x1000

theorem PastHeader.ne_hdr {a : Nat} (h : PastHeader a) (b : Blk) {off : Nat} (ho : off < 0x40) : a ≠ hdr b off := by
  rintro rfl
  have hm := hdr_mod b (off := off) (by omega)
  omega

theorem State.irq_rd_past (s : State) (b : Blk) (i : Nat) {a : Nat} (h : PastHeader a) : (s.irq b i).rd a = s.rd a :=
  s.irq_rd_ne b i (h.ne_hdr b (by decide))

theorem State.err_rd_past (s : State) (b : Blk) (code off : Nat) (m : Master) {a : Nat} (h : PastHeader a) : (s.err b code off m).rd a = s.rd a :=
  s.err_rd_ne b code off m (h.ne_hdr b (by decide)) (h.ne_hdr b (by decide))

theorem State.setDrained_rd_past (s : State) (b : Blk) {a : Nat} (h : PastHeader a) : (s.setDrained b).rd a = s.rd a := by
  unfold State.setDrained
  split
  · rfl
  · rw [State.irq_rd_past _ _ _ h, State.wb_rd_ne _ _ _ (h.ne_hdr b (by decide))]

end Sys2Proof.Machine
end

section
/-! SUPPORT. The corridor engine's run, its end and the occupancy row. -/

namespace Sys2Proof.Machine

open Sys2Proof

/-! ### The search of a run keeps the run's time (R256, R257) -/

theorem settle_us (g : Sparse Byte) (back ahead occT : Int) (k : Nat) (t : Track) (r : CorRun) (w : Wait) : (settle g back ahead occT k t r w).us = r.us := rfl

theorem foldl_settle_us (g : Sparse Byte) (back ahead occT : Int) (k : Nat) (t : Track) (l : List Wait) (r : CorRun) :
    (l.foldl (settle g back ahead occT k t) r).us = r.us := by
  induction l generalizing r with
  | nil => rfl
  | cons w l ih => exact ih _

theorem searchAll_us (g : Sparse Byte) (reach : Nat) (back ahead occT : Int) (l : Sparse Track) (r : CorRun) :
    (searchAll g reach back ahead occT l r).2.us = r.us := by
  induction l generalizing r with
  | nil => rfl
  | cons p l ih =>
    unfold searchAll
    exact (ih _).trans (foldl_settle_us _ _ _ _ _ _ _ _)

/-- A search leaves a run in progress with the time it took, and COR_STAT says so; the tick of the last run stays. -/
theorem State.searchTracks_run (s : State) (us : Nat) (reports : Sparse Nat) :
    (s.searchTracks us reports).cor.run.map (fun r => r.us) = some us ∧ (s.searchTracks us reports).cor.lastRun = s.cor.lastRun ∧
      (s.searchTracks us reports).rb R.cor_COR_STAT 0 = true := by
  refine ⟨?_, rfl, State.wb_rb_same _ _ _ (by decide)⟩
  unfold State.searchTracks
  exact congrArg some (searchAll_us _ _ _ _ _ _ _)

/-! ### The intake of a run (R252-R254) -/

theorem State.intakeDone_goes (s : State) (x : Intake) (n : Nat) : Goes [.regs, .out, .pba] s (s.intakeDone x n) := goes_intakeDone s x n rfl (Goes.refl _ s)

theorem State.intake_lastRun (s : State) : s.intake.1.cor.lastRun = some s.tick := by
  unfold State.intake
  exact congrArg Cor.lastRun ((State.intakeDone_goes _ _ _).1 .cor (by decide))

theorem exec_corridorRun {us : Nat} {s : State} (hr : s.corRuns = true) (hg : s.graphValid = true) (hn : s.cor.run = none)
    (hl : ∀ j, s.cor.lastRun = some j → j < s.tick) (hs : s.cor.swapAt = none) (hp : s.cor.polAt = none) :
    exec (.corridorRun us) s = .next (s.intake.1.searchTracks us s.intake.2) := by
  have h0 : s.graphSwap.policyApply = s := by simp [State.graphSwap, State.policyApply, hs, hp]
  simp only [exec, execCorridorRun, State.corridorRun, h0, hr, hg, hn]
  cases hj : s.cor.lastRun with
  | none => rfl
  | some j => simp [hl j hj]

/-! ### The end of a run (R258, R260-R263) -/

/-- The run in progress and the tracks on view are the same in two states. -/
def SameRun (s t : State) : Prop := t.cor.run = s.cor.run ∧ t.cor.view = s.cor.view

theorem SameRun.refl (s : State) : SameRun s s := ⟨rfl, rfl⟩

theorem SameRun.trans {s t u : State} (h : SameRun s t) (h' : SameRun t u) : SameRun s u := ⟨h'.1.trans h.1, h'.2.trans h.2⟩

theorem SameRun.ite {α : Type} {s : State} {a b : State × α} {c : Prop} [Decidable c] (ha : SameRun s a.1) (hb : SameRun s b.1) :
    SameRun s (if c then a else b).1 := by
  split <;> assumption

theorem Goes.sameRun {W : List Part} {s t : State} (h : Goes W s t) (hc : .cor ∉ W) : SameRun s t :=
  ⟨congrArg Cor.run (h.1 .cor hc), congrArg Cor.view (h.1 .cor hc)⟩

theorem State.publishVertex_sameRun (s : State) (g : Sparse Byte) (p : Sparse Nat) (acc : State × List (Nat × Bool)) (v : Nat) :
    SameRun acc.1 (s.publishVertex g p acc v).1 :=
  SameRun.ite ⟨rfl, rfl⟩ (SameRun.ite ⟨rfl, rfl⟩ ⟨rfl, rfl⟩)

theorem State.foldl_publishVertex_sameRun (s : State) (g : Sparse Byte) (p : Sparse Nat) (l : List Nat) (acc : State × List (Nat × Bool)) :
    SameRun acc.1 (l.foldl (s.publishVertex g p) acc).1 := by
  induction l generalizing acc with
  | nil => exact .refl _
  | cons v l ih => exact (s.publishVertex_sameRun g p acc v).trans (ih _)

theorem State.publishAll_sameRun (s : State) (p : Sparse Nat) : SameRun s (s.publishAll p).1 := by
  unfold State.publishAll
  extract_lets g c r
  have hr : SameRun _ r.1 := s.foldl_publishVertex_sameRun g p (gVertices g) _
  clear_value r
  exact hr

/-- Publishing writes PUB_CNT alone. -/
theorem State.publishAll_rd (s : State) (p : Sparse Nat) {a : Nat} (h : a ≠ R.cor_PUB_CNT) : (s.publishAll p).1.rd a = s.rd a := by
  have hf : Goes [.cor] s ((gVertices s.graph).foldl (s.publishVertex s.graph p) ({ s with cor := { s.cor with target := [] } }, [])).1 :=
    Goes.foldlP (fun _ _ ht => goes_publishVertex _ _ _ _ _ rfl ht) (goes_set_cor s _ rfl (Goes.refl _ s))
  unfold State.publishAll
  exact (State.rd_wr_ne _ _ h).trans (hf.rd (by decide) (by decide) a)

theorem State.occFreeze_sameRun (s : State) (k : Nat) : SameRun s (s.occFreeze k) := by
  unfold State.occFreeze
  simp only []
  split
  · exact .refl _
  · split <;> exact .refl _

theorem State.corDrain_goes (s : State) : Goes [.regs, .out, .pba] s s.corDrain := goes_corDrain s rfl (Goes.refl _ s)

theorem State.corDrain_rd (s : State) {a : Nat} (h : PastHeader a) : s.corDrain.rd a = s.rd a := by
  unfold State.corDrain
  split
  · exact s.setDrained_rd_past .cor h
  · rfl


/-- The stripe frames of a publication reach registers of LVL and LDG alone. -/
theorem State.takeStripe_rd (s : State) (p : Bytes) {a : Nat} (h : a ≠ R.lvl_BAD_APPLY) (hl : a / 0x1000 ≠ 0x2A) : (s.takeStripe p).rd a = s.rd a := by
  unfold State.takeStripe
  extract_lets at32 code
  split
  · rfl
  · split
    · exact s.ledger_rd _ _ _ _ _ _ hl
    · split
      · exact s.bumpSat_rd_ne 1 h
      · split
        · rfl
        · exact (goes_pendChange s _ (W := [.lvl]) rfl (Goes.refl _ s)).rd (by decide) (by decide) a

theorem State.queueStripe_rd (s : State) (n fade epoch : Nat) (apply : Word) {a : Nat} (h : a ≠ R.lvl_BAD_APPLY) (hl : a / 0x1000 ≠ 0x2A) :
    (s.queueStripe n fade epoch apply).rd a = s.rd a := by
  unfold State.queueStripe
  extract_lets p l t
  split
  · exact t.takeStripe_rd p h hl
  · rfl

/-- A fold of steps that leave a register leaves it. -/
theorem foldl_rd {α : Type} {f : State → α → State} {a : Nat} (hf : ∀ t x, (f t x).rd a = t.rd a) (l : List α) (s : State) : (l.foldl f s).rd a = s.rd a := by
  induction l generalizing s with
  | nil => rfl
  | cons x l ih => exact (ih _).trans (hf s x)

theorem State.buildStripes_rd (s : State) (k : Nat) (l : List (Nat × Bool)) {a : Nat} (h : a ≠ R.lvl_BAD_APPLY) (hl : a / 0x1000 ≠ 0x2A) :
    (s.buildStripes k l).rd a = s.rd a := by
  unfold State.buildStripes
  extract_lets at' m
  split
  · rfl
  · refine foldl_rd (fun t n => ?_) _ s
    extract_lets own fade
    split
    · rfl
    · split
      · rfl
      · exact t.queueStripe_rd _ _ _ _ h hl

theorem State.buildStripes_sameRun (s : State) (k : Nat) (l : List (Nat × Bool)) : SameRun s (s.buildStripes k l) :=
  (goes_buildStripes (W := [.regs, .out, .ldg, .lvl, .pba]) s k l rfl (Goes.refl _ s)).sameRun (by decide)

/-! ### A run that is kept, and one that is discarded (R258) -/

/-- The state in which a kept run has its tick and time in RUN_TICK and RUN_TIME and the largest time in RUN_MAX, and its tracks on view. -/
def State.runKept (s : State) (r : CorRun) : State :=
  let s := { s with cor := { s.cor with run := none } }.wb R.cor_COR_STAT 0 false
  let s := ((s.wr R.cor_RUN_TICK (w32 r.tick)).wr R.cor_RUN_TIME (w32 r.us)).wr R.cor_RUN_MAX (w32 (max (s.rn R.cor_RUN_MAX) r.us))
  { s with cor := { s.cor with view := s.cor.tracks, known := r.seen.map fun (p : Nat × Nat × Nat × Nat × Nat) => (p.1, p.2.2) } }

/-- The state in which a run that took too long is over and counted. -/
def State.runOver (s : State) : State := ({ s with cor := { s.cor with run := none } }.wb R.cor_COR_STAT 0 false).bumpSat R.cor_OVR_CNT 1

theorem State.runKept_regs (s : State) (r : CorRun) :
    (s.runKept r).rd R.cor_RUN_TICK = w32 r.tick ∧ (s.runKept r).rd R.cor_RUN_TIME = w32 r.us ∧
      (s.runKept r).rd R.cor_RUN_MAX = w32 (max (s.rn R.cor_RUN_MAX) r.us) := by
  let u := { s with cor := { s.cor with run := none } }
  have hm : (u.wb R.cor_COR_STAT 0 false).rn R.cor_RUN_MAX = s.rn R.cor_RUN_MAX := congrArg _ (u.wb_rd_ne 0 false (by decide))
  unfold State.runKept
  refine ⟨?_, ?_, ?_⟩
  · exact (State.rd_wr_ne _ _ (by decide)).trans ((State.rd_wr_ne _ _ (by decide)).trans (State.rd_wr_same _ _ _))
  · exact (State.rd_wr_ne _ _ (by decide)).trans (State.rd_wr_same _ _ _)
  · exact (State.rd_wr_same _ _ _).trans (by rw [hm])

theorem State.runOver_regs (s : State) :
    s.runOver.rd R.cor_RUN_TICK = s.rd R.cor_RUN_TICK ∧ s.runOver.rd R.cor_OVR_CNT = satAdd (s.rd R.cor_OVR_CNT) 1 := by
  let u := { s with cor := { s.cor with run := none } }
  have hw {a : Nat} (h : a ≠ R.cor_COR_STAT) : (u.wb R.cor_COR_STAT 0 false).rd a = s.rd a := u.wb_rd_ne 0 false h
  exact ⟨(State.bumpSat_rd_ne _ 1 (by decide)).trans (hw (by decide)), (State.bumpSat_rd_same _ _ 1).trans (by rw [hw (by decide)])⟩

/-- A register of COR past the header that publication does not write. -/
abbrev RunReg (a : Nat) : Prop := PastHeader a ∧ a / 0x1000 = 0x1D ∧ a ≠ R.cor_PUB_CNT

/-- The end of a run keeps what the run's own registers say, and the tracks on view. -/
def EndKeeps (s t : State) : Prop := SameRun s t ∧ ∀ a, RunReg a → t.rd a = s.rd a

theorem EndKeeps.trans {s t u : State} (h : EndKeeps s t) (h' : EndKeeps t u) : EndKeeps s u :=
  ⟨h.1.trans h'.1, fun a ha => (h'.2 a ha).trans (h.2 a ha)⟩

theorem State.occAdd_endKeeps (s : State) (k : Nat) (o : Sparse (Nat × Nat × Nat)) : EndKeeps s (s.occAdd k o) := ⟨⟨rfl, rfl⟩, fun _ _ => rfl⟩

theorem State.occFreeze_endKeeps (s : State) (k : Nat) : EndKeeps s (s.occFreeze k) :=
  ⟨s.occFreeze_sameRun k, fun a _ => (goes_occFreeze (W := [.cor]) s k rfl (Goes.refl _ s)).rd (by decide) (by decide) a⟩

theorem State.irq_endKeeps (s : State) (i : Nat) : EndKeeps s (s.irq .cor i) :=
  ⟨⟨by rw [State.irq_cor], by rw [State.irq_cor]⟩, fun _ ha => s.irq_rd_past .cor i ha.1⟩

theorem State.corDrain_endKeeps (s : State) : EndKeeps s s.corDrain :=
  ⟨s.corDrain_goes.sameRun (by decide), fun _ ha => s.corDrain_rd ha.1⟩

theorem State.buildStripes_endKeeps (s : State) (k : Nat) (l : List (Nat × Bool)) : EndKeeps s (s.buildStripes k l) := by
  refine ⟨s.buildStripes_sameRun k l, fun a ⟨_, hp, _⟩ => s.buildStripes_rd k l ?_ (by omega)⟩
  rintro rfl
  exact absurd hp (by decide)

/-- A kept run publishes and joins its second. -/
theorem State.corFinish_kept {s : State} {r : CorRun} (h : s.cor.run = some r) (hu : r.us ≤ 1500) : EndKeeps (s.runKept r) s.corFinish.1 := by
  let x := ((s.runKept r).publishAll r.p).1
  have e : s.corFinish.1 = (((x.occAdd r.tick r.occ).occFreeze r.tick).irq .cor 0).corDrain := by
    simp only [State.corFinish, h, if_pos hu]
    rfl
  have hx : EndKeeps (s.runKept r) x := ⟨State.publishAll_sameRun _ _, fun _ ⟨_, _, hn⟩ => State.publishAll_rd _ _ hn⟩
  rw [e]
  exact hx.trans ((State.occAdd_endKeeps _ _ _).trans ((State.occFreeze_endKeeps _ _).trans ((State.irq_endKeeps _ _).trans (State.corDrain_endKeeps _))))

/-- A run that took too long is discarded, with an interrupt and an event. -/
theorem State.corFinish_over {s : State} {r : CorRun} (h : s.cor.run = some r) (hu : 1500 < r.us) : EndKeeps s.runOver s.corFinish.1 := by
  let x := (s.runOver.irq .cor 1).event 0xF401 (blkSrc .cor) (toLe 4 (r.tick % 2 ^ 32) ++ toLe 4 1500)
  have e : s.corFinish.1 = (x.occFreeze r.tick).corDrain := by
    simp only [State.corFinish, h, if_neg (Nat.not_le.mpr hu)]
    rfl
  have hx : EndKeeps (s.runOver.irq .cor 1) x :=
    ⟨⟨by rw [State.event_cor], by rw [State.event_cor]⟩, fun _ ⟨_, hp, _⟩ => State.event_rd _ _ _ _ (by omega) (by omega)⟩
  rw [e]
  exact (State.irq_endKeeps _ _).trans (hx.trans ((State.occFreeze_endKeeps _ _).trans (State.corDrain_endKeeps _)))

theorem exec_levelPublish (s : State) : exec .levelPublish s = .next (s.corFinish.1.buildStripes s.tick s.corFinish.2) := rfl

/-! ### The occupancy row (R139, R140) -/

theorem exec_occRowWrite {sec : Nat} {s : State} (hr : s.cor.row = some sec) (hh : s.isHead = true) (ht : s.holds = true) (hp : s.repeated = false)
    (hk : s.tick = 250 * (sec + 1)) (hm : s.inReset .mem = false) (hc : s.inReset .cor = false) :
    let a := s.rf R.mem_OCC_BASE 0 13 * 2 ^ 20 + sec % 604800 * 8192
    let b := (List.range 8192).map s.rowByte
    exec .occRowWrite s = .next ((((s.dramWrite (a + 2) (b.drop 2)).dramWrite a (b.take 2)).wr R.mem_OCC_LAST (w32 sec)).wr R.mem_OCC_STAT (s.rd R.mem_OCC_STAT ||| 1)) := by
  simp [exec, execOccRowWrite, State.occRowWrite, hr, hh, ht, hp, hk, hm, hc]

theorem State.dramWrite_cor (s : State) (a : Nat) (b : Bytes) : (s.dramWrite a b).cor = s.cor :=
  (goes_dramWrite (W := [.regs, .out, .free, .ldg, .mem, .pba]) s a b rfl (Goes.refl _ s)).1 .cor (by decide)

/-- Settles O12: the search and the intake of a run, then what the end of a run keeps of the registers that it has put. -/
theorem corridorRunsAndPublishes : Obligations.CorridorRunsAndPublishes := by
  refine ⟨?run, ?kept, ?late, ?row⟩
  case run =>
    intro us s hr hg hn hl hs hp
    have hx := exec_corridorRun (us := us) hr hg hn hl hs hp
    obtain ⟨hus, hlast, hstat⟩ := s.intake.1.searchTracks_run us s.intake.2
    exact ⟨_, hx, rfl, hus, hlast.trans s.intake_lastRun, hstat, (exec_goes hx).1⟩
  case kept =>
    intro r s h hu
    have hx := exec_levelPublish s
    obtain ⟨⟨hrun, hview⟩, hreg⟩ := (State.corFinish_kept h hu).trans (State.buildStripes_endKeeps _ s.tick s.corFinish.2)
    obtain ⟨htick, htime, hmax⟩ := s.runKept_regs r
    exact ⟨_, hx, hrun, (hreg _ (by decide)).trans htick, (hreg _ (by decide)).trans htime, (hreg _ (by decide)).trans hmax, hview, (exec_goes hx).1⟩
  case late =>
    intro r s h hu
    have hx := exec_levelPublish s
    obtain ⟨⟨hrun, _⟩, hreg⟩ := (State.corFinish_over h hu).trans (State.buildStripes_endKeeps _ s.tick s.corFinish.2)
    obtain ⟨htick, hover⟩ := s.runOver_regs
    exact ⟨_, hx, hrun, (hreg _ (by decide)).trans htick, (hreg _ (by decide)).trans hover, (exec_goes hx).1⟩
  case row =>
    intro sec s hr hh ht hp hk hm hc
    refine ⟨_, exec_occRowWrite hr hh ht hp hk hm hc, rfl, ?_, State.rd_wr_same _ _ _, ?_⟩
    · exact (State.rd_wr_ne _ _ (by decide)).trans (State.rd_wr_same _ _ _)
    · exact (State.dramWrite_cor _ _ _).trans (State.dramWrite_cor _ _ _)

end Sys2Proof.Machine
end

section
/-! SUPPORT. The registers of the radios that queues, the Market, the memories and the link leave alone while a frame comes to its verdict. -/

namespace Sys2Proof.Machine

open Sys2Proof

/-! ### The registers of a radio and who leaves them -/

/-- A register of a radio's page past the header. The QDROP register of a queue lies at 12 modulo 32 whatever the queue's number, so that the counters of a radio are none of them. -/
abbrev RxReg (a : Nat) : Prop := PastHeader a ∧ 0x14 ≤ a / 0x1000 ∧ a / 0x1000 ≤ 0x17 ∧ a % 32 ≠ 12

/-- The registers of the radios are the same in two states. -/
def RxKept (s t : State) : Prop := ∀ a, RxReg a → t.rd a = s.rd a

theorem RxKept.refl (s : State) : RxKept s s := fun _ _ => rfl

theorem RxKept.trans {s t u : State} (h : RxKept s t) (h' : RxKept t u) : RxKept s u := fun a ha => (h' a ha).trans (h a ha)

/-- What an operation keeps, after what went before it. -/
theorem RxKept.after {s t u : State} (h' : RxKept t u) (h : RxKept s t) : RxKept s u := h.trans h'

/-- A change of other parts keeps the registers. -/
theorem RxKept.set {s t : State} (hr : t.regs = s.regs) (hm : t.modId = s.modId) : RxKept s t := fun a _ => State.rd_congr hr hm a

theorem RxKept.ite {s t u : State} {c : Prop} [Decidable c] (ht : RxKept s t) (hu : RxKept s u) : RxKept s (if c then t else u) := by
  split <;> assumption

/-- An operation that changes no registers keeps them. -/
theorem Goes.rxKept {W : List Part} {s t : State} (h : Goes W s t) (hW : .regs ∉ W ∧ .modId ∉ W) : RxKept s t := fun a _ => h.rd hW.1 hW.2 a

theorem RxKept.foldl {α : Type} {f : State → α → State} (hf : ∀ t x, RxKept t (f t x)) (l : List α) (s : State) : RxKept s (l.foldl f s) := by
  induction l generalizing s with
  | nil => exact .refl s
  | cons x l ih => exact (hf s x).trans (ih _)

theorem State.wr_rxKept (s : State) {a : Nat} (v : Word) (h : ¬ RxReg a) : RxKept s (s.wr a v) :=
  fun _ hc => s.rd_wr_ne v fun e => h (e ▸ hc)

theorem State.bumpSat_rxKept (s : State) {a : Nat} (n : Nat) (h : ¬ RxReg a) : RxKept s (s.bumpSat a n) := s.wr_rxKept _ h

theorem State.irq_rxKept (s : State) (b : Blk) (i : Nat) : RxKept s (s.irq b i) := fun _ h => s.irq_rd_past b i h.1

theorem State.err_rxKept (s : State) (b : Blk) (code off : Nat) (m : Master) : RxKept s (s.err b code off m) := fun _ h => s.err_rd_past b code off m h.1

theorem State.setDrained_rxKept (s : State) (b : Blk) : RxKept s (s.setDrained b) := fun _ h => s.setDrained_rd_past b h.1

theorem State.logGroup_rxKept (s : State) (m : Master) (code sev src : Nat) (ps : List (Word × Word × Word)) : RxKept s (s.logGroup m code sev src ps) :=
  fun _ ⟨_, _, h, _⟩ => s.logGroup_rd m code sev src ps (by omega)

theorem State.ledger_rxKept (s : State) (code sev src p0 p1 p2 : Nat) : RxKept s (s.ledger code sev src p0 p1 p2) := s.logGroup_rxKept _ _ _ _ _

/-! ### Queues (R112, R119) -/

theorem State.pushEnt_rxKept (s : State) (q : Nat) (v : DWord) : RxKept s (s.pushEnt q v) := by
  unfold State.pushEnt
  extract_lets x n lvl pkt x' t
  have ht : RxKept s t := .set rfl rfl
  exact RxKept.ite ((t.irq_rxKept _ _).after ht) ht

theorem State.qdrop_rxKept (s : State) (q : Nat) : RxKept s (s.qdrop q) := by
  refine s.bumpSat_rxKept 1 fun ⟨_, _, _, h⟩ => h ?_
  show (0x0C10C + 32 * q) % 32 = 12
  omega

theorem hwDrain_rxKept (n q : Nat) (s : State) : RxKept s (hwDrain n q s) := by
  induction n generalizing s with
  | zero => exact .refl s
  | succ n ih =>
    unfold hwDrain
    extract_lets x
    split
    · exact .refl s
    · refine RxKept.ite (.refl s) (RxKept.ite ?_ (RxKept.ite (.refl s) ?_))
      · exact (ih _).after ((State.err_rxKept _ _ _ _ _).after ((State.qdrop_rxKept _ q).after (.set rfl rfl)))
      · exact (ih _).after ((State.pushEnt_rxKept _ q _).after (.set rfl rfl))

theorem State.hwPush_rxKept (s : State) (q : Nat) (v : DWord) : RxKept s (s.hwPush q v) := (hwDrain_rxKept _ q _).after (.set rfl rfl)

theorem pushAll_rxKept (q : Nat) (l : List DWord) (s : State) : RxKept s (pushAll q l s) := by
  induction l generalizing s with
  | nil => exact .refl s
  | cons v l ih => exact (s.hwPush_rxKept q v).trans (ih _)

/-! ### The Market (R95-R101) -/

theorem compFlush_rxKept (l : List (Nat × DWord)) (stuck : List Nat) (s : State) : RxKept s (compFlush l stuck s) := by
  induction l generalizing stuck s with
  | nil => exact .refl s
  | cons p l ih =>
    obtain ⟨q, v⟩ := p
    unfold compFlush
    refine RxKept.ite ((ih _ _).after (.set rfl rfl)) (RxKept.ite ?_ ?_)
    · exact (s.qdrop_rxKept q).trans ((State.err_rxKept _ _ _ _ _).trans (ih _ _))
    · exact (s.pushEnt_rxKept q v).trans (ih _ _)

theorem State.complete_rxKept (s : State) (q : Nat) (v : DWord) : RxKept s (s.complete q v) := (compFlush_rxKept _ _ _).after (.set rfl rfl)

theorem State.wareDone_rxKept (s : State) (w : Ware) (status : Nat) : RxKept s (s.wareDone w status) := by
  unfold State.wareDone
  extract_lets t
  have ht : RxKept s t := RxKept.ite (s.complete_rxKept _ _) (.refl s)
  exact RxKept.ite (ht.trans (t.complete_rxKept _ _)) ht

theorem State.matchIn_rxKept (s : State) (w : Ware) : RxKept s (s.matchIn w) := by
  unfold State.matchIn
  split
  · exact RxKept.ite ((s.bumpSat_rxKept 1 (by decide)).trans ((State.irq_rxKept _ _ _).trans (State.wareDone_rxKept _ _ _))) (.set rfl rfl)
  · exact RxKept.ite ((s.bumpSat_rxKept 1 (by decide)).trans ((State.irq_rxKept _ _ _).trans (State.wareDone_rxKept _ _ _))) (.set rfl rfl)

theorem State.mktMark_rxKept (s : State) (n : Nat) : RxKept s (s.mktMark n) := by
  unfold State.mktMark
  extract_lets n k t lvl
  have ht : RxKept s t := .set rfl rfl
  exact RxKept.ite ((t.irq_rxKept _ _).after ht) ht

theorem State.arrive_rxKept (s : State) (w : Ware) : RxKept s (s.arrive w) := by
  unfold State.arrive
  extract_lets n k t
  have ht : RxKept s t := RxKept.ite (s.matchIn_rxKept w) (RxKept.ite (.set rfl rfl) (.set rfl rfl))
  exact ht.trans (t.mktMark_rxKept n)

theorem hwTake_rxKept (l : List Ware) (s : State) : RxKept s (hwTake l s) := by
  induction l generalizing s with
  | nil => exact .set rfl rfl
  | cons w l ih => exact RxKept.ite ((s.arrive_rxKept w).trans (ih _)) (.set rfl rfl)

/-! ### Memories (R130-R136) -/

theorem State.sramError_rxKept (s : State) (a : Nat) (e : CwErr) : RxKept s (s.sramError a e) := by
  unfold State.sramError
  extract_lets ue
  have hue (t : State) : RxKept t (ue t) := (State.irq_rxKept _ _ _).after ((State.bumpSat_rxKept _ 1 (by decide)).after (.set rfl rfl))
  clear_value ue
  refine RxKept.ite (.refl s) ?_
  cases e with
  | one sym => exact s.bumpSat_rxKept 1 (by decide)
  | two => exact hue s
  | many => exact RxKept.ite ((hue _).after (.set rfl rfl)) (RxKept.ite ((State.bumpSat_rxKept _ 1 (by decide)).after (.set rfl rfl)) (.set rfl rfl))

theorem State.sramMeet_rxKept (s : State) (cw : Nat) : RxKept s (s.sramMeet cw) := by
  unfold State.sramMeet
  split
  · exact .refl s
  · exact (State.sramError_rxKept _ _ _).after (.set rfl rfl)

theorem State.sramSeen_rxKept (s : State) (a n : Nat) : RxKept s (s.sramSeen a n) := RxKept.foldl State.sramMeet_rxKept _ s

theorem State.ceCount_rxKept (s : State) (a sym src : Nat) : RxKept s (s.ceCount a sym src) := by
  unfold State.ceCount
  extract_lets first chan t e u v
  have hu : RxKept s u :=
    RxKept.ite ((State.wr_rxKept _ _ (by decide)).after ((State.wr_rxKept _ _ (by decide)).after ((t.wr_rxKept _ (by decide)).after (.set rfl rfl))))
      (.set rfl rfl)
  have hv : RxKept s v := hu.trans (u.bumpSat_rxKept 1 (by decide))
  exact RxKept.ite (hv.trans (v.irq_rxKept _ _)) hv

theorem State.ueDetect_rxKept (s : State) (a src : Nat) : RxKept s (s.ueDetect a src) := by
  unfold State.ueDetect
  extract_lets reg first k t e u v w
  have hu : RxKept s u :=
    RxKept.ite ((State.wr_rxKept _ _ (by decide)).after ((State.wr_rxKept _ _ (by decide)).after ((t.wr_rxKept _ (by decide)).after (.set rfl rfl))))
      (.set rfl rfl)
  have hw : RxKept s w := hu.trans ((u.bumpSat_rxKept 1 (by decide)).trans ((State.irq_rxKept _ _ _).trans (v.ledger_rxKept _ _ _ _ _ _)))
  clear_value w reg
  split
  · exact RxKept.ite (RxKept.after (.set rfl rfl) hw) hw
  · exact hw

theorem State.cwError_rxKept (s : State) (src a : Nat) (e : CwErr) : RxKept s (s.cwError src a e) := by
  unfold State.cwError
  refine RxKept.ite (.refl s) ?_
  cases e with
  | one sym => exact s.ceCount_rxKept _ _ _
  | two => exact s.ueDetect_rxKept _ _
  | many =>
    exact RxKept.ite ((State.ueDetect_rxKept _ _ _).after (.set rfl rfl))
      (RxKept.ite ((State.ceCount_rxKept _ _ _ _).after (.set rfl rfl)) (.set rfl rfl))

theorem State.dramMeet_rxKept (s : State) (src cw : Nat) : RxKept s (s.dramMeet src cw) := by
  unfold State.dramMeet
  split
  · exact .refl s
  · exact (State.cwError_rxKept _ _ _ _).after (.set rfl rfl)

theorem State.poisonHit_rxKept (s : State) : RxKept s s.poisonHit := s.bumpSat_rxKept 1 (by decide)

theorem State.cwFresh_rxKept (s : State) (a : Nat) : RxKept s (s.cwFresh a) := RxKept.ite ((State.poisonHit_rxKept _).after (.set rfl rfl)) (.set rfl rfl)

theorem State.cwPart_rxKept (s : State) (src a : Nat) : RxKept s (s.cwPart src a) := RxKept.ite s.poisonHit_rxKept (s.dramMeet_rxKept _ _)

theorem dramPut_rxKept (src n : Nat) (s : State) (a : Nat) (b : Bytes) (dr : List Nat) : RxKept s (dramPut src n s a b dr).1 := by
  induction n generalizing s a b dr with
  | zero => exact .refl s
  | succ n ih =>
    unfold dramPut
    split
    · exact .refl s
    · extract_lets d part full t
      have ht : RxKept s t := RxKept.ite (s.cwFresh_rxKept a) (s.cwPart_rxKept src a)
      split
      · exact (ih _ _ _ _).after ht
      · exact (ih _ _ _ _).after (RxKept.after (.set rfl rfl) ht)

theorem State.dramWrite_rxKept (s : State) (a : Nat) (b : Bytes) : RxKept s (s.dramWrite a b) :=
  RxKept.ite (s.err_rxKept _ _ _ _) (dramPut_rxKept _ _ s a b [])

theorem State.nvsPart_rxKept (w : NvsWriter) (a : Nat) (b : Bytes) (s : State) (r : Nat) : RxKept s (s.nvsPart w a b r) :=
  RxKept.ite (.refl s) (RxKept.ite (.set rfl rfl) (s.err_rxKept _ _ _ _))

theorem State.nvsWrite_rxKept (s : State) (w : NvsWriter) (a : Nat) (b : Bytes) : RxKept s (s.nvsWrite w a b) :=
  RxKept.ite (s.err_rxKept _ _ _ _) (RxKept.foldl (State.nvsPart_rxKept w a b) _ s)

end Sys2Proof.Machine
end

section
/-! SUPPORT. Frames on the air: what a radio hears, how a reception ends, and how an acknowledgement closes an exchange. -/

namespace Sys2Proof.Machine

open Sys2Proof

/-! ### The verdict of LNK leaves the radios' registers (R190-R192, R197) -/

theorem State.hwSubmit_rxKept (s : State) (w : Ware) : RxKept s (s.hwSubmit w) := hwTake_rxKept _ s

theorem State.deliver_rxKept (s : State) (t tag reason : Nat) (b : Bytes) : RxKept s (s.deliver t tag reason b) := by
  unfold State.deliver
  refine RxKept.ite (.refl s) ?_
  extract_lets a
  split
  · exact pushAll_rxKept _ _ s
  · exact RxKept.ite (.refl s) ((State.hwSubmit_rxKept _ _).after (.set rfl rfl))
  · exact .refl s

theorem State.ctxWrite_rxKept (s : State) (i : Nat) (c : Ctx) : RxKept s (s.ctxWrite i c) := by
  unfold State.ctxWrite
  extract_lets t u
  have ht : RxKept s t := .set rfl rfl
  have hu : RxKept t u := by
    unfold u
    split
    · exact t.dramWrite_rxKept _ _
    · exact t.dramWrite_rxKept _ _
  exact (u.nvsWrite_rxKept _ _ _).after (hu.after ht)

theorem State.acceptFrame_rxKept (s : State) (i : Nat) (c : Ctx) (h : Hdr) (hw : Nat × Nat) (mic a34 : Bytes) : RxKept s (s.acceptFrame i c h hw mic a34) :=
  (State.ctxWrite_rxKept _ _ _).after (.set rfl rfl)

theorem State.conflict_rxKept (s : State) (r : Nat) (h : Hdr) (old mic : Bytes) : RxKept s (s.conflict r h old mic) :=
  (State.logGroup_rxKept _ _ _ _ _ _).after (s.irq_rxKept _ _)

theorem RxKept.iteJ {s : State} {a b : Judged} {c : Prop} [Decidable c] (ha : RxKept s a.s) (hb : RxKept s b.s) : RxKept s (if c then a else b).s := by
  split <;> assumption

theorem State.verify_rxKept (s : State) (r i : Nat) (c : Ctx) (h : Hdr) (psdu : Bytes) (margin : Int) : RxKept s (s.verify r i c h psdu margin).s := by
  unfold State.verify
  extract_lets hb body mic acc
  split
  · exact .refl s
  · exact RxKept.iteJ (s.acceptFrame_rxKept _ _ _ _ _ _) (RxKept.iteJ (.refl s) (RxKept.iteJ (s.conflict_rxKept _ _ _ _)
      (RxKept.iteJ (s.irq_rxKept _ _) (.refl s))))

theorem State.unknown_rxKept (s : State) (r rssi ctx : Nat) (h : Hdr) (psdu : Bytes) : RxKept s (s.unknown r rssi ctx h psdu) :=
  RxKept.ite (s.deliver_rxKept _ _ _ _) ((State.deliver_rxKept _ _ _ _ _).after (s.bumpSat_rxKept 1 (by decide)))

/-- The verdicts are counted in LNK's page. -/
theorem verdictReg_not_rxReg (reason : Nat) : ¬ RxReg (verdictReg reason) := by
  unfold verdictReg
  split <;> decide

theorem State.heardFrom_rxKept (s : State) (i : Nat) : RxKept s (s.heardFrom i) := RxKept.ite (.set rfl rfl) (.refl s)

theorem State.judgeFrame_rxKept (s : State) (r rssi i : Nat) (f : RxAir) (h : Hdr) (margin : Int) : RxKept s (s.judgeFrame r rssi i f h margin) := by
  unfold State.judgeFrame
  split
  · exact s.unknown_rxKept _ _ _ _ _
  · next c _ =>
    extract_lets j t u
    have hj : RxKept s j.s := s.verify_rxKept r i c h f.psdu margin
    have ht : RxKept s t := (State.deliver_rxKept _ _ _ _ _).after ((State.bumpSat_rxKept _ 1 (verdictReg_not_rxReg _)).after hj)
    have hu : RxKept t u := RxKept.ite ((State.heardFrom_rxKept _ _).after ((State.heardFrom_rxKept _ _).after (.set rfl rfl))) (.refl t)
    refine RxKept.ite ((State.unknown_rxKept _ _ _ _ _ _).after hj) ?_
    clear_value u
    split
    · exact RxKept.after (.set rfl rfl) (ht.trans hu)
    · exact ht.trans hu

theorem State.goodFrame_rxKept (s : State) (r rssi : Nat) (f : RxAir) (margin : Int) : RxKept s (s.goodFrame r rssi f margin) := by
  unfold State.goodFrame
  extract_lets h
  refine RxKept.ite (.refl s) (RxKept.ite (s.bumpSat_rxKept 1 (by decide)) (RxKept.ite (.refl s) (RxKept.ite (s.bumpSat_rxKept 1 (by decide))
    (RxKept.ite ?_ (RxKept.ite (s.deliver_rxKept _ _ _ _) ?_)))))
  · exact (State.deliver_rxKept _ _ _ _ _).after (s.bumpSat_rxKept 1 (by decide))
  · split
    · exact s.unknown_rxKept _ _ _ _ _
    · exact s.judgeFrame_rxKept _ _ _ _ _ _

theorem State.sramAbort_rxKept (s : State) (r rssi : Nat) (f : RxAir) : RxKept s (s.sramAbort r rssi f) :=
  RxKept.ite ((pushAll_rxKept _ _ _).after (.set rfl rfl)) (.refl s)

theorem State.heldFrame_rxKept (s : State) (f : RxAir) : RxKept s (s.heldFrame f).1 := by
  unfold State.heldFrame
  split
  · exact .refl s
  · exact s.sramSeen_rxKept _ _

/-! ### The counters at the end of a reception (R171, R172) -/

theorem fld_setFld_low (w : Word) {v : Nat} (h : v < 2 ^ 8) : fld (setFld w 0 8 v) 0 8 = v := by
  have := w.isLt
  simp only [fld, setFld, BitVec.toNat_ofNat]
  omega

theorem rxReg_add {off : Nat} (h : 0x40 ≤ off ∧ off < 0x1000 ∧ off % 32 ≠ 12) (r : Fin 4) : RxReg (0x14000 + off + 0x1000 * r.val) := by
  have := r.isLt
  simp only [RxReg, PastHeader]
  omega

theorem rxReg_RX_GOOD (r : Fin 4) : RxReg (R.rad_RX_GOOD r.val) := rxReg_add (off := 0x58) (by decide) r

theorem rxReg_RX_BAD (r : Fin 4) : RxReg (R.rad_RX_BAD r.val) := rxReg_add (off := 0x5C) (by decide) r

theorem rxReg_RSSI (r : Fin 4) : RxReg (R.rad_RSSI r.val) := rxReg_add (off := 0x50) (by decide) r

theorem rxReg_NOACK_CNT (r : Fin 4) : RxReg (R.rad_NOACK_CNT r.val) := rxReg_add (off := 0x60) (by decide) r

/-- The frame is counted by its check sequence, and the strength of a good one is kept. -/
def State.countFrame (s : State) (r : Nat) (good : Bool) (rssi : Nat) : State :=
  if good then (s.bumpSat (R.rad_RX_GOOD r) 1).wf (R.rad_RSSI r) 0 8 rssi else s.bumpSat (R.rad_RX_BAD r) 1

theorem State.countFrame_regs (s : State) (r : Nat) (good : Bool) {rssi : Nat} (h : rssi < 2 ^ 8) :
    let t := s.countFrame r good rssi
    t.rd (R.rad_RX_GOOD r) = (if good then satAdd (s.rd (R.rad_RX_GOOD r)) 1 else s.rd (R.rad_RX_GOOD r)) ∧
      t.rd (R.rad_RX_BAD r) = (if good then s.rd (R.rad_RX_BAD r) else satAdd (s.rd (R.rad_RX_BAD r)) 1) ∧
      (good = true → t.rf (R.rad_RSSI r) 0 8 = rssi) := by
  have hgb : R.rad_RX_GOOD r ≠ R.rad_RX_BAD r := by simp
  have hgs : R.rad_RX_GOOD r ≠ R.rad_RSSI r := by simp
  have hbs : R.rad_RX_BAD r ≠ R.rad_RSSI r := by simp
  cases good with
  | false => exact ⟨s.bumpSat_rd_ne 1 hgb, s.bumpSat_rd_same _ 1, nofun⟩
  | true =>
    refine ⟨(State.rd_wr_ne _ _ hgs).trans (s.bumpSat_rd_same _ 1), (State.rd_wr_ne _ _ hbs).trans (s.bumpSat_rd_ne 1 hgb.symm), fun _ => ?_⟩
    exact (congrArg (fld · 0 8) (State.rd_wr_same _ _ _)).trans (fld_setFld_low _ h)

/-- Before the frame is counted LNK reads it where it waits; what follows leaves the counters. -/
theorem State.endFrame_rxKept (s : State) (r : Nat) (good : Bool) (rssi : Nat) (f : RxAir) (margin : Int) :
    RxKept ((s.heldFrame f).1.countFrame r good rssi) (s.endFrame r good rssi f margin) := by
  unfold State.endFrame State.countFrame
  cases good with
  | false =>
    simp only [Bool.not_false, if_true, Bool.false_eq_true, if_false]
    exact RxKept.ite (State.deliver_rxKept _ _ _ _ _) (.refl _)
  | true =>
    simp only [Bool.not_true, if_true, Bool.false_eq_true, if_false]
    exact RxKept.ite (State.goodFrame_rxKept _ _ _ _ _) (State.sramAbort_rxKept _ _ _ _)

theorem State.endFrame_regs (s : State) (r : Fin 4) (good : Bool) {rssi : Nat} (f : RxAir) (margin : Int) (h : rssi < 2 ^ 8) :
    let t := s.endFrame r.val good rssi f margin
    t.rd (R.rad_RX_GOOD r.val) = (if good then satAdd (s.rd (R.rad_RX_GOOD r.val)) 1 else s.rd (R.rad_RX_GOOD r.val)) ∧
      t.rd (R.rad_RX_BAD r.val) = (if good then s.rd (R.rad_RX_BAD r.val) else satAdd (s.rd (R.rad_RX_BAD r.val)) 1) ∧
      (good = true → t.rf (R.rad_RSSI r.val) 0 8 = rssi) := by
  have hk := s.endFrame_rxKept r.val good rssi f margin
  have hh := s.heldFrame_rxKept f
  obtain ⟨hg, hb, hs⟩ := (s.heldFrame f).1.countFrame_regs r.val good h
  rw [hh _ (rxReg_RX_GOOD r)] at hg
  rw [hh _ (rxReg_RX_BAD r)] at hb
  exact ⟨(hk _ (rxReg_RX_GOOD r)).trans hg, (hk _ (rxReg_RX_BAD r)).trans hb, fun e => (congrArg (fld · 0 8) (hk _ (rxReg_RSSI r))).trans (hs e)⟩

/-! ### The exchange of a radio -/

/-- What a radio has of an exchange: the frame in reception, the frame on air, the acknowledgement due and the wish for a longer backoff. -/
def State.exchangeOf (s : State) (r : Nat) : Option RxAir × Option OnAir × Option AckDue × Bool :=
  ((s.radio r).rx, (s.radio r).air, (s.radio r).ack, (s.radio r).slow)

theorem Goes.exchangeOf {W : List Part} {s t : State} (h : Goes W s t) (hW : .rad ∉ W) (r : Nat) : t.exchangeOf r = s.exchangeOf r := by
  unfold State.exchangeOf State.radio
  rw [h.1 .rad hW]

/-- A radio that is there changes as it is told. -/
theorem State.modRadio_radio (s : State) {r : Nat} (f : Rad → Rad) (h : r < s.rad.length) : (s.modRadio r f).radio r = f (s.radio r) := by
  simp [State.radio, State.modRadio, State.setRadio, setAt, h]

theorem State.modRadio_absent (s : State) {r : Nat} (f : Rad → Rad) (h : s.rad.length ≤ r) : s.modRadio r f = s := by
  simp only [State.modRadio, State.setRadio, setAt, List.set_eq_of_length_le h]

theorem State.exchangeOf_absent (s : State) {r : Nat} (h : s.rad.length ≤ r) : s.exchangeOf r = (none, none, none, false) := by
  simp [State.exchangeOf, State.radio, h]

theorem State.modRadio_exchangeOf (s : State) (r : Nat) {f : Rad → Rad}
    (hf : ∀ x, (f x).rx = x.rx ∧ (f x).air = x.air ∧ (f x).ack = x.ack ∧ (f x).slow = x.slow) : (s.modRadio r f).exchangeOf r = s.exchangeOf r := by
  by_cases h : r < s.rad.length
  · simp only [State.exchangeOf, s.modRadio_radio f h, hf]
  · rw [s.modRadio_absent f (by omega)]

/-! ### Returned descriptors and drains (R155, R166, R199) -/

/-- A descriptor that is returned with another status than EXPIRED changes no register of a radio past the header. -/
theorem State.txDone_rxKept (s : State) (r : Nat) (x : Tx) {status : Nat} (h : status ≠ dExpired) : RxKept s (s.txDone r x status) := by
  unfold State.txDone
  extract_lets t
  have ht : RxKept s t := by
    unfold t
    rw [if_neg h]
    exact RxKept.ite (s.irq_rxKept _ _) (.refl s)
  clear_value t
  split
  · exact RxKept.ite (RxKept.after (.set rfl rfl) ht) ht
  · exact (t.hwPush_rxKept _ _).after ht

theorem txDoneAll_rxKept (r : Nat) {status : Nat} (h : status ≠ dExpired) (l : List Tx) (s : State) : RxKept s (txDoneAll r status l s) := by
  induction l generalizing s with
  | nil => exact .refl s
  | cons x l ih => exact (s.txDone_rxKept r x h).trans (ih _)

theorem State.lnkCancel_rxKept (s : State) (r : Nat) : RxKept s (s.lnkCancel r) := (txDoneAll_rxKept r (by decide) _ _).after (.set rfl rfl)

theorem State.radDrain_rxKept (s : State) (r : Nat) : RxKept s (s.radDrain r) := by
  unfold State.radDrain
  refine RxKept.ite ((State.setDrained_rxKept _ _).after ?_) (.refl s)
  exact RxKept.ite (.refl s) (s.lnkCancel_rxKept r)

theorem State.lnkDrain_rxKept (s : State) : RxKept s s.lnkDrain := RxKept.ite (s.setDrained_rxKept _) (.refl s)

/-- Queued frames that return leave the exchange. -/
theorem State.lnkCancel_exchangeOf (s : State) (r : Nat) : (s.lnkCancel r).exchangeOf r = s.exchangeOf r := by
  unfold State.lnkCancel
  exact ((goes_txDoneAll (W := [.regs, .out, .que, .net, .pba]) _ _ _ _ rfl (Goes.refl _ _)).exchangeOf (by decide) r).trans
    (s.modRadio_exchangeOf r fun _ => ⟨rfl, rfl, rfl, rfl⟩)

theorem State.txDone_exchangeOf (s : State) (r q : Nat) (x : Tx) (status : Nat) : (s.txDone q x status).exchangeOf r = s.exchangeOf r :=
  (goes_txDone (W := [.regs, .out, .que, .net, .pba]) s q x status rfl (Goes.refl _ s)).exchangeOf (by decide) r

theorem State.radDrain_exchangeOf (s : State) (r : Nat) : (s.radDrain r).exchangeOf r = s.exchangeOf r := by
  unfold State.radDrain
  split
  · extract_lets q t
    have ht : t.exchangeOf r = s.exchangeOf r := by
      unfold t
      split
      · rfl
      · exact s.lnkCancel_exchangeOf r
    exact ((goes_setDrained (W := [.regs, .out, .pba]) t _ rfl (Goes.refl _ t)).exchangeOf (by decide) r).trans ht
  · rfl

theorem State.lnkDrain_exchangeOf (s : State) (r : Nat) : s.lnkDrain.exchangeOf r = s.exchangeOf r :=
  (goes_lnkDrain (W := [.regs, .out, .pba]) s rfl (Goes.refl _ s)).exchangeOf (by decide) r

/-- The drains that an exchange may end. -/
theorem State.drains_exchangeOf (s : State) (r : Nat) : (s.radDrain r).lnkDrain.exchangeOf r = s.exchangeOf r :=
  (State.lnkDrain_exchangeOf _ r).trans (s.radDrain_exchangeOf r)

theorem State.drains_rxKept (s : State) (r : Nat) : RxKept s (s.radDrain r).lnkDrain := (s.radDrain_rxKept r).trans (State.lnkDrain_rxKept _)

/-! ### The end of a reception (R192) -/

theorem State.modRadio_rx_none (s : State) (r : Nat) : ((s.modRadio r fun x => { x with rx := none }).exchangeOf r).1 = none := by
  by_cases h : r < s.rad.length
  · exact congrArg Rad.rx (s.modRadio_radio _ h)
  · rw [s.modRadio_absent _ (by omega), s.exchangeOf_absent (by omega)]

theorem State.frameEnd_none {s : State} {r : Nat} (h : (s.radio r).rx = none) (fcs : Bytes) (rssi : Nat) (margin : Int) (ns : Nat) :
    s.frameEnd r fcs rssi margin ns = s := by
  simp only [State.frameEnd, h]

/-- Once its frame is counted and judged, a reception is over, and nothing more changes the radios' counters. -/
theorem State.frameEnd_some {s : State} {r : Nat} {f : RxAir} (h : (s.radio r).rx = some f) (fcs : Bytes) (rssi : Nat) (margin : Int) (ns : Nat) :
    ((s.frameEnd r fcs rssi margin ns).radio r).rx = none ∧
      RxKept (s.endFrame r (fcsGood f.psdu fcs) rssi f margin) (s.frameEnd r fcs rssi margin ns) := by
  let u := s.endFrame r (fcsGood f.psdu fcs) rssi f margin
  let v := u.modRadio r fun x => { x with rx := none }
  let w := if f.ctx.isSome then v.wr R.lnk_VERDICT_MAX (w32 (max (v.rn R.lnk_VERDICT_MAX) ns)) else v
  have e : s.frameEnd r fcs rssi margin ns = (w.ctxSweep.radDrain r).lnkDrain := by simp only [State.frameEnd, h]; rfl
  have hw : w.exchangeOf r = v.exchangeOf r := by unfold w; split <;> rfl
  have hk : RxKept u w := RxKept.after (RxKept.ite (v.wr_rxKept _ (by decide)) (.refl v)) (.set rfl rfl)
  clear_value w
  have hx : (w.ctxSweep.radDrain r).lnkDrain.exchangeOf r = v.exchangeOf r := (State.drains_exchangeOf _ r).trans hw
  rw [e]
  exact ⟨(congrArg Prod.fst hx).trans (u.modRadio_rx_none r), (State.drains_rxKept _ r).after (RxKept.after (.set rfl rfl) hk)⟩

/-! ### A sync word (R190, R203, R229) -/

theorem exec_frameSync_badHeader {r : Fin 4} {s : State} (h : s.hears r.val = true) (b : Bytes) (ph : Nat) (c : DWord) (ns : Nat) :
    exec (.frameSync r b false ph c ns) s = .next ((s.at c).bumpSat (R.rad_RX_BAD r.val) 1) := by
  simp [exec, execFrameSync, State.frameSync, h]

/-- A radio takes a frame in reception on what went before, which changed neither the radios nor the counter. -/
def TakesIn (s t : State) (r : Nat) (b : Bytes) (mode : Nat) : Prop :=
  ∃ (v : State) (f : RxAir), t = v.modRadio r (fun x => { x with rx := some f }) ∧ v.rad = s.rad ∧ v.cnt = s.cnt ∧ f.psdu = b ∧ f.mode = mode

theorem State.takeFrame_takesIn (s : State) (r : Nat) (b : Bytes) (k : Nat) (c : DWord) (ns : Nat) : TakesIn s (s.takeFrame r b k c ns) r b (s.airMode r b) := by
  have hp : Goes [.regs, .out, .free, .ldg, .mem, .lnk, .pba] s (s.ctxFor (parseHdr b) ns).1 := goes_ctxFor s _ ns rfl (Goes.refl _ s)
  unfold State.takeFrame
  extract_lets h mode late p t o
  have ht : Goes [.regs, .out, .free, .ldg, .mem, .lnk, .pba] s t := Goes.ite (goes_irq _ _ _ rfl (goes_bumpSat _ _ _ rfl hp)) hp
  have hv := goes_draw _ 1 rfl (goes_sramWrite t o b rfl ht)
  exact ⟨_, _, rfl, hv.1 .rad (by decide), hv.1 .cnt (by decide), rfl, rfl⟩

/-- The channel that a radio must listen on to hear a flood frame is that of the frame's tick. -/
def State.onChannel (s : State) (r : Nat) (b : Bytes) (ph : Nat) (c : DWord) : Prop :=
  let k := (((s.nt c : Int) - s.airLag r b ph) / tick16).toNat
  floodFrame (parseHdr b) = true → s.holds = true → s.rxChan r k c = s.chan r k

/-- A frame of a good header comes into reception, unless it is a flood frame on another channel. -/
theorem State.frameSync_takesIn {s : State} {r : Nat} (hr : s.hears r = true) (b : Bytes) (ph : Nat) (c : DWord) (ns : Nat) (hc : (s.at c).onChannel r b ph c) :
    TakesIn (s.at c) (s.frameSync r b true ph c ns) r b (s.airMode r b) := by
  unfold State.frameSync
  rw [if_neg (by simp [hr]), if_neg (by simp)]
  extract_lets u h start k w
  have hskip : ¬ (floodFrame h && u.holds && decide (u.rxChan r k c ≠ u.chan r k)) = true := by
    simp only [Bool.and_eq_true, decide_eq_true_eq]
    exact fun ⟨⟨hf, hh⟩, hn⟩ => hn (hc hf hh)
  rw [if_neg hskip]
  have hw : Goes [.out, .lvl] u w := goes_floodSpan _ _ _ _ _ rfl (goes_emit u _ rfl (Goes.refl _ u))
  have hm : w.airMode r b = s.airMode r b := by
    have hcfg : w.rd (R.rad_RAD_CFG r) = s.rd (R.rad_RAD_CFG r) := hw.rd (by decide) (by decide) _
    simp only [State.airMode, State.radMode, State.rf, hcfg]
  have hrad : w.rad = s.rad := hw.1 .rad (by decide)
  have hcnt : w.cnt = u.cnt := hw.1 .cnt (by decide)
  clear_value w
  split
  · obtain ⟨v, f, e, h1, h2, h3, h4⟩ := w.takeFrame_takesIn r b k c ns
    exact ⟨v, f, e, h1.trans hrad, h2.trans hcnt, h3, h4.trans hm⟩
  · exact ⟨w, _, rfl, hrad, hcnt, rfl, hm⟩

/-! ### A failed attempt (R156) -/

theorem State.modRadio_length (s : State) (r : Nat) (f : Rad → Rad) : (s.modRadio r f).rad.length = s.rad.length := List.length_set

/-- A radio with a frame on air is there. -/
theorem State.lt_of_air {s : State} {r : Nat} {a : OnAir} (h : (s.radio r).air = some a) : r < s.rad.length := by
  by_contra hn
  have hx : (s.radio r).air = none := congrArg (fun p => p.2.1) (s.exchangeOf_absent (r := r) (by omega))
  rw [h] at hx
  cases hx

/-- A frame of assigned access, or a beacon, that failed returns NO_ACK. -/
theorem State.attemptFail_noAck (s : State) (r : Nat) {a : OnAir} (h : descAccess a.tx.desc ≠ 0) :
    s.attemptFail r a = ((((s.bumpSat (R.rad_NOACK_CNT r) 1).modRadio r fun x => { x with air := none }).txDone r a.tx dNoAck).radDrain r).lnkDrain := by
  simp [State.attemptFail, h]

/-- After a failed attempt nothing is on air, and NOACK_CNT has counted it. -/
theorem State.attemptFail_ends (s : State) (r : Fin 4) (a : OnAir) (h : r.val < s.rad.length) :
    ((s.attemptFail r.val a).radio r.val).air = none ∧
      (s.attemptFail r.val a).rd (R.rad_NOACK_CNT r.val) = satAdd (s.rd (R.rad_NOACK_CNT r.val)) 1 := by
  unfold State.attemptFail
  extract_lets u n bo k k' x t
  have hlen : r.val < u.rad.length := by rwa [State.modRadio_length]
  have hu : (u.radio r.val).air = none := congrArg Rad.air ((s.bumpSat (R.rad_NOACK_CNT r.val) 1).modRadio_radio _ h)
  have hcnt : u.rd (R.rad_NOACK_CNT r.val) = satAdd (s.rd (R.rad_NOACK_CNT r.val)) 1 := s.bumpSat_rd_same _ 1
  split
  · have ht : (t.radio r.val).air = none := (congrArg Rad.air ((u.draw 1).modRadio_radio _ hlen)).trans hu
    have hk : RxKept u t := .set rfl rfl
    clear_value t
    have hx : (if t.en .lnk then t else t.lnkCancel r.val).exchangeOf r.val = t.exchangeOf r.val := by
      split
      · rfl
      · exact t.lnkCancel_exchangeOf r.val
    have hc : RxKept t (if t.en .lnk then t else t.lnkCancel r.val) := RxKept.ite (.refl t) (t.lnkCancel_rxKept _)
    exact ⟨(congrArg (fun p => p.2.1) ((State.drains_exchangeOf _ _).trans hx)).trans ht,
      ((State.drains_rxKept _ _).after (hc.after hk) _ (rxReg_NOACK_CNT r)).trans hcnt⟩
  · exact ⟨(congrArg (fun p => p.2.1) ((State.drains_exchangeOf _ _).trans (u.txDone_exchangeOf _ _ _ _))).trans hu,
      ((State.drains_rxKept _ _).after (u.txDone_rxKept _ _ (by decide)) _ (rxReg_NOACK_CNT r)).trans hcnt⟩

/-! ### Acknowledgements (R185-R187) -/

/-- A due acknowledgement goes out or is withheld, and is due no more. -/
theorem State.ackSend_none {s : State} {r : Nat} (hr : r < s.rad.length) : ((s.ackSend r).radio r).ack = none := by
  unfold State.ackSend
  split
  · assumption
  · next a _ =>
    extract_lets u airtime sent v
    have hu : (u.radio r).ack = none := congrArg Rad.ack (s.modRadio_radio _ hr)
    have hsent : Goes [.regs, .out, .nvs, .chn, .pba] u sent := goes_bumpSat _ _ _ rfl (goes_transmit u _ _ _ _ _ _ rfl (Goes.refl _ u))
    have hv : Goes [.regs, .out, .nvs, .chn, .pba] u v :=
      Goes.ite (Goes.refl _ u) (Goes.ite (Goes.ite (goes_bumpSat _ _ _ rfl hsent) hsent) (goes_irq _ _ _ rfl (goes_bumpSat _ _ _ rfl (Goes.refl _ u))))
    clear_value v
    exact (congrArg (fun p => p.2.2.1) ((State.drains_exchangeOf v.ctxSweep r).trans (hv.exchangeOf (by decide) r))).trans hu

theorem exec_ackTimeout {r : Fin 4} {a : OnAir} {s : State} (h : (s.radio r.val).air = some a) (ha : descAck a.tx.desc = true) :
    exec (.ackTimeout r) s = .next (s.attemptFail r.val a) := by
  simp [exec, execAckTimeout, h, ha]

/-- The acknowledgement that a frame on air waits for: its check sequence, then LNK and the acknowledgement itself. -/
theorem exec_ackReceive {r : Fin 4} {a : OnAir} {s : State} (h : (s.radio r.val).air = some a) (ha : descAck a.tx.desc = true) (b fcs : Bytes) :
    exec (.ackReceive r b fcs) s = .next (
      let u := s.bumpSat (R.rad_RX_GOOD r.val) 1
      if fcsGood b fcs = false then s.bumpSat (R.rad_RX_BAD r.val) 1
      else if u.inReset .lnk = false ∧ u.linkKeysOk = true ∧ u.ackOk (a.tx.secured.getD []) b = true then
        (((u.modRadio r.val fun x => { x with air := none, slow := decide (byteAt b 3 / 2 % 2 = 1) }).txDone r.val a.tx dSent).radDrain r.val).lnkDrain
      else (u.bumpSat R.lnk_ACK_IN_BAD 1).attemptFail r.val a) := by
  simp [exec, execAckReceive, State.ackRx, h, ha, and_assoc]

/-- A good acknowledgement ends the exchange, and HOLD in it doubles the next backoff. -/
theorem State.ackGood_ends (s : State) (r : Nat) (x : Tx) (slow : Bool) (h : r < s.rad.length) :
    let v := s.modRadio r fun y => { y with air := none, slow := slow }
    let t := ((v.txDone r x dSent).radDrain r).lnkDrain
    (t.radio r).air = none ∧ (t.radio r).slow = slow ∧ RxKept s t := by
  intro v t
  have hv := s.modRadio_radio (fun y => { y with air := none, slow := slow }) h
  have hx : t.exchangeOf r = v.exchangeOf r := (State.drains_exchangeOf _ r).trans (v.txDone_exchangeOf _ _ _ _)
  exact ⟨(congrArg (fun p => p.2.1) hx).trans (congrArg Rad.air hv), (congrArg (fun p => p.2.2.2) hx).trans (congrArg Rad.slow hv),
    (State.drains_rxKept _ r).after ((v.txDone_rxKept r x (by decide)).after (.set rfl rfl))⟩

/-- Settles O20: each row is computed; what follows the counting and the exchange in it leaves both. -/
theorem framesAreHeardAndJudged : Obligations.FramesAreHeardAndJudged := by
  refine ⟨?sync, ?verdict, ?silence, ?ackDue, ?answer, fun r a s h => s.attemptFail_noAck r h⟩
  case sync =>
    intro r b ph c ns s hr hlen
    refine ⟨exec_frameSync_badHeader hr b ph c ns, fun hc => ?_⟩
    have hx : exec (.frameSync r b true ph c ns) s = .next (s.frameSync r.val b true ph c ns) := rfl
    obtain ⟨v, f, e, hrad, hcnt, hpsdu, hmode⟩ := State.frameSync_takesIn hr b ph c ns hc
    refine ⟨_, hx, ?_, ?_, (exec_goes hx).1⟩
    · rw [e, State.modRadio_radio v _ (by rw [hrad]; exact lt_of_lt_of_eq r.isLt hlen.symm)]
      exact congrArg some (Prod.ext hpsdu hmode)
    · rw [e]
      exact hcnt
  case verdict =>
    intro r fcs rs mg ns f s _ hf ok
    have hx : exec (.frameEndVerdict r fcs rs mg ns) s = .next (s.frameEnd r.val fcs rs.toNat mg ns) := rfl
    obtain ⟨hrx, hk⟩ := State.frameEnd_some hf fcs rs.toNat mg ns
    obtain ⟨hg, hb, hs⟩ := s.endFrame_regs r ok f mg rs.isLt
    exact ⟨_, hx, hrx, (hk _ (rxReg_RX_GOOD r)).trans hg, (hk _ (rxReg_RX_BAD r)).trans hb,
      fun h => (congrArg (fld · 0 8) (hk _ (rxReg_RSSI r))).trans (hs h), (exec_goes hx).1⟩
  case silence => exact fun r s h fcs rs mg ns => congrArg Host.Outcome.next (State.frameEnd_none h fcs rs.toNat mg ns)
  case ackDue =>
    intro r s hlen _
    have hx : exec (.ackSend r) s = .next (s.ackSend r.val) := rfl
    exact ⟨_, hx, State.ackSend_none (lt_of_lt_of_eq r.isLt hlen.symm), (exec_goes hx).1⟩
  case answer =>
    intro r a b fcs s h ha u
    have hlt := State.lt_of_air h
    have hx := exec_ackTimeout h ha
    have hr := exec_ackReceive h ha b fcs
    obtain ⟨hair, hcnt⟩ := s.attemptFail_ends r a hlt
    refine ⟨hx, ⟨_, hx, hair, hcnt, (exec_goes hx).1⟩, fun hb => ?_, fun hg hl hk hok => ?_, fun hg hbad => ?_⟩
    · rw [hr]
      exact congrArg Host.Outcome.next (if_pos hb)
    · obtain ⟨hair, hslow, hkept⟩ := u.ackGood_ends r.val a.tx (decide (byteAt b 3 / 2 % 2 = 1)) hlt
      refine ⟨_, hr.trans (congrArg Host.Outcome.next ?_), rfl, hair, hslow, (hkept _ (rxReg_RX_GOOD r)).trans (s.bumpSat_rd_same _ 1)⟩
      exact (if_neg (by simp [hg])).trans (if_pos ⟨hl, hk, hok⟩)
    · rw [hr]
      refine congrArg Host.Outcome.next ((if_neg (by simp [hg])).trans (if_neg ?_))
      rintro ⟨hl, hk, hok⟩
      rcases hbad with h | h | h
      · exact Bool.false_ne_true (hl.symm.trans h)
      · exact Bool.false_ne_true (h.symm.trans hk)
      · exact Bool.false_ne_true (h.symm.trans hok)

end Sys2Proof.Machine
end

section
/-! SUPPORT. Accesses to a block in reset, and the states at which three statements about resets fail. -/

namespace Sys2Proof.Machine

open Sys2Proof

/-! ### Accesses to a block in reset (R45, R47) -/

/-- A request that is not one of the host behind another is served. -/
theorem State.barReq_passes {s : State} {m : Master} (h : m = .host → s.hostWaits = false) (r : Bar0Req) (f : State → State) : s.barReq m r f = f s := by
  by_cases hm : m = .host
  · simp [State.barReq, h hm]
  · simp [State.barReq, hm]

/-- Where no request of the host waits, or a read of it blocks still, there is none to serve. -/
theorem State.hostFlush_idle {s : State} (h : s.host.bar0Held = [] ∨ s.hostBlocked = true) : s.hostFlush = s := by
  unfold State.hostFlush
  rcases h with h | h <;> simp [h]

theorem State.err_bar0Held (s : State) (b : Blk) (code off : Nat) (m : Master) : (s.err b code off m).host.bar0Held = s.host.bar0Held := by
  obtain ⟨_, _, _, e⟩ := s.err_shape b code off m
  rw [e]

theorem State.err_hostBlocked (s : State) (b : Blk) (code off : Nat) (m : Master) : (s.err b code off m).hostBlocked = s.hostBlocked := by
  unfold State.hostBlocked
  rw [State.err_mkt]

/-- The outcome of a request to BAR0 for a register of a page; requests of the host that it frees may be served after it. -/
def ReachesPage (s : State) (b : Blk) (off : Nat) (m : Master) (o : Host.Outcome State Fault Refusal) : Prop :=
  ∃ r a f, (o = .next (s.barReq m r fun t => t.onPage b a m f) ∨ o = .next (s.barReq m r fun t => t.onPage b a m f).hostFlush) ∧ a = off

theorem takeOff_lt (p : Fin 2) (poll : Bool) : takeOff p.val poll < 0x1000 := by
  revert p poll
  decide

theorem submitOff_lt (m : Master) : submitOff m < 0x1000 := by
  cases m <;> simp [submitOff]

/-- An offset in the second page of a block is the offset in that page. -/
theorem secondPage_mod {off : Nat} (h : off < 0x1000) : (0x1000 + off) % 0x1000 = off := by
  omega

theorem pick_mod (c : Bool) {i j : Nat} (hi : i < 0x1000) (hj : j < 0x1000) : (if c then i else j) % 0x1000 = if c then i else j := by
  cases c
  · exact Nat.mod_eq_of_lt hj
  · exact Nat.mod_eq_of_lt hi

/-- Every command that is an access to a register is a request to BAR0 for that register. -/
theorem exec_pageOf {i : Instr} {b : Blk} {off : Nat} {m : Master} (h : pageOf i = some (b, off, m)) (s : State) : ReachesPage s b off m (exec i s) := by
  cases i with
  | blockReset m hi v =>
    cases h
    exact ⟨_, _, _, .inr rfl, pick_mod hi (by decide) (by decide)⟩
  | pageRstReq m b | blockEnable m b | blockDisable m b | drainSet m b | drainClear m b | kill m b =>
    cases h
    exact ⟨_, _, _, .inr rfl, rfl⟩
  | blockReleaseRequest m hi v | lnkGenWrite m hi v =>
    cases h
    exact ⟨_, _, _, .inl rfl, pick_mod hi (by decide) (by decide)⟩
  | wareSubmit m w =>
    cases h
    exact ⟨_, _, _, .inl rfl, secondPage_mod (submitOff_lt m)⟩
  | takeRead port m us | takePoll port m us =>
    cases h
    exact ⟨_, _, _, .inl rfl, secondPage_mod (takeOff_lt port _)⟩
  | ctrTxWrite m k v | classCfgWrite m k v | queuePush m k v | qcfgWrite m k v | cvalWrite m k v | queueFlush m k | queuePop m k | queuePeek m k
  | shadowWrite m k n v =>
    cases h
    exact ⟨_, _, _, .inl rfl, by omega⟩
  | status req | selftest req | zeroize req | vaultInit req | enrolPub req | keyImport req | keyGenerate req | keyExport req | keyErase req
  | approve req | debugOpen req | fovRelease req =>
    cases req <;> cases h
    exact ⟨_, _, _, .inl rfl, rfl⟩
  | _ => cases h <;> exact ⟨_, _, _, .inl rfl, rfl⟩

/-- Settles O29: the access reaches its page, which drops it, and the drop frees no request of the host. -/
theorem accessesInResetAreDropped : Obligations.AccessesInResetAreDropped := by
  intro i b off m s hi hb hw
  have pass : m = .host → s.hostWaits = false := fun hm => hw.elim id fun h => absurd hm h.1
  have idle : ((s.err b eDropped off m).answer (resetResp m)).host.bar0Held = [] ∨ ((s.err b eDropped off m).answer (resetResp m)).hostBlocked = true :=
    hw.imp (fun h => (s.err_bar0Held b eDropped off m).trans (State.bar0Held_of_not_waits h)) fun h => (s.err_hostBlocked b eDropped off m).trans h.2
  obtain ⟨r, a, f, hx, rfl⟩ := exec_pageOf hi s
  rw [State.barReq_passes pass, State.onPage_reset hb, State.hostFlush_idle idle, or_self] at hx
  exact hx

/-! ### Entering a reset (R43, R181, R183) -/

/-- A module whose send counter under generation 0 has its reserve above 0xF000_0000. -/
def lateCounter : State := { State.reset with lnk := { State.reset.lnk with reserve := [0xF0001000, 1, 1] } }

/-- Refutes O7: the reset of LNK takes its counters up at their reserves once the registers have fallen, and a reserve above 0xF000_0000 raises CTR_LOW. -/
theorem not_enteringResetClears : ¬ Obligations.EnteringResetClears := by
  intro h
  obtain ⟨_, _, _, _, headers, _⟩ := h lateCounter 8 0 false (by decide) (by decide)
  obtain ⟨_, _, raw⟩ := headers .lnk (mem_allBlks _)
  exact absurd raw (by decide)

/-! ### A lockstep mismatch (R83) -/

/-- A register file that is not canonical: LS_COUNT of lane 0 is listed twice, first at its reset value. A warm reset drops the first entry and keeps the second. -/
def twiceListed : State :=
  { State.reset with
    regs := [(R.rst_BLK_IN_RESET_A, 0xFFFFFFFD), (R.lane_LS_COUNT 0, 0), (R.lane_LS_COUNT 0, 5)]
    boot := { State.reset.boot with stage := .booted } }

/-- Refutes O8: the statement asks for no canonical register file, and without one a register that RWS keeps can change over a warm reset: LS_COUNT reads 0 before the mismatch and 6 after it. -/
theorem not_resetSourcesEnterReset : ¬ Obligations.ResetSourcesEnterReset := by
  intro h
  obtain ⟨_, _, _, _, _, _, _, lockstep, _⟩ := h
  obtain ⟨t, ht, _, _, _, count, _⟩ := lockstep 0 0 twiceListed (by decide) (by decide) (by decide)
  cases ht
  exact absurd count (by decide)

/-! ### A block reset that frees the host (R47, R104) -/

/-- The host's read of TAKE1 blocks, and a later read of the host waits behind it. -/
def heldBehindTake : State :=
  { State.reset with
    regs := [(R.rst_BLK_IN_RESET_A, 0xFFFFFFFE)]
    mkt := { State.reset.mkt with takers := [(1, .host)] }
    host := { State.reset.host with bar0Held := [.read R.rst_RST_CAUSE] } }

/-- How many requests of the host wait in the state that a command leaves. -/
def heldAfter : Host.Outcome State Fault Refusal → Nat
  | .next t => t.host.bar0Held.length
  | _ => 0

/-- Refutes O10: the service core's reset of the Market ends the host's blocked read of TAKE1, and the request that waited behind it is then served, where the statement leaves it waiting. -/
theorem not_blockResetAndRelease : ¬ Obligations.BlockResetAndRelease := by
  intro h
  obtain ⟨blockReset, _⟩ := h
  have held := congrArg heldAfter (blockReset .svc false 1 heldBehindTake ⟨by decide, by decide, nofun⟩)
  exact absurd held (by decide)

end Sys2Proof.Machine
end


section
/-! SUPPORT. Bits and fields of words, and the pages of BAR0 whose registers an operation changes. -/

namespace Sys2Proof.Machine

open Sys2Proof

/-! ### Bits and fields of words -/

theorem tst_bitw_ne {i j : Nat} (h : i ≠ j) : tst (bitw i) j = false := by
  simp only [tst, bitw, w32, BitVec.getLsbD_ofNat, Nat.testBit_two_pow_of_ne h, Bool.and_false]

theorem tst_setBit_ne (w : Word) {i j : Nat} (b : Bool) (h : i ≠ j) : tst (setBit w i b) j = tst w j := by
  have hi : (bitw i).getLsbD j = false := tst_bitw_ne h
  cases b
  · by_cases hj : j < 32
    · simp only [setBit, tst, Bool.false_eq_true, if_false, BitVec.getLsbD_and, BitVec.getLsbD_not, hi, hj, decide_true, Bool.not_false, Bool.and_true]
    · simp [tst, Nat.le_of_not_lt hj]
  · simp only [setBit, tst, if_true, BitVec.getLsbD_or, hi, Bool.or_false]

theorem fld_testBit (w : Word) (lo n k : Nat) : (fld w lo n).testBit k = (decide (k < n) && tst w (lo + k)) := by
  simp [fld, tst, Nat.testBit_mod_two_pow, Nat.testBit_div_two_pow, BitVec.getLsbD, Nat.add_comm]

/-- A field depends on its own bits alone. -/
theorem fld_congr {v w : Word} {lo n : Nat} (h : ∀ k, lo ≤ k → k < lo + n → tst v k = tst w k) : fld v lo n = fld w lo n := by
  apply Nat.eq_of_testBit_eq
  intro k
  rw [fld_testBit, fld_testBit]
  by_cases hk : k < n
  · rw [h (lo + k) (by omega) (by omega)]
  · simp [hk]

theorem fld_setBit_ne (w : Word) {i lo n : Nat} (b : Bool) (h : i < lo ∨ lo + n ≤ i) : fld (setBit w i b) lo n = fld w lo n :=
  fld_congr fun _ _ _ => tst_setBit_ne w b (by omega)

theorem State.wb_rb_ne (s : State) (a : Nat) {i j : Nat} (v : Bool) (h : i ≠ j) : (s.wb a i v).rb a j = s.rb a j := by
  simp [State.wb, State.rb, tst_setBit_ne _ v h]

theorem State.wb_rf_ne (s : State) (a : Nat) {i lo n : Nat} (v : Bool) (h : i < lo ∨ lo + n ≤ i) : (s.wb a i v).rf a lo n = s.rf a lo n := by
  simp [State.wb, State.rf, fld_setBit_ne _ v h]

/-- A block's interrupt bit that is raised stands in IRQ_RAW. -/
theorem State.irq_raises (s : State) (b : Blk) {i : Nat} (h : i < 32) (hb : tst (w32 (2 ^ blkIrqN b - 1 + 0xC0000000)) i = true) :
    (s.irq b i).rb (hdr b oRaw) i = true := by
  have hi : (bitw i).getLsbD i = true := tst_bitw h
  have hm : (w32 (2 ^ blkIrqN b - 1 + 0xC0000000)).getLsbD i = true := hb
  simp only [State.rb, State.irq, State.irqBits_rd_raw, tst, BitVec.getLsbD_or, BitVec.getLsbD_and, hi, hm, Bool.and_self, Bool.or_true]

/-! ### Interrupt messages follow the outputs before them -/

theorem State.fireVec_out (s : State) (v : Nat) : s.out <:+ (s.fireVec v).out := by
  unfold State.fireVec
  split
  · exact List.suffix_rfl
  · exact List.suffix_cons _ _

theorem fireRising_out (b : Blk) (old : State) (l : List (Nat × Word)) (s : State) : s.out <:+ (fireRising b old l s).out := by
  induction l generalizing s with
  | nil => exact List.suffix_rfl
  | cons p l ih =>
    refine List.IsSuffix.trans ?_ (ih _)
    split
    · exact s.fireVec_out _
    · exact List.suffix_rfl

/-- Raising an interrupt sends at most messages: every output before it stays. -/
theorem State.irq_out (s : State) (b : Blk) (i : Nat) : s.out <:+ (s.irq b i).out := by
  unfold State.irq State.irqBits State.irqChange
  exact fireRising_out b s (blkVecs b) (s.wr _ _)

/-! ### The pages that an operation writes -/

theorem PagesOnly.refl (ps : List Nat) (s : State) : PagesOnly ps s s := fun _ _ => rfl

theorem PagesOnly.trans {ps : List Nat} {s t u : State} (h : PagesOnly ps s t) (h' : PagesOnly ps t u) : PagesOnly ps s u :=
  fun a ha => (h' a ha).trans (h a ha)

theorem PagesOnly.mono {ps qs : List Nat} {s t : State} (h : PagesOnly ps s t) (hs : ∀ p ∈ ps, p ∈ qs) : PagesOnly qs s t :=
  fun a ha => h a fun hm => ha (hs _ hm)

theorem PagesOnly.ite {ps : List Nat} {s t u : State} {c : Prop} [Decidable c] (ht : PagesOnly ps s t) (hu : PagesOnly ps s u) :
    PagesOnly ps s (if c then t else u) := by
  split <;> assumption

theorem PagesOnly.foldl {α : Type} {ps : List Nat} {f : State → α → State} (hf : ∀ t x, PagesOnly ps t (f t x)) (l : List α) (s : State) :
    PagesOnly ps s (l.foldl f s) := by
  induction l generalizing s with
  | nil => exact .refl ps s
  | cons x l ih => exact (hf s x).trans (ih _)

/-- A change of other parts of the state changes no register. -/
theorem PagesOnly.set {ps : List Nat} {s t : State} (hr : t.regs = s.regs) (hm : t.modId = s.modId) : PagesOnly ps s t :=
  fun a _ => State.rd_congr hr hm a

section
variable {ps : List Nat} (s : State)

theorem State.wr_pages {a : Nat} (v : Word) (h : a / 0x1000 ∈ ps) : PagesOnly ps s (s.wr a v) :=
  fun _ ha => s.rd_wr_ne v fun e => ha (e ▸ h)

theorem State.wb_pages {a : Nat} (i : Nat) (v : Bool) (h : a / 0x1000 ∈ ps) : PagesOnly ps s (s.wb a i v) := s.wr_pages _ h

theorem State.wf_pages {a : Nat} (lo n v : Nat) (h : a / 0x1000 ∈ ps) : PagesOnly ps s (s.wf a lo n v) := s.wr_pages _ h

theorem State.bumpSat_pages {a : Nat} (n : Nat) (h : a / 0x1000 ∈ ps) : PagesOnly ps s (s.bumpSat a n) := s.wr_pages _ h

theorem State.bump_pages {a : Nat} (n : Nat) (h : a / 0x1000 ∈ ps) : PagesOnly ps s (s.bump a n) := s.wr_pages _ h

theorem hdr_page (b : Blk) {off : Nat} (h : off < 0x1000) : hdr b off / 0x1000 = blkBase b / 0x1000 := by
  have := (blkBase_aligned b).1
  unfold hdr
  omega

theorem ne_hdr_of_page {ps : List Nat} {a off : Nat} {b : Blk} (h : blkBase b / 0x1000 ∈ ps) (ha : a / 0x1000 ∉ ps) (ho : off < 0x1000) : a ≠ hdr b off := by
  rintro rfl
  rw [hdr_page b ho] at ha
  exact ha h

theorem State.irqBits_pages {b : Blk} (v : Word) (h : blkBase b / 0x1000 ∈ ps) : PagesOnly ps s (s.irqBits b v) :=
  fun _ ha => s.irqBits_rd_ne b v (ne_hdr_of_page h ha (by decide))

theorem State.irq_pages {b : Blk} (i : Nat) (h : blkBase b / 0x1000 ∈ ps) : PagesOnly ps s (s.irq b i) := s.irqBits_pages _ h

theorem State.err_pages {b : Blk} (code off : Nat) (m : Master) (h : blkBase b / 0x1000 ∈ ps) : PagesOnly ps s (s.err b code off m) :=
  fun _ ha => s.err_rd_ne b code off m (ne_hdr_of_page h ha (by decide)) (ne_hdr_of_page h ha (by decide))

end

/-- A Ledger record writes the page of LDG. -/
theorem State.logGroup_pages (s : State) (m : Master) (code sev src : Nat) (l : List (Word × Word × Word)) : PagesOnly [0x2A] s (s.logGroup m code sev src l) :=
  fun _ ha => s.logGroup_rd m code sev src l (by simpa using ha)

theorem State.putM2h_pages (s : State) (x : MbxOut) : PagesOnly [0x2E] s (s.putM2h x) := fun _ ha => s.putM2h_rd x (by simpa using ha)

/-- An event is recorded by LDG and may be written by MBX. -/
theorem State.event_pages (s : State) (code src : Nat) (p : Bytes) : PagesOnly [0x2A, 0x2E] s (s.event code src p) := by
  unfold State.event
  extract_lets t
  have ht : PagesOnly [0x2A, 0x2E] s t := (s.logGroup_pages _ _ _ _ _).mono (by decide)
  exact .ite ht (.ite (ht.trans ((t.putM2h_pages _).mono (by decide))) (ht.trans (.set rfl rfl)))

theorem State.nvsPart_pages (w : NvsWriter) (a : Nat) (b : Bytes) (s : State) (r : Nat) : PagesOnly [0x12] s (s.nvsPart w a b r) := by
  unfold State.nvsPart
  extract_lets lo p
  exact .ite (.refl _ s) (.ite (.set rfl rfl) (s.err_pages _ _ _ (by decide)))

/-- A write of NVS writes the page of NVS, where it is refused. -/
theorem State.nvsWrite_pages (s : State) (w : NvsWriter) (a : Nat) (b : Bytes) : PagesOnly [0x12] s (s.nvsWrite w a b) := by
  unfold State.nvsWrite
  exact .ite (s.err_pages _ _ _ (by decide)) (.foldl (State.nvsPart_pages w a b) _ s)

end Sys2Proof.Machine
end


section
/-! SUPPORT. The contactors, the supply, the photocell and the status inputs. -/

namespace Sys2Proof.Machine

open Sys2Proof

/-! ### The contactor outputs (R474, R475) -/

/-- Setting a place of a list to what it reads as changes nothing. -/
theorem setAt_getD {l : List Bool} {i : Nat} {v : Bool} (h : l.getD i false = v) : setAt l i v = l := by
  unfold setAt
  by_cases hi : i < l.length
  · rw [List.getD_eq_getElem _ _ hi] at h
    rw [← h, List.set_getElem_self]
  · exact List.set_eq_of_length_le (Nat.le_of_not_lt hi)

theorem getD_setAt (l : List Bool) (i k : Nat) (v : Bool) : (setAt l i v).getD k false = if k = i ∧ i < l.length then v else l.getD k false := by
  simp only [setAt, List.getD_eq_getElem?_getD, List.getElem?_set]
  grind

theorem State.setCont_fsw (s : State) (i : Nat) (v : Bool) : (s.setCont i v).fsw = { s.fsw with on := setAt s.fsw.on i v } := by
  unfold State.setCont
  split
  · next h => rw [setAt_getD h]
  · rfl

theorem State.setCont_rd (s : State) (i : Nat) (v : Bool) (a : Nat) : (s.setCont i v).rd a = s.rd a :=
  (goes_setCont s i v rfl (.refl [.out, .fsw] s)).rd (by decide) (by decide) a

/-- The end of a sequence clears it, and hands the contactors of an FSW that drains back. -/
theorem State.contIdle_cases (s : State) :
    s.contIdle = { s with fsw := { s.fsw with seq := none } } ∨
      (s.inReset .fsw = false ∧ s.en .fsw = false ∧
        s.contIdle = ({ s with fsw := { s.fsw with seq := none } }.wb R.fsw_CONT_HOLD 8 false).setDrained .fsw) := by
  unfold State.contIdle
  extract_lets u
  split
  · next h =>
    simp only [Bool.and_eq_true, Bool.not_eq_true'] at h
    exact .inr ⟨h.1.1, h.1.2, rfl⟩
  · exact .inl rfl

theorem State.setDrained_fsw (s : State) (b : Blk) : (s.setDrained b).fsw = s.fsw :=
  (goes_setDrained s b rfl (.refl [.regs, .out, .pba] s)).1 .fsw (by decide)

theorem State.contIdle_fsw (s : State) : s.contIdle.fsw = { s.fsw with seq := none } := by
  rcases s.contIdle_cases with h | ⟨_, _, h⟩ <;> rw [h]
  rw [State.setDrained_fsw]
  rfl

/-- What the contactor sequencer leaves: HOLD, COIL_DROP, FW_OWN of an enabled FSW, and all of FSW but the outputs and how far the sequence is. -/
def ContKept (s t : State) : Prop :=
  t.rf R.fsw_CONT_HOLD 0 6 = s.rf R.fsw_CONT_HOLD 0 6 ∧ t.coilDrop = s.coilDrop ∧ t.en .fsw = s.en .fsw ∧ (s.en .fsw = true → t.fwOwn = s.fwOwn) ∧
    t.fsw = { s.fsw with on := t.fsw.on, seq := t.fsw.seq }

theorem ContKept.refl (s : State) : ContKept s s := ⟨rfl, rfl, rfl, fun _ => rfl, rfl⟩

theorem ContKept.trans {s t u : State} (h : ContKept s t) (h' : ContKept t u) : ContKept s u := by
  obtain ⟨hold, drop, en, own, rest⟩ := h
  obtain ⟨hold', drop', en', own', rest'⟩ := h'
  refine ⟨hold'.trans hold, drop'.trans drop, en'.trans en, fun e => (own' (en.trans e)).trans (own e), rest'.trans ?_⟩
  rw [rest]

/-- A change of outputs and sequence alone keeps the rest. -/
theorem ContKept.of_fsw {s t : State} (hr : ∀ a, t.rd a = s.rd a) (hf : t.fsw = { s.fsw with on := t.fsw.on, seq := t.fsw.seq }) : ContKept s t := by
  refine ⟨?_, ?_, ?_, fun _ => ?_, hf⟩
  · simp only [State.rf, hr]
  · simp only [State.coilDrop, State.rb, hr]
  · simp only [State.en, State.rb, hr]
  · simp only [State.fwOwn, State.rb, hr]

theorem State.setCont_kept (s : State) (i : Nat) (v : Bool) : ContKept s (s.setCont i v) :=
  .of_fsw (s.setCont_rd i v) (by rw [State.setCont_fsw])

/-- FW_OWN is taken back alone. -/
theorem State.ownBack_kept (s : State) (h : s.en .fsw = false) : ContKept s (s.wb R.fsw_CONT_HOLD 8 false) :=
  ⟨s.wb_rf_ne _ _ (by decide), s.wb_rb_ne _ _ (by decide), congrArg (tst · 0) (s.wb_rd_ne 8 false (by decide)),
    fun e => absurd (h.symm.trans e) Bool.false_ne_true, rfl⟩

theorem State.setDrained_kept (s : State) : ContKept s (s.setDrained .fsw) := by
  have hold := s.setDrained_rd_past .fsw (a := R.fsw_CONT_HOLD) (by decide)
  refine ⟨congrArg (fld · 0 6) hold, congrArg (tst · 9) hold, ?_, fun _ => congrArg (tst · 8) hold, by rw [State.setDrained_fsw]⟩
  unfold State.setDrained
  split
  · rfl
  · exact congrArg (tst · 0) ((State.irq_rd_ne _ _ _ (by decide)).trans (s.wb_rd_ne 1 true (by decide)))

theorem State.contIdle_kept (s : State) : ContKept s s.contIdle := by
  have hu : ContKept s { s with fsw := { s.fsw with seq := none } } := .of_fsw (fun _ => rfl) rfl
  rcases s.contIdle_cases with h | ⟨_, hen, h⟩ <;> rw [h]
  · exact hu
  · exact hu.trans ((State.ownBack_kept _ hen).trans (State.setDrained_kept _))

/-- Where no output is to change the sequence ends. -/
theorem State.contStep_none {s : State} (p : Nat) (h : s.contTodo = []) : s.contStep p = s.contIdle := by
  simp [State.contStep, h]

/-- Where outputs are to change one of them does, the lowest that the sequence has not passed, and the sequence goes on or ends. -/
theorem State.contStep_some {s : State} (p : Nat) (h : s.contTodo ≠ []) :
    ∃ i ∈ s.contTodo, (s.contTodo.filter (fun i => decide (p ≤ i)) ≠ [] → i = (s.contTodo.filter (fun i => decide (p ≤ i))).headD 0) ∧
      (s.contStep p = (s.setCont i (s.contTarget i)).contIdle ∨
        s.contStep p = { s.setCont i (s.contTarget i) with fsw := { (s.setCont i (s.contTarget i)).fsw with seq := some (i + 1) } }) := by
  have step (i : Nat) : ∀ t, t = (if (s.setCont i (s.contTarget i)).contTodo.isEmpty then (s.setCont i (s.contTarget i)).contIdle else
      { s.setCont i (s.contTarget i) with fsw := { (s.setCont i (s.contTarget i)).fsw with seq := some (i + 1) } }) →
      t = (s.setCont i (s.contTarget i)).contIdle ∨
        t = { s.setCont i (s.contTarget i) with fsw := { (s.setCont i (s.contTarget i)).fsw with seq := some (i + 1) } } := by
    rintro _ rfl
    split
    · exact .inl rfl
    · exact .inr rfl
  cases hf : s.contTodo.filter (fun i => decide (p ≤ i)) with
  | cons i l =>
    refine ⟨i, List.mem_of_mem_filter (hf ▸ List.mem_cons_self), fun _ => rfl, step i _ ?_⟩
    simp only [State.contStep, hf]
  | nil =>
    cases ht : s.contTodo with
    | nil => exact absurd ht h
    | cons i l =>
      refine ⟨i, List.mem_cons_self, fun e => absurd rfl e, step i _ ?_⟩
      simp only [State.contStep, hf]
      rw [ht]

theorem State.contStep_kept (s : State) (p : Nat) : ContKept s (s.contStep p) := by
  by_cases h : s.contTodo = []
  · rw [State.contStep_none p h]
    exact s.contIdle_kept
  · obtain ⟨i, _, _, h | h⟩ := State.contStep_some p h <;> rw [h]
    · exact (s.setCont_kept i _).trans (State.contIdle_kept _)
    · exact (s.setCont_kept i _).trans (.of_fsw (fun _ => rfl) rfl)

theorem State.contFollow_kept (s : State) : ContKept s s.contFollow := by
  unfold State.contFollow
  split
  · exact .refl s
  · exact s.contStep_kept 0

/-- One step of the sequence switches one output, to what it is to be. -/
theorem State.contStep_on {s : State} {p i : Nat} (h : s.contTodo.filter (fun i => decide (p ≤ i)) ≠ [])
    (hi : i = (s.contTodo.filter (fun i => decide (p ≤ i))).headD 0) : (s.contStep p).fsw.on = setAt s.fsw.on i (s.contTarget i) := by
  have ht : s.contTodo ≠ [] := fun e => h (by rw [e]; rfl)
  obtain ⟨j, _, hj, e | e⟩ := State.contStep_some p ht <;> obtain rfl := (hj h).trans hi.symm <;> rw [e]
  · rw [State.contIdle_fsw, State.setCont_fsw]
  · rw [State.setCont_fsw]

theorem State.contTodo_lt {s : State} {p : Nat} (h : s.contTodo.filter (fun i => decide (p ≤ i)) ≠ []) :
    (s.contTodo.filter (fun i => decide (p ≤ i))).headD 0 < 6 := by
  cases hf : s.contTodo.filter (fun i => decide (p ≤ i)) with
  | nil => exact absurd hf h
  | cons i l =>
    have hm : i ∈ s.contTodo := List.mem_of_mem_filter (hf ▸ List.mem_cons_self)
    exact List.mem_range.mp (List.mem_of_mem_filter hm)

theorem getD_setAt_off (l : List Bool) (i k : Nat) : (setAt l i false).getD k false = if k = i then false else l.getD k false := by
  rw [getD_setAt]
  by_cases hk : k = i
  · by_cases hi : i < l.length
    · simp [hk, hi]
    · simp [hk, Nat.le_of_not_lt hi]
  · simp [hk]

/-- Switching off the outputs of a list leaves the others. -/
theorem foldl_setCont_off (l : List Nat) (s : State) (k : Nat) :
    (l.foldl (fun (t : State) i => t.setCont i false) s).fsw.on.getD k false = if k ∈ l then false else s.fsw.on.getD k false := by
  induction l generalizing s with
  | nil => simp
  | cons i l ih =>
    rw [List.foldl_cons, ih, State.setCont_fsw, getD_setAt_off]
    by_cases hk : k = i <;> simp [hk]

/-- Switching outputs changes no other field of FSW, and no register. -/
theorem foldl_setCont_kept (l : List Nat) (s : State) : ContKept s (l.foldl (fun (t : State) i => t.setCont i false) s) := by
  induction l generalizing s with
  | nil => exact .refl s
  | cons i l ih => exact (s.setCont_kept i false).trans (ih _)

theorem State.fswIrq_fsw (s : State) (i : Nat) : (s.fswIrq i).fsw = s.fsw :=
  (goes_fswIrq s i rfl (.refl [.regs, .out, .pba] s)).1 .fsw (by decide)

theorem State.fswIrq_coilDrop (s : State) (i : Nat) : (s.fswIrq i).coilDrop = s.coilDrop := by
  unfold State.fswIrq
  split
  · rfl
  · exact congrArg (tst · 9) (s.irq_rd_past .fsw i (by decide))

/-- The four interrupts of FSW stand once its page is out of reset. -/
theorem State.fswIrq_raises (s : State) (i : Fin 4) (h : s.inReset .fsw = false) : (s.fswIrq i.val).rb (hdr .fsw oRaw) i.val = true := by
  unfold State.fswIrq
  rw [h, if_neg Bool.false_ne_true]
  have bits : ∀ i : Fin 4, tst (w32 (2 ^ blkIrqN .fsw - 1 + 0xC0000000)) i.val = true := by decide
  exact s.irq_raises .fsw (by omega) (bits i)

/-- Every output is off once each is switched off. -/
theorem foldl_setCont_allOff {s : State} (h : s.fsw.on.length = 6) (k : Nat) :
    ((List.range 6).foldl (fun (t : State) i => t.setCont i false) s).fsw.on.getD k false = false := by
  rw [foldl_setCont_off]
  split
  · rfl
  · next hk => exact List.getD_eq_default _ _ (by rw [List.mem_range] at hk; exact h ▸ Nat.le_of_not_lt hk)

/-- The state once the coil supply is gone and every output has switched off. -/
def State.coilsOff (s : State) : State :=
  (List.range 6).foldl (fun (t : State) i => t.setCont i false) { s with fsw := { s.fsw with coilOk := false } }

theorem State.coilDown_eq (s : State) : s.coilDown = ((s.coilsOff.wb R.fsw_CONT_HOLD 9 true).contIdle).fswIrq 3 := rfl

theorem State.coilsOff_on {s : State} (h : s.fsw.on.length = 6) (k : Nat) : s.coilsOff.fsw.on.getD k false = false := by
  rw [State.coilsOff]
  refine foldl_setCont_allOff ?_ k
  exact h

theorem State.coilsOff_coilOk (s : State) : s.coilsOff.fsw.coilOk = false := by
  rw [State.coilsOff, (foldl_setCont_kept _ _).2.2.2.2]

theorem State.coilsOff_coilMv (s : State) : s.coilsOff.fsw.coilMv = s.fsw.coilMv := by
  rw [State.coilsOff, (foldl_setCont_kept _ _).2.2.2.2]

theorem State.coilDown_fsw (s : State) : s.coilDown.fsw = { s.coilsOff.fsw with seq := none } := by
  rw [State.coilDown_eq, State.fswIrq_fsw, State.contIdle_fsw, State.wb, State.wr_fsw]

theorem State.coilDown_on {s : State} (h : s.fsw.on.length = 6) (k : Nat) : s.coilDown.fsw.on.getD k false = false := by
  rw [State.coilDown_fsw]
  exact State.coilsOff_on h k

theorem State.coilDown_coilOk (s : State) : s.coilDown.fsw.coilOk = false := by
  rw [State.coilDown_fsw]
  exact s.coilsOff_coilOk

theorem State.coilDown_coilMv (s : State) : s.coilDown.fsw.coilMv = s.fsw.coilMv := by
  rw [State.coilDown_fsw]
  exact s.coilsOff_coilMv

theorem State.coilDown_seq (s : State) : s.coilDown.fsw.seq = none := by
  rw [State.coilDown_fsw]

/-- A loss of the coil supply sets COIL_DROP (R474). -/
theorem State.coilDown_coilDrop (s : State) : s.coilDown.coilDrop = true := by
  rw [State.coilDown_eq, State.fswIrq_coilDrop, (State.contIdle_kept _).2.1]
  exact State.wb_rb_same _ _ true (by decide)

/-! ### The supply (R471) -/

theorem State.saveFailed_pages (s : State) : PagesOnly [0x12, 0x25, 0x26] s s.saveFailed :=
  ((s.nvsWrite_pages _ _ _).mono (by decide)).trans ((State.bumpSat_pages _ 1 (by decide)).trans (State.wb_pages _ _ _ (by decide)))

theorem State.saveTotals_pages (s : State) (slot kind base ns : Nat) (acc : List Nat) : PagesOnly [0x12, 0x25, 0x26] s (s.saveTotals slot kind base ns acc) := by
  unfold State.saveTotals
  extract_lets n b t
  clear_value b
  have ht : PagesOnly [0x12, 0x25, 0x26] s t :=
    PagesOnly.trans ((s.nvsWrite_pages .scl slot (totalsRec b)).mono (by decide)) (State.wb_pages _ 2 true (by decide))
  clear_value t
  exact ht.trans (.set rfl rfl)

theorem State.sclTail_pages (s : State) : PagesOnly [0x12, 0x25, 0x26] s s.sclTail := by
  unfold State.sclTail
  extract_lets acc
  refine .ite (.refl _ s) (.ite s.saveFailed_pages ?_)
  clear_value acc
  have hd : PagesOnly [0x12, 0x25, 0x26] s (s.draw 1) := .set rfl rfl
  refine PagesOnly.trans ?_ (State.bumpSat_pages _ 1 (by decide))
  exact hd.trans (State.saveTotals_pages _ _ _ _ _ _)

theorem State.writeRec_pages (s : State) : PagesOnly [0x12, 0x2A] s s.writeRec := by
  unfold State.writeRec
  split
  · exact .refl _ s
  · next r rest _ =>
    extract_lets l t u v
    have ht : PagesOnly [0x12, 0x2A] s t := .set rfl rfl
    have hu : PagesOnly [0x12, 0x2A] s u := ht.trans ((t.nvsWrite_pages _ _ _).mono (by decide))
    clear_value u
    have hv : PagesOnly [0x12, 0x2A] s v := hu.trans ((u.bump_pages 1 (by decide)).trans (State.irq_pages _ 0 (by decide)))
    exact .ite (hv.trans (v.irq_pages 2 (by decide))) hv

theorem ldgFlush_pages (n : Nat) (s : State) : PagesOnly [0x12, 0x2A] s (ldgFlush n s) := by
  induction n generalizing s with
  | zero => exact .refl _ s
  | succ n ih => exact .ite (.refl _ s) (s.writeRec_pages.trans (ih _))

theorem State.ldgSave_pages (s : State) : PagesOnly [0x12, 0x2A] s s.ldgSave := by
  unfold State.ldgSave State.saveOp
  exact .ite (.refl _ s) ((ldgFlush_pages _ s).trans ((State.nvsWrite_pages _ _ _ _).mono (by decide)))

theorem State.saveSeries_pages (s : State) : PagesOnly [0x12] s s.saveSeries := by
  unfold State.saveSeries
  exact .foldl (fun t p => t.nvsWrite_pages _ _ _) _ s

/-- What PFAIL makes Scales and LDG save writes no register of PWR. -/
theorem State.pfailOn_pages (s : State) :
    PagesOnly [0x12, 0x25, 0x26, 0x2A] ((((s.wb R.pwr_PWR_STAT 0 true).bumpSat R.pwr_PFAIL_CNT 1).emit (.pin "PFAIL_N" false)).irq .pwr 0) s.pfailOn := by
  unfold State.pfailOn
  extract_lets t u
  have hu : PagesOnly [0x12, 0x25, 0x26, 0x2A] t u := t.sclTail_pages.mono (by decide)
  refine .ite hu (hu.trans ?_)
  exact (u.ldgSave_pages.mono (by decide)).trans ((State.saveSeries_pages _).mono (by decide))

theorem State.pfailOn_pwr (s : State) : s.pfailOn.rb R.pwr_PWR_STAT 0 = true ∧ s.pfailOn.rd R.pwr_PFAIL_CNT = satAdd (s.rd R.pwr_PFAIL_CNT) 1 ∧
    s.pfailOn.rb (hdr .pwr oRaw) 0 = true := by
  have hs := s.pfailOn_pages
  have stat := hs R.pwr_PWR_STAT (by decide)
  have cnt := hs R.pwr_PFAIL_CNT (by decide)
  have raw := hs (hdr .pwr oRaw) (by decide)
  rw [State.irq_rd_ne _ .pwr 0 (by decide), State.rd_emit, State.bumpSat, State.rd_wr_ne _ _ (by decide)] at stat
  rw [State.irq_rd_ne _ .pwr 0 (by decide), State.rd_emit, State.bumpSat_rd_same, s.wb_rd_ne 0 true (by decide)] at cnt
  refine ⟨?_, cnt, ?_⟩
  · rw [State.rb, stat]
    exact s.wb_rb_same _ true (by decide)
  · rw [State.rb, raw]
    exact State.irq_raises _ .pwr (by decide) (by decide)

/-- A voltage well below a level is below it, and one well above is not; between them the model takes either (R471). -/
theorem State.underMv_below (s : State) {th mv : Nat} (h : mv + 300 < th) : s.underMv th mv = true := by
  simp [State.underMv, h]

theorem State.underMv_above (s : State) {th mv : Nat} (h : th + 300 ≤ mv) : s.underMv th mv = false := by
  simp [State.underMv, show ¬ mv + 300 < th by omega, show ¬ mv < th + 300 by omega]

end Sys2Proof.Machine
end

section
/-! PROOFS. A power failure, the contactors, the photocell and the status inputs. -/

namespace Sys2Proof.Machine

open Sys2Proof

/-! ### PFAIL and its end (R471) -/

theorem exec_pfail_quiet {mv : Nat} {s : State} (h : s.rb R.pwr_PWR_STAT 0 = true ∨ s.boot.stage = .off ∨ s.pfailTh + 300 ≤ mv) :
    exec (.pfail mv) s = .next ((s.wr R.pwr_VIN_MEAS (w32 (mv % 65536))).draw 1) := by
  refine congrArg Host.Outcome.next (if_pos ?_)
  have stat : (s.wr R.pwr_VIN_MEAS (w32 (mv % 65536))).rb R.pwr_PWR_STAT 0 = s.rb R.pwr_PWR_STAT 0 := congrArg (tst · 0) (s.rd_wr_ne _ (by decide))
  show ((s.wr R.pwr_VIN_MEAS (w32 (mv % 65536))).rb R.pwr_PWR_STAT 0 || decide (s.boot.stage = .off) || !s.underMv s.pfailTh mv) = true
  rw [stat]
  rcases h with h | h | h
  · simp [h]
  · simp [h]
  · simp [State.underMv_above s h]

theorem exec_pfail_asserts {mv : Nat} {s : State} (hp : s.rb R.pwr_PWR_STAT 0 = false) (hb : s.boot.stage ≠ .off) (hv : mv + 300 < s.pfailTh) :
    exec (.pfail mv) s = .next ((s.wr R.pwr_VIN_MEAS (w32 (mv % 65536))).draw 1).pfailOn := by
  refine congrArg Host.Outcome.next (if_neg ?_)
  have stat : (s.wr R.pwr_VIN_MEAS (w32 (mv % 65536))).rb R.pwr_PWR_STAT 0 = s.rb R.pwr_PWR_STAT 0 := congrArg (tst · 0) (s.rd_wr_ne _ (by decide))
  show ¬ ((s.wr R.pwr_VIN_MEAS (w32 (mv % 65536))).rb R.pwr_PWR_STAT 0 || decide (s.boot.stage = .off) || !s.underMv s.pfailTh mv) = true
  simp [stat, hp, hb, State.underMv_below s hv]

theorem exec_pfailEnd (mv : Nat) (s : State) :
    exec (.pfailEnd mv) s = .next (if s.rb R.pwr_PWR_STAT 0 && !s.underMv (s.pfailTh + 1001) mv then
      ((((s.wr R.pwr_VIN_MEAS (w32 (mv % 65536))).draw 1).wb R.pwr_PWR_STAT 0 false).emit (.pin "PFAIL_N" true)).irq .pwr 1
      else (s.wr R.pwr_VIN_MEAS (w32 (mv % 65536))).draw 1) := by
  have stat : (s.wr R.pwr_VIN_MEAS (w32 (mv % 65536))).rb R.pwr_PWR_STAT 0 = s.rb R.pwr_PWR_STAT 0 := congrArg (tst · 0) (s.rd_wr_ne _ (by decide))
  rw [← stat]
  rfl

theorem vinMeas_pwrStat (s : State) (v : Word) : ((s.wr R.pwr_VIN_MEAS v).draw 1).rb R.pwr_PWR_STAT 0 = s.rb R.pwr_PWR_STAT 0 :=
  congrArg (tst · 0) (s.rd_wr_ne v (by decide))

theorem pfail_quiet (mv : Nat) (s : State) (h : s.rb R.pwr_PWR_STAT 0 = true ∨ s.boot.stage = .off ∨ s.pfailTh + 300 ≤ mv) :
    ∃ t, exec (.pfail mv) s = .next t ∧ t = (s.wr R.pwr_VIN_MEAS (w32 (mv % 65536))).draw 1 ∧ t.rb R.pwr_PWR_STAT 0 = s.rb R.pwr_PWR_STAT 0 :=
  ⟨_, exec_pfail_quiet h, rfl, vinMeas_pwrStat s _⟩

theorem pfail_asserts (mv : Nat) (s : State) (hp : s.rb R.pwr_PWR_STAT 0 = false) (hb : s.boot.stage ≠ .off) (hv : mv + 300 < s.pfailTh) :
    ∃ t, exec (.pfail mv) s = .next t ∧ t.rb R.pwr_PWR_STAT 0 = true ∧ t.rd R.pwr_PFAIL_CNT = satAdd (s.rd R.pwr_PFAIL_CNT) 1 ∧ t.rb (hdr .pwr oRaw) 0 = true ∧
      ChangesOnly (touches (.pfail mv)) s t := by
  have hx := exec_pfail_asserts hp hb hv
  obtain ⟨stat, cnt, raw⟩ := State.pfailOn_pwr ((s.wr R.pwr_VIN_MEAS (w32 (mv % 65536))).draw 1)
  refine ⟨_, hx, stat, cnt.trans ?_, raw, (exec_goes hx).1⟩
  exact congrArg (satAdd · 1) (s.rd_wr_ne _ (by decide))

theorem pfailEnd_quiet (mv : Nat) (s : State) (h : s.rb R.pwr_PWR_STAT 0 = false ∨ mv < s.pfailTh + 701) :
    ∃ t, exec (.pfailEnd mv) s = .next t ∧ t = (s.wr R.pwr_VIN_MEAS (w32 (mv % 65536))).draw 1 ∧ t.rb R.pwr_PWR_STAT 0 = s.rb R.pwr_PWR_STAT 0 := by
  refine ⟨_, (exec_pfailEnd mv s).trans (congrArg Host.Outcome.next (if_neg ?_)), rfl, vinMeas_pwrStat s _⟩
  rcases h with h | h
  · simp [h]
  · simp [State.underMv_below s (show mv + 300 < s.pfailTh + 1001 by omega)]

theorem pfailEnd_clears (mv : Nat) (s : State) (hp : s.rb R.pwr_PWR_STAT 0 = true) (hv : s.pfailTh + 1301 ≤ mv) :
    ∃ t, exec (.pfailEnd mv) s = .next t ∧ t.rb R.pwr_PWR_STAT 0 = false ∧ t.rb (hdr .pwr oRaw) 1 = true ∧ Out.pin "PFAIL_N" true ∈ t.out ∧
      ChangesOnly (touches (.pfailEnd mv)) s t := by
  have hc : (s.rb R.pwr_PWR_STAT 0 && !s.underMv (s.pfailTh + 1001) mv) = true := by
    simp [hp, State.underMv_above s (show s.pfailTh + 1001 + 300 ≤ mv by omega)]
  have hx := (exec_pfailEnd mv s).trans (congrArg Host.Outcome.next (if_pos hc))
  refine ⟨_, hx, ?_, State.irq_raises _ .pwr (by decide) (by decide), ?_, (exec_goes hx).1⟩
  · rw [State.rb, State.irq_rd_ne _ .pwr 1 (by decide), State.rd_emit]
    exact State.wb_rb_same _ _ false (by decide)
  · exact (State.irq_out _ .pwr 1).subset List.mem_cons_self

/-! ### CONT_HOLD and the sequencer (R359, R474, R475) -/

theorem exec_contHoldWrite {m : Master} {v : Word} {s : State} (h : PageOpen s .fsw m) : exec (.contHoldWrite m v) s = .next ((s.contHold m v).answer .done) :=
  congrArg Host.Outcome.next (State.writeAt_open h _ _ _)

theorem fld_hold (v d : Nat) (hv : v < 64) (hd : d ≤ 1) : fld (w32 (v + 2 ^ 8 + d * 2 ^ 9)) 0 6 = v ∧ tst (w32 (v + 2 ^ 8 + d * 2 ^ 9)) 9 = decide (d = 1) ∧
    tst (w32 (v + 2 ^ 8 + d * 2 ^ 9)) 8 = true := by
  refine ⟨?_, ?_, ?_⟩
  · simp only [fld, w32, BitVec.toNat_ofNat]
    omega
  · simp only [tst, w32, BitVec.getLsbD_ofNat, Nat.testBit_eq_decide_div_mod_eq]
    simp only [show (9 < 32) = True by decide, decide_true, Bool.true_and, decide_eq_decide]
    omega
  · simp only [tst, w32, BitVec.getLsbD_ofNat, Nat.testBit_eq_decide_div_mod_eq]
    simp only [show (8 < 32) = True by decide, decide_true, Bool.true_and, decide_eq_true_eq]
    omega

theorem fld_lt (v : Word) (lo n : Nat) : fld v lo n < 2 ^ n := Nat.mod_lt _ (Nat.two_pow_pos n)

/-- A write of FW_OWN 0 hands the contactors back and leaves HOLD (R359). -/
theorem contHoldWrite_handsBack (m : Master) (v : Word) (s : State) (h : PageOpen s .fsw m) (hv : tst v 8 = false) :
    ∃ t, exec (.contHoldWrite m v) s = .next t ∧ t = (s.wb R.fsw_CONT_HOLD 8 false).answer .done ∧ t.fwOwn = false ∧ t.rf R.fsw_CONT_HOLD 0 6 = s.rf R.fsw_CONT_HOLD 0 6 := by
  have hc : s.contHold m v = s.wb R.fsw_CONT_HOLD 8 false := by simp [State.contHold, hv]
  exact ⟨_, exec_contHoldWrite h, by rw [hc], hc ▸ s.wb_rb_same _ false (by decide), hc ▸ s.wb_rf_ne _ false (by decide)⟩

theorem contHoldWrite_busy (m : Master) (v : Word) (s : State) (h : PageOpen s .fsw m) (hv : tst v 8 = true) (hb : s.configured = false ∨ s.isStandby = true) :
    ∃ t, exec (.contHoldWrite m v) s = .next t ∧ t = (s.err .fsw eBusy 0x40 m).answer .done ∧ t.fsw = s.fsw := by
  have hc : s.contHold m v = s.err .fsw eBusy 0x40 m := by
    rcases hb with hb | hb <;> simp [State.contHold, hv, hb]
  exact ⟨_, exec_contHoldWrite h, by rw [hc], hc ▸ (s.err_changes .fsw eBusy 0x40 m) .fsw (by decide)⟩

/-- An accepted claim stores HOLD, keeps COIL_DROP, and is still there where FSW is enabled, as only an FSW that drains hands back (R359, R482). -/
theorem contHoldWrite_claims (m : Master) (v : Word) (s : State) (h : PageOpen s .fsw m) (hv : tst v 8 = true) (hc : s.configured = true) (hs : s.isStandby = false) :
    ∃ t, exec (.contHoldWrite m v) s = .next t ∧ t.rf R.fsw_CONT_HOLD 0 6 = fld v 0 6 ∧ t.coilDrop = s.coilDrop ∧ t.resp = .done ∧ (s.en .fsw = true → t.fwOwn = true) ∧
      ChangesOnly (touches (.contHoldWrite m v)) s t := by
  have hx := exec_contHoldWrite (v := v) h
  have hw : s.contHold m v = (s.wr R.fsw_CONT_HOLD (w32 (fld v 0 6 + 2 ^ 8 + b2n s.coilDrop * 2 ^ 9))).contFollow := by simp [State.contHold, hv, hc, hs]
  obtain ⟨hold, drop, own⟩ := fld_hold (fld v 0 6) (b2n s.coilDrop) (fld_lt v 0 6) (by cases s.coilDrop <;> decide)
  obtain ⟨hold', drop', _, own', _⟩ := State.contFollow_kept (s.wr R.fsw_CONT_HOLD (w32 (fld v 0 6 + 2 ^ 8 + b2n s.coilDrop * 2 ^ 9)))
  rw [hw] at hx
  refine ⟨_, hx, hold'.trans ?_, drop'.trans ?_, rfl, fun hen => (own' ?_).trans ?_, (exec_goes hx).1⟩
  · rw [State.rf, State.rd_wr_same, hold]
  · rw [State.coilDrop, State.rb, State.rd_wr_same, drop]
    cases s.coilDrop <;> rfl
  · exact (congrArg (tst · 0) (s.rd_wr_ne _ (by decide))).trans hen
  · rw [State.fwOwn, State.rb, State.rd_wr_same, own]

/-- The next output switches while the sequence runs and nothing holds it (R390, R475, R482). -/
theorem contSequenceStep_spec (s : State) : (s.fsw.seq = none → exec .contSequenceStep s = .next s) ∧
    (∀ p, s.fsw.seq = some p → s.drainBit .fsw = false → s.cryError = false → ∃ t, exec .contSequenceStep s = .next t ∧ t = s.contStep p ∧
      (s.contTodo = [] → t.fsw.seq = none ∧ t.fsw.on = s.fsw.on)) ∧
    (∀ p, s.fsw.seq = some p → (s.drainBit .fsw = true ∧ s.en .fsw = true) ∨ s.cryError = true → exec .contSequenceStep s = .next s) := by
  have hx : exec .contSequenceStep s = .next (match s.fsw.seq with
    | some p => if (s.drainBit .fsw && s.en .fsw) || s.cryError then s else s.contStep p
    | none => s) := rfl
  refine ⟨fun h => by rw [hx, h], fun p h hd he => ⟨s.contStep p, ?_, rfl, fun hn => ?_⟩, fun p h hb => ?_⟩
  · rw [hx, h]
    simp [hd, he]
  · rw [State.contStep_none p hn, State.contIdle_fsw]
    exact ⟨rfl, rfl⟩
  · rw [hx, h]
    rcases hb with ⟨hd, hen⟩ | he
    · simp [hd, hen]
    · simp [he]

/-- A step switches the output it comes to and no other. -/
theorem contStep_switches (p i : Nat) (s : State) (hl : s.fsw.on.length = 6) (hf : s.contTodo.filter (fun i => decide (p ≤ i)) ≠ [])
    (hi : i = (s.contTodo.filter (fun i => decide (p ≤ i))).headD 0) :
    (s.contStep p).fsw.on.getD i false = s.contTarget i ∧ (∀ k, k ≠ i → (s.contStep p).fsw.on.getD k false = s.fsw.on.getD k false) := by
  have hlt : i < 6 := hi ▸ State.contTodo_lt hf
  rw [State.contStep_on hf hi]
  exact ⟨by rw [getD_setAt, if_pos ⟨rfl, by omega⟩], fun k hk => by rw [getD_setAt, if_neg fun e => hk e.1]⟩

/-! ### The coil supply and faults (R474) -/

theorem exec_coilLost_down {mv : Nat} {s : State} (hv : mv < 16000) (hok : s.fsw.coilOk = true) :
    exec (.coilLost mv) s = .next ({ s with fsw := { s.fsw with coilMv := mv } } : State).coilDown :=
  congrArg Host.Outcome.next ((if_pos hv).trans (if_pos hok))

theorem coilLost_spec (mv : Nat) (s : State) (hv : mv < 16000) :
    (s.fsw.coilOk = true → s.fsw.on.length = 6 → ∃ t, exec (.coilLost mv) s = .next t ∧ (∀ i, t.fsw.on.getD i false = false) ∧ t.fsw.coilOk = false ∧ t.fsw.coilMv = mv ∧
      t.coilDrop = true ∧ t.fsw.seq = none ∧ ChangesOnly (touches (.coilLost mv)) s t) ∧
    (s.fsw.coilOk = false → ∃ t, exec (.coilLost mv) s = .next t ∧ t = { s with fsw := { s.fsw with coilMv := mv } } ∧ t.coilDrop = s.coilDrop) := by
  constructor
  · intro hok hl
    have hx := exec_coilLost_down hv hok
    exact ⟨_, hx, State.coilDown_on hl, State.coilDown_coilOk _, State.coilDown_coilMv _, State.coilDown_coilDrop _, State.coilDown_seq _, (exec_goes hx).1⟩
  · intro hok
    exact ⟨_, congrArg Host.Outcome.next ((if_pos hv).trans (if_neg (by simp [hok]))), rfl, rfl⟩

theorem coilReturn_spec (mv : Nat) (s : State) (hv : 16000 ≤ mv) :
    (s.fsw.coilOk = false → ∃ t, exec (.coilReturn mv) s = .next t ∧ t.fsw.coilOk = true ∧ t.fsw.coilMv = mv ∧ t.coilDrop = s.coilDrop ∧ ChangesOnly (touches (.coilReturn mv)) s t) ∧
    (s.fsw.coilOk = true → ∃ t, exec (.coilReturn mv) s = .next t ∧ t = { s with fsw := { s.fsw with coilMv := mv } } ∧ t.coilDrop = s.coilDrop) := by
  have hn : ¬ mv < 16000 := Nat.not_lt.mpr hv
  constructor
  · intro hok
    have hx : exec (.coilReturn mv) s = .next ({ s with fsw := { s.fsw with coilMv := mv, coilOk := true } } : State).contFollow :=
      congrArg Host.Outcome.next ((if_neg hn).trans (if_neg (by simp [hok])))
    obtain ⟨_, drop, _, _, rest⟩ := State.contFollow_kept { s with fsw := { s.fsw with coilMv := mv, coilOk := true } }
    exact ⟨_, hx, congrArg Fsw.coilOk rest, congrArg Fsw.coilMv rest, drop, (exec_goes hx).1⟩
  · intro hok
    exact ⟨_, congrArg Host.Outcome.next ((if_neg hn).trans (if_pos hok)), rfl, rfl⟩

theorem State.inReset_congr {s t : State} (hr : ∀ a, t.rd a = s.rd a) (hb : t.boot = s.boot) (b : Blk) : t.inReset b = s.inReset b := by
  simp only [State.inReset, State.rb, hr, hb]

theorem contFault_spec (o : Fin 6) (s : State) (_ : s.fsw.on.length = 6) (hfl : s.fsw.fault.length = 6) :
    ∃ t, exec (.contFault o) s = .next t ∧ t.fsw.on.getD o.val false = false ∧ t.fsw.fault.getD o.val false = true ∧
      (∀ k, k ≠ o.val → t.fsw.on.getD k false = s.fsw.on.getD k false) ∧ (s.inReset .fsw = false → t.rb (hdr .fsw oRaw) 2 = true) ∧ ChangesOnly (touches (.contFault o)) s t := by
  have hx : exec (.contFault o) s = .next ((({ s with fsw := { s.fsw with fault := setAt s.fsw.fault o.val true } } : State).setCont o.val false).fswIrq 2) := rfl
  refine ⟨_, hx, ?_, ?_, fun k hk => ?_, fun hr => State.fswIrq_raises _ 2 ?_, (exec_goes hx).1⟩
  · rw [State.fswIrq_fsw, State.setCont_fsw, getD_setAt_off, if_pos rfl]
  · rw [State.fswIrq_fsw, State.setCont_fsw]
    exact (getD_setAt _ _ _ _).trans (if_pos ⟨rfl, by omega⟩)
  · rw [State.fswIrq_fsw, State.setCont_fsw, getD_setAt_off, if_neg hk]
  · exact (State.inReset_congr (State.setCont_rd _ _ _) ((goes_setCont _ _ _ rfl (.refl [.out, .fsw] _)).1 .boot (by decide)) _).trans hr

theorem getD_replicate_false (n i : Nat) : (List.replicate n false).getD i false = false := by
  rw [List.getD_eq_getElem?_getD, List.getElem?_replicate]
  split <;> rfl

theorem contClrFault_spec (m : Master) (s : State) (h : PageOpen s .fsw m) :
    ∃ t, exec (.contClrFault m) s = .next t ∧ (∀ i, t.fsw.fault.getD i false = false) ∧ t.resp = .done ∧ ChangesOnly (touches (.contClrFault m)) s t := by
  have hx : exec (.contClrFault m) s = .next (s.contClr.answer .done) := congrArg Host.Outcome.next (State.writeAt_open h _ _ _)
  obtain ⟨_, _, _, _, rest⟩ := State.contFollow_kept { s with fsw := { s.fsw with fault := List.replicate 6 false } }
  refine ⟨_, hx, fun i => ?_, rfl, (exec_goes hx).1⟩
  have hf : s.contClr.fsw.fault = List.replicate 6 false := congrArg Fsw.fault rest
  exact (congrArg (List.getD · i false) hf).trans (getD_replicate_false 6 i)

/-! ### The photocell and the status inputs (R37, R476) -/

theorem photoChange_same (dv : Nat) (s : State) (h : s.photoReads dv = s.fsw.dark) :
    ∃ t, exec (.photoChange dv) s = .next t ∧ t = { s with fsw := { s.fsw with photo := dv } } ∧ t.fsw.dark = s.fsw.dark :=
  ⟨_, congrArg Host.Outcome.next (if_pos h), rfl, rfl⟩

theorem photoChange_waits (dv : Nat) (s : State) (h : s.photoReads dv ≠ s.fsw.dark) :
    ∃ t, exec (.photoChange dv) s = .next t ∧ t.fsw = { s.fsw with photo := dv, dark := s.photoReads dv, wait := true } ∧
      (s.inReset .fsw = false → t.rb (hdr .fsw oRaw) 1 = true) ∧ ChangesOnly (touches (.photoChange dv)) s t := by
  have hx : exec (.photoChange dv) s = .next (({ s with fsw := { s.fsw with photo := dv, dark := s.photoReads dv, wait := true } } : State).fswIrq 1) :=
    congrArg Host.Outcome.next (if_neg h)
  exact ⟨_, hx, State.fswIrq_fsw _ 1, fun hr => State.fswIrq_raises _ 1 hr, (exec_goes hx).1⟩

/-- What the sequencer writes of HOLD keeps FSW but the outputs and the sequence. -/
theorem State.seqWrite_fsw (s : State) (lit : Bool) : (s.seqWrite lit).fsw = { s.fsw with on := (s.seqWrite lit).fsw.on, seq := (s.seqWrite lit).fsw.seq } := by
  unfold State.seqWrite
  split
  · rfl
  · exact (State.contFollow_kept _).2.2.2.2

theorem State.drvDefaults_fsw (s : State) (lit : Bool) : (s.drvDefaults lit).fsw = s.fsw :=
  (goes_drvDefaults s lit rfl (.refl [.regs, .port] s)).1 .fsw (by decide)

theorem State.noSchedule_fsw (s : State) : s.noSchedule.fsw = s.fsw :=
  (goes_noSchedule s rfl (.refl [.lvl] s)).1 .fsw (by decide)

/-- A change of the photocell that has been steady: what the photocell reads is the steady reading, and no change waits. -/
def State.photoSettled (s : State) : State := { s with fsw := { s.fsw with wait := false, steadyDark := s.fsw.dark } }

/-- Once the change is steady the sequencer's write of HOLD, the drive defaults and the strap's level follow it. -/
def State.photoFollow (s : State) : State := if s.cryError then s else ((s.seqWrite (s.lit s.fsw.dark)).drvDefaults (s.lit s.fsw.dark)).noSchedule

theorem State.photoFollow_fsw (s : State) : s.photoFollow.fsw = { s.fsw with on := s.photoFollow.fsw.on, seq := s.photoFollow.fsw.seq } := by
  unfold State.photoFollow
  split
  · rfl
  · rw [State.noSchedule_fsw, State.drvDefaults_fsw, State.seqWrite_fsw]

theorem exec_photoSteady {s : State} (h : s.fsw.wait = true) : exec .photoSteady s = .next (match s.boot.stage with
    | .off => s.photoSettled
    | .reset | .checked => { s.photoSettled with fsw := { s.photoSettled.fsw with due := true } }
    | _ => s.photoSettled.photoFollow) :=
  congrArg Host.Outcome.next (if_neg (by rw [h]; decide))

theorem photoSteady_spec (s : State) : (s.fsw.wait = false → exec .photoSteady s = .next s) ∧
    (s.fsw.wait = true → ∃ t, exec .photoSteady s = .next t ∧ t.fsw.wait = false ∧ t.fsw.steadyDark = s.fsw.dark ∧
      ((s.boot.stage = .reset ∨ s.boot.stage = .checked) → t.fsw.due = true) ∧ ChangesOnly (touches .photoSteady) s t) := by
  refine ⟨fun h => congrArg Host.Outcome.next (if_pos (by rw [h]; rfl)), fun h => ?_⟩
  have hx := exec_photoSteady h
  refine ⟨_, hx, ?_, ?_, fun hb => ?_, (exec_goes hx).1⟩
  · split
    · rfl
    · rfl
    · rfl
    · exact congrArg Fsw.wait (State.photoFollow_fsw _)
  · split
    · rfl
    · rfl
    · rfl
    · exact congrArg Fsw.steadyDark (State.photoFollow_fsw _)
  · rcases hb with hb | hb <;> rw [hb]

theorem statChange_spec (i : Fin 8) (b : Bool) (s : State) (h : s.inReset .fsw = false) :
    (s.fsw.stat.getD i.val false = b → exec (.statChange i b) s = .next s) ∧
    (s.fsw.stat.getD i.val false ≠ b → ∃ t, exec (.statChange i b) s = .next t ∧ t = ({ s with fsw := { s.fsw with stat := setAt s.fsw.stat i.val b } } : State).irq .fsw 0 ∧
      t.rb (hdr .fsw oRaw) 0 = true) :=
  ⟨fun hb => congrArg Host.Outcome.next (if_pos (by rw [h, hb]; simp)),
    fun hb => ⟨_, congrArg Host.Outcome.next (if_neg (by rw [h, decide_eq_false hb]; decide)), rfl, State.irq_raises _ .fsw (by decide) (by decide)⟩⟩

/-- Settles O50, clause by clause. -/
theorem powerFailsAndContactorsFollow : Obligations.PowerFailsAndContactorsFollow :=
  ⟨pfail_quiet, pfail_asserts, fun mv s => ⟨pfailEnd_quiet mv s, pfailEnd_clears mv s⟩,
    fun m v s h => ⟨contHoldWrite_handsBack m v s h, contHoldWrite_busy m v s h, contHoldWrite_claims m v s h⟩,
    contSequenceStep_spec, contStep_switches, coilLost_spec, coilReturn_spec, fun _ _ => rfl, contFault_spec, contClrFault_spec,
    photoChange_same, photoChange_waits, photoSteady_spec, statChange_spec⟩

end Sys2Proof.Machine
end

section
/-! PROOFS. The points of the start sequence. -/

namespace Sys2Proof.Machine

open Sys2Proof

/-! ### Blocks that the sequencer starts and releases (R44) -/

theorem State.wb_rb_of (s : State) (a i b j : Nat) (v : Bool) (h : s.rb b j = v) : (s.wb a i v).rb b j = v := by
  by_cases hab : b = a
  · subst hab
    by_cases hij : i = j
    · subst hij
      by_cases hi : i < 32
      · exact s.wb_rb_same b v hi
      · rw [← h]
        simp [State.rb, tst, Nat.le_of_not_lt hi]
    · rw [s.wb_rb_ne b v hij, h]
  · exact (congrArg (tst · j) (s.wb_rd_ne i v hab)).trans h

theorem State.startBlk_rd_past (s : State) (b : Blk) {a : Nat} (h : PastHeader a) : (s.startBlk b).rd a = s.rd a := by
  unfold State.startBlk
  rw [State.wb_rd_ne _ 1 false (h.ne_hdr b (by decide)), State.wb_rd_ne _ 0 true (h.ne_hdr b (by decide))]

theorem State.startBlk_en_same (s : State) (b : Blk) : (s.startBlk b).en b = true := by
  unfold State.startBlk State.en
  rw [State.rb, State.wb_rd_ne _ 1 false (hdr_ne b (by decide))]
  exact s.wb_rb_same _ true (by decide)

/-- Starting a block stops no other. -/
theorem State.startBlk_en_of {s : State} {c : Blk} (b : Blk) (h : s.en c = true) : (s.startBlk b).en c = true := by
  have hne : hdr c oCtrl ≠ hdr b oStat := fun e => by
    have := congrArg (· % 0x1000) e
    simp only [hdr_mod _ (show oCtrl < 0x1000 by decide), hdr_mod _ (show oStat < 0x1000 by decide)] at this
    exact absurd this (by decide)
  unfold State.startBlk State.en
  rw [State.rb, State.wb_rd_ne _ 1 false hne]
  exact s.wb_rb_of _ 0 _ 0 true h

/-- Whether a block is in reset is told by the stage of the start and RST's two bitmaps. -/
theorem State.inReset_of_bitmaps {s t : State} (ha : t.rd R.rst_BLK_IN_RESET_A = s.rd R.rst_BLK_IN_RESET_A) (hb : t.rd R.rst_BLK_IN_RESET_B = s.rd R.rst_BLK_IN_RESET_B)
    (hs : t.boot = s.boot) (c : Blk) : t.inReset c = s.inReset c := by
  simp only [State.inReset, State.rb, ha, hb, hs]

theorem State.startBlk_inReset (s : State) (b c : Blk) : (s.startBlk b).inReset c = s.inReset c :=
  State.inReset_of_bitmaps (s.startBlk_rd_past b (by decide)) (s.startBlk_rd_past b (by decide)) rfl c

theorem State.setRstBit_rd_ne (s : State) {a x : Nat} (i : Nat) (v : Bool) (h : x ≠ a) (h' : x ≠ a + 4) : (s.setRstBit a i v).rd x = s.rd x := by
  unfold State.setRstBit
  split
  · exact s.wb_rd_ne _ _ h
  · exact s.wb_rd_ne _ _ h'

theorem State.setRstBit_rb_of (s : State) (a i x j : Nat) (v : Bool) (h : s.rb x j = v) : (s.setRstBit a i v).rb x j = v := by
  unfold State.setRstBit
  split
  · exact s.wb_rb_of a i x j v h
  · exact s.wb_rb_of (a + 4) (i - 32) x j v h

theorem State.setRstBit_boot (s : State) (a i : Nat) (v : Bool) : (s.setRstBit a i v).boot = s.boot :=
  (goes_setRstBit s a i v rfl (.refl [.regs] s)).1 .boot (by decide)

/-- Releasing a block puts none in reset. -/
theorem State.setRstBit_inReset_of {s : State} {c : Blk} (i : Nat) (h : s.inReset c = false) : (s.setRstBit R.rst_BLK_IN_RESET_A i false).inReset c = false := by
  unfold State.inReset at h ⊢
  rw [State.setRstBit_boot]
  cases hc : blkBit c with
  | none => simpa only [hc] using h
  | some j =>
    simp only [hc] at h ⊢
    by_cases hj : j < 32
    · rw [if_pos hj] at h ⊢
      exact s.setRstBit_rb_of _ i _ j false h
    · rw [if_neg hj] at h ⊢
      exact s.setRstBit_rb_of _ i _ _ false h

theorem State.setRstBit_inReset_same (s : State) {b : Blk} {i : Nat} (h : blkBit b = some i) : (s.setRstBit R.rst_BLK_IN_RESET_A i false).inReset b = false := by
  have hi : i < 34 := by
    cases b <;> simp only [blkBit, Option.some.injEq, reduceCtorEq] at h <;> omega
  simp only [State.inReset, h]
  unfold State.setRstBit
  split
  · exact s.wb_rb_same _ false (by omega)
  · exact s.wb_rb_same _ false (by omega)

theorem State.seqRelease_some (s : State) {b : Blk} {i : Nat} (h : blkBit b = some i) : s.seqRelease b = (s.setRstBit R.rst_BLK_IN_RESET_A i false).startBlk b := by
  simp only [State.seqRelease, h]

theorem State.seqRelease_none (s : State) {b : Blk} (h : blkBit b = none) : s.seqRelease b = s.startBlk b := by
  simp only [State.seqRelease, h]

theorem State.seqRelease_en_same (s : State) (b : Blk) : (s.seqRelease b).en b = true := State.startBlk_en_same _ b

theorem State.seqRelease_en_of {s : State} {c : Blk} (b : Blk) (h : s.en c = true) : (s.seqRelease b).en c = true := by
  cases hb : blkBit b with
  | none => rw [s.seqRelease_none hb]; exact State.startBlk_en_of b h
  | some i =>
    rw [s.seqRelease_some hb]
    refine State.startBlk_en_of b ((congrArg (tst · 0) (s.setRstBit_rd_ne i false ?_ ?_)).trans h)
    all_goals exact (PastHeader.ne_hdr (by decide) c (by decide)).symm

theorem State.seqRelease_inReset_same (s : State) {b : Blk} (h : (blkBit b).isSome = true) : (s.seqRelease b).inReset b = false := by
  obtain ⟨i, hi⟩ := Option.isSome_iff_exists.mp h
  rw [s.seqRelease_some hi, State.startBlk_inReset]
  exact s.setRstBit_inReset_same hi

theorem State.seqRelease_inReset_of {s : State} {c : Blk} (b : Blk) (h : s.inReset c = false) : (s.seqRelease b).inReset c = false := by
  cases hb : blkBit b with
  | none => rw [s.seqRelease_none hb, State.startBlk_inReset, h]
  | some i =>
    rw [s.seqRelease_some hb, State.startBlk_inReset]
    exact State.setRstBit_inReset_of i h

theorem State.seqRelease_rd_past (s : State) (b : Blk) {a : Nat} (h : PastHeader a) (hA : a ≠ R.rst_BLK_IN_RESET_A) (hB : a ≠ R.rst_BLK_IN_RESET_B) :
    (s.seqRelease b).rd a = s.rd a := by
  cases hb : blkBit b with
  | none => rw [s.seqRelease_none hb, State.startBlk_rd_past _ _ h]
  | some i => rw [s.seqRelease_some hb, State.startBlk_rd_past _ _ h, s.setRstBit_rd_ne i false hA hB]

/-- What each step of a fold keeps the fold keeps, and what a step establishes for its own element holds at the end. -/
theorem foldl_establishes {α β : Type} {f : β → α → β} {P : α → β → Prop} (own : ∀ t x, P x (f t x)) (keep : ∀ t x y, P y t → P y (f t x)) (l : List α) (s : β) :
    ∀ x ∈ l, P x (l.foldl f s) := by
  have kept (l : List α) (s : β) (y : α) (h : P y s) : P y (l.foldl f s) := by
    induction l generalizing s with
    | nil => exact h
    | cons x l ih => exact ih _ (keep s x y h)
  induction l generalizing s with
  | nil => simp
  | cons x l ih =>
    intro y hy
    rcases List.mem_cons.mp hy with rfl | hy
    · exact kept l _ y (own s y)
    · exact ih _ y hy

theorem foldl_keeps {α β : Type} {f : β → α → β} {P : β → Prop} (keep : ∀ t x, P t → P (f t x)) (l : List α) {s : β} (h : P s) : P (l.foldl f s) := by
  induction l generalizing s with
  | nil => exact h
  | cons x l ih => exact ih (keep s x h)

/-! ### The integrity check (R29, R33, R347) -/

theorem foldl_wr_rd (f : State → Nat → Word) {l : List Nat} {a : Nat} (h : a ∉ l) (s : State) : (l.foldl (fun (t : State) x => t.wr x (f t x)) s).rd a = s.rd a := by
  induction l generalizing s with
  | nil => rfl
  | cons x l ih =>
    rw [List.mem_cons, not_or] at h
    exact (ih h.2 _).trans (s.rd_wr_ne _ h.1)

theorem State.setPwron_rd (s : State) (on : Bool) (k a : Nat) : (s.setPwron on k).rd a = s.rd a :=
  (goes_setPwron s on k rfl (.refl [.out, .pwt] s)).rd (by decide) (by decide) a

/-- A loss of the Pewter domain writes the domain's registers alone. -/
theorem State.pewterLose_rd (s : State) (lit : Bool) {a : Nat} (h : a ∉ pewterRegs) : (s.pewterLose lit).rd a = s.rd a := by
  have hf : a ≠ R.pwt_FAILLIT := fun e => h (by rw [e]; decide)
  unfold State.pewterLose
  extract_lets t u v pwt vlt w
  have ht : t.rd a = s.rd a := foldl_wr_rd (fun t a => regDefault t.modId.variantB a) h s
  clear_value t
  have hu : u.rd a = t.rd a := t.rd_wr_ne _ hf
  clear_value u
  have hw : w.rd a = u.rd a := State.rd_congr rfl rfl a
  exact (State.setPwron_rd w false 0 a).trans (hw.trans (hu.trans ht))

theorem State.setTm_rd_ne (s : State) (st : Nat) {a : Nat} (h : a ≠ R.ntm_NTM_STAT) : (s.setTm st).rd a = s.rd a := s.rd_wr_ne _ h

theorem State.pewterCheck_rd (s : State) (band : Nat) {a : Nat} (h : a ∉ R.rst_RST_CAUSE :: R.ntm_NTM_STAT :: pewterRegs) : (s.pewterCheck band).rd a = s.rd a := by
  simp only [List.mem_cons, not_or] at h
  obtain ⟨hc, hn, hp⟩ := h
  have hy : a ≠ R.pwt_PWRCYC := fun e => hp (by rw [e]; decide)
  unfold State.pewterCheck
  split
  · extract_lets cold p t
    split
    · exact t.rd_wr_ne _ hy
    · rfl
  · extract_lets t u ntm boot pwt
    have ht : t.rd a = s.rd a := s.pewterLose_rd _ hp
    clear_value t
    have hu : u.rd a = t.rd a := (State.rd_wr_ne _ _ hc).trans (t.rd_wr_ne _ hy)
    clear_value u
    rw [State.setTm_rd_ne _ 0 hn, ← ht, ← hu]
    exact State.rd_congr rfl rfl a

theorem State.pewterCheck_lost (s : State) (band : Nat) : (s.pewterCheck band).pwt.lost = !s.pewterIntact := by
  unfold State.pewterCheck
  cases s.pewterIntact
  · rfl
  · rw [if_pos rfl]
    extract_lets cold p t
    split <;> rfl

theorem State.photoAt_rd_past (s : State) (v : Nat) {a : Nat} (h : PastHeader a) : (s.photoAt v).rd a = s.rd a := by
  unfold State.photoAt State.fswIrq
  extract_lets d f t
  split
  · rfl
  · split
    · rfl
    · exact State.irq_rd_past _ .fsw 1 h

theorem State.irqBits_rd_past (s : State) (b : Blk) (v : Word) {a : Nat} (h : PastHeader a) : (s.irqBits b v).rd a = s.rd a :=
  s.irqBits_rd_ne b v (h.ne_hdr b (by decide))

theorem State.irqBits_en (s : State) (b c : Blk) (v : Word) : (s.irqBits b v).en c = s.en c := by
  refine congrArg (tst · 0) (s.irqBits_rd_ne b v fun e => ?_)
  have := congrArg (· % 0x1000) e
  simp only [hdr_mod _ (show oCtrl < 0x1000 by decide), hdr_mod _ (show oRaw < 0x1000 by decide)] at this
  exact absurd this (by decide)

theorem State.irqBits_inReset (s : State) (b c : Blk) (v : Word) : (s.irqBits b v).inReset c = s.inReset c :=
  State.inReset_of_bitmaps (s.irqBits_rd_past b v (by decide)) (s.irqBits_rd_past b v (by decide)) ((goes_irqBits s b v rfl (.refl [.regs, .out, .pba] s)).1 .boot (by decide)) c

/-- The blocks that the sequencer enables at the integrity check, and those that it also takes out of reset there (R44). -/
def checkStarts : List Blk := [.sys, .rst, .clk, .pwr, .pwt]

def checkReleases : List Blk := [.fsw, .drv 0, .drv 1, .drv 2, .drv 3, .drg]

/-- Starting and releasing blocks changes registers alone. -/
theorem goes_starts (l l' : List Blk) (s : State) :
    Goes [.regs] s (l'.foldl (fun (t : State) b => t.seqRelease b) (l.foldl (fun (t : State) b => t.startBlk b) s)) :=
  Goes.foldl (fun t b h => goes_seqRelease t b rfl h) (Goes.foldl (fun t b h => goes_startBlk t b rfl h) (.refl [.regs] s))

theorem starts_en (l l' : List Blk) (s : State) :
    ∀ b ∈ l ++ l', (l'.foldl (fun (t : State) b => t.seqRelease b) (l.foldl (fun (t : State) b => t.startBlk b) s)).en b = true := by
  intro b hb
  rcases List.mem_append.mp hb with hb | hb
  · have h := foldl_establishes (P := fun b (t : State) => t.en b = true) State.startBlk_en_same (fun _ c _ h => State.startBlk_en_of c h) l s b hb
    exact foldl_keeps (P := fun t : State => t.en b = true) (fun _ c h => State.seqRelease_en_of c h) l' h
  · exact foldl_establishes (P := fun b (t : State) => t.en b = true) State.seqRelease_en_same (fun _ c _ h => State.seqRelease_en_of c h) l' _ b hb

theorem releases_inReset {l : List Blk} (hl : ∀ b ∈ l, (blkBit b).isSome = true) (s : State) :
    ∀ b ∈ l, (l.foldl (fun (t : State) b => t.seqRelease b) s).inReset b = false := fun b hb =>
  foldl_establishes (P := fun b (t : State) => (blkBit b).isSome = true → t.inReset b = false) (fun _ _ h => State.seqRelease_inReset_same _ h)
    (fun _ c _ h hb => State.seqRelease_inReset_of c (h hb)) l s b hb (hl b hb)

theorem starts_rd_past (l l' : List Blk) (s : State) {a : Nat} (h : PastHeader a) (hA : a ≠ R.rst_BLK_IN_RESET_A) (hB : a ≠ R.rst_BLK_IN_RESET_B) :
    (l'.foldl (fun (t : State) b => t.seqRelease b) (l.foldl (fun (t : State) b => t.startBlk b) s)).rd a = s.rd a :=
  foldl_keeps (P := fun t : State => t.rd a = s.rd a) (fun t b e => (t.seqRelease_rd_past b h hA hB).trans e) l'
    (foldl_keeps (P := fun t : State => t.rd a = s.rd a) (fun t b e => (t.startBlk_rd_past b h).trans e) l rfl)

/-- The interrupts that Pewter kept for the start are raised (R347). -/
def State.pendShown (s : State) : State := { s with pwt := { s.pwt with pendIrq := 0 } }.irqBits .pwt s.pwt.pendIrq

theorem State.pendShown_goes (s : State) : Goes [.regs, .out, .pwt, .pba] s s.pendShown :=
  goes_irqBits _ .pwt _ rfl (goes_set_pwt s _ rfl (.refl _ s))

theorem State.irqBits_pwt (s : State) (b : Blk) (v : Word) : (s.irqBits b v).pwt = s.pwt :=
  (goes_irqBits s b v rfl (.refl [.regs, .out, .pba] s)).1 .pwt (by decide)

theorem State.pendShown_lost (s : State) : s.pendShown.pwt.lost = s.pwt.lost := by
  rw [State.pendShown, State.irqBits_pwt]

theorem State.pendShown_rd_past (s : State) {a : Nat} (h : PastHeader a) : s.pendShown.rd a = s.rd a := State.irqBits_rd_past _ .pwt _ h

theorem State.pendShown_en (s : State) (b : Blk) : s.pendShown.en b = s.en b := State.irqBits_en _ .pwt b _

theorem State.pendShown_inReset (s : State) (b : Blk) : s.pendShown.inReset b = s.inReset b := State.irqBits_inReset _ .pwt b _

/-- What the integrity check leaves: the stage, the latched strap word, the judgement of the Pewter domain, and the blocks it starts. -/
theorem State.checkPoint_spec (s : State) (cs : List Nat) : (s.checkPoint cs).boot.stage = .checked ∧ (s.checkPoint cs).rd R.rst_STRAP = strapWord cs s.boot.lastBand ∧
    (s.checkPoint cs).pwt.lost = (!s.pewterIntact) ∧ (∀ b ∈ checkStarts ++ checkReleases, (s.checkPoint cs).en b = true) ∧
    (∀ b ∈ checkReleases, (s.checkPoint cs).inReset b = false) := by
  unfold State.checkPoint
  extract_lets w raw band notes judged lit z counted boot pwt staged role started released p
  have strap : lit.rd R.rst_STRAP = w ∧ lit.pwt.lost = !s.pewterIntact := by
    have hj : judged.rd R.rst_STRAP = w := (State.pewterCheck_rd _ band (by decide)).trans (s.rd_wr_same _ w)
    have hl : judged.pwt.lost = !s.pewterIntact := State.pewterCheck_lost _ band
    clear_value judged
    by_cases h : judged.pwt.lost = true
    · rw [show lit = judged.photoAt judged.fsw.photo from if_pos h]
      exact ⟨(judged.photoAt_rd_past _ (by decide)).trans hj, (congrArg Pwt.lost ((goes_photoAt judged _ rfl (.refl [.regs, .out, .fsw, .pba] judged)).1 .pwt (by decide))).trans hl⟩
    · rw [show lit = judged from if_neg h]
      exact ⟨hj, hl⟩
  obtain ⟨hw, hl⟩ := strap
  clear_value lit
  have hrole : role.rd R.rst_STRAP = w := (staged.rd_wr_ne _ (by decide)).trans ((lit.wb_rd_ne 10 z (by decide)).trans hw)
  have hstage : role.boot.stage = .checked := rfl
  have hlost : role.pwt.lost = !s.pewterIntact := hl
  clear_value role
  have hr : Goes [.regs] role released := goes_starts checkStarts checkReleases role
  refine ⟨?_, ?_, ?_, fun b hb => ?_, fun b hb => ?_⟩
  · change released.pendShown.boot.stage = .checked
    rw [released.pendShown_goes.1 .boot (by decide), hr.1 .boot (by decide), hstage]
  · change released.pendShown.rd R.rst_STRAP = w
    rw [released.pendShown_rd_past (by decide), ← hrole]
    exact starts_rd_past checkStarts checkReleases role (by decide) (by decide) (by decide)
  · change released.pendShown.pwt.lost = !s.pewterIntact
    rw [released.pendShown_lost, hr.1 .pwt (by decide), hlost]
  · change released.pendShown.en b = true
    rw [released.pendShown_en]
    exact starts_en checkStarts checkReleases role b hb
  · change released.pendShown.inReset b = false
    rw [released.pendShown_inReset]
    exact releases_inReset (by decide) started b hb

theorem exec_pewterIntegrityCheck {cs : List Nat} {s : State} (h : s.boot.stage = .reset) (hl : cs.length = 16) :
    exec (.pewterIntegrityCheck cs) s = .next (s.checkPoint cs) :=
  (if_neg (not_not.mpr h)).trans (if_neg (not_not.mpr hl))

theorem pewterIntegrityCheck_spec (cs : List Nat) (s : State) (h : s.boot.stage = .reset) (hl : cs.length = 16) :
    ∃ t, exec (.pewterIntegrityCheck cs) s = .next t ∧ t.boot.stage = .checked ∧
      t.rd R.rst_STRAP = strapWord cs s.boot.lastBand ∧ t.pwt.lost = !s.pewterIntact ∧
      (∀ b ∈ [Blk.sys, .rst, .clk, .pwr, .pwt, .fsw, .drv 0, .drv 1, .drv 2, .drv 3, .drg], t.en b = true) ∧
      (∀ b ∈ [Blk.fsw, .drv 0, .drv 1, .drv 2, .drv 3, .drg], t.inReset b = false) ∧ ChangesOnly (touches (.pewterIntegrityCheck cs)) s t := by
  have hx := exec_pewterIntegrityCheck h hl
  obtain ⟨stage, strap, lost, en, out⟩ := s.checkPoint_spec cs
  exact ⟨_, hx, stage, strap, lost, en, out, (exec_goes hx).1⟩

/-! ### The 40 ms point (R37, R44) -/

/-- The 40 ms point ends with the release of the blocks of that point. -/
theorem State.defaultsPoint_releases (s : State) :
    ∃ u : State, u.boot.stage = .defaults ∧ s.defaultsPoint = [Blk.mem, .nvs, .emc, .vlt, .cry].foldl (fun (t : State) b => t.seqRelease b) u := by
  unfold State.defaultsPoint
  extract_lets boot t lit u fsw v
  refine ⟨v, ?_, rfl⟩
  have ht : t.boot.stage = .defaults := rfl
  have hu : Goes [.regs, .out, .fsw, .pba] t u := .ite (goes_seqWrite _ _ rfl (goes_wb _ _ _ _ rfl (.refl _ t))) (goes_contFollow t rfl (.refl _ t))
  have hv : v.boot = u.boot := (goes_drvDefaults _ lit rfl (.refl [.regs, .port] _)).1 .boot (by decide)
  rw [hv]
  exact (congrArg Boot.stage (hu.1 .boot (by decide))).trans ht

theorem sequencerDefaults_spec (s : State) (h : s.boot.stage = .checked) : ∃ t, exec .sequencerDefaults s = .next t ∧ t.boot.stage = .defaults ∧
    (∀ b ∈ [Blk.mem, .nvs, .emc, .vlt, .cry], t.en b = true ∧ t.inReset b = false) ∧ ChangesOnly (touches .sequencerDefaults) s t := by
  have hx : exec .sequencerDefaults s = .next s.defaultsPoint := congrArg Host.Outcome.next (if_pos h)
  obtain ⟨u, hs, hu⟩ := s.defaultsPoint_releases
  refine ⟨_, hx, ?_, fun b hb => ⟨?_, ?_⟩, (exec_goes hx).1⟩ <;> rw [hu]
  · exact (congrArg Boot.stage ((goes_starts [] [.mem, .nvs, .emc, .vlt, .cry] u).1 .boot (by decide))).trans hs
  · exact starts_en [] [.mem, .nvs, .emc, .vlt, .cry] u b hb
  · exact releases_inReset (by decide) u b hb

/-! ### The boot check (R446, R461) -/

/-- A part of the settings reset: the version bookkeeping of UPD is the only change of UPD, and the check's result stays. -/
theorem State.resetGroup_result (s : State) (g new : Nat) : (s.resetGroup g new).upd.result = s.upd.result := by
  unfold State.resetGroup
  extract_lets old b emc upd t
  have h : Goes [.regs, .out, .ldg, .nvs, .boot, .net, .lvl, .ibg, .fov, .pba] t (((t.nvsWrite .svc (groupAddr g) (zeros groupLen)).forgetGroup g).startRecord 0xEC01 1 (blkSrc .upd) g old new) :=
    goes_startRecord _ _ _ _ _ _ _ rfl (goes_forgetGroup _ _ rfl (goes_nvsWrite _ _ _ _ rfl (.refl _ t)))
  exact (congrArg Upd.result (h.1 .upd (by decide) : _ = t.upd)).trans rfl

theorem State.settingsReset_result (s : State) : s.settingsReset.upd.result = s.upd.result := by
  unfold State.settingsReset
  split
  · rfl
  · refine foldl_keeps (P := fun t : State => t.upd.result = s.upd.result) (fun t g h => ?_) _ rfl
    extract_lets new
    split
    · exact h
    · exact (t.resetGroup_result g new).trans h

theorem State.firmwareStart_spec (s : State) : s.firmwareStart.boot.stage = .booted ∧ s.firmwareStart.upd.result = s.upd.result := by
  refine ⟨rfl, ?_⟩
  unfold State.firmwareStart
  extract_lets t u fov v w first old upd boot
  have ht : Goes [.regs, .out, .free, .ldg, .mem, .boot, .net, .lvl, .fov, .pba] s.settingsReset t :=
    goes_lvlStart _ _ rfl (goes_rewriteCritical _ rfl (goes_mapSetup _ rfl (goes_bootCycle _ rfl (goes_bootRole _ rfl (.refl _ _)))))
  have hw : Goes [.regs, .fov] t w :=
    Goes.foldl (fun t i h => goes_setRstBit t _ i true rfl h) (.ite (goes_set_fov _ _ rfl (goes_srcByRole t rfl (.refl _ t))) (goes_srcByRole t rfl (.refl _ t)))
  show w.upd.result = s.upd.result
  rw [hw.1 .upd (by decide), ht.1 .upd (by decide), s.settingsReset_result]

theorem State.imageAccepted_result (s : State) : s.imageAccepted.upd.result = s.upd.result := by
  unfold State.imageAccepted
  split <;> rfl

theorem State.vaultReady_vlt (s : State) (fails : List Nat) : (s.vaultReady fails).vlt.ready = true ∧ (s.vaultReady fails).vlt.approved = (s.vlt.fuse && fails.isEmpty) := by
  unfold State.vaultReady
  extract_lets ok t vlt u
  split <;> exact ⟨rfl, rfl⟩

theorem State.bootCopy_result (s : State) : s.bootCopy.1.upd.result = s.upd.result := by
  unfold State.bootCopy
  split
  · extract_lets img t upd
    split <;> rfl
  · rfl

/-- The boot ROM's part ends dead, or booted with a result of 0 where the strap is not that of recovery. -/
theorem State.bootCheck_cases (s : State) (fs : List Nat) (e : Bool) : (s.bootCheck fs e).boot.stage = .dead ∨
    (s.rf R.rst_STRAP 0 4 ≠ 0 ∧ (s.bootCheck fs e).boot.stage = .booted ∧ (s.bootCheck fs e).upd.result = 0 ∧ (s.bootCheck fs e).vlt.ready = true ∧
      (s.bootCheck fs e).vlt.approved = (s.vlt.fuse && fs.isEmpty)) := by
  unfold State.bootCheck
  extract_lets upd t boot c r
  by_cases hs : t.rf R.rst_STRAP 0 4 = 0
  · rw [if_pos hs]
    exact .inl rfl
  · rw [if_neg hs]
    have hs' : s.rf R.rst_STRAP 0 4 ≠ 0 := hs
    by_cases hr : r ≠ 0
    · rw [if_pos hr]
      exact .inl rfl
    · rw [if_neg hr]
      refine .inr ⟨hs', ?_⟩
      have hc : c.1.upd.result = 0 := t.bootCopy_result
      have hv : c.1.imageAccepted.vlt = s.vlt := (goes_imageAccepted c.1 rfl (goes_bootCopy t rfl (.refl [.emc, .upd] t))).1 .vlt (by decide)
      obtain ⟨ready, approved⟩ := c.1.imageAccepted.vaultReady_vlt fs
      obtain ⟨stage, result⟩ := (c.1.imageAccepted.vaultReady fs).firmwareStart_spec
      have hf := (goes_firmwareStart (c.1.imageAccepted.vaultReady fs) rfl (.refl [.regs, .out, .free, .ldg, .mem, .nvs, .emc, .boot, .net, .lvl, .ibg, .fov, .upd, .pba] _)).1
      have hr := (goes_vaultReady c.1.imageAccepted fs rfl (.refl [.regs, .out, .boot, .vlt, .pba] _)).1
      refine ⟨stage, ?_, ?_, ?_⟩
      · rw [result, hr .upd (by decide), State.imageAccepted_result, hc]
      · rw [hf .vlt (by decide), ready]
      · rw [hf .vlt (by decide), approved, hv]

theorem bootCheck_spec (fs : List Nat) (e : Bool) (s : State) (h : s.boot.stage = .defaults) : ∃ t, exec (.bootCheck fs e) s = .next t ∧
    (t.boot.stage = .booted ∨ t.boot.stage = .dead) ∧ (s.rf R.rst_STRAP 0 4 = 0 → t.boot.stage = .dead) ∧
    (t.upd.result ≠ 0 → t.boot.stage = .dead) ∧
    (t.boot.stage = .booted → s.rf R.rst_STRAP 0 4 ≠ 0 ∧ t.upd.result = 0 ∧ t.vlt.ready = true ∧ t.vlt.approved = (s.vlt.fuse && fs.isEmpty)) ∧
    ChangesOnly (touches (.bootCheck fs e)) s t := by
  have hx : exec (.bootCheck fs e) s = .next (s.bootCheck fs e) := congrArg Host.Outcome.next (if_pos h)
  refine ⟨_, hx, ?_⟩
  have hc := (exec_goes hx).1
  rcases s.bootCheck_cases fs e with hd | ⟨hs, hb, hr, hv⟩
  · exact ⟨.inr hd, fun _ => hd, fun _ => hd, fun hb => absurd (hd.symm.trans hb) (by decide), hc⟩
  · exact ⟨.inl hb, fun h0 => absurd h0 hs, fun hn => absurd hr hn, fun _ => ⟨hs, hr, hv⟩, hc⟩

/-! ### The bench (R447) -/

theorem exec_benchRecovery (b : Bytes) (s : State) (h : s.boot.stage = .dead) (hs : s.rf R.rst_STRAP 0 4 = 0) : exec (.benchRecovery b) s =
    .next (if b.length = imgLenOf (bytesImg b) ∧ imgResult (bytesImg b) s.floorVer false = 0 then s.bootWrite 0 b else s) :=
  congrArg Host.Outcome.next (if_neg fun hn => hn.elim (fun h' => h' h) (fun h' => h' hs))

theorem benchRecovery_spec (b : Bytes) (s : State) (h : s.boot.stage = .dead) (hs : s.rf R.rst_STRAP 0 4 = 0) : ∃ t, exec (.benchRecovery b) s = .next t ∧ ChangesOnly [.emc, .upd] s t ∧
    t.emc.user = s.emc.user ∧ (b.length = imgLenOf (bytesImg b) ∧ imgResult (bytesImg b) s.floorVer false = 0 → t.emc.boot = bootPut s.emc.boot 0 b) := by
  have hx := exec_benchRecovery b s h hs
  refine ⟨_, hx, ?_⟩
  split
  · exact ⟨(goes_bootWrite s 0 b rfl (.refl [.emc, .upd] s)).1, rfl, fun _ => rfl⟩
  · next hn => exact ⟨(Goes.refl [.emc, .upd] s).1, rfl, fun hi => absurd hi hn⟩

/-- Settles O9, point by point. -/
theorem startSequencePoints : Obligations.StartSequencePoints :=
  ⟨pewterIntegrityCheck_spec, fun _ _ h hl => (if_neg (not_not.mpr h)).trans (if_pos hl), fun _ _ h => if_pos h,
    sequencerDefaults_spec, fun _ h => congrArg Host.Outcome.next (if_neg h), bootCheck_spec, fun _ _ _ h => congrArg Host.Outcome.next (if_neg h),
    exec_benchRecovery, benchRecovery_spec⟩

end Sys2Proof.Machine
end

section
/-! SUPPORT. The pages that packet SRAM, DRAM, network time and a frame of the firmware write. -/

namespace Sys2Proof.Machine

open Sys2Proof

/-- What an operation writes, after what went before it. -/
theorem PagesOnly.after {ps : List Nat} {s t u : State} (h' : PagesOnly ps t u) (h : PagesOnly ps s t) : PagesOnly ps s u := h.trans h'

/-! ### Packet SRAM and DRAM write the page of MEM, and DRAM may leave a Ledger record -/

theorem State.sramError_pages (s : State) (a : Nat) (e : CwErr) : PagesOnly [0x11] s (s.sramError a e) := by
  unfold State.sramError
  extract_lets ue
  have hue (t : State) : PagesOnly [0x11] t (ue t) :=
    (State.irq_pages _ 3 (by decide)).after ((State.bumpSat_pages _ 1 (by decide)).after (.set rfl rfl))
  clear_value ue
  refine .ite (.refl _ s) ?_
  cases e with
  | one sym => exact s.bumpSat_pages 1 (by decide)
  | two => exact hue s
  | many =>
    exact .ite ((hue _).after (.set rfl rfl)) (.ite ((State.bumpSat_pages _ 1 (by decide)).after (.set rfl rfl)) (.set rfl rfl))

theorem State.sramMeet_pages (s : State) (cw : Nat) : PagesOnly [0x11] s (s.sramMeet cw) := by
  unfold State.sramMeet
  split
  · exact .refl _ s
  · exact (State.sramError_pages _ _ _).after (.set rfl rfl)

theorem State.sramSeen_pages (s : State) (a n : Nat) : PagesOnly [0x11] s (s.sramSeen a n) := .foldl State.sramMeet_pages _ s

/-- The registers that describe the first error of a kind are of MEM's page. -/
theorem State.errInfo_pages (s : State) {a b c : Nat} (v w x : Word) (ha : a / 0x1000 = 0x11) (hb : b / 0x1000 = 0x11) (hc : c / 0x1000 = 0x11) :
    PagesOnly [0x11] s (((s.wr a v).wr b w).wr c x) :=
  ((s.wr_pages v (by rw [ha]; decide)).trans (State.wr_pages _ w (by rw [hb]; decide))).trans (State.wr_pages _ x (by rw [hc]; decide))

theorem State.ceCount_pages (s : State) (a sym src : Nat) : PagesOnly [0x11] s (s.ceCount a sym src) := by
  unfold State.ceCount
  extract_lets first chan t e u v
  have ht : PagesOnly [0x11] s t := .set rfl rfl
  have hu : PagesOnly [0x11] t u := .ite (t.errInfo_pages _ _ _ (by decide) (by decide) (by decide)) (.refl _ t)
  have hv : PagesOnly [0x11] s v := ht.trans (hu.trans (u.bumpSat_pages 1 (by decide)))
  exact .ite (hv.trans (v.irq_pages 0 (by decide))) hv

theorem State.ueDetect_pages (s : State) (a src : Nat) : PagesOnly [0x11, 0x2A] s (s.ueDetect a src) := by
  unfold State.ueDetect
  extract_lets reg first k t e u v w
  have ht : PagesOnly [0x11] s t := .set rfl rfl
  have hu : PagesOnly [0x11] t u := .ite (t.errInfo_pages _ _ _ (by decide) (by decide) (by decide)) (.refl _ t)
  have hv : PagesOnly [0x11] s v := ht.trans (hu.trans ((u.bumpSat_pages 1 (by decide)).trans (State.irq_pages _ 1 (by decide))))
  have hw : PagesOnly [0x11, 0x2A] s w := (hv.mono (by decide)).trans ((v.logGroup_pages _ _ _ _ _).mono (by decide))
  clear_value w reg
  split
  · exact .ite (hw.trans (.set rfl rfl)) hw
  · exact hw

theorem State.cwError_pages (s : State) (src a : Nat) (e : CwErr) : PagesOnly [0x11, 0x2A] s (s.cwError src a e) := by
  unfold State.cwError
  refine .ite (.refl _ s) ?_
  cases e with
  | one sym => exact (s.ceCount_pages _ _ _).mono (by decide)
  | two => exact s.ueDetect_pages _ _
  | many =>
    exact .ite ((State.ueDetect_pages _ _ _).after (.set rfl rfl)) (.ite (((State.ceCount_pages _ _ _ _).mono (by decide)).after (.set rfl rfl)) (.set rfl rfl))

theorem State.dramMeet_pages (s : State) (src cw : Nat) : PagesOnly [0x11, 0x2A] s (s.dramMeet src cw) := by
  unfold State.dramMeet
  split
  · exact .refl _ s
  · exact (State.cwError_pages _ _ _ _).after (.set rfl rfl)

theorem State.poisonHit_pages (s : State) : PagesOnly [0x11, 0x2A] s s.poisonHit := s.bumpSat_pages 1 (by decide)

theorem State.cwFresh_pages (s : State) (a : Nat) : PagesOnly [0x11, 0x2A] s (s.cwFresh a) :=
  .ite ((State.poisonHit_pages _).after (.set rfl rfl)) (.set rfl rfl)

theorem State.cwPart_pages (s : State) (src a : Nat) : PagesOnly [0x11, 0x2A] s (s.cwPart src a) := .ite s.poisonHit_pages (s.dramMeet_pages _ _)

theorem dramPut_pages (src n : Nat) (s : State) (a : Nat) (b : Bytes) (dr : List Nat) : PagesOnly [0x11, 0x2A] s (dramPut src n s a b dr).1 := by
  induction n generalizing s a b dr with
  | zero => exact .refl _ s
  | succ n ih =>
    unfold dramPut
    split
    · exact .refl _ s
    · extract_lets d part full t
      have ht : PagesOnly [0x11, 0x2A] s t := .ite (s.cwFresh_pages a) (s.cwPart_pages src a)
      split
      · exact ht.trans (ih _ _ _ _)
      · exact (ih _ _ _ _).after (PagesOnly.after (.set rfl rfl) ht)

theorem State.dramWrite_pages (s : State) (a : Nat) (b : Bytes) : PagesOnly [0x11, 0x2A] s (s.dramWrite a b) :=
  .ite (s.err_pages _ _ _ (by decide)) (dramPut_pages _ _ s a b [])

/-- Restoring a record of the link table writes DRAM alone (R191). -/
theorem State.recRestore_pages (s : State) (ident : DWord) (index g : Nat) (nk : Option Bytes) : PagesOnly [0x11, 0x2A] s (s.recRestore ident index g nk) := by
  refine .foldl (fun t i => ?_) _ s
  split
  · exact t.dramWrite_pages _ _
  · exact .refl _ t

/-! ### Network time writes the page of NTM, and its events those of LDG and MBX -/

/-- The pages that a change of network time writes: NTM, and LDG and MBX of its events. -/
abbrev timePages : List Nat := [0x1C, 0x2A, 0x2E]

theorem State.wr64_pages {ps : List Nat} (s : State) {lo hi : Nat} (n : Nat) (hl : lo / 0x1000 ∈ ps) (hh : hi / 0x1000 ∈ ps) : PagesOnly ps s (s.wr64 lo hi n) :=
  (s.wr_pages _ hl).trans (State.wr_pages _ _ hh)

theorem State.setAnchor_pages (s : State) (off : Nat) (c : DWord) : PagesOnly timePages s (s.setAnchor off c) :=
  ((s.wr_pages _ (by decide)).trans (State.wr64_pages _ _ (by decide) (by decide))).trans (State.wr64_pages _ _ (by decide) (by decide))

theorem State.setRate_pages (s : State) (c : DWord) (v : Int) : PagesOnly timePages s (s.setRate c v) :=
  (s.setAnchor_pages _ c).trans (State.wr_pages _ _ (by decide))

theorem State.setTm_pages (s : State) (st : Nat) : PagesOnly timePages s (s.setTm st) := s.wf_pages _ _ _ (by decide)

theorem State.event_timePages (s : State) (code src : Nat) (p : Bytes) : PagesOnly timePages s (s.event code src p) := (s.event_pages code src p).mono (by decide)

theorem State.stepped_pages (s : State) (e : Int) : PagesOnly timePages s (s.stepped e) :=
  ((s.bump_pages 1 (by decide)).trans (State.irq_pages _ 2 (by decide))).trans (State.event_timePages _ _ _ _)

theorem State.toTm_pages (s : State) (st : Nat) : PagesOnly timePages s (s.toTm st) := by
  unfold State.toTm
  refine .ite (.refl _ s) ?_
  extract_lets t
  have ht : PagesOnly timePages s t := s.setTm_pages st
  exact .ite (ht.trans ((t.irq_pages 0 (by decide)).trans (State.event_timePages _ _ _ _))) ht

theorem State.stepNow_pages (s : State) (e : Int) (c : DWord) : PagesOnly timePages s (s.stepNow e c) :=
  (s.setAnchor_pages _ c).trans (.set rfl rfl)

theorem State.measureFirst_pages (s : State) (e : Int) (c : DWord) : PagesOnly timePages s (s.measureFirst e c) := by
  unfold State.measureFirst
  extract_lets t
  have ht : PagesOnly timePages s t := (s.stepNow_pages e c).trans (State.setTm_pages _ 1)
  exact (State.stepped_pages _ e).after (PagesOnly.after (.set rfl rfl) ht)

theorem State.servoState_pages (s : State) (ok : Bool) (g : Nat) : PagesOnly timePages s (s.servoState ok g) :=
  .ite (s.toTm_pages 2) (.ite (.ite (s.toTm_pages 2) (s.toTm_pages 1)) (.refl _ s))

theorem State.servo_pages (s : State) (e d : Int) (c : DWord) : PagesOnly timePages s (s.servo e d c) := by
  unfold State.servo
  extract_lets f r ok g t
  have ht : PagesOnly timePages s t := (s.wr_pages _ (by decide)).trans (State.setRate_pages _ c r)
  exact (State.servoState_pages _ ok g).after (PagesOnly.after (.set rfl rfl) ht)

theorem State.measure_pages (s : State) (e : Int) (c : DWord) : PagesOnly timePages s (s.measure e c) := by
  unfold State.measure
  refine .ite (.refl _ s) ?_
  extract_lets d u t
  have ht : PagesOnly timePages s t := (State.wr_pages _ _ (by decide)).after (.set rfl rfl)
  refine .ite (ht.trans (t.measureFirst_pages e _)) (.ite (ht.trans (t.servo_pages e d _)) (ht.trans ?_))
  exact (State.setTm_pages _ 1).after (.set rfl rfl)

theorem State.bcnMeasure_pages (s : State) (x : AirRx) (sf : Nat) : PagesOnly timePages s (s.bcnMeasure x sf) :=
  .ite (.refl _ s) ((State.measure_pages _ _ _).after (.set rfl rfl))

theorem State.loseSource_pages (s : State) (c : DWord) (cause : Nat) : PagesOnly timePages s (s.loseSource c cause) := by
  unfold State.loseSource
  refine .ite ?_ (.refl _ s)
  extract_lets t u ntm v
  have ht : PagesOnly timePages s t := .set rfl rfl
  have hu : PagesOnly timePages t u := (t.setRate_pages _ _).trans (State.setTm_pages _ 3)
  have hv : PagesOnly timePages u v := .set rfl rfl
  exact ht.trans (hu.trans (hv.trans (((v.bump_pages 1 (by decide)).trans (State.irq_pages _ 1 (by decide))).trans (State.event_timePages _ _ _ _))))

/-! ### A frame of the firmware records at most an error of its radio -/

/-- The pages of the radios. -/
abbrev radPages : List Nat := [0x14, 0x15, 0x16, 0x17]

theorem radBlk_page (r : Nat) : blkBase (radBlk r) / 0x1000 ∈ radPages := by
  have h : ∀ n : Fin 4, blkBase (.rad n) / 0x1000 ∈ radPages := by decide
  exact h _

/-- A frame of the firmware's own has no descriptor to complete: one that is too long leaves an error alone. -/
theorem State.txDone_own {s : State} {r : Nat} {x : Tx} {b : Bytes} (h : x.own = some b) : s.txDone r x dTooLong = s := by
  simp [State.txDone, h]

theorem State.fwSend_pages (s : State) (r access : Nat) (ack : Bool) (dl : Option Nat) (psdu : Bytes) : PagesOnly radPages s (s.fwSend r access ack dl psdu) := by
  unfold State.fwSend State.txQueue
  refine .ite (.refl _ s) (.ite ?_ (.set rfl rfl))
  rw [State.txDone_own rfl]
  exact s.err_pages _ _ _ (radBlk_page r)

theorem State.sendUp_pages (s : State) (typ : Nat) (ack : Bool) (pay : Bytes) : PagesOnly radPages s (s.sendUp typ ack pay) :=
  .ite (.refl _ s) (s.fwSend_pages _ _ _ _ _)

theorem State.sendModeGet_pages (s : State) (b : Nat) : PagesOnly radPages s (s.sendModeGet b) :=
  .ite (.refl _ s) ((State.sendUp_pages _ _ _ _).after (.set rfl rfl))

theorem State.parentEpoch_pages (s : State) (b : Nat) : PagesOnly radPages s (s.parentEpoch b) := by
  unfold State.parentEpoch
  extract_lets d lvl n t
  refine .ite (.set rfl rfl) (.ite ?_ ?_)
  · split
    · exact .ite (.set rfl rfl) (s.sendModeGet_pages b)
    · exact s.sendModeGet_pages b
  · have ht : PagesOnly radPages s t := .set rfl rfl
    refine .ite ht (ht.trans ?_)
    split
    · exact .ite (.set rfl rfl) (t.sendModeGet_pages b)
    · exact t.sendModeGet_pages b

end Sys2Proof.Machine
end

section
/-! PROOFS. Beacons: building and sending, reception, misses, orphans and the scan. -/

namespace Sys2Proof.Machine

open Sys2Proof

/-! ### BCN_STAT -/

/-- STATE and MISSES lie apart in BCN_STAT. -/
theorem fld_bcnStat (w : Word) {st m : Nat} (hst : st < 8) (hm : m < 16) :
    fld (setFld (setFld w 0 3 st) 4 4 m) 0 3 = st ∧ fld (setFld (setFld w 0 3 st) 4 4 m) 4 4 = m := by
  have hw : w.toNat < 2 ^ 32 := w.isLt
  simp only [fld, setFld, w32, BitVec.toNat_ofNat]
  constructor <;> omega

theorem State.setBcn_eq_irq (s : State) (st m : Nat) :
    s.setBcn st m = (s.wf R.bcn_BCN_STAT 0 3 st).wf R.bcn_BCN_STAT 4 4 (min m 15) ∨
      s.setBcn st m = ((s.wf R.bcn_BCN_STAT 0 3 st).wf R.bcn_BCN_STAT 4 4 (min m 15)).irq .bcn 2 := by
  unfold State.setBcn
  extract_lets t
  split
  · exact .inr rfl
  · exact .inl rfl

/-- Registers past the header other than BCN_STAT stay. -/
theorem State.setBcn_rd_ne (s : State) (st m : Nat) {a : Nat} (h : PastHeader a) (hs : a ≠ R.bcn_BCN_STAT) : (s.setBcn st m).rd a = s.rd a := by
  have hw : ((s.wf R.bcn_BCN_STAT 0 3 st).wf R.bcn_BCN_STAT 4 4 (min m 15)).rd a = s.rd a := (State.rd_wr_ne _ _ hs).trans (s.rd_wr_ne _ hs)
  rcases s.setBcn_eq_irq st m with e | e <;> rw [e]
  · exact hw
  · exact (State.irq_rd_past _ .bcn 2 h).trans hw

theorem State.setBcn_stat (s : State) (st m : Nat) : (s.setBcn st m).rd R.bcn_BCN_STAT = setFld (setFld (s.rd R.bcn_BCN_STAT) 0 3 st) 4 4 (min m 15) := by
  have hw : ((s.wf R.bcn_BCN_STAT 0 3 st).wf R.bcn_BCN_STAT 4 4 (min m 15)).rd R.bcn_BCN_STAT = setFld (setFld (s.rd R.bcn_BCN_STAT) 0 3 st) 4 4 (min m 15) := by
    simp only [State.wf, State.rd_wr_same]
  rcases s.setBcn_eq_irq st m with e | e <;> rw [e]
  · exact hw
  · exact (State.irq_rd_past _ .bcn 2 (by decide)).trans hw

theorem State.setBcn_state (s : State) {st : Nat} (m : Nat) (h : st < 8) : (s.setBcn st m).bcnState = st := by
  rw [State.bcnState, State.rf, State.setBcn_stat]
  exact (fld_bcnStat _ h (by omega)).1

theorem State.setBcn_misses (s : State) {st m : Nat} (h : st < 8) (hm : m < 16) : (s.setBcn st m).rf R.bcn_BCN_STAT 4 4 = m := by
  rw [State.rf, State.setBcn_stat, (fld_bcnStat _ h (by omega)).2]
  omega

theorem State.setBcn_goes (s : State) (st m : Nat) : Goes [.regs, .out, .pba] s (s.setBcn st m) := goes_setBcn s st m rfl (.refl _ s)

theorem State.setBcn_bcn (s : State) (st m : Nat) : (s.setBcn st m).bcn = s.bcn := (s.setBcn_goes st m).1 .bcn (by decide)

/-! ### Building and sending (R30, R203, R205) -/

theorem beaconBuild_spec (s : State) (hr : s.bcn.ready = some s.sf) (ht : s.takes .bcn = true) (hp : s.bcnTick.isSome = true) (hk : s.tick % 256 = 255) :
    ∃ t, exec .beaconBuild s = .next t ∧ t.bcn.built = some (s.sf + 1) ∧ t.mem.sram = memWrite s.mem.sram s.bcnBuf (s.bcnPayload (s.sf + 1) 0 0) ∧ ChangesOnly [.mem, .bcn] s t := by
  have hx : exec .beaconBuild s = .next { s.sramWrite s.bcnBuf (s.bcnPayload (s.sf + 1) 0 0) with bcn := { s.bcn with built := some (s.sf + 1) } } :=
    congrArg Host.Outcome.next (if_pos (by simp [hr, ht, hp, hk]))
  exact ⟨_, hx, rfl, rfl, (exec_goes hx).1⟩

theorem State.sramSeen_bcn (s : State) (a n : Nat) : (s.sramSeen a n).bcn = s.bcn :=
  (goes_sramSeen s a n rfl (.refl [.regs, .out, .free, .mem, .pba] s)).1 .bcn (by decide)

/-- The place of the built payload is read from BCN, which packet SRAM does not write. -/
theorem State.sramSeen_bcnBuf (s : State) (a n : Nat) : (s.sramSeen a n).bcnBuf = s.bcnBuf :=
  congrArg (fun w => fld w 0 16 * 64) (s.sramSeen_pages a n R.bcn_BCN_TPL (by decide))

theorem foldl_bcnOut_bcn (l : List Nat) (c : DWord) (b : Bytes) (s : State) : (l.foldl (fun (v : State) r => v.bcnOut r c b) s).bcn = s.bcn :=
  foldl_keeps (P := fun t : State => t.bcn = s.bcn)
    (fun t r h => ((goes_bcnOut t r c b rfl (.refl [.regs, .out, .nvs, .rad, .chn, .lnk, .pba] t)).1 .bcn (by decide)).trans h) l rfl

theorem State.bcnSend_eq (s : State) (c : DWord) : let u : State := { s with bcn := { s.bcn with built := none } }.sramSeen s.bcnBuf 36
    s.bcnSend c = match u.sramRead s.bcnBuf 36 with
      | some b => (List.range 4).foldl (fun (v : State) r => v.bcnOut r c b) u
      | none => u := by
  intro u
  have hb : u.bcnBuf = s.bcnBuf := State.sramSeen_bcnBuf { s with bcn := { s.bcn with built := none } } s.bcnBuf 36
  rw [← hb]
  rfl

theorem beaconSend_spec (c : DWord) (s : State) (h : s.bcnDue = true) : let u : State := { s.at c with bcn := { s.bcn with built := none } }.sramSeen s.bcnBuf 36
    (∀ b, u.sramRead s.bcnBuf 36 = some b → ∃ t, exec (.beaconSend c) s = .next t ∧ t = (List.range 4).foldl (fun (v : State) r => v.bcnOut r c b) u ∧ t.bcn.built = none ∧
      ChangesOnly (touches (.beaconSend c)) s t) ∧
    (u.sramRead s.bcnBuf 36 = none → exec (.beaconSend c) s = .next u) := by
  intro u
  have hx : exec (.beaconSend c) s = .next ((s.at c).bcnSend c) := congrArg Host.Outcome.next (if_pos h)
  have hs : (s.at c).bcnSend c = match u.sramRead s.bcnBuf 36 with
      | some b => (List.range 4).foldl (fun (v : State) r => v.bcnOut r c b) u
      | none => u := (s.at c).bcnSend_eq c
  have hb : u.bcn = { s.bcn with built := none } := State.sramSeen_bcn _ _ _
  clear_value u
  constructor
  · intro b e
    rw [e] at hs
    rw [hs] at hx
    exact ⟨_, hx, rfl, by rw [foldl_bcnOut_bcn, hb], (exec_goes hx).1⟩
  · intro e
    rw [hx, hs, e]

theorem bcnOut_yields (r : Nat) (c : DWord) (b : Bytes) (s : State) (hr : s.runs (radBlk r) = true) (hf : s.floodOver r (s.tick * 4000 + 200) (s.bcnAirtime r 58) = true) :
    s.bcnOut r c b = s.bumpSat R.lvl_BCN_YIELD 1 := by
  unfold State.bcnOut
  rw [hr]
  exact if_pos hf

theorem bcnOut_held (r : Nat) (c : DWord) (b : Bytes) (s : State) (hr : s.runs (radBlk r) = true) (hf : s.floodOver r (s.tick * 4000 + 200) (s.bcnAirtime r 58) = false)
    (hl : s.ledgersAllow r (s.chan r (s.tick - s.tick % 2)) (s.bcnAirtime r 58) false = false) : s.bcnOut r c b = ((s.bumpSat R.bcn_BCN_HELD 1).irq .bcn 3).heldBack r := by
  unfold State.bcnOut
  extract_lets us air ch
  rw [hr, show s.floodOver r us air = false from hf, show s.ledgersAllow r ch air false = false from hl]
  simp only [Bool.not_true, Bool.false_eq_true, if_false, Bool.and_false]

/-! ### BCN_NODE (R203, R491) -/

theorem exec_bcnNodeWrite {m : Master} {v : Word} {s : State} (h : PageOpen s .bcn m) : exec (.bcnNodeWrite m v) s = .next ((s.bcnNodeWrite m v).answer .done) :=
  congrArg Host.Outcome.next (State.writeAt_open h _ _ _)

theorem bcnNodeWrite_busy (m : Master) (v : Word) (s : State) (h : PageOpen s .bcn m) (he : s.en .bcn = true) :
    exec (.bcnNodeWrite m v) s = .next ((s.err .bcn eBusy 0x44 m).answer .done) := by
  rw [exec_bcnNodeWrite h, State.bcnNodeWrite, if_pos he]

theorem bcnNodeWrite_badDepth (m : Master) (v : Word) (s : State) (h : PageOpen s .bcn m) (he : s.en .bcn = false) (hv : 16 < fld v 0 5) :
    exec (.bcnNodeWrite m v) s = .next ((s.err .bcn eBadValue 0x44 m).answer .done) := by
  rw [exec_bcnNodeWrite h, State.bcnNodeWrite, if_neg (by simp [he]), if_pos (.inl hv)]

/-- What a node learns of its place leaves BCN_NODE. -/
theorem State.bcnLearn_rd_node (s : State) : s.bcnLearn.rd R.bcn_BCN_NODE = s.rd R.bcn_BCN_NODE := by
  unfold State.bcnLearn
  extract_lets t
  split
  · refine (State.setBcn_rd_ne _ 2 0 (by decide) (by decide)).trans ?_
    have ht : PagesOnly [0x11, 0x2A] s t := .ite (.refl _ s) (s.recRestore_pages _ _ _ _)
    exact ht R.bcn_BCN_NODE (by decide)
  · rfl

theorem bcnNodeWrite_stores (m : Master) (v : Word) (s : State) (h : PageOpen s .bcn m) (he : s.en .bcn = false) (hv : fld v 0 5 ≤ 16) (hr : fld v 0 5 = 16 → tst v 20 = false) :
    ∃ t, exec (.bcnNodeWrite m v) s = .next t ∧ t = (s.wr R.bcn_BCN_NODE (v &&& 0x1FFFFF)).bcnLearn.answer .done ∧ t.rd R.bcn_BCN_NODE = v &&& 0x1FFFFF ∧ t.resp = .done := by
  have hn : ¬ (16 < fld v 0 5 ∨ (fld v 0 5 = 16 ∧ tst v 20 = true)) := by
    rintro (hd | ⟨hd, ht⟩)
    · omega
    · exact absurd ht (by simp [hr hd])
  have hw : s.bcnNodeWrite m v = (s.wr R.bcn_BCN_NODE (v &&& 0x1FFFFF)).bcnLearn := by
    rw [State.bcnNodeWrite, if_neg (by simp [he]), if_neg hn]
  exact ⟨_, exec_bcnNodeWrite h, by rw [hw], by rw [hw]; exact (State.bcnLearn_rd_node _).trans (s.rd_wr_same _ _), rfl⟩

/-! ### A beacon of the parent (R221) -/

theorem State.endWindow_rd_past (s : State) {a : Nat} (h : PastHeader a) : s.endWindow.rd a = s.rd a := by
  unfold State.endWindow
  split
  · exact State.setDrained_rd_past _ .bcn h
  · rfl

theorem State.setDrained_bcn (s : State) (b : Blk) : (s.setDrained b).bcn = s.bcn :=
  (goes_setDrained s b rfl (.refl [.regs, .out, .pba] s)).1 .bcn (by decide)

theorem State.setDrained_net (s : State) (b : Blk) : (s.setDrained b).net = s.net :=
  (goes_setDrained s b rfl (.refl [.regs, .out, .pba] s)).1 .net (by decide)

/-- The end of a window closes it and changes nothing else of BCN. -/
theorem State.endWindow_bcn (s : State) : s.endWindow.bcn = { s.bcn with win := none } := by
  unfold State.endWindow
  split
  · rw [State.setDrained_bcn]
  · next h => rw [← h]

theorem State.endWindow_net (s : State) : s.endWindow.net = s.net := by
  unfold State.endWindow
  split
  · rw [State.setDrained_net]
  · rfl

theorem State.parentEpoch_bcn (s : State) (b : Nat) : (s.parentEpoch b).bcn = s.bcn :=
  (goes_parentEpoch s b rfl (.refl [.regs, .out, .que, .rad, .net, .lvl, .pba] s)).1 .bcn (by decide)

theorem State.bcnMeasure_bcn (s : State) (x : AirRx) (sf : Nat) : (s.bcnMeasure x sf).bcn = s.bcn :=
  (goes_bcnMeasure s x sf rfl (.refl [.regs, .out, .mbx, .ldg, .ntm, .pba] s)).1 .bcn (by decide)

/-- What BCN notes of an accepted beacon: the superframe heard, the margin, the position, the cost and when it came. -/
def State.bcnNoted (s : State) (x : AirRx) (sf : Nat) : Bcn :=
  { s.bcn with
    heardSf := some sf, margins := (x.margin :: s.bcn.margins).take 4, pos := some (byteAt (airPay x) 5 / 4 % 2), cost := byteAt (airPay x) 15, lastCnt := s.airCnt x
    quiet := if s.bcnState = 2 then some sf else s.bcn.quiet }

/-- The state once an accepted beacon is counted and measured. -/
def State.bcnCounted (s : State) (x : AirRx) (sf : Nat) : State :=
  ((({ s with bcn := s.bcnNoted x sf, ntm := { s.ntm with corr := some (sgn 48 (le (airPay x) 8 6), s.airCnt x, sf) } } : State).wr R.bcn_SF_LAST (w32 sf)).bumpSat
    R.bcn_BCN_RX 1).bcnMeasure x sf

theorem State.parentBeacon_accepted {s : State} {x : AirRx} {sf : Nat} (hsrc : (airHdr x).src = s.parentIx) (hr : x.radio.val = s.upRadio) (hh : s.bcn.heardSf ≠ some sf)
    (hw : s.inWindow sf (s.airStart x) (s.airCnt x) = true) :
    s.parentBeacon x sf = (((s.bcnCounted x sf).setBcn 4 0).parentEpoch (le (airPay x) 6 2)).endWindow := by
  unfold State.parentBeacon
  exact if_neg (by simp [hsrc, hr, hh, hw])

theorem State.bcnCounted_regs (s : State) (x : AirRx) (sf : Nat) :
    (s.bcnCounted x sf).rd R.bcn_SF_LAST = w32 sf ∧ (s.bcnCounted x sf).rd R.bcn_BCN_RX = satAdd (s.rd R.bcn_BCN_RX) 1 := by
  have hm (u : State) {a : Nat} (h : a / 0x1000 ∉ timePages) : (u.bcnMeasure x sf).rd a = u.rd a := u.bcnMeasure_pages x sf a h
  unfold State.bcnCounted
  constructor
  · rw [hm _ (by decide), State.bumpSat, State.rd_wr_ne _ _ (by decide), State.rd_wr_same]
  · rw [hm _ (by decide), State.bumpSat_rd_same, State.rd_wr_ne _ _ (by decide)]
    rfl

theorem State.bcnCounted_bcn (s : State) (x : AirRx) (sf : Nat) : (s.bcnCounted x sf).bcn = s.bcnNoted x sf := by
  rw [State.bcnCounted, State.bcnMeasure_bcn]
  rfl

/-- The registers of BCN past the header and what BCN noted stay while a parent's epoch is compared and the window ends. -/
theorem bcnTail_rd (s : State) (e : Nat) {a : Nat} (h : PastHeader a) (hp : a / 0x1000 ∉ radPages) : ((s.parentEpoch e).endWindow).rd a = s.rd a :=
  ((s.parentEpoch e).endWindow_rd_past h).trans (s.parentEpoch_pages e a hp)

theorem State.parentBeacon_spec {s : State} {x : AirRx} {sf : Nat} (hsrc : (airHdr x).src = s.parentIx) (hr : x.radio.val = s.upRadio) (hh : s.bcn.heardSf ≠ some sf)
    (hw : s.inWindow sf (s.airStart x) (s.airCnt x) = true) :
    (s.parentBeacon x sf).bcnState = 4 ∧ (s.parentBeacon x sf).rf R.bcn_BCN_STAT 4 4 = 0 ∧ (s.parentBeacon x sf).bcn = { s.bcnNoted x sf with win := none } ∧
      (s.parentBeacon x sf).rd R.bcn_SF_LAST = w32 sf ∧ (s.parentBeacon x sf).rd R.bcn_BCN_RX = satAdd (s.rd R.bcn_BCN_RX) 1 := by
  obtain ⟨last, rx⟩ := s.bcnCounted_regs x sf
  have hb := s.bcnCounted_bcn x sf
  rw [State.parentBeacon_accepted hsrc hr hh hw]
  generalize s.bcnCounted x sf = u at last rx hb
  have rd {a : Nat} (h : PastHeader a) (hp : a / 0x1000 ∉ radPages) := bcnTail_rd (u.setBcn 4 0) (le (airPay x) 6 2) h hp
  refine ⟨?_, ?_, ?_, ?_, ?_⟩
  · rw [State.bcnState, State.rf, rd (by decide) (by decide)]
    exact u.setBcn_state 0 (by decide)
  · rw [State.rf, rd (by decide) (by decide)]
    exact u.setBcn_misses (by decide) (by decide)
  · rw [State.endWindow_bcn, State.parentEpoch_bcn, State.setBcn_bcn, hb]
  · rw [rd (by decide) (by decide), u.setBcn_rd_ne 4 0 (by decide) (by decide), last]
  · rw [rd (by decide) (by decide), u.setBcn_rd_ne 4 0 (by decide) (by decide), rx]

/-- A beacon at a node with a place, tracking or not, is judged as its parent's. -/
theorem State.beaconRx_parent {s : State} {x : AirRx} (ht : s.takes .bcn = true) (hh : s.holds = true) (hs : s.isStandby = false) (hn : s.isNode = true) (h0 : s.bcnState ≠ 0)
    (hp : s.placeless = false) (htyp : (airHdr x).typ = 1) (hm : (airHdr x).mhop = false) (hl : (airPay x).length = 36) :
    s.beaconRx x = s.parentBeacon x (sfNear (s.airStart x / sf16).toNat (le (airPay x) 0 4)) := by
  have hd : s.isHead = false := by
    simp only [State.isNode, State.isHead, decide_eq_true_eq, decide_eq_false_iff_not] at hn ⊢
    omega
  unfold State.beaconRx
  simp [ht, hh, hs, hn, h0, hp, htyp, hm, hl, hd]

theorem beaconReceive_spec (x : AirRx) (s : State) (ht : s.takes .bcn = true) (hh : s.holds = true) (hs : s.isStandby = false) (hn : s.isNode = true) (h0 : s.bcnState ≠ 0)
    (hp : s.placeless = false) (htyp : (airHdr x).typ = 1) (hm : (airHdr x).mhop = false) (hl : (airPay x).length = 36) (hsrc : (airHdr x).src = s.parentIx)
    (hr : x.radio.val = s.upRadio) :
    let u := s.at x.verdict
    let sf := sfNear (u.airStart x / sf16).toNat (le (airPay x) 0 4)
    s.bcn.heardSf ≠ some sf → u.inWindow sf (u.airStart x) (u.airCnt x) = true → ∃ t, exec (.beaconReceive x) s = .next t ∧ t.bcnState = 4 ∧ t.rf R.bcn_BCN_STAT 4 4 = 0 ∧
      t.bcn.heardSf = some sf ∧ t.bcn.cost = byteAt (airPay x) 15 ∧ t.bcn.margins = (x.margin :: s.bcn.margins).take 4 ∧ t.rd R.bcn_SF_LAST = w32 sf ∧
      t.rd R.bcn_BCN_RX = satAdd (s.rd R.bcn_BCN_RX) 1 ∧ ChangesOnly (touches (.beaconReceive x)) s t := by
  intro u sf hheard hwin
  have hx : exec (.beaconReceive x) s = .next (u.parentBeacon x sf) :=
    congrArg Host.Outcome.next (State.beaconRx_parent (s := u) ht hh hs hn h0 hp htyp hm hl)
  obtain ⟨state, misses, bcn, last, rx⟩ := State.parentBeacon_spec (s := u) (sf := sf) hsrc hr hheard hwin
  refine ⟨_, hx, state, misses, ?_, ?_, ?_, last, rx, (exec_goes hx).1⟩ <;> rw [bcn] <;> rfl

/-! ### A window without a beacon (R221, R222) -/

theorem State.setTm_state (s : State) {st : Nat} (h : st < 8) : (s.setTm st).tmState = st := by
  have hw : (s.rd R.ntm_NTM_STAT).toNat < 2 ^ 32 := (s.rd R.ntm_NTM_STAT).isLt
  simp only [State.tmState, State.setTm, State.rf, State.wf, State.rd_wr_same, fld, setFld, w32, BitVec.toNat_ofNat]
  omega

theorem State.setRate_setTm_ntm (s : State) (c : DWord) (v : Int) (st : Nat) : ((s.setRate c v).setTm st).ntm = s.ntm :=
  (goes_setTm _ st rfl (goes_setRate s c v rfl (.refl [.regs] s))).1 .ntm (by decide)

theorem State.holdover_ntm (s : State) (code src : Nat) (p : Bytes) : (((s.bump R.ntm_HOLD_CNT 1).irq .ntm 1).event code src p).ntm = s.ntm :=
  (goes_event _ code src p rfl (goes_irq _ _ 1 rfl (goes_bump s _ 1 rfl (.refl [.regs, .out, .mbx, .ldg, .pba] s)))).1 .ntm (by decide)

theorem State.holdover_tmState (s : State) (code src : Nat) (p : Bytes) : (((s.bump R.ntm_HOLD_CNT 1).irq .ntm 1).event code src p).tmState = s.tmState := by
  refine congrArg (fld · 0 3) ?_
  rw [State.event_pages _ code src p _ (by decide), State.irq_rd_past _ .ntm 1 (by decide)]
  exact s.rd_wr_ne _ (by decide)

/-- A node that loses its source of network time keeps time, and the number of its tick (R228). -/
theorem State.loseSource_keepsTime (s : State) (c : DWord) (cause : Nat) (h : s.holds = true) : (s.loseSource c cause).holds = true ∧ (s.loseSource c cause).ntm.tick = s.ntm.tick := by
  unfold State.loseSource
  split
  · extract_lets t u ntm v
    have hu : u.tmState = 3 := State.setTm_state _ (by decide)
    have hut : u.ntm = t.ntm := State.setRate_setTm_ntm _ _ _ 3
    clear_value u
    have hv : v.tmState = u.tmState := rfl
    have hvu : v.ntm.tick = u.ntm.tick := rfl
    have hn : v.ntm.tick = s.ntm.tick := hvu.trans (congrArg Ntm.tick hut)
    clear_value v
    rw [State.holds, State.holdover_tmState, State.holdover_ntm, hv, hu]
    exact ⟨rfl, hn⟩
  · exact ⟨h, rfl⟩

/-- While time is held the superframe is told by the number of the tick. -/
theorem State.sf_congr {s t : State} (hs : s.holds = true) (ht : t.holds = true) (h : t.ntm.tick = s.ntm.tick) : t.sf = s.sf := by
  simp only [State.sf, State.tick, hs, ht, h, if_true]

/-- The state once a miss is counted and the source of network time lost. -/
def State.missCounted (s : State) (c : DWord) : State := ((s.bumpSat R.bcn_BCN_MISS 1).irq .bcn 0).loseSource c 1

theorem State.missCounted_rd (s : State) (c : DWord) {a : Nat} (h : PastHeader a) (hp : a / 0x1000 ∉ timePages) (hm : a ≠ R.bcn_BCN_MISS) : (s.missCounted c).rd a = s.rd a := by
  rw [State.missCounted, State.loseSource_pages _ c 1 a hp, State.irq_rd_past _ .bcn 0 h]
  exact s.rd_wr_ne _ hm

theorem State.missCounted_miss (s : State) (c : DWord) : (s.missCounted c).rd R.bcn_BCN_MISS = satAdd (s.rd R.bcn_BCN_MISS) 1 := by
  rw [State.missCounted, State.loseSource_pages _ c 1 _ (by decide), State.irq_rd_past _ .bcn 0 (by decide), State.bumpSat_rd_same]

theorem State.missCounted_keepsTime (s : State) (c : DWord) (h : s.holds = true) : (s.missCounted c).holds = true ∧ (s.missCounted c).ntm.tick = s.ntm.tick := by
  have hi : Goes [.regs, .out, .pba] s ((s.bumpSat R.bcn_BCN_MISS 1).irq .bcn 0) := goes_irq _ .bcn 0 rfl (goes_bumpSat s _ 1 rfl (.refl _ s))
  have hh : ((s.bumpSat R.bcn_BCN_MISS 1).irq .bcn 0).holds = true := by
    rw [State.holds, State.tmState, State.rf, State.irq_rd_past _ .bcn 0 (by decide), State.bumpSat, State.rd_wr_ne _ _ (by decide)]
    exact h
  obtain ⟨holds, tick⟩ := State.loseSource_keepsTime _ c 1 hh
  exact ⟨holds, tick.trans (congrArg Ntm.tick (hi.1 .ntm (by decide)))⟩

theorem State.beaconMiss_eq {s : State} (c : DWord) (ht : s.takes .bcn = true) (hn : s.isNode = true) (ho : s.onNet = true) (hr : s.repeated = false) (hp : s.placeless = false)
    (h0 : s.bcnState ≠ 0) (hk : s.tick % 256 = 2 * s.depth) (hh : s.bcn.heardSf ≠ some s.sf) :
    s.beaconMiss c = (if 3 ≤ s.rf R.bcn_BCN_STAT 4 4 + 1 then (s.missCounted c).becomeOrphan (s.rf R.bcn_BCN_STAT 4 4 + 1)
      else (s.missCounted c).setBcn (if s.bcnState = 2 then 2 else 4 + (s.rf R.bcn_BCN_STAT 4 4 + 1)) (s.rf R.bcn_BCN_STAT 4 4 + 1)).endWindow := by
  unfold State.beaconMiss
  exact if_neg (by simp [ht, hn, ho, hr, hp, h0, hk, hh])

theorem beaconMiss_counts (c : DWord) (s : State) (ht : s.takes .bcn = true) (hn : s.isNode = true) (ho : s.onNet = true) (hr : s.repeated = false) (hp : s.placeless = false)
    (h0 : s.bcnState ≠ 0) (hk : s.tick % 256 = 2 * s.depth) (hh : s.bcn.heardSf ≠ some s.sf) (hm : s.rf R.bcn_BCN_STAT 4 4 < 2) :
    ∃ t, exec (.beaconMiss c) s = .next t ∧ t.rf R.bcn_BCN_STAT 4 4 = s.rf R.bcn_BCN_STAT 4 4 + 1 ∧
      t.bcnState = (if s.bcnState = 2 then 2 else 5 + s.rf R.bcn_BCN_STAT 4 4) ∧ t.rd R.bcn_BCN_MISS = satAdd (s.rd R.bcn_BCN_MISS) 1 ∧
      ChangesOnly (touches (.beaconMiss c)) s t := by
  have he := State.beaconMiss_eq (s := s.at c) c ht hn ho hr hp h0 hk hh
  have h3 : ¬ 3 ≤ (s.at c).rf R.bcn_BCN_STAT 4 4 + 1 := by
    show ¬ 3 ≤ s.rf R.bcn_BCN_STAT 4 4 + 1
    omega
  rw [if_neg h3] at he
  have hx : exec (.beaconMiss c) s = .next _ := congrArg Host.Outcome.next he
  have hst : (if s.bcnState = 2 then 2 else 4 + (s.rf R.bcn_BCN_STAT 4 4 + 1)) < 8 := by
    split <;> omega
  have hmiss : ((s.at c).missCounted c).rd R.bcn_BCN_MISS = satAdd (s.rd R.bcn_BCN_MISS) 1 := (s.at c).missCounted_miss c
  refine ⟨_, hx, ?_, ?_, ?_, (exec_goes hx).1⟩
  · rw [State.rf, State.endWindow_rd_past _ (by decide)]
    exact State.setBcn_misses _ hst (by omega)
  · rw [State.bcnState, State.rf, State.endWindow_rd_past _ (by decide)]
    refine (State.setBcn_state _ _ hst).trans ?_
    rw [show 4 + (s.rf R.bcn_BCN_STAT 4 4 + 1) = 5 + s.rf R.bcn_BCN_STAT 4 4 by omega]
  · rw [State.endWindow_rd_past _ (by decide), State.setBcn_rd_ne _ _ _ (by decide) (by decide), hmiss]

/-- The state of a new orphan before the search is cleared. -/
def State.orphanCounted (s : State) (m : Nat) : State := (((s.setBcn 7 m).bumpSat R.bcn_ORPHAN_CNT 1).irq .bcn 1).noSchedule

theorem State.becomeOrphan_eq (s : State) (m : Nat) : s.becomeOrphan m =
    { s.orphanCounted m with bcn := { (s.orphanCounted m).bcn with listen := (s.orphanCounted m).sf, cands := [], asked := none, gather := none }
                             net := { (s.orphanCounted m).net with orphaned := true } } := rfl

theorem State.noSchedule_rd (s : State) (a : Nat) : s.noSchedule.rd a = s.rd a := (goes_noSchedule s rfl (.refl [.lvl] s)).rd (by decide) (by decide) a

theorem State.orphanCounted_rd (s : State) (m : Nat) {a : Nat} (h : PastHeader a) (hc : a ≠ R.bcn_ORPHAN_CNT) : (s.orphanCounted m).rd a = (s.setBcn 7 m).rd a := by
  rw [State.orphanCounted, State.noSchedule_rd, State.irq_rd_past _ .bcn 1 h]
  exact State.rd_wr_ne _ _ hc

theorem State.orphanCounted_count (s : State) (m : Nat) : (s.orphanCounted m).rd R.bcn_ORPHAN_CNT = satAdd (s.rd R.bcn_ORPHAN_CNT) 1 := by
  rw [State.orphanCounted, State.noSchedule_rd, State.irq_rd_past _ .bcn 1 (by decide), State.bumpSat_rd_same, State.setBcn_rd_ne _ 7 m (by decide) (by decide)]

theorem State.orphanCounted_sf (s : State) (m : Nat) (h : s.holds = true) : (s.orphanCounted m).sf = s.sf := by
  have hg : Goes [.regs, .out, .lvl, .pba] s (s.orphanCounted m) :=
    goes_noSchedule _ rfl (goes_irq _ .bcn 1 rfl (goes_bumpSat _ _ 1 rfl (goes_setBcn s 7 m rfl (.refl _ s))))
  refine State.sf_congr h ?_ (congrArg Ntm.tick (hg.1 .ntm (by decide)))
  rw [State.holds, State.tmState, State.rf, s.orphanCounted_rd m (by decide) (by decide), State.setBcn_rd_ne _ 7 m (by decide) (by decide)]
  exact h

theorem beaconMiss_orphans (c : DWord) (s : State) (ht : s.takes .bcn = true) (hn : s.isNode = true) (ho : s.onNet = true) (hr : s.repeated = false) (hp : s.placeless = false)
    (h0 : s.bcnState ≠ 0) (hk : s.tick % 256 = 2 * s.depth) (hh : s.bcn.heardSf ≠ some s.sf) (hm : s.rf R.bcn_BCN_STAT 4 4 = 2) :
    ∃ t, exec (.beaconMiss c) s = .next t ∧ t.bcnState = 7 ∧ t.net.orphaned = true ∧
      t.bcn.listen = s.sf ∧ t.bcn.cands = [] ∧ t.rd R.bcn_ORPHAN_CNT = satAdd (s.rd R.bcn_ORPHAN_CNT) 1 ∧ ChangesOnly (touches (.beaconMiss c)) s t := by
  have hhold : s.holds = true := (Bool.and_eq_true_iff.mp ho).1
  have he := State.beaconMiss_eq (s := s.at c) c ht hn ho hr hp h0 hk hh
  have h3 : 3 ≤ (s.at c).rf R.bcn_BCN_STAT 4 4 + 1 := by
    show 3 ≤ s.rf R.bcn_BCN_STAT 4 4 + 1
    omega
  rw [if_pos h3, State.becomeOrphan_eq] at he
  have hx : exec (.beaconMiss c) s = .next _ := congrArg Host.Outcome.next he
  obtain ⟨holds, tick⟩ := (s.at c).missCounted_keepsTime c hhold
  have hcnt : ((s.at c).missCounted c).rd R.bcn_ORPHAN_CNT = s.rd R.bcn_ORPHAN_CNT := (s.at c).missCounted_rd c (by decide) (by decide) (by decide)
  generalize (s.at c).missCounted c = u at hx holds tick hcnt
  generalize (s.at c).rf R.bcn_BCN_STAT 4 4 + 1 = m at hx
  refine ⟨_, hx, ?_, ?_, ?_, ?_, ?_, (exec_goes hx).1⟩
  · rw [State.bcnState, State.rf, State.endWindow_rd_past _ (by decide)]
    exact (congrArg (fld · 0 3) (u.orphanCounted_rd m (by decide) (by decide))).trans (u.setBcn_state m (by decide))
  · rw [State.endWindow_net]
  · rw [State.endWindow_bcn]
    exact (u.orphanCounted_sf m holds).trans (State.sf_congr hhold holds tick)
  · rw [State.endWindow_bcn]
  · rw [State.endWindow_rd_past _ (by decide), ← hcnt]
    exact u.orphanCounted_count m

/-! ### Orphans and the scan (R215, R222) -/

theorem State.startScan_state (s : State) : s.startScan.bcnState = 1 := State.setBcn_state _ 0 (by decide)

theorem State.startScan_bcn (s : State) : s.startScan.bcn = { s.bcn with asked := none, gather := none, cands := [], scan := 0, scanAt := s.tick } := State.setBcn_bcn _ 1 0

theorem State.askParent_spec (s : State) (radio seg parent : Nat) (margins : List Int) : (s.askParent radio seg parent margins).bcnState = 3 ∧
    (s.askParent radio seg parent margins).bcn.asked.map (fun a => (a.1, a.2.1)) = some (parent, seg) := by
  refine ⟨State.setBcn_state _ 0 (by decide), ?_⟩
  unfold State.askParent
  rw [State.setBcn_bcn]
  rfl

theorem orphanListenEnd_spec (s : State) (hn : s.isNode = true) (h7 : s.bcnState = 7) (ht : s.takes .bcn = true) (hl : s.bcn.listen + 4 ≤ s.sf) :
    exec .orphanListenEnd s = .next (s.askBest fun c => decide (c.seg = s.net.seg)) ∧
    (∀ c, s.bestCand (fun c => decide (c.seg = s.net.seg)) = some c → ∃ t, exec .orphanListenEnd s = .next t ∧ t.bcnState = 3 ∧
      t.bcn.asked.map (fun a => (a.1, a.2.1)) = some (c.index, c.seg) ∧ ChangesOnly (touches .orphanListenEnd) s t) ∧
    (s.bestCand (fun c => decide (c.seg = s.net.seg)) = none → ∃ t, exec .orphanListenEnd s = .next t ∧ t.bcnState = 1 ∧ t.bcn.cands = [] ∧ t.bcn.scan = 0 ∧
      ChangesOnly (touches .orphanListenEnd) s t) := by
  have hx : exec .orphanListenEnd s = .next (s.askBest fun c => decide (c.seg = s.net.seg)) := congrArg Host.Outcome.next (if_pos (by simp [hn, h7, ht, hl]))
  refine ⟨hx, fun c hc => ?_, fun hc => ?_⟩
  · have ha : s.askBest (fun c => decide (c.seg = s.net.seg)) = s.askParent c.radio c.seg c.index c.margins := by rw [State.askBest, hc]
    obtain ⟨state, asked⟩ := s.askParent_spec c.radio c.seg c.index c.margins
    exact ⟨_, hx, ha ▸ state, ha ▸ asked, (exec_goes hx).1⟩
  · have ha : s.askBest (fun c => decide (c.seg = s.net.seg)) = s.startScan := by rw [State.askBest, hc]
    refine ⟨_, hx, ha ▸ s.startScan_state, ?_, ?_, (exec_goes hx).1⟩ <;> rw [ha, State.startScan_bcn]

theorem exec_scanStep {s : State} (hn : s.isNode = true) (ht : s.takes .bcn = true) : exec .scanStep s = .next (
    if s.bcnState = 1 then
      if s.bcn.scanAt + 512 ≤ s.tick then { s with bcn := { s.bcn with scan := (s.bcn.scan + 1) % max 1 s.scanList.length, scanAt := s.tick } } else s
    else if s.bcnState = 2 ∧ s.bcn.gather.isSome ∧ s.bcn.listen + 8 < s.sf then s.startScan
    else if s.bcnState = 0 ∧ s.net.index = 0 then s.startScan
    else s) :=
  congrArg Host.Outcome.next (if_neg (by simp [hn, ht]))

theorem scanStep_moves (s : State) (hn : s.isNode = true) (ht : s.takes .bcn = true) (h1 : s.bcnState = 1) (hk : s.bcn.scanAt + 512 ≤ s.tick) :
    ∃ t, exec .scanStep s = .next t ∧ t.bcn.scan = (s.bcn.scan + 1) % max 1 s.scanList.length ∧ t.bcn.scanAt = s.tick ∧ ChangesOnly [.bcn] s t := by
  refine ⟨_, (exec_scanStep hn ht).trans (congrArg Host.Outcome.next ((if_pos h1).trans (if_pos hk))), rfl, rfl, ?_⟩
  exact (goes_set_bcn s _ rfl (.refl [.bcn] s)).1

theorem scanStep_stays (s : State) (hn : s.isNode = true) (ht : s.takes .bcn = true) (h1 : s.bcnState = 1) (hk : s.tick < s.bcn.scanAt + 512) : exec .scanStep s = .next s :=
  (exec_scanStep hn ht).trans (congrArg Host.Outcome.next ((if_pos h1).trans (if_neg (Nat.not_le.mpr hk))))

theorem scanStep_again (s : State) (hn : s.isNode = true) (ht : s.takes .bcn = true) (h2 : s.bcnState = 2) (hg : s.bcn.gather.isSome = true) (hl : s.bcn.listen + 8 < s.sf) :
    ∃ t, exec .scanStep s = .next t ∧ t = s.startScan ∧ t.bcnState = 1 ∧ t.bcn.cands = [] ∧ t.bcn.scan = 0 ∧ ChangesOnly (touches .scanStep) s t := by
  have hx : exec .scanStep s = .next s.startScan :=
    (exec_scanStep hn ht).trans (congrArg Host.Outcome.next ((if_neg (by omega)).trans (if_pos ⟨h2, hg, hl⟩)))
  refine ⟨_, hx, rfl, s.startScan_state, ?_, ?_, (exec_goes hx).1⟩ <;> rw [State.startScan_bcn]

/-- Settles O15, clause by clause. -/
theorem beaconsAreSentAndTracked : Obligations.BeaconsAreSentAndTracked :=
  ⟨⟨beaconBuild_spec, beaconSend_spec, bcnOut_yields, bcnOut_held, bcnNodeWrite_busy, bcnNodeWrite_badDepth, bcnNodeWrite_stores⟩,
    beaconReceive_spec, beaconMiss_counts, beaconMiss_orphans, orphanListenEnd_spec, scanStep_moves, scanStep_stays, scanStep_again⟩

end Sys2Proof.Machine
end

section
/-! SUPPORT. The front command of a step, and the errors of a page: the first is kept, every one counts, and bit 31 stands. -/

namespace Sys2Proof.Machine

open Sys2Proof

/-! ### One step (R72, R74) -/

/-- Settles O1: a step is a match on the queue. -/
theorem stepRunsFrontCommand : Obligations.StepRunsFrontCommand := by
  refine ⟨fun c rest s h => ?_, fun s h => ?_⟩
  · simp only [step, h]
  · simp only [step, h]

/-! ### ERR_CODE (R70) -/

theorem masterSrc_lt (m : Master) : masterSrc m < 16 := by
  cases m with
  | lane n =>
    show 2 + n.val < 16
    omega
  | _ => simp [masterSrc]

/-- Every block has the interrupt bits 30 and 31 (R67). -/
theorem irqMask_top (b : Blk) : tst (w32 (2 ^ blkIrqN b - 1 + 0xC0000000)) 30 = true ∧ tst (w32 (2 ^ blkIrqN b - 1 + 0xC0000000)) 31 = true := by
  have all : ∀ b ∈ allBlks, tst (w32 (2 ^ blkIrqN b - 1 + 0xC0000000)) 30 = true ∧ tst (w32 (2 ^ blkIrqN b - 1 + 0xC0000000)) 31 = true := by decide
  exact all b (mem_allBlks b)

theorem State.err_raises (s : State) (b : Blk) (code off : Nat) (m : Master) : (s.err b code off m).rb (hdr b oRaw) 31 = true :=
  State.irq_raises _ b (by decide) (irqMask_top b).2

/-- An error after the first that was not read adds 1 to COUNT, up to 255. -/
theorem State.err_again (s : State) (b : Blk) (code off : Nat) (m : Master) (h : s.rn (hdr b oErr) ≠ 0) :
    (s.err b code off m).rn (hdr b oErr) = if s.rn (hdr b oErr) / 2 ^ 24 < 255 then s.rn (hdr b oErr) + 2 ^ 24 else s.rn (hdr b oErr) := by
  have hlt := (s.rd (hdr b oErr)).isLt
  unfold State.err
  simp only [if_neg h]
  rw [State.rn, State.irq_rd_ne _ _ _ (hdr_ne b (by decide)), State.rd_wr_same, BitVec.toNat_ofNat]
  unfold State.rn at h ⊢
  split <;> omega

/-- A field of a register is a digit of its number. -/
theorem State.rf_rn (s : State) (a lo n : Nat) : s.rf a lo n = s.rn a / 2 ^ lo % 2 ^ n := rfl

theorem State.err_first_rn (s : State) (b : Blk) {code off : Nat} (m : Master) (hc : code < 256) (ho : off < 0x1000) (h : s.rn (hdr b oErr) = 0) :
    (s.err b code off m).rn (hdr b oErr) = code + off * 2 ^ 8 + masterSrc m * 2 ^ 20 + 2 ^ 24 := by
  have hm := masterSrc_lt m
  rw [State.rn, s.err_first b code off m (BitVec.eq_of_toNat_eq h), BitVec.toNat_ofNat]
  omega

/-- Settles O28: the number that ERR_CODE holds after an error, taken apart into its fields. -/
theorem firstErrorIsKeptAndCounted : Obligations.FirstErrorIsKeptAndCounted := by
  refine ⟨fun s b code off m hc ho => ⟨fun h => ?_, fun h => ?_, s.err_raises b code off m, RegsOnly.err s b code off m, s.err_changes b code off m⟩,
    fun s b m p => ?_, by decide⟩
  · have hm := masterSrc_lt m
    simp only [State.rf_rn, s.err_first_rn b m hc ho h]
    omega
  · have hlt := (s.rd (hdr b oErr)).isLt
    simp only [State.rf_rn, s.err_again b code off m h]
    unfold State.rn at h ⊢
    split <;> omega
  · exact ⟨_, (s.pageLoad_err b m p).symm, rfl, State.rd_wr_same _ _ _, RegsOnly.wr _ _ _, (s.wr_changes _ _).answer _ (by simp) (by simp)⟩

end Sys2Proof.Machine
end

section
/-! SUPPORT. What a reply and an event put into the M2H ring, and that a reply is held where the ring has no room. -/

namespace Sys2Proof.Machine

open Sys2Proof

/-! ### What the ring's room and the tick depend on -/

theorem State.m2hRoom_congr {s t : State} (h : ∀ a, a / 0x1000 = 0x2E → t.rd a = s.rd a) : t.m2hRoom = s.m2hRoom := by
  unfold State.m2hRoom State.m2hUp State.m2hFill State.rf State.rn
  rw [h R.mbx_M2H_TAIL (by decide), h R.mbx_M2H_HEAD (by decide), h R.mbx_M2H_CFG (by decide)]

/-- The tick in progress is read from NTM_STAT and the network time block. -/
theorem State.tick32_congr {s t : State} (hr : t.rd R.ntm_NTM_STAT = s.rd R.ntm_NTM_STAT) (hn : t.ntm = s.ntm) : t.tick32 = s.tick32 := by
  unfold State.tick32 State.tick State.holds State.tmState State.rf
  rw [hr, hn]

/-! ### An entry written to the ring (R72, R73) -/

/-- What writing an entry leaves of the mailbox: the entry is the newest written. -/
theorem State.putM2h_mbx (s : State) (o : MbxOut) : (s.putM2h o).mbx = { s.mbx with m2h := o :: s.mbx.m2h } := by
  unfold State.putM2h
  exact State.irq_mbx _ _ _

theorem State.putM2h_regsOnly (s : State) (o : MbxOut) : RegsOnly [R.mbx_M2H_TAIL, hdr .mbx oRaw] s (s.putM2h o) := by
  intro a ha
  simp only [List.mem_cons, List.not_mem_nil, or_false, not_or] at ha
  obtain ⟨htail, hraw⟩ := ha
  unfold State.putM2h
  exact (State.irq_rd_ne _ _ _ hraw).trans (State.rd_wr_ne _ _ htail)

theorem State.putM2h_tail (s : State) (o : MbxOut) : (s.putM2h o).rn R.mbx_M2H_TAIL = (s.rn R.mbx_M2H_TAIL + 1) % 65536 := by
  unfold State.putM2h
  rw [State.rn, State.irq_rd_ne _ _ _ (by decide), State.rd_wr_same, BitVec.toNat_ofNat]
  exact Nat.mod_eq_of_lt (by omega)

/-- A reply raises bit 0 of MBX. -/
theorem State.putM2h_raises (s : State) {o : MbxOut} (h : o.e.flags ≠ 2) : (s.putM2h o).rb (hdr .mbx oRaw) 0 = true := by
  unfold State.putM2h
  simp only [if_neg h]
  exact State.irq_raises _ .mbx (by decide) (by decide)

/-! ### Replies that are held (R79) -/

/-- Without room nothing is written. -/
theorem flushHeld_full (n : Nat) {s : State} (h : s.m2hRoom = false) : flushHeld n s = s := by
  cases n with
  | zero => rfl
  | succ n =>
    unfold flushHeld
    cases s.mbx.held with
    | nil => rfl
    | cons o r => simp only [h, Bool.false_eq_true, if_false]

/-- With room the one reply that is held is written. -/
theorem flushHeld_one {s : State} {o : MbxOut} (hr : s.m2hRoom = true) (hh : s.mbx.held = [o]) :
    flushHeld 1 s = { s with mbx := { s.mbx with held := [] } }.putM2h o := by
  simp only [flushHeld, hh, hr, if_true]

theorem flushHeld_regsOnly (n : Nat) (s : State) : RegsOnly [R.mbx_M2H_TAIL, hdr .mbx oRaw] s (flushHeld n s) := by
  induction n generalizing s with
  | zero => exact fun _ _ => rfl
  | succ n ih =>
    unfold flushHeld
    split
    · exact fun _ _ => rfl
    · next o r _ =>
      split
      · let u : State := { s with mbx := { s.mbx with held := r } }
        have hu : RegsOnly [R.mbx_M2H_TAIL, hdr .mbx oRaw] s u := fun _ _ => rfl
        exact (hu.trans (u.putM2h_regsOnly o)).trans (ih _)
      · exact fun _ _ => rfl

theorem State.reply_regsOnly (s : State) (c : Cmd) (st : Nat) (p d : Bytes) : RegsOnly [R.mbx_M2H_TAIL, hdr .mbx oRaw] s (s.reply c st p d) :=
  fun a ha => flushHeld_regsOnly _ _ a ha

/-- The commands outstanding after a reply are those of other tags. -/
theorem State.reply_taken (s : State) (c : Cmd) (st : Nat) (p d : Bytes) :
    (s.reply c st p d).mbx.taken = s.mbx.taken.filter fun x => x.e.tag != c.e.tag := by
  unfold State.reply State.replyAt State.putReply
  exact flushHeld_taken _ _

/-- The entry of a reply (R73). -/
def State.replyEntry (s : State) (c : Cmd) (st : Nat) (p d : Bytes) : MbxOut :=
  ⟨⟨c.e.opcode, 0, c.e.tag, d.length, st, c.e.addr, s.tick32, slice p 0 32⟩, d⟩

/-- The state with a command no longer outstanding and its reply held. -/
def State.replyHeld (s : State) (c : Cmd) (st : Nat) (p d : Bytes) : State :=
  { s with mbx := { s.mbx with taken := s.mbx.taken.filter (fun x => x.e.tag != c.e.tag), held := s.mbx.held ++ [s.replyEntry c st p d] } }

theorem State.reply_eq (s : State) (c : Cmd) (st : Nat) (p d : Bytes) : s.reply c st p d = flushHeld (s.mbx.held.length + 1) (s.replyHeld c st p d) := rfl

theorem State.reply_full {s : State} (c : Cmd) (st : Nat) (p d : Bytes) (h : s.m2hRoom = false) : s.reply c st p d = s.replyHeld c st p d := by
  rw [State.reply_eq]
  exact flushHeld_full _ h

theorem State.reply_written {s : State} (c : Cmd) (st : Nat) (p d : Bytes) (hr : s.m2hRoom = true) (hh : s.mbx.held = []) :
    s.reply c st p d = { s with mbx := { s.mbx with taken := s.mbx.taken.filter (fun x => x.e.tag != c.e.tag), held := [] } }.putM2h (s.replyEntry c st p d) := by
  rw [State.reply_eq, hh]
  exact flushHeld_one hr (by simp [State.replyHeld, hh])

/-- Settles O34: a reply is held behind those already held, and those held are written while the ring has room. -/
theorem repliesAreWrittenOnceAndCounted : Obligations.RepliesAreWrittenOnceAndCounted := by
  intro s c st p d
  refine ⟨fun x => ?_, s.reply_changes c st p d, s.reply_regsOnly c st p d, fun hr hh => ?_, fun hr => ?_⟩
  · simp [State.reply_taken]
  · rw [State.reply_written c st p d hr hh, State.putM2h_mbx, State.putM2h_tail]
    exact ⟨rfl, rfl, rfl, State.putM2h_raises _ (show 0 ≠ 2 by decide)⟩
  · rw [State.reply_full c st p d hr]
    exact ⟨rfl, rfl, rfl⟩

/-! ### Events (R79) -/

/-- A Ledger record leaves the mailbox, network time and the host's presence. -/
theorem State.logGroup_keeps (s : State) (m : Master) (code sev src : Nat) (l : List (Word × Word × Word)) :
    (s.logGroup m code sev src l).mbx = s.mbx ∧ (s.logGroup m code sev src l).ntm = s.ntm ∧
      (s.logGroup m code sev src l).host.present = s.host.present := by
  obtain ⟨_, _, _, _, e⟩ := s.logGroup_shape m code sev src l
  rw [e]
  exact ⟨rfl, rfl, rfl⟩

/-- An event that finds room in the ring of a host that is present is the newest entry written. -/
theorem State.event_written (s : State) (code src : Nat) (p : Bytes) (hp : s.host.present = true) (hr : s.m2hRoom = true) (hh : s.mbx.held = []) :
    (s.event code src p).mbx = { s.mbx with m2h := ⟨⟨code, 2, 0, 0, 0, 0, s.tick32, slice p 0 32⟩, []⟩ :: s.mbx.m2h } := by
  unfold State.event
  extract_lets t
  obtain ⟨hm, hn, hpres⟩ := s.logGroup_keeps .svc code (Config.eventSev code).val src (paramTriples p.length p)
  have hroom : t.m2hRoom = true := (State.m2hRoom_congr fun a ha => s.logGroup_rd _ _ _ _ _ (by omega)).trans hr
  have htick : t.tick32 = s.tick32 := State.tick32_congr (s.logGroup_rd _ _ _ _ _ (by decide)) hn
  have hheld : t.mbx.held = [] := (congrArg Mbx.held hm).trans hh
  rw [if_neg (by simp [t, hpres, hp]), if_pos (by simp [hroom, hheld]), State.putM2h_mbx, htick, show t.mbx = s.mbx from hm]

theorem State.event_resetDue (s : State) (code src : Nat) (p : Bytes) : (s.event code src p).mbx.resetDue = s.mbx.resetDue := by
  unfold State.event
  extract_lets t
  have hm : t.mbx.resetDue = s.mbx.resetDue := congrArg Mbx.resetDue (s.logGroup_keeps _ _ _ _ _).1
  split
  · exact hm
  · split
    · rw [State.putM2h_mbx]
      exact hm
    · exact hm

end Sys2Proof.Machine
end

section
/-! SUPPORT. What of BAR0 is unmapped, and what an access there leaves. -/

namespace Sys2Proof.Machine

open Sys2Proof

/-! ### The unmapped part of BAR0 (R65, R66) -/

theorem unmapped_iff (a : Nat) : unmapped a = true ↔ blkOfPage (a / 0x1000) = none ∧ isMsix a = false := by
  simp only [unmapped, Bool.and_eq_true, Option.isNone_iff_eq_none, Bool.not_eq_true']

/-- No page lies at 0x2F000 or above. -/
theorem blkOfPage_above {p : Nat} (h : 0x2F ≤ p) : blkOfPage p = none := by
  have last : ∀ b ∈ allBlks, blkBase b / 0x1000 + blkPages b ≤ 0x2F := by decide
  have none : allBlks.find? (fun b => decide (blkBase b / 0x1000 ≤ p) && decide (p < blkBase b / 0x1000 + blkPages b)) = none := by
    rw [List.find?_eq_none]
    intro b hb
    have := last b hb
    simp only [Bool.and_eq_true, decide_eq_true_eq, not_and, Nat.not_lt]
    omega
  rw [blkOfPage, none]
  rfl

/-- The page after those of PWT is empty. -/
theorem unmapped_page5 {a : Nat} (h : 0x5000 ≤ a) (h' : a < 0x6000) : unmapped a = true := by
  have hp : a / 0x1000 = 5 := by omega
  rw [unmapped_iff, hp]
  refine ⟨by decide, ?_⟩
  simp only [isMsix, Bool.or_eq_false_iff, Bool.and_eq_false_iff, decide_eq_false_iff_not]
  omega

theorem unmapped_above {a : Nat} (h : 0x2F000 ≤ a) (hx : isMsix a = false) : unmapped a = true :=
  (unmapped_iff a).mpr ⟨blkOfPage_above (by omega), hx⟩

/-! ### An access there -/

theorem exec_unmappedAccess {m : Master} (wr : Bool) {addr a : Nat} (v : Word) {s : State} (ha : busOff m addr = some a) (hu : unmapped a = true)
    (hr : s.inReset .sys = false) (hw : m = .host → s.hostWaits = false) :
    exec (.unmappedAccess m wr addr v) s = .next ((s.sysErr eUnmapped a m).answer (if wr then .done else .data 0)) := by
  simp only [exec, execUnmappedAccess, ha, hu, if_true, State.barReq_passes hw, State.unmappedAccess, hr, Bool.false_eq_true, if_false]

/-- ERR_ADDR shows an address of BAR0 in its low word. -/
theorem State.sysErr_addrWords (s : State) (code : Nat) {a : Nat} (m : Master) (h : a < 2 ^ 32) :
    (s.sysErr code a m).rd R.sys_ERR_ADDR_LO = w32 a ∧ (s.sysErr code a m).rd R.sys_ERR_ADDR_HI = 0 := by
  refine ⟨(State.rd_wr_ne _ _ (by decide)).trans (State.rd_wr_same _ _ _), (State.rd_wr_same _ _ _).trans ?_⟩
  rw [Nat.div_eq_of_lt h]
  rfl

/-- An error of SYS shows its address past the header alone. -/
theorem State.sysErr_rd_hdr (s : State) (code a : Nat) (m : Master) {off : Nat} (h : off < 0x40) :
    (s.sysErr code a m).rd (hdr .sys off) = (s.err .sys code (a % 0x1000) m).rd (hdr .sys off) := by
  have hp : hdr .sys off < 0x40 := by simpa [hdr, blkBase] using h
  have hlo : hdr .sys off ≠ R.sys_ERR_ADDR_LO := fun e => absurd (e ▸ hp) (by decide)
  have hhi : hdr .sys off ≠ R.sys_ERR_ADDR_HI := fun e => absurd (e ▸ hp) (by decide)
  exact (State.rd_wr_ne _ _ hhi).trans (State.rd_wr_ne _ _ hlo)

/-- Settles O27: the page table for what is unmapped, and the error of SYS that an access there records. -/
theorem unmappedAccessesAreRecorded : Obligations.UnmappedAccessesAreRecorded := by
  refine ⟨unmapped_iff, fun a => unmapped_page5, fun a => unmapped_above, fun m wr addr a v s ha hlt hu hr hw => ?_⟩
  obtain ⟨hlo, hhi⟩ := s.sysErr_addrWords eUnmapped m (Nat.lt_trans hlt (by decide))
  refine ⟨_, exec_unmappedAccess wr v ha hu hr hw, rfl, hlo, hhi, fun h => ?_, ?_, s.sysErr_regsOnly _ a m,
    (s.sysErr_changes _ a m).answer _ (by simp) (by simp)⟩
  · refine (s.sysErr_rd_hdr eUnmapped a m (by decide)).trans ?_
    rw [State.err_first _ _ _ _ _ h, Nat.mod_mod, show eUnmapped % 256 = 0x11 from rfl]
  · exact (congrArg (tst · 31) (s.sysErr_rd_hdr eUnmapped a m (by decide))).trans (s.err_raises _ _ _ _)

end Sys2Proof.Machine
end

section
/-! SUPPORT. The interrupt registers and the lock of a page, the vectors, and a block reset. -/

namespace Sys2Proof.Machine

open Sys2Proof

/-! ### Writes of header registers on an open page (R64, R67, R71) -/

section
variable {m : Master} {b : Blk} {s : State}

theorem State.hdrReq_open (h : PageOpen s b m) {off : Nat} (hd : s.hostDenied b m off = false) (v : Word) (f : State → State) :
    s.hdrReq b off m v f = (f s).answer .done := by
  unfold State.hdrReq
  rw [State.barReq_open h, State.pageWrite_open h hd]

theorem exec_irqClear (v : Word) (h : PageOpen s b m) (hd : s.hostDenied b m oRaw = false) :
    exec (.irqClear m b v) s = .next ((s.irqClear b v).answer .done) := congrArg _ (State.hdrReq_open h hd v _)

theorem exec_irqForce (v : Word) (h : PageOpen s b m) (hd : s.hostDenied b m 0x2C = false) :
    exec (.irqForce m b v) s = .next ((s.irqBits b v).answer .done) := congrArg _ (State.hdrReq_open h hd v _)

/-- Where approved mode closes the page to the host the write is recorded as SRC_DENIED (R384). -/
theorem exec_irqForce_denied (v : Word) (h : PageOpen s b m) (hd : s.hostDenied b m 0x2C = true) :
    exec (.irqForce m b v) s = .next ((s.err b 0x80 0x2C m).answer .done) := by
  simp only [exec, execIrqForce, State.hdrReq, State.barReq_open h, State.pageWrite, State.onPage_open h, hd, if_true]

theorem exec_pageLock (v : Word) (h : PageOpen s b m) (hd : s.hostDenied b m oLock = false) (hv : tst v 0 = true) :
    exec (.pageLock m b v) s = .next ((s.wb (hdr b oLock) 0 true).answer .done) := by
  simp only [exec, execPageLock, State.hdrReq_open h hd, hv, if_true]

theorem exec_pageRstReq (h : PageOpen s b m) : exec (.pageRstReq m b) s = .next ((s.blockReset b).answer .done).hostFlush := by
  simp only [exec, execPageRstReq, State.writeAt_open h]

end

theorem State.irqClear_rd_raw (s : State) (b : Blk) (v : Word) : (s.irqClear b v).rd (hdr b oRaw) = s.rd (hdr b oRaw) &&& ~~~v :=
  (fireHolding_rd _ _ _ _).trans (State.rd_wr_same _ _ _)

theorem State.irqClear_regsOnly (s : State) (b : Blk) (v : Word) : RegsOnly [hdr b oRaw] s (s.irqClear b v) :=
  fun a ha => (fireHolding_rd _ _ _ _).trans (RegsOnly.wr s _ _ a ha)

theorem State.irqClear_changes (s : State) (b : Blk) (v : Word) : ChangesOnly [.regs, .out, .pba] s (s.irqClear b v) :=
  (goes_irqClear s b v rfl (.refl _ s)).1

theorem State.irqBits_regsOnly (s : State) (b : Blk) (v : Word) : RegsOnly [hdr b oRaw] s (s.irqBits b v) :=
  fun _ ha => s.irqBits_rd_ne b v (by simpa using ha)

theorem State.irqBits_changes (s : State) (b : Blk) (v : Word) : ChangesOnly [.regs, .out, .pba] s (s.irqBits b v) :=
  (goes_irqBits s b v rfl (.refl _ s)).1

/-! ### Vectors (R63, R64) -/

theorem fireSw_rd (old new : Word) (l : List Nat) (s : State) (a : Nat) : (fireSw old new l s).rd a = s.rd a :=
  (goes_fireSw old new l s rfl (.refl [.out, .pba] s)).rd (by decide) (by decide) a

theorem exec_swIrqSet {m : Master} {s : State} (v : Word) (h : PageOpen s .sys m) : exec (.swIrqSet m v) s = .next ((s.swIrqSet v).answer .done) :=
  congrArg _ (State.writeAt_open h _ _ _)

theorem State.swIrqSet_pend (s : State) (v : Word) : (s.swIrqSet v).rd R.sys_SW_IRQ_PEND = s.rd R.sys_SW_IRQ_PEND ||| (v &&& 0x3FF) :=
  (fireSw_rd _ _ _ _ _).trans (State.rd_wr_same _ _ _)

theorem State.swIrqSet_regsOnly (s : State) (v : Word) : RegsOnly [R.sys_SW_IRQ_PEND] s (s.swIrqSet v) :=
  fun a ha => (fireSw_rd _ _ _ _ _).trans (RegsOnly.wr s _ _ a ha)

theorem State.fireVec_unmasked {s : State} {n : Nat} (h : s.rb (msixCtl n) 0 = false) : s.fireVec n = s.emit (.msi n) := by
  simp only [State.fireVec, h, Bool.false_eq_true, if_false]

theorem State.fireVec_masked {s : State} {n : Nat} (h : s.rb (msixCtl n) 0 = true) :
    s.fireVec n = { s with host := { s.host with pba := s.host.pba ||| BitVec.ofNat 64 (2 ^ n) } } := by
  simp only [State.fireVec, h, if_true]

/-- A masked vector has its PBA bit set, and no more. -/
theorem State.fireVec_pba {s : State} {n : Nat} (h : s.rb (msixCtl n) 0 = true) (hn : n < 64) :
    (s.fireVec n).host.pba.getLsbD n = true ∧ ChangesOnly [.pba] s (s.fireVec n) := by
  rw [State.fireVec_masked h]
  refine ⟨?_, fun p hp => ?_⟩
  · rw [BitVec.getLsbD_or, BitVec.getLsbD_ofNat, Nat.testBit_two_pow_self, decide_eq_true hn, Bool.true_and, Bool.or_true]
  cases p with
  | pba => exact absurd List.mem_cons_self hp
  | _ => rfl

/-! ### A block reset (R47-R50) -/

theorem State.setDrained_pages {ps : List Nat} (s : State) {b : Blk} (h : blkBase b / 0x1000 ∈ ps) : PagesOnly ps s (s.setDrained b) := by
  have hs : hdr b oStat / 0x1000 ∈ ps := by rwa [hdr_page b (by decide)]
  exact .ite (.refl ps s) ((s.wb_pages 1 true hs).trans (State.irq_pages _ 30 h))

theorem State.contIdle_pages (s : State) : PagesOnly [0x27] s s.contIdle := by
  have hu : PagesOnly [0x27] s { s with fsw := { s.fsw with seq := none } } := .set rfl rfl
  rcases s.contIdle_cases with h | ⟨_, _, h⟩ <;> rw [h]
  · exact hu
  · exact hu.trans ((State.wb_pages _ 8 false (by decide)).trans (State.setDrained_pages _ (by decide)))

theorem State.contStep_pages (s : State) (p : Nat) : PagesOnly [0x27] s (s.contStep p) := by
  by_cases h : s.contTodo = []
  · rw [State.contStep_none p h]
    exact s.contIdle_pages
  · obtain ⟨i, _, _, e⟩ := State.contStep_some p h
    have hc : PagesOnly [0x27] s (s.setCont i (s.contTarget i)) := fun a _ => s.setCont_rd i _ a
    rcases e with e | e <;> rw [e]
    · exact hc.trans (State.contIdle_pages _)
    · exact hc.trans (.set rfl rfl)

/-- The pages that what a block sets after its reset can write: of LNK, BCN, NTM, LVL, FSW and MBX. -/
def afterPages : List Nat := [0x19, 0x1B, 0x1C, 0x1F, 0x27, 0x2E]

theorem State.contFollow_pages (s : State) : PagesOnly afterPages s s.contFollow :=
  .ite (.refl _ s) ((s.contStep_pages 0).mono (by decide))

theorem State.sendCtr_pages (s : State) {i : Nat} (v : Nat) (h : i < 3) : PagesOnly afterPages s (s.sendCtr i v) := by
  have all : ∀ i < 3, ctrReg i / 0x1000 ∈ afterPages := by decide
  have ht := s.wr_pages (w32 (min v 0xFFFFFFFF)) (all i h)
  exact .ite (ht.trans (State.irq_pages _ 2 (by decide))) ht

theorem State.ctrResume_pages (s : State) {i : Nat} (h : i < 3) : PagesOnly afterPages s (s.ctrResume i) :=
  PagesOnly.trans (.set rfl rfl) (State.sendCtr_pages _ _ h)

theorem State.lnkReset_pages (s : State) : PagesOnly afterPages s s.lnkReset := by
  have step {i : Nat} (h : i < 3) {t : State} (ht : PagesOnly afterPages s t) : PagesOnly afterPages s (t.ctrResume i) := ht.trans (t.ctrResume_pages h)
  exact step (by decide) (step (by decide) (step (by decide) (.set rfl rfl)))

theorem State.setBcn_pages (s : State) (st m : Nat) : PagesOnly afterPages s (s.setBcn st m) := by
  have ht := (s.wf_pages 0 3 st (a := R.bcn_BCN_STAT) (by decide)).trans (State.wf_pages (ps := afterPages) _ 4 4 (min m 15) (a := R.bcn_BCN_STAT) (by decide))
  exact .ite (ht.trans (State.irq_pages _ 2 (by decide))) ht

theorem State.bcnReset_pages (s : State) : PagesOnly afterPages s s.bcnReset := PagesOnly.trans (.set rfl rfl) (State.setBcn_pages _ 0 0)

theorem State.reply_pages (s : State) (c : Cmd) (st : Nat) (p d : Bytes) : PagesOnly [0x2E] s (s.reply c st p d) :=
  fun _ ha => s.reply_rd c st p d (by simpa using ha)

theorem State.todReply_pages (s : State) (st : Nat) (p : Bytes) : PagesOnly [0x2E] s (s.todReply st p) := by
  unfold State.todReply
  split
  · exact .refl _ s
  · extract_lets u
    split
    · exact PagesOnly.trans (.set rfl rfl) (State.reply_pages _ _ _ _ _)
    · exact .set rfl rfl

theorem State.ntmReset_pages (s : State) (st : Nat) : PagesOnly afterPages s (s.ntmReset st) :=
  ((s.todReply_pages _ _).mono (by decide)).trans ((State.wf_pages _ _ _ _ (by decide)).trans (.set rfl rfl))

theorem State.ringAfterReset_pages (s : State) (st : Nat) : PagesOnly afterPages s (s.ringAfterReset st) := by
  unfold State.ringAfterReset
  split
  · exact .ite (s.wf_pages _ _ _ (by decide)) (.refl _ s)
  · exact .refl _ s

theorem State.blkAfter_pages (s : State) (b : Blk) (tm ring : Nat) : PagesOnly afterPages s (s.blkAfter b tm ring) := by
  cases b with
  | lnk => exact s.lnkReset_pages
  | bcn => exact s.bcnReset_pages
  | ntm => exact s.ntmReset_pages tm
  | lvl => exact s.ringAfterReset_pages ring
  | fsw => exact s.contFollow_pages
  | _ => exact .refl _ s

theorem State.blkAfter_inReset (s : State) (b : Blk) (tm ring : Nat) (c : Blk) : (s.blkAfter b tm ring).inReset c = s.inReset c :=
  State.inReset_of_bitmaps (s.blkAfter_pages b tm ring _ (by decide)) (s.blkAfter_pages b tm ring _ (by decide))
    ((goes_blkAfter s b tm ring rfl (.refl [.regs, .out, .mbx, .ntm, .lnk, .bcn, .fsw, .pba] s)).1 .boot (by decide)) c

theorem State.setRstBit_sets (s : State) {b : Blk} {i : Nat} (h : blkBit b = some i) : (s.setRstBit R.rst_BLK_IN_RESET_A i true).inReset b = true := by
  have hi : i < 34 := by
    cases b <;> simp only [blkBit, Option.some.injEq, reduceCtorEq] at h <;> omega
  simp only [State.inReset, h]
  unfold State.setRstBit
  split
  · exact s.wb_rb_same _ true (by omega)
  · exact s.wb_rb_same _ true (by omega)

/-- A block that can be reset alone is in reset after its reset; the others are never put into one. -/
theorem State.blockReset_inReset {s : State} {b : Blk} (h : s.inReset b = false) : (s.blockReset b).inReset b = (blkBit b).isSome := by
  unfold State.blockReset
  cases hb : blkBit b with
  | none => exact h
  | some i =>
    simp only [h, Bool.false_eq_true, if_false, State.blkAfter_inReset, State.setRstBit_sets _ hb, Option.isSome_some]

end Sys2Proof.Machine
end

section
/-! SUPPORT. The requests of the host that wait are left by what goes on outside the endpoint; and the headers of the pages. -/

namespace Sys2Proof.Machine

open Sys2Proof

/-! ### The requests that wait (R104) -/

/-- The parts of the state that lie outside the endpoint. -/
def offHost : List Part :=
  [.regs, .out, .resp, .free, .cnt, .edgeCnt, .netEdge, .mbx, .mkt, .que, .chk, .ldg, .ntm, .mem, .nvs, .emc, .boot, .pwt, .vlt, .cry, .rad, .chn, .lnk,
   .bcn, .net, .cor, .lvl, .fsw, .port, .drg, .scl, .nrg, .ibg, .rmc, .fov, .upd, .pba]

/-- What changes no part of the endpoint leaves the requests that wait. -/
theorem Goes.bar0Held {s t : State} (h : Goes offHost s t) : t.host.bar0Held = s.host.bar0Held := by
  have e : { t.host with pba := 0 } = { s.host with pba := 0 } := h.1 .host (by decide)
  exact (congrArg HostIf.bar0Held e :)

theorem State.hostGone_bar0Held (s : State) : s.hostGone.host.bar0Held = s.host.bar0Held :=
  (goes_ledger _ _ _ _ _ _ _ rfl (.refl offHost _)).bar0Held.trans ((goes_hostWaresBack _ rfl (.refl offHost _)).bar0Held.trans rfl)

theorem State.hostBack_bar0Held (s : State) : s.hostBack.host.bar0Held = s.host.bar0Held := by
  unfold State.hostBack
  simp only []
  split
  · rfl
  · exact (goes_event _ _ _ _ rfl (.refl offHost _)).bar0Held

theorem State.hostUpdate_bar0Held (s : State) : s.hostUpdate.host.bar0Held = s.host.bar0Held := by
  unfold State.hostUpdate
  split
  · exact s.hostGone_bar0Held
  · split
    · exact s.hostBack_bar0Held
    · rfl

theorem State.mbxReset_bar0Held (s : State) : s.mbxReset.host.bar0Held = s.host.bar0Held := by
  unfold State.mbxReset
  simp only []
  split
  · exact State.hostGone_bar0Held _
  · rfl

theorem State.blkWork_bar0Held (s : State) (b : Blk) : (s.blkWork b).host.bar0Held = s.host.bar0Held := by
  have h := Goes.refl offHost s
  cases b with
  | mbx => exact s.mbxReset_bar0Held
  | mkt => exact (goes_mktReset s rfl h).bar0Held
  | lane n => exact (goes_laneReset s n.val rfl h).bar0Held
  | que => exact (goes_queReset s rfl h).bar0Held
  | rad n => exact (goes_radReset _ n.val rfl (goes_rxAbort s n.val rfl h)).bar0Held
  | chn => exact (goes_chnReset s rfl h).bar0Held
  | cor => exact (goes_corReset s rfl h).bar0Held
  | lvl => exact (goes_lvlReset s rfl h).bar0Held
  | drv n => exact (goes_drvReset s n.val rfl h).bar0Held
  | drg => exact (goes_drgReset s rfl h).bar0Held
  | scl => exact (goes_sclReset _ rfl (goes_sclTail s rfl h)).bar0Held
  | vlt => exact (goes_vltReset s rfl h).bar0Held
  | ldg => exact (goes_ldgReset s rfl h).bar0Held
  | ibg => exact (goes_ibgReset s rfl h).bar0Held
  | fov => exact (goes_fovReset s rfl h).bar0Held
  | upd => exact (goes_updReset s rfl h).bar0Held
  | lnk => exact (goes_lnkDisable _ rfl (goes_lnkKill s rfl h)).bar0Held
  | _ => rfl

theorem State.blockReset_bar0Held (s : State) (b : Blk) : (s.blockReset b).host.bar0Held = s.host.bar0Held := by
  have bit (t : State) (a i : Nat) (v : Bool) : (t.setRstBit a i v).host.bar0Held = t.host.bar0Held := (goes_setRstBit t a i v rfl (.refl offHost t)).bar0Held
  have after (t : State) (tm ring : Nat) : (t.blkAfter b tm ring).host.bar0Held = t.host.bar0Held := (goes_blkAfter t b tm ring rfl (.refl offHost t)).bar0Held
  unfold State.blockReset
  split
  · rfl
  · extract_lets p tm ring u w
    split
    · exact bit s _ _ _
    · exact (after _ tm ring).trans ((bit w _ _ _).trans ((p.blkWork_bar0Held b).trans (bit s _ _ _)))

/-- Settles O31: each access runs its one update on the open page, and the reset puts its block into reset. -/
theorem pageHeadersAreWritten : Obligations.PageHeadersAreWritten := by
  refine ⟨?clear, ?force, ?lock, ?reset, ?software, ?vector, ?denied⟩
  case clear =>
    intro m b v s h hd
    exact ⟨_, exec_irqClear v h hd, rfl, s.irqClear_rd_raw b v, s.irqClear_regsOnly b v, (s.irqClear_changes b v).answer _ (by simp) (by simp)⟩
  case force =>
    intro m b v s h hd
    exact ⟨_, exec_irqForce v h hd, rfl, s.irqBits_rd_raw b v, s.irqBits_regsOnly b v, (s.irqBits_changes b v).answer _ (by simp) (by simp)⟩
  case lock =>
    intro m b v s h hd hv
    exact ⟨_, exec_pageLock v h hd hv, s.wb_rb_same _ true (by decide), RegsOnly.wr _ _ _, (s.wr_changes _ _).answer _ (by simp) (by simp)⟩
  case reset =>
    intro m b s h
    refine ⟨exec_pageRstReq h, fun hb => ⟨_, exec_pageRstReq h, ?_, ?_, ?_⟩⟩
    all_goals rw [State.hostFlush_none (s := (s.blockReset b).answer .done) ((s.blockReset_bar0Held b).trans hb)]
    · exact State.blockReset_inReset h.1
    · rfl
  case software =>
    intro m v s h
    exact ⟨_, exec_swIrqSet v h, rfl, s.swIrqSet_pend v, s.swIrqSet_regsOnly v,
      ChangesOnly.answer (goes_swIrqSet s v rfl (.refl [.regs, .out, .pba] s)).1 _ (by simp) (by simp)⟩
  case vector => exact fun s n => ⟨State.fireVec_unmasked, State.fireVec_pba⟩
  case denied => exact fun m b v s h hd => exec_irqForce_denied v h hd

end Sys2Proof.Machine
end

section
/-! SUPPORT. The mailbox: the doorbell, the taking of commands, NOP and INFO, and the events that are due. -/

namespace Sys2Proof.Machine

open Sys2Proof

/-! ### The doorbell (R72) -/

section
variable {m : Master} {v : Word} {s : State}

theorem exec_mbxDoorbell (h : PageOpen s .mbx m) : exec (.mbxDoorbell m v) s = .next ((s.doorbell m v).answer .done) :=
  congrArg _ (State.writeAt_open h _ _ _)

theorem ringUp_of {n : Nat} (h : 4 ≤ n) (h' : n ≤ 10) : ringUp n = true := by simp [ringUp, h, h']

/-- A tail that the ring has room for is stored. -/
theorem State.doorbell_stores (hr : ringUp (s.rf R.mbx_H2M_CFG 0 4) = true)
    (hd : (fld v 0 16 + 65536 - s.rf R.mbx_H2M_HEAD 0 16) % 65536 ≤ 2 ^ s.rf R.mbx_H2M_CFG 0 4) : s.doorbell m v = s.wr R.mbx_H2M_TAIL (v &&& 0xFFFF) := by
  simp only [State.doorbell, hr, if_true, Nat.not_lt.mpr hd, if_false]

/-- A tail beyond the ring's size is recorded as BAD_VALUE. -/
theorem State.doorbell_refuses (hr : ringUp (s.rf R.mbx_H2M_CFG 0 4) = true)
    (hd : 2 ^ s.rf R.mbx_H2M_CFG 0 4 < (fld v 0 16 + 65536 - s.rf R.mbx_H2M_HEAD 0 16) % 65536) : s.doorbell m v = s.err .mbx eBadValue 0x4C m := by
  simp only [State.doorbell, hr, if_true, hd]

/-- The low half of a word is its field of sixteen bits. -/
theorem fld_low_half (v : Word) : fld (v &&& 0xFFFF) 0 16 = fld v 0 16 := by
  have h : (v &&& 0xFFFF).toNat = v.toNat % 2 ^ 16 := (BitVec.toNat_and v 0xFFFF).trans (Nat.and_two_pow_sub_one_eq_mod _ 16)
  simp only [fld, h, Nat.pow_zero, Nat.div_one, Nat.mod_mod]

end

/-! ### Taking a command (R72, R74, R76) -/

theorem State.fetchEntry_rd (s : State) (e : MbxEntry) (a : Nat) : (s.fetchEntry e).rd a = s.rd a := by
  unfold State.fetchEntry
  split <;> rfl

theorem State.fetchEntry_mbx (s : State) (e : MbxEntry) : (s.fetchEntry e).mbx = s.mbx := by
  unfold State.fetchEntry
  split <;> rfl

theorem State.fetchEntry_ntm (s : State) (e : MbxEntry) : (s.fetchEntry e).ntm = s.ntm := by
  unfold State.fetchEntry
  split <;> rfl

/-- A command of an entry as it is taken. -/
def State.cmdOf (s : State) (e : MbxEntry) (data : Option Bytes) : Cmd := ⟨e, data, s.tick32, false⟩

/-- The state with an entry fetched and its command outstanding. -/
def State.withTaken (s : State) (e : MbxEntry) (data : Option Bytes) : State :=
  { (s.fetchEntry e).wr R.mbx_H2M_HEAD (w32 ((s.rf R.mbx_H2M_HEAD 0 16 + 1) % 65536)) with mbx := { s.mbx with taken := s.mbx.taken ++ [s.cmdOf e data] } }

theorem State.takeCmd_eq (s : State) (e : MbxEntry) (data : Option Bytes) : s.takeCmd e data =
    if !mbxOpcodes.contains e.opcode then (s.withTaken e data).reply (s.cmdOf e data) stBadOpcode [] []
    else if 1048576 < e.length then (s.withTaken e data).reply (s.cmdOf e data) stBadLength [] []
    else s.withTaken e data := by
  have hhead : (s.fetchEntry e).rf R.mbx_H2M_HEAD 0 16 = s.rf R.mbx_H2M_HEAD 0 16 := congrArg (fld · 0 16) (s.fetchEntry_rd e _)
  have htick (n : Nat) : ((s.fetchEntry e).wr R.mbx_H2M_HEAD (w32 n)).tick32 = s.tick32 :=
    State.tick32_congr ((State.rd_wr_ne _ _ (by decide)).trans (s.fetchEntry_rd e _)) (s.fetchEntry_ntm e)
  unfold State.takeCmd
  simp only [hhead, htick, State.wr_mbx, s.fetchEntry_mbx e]
  rfl

theorem State.withTaken_head (s : State) (e : MbxEntry) (data : Option Bytes) :
    (s.withTaken e data).rn R.mbx_H2M_HEAD = (s.rf R.mbx_H2M_HEAD 0 16 + 1) % 65536 := by
  have h : (s.withTaken e data).rd R.mbx_H2M_HEAD = w32 ((s.rf R.mbx_H2M_HEAD 0 16 + 1) % 65536) := State.rd_wr_same _ _ _
  rw [State.rn, h, BitVec.toNat_ofNat]
  exact Nat.mod_eq_of_lt (by omega)

/-- A reply leaves H2M_HEAD. -/
theorem State.reply_head (s : State) (c : Cmd) (st : Nat) (p d : Bytes) : (s.reply c st p d).rn R.mbx_H2M_HEAD = s.rn R.mbx_H2M_HEAD :=
  congrArg BitVec.toNat (s.reply_regsOnly c st p d _ (by decide))

theorem State.mayTake_of {s : State} (ht : s.takes .mbx = true) (hp : s.host.present = true) (hn : s.rf R.mbx_H2M_HEAD 0 16 ≠ s.rf R.mbx_H2M_TAIL 0 16)
    (ho : s.mbx.taken.length + s.mbx.held.length < 64) (hr : s.m2hRoom = true) : s.mayTake = true := by
  simp [State.mayTake, State.outstanding, ht, hp, hr, hn, ho]

theorem exec_mbxCommandTake {s : State} (raw : Bytes) (data : Option Bytes) (h : s.mayTake = true) :
    exec (.mbxCommandTake raw data) s = .next (s.takeCmd (entryOf raw) data) := congrArg _ (if_pos h)

theorem exec_mbxCommandTake_none {s : State} (raw : Bytes) (data : Option Bytes) (h : s.mayTake = false) :
    exec (.mbxCommandTake raw data) s = .next s := congrArg _ (if_neg (by simp [h]))

/-! ### NOP and INFO (R76) -/

theorem exec_nop {s : State} {tag : Word} {k : Cmd} (h : Ready s 0x0000 tag k) : exec (.nop tag) s = .next (s.reply k stOk k.e.param []) :=
  congrArg Host.Outcome.next (State.withCmd_ready h _)

/-- The answer of INFO: the module word of the revision and the variant, the identity, the running version, the role and the segment. -/
def State.infoParam (s : State) : Bytes :=
  toLe 4 ((if s.modId.variantB then 0xB else 0xA) + 0xA100 + s.modId.boardRev.toNat * 2 ^ 16) ++ toLe 8 s.modId.ident.toNat ++
    toLe 4 (s.upd.runVer.getD 0).toNat ++ toLe 4 (s.rn R.rst_ROLE) ++ toLe 2 s.net.seg

theorem State.moduleWord_toNat (s : State) :
    ((s.sysRead 0x40).getD (s.rd 0x40)).toNat = (if s.modId.variantB then 0xB else 0xA) + 0xA100 + s.modId.boardRev.toNat * 2 ^ 16 := by
  have h : (if s.modId.variantB then 0xB else 0xA) ≤ 0xB := by split <;> decide
  have hb := s.modId.boardRev.isLt
  exact (BitVec.toNat_ofNat _ _).trans (Nat.mod_eq_of_lt (by omega))

theorem exec_info {s : State} {tag : Word} {k : Cmd} (h : Ready s 0x0001 tag k) : exec (.info tag) s = .next (s.reply k stOk s.infoParam []) := by
  rw [State.infoParam, ← State.moduleWord_toNat]
  exact congrArg Host.Outcome.next (State.withCmd_ready h _)

/-! ### Events that are due (R78, R79) -/

section
variable {s : State} (code src : Nat) (p : Bytes) (hp : s.host.present = true) (hr : s.m2hRoom = true) (hh : s.mbx.held = [])
include hp hr hh

/-- An event that finds room is the newest entry of the ring. -/
theorem State.event_newest : (s.event code src p).mbx.m2h.head?.map (fun o => (o.e.opcode, o.e.flags)) = some (code, 2) := by
  rw [State.event_written s code src p hp hr hh]
  rfl

/-- An event that finds room is not counted as lost. -/
theorem State.event_evtLost : (s.event code src p).mbx.evtLost = s.mbx.evtLost := by
  rw [State.event_written s code src p hp hr hh]

end

theorem exec_mbxReset {s : State} (hd : s.mbx.resetDue = true) (hp : s.host.present = true) (hr : s.m2hRoom = true) (hs : s.mbx.seenDue = false) :
    exec .mbxReset s = .next (({ s with mbx := { s.mbx with resetDue := false, seenDue := false } } : State).event 0xF000 0x1E0
      (toLe 4 (s.rn R.mbx_MBX_EPOCH) ++ toLe 2 (s.rn R.mbx_H2M_HEAD))) := by
  simp only [exec, execMbxReset, State.mbxResetEvent, hd, hp, hr, hs, Bool.not_true, Bool.or_self, Bool.false_eq_true, if_false]
  rfl

theorem exec_eventsLost {s : State} (hl : s.mbx.evtLost ≠ 0) (hp : s.host.present = true) (hr : s.m2hRoom = true) (hh : s.mbx.held = []) :
    exec .eventsLost s = .next (({ s with mbx := { s.mbx with evtLost := 0 } } : State).event 0xF001 0x1E0 (toLe 1 s.mbx.evtLost)) := by
  simp only [exec, execEventsLost, State.eventsLost, hl, hp, hr, hh, Bool.not_true, List.isEmpty_nil, Bool.or_self, decide_false, Bool.false_eq_true, if_false]

/-- Settles O35: each command is computed on a state that lets it run, and each event that finds room is the newest entry. -/
theorem mailboxTakesCommands : Obligations.MailboxTakesCommands := by
  refine ⟨?doorbell, ?take, fun raw data s h => exec_mbxCommandTake_none raw data h, ?nop, ?info, ?reset, ?lost⟩
  case doorbell =>
    intro m v s h n d
    refine ⟨fun h4 h10 hd => ⟨_, exec_mbxDoorbell h, ?_, ?_, rfl⟩, fun h4 h10 hd => ?_⟩
    · rw [State.doorbell_stores (ringUp_of h4 h10) hd]
    · rw [State.doorbell_stores (ringUp_of h4 h10) hd]
      exact (congrArg (fld · 0 16) (State.rd_wr_same _ _ _)).trans (fld_low_half v)
    · rw [exec_mbxDoorbell h, State.doorbell_refuses (ringUp_of h4 h10) hd]
  case take =>
    intro raw data s ht hp hn ho hr e c n u
    have hx := exec_mbxCommandTake raw data (State.mayTake_of ht hp hn ho hr)
    rw [State.takeCmd_eq] at hx
    have hhead : u.rn R.mbx_H2M_HEAD = n := s.withTaken_head e data
    refine ⟨fun hop hlen => ?_, fun hop => ?_, fun hop hlen => ?_⟩
    · rw [if_neg (by simpa using hop), if_neg (Nat.not_lt.mpr hlen)] at hx
      exact ⟨_, hx, rfl, rfl, hhead⟩
    · rw [if_pos (by simpa using hop)] at hx
      exact ⟨_, hx, rfl, u.reply_ended c _ _ _, (u.reply_head c _ _ _).trans hhead⟩
    · rw [if_neg (by simpa using hop), if_pos hlen] at hx
      exact ⟨_, hx, rfl, u.reply_ended c _ _ _, (u.reply_head c _ _ _).trans hhead⟩
  case nop =>
    exact fun tag k s h => ⟨_, exec_nop h, rfl, s.reply_ended k _ _ _⟩
  case info =>
    exact fun tag k s h => ⟨_, exec_info h, rfl, s.reply_ended k _ _ _⟩
  case reset =>
    intro s hd hp hr hs
    exact ⟨_, exec_mbxReset hd hp hr hs, rfl, State.event_resetDue _ _ _ _, fun hh => State.event_newest _ _ _ hp hr hh⟩
  case lost =>
    intro s hl hp hr hh
    exact ⟨_, exec_eventsLost hl hp hr hh, rfl, State.event_evtLost _ _ _ hp hr hh, State.event_newest _ _ _ hp hr hh⟩

end Sys2Proof.Machine
end

section
/-! SUPPORT. The aperture: its commit, the accesses that wait for the switch, and what an access at the base in force answers. -/

namespace Sys2Proof.Machine

open Sys2Proof

/-! ### The commit (R61) -/

section
variable {m : Master} {v : Word} {s : State}

theorem exec_aptCommit (h : PageOpen s .sys m) : exec (.aptCommit m v) s = .next ((s.aptCommit m v).answer .done) :=
  congrArg Host.Outcome.next (State.writeAt_open h _ _ _)

/-- A base whose 256 MiB end within the 7 GiB waits for its switch. -/
theorem State.aptCommit_taken (hv : tst v 0 = true) (hn : s.host.aptNext = none) (hb : s.aptStaged + 0x10000000 ≤ 0x1C0000000) :
    s.aptCommit m v = { s with host := { s.host with aptNext := some s.aptStaged } } := by
  simp only [State.aptCommit, hv, hn, Nat.not_lt.mpr hb, Bool.not_true, Bool.false_eq_true, if_false, Option.isSome_none]

/-- A larger base is rejected, and the base in force stays. -/
theorem State.aptCommit_rejected (hv : tst v 0 = true) (hn : s.host.aptNext = none) (hb : 0x1C0000000 < s.aptStaged + 0x10000000) :
    s.aptCommit m v = (s.wb R.sys_APT_STAT 1 true).err .sys eBadValue 0x58 m := by
  simp only [State.aptCommit, hv, hn, hb, Bool.not_true, Bool.false_eq_true, if_false, if_true, Option.isSome_none]

/-- While a base waits for its switch, a commit is refused as BUSY. -/
theorem State.aptCommit_busy {b : Nat} (hv : tst v 0 = true) (hn : s.host.aptNext = some b) : s.aptCommit m v = s.err .sys eBusy 0x58 m := by
  simp only [State.aptCommit, hv, hn, Bool.not_true, Bool.false_eq_true, if_false, if_true, Option.isSome_some]

end

/-- The base is in units of 1 MiB: bits 19 to 0 are not kept. -/
theorem State.aptStaged_aligned (s : State) : s.aptStaged % 2 ^ 20 = 0 := by
  unfold State.aptStaged
  omega

/-! ### Accesses through BAR2 (R61, R62, R132) -/

section
variable {s : State}

theorem exec_bar2Access_held (a : Bar2Access) (h : s.host.aptNext.isSome = true) :
    exec (.bar2Access a) s = .next (({ s with host := { s.host with aptHeld := s.host.aptHeld ++ [a] } } : State).answer .stalled) :=
  congrArg Host.Outcome.next (if_pos h)

theorem exec_bar2Access_served (a : Bar2Access) (h : s.host.aptNext = none) :
    exec (.bar2Access a) s = .next (((s.bar2Serve a).1.answer (s.bar2Serve a).2).critReset) :=
  congrArg Host.Outcome.next (if_neg (by simp [h]))

theorem State.critReset_none (h : s.mem.crit = none) : s.critReset = s := by
  simp only [State.critReset, h]

/-- With no critical memory error kept, an access is served and no reset follows it. -/
theorem exec_bar2Access_of {a : Bar2Access} {t : State} {r : Resp} (h : s.host.aptNext = none) (hs : s.bar2Serve a = (t, r)) (hc : t.mem.crit = none) :
    exec (.bar2Access a) s = .next (t.answer r) := by
  rw [exec_bar2Access_served a h, hs]
  exact congrArg Host.Outcome.next (State.critReset_none hc)

theorem State.bar2Serve_open (x : Bar2Access) (h : s.inReset .mem = false) : s.bar2Serve x = s.bar2 s.keyClosed x := if_neg (by simp [h])

/-- No flip is added where no error strikes. -/
theorem State.dramStrike_nil (s : State) : s.dramStrike [] = s := rfl

theorem State.dramSeen_none (h : s.mem.flips = []) (src a n : Nat) : s.dramSeen src a n = s := by
  simp only [State.dramSeen, flipsIn, h, List.filter_nil, List.map_nil, List.foldl_nil]

theorem firstPoison_none (h : s.mem.poison = []) (a n k : Nat) : firstPoison s a n k = none := by
  induction k generalizing a n with
  | zero => rfl
  | succ k ih => simp [firstPoison, State.poisoned, h, ih]

/-- DRAM without errors answers its bytes, and no part of the state changes. -/
theorem State.bar2_read_clean {closed : Nat → Bool} {off n : Nat} (hf : s.mem.flips = []) (hp : s.mem.poison = [])
    (hc : s.bar2Closed 1 closed (s.host.aptBase + off) n = false) :
    s.bar2 closed (.read off n []) = (s, .bytes (memRead s.mem.dram (s.host.aptBase + off) n)) := by
  simp only [State.bar2, hc, Bool.false_eq_true, if_false, State.dramStrike_nil, State.dramSeen_none hf, firstPoison_none hp]

/-- A read of DRAM that is closed is recorded, and answers Completer Abort. -/
theorem State.bar2_read_closed {closed : Nat → Bool} {off n : Nat} (hc : s.bar2Closed 1 closed (s.host.aptBase + off) n = true) :
    s.bar2 closed (.read off n []) = (s.bar2Err eClosed (s.host.aptBase + off), .abort) := if_pos hc

theorem State.bar2Err_mem (s : State) (code a : Nat) : (s.bar2Err code a).mem = s.mem :=
  (goes_bar2Err s code a rfl (.refl [.regs, .out, .pba] s)).1 .mem (by decide)

/-! ### The switch (R61) -/

/-- The state with a base taken and no access held. -/
def State.switchedTo (s : State) (b : Nat) : State := { s with host := { s.host with aptBase := b, aptNext := none, aptHeld := [] } }

theorem exec_apertureSwitch_waiting {b : Nat} (h : s.host.aptNext = some b) :
    exec .apertureSwitch s = .next (bar2Held s.host.aptHeld (s.switchedTo b)).critReset := by
  simp only [exec, execApertureSwitch, h, State.switchedTo]

theorem State.switchedTo_alone {b : Nat} (hl : s.host.aptHeld = []) (hc : s.mem.crit = none) :
    (bar2Held s.host.aptHeld (s.switchedTo b)).critReset = s.switchedTo b := by
  rw [hl, bar2Held]
  exact State.critReset_none hc

theorem exec_apertureSwitch_none (h : s.host.aptNext = none) : exec .apertureSwitch s = .next s := by
  simp only [exec, execApertureSwitch, h]

end

/-- Settles O37: the commit by its three cases, each access held or served, and the switch. BUSY for a second commit is the model's choice (log 45). -/
theorem apertureMovesBetweenAccesses : Obligations.ApertureMovesBetweenAccesses := by
  refine ⟨?commit, ?second, State.aptStaged_aligned, ?held, fun a s h => exec_bar2Access_served a h, ?read, ?closed, ?switch, fun s h => exec_apertureSwitch_none h⟩
  case commit =>
    intro m v s h hv hn
    refine ⟨fun hb => ⟨_, exec_aptCommit h, ?_, ?_, rfl⟩, fun hb => ?_⟩
    · rw [State.aptCommit_taken hv hn hb]
    · rw [State.aptCommit_taken hv hn hb]
      rfl
    · rw [exec_aptCommit h, State.aptCommit_rejected hv hn hb]
  case second =>
    intro m v s b h hv hn
    rw [exec_aptCommit h, State.aptCommit_busy hv hn]
  case held => exact fun a s h => ⟨_, exec_bar2Access_held a h, rfl, rfl, rfl⟩
  case read =>
    intro off n s hn hm hcrit hf hp hc
    have hs : s.bar2Serve (.read off n []) = (s, .bytes (memRead s.mem.dram (s.host.aptBase + off) n)) :=
      (State.bar2Serve_open _ hm).trans (State.bar2_read_clean hf hp hc)
    exact ⟨_, exec_bar2Access_of hn hs hcrit, rfl, (ChangesOnly.refl [.resp] s).answer _ (by simp) (by simp)⟩
  case closed =>
    intro off n s hn hm hcrit hc
    have hs : s.bar2Serve (.read off n []) = (s.bar2Err eClosed (s.host.aptBase + off), .abort) := (State.bar2Serve_open _ hm).trans (State.bar2_read_closed hc)
    have hmem := s.bar2Err_mem eClosed (s.host.aptBase + off)
    exact ⟨_, exec_bar2Access_of hn hs ((congrArg Mem.crit hmem).trans hcrit), rfl, hmem⟩
  case switch =>
    intro b s h
    refine ⟨_, exec_apertureSwitch_waiting h, rfl, fun hl hcrit => ?_⟩
    rw [State.switchedTo_alone hl hcrit]
    exact ⟨rfl, rfl⟩

end Sys2Proof.Machine
end

section
/-! SUPPORT. The loss of the host, on a state whose Market holds a completion for a queue that the module does not have. -/

namespace Sys2Proof.Machine

open Sys2Proof

/-- A ware of the host's take port that asks for a completion on queue 0. -/
def completedWare : Ware := ⟨0, 0, 2, 0, 0, 0, 0, 0, 0, 0⟩

/-- The host is present with its link down, a ware waits at its take port, and a completion is held for queue 4347:
    by the layout of the queues that queue's QCFG stands at M2H_TAIL, which reads 3 (enabled, in packet mode), and its QDROP at MBX_EPOCH. -/
def completionPastQueues : State :=
  { State.reset with
    regs := [(R.rst_BLK_IN_RESET_A, 0xFFFFFFDF), (hdr .que oCtrl, 1), (R.mbx_M2H_TAIL, 3)]
    host := { State.reset.host with present := true }
    mkt := { State.reset.mkt with bufs := [[], [some ⟨completedWare, 0, 0, false, false, 0, 0⟩]], comps := [(4347, 0)] } }

/-- MBX_EPOCH in the state that a command leaves. -/
def epochAfter : Host.Outcome State Fault Refusal → Nat
  | .next t => t.rn R.mbx_MBX_EPOCH
  | _ => 0

/-- The loss of the host returns the ware of its take port; the flush of the completions then counts a drop of queue 4347 in MBX_EPOCH, which goes from 0 to 2. -/
theorem epochAfter_completionPastQueues : epochAfter (exec (.hostLost false false) completionPastQueues) = 2 := by decide +kernel

/-- Refutes O36: the statement bounds no queue of a held completion, and the drop of one past the sixteen queues counts MBX_EPOCH a second time. -/
theorem not_hostPresenceFollowsItsConditions : ¬ Obligations.HostPresenceFollowsItsConditions := by
  intro h
  obtain ⟨lost, _⟩ := (h.1 false false completionPastQueues)
  obtain ⟨t, ht, _, _, _, _, _, epoch, _⟩ := lost (by decide) (by decide)
  have two : t.rn R.mbx_MBX_EPOCH = 2 := (congrArg epochAfter ht).symm.trans epochAfter_completionPastQueues
  exact absurd (two.symm.trans epoch) (by decide)

end Sys2Proof.Machine
end

section
/-! SUPPORT. What a block takes up, pauses or gives back leaves every PAGE_CTRL and every KILLED bit as they were written. -/

namespace Sys2Proof.Machine

open Sys2Proof

/-! ### The words of the page control -/

/-- The address of a register that is neither the PAGE_CTRL nor the PAGE_STAT of any page. -/
abbrev OffCtrl (a : Nat) : Prop := a % 0x1000 ≠ 0x10 ∧ a % 0x1000 ≠ 0x14

/-- PAGE_CTRL and the KILLED bit of every block are the same in two states. -/
def CtrlKept (s t : State) : Prop := ∀ b, t.rd (hdr b oCtrl) = s.rd (hdr b oCtrl) ∧ t.rb (hdr b oStat) 5 = s.rb (hdr b oStat) 5

theorem OffCtrl.ne_ctrl {a : Nat} (h : OffCtrl a) (b : Blk) : hdr b oCtrl ≠ a := fun e => h.1 (e ▸ hdr_mod b (by decide))

theorem OffCtrl.ne_stat {a : Nat} (h : OffCtrl a) (b : Blk) : hdr b oStat ≠ a := fun e => h.2 (e ▸ hdr_mod b (by decide))

theorem offCtrl_hdr (b : Blk) {off : Nat} (h : off < 0x1000 ∧ off ≠ 0x10 ∧ off ≠ 0x14) : OffCtrl (hdr b off) := by
  rw [OffCtrl, hdr_mod b h.1]
  exact h.2

theorem hdr_ctrl_ne_stat (b c : Blk) : hdr b oCtrl ≠ hdr c oStat := by
  have hb : hdr b oCtrl % 0x1000 = 0x10 := hdr_mod b (by decide)
  have hc : hdr c oStat % 0x1000 = 0x14 := hdr_mod c (by decide)
  omega

theorem CtrlKept.refl (s : State) : CtrlKept s s := fun _ => ⟨rfl, rfl⟩

theorem CtrlKept.trans {s t u : State} (h : CtrlKept s t) (h' : CtrlKept t u) : CtrlKept s u :=
  fun b => ⟨(h' b).1.trans (h b).1, (h' b).2.trans (h b).2⟩

/-- What an operation keeps, after what went before it. -/
theorem CtrlKept.after {s t u : State} (h' : CtrlKept t u) (h : CtrlKept s t) : CtrlKept s u := h.trans h'

theorem CtrlKept.ite {s t u : State} {c : Prop} [Decidable c] (ht : CtrlKept s t) (hu : CtrlKept s u) : CtrlKept s (if c then t else u) := by
  split <;> assumption

theorem CtrlKept.foldl_mem {α : Type} {f : State → α → State} {l : List α} (hf : ∀ t, ∀ x ∈ l, CtrlKept t (f t x)) (s : State) :
    CtrlKept s (l.foldl f s) := by
  induction l generalizing s with
  | nil => exact .refl s
  | cons x l ih => exact (hf s x List.mem_cons_self).trans (ih (fun t y hy => hf t y (List.mem_cons_of_mem x hy)) _)

theorem CtrlKept.foldl {α : Type} {f : State → α → State} (hf : ∀ t x, CtrlKept t (f t x)) (l : List α) (s : State) : CtrlKept s (l.foldl f s) :=
  .foldl_mem (fun t x _ => hf t x) s

/-- A change of other parts keeps the registers. -/
theorem CtrlKept.set {s t : State} (hr : t.regs = s.regs) (hm : t.modId = s.modId) : CtrlKept s t :=
  fun _ => ⟨State.rd_congr hr hm _, congrArg (tst · 5) (State.rd_congr hr hm _)⟩

/-- An operation that changes no registers keeps them. -/
theorem Goes.ctrlKept {W : List Part} {s t : State} (h : Goes W s t) (hW : .regs ∉ W ∧ .modId ∉ W) : CtrlKept s t :=
  fun _ => ⟨h.rd hW.1 hW.2 _, congrArg (tst · 5) (h.rd hW.1 hW.2 _)⟩

/-- What changes only registers off the page control keeps it. -/
theorem RegsOnly.ctrlKept {as : List Nat} {s t : State} (h : RegsOnly as s t) (ha : ∀ a ∈ as, OffCtrl a) : CtrlKept s t :=
  fun b => ⟨h _ fun hm => (ha _ hm).ne_ctrl b rfl, congrArg (tst · 5) (h _ fun hm => (ha _ hm).ne_stat b rfl)⟩

section
variable (s : State)

theorem State.wr_ctrlKept {a : Nat} (v : Word) (h : OffCtrl a) : CtrlKept s (s.wr a v) := (RegsOnly.wr s a v).ctrlKept (by simpa using h)

theorem State.wb_ctrlKept {a : Nat} (i : Nat) (v : Bool) (h : OffCtrl a) : CtrlKept s (s.wb a i v) := s.wr_ctrlKept _ h

theorem State.bumpSat_ctrlKept {a : Nat} (n : Nat) (h : OffCtrl a) : CtrlKept s (s.bumpSat a n) := s.wr_ctrlKept _ h

theorem State.wr64_ctrlKept {lo hi : Nat} (v : Nat) (hl : OffCtrl lo) (hh : OffCtrl hi) : CtrlKept s (s.wr64 lo hi v) :=
  (s.wr_ctrlKept _ hl).trans (State.wr_ctrlKept _ _ hh)

/-- A bit of PAGE_STAT other than KILLED. -/
theorem State.wb_stat_ctrlKept (b : Blk) {i : Nat} (v : Bool) (h : i ≠ 5) : CtrlKept s (s.wb (hdr b oStat) i v) := by
  refine fun c => ⟨s.wb_rd_ne i v (hdr_ctrl_ne_stat c b), ?_⟩
  by_cases e : hdr c oStat = hdr b oStat
  · rw [e]
    exact s.wb_rb_ne _ v h
  · exact congrArg (tst · 5) (s.wb_rd_ne i v e)

theorem State.irq_ctrlKept (b : Blk) (i : Nat) : CtrlKept s (s.irq b i) :=
  (s.irqBits_regsOnly b _).ctrlKept (by simpa using offCtrl_hdr b (by decide))

theorem State.err_ctrlKept (b : Blk) (code off : Nat) (m : Master) : CtrlKept s (s.err b code off m) :=
  (RegsOnly.err s b code off m).ctrlKept (by simpa using ⟨offCtrl_hdr b (by decide), offCtrl_hdr b (by decide)⟩)

theorem State.setDrained_ctrlKept (b : Blk) : CtrlKept s (s.setDrained b) :=
  .ite (.refl s) ((s.wb_stat_ctrlKept b true (by decide)).trans (State.irq_ctrlKept _ b 30))

theorem State.drainDone_ctrlKept (b : Blk) : CtrlKept s (s.drainDone b) := .ite (s.setDrained_ctrlKept b) (.refl s)

/-! ### Records, replies and events -/

theorem State.logGroup_ctrlKept (m : Master) (code sev src : Nat) (ps : List (Word × Word × Word)) : CtrlKept s (s.logGroup m code sev src ps) := by
  unfold State.logGroup
  refine .ite (s.err_ctrlKept _ _ _ _) (.ite (.set rfl rfl) ?_)
  exact (State.irq_ctrlKept _ _ _).after ((State.err_ctrlKept _ _ _ _ _).after ((State.bumpSat_ctrlKept _ _ (by decide)).after (.set rfl rfl)))

theorem State.ledger_ctrlKept (code sev src p0 p1 p2 : Nat) : CtrlKept s (s.ledger code sev src p0 p1 p2) := s.logGroup_ctrlKept _ _ _ _ _

theorem State.reply_ctrlKept (c : Cmd) (st : Nat) (p d : Bytes) : CtrlKept s (s.reply c st p d) := (s.reply_regsOnly c st p d).ctrlKept (by decide)

theorem State.event_ctrlKept (code src : Nat) (p : Bytes) : CtrlKept s (s.event code src p) := by
  unfold State.event
  extract_lets t
  have ht : CtrlKept s t := s.logGroup_ctrlKept _ _ _ _ _
  exact .ite ht (.ite (((t.putM2h_regsOnly _).ctrlKept (by decide)).after ht) (CtrlKept.after (.set rfl rfl) ht))

theorem State.fwEvent_ctrlKept (code src : Nat) (p : Bytes) : CtrlKept s (s.fwEvent code src p) := .ite (s.event_ctrlKept _ _ _) (.refl s)

/-! ### Queues -/

theorem State.pushEnt_ctrlKept (q : Nat) (v : DWord) : CtrlKept s (s.pushEnt q v) := by
  unfold State.pushEnt
  extract_lets x n lvl pkt x' t
  have ht : CtrlKept s t := .set rfl rfl
  exact .ite ((t.irq_ctrlKept _ _).after ht) ht

/-- QDROP lies at 12 modulo 32, whatever the queue's number. -/
theorem State.qdrop_ctrlKept (q : Nat) : CtrlKept s (s.qdrop q) := by
  refine s.bumpSat_ctrlKept 1 ?_
  show (0x0C10C + 32 * q) % 0x1000 ≠ 0x10 ∧ (0x0C10C + 32 * q) % 0x1000 ≠ 0x14
  omega

end

theorem hwDrain_ctrlKept (n q : Nat) (s : State) : CtrlKept s (hwDrain n q s) := by
  induction n generalizing s with
  | zero => exact .refl s
  | succ n ih =>
    unfold hwDrain
    extract_lets x
    split
    · exact .refl s
    · refine .ite (.refl s) (.ite ?_ (.ite (.refl s) ?_))
      · exact (ih _).after ((State.err_ctrlKept _ _ _ _ _).after ((State.qdrop_ctrlKept _ q).after (.set rfl rfl)))
      · exact (ih _).after ((State.pushEnt_ctrlKept _ q _).after (.set rfl rfl))

theorem State.hwPush_ctrlKept (s : State) (q : Nat) (v : DWord) : CtrlKept s (s.hwPush q v) := (hwDrain_ctrlKept _ q _).after (.set rfl rfl)

theorem pushAll_ctrlKept (q : Nat) (l : List DWord) (s : State) : CtrlKept s (pushAll q l s) := by
  induction l generalizing s with
  | nil => exact .refl s
  | cons v l ih => exact (s.hwPush_ctrlKept q v).trans (ih _)

/-! ### The Market -/

theorem compFlush_ctrlKept (l : List (Nat × DWord)) (stuck : List Nat) (s : State) : CtrlKept s (compFlush l stuck s) := by
  induction l generalizing stuck s with
  | nil => exact .refl s
  | cons p l ih =>
    obtain ⟨q, v⟩ := p
    unfold compFlush
    refine .ite ((ih _ _).after (.set rfl rfl)) (.ite ?_ ?_)
    · exact (s.qdrop_ctrlKept q).trans ((State.err_ctrlKept _ _ _ _ _).trans (ih _ _))
    · exact (s.pushEnt_ctrlKept q v).trans (ih _ _)

section
variable (s : State)

theorem State.writeComps_ctrlKept : CtrlKept s s.writeComps := (compFlush_ctrlKept _ _ _).after (.set rfl rfl)

theorem State.complete_ctrlKept (q : Nat) (v : DWord) : CtrlKept s (s.complete q v) := (State.writeComps_ctrlKept _).after (.set rfl rfl)

theorem State.wareDone_ctrlKept (w : Ware) (status : Nat) : CtrlKept s (s.wareDone w status) := by
  unfold State.wareDone
  extract_lets t
  have ht : CtrlKept s t := .ite (s.complete_ctrlKept _ _) (.refl s)
  exact .ite (ht.trans (t.complete_ctrlKept _ _)) ht

theorem State.mktMark_ctrlKept (n : Nat) : CtrlKept s (s.mktMark n) := by
  unfold State.mktMark
  extract_lets n k t lvl
  have ht : CtrlKept s t := .set rfl rfl
  exact .ite ((t.irq_ctrlKept _ _).after ht) ht

theorem State.matchIn_ctrlKept (w : Ware) : CtrlKept s (s.matchIn w) := by
  unfold State.matchIn
  split
  · exact .ite ((s.bumpSat_ctrlKept 1 (by decide)).trans ((State.irq_ctrlKept _ _ _).trans (State.wareDone_ctrlKept _ _ _))) (.set rfl rfl)
  · exact .ite ((s.bumpSat_ctrlKept 1 (by decide)).trans ((State.irq_ctrlKept _ _ _).trans (State.wareDone_ctrlKept _ _ _))) (.set rfl rfl)

theorem State.arrive_ctrlKept (w : Ware) : CtrlKept s (s.arrive w) := by
  unfold State.arrive
  extract_lets n k t
  have ht : CtrlKept s t := .ite (s.matchIn_ctrlKept w) (.ite (.set rfl rfl) (.set rfl rfl))
  exact ht.trans (t.mktMark_ctrlKept n)

end

theorem returnAll_ctrlKept (status : Nat) (l : List Ware) (s : State) : CtrlKept s (returnAll status l s) := by
  induction l generalizing s with
  | nil => exact .refl s
  | cons w l ih => exact (s.wareDone_ctrlKept w status).trans (ih _)

theorem hwTake_ctrlKept (l : List Ware) (s : State) : CtrlKept s (hwTake l s) := by
  induction l generalizing s with
  | nil => exact .set rfl rfl
  | cons w l ih => exact .ite ((s.arrive_ctrlKept w).trans (ih _)) (.set rfl rfl)

section
variable (s : State)

theorem State.hwSubmit_ctrlKept (w : Ware) : CtrlKept s (s.hwSubmit w) := hwTake_ctrlKept _ s

theorem State.mktRoom_ctrlKept : CtrlKept s s.mktRoom := hwTake_ctrlKept _ s

theorem State.startLane_ctrlKept (n : Nat) : CtrlKept s (s.startLane n) := by
  unfold State.startLane
  extract_lets l
  split
  · exact .ite ((State.mktRoom_ctrlKept _).after (.ite (.set rfl rfl) (.set rfl rfl))) (.refl s)
  · exact .refl s

theorem State.mktDrainCheck_ctrlKept : CtrlKept s s.mktDrainCheck := .ite (s.setDrained_ctrlKept _) (.refl s)

theorem State.slotsBack_ctrlKept (n : Nat) : CtrlKept s (s.slotsBack n) := .set rfl rfl

theorem State.laneDrainCheck_ctrlKept (n : Nat) : CtrlKept s (s.laneDrainCheck n) :=
  .ite ((State.setDrained_ctrlKept _ _).after (.ite (.refl s) (s.slotsBack_ctrlKept n))) (.refl s)

theorem State.takersOff_ctrlKept : CtrlKept s s.takersOff := (goes_takersOff s rfl (.refl [.out, .mkt] s)).ctrlKept (by decide)

theorem State.mktCancel_ctrlKept : CtrlKept s s.mktCancel :=
  (State.mktDrainCheck_ctrlKept _).after (CtrlKept.after (.set rfl rfl)
    ((returnAll_ctrlKept _ _ _).after ((State.takersOff_ctrlKept _).after (.set rfl rfl))))

theorem State.mktResume_ctrlKept : CtrlKept s s.mktResume :=
  s.mktRoom_ctrlKept.trans (.foldl (fun t n => .ite (t.startLane_ctrlKept n) (.refl t)) _ _)

theorem State.queResume_ctrlKept : CtrlKept s s.queResume :=
  (CtrlKept.foldl (fun t q => hwDrain_ctrlKept _ q t) _ _).trans (State.writeComps_ctrlKept _)

/-! ### The host -/

theorem State.hostWaresBack_ctrlKept : CtrlKept s s.hostWaresBack :=
  (State.mktDrainCheck_ctrlKept _).after (CtrlKept.after (.set rfl rfl) ((returnAll_ctrlKept _ _ _).after (.set rfl rfl)))

theorem State.cancelAll_ctrlKept : CtrlKept s s.cancelAll :=
  (State.wr_ctrlKept _ _ (by decide)).after ((State.wr_ctrlKept _ _ (by decide)).after (.set rfl rfl))

theorem State.hostGone_ctrlKept : CtrlKept s s.hostGone :=
  (State.ledger_ctrlKept _ _ _ _ _ _ _).after ((State.hostWaresBack_ctrlKept _).after ((State.cancelAll_ctrlKept _).after (.set rfl rfl)))

theorem State.hostBack_ctrlKept : CtrlKept s s.hostBack := .ite (.set rfl rfl) ((State.event_ctrlKept _ _ _ _).after (.set rfl rfl))

theorem State.hostUpdate_ctrlKept : CtrlKept s s.hostUpdate := .ite s.hostGone_ctrlKept (.ite s.hostBack_ctrlKept (.refl s))

/-! ### Storage, the Ledger and the time -/

theorem State.nvsPart_ctrlKept (w : NvsWriter) (a : Nat) (b : Bytes) (r : Nat) : CtrlKept s (s.nvsPart w a b r) :=
  .ite (.refl s) (.ite (.set rfl rfl) (s.err_ctrlKept _ _ _ _))

theorem State.nvsWrite_ctrlKept (w : NvsWriter) (a : Nat) (b : Bytes) : CtrlKept s (s.nvsWrite w a b) :=
  .ite (s.err_ctrlKept _ _ _ _) (.foldl (fun t r => t.nvsPart_ctrlKept w a b r) _ s)

theorem State.saveSeries_ctrlKept : CtrlKept s s.saveSeries := CtrlKept.foldl (fun t _ => t.nvsWrite_ctrlKept _ _ _) _ s

theorem State.lateOne_ctrlKept (x : Late) : CtrlKept s (s.lateOne x) := by
  cases x with
  | record => exact s.ledger_ctrlKept _ _ _ _ _ _
  | event => exact s.event_ctrlKept _ _ _

theorem State.lateFlush_ctrlKept : CtrlKept s s.lateFlush :=
  .ite (CtrlKept.after (.foldl State.lateOne_ctrlKept _ _) (.set rfl rfl)) (.refl s)

theorem State.setRate_ctrlKept (c : DWord) (v : Int) : CtrlKept s (s.setRate c v) :=
  (State.wr_ctrlKept _ _ (by decide)).after ((State.wr64_ctrlKept _ _ (by decide) (by decide)).after
    ((State.wr64_ctrlKept _ _ (by decide) (by decide)).after (s.wr_ctrlKept _ (by decide))))

theorem State.setTm_ctrlKept (st : Nat) : CtrlKept s (s.setTm st) := s.wr_ctrlKept _ (by decide)

theorem State.loseSource_ctrlKept (c : DWord) (cause : Nat) : CtrlKept s (s.loseSource c cause) := by
  unfold State.loseSource
  refine .ite ?_ (.refl s)
  extract_lets t u ntm v
  have hu : CtrlKept s u := (State.setTm_ctrlKept _ _).after ((t.setRate_ctrlKept _ _).after (.set rfl rfl))
  have hv : CtrlKept s v := CtrlKept.after (.set rfl rfl) hu
  exact hv.trans ((v.wr_ctrlKept _ (by decide)).trans ((State.irq_ctrlKept _ _ _).trans (State.event_ctrlKept _ _ _ _)))

theorem State.ntmDisable_ctrlKept : CtrlKept s s.ntmDisable := (State.loseSource_ctrlKept _ _ _).after (.set rfl rfl)

end

end Sys2Proof.Machine
end

section
/-! SUPPORT. The radios, the vault, the lamps and Scales leave the page control, up to what each block does at its enable, drain and kill. -/

namespace Sys2Proof.Machine

open Sys2Proof

/-! ### Radios and the link -/

section
variable (s : State)

theorem State.collected_ctrlKept (b : Bytes) : CtrlKept s (s.collected b) := .set rfl rfl

theorem offCtrl_expired (r : Nat) : OffCtrl (R.rad_EXPIRED_CNT r) := by
  show (0x14068 + 0x1000 * r) % 0x1000 ≠ 0x10 ∧ (0x14068 + 0x1000 * r) % 0x1000 ≠ 0x14
  omega

theorem State.txDone_ctrlKept (r : Nat) (x : Tx) (status : Nat) : CtrlKept s (s.txDone r x status) := by
  unfold State.txDone
  extract_lets t
  have ht : CtrlKept s t := .ite ((State.irq_ctrlKept _ _ _).after (s.bumpSat_ctrlKept 1 (offCtrl_expired r))) (.ite (s.irq_ctrlKept _ _) (.refl s))
  clear_value t
  split
  · exact .ite ((t.collected_ctrlKept _).after ht) ht
  · exact (t.hwPush_ctrlKept _ _).after ht

end

theorem txDoneAll_ctrlKept (r status : Nat) (l : List Tx) (s : State) : CtrlKept s (txDoneAll r status l s) := by
  induction l generalizing s with
  | nil => exact .refl s
  | cons x l ih => exact (s.txDone_ctrlKept r x status).trans (ih _)

section
variable (s : State)

theorem State.lnkCancel_ctrlKept (r : Nat) : CtrlKept s (s.lnkCancel r) := (txDoneAll_ctrlKept r _ _ _).after (.set rfl rfl)

theorem State.radDrain_ctrlKept (r : Nat) : CtrlKept s (s.radDrain r) :=
  .ite ((State.setDrained_ctrlKept _ _).after (.ite (.refl s) (s.lnkCancel_ctrlKept r))) (.refl s)

theorem State.radKill_ctrlKept (r : Nat) : CtrlKept s (s.radKill r) := by
  unfold State.radKill
  extract_lets x t u
  have ht : CtrlKept s t := .set rfl rfl
  refine (u.radDrain_ctrlKept r).after (CtrlKept.after ?_ ht)
  unfold u
  split
  · exact t.txDone_ctrlKept _ _ _
  · exact .refl t

theorem State.rxAbort_ctrlKept (r : Nat) : CtrlKept s (s.rxAbort r) := by
  unfold State.rxAbort
  split
  · exact .refl s
  · exact .ite ((pushAll_ctrlKept _ _ _).after (.set rfl rfl)) (.refl s)

theorem State.lnkDrain_ctrlKept : CtrlKept s s.lnkDrain := .ite (s.setDrained_ctrlKept _) (.refl s)

theorem State.lnkDisable_ctrlKept : CtrlKept s s.lnkDisable := CtrlKept.foldl State.lnkCancel_ctrlKept _ s

theorem State.lnkKill_ctrlKept : CtrlKept s s.lnkKill :=
  (State.lnkDrain_ctrlKept _).after (CtrlKept.foldl (fun t r => (t.rxAbort_ctrlKept r).trans (State.radKill_ctrlKept _ r)) _ s)

/-! ### The vault -/

theorem State.sramWrite_ctrlKept (a : Nat) (b : Bytes) : CtrlKept s (s.sramWrite a b) := (goes_sramWrite s a b rfl (.refl [.mem] s)).ctrlKept (by decide)

theorem State.opAnswer_ctrlKept (o : VOp) (status : Nat) (out : Bytes) : CtrlKept s (s.opAnswer o status out) := by
  unfold State.opAnswer
  split
  · exact (State.irq_ctrlKept _ _ _).after ((State.wr_ctrlKept _ _ (by decide)).after (s.sramWrite_ctrlKept _ _))
  · split
    · exact .refl s
    · exact .ite (s.reply_ctrlKept _ _ _ _) (s.reply_ctrlKept _ _ _ _)

theorem State.vltDrainCheck_ctrlKept : CtrlKept s s.vltDrainCheck := .ite (s.setDrained_ctrlKept _) (.refl s)

theorem State.vltKill_ctrlKept : CtrlKept s s.vltKill := by
  unfold State.vltKill
  split
  · exact .refl s
  · next o r _ =>
    extract_lets vlt t u
    have hu : CtrlKept t u := by
      unfold u
      split
      · exact t.sramWrite_ctrlKept _ _
      · exact .refl t
    exact (State.vltDrainCheck_ctrlKept _).after ((u.opAnswer_ctrlKept _ _ _).after (hu.after (.set rfl rfl)))

/-- Operations answered one after another. -/
theorem opAnswers_ctrlKept (l : List VOp) (status : Nat) (out : Bytes) : CtrlKept s (l.foldl (fun (t : State) o => t.opAnswer o status out) s) :=
  .foldl (fun t o => t.opAnswer_ctrlKept o status out) l s

theorem State.vltCancel_ctrlKept : CtrlKept s s.vltCancel := by
  unfold State.vltCancel
  split
  · exact .refl s
  · exact (opAnswers_ctrlKept _ _ _ _).after (.set rfl rfl)

/-! ### Lamps, drivers, the field of view and the update -/

theorem State.takeStripe_ctrlKept (p : Bytes) : CtrlKept s (s.takeStripe p) := by
  unfold State.takeStripe
  extract_lets a code
  refine .ite (.refl s) (.ite (s.ledger_ctrlKept _ _ _ _ _ _) (.ite (s.bumpSat_ctrlKept 1 (by decide)) (.ite (.refl s) ?_)))
  exact (goes_pendChange s _ rfl (.refl [.lvl] s)).ctrlKept (by decide)

theorem State.lvlEnable_ctrlKept : CtrlKept s s.lvlEnable := by
  unfold State.lvlEnable
  refine .ite (.refl s) (.foldl (fun t n => .ite (.refl t) ?_) _ s)
  extract_lets p lvl u
  have hu : CtrlKept t u := .set rfl rfl
  exact .ite ((u.takeStripe_ctrlKept p).after hu) hu

theorem State.drvDisable_ctrlKept (n : Nat) : CtrlKept s (s.drvDisable n) :=
  .ite (.set rfl rfl) (.ite (.refl s) ((State.setDrained_ctrlKept _ _).after (.set rfl rfl)))

theorem State.drvDrained_ctrlKept (n : Nat) : CtrlKept s (s.drvDrained n) := .ite ((State.setDrained_ctrlKept _ _).after (.set rfl rfl)) (.refl s)

theorem State.drvPause_ctrlKept (n : Nat) : CtrlKept s (s.drvPause n) := (State.setDrained_ctrlKept _ _).after (.set rfl rfl)

theorem State.fovDisable_ctrlKept : CtrlKept s s.fovDisable := (State.setDrained_ctrlKept _ _).after (.ite (.set rfl rfl) (.set rfl rfl))

theorem State.fswDisable_ctrlKept : CtrlKept s s.fswDisable := .ite (.refl s) ((State.setDrained_ctrlKept _ _).after (s.wb_ctrlKept 8 false (by decide)))

theorem State.updDisable_ctrlKept : CtrlKept s s.updDisable := by
  unfold State.updDisable
  split
  · exact .refl s
  · extract_lets t
    refine (State.setDrained_ctrlKept _ _).after (CtrlKept.trans (t := t) (.set rfl rfl) ?_)
    split
    · exact t.reply_ctrlKept _ _ _ _
    · exact .refl t
  · exact s.setDrained_ctrlKept _

/-! ### Scales -/

theorem State.meterFault_ctrlKept (kind chan : Nat) : CtrlKept s (s.meterFault kind chan) := s.fwEvent_ctrlKept _ _ _

theorem State.noteClip_ctrlKept (chans : List ChanIn) : CtrlKept s (s.noteClip chans) := by
  unfold State.noteClip
  extract_lets m old scl sum u
  have hu : CtrlKept s u := (State.irq_ctrlKept _ _ _).after ((State.wr_ctrlKept _ _ (by decide)).after (.set rfl rfl))
  exact .ite (.refl s) (hu.trans (.foldl (fun t c => .ite (t.meterFault_ctrlKept 2 c) (.refl t)) _ u))

theorem State.saveFailed_ctrlKept : CtrlKept s s.saveFailed :=
  (State.wb_ctrlKept _ _ _ (by decide)).after ((State.bumpSat_ctrlKept _ 1 (by decide)).after (s.nvsWrite_ctrlKept _ _ _))

theorem State.saveTotals_ctrlKept (slot kind base ns : Nat) (acc : List Nat) : CtrlKept s (s.saveTotals slot kind base ns acc) :=
  CtrlKept.after (.set rfl rfl) ((State.wb_ctrlKept _ 2 true (by decide)).after (s.nvsWrite_ctrlKept _ _ _))

theorem State.saveLatch_ctrlKept (record : Bytes) : CtrlKept s (s.saveLatch record) :=
  .ite s.saveFailed_ctrlKept ((State.saveTotals_ctrlKept _ _ _ _ _ _).after (CtrlKept.after (.set rfl rfl) (s.nvsWrite_ctrlKept _ _ _)))

theorem State.latchOut_ctrlKept (record : Bytes) : CtrlKept s (s.latchOut record) := by
  unfold State.latchOut
  extract_lets seq t u scl v
  have ht : CtrlKept s t := .ite ((State.meterFault_ctrlKept _ _ _).after (s.irq_ctrlKept _ _)) (.refl s)
  have hu : CtrlKept s u := (t.sramWrite_ctrlKept _ _).after ht
  have hv : CtrlKept u v := .ite (.refl u) (.ite (.set rfl rfl) (u.hwSubmit_ctrlKept _))
  exact (v.irq_ctrlKept _ _).after (hv.after hu)

theorem State.takeSet_ctrlKept (ms : List Nat) : CtrlKept s (s.takeSet ms) := by
  unfold State.takeSet
  extract_lets q t scl sum u v scl' w
  have ht : CtrlKept s t := (State.wr_ctrlKept _ _ (by decide)).after (s.wr_ctrlKept _ (by decide))
  have hv : CtrlKept s v := (u.irq_ctrlKept _ _).after (CtrlKept.after (.set rfl rfl) ht)
  have hw : CtrlKept s w := CtrlKept.after (.set rfl rfl) hv
  clear_value w v
  split
  · exact hv
  · split
    · exact (State.reply_ctrlKept _ _ _ _ _).after hw
    · exact hw

/-- The three feed registers lie off the page control. -/
theorem offCtrl_balFeed : ∀ x ∈ List.range 3, OffCtrl (R.scl_BAL_FEEDx x) := by decide

theorem State.draw_ctrlKept (n : Nat) : CtrlKept s (s.draw n) := .set rfl rfl

theorem balFeeds_ctrlKept (f : State → Nat → Word) : CtrlKept s ((List.range 3).foldl (fun t x => t.wr (R.scl_BAL_FEEDx x) (f t x)) s) :=
  .foldl_mem (fun t x h => t.wr_ctrlKept _ (offCtrl_balFeed x h)) s

theorem State.balCapture_ctrlKept (time : Nat) : CtrlKept s (s.balCapture time) := by
  unfold State.balCapture
  extract_lets r rough scl t p prev scl' u b mir on feed v bad w st scl''
  have ht : CtrlKept s t := .set rfl rfl
  have hu : CtrlKept s u := CtrlKept.after (.set rfl rfl) ht
  have hv : CtrlKept s v := (State.wr_ctrlKept _ _ (by decide)).after ((u.wr_ctrlKept _ (by decide)).after hu)
  have hw : CtrlKept v w := by
    unfold w
    split
    · exact balFeeds_ctrlKept v _
    · exact (State.draw_ctrlKept _ 3).after (balFeeds_ctrlKept v fun t x => Config.freeWord (t.free + x))
  exact .ite ht (.ite hu ((State.wr_ctrlKept _ _ (by decide)).after (CtrlKept.after (.set rfl rfl) (hw.after hv))))

theorem State.gapNote_ctrlKept : CtrlKept s s.gapNote := by
  unfold State.gapNote
  split
  · exact .refl s
  · exact (State.fwEvent_ctrlKept _ _ _ _).after (.set rfl rfl)

theorem State.latch_ctrlKept (sig : List (List (Int × Int))) (ms : List Nat) (c : DWord) (part : Bool) : CtrlKept s (s.latch sig ms c part) := by
  unfold State.latch
  extract_lets coef time t record u
  have ht : CtrlKept s t := .set rfl rfl
  have hu : CtrlKept t u := .ite (t.takeSet_ctrlKept ms) (.refl t)
  exact (State.gapNote_ctrlKept _).after ((State.balCapture_ctrlKept _ _).after ((State.saveLatch_ctrlKept _ _).after
    ((u.latchOut_ctrlKept _).after (hu.after ht))))

theorem State.checkReply_ctrlKept (status : Nat) : CtrlKept s (s.checkReply status) := by
  unfold State.checkReply
  split
  · exact s.reply_ctrlKept _ _ _ _
  · exact .refl s

theorem State.abandonCheck_ctrlKept : CtrlKept s s.abandonCheck :=
  .ite (.refl s) ((State.checkReply_ctrlKept _ _).after ((State.wb_ctrlKept _ 0 false (by decide)).after (.set rfl rfl)))

theorem State.sclDisable_ctrlKept : CtrlKept s s.sclDisable := by
  unfold State.sclDisable
  extract_lets t chans sig u
  have hu : CtrlKept s u := .ite (.refl s) ((State.latch_ctrlKept _ _ _ _ _).after ((State.noteClip_ctrlKept _ _).after (.set rfl rfl)))
  exact (State.setDrained_ctrlKept _ _).after ((State.abandonCheck_ctrlKept _).after hu)

theorem State.sclResume_ctrlKept : CtrlKept s s.sclResume := (CtrlKept.foldl State.hwSubmit_ctrlKept _ _).after (.set rfl rfl)

end

end Sys2Proof.Machine
end

section
/-! SUPPORT. The page control of a block: what a write of EN, DRAIN or KILL leaves of it, and how a drain completes. -/

namespace Sys2Proof.Machine

open Sys2Proof

/-! ### What a block does at its enable, drain and kill leaves the page control (R68, R69) -/

section
variable (s : State) (b : Blk)

theorem State.resumeBlk_ctrlKept : CtrlKept s (s.resumeBlk b) := by
  cases b with
  | mkt => exact s.mktResume_ctrlKept
  | lane n => exact .ite (s.startLane_ctrlKept _) (.refl s)
  | que => exact s.queResume_ctrlKept
  | drv n => exact (goes_drvResume s _ rfl (.refl [.port] s)).ctrlKept (by decide)
  | scl => exact s.sclResume_ctrlKept
  | ldg => exact s.lateFlush_ctrlKept
  | _ => exact .refl s

theorem State.enableBlk_ctrlKept : CtrlKept s (s.enableBlk b) := by
  cases b with
  | drv n => exact (goes_drvEnable s _ rfl (.refl [.port] s)).ctrlKept (by decide)
  | scl => exact .set rfl rfl
  | lvl => exact s.lvlEnable_ctrlKept
  | mbx => exact s.hostUpdate_ctrlKept
  | mkt => exact s.resumeBlk_ctrlKept .mkt
  | lane n => exact s.resumeBlk_ctrlKept (.lane n)
  | que => exact s.resumeBlk_ctrlKept .que
  | ldg => exact s.resumeBlk_ctrlKept .ldg
  | _ => exact .refl s

theorem State.lvlDisable_ctrlKept : CtrlKept s s.lvlDisable := .set rfl rfl

theorem State.bcnStop_ctrlKept : CtrlKept s s.bcnStop := .ite (.set rfl rfl) (.refl s)

theorem State.disableBlk_ctrlKept : CtrlKept s (s.disableBlk b) := by
  cases b with
  | mkt => exact s.mktCancel_ctrlKept
  | lane n => exact s.laneDrainCheck_ctrlKept _
  | rad n => exact s.radDrain_ctrlKept _
  | lnk => exact s.lnkDisable_ctrlKept.trans (State.lnkDrain_ctrlKept _)
  | ntm => exact s.ntmDisable_ctrlKept.trans (State.drainDone_ctrlKept _ _)
  | lvl => exact s.lvlDisable_ctrlKept.trans (State.drainDone_ctrlKept _ _)
  | drv n => exact s.drvDisable_ctrlKept _
  | scl => exact s.sclDisable_ctrlKept
  | fsw => exact s.fswDisable_ctrlKept
  | vlt => exact s.vltCancel_ctrlKept.trans (State.drainDone_ctrlKept _ _)
  | cry => exact (State.drainDone_ctrlKept _ _).after (.set rfl rfl)
  | ldg => exact s.saveSeries_ctrlKept.trans (State.drainDone_ctrlKept _ _)
  | fov => exact s.fovDisable_ctrlKept
  | upd => exact s.updDisable_ctrlKept
  | mbx => exact s.hostUpdate_ctrlKept.trans (State.drainDone_ctrlKept _ _)
  | bcn => exact s.bcnStop_ctrlKept.trans (State.drainDone_ctrlKept _ _)
  | _ => exact s.drainDone_ctrlKept _

theorem State.cancelHeld_ctrlKept : CtrlKept s (s.cancelHeld b) := by
  cases b with
  | mkt => exact s.mktCancel_ctrlKept
  | lane n => exact s.slotsBack_ctrlKept _
  | rad n => exact s.lnkCancel_ctrlKept _
  | lnk => exact s.lnkDisable_ctrlKept
  | vlt => exact (opAnswers_ctrlKept _ _ _ _).after (.set rfl rfl)
  | cry => exact .set rfl rfl
  | scl => exact (State.sclDisable_ctrlKept _).after ((CtrlKept.foldl (fun t w => t.wareDone_ctrlKept w 0x01) _ _).after (.set rfl rfl))
  | ntm => exact s.ntmDisable_ctrlKept
  | lvl => exact s.lvlDisable_ctrlKept
  | drv n => exact s.drvDisable_ctrlKept _
  | fsw => exact s.fswDisable_ctrlKept
  | ldg => exact s.saveSeries_ctrlKept
  | fov => exact s.fovDisable_ctrlKept
  | upd => exact s.updDisable_ctrlKept
  | mbx => exact s.hostUpdate_ctrlKept
  | _ => exact .refl s

theorem State.pauseBlk_ctrlKept : CtrlKept s (s.pauseBlk b) := by
  cases b with
  | mkt => exact s.takersOff_ctrlKept.trans (State.drainDone_ctrlKept _ _)
  | rad n => exact s.radDrain_ctrlKept _
  | drv n => exact s.drvPause_ctrlKept _
  | bcn => exact s.bcnStop_ctrlKept.trans (State.drainDone_ctrlKept _ _)
  | _ => exact s.drainDone_ctrlKept _

theorem State.killBlk_ctrlKept : CtrlKept s (s.killBlk b) := by
  cases b with
  | chk => exact .set rfl rfl
  | rad n => exact (s.rxAbort_ctrlKept _).trans (State.radKill_ctrlKept _ _)
  | lnk => exact s.lnkKill_ctrlKept
  | drv n => exact s.drvDrained_ctrlKept _
  | vlt => exact s.vltKill_ctrlKept
  | cry => exact (State.wr_ctrlKept _ _ (by decide)).after (.set rfl rfl)
  | _ => exact .refl s

/-! ### And it leaves the requests of the host that wait (R104) -/

theorem State.resumeBlk_bar0Held : (s.resumeBlk b).host.bar0Held = s.host.bar0Held := (goes_resumeBlk s b rfl (.refl offHost s)).bar0Held

theorem State.enableBlk_bar0Held : (s.enableBlk b).host.bar0Held = s.host.bar0Held := by
  have resumes (c : Blk) (e : s.enableBlk c = s.resumeBlk c) : (s.enableBlk c).host.bar0Held = s.host.bar0Held := by rw [e, s.resumeBlk_bar0Held c]
  cases b with
  | drv n => exact (goes_drvEnable s _ rfl (.refl offHost s)).bar0Held
  | lvl => exact (goes_lvlEnable s rfl (.refl offHost s)).bar0Held
  | mbx => exact s.hostUpdate_bar0Held
  | mkt => exact resumes .mkt rfl
  | lane n => exact resumes (.lane n) rfl
  | que => exact resumes .que rfl
  | ldg => exact resumes .ldg rfl
  | _ => rfl

theorem State.drainDone_bar0Held : (s.drainDone b).host.bar0Held = s.host.bar0Held := (goes_drainDone s b rfl (.refl offHost s)).bar0Held

theorem State.disableBlk_bar0Held : (s.disableBlk b).host.bar0Held = s.host.bar0Held := by
  have h := Goes.refl offHost s
  cases b with
  | mkt => exact (goes_mktCancel s rfl h).bar0Held
  | lane n => exact (goes_laneDrainCheck s _ rfl h).bar0Held
  | rad n => exact (goes_radDrain s _ rfl h).bar0Held
  | lnk => exact (goes_lnkDrain _ rfl (goes_lnkDisable s rfl h)).bar0Held
  | ntm => exact (State.drainDone_bar0Held _ _).trans (goes_ntmDisable s rfl h).bar0Held
  | lvl => exact (State.drainDone_bar0Held _ _).trans (goes_lvlDisable s rfl h).bar0Held
  | drv n => exact (goes_drvDisable s _ rfl h).bar0Held
  | scl => exact (goes_sclDisable s rfl h).bar0Held
  | fsw => exact (goes_fswDisable s rfl h).bar0Held
  | vlt => exact (State.drainDone_bar0Held _ _).trans (goes_vltCancel s rfl h).bar0Held
  | cry => exact (State.drainDone_bar0Held { s with cry := { s.cry with wait := none } } _)
  | ldg => exact (State.drainDone_bar0Held _ _).trans (goes_saveSeries s rfl h).bar0Held
  | fov => exact (goes_fovDisable s rfl h).bar0Held
  | upd => exact (goes_updDisable s rfl h).bar0Held
  | mbx => exact (State.drainDone_bar0Held _ _).trans s.hostUpdate_bar0Held
  | bcn => exact (State.drainDone_bar0Held _ _).trans (goes_bcnStop s rfl h).bar0Held
  | _ => exact s.drainDone_bar0Held _

theorem State.cancelHeld_bar0Held : (s.cancelHeld b).host.bar0Held = s.host.bar0Held := by
  have h := Goes.refl offHost s
  cases b with
  | mkt => exact (goes_mktCancel s rfl h).bar0Held
  | rad n => exact (goes_lnkCancel s _ rfl h).bar0Held
  | lnk => exact (goes_lnkDisable s rfl h).bar0Held
  | vlt => exact (Goes.foldl (fun _ _ hg => goes_opAnswer _ _ _ _ rfl hg) (.refl offHost { s with vlt := { s.vlt with ops := [] } })).bar0Held
  | scl =>
    have hw := Goes.foldl (l := s.scl.held) (fun _ w hg => goes_wareDone _ w 0x01 rfl hg) (.refl offHost { s with scl := { s.scl with held := [] } })
    exact (goes_sclDisable _ rfl hw).bar0Held
  | ntm => exact (goes_ntmDisable s rfl h).bar0Held
  | drv n => exact (goes_drvDisable s _ rfl h).bar0Held
  | fsw => exact (goes_fswDisable s rfl h).bar0Held
  | ldg => exact (goes_saveSeries s rfl h).bar0Held
  | fov => exact (goes_fovDisable s rfl h).bar0Held
  | upd => exact (goes_updDisable s rfl h).bar0Held
  | mbx => exact s.hostUpdate_bar0Held
  | _ => rfl

theorem State.pauseBlk_bar0Held : (s.pauseBlk b).host.bar0Held = s.host.bar0Held := (goes_pauseBlk s b rfl (.refl offHost s)).bar0Held

theorem State.killReq_bar0Held (m : Master) : (s.killReq b m).host.bar0Held = s.host.bar0Held := (goes_killReq s b m rfl (.refl offHost s)).bar0Held

end

end Sys2Proof.Machine
end

section
/-! SUPPORT. Enable, drain and kill as writes of PAGE_CTRL, and the end of a drain. -/

namespace Sys2Proof.Machine

open Sys2Proof

/-! ### The five commands write PAGE_CTRL with one bit changed (R67) -/

section
variable {m : Master} {b : Blk} {s : State}

theorem State.ctrlChange_open (h : PageOpen s b m) (hd : s.hostDenied b m oCtrl = false) (f : Word → Word) :
    s.ctrlChange b m f = ((s.ctrlWrite b m (f (s.rd (hdr b oCtrl)))).answer .done).hostFlush := by
  rw [State.ctrlChange, State.hdrReq_open h hd]

/-- Where no request of the host waits afterwards, the write is all that happens. -/
theorem State.ctrlChange_quiet (h : PageOpen s b m) (hd : s.hostDenied b m oCtrl = false) (f : Word → Word) {t : State}
    (ht : s.ctrlWrite b m (f (s.rd (hdr b oCtrl))) = t) (hq : t.host.bar0Held = []) : s.ctrlChange b m f = t.answer .done := by
  rw [State.ctrlChange_open h hd, ht]
  exact State.hostFlush_none (s := t.answer .done) hq

/-! ### What the page control says (R68, R69) -/

theorem CtrlKept.en {t : State} (h : CtrlKept s t) (b : Blk) : t.en b = s.en b := congrArg (tst · 0) (h b).1

theorem CtrlKept.drainBit {t : State} (h : CtrlKept s t) (b : Blk) : t.drainBit b = s.drainBit b := congrArg (tst · 1) (h b).1

theorem State.setCtrl_en (e d : Bool) : (s.setCtrl b e d).en b = e :=
  (State.wb_rb_ne _ _ d (by decide)).trans (s.wb_rb_same _ e (by decide))

theorem State.setCtrl_drainBit (e d : Bool) : (s.setCtrl b e d).drainBit b = d := State.wb_rb_same _ _ d (by decide)

theorem State.setCtrl_rd (e d : Bool) {a : Nat} (h : a ≠ hdr b oCtrl) : (s.setCtrl b e d).rd a = s.rd a :=
  (State.wb_rd_ne _ 1 d h).trans (s.wb_rd_ne 0 e h)

theorem State.undrain_ctrlKept (s : State) (b : Blk) : CtrlKept s (s.undrain b) := s.wb_stat_ctrlKept b false (by decide)

/-! ### A write without RST_REQ and KILL (R68, R69) -/

section
variable {v : Word} (hb : blkDrain b = true) (hrst : tst v 3 = false)
include hb hrst

theorem State.ctrlWrite_plain (hkill : tst v 2 = false) {t : State} (ht : s.enDrain b (tst v 0 && !s.keptOff b) (tst v 1) = some t) : s.ctrlWrite b m v = t := by
  simp [State.ctrlWrite, hb, hrst, hkill, ht]

theorem State.ctrlWrite_kill (hkill : tst v 2 = true) {t : State} (ht : s.enDrain b (tst v 0 && !s.keptOff b) (tst v 1) = some t) :
    s.ctrlWrite b m v = t.killReq b m := by
  simp [State.ctrlWrite, hb, hrst, hkill, ht]

theorem State.ctrlWrite_refused (ht : s.enDrain b (tst v 0 && !s.keptOff b) (tst v 1) = none) : s.ctrlWrite b m v = s.err b eBusy oCtrl m := by
  simp [State.ctrlWrite, hb, hrst, ht]

end

/-! ### The cases of EN and DRAIN (R68, R69) -/

section
variable (d : Bool)

theorem State.enDrain_disable (he : s.en b = true) (hd : s.drained b = false) : s.enDrain b false d = some ((s.setCtrl b false d).disableBlk b) := by
  simp [State.enDrain, he, hd]

theorem State.enDrain_cancel (he : s.en b = true) (hd : s.drained b = true) : s.enDrain b false d = some ((s.setCtrl b false d).cancelHeld b) := by
  simp [State.enDrain, he, hd]

theorem State.enDrain_pause (he : s.en b = true) (hd : s.drainBit b = false) : s.enDrain b true true = some ((s.setCtrl b true true).pauseBlk b) := by
  simp [State.enDrain, he, hd]

theorem State.enDrain_resume (he : s.en b = true) (hd : s.drainBit b = true) :
    s.enDrain b true false = some (((s.setCtrl b true false).undrain b).resumeBlk b) := by
  simp [State.enDrain, he, hd]

theorem State.enDrain_refused (he : s.en b = false) (hd : s.drained b = false) : s.enDrain b true d = none := by
  simp [State.enDrain, he, hd]

/-- EN is set on a drained block: it starts, and pauses again where DRAIN stands. -/
theorem State.enDrain_enable (he : s.en b = false) (hd : s.drained b = true) : s.enDrain b true d =
    some (if d then (((s.setCtrl b true d).undrain b).enableBlk b).pauseBlk b else ((s.setCtrl b true d).undrain b).enableBlk b) := by
  simp [State.enDrain, he, hd]

/-- EN and DRAIN as they are: a disabled block has both bits stored again. -/
theorem State.enDrain_same : s.enDrain b (s.en b) (s.drainBit b) = some (if s.en b then s else s.setCtrl b false (s.drainBit b)) := by
  cases he : s.en b <;> simp [State.enDrain, he]

end

/-! ### The bits after each of them -/

theorem State.started_ctrlKept (s : State) (b : Blk) (d : Bool) : CtrlKept (s.setCtrl b true d)
    (if d then (((s.setCtrl b true d).undrain b).enableBlk b).pauseBlk b else ((s.setCtrl b true d).undrain b).enableBlk b) := by
  have h : CtrlKept (s.setCtrl b true d) (((s.setCtrl b true d).undrain b).enableBlk b) := (State.undrain_ctrlKept _ b).trans (State.enableBlk_ctrlKept _ b)
  exact .ite ((State.pauseBlk_ctrlKept _ b).after h) h

theorem State.started_bar0Held (s : State) (b : Blk) (d : Bool) :
    (if d then (((s.setCtrl b true d).undrain b).enableBlk b).pauseBlk b else ((s.setCtrl b true d).undrain b).enableBlk b).host.bar0Held = s.host.bar0Held := by
  have h : (((s.setCtrl b true d).undrain b).enableBlk b).host.bar0Held = s.host.bar0Held := State.enableBlk_bar0Held _ b
  split
  · exact (State.pauseBlk_bar0Held _ b).trans h
  · exact h

/-! ### KILL (R69) -/

theorem State.killReq_refused (h : blkKill b = false ∨ s.draining b = false) : s.killReq b m = s.err b eKillIgnored oCtrl m := by
  rcases h with h | h <;> simp [State.killReq, h]

theorem State.killReq_taken (hk : blkKill b = true) (hd : s.draining b = true) : s.killReq b m = ((s.wb (hdr b oStat) 5 true).killBlk b).drainDone b := by
  simp [State.killReq, hk, hd]

theorem State.killReq_killed (hk : blkKill b = true) (hd : s.draining b = true) : (s.killReq b m).rb (hdr b oStat) 5 = true := by
  rw [State.killReq_taken hk hd]
  have h := (State.killBlk_ctrlKept (s.wb (hdr b oStat) 5 true) b).trans (State.drainDone_ctrlKept _ b)
  exact (h b).2.trans (s.wb_rb_same _ true (by decide))

/-- A block whose EN and DRAIN are stored as they are drains as before. -/
theorem State.setCtrl_draining (he : s.en b = false) : (s.setCtrl b false (s.drainBit b)).draining b = s.draining b := by
  have hd : (s.setCtrl b false (s.drainBit b)).drained b = s.drained b := congrArg (tst · 1) (State.setCtrl_rd _ _ (hdr_ctrl_ne_stat b b).symm)
  have map {a : Nat} (h : OffCtrl a) : (s.setCtrl b false (s.drainBit b)).rd a = s.rd a := State.setCtrl_rd _ _ (h.ne_ctrl b).symm
  have hr : (s.setCtrl b false (s.drainBit b)).inReset b = s.inReset b := State.inReset_of_bitmaps (map (by decide)) (map (by decide)) rfl b
  simp only [State.draining, State.setCtrl_en, State.setCtrl_drainBit, he, hd, hr]

end

/-! ### The end of a drain (R68) -/

section
variable (s : State) (b : Blk)

theorem State.setDrained_drained : (s.setDrained b).drained b = true := by
  unfold State.setDrained
  split
  · assumption
  · exact (congrArg (tst · 1) (State.irq_rd_ne _ b 30 (hdr_ne b (by decide)))).trans (s.wb_rb_same _ true (by decide))

theorem State.setDrained_new {s : State} {b : Blk} (h : s.drained b = false) : s.setDrained b = (s.wb (hdr b oStat) 1 true).irq b 30 := if_neg (by simp [h])

theorem State.setDrained_raises {s : State} {b : Blk} (h : s.drained b = false) : (s.setDrained b).rb (hdr b oRaw) 30 = true := by
  rw [State.setDrained_new h]
  exact State.irq_raises _ b (by decide) (irqMask_top b).1

theorem State.setDrained_regsOnly : RegsOnly [hdr b oStat, hdr b oRaw] s (s.setDrained b) := by
  unfold State.setDrained
  split
  · exact fun _ _ => rfl
  · exact ((RegsOnly.wr s _ _).mono (by simp)).trans ((State.irqBits_regsOnly _ b _).mono (by simp))

theorem State.setDrained_changes : ChangesOnly [.regs, .out, .pba] s (s.setDrained b) := (goes_setDrained s b rfl (.refl _ s)).1

theorem State.drainDone_ended {s : State} {b : Blk} (hd : s.draining b = true) (hu : s.unitBusy b = false) : s.drainDone b = s.setDrained b :=
  if_pos (by simp [hd, hu])

theorem State.drainDone_drained {s : State} {b : Blk} (h : s.drained b = true) : s.drainDone b = s := if_neg (by simp [State.draining, h])

theorem State.drained_of_draining {s : State} {b : Blk} (h : s.draining b = true) : s.drained b = false := by
  simp only [State.draining, Bool.and_eq_true, Bool.not_eq_true'] at h
  exact h.1.2

theorem exec_drainComplete {b : Blk} (h : ∀ n, b ≠ .drv n) : exec (.drainComplete b) s = .next (s.drainDone b) := by
  cases b with
  | drv n => exact absurd rfl (h n)
  | _ => rfl

theorem exec_drainComplete_drv (n : Fin 4) : exec (.drainComplete (.drv n)) s = .next (((s.drvFaded n.val).drvDrained n.val).drainDone (.drv n)) := rfl

theorem State.drvFaded_port (n : Nat) : (s.drvFaded n).port = s.port := (goes_drvFaded s n rfl (.refl [.cnt] s)).1 .port (by decide)

/-- A port that ends its fade is off, and its block is drained. -/
theorem State.drvDrained_ends {s : State} {n : Fin 4} (hl : s.port.length = 4) (hp : (s.port' n.val).st = .disabling) :
    ((s.drvDrained n.val).port' n.val).st = .off ∧ (s.drvDrained n.val).drained (.drv n) = true := by
  have hn : drvBlk n.val = .drv n := by simp [drvBlk]
  rw [State.drvDrained, if_pos hp, hn]
  refine ⟨?_, State.setDrained_drained _ _⟩
  have hport := (goes_setDrained (s.modPort n.val fun x => { x with st := .off }) (.drv n) rfl (.refl [.regs, .out, .pba] _)).1 .port (by decide)
  have hlt : n.val < s.port.length := n.isLt.trans_eq hl.symm
  show ((State.setDrained _ _).port.getD n.val portOff).st = .off
  rw [show (State.setDrained _ _).port = _ from hport]
  simp [State.modPort, setAt, hlt]

end

/-! ### The four writes and KILL leave EN, DRAIN and KILLED as they say -/

/-- A PAGE_CTRL below 4 holds no bit but EN and DRAIN. -/
theorem tst_of_lt_four {w : Word} (h : w.toNat < 4) {i : Nat} (hi : 2 ≤ i) : tst w i = false :=
  Nat.testBit_lt_two_pow (h.trans_le (Nat.pow_le_pow_right (n := 2) (by decide) hi))

section
variable {m : Master} {b : Blk} {s : State} (ho : PageOpen s b m) (hden : s.hostDenied b m oCtrl = false) (hb : blkDrain b = true) (hk : s.keptOff b = false)
  (hq : s.host.bar0Held = []) (hw : s.rn (hdr b oCtrl) < 4)
include ho hden hb hk hq hw

/-- A write of PAGE_CTRL with EN or DRAIN changed: the block does what the change of the two bits asks of it. -/
theorem State.ctrlChange_bit {i : Nat} (hi : i < 2) (x : Bool) {t : State}
    (ht : s.enDrain b (tst (setBit (s.rd (hdr b oCtrl)) i x) 0) (tst (setBit (s.rd (hdr b oCtrl)) i x) 1) = some t) (hh : t.host.bar0Held = s.host.bar0Held) :
    s.ctrlChange b m (fun v => setBit v i x) = t.answer .done := by
  have clear {j : Nat} (hj : 2 ≤ j) : tst (setBit (s.rd (hdr b oCtrl)) i x) j = false := (tst_setBit_ne _ x (by omega)).trans (tst_of_lt_four hw hj)
  refine State.ctrlChange_quiet ho hden _ (State.ctrlWrite_plain hb (clear (by decide)) (clear (by decide)) ?_) (hh.trans hq)
  rw [hk, Bool.not_false, Bool.and_true]
  exact ht

theorem exec_blockEnable_drained (he : s.en b = false) (hd : s.drained b = true) :
    ∃ t, exec (.blockEnable m b) s = .next t ∧ t.en b = true ∧ t.resp = .done := by
  refine ⟨_, congrArg Host.Outcome.next (State.ctrlChange_bit ho hden hb hk hq hw (i := 0) (by decide) true ?_ (s.started_bar0Held b (s.drainBit b))), ?_, rfl⟩
  · rw [tst_setBit_same _ true (by decide), tst_setBit_ne _ true (by decide)]
    exact State.enDrain_enable _ he hd
  · exact ((s.started_ctrlKept b (s.drainBit b)).en b).trans (State.setCtrl_en true _)

theorem exec_blockDisable_enabled (he : s.en b = true) : ∃ t, exec (.blockDisable m b) s = .next t ∧ t.en b = false ∧ t.resp = .done := by
  have bits (t : State) (ht : s.enDrain b false (s.drainBit b) = some t) :
      s.enDrain b (tst (setBit (s.rd (hdr b oCtrl)) 0 false) 0) (tst (setBit (s.rd (hdr b oCtrl)) 0 false) 1) = some t := by
    rw [tst_setBit_same _ false (by decide), tst_setBit_ne _ false (by decide)]
    exact ht
  cases hd : s.drained b with
  | false =>
    refine ⟨_, congrArg Host.Outcome.next (State.ctrlChange_bit ho hden hb hk hq hw (i := 0) (by decide) false (bits _ (State.enDrain_disable _ he hd))
      (State.disableBlk_bar0Held (s.setCtrl b false (s.drainBit b)) b)), ?_, rfl⟩
    exact ((State.disableBlk_ctrlKept _ b).en b).trans (State.setCtrl_en false _)
  | true =>
    refine ⟨_, congrArg Host.Outcome.next (State.ctrlChange_bit ho hden hb hk hq hw (i := 0) (by decide) false (bits _ (State.enDrain_cancel _ he hd))
      (State.cancelHeld_bar0Held (s.setCtrl b false (s.drainBit b)) b)), ?_, rfl⟩
    exact ((State.cancelHeld_ctrlKept _ b).en b).trans (State.setCtrl_en false _)

theorem exec_drainSet_enabled (he : s.en b = true) (hd : s.drainBit b = false) :
    ∃ t, exec (.drainSet m b) s = .next t ∧ t.en b = true ∧ t.drainBit b = true ∧ t.resp = .done := by
  have kept := State.pauseBlk_ctrlKept (s.setCtrl b true true) b
  refine ⟨_, congrArg Host.Outcome.next (State.ctrlChange_bit ho hden hb hk hq hw (i := 1) (by decide) true ?_ (State.pauseBlk_bar0Held (s.setCtrl b true true) b)),
    (kept.en b).trans (State.setCtrl_en true true), (kept.drainBit b).trans (State.setCtrl_drainBit true true), rfl⟩
  rw [tst_setBit_same _ true (by decide), tst_setBit_ne _ true (by decide), show tst (s.rd (hdr b oCtrl)) 0 = true from he]
  exact State.enDrain_pause he hd

theorem exec_drainClear_enabled (he : s.en b = true) (hd : s.drainBit b = true) :
    ∃ t, exec (.drainClear m b) s = .next t ∧ t.en b = true ∧ t.drainBit b = false ∧ t.resp = .done := by
  have kept := ((s.setCtrl b true false).undrain_ctrlKept b).trans (State.resumeBlk_ctrlKept _ b)
  refine ⟨_, congrArg Host.Outcome.next (State.ctrlChange_bit ho hden hb hk hq hw (i := 1) (by decide) false ?_ (State.resumeBlk_bar0Held ((s.setCtrl b true false).undrain b) b)),
    (kept.en b).trans (State.setCtrl_en true false), (kept.drainBit b).trans (State.setCtrl_drainBit true false), rfl⟩
  rw [tst_setBit_same _ false (by decide), tst_setBit_ne _ false (by decide), show tst (s.rd (hdr b oCtrl)) 0 = true from he]
  exact State.enDrain_resume he hd

theorem exec_kill_draining (hkill : blkKill b = true) (hd : s.draining b = true) :
    ∃ t, exec (.kill m b) s = .next t ∧ t.rb (hdr b oStat) 5 = true ∧ t.resp = .done := by
  let u := if s.en b then s else s.setCtrl b false (s.drainBit b)
  have hdu : u.draining b = true := by
    cases he : s.en b with
    | true => simpa [u, he] using hd
    | false => simpa [u, he, State.setCtrl_draining he] using hd
  have hqu : u.host.bar0Held = [] := by
    unfold u
    split <;> exact hq
  have bit {j : Nat} (hj : j ≠ 2) : tst (setBit (s.rd (hdr b oCtrl)) 2 true) j = tst (s.rd (hdr b oCtrl)) j := tst_setBit_ne _ true hj.symm
  have ht : s.ctrlWrite b m (setBit (s.rd (hdr b oCtrl)) 2 true) = u.killReq b m := by
    refine State.ctrlWrite_kill hb ((bit (by decide)).trans (tst_of_lt_four hw (by decide))) (tst_setBit_same _ true (by decide)) ?_
    rw [hk, Bool.not_false, Bool.and_true, bit (by decide), bit (by decide)]
    exact State.enDrain_same
  exact ⟨_, congrArg Host.Outcome.next (State.ctrlChange_quiet ho hden _ ht ((u.killReq_bar0Held b m).trans hqu)), State.killReq_killed hkill hdu, rfl⟩

end

/-- Settles O32: the writes by the cases of EN and DRAIN, whose work leaves the page control as it was written; the kill and the end of a drain are computed. -/
theorem blocksDrainPauseResumeAndStop : Obligations.BlocksDrainPauseResumeAndStop := by
  refine ⟨?writes, ?bits, ?cases, ?kill, ?drain, ?driver⟩
  case writes =>
    intro m b s h hd
    have write (f : Word → Word) : Host.Outcome.next (φ := Fault) (ρ := Refusal) (s.ctrlChange b m f) = .next _ := congrArg _ (State.ctrlChange_open h hd f)
    exact ⟨write fun v => setBit v 0 true, write fun v => setBit v 0 false, write fun v => setBit v 1 true, write fun v => setBit v 1 false,
      write fun v => setBit v 2 true⟩
  case bits =>
    intro m b s ho hden hb hk hq hw
    exact ⟨exec_blockEnable_drained ho hden hb hk hq hw, exec_blockDisable_enabled ho hden hb hk hq hw, exec_drainSet_enabled ho hden hb hk hq hw,
      exec_drainClear_enabled ho hden hb hk hq hw, exec_kill_draining ho hden hb hk hq hw⟩
  case cases =>
    intro m b v s hb hrst hkill
    refine ⟨fun he hv hd => ?_, fun he hv hd => ?_, fun he hv hk h1 hd => ?_, fun he hv hk h1 hd => ?_, fun he hv hk hd => ?_, fun he hv hk h1 hd => ?_⟩
    · exact State.ctrlWrite_plain hb hrst hkill (by rw [hv, Bool.false_and]; exact State.enDrain_disable _ he hd)
    · exact State.ctrlWrite_plain hb hrst hkill (by rw [hv, Bool.false_and]; exact State.enDrain_cancel _ he hd)
    · exact State.ctrlWrite_plain hb hrst hkill (by rw [hv, hk, h1]; exact State.enDrain_pause he hd)
    · exact State.ctrlWrite_plain hb hrst hkill (by rw [hv, hk, h1]; exact State.enDrain_resume he hd)
    · exact State.ctrlWrite_refused hb hrst (by rw [hv, hk]; exact State.enDrain_refused _ he hd)
    · exact State.ctrlWrite_plain hb hrst hkill (by rw [hv, hk, h1]; exact State.enDrain_enable false he hd)
  case kill => exact fun m b s => ⟨State.killReq_refused, State.killReq_taken⟩
  case drain =>
    intro b s hb hd hu
    have hx : exec (.drainComplete b) s = .next (s.setDrained b) := (exec_drainComplete s hb).trans (congrArg _ (State.drainDone_ended hd hu))
    exact ⟨_, hx, s.setDrained_drained b, State.setDrained_raises (State.drained_of_draining hd), s.setDrained_regsOnly b, s.setDrained_changes b⟩
  case driver =>
    refine fun n s => ⟨exec_drainComplete_drv s n, fun hl hp => ?_⟩
    have hport := s.drvFaded_port n.val
    obtain ⟨hoff, hdrained⟩ := State.drvDrained_ends (s := s.drvFaded n.val) (n := n) ((congrArg List.length hport).trans hl)
      ((congrArg (fun l => (l.getD n.val portOff).st) hport).trans hp)
    exact ⟨_, (exec_drainComplete_drv s n).trans (congrArg _ (State.drainDone_drained hdrained)), hoff, hdrained⟩

end Sys2Proof.Machine
end

section
/-! PROOFS. The choice among ready wares. -/

namespace Sys2Proof.Machine

open Sys2Proof

/-! ### The best of a list of ready wares (R100) -/

section
variable {prio : Ware → Nat}

theorem bestWare_eq_none {l : List RWare} : bestWare prio l = none ↔ l = [] := by
  cases l with
  | nil => simp [bestWare]
  | cons r l =>
    simp only [bestWare, reduceCtorEq, iff_false]
    cases bestWare prio l with
    | none => simp
    | some b => by_cases hb : prio b.w ≤ prio r.w <;> simp [hb]

/-- The first ware of a list stays the choice unless the choice among the others has a higher priority. -/
theorem bestWare_cons {x r : RWare} {l : List RWare} (h : bestWare prio (x :: l) = some r) :
    (l = [] ∧ x = r) ∨ ∃ c, bestWare prio l = some c ∧ ((prio c.w ≤ prio x.w ∧ x = r) ∨ (prio x.w < prio c.w ∧ c = r)) := by
  simp only [bestWare] at h
  cases hc : bestWare prio l with
  | none => exact .inl ⟨bestWare_eq_none.mp hc, by simpa [hc] using h⟩
  | some c =>
    refine .inr ⟨c, rfl, ?_⟩
    by_cases hle : prio c.w ≤ prio x.w
    · exact .inl ⟨hle, by simpa [hc, hle] using h⟩
    · exact .inr ⟨Nat.lt_of_not_le hle, by simpa [hc, hle] using h⟩

theorem bestWare_splits {l : List RWare} {r : RWare} (h : bestWare prio l = some r) :
    ∃ a b, l = a ++ r :: b ∧ (∀ x ∈ a, prio x.w < prio r.w) ∧ ∀ x ∈ b, prio x.w ≤ prio r.w := by
  induction l generalizing r with
  | nil => cases h
  | cons x l ih =>
    obtain ⟨rfl, rfl⟩ | ⟨c, hc, hx⟩ := bestWare_cons h
    · exact ⟨[], [], rfl, by simp, by simp⟩
    · obtain ⟨a, b, rfl, ha, hb⟩ := ih hc
      obtain ⟨hle, rfl⟩ | ⟨hlt, rfl⟩ := hx
      · refine ⟨[], a ++ c :: b, rfl, by simp, fun y hy => ?_⟩
        obtain hy | rfl | hy := List.mem_append.mp hy |>.imp_right List.mem_cons.mp
        · exact (ha y hy).le.trans hle
        · exact hle
        · exact (hb y hy).trans hle
      · exact ⟨x :: a, b, rfl, List.forall_mem_cons.mpr ⟨hlt, ha⟩, hb⟩

theorem bestWare_mem {l : List RWare} {r : RWare} (h : bestWare prio l = some r) : r ∈ l := by
  obtain ⟨a, b, rfl, _⟩ := bestWare_splits h
  exact List.mem_append_right a List.mem_cons_self

end

/-- Settles O39, by induction on the list: the first ware of a list is the choice unless the choice among the others has a higher priority. -/
theorem theEarliestOfTheHighestIsChosen : Obligations.TheEarliestOfTheHighestIsChosen :=
  ⟨fun _ _ => bestWare_eq_none, fun _ _ _ => bestWare_splits⟩

end Sys2Proof.Machine
end

section
/-! SUPPORT. What completions, counters, the arrival of a ware and the matching store leave in the Market. -/

namespace Sys2Proof.Machine

open Sys2Proof

/-! ### Completions leave the rest of the Market (R90, R91) -/

/-- Of the Market, at most the completions that it holds differ. -/
def CompsOnly (s t : State) : Prop := ∃ c, t.mkt = { s.mkt with comps := c }

theorem CompsOnly.of_mkt {s t : State} (h : t.mkt = s.mkt) : CompsOnly s t := ⟨s.mkt.comps, h⟩

theorem CompsOnly.trans {s t u : State} (h : CompsOnly s t) (h' : CompsOnly t u) : CompsOnly s u := by
  obtain ⟨_, e⟩ := h
  obtain ⟨c, e'⟩ := h'
  exact ⟨c, by rw [e', e]⟩

theorem CompsOnly.after {s t u : State} (h' : CompsOnly t u) (h : CompsOnly s t) : CompsOnly s u := h.trans h'

theorem CompsOnly.ite {s t u : State} {c : Prop} [Decidable c] (ht : CompsOnly s t) (hu : CompsOnly s u) : CompsOnly s (if c then t else u) := by
  split <;> assumption

theorem CompsOnly.parked {s t : State} (h : CompsOnly s t) : t.mkt.parked = s.mkt.parked := by
  obtain ⟨_, e⟩ := h
  rw [e]

theorem CompsOnly.hwHeld {s t : State} (h : CompsOnly s t) : t.mkt.hwHeld = s.mkt.hwHeld := by
  obtain ⟨_, e⟩ := h
  rw [e]

theorem State.pushEnt_mkt (s : State) (q : Nat) (v : DWord) : (s.pushEnt q v).mkt = s.mkt :=
  (goes_pushEnt s q v rfl (.refl [.regs, .out, .que, .pba] s)).1 .mkt (by decide)

theorem compFlush_compsOnly (l : List (Nat × DWord)) (stuck : List Nat) (s : State) : CompsOnly s (compFlush l stuck s) := by
  induction l generalizing stuck s with
  | nil => exact .of_mkt rfl
  | cons p l ih =>
    obtain ⟨q, v⟩ := p
    unfold compFlush
    refine .ite ((ih _ _).after ⟨_, rfl⟩) (.ite ((ih _ _).after (.of_mkt ?_)) ((ih _ _).after (.of_mkt (s.pushEnt_mkt q v))))
    exact State.err_mkt _ _ _ _ _

theorem State.complete_compsOnly (s : State) (q : Nat) (v : DWord) : CompsOnly s (s.complete q v) := (compFlush_compsOnly _ _ _).after ⟨_, rfl⟩

theorem State.wareDone_compsOnly (s : State) (w : Ware) (status : Nat) : CompsOnly s (s.wareDone w status) := by
  unfold State.wareDone
  extract_lets t
  have ht : CompsOnly s t := .ite (s.complete_compsOnly _ _) (.of_mkt rfl)
  exact .ite (ht.trans (t.complete_compsOnly _ _)) ht

theorem returnAll_compsOnly (status : Nat) (l : List Ware) (s : State) : CompsOnly s (returnAll status l s) := by
  induction l generalizing s with
  | nil => exact .of_mkt rfl
  | cons w l ih => exact (s.wareDone_compsOnly w status).trans (ih _)

/-! ### Counters (R94, R95) -/

theorem clampI_toNat (v : Int) : ((clampI 0 0xFFFF v).toNat : Int) = clampI 0 0xFFFF v := by
  unfold clampI
  split
  · rfl
  · split <;> omega

section
variable (s : State) {n : Nat}

/-- Counter 0 reads 0 whatever is stored in it; another reads what it was set to. -/
theorem State.setCtr_ctr (n v : Nat) : (s.setCtr n v).ctr n = if n = 0 then 0 else v := by
  by_cases hn : n = 0
  · simp [State.ctr, hn]
  · by_cases hv : v = 0 <;> simp [State.ctr, State.setCtr, wakeWaiters, readyAll, hn, hv]

theorem State.setCtr_changes (n v : Nat) : ChangesOnly [.mkt] s (s.setCtr n v) := (goes_setCtr s n v rfl (.refl _ s)).1

/-- A counter set to 0 readies the wares that wait on it, in the order of their arrival. -/
theorem State.setCtr_wakes (h : n ≠ 0) :
    (s.setCtr n 0).mkt.ready = s.mkt.ready ++ readyNow s.mkt.cycle s.mkt.readied (s.mkt.waiting.filter fun w => w.b12 % 1024 = n) ∧
      (s.setCtr n 0).mkt.waiting = s.mkt.waiting.filter fun w => w.b12 % 1024 ≠ n := by
  simp [State.setCtr, wakeWaiters, readyAll, h]

end

/-! ### The arrival of a ware (R94, R96) -/

section
variable {s : State} {a : Ware}

theorem State.mktMark_mkt (s : State) (n : Nat) :
    (s.mktMark n).mkt = { s.mkt with high := max s.mkt.high (heldCount s.mkt), matchHigh := max s.mkt.matchHigh s.mkt.parked.length } := by
  unfold State.mktMark
  extract_lets k m t lvl
  split
  · exact State.irq_mkt _ _ _
  · rfl

theorem State.arrive_readies (hc : s.clsMatch a.clsN = false) (h : a.b12 % 1024 = 0 ∨ s.ctr (a.b12 % 1024) = 0) :
    s.arrive a = (s.makeReady a).mktMark (heldCount s.mkt) := by
  have hr : ¬ (a.b12 % 1024 ≠ 0 ∧ s.ctr (a.b12 % 1024) ≠ 0) := by tauto
  simp only [State.arrive, hc, Bool.false_eq_true, if_false, if_neg hr]

/-- A ware of a class by readiness whose counter is none or 0 joins the ready set as it arrives. -/
theorem State.arrive_mkt_ready (hc : s.clsMatch a.clsN = false) (h : a.b12 % 1024 = 0 ∨ s.ctr (a.b12 % 1024) = 0) :
    (s.arrive a).mkt.ready = s.mkt.ready ++ readyNow s.mkt.cycle s.mkt.readied [a] ∧ (s.arrive a).mkt.waiting = s.mkt.waiting := by
  rw [State.arrive_readies hc h, State.mktMark_mkt]
  exact ⟨rfl, rfl⟩

theorem State.arrive_waits (hc : s.clsMatch a.clsN = false) (h : a.b12 % 1024 ≠ 0) (h' : s.ctr (a.b12 % 1024) ≠ 0) :
    s.arrive a = ({ s with mkt := { s.mkt with waiting := s.mkt.waiting ++ [a] } } : State).mktMark (heldCount s.mkt) := by
  simp only [State.arrive, hc, Bool.false_eq_true, if_false, if_pos (And.intro h h')]

theorem State.arrive_matches (hc : s.clsMatch a.clsN = true) : s.arrive a = (s.matchIn a).mktMark (heldCount s.mkt) := by
  simp only [State.arrive, hc, if_true]

/-- An operand with a partner of the other side takes it out of the store, and the pair is ready. -/
theorem State.matchIn_pairs {p : Ware × Word} (hp : s.mkt.parked.find? (fun p => p.1.key = a.key) = some p) (hside : p.1.side ≠ a.side) :
    s.matchIn a = ({ s with mkt := { s.mkt with parked := s.mkt.parked.filter fun x => x.1.key ≠ a.key } } : State).makeReady
      (if a.side then pairOf p.1 a else pairOf a p.1) := by
  simp only [State.matchIn, hp, if_neg hside]

theorem State.matchIn_parks (hp : s.mkt.parked.find? (fun p => p.1.key = a.key) = none) (hl : s.mkt.parked.length < 2048) :
    s.matchIn a = { s with mkt := { s.mkt with parked := s.mkt.parked ++ [(a, s.tick32)] } } := by
  simp only [State.matchIn, hp, if_neg (Nat.not_le.mpr hl)]

/-! ### Operands of a key that time out (R97) -/

theorem State.mktRoom_none (h : s.mkt.hwHeld = []) : s.mktRoom = { s with mkt := { s.mkt with hwHeld := [] } } := by
  rw [State.mktRoom, h, hwTake]

theorem State.matchTimeouts_parked (f : Ware × Word → Bool) (h : s.mkt.hwHeld = []) :
    (s.matchTimeouts f).mkt.parked = s.mkt.parked.filter fun p => !f p := by
  unfold State.matchTimeouts
  extract_lets old m t
  split
  · next hold =>
    refine (List.filter_eq_self.mpr fun p hp => ?_).symm
    have hf : s.mkt.parked.filter f = [] := by simpa [old] using hold
    simpa using List.filter_eq_nil_iff.mp hf p hp
  · have hc : CompsOnly t (returnAll 0x03 old ((t.bumpSat R.mkt_MATCH_TO_CNT old.length).irq .mkt 2)) :=
      (returnAll_compsOnly _ _ _).after (.of_mkt (State.irq_mkt _ _ _))
    rw [State.mktRoom_none (hc.hwHeld.trans h)]
    exact hc.parked

end

end Sys2Proof.Machine
end

section
/-! PROOFS. Wares submitted and matched, counters, and the settings of classes and domains. -/

namespace Sys2Proof.Machine

open Sys2Proof

/-! ### The last word of a submit window (R86, R88, R108) -/

section
variable {m : Master} {v : Word} {win : Nat} {s : State}

theorem State.submit_disabled (hw : submitWin m = some win) (he : s.en .mkt = false) :
    s.submit m v = (s.stageWare win 7 v).err .mkt eBusy (submitOff m) m := by
  rw [State.submit, hw]
  exact if_pos (congrArg not he)

/-- The submission of the ware that stands in a window once its last word is staged. -/
theorem State.submit_enabled (hw : submitWin m = some win) (he : s.en .mkt = true) : s.submit m v =
    if (s.stageWare win 7 v).badWare ((s.stageWare win 7 v).staged win) then (s.stageWare win 7 v).err .mkt 0x81 (submitOff m) m
    else if 8192 ≤ heldCount (s.stageWare win 7 v).mkt then (s.stageWare win 7 v).err .mkt 0x80 (submitOff m) m
    else (s.stageWare win 7 v).arrive ((s.stageWare win 7 v).staged win) := by
  rw [State.submit, hw]
  exact if_neg (ne_true_of_eq_false (congrArg not he))

theorem exec_wareSubmit (h : PageOpen s .mkt m) {t : State} (ht : s.submit m v = t) : exec (.wareSubmit m v) s = .next (t.answer .done) := by
  subst ht
  exact congrArg _ (State.writeAt_open h _ _ _)

end

/-! ### Settings of classes and domains (R93, R99) -/

section
variable {m : Master} {v : Word} {s : State}

theorem State.classCfg_eq {n : Nat} (hl : s.locked .mkt = false) (hv : fld v 3 2 ≠ 3) : s.classCfg m n v =
    if (allWares s.mkt).any fun w => w.clsN = n then s.err .mkt eBusy (0x80 + 4 * n) m else s.wr (R.mkt_CLASS_CFG0 n) (v &&& 0xFF1F) := by
  simp only [State.classCfg, State.unlessLocked, hl, Bool.false_eq_true, if_false, if_neg hv]

theorem State.domCfgWrite_eq (hl : s.locked .mkt = false) : s.domCfgWrite m v =
    if domHeld s.mkt (s.rf R.mkt_DOM_SEL 0 12) ≠ 0 then s.err .mkt 0x84 0xA4 m
    else { s with mkt := { s.mkt with doms := Sparse.set (fun _ => 1) s.mkt.doms (s.rf R.mkt_DOM_SEL 0 12) (merge 0xF (s.domCfg (s.rf R.mkt_DOM_SEL 0 12)) v) } } := by
  simp only [State.domCfgWrite, State.unlessLocked, hl, Bool.false_eq_true, if_false]

theorem exec_classCfgWrite {n : Fin 8} (h : PageOpen s .mkt m) {t : State} (ht : s.classCfg m n.val v = t) :
    exec (.classCfgWrite m n v) s = .next (t.answer .done) := by
  subst ht
  exact congrArg _ (State.writeAt_open h _ _ _)

theorem exec_domCfgWrite (h : PageOpen s .mkt m) {t : State} (ht : s.domCfgWrite m v = t) : exec (.domCfgWrite m v) s = .next (t.answer .done) := by
  subst ht
  exact congrArg _ (State.writeAt_open h _ _ _)

end

/-- Settles O38: each access runs its one operation on the open page, whose cases say what becomes of the ware, the counter or the setting. -/
theorem waresAreSubmittedAndMatched : Obligations.WaresAreSubmittedAndMatched := by
  refine ⟨?submit, ?readiness, ?matching, ?write, ?add, ?timeout, ?cls, ?dom⟩
  case submit =>
    intro m v win s h hw u w
    refine ⟨fun he => exec_wareSubmit h (State.submit_disabled hw he), fun he hb => exec_wareSubmit h ((State.submit_enabled hw he).trans (if_pos hb)),
      fun he hb hl => exec_wareSubmit h ((State.submit_enabled hw he).trans ?full),
      fun he hb hl => ⟨_, exec_wareSubmit h ((State.submit_enabled hw he).trans ?room), rfl, rfl, ?ready⟩⟩
    case full => exact (if_neg (ne_true_of_eq_false hb)).trans (if_pos hl)
    case room => exact (if_neg (ne_true_of_eq_false hb)).trans (if_neg (Nat.not_le.mpr hl))
    case ready => exact fun hc h0 => (State.arrive_mkt_ready (s := u) hc (.inl h0)).1
  case readiness =>
    intro a s hc
    refine ⟨State.arrive_mkt_ready hc, fun h0 h1 => ?_⟩
    rw [State.arrive_waits hc h0 h1, State.mktMark_mkt]
    exact ⟨rfl, rfl⟩
  case matching =>
    intro a s hc
    rw [State.arrive_matches hc, State.mktMark_mkt]
    refine ⟨fun p hp hside => ?_, fun hp hl => ?_⟩
    · rw [State.matchIn_pairs hp hside]
      exact ⟨rfl, rfl⟩
    · rw [State.matchIn_parks hp hl]
      exact ⟨rfl, rfl⟩
  case write =>
    intro m v s h n
    refine ⟨_, congrArg Host.Outcome.next (State.writeAt_open h _ _ _), rfl, s.setCtr_ctr n _, (s.setCtr_changes n _).answer _ (by simp) (by simp), fun hn hv => ?_⟩
    rw [hv]
    exact s.setCtr_wakes hn
  case add =>
    intro m v s h n
    refine ⟨_, congrArg Host.Outcome.next (State.writeAt_open h _ _ _), rfl, (s.setCtr_changes n _).answer _ (by simp) (by simp), fun hn => ?_⟩
    exact (congrArg _ ((s.setCtr_ctr n _).trans (if_neg hn))).trans (clampI_toNat _)
  case timeout =>
    intro key s h old
    exact ⟨_, congrArg Host.Outcome.next (if_neg (ne_true_of_eq_false h)), rfl, State.matchTimeouts_parked old⟩
  case cls =>
    intro m n v s h hl hv
    refine ⟨fun hnone => ⟨_, exec_classCfgWrite h ((State.classCfg_eq hl hv).trans (if_neg ?_)), rfl, s.rd_wr_same _ _, rfl⟩,
      fun ⟨w, hw, hn⟩ => exec_classCfgWrite h ((State.classCfg_eq hl hv).trans (if_pos ?_))⟩
    · simpa using hnone
    · exact List.any_eq_true.mpr ⟨w, hw, decide_eq_true hn⟩
  case dom =>
    intro m v s h hl d
    refine ⟨fun h0 => ⟨_, exec_domCfgWrite h ((State.domCfgWrite_eq hl).trans (if_neg (not_not.mpr h0))), rfl, Sparse.get_set_same _ _ _ _, rfl⟩,
      fun h0 => exec_domCfgWrite h ((State.domCfgWrite_eq hl).trans (if_pos h0))⟩

end Sys2Proof.Machine
end

section
/-! SUPPORT. The registers that the Market leaves alone as it completes, matches and retires wares. -/

namespace Sys2Proof.Machine

open Sys2Proof

/-- A register that no work of the Market writes: past the page header, off the page of MKT, and no QDROP register, which lies at 12 modulo 32 whatever the queue's number. -/
abbrev OffMarket (a : Nat) : Prop := PastHeader a ∧ a / 0x1000 ≠ 6 ∧ a % 32 ≠ 12

section
variable {a : Nat} (h : OffMarket a)
include h

/-! ### Completions (R90, R91) -/

theorem State.pushEnt_rd (s : State) (q : Nat) (v : DWord) : (s.pushEnt q v).rd a = s.rd a := by
  unfold State.pushEnt
  extract_lets x n lvl pkt x' t
  split
  · exact State.irq_rd_past t .que q h.1
  · rfl

theorem State.qdrop_rd (s : State) (q : Nat) : (s.qdrop q).rd a = s.rd a := by
  refine s.bumpSat_rd_ne 1 fun e => h.2.2 ?_
  rw [e]
  show (0x0C10C + 32 * q) % 32 = 12
  omega

theorem compFlush_rd (l : List (Nat × DWord)) (stuck : List Nat) (s : State) : (compFlush l stuck s).rd a = s.rd a := by
  induction l generalizing stuck s with
  | nil => rfl
  | cons p l ih =>
    obtain ⟨q, v⟩ := p
    unfold compFlush
    split
    · exact ih _ _
    · split
      · exact (ih _ _).trans ((State.err_rd_past _ _ _ _ _ h.1).trans (s.qdrop_rd h q))
      · exact (ih _ _).trans (s.pushEnt_rd h q v)

theorem State.complete_rd (s : State) (q : Nat) (v : DWord) : (s.complete q v).rd a = s.rd a := compFlush_rd h _ _ _

theorem State.wareDone_rd (s : State) (w : Ware) (status : Nat) : (s.wareDone w status).rd a = s.rd a := by
  unfold State.wareDone
  extract_lets t
  have ht : t.rd a = s.rd a := by
    unfold t
    split
    · exact s.complete_rd h _ _
    · rfl
  split
  · exact (t.complete_rd h _ _).trans ht
  · exact ht

/-! ### Arrival and dispatch (R88, R94, R96) -/

theorem State.storeRefusal_rd (s : State) {c : Nat} (hc : c / 0x1000 = 6) (i : Nat) (w : Ware) (status : Nat) :
    (((s.bumpSat c 1).irq .mkt i).wareDone w status).rd a = s.rd a :=
  (State.wareDone_rd h _ _ _).trans ((State.irq_rd_past _ _ _ h.1).trans (s.bumpSat_rd_ne 1 fun e => h.2.1 (e ▸ hc)))

theorem State.matchIn_rd (s : State) (w : Ware) : (s.matchIn w).rd a = s.rd a := by
  unfold State.matchIn
  split
  · split
    · exact s.storeRefusal_rd h rfl _ _ _
    · rfl
  · split
    · exact s.storeRefusal_rd h rfl _ _ _
    · rfl

theorem State.mktMark_rd (s : State) (n : Nat) : (s.mktMark n).rd a = s.rd a := by
  unfold State.mktMark
  extract_lets k m t lvl
  split
  · exact State.irq_rd_past t _ _ h.1
  · rfl

theorem State.arrive_rd (s : State) (w : Ware) : (s.arrive w).rd a = s.rd a := by
  unfold State.arrive
  extract_lets n m t
  refine (t.mktMark_rd h n).trans ?_
  unfold t
  split
  · exact s.matchIn_rd h w
  · split <;> rfl

theorem hwTake_rd (l : List Ware) (s : State) : (hwTake l s).rd a = s.rd a := by
  induction l generalizing s with
  | nil => rfl
  | cons w l ih =>
    unfold hwTake
    split
    · exact (ih _).trans (s.arrive_rd h w)
    · rfl

theorem State.startLane_rd (s : State) (n : Nat) : (s.startLane n).rd a = s.rd a := by
  unfold State.startLane
  extract_lets l
  split
  · split
    · refine (hwTake_rd h _ _).trans ?_
      split <;> rfl
    · rfl
  · rfl

/-! ### Retirement (R89, R95) -/

theorem State.decCtr_rd (s : State) (n : Nat) : (s.decCtr n).rd a = s.rd a := by
  unfold State.decCtr
  split
  · exact (State.irq_rd_past _ _ _ h.1).trans (s.err_rd_past _ _ _ _ h.1)
  · exact (goes_setCtr s n _ rfl (.refl [.mkt] s)).rd (by decide) (by decide) a

theorem State.retireWare_rd (s : State) (w : Ware) (v : Word) : (s.retireWare w v).rd a = s.rd a := by
  have dec (t : State) (c : Prop) [Decidable c] (n : Nat) : (if c then t.decCtr n else t).rd a = t.rd a := by
    split
    · exact t.decCtr_rd h n
    · rfl
  exact (State.wareDone_rd h _ _ _).trans ((dec _ _ _).trans (dec s _ _))

theorem State.mktDrainCheck_rd (s : State) : s.mktDrainCheck.rd a = s.rd a := by
  unfold State.mktDrainCheck
  split
  · exact s.setDrained_rd_past .mkt h.1
  · rfl

theorem State.laneDrainCheck_rd (s : State) (n : Nat) : (s.laneDrainCheck n).rd a = s.rd a := by
  unfold State.laneDrainCheck
  extract_lets b
  split
  · refine (State.setDrained_rd_past _ b h.1).trans ?_
    split <;> rfl
  · rfl

end

theorem offMarket_WARES_DONE (n : Fin 4) : OffMarket (R.lane_WARES_DONE n.val) := by
  have := n.isLt
  show 0x40 ≤ (0x08054 + 0x1000 * n.val) % 0x1000 ∧ (0x08054 + 0x1000 * n.val) / 0x1000 ≠ 6 ∧ (0x08054 + 0x1000 * n.val) % 32 ≠ 12
  omega

end Sys2Proof.Machine
end

section
/-! PROOFS. Dispatch to a lane, its window, retirement, completions, the take ports, and the requests behind a blocked read. -/

namespace Sys2Proof.Machine

open Sys2Proof

/-! ### Dispatch to a lane (R98, R100) -/

section
variable {s : State}

theorem State.setLane_laneSt (s : State) {n : Nat} (l : LaneSt) (h : n < s.mkt.lanes.length) : (s.setLane n l).laneSt n = l := by
  simp [State.setLane, State.laneSt, setAt, h]

theorem fld_setFld_lane (w : Word) {n : Nat} (h : n < 4) : fld (setFld w 4 2 n) 4 2 = n := by
  have := w.isLt
  simp only [fld, setFld, BitVec.toNat_ofNat]
  omega

theorem State.noteLane_last (s : State) (d : Nat) {n : Nat} (h : n < 4) : fld ((s.noteLane d n).domCfg d) 4 2 = n := by
  have e : (s.noteLane d n).domCfg d = setBit (setFld (s.domCfg d) 4 2 n) 6 true := Sparse.get_set_same _ _ _ _
  rw [e, fld_setBit_ne _ _ (by decide), fld_setFld_lane _ h]

/-- A candidate of a serial domain finds none of the domain's wares dispatched and not retired. -/
theorem State.candidate_serial {us : Nat} {r : RWare} (h : s.candidate us r = true) (hs : tst (s.domCfg r.w.dom) 0 = true) : domBusy s.mkt r.w.dom = false := by
  simp only [State.candidate, State.domTurn, hs, Bool.not_true, Bool.false_or, Bool.and_eq_true, Bool.not_eq_true'] at h
  obtain ⟨⟨_, hbusy, _⟩, _⟩ := h
  exact hbusy

/-- The state in which a ware has left the ready set for the last slot of a lane. -/
def State.slotFilled (s : State) (n : Nat) (r : RWare) : State :=
  ((s.unready r).noteLane r.w.dom n).setLane n { s.laneSt n with slots := (s.laneSt n).slots ++ [{ r with overran := false }] }

theorem State.slotFilled_goes (s : State) (n : Nat) (r : RWare) : Goes [.mkt] s (s.slotFilled n r) :=
  goes_setLane _ _ _ rfl (goes_noteLane _ _ _ rfl (goes_unready s r rfl (.refl _ s)))

theorem State.dispatchLane_fills {n : Fin 4} {us : Nat} {r : RWare} (hm : s.takes .mkt = true) (hl : s.takes (.lane n) = true)
    (hs : (s.laneSt n.val).slots.length < 2) (hst : (s.laneSt n.val).stalled = false)
    (hr : bestWare s.prio (s.mkt.ready.filter fun x => s.candidate us x && s.laneServes n.val x.w && s.laneMay n.val x) = some r) :
    s.dispatchLane n.val us = s.slotFilled n.val r := by
  simp [State.dispatchLane, State.mktDispatches, hm, hl, hr, hst, Nat.not_le.mpr hs, State.slotFilled]

theorem State.dispatchLane_none {n us : Nat} (h : ∀ r ∈ s.mkt.ready, s.laneServes n r.w = false) : s.dispatchLane n us = s := by
  have none : s.mkt.ready.filter (fun x => s.candidate us x && s.laneServes n x.w && s.laneMay n x) = [] :=
    List.filter_eq_nil_iff.mpr fun r hr => by simp [h r hr]
  simp [State.dispatchLane, none, bestWare]

/-- With no request of the host waiting, a dispatch command does what the Market does once its clock has advanced. -/
theorem exec_wareDispatch_lane {n : Fin 4} {us cy : Nat} (h : s.inReset .mkt = false) {t : State}
    (ht : State.dispatchLane { s with mkt := { s.mkt with cycle := s.mkt.cycle + cy } } n.val us = t) (hq : t.host.bar0Held = []) :
    exec (.wareDispatch (.lane n) us cy) s = .next t := by
  have e : s.dispatch (.lane n) us cy = t := (if_neg (ne_true_of_eq_false h)).trans ht
  exact congrArg Host.Outcome.next ((congrArg State.hostFlush e).trans (State.hostFlush_none hq))

end

/-! ### The ware window of a lane (R84) -/

section
variable {n : Fin 4} {s : State}

theorem exec_wareWindowRead (ho : PageOpen s .mkt (.lane n)) (hl : s.inReset (.lane n) = false) {t : State} (ht : s.windowRead n.val = t) :
    exec (.wareWindowRead n) s = .next t :=
  congrArg Host.Outcome.next ((if_neg (ne_true_of_eq_false hl)).trans ((State.onPage_open ho _ _).trans ht))

theorem State.windowRead_running {n : Nat} {r : RWare} (h : (s.laneSt n).running = some r) : s.windowRead n = s.answer (.bytes (wareBytes r.w)) := by
  simp only [State.windowRead, h]

theorem State.windowRead_starts {r : RWare} {l : List RWare} (h : (s.laneSt n.val).running = none) (hs : (s.laneSt n.val).slots = r :: l)
    (hm : s.takes .mkt = true) (hl : s.takes (.lane n) = true) : s.windowRead n.val = (s.startLane n.val).answer (.bytes (wareBytes r.w)) := by
  simp [State.windowRead, State.mktDispatches, h, hs, hm, hl]

theorem State.windowRead_stalls {n : Nat} (h : (s.laneSt n).running = none) (hs : (s.laneSt n).slots = []) :
    s.windowRead n = (s.setLane n { s.laneSt n with stalled := true }).answer .stalled := by
  simp only [State.windowRead, h, hs]

end

/-! ### Retirement (R89, R103) -/

section
variable {s : State} {v : Word}

theorem exec_wareRetire_lane {n : Fin 4} (ho : PageOpen s .mkt (.lane n)) (hl : s.inReset (.lane n) = false) :
    exec (.wareRetire (.lane n) v) s = .next ((s.retireLane n.val v).answer .done) :=
  congrArg Host.Outcome.next ((if_neg (ne_true_of_eq_false hl)).trans (State.onPage_open ho _ _))

theorem exec_wareRetire_port {p : Fin 2} {m : Master} (ho : PageOpen s .mkt m) :
    exec (.wareRetire (.port p m) v) s = .next ((s.retirePort p.val m v).answer .done) :=
  congrArg Host.Outcome.next (State.writeAt_open ho _ _ _)

theorem State.bump_rn_same (s : State) (a n : Nat) : (s.bump a n).rn a = (s.rn a + n) % 2 ^ 32 := by
  simp [State.rn, State.bump, w32]

theorem State.retireLane_idle {n : Nat} (h : (s.laneSt n).running = none) : s.retireLane n v = s := by
  simp only [State.retireLane, h]

/-- The retirement of the ware that a lane runs counts in WARES_DONE, which nothing else that follows it writes. -/
theorem State.retireLane_counts {n : Fin 4} {r : RWare} (h : (s.laneSt n.val).running = some r) :
    (s.retireLane n.val v).rn (R.lane_WARES_DONE n.val) = (s.rn (R.lane_WARES_DONE n.val) + 1) % 2 ^ 32 := by
  have ha := offMarket_WARES_DONE n
  have retired : ((s.retireWare r.w v).setLane n.val { (s.retireWare r.w v).laneSt n.val with running := none }).rn (R.lane_WARES_DONE n.val) =
      s.rn (R.lane_WARES_DONE n.val) := congrArg BitVec.toNat (s.retireWare_rd ha r.w v)
  simp only [State.retireLane, h]
  rw [← retired, ← State.bump_rn_same]
  exact congrArg BitVec.toNat ((State.mktDrainCheck_rd ha _).trans ((State.laneDrainCheck_rd ha _ _).trans (State.startLane_rd ha _ _)))

theorem State.retirePort_empty {p : Nat} {m : Master} (h : (s.portBufs p).getD (fld v 0 3) none = none) :
    s.retirePort p m v = s.err .mkt 0x82 (0x88 + 0x10 * p) m := by
  simp only [State.retirePort, h]

theorem State.mktDrainCheck_portBufs (s : State) (p : Nat) : s.mktDrainCheck.portBufs p = s.portBufs p :=
  congrArg (fun k => k.bufs.getD p []) ((goes_mktDrainCheck s rfl (.refl [.regs, .out, .pba] s)).1 .mkt (by decide))

theorem getD_setAt_none (l : List (Option RWare)) (b : Nat) : (setAt l b none).getD b none = none := by
  by_cases hb : b < l.length <;> simp [setAt, hb]

theorem getD_modAt_freed (ls : List (List (Option RWare))) (p b : Nat) : ((modAt ls p fun l => setAt l b none).getD p []).getD b none = none := by
  by_cases hp : p < ls.length
  · simpa [modAt, hp] using getD_setAt_none ls[p] b
  · simp [modAt, hp]

theorem State.retirePort_frees {p : Nat} {m : Master} {r : RWare} (h : (s.portBufs p).getD (fld v 0 3) none = some r) :
    ((s.retirePort p m v).portBufs p).getD (fld v 0 3) none = none := by
  simp only [State.retirePort, h]
  rw [State.mktDrainCheck_portBufs]
  exact getD_modAt_freed _ _ _

end

/-! ### Completions (R90) -/

theorem State.setQueue_queue (s : State) {q : Nat} (x : Queue) (h : q < s.que.q.length) : (s.setQueue q x).queue q = x := by
  simp [State.setQueue, State.queue, setAt, h]

theorem State.irq_queue (s : State) (b : Blk) (i q : Nat) : (s.irq b i).queue q = s.queue q := by
  simp only [State.queue, State.irq_que]

theorem State.pushEnt_ents (s : State) {q : Nat} (v : DWord) (h : q < s.que.q.length) :
    ((s.pushEnt q v).queue q).ents = (s.queue q).ents ++ [⟨v, false⟩] := by
  unfold State.pushEnt
  extract_lets x n lvl pkt x' t
  have ht : (t.queue q).ents = x.ents ++ [⟨v, false⟩] := congrArg Queue.ents (s.setQueue_queue x' h)
  split
  · exact (congrArg Queue.ents (t.irq_queue .que q q)).trans ht
  · exact ht

/-- The one completion held is pushed where its queue has room and takes it. -/
theorem State.writeComps_one {s : State} {q : Nat} {d : DWord} (hc : s.mkt.comps = [(q, d)]) (hr : s.qroom q = true) (hp : s.rb (R.que_QCFGq q) 1 = false) :
    s.writeComps = State.pushEnt { s with mkt := { s.mkt with comps := [] } } q d := by
  rw [State.writeComps, hc]
  exact (if_neg (ne_true_of_eq_false (congrArg not hr))).trans (if_neg (ne_true_of_eq_false (congrArg (· && _) hp)))

/-! ### The take ports (R102) -/

section
variable {p : Fin 2} {m : Master} {us : Nat} {s : State}

theorem State.takeTry_disabled {p : Nat} (h : s.takes .mkt = false) : s.takeTry p us = (s, some (reasonWord 0x02)) := by
  simp only [State.takeTry, State.mktDispatches, h, Bool.not_false, if_true]

theorem State.takeTry_noClass {p : Nat} (h : s.takes .mkt = true) (hp : s.portHasClass p = false) : s.takeTry p us = (s, some (reasonWord 0x04)) := by
  simp only [State.takeTry, State.mktDispatches, h, hp, Bool.not_true, Bool.not_false, Bool.false_eq_true, if_true, if_false]

theorem exec_takeRead_answered (ho : PageOpen s .mkt m) {w : Word} (h : (s.takeTry p.val us).2 = some w) :
    exec (.takeRead p m us) s = .next ((s.takeTry p.val us).1.answer (.data w)) := by
  refine congrArg Host.Outcome.next ((State.readAt_open ho _ _).trans ?_)
  simp only [h]

theorem exec_takeRead_waits (ho : PageOpen s .mkt m) (h : (s.takeTry p.val us).2 = none) :
    exec (.takeRead p m us) s = .next (({ (s.takeTry p.val us).1 with mkt := { (s.takeTry p.val us).1.mkt with
      takers := (s.takeTry p.val us).1.mkt.takers ++ [(p.val, m)] } } : State).answer .stalled) := by
  refine congrArg Host.Outcome.next ((State.readAt_open ho _ _).trans ?_)
  simp only [h]

theorem exec_takePoll (ho : PageOpen s .mkt m) {w : Word} (h : (s.takeTry p.val us).2.getD (reasonWord 0x01) = w) :
    exec (.takePoll p m us) s = .next ((s.takeTry p.val us).1.answer (.data w)) := by
  subst h
  exact congrArg Host.Outcome.next (State.readAt_open ho _ _)

theorem State.takeTimeout_some {p : Nat} {x : Nat × Master} (h : s.mkt.takers.find? (fun t => t.1 = p) = some x) :
    s.takeTimeout p = ({ s with mkt := { s.mkt with takers := s.mkt.takers.erase x } } : State).emit (.readDone x.2 (reasonWord 0x01)) := by
  simp only [State.takeTimeout, h]

theorem State.takeTimeout_none {p : Nat} (h : s.mkt.takers.find? (fun t => t.1 = p) = none) : s.takeTimeout p = s := by
  simp only [State.takeTimeout, h]

end

/-! ### Requests behind a blocked read of the host (R104) -/

section
variable {s : State} (h : s.hostBlocked = true)
include h

theorem State.barReq_blocked (r : Bar0Req) (f : State → State) :
    s.barReq .host r f = ({ s with host := { s.host with bar0Held := s.host.bar0Held ++ [r] } } : State).answer .stalled := by
  simp [State.barReq, State.hostWaits, h]

theorem State.barReq_blocked_changes (r : Bar0Req) (f : State → State) : ChangesOnly [.host, .resp] s (s.barReq .host r f) := by
  have same : s.barReq .host r f = s.barReq .host r id := (s.barReq_blocked h r f).trans (s.barReq_blocked h r id).symm
  rw [same]
  exact (goes_barReq s .host r id rfl (fun _ hg => hg) (.refl _ s)).1

/-- A later request of the host waits, whichever register it names, and the read that blocks is still there. -/
theorem exec_host_blocked {i : Instr} {b : Blk} {off : Nat} (hi : pageOf i = some (b, off, .host)) : ∃ r f, exec i s = .next (s.barReq .host r f) := by
  obtain ⟨r, a, f, hx, _⟩ := exec_pageOf hi s
  have idle : (s.barReq .host r fun t => t.onPage b a .host f).hostFlush = s.barReq .host r fun t => t.onPage b a .host f :=
    State.hostFlush_idle (.inr (by rw [State.barReq_blocked h]; exact h))
  rw [idle, or_self] at hx
  exact ⟨r, _, hx⟩

end

/-- Settles O40: each command takes the one case of its operation; the registers and parts that it leaves come from what the Market's operations write. -/
theorem waresAreDispatchedTakenAndRetired : Obligations.WaresAreDispatchedTakenAndRetired := by
  refine ⟨?fills, ?clock, ?window, ?lane, ?empty, ?port, ?push, fun _ => rfl, ?take, ?timeout, ?noReader, ?blocked⟩
  case fills =>
    intro n us cy r s h hm hl hq u hs hst hr
    have hcand := (List.mem_filter.mp (bestWare_mem hr)).2
    simp only [Bool.and_eq_true] at hcand
    obtain ⟨⟨hc, _⟩, _⟩ := hcand
    refine ⟨u.slotFilled n.val r, exec_wareDispatch_lane h (State.dispatchLane_fills hm hl hs hst hr) hq, rfl, fun hn => ?_, State.candidate_serial hc,
      (u.unready r).noteLane_last r.w.dom n.isLt, (goes_set_mkt s u.mkt rfl (.refl [.mkt] s)).1.trans (u.slotFilled_goes n.val r).1⟩
    exact congrArg LaneSt.slots (State.setLane_laneSt _ _ hn)
  case clock =>
    intro n us cy s h hq hnone
    exact exec_wareDispatch_lane h (State.dispatchLane_none hnone) hq
  case window =>
    intro n s ho hl
    refine ⟨fun r hr => ⟨_, exec_wareWindowRead ho hl (State.windowRead_running hr), rfl, rfl⟩,
      fun r l hr hs hm ht => ⟨_, exec_wareWindowRead ho hl (State.windowRead_starts hr hs hm ht), rfl⟩,
      fun hr hs => ⟨_, exec_wareWindowRead ho hl (State.windowRead_stalls hr hs), rfl, rfl, fun hn => ?_⟩⟩
    exact congrArg LaneSt.stalled (s.setLane_laneSt _ hn)
  case lane =>
    intro n v s ho hl
    refine ⟨fun r hr => ?_, fun hr => ?_⟩
    · have hx := exec_wareRetire_lane (v := v) ho hl
      exact ⟨_, hx, rfl, State.retireLane_counts hr, (exec_goes hx).1⟩
    · rw [exec_wareRetire_lane ho hl, State.retireLane_idle hr]
  case empty =>
    intro p m v s ho hb
    rw [exec_wareRetire_port ho, State.retirePort_empty hb]
  case port => exact fun p m v r s ho hb => ⟨_, exec_wareRetire_port ho, rfl, State.retirePort_frees hb⟩
  case push =>
    intro q d s hc hr hp hq
    refine ⟨_, congrArg Host.Outcome.next (State.writeComps_one hc hr hp), ?_, State.pushEnt_ents _ d hq⟩
    exact congrArg Mkt.comps (State.pushEnt_mkt _ q d)
  case take =>
    intro p m us s ho r
    refine ⟨fun w hw => ⟨⟨_, exec_takeRead_answered ho hw, rfl, rfl⟩, ⟨_, exec_takePoll ho (congrArg (fun o => o.getD (reasonWord 0x01)) hw), rfl, rfl⟩⟩,
      fun hw => ⟨⟨_, exec_takePoll ho (congrArg (fun o => o.getD (reasonWord 0x01)) hw), rfl, rfl⟩, ⟨_, exec_takeRead_waits ho hw, rfl, rfl, rfl⟩⟩,
      State.takeTry_disabled, State.takeTry_noClass⟩
  case timeout =>
    intro p x s hx
    have hout := State.takeTimeout_some hx
    refine ⟨_, congrArg (fun t => Host.Outcome.next (State.hostFlush t)) hout, rfl, fun hq => ?_⟩
    rw [State.hostFlush_none (by exact hq)]
    refine ⟨rfl, ?_⟩
    rw [← hout]
    exact (goes_takeTimeout s p.val rfl (.refl [.mkt, .out] s)).1
  case noReader =>
    intro p s hx hq
    exact congrArg Host.Outcome.next ((congrArg State.hostFlush (State.takeTimeout_none hx)).trans (State.hostFlush_none hq))
  case blocked =>
    intro i b off s hi h
    obtain ⟨r, f, hx⟩ := exec_host_blocked h hi
    refine ⟨_, hx, ?_, ?_, s.barReq_blocked_changes h r f⟩
    · rw [State.barReq_blocked h]
      rfl
    · rw [State.barReq_blocked h]
      exact List.length_append

end Sys2Proof.Machine
end

section
/-! SUPPORT. What pushes, reads and settings leave of a queue, of the other queues, and of the registers. -/

namespace Sys2Proof.Machine

open Sys2Proof

/-! ### The store and its staging words -/

@[simp] theorem Sparse.find_put_same {α : Type} (l : Sparse α) (a : Nat) (v : α) : Sparse.find (Sparse.put l a v) a = some v :=
  Sparse.find_ins_same _ _ _ (Sparse.find_del_same l a)

section
variable {s t : State} {p q : Nat}

theorem State.queue_congr (h : t.que = s.que) (p : Nat) : t.queue p = s.queue p := by
  simp only [State.queue, h]

theorem State.setQueue_queue_ne (s : State) (x : Queue) (h : p ≠ q) : (s.setQueue q x).queue p = s.queue p := by
  simp [State.setQueue, State.queue, setAt, List.getElem?_set_ne h.symm]

theorem State.setQueue_setQueue (s : State) (q : Nat) (x y : Queue) : (s.setQueue q x).setQueue q y = s.setQueue q y := by
  simp [State.setQueue, setAt]

theorem State.setQueue_length (s : State) (q : Nat) (x : Queue) : (s.setQueue q x).que.q.length = s.que.q.length := List.length_set

/-- A queue emptied is empty, and a queue that the module does not have holds nothing. -/
theorem State.setQueue_empty (s : State) {x : Queue} (hx : x.ents = []) (q : Nat) : ((s.setQueue q x).queue q).ents = [] := by
  by_cases h : q < s.que.q.length
  · exact (congrArg Queue.ents (s.setQueue_queue x h)).trans hx
  · simp [State.setQueue, State.queue, setAt, h]

/-! ### Appending an entry (R114, R118) -/

/-- An entry pushed stands behind the others; what hardware producers hold stays, and so do the other queues. -/
theorem State.pushEnt_que (s : State) (q : Nat) (v : DWord) :
    ∃ x, x.ents = (s.queue q).ents ++ [⟨v, false⟩] ∧ x.hw = (s.queue q).hw ∧ (s.pushEnt q v).que = (s.setQueue q x).que := by
  unfold State.pushEnt
  extract_lets x n lvl pkt x' t
  refine ⟨x', rfl, rfl, ?_⟩
  split
  · exact t.irq_que .que q
  · rfl

theorem State.pushEnt_queue_ne (s : State) (v : DWord) (h : p ≠ q) : (s.pushEnt q v).queue p = s.queue p := by
  obtain ⟨x, _, _, hx⟩ := s.pushEnt_que q v
  exact (State.queue_congr hx p).trans (s.setQueue_queue_ne x h)

theorem State.pushEnt_hw (s : State) (v : DWord) (h : q < s.que.q.length) : ((s.pushEnt q v).queue q).hw = (s.queue q).hw := by
  obtain ⟨x, _, hw, hx⟩ := s.pushEnt_que q v
  rw [State.queue_congr hx, s.setQueue_queue x h, hw]

theorem State.pushEnt_regsOnly (s : State) (q : Nat) (v : DWord) : RegsOnly [hdr .que oRaw] s (s.pushEnt q v) := by
  unfold State.pushEnt
  extract_lets x n lvl pkt x' t
  split
  · exact t.irqBits_regsOnly .que (bitw q)
  · exact fun _ _ => rfl

/-! ### The error that a read meets (R112) -/

theorem State.qmeet_rd (s : State) (q : Nat) (e : Option CwErr) (a : Nat) : (s.qmeet q e).rd a = s.rd a :=
  (goes_qmeet s q e rfl (.refl [.free, .que] s)).rd (by decide) (by decide) a

theorem State.qmeet_rb (s : State) (q : Nat) (e : Option CwErr) (a i : Nat) : (s.qmeet q e).rb a i = s.rb a i := congrArg (tst · i) (s.qmeet_rd q e a)

/-- An error that a read meets changes at most the head entry of its queue. -/
theorem State.qmeet_cases (s : State) (q : Nat) (e : Option CwErr) :
    s.qmeet q e = s ∨ ∃ y l, (s.qmeet q e).que = (s.setQueue q { s.queue q with ents := y :: l }).que := by
  unfold State.qmeet
  split
  · exact .inr ⟨_, _, rfl⟩
  · split
    · exact .inr ⟨_, _, rfl⟩
    · exact .inr ⟨_, _, rfl⟩
  · exact .inl rfl

theorem State.qmeet_length (s : State) (q : Nat) (e : Option CwErr) : (s.qmeet q e).que.q.length = s.que.q.length := by
  obtain h | ⟨y, l, h⟩ := s.qmeet_cases q e
  · rw [h]
  · rw [h, s.setQueue_length]

/-- A queue that is empty after the error was so before it, and met none. -/
theorem State.qmeet_empty {e : Option CwErr} (hq : q < s.que.q.length) (h : ((s.qmeet q e).queue q).ents = []) : s.qmeet q e = s := by
  obtain hs | ⟨y, l, hs⟩ := s.qmeet_cases q e
  · exact hs
  · rw [State.queue_congr hs, s.setQueue_queue _ hq] at h
    cases h

/-! ### Why a read gives no entry (R116) -/

theorem State.qreason_head {e : QEnt} {r : List QEnt} (hen : s.qen q = true) (hp : s.rb (R.que_QCFGq q) 1 = false) (h : (s.queue q).ents = e :: r) :
    s.qreason q = if e.poison then some 5 else none := by
  simp [State.qreason, hen, hp, h]

theorem State.qreason_empty (hen : s.qen q = true) (ht : s.queTakes = true) (hp : s.rb (R.que_QCFGq q) 1 = false) (h : (s.queue q).ents = []) :
    s.qreason q = some 1 := by
  simp [State.qreason, hen, ht, hp, h]

/-! ### A pop (R116) -/

/-- The state in which a word waits for a master's read of POP_LO. -/
def State.keepLo (s : State) (m : Master) (q : Nat) (v : Word) : State :=
  { s with que := { s.que with popLo := Sparse.put s.que.popLo (16 * masterIx m + q) v } }

theorem State.keepLo_find (s : State) (m : Master) (q : Nat) (v : Word) : (Sparse.find (s.keepLo m q v).que.popLo (16 * masterIx m + q)).getD 0 = v := by
  simp [State.keepLo]

theorem State.qpop_takes {e : QEnt} {r : List QEnt} (m : Master) (hr : s.qreason q = none) (h : (s.queue q).ents = e :: r) :
    s.qpop m q = ((s.qadvance q e r).keepLo m q (w32 e.v.toNat), w32 (e.v.toNat / 2 ^ 32)) := by
  simp only [State.qpop, hr, h]
  rfl

theorem State.qpop_discards (m : Master) (hr : s.qreason q = some 5) : s.qpop m q = ((s.qdiscard q).keepLo m q 0, reasonWord 5) := by
  simp only [State.qpop, hr]
  rfl

theorem State.qpop_empty (m : Master) (hr : s.qreason q = some 1) : s.qpop m q = (s.keepLo m q 0, reasonWord 1) := by
  simp only [State.qpop, hr]
  rfl

theorem State.qadvance_ents (s : State) (e : QEnt) (r : List QEnt) (h : q < s.que.q.length) : ((s.qadvance q e r).queue q).ents = r :=
  congrArg Queue.ents (s.setQueue_queue _ h)

theorem State.qadvance_counts (s : State) (q : Nat) (e : QEnt) (r : List QEnt) : (s.qadvance q e r).rd (R.que_QPOPSq q) = s.rd (R.que_QPOPSq q) + 1 :=
  State.rd_wr_same _ _ _

theorem State.qdiscard_ents (s : State) (h : q < s.que.q.length) : ((s.qdiscard q).queue q).ents = (s.queue q).ents.tail :=
  congrArg Queue.ents ((State.irq_queue _ .que 17 q).trans (s.setQueue_queue _ h))

/-- A pop that finds an entry takes it out of its queue; it answers the entry's high word and keeps the low one, or reason 5 and 0 for one that cannot be corrected. -/
theorem State.qpop_head {e : QEnt} {r : List QEnt} (m : Master) (hen : s.qen q = true) (hp : s.rb (R.que_QCFGq q) 1 = false) (hq : q < s.que.q.length)
    (h : (s.queue q).ents = e :: r) : ((s.qpop m q).1.queue q).ents = r ∧ (s.qpop m q).2 = (if e.poison then w32 (5 * 2 ^ 24) else w32 (e.v.toNat / 2 ^ 32)) ∧
    (Sparse.find (s.qpop m q).1.que.popLo (16 * masterIx m + q)).getD 0 = (if e.poison then 0 else w32 e.v.toNat) ∧
    (e.poison = false → (s.qpop m q).1.rd (R.que_QPOPSq q) = s.rd (R.que_QPOPSq q) + 1) := by
  have hr := State.qreason_head hen hp h
  cases hpo : e.poison with
  | true =>
    rw [hpo] at hr
    rw [State.qpop_discards m hr]
    exact ⟨(s.qdiscard_ents hq).trans (congrArg List.tail h), rfl, State.keepLo_find _ m q 0, Bool.noConfusion⟩
  | false =>
    rw [hpo] at hr
    rw [State.qpop_takes m hr h]
    exact ⟨s.qadvance_ents e r hq, rfl, State.keepLo_find _ m q _, fun _ => s.qadvance_counts q e r⟩

/-! ### A peek (R116) -/

theorem State.qpeekHi_head {e : QEnt} {r : List QEnt} (hr : s.qreason q = none) (h : (s.queue q).ents = e :: r) : s.qpeekHi q = w32 (e.v.toNat / 2 ^ 32) := by
  simp only [State.qpeekHi, hr, h]

end

end Sys2Proof.Machine
end

section
/-! PROOFS. Queues: pushes by software and hardware, pops, peeks, flushes and settings. -/

namespace Sys2Proof.Machine

open Sys2Proof

section
variable {s : State} {m : Master} {q : Fin 16} {v : Word}

/-! ### The commands on an open page -/

theorem exec_queuePush (h : PageOpen s .que m) : exec (.queuePush m q v) s = .next ((s.qpush m q.val v).answer .done) :=
  congrArg Host.Outcome.next (State.writeAt_open h _ _ _)

theorem exec_queuePop (err : Option CwErr) (h : PageOpen s .que m) :
    exec (.queuePop m ⟨q, err⟩) s = .next (((s.qmeet q.val err).qpop m q.val).1.answer (.data ((s.qmeet q.val err).qpop m q.val).2)) :=
  congrArg Host.Outcome.next (State.readAt_open h _ _)

theorem exec_queuePeek (err : Option CwErr) (h : PageOpen s .que m) :
    exec (.queuePeek m ⟨q, err⟩) s = .next ((s.qmeet q.val err).answer (.data ((s.qmeet q.val err).qpeekHi q.val))) :=
  congrArg Host.Outcome.next (State.readAt_open h _ _)

theorem exec_queueFlush (h : PageOpen s .que m) : exec (.queueFlush m q) s = .next ((s.qflush q.val).answer .done) :=
  congrArg Host.Outcome.next (State.writeAt_open h _ _ _)

theorem exec_qcfgWrite (h : PageOpen s .que m) : exec (.qcfgWrite m q v) s = .next ((s.qcfg m q.val v).answer .done) :=
  congrArg Host.Outcome.next (State.writeAt_open h _ _ _)

theorem exec_queueHwPush (h : s.inReset .que = false) : exec (.queueHwPush q) s = .next (hwDrain ((s.queue q.val).hw.length + 1) q.val s) :=
  congrArg Host.Outcome.next (if_neg (ne_true_of_eq_false h))

end

section
variable {s : State} {q : Nat}

/-! ### A software push (R114, R115) -/

section
variable {hi : Word} (m : Master)

theorem State.qpush_invalid (q : Nat) (h : tst hi 31 = false) : s.qpush m q hi = (s.qdrop q).err .que 0x81 (0x44 + 8 * q) m := by
  simp [State.qpush, h]

theorem State.qpush_off (h : tst hi 31 = true) (hoff : s.qen q = false ∨ s.queTakes = false) : s.qpush m q hi = s.qrefuse q 0x82 (0x44 + 8 * q) m := by
  obtain ho | ho := hoff <;> simp [State.qpush, h, ho]

theorem State.qpush_full (h : tst hi 31 = true) (hen : s.qen q = true) (ht : s.queTakes = true) (hp : s.rb (R.que_QCFGq q) 1 = false)
    (hfull : s.qsize q ≤ (s.queue q).ents.length) : s.qpush m q hi = s.qrefuse q 0x80 (0x44 + 8 * q) m := by
  simp [State.qpush, h, hen, ht, hp, hfull]

theorem State.qpush_appends (h : tst hi 31 = true) (hen : s.qen q = true) (ht : s.queTakes = true) (hp : s.rb (R.que_QCFGq q) 1 = false)
    (hroom : (s.queue q).ents.length < s.qsize q) : s.qpush m q hi =
      s.pushEnt q (BitVec.ofNat 64 (hi.toNat * 2 ^ 32 + ((Sparse.find s.que.pushLo (16 * masterIx m + q)).getD 0).toNat)) := by
  simp [State.qpush, h, hen, ht, hp, Nat.not_le.mpr hroom]

end

/-! ### What hardware producers hold (R115) -/

theorem hwDrain_none (n : Nat) (h : (s.queue q).hw = []) : hwDrain (n + 1) q s = s := by
  simp only [hwDrain, h]

theorem hwDrain_pushes {v : DWord} {r : List DWord} (n : Nat) (h : (s.queue q).hw = v :: r) (hen : s.qen q = true) (ht : s.queTakes = true)
    (hp : s.rb (R.que_QCFGq q) 1 = false) (hroom : (s.queue q).ents.length < s.qsize q) :
    hwDrain (n + 1) q s = hwDrain n q ((s.setQueue q { s.queue q with hw := r }).pushEnt q v) := by
  simp [hwDrain, h, hen, ht, hp, Nat.not_le.mpr hroom]

/-- The one entry that is held goes into the queue, and nothing is held any more. -/
theorem hwDrain_one {v : DWord} (h : (s.queue q).hw = [v]) (hen : s.qen q = true) (ht : s.queTakes = true) (hp : s.rb (R.que_QCFGq q) 1 = false)
    (hroom : (s.queue q).ents.length < s.qsize q) (hq : q < s.que.q.length) :
    hwDrain ((s.queue q).hw.length + 1) q s = (s.setQueue q { s.queue q with hw := [] }).pushEnt q v := by
  have hw := ((s.setQueue q { s.queue q with hw := [] }).pushEnt_hw v (lt_of_lt_of_eq hq (s.setQueue_length _ _).symm)).trans (congrArg Queue.hw (s.setQueue_queue _ hq))
  rw [h]
  exact (hwDrain_pushes 1 h hen ht hp hroom).trans (hwDrain_none 0 hw)

/-! ### Settings of a queue (R112, R117) -/

section
variable {v : Word} {m : Master}

theorem State.qcfg_bad (h : s.qcfgBad q v = true) : s.qcfg m q v = s.err .que eBadValue (0x100 + 0x20 * q) m := if_pos h

/-- A queue that is enabled starts empty, with no packet in progress (R113). -/
def Queue.started (x : Queue) : Queue := { x with ents := [], high := 0, inProd := false, inCons := false }

/-- Enabling a queue stores its settings and empties it, with FLUSH or without. -/
theorem State.qcfg_enables (hb : s.qcfgBad q v = false) (hen : s.qen q = false) (hv : tst v 0 = true) :
    ∃ x, s.qcfg m q v = (s.wr (R.que_QCFGq q) (v &&& 0x1FFF7FF3)).setQueue q x ∧ x.ents = [] := by
  have hold : tst (s.rd (R.que_QCFGq q)) 0 = false := hen
  have e : s.qcfg m q v = let t := (s.wr (R.que_QCFGq q) (v &&& 0x1FFF7FF3)).setQueue q (s.queue q).started
      if tst v 2 then t.qflush q else t := by
    simp only [State.qcfg, hb, hold, hv, Bool.false_eq_true, if_false, Bool.false_and, Bool.not_false, Bool.true_and, if_true]
    rfl
  rw [e]
  split
  · exact ⟨_, State.setQueue_setQueue _ _ _ _, rfl⟩
  · exact ⟨_, rfl, rfl⟩

end

end

/-- Settles O41: an accepted push appends, a read takes or shows the head, and each refusal names its code. -/
theorem queuesPushPopAndFlush : Obligations.QueuesPushPopAndFlush := by
  refine ⟨?push, ?meet, ?pop, ?peek, ?flush, ?cfg, ?idle, ?held⟩
  case push =>
    intro m q v s ho off lo
    rw [exec_queuePush ho]
    refine ⟨fun h => ?_, fun h hoff => ?_, fun h hen ht hp => ⟨fun hfull => ?_, fun hroom hq => ?_⟩⟩
    · rw [State.qpush_invalid m _ h]
    · rw [State.qpush_off m h hoff]
    · rw [State.qpush_full m h hen ht hp hfull]
    · rw [State.qpush_appends m h hen ht hp hroom]
      exact ⟨_, rfl, rfl, s.pushEnt_ents _ hq, fun p => s.pushEnt_queue_ne _, s.pushEnt_regsOnly _ _,
        (goes_answer _ _ rfl (goes_pushEnt s _ _ rfl (.refl _ s))).1⟩
  case meet =>
    intro q s
    refine ⟨rfl, fun _ => rfl, fun e l h hq => ?_⟩
    simp only [State.qmeet, h, s.setQueue_queue _ hq]
  case pop =>
    intro m q err s ho hen hp hq u
    have hen' : u.qen q.val = true := (s.qmeet_rb _ _ _ _).trans hen
    have hp' : u.rb (R.que_QCFGq q.val) 1 = false := (s.qmeet_rb _ _ _ _).trans hp
    refine ⟨fun e r h => ?_, fun h ht => ?_⟩
    · obtain ⟨hents, hresp, hlo, hcount⟩ := State.qpop_head m hen' hp' (lt_of_lt_of_eq hq (s.qmeet_length _ _).symm) h
      exact ⟨_, exec_queuePop err ho, hents, congrArg Resp.data hresp, hlo, fun h => (hcount h).trans (congrArg (· + 1) (s.qmeet_rd _ _ _)),
        (goes_answer _ _ rfl (goes_qpop _ _ _ rfl (goes_qmeet s _ _ rfl (.refl _ s)))).1⟩
    · have hu : s.qmeet q.val err = s := State.qmeet_empty hq h
      refine ⟨_, exec_queuePop err ho, ?_⟩
      rw [hu, State.qpop_empty m (State.qreason_empty hen ht hp (hu ▸ h))]
      exact ⟨rfl, rfl, (goes_answer _ _ rfl (goes_set_que s _ rfl (.refl _ s))).1⟩
  case peek =>
    intro m q err s ho u
    refine ⟨⟨_, exec_queuePeek err ho, rfl, (goes_answer _ _ rfl (goes_qmeet s _ _ rfl (.refl _ s))).1⟩, fun e l h he hen hp => ?_⟩
    have hr : u.qreason q.val = if e.poison then some 5 else none :=
      State.qreason_head ((s.qmeet_rb _ _ _ _).trans hen) ((s.qmeet_rb _ _ _ _).trans hp) h
    rw [he] at hr
    exact ⟨_, exec_queuePeek err ho, congrArg Resp.data (State.qpeekHi_head hr h), h⟩
  case flush =>
    intro m q s ho
    exact ⟨_, exec_queueFlush ho, s.setQueue_empty rfl _, fun p => s.setQueue_queue_ne _, (goes_answer _ _ rfl (goes_qflush s _ rfl (.refl _ s))).1⟩
  case cfg =>
    intro m q v s ho
    rw [exec_qcfgWrite ho]
    refine ⟨fun hb => by rw [State.qcfg_bad hb], fun hb hen hv => ?_⟩
    obtain ⟨x, e, hx⟩ := State.qcfg_enables (m := m) hb hen hv
    rw [e]
    exact ⟨_, rfl, rfl, s.rd_wr_same _ _, State.setQueue_empty _ hx _, RegsOnly.wr s _ _,
      (goes_answer _ _ rfl (goes_setQueue _ _ _ rfl (goes_wr s _ _ rfl (.refl _ s)))).1⟩
  case idle =>
    intro q s hr h
    rw [exec_queueHwPush hr, hwDrain_none _ h]
  case held =>
    intro q v s hr h hen ht hp hq hroom
    have hx := exec_queueHwPush (q := q) hr
    rw [hwDrain_one h hen ht hp hroom hq] at hx
    have hq' := lt_of_lt_of_eq hq (s.setQueue_length q.val { s.queue q.val with hw := [] }).symm
    have hset := s.setQueue_queue { s.queue q.val with hw := [] } hq
    refine ⟨_, hx, ?_, ?_, fun p hne => ?_, (exec_goes hx).1⟩
    · rw [State.pushEnt_ents _ v hq', hset]
    · rw [State.pushEnt_hw _ v hq', hset]
    · rw [State.pushEnt_queue_ne _ v hne, State.setQueue_queue_ne _ _ hne]

end Sys2Proof.Machine
end

section
/-! SUPPORT. The registers of a check unit, the units that a step leaves alone, and a frame that runs over all units. -/

namespace Sys2Proof.Machine

open Sys2Proof

/-! ### A unit and its registers (R122) -/

section
variable {s t : State} {u w : Nat}

theorem State.setUnit_unit (s : State) (x : ChkUnit) (h : u < s.chk.length) : (s.setUnit u x).unit u = x := by
  simp [State.setUnit, State.unit, setAt, h]

theorem State.setUnit_unit_ne (s : State) (x : ChkUnit) (h : w ≠ u) : (s.setUnit u x).unit w = s.unit w := by
  simp [State.setUnit, State.unit, setAt, List.getElem?_set_ne h.symm]

theorem State.unit_congr (h : t.chk = s.chk) (u : Nat) : t.unit u = s.unit u := by
  simp only [State.unit, h]

theorem State.setUnit_length (s : State) (u : Nat) (x : ChkUnit) : (s.setUnit u x).chk.length = s.chk.length := List.length_set

/-- A register of a check unit: each unit has eight words. -/
abbrev UnitReg (u a : Nat) : Prop := a / 32 = 0x808 + u

theorem unitReg (u : Nat) {c : Nat} (hc : c / 32 = 0x808) : UnitReg u (c + 32 * u) := by
  show (c + 32 * u) / 32 = 0x808 + u
  omega

theorem UnitReg.ne_other {a c : Nat} (h : UnitReg u a) (hw : w ≠ u) (hc : c / 32 = 0x808) : a ≠ c + 32 * w := by
  have hu : a / 32 = 0x808 + u := h
  omega

theorem UnitReg.ne_hdr {a : Nat} (h : UnitReg u a) {off : Nat} (ho : off < 0x40) : a ≠ hdr .chk off := by
  have hu : a / 32 = 0x808 + u := h
  show a ≠ 0x10000 + off
  omega

theorem State.irq_rd_unit (s : State) (i : Nat) {a : Nat} (h : UnitReg u a) : (s.irq .chk i).rd a = s.rd a :=
  s.irq_rd_ne .chk i (h.ne_hdr (by decide))

theorem State.unitCrc_congr (h : ∀ a ∈ [R.chk_CCFGu u, R.chk_CPOLYu u, R.chk_CINITu u, R.chk_CXORu u], t.rd a = s.rd a) : t.unitCrc u = s.unitCrc u := by
  simp only [List.forall_mem_cons] at h
  obtain ⟨hcfg, hpoly, hinit, hxor, _⟩ := h
  simp only [State.unitCrc, State.rn, hcfg, hpoly, hinit, hxor]

theorem State.snoops_congr (h : t.rd (R.chk_CCFGu u) = s.rd (R.chk_CCFGu u)) (src chan : Nat) : t.snoops u src chan = s.snoops u src chan := by
  simp only [State.snoops, h]

/-! ### Steps that leave a unit alone -/

/-- A unit is the same in two states, with its registers and the number of units. -/
structure UnitKept (u : Nat) (s t : State) : Prop where
  unit : t.unit u = s.unit u
  length : t.chk.length = s.chk.length
  rd : ∀ a, UnitReg u a → t.rd a = s.rd a

theorem UnitKept.refl (u : Nat) (s : State) : UnitKept u s s := ⟨rfl, rfl, fun _ _ => rfl⟩

theorem UnitKept.trans {v : State} (h : UnitKept u s t) (h' : UnitKept u t v) : UnitKept u s v :=
  ⟨h'.unit.trans h.unit, h'.length.trans h.length, fun a ha => (h'.rd a ha).trans (h.rd a ha)⟩

theorem UnitKept.rb (h : UnitKept u s t) {a : Nat} (ha : UnitReg u a) (i : Nat) : t.rb a i = s.rb a i := congrArg (tst · i) (h.rd a ha)

theorem UnitKept.snoops (h : UnitKept u s t) (src chan : Nat) : t.snoops u src chan = s.snoops u src chan :=
  State.snoops_congr (h.rd _ (unitReg u rfl)) src chan

theorem foldl_unitKept {f : State → Nat → State} (hf : ∀ t w, w ≠ u → UnitKept u t (f t w)) {l : List Nat} (hl : u ∉ l) (s : State) :
    UnitKept u s (l.foldl f s) := by
  induction l generalizing s with
  | nil => exact .refl u s
  | cons w l ih =>
    rw [List.mem_cons, not_or] at hl
    exact (hf s w (Ne.symm hl.1)).trans (ih hl.2 _)

/-- A run over distinct units does to one of them what its own step does there. -/
theorem foldl_at_unit {f : State → Nat → State} (hf : ∀ t w, w ≠ u → UnitKept u t (f t w)) {l : List Nat} (hn : l.Nodup) (hl : u ∈ l) (s : State) :
    ∃ t, UnitKept u s t ∧ UnitKept u (f t u) (l.foldl f s) := by
  obtain ⟨a, b, rfl⟩ := List.append_of_mem hl
  obtain ⟨hub, hua⟩ : u ∉ b ∧ u ∉ a := by
    have := List.nodup_middle.mp hn
    simpa [and_comm] using (List.nodup_cons.mp this).1
  rw [List.foldl_append]
  exact ⟨_, foldl_unitKept hf hua s, foldl_unitKept hf hub _⟩

end

/-! ### The start of a frame at one unit (R123) -/

section
variable {s : State} {u w src chan : Nat}

/-- A frame has begun at a unit: no byte of it is counted. -/
def State.frameBegun (s : State) (u : Nat) : State := (s.setUnit u { s.unit u with inFrame := true }).wr (R.chk_CBYTESu u) 0

theorem State.frameBegun_regsOnly (s : State) (u : Nat) : RegsOnly [R.chk_CBYTESu u] s (s.frameBegun u) := RegsOnly.wr (s.setUnit u _) _ _

/-- A unit that is enabled, snoops the source and is outside a frame begins one, preset where AUTO is set. -/
theorem chkStart_eq (src chan : Nat) (s : State) (u : Nat) : chkStart src chan s u =
    if s.rb (R.chk_CCFGu u) 0 && s.snoops u src chan && !(s.unit u).inFrame then
      if s.rb (R.chk_CCFGu u) 1 then (s.frameBegun u).wr (R.chk_CVALu u) (w32 (s.unitCrc u).init) else s.frameBegun u
    else s := by
  have settings : ∀ a ∈ [R.chk_CCFGu u, R.chk_CPOLYu u, R.chk_CINITu u, R.chk_CXORu u], a ∉ [R.chk_CBYTESu u] := by simp
  rw [← State.unitCrc_congr fun a ha => s.frameBegun_regsOnly u a (settings a ha)]
  rfl

theorem chkStart_begins (hen : s.rb (R.chk_CCFGu u) 0 = true) (hs : s.snoops u src chan = true) (hf : (s.unit u).inFrame = false) :
    chkStart src chan s u =
      if s.rb (R.chk_CCFGu u) 1 then (s.frameBegun u).wr (R.chk_CVALu u) (w32 (s.unitCrc u).init) else s.frameBegun u := by
  simp [chkStart_eq, hen, hs, hf]

theorem chkStart_regsOnly (src chan : Nat) (s : State) (u : Nat) : RegsOnly [R.chk_CBYTESu u, R.chk_CVALu u] s (chkStart src chan s u) := by
  have hb : RegsOnly [R.chk_CBYTESu u, R.chk_CVALu u] s (s.frameBegun u) := (s.frameBegun_regsOnly u).mono (by simp)
  rw [chkStart_eq]
  split
  · split
    · exact hb.trans ((RegsOnly.wr _ _ _).mono (by simp))
    · exact hb
  · exact fun _ _ => rfl

/-- A frame start at one unit changes that unit alone. -/
theorem chkStart_unitKept (src chan : Nat) (s : State) (h : w ≠ u) : UnitKept u s (chkStart src chan s w) := by
  have hb : UnitKept u s (s.frameBegun w) :=
    ⟨s.setUnit_unit_ne _ h.symm, s.setUnit_length w _, fun a ha => s.frameBegun_regsOnly w a (by simpa using ha.ne_other h (by decide))⟩
  rw [chkStart_eq]
  split
  · split
    · exact hb.trans ⟨rfl, rfl, fun a ha => State.rd_wr_ne _ _ (ha.ne_other h (by decide))⟩
    · exact hb
  · exact .refl u s

end

/-! ### The end of a frame at one unit (R123) -/

section
variable {s : State} {u w src chan : Nat}

/-- A unit's value over the bytes of a frame, its byte count and its frame count. -/
def State.absorbed (s : State) (u : Nat) (d : Bytes) : State :=
  ((s.wr (R.chk_CVALu u) (w32 (crcRun (s.unitCrc u) (s.rn (R.chk_CVALu u)) d))).wr (R.chk_CBYTESu u) (w32 d.length)).bump (R.chk_CFRAMESu u) 1

/-- A unit's frame has ended with a result latched, and late where the one before was not read. -/
def State.frameLatched (s : State) (u r : Nat) : State :=
  let t := ((s.setUnit u ⟨false, true⟩).wr (R.chk_CRESULTu u) (w32 r)).irq .chk u
  if (s.unit u).unread then t.irq .chk (8 + u) else t

/-- The frame that a unit is inside has ended, and its result is latched where AUTO is set. -/
def State.frameEnded (s : State) (u r : Nat) : State :=
  if s.rb (R.chk_CCFGu u) 1 then s.frameLatched u r else s.setUnit u { s.unit u with inFrame := false }

/-! #### The value and the counts -/

theorem State.absorbed_regsOnly (s : State) (u : Nat) (d : Bytes) : RegsOnly [R.chk_CVALu u, R.chk_CBYTESu u, R.chk_CFRAMESu u] s (s.absorbed u d) :=
  ((RegsOnly.wr _ _ _).mono (by simp)).trans (((RegsOnly.wr _ _ _).mono (by simp)).trans ((RegsOnly.wr _ _ _).mono (by simp)))

theorem State.absorbed_value (s : State) (u : Nat) (d : Bytes) :
    (s.absorbed u d).rd (R.chk_CVALu u) = w32 (crcRun (s.unitCrc u) (s.rn (R.chk_CVALu u)) d) := by
  rw [State.absorbed, State.bump, State.rd_wr_ne _ _ (by simp), State.rd_wr_ne _ _ (by simp), State.rd_wr_same]

theorem State.absorbed_bytes (s : State) (u : Nat) (d : Bytes) : (s.absorbed u d).rd (R.chk_CBYTESu u) = w32 d.length := by
  rw [State.absorbed, State.bump, State.rd_wr_ne _ _ (by simp), State.rd_wr_same]

theorem State.absorbed_frames (s : State) (u : Nat) (d : Bytes) : (s.absorbed u d).rd (R.chk_CFRAMESu u) = s.rd (R.chk_CFRAMESu u) + 1 := by
  rw [State.absorbed, State.bump, State.rd_wr_same, State.rd_wr_ne _ _ (by simp), State.rd_wr_ne _ _ (by simp)]
  rfl

/-! #### The result -/

theorem State.frameLatched_chk (s : State) (u r : Nat) : (s.frameLatched u r).chk = (s.setUnit u ⟨false, true⟩).chk := by
  unfold State.frameLatched
  extract_lets t
  have ht : t.chk = (s.setUnit u ⟨false, true⟩).chk := State.irq_chk _ _ _
  split
  · exact (t.irq_chk _ _).trans ht
  · exact ht

theorem State.frameLatched_regsOnly (s : State) (u r : Nat) : RegsOnly [R.chk_CRESULTu u, hdr .chk oRaw] s (s.frameLatched u r) := by
  unfold State.frameLatched
  extract_lets t
  have ht : RegsOnly [R.chk_CRESULTu u, hdr .chk oRaw] s t :=
    RegsOnly.trans ((RegsOnly.wr (s.setUnit u _) _ _).mono (by simp)) ((State.irqBits_regsOnly _ .chk _).mono (by simp))
  split
  · exact ht.trans ((t.irqBits_regsOnly .chk _).mono (by simp))
  · exact ht

theorem State.frameLatched_result (s : State) (u r : Nat) : (s.frameLatched u r).rd (R.chk_CRESULTu u) = w32 r := by
  have ha := unitReg u (c := 0x10114) rfl
  unfold State.frameLatched
  extract_lets t
  have ht : t.rd (R.chk_CRESULTu u) = w32 r := (State.irq_rd_unit _ _ ha).trans (State.rd_wr_same _ _ _)
  split
  · exact (t.irq_rd_unit _ ha).trans ht
  · exact ht

/-- A bit of IRQ_RAW that stands is left by another that is raised. -/
theorem State.irq_keeps_raw (s : State) (b : Blk) (i : Nat) {j : Nat} (h : s.rb (hdr b oRaw) j = true) : (s.irq b i).rb (hdr b oRaw) j = true := by
  have hj : (s.rd (hdr b oRaw)).getLsbD j = true := h
  simp only [State.rb, State.irq, State.irqBits_rd_raw, tst, BitVec.getLsbD_or, hj, Bool.true_or]

theorem State.frameLatched_raises (s : State) (r : Nat) (h : u < 8) : (s.frameLatched u r).rb (hdr .chk oRaw) u = true := by
  unfold State.frameLatched
  extract_lets t
  have mask : ∀ i < 8, tst (w32 (2 ^ blkIrqN .chk - 1 + 0xC0000000)) i = true := by decide
  have ht : t.rb (hdr .chk oRaw) u = true := State.irq_raises _ .chk (by omega) (mask u h)
  split
  · exact t.irq_keeps_raw .chk _ ht
  · exact ht

/-! #### Both -/

theorem State.frameEnded_chk (s : State) (u r : Nat) : ∃ x : ChkUnit, x.inFrame = false ∧ (s.frameEnded u r).chk = (s.setUnit u x).chk := by
  unfold State.frameEnded
  split
  · exact ⟨_, rfl, s.frameLatched_chk u r⟩
  · exact ⟨_, rfl, rfl⟩

theorem State.frameEnded_unit (s : State) (r : Nat) (h : u < s.chk.length) : ((s.frameEnded u r).unit u).inFrame = false := by
  obtain ⟨x, hx, e⟩ := s.frameEnded_chk u r
  rw [State.unit_congr e, s.setUnit_unit x h, hx]

theorem State.frameEnded_regsOnly (s : State) (u r : Nat) : RegsOnly [R.chk_CRESULTu u, hdr .chk oRaw] s (s.frameEnded u r) := by
  unfold State.frameEnded
  split
  · exact s.frameLatched_regsOnly u r
  · exact fun _ _ => rfl

theorem chkEnd_eq (src chan : Nat) (d : Bytes) (s : State) (u : Nat) : chkEnd src chan d s u =
    if (s.unit u).inFrame && s.snoops u src chan then (s.absorbed u d).frameEnded u (crcFinish (s.unitCrc u) (crcRun (s.unitCrc u) (s.rn (R.chk_CVALu u)) d)) else s := rfl

theorem chkEnd_ends (d : Bytes) (hf : (s.unit u).inFrame = true) (hs : s.snoops u src chan = true) : chkEnd src chan d s u =
    (s.absorbed u d).frameEnded u (crcFinish (s.unitCrc u) (crcRun (s.unitCrc u) (s.rn (R.chk_CVALu u)) d)) := by
  rw [chkEnd_eq, hf, hs]
  rfl

/-! #### What the end of a frame leaves alone -/

/-- The registers that the end of a frame at a unit can change. -/
abbrev endRegs (u : Nat) : List Nat := [R.chk_CVALu u, R.chk_CBYTESu u, R.chk_CFRAMESu u, R.chk_CRESULTu u, hdr .chk oRaw]

theorem mem_endRegs {a : Nat} (h : a ∈ endRegs u) : UnitReg u a ∨ a = hdr .chk oRaw := by
  simp only [List.mem_cons, List.not_mem_nil, or_false] at h
  obtain rfl | rfl | rfl | rfl | rfl := h
  · exact .inl (unitReg u rfl)
  · exact .inl (unitReg u rfl)
  · exact .inl (unitReg u rfl)
  · exact .inl (unitReg u rfl)
  · exact .inr rfl

theorem UnitReg.notMem_endRegs {a : Nat} (h : UnitReg u a) (hw : w ≠ u) : a ∉ endRegs w := by
  intro hm
  obtain hr | hr := mem_endRegs hm
  · have : 0x808 + w = 0x808 + u := hr.symm.trans h
    omega
  · exact h.ne_hdr (by decide) hr

theorem chkEnd_regsOnly (src chan : Nat) (d : Bytes) (s : State) (u : Nat) : RegsOnly (endRegs u) s (chkEnd src chan d s u) := by
  rw [chkEnd_eq]
  split
  · exact ((s.absorbed_regsOnly u d).mono (by simp)).trans ((State.frameEnded_regsOnly _ u _).mono (by simp))
  · exact fun _ _ => rfl

theorem State.absorbed_unitKept (s : State) (d : Bytes) (h : w ≠ u) : UnitKept u s (s.absorbed w d) :=
  ⟨rfl, rfl, fun a ha => (s.absorbed_regsOnly w d).mono (by simp) a (ha.notMem_endRegs h)⟩

theorem State.frameEnded_unitKept (s : State) (r : Nat) (h : w ≠ u) : UnitKept u s (s.frameEnded w r) := by
  obtain ⟨x, _, e⟩ := s.frameEnded_chk w r
  exact ⟨(State.unit_congr e u).trans (s.setUnit_unit_ne x h.symm), (congrArg List.length e).trans (s.setUnit_length w x),
    fun a ha => (s.frameEnded_regsOnly w r).mono (by simp) a (ha.notMem_endRegs h)⟩

/-- The end of a frame at one unit changes that unit alone. -/
theorem chkEnd_unitKept (src chan : Nat) (d : Bytes) (s : State) (h : w ≠ u) : UnitKept u s (chkEnd src chan d s w) := by
  rw [chkEnd_eq]
  split
  · exact (s.absorbed_unitKept d h).trans ((s.absorbed w d).frameEnded_unitKept _ h)
  · exact .refl u s

end

end Sys2Proof.Machine
end

section
/-! PROOFS. Check units: the start and the end of a frame, and a write of a unit's value. -/

namespace Sys2Proof.Machine

open Sys2Proof

section
variable {s : State} {u src chan : Nat}

/-! ### The frame of one unit (R123) -/

theorem chkStart_unit (h : u < s.chk.length) (hen : s.rb (R.chk_CCFGu u) 0 = true) (hs : s.snoops u src chan = true) (hf : (s.unit u).inFrame = false) :
    ((chkStart src chan s u).unit u).inFrame = true := by
  have hb : ((s.frameBegun u).unit u).inFrame = true := congrArg ChkUnit.inFrame (s.setUnit_unit _ h)
  rw [chkStart_begins hen hs hf]
  split
  · exact hb
  · exact hb

theorem chkStart_bytes (hen : s.rb (R.chk_CCFGu u) 0 = true) (hs : s.snoops u src chan = true) (hf : (s.unit u).inFrame = false) :
    (chkStart src chan s u).rd (R.chk_CBYTESu u) = 0 := by
  have hb : (s.frameBegun u).rd (R.chk_CBYTESu u) = 0 := State.rd_wr_same _ _ _
  rw [chkStart_begins hen hs hf]
  split
  · exact (State.rd_wr_ne _ _ (by simp)).trans hb
  · exact hb

theorem chkStart_presets (hen : s.rb (R.chk_CCFGu u) 0 = true) (hs : s.snoops u src chan = true) (hf : (s.unit u).inFrame = false)
    (ha : s.rb (R.chk_CCFGu u) 1 = true) : (chkStart src chan s u).rd (R.chk_CVALu u) = w32 (s.unitCrc u).init := by
  rw [chkStart_begins hen hs hf, if_pos ha, State.rd_wr_same]

section
variable (d : Bytes) (hf : (s.unit u).inFrame = true) (hs : s.snoops u src chan = true)
include hf hs

theorem chkEnd_unit (h : u < s.chk.length) : ((chkEnd src chan d s u).unit u).inFrame = false := by
  rw [chkEnd_ends d hf hs]
  exact State.frameEnded_unit _ _ h

/-- The value and the counts at the end of a frame are those of its bytes, whether a result is latched or not. -/
theorem chkEnd_counts : (chkEnd src chan d s u).rd (R.chk_CVALu u) = w32 (crcRun (s.unitCrc u) (s.rn (R.chk_CVALu u)) d) ∧
    (chkEnd src chan d s u).rd (R.chk_CBYTESu u) = w32 d.length ∧ (chkEnd src chan d s u).rd (R.chk_CFRAMESu u) = s.rd (R.chk_CFRAMESu u) + 1 := by
  rw [chkEnd_ends d hf hs]
  have after {c : Nat} (hc : c / 32 = 0x808) (hr : c ≠ 0x10114) (r : Nat) :
      ((s.absorbed u d).frameEnded u r).rd (c + 32 * u) = (s.absorbed u d).rd (c + 32 * u) :=
    State.frameEnded_regsOnly _ u r _ (by simpa [hr] using (unitReg u hc).ne_hdr (by decide))
  exact ⟨(after rfl (by decide) _).trans (s.absorbed_value u d), (after rfl (by decide) _).trans (s.absorbed_bytes u d),
    (after rfl (by decide) _).trans (s.absorbed_frames u d)⟩

theorem chkEnd_latches (hu : u < 8) (ha : s.rb (R.chk_CCFGu u) 1 = true) :
    (chkEnd src chan d s u).rd (R.chk_CRESULTu u) = w32 (crcFinish (s.unitCrc u) (crcRun (s.unitCrc u) (s.rn (R.chk_CVALu u)) d)) ∧
    (chkEnd src chan d s u).rb (hdr .chk oRaw) u = true := by
  have ha' : (s.absorbed u d).rb (R.chk_CCFGu u) 1 = true := (congrArg (tst · 1) (s.absorbed_regsOnly u d _ (by simp))).trans ha
  rw [chkEnd_ends d hf hs, State.frameEnded, if_pos ha']
  exact ⟨State.frameLatched_result _ u _, State.frameLatched_raises _ _ hu⟩

theorem chkEnd_keepsResult (ha : s.rb (R.chk_CCFGu u) 1 = false) : (chkEnd src chan d s u).rd (R.chk_CRESULTu u) = s.rd (R.chk_CRESULTu u) := by
  have ha' : (s.absorbed u d).rb (R.chk_CCFGu u) 1 = false := (congrArg (tst · 1) (s.absorbed_regsOnly u d _ (by simp))).trans ha
  rw [chkEnd_ends d hf hs, State.frameEnded, if_neg (ne_true_of_eq_false ha')]
  exact s.absorbed_regsOnly u d _ (by simp)

end

end

/-! ### A frame at all units -/

section
variable {s : State} {src chan : Nat}

theorem exec_checkFrameStart (h : s.takes .chk = true) : exec (.checkFrameStart src chan) s = .next ((List.range 8).foldl (chkStart src chan) s) :=
  congrArg Host.Outcome.next (if_pos h)

theorem State.draining_taking {b : Blk} (he : s.en b = true) (hd : s.drainBit b = false) : s.draining b = false := by
  simp [State.draining, he, hd]

/-- A frame that ends while CHK is enabled and not in drain leaves no drain to complete: no unit writes PAGE_CTRL. -/
theorem exec_checkFrameEnd (d : Bytes) (hr : s.inReset .chk = false) (he : s.en .chk = true) (hd : s.drainBit .chk = false) :
    exec (.checkFrameEnd src chan d) s = .next ((List.range 8).foldl (chkEnd src chan d) s) := by
  have off (u : Nat) : hdr .chk oCtrl ∉ endRegs u := fun hm =>
    (mem_endRegs hm).elim (fun h => h.ne_hdr (by decide) rfl) (by decide)
  have hctrl := foldl_rd (fun t u => chkEnd_regsOnly src chan d t u _ (off u)) (List.range 8) s
  have hdrain := State.draining_taking ((congrArg (tst · 0) hctrl).trans he) ((congrArg (tst · 1) hctrl).trans hd)
  show execCheckFrameEnd src chan d s = _
  simp only [execCheckFrameEnd, hr, hdrain, Bool.false_and, Bool.false_eq_true, if_false]

/-! ### A write of CVAL (R124) -/

theorem exec_cvalWrite {m : Master} {u : Fin 8} {v : Word} (h : PageOpen s .chk m) : exec (.cvalWrite m u v) s = .next ((s.cval m u.val v).answer .done) :=
  congrArg Host.Outcome.next (State.writeAt_open h _ _ _)

theorem State.cval_outside {m : Master} {u : Nat} {v : Word} (h : (s.unit u).inFrame = false) : s.cval m u v = s.wr (R.chk_CVALu u) v :=
  if_neg (ne_true_of_eq_false h)

theorem State.cval_busy {m : Master} {u : Nat} {v : Word} (h : (s.unit u).inFrame = true) : s.cval m u v = s.err .chk eBusy (0x110 + 0x20 * u) m := if_pos h

end

/-- Settles O42: a run over the units does to each what its own step does, and no step touches another unit. -/
theorem checkUnitsFollowTheFramesOfTheirSource : Obligations.CheckUnitsFollowTheFramesOfTheirSource := by
  refine ⟨?start, ?closed, ?begins, ?finish, ?reset, ?ends, ?value⟩
  case start =>
    intro src chan s ht
    refine ⟨_, exec_checkFrameStart ht, rfl, fun u hu hl hen hs hf => ?_⟩
    obtain ⟨t, ht, hend⟩ := foldl_at_unit (fun t w => chkStart_unitKept src chan t) List.nodup_range hu s
    have hen' := (ht.rb (unitReg u rfl) 0).trans hen
    have hs' := (ht.snoops src chan).trans hs
    have hf' := (congrArg ChkUnit.inFrame ht.unit).trans hf
    exact ⟨(congrArg ChkUnit.inFrame hend.unit).trans (chkStart_unit (lt_of_lt_of_eq hl ht.length.symm) hen' hs' hf'),
      (hend.rd _ (unitReg u rfl)).trans (chkStart_bytes hen' hs' hf')⟩
  case closed => exact fun src chan s ht => congrArg Host.Outcome.next (if_neg (ne_true_of_eq_false ht))
  case begins =>
    intro src chan u s hl _ hen hs hf
    exact ⟨chkStart_unit hl hen hs hf, chkStart_bytes hen hs hf, chkStart_presets hen hs hf, fun w hw => (chkStart_unitKept src chan s hw.symm).unit,
      chkStart_regsOnly src chan s u⟩
  case finish =>
    intro src chan d s hr he hd
    refine ⟨_, exec_checkFrameEnd d hr he hd, rfl, fun u hu hl hf hs => ?_⟩
    obtain ⟨t, ht, hend⟩ := foldl_at_unit (fun t w => chkEnd_unitKept src chan d t) List.nodup_range hu s
    have hs' := (ht.snoops src chan).trans hs
    have hf' := (congrArg ChkUnit.inFrame ht.unit).trans hf
    obtain ⟨_, _, hframes⟩ := chkEnd_counts d hf' hs'
    exact ⟨(congrArg ChkUnit.inFrame hend.unit).trans (chkEnd_unit d hf' hs' (lt_of_lt_of_eq hl ht.length.symm)),
      (hend.rd _ (unitReg u rfl)).trans (hframes.trans (congrArg (· + 1) (ht.rd _ (unitReg u rfl))))⟩
  case reset => exact fun src chan d s hr => congrArg Host.Outcome.next (if_pos hr)
  case ends =>
    intro src chan u d s hl hu hf hs t v
    obtain ⟨hvalue, hbytes, hframes⟩ := chkEnd_counts d hf hs
    exact ⟨chkEnd_unit d hf hs hl, hvalue, hbytes, hframes, chkEnd_latches d hf hs hu, chkEnd_keepsResult d hf hs,
      (goes_chkEnd src chan d s u rfl (.refl _ s)).1⟩
  case value =>
    intro m u v s ho
    rw [exec_cvalWrite ho]
    exact ⟨fun h => ⟨_, rfl, by rw [State.cval_outside h], by rw [State.cval_outside h]; exact s.rd_wr_same _ _, rfl⟩, fun h => by rw [State.cval_busy h]⟩

end Sys2Proof.Machine
end

section
/-! SUPPORT. The scrubber's burst, errors met in packet SRAM, and a write to DRAM that no error meets. -/

namespace Sys2Proof.Machine

open Sys2Proof

/-! ### The scrubber (R133) -/

section
variable {s : State}

/-- MEM in reset or the scrubber off: errors strike, and nothing is read. -/
theorem State.scrub_off (errs : List (Nat × CwErr)) (h : s.inReset .mem = true ∨ s.rb R.mem_MEM_CFG 0 = false) : s.scrub errs = s.dramStrike errs := by
  have hoff : ((s.dramStrike errs).inReset .mem || !(s.dramStrike errs).takes .mem || !(s.dramStrike errs).rb R.mem_MEM_CFG 0) = true := by
    change (s.inReset .mem || !s.takes .mem || !s.rb R.mem_MEM_CFG 0) = true
    rcases h with h | h <;> simp [h]
  exact if_pos hoff

/-- A burst over an array in which no error stands moves the pointer, or ends the pass. -/
theorem State.scrub_clean (ht : s.takes .mem = true) (hr : s.inReset .mem = false) (hon : s.rb R.mem_MEM_CFG 0 = true) (hf : s.mem.flips = []) :
    s.scrub [] =
      if s.rf R.mem_SCRUB_PTR 0 29 + 1 < dramSize / 64 then s.wr R.mem_SCRUB_PTR (w32 (s.rf R.mem_SCRUB_PTR 0 29 + 1))
      else ((s.wr R.mem_SCRUB_PTR 0).bump R.mem_SCRUB_PASS 1).irq .mem 2 := by
  simp only [State.scrub, State.dramStrike_nil, State.dramSeen_none hf, ht, hr, hon, Bool.not_true, Bool.or_self, Bool.false_eq_true, if_false]

theorem State.scrub_clean_changes (ht : s.takes .mem = true) (hr : s.inReset .mem = false) (hon : s.rb R.mem_MEM_CFG 0 = true) (hf : s.mem.flips = []) :
    ChangesOnly [.regs, .pba, .out] s (s.scrub []) := by
  rw [State.scrub_clean ht hr hon hf]
  split
  · exact (goes_wr s _ _ rfl (.refl _ s)).1
  · exact (goes_irq _ _ _ rfl (goes_bump _ _ _ rfl (goes_wr s _ _ rfl (.refl _ s)))).1

/-- The end of a pass: the pointer returns to zero, the pass is counted and the interrupt stands. -/
theorem State.scrubPass_effect (s : State) : let t := ((s.wr R.mem_SCRUB_PTR 0).bump R.mem_SCRUB_PASS 1).irq .mem 2
    t.rd R.mem_SCRUB_PTR = 0 ∧ t.rd R.mem_SCRUB_PASS = s.rd R.mem_SCRUB_PASS + 1 ∧ t.rb (hdr .mem oRaw) 2 = true := by
  refine ⟨?ptr, ?pass, State.irq_raises _ _ (by decide) (by decide)⟩
  case ptr => rw [State.irq_rd_ne _ _ _ (by decide), State.bump, State.rd_wr_ne _ _ (by decide), State.rd_wr_same]
  case pass =>
    rw [State.irq_rd_ne _ _ _ (by decide), State.bump, State.rd_wr_same, State.rd_wr_ne _ _ (by decide)]
    rfl

end

/-! ### Errors in packet SRAM (R135) -/

section
variable {s : State} {a : Nat}

/-- The error that stands in a codeword of packet SRAM is met and stands there no more. -/
theorem State.sramMeet_one (hf : s.mem.sramFlips = []) (cw : Nat) (e : CwErr) :
    ({ s with mem := { s.mem with sramFlips := [(cw, e)] } } : State).sramMeet cw = s.sramError (16 * cw) e := by
  have hdel : Sparse.del [(cw, e)] cw = s.mem.sramFlips := by simp [Sparse.del, hf]
  simp only [State.sramMeet, Sparse.find, if_true, hdel]

theorem State.sramStrike_one (hf : s.mem.sramFlips = []) (ha : a < 0x400000) (e : CwErr) :
    s.sramStrike [(a, e)] = { s with mem := { s.mem with sramFlips := [(a / 16, e)] } } := by
  simp [State.sramStrike, strike, hf, ha, Sparse.put, Sparse.del, Sparse.ins, Sparse.find]

/-- A scrub of packet SRAM meets the one error that has struck it. -/
theorem exec_sramScrub_one (hr : s.inReset .mem = false) (ha : a < 0x400000) (hf : s.mem.sramFlips = []) (e : CwErr) :
    exec (.sramScrub [(a, e)]) s = .next (s.sramError (16 * (a / 16)) e) := by
  have hin : flipsIn [(a / 16, e)] 0 0x400000 = [a / 16] := by
    have hlt : a / 16 * 16 < 0x400000 := by omega
    simp [flipsIn, hlt]
  have hseen : (s.sramStrike [(a, e)]).sramSeen 0 0x400000 = s.sramError (16 * (a / 16)) e := by
    rw [State.sramStrike_one hf ha, State.sramSeen, hin]
    exact State.sramMeet_one hf _ e
  exact congrArg Host.Outcome.next ((if_neg (ne_true_of_eq_false hr)).trans hseen)

theorem exec_sramScrub_reset (errs : List (Nat × CwErr)) (hr : s.inReset .mem = true) : exec (.sramScrub errs) s = .next (s.sramStrike errs) :=
  congrArg Host.Outcome.next (if_pos hr)

/-- A codeword of packet SRAM is poisoned, counted and reported. -/
def State.sramPoisoned (s : State) (cw : Nat) : State :=
  ({ s with mem := { s.mem with sramPoison := s.mem.sramPoison ++ [cw] } }.bumpSat R.mem_SRAM_UE_COUNT 1).irq .mem 3

theorem State.sramError_poisoned {cw : Nat} (e : CwErr) (h : cw ∈ s.mem.sramPoison) : s.sramError (16 * cw) e = s := by
  simp [State.sramError, h]

theorem State.sramError_one {cw : Nat} (b : Fin 36) (h : cw ∉ s.mem.sramPoison) : s.sramError (16 * cw) (.one b) = s.bumpSat R.mem_SRAM_CE_COUNT 1 := by
  simp [State.sramError, h]

theorem State.sramError_two {cw : Nat} (h : cw ∉ s.mem.sramPoison) : s.sramError (16 * cw) .two = s.sramPoisoned cw := by
  simp [State.sramError, State.sramPoisoned, h]

theorem State.sramPoisoned_mem (s : State) (cw : Nat) : (s.sramPoisoned cw).mem = { s.mem with sramPoison := s.mem.sramPoison ++ [cw] } :=
  State.irq_mem _ _ _

theorem State.sramPoisoned_raises (s : State) (cw : Nat) : (s.sramPoisoned cw).rb (hdr .mem oRaw) 3 = true :=
  State.irq_raises _ _ (by decide) (by decide)

theorem State.setMem_changes (s : State) (v : Mem) : ChangesOnly [.mem] s { s with mem := v } := by
  intro q hq
  cases q with
  | mem => exact absurd (List.mem_singleton_self _) hq
  | _ => rfl

theorem State.sramPoisoned_changes (s : State) (cw : Nat) : ChangesOnly [.regs, .mem, .pba, .out] s (s.sramPoisoned cw) :=
  ((s.setMem_changes _).mono (by simp)).trans (goes_irq _ _ _ rfl (goes_bumpSat _ _ _ rfl (.refl _ _))).1

end

/-! ### A write to DRAM that no error meets (R131) -/

/-- No error stands in DRAM, and none found before asks for a reset. -/
structure State.NoDramError (s : State) : Prop where
  crit : s.mem.crit = none
  flips : s.mem.flips = []

section
variable {s : State}

theorem State.NoDramError.wr (h : s.NoDramError) (a : Nat) (v : Word) : (s.wr a v).NoDramError := ⟨h.crit, h.flips⟩

theorem State.NoDramError.cwFresh (h : s.NoDramError) (a : Nat) : (s.cwFresh a).NoDramError := by
  have ht : ({ s with mem := { s.mem with poison := s.mem.poison.erase (a / 16), flips := Sparse.del s.mem.flips (a / 16) } } : State).NoDramError :=
    ⟨h.crit, by simp [Sparse.del, h.flips]⟩
  unfold State.cwFresh
  split
  · exact ht.wr _ _
  · exact ht

theorem State.NoDramError.cwPart (h : s.NoDramError) (src a : Nat) : (s.cwPart src a).NoDramError := by
  have hm : s.dramMeet src (a / 16) = s := by simp [State.dramMeet, h.flips, Sparse.find]
  unfold State.cwPart
  split
  · exact h.wr _ _
  · exact hm.symm ▸ h

theorem State.NoDramError.dramPut (h : s.NoDramError) (src k a : Nat) (b : Bytes) (dr : List Nat) : (dramPut src k s a b dr).1.NoDramError := by
  induction k generalizing s a b dr with
  | zero => exact h
  | succ k ih =>
    unfold Machine.dramPut
    split
    · exact h
    · extract_lets d part full t
      have ht : t.NoDramError := by
        unfold t
        split
        · exact h.cwFresh a
        · exact h.cwPart src a
      split
      · exact ih ht _ _ _
      · refine ih ?_ _ _ _
        exact ⟨ht.crit, ht.flips⟩

end

end Sys2Proof.Machine
end

section
/-! SUPPORT. What a Porter transfer stores, counts and answers. -/

namespace Sys2Proof.Machine

open Sys2Proof

/-- How many bytes the destination of a transfer takes: host memory takes them all. -/
def porterSpace (p : Porter) : Nat := match p.dst with | .host _ _ => p.len | d => locRoom d

/-- What a transfer that has moved all its bytes answers: those for host memory are the answer. -/
def porterAnswer (l : PorterLoc) (b : Bytes) : Resp := match l with | .host _ _ => .bytes b | _ => .done

/-- The bytes that a transfer has read are stored, and the eMMC has done its part. -/
def State.porterStored (s : State) (p : Porter) (b : Bytes) : State := (s.porterWrite p.dst b).emcDone p

/-- The counter that a transfer names is lowered; counter 0 names none (R95). -/
def State.porterCounted (s : State) (p : Porter) : State := if p.ctr % 1024 ≠ 0 then s.decCtr (p.ctr % 1024) else s

/-- The answer of a transfer that has moved all its bytes: done, but for host memory, where storing the bytes has answered with them. -/
def State.porterServed (s : State) (p : Porter) : State := match p.dst with | .host _ _ => s | _ => s.answer .done

/-- A transfer that tried to move n bytes ends, by what its read gave. -/
def State.porterEnded (p : Porter) (n : Nat) (r : State × Bytes × Bool) : State :=
  if r.2.2 && decide (n = p.len) && locWritable p.dst then ((r.1.porterStored p r.2.1).porterCounted p).porterServed p
  else (r.1.porterStored p r.2.1).answer .busError

section
variable {s : State} {p : Porter} {b : Bytes}

theorem le_porterSpace (h : p.len ≤ locRoom p.dst) : p.len ≤ porterSpace p := by
  unfold porterSpace
  split
  · exact Nat.le_refl _
  · exact h

/-! ### What a transfer leaves unchanged -/

theorem State.porterWrite_mkt (s : State) (l : PorterLoc) (b : Bytes) : (s.porterWrite l b).mkt = s.mkt :=
  (goes_porterWrite s l b rfl (.refl [.regs, .out, .resp, .free, .ldg, .mem, .nvs, .emc, .cor, .upd, .pba] s)).1 .mkt (by decide)

/-- After the store, the eMMC's part changes registers, interrupts and free values alone. -/
theorem State.porterStored_changes (s : State) (p : Porter) (b : Bytes) : ChangesOnly [.regs, .out, .free, .pba] (s.porterWrite p.dst b) (s.porterStored p b) :=
  (goes_emcDone _ p rfl (.refl _ _)).1

theorem State.porterStored_mkt (s : State) (p : Porter) (b : Bytes) : (s.porterStored p b).mkt = s.mkt :=
  (s.porterStored_changes p b .mkt (by decide)).trans (s.porterWrite_mkt _ _)

theorem State.porterStored_mem (s : State) (p : Porter) (b : Bytes) : (s.porterStored p b).mem = (s.porterWrite p.dst b).mem :=
  s.porterStored_changes p b .mem (by decide)

theorem State.porterCounted_changes (s : State) (p : Porter) : ChangesOnly [.regs, .out, .mkt, .pba] s (s.porterCounted p) := by
  unfold State.porterCounted
  split
  · exact (goes_decCtr s _ rfl (.refl _ s)).1
  · exact (Goes.refl _ s).1

theorem State.porterCounted_none (h : p.ctr % 1024 = 0) : s.porterCounted p = s := if_neg (not_not.mpr h)

/-- A counter above 0 that a transfer names is lowered by one. -/
theorem State.porterCounted_ctr (hn : p.ctr % 1024 ≠ 0) (hc : s.ctr (p.ctr % 1024) ≠ 0) :
    (s.porterCounted p).ctr (p.ctr % 1024) = s.ctr (p.ctr % 1024) - 1 := by
  rw [State.porterCounted, if_pos hn, State.decCtr, if_neg hc, State.setCtr_ctr, if_neg hn]

theorem State.ctr_congr {t : State} (h : t.mkt = s.mkt) (n : Nat) : t.ctr n = s.ctr n := by
  simp only [State.ctr, h]

theorem State.nvsWrite_mem (s : State) (w : NvsWriter) (a : Nat) (b : Bytes) : (s.nvsWrite w a b).mem = s.mem :=
  (goes_nvsWrite s w a b rfl (.refl [.regs, .out, .nvs, .pba] s)).1 .mem (by decide)

theorem State.corWrite_mem (s : State) (a : Nat) (b : Bytes) : (s.corWrite a b).mem = s.mem :=
  (goes_corWrite s a b rfl (.refl [.regs, .cor] s)).1 .mem (by decide)

/-- DRAM that is not in reset takes a transfer's bytes. -/
theorem State.porterWrite_dram {a : Nat} (h : s.locShut (.dram a) = none) (b : Bytes) :
    s.porterWrite (.dram a) b = (dramPut (masterSrc (.porter 0)) (cwSpan b.length) s a b []).1 := by
  have hr : ¬ s.inReset .mem = true := by simpa [State.locShut, locBlk] using h
  exact if_neg hr

/-- No store of a transfer's bytes finds an error in a critical region where none stands in DRAM: only a write to DRAM itself reads codewords. -/
theorem State.porterWrite_crit {l : PorterLoc} (hl : s.locShut l = none) (hc : s.mem.crit = none) (hf : s.mem.flips = []) :
    (s.porterWrite l b).mem.crit = none := by
  cases l with
  | sram a | tcm a | user a | boot a | boot2 a | rpmb a | host a d => exact hc
  | nvs a => exact (congrArg Mem.crit (s.nvsWrite_mem _ _ _)).trans hc
  | cor a => exact (congrArg Mem.crit (s.corWrite_mem _ _)).trans hc
  | dram a =>
    rw [State.porterWrite_dram hl]
    exact (State.NoDramError.dramPut ⟨hc, hf⟩ _ _ _ _ _).crit

/-- A store of no bytes leaves packet SRAM and DRAM as they were. -/
theorem State.porterWrite_nil {l : PorterLoc} (hl : s.locShut l = none) :
    (s.porterWrite l []).mem.sram = s.mem.sram ∧ (s.porterWrite l []).mem.dram = s.mem.dram := by
  cases l with
  | sram a | tcm a | user a | boot a | boot2 a | rpmb a | host a d => exact ⟨rfl, rfl⟩
  | nvs a => exact ⟨congrArg Mem.sram (s.nvsWrite_mem _ _ _), congrArg Mem.dram (s.nvsWrite_mem _ _ _)⟩
  | cor a => exact ⟨congrArg Mem.sram (s.corWrite_mem _ _), congrArg Mem.dram (s.corWrite_mem _ _)⟩
  | dram a =>
    rw [State.porterWrite_dram hl]
    exact ⟨rfl, rfl⟩

/-! ### The two ends of a transfer (R95, R131) -/

/-- With no new error to strike, a transfer reads its source as it stands. -/
theorem State.porterStrike_none (h : p.errs = []) : s.porterStrike p = s := by
  unfold State.porterStrike
  rw [h]
  split <;> rfl

/-- A transfer of bytes that lie within both stores tries to move them all. -/
theorem State.porterMove_eq (he : p.errs = []) (hs : p.len ≤ locRoom p.src) (hd : p.len ≤ porterSpace p) :
    s.porterMove p = State.porterEnded p p.len (s.porterRead p.src p.len) := by
  have hmove : s.porterMove p = State.porterEnded p (min p.len (min (locRoom p.src) (porterSpace p)))
      ((s.porterStrike p).porterRead p.src (min p.len (min (locRoom p.src) (porterSpace p)))) := rfl
  rw [hmove, State.porterStrike_none he, min_eq_left (le_min hs hd)]

theorem exec_porterTransferDone_open (hs : s.locShut p.src = none) (hd : s.locShut p.dst = none) :
    exec (.porterTransferDone p) s = .next (s.porterMove p).critReset := by
  have hdone : s.porterDone p = s.porterMove p := by simp only [State.porterDone, hs, hd]
  exact congrArg (fun t => Host.Outcome.next t.critReset) hdone

/-- Where storing to host memory has answered with the bytes, the transfer answers what its destination asks for. -/
theorem State.porterServed_eq (h : ∀ c d, p.dst = .host c d → s.resp = .bytes b) : s.porterServed p = s.answer (porterAnswer p.dst b) := by
  unfold State.porterServed porterAnswer
  split
  next c d hdst =>
    rw [← h c d hdst]
    rfl
  next => rfl

/-- The state after the bytes of a transfer are stored and its counter is lowered. -/
abbrev State.porterFinished (s : State) (p : Porter) (b : Bytes) : State := (s.porterStored p b).porterCounted p

theorem State.porterFinished_changes (s : State) (p : Porter) (b : Bytes) :
    ChangesOnly [.regs, .out, .free, .mkt, .pba] (s.porterWrite p.dst b) (s.porterFinished p b) :=
  ((s.porterStored_changes p b).mono (by simp)).trans ((State.porterCounted_changes _ p).mono (by simp))

theorem State.porterFinished_served (s : State) (p : Porter) (b : Bytes) :
    (s.porterFinished p b).porterServed p = (s.porterFinished p b).answer (porterAnswer p.dst b) := by
  refine State.porterServed_eq fun c d hdst => (s.porterFinished_changes p b .resp (by decide)).trans ?_
  rw [hdst]
  rfl

/-- A transfer that reads all its bytes stores them, lowers its counter and answers. -/
theorem exec_porterTransferDone_moved (he : p.errs = []) (hc : s.mem.crit = none) (hf : s.mem.flips = []) (hs : s.locShut p.src = none)
    (hd : s.locShut p.dst = none) (hw : locWritable p.dst = true) (hls : p.len ≤ locRoom p.src) (hld : p.len ≤ porterSpace p)
    (hr : s.porterRead p.src p.len = (s, b, true)) :
    exec (.porterTransferDone p) s = .next ((s.porterFinished p b).answer (porterAnswer p.dst b)) := by
  have hmove : s.porterMove p = (s.porterFinished p b).answer (porterAnswer p.dst b) := by
    rw [State.porterMove_eq he hls hld, hr, ← State.porterFinished_served]
    simp [State.porterEnded, hw]
  have hcrit : (s.porterFinished p b).mem.crit = none :=
    (congrArg Mem.crit (s.porterFinished_changes p b .mem (by decide))).trans (State.porterWrite_crit hd hc hf)
  rw [exec_porterTransferDone_open hs hd, hmove]
  exact congrArg Host.Outcome.next (State.critReset_none hcrit)

/-- A transfer whose packet SRAM source is poisoned stores no byte and answers with a bus error. -/
theorem exec_porterTransferDone_poisoned {a : Nat} (he : p.errs = []) (hc : s.mem.crit = none) (hf : s.mem.flips = []) (hsf : s.mem.sramFlips = [])
    (hsrc : p.src = .sram a) (hd : s.locShut p.dst = none) (hls : a + p.len ≤ 0x400000) (hld : p.len ≤ porterSpace p) (hr : s.sramRead a p.len = none) :
    exec (.porterTransferDone p) s = .next ((s.porterStored p []).answer .busError) := by
  have hs : s.locShut p.src = none := by rw [hsrc]; rfl
  have hroom : p.len ≤ locRoom p.src := by
    rw [hsrc]
    exact Nat.le_sub_of_add_le' hls
  have hseen : s.sramSeen a p.len = s := by simp [State.sramSeen, flipsIn, hsf]
  have hread : s.porterRead p.src p.len = (s, [], false) := by simp only [hsrc, State.porterRead, hseen, hr]
  have hmove : s.porterMove p = (s.porterStored p []).answer .busError := by
    rw [State.porterMove_eq he hroom hld, hread]
    exact if_neg (by simp)
  have hcrit : (s.porterStored p []).mem.crit = none := (congrArg Mem.crit (s.porterStored_mem p [])).trans (State.porterWrite_crit hd hc hf)
  rw [exec_porterTransferDone_open hs hd, hmove]
  exact congrArg Host.Outcome.next (State.critReset_none hcrit)

end

/-- Settles O43: a burst and an error of packet SRAM are computed from the store as it stands; a transfer ends in one of two ways. -/
theorem memoryErrorsAndPorterTransfers : Obligations.MemoryErrorsAndPorterTransfers := by
  refine ⟨fun _ _ => rfl, ?burst, fun errs s => State.scrub_off errs, fun errs s => exec_sramScrub_reset errs, ?sram, ?poisoned, ?moved, ?refused⟩
  case burst =>
    intro s ht hr hon hc hf p
    have hch := State.scrub_clean_changes ht hr hon hf
    have hcrit : (s.scrub []).mem.crit = none := (congrArg Mem.crit (hch .mem (by decide))).trans hc
    refine ⟨_, congrArg Host.Outcome.next (State.critReset_none hcrit), hch, fun hp => ?_, fun hp => ?_⟩
    · rw [State.scrub_clean ht hr hon hf, if_pos hp]
      exact ⟨s.rd_wr_same _ _, s.rd_wr_ne _ (by decide)⟩
    · rw [State.scrub_clean ht hr hon hf, if_neg (Nat.not_lt.mpr hp)]
      exact s.scrubPass_effect
  case sram =>
    intro a b s hr ha hf hp
    refine ⟨⟨_, exec_sramScrub_one hr ha hf _, State.sramError_one b hp, ?_⟩, ⟨_, exec_sramScrub_one hr ha hf _, ?_⟩⟩
    · rw [State.sramError_one b hp]
      exact s.bumpSat_rd_same _ _
    · rw [State.sramError_two hp, State.sramPoisoned_mem]
      exact ⟨rfl, rfl, s.sramPoisoned_raises _, s.sramPoisoned_changes _⟩
  case poisoned =>
    intro a e s hr ha hf hp
    rw [exec_sramScrub_one hr ha hf, State.sramError_poisoned e hp]
  case moved =>
    intro p b s he hc hf hs hd hw hls hld hr
    have hx := exec_porterTransferDone_moved he hc hf hs hd hw hls hld hr
    have hmem : (s.porterFinished p b).mem = (s.porterWrite p.dst b).mem := s.porterFinished_changes p b .mem (by decide)
    have hemc : (s.porterFinished p b).emc = (s.porterWrite p.dst b).emc := s.porterFinished_changes p b .emc (by decide)
    have hctr := State.ctr_congr (s.porterStored_mkt p b) (p.ctr % 1024)
    refine ⟨_, hx, fun a h => ?sram, fun a h => ?tcm, fun a h => ?user, fun a h => ?dram, rfl, fun hn h0 => ?lowered, fun h0 => ?none, (exec_goes hx).1⟩
    case sram => exact (congrArg Mem.sram hmem).trans (by rw [h]; rfl)
    case tcm => exact (congrArg Mem.tcm hmem).trans (by rw [h]; rfl)
    case user => exact (congrArg Emc.user hemc).trans (by rw [h]; rfl)
    case dram => exact (congrArg Mem.dram hmem).trans (by rw [h]; rfl)
    case lowered => exact (State.porterCounted_ctr hn (hctr.trans_ne h0)).trans (congrArg (· - 1) hctr)
    case none => exact (congrArg State.mkt (State.porterCounted_none h0)).trans (s.porterStored_mkt p b)
  case refused =>
    intro p a s he hc hf hsf hsrc hls hld hd hr
    have hx := exec_porterTransferDone_poisoned he hc hf hsf hsrc hd hls (le_porterSpace hld) hr
    obtain ⟨hsram, hdram⟩ := State.porterWrite_nil hd
    have hmem := s.porterStored_mem p []
    exact ⟨_, hx, rfl, s.porterStored_mkt p [], (congrArg Mem.sram hmem).trans hsram, (congrArg Mem.dram hmem).trans hdram, (exec_goes hx).1⟩

end Sys2Proof.Machine
end

section
/-! PROOFS. Hop lists and the airtime ledgers. -/

namespace Sys2Proof.Machine

open Sys2Proof

/-! ### The commit of a hop list (R151, R206) -/

section
variable {m : Master} {v : Word} {s : State}

theorem exec_hopCommit (h : PageOpen s .chn m) : exec (.hopCommit m v) s = .next ((s.hopCommit m v).answer .done) :=
  congrArg Host.Outcome.next (State.writeAt_open h _ _ _)

/-- A tick that the module cannot accept is refused first, with its record (R23). -/
theorem State.hopCommit_noTime (hv : tst v 0 = true) (ht : s.timeFor (s.rd R.chn_HOP_AT) = false) :
    s.hopCommit m v = (s.err .chn eNoTime 0x54 m).noTime .chn (s.rd R.chn_HOP_AT) := by
  simp only [State.hopCommit, hv, ht, Bool.not_true, Bool.not_false, Bool.false_eq_true, if_false, if_true]

/-- A tick inside a superframe, or one that is not later than the tick in progress, is a bad value. -/
theorem State.hopCommit_badTick (hv : tst v 0 = true) (ht : s.timeFor (s.rd R.chn_HOP_AT) = true)
    (hb : (s.rd R.chn_HOP_AT).toNat % 256 ≠ 0 ∨ later (s.rd R.chn_HOP_AT) s.tick32 = false) : s.hopCommit m v = s.err .chn eBadValue 0x54 m := by
  have hb' : (s.rd R.chn_HOP_AT).toNat % 256 ≠ 0 ∨ (!later (s.rd R.chn_HOP_AT) s.tick32) = true := hb.imp_right (by simp [·])
  simp only [State.hopCommit, hv, ht, Bool.not_true, Bool.false_eq_true, if_false, if_pos hb']

/-- At a boundary that lies ahead the staged list decides: its separation first, then whether it can be found. -/
theorem State.hopCommit_ahead (hv : tst v 0 = true) (ht : s.timeFor (s.rd R.chn_HOP_AT) = true) (hb : (s.rd R.chn_HOP_AT).toNat % 256 = 0)
    (hl : later (s.rd R.chn_HOP_AT) s.tick32 = true) :
    s.hopCommit m v = if s.hopBad s.hopStaged then s.err .chn 0x80 0x54 m else if !s.hopFindable s.hopStaged then s.err .chn eBadValue 0x54 m
      else ({ s with chn := { s.chn with hopNext := some (s.hopStaged, s.rd R.chn_HOP_AT) } }).wr R.chn_HOP_COMMIT 1 := by
  simp only [State.hopCommit, hv, ht, hb, hl, Bool.not_true, Bool.false_eq_true, ne_eq, not_true_eq_false, or_self, if_false]

end

/-- Once its tick is reached, the list that waits is in use. -/
theorem State.hopApply_reached {s : State} {l : List Nat} {a : Word} (hn : s.chn.hopNext = some (l, a)) (hh : s.holds = true)
    (ha : notEarlier s.tick32 a = true) :
    s.hopApply = (({ s with chn := { s.chn with hop := l, hopNext := none } }).wr R.chn_HOP_COMMIT 0).irq .chn 2 := by
  simp [State.hopApply, hn, hh, ha]

/-! ### The age of the ledgers (R164) -/

/-- Each ledger of a list starts a new bin and keeps its newest 64. -/
def agedBins (l : Sparse (List Nat)) : Sparse (List Nat) := l.map fun p => (p.1, (0 :: p.2).take 64)

/-- The ledgers one superframe older. -/
def Chn.aged (c : Chn) : Chn :=
  { c with age := c.age + 1, dwell := agedBins c.dwell, duty := if (c.age + 1) % 64 = 0 then agedBins c.duty else c.duty }

/-- Where NVS region 1 is open to CHN the ledgers age, and what follows stores their bins. -/
theorem State.ledgerAge_goes {s : State} (hb : s.boot.stage ≠ .off) (hn : s.nvsOpen .chn 1 = true) :
    Goes [.regs, .out, .nvs, .pba] ({ s with chn := s.chn.aged } : State) s.ledgerAge := by
  unfold State.ledgerAge
  rw [if_neg (by simp [hb, hn])]
  extract_lets a older c t u w
  have ht : t = { s with chn := s.chn.aged } := rfl
  have hu : Goes [.regs, .out, .nvs, .pba] t u := goes_clearBins _ _ _ _ rfl (.refl _ t)
  have hw : Goes [.regs, .out, .nvs, .pba] t w := Goes.ite (goes_clearBins _ _ _ _ rfl hu) hu
  rw [← ht]
  exact goes_nvsWrite _ _ _ _ rfl hw

theorem State.ledgerAge_chn {s : State} (hb : s.boot.stage ≠ .off) (hn : s.nvsOpen .chn 1 = true) : s.ledgerAge.chn = s.chn.aged :=
  (State.ledgerAge_goes hb hn).1 .chn (by decide)

/-- Settles O18: the commit by the checks of its tick and its list in their order, the list at its tick, and the ledgers as what stores them leaves them. -/
theorem channelsHopAndAge : Obligations.ChannelsHopAndAge := by
  refine ⟨?commit, ?noTime, ?badTick, ?apply, ?age⟩
  case commit =>
    intro m v s ho hv ht hb hl
    have hx := exec_hopCommit (v := v) ho
    rw [State.hopCommit_ahead hv ht hb hl] at hx
    refine ⟨fun hok hf => ⟨_, ?_, rfl, rfl, ?_, rfl⟩, fun hbad => ?_, fun hok hf => ?_⟩
    · simpa [hok, hf] using hx
    · exact (State.rd_answer _ _ _).trans (State.rd_wr_same _ _ _)
    · simpa [hbad] using hx
    · simpa [hok, hf] using hx
  case noTime =>
    intro m v s ho hv ht
    rw [exec_hopCommit ho, State.hopCommit_noTime hv ht]
  case badTick =>
    intro m v s ho hv ht hb
    rw [exec_hopCommit ho, State.hopCommit_badTick hv ht (.inl hb)]
  case apply =>
    intro l a s hn hh ha
    refine ⟨_, congrArg Host.Outcome.next (State.hopApply_reached hn hh ha), rfl, ?_, ?_, ?_, State.irq_raises _ .chn (by decide) (by decide)⟩
    · rw [State.irq_chn]
      rfl
    · rw [State.irq_chn]
      rfl
    · exact (State.irq_rd_ne _ .chn 2 (by decide)).trans (State.rd_wr_same _ _ _)
  case age =>
    intro s hb hn
    have hx : exec .ledgerAge s = .next s.ledgerAge := rfl
    have hc := State.ledgerAge_chn hb hn
    refine ⟨_, hx, congrArg Chn.age hc, congrArg Chn.dwell hc, fun h => ?_, fun h => ?_, (exec_goes hx).1⟩
    · exact (congrArg Chn.duty hc).trans (if_neg h)
    · exact (congrArg Chn.duty hc).trans (if_pos h)

end Sys2Proof.Machine
end

section
/-! PROOFS. The transmit path of a radio: descriptors, the release of a frame at its slot, deadlines, and the end of a frame. -/

namespace Sys2Proof.Machine

open Sys2Proof

/-- An operation that leaves the radios leaves each of them. -/
theorem Goes.radio {W : List Part} {s t : State} (h : Goes W s t) (hW : .rad ∉ W) (r : Nat) : t.radio r = s.radio r := by
  unfold State.radio
  rw [h.1 .rad hW]

theorem State.modRadio_changes (s : State) (r : Nat) (f : Rad → Rad) : ChangesOnly [.rad] s (s.modRadio r f) := (goes_modRadio s r f rfl (.refl _ s)).1

/-! ### Descriptors (R168) -/

/-- The frame that a radio queues for a descriptor; one that is sent again carries the bytes of its first release. -/
def State.descTx (s : State) (r : Nat) (d : DWord) : Tx :=
  ⟨d, none, s.tick, if descResend d then Sparse.find (s.radio r).kept (descBuf d) else none, 0, 0⟩

section
variable {s t : State} {r : Nat} {d : DWord}

theorem State.txDesc_taken (hr : s.takes (radBlk r) = true) (he : s.hwTakeEnt (s.rf (R.rad_RAD_CFG r) 16 4) = (t, some d)) :
    s.txDesc r = if t.badDesc r d then t.err (radBlk r) 0x81 0x40 .block else t.txQueue r (t.descTx r d) := by
  simp only [State.txDesc, hr, he, Bool.not_true, Bool.false_eq_true, if_false]
  rfl

theorem State.txQueue_fits {x : Tx} (h : s.tooLong r x = false) : s.txQueue r x = s.modRadio r fun q => { q with queue := q.queue ++ [x] } :=
  if_neg (by simp [h])

theorem State.txQueue_tooLong {x : Tx} (h : s.tooLong r x = true) : s.txQueue r x = (s.err (radBlk r) 0x80 0x40 .block).txDone r x dTooLong := if_pos h

end

/-! ### The tick of a release (R154-R157, R161, R202) -/

theorem exec_frameRelease {s : State} {a : Fin 3} (r : Fin 4) (hn : s.onNet = true) (hs : s.isStandby = false) (hr : s.repeated = false)
    (ht : tickClass (s.tick % 256) = a.val) : exec (.frameRelease r a) s = .next (s.releaseUpTo r.val a.val) :=
  congrArg Host.Outcome.next (if_neg (by simp [hn, hs, hr, ht]))

/-- The ticks from 224 on are for assigned frames. -/
theorem tickClass_assigned {t : Nat} (h : 224 ≤ t) : tickClass t = 1 :=
  (if_neg (by omega)).trans (if_neg (by omega))

/-- The radio has made its decision for an access class in the tick in progress. -/
abbrev State.decided (s : State) (r acc : Nat) : State := s.modRadio r fun q => { q with tested := some (s.tick, acc) }

theorem State.decided_air (s : State) (r acc : Nat) : ((s.decided r acc).radio r).air = (s.radio r).air :=
  congrArg (fun p => p.2.1) (s.modRadio_exchangeOf r (f := fun q => { q with tested := some (s.tick, acc) }) fun _ => ⟨rfl, rfl, rfl, rfl⟩)

/-- A radio that takes work and has no frame on air decides once in a tick on the first frame of the class. -/
theorem State.releaseOf_next {s : State} {r acc : Nat} {x : Tx} (hd : (s.radio r).tested ≠ some (s.tick, acc)) (ht : s.takes (radBlk r) = true)
    (ha : (s.radio r).air = none) (hx : (s.decided r acc).nextTx r acc = some x) (hm : (s.decided r acc).maySend x = true) :
    s.releaseOf r acc = (s.decided r acc).releaseFrame r acc x := by
  have ht' : (s.decided r acc).takes (radBlk r) = true := ht
  have ha' := (s.decided_air r acc).trans ha
  unfold State.releaseOf
  rw [if_neg hd]
  dsimp only
  rw [if_neg (by simp [ht', ha'])]
  simp only [hx, hm, if_true]

section
variable {s : State} {r : Nat} {x : Tx}

/-- At its slot a contention frame queued before the tick waits out one backoff slot, or is tried when none is left. -/
theorem State.releaseFrame_contention {p : Nat} (hp : s.slotFor r x = some p) (h0 : s.tick % p = 0) (hf : s.tick % 256 + p ≤ 224) (hs : x.since < s.tick) :
    s.releaseFrame r 0 x = if 0 < x.left then s.modRadio r fun q => { q with queue := putTx x { x with left := x.left - 1 } q.queue } else s.tryRelease r 0 x := by
  have hslot : ¬ (s.tick % p ≠ 0 ∨ 224 < s.tick % 256 + p ∨ s.tick ≤ x.since) := by omega
  simp only [State.releaseFrame, hp, if_true, if_neg hslot]

theorem State.releaseFrame_assigned (h : s.atSlot r x = true) : s.releaseFrame r 1 x = s.tryRelease r 1 x := by
  simp [State.releaseFrame, h]

/-- A frame that nothing holds back goes on air as it was secured (R158, R160). -/
theorem State.tryRelease_free {v : State} {b : Bytes} {acc : Nat} (hfl : s.floodOver r (s.tick * 4000 + 200) (s.sendExch r acc x) = false)
    (hh : s.hopReaches (s.sendExch r acc x) = false) (hl : s.lnkTakes = true) (ht : s.takes (radBlk r) = true) (hc : s.chnTakes = true)
    (hk : s.chanOk (s.sendChan r acc) (s.sendMode r acc) = true)
    (hw : s.ledgersAllow r (s.sendChan r acc) (s.sendAir r acc x) (decide (acc ≠ 2)) = true) (hsec : s.securedOf x = .done v b) :
    s.tryRelease r acc x = v.goOnAir r acc (s.sendChan r acc) (s.sendMode r acc) (s.sendAir r acc x) x b := by
  simp only [State.tryRelease, hfl, hh, hl, ht, hc, hk, hw, hsec, Bool.not_true, Bool.or_self, Bool.false_eq_true, if_false]

end

/-- A frame that goes on air has been tried once more, and a reception in progress is lost. -/
theorem State.goOnAir_radio (s : State) {r : Nat} (acc c mode air : Nat) (x : Tx) (b : Bytes) (h : r < s.rad.length) :
    let q := (s.goOnAir r acc c mode air x b).radio r
    q.air = some ⟨{ x with secured := some b, tries := x.tries + 1 }, c, mode⟩ ∧ q.rx = none := by
  unfold State.goOnAir
  extract_lets y t q
  have htr : Goes [.regs, .out, .nvs, .chn, .pba] s (s.transmit r c mode air (decide (acc = 2)) b) := goes_transmit s _ _ _ _ _ _ rfl (.refl _ s)
  have hlen : r < (s.transmit r c mode air (decide (acc = 2)) b).rad.length := by rwa [show _ = s.rad from htr.1 .rad (by decide)]
  have hq : q = t.radio r := (goes_noteDreq t b rfl (.refl [.ntm] t)).radio (by decide) r
  rw [hq, State.modRadio_radio _ _ hlen]
  exact ⟨rfl, rfl⟩

/-! ### Deadlines and the end of a frame (R157, R162, R166) -/

/-- A frame past its deadline is in the queue no more. -/
theorem State.txExpire_queue (s : State) (r : Nat) : ∀ x ∈ ((s.txExpire r).radio r).queue, s.txExpired x = false := by
  intro x hx
  unfold State.txExpire at hx
  extract_lets q gone t at hx
  rw [(goes_txDoneAll r dExpired gone t rfl (.refl [.regs, .out, .que, .net, .pba] t)).radio (by decide) r] at hx
  by_cases hr : r < s.rad.length
  · rw [State.modRadio_radio s _ hr] at hx
    simpa using (List.mem_filter.mp hx).2
  · have ht : t = s := s.modRadio_absent _ (Nat.not_lt.mp hr)
    rw [ht] at hx
    simp [State.radio, List.getElem?_eq_none (Nat.not_lt.mp hr)] at hx

/-- A frame that waits for no acknowledgement is complete at its end. -/
theorem State.txEnd_sent {s : State} {r : Nat} {a : OnAir} (h : (s.radio r).air = some a) (ha : descAck a.tx.desc = false) :
    s.txEnd r = ((s.modRadio r fun y => { y with air := none }).txDone r a.tx dSent).radDrain r := by
  simp [State.txEnd, h, ha]

/-- After its completion nothing is on air. -/
theorem State.sent_air {s : State} {r : Nat} (x : Tx) (status : Nat) (h : r < s.rad.length) :
    ((((s.modRadio r fun y => { y with air := none }).txDone r x status).radDrain r).radio r).air = none :=
  (congrArg (fun p => p.2.1) ((State.radDrain_exchangeOf _ r).trans (State.txDone_exchangeOf _ r r x status))).trans (congrArg Rad.air (s.modRadio_radio _ h))

/-- Settles O17: each row is computed, and what a frame leaves behind it as it is secured, sent or completed leaves the radio's queue and exchange. -/
theorem radioQueuesItsFrames : Obligations.RadioQueuesItsFrames := by
  refine ⟨?descriptor, fun r a s hn hs hr ht => exec_frameRelease r hn hs hr ht, ?decision, ?onAir, ?contention,
    fun r x s h => State.releaseFrame_assigned h, ?deadline, ?frameEnd, ?reflects⟩
  case descriptor =>
    intro r t d s ht he
    have hx : exec (.txDescriptor r) s = .next (s.txDesc r.val) := rfl
    rw [State.txDesc_taken ht he] at hx
    refine ⟨fun hb => hx.trans (congrArg Host.Outcome.next (if_pos hb)), fun hb => ?_⟩
    intro x
    have hq : exec (.txDescriptor r) s = .next (t.txQueue r.val x) := hx.trans (congrArg Host.Outcome.next (if_neg (by simp [hb])))
    have hfits (hl : t.tooLong r.val x = false) : exec (.txDescriptor r) s = .next (t.modRadio r.val fun q => { q with queue := q.queue ++ [x] }) :=
      hq.trans (congrArg _ (State.txQueue_fits hl))
    refine ⟨hfits, fun hl hlen => ⟨_, hfits hl, ?_, t.modRadio_changes _ _⟩, fun hl => hq.trans (congrArg _ (State.txQueue_tooLong hl))⟩
    exact congrArg Rad.queue (t.modRadio_radio _ (lt_of_lt_of_eq r.isLt hlen.symm))
  case decision =>
    intro r acc x s hd ht ha u hx hm
    exact State.releaseOf_next hd ht ha hx hm
  case onAir =>
    intro x v b s hn hs hr ht hlen hd hk ha u hx hm hslot hfl hh hl hc hok hw hsec
    have he := exec_frameRelease (a := 1) 0 hn hs hr (tickClass_assigned ht)
    have hrel : s.releaseUpTo 0 1 = v.goOnAir 0 1 (u.sendChan 0 1) (u.sendMode 0 1) (u.sendAir 0 1 x) x b :=
      calc s.releaseUpTo 0 1
        _ = s.releaseOf 0 1 := rfl
        _ = u.releaseFrame 0 1 x := State.releaseOf_next hd hk ha hx hm
        _ = u.tryRelease 0 1 x := State.releaseFrame_assigned hslot
        _ = _ := State.tryRelease_free hfl hh hl hk hc hok hw hsec
    have hv : v.rad = u.rad := (goes_securedOf u x hsec rfl (.refl [.regs, .out, .free, .mem, .nvs, .lnk, .pba] u)).1 .rad (by decide)
    have hvlen : 0 < v.rad.length := by
      rw [hv, State.modRadio_length, hlen]
      decide
    obtain ⟨hair, hrx⟩ := v.goOnAir_radio 1 (u.sendChan 0 1) (u.sendMode 0 1) (u.sendAir 0 1 x) x b hvlen
    rw [← hrel] at hair hrx
    exact ⟨_, he, (congrArg (Option.map _) hair).trans rfl, hrx, (exec_goes he).1⟩
  case contention =>
    intro r p x s hp h0 hf hs
    rw [State.releaseFrame_contention hp h0 hf hs]
    exact ⟨fun h => if_neg (by omega), fun h => if_pos h⟩
  case deadline =>
    intro r s
    have hx : exec (.deadlineExpiry r) s = .next (s.txExpire r.val) := rfl
    exact ⟨_, hx, s.txExpire_queue r.val, (exec_goes hx).1⟩
  case frameEnd =>
    intro r a s h ha
    exact ⟨_, congrArg Host.Outcome.next (State.txEnd_sent h ha), rfl, State.sent_air a.tx dSent (State.lt_of_air h)⟩
  case reflects =>
    intro r s hr hlen
    have hlt : r.val < s.rad.length := lt_of_lt_of_eq r.isLt hlen.symm
    have hcut (c : Bool) : ((s.modRadio r.val fun x => { x with cut := c }).radio r.val).cut = c := congrArg Rad.cut (s.modRadio_radio _ hlt)
    have hx (c : Bool) : exec (.paFault r c) s = .next (let t := s.modRadio r.val fun x => { x with cut := c }; if c then t.irq (.rad r) 5 else t) :=
      congrArg Host.Outcome.next (if_neg (by simp [hr]))
    have hbit : tst (w32 (2 ^ blkIrqN (.rad r) - 1 + 0xC0000000)) 5 = true := by
      rw [show blkIrqN (.rad r) = 6 from rfl]
      decide
    refine ⟨⟨_, hx true, rfl, ?_, State.irq_raises _ (.rad r) (by decide) hbit⟩, ⟨_, hx false, rfl, hcut false⟩⟩
    have hirq := goes_irq (s.modRadio r.val fun x => { x with cut := true }) (.rad r) 5 rfl (.refl [.regs, .out, .pba] _)
    exact (congrArg Rad.cut (hirq.radio (by decide) r.val)).trans (hcut true)

end Sys2Proof.Machine
end

section
/-! PROOFS. The window of an accepted counter, and a presence report that finds the corridor's queue in packet mode. -/

namespace Sys2Proof.Machine

open Sys2Proof

/-! ### The window after an acceptance (R192) -/

section
variable {acc ok : Bool} {h w ctr : Nat} {ca : Option Bytes} {mic : Bytes}

/-- Only a counter above the window, or one inside it that has not been seen, is accepted. -/
theorem judge_accepts (hj : judge acc h w ctr ok ca mic = 0) : h < ctr ∨ (h < ctr + 32 ∧ winSeen h w ctr = false) := by
  unfold judge at hj
  split at hj
  · cases hj
  split at hj
  · cases hj
  split at hj
  · assumption
  · split at hj
    · split at hj
      · split at hj <;> cases hj
      · cases hj
    · cases hj

/-- A counter that the window has seen is not accepted. -/
theorem judge_seen (hw : winSeen h w ctr = true) : judge acc h w ctr ok ca mic ≠ 0 := by
  intro hj
  obtain hnew | ⟨_, hunseen⟩ := judge_accepts hj
  · simp [winSeen, Nat.not_le.mpr hnew] at hw
  · exact absurd (hw.symm.trans hunseen) (by decide)

/-- The window has seen its highest counter when its lowest bit is set. -/
theorem winSeen_highest (hw : w % 2 = 1) : winSeen h w h = true := by
  simp [winSeen, hw]

/-- After an acceptance the window has seen the counter. -/
theorem winSeen_winTake (hj : h < ctr ∨ (h < ctr + 32 ∧ winSeen h w ctr = false)) :
    winSeen (winTake h w ctr).1 (winTake h w ctr).2 ctr = true := by
  unfold winTake
  by_cases hnew : h < ctr
  · rw [if_pos hnew]
    refine winSeen_highest ?_
    dsimp only
    split <;> omega
  · obtain ⟨hin, hunseen⟩ := hj.resolve_left hnew
    have hle : ctr ≤ h := Nat.not_lt.mp hnew
    have hbit : w / 2 ^ (h - ctr) % 2 ≠ 1 := by simpa [winSeen, hle, hin] using hunseen
    rw [if_neg hnew, if_neg hbit]
    simp only [winSeen, hle, hin, Nat.add_div_right _ (Nat.two_pow_pos (h - ctr)), decide_true, Bool.true_and, decide_eq_true_eq]
    omega

end

/-- Settles O19: an acceptance leaves the counter seen in the window, and a counter that the window has seen is not accepted. -/
theorem acceptedCounterIsNeverAcceptedAgain : Obligations.AcceptedCounterIsNeverAcceptedAgain :=
  fun _ _ _ _ _ _ _ _ _ _ _ hj => judge_seen (winSeen_winTake (judge_accepts hj))

/-! ### A hardware push that breaks packet order (R120) -/

section
variable {s : State} {q : Nat} {v : DWord}

/-- An entry that breaks the packet order is dropped and recorded, and the producer goes on. -/
theorem hwDrain_breaksOrder {r : List DWord} (n : Nat) (h : (s.queue q).hw = v :: r) (hen : s.qen q = true) (ht : s.queTakes = true)
    (hp : s.rb (R.que_QCFGq q) 1 = true) (ho : pktOrder (s.queue q) v = false) :
    hwDrain (n + 1) q s = hwDrain n q (((s.setQueue q { s.queue q with hw := r }).qdrop q).err .que 0x81 (0x44 + 8 * q) .block) := by
  simp [hwDrain, h, hen, ht, hp, ho]

/-- A hardware producer's entry that breaks the packet order does not enter the queue. -/
theorem State.hwPush_breaksOrder (hq : q < s.que.q.length) (h : (s.queue q).hw = []) (hen : s.qen q = true) (ht : s.queTakes = true)
    (hp : s.rb (R.que_QCFGq q) 1 = true) (ho : pktOrder (s.queue q) v = false) : ((s.hwPush q v).queue q).ents = (s.queue q).ents := by
  let u := s.setQueue q { s.queue q with hw := [v] }
  let d := ((u.setQueue q { u.queue q with hw := [] }).qdrop q).err .que 0x81 (0x44 + 8 * q) .block
  have hu : u.queue q = { s.queue q with hw := [v] } := s.setQueue_queue _ hq
  have hd : d.queue q = { u.queue q with hw := [] } :=
    (State.queue_congr (State.err_que ..) q).trans (u.setQueue_queue _ (lt_of_lt_of_eq hq (s.setQueue_length _ _).symm))
  have hpush : s.hwPush q v = d :=
    calc s.hwPush q v
      _ = hwDrain 1 q u := by simp [State.hwPush, h, u]
      _ = hwDrain 0 q d := hwDrain_breaksOrder 0 (by rw [hu]) hen ht hp (by rw [hu]; exact ho)
      _ = d := rfl
  rw [hpush, hd, hu]

end

/-! ### A presence report to a queue in packet mode (R120, R252) -/

/-- A head whose corridor takes reports from queue 0, which is enabled, empty, of 256 entries, and in packet mode. -/
def packetReports : State :=
  { State.reset with regs := [(R.rst_ROLE, 1), (R.rst_BLK_IN_RESET_A, 0), (hdr .que oCtrl, 1), (R.que_QCFGq 0, 0x83)] }

/-- A presence frame of node 0 as the head hears it. -/
def presenceHeard : AirRx := ⟨0, 5 :: List.replicate 20 0, [], 0, 0, 0, 0⟩

/-- Refutes O21: the statement leaves out that the corridor's queue is not in packet mode (R252), and a queue in packet mode drops a report entry, whose kind no packet has (R120). -/
theorem not_linkKeepsItsCountersAndKeys : ¬ Obligations.LinkKeepsItsCountersAndKeys := by
  intro h
  obtain ⟨_, _, presence, _⟩ := h
  obtain ⟨push, pushed⟩ := presence presenceHeard packetReports (by decide) (by decide)
  obtain ⟨t, ht, ents, _⟩ := pushed (by decide) (by decide) (by decide) (by decide) (by decide)
  have dropped : (t.queue (packetReports.rf R.cor_COR_CFG 0 4)).ents = (packetReports.queue (packetReports.rf R.cor_COR_CFG 0 4)).ents := by
    rw [← Host.Outcome.next.inj (push.symm.trans ht)]
    exact State.hwPush_breaksOrder (by decide) (by decide) (by decide) (by decide) (by decide) (by decide)
  exact absurd (ents.symm.trans dropped) (by simp)

end Sys2Proof.Machine
end

section
/-! SUPPORT. What the frames that the firmware sends over the mesh, the link records and the children leave of the mesh's own data. -/

namespace Sys2Proof.Machine

open Sys2Proof

/-! ### A frame of the firmware's own (R154) -/

/-- A frame of the firmware's own enters its radio's queue, or leaves an error. -/
theorem State.txQueue_own_goes (s : State) (r : Nat) {x : Tx} {b : Bytes} (h : x.own = some b) : Goes [.regs, .out, .rad, .pba] s (s.txQueue r x) := by
  unfold State.txQueue
  rw [State.txDone_own h]
  exact .ite (goes_err s _ _ _ _ rfl (.refl _ s)) (goes_modRadio s _ _ rfl (.refl _ s))

theorem State.fwSend_goes (s : State) (r access : Nat) (ack : Bool) (dl : Option Nat) (psdu : Bytes) : Goes [.regs, .out, .rad, .pba] s (s.fwSend r access ack dl psdu) :=
  .ite (.refl _ s) (s.txQueue_own_goes r rfl)

@[simp] theorem State.fwSend_net (s : State) (r access : Nat) (ack : Bool) (dl : Option Nat) (psdu : Bytes) : (s.fwSend r access ack dl psdu).net = s.net :=
  (s.fwSend_goes r access ack dl psdu).1 .net (by decide)

@[simp] theorem State.fwSend_bcn (s : State) (r access : Nat) (ack : Bool) (dl : Option Nat) (psdu : Bytes) : (s.fwSend r access ack dl psdu).bcn = s.bcn :=
  (s.fwSend_goes r access ack dl psdu).1 .bcn (by decide)

/-- Whether the module holds time depends on the source of time alone. -/
theorem State.holds_same {s t : State} (hr : t.rd R.ntm_NTM_STAT = s.rd R.ntm_NTM_STAT) : t.holds = s.holds :=
  congrArg (fun w => decide (fld w 0 3 ≠ 0)) hr

/-- The tick depends on the source of time and the tick numbers alone. -/
theorem State.tick_same {s t : State} (hr : t.rd R.ntm_NTM_STAT = s.rd R.ntm_NTM_STAT) (hn : t.ntm = s.ntm) : t.tick = s.tick := by
  rw [State.tick, State.holds_same hr, hn]
  rfl

theorem State.sf_same {s t : State} (hr : t.rd R.ntm_NTM_STAT = s.rd R.ntm_NTM_STAT) (hn : t.ntm = s.ntm) : t.sf = s.sf :=
  congrArg (· / 256) (State.tick_same hr hn)

theorem State.fwSend_sf (s : State) (r access : Nat) (ack : Bool) (dl : Option Nat) (psdu : Bytes) : (s.fwSend r access ack dl psdu).sf = s.sf :=
  State.sf_same (s.fwSend_pages _ _ _ _ _ _ (by decide)) ((s.fwSend_goes r access ack dl psdu).1 .ntm (by decide))

/-- A radio that runs queues a frame that fits its slot. -/
theorem State.fwSend_fits {s : State} {r access : Nat} {ack : Bool} {dl : Option Nat} {psdu : Bytes} (hr : s.runs (radBlk r) = true)
    (hf : s.tooLong r ⟨fwDesc psdu.length access ack dl, some psdu, s.tick, none, 0, 0⟩ = false) :
    s.fwSend r access ack dl psdu = s.modRadio r fun q => { q with queue := q.queue ++ [⟨fwDesc psdu.length access ack dl, some psdu, s.tick, none, 0, 0⟩] } :=
  (if_neg (by simp [hr])).trans (State.txQueue_fits hf)

theorem State.fwSend_queue {s : State} {r access : Nat} {ack : Bool} {dl : Option Nat} {psdu : Bytes} (hl : r < s.rad.length) (hr : s.runs (radBlk r) = true)
    (hf : s.tooLong r ⟨fwDesc psdu.length access ack dl, some psdu, s.tick, none, 0, 0⟩ = false) :
    ((s.fwSend r access ack dl psdu).radio r).queue = (s.radio r).queue ++ [⟨fwDesc psdu.length access ack dl, some psdu, s.tick, none, 0, 0⟩] ∧
      ChangesOnly [.rad] s (s.fwSend r access ack dl psdu) := by
  rw [State.fwSend_fits hr hf]
  exact ⟨congrArg Rad.queue (s.modRadio_radio _ hl), s.modRadio_changes r _⟩

/-! ### What leaves the table of nodes and the radios of those who asked -/

/-- The head's table and the radios on which identities asked are the same. -/
def SameTable (s t : State) : Prop := t.net.nodes = s.net.nodes ∧ t.net.via = s.net.via

theorem SameTable.refl (s : State) : SameTable s s := ⟨rfl, rfl⟩

theorem SameTable.trans {s t u : State} (h : SameTable s t) (h' : SameTable t u) : SameTable s u := ⟨h'.1.trans h.1, h'.2.trans h.2⟩

/-- What an operation leaves, after what went before it. -/
theorem SameTable.after {s t u : State} (h' : SameTable t u) (h : SameTable s t) : SameTable s u := h.trans h'

theorem SameTable.ite {s t u : State} {c : Prop} [Decidable c] (ht : SameTable s t) (hu : SameTable s u) : SameTable s (if c then t else u) := by
  split <;> assumption

theorem SameTable.of_net {s t : State} (h : t.net = s.net) : SameTable s t := ⟨congrArg Net.nodes h, congrArg Net.via h⟩

theorem Goes.sameTable {W : List Part} {s t : State} (h : Goes W s t) (hW : .net ∉ W) : SameTable s t := .of_net (h.1 .net hW)

section
variable (s : State)

theorem State.toChild_sameTable (c : Child) (ack : Bool) (psdu : Bytes) : SameTable s (s.toChild c ack psdu) :=
  .ite (.ite ⟨rfl, rfl⟩ ⟨rfl, rfl⟩) (.of_net (s.fwSend_net _ _ _ _ _))

theorem State.sendDown_sameTable (final typ : Nat) (ack : Bool) (keysel gen : Nat) (pay : Bytes) : SameTable s (s.sendDown final typ ack keysel gen pay) := by
  unfold State.sendDown
  split
  · exact ⟨rfl, rfl⟩
  · split
    · exact ⟨rfl, rfl⟩
    · exact s.toChild_sameTable _ _ _

theorem State.sendDown_pages (final typ : Nat) (ack : Bool) (keysel gen : Nat) (pay : Bytes) : PagesOnly radPages s (s.sendDown final typ ack keysel gen pay) := by
  unfold State.sendDown
  split
  · exact .set rfl rfl
  · split
    · exact .set rfl rfl
    · exact .ite (.ite (.set rfl rfl) (.set rfl rfl)) (s.fwSend_pages _ _ _ _ _)

theorem State.sendVia_sameTable (parent ridx : Nat) (ack : Bool) (psdu : Bytes) : SameTable s (s.sendVia parent ridx ack psdu) := by
  refine .ite (.of_net (s.fwSend_net _ _ _ _ _)) (.ite (.refl s) ?_)
  split
  · next t b e => exact (t.sendDown_sameTable _ _ _ _ _ _).after ((goes_secure s _ _ e rfl (.refl [.regs, .out, .nvs, .lnk, .pba] s)).sameTable (by decide))
  · exact .refl s

theorem State.sendSegKey_sameTable (r : NodeRow) (g : Nat) : SameTable s (s.sendSegKey r g) := by
  unfold State.sendSegKey
  split
  · exact .refl s
  · exact s.sendVia_sameTable _ _ _ _

/-! ### Records and children (R188, R217, R219) -/

theorem State.recSet_net (ident : DWord) (index g : Nat) (nk : Option Bytes) : (s.recSet ident index g nk).net = s.net :=
  (goes_recSet s ident index g nk rfl (.refl [.regs, .out, .free, .ldg, .mem, .nvs, .lnk, .pba] s)).1 .net (by decide)

theorem State.recFree_net (index : Nat) : (s.recFree index).net = s.net :=
  (goes_recFree s index rfl (.refl [.regs, .out, .free, .ldg, .mem, .lnk, .pba] s)).1 .net (by decide)

/-- The child that a parent takes stands in the place of any other of its index. -/
theorem State.addChild_children (index : Nat) (ident : DWord) (sleepy : Bool) (e phase w : Nat) :
    (s.addChild index ident sleepy e phase w).net.children =
      ⟨index, ident, sleepy, e, phase, w, (Sparse.find s.net.via ident.toNat).getD 0, []⟩ :: s.net.children.filter fun x => x.index ≠ index := by
  unfold State.addChild
  extract_lets c t
  split
  · rfl
  · rw [State.recSet_net]

theorem State.addChild_child (index : Nat) (ident : DWord) (sleepy : Bool) (e phase w : Nat) :
    (s.addChild index ident sleepy e phase w).child index = some ⟨index, ident, sleepy, e, phase, w, (Sparse.find s.net.via ident.toNat).getD 0, []⟩ := by
  rw [State.child, State.addChild_children]
  exact List.find?_cons_of_pos (by simp)

theorem State.addChild_sameTable (index : Nat) (ident : DWord) (sleepy : Bool) (e phase w : Nat) : SameTable s (s.addChild index ident sleepy e phase w) :=
  .ite ⟨rfl, rfl⟩ (SameTable.after (.of_net (State.recSet_net _ _ _ _ _)) ⟨rfl, rfl⟩)

theorem State.dropChild_net (index : Nat) : (s.dropChild index).net =
    { s.net with children := s.net.children.filter (fun x => x.index ≠ index), routes := s.net.routes.filter fun p => p.2 ≠ index } := by
  unfold State.dropChild
  extract_lets t
  split
  · rfl
  · rw [State.recFree_net]

theorem State.dropChild_sameTable (index : Nat) : SameTable s (s.dropChild index) := by
  rw [SameTable, State.dropChild_net]
  exact ⟨rfl, rfl⟩

theorem State.dropChild_children {index : Nat} {c : Child} (h : c ∈ (s.dropChild index).net.children) : c.index ≠ index := by
  rw [State.dropChild_net] at h
  simpa using (List.mem_filter.mp h).2

theorem State.dropChild_routes {index : Nat} {p : Nat × Nat} (h : p ∈ (s.dropChild index).net.routes) : p.2 ≠ index := by
  rw [State.dropChild_net] at h
  simpa using (List.mem_filter.mp h).2

theorem State.dropChild_child (index : Nat) : (s.dropChild index).child index = none :=
  List.find?_eq_none.mpr fun _ hc => by simpa using s.dropChild_children hc

theorem State.childAddAt_sameTable (parent : Nat) (r : NodeRow) : SameTable s (s.childAddAt parent r) :=
  .ite (s.addChild_sameTable _ _ _ _ _ _) (s.sendDown_sameTable _ _ _ _ _ _)

theorem State.childDelAt_sameTable (parent index : Nat) : SameTable s (s.childDelAt parent index) :=
  .ite (s.dropChild_sameTable _) (s.sendDown_sameTable _ _ _ _ _ _)

/-- What a device is sent when it is let in leaves the table (R216). -/
theorem State.admitNode_sameTable (r : NodeRow) : SameTable s (s.admitNode r) := by
  unfold State.admitNode
  extract_lets t u
  have ht : SameTable s t := s.childAddAt_sameTable r.parent r
  have hu : SameTable t u := t.sendVia_sameTable _ _ _ _
  exact (ht.trans hu).trans ((SameTable.ite (u.sendSegKey_sameTable r 0) (.refl u)).trans (.ite (State.sendSegKey_sameTable _ r 1) (.refl _)))

end

/-! ### Rows of the head's table -/

theorem SameTable.rowOf {s t : State} (h : SameTable s t) (i : DWord) : t.rowOf i = s.rowOf i := by
  rw [State.rowOf, h.1]
  rfl

/-- An identity that has a row has the row put in its place. -/
theorem State.setRow_rowOf {s : State} {r : NodeRow} (h : ∃ n ∈ s.net.nodes, n.ident = r.ident) : (s.setRow r).rowOf r.ident = some r := by
  have hp : ((fun n : NodeRow => decide (n.ident = r.ident)) ∘ fun n => if n.ident = r.ident then r else n) = fun n => decide (n.ident = r.ident) := by
    funext n
    by_cases hn : n.ident = r.ident <;> simp [hn]
  obtain ⟨n, hn, hi⟩ := h
  obtain ⟨x, hx⟩ : ∃ x, s.net.nodes.find? (fun n => decide (n.ident = r.ident)) = some x :=
    Option.isSome_iff_exists.mp (List.find?_isSome.mpr ⟨n, hn, by simpa using hi⟩)
  have hxi : x.ident = r.ident := by simpa using List.find?_some hx
  simp only [State.rowOf, State.setRow, List.find?_map, hp, hx, Option.map_some, hxi, if_true]

theorem State.rowOf_mem {s : State} {i : DWord} {r : NodeRow} (h : s.rowOf i = some r) : r ∈ s.net.nodes ∧ r.ident = i :=
  ⟨List.mem_of_find?_eq_some h, by simpa using List.find?_some h⟩

theorem State.nodeRow_mem {s : State} {i : Nat} {r : NodeRow} (h : s.nodeRow i = some r) : r ∈ s.net.nodes ∧ r.index = i := by
  unfold State.nodeRow at h
  split at h
  · cases h
  · exact ⟨List.mem_of_find?_eq_some h, by simpa using List.find?_some h⟩

end Sys2Proof.Machine
end

section
/-! PROOFS. The head's commands of the air at a node, the answer to a mode query, and the acknowledgement of a mode. -/

namespace Sys2Proof.Machine

open Sys2Proof

/-! ### Children, parents, wake settings and energy periods (R219, R343) -/

theorem childAdd_adds (x : AirRx) (s : State) (h : s.fromHead x 0x0210 = true) : ∃ t, exec (.childAdd x) s = .next t ∧
    t = s.addChild (le (airArgs x) 0 2 % 4096) (BitVec.ofNat 64 (le (airArgs x) 2 8)) (decide (byteAt (airArgs x) 10 ≠ 0)) (byteAt (airArgs x) 11 % 16)
      (byteAt (airArgs x) 12) (byteAt (airArgs x) 13 % 8) ∧
    (t.child (le (airArgs x) 0 2 % 4096)).map (fun c => (c.ident, c.sleepy, c.held)) = some (BitVec.ofNat 64 (le (airArgs x) 2 8), decide (byteAt (airArgs x) 10 ≠ 0), []) := by
  refine ⟨_, congrArg Host.Outcome.next (if_pos h), rfl, ?_⟩
  rw [State.addChild_child]
  rfl

theorem childDel_drops (x : AirRx) (s : State) (h : s.fromHead x 0x0211 = true) : ∃ t, exec (.childDel x) s = .next t ∧ t = s.dropChild (le (airArgs x) 0 2 % 4096) ∧
    t.child (le (airArgs x) 0 2 % 4096) = none ∧ ∀ p ∈ t.net.routes, p.2 ≠ le (airArgs x) 0 2 % 4096 :=
  ⟨_, congrArg Host.Outcome.next (if_pos h), rfl, s.dropChild_child _, fun _ hp => s.dropChild_routes hp⟩

/-- The request under way names the parent, its segment and the superframe of the request (R216). -/
theorem State.askParent_asked (s : State) (radio seg parent : Nat) (margins : List Int) : (s.askParent radio seg parent margins).bcn.asked = some (parent, seg, s.sf) := by
  unfold State.askParent
  rw [State.setBcn_bcn]
  exact congrArg (fun f => some (parent, seg, f)) (s.fwSend_sf _ _ _ _ _)

theorem rejoinVia_asks (x : AirRx) (s : State) (h : s.fromHead x 0x0212 = true) :
    let p := le (airArgs x) 0 2 % 4096
    (∀ k, s.bcn.cands.find? (fun c => decide (c.index = p) && decide (c.seg = s.net.seg)) = some k →
      (∃ t, exec (.rejoinVia x) s = .next t ∧ t = s.askParent k.radio k.seg p k.margins ∧ t.bcnState = 3 ∧ t.bcn.asked = some (p, k.seg, s.sf))) ∧
    (s.bcn.cands.find? (fun c => decide (c.index = p) && decide (c.seg = s.net.seg)) = none →
      (∃ t, exec (.rejoinVia x) s = .next t ∧ t = s.askParent s.upRadio s.net.seg p (if p = s.parentIx then s.bcn.margins else []) ∧ t.bcnState = 3 ∧
        t.bcn.asked = some (p, s.net.seg, s.sf))) := by
  intro p
  have hx : exec (.rejoinVia x) s = .next (match s.bcn.cands.find? fun c => decide (c.index = p) && decide (c.seg = s.net.seg) with
      | some c => s.askParent c.radio c.seg p c.margins
      | none => s.askParent s.upRadio s.net.seg p (if p = s.parentIx then s.bcn.margins else [])) :=
    congrArg Host.Outcome.next (if_pos h)
  refine ⟨fun k hk => ?_, fun hk => ?_⟩ <;> rw [hk] at hx <;>
    exact ⟨_, hx, rfl, (s.askParent_spec _ _ _ _).1, s.askParent_asked _ _ _ _⟩

theorem wakeSet_keeps (x : AirRx) (s : State) (h : s.fromHead x 0x0213 = true) : ∃ t, exec (.wakeSet x) s = .next t ∧
    t = { s with net := { s.net with wakeNext := some (byteAt (airArgs x) 0 % 16, byteAt (airArgs x) 1, byteAt (airArgs x) 2 % 8) } } ∧
    t.net.wakeNext = some (byteAt (airArgs x) 0 % 16, byteAt (airArgs x) 1, byteAt (airArgs x) 2 % 8) :=
  ⟨_, congrArg Host.Outcome.next (if_pos h), rfl, rfl⟩

theorem energyCfg_keeps (x : AirRx) (s : State) (h : s.fromHead x 0x0718 = true) (hl : 60 ≤ le (airArgs x) 0 4) (hu : le (airArgs x) 0 4 ≤ 86400) :
    ∃ t, exec (.energyCfg x) s = .next t ∧ t = { s with nrg := { s.nrg with next := some (le (airArgs x) 0 4, le (airArgs x) 4 2) } } ∧
      t.nrg.next = some (le (airArgs x) 0 4, le (airArgs x) 4 2) :=
  ⟨_, congrArg Host.Outcome.next (if_neg (by simp [h, hl, hu])), rfl, rfl⟩

/-- A frame that is no command from the head for this node. -/
theorem airCommands_refused (x : AirRx) (s : State) (h : ∀ o, s.fromHead x o = false) : exec (.childAdd x) s = .next s ∧ exec (.childDel x) s = .next s ∧
    exec (.rejoinVia x) s = .next s ∧ exec (.wakeSet x) s = .next s ∧ exec (.energyCfg x) s = .next s := by
  have refused (o : Nat) : ¬ s.fromHead x o = true := by simp [h]
  exact ⟨congrArg Host.Outcome.next (if_neg (refused _)), congrArg Host.Outcome.next (if_neg (refused _)), congrArg Host.Outcome.next (if_neg (refused _)),
    congrArg Host.Outcome.next (if_neg (refused _)), congrArg Host.Outcome.next (if_pos (by simp [h]))⟩

/-! ### The schedule's part (R286) -/

/-- The word of a stored point: its time of day, FADE, VALID and CODE. -/
theorem fld_schedWord {tod fade code : Nat} (ht : tod ≤ 86399) (hf : fade < 64) :
    fld (w32 (tod + fade * 2 ^ 17 + 2 ^ 23 + code * 2 ^ 24)) 0 17 = tod ∧ tst (w32 (tod + fade * 2 ^ 17 + 2 ^ 23 + code * 2 ^ 24)) 23 = true := by
  have bit (n : Nat) : tst (w32 n) 23 = decide (n / 2 ^ 23 % 2 = 1) := by
    rw [tst, w32, BitVec.getLsbD_ofNat, Nat.testBit_eq_decide_div_mod_eq]
    rfl
  refine ⟨?_, ?_⟩
  · simp only [fld, w32, BitVec.toNat_ofNat]
    omega
  · rw [bit, decide_eq_true_eq]
    omega

/-- A fold that writes each of its registers leaves in each what it wrote there. -/
theorem foldl_wr_each {adr : Nat → Nat} (inj : ∀ {i j}, adr i = adr j → i = j) (w : Nat → Word) (l : List Nat) (s : State) :
    ∀ i ∈ l, (l.foldl (fun (t : State) i => t.wr (adr i) (w i)) s).rd (adr i) = w i :=
  foldl_establishes (P := fun i (t : State) => t.rd (adr i) = w i) (fun t i => t.rd_wr_same _ _) (fun t i j h => by
    rw [State.rd_wr]
    split
    · next e => rw [inj e]
    · exact h) l s

theorem State.lvlCopy_rd (s : State) (a : Nat) : s.lvlCopy.rd a = s.rd a := State.rd_congr rfl rfl a

theorem State.schedSet_rd (s : State) (a : Bytes) {p : Nat} (hp : p ∈ List.range 8) : (s.schedSet a).rd (R.lvl_SCHEDp p) =
    if p < min (byteAt a 0) 8 ∧ le a (1 + 6 * p) 4 ≤ 86399 then
      w32 (le a (1 + 6 * p) 4 + byteAt a (6 + 6 * p) % 64 * 2 ^ 17 + 2 ^ 23 + byteAt a (5 + 6 * p) * 2 ^ 24) else 0 := by
  unfold State.schedSet
  extract_lets n word
  exact (State.lvlCopy_rd _ _).trans (foldl_wr_each (adr := R.lvl_SCHEDp) (by simp) word (List.range 8) s p hp)

theorem schedSet_stores (x : AirRx) (s : State) (hn : s.isNode = true) (hr : s.inReset .lvl = false) (hm : s.airMine x = true) (ho : airOpc x = 0x0512) :
    ∃ t, exec (.schedSet x) s = .next t ∧ t = s.schedSet (airArgs x) ∧
      (∀ p ∈ List.range 8, p < byteAt (airArgs x) 0 → le (airArgs x) (1 + 6 * p) 4 ≤ 86399 →
        t.rf (R.lvl_SCHEDp p) 0 17 = le (airArgs x) (1 + 6 * p) 4 ∧ t.rb (R.lvl_SCHEDp p) 23 = true) ∧
      (∀ p ∈ List.range 8, byteAt (airArgs x) 0 ≤ p → t.rd (R.lvl_SCHEDp p) = 0) := by
  refine ⟨_, congrArg Host.Outcome.next (if_pos (by simp [hn, hr, hm, ho])), rfl, fun p hp hlt htod => ?_, fun p hp hle => ?_⟩
  · have h8 : p < 8 := List.mem_range.mp hp
    rw [State.rf, State.rb, s.schedSet_rd _ hp, if_pos ⟨by omega, htod⟩]
    exact fld_schedWord htod (Nat.mod_lt _ (by decide))
  · rw [s.schedSet_rd _ hp, if_neg (by omega)]

/-! ### The head takes an acknowledgement and answers a query (R279, R280) -/

theorem modeAck_marks (x : AirRx) (s : State) (hh : s.isHead = true) (hr : s.inReset .lvl = false) (ho : airOpc x = 0x0510) (he : le (airArgs x) 0 2 = s.epoch) :
    ∃ t, exec (.modeAck x) s = .next t ∧ t.rb (R.lvl_APPLIEDi (airFrom x / 32)) (airFrom x % 32) = true ∧
      t.lvl.late = s.lvl.late + (if s.rb (R.lvl_APPLIEDi (airFrom x / 32)) (airFrom x % 32) = false ∧ byteAt (airArgs x) 6 = 1 then 1 else 0) ∧
      ChangesOnly [.regs, .lvl] s t := by
  let u : State := if !s.rb (R.lvl_APPLIEDi (airFrom x / 32)) (airFrom x % 32) && decide (byteAt (airArgs x) 6 = 1) then
    { s with lvl := { s.lvl with late := s.lvl.late + 1 } } else s
  have hx : exec (.modeAck x) s = .next (u.setApplied (airFrom x)) := congrArg Host.Outcome.next (if_neg (by simp [hh, hr, ho, he]))
  have hu : Goes [.regs, .lvl] s u := .ite (goes_set_lvl s _ rfl (.refl _ s)) (.refl _ s)
  refine ⟨_, hx, State.wb_rb_same _ _ true (Nat.mod_lt _ (by decide)), ?_, (goes_wb _ _ _ _ rfl hu).1⟩
  show u.lvl.late = _
  by_cases hl : s.rb (R.lvl_APPLIEDi (airFrom x / 32)) (airFrom x % 32) = false ∧ byteAt (airArgs x) 6 = 1
  · rw [show u = { s with lvl := { s.lvl with late := s.lvl.late + 1 } } from if_pos (by simp [hl]), if_pos hl]
  · rw [show u = s from if_neg (by simpa using hl), if_neg hl]
    rfl

theorem modeGet_answers (x : AirRx) (s : State) (hh : s.isHead = true) (hr : s.inReset .lvl = false) (ho : airOpc x = 0x0511) (ha : s.afterTakeover = false)
    (hm : s.curMode.hop = none) : ∃ t, exec (.modeGet x) s = .next t ∧
      t = (s.irq .lvl 4).sendDown (airFrom x) 3 true 0 0 (modePayload (s.irq .lvl 4).epoch ((s.irq .lvl 4).lvl.curC.getD 0) s.curMode false 0) ∧
      t.rb (hdr .lvl oRaw) 4 = true := by
  have hx : execModeGet x s = .next ((List.range (match s.curMode.hop with | some l => chunksNeeded l.length | none => 1)).foldl
      (fun (t : State) i => t.sendDown (airFrom x) 3 true 0 0 (modePayload t.epoch (t.lvl.curC.getD 0) s.curMode false i)) (s.irq .lvl 4)) :=
    congrArg Host.Outcome.next ((if_neg (by simp [hh, hr, ho])).trans (if_neg (by simp [ha])))
  rw [hm] at hx
  refine ⟨_, hx, rfl, ?_⟩
  rw [State.rb, PagesOnly.foldl (fun t i => t.sendDown_pages _ _ _ _ _ _) _ _ _ (by decide)]
  exact s.irq_raises .lvl (by decide) (by decide)

/-- Settles O22, clause by clause. -/
theorem airCommandsFromTheHead : Obligations.AirCommandsFromTheHead :=
  ⟨⟨childAdd_adds, childDel_drops, rejoinVia_asks, wakeSet_keeps, energyCfg_keeps, schedSet_stores, modeAck_marks, modeGet_answers⟩, airCommands_refused⟩

end Sys2Proof.Machine
end

section
/-! PROOFS. Joining a segment, the wake slots of sleepy sensors, held frames and the frames that a node passes on. -/

namespace Sys2Proof.Machine

open Sys2Proof

/-! ### The head takes a join request (R216, R217) -/

theorem joinReq_head {x : AirRx} {s : State} (ht : (airHdr x).typ = 9) (hl : (airHdr x).lsrc = true) (hh : s.isHead = true) (hb : byteAt (airPay x) 0 = 1) :
    exec (.joinReq x) s = .next (s.joinReq x) :=
  congrArg Host.Outcome.next ((if_neg (by simp [ht, hl])).trans ((if_pos hh).trans (if_pos hb)))

theorem joinReq_unknown (x : AirRx) (s : State) (ht : (airHdr x).typ = 9) (hl : (airHdr x).lsrc = true) (hh : s.isHead = true) (hb : byteAt (airPay x) 0 = 1)
    (hr : s.rowOf (BitVec.ofNat 64 (airHdr x).src) = none) :
    ∃ t, exec (.joinReq x) s = .next t ∧ t = s.event 0xF202 (blkSrc .bcn) (toLe 8 (airHdr x).src ++ toLe 2 ((airHdr x).dst % 65536)) ∧ t.net = s.net ∧ t.rad = s.rad := by
  have hx : s.joinReq x = s.event 0xF202 (blkSrc .bcn) (toLe 8 (airHdr x).src ++ toLe 2 ((airHdr x).dst % 65536)) := by simp only [State.joinReq, hr]
  exact ⟨_, (joinReq_head ht hl hh hb).trans (congrArg Host.Outcome.next hx), rfl, s.event_net _ _ _, s.event_rad _ _ _⟩

theorem joinReq_known (x : AirRx) (r : NodeRow) (s : State) (ht : (airHdr x).typ = 9) (hl : (airHdr x).lsrc = true) (hh : s.isHead = true)
    (hb : byteAt (airPay x) 0 = 1) (hr : s.rowOf (BitVec.ofNat 64 (airHdr x).src) = some r) :
    let a := joinAsk s (airPay x)
    let v := (s.lend r).joinVerified r x
    let u : State := { v.1 with net := { v.1.net with via := Sparse.put v.1.net.via (airHdr x).src x.radio.val } }
    let q := u.askRidx a x.radio.val
    (v.2 = false → exec (.joinReq x) s = .next (v.1.unlend r)) ∧
    (v.2 = true → u.joinReason r a q = none → exec (.joinReq x) s = .next (((u.draw 1).acceptJoin r a q (decide (r.st = 3))).unlend r)) ∧
    (∀ e, v.2 = true → u.joinReason r a q = some e → exec (.joinReq x) s = .next (((u.draw 1).refuseJoin r a.parent q e).unlend r)) := by
  intro a v u q
  have hj : s.joinReq x = if !v.2 then v.1.unlend r
      else ((match u.joinReason r a q with
        | some e => (u.draw 1).refuseJoin r a.parent q e
        | none => (u.draw 1).acceptJoin r a q (decide (r.st = 3)))).unlend r := by
    simp only [State.joinReq, hr]
    rfl
  rw [joinReq_head ht hl hh hb, hj]
  refine ⟨fun hv => ?_, fun hv hn => ?_, fun e hv hn => ?_⟩
  · rw [hv]; rfl
  · rw [hv, hn]; rfl
  · rw [hv, hn]; rfl

/-- The row of a device with an index that the head lets in: it waits from now on for the device's STATUS. -/
theorem State.acceptJoin_row {s : State} {r : NodeRow} (a : JoinAsk) (ridx : Nat) (rejoin : Bool) (hi : r.index ≠ 0) :
    ∃ n, SameTable (s.setRow n) (s.acceptJoin r a ridx rejoin) ∧ n.ident = r.ident ∧
      (n.index, n.st, n.parent, n.ridx, n.accSf, n.tries) = (r.index, 2, a.parent, ridx, s.sf, 0) := by
  unfold State.acceptJoin
  extract_lets index d wake old n
  have hg : s.giveIndex r index = some s := if_pos hi
  rw [hg]
  refine ⟨n, (State.admitNode_sameTable _ n).after (.ite ((SameTable.of_net (State.event_net _ _ _ _)).after (State.childDelAt_sameTable _ _ _)) (.refl _)), rfl, ?_⟩
  simp [n, index, hi]

/-- A refusal sent from the head's own radio or down the mesh leaves the table. -/
theorem State.refuseJoin_sameTable (s : State) (r : NodeRow) (parent ridx reason : Nat) : SameTable s (s.refuseJoin r parent ridx reason) := by
  have sent (t : State) (b : Bytes) : SameTable t (t.sendNow parent ridx b) := by
    refine .ite (t.sendVia_sameTable _ _ _ _) (.ite (.refl t) ?_)
    split
    · next u c e =>
      exact ((u.txQueue_own_goes _ rfl).sameTable (by decide)).after ((goes_secure t _ _ e rfl (.refl [.regs, .out, .nvs, .lnk, .pba] t)).sameTable (by decide))
    · exact .refl t
  exact (SameTable.of_net (State.event_net _ _ _ _)).after (SameTable.after (sent _ _) ⟨rfl, rfl⟩)

theorem joinReq_direct (x : AirRx) (r : NodeRow) (s : State) (ht : (airHdr x).typ = 9) (hl : (airHdr x).lsrc = true) (hh : s.isHead = true)
    (hb : byteAt (airPay x) 0 = 1) (hr : s.rowOf (BitVec.ofNat 64 (airHdr x).src) = some r) (hi : r.index ≠ 0) (hp : (joinAsk s (airPay x)).parent = 0) :
    let u : State := { s with net := { s.net with via := Sparse.put s.net.via (airHdr x).src x.radio.val } }
    (u.joinReason r (joinAsk s (airPay x)) x.radio.val = none → ∃ t, exec (.joinReq x) s = .next t ∧
      (t.rowOf r.ident).map (fun n => (n.index, n.st, n.parent, n.ridx, n.accSf, n.tries)) = some (r.index, 2, 0, x.radio.val, s.sf, 0) ∧
      Sparse.find t.net.via (airHdr x).src = some x.radio.val ∧ ChangesOnly (touches (.joinReq x)) s t) ∧
    (∀ e, u.joinReason r (joinAsk s (airPay x)) x.radio.val = some e → ∃ t, exec (.joinReq x) s = .next t ∧ t.net.nodes = s.net.nodes ∧
      Sparse.find t.net.via (airHdr x).src = some x.radio.val ∧ ChangesOnly (touches (.joinReq x)) s t) := by
  intro u
  have hv : (s.lend r).joinVerified r x = (s, true) := by rw [State.lend, if_neg hi, State.joinVerified, if_pos hi]
  have hq : u.askRidx (joinAsk s (airPay x)) x.radio.val = x.radio.val := if_pos hp
  have hu (t : State) : t.unlend r = t := if_neg hi
  have hvia : Sparse.find u.net.via (airHdr x).src = some x.radio.val := Sparse.find_put_same _ _ _
  obtain ⟨-, accepts, refuses⟩ := joinReq_known x r s ht hl hh hb hr
  simp only [hv, hu] at accepts refuses
  refine ⟨fun hn => ?_, fun e hn => ?_⟩
  · have hx := accepts trivial (hq.symm ▸ hn)
    obtain ⟨n, hs, hid, hrow⟩ := (u.draw 1).acceptJoin_row (joinAsk s (airPay x)) x.radio.val (decide (r.st = 3)) hi
    obtain ⟨hmem, hident⟩ := State.rowOf_mem hr
    refine ⟨_, hx, ?_, ?_, (exec_goes hx).1⟩
    · rw [hq, hs.rowOf, ← hid, State.setRow_rowOf (s := u.draw 1) ⟨r, hmem, hid.symm⟩, Option.map_some, hrow, hp]
      rfl
    · rw [hq, hs.2]
      exact hvia
  · have hx := refuses e trivial (hq.symm ▸ hn)
    have hs : SameTable u ((u.draw 1).refuseJoin r (joinAsk s (airPay x)).parent (u.askRidx (joinAsk s (airPay x)) x.radio.val) e) :=
      (State.refuseJoin_sameTable (u.draw 1) _ _ _ _).after ⟨rfl, rfl⟩
    exact ⟨_, hx, hs.1, (congrArg (Sparse.find · _) hs.2).trans hvia, (exec_goes hx).1⟩

theorem State.sendUp_net (s : State) (typ : Nat) (ack : Bool) (pay : Bytes) : (s.sendUp typ ack pay).net = s.net := by
  unfold State.sendUp
  split
  · rfl
  · exact s.fwSend_net _ _ _ _ _

theorem joinReq_carried (x : AirRx) (s : State) (ht : (airHdr x).typ = 9) (hl : (airHdr x).lsrc = true) (hh : s.isHead = false) (hn : s.isNode = true)
    (hi : s.hasIndex = true) (hp : s.placeless = false) (hd : (airHdr x).dst = s.ownIndex) : ∃ t, exec (.joinReq x) s = .next t ∧
      t = { s with net := { s.net with via := Sparse.put s.net.via (airHdr x).src x.radio.val } }.sendUp 11 true x.psdu ∧
      t.net.via = Sparse.put s.net.via (airHdr x).src x.radio.val :=
  ⟨_, congrArg Host.Outcome.next ((if_neg (by simp [ht, hl])).trans ((if_neg (by simp [hh])).trans (if_pos (by simp [hn, hi, hp, hd])))), rfl,
    congrArg Net.via (State.sendUp_net _ _ _ _)⟩

/-! ### The device's STATUS, the repeated accept and the abandoned join -/

theorem statusReceive_joins (x : AirRx) (r : NodeRow) (s : State) (hh : s.isHead = true) (ht : (airHdr x).typ = 7) (hk : (airHdr x).keysel = 0)
    (hr : s.nodeRow (airFrom x) = some r) (hi : r.index = airFrom x) (h2 : r.st = 2) : ∃ t, exec (.statusReceive x) s = .next t ∧
      t = (s.setRow { r with st := 3, lacks := 0 }).event 0xF200 (blkSrc .bcn) (toLe 2 r.index ++ toLe 8 r.ident.toNat ++ toLe 2 r.parent ++ toLe 1 r.depth) ∧
      (t.rowOf r.ident).map (fun n => (n.st, n.lacks)) = some (3, 0) := by
  have hx : exec (.statusReceive x) s = .next ((s.setRow { r with st := 3, lacks := 0 }).event 0xF200 (blkSrc .bcn)
      (toLe 2 r.index ++ toLe 8 r.ident.toNat ++ toLe 2 r.parent ++ toLe 1 r.depth)) := by
    show execStatusReceive x s = _
    simp [execStatusReceive, hh, ht, hk, hr, h2, hi]
  have hs : SameTable (s.setRow { r with st := 3, lacks := 0 }) ((s.setRow { r with st := 3, lacks := 0 }).event 0xF200 (blkSrc .bcn)
      (toLe 2 r.index ++ toLe 8 r.ident.toNat ++ toLe 2 r.parent ++ toLe 1 r.depth)) := .of_net (State.event_net _ _ _ _)
  refine ⟨_, hx, rfl, ?_⟩
  rw [hs.rowOf, State.setRow_rowOf (r := { r with st := 3, lacks := 0 }) ⟨r, (State.nodeRow_mem hr).1, rfl⟩]
  rfl

theorem joinConfirmTimeout_repeats (i : Nat) (r : NodeRow) (s : State) (hr : s.nodeRow i = some r) (hh : s.isHead = true) (h2 : r.st = 2)
    (hsf : r.accSf + 16 ≤ s.sf) (ht : r.tries < 3) : ∃ t, exec (.joinConfirmTimeout i) s = .next t ∧
      t = (s.setRow { r with tries := r.tries + 1, accSf := s.sf }).admitNode { r with tries := r.tries + 1, accSf := s.sf } ∧
      (t.rowOf r.ident).map (fun n => (n.st, n.tries, n.accSf)) = some (2, r.tries + 1, s.sf) := by
  have hx : exec (.joinConfirmTimeout i) s = .next ((s.setRow { r with tries := r.tries + 1, accSf := s.sf }).admitNode { r with tries := r.tries + 1, accSf := s.sf }) := by
    show execJoinConfirmTimeout i s = _
    simp [execJoinConfirmTimeout, hr, hh, h2, ht, Nat.not_lt.mpr hsf]
  refine ⟨_, hx, rfl, ?_⟩
  rw [(State.admitNode_sameTable _ _).rowOf, State.setRow_rowOf (r := { r with tries := r.tries + 1, accSf := s.sf }) ⟨r, (State.nodeRow_mem hr).1, rfl⟩, Option.map_some, h2]

theorem State.idxSet_net (s : State) (ident index : Nat) : ((s.idxSet ident index).getD s).net = s.net := by
  cases h : s.idxSet ident index with
  | none => rfl
  | some t => exact ((goes_idxSet s ident index rfl (.refl [.regs, .out, .free, .ldg, .mem, .pba] s)).elim h).1 .net (by decide)

theorem State.abandonJoin_row {s : State} {r : NodeRow} (hr : r ∈ s.net.nodes) :
    ((s.abandonJoin r).rowOf r.ident).map (fun n => (n.st, n.index)) = some (1, if r.fixed then r.index else 0) := by
  unfold State.abandonJoin
  extract_lets u v
  have hu : SameTable s u := .ite (s.dropChild_sameTable _) (.refl s)
  have he : SameTable v (v.event 0xF201 (blkSrc .bcn) (toLe 2 r.index ++ toLe 1 2)) := .of_net (State.event_net _ _ _ _)
  have hm : r ∈ u.net.nodes := hu.1 ▸ hr
  rw [he.rowOf]
  by_cases hf : r.fixed = true
  · rw [show v = u.setRow { r with st := 1, sleeps := false } from if_pos hf, State.setRow_rowOf (r := { r with st := 1, sleeps := false }) ⟨r, hm, rfl⟩, if_pos hf]
    rfl
  · have hn : (((u.recFree r.index).idxSet r.ident.toNat 0).getD (u.recFree r.index)).net = u.net := (State.idxSet_net _ _ _).trans (u.recFree_net _)
    rw [show v = (((u.recFree r.index).idxSet r.ident.toNat 0).getD (u.recFree r.index)).setRow { r with st := 1, index := 0, sleeps := false } from if_neg hf,
      State.setRow_rowOf (r := { r with st := 1, index := 0, sleeps := false }) ⟨r, hn ▸ hm, rfl⟩, if_neg hf]
    rfl

theorem joinConfirmTimeout_abandons (i : Nat) (r : NodeRow) (s : State) (hr : s.nodeRow i = some r) (hh : s.isHead = true) (h2 : r.st = 2)
    (hsf : r.accSf + 16 ≤ s.sf) (ht : 3 ≤ r.tries) : ∃ t, exec (.joinConfirmTimeout i) s = .next t ∧ t = s.abandonJoin r ∧
      (t.rowOf r.ident).map (fun n => (n.st, n.index)) = some (1, if r.fixed then r.index else 0) := by
  have hx : exec (.joinConfirmTimeout i) s = .next (s.abandonJoin r) := by
    show execJoinConfirmTimeout i s = _
    simp [execJoinConfirmTimeout, hr, hh, h2, Nat.not_lt.mpr hsf, Nat.not_lt.mpr ht]
  exact ⟨_, hx, rfl, State.abandonJoin_row (State.nodeRow_mem hr).1⟩

theorem joinWindowExpiry_closes (e : Nat) (s : State) (hj : s.net.joinEnd = some e) (he : e ≤ s.sf) : ∃ t, exec .joinWindowExpiry s = .next t ∧
    t = ({ s with net := { s.net with joinEnd := none } }.wb R.bcn_BCN_CFG 1 false).wb R.bcn_BCN_CFG 2 false ∧ t.net.joinEnd = none ∧
    t.rb R.bcn_BCN_CFG 1 = false ∧ t.rb R.bcn_BCN_CFG 2 = false := by
  have hx : exec .joinWindowExpiry s = .next (({ s with net := { s.net with joinEnd := none } }.wb R.bcn_BCN_CFG 1 false).wb R.bcn_BCN_CFG 2 false) := by
    show execJoinWindowExpiry s = _
    simp [execJoinWindowExpiry, hj, Nat.not_lt.mpr he]
  exact ⟨_, hx, rfl, rfl, (State.wb_rb_ne _ _ false (by decide)).trans (State.wb_rb_same _ _ false (by decide)), State.wb_rb_same _ _ false (by decide)⟩

/-! ### A device takes the place it is given (R217, R218) -/

/-- The place of a device in the mesh: its segment, its index, its register of the parent and the state of its beacons. -/
def SamePlace (s t : State) : Prop :=
  t.net.seg = s.net.seg ∧ t.net.index = s.net.index ∧ t.bcn = s.bcn ∧ t.rd R.bcn_BCN_NODE = s.rd R.bcn_BCN_NODE

theorem SamePlace.refl (s : State) : SamePlace s s := ⟨rfl, rfl, rfl, rfl⟩

/-- What an operation leaves, after what went before it. -/
theorem SamePlace.after {s t u : State} (h' : SamePlace t u) (h : SamePlace s t) : SamePlace s u :=
  ⟨h'.1.trans h.1, h'.2.1.trans h.2.1, h'.2.2.1.trans h.2.2.1, h'.2.2.2.trans h.2.2.2⟩

theorem SamePlace.ite {s t u : State} {c : Prop} [Decidable c] (ht : SamePlace s t) (hu : SamePlace s u) : SamePlace s (if c then t else u) := by
  split <;> assumption

/-- A change of anything else in the state. -/
theorem SamePlace.set {s t : State} (hr : t.regs = s.regs) (hm : t.modId = s.modId) (hs : t.net.seg = s.net.seg) (hi : t.net.index = s.net.index)
    (hb : t.bcn = s.bcn) : SamePlace s t := ⟨hs, hi, hb, State.rd_congr hr hm _⟩

theorem SamePlace.of_goes {W : List Part} {ps : List Nat} {s t : State} (h : Goes W s t) (hp : PagesOnly ps s t) (hn : .net ∉ W) (hb : .bcn ∉ W)
    (hps : R.bcn_BCN_NODE / 0x1000 ∉ ps) : SamePlace s t :=
  ⟨congrArg Net.seg (h.1 .net hn), congrArg Net.index (h.1 .net hn), h.1 .bcn hb, hp _ hps⟩

theorem SamePlace.wr (s : State) {a : Nat} (v : Word) (h : a ≠ R.bcn_BCN_NODE) : SamePlace s (s.wr a v) := ⟨rfl, rfl, rfl, s.rd_wr_ne v h.symm⟩

/-- The pages that writing and freeing the records of the link table can reach: those of DRAM, its errors and the NVS. -/
abbrev recPages : List Nat := [0x11, 0x12, 0x2A]

theorem State.recClear_pages (s : State) (r : Nat) : PagesOnly recPages s (s.recClear r) := by
  unfold State.recClear
  split
  · exact PagesOnly.after (.set rfl rfl) ((s.dramWrite_pages _ _).mono (by decide))
  · exact .set rfl rfl

theorem State.recFree_pages (s : State) (index : Nat) : PagesOnly recPages s (s.recFree index) :=
  (s.recClear_pages _).trans (State.recClear_pages _ _)

theorem State.recSet_pages (s : State) (ident : DWord) (index g : Nat) (nk : Option Bytes) : PagesOnly recPages s (s.recSet ident index g nk) := by
  have one (t : State) (r : Nat) (b : Bytes) (f : Ctx → Bool) : PagesOnly recPages t (((t.recWrite r b).mirrorClear r).ctxDrop f) :=
    PagesOnly.after (.set rfl rfl) (PagesOnly.after ((State.nvsWrite_pages _ _ _ _).mono (by decide)) ((t.dramWrite_pages _ _).mono (by decide)))
  exact (one s _ _ _).trans (one _ _ _ _)

theorem State.recSet_samePlace (s : State) (ident : DWord) (index g : Nat) (nk : Option Bytes) : SamePlace s (s.recSet ident index g nk) :=
  .of_goes (goes_recSet s ident index g nk rfl (.refl [.regs, .out, .free, .ldg, .mem, .nvs, .lnk, .pba] s)) (s.recSet_pages _ _ _ _) (by decide) (by decide) (by decide)

theorem State.leaveParent_samePlace (s : State) (old new : Nat) : SamePlace s (s.leaveParent old new) :=
  .ite (.refl s) (.of_goes (goes_recFree s old rfl (.refl [.regs, .out, .free, .ldg, .mem, .lnk, .pba] s)) (s.recFree_pages _) (by decide) (by decide) (by decide))

theorem State.sendUp_samePlace (s : State) (typ : Nat) (ack : Bool) (pay : Bytes) : SamePlace s (s.sendUp typ ack pay) :=
  .ite (.refl s) (.of_goes (s.fwSend_goes _ _ _ _ _) (s.fwSend_pages _ _ _ _ _) (by decide) (by decide) (by decide))

theorem State.sendStatus_samePlace (s : State) : SamePlace s s.sendStatus := by
  unfold State.sendStatus
  extract_lets t
  have ht : SamePlace s t := (State.sendUp_samePlace _ _ _ _).after (.set rfl rfl rfl rfl rfl)
  exact SamePlace.after (.set rfl rfl rfl rfl rfl) ht

theorem State.joined_samePlace (s : State) : SamePlace s s.joined := by
  have hn : (s.setBcn 4 0).net = s.net := (s.setBcn_goes 4 0).1 .net (by decide)
  have hb : SamePlace s (s.setBcn 4 0) := ⟨congrArg Net.seg hn, congrArg Net.index hn, s.setBcn_bcn 4 0, s.setBcn_rd_ne 4 0 (by decide) (by decide)⟩
  exact (State.sendStatus_samePlace _).after hb

/-- What a device does after it took its place and its register of the parent. -/
theorem State.takeAccept_place (s : State) (x : AirRx) (parent seg : Nat) : ∃ wake margins cost,
    SamePlace ((s.newParent (le (airPay x) 2 2 % 4096) seg (le (airPay x) 8 8) (le (airPay x) 16 8) wake margins cost).wr R.bcn_BCN_NODE
      (w32 (byteAt (airPay x) 6 % 32 + byteAt (airPay x) 7 / 4 % 2 * 32 + byteAt (airPay x) 7 % 4 * 64 + le (airPay x) 4 2 % 4096 * 256 +
        byteAt (airPay x) 7 / 8 % 2 * 2 ^ 20))) (s.takeAccept x parent seg) := by
  unfold State.takeAccept
  extract_lets p c gen old heard f node t u v
  have ht : SamePlace _ t := SamePlace.wr _ (a := R.lnk_LNK_GEN) _ (by decide)
  have hu : SamePlace t u := (State.recSet_samePlace _ _ _ _ _).after ((SamePlace.wr _ (a := R.lnk_LNK_GEN) _ (by decide)).after (t.leaveParent_samePlace _ _))
  have hv : SamePlace u v := .ite (.refl u) (u.recSet_samePlace _ _ _ _)
  exact ⟨_, _, _, (SamePlace.ite v.joined_samePlace (.refl v)).after (hv.after (hu.after ht))⟩

/-- The register of the parent, and in it the depth and the parent's index. -/
theorem fld_bcnNode {d a b p c : Nat} (hd : d < 32) (ha : a < 2) (hb : b < 4) (hp : p < 4096) :
    fld (w32 (d + a * 32 + b * 64 + p * 256 + c * 2 ^ 20)) 8 12 = p ∧ fld (w32 (d + a * 32 + b * 64 + p * 256 + c * 2 ^ 20)) 0 5 = d := by
  simp only [fld, w32, BitVec.toNat_ofNat]
  omega

theorem joinAcc_takes (x : AirRx) (a : Nat × Nat × Nat) (s : State) (hn : s.isNode = true) (ht : (airHdr x).typ = 9) (ha : s.bcn.asked = some a)
    (hb : byteAt (airPay x) 0 = 2) (hs : (airHdr x).seg = a.2.1) : ∃ t, exec (.joinAcc x) s = .next t ∧ t = s.takeAccept x (le (airPay x) 4 2 % 4096) a.2.1 ∧
      t.net.seg = a.2.1 ∧ t.net.index = le (airPay x) 2 2 % 4096 ∧ t.bcn.asked = none ∧ t.bcn.cands = [] ∧ t.rf R.bcn_BCN_NODE 8 12 = le (airPay x) 4 2 % 4096 ∧
      t.depth = byteAt (airPay x) 6 % 32 ∧ ChangesOnly (touches (.joinAcc x)) s t := by
  have hx : exec (.joinAcc x) s = .next (s.takeAccept x (le (airPay x) 4 2 % 4096) a.2.1) := by
    show execJoinAcc x s = _
    simp [execJoinAcc, hn, ht, ha, hb, hs]
  obtain ⟨wake, margins, cost, hseg, hindex, hbcn, hnode⟩ := s.takeAccept_place x (le (airPay x) 4 2 % 4096) a.2.1
  obtain ⟨hparent, hdepth⟩ := fld_bcnNode (Nat.mod_lt (byteAt (airPay x) 6) (by decide : 0 < 32)) (Nat.mod_lt (byteAt (airPay x) 7 / 4) (by decide : 0 < 2))
    (Nat.mod_lt (byteAt (airPay x) 7) (by decide : 0 < 4)) (Nat.mod_lt (le (airPay x) 4 2) (by decide : 0 < 4096))
  rw [State.rd_wr_same] at hnode
  exact ⟨_, hx, rfl, hseg, hindex, congrArg Bcn.asked hbcn, congrArg Bcn.cands hbcn, (congrArg (fld · 8 12) hnode).trans hparent,
    (congrArg (fld · 0 5) hnode).trans hdepth, (exec_goes hx).1⟩

/-! ### A refusal, and a parent that does not answer (R218) -/

/-- A request leaves the candidates and the wait for a segment as they are. -/
theorem State.askParent_bcn (s : State) (radio seg parent : Nat) (margins : List Int) :
    (s.askParent radio seg parent margins).bcn = { s.bcn with asked := some (parent, seg, s.sf), gather := none } := by
  unfold State.askParent
  rw [State.setBcn_bcn]
  simp only [State.fwSend_bcn, State.fwSend_sf]

/-- The next candidate is asked, or a scan begins with no candidates. -/
theorem State.askBest_cases (s : State) (f : Cand → Bool) : (s.askBest f).bcn.retryAt = s.bcn.retryAt ∧
    ((s.askBest f).bcnState = 1 ∧ (s.askBest f).bcn.cands = [] ∨ (s.askBest f).bcnState = 3 ∧ (s.askBest f).bcn.cands = s.bcn.cands) := by
  unfold State.askBest
  split
  · exact ⟨by rw [State.askParent_bcn], .inr ⟨(s.askParent_spec _ _ _ _).1, by rw [State.askParent_bcn]⟩⟩
  · exact ⟨by rw [State.startScan_bcn], .inl ⟨s.startScan_state, by rw [State.startScan_bcn]⟩⟩

theorem joinRef_asksNext (x : AirRx) (a : Nat × Nat × Nat) (s : State) (hn : s.isNode = true) (ht : (airHdr x).typ = 9) (ha : s.bcn.asked = some a)
    (hb : byteAt (airPay x) 0 = 3) (hs : (airHdr x).seg = a.2.1) : ∃ t, exec (.joinRef x) s = .next t ∧
      t = { s with bcn := { s.bcn with asked := none, retryAt := some (a.2.1, s.sf + le (airPay x) 2 2) } }.askBest (fun _ => true) ∧
      t.bcn.retryAt = some (a.2.1, s.sf + le (airPay x) 2 2) ∧ (t.bcnState = 1 ∨ t.bcnState = 3) := by
  have hx : exec (.joinRef x) s = .next ({ s with bcn := { s.bcn with asked := none, retryAt := some (a.2.1, s.sf + le (airPay x) 2 2) } }.askBest fun _ => true) := by
    show execJoinRef x s = _
    simp [execJoinRef, hn, ht, ha, hb, hs]
  obtain ⟨hr, hc⟩ := State.askBest_cases { s with bcn := { s.bcn with asked := none, retryAt := some (a.2.1, s.sf + le (airPay x) 2 2) } } fun _ => true
  exact ⟨_, hx, rfl, hr, hc.imp And.left And.left⟩

theorem joinTimeout_asksNext (a : Nat × Nat × Nat) (s : State) (ha : s.bcn.asked = some a) (hn : s.isNode = true) (hsf : a.2.2 + 8 ≤ s.sf) :
    let l := s.bcn.cands.map fun (c : Cand) => if c.index = a.1 ∧ c.seg = a.2.1 then { c with tried := true } else c
    ∃ t, exec .joinTimeout s = .next t ∧ t = { s with bcn := { s.bcn with cands := l } }.askBest (fun _ => true) ∧
      (t.bcnState = 1 ∧ t.bcn.cands = [] ∨ t.bcnState = 3 ∧ t.bcn.cands = l) := by
  intro l
  have hx : exec .joinTimeout s = .next ({ s with bcn := { s.bcn with cands := l } }.askBest fun _ => true) := by
    show execJoinTimeout s = _
    simp [execJoinTimeout, ha, hn, Nat.not_lt.mpr hsf, l]
  exact ⟨_, hx, rfl, (State.askBest_cases { s with bcn := { s.bcn with cands := l } } fun _ => true).2⟩

/-! ### Sleepy sensors, their wake slots and held frames (R208, R210, R219) -/

theorem sleepyWake_settings (k : Nat × Nat × Nat) (s : State) (hn : s.isNode = true) (hk : s.net.wakeNext = some k) :
    ∃ t, exec (.sleepyWake s.net.index false) s = .next t ∧ t.net.wake = k ∧ t.net.wakeNext = none ∧ ChangesOnly [.net] s t := by
  have hx : exec (.sleepyWake s.net.index false) s = .next { s with net := { s.net with wake := k, wakeNext := none } } := by
    show execSleepyWake s.net.index false s = _
    simp [execSleepyWake, State.ownWake, hn, hk]
  exact ⟨_, hx, rfl, rfl, (goes_set_net s _ rfl (.refl [.net] s)).1⟩

theorem sleepyWake_child (i : Nat) (c : Child) (f : Bytes × Nat) (r : List (Bytes × Nat)) (s : State) (hn : s.isNode = false) (hc : s.child i = some c)
    (hs : c.sleepy = true) (hh : c.held = f :: r) (ht : s.holds = true) (hp : s.sf % 2 ^ c.e = c.phase) (hl : s.tick ≤ s.sf * 256 + 226 + 4 * c.w) (hw : c.w < 7)
    (hf : s.wakeFits c.radio f.1 = true) (hq : s.wakeQueued c.radio f.1 = false) :
    exec (.sleepyWake i true) s = .next (s.fwSend c.radio 1 true (some (s.sf * 256 + 226 + 4 * c.w)) f.1) ∧
    (let y : Tx := ⟨fwDesc f.1.length 1 true (some (s.sf * 256 + 226 + 4 * c.w)), some f.1, s.tick, none, 0, 0⟩
     c.radio < s.rad.length → s.runs (radBlk c.radio) = true → s.tooLong c.radio y = false → ∃ t, exec (.sleepyWake i true) s = .next t ∧
      (t.radio c.radio).queue = (s.radio c.radio).queue ++ [y] ∧ ChangesOnly [.rad] s t) := by
  have hx : exec (.sleepyWake i true) s = .next (s.fwSend c.radio 1 true (some (s.sf * 256 + 226 + 4 * c.w)) f.1) := by
    show execSleepyWake i true s = _
    simp [execSleepyWake, State.childWake, hn, hc, hs, hh, ht, hp, Nat.not_lt.mpr hl, Nat.ne_of_lt hw, hf, hq]
  exact ⟨hx, fun hr hb hfit => ⟨_, hx, State.fwSend_queue hr hb hfit⟩⟩

theorem heldFrameExpiry_ends (s : State) : ∃ t, exec .heldFrameExpiry s = .next t ∧ t.net.children.length = s.net.children.length ∧
    (∀ c ∈ t.net.children, ∀ f ∈ c.held, s.tick < f.2 + 256 * (2 ^ c.e + 1)) ∧ ChangesOnly [.net] s t := by
  refine ⟨_, rfl, List.length_map _, fun c hc f hf => ?_, (goes_set_net s _ rfl (.refl [.net] s)).1⟩
  obtain ⟨d, -, rfl⟩ := List.mem_map.mp hc
  exact of_decide_eq_true (List.mem_filter.mp hf).2

/-! ### A frame for a node below (R213) -/

theorem mhopForward_down (x : AirRx) (c : Nat) (k : Child) (s : State) (hm : (airHdr x).mhop = true) (hi : s.hasIndex = true)
    (hs : s.child ((airHdr x).src % 4096) = none) (ho : s.airMine x = false) (hu : (airHdr x).fin / 4096 ≠ 0) (hf : (airHdr x).fin % 4096 ≠ 0)
    (hd : s.downHop ((airHdr x).fin % 4096) = some c) (hc : s.child c = some k) :
    exec (.mhopForward x) s = .next (s.toChild k (airHdr x).ackReq (s.relayed (airHdr x) c (airPay x))) ∧
    (let b := s.relayed (airHdr x) c (airPay x)
     let y : Tx := ⟨fwDesc b.length 0 (airHdr x).ackReq none, some b, s.tick, none, 0, 0⟩
     k.sleepy = false → k.radio < s.rad.length → s.runs (radBlk k.radio) = true → s.tooLong k.radio y = false → ∃ t, exec (.mhopForward x) s = .next t ∧
      (t.radio k.radio).queue = (s.radio k.radio).queue ++ [y] ∧ ChangesOnly [.rad] s t) := by
  have hx : exec (.mhopForward x) s = .next (s.toChild k (airHdr x).ackReq (s.relayed (airHdr x) c (airPay x))) := by
    show execMhopForward x s = _
    simp [execMhopForward, State.forwardMhop, hm, hi, hs, ho, hu, hf, hd, hc]
  refine ⟨hx, fun hk hr hb hfit => ⟨_, hx, ?_⟩⟩
  rw [show s.toChild k (airHdr x).ackReq (s.relayed (airHdr x) c (airPay x)) = s.fwSend k.radio 0 (airHdr x).ackReq none (s.relayed (airHdr x) c (airPay x)) from
    if_neg (by simp [hk])]
  exact State.fwSend_queue hr hb hfit

/-- Settles O16, clause by clause. -/
theorem modulesJoinTheSegment : Obligations.ModulesJoinTheSegment :=
  ⟨⟨joinReq_unknown, joinReq_known, joinReq_direct, joinReq_carried, statusReceive_joins, joinConfirmTimeout_repeats, joinConfirmTimeout_abandons, joinWindowExpiry_closes⟩,
    joinAcc_takes, joinRef_asksNext, joinTimeout_asksNext, sleepyWake_settings, sleepyWake_child, heldFrameExpiry_ends, mhopForward_down⟩

end Sys2Proof.Machine
end

section
/-! PROOFS. Nodes, graphs, policies, modes and schedules commanded through the mailbox. -/

namespace Sys2Proof.Machine

open Sys2Proof

/-! ### A command that is answered at once -/

section
variable {i : Instr} {k : Cmd} {s u : State} {st : Nat} {p d : Bytes}

/-- A reply ends its command. -/
theorem replied_ends (hx : exec i s = .next (u.reply k st p d)) : ∃ t, exec i s = .next t ∧ t = u.reply k st p d ∧ Ended k t :=
  ⟨_, hx, rfl, u.reply_ended k st p d⟩

theorem replied_net (hu : u.net = s.net) (hx : exec i s = .next (u.reply k st p d)) :
    ∃ t, exec i s = .next t ∧ t = u.reply k st p d ∧ t.net = s.net ∧ Ended k t :=
  ⟨_, hx, rfl, (u.reply_net k st p d).trans hu, u.reply_ended k st p d⟩

theorem replied_cor (hx : exec i s = .next (s.reply k st p d)) : ∃ t, exec i s = .next t ∧ t = s.reply k st p d ∧ t.cor = s.cor ∧ Ended k t :=
  ⟨_, hx, rfl, s.reply_cor k st p d, s.reply_ended k st p d⟩

theorem replied_lvl (hu : u.lvl = s.lvl) (hx : exec i s = .next (u.reply k st p d)) :
    ∃ t, exec i s = .next t ∧ t = u.reply k st p d ∧ t.lvl = s.lvl ∧ Ended k t :=
  ⟨_, hx, rfl, (u.reply_lvl k st p d).trans hu, u.reply_ended k st p d⟩

end

/-! ### Enrolment (R219, R385) -/

theorem State.withCo_denied {s : State} {c : Cmd} (h : s.coAuth c = none) (f : State → State) :
    s.withCo c f = (s.ledger 0xE00B 5 0x180 c.e.opcode (c.par 20 4) s.vlt.coCtr).reply c stDenied [] [] := by
  rw [State.withCo, h]

theorem State.withCo_accepted {s t : State} {c : Cmd} (h : s.coAuth c = some t) (f : State → State) : s.withCo c f = f t := by
  rw [State.withCo, h]

theorem State.coAuth_net {s t : State} {c : Cmd} (h : s.coAuth c = some t) : t.net = s.net :=
  ((goes_coAuth s c rfl (.refl [.regs, .out, .vlt, .pba] s)).elim h).1 .net (by decide)

theorem State.blobToRec_net (s : State) (c : Cmd) : (s.blobToRec c).1.net = s.net :=
  (goes_blobToRec s c rfl (.refl [.regs, .out, .free, .mbx, .ldg, .pwt, .vlt, .pba] s)).1 .net (by decide)

theorem nodeEnroll_denied (tag : Word) (k : Cmd) (s : State) (h : Ready s 0x0200 tag k) (ha : s.coAuth k = none) : ∃ t, exec (.nodeEnroll tag) s = .next t ∧
    t = (s.ledger 0xE00B 5 0x180 k.e.opcode (k.par 20 4) s.vlt.coCtr).reply k stDenied [] [] ∧ t.net = s.net ∧ Ended k t :=
  replied_net (s.ledger_net _ _ _ _ _ _) (congrArg Host.Outcome.next ((State.withCmd_ready h _).trans (State.withCo_denied ha _)))

/-- What the vault gives for the blob of an enrolment is enrolled, or its refusal is the reply. -/
theorem nodeEnroll_imports {tag : Word} {k : Cmd} {u s : State} (h : Ready s 0x0200 tag k) (ha : s.coAuth k = some u) (hl : k.e.length = 96) (hh : u.isHead = true)
    (ht : u.takes .vlt = true) (hi : k.par 8 2 ≤ 4095) : ∃ t, exec (.nodeEnroll tag) s = .next t ∧ Ended k t ∧
      (∀ e, (u.blobToRec k).2 = .error e → t = (u.blobToRec k).1.reply k (vltMbx e) [] [] ∧ t.net = s.net) ∧
      (∀ key, (u.blobToRec k).2 = .ok key → let v := (u.blobToRec k).1.enrolKey (BitVec.ofNat 64 (k.par 0 8)) (k.par 8 2) (k.par 10 1) (decide (k.par 11 1 ≠ 0)) key
        (∀ x, v = some x → t = x.reply k stOk [] [] ∧ t.net = x.net) ∧ (v = none → t = (u.blobToRec k).1.reply k stBadParam [] [] ∧ t.net = s.net)) := by
  have hnet : (u.blobToRec k).1.net = s.net := (u.blobToRec_net k).trans (State.coAuth_net ha)
  have hx : exec (.nodeEnroll tag) s = .next (match u.blobToRec k with
      | (v, .error e) => v.reply k (vltMbx e) [] []
      | (v, .ok key) => match v.enrolKey (BitVec.ofNat 64 (k.par 0 8)) (k.par 8 2) (k.par 10 1) (decide (k.par 11 1 ≠ 0)) key with
        | some y => y.reply k stOk [] []
        | none => v.reply k stBadParam [] []) :=
    congrArg Host.Outcome.next ((State.withCmd_ready h _).trans ((State.withCo_accepted ha _).trans ((if_neg (not_not.mpr hl)).trans
      ((if_neg (by simp [hh, ht])).trans (if_neg (Nat.not_lt.mpr hi))))))
  rcases hb : u.blobToRec k with ⟨v, e | key⟩
  all_goals
    rw [hb] at hnet hx
    dsimp only at hnet hx
  · refine ⟨_, hx, v.reply_ended _ _ _ _, fun e' he => ?_, fun key hk => by cases hk⟩
    cases he
    exact ⟨rfl, (v.reply_net _ _ _ _).trans hnet⟩
  · cases hv : v.enrolKey (BitVec.ofNat 64 (k.par 0 8)) (k.par 8 2) (k.par 10 1) (decide (k.par 11 1 ≠ 0)) key with
    | none =>
      rw [hv] at hx
      refine ⟨_, hx, v.reply_ended _ _ _ _, fun e he => (by cases he), fun key' hk => ?_⟩
      cases hk
      exact ⟨fun x hy => (by cases hv.symm.trans hy), fun _ => ⟨rfl, (v.reply_net _ _ _ _).trans hnet⟩⟩
    | some y =>
      rw [hv] at hx
      refine ⟨_, hx, y.reply_ended _ _ _ _, fun e he => (by cases he), fun key' hk => ?_⟩
      cases hk
      refine ⟨fun x hy => ?_, fun hn => by cases hv.symm.trans hn⟩
      cases hv.symm.trans hy
      exact ⟨rfl, y.reply_net _ _ _ _⟩

theorem nodeEnroll_accepted (tag : Word) (k : Cmd) (u s : State) (h : Ready s 0x0200 tag k) (ha : s.coAuth k = some u) :
    (k.e.length ≠ 96 → ∃ t, exec (.nodeEnroll tag) s = .next t ∧ t = u.reply k stBadLength [] [] ∧ t.net = s.net ∧ Ended k t) ∧
    (k.e.length = 96 → (u.isHead = false ∨ u.takes .vlt = false) → ∃ t, exec (.nodeEnroll tag) s = .next t ∧ t = u.reply k stBusy [] [] ∧ t.net = s.net ∧ Ended k t) ∧
    (k.e.length = 96 → u.isHead = true → u.takes .vlt = true → 4095 < k.par 8 2 → ∃ t, exec (.nodeEnroll tag) s = .next t ∧ t = u.reply k stBadParam [] [] ∧ t.net = s.net ∧ Ended k t) ∧
    (k.e.length = 96 → u.isHead = true → u.takes .vlt = true → k.par 8 2 ≤ 4095 → ∃ t, exec (.nodeEnroll tag) s = .next t ∧ Ended k t ∧
      (∀ e, (u.blobToRec k).2 = .error e → t = (u.blobToRec k).1.reply k (vltMbx e) [] [] ∧ t.net = s.net) ∧
      (∀ key, (u.blobToRec k).2 = .ok key → let v := (u.blobToRec k).1.enrolKey (BitVec.ofNat 64 (k.par 0 8)) (k.par 8 2) (k.par 10 1) (decide (k.par 11 1 ≠ 0)) key
        (∀ x, v = some x → t = x.reply k stOk [] [] ∧ t.net = x.net) ∧ (v = none → t = (u.blobToRec k).1.reply k stBadParam [] [] ∧ t.net = s.net))) := by
  have hx : exec (.nodeEnroll tag) s = execNodeEnroll tag s := rfl
  have hn : u.net = s.net := State.coAuth_net ha
  refine ⟨fun hl => replied_net hn ?_, fun hl hb => replied_net hn ?_, fun hl hh ht hi => replied_net hn ?_, nodeEnroll_imports h ha⟩
  · simp [hx, execNodeEnroll, State.withCmd_ready h, State.withCo_accepted ha, hl]
  · simp [hx, execNodeEnroll, State.withCmd_ready h, State.withCo_accepted ha, hl, hb]
  · simp [hx, execNodeEnroll, State.withCmd_ready h, State.withCo_accepted ha, hl, hh, ht, hi]

/-- A new enrolment puts its row before the others. -/
theorem State.enrol_row {s t : State} {id : DWord} {i cls : Nat} {sl : Bool} {key : Bytes} (h : s.enrol id i cls sl key = some t) :
    ∃ n, t.net.nodes = n :: s.net.nodes ∧ n.ident = id ∧ n.index = i ∧ n.key = key ∧ n.cls = cls ∧ n.sleepy = sl ∧ n.st = 1 := by
  unfold State.enrol at h
  extract_lets r src v at h
  obtain ⟨u, hu, rfl⟩ := Option.map_eq_some_iff.mp h
  have hn : u.net = v.net := ((goes_idxPlace v _ _ rfl (.refl [.regs, .out, .free, .ldg, .mem, .pba] v)).elim hu).1 .net (by decide)
  have hk : (if i = 0 then u else u.recSet id i 0 (some key)).net = u.net := by
    split
    · rfl
    · exact u.recSet_net _ _ _ _
  exact ⟨r, congrArg Net.nodes (hk.trans hn), rfl, rfl, rfl, rfl, rfl, rfl⟩

theorem enrolKey_new (id : DWord) (i cls : Nat) (sl : Bool) (key : Bytes) (s : State) (hr : s.rowOf id = none) :
    (i ≠ 0 → (∃ n ∈ s.net.nodes, n.index = i) → s.enrolKey id i cls sl key = none) ∧
    ((i ≠ 0 → ∀ n ∈ s.net.nodes, n.index ≠ i) → s.enrolKey id i cls sl key = s.enrol id i cls sl key ∧
      ∀ t, s.enrol id i cls sl key = some t → ∃ n, t.net.nodes = n :: s.net.nodes ∧ n.ident = id ∧ n.index = i ∧ n.key = key ∧ n.cls = cls ∧ n.sleepy = sl ∧ n.st = 1) := by
  have hk : s.enrolKey id i cls sl key = if i ≠ 0 ∧ s.net.nodes.any (fun n => n.index = i) then none else s.enrol id i cls sl key := by rw [State.enrolKey, hr]
  rw [hk]
  refine ⟨fun h0 hi => if_pos ⟨h0, by simpa using hi⟩, fun hi => ⟨if_neg fun ⟨h0, ha⟩ => ?_, fun _ => State.enrol_row⟩⟩
  obtain ⟨n, hn, he⟩ := List.any_eq_true.mp ha
  exact hi h0 n hn (of_decide_eq_true he)

theorem enrolKey_known (id : DWord) (i cls : Nat) (sl : Bool) (key : Bytes) (r : NodeRow) (s : State) (hr : s.rowOf id = some r) :
    (i ≠ 0 → i ≠ r.index → s.enrolKey id i cls sl key = none) ∧
    ((i = 0 ∨ i = r.index) → r.st ≠ 3 → r.index = 0 → s.enrolKey id i cls sl key = some (s.setRow { r with key := key, cls := cls, sleepy := sl })) ∧
    ((i = 0 ∨ i = r.index) → r.st ≠ 3 → r.index ≠ 0 →
      s.enrolKey id i cls sl key = some ((s.setRow { r with key := key, cls := cls, sleepy := sl }).recSet id r.index r.nkGen (some key))) ∧
    (∀ w p, (i = 0 ∨ i = r.index) → r.st = 3 → s.wrapKey = some w → kwUnwrap w key = some p → s.enrolKey id i cls sl key = some (s.nextNodeKey r key p)) ∧
    ((i = 0 ∨ i = r.index) → r.st = 3 → (s.wrapKey.bind fun w => kwUnwrap w key) = none → s.enrolKey id i cls sl key = none) := by
  have hk : s.enrolKey id i cls sl key = if i ≠ 0 ∧ i ≠ r.index then none
      else if r.st = 3 then (s.wrapKey.bind fun w => kwUnwrap w key).map fun p => s.nextNodeKey r key p
      else some (if r.index = 0 then s.setRow { r with key := key, cls := cls, sleepy := sl }
        else (s.setRow { r with key := key, cls := cls, sleepy := sl }).recSet id r.index r.nkGen (some key)) := by rw [State.enrolKey, hr]
  have same (hi : i = 0 ∨ i = r.index) : ¬ (i ≠ 0 ∧ i ≠ r.index) := fun ⟨h0, h1⟩ => hi.elim h0 h1
  rw [hk]
  refine ⟨fun h0 h1 => if_pos ⟨h0, h1⟩, fun hi h3 h0 => ?_, fun hi h3 h0 => ?_, fun w p hi h3 hw hp => ?_, fun hi h3 hn => ?_⟩
  · rw [if_neg (same hi), if_neg h3, if_pos h0]
  · rw [if_neg (same hi), if_neg h3, if_neg h0]
  · rw [if_neg (same hi), if_pos h3, hw, Option.bind_some, hp, Option.map_some]
  · rw [if_neg (same hi), if_pos h3, hn, Option.map_none]

/-! ### Removing and listing nodes, and the join bits (R219) -/

/-- A removed node leaves the head's table, and the head's children where it is one of them. -/
theorem nodeRemove_removes {tag : Word} {k : Cmd} {r : NodeRow} {s : State} (h : Ready s 0x0201 tag k) (hh : s.isHead = true) (hr : s.nodeRow (k.par 0 2) = some r) :
    ∃ t, exec (.nodeRemove tag) s = .next t ∧ (∀ n, n ∈ t.net.nodes ↔ n ∈ s.net.nodes ∧ n.ident ≠ r.ident) ∧
      (r.parent = 0 → ∀ c ∈ t.net.children, c.index ≠ k.par 0 2) ∧ Ended k t ∧ ChangesOnly (touches (.nodeRemove tag)) s t := by
  let u : State := { s with net := { s.net with nodes := s.net.nodes.filter fun n => n.ident ≠ r.ident } }
  let d : State := if r.parent = 0 then u.dropChild (k.par 0 2) else u
  let w : State := (d.recFree (k.par 0 2)).idxRemove r.ident.toNat
  let v : State := if 2 ≤ r.st then w.event 0xF201 (blkSrc .bcn) (toLe 2 (k.par 0 2) ++ toLe 1 0) else w
  have hx : exec (.nodeRemove tag) s = .next (v.reply k stOk [] []) := by
    show execNodeRemove tag s = _
    simp only [execNodeRemove, State.withCmd_ready h, hh, hr]
    rfl
  have hw : w.net = d.net :=
    ((goes_idxRemove _ _ rfl (.refl [.regs, .out, .free, .ldg, .mem, .pba] (d.recFree (k.par 0 2)))).1 .net (by decide)).trans (d.recFree_net _)
  have hv : v.net = w.net := by
    show (if 2 ≤ r.st then w.event 0xF201 (blkSrc .bcn) (toLe 2 (k.par 0 2) ++ toLe 1 0) else w).net = w.net
    split
    · exact w.event_net _ _ _
    · rfl
  have hd : SameTable u d := .ite (u.dropChild_sameTable _) (.refl u)
  have ht : (v.reply k stOk [] []).net = d.net := (v.reply_net _ _ _ _).trans (hv.trans hw)
  refine ⟨_, hx, fun n => ?_, fun hp c hc => ?_, v.reply_ended _ _ _ _, (exec_goes hx).1⟩
  · rw [ht, hd.1]
    simp [u]
  · rw [ht, show d = u.dropChild (k.par 0 2) from if_pos hp] at hc
    exact u.dropChild_children hc

theorem nodeRemove_spec (tag : Word) (k : Cmd) (s : State) (h : Ready s 0x0201 tag k) :
    (s.isHead = false → (∃ t, exec (.nodeRemove tag) s = .next t ∧ t = s.reply k stBusy [] [] ∧ t.net = s.net ∧ Ended k t)) ∧
    (s.isHead = true → s.nodeRow (k.par 0 2) = none → (∃ t, exec (.nodeRemove tag) s = .next t ∧ t = s.reply k stBadParam [] [] ∧ t.net = s.net ∧ Ended k t)) ∧
    (∀ r, s.isHead = true → s.nodeRow (k.par 0 2) = some r → ∃ t, exec (.nodeRemove tag) s = .next t ∧ (∀ n, n ∈ t.net.nodes ↔ n ∈ s.net.nodes ∧ n.ident ≠ r.ident) ∧
      (r.parent = 0 → ∀ c ∈ t.net.children, c.index ≠ k.par 0 2) ∧ Ended k t ∧ ChangesOnly (touches (.nodeRemove tag)) s t) := by
  have hx : exec (.nodeRemove tag) s = execNodeRemove tag s := rfl
  refine ⟨fun hh => replied_net rfl ?_, fun hh hr => replied_net rfl ?_, fun _ => nodeRemove_removes h⟩
  · simp [hx, execNodeRemove, State.withCmd_ready h, hh]
  · simp [hx, execNodeRemove, State.withCmd_ready h, hh, hr]

theorem nodeTable_spec (tag : Word) (k : Cmd) (s : State) (h : Ready s 0x0202 tag k) :
    (s.isHead = false → (∃ t, exec (.nodeTable tag) s = .next t ∧ t = s.reply k stBusy [] [] ∧ Ended k t)) ∧
    (s.isHead = true → (∃ t, exec (.nodeTable tag) s = .next t ∧ t = s.reply k stOk [] ((List.range 4096).flatMap fun i => s.tableEntry i) ∧ (t.net = s.net ∧ Ended k t))) := by
  refine ⟨fun hh => replied_ends ?_, fun hh => replied_net rfl ?_⟩
  · exact congrArg Host.Outcome.next ((State.withCmd_ready h _).trans (if_pos (by simp [hh])))
  · exact congrArg Host.Outcome.next ((State.withCmd_ready h _).trans (if_neg (by simp [hh])))

/-- A field of one bit. -/
theorem fld_one (w : Word) (i : Nat) : fld w i 1 = b2n (tst w i) := by
  rw [tst, BitVec.getLsbD, Nat.testBit_eq_decide_div_mod_eq, fld, b2n]
  by_cases h : w.toNat / 2 ^ i % 2 = 1
  · simp [h]
  · simp only [h, decide_false, Bool.false_eq_true, if_false]
    omega

theorem b2n_eq_one {n : Nat} (h : n ≤ 1) : b2n (decide (n = 1)) = n := by
  rcases Nat.le_one_iff_eq_zero_or_eq_one.mp h with rfl | rfl <;> rfl

theorem joinCtrl_sets {tag : Word} {k : Cmd} {s : State} (h : Ready s 0x0203 tag k) (h0 : k.par 0 1 ≤ 1) (h1 : k.par 1 1 ≤ 1) :
    ∃ t, exec (.joinCtrl tag) s = .next t ∧ t.rf R.bcn_BCN_CFG 1 1 = k.par 0 1 ∧ t.rf R.bcn_BCN_CFG 2 1 = k.par 1 1 ∧
      t.net.joinEnd = (if k.par 2 2 = 0 then none else some (s.sf + k.par 2 2)) ∧ Ended k t ∧ ChangesOnly (touches (.joinCtrl tag)) s t := by
  let j : State := { s with net := { s.net with joinEnd := if k.par 2 2 = 0 then none else some (s.sf + k.par 2 2) } }
  let u : State := (j.wb R.bcn_BCN_CFG 1 (decide (k.par 0 1 = 1))).wb R.bcn_BCN_CFG 2 (decide (k.par 1 1 = 1))
  have hx : exec (.joinCtrl tag) s = .next (u.reply k stOk [] []) := congrArg Host.Outcome.next ((State.withCmd_ready h _).trans (if_neg (by omega)))
  have hr : (u.reply k stOk [] []).rd R.bcn_BCN_CFG = u.rd R.bcn_BCN_CFG := u.reply_rd _ _ _ _ (by decide)
  have hb1 : tst (u.rd R.bcn_BCN_CFG) 1 = decide (k.par 0 1 = 1) := (State.wb_rb_ne _ _ _ (by decide)).trans (State.wb_rb_same _ _ _ (by decide))
  have hb2 : tst (u.rd R.bcn_BCN_CFG) 2 = decide (k.par 1 1 = 1) := State.wb_rb_same _ _ _ (by decide)
  refine ⟨_, hx, ?_, ?_, ?_, u.reply_ended _ _ _ _, (exec_goes hx).1⟩
  · rw [State.rf, hr, fld_one, hb1, b2n_eq_one h0]
  · rw [State.rf, hr, fld_one, hb2, b2n_eq_one h1]
  · rw [u.reply_net]
    rfl

theorem joinCtrl_spec (tag : Word) (k : Cmd) (s : State) (h : Ready s 0x0203 tag k) :
    ((1 < k.par 0 1 ∨ 1 < k.par 1 1) → (∃ t, exec (.joinCtrl tag) s = .next t ∧ t = s.reply k stBadParam [] [] ∧ t.net = s.net ∧ Ended k t)) ∧
    (k.par 0 1 ≤ 1 → k.par 1 1 ≤ 1 → ∃ t, exec (.joinCtrl tag) s = .next t ∧ t.rf R.bcn_BCN_CFG 1 1 = k.par 0 1 ∧ t.rf R.bcn_BCN_CFG 2 1 = k.par 1 1 ∧
      t.net.joinEnd = (if k.par 2 2 = 0 then none else some (s.sf + k.par 2 2)) ∧ Ended k t ∧ ChangesOnly (touches (.joinCtrl tag)) s t) :=
  ⟨fun hb => replied_net rfl (congrArg Host.Outcome.next ((State.withCmd_ready h _).trans (if_pos hb))), joinCtrl_sets h⟩

/-! ### The graph (R249, R264) -/

theorem State.corBank_newest (s : State) (n a : Nat) (b : Bytes) : (s.corBank n a b).cor.newest = s.cor.newest := by
  unfold State.corBank
  extract_lets lo p t
  split
  · rfl
  · split <;> rfl

theorem State.stage_newest (s : State) (b : Bytes) : (s.stage b).cor.newest = s.cor.newest :=
  (State.corBank_newest _ _ _ _).trans (State.corBank_newest _ _ _ _)

theorem State.stage_emc (s : State) (b : Bytes) : (s.stage b).emc = s.emc := (goes_stage s b rfl (.refl [.regs, .cor] s)).1 .emc (by decide)

/-- The older eMMC copy of the graph, which a GRAPH_LOAD replaces. -/
def State.olderCopy (s : State) : Nat :=
  match s.cor.newest with
  | none => 0
  | some n => 1 - n

/-- An image stored as a copy that is then the newest. -/
def State.storeGraph (s : State) (j : Nat) (b : Bytes) : State :=
  { s with emc := { s.emc with user := memWrite s.emc.user (graphCopy j) b }, cor := { s.cor with newest := some j } }

/-- A command that waits for the check of the staged image. -/
def State.awaitCheck (s : State) (k : Cmd) : State := State.defer { s with cor := { s.cor with check := 2 } } k

theorem State.awaitCheck_spec (s : State) (k : Cmd) :
    (s.awaitCheck k).cor.check = 2 ∧ (s.awaitCheck k).cor.newest = s.cor.newest ∧ (s.awaitCheck k).emc = s.emc := ⟨rfl, rfl, rfl⟩

/-- An image of the right length goes to the older copy and the staged bank, and its check begins. -/
theorem exec_graphLoad_stages {tag : Word} {k : Cmd} {s : State} (h : Ready s 0x0400 tag k) (h0 : s.cor.check = 0) (hl : k.e.length = graphLen)
    (hc : s.takes .cor = true) (hh : s.isHead = true) (he : s.inReset .emc = false) :
    exec (.graphLoad tag) s = .next (((s.storeGraph s.olderCopy k.bytes).stage k.bytes).awaitCheck k) :=
  congrArg Host.Outcome.next ((if_neg (not_not.mpr h0)).trans ((State.withCmd_ready h _).trans ((if_neg (not_not.mpr hl)).trans
    ((if_neg (by simp [hc, hh])).trans (if_neg (by simp [he]))))))

theorem graphLoad_stages {tag : Word} {k : Cmd} {s : State} (h : Ready s 0x0400 tag k) (h0 : s.cor.check = 0) (hl : k.e.length = graphLen)
    (hc : s.takes .cor = true) (hh : s.isHead = true) (he : s.inReset .emc = false) : ∃ t j, exec (.graphLoad tag) s = .next t ∧ t.cor.check = 2 ∧
      t.cor.newest = some j ∧ (∀ n, s.cor.newest = some n → j = 1 - n) ∧ t.emc.user = memWrite s.emc.user (graphCopy j) k.bytes ∧
      ChangesOnly (touches (.graphLoad tag)) s t := by
  have hx := exec_graphLoad_stages h h0 hl hc hh he
  have hj (n : Nat) (hn : s.cor.newest = some n) : s.olderCopy = 1 - n := by rw [State.olderCopy, hn]
  obtain ⟨check, newest, emc⟩ := State.awaitCheck_spec ((s.storeGraph s.olderCopy k.bytes).stage k.bytes) k
  rw [State.stage_newest] at newest
  rw [State.stage_emc] at emc
  exact ⟨_, _, hx, check, newest, hj, congrArg Emc.user emc, (exec_goes hx).1⟩

theorem graphLoad_spec (tag : Word) (k : Cmd) (s : State) (h : Ready s 0x0400 tag k) (h0 : s.cor.check = 0) :
    (k.e.length ≠ graphLen → (∃ t, exec (.graphLoad tag) s = .next t ∧ t = s.reply k stBadLength [] [] ∧ t.cor = s.cor ∧ Ended k t)) ∧
    (k.e.length = graphLen → (s.takes .cor = false ∨ s.isHead = false ∨ s.inReset .emc = true) → (∃ t, exec (.graphLoad tag) s = .next t ∧ t = s.reply k stBusy [] [] ∧ t.cor = s.cor ∧ Ended k t)) ∧
    (k.e.length = graphLen → s.takes .cor = true → s.isHead = true → s.inReset .emc = false → ∃ t j, exec (.graphLoad tag) s = .next t ∧ t.cor.check = 2 ∧
      t.cor.newest = some j ∧ (∀ n, s.cor.newest = some n → j = 1 - n) ∧ t.emc.user = memWrite s.emc.user (graphCopy j) k.bytes ∧ ChangesOnly (touches (.graphLoad tag)) s t) := by
  refine ⟨fun hl => replied_cor ?_, fun hl hb => replied_cor ?_, graphLoad_stages h h0⟩
  · exact congrArg Host.Outcome.next ((if_neg (not_not.mpr h0)).trans ((State.withCmd_ready h _).trans (if_pos hl)))
  · have busy (f : State) : (if !s.takes .cor || !s.isHead then s.reply k stBusy [] [] else if s.inReset .emc then s.reply k stBusy [] [] else f) = s.reply k stBusy [] [] := by
      rcases hb with hb | hb | hb <;> simp [hb]
    exact congrArg Host.Outcome.next ((if_neg (not_not.mpr h0)).trans ((State.withCmd_ready h _).trans ((if_neg (not_not.mpr hl)).trans (busy _))))

theorem graphLoad_waits (tag : Word) (s : State) (h : s.cor.check ≠ 0) : exec (.graphLoad tag) s = .next s := congrArg Host.Outcome.next (if_pos h)

/-! ### Policy and weather (R258, R259, R264) -/

/-- The source of time and the tick numbers are the same. -/
def SameClock (s t : State) : Prop := t.rd R.ntm_NTM_STAT = s.rd R.ntm_NTM_STAT ∧ t.ntm = s.ntm

theorem SameClock.wr (s : State) {a : Nat} (v : Word) (h : a ≠ R.ntm_NTM_STAT) : SameClock s (s.wr a v) := ⟨s.rd_wr_ne v h.symm, rfl⟩

/-- What a write leaves, after what went before it. -/
theorem SameClock.after {s t u : State} (h' : SameClock t u) (h : SameClock s t) : SameClock s u := ⟨h'.1.trans h.1, h'.2.trans h.2⟩

section
variable {s t : State} (h : SameClock s t)
include h

theorem SameClock.tick : t.tick = s.tick := State.tick_same h.1 h.2

theorem SameClock.tick32 : t.tick32 = s.tick32 := State.tick32_congr h.1 h.2

theorem SameClock.applyOf (a : Word) : t.applyOf a = s.applyOf a := by rw [State.applyOf, h.tick]; rfl

theorem SameClock.fullTick (a : Word) : t.fullTick a = s.fullTick a := by rw [State.fullTick, h.tick, h.tick32]; rfl

theorem SameClock.timeFor (a : Word) : t.timeFor a = s.timeFor a := by rw [State.timeFor, State.holds_same h.1, h.2]; rfl

end

section
variable {u : State} {k : Cmd}

/-- A policy committed by a command takes the staged registers at its tick, and the reply names it. -/
theorem State.policyReply_commits (ht : u.timeFor (u.applyOf k.e.apply) = true) (hl : later (u.applyOf k.e.apply) u.tick32 = true) :
    let v := u.wr R.cor_POLICY_AT (u.applyOf k.e.apply)
    u.policyReply k = State.replyAt { v.wb R.cor_COR_STAT 5 true with cor := { v.cor with polAt := some (u.fullTick (u.applyOf k.e.apply), v.stagedPolicy) } } k stOk
      (u.applyOf k.e.apply) [] [] := by
  intro v
  have hv : SameClock u v := .wr u _ (by decide)
  have hc : v.corTick (u.applyOf k.e.apply) = none := by simp [State.corTick, hv.timeFor, hv.tick32, ht, hl]
  simp only [State.policyReply, State.policyCommit, v] at hc ⊢
  rw [hc, ← hv.fullTick]

/-- A tick that cannot be taken is refused, and the policy stays. -/
theorem State.policyReply_refused (h : u.timeFor (u.applyOf k.e.apply) = false ∨ later (u.applyOf k.e.apply) u.tick32 = false) :
    ∃ e, u.policyReply k = ((u.wr R.cor_POLICY_AT (u.applyOf k.e.apply)).corNoTime e (u.applyOf k.e.apply)).reply k (if e = eNoTime then stNoTime else stBadParam) [] [] := by
  have hv : SameClock u (u.wr R.cor_POLICY_AT (u.applyOf k.e.apply)) := .wr u _ (by decide)
  obtain ⟨e, he⟩ : ∃ e, (u.wr R.cor_POLICY_AT (u.applyOf k.e.apply)).corTick (u.applyOf k.e.apply) = some e := by
    unfold State.corTick
    rw [hv.timeFor, hv.tick32]
    rcases h with h | h <;> rw [h]
    · exact ⟨_, rfl⟩
    · cases u.timeFor (u.applyOf k.e.apply)
      · exact ⟨_, rfl⟩
      · exact ⟨_, rfl⟩
  refine ⟨e, ?_⟩
  simp only [State.policyReply, State.policyCommit, he]

theorem State.corNoTime_rd (s : State) (e : Nat) (at32 : Word) {a : Nat} (h : a / 0x1000 ≠ 0x2A) : (s.corNoTime e at32).rd a = s.rd a := by
  unfold State.corNoTime
  split
  · exact s.ledger_rd _ _ _ _ _ _ h
  · rfl

theorem State.corNoTime_cor (s : State) (e : Nat) (at32 : Word) : (s.corNoTime e at32).cor = s.cor := by
  unfold State.corNoTime
  split
  · exact s.ledger_cor _ _ _ _ _ _
  · rfl

/-- The reply of a policy command ends it. -/
theorem State.policyReply_ended (u : State) (k : Cmd) : Ended k (u.policyReply k) := by
  unfold State.policyReply
  extract_lets at32
  split
  · exact State.replyAt_ended _ _ _ _ _ _
  · exact State.reply_ended _ _ _ _ _

end

theorem State.replyAt_cor (s : State) (c : Cmd) (st : Nat) (ap : Word) (p d : Bytes) : (s.replyAt c st ap p d).cor = s.cor := by
  obtain ⟨_, _, _, _, e⟩ := s.replyAt_shape c st ap p d
  rw [e]

theorem State.setCor_rd (s : State) (c : Cor) (a : Nat) : State.rd { s with cor := c } a = s.rd a := State.rd_congr rfl rfl a

/-! The staged policy is read from the floors, the caps and WX. -/

theorem State.stagedPolicy_wx (s : State) : s.stagedPolicy.wx = s.rf R.cor_WX 0 11 := rfl

theorem State.stagedPolicy_floor (s : State) {i : Nat} (hi : i < 64) : s.stagedPolicy.floors.getD i 0 = s.rf (R.cor_FLOORm (i / 2)) (i % 2 * 16) 10 := by
  simp [State.stagedPolicy, List.getD_eq_getElem?_getD, List.getElem?_range hi]

theorem State.stagedPolicy_cap (s : State) {i : Nat} (hi : i < 64) : s.stagedPolicy.caps.getD i 0 = s.rf (R.cor_CAPm (i / 2)) (i % 2 * 16) 10 := by
  simp [State.stagedPolicy, List.getD_eq_getElem?_getD, List.getElem?_range hi]

theorem State.stagedPolicy_congr {s t : State} (hf : ∀ i, t.rd (R.cor_FLOORm i) = s.rd (R.cor_FLOORm i)) (hc : ∀ i, t.rd (R.cor_CAPm i) = s.rd (R.cor_CAPm i))
    (hw : t.rd R.cor_WX = s.rd R.cor_WX) : t.stagedPolicy = s.stagedPolicy := by
  simp only [State.stagedPolicy, State.rf, hf, hc, hw]

/-- A committed policy and its pending bit, and WX as it was staged. -/
theorem State.policyReply_staged {u : State} {k : Cmd} (ht : u.timeFor (u.applyOf k.e.apply) = true) (hl : later (u.applyOf k.e.apply) u.tick32 = true) :
    (u.policyReply k).cor.polAt = some (u.fullTick (u.applyOf k.e.apply), u.stagedPolicy) ∧ (u.policyReply k).rb R.cor_COR_STAT 5 = true ∧
      (u.policyReply k).rd R.cor_WX = u.rd R.cor_WX := by
  have hp : (u.wr R.cor_POLICY_AT (u.applyOf k.e.apply)).stagedPolicy = u.stagedPolicy :=
    State.stagedPolicy_congr (fun _ => u.rd_wr_ne _ (by simp only [R.cor_FLOORm, R.cor_POLICY_AT]; omega))
      (fun _ => u.rd_wr_ne _ (by simp only [R.cor_CAPm, R.cor_POLICY_AT]; omega)) (u.rd_wr_ne _ (by decide))
  rw [State.policyReply_commits ht hl]
  refine ⟨?_, ?_, ?_⟩
  · rw [State.replyAt_cor, hp]
  · rw [State.rb, State.replyAt_rd _ _ _ _ _ _ (by decide), State.setCor_rd]
    exact State.wb_rb_same _ _ true (by decide)
  · rw [State.replyAt_rd _ _ _ _ _ _ (by decide), State.setCor_rd, State.wb_rd_ne _ _ _ (by decide), State.rd_wr_ne _ _ (by decide)]

/-- The words of the floors and caps, two to a register. -/
theorem fld_pair {a b : Nat} (ha : a ≤ 1000) (hb : b ≤ 1000) : fld (w32 (a + b * 2 ^ 16)) 0 10 = a ∧ fld (w32 (a + b * 2 ^ 16)) 16 10 = b := by
  simp only [fld, w32, BitVec.toNat_ofNat]
  omega

theorem fld_wx {n : Nat} (h : n ≤ 1024) : fld (w32 n) 0 11 = n := by
  simp only [fld, w32, BitVec.toNat_ofNat]
  omega

/-- The floors and caps of a policy, written register by register. -/
def State.putPolicy (s : State) (f c : Nat → Word) : State :=
  (List.range 32).foldl (fun (t : State) i => (t.wr (R.cor_FLOORm i) (f i)).wr (R.cor_CAPm i) (c i)) s

theorem State.putPolicy_rd (s : State) (f c : Nat → Word) {i : Nat} (hi : i < 32) :
    (s.putPolicy f c).rd (R.cor_FLOORm i) = f i ∧ (s.putPolicy f c).rd (R.cor_CAPm i) = c i := by
  unfold State.putPolicy
  rw [← List.map_coe_finRange_eq_range, List.foldl_map]
  refine foldl_establishes (P := fun (i : Fin 32) (t : State) => t.rd (R.cor_FLOORm i) = f i ∧ t.rd (R.cor_CAPm i) = c i) (fun t j => ⟨?_, State.rd_wr_same _ _ _⟩)
    (fun t j n h => ?_) (List.finRange 32) s ⟨i, hi⟩ (List.mem_finRange _)
  · rw [State.rd_wr_ne _ _ (by simp only [R.cor_FLOORm, R.cor_CAPm]; omega), State.rd_wr_same]
  · obtain ⟨hf, hc⟩ := h
    by_cases e : n = j
    · subst e
      exact ⟨by rw [State.rd_wr_ne _ _ (by simp only [R.cor_FLOORm, R.cor_CAPm]; omega), State.rd_wr_same], State.rd_wr_same _ _ _⟩
    · have hv : n.val ≠ j.val := fun h => e (Fin.ext h)
      have hn := n.isLt
      have hj := j.isLt
      constructor
      · rw [State.rd_wr_ne _ _ (by simp only [R.cor_FLOORm, R.cor_CAPm]; omega), State.rd_wr_ne _ _ (by simp only [R.cor_FLOORm]; omega), hf]
      · rw [State.rd_wr_ne _ _ (by simp only [R.cor_CAPm]; omega), State.rd_wr_ne _ _ (by simp only [R.cor_FLOORm, R.cor_CAPm]; omega), hc]

theorem State.putPolicy_clock (s : State) (f c : Nat → Word) : SameClock s (s.putPolicy f c) :=
  foldl_keeps (P := SameClock s) (fun t i h => ((SameClock.wr _ _ (by simp only [R.cor_CAPm, R.ntm_NTM_STAT]; omega)).after
    (.wr t _ (by simp only [R.cor_FLOORm, R.ntm_NTM_STAT]; omega))).after h) _ ⟨rfl, rfl⟩

/-- The floors, the caps and the weather of the staged policy, read back. -/
theorem State.putPolicy_staged (s : State) {b : Bytes} {wx : Nat} (hv : ∀ i < 128, le b (2 * i) 2 ≤ 1000) (hw : wx ≤ 1024) :
    let p := ((s.putPolicy (fun i => w32 (le b (2 * (2 * i)) 2 + le b (2 * (2 * i + 1)) 2 * 2 ^ 16))
      (fun i => w32 (le b (2 * (64 + 2 * i)) 2 + le b (2 * (65 + 2 * i)) 2 * 2 ^ 16))).wr R.cor_WX (w32 wx)).stagedPolicy
    p.wx = wx ∧ ∀ i < 64, p.floors.getD i 0 = le b (2 * i) 2 ∧ p.caps.getD i 0 = le b (128 + 2 * i) 2 := by
  intro p
  refine ⟨?_, fun i hi => ?_⟩
  · rw [State.stagedPolicy_wx, State.rf, State.rd_wr_same]
    exact fld_wx hw
  · obtain ⟨hf, hc⟩ := s.putPolicy_rd (fun i => w32 (le b (2 * (2 * i)) 2 + le b (2 * (2 * i + 1)) 2 * 2 ^ 16))
      (fun i => w32 (le b (2 * (64 + 2 * i)) 2 + le b (2 * (65 + 2 * i)) 2 * 2 ^ 16)) (show i / 2 < 32 by omega)
    obtain ⟨f0, f1⟩ := fld_pair (hv (2 * (i / 2)) (by omega)) (hv (2 * (i / 2) + 1) (by omega))
    obtain ⟨c0, c1⟩ := fld_pair (hv (64 + 2 * (i / 2)) (by omega)) (hv (65 + 2 * (i / 2)) (by omega))
    rw [State.stagedPolicy_floor _ hi, State.stagedPolicy_cap _ hi, State.rf, State.rf, State.rd_wr_ne _ _ (by simp only [R.cor_FLOORm, R.cor_WX]; omega), hf,
      State.rd_wr_ne _ _ (by simp only [R.cor_CAPm, R.cor_WX]; omega), hc]
    rcases Nat.mod_two_eq_zero_or_one i with h2 | h2 <;> rw [h2]
    · exact ⟨f0.trans (congrArg (le b · 2) (by omega)), c0.trans (congrArg (le b · 2) (by omega))⟩
    · exact ⟨f1.trans (congrArg (le b · 2) (by omega)), c1.trans (congrArg (le b · 2) (by omega))⟩

theorem policySet_commits {tag : Word} {k : Cmd} {s : State} (h : Ready s 0x0401 tag k) (at' : Word) (hl : k.e.length = 256) (hr : s.inReset .cor = false)
    (hv : ∀ i < 128, le k.bytes (2 * i) 2 ≤ 1000) (hw : k.par 0 2 ≤ 1024) (ha : at' = s.applyOf k.e.apply) (ht : s.timeFor at' = true) (hlt : later at' s.tick32 = true) :
    ∃ t p, exec (.policySet tag) s = .next t ∧ t.cor.polAt = some (s.fullTick at', p) ∧ p.wx = k.par 0 2 ∧
      (∀ i < 64, p.floors.getD i 0 = le k.bytes (2 * i) 2 ∧ p.caps.getD i 0 = le k.bytes (128 + 2 * i) 2) ∧ t.rb R.cor_COR_STAT 5 = true ∧
      Ended k t ∧ ChangesOnly (touches (.policySet tag)) s t := by
  subst ha
  let u : State := (s.putPolicy (fun i => w32 (le k.bytes (2 * (2 * i)) 2 + le k.bytes (2 * (2 * i + 1)) 2 * 2 ^ 16))
    (fun i => w32 (le k.bytes (2 * (64 + 2 * i)) 2 + le k.bytes (2 * (65 + 2 * i)) 2 * 2 ^ 16))).wr R.cor_WX (w32 (k.par 0 2))
  have hx : exec (.policySet tag) s = .next (u.policyReply k) :=
    congrArg Host.Outcome.next ((State.withCmd_ready h _).trans ((if_neg (not_not.mpr hl)).trans ((if_neg (by simp [hr])).trans (if_neg (by
      simp only [Bool.or_eq_true, List.any_eq_true, List.mem_range, decide_eq_true_eq, not_or, not_exists, not_and, Nat.not_lt]
      exact ⟨hv, hw⟩)))))
  have hu : SameClock s u := (SameClock.wr _ _ (by decide)).after (s.putPolicy_clock _ _)
  obtain ⟨hpol, hbit, -⟩ := State.policyReply_staged (u := u) (k := k) (by rw [hu.applyOf, hu.timeFor, ht]) (by rw [hu.applyOf, hu.tick32, hlt])
  obtain ⟨hwx, hfc⟩ := s.putPolicy_staged hv hw
  rw [hu.applyOf, hu.fullTick] at hpol
  exact ⟨_, _, hx, hpol, hwx, hfc, hbit, u.policyReply_ended k, (exec_goes hx).1⟩

theorem policySet_spec (tag : Word) (k : Cmd) (s : State) (h : Ready s 0x0401 tag k) :
    (k.e.length ≠ 256 → (∃ t, exec (.policySet tag) s = .next t ∧ t = s.reply k stBadLength [] [] ∧ t.cor = s.cor ∧ Ended k t)) ∧
    (k.e.length = 256 → s.inReset .cor = true → (∃ t, exec (.policySet tag) s = .next t ∧ t = s.reply k stBusy [] [] ∧ t.cor = s.cor ∧ Ended k t)) ∧
    (k.e.length = 256 → s.inReset .cor = false → ((∃ i < 128, 1000 < le k.bytes (2 * i) 2) ∨ 1024 < k.par 0 2) → (∃ t, exec (.policySet tag) s = .next t ∧ t = s.reply k stBadParam [] [] ∧ t.cor = s.cor ∧ Ended k t)) ∧
    (∀ at', k.e.length = 256 → s.inReset .cor = false → (∀ i < 128, le k.bytes (2 * i) 2 ≤ 1000) → k.par 0 2 ≤ 1024 → at' = s.applyOf k.e.apply →
      s.timeFor at' = true → later at' s.tick32 = true → ∃ t p, exec (.policySet tag) s = .next t ∧ t.cor.polAt = some (s.fullTick at', p) ∧ p.wx = k.par 0 2 ∧
        (∀ i < 64, p.floors.getD i 0 = le k.bytes (2 * i) 2 ∧ p.caps.getD i 0 = le k.bytes (128 + 2 * i) 2) ∧ t.rb R.cor_COR_STAT 5 = true ∧
        Ended k t ∧ ChangesOnly (touches (.policySet tag)) s t) := by
  refine ⟨fun hl => replied_cor ?_, fun hl hr => replied_cor ?_, fun hl hr hb => replied_cor ?_, policySet_commits h⟩
  · exact congrArg Host.Outcome.next ((State.withCmd_ready h _).trans (if_pos hl))
  · exact congrArg Host.Outcome.next ((State.withCmd_ready h _).trans ((if_neg (not_not.mpr hl)).trans (if_pos hr)))
  · exact congrArg Host.Outcome.next ((State.withCmd_ready h _).trans ((if_neg (not_not.mpr hl)).trans ((if_neg (by simp [hr])).trans (if_pos (by
      simpa only [Bool.or_eq_true, List.any_eq_true, List.mem_range, decide_eq_true_eq] using hb)))))

/-- The weather that a command stages, whether its commit is taken or not. -/
theorem State.policyReply_wx (u : State) (k : Cmd) : (u.policyReply k).rd R.cor_WX = u.rd R.cor_WX := by
  by_cases h : u.timeFor (u.applyOf k.e.apply) = true ∧ later (u.applyOf k.e.apply) u.tick32 = true
  · exact (State.policyReply_staged h.1 h.2).2.2
  · obtain ⟨e, he⟩ := State.policyReply_refused (u := u) (k := k) (by simpa [imp_iff_not_or] using h)
    rw [he, State.reply_rd _ _ _ _ _ (by decide), State.corNoTime_rd _ _ _ (by decide), State.rd_wr_ne _ _ (by decide)]

theorem weatherSet_stages {tag : Word} {k : Cmd} {s : State} (h : Ready s 0x0402 tag k) (hr : s.inReset .cor = false) (hw : k.par 0 2 ≤ 1024) :
    let at' := s.applyOf k.e.apply
    ∃ t, exec (.weatherSet tag) s = .next t ∧ t = (s.wr R.cor_WX (w32 (k.par 0 2))).policyReply k ∧ t.rd R.cor_WX = w32 (k.par 0 2) ∧ Ended k t ∧
      (s.timeFor at' = true → later at' s.tick32 = true → t.rb R.cor_COR_STAT 5 = true ∧ ∃ p, t.cor.polAt = some (s.fullTick at', p) ∧ p.wx = k.par 0 2) ∧
      (s.timeFor at' = false ∨ later at' s.tick32 = false → t.cor = s.cor) := by
  intro at'
  let u : State := s.wr R.cor_WX (w32 (k.par 0 2))
  have hx : exec (.weatherSet tag) s = .next (u.policyReply k) :=
    congrArg Host.Outcome.next ((State.withCmd_ready h _).trans ((if_neg (by simp [hr])).trans (if_neg (Nat.not_lt.mpr hw))))
  have hu : SameClock s u := .wr s _ (by decide)
  have ha : u.applyOf k.e.apply = at' := hu.applyOf _
  refine ⟨_, hx, rfl, (u.policyReply_wx k).trans (State.rd_wr_same _ _ _), u.policyReply_ended k, fun ht hl => ?_, fun hn => ?_⟩
  · obtain ⟨hpol, hbit, -⟩ := State.policyReply_staged (u := u) (k := k) (by rw [ha, hu.timeFor, ht]) (by rw [ha, hu.tick32, hl])
    rw [ha, hu.fullTick] at hpol
    exact ⟨hbit, _, hpol, u.stagedPolicy_wx.trans ((congrArg (fld · 0 11) (State.rd_wr_same _ _ _)).trans (fld_wx hw))⟩
  · obtain ⟨e, he⟩ := State.policyReply_refused (u := u) (k := k) (by rwa [ha, hu.timeFor, hu.tick32])
    rw [he, State.reply_cor, State.corNoTime_cor]
    rfl

theorem weatherSet_spec (tag : Word) (k : Cmd) (s : State) (h : Ready s 0x0402 tag k) :
    (s.inReset .cor = true → (∃ t, exec (.weatherSet tag) s = .next t ∧ t = s.reply k stBusy [] [] ∧ t.cor = s.cor ∧ Ended k t)) ∧
    (s.inReset .cor = false → 1024 < k.par 0 2 → (∃ t, exec (.weatherSet tag) s = .next t ∧ t = s.reply k stBadParam [] [] ∧ t.cor = s.cor ∧ Ended k t)) ∧
    (s.inReset .cor = false → k.par 0 2 ≤ 1024 → let at' := s.applyOf k.e.apply
      ∃ t, exec (.weatherSet tag) s = .next t ∧ t = (s.wr R.cor_WX (w32 (k.par 0 2))).policyReply k ∧ t.rd R.cor_WX = w32 (k.par 0 2) ∧ Ended k t ∧
        (s.timeFor at' = true → later at' s.tick32 = true → t.rb R.cor_COR_STAT 5 = true ∧ ∃ p, t.cor.polAt = some (s.fullTick at', p) ∧ p.wx = k.par 0 2) ∧
        (s.timeFor at' = false ∨ later at' s.tick32 = false → t.cor = s.cor)) := by
  refine ⟨fun hr => replied_cor ?_, fun hr hw => replied_cor ?_, weatherSet_stages h⟩
  · exact congrArg Host.Outcome.next ((State.withCmd_ready h _).trans (if_pos hr))
  · exact congrArg Host.Outcome.next ((State.withCmd_ready h _).trans ((if_neg (by simp [hr])).trans (if_pos hw)))

theorem tracksGet_spec (tag : Word) (k : Cmd) (s : State) (h : Ready s 0x0403 tag k) :
    (s.inReset .cor = true → (∃ t, exec (.tracksGet tag) s = .next t ∧ t = s.reply k stBusy [] [] ∧ t.cor = s.cor ∧ Ended k t)) ∧
    (s.inReset .cor = false → (∃ t, exec (.tracksGet tag) s = .next t ∧ t = s.reply k stOk [] ((List.range 1024).flatMap fun i => (List.range 4).flatMap fun j =>
      toLe 4 (trackWord (Sparse.find s.cor.view i) j).toNat) ∧ t.cor = s.cor ∧ Ended k t)) := by
  refine ⟨fun hr => replied_cor ?_, fun hr => replied_cor ?_⟩
  · exact congrArg Host.Outcome.next ((State.withCmd_ready h _).trans (if_pos hr))
  · exact congrArg Host.Outcome.next ((State.withCmd_ready h _).trans (if_neg (by simp [hr])))

/-! ### Modes (R276, R278, R286) -/

theorem State.announce_busy {s : State} (m : SegMode) (c : Nat) (tag : Option Word) (ring : Bool) (h : s.lvl.ann.isSome = true) :
    s.announce m c tag ring = (s, some 0x80) := if_pos h

theorem State.takeStripe_ann (s : State) (p : Bytes) : (s.takeStripe p).lvl.ann = s.lvl.ann := by
  unfold State.takeStripe
  extract_lets a code
  split
  · rfl
  · split
    · exact congrArg Lvl.ann (s.ledger_lvl _ _ _ _ _ _)
    · split
      · rfl
      · split
        · rfl
        · unfold State.pendChange
          extract_lets l tgt l'
          split
          · rfl
          · split <;> rfl

theorem State.queueStripe_ann (s : State) (n fade epoch : Nat) (apply : Word) : (s.queueStripe n fade epoch apply).lvl.ann = s.lvl.ann := by
  unfold State.queueStripe
  extract_lets p src t
  split
  · exact t.takeStripe_ann p
  · rfl

theorem State.prepareMode_lvl (s : State) (m : SegMode) (c : Nat) : (s.prepareMode m c).lvl = s.lvl :=
  (goes_prepareMode s m c rfl (.refl [.regs, .chn] s)).1 .lvl (by decide)

/-- A change that can be announced is, for its C. -/
theorem State.announce_announces {s : State} {m : SegMode} {c : Nat} (tag : Option Word) (ring : Bool) (hn : s.lvl.ann = none) (hm : m.op ≤ 2)
    (hc : c % 256 = 0) (ht : s.tick + 2304 ≤ c) (hh : ∀ l, m.hop = some l → s.hopListOk l = true) :
    ∃ v a, s.announce m c tag ring = (v, none) ∧ v.lvl.ann = some a ∧ a.mode = m ∧ a.c = c ∧ a.tag = tag := by
  unfold State.announce
  rw [if_neg (by simp [hn]), if_neg (by
    simp only [Bool.or_eq_true, decide_eq_true_eq]
    refine not_or.mpr ⟨by omega, ?_⟩
    cases h : m.hop with
    | none => simp
    | some l => simp [hh l h])]
  extract_lets e live t src p q
  have hp : p.lvl.ann = some ⟨e, c, c, m, t.tick, none, tag, ring⟩ := congrArg Lvl.ann (State.prepareMode_lvl _ m c)
  have hq : q.lvl.ann = p.lvl.ann := by
    show (if live then _ else p : State).lvl.ann = p.lvl.ann
    split
    · refine foldl_keeps (P := fun t : State => t.lvl.ann = p.lvl.ann) (fun t n h => ?_) _ rfl
      split
      · exact (t.queueStripe_ann _ _ _ _).trans h
      · exact h
    · rfl
  exact ⟨q, _, rfl, hq.trans hp, rfl, rfl, rfl⟩

theorem modeSet_announces {tag : Word} {k : Cmd} {s : State} (h : Ready s 0x0500 tag k) (hl : byteAt k.e.param 5 = 1 → k.e.length = 128)
    (hm : modeParamOk k.e.param = true) (hh : s.isHead = true) (ht : s.takes .lvl = true) (hs : s.holds = true) :
    let m := modeParam k.e.param k.bytes
    let u := { s with lvl := { s.lvl with hopData := m.hop.getD s.lvl.hopData } }
    let c := if k.e.apply = 0 then s.firstC 9 else s.fullTick k.e.apply
    (s.lvl.ann.isSome = true → (∃ t, exec (.modeSet tag) s = .next t ∧ t = u.reply k stFault (toLe 1 0x80) [] ∧ t.lvl = u.lvl ∧ Ended k t)) ∧
    (s.lvl.ann = none → c % 256 = 0 → s.tick + 2304 ≤ c → (∀ l, m.hop = some l → s.hopListOk l = true) → ∃ t a, exec (.modeSet tag) s = .next t ∧ t.lvl.ann = some a ∧
      a.mode = m ∧ a.c = c ∧ a.tag = some tag ∧ t.mbx.m2h = s.mbx.m2h ∧ ChangesOnly (touches (.modeSet tag)) s t) := by
  intro m u c
  have hx : exec (.modeSet tag) s = .next (match u.announce m c (some tag) false with
      | (v, none) => v.defer k
      | (v, some e) => if e = 0x80 then v.reply k stFault (toLe 1 0x80) [] else v.reply k stBadParam [] []) :=
    congrArg Host.Outcome.next ((State.withCmd_ready h _).trans ((if_neg fun ⟨h5, hne⟩ => hne (hl h5)).trans ((if_neg (by simp [hm])).trans
      ((if_neg (by simp [hh, ht])).trans (if_neg (by simp [hs]))))))
  refine ⟨fun hn => ?_, fun hn hc hk hop => ?_⟩
  · rw [State.announce_busy (s := u) m c _ _ hn] at hx
    dsimp only at hx
    rw [if_pos rfl] at hx
    exact ⟨_, hx, rfl, u.reply_lvl _ _ _ _, u.reply_ended _ _ _ _⟩
  · have h2 : m.op ≤ 2 := by
      simp only [modeParamOk, Bool.and_eq_true, decide_eq_true_eq] at hm
      exact hm.1.1.1.1
    obtain ⟨v, a, ha, hann, hmode, hca, htag⟩ := State.announce_announces (s := u) (some tag) false hn h2 hc hk hop
    have hmbx : (u.announce m c (some tag) false).1.mbx = u.mbx :=
      (goes_announce u m c (some tag) false rfl (.refl [.regs, .out, .que, .ldg, .nvs, .rad, .chn, .lnk, .net, .lvl, .pba] u)).1 .mbx (by decide)
    rw [ha] at hmbx hx
    dsimp only at hmbx hx
    have hm2h : (v.defer k).mbx.m2h = v.mbx.m2h := rfl
    exact ⟨_, a, hx, hann, hmode, hca, htag, hm2h.trans (congrArg Mbx.m2h hmbx), (exec_goes hx).1⟩

theorem modeSet_spec (tag : Word) (k : Cmd) (s : State) (h : Ready s 0x0500 tag k) : let m := modeParam k.e.param k.bytes
    (byteAt k.e.param 5 = 1 → k.e.length ≠ 128 → (∃ t, exec (.modeSet tag) s = .next t ∧ t = s.reply k stBadLength [] [] ∧ t.lvl = s.lvl ∧ Ended k t)) ∧
    ((byteAt k.e.param 5 = 1 → k.e.length = 128) → modeParamOk k.e.param = false → (∃ t, exec (.modeSet tag) s = .next t ∧ t = s.reply k stBadParam [] [] ∧ t.lvl = s.lvl ∧ Ended k t)) ∧
    ((byteAt k.e.param 5 = 1 → k.e.length = 128) → modeParamOk k.e.param = true →
      ((s.isHead = false ∨ s.takes .lvl = false) → (∃ t, exec (.modeSet tag) s = .next t ∧ t = s.reply k stBusy [] [] ∧ t.lvl = s.lvl ∧ Ended k t)) ∧
      (s.isHead = true → s.takes .lvl = true → s.holds = false → (∃ t, exec (.modeSet tag) s = .next t ∧ t = (s.noTime .lvl k.e.apply).reply k stNoTime [] [] ∧ Ended k t)) ∧
      (s.isHead = true → s.takes .lvl = true → s.holds = true → let u := { s with lvl := { s.lvl with hopData := m.hop.getD s.lvl.hopData } }
        let c := if k.e.apply = 0 then s.firstC 9 else s.fullTick k.e.apply
        (s.lvl.ann.isSome = true → (∃ t, exec (.modeSet tag) s = .next t ∧ t = u.reply k stFault (toLe 1 0x80) [] ∧ t.lvl = u.lvl ∧ Ended k t)) ∧
        (s.lvl.ann = none → c % 256 = 0 → s.tick + 2304 ≤ c → (∀ l, m.hop = some l → s.hopListOk l = true) → ∃ t a, exec (.modeSet tag) s = .next t ∧ t.lvl.ann = some a ∧
          a.mode = m ∧ a.c = c ∧ a.tag = some tag ∧ t.mbx.m2h = s.mbx.m2h ∧ ChangesOnly (touches (.modeSet tag)) s t))) := by
  intro m
  have sized (hl : byteAt k.e.param 5 = 1 → k.e.length = 128) : ¬ (byteAt k.e.param 5 = 1 ∧ k.e.length ≠ 128) := fun ⟨h5, hne⟩ => hne (hl h5)
  refine ⟨fun h5 hl => replied_lvl rfl ?_, fun hl hm => replied_lvl rfl ?_,
    fun hl hm => ⟨fun hb => replied_lvl rfl ?_, fun hh ht hs => replied_ends ?_, modeSet_announces h hl hm⟩⟩
  · exact congrArg Host.Outcome.next ((State.withCmd_ready h _).trans (if_pos ⟨h5, hl⟩))
  · exact congrArg Host.Outcome.next ((State.withCmd_ready h _).trans ((if_neg (sized hl)).trans (if_pos (by simp [hm]))))
  · exact congrArg Host.Outcome.next ((State.withCmd_ready h _).trans ((if_neg (sized hl)).trans ((if_neg (by simp [hm])).trans (if_pos (by simpa using hb)))))
  · exact congrArg Host.Outcome.next ((State.withCmd_ready h _).trans ((if_neg (sized hl)).trans ((if_neg (by simp [hm])).trans
      ((if_neg (by simp [hh, ht])).trans (if_pos (by simp [hs]))))))

/-- What withdrawing an announced change leaves: nothing where it is too late, and no change announced where it is in time. -/
theorem State.cancelAnn_cases {s : State} {a : Announce} (h : s.lvl.ann = some a) :
    s.cancelAnn = (s, 2) ∨ s.cancelAnn.2 = 1 ∧ s.cancelAnn.1.lvl.ann = none := by
  unfold State.cancelAnn
  split
  · next hn => cases hn.symm.trans h
  · next b hb =>
    extract_lets first left x src v
    split
    · exact .inl rfl
    · have hv : ((v.unprepareMode b.mode).replyTag b.tag stCancelled).lvl = v.lvl :=
        (goes_replyTag _ _ _ rfl (goes_unprepareMode v b.mode rfl (.refl [.regs, .out, .mbx, .chn, .pba] v))).1 .lvl (by decide)
      exact .inr ⟨rfl, congrArg Lvl.ann hv⟩

theorem modeCancel_spec (tag : Word) (k : Cmd) (s : State) (h : Ready s 0x0501 tag k) :
    (s.lvl.ann = none → (∃ t, exec (.modeCancel tag) s = .next t ∧ t = s.reply k stOk (toLe 1 0) [] ∧ t.lvl = s.lvl ∧ Ended k t)) ∧
    (∀ u, s.cancelAnn = (u, 2) → (∃ t, exec (.modeCancel tag) s = .next t ∧ t = u.reply k stFault (toLe 1 0x80) [] ∧ t.lvl = s.lvl ∧ Ended k t)) ∧
    (∀ u, s.cancelAnn = (u, 1) → ∃ t, exec (.modeCancel tag) s = .next t ∧ t = u.reply k stOk (toLe 1 1) [] ∧ t.lvl.ann = none ∧ Ended k t) := by
  have none_is {u : State} {n : Nat} (hc : s.cancelAnn = (u, n)) (hn : s.lvl.ann = none) : n = 0 := by
    rw [State.cancelAnn, hn] at hc
    exact (Prod.ext_iff.mp hc).2.symm
  have hx : exec (.modeCancel tag) s = execModeCancel tag s := rfl
  refine ⟨fun hn => replied_lvl rfl ?_, fun u hc => replied_lvl ?_ ?_, fun u hc => ?_⟩
  · have hc : s.cancelAnn = (s, 0) := by rw [State.cancelAnn, hn]
    simp [hx, execModeCancel, State.withCmd_ready h, hc]
  · cases ha : s.lvl.ann with
    | none => exact absurd (none_is hc ha) (by decide)
    | some a =>
      rcases State.cancelAnn_cases ha with e | ⟨e, -⟩ <;> rw [hc] at e
      · exact congrArg (fun p : State × Nat => p.1.lvl) e
      · cases e
  · simp [hx, execModeCancel, State.withCmd_ready h, hc]
  · have hx : exec (.modeCancel tag) s = .next (u.reply k stOk (toLe 1 1) []) := by simp [hx, execModeCancel, State.withCmd_ready h, hc]
    have hu : u.lvl.ann = none := by
      cases ha : s.lvl.ann with
      | none => exact absurd (none_is hc ha) (by decide)
      | some a =>
        rcases State.cancelAnn_cases ha with e | ⟨-, e⟩ <;> rw [hc] at e
        · cases e
        · exact e
    exact ⟨_, hx, rfl, (congrArg Lvl.ann (u.reply_lvl _ _ _ _)).trans hu, u.reply_ended _ _ _ _⟩

theorem modeStatus_answers (tag : Word) (k : Cmd) (s : State) (h : Ready s 0x0502 tag k) : (∃ t, exec (.modeStatus tag) s = .next t ∧
    t = s.reply k stOk (toLe 2 s.epoch ++ toLe 2 s.appliedN ++ toLe 2 s.lvl.late) ((List.range 128).flatMap fun i => toLe 4 (s.rn (R.lvl_APPLIEDi i))) ∧
    t.lvl = s.lvl ∧ Ended k t) :=
  replied_lvl rfl (congrArg Host.Outcome.next (State.withCmd_ready h _))

/-! ### The schedule's points (R286) -/

theorem schedPush_spec (tag : Word) (k : Cmd) (s : State) (h : Ready s 0x0504 tag k) : let n := k.e.length / 6
    ((k.e.length % 6 ≠ 0 ∨ 8 < n) → (∃ t, exec (.schedPush tag) s = .next t ∧ t = s.reply k stBadLength [] [] ∧ Ended k t)) ∧
    (k.e.length % 6 = 0 → n ≤ 8 → s.isHead = false → (∃ t, exec (.schedPush tag) s = .next t ∧ t = s.reply k stBusy [] [] ∧ Ended k t)) ∧
    (k.e.length % 6 = 0 → n ≤ 8 → s.isHead = true → (∃ r ∈ s.net.nodes, r.index = k.par 0 2 ∧ r.st = 3) → (∀ j < n, le k.bytes (6 * j) 4 ≤ 86399) →
      ∃ t, exec (.schedPush tag) s = .next t ∧ t = (s.commandTo (k.par 0 2) 0x0512 (toLe 1 n ++ k.bytes)).reply k stOk [] [] ∧ Ended k t) ∧
    (k.e.length % 6 = 0 → n ≤ 8 → s.isHead = true → ((∀ r ∈ s.net.nodes, r.index = k.par 0 2 → r.st ≠ 3) ∨ ∃ j < n, 86399 < le k.bytes (6 * j) 4) →
      ∃ t, exec (.schedPush tag) s = .next t ∧ t = s.reply k stBadParam [] [] ∧ Ended k t) := by
  intro n
  have sized (h6 : k.e.length % 6 = 0) (h8 : n ≤ 8) : ¬ (k.e.length % 6 ≠ 0 ∨ 8 < k.e.length / 6) := not_or.mpr ⟨not_not.mpr h6, Nat.not_lt.mpr h8⟩
  refine ⟨fun hl => replied_ends ?_, fun h6 h8 hh => replied_ends ?_, fun h6 h8 hh hr hj => replied_ends ?_, fun h6 h8 hh hb => replied_ends ?_⟩
  · exact congrArg Host.Outcome.next ((State.withCmd_ready h _).trans (if_pos hl))
  · exact congrArg Host.Outcome.next ((State.withCmd_ready h _).trans ((if_neg (sized h6 h8)).trans (if_pos (by simp [hh]))))
  · refine congrArg Host.Outcome.next ((State.withCmd_ready h _).trans ((if_neg (sized h6 h8)).trans ((if_neg (by simp [hh])).trans (if_neg ?_))))
    simpa [n] using ⟨hr, hj⟩
  · refine congrArg Host.Outcome.next ((State.withCmd_ready h _).trans ((if_neg (sized h6 h8)).trans ((if_neg (by simp [hh])).trans (if_pos ?_))))
    simpa [n] using hb

/-- Settles O60, clause by clause. -/
theorem headCommandsOfTheMailbox : Obligations.HeadCommandsOfTheMailbox :=
  ⟨⟨nodeEnroll_denied, nodeEnroll_accepted, enrolKey_new, enrolKey_known, nodeRemove_spec, nodeTable_spec, joinCtrl_spec⟩,
    ⟨graphLoad_spec, graphLoad_waits, policySet_spec, weatherSet_spec, tracksGet_spec⟩,
    modeSet_spec, modeCancel_spec, modeStatus_answers, schedPush_spec⟩

end Sys2Proof.Machine
end

section
/-! SUPPORT. What measurements, steps and answers of network time leave of CNT and of the registers that hold a captured PPS edge. -/

namespace Sys2Proof.Machine

open Sys2Proof

/-! ### What follows the capture of an edge -/

/-- CNT and the captured PPS edge are the same in two states. -/
def KeepsCapture (s t : State) : Prop :=
  t.cnt = s.cnt ∧ t.rd R.ntm_PPS_CAP_LO = s.rd R.ntm_PPS_CAP_LO ∧ t.rd R.ntm_PPS_CAP_HI = s.rd R.ntm_PPS_CAP_HI

theorem KeepsCapture.refl (s : State) : KeepsCapture s s := ⟨rfl, rfl, rfl⟩

theorem KeepsCapture.trans {s t u : State} (h : KeepsCapture s t) (h' : KeepsCapture t u) : KeepsCapture s u := by
  obtain ⟨hc, hl, hh⟩ := h
  obtain ⟨hc', hl', hh'⟩ := h'
  exact ⟨hc'.trans hc, hl'.trans hl, hh'.trans hh⟩

/-- What an operation keeps, after what went before it. -/
theorem KeepsCapture.after {s t u : State} (h' : KeepsCapture t u) (h : KeepsCapture s t) : KeepsCapture s u := h.trans h'

theorem KeepsCapture.ite {s t u : State} {c : Prop} [Decidable c] (ht : KeepsCapture s t) (hu : KeepsCapture s u) : KeepsCapture s (if c then t else u) := by
  split <;> assumption

/-- A change of other parts of the state. -/
theorem KeepsCapture.set {s t : State} (hc : t.cnt = s.cnt) (hr : t.regs = s.regs) (hm : t.modId = s.modId) : KeepsCapture s t :=
  ⟨hc, State.rd_congr hr hm _, State.rd_congr hr hm _⟩

section
variable (s : State)

theorem State.wr_keepsCapture {a : Nat} (v : Word) (h : a ∉ [R.ntm_PPS_CAP_LO, R.ntm_PPS_CAP_HI]) : KeepsCapture s (s.wr a v) :=
  ⟨rfl, s.rd_wr_ne v fun e => h (by simp [← e]), s.rd_wr_ne v fun e => h (by simp [← e])⟩

theorem State.wf_keepsCapture {a : Nat} (lo n v : Nat) (h : a ∉ [R.ntm_PPS_CAP_LO, R.ntm_PPS_CAP_HI]) : KeepsCapture s (s.wf a lo n v) := s.wr_keepsCapture _ h

theorem State.bump_keepsCapture {a : Nat} (n : Nat) (h : a ∉ [R.ntm_PPS_CAP_LO, R.ntm_PPS_CAP_HI]) : KeepsCapture s (s.bump a n) := s.wr_keepsCapture _ h

theorem State.irq_keepsCapture (b : Blk) (i : Nat) : KeepsCapture s (s.irq b i) :=
  ⟨s.irq_cnt b i, s.irq_rd_past b i (by decide), s.irq_rd_past b i (by decide)⟩

theorem State.err_keepsCapture (b : Blk) (code off : Nat) (m : Master) : KeepsCapture s (s.err b code off m) :=
  ⟨s.err_cnt b code off m, s.err_rd_past b code off m (by decide), s.err_rd_past b code off m (by decide)⟩

theorem State.event_keepsCapture (code src : Nat) (p : Bytes) : KeepsCapture s (s.event code src p) :=
  ⟨s.event_cnt code src p, s.event_rd code src p (by decide) (by decide), s.event_rd code src p (by decide) (by decide)⟩

/-! ### Anchor, steps and states (R227, R228, R237, R238) -/

/-- Setting OFFSET and ANCHOR writes their registers alone. -/
theorem State.setAnchor_regsOnly (off : Nat) (c : DWord) :
    RegsOnly [R.ntm_OFFSET_FRAC, R.ntm_OFFSET_NS_LO, R.ntm_OFFSET_NS_HI, R.ntm_ANCHOR_LO, R.ntm_ANCHOR_HI] s (s.setAnchor off c) :=
  (((RegsOnly.wr s _ _).mono (by decide)).trans ((State.wr64_regsOnly _ _ _ _).mono (by decide))).trans ((State.wr64_regsOnly _ _ _ _).mono (by decide))

theorem State.setAnchor_keepsCapture (off : Nat) (c : DWord) : KeepsCapture s (s.setAnchor off c) :=
  ⟨rfl, s.setAnchor_regsOnly off c _ (by decide), s.setAnchor_regsOnly off c _ (by decide)⟩

theorem State.setTm_keepsCapture (st : Nat) : KeepsCapture s (s.setTm st) := s.wf_keepsCapture _ _ _ (by decide)

theorem State.toTm_keepsCapture (st : Nat) : KeepsCapture s (s.toTm st) := by
  unfold State.toTm
  refine .ite (.refl s) ?_
  extract_lets t
  have ht : KeepsCapture s t := s.setTm_keepsCapture st
  exact .ite (ht.trans ((t.irq_keepsCapture _ _).trans (State.event_keepsCapture _ _ _ _))) ht

theorem State.stepped_keepsCapture (e : Int) : KeepsCapture s (s.stepped e) :=
  ((s.bump_keepsCapture 1 (by decide)).trans (State.irq_keepsCapture _ _ _)).trans (State.event_keepsCapture _ _ _ _)

theorem State.stepNow_keepsCapture (e : Int) (c : DWord) : KeepsCapture s (s.stepNow e c) := by
  unfold State.stepNow
  extract_lets n t
  exact (s.setAnchor_keepsCapture n c).trans (.set rfl rfl rfl)

theorem State.measureFirst_keepsCapture (e : Int) (c : DWord) : KeepsCapture s (s.measureFirst e c) := by
  unfold State.measureFirst
  extract_lets t
  have ht : KeepsCapture s t := (s.stepNow_keepsCapture e c).trans (State.setTm_keepsCapture _ 1)
  exact (State.stepped_keepsCapture _ e).after (KeepsCapture.after (.set rfl rfl rfl) ht)

theorem State.servo_keepsCapture (e d : Int) (c : DWord) : KeepsCapture s (s.servo e d c) := by
  unfold State.servo
  extract_lets f r ok g t
  have ht : KeepsCapture s t := (s.wr_keepsCapture _ (by decide)).trans ((State.setAnchor_keepsCapture _ _ c).trans (State.wr_keepsCapture _ _ (by decide)))
  have state (u : State) : KeepsCapture u (u.servoState ok g) :=
    .ite (u.toTm_keepsCapture 2) (.ite (.ite (u.toTm_keepsCapture 2) (u.toTm_keepsCapture 1)) (.refl u))
  exact (state _).after (KeepsCapture.after (.set rfl rfl rfl) ht)

theorem State.measure_keepsCapture (e : Int) (c : DWord) : KeepsCapture s (s.measure e c) := by
  unfold State.measure
  refine .ite (.refl s) ?_
  extract_lets d u t
  have ht : KeepsCapture s t := (State.wr_keepsCapture _ _ (by decide)).after (.set rfl rfl rfl)
  refine .ite (ht.trans (t.measureFirst_keepsCapture e _)) (.ite (ht.trans (t.servo_keepsCapture e d _)) (ht.trans ?_))
  exact (State.setTm_keepsCapture _ 1).after (.set rfl rfl rfl)

/-! ### PPS and time of day (R239-R241) -/

theorem State.ppsMeasure_keepsCapture (e : Int) (c : DWord) : KeepsCapture s (s.ppsMeasure e c) :=
  (State.measure_keepsCapture _ e c).after (.set rfl rfl rfl)

theorem State.todReply_keepsCapture (st : Nat) (p : Bytes) : KeepsCapture s (s.todReply st p) :=
  ⟨(goes_todReply s st p rfl (.refl [.regs, .out, .mbx, .ntm, .pba] s)).1 .cnt (by decide), s.todReply_pages st p _ (by decide), s.todReply_pages st p _ (by decide)⟩

theorem State.ppsHeld_keepsCapture (own : Int) (c : DWord) : KeepsCapture s (s.ppsHeld own c) := by
  unfold State.ppsHeld
  extract_lets sec e ntm t j
  have ht : KeepsCapture s t := .set rfl rfl rfl
  have measured : KeepsCapture s ({ t with ntm := { t.ntm with jumps := [] } }.ppsMeasure e c) := (State.ppsMeasure_keepsCapture _ e c).after (.set rfl rfl rfl)
  exact .ite (s.irq_keepsCapture _ _) (.ite measured (.ite measured ((State.irq_keepsCapture _ _ _).after (.set rfl rfl rfl))))

theorem State.todHeld_keepsCapture (own : Int) (k : TodWait) : KeepsCapture s (s.todHeld own k) :=
  .ite (s.todReply_keepsCapture _ _) (.ite ((State.todReply_keepsCapture _ _ _).after (.set rfl rfl rfl)) ((s.err_keepsCapture _ _ _ _).trans (State.todReply_keepsCapture _ _ _)))

/-- An edge is captured first; what it sets in motion leaves the capture (R240). -/
theorem State.ppsEdge_keepsCapture (c : DWord) : KeepsCapture ((s.at c).wr64 R.ntm_PPS_CAP_LO R.ntm_PPS_CAP_HI c.toNat) (s.ppsEdge c) := by
  unfold State.ppsEdge
  extract_lets t own ripe ntm d u ntm' v
  have hv : KeepsCapture t v := by
    have hu : KeepsCapture t u := t.wr_keepsCapture _ (by decide)
    exact .ite (hu.trans (u.ppsHeld_keepsCapture own c)) (hu.trans (.set rfl rfl rfl))
  clear_value v ripe
  refine .ite ?_ ?_
  · cases ripe with
    | none => exact .refl t
    | some k => exact (State.todReply_keepsCapture _ _ _).after (KeepsCapture.after (State.ppsMeasure_keepsCapture _ _ c) (.set rfl rfl rfl))
  · cases ripe with
    | none => exact hv
    | some k => exact hv.trans (v.todHeld_keepsCapture own k)

end

end Sys2Proof.Machine
end

section
/-! PROOFS. The servo's limits; and reads, snapshots, steps and loads of network time. -/

namespace Sys2Proof.Machine

open Sys2Proof

/-! ### The servo (R237) -/

/-- A value limited to a symmetric range lies within it. -/
theorem clampI_within {r : Int} (h : 0 ≤ r) (v : Int) : -r ≤ clampI (-r) r v ∧ clampI (-r) r v ≤ r := by
  unfold clampI
  split
  · omega
  · split <;> omega

theorem ppbRate_nonneg (n : Nat) : 0 ≤ ppbRate n 1 := Int.ediv_nonneg (by positivity) (by decide)

/-- Settles O25: both are limited to a range whose ends are rates of a number of ppb that is not negative. -/
theorem servoStaysInItsLimits : Obligations.ServoStaysInItsLimits := by
  intro first freq e d k n
  obtain ⟨freqLo, freqHi⟩ := clampI_within (ppbRate_nonneg 5000) (freq + perTime (if first then e * 1073741824 else e * k * 4194304) d)
  obtain ⟨slewLo, slewHi⟩ := clampI_within (ppbRate_nonneg n) (perTime (e * k * 4194304) d)
  exact ⟨freqLo, freqHi, slewLo, slewHi⟩

/-! ### Reads and snapshots (R226, R227) -/

theorem cntRead_spec (m : Master) (c : DWord) (s : State) (h : PageOpen s .ntm m) :
    ∃ t, exec (.cntRead m c) s = .next t ∧ t = ({ s.at c with ntm := { s.ntm with cntHi := w32 (c.toNat / 2 ^ 32) } }).answer (.data (w32 c.toNat)) ∧
      t.resp = .data (w32 c.toNat) ∧ t.ntm.cntHi = w32 (c.toNat / 2 ^ 32) :=
  ⟨_, congrArg Host.Outcome.next (State.readAt_open h _ _), rfl, rfl, rfl⟩

theorem tickRead_spec (m : Master) (s : State) (h : PageOpen s .ntm m) :
    ∃ t, exec (.tickRead m) s = .next t ∧ t = { s with ntm := { s.ntm with tickHi := w32 (s.tick / 2 ^ 32) } }.answer (.data s.tick32) ∧
      t.resp = .data s.tick32 ∧ t.ntm.tickHi = w32 (s.tick / 2 ^ 32) :=
  ⟨_, congrArg Host.Outcome.next (State.readAt_open h _ _), rfl, rfl, rfl⟩

/-- A snapshot holds the counter value and the network time of one instant. -/
theorem State.snap_values (s : State) (c : DWord) : (s.snap c).rd64 R.ntm_SNAP_CNT_LO R.ntm_SNAP_CNT_HI = c.toNat ∧
    (s.snap c).rd R.ntm_SNAP_FRAC = w32 (s.nt c % 2 ^ 16) ∧ (s.snap c).rd64 R.ntm_SNAP_NS_LO R.ntm_SNAP_NS_HI = s.nt c / 2 ^ 16 % 2 ^ 64 := by
  let u := (s.at c).wr64 R.ntm_SNAP_CNT_LO R.ntm_SNAP_CNT_HI c.toNat
  let v := u.wr R.ntm_SNAP_FRAC (w32 (s.nt c % 2 ^ 16))
  have hv {a : Nat} (h : a ∉ [R.ntm_SNAP_NS_LO, R.ntm_SNAP_NS_HI]) : (s.snap c).rd a = v.rd a := v.wr64_regsOnly _ _ _ a h
  refine ⟨?_, ?_, v.rd64_wr64 _ (by decide)⟩
  · have hu {a : Nat} (h : a ∉ [R.ntm_SNAP_NS_LO, R.ntm_SNAP_NS_HI]) (hf : a ≠ R.ntm_SNAP_FRAC) : (s.snap c).rn a = u.rn a :=
      congrArg BitVec.toNat ((hv h).trans (u.rd_wr_ne _ hf))
    rw [State.rd64, hu (by decide) (by decide), hu (by decide) (by decide)]
    exact ((s.at c).rd64_wr64 _ (by decide)).trans (Nat.mod_eq_of_lt c.isLt)
  · rw [hv (by decide)]
    exact u.rd_wr_same _ _

theorem snap_spec (m : Master) (v : Word) (c : DWord) (s : State) (h : PageOpen s .ntm m) :
    ∃ t, exec (.snap m v c) s = .next t ∧ t.resp = .done ∧ t.cnt = (s.at c).cnt ∧
      t.rd64 R.ntm_SNAP_CNT_LO R.ntm_SNAP_CNT_HI = c.toNat ∧ t.rd R.ntm_SNAP_FRAC = w32 (s.nt c % 2 ^ 16) ∧
      t.rd64 R.ntm_SNAP_NS_LO R.ntm_SNAP_NS_HI = s.nt c / 2 ^ 16 % 2 ^ 64 ∧ ChangesOnly [.regs, .resp, .cnt] s t := by
  obtain ⟨cnt, frac, ns⟩ := s.snap_values c
  exact ⟨_, congrArg Host.Outcome.next (State.writeAt_open h _ _ _), rfl, rfl, cnt, frac, ns, (goes_answer _ _ rfl (goes_snap s c rfl (.refl _ s))).1⟩

/-! ### Steps (R238) -/

theorem stepGo_spec (m : Master) (v : Word) (s : State) (h : PageOpen s .ntm m) (hv : tst v 0 = true) (hh : s.holds = true) :
    ∃ t, exec (.stepGo m v) s = .next t ∧
      t = (({ s with ntm := { s.ntm with step := some (sgn 64 (s.rd64 R.ntm_STEP_NS_LO R.ntm_STEP_NS_HI) * 2 ^ 16) } }).wr R.ntm_STEP_CTRL 1).answer .done ∧
      t.ntm.step = some (sgn 64 (s.rd64 R.ntm_STEP_NS_LO R.ntm_STEP_NS_HI) * 2 ^ 16) ∧ t.rd R.ntm_STEP_CTRL = 1 ∧ t.resp = .done := by
  refine ⟨_, congrArg Host.Outcome.next (State.writeAt_open h _ _ _), ?_⟩
  let u : State := { s with ntm := { s.ntm with step := some (sgn 64 (s.rd64 R.ntm_STEP_NS_LO R.ntm_STEP_NS_HI) * 2 ^ 16) } }
  rw [show s.stepGo m v = u.wr R.ntm_STEP_CTRL 1 by simp [State.stepGo, hv, hh, u]]
  exact ⟨rfl, rfl, u.rd_wr_same R.ntm_STEP_CTRL 1, rfl⟩

theorem stepGo_noTime (m : Master) (v : Word) (s : State) (h : PageOpen s .ntm m) (hv : tst v 0 = true) (hh : s.holds = false) :
    exec (.stepGo m v) s = .next ((s.err .ntm eNoTime 0x98 m).answer .done) := by
  refine congrArg Host.Outcome.next ((State.writeAt_open h _ _ _).trans ?_)
  simp [State.stepGo, hv, hh]

/-- NTM once a staged step of `e` has been applied at its edge: a step back keeps the latest tick already begun. -/
def State.stepTaken (s : State) (e : Int) : Ntm :=
  { s.ntm with
    step := none, stepDue := false, stepHold := true
    ppsNext := s.ntm.ppsNext.map fun n => ((n : Int) + nearestSec (e / 2 ^ 16)).toNat
    passed := if e < 0 then some (max (s.ntm.passed.getD 0) s.ntm.tick) else s.ntm.passed }

/-- At its edge a step moves the time by `e`, and is counted and recorded. -/
theorem State.timeStep_due {s : State} {e : Int} (hs : s.ntm.step = some e) (hh : s.holds = true) (hd : s.ntm.stepDue = true) :
    s.timeStep s.edgeCnt = ((({ s with ntm := s.stepTaken e }).setAnchor (((s.nt s.edgeCnt : Int) + e).toNat % 2 ^ 80) s.edgeCnt).wr R.ntm_STEP_CTRL 0).stepped e := by
  simp only [State.timeStep, hs, hh, hd, Bool.not_true, ne_eq, not_true_eq_false, decide_false, Bool.or_self, Bool.false_eq_true, if_false]
  by_cases he : e < 0
  · rw [if_pos he, State.stepTaken, if_pos he]
    rfl
  · rw [if_neg he, State.stepTaken, if_neg he]
    rfl

/-- Counting and recording a step writes STEP_CNT alone, past the headers of the pages and outside LDG and MBX. -/
theorem State.stepped_rd (s : State) (e : Int) {a : Nat} (h : PastHeader a) (hl : a / 0x1000 ≠ 0x2A) (hm : a / 0x1000 ≠ 0x2E) :
    (s.stepped e).rd a = (s.bump R.ntm_STEP_CNT 1).rd a :=
  (State.event_rd _ _ _ _ hl hm).trans (State.irq_rd_past _ _ _ h)

theorem State.stepped_changes (s : State) (e : Int) : ChangesOnly [.regs, .out, .mbx, .ldg, .pba] s (s.stepped e) := (goes_stepped s e rfl (.refl _ s)).1

theorem State.stepped_ntm (s : State) (e : Int) : (s.stepped e).ntm = s.ntm := s.stepped_changes e .ntm (by decide)

theorem timeStep_spec (e : Int) (c : DWord) (s : State) (hs : s.ntm.step = some e) (hh : s.holds = true) (hd : s.ntm.stepDue = true) (hc : c = s.edgeCnt) :
    ∃ t, exec (.timeStep c) s = .next t ∧ t.ntm.step = none ∧ t.ntm.stepHold = true ∧ t.cnt = (s.at c).cnt ∧
      t.rd R.ntm_STEP_CTRL = 0 ∧ t.rd R.ntm_STEP_CNT = s.rd R.ntm_STEP_CNT + 1 ∧ (e < 0 → t.ntm.passed = some (max (s.ntm.passed.getD 0) s.ntm.tick)) ∧
      ChangesOnly (touches (.timeStep c)) s t := by
  subst hc
  have hx : exec (.timeStep s.edgeCnt) s = .next _ := congrArg Host.Outcome.next (State.timeStep_due (s := s.at s.edgeCnt) hs hh hd)
  refine ⟨_, hx, ?_, ?_, ?_, ?_, ?_, fun he => ?_, (exec_goes hx).1⟩
  · exact congrArg Ntm.step (State.stepped_ntm _ e)
  · exact congrArg Ntm.stepHold (State.stepped_ntm _ e)
  · exact State.stepped_changes _ e .cnt (by decide)
  · rw [State.stepped_rd _ e (by decide) (by decide) (by decide)]
    exact (State.rd_wr_ne _ _ (by decide)).trans (State.rd_wr_same _ _ _)
  · rw [State.stepped_rd _ e (by decide) (by decide) (by decide), State.bump, State.rd_wr_same, State.rd_wr_ne _ _ (by decide), State.setAnchor_regsOnly _ _ _ _ (by decide)]
    rfl
  · exact (congrArg Ntm.passed (State.stepped_ntm _ e)).trans (if_pos he)

/-! ### The anchor set (R225, R228) -/

/-- The staged words and the written one are loaded together, and the state becomes ACQUIRE. -/
theorem State.offsetLoad_open {s : State} (m : Master) (v : Word) (c : DWord) (h0 : s.tmState = 0) (hs : s.rb R.ntm_NTM_CFG 2 = false) :
    (s.offsetLoad m v c).tmState = 1 ∧ (s.offsetLoad m v c).rd R.ntm_OFFSET_NS_HI = v ∧
      (s.offsetLoad m v c).rd R.ntm_OFFSET_NS_LO = (s.ntm.stage.getD 3 none).getD (s.rd R.ntm_OFFSET_NS_LO) ∧
      (s.offsetLoad m v c).rd R.ntm_ANCHOR_LO = (s.ntm.stage.getD 0 none).getD (s.rd R.ntm_ANCHOR_LO) ∧
      (s.offsetLoad m v c).ntm.stage = [none, none, none, none] ∧ (s.offsetLoad m v c).cnt = (s.at c).cnt := by
  unfold State.offsetLoad
  rw [if_neg (by simp [State.anchorOpen, h0, hs])]
  extract_lets pick al ah fr lo u t
  have ht {a : Nat} (ha : a ≠ R.ntm_NTM_STAT) : t.rd a = u.rd a := State.setTm_rd_ne _ 1 ha
  have hi : u.rd R.ntm_OFFSET_NS_HI = v := State.rd_wr_same _ _ _
  have low : u.rd R.ntm_OFFSET_NS_LO = lo := (State.rd_wr_ne _ _ (by decide)).trans (State.rd_wr_same _ _ _)
  have anchor : u.rd R.ntm_ANCHOR_LO = al := by simp (disch := decide) only [u, State.rd_wr_ne, State.rd_wr_same]
  have hcnt : u.cnt = s.cnt := rfl
  clear_value u
  refine ⟨(u.at c).setTm_state (by decide), (ht (by decide)).trans hi, (ht (by decide)).trans low, (ht (by decide)).trans anchor, rfl, ?_⟩
  show (u.at c).cnt = (s.at c).cnt
  rw [State.at_cnt, hcnt, State.at_cnt]

theorem offsetLoad_spec (m : Master) (v : Word) (c : DWord) (s : State) (h : PageOpen s .ntm m) (h0 : s.tmState = 0) (hs : s.rb R.ntm_NTM_CFG 2 = false) :
    ∃ t, exec (.offsetLoad m v c) s = .next t ∧
      t.tmState = 1 ∧ t.rd R.ntm_OFFSET_NS_HI = v ∧ t.rd R.ntm_OFFSET_NS_LO = (s.ntm.stage.getD 3 none).getD (s.rd R.ntm_OFFSET_NS_LO) ∧
      t.rd R.ntm_ANCHOR_LO = (s.ntm.stage.getD 0 none).getD (s.rd R.ntm_ANCHOR_LO) ∧ t.ntm.stage = [none, none, none, none] ∧ t.cnt = (s.at c).cnt ∧
      ChangesOnly (touches (.offsetLoad m v c)) s t := by
  have hx : exec (.offsetLoad m v c) s = .next ((s.offsetLoad m v c).answer .done) := congrArg Host.Outcome.next (State.writeAt_open h _ _ _)
  obtain ⟨state, hi, low, anchor, stage, cnt⟩ := State.offsetLoad_open m v c h0 hs
  exact ⟨_, hx, state, hi, low, anchor, stage, cnt, (exec_goes hx).1⟩

theorem offsetLoad_busy (m : Master) (v : Word) (c : DWord) (s : State) (h : PageOpen s .ntm m) (h0 : s.tmState ≠ 0) :
    exec (.offsetLoad m v c) s = .next ((s.err .ntm eBusy 0xE0 m).answer .done) := by
  refine congrArg Host.Outcome.next ((State.writeAt_open h _ _ _).trans ?_)
  rw [State.offsetLoad, if_pos (by simp [State.anchorOpen, h0])]

/-! ### The host's commands (R245, R246) -/

theorem timeGet_spec (tag : Word) (c : DWord) (k : Cmd) (s : State) (h : Ready s 0x0101 tag k) : let t := s.snap c
    ∃ v, exec (.timeGet tag c) s = .next v ∧ v = t.reply k stOk (toLe 8 c.toNat ++ toLe 2 (t.nt c % 2 ^ 16) ++ toLe 8 (t.ntNs c) ++ toLe 4 t.ntmStat.toNat ++ toLe 4 t.boundReg.toNat) [] ∧
      Ended k v :=
  replied_ends (congrArg Host.Outcome.next (State.withCmd_ready h _))

theorem fld_setFld_source (w : Word) {n : Nat} (h : n < 4) : fld (setFld w 0 2 n) 0 2 = n := by
  have hw : w.toNat < 2 ^ 32 := w.isLt
  simp only [fld, setFld, w32, BitVec.toNat_ofNat]
  omega

theorem timeSrc_spec (tag : Word) (k : Cmd) (s : State) (h : Ready s 0x0102 tag k) :
    (s.rf R.rst_ROLE 0 2 = 2 → (∃ t, exec (.timeSrc tag) s = .next t ∧ t = s.reply k stDenied [] [] ∧ Ended k t)) ∧
    (s.rf R.rst_ROLE 0 2 ≠ 2 → k.par 0 1 ≤ 3 →
      (∃ t, exec (.timeSrc tag) s = .next t ∧ t = (s.wf R.ntm_NTM_CFG 0 2 (k.par 0 1)).reply k stOk [] [] ∧ t.rf R.ntm_NTM_CFG 0 2 = k.par 0 1 ∧ Ended k t)) ∧
    (s.rf R.rst_ROLE 0 2 ≠ 2 → 3 < k.par 0 1 → (∃ t, exec (.timeSrc tag) s = .next t ∧ t = s.reply k stBadParam [] [] ∧ Ended k t)) := by
  refine ⟨fun hr => replied_ends ?_, fun hr hp => ?_, fun hr hp => replied_ends ?_⟩
  · exact congrArg Host.Outcome.next ((State.withCmd_ready h _).trans (if_pos hr))
  · refine ⟨_, congrArg Host.Outcome.next ((State.withCmd_ready h _).trans ((if_neg hr).trans (if_neg (Nat.not_lt.mpr hp)))), rfl, ?_, State.reply_ended _ _ _ _ _⟩
    rw [State.rf, State.reply_rd _ _ _ _ _ (by decide), State.wf, State.rd_wr_same]
    exact fld_setFld_source _ (Nat.lt_succ_of_le hp)
  · exact congrArg Host.Outcome.next ((State.withCmd_ready h _).trans ((if_neg hr).trans (if_pos hp)))

/-- Settles O24, clause by clause. -/
theorem timeIsReadSteppedAndLoaded : Obligations.TimeIsReadSteppedAndLoaded :=
  ⟨cntRead_spec, tickRead_spec, snap_spec, stepGo_spec, stepGo_noTime, timeStep_spec, offsetLoad_spec, offsetLoad_busy, timeGet_spec, timeSrc_spec⟩

end Sys2Proof.Machine
end

section
/-! PROOFS. PPS edges and their loss, the time of day, and the exchange that measures the link delay. -/

namespace Sys2Proof.Machine

open Sys2Proof

/-! ### PPS (R228, R240, R241) -/

theorem ppsEdge_captured (b : Bool) (c : DWord) (s : State) (ht : s.takes .ntm = true) (he : s.rb R.ntm_NTM_CFG 4 = true) (hb : b = !s.rb R.ntm_NTM_CFG 3) :
    ∃ t, exec (.ppsEdge b c) s = .next t ∧ t.cnt = (s.at c).cnt ∧ t.rd64 R.ntm_PPS_CAP_LO R.ntm_PPS_CAP_HI = c.toNat ∧ ChangesOnly (touches (.ppsEdge b c)) s t := by
  have hx : exec (.ppsEdge b c) s = .next (s.ppsEdge c) := congrArg Host.Outcome.next (if_pos (by simp [ht, he, hb]))
  obtain ⟨cnt, low, high⟩ := s.ppsEdge_keepsCapture c
  refine ⟨_, hx, cnt, ?_, (exec_goes hx).1⟩
  rw [State.rd64, State.rn, State.rn, low, high]
  exact ((s.at c).rd64_wr64 _ (by decide)).trans (Nat.mod_eq_of_lt c.isLt)

theorem ppsEdge_otherPolarity (b : Bool) (c : DWord) (s : State) (_ : s.takes .ntm = true) (_ : s.rb R.ntm_NTM_CFG 4 = true) (hb : b = s.rb R.ntm_NTM_CFG 3) :
    exec (.ppsEdge b c) s = .next (s.at c) :=
  congrArg Host.Outcome.next (if_neg (by simp [hb]))

/-- The same counter value a second time moves CNT no further. -/
theorem State.at_idem (s : State) (c : DWord) : ((s.at c).at c).cnt = (s.at c).cnt := by
  simp only [State.at_cnt]
  split <;> simp_all

/-- Entering holdover counts it. -/
theorem State.holdover_rd (s : State) (code src : Nat) (p : Bytes) : (((s.bump R.ntm_HOLD_CNT 1).irq .ntm 1).event code src p).rd R.ntm_HOLD_CNT = s.rd R.ntm_HOLD_CNT + 1 := by
  rw [State.event_rd _ _ _ _ (by decide) (by decide), State.irq_rd_past _ _ _ (by decide)]
  exact s.rd_wr_same _ _

/-- A module that acquires or is locked and loses its source enters holdover at that counter value, and counts it. -/
theorem State.loseSource_holdover {s : State} (c : DWord) (cause : Nat) (h : s.tmState = 1 ∨ s.tmState = 2) :
    (s.loseSource c cause).tmState = 3 ∧ (s.loseSource c cause).ntm = { s.ntm with holdCnt := (s.at c).cnt, jumps := [] } ∧
      (s.loseSource c cause).rd R.ntm_HOLD_CNT = s.rd R.ntm_HOLD_CNT + 1 := by
  unfold State.loseSource
  rw [if_pos h]
  extract_lets t u ntm v
  have hu : u.tmState = 3 := State.setTm_state _ (by decide)
  have hut : u.ntm = s.ntm := State.setRate_setTm_ntm _ _ _ 3
  have huc : u.cnt = (s.at c).cnt := rfl
  have hur : u.rd R.ntm_HOLD_CNT = s.rd R.ntm_HOLD_CNT := by
    exact (State.setTm_rd_ne _ 3 (by decide)).trans ((State.rd_wr_ne _ _ (by decide)).trans (State.setAnchor_regsOnly _ _ _ _ (by decide)))
  refine ⟨(State.holdover_tmState v _ _ _).trans hu, (State.holdover_ntm v _ _ _).trans ?_, (State.holdover_rd v _ _ _).trans (congrArg (· + 1) hur)⟩
  show ({ u.ntm with holdCnt := u.cnt, jumps := [] } : Ntm) = _
  rw [hut, huc]

theorem ppsLost_spec (c : DWord) (s : State) (hr : s.runs .ntm = true) (hp : s.rf R.ntm_NTM_CFG 0 2 = 1) (hs : s.tmState = 1 ∨ s.tmState = 2)
    (ho : (s.at c).ppsOverdue c = true) :
    ∃ t, exec (.ppsLost c) s = .next t ∧ t.tmState = 3 ∧ t.ntm.holdCnt = (s.at c).cnt ∧ t.ntm.ppsNext = none ∧ t.rd R.ntm_HOLD_CNT = s.rd R.ntm_HOLD_CNT + 1 ∧
      ChangesOnly (touches (.ppsLost c)) s t := by
  let u : State := { s.at c with ntm := { s.ntm with ppsNext := none } }
  have hc : ((s.at c).runs .ntm && decide ((s.at c).rf R.ntm_NTM_CFG 0 2 = 1) && (decide ((s.at c).tmState = 1) || decide ((s.at c).tmState = 2)) && (s.at c).ppsOverdue c) = true := by
    simp only [Bool.and_eq_true, Bool.or_eq_true, decide_eq_true_eq]
    exact ⟨⟨⟨hr, hp⟩, hs⟩, ho⟩
  have hx : exec (.ppsLost c) s = .next ((u.irq .ntm 3).loseSource c 2) := congrArg Host.Outcome.next (if_pos hc)
  have rd {a : Nat} (h : PastHeader a) : (u.irq .ntm 3).rd a = s.rd a := u.irq_rd_past .ntm 3 h
  obtain ⟨state, ntm, count⟩ := State.loseSource_holdover (s := u.irq .ntm 3) c 2 (by rwa [State.tmState, State.rf, rd (by decide)])
  have hcnt : ((u.irq .ntm 3).at c).cnt = (s.at c).cnt := by
    rw [State.at_cnt, State.irq_cnt]
    exact s.at_idem c
  refine ⟨_, hx, state, ?_, ?_, count.trans (congrArg (· + 1) (rd (by decide))), (exec_goes hx).1⟩ <;> rw [ntm]
  · exact hcnt
  · exact congrArg Ntm.ppsNext (u.irq_ntm .ntm 3)

/-! ### Time of day (R240) -/

/-- The TOD_SET that waits is forgotten as it is answered. -/
theorem State.todReply_tod (s : State) (st : Nat) (p : Bytes) : (s.todReply st p).ntm.tod = none := by
  unfold State.todReply
  split
  · assumption
  · extract_lets ntm t
    split
    · exact congrArg Ntm.tod (t.reply_ntm _ _ _ _)
    · rfl

theorem todTimeout_spec (c : DWord) (k : TodWait) (s : State) (hk : s.ntm.tod = some k) (hc : 275000000 ≤ (c - k.cnt).toNat) :
    ∃ t, exec (.todTimeout c) s = .next t ∧ t = ((s.at c).err .ntm 0x80 0 .block).todReply stFault (toLe 1 0x80) ∧ t.ntm.tod = none := by
  refine ⟨_, ?_, rfl, State.todReply_tod _ _ _⟩
  show execTodTimeout c s = _
  rw [execTodTimeout, hk]
  exact congrArg Host.Outcome.next (if_pos hc)

theorem todSet_spec (tag : Word) (c : DWord) (k : Cmd) (s : State) (h : Ready s 0x0100 tag k) :
    (k.par 0 8 % 1000000000 ≠ 0 → (∃ t, exec (.todSet tag c) s = .next t ∧ t = s.reply k stBadParam [] [] ∧ Ended k t)) ∧
    (k.par 0 8 % 1000000000 = 0 → s.takes .ntm = false → (∃ t, exec (.todSet tag c) s = .next t ∧ t = s.reply k stBusy [] [] ∧ Ended k t)) ∧
    (k.par 0 8 % 1000000000 = 0 → s.takes .ntm = true → ∃ t, exec (.todSet tag c) s = .next t ∧ t.cnt = (s.at c).cnt ∧
      t.ntm.tod = some ⟨tag, k.par 0 8, decide (k.par 8 1 % 2 = 1), c⟩ ∧ ChangesOnly (touches (.todSet tag c)) s t) := by
  refine ⟨fun hp => replied_ends ?_, fun hp ht => replied_ends ?_, fun hp ht => ?_⟩
  · exact congrArg Host.Outcome.next ((State.withCmd_ready h _).trans (if_pos hp))
  · exact congrArg Host.Outcome.next ((State.withCmd_ready h _).trans ((if_neg (not_not.mpr hp)).trans (if_pos (by simp [ht]))))
  · let t := (s.todReply stCancelled []).at c
    have hx : exec (.todSet tag c) s = .next ({ t with ntm := { t.ntm with tod := some ⟨tag, k.par 0 8, decide (k.par 8 1 % 2 = 1), c⟩ } }.defer k) :=
      congrArg Host.Outcome.next ((State.withCmd_ready h _).trans ((if_neg (not_not.mpr hp)).trans (if_neg (by simp [ht]))))
    have hcnt : t.cnt = (s.at c).cnt := by
      obtain ⟨cnt, -, -⟩ := s.todReply_keepsCapture stCancelled []
      rw [State.at_cnt, cnt]
      rfl
    exact ⟨_, hx, hcnt, rfl, (exec_goes hx).1⟩

/-! ### The link-delay exchange (R234, R235) -/

theorem dreqSend_spec (s : State) (ht : s.takes .ntm = true) (hn : s.isNode = true) (hh : s.holds = true) (hm : s.ntm.measured = true) (hp : s.placeless = false)
    (hd : (s.ntm.dreqSf.all fun f => decide (f + s.rf R.ntm_DLY_CFG 0 8 ≤ s.sf)) = true) :
    let u : State := { s with ntm := { s.ntm with dreqSeq := (s.ntm.dreqSeq + 1) % 256, dreqSf := some s.sf } }
    ∃ t, exec .dreqSend s = .next t ∧ t = u.fwSend u.upRadio 0 false none (u.frameOf 4 false 0 0 u.parentIx none (toLe 1 1 ++ toLe 1 s.ntm.dreqSeq ++ zeros 8)) ∧
      t.ntm.dreqSeq = (s.ntm.dreqSeq + 1) % 256 ∧ t.ntm.dreqSf = some s.sf ∧ ChangesOnly (touches .dreqSend) s t := by
  intro u
  have hx : exec .dreqSend s = .next (u.fwSend u.upRadio 0 false none (u.frameOf 4 false 0 0 u.parentIx none (toLe 1 1 ++ toLe 1 s.ntm.dreqSeq ++ zeros 8))) := by
    refine congrArg Host.Outcome.next (if_pos ?_)
    cases hf : s.ntm.dreqSf with
    | none => simp [ht, hn, hh, hm, hp]
    | some f => simpa [ht, hn, hh, hm, hp, hf] using hd
  have ntm := (u.fwSend_goes u.upRadio 0 false none (u.frameOf 4 false 0 0 u.parentIx none (toLe 1 1 ++ toLe 1 s.ntm.dreqSeq ++ zeros 8))).1 .ntm (by decide)
  exact ⟨_, hx, rfl, congrArg Ntm.dreqSeq ntm, congrArg Ntm.dreqSf ntm, (exec_goes hx).1⟩

section
variable {x : AirRx} {s : State}

/-- The frame that answers a request: its sequence number and the time of its reception. -/
abbrev State.dreqAnswer (s : State) (x : AirRx) : Bytes :=
  (s.at x.verdict).frameOf 4 false 0 0 ((airHdr x).src % 4096) none (toLe 1 2 ++ toLe 1 (byteAt (airPay x) 1) ++ toLe 8 (tsOf (s.airStart x)) ++ zeros 8)

/-- A request is answered on the radio it came on. -/
theorem exec_dreq (htyp : (airHdr x).typ = 4) (hm : (airHdr x).mhop = false) (hk : byteAt (airPay x) 0 = 1) (hl : (airPay x).length = 10)
    (hi : s.hasIndex = true) (hh : s.holds = true) (hp : s.placeless = false) :
    exec (.dreq x) s = .next ((s.at x.verdict).fwSend x.radio.val 0 false (some (s.tick + 4 * 256)) (s.dreqAnswer x)) :=
  congrArg Host.Outcome.next (if_neg (by simp [htyp, hm, hk, hl, hi, hh, hp]))

end

theorem dreq_answers (x : AirRx) (s : State) (htyp : (airHdr x).typ = 4) (hm : (airHdr x).mhop = false) (hk : byteAt (airPay x) 0 = 1) (hl : (airPay x).length = 10)
    (hi : s.hasIndex = true) (hh : s.holds = true) (hp : s.placeless = false) : let u := s.at x.verdict
    ∃ t, exec (.dreq x) s = .next t ∧ t = u.fwSend x.radio.val 0 false (some (u.tick + 4 * 256))
      (u.frameOf 4 false 0 0 ((airHdr x).src % 4096) none (toLe 1 2 ++ toLe 1 (byteAt (airPay x) 1) ++ toLe 8 (tsOf (s.airStart x)) ++ zeros 8)) ∧
      t.cnt = u.cnt ∧ ChangesOnly (touches (.dreq x)) s t := by
  intro u
  have hx := exec_dreq htyp hm hk hl hi hh hp
  exact ⟨_, hx, rfl, (u.fwSend_goes _ _ _ _ _).1 .cnt (by decide), (exec_goes hx).1⟩

theorem dreq_queues (x : AirRx) (s : State) (htyp : (airHdr x).typ = 4) (hm : (airHdr x).mhop = false) (hk : byteAt (airPay x) 0 = 1) (hl : (airPay x).length = 10)
    (hi : s.hasIndex = true) (hh : s.holds = true) (hp : s.placeless = false) (hr : s.runs (radBlk x.radio.val) = true) (h4 : s.rad.length = 4) : let u := s.at x.verdict
    let b := u.frameOf 4 false 0 0 ((airHdr x).src % 4096) none (toLe 1 2 ++ toLe 1 (byteAt (airPay x) 1) ++ toLe 8 (tsOf (s.airStart x)) ++ zeros 8)
    let y : Tx := ⟨fwDesc b.length 0 false (some (s.tick + 4 * 256)), some b, s.tick, none, 0, 0⟩
    u.tooLong x.radio.val y = false → ∃ t, exec (.dreq x) s = .next t ∧ (t.radio x.radio.val).queue = (s.radio x.radio.val).queue ++ [y] := by
  intro u b y hfit
  obtain ⟨queue, -⟩ := State.fwSend_queue (s := u) (h4.symm ▸ x.radio.isLt) hr hfit
  exact ⟨_, exec_dreq htyp hm hk hl hi hh hp, queue⟩

theorem satAdd_zero (w : Word) : satAdd w 0 = w := by
  have hw : w.toNat < 2 ^ 32 := w.isLt
  apply BitVec.eq_of_toNat_eq
  simp only [satAdd, w32, BitVec.toNat_ofNat]
  omega

/-- An answer ends the wait of its request; its delay, where it is valid, is kept and counted. -/
theorem State.takeDresp_spec (s : State) (n t1 t2 t3 : Nat) (t4 : Int) :
    let d := (delayOf t1 t2 t3 (tsOf t4)).toList
    let t := s.takeDresp n t1 t2 t3 t4
    t.ntm.dreq = s.ntm.dreq.filter (fun p => p.1 ≠ n) ∧ t.ntm.delays = (d ++ s.ntm.delays).take 5 ∧
      t.rd R.ntm_DLY_CNT = satAdd (s.rd R.ntm_DLY_CNT) d.length ∧ RegsOnly [R.ntm_DLY_CNT, hdr .ntm oRaw] s t := by
  intro d t
  simp only [t, d, State.takeDresp]
  cases delayOf t1 t2 t3 (tsOf t4) with
  | none => exact ⟨rfl, rfl, (satAdd_zero _).symm, fun _ _ => rfl⟩
  | some v =>
    refine ⟨?_, ?_, ?_, fun a ha => ?_⟩
    · exact congrArg Ntm.dreq (State.irq_ntm _ _ _)
    · exact congrArg Ntm.delays (State.irq_ntm _ _ _)
    · exact (State.irq_rd_past _ _ _ (by decide)).trans (State.bumpSat_rd_same _ _ _)
    · simp only [List.mem_cons, List.not_mem_nil, or_false, not_or] at ha
      obtain ⟨hcnt, hraw⟩ := ha
      exact (State.irq_rd_ne _ _ _ hraw).trans (State.bumpSat_rd_ne _ _ hcnt)

theorem dresp_spec (x : AirRx) (n t1 : Nat) (s : State) (htyp : (airHdr x).typ = 4) (hm : (airHdr x).mhop = false) (hk : byteAt (airPay x) 0 = 2)
    (hl : (airPay x).length = 18) (hn : s.isNode = true) (hsrc : (airHdr x).src = s.parentIx) (ht : s.takes .ntm = true)
    (hq : s.ntm.dreq.find? (fun q => decide (q.1 = byteAt (airPay x) 1)) = some (n, t1)) :
    let d := (delayOf t1 (le (airPay x) 2 8) (le (airPay x) 10 8) (tsOf (s.airStart x))).toList
    ∃ t, exec (.dresp x) s = .next t ∧ t.ntm.dreq = s.ntm.dreq.filter (fun p => p.1 ≠ n) ∧ t.ntm.delays = (d ++ s.ntm.delays).take 5 ∧
      t.rd R.ntm_DLY_CNT = satAdd (s.rd R.ntm_DLY_CNT) d.length ∧ RegsOnly [R.ntm_DLY_CNT, hdr .ntm oRaw] s t ∧ ChangesOnly (touches (.dresp x)) s t := by
  intro d
  let u := s.at x.verdict
  have hx : exec (.dresp x) s = .next (u.takeDresp n t1 (le (airPay x) 2 8) (le (airPay x) 10 8) (s.airStart x)) := by
    show execDresp x s = _
    simp [execDresp, htyp, hm, hk, hl, hn, hsrc, ht, hq, u]
  obtain ⟨wait, delays, count, regs⟩ := u.takeDresp_spec n t1 (le (airPay x) 2 8) (le (airPay x) 10 8) (s.airStart x)
  exact ⟨_, hx, wait, delays, count, regs, (exec_goes hx).1⟩

/-- Settles O23, clause by clause. -/
theorem ppsTimeOfDayAndLinkDelay : Obligations.PpsTimeOfDayAndLinkDelay :=
  ⟨⟨ppsEdge_captured, ppsEdge_otherPolarity, ppsLost_spec, todTimeout_spec, todSet_spec⟩, dreqSend_spec, dreq_answers, dreq_queues, dresp_spec⟩

end Sys2Proof.Machine
end

section
/-! SUPPORT. Fields of registers. -/

namespace Sys2Proof.Machine

open Sys2Proof

/-! ### Fields of a word -/

/-- A word with a field replaced, put together from the bits above, in and below the field. -/
theorem setFld_toNat (w : Word) {lo n : Nat} (v : Nat) (h : lo + n ≤ 32) :
    (setFld w lo n v).toNat = 2 ^ (lo + n) * (w.toNat / 2 ^ (lo + n)) + (2 ^ lo * (v % 2 ^ n) + w.toNat % 2 ^ lo) := by
  have hw : w.toNat = 2 ^ (lo + n) * (w.toNat / 2 ^ (lo + n)) + (2 ^ lo * (w.toNat / 2 ^ lo % 2 ^ n) + w.toNat % 2 ^ lo) := by
    conv_lhs => rw [← Nat.div_add_mod w.toNat (2 ^ (lo + n)), pow_add, Nat.mod_mul]
    rw [pow_add]
    omega
  have hlow := Nat.mod_lt w.toNat (Nat.two_pow_pos lo)
  have hval := Nat.mod_lt v (Nat.two_pow_pos n)
  have hin : 2 ^ lo * (v % 2 ^ n) + w.toNat % 2 ^ lo < 2 ^ (lo + n) := by
    calc 2 ^ lo * (v % 2 ^ n) + w.toNat % 2 ^ lo < 2 ^ lo * (v % 2 ^ n + 1) := by rw [Nat.mul_add]; omega
      _ ≤ 2 ^ (lo + n) := by rw [pow_add]; exact Nat.mul_le_mul_left _ hval
  have hhigh : w.toNat / 2 ^ (lo + n) < 2 ^ (32 - (lo + n)) := by
    rw [Nat.div_lt_iff_lt_mul (Nat.two_pow_pos _), ← pow_add, Nat.sub_add_cancel h]
    exact w.isLt
  have hlt : 2 ^ (lo + n) * (w.toNat / 2 ^ (lo + n)) + (2 ^ lo * (v % 2 ^ n) + w.toNat % 2 ^ lo) < 2 ^ 32 := by
    calc _ < 2 ^ (lo + n) * (w.toNat / 2 ^ (lo + n) + 1) := by rw [Nat.mul_add]; omega
      _ ≤ 2 ^ (lo + n) * 2 ^ (32 - (lo + n)) := Nat.mul_le_mul_left _ hhigh
      _ = 2 ^ 32 := by rw [← pow_add, Nat.add_sub_cancel' h]
  simp only [setFld, fld, w32, BitVec.toNat_ofNat]
  rw [Nat.mod_eq_of_lt]
  · rw [Nat.mul_comm (w.toNat / 2 ^ lo % 2 ^ n), Nat.mul_comm (v % 2 ^ n)]
    omega
  · rw [Nat.mul_comm (w.toNat / 2 ^ lo % 2 ^ n), Nat.mul_comm (v % 2 ^ n)]
    omega

theorem tst_setFld (w : Word) {lo n : Nat} (v k : Nat) (h : lo + n ≤ 32) :
    tst (setFld w lo n v) k = if lo ≤ k ∧ k < lo + n then v.testBit (k - lo) else tst w k := by
  have hlow := Nat.mod_lt w.toNat (Nat.two_pow_pos lo)
  have hin : 2 ^ lo * (v % 2 ^ n) + w.toNat % 2 ^ lo < 2 ^ (lo + n) := by
    calc 2 ^ lo * (v % 2 ^ n) + w.toNat % 2 ^ lo < 2 ^ lo * (v % 2 ^ n + 1) := by rw [Nat.mul_add]; omega
      _ ≤ 2 ^ (lo + n) := by rw [pow_add]; exact Nat.mul_le_mul_left _ (Nat.mod_lt v (Nat.two_pow_pos n))
  rw [tst, BitVec.getLsbD, setFld_toNat w v h, Nat.testBit_two_pow_mul_add _ hin, Nat.testBit_two_pow_mul_add _ hlow, tst, BitVec.getLsbD]
  by_cases h1 : k < lo
  · rw [if_pos (by omega), if_pos h1, if_neg (by omega), Nat.testBit_mod_two_pow, decide_eq_true h1, Bool.true_and]
  by_cases h2 : k < lo + n
  · rw [if_pos h2, if_neg h1, if_pos ⟨by omega, h2⟩, Nat.testBit_mod_two_pow, decide_eq_true (by omega), Bool.true_and]
  · rw [if_neg h2, if_neg (by omega), Nat.testBit_div_two_pow, Nat.sub_add_cancel (by omega)]

theorem fld_setFld_same (w : Word) {lo n : Nat} (v : Nat) (h : lo + n ≤ 32) : fld (setFld w lo n v) lo n = v % 2 ^ n := by
  apply Nat.eq_of_testBit_eq
  intro k
  rw [fld_testBit, Nat.testBit_mod_two_pow, tst_setFld w v _ h]
  by_cases hk : k < n
  · rw [if_pos (by omega), Nat.add_sub_cancel_left]
  · simp [hk]

theorem tst_setFld_ne (w : Word) {lo n k : Nat} (v : Nat) (h : lo + n ≤ 32) (hk : k < lo ∨ lo + n ≤ k) : tst (setFld w lo n v) k = tst w k := by
  rw [tst_setFld w v k h, if_neg (by omega)]

theorem fld_setFld_ne (w : Word) {lo n a k : Nat} (v : Nat) (h : lo + n ≤ 32) (hk : a + k ≤ lo ∨ lo + n ≤ a) :
    fld (setFld w lo n v) a k = fld w a k :=
  fld_congr fun _ _ _ => tst_setFld_ne w v h (by omega)

/-- A field of one bit read as the bit. -/
theorem tst_eq_fld (w : Word) (i : Nat) : tst w i = decide (fld w i 1 = 1) := by
  have h := fld_testBit w i 1 0
  have hlt : fld w i 1 < 2 := Nat.mod_lt _ (by decide)
  rw [Nat.add_zero] at h
  obtain h0 | h1 : fld w i 1 = 0 ∨ fld w i 1 = 1 := by omega
  · rw [h0] at h ⊢; simpa using h.symm
  · rw [h1] at h ⊢; simpa using h.symm

theorem State.wf_rf_same (s : State) (a : Nat) {lo n : Nat} (v : Nat) (h : lo + n ≤ 32) : (s.wf a lo n v).rf a lo n = v % 2 ^ n := by
  rw [State.wf, State.rf, State.rd_wr_same, fld_setFld_same _ _ h]

theorem State.wf_rf_ne (s : State) (a : Nat) {lo n b k : Nat} (v : Nat) (h : lo + n ≤ 32) (hk : b + k ≤ lo ∨ lo + n ≤ b) :
    (s.wf a lo n v).rf a b k = s.rf a b k := by
  rw [State.wf, State.rf, State.rd_wr_same, fld_setFld_ne _ _ h hk, State.rf]

theorem State.wf_rb_ne (s : State) (a : Nat) {lo n k : Nat} (v : Nat) (h : lo + n ≤ 32) (hk : k < lo ∨ lo + n ≤ k) :
    (s.wf a lo n v).rb a k = s.rb a k := by
  rw [State.wf, State.rb, State.rd_wr_same, tst_setFld_ne _ _ h hk, State.rb]

theorem State.wf_rd_ne (s : State) {a c : Nat} (lo n v : Nat) (h : c ≠ a) : (s.wf a lo n v).rd c = s.rd c := s.rd_wr_ne _ h

theorem State.rf_congr {s t : State} {a : Nat} (h : t.rd a = s.rd a) (lo n : Nat) : t.rf a lo n = s.rf a lo n := by
  rw [State.rf, h, State.rf]

theorem State.rb_congr {s t : State} {a : Nat} (h : t.rd a = s.rd a) (i : Nat) : t.rb a i = s.rb a i := by
  rw [State.rb, h, State.rb]

end Sys2Proof.Machine
end

section
/-! PROOFS. The calendar and the on-times. -/

namespace Sys2Proof.Machine

open Sys2Proof

/-! ### The calendar (R348, R349) -/

theorem one_le_monthLen (y m : Nat) : 1 ≤ monthLen y m := by
  unfold monthLen
  split_ifs <;> decide

/-- The days of twelve months are those of the year. -/
theorem monthsDays_twelve (y : Nat) : monthsDays y 12 = if leapYear y then 366 else 365 := by
  cases h : leapYear y <;> simp [monthsDays, monthLen, h]

/-- 400 years of the Gregorian rule are whole weeks. -/
theorem yearsDays_range_weeks : yearsDays 400 = 146097 := by decide +kernel

/-- The number of the days from 2000-01-01 to the date. -/
def Cal.dayNo (c : Cal) : Nat := yearsDays (c.year - 2000) + monthsDays c.year (c.mon - 1) + (c.day - 1)

theorem Cal.wday_eq (c : Cal) : c.wday = (c.dayNo + 5) % 7 + 1 := rfl

theorem Cal.wday_congr {c d : Cal} (hy : d.year = c.year) (hm : d.mon = c.mon) (hd : d.day = c.day) : d.wday = c.wday := by
  simp only [Cal.wday, hy, hm, hd]

/-- The weekday of the next day follows, the day counted back by whole weeks or not. -/
theorem Cal.wday_step {c d : Cal} {k : Nat} (h : d.dayNo + 7 * k = c.dayNo + 1) : d.wday = c.wday % 7 + 1 := by
  simp only [Cal.wday_eq]
  omega

theorem Cal.wday_next {c d : Cal} (h : d.dayNo = c.dayNo + 1) : d.wday = c.wday % 7 + 1 :=
  Cal.wday_step (k := 0) (by rw [Nat.mul_zero, Nat.add_zero]; exact h)

theorem dayNo_next_day (c : Cal) (h1 : 1 ≤ c.day) : (⟨c.year, c.mon, c.day + 1, 0, 0, 0⟩ : Cal).dayNo = c.dayNo + 1 := by
  simp only [Cal.dayNo]
  omega

theorem dayNo_next_month (c : Cal) (hm : 1 ≤ c.mon) (hd : c.day = monthLen c.year c.mon) :
    (⟨c.year, c.mon + 1, 1, 0, 0, 0⟩ : Cal).dayNo = c.dayNo + 1 := by
  obtain ⟨m, hm⟩ : ∃ m, c.mon = m + 1 := ⟨c.mon - 1, by omega⟩
  have hl := one_le_monthLen c.year (m + 1)
  simp only [Cal.dayNo, hd, hm, Nat.add_sub_cancel, monthsDays]
  omega

/-- The last day of a year is the day before the first of the next. -/
theorem dayNo_last_of_year (c : Cal) (hy : 2000 ≤ c.year) (hm : c.mon = 12) (hd : c.day = monthLen c.year 12) :
    yearsDays (c.year + 1 - 2000) = c.dayNo + 1 := by
  have hl := one_le_monthLen c.year 12
  have ht := monthsDays_twelve c.year
  have hs : yearsDays (c.year + 1 - 2000) = yearsDays (c.year - 2000) + if leapYear c.year then 366 else 365 := by
    obtain ⟨n, hn⟩ : ∃ n, c.year = 2000 + n := ⟨c.year - 2000, by omega⟩
    rw [hn, Nat.add_assoc, Nat.add_sub_cancel_left, Nat.add_sub_cancel_left, yearsDays]
  rw [hs, ← ht, show monthsDays c.year 12 = monthsDays c.year 11 + monthLen c.year 12 from rfl, Cal.dayNo, hm, hd, show 12 - 1 = 11 from rfl]
  omega

theorem dayNo_next_year (c : Cal) (hy : 2000 ≤ c.year) (hm : c.mon = 12) (hd : c.day = monthLen c.year 12) :
    (⟨c.year + 1, 1, 1, 0, 0, 0⟩ : Cal).dayNo = c.dayNo + 1 := by
  rw [← dayNo_last_of_year c hy hm hd]
  simp [Cal.dayNo, monthsDays]

theorem dayNo_wrap (c : Cal) (hy : c.year = 2399) (hm : c.mon = 12) (hd : c.day = monthLen c.year 12) :
    calZero.dayNo + 7 * 20871 = c.dayNo + 1 := by
  rw [← dayNo_last_of_year c (by omega) hm hd, hy]
  exact (yearsDays_range_weeks).symm

/-- A date and time of the calendar's range. -/
structure Cal.Valid (c : Cal) : Prop where
  year_ge : 2000 ≤ c.year
  year_le : c.year ≤ 2399
  mon_ge : 1 ≤ c.mon
  mon_le : c.mon ≤ 12
  day_ge : 1 ≤ c.day
  day_le : c.day ≤ monthLen c.year c.mon
  hour_le : c.hour ≤ 23
  mins_le : c.mins ≤ 59
  sec_le : c.sec ≤ 59

/-- Outside a midnight the time of day alone moves on. -/
theorem Cal.next_within {c : Cal} (hc : c.Valid) (h : ¬ (c.hour = 23 ∧ c.mins = 59 ∧ c.sec = 59)) :
    c.next.year = c.year ∧ c.next.mon = c.mon ∧ c.next.day = c.day ∧ c.next.hour ≤ 23 ∧ c.next.mins ≤ 59 ∧ c.next.sec ≤ 59 ∧
      1 ≤ c.next.hour + c.next.mins + c.next.sec := by
  obtain ⟨-, -, -, -, -, -, hh, hm, hs⟩ := hc
  unfold Cal.next
  by_cases h1 : c.sec < 59
  · rw [if_pos h1]
    exact ⟨rfl, rfl, rfl, hh, hm, h1, by simp only; omega⟩
  by_cases h2 : c.mins < 59
  · rw [if_neg h1, if_pos h2]
    exact ⟨rfl, rfl, rfl, hh, h2, Nat.zero_le _, by simp only; omega⟩
  have h3 : c.hour < 23 := by omega
  rw [if_neg h1, if_neg h2, if_pos h3]
  exact ⟨rfl, rfl, rfl, h3, Nat.zero_le _, Nat.zero_le _, by simp only; omega⟩

/-- What a midnight leads to: the next day, the next month, the next year or the start of the range. -/
theorem Cal.next_midnight {c : Cal} (hc : c.Valid) (h : c.hour = 23 ∧ c.mins = 59 ∧ c.sec = 59) :
    (c.day < monthLen c.year c.mon ∧ c.next = ⟨c.year, c.mon, c.day + 1, 0, 0, 0⟩) ∨
    (c.day = monthLen c.year c.mon ∧ c.mon < 12 ∧ c.next = ⟨c.year, c.mon + 1, 1, 0, 0, 0⟩) ∨
    (c.day = monthLen c.year 12 ∧ c.mon = 12 ∧ c.year < 2399 ∧ c.next = ⟨c.year + 1, 1, 1, 0, 0, 0⟩) ∨
    (c.day = monthLen c.year 12 ∧ c.mon = 12 ∧ c.year = 2399 ∧ c.next = calZero) := by
  obtain ⟨hh, hm, hs⟩ := h
  have hday := hc.day_le
  unfold Cal.next
  rw [if_neg (by omega), if_neg (by omega), if_neg (by omega)]
  by_cases hd : c.day < monthLen c.year c.mon
  · exact .inl ⟨hd, if_pos hd⟩
  rw [if_neg hd]
  by_cases hmon : c.mon < 12
  · exact .inr (.inl ⟨by omega, hmon, if_pos hmon⟩)
  have h12 : c.mon = 12 := by have := hc.mon_le; omega
  rw [if_neg hmon]
  rw [h12] at hday hd
  by_cases hy : c.year < 2399
  · exact .inr (.inr (.inl ⟨by omega, h12, hy, if_pos hy⟩))
  · exact .inr (.inr (.inr ⟨by omega, h12, by have := hc.year_le; omega, if_neg hy⟩))

theorem Cal.next_valid {c : Cal} (hc : c.Valid) : c.next.Valid := by
  by_cases h : c.hour = 23 ∧ c.mins = 59 ∧ c.sec = 59
  · obtain ⟨hy1, hy2, hm1, hm2, -, -, -, -, -⟩ := id hc
    obtain ⟨hd, he⟩ | ⟨hd, hm, he⟩ | ⟨hd, hm, hy, he⟩ | ⟨hd, hm, hy, he⟩ := Cal.next_midnight hc h <;> rw [he]
    · exact ⟨hy1, hy2, hm1, hm2, Nat.le_add_left _ _, hd, Nat.zero_le _, Nat.zero_le _, Nat.zero_le _⟩
    · exact ⟨hy1, hy2, Nat.le_add_left _ _, hm, Nat.le_refl _, one_le_monthLen _ _, Nat.zero_le _, Nat.zero_le _, Nat.zero_le _⟩
    · exact ⟨Nat.le_succ_of_le hy1, hy, Nat.le_refl _, Nat.le_add_left 1 11, Nat.le_refl _, one_le_monthLen _ _, Nat.zero_le _, Nat.zero_le _, Nat.zero_le _⟩
    · constructor <;> decide
  · obtain ⟨hy, hm, hd, hh, hmi, hs, -⟩ := Cal.next_within hc h
    obtain ⟨y1, y2, m1, m2, d1, d2, -, -, -⟩ := hc
    exact ⟨hy ▸ y1, hy ▸ y2, hm ▸ m1, hm ▸ m2, hd ▸ d1, by rw [hy, hm, hd]; exact d2, hh, hmi, hs⟩

theorem Cal.next_wday {c : Cal} (hc : c.Valid) (h : c.hour = 23 ∧ c.mins = 59 ∧ c.sec = 59) : c.next.wday = c.wday % 7 + 1 := by
  obtain ⟨-, he⟩ | ⟨hd, -, he⟩ | ⟨hd, hm, -, he⟩ | ⟨hd, hm, hy, he⟩ := Cal.next_midnight hc h <;> rw [he]
  · exact Cal.wday_next (dayNo_next_day c hc.day_ge)
  · exact Cal.wday_next (dayNo_next_month c hc.mon_ge hd)
  · exact Cal.wday_next (dayNo_next_year c hc.year_ge hm hd)
  · exact Cal.wday_step (k := 20871) (dayNo_wrap c hy hm hd)

/-- The range wraps exactly where the next second is the first of the range. -/
theorem Cal.wraps_iff {c : Cal} (hc : c.Valid) : c.wraps = true ↔ c.next = calZero := by
  unfold Cal.wraps
  rw [decide_eq_true_iff]
  constructor
  · rintro rfl
    rfl
  · intro hz
    by_cases h : c.hour = 23 ∧ c.mins = 59 ∧ c.sec = 59
    · have hy := hc.year_ge
      have hm := hc.mon_ge
      have hd1 := hc.day_ge
      obtain ⟨-, he⟩ | ⟨-, -, he⟩ | ⟨-, -, -, he⟩ | ⟨hd, hm, hy, -⟩ := Cal.next_midnight hc h
      · rw [hz] at he; injection he; omega
      · rw [hz] at he; injection he; omega
      · rw [hz] at he; injection he; omega
      · obtain ⟨hh, hmi, hs⟩ := h
        rw [hy] at hd
        cases c
        simp_all only
        rfl
    · have := (Cal.next_within hc h).2.2.2.2.2.2
      rw [hz] at this
      exact absurd this (by decide)

/-- Settles O48, by the case of a midnight (`Cal.next_midnight`) and the number of the day it leads to. -/
theorem calendarIsGregorian : Obligations.CalendarIsGregorian := by
  unfold Obligations.CalendarIsGregorian
  intro c hy1 hy2 hm1 hm2 hd1 hd2 hh hmi hs
  have hc : c.Valid := ⟨hy1, hy2, hm1, hm2, hd1, hd2, hh, hmi, hs⟩
  obtain ⟨n1, n2, n3, n4, n5, n6, n7, n8, n9⟩ := Cal.next_valid hc
  refine ⟨⟨n1, n2, n3, n4, n5, n6, n7, n8, n9⟩, Cal.wraps_iff hc, fun h => ?_, fun h => ?_⟩
  · obtain ⟨hy, hm, hd, -⟩ := Cal.next_within hc h
    exact ⟨hy, hm, hd, Cal.wday_congr hy hm hd⟩
  · refine ⟨?_, ?_, ?_, Cal.next_wday hc h⟩ <;>
      obtain ⟨-, he⟩ | ⟨-, -, he⟩ | ⟨-, -, -, he⟩ | ⟨-, -, -, he⟩ := Cal.next_midnight hc h <;> rw [he] <;> rfl

/-! ### On-times (R287, R288, R292) -/

theorem onTime_direct (b v w : Nat) (h : w < 0xFFFF) : onTime 0 b v w = w / 2 ^ (16 - b) := by
  simp [onTime, Nat.ne_of_lt h]

theorem onTime_direct_full (b v : Nat) : onTime 0 b v 0xFFFF = 2 ^ b := by
  simp [onTime]

/-- A value below the largest lights less than the whole frame. -/
theorem direct_lt_frame {b w : Nat} (hb : b ≤ 16) (hw : w ≤ 0xFFFF) : w / 2 ^ (16 - b) < 2 ^ b := by
  rw [Nat.div_lt_iff_lt_mul (by positivity), ← pow_add, Nat.add_sub_cancel' hb]
  omega

theorem onTime_le_frame {mode b v w : Nat} (hb : b ≤ 16) (hw : w ≤ 0xFFFF) : onTime mode b v w ≤ 2 ^ b := by
  unfold onTime
  split_ifs
  · exact Nat.le_refl _
  · exact (direct_lt_frame hb hw).le
  · exact Nat.min_le_left _ _

theorem onTime_zero (mode b v : Nat) : onTime mode b v 0 = 0 := by
  unfold onTime
  split_ifs
  · exact absurd ‹_› (by decide)
  · exact Nat.zero_div _
  · simp

theorem onTime_direct_mono {b v w x : Nat} (hb : b ≤ 16) (hwx : w ≤ x) (hx : x ≤ 0xFFFF) : onTime 0 b v w ≤ onTime 0 b v x := by
  obtain hx | rfl := Nat.lt_or_eq_of_le hx
  · rw [onTime_direct b v w (by omega), onTime_direct b v x hx]
    exact Nat.div_le_div_right hwx
  · rw [onTime_direct_full]
    exact onTime_le_frame hb hwx

/-- Settles O46, by the two modes of `onTime`. -/
theorem onTimesFitTheirFrame : Obligations.OnTimesFitTheirFrame :=
  ⟨fun _ _ _ _ _ hb hw => onTime_le_frame hb hw, fun mode b v _ _ => onTime_zero mode b v, fun b v w _ _ hw => onTime_direct b v w hw,
    onTime_direct_full, fun _ _ _ _ _ hb hwx hx => onTime_direct_mono hb hwx hx⟩

end Sys2Proof.Machine
end

section
/-! PROOFS. The vault's keys. -/

namespace Sys2Proof.Machine

open Sys2Proof

/-! ### Slots of the vault (R369-R374) -/

theorem State.setSlot_same (s : State) {i : Nat} (x : Option Slot) (h : (s.slot i).isSome = true) : (s.setSlot i x).slot i = x := by
  have hi : i < s.vlt.slots.length := by
    by_contra hn
    simp [State.slot, List.getElem?_eq_none (Nat.le_of_not_lt hn)] at h
  simp [State.slot, State.setSlot, setAt, hi]

theorem State.setSlot_ne (s : State) {i j : Nat} (x : Option Slot) (h : j ≠ i) : (s.setSlot i x).slot j = s.slot j := by
  simp [State.slot, State.setSlot, setAt, List.getElem?_set_ne h.symm]

theorem State.slot_congr {s t : State} (h : t.vlt.slots = s.vlt.slots) (i : Nat) : t.slot i = s.slot i := by
  rw [State.slot, h, State.slot]

/-- What an erasure by a test leaves of one slot. -/
def erased (f : Nat → Slot → Bool) (i : Nat) (x : Option Slot) : Option Slot := x.filter fun y => !f i y

theorem erased_none {f : Nat → Slot → Bool} {i : Nat} (h : ∀ y, f i y = true) (x : Option Slot) : erased f i x = none := by
  cases x <;> simp [erased, h]

theorem erased_self {f : Nat → Slot → Bool} {i : Nat} (h : ∀ y, f i y = false) (x : Option Slot) : erased f i x = x := by
  cases x <;> simp [erased, Option.filter, h]

theorem getD_eraseSlots (f : Nat → Slot → Bool) (l : List (Option Slot)) (k i : Nat) :
    (eraseSlots f k l).getD i none = erased f (k + i) (l.getD i none) := by
  induction l generalizing k i with
  | nil => rfl
  | cons x r ih =>
    cases i with
    | zero =>
      cases x with
      | none => rfl
      | some y => cases h : f k y <;> simp [eraseSlots, erased, Option.filter, h]
    | succ i =>
      rw [List.getD_cons_succ, show k + (i + 1) = k + 1 + i by omega, ← ih, eraseSlots.eq_def, List.getD_cons_succ]

theorem State.erase_slot (s : State) (f : Nat → Slot → Bool) (i : Nat) : (s.erase f).slot i = erased f i (s.slot i) := by
  simp only [State.slot, State.erase, getD_eraseSlots, Nat.zero_add]

@[simp] theorem State.zeroEvent_vlt (s : State) (cause : Nat) : (s.zeroEvent cause).vlt = s.vlt := by
  simp [State.zeroEvent]

theorem State.zeroEvent_slot (s : State) (cause i : Nat) : (s.zeroEvent cause).slot i = s.slot i :=
  State.slot_congr (by rw [State.zeroEvent_vlt]) i

theorem State.createSlot_ok {s : State} {i : Nat} {v : Word} {uses : Nat} {key : Bytes} {org bind cls : Nat}
    (h : (s.createSlot i v uses key org bind cls).2 = vOk) :
    s.slotBusy i = false ∧ s.slot i = none ∧ attrBad v uses (decide (org = 0)) key.length = false ∧
      ∃ x, (s.createSlot i v uses key org bind cls).1 = s.setSlot i (some x) := by
  unfold State.createSlot at h ⊢
  split_ifs at h ⊢ with hb hn ha
  exact ⟨by simpa using hb, by simpa using hn, by simpa using ha, _, rfl⟩

theorem State.createSlot_refused {s : State} {i : Nat} {v : Word} {uses : Nat} {key : Bytes} {org bind cls : Nat}
    (h : (s.createSlot i v uses key org bind cls).2 ≠ vOk) : (s.createSlot i v uses key org bind cls).1 = s := by
  unfold State.createSlot at h ⊢
  split_ifs at h ⊢
  · rfl
  · rfl
  · rfl
  · exact absurd rfl h

/-- Attributes that are not refused agree with each other and with the key (R371). -/
theorem attrBad_false {v : Word} {uses len : Nat} {derived : Bool} (h : attrBad v uses derived len = false) :
    typLen (fld v 1 2) = len ∧ (tst v 12 = true → derived = false ∧ tst v 10 = false) ∧ (tst v 10 = true → tst v 7 = true ∧ tst v 8 = true) := by
  simp only [attrBad, Bool.or_eq_false_iff, decide_eq_false_iff_not, not_not] at h
  obtain ⟨⟨⟨⟨⟨-, hlen⟩, hexp⟩, hpair⟩, -⟩, -⟩ := h
  refine ⟨hlen, fun hx => ?_, fun hx => ?_⟩
  · simpa [hx] using hexp
  · simpa [hx] using hpair

theorem State.keyFor_ok {s : State} {i bit : Nat} {x : Slot} (h : s.keyFor i bit = .ok x) : s.slot i = some x ∧ tst x.attr bit = true := by
  unfold State.keyFor at h
  split at h
  · cases h
  · next y hy =>
    split at h
    · next ht => cases h; exact ⟨hy, ht⟩
    · cases h

theorem State.keyFor_error {s : State} {i bit e : Nat} (h : s.keyFor i bit = .error e) : e ≠ vOk := by
  unfold State.keyFor at h
  split at h
  · cases h; decide
  · split at h <;> cases h
    decide

theorem State.vopExport_cases (s : State) (o : VOp) :
    (∃ e, e ≠ vOk ∧ s.vopExport o = s.vFail e) ∨
    ∃ x p, s.keyFor o.a 12 = .ok x ∧ s.keyFor o.b 10 = .ok p ∧ s.vopExport o = ⟨s, vOk, kwWrap p.key (slotBlock x), [o.b]⟩ := by
  unfold State.vopExport
  cases ha : s.keyFor o.a 12 with
  | error e => exact .inl ⟨e, State.keyFor_error ha, rfl⟩
  | ok x =>
    cases hb : s.keyFor o.b 10 with
    | error e => exact .inl ⟨e, State.keyFor_error hb, rfl⟩
    | ok p => exact .inr ⟨x, p, rfl, rfl, rfl⟩

theorem State.vopErase_cases (s : State) (o : VOp) :
    (∃ e, e ≠ vOk ∧ s.vopErase o = s.vFail e) ∨
    (s.slotBusy o.a = false ∧ (s.slot o.a).isSome = true ∧ s.vopErase o = ⟨s.setSlot o.a none, vOk, [], []⟩) := by
  unfold State.vopErase
  split_ifs with hb hn
  · exact .inl ⟨_, by decide, rfl⟩
  · exact .inl ⟨_, by decide, rfl⟩
  · exact .inr ⟨by simpa using hb, by simpa [Option.isSome_iff_ne_none] using hn, rfl⟩

theorem State.vopApprove_refused {s : State} (h : s.anyLinkSlot = true) : s.vopApprove = s.vFail vSlotInUse := if_pos h

/-- APPROVE: the state before its event (R382). -/
def State.fuseBlown (s : State) : State :=
  let t := s.erase fun i _ => decide (i ≠ 0)
  { t with vlt := { t.vlt with fuse := true } }

theorem State.fuseBlown_slot (s : State) (i : Nat) : s.fuseBlown.slot i = erased (fun i _ => decide (i ≠ 0)) i (s.slot i) :=
  s.erase_slot _ i

theorem State.vopApprove_done {s : State} (h : s.anyLinkSlot = false) : s.vopApprove = ⟨s.fuseBlown.zeroEvent 4, vOk, [], []⟩ :=
  if_neg (by simp [h])

/-- DEBUG_OPEN outside the approved mode: the state before its event (R392). -/
def State.debugOpened (s : State) : State :=
  let t := s.erase fun i x => decide (i ≠ 0) || decide (fld x.attr 14 2 = 0)
  { t with vlt := { t.vlt with debug := true, meas := setAt t.vlt.meas 2 (setAt (t.vlt.meas.getD 2 []) 1 1) } }

theorem State.debugOpened_slot (s : State) (i : Nat) :
    s.debugOpened.slot i = erased (fun i x => decide (i ≠ 0) || decide (fld x.attr 14 2 = 0)) i (s.slot i) :=
  s.erase_slot _ i

theorem State.vopDebug_denied {s : State} (h : s.vlt.approved = true) : s.vopDebug = s.vFail vDenied := if_pos h

theorem State.vopDebug_done {s : State} (h : s.vlt.approved = false) (hl : s.anyLinkSlot = false) :
    s.vopDebug = ⟨s.debugOpened.zeroEvent 3, vOk, [], []⟩ := by
  unfold State.vopDebug
  rw [if_neg (by simp [h]), if_neg (by simp [hl])]
  rfl

theorem State.takeUse_some {s : State} {i : Nat} {x : Slot} (h : s.slot i = some x) : s.takeUse i =
    if x.uses = 0 then s else if x.uses = 1 then (s.setSlot i none).irq .vlt 1 else s.setSlot i (some { x with uses := x.uses - 1 }) := by
  rw [State.takeUse, h]

theorem State.takeUse_slot_ne (s : State) {i j : Nat} (h : j ≠ i) : (s.takeUse i).slot j = s.slot j := by
  cases hi : s.slot i with
  | none => rw [State.takeUse, hi]
  | some x =>
    rw [State.takeUse_some hi]
    split_ifs
    · rfl
    · exact (State.slot_congr (by rw [State.irq_vlt]) j).trans (State.setSlot_ne s none h)
    · exact State.setSlot_ne _ _ h

theorem State.vopRun_errorState {s : State} {o : VOp} (inp : Bytes) (h : s.cryError = true) (ho : o.op ≠ 0) : s.vopRun o inp = s.vFail vErrorState :=
  if_pos (by simp [h, ho])

theorem State.vopRun_noRoot {s : State} {o : VOp} (inp : Bytes) (h : s.cryError = false) (hr : s.rootOk = false) (h0 : o.op ≠ 0) (h3 : o.op ≠ 3) :
    s.vopRun o inp = s.vFail vNoRoot := by
  unfold State.vopRun
  rw [if_neg (by simp [h]), if_pos (by simp [hr, h0, h3])]

/-- Settles O52, each clause by the cases in which its service can end. -/
theorem vaultGuardsItsKeys : Obligations.VaultGuardsItsKeys := by
  unfold Obligations.VaultGuardsItsKeys
  refine ⟨?errorState, ?noRoot, ?create, ?exportKey, ?erase, ?approve, ?debug, ?uses⟩
  case errorState =>
    intro o inp s h ho
    rw [State.vopRun_errorState inp h ho]
    exact ⟨rfl, rfl, rfl, rfl⟩
  case noRoot =>
    intro o inp s h hr h0 h3
    rw [State.vopRun_noRoot inp h hr h0 h3]
    exact ⟨rfl, rfl, rfl⟩
  case create =>
    intro i v uses key org bind cls s
    refine ⟨State.createSlot_refused, fun h => ?_⟩
    obtain ⟨hb, hn, ha, x, hx⟩ := State.createSlot_ok h
    obtain ⟨hlen, hexp, hpair⟩ := attrBad_false ha
    exact ⟨hn, hb, hlen.symm, fun h12 => ⟨by simpa using (hexp h12).1, (hexp h12).2⟩, hpair, fun j hj => by rw [hx, State.setSlot_ne _ _ hj]⟩
  case exportKey =>
    intro o s
    obtain ⟨e, he, hx⟩ | ⟨x, p, ha, hb, hx⟩ := s.vopExport_cases o <;> rw [hx]
    · exact ⟨rfl, fun h => absurd h he⟩
    · obtain ⟨sa, ta⟩ := State.keyFor_ok ha
      obtain ⟨sb, tb⟩ := State.keyFor_ok hb
      exact ⟨rfl, fun _ => ⟨x, p, sa, ta, sb, tb, rfl⟩⟩
  case erase =>
    intro o s
    obtain ⟨e, he, hx⟩ | ⟨hb, hs, hx⟩ := s.vopErase_cases o <;> rw [hx]
    · exact ⟨fun h => absurd h he, fun _ => rfl⟩
    · exact ⟨fun _ => ⟨State.setSlot_same s none hs, hb, fun j hj => State.setSlot_ne s none hj⟩, fun h => absurd rfl h⟩
  case approve =>
    intro s
    refine ⟨fun h => ?_, fun h => ?_⟩
    · rw [State.vopApprove_refused h]
      exact ⟨rfl, rfl⟩
    · rw [State.vopApprove_done h]
      have hslot (j : Nat) := (s.fuseBlown.zeroEvent_slot 4 j).trans (s.fuseBlown_slot j)
      exact ⟨rfl, by rw [State.zeroEvent_vlt]; rfl, (hslot 0).trans (erased_self (fun _ => rfl) _), by rw [State.zeroEvent_vlt]; rfl,
        fun j hj => (hslot j).trans (erased_none (fun _ => decide_eq_true hj) _)⟩
  case debug =>
    intro s
    refine ⟨fun h => ?_, fun h hl => ?_⟩
    · rw [State.vopDebug_denied h]
      exact ⟨rfl, rfl⟩
    · rw [State.vopDebug_done h hl]
      have hslot (j : Nat) := (s.debugOpened.zeroEvent_slot 3 j).trans (s.debugOpened_slot j)
      refine ⟨rfl, by rw [State.zeroEvent_vlt]; rfl, fun j hj => (hslot j).trans (erased_none (fun _ => by simp [hj]) _), fun y hy => ?_⟩
      rw [hslot 0] at hy
      simpa [erased, Option.filter_eq_some_iff] using hy
  case uses =>
    intro i x s h
    have hs : (s.slot i).isSome = true := by rw [h]; rfl
    rw [State.takeUse_some h]
    refine ⟨fun h0 => if_pos h0, fun h1 => ?_, fun h2 => ?_, fun j hj => ?_⟩
    · rw [if_neg (by omega), if_pos h1]
      exact (State.slot_congr (by rw [State.irq_vlt]) i).trans (State.setSlot_same s none hs)
    · rw [if_neg (by omega), if_neg (by omega), State.setSlot_same s _ hs]
    · rw [← State.takeUse_some h, State.takeUse_slot_ne s hj]

end Sys2Proof.Machine
end

section
/-! PROOFS. Graphs and policies. -/

namespace Sys2Proof.Machine

open Sys2Proof

/-! ### Graphs (R249-R251) -/

theorem exec_graphCheck {m : Master} {s : State} (h : PageOpen s .cor m) (hc : s.cor.check = 0) :
    exec (.graphCheck m) s = .next ({ s with cor := { s.cor with check := 1 } }.answer .done) := by
  refine congrArg Host.Outcome.next ((State.writeAt_open h _ _ _).trans ?_)
  rw [if_pos hc]

/-- The state after a check with a result: the stage marked good with its identity, or the error and its interrupt (R249). -/
def State.checkNoted (u : State) (e : Nat × Nat) : State :=
  if e.1 = 0 then (u.wb R.cor_COR_STAT 3 true).wr R.cor_STAGE_ID (w32 (gId u.stagedBank))
  else (u.wr R.cor_GRAPH_ERR (w32 (e.1 + e.2 % 2 ^ 14 * 2 ^ 16))).irq .cor 3

theorem State.checkNoted_cor (u : State) (e : Nat × Nat) : (u.checkNoted e).cor = u.cor := by
  unfold State.checkNoted
  split_ifs <;> simp [State.wb]

theorem State.checkNoted_good (u : State) {e : Nat × Nat} (h : e.1 = 0) :
    (u.checkNoted e).rb R.cor_COR_STAT 3 = true ∧ (u.checkNoted e).rd R.cor_STAGE_ID = w32 (gId u.stagedBank) := by
  rw [State.checkNoted, if_pos h]
  exact ⟨(State.rb_congr (State.rd_wr_ne _ _ (by decide)) 3).trans (u.wb_rb_same _ true (by decide)), State.rd_wr_same _ _ _⟩

theorem State.checkNoted_bad (u : State) {e : Nat × Nat} (h : e.1 ≠ 0) :
    (u.checkNoted e).rd R.cor_GRAPH_ERR = w32 (e.1 + e.2 % 2 ^ 14 * 2 ^ 16) ∧ (u.checkNoted e).rd R.cor_COR_STAT = u.rd R.cor_COR_STAT := by
  rw [State.checkNoted, if_neg h]
  exact ⟨(State.irq_rd_past _ _ _ (by decide)).trans (State.rd_wr_same _ _ _), (State.irq_rd_past _ _ _ (by decide)).trans (State.rd_wr_ne _ _ (by decide))⟩

theorem exec_graphCheckDone {s : State} (hc : s.cor.check = 1) (hr : s.inReset .cor = false) :
    exec .graphCheckDone s = .next (({ s with cor := { s.cor with check := 0 } } : State).checkNoted (gCheck s.stagedBank s.net.seg)) := by
  have e : s.graphChecked = ({ s with cor := { s.cor with check := 0 } } : State).checkNoted (gCheck s.stagedBank s.net.seg) := by
    unfold State.graphChecked
    rw [if_neg (by simp [hc, hr])]
    simp only [hc]
    rfl
  exact congrArg Host.Outcome.next e

theorem State.corTick_taken {s : State} {a : Word} (ht : s.timeFor a = true) (hl : later a s.tick32 = true) : s.corTick a = none := by
  simp [State.corTick, ht, hl]

theorem State.corTick_noTime {s : State} {a : Word} (ht : s.timeFor a = false) : s.corTick a = some eNoTime := by
  simp [State.corTick, ht]

theorem State.corTick_past {s : State} {a : Word} (ht : s.timeFor a = true) (hl : later a s.tick32 = false) : s.corTick a = some eBadValue := by
  simp [State.corTick, ht, hl]

theorem exec_graphArm {m : Master} {s : State} (h : PageOpen s .cor m) :
    exec (.graphArm m) s = .next ((State.corErr (s.armSwap (s.rd R.cor_GRAPH_AT)) 0x54 m).answer .done) :=
  congrArg Host.Outcome.next (State.writeAt_open h _ _ _)

theorem graphArm_arms {m : Master} {s : State} (h : PageOpen s .cor m) (hg : s.rb R.cor_COR_STAT 3 = true)
    (ht : s.timeFor (s.rd R.cor_GRAPH_AT) = true) (hl : later (s.rd R.cor_GRAPH_AT) s.tick32 = true) :
    exec (.graphArm m) s = .next ({ s.wb R.cor_COR_STAT 4 true with cor := { s.cor with swapAt := some (s.fullTick (s.rd R.cor_GRAPH_AT)) } }.answer .done) := by
  rw [exec_graphArm h, State.armSwap, if_neg (by simp [hg]), State.corTick_taken ht hl]
  rfl

theorem graphArm_refused {m : Master} {s : State} (h : PageOpen s .cor m) (hg : s.rb R.cor_COR_STAT 3 = false) :
    exec (.graphArm m) s = .next ((s.err .cor 0x80 0x54 m).answer .done) := by
  rw [exec_graphArm h, State.armSwap, if_pos (by simp [hg])]
  rfl

theorem exec_graphDisarm {m : Master} {s : State} (h : PageOpen s .cor m) :
    exec (.graphDisarm m) s = .next ({ s.wb R.cor_COR_STAT 4 false with cor := { s.cor with swapAt := none } }.answer .done) :=
  congrArg Host.Outcome.next (State.writeAt_open h _ _ _)

/-- COR_STAT at a swap: the banks exchanged, the graph valid, the stage used and no swap armed. -/
def swapStat (w : Word) (bank : Nat) : Word := setFld (setFld (setFld w 1 1 1) 2 1 bank) 3 2 0

theorem swapStat_valid (w : Word) (bank : Nat) : tst (swapStat w bank) 1 = true := by
  rw [swapStat, tst_setFld_ne _ _ (by decide) (by decide), tst_setFld_ne _ _ (by decide) (by decide), tst_setFld _ _ _ (by decide)]
  rfl

theorem swapStat_bank (w : Word) (bank : Nat) : fld (swapStat w bank) 2 1 = bank % 2 := by
  rw [swapStat, fld_setFld_ne _ _ (by decide) (by decide), fld_setFld_same _ _ (by decide), Nat.pow_one]

theorem swapStat_stage (w : Word) (bank : Nat) : fld (swapStat w bank) 3 2 = 0 := by
  rw [swapStat, fld_setFld_same _ _ (by decide), Nat.zero_mod]

/-- The registers that the swap writes. -/
def State.swapRegs (s : State) : State :=
  ((s.wr R.cor_COR_STAT (swapStat (s.rd R.cor_COR_STAT) (1 - s.corActive))).wr R.cor_GRAPH_ID (w32 (gId s.stagedBank))).bumpSat R.cor_TRK_EXPIRED
    (s.cor.tracks.length - (s.cor.tracks.filterMap (trackSwap s.stagedBank)).length)

/-- The swap before its interrupt and its event (R251). -/
def State.graphSwapped (s : State) : State :=
  { s.swapRegs with cor := { s.swapRegs.cor with swapAt := none, tracks := s.cor.tracks.filterMap (trackSwap s.stagedBank), known := [] } }

theorem State.graphSwapped_rd (s : State) (a : Nat) : s.graphSwapped.rd a = s.swapRegs.rd a := by
  simp only [State.graphSwapped, State.rd]

theorem State.swapRegs_stat (s : State) : s.swapRegs.rd R.cor_COR_STAT = swapStat (s.rd R.cor_COR_STAT) (1 - s.corActive) := by
  rw [State.swapRegs, State.bumpSat_rd_ne _ _ (by decide), State.rd_wr_ne _ _ (by decide), State.rd_wr_same]

theorem State.swapRegs_id (s : State) : s.swapRegs.rd R.cor_GRAPH_ID = w32 (gId s.stagedBank) := by
  rw [State.swapRegs, State.bumpSat_rd_ne _ _ (by decide), State.rd_wr_same]

theorem State.corActive_le (s : State) : s.corActive ≤ 1 := Nat.le_of_lt_succ (Nat.mod_lt _ (by decide))

theorem exec_graphSwap {k : Nat} {s : State} (ha : s.cor.swapAt = some k) (hr : s.corRuns = true) (hk : k ≤ s.tick) :
    ∃ p, exec .graphSwap s = .next ((s.graphSwapped.irq .cor 2).event 0xF400 (blkSrc .cor) p) := by
  refine ⟨toLe 4 (gId s.stagedBank) ++ toLe 4 s.graphSwapped.tick32.toNat, ?_⟩
  have e : s.graphSwap = (s.graphSwapped.irq .cor 2).event 0xF400 (blkSrc .cor) (toLe 4 (gId s.stagedBank) ++ toLe 4 s.graphSwapped.tick32.toNat) := by
    unfold State.graphSwap
    rw [ha]
    refine (if_neg (by simp [hr, hk])).trans ?_
    simp only [State.graphSwapped, State.swapRegs, swapStat]
  exact congrArg Host.Outcome.next e

theorem graphSwap_swaps {k : Nat} {s : State} (ha : s.cor.swapAt = some k) (hr : s.corRuns = true) (hk : k ≤ s.tick) :
    ∃ t, exec .graphSwap s = .next t ∧ t.cor.swapAt = none ∧
    t.cor.tracks = s.cor.tracks.filterMap (trackSwap s.stagedBank) ∧ t.rd R.cor_GRAPH_ID = w32 (gId s.stagedBank) ∧ t.rb R.cor_COR_STAT 1 = true ∧
    t.rf R.cor_COR_STAT 2 1 = 1 - s.corActive ∧ t.rf R.cor_COR_STAT 3 2 = 0 ∧ ChangesOnly [.regs, .out, .mbx, .ldg, .cor, .pba] s t := by
  obtain ⟨p, hx⟩ := exec_graphSwap ha hr hk
  have hcor : ((s.graphSwapped.irq .cor 2).event 0xF400 (blkSrc .cor) p).cor = s.graphSwapped.cor := by
    rw [State.event_cor, State.irq_cor]
  have hrd {a : Nat} (h1 : a / 0x1000 = 0x1D) (h2 : PastHeader a) :
      ((s.graphSwapped.irq .cor 2).event 0xF400 (blkSrc .cor) p).rd a = s.swapRegs.rd a :=
    (State.event_pages _ _ _ _ a (by rw [h1]; decide)).trans ((State.irq_rd_past _ _ _ h2).trans (s.graphSwapped_rd a))
  have hst := (hrd (a := R.cor_COR_STAT) (by decide) (by decide)).trans s.swapRegs_stat
  refine ⟨_, hx, by rw [hcor]; rfl, by rw [hcor]; rfl, (hrd (by decide) (by decide)).trans s.swapRegs_id, ?_, ?_, ?_, (exec_goes hx).1⟩
  · rw [State.rb, hst, swapStat_valid]
  · rw [State.rf, hst, swapStat_bank, Nat.mod_eq_of_lt (by have := s.corActive_le; omega)]
  · rw [State.rf, hst, swapStat_stage]

/-! ### Policies (R259) -/

theorem exec_policyCommit {m : Master} {s : State} (h : PageOpen s .cor m) :
    exec (.policyCommit m) s = .next ((State.corErr (s.policyCommit (s.rd R.cor_POLICY_AT)) 0x78 m).answer .done) :=
  congrArg Host.Outcome.next (State.writeAt_open h _ _ _)

theorem policyCommit_waits {m : Master} {s : State} (h : PageOpen s .cor m) (ht : s.timeFor (s.rd R.cor_POLICY_AT) = true)
    (hl : later (s.rd R.cor_POLICY_AT) s.tick32 = true) : exec (.policyCommit m) s =
      .next ({ s.wb R.cor_COR_STAT 5 true with cor := { s.cor with polAt := some (s.fullTick (s.rd R.cor_POLICY_AT), s.stagedPolicy) } }.answer .done) := by
  rw [exec_policyCommit h, State.policyCommit, State.corTick_taken ht hl]
  rfl

theorem policyCommit_noTime {m : Master} {s : State} (h : PageOpen s .cor m) (ht : s.timeFor (s.rd R.cor_POLICY_AT) = false) :
    exec (.policyCommit m) s = .next (((s.noTime .cor (s.rd R.cor_POLICY_AT)).err .cor eNoTime 0x78 m).answer .done) := by
  rw [exec_policyCommit h, State.policyCommit, State.corTick_noTime ht]
  rfl

theorem policyCommit_past {m : Master} {s : State} (h : PageOpen s .cor m) (ht : s.timeFor (s.rd R.cor_POLICY_AT) = true)
    (hl : later (s.rd R.cor_POLICY_AT) s.tick32 = false) : exec (.policyCommit m) s = .next ((s.err .cor eBadValue 0x78 m).answer .done) := by
  rw [exec_policyCommit h, State.policyCommit, State.corTick_past ht hl]
  rfl

theorem exec_policyApply {k : Nat} {p : Policy} {s : State} (hp : s.cor.polAt = some (k, p)) (hr : s.corRuns = true) (hk : k ≤ s.tick) :
    exec .policyApply s = .next { (s.wb R.cor_COR_STAT 5 false).wr R.cor_POLICY_LAST s.tick32 with cor := { s.cor with polAt := none, pol := p } } := by
  have e : s.policyApply = { (s.wb R.cor_COR_STAT 5 false).wr R.cor_POLICY_LAST s.tick32 with cor := { s.cor with polAt := none, pol := p } } := by
    unfold State.policyApply
    rw [hp]
    exact if_neg (by simp [hr, hk])
  exact congrArg Host.Outcome.next e

/-- Settles O13, each clause by the equation of its command. -/
theorem graphsAndPoliciesTakeEffect : Obligations.GraphsAndPoliciesTakeEffect := by
  unfold Obligations.GraphsAndPoliciesTakeEffect
  refine ⟨⟨?check, ?checkDone, ?arm, ?armState, ?disarm, ?swap, ?noSwap⟩, ?commit, ?commitNoTime, ?commitPast, ?apply⟩
  case check => exact fun m s h hc => ⟨_, exec_graphCheck h hc, rfl, rfl, rfl⟩
  case checkDone =>
    intro s hc hr u e
    exact ⟨_, exec_graphCheckDone hc hr, rfl, by rw [State.checkNoted_cor], u.checkNoted_good, u.checkNoted_bad⟩
  case arm => exact fun m s h hg ht hl => ⟨_, graphArm_arms h hg ht hl, rfl, s.wb_rb_same _ true (by decide), rfl, rfl⟩
  case armState => exact fun m s h hg => graphArm_refused h hg
  case disarm => exact fun m s h => ⟨_, exec_graphDisarm h, rfl, s.wb_rb_same _ false (by decide), rfl, rfl⟩
  case swap => exact fun k s ha hr hk => graphSwap_swaps ha hr hk
  case noSwap =>
    intro s ha
    exact congrArg Host.Outcome.next (by rw [State.graphSwap, ha])
  case commit => exact fun m s h ht hl => ⟨_, policyCommit_waits h ht hl, rfl, s.wb_rb_same _ true (by decide), rfl, rfl⟩
  case commitNoTime => exact fun m s h ht => policyCommit_noTime h ht
  case commitPast => exact fun m s h ht hl => policyCommit_past h ht hl
  case apply =>
    intro k p s hp hr hk
    exact ⟨_, exec_policyApply hp hr hk, rfl, rfl, rfl, (State.rb_congr (State.rd_wr_ne _ _ (by decide)) 5).trans (s.wb_rb_same _ false (by decide)),
      State.rd_wr_same _ _ _⟩

end Sys2Proof.Machine
end

section
/-! SUPPORT. The ports of the drive. -/

namespace Sys2Proof.Machine

open Sys2Proof

/-! ### The ports of the drive and their pages -/

theorem State.modPort_same (s : State) {n : Nat} (f : Port → Port) (h : n < s.port.length) : (s.modPort n f).port' n = f (s.port' n) := by
  simp [State.port', State.modPort, setAt, h]

theorem State.modPort_ne (s : State) {n k : Nat} (f : Port → Port) (h : k ≠ n) : (s.modPort n f).port' k = s.port' k := by
  simp [State.port', State.modPort, setAt, List.getElem?_set_ne h.symm]

theorem State.modPort_length (s : State) (n : Nat) (f : Port → Port) : (s.modPort n f).port.length = s.port.length := List.length_set

theorem State.modPort_absent (s : State) {n : Nat} (f : Port → Port) (h : s.port.length ≤ n) : s.modPort n f = s := by
  simp only [State.modPort, setAt, List.set_eq_of_length_le h]

/-- A change that keeps what is read of a port keeps it of a port that is absent too. -/
theorem State.modPort_keeps {α : Type} (s : State) (n k : Nat) {f : Port → Port} (g : Port → α) (h : ∀ p, g (f p) = g p) :
    g ((s.modPort n f).port' k) = g (s.port' k) := by
  by_cases hk : k = n
  · subst hk
    by_cases hl : k < s.port.length
    · rw [s.modPort_same f hl, h]
    · rw [s.modPort_absent f (by omega)]
  · rw [s.modPort_ne f hk]

theorem State.port'_congr {s t : State} (h : t.port = s.port) (n : Nat) : t.port' n = s.port' n := by
  rw [State.port', h, State.port']

theorem State.modPort_rd (s : State) (n : Nat) (f : Port → Port) (a : Nat) : (s.modPort n f).rd a = s.rd a := rfl

theorem drvBlk_val (n : Fin 4) : drvBlk n.val = .drv n := by simp [drvBlk]

/-- The page of a drive port is neither that of LDG nor that of MBX. -/
theorem drv_page_ne (n : Fin 4) {off : Nat} (h : off < 0x1000) : (0x20000 + off + 0x1000 * n.val) / 0x1000 ∉ [0x2A, 0x2E] := by
  have := n.isLt
  simp only [List.mem_cons, List.not_mem_nil, or_false]
  omega

theorem drv_pastHeader (n : Fin 4) {off : Nat} (h : 0x40 ≤ off) (h' : off < 0x1000) : PastHeader (0x20000 + off + 0x1000 * n.val) := by
  show 0x40 ≤ _
  omega

theorem drv_hdr_page_ne (n : Fin 4) {off : Nat} (h : off < 0x1000) : hdr (.drv n) off / 0x1000 ∉ [0x2A, 0x2E] := by
  rw [hdr_page _ h]
  revert n
  decide

theorem State.fwEvent_pages (s : State) (code src : Nat) (p : Bytes) : PagesOnly [0x2A, 0x2E] s (s.fwEvent code src p) :=
  .ite (s.event_pages _ _ _) (.refl _ s)

@[simp] theorem State.fwEvent_port (s : State) (code src : Nat) (p : Bytes) : (s.fwEvent code src p).port = s.port := by
  unfold State.fwEvent
  split
  · exact s.event_port _ _ _
  · rfl

/-- A fault's event leaves the registers of the ports. -/
theorem State.drvFault_rd (s : State) (n : Fin 4) (k row pos : Nat) {off : Nat} (h : off < 0x1000) :
    (s.drvFault k row pos).rd (0x20000 + off + 0x1000 * n.val) = s.rd (0x20000 + off + 0x1000 * n.val) :=
  s.fwEvent_pages _ _ _ _ (drv_page_ne n h)

theorem State.drv_irq_raises (s : State) (n : Fin 4) {i : Nat} (h : i < 8) : (s.irq (.drv n) i).rb (hdr (.drv n) oRaw) i = true := by
  refine s.irq_raises _ (by omega) ?_
  revert h i
  show ∀ i, i < 8 → tst (w32 (2 ^ 8 - 1 + 0xC0000000)) i = true
  decide

/-- The interrupt of a fault stands after the fault's event. -/
theorem State.irq_drvFault_raises (s : State) (n : Fin 4) (k row pos : Nat) {i : Nat} (h : i < 8) :
    ((s.irq (.drv n) i).drvFault k row pos).rb (hdr (.drv n) oRaw) i = true :=
  (State.rb_congr (State.fwEvent_pages _ _ _ _ _ (drv_hdr_page_ne n (by decide))) i).trans (s.drv_irq_raises n h)

theorem State.irq_drvFault_port (s : State) (b : Blk) (i n row pos : Nat) : ((s.irq b i).drvFault n row pos).port = s.port := by
  rw [State.drvFault, State.fwEvent_port, State.irq_port]

end Sys2Proof.Machine
end

section
/-! PROOFS. Faults of the drive ports and the string test. -/

namespace Sys2Proof.Machine

open Sys2Proof

/-! ### Open positions and drop-outs (R298, R301) -/

theorem exec_openPosition {n : Fin 4} {k : Fin 32} {s : State} (hr : s.inReset (.drv n) = false) (hl : s.litPos n.val k.val = true) :
    exec (.openPosition n k) s = .next (((((s.wb (R.drv_OPEN_MASK n.val) k.val true).modPort n.val fun x => { x with latch := setBit x.latch k.val true }).irq (.drv n) 0).drvFault
      n.val 1 k.val)) :=
  congrArg Host.Outcome.next (if_neg (by simp [hr, hl]))

theorem exec_openPosition_none {n : Fin 4} {k : Fin 32} {s : State} (h : s.inReset (.drv n) = true ∨ s.litPos n.val k.val = false) :
    exec (.openPosition n k) s = .next s :=
  congrArg Host.Outcome.next (if_pos (by simpa using h))

theorem openPosition_latches {n : Fin 4} {k : Fin 32} {s : State} (hr : s.inReset (.drv n) = false) (hl : s.litPos n.val k.val = true) :
    ∃ t, exec (.openPosition n k) s = .next t ∧ t.rb (R.drv_OPEN_MASK n.val) k.val = true ∧ t.rb (hdr (.drv n) oRaw) 0 = true ∧ ChangesOnly (touches (.openPosition n k)) s t := by
  refine ⟨_, exec_openPosition hr hl, ?_, State.irq_drvFault_raises _ n _ _ _ (by decide), (exec_goes (exec_openPosition hr hl)).1⟩
  exact (State.rb_congr ((State.drvFault_rd _ n _ _ _ (off := 0x60) (by decide)).trans
    (State.irq_rd_past _ _ _ (drv_pastHeader n (off := 0x60) (by decide) (by decide)))) k.val).trans (s.wb_rb_same _ true k.isLt)

theorem exec_dropout {n : Fin 4} {s : State} (hr : s.inReset (.drv n) = false) (hl : (s.port' n.val).st.lit = true) :
    exec (.dropout n) s = .next (((s.bumpSat (R.drv_DROPOUT_CNT n.val) 1).irq (.drv n) 3).drvFault n.val 4 0) :=
  congrArg Host.Outcome.next (if_neg (by simp [hr, hl]))

theorem exec_dropout_none {n : Fin 4} {s : State} (h : s.inReset (.drv n) = true ∨ (s.port' n.val).st.lit = false) : exec (.dropout n) s = .next s :=
  congrArg Host.Outcome.next (if_pos (by simpa using h))

theorem dropout_counts {n : Fin 4} {s : State} (hr : s.inReset (.drv n) = false) (hl : (s.port' n.val).st.lit = true) : ∃ t, exec (.dropout n) s = .next t ∧
    t.rd (R.drv_DROPOUT_CNT n.val) = satAdd (s.rd (R.drv_DROPOUT_CNT n.val)) 1 ∧ t.rb (hdr (.drv n) oRaw) 3 = true ∧ ChangesOnly (touches (.dropout n)) s t := by
  refine ⟨_, exec_dropout hr hl, ?_, State.irq_drvFault_raises _ n _ _ _ (by decide), (exec_goes (exec_dropout hr hl)).1⟩
  exact (State.drvFault_rd _ n _ _ _ (off := 0x80) (by decide)).trans
    ((State.irq_rd_past _ _ _ (drv_pastHeader n (off := 0x80) (by decide) (by decide))).trans (s.bumpSat_rd_same _ 1))

/-! ### A port in the fault state (R303) -/

/-- A fault darkens its port, where the port is not already in fault or in reset. -/
theorem State.portFault_kept {s : State} {n : Fin 4} (i row : Nat) (h : s.inReset (.drv n) = true ∨ (s.port' n.val).st = .fault) :
    s.portFault n.val i row = s := by
  unfold State.portFault
  rw [drvBlk_val]
  exact if_pos (by simpa using h)

theorem State.portFault_darkens {s : State} {n : Fin 4} {i : Nat} (row : Nat) (hi : i < 8) (hr : s.inReset (.drv n) = false) (hn : n.val < s.port.length)
    (hf : (s.port' n.val).st ≠ .fault) : ((s.portFault n.val i row).port' n.val).st = .fault ∧ ((s.portFault n.val i row).port' n.val).link = (s.port' n.val).link ∧
      (s.portFault n.val i row).rb (hdr (.drv n) oRaw) i = true ∧ ∀ k, k ≠ n.val → (s.portFault n.val i row).port' k = s.port' k := by
  unfold State.portFault
  rw [drvBlk_val]
  extract_lets p u
  rw [if_neg (by simp [hr, hf, p])]
  have hu : u.port = s.port := by
    unfold u
    split
    · exact (goes_setDrained s (.drv n) rfl (.refl [.regs, .out, .pba] s)).1 .port (by decide)
    · rfl
  have hport (k : Nat) : (((u.modPort n.val fun x => { x with st := .fault, start := 0, wasDef := decide (p.st = .dflt) }).irq (.drv n) i).drvFault n.val row 0).port' k =
      (s.modPort n.val fun x => { x with st := .fault, start := 0, wasDef := decide (p.st = .dflt) }).port' k := by
    refine State.port'_congr ((State.irq_drvFault_port _ _ _ _ _ _).trans ?_) k
    simp only [State.modPort, State.port', hu]
  refine ⟨?_, ?_, State.irq_drvFault_raises _ n _ _ _ hi, fun k hk => (hport k).trans (s.modPort_ne _ hk)⟩
  · rw [hport, s.modPort_same _ hn]
  · rw [hport, s.modPort_same _ hn]

theorem exec_sinkHot (n : Fin 4) (s : State) : exec (.sinkHot n) s = .next (s.portFault n.val 5 6) := rfl

theorem exec_drvLinkLost (n : Fin 4) (s : State) : exec (.drvLinkLost n) s = .next ((s.modPort n.val fun x => { x with link := false }).portFault n.val 6 7) := rfl

theorem sinkHot_darkens {n : Fin 4} {s : State} (hr : s.inReset (.drv n) = false) (hn : n.val < s.port.length) (hf : (s.port' n.val).st ≠ .fault) :
    ∃ t, exec (.sinkHot n) s = .next t ∧ (t.port' n.val).st = .fault ∧ (t.port' n.val).st.lit = false ∧ t.rb (hdr (.drv n) oRaw) 5 = true ∧
      (∀ k, k ≠ n.val → t.port' k = s.port' k) ∧ ChangesOnly (touches (.sinkHot n)) s t := by
  obtain ⟨hst, -, hirq, hne⟩ := State.portFault_darkens (i := 5) 6 (by decide) hr hn hf
  exact ⟨_, exec_sinkHot n s, hst, by rw [hst]; rfl, hirq, hne, (exec_goes (exec_sinkHot n s)).1⟩

theorem drvLinkLost_darkens {n : Fin 4} {s : State} (hr : s.inReset (.drv n) = false) (hn : n.val < s.port.length) (hf : (s.port' n.val).st ≠ .fault) :
    ∃ t, exec (.drvLinkLost n) s = .next t ∧ (t.port' n.val).st = .fault ∧ (t.port' n.val).link = false ∧ t.rb (hdr (.drv n) oRaw) 6 = true ∧
      (∀ k, k ≠ n.val → t.port' k = s.port' k) ∧ ChangesOnly (touches (.drvLinkLost n)) s t := by
  have hp := s.modPort_same (fun x => { x with link := false }) hn
  obtain ⟨hst, hlink, hirq, hne⟩ := State.portFault_darkens (s := s.modPort n.val fun x => { x with link := false }) (i := 6) 7 (by decide) hr
    (by rw [State.modPort_length]; exact hn) (by rw [hp]; exact hf)
  exact ⟨_, exec_drvLinkLost n s, hst, hlink.trans (by rw [hp]), hirq, fun k hk => (hne k hk).trans (s.modPort_ne _ hk), (exec_goes (exec_drvLinkLost n s)).1⟩

theorem fault_keepsPort {n : Fin 4} {s : State} (h : s.inReset (.drv n) = true ∨ (s.port' n.val).st = .fault) :
    exec (.sinkHot n) s = .next s ∧ exec (.drvLinkLost n) s = .next (s.modPort n.val fun x => { x with link := false }) := by
  refine ⟨congrArg Host.Outcome.next (State.portFault_kept _ _ h), congrArg Host.Outcome.next (State.portFault_kept _ _ (h.imp id fun hf => ?_))⟩
  exact (s.modPort_keeps n.val n.val Port.st (f := fun x => { x with link := false }) fun _ => rfl).trans hf

/-! ### The string test (R302, R303) -/

theorem State.testPos_testCnt (s : State) (n : Fin 4) (p v : Nat) : (s.testPos n.val p v).rd (R.drv_TEST_CNT n.val) = s.rd (R.drv_TEST_CNT n.val) := by
  have noted (t : State) {a : Nat} (i row : Nat) (ha : R.drv_TEST_CNT n.val ≠ a) :
      (((t.wb a p true).irq (drvBlk n.val) i).drvFault n.val row p).rd (R.drv_TEST_CNT n.val) = t.rd (R.drv_TEST_CNT n.val) := by
    refine (State.drvFault_rd _ n _ _ _ (off := 0x88) (by decide)).trans ((State.irq_rd_past _ _ _ (drv_pastHeader n (off := 0x88) (by decide) (by decide))).trans (t.wb_rd_ne _ _ ha))
  unfold State.testPos
  extract_lets h dev far u v w
  have hv : v.rd (R.drv_TEST_CNT n.val) = s.rd (R.drv_TEST_CNT n.val) :=
    (State.modPort_rd _ _ _ _).trans (s.rd_wr_ne _ (by simp only [R.drv_TEST_CNT, R.drv_VFp]; omega))
  have hw : w.rd (R.drv_TEST_CNT n.val) = s.rd (R.drv_TEST_CNT n.val) := by
    unfold w
    split
    · rw [noted _ _ _ (by simp only [R.drv_TEST_CNT, R.drv_SHORT_MASK]; omega), hv]
    · exact hv
  split
  · rw [noted _ _ _ (by simp only [R.drv_TEST_CNT, R.drv_DEV_MASK]; omega), hw]
  · exact hw

/-- The state in which the positions of a port are sampled. -/
def State.sampled (s : State) (n : Nat) (vs : List Nat) : State :=
  let t := s.modPort n fun x => { x with cut := some s.sf }
  (t.active n).foldl (fun (u : State) q => match vs[q]? with | some v => u.testPos n q v | none => u) t

theorem State.sampled_testCnt (s : State) (n : Fin 4) (vs : List Nat) : (s.sampled n.val vs).rd (R.drv_TEST_CNT n.val) = s.rd (R.drv_TEST_CNT n.val) := by
  unfold State.sampled
  refine (foldl_rd (fun t q => ?_) _ _).trans rfl
  split
  · exact t.testPos_testCnt n _ _
  · rfl

theorem State.stringTest_outside {s : State} {n : Nat} (vs : List Nat)
    (h : s.testSf s.sf = false ∨ s.tick % 256 ≠ s.rf R.drg_TEST_CFG 16 8 ∨ (s.port' n).cut = some s.sf) : s.stringTest n vs = s := by
  refine if_pos ?_
  obtain h | h | h := h <;> simp [h]

theorem State.testable_st {s : State} {n : Nat} (h : s.testable n = true) : (s.port' n).st = .dflt ∨ (s.port' n).st = .running ∨ (s.port' n).st = .paused := by
  unfold State.testable at h
  simpa [or_assoc] using (Bool.and_eq_true_iff.mp h).1

theorem State.stringTest_tests {s : State} {n : Nat} (vs : List Nat) (hr : s.inReset (drvBlk n) = false) (hd : s.inReset .drg = false) (hnet : s.onNet = true)
    (hsf : s.testSf s.sf = true) (ht : s.tick % 256 = s.rf R.drg_TEST_CFG 16 8) (hc : (s.port' n).cut ≠ some s.sf) (hg : s.testable n = true) :
    s.stringTest n vs = ((s.sampled n vs).wf (R.drv_TEST_CNT n) 0 16 (min 65535 ((s.sampled n vs).rf (R.drv_TEST_CNT n) 0 16 + 1))).irq (drvBlk n) 7 := by
  unfold State.stringTest
  dsimp only
  rw [if_neg (by simp [hr, hd, hnet, hsf, ht, hc]), if_pos (State.testable_st hg), if_neg (by simp [hg])]
  rfl

theorem stringTest_counts {n : Fin 4} (vs : List Nat) {s : State} (hr : s.inReset (.drv n) = false) (hd : s.inReset .drg = false) (hnet : s.onNet = true)
    (hsf : s.testSf s.sf = true) (ht : s.tick % 256 = s.rf R.drg_TEST_CFG 16 8) (hc : (s.port' n.val).cut ≠ some s.sf) (hg : s.testable n.val = true) :
    ∃ t, exec (.stringTest n vs) s = .next t ∧ t.rb (hdr (.drv n) oRaw) 7 = true ∧
      t.rf (R.drv_TEST_CNT n.val) 0 16 = min 65535 (s.rf (R.drv_TEST_CNT n.val) 0 16 + 1) ∧ ChangesOnly (touches (.stringTest n vs)) s t := by
  have hx : exec (.stringTest n vs) s = .next _ :=
    congrArg Host.Outcome.next (State.stringTest_tests vs (n := n.val) (by rw [drvBlk_val]; exact hr) hd hnet hsf ht hc hg)
  rw [drvBlk_val] at hx
  refine ⟨_, hx, State.drv_irq_raises _ n (by decide), ?_, (exec_goes hx).1⟩
  refine (State.rf_congr (State.irq_rd_past _ _ _ (drv_pastHeader n (off := 0x88) (by decide) (by decide))) 0 16).trans ((State.wf_rf_same _ _ _ (by decide)).trans ?_)
  rw [State.rf_congr (s.sampled_testCnt n vs), Nat.mod_eq_of_lt (by omega)]

/-- Settles O44, by the equation of each command and what its event and interrupt leave. -/
theorem stringFaultsAreLatchedAndEndTheirPort : Obligations.StringFaultsAreLatchedAndEndTheirPort :=
  ⟨fun _ _ _ hr hl => openPosition_latches hr hl, fun _ _ _ h => exec_openPosition_none h, fun _ _ hr hl => dropout_counts hr hl, fun _ _ h => exec_dropout_none h,
    fun _ _ hr hn hf => ⟨sinkHot_darkens hr hn hf, drvLinkLost_darkens hr hn hf⟩, fun _ _ h => fault_keepsPort h,
    fun _ vs _ h => congrArg Host.Outcome.next (State.stringTest_outside vs h), fun _ vs _ hr hd hnet hsf ht hc hg => stringTest_counts vs hr hd hnet hsf ht hc hg⟩

end Sys2Proof.Machine
end

section
/-! PROOFS. Banks, swaps and the drive's mailbox commands. -/

namespace Sys2Proof.Machine

open Sys2Proof

/-! ### The banks (R293) -/

theorem getD_modAt_ne {α : Type} (l : List α) {i j : Nat} (f : α → α) (d : α) (h : j ≠ i) : (modAt l i f).getD j d = l.getD j d := by
  simp [modAt, h.symm]

theorem getD_modAt_same {α : Type} (l : List α) (i : Nat) (f : α → α) (d : α) : (modAt l i f).getD i d = if i < l.length then f (l.getD i d) else d := by
  by_cases h : i < l.length
  · simp [modAt, h]
  · simp [modAt, h]

theorem State.putShadow_bankOf {s : State} (n i : Nat) (v : Word) (k : Nat) (h : s.drg.active < 2) : (s.putShadow n i v).bankOf k = s.bankOf k := by
  have hb : (s.putShadow n i v).drg.banks.getD s.drg.active [] = s.drg.banks.getD s.drg.active [] := getD_modAt_ne _ _ _ (by omega)
  exact congrArg (fun b : List (List Nat) => b.getD k []) hb

theorem State.putShadow_shadowOf (s : State) {n k : Nat} (i : Nat) (v : Word) (h : k ≠ n) : (s.putShadow n i v).shadowOf k = s.shadowOf k := by
  have hb := getD_modAt_same s.drg.banks (1 - s.drg.active)
    (fun b => modAt b n fun l => setAt (setAt l (2 * i) (fld v 0 16)) (2 * i + 1) (fld v 16 16)) []
  refine (congrArg (fun b : List (List Nat) => b.getD k []) hb).trans ?_
  rw [State.shadowOf]
  split
  · exact getD_modAt_ne _ _ _ h
  · next hl => rw [List.getD_eq_default _ _ (Nat.le_of_not_lt hl)]

theorem State.shadowWrite_armed {s : State} (m : Master) (n i : Nat) (v : Word) (h : s.drg.armed.isSome = true) :
    s.shadowWrite m n i v = s.err .drg 0x80 (0x100 + 64 * n + 4 * i) m := if_pos h

theorem State.shadowWrite_puts {s : State} (m : Master) (n i : Nat) (v : Word) (h : s.drg.armed = none) : s.shadowWrite m n i v = s.putShadow n i v :=
  if_neg (by simp [h])

theorem exec_shadowWrite {m : Master} {s : State} (n : Fin 4) (i : Fin 16) (v : Word) (h : PageOpen s .drg m) :
    exec (.shadowWrite m n i v) s = .next ((s.shadowWrite m n.val i.val v).answer .done) :=
  congrArg Host.Outcome.next (State.writeAt_open h _ _ _)

theorem shadowWrite_spec (m : Master) (n : Fin 4) (i : Fin 16) (v : Word) (s : State) (h : PageOpen s .drg m) :
    (s.drg.armed = none → s.drg.active < 2 → ∃ t, exec (.shadowWrite m n i v) s = .next t ∧ t.resp = .done ∧ (∀ k, t.bankOf k = s.bankOf k) ∧
      (∀ k, k ≠ n.val → t.shadowOf k = s.shadowOf k) ∧ ChangesOnly [.drg, .resp] s t) ∧
    (s.drg.armed.isSome = true → exec (.shadowWrite m n i v) s = .next ((s.err .drg 0x80 (0x100 + 64 * n.val + 4 * i.val) m).answer .done)) := by
  refine ⟨fun ha hb => ?_, fun ha => ?_⟩ <;> rw [exec_shadowWrite n i v h]
  · rw [State.shadowWrite_puts _ _ _ _ ha]
    exact ⟨_, rfl, rfl, fun k => State.putShadow_bankOf _ _ _ k hb, fun k hk => s.putShadow_shadowOf _ _ hk, (goes_answer _ _ rfl (goes_set_drg s _ rfl (.refl _ s))).1⟩
  · rw [State.shadowWrite_armed _ _ _ _ ha]

/-! ### Arming, withdrawing and meeting a swap (R293, R294) -/

theorem State.armBanks_armed {s : State} (c : DWord) (h : s.drg.armed.isSome = true) : s.armBanks c = (s, some 0x80) := if_pos h

theorem State.armBanks_source3 {s : State} (c : DWord) (h : s.drg.armed = none) (h3 : s.rf R.drg_SWAP_CFG 0 2 = 3) : s.armBanks c = (s, some eBadValue) :=
  (if_neg (by simp [h])).trans (if_pos h3)

/-- A swap without a tick of its own is armed at once. -/
theorem State.armBanks_arms {s : State} (c : DWord) (h : s.drg.armed = none) (h3 : s.rf R.drg_SWAP_CFG 0 2 = 0 ∨ s.rf R.drg_SWAP_CFG 0 2 = 2) :
    ∃ a : Armed, a.src = s.rf R.drg_SWAP_CFG 0 2 ∧ a.cnt = c ∧ s.armBanks c = ({ s with drg := { s.drg with armed := some a } }, none) := by
  have h1 : s.rf R.drg_SWAP_CFG 0 2 ≠ 1 := by omega
  exact ⟨⟨_, _, _, _⟩, rfl, rfl, (if_neg (by simp [h])).trans ((if_neg (by omega)).trans ((if_neg fun e => h1 e.1).trans (if_neg fun e => h1 e.1)))⟩

theorem exec_swapArm {m : Master} {s : State} (c : DWord) (h : PageOpen s .drg m) : exec (.swapArm m c) s = .next ((s.ctrlArm m c).answer .done) :=
  congrArg Host.Outcome.next (State.writeAt_open h _ _ _)

theorem swapArm_spec (m : Master) (c : DWord) (s : State) (h : PageOpen s .drg m) :
    (s.drg.armed.isSome = true → exec (.swapArm m c) s = .next (((s.at c).err .drg 0x80 0x4C m).answer .done)) ∧
    (s.drg.armed = none → s.rf R.drg_SWAP_CFG 0 2 = 3 → exec (.swapArm m c) s = .next (((s.at c).err .drg eBadValue 0x4C m).answer .done)) ∧
    (s.drg.armed = none → s.rf R.drg_SWAP_CFG 0 2 = 0 ∨ s.rf R.drg_SWAP_CFG 0 2 = 2 → ∃ t, exec (.swapArm m c) s = .next t ∧ t.resp = .done ∧
      t.drg.armed.map (fun a => (a.src, a.cnt)) = some (s.rf R.drg_SWAP_CFG 0 2, c) ∧ t.drg.banks = s.drg.banks ∧ ChangesOnly [.drg, .cnt, .resp] s t) := by
  refine ⟨fun ha => ?_, fun ha h3 => ?_, fun ha hsrc => ?_⟩ <;> rw [exec_swapArm c h, State.ctrlArm]
  · rw [State.armBanks_armed c (s := s.at c) ha]
  · rw [State.armBanks_source3 c (s := s.at c) ha h3]
  · obtain ⟨a, hs, hc, e⟩ := State.armBanks_arms c (s := s.at c) ha hsrc
    rw [e]
    exact ⟨_, rfl, rfl, congrArg some (Prod.ext hs hc), rfl, (goes_answer _ _ rfl (goes_set_drg _ _ rfl (goes_at s c rfl (.refl _ s)))).1⟩

theorem State.bankReply_drg (s : State) (st : Nat) : (s.bankReply st).drg = { s.drg with tag := none } := by
  unfold State.bankReply
  split
  · next h => rw [← h]
  · dsimp only
    split
    · rw [State.reply_drg]
    · rfl

theorem swapDisarm_spec (m : Master) (s : State) (h : PageOpen s .drg m) : ∃ t, exec (.swapDisarm m) s = .next t ∧ t.resp = .done ∧ t.drg.armed = none ∧
    t.drg.banks = s.drg.banks ∧ ChangesOnly (touches (.swapDisarm m)) s t := by
  have hx : exec (.swapDisarm m) s = .next (s.ctrlDisarm.answer .done) := congrArg Host.Outcome.next (State.writeAt_open h _ _ _)
  have hd : s.ctrlDisarm.drg = { s.drg with armed := none, tag := none } := State.bankReply_drg _ _
  exact ⟨_, hx, rfl, (congrArg Drg.armed hd).trans rfl, (congrArg Drg.banks hd).trans rfl, (exec_goes hx).1⟩

/-- A frame-sync edge counted and captured (R294). -/
def State.fsyncNoted (s : State) (c : DWord) : State :=
  ((s.at c).bumpSat R.drg_FSYNC_CNT 1).wr64 R.drg_LAST_FSYNC_LO R.drg_LAST_FSYNC_HI (s.ntNs c)

theorem State.fsyncNoted_rd (s : State) (c : DWord) {a : Nat} (h : a ∉ [R.drg_FSYNC_CNT, R.drg_LAST_FSYNC_LO, R.drg_LAST_FSYNC_HI]) : (s.fsyncNoted c).rd a = s.rd a := by
  simp only [List.mem_cons, List.not_mem_nil, or_false, not_or] at h
  obtain ⟨hcnt, hlo, hhi⟩ := h
  exact (State.wr64_regsOnly _ _ _ _ a (by simp [hlo, hhi])).trans ((State.bumpSat_rd_ne _ _ hcnt).trans (s.rd_at c a))

theorem State.fsyncNoted_cnt (s : State) (c : DWord) : (s.fsyncNoted c).rd R.drg_FSYNC_CNT = satAdd (s.rd R.drg_FSYNC_CNT) 1 :=
  (State.wr64_regsOnly _ _ _ _ _ (by decide)).trans (State.bumpSat_rd_same _ _ _)

theorem exec_fsyncEdge {b : Bool} {c : DWord} {s : State} (hr : s.inReset .drg = false) : exec (.fsyncEdge b c) s = .next
    (if b = s.rb R.drg_SWAP_CFG 2 then s.fsyncNoted c else match s.drg.armed with
      | some a => if a.src = 2 ∧ a.ripe c then (s.fsyncNoted c).bankSwap ((s.fsyncNoted c).ntNs c) false else ((s.fsyncNoted c).bumpSat R.drg_FSYNC_EARLY 1).irq .drg 1
      | none => ((s.fsyncNoted c).bumpSat R.drg_FSYNC_EARLY 1).irq .drg 1) := by
  have hcfg : (s.fsyncNoted c).rb R.drg_SWAP_CFG 2 = s.rb R.drg_SWAP_CFG 2 := State.rb_congr (s.fsyncNoted_rd c (by decide)) 2
  refine congrArg Host.Outcome.next ((if_neg (by simp [hr])).trans ?_)
  rw [← hcfg]
  rfl

theorem fsyncEdge_other {b : Bool} {c : DWord} {s : State} (hr : s.inReset .drg = false) (hb : b = s.rb R.drg_SWAP_CFG 2) :
    ∃ t, exec (.fsyncEdge b c) s = .next t ∧ t = ((s.at c).bumpSat R.drg_FSYNC_CNT 1).wr64 R.drg_LAST_FSYNC_LO R.drg_LAST_FSYNC_HI (s.ntNs c) ∧
      t.rd R.drg_FSYNC_CNT = satAdd (s.rd R.drg_FSYNC_CNT) 1 ∧ t.rd64 R.drg_LAST_FSYNC_LO R.drg_LAST_FSYNC_HI = s.ntNs c % 2 ^ 64 := by
  rw [exec_fsyncEdge hr, if_pos hb]
  exact ⟨_, rfl, rfl, s.fsyncNoted_cnt c, State.rd64_wr64 _ _ (by decide)⟩

theorem fsyncEdge_early {b : Bool} {c : DWord} {s : State} (hr : s.inReset .drg = false) (hb : b ≠ s.rb R.drg_SWAP_CFG 2) (ha : s.drg.armed = none) :
    ∃ t, exec (.fsyncEdge b c) s = .next t ∧ t.rd R.drg_FSYNC_EARLY = satAdd (s.rd R.drg_FSYNC_EARLY) 1 ∧ t.drg = s.drg ∧ t.rb (hdr .drg oRaw) 1 = true ∧
      ChangesOnly [.regs, .cnt, .pba, .out] s t := by
  rw [exec_fsyncEdge hr, if_neg hb, ha]
  refine ⟨_, rfl, (State.irq_rd_past _ _ _ (by decide)).trans ((State.bumpSat_rd_same _ _ _).trans (by rw [s.fsyncNoted_rd c (by decide)])), State.irq_drg _ _ _,
    State.irq_raises _ _ (by decide) (by decide), ?_⟩
  exact (goes_irq _ _ _ rfl (goes_bumpSat _ _ _ rfl (goes_wr64 _ _ _ _ rfl (goes_bumpSat _ _ _ rfl (goes_at s c rfl (.refl _ s)))))).1

/-! ### TAKE and CLR_FAULT (R303, R304) -/

theorem drvTake_waits (m : Master) (n : Fin 4) (s : State) (h : PageOpen s (.drv n) m) : ∃ t, exec (.drvTake m n) s = .next t ∧
    t = (s.modPort n.val fun x => { x with take := if m = .host then 2 else 1 }).answer .done ∧ (n.val < s.port.length → (t.port' n.val).take = if m = .host then 2 else 1) :=
  ⟨_, congrArg Host.Outcome.next (State.writeAt_open h _ _ _), rfl, fun hn => congrArg Port.take (s.modPort_same (fun x => { x with take := if m = .host then 2 else 1 }) hn)⟩

theorem exec_drvClrFault {m : Master} {n : Fin 4} {s : State} (h : PageOpen s (.drv n) m) : exec (.drvClrFault m n) s = .next ((s.clrFault n.val).answer .done) :=
  congrArg Host.Outcome.next (State.writeAt_open h _ _ _)

theorem drvClrFault_spec (m : Master) (n : Fin 4) (s : State) (h : PageOpen s (.drv n) m) :
    ((s.port' n.val).st ≠ .fault → exec (.drvClrFault m n) s = .next (s.answer .done)) ∧
    ((s.port' n.val).st = .fault → ∃ t, exec (.drvClrFault m n) s = .next t ∧ t = (s.modPort n.val fun x => { x with link := true, st := .off, start := 2 }).answer .done ∧
      (n.val < s.port.length → (t.port' n.val).st = .off ∧ (t.port' n.val).start = 2)) := by
  rw [exec_drvClrFault h]
  refine ⟨fun hf => congrArg (fun t : State => Host.Outcome.next (t.answer .done)) (if_pos hf), fun hf => ⟨_, rfl, congrArg (State.answer · .done) (if_neg (not_not.mpr hf)), fun hn => ?_⟩⟩
  have hp : (s.clrFault n.val).port' n.val = { s.port' n.val with link := true, st := .off, start := 2 } := by
    rw [State.clrFault, if_neg (not_not.mpr hf), s.modPort_same _ hn]
  exact ⟨congrArg Port.st hp, congrArg Port.start hp⟩

/-! ### BANK_LOAD, DRV_STATUS and DEFAULT_SET (R307) -/

/-- What BANK_LOAD makes of a good command: the shadow is loaded and a swap armed for the reply. -/
def State.bankLoaded (s : State) (tag : Word) (c : DWord) (k : Cmd) : State :=
  let t := (s.at c).loadShadow k.bytes
  let at' := if k.e.apply = 0 then w32 (t.tick + 2) else k.e.apply
  match ((t.wf R.drg_SWAP_CFG 0 2 (k.par 0 1)).wr R.drg_SWAP_AT at').armBanks c with
  | (u, none) => ({ u with drg := { u.drg with tag := some tag } }).defer k
  | (u, some e) => u.reply k (if e = eNoTime then stNoTime else stBadParam) [] []

theorem exec_bankLoad {tag : Word} {c : DWord} {k : Cmd} {s : State} (h : Ready s 0x0600 tag k) : exec (.bankLoad tag c) s = .next
    (if k.e.length ≠ 256 then s.reply k stBadLength [] [] else if 2 < k.par 0 1 then s.reply k stBadParam [] []
      else if !s.takes .drg then s.reply k stBusy [] [] else if s.drg.armed.isSome then s.reply k stFault (toLe 1 0x80) [] else s.bankLoaded tag c k) :=
  congrArg Host.Outcome.next (State.withCmd_ready h _)

/-- With a source that needs no tick the banks are armed with the shadow loaded. -/
theorem State.bankLoaded_fsync {s : State} {k : Cmd} (tag : Word) (c : DWord) (ha : s.drg.armed = none) (hsrc : k.par 0 1 = 2) :
    ∃ a, (s.bankLoaded tag c k).drg = { s.drg with banks := ((s.at c).loadShadow k.bytes).drg.banks, armed := some a, tag := some tag } := by
  unfold State.bankLoaded
  extract_lets t at'
  have hcfg : ((t.wf R.drg_SWAP_CFG 0 2 (k.par 0 1)).wr R.drg_SWAP_AT at').rf R.drg_SWAP_CFG 0 2 = 2 :=
    (State.rf_congr (State.rd_wr_ne _ _ (by decide)) 0 2).trans ((State.wf_rf_same _ _ _ (by decide)).trans (congrArg (· % 4) hsrc))
  obtain ⟨a, -, -, e⟩ := State.armBanks_arms c (s := (t.wf R.drg_SWAP_CFG 0 2 (k.par 0 1)).wr R.drg_SWAP_AT at') ha (.inr hcfg)
  rw [e]
  exact ⟨a, rfl⟩

theorem loadShadow_shadow {s : State} {d : Drg} (b : Bytes) {n : Nat} (hn : n < 4) (ha : s.drg.active < 2) (hl : s.drg.banks.length = 2)
    (hd : d.active = s.drg.active) (hb : d.banks = (s.loadShadow b).drg.banks) :
    (d.banks.getD (1 - d.active) []).getD n [] = (List.range 32).map fun p => le b (64 * n + 2 * p) 2 := by
  have hi : 1 - s.drg.active < s.drg.banks.length := by omega
  rw [hd, hb]
  simp [State.loadShadow, setAt, hi, hn]

theorem bankLoad_spec (tag : Word) (c : DWord) (k : Cmd) (s : State) (h : Ready s 0x0600 tag k) :
    (k.e.length ≠ 256 → (∃ t, exec (.bankLoad tag c) s = .next t ∧ t = s.reply k stBadLength [] [] ∧ Ended k t)) ∧
    (k.e.length = 256 → 2 < k.par 0 1 → (∃ t, exec (.bankLoad tag c) s = .next t ∧ t = s.reply k stBadParam [] [] ∧ Ended k t)) ∧
    (k.e.length = 256 → k.par 0 1 ≤ 2 → s.takes .drg = false → (∃ t, exec (.bankLoad tag c) s = .next t ∧ t = s.reply k stBusy [] [] ∧ Ended k t)) ∧
    (k.e.length = 256 → k.par 0 1 ≤ 2 → s.takes .drg = true → s.drg.armed.isSome = true →
      (∃ t, exec (.bankLoad tag c) s = .next t ∧ t = s.reply k stFault (toLe 1 0x80) [] ∧ Ended k t)) ∧
    (k.e.length = 256 → k.par 0 1 = 2 → s.takes .drg = true → s.drg.armed = none → ∃ t, exec (.bankLoad tag c) s = .next t ∧ t.drg.tag = some tag ∧ t.drg.armed.isSome = true ∧
      (s.drg.active < 2 → s.drg.banks.length = 2 → ∀ n, n < 4 → t.shadowOf n = (List.range 32).map fun p => le k.bytes (64 * n + 2 * p) 2) ∧
      ChangesOnly (touches (.bankLoad tag c)) s t) := by
  have hx := exec_bankLoad (c := c) h
  refine ⟨fun hl => ?_, fun hl hp => ?_, fun hl hp ht => ?_, fun hl hp ht ha => ?_, fun hl hp ht ha => ?_⟩
  · rw [if_pos hl] at hx
    exact replied_ends hx
  · rw [if_neg (not_not.mpr hl), if_pos hp] at hx
    exact replied_ends hx
  · rw [if_neg (not_not.mpr hl), if_neg (by omega), if_pos (by simp [ht])] at hx
    exact replied_ends hx
  · rw [if_neg (not_not.mpr hl), if_neg (by omega), if_neg (by simp [ht]), if_pos ha] at hx
    exact replied_ends hx
  · rw [if_neg (not_not.mpr hl), if_neg (by omega), if_neg (by simp [ht]), if_neg (by simp [ha])] at hx
    obtain ⟨a, hd⟩ := State.bankLoaded_fsync tag c ha hp
    exact ⟨_, hx, congrArg Drg.tag hd, by rw [congrArg Drg.armed hd]; rfl,
      fun hact hlen n hn => loadShadow_shadow k.bytes hn hact hlen ((congrArg Drg.active hd).trans rfl) ((congrArg Drg.banks hd).trans rfl), (exec_goes hx).1⟩

theorem exec_drvStatus {tag : Word} {k : Cmd} {s : State} (h : Ready s 0x0601 tag k) :
    exec (.drvStatus tag) s = .next (s.reply k stOk [] ((List.range 4).flatMap fun n => s.portStatus n)) :=
  congrArg Host.Outcome.next (State.withCmd_ready h _)

theorem exec_defaultSet {tag : Word} {k : Cmd} {s : State} (h : Ready s 0x0602 tag k) : exec (.defaultSet tag) s = .next
    (if 3 < k.par 0 1 ∨ 1023 < k.par 1 2 ∨ 8 < k.par 3 1 ∨ 1023 < k.par 10 2 then s.reply k stBadParam [] [] else if s.inReset .drg then s.reply k stBusy [] []
      else (s.defaultSet (k.par 0 1) (k.par 1 2) (k.par 3 1) (w32 (k.par 4 4)) (k.par 8 2) (k.par 10 2) (k.par 12 1)).reply k stOk [] []) :=
  congrArg Host.Outcome.next (State.withCmd_ready h _)

theorem State.defaultSet_clears (s : State) (n iset bits ontime vfd gscale : Nat) : (s.defaultSet n iset bits 0 ontime vfd gscale).rb (R.drg_DEFn_A n) 31 = false :=
  s.wb_rb_same _ false (by decide)

theorem State.defaultSet_sets (s : State) {n : Nat} (iset bits : Nat) {en : Word} (ontime vfd gscale : Nat) (he : en ≠ 0) :
    (s.defaultSet n iset bits en ontime vfd gscale).rd (R.drg_DEFn_A n) = w32 (iset + bits * 2 ^ 10 + 2 ^ 31) ∧
    (s.defaultSet n iset bits en ontime vfd gscale).rd (R.drg_DEFn_B n) = en := by
  unfold State.defaultSet
  extract_lets u v
  rw [if_neg he]
  have hg : R.drg_DEFn_B n ≠ R.drg_DEF_GSCALE := by simp only [R.drg_DEFn_B, R.drg_DEF_GSCALE]; omega
  have hc : R.drg_DEFn_B n ≠ R.drg_DEFn_C n := by simp only [R.drg_DEFn_B, R.drg_DEFn_C]; omega
  have ha : R.drg_DEFn_B n ≠ R.drg_DEFn_A n := by simp only [R.drg_DEFn_B, R.drg_DEFn_A]; omega
  exact ⟨State.rd_wr_same _ _ _, (State.rd_wr_ne _ _ ha).trans ((State.wf_rd_ne _ _ _ _ hg).trans ((State.rd_wr_ne _ _ hc).trans (State.rd_wr_same _ _ _)))⟩

theorem drgDef_page {n off : Nat} (hn : n ≤ 3) (h : off < 0x100) : (0x24000 + off + 16 * n) / 0x1000 ≠ 0x2E := by omega

theorem defaultSet_writes {tag : Word} {k : Cmd} {s : State} (h : Ready s 0x0602 tag k) (h0 : k.par 0 1 ≤ 3) (h1 : k.par 1 2 ≤ 1023) (h3 : k.par 3 1 ≤ 8)
    (h10 : k.par 10 2 ≤ 1023) (hr : s.inReset .drg = false) : ∃ t, exec (.defaultSet tag) s = .next t ∧
      t = (s.defaultSet (k.par 0 1) (k.par 1 2) (k.par 3 1) (w32 (k.par 4 4)) (k.par 8 2) (k.par 10 2) (k.par 12 1)).reply k stOk [] [] ∧ Ended k t ∧
      (w32 (k.par 4 4) = 0 → t.rb (R.drg_DEFn_A (k.par 0 1)) 31 = false) ∧
      (w32 (k.par 4 4) ≠ 0 → t.rd (R.drg_DEFn_A (k.par 0 1)) = w32 (k.par 1 2 + k.par 3 1 * 2 ^ 10 + 2 ^ 31) ∧ t.rd (R.drg_DEFn_B (k.par 0 1)) = w32 (k.par 4 4)) := by
  have hx := exec_defaultSet h
  rw [if_neg (by omega), if_neg (by simp [hr])] at hx
  have hA {u : State} : (u.reply k stOk [] []).rd (R.drg_DEFn_A (k.par 0 1)) = u.rd (R.drg_DEFn_A (k.par 0 1)) := State.reply_rd _ _ _ _ _ (drgDef_page h0 (off := 0x80) (by decide))
  have hB {u : State} : (u.reply k stOk [] []).rd (R.drg_DEFn_B (k.par 0 1)) = u.rd (R.drg_DEFn_B (k.par 0 1)) := State.reply_rd _ _ _ _ _ (drgDef_page h0 (off := 0x84) (by decide))
  refine ⟨_, hx, rfl, State.reply_ended _ _ _ _ _, fun he => ?_, fun he => ?_⟩
  · rw [State.rb_congr hA, he, State.defaultSet_clears]
  · rw [hA, hB]
    exact s.defaultSet_sets _ _ _ _ _ he

theorem defaultSet_refuses {tag : Word} {k : Cmd} {s : State} (h : Ready s 0x0602 tag k) (hp : 3 < k.par 0 1 ∨ 1023 < k.par 1 2 ∨ 8 < k.par 3 1 ∨ 1023 < k.par 10 2) :
    ∃ t, exec (.defaultSet tag) s = .next t ∧ t = s.reply k stBadParam [] [] ∧ Ended k t :=
  replied_ends ((exec_defaultSet h).trans (congrArg Host.Outcome.next (if_pos hp)))

/-- Settles O45, each clause by the equation of its command and the two laws of the bank that a write changes. -/
theorem banksAreWrittenArmedAndSwapped : Obligations.BanksAreWrittenArmedAndSwapped :=
  ⟨shadowWrite_spec, swapArm_spec, swapDisarm_spec, fun _ _ _ hr hb => fsyncEdge_other hr hb, fun _ _ _ hr hb ha => fsyncEdge_early hr hb ha, drvTake_waits, drvClrFault_spec,
    bankLoad_spec, fun _ _ _ h => replied_ends (exec_drvStatus h), fun _ _ _ h => ⟨defaultSet_refuses h, defaultSet_writes h⟩⟩

end Sys2Proof.Machine
end

section
/-! SUPPORT. What securing and flooding a frame write. -/

namespace Sys2Proof.Machine

open Sys2Proof

/-! ### Securing a frame writes the pages of NVS and LNK -/

/-- A send counter is one of the three of LNK. -/
theorem ctrReg_page {i : Nat} (h : i ≤ 2) : ctrReg i / 0x1000 = 0x19 := by
  simp only [ctrReg, R.lnk_CTR_TX_SK0]
  omega

theorem ctrOf_le (h : Hdr) : ctrOf h ≤ 2 := by
  unfold ctrOf Hdr.gen
  split <;> omega

theorem State.setReserve_pages (s : State) (i v : Nat) : PagesOnly [0x12, 0x19] s (s.setReserve i v) := by
  unfold State.setReserve
  extract_lets v t
  have ht : PagesOnly [0x12, 0x19] s t := (s.nvsWrite_pages _ _ _).mono (by decide)
  exact .ite (ht.trans (.set rfl rfl)) ht

theorem State.sendCtr_lnkPages (s : State) {i : Nat} (v : Nat) (h : i ≤ 2) : PagesOnly [0x12, 0x19] s (s.sendCtr i v) := by
  unfold State.sendCtr
  extract_lets v t
  have ht : PagesOnly [0x12, 0x19] s t := s.wr_pages _ (by rw [ctrReg_page h]; decide)
  exact .ite (ht.trans (t.irq_pages 2 (by decide))) ht

theorem State.ctrTake_pages (s : State) {i : Nat} (h : i ≤ 2) : PagesOnly [0x12, 0x19] s (s.ctrTake i).1 := by
  unfold State.ctrTake
  extract_lets c p lnk t r u
  have ht : PagesOnly [0x12, 0x19] s t := .set rfl rfl
  have hu : PagesOnly [0x12, 0x19] t u := .ite (t.setReserve_pages _ _) (.refl _ t)
  exact ht.trans (hu.trans (u.sendCtr_lnkPages _ h))

theorem State.secure_pages {s t : State} {psdu b : Bytes} {start : Nat} (h : s.secure psdu start = .done t b) : PagesOnly [0x12, 0x19] s t := by
  unfold State.secure at h
  extract_lets h0 h1 p at h
  split at h
  · cases h
  · split at h
    · cases h
    · cases h
    · cases h
      exact s.ctrTake_pages (ctrOf_le _)

/-! ### A transmission writes the pages of NVS, its radio and CHN -/

/-- The pages of NVS, the radios, CHN and LNK: those that frames of the firmware write. -/
abbrev framePages : List Nat := [0x12, 0x14, 0x15, 0x16, 0x17, 0x18, 0x19]

theorem State.charge_pages (s : State) (r c t : Nat) : PagesOnly framePages s (s.charge r c t) := by
  have dwell (u : State) (set : Nat) : PagesOnly framePages u (u.chargeDwell set c t) := by
    unfold State.chargeDwell
    extract_lets k used lim chn v
    have hv : PagesOnly framePages u v := .set rfl rfl
    exact .ite (.refl _ u) (.ite (hv.trans (v.irq_pages 1 (by decide))) hv)
  have duty (u : State) (set sb : Nat) : PagesOnly framePages u (u.chargeDuty set sb t) := by
    unfold State.chargeDuty
    extract_lets k used lim chn v
    have hv : PagesOnly framePages u v := .set rfl rfl
    exact .ite (.refl _ u) (.ite (hv.trans (v.irq_pages 0 (by decide))) hv)
  have nvs (u : State) (a : Nat) (b : Bytes) : PagesOnly framePages u (u.nvsWrite .chn a b) := (u.nvsWrite_pages _ _ _).mono (by decide)
  exact (dwell s _).trans ((duty _ _ _).trans ((nvs _ _ _).trans ((nvs _ _ _).trans (nvs _ _ _))))

theorem radReg_framePages {r off : Nat} (h : r < 4) (ho : off < 0x1000) : (0x14000 + off + 0x1000 * r) / 0x1000 ∈ framePages := by
  simp only [List.mem_cons, List.not_mem_nil, or_false]
  omega

theorem State.transmit_pages (s : State) {r : Nat} (c mode t : Nat) (bcn : Bool) (psdu : Bytes) (h : r < 4) : PagesOnly framePages s (s.transmit r c mode t bcn psdu) := by
  unfold State.transmit
  extract_lets u p
  have hu : PagesOnly framePages s u := (s.charge_pages r c t).trans (State.bumpSat_pages _ 1 (radReg_framePages (off := 0x54) h (by decide)))
  exact hu.trans ((u.wf_pages 8 8 p (radReg_framePages (off := 0x48) h (by decide))).trans (.set rfl rfl))

/-! ### Key frames -/

theorem State.sendSegKey_pages (s : State) (r : NodeRow) (g : Nat) : PagesOnly framePages s (s.sendSegKey r g) := by
  unfold State.sendSegKey
  split
  · exact .refl _ s
  · unfold State.sendVia
    refine .ite ((s.fwSend_pages _ _ _ _ _).mono (by decide)) (.ite (.refl _ s) ?_)
    split
    · next e => exact ((State.secure_pages e).mono (by decide)).trans ((State.sendDown_pages _ _ _ _ _ _ _).mono (by decide))
    · exact .refl _ s

theorem State.sendSegKeys_pages (s : State) (g : Nat) : PagesOnly framePages s (s.sendSegKeys g) := .foldl (fun t r => t.sendSegKey_pages r g) _ s

/-! ### What a wave leaves -/

/-- A register that no wave writes before it is counted: past its header, not of a page that frames write nor of LDG, and not one of LVL's two counters. -/
def WaveReg (a : Nat) : Prop := PastHeader a ∧ a / 0x1000 ∉ framePages ∧ a / 0x1000 ≠ 0x2A ∧ a ≠ R.lvl_FLOOD_HELD ∧ a ≠ R.lvl_BAD_APPLY

/-- From s to t network time and the registers that waves spare stand. -/
def WaveKept (s t : State) : Prop := t.ntm = s.ntm ∧ ∀ a, WaveReg a → t.rd a = s.rd a

theorem WaveKept.refl (s : State) : WaveKept s s := ⟨rfl, fun _ _ => rfl⟩

theorem WaveKept.trans {s t u : State} (h : WaveKept s t) (h' : WaveKept t u) : WaveKept s u := ⟨h'.1.trans h.1, fun a ha => (h'.2 a ha).trans (h.2 a ha)⟩

theorem WaveKept.set {s t : State} (hr : t.regs = s.regs) (hm : t.modId = s.modId) (hn : t.ntm = s.ntm) : WaveKept s t := ⟨hn, fun a _ => State.rd_congr hr hm a⟩

theorem WaveKept.of_pages {s t : State} (h : PagesOnly framePages s t) (hn : t.ntm = s.ntm) : WaveKept s t := ⟨hn, fun a ha => h a ha.2.1⟩

theorem WaveKept.clock {s t : State} (h : WaveKept s t) : SameClock s t := ⟨h.2 _ (by unfold WaveReg; decide), h.1⟩

theorem State.secure_kept {s t : State} {psdu b : Bytes} {start : Nat} (h : s.secure psdu start = .done t b) : WaveKept s t :=
  .of_pages ((State.secure_pages h).mono (by decide)) ((goes_secure s _ _ h rfl (.refl [.regs, .out, .nvs, .lnk, .pba] s)).1 .ntm (by decide))

theorem State.takeStripe_kept (s : State) (p : Bytes) : WaveKept s (s.takeStripe p) :=
  ⟨(goes_takeStripe s p rfl (.refl [.regs, .out, .ldg, .lvl, .pba] s)).1 .ntm (by decide), fun _ ⟨_, _, hl, _, hb⟩ => s.takeStripe_rd p hb hl⟩

theorem State.waveTaken_kept (s : State) (kind : Nat) : WaveKept s (s.waveTaken kind) := by
  unfold State.waveTaken
  split
  · exact ⟨(goes_modeSent s rfl (.refl [.lvl] s)).1 .ntm (by decide), fun a _ => (goes_modeSent s rfl (.refl [.lvl] s)).rd (by decide) (by decide) a⟩
  · exact .set rfl rfl rfl
  · split
    · exact .refl s
    · next q _ =>
      extract_lets src t
      have ht : WaveKept s t := .set rfl rfl rfl
      split
      · exact ht.trans (t.takeStripe_kept _)
      · exact ht

/-- A radio sends a flood frame, and a reception in progress is lost (R161). -/
def State.floodSent (k : Nat) (psdu : Bytes) (t : State) (r : Nat) : State :=
  (t.transmit r (t.chan r k) (t.radMode r) (t.airtime r (psdu.length + 2)) false psdu).modRadio r fun x => { x with rx := none }

theorem State.floodSent_goes (k : Nat) (psdu : Bytes) (t : State) (r : Nat) : Goes [.regs, .out, .nvs, .chn, .rad, .pba] t (State.floodSent k psdu t r) :=
  goes_modRadio _ _ _ rfl (goes_transmit t _ _ _ _ _ _ rfl (.refl _ t))

theorem State.floodSent_pages (k : Nat) (psdu : Bytes) (t : State) {r : Nat} (h : r < 4) : PagesOnly framePages t (State.floodSent k psdu t r) :=
  (t.transmit_pages (t.chan r k) (t.radMode r) (t.airtime r (psdu.length + 2)) false psdu h).trans (.set rfl rfl)

/-- One radio's part in a flood frame. -/
def State.floodOn (k us : Nat) (psdu : Bytes) (t : State) (r : Nat) : State :=
  if !t.runs (radBlk r) || decide (10000 < t.airtime r (psdu.length + 2)) then t
  else if t.takes (radBlk r) && t.chnTakes && t.chanOk (t.chan r k) (t.radMode r) && t.ledgersAllow r (t.chan r k) (t.airtime r (psdu.length + 2)) true then
    let u := State.floodSent k psdu t r
    { u with lvl := { u.lvl with spans := (r, us, us + t.airtime r (psdu.length + 2)) :: u.lvl.spans } }
  else (t.bumpSat R.lvl_FLOOD_HELD 1).irq .lvl 1

theorem State.floodOut_eq (s : State) (k us : Nat) (psdu : Bytes) : s.floodOut k us psdu = (List.range 4).foldl (State.floodOn k us psdu) s := rfl

theorem State.floodOn_kept (k us : Nat) (psdu : Bytes) (t : State) {r : Nat} (h : r < 4) : WaveKept t (State.floodOn k us psdu t r) := by
  unfold State.floodOn
  split
  · exact .refl t
  · split
    · exact (WaveKept.of_pages (State.floodSent_pages k psdu t h) ((State.floodSent_goes k psdu t r).1 .ntm (by decide))).trans (.set rfl rfl rfl)
    · exact ⟨(State.irq_ntm _ _ _).trans rfl, fun a ⟨hp, _, _, hh, _⟩ => (State.irq_rd_past _ _ _ hp).trans (t.bumpSat_rd_ne 1 hh)⟩

theorem State.floodOut_kept (s : State) (k us : Nat) (psdu : Bytes) : WaveKept s (s.floodOut k us psdu) := by
  rw [State.floodOut_eq]
  have h (l : List Nat) (hl : ∀ r ∈ l, r < 4) (t : State) : WaveKept t (l.foldl (State.floodOn k us psdu) t) := by
    induction l generalizing t with
    | nil => exact .refl t
    | cons r l ih => exact (t.floodOn_kept k us psdu (hl r (by simp))).trans (ih (fun q hq => hl q (by simp [hq])) _)
  exact h _ (fun r hr => List.mem_range.mp hr) s

/-- A flood frame changes of LVL its spans alone. -/
theorem State.floodOut_lvl (s : State) (k us : Nat) (psdu : Bytes) : ∃ l, (s.floodOut k us psdu).lvl = { s.lvl with spans := l } := by
  rw [State.floodOut_eq]
  refine foldl_keeps (P := fun t : State => ∃ l, t.lvl = { s.lvl with spans := l }) (fun t r ⟨l, h⟩ => ?_) _ ⟨_, rfl⟩
  unfold State.floodOn
  split
  · exact ⟨l, h⟩
  · split
    · have hu : (State.floodSent k psdu t r).lvl = t.lvl := (State.floodSent_goes k psdu t r).1 .lvl (by decide)
      refine ⟨(r, us, us + t.airtime r (psdu.length + 2)) :: (State.floodSent k psdu t r).lvl.spans, ?_⟩
      dsimp only
      rw [hu, h]
    · exact ⟨l, (State.irq_lvl _ _ _).trans h⟩

end Sys2Proof.Machine
end

section
/-! PROOFS. Waves, stripes and modes. -/

namespace Sys2Proof.Machine

open Sys2Proof

/-! ### Waves (R268, R269) -/

theorem State.pruneSpans_kept (s : State) : WaveKept s s.pruneSpans := .set rfl rfl rfl

/-- The flood of a wave with the frame secured in t, and its numbers kept (R268). -/
def State.waveFlooded (t : State) (kind : Nat) (psdu : Bytes) : State :=
  let u := (t.waveTaken kind).pruneSpans
  u.floodOut u.tick (u.tick * 4000 + 200) psdu

theorem State.waveFlooded_kept (t : State) (kind : Nat) (psdu : Bytes) : WaveKept t (t.waveFlooded kind psdu) :=
  ((t.waveTaken_kept kind).trans (State.pruneSpans_kept _)).trans (State.floodOut_kept _ _ _ _)

/-- A wave whose frame is flooded is counted with its tick. -/
def State.waveNoted (u : State) : State :=
  let t := { u with lvl := { u.lvl with wave := some u.tick, early := if u.tick % 256 ≤ 13 then some u.sf else u.lvl.early } }
  ((t.bumpSat R.lvl_WAVES 1).wr R.lvl_LAST_WAVE t.tick32).irq .lvl 0

theorem State.waveNoted_spec (u : State) : u.waveNoted.lvl.wave = some u.tick ∧ u.waveNoted.rd R.lvl_LAST_WAVE = u.tick32 ∧
    u.waveNoted.rd R.lvl_WAVES = satAdd (u.rd R.lvl_WAVES) 1 :=
  ⟨congrArg Lvl.wave (State.irq_lvl _ _ _), (State.irq_rd_past _ _ _ (by decide)).trans (State.rd_wr_same _ _ _),
    (State.irq_rd_past _ _ _ (by decide)).trans ((State.rd_wr_ne _ _ (by decide)).trans (State.bumpSat_rd_same _ _ _))⟩

theorem State.waveStart_done {s u : State} {f : Nat × Nat × Bytes} {b : Bytes}
    (h : s.secure (s.frameOf f.2.1 false 0 0 0xFFFF none f.2.2) ((s.tick * 4000000 + 200000) * 2 ^ 16) = .done u b) :
    s.waveStart f = (u.waveFlooded f.1 b).waveNoted := by
  rw [State.waveStart, h]
  rfl

theorem State.waveStart_sends {s u : State} {f : Nat × Nat × Bytes} {b : Bytes}
    (h : s.secure (s.frameOf f.2.1 false 0 0 0xFFFF none f.2.2) ((s.tick * 4000000 + 200000) * 2 ^ 16) = .done u b) :
    (s.waveStart f).lvl.wave = some s.tick ∧ (s.waveStart f).rd R.lvl_LAST_WAVE = s.tick32 ∧
    (s.waveStart f).rd R.lvl_WAVES = satAdd (s.rd R.lvl_WAVES) 1 := by
  have hk : WaveKept s (u.waveFlooded f.1 b) := (State.secure_kept h).trans (u.waveFlooded_kept _ _)
  obtain ⟨hwave, hlast, hcount⟩ := (u.waveFlooded f.1 b).waveNoted_spec
  rw [State.waveStart_done h]
  exact ⟨hwave.trans (by rw [hk.clock.tick]), hlast.trans hk.clock.tick32, hcount.trans (by rw [hk.2 _ (by unfold WaveReg; decide)])⟩

theorem exec_waveStart {s : State} {f : Nat × Nat × Bytes} (hf : s.waveFrame = some f) (ha : s.waveAllowed = true) : exec .waveStart s = .next (s.waveStart f) := by
  refine congrArg Host.Outcome.next ?_
  simp only [hf, ha, if_true]

theorem exec_waveStart_none {s : State} (hf : s.waveFrame = none) : exec .waveStart s = .next s := by
  refine congrArg Host.Outcome.next ?_
  simp only [hf]

theorem exec_modeWave {s : State} {p : Bytes} (hp : s.modeDue = some p) (ha : s.waveAllowed = true) : exec .modeWave s = .next (s.waveStart (0, 3, p)) := by
  refine congrArg Host.Outcome.next ?_
  simp only [hp, ha, if_true]

/-- The oldest flood frame leaves the list of those to be forwarded. -/
def State.fwdTaken (s : State) (f : FwdDue) (r : List FwdDue) : State :=
  { s with lvl := { s.lvl with fwd := r, spans := s.lvl.spans.filter fun p => p.2.1 ≠ f.us } }

theorem State.fwdTaken_kept (s : State) (f : FwdDue) (r : List FwdDue) : WaveKept s (s.fwdTaken f r) := .set rfl rfl rfl

theorem exec_floodForward {f : FwdDue} {r : List FwdDue} {s : State} (hf : s.lvl.fwd = f :: r) : exec .floodForward s = .next
    (if !s.takes .lvl || !s.onNet || s.repeated || (s.isNode && s.placeless) then s.fwdTaken f r
      else ((s.fwdTaken f r).floodOut (f.us / 4000) f.us f.psdu).bumpSat R.lvl_FLOOD_FWD 1) := by
  refine congrArg Host.Outcome.next ?_
  rw [State.floodForward, hf]
  rfl

theorem floodForward_sends {f : FwdDue} {r : List FwdDue} {s : State} (hf : s.lvl.fwd = f :: r) (ht : s.takes .lvl = true) (hn : s.onNet = true) (hr : s.repeated = false)
    (hp : s.isNode = true → s.placeless = false) : ∃ t, exec .floodForward s = .next t ∧
    t = ({ s with lvl := { s.lvl with fwd := r, spans := s.lvl.spans.filter fun p => p.2.1 ≠ f.us } }.floodOut (f.us / 4000) f.us f.psdu).bumpSat R.lvl_FLOOD_FWD 1 ∧
    t.lvl.fwd = r ∧ t.rd R.lvl_FLOOD_FWD = satAdd (s.rd R.lvl_FLOOD_FWD) 1 ∧ ChangesOnly (touches .floodForward) s t := by
  have hx := exec_floodForward hf
  rw [if_neg (by simpa [ht, hn, hr] using hp)] at hx
  obtain ⟨l, hl⟩ := State.floodOut_lvl (s.fwdTaken f r) (f.us / 4000) f.us f.psdu
  have hk : WaveKept s ((s.fwdTaken f r).floodOut (f.us / 4000) f.us f.psdu) := (s.fwdTaken_kept f r).trans (State.floodOut_kept _ _ _ _)
  have hfwd : ((s.fwdTaken f r).floodOut (f.us / 4000) f.us f.psdu).lvl.fwd = r := by rw [hl]; rfl
  exact ⟨_, hx, rfl, (congrArg Lvl.fwd (State.wr_lvl _ _ _)).trans hfwd, (State.bumpSat_rd_same _ _ _).trans (by rw [hk.2 _ (by unfold WaveReg; decide)]), (exec_goes hx).1⟩

theorem floodForward_drops {f : FwdDue} {r : List FwdDue} {s : State} (hf : s.lvl.fwd = f :: r) (hr : s.repeated = true) :
    ∃ t, exec .floodForward s = .next t ∧ t.lvl.fwd = r ∧ ChangesOnly [.lvl] s t := by
  have hx := exec_floodForward hf
  rw [if_pos (by simp [hr])] at hx
  exact ⟨_, hx, rfl, (goes_set_lvl s _ rfl (.refl _ s)).1⟩

/-! ### Stripes at a node and stored points (R273, R281) -/

/-- The state in which a received flood frame has been heard. -/
abbrev State.heard (s : State) (x : AirRx) : State := (s.at x.verdict).floodHeard x

theorem exec_stripeReceive {x : AirRx} {s : State} (hn : (s.heard x).isNode = true) (ht : (s.heard x).takes .lvl = true)
    (hi : byteAt (airPay x) 0 % 64 = (s.heard x).ownIndex / 64) (hsrc : (airHdr x).src = 0) :
    exec (.stripeReceive x) s = .next ((s.heard x).takeStripe (airPay x)) :=
  congrArg Host.Outcome.next ((if_neg (by simp [hn, ht, hi])).trans (if_neg (not_not.mpr hsrc)))

section
variable {s : State} {p : Bytes} (hi : byteAt p 0 % 64 = s.ownIndex / 64)
include hi

/-- The change that a stripe names for this node. -/
theorem State.takeStripe_pends (ht : s.timeFor (leWord p 4) = true) (hd : tickDiff (leWord p 4) s.tick32 ≤ 4096) (hc : byteAt p (8 + s.ownIndex % 64) ≠ 255) :
    s.takeStripe p = s.pendChange ⟨s.fullTick (leWord p 4), byteAt p (8 + s.ownIndex % 64), byteAt p 1 % 64, le p 2 2, false⟩ :=
  (if_neg (not_not.mpr hi)).trans ((if_neg (by simp [ht])).trans ((if_neg (by omega)).trans (if_neg hc)))

theorem State.takeStripe_unchanged (ht : s.timeFor (leWord p 4) = true) (hd : tickDiff (leWord p 4) s.tick32 ≤ 4096) (hc : byteAt p (8 + s.ownIndex % 64) = 255) :
    s.takeStripe p = s :=
  (if_neg (not_not.mpr hi)).trans ((if_neg (by simp [ht])).trans ((if_neg (by omega)).trans (if_pos hc)))

theorem State.takeStripe_far (ht : s.timeFor (leWord p 4) = true) (hd : 4096 < tickDiff (leWord p 4) s.tick32) : s.takeStripe p = s.bumpSat R.lvl_BAD_APPLY 1 :=
  (if_neg (not_not.mpr hi)).trans ((if_neg (by simp [ht])).trans (if_pos hd))

theorem State.takeStripe_noTime (ht : s.timeFor (leWord p 4) = false) : s.takeStripe p = s.noTime .lvl (leWord p 4) :=
  (if_neg (not_not.mpr hi)).trans (if_pos (by simp [ht]))

end

theorem State.pendChange_first {s : State} {c : LvlChange} (hp : s.lvl.pend = []) (hc : c.code ≠ s.lampTarget) : (s.pendChange c).lvl.pend = [c] := by
  have hlen : ¬ 4 < ([c].filter fun x : LvlChange => !x.force).length := by
    have := List.length_filter_le (fun x : LvlChange => !x.force) [c]
    simp only [List.length_singleton] at this
    omega
  unfold State.pendChange
  rw [hp]
  refine (congrArg (fun t : State => t.lvl.pend) ((if_neg (by simp)).trans (if_neg hc))).trans ?_
  exact if_neg hlen

theorem State.schedulePoint_due {s : State} {p : Nat × Nat × Nat} (ht : s.takes .lvl = true) (hh : s.holds = true) (hr : s.repeated = false) (hf : s.followsSchedule = true)
    (hp : lastPoint (s.tick / 250) s.points = some p) (hd : sinceTod (s.tick / 250) p.1 < s.tick / 250 - s.lvl.prevTick / 250) :
    s.schedulePoint = s.startFade p.2.1 p.2.2 0 := by
  unfold State.schedulePoint
  rw [if_neg (by simp [ht, hh, hr, hf])]
  dsimp only
  rw [hp]
  exact if_pos hd

theorem State.startFade_fade {s : State} {code fade : Nat} (hc : code ≠ 255) (he : s.cryError = false) :
    (s.startFade code fade 0).lvl.fade.map (fun f => (f.code, f.s, f.t, f.n, f.i)) =
      some (code, if s.lampBack 0 = 0 then 256 else s.lampBack 0, if code = 0 then 256 else 256 * code, fadeLen fade, 0) := by
  unfold State.startFade
  rw [if_neg (by simp [hc, he])]
  rfl

/-! ### A head announces and cancels (R278) -/

theorem exec_modeAnnounce {m : Master} {s : State} (h : PageOpen s .lvl m) : exec (.modeAnnounce m) s = .next ((s.ctrlAnnounce m).answer .done) :=
  congrArg Host.Outcome.next (State.writeAt_open h _ _ _)

theorem State.sendSegKeys_clock (s : State) (g : Nat) : SameClock s (s.sendSegKeys g) :=
  ⟨s.sendSegKeys_pages g _ (by decide), (goes_sendSegKeys s g rfl (.refl [.regs, .out, .que, .nvs, .rad, .lnk, .net, .pba] s)).1 .ntm (by decide)⟩

/-- An announcement made: the whole of what the head keeps of it. -/
theorem State.announce_keeps {s : State} {m : SegMode} {c : Nat} (tag : Option Word) (ring : Bool) (hn : s.lvl.ann = none) (hm : m.op ≤ 2)
    (hc : c % 256 = 0) (ht : s.tick + 9 * 256 ≤ c) (hh : ∀ l, m.hop = some l → s.hopListOk l = true) :
    ∃ v, s.announce m c tag ring = (v, none) ∧ v.lvl.ann = some ⟨nextEpoch s.lvl.used s.epoch s.lvl.used.length, c, c, m, s.tick, none, tag, ring⟩ := by
  unfold State.announce
  rw [if_neg (by simp [hn]), if_neg (by
    simp only [Bool.or_eq_true, decide_eq_true_eq]
    refine not_or.mpr ⟨by omega, ?_⟩
    cases h : m.hop with
    | none => simp
    | some l => simp [hh l h])]
  extract_lets e live t src p q
  have htick : t.tick = s.tick := by
    show (if m.gen ≠ s.genCur then s.sendSegKeys m.gen else s : State).tick = s.tick
    split
    · exact (s.sendSegKeys_clock _).tick
    · rfl
  have hp : p.lvl.ann = some ⟨e, c, c, m, t.tick, none, tag, ring⟩ := congrArg Lvl.ann (State.prepareMode_lvl _ m c)
  have hq : q.lvl.ann = p.lvl.ann := by
    show (if live then _ else p : State).lvl.ann = p.lvl.ann
    split
    · refine foldl_keeps (P := fun t : State => t.lvl.ann = p.lvl.ann) (fun t n h => ?_) _ rfl
      split
      · exact (t.queueStripe_ann _ _ _ _).trans h
      · exact h
    · rfl
  exact ⟨q, rfl, hq.trans (hp.trans (by rw [htick]))⟩

theorem State.ctrlAnnounce_head {s : State} (m : Master) (hh : s.isHead = true) (ht : s.timeFor (s.rd R.lvl_MODE_AT_REQ) = true) : s.ctrlAnnounce m =
    match s.announce s.stagedMode (s.fullTick (s.rd R.lvl_MODE_AT_REQ)) none false with
    | (t, none) => t
    | (t, some e) => t.err .lvl e 0x60 m :=
  (if_neg (by simp [hh])).trans (if_neg (by simp [ht]))

theorem modeAnnounce_keeps {m : Master} {s : State} (h : PageOpen s .lvl m) (hh : s.isHead = true) (ht : s.timeFor (s.rd R.lvl_MODE_AT_REQ) = true) (hn : s.lvl.ann = none)
    (hop : s.stagedMode.op ≤ 2) (hc : s.fullTick (s.rd R.lvl_MODE_AT_REQ) % 256 = 0) (hk : s.tick + 9 * 256 ≤ s.fullTick (s.rd R.lvl_MODE_AT_REQ))
    (hl : ∀ l, s.stagedMode.hop = some l → s.hopListOk l = true) : ∃ t, exec (.modeAnnounce m) s = .next t ∧ t.resp = .done ∧
      t.lvl.ann = some ⟨nextEpoch s.lvl.used s.epoch s.lvl.used.length, s.fullTick (s.rd R.lvl_MODE_AT_REQ), s.fullTick (s.rd R.lvl_MODE_AT_REQ), s.stagedMode, s.tick, none, none, false⟩ ∧
      ChangesOnly (touches (.modeAnnounce m)) s t := by
  obtain ⟨v, hv, ha⟩ := State.announce_keeps none false hn hop hc hk hl
  have hx := exec_modeAnnounce h
  rw [State.ctrlAnnounce_head m hh ht, hv] at hx
  exact ⟨_, hx, rfl, ha, (exec_goes hx).1⟩

theorem modeAnnounce_busy {m : Master} {s : State} (h : PageOpen s .lvl m) (hh : s.isHead = true) (ht : s.timeFor (s.rd R.lvl_MODE_AT_REQ) = true)
    (hn : s.lvl.ann.isSome = true) : exec (.modeAnnounce m) s = .next ((s.err .lvl 0x80 0x60 m).answer .done) := by
  rw [exec_modeAnnounce h, State.ctrlAnnounce_head m hh ht, State.announce_busy _ _ _ _ hn]

theorem exec_modeCtrlCancel {m : Master} {s : State} (h : PageOpen s .lvl m) : exec (.modeCtrlCancel m) s = .next ((s.ctrlCancel m).answer .done) :=
  congrArg Host.Outcome.next (State.writeAt_open h _ _ _)

theorem modeCtrlCancel_none {m : Master} {s : State} (h : PageOpen s .lvl m) (hn : s.lvl.ann = none) : exec (.modeCtrlCancel m) s = .next (s.answer .done) := by
  rw [exec_modeCtrlCancel h, State.ctrlCancel, State.cancelAnn, hn]
  rfl

theorem State.unprepareMode_lvl (s : State) (m : SegMode) : (s.unprepareMode m).lvl = s.lvl :=
  (goes_unprepareMode s m rfl (.refl [.regs, .chn] s)).1 .lvl (by decide)

/-- A cancel in time withdraws the announcement, and its number is used up. -/
theorem State.cancelAnn_inTime {s : State} {a : Announce} (ha : s.lvl.ann = some a) (hc : max (s.tick + 1) (s.lvl.wave.elim 0 (· + 4)) < a.c) (ht : a.tag = none) :
    s.cancelAnn.2 = 1 ∧ s.cancelAnn.1.lvl.ann = none ∧ s.cancelAnn.1.lvl.used = a.epoch :: s.lvl.used := by
  unfold State.cancelAnn
  rw [ha]
  dsimp only
  rw [if_neg (by cases hw : s.lvl.wave <;> rw [hw] at hc <;> exact Nat.not_le.mpr hc), ht]
  exact ⟨rfl, congrArg Lvl.ann (State.unprepareMode_lvl _ _), congrArg Lvl.used (State.unprepareMode_lvl _ _)⟩

theorem modeCtrlCancel_withdraws {m : Master} {a : Announce} {s : State} (h : PageOpen s .lvl m) (ha : s.lvl.ann = some a)
    (hc : max (s.tick + 1) (s.lvl.wave.elim 0 (· + 4)) < a.c) (ht : a.tag = none) :
    ∃ t, exec (.modeCtrlCancel m) s = .next t ∧ t.lvl.ann = none ∧ t.lvl.used = a.epoch :: s.lvl.used ∧ ChangesOnly (touches (.modeCtrlCancel m)) s t := by
  obtain ⟨h2, hann, hused⟩ := State.cancelAnn_inTime ha hc ht
  have hcc : s.ctrlCancel m = s.cancelAnn.1 := by
    unfold State.ctrlCancel
    split
    · next t he => rw [he] at h2; exact absurd h2 (by simp)
    · next t n _ he => rw [he]
  have hx := exec_modeCtrlCancel h
  rw [hcc] at hx
  exact ⟨_, hx, hann, hused, (exec_goes hx).1⟩

/-! ### A node stores and acknowledges (R279, R280) -/

theorem exec_modeReceive {x : AirRx} {s : State} (hn : (s.heard x).isNode = true) (hr : (s.heard x).inReset .lvl = false) (hm : (airHdr x).mhop = false) :
    exec (.modeReceive x) s = .next ((s.heard x).takeMode (airPay x)) :=
  congrArg Host.Outcome.next ((if_neg (by simp [hn, hr])).trans (if_neg (by simp [hm])))

theorem State.takeMode_stores {s : State} {p : Bytes} (h6 : byteAt p 6 % 2 = 0) (he : 0 < epochDiff (le p 0 2) s.epoch) (hn : s.lvl.pmode = none)
    (ht : s.timeFor (leWord p 2) = true) : s.takeMode p = s.storeMode (modeOf p (some (s.fullTick (leWord p 2))) (s.fullTick (leWord p 2)) false) p := by
  have hd : ¬ (decide (epochDiff (le p 0 2) s.epoch ≤ 0) || (match s.lvl.pmode with | some x => decide (0 < epochDiff x.epoch (le p 0 2)) | none => false)) = true := by
    rw [hn]
    simp [he]
  exact (if_neg (by omega)).trans ((if_neg hd).trans (if_neg (by simp [ht])))

theorem PendMode.check_keeps (p : PendMode) : p.check.epoch = p.epoch ∧ p.check.c = p.c := by
  unfold PendMode.check
  split
  · exact ⟨rfl, rfl⟩
  · dsimp only
    split <;> exact ⟨rfl, rfl⟩

theorem State.storeMode_pmode {s : State} (q : PendMode) (p : Bytes) (hn : s.lvl.pmode = none) :
    ∃ r, (s.storeMode q p).lvl.pmode = some r ∧ r.epoch = q.epoch ∧ r.c = q.c := by
  unfold State.storeMode
  rw [hn]
  extract_lets t old r u
  have hold : old = q := by simp [old, t, hn]
  obtain ⟨he, hc⟩ := PendMode.check_keeps { old with at' := min old.at' q.at', c := q.c, chunks := if q.hopLen = 0 then [] else Sparse.put old.chunks (byteAt p 12 % 4) (chunkEntries p) }
  refine ⟨r, ?_, he.trans (by rw [hold]), hc⟩
  split
  · split
    · split
      · exact congrArg Lvl.pmode (State.prepareMode_lvl _ _ _)
      · rfl
    · rfl
  · rfl

theorem modeReceive_stores {x : AirRx} {s : State} (hn : (s.heard x).isNode = true) (hr : (s.heard x).inReset .lvl = false) (hm : (airHdr x).mhop = false)
    (h6 : byteAt (airPay x) 6 % 2 = 0) (he : 0 < epochDiff (le (airPay x) 0 2) (s.heard x).epoch) (hp : (s.heard x).lvl.pmode = none)
    (ht : (s.heard x).timeFor (leWord (airPay x) 2) = true) : ∃ v, exec (.modeReceive x) s = .next v ∧
      v.lvl.pmode.map (fun q => (q.epoch, q.c)) = some (le (airPay x) 0 2, some ((s.heard x).fullTick (leWord (airPay x) 2))) ∧ ChangesOnly (touches (.modeReceive x)) s v := by
  have hx := exec_modeReceive hn hr hm
  rw [State.takeMode_stores h6 he hp ht] at hx
  obtain ⟨r, hpm, hre, hrc⟩ := State.storeMode_pmode (modeOf (airPay x) (some ((s.heard x).fullTick (leWord (airPay x) 2))) ((s.heard x).fullTick (leWord (airPay x) 2)) false)
    (airPay x) hp
  exact ⟨_, hx, by rw [hpm]; exact congrArg some (Prod.ext hre hrc), (exec_goes hx).1⟩

theorem exec_modeAckSend {e k how : Nat} {r : List (Nat × Nat × Nat)} {s : State} (ha : s.lvl.acks = (e, k, how) :: r) (hk : s.sf ≤ k / 256 + 32) (hh : s.holds = true)
    (h1 : 32 ≤ s.tick % 256) (h2 : s.tick % 256 < 224) :
    exec .modeAckSend s = .next (({ s with lvl := { s.lvl with acks := r } } : State).sendUp 8 true (command 0x0510 (toLe 2 e ++ toLe 4 (k % 2 ^ 32) ++ toLe 1 how))) := by
  refine congrArg Host.Outcome.next ?_
  rw [ha]
  exact (if_neg (by omega)).trans (if_neg (by simp [hh]; omega))

theorem modeAckSend_sends {e k how : Nat} {r : List (Nat × Nat × Nat)} {s : State} (ha : s.lvl.acks = (e, k, how) :: r) (hk : s.sf ≤ k / 256 + 32) (hh : s.holds = true)
    (h1 : 32 ≤ s.tick % 256) (h2 : s.tick % 256 < 224) : ∃ t, exec .modeAckSend s = .next t ∧
      t = ({ s with lvl := { s.lvl with acks := r } }.sendUp 8 true (command 0x0510 (toLe 2 e ++ toLe 4 (k % 2 ^ 32) ++ toLe 1 how))) ∧
      t.lvl.acks = r ∧ ChangesOnly (touches .modeAckSend) s t := by
  have hx := exec_modeAckSend ha hk hh h1 h2
  exact ⟨_, hx, rfl, congrArg Lvl.acks ((goes_sendUp { s with lvl := { s.lvl with acks := r } } _ _ _ rfl (.refl [.regs, .out, .que, .rad, .net, .pba] _)).1 .lvl (by decide)),
    (exec_goes hx).1⟩

/-- Settles O14: what securing and flooding a frame leave of the numbers that a wave keeps, and the equations of the mode commands. -/
theorem wavesAndModes : Obligations.WavesAndModes := by
  unfold Obligations.WavesAndModes
  refine ⟨⟨?wave, ?noWave, ?modeWave, ?forward, ?drop, ?stripe, ?point⟩, ?announce, ?busy, ?noCancel, ?cancel, ?receive, ?store, ?take, ?ack⟩
  case wave =>
    intro f u b s hf ha h
    obtain ⟨hw, hl, hn⟩ := State.waveStart_sends h
    exact ⟨_, exec_waveStart hf ha, hw, hl, hn, (exec_goes (exec_waveStart hf ha)).1⟩
  case noWave => exact fun s hf => exec_waveStart_none hf
  case modeWave =>
    intro p u b s hp ha h
    obtain ⟨hw, hl, hn⟩ := State.waveStart_sends (f := (0, 3, p)) h
    exact ⟨_, exec_modeWave hp ha, rfl, hw, hl, hn, (exec_goes (exec_modeWave hp ha)).1⟩
  case forward => exact fun f r s hf ht hn hr hp => floodForward_sends hf ht hn hr hp
  case drop => exact fun f r s hf hr => floodForward_drops hf hr
  case stripe =>
    intro x s t p a code hn ht hi hsrc
    have hx := exec_stripeReceive hn ht hi hsrc
    refine ⟨fun h1 h2 h3 => ?_, fun h1 h2 h3 h4 h5 => ?_, fun h1 h2 h3 => ?_, fun h1 h2 => ?_, fun h1 => ?_⟩
    · rw [hx, State.takeStripe_pends hi h1 h2 h3]
    · rw [State.takeStripe_pends hi h1 h2 h3] at hx
      exact ⟨_, hx, State.pendChange_first h5 h4, (goes_pendChange t _ rfl (.refl [.lvl] t)).1⟩
    · rw [hx, State.takeStripe_unchanged hi h1 h2 h3]
    · rw [hx, State.takeStripe_far hi h1 h2]
    · rw [hx, State.takeStripe_noTime hi h1]
  case point =>
    intro p s ht hh hr hf hp hd
    have hx : exec .schedulePoint s = .next (s.startFade p.2.1 p.2.2 0) := congrArg Host.Outcome.next (State.schedulePoint_due ht hh hr hf hp hd)
    exact ⟨hx, fun hc he => ⟨_, hx, State.startFade_fade hc he, (goes_startFade s _ _ _ rfl (.refl [.lvl] s)).1⟩⟩
  case announce => exact fun m s h hh ht hn hop hc hk hl => modeAnnounce_keeps h hh ht hn hop hc hk hl
  case busy => exact fun m s h hh ht hn => modeAnnounce_busy h hh ht hn
  case noCancel => exact fun m s h hn => modeCtrlCancel_none h hn
  case cancel => exact fun m a s h ha hc ht => modeCtrlCancel_withdraws h ha hc ht
  case receive =>
    intro x s t hn hr hm
    exact exec_modeReceive hn hr hm
  case store =>
    intro x s t p hn hr hm h6 he hp ht
    exact modeReceive_stores hn hr hm h6 he hp ht
  case take => exact fun p s h6 he hn ht => State.takeMode_stores h6 he hn ht
  case ack => exact fun e k how r s ha hk hh h1 h2 => modeAckSend_sends ha hk hh h1 h2

end Sys2Proof.Machine
end

section
/-! SUPPORT. What a reset of the module keeps. -/

namespace Sys2Proof.Machine

open Sys2Proof

/-! ### What a reset of the module keeps (R12, R43) -/

/-- A register that a reset of the module keeps whole, and that does not stand at its reset value, reads as before. -/
theorem gapRegs_get_kept {b warm : Bool} {l : Sparse Word} {a : Nat} (h : ∀ v, gapWord b warm a v = some v)
    (hn : Sparse.get (regDefault b) l a ≠ regDefault b a) : Sparse.get (regDefault b) (gapRegs b warm l) a = Sparse.get (regDefault b) l a := by
  have find : ∀ l : Sparse Word, (Sparse.find l a).getD (regDefault b a) ≠ regDefault b a → Sparse.find (gapRegs b warm l) a = Sparse.find l a := by
    intro l
    induction l with
    | nil => intro _; rfl
    | cons p r ih =>
      intro hp
      by_cases e : p.1 = a
      · have hv : p.2 ≠ regDefault b p.1 := by simpa [Sparse.find, e] using hp
        have hk : gapRegs b warm (p :: r) = p :: gapRegs b warm r := by
          simp only [gapRegs, List.filterMap_cons, e, h, if_neg (e ▸ hv)]
          rw [← e]
        rw [hk]
        simp [Sparse.find, e]
      · have hr : Sparse.find (p :: r) a = Sparse.find r a := by simp [Sparse.find, e]
        rw [hr] at hp ⊢
        rw [← ih hp]
        unfold gapRegs
        rw [List.filterMap_cons]
        split
        · rfl
        · next q hq =>
          have hq1 : q.1 = p.1 := by
            split at hq
            · cases hq
            · split at hq
              · cases hq
              · cases hq; rfl
          simp [Sparse.find, hq1, e]
  unfold Sparse.get at hn ⊢
  rw [find l hn]

/-- The pages that a reset of the module writes besides what it lets fall: what the blocks set after their reset, and the Market's errors. -/
def gapPages : List Nat := blkBase .mkt / 0x1000 :: afterPages

theorem State.failTakes_pages (s : State) : PagesOnly gapPages s s.failTakes := by
  have hm : blkBase .mkt / 0x1000 ∈ gapPages := List.mem_cons_self
  unfold State.failTakes
  refine PagesOnly.trans (.foldl (fun t x => (State.err_pages t _ _ _ hm).trans fun a _ => State.rd_emit _ _ a) _ s) (.foldl (fun t n => .ite ?_ (.refl _ t)) _ _)
  exact (State.err_pages t _ _ _ hm).trans fun a _ => State.rd_emit _ _ a

theorem abortHeld_regs (l : List Bar2Access) (s : State) : (abortHeld l s).regs = s.regs ∧ (abortHeld l s).modId = s.modId :=
  have h := (goes_abortHeld l s rfl (.refl [.out] s)).1
  ⟨h .regs (by decide), h .modId (by decide)⟩

theorem abortBar0_regs (l : List Bar0Req) (s : State) : (abortBar0 l s).regs = s.regs ∧ (abortBar0 l s).modId = s.modId :=
  have h := (goes_abortBar0 l s rfl (.refl [.out] s)).1
  ⟨h .regs (by decide), h .modId (by decide)⟩

theorem State.gapIo_pages (s : State) (warm : Bool) : PagesOnly gapPages s (s.gapIo warm) := by
  unfold State.gapIo
  extract_lets u v
  have hu : PagesOnly gapPages s u := .set (abortHeld_regs _ s).1 (abortHeld_regs _ s).2
  have hv : PagesOnly gapPages s v :=
    .ite ((hu.trans u.failTakes_pages).trans (.set (abortBar0_regs _ _).1 (abortBar0_regs _ _).2)) hu
  exact hv.trans (.set rfl rfl)

theorem State.gapStores_pages (s : State) (warm : Bool) : PagesOnly gapPages s (s.gapStores warm) :=
  have h := (goes_gapStores s warm rfl (.refl [.ldg, .mem] s)).1
  .set (h .regs (by decide)) (h .modId (by decide))

theorem State.gapTime_pages (s : State) (warm : Bool) (st : Nat) : PagesOnly afterPages s (s.gapTime warm st) := by
  unfold State.gapTime
  refine .ite ?_ (.set rfl rfl)
  extract_lets n u
  have hu : PagesOnly afterPages s u := PagesOnly.trans (.set rfl rfl) (State.ntmReset_pages _ st)
  exact hu.trans (.set rfl rfl)

theorem State.gapAir_pages (s : State) : PagesOnly afterPages s s.gapAir := PagesOnly.trans (.set rfl rfl) (State.lnkReset_pages _)

theorem State.corReset_pages (s : State) : PagesOnly afterPages s s.corReset := by
  unfold State.corReset
  extract_lets u
  refine PagesOnly.trans (t := u) (.ite ?_ (.refl _ s)) (.set rfl rfl)
  split
  · exact (s.reply_pages _ _ _ _).mono (by decide)
  · exact .refl _ s

theorem State.gapLight_pages (s : State) : PagesOnly afterPages s s.gapLight := s.corReset_pages.trans (.set rfl rfl)

theorem State.gapRest_pages (s : State) : PagesOnly afterPages s s.gapRest :=
  have h := (goes_gapRest s rfl (.refl [.out, .pwt, .vlt, .cry, .ibg, .rmc, .fov, .upd] s)).1
  .set (h .regs (by decide)) (h .modId (by decide))

/-- A register that a reset keeps whole, off its reset value and outside the pages that are written, keeps its word. -/
theorem State.gap_rd_kept {s : State} {warm : Bool} {a : Nat} (hp : a / 0x1000 ∉ gapPages) (h : ∀ v, gapWord s.modId.variantB warm a v = some v)
    (hn : s.rd a ≠ regDefault s.modId.variantB a) : (s.gap warm).rd a = s.rd a := by
  unfold State.gap
  extract_lets st u v w
  have hafter : a / 0x1000 ∉ afterPages := fun hm => hp (List.mem_cons_of_mem _ hm)
  have hu : u.rd a = s.rd a := ((s.gapIo_pages warm).trans ((s.gapIo warm).gapStores_pages warm)) a hp
  have hid : u.modId = s.modId :=
    (goes_gapStores (s.gapIo warm) warm rfl (goes_gapIo s warm rfl (.refl [.regs, .out, .mbx, .mkt, .que, .chk, .host, .pba, .ldg, .mem] s))).1 .modId (by decide)
  have hv : v.rd a = s.rd a := by
    rw [← hu]
    refine gapRegs_get_kept (fun x => ?_) ?_
    · rw [hid]; exact h x
    · exact fun e => hn (hu.symm.trans (e.trans (by rw [hid])))
  have hw : PagesOnly afterPages v w := .ite (v.bump_pages 1 (by decide)) (.refl _ v)
  have hall : PagesOnly afterPages v (((w.gapTime warm st).gapAir).gapLight).gapRest :=
    (((hw.trans (w.gapTime_pages warm st)).trans (State.gapAir_pages _)).trans (State.gapLight_pages _)).trans (State.gapRest_pages _)
  exact (hall a hafter).trans hv

/-- What comes before the rest of a reset changes neither the Pewter domain nor the vault. -/
theorem State.gap_before_rest (s : State) (warm : Bool) : ∃ u : State, s.gap warm = u.gapRest ∧ u.pwt = s.pwt ∧ u.vlt = s.vlt := by
  unfold State.gap
  extract_lets st u v w
  refine ⟨_, rfl, ?_⟩
  have hu := (goes_gapStores (s.gapIo warm) warm rfl (goes_gapIo s warm rfl (.refl [.regs, .out, .mbx, .mkt, .que, .chk, .host, .pba, .ldg, .mem] s))).1
  have hw : ChangesOnly [.regs] v w := by
    unfold w
    split
    · exact (goes_bump v _ 1 rfl (.refl [.regs] v)).1
    · exact (Goes.refl [.regs] v).1
  have hx := (goes_gapLight _ rfl (goes_gapAir _ rfl (goes_gapTime w warm st rfl (.refl [.regs, .out, .cnt, .edgeCnt, .netEdge, .mbx, .ldg, .ntm, .pba, .rad, .chn, .lnk,
    .bcn, .net, .cor, .lvl, .port, .drg, .scl, .nrg] w)))).1
  exact ⟨(hx .pwt (by decide)).trans ((hw .pwt (by decide)).trans (hu .pwt (by decide))),
    (hx .vlt (by decide)).trans ((hw .vlt (by decide)).trans (hu .vlt (by decide)))⟩

theorem State.gapRest_pwt (s : State) : s.gapRest.pwt = { s.pwt with ranVbak := s.pwt.ranVbak && !s.pwt.mainOn } := by
  have h := (goes_updStops _ rfl (goes_fovReset _ rfl (goes_ibgReset s rfl (.refl [.ibg, .out, .fov, .upd] s)))).1 .pwt (by decide)
  unfold State.gapRest
  extract_lets u
  have hu : u.pwt = s.pwt := h
  exact congrArg (fun p : Pwt => { p with ranVbak := p.ranVbak && !p.mainOn }) hu

theorem State.gapRest_slots (s : State) : s.gapRest.vlt.slots = eraseSlots resetErased 0 s.vlt.slots := by
  have h := (goes_updStops _ rfl (goes_fovReset _ rfl (goes_ibgReset s rfl (.refl [.ibg, .out, .fov, .upd] s)))).1 .vlt (by decide)
  unfold State.gapRest
  extract_lets u
  have hu : u.vlt = s.vlt := h
  exact congrArg (fun v : Vlt => eraseSlots resetErased 0 v.slots) hu

/-- A reset keeps the Pewter domain, but for the note that it ran from VBAK. -/
theorem State.gap_pwt (s : State) (warm : Bool) : (s.gap warm).pwt = { s.pwt with ranVbak := s.pwt.ranVbak && !s.pwt.mainOn } := by
  obtain ⟨u, h, hp, _⟩ := s.gap_before_rest warm
  rw [h, u.gapRest_pwt, hp]

theorem State.gap_slots (s : State) (warm : Bool) : (s.gap warm).vlt.slots = eraseSlots resetErased 0 s.vlt.slots := by
  obtain ⟨u, h, _, hv⟩ := s.gap_before_rest warm
  rw [h, u.gapRest_slots, hv]

/-! ### Entering a warm reset (R40, R43) -/

/-- The pages that a warm reset writes besides what it lets fall: those of the reset itself, of what Scales and LDG save before it, and of RST_CAUSE. -/
def resetPages : List Nat := [R.rst_RST_CAUSE / 0x1000, 0x12, 0x25, 0x26, 0x2A] ++ gapPages

/-- Scales' tail and the Ledger's FIFO are saved before a warm reset. -/
theorem State.saved_goes (s : State) : ChangesOnly [.regs, .out, .free, .nvs, .scl, .ldg, .pba] s s.sclTail.ldgSave :=
  (goes_ldgSave _ rfl (goes_sclTail s rfl (.refl [.regs, .out, .free, .nvs, .scl, .ldg, .pba] s))).1

theorem State.contFollow_goes (s : State) : ChangesOnly [.regs, .out, .fsw, .pba] s s.contFollow :=
  (goes_contFollow s rfl (.refl [.regs, .out, .fsw, .pba] s)).1

/-- The end of a reset's entry: the cause is stored, the start's notes are set, and the contactors follow. -/
def State.resetNoted (s : State) (cause : Word) (b : Boot) : State := { s.wr R.rst_RST_CAUSE cause with boot := b }.contFollow

section
variable (s : State) (cause : Word) (b : Boot)

theorem State.resetNoted_boot : (s.resetNoted cause b).boot = b := State.contFollow_goes _ .boot (by decide)

theorem State.resetNoted_pwt : (s.resetNoted cause b).pwt = s.pwt := State.contFollow_goes _ .pwt (by decide)

theorem State.resetNoted_vlt : (s.resetNoted cause b).vlt = s.vlt := State.contFollow_goes _ .vlt (by decide)

theorem State.resetNoted_mbx : (s.resetNoted cause b).mbx = s.mbx := State.contFollow_goes _ .mbx (by decide)

theorem State.resetNoted_cause : (s.resetNoted cause b).rd R.rst_RST_CAUSE = cause :=
  (State.contFollow_pages _ _ (by decide)).trans (s.rd_wr_same _ _)

theorem State.resetNoted_pages : PagesOnly (R.rst_RST_CAUSE / 0x1000 :: afterPages) s (s.resetNoted cause b) := by
  have hw : PagesOnly (R.rst_RST_CAUSE / 0x1000 :: afterPages) s { s.wr R.rst_RST_CAUSE cause with boot := b } :=
    (s.wr_pages cause (by decide)).trans (.set rfl rfl)
  exact hw.trans ((State.contFollow_pages _).mono (by decide))

end

/-- A warm reset's entry: the saves, the reset itself, and its notes, with the code of the cause unless one before it outranks it. -/
theorem State.enterReset_warm (s : State) {code : Nat} (src : Nat) (hc : code < 16) : ∃ cause b, s.enterReset code src false = (s.sclTail.ldgSave.gap true).resetNoted cause b ∧
    b.stage = .reset ∧ (s.outranked code = false → fld cause 0 4 = code) := by
  refine ⟨_, _, rfl, rfl, fun h => ?_⟩
  rw [h]
  simp only [fld, w32, BitVec.toNat_ofNat, Bool.false_eq_true, if_false]
  omega

section
variable (s : State) {code : Nat} (src : Nat) (hc : code < 16)
include hc

theorem State.enterReset_stage : (s.enterReset code src false).boot.stage = .reset := by
  obtain ⟨cause, b, h, hb, _⟩ := s.enterReset_warm src hc
  rw [h, State.resetNoted_boot, hb]

theorem State.enterReset_pwt : (s.enterReset code src false).pwt = { s.pwt with ranVbak := s.pwt.ranVbak && !s.pwt.mainOn } := by
  obtain ⟨cause, b, h, _⟩ := s.enterReset_warm src hc
  rw [h, State.resetNoted_pwt, State.gap_pwt, s.saved_goes .pwt (by decide)]

theorem State.enterReset_slots : (s.enterReset code src false).vlt.slots = eraseSlots resetErased 0 s.vlt.slots := by
  obtain ⟨cause, b, h, _⟩ := s.enterReset_warm src hc
  rw [h, State.resetNoted_vlt, State.gap_slots, s.saved_goes .vlt (by decide)]

theorem State.enterReset_cause (h : s.outranked code = false) : (s.enterReset code src false).rf R.rst_RST_CAUSE 0 4 = code := by
  obtain ⟨cause, b, e, _, hcode⟩ := s.enterReset_warm src hc
  rw [e, State.rf, State.resetNoted_cause, hcode h]

theorem State.enterReset_rd_kept {a : Nat} (hp : a / 0x1000 ∉ resetPages) (h : ∀ v, gapWord s.modId.variantB true a v = some v)
    (hn : s.rd a ≠ regDefault s.modId.variantB a) : (s.enterReset code src false).rd a = s.rd a := by
  obtain ⟨cause, b, e, _⟩ := s.enterReset_warm src hc
  have hsaved : s.sclTail.ldgSave.rd a = s.rd a :=
    ((s.sclTail_pages.mono (by decide)).trans ((State.ldgSave_pages _).mono (by decide)) : PagesOnly resetPages _ _) a hp
  have hid : s.sclTail.ldgSave.modId = s.modId := s.saved_goes .modId (by decide)
  rw [e, (State.resetNoted_pages _ cause b).mono (qs := resetPages) (by decide) a hp, State.gap_rd_kept (fun hm => hp (List.mem_append_right _ hm)) (by rwa [hid]) (by rwa [hid, hsaved]), hsaved]

end

end Sys2Proof.Machine
end

section
/-! SUPPORT. Full zeroization. -/

namespace Sys2Proof.Machine

open Sys2Proof

/-! ### Full zeroization (R368) -/

theorem PagesOnly.foldl_mem {α : Type} {ps : List Nat} {f : State → α → State} {l : List α} (hf : ∀ x ∈ l, ∀ t, PagesOnly ps t (f t x)) (s : State) :
    PagesOnly ps s (l.foldl f s) := by
  induction l generalizing s with
  | nil => exact .refl ps s
  | cons x l ih => exact (hf x List.mem_cons_self s).trans (ih (fun y hy => hf y (List.mem_cons_of_mem _ hy)) _)

/-- The registers of the vault's window that a full zeroization clears, and its result in OP_STAT. -/
def State.windowCleared (s : State) : State :=
  let s := [R.vlt_OP_CMD, R.vlt_OP_ATTR, R.vlt_OP_USES, R.vlt_OP_IN, R.vlt_OP_OUT, R.vlt_KDF_CFG].foldl (fun (t : State) a => t.wr a 0) s
  ((List.range 16).foldl (fun (t : State) i => t.wr (R.vlt_KDF_LABELw i) 0) s).opStat vZeroized 0

theorem State.windowCleared_goes (s : State) : ChangesOnly [.regs] s s.windowCleared :=
  (goes_opStat _ _ _ rfl (Goes.foldl (fun _ _ g => goes_wr _ _ _ rfl g) (Goes.foldl (fun _ _ g => goes_wr _ _ _ rfl g) (.refl [.regs] s)))).1

theorem State.windowCleared_pages (s : State) : PagesOnly [0x28] s s.windowCleared := by
  have window : ∀ a ∈ [R.vlt_OP_CMD, R.vlt_OP_ATTR, R.vlt_OP_USES, R.vlt_OP_IN, R.vlt_OP_OUT, R.vlt_KDF_CFG], a / 0x1000 ∈ [0x28] := by decide
  have labels : ∀ i ∈ List.range 16, R.vlt_KDF_LABELw i / 0x1000 ∈ [0x28] := by decide
  exact ((PagesOnly.foldl_mem (fun a ha t => t.wr_pages 0 (window a ha)) s).trans
    (PagesOnly.foldl_mem (fun i hi t => t.wr_pages 0 (labels i hi)) _)).trans (State.wr_pages _ _ (by decide))

/-- What a full zeroization leaves in the parts, before the window's registers are cleared; `m` are the stores with the named outputs cleared. -/
def State.partsZeroed (s : State) (m : Mem) : State :=
  { s.setRs rsZero with
    vlt := { s.vlt with slots := List.replicate 64 none, drbg := none, ops := [] }
    mem := m
    pwt := { (s.setRs rsZero).pwt with sealUp := true }
    boot := { s.boot with zeroized := true } }

theorem State.zeroizeNow_eq (s : State) : ∃ m, s.zeroizeNow = (s.partsZeroed m).windowCleared := ⟨_, rfl⟩

section
variable (s : State)

theorem State.zeroizeNow_pwt : s.zeroizeNow.pwt = { (s.setRs rsZero).pwt with sealUp := true } := by
  obtain ⟨m, h⟩ := s.zeroizeNow_eq
  rw [h, State.windowCleared_goes _ .pwt (by decide)]
  rfl

theorem State.zeroizeNow_slots : s.zeroizeNow.vlt.slots = List.replicate 64 none := by
  obtain ⟨m, h⟩ := s.zeroizeNow_eq
  rw [h, State.windowCleared_goes _ .vlt (by decide)]
  rfl

theorem State.zeroizeNow_boot : s.zeroizeNow.boot = { s.boot with zeroized := true } := by
  obtain ⟨m, h⟩ := s.zeroizeNow_eq
  rw [h, State.windowCleared_goes _ .boot (by decide)]
  rfl

theorem State.zeroizeNow_pages : PagesOnly [0x28] s s.zeroizeNow := by
  obtain ⟨m, h⟩ := s.zeroizeNow_eq
  have hp : PagesOnly [0x28] s (s.partsZeroed m) := .set rfl rfl
  rw [h]
  exact hp.trans (State.windowCleared_pages _)

theorem State.zeroizeNow_goes : ChangesOnly [.regs, .mem, .boot, .pwt, .vlt] s s.zeroizeNow := (goes_zeroizeNow s rfl (.refl _ s)).1

end

end Sys2Proof.Machine
end

section
/-! PROOFS. The Pewter domain: calendar, VBAK, PWRON, the tamper loops and their commands. -/

namespace Sys2Proof.Machine

open Sys2Proof

/-! ### What the operations of the Pewter domain leave in it -/

section
variable (s : State)

theorem State.pwtIrq_pwt (i : Nat) : ∃ w, (s.pwtIrq i).pwt = { s.pwt with pendIrq := w } := by
  unfold State.pwtIrq
  split
  · exact ⟨_, s.irq_pwt _ _⟩
  · exact ⟨_, rfl⟩

theorem State.pwtIrq_rd (i : Nat) {a : Nat} (h : PastHeader a) : (s.pwtIrq i).rd a = s.rd a := by
  unfold State.pwtIrq
  split
  · exact s.irq_rd_past _ _ h
  · rfl

theorem State.pwtEvent_pwt (code : Nat) (p : Bytes) : (s.pwtEvent code p).pwt = s.pwt := by
  unfold State.pwtEvent
  split
  · exact s.event_pwt _ _ _
  · rfl

theorem State.pwtEvent_pages (code : Nat) (p : Bytes) : PagesOnly [0x2A, 0x2E] s (s.pwtEvent code p) := .ite (s.event_pages _ _ _) (.refl _ s)

theorem State.setPwron_pwt (on : Bool) (b : Nat) : (s.setPwron on b).pwt = { s.pwt with pwron := on, pwronBy := if on then b else 0 } := by
  unfold State.setPwron
  split
  · next h => rw [← h]
  · rfl

/-- VBAK falls below 2.2 V: the flag is set, and the warning is given. -/
def State.vbakWarned (s : State) (mv : Nat) : State :=
  (({ s with pwt := { s.pwt with vbak := mv, vbakLow := true } }.pwtFlag 6).pwtIrq 3).pwtEvent 0xF802 (toLe 2 mv)

variable {s}

theorem State.setVbak_good {mv : Nat} (h : 2200 ≤ mv) : s.setVbak mv = { s with pwt := { s.pwt with vbak := mv, vbakLow := false } } := by
  simp [State.setVbak, h]

theorem State.setVbak_still {mv : Nat} (h : mv < 2200) (hl : s.pwt.vbakLow = true) : s.setVbak mv = { s with pwt := { s.pwt with vbak := mv } } := by
  simp [State.setVbak, h, hl]

theorem State.setVbak_low {mv : Nat} (h : mv < 2200) (hl : s.pwt.vbakLow = false) : s.setVbak mv = s.vbakWarned mv := by
  simp [State.setVbak, State.vbakWarned, Nat.not_le.mpr h, hl]

theorem State.vbakWarned_pwt (mv : Nat) : ∃ w, (s.vbakWarned mv).pwt = { s.pwt with vbak := mv, vbakLow := true, pendIrq := w } := by
  obtain ⟨w, h⟩ := State.pwtIrq_pwt ({ s with pwt := { s.pwt with vbak := mv, vbakLow := true } }.pwtFlag 6) 3
  exact ⟨w, (State.pwtEvent_pwt _ _ _).trans h⟩

theorem State.vbakWarned_flag (mv : Nat) : (s.vbakWarned mv).rb R.pwt_FLAGS 6 = true :=
  (State.rb_congr (((State.pwtEvent_pages _ _ _) _ (by decide)).trans (State.pwtIrq_rd _ 3 (by decide))) 6).trans (State.wb_rb_same _ _ true (by decide))

theorem State.setVbak_pwt (s : State) (mv : Nat) : ∃ l w, (s.setVbak mv).pwt = { s.pwt with vbak := mv, vbakLow := l, pendIrq := w } := by
  by_cases h : 2200 ≤ mv
  · exact ⟨_, _, by rw [State.setVbak_good h]⟩
  · cases hl : s.pwt.vbakLow with
    | true => exact ⟨_, _, by rw [State.setVbak_still (by omega) hl]⟩
    | false =>
      obtain ⟨w, hw⟩ := s.vbakWarned_pwt mv
      exact ⟨_, w, by rw [State.setVbak_low (by omega) hl, hw]⟩

end

/-! ### A second (R349, R353, R355) -/

/-- What the rest of a second leaves alone: the calendar, the reading of VBAK, the main power and the capture of CNT. -/
structure SecondKept (s t : State) : Prop where
  cal : t.pwt.cal = s.pwt.cal
  vbak : t.pwt.vbak = s.pwt.vbak
  mainOn : t.pwt.mainOn = s.pwt.mainOn
  lo : t.rd R.pwt_RTC_CAP_LO = s.rd R.pwt_RTC_CAP_LO
  hi : t.rd R.pwt_RTC_CAP_HI = s.rd R.pwt_RTC_CAP_HI

theorem SecondKept.refl (s : State) : SecondKept s s := ⟨rfl, rfl, rfl, rfl, rfl⟩

theorem SecondKept.trans {s t u : State} (h : SecondKept s t) (h' : SecondKept t u) : SecondKept s u :=
  ⟨h'.cal.trans h.cal, h'.vbak.trans h.vbak, h'.mainOn.trans h.mainOn, h'.lo.trans h.lo, h'.hi.trans h.hi⟩

section
variable (s : State)

theorem State.pwtFlag_second (i : Nat) : SecondKept s (s.pwtFlag i) :=
  ⟨rfl, rfl, rfl, s.wb_rd_ne _ _ (by decide), s.wb_rd_ne _ _ (by decide)⟩

theorem State.pwtIrq_second (i : Nat) : SecondKept s (s.pwtIrq i) := by
  obtain ⟨w, h⟩ := s.pwtIrq_pwt i
  exact ⟨by rw [h], by rw [h], by rw [h], s.pwtIrq_rd i (by decide), s.pwtIrq_rd i (by decide)⟩

theorem State.pwtEvent_second (code : Nat) (p : Bytes) : SecondKept s (s.pwtEvent code p) := by
  have h := s.pwtEvent_pwt code p
  exact ⟨by rw [h], by rw [h], by rw [h], s.pwtEvent_pages _ _ _ (by decide), s.pwtEvent_pages _ _ _ (by decide)⟩

theorem State.setPwron_second (on : Bool) (b : Nat) : SecondKept s (s.setPwron on b) := by
  have h := s.setPwron_pwt on b
  exact ⟨by rw [h], by rw [h], by rw [h], s.setPwron_rd _ _ _, s.setPwron_rd _ _ _⟩

theorem State.alarm_second (n : Nat) : SecondKept s (s.alarm n) := by
  have hflag : SecondKept s ((s.pwtFlag (2 + n)).pwtIrq n) := (s.pwtFlag_second _).trans (State.pwtIrq_second _ n)
  unfold State.alarm
  split
  · exact .refl s
  · extract_lets u
    split
    · exact hflag.trans (State.setPwron_second u _ _)
    · exact hflag

end

/-- A second counts in the calendar and keeps the reading of VBAK; with main power present the count is captured. -/
theorem State.second_counts (s : State) (mv : Nat) (c : DWord) : (s.second mv c).pwt.cal = s.pwt.cal.next ∧ (s.second mv c).pwt.vbak = mv ∧
    (s.pwt.mainOn = true → (s.second mv c).rd64 R.pwt_RTC_CAP_LO R.pwt_RTC_CAP_HI = c.toNat) := by
  unfold State.second
  extract_lets n wrap q u v w x
  obtain ⟨l, p, hv⟩ := u.setVbak_pwt mv
  have hx : SecondKept w x := by
    unfold x
    split
    · exact ((w.pwtFlag_second 0).trans (State.pwtIrq_second _ 6)).trans (State.pwtEvent_second _ _ _)
    · exact .refl w
  have hend : SecondKept w ((x.alarm 0).alarm 1) := hx.trans ((x.alarm_second 0).trans (State.alarm_second _ 1))
  have hw : w.pwt = v.pwt := by
    unfold w
    split <;> rfl
  refine ⟨hend.cal.trans (by rw [hw, hv]), hend.vbak.trans (by rw [hw, hv]), fun hm => ?_⟩
  have hmv : v.pwt.mainOn = true := by rw [hv]; exact hm
  have hcap : w = (v.at c).wr64 R.pwt_RTC_CAP_LO R.pwt_RTC_CAP_HI c.toNat := if_pos hmv
  have hrd : ((x.alarm 0).alarm 1).rd64 R.pwt_RTC_CAP_LO R.pwt_RTC_CAP_HI = w.rd64 R.pwt_RTC_CAP_LO R.pwt_RTC_CAP_HI := by
    simp only [State.rd64, State.rn, hend.lo, hend.hi]
  rw [hrd, hcap, State.rd64_wr64 _ _ (by decide), Nat.mod_eq_of_lt c.isLt]

theorem calendarSecond_counts {s : State} (mv : Nat) (c : DWord) (h : s.pwt.oscOk = true) : ∃ t, exec (.calendarSecond mv c) s = .next t ∧ t.pwt.cal = s.pwt.cal.next ∧
    t.pwt.vbak = mv ∧ (s.pwt.mainOn = true → t.rd64 R.pwt_RTC_CAP_LO R.pwt_RTC_CAP_HI = c.toNat) ∧ ChangesOnly (touches (.calendarSecond mv c)) s t := by
  have hx : exec (.calendarSecond mv c) s = .next (s.second mv c) := congrArg Host.Outcome.next (if_pos h)
  obtain ⟨hcal, hvbak, hcap⟩ := s.second_counts mv c
  exact ⟨_, hx, hcal, hvbak, hcap, (exec_goes hx).1⟩

theorem calendarSecond_stopped {s : State} (mv : Nat) (c : DWord) (h : s.pwt.oscOk = false) : exec (.calendarSecond mv c) s = .next s :=
  congrArg Host.Outcome.next (if_neg (by simp [h]))

/-! ### The oscillator, the seal and VBAK (R346, R353) -/

/-- The oscillator stands still: the time is no longer valid. -/
def State.oscStopped (s : State) : State := { s with pwt := { s.pwt with oscOk := false, timeValid := false } }

theorem oscFail_flagged (s : State) : ∃ t, exec .oscFail s = .next t ∧ t.pwt.oscOk = false ∧ t.pwt.timeValid = false ∧ t.rb R.pwt_FLAGS 1 = true ∧ t.pwt.cal = s.pwt.cal ∧
    ChangesOnly (touches .oscFail) s t := by
  have hx : exec .oscFail s = .next ((s.oscStopped.pwtFlag 1).pwtIrq 4) := rfl
  obtain ⟨w, h⟩ := (s.oscStopped.pwtFlag 1).pwtIrq_pwt 4
  exact ⟨_, hx, by rw [h]; rfl, by rw [h]; rfl, (State.rb_congr (State.pwtIrq_rd _ 4 (by decide)) 1).trans (State.wb_rb_same _ _ true (by decide)), by rw [h]; rfl,
    (exec_goes hx).1⟩

theorem exec_sealTrip (mv : Nat) (s : State) : exec (.sealTrip mv) s = .next (if 1600 ≤ mv then s
    else if mv < 1500 || Config.freeBit s.free then { s.draw 1 with pwt := { s.pwt with sealUp := false } } else s.draw 1) := rfl

theorem sealTrip_breaks {s : State} {mv : Nat} (h : mv < 1500) :
    exec (.sealTrip mv) s = .next { s.draw 1 with pwt := { s.pwt with sealUp := false } } := by
  rw [exec_sealTrip, if_neg (by omega), if_pos (by simp [h])]

theorem draw_changes (s : State) (n : Nat) : ChangesOnly [.pwt, .free] s (s.draw n) := fun p hp => by
  cases p <;> first | rfl | simp at hp

theorem State.unsealed_changes (s : State) : ChangesOnly [.pwt, .free] s { s.draw 1 with pwt := { s.pwt with sealUp := false } } := fun p hp => by
  cases p <;> first | rfl | simp at hp

theorem sealTrip_free {s : State} {mv : Nat} (hl : 1500 ≤ mv) (hh : mv < 1600) :
    ∃ t, exec (.sealTrip mv) s = .next t ∧ (t.pwt = s.pwt ∨ t.pwt = { s.pwt with sealUp := false }) ∧ ChangesOnly [.pwt, .free] s t := by
  rw [exec_sealTrip, if_neg (by omega)]
  cases hf : Config.freeBit s.free
  · exact ⟨_, rfl, .inl (by rw [if_neg (by simp; omega)]; rfl), by rw [if_neg (by simp; omega)]; exact draw_changes s 1⟩
  · exact ⟨_, rfl, .inr (by simp), by simpa using s.unsealed_changes⟩

theorem exec_vbakLow (mv : Nat) (s : State) : exec (.vbakLow mv) s = .next (s.setVbak mv) := rfl

theorem exec_vbakRestored (mv : Nat) (s : State) : exec (.vbakRestored mv) s = .next (s.setVbak mv) := rfl

theorem State.setVbak_below {s : State} {mv : Nat} (h : mv < 2200) : (s.setVbak mv).pwt.vbakLow = true ∧ (s.setVbak mv).pwt.vbak = mv ∧
    (s.pwt.vbakLow = false → (s.setVbak mv).rb R.pwt_FLAGS 6 = true) := by
  cases hl : s.pwt.vbakLow with
  | true =>
    rw [State.setVbak_still h hl]
    exact ⟨hl, rfl, nofun⟩
  | false =>
    obtain ⟨w, hw⟩ := s.vbakWarned_pwt mv
    rw [State.setVbak_low h hl, hw]
    exact ⟨rfl, rfl, fun _ => s.vbakWarned_flag mv⟩
/-! ### The loss of main power (R345, R352) -/

section
variable {s : State}

/-- The calendar of a commit that the oscillator loads. -/
def Pwt.loaded (p : Pwt) (a d : Word) : Pwt := { p with cal := calOf a d, timeValid := true, div := 0, cyc := 0, commit := none }

theorem State.rtcLoad_pwt {a d : Word} (h : s.pwt.commit = some (a, d)) : s.rtcLoad.pwt = s.pwt.loaded a d := by
  unfold State.rtcLoad
  rw [h]
  dsimp only
  split
  · exact State.reply_pwt _ _ _ _ _
  · rfl

/-- A commit that waits when main power goes is lost or loaded whole; with none waiting nothing happens. -/
theorem State.rtcCut_cases (s : State) : s.pwt.commit = none ∧ s.rtcCut = s ∨
    ∃ a d, s.pwt.commit = some (a, d) ∧ (s.rtcCut = s.rtcLoad.draw 1 ∨ s.rtcCut = { s with pwt := { s.pwt with commit := none } }.draw 1) := by
  unfold State.rtcCut
  cases h : s.pwt.commit with
  | none => exact .inl ⟨rfl, rfl⟩
  | some w =>
    refine .inr ⟨w.1, w.2, rfl, ?_⟩
    cases Config.freeBit s.free
    · exact .inr rfl
    · exact .inl rfl

theorem State.rtcCut_pwt (s : State) : s.rtcCut.pwt.commit = none ∧ s.rtcCut.pwt.mainOn = s.pwt.mainOn ∧ s.rtcCut.pwt.ranVbak = s.pwt.ranVbak ∧
    (s.pwt.commit = none → s.rtcCut.pwt.cal = s.pwt.cal) := by
  obtain ⟨hn, h⟩ | ⟨a, d, hc, h | h⟩ := s.rtcCut_cases
  · rw [h]
    exact ⟨hn, rfl, rfl, fun _ => rfl⟩
  · rw [h, State.draw_pwt, State.rtcLoad_pwt hc, hc]
    exact ⟨rfl, rfl, rfl, nofun⟩
  · rw [h, State.draw_pwt, hc]
    exact ⟨rfl, rfl, rfl, nofun⟩

theorem State.rtcCut_goes (s : State) : ChangesOnly [.regs, .out, .free, .mbx, .pwt, .pba] s s.rtcCut := (goes_rtcCut s rfl (.refl _ s)).1

theorem State.setVbak_goes (s : State) (mv : Nat) : ChangesOnly [.regs, .out, .mbx, .ldg, .pwt, .pba] s (s.setVbak mv) := (goes_setVbak s mv rfl (.refl _ s)).1

/-- The end of a switch to VBAK: the module is off, the contactors fall, and a commit that waits is lost or loaded. -/
def State.switched (s : State) (b : Boot) (mv : Nat) : State :=
  ({ s with boot := b, pwt := { s.pwt with mainOn := false, ranVbak := true } }.contFollow.rtcCut).setVbak mv

theorem State.switched_keeps (s : State) (b : Boot) (mv : Nat) : (s.switched b mv).boot = b ∧ (s.switched b mv).pwt.mainOn = false ∧ (s.switched b mv).pwt.ranVbak = true ∧
    (s.switched b mv).pwt.vbak = mv ∧ (s.switched b mv).pwt.commit = none ∧ (s.pwt.commit = none → (s.switched b mv).pwt.cal = s.pwt.cal) := by
  unfold State.switched
  generalize hu : ({ s with boot := b, pwt := { s.pwt with mainOn := false, ranVbak := true } } : State) = u
  have hp : u.contFollow.pwt = u.pwt := u.contFollow_goes .pwt (by decide)
  have hb : u.contFollow.boot = u.boot := u.contFollow_goes .boot (by decide)
  obtain ⟨hc, hm, hr, hcal⟩ := u.contFollow.rtcCut_pwt
  obtain ⟨l, w, hv⟩ := u.contFollow.rtcCut.setVbak_pwt mv
  rw [hv]
  refine ⟨((State.setVbak_goes _ mv .boot (by decide)).trans (State.rtcCut_goes _ .boot (by decide))).trans (hb.trans (by rw [← hu])),
    hm.trans (by rw [hp, ← hu]), hr.trans (by rw [hp, ← hu]), rfl, hc, fun h => (hcal (by rw [hp, ← hu]; exact h)).trans (by rw [hp, ← hu])⟩

theorem vbakSwitchover_off (mv : Nat) (s : State) : ∃ t, exec (.vbakSwitchover mv) s = .next t ∧ t.boot.stage = .off ∧ t.pwt.mainOn = false ∧ t.pwt.ranVbak = true ∧
    t.pwt.vbak = mv ∧ t.pwt.commit = none ∧ (s.pwt.commit = none → t.pwt.cal = s.pwt.cal) ∧ ChangesOnly (touches (.vbakSwitchover mv)) s t := by
  have gone : ∃ b, b.stage = .off ∧ exec (.vbakSwitchover mv) s = .next ((if s.boot.stage = .off then s else s.gap false).switched b mv) := ⟨_, rfl, rfl⟩
  obtain ⟨b, hb, hx⟩ := gone
  obtain ⟨hboot, hmain, hran, hvbak, hcommit, hcal⟩ := (if s.boot.stage = .off then s else s.gap false).switched_keeps b mv
  have hgap : (if s.boot.stage = .off then s else s.gap false).pwt.commit = s.pwt.commit ∧ (if s.boot.stage = .off then s else s.gap false).pwt.cal = s.pwt.cal := by
    split
    · exact ⟨rfl, rfl⟩
    · exact ⟨by rw [State.gap_pwt], by rw [State.gap_pwt]⟩
  exact ⟨_, hx, by rw [hboot, hb], hmain, hran, hvbak, hcommit, fun h => (hcal (hgap.1.trans h)).trans hgap.2, (exec_goes hx).1⟩

/-! ### Commits and reads (R350, R351) -/

variable {m : Master} {v : Word}

theorem exec_rtcCommit (h : PageOpen s .pwt m) : exec (.rtcCommit m v) s = .next ((s.rtcCtrl m v).answer .done) :=
  congrArg Host.Outcome.next (State.writeAt_open h _ _ _)

theorem State.rtcCtrl_idle (h : tst v 0 = false) : s.rtcCtrl m v = s := if_pos (by simp [h])

theorem State.rtcCtrl_busy (h : tst v 0 = true) (hc : s.pwt.commit.isSome = true) : s.rtcCtrl m v = s.err .pwt eBusy 0x64 m := by
  simp [State.rtcCtrl, h, hc]

theorem State.rtcCtrl_commits (h : tst v 0 = true) (hc : s.pwt.commit = none) : s.rtcCtrl m v = s.rtcCommit.1 := by
  simp [State.rtcCtrl, h, hc]

theorem State.rtcCommit_good (hk : rtcCheck (s.rd R.pwt_SH_TIME) (s.rd R.pwt_SH_DATE) = 0) :
    s.rtcCommit = ({ s with pwt := { s.pwt with commit := some (s.rd R.pwt_SH_TIME, s.rd R.pwt_SH_DATE) } }, 0) := if_pos hk

/-- A commit that fails is flagged in RTC_CSTAT with its check. -/
def State.commitFailed (s : State) (k : Nat) : State := ((s.wf R.pwt_RTC_CSTAT 4 2 k).wb R.pwt_RTC_CSTAT 1 true).irq .pwt 5

theorem State.rtcCommit_bad (hk : rtcCheck (s.rd R.pwt_SH_TIME) (s.rd R.pwt_SH_DATE) ≠ 0) :
    s.rtcCommit = (s.commitFailed (rtcCheck (s.rd R.pwt_SH_TIME) (s.rd R.pwt_SH_DATE)), rtcCheck (s.rd R.pwt_SH_TIME) (s.rd R.pwt_SH_DATE)) := if_neg hk

theorem rtcCheck_le (a d : Word) : rtcCheck a d ≤ 3 := by
  unfold rtcCheck
  extract_lets c
  repeat' split
  all_goals omega

theorem State.commitFailed_flags (s : State) {k : Nat} (h : k ≤ 3) : (s.commitFailed k).pwt = s.pwt ∧ (s.commitFailed k).rb R.pwt_RTC_CSTAT 1 = true ∧
    (s.commitFailed k).rf R.pwt_RTC_CSTAT 4 2 = k ∧ (s.commitFailed k).rb (hdr .pwt oRaw) 5 = true := by
  have hrd : (s.commitFailed k).rd R.pwt_RTC_CSTAT = ((s.wf R.pwt_RTC_CSTAT 4 2 k).wb R.pwt_RTC_CSTAT 1 true).rd R.pwt_RTC_CSTAT := State.irq_rd_past _ _ _ (by decide)
  refine ⟨by simp [State.commitFailed, State.wf, State.wb], (State.rb_congr hrd 1).trans (State.wb_rb_same _ _ true (by decide)), ?_, State.irq_raises _ _ (by decide) (by decide)⟩
  rw [State.rf_congr hrd, State.wb_rf_ne _ _ _ (by decide), State.wf_rf_same _ _ _ (by decide)]
  omega

theorem exec_rtcLoad (h : s.pwt.oscOk = true) : exec .rtcLoad s = .next s.rtcLoad := congrArg Host.Outcome.next (if_pos h)

theorem rtcLoad_none (h : s.pwt.oscOk = false ∨ s.pwt.commit = none) : exec .rtcLoad s = .next s := by
  refine congrArg Host.Outcome.next ?_
  rcases h with h | h
  · exact if_neg (by simp [h])
  · have hl : s.rtcLoad = s := by
      unfold State.rtcLoad
      rw [h]
    rw [hl, ite_self]

theorem exec_rtcTimeRead (n : Nat) (h : PageOpen s .pwt m) : exec (.rtcTimeRead m n) s = .next ((s.rtcLatch n).answer (.data s.pwt.cal.timeWord)) :=
  congrArg Host.Outcome.next (State.readAt_open h _ _)

theorem State.rtcLatch_regsOnly (s : State) (n : Nat) : RegsOnly [R.pwt_RTC_DATE, R.pwt_RTC_SUB] s (s.rtcLatch n) :=
  ((RegsOnly.wr s R.pwt_RTC_DATE _).mono (by simp)).trans ((RegsOnly.wr _ R.pwt_RTC_SUB _).mono (by simp))

theorem State.rtcLatch_date (s : State) (n : Nat) : (s.rtcLatch n).rd R.pwt_RTC_DATE = s.pwt.cal.dateWord :=
  (State.rd_wr_ne _ _ (by decide)).trans (s.rd_wr_same _ _)

theorem State.rtcLatch_sub (s : State) (n : Nat) : (s.rtcLatch n).rd R.pwt_RTC_SUB = w32 (s.rtcSub n) :=
  State.rd_wr_same _ _ _

theorem exec_rtcSet {tag : Word} {k : Cmd} (h : Ready s 0x0800 tag k) : exec (.rtcSet tag) s = .next (if s.pwt.commit.isSome then s.reply k stBusy [] []
    else
      let r := ((s.wr R.pwt_SH_TIME (w32 (k.par 0 4) &&& 0x3F7F7F)).wr R.pwt_SH_DATE (w32 (k.par 4 4) &&& 0xFFFF1F3F)).rtcCommit
      if r.2 = 0 then r.1.defer k else r.1.reply k stBadParam (toLe 1 r.2) []) :=
  congrArg Host.Outcome.next (State.withCmd_ready h _)

theorem exec_rtcGet {tag : Word} {k : Cmd} (n : Nat) (h : Ready s 0x0801 tag k) : exec (.rtcGet tag n) s = .next ((s.rtcLatch n).reply k stOk
    (wordsBytes [s.pwt.cal.timeWord, (s.rtcLatch n).rd R.pwt_RTC_DATE, (s.rtcLatch n).rd R.pwt_RTC_SUB, (s.rtcLatch n).rd R.pwt_FLAGS, (s.rtcLatch n).pwtStat]) []) :=
  congrArg Host.Outcome.next (State.withCmd_ready h _)

/-- The shadow words that RTC_SET stages. -/
def State.timeStaged (s : State) (a d : Word) : State := (s.wr R.pwt_SH_TIME a).wr R.pwt_SH_DATE d

theorem State.timeStaged_rd (s : State) (a d : Word) : (s.timeStaged a d).rd R.pwt_SH_TIME = a ∧ (s.timeStaged a d).rd R.pwt_SH_DATE = d :=
  ⟨(State.rd_wr_ne _ _ (by decide)).trans (s.rd_wr_same _ _), State.rd_wr_same _ _ _⟩

theorem rtcSet_stages {tag : Word} {k : Cmd} (h : Ready s 0x0800 tag k) (hc : s.pwt.commit = none) {a d : Word} (ha : a = w32 (k.par 0 4) &&& 0x3F7F7F)
    (hd : d = w32 (k.par 4 4) &&& 0xFFFF1F3F) : (rtcCheck a d = 0 → ∃ t, exec (.rtcSet tag) s = .next t ∧ t.pwt.commit = some (a, d) ∧ t.rd R.pwt_SH_TIME = a ∧
      t.rd R.pwt_SH_DATE = d ∧ ChangesOnly (touches (.rtcSet tag)) s t) ∧
    (rtcCheck a d ≠ 0 → ∃ t, exec (.rtcSet tag) s = .next t ∧ t.pwt = s.pwt ∧ t.rf R.pwt_RTC_CSTAT 4 2 = rtcCheck a d ∧ Ended k t) := by
  obtain ⟨hta, htd⟩ := s.timeStaged_rd a d
  have hx : exec (.rtcSet tag) s = .next (if (s.timeStaged a d).rtcCommit.2 = 0 then (s.timeStaged a d).rtcCommit.1.defer k
      else (s.timeStaged a d).rtcCommit.1.reply k stBadParam (toLe 1 (s.timeStaged a d).rtcCommit.2) []) := by
    rw [exec_rtcSet h, hc, ha, hd]
    rfl
  constructor <;> intro hk
  · have hg := State.rtcCommit_good (s := s.timeStaged a d) (by rw [hta, htd, hk])
    rw [hg, if_pos rfl] at hx
    exact ⟨_, hx, congrArg some (Prod.ext hta htd), hta, htd, (exec_goes hx).1⟩
  · have hg := State.rtcCommit_bad (s := s.timeStaged a d) (by rwa [hta, htd])
    rw [hta, htd] at hg
    rw [hg, if_neg hk] at hx
    obtain ⟨hp, _, hf, _⟩ := (s.timeStaged a d).commitFailed_flags (rtcCheck_le a d)
    exact ⟨_, hx, (State.reply_pwt _ _ _ _ _).trans hp, (State.rf_congr (State.reply_rd _ _ _ _ _ (by decide)) 4 2).trans hf, State.reply_ended _ _ _ _ _⟩

end
/-! ### PWRON and the fail-lit latch (R355, R356, R358) -/

section
variable {m : Master} {s : State}

theorem exec_pwronAssert (h : PageOpen s .pwt m) : exec (.pwronAssert m) s = .next ((s.pwronAssert m).answer .done) :=
  congrArg Host.Outcome.next (State.writeAt_open h _ _ _)

theorem pwronAssert_blocked (h : PageOpen s .pwt m) (hb : s.pwronBlocked = true) :
    exec (.pwronAssert m) s = .next ((s.err .pwt eBusy 0x94 m).answer .done) := by
  rw [exec_pwronAssert h, State.pwronAssert, if_pos hb]

theorem pwronAssert_free (h : PageOpen s .pwt m) (hb : s.pwronBlocked = false) :
    ∃ t, exec (.pwronAssert m) s = .next t ∧ t.pwt.pwron = true ∧ t.pwt.pwronBy = 3 ∧ ChangesOnly (touches (.pwronAssert m)) s t := by
  have hx : exec (.pwronAssert m) s = .next ((s.setPwron true 3).answer .done) := by
    rw [exec_pwronAssert h, State.pwronAssert, hb, if_neg Bool.false_ne_true]
  have hp := (State.answer_pwt _ .done).trans (s.setPwron_pwt true 3)
  exact ⟨_, hx, by rw [hp], by rw [hp]; rfl, (exec_goes hx).1⟩

theorem exec_pwronRelease (h : PageOpen s .pwt m) : exec (.pwronRelease m) s = .next (s.pwronRelease.answer .done) :=
  congrArg Host.Outcome.next (State.writeAt_open h _ _ _)

theorem pwronRelease_level (h : PageOpen s .pwt m) (hp : s.rf R.pwt_PWRON_CFG 0 4 = 0) : ∃ t, exec (.pwronRelease m) s = .next t ∧ t.pwt.pwron = false := by
  refine ⟨_, exec_pwronRelease h, ?_⟩
  rw [State.pwronRelease, if_pos hp, State.answer_pwt, State.setPwron_pwt]

theorem pwronRelease_pulse (h : PageOpen s .pwt m) (hp : s.rf R.pwt_PWRON_CFG 0 4 ≠ 0) : exec (.pwronRelease m) s = .next (s.answer .done) := by
  rw [exec_pwronRelease h, State.pwronRelease, if_neg hp]

theorem exec_pwronPulseEnd (s : State) : exec .pwronPulseEnd s = .next (if s.pwt.pwron && decide (s.rf R.pwt_PWRON_CFG 0 4 ≠ 0) then s.setPwron false 0 else s) := rfl

theorem exec_faillitWrite (v : Word) (h : PageOpen s .pwt m) : exec (.faillitWrite m v) s = .next ((s.faillit m v).answer .done) :=
  congrArg Host.Outcome.next (State.writeAt_open h _ _ _)


end
section
variable {m : Master} {s : State}
/-! ### A tamper (R361) -/

/-- The count, the time and the date of a tamper. -/
def State.tamperStamped (s : State) (loop n : Nat) : State :=
  ((s.wr R.pwt_TAMP_CNT (w32 (n + loop * 2 ^ 16))).wr R.pwt_TAMP_TIME s.pwt.cal.timeWord).wr R.pwt_TAMP_DATE s.pwt.cal.dateWord

/-- A tamper loop that has opened: its state, its flag, PWRON and the interrupt. -/
def State.loopOpened (s : State) (loop : Nat) : State :=
  (({ s with pwt := { s.pwt with loopOk := setAt s.pwt.loopOk loop false } }.pwtFlag (4 + loop)).setPwron false 0).pwtIrq 2

/-- What a tamper notes in the domain once everything secret is zero. -/
def State.tamperNoted (s : State) (loop n : Nat) : State := (s.tamperStamped loop n).loopOpened loop

theorem State.tamperStamped_cnt (s : State) (loop n : Nat) : (s.tamperStamped loop n).rd R.pwt_TAMP_CNT = w32 (n + loop * 2 ^ 16) :=
  ((State.rd_wr_ne _ _ (by decide)).trans (State.rd_wr_ne _ _ (by decide))).trans (State.rd_wr_same _ _ _)

theorem State.loopOpened_pwt (s : State) (loop : Nat) : (s.loopOpened loop).pwt.rs = s.pwt.rs ∧ (s.loopOpened loop).pwt.pwron = false := by
  unfold State.loopOpened
  generalize hu : ({ s with pwt := { s.pwt with loopOk := setAt s.pwt.loopOk loop false } } : State).pwtFlag (4 + loop) = u
  have hrs : u.pwt.rs = s.pwt.rs := by rw [← hu]; rfl
  obtain ⟨w, hw⟩ := (u.setPwron false 0).pwtIrq_pwt 2
  rw [hw, State.setPwron_pwt]
  exact ⟨hrs, rfl⟩

theorem State.loopOpened_rd (s : State) {loop : Nat} (hl : loop < 2) : (s.loopOpened loop).rd R.pwt_TAMP_CNT = s.rd R.pwt_TAMP_CNT ∧
    (s.loopOpened loop).rb R.pwt_FLAGS (4 + loop) = true := by
  unfold State.loopOpened
  generalize hu : ({ s with pwt := { s.pwt with loopOk := setAt s.pwt.loopOk loop false } } : State) = u
  have hrd : u.rd R.pwt_TAMP_CNT = s.rd R.pwt_TAMP_CNT := by rw [← hu]; exact State.rd_congr rfl rfl _
  have past (a : Nat) (h : PastHeader a) : (((u.pwtFlag (4 + loop)).setPwron false 0).pwtIrq 2).rd a = (u.pwtFlag (4 + loop)).rd a :=
    (State.pwtIrq_rd _ 2 h).trans (State.setPwron_rd _ _ _ _)
  exact ⟨(past _ (by decide)).trans ((u.wb_rd_ne _ _ (by decide)).trans hrd), (State.rb_congr (past _ (by decide)) _).trans (u.wb_rb_same _ true (by omega))⟩

theorem State.loopOpened_goes (s : State) (loop : Nat) : ChangesOnly [.regs, .out, .pwt, .pba] s (s.loopOpened loop) :=
  (goes_pwtIrq _ _ rfl (goes_setPwron _ _ _ rfl (goes_pwtFlag _ _ rfl (goes_set_pwt s _ rfl (.refl [.regs, .out, .pwt, .pba] s))))).1

theorem State.tamperStamped_goes (s : State) (loop n : Nat) : ChangesOnly [.regs] s (s.tamperStamped loop n) :=
  (goes_wr _ _ _ rfl (goes_wr _ _ _ rfl (goes_wr _ _ _ rfl (.refl [.regs] s)))).1

theorem State.tamperNoted_pwt (s : State) (loop n : Nat) : (s.tamperNoted loop n).pwt.rs = s.pwt.rs ∧ (s.tamperNoted loop n).pwt.pwron = false := by
  obtain ⟨hr, hp⟩ := (s.tamperStamped loop n).loopOpened_pwt loop
  exact ⟨hr.trans (congrArg Pwt.rs (s.tamperStamped_goes loop n .pwt (by decide))), hp⟩

theorem State.tamperNoted_rd (s : State) {loop n : Nat} (hl : loop < 2) : (s.tamperNoted loop n).rd R.pwt_TAMP_CNT = w32 (n + loop * 2 ^ 16) ∧
    (s.tamperNoted loop n).rb R.pwt_FLAGS (4 + loop) = true := by
  obtain ⟨hr, hf⟩ := (s.tamperStamped loop n).loopOpened_rd hl
  exact ⟨hr.trans (s.tamperStamped_cnt loop n), hf⟩

theorem State.tamperNoted_boot (s : State) (loop n : Nat) : (s.tamperNoted loop n).boot = s.boot :=
  (State.loopOpened_goes _ loop .boot (by decide)).trans (s.tamperStamped_goes loop n .boot (by decide))

/-- The count of tampers after one more. -/
def State.tamperCount (s : State) : Nat := min (s.rf R.pwt_TAMP_CNT 0 16 + 1) 65535

/-- What is to be recorded of a tamper once the module runs again. -/
def State.tamperLate (s : State) (loop n : Nat) : List Late :=
  s.boot.late ++ [.event 0xF801 0x050 (toLe 1 loop ++ toLe 2 n ++ toLe 4 s.pwt.cal.timeWord.toNat ++ toLe 4 s.pwt.cal.dateWord.toNat), Late.event 0xF901 0x180 (toLe 1 1)]

/-- A tamper with its records waiting for the next start. -/
def State.tamperDone (s : State) (loop n : Nat) : State :=
  { s.tamperNoted loop n with boot := { (s.tamperNoted loop n).boot with late := (s.tamperNoted loop n).tamperLate loop n } }

/-- A tamper at an enabled loop: zeroization, the notes, and a warm reset. -/
theorem State.tamper_enabled {loop : Nat} (h : s.rb R.pwt_TAMP_CFG loop = true) :
    s.tamper loop = (s.zeroizeNow.tamperDone loop s.zeroizeNow.tamperCount).resetModule 0xA loop false := by
  unfold State.tamper
  rw [if_neg (by simp [h])]
  generalize s.zeroizeNow = z
  rfl

/-- The Pewter domain's registers of a tamper are kept over a warm reset. -/
theorem gapWord_tamper (b : Bool) (v : Word) : gapWord b true R.pwt_TAMP_CNT v = some v ∧ gapWord b true R.pwt_FLAGS v = some v := by
  constructor <;> unfold gapWord <;> rw [if_neg (by decide), if_neg (by decide), if_pos (by simp [pewterRegs])]

theorem regDefault_tamper (b : Bool) : regDefault b R.pwt_TAMP_CNT = 0 ∧ regDefault b R.pwt_FLAGS = 0 := by
  cases b <;> exact ⟨rfl, rfl⟩

theorem ne_zero_of_tst {w : Word} {i : Nat} (h : tst w i = true) : w ≠ 0 := by
  rintro rfl
  simp [tst] at h

/-- A warm reset after a tamper keeps the root secret, PWRON, the count and the flags. -/
theorem State.resetModule_tamper (u : State) (src : Nat) (hc : u.rd R.pwt_TAMP_CNT ≠ 0) (hf : u.rd R.pwt_FLAGS ≠ 0) :
    (u.resetModule 0xA src false).pwt.rs = u.pwt.rs ∧ (u.resetModule 0xA src false).pwt.pwron = u.pwt.pwron ∧
    (u.resetModule 0xA src false).rd R.pwt_TAMP_CNT = u.rd R.pwt_TAMP_CNT ∧ (u.resetModule 0xA src false).rd R.pwt_FLAGS = u.rd R.pwt_FLAGS ∧
    (u.boot.stage ≠ .off → (u.resetModule 0xA src false).boot.stage = .reset) := by
  unfold State.resetModule
  split
  · next h => exact ⟨rfl, rfl, rfl, rfl, fun hn => absurd h hn⟩
  · have hp := u.enterReset_pwt src (code := 0xA) (by decide)
    rw [hp]
    exact ⟨rfl, rfl, u.enterReset_rd_kept src (by decide) (by decide) (fun v => (gapWord_tamper _ v).1) (by rwa [(regDefault_tamper _).1]),
      u.enterReset_rd_kept src (by decide) (by decide) (fun v => (gapWord_tamper _ v).2) (by rwa [(regDefault_tamper _).2]), fun _ => u.enterReset_stage src (by decide)⟩

/-- What stands before the reset of a tamper. -/
theorem State.tamperDone_keeps (z : State) {loop n : Nat} (hl : loop < 2) : (z.tamperDone loop n).rd R.pwt_TAMP_CNT = w32 (n + loop * 2 ^ 16) ∧
    (z.tamperDone loop n).rb R.pwt_FLAGS (4 + loop) = true ∧ (z.tamperDone loop n).pwt.rs = z.pwt.rs ∧ (z.tamperDone loop n).pwt.pwron = false ∧
    (z.tamperDone loop n).boot.stage = z.boot.stage := by
  obtain ⟨hcnt, hflag⟩ := z.tamperNoted_rd (n := n) hl
  obtain ⟨hrs, hpwron⟩ := z.tamperNoted_pwt loop n
  have hstage : (z.tamperNoted loop n).boot.stage = z.boot.stage := congrArg Boot.stage (z.tamperNoted_boot loop n)
  exact ⟨hcnt, hflag, hrs, hpwron, hstage⟩

theorem tamper_resets {loop : Fin 2} (h : s.rb R.pwt_TAMP_CFG loop.val = true) : ∃ t, exec (.tamper loop) s = .next t ∧ t.pwt.rs = rsZero ∧
    t.rf R.pwt_TAMP_CNT 0 16 = min (s.rf R.pwt_TAMP_CNT 0 16 + 1) 65535 ∧ t.rb R.pwt_FLAGS (4 + loop.val) = true ∧ t.pwt.pwron = false ∧
    (s.boot.stage ≠ .off → t.boot.stage = .reset) ∧ ChangesOnly (touches (.tamper loop)) s t := by
  have hcount : s.zeroizeNow.tamperCount = s.tamperCount := by
    rw [State.tamperCount, State.rf_congr (s.zeroizeNow_pages _ (by decide)), State.tamperCount]
  have hx : exec (.tamper loop) s = .next ((s.zeroizeNow.tamperDone loop.val s.tamperCount).resetModule 0xA loop.val false) :=
    congrArg Host.Outcome.next ((State.tamper_enabled h).trans (by rw [hcount]))
  obtain ⟨hcnt, hflag, hrs, hpwron, hstage⟩ := s.zeroizeNow.tamperDone_keeps (n := s.tamperCount) loop.isLt
  rw [State.zeroizeNow_pwt] at hrs
  rw [State.zeroizeNow_boot] at hstage
  have hfld : fld (w32 (s.tamperCount + loop.val * 2 ^ 16)) 0 16 = s.tamperCount := by
    have := loop.isLt
    simp only [fld, w32, BitVec.toNat_ofNat, State.tamperCount]
    omega
  have hcnt0 : (s.zeroizeNow.tamperDone loop.val s.tamperCount).rd R.pwt_TAMP_CNT ≠ 0 := by
    intro e
    rw [← hcnt, e] at hfld
    have : s.tamperCount ≠ 0 := by unfold State.tamperCount; omega
    exact this hfld.symm
  have hchange := (exec_goes hx).1
  generalize s.zeroizeNow.tamperDone loop.val s.tamperCount = u at *
  obtain ⟨krs, kpwron, kcnt, kflags, kstage⟩ := u.resetModule_tamper loop.val hcnt0 (ne_zero_of_tst hflag)
  exact ⟨_, hx, krs.trans hrs, (State.rf_congr kcnt 0 16).trans ((congrArg (fun w => fld w 0 16) hcnt).trans hfld), (State.rb_congr kflags _).trans hflag, kpwron.trans hpwron,
    fun ho => kstage fun e => ho (hstage.symm.trans e), hchange⟩

end
section
variable {m : Master} {s : State}
/-! ### The mailbox commands of the domain -/

variable {tag : Word} {k : Cmd}

/-- What an accepted ALARM_SET sets: the alarm's words, its use for PWRON and the pulse. -/
def State.alarmStored (s : State) (n : Nat) (at_ ad : Word) (on : Bool) (pulse : Nat) : State :=
  (((s.wr (R.pwt_ALMn_TIME n) (at_ &&& almTimeMask)).wr (R.pwt_ALMn_DATE n) (ad &&& almDateMask)).wb R.pwt_PWRON_CFG (4 + n) on).wf R.pwt_PWRON_CFG 0 4 pulse

theorem State.alarmStored_rd (s : State) {n pulse : Nat} (at_ ad : Word) (on : Bool) (hn : n ≤ 1) (hp : pulse ≤ 15) :
    (s.alarmStored n at_ ad on pulse).rd (R.pwt_ALMn_TIME n) = at_ &&& almTimeMask ∧ (s.alarmStored n at_ ad on pulse).rd (R.pwt_ALMn_DATE n) = ad &&& almDateMask ∧
    (s.alarmStored n at_ ad on pulse).rb R.pwt_PWRON_CFG (4 + n) = on ∧ (s.alarmStored n at_ ad on pulse).rf R.pwt_PWRON_CFG 0 4 = pulse := by
  have ht : R.pwt_ALMn_TIME n ≠ R.pwt_PWRON_CFG ∧ R.pwt_ALMn_DATE n ≠ R.pwt_PWRON_CFG ∧ R.pwt_ALMn_TIME n ≠ R.pwt_ALMn_DATE n := by
    simp only [R.pwt_ALMn_TIME, R.pwt_ALMn_DATE, R.pwt_PWRON_CFG]
    omega
  obtain ⟨htc, hdc, htd⟩ := ht
  unfold State.alarmStored
  refine ⟨?_, ?_, ?_, ?_⟩
  · rw [State.wf_rd_ne _ _ _ _ htc, State.wb_rd_ne _ _ _ htc, State.rd_wr_ne _ _ htd, State.rd_wr_same]
  · rw [State.wf_rd_ne _ _ _ _ hdc, State.wb_rd_ne _ _ _ hdc, State.rd_wr_same]
  · rw [State.wf_rb_ne _ _ _ (by decide) (.inr (by omega)), State.wb_rb_same _ _ _ (by omega)]
  · rw [State.wf_rf_same _ _ _ (by decide)]
    omega

theorem alarmSet_bad (h : Ready s 0x0802 tag k) (hb : 1 < k.par 0 1 ∨ 1 < k.par 1 1 ∨ 15 < k.par 2 1 ∨ k.par 3 1 ≠ 0 ∨ almTimeBad (w32 (k.par 4 4)) = true ∨
    almDateBad (w32 (k.par 8 4)) = true) : exec (.alarmSet tag) s = .next (s.reply k stBadParam [] []) :=
  congrArg Host.Outcome.next ((State.withCmd_ready h _).trans (if_pos hb))

theorem alarmSet_good (h : Ready s 0x0802 tag k) (h0 : k.par 0 1 ≤ 1) (h1 : k.par 1 1 ≤ 1) (h2 : k.par 2 1 ≤ 15) (h3 : k.par 3 1 = 0)
    (ht : almTimeBad (w32 (k.par 4 4)) = false) (hd : almDateBad (w32 (k.par 8 4)) = false) : exec (.alarmSet tag) s = .next ((s.alarmStored (k.par 0 1) (w32 (k.par 4 4))
      (w32 (k.par 8 4)) (decide (k.par 1 1 = 1)) (k.par 2 1)).reply k stOk [] []) :=
  congrArg Host.Outcome.next ((State.withCmd_ready h _).trans (if_neg (by simp [ht, hd, h3]; omega)))

theorem alarmSet_stores (h : Ready s 0x0802 tag k) (h0 : k.par 0 1 ≤ 1) (h1 : k.par 1 1 ≤ 1) (h2 : k.par 2 1 ≤ 15) (h3 : k.par 3 1 = 0)
    (ht : almTimeBad (w32 (k.par 4 4)) = false) (hd : almDateBad (w32 (k.par 8 4)) = false) : ∃ t, exec (.alarmSet tag) s = .next t ∧
    t.rd (R.pwt_ALMn_TIME (k.par 0 1)) = w32 (k.par 4 4) &&& almTimeMask ∧ t.rd (R.pwt_ALMn_DATE (k.par 0 1)) = w32 (k.par 8 4) &&& almDateMask ∧
    t.rb R.pwt_PWRON_CFG (4 + k.par 0 1) = decide (k.par 1 1 = 1) ∧ t.rf R.pwt_PWRON_CFG 0 4 = k.par 2 1 ∧ Ended k t ∧ ChangesOnly (touches (.alarmSet tag)) s t := by
  have hx := alarmSet_good h h0 h1 h2 h3 ht hd
  obtain ⟨htime, hdate, hon, hpulse⟩ := s.alarmStored_rd (w32 (k.par 4 4)) (w32 (k.par 8 4)) (decide (k.par 1 1 = 1)) h0 h2
  have page : R.pwt_ALMn_TIME (k.par 0 1) / 0x1000 ≠ 0x2E ∧ R.pwt_ALMn_DATE (k.par 0 1) / 0x1000 ≠ 0x2E := by
    simp only [R.pwt_ALMn_TIME, R.pwt_ALMn_DATE]
    omega
  exact ⟨_, hx, (State.reply_rd _ _ _ _ _ page.1).trans htime, (State.reply_rd _ _ _ _ _ page.2).trans hdate,
    (State.rb_congr (State.reply_rd _ _ _ _ _ (by decide)) _).trans hon, (State.rf_congr (State.reply_rd _ _ _ _ _ (by decide)) _ _).trans hpulse,
    State.reply_ended _ _ _ _ _, (exec_goes hx).1⟩

theorem exec_faillitSet (h : Ready s 0x0803 tag k) : exec (.faillitSet tag) s = .next (if 1 < k.par 0 1 then s.reply k stBadParam [] []
    else (s.faillit .svc (w32 (0xFA110000 + k.par 0 1))).reply k stOk [] []) :=
  congrArg Host.Outcome.next (State.withCmd_ready h _)

theorem faillit_keyed (s : State) {b : Nat} (h : b ≤ 1) : s.faillit .svc (w32 (0xFA110000 + b)) = s.wr R.pwt_FAILLIT (w32 b) := by
  obtain rfl | rfl : b = 0 ∨ b = 1 := by omega
  · rfl
  · rfl

theorem exec_tamperCfg (h : Ready s 0x0804 tag k) : exec (.tamperCfg tag) s = .next (if 1 < k.par 0 1 ∨ 1 < k.par 1 1 ∨ 2 < k.par 2 1 then s.reply k stBadParam [] []
    else (s.tampCfg (w32 (k.par 0 1 + 2 * k.par 1 1 + 16 * k.par 2 1))).reply k stOk [] []) :=
  congrArg Host.Outcome.next (State.withCmd_ready h _)

/-- The word of a tamper configuration: which loops are fitted, and the pull. -/
theorem tampWord_bits {a b c : Nat} (ha : a ≤ 1) (hb : b ≤ 1) (hc : c ≤ 2) : w32 (a + 2 * b + 16 * c) &&& 0x33 = w32 (a + 2 * b + 16 * c) ∧
    tst (w32 (a + 2 * b + 16 * c)) 0 = decide (a = 1) ∧ tst (w32 (a + 2 * b + 16 * c)) 1 = decide (b = 1) := by
  have all : ∀ a < 2, ∀ b < 2, ∀ c < 3, w32 (a + 2 * b + 16 * c) &&& 0x33 = w32 (a + 2 * b + 16 * c) ∧
      tst (w32 (a + 2 * b + 16 * c)) 0 = decide (a = 1) ∧ tst (w32 (a + 2 * b + 16 * c)) 1 = decide (b = 1) := by decide
  exact all a (by omega) b (by omega) c (by omega)

theorem State.tampCfg_rd (s : State) (v : Word) : (s.tampCfg v).rd R.pwt_TAMP_CFG = v &&& 0x33 := s.rd_wr_same _ _

theorem State.tampCfg_loops {v : Word} (h : s.pwt.loopOk = [false, false]) :
    (s.tampCfg v).pwt.loopOk = [tst v 0 && !s.rb R.pwt_TAMP_CFG 0, tst v 1 && !s.rb R.pwt_TAMP_CFG 1] := by
  simp [State.tampCfg, h, State.rb]

theorem tamperCfg_stores (h : Ready s 0x0804 tag k) (ha : k.par 0 1 ≤ 1) (hb : k.par 1 1 ≤ 1) (hc : k.par 2 1 ≤ 2) : ∃ t, exec (.tamperCfg tag) s = .next t ∧
    t = (s.tampCfg (w32 (k.par 0 1 + 2 * k.par 1 1 + 16 * k.par 2 1))).reply k stOk [] [] ∧ t.rd R.pwt_TAMP_CFG = w32 (k.par 0 1 + 2 * k.par 1 1 + 16 * k.par 2 1) ∧
    (s.pwt.loopOk = [false, false] → t.pwt.loopOk = [decide (k.par 0 1 = 1 ∧ s.rb R.pwt_TAMP_CFG 0 = false), decide (k.par 1 1 = 1 ∧ s.rb R.pwt_TAMP_CFG 1 = false)]) ∧
    Ended k t := by
  obtain ⟨hword, h0, h1⟩ := tampWord_bits ha hb hc
  refine ⟨_, (exec_tamperCfg h).trans (congrArg _ (if_neg (by omega))), rfl, ?_, fun hl => ?_, State.reply_ended _ _ _ _ _⟩
  · rw [State.reply_rd _ _ _ _ _ (by decide), State.tampCfg_rd, hword]
  · rw [State.reply_pwt, State.tampCfg_loops hl, h0, h1]
    simp

end

/-- Settles O49, command by command. -/
theorem pewterKeepsTimeAndWatch : Obligations.PewterKeepsTimeAndWatch := by
  unfold Obligations.PewterKeepsTimeAndWatch
  refine ⟨fun mv c s h => calendarSecond_counts mv c h, fun mv c s h => calendarSecond_stopped mv c h, oscFail_flagged, fun s => ⟨_, rfl, rfl, rfl⟩, fun mv s => ⟨?_, ?_, ?_⟩,
    fun mv s => ⟨?_, ?_, ?_⟩, fun mv s => ⟨?_, ?_⟩, vbakSwitchover_off, ?_, ?_, ?_, fun s => rtcLoad_none, ?_, ?_, ?_, ?_, ?_, ?_, ?_, ?_, ?_, ?_, ?_, ?_⟩
  · intro h; rw [exec_sealTrip, if_pos h]
  · exact fun h => ⟨_, sealTrip_breaks h, rfl, rfl⟩
  · exact sealTrip_free
  · exact fun h => ⟨_, exec_vbakLow mv s, State.setVbak_good h, by rw [State.setVbak_good h]⟩
  · exact fun h hl => ⟨_, exec_vbakLow mv s, State.setVbak_still h hl, by rw [State.setVbak_still h hl]⟩
  · intro h hl
    obtain ⟨hlow, hv, hf⟩ := State.setVbak_below (s := s) h
    exact ⟨_, exec_vbakLow mv s, hlow, hv, hf hl, (exec_goes (exec_vbakLow mv s)).1⟩
  · exact fun h => ⟨_, exec_vbakRestored mv s, State.setVbak_good h, by rw [State.setVbak_good h]⟩
  · intro h
    obtain ⟨hlow, hv, hf⟩ := State.setVbak_below (s := s) h
    exact ⟨_, exec_vbakRestored mv s, hlow, hv, hf, (exec_goes (exec_vbakRestored mv s)).1⟩
  · intro m v s h hv
    rw [exec_rtcCommit h, State.rtcCtrl_idle hv]
  · intro m v s h hv
    refine ⟨fun hc => ⟨_, exec_rtcCommit h, by rw [State.rtcCtrl_busy hv hc], by rw [State.rtcCtrl_busy hv hc, State.answer_pwt, State.err_pwt]⟩,
      fun hc hk => ⟨_, exec_rtcCommit h, by rw [State.rtcCtrl_commits hv hc, State.rtcCommit_good hk],
        by rw [State.rtcCtrl_commits hv hc, State.rtcCommit_good hk]; rfl⟩, fun hc hk => ?_⟩
    obtain ⟨hp, hb, hf, hraw⟩ := s.commitFailed_flags (rtcCheck_le (s.rd R.pwt_SH_TIME) (s.rd R.pwt_SH_DATE))
    have hx : exec (.rtcCommit m v) s = .next ((s.commitFailed (rtcCheck (s.rd R.pwt_SH_TIME) (s.rd R.pwt_SH_DATE))).answer .done) := by
      rw [exec_rtcCommit h, State.rtcCtrl_commits hv hc, State.rtcCommit_bad hk]
    exact ⟨_, hx, (State.answer_pwt _ _).trans hp, hb, hf, hraw⟩
  · intro a d s ho hc
    have hp := State.rtcLoad_pwt hc
    exact ⟨_, exec_rtcLoad ho, by rw [hp]; rfl, by rw [hp]; rfl, by rw [hp]; rfl, by rw [hp]; rfl, (exec_goes (exec_rtcLoad ho)).1⟩
  · intro m n s h
    exact ⟨_, exec_rtcTimeRead n h, rfl, s.rtcLatch_date n, s.rtcLatch_sub n, s.rtcLatch_regsOnly n, (exec_goes (exec_rtcTimeRead n h)).1⟩
  · exact fun m s h => ⟨fun hb => ⟨_, pwronAssert_blocked h hb, rfl, by rw [State.answer_pwt, State.err_pwt]⟩, pwronAssert_free h⟩
  · exact fun m s h => ⟨pwronRelease_level h, fun hp => ⟨_, pwronRelease_pulse h hp, rfl, rfl⟩⟩
  · refine fun s => ⟨fun hp hc => ⟨_, exec_pwronPulseEnd s, ?_⟩, fun h => ?_⟩
    · rw [if_pos (by simp [hp, hc]), State.setPwron_pwt]
    · rw [exec_pwronPulseEnd, if_neg (by rcases h with h | h <;> simp [h])]
  · intro m v s h
    refine ⟨fun hk => ⟨_, exec_faillitWrite v h, by rw [State.faillit, if_pos hk], ?_, rfl⟩, fun hk => ⟨_, exec_faillitWrite v h, by rw [State.faillit, if_neg hk], ?_⟩⟩
    · rw [State.faillit, if_pos hk, State.rd_answer, State.rd_wr_same]
    · rw [State.faillit, if_neg hk, State.rd_answer, State.err_rd_past _ _ _ _ _ (by decide)]
  · intro l s
    refine ⟨fun h => congrArg Host.Outcome.next ?_, tamper_resets⟩
    rw [State.tamper, if_pos (by simp [h])]
  · intro tag k s h
    refine ⟨fun hc => ⟨_, exec_rtcSet h, if_pos hc, by rw [if_pos hc]; exact State.reply_ended _ _ _ _ _⟩, fun hc => ?_, fun hc => ?_⟩
    · exact (rtcSet_stages h hc rfl rfl).1
    · exact (rtcSet_stages h hc rfl rfl).2
  · exact fun tag n k s h => ⟨_, exec_rtcGet n h, rfl, State.reply_ended _ _ _ _ _, (State.reply_rd _ _ _ _ _ (by decide)).trans (s.rtcLatch_date n)⟩
  · exact fun tag k s h h0 h1 h2 h3 ht hd => alarmSet_stores h h0 h1 h2 h3 ht hd
  · exact fun tag k s h hb => ⟨_, alarmSet_bad h hb, rfl, State.reply_ended _ _ _ _ _⟩
  · intro tag k s h
    refine ⟨fun hb => ⟨_, (exec_faillitSet h).trans (congrArg _ (if_pos hb)), rfl, State.reply_ended _ _ _ _ _⟩, fun hb => ⟨_, (exec_faillitSet h).trans (congrArg _ (if_neg (by omega))), ?_⟩⟩
    rw [faillit_keyed s hb]
    exact ⟨rfl, (State.reply_rd _ _ _ _ _ (by decide)).trans (s.rd_wr_same _ _), State.reply_ended _ _ _ _ _⟩
  · exact fun tag k s h => ⟨fun hb => ⟨_, (exec_tamperCfg h).trans (congrArg _ (if_pos hb)), rfl, State.reply_ended _ _ _ _ _⟩, tamperCfg_stores h⟩

end Sys2Proof.Machine
end

section
/-! PROOFS. Metering: the cycles' clock, coefficient sets, self-checks, the balance and the journal. -/

namespace Sys2Proof.Machine

open Sys2Proof

/-! ### The clock of the metering cycles over a latch -/

/-- The boundaries that Scales counts from: the last one, the last real one, and the number of virtual ones since. -/
def State.meterClock (s : State) : DWord × DWord × Nat := (s.scl.lastB, s.scl.realB, s.scl.virt)

/-- A step that keeps the boundaries. -/
structure ClockKept (s t : State) : Prop where
  clock : t.meterClock = s.meterClock

theorem ClockKept.of_scl {s t : State} (h : t.scl = s.scl) : ClockKept s t := ⟨by rw [State.meterClock, h, State.meterClock]⟩

theorem ClockKept.set {s t : State} (hl : t.scl.lastB = s.scl.lastB) (hr : t.scl.realB = s.scl.realB) (hv : t.scl.virt = s.scl.virt) : ClockKept s t :=
  ⟨by rw [State.meterClock, hl, hr, hv, State.meterClock]⟩

theorem ClockKept.refl (s : State) : ClockKept s s := ⟨rfl⟩

theorem ClockKept.trans {s t u : State} (h : ClockKept s t) (h' : ClockKept t u) : ClockKept s u := ⟨h'.clock.trans h.clock⟩

theorem ClockKept.after {s t u : State} (h' : ClockKept t u) (h : ClockKept s t) : ClockKept s u := h.trans h'

theorem ClockKept.ite {s t u : State} {c : Prop} [Decidable c] (ht : ClockKept s t) (hu : ClockKept s u) : ClockKept s (if c then t else u) := by
  split <;> assumption

theorem ClockKept.foldl {α : Type} {f : State → α → State} (hf : ∀ t x, ClockKept t (f t x)) (l : List α) (s : State) : ClockKept s (l.foldl f s) := by
  induction l generalizing s with
  | nil => exact .refl s
  | cons x l ih => exact (ih _).after (hf s x)

section
variable (s : State)

theorem State.meterFault_clock (kind chan : Nat) : ClockKept s (s.meterFault kind chan) :=
  .of_scl ((goes_meterFault s kind chan rfl (.refl [.regs, .out, .mbx, .ldg, .pba] s)).1 .scl (by decide))

theorem State.nvsWrite_clock (w : NvsWriter) (a : Nat) (b : Bytes) : ClockKept s (s.nvsWrite w a b) :=
  .of_scl ((goes_nvsWrite s w a b rfl (.refl [.regs, .out, .nvs, .pba] s)).1 .scl (by decide))

theorem State.irq_clock (b : Blk) (i : Nat) : ClockKept s (s.irq b i) := .of_scl (s.irq_scl b i)

theorem State.wr_clock (a : Nat) (v : Word) : ClockKept s (s.wr a v) := .of_scl (s.wr_scl a v)

theorem State.reply_clock (c : Cmd) (st : Nat) (p d : Bytes) : ClockKept s (s.reply c st p d) := .of_scl (s.reply_scl c st p d)

theorem State.accumulate_clock (chans : List ChanIn) (t : Nat) : ClockKept s (s.accumulate chans t) := ⟨rfl⟩

theorem State.noteClip_clock (chans : List ChanIn) : ClockKept s (s.noteClip chans) := by
  unfold State.noteClip
  extract_lets m old scl sum u
  have hu : ClockKept s u := (State.irq_clock _ _ _).after ((State.wr_clock _ _ _).after (.set rfl rfl rfl))
  exact .ite (.refl s) (hu.trans (.foldl (fun t c => .ite (t.meterFault_clock 2 c) (.refl t)) _ u))

theorem State.saveFailed_clock : ClockKept s s.saveFailed := (State.wr_clock _ _ _).after ((State.wr_clock _ _ _).after (s.nvsWrite_clock _ _ _))

theorem State.saveTotals_clock (slot kind base ns : Nat) (acc : List Nat) : ClockKept s (s.saveTotals slot kind base ns acc) := by
  unfold State.saveTotals
  extract_lets n b t
  have ht : ClockKept s t := (State.wr_clock _ _ _).after (s.nvsWrite_clock _ _ _)
  exact ht.trans (.set rfl rfl rfl)

theorem State.saveLatch_clock (record : Bytes) : ClockKept s (s.saveLatch record) := by
  unfold State.saveLatch
  extract_lets t scl u
  have hu : ClockKept s u := (s.nvsWrite_clock _ _ _).trans (.set rfl rfl rfl)
  exact .ite s.saveFailed_clock (hu.trans (u.saveTotals_clock _ _ _ _ _))

theorem State.latchOut_clock (record : Bytes) : ClockKept s (s.latchOut record) := by
  unfold State.latchOut
  extract_lets seq t u scl v
  have ht : ClockKept s t := .ite ((State.meterFault_clock _ _ _).after (s.irq_clock _ _)) (.refl s)
  have hu : ClockKept t u := .of_scl ((goes_sramWrite t _ _ rfl (.refl [.mem] t)).1 .scl (by decide))
  have hv : ClockKept u v := .ite (.refl u) (.ite (.set rfl rfl rfl) (.of_scl ((goes_hwSubmit u _ rfl (.refl [.regs, .out, .mkt, .que, .pba] u)).1 .scl (by decide))))
  exact (v.irq_clock _ _).after (hv.after (hu.after ht))

theorem State.takeSet_clock (ms : List Nat) : ClockKept s (s.takeSet ms) := by
  unfold State.takeSet
  extract_lets q t scl sum u v scl' w
  have ht : ClockKept s t := (State.wr_clock _ _ _).after (s.wr_clock _ _)
  have hu : ClockKept s u := ht.trans (.set rfl rfl rfl)
  have hv : ClockKept s v := hu.trans (u.irq_clock _ _)
  have hw : ClockKept s w := hv.trans (.set rfl rfl rfl)
  clear_value w v
  split
  · exact hv
  · split
    · exact (State.reply_clock _ _ _ _ _).after hw
    · exact hw

theorem State.draw_clock (n : Nat) : ClockKept s (s.draw n) := .of_scl (s.draw_scl n)

theorem balFeeds_clock (f : State → Nat → Word) : ClockKept s ((List.range 3).foldl (fun t x => t.wr (R.scl_BAL_FEEDx x) (f t x)) s) :=
  .foldl (fun t _ => t.wr_clock _ _) _ s

theorem State.balCapture_clock (time : Nat) : ClockKept s (s.balCapture time) := by
  unfold State.balCapture
  extract_lets r rough scl t p prev scl' u b mir on feed v bad w st scl''
  have ht : ClockKept s t := ⟨rfl⟩
  have hu : ClockKept s u := ht.trans (.set rfl rfl rfl)
  have hv : ClockKept s v := (State.wr_clock _ _ _).after ((u.wr_clock _ _).after hu)
  have hw : ClockKept v w := by
    unfold w
    split
    · exact balFeeds_clock v _
    · exact (State.draw_clock _ 3).after (balFeeds_clock v fun t x => Config.freeWord (t.free + x))
  exact .ite ht (.ite hu ((State.wr_clock _ _ _).after ((hv.trans hw).trans (.set rfl rfl rfl))))

theorem State.gapNote_clock : ClockKept s s.gapNote := by
  unfold State.gapNote
  split
  · exact .refl s
  · exact (ClockKept.of_scl ((goes_fwEvent _ _ _ _ rfl (.refl [.regs, .out, .mbx, .ldg, .pba] _)).1 .scl (by decide))).after (.set rfl rfl rfl)

theorem State.latch_clock (sig : List (List (Int × Int))) (ms : List Nat) (c : DWord) (part : Bool) : ClockKept s (s.latch sig ms c part) := by
  unfold State.latch
  extract_lets coef time t record u
  have ht : ClockKept s t := ⟨rfl⟩
  have hu : ClockKept t u := .ite (t.takeSet_clock ms) (.refl t)
  exact (State.gapNote_clock _).after ((State.balCapture_clock _ _).after ((State.saveLatch_clock _ _).after ((u.latchOut_clock _).after (hu.after ht))))

end

/-! ### Boundaries (R312, R313) -/

/-- What the end of a cycle of `t` ns sets, before a latch. -/
def State.cycleEnded (s : State) (ms : List Nat) (t : Nat) (c : DWord) (virt : Bool) : State :=
  let k := s.scl
  let m := k.sum
  { s with scl := { k with
    seg := s.segments ms, prevT := t, lastT := t, lastB := c, realB := if virt then k.realB else c, virt := if virt then k.virt + 1 else 0,
    sum := { m with cycles := m.cycles + 1, cycT := m.cycT + t, lost := m.lost || virt } } }

/-- The cycle's values are accumulated, and the cycle ends. -/
def State.cycleCounted (s : State) (chans : List ChanIn) (c : DWord) (virt : Bool) : State :=
  ((s.accumulate chans ((c - s.scl.lastB).toNat * 4)).noteClip chans).cycleEnded (meanSqs (s.signals chans ((c - s.scl.lastB).toNat * 4))) ((c - s.scl.lastB).toNat * 4) c virt

theorem State.boundary_eq (s : State) (chans : List ChanIn) (c : DWord) (virt : Bool) : s.boundary chans c virt = if (c - s.scl.lastB).toNat * 4 < 7500000 then s
    else if (s.cycleCounted chans c virt).rf R.scl_NCYC 0 13 ≤ (s.cycleCounted chans c virt).scl.sum.cycles then
      (s.cycleCounted chans c virt).latch (s.signals chans ((c - s.scl.lastB).toNat * 4)) (meanSqs (s.signals chans ((c - s.scl.lastB).toNat * 4))) c false
    else s.cycleCounted chans c virt := rfl

theorem State.boundary_early {s : State} {c : DWord} (chans : List ChanIn) (virt : Bool) (h : (c - s.scl.lastB).toNat * 4 < 7500000) : s.boundary chans c virt = s := by
  rw [State.boundary_eq, if_pos h]

theorem State.cycleEnded_clock (s : State) (ms : List Nat) (t : Nat) (c : DWord) (virt : Bool) :
    (s.cycleEnded ms t c virt).meterClock = (c, if virt then s.scl.realB else c, if virt then s.scl.virt + 1 else 0) := rfl

/-- A boundary that is one moves the clock: a real one starts it anew, a virtual one counts. -/
theorem State.boundary_clock {s : State} {c : DWord} (chans : List ChanIn) (virt : Bool) (h : 7500000 ≤ (c - s.scl.lastB).toNat * 4) :
    (s.boundary chans c virt).meterClock = (c, if virt then s.scl.realB else c, if virt then s.scl.virt + 1 else 0) := by
  have hu : ClockKept s ((s.accumulate chans ((c - s.scl.lastB).toNat * 4)).noteClip chans) := (s.accumulate_clock _ _).trans (State.noteClip_clock _ chans)
  have hv : (s.cycleCounted chans c virt).meterClock = (c, if virt then s.scl.realB else c, if virt then s.scl.virt + 1 else 0) := by
    have hr := congrArg (fun p => p.2.1) hu.clock
    have hn := congrArg (fun p => p.2.2) hu.clock
    dsimp only [State.meterClock] at hr hn
    rw [State.cycleCounted, State.cycleEnded_clock, hr, hn]
  rw [State.boundary_eq, if_neg (by omega)]
  split
  · exact (State.latch_clock _ _ _ _ _).clock.trans hv
  · exact hv
/-! ### Crossings (R312) -/

section
variable {s : State}

theorem State.boundary_cnt (s : State) (chans : List ChanIn) (c : DWord) (virt : Bool) : (s.boundary chans c virt).cnt = s.cnt :=
  (goes_boundary s chans c virt rfl (.refl [.regs, .out, .free, .mbx, .mkt, .que, .ldg, .mem, .nvs, .scl, .nrg, .pba] s)).1 .cnt (by decide)

theorem State.moveRef_cnt (s : State) (x : Nat) : (s.moveRef x).cnt = s.cnt := (goes_moveRef s x rfl (.refl [.regs, .out, .scl, .pba] s)).1 .cnt (by decide)

theorem State.crossing_cnt (s : State) (x volts : Nat) (c : DWord) : (s.crossing x volts c).cnt = s.cnt := (goes_crossing s x volts c rfl (.refl [.scl] s)).1 .cnt (by decide)

/-- What a crossing that was noted leads to: a boundary where it is the reference's, or the reference moves to it. -/
def State.crossed (s : State) (was : Bool) (x : Nat) (chans : List ChanIn) (c : DWord) : State :=
  let good := s.scl.ok.getD x false
  if s.scl.free then
    if good then ({ s with scl := { s.scl with free := false } }.moveRef (if s.alive s.refPref c then s.refPref else x)).boundary chans c false else s
  else if x = s.scl.ref then (if good || was then s.boundary chans c false else s)
  else if x = s.refPref && decide (64 ≤ s.scl.run.getD x 0) then (s.moveRef x).boundary chans c false
  else if !s.alive s.scl.ref c && s.nextRef c = some x then (s.moveRef x).boundary chans c false
  else s

theorem State.cycleBoundary_runs (h : s.runs .scl = true) (x volts : Nat) (chans : List ChanIn) (c : DWord) :
    s.cycleBoundary x volts chans c = ((s.at c).crossing x volts c).crossed (s.scl.ok.getD x false) x chans c := if_neg (by simp [h])

theorem State.crossed_cnt (s : State) (was : Bool) (x : Nat) (chans : List ChanIn) (c : DWord) : (s.crossed was x chans c).cnt = s.cnt := by
  have hmoved (t : State) (y : Nat) : ((t.moveRef y).boundary chans c false).cnt = t.cnt := (State.boundary_cnt _ _ _ _).trans (t.moveRef_cnt y)
  unfold State.crossed
  extract_lets good
  split
  · split
    · exact (hmoved _ _).trans rfl
    · rfl
  · split
    · split
      · exact s.boundary_cnt _ _ _
      · rfl
    · split
      · exact hmoved _ _
      · split
        · exact hmoved _ _
        · rfl

/-- A crossing of another phase, with the reference alive, is noted and changes no boundary. -/
theorem State.crossed_other {x : Nat} {c : DWord} (was : Bool) (chans : List ChanIn) (hf : s.scl.free = false) (hr : x ≠ s.scl.ref) (hp : x ≠ s.refPref)
    (ha : s.alive s.scl.ref c = true) : s.crossed was x chans c = s := by
  unfold State.crossed
  extract_lets good
  rw [hf, if_neg Bool.false_ne_true, if_neg hr, if_neg (by simp [hp]), if_neg (by simp [ha])]

theorem State.crossing_alive (s : State) {x y : Nat} (volts : Nat) (c d : DWord) (h : y ≠ x) : (s.crossing x volts c).alive y d = s.alive y d := by
  simp only [State.alive, State.crossing, setAt, List.getD_eq_getElem?_getD, List.getElem?_set_ne h.symm]

theorem cycleBoundary_moves {x : Fin 3} {v : Nat} {ch : List ChanIn} {c : DWord} (h : s.runs .scl = true) (hx : x.val < s.scl.xing.length) :
    ∃ t, exec (.cycleBoundary x v ch c) s = .next t ∧ t.cnt = (s.at c).cnt ∧
    (x.val ≠ s.scl.ref → x.val ≠ s.refPref → s.scl.free = false → s.alive s.scl.ref c = true →
      t.scl.xing.getD x.val none = some c ∧ t.scl.acc = s.scl.acc ∧ t.scl.lastB = s.scl.lastB) ∧ ChangesOnly (touches (.cycleBoundary x v ch c)) s t := by
  have he : exec (.cycleBoundary x v ch c) s = .next (((s.at c).crossing x.val v c).crossed (s.scl.ok.getD x.val false) x.val ch c) :=
    congrArg Host.Outcome.next (State.cycleBoundary_runs h _ _ _ _)
  refine ⟨_, he, (State.crossed_cnt _ _ _ _ _).trans (State.crossing_cnt _ _ _ _), fun hr hp hf ha => ?_, (exec_goes he).1⟩
  have ha' : ((s.at c).crossing x.val v c).alive s.scl.ref c = true := (State.crossing_alive (s.at c) v c c hr.symm).trans ha
  rw [State.crossed_other (s := (s.at c).crossing x.val v c) _ _ hf hr hp ha']
  refine ⟨?_, rfl, rfl⟩
  simp [State.crossing, setAt, hx]

/-! ### Free run (R313) -/

theorem exec_lineLost (c : DWord) (s : State) : exec (.lineLost c) s = .next (
    if !s.runs .scl || s.scl.free || (List.range 3).any (fun x => s.alive x c) || decide ((c - s.scl.lastB).toNat * 4 < 2 * s.nominal) then s
    else ((({ s.at c with scl := { s.scl with free := true, realB := s.scl.lastB, virt := 1 } } : State).bumpSat R.scl_LINE_LOST_CNT 1).irq .scl 1).meterFault 1 s.scl.ref) := rfl

/-- The line is lost: the block runs free from the last boundary. -/
def State.runsFree (s : State) (c : DWord) : State := { s.at c with scl := { s.scl with free := true, realB := s.scl.lastB, virt := 1 } }

theorem lineLost_runsFree {c : DWord} (h : s.runs .scl = true) (hf : s.scl.free = false) (ha : ∀ x, x < 3 → s.alive x c = false)
    (ht : 2 * s.nominal ≤ (c - s.scl.lastB).toNat * 4) : ∃ t, exec (.lineLost c) s = .next t ∧ t.scl.free = true ∧ t.cnt = (s.at c).cnt ∧ t.scl.realB = s.scl.lastB ∧
      t.scl.virt = 1 ∧ t.rd R.scl_LINE_LOST_CNT = satAdd (s.rd R.scl_LINE_LOST_CNT) 1 ∧ ChangesOnly (touches (.lineLost c)) s t := by
  have hany : (List.range 3).any (fun x => s.alive x c) = false := by
    rw [List.any_eq_false]
    exact fun x hx => by simp [ha x (List.mem_range.mp hx)]
  have hx : exec (.lineLost c) s = .next ((((s.runsFree c).bumpSat R.scl_LINE_LOST_CNT 1).irq .scl 1).meterFault 1 s.scl.ref) := by
    rw [exec_lineLost, if_neg (by simp only [h, hf, hany, Bool.not_true, Bool.false_or, decide_eq_true_eq]; omega)]
    rfl
  have hchange := (exec_goes hx).1
  have hkept := (goes_meterFault _ 1 s.scl.ref rfl (goes_irq _ .scl 1 rfl (goes_bumpSat _ R.scl_LINE_LOST_CNT 1 rfl (.refl [.regs, .out, .mbx, .ldg, .pba] (s.runsFree c))))).1
  have hscl : ((((s.runsFree c).bumpSat R.scl_LINE_LOST_CNT 1).irq .scl 1).meterFault 1 s.scl.ref).scl = (s.runsFree c).scl := hkept .scl (by decide)
  refine ⟨_, hx, by rw [hscl]; rfl, hkept .cnt (by decide), by rw [hscl]; rfl, by rw [hscl]; rfl, ?_, hchange⟩
  exact (State.fwEvent_pages _ _ _ _ _ (by decide)).trans ((State.irq_rd_past _ _ _ (by decide)).trans (State.bumpSat_rd_same _ _ 1))

theorem exec_virtualBoundary {ch : List ChanIn} (h : s.runs .scl = true) (hf : s.scl.free = true) : exec (.virtualBoundary ch) s =
    .next ((s.at (s.scl.realB + BitVec.ofNat 64 ((s.scl.virt + 1) * s.nominal / 4))).boundary ch (s.scl.realB + BitVec.ofNat 64 ((s.scl.virt + 1) * s.nominal / 4)) true) :=
  congrArg Host.Outcome.next (if_neg (by simp [h, hf]))

theorem virtualBoundary_counts {c : DWord} (ch : List ChanIn) (h : 7500000 ≤ (c - s.scl.lastB).toNat * 4) : ((s.at c).boundary ch c true).scl.lastB = c ∧
    ((s.at c).boundary ch c true).scl.virt = s.scl.virt + 1 ∧ ((s.at c).boundary ch c true).scl.realB = s.scl.realB := by
  have hclock := State.boundary_clock (s := s.at c) ch true h
  exact ⟨congrArg (fun p => p.1) hclock, congrArg (fun p => p.2.2) hclock, congrArg (fun p => p.2.1) hclock⟩

theorem virtualBoundary_none {ch : List ChanIn} (h : s.runs .scl = false ∨ s.scl.free = false) : exec (.virtualBoundary ch) s = .next s :=
  congrArg Host.Outcome.next (if_pos (by rcases h with h | h <;> simp [h]))

/-! ### Coefficient sets (R318, R319) -/

variable {m : Master}

theorem exec_coefCommit (c : DWord) (h : PageOpen s .scl m) : exec (.coefCommit m c) s = .next (((s.at c).coefCommit m c).answer .done) :=
  congrArg Host.Outcome.next (State.writeAt_open h _ _ _)

theorem State.coefCommit_bad {c : DWord} (hp : s.scl.pend = none) (hb : s.commitBad = true) : (s.at c).coefCommit m c = (s.at c).err .scl eBadValue 0x64 m := by
  have hb' : (s.at c).commitBad = true := hb
  simp [State.coefCommit, hp, hb']

theorem State.coefCommit_good {c : DWord} (hp : s.scl.pend = none) (hb : s.commitBad = false) :
    (s.at c).coefCommit m c = { s.at c with scl := { s.scl with pend := some c } } := by
  have hb' : (s.at c).commitBad = false := hb
  simp [State.coefCommit, hp, hb']

theorem State.coefCancel_drops (s : State) : s.coefCancel.scl.pend = none ∧ s.coefCancel.scl.coefTag = none := by
  unfold State.coefCancel
  extract_lets scl t scl' u
  have hu : u.scl.pend = none ∧ u.scl.coefTag = none := ⟨rfl, rfl⟩
  split
  · next h => exact ⟨rfl, h⟩
  · clear_value u
    split
    · rw [State.reply_scl]
      exact hu
    · exact hu

theorem exec_coefCancel (h : PageOpen s .scl m) : exec (.coefCancel m) s = .next (s.coefCancel.answer .done) := congrArg Host.Outcome.next (State.writeAt_open h _ _ _)

variable {tag : Word} {k : Cmd}

/-- The set that a COEF_LOAD carries. -/
def loadedSet (k : Cmd) : List (List Word) := (List.range 12).map fun q => (List.range 32).map fun j => leWord k.bytes (128 * q + 4 * j) &&& coefMask j

/-- The shadow that a COEF_LOAD writes. -/
def State.setLoaded (s : State) (k : Cmd) : State := ({ s with scl := { s.scl with sh := loadedSet k } } : State).wf R.scl_SH_NCYC 0 13 (k.par 0 2)

theorem exec_coefLoad (c : DWord) (h : Ready s 0x0700 tag k) : exec (.coefLoad tag c) s = .next (if k.e.length ≠ 1536 then (s.at c).reply k stBadLength [] []
    else if s.inReset .scl || s.scl.pend.isSome then (s.at c).reply k stBusy [] []
    else if ((s.at c).setLoaded k).commitBad || decide (4096 < k.par 0 2) then ((s.at c).setLoaded k).reply k stBadParam [] []
    else ({ (s.at c).setLoaded k with scl := { ((s.at c).setLoaded k).scl with pend := some c, coefTag := some tag } } : State).defer k) :=
  congrArg Host.Outcome.next (State.withCmd_ready h _)

theorem State.setLoaded_ncyc (s : State) (h : k.par 0 2 ≤ 4096) : (s.setLoaded k).rf R.scl_SH_NCYC 0 13 = k.par 0 2 := by
  rw [State.setLoaded, State.wf_rf_same _ _ _ (by decide)]
  omega

theorem coefLoad_waits (c : DWord) (h : Ready s 0x0700 tag k) (hl : k.e.length = 1536) (hr : s.inReset .scl = false) (hp : s.scl.pend = none) (h1 : 1 ≤ k.par 0 2)
    (h2 : k.par 0 2 ≤ 4096) (hb : ((List.range 12).any fun q => blockBad (loadedSet k) q) = false) : ∃ t, exec (.coefLoad tag c) s = .next t ∧ t.scl.sh = loadedSet k ∧
      t.rf R.scl_SH_NCYC 0 13 = k.par 0 2 ∧ t.scl.pend = some c ∧ t.scl.coefTag = some tag := by
  have hbad : ((s.at c).setLoaded k).commitBad = false := by
    have hany : ((List.range 12).any fun q => blockBad ((s.at c).setLoaded k).scl.sh q) = false := hb
    rw [State.commitBad, State.setLoaded_ncyc _ h2, hany]
    simp
    omega
  have hx : exec (.coefLoad tag c) s =
      .next (({ (s.at c).setLoaded k with scl := { ((s.at c).setLoaded k).scl with pend := some c, coefTag := some tag } } : State).defer k) := by
    rw [exec_coefLoad c h, if_neg (by simp [hl]), if_neg (by simp [hr, hp]), if_neg (by simp [hbad]; omega)]
  exact ⟨_, hx, rfl, State.setLoaded_ncyc (s.at c) h2, rfl, rfl⟩

end
/-! ### Little-endian numbers -/

theorem leFirst_lt (n : Nat) (l : Bytes) : leFirst n l < 256 ^ n := by
  induction n generalizing l with
  | zero => simp [leFirst]
  | succ n ih =>
    cases l with
    | nil => exact Nat.pow_pos (by decide)
    | cons x r =>
      have hr := ih r
      have hx : x.toNat < 256 := x.isLt
      rw [leFirst, Nat.pow_succ]
      omega

theorem Cmd.par_lt (k : Cmd) (i n : Nat) : k.par i n < 256 ^ n := leFirst_lt n _

/-! ### Self-checks (R326) -/

section
variable {s : State} {m : Master} {tag : Word} {k : Cmd}

theorem exec_meterCheckGo (h : PageOpen s .scl m) : exec (.meterCheckGo m) s = .next ((s.checkGo m).answer .done) :=
  congrArg Host.Outcome.next (State.writeAt_open h _ _ _)

/-- A check is asked for. -/
def State.checkAsked (s : State) : State :=
  ({ s with scl := { s.scl with check := .asked } } : State).wr R.scl_CHECK_STAT (w32 (1 + s.rf R.scl_CHECK_CFG 0 4 * 2 ^ 8))

theorem State.checkGo_idle (h : s.scl.check = .idle) : s.checkGo m = s.checkAsked := if_neg (by simp [h])

theorem State.checkAsked_word (s : State) : s.checkAsked.rf R.scl_CHECK_STAT 0 1 = 1 ∧ s.checkAsked.rf R.scl_CHECK_STAT 8 4 = s.rf R.scl_CHECK_CFG 0 4 := by
  have hlt : s.rf R.scl_CHECK_CFG 0 4 < 16 := fld_lt _ 0 4
  have hrd : s.checkAsked.rd R.scl_CHECK_STAT = w32 (1 + s.rf R.scl_CHECK_CFG 0 4 * 2 ^ 8) := State.rd_wr_same _ _ _
  rw [State.rf, State.rf, hrd]
  simp only [fld, w32, BitVec.toNat_ofNat]
  omega

theorem exec_checkStart (s : State) : exec .checkStart s = .next (if s.inReset .scl || decide (s.scl.check ≠ .asked) then s
    else { s with scl := { s.scl with check := .running, sum := { s.scl.sum with check := true } } }) := rfl

/-- What a check that has ended leaves in CHECK_STAT, by what failed. -/
def checkWord (fail refFail low : Bool) (chan : Nat) : Word := w32 (2 + b2n fail * 4 + b2n refFail * 8 + b2n low * 16 + chan * 2 ^ 8)

theorem checkWord_fields (fail refFail low : Bool) {chan : Nat} (h : chan < 16) : fld (checkWord fail refFail low chan) 0 2 = 2 ∧ fld (checkWord fail refFail low chan) 8 4 = chan ∧
    tst (checkWord fail refFail low chan) 3 = refFail := by
  have all : ∀ chan < 16, ∀ fail refFail low : Bool, fld (checkWord fail refFail low chan) 0 2 = 2 ∧ fld (checkWord fail refFail low chan) 8 4 = chan ∧
      tst (checkWord fail refFail low chan) 3 = refFail := by decide
  exact all chan h fail refFail low

/-- The end of a check: its word, its interrupts and its reply. -/
def State.meterCheckNoted (s : State) (word : Word) (failed : Bool) (chan : Nat) : State :=
  (if failed then (((s.wr R.scl_CHECK_STAT word).irq .scl 5).irq .scl 6).meterFault 3 chan else (s.wr R.scl_CHECK_STAT word).irq .scl 5).checkReply stOk

theorem State.checkEnd_noted (s : State) (x : CheckMeas) : ∃ (u : State) (fail low : Bool), u.scl.check = .idle ∧
    s.checkEnd x = u.meterCheckNoted (checkWord fail (decide (s.rf R.scl_CHECK_CFG 16 16 < x.refPpm.natAbs)) low (s.rf R.scl_CHECK_STAT 8 4))
      (fail || decide (s.rf R.scl_CHECK_CFG 16 16 < x.refPpm.natAbs)) (s.rf R.scl_CHECK_STAT 8 4) := by
  refine ⟨_, _, _, ?_, rfl⟩
  split <;> rfl

theorem State.checkReply_pages (s : State) (status : Nat) : PagesOnly [0x2E] s (s.checkReply status) := by
  unfold State.checkReply
  split
  · exact s.reply_pages _ _ _ _
  · exact .refl _ s

theorem State.checkReply_check (s : State) (status : Nat) : (s.checkReply status).scl = s.scl :=
  (goes_checkReply s status rfl (.refl [.regs, .out, .mbx, .pba] s)).1 .scl (by decide)

theorem State.meterCheckNoted_keeps (s : State) (word : Word) (failed : Bool) (chan : Nat) : (s.meterCheckNoted word failed chan).scl = s.scl ∧
    (s.meterCheckNoted word failed chan).rd R.scl_CHECK_STAT = word ∧ (s.meterCheckNoted word failed chan).rb (hdr .scl oRaw) 5 = true := by
  unfold State.meterCheckNoted
  generalize hu : (s.wr R.scl_CHECK_STAT word).irq .scl 5 = u
  have hscl : u.scl = s.scl := by rw [← hu, State.irq_scl, State.wr_scl]
  have hword : u.rd R.scl_CHECK_STAT = word := by rw [← hu, State.irq_rd_past _ _ _ (by decide), State.rd_wr_same]
  have hraw : u.rb (hdr .scl oRaw) 5 = true := by
    rw [← hu]
    exact State.irq_raises _ _ (by decide) (by decide)
  rw [State.checkReply_check, State.checkReply_pages _ _ _ (by decide), State.rb_congr (State.checkReply_pages _ _ _ (by decide))]
  cases failed
  · exact ⟨hscl, hword, hraw⟩
  · refine ⟨((goes_meterFault _ 3 chan rfl (.refl [.regs, .out, .mbx, .ldg, .pba] _)).1 .scl (by decide)).trans ((u.irq_scl _ _).trans hscl),
      (State.fwEvent_pages _ _ _ _ _ (by decide)).trans ((u.irq_rd_past _ _ (by decide)).trans hword),
      (State.rb_congr (State.fwEvent_pages _ _ _ _ _ (by decide)) 5).trans (u.irq_keeps_raw _ _ hraw)⟩

theorem checkComplete_ends (x : CheckMeas) (hr : s.inReset .scl = false) (hc : s.scl.check = .running) : ∃ t, exec (.checkComplete x) s = .next t ∧ t.scl.check = .idle ∧
    t.rf R.scl_CHECK_STAT 0 2 = 2 ∧ t.rf R.scl_CHECK_STAT 8 4 = s.rf R.scl_CHECK_STAT 8 4 ∧
    t.rb R.scl_CHECK_STAT 3 = decide (s.rf R.scl_CHECK_CFG 16 16 < x.refPpm.natAbs) ∧ t.rb (hdr .scl oRaw) 5 = true ∧ ChangesOnly (touches (.checkComplete x)) s t := by
  have hx : exec (.checkComplete x) s = .next (s.checkEnd x) := congrArg Host.Outcome.next (if_neg (by simp [hr, hc]))
  have hchange := (exec_goes hx).1
  obtain ⟨u, fail, low, hidle, hend⟩ := s.checkEnd_noted x
  rw [hend] at hx hchange
  obtain ⟨hscl, hword, hraw⟩ := u.meterCheckNoted_keeps (checkWord fail (decide (s.rf R.scl_CHECK_CFG 16 16 < x.refPpm.natAbs)) low (s.rf R.scl_CHECK_STAT 8 4))
    (fail || decide (s.rf R.scl_CHECK_CFG 16 16 < x.refPpm.natAbs)) (s.rf R.scl_CHECK_STAT 8 4)
  obtain ⟨h0, h8, h3⟩ := checkWord_fields fail (decide (s.rf R.scl_CHECK_CFG 16 16 < x.refPpm.natAbs)) low (fld_lt (s.rd R.scl_CHECK_STAT) 8 4)
  refine ⟨_, hx, by rw [hscl, hidle], ?_, ?_, ?_, hraw, hchange⟩
  · rw [State.rf, hword]; exact h0
  · rw [State.rf, hword]; exact h8
  · rw [State.rb, hword]; exact h3

theorem exec_meterCheck (h : Ready s 0x0701 tag k) : exec (.meterCheck tag) s = .next (if 11 < k.par 0 1 ∨ k.par 1 1 < 4 then s.reply k stBadParam [] []
    else if s.inReset .scl || decide (s.scl.check ≠ .idle) then s.reply k stBusy [] []
    else (((s.wf R.scl_CHECK_CFG 0 4 (k.par 0 1)).wf R.scl_CHECK_CFG 8 8 (k.par 1 1)).checkGo .svc).defer k) :=
  congrArg Host.Outcome.next (State.withCmd_ready h _)

theorem meterCheck_asks (h : Ready s 0x0701 tag k) (h0 : k.par 0 1 ≤ 11) (h1 : 4 ≤ k.par 1 1) (hr : s.inReset .scl = false) (hc : s.scl.check = .idle) :
    ∃ t, exec (.meterCheck tag) s = .next t ∧ t.scl.check = .asked ∧ t.rf R.scl_CHECK_CFG 0 4 = k.par 0 1 ∧ t.rf R.scl_CHECK_CFG 8 8 = k.par 1 1 ∧
      ChangesOnly (touches (.meterCheck tag)) s t := by
  have hx : exec (.meterCheck tag) s = .next ((((s.wf R.scl_CHECK_CFG 0 4 (k.par 0 1)).wf R.scl_CHECK_CFG 8 8 (k.par 1 1)).checkAsked).defer k) := by
    rw [exec_meterCheck h, if_neg (by omega), if_neg (by simp [hr, hc]), State.checkGo_idle (by exact hc)]
  have hcfg (a : Nat) (lo n : Nat) (ha : a ≠ R.scl_CHECK_STAT) : ((((s.wf R.scl_CHECK_CFG 0 4 (k.par 0 1)).wf R.scl_CHECK_CFG 8 8 (k.par 1 1)).checkAsked).defer k).rf a lo n =
      ((s.wf R.scl_CHECK_CFG 0 4 (k.par 0 1)).wf R.scl_CHECK_CFG 8 8 (k.par 1 1)).rf a lo n := State.rf_congr (State.rd_wr_ne _ _ ha) lo n
  have hpar : k.par 1 1 < 256 ^ 1 := k.par_lt 1 1
  refine ⟨_, hx, rfl, ?_, ?_, (exec_goes hx).1⟩
  · rw [hcfg _ _ _ (by decide), State.wf_rf_ne _ _ _ (by decide) (.inl (by decide)), State.wf_rf_same _ _ _ (by decide)]
    omega
  · rw [hcfg _ _ _ (by decide), State.wf_rf_same _ _ _ (by decide)]
    omega

/-! ### The balance (R342, R343) -/

theorem exec_balClose (h : PageOpen s .scl m) (hm : m ≠ .svc) : exec (.balClose m) s = .next ((s.balClose m).answer .done) := by
  refine congrArg Host.Outcome.next ((State.writeAt_open h _ _ _).trans ?_)
  cases m <;> first | rfl | exact absurd rfl hm

theorem exec_balClose_svc (h : PageOpen s .scl .svc) : exec (.balClose .svc) s = .next (s.fwClose.answer .done) :=
  congrArg Host.Outcome.next (State.writeAt_open h _ _ _)

theorem State.balClose_other (h : s.rd R.scl_BAL_CLOSE_IDX ≠ s.rd R.scl_BAL_CAP_IDX) : s.balClose m = s.err .scl eBadValue 0xC50 m := if_pos h

/-- The captured interval is closed. -/
theorem State.balClose_closes (h : s.rd R.scl_BAL_CLOSE_IDX = s.rd R.scl_BAL_CAP_IDX) : (s.balClose m).rf R.scl_BAL_STAT 0 2 = 2 ∧
    (s.balClose m).rd R.scl_BAL_CLOSE_IDX = s.rd R.scl_BAL_CLOSE_IDX := by
  have hphase : ∀ x < 3, ∀ t : State, (t.closePhase x).rd R.scl_BAL_CLOSE_IDX = t.rd R.scl_BAL_CLOSE_IDX := by
    intro x hx t
    have hd : R.scl_BAL_CLOSE_IDX ≠ R.scl_BAL_DIFFx x ∧ R.scl_BAL_CLOSE_IDX ≠ R.scl_BAL_RATIOx x := by
      simp only [R.scl_BAL_CLOSE_IDX, R.scl_BAL_DIFFx, R.scl_BAL_RATIOx]
      omega
    exact (State.wb_rd_ne _ _ _ (by decide)).trans ((State.rd_wr_ne _ _ hd.2).trans (State.rd_wr_ne _ _ hd.1))
  rw [State.balClose, if_neg (by simp [h])]
  refine ⟨State.wf_rf_same _ _ _ (by decide), ?_⟩
  rw [State.wf_rd_ne _ _ _ _ (by decide), hphase 2 (by decide), hphase 1 (by decide), hphase 0 (by decide)]

/-- The node sums of a close go to their three registers alone. -/
theorem balNodes_rd (sum : Nat → Nat) (s : State) {a : Nat} (h : ∀ x < 3, a ≠ R.scl_BAL_NODEx x) :
    ((List.range 3).foldl (fun (t : State) x => t.wr (R.scl_BAL_NODEx x) (w32 (sum x))) s).rd a = s.rd a := by
  rw [show List.range 3 = [0, 1, 2] from rfl]
  exact (State.rd_wr_ne _ _ (h 2 (by decide))).trans ((State.rd_wr_ne _ _ (h 1 (by decide))).trans (State.rd_wr_ne _ _ (h 0 (by decide))))

theorem State.fwClose_none (h : s.closeDue = false) : s.fwClose = s := if_pos (by simp [h])

/-- The firmware's close puts the captured index into CLOSE_IDX, and closes. -/
theorem State.fwClose_closes (h : s.closeDue = true) : s.fwClose.rd R.scl_BAL_CLOSE_IDX = s.rd R.scl_BAL_CAP_IDX ∧ s.fwClose.rf R.scl_BAL_STAT 0 2 = 2 := by
  unfold State.fwClose
  rw [if_neg (by simp [h])]
  extract_lets b rs sum metered missing t u st
  have hcap : t.rd R.scl_BAL_CAP_IDX = s.rd R.scl_BAL_CAP_IDX := balNodes_rd sum s (by decide)
  have hidx : w32 b = s.rd R.scl_BAL_CAP_IDX := by simp [b, State.rn, w32]
  have hv : (t.wr R.scl_BAL_CLOSE_IDX (w32 b)).rd R.scl_BAL_CLOSE_IDX = (t.wr R.scl_BAL_CLOSE_IDX (w32 b)).rd R.scl_BAL_CAP_IDX := by
    rw [State.rd_wr_same, State.rd_wr_ne _ _ (by decide), hcap, hidx]
  obtain ⟨hstat, hclose⟩ := State.balClose_closes (m := .svc) hv
  have hu : u = (t.wr R.scl_BAL_CLOSE_IDX (w32 b)).balClose .svc := rfl
  clear_value u
  refine ⟨(State.fwEvent_pages _ _ _ _ _ (by decide)).trans ?_, (State.rf_congr (State.fwEvent_pages _ _ _ _ _ (by decide)) 0 2).trans ?_⟩
  · rw [hu, hclose, State.rd_wr_same, hidx]
  · rw [hu, hstat]

/-- The balance configuration that waits for the next boundary. -/
def State.balWaiting (s : State) (k : Cmd) : State := { s with nrg := { s.nrg with balNext := some (k.par 0 4, k.par 4 2, k.par 6 1, k.par 7 4) } }

theorem exec_balSet (h : Ready s 0x0711 tag k) : exec (.balSet tag) s = .next (
    if k.par 0 4 < 60 ∨ 86400 < k.par 0 4 ∨ k.par 6 1 = 0 ∨ 3 < k.par 6 1 ∨ 2 ^ 20 ≤ k.par 7 4 then s.reply k stBadParam [] []
    else (if (s.balWaiting k).isHead then
      ((s.balWaiting k).net.nodes.filter fun n => decide (n.st = 3)).foldl (fun (u : State) n => u.commandTo n.index 0x0718 (slice k.e.param 0 6)) (s.balWaiting k)
      else s.balWaiting k).reply k stOk [] []) :=
  congrArg Host.Outcome.next (State.withCmd_ready h _)

theorem commands_nrg (l : List NodeRow) (args : Bytes) (s : State) : (l.foldl (fun (u : State) n => u.commandTo n.index 0x0718 args) s).nrg = s.nrg :=
  (Goes.foldl (fun u n hg => goes_commandTo u n.index 0x0718 args rfl hg) (.refl [.regs, .out, .que, .rad, .net, .pba] s)).1 .nrg (by decide)

theorem balSet_waits (h : Ready s 0x0711 tag k) (h0 : 60 ≤ k.par 0 4) (h1 : k.par 0 4 ≤ 86400) (h2 : 1 ≤ k.par 6 1) (h3 : k.par 6 1 ≤ 3) (h4 : k.par 7 4 < 2 ^ 20) :
    (s.isHead = false → exec (.balSet tag) s = .next ((s.balWaiting k).reply k stOk [] [])) ∧
    ∃ t, exec (.balSet tag) s = .next t ∧ t.nrg.balNext = some (k.par 0 4, k.par 4 2, k.par 6 1, k.par 7 4) ∧ Ended k t := by
  have hx := exec_balSet h
  rw [if_neg (by omega)] at hx
  refine ⟨fun hh => ?_, _, hx, ?_, State.reply_ended _ _ _ _ _⟩
  · have hn : (s.balWaiting k).isHead = false := hh
    rw [hx, hn, if_neg Bool.false_ne_true]
  · rw [State.reply_nrg]
    split
    · exact congrArg Nrg.balNext (commands_nrg _ _ (s.balWaiting k))
    · rfl

/-! ### The journal (R343) -/

theorem exec_journalRead (h : Ready s 0x0710 tag k) : exec (.journalRead tag) s = .next (
    if k.par 4 2 = 0 ∨ 752 < k.par 4 2 then s.reply k stBadParam [] []
    else if k.e.length ≠ 256 * k.par 4 2 then s.reply k stBadLength [] []
    else if s.scl.jseq < k.par 0 4 + k.par 4 2 ∨ k.par 0 4 + 752 < s.scl.jseq then s.reply k stBadParam [] []
    else
      match (List.range (k.par 4 2)).mapM fun i => s.nvsRead (0x11000 + 256 * ((k.par 0 4 + i) % 752)) 256 with
      | some l => s.reply k stOk [] l.flatten
      | none => s.reply k stFault [] []) :=
  congrArg Host.Outcome.next (State.withCmd_ready h _)

end
/-- Settles O47, command by command. -/
theorem metersRunByTheirCycles : Obligations.MetersRunByTheirCycles := by
  unfold Obligations.MetersRunByTheirCycles
  refine ⟨fun x v ch c s h => congrArg Host.Outcome.next (if_pos (by simp [h])), fun x v ch c s h hx => cycleBoundary_moves h hx, fun ch c b s h => State.boundary_early ch b h,
    fun c s h hf ha ht => lineLost_runsFree h hf ha ht, ?_, fun ch s h => virtualBoundary_none h, ?_, ?_, ?_, ?_, ?_, fun x s hr hc => checkComplete_ends x hr hc, ?_, ?_, ?_, ?_,
    ?_, ?_, ?_, ?_, ?_⟩
  · intro ch s h hf c
    exact ⟨_, exec_virtualBoundary h hf, rfl, virtualBoundary_counts ch⟩
  · refine fun m c s h hp => ⟨fun hb => ⟨_, exec_coefCommit c h, by rw [State.coefCommit_bad hp hb], rfl, ?_⟩, fun hb => ⟨_, exec_coefCommit c h, by rw [State.coefCommit_good hp hb], ?_, rfl⟩⟩
    · rw [State.coefCommit_bad hp hb, State.answer_scl, State.err_scl]
      exact hp
    · rw [State.coefCommit_good hp hb]
      rfl
  · exact fun m s h => ⟨_, exec_coefCancel h, s.coefCancel_drops.1, s.coefCancel_drops.2, rfl, (exec_goes (exec_coefCancel h)).1⟩
  · refine fun m s h => ⟨fun hc => ⟨_, exec_meterCheckGo h, by rw [State.checkGo, if_pos hc], rfl, ?_⟩, fun hc => ?_⟩
    · rw [State.checkGo, if_pos hc, State.answer_scl, State.err_scl]
    · have hx := exec_meterCheckGo h
      rw [State.checkGo_idle hc] at hx
      exact ⟨_, hx, rfl, s.checkAsked_word.1, s.checkAsked_word.2, (exec_goes hx).1⟩
  · exact fun s hr hc => ⟨_, exec_checkStart s, if_neg (by simp [hr, hc]), by rw [if_neg (by simp [hr, hc])], by rw [if_neg (by simp [hr, hc])]⟩
  · exact fun s hc => (exec_checkStart s).trans (congrArg _ (if_pos (by simp [hc])))
  · exact fun m s h hm hi => ⟨_, exec_balClose h hm, by rw [State.balClose_other hi], rfl, by rw [State.balClose_other hi, State.rd_answer, State.err_rd_past _ _ _ _ _ (by decide)]⟩
  · exact fun m s h hm hi => ⟨_, exec_balClose h hm, (State.balClose_closes hi).1, rfl, (exec_goes (exec_balClose h hm)).1⟩
  · exact fun s h => ⟨_, exec_balClose_svc h, rfl, fun hd => by rw [State.fwClose_none hd, State.rd_answer], State.fwClose_closes⟩
  · refine fun tag c k s h => ⟨fun hl => ⟨_, (exec_coefLoad c h).trans (congrArg _ (if_pos hl)), rfl, State.reply_ended _ _ _ _ _⟩,
      fun hl hb => ⟨_, (exec_coefLoad c h).trans (congrArg _ ((if_neg (by simp [hl])).trans (if_pos (by simpa using hb)))), rfl, State.reply_ended _ _ _ _ _⟩, ?_⟩
    exact fun hl hr hp h1 h2 hb => coefLoad_waits c h hl hr hp h1 h2 hb
  · refine fun tag k s h => ⟨fun hb => ⟨_, (exec_meterCheck h).trans (congrArg _ (if_pos hb)), rfl, State.reply_ended _ _ _ _ _⟩, meterCheck_asks h, fun h0 h1 hb => ?_⟩
    exact ⟨_, (exec_meterCheck h).trans (congrArg _ ((if_neg (by omega)).trans (if_pos (by simpa using hb)))), rfl, State.reply_ended _ _ _ _ _⟩
  · intro tag k s h f n
    refine ⟨fun hn => ⟨_, (exec_journalRead h).trans (congrArg _ (if_pos hn)), rfl, State.reply_ended _ _ _ _ _⟩, fun l h1 h2 hl ha hb hm => ?_, fun h1 h2 hl => ?_, fun h1 h2 hl hb => ?_⟩
    · refine ⟨_, (exec_journalRead h).trans (congrArg _ ((if_neg (by omega)).trans ((if_neg (by simp [hl, n])).trans (if_neg (by omega))))), ?_⟩
      rw [hm]
      exact ⟨rfl, State.reply_ended _ _ _ _ _⟩
    · exact ⟨_, (exec_journalRead h).trans (congrArg _ ((if_neg (by omega)).trans (if_pos hl))), rfl, State.reply_ended _ _ _ _ _⟩
    · exact ⟨_, (exec_journalRead h).trans (congrArg _ ((if_neg (by omega)).trans ((if_neg (by simp [hl, n])).trans (if_pos hb)))), rfl, State.reply_ended _ _ _ _ _⟩
  · exact fun tag k s h hh h0 h1 h2 h3 h4 => ⟨_, (balSet_waits h h0 h1 h2 h3 h4).1 hh, rfl, State.reply_ended _ _ _ _ _⟩
  · exact fun tag k s h h0 h1 h2 h3 h4 => (balSet_waits h h0 h1 h2 h3 h4).2
  · exact fun tag k s h hb => ⟨_, (exec_balSet h).trans (congrArg _ (if_pos hb)), rfl, State.reply_ended _ _ _ _ _⟩

end Sys2Proof.Machine
end

section
/-! PROOFS. The vault's services: requests, the Crypto Officer, and the operation under way. -/

namespace Sys2Proof.Machine

open Sys2Proof

/-! ### No service touches the operations that wait -/

section
variable (s : State)

theorem State.createSlot_ops (i : Nat) (v : Word) (uses : Nat) (key : Bytes) (org bind cls : Nat) : (s.createSlot i v uses key org bind cls).1.vlt.ops = s.vlt.ops := by
  by_cases h : (s.createSlot i v uses key org bind cls).2 = vOk
  · obtain ⟨_, _, _, x, hx⟩ := State.createSlot_ok h
    rw [hx]
    rfl
  · rw [State.createSlot_refused h]

theorem State.drbgDraw_ops (n : Nat) : (s.drbgDraw n).2.vlt.ops = s.vlt.ops := by
  unfold State.drbgDraw
  extract_lets due t r
  have ht : t.vlt.ops = s.vlt.ops := by
    unfold t
    split <;> rfl
  exact ht

theorem drawRs_ops (f : Nat) (s : State) : (drawRs f s).vlt.ops = s.vlt.ops := by
  induction f generalizing s with
  | zero => rfl
  | succ f ih =>
    unfold drawRs
    extract_lets r
    split
    · exact (ih _).trans (s.drbgDraw_ops 32)
    · exact s.drbgDraw_ops 32

theorem State.vopImport_ops (o : VOp) (inp : Bytes) : (s.vopImport o inp).st.vlt.ops = s.vlt.ops := by
  unfold State.vopImport
  split
  · rfl
  · exact s.createSlot_ops _ _ _ _ _ _ _

theorem State.vopInit_ops (o : VOp) (inp : Bytes) : (s.vopInit o inp).st.vlt.ops = s.vlt.ops := by
  unfold State.vopInit
  split
  · rfl
  · extract_lets t r
    have ht : t.vlt.ops = s.vlt.ops := drawRs_ops 4 s
    clear_value t
    exact (t.vopImport_ops _ _).trans ht

theorem State.vopGenerate_ops (o : VOp) : (s.vopGenerate o).st.vlt.ops = s.vlt.ops := by
  unfold State.vopGenerate
  extract_lets r c
  exact (r.2.createSlot_ops _ _ _ _ _ _ _).trans (s.drbgDraw_ops _)

theorem State.vopDerive_ops (o : VOp) : (s.vopDerive o).st.vlt.ops = s.vlt.ops := by
  unfold State.vopDerive
  extract_lets len bind bits key cls r
  split
  · rfl
  · split
    · rfl
    · exact s.createSlot_ops _ _ _ _ _ _ _

theorem State.vopErase_ops (o : VOp) : (s.vopErase o).st.vlt.ops = s.vlt.ops := by
  obtain ⟨e, -, h⟩ | ⟨-, -, h⟩ := s.vopErase_cases o <;> rw [h] <;> rfl

theorem State.vopApprove_ops : s.vopApprove.st.vlt.ops = s.vlt.ops := by
  cases h : s.anyLinkSlot
  · rw [State.vopApprove_done h, State.zeroEvent_vlt]
    rfl
  · rw [State.vopApprove_refused h]
    rfl

theorem State.vopDebug_ops : s.vopDebug.st.vlt.ops = s.vlt.ops := by
  cases ha : s.vlt.approved
  · cases h : s.anyLinkSlot
    · rw [State.vopDebug_done ha h, State.zeroEvent_vlt]
      rfl
    · rw [State.vopDebug, if_neg (by simp [ha]), if_pos h]
      rfl
  · rw [State.vopDebug_denied ha]
    rfl

theorem VOut.ite_ops {c : Prop} [Decidable c] {a b : VOut} {l : List VOp} (ha : a.st.vlt.ops = l) (hb : b.st.vlt.ops = l) : (if c then a else b).st.vlt.ops = l := by
  split <;> assumption

theorem State.vopRun_ops (o : VOp) (inp : Bytes) : (s.vopRun o inp).st.vlt.ops = s.vlt.ops := by
  have pure {t : State} (h : Goes [] s t) : t.vlt.ops = s.vlt.ops := congrArg Vlt.ops (h.1 .vlt (by decide))
  unfold State.vopRun
  refine VOut.ite_ops rfl (VOut.ite_ops rfl (VOut.ite_ops rfl (VOut.ite_ops (s.vopInit_ops o inp) (VOut.ite_ops rfl (VOut.ite_ops (s.vopImport_ops o inp)
    (VOut.ite_ops (s.vopGenerate_ops o) (VOut.ite_ops (s.vopDerive_ops o) (VOut.ite_ops (pure (goes_vopExport s o rfl (.refl [] s)))
    (VOut.ite_ops (pure (goes_vopRewrap s o inp rfl (.refl [] s))) (VOut.ite_ops (s.vopErase_ops o) (VOut.ite_ops s.vopApprove_ops (VOut.ite_ops s.vopDebug_ops
    (VOut.ite_ops (pure (goes_vopCrypt s true o inp rfl (.refl [] s))) (VOut.ite_ops (pure (goes_vopCrypt s false o inp rfl (.refl [] s)))
    (VOut.ite_ops (pure (goes_vopMac s o inp rfl (.refl [] s))) (VOut.ite_ops (pure (goes_vopVerify s inp rfl (.refl [] s)))
    (VOut.ite_ops (s.drbgDraw_ops _) (VOut.ite_ops rfl rfl))))))))))))))))))

theorem State.takeUse_ops (i : Nat) : (s.takeUse i).vlt.ops = s.vlt.ops := by
  cases h : s.slot i with
  | none => rw [State.takeUse, h]
  | some x =>
    rw [State.takeUse_some h]
    split_ifs
    · rfl
    · rw [State.irq_vlt]; rfl
    · rfl

theorem takeUses_ops (l : List Nat) (s : State) : (l.foldl State.takeUse s).vlt.ops = s.vlt.ops := by
  induction l generalizing s with
  | nil => rfl
  | cons i l ih => exact (ih _).trans (s.takeUse_ops i)

theorem State.opAnswer_vlt (o : VOp) (status : Nat) (out : Bytes) : (s.opAnswer o status out).vlt = s.vlt :=
  (goes_opAnswer s o status out rfl (.refl [.regs, .out, .mbx, .mem, .pba] s)).1 .vlt (by decide)

theorem State.vltDrainCheck_vlt : s.vltDrainCheck.vlt = s.vlt := (goes_vltDrainCheck s rfl (.refl [.regs, .out, .pba] s)).1 .vlt (by decide)

end

/-! ### The operation under way ends (R374, R388, R390) -/

section
variable {s : State} {o : VOp} {r : List VOp}

/-- An operation with its input runs, its keys' uses are counted, and it is answered. -/
def State.opEnded (s : State) (o : VOp) (inp : Bytes) : State :=
  ((s.vopRun o inp).used.foldl State.takeUse (s.vopRun o inp).st).opAnswer o (s.vopRun o inp).status (s.vopRun o inp).out

/-- The operations behind the one under way. -/
def State.opsLeft (s : State) (r : List VOp) : State := { s with vlt := { s.vlt with ops := r } }

theorem State.opComplete_eq (ho : s.vlt.ops = o :: r) (hd : s.drained .vlt = false) : s.opComplete =
    (match (s.opsLeft r).opInput o with
      | none => (s.opsLeft r).opAnswer o vBadParam []
      | some inp => (s.opsLeft r).opEnded o inp).vltDrainCheck := by
  unfold State.opComplete
  rw [ho]
  dsimp only
  rw [hd, if_neg Bool.false_ne_true]
  rfl

theorem State.opComplete_runs {inp : Bytes} (ho : s.vlt.ops = o :: r) (hd : s.drained .vlt = false) (hi : (s.opsLeft r).opInput o = some inp) :
    s.opComplete = ((s.opsLeft r).opEnded o inp).vltDrainCheck := by
  rw [State.opComplete_eq ho hd, hi]

theorem State.opComplete_unread (ho : s.vlt.ops = o :: r) (hd : s.drained .vlt = false) (hi : (s.opsLeft r).opInput o = none) :
    s.opComplete = ((s.opsLeft r).opAnswer o vBadParam []).vltDrainCheck := by
  rw [State.opComplete_eq ho hd, hi]

theorem State.opEnded_ops (s : State) (o : VOp) (inp : Bytes) : (s.opEnded o inp).vlt.ops = s.vlt.ops := by
  rw [State.opEnded, State.opAnswer_vlt, takeUses_ops, State.vopRun_ops]

theorem State.opComplete_ops (ho : s.vlt.ops = o :: r) (hd : s.drained .vlt = false) : s.opComplete.vlt.ops = r := by
  cases hi : (s.opsLeft r).opInput o with
  | none => rw [State.opComplete_unread ho hd hi, State.vltDrainCheck_vlt, State.opAnswer_vlt]; rfl
  | some inp => rw [State.opComplete_runs ho hd hi, State.vltDrainCheck_vlt, State.opEnded_ops]; rfl

theorem State.opComplete_idle (h : s.vlt.ops = [] ∨ s.drained .vlt = true) : s.opComplete = s := by
  unfold State.opComplete
  split
  · rfl
  · next ho =>
    rcases h with h | h
    · rw [h] at ho; cases ho
    · exact if_pos h

theorem exec_vaultOpComplete (hr : s.inReset .vlt = false) : exec (.vaultOpComplete none) s = .next s.opComplete := congrArg Host.Outcome.next (if_neg (by simp [hr]))

theorem vaultOpComplete_reset (c : Option (Fin 14)) (hr : s.inReset .vlt = true) : exec (.vaultOpComplete c) s = .next s := congrArg Host.Outcome.next (if_pos hr)

theorem exec_vaultOpComplete_fails {n : Fin 14} (hr : s.inReset .vlt = false) :
    exec (.vaultOpComplete (some n)) s = .next (if s.vlt.ops.isEmpty || s.drained .vlt then s else (s.cryFail n.val 2).opComplete) :=
  congrArg Host.Outcome.next (if_neg (by simp [hr]))

theorem vaultOpComplete_idle (c : Option (Fin 14)) (h : s.vlt.ops = [] ∨ s.drained .vlt = true) : exec (.vaultOpComplete c) s = .next s := by
  cases hr : s.inReset .vlt
  · cases c with
    | none => rw [exec_vaultOpComplete hr, State.opComplete_idle h]
    | some n => rw [exec_vaultOpComplete_fails hr, if_pos (by rcases h with h | h <;> simp [h])]
  · exact vaultOpComplete_reset c hr

/-! ### The error state (R390) -/

/-- The pages that a failed test writes: CRY, and those of an event. -/
theorem State.cryFail_pages (s : State) (t k : Nat) : PagesOnly [blkBase .cry / 0x1000, 0x2A, 0x2E] s (s.cryFail t k) := by
  unfold State.cryFail
  extract_lets u
  have hu : PagesOnly [blkBase .cry / 0x1000, 0x2A, 0x2E] s u :=
    (s.wb_pages 1 true (by decide)).trans ((State.wf_pages _ 8 5 t (by decide)).trans (State.wf_pages _ 14 2 k (by decide)))
  exact (hu.trans (State.irq_pages _ 0 (by decide))).trans ((State.event_pages _ _ _ _).mono (by decide))

theorem State.cryFail_word (s : State) (t k : Nat) : (s.cryFail t k).rd R.cry_CRY_IND =
    (((s.wb R.cry_CRY_IND 1 true).wf R.cry_CRY_IND 8 5 t).wf R.cry_CRY_IND 14 2 k).rd R.cry_CRY_IND :=
  (State.event_pages _ _ _ _ _ (by decide)).trans (State.irq_rd_past _ _ _ (by decide))

theorem State.cryFail_error (s : State) (t k : Nat) : (s.cryFail t k).cryError = true := by
  rw [State.cryError, State.rb_congr (s.cryFail_word t k), State.wf_rb_ne _ _ _ (by decide) (by decide), State.wf_rb_ne _ _ _ (by decide) (by decide),
    State.wb_rb_same _ _ _ (by decide)]

theorem State.cryError_congr {s t : State} (h : t.rd R.cry_CRY_IND = s.rd R.cry_CRY_IND) : t.cryError = s.cryError := State.rb_congr h 1

theorem State.opAnswer_pages (s : State) (o : VOp) (status : Nat) (out : Bytes) : PagesOnly [0x28, 0x2E] s (s.opAnswer o status out) := by
  unfold State.opAnswer
  split
  · extract_lets fits st d t
    have ht : PagesOnly [0x28, 0x2E] s t := .set rfl rfl
    exact (ht.trans (State.wr_pages _ _ (by decide))).trans (State.irq_pages _ _ (by decide))
  · split
    · exact .refl _ s
    · exact .ite ((s.reply_pages _ _ _ _).mono (by decide)) ((s.reply_pages _ _ _ _).mono (by decide))

theorem State.vltDrainCheck_pages (s : State) : PagesOnly [0x28] s s.vltDrainCheck := .ite (State.setDrained_pages _ (by decide)) (.refl _ s)

/-- In the error state an operation runs to no more than its status. -/
theorem State.vopRun_st_error (h : s.cryError = true) (o : VOp) (inp : Bytes) : (s.vopRun o inp).st = s ∧ (s.vopRun o inp).used = [] := by
  by_cases ho : o.op = 0
  · have : s.vopRun o inp = s.vopStatus := by
      unfold State.vopRun
      rw [if_neg (by simp [ho]), if_neg (by simp [ho]), if_pos ho]
    rw [this]
    exact ⟨rfl, rfl⟩
  · rw [State.vopRun_errorState inp h ho]
    exact ⟨rfl, rfl⟩

/-- The error state lasts when an operation ends. -/
theorem State.opComplete_error (h : s.cryError = true) : s.opComplete.cryError = true := by
  cases ho : s.vlt.ops with
  | nil => rw [State.opComplete_idle (.inl ho), h]
  | cons o r =>
    cases hd : s.drained .vlt with
    | true => rw [State.opComplete_idle (.inr hd), h]
    | false =>
      have hl : (s.opsLeft r).cryError = true := h
      have answered (status : Nat) (out : Bytes) : (((s.opsLeft r).opAnswer o status out).vltDrainCheck).cryError = true :=
        (State.cryError_congr ((State.vltDrainCheck_pages _ _ (by decide)).trans (State.opAnswer_pages _ _ _ _ _ (by decide)))).trans hl
      cases hi : (s.opsLeft r).opInput o with
      | none => rw [State.opComplete_unread ho hd hi, answered]
      | some inp =>
        obtain ⟨hst, hu⟩ := State.vopRun_st_error hl o inp
        rw [State.opComplete_runs ho hd hi, State.opEnded, hst, hu, List.foldl_nil, answered]

theorem vaultOpComplete_fails {n : Fin 14} (hr : s.inReset .vlt = false) (ho : s.vlt.ops = o :: r) (hd : s.drained .vlt = false) :
    ∃ t, exec (.vaultOpComplete (some n)) s = .next t ∧ t = (s.cryFail n.val 2).opComplete ∧ t.cryError = true ∧ t.vlt.ops = r := by
  have hops : (s.cryFail n.val 2).vlt.ops = o :: r :=
    (congrArg Vlt.ops ((goes_cryFail s n.val 2 rfl (.refl [.regs, .out, .mbx, .ldg, .pba] s)).1 .vlt (by decide))).trans ho
  have hdr : (s.cryFail n.val 2).drained .vlt = false := (State.rb_congr (s.cryFail_pages n.val 2 _ (by decide)) 1).trans hd
  refine ⟨_, (exec_vaultOpComplete_fails hr).trans (congrArg _ (if_neg (by simp [ho, hd]))), rfl, State.opComplete_error (s.cryFail_error _ _), State.opComplete_ops hops hdr⟩

end
/-! ### Requests for a service (R374, R384, R386) -/

section
variable {s : State} {m : Master} {v : Word} {mode : AesMode} {iv : Bytes} {op : Nat} {co : Bool} {tag : Word}

/-- Every vault service asked for through the window is the one of its number, and none is the self-test. -/
theorem exec_window {i : Instr} (h : vltOf i = some (op, co, .window m v, mode, iv)) (s : State) : exec i s = .next (s.windowService op m v mode iv) ∧ op ≠ 1 := by
  unfold vltOf at h
  split at h <;> cases h <;> exact ⟨rfl, by decide⟩

theorem exec_mailbox {i : Instr} (h : vltOf i = some (op, co, .mbx tag, mode, iv)) (s : State) : exec i s = .next (s.mbxService op co tag) := by
  unfold vltOf at h
  split at h <;> cases h <;> rfl

theorem State.windowService_open (h : PageOpen s .vlt m) : s.windowService op m v mode iv = (if fld v 0 8 = op then s.opCmd m v mode iv else s).answer .done :=
  State.writeAt_open h _ _ _

theorem State.opCmd_other (hm : m ≠ .svc) : s.opCmd m v mode iv = s.err .vlt 0x80 0x58 m := if_pos hm

theorem State.opCmd_idle (h : tst v 31 = false) : s.opCmd .svc v mode iv = s := by
  unfold State.opCmd
  rw [if_neg (by simp), if_pos (by simp [h])]

theorem State.opCmd_queues (h : tst v 31 = true) (ho : fld v 0 8 ≠ 1) : s.opCmd .svc v mode iv = s.opQueue (s.windowOp .svc v mode iv) := by
  unfold State.opCmd
  rw [if_neg (by simp), if_neg (by simp [h]), if_neg ho]

theorem State.opQueue_cancelled {o : VOp} (h : s.takes .vlt = false) : s.opQueue o = s.opAnswer o vCancelled [] := if_pos (by simp [h])

theorem State.opQueue_waits {o : VOp} (h : s.takes .vlt = true) : (s.opQueue o).vlt.ops = s.vlt.ops ++ [o] := by
  unfold State.opQueue
  rw [if_neg (by simp [h])]
  dsimp only
  split <;> rfl

/-- A window operation that is cancelled says so in OP_STAT. -/
theorem State.opAnswer_status (s : State) {o : VOp} {status : Nat} (hw : o.who = .window m v) (hs : status < 128) : (s.opAnswer o status []).rf R.vlt_OP_STAT 8 7 = status := by
  unfold State.opAnswer
  rw [hw]
  dsimp only
  rw [State.rf_congr (State.irq_rd_past _ _ _ (by decide)), State.opStat, State.rf, State.rd_wr_same]
  simp only [fld, w32, BitVec.toNat_ofNat, List.length_nil, Nat.zero_le, decide_true, if_true]
  cases (s.sramWrite o.out.1 []).approvedInd <;> simp only [b2n] <;> norm_num <;> omega

theorem window_request {i : Instr} (h : vltOf i = some (op, co, .window m v, mode, iv)) (hp : PageOpen s .vlt m) :
    (fld v 0 8 ≠ op → ∃ t, exec i s = .next t ∧ t = s.answer .done ∧ t.vlt = s.vlt) ∧
    (fld v 0 8 = op → m ≠ .svc → ∃ t, exec i s = .next t ∧ t = (s.err .vlt 0x80 0x58 m).answer .done ∧ t.vlt = s.vlt) ∧
    (fld v 0 8 = op → m = .svc → tst v 31 = false → ∃ t, exec i s = .next t ∧ t = s.answer .done ∧ t.vlt = s.vlt) ∧
    (fld v 0 8 = op → m = .svc → tst v 31 = true → ∃ t, exec i s = .next t ∧ t = (s.opQueue (s.windowOp m v mode iv)).answer .done ∧
      (s.takes .vlt = true → t.vlt.ops = s.vlt.ops ++ [s.windowOp m v mode iv]) ∧ (s.takes .vlt = false → t.vlt.ops = s.vlt.ops ∧ t.rf R.vlt_OP_STAT 8 7 = vCancelled)) := by
  obtain ⟨hx, h1⟩ := exec_window h s
  rw [State.windowService_open hp] at hx
  refine ⟨fun hv => ⟨_, hx, by rw [if_neg hv], by rw [if_neg hv, State.answer_vlt]⟩, fun hv hm => ?_, fun hv hm hg => ?_, fun hv hm hg => ?_⟩
  · rw [if_pos hv, State.opCmd_other hm] at hx
    exact ⟨_, hx, rfl, by rw [State.answer_vlt, State.err_vlt]⟩
  · subst hm
    rw [if_pos hv, State.opCmd_idle hg] at hx
    exact ⟨_, hx, rfl, State.answer_vlt _ _⟩
  · subst hm
    rw [if_pos hv, State.opCmd_queues hg (by rw [hv]; exact h1)] at hx
    refine ⟨_, hx, rfl, fun ht => by rw [State.answer_vlt, State.opQueue_waits ht], fun ht => ?_⟩
    rw [State.opQueue_cancelled ht, State.answer_vlt, State.opAnswer_vlt]
    exact ⟨rfl, State.opAnswer_status s rfl (by decide)⟩

/-! ### The Crypto Officer (R385) -/

variable {k : Cmd}

theorem State.coAuth_noKey (h : s.slot 0 = none) (k : Cmd) : s.coAuth k = some s := by rw [State.coAuth, h]

/-- The Crypto Officer's counter is accepted, and the key of slot 0 used once. -/
def State.coAccepted (s : State) (n : Nat) : State := ({ s with vlt := { s.vlt with coCtr := n } } : State).takeUse 0

theorem State.coAuth_key {x : Slot} (h : s.slot 0 = some x) (k : Cmd) : s.coAuth k =
    if s.vlt.coCtr < k.par 20 4 ∧ (hmac x.key (authBytes k.e ++ sha256 k.bytes)).take 8 = slice k.e.param 24 8 then some (s.coAccepted (k.par 20 4)) else none := by
  rw [State.coAuth, h]
  rfl

theorem State.takeUse_coCtr (s : State) (i : Nat) : (s.takeUse i).vlt.coCtr = s.vlt.coCtr := by
  cases h : s.slot i with
  | none => rw [State.takeUse, h]
  | some x =>
    rw [State.takeUse_some h]
    split_ifs
    · rfl
    · rw [State.irq_vlt]; rfl
    · rfl

/-- An authenticator that is accepted leaves the state, or accepts a counter above the last. -/
theorem State.coAuth_some {u : State} (h : s.coAuth k = some u) : u = s ∧ s.slot 0 = none ∨ (s.slot 0 ≠ none ∧ s.vlt.coCtr < k.par 20 4 ∧ u = s.coAccepted (k.par 20 4)) := by
  cases hs : s.slot 0 with
  | none =>
    rw [State.coAuth_noKey hs] at h
    exact .inl ⟨(Option.some.inj h).symm, rfl⟩
  | some x =>
    rw [State.coAuth_key hs] at h
    split at h
    · next hc => exact .inr ⟨nofun, hc.1, (Option.some.inj h).symm⟩
    · cases h

theorem State.takeUse_goes (s : State) (i : Nat) : ChangesOnly [.regs, .out, .vlt, .pba] s (s.takeUse i) := (goes_takeUse s i rfl (.refl _ s)).1

theorem State.takeUse_rd (s : State) (i : Nat) {a : Nat} (h : a ≠ hdr .vlt oRaw) : (s.takeUse i).rd a = s.rd a := by
  cases hs : s.slot i with
  | none => rw [State.takeUse, hs]
  | some x =>
    rw [State.takeUse_some hs]
    split_ifs
    · rfl
    · exact (State.irq_rd_ne _ .vlt 1 h).trans (State.rd_congr rfl rfl a)
    · exact State.rd_congr rfl rfl a

/-- Whether a block takes work stands in its control register and the reset bitmaps. -/
theorem State.takes_congr {s t : State} {b : Blk} (hc : t.rd (hdr b oCtrl) = s.rd (hdr b oCtrl)) (ha : t.rd R.rst_BLK_IN_RESET_A = s.rd R.rst_BLK_IN_RESET_A)
    (hb : t.rd R.rst_BLK_IN_RESET_B = s.rd R.rst_BLK_IN_RESET_B) (hs : t.boot = s.boot) : t.takes b = s.takes b := by
  rw [State.takes, State.inReset_of_bitmaps ha hb hs, State.en, State.rb_congr hc, State.drainBit, State.rb_congr hc]
  rfl

theorem State.coAuth_takes {u : State} (h : s.coAuth k = some u) : u.takes .vlt = s.takes .vlt ∧ u.vlt.ops = s.vlt.ops := by
  obtain ⟨rfl, -⟩ | ⟨-, -, rfl⟩ := State.coAuth_some h
  · exact ⟨rfl, rfl⟩
  · have hrd {a : Nat} (ha : a ≠ hdr .vlt oRaw) : (s.coAccepted (k.par 20 4)).rd a = s.rd a := (State.takeUse_rd _ 0 ha).trans (State.rd_congr rfl rfl a)
    exact ⟨State.takes_congr (hrd (by decide)) (hrd (by decide)) (hrd (by decide)) (State.takeUse_goes _ 0 .boot (by decide)), State.takeUse_ops _ 0⟩

theorem State.mbxService_ready (h : Ready s (0x0900 + op) tag k) : s.mbxService op co tag =
    if co then s.withCo k fun u => (u.defer k).opQueue (mbxOp k op) else (s.defer k).opQueue (mbxOp k op) := State.withCmd_ready h _

theorem State.defer_waits (ht : s.takes .vlt = true) (o : VOp) : ((s.defer k).opQueue o).vlt.ops = s.vlt.ops ++ [o] :=
  State.opQueue_waits (s := s.defer k) ht

theorem mailbox_request {i : Instr} (h : vltOf i = some (op, co, .mbx tag, mode, iv)) (hr : Ready s (0x0900 + op) tag k) :
    (co = false → ∃ t, exec i s = .next t ∧ t = (s.defer k).opQueue (mbxOp k op) ∧ (s.takes .vlt = true → t.vlt.ops = s.vlt.ops ++ [mbxOp k op])) ∧
    (∀ u, co = true → s.coAuth k = some u → ∃ t, exec i s = .next t ∧ t = (u.defer k).opQueue (mbxOp k op) ∧ (s.takes .vlt = true → t.vlt.ops = s.vlt.ops ++ [mbxOp k op])) ∧
    (co = true → s.coAuth k = none → ∃ t, exec i s = .next t ∧ t = (s.ledger 0xE00B 5 0x180 k.e.opcode (k.par 20 4) s.vlt.coCtr).reply k stDenied [] [] ∧ t.vlt = s.vlt ∧ Ended k t) := by
  have hx := exec_mailbox h s
  rw [State.mbxService_ready hr] at hx
  refine ⟨fun hc => ?_, fun u hc hu => ?_, fun hc hu => ?_⟩
  · rw [hc, if_neg Bool.false_ne_true] at hx
    exact ⟨_, hx, rfl, fun ht => State.defer_waits ht _⟩
  · rw [hc, if_pos rfl, State.withCo_accepted hu] at hx
    obtain ⟨htakes, hops⟩ := State.coAuth_takes hu
    exact ⟨_, hx, rfl, fun ht => by rw [State.defer_waits (htakes.trans ht), hops]⟩
  · rw [hc, if_pos rfl, State.withCo_denied hu] at hx
    exact ⟨_, hx, rfl, by rw [State.reply_vlt, State.ledger_vlt], State.reply_ended _ _ _ _ _⟩

end

/-- Settles O51: the requests by their way, and the end of the operation under way. -/
theorem vaultServicesAreQueuedForTheVault : Obligations.VaultServicesAreQueuedForTheVault := by
  unfold Obligations.VaultServicesAreQueuedForTheVault
  refine ⟨fun i op co m v mode iv s h hp => window_request h hp, fun i op co tag mode iv k s h hr => mailbox_request h hr, fun k s => ⟨fun h => State.coAuth_noKey h k, ?_, ?_⟩,
    fun o s => ⟨State.opQueue_cancelled, State.opQueue_waits⟩, fun c s => vaultOpComplete_reset c, fun c s => vaultOpComplete_idle c, ?_, ?_,
    fun o r n s hr ho hd => vaultOpComplete_fails hr ho hd⟩
  · intro x h
    rw [State.coAuth_key h, ← Bool.decide_and]
    split
    · next hc => rw [decide_eq_true hc]; rfl
    · next hc => rw [decide_eq_false hc]; rfl
  · intro t h hs
    obtain ⟨-, hn⟩ | ⟨-, hlt, rfl⟩ := State.coAuth_some h
    · exact absurd hn hs
    · have hctr : (s.coAccepted (k.par 20 4)).vlt.coCtr = k.par 20 4 := State.takeUse_coCtr _ 0
      exact ⟨by rw [hctr]; exact hlt, hctr⟩
  · intro o r inp s hr ho hd u hi
    refine ⟨_, exec_vaultOpComplete hr, State.opComplete_ops ho hd, ?_⟩
    exact State.opComplete_runs ho hd hi
  · intro o r s hr ho hd u hi
    exact ⟨_, exec_vaultOpComplete hr, State.opComplete_unread ho hd hi, State.opComplete_ops ho hd⟩

end Sys2Proof.Machine
end

section
/-! PROOFS. Self-tests, zeroization and the debug port. -/

namespace Sys2Proof.Machine

open Sys2Proof

/-! ### A warm reset leaves no command outstanding (R78) -/

section
variable (s : State)

/-- A reply where no command is outstanding leaves none. -/
theorem State.reply_taken_none (h : s.mbx.taken = []) (c : Cmd) (st : Nat) (p d : Bytes) : (s.reply c st p d).mbx.taken = [] := by
  unfold State.reply State.replyAt State.putReply
  rw [flushHeld_taken]
  simp [h]

theorem State.todReply_taken_none (h : s.mbx.taken = []) (st : Nat) (p : Bytes) : (s.todReply st p).mbx.taken = [] := by
  unfold State.todReply
  split
  · exact h
  · extract_lets n u
    have hu : u.mbx.taken = [] := h
    clear_value u
    split
    · exact u.reply_taken_none hu _ _ _ _
    · exact hu

theorem State.ntmReset_taken_none (h : s.mbx.taken = []) (st : Nat) : (s.ntmReset st).mbx.taken = [] := by
  have ht := s.todReply_taken_none h stCancelled []
  unfold State.ntmReset
  generalize s.todReply stCancelled [] = u at *
  exact (congrArg (fun m => m.taken) ((goes_setTm u (if st = 0 then 0 else 3) rfl (.refl [.regs] u)).1 .mbx (by decide))).trans ht

theorem State.gapTime_taken_none (h : s.mbx.taken = []) (st : Nat) : (s.gapTime true st).mbx.taken = [] :=
  State.ntmReset_taken_none { s with ntm := { s.ntm with tod := none } } h st

theorem State.corReset_taken_none (h : s.mbx.taken = []) : s.corReset.mbx.taken = [] := by
  unfold State.corReset
  extract_lets u
  have hu : u.mbx.taken = [] := by
    unfold u
    split
    · split
      · exact s.reply_taken_none h _ _ _ _
      · exact h
    · exact h
  exact hu

theorem State.gapLight_taken_none (h : s.mbx.taken = []) : s.gapLight.mbx.taken = [] := s.corReset_taken_none h

theorem State.gapIo_taken_none (warm : Bool) : (s.gapIo warm).mbx.taken = [] := rfl

theorem State.gap_taken_none : (s.gap true).mbx.taken = [] := by
  unfold State.gap
  extract_lets st u v w
  have hu : u.mbx.taken = [] :=
    (congrArg (fun m => m.taken) ((goes_gapStores (s.gapIo true) true rfl (.refl [.ldg, .mem] _)).1 .mbx (by decide))).trans (s.gapIo_taken_none true)
  have hw : w.mbx.taken = [] := hu
  clear_value w
  have hair : (w.gapTime true st).gapAir.mbx.taken = [] :=
    (congrArg (fun m => m.taken) ((goes_gapAir _ rfl (.refl [.regs, .out, .rad, .chn, .lnk, .bcn, .net, .pba] _)).1 .mbx (by decide))).trans (w.gapTime_taken_none hw st)
  have hlight : (w.gapTime true st).gapAir.gapLight.mbx.taken = [] := State.gapLight_taken_none _ hair
  generalize (w.gapTime true st).gapAir.gapLight = x at *
  exact (congrArg (fun m => m.taken) ((goes_gapRest x rfl (.refl [.out, .pwt, .vlt, .cry, .ibg, .rmc, .fov, .upd] x)).1 .mbx (by decide))).trans hlight

theorem State.enterReset_taken_none {code : Nat} (src : Nat) (hc : code < 16) : (s.enterReset code src false).mbx.taken = [] := by
  obtain ⟨cause, b, h, _⟩ := s.enterReset_warm src hc
  rw [h, State.resetNoted_mbx, State.gap_taken_none]

end

/-! ### ZEROIZE (R368) -/

section
variable {s : State} {m : Master} {v : Word} {tag : Word} {k : Cmd}

/-- The event of a zeroization is kept for the next start. -/
def State.zeroNoted (s : State) : State := { s with boot := { s.boot with late := s.boot.late ++ [Late.event 0xF901 0x180 (toLe 1 2)] } }

/-- What zeroization leaves before its reset. -/
def State.zeroized (s : State) : State := s.zeroizeNow.zeroNoted

theorem State.zeroNoted_keeps (s : State) : s.zeroNoted.boot.stage = s.boot.stage ∧ s.zeroNoted.boot.causeAt = s.boot.causeAt ∧ s.zeroNoted.cnt = s.cnt ∧
    s.zeroNoted.pwt = s.pwt ∧ s.zeroNoted.vlt = s.vlt ∧ ∀ a, s.zeroNoted.rd a = s.rd a := ⟨rfl, rfl, rfl, rfl, rfl, fun a => State.rd_congr rfl rfl a⟩

theorem State.zeroize_resets (h : s.boot.stage ≠ .off) : s.zeroize = s.zeroized.enterReset 8 0 false := by
  have hs : s.zeroized.boot.stage = s.boot.stage := by
    rw [State.zeroized, (State.zeroNoted_keeps _).1, State.zeroizeNow_boot]
  have hz : s.zeroize = s.zeroized.resetModule 8 0 false := rfl
  rw [hz, State.resetModule, if_neg (by rw [hs]; exact h)]

theorem getD_replicate_none (n i : Nat) : (List.replicate n (none : Option Slot)).getD i none = none := by
  rw [List.getD_eq_getElem?_getD, List.getElem?_replicate]
  split <;> rfl

theorem eraseSlots_none (f : Nat → Slot → Bool) (i n : Nat) : eraseSlots f i (List.replicate n none) = List.replicate n none := by
  induction n generalizing i with
  | zero => rfl
  | succ n ih =>
    rw [List.replicate_succ, eraseSlots, ih]

theorem State.zeroized_outranked (s : State) (code : Nat) : s.zeroized.outranked code = s.outranked code := by
  obtain ⟨hstage, hat, hcnt, -, -, hrd⟩ := s.zeroizeNow.zeroNoted_keeps
  have hc : s.zeroizeNow.cnt = s.cnt := s.zeroizeNow_goes .cnt (by decide)
  have hr : s.zeroizeNow.zeroNoted.rf R.rst_RST_CAUSE 0 4 = s.rf R.rst_RST_CAUSE 0 4 := State.rf_congr ((hrd _).trans (s.zeroizeNow_pages _ (by decide))) 0 4
  rw [State.zeroized, State.outranked, hstage, hat, hcnt, hc, hr, State.zeroizeNow_boot, State.outranked]

/-- A full zeroization with main power leaves a root secret of zeros and no slot, and enters a warm reset of code 8. -/
theorem State.zeroize_clears (h : s.boot.stage ≠ .off) : s.zeroize.pwt.rs = rsZero ∧ (∀ i, s.zeroize.slot i = none) ∧ s.zeroize.boot.stage = .reset ∧
    (s.outranked 8 = false → s.zeroize.rf R.rst_RST_CAUSE 0 4 = 8) ∧ s.zeroize.mbx.taken = [] := by
  rw [State.zeroize_resets h]
  refine ⟨?_, fun i => ?_, State.enterReset_stage _ 0 (by decide), fun ho => State.enterReset_cause _ 0 (by decide) ((s.zeroized_outranked 8).trans ho),
    State.enterReset_taken_none _ 0 (by decide)⟩
  · rw [State.enterReset_pwt _ 0 (by decide)]
    obtain ⟨-, -, -, hpwt, -⟩ := s.zeroizeNow.zeroNoted_keeps
    rw [State.zeroized, hpwt, State.zeroizeNow_pwt]
    rfl
  · obtain ⟨-, -, -, -, hvlt, -⟩ := s.zeroizeNow.zeroNoted_keeps
    rw [State.slot, State.enterReset_slots _ 0 (by decide), State.zeroized, hvlt, State.zeroizeNow_slots, eraseSlots_none]
    exact getD_replicate_none 64 i

theorem exec_zeroize_window (h : PageOpen s .vlt m) : exec (.zeroize (.window m v)) s = .next ((s.zeroizeReg m v).answer .done) :=
  congrArg Host.Outcome.next (State.writeAt_open h _ _ _)

theorem exec_zeroize_mailbox (h : Ready s 0x0902 tag k) : exec (.zeroize (.mbx tag)) s = .next s.zeroize := congrArg Host.Outcome.next (State.withCmd_ready h _)

/-! ### Self-tests (R387, R389) -/

theorem exec_selftest_window (h : PageOpen s .vlt m) (hv : fld v 0 8 = 1) : exec (.selftest (.window m v)) s = .next ((s.opCmd m v .ecb []).answer .done) :=
  congrArg Host.Outcome.next ((State.writeAt_open h _ _ _).trans (by rw [if_pos hv]))

theorem State.opCmd_selftest (hv : fld v 0 8 = 1) (hg : tst v 31 = true) : s.opCmd .svc v .ecb [] =
    if s.cryError then s.opStat vErrorState 0 else (s.testRequest.1.opStat (if s.testRequest.2 then vOk else vDenied) 0).irq .vlt 0 := by
  unfold State.opCmd
  rw [if_neg (by simp), if_neg (by simp [hg]), if_pos hv]

theorem State.opStat_word (s : State) {status : Nat} (h : status < 128) : (s.opStat status 0).rf R.vlt_OP_STAT 8 7 = status ∧ (s.opStat status 0).rb R.vlt_OP_STAT 1 = true := by
  have bits : ∀ a < 2, ∀ status < 128, fld (w32 (2 + status * 2 ^ 8 + a * 2 ^ 15 + 0 * 2 ^ 16)) 8 7 = status ∧ tst (w32 (2 + status * 2 ^ 8 + a * 2 ^ 15 + 0 * 2 ^ 16)) 1 = true := by
    intro a ha status hs
    rw [tst_eq_fld]
    simp only [fld, w32, BitVec.toNat_ofNat, decide_eq_true_eq]
    omega
  have hb : b2n s.approvedInd < 2 := by cases s.approvedInd <;> decide
  rw [State.rf, State.rb, State.opStat, State.rd_wr_same]
  exact bits _ hb _ h

theorem State.testRequest_free (hw : s.cry.wait = none) (hr : s.cry.run = none) : s.testRequest = ({ s with cry := { s.cry with wait := some s.tick } }, true) := by
  simp [State.testRequest, hw, hr]

theorem State.testRequest_busy (h : s.cry.wait.isSome = true ∨ s.cry.run.isSome = true) : s.testRequest = (s.err .cry 0x81 0x48 .block, false) := if_pos (by simpa using h)

theorem selftest_window (h : PageOpen s .vlt m) (hv : fld v 0 8 = 1) (hg : tst v 31 = true) :
    (m ≠ .svc → (∃ t, exec (.selftest (.window m v)) s = .next t ∧ t = (s.err .vlt 0x80 0x58 m).answer .done ∧ t.cry = s.cry)) ∧
    (m = .svc → s.cryError = true → (∃ t, exec (.selftest (.window m v)) s = .next t ∧ t = (s.opStat vErrorState 0).answer .done ∧ t.cry = s.cry ∧ t.rf R.vlt_OP_STAT 8 7 = vErrorState)) ∧
    (m = .svc → s.cryError = false → s.cry.wait = none → s.cry.run = none → ∃ t, exec (.selftest (.window m v)) s = .next t ∧ t.cry.wait = some s.tick ∧ t.resp = .done ∧
      t.rf R.vlt_OP_STAT 8 7 = vOk ∧ t.rb R.vlt_OP_STAT 1 = true ∧ t.rb (hdr .vlt oRaw) 0 = true ∧ ChangesOnly (touches (.selftest (.window m v))) s t) ∧
    (m = .svc → s.cryError = false → s.cry.wait.isSome = true ∨ s.cry.run.isSome = true → ∃ t, exec (.selftest (.window m v)) s = .next t ∧ t.cry = s.cry ∧
      t.rf R.vlt_OP_STAT 8 7 = vDenied) := by
  have hx := exec_selftest_window h hv
  have past (t : State) : ((t.irq .vlt 0).answer .done).rd R.vlt_OP_STAT = t.rd R.vlt_OP_STAT := State.irq_rd_past _ _ _ (by decide)
  refine ⟨fun hm => ⟨_, hx, by rw [State.opCmd_other hm], by rw [State.opCmd_other hm, State.answer_cry, State.err_cry]⟩, fun hm he => ?_, fun hm he hw hr => ?_, fun hm he hb => ?_⟩
  · subst hm
    rw [State.opCmd_selftest hv hg, if_pos he] at hx
    exact ⟨_, hx, rfl, rfl, (s.opStat_word (by decide)).1⟩
  · subst hm
    rw [State.opCmd_selftest hv hg, he, if_neg Bool.false_ne_true, State.testRequest_free hw hr, if_pos rfl] at hx
    have hchange := (exec_goes hx).1
    obtain ⟨hstat, hdone⟩ := State.opStat_word ({ s with cry := { s.cry with wait := some s.tick } } : State) (status := vOk) (by decide)
    exact ⟨_, hx, by rw [State.answer_cry, State.irq_cry]; rfl, rfl, (State.rf_congr (past _) 8 7).trans hstat, (State.rb_congr (past _) 1).trans hdone,
      State.irq_raises _ .vlt (by decide) (by decide), hchange⟩
  · subst hm
    rw [State.opCmd_selftest hv hg, he, if_neg Bool.false_ne_true, State.testRequest_busy hb, if_neg Bool.false_ne_true] at hx
    exact ⟨_, hx, by rw [State.answer_cry, State.irq_cry]; exact State.err_cry _ _ _ _ _, (State.rf_congr (past _) 8 7).trans (State.opStat_word _ (by decide)).1⟩

theorem exec_selftest_mailbox (h : Ready s 0x0901 tag k) : exec (.selftest (.mbx tag)) s = .next (if s.cryError then s.vltReply k vErrorState [] []
    else if s.testRequest.2 then s.testRequest.1.vltReply k vOk [] [] else s.testRequest.1.reply k stBusy (toLe 4 vDenied) []) :=
  congrArg Host.Outcome.next (State.withCmd_ready h _)

theorem selftest_mailbox (h : Ready s 0x0901 tag k) : (s.cryError = true → (∃ t, exec (.selftest (.mbx tag)) s = .next t ∧ t = s.vltReply k vErrorState [] [] ∧ Ended k t)) ∧
    (s.cryError = false → s.cry.wait = none → s.cry.run = none →
      (∃ t, exec (.selftest (.mbx tag)) s = .next t ∧ t = ({ s with cry := { s.cry with wait := some s.tick } } : State).vltReply k vOk [] [] ∧ t.cry.wait = some s.tick ∧ Ended k t)) ∧
    (s.cryError = false → s.cry.wait.isSome = true ∨ s.cry.run.isSome = true → ∃ t, exec (.selftest (.mbx tag)) s = .next t ∧
      t = (s.err .cry 0x81 0x48 .block).reply k stBusy (toLe 4 vDenied) [] ∧ Ended k t) := by
  have hx := exec_selftest_mailbox h
  refine ⟨fun he => ⟨_, hx, if_pos he, by rw [if_pos he]; exact State.reply_ended _ _ _ _ _⟩, fun he hw hr => ?_, fun he hb => ?_⟩
  · rw [he, if_neg Bool.false_ne_true, State.testRequest_free hw hr, if_pos rfl] at hx
    exact ⟨_, hx, rfl, by rw [State.vltReply, State.reply_cry], State.reply_ended _ _ _ _ _⟩
  · rw [he, if_neg Bool.false_ne_true, State.testRequest_busy hb, if_neg Bool.false_ne_true] at hx
    exact ⟨_, hx, rfl, State.reply_ended _ _ _ _ _⟩

end
/-! ### A run of tests (R388, R389) -/

section
variable {s : State}

/-- What the end of a run leaves in TEST_STAT. -/
def runWord (ok : Bool) (sel : Nat) : Word := w32 (b2n ok * 2 + b2n (!ok) * 4 + sel * 2 ^ 16)

theorem runWord_pass (ok : Bool) (sel : Nat) : tst (runWord ok sel) 1 = ok := by
  have h : (runWord ok sel).toNat / 2 % 2 = b2n ok := by
    simp only [runWord, w32, BitVec.toNat_ofNat]
    cases ok <;> simp only [b2n, Bool.not_true, Bool.not_false, Bool.false_eq_true, if_true, if_false] <;> omega
  rw [tst_eq_fld, fld, show 2 ^ 1 = 2 from rfl, h]
  cases ok <;> rfl

/-- The registers that the end of a run writes. -/
def State.runNoted (s : State) (r : TestRun) (delay : Nat) : State :=
  ((({ s with cry := { s.cry with run := none } } : State).wr R.cry_TEST_STAT (runWord r.failed.isNone r.sel)).wr R.cry_TEST_DELAY (w32 delay)).bump R.cry_TEST_RUNS 1

theorem State.runNoted_rd (s : State) (r : TestRun) (delay : Nat) : (s.runNoted r delay).rd R.cry_TEST_STAT = runWord r.failed.isNone r.sel ∧
    (s.runNoted r delay).rd R.cry_TEST_DELAY = w32 delay ∧ (s.runNoted r delay).rd R.cry_TEST_RUNS = s.rd R.cry_TEST_RUNS + 1 ∧
    (s.runNoted r delay).rd R.cry_CRY_IND = s.rd R.cry_CRY_IND := by
  unfold State.runNoted State.bump
  generalize hu : ({ s with cry := { s.cry with run := none } } : State) = u
  have hrd (a : Nat) : u.rd a = s.rd a := hu ▸ State.rd_congr rfl rfl a
  refine ⟨?_, ?_, ?_, ?_⟩
  · rw [State.rd_wr_ne _ _ (by decide), State.rd_wr_ne _ _ (by decide), State.rd_wr_same]
  · rw [State.rd_wr_ne _ _ (by decide), State.rd_wr_same]
  · rw [State.rd_wr_same, State.rd_wr_ne _ _ (by decide), State.rd_wr_ne _ _ (by decide), hrd]
    rfl
  · rw [State.rd_wr_ne _ _ (by decide), State.rd_wr_ne _ _ (by decide), State.rd_wr_ne _ _ (by decide), hrd]

/-- The end of a run: its words, its interrupt and event, and a drain that waited for it. -/
theorem State.testEnd_noted (s : State) (r : TestRun) (delay : Nat) : ∃ p, s.testEnd r delay = (if (((s.runNoted r delay).irq .cry 1).event 0xF902 0x190 p).draining .cry
    then (((s.runNoted r delay).irq .cry 1).event 0xF902 0x190 p).setDrained .cry else ((s.runNoted r delay).irq .cry 1).event 0xF902 0x190 p) := ⟨_, rfl⟩

theorem State.setDrained_cry (s : State) (b : Blk) : (s.setDrained b).cry = s.cry := (goes_setDrained s b rfl (.refl [.regs, .out, .pba] s)).1 .cry (by decide)

theorem State.setDrained_raw (s : State) {b : Blk} {i : Nat} (h : s.rb (hdr b oRaw) i = true) : (s.setDrained b).rb (hdr b oRaw) i = true := by
  unfold State.setDrained
  split
  · exact h
  · have hne : hdr b oRaw ≠ hdr b oStat := fun e => absurd ((hdr_mod b (show oRaw < 0x1000 by decide)).symm.trans ((congrArg (· % 0x1000) e).trans
      (hdr_mod b (show oStat < 0x1000 by decide)))) (by decide)
    exact State.irq_keeps_raw _ b 30 ((State.rb_congr (State.wb_rd_ne _ _ _ hne) i).trans h)

theorem State.testEnd_keeps (s : State) (r : TestRun) (delay : Nat) : (s.testEnd r delay).cry = { s.cry with run := none } ∧
    (∀ a, PastHeader a → a / 0x1000 ≠ 0x2A → a / 0x1000 ≠ 0x2E → (s.testEnd r delay).rd a = (s.runNoted r delay).rd a) ∧ (s.testEnd r delay).rb (hdr .cry oRaw) 1 = true := by
  obtain ⟨p, h⟩ := s.testEnd_noted r delay
  rw [h]
  generalize hu : ((s.runNoted r delay).irq .cry 1).event 0xF902 0x190 p = u
  have hcry : u.cry = { s.cry with run := none } := by
    rw [← hu, State.event_cry, State.irq_cry]
    rfl
  have hrd (a : Nat) (ha : PastHeader a) (h1 : a / 0x1000 ≠ 0x2A) (h2 : a / 0x1000 ≠ 0x2E) : u.rd a = (s.runNoted r delay).rd a := by
    rw [← hu]
    exact (State.event_pages _ _ _ _ a (by simp [h1, h2])).trans (State.irq_rd_past _ _ _ ha)
  have hraw : u.rb (hdr .cry oRaw) 1 = true := by
    rw [← hu]
    exact (State.rb_congr (State.event_pages _ _ _ _ _ (by decide)) 1).trans (State.irq_raises _ _ (by decide) (by decide))
  split
  · exact ⟨(State.setDrained_cry _ _).trans hcry, fun a ha h1 h2 => (State.setDrained_rd_past _ _ ha).trans (hrd a ha h1 h2), State.setDrained_raw _ hraw⟩
  · exact ⟨hcry, hrd, hraw⟩

theorem State.testGo_done {r : TestRun} (h : r.left = []) : s.testGo r = s.testEnd r (s.tick - r.start) := if_pos (by simp [h])

/-- A run with tests left goes on. -/
theorem State.testGo_left {r : TestRun} (h : r.left ≠ []) : s.testGo r = ({ s with cry := { s.cry with run := some r } } : State).wr R.cry_TEST_STAT
    (w32 (1 + (r.sel - (r.left.foldl (fun a t => a + 2 ^ t) 0)) * 2 ^ 16)) := if_neg (by simp [h])

theorem State.testGo_keeps (s : State) (r : TestRun) : (s.testGo r).cry.wait = s.cry.wait ∧ (s.testGo r).cryError = s.cryError ∧
    (r.left ≠ [] → (s.testGo r).cry.run = some r) ∧ (r.left = [] → (s.testGo r).cry.run = none) := by
  by_cases h : r.left = []
  · obtain ⟨hcry, hrd, -⟩ := s.testEnd_keeps r (s.tick - r.start)
    obtain ⟨-, -, -, hind⟩ := s.runNoted_rd r (s.tick - r.start)
    rw [State.testGo_done h, hcry]
    exact ⟨rfl, State.cryError_congr ((hrd _ (by decide) (by decide) (by decide)).trans hind), fun hn => absurd h hn, fun _ => rfl⟩
  · rw [State.testGo_left h]
    exact ⟨rfl, State.cryError_congr ((State.rd_wr_ne _ _ (by decide)).trans (State.rd_congr rfl rfl _)), fun _ => rfl, fun hn => absurd hn h⟩

/-! ### The selected tests run (R387, R388) -/

/-- A test is selected. -/
def picked (sel t : Nat) : Bool := decide (sel / 2 ^ t % 2 = 1)

/-- The tests of the vault that are selected and fail, in their order. -/
def badTests (sel : Nat) (fails : List Nat) : List Nat := [0, 1, 2, 3, 4, 5, 6, 7, 8, 13].filter fun t => picked sel t && fails.contains t

/-- A run asked for at a tick: its selection, the radio paths that it tests, and the first failure. -/
def askedRun (sel : Nat) (fails : List Nat) (t0 : Nat) : TestRun := ⟨sel, [9, 10, 11, 12].filter (picked sel), (badTests sel fails).head?, t0⟩

/-- The request that waited is taken. -/
def State.askTaken (s : State) : State := { s with cry := { s.cry with wait := none } }

/-- The first failure of a list of tests puts the module into the error state. -/
def State.firstFailed (s : State) : List Nat → State
  | t :: _ => s.cryFail t 3
  | [] => s

theorem exec_selftestRun {t0 : Nat} (fails : List Nat) (hw : s.cry.wait = some t0) (ht : s.tick ≠ t0) (hr : s.inReset .cry = false) (hd : s.drainBit .cry = false) :
    exec (.selftestRun fails) s = .next ((s.askTaken.firstFailed (badTests (s.rf R.cry_TEST_SEL 0 14) fails)).testGo (askedRun (s.rf R.cry_TEST_SEL 0 14) fails t0)) := by
  refine congrArg Host.Outcome.next ?_
  rw [hw]
  dsimp only
  rw [if_neg (by simp [hr, hd, ht])]
  rfl

theorem State.firstFailed_keeps (s : State) (l : List Nat) : (s.firstFailed l).cry = s.cry ∧ (l = [] → (s.firstFailed l).cryError = s.cryError) ∧
    (l ≠ [] → (s.firstFailed l).cryError = true) := by
  cases l with
  | nil => exact ⟨rfl, fun _ => rfl, fun h => absurd rfl h⟩
  | cons t l => exact ⟨(goes_cryFail s t 3 rfl (.refl [.regs, .out, .mbx, .ldg, .pba] s)).1 .cry (by decide), nofun, fun _ => s.cryFail_error t 3⟩

/-- The failing tests of the vault are those that are selected and named, of 0 to 8 and 13. -/
theorem mem_badTests {sel n : Nat} {fails : List Nat} : n ∈ badTests sel fails ↔ (n < 9 ∨ n = 13) ∧ sel / 2 ^ n % 2 = 1 ∧ n ∈ fails := by
  have hn : n ∈ [0, 1, 2, 3, 4, 5, 6, 7, 8, 13] ↔ n < 9 ∨ n = 13 := by
    simp only [List.mem_cons, List.not_mem_nil, or_false]
    omega
  rw [badTests, List.mem_filter, hn]
  simp [picked]

theorem selftestRun_runs {t0 : Nat} (fails : List Nat) (hw : s.cry.wait = some t0) (ht : s.tick ≠ t0) (hr : s.inReset .cry = false) (hd : s.drainBit .cry = false) :
    ∃ t, exec (.selftestRun fails) s = .next t ∧ t.cry.wait = none ∧
    ((∀ n, n < 14 → n < 9 ∨ n = 13 → s.rf R.cry_TEST_SEL 0 14 / 2 ^ n % 2 = 1 → n ∉ fails) → t.cryError = s.cryError) ∧
    (∀ n, n < 9 → s.rf R.cry_TEST_SEL 0 14 / 2 ^ n % 2 = 1 → n ∈ fails → t.cryError = true) ∧ ChangesOnly (touches (.selftestRun fails)) s t := by
  have hx := exec_selftestRun fails hw ht hr hd
  obtain ⟨hcry, hnone, hsome⟩ := s.askTaken.firstFailed_keeps (badTests (s.rf R.cry_TEST_SEL 0 14) fails)
  obtain ⟨hwait, herr, -⟩ := (s.askTaken.firstFailed (badTests (s.rf R.cry_TEST_SEL 0 14) fails)).testGo_keeps (askedRun (s.rf R.cry_TEST_SEL 0 14) fails t0)
  refine ⟨_, hx, hwait.trans (by rw [hcry]; rfl), fun h => ?_, fun n hn hs hf => ?_, (exec_goes hx).1⟩
  · have hb : badTests (s.rf R.cry_TEST_SEL 0 14) fails = [] := by
      refine List.eq_nil_iff_forall_not_mem.mpr fun n hm => ?_
      obtain ⟨hn, hs, hf⟩ := mem_badTests.mp hm
      exact h n (by omega) hn hs hf
    exact herr.trans (hnone hb)
  · refine herr.trans (hsome fun hb => ?_)
    have hm := mem_badTests.mpr ⟨.inl hn, hs, hf⟩
    rw [hb] at hm
    cases hm

theorem selftestRun_none (fails : List Nat) (h : s.cry.wait = none ∨ s.cry.wait = some s.tick ∨ s.inReset .cry = true ∨ s.drainBit .cry = true) :
    exec (.selftestRun fails) s = .next s := by
  refine congrArg Host.Outcome.next ?_
  split
  · rfl
  · next t0 hw =>
    refine if_pos ?_
    rcases h with h | h | h | h
    · rw [h] at hw; cases hw
    · rw [h] at hw; cases hw; simp
    · simp [h]
    · simp [h]

/-! ### The tests of the radio paths -/

theorem radioPathTest_none (r : Fin 4) (b : Bool) (h : s.cry.run = none) : exec (.radioPathTest r b) s = .next s := by
  refine congrArg Host.Outcome.next ?_
  rw [h]

theorem exec_radioPathTest (r : Fin 4) (b : Bool) {x : TestRun} (h : s.cry.run = some x) : exec (.radioPathTest r b) s = .next (if !x.left.contains (9 + r.val) then s
    else if b then s.testGo { x with left := x.left.filter fun z => z != 9 + r.val }
    else (s.cryFail (9 + r.val) 3).testGo ({ x with left := x.left.filter fun z => z != 9 + r.val }.fail (9 + r.val))) := by
  refine congrArg Host.Outcome.next ?_
  rw [h]

theorem radioPathTest_ends (r : Fin 4) {x y : TestRun} (h : s.cry.run = some x) (hm : 9 + r.val ∈ x.left) (hy : y = { x with left := x.left.filter fun z => z != 9 + r.val }) :
    (∃ t, exec (.radioPathTest r true) s = .next t ∧ t = s.testGo y ∧ (y.left ≠ [] → t.cry.run = some y) ∧ (y.left = [] → t.cry.run = none) ∧ t.cryError = s.cryError) ∧
    (∃ t, exec (.radioPathTest r false) s = .next t ∧ t = (s.cryFail (9 + r.val) 3).testGo (y.fail (9 + r.val)) ∧ t.cryError = true) := by
  have hx (b : Bool) := exec_radioPathTest r b h
  simp only [if_neg (show ¬ (!x.left.contains (9 + r.val)) = true by simp [hm]), ← hy] at hx
  obtain ⟨-, herr, hleft, hdone⟩ := s.testGo_keeps y
  exact ⟨⟨_, hx true, rfl, hleft, hdone, herr⟩, ⟨_, hx false, rfl, ((State.testGo_keeps _ _).2.1).trans (s.cryFail_error _ _)⟩⟩

/-! ### The DRBG (R381) -/

theorem drbgReseed_notDue (b : Bool) (h : s.vlt.drbg = none ∨ ∃ d, s.vlt.drbg = some d ∧ d.since < s.rf R.cry_DRBG_CFG 0 16) : exec (.drbgReseed b) s = .next s := by
  refine congrArg Host.Outcome.next ?_
  rcases h with h | ⟨d, h, hs⟩
  · rw [h]
  · rw [h]
    exact if_pos hs

theorem State.drbgReseed_drbg {d : Drbg} (h : s.vlt.drbg = some d) : s.drbgReseed.vlt.drbg.map (fun x => (x.since, x.seeds)) = some (0, (d.seeds + 1) % 65536) := by
  simp [State.drbgReseed, h, drbgSeed]

theorem drbgReseed_due (b : Bool) {d : Drbg} (h : s.vlt.drbg = some d) (hs : s.rf R.cry_DRBG_CFG 0 16 ≤ d.since) : ∃ t, exec (.drbgReseed b) s = .next t ∧
    t = (if b then s.drbgReseed else s.drbgReseed.cryFail 5 2) ∧ t.vlt.drbg.map (fun x => (x.since, x.seeds)) = some (0, (d.seeds + 1) % 65536) ∧ (b = false → t.cryError = true) := by
  have hx : exec (.drbgReseed b) s = .next (if b then s.drbgReseed else s.drbgReseed.cryFail 5 2) := by
    refine congrArg Host.Outcome.next ?_
    rw [h]
    exact if_neg (by omega)
  cases b
  · have hv : (s.drbgReseed.cryFail 5 2).vlt = s.drbgReseed.vlt := (goes_cryFail _ 5 2 rfl (.refl [.regs, .out, .mbx, .ldg, .pba] _)).1 .vlt (by decide)
    exact ⟨_, hx, rfl, by rw [if_neg Bool.false_ne_true, hv, State.drbgReseed_drbg h], fun _ => State.cryFail_error _ 5 2⟩
  · exact ⟨_, hx, rfl, State.drbgReseed_drbg h, nofun⟩

/-! ### The error state and the debug port (R390, R392) -/

theorem State.cryFail_fields (s : State) {t k : Nat} (ht : t < 32) (hk : k < 4) : (s.cryFail t k).cryError = true ∧ (s.cryFail t k).rf R.cry_CRY_IND 8 5 = t ∧
    (s.cryFail t k).rf R.cry_CRY_IND 14 2 = k ∧ (s.cryFail t k).approvedInd = false := by
  refine ⟨s.cryFail_error t k, ?_, ?_, by rw [State.approvedInd, s.cryFail_error]; simp⟩
  · rw [State.rf_congr (s.cryFail_word t k), State.wf_rf_ne _ _ _ (by decide) (by decide), State.wf_rf_same _ _ _ (by decide)]
    omega
  · rw [State.rf_congr (s.cryFail_word t k), State.wf_rf_same _ _ _ (by decide)]
    omega

theorem tapInstruction_counts (h : s.vlt.approved = true ∨ s.vlt.debug = false) : ∃ t, exec (.tapInstruction .other) s = .next t ∧
    t = s.wf R.cry_DBG_STAT 16 16 (min (s.rf R.cry_DBG_STAT 16 16 + 1) 65535) ∧ t.rf R.cry_DBG_STAT 16 16 = min (s.rf R.cry_DBG_STAT 16 16 + 1) 65535 := by
  refine ⟨_, congrArg Host.Outcome.next (if_neg (by rcases h with h | h <;> simp [h])), rfl, ?_⟩
  rw [State.wf_rf_same _ _ _ (by decide)]
  omega

end

/-- Settles O53, command by command. -/
theorem selfTestsZeroizationAndDebugPort : Obligations.SelfTestsZeroizationAndDebugPort := by
  unfold Obligations.SelfTestsZeroizationAndDebugPort
  refine ⟨fun m v s h hv hg => selftest_window h hv hg, fun tag k s h => selftest_mailbox h, fun fs s h => selftestRun_none fs h,
    fun fs t0 s hw ht hr hd => selftestRun_runs fs hw ht hr hd, fun r b s h => radioPathTest_none r b h, ?_, fun r x s h hm => radioPathTest_ends r h hm rfl, ?_,
    fun b s h => drbgReseed_notDue b (.inl h), fun b d s h => ⟨fun hs => drbgReseed_notDue b (.inr ⟨d, h, hs⟩), drbgReseed_due b h⟩,
    fun t k s ht hk => s.cryFail_fields ht hk, ?_, ?_, ?_⟩
  · intro r b x s h hm
    rw [exec_radioPathTest r b h, if_pos (by simpa using hm)]
  · intro x s h
    obtain ⟨hcry, hrd, hraw⟩ := s.testEnd_keeps x (s.tick - x.start)
    obtain ⟨hstat, hdelay, hruns, -⟩ := s.runNoted_rd x (s.tick - x.start)
    rw [State.testGo_done h]
    refine ⟨by rw [hcry], ?_, (hrd _ (by decide) (by decide) (by decide)).trans hdelay, (hrd _ (by decide) (by decide) (by decide)).trans hruns, hraw⟩
    rw [State.rb, hrd _ (by decide) (by decide) (by decide), hstat, runWord_pass]
  · intro m v s h
    refine ⟨fun hk hg ho => ?_, fun hk => ?_⟩
    · have hz : s.zeroizeReg m v = s.zeroize := if_pos ⟨hk, hg⟩
      obtain ⟨hrs, hslots, hstage, hcause, -⟩ := State.zeroize_clears ho
      rw [exec_zeroize_window h, hz]
      exact ⟨_, rfl, hrs, decide_eq_false (by simpa using hrs), hslots, hstage, hcause, rfl⟩
    · have hz : s.zeroizeReg m v = s.err .vlt eBadKey 0x74 m := if_neg fun e => hk e.1
      rw [exec_zeroize_window h, hz]
      exact ⟨_, rfl, rfl, by rw [State.answer_pwt, State.err_pwt]⟩
  · intro tag k s h ho
    obtain ⟨hrs, hslots, hstage, hcause, htaken⟩ := State.zeroize_clears ho
    exact ⟨_, exec_zeroize_mailbox h, hrs, hslots, hstage, hcause, htaken⟩
  · refine fun s => ⟨rfl, rfl, fun ha hd => congrArg Host.Outcome.next (if_pos (by simp [ha, hd])), tapInstruction_counts⟩

end Sys2Proof.Machine
end

section
/-! SUPPORT. Frames that a module originates for the ring. -/

namespace Sys2Proof.Machine

open Sys2Proof

/-! ### Originating a frame (R418, R419, R422) -/

theorem foldl_emit_goes (l : List Out) (s : State) : Goes [.out] s (l.foldl (fun (t : State) o => t.emit o) s) :=
  Goes.foldl (fun t o h => goes_emit t o rfl h) (.refl _ s)

/-- A frame that leaves is counted, and its number is used up. -/
def State.ringNoted (s : State) : State := { s with ibg := { s.ibg with sent := s.ibg.sent + 1 } }.bumpSat R.ibg_TX_FRAMES 1

theorem State.ringNoted_ibg (s : State) : s.ringNoted.ibg = { s.ibg with sent := s.ibg.sent + 1 } := rfl

theorem State.ringNoted_pages (s : State) : PagesOnly [0x2B] s s.ringNoted := PagesOnly.trans (.set rfl rfl) (State.bumpSat_pages _ 1 (by decide))

/-- The frame of a kind is sealed with the ring key. -/
def State.ringAuth (s : State) (kind : Nat) : Bool := kindAlways kind || (kindKeyed kind && s.ringKey.isSome)

/-- A module sends nothing while IBG stands, nothing sealed without a key, and without a position only DISCOVER. -/
def State.ringMute (s : State) (kind : Nat) : Bool :=
  !s.ibgRuns || (s.ringAuth kind && s.ringKey.isNone) || (s.ringFull && decide (kind ≠ 1))

theorem State.ringOut_cases (s : State) (ports : List Bool) (kind dpos : Nat) (pay : Bytes) :
    ∃ l : List Out, s.ringOut ports kind dpos pay = if s.ringMute kind then s else l.foldl (fun (t : State) o => t.emit o) s.ringNoted :=
  ⟨_, rfl⟩

theorem State.ringOut_pages (s : State) (ports : List Bool) (kind dpos : Nat) (pay : Bytes) : PagesOnly [0x2B] s (s.ringOut ports kind dpos pay) := by
  obtain ⟨l, hl⟩ := s.ringOut_cases ports kind dpos pay
  rw [hl]
  exact .ite (.refl _ s) (s.ringNoted_pages.trans fun a _ => (foldl_emit_goes l _).rd (by decide) (by decide) a)

theorem State.ringOut_numbers {s : State} {kind : Nat} (ports : List Bool) (dpos : Nat) (pay : Bytes) (hm : s.ringMute kind = false) :
    (s.ringOut ports kind dpos pay).ibg = { s.ibg with sent := s.ibg.sent + 1 } := by
  obtain ⟨l, hl⟩ := s.ringOut_cases ports kind dpos pay
  rw [hl, if_neg (by simp [hm])]
  exact (foldl_emit_goes l _).1 .ibg (by decide)

/-- A module with a position and a ring key sends each kind. -/
theorem State.ringMute_keyed {s : State} (kind : Nat) (hr : s.ibgRuns = true) (hf : s.ringFull = false) (hk : s.ringKey ≠ none) : s.ringMute kind = false := by
  obtain ⟨k, hk⟩ := Option.ne_none_iff_exists'.mp hk
  simp [State.ringMute, hr, hf, hk]

section
variable (s : State) (kind dpos : Nat) (pay : Bytes)

theorem State.ringSend_pages : PagesOnly [0x2B] s (s.ringSend kind dpos pay) := s.ringOut_pages _ _ _ _

theorem State.ringSend_goes : Goes [.regs, .out, .ibg] s (s.ringSend kind dpos pay) := goes_ringSend s kind dpos pay rfl (.refl _ s)

@[simp] theorem State.ringSend_rmc : (s.ringSend kind dpos pay).rmc = s.rmc := (s.ringSend_goes kind dpos pay).1 .rmc (by decide)

@[simp] theorem State.ringSend_lvl : (s.ringSend kind dpos pay).lvl = s.lvl := (s.ringSend_goes kind dpos pay).1 .lvl (by decide)

end

theorem State.ringSend_numbers {s : State} (kind dpos : Nat) (pay : Bytes) (hr : s.ibgRuns = true) (hf : s.ringFull = false) (hk : s.ringKey ≠ none) :
    (s.ringSend kind dpos pay).ibg.sent = s.ibg.sent + 1 :=
  congrArg Ibg.sent (State.ringOut_numbers _ dpos pay (State.ringMute_keyed kind hr hf hk))

/-! ### Taking a waiting frame -/

section
variable {s t : State} {x : RingRx} {kind : Nat} (f : RingRx → State → State)

theorem State.onRing_some (h : s.ringTake kind = some (x, t)) : s.onRing kind f = f x t := by
  rw [State.onRing, h]

theorem State.onRing_none (h : s.ringTake kind = none) : s.onRing kind f = s := by
  rw [State.onRing, h]

end

end Sys2Proof.Machine
end

section
/-! PROOFS. Ring-wide mode changes. -/

namespace Sys2Proof.Machine

open Sys2Proof

/-! ### The decisions that a module keeps (R283) -/

section
variable (s : State) (id : Nat) (commit : Bool) (who : Nat)

theorem State.keepDecision_knownOf : (s.keepDecision id commit).knownOf id = some ((s.knownOf id).getD commit) := by
  unfold State.keepDecision
  split
  · next h => obtain ⟨d, hd⟩ := Option.isSome_iff_exists.mp h; rw [hd]; rfl
  · next h =>
    rw [Option.not_isSome_iff_eq_none.mp h]
    simp [State.knownOf]

theorem State.keepDecision_own : (s.keepDecision id commit).rmc.coord = s.rmc.coord ∧ (s.keepDecision id commit).rmc.part = s.rmc.part := by
  unfold State.keepDecision
  split <;> exact ⟨rfl, rfl⟩

theorem State.keepDecision_lvl : (s.keepDecision id commit).lvl = s.lvl := (goes_keepDecision s id commit rfl (.refl [.rmc] s)).1 .lvl (by decide)

theorem State.keepDecision_rd (a : Nat) : (s.keepDecision id commit).rd a = s.rd a := (goes_keepDecision s id commit rfl (.refl [.rmc] s)).rd (by decide) (by decide) a

/-! ### Learning a decision (R284) -/

/-- The state of the change, its interrupt and its event, as the decision arrives. -/
def State.ringSettled : State :=
  ((s.wf R.lvl_RING_STAT 0 3 (if commit then 2 else 3)).irq .lvl 5).fwEvent 0xF501 (blkSrc .lvl) (toLe 4 id ++ toLe 1 (if commit then 1 else 2) ++ toLe 1 who)

theorem State.ringSettled_ringSt : (s.ringSettled id commit who).ringSt = if commit then 2 else 3 := by
  have h := ((State.fwEvent_pages _ _ _ _).after fun a _ => rfl : PagesOnly [0x2A, 0x2E] _ (s.ringSettled id commit who)) R.lvl_RING_STAT (by decide)
  refine (State.rf_congr (h.trans (State.irq_rd_past _ _ _ (by decide))) 0 3).trans ((s.wf_rf_same _ _ (by decide)).trans ?_)
  cases commit <;> rfl

theorem State.ringSettled_raises : (s.ringSettled id commit who).rb (hdr .lvl oRaw) 5 = true :=
  (State.rb_congr (State.fwEvent_pages _ _ _ _ _ (by decide)) 5).trans (State.irq_raises _ .lvl (by decide) (by decide))

theorem State.ringSettled_goes : Goes [.regs, .out, .mbx, .ldg, .pba] s (s.ringSettled id commit who) :=
  goes_fwEvent _ _ _ _ rfl (goes_irq _ _ _ rfl (goes_wf s _ _ _ _ rfl (.refl _ s)))

end

theorem State.unprepareMode_pages (s : State) (m : SegMode) : PagesOnly [0x19] s (s.unprepareMode m) := by
  unfold State.unprepareMode
  extract_lets u
  have hu : PagesOnly [0x19] s u := .ite (s.wr_pages _ (by decide)) (.refl _ s)
  exact .ite (hu.trans (.set rfl rfl)) hu

theorem State.replyTag_pages (s : State) (tag : Option Word) (status : Nat) : PagesOnly [0x2E] s (s.replyTag tag status) := by
  unfold State.replyTag
  split
  · exact .refl _ s
  · split
    · exact s.reply_pages _ _ _ _
    · exact .refl _ s

theorem State.cancelAnn_pages (s : State) : PagesOnly [0x19, 0x2E] s s.cancelAnn.1 := by
  unfold State.cancelAnn
  split
  · exact .refl _ s
  · extract_lets first left x v u
    split
    · exact .refl _ s
    · exact ((State.replyTag_pages _ _ _).mono (by decide)).after (((u.unprepareMode_pages _).mono (by decide)).after (.set rfl rfl))

/-- A withdrawn change leaves what LVL says of the ring. -/
theorem State.ringDrop_pages (s : State) : PagesOnly [0x19, 0x2E] s s.ringDrop := by
  unfold State.ringDrop
  split
  · exact .refl _ s
  · exact .ite (.refl _ s) (.ite (((State.unprepareMode_pages _ _).mono (by decide)).after (.set rfl rfl)) s.cancelAnn_pages)

theorem State.ringDrop_goes (s : State) : Goes [.regs, .out, .mbx, .chn, .lvl, .pba] s s.ringDrop := goes_ringDrop s rfl (.refl _ s)

/-- The decision is of the change that this module makes or takes part in. -/
def State.ringMine (s : State) (id : Nat) : Bool :=
  (match s.rmc.coord with | some c => decide (c.id = id) | none => false) || (match s.rmc.part with | some p => decide (p.id = id) | none => false)

/-- What follows where a module learns the decision of its own change. -/
def State.ringLearned (s : State) (st id : Nat) (commit : Bool) (who : Nat) : State :=
  let t := s.ringSettled id commit who
  if !commit then t.ringDrop
  else if st = 4 then (match t.ringAnn with | some a => t.ringLate a id | none => t)
  else t

theorem State.ringLearn_eq (s : State) (id : Nat) (commit : Bool) (who : Nat) : s.ringLearn id commit who =
    if !(s.keepDecision id commit).ringMine id || (decide ((s.keepDecision id commit).ringSt ≠ 1) && decide ((s.keepDecision id commit).ringSt ≠ 4))
    then s.keepDecision id commit
    else (s.keepDecision id commit).ringLearned (s.keepDecision id commit).ringSt id commit who := rfl

theorem Goes.mono {V W : List Part} {s t : State} (h : Goes V s t) (hs : ∀ p ∈ V, p ∈ W) : Goes W s t := ⟨h.1.mono hs, h.2⟩

theorem State.ringLearned_goes (s : State) (st id : Nat) (commit : Bool) (who : Nat) :
    Goes [.regs, .out, .mbx, .ldg, .chn, .lvl, .pba] s (s.ringLearned st id commit who) := by
  have ht : Goes [.regs, .out, .mbx, .ldg, .chn, .lvl, .pba] s (s.ringSettled id commit who) := (s.ringSettled_goes id commit who).mono (by decide)
  refine .ite (goes_ringDrop _ rfl ht) (.ite ?_ ht)
  split
  · exact goes_ringLate _ _ _ rfl ht
  · exact ht

theorem State.ringLearn_rmc (s : State) (id : Nat) (commit : Bool) (who : Nat) : (s.ringLearn id commit who).rmc = (s.keepDecision id commit).rmc := by
  rw [State.ringLearn_eq]
  split
  · rfl
  · exact (State.ringLearned_goes _ _ id commit who).1 .rmc (by decide)

theorem State.knownOf_congr {s t : State} (h : t.rmc = s.rmc) (id : Nat) : t.knownOf id = s.knownOf id := by
  rw [State.knownOf, h, State.knownOf]

theorem State.ringLearn_knownOf (s : State) (id : Nat) (commit : Bool) (who : Nat) :
    (s.ringLearn id commit who).knownOf id = some ((s.knownOf id).getD commit) :=
  (State.knownOf_congr (s.ringLearn_rmc id commit who) id).trans (s.keepDecision_knownOf id commit)

/-- The decision of a change that is not the module's own is kept, and nothing else changes. -/
theorem State.ringLearn_foreign {s : State} (id : Nat) (commit : Bool) (who : Nat) (hc : s.rmc.coord = none) (hp : s.rmc.part = none) :
    s.ringLearn id commit who = s.keepDecision id commit := by
  obtain ⟨hcoord, hpart⟩ := s.keepDecision_own id commit
  rw [State.ringLearn_eq, State.ringMine, hcoord, hpart, hc, hp]
  rfl

/-- A prepared participant learns the decision. -/
theorem State.ringLearn_prepared {s : State} {p : RingPart} (commit : Bool) (who : Nat) (hp : s.rmc.part = some p) (hs : s.ringSt = 1) :
    s.ringLearn p.id commit who = (s.keepDecision p.id commit).ringLearned 1 p.id commit who := by
  obtain ⟨-, hpart⟩ := s.keepDecision_own p.id commit
  have hst : (s.keepDecision p.id commit).ringSt = 1 := (State.rf_congr (s.keepDecision_rd p.id commit _) 0 3).trans hs
  rw [State.ringLearn_eq, if_neg (by simp [State.ringMine, hpart, hp, hst]), hst]

theorem State.ringLearned_commit (s : State) (id who : Nat) : s.ringLearned 1 id true who = s.ringSettled id true who := rfl

theorem State.ringLearned_abort (s : State) (id who : Nat) : s.ringLearned 1 id false who = (s.ringSettled id false who).ringDrop := rfl

theorem State.ringLearned_prepared (s : State) (id : Nat) (commit : Bool) (who : Nat) :
    (s.ringLearned 1 id commit who).ringSt = (if commit then 2 else 3) ∧ (s.ringLearned 1 id commit who).rb (hdr .lvl oRaw) 5 = true := by
  have hst := s.ringSettled_ringSt id commit who
  have hraw := s.ringSettled_raises id commit who
  cases commit with
  | true => exact ⟨hst, hraw⟩
  | false =>
    have hd := (s.ringSettled id false who).ringDrop_pages
    exact ⟨(State.rf_congr (hd _ (by decide)) 0 3).trans hst, (State.rb_congr (hd _ (by decide)) 5).trans hraw⟩

/-! ### Taking a decision (R283, R441) -/

/-- What a decision frame does beyond what is learned: a participant confirms. -/
theorem State.takeDecision_kept (s : State) (x : RingRx) (commit : Bool) :
    Goes [.regs, .out, .ibg] (s.ringLearn (le x.pay 0 4) commit (byteAt x.pay 4)) (s.takeDecision x commit) ∧
    PagesOnly [0x2B] (s.ringLearn (le x.pay 0 4) commit (byteAt x.pay 4)) (s.takeDecision x commit) := by
  unfold State.takeDecision
  extract_lets id t
  split
  · split
    · exact ⟨t.ringSend_goes _ _ _, t.ringSend_pages _ _ _⟩
    · exact ⟨.refl _ t, .refl _ t⟩
  · exact ⟨.refl _ t, .refl _ t⟩

theorem State.takeDecision_knownOf (s : State) (x : RingRx) (commit : Bool) :
    (s.takeDecision x commit).knownOf (le x.pay 0 4) = some ((s.knownOf (le x.pay 0 4)).getD commit) :=
  (State.knownOf_congr ((s.takeDecision_kept x commit).1.1 .rmc (by decide)) _).trans (s.ringLearn_knownOf _ _ _)

theorem State.takeDecision_prepared {s : State} {x : RingRx} {p : RingPart} (commit : Bool) (hp : s.rmc.part = some p) (hid : p.id = le x.pay 0 4) (hs : s.ringSt = 1) :
    (s.takeDecision x commit).ringSt = (if commit then 2 else 3) ∧ (s.takeDecision x commit).rb (hdr .lvl oRaw) 5 = true ∧
    (commit = true → (s.takeDecision x commit).lvl = s.lvl) := by
  obtain ⟨hg, hpg⟩ := s.takeDecision_kept x commit
  rw [← hid, State.ringLearn_prepared commit _ hp hs] at hg hpg
  obtain ⟨hst, hraw⟩ := (s.keepDecision p.id commit).ringLearned_prepared p.id commit (byteAt x.pay 4)
  refine ⟨(State.rf_congr (hpg _ (by decide)) 0 3).trans hst, (State.rb_congr (hpg _ (by decide)) 5).trans hraw, ?_⟩
  rintro rfl
  exact (hg.1 .lvl (by decide)).trans (((State.ringSettled_goes _ _ _ _).1 .lvl (by decide)).trans (s.keepDecision_lvl _ _))

/-- A decision of a change that this module has no part in is kept alone. -/
theorem State.takeDecision_foreign {s : State} (x : RingRx) (commit : Bool) (hp : s.rmc.part = none) (hc : s.rmc.coord = none) :
    s.takeDecision x commit = s.keepDecision (le x.pay 0 4) commit := by
  have hl := State.ringLearn_foreign (le x.pay 0 4) commit (byteAt x.pay 4) hc hp
  have hpart := (s.keepDecision_own (le x.pay 0 4) commit).2.trans hp
  unfold State.takeDecision
  extract_lets id t
  have ht : t = s.keepDecision id commit := hl
  rw [ht, hpart]

/-! ### The frames at their commands -/

theorem ringFrames_waitForNone : ∀ s : State, ∀ p ∈ [(0x20, Instr.prepare), (0x21, .ready), (0x22, .refuse), (0x23, .ringCommit), (0x24, .ringAbort), (0x25, .ringQuery), (0x26, .ringConfirm)],
    s.ringTake p.1 = none → exec p.2 s = .next s := by
  intro s p hp h
  simp only [List.mem_cons, List.not_mem_nil, or_false] at hp
  rcases hp with rfl | rfl | rfl | rfl | rfl | rfl | rfl <;> exact congrArg Host.Outcome.next (State.onRing_none _ h)

section
variable {s t u : State} {x : RingRx}

/-! ### A participant is asked (R283, R441) -/

/-- A PREPARE of a change that is already prepared here. -/
def State.preparedFor (t : State) (id : Nat) : Bool :=
  match t.rmc.part with | some q => decide (q.id = id) && decide (t.ringSt = 1) | none => false

/-- The answer to a PREPARE that was staged, or was not. -/
def State.prepareAnswer (u : State) (x : RingRx) : Option Nat → State
  | none => u.ringSend 0x21 x.spos (x.pay.take 4)
  | some e => u.ringSend 0x22 x.spos (x.pay.take 4 ++ toLe 1 e)

theorem exec_prepare (h : s.ringTake 0x20 = some (x, t)) : exec .prepare s = .next (
    if !t.isHead || t.inReset .lvl then t
    else if t.preparedFor (le x.pay 0 4) then t.ringSend 0x21 x.spos (x.pay.take 4)
    else (t.ringStage x).1.prepareAnswer x (t.ringStage x).2) := by
  refine congrArg Host.Outcome.next ((State.onRing_some _ h).trans ?_)
  refine congrArg (fun v : State => if !t.isHead || t.inReset .lvl then t
    else if t.preparedFor (le x.pay 0 4) then t.ringSend 0x21 x.spos (x.pay.take 4) else v) ?_
  rcases hst : t.ringStage x with ⟨v, _ | e⟩ <;> rfl

theorem exec_prepare_head (h : s.ringTake 0x20 = some (x, t)) (hh : t.isHead = true) (hr : t.inReset .lvl = false) : exec .prepare s = .next (
    if t.preparedFor (le x.pay 0 4) then t.ringSend 0x21 x.spos (x.pay.take 4) else (t.ringStage x).1.prepareAnswer x (t.ringStage x).2) :=
  (exec_prepare h).trans (congrArg Host.Outcome.next (if_neg (by simp [hh, hr])))

theorem State.preparedFor_other {id : Nat} (h : ∀ q, t.rmc.part = some q → q.id ≠ id) : t.preparedFor id = false := by
  unfold State.preparedFor
  split
  · next q hq => simp [h q hq]
  · rfl

/-- The change of a PREPARE, announced in t, is kept as the module's own. -/
def State.ringPart (t : State) (x : RingRx) (c : Nat) : State :=
  let t := t.ringPrepare x.spos (le x.pay 0 4) c
  { t with rmc := { t.rmc with part := t.lvl.ann.map fun a => ⟨le x.pay 0 4, x.spos, c, a⟩ } }

theorem State.ringStage_eq (s : State) (x : RingRx) : s.ringStage x =
    if s.lvl.ann.isSome || s.ringBusy then (s, some 1)
    else if !s.timeFor (leWord x.pay 16) then (s.noTime .lvl (leWord x.pay 16), some 2)
    else if !modeParamOk (slice x.pay 4 12) || decide (64 < byteAt x.pay 24) || decide (x.pay.length < 25 + 2 * byteAt x.pay 24) then (s, some 3)
    else match s.announce (prepMode x.pay) (s.fullTick (leWord x.pay 16)) none true with
      | (t, some _) => (t, some 3)
      | (t, none) => (t.ringPart x (s.fullTick (leWord x.pay 16)), none) := rfl

end

/-- What a head refuses to announce: an unknown operation, a C off the superframe or too near, a list it cannot hop. -/
def State.annBad (s : State) (m : SegMode) (c : Nat) : Bool :=
  decide (2 < m.op) || decide (c % 256 ≠ 0) || decide (c < s.tick + 9 * 256) || (match m.hop with | some l => !s.hopListOk l | none => false)

theorem State.announce_refused {s : State} {m : SegMode} {c : Nat} (tag : Option Word) (ring : Bool) (hn : s.lvl.ann = none) (h : s.annBad m c = true) :
    s.announce m c tag ring = (s, some eBadValue) :=
  (if_neg (by simp [hn])).trans (if_pos h)

/-- An announcement that is made stands. -/
theorem State.announce_ann {s t : State} {m : SegMode} {c : Nat} {tag : Option Word} {ring : Bool} (h : s.announce m c tag ring = (t, none)) :
    t.lvl.ann.isSome = true := by
  have hann : s.lvl.ann = none := by
    by_contra hne
    rw [State.announce_busy _ _ _ _ (Option.isSome_iff_ne_none.mpr hne)] at h
    exact absurd (congrArg Prod.snd h) (by simp)
  have hok : s.annBad m c = false := by
    by_contra hbad
    rw [State.announce_refused tag ring hann (by simpa using hbad)] at h
    exact absurd (congrArg Prod.snd h) (by simp)
  simp only [State.annBad, Bool.or_eq_false_iff, decide_eq_false_iff_not] at hok
  obtain ⟨⟨⟨hop, hc⟩, ht⟩, hl⟩ := hok
  obtain ⟨v, hv, ha⟩ := State.announce_keeps tag ring hann (Nat.not_lt.mp hop) (not_not.mp hc) (Nat.not_lt.mp ht)
    (fun l e => by rw [e] at hl; simpa using hl)
  rw [hv] at h
  obtain rfl := (Prod.mk.inj h).1
  rw [ha]
  rfl

theorem State.ringPrepare_ringSt (s : State) (coord id c : Nat) : (s.ringPrepare coord id c).ringSt = 1 := by
  have hw : fld (w32 (1 + coord % 8 * 16)) 0 3 = 1 := by
    rw [fld, w32, BitVec.toNat_ofNat, pow_zero, Nat.div_one]
    omega
  have hr : (s.ringPrepare coord id c).rd R.lvl_RING_STAT = w32 (1 + coord % 8 * 16) := by
    rw [State.ringPrepare, State.rd_wr_ne _ _ (by decide), State.rd_wr_ne _ _ (by decide), State.rd_wr_same]
  rw [State.ringSt, State.rf, hr, hw]

section
variable {s t u : State} {x : RingRx}

/-- A staged change is this module's own, prepared. -/
theorem State.ringStage_done (h : s.ringStage x = (u, none)) :
    u.ringSt = 1 ∧ u.rmc.part.map (fun q => (q.id, q.coord)) = some (le x.pay 0 4, x.spos) := by
  rw [State.ringStage_eq] at h
  split at h
  · exact absurd (congrArg Prod.snd h) (by simp)
  split at h
  · exact absurd (congrArg Prod.snd h) (by simp)
  split at h
  · exact absurd (congrArg Prod.snd h) (by simp)
  split at h
  · exact absurd (congrArg Prod.snd h) (by simp)
  · next v hv =>
    obtain ⟨a, ha⟩ := Option.isSome_iff_exists.mp (State.announce_ann hv)
    obtain rfl := (Prod.mk.inj h).1
    refine ⟨State.ringPrepare_ringSt v _ _ _, ?_⟩
    have hann : (v.ringPrepare x.spos (le x.pay 0 4) (s.fullTick (leWord x.pay 16))).lvl.ann = some a := ha
    rw [State.ringPart, hann]
    rfl

/-- A change that is refused leaves what the module keeps of ring changes. -/
theorem State.ringStage_refused {e : Nat} (h : s.ringStage x = (u, some e)) : u.rmc = s.rmc := by
  rw [State.ringStage_eq] at h
  split at h
  · rw [(Prod.mk.inj h).1]
  split at h
  · obtain rfl := (Prod.mk.inj h).1
    exact (goes_noTime s .lvl _ rfl (.refl [.regs, .out, .ldg, .pba] s)).1 .rmc (by decide)
  split at h
  · rw [(Prod.mk.inj h).1]
  split at h
  · next v e hv =>
    obtain rfl := (Prod.mk.inj h).1
    exact (goes_announce' s _ _ _ _ hv rfl (.refl [.regs, .out, .que, .ldg, .nvs, .rad, .chn, .lnk, .net, .lvl, .pba] s)).1 .rmc (by decide)
  · exact absurd (congrArg Prod.snd h) (by simp)

theorem State.ringStage_announced (h : s.lvl.ann.isSome = true ∨ s.ringBusy = true) : s.ringStage x = (s, some 1) :=
  (State.ringStage_eq s x).trans (if_pos (by simpa using h))

theorem State.ringStage_noTime (ha : s.lvl.ann = none) (hb : s.ringBusy = false) (ht : s.timeFor (leWord x.pay 16) = false) :
    s.ringStage x = (s.noTime .lvl (leWord x.pay 16), some 2) :=
  (State.ringStage_eq s x).trans ((if_neg (by simp [ha, hb])).trans (if_pos (by simp [ht])))

theorem State.ringStage_badMode (ha : s.lvl.ann = none) (hb : s.ringBusy = false) (ht : s.timeFor (leWord x.pay 16) = true)
    (hm : modeParamOk (slice x.pay 4 12) = false) : s.ringStage x = (s, some 3) :=
  (State.ringStage_eq s x).trans ((if_neg (by simp [ha, hb])).trans ((if_neg (by simp [ht])).trans (if_pos (by simp [hm]))))

theorem prepare_staged (h : s.ringTake 0x20 = some (x, t)) (hh : t.isHead = true) (hr : t.inReset .lvl = false)
    (hq : ∀ q, t.rmc.part = some q → q.id ≠ le x.pay 0 4) (hs : t.ringStage x = (u, none)) : ∃ v, exec .prepare s = .next v ∧
    v = u.ringSend 0x21 x.spos (x.pay.take 4) ∧ v.ringSt = 1 ∧ v.rmc.part.map (fun q => (q.id, q.coord)) = some (le x.pay 0 4, x.spos) := by
  have hx := exec_prepare_head h hh hr
  rw [State.preparedFor_other hq, hs] at hx
  obtain ⟨hst, hpart⟩ := State.ringStage_done hs
  refine ⟨u.ringSend 0x21 x.spos (x.pay.take 4), hx, rfl, (State.rf_congr (u.ringSend_pages _ _ _ _ (by decide)) 0 3).trans hst, ?_⟩
  rw [State.ringSend_rmc]
  exact hpart

theorem prepare_refused {e : Nat} (h : s.ringTake 0x20 = some (x, t)) (hh : t.isHead = true) (hr : t.inReset .lvl = false)
    (hq : ∀ q, t.rmc.part = some q → q.id ≠ le x.pay 0 4) (hs : t.ringStage x = (u, some e)) : ∃ v, exec .prepare s = .next v ∧
    v = u.ringSend 0x22 x.spos (x.pay.take 4 ++ toLe 1 e) ∧ v.rmc = t.rmc := by
  have hx := exec_prepare_head h hh hr
  rw [State.preparedFor_other hq, hs] at hx
  exact ⟨_, hx, rfl, (u.ringSend_rmc _ _ _).trans (State.ringStage_refused hs)⟩

theorem prepare_again {q : RingPart} (h : s.ringTake 0x20 = some (x, t)) (hh : t.isHead = true) (hr : t.inReset .lvl = false)
    (hq : t.rmc.part = some q) (hid : q.id = le x.pay 0 4) (hst : t.ringSt = 1) : ∃ v, exec .prepare s = .next v ∧
    v = t.ringSend 0x21 x.spos (x.pay.take 4) ∧ v.rmc = t.rmc ∧ v.lvl = t.lvl := by
  have hx := exec_prepare_head h hh hr
  rw [if_pos (by simp [State.preparedFor, hq, hid, hst])] at hx
  exact ⟨_, hx, rfl, t.ringSend_rmc _ _ _, t.ringSend_lvl _ _ _⟩

theorem prepare_idle (h : s.ringTake 0x20 = some (x, t)) (hn : t.isHead = false ∨ t.inReset .lvl = true) : exec .prepare s = .next t :=
  (exec_prepare h).trans (congrArg Host.Outcome.next (if_pos (by simpa using hn)))

/-! ### The coordinator notes the answers (R283) -/

theorem addOnce_mem (l : List Nat) (p : Nat) : p ∈ addOnce l p := by
  unfold addOnce
  split
  · next h => simpa using h
  · simp

theorem State.onCoord_own {k : RingCoord} {id : Nat} (f : RingCoord → RingCoord) (hk : t.rmc.coord = some k) (hid : k.id = id) :
    t.onCoord id f = { t with rmc := { t.rmc with coord := some (f k) } } := by
  rw [State.onCoord, hk]
  exact if_pos hid

/-- A change that leaves the record of the coordinator as it is. -/
theorem State.onCoord_kept {id : Nat} {f : RingCoord → RingCoord} (h : ∀ k, t.rmc.coord = some k → k.id = id → f k = k) : t.onCoord id f = t := by
  unfold State.onCoord
  split
  · next k hk =>
    split
    · next hid => rw [h k hk hid, ← hk]
    · rfl
  · rfl

theorem ready_noted {k : RingCoord} (h : s.ringTake 0x21 = some (x, t)) (hk : t.rmc.coord = some k) (hid : k.id = le x.pay 0 4) (hd : k.decided = none) :
    ∃ u, exec .ready s = .next u ∧ u = { t with rmc := { t.rmc with coord := some { k with ready := addOnce k.ready x.spos } } } ∧
      ∀ k', u.rmc.coord = some k' → x.spos ∈ k'.ready ∧ k'.refused = k.refused := by
  refine ⟨_, congrArg Host.Outcome.next ((State.onRing_some _ h).trans ((State.onCoord_own _ hk hid).trans (by rw [if_pos hd]))), rfl, ?_⟩
  rintro k' ⟨⟩
  exact ⟨addOnce_mem _ _, rfl⟩

theorem refuse_noted {k : RingCoord} (h : s.ringTake 0x22 = some (x, t)) (hk : t.rmc.coord = some k) (hid : k.id = le x.pay 0 4) (hd : k.decided = none) :
    ∃ u, exec .refuse s = .next u ∧ u = { t with rmc := { t.rmc with coord := some { k with refused := addOnce k.refused x.spos } } } ∧
      ∀ k', u.rmc.coord = some k' → x.spos ∈ k'.refused ∧ k'.ready = k.ready := by
  refine ⟨_, congrArg Host.Outcome.next ((State.onRing_some _ h).trans ((State.onCoord_own _ hk hid).trans (by rw [if_pos hd]))), rfl, ?_⟩
  rintro k' ⟨⟩
  exact ⟨addOnce_mem _ _, rfl⟩

theorem answers_late (hk : ∀ k, t.rmc.coord = some k → k.id ≠ le x.pay 0 4 ∨ k.decided ≠ none) :
    (s.ringTake 0x21 = some (x, t) → exec .ready s = .next t) ∧ (s.ringTake 0x22 = some (x, t) → exec .refuse s = .next t) := by
  have hd (k : RingCoord) (hc : t.rmc.coord = some k) (hid : k.id = le x.pay 0 4) : k.decided ≠ none := (hk k hc).resolve_left (not_not.mpr hid)
  exact ⟨fun h => congrArg Host.Outcome.next ((State.onRing_some _ h).trans (State.onCoord_kept fun k hc hid => if_neg (hd k hc hid))),
    fun h => congrArg Host.Outcome.next ((State.onRing_some _ h).trans (State.onCoord_kept fun k hc hid => if_neg (hd k hc hid)))⟩

end

/-! ### The coordinator decides (R283) -/

/-- The record of the coordinator with its decision. -/
abbrev State.ringMarked (s : State) (k : RingCoord) : State := { s with rmc := { s.rmc with coord := some { k with decided := some k.allReady } } }

/-- What the coordinator answers to the host that asked for the change. -/
def State.ringAnswer (s : State) (k : RingCoord) : State :=
  match k.tag with
  | none => s
  | some g => match s.mbx.taken.find? fun (c : Cmd) => c.e.tag = g with
    | some c => if k.allReady then s.reply c stOk (toLe 4 (k.c % 2 ^ 32)) [] else s.reply c stFault (toLe 1 (k.refused.headD 0xFF)) []
    | none => s

theorem State.ringDecide_eq (s : State) (k : RingCoord) : s.ringDecide k =
    (((s.ringMarked k).ringLearn k.id k.allReady (k.refused.headD 0xFF)).sendDecision k k.allReady).ringAnswer k := rfl

theorem State.ringAnswer_rmc (s : State) (k : RingCoord) : (s.ringAnswer k).rmc = s.rmc := by
  unfold State.ringAnswer
  split
  · rfl
  · split
    · split <;> exact State.reply_rmc _ _ _ _ _
    · rfl

theorem State.ringDecide_rmc (s : State) (k : RingCoord) : (s.ringDecide k).rmc = ((s.ringMarked k).keepDecision k.id k.allReady).rmc := by
  rw [State.ringDecide_eq, State.ringAnswer_rmc, State.sendDecision, State.ringSend_rmc, State.ringLearn_rmc]

theorem State.ringDecide_decided (s : State) (k : RingCoord) : (s.ringDecide k).rmc.coord = some { k with decided := some k.allReady } := by
  rw [State.ringDecide_rmc, (State.keepDecision_own _ _ _).1]

theorem State.ringDecide_knownOf {s : State} {k : RingCoord} (h : s.knownOf k.id = none) : (s.ringDecide k).knownOf k.id = some k.allReady := by
  rw [State.knownOf_congr (s.ringDecide_rmc k), State.keepDecision_knownOf]
  exact congrArg (fun d : Option Bool => some (d.getD k.allReady)) h

section
variable {s t : State} {x : RingRx} {k : RingCoord}

theorem ringDecide_decides (hk : s.rmc.coord = some k) (hn : k.decided = none) (hd : k.answered = true ∨ k.d ≤ s.tick) : ∃ t, exec .ringDecide s = .next t ∧
    t.rmc.coord = some { k with decided := some k.allReady } ∧ (s.knownOf k.id = none → t.knownOf k.id = some k.allReady) ∧
    ChangesOnly (touches .ringDecide) s t := by
  have hx : exec .ringDecide s = .next (s.ringDecide k) := by
    refine congrArg Host.Outcome.next ?_
    rw [hk]
    exact if_pos (by simpa [hn] using hd)
  exact ⟨_, hx, s.ringDecide_decided k, State.ringDecide_knownOf, (exec_goes hx).1⟩

theorem ringDecide_waits (hk : s.rmc.coord = some k) (ha : k.answered = false) (hd : s.tick < k.d) : exec .ringDecide s = .next s := by
  refine congrArg Host.Outcome.next ?_
  rw [hk]
  exact if_neg (by simp [ha, hd])

theorem ringDecide_once (h : ∀ k, s.rmc.coord = some k → k.decided ≠ none) : exec .ringDecide s = .next s := by
  refine congrArg Host.Outcome.next ?_
  cases hk : s.rmc.coord with
  | none => rfl
  | some k => exact if_neg (by simp [h k hk])

theorem ringDecisionRepeat_undecided (h : ∀ k, s.rmc.coord = some k → k.decided = none) : exec .ringDecisionRepeat s = .next s := by
  refine congrArg Host.Outcome.next ?_
  cases hk : s.rmc.coord with
  | none => rfl
  | some k =>
    dsimp only
    rw [h k hk]

theorem exec_ringDecisionRepeat {d : Bool} (hk : s.rmc.coord = some k) (hd : k.decided = some d) : exec .ringDecisionRepeat s = .next
    (if k.c ≤ s.tick || (k.parts.all fun p => k.conf.contains p) then { s with rmc := { s.rmc with coord := none } } else s.sendDecision k d) := by
  refine congrArg Host.Outcome.next ?_
  rw [hk]
  dsimp only
  rw [hd]

theorem ringDecisionRepeat_sends {d : Bool} (hk : s.rmc.coord = some k) (hd : k.decided = some d) (hc : s.tick < k.c)
    (ha : (k.parts.all fun p => k.conf.contains p) = false) : ∃ t, exec .ringDecisionRepeat s = .next t ∧ t = s.sendDecision k d ∧ t.rmc = s.rmc ∧
      (s.ibgRuns = true → s.ringFull = false → s.ringKey ≠ none → t.ibg.sent = s.ibg.sent + 1) := by
  have hx := exec_ringDecisionRepeat hk hd
  rw [if_neg (by rw [ha, Bool.or_false, decide_eq_true_eq]; omega)] at hx
  exact ⟨_, hx, rfl, s.ringSend_rmc _ _ _, State.ringSend_numbers _ _ _⟩

theorem ringDecisionRepeat_ends {d : Bool} (hk : s.rmc.coord = some k) (hd : k.decided = some d)
    (hc : k.c ≤ s.tick ∨ (k.parts.all fun p => k.conf.contains p) = true) :
    ∃ t, exec .ringDecisionRepeat s = .next t ∧ t = { s with rmc := { s.rmc with coord := none } } ∧ t.rmc.coord = none := by
  have hx := exec_ringDecisionRepeat hk hd
  rw [if_pos (by rw [Bool.or_eq_true, decide_eq_true_eq]; exact hc)] at hx
  exact ⟨_, hx, rfl, rfl⟩

end

/-! ### A participant learns, and others ask and confirm (R283, R284, R441) -/

section
variable {s t : State} {x : RingRx}

theorem exec_ringCommit (h : s.ringTake 0x23 = some (x, t)) : exec .ringCommit s = .next (t.takeDecision x true) := congrArg Host.Outcome.next (State.onRing_some _ h)

theorem exec_ringAbort (h : s.ringTake 0x24 = some (x, t)) : exec .ringAbort s = .next (t.takeDecision x false) := congrArg Host.Outcome.next (State.onRing_some _ h)

theorem ringCommit_commits {p : RingPart} (hp : t.rmc.part = some p) (hid : p.id = le x.pay 0 4) (hs : t.ringSt = 1) (h : s.ringTake 0x23 = some (x, t)) :
    ∃ u, exec .ringCommit s = .next u ∧ u.ringSt = 2 ∧ u.rb (hdr .lvl oRaw) 5 = true ∧ u.lvl = t.lvl ∧
      u.knownOf p.id = some ((t.knownOf p.id).getD true) ∧ ChangesOnly (touches .ringCommit) s u := by
  have hx := exec_ringCommit h
  obtain ⟨hst, hraw, hlvl⟩ := State.takeDecision_prepared true hp hid hs
  exact ⟨_, hx, hst, hraw, hlvl rfl, hid ▸ t.takeDecision_knownOf x true, (exec_goes hx).1⟩

theorem ringAbort_aborts {p : RingPart} (hp : t.rmc.part = some p) (hid : p.id = le x.pay 0 4) (hs : t.ringSt = 1) (h : s.ringTake 0x24 = some (x, t)) :
    ∃ u, exec .ringAbort s = .next u ∧ u.ringSt = 3 ∧ u.rb (hdr .lvl oRaw) 5 = true ∧
      u.knownOf p.id = some ((t.knownOf p.id).getD false) ∧ ChangesOnly (touches .ringAbort) s u := by
  have hx := exec_ringAbort h
  obtain ⟨hst, hraw, -⟩ := State.takeDecision_prepared false hp hid hs
  exact ⟨_, hx, hst, hraw, hid ▸ t.takeDecision_knownOf x false, (exec_goes hx).1⟩

theorem State.takeDecision_noted (commit : Bool) (hp : t.rmc.part = none) (hc : t.rmc.coord = none) :
    (t.takeDecision x commit).ringSt = t.ringSt ∧ (t.takeDecision x commit).lvl = t.lvl := by
  rw [State.takeDecision_foreign x commit hp hc]
  exact ⟨State.rf_congr (t.keepDecision_rd _ _ _) 0 3, t.keepDecision_lvl _ _⟩

theorem ringQuery_answers {d : Bool} (h : s.ringTake 0x25 = some (x, t)) (hd : t.knownOf (le x.pay 0 4) = some d) :
    ∃ u, exec .ringQuery s = .next u ∧ u = t.ringConfirm (le x.pay 0 4) (if d then 1 else 2) ∧ u.rmc = t.rmc := by
  have hx : exec .ringQuery s = .next (t.ringConfirm (le x.pay 0 4) (if d then 1 else 2)) := by
    refine congrArg Host.Outcome.next ((State.onRing_some _ h).trans ?_)
    rw [hd]
  exact ⟨_, hx, rfl, t.ringSend_rmc _ _ _⟩

theorem ringQuery_silent (h : s.ringTake 0x25 = some (x, t)) (hd : t.knownOf (le x.pay 0 4) = none) : exec .ringQuery s = .next t := by
  refine congrArg Host.Outcome.next ((State.onRing_some _ h).trans ?_)
  rw [hd]

theorem State.onCoord_knownOf (s : State) (id : Nat) (f : RingCoord → RingCoord) (i : Nat) : (s.onCoord id f).knownOf i = s.knownOf i := by
  unfold State.onCoord
  split
  · split <;> rfl
  · rfl

/-- A confirmation noted by the coordinator. -/
def State.ringConfirmed (t : State) (x : RingRx) : State :=
  t.onCoord (le x.pay 0 4) fun k => if k.decided.isSome then { k with conf := addOnce k.conf x.spos } else k

theorem ringConfirm_learned (h : s.ringTake 0x26 = some (x, t)) (hd : byteAt x.pay 4 = 1 ∨ byteAt x.pay 4 = 2) :
    ∃ u, exec .ringConfirm s = .next u ∧ u = (t.ringConfirmed x).ringLearn (le x.pay 0 4) (decide (byteAt x.pay 4 = 1)) 0xFF ∧
      u.knownOf (le x.pay 0 4) = some ((t.knownOf (le x.pay 0 4)).getD (decide (byteAt x.pay 4 = 1))) := by
  refine ⟨_, congrArg Host.Outcome.next ((State.onRing_some _ h).trans (if_neg (by omega))), rfl, ?_⟩
  exact (State.ringLearn_knownOf _ _ _ _).trans (congrArg (fun d : Option Bool => some (d.getD _)) (t.onCoord_knownOf _ _ _))

theorem ringConfirm_ignored (h : s.ringTake 0x26 = some (x, t)) (hd : byteAt x.pay 4 = 0 ∨ 2 < byteAt x.pay 4) : exec .ringConfirm s = .next t :=
  congrArg Host.Outcome.next ((State.onRing_some _ h).trans (if_pos hd))

end

/-! ### Doubt, and the end of what is kept (R283, R284) -/

section
variable {s : State} {o : Nat × Nat}

theorem ringDoubtQuery_asks (ho : s.ringOwn = some o) (h4 : s.ringSt = 4) : ∃ t, exec .ringDoubtQuery s = .next t ∧ t = s.ringSend 0x25 15 (toLe 4 o.1) ∧ t.rmc = s.rmc ∧
    (s.ibgRuns = true → s.ringFull = false → s.ringKey ≠ none → t.ibg.sent = s.ibg.sent + 1) := by
  have hx : exec .ringDoubtQuery s = .next (s.ringSend 0x25 15 (toLe 4 o.1)) := by
    refine congrArg Host.Outcome.next ?_
    rw [ho]
    exact if_pos h4
  exact ⟨_, hx, rfl, s.ringSend_rmc _ _ _, State.ringSend_numbers _ _ _⟩

/-- A change given up in doubt. -/
def State.ringGivenUp (s : State) : State := { (s.wf R.lvl_RING_STAT 0 3 3).ringDrop with rmc := { s.rmc with part := none } }

theorem State.ringGivenUp_ringSt (s : State) : s.ringGivenUp.ringSt = 3 :=
  (State.rf_congr ((s.wf R.lvl_RING_STAT 0 3 3).ringDrop_pages R.lvl_RING_STAT (by decide)) 0 3).trans (s.wf_rf_same _ _ (by decide))

theorem exec_ringDoubtExpiry (ho : s.ringOwn = some o) : exec .ringDoubtExpiry s = .next (if s.ringSt = 4 ∧ o.2 + 64 * 256 ≤ s.tick then s.ringGivenUp else s) := by
  refine congrArg Host.Outcome.next ?_
  rw [ho]
  rfl

theorem ringDoubtExpiry_ends (ho : s.ringOwn = some o) (h4 : s.ringSt = 4) (ht : o.2 + 16384 ≤ s.tick) :
    ∃ t, exec .ringDoubtExpiry s = .next t ∧ t.ringSt = 3 ∧ t.rmc.part = none ∧ ChangesOnly (touches .ringDoubtExpiry) s t := by
  have hx := exec_ringDoubtExpiry ho
  rw [if_pos ⟨h4, ht⟩] at hx
  exact ⟨_, hx, s.ringGivenUp_ringSt, rfl, (exec_goes hx).1⟩

theorem ringDoubtExpiry_waits (ho : s.ringOwn = some o) (ht : s.tick < o.2 + 16384) : exec .ringDoubtExpiry s = .next s :=
  (exec_ringDoubtExpiry ho).trans (congrArg Host.Outcome.next (if_neg fun h => absurd h.2 (Nat.not_le.mpr ht)))

theorem ringDoubt_none (h : s.ringOwn = none ∨ s.ringSt ≠ 4) : exec .ringDoubtQuery s = .next s ∧ exec .ringDoubtExpiry s = .next s := by
  cases ho : s.ringOwn with
  | none => exact ⟨congrArg Host.Outcome.next (by rw [ho]), congrArg Host.Outcome.next (by rw [ho])⟩
  | some o =>
    have h4 : s.ringSt ≠ 4 := h.resolve_left (by simp [ho])
    refine ⟨congrArg Host.Outcome.next ?_, (exec_ringDoubtExpiry ho).trans (congrArg Host.Outcome.next (if_neg fun e => h4 e.1))⟩
    rw [ho]
    exact if_neg h4

theorem ringDecisionExpiry_forgets (s : State) : ∃ t, exec .ringDecisionExpiry s = .next t ∧
    (∀ d, d ∈ t.rmc.known ↔ d ∈ s.rmc.known ∧ s.tick < d.2.2 + 16384) ∧ ChangesOnly [.rmc] s t :=
  ⟨_, rfl, fun d => by simp [List.mem_filter], (goes_set_rmc s _ rfl (.refl _ s)).1⟩

end
/-! ### RING_MODE (R283, R286) -/

theorem State.otherHeads_congr {s t : State} (hi : t.ibg = s.ibg) (hm : t.modId = s.modId) : t.otherHeads = s.otherHeads := by
  unfold State.otherHeads State.ringPos
  rw [hi, hm]

/-- The change announced in t is prepared, and its PREPARE sent. -/
def State.ringStarted (t : State) (id : Nat) (m : SegMode) (c : Nat) (tag : Word) : State :=
  let t := t.ringPrepare t.spos id c
  let t := { t with rmc := { t.rmc with coord := some ⟨id, c, c - 512, some tag, t.otherHeads, [], [], [], none⟩, part := none } }
  t.ringSend 0x20 15 (prepPay id m c (c - 512))

theorem State.ringStarted_keeps (t : State) (id : Nat) (m : SegMode) (c : Nat) (tag : Word) :
    (t.ringStarted id m c tag).ringSt = 1 ∧ (t.ringStarted id m c tag).lvl = t.lvl ∧
    (t.ringStarted id m c tag).rmc.coord = some ⟨id, c, c - 512, some tag, t.otherHeads, [], [], [], none⟩ := by
  unfold State.ringStarted
  extract_lets u src v
  have hst : v.ringSt = 1 := t.ringPrepare_ringSt t.spos id c
  refine ⟨(State.rf_congr (v.ringSend_pages _ _ _ _ (by decide)) 0 3).trans hst, v.ringSend_lvl _ _ _, ?_⟩
  rw [State.ringSend_rmc]
  rfl

theorem State.ringBegin_eq (s : State) (m : SegMode) (c : Nat) (tag : Word) : s.ringBegin m c tag =
    match (s.draw 1).announce m c none true with
    | (t, some e) => (t, some e)
    | (t, none) => (t.ringStarted (Config.freeWord s.free).toNat m c tag, none) := rfl

theorem State.ringBegin_started {s t : State} {m : SegMode} {c : Nat} (tag : Word) (h : (s.draw 1).announce m c none true = (t, none)) :
    s.ringBegin m c tag = (t.ringStarted (Config.freeWord s.free).toNat m c tag, none) := by
  rw [State.ringBegin_eq, h]

theorem State.ringBegin_failed {s t : State} {m : SegMode} {c e : Nat} (tag : Word) (h : (s.draw 1).announce m c none true = (t, some e)) :
    s.ringBegin m c tag = (t, some e) := by
  rw [State.ringBegin_eq, h]

theorem State.announce_otherHeads {s t : State} {m : SegMode} {c : Nat} (h : (s.draw 1).announce m c none true = (t, none)) : t.otherHeads = s.otherHeads := by
  have hg : Goes [.regs, .out, .free, .que, .ldg, .nvs, .rad, .chn, .lnk, .net, .lvl, .pba] s t := goes_announce' _ _ _ _ _ h rfl (goes_draw s 1 rfl (.refl _ s))
  exact State.otherHeads_congr (hg.1 .ibg (by decide)) (hg.1 .modId (by decide))

/-- The change of a RING_MODE is made: it is prepared here, with the other heads to take part. -/
theorem State.ringBegin_prepared {s u : State} {m : SegMode} {c : Nat} {tag : Word} (h : s.ringBegin m c tag = (u, none)) :
    u.ringSt = 1 ∧ u.rmc.coord.map (fun q => (q.c, q.d, q.parts)) = some (c, c - 512, s.otherHeads) := by
  rcases hv : (s.draw 1).announce m c none true with ⟨t, _ | e⟩
  · rw [State.ringBegin_started tag hv] at h
    obtain rfl := (Prod.mk.inj h).1
    obtain ⟨hst, -, hcoord⟩ := t.ringStarted_keeps (Config.freeWord s.free).toNat m c tag
    rw [hcoord, ← State.announce_otherHeads hv]
    exact ⟨hst, rfl⟩
  · rw [State.ringBegin_failed tag hv] at h
    exact absurd (congrArg Prod.snd h) (by simp)

section
variable {tag : Word} {k : Cmd} {s : State} (h : Ready s 0x0503 tag k)

/-- How a RING_MODE whose change was begun, or was not, is answered. -/
def ringModeEnd (k : Cmd) : State × Option Nat → State
  | (u, none) => u.defer k
  | (u, some e) => if e = 0x80 then u.reply k stFault (toLe 1 0x80) [] else u.reply k stBadParam [] []

include h

theorem exec_ringMode : exec (.ringMode tag) s = .next (
    if byteAt k.e.param 5 = 1 ∧ k.e.length ≠ 128 then s.reply k stBadLength [] []
    else if !modeParamOk k.e.param then s.reply k stBadParam [] []
    else if !s.isHead || !s.takes .lvl then s.reply k stBusy [] []
    else if !s.holds then (s.noTime .lvl k.e.apply).reply k stNoTime [] []
    else if s.ringBusy then s.reply k stFault (toLe 1 0x81) []
    else ringModeEnd k (s.ringBegin (modeParam k.e.param k.bytes) (s.firstC 10) tag)) :=
  congrArg Host.Outcome.next (State.withCmd_ready h _)

theorem ringMode_badLength (h5 : byteAt k.e.param 5 = 1) (hl : k.e.length ≠ 128) : exec (.ringMode tag) s = .next (s.reply k stBadLength [] []) :=
  (exec_ringMode h).trans (congrArg Host.Outcome.next (if_pos ⟨h5, hl⟩))

section
variable (hl : byteAt k.e.param 5 = 1 → k.e.length = 128)
include hl

theorem exec_ringMode_goodLength : exec (.ringMode tag) s = .next (
    if !modeParamOk k.e.param then s.reply k stBadParam [] []
    else if !s.isHead || !s.takes .lvl then s.reply k stBusy [] []
    else if !s.holds then (s.noTime .lvl k.e.apply).reply k stNoTime [] []
    else if s.ringBusy then s.reply k stFault (toLe 1 0x81) []
    else ringModeEnd k (s.ringBegin (modeParam k.e.param k.bytes) (s.firstC 10) tag)) :=
  (exec_ringMode h).trans (congrArg Host.Outcome.next (if_neg fun e => e.2 (hl e.1)))

theorem ringMode_badParam (hm : modeParamOk k.e.param = false) : exec (.ringMode tag) s = .next (s.reply k stBadParam [] []) :=
  (exec_ringMode_goodLength h hl).trans (congrArg Host.Outcome.next (if_pos (by simp [hm])))

variable (hm : modeParamOk k.e.param = true)
include hm

theorem ringMode_busy (hn : s.isHead = false ∨ s.takes .lvl = false) : exec (.ringMode tag) s = .next (s.reply k stBusy [] []) :=
  (exec_ringMode_goodLength h hl).trans (congrArg Host.Outcome.next ((if_neg (by simp [hm])).trans (if_pos (by simpa using hn))))

variable (hh : s.isHead = true) (ht : s.takes .lvl = true)
include hh ht

theorem exec_ringMode_judged : exec (.ringMode tag) s = .next (
    if !s.holds then (s.noTime .lvl k.e.apply).reply k stNoTime [] []
    else if s.ringBusy then s.reply k stFault (toLe 1 0x81) []
    else ringModeEnd k (s.ringBegin (modeParam k.e.param k.bytes) (s.firstC 10) tag)) :=
  (exec_ringMode_goodLength h hl).trans (congrArg Host.Outcome.next ((if_neg (by simp [hm])).trans (if_neg (by simp [hh, ht]))))

theorem ringMode_noTime (ho : s.holds = false) : exec (.ringMode tag) s = .next ((s.noTime .lvl k.e.apply).reply k stNoTime [] []) :=
  (exec_ringMode_judged h hl hm hh ht).trans (congrArg Host.Outcome.next (if_pos (by simp [ho])))

variable (ho : s.holds = true)
include ho

theorem ringMode_underWay (hb : s.ringBusy = true) : exec (.ringMode tag) s = .next (s.reply k stFault (toLe 1 0x81) []) :=
  (exec_ringMode_judged h hl hm hh ht).trans (congrArg Host.Outcome.next ((if_neg (by simp [ho])).trans (if_pos hb)))

variable (hb : s.ringBusy = false)
include hb

theorem exec_ringMode_free : exec (.ringMode tag) s = .next (ringModeEnd k (s.ringBegin (modeParam k.e.param k.bytes) (s.firstC 10) tag)) :=
  (exec_ringMode_judged h hl hm hh ht).trans (congrArg Host.Outcome.next ((if_neg (by simp [ho])).trans (if_neg (by simp [hb]))))

theorem ringMode_begins {u : State} (hu : s.ringBegin (modeParam k.e.param k.bytes) (s.firstC 10) tag = (u, none)) : ∃ t, exec (.ringMode tag) s = .next t ∧ t = u.defer k ∧
    t.ringSt = 1 ∧ t.rmc.coord.map (fun q => (q.c, q.d, q.parts)) = some (s.firstC 10, s.firstC 10 - 512, s.otherHeads) := by
  have hx := exec_ringMode_free h hl hm hh ht ho hb
  rw [hu] at hx
  obtain ⟨hst, hcoord⟩ := State.ringBegin_prepared hu
  exact ⟨u.defer k, hx, rfl, hst, hcoord⟩

theorem ringMode_announced (ha : s.lvl.ann.isSome = true) : ∃ t, exec (.ringMode tag) s = .next t ∧ t.lvl = s.lvl ∧ t.rmc = s.rmc ∧ Ended k t ∧
    ChangesOnly (touches (.ringMode tag)) s t := by
  have hx := exec_ringMode_free h hl hm hh ht ho hb
  rw [State.ringBegin_failed tag ((s.draw 1).announce_busy _ _ none true ha)] at hx
  exact ⟨(s.draw 1).reply k stFault (toLe 1 0x80) [], hx, State.reply_lvl _ _ _ _ _, State.reply_rmc _ _ _ _ _, State.reply_ended _ _ _ _ _, (exec_goes hx).1⟩

theorem ringMode_staged (hn : s.lvl.ann = none) (h5 : byteAt k.e.param 5 = 0) : ∃ t, exec (.ringMode tag) s = .next t ∧ t.ringSt = 1 ∧
    t.lvl.ann.map (fun a => a.c) = some (s.firstC 10) ∧ t.rmc.coord.map (fun q => (q.c, q.d, q.parts)) = some (s.firstC 10, s.firstC 10 - 512, s.otherHeads) := by
  have hop : (modeParam k.e.param k.bytes).op ≤ 2 := by
    simp only [modeParamOk, Bool.and_eq_true, decide_eq_true_eq] at hm
    exact hm.1.1.1.1
  have hhop : (modeParam k.e.param k.bytes).hop = none := if_neg (by omega)
  have htick : (s.draw 1).tick + 9 * 256 ≤ s.firstC 10 := by
    show s.tick + 9 * 256 ≤ cdiv (s.tick + 10 * 256) 256 * 256
    unfold cdiv
    omega
  obtain ⟨v, hv, hann⟩ := State.announce_keeps (s := s.draw 1) none true hn hop (Nat.mul_mod_left _ _) htick (fun l e => absurd (hhop.symm.trans e) (by simp))
  have hu := State.ringBegin_started tag hv
  obtain ⟨t, hx, rfl, hst, hcoord⟩ := ringMode_begins h hl hm hh ht ho hb hu
  refine ⟨_, hx, hst, ?_, hcoord⟩
  have hlvl := (v.ringStarted_keeps (Config.freeWord s.free).toNat (modeParam k.e.param k.bytes) (s.firstC 10) tag).2.1
  exact (congrArg (fun l : Lvl => l.ann.map (fun a => a.c)) hlvl).trans (by rw [hann])

end

end

/-! ### The statement -/

/-- Settles O58: PREPARE and the answers by `ringStage` and `onCoord`, the decision by `ringDecide`, what a module learns by `ringLearn`, and RING_MODE by `ringBegin`. -/
theorem ringModeChangesAreDecidedOnce : Obligations.RingModeChangesAreDecidedOnce := by
  unfold Obligations.RingModeChangesAreDecidedOnce
  refine ⟨⟨ringFrames_waitForNone, ?_, ?_, ?_, ?_, ?_, ?_, ?_, ?_, ?_, ?_, ?_, ?_⟩, ⟨?_, ?_, ?_, ?_, ?_, ?_, ?_⟩, ?_⟩
  · exact fun x u t s h hh hr hq => ⟨prepare_staged h hh hr hq, fun e => prepare_refused h hh hr hq⟩
  · exact fun x q t s h hh hr hq hid hst => prepare_again h hh hr hq hid hst
  · exact fun x t s h hn => prepare_idle h hn
  · exact fun x s => ⟨State.ringStage_announced, State.ringStage_noTime, State.ringStage_badMode⟩
  · exact fun x k t s h hk hid hd => ready_noted h hk hid hd
  · exact fun x k t s h hk hid hd => refuse_noted h hk hid hd
  · exact fun x t s hk => answers_late hk
  · exact fun k s hk hn hd => ringDecide_decides hk hn hd
  · exact fun k s hk _ ha hd => ringDecide_waits hk ha hd
  · exact fun s h => ringDecide_once h
  · exact fun s h => ringDecisionRepeat_undecided h
  · exact fun k d s hk hd => ⟨ringDecisionRepeat_sends hk hd, ringDecisionRepeat_ends hk hd⟩
  · exact fun x p t s hp hid hst => ⟨ringCommit_commits hp hid hst, ringAbort_aborts hp hid hst⟩
  · intro x t s hp hc id
    exact ⟨fun h => ⟨_, exec_ringCommit h, (State.takeDecision_noted true hp hc).1, (State.takeDecision_noted true hp hc).2, t.takeDecision_knownOf x true⟩,
      fun h => ⟨_, exec_ringAbort h, (State.takeDecision_noted false hp hc).1, (State.takeDecision_noted false hp hc).2, t.takeDecision_knownOf x false⟩⟩
  · exact fun x t s h => ⟨fun d => ringQuery_answers h, ringQuery_silent h⟩
  · exact fun x t s h => ⟨ringConfirm_learned h, ringConfirm_ignored h⟩
  · exact fun o s ho h4 => ⟨ringDoubtQuery_asks ho h4, ringDoubtExpiry_ends ho h4, ringDoubtExpiry_waits ho⟩
  · exact fun s h => ringDoubt_none h
  · exact ringDecisionExpiry_forgets
  · intro tag k s h
    refine ⟨fun h5 hl => replied_ends (ringMode_badLength h h5 hl), fun hl => ⟨fun hm => replied_ends (ringMode_badParam h hl hm),
      fun hm hn => replied_ends (ringMode_busy h hl hm hn), fun hm hh ht => ⟨fun ho => replied_ends (ringMode_noTime h hl hm hh ht ho),
        fun ho hb => replied_ends (ringMode_underWay h hl hm hh ht ho hb), fun u ho hb hu => ringMode_begins h hl hm hh ht ho hb hu,
        fun ho hb hn h5 => ringMode_staged h hl hm hh ht ho hb hn h5, fun ho hb ha => ringMode_announced h hl hm hh ht ho hb ha⟩⟩⟩

end Sys2Proof.Machine
end

section
/-! PROOFS. An update's block that carries fewer bytes than it names. -/

namespace Sys2Proof.Machine

open Sys2Proof

/-- A command UPD_BLOCK of 4 bytes for the delta 0 at offset 0, whose list of data bytes is empty. -/
def emptyBlock : Cmd := ⟨⟨0x0C01, 0, 7, 4, 0, 0, 0, zeros 32⟩, some [], 0, false⟩

/-- UPD receives a delta of 4 bytes, none of which has come; no Crypto Officer is enrolled, and the command waits. -/
def receivingFour : State :=
  { State.reset with
    regs := [(R.rst_BLK_IN_RESET_A, 0), (R.rst_BLK_IN_RESET_B, 0), (hdr .upd oCtrl, 1)]
    boot := { State.reset.boot with stage := .booted }
    mbx := { State.reset.mbx with taken := [emptyBlock] }
    upd := { State.reset.upd with st := .receiving, hdr := zeros 12 ++ toLe 4 4 ++ zeros 112 } }

/-- Refutes O59: the statement marks the units of the command's LENGTH, the model those of the data bytes it got, and no hypothesis ties the two:
a block of LENGTH 4 without data bytes marks no unit, where the statement marks unit 0. -/
theorem not_updatesAreReceivedCheckedAndCopied : ¬ Obligations.UpdatesAreReceivedCheckedAndCopied := by
  intro h
  obtain ⟨⟨_, _, block, _⟩, _⟩ := h
  obtain ⟨_, stored, _⟩ := block 7 emptyBlock receivingFour receivingFour (by unfold Ready; decide) (State.coAuth_noKey (by decide) _) (by decide)
  obtain ⟨good, _⟩ := stored (.inl rfl) (by decide) (by decide) (.inr (by decide)) (by decide) (by decide) (by decide)
  obtain ⟨t, _, ht, _, got, _⟩ := good (by decide)
  rw [ht, State.reply_upd] at got
  exact absurd got (by decide +kernel)

end Sys2Proof.Machine
end

section
/-! SUPPORT. Fields of a string of bytes, and check values. -/

namespace Sys2Proof.Machine

open Sys2Proof

/-! ### Fields of a string of bytes -/

@[simp] theorem drop_toLe_append (n v k : Nat) (r : Bytes) : (toLe n v ++ r).drop (n + k) = r.drop k := by
  rw [List.drop_append, toLe_length, Nat.add_sub_cancel_left, List.drop_eq_nil_of_le (by rw [toLe_length]; omega), List.nil_append]

theorem leFirst_toLe_append (n v : Nat) (r : Bytes) : leFirst n (toLe n v ++ r) = v % 256 ^ n := by
  induction n generalizing v with
  | zero => exact (Nat.mod_one v).symm
  | succ n ih =>
    have h8 : (BitVec.ofNat 8 v).toNat = v % 256 := BitVec.toNat_ofNat v 8
    rw [toLe, List.cons_append, leFirst, ih, h8, Nat.pow_succ', Nat.mod_mul]

theorem leFirst_toLe (n v : Nat) : leFirst n (toLe n v) = v % 256 ^ n := by
  simpa using leFirst_toLe_append n v []

/-- A field that begins where a string begins. -/
theorem le_toLe_append (n v : Nat) (r : Bytes) : le (toLe n v ++ r) 0 n = v % 256 ^ n := leFirst_toLe_append n v r

/-- A field behind the first one. -/
theorem le_toLe_skip (n v k m : Nat) (r : Bytes) : le (toLe n v ++ r) (n + k) m = le r k m := by
  rw [le, drop_toLe_append, le]

theorem le_append_skip (a r : Bytes) (m : Nat) {k : Nat} (h : a.length = k) : le (a ++ r) k m = le r 0 m := by
  rw [le, ← h, List.drop_left]
  rfl

theorem byteAt_toLe_append (v : Nat) (r : Bytes) : byteAt (toLe 1 v ++ r) 0 = v % 256 := by
  rw [byteAt]
  exact BitVec.toNat_ofNat v 8

theorem byteAt_toLe_skip (v k : Nat) (r : Bytes) : byteAt (toLe 1 v ++ r) (k + 1) = byteAt r k := rfl

/-- The first bytes of a string that is long enough. -/
theorem slice_append (a r : Bytes) {n : Nat} (h : a.length = n) : slice (a ++ r) 0 n = a := by
  rw [slice, List.drop_zero, List.take_left' h, h, Nat.sub_self, List.replicate_zero, List.append_nil]

theorem slice_append_skip (a r : Bytes) (n : Nat) {k : Nat} (h : a.length = k) : slice (a ++ r) k n = slice r 0 n := by
  rw [slice, ← h, List.drop_left]
  rfl

/-! ### Check values (R125) -/

theorem reflect_lt (n v : Nat) : reflect n v < 2 ^ n := by
  induction n generalizing v with
  | zero => exact Nat.one_pos
  | succ n ih =>
    have hr := ih (v / 2)
    have hb : v % 2 * 2 ^ n ≤ 1 * 2 ^ n := Nat.mul_le_mul_right _ (by omega)
    rw [reflect, Nat.pow_succ]
    omega

/-- A check value that is reflected fits its width. -/
theorem crcOf_lt {p : CrcPar} (hr : p.refout = true) (hx : p.xorout < 2 ^ p.width) (b : Bytes) : crcOf p b < 2 ^ p.width := by
  rw [crcOf, crcFinish, if_pos hr]
  exact Nat.xor_lt_two_pow (reflect_lt _ _) hx

end Sys2Proof.Machine
end

section
/-! PROOFS. The Ledger. -/

namespace Sys2Proof.Machine

open Sys2Proof

/-! ### Records (R395, R398) -/

/-- The bytes of a record before its CRC. -/
def recHead (r : Rec) : Bytes :=
  toLe 2 r.code ++ toLe 2 (r.sev % 16 + r.src % 4096 * 16) ++ toLe 4 r.opsec ++ toLe 1 r.opfrac ++ toLe 3 r.pwrcyc ++
    toLe 4 r.seq ++ toLe 4 r.p0.toNat ++ toLe 4 r.p1.toNat ++ toLe 4 r.p2.toNat ++ toLe 2 (1 + b2n r.cont * 16 + b2n r.nt * 32)

theorem recBytes_eq (r : Rec) : recBytes r = recHead r ++ toLe 2 (crcOf crc16 (recHead r)) := rfl

theorem recHead_length (r : Rec) : (recHead r).length = 30 := by
  simp only [recHead, List.length_append, toLe_length]

theorem recBytes_length (r : Rec) : (recBytes r).length = 32 := by
  rw [recBytes_eq, List.length_append, recHead_length, toLe_length]

/-- The FMT of a record is 1. -/
theorem recBytes_fmt (r : Rec) : le (recBytes r) 28 1 % 16 = 1 := by
  have hl : le (recBytes r) (2 + (2 + (4 + (1 + (3 + (4 + (4 + (4 + (4 + 0))))))))) 1 = leFirst 1 (toLe 2 (1 + b2n r.cont * 16 + b2n r.nt * 32) ++ toLe 2 (crcOf crc16 (recHead r))) := by
    rw [recBytes_eq]
    simp only [recHead, List.append_assoc, le_toLe_skip]
    rfl
  have hf : leFirst 1 (toLe 2 (1 + b2n r.cont * 16 + b2n r.nt * 32) ++ toLe 2 (crcOf crc16 (recHead r))) = (1 + b2n r.cont * 16 + b2n r.nt * 32) % 256 := BitVec.toNat_ofNat _ 8
  rw [show 28 = 2 + (2 + (4 + (1 + (3 + (4 + (4 + (4 + (4 + 0)))))))) from rfl, hl, hf]
  omega

theorem recBytes_valid (r : Rec) : recValid (recBytes r) = true := by
  have hcrc : le (recBytes r) 30 2 = crcOf crc16 (slice (recBytes r) 0 30) := by
    rw [recBytes_eq, slice_append _ _ (recHead_length r), le_append_skip _ _ _ (recHead_length r), le, List.drop_zero, leFirst_toLe]
    exact Nat.mod_eq_of_lt (crcOf_lt rfl (by decide) _)
  rw [recValid, recBytes_fmt, hcrc]
  simp

theorem slotOf_shared {p q : Nat} (hpq : p < q) (h : slotOf p = slotOf q) : 4096 ≤ p ∧ q - p ≥ 61440 := by
  unfold slotOf at h
  split at h <;> split at h <;> omega

theorem slotOf_lt (q : Nat) : slotOf q < 65536 := by
  unfold slotOf
  split <;> omega

/-! ### NVS regions (R137) -/

theorem foldl_fixed_mem {α β : Type} {f : β → α → β} {l : List α} (hf : ∀ t, ∀ x ∈ l, f t x = t) (s : β) : l.foldl f s = s := by
  induction l with
  | nil => rfl
  | cons y l ih => rw [List.foldl_cons, hf s y List.mem_cons_self, ih fun t x hx => hf t x (List.mem_cons_of_mem y hx)]

/-- A fold in which one element alone acts. -/
theorem foldl_single {α β : Type} {f : β → α → β} {l : List α} {r : α} (hn : l.Nodup) (hr : r ∈ l) (hf : ∀ t, ∀ x ∈ l, x ≠ r → f t x = t) (s : β) :
    l.foldl f s = f s r := by
  induction l generalizing s with
  | nil => cases hr
  | cons y l ih =>
    obtain ⟨hy, hl⟩ := List.nodup_cons.mp hn
    rw [List.foldl_cons]
    by_cases e : y = r
    · subst e
      exact foldl_fixed_mem (fun t x hx => hf t x (List.mem_cons_of_mem y hx) (fun e => hy (e ▸ hx))) _
    · rw [hf s y List.mem_cons_self e]
      exact ih hl ((List.mem_cons.mp hr).resolve_left (Ne.symm e)) (fun t x hx => hf t x (List.mem_cons_of_mem y hx)) s

theorem nvsStart_mono : ∀ i < 9, ∀ j < 9, i ≤ j → nvsStart i ≤ nvsStart j := by decide

/-- Bytes that lie in one region touch no other. -/
theorem State.nvsPart_other (t : State) (w : NvsWriter) {a : Nat} {b : Bytes} {r i : Nat} (hr : r < 8) (hi : i < 8) (hne : i ≠ r)
    (hlo : nvsStart r ≤ a) (hhi : a + b.length ≤ nvsStart (r + 1)) : State.nvsPart w a b t i = t := by
  refine if_pos (List.isEmpty_iff.mpr ?_)
  rcases Nat.lt_or_gt_of_ne hne with h | h
  · have := nvsStart_mono (i + 1) (by omega) r (by omega) (by omega)
    rw [show nvsStart (i + 1) - max a (nvsStart i) = 0 by omega, List.take_zero]
  · have := nvsStart_mono (r + 1) (by omega) i (by omega) (by omega)
    rw [List.drop_eq_nil_of_le (by omega), List.take_nil]

theorem State.nvsWrite_region {s : State} {w : NvsWriter} {a : Nat} {b : Bytes} {r : Nat} (hr : r < 8) (hlo : nvsStart r ≤ a) (hhi : a + b.length ≤ nvsStart (r + 1))
    (hb : b ≠ []) (hn : s.inReset .nvs = false) (ha : s.nvsAllows w r = true) : s.nvsWrite w a b = s.nvsPut a b := by
  rw [State.nvsWrite, if_neg (by simp [hn]), foldl_single List.nodup_range (List.mem_range.mpr hr)
    (fun t x hx hne => t.nvsPart_other w hr (List.mem_range.mp hx) hne hlo hhi)]
  have hmax : max a (nvsStart r) = a := by omega
  have hp : (b.drop (a - a)).take (nvsStart (r + 1) - a) = b := by
    rw [Nat.sub_self, List.drop_zero, List.take_of_length_le (by omega)]
  unfold State.nvsPart
  dsimp only
  rw [hmax, hp]
  exact (if_neg (by simpa using hb)).trans (if_pos ha)

/-! ### Submitting (R401, R404, R405) -/

theorem stampGroup_length (code sev src opsec opfrac cyc : Nat) (nt : Bool) (q : Nat) (c : Bool) (ps : List (Word × Word × Word)) :
    (stampGroup code sev src opsec opfrac cyc nt q c ps).length = ps.length := by
  induction ps generalizing q c with
  | nil => rfl
  | cons p ps ih =>
    obtain ⟨a, b, d⟩ := p
    rw [stampGroup, List.length_cons, ih, List.length_cons]

theorem stampGroup_fields {code sev src opsec opfrac cyc : Nat} {nt : Bool} {q : Nat} {c : Bool} {ps : List (Word × Word × Word)} {r : Rec}
    (h : r ∈ stampGroup code sev src opsec opfrac cyc nt q c ps) : r.code = code ∧ r.sev = sev ∧ r.src = src := by
  induction ps generalizing q c with
  | nil => cases h
  | cons p ps ih =>
    obtain ⟨a, b, d⟩ := p
    rcases List.mem_cons.mp h with rfl | h
    · exact ⟨rfl, rfl, rfl⟩
    · exact ih h

theorem State.not_inReset_of_takes {s : State} {b : Blk} (h : s.takes b = true) : s.inReset b = false := by
  simp only [State.takes, Bool.and_eq_true, Bool.not_eq_true'] at h
  exact h.1.1

theorem State.ldgRoom_takes {s : State} {n : Nat} (h : s.ldgRoom n = true) : s.takes .ldg = true := (Bool.and_eq_true_iff.mp h).1

/-- The records that a group adds to the FIFO. -/
def State.stamped (s : State) (code sev src : Nat) (ps : List (Word × Word × Word)) : List Rec :=
  stampGroup code sev src (s.opTime / 250000000) (s.opTime % 250000000 * 256 / 250000000) (s.rf R.pwt_PWRCYC 0 24) s.holds s.ldg.nextSeq false ps

section
variable {s : State} {ps : List (Word × Word × Word)} (m : Master) (code sev src : Nat)

/-- A group for which there is room joins the FIFO. -/
theorem State.logGroup_room (h : s.ldgRoom ps.length = true) : s.logGroup m code sev src ps =
    { s with ldg := { s.ldg with fifo := s.ldg.fifo ++ s.stamped code sev src ps, nextSeq := seqAfter ps.length s.ldg.nextSeq } } :=
  (if_neg (by simp [State.not_inReset_of_takes (State.ldgRoom_takes h)])).trans (if_pos h)

/-- A group for which there is none leaves the FIFO as it is. -/
theorem State.logGroup_fifo_refused (h : s.inReset .ldg = true ∨ s.ldgRoom ps.length = false) : (s.logGroup m code sev src ps).ldg.fifo = s.ldg.fifo := by
  unfold State.logGroup
  split
  · exact congrArg Ldg.fifo (State.err_ldg _ _ _ _ _)
  · next hr =>
    rw [if_neg (by simp [h.resolve_left hr])]
    extract_lets l u
    rw [State.irq_ldg, State.err_ldg]
    rfl

/-- What a group leaves of the Ledger: all but the FIFO, its numbers and what it lost. -/
theorem State.logGroup_ldg : ∃ f q n, (s.logGroup m code sev src ps).ldg = { s.ldg with fifo := f, nextSeq := q, lostDue := n } := by
  unfold State.logGroup
  split
  · exact ⟨_, _, _, State.err_ldg _ _ _ _ _⟩
  · split
    · exact ⟨_, _, _, rfl⟩
    · extract_lets l u
      exact ⟨_, _, _, (State.irq_ldg _ _ _).trans (State.err_ldg _ _ _ _ _)⟩

end

/-- What a group keeps of the Ledger: the scan's end and the series. -/
theorem State.logGroup_kept (s : State) (m : Master) (code sev src : Nat) (ps : List (Word × Word × Word)) :
    (s.logGroup m code sev src ps).ldg.ready = s.ldg.ready ∧ (s.logGroup m code sev src ps).ldg.series = s.ldg.series := by
  obtain ⟨f, q, n, h⟩ := State.logGroup_ldg (s := s) (ps := ps) m code sev src
  rw [h]
  exact ⟨rfl, rfl⟩

section
variable {m : Master} {v : Word} {s : State} (h : PageOpen s .ldg m)
include h

theorem exec_logSubmit : exec (.logSubmit m v) s = .next ((s.logSubmit m v).answer .done) := congrArg Host.Outcome.next (State.writeAt_open h _ _ _)

theorem logSubmit_refused (hm : mayLog m = false) :
    ∃ t, exec (.logSubmit m v) s = .next t ∧ t = (s.err .ldg 0x81 0x60 m).answer .done ∧ t.ldg = s.ldg := by
  have hx := exec_logSubmit (v := v) h
  rw [State.logSubmit, if_pos (by simp [hm])] at hx
  exact ⟨_, hx, rfl, State.err_ldg _ _ _ _ _⟩

variable (hm : mayLog m = true)
include hm

theorem logSubmit_bad (hb : 6 ≤ fld v 16 4 ∨ logCodeOk (fld v 0 16) = false) : ∃ t, exec (.logSubmit m v) s = .next t ∧
    t = ((s.setLogStage m 15 1).err .ldg eBadValue 0x60 m).answer .done ∧ t.ldg.fifo = s.ldg.fifo := by
  have hx := exec_logSubmit (v := v) h
  have hs : s.logSubmit m v = (s.setLogStage m 15 1).err .ldg eBadValue 0x60 m := (if_neg (by simp [hm])).trans (if_pos (by simpa using hb))
  rw [hs] at hx
  have hl : (((s.setLogStage m 15 1).err .ldg eBadValue 0x60 m).answer .done).ldg = (s.setLogStage m 15 1).ldg := State.err_ldg _ _ _ _ _
  exact ⟨_, hx, rfl, by rw [hl]; rfl⟩

theorem logSubmit_accepted (hv : fld v 16 4 < 6) (hc : logCodeOk (fld v 0 16) = true) (hr : s.ldgRoom (fld (s.logStage m 15) 0 2) = true) :
    ∃ t rs, exec (.logSubmit m v) s = .next t ∧ t.resp = .done ∧ t.ldg.fifo = s.ldg.fifo ++ rs ∧ rs.length = fld (s.logStage m 15) 0 2 ∧
      (∀ r ∈ rs, r.code = fld v 0 16 ∧ r.sev = fld v 16 4 ∧ r.src = fld v 20 12) ∧ ChangesOnly [.ldg, .resp] s t := by
  have hx := exec_logSubmit (v := v) h
  obtain ⟨ps, hps, hs⟩ : ∃ ps : List (Word × Word × Word), ps.length = fld (s.logStage m 15) 0 2 ∧
      s.logSubmit m v = (s.setLogStage m 15 1).logGroup m (fld v 0 16) (fld v 16 4) (fld v 20 12) ps :=
    ⟨_, by rw [List.length_map, List.length_range], (if_neg (by simp [hm])).trans (if_neg (by simp [hv, hc]))⟩
  have hroom : (s.setLogStage m 15 1).ldgRoom ps.length = true := hps ▸ hr
  rw [hs, State.logGroup_room _ _ _ _ hroom] at hx
  refine ⟨_, (s.setLogStage m 15 1).stamped (fld v 0 16) (fld v 16 4) (fld v 20 12) ps, hx, rfl, rfl, (stampGroup_length _ _ _ _ _ _ _ _ _ _).trans hps,
    fun r hr => stampGroup_fields hr, ?_⟩
  exact (goes_answer _ _ rfl (goes_set_ldg s _ rfl (.refl _ s))).1

end

/-! ### Writing the oldest record, and the LOST record (R402, R403) -/

theorem State.nvsAllows_congr {s t : State} (hr : t.regs = s.regs) (hm : t.modId = s.modId) (w : NvsWriter) (r : Nat) : t.nvsAllows w r = s.nvsAllows w r := by
  unfold State.nvsAllows
  exact State.rb_congr (State.rd_congr hr hm _) _

/-- The oldest record, out of the FIFO. -/
abbrev State.recTaken (s : State) (l : List Rec) : State := { s with ldg := { s.ldg with fifo := l } }

/-- The count and the interrupts of a record that is written. -/
def State.recNoted (s : State) (r : Rec) : State :=
  let t := (s.bump R.ldg_REC_CNT 1).irq .ldg 0
  if t.rf R.ldg_SEV_LEVEL 0 4 ≤ r.sev then t.irq .ldg 2 else t

theorem State.writeRec_eq {s : State} {r : Rec} {l : List Rec} (h : s.ldg.fifo = r :: l) :
    s.writeRec = ((s.recTaken l).nvsWrite .ldg (slotAddr (slotOf r.seq)) (recBytes r)).recNoted r := by
  rw [State.writeRec, h]
  rfl

theorem State.recNoted_goes (s : State) (r : Rec) : Goes [.regs, .pba, .out] s (s.recNoted r) := by
  have ht : Goes [.regs, .pba, .out] s ((s.bump R.ldg_REC_CNT 1).irq .ldg 0) := goes_irq _ _ _ rfl (goes_bump s _ _ rfl (.refl _ s))
  exact .ite (goes_irq _ _ _ rfl ht) ht

theorem State.recNoted_counts (s : State) (r : Rec) : (s.recNoted r).rd R.ldg_REC_CNT = s.rd R.ldg_REC_CNT + 1 ∧ (s.recNoted r).rb (hdr .ldg oRaw) 0 = true := by
  have hc : ((s.bump R.ldg_REC_CNT 1).irq .ldg 0).rd R.ldg_REC_CNT = s.rd R.ldg_REC_CNT + 1 := (State.irq_rd_past _ _ _ (by decide)).trans (State.rd_wr_same _ _ _)
  have hr : ((s.bump R.ldg_REC_CNT 1).irq .ldg 0).rb (hdr .ldg oRaw) 0 = true := State.irq_raises _ _ (by decide) (by decide)
  unfold State.recNoted
  dsimp only
  split
  · exact ⟨(State.irq_rd_past _ _ _ (by decide)).trans hc, State.irq_keeps_raw _ _ _ hr⟩
  · exact ⟨hc, hr⟩

theorem State.ldgDrainCheck_goes (s : State) : Goes [.regs, .pba, .out] s s.ldgDrainCheck := goes_ldgDrainCheck s rfl (.refl _ s)

theorem State.ldgDrainCheck_kept {s : State} {v : Word} (h : s.rd R.ldg_REC_CNT = v ∧ s.rb (hdr .ldg oRaw) 0 = true) :
    s.ldgDrainCheck.rd R.ldg_REC_CNT = v ∧ s.ldgDrainCheck.rb (hdr .ldg oRaw) 0 = true := by
  unfold State.ldgDrainCheck
  split
  · refine ⟨Eq.trans ?_ h.1, State.setDrained_raw _ h.2⟩
    unfold State.setDrained
    split
    · rfl
    · exact (State.irq_rd_past _ _ _ (by decide)).trans (State.wb_rd_ne _ _ _ (by decide))
  · exact h

theorem recordWrite_waits {s : State} (h : s.inReset .ldg = true ∨ s.ldg.ready = false ∨ (s.en .ldg = true ∧ s.drainBit .ldg = true)) :
    exec .recordWrite s = .next s :=
  congrArg Host.Outcome.next (if_pos (by simpa [or_assoc] using h))

theorem State.not_drains_of_takes {s : State} {b : Blk} (h : s.takes b = true) : s.drainBit b = false := by
  simp only [State.takes, Bool.and_eq_true, Bool.not_eq_true'] at h
  exact h.2

theorem recordWrite_writes {r : Rec} {l : List Rec} {s : State} (hd : s.ldg.ready = true) (ht : s.takes .ldg = true) (hf : s.ldg.fifo = r :: l)
    (hn : s.inReset .nvs = false) (ha : s.rb (R.nvs_NWRITERSr (nvsRegion (slotAddr (slotOf r.seq)))) (nvsBit .ldg) = true) : ∃ t, exec .recordWrite s = .next t ∧ t.ldg.fifo = l ∧
      t.nvs.mem = memWrite s.nvs.mem (slotAddr (slotOf r.seq)) (recBytes r) ∧ t.rd R.ldg_REC_CNT = s.rd R.ldg_REC_CNT + 1 ∧ t.rb (hdr .ldg oRaw) 0 = true ∧
      ChangesOnly [.regs, .ldg, .nvs, .pba, .out] s t := by
  have hslot := slotOf_lt r.seq
  have hregion : nvsRegion (slotAddr (slotOf r.seq)) = 5 := by
    unfold nvsRegion slotAddr
    repeat rw [if_neg (by omega)]
    rw [if_pos (by omega)]
  have hx : exec .recordWrite s = .next s.writeRec.ldgDrainCheck :=
    congrArg Host.Outcome.next (if_neg (by simp [State.not_inReset_of_takes ht, hd, State.not_drains_of_takes ht]))
  have hallow : (s.recTaken l).nvsAllows .ldg 5 = true := (State.nvsAllows_congr rfl rfl _ _).trans (hregion ▸ ha)
  have hw : (s.recTaken l).nvsWrite .ldg (slotAddr (slotOf r.seq)) (recBytes r) = (s.recTaken l).nvsPut (slotAddr (slotOf r.seq)) (recBytes r) := by
    refine State.nvsWrite_region (r := 5) (by decide) ?_ ?_ ?_ hn hallow
    · show 0x100000 ≤ slotAddr (slotOf r.seq)
      unfold slotAddr
      omega
    · rw [recBytes_length]
      show slotAddr (slotOf r.seq) + 32 ≤ 0x300000
      unfold slotAddr
      omega
    · exact List.ne_nil_of_length_pos (by rw [recBytes_length]; decide)
  rw [State.writeRec_eq hf, hw] at hx
  generalize hp : (s.recTaken l).nvsPut (slotAddr (slotOf r.seq)) (recBytes r) = p at hx
  have hg : Goes [.regs, .pba, .out] p (p.recNoted r).ldgDrainCheck := (p.recNoted_goes r).trans (State.ldgDrainCheck_goes _)
  have hcnt : p.rd R.ldg_REC_CNT = s.rd R.ldg_REC_CNT := by rw [← hp]; exact State.rd_congr rfl rfl _
  obtain ⟨hc, hraw⟩ := State.ldgDrainCheck_kept (p.recNoted_counts r)
  refine ⟨_, hx, (congrArg Ldg.fifo (hg.1 .ldg (by decide))).trans (by rw [← hp]; rfl), (congrArg Nvs.mem (hg.1 .nvs (by decide))).trans (by rw [← hp]; rfl),
    hc.trans (by rw [hcnt]), hraw, (exec_goes hx).1.mono (by decide)⟩

theorem lostRecord_waits {s : State} (h : s.inReset .ldg = true ∨ s.ldg.ready = false ∨ s.takes .ldg = false ∨ 64 ≤ s.ldg.fifo.length ∨ (s.ldg.lostDue = 0 ∧ s.ldg.lostUnknown = false)) :
    exec .lostRecord s = .next s := by
  refine congrArg Host.Outcome.next ?_
  unfold State.lostRec
  split
  · rfl
  · next hn =>
    simp only [Bool.or_eq_true, Bool.not_eq_true', decide_eq_true_eq, not_or] at hn
    obtain ⟨⟨⟨hr, hd⟩, ht⟩, hl⟩ := hn
    obtain ⟨hz, hu⟩ := (((h.resolve_left hr).resolve_left hd).resolve_left ht).resolve_left hl
    rw [if_neg (by simp [hu]), if_pos hz]

theorem State.ldgRoom_one {s : State} (ht : s.takes .ldg = true) (hl : s.ldg.fifo.length < 64) : s.ldgRoom 1 = true := by
  rw [State.ldgRoom, ht, Bool.true_and, decide_eq_true_eq]
  omega

section
variable {s : State} (hd : s.ldg.ready = true) (ht : s.takes .ldg = true) (hl : s.ldg.fifo.length < 64)
include hd ht hl

theorem exec_lostRecord : exec .lostRecord s = .next (
    if s.ldg.lostUnknown then ({ s with ldg := { s.ldg with lostUnknown := false } } : State).logGroup .block 0xEA00 3 0x1A0 [(0, 1, 0)]
    else if s.ldg.lostDue = 0 then s
    else ({ s with ldg := { s.ldg with lostDue := 0 } } : State).logGroup .block 0xEA00 3 0x1A0 [(w32 s.ldg.lostDue, 0, 0)]) :=
  congrArg Host.Outcome.next (if_neg (by simp [State.not_inReset_of_takes ht, hd, ht, hl]))

theorem lostRecord_counts (hu : s.ldg.lostUnknown = false) (hz : s.ldg.lostDue ≠ 0) : ∃ t r, exec .lostRecord s = .next t ∧ t.ldg.lostDue = 0 ∧
    t.ldg.fifo = s.ldg.fifo ++ [r] ∧ r.code = 0xEA00 ∧ r.p0 = w32 s.ldg.lostDue ∧ ChangesOnly [.ldg] s t := by
  have hx := exec_lostRecord hd ht hl
  have hroom : ({ s with ldg := { s.ldg with lostDue := 0 } } : State).ldgRoom 1 = true := State.ldgRoom_one ht hl
  rw [if_neg (by simp [hu]), if_neg hz, State.logGroup_room _ _ _ _ hroom] at hx
  exact ⟨_, _, hx, rfl, rfl, rfl, rfl, (goes_set_ldg s _ rfl (.refl _ s)).1⟩

theorem lostRecord_unknown (hu : s.ldg.lostUnknown = true) : ∃ t r, exec .lostRecord s = .next t ∧ t.ldg.lostUnknown = false ∧
    t.ldg.fifo = s.ldg.fifo ++ [r] ∧ r.code = 0xEA00 ∧ r.p0 = 0 ∧ r.p1 = 1 ∧ ChangesOnly [.ldg] s t := by
  have hx := exec_lostRecord hd ht hl
  have hroom : ({ s with ldg := { s.ldg with lostUnknown := false } } : State).ldgRoom 1 = true := State.ldgRoom_one ht hl
  rw [if_pos hu, State.logGroup_room _ _ _ _ hroom] at hx
  exact ⟨_, _, hx, rfl, rfl, rfl, rfl, rfl, (goes_set_ldg s _ rfl (.refl _ s)).1⟩

end
/-! ### The scan after release (R397, R400) -/

theorem resumeSeries_ready (s : State) (n : Nat) : (resumeSeries s n).ldg.ready = s.ldg.ready := by
  have reinit (t : State) : (((t.setSeries n Series.init).logGroup .block 0xEA02 2 0x1A0 [(w32 n, 0, 0)]).irq .ldg 3).ldg.ready = t.ldg.ready :=
    (congrArg Ldg.ready (State.irq_ldg _ _ _)).trans (State.logGroup_kept _ _ _ _ _ _).1
  unfold resumeSeries
  split
  · split
    · rfl
    · split
      · rfl
      · exact reinit s
  · exact reinit s

theorem State.event_ready (s : State) (code src : Nat) (p : Bytes) : (s.event code src p).ldg.ready = s.ldg.ready := by
  unfold State.event
  extract_lets t
  have ht : t.ldg.ready = s.ldg.ready := (State.logGroup_kept _ _ _ _ _ _).1
  split
  · exact ht
  · split
    · exact (congrArg Ldg.ready ((goes_putM2h t _ rfl (.refl [.regs, .out, .mbx, .pba] t)).1 .ldg (by decide))).trans ht
    · exact ht

theorem State.lateFlush_ready (s : State) : s.lateFlush.ldg.ready = s.ldg.ready := by
  unfold State.lateFlush
  split
  · refine foldl_keeps (P := fun t : State => t.ldg.ready = s.ldg.ready) (fun t x h => ?_) _ rfl
    cases x with
    | record code sev src p0 p1 p2 => exact (State.logGroup_kept _ _ _ _ _ _).1.trans h
    | event code src p => exact (t.event_ready code src p).trans h
  · rfl

/-- The operating time that resumes is not behind the time that has passed since release. -/
theorem State.scanDone_opTime (s : State) : s.opTime ≤ s.scanDone.opTime := by
  unfold State.scanDone
  extract_lets best q saved op bad t
  show s.opTime ≤ max op t.opTime + (t.cnt - t.cnt).toNat
  exact le_trans (le_max_right op s.opTime) (Nat.le_add_right _ _)

theorem ledgerScanDone_scans {s : State} (hr : s.inReset .ldg = false) (hd : s.ldg.ready = false) : ∃ t, exec .ledgerScanDone s = .next t ∧
    t = ((List.range 256).foldl resumeSeries s.scanDone).lateFlush ∧ t.ldg.ready = true ∧ s.opTime ≤ s.scanDone.opTime := by
  refine ⟨_, congrArg Host.Outcome.next (if_neg (by simp [hr, hd])), rfl, ?_, ?_⟩
  · exact (State.lateFlush_ready _).trans (foldl_keeps (P := fun t : State => t.ldg.ready = true) (fun t n h => (resumeSeries_ready t n).trans h) _ rfl)
  · exact s.scanDone_opTime

/-! ### The reading windows (R406, R407) -/

theorem State.setLdgWin_same (s : State) (m : Master) (w : LdgWin) : (s.setLdgWin m w).ldgWin m = w := by
  simp only [State.ldgWin, State.setLdgWin, Sparse.find_put_same, Option.getD_some]

theorem State.latchWin_shows (s : State) (m : Master) (q : Word) : (s.latchWin m q).ldgWin m =
    { s.ldgWin m with cursor := q, state := (s.latchView q.toNat).1, slot := slotOf q.toNat, win := (s.latchView q.toNat).2 } := s.setLdgWin_same m _

section
variable {m : Master} {v : Word} {s : State} (h : PageOpen s .ldg m)
include h

theorem cursorWrite_latches : ∃ t, exec (.cursorWrite m v) s = .next t ∧ t = (s.latchWin m v).answer .done ∧
    (t.ldgWin m).cursor = v ∧ (t.ldgWin m).slot = slotOf v.toNat ∧ (t.ldgWin m).state = (s.latchView v.toNat).1 ∧ (t.ldgWin m).win = (s.latchView v.toNat).2 := by
  have hw : ((s.latchWin m v).answer .done).ldgWin m = _ := s.latchWin_shows m v
  refine ⟨_, congrArg Host.Outcome.next (State.writeAt_open h _ _ _), rfl, ?_⟩
  rw [hw]
  exact ⟨rfl, rfl, rfl, rfl⟩

/-- The answer to a read of WIN7. -/
abbrev State.win7Shown (s : State) (m : Master) : State := s.answer (.data ((s.ldgWin m).win.getD 7 0))

theorem exec_windowAutoRead : exec (.windowAutoRead m) s = .next (
    if (s.ldgWin m).auto then (s.win7Shown m).latchWin m (w32 (seqNext (s.ldgWin m).cursor.toNat)) else s.win7Shown m) :=
  congrArg Host.Outcome.next (State.readAt_open h _ _)

theorem windowAutoRead_reads : ∃ t, exec (.windowAutoRead m) s = .next t ∧ t.resp = .data ((s.ldgWin m).win.getD 7 0) ∧
    ((s.ldgWin m).auto = true → (t.ldgWin m).cursor = w32 (seqNext (s.ldgWin m).cursor.toNat)) ∧ ((s.ldgWin m).auto = false → t.ldg = s.ldg) ∧ ChangesOnly [.ldg, .resp] s t := by
  have hx := exec_windowAutoRead h
  cases ha : (s.ldgWin m).auto with
  | true =>
    rw [ha, if_pos rfl] at hx
    exact ⟨_, hx, rfl, fun _ => congrArg LdgWin.cursor (State.latchWin_shows _ m _), nofun, (goes_set_ldg _ _ rfl (goes_answer s _ rfl (.refl _ s))).1⟩
  | false =>
    rw [ha, if_neg (by decide)] at hx
    exact ⟨_, hx, rfl, nofun, fun _ => rfl, (goes_answer s _ rfl (.refl _ s)).1⟩

end

/-! ### Series (R408, R409) -/

theorem Sparse.find_put_ne {α : Type} (l : Sparse α) {a b : Nat} (v : α) (h : b ≠ a) : Sparse.find (Sparse.put l a v) b = Sparse.find l b := by
  rw [Sparse.put, Sparse.find_ins_ne _ _ h, Sparse.find_del_ne _ h]

theorem Series.bin_lt (x : Series) (v : Int) : x.bin v < 64 := by
  unfold Series.bin
  split <;> omega

theorem Series.feed_bins (x : Series) (v : Int) (t c : Nat) : x.bin v < 64 ∧ (x.feed v t c).count = (x.count + 1) % 2 ^ 64 ∧
    (∀ i, i ≠ x.bin v → Sparse.find (x.feed v t c).bins i = Sparse.find x.bins i) ∧
    (Sparse.find (x.feed v t c).bins (x.bin v)) = some (min ((Sparse.find x.bins (x.bin v)).getD 0 + 1) 0xFFFFFFFF) :=
  ⟨x.bin_lt v, rfl, fun _ hi => Sparse.find_put_ne _ _ hi, Sparse.find_put_same _ _ _⟩

theorem State.setSeries_same (s : State) (n : Nat) (x : Series) : (s.setSeries n x).series n = x := by
  simp only [State.series, State.setSeries, Sparse.find_put_same, Option.getD_some]

theorem State.series_congr {s t : State} (h : t.ldg.series = s.ldg.series) (n : Nat) : t.series n = s.series n := by
  rw [State.series, h, State.series]

/-- A series that is cleared is empty. -/
theorem State.clearSeries_same (s : State) (n cause : Nat) : (s.clearSeries n cause).series n = (s.series n).clear :=
  (State.series_congr (State.logGroup_kept _ _ _ _ _ _).2 n).trans (s.setSeries_same n _)

theorem State.clearSeries_count (s : State) (n cause : Nat) : ((s.clearSeries n cause).series n).count = 0 := by
  rw [State.clearSeries_same]
  rfl

section
variable {m : Master} {v : Word} {s : State} (h : PageOpen s .ldg m)
include h

theorem exec_seriesFeed (hm : mayLog m = true) : exec (.seriesFeed m v) s = .next (
    (if !s.takes .ldg || !(s.series (fld v 0 8)).en then s.err .ldg 0x82 0x144 m
      else s.setSeries (fld v 0 8) ((s.series (fld v 0 8)).feed (sInt (s.logStage m 14)) (s.opTime / 250000000) (s.rf R.pwt_PWRCYC 0 24)) : State).answer .done) :=
  congrArg Host.Outcome.next ((State.writeAt_open h _ _ _).trans (congrArg (State.answer · .done) (if_neg (by simp [hm]))))

theorem seriesFeed_refused (hm : mayLog m = true) (hn : s.takes .ldg = false ∨ (s.series (fld v 0 8)).en = false) :
    ∃ t, exec (.seriesFeed m v) s = .next t ∧ t = (s.err .ldg 0x82 0x144 m).answer .done ∧ t.ldg = s.ldg := by
  have hx := exec_seriesFeed (v := v) h hm
  rw [if_pos (by simpa using hn)] at hx
  exact ⟨_, hx, rfl, State.err_ldg _ _ _ _ _⟩

theorem seriesFeed_feeds (hm : mayLog m = true) (ht : s.takes .ldg = true) (he : (s.series (fld v 0 8)).en = true) : ∃ t, exec (.seriesFeed m v) s = .next t ∧
    t = (s.setSeries (fld v 0 8) ((s.series (fld v 0 8)).feed (sInt (s.logStage m 14)) (s.opTime / 250000000) (s.rf R.pwt_PWRCYC 0 24))).answer .done ∧
    (t.series (fld v 0 8)).count = ((s.series (fld v 0 8)).count + 1) % 2 ^ 64 ∧ t.resp = .done := by
  have hx := exec_seriesFeed (v := v) h hm
  rw [if_neg (by simp [ht, he])] at hx
  exact ⟨_, hx, rfl, congrArg Series.count (s.setSeries_same _ _), rfl⟩

theorem exec_serCtrlClear : exec (.serCtrlClear m v) s = .next ((if tst v 0 then s.clearSeries (s.rf R.ldg_SER_SEL 0 8) 1 else s : State).answer .done) :=
  congrArg Host.Outcome.next (State.writeAt_open h _ _ _)

theorem serCtrlClear_idle (hv : tst v 0 = false) : ∃ t, exec (.serCtrlClear m v) s = .next t ∧ t = s.answer .done ∧ t.ldg = s.ldg := by
  have hx := exec_serCtrlClear (v := v) h
  rw [hv, if_neg (by decide)] at hx
  exact ⟨_, hx, rfl, rfl⟩

theorem serCtrlClear_clears (hv : tst v 0 = true) : ∃ t, exec (.serCtrlClear m v) s = .next t ∧
    t = (s.clearSeries (s.rf R.ldg_SER_SEL 0 8) 1).answer .done ∧ (t.series (s.rf R.ldg_SER_SEL 0 8)).count = 0 ∧ t.resp = .done := by
  have hx := exec_serCtrlClear (v := v) h
  rw [hv, if_pos rfl] at hx
  exact ⟨_, hx, rfl, s.clearSeries_count _ _, rfl⟩

end

/-! ### Saving (R397, R410) -/

theorem State.saveSeries_goes (s : State) : Goes [.regs, .out, .nvs, .pba] s s.saveSeries := goes_saveSeries s rfl (.refl _ s)

theorem seriesSave_saves {s : State} (hr : s.inReset .ldg = false) (he : s.en .ldg = true) :
    ∃ t, exec .seriesSave s = .next t ∧ t = s.saveSeries ∧ t.ldg = s.ldg ∧ ChangesOnly (touches .seriesSave) s t := by
  have hx : exec .seriesSave s = .next s.saveSeries := congrArg Host.Outcome.next (if_neg (by simp [hr, he]))
  exact ⟨_, hx, rfl, s.saveSeries_goes.1 .ldg (by decide), (exec_goes hx).1⟩

theorem optimeSave_saves {s : State} (hr : s.inReset .ldg = false) (he : s.en .ldg = true) :
    ∃ t, exec .optimeSave s = .next t ∧ t = s.nvsWrite .ldg 0x40000 (toLe 8 s.opTime) ∧
      (s.inReset .nvs = false → s.nvsAllows .ldg 3 = true → t.nvs.mem = memWrite s.nvs.mem 0x40000 (toLe 8 s.opTime)) ∧ ChangesOnly (touches .optimeSave) s t := by
  have hx : exec .optimeSave s = .next (s.nvsWrite .ldg 0x40000 (toLe 8 s.opTime)) := congrArg Host.Outcome.next (if_neg (by simp [hr, he]))
  refine ⟨_, hx, rfl, fun hn ha => ?_, (exec_goes hx).1⟩
  rw [State.nvsWrite_region (r := 3) (by decide) (by decide) (by rw [toLe_length]; decide) (List.ne_nil_of_length_pos (by rw [toLe_length]; decide)) hn ha]
  rfl

theorem ldgSaves_wait {s : State} (h : s.inReset .ldg = true ∨ s.en .ldg = false) : exec .seriesSave s = .next s ∧ exec .optimeSave s = .next s :=
  ⟨congrArg Host.Outcome.next (if_pos (by simpa using h)), congrArg Host.Outcome.next (if_pos (by simpa using h))⟩

/-! ### Mailbox commands (R414) -/

section
variable {tag : Word} {k : Cmd} {s : State}

section
variable (h : Ready s 0x0A00 tag k)
include h

theorem exec_ledgerRead : exec (.ledgerRead tag) s = .next (
    if k.par 4 2 = 0 ∨ 4096 < k.par 4 2 then s.reply k stBadParam [] []
    else if k.e.length ≠ 32 * k.par 4 2 then s.reply k stBadLength [] []
    else if s.inReset .ldg then s.reply k stBusy [] []
    else s.reply k stOk (toLe 4 (readRecs s (k.par 4 2) (k.par 0 4)).2 ++ toLe 4 s.ldg.nextSeq) (readRecs s (k.par 4 2) (k.par 0 4)).1) :=
  congrArg Host.Outcome.next (State.withCmd_ready h _)

theorem ledgerRead_badParam (hn : k.par 4 2 = 0 ∨ 4096 < k.par 4 2) : exec (.ledgerRead tag) s = .next (s.reply k stBadParam [] []) :=
  (exec_ledgerRead h).trans (congrArg Host.Outcome.next (if_pos hn))

variable (h1 : 1 ≤ k.par 4 2) (h2 : k.par 4 2 ≤ 4096)
include h1 h2

theorem ledgerRead_badLength (hl : k.e.length ≠ 32 * k.par 4 2) : exec (.ledgerRead tag) s = .next (s.reply k stBadLength [] []) :=
  (exec_ledgerRead h).trans (congrArg Host.Outcome.next ((if_neg (by omega)).trans (if_pos hl)))

variable (hl : k.e.length = 32 * k.par 4 2)
include hl

theorem ledgerRead_busy (hr : s.inReset .ldg = true) : exec (.ledgerRead tag) s = .next (s.reply k stBusy [] []) :=
  (exec_ledgerRead h).trans (congrArg Host.Outcome.next ((if_neg (by omega)).trans ((if_neg (not_not.mpr hl)).trans (if_pos hr))))

theorem ledgerRead_reads (hr : s.inReset .ldg = false) : exec (.ledgerRead tag) s = .next
    (s.reply k stOk (toLe 4 (readRecs s (k.par 4 2) (k.par 0 4)).2 ++ toLe 4 s.ldg.nextSeq) (readRecs s (k.par 4 2) (k.par 0 4)).1) :=
  (exec_ledgerRead h).trans (congrArg Host.Outcome.next ((if_neg (by omega)).trans ((if_neg (not_not.mpr hl)).trans (if_neg (by simp [hr])))))

end

section
variable (h : Ready s 0x0A01 tag k)
include h

/-- The record of a note. -/
abbrev State.noted (s : State) (k : Cmd) : State := s.ledger (k.par 0 2) (k.par 2 1) 0xFF0 (k.par 3 4) (k.par 7 4) (k.par 11 4)

theorem exec_ledgerNote : exec (.ledgerNote tag) s = .next (
    if k.par 0 2 < 0xEAF0 ∨ 0xEAFF < k.par 0 2 ∨ 6 ≤ k.par 2 1 then s.reply k stBadParam [] []
    else if s.inReset .ldg || !s.ldgRoom 1 then (s.noted k).reply k stBusy [] []
    else (s.noted k).reply k stOk (toLe 4 s.ldg.nextSeq) []) :=
  congrArg Host.Outcome.next (State.withCmd_ready h _)

theorem ledgerNote_badParam (hn : k.par 0 2 < 0xEAF0 ∨ 0xEAFF < k.par 0 2 ∨ 6 ≤ k.par 2 1) : exec (.ledgerNote tag) s = .next (s.reply k stBadParam [] []) :=
  (exec_ledgerNote h).trans (congrArg Host.Outcome.next (if_pos hn))

variable (h1 : 0xEAF0 ≤ k.par 0 2) (h2 : k.par 0 2 ≤ 0xEAFF) (h3 : k.par 2 1 < 6)
include h1 h2 h3

theorem ledgerNote_refused (hn : s.inReset .ldg = true ∨ s.ldgRoom 1 = false) : ∃ t, exec (.ledgerNote tag) s = .next t ∧ t = (s.noted k).reply k stBusy [] [] ∧
    t.ldg.fifo = s.ldg.fifo ∧ Ended k t := by
  have hx := exec_ledgerNote h
  rw [if_neg (by omega), if_pos (by simpa using hn)] at hx
  exact ⟨_, hx, rfl, (congrArg Ldg.fifo (State.reply_ldg _ _ _ _ _)).trans (State.logGroup_fifo_refused _ _ _ _ hn), State.reply_ended _ _ _ _ _⟩

theorem ledgerNote_takes (hr : s.inReset .ldg = false) (hn : s.ldgRoom 1 = true) : ∃ t, exec (.ledgerNote tag) s = .next t ∧
    t = (s.noted k).reply k stOk (toLe 4 s.ldg.nextSeq) [] ∧ t.ldg.fifo.length = s.ldg.fifo.length + 1 ∧ Ended k t := by
  have hx := exec_ledgerNote h
  rw [if_neg (by omega), if_neg (by simp [hr, hn])] at hx
  have hu : s.noted k = _ := State.logGroup_room (ps := [_]) _ _ _ _ hn
  refine ⟨_, hx, rfl, ?_, State.reply_ended _ _ _ _ _⟩
  rw [State.reply_ldg, hu]
  simp [State.stamped, stampGroup]

end

section
variable (h : Ready s 0x0A02 tag k)
include h

theorem exec_seriesRead : exec (.seriesRead tag) s = .next (
    if s.inReset .ldg then s.reply k stBusy [] [] else s.reply k stOk [] (seriesBytes (s.series (k.par 0 1)))) :=
  congrArg Host.Outcome.next (State.withCmd_ready h _)

theorem seriesRead_busy (hr : s.inReset .ldg = true) : exec (.seriesRead tag) s = .next (s.reply k stBusy [] []) :=
  (exec_seriesRead h).trans (congrArg Host.Outcome.next (if_pos hr))

theorem seriesRead_reads (hr : s.inReset .ldg = false) : exec (.seriesRead tag) s = .next (s.reply k stOk [] (seriesBytes (s.series (k.par 0 1)))) :=
  (exec_seriesRead h).trans (congrArg Host.Outcome.next (if_neg (by simp [hr])))

end

/-- The series that SERIES_CFG asks for. -/
abbrev seriesAsked (k : Cmd) (x : Series) : Series := { x with en := decide (k.par 1 1 = 1), qty := k.par 2 1, lo := sgn 32 (k.par 3 4), width := k.par 7 4 }

section
variable (h : Ready s 0x0A03 tag k)
include h

theorem exec_seriesCfg : exec (.seriesCfg tag) s = .next (
    if k.par 7 4 = 0 ∨ 1 < k.par 1 1 then s.reply k stBadParam [] []
    else if s.inReset .ldg || ((decide (sgn 32 (k.par 3 4) ≠ (s.series (k.par 0 1)).lo) || decide (k.par 7 4 ≠ (s.series (k.par 0 1)).width)) && (s.series (k.par 0 1)).en)
      then s.reply k stBusy [] []
    else (if decide (sgn 32 (k.par 3 4) ≠ (s.series (k.par 0 1)).lo) || decide (k.par 7 4 ≠ (s.series (k.par 0 1)).width)
      then (s.setSeries (k.par 0 1) (seriesAsked k (s.series (k.par 0 1)))).clearSeries (k.par 0 1) 2
      else s.setSeries (k.par 0 1) (seriesAsked k (s.series (k.par 0 1))) : State).reply k stOk [] []) :=
  congrArg Host.Outcome.next (State.withCmd_ready h _)

theorem seriesCfg_badParam (hp : k.par 7 4 = 0 ∨ 1 < k.par 1 1) : exec (.seriesCfg tag) s = .next (s.reply k stBadParam [] []) :=
  (exec_seriesCfg h).trans (congrArg Host.Outcome.next (if_pos hp))

variable (hw : k.par 7 4 ≠ 0) (he : k.par 1 1 ≤ 1)
include hw he

theorem seriesCfg_busy (hb : s.inReset .ldg = true ∨ ((sgn 32 (k.par 3 4) ≠ (s.series (k.par 0 1)).lo ∨ k.par 7 4 ≠ (s.series (k.par 0 1)).width) ∧ (s.series (k.par 0 1)).en = true)) :
    exec (.seriesCfg tag) s = .next (s.reply k stBusy [] []) :=
  (exec_seriesCfg h).trans (congrArg Host.Outcome.next ((if_neg (by omega)).trans (if_pos (by
    simp only [Bool.or_eq_true, Bool.and_eq_true, decide_eq_true_eq]
    exact hb))))

variable (hr : s.inReset .ldg = false)
include hr

theorem seriesCfg_keepsShape (hl : sgn 32 (k.par 3 4) = (s.series (k.par 0 1)).lo) (hx : k.par 7 4 = (s.series (k.par 0 1)).width) : ∃ t, exec (.seriesCfg tag) s = .next t ∧
    t = (s.setSeries (k.par 0 1) (seriesAsked k (s.series (k.par 0 1)))).reply k stOk [] [] ∧ t.series (k.par 0 1) = seriesAsked k (s.series (k.par 0 1)) ∧ Ended k t := by
  have hs : (decide (sgn 32 (k.par 3 4) ≠ (s.series (k.par 0 1)).lo) || decide (k.par 7 4 ≠ (s.series (k.par 0 1)).width)) = false := by
    rw [Bool.or_eq_false_iff, decide_eq_false_iff_not, decide_eq_false_iff_not]
    exact ⟨not_not.mpr hl, not_not.mpr hx⟩
  have hx := exec_seriesCfg h
  rw [if_neg (by omega), hs, if_neg (by simp [hr]), if_neg (by decide)] at hx
  exact ⟨_, hx, rfl, (State.series_congr (congrArg Ldg.series (State.reply_ldg _ _ _ _ _)) _).trans (s.setSeries_same _ _), State.reply_ended _ _ _ _ _⟩

theorem seriesCfg_reshapes (hl : sgn 32 (k.par 3 4) ≠ (s.series (k.par 0 1)).lo ∨ k.par 7 4 ≠ (s.series (k.par 0 1)).width) (hn : (s.series (k.par 0 1)).en = false) :
    ∃ t, exec (.seriesCfg tag) s = .next t ∧ t = ((s.setSeries (k.par 0 1) (seriesAsked k (s.series (k.par 0 1)))).clearSeries (k.par 0 1) 2).reply k stOk [] [] ∧
      t.series (k.par 0 1) = (seriesAsked k (s.series (k.par 0 1))).clear ∧ Ended k t := by
  have hs : (decide (sgn 32 (k.par 3 4) ≠ (s.series (k.par 0 1)).lo) || decide (k.par 7 4 ≠ (s.series (k.par 0 1)).width)) = true := by
    rw [Bool.or_eq_true, decide_eq_true_eq, decide_eq_true_eq]
    exact hl
  have hx := exec_seriesCfg h
  rw [if_neg (by omega), hs, if_neg (by simp [hr, hn]), if_pos rfl] at hx
  refine ⟨_, hx, rfl, (State.series_congr (congrArg Ldg.series (State.reply_ldg _ _ _ _ _)) _).trans ?_, State.reply_ended _ _ _ _ _⟩
  rw [State.clearSeries_same, State.setSeries_same]

end

section
variable (h : Ready s 0x0A04 tag k)
include h

theorem exec_seriesClear : exec (.seriesClear tag) s = .next (if s.inReset .ldg then s.reply k stBusy [] [] else (s.clearSeries (k.par 0 1) 1).reply k stOk [] []) :=
  congrArg Host.Outcome.next (State.withCmd_ready h _)

theorem seriesClear_busy (hr : s.inReset .ldg = true) : exec (.seriesClear tag) s = .next (s.reply k stBusy [] []) :=
  (exec_seriesClear h).trans (congrArg Host.Outcome.next (if_pos hr))

theorem seriesClear_clears (hr : s.inReset .ldg = false) : ∃ t, exec (.seriesClear tag) s = .next t ∧ t = (s.clearSeries (k.par 0 1) 1).reply k stOk [] [] ∧
    (t.series (k.par 0 1)).count = 0 ∧ Ended k t := by
  have hx := exec_seriesClear h
  rw [if_neg (by simp [hr])] at hx
  refine ⟨_, hx, rfl, ?_, State.reply_ended _ _ _ _ _⟩
  rw [State.series_congr (congrArg Ldg.series (State.reply_ldg _ _ _ _ _)), State.clearSeries_count]

end

end

/-! ### The statement -/

/-- Settles O54: records by `recBytes_valid` and `nvsWrite_region`, groups by `logGroup_room`, series by what `feed` and `clear` leave of them. -/
theorem ledgerKeepsItsRecords : Obligations.LedgerKeepsItsRecords := by
  unfold Obligations.LedgerKeepsItsRecords
  refine ⟨fun r => ⟨recBytes_length r, recBytes_valid r⟩, fun p q => slotOf_shared, slotOf_lt, ?_, fun s => recordWrite_waits, ?_, ?_, ?_, ?_, ?_, ?_, ?_, ?_, ?_, ?_, ?_, ?_, ?_, ?_, ?_⟩
  · exact fun m v s h => ⟨logSubmit_refused h, logSubmit_bad h, logSubmit_accepted h⟩
  · exact fun r l s _ hd ht hf hn ha => recordWrite_writes hd ht hf hn ha
  · exact fun s => ⟨lostRecord_waits, lostRecord_counts, lostRecord_unknown⟩
  · exact fun s => ⟨fun h => congrArg Host.Outcome.next (if_pos (by simpa using h)), ledgerScanDone_scans⟩
  · exact fun m v s h => cursorWrite_latches h
  · exact fun m s h => windowAutoRead_reads h
  · exact fun m v s h hm => ⟨seriesFeed_refused h hm, seriesFeed_feeds h hm⟩
  · exact fun x v t c => x.feed_bins v t c
  · exact fun m v s h => ⟨serCtrlClear_idle h, serCtrlClear_clears h⟩
  · exact fun s hr he => ⟨seriesSave_saves hr he, optimeSave_saves hr he⟩
  · exact fun s => ldgSaves_wait
  · exact fun tag k s h => ⟨fun hn => replied_ends (ledgerRead_badParam h hn), fun h1 h2 hl => replied_ends (ledgerRead_badLength h h1 h2 hl),
      fun h1 h2 hl hr => replied_ends (ledgerRead_busy h h1 h2 hl hr), fun h1 h2 hl hr => replied_ends (ledgerRead_reads h h1 h2 hl hr)⟩
  · exact fun tag k s h => ⟨fun hn => replied_ends (ledgerNote_badParam h hn), ledgerNote_refused h, ledgerNote_takes h⟩
  · exact fun tag k s h => ⟨fun hr => replied_ends (seriesRead_busy h hr), fun hr => replied_ends (seriesRead_reads h hr)⟩
  · exact fun tag k s h => ⟨fun hp => replied_ends (seriesCfg_badParam h hp), fun hw he hb => replied_ends (seriesCfg_busy h hw he hb),
      seriesCfg_keepsShape h, seriesCfg_reshapes h⟩
  · exact fun tag k s h => ⟨fun hr => replied_ends (seriesClear_busy h hr), seriesClear_clears h⟩

end Sys2Proof.Machine
end

section
/-! SUPPORT. The lengths of AES blocks and of a CMAC. -/

namespace Sys2Proof.Machine

open Sys2Proof

@[simp] theorem xorB_length (a b : Bytes) : (xorB a b).length = min a.length b.length := List.length_zipWith

/-! ### The key schedule -/

theorem flatten_length {n : Nat} {l : List Bytes} (h : ∀ x ∈ l, x.length = n) : l.flatten.length = n * l.length := by
  induction l with
  | nil => rfl
  | cons x l ih =>
    rw [List.flatten_cons, List.length_append, h x List.mem_cons_self, ih fun y hy => h y (List.mem_cons_of_mem x hy), List.length_cons]
    ring

/-- A string of f pieces of n bytes is cut into f pieces of n bytes. -/
theorem chunks_whole {n : Nat} (hn : 0 < n) (f : Nat) {m : Bytes} (hm : m.length = n * f) : (chunks n f m).length = f ∧ ∀ x ∈ chunks n f m, x.length = n := by
  induction f generalizing m with
  | zero => exact ⟨rfl, nofun⟩
  | succ f ih =>
    have hpos : m ≠ [] := List.ne_nil_of_length_pos (by rw [hm]; positivity)
    have hd : (m.drop n).length = n * f := by rw [List.length_drop, hm, Nat.mul_succ, Nat.add_sub_cancel]
    obtain ⟨hl, hx⟩ := ih hd
    have ht : (m.take n).length = n := by rw [List.length_take, hm]; exact Nat.min_eq_left (Nat.le_mul_of_pos_right n (by omega))
    rw [chunks, if_neg (by simpa using hpos)]
    exact ⟨by rw [List.length_cons, hl], fun x h => (List.mem_cons.mp h).elim (fun e => e ▸ ht) (hx x)⟩

/-- The words of a key schedule: at least as many as the key has, each of four bytes. -/
def AesWords (nk : Nat) (w : List Bytes) : Prop := nk ≤ w.length ∧ ∀ x ∈ w, x.length = 4

theorem AesWords.getD {nk i : Nat} {w : List Bytes} (h : AesWords nk w) (hi : i < nk) : (w.getD i []).length = 4 := by
  have hw : i < w.length := Nat.lt_of_lt_of_le hi h.1
  rw [List.getD_eq_getElem _ _ hw]
  exact h.2 _ (List.getElem_mem hw)

theorem AesWords.cons {nk : Nat} {w : List Bytes} {x : Bytes} (h : AesWords nk w) (hx : x.length = 4) : AesWords nk (x :: w) :=
  ⟨Nat.le_succ_of_le h.1, fun y hy => (List.mem_cons.mp hy).elim (fun e => e ▸ hx) (h.2 y)⟩

theorem aesExpand_words {nk : Nat} (hk : 0 < nk) (n : Nat) {i : Nat} {rc : Byte} {w : List Bytes} (h : AesWords nk w) :
    AesWords nk (aesExpand nk n i rc w) ∧ (aesExpand nk n i rc w).length = w.length + n := by
  induction n generalizing i rc w with
  | zero => exact ⟨h, rfl⟩
  | succ n ih =>
    have hp := h.getD (i := nk - 1) (by omega)
    have ht := h.getD hk
    have next {j : Nat} {c : Byte} {x : Bytes} (hx : x.length = 4) :
        AesWords nk (aesExpand nk n j c (x :: w)) ∧ (aesExpand nk n j c (x :: w)).length = w.length + (n + 1) := by
      obtain ⟨hw, hl⟩ := ih (i := j) (rc := c) (h.cons hx)
      exact ⟨hw, hl.trans (by rw [List.length_cons]; omega)⟩
    unfold aesExpand
    dsimp only
    split
    · exact next (by simp only [xorB_length, hp, List.length_map, List.length_append, List.length_drop, List.length_take, ht, List.length_cons, List.length_nil]; rfl)
    · split
      · exact next (by rw [xorB_length, hp, List.length_map, ht]; rfl)
      · exact next (by rw [xorB_length, hp, ht]; rfl)

/-- A key of 16 bytes gives 11 round keys of 16 bytes. -/
theorem aesKeys_whole {key : Bytes} (h : key.length = 16) : (aesKeys key).length = 11 ∧ ∀ k ∈ aesKeys key, k.length = 16 := by
  obtain ⟨hn, hw⟩ := chunks_whole (n := 4) (by decide) 4 (m := key) h
  have h0 : AesWords 4 (chunks 4 4 key).reverse := ⟨by rw [List.length_reverse, hn], fun x hx => hw x (List.mem_reverse.mp hx)⟩
  obtain ⟨hwords, hlen⟩ := aesExpand_words (by decide) 40 (i := 4) (rc := 1) h0
  unfold aesKeys
  rw [h]
  refine chunks_whole (by decide) 11 ?_
  rw [flatten_length (fun x hx => hwords.2 x (List.mem_reverse.mp hx)), List.length_reverse, hlen, List.length_reverse, hn]

/-! ### Blocks -/

theorem shiftRows_length (b : Bytes) : (shiftRows b).length = 16 := by
  rw [shiftRows, List.length_map, List.length_range]

/-- After the last round a block has 16 bytes, whatever went in. -/
theorem aesRounds_length {ks : List Bytes} (hn : ks ≠ []) (hk : ∀ k ∈ ks, k.length = 16) (b : Bytes) : (aesRounds ks b).length = 16 := by
  induction ks generalizing b with
  | nil => exact absurd rfl hn
  | cons k r ih =>
    cases r with
    | nil =>
      rw [aesRounds, xorB_length, shiftRows_length, hk k List.mem_cons_self]
      rfl
    | cons k' r => exact ih (List.cons_ne_nil _ _) (fun x hx => hk x (List.mem_cons_of_mem k hx)) _

theorem aesBlk_length {key : Bytes} (h : key.length = 16) (b : Bytes) : (aesBlk (aesKeys key) b).length = 16 := by
  obtain ⟨hn, hk⟩ := aesKeys_whole h
  match hks : aesKeys key, hn, hk with
  | k :: k' :: r, _, hk => exact aesRounds_length (List.cons_ne_nil _ _) (fun x hx => hk x (List.mem_cons_of_mem k hx)) _

/-- A CMAC under a key of 16 bytes has 16 bytes. -/
theorem cmac_length {key : Bytes} (h : key.length = 16) (m : Bytes) : (cmac key m).length = 16 := by
  unfold cmac cbcMac
  rw [List.foldl_append, List.foldl_cons, List.foldl_nil]
  exact aesBlk_length h _

end Sys2Proof.Machine
end

section
/-! PROOFS. Ring frames. -/

namespace Sys2Proof.Machine

open Sys2Proof

/-! ### What a frame carries (R418) -/

/-- The fields of a frame before its MAC and CRC. -/
def ringHead (b0 b1 b2 src seq : Nat) (pay : Bytes) : Bytes :=
  toLe 1 b0 ++ (toLe 1 b1 ++ (toLe 1 b2 ++ (toLe 1 0 ++ (toLe 8 src ++ (toLe 8 seq ++ (toLe 2 pay.length ++ (toLe 2 0 ++ pay)))))))

theorem ringBody_eq (kind hops : Nat) (west auth : Bool) (spos dpos src seq : Nat) (pay : Bytes) : ringBody kind hops west auth spos dpos src seq pay =
    ringHead kind (hops + b2n west * 16 + b2n auth * 32) (spos + dpos * 16) src seq pay := by
  simp only [ringBody, ringHead, List.append_assoc]

section
variable (b0 b1 b2 src seq : Nat) (pay r : Bytes)

theorem ringHead_length : (ringHead b0 b1 b2 src seq pay).length = 24 + pay.length := by
  simp only [ringHead, List.length_append, toLe_length]
  omega

theorem ringHead_byte0 : byteAt (ringHead b0 b1 b2 src seq pay ++ r) 0 = b0 % 256 := by
  simp only [ringHead, List.append_assoc]
  exact byteAt_toLe_append b0 _

theorem ringHead_byte1 : byteAt (ringHead b0 b1 b2 src seq pay ++ r) 1 = b1 % 256 := by
  simp only [ringHead, List.append_assoc]
  exact (byteAt_toLe_skip _ 0 _).trans (byteAt_toLe_append b1 _)

theorem ringHead_byte2 : byteAt (ringHead b0 b1 b2 src seq pay ++ r) 2 = b2 % 256 := by
  simp only [ringHead, List.append_assoc]
  exact (byteAt_toLe_skip _ 1 _).trans ((byteAt_toLe_skip _ 0 _).trans (byteAt_toLe_append b2 _))

theorem ringHead_src : le (ringHead b0 b1 b2 src seq pay ++ r) 4 8 = src % 256 ^ 8 := by
  rw [show 4 = 1 + (1 + (1 + (1 + 0))) from rfl]
  simp only [ringHead, List.append_assoc, le_toLe_skip]
  exact le_toLe_append _ _ _

theorem ringHead_seq : le (ringHead b0 b1 b2 src seq pay ++ r) 12 8 = seq % 256 ^ 8 := by
  rw [show 12 = 1 + (1 + (1 + (1 + (8 + 0)))) from rfl]
  simp only [ringHead, List.append_assoc, le_toLe_skip]
  exact le_toLe_append _ _ _

theorem ringHead_len : le (ringHead b0 b1 b2 src seq pay ++ r) 20 2 = pay.length % 256 ^ 2 := by
  rw [show 20 = 1 + (1 + (1 + (1 + (8 + (8 + 0))))) from rfl]
  simp only [ringHead, List.append_assoc, le_toLe_skip]
  exact le_toLe_append _ _ _

theorem ringHead_pay : slice (ringHead b0 b1 b2 src seq pay ++ r) 24 pay.length = pay := by
  have hd : (ringHead b0 b1 b2 src seq pay ++ r).drop (1 + (1 + (1 + (1 + (8 + (8 + (2 + (2 + 0)))))))) = pay ++ r := by
    simp only [ringHead, List.append_assoc, drop_toLe_append]
    rfl
  rw [slice, show 24 = 1 + (1 + (1 + (1 + (8 + (8 + (2 + (2 + 0))))))) from rfl, hd, List.take_left, Nat.sub_self, List.replicate_zero, List.append_nil]

end

/-! ### Receiving a frame (R420, R422) -/

/-- A frame is forwarded where it may be. -/
def State.passed (s : State) (east : Bool) (b : Bytes) (res : Nat) (good : Bool) : State := if s.forwards b then s.forward east b res good else s

theorem State.forward_goes (s : State) (east : Bool) (b : Bytes) (res : Nat) (good : Bool) : Goes [.regs, .out] s (s.forward east b res good) :=
  goes_forward s east b res good rfl (.refl _ s)

theorem State.passed_goes (s : State) (east : Bool) (b : Bytes) (res : Nat) (good : Bool) : Goes [.regs, .out] s (s.passed east b res good) :=
  .ite (s.forward_goes east b res good) (.refl _ s)

/-- Forwarding writes one register. -/
theorem State.passed_rd (s : State) (east : Bool) (b : Bytes) (res : Nat) (good : Bool) {a : Nat} (h : a ≠ R.ibg_FWD_FRAMES) : (s.passed east b res good).rd a = s.rd a := by
  unfold State.passed State.forward
  split
  · split
    · rfl
    · exact (State.rd_wr_ne _ _ h).trans (State.rd_congr rfl rfl _)
  · rfl

/-- The bytes of a frame without its CRC. -/
abbrev ringRaw (f : Bytes) : Bytes := f.take (f.length - 4)

/-- A frame whose length or CRC is wrong. -/
def ringBroken (f : Bytes) : Bool :=
  decide (f.length < 32) || decide (2048 < f.length) || decide (f.length ≠ 28 + le (ringRaw f) 20 2 + b2n (tst (w32 (byteAt (ringRaw f) 1)) 5) * 8) ||
    decide (le f (f.length - 4) 4 ≠ crcOf crc32 (ringRaw f))

/-- A kind needs a MAC here. -/
def State.ringNeeds (s : State) (kind : Nat) : Bool := kindAlways kind || (kindKeyed kind && s.ringKey.isSome)

/-- The frame as it waits for its command. -/
def ringRxOf (b : Bytes) (east : Bool) (c : DWord) : RingRx :=
  ⟨byteAt b 0, byteAt b 2 % 16, byteAt b 1 % 16, BitVec.ofNat 64 (le b 4 8), le b 12 8, slice b 24 (le b 20 2), east, c⟩

theorem State.ringRx_eq (s : State) (east : Bool) (f : Bytes) (c : DWord) (res : Nat) : s.ringRx east f c res =
    if !s.ibgRuns || !s.linkOn east then s
    else if ringBroken f then (s.bumpSat R.ibg_CRC_ERR 1).passed east (ringRaw f) res false
    else if !kindOk (byteAt (ringRaw f) 0) then s.bumpSat R.ibg_CODE_ERR 1
    else
      let need := s.ringNeeds (byteAt (ringRaw f) 0)
      let good := !need || s.macOk (ringRaw f)
      let t := s.passed east (ringRaw f) res good
      if !good then (t.bumpSat R.ibg_MAC_FAIL 1).irq .ibg 3
      else if le (ringRaw f) 4 8 = t.modId.ident.toNat then t
      else if kindLocal (byteAt (ringRaw f) 0) || (byteAt (ringRaw f) 2 / 16 = 15 && byteAt (ringRaw f) 0 ≠ 0x30) || some (byteAt (ringRaw f) 2 / 16) = t.ringPos then
        t.ringDeliver (ringRxOf (ringRaw f) east c) need
      else t := rfl
/-! ### A sealed frame (R418, R421) -/

theorem ringMac_length {key : Bytes} (h : key.length = 16) (body : Bytes) : (ringMac key body).length = 8 := by
  rw [ringMac, List.length_take, cmac_length h]
  rfl

theorem ringSeal_length (key body : Bytes) : (ringSeal (some key) body).length = (body ++ ringMac key body).length + 4 := by
  show ((body ++ ringMac key body) ++ toLe 4 (crcOf crc32 (body ++ ringMac key body))).length = _
  rw [List.length_append, toLe_length]

theorem ringSeal_raw (key body : Bytes) : ringRaw (ringSeal (some key) body) = body ++ ringMac key body := by
  rw [ringRaw, ringSeal_length, Nat.add_sub_cancel]
  exact List.take_left' rfl

theorem ringSeal_crc (key body : Bytes) :
    le (ringSeal (some key) body) ((ringSeal (some key) body).length - 4) 4 = crcOf crc32 (ringRaw (ringSeal (some key) body)) := by
  rw [ringSeal_raw, ringSeal_length, Nat.add_sub_cancel]
  show le ((body ++ ringMac key body) ++ toLe 4 (crcOf crc32 (body ++ ringMac key body))) _ 4 = _
  rw [le_append_skip _ _ _ rfl, le, List.drop_zero, leFirst_toLe]
  exact Nat.mod_eq_of_lt (crcOf_lt rfl (by decide) _)

/-- The bit of a frame that says it carries a MAC. -/
theorem ringAuthBit : ∀ hops < 16, ∀ west : Bool, tst (w32 ((hops + b2n west * 16 + b2n true * 32) % 256)) 5 = true ∧
    (hops + b2n west * 16 + b2n true * 32) % 256 % 16 = hops := by decide

section
variable {key pay : Bytes} {kind hops spos dpos seq : Nat} {west : Bool} {src : DWord} (hk : key.length = 16) (hh : hops < 16) (hp : pay.length ≤ 2012)

/-- The frame of a kind with a MAC, built and sealed. -/
abbrev ringBuilt (key : Bytes) (kind hops : Nat) (west : Bool) (spos dpos : Nat) (src : DWord) (seq : Nat) (pay : Bytes) : Bytes :=
  ringSeal (some key) (ringBody kind hops west true spos dpos src.toNat seq pay)

/-- What such a frame holds without its CRC: its head, its payload and its MAC. -/
theorem ringBuilt_raw : ∃ r, ringRaw (ringBuilt key kind hops west spos dpos src seq pay) =
    ringHead kind (hops + b2n west * 16 + b2n true * 32) (spos + dpos * 16) src.toNat seq pay ++ r :=
  ⟨_, by rw [ringSeal_raw, ringBody_eq]⟩

include hk hh hp

theorem ringBuilt_sound : ringBroken (ringBuilt key kind hops west spos dpos src seq pay) = false := by
  obtain ⟨hauth, -⟩ := ringAuthBit hops hh west
  obtain ⟨r, hr⟩ := ringBuilt_raw (key := key) (kind := kind) (hops := hops) (west := west) (spos := spos) (dpos := dpos) (src := src) (seq := seq) (pay := pay)
  have hlen : (ringBuilt key kind hops west spos dpos src seq pay).length = 36 + pay.length := by
    rw [ringSeal_length, List.length_append, ringMac_length hk, ringBody_eq, ringHead_length]
    omega
  have hn : le (ringRaw (ringBuilt key kind hops west spos dpos src seq pay)) 20 2 = pay.length := by
    rw [hr, ringHead_len]
    exact Nat.mod_eq_of_lt (by omega)
  have h5 : tst (w32 (byteAt (ringRaw (ringBuilt key kind hops west spos dpos src seq pay)) 1)) 5 = true := by
    rw [hr, ringHead_byte1]
    exact hauth
  have hc : le (ringBuilt key kind hops west spos dpos src seq pay) ((ringBuilt key kind hops west spos dpos src seq pay).length - 4) 4 =
      crcOf crc32 (ringRaw (ringBuilt key kind hops west spos dpos src seq pay)) := ringSeal_crc _ _
  unfold ringBroken
  rw [hc, hn, h5, hlen]
  simp only [b2n, if_true, Bool.or_eq_false_iff, decide_eq_false_iff_not]
  omega

/-- The receiver with the same key finds the MAC right. -/
theorem State.macOk_built {s : State} (hs : s.ringKey = some key) : s.macOk (ringRaw (ringBuilt key kind hops west spos dpos src seq pay)) = true := by
  obtain ⟨hauth, -⟩ := ringAuthBit hops hh west
  have hraw : ringRaw (ringBuilt key kind hops west spos dpos src seq pay) = _ ++ _ := ringSeal_raw _ _
  rw [ringBody_eq] at hraw
  have hl : (ringHead kind (hops + b2n west * 16 + b2n true * 32) (spos + dpos * 16) src.toNat seq pay).length = 24 + pay.length := ringHead_length _ _ _ _ _ _
  have hn : pay.length % 256 ^ 2 = pay.length := Nat.mod_eq_of_lt (by omega)
  unfold State.macOk
  rw [hs, hraw]
  dsimp only
  rw [ringHead_byte1, ringHead_len, hn, List.take_left' hl, hauth, Bool.true_and, decide_eq_true_eq, slice_append_skip _ _ _ hl]
  have ha := slice_append (ringMac key (ringHead kind (hops + b2n west * 16 + b2n true * 32) (spos + dpos * 16) src.toNat seq pay)) [] (ringMac_length hk _)
  rwa [List.append_nil] at ha

variable (hkind : kind < 256) (hspos : spos < 16) (hdpos : dpos < 16) (hseq : seq < 2 ^ 64)
include hkind hspos hdpos hseq

omit hk in
/-- Its fields are read as they were written. -/
theorem ringBuilt_fields : byteAt (ringRaw (ringBuilt key kind hops west spos dpos src seq pay)) 0 = kind ∧
    byteAt (ringRaw (ringBuilt key kind hops west spos dpos src seq pay)) 2 / 16 = dpos ∧
    le (ringRaw (ringBuilt key kind hops west spos dpos src seq pay)) 4 8 = src.toNat ∧
    ∀ e c, ringRxOf (ringRaw (ringBuilt key kind hops west spos dpos src seq pay)) e c = ⟨kind, spos, hops, src, seq, pay, e, c⟩ := by
  obtain ⟨-, hhops⟩ := ringAuthBit hops hh west
  obtain ⟨r, hr⟩ := ringBuilt_raw (key := key) (kind := kind) (hops := hops) (west := west) (spos := spos) (dpos := dpos) (src := src) (seq := seq) (pay := pay)
  have h0 := (ringHead_byte0 kind (hops + b2n west * 16 + b2n true * 32) (spos + dpos * 16) src.toNat seq pay r).trans (Nat.mod_eq_of_lt hkind)
  have h2 := (ringHead_byte2 kind (hops + b2n west * 16 + b2n true * 32) (spos + dpos * 16) src.toNat seq pay r).trans (Nat.mod_eq_of_lt (by omega))
  have h4 := (ringHead_src kind (hops + b2n west * 16 + b2n true * 32) (spos + dpos * 16) src.toNat seq pay r).trans (Nat.mod_eq_of_lt src.isLt)
  have h12 := (ringHead_seq kind (hops + b2n west * 16 + b2n true * 32) (spos + dpos * 16) src.toNat seq pay r).trans (Nat.mod_eq_of_lt hseq)
  have h20 := (ringHead_len kind (hops + b2n west * 16 + b2n true * 32) (spos + dpos * 16) src.toNat seq pay r).trans (Nat.mod_eq_of_lt (by omega))
  rw [hr]
  refine ⟨h0, by rw [h2]; omega, h4, fun e c => ?_⟩
  have hs : (spos + dpos * 16) % 16 = spos := by omega
  rw [ringRxOf, h0, h2, ringHead_byte1, hhops, h4, h12, h20, ringHead_pay, hs, BitVec.ofNat_toNat, BitVec.setWidth_eq]

end

/-! ### Delivery (R420, R422) -/

theorem seqOf_putSeq_same (l : List (DWord × Nat)) (i : DWord) (q : Nat) : seqOf (putSeq l i q) i = some q := by
  simp [seqOf, putSeq]

theorem seqOf_putSeq_ne (l : List (DWord × Nat)) {i j : DWord} (q : Nat) (h : j ≠ i) : seqOf (putSeq l i q) j = seqOf l j := by
  rw [seqOf, putSeq, List.find?_cons_of_neg (by simpa using Ne.symm h), List.find?_filter, seqOf]
  congr 2
  funext p
  by_cases e : p.1 = j <;> simp [e, h]

/-- The number of a frame is not above the one kept for its source. -/
def State.ringDup (s : State) (x : RingRx) (auth : Bool) : Bool :=
  match seqOf (if auth then s.ibg.seqs else s.ibg.last) x.src with | some q => if auth then decide (x.seq ≤ q) else decide (x.seq = q) | none => false

/-- A copy: it joins no inbox, though it may replace a SYNC. -/
def State.ringCopied (s : State) (x : RingRx) (auth : Bool) : State :=
  let s := { s with ibg := { s.ibg with inbox := s.ibg.inbox.map fun (y : RingRx) => if betterSync y x then x else y } }
  if auth then s.bumpSat R.ibg_DUP_DROP 1 else s

/-- A frame that is taken. -/
def State.ringTaken (s : State) (x : RingRx) (auth : Bool) : State :=
  { s with ibg := { s.ibg with
    inbox := s.ibg.inbox ++ [x],
    seqs := if auth then putSeq s.ibg.seqs x.src x.seq else s.ibg.seqs,
    last := if auth then s.ibg.last else putSeq s.ibg.last x.src x.seq } }.bumpSat R.ibg_RX_FRAMES 1

theorem State.ringDeliver_eq (s : State) (x : RingRx) (auth : Bool) : s.ringDeliver x auth = if s.ringDup x auth then s.ringCopied x auth else s.ringTaken x auth := rfl

theorem State.ringDup_false {s : State} {x : RingRx} (h : ∀ q, seqOf s.ibg.seqs x.src = some q → q < x.seq) : s.ringDup x true = false := by
  unfold State.ringDup
  rw [if_pos rfl]
  split
  · next q hq => simp [h q hq]
  · rfl

theorem State.ringDup_true {s : State} {x : RingRx} {q : Nat} (h : seqOf s.ibg.seqs x.src = some q) (hq : x.seq ≤ q) : s.ringDup x true = true := by
  unfold State.ringDup
  rw [if_pos rfl, h]
  simp [hq]

theorem State.ringTaken_ibg (s : State) (x : RingRx) : (s.ringTaken x true).ibg.inbox = s.ibg.inbox ++ [x] ∧ (s.ringTaken x true).ibg.seqs = putSeq s.ibg.seqs x.src x.seq ∧
    (s.ringTaken x true).rd R.ibg_RX_FRAMES = satAdd (s.rd R.ibg_RX_FRAMES) 1 :=
  ⟨rfl, rfl, (State.bumpSat_rd_same _ _ _).trans (congrArg (satAdd · 1) (State.rd_congr rfl rfl _))⟩

theorem State.ringCopied_drops (s : State) (x : RingRx) : (s.ringCopied x true).ibg.inbox.length = s.ibg.inbox.length ∧
    (s.ringCopied x true).rd R.ibg_DUP_DROP = satAdd (s.rd R.ibg_DUP_DROP) 1 :=
  ⟨List.length_map _, (State.bumpSat_rd_same _ _ _).trans (congrArg (satAdd · 1) (State.rd_congr rfl rfl _))⟩

/-- The number kept for a source does not fall by a delivery. -/
theorem State.ringDeliver_seqs (s : State) (x : RingRx) (auth : Bool) {i : DWord} {q : Nat} (h : seqOf s.ibg.seqs i = some q) :
    ∃ q', seqOf (s.ringDeliver x auth).ibg.seqs i = some q' ∧ q ≤ q' := by
  rw [State.ringDeliver_eq]
  split
  · refine ⟨q, ?_, le_rfl⟩
    cases auth <;> exact h
  · next hd =>
    cases auth with
    | false => exact ⟨q, h, le_rfl⟩
    | true =>
      rw [(s.ringTaken_ibg x).2.1]
      by_cases hi : i = x.src
      · subst hi
        refine ⟨x.seq, seqOf_putSeq_same _ _ _, ?_⟩
        by_contra hlt
        exact hd (State.ringDup_true h (by omega))
      · exact ⟨q, (seqOf_putSeq_ne _ _ hi).trans h, le_rfl⟩
/-! ### Receiving, case by case -/

theorem exec_ringFrameReceive (e : Bool) (f : Bytes) (c : DWord) (res : Nat) (s : State) : exec (.ringFrameReceive e f c res) s = .next ((s.at c).ringRx e f c res) := rfl

section
variable {s : State} {e : Bool} {f : Bytes} {c : DWord} {res : Nat} (hr : s.ibgRuns = true) (hl : s.linkOn e = true)
include hr hl

/-- A frame whose CRC is wrong is counted, and goes on with a bad CRC where it may. -/
theorem State.ringRx_broken (hf : ringBroken f = true) : s.ringRx e f c res = (s.bumpSat R.ibg_CRC_ERR 1).passed e (ringRaw f) res false := by
  rw [State.ringRx_eq, if_neg (by simp [hr, hl]), if_pos hf]

variable (hf : ringBroken f = false) (hk : kindAlways (byteAt (ringRaw f) 0) = true)
include hf hk

theorem State.ringRx_keyed : s.ringRx e f c res =
    let t := s.passed e (ringRaw f) res (s.macOk (ringRaw f))
    if !s.macOk (ringRaw f) then (t.bumpSat R.ibg_MAC_FAIL 1).irq .ibg 3
    else if le (ringRaw f) 4 8 = t.modId.ident.toNat then t
    else if kindLocal (byteAt (ringRaw f) 0) || (byteAt (ringRaw f) 2 / 16 = 15 && byteAt (ringRaw f) 0 ≠ 0x30) || some (byteAt (ringRaw f) 2 / 16) = t.ringPos then
      t.ringDeliver (ringRxOf (ringRaw f) e c) true
    else t := by
  have hneed : s.ringNeeds (byteAt (ringRaw f) 0) = true := by rw [State.ringNeeds, hk, Bool.true_or]
  have hok : kindOk (byteAt (ringRaw f) 0) = true := by rw [kindOk, hk, Bool.or_true]
  rw [State.ringRx_eq, if_neg (by simp [hr, hl]), if_neg (by simp [hf]), if_neg (by simp [hok]), hneed]
  rfl

/-- A frame that needs a MAC and has no right one is counted, and not delivered. -/
theorem State.ringRx_forged (hm : s.macOk (ringRaw f) = false) :
    s.ringRx e f c res = ((s.passed e (ringRaw f) res false).bumpSat R.ibg_MAC_FAIL 1).irq .ibg 3 := by
  rw [State.ringRx_keyed hr hl hf hk, hm]
  rfl

/-- A frame with its MAC, from another module and for this one, is delivered. -/
theorem State.ringRx_delivers (hm : s.macOk (ringRaw f) = true) (hsrc : le (ringRaw f) 4 8 ≠ s.modId.ident.toNat)
    (hdst : (byteAt (ringRaw f) 2 / 16 = 15 ∧ byteAt (ringRaw f) 0 ≠ 0x30) ∨ some (byteAt (ringRaw f) 2 / 16) = s.ringPos) :
    s.ringRx e f c res = (s.passed e (ringRaw f) res true).ringDeliver (ringRxOf (ringRaw f) e c) true := by
  have hg := s.passed_goes e (ringRaw f) res true
  have hid : (s.passed e (ringRaw f) res true).modId = s.modId := hg.1 .modId (by decide)
  have hpos : (s.passed e (ringRaw f) res true).ringPos = s.ringPos := by
    unfold State.ringPos
    rw [hid, hg.1 .ibg (by decide)]
  have hto : (kindLocal (byteAt (ringRaw f) 0) || (byteAt (ringRaw f) 2 / 16 = 15 && byteAt (ringRaw f) 0 ≠ 0x30) || some (byteAt (ringRaw f) 2 / 16) = s.ringPos) = true := by
    simp only [Bool.or_eq_true, Bool.and_eq_true, decide_eq_true_eq]
    exact hdst.elim (fun h => .inl (.inr h)) .inr
  rw [State.ringRx_keyed hr hl hf hk, hm]
  dsimp only
  rw [if_neg (by decide), hid, if_neg hsrc, hpos, if_pos hto]

end

/-- Whatever frame arrives, the number kept for a source does not fall. -/
theorem State.ringRx_seqs (s : State) (e : Bool) (f : Bytes) (c : DWord) (res : Nat) {i : DWord} {q : Nat} (h : seqOf s.ibg.seqs i = some q) :
    ∃ q', seqOf (s.ringRx e f c res).ibg.seqs i = some q' ∧ q ≤ q' := by
  have keep {t : State} (ht : t.ibg = s.ibg) : ∃ q', seqOf t.ibg.seqs i = some q' ∧ q ≤ q' := ⟨q, by rw [ht]; exact h, le_rfl⟩
  have passed (t : State) (ht : t.ibg = s.ibg) (good : Bool) : (t.passed e (ringRaw f) res good).ibg = s.ibg := ((t.passed_goes e (ringRaw f) res good).1 .ibg (by decide)).trans ht
  rw [State.ringRx_eq]
  split
  · exact keep rfl
  split
  · exact keep (passed _ (State.wr_ibg _ _ _) _)
  split
  · exact keep (State.wr_ibg _ _ _)
  extract_lets need good t
  have ht : t.ibg = s.ibg := passed s rfl good
  split
  · exact keep ((State.irq_ibg _ _ _).trans ((State.wr_ibg _ _ _).trans ht))
  split
  · exact keep ht
  split
  · exact t.ringDeliver_seqs _ need (by rw [ht]; exact h)
  · exact keep ht

/-! ### The statement -/

theorem kindAlways_lt {kind : Nat} (h : kindAlways kind = true) : kind < 256 := by
  simp only [kindAlways, Bool.or_eq_true, Bool.and_eq_true, decide_eq_true_eq] at h
  omega

theorem ringFrameReceive_delivers {e west : Bool} {kind hops spos dpos seq : Nat} {src : DWord} {key pay : Bytes} {c : DWord} {res : Nat} {s : State}
    (hkey : s.ringKey = some key) (hk : key.length = 16) (hr : s.ibgRuns = true) (hl : s.linkOn e = true) (ha : kindAlways kind = true) (hh : hops < 16)
    (hspos : spos < 16) (hdpos : dpos < 16) (hseq : seq < 2 ^ 64) (hp : pay.length ≤ 2012) (hsrc : src ≠ s.modId.ident)
    (hdst : (dpos = 15 ∧ kind ≠ 0x30) ∨ some dpos = s.ringPos) (hnew : ∀ q, seqOf s.ibg.seqs src = some q → q < seq) : ∃ t,
    exec (.ringFrameReceive e (ringSeal (some key) (ringBody kind hops west true spos dpos src.toNat seq pay)) c res) s = .next t ∧
      t.ibg.inbox = s.ibg.inbox ++ [⟨kind, spos, hops, src, seq, pay, e, c⟩] ∧ seqOf t.ibg.seqs src = some seq ∧
      t.rd R.ibg_RX_FRAMES = satAdd (s.rd R.ibg_RX_FRAMES) 1 ∧ ChangesOnly (touches (.ringFrameReceive e [] c res)) s t := by
  have hx := exec_ringFrameReceive e (ringBuilt key kind hops west spos dpos src seq pay) c res s
  obtain ⟨h0, h2, h4, hrx⟩ := ringBuilt_fields (key := key) (west := west) (src := src) hh hp (kindAlways_lt ha) hspos hdpos hseq
  have hne : src.toNat ≠ s.modId.ident.toNat := fun h => hsrc (BitVec.eq_of_toNat_eq h)
  have hd := State.ringRx_delivers (s := s.at c) (e := e) (c := c) (res := res) (f := ringBuilt key kind hops west spos dpos src seq pay) hr hl
    (ringBuilt_sound hk hh hp) (by rw [h0]; exact ha) (State.macOk_built hk hh hp hkey) (by rw [h4]; exact hne) (by rw [h0, h2]; exact hdst)
  rw [hrx] at hd
  generalize hu : (s.at c).passed e (ringRaw (ringBuilt key kind hops west spos dpos src seq pay)) res true = u at hd
  have hui : u.ibg = s.ibg := by
    rw [← hu]
    exact (State.passed_goes _ _ _ _ _).1 .ibg (by decide)
  have hurd : u.rd R.ibg_RX_FRAMES = s.rd R.ibg_RX_FRAMES := by
    rw [← hu, State.passed_rd _ _ _ _ _ (by decide)]
    exact State.rd_congr rfl rfl _
  rw [State.ringDeliver_eq, State.ringDup_false (by rw [hui]; exact hnew), if_neg (by decide)] at hd
  obtain ⟨hinbox, hseqs, hcount⟩ := u.ringTaken_ibg ⟨kind, spos, hops, src, seq, pay, e, c⟩
  have hg := (exec_goes hx).1
  rw [hd] at hx hg
  exact ⟨_, hx, by rw [hinbox, hui], by rw [hseqs]; exact seqOf_putSeq_same _ _ _, by rw [hcount, hurd], hg⟩

theorem ringFrameReceive_damaged {e : Bool} {f : Bytes} {c : DWord} {res : Nat} {s : State} (hr : s.ibgRuns = true) (hl : s.linkOn e = true)
    (hc : le f (f.length - 4) 4 ≠ crcOf crc32 (f.take (f.length - 4))) : ∃ t, exec (.ringFrameReceive e f c res) s = .next t ∧ t.ibg = s.ibg ∧
      t.rd R.ibg_CRC_ERR = satAdd (s.rd R.ibg_CRC_ERR) 1 ∧ t.rd R.ibg_RX_FRAMES = s.rd R.ibg_RX_FRAMES := by
  have hx := exec_ringFrameReceive e f c res s
  have hf : ringBroken f = true := by
    unfold ringBroken
    rw [decide_eq_true (p := le f (f.length - 4) 4 ≠ crcOf crc32 (ringRaw f)) hc, Bool.or_true]
  rw [State.ringRx_broken (s := s.at c) hr hl hf] at hx
  refine ⟨_, hx, ((State.passed_goes _ _ _ _ _).1 .ibg (by decide)).trans (State.wr_ibg _ _ _), ?_, ?_⟩
  · rw [State.passed_rd _ _ _ _ _ (by decide), State.bumpSat_rd_same]
    exact congrArg (satAdd · 1) (State.rd_congr rfl rfl _)
  · rw [State.passed_rd _ _ _ _ _ (by decide), State.bumpSat_rd_ne _ _ (by decide)]
    exact State.rd_congr rfl rfl _

theorem ringFrameReceive_forged {e : Bool} {f : Bytes} {c : DWord} {res : Nat} {s : State} (hr : s.ibgRuns = true) (hl : s.linkOn e = true)
    (hf : ringBroken f = false) (hk : kindAlways (byteAt (ringRaw f) 0) = true) (hm : s.macOk (ringRaw f) = false) : ∃ t, exec (.ringFrameReceive e f c res) s = .next t ∧
      t.ibg = s.ibg ∧ t.rd R.ibg_MAC_FAIL = satAdd (s.rd R.ibg_MAC_FAIL) 1 ∧ t.rb (hdr .ibg oRaw) 3 = true := by
  have hx := exec_ringFrameReceive e f c res s
  rw [State.ringRx_forged (s := s.at c) hr hl hf hk hm] at hx
  refine ⟨_, hx, ?_, ?_, State.irq_raises _ _ (by decide) (by decide)⟩
  · exact (State.irq_ibg _ _ _).trans ((State.wr_ibg _ _ _).trans ((State.passed_goes _ _ _ _ _).1 .ibg (by decide)))
  · rw [State.irq_rd_past _ _ _ (by decide), State.bumpSat_rd_same, State.passed_rd _ _ _ _ _ (by decide)]
    exact congrArg (satAdd · 1) (State.rd_congr rfl rfl _)

/-- A numbered frame is taken once. -/
theorem State.ringDeliver_once {x y : RingRx} {s : State} (hn : ∀ q, seqOf s.ibg.seqs x.src = some q → q < x.seq) (hs : y.src = x.src) (hq : y.seq ≤ x.seq) :
    (s.ringDeliver x true).ibg.inbox = s.ibg.inbox ++ [x] ∧ ((s.ringDeliver x true).ringDeliver y true).ibg.inbox.length = (s.ringDeliver x true).ibg.inbox.length ∧
      ((s.ringDeliver x true).ringDeliver y true).rd R.ibg_DUP_DROP = satAdd ((s.ringDeliver x true).rd R.ibg_DUP_DROP) 1 := by
  have ht : s.ringDeliver x true = s.ringTaken x true := by rw [State.ringDeliver_eq, State.ringDup_false hn, if_neg (by decide)]
  obtain ⟨hinbox, hseqs, -⟩ := s.ringTaken_ibg x
  have hd : (s.ringTaken x true).ringDup y true = true := State.ringDup_true (q := x.seq) (by rw [hseqs, hs]; exact seqOf_putSeq_same _ _ _) hq
  rw [ht, State.ringDeliver_eq, hd, if_pos rfl]
  exact ⟨hinbox, State.ringCopied_drops _ y⟩

/-- Settles O55: what `ringSeal` and `ringBody` build is read back by `ringBuilt_fields`, and `ringRx` is taken case by case. -/
theorem ringFramesAreCheckedAndTakenOnce : Obligations.RingFramesAreCheckedAndTakenOnce := by
  unfold Obligations.RingFramesAreCheckedAndTakenOnce
  refine ⟨?_, fun e f c res s hr hl hc => ringFrameReceive_damaged hr hl hc, ?_, ?_, ?_⟩
  · exact fun e west kind hops spos dpos seq src key pay c res s hkey hk hr hl ha hh hspos hdpos hseq hp hsrc hdst hnew =>
      ringFrameReceive_delivers hkey hk hr hl ha hh hspos hdpos hseq hp hsrc hdst hnew
  · intro e f c res s n b hr hl h32 h2048 hlen hcrc hk hm
    have hf : ringBroken f = false := by
      simp only [ringBroken, Bool.or_eq_false_iff, decide_eq_false_iff_not, not_lt]
      exact ⟨⟨⟨h32, h2048⟩, not_not.mpr hlen⟩, not_not.mpr hcrc⟩
    exact ringFrameReceive_forged hr hl hf hk hm
  · exact fun x y s hn hs hq => State.ringDeliver_once hn hs hq
  · intro e f c res src q s hq
    obtain ⟨q', hq', hle⟩ := (s.at c).ringRx_seqs e f c res hq
    exact ⟨_, q', exec_ringFrameReceive e f c res s, hq', hle⟩

end Sys2Proof.Machine
end

section
/-! PROOFS. The ring's links, its map and its master. -/

namespace Sys2Proof.Machine

open Sys2Proof

/-! ### What leaves on the ports (R418) -/

theorem mem_foldl_emit_of_out {o : Out} (l : List Out) {s : State} (h : o ∈ s.out) : o ∈ (l.foldl (fun (t : State) x => t.emit x) s).out :=
  foldl_keeps (P := fun t : State => o ∈ t.out) (fun _ _ h => List.mem_cons_of_mem _ h) l h

/-- What is emitted stands among the outputs. -/
theorem mem_foldl_emit {o : Out} {l : List Out} (h : o ∈ l) (s : State) : o ∈ (l.foldl (fun (t : State) x => t.emit x) s).out := by
  induction l generalizing s with
  | nil => cases h
  | cons y l ih =>
    rcases List.mem_cons.mp h with rfl | h
    · exact mem_foldl_emit_of_out l List.mem_cons_self
    · exact ih h _

/-- The frame that leaves on a port. -/
def State.ringFrame (s : State) (e : Bool) (kind dpos : Nat) (pay : Bytes) : Bytes :=
  ringSeal (if s.ringAuth kind then s.ringKey else none) (ringBody kind (if kindLocal kind then 0 else 7) (!e) (s.ringAuth kind) s.spos dpos s.modId.ident.toNat
    (s.rf R.pwt_PWRCYC 0 24 * 2 ^ 40 + s.ibg.sent % 2 ^ 40) pay)

theorem State.ringOut_eq (s : State) (ports : List Bool) (kind dpos : Nat) (pay : Bytes) : s.ringOut ports kind dpos pay =
    if s.ringMute kind then s
    else ((ports.filter fun e => s.linkOn e).map fun e => Out.ring e (s.ringFrame e kind dpos pay)).foldl (fun (t : State) o => t.emit o) s.ringNoted := rfl

section
variable {s : State} {ports : List Bool} {kind : Nat} (dpos : Nat) (pay : Bytes)

/-- A frame that is not held back leaves on every port asked for whose link is up, and is counted. -/
theorem State.ringOut_sends {e : Bool} (hm : s.ringMute kind = false) (he : e ∈ ports) (hl : s.linkOn e = true) :
    Out.ring e (s.ringFrame e kind dpos pay) ∈ (s.ringOut ports kind dpos pay).out ∧ (s.ringOut ports kind dpos pay).ibg.sent = s.ibg.sent + 1 ∧
    (s.ringOut ports kind dpos pay).rd R.ibg_TX_FRAMES = satAdd (s.rd R.ibg_TX_FRAMES) 1 := by
  refine ⟨?_, congrArg Ibg.sent (State.ringOut_numbers ports dpos pay hm), ?_⟩
  · rw [State.ringOut_eq, hm]
    exact mem_foldl_emit (List.mem_map.mpr ⟨e, List.mem_filter.mpr ⟨he, hl⟩, rfl⟩) _
  · rw [State.ringOut_eq, hm, if_neg (by decide), (foldl_emit_goes _ _).rd (by decide) (by decide), State.ringNoted, State.bumpSat_rd_same]
    exact congrArg (satAdd · 1) (State.rd_congr rfl rfl _)

theorem State.ringOut_plain {e : Bool} (hr : s.ibgRuns = true) (hf : s.ringFull = false ∨ kind = 1) (he : e ∈ ports) (hl : s.linkOn e = true)
    (ha : kindAlways kind = false) (hk : kindKeyed kind = false ∨ s.ringKey = none) :
    Out.ring e (ringSeal none (ringBody kind (if kindLocal kind then 0 else 7) (!e) false s.spos dpos s.modId.ident.toNat (s.rf R.pwt_PWRCYC 0 24 * 2 ^ 40 + s.ibg.sent % 2 ^ 40) pay)) ∈
      (s.ringOut ports kind dpos pay).out ∧ (s.ringOut ports kind dpos pay).ibg.sent = s.ibg.sent + 1 ∧
    (s.ringOut ports kind dpos pay).rd R.ibg_TX_FRAMES = satAdd (s.rd R.ibg_TX_FRAMES) 1 := by
  have hauth : s.ringAuth kind = false := by
    rw [State.ringAuth, ha, Bool.false_or]
    rcases hk with h | h <;> simp [h]
  have h := State.ringOut_sends dpos pay (kind := kind) (by rw [State.ringMute, hauth, hr]; rcases hf with h | h <;> simp [h]) he hl
  rwa [State.ringFrame, hauth] at h

theorem State.ringOut_sealed {e : Bool} {key : Bytes} (hr : s.ibgRuns = true) (hf : s.ringFull = false ∨ kind = 1) (he : e ∈ ports) (hl : s.linkOn e = true)
    (ha : kindAlways kind = true ∨ kindKeyed kind = true) (hk : s.ringKey = some key) :
    Out.ring e (ringSeal (some key) (ringBody kind (if kindLocal kind then 0 else 7) (!e) true s.spos dpos s.modId.ident.toNat (s.rf R.pwt_PWRCYC 0 24 * 2 ^ 40 + s.ibg.sent % 2 ^ 40) pay)) ∈
      (s.ringOut ports kind dpos pay).out ∧ (s.ringOut ports kind dpos pay).ibg.sent = s.ibg.sent + 1 ∧
    (s.ringOut ports kind dpos pay).rd R.ibg_TX_FRAMES = satAdd (s.rd R.ibg_TX_FRAMES) 1 := by
  have hauth : s.ringAuth kind = true := by
    rw [State.ringAuth, hk]
    rcases ha with h | h <;> simp [h]
  have h := State.ringOut_sends dpos pay (kind := kind) (by rcases hf with h | h <;> simp [State.ringMute, hk, hr, h]) he hl
  rwa [State.ringFrame, hauth, if_pos rfl, hk] at h

/-- A kind that needs no MAC goes out with or without a ring key. -/
theorem State.ringMute_open (ha : kindAlways kind = false) (hr : s.ibgRuns = true) (hf : s.ringFull = false ∨ kind = 1) : s.ringMute kind = false := by
  have hauth : (s.ringAuth kind && s.ringKey.isNone) = false := by
    rw [State.ringAuth, ha]
    cases s.ringKey <;> simp
  rw [State.ringMute, hauth, hr]
  rcases hf with h | h <;> simp [h]

/-- An origination changes of IBG no more than its count. -/
theorem State.ringOut_ibg : ∃ n, (s.ringOut ports kind dpos pay).ibg = { s.ibg with sent := n } := by
  rw [State.ringOut_eq]
  split
  · exact ⟨_, rfl⟩
  · exact ⟨_, (foldl_emit_goes _ _).1 .ibg (by decide)⟩

end

/-! ### Links (R417) -/

/-- The ring as it stands after a port's link has come up. -/
def Ibg.portUp (g : Ibg) (e : Bool) : Ibg := if e then { g with upE := true } else { g with upW := true }

theorem exec_linkUp {e : Bool} {s : State} (hr : s.inReset .ibg = false) (hl : s.linkOn e = false) :
    exec (.linkUp e) s = .next (({ s with ibg := s.ibg.portUp e } : State).irq .ibg 0) := by
  refine congrArg Host.Outcome.next ((if_neg (by simp [hr, hl])).trans ?_)
  cases e <;> rfl

theorem linkUp_up {e : Bool} {s : State} (hr : s.inReset .ibg = false) (hl : s.linkOn e = false) : ∃ t, exec (.linkUp e) s = .next t ∧ t.linkOn e = true ∧
    t.linkOn (!e) = s.linkOn (!e) ∧ t.rb (hdr .ibg oRaw) 0 = true ∧ ChangesOnly (touches (.linkUp e)) s t := by
  have hx := exec_linkUp hr hl
  have hi : ∀ t : State, (t.irq .ibg 0).ibg = t.ibg := fun t => State.irq_ibg t _ _
  refine ⟨_, hx, ?_, ?_, State.irq_raises _ _ (by decide) (by decide), (exec_goes hx).1⟩ <;>
    cases e <;> simp only [State.linkOn, hi, Ibg.portUp, Bool.not_true, Bool.not_false, Bool.false_eq_true, if_true, if_false]

/-- The ring as it stands after a port's link is lost. -/
def Ibg.portDown (g : Ibg) (e : Bool) (me : DWord) : Ibg :=
  if e then { g with upE := false, closed := false, delE := [], reqE := none, order := upTo g.order me }
  else { g with upW := false, closed := false, delW := [], reqW := none, order := fromOn g.order me }

theorem exec_linkDown {e : Bool} {s : State} (hr : s.inReset .ibg = false) (hl : s.linkOn e = true) :
    exec (.linkDown e) s = .next (({ s with ibg := s.ibg.portDown e s.modId.ident } : State).irq .ibg 0) := by
  refine congrArg Host.Outcome.next ((if_neg (by simp [hr, hl])).trans ?_)
  cases e <;> rfl

theorem linkDown_down {e : Bool} {s : State} (hr : s.inReset .ibg = false) (hl : s.linkOn e = true) : ∃ t, exec (.linkDown e) s = .next t ∧ t.linkOn e = false ∧
    t.linkOn (!e) = s.linkOn (!e) ∧ t.wireD e = 0 ∧ t.wireD (!e) = s.wireD (!e) ∧ t.ibg.closed = false ∧ t.rb (hdr .ibg oRaw) 0 = true ∧
    ChangesOnly (touches (.linkDown e)) s t := by
  have hx := exec_linkDown hr hl
  have hi : ∀ t : State, (t.irq .ibg 0).ibg = t.ibg := fun t => State.irq_ibg t _ _
  refine ⟨_, hx, ?_, ?_, ?_, ?_, ?_, State.irq_raises _ _ (by decide) (by decide), (exec_goes hx).1⟩ <;>
    cases e <;> simp only [State.linkOn, State.wireD, hi, Ibg.portDown, Bool.not_true, Bool.not_false, Bool.false_eq_true, if_true, if_false, portDelay]

theorem links_inReset {e : Bool} {s : State} (hr : s.inReset .ibg = true) : exec (.linkUp e) s = .next s ∧ exec (.linkDown e) s = .next s :=
  ⟨congrArg Host.Outcome.next (if_pos (by simp [hr])), congrArg Host.Outcome.next (if_pos (by simp [hr]))⟩

/-! ### DISCOVER and the map (R423) -/

theorem ringLinks_waitForNone (c : DWord) : ∀ s : State, ∀ p ∈ [(1, Instr.discover), (2, .dlyReq c), (3, .dlyResp), (4, .sync), (0x30, .ringResetFrame), (0x40, .ringData)],
    s.ringTake p.1 = none → exec p.2 s = .next s := by
  intro s p hp h
  simp only [List.mem_cons, List.not_mem_nil, or_false] at hp
  rcases hp with rfl | rfl | rfl | rfl | rfl | rfl <;> exact congrArg Host.Outcome.next (State.onRing_none _ h)

theorem State.ringTake_inbox {s t : State} {kind : Nat} {x : RingRx} (h : s.ringTake kind = some (x, t)) : t.ibg.inbox = s.ibg.inbox.erase x := by
  unfold State.ringTake at h
  split at h
  · obtain ⟨rfl, rfl⟩ := Prod.mk.inj (Option.some.inj h)
    rfl
  · exact absurd h (by simp)

/-- A map that is set stands, and nothing else of the ring moves but its holder and version. -/
theorem State.setMap_ibg (s : State) (m : List (Option DWord)) (holder : Nat) : ∃ v, (s.setMap m holder).ibg = { s.ibg with map := some m, holder := holder, version := v } := by
  unfold State.setMap
  extract_lets changed src t u
  have ht : t.ibg = { s.ibg with map := some m, holder := holder, version := if changed then (s.ibg.version + 1) % 65536 else s.ibg.version } := rfl
  have hu : u.ibg = t.ibg := ((goes_fwEvent (t.irq .ibg 1) _ _ _ rfl (.refl [.regs, .out, .mbx, .ldg, .pba] _)).1 .ibg (by decide)).trans (State.irq_ibg t _ _)
  refine ⟨_, Eq.trans ?_ ht⟩
  split
  · rfl
  · split
    · exact (State.irq_ibg u _ _).trans hu
    · exact hu

/-- What a DISCOVER frame tells of the order of the ring, and of its ends. -/
def State.discNoted (s : State) (x : RingRx) : State :=
  let p := x.pay
  let r := mergeOrder s.ibg.order s.modId.ident x.src (((discEntries p).take (byteAt p 18)).map fun e => e.1) x.east
  let fl := byteAt p 17
  let endW := if x.east then s.ibg.endW || !s.ibg.upW else decide (fl % 2 = 1)
  let endE := if x.east then decide (fl / 2 % 2 = 1) else s.ibg.endE || !s.ibg.upE
  { s with ibg := { s.ibg with order := r.1, closed := r.2 || decide (fl / 4 % 2 = 1), endW := endW, endE := endE } }

/-- The map that follows from what a DISCOVER frame told. -/
def State.discMap (s : State) (x : RingRx) : State :=
  let h : Nat := le x.pay 9 8
  if decide (h ≠ 0) && (s.ibg.map.isNone || decide (h < s.ibg.holder)) then s.setMap (placeNew (mapOf (discEntries x.pay)) s.modId.ident) (min h s.modId.ident.toNat)
  else match s.ibg.map with
    | none => if s.ibg.closed || (s.ibg.endW && s.ibg.endE) then s.setMap (formMap s.ibg.order s.ibg.closed) (((lowest ((formMap s.ibg.order s.ibg.closed).filterMap id)).map BitVec.toNat).getD 0) else s
    | some q => s.setMap (s.ibg.order.foldl placeNew q) s.ibg.holder

theorem State.discovered_eq (s : State) (x : RingRx) : s.discovered x = (s.discNoted x).discMap x := rfl

theorem State.discMap_order (s : State) (x : RingRx) : (s.discMap x).ibg.order = s.ibg.order := by
  have hset (m : List (Option DWord)) (holder : Nat) : (s.setMap m holder).ibg.order = s.ibg.order := by
    obtain ⟨v, h⟩ := s.setMap_ibg m holder
    rw [h]
  unfold State.discMap
  dsimp only
  split
  · exact hset _ _
  · split
    · split
      · exact hset _ _
      · rfl
    · exact hset _ _

theorem State.discMap_taken {s : State} {x : RingRx} (hm : s.ibg.map = none) (hh : le x.pay 9 8 ≠ 0) :
    (s.discMap x).ibg.map = some (placeNew (mapOf (discEntries x.pay)) s.modId.ident) := by
  obtain ⟨v, h⟩ := s.setMap_ibg (placeNew (mapOf (discEntries x.pay)) s.modId.ident) (min (le x.pay 9 8) s.modId.ident.toNat)
  have hd : s.discMap x = s.setMap (placeNew (mapOf (discEntries x.pay)) s.modId.ident) (min (le x.pay 9 8) s.modId.ident.toNat) := if_pos (by simp [hh, hm])
  rw [hd, h]

theorem discover_tells {x : RingRx} {s t : State} (h : s.ringTake 1 = some (x, t)) : ∃ u, exec .discover s = .next u ∧ u = t.discovered x ∧
    u.ibg.order = (mergeOrder t.ibg.order t.modId.ident x.src (((discEntries x.pay).take (byteAt x.pay 18)).map fun e => e.1) x.east).1 ∧
    (t.ibg.map = none → le x.pay 9 8 ≠ 0 → u.ibg.map = some (placeNew (mapOf (discEntries x.pay)) t.modId.ident)) := by
  refine ⟨_, congrArg Host.Outcome.next (State.onRing_some _ h), rfl, ?_, fun hm hh => ?_⟩
  · rw [State.discovered_eq]
    exact (t.discNoted x).discMap_order x
  · rw [State.discovered_eq]
    exact State.discMap_taken (s := t.discNoted x) hm hh

theorem discoverSend_sends (s : State) : ∃ t, exec .discoverSend s = .next t ∧ t = s.ringOut [true, false] 1 15 s.discoverPay ∧ (s.ibgRuns = true → t.ibg.sent = s.ibg.sent + 1) :=
  ⟨_, rfl, rfl, fun hr => congrArg Ibg.sent (State.ringOut_numbers _ _ _ (State.ringMute_open rfl hr (.inr rfl)))⟩

theorem posIn_isSome {m : List (Option DWord)} {i : DWord} {p : Nat} (hp : p < 8) (h : m.getD p none = some i) : (posIn m i).isSome = true := by
  rw [posIn, List.find?_isSome]
  exact ⟨p, List.mem_range.mpr hp, decide_eq_true h⟩

/-- A new identity takes a free position: the others keep theirs, and where one is free the new identity has one. -/
theorem placeNew_places {m : List (Option DWord)} (i j : DWord) (p : Nat) (hm : m.length = 8) :
    (m.getD p none = some j → (placeNew m i).getD p none = some j) ∧ (m.getD p none = none → p < 8 → (posIn (placeNew m i) i).isSome = true) := by
  unfold placeNew
  split
  · next h => exact ⟨id, fun _ _ => h⟩
  · split
    · next q hq =>
      have hfree : m.getD q none = none := by simpa using List.find?_some hq
      have hq8 : q < 8 := List.mem_range.mp (List.mem_of_find?_eq_some hq)
      refine ⟨fun h => ?_, fun _ _ => posIn_isSome hq8 ?_⟩
      · have hne : q ≠ p := by rintro rfl; rw [hfree] at h; exact absurd h (by simp)
        rw [setAt, List.getD_eq_getElem?_getD, List.getElem?_set_ne hne, ← List.getD_eq_getElem?_getD, h]
      · rw [setAt, List.getD_eq_getElem?_getD, List.getElem?_set_self (by omega), Option.getD_some]
    · next hn =>
      refine ⟨id, fun h hp => ?_⟩
      exact absurd (decide_eq_true h) (List.find?_eq_none.mp hn p (List.mem_range.mpr hp))
/-! ### A measurement keeps the bound of its source (R237, R243) -/

/-- The bound at the source, and the instant of the last measurement, are the same in two states. -/
def MeasKept (s t : State) : Prop := t.ntm.base = s.ntm.base ∧ t.ntm.measCnt = s.ntm.measCnt

theorem MeasKept.trans {s t u : State} (h : MeasKept s t) (h' : MeasKept t u) : MeasKept s u := ⟨h'.1.trans h.1, h'.2.trans h.2⟩

/-- An operation that leaves NTM alone keeps them. -/
theorem MeasKept.of_ntm {s t : State} (h : t.ntm = s.ntm) : MeasKept s t := ⟨congrArg Ntm.base h, congrArg Ntm.measCnt h⟩

section
variable (s : State)

theorem State.setRate_ntm (c : DWord) (v : Int) : (s.setRate c v).ntm = s.ntm := (goes_setRate s c v rfl (.refl [.regs] s)).1 .ntm (by decide)

theorem State.setAnchor_ntm (off : Nat) (c : DWord) : (s.setAnchor off c).ntm = s.ntm := (goes_setAnchor s off c rfl (.refl [.regs] s)).1 .ntm (by decide)

theorem State.stepNow_measKept (e : Int) (c : DWord) : MeasKept s (s.stepNow e c) := by
  unfold State.stepNow
  extract_lets n t
  have ht : MeasKept s t := .of_ntm (s.setAnchor_ntm _ _)
  exact ⟨ht.1, ht.2⟩

theorem State.toTm_ntm (st : Nat) : (s.toTm st).ntm = s.ntm := by
  unfold State.toTm
  split
  · rfl
  · dsimp only
    split
    · exact (State.event_ntm _ _ _ _).trans (State.irq_ntm _ _ _)
    · rfl

theorem State.servoState_ntm (ok : Bool) (g : Nat) : (s.servoState ok g).ntm = s.ntm := by
  unfold State.servoState
  split
  · exact s.toTm_ntm _
  · split
    · split <;> exact s.toTm_ntm _
    · rfl

theorem State.measureFirst_measKept (e : Int) (c : DWord) : MeasKept s (s.measureFirst e c) := by
  unfold State.measureFirst
  extract_lets t
  have ht : MeasKept s t := (s.stepNow_measKept e c).trans (.of_ntm (State.wr_ntm _ _ _))
  exact MeasKept.trans (t := { t with ntm := { t.ntm with first := true, good := 0 } }) ⟨ht.1, ht.2⟩ (.of_ntm (State.stepped_ntm _ e))

theorem State.servo_measKept (e d : Int) (c : DWord) : MeasKept s (s.servo e d c) := by
  unfold State.servo
  extract_lets f r ok g t
  have ht : MeasKept s t := .of_ntm ((State.setRate_ntm _ _ _).trans (State.wr_ntm _ _ _))
  exact MeasKept.trans (t := { t with ntm := { t.ntm with first := false, good := g } }) ⟨ht.1, ht.2⟩ (.of_ntm (State.servoState_ntm _ ok g))

/-- What a measurement notes: its instant, where NTM takes it. -/
theorem State.measure_notes (e : Int) (c : DWord) : (s.measure e c).ntm.base = s.ntm.base ∧
    (s.takes .ntm = true → s.rb R.ntm_NTM_CFG 2 = true → (s.measure e c).ntm.measCnt = c) := by
  unfold State.measure
  split
  · next h =>
    refine ⟨rfl, fun ht hb => absurd h ?_⟩
    simp [ht, hb]
  · extract_lets d n u
    have hu : u.ntm.base = s.ntm.base ∧ u.ntm.measCnt = c := ⟨rfl, rfl⟩
    have keep {v : State} (h : MeasKept u v) : v.ntm.base = s.ntm.base ∧ (s.takes .ntm = true → s.rb R.ntm_NTM_CFG 2 = true → v.ntm.measCnt = c) :=
      ⟨h.1.trans hu.1, fun _ _ => h.2.trans hu.2⟩
    split
    · exact keep (u.measureFirst_measKept _ _)
    · split
      · exact keep (u.servo_measKept _ _ _)
      · exact keep ⟨rfl, rfl⟩

end

/-! ### Wire delay and SYNC (R425) -/

theorem ringDelayMeasure_asks (c : DWord) (s : State) (hr : (s.at c).ibgRuns = true) : ∃ u, exec (.ringDelayMeasure c) s = .next u ∧
    u = ({ s.at c with ibg := { (s.at c).ibg with reqE := if (s.at c).ibg.upE then some ((s.at c).ts c) else none, reqW := if (s.at c).ibg.upW then some ((s.at c).ts c) else none } } : State).ringOut
      [true, false] 2 15 (toLe 8 ((s.at c).ts c)) ∧
    ((s.at c).ibg.upE = true → u.ibg.reqE = some ((s.at c).ts c)) ∧ ((s.at c).ibg.upW = true → u.ibg.reqW = some ((s.at c).ts c)) := by
  generalize hv : ({ s.at c with ibg := { (s.at c).ibg with reqE := if (s.at c).ibg.upE then some ((s.at c).ts c) else none, reqW := if (s.at c).ibg.upW then some ((s.at c).ts c) else none } } : State) = v
  have hx : exec (.ringDelayMeasure c) s = .next (v.ringOut [true, false] 2 15 (toLe 8 ((s.at c).ts c))) := hv ▸ congrArg Host.Outcome.next (if_neg (by simp [hr]))
  obtain ⟨n, hi⟩ := State.ringOut_ibg (s := v) (ports := [true, false]) (kind := 2) 15 (toLe 8 ((s.at c).ts c))
  refine ⟨_, hx, rfl, fun hu => ?_, fun hu => ?_⟩
  · rw [hi, ← hv]
    exact if_pos hu
  · rw [hi, ← hv]
    exact if_pos hu

theorem ringDelayMeasure_idle (c : DWord) (s : State) (hr : (s.at c).ibgRuns = false) : exec (.ringDelayMeasure c) s = .next (s.at c) :=
  congrArg Host.Outcome.next (if_pos (by simp [hr]))

section
variable {s t : State} {x : RingRx}

theorem dlyReq_answers (c : DWord) (h : s.ringTake 2 = some (x, t)) : ∃ u, exec (.dlyReq c) s = .next u ∧
    u = (t.at c).ringOut [x.east] 3 15 (toLe 8 ((t.at c).ts x.c) ++ toLe 8 ((t.at c).ts c)) ∧ u.ibg.inbox = s.ibg.inbox.erase x := by
  obtain ⟨n, hi⟩ := State.ringOut_ibg (s := t.at c) (ports := [x.east]) (kind := 3) 15 (toLe 8 ((t.at c).ts x.c) ++ toLe 8 ((t.at c).ts c))
  refine ⟨_, congrArg Host.Outcome.next (State.onRing_some _ h), rfl, ?_⟩
  rw [hi]
  show t.ibg.inbox = s.ibg.inbox.erase x
  exact State.ringTake_inbox h

theorem dlyResp_idle (h : s.ringTake 3 = some (x, t)) (hn : (if x.east then t.ibg.reqE else t.ibg.reqW) = none) : exec .dlyResp s = .next t := by
  refine congrArg Host.Outcome.next ((State.onRing_some _ h).trans ?_)
  dsimp only
  rw [hn]

theorem exec_dlyResp {t1 : Nat} (h : s.ringTake 3 = some (x, t)) (hr : (if x.east then t.ibg.reqE else t.ibg.reqW) = some t1) : exec .dlyResp s = .next (
    if x.east then { t with ibg := { t.ibg with reqE := none, delE := (wireSample t1 (le x.pay 0 8) (le x.pay 8 8) (t.ts x.c) :: t.ibg.delE).take 5 } }
    else { t with ibg := { t.ibg with reqW := none, delW := (wireSample t1 (le x.pay 0 8) (le x.pay 8 8) (t.ts x.c) :: t.ibg.delW).take 5 } }) := by
  refine congrArg Host.Outcome.next ((State.onRing_some _ h).trans ?_)
  dsimp only
  rw [hr]

theorem syncSend_sends (c : DWord) {p : Nat} (hm : (s.at c).ibg.master = some p) (hp : (s.at c).ringPos = some p) (ht : (s.at c).tick % 16 = 0) : ∃ u, exec (.syncSend c) s = .next u ∧
    u = (s.at c).ringSend 4 15 (toLe 8 ((s.at c).ts c) ++ toLe 6 0 ++ toLe 1 (s.at c).tq ++ toLe 1 0) ∧
    ((s.at c).ibgRuns = true → (s.at c).ringFull = false → u.ibg.sent = (s.at c).ibg.sent + 1) :=
  ⟨_, congrArg Host.Outcome.next (if_pos (by rw [hm, hp, ht]; simp)), rfl,
    fun hr hf => congrArg Ibg.sent (State.ringOut_numbers _ _ _ (State.ringMute_open rfl hr (.inl hf)))⟩

theorem syncSend_waits (c : DWord) (h : (s.at c).ibg.master = none ∨ (s.at c).ibg.master ≠ (s.at c).ringPos ∨ (s.at c).tick % 16 ≠ 0) : exec (.syncSend c) s = .next (s.at c) := by
  refine congrArg Host.Outcome.next (if_neg ?_)
  simp only [Bool.and_eq_true, decide_eq_true_eq, Option.isSome_iff_ne_none]
  rintro ⟨⟨hm, hp⟩, ht⟩
  exact h.elim hm fun h => h.elim (absurd hp) (absurd ht)

section
variable {p : Nat} {m : List (Option DWord)} (h : s.ringTake 4 = some (x, t)) (hm : t.ibg.master = some p) (hq : t.ibg.map = some m)
include h hm hq

/-- A SYNC was heard. -/
abbrev State.syncNoted (t : State) : State := { t with ibg := { t.ibg with syncAt := t.ibg.edges } }

theorem exec_sync : exec .sync s = .next (
    if m.getD p none ≠ some x.src then t
    else if t.syncNoted.rf R.ntm_NTM_CFG 0 2 ≠ 2 then t.syncNoted
    else ((t.syncNoted.setBase ((tqBound (byteAt x.pay 14)).map fun b => b + 10)).measure (t.syncNoted.syncError x) x.c).draw 1) := by
  refine congrArg Host.Outcome.next ((State.onRing_some _ h).trans ?_)
  rw [hm, hq]

theorem sync_steers (hs : m.getD p none = some x.src) (hc : t.rf R.ntm_NTM_CFG 0 2 = 2) : ∃ v, exec .sync s = .next v ∧
    v = ((t.syncNoted.setBase ((tqBound (byteAt x.pay 14)).map (· + 10))).measure (t.syncNoted.syncError x) x.c).draw 1 ∧
    v.ntm.base = (tqBound (byteAt x.pay 14)).map (· + 10) ∧ (t.takes .ntm = true → t.rb R.ntm_NTM_CFG 2 = true → v.ntm.measCnt = x.c) := by
  have hx := exec_sync h hm hq
  rw [if_neg (not_not.mpr hs), if_neg (show ¬ t.syncNoted.rf R.ntm_NTM_CFG 0 2 ≠ 2 from not_not.mpr hc)] at hx
  obtain ⟨hbase, hcnt⟩ := State.measure_notes (t.syncNoted.setBase ((tqBound (byteAt x.pay 14)).map (· + 10))) (t.syncNoted.syncError x) x.c
  exact ⟨_, hx, rfl, hbase, hcnt⟩

theorem sync_notes (hs : m.getD p none = some x.src) (hc : t.rf R.ntm_NTM_CFG 0 2 ≠ 2) : ∃ v, exec .sync s = .next v ∧ v = t.syncNoted ∧ v.ibg.syncAt = t.ibg.edges := by
  have hx := exec_sync h hm hq
  rw [if_neg (not_not.mpr hs), if_pos (show t.syncNoted.rf R.ntm_NTM_CFG 0 2 ≠ 2 from hc)] at hx
  exact ⟨_, hx, rfl, rfl⟩

end

end

/-! ### The master is lost (R424, R426) -/

theorem State.setMaster_ibg (s : State) (m : Option Nat) (h : s.ibg.master ≠ m) : (s.setMaster m).ibg = { s.ibg with master := m, syncAt := s.ibg.edges } := by
  have hk (t : State) (code src : Nat) (p : Bytes) : (t.srcByRole.fwEvent code src p).ibg = t.ibg :=
    (goes_fwEvent _ _ _ _ rfl (goes_srcByRole t rfl (.refl [.regs, .out, .mbx, .ldg, .pba] t))).1 .ibg (by decide)
  unfold State.setMaster
  rw [if_neg h]
  exact (hk _ _ _ _).trans (State.irq_ibg _ _ _)

/-- A position other than the own one whose heartbeat is forgotten is not chosen. -/
theorem State.elect_ne {s : State} {p : Nat} (hp : some p ≠ s.ringPos) (hb : s.ibg.hb.getD p none = none) : s.elect ≠ some p := by
  have hf : s.hbFlags p = 0 := by rw [State.hbFlags, hb]
  unfold State.elect
  extract_lets f has
  have hn (b : Nat) : has b p = false := by
    have h0 : f p = 0 := (if_neg hp).trans hf
    simp [has, h0]
  split
  · next q hq => rintro ⟨⟩; exact absurd (List.find?_some hq) (by simp [hn])
  · split
    · next q hq => rintro ⟨⟩; exact absurd (List.find?_some hq) (by simp [hn])
    · intro h
      exact absurd (List.find?_some h) (by simp [hn])

/-- A module without a master chooses one that may be chosen. -/
theorem State.chooseMaster_ne {s : State} {p : Nat} (hm : s.ibg.master = none) (hp : some p ≠ s.ringPos) (hb : s.ibg.hb.getD p none = none) :
    s.chooseMaster.ibg.master ≠ some p := by
  unfold State.chooseMaster
  split
  · by_cases he : s.ibg.master = s.elect
    · rw [State.setMaster, if_pos he, hm]
      simp
    · rw [s.setMaster_ibg _ he]
      exact State.elect_ne hp hb
  · rw [hm]
    simp

theorem getD_setAt_unset {α : Type} (l : List (Option α)) (p : Nat) : (setAt l p none).getD p none = none := by
  rw [setAt, List.getD_eq_getElem?_getD, List.getElem?_set, if_pos rfl]
  split <;> rfl

/-- The heartbeat of a position is forgotten. -/
def State.hbForgotten (s : State) (p : Nat) : State := { s with ibg := { s.ibg with hb := setAt s.ibg.hb p none } }

theorem State.masterLost_eq {s : State} {p : Nat} (c : DWord) (hm : s.ibg.master = some p) :
    s.masterLost c = (((if s.rf R.ntm_NTM_CFG 0 2 = 2 then s.loseSource c 1 else s).hbForgotten p).setMaster none).chooseMaster := by
  unfold State.masterLost
  rw [hm]
  rfl

/-- The ring after its master is lost: the lost one is not its master again. -/
theorem State.masterLost_ne {s : State} {p : Nat} (c : DWord) (hm : s.ibg.master = some p) (hp : some p ≠ s.ringPos) : (s.masterLost c).ibg.master ≠ some p := by
  rw [State.masterLost_eq c hm]
  generalize hu : (if s.rf R.ntm_NTM_CFG 0 2 = 2 then s.loseSource c 1 else s) = u
  have hug : Goes [.regs, .out, .cnt, .mbx, .ldg, .ntm, .pba] s u := hu ▸ .ite (goes_loseSource s c 1 rfl (.refl _ s)) (.refl _ s)
  have hui : (u.hbForgotten p).ibg = { s.ibg with hb := setAt s.ibg.hb p none } := by rw [State.hbForgotten, hug.1 .ibg (by decide)]
  generalize hw : u.hbForgotten p = w at hui ⊢
  have hwid : (w.setMaster none).modId = s.modId :=
    ((goes_setMaster w none rfl (.refl [.regs, .out, .mbx, .ldg, .ibg, .pba] w)).1 .modId (by decide)).trans (by rw [← hw]; exact hug.1 .modId (by decide))
  have hwi := w.setMaster_ibg none (by rw [hui]; simp [hm])
  rw [hui] at hwi
  refine State.chooseMaster_ne (by rw [hwi]) ?_ (by rw [hwi]; exact getD_setAt_unset _ p)
  unfold State.ringPos
  rw [hwi, hwid]
  exact hp

theorem State.masterGone_some {s : State} (h : s.masterGone = true) : ∃ p, s.ibg.master = some p ∧ some p ≠ s.ringPos := by
  unfold State.masterGone at h
  split at h
  · exact absurd h (by decide)
  · next p hp =>
    rw [Bool.and_eq_true, decide_eq_true_eq] at h
    exact ⟨p, hp, h.1⟩

theorem masterLost_changes {s : State} (c : DWord) (hr : s.inReset .ibg = false) (hg : s.masterGone = true) : ∃ t, exec (.masterLost c) s = .next t ∧
    t.ibg.master ≠ s.ibg.master ∧ ChangesOnly (touches (.masterLost c)) s t := by
  obtain ⟨p, hm, hp⟩ := State.masterGone_some hg
  have hx : exec (.masterLost c) s = .next ((s.at c).masterLost c) := congrArg Host.Outcome.next (if_pos (by simp [hr, hg]))
  exact ⟨_, hx, hm ▸ State.masterLost_ne (s := s.at c) c hm hp, (exec_goes hx).1⟩

theorem masterLost_idle {s : State} (c : DWord) (h : s.inReset .ibg = true ∨ s.masterGone = false) : exec (.masterLost c) s = .next s :=
  congrArg Host.Outcome.next (if_neg (by rcases h with h | h <;> simp [h]))

/-! ### Remote reset (R427) -/

section
variable {m : Master} {v : Word} {s : State} (h : PageOpen s .ibg m)
include h

theorem exec_rrstCtrlWrite : exec (.rrstCtrlWrite m v) s = .next (
    (if fld v 16 16 ≠ 0xC0DE then s.err .ibg eBadKey 0xC0 m
      else match s.rrstError with | some e => s.err .ibg e 0xC0 m | none => s.rrstSend (fld v 0 3) : State).answer .done) :=
  congrArg Host.Outcome.next (State.writeAt_open h _ _ _)

theorem rrstCtrlWrite_badKey (hk : fld v 16 16 ≠ 0xC0DE) : ∃ t, exec (.rrstCtrlWrite m v) s = .next t ∧ t = (s.err .ibg eBadKey 0xC0 m).answer .done ∧ t.ibg = s.ibg := by
  have hx := exec_rrstCtrlWrite (v := v) h
  rw [if_pos hk] at hx
  exact ⟨_, hx, rfl, State.err_ibg _ _ _ _ _⟩

theorem rrstCtrlWrite_refused {e : Nat} (hk : fld v 16 16 = 0xC0DE) (he : s.rrstError = some e) :
    ∃ t, exec (.rrstCtrlWrite m v) s = .next t ∧ t = (s.err .ibg e 0xC0 m).answer .done ∧ t.ibg = s.ibg := by
  have hx := exec_rrstCtrlWrite (v := v) h
  rw [if_neg (not_not.mpr hk), he] at hx
  exact ⟨_, hx, rfl, State.err_ibg _ _ _ _ _⟩

end

theorem State.rrstError_key {s : State} (h : s.ringKey = none) : s.rrstError = some 0x80 := if_pos (by simp [h])

theorem State.rrstError_map {s : State} (hk : s.ringKey ≠ none) (h : s.ibg.map = none) : s.rrstError = some 0x81 :=
  (if_neg (by simpa using hk)).trans (if_pos (by simp [h]))

theorem State.rrstError_none {s : State} (hk : s.ringKey ≠ none) (h : s.ibg.map ≠ none) : s.rrstError = none :=
  (if_neg (by simpa using hk)).trans (if_neg (by simpa using h))

theorem State.ringKey_of_rrstError {s : State} (h : s.rrstError = none) : s.ringKey ≠ none := fun hk => absurd ((State.rrstError_key hk).symm.trans h) (by simp)

theorem rrstCtrlWrite_sends {m : Master} {v : Word} {s : State} (h : PageOpen s .ibg m) (hk : fld v 16 16 = 0xC0DE) (hr : s.ringKey ≠ none) (hm : s.ibg.map ≠ none) :
    ∃ t, exec (.rrstCtrlWrite m v) s = .next t ∧ t = (s.rrstSend (fld v 0 3)).answer .done ∧ t.resp = .done ∧ (s.ibgRuns = true → s.ringFull = false → t.ibg.sent = s.ibg.sent + 1) := by
  have hx := exec_rrstCtrlWrite (v := v) h
  rw [if_neg (not_not.mpr hk), State.rrstError_none hr hm] at hx
  exact ⟨_, hx, rfl, rfl, fun hi hf => State.ringSend_numbers 0x30 _ _ hi hf hr⟩

section
variable {x : RingRx} {s t : State} (h : s.ringTake 0x30 = some (x, t))
include h

theorem ringResetFrame_resets (hk : le x.pay 0 2 = 0xC0DE) (hs : t.boot.stage ≠ .off) (hc : t.rb R.ibg_IBG_CFG 8 = true) : ∃ u, exec .ringResetFrame s = .next u ∧
    u = t.enterReset 9 (if x.east then 0 else 1) false ∧ u.boot.stage = .reset ∧ (t.outranked 9 = false → u.rf R.rst_RST_CAUSE 0 4 = 9) :=
  ⟨_, congrArg Host.Outcome.next ((State.onRing_some _ h).trans ((if_pos (by simp [hk, hc])).trans (if_neg hs))), rfl,
    State.enterReset_stage t _ (by decide), State.enterReset_cause t _ (by decide)⟩

theorem ringResetFrame_ignored (hn : le x.pay 0 2 ≠ 0xC0DE ∨ t.rb R.ibg_IBG_CFG 8 = false) : exec .ringResetFrame s = .next t :=
  congrArg Host.Outcome.next ((State.onRing_some _ h).trans (if_neg (by rcases hn with hn | hn <;> simp [hn])))

end

/-! ### Forgetting a position, and the mailbox (R423) -/

section
variable {s : State} {p : Nat}

theorem State.forgetPos_kept (h : s.present / 2 ^ p % 2 = 1 ∨ some p = s.ringPos) : s.forgetPos p = (s, false) := if_pos h

theorem State.forgetPos_none (h1 : s.present / 2 ^ p % 2 ≠ 1) (h2 : some p ≠ s.ringPos) (hm : s.ibg.map = none) : s.forgetPos p = (s, true) := by
  rw [State.forgetPos, if_neg (not_or.mpr ⟨h1, h2⟩), hm]

theorem State.forgetPos_some {q : List (Option DWord)} (h1 : s.present / 2 ^ p % 2 ≠ 1) (h2 : some p ≠ s.ringPos) (hm : s.ibg.map = some q) :
    s.forgetPos p = (s.setMap (setAt q p none) s.ibg.holder, true) := by
  rw [State.forgetPos, if_neg (not_or.mpr ⟨h1, h2⟩), hm]

theorem State.setMap_map (s : State) (m : List (Option DWord)) (holder : Nat) : (s.setMap m holder).ibg.map = some m := by
  obtain ⟨v, h⟩ := s.setMap_ibg m holder
  rw [h]

/-- A position that was forgotten is free; one that was not leaves the module as it is. -/
theorem State.forgetPos_map {u : State} : (s.forgetPos p = (u, true) → ∀ m, s.ibg.map = some m → u.ibg.map = some (setAt m p none)) ∧
    (s.forgetPos p = (u, false) → u = s) := by
  unfold State.forgetPos
  split
  · refine ⟨fun h => absurd (congrArg Prod.snd h) (by simp), fun h => ?_⟩
    exact (Prod.mk.inj h).1.symm
  · split
    · next q hq =>
      refine ⟨fun h m hm => ?_, fun h => absurd (congrArg Prod.snd h) (by simp)⟩
      obtain rfl := (Prod.mk.inj h).1
      obtain rfl := Option.some.inj (hq.symm.trans hm)
      exact s.setMap_map _ _
    · next hq => exact ⟨fun _ m hm => absurd (hq.symm.trans hm) (by simp), fun h => absurd (congrArg Prod.snd h) (by simp)⟩

/-- How the attempt to free a position is answered at the register. -/
def forgetEnd (m : Master) : State × Bool → State
  | (t, true) => t
  | (t, false) => t.err .ibg eBusy 0xC4 m

section
variable {m : Master} {v : Word} (h : PageOpen s .ibg m)
include h

theorem exec_mapForget : exec (.mapForget m v) s = .next ((if fld v 16 16 ≠ 0xF0E7 then s.err .ibg eBadKey 0xC4 m else forgetEnd m (s.forgetPos (fld v 0 3)) : State).answer .done) :=
  congrArg Host.Outcome.next (State.writeAt_open h _ _ _)

theorem mapForget_badKey (hk : fld v 16 16 ≠ 0xF0E7) : ∃ t, exec (.mapForget m v) s = .next t ∧ t = (s.err .ibg eBadKey 0xC4 m).answer .done ∧ t.ibg = s.ibg := by
  have hx := exec_mapForget (v := v) h
  rw [if_pos hk] at hx
  exact ⟨_, hx, rfl, State.err_ibg _ _ _ _ _⟩

variable (hk : fld v 16 16 = 0xF0E7)
include hk

theorem mapForget_busy (hp : s.present / 2 ^ fld v 0 3 % 2 = 1 ∨ some (fld v 0 3) = s.ringPos) :
    ∃ t, exec (.mapForget m v) s = .next t ∧ t = (s.err .ibg eBusy 0xC4 m).answer .done ∧ t.ibg = s.ibg := by
  have hx := exec_mapForget (v := v) h
  rw [if_neg (not_not.mpr hk), State.forgetPos_kept hp] at hx
  exact ⟨_, hx, rfl, State.err_ibg _ _ _ _ _⟩

variable (h1 : s.present / 2 ^ fld v 0 3 % 2 ≠ 1) (h2 : some (fld v 0 3) ≠ s.ringPos)
include h1 h2

theorem mapForget_noMap (hm : s.ibg.map = none) : exec (.mapForget m v) s = .next (s.answer .done) := by
  rw [exec_mapForget (v := v) h, if_neg (not_not.mpr hk), State.forgetPos_none h1 h2 hm]
  rfl

theorem mapForget_frees {q : List (Option DWord)} (hm : s.ibg.map = some q) : ∃ t, exec (.mapForget m v) s = .next t ∧
    t = (s.setMap (setAt q (fld v 0 3) none) s.ibg.holder).answer .done ∧ t.ibg.map = some (setAt q (fld v 0 3) none) := by
  have hx := exec_mapForget (v := v) h
  rw [if_neg (not_not.mpr hk), State.forgetPos_some h1 h2 hm] at hx
  exact ⟨_, hx, rfl, s.setMap_map _ _⟩

end

section
variable {tag : Word} {k : Cmd}

section
variable (h : Ready s 0x0B01 tag k)
include h

theorem exec_ringReset : exec (.ringReset tag) s = .next (
    if 7 < k.par 0 1 then s.reply k stBadParam [] []
    else match s.rrstError with | some e => s.reply k stFault (toLe 1 e) [] | none => (s.rrstSend (k.par 0 1)).reply k stOk [] []) :=
  congrArg Host.Outcome.next (State.withCmd_ready h _)

theorem ringReset_badParam (hp : 7 < k.par 0 1) : exec (.ringReset tag) s = .next (s.reply k stBadParam [] []) :=
  (exec_ringReset h).trans (congrArg Host.Outcome.next (if_pos hp))

variable (hp : k.par 0 1 ≤ 7)
include hp

theorem ringReset_fault {e : Nat} (he : s.rrstError = some e) : exec (.ringReset tag) s = .next (s.reply k stFault (toLe 1 e) []) := by
  rw [exec_ringReset h, if_neg (by omega), he]

theorem ringReset_sends (he : s.rrstError = none) : ∃ t, exec (.ringReset tag) s = .next t ∧ t = (s.rrstSend (k.par 0 1)).reply k stOk [] [] ∧
    (s.ibgRuns = true → s.ringFull = false → t.ibg.sent = s.ibg.sent + 1) ∧ Ended k t := by
  have hx := exec_ringReset h
  rw [if_neg (by omega), he] at hx
  exact ⟨_, hx, rfl, fun hr hf => (congrArg Ibg.sent (State.reply_ibg _ _ _ _ _)).trans (State.ringSend_numbers 0x30 _ _ hr hf (State.ringKey_of_rrstError he)), State.reply_ended _ _ _ _ _⟩

end

section
variable (h : Ready s 0x0B02 tag k)
include h

/-- How the attempt to free a position is answered to the mailbox. -/
def ringForgetEnd (k : Cmd) : State × Bool → State
  | (u, true) => u.reply k stOk [] []
  | (u, false) => u.reply k stBusy [] []

theorem exec_ringForget : exec (.ringForget tag) s = .next (if 7 < k.par 0 1 then s.reply k stBadParam [] [] else ringForgetEnd k (s.forgetPos (k.par 0 1))) :=
  congrArg Host.Outcome.next (State.withCmd_ready h _)

theorem ringForget_badParam (hp : 7 < k.par 0 1) : exec (.ringForget tag) s = .next (s.reply k stBadParam [] []) :=
  (exec_ringForget h).trans (congrArg Host.Outcome.next (if_pos hp))

variable (hp : k.par 0 1 ≤ 7) {u : State}
include hp

theorem ringForget_frees (hu : s.forgetPos (k.par 0 1) = (u, true)) : ∃ t, exec (.ringForget tag) s = .next t ∧ t = u.reply k stOk [] [] ∧
    (∀ m, s.ibg.map = some m → t.ibg.map = some (setAt m (k.par 0 1) none)) ∧ Ended k t := by
  have hx := exec_ringForget h
  rw [if_neg (by omega), hu] at hx
  exact ⟨u.reply k stOk [] [], hx, rfl, fun m hm => (congrArg Ibg.map (State.reply_ibg _ _ _ _ _)).trans (State.forgetPos_map.1 hu m hm), State.reply_ended _ _ _ _ _⟩

theorem ringForget_busy (hu : s.forgetPos (k.par 0 1) = (u, false)) : ∃ t, exec (.ringForget tag) s = .next t ∧ t = s.reply k stBusy [] [] ∧
    t.ibg.map = s.ibg.map ∧ Ended k t := by
  have hx := exec_ringForget h
  rw [if_neg (by omega), hu, State.forgetPos_map.2 hu] at hx
  exact ⟨s.reply k stBusy [] [], hx, rfl, congrArg Ibg.map (State.reply_ibg _ _ _ _ _), State.reply_ended _ _ _ _ _⟩

end

end

end

/-! ### The statement -/

/-- Settles O56: links by `portUp` and `portDown`, frames by `ringOut_sends`, the map by `setMap_ibg` and `placeNew_places`, mastership by `elect_ne`. -/
theorem ringKeepsLinksMapAndMaster : Obligations.RingKeepsLinksMapAndMaster := by
  unfold Obligations.RingKeepsLinksMapAndMaster
  refine ⟨⟨fun e s => linkUp_up, fun e s => linkDown_down, fun e s => links_inReset, ringLinks_waitForNone, fun x t s => discover_tells, ?_, discoverSend_sends, ?_, fun m i j p => placeNew_places i j p⟩,
    ⟨?_, fun c x t s => dlyReq_answers c, ?_, fun x t s => dlyResp_idle, ?_, ?_, ?_, fun c s => masterLost_changes c, fun c s => masterLost_idle c⟩, ?_, ?_, ?_, ?_, ?_, ?_⟩
  · intro ports kind dpos pay e s hr hf he hl seq h t
    exact ⟨State.ringOut_plain dpos pay hr hf he hl, fun key => State.ringOut_sealed dpos pay hr hf he hl⟩
  · exact fun x t s h => ⟨t, congrArg Host.Outcome.next (State.onRing_some _ h), rfl, State.ringTake_inbox h⟩
  · exact fun c s => ⟨ringDelayMeasure_asks c s, ringDelayMeasure_idle c s⟩
  · intro x t1 t s h d
    constructor
    · intro he hr
      have hx := exec_dlyResp h (t1 := t1) (by rw [he]; exact hr)
      rw [he, if_pos rfl] at hx
      exact ⟨_, hx, rfl, rfl, rfl⟩
    · intro he hr
      have hx := exec_dlyResp h (t1 := t1) (by rw [he]; exact hr)
      rw [he, if_neg (by decide)] at hx
      exact ⟨_, hx, rfl, rfl, rfl⟩
  · exact fun c p s => syncSend_sends c
  · exact fun c s => syncSend_waits c
  · intro x p m t s h hm hq
    exact ⟨fun hs => (exec_sync h hm hq).trans (congrArg Host.Outcome.next (if_pos hs)), fun hs => ⟨sync_steers h hm hq hs, sync_notes h hm hq hs⟩⟩
  · exact fun m v s h => ⟨rrstCtrlWrite_badKey h, fun hk hr => rrstCtrlWrite_refused h hk (State.rrstError_key hr),
      fun hk hr hm => rrstCtrlWrite_refused h hk (State.rrstError_map hr hm), rrstCtrlWrite_sends h⟩
  · exact fun x t s h => ⟨ringResetFrame_resets h, ringResetFrame_ignored h⟩
  · exact fun m v s h => ⟨mapForget_badKey h, mapForget_busy h, mapForget_noMap h, fun q hk h1 h2 => mapForget_frees h hk h1 h2⟩
  · exact fun tag k s h => replied_ends (congrArg Host.Outcome.next (State.withCmd_ready h _))
  · exact fun tag k s h => ⟨fun hp => replied_ends (ringReset_badParam h hp), fun e hp he => replied_ends (ringReset_fault h hp he), ringReset_sends h⟩
  · exact fun tag k s h => ⟨fun hp => replied_ends (ringForget_badParam h hp), fun u hp => ringForget_frees h hp, fun u hp => ringForget_busy h hp⟩

end Sys2Proof.Machine
end

section
/-! PROOFS. The heartbeats, the checkpoints and the roles of a pair (O57). -/

namespace Sys2Proof.Machine

open Sys2Proof

/-! ### Heartbeats (R428, R429) -/

theorem heartbeatSend_sends (s : State) : (s.beats = true → (∃ t, exec .heartbeatSend s = .next t ∧ t = s.ringSend 5 15 s.beatPay ∧
      (s.ibgRuns = true → s.ringFull = false → t.ibg.sent = s.ibg.sent + 1))) ∧
    (s.beats = false → exec .heartbeatSend s = .next s) := by
  refine ⟨fun h => ⟨_, congrArg Host.Outcome.next (if_pos h), rfl, fun hr hf => ?_⟩, fun h => congrArg Host.Outcome.next (if_neg (by simp [h]))⟩
  exact congrArg Ibg.sent (State.ringOut_numbers _ 15 s.beatPay (State.ringMute_open rfl hr (.inl hf)))

theorem standby_waitForNone : ∀ s : State, ∀ p ∈ [(5, Instr.heartbeat), (0x10, .ckptData), (0x11, .ckptAck)], s.ringTake p.1 = none → exec p.2 s = .next s := by
  intro s p hp h
  simp only [List.mem_cons, List.not_mem_nil, or_false] at hp
  rcases hp with rfl | rfl | rfl <;> exact congrArg Host.Outcome.next (State.onRing_none _ h)

/-- The position of a heartbeat's sender: by the map, or by the frame where there is none. -/
def State.beatPos (t : State) (x : RingRx) : Nat := match t.ibg.map with | some m => (posIn m x.src).getD x.spos | none => x.spos

/-- The state with a heartbeat kept for a position of the ring. -/
def State.beatKept (t : State) (x : RingRx) (p : Nat) : State :=
  if p < 8 then { t with ibg := { t.ibg with hb := setAt t.ibg.hb p (some ⟨t.ibg.edges, x.pay⟩) } } else t

theorem exec_heartbeat {x : RingRx} {t s : State} (h : s.ringTake 5 = some (x, t)) :
    exec .heartbeat s = .next ((t.beatKept x (t.beatPos x)).beatHeard x (t.beatPos x)) :=
  congrArg Host.Outcome.next (State.onRing_some _ h)

theorem posIn_lt {m : List (Option DWord)} {i : DWord} {p : Nat} (h : posIn m i = some p) : p < 8 :=
  List.mem_range.mp (List.mem_of_find?_eq_some h)

@[simp] theorem State.beatHeard_ibg (s : State) (x : RingRx) (p : Nat) : (s.beatHeard x p).ibg = s.ibg :=
  (goes_beatHeard s x p rfl (.refl [.fov] s)).1 .ibg (by decide)

theorem heartbeat_kept (x : RingRx) (t s : State) (h : s.ringTake 5 = some (x, t)) :
    (∀ m p, t.ibg.map = some m → posIn m x.src = some p → ∃ u, exec .heartbeat s = .next u ∧ u.ibg.hb = setAt t.ibg.hb p (some ⟨t.ibg.edges, x.pay⟩) ∧
      u = ({ t with ibg := { t.ibg with hb := setAt t.ibg.hb p (some ⟨t.ibg.edges, x.pay⟩) } } : State).beatHeard x p) ∧
    (t.ibg.map = none → 8 ≤ x.spos → ∃ u, exec .heartbeat s = .next u ∧ u = t.beatHeard x x.spos ∧ u.ibg = t.ibg) := by
  refine ⟨fun m p hm hp => ?_, fun hm hs => ?_⟩
  · have hpos : t.beatPos x = p := by simp [State.beatPos, hm, hp]
    have hk : t.beatKept x p = { t with ibg := { t.ibg with hb := setAt t.ibg.hb p (some ⟨t.ibg.edges, x.pay⟩) } } := if_pos (posIn_lt hp)
    have hx := exec_heartbeat h
    rw [hpos, hk] at hx
    exact ⟨_, hx, congrArg Ibg.hb (State.beatHeard_ibg _ x p), rfl⟩
  · have hpos : t.beatPos x = x.spos := by simp [State.beatPos, hm]
    have hk : t.beatKept x x.spos = t := if_neg (by omega)
    have hx := exec_heartbeat h
    rw [hpos, hk] at hx
    exact ⟨_, hx, rfl, State.beatHeard_ibg _ x _⟩

theorem State.not_isStandby_of_isHead {s : State} (h : s.isHead = true) : s.isStandby = false := by
  have hr : s.role = 1 := of_decide_eq_true h
  rw [State.isStandby, hr]
  rfl

theorem beatHeard_onHead (x : RingRx) (p : Nat) (s : State) (hr : s.runs .fov = true) (hh : s.isHead = true) (hs : le x.pay 2 2 = s.net.seg) (hb : byteAt x.pay 0 % 4 = 3) :
    s.beatHeard x p = { s with fov := { s.fov with pair := some (s.ibg.edges, p, byteAt x.pay 1 % 8, le x.pay 12 2) } } := by
  simp [State.beatHeard, hr, hh, State.not_isStandby_of_isHead hh, hs, hb]

theorem beatHeard_onStandby (x : RingRx) (p : Nat) (s : State) (hr : s.runs .fov = true) (hh : s.isStandby = true) (hs : le x.pay 2 2 = s.watchSeg)
    (hb : byteAt x.pay 0 / 4 % 2 = 1) :
    s.beatHeard x p = { s with fov := { s.fov with heardA := true, partner := some p, lastNs := s.ntNs x.c, lastTick := s.tick32 } } := by
  simp [State.beatHeard, hr, hh, hs, hb]

/-! ### Lost paths and the decision (R430, R431) -/

theorem State.ledger_pages (s : State) (code sev src p0 p1 p2 : Nat) : PagesOnly [0x2A] s (s.ledger code sev src p0 p1 p2) := s.logGroup_pages _ _ _ _ _

theorem State.fwEvent_fov (s : State) (code src : Nat) (p : Bytes) : (s.fwEvent code src p).fov = s.fov :=
  (goes_fwEvent s code src p rfl (.refl [.regs, .out, .mbx, .ldg, .pba] s)).1 .fov (by decide)

/-- An interrupt of FOV that a record reports stays raised. -/
theorem State.irq_ledger_raw (s : State) {i : Nat} (h : i < 32) (hb : tst (w32 (2 ^ blkIrqN .fov - 1 + 0xC0000000)) i = true) (code sev src p0 p1 p2 : Nat) :
    ((s.irq .fov i).ledger code sev src p0 p1 p2).rb (hdr .fov oRaw) i = true :=
  (State.rb_congr (State.ledger_pages _ _ _ _ _ _ _ _ (by decide)) i).trans (State.irq_raises _ _ h hb)

theorem pathLost_raised (s : State) (hr : s.inReset .fov = false) (hs : s.isStandby = true) (hl : s.fov.pathLost = false)
    (hp : (8 ≤ s.fov.silA ∧ s.fov.silB = 0) ∨ (8 ≤ s.fov.silB ∧ s.fov.silA = 0)) :
    ∃ t, exec .pathLost s = .next t ∧ t.fov.pathLost = true ∧ t.rb (hdr .fov oRaw) 2 = true ∧ ChangesOnly (touches .pathLost) s t := by
  have hx : exec .pathLost s = .next ((({ s with fov := { s.fov with pathLost := true } } : State).irq .fov 2).ledger 0xEB00 2 (blkSrc .fov)
      (b2n (decide (8 ≤ s.fov.silB) && decide (s.fov.silA = 0))) s.fov.silA s.fov.silB) :=
    congrArg Host.Outcome.next (if_neg (by rcases hp with ⟨ha, hb⟩ | ⟨ha, hb⟩ <;> simp [hr, hs, hl, ha, hb]))
  refine ⟨_, hx, ?_, State.irq_ledger_raw _ (by decide) (by decide) _ _ _ _ _ _, (exec_goes hx).1⟩
  rw [State.ledger_fov, State.irq_fov]

/-- The decision on a standby that hears no one, while no takeover is under way. -/
theorem State.takeoverDecision_standby {s : State} (hs : s.isStandby = true) (hr : s.runs .fov = true) (ht : s.fov.taking = none) (hf : s.ringFull = false) :
    s.takeoverDecision = match s.silentFor with
      | none => s
      | some true =>
        if s.fov.partLost then s
        else ({ s with fov := { s.fov with partLost := true } }.irq .fov 1).ledger 0xEB01 2 (blkSrc .fov) s.watchSeg 0 0
      | some false =>
        if s.fov.st = 4 then s.decide'
        else if s.fov.blockedSent then s
        else ({ s with fov := { s.fov with blockedSent := true, st := 6 } }.irq .fov 4).fwEvent 0xFB03 (blkSrc .fov) (toLe 2 s.watchSeg ++ toLe 1 s.fov.block) :=
  if_neg (by simp [hs, hr, ht, hf])

section
variable {s : State} (hs : s.isStandby = true) (hr : s.runs .fov = true) (ht : s.fov.taking = none) (hf : s.ringFull = false)
include hs hr ht hf

theorem takeoverDecision_unsilent (h : s.silentFor = none) : exec .takeoverDecision s = .next s := by
  refine congrArg Host.Outcome.next ?_
  rw [State.takeoverDecision_standby hs hr ht hf, h]

theorem takeoverDecision_armed (h : s.silentFor = some false) (ha : s.fov.st = 4) : ∃ t n, exec .takeoverDecision s = .next t ∧ t.fov.st = 5 ∧
    t.fov.taking = some (s.tick, s.tick + n) ∧ 1 ≤ n ∧ n ≤ 180 ∧ t.rb (hdr .fov oRaw) 0 = true ∧ ChangesOnly (touches .takeoverDecision) s t := by
  have hx : exec .takeoverDecision s = .next s.decide' := by
    refine congrArg Host.Outcome.next ?_
    rw [State.takeoverDecision_standby hs hr ht hf, h]
    exact if_pos ha
  have hfov : s.decide'.fov = { s.fov with st := 5, taking := some (s.tick, s.tick + ((Config.freeBelow s.free 179).val + 1)) } := by
    rw [State.decide', State.irq_fov, State.draw_fov]
  refine ⟨_, (Config.freeBelow s.free 179).val + 1, hx, ?_, ?_, by omega, by have := (Config.freeBelow s.free 179).isLt; omega,
    State.irq_raises _ _ (by decide) (by decide), (exec_goes hx).1⟩ <;> rw [hfov]

theorem takeoverDecision_blocked (h : s.silentFor = some false) (ha : s.fov.st ≠ 4) (hb : s.fov.blockedSent = false) : ∃ t, exec .takeoverDecision s = .next t ∧
    t.fov.st = 6 ∧ t.fov.taking = none ∧ t.rb (hdr .fov oRaw) 4 = true ∧ ChangesOnly (touches .takeoverDecision) s t := by
  have hx : exec .takeoverDecision s = .next ((({ s with fov := { s.fov with blockedSent := true, st := 6 } } : State).irq .fov 4).fwEvent 0xFB03 (blkSrc .fov)
      (toLe 2 s.watchSeg ++ toLe 1 s.fov.block)) := by
    refine congrArg Host.Outcome.next ?_
    rw [State.takeoverDecision_standby hs hr ht hf, h]
    exact (if_neg ha).trans (if_neg (by simp [hb]))
  refine ⟨_, hx, ?_, ?_, (State.rb_congr (State.fwEvent_pages _ _ _ _ _ (by decide)) 4).trans (State.irq_raises _ _ (by decide) (by decide)), (exec_goes hx).1⟩ <;>
    rw [State.fwEvent_fov, State.irq_fov]
  exact ht

theorem takeoverDecision_partnerLost (h : s.silentFor = some true) (hp : s.fov.partLost = false) : ∃ t, exec .takeoverDecision s = .next t ∧
    t.fov.partLost = true ∧ t.fov.taking = none ∧ t.rb (hdr .fov oRaw) 1 = true ∧ ChangesOnly (touches .takeoverDecision) s t := by
  have hx : exec .takeoverDecision s = .next ((({ s with fov := { s.fov with partLost := true } } : State).irq .fov 1).ledger 0xEB01 2 (blkSrc .fov) s.watchSeg 0 0) := by
    refine congrArg Host.Outcome.next ?_
    rw [State.takeoverDecision_standby hs hr ht hf, h]
    exact if_neg (by simp [hp])
  refine ⟨_, hx, ?_, ?_, State.irq_ledger_raw _ (by decide) (by decide) _ _ _ _ _ _, (exec_goes hx).1⟩ <;> rw [State.ledger_fov, State.irq_fov]
  exact ht

theorem takeoverDecision_reported (h : (s.silentFor = some true ∧ s.fov.partLost = true) ∨ (s.silentFor = some false ∧ s.fov.st ≠ 4 ∧ s.fov.blockedSent = true)) :
    exec .takeoverDecision s = .next s := by
  refine congrArg Host.Outcome.next ?_
  rw [State.takeoverDecision_standby hs hr ht hf]
  rcases h with ⟨h, hp⟩ | ⟨h, ha, hb⟩
  · rw [h]
    exact if_pos hp
  · rw [h]
    exact (if_neg ha).trans (if_pos hb)

end

theorem takeoverDecision_idle (s : State) (h : s.isStandby = false ∨ s.runs .fov = false ∨ s.fov.taking.isSome = true ∨ s.ringFull = true) :
    exec .takeoverDecision s = .next s :=
  congrArg Host.Outcome.next (if_pos (by rcases h with h | h | h | h <;> simp [h]))

/-! ### Checkpoints (R433, R434) -/

/-- The state in which a capture forms its image: a checkpoint still unanswered is counted as failed (R434). -/
def State.captureFrom (s : State) : State := if s.fov.tx.isSome then s.bumpSat R.fov_CKPT_FAIL 1 else s

theorem State.captureFrom_sf (s : State) : s.captureFrom.sf = s.sf := by
  unfold State.captureFrom
  split
  · exact State.sf_same (s.bumpSat_rd_ne 1 (by decide)) rfl
  · rfl

/-- The checkpoint of a capture names its standby, its superframe and its numbers, and all its chunks are to be sent. -/
theorem State.capture_tx (s : State) (q : Nat × Nat × Nat) : ∃ k, (s.capture q).fov.tx = some k ∧ k.dest = q.1 ∧ k.sf = s.sf ∧ k.full = (s.capture q).fov.full ∧
    k.incr = (s.capture q).fov.incr ∧ k.todo = List.range k.chunks.length ∧ (s.capture q).fov.want = false :=
  ⟨_, rfl, rfl, s.captureFrom_sf, rfl, rfl, rfl, rfl⟩

theorem checkpointCapture_due (q : Nat × Nat × Nat) (s : State) (ha : s.activeHead = true) (ht : s.takes .fov = true) (hh : s.holds = true) (hk : s.tick % 256 = 128)
    (hf : s.sf % 64 = 0) : (s.standbyNow = some q → ∃ t k, exec .checkpointCapture s = .next t ∧ t = s.capture q ∧ t.fov.tx = some k ∧ k.dest = q.1 ∧ k.sf = s.sf ∧
      k.full = t.fov.full ∧ k.incr = t.fov.incr ∧ k.todo = List.range k.chunks.length ∧ t.fov.want = false) ∧
    (s.standbyNow = none → exec .checkpointCapture s = .next s) := by
  have hx : exec .checkpointCapture s = .next (match s.standbyNow with | some q => s.capture q | none => s) := congrArg Host.Outcome.next (if_neg (by simp [ha, ht, hh, hk, hf]))
  refine ⟨fun h => ?_, fun h => by rw [hx, h]⟩
  rw [h] at hx
  obtain ⟨k, hk⟩ := s.capture_tx q
  exact ⟨_, k, hx, rfl, hk⟩

theorem checkpointCapture_idle (s : State) (h : s.activeHead = false ∨ s.takes .fov = false ∨ s.holds = false ∨ s.tick % 256 ≠ 128 ∨ s.sf % 64 ≠ 0) :
    exec .checkpointCapture s = .next s :=
  congrArg Host.Outcome.next (if_pos (by rcases h with h | h | h | h | h <;> simp [h]))

/-! ### A standby takes chunks (R434, R435) -/

section
variable (s : State)

theorem State.ckAck_inbox (a : CkAsm) (ok : Bool) : (s.ckAck a ok).ibg.inbox = s.ibg.inbox := by
  obtain ⟨n, hn⟩ : ∃ n, (s.ckAck a ok).ibg = { s.ibg with sent := n } := State.ringOut_ibg _ _
  rw [hn]

theorem State.applyFull_ibg (img : Bytes) : (s.applyFull img).1.ibg = s.ibg :=
  (goes_applyFull s img rfl (.refl [.regs, .out, .mbx, .ldg, .nvs, .fov, .pba] s)).1 .ibg (by decide)

theorem State.applyIncr_ibg (a : CkAsm) : (s.applyIncr a).1.ibg = s.ibg :=
  (goes_applyIncr s a rfl (.refl [.regs, .out, .mbx, .ldg, .nvs, .fov, .pba] s)).1 .ibg (by decide)

/-- The checkpoint that a chunk belongs to, with the chunk: the one under way, or a new one. -/
def State.chunkPut (p : Bytes) : CkAsm :=
  let a0 : CkAsm := ⟨le p 0 2, le p 2 2, le p 6 2, (s.tick - 128) / 16384 * 64, [], decide (byteAt p 8 = 1), le p 6 2 - 1⟩
  let a := match s.fov.asm with | some a => if a.full = le p 0 2 ∧ a.incr = le p 2 2 then a else a0 | none => a0
  { a with got := Sparse.put a.got (le p 4 2) (p.drop 9) }

/-- The state with a checkpoint under way, as a standby. -/
def State.withAsm (a : CkAsm) : State := { s with fov := { s.fov with asm := some a } }

/-- What a whole checkpoint does: it is applied, and then acknowledged. -/
def State.ckDone (a : CkAsm) : State :=
  let r := if a.whole then s.applyFull a.joined else s.applyIncr a
  if r.2 then ({ r.1 with fov := { r.1.fov with asm := none } } : State).ckAck a true else r.1

theorem State.takeChunk_eq (p : Bytes) : s.takeChunk p =
    if (s.chunkPut p).missing.isEmpty then (s.withAsm (s.chunkPut p)).ckDone (s.chunkPut p)
    else if le p 4 2 = (s.chunkPut p).last then
      ((s.withAsm (s.chunkPut p)).withAsm { s.chunkPut p with last := (s.chunkPut p).missing.foldl max 0 }).ckAck (s.chunkPut p) false
    else s.withAsm (s.chunkPut p) := rfl

theorem State.ckDone_inbox (a : CkAsm) : (s.ckDone a).ibg.inbox = s.ibg.inbox := by
  unfold State.ckDone
  extract_lets r
  have hr : r.1.ibg = s.ibg := by
    show (if a.whole then s.applyFull a.joined else s.applyIncr a).1.ibg = s.ibg
    split
    · exact s.applyFull_ibg _
    · exact s.applyIncr_ibg _
  split
  · exact (State.ckAck_inbox _ a true).trans (congrArg Ibg.inbox hr)
  · exact congrArg Ibg.inbox hr

theorem State.takeChunk_inbox (p : Bytes) : (s.takeChunk p).ibg.inbox = s.ibg.inbox := by
  rw [State.takeChunk_eq]
  split
  · exact State.ckDone_inbox (s.withAsm (s.chunkPut p)) _
  · split
    · exact State.ckAck_inbox ((s.withAsm (s.chunkPut p)).withAsm { s.chunkPut p with last := (s.chunkPut p).missing.foldl max 0 }) _ _
    · rfl

end

theorem ckptData_partner (x : RingRx) (t s : State) (h : s.ringTake 0x10 = some (x, t)) (hs : t.isStandby = true) (ht : t.takes .fov = true)
    (hp : t.fov.partner = some x.spos) : ∃ u, exec .ckptData s = .next u ∧ u = t.takeChunk x.pay ∧ u.ibg.inbox = s.ibg.inbox.erase x := by
  have hx : exec .ckptData s = .next (t.takeChunk x.pay) := by
    refine congrArg Host.Outcome.next ((State.onRing_some _ h).trans (if_pos ?_))
    simp [hs, ht, hp]
  exact ⟨_, hx, rfl, (State.takeChunk_inbox t _).trans (State.ringTake_inbox h)⟩

theorem ckptData_other (x : RingRx) (t s : State) (h : s.ringTake 0x10 = some (x, t)) (hn : t.isStandby = false ∨ t.takes .fov = false ∨ t.fov.partner ≠ some x.spos) :
    exec .ckptData s = .next t := by
  refine congrArg Host.Outcome.next ((State.onRing_some _ h).trans (if_neg ?_))
  rcases hn with hn | hn | hn
  · simp [hn]
  · simp [hn]
  · simp [Ne.symm hn]

/-- A chunk alone of two or more leaves some missing. -/
theorem missing_nonempty {a : CkAsm} {i : Nat} {b : Bytes} (hn : 2 ≤ a.n) (hg : a.got = Sparse.put [] i b) : a.missing.isEmpty = false := by
  obtain ⟨j, hj, hji⟩ : ∃ j, j < a.n ∧ j ≠ i := by
    by_cases h : i = 0
    · exact ⟨1, by omega, by omega⟩
    · exact ⟨0, by omega, by omega⟩
  have hm : j ∈ a.missing := List.mem_filter.mpr ⟨List.mem_range.mpr hj, by rw [hg, Sparse.find_put_ne _ _ hji]; rfl⟩
  cases hl : a.missing with
  | nil => rw [hl] at hm; cases hm
  | cons _ _ => rfl

theorem takeChunk_first (p : Bytes) (s : State) (ha : s.fov.asm = none) (hn : 2 ≤ le p 6 2) (hi : le p 4 2 ≠ le p 6 2 - 1) : s.takeChunk p =
    { s with fov := { s.fov with asm := some ⟨le p 0 2, le p 2 2, le p 6 2, (s.tick - 128) / 16384 * 64, Sparse.put [] (le p 4 2) (p.drop 9), decide (byteAt p 8 = 1),
      le p 6 2 - 1⟩ } } := by
  have hc : s.chunkPut p = ⟨le p 0 2, le p 2 2, le p 6 2, (s.tick - 128) / 16384 * 64, Sparse.put [] (le p 4 2) (p.drop 9), decide (byteAt p 8 = 1), le p 6 2 - 1⟩ := by
    unfold State.chunkPut
    rw [ha]
  rw [State.takeChunk_eq, hc, if_neg (by rw [missing_nonempty hn rfl]; decide), if_neg hi]
  rfl

/-! ### The answer, and the end of a checkpoint without one (R434) -/

/-- The chunks that an acknowledgement asks for again, of those not yet to be sent. -/
def CkTx.again (k : CkTx) (pay : Bytes) : List Nat :=
  ((List.range k.chunks.length).filter fun i => tst (w32 (byteAt pay (5 + i / 8))) (i % 8)).filter fun i => !k.todo.contains i

theorem CkTx.mem_again (k : CkTx) (pay : Bytes) (i : Nat) :
    (i ∈ k.todo ∨ i ∈ k.again pay) ↔ (i ∈ k.todo ∨ (i < k.chunks.length ∧ tst (w32 (byteAt pay (5 + i / 8))) (i % 8) = true)) := by
  by_cases h : i ∈ k.todo <;> simp [CkTx.again, h]

/-- What an acknowledgement does to a module that sends a checkpoint. -/
def State.ckAnswered (t : State) (x : RingRx) (k : CkTx) : State :=
  if le x.pay 0 2 ≠ k.full ∨ le x.pay 2 2 ≠ k.incr ∨ x.spos ≠ k.dest then t
  else if byteAt x.pay 4 = 1 then ({ t with fov := { t.fov with tx := none } } : State).bumpSat R.fov_CKPT_SENT 1
  else { t with fov := { t.fov with tx := some { k with todo := k.todo ++ k.again x.pay } } }

theorem exec_ckptAck {x : RingRx} {t s : State} {k : CkTx} (h : s.ringTake 0x11 = some (x, t)) (hk : t.fov.tx = some k) :
    exec .ckptAck s = .next (t.ckAnswered x k) := by
  refine congrArg Host.Outcome.next ((State.onRing_some _ h).trans ?_)
  rw [hk]
  rfl

theorem ckptAck_answers (x : RingRx) (k : CkTx) (t s : State) (h : s.ringTake 0x11 = some (x, t)) (hk : t.fov.tx = some k) (hf : le x.pay 0 2 = k.full)
    (hi : le x.pay 2 2 = k.incr) (hd : x.spos = k.dest) :
    (byteAt x.pay 4 = 1 → (∃ u, exec .ckptAck s = .next u ∧ u = { t with fov := { t.fov with tx := none } }.bumpSat R.fov_CKPT_SENT 1 ∧ u.fov.tx = none ∧
      u.rd R.fov_CKPT_SENT = satAdd (t.rd R.fov_CKPT_SENT) 1)) ∧
    (byteAt x.pay 4 ≠ 1 → ∃ l, exec .ckptAck s = .next { t with fov := { t.fov with tx := some { k with todo := k.todo ++ l } } } ∧
      ∀ i, (i ∈ k.todo ∨ i ∈ l) ↔ (i ∈ k.todo ∨ (i < k.chunks.length ∧ tst (w32 (byteAt x.pay (5 + i / 8))) (i % 8) = true))) := by
  have hx := exec_ckptAck h hk
  rw [State.ckAnswered, if_neg (by simp [hf, hi, hd])] at hx
  refine ⟨fun hb => ?_, fun hb => ?_⟩
  · rw [if_pos hb] at hx
    refine ⟨_, hx, rfl, rfl, ?_⟩
    rw [State.bumpSat_rd_same]
    exact congrArg (satAdd · 1) (State.rd_congr rfl rfl _)
  · rw [if_neg hb] at hx
    exact ⟨_, hx, k.mem_again x.pay⟩

theorem ckptAck_other (x : RingRx) (t s : State) (h : s.ringTake 0x11 = some (x, t))
    (hn : ∀ k, t.fov.tx = some k → le x.pay 0 2 ≠ k.full ∨ le x.pay 2 2 ≠ k.incr ∨ x.spos ≠ k.dest) : exec .ckptAck s = .next t := by
  cases hk : t.fov.tx with
  | none =>
    refine congrArg Host.Outcome.next ((State.onRing_some _ h).trans ?_)
    rw [hk]
  | some k =>
    rw [exec_ckptAck h hk, State.ckAnswered, if_pos (hn k hk)]

/-- The head's part of the abandonment of a checkpoint. -/
def State.txAbandon (s : State) : State :=
  match s.fov.tx with
  | some t => if s.ckOld t.sf then ({ s with fov := { s.fov with tx := none } } : State).bumpSat R.fov_CKPT_FAIL 1 else s
  | none => s

/-- The standby's part of the abandonment of a checkpoint. -/
def State.asmAbandon (s : State) : State :=
  match s.fov.asm with
  | some a => if s.ckOld a.sf then ({ s with fov := { s.fov with asm := none } } : State).bumpSat R.fov_CKPT_FAIL 1 else s
  | none => s

theorem exec_checkpointAbandon (s : State) : exec .checkpointAbandon s = .next s.txAbandon.asmAbandon := rfl

theorem State.asmAbandon_none {s : State} (h : s.fov.asm = none) : s.asmAbandon = s := by
  rw [State.asmAbandon, h]

theorem State.txAbandon_none {s : State} (h : s.fov.tx = none) : s.txAbandon = s := by
  rw [State.txAbandon, h]

theorem State.failCounted (s : State) (f : Fov) :
    (({ s with fov := f } : State).bumpSat R.fov_CKPT_FAIL 1).rd R.fov_CKPT_FAIL = satAdd (s.rd R.fov_CKPT_FAIL) 1 := by
  rw [State.bumpSat_rd_same]
  exact congrArg (satAdd · 1) (State.rd_congr rfl rfl _)

theorem checkpointAbandon_sending (k : CkTx) (s : State) (hk : s.fov.tx = some k) (ha : s.fov.asm = none) : ((k.sf + 64) * 256 + 128 ≤ s.tick →
      ∃ t, exec .checkpointAbandon s = .next t ∧ t = ({ s with fov := { s.fov with tx := none } } : State).bumpSat R.fov_CKPT_FAIL 1 ∧ t.fov.tx = none ∧
      t.rd R.fov_CKPT_FAIL = satAdd (s.rd R.fov_CKPT_FAIL) 1) ∧
    (s.tick < (k.sf + 64) * 256 + 128 → exec .checkpointAbandon s = .next s) := by
  have ht : s.txAbandon = if s.ckOld k.sf then ({ s with fov := { s.fov with tx := none } } : State).bumpSat R.fov_CKPT_FAIL 1 else s := by rw [State.txAbandon, hk]
  refine ⟨fun h => ?_, fun h => ?_⟩
  · rw [if_pos (show s.ckOld k.sf = true from decide_eq_true h)] at ht
    have hx := exec_checkpointAbandon s
    rw [ht, State.asmAbandon_none (s := ({ s with fov := { s.fov with tx := none } } : State).bumpSat R.fov_CKPT_FAIL 1) ha] at hx
    exact ⟨_, hx, rfl, rfl, s.failCounted _⟩
  · rw [if_neg (by simp [State.ckOld, h])] at ht
    rw [exec_checkpointAbandon, ht, State.asmAbandon_none ha]

theorem checkpointAbandon_taking (a : CkAsm) (s : State) (hk : s.fov.tx = none) (ha : s.fov.asm = some a) : ((a.sf + 64) * 256 + 128 ≤ s.tick →
      ∃ t, exec .checkpointAbandon s = .next t ∧ t = ({ s with fov := { s.fov with asm := none } } : State).bumpSat R.fov_CKPT_FAIL 1 ∧ t.fov.asm = none ∧
      t.rd R.fov_CKPT_FAIL = satAdd (s.rd R.fov_CKPT_FAIL) 1) ∧
    (s.tick < (a.sf + 64) * 256 + 128 → exec .checkpointAbandon s = .next s) := by
  have ht : s.asmAbandon = if s.ckOld a.sf then ({ s with fov := { s.fov with asm := none } } : State).bumpSat R.fov_CKPT_FAIL 1 else s := by rw [State.asmAbandon, ha]
  have hx := exec_checkpointAbandon s
  rw [State.txAbandon_none hk, ht] at hx
  refine ⟨fun h => ?_, fun h => ?_⟩
  · rw [if_pos (show s.ckOld a.sf = true from decide_eq_true h)] at hx
    exact ⟨_, hx, rfl, rfl, s.failCounted _⟩
  · rw [if_neg (by simp [State.ckOld, h])] at hx
    exact hx

theorem checkpointAbandon_none (s : State) (hk : s.fov.tx = none) (ha : s.fov.asm = none) : exec .checkpointAbandon s = .next s := by
  rw [exec_checkpointAbandon, State.txAbandon_none hk, State.asmAbandon_none ha]

/-! ### Arming keeps what the others ask of it (R430) -/

/-- The state of FOV with the result of the arming conditions. -/
def State.armNoted (s : State) (b : Nat) : State :=
  { s with fov := { s.fov with block := b, st := if b = 0 then 4 else if s.fov.blockedSent then 6 else 3 } }

theorem State.rearm_eq (s : State) : s.rearm =
    if !s.isStandby || !s.runs .fov || s.fov.taking.isSome then s
    else if s.armBlock = 0 && !decide (s.fov.st = 4) then
      (s.armNoted s.armBlock).fwEvent 0xFB04 (blkSrc .fov) (toLe 2 (s.armNoted s.armBlock).watchSeg ++
        (match (s.armNoted s.armBlock).img with | some h => slice h hFull 4 | none => zeros 4))
    else s.armNoted s.armBlock := rfl

theorem State.rearm_pages (s : State) : PagesOnly [0x2A, 0x2E] s s.rearm := by
  have hn : PagesOnly [0x2A, 0x2E] s (s.armNoted s.armBlock) := .set rfl rfl
  rw [State.rearm_eq]
  exact .ite (.refl _ s) (.ite (hn.trans (State.fwEvent_pages _ _ _ _)) hn)

theorem State.rearm_autoArm (s : State) : s.rearm.fov.autoArm = s.fov.autoArm := by
  have hn : (s.armNoted s.armBlock).fov.autoArm = s.fov.autoArm := rfl
  rw [State.rearm_eq]
  split
  · rfl
  · split
    · rw [State.fwEvent_fov, hn]
    · exact hn

theorem State.rearm_net (s : State) : s.rearm.net = s.net := (goes_rearm s rfl (.refl [.regs, .out, .mbx, .ldg, .fov, .pba] s)).1 .net (by decide)

theorem State.rearm_watchSeg (s : State) : s.rearm.watchSeg = s.watchSeg := State.rf_congr (s.rearm_pages _ (by decide)) 0 16

/-! ### A head found elsewhere steps back (R439) -/

/-- The registers of a module that takes the role of a standby: its role, and no beacons. -/
def State.roleSet (s : State) : State := ((s.wf R.rst_ROLE 0 2 3).wb R.rst_ROLE 6 true).wb R.bcn_BCN_CFG 0 false

/-- A module without a segment of its own. -/
def State.segLeft (s : State) : State :=
  { s with net := { s.net with seg := 0, index := 0 }, bcn := { s.bcn with headSfs := [], built := none } }

/-- The role of a standby for a segment, as the registers and the network hold it. -/
def State.standbyRole (s : State) (seg : Nat) : State := (s.roleSet.segLeft.wr R.fov_FOV_CFG (w32 seg)).srcByRole

theorem State.enterStandby_role (s : State) (seg : Nat) : ∃ t : State, s.enterStandby seg = t.standbyRole seg := ⟨_, rfl⟩

theorem State.srcByRole_rd (s : State) {a : Nat} (h : a ≠ R.ntm_NTM_CFG) : s.srcByRole.rd a = s.rd a := s.wf_rd_ne _ _ _ h

theorem State.srcByRole_net (s : State) : s.srcByRole.net = s.net := (goes_srcByRole s rfl (.refl [.regs] s)).1 .net (by decide)

theorem State.roleSet_role (s : State) : s.roleSet.role = 3 := by
  refine (State.rf_congr (State.wb_rd_ne _ _ _ (by decide)) 0 2).trans ?_
  exact (State.wb_rf_ne _ _ _ (by decide)).trans (State.wf_rf_same _ _ _ (by decide))

theorem State.standbyRole_role (s : State) (seg : Nat) : (s.standbyRole seg).role = 3 := by
  refine (State.rf_congr ?_ 0 2).trans s.roleSet_role
  rw [State.standbyRole, State.srcByRole_rd _ (by decide), State.rd_wr_ne _ _ (by decide)]
  exact State.rd_congr rfl rfl _

theorem State.standbyRole_watchSeg (s : State) (seg : Nat) : (s.standbyRole seg).watchSeg = seg % 65536 := by
  rw [State.watchSeg, State.rf, State.standbyRole, State.srcByRole_rd _ (by decide), State.rd_wr_same]
  simp only [fld, w32, BitVec.toNat_ofNat]
  omega

theorem State.standbyRole_net (s : State) (seg : Nat) : (s.standbyRole seg).net.seg = 0 ∧ (s.standbyRole seg).net.index = 0 := by
  rw [State.standbyRole, State.srcByRole_net, State.wr_net]
  exact ⟨rfl, rfl⟩

/-- What FOV holds of a head that steps back. -/
def State.fovHeld (s : State) : State :=
  { s with fov := { s.fov with probe := none, autoArm := true, pair := none, tx := none, silA := 0, silB := 0, st := 3 } }

/-- The interrupt and the record of a head that steps back. -/
def State.demoteNoted (s : State) (seg : Nat) : State := (s.fovHeld.irq .fov 5).ledger 0xEB02 1 (blkSrc .fov) seg 0 0

theorem State.demote_eq (s : State) : s.demote = ((s.enterStandby s.net.seg).demoteNoted s.net.seg).rearm := rfl

theorem State.demoteNoted_rd (s : State) (seg : Nat) {a : Nat} (ha : PastHeader a) (h : a / 0x1000 ∉ [0x2A]) : (s.demoteNoted seg).rd a = s.rd a := by
  rw [State.demoteNoted, State.ledger_pages _ _ _ _ _ _ _ _ h, State.irq_rd_past _ _ _ ha]
  exact State.rd_congr rfl rfl a

theorem State.demoteNoted_net (s : State) (seg : Nat) : (s.demoteNoted seg).net = s.net := by
  rw [State.demoteNoted, State.ledger_net, State.irq_net]
  rfl

theorem State.demoteNoted_autoArm (s : State) (seg : Nat) : (s.demoteNoted seg).fov.autoArm = true := by
  rw [State.demoteNoted, State.ledger_fov, State.irq_fov]
  rfl

theorem State.demote_standby (s : State) : s.demote.isStandby = true ∧ s.demote.watchSeg = s.net.seg % 65536 ∧ s.demote.net.seg = 0 ∧ s.demote.net.index = 0 ∧
    s.demote.fov.autoArm = true ∧ s.demote.rb (hdr .fov oRaw) 5 = true := by
  obtain ⟨t, ht⟩ := s.enterStandby_role s.net.seg
  rw [State.demote_eq, ht]
  generalize s.net.seg = seg
  have hn : ((t.standbyRole seg).demoteNoted seg).rearm.net = (t.standbyRole seg).net := (State.rearm_net _).trans (State.demoteNoted_net _ _)
  obtain ⟨hs, hi⟩ := t.standbyRole_net seg
  refine ⟨?_, ?_, by rw [hn, hs], by rw [hn, hi], (State.rearm_autoArm _).trans (State.demoteNoted_autoArm _ _), ?_⟩
  · refine decide_eq_true (((State.rf_congr (State.rearm_pages _ _ (by decide)) 0 2).trans (State.rf_congr ?_ 0 2)).trans (t.standbyRole_role seg))
    exact State.demoteNoted_rd _ _ (by decide) (by decide)
  · refine ((State.rearm_watchSeg _).trans (State.rf_congr ?_ 0 16)).trans (t.standbyRole_watchSeg seg)
    exact State.demoteNoted_rd _ _ (by decide) (by decide)
  · exact (State.rb_congr (State.rearm_pages _ _ (by decide)) 5).trans (State.irq_ledger_raw _ (by decide) (by decide) _ _ _ _ _ _)

theorem demotionCheck_demotes (s : State) (hh : s.isHead = true) (hr : s.inReset .fov = false) (hn : s.net.seg ≠ 0) (ht : s.segTaken = true) :
    ∃ t, exec .demotionCheck s = .next t ∧ t.isStandby = true ∧ t.watchSeg = s.net.seg % 65536 ∧ t.net.seg = 0 ∧ t.net.index = 0 ∧ t.fov.autoArm = true ∧
      t.rb (hdr .fov oRaw) 5 = true ∧ ChangesOnly (touches .demotionCheck) s t := by
  have hx : exec .demotionCheck s = .next s.demote := congrArg Host.Outcome.next (if_pos (by simp [hh, hr, hn, ht]))
  obtain ⟨h1, h2, h3, h4, h5, h6⟩ := s.demote_standby
  exact ⟨_, hx, h1, h2, h3, h4, h5, h6, (exec_goes hx).1⟩

theorem demotionCheck_idle (s : State) (h : s.segTaken = false ∨ s.isHead = false ∨ s.inReset .fov = true ∨ s.net.seg = 0) : exec .demotionCheck s = .next s :=
  congrArg Host.Outcome.next (if_neg (by rcases h with h | h | h | h <;> simp [h]))

/-! ### FOV_CFG, the wish for a full checkpoint, and the release (R430, R433, R438) -/

theorem State.err_watchSeg (s : State) (code off : Nat) (m : Master) : ((s.err .fov code off m).answer .done).watchSeg = s.watchSeg :=
  State.rf_congr (State.err_rd_past _ _ _ _ _ (by decide)) 0 16

/-- The write that FOV_CFG takes. -/
theorem State.fovCfg_takes {s : State} (m : Master) {v : Word} (hk : s.fov.kept.isSome = true → fld v 0 16 = s.watchSeg) (hi : tst v 16 = true → s.img ≠ none) :
    s.fovCfg m v = (s.wr R.fov_FOV_CFG (v &&& 0x1FFFF)).rearm := by
  refine (if_neg ?_).trans (if_neg ?_)
  · simpa using hk
  · simpa [Option.isNone_iff_eq_none] using hi

theorem fld_seg (v : Word) : fld (v &&& 0x1FFFF) 0 16 = fld v 0 16 := by
  have h : (v &&& 0x1FFFF : Word).toNat = v.toNat % 2 ^ 17 := by
    rw [BitVec.toNat_and]
    exact Nat.and_two_pow_sub_one_eq_mod v.toNat 17
  simp only [fld, h]
  omega

theorem State.wr_watchSeg (s : State) (v : Word) : (s.wr R.fov_FOV_CFG v).rearm.watchSeg = fld v 0 16 := by
  rw [State.rearm_watchSeg, State.watchSeg, State.rf, State.rd_wr_same]

theorem fovCfgWrite_judged (m : Master) (v : Word) (s : State) (h : PageOpen s .fov m) :
    (s.fov.kept.isSome = true → fld v 0 16 ≠ s.watchSeg → (∃ t, exec (.fovCfgWrite m v) s = .next t ∧ t = (s.err .fov 0x81 0x40 m).answer .done ∧ t.fov = s.fov ∧
      t.watchSeg = s.watchSeg)) ∧
    ((s.fov.kept.isSome = true → fld v 0 16 = s.watchSeg) → tst v 16 = true → s.img = none → (∃ t, exec (.fovCfgWrite m v) s = .next t ∧
      t = (s.err .fov 0x80 0x40 m).answer .done ∧ t.fov = s.fov ∧ t.watchSeg = s.watchSeg)) ∧
    ((s.fov.kept.isSome = true → fld v 0 16 = s.watchSeg) → (tst v 16 = true → s.img ≠ none) →
      (∃ t, exec (.fovCfgWrite m v) s = .next t ∧ t = (s.wr R.fov_FOV_CFG (v &&& 0x1FFFF)).rearm.answer .done ∧ t.watchSeg = fld v 0 16 ∧ t.resp = .done)) := by
  have hx : exec (.fovCfgWrite m v) s = .next ((s.fovCfg m v).answer .done) := congrArg Host.Outcome.next (State.writeAt_open h _ _ _)
  refine ⟨fun hk hne => ?_, fun hk ht hi => ?_, fun hk hi => ?_⟩
  · have hc : s.fovCfg m v = s.err .fov 0x81 0x40 m := if_pos (by simp [hk, hne])
    rw [hc] at hx
    exact ⟨_, hx, rfl, State.err_fov _ _ _ _ _, s.err_watchSeg _ _ _⟩
  · have hc : s.fovCfg m v = s.err .fov 0x80 0x40 m := (if_neg (by simpa using hk)).trans (if_pos (by simp [ht, hi]))
    rw [hc] at hx
    exact ⟨_, hx, rfl, State.err_fov _ _ _ _ _, s.err_watchSeg _ _ _⟩
  · rw [State.fovCfg_takes m hk hi] at hx
    refine ⟨_, hx, rfl, ?_, rfl⟩
    exact (State.wr_watchSeg s _).trans (fld_seg v)

theorem ckptFull_wishes (m : Master) (s : State) (h : PageOpen s .fov m) :
    ∃ t, exec (.ckptFull m) s = .next t ∧ t = { s with fov := { s.fov with want := true } }.answer .done ∧ t.fov.want = true :=
  ⟨_, congrArg Host.Outcome.next (State.writeAt_open h _ _ _), rfl, rfl⟩

theorem fovRelease_write (m : Master) (v : Word) (s : State) (h : PageOpen s .fov m) :
    (fld v 16 16 ≠ 0x5EED → (∃ t, exec (.fovRelease (.reg m v)) s = .next t ∧ t = (s.err .fov eBadKey 0x6C m).answer .done ∧ t.fov = s.fov)) ∧
    (fld v 16 16 = 0x5EED → tst v 0 = true → (∃ t, exec (.fovRelease (.reg m v)) s = .next t ∧ t = { s with fov := { s.fov with release := true } }.answer .done ∧
      t.fov.release = true ∧ t.resp = .done)) ∧
    (fld v 16 16 = 0x5EED → tst v 0 = false → (∃ t, exec (.fovRelease (.reg m v)) s = .next t ∧ t = s.answer .done ∧ t.fov = s.fov)) := by
  have hx : exec (.fovRelease (.reg m v)) s = .next ((s.fovRelease m v).answer .done) := congrArg Host.Outcome.next (State.writeAt_open h _ _ _)
  refine ⟨fun hk => ?_, fun hk ht => ?_, fun hk ht => ?_⟩
  · rw [show s.fovRelease m v = s.err .fov eBadKey 0x6C m from if_pos hk] at hx
    exact ⟨_, hx, rfl, State.err_fov _ _ _ _ _⟩
  · rw [show s.fovRelease m v = s.releaseRole from (if_neg (not_not_intro hk)).trans (if_pos ht)] at hx
    exact ⟨_, hx, rfl, rfl, rfl⟩
  · rw [show s.fovRelease m v = s from (if_neg (not_not_intro hk)).trans (if_neg (by simp [ht]))] at hx
    exact ⟨_, hx, rfl, rfl⟩

theorem replied_fov {i : Instr} {s u : State} {k : Cmd} {st : Nat} {p d : Bytes} (hx : exec i s = .next (u.reply k st p d)) :
    ∃ t, exec i s = .next t ∧ t = u.reply k st p d ∧ t.fov = u.fov ∧ Ended k t := ⟨_, hx, rfl, State.reply_fov _ _ _ _ _, State.reply_ended _ _ _ _ _⟩

theorem fovRelease_commanded (tag : Word) (k : Cmd) (s : State) (h : Ready s 0x0B05 tag k) :
    ∃ t, exec (.fovRelease (.mbx tag)) s = .next t ∧ t = { s with fov := { s.fov with release := true } }.reply k stOk [] [] ∧ t.fov.release = true ∧ Ended k t := by
  have hx : exec (.fovRelease (.mbx tag)) s = .next (({ s with fov := { s.fov with release := true } } : State).reply k stOk [] []) :=
    congrArg Host.Outcome.next (State.withCmd_ready h _)
  obtain ⟨t, ht, he, hf, hd⟩ := replied_fov hx
  exact ⟨t, ht, he, by rw [hf], hd⟩

theorem ckptNow_commanded (tag : Word) (k : Cmd) (s : State) (h : Ready s 0x0B04 tag k) :
    ∃ t, exec (.ckptNow tag) s = .next t ∧ t = { s with fov := { s.fov with want := true } }.reply k stOk [] [] ∧ t.fov.want = true ∧ Ended k t := by
  have hx : exec (.ckptNow tag) s = .next (({ s with fov := { s.fov with want := true } } : State).reply k stOk [] []) :=
    congrArg Host.Outcome.next (State.withCmd_ready h _)
  obtain ⟨t, ht, he, hf, hd⟩ := replied_fov hx
  exact ⟨t, ht, he, by rw [hf], hd⟩

/-- The answer to FOV_SET. -/
def State.fovSetEnd (t : State) (k : Cmd) : State :=
  if 1 < k.par 2 1 then t.reply k stBadParam [] []
  else if t.inReset .fov then t.reply k stBusy [] []
  else if t.fov.kept.isSome && decide (k.par 0 2 ≠ t.watchSeg) then t.reply k stFault (toLe 1 0x81) []
  else if decide (k.par 2 1 = 1) && t.img.isNone then t.reply k stFault (toLe 1 0x80) []
  else ((t.wr R.fov_FOV_CFG (w32 (k.par 0 2 + k.par 2 1 * 2 ^ 16))).rearm).reply k stOk [] []

theorem exec_fovSet {tag : Word} {k : Cmd} {s : State} (h : Ready s 0x0B03 tag k) : exec (.fovSet tag) s = .next (s.fovSetEnd k) :=
  congrArg Host.Outcome.next (State.withCmd_ready h _)

theorem State.reply_watchSeg (s : State) (k : Cmd) (st : Nat) (p d : Bytes) : (s.reply k st p d).watchSeg = s.watchSeg :=
  State.rf_congr (s.reply_pages k st p d _ (by decide)) 0 16

theorem fld_segArm {a b : Nat} (h : a < 65536) : fld (w32 (a + b * 2 ^ 16)) 0 16 = a := by
  simp only [fld, w32, BitVec.toNat_ofNat]
  omega

theorem fovSet_judged (tag : Word) (k : Cmd) (s : State) (h : Ready s 0x0B03 tag k) :
    (1 < k.par 2 1 → (∃ t, exec (.fovSet tag) s = .next t ∧ t = s.reply k stBadParam [] [] ∧ Ended k t)) ∧
    (k.par 2 1 ≤ 1 → s.inReset .fov = true → (∃ t, exec (.fovSet tag) s = .next t ∧ t = s.reply k stBusy [] [] ∧ Ended k t)) ∧
    (k.par 2 1 ≤ 1 → s.inReset .fov = false → s.fov.kept.isSome = true → k.par 0 2 ≠ s.watchSeg → (∃ t, exec (.fovSet tag) s = .next t ∧
      t = s.reply k stFault (toLe 1 0x81) [] ∧ Ended k t)) ∧
    (k.par 2 1 = 1 → s.inReset .fov = false → (s.fov.kept.isSome = true → k.par 0 2 = s.watchSeg) → s.img = none → (∃ t, exec (.fovSet tag) s = .next t ∧
      t = s.reply k stFault (toLe 1 0x80) [] ∧ Ended k t)) ∧
    (k.par 2 1 ≤ 1 → s.inReset .fov = false → (s.fov.kept.isSome = true → k.par 0 2 = s.watchSeg) → (k.par 2 1 = 1 → s.img ≠ none) →
      (∃ t, exec (.fovSet tag) s = .next t ∧ t = (s.wr R.fov_FOV_CFG (w32 (k.par 0 2 + k.par 2 1 * 2 ^ 16))).rearm.reply k stOk [] [] ∧ t.watchSeg = k.par 0 2 ∧
        Ended k t)) := by
  have hx := exec_fovSet h
  refine ⟨fun hb => ?_, fun hb hr => ?_, fun hb hr hk hs => ?_, fun hb hr hk hi => ?_, fun hb hr hk hi => ?_⟩
  · exact replied_ends (hx.trans (congrArg Host.Outcome.next (if_pos hb)))
  · exact replied_ends (hx.trans (congrArg Host.Outcome.next ((if_neg (by omega)).trans (if_pos hr))))
  · rw [State.fovSetEnd, if_neg (by omega), if_neg (by simp [hr]), if_pos (by simp [hk, hs])] at hx
    exact replied_ends hx
  · rw [State.fovSetEnd, if_neg (by omega), if_neg (by simp [hr]), if_neg (by simpa using hk), if_pos (by simp [hb, hi])] at hx
    exact replied_ends hx
  · rw [State.fovSetEnd, if_neg (by omega), if_neg (by simp [hr]), if_neg (by simpa using hk), if_neg (by simpa [Option.isNone_iff_eq_none] using hi)] at hx
    obtain ⟨t, ht, he, hd⟩ := replied_ends hx
    refine ⟨t, ht, he, ?_, hd⟩
    rw [he, State.reply_watchSeg, State.wr_watchSeg, fld_segArm (Cmd.par_lt k 0 2)]

/-- Settles O57: each clause is what its command or its part of FOV does, by the lemma named after it. -/
theorem standbyWatchesTakesOverAndIsFed : Obligations.StandbyWatchesTakesOverAndIsFed := by
  refine ⟨⟨heartbeatSend_sends, standby_waitForNone, heartbeat_kept, beatHeard_onHead, beatHeard_onStandby, pathLost_raised, ?_, takeoverDecision_idle⟩,
    ⟨checkpointCapture_due, checkpointCapture_idle, ckptData_partner, ckptData_other, takeChunk_first, ckptAck_answers, ckptAck_other, checkpointAbandon_sending,
      checkpointAbandon_taking, checkpointAbandon_none, demotionCheck_demotes, demotionCheck_idle⟩,
    fovCfgWrite_judged, ckptFull_wishes, fovRelease_write, fovRelease_commanded, ckptNow_commanded, fovSet_judged⟩
  intro s hs hr ht hf
  exact ⟨takeoverDecision_unsilent hs hr ht hf, takeoverDecision_armed hs hr ht hf, takeoverDecision_blocked hs hr ht hf,
    takeoverDecision_partnerLost hs hr ht hf, takeoverDecision_reported hs hr ht hf⟩

end Sys2Proof.Machine
end
